-- ==== Sys2Proof/Word.lean ====
section
/-! DEFINITION. Words of the machine and the names its tables number (00 R4, 01 R18, 02 R49, 03 R37). -/

namespace Sys2Proof

/-- One byte; memory is byte-addressed and little-endian (R4). -/
abbrev Byte := BitVec 8
/-- One 32-bit element of a vector register (R21). -/
abbrev Lane32 := BitVec 32
/-- One 64-bit word: uniform registers, addresses, clause words (R21, R40). -/
abbrev Word := BitVec 64
/-- A live or active mask: bit L stands for lane L, that is bit l of word g with L = 32g + l (R18). -/
abbrev Mask := BitVec 1024

/-- Rounding modes, in the order of VA.RM (R49). -/
inductive Rnd where
  | rne | rz | ru | rd
  deriving DecidableEq, Repr

/-- The ten number formats, in the order of their codes 0 to 9 (Table 03-1, R70). -/
inductive Fmt where
  | fp32 | bf16 | fp16 | e4m3 | e5m2 | int8 | int4 | ts8 | int16 | int32
  deriving DecidableEq, Repr

/-- Scopes in the order of M.SCOPE (R49). -/
inductive Scope where
  | team | core | cluster | die | package | system
  deriving DecidableEq, Repr

/-- Clause classes 0 to 7 of Table 02-1 (R40). -/
inductive Cls where
  | vector | uniform | memory | copy | sync | accum | system | reeve
  deriving DecidableEq, Repr

/-- Roles of a team slot, in the order of their codes (Table 01-6, R30). -/
inductive Role where
  | general | copy | norm | reeve
  deriving DecidableEq, Repr

/-- Ordering kinds of a page, Table 08-3 (R234). -/
inductive OrdKind where
  | relcon | strong | unord
  deriving DecidableEq, Repr

end Sys2Proof
end

