-- ==== Sys2Proof/Config.lean ====
section
/-! DEFINITION. What is fixed for the device: the capability figures of Table 01-4, the sizes of 00 Table 00-2, and the
values the manual leaves to the device (keys, fuses, a signature's salt, and which of several is taken), which have no body. -/

namespace Sys2Proof.Config

/-- Highest encoding version decoded, sr.cap.version (R25). -/
def capVersion : Nat := 3
/-- Cores of a package, 4 dies of 12 (R3, R25). -/
def cores : Nat := 48
/-- Maximum lanes of a team (R25). -/
def maxLanes : Nat := 1024
/-- SRAM granules of 64 KiB of a core's pool (R25, R26). -/
def pool : Nat := 48
/-- Team slots of a core (R25). -/
def slots : Nat := 16
/-- Reeve slots of a core (R25). -/
def reeves : Nat := 4
/-- Range-lock entries of a core (R25, R137). -/
def rangeLocks : Nat := 64
/-- Sub-array wake latency in clocks (R25, R209). -/
def pressWake : Nat := 180
/-- Packages of a full pod (R343). -/
def maxPackages : Nat := 144
/-- Sets of a package's attraction memory (R3, R249). -/
def sets : Nat := 6291456
/-- Stacks of a package (R3). -/
def nStacks : Nat := 12
/-- Lines of 128 bytes that the cache of a core, of a die and of a package holds: 256 KiB, 64 MiB, 192 MiB (R3, R216; log 89). -/
def l1Lines : Nat := 2048
def l2Lines : Nat := 524288
def l3Lines : Nat := 1572864
/-- Entries of a core's TLB and of a package's second-level TLB (R246). -/
def tlbEntries : Nat := 4096
def tlb2Entries : Nat := 65536
/-- Issue slots of a core, and the clocks after which a candidate goes before every other (R308, R309; log 90). -/
def issueSlots : Nat := 2
def agedClocks : Nat := 65536
/-- Bytes of a page (R243). -/
def pageBytes : Nat := 65536
/-- Work queues of a package (R299). -/
def queues : Nat := 8192
/-- Sector requests a core holds in flight (R219). -/
def coreRequests : Nat := 4096
/-- Sector requests the replay queue holds (R265). -/
def replayEntries : Nat := 4096
/-- Records the pending-launch store holds (R175). -/
def pendingLaunches : Nat := 4096
/-- Ended teams and ended launches that stay known (R24, R176). -/
def knownTeams : Nat := 65535
def knownLaunches : Nat := 4096
/-- First GPN of the host pages (R359). -/
def hostGpn : Nat := 0xFF00000000
/-- Clocks of one microsecond (R299) and of one millisecond (R304). -/
def clocksPerUs : Nat := 3600
def clocksPerMs : Nat := 3600000

/-! Free values: the manual names them and gives no number. Nothing can evaluate them (log 10). -/

/-- The vendor key hash fused in the package (R369). -/
opaque vendorKeyHash : BitVec 512
/-- The SHA-512 of the boot ROM (R370). -/
opaque bootRomHash : BitVec 512
/-- The attestation key made at manufacture, modulus and private exponent (R370). -/
opaque attestModulus : Nat
opaque attestExponent : Nat
/-- The vendor's signature over the attestation certificate (R370). -/
opaque vendorCertSignature : BitVec 4096
/-- The salt of the n-th attestation signature (R369, R370). -/
opaque attestSalt : Nat → BitVec 512

/-- Which of several is taken where the manual lets any be taken, by a number of the state's source of fresh numbers (log 18). -/
opaque choice : Nat → Nat

end Sys2Proof.Config
end

