-- ==== Sys2Proof/Syntax.lean ====
section
/-! DEFINITION. The instructions: one constructor for each row of spec/opcode_table.json. Team words and press words carry
the fields of their format under the manual's names (Table 02-5, Table 02-9); the other rows are steps of the hardware or
of the host, named by what they act on. -/

namespace Sys2Proof

/-- The common skeleton of a team word but for its opcode (Table 02-3, R45): switch marker and guard. -/
structure Hdr where
  z : Bool
  ginv : Bool
  gk : BitVec 4
  deriving DecidableEq, Repr

/-- Format VA (Table 02-5). In LOGIC, RM[0], SAT and SUB are the truth table (R51). -/
structure VA where
  d : BitVec 8
  a : BitVec 8
  b : BitVec 8
  c : BitVec 8
  t : BitVec 4
  rm : BitVec 2
  sat : Bool
  sub : BitVec 6
  fl : BitVec 4
  deriving DecidableEq, Repr

/-- Format VI (Table 02-5). -/
structure VI where
  d : BitVec 8
  a : BitVec 8
  imm : BitVec 32
  asS : Bool
  deriving DecidableEq, Repr

/-- Format U (Table 02-5). -/
structure UF where
  d : BitVec 6
  a : BitVec 6
  b : BitVec 6
  imm : BitVec 24
  sub : BitVec 6
  i : Bool
  deriving DecidableEq, Repr

/-- Format M (Table 02-5). -/
structure MF where
  data : BitVec 8
  addr : BitVec 8
  sb : BitVec 6
  off : BitVec 16
  size : BitVec 3
  scope : BitVec 3
  ord : BitVec 2
  probe : Bool
  strm : Bool
  sx : Bool
  deriving DecidableEq, Repr

/-- Format B (Table 02-5). -/
structure BF where
  off : BitVec 32
  sreg : BitVec 6
  pinv : Bool
  res : Bool
  pk : BitVec 4
  sub : BitVec 5
  deriving DecidableEq, Repr

/-- Format S (Table 02-5). -/
structure SF where
  v : BitVec 8
  s1 : BitVec 6
  s2 : BitVec 6
  imm : BitVec 16
  sub : BitVec 6
  id : BitVec 7
  deriving DecidableEq, Repr

/-- Format F (Table 02-5). -/
structure FF where
  v : BitVec 8
  hnd : BitVec 2
  ssel : BitVec 6
  treg : BitVec 8
  file : BitVec 3
  imm : BitVec 22
  deriving DecidableEq, Repr

/-- A press word but for its opcode (Table 02-9). PJMP and PLOOP read [52:25] as a word offset, that is OFFA and OFFB
together, and PLOOP reads [17:2] as COUNT (Table 07-5). -/
structure PF where
  acc : BitVec 5
  offa : BitVec 14
  offb : BitVec 14
  fmt : BitVec 3
  bell : BitVec 4
  mmask : BitVec 8
  nmask : BitVec 8
  pfl : BitVec 2
  deriving DecidableEq, Repr

/-- A clause header (Table 02-1). -/
structure HF where
  cls : BitVec 4
  n : BitVec 4
  wbatch : BitVec 16
  wb : Bool
  wbell : BitVec 16
  gap : BitVec 3
  give : Bool
  res : BitVec 11
  sig : BitVec 8
  deriving DecidableEq, Repr

/-- A cellar-die request header but for CMD (Table 10-17). -/
structure CF where
  cmd : BitVec 3
  tag : BitVec 3
  way : Bool
  row : BitVec 19
  sector : BitVec 11
  lane : BitVec 2
  mask : BitVec 8
  res : BitVec 17
  deriving DecidableEq, Repr

/-- A cellar-die reply header but for KIND (Table 10-19). -/
structure RF where
  tag : BitVec 3
  ecc : BitVec 2
  way : Bool
  err : BitVec 8
  deriving DecidableEq, Repr

/-- A cache level that carries generation counters (Table 08-1): the L1 of a core, the L2 of a die, the L3 of a package. -/
inductive Level where
  | l1 (core : Nat)
  | l2 (die : Nat)
  | l3 (p : Nat)
  deriving DecidableEq, Repr

/-- One constructor per row of spec/opcode_table.json. In the rows that are no words, p is a package, core a core of the
pod (48 p + c), tk a team slot of the pod (20 × core + slot), sh a cluster share, x a transfer, r a fabric request, ch a page
change in progress, k a packet in flight, g a grid. -/
inductive Instr where
  | clauseHeader (f : HF)   -- CLAUSE_HEADER, R42
  | opcodeIllegal (h : Hdr) (op : BitVec 9) (rest : BitVec 49)   -- OPCODE_ILLEGAL, R47
  | iadd (h : Hdr) (f : VA)   -- IADD, R95
  | iaddc (h : Hdr) (f : VA)   -- IADDC, R95
  | isub (h : Hdr) (f : VA)   -- ISUB, R95
  | isubb (h : Hdr) (f : VA)   -- ISUBB, R95
  | imul (h : Hdr) (f : VA)   -- IMUL, R95
  | imulhi (h : Hdr) (f : VA)   -- IMULHI, R95
  | imad (h : Hdr) (f : VA)   -- IMAD, R95
  | imadw (h : Hdr) (f : VA)   -- IMADW, R95
  | imin (h : Hdr) (f : VA)   -- IMIN, R95
  | imax (h : Hdr) (f : VA)   -- IMAX, R95
  | iabs (h : Hdr) (f : VA)   -- IABS, R95
  | logic (h : Hdr) (f : VA)   -- LOGIC, R97
  | sel (h : Hdr) (f : VA)   -- SEL, R95
  | icmp (h : Hdr) (f : VA)   -- ICMP, R98
  | lea (h : Hdr) (f : VA)   -- LEA, R95
  | shl (h : Hdr) (f : VA)   -- SHL, R95
  | shr (h : Hdr) (f : VA)   -- SHR, R95
  | sar (h : Hdr) (f : VA)   -- SAR, R95
  | rotl (h : Hdr) (f : VA)   -- ROTL, R95
  | fshl (h : Hdr) (f : VA)   -- FSHL, R95
  | bfx (h : Hdr) (f : VA)   -- BFX, R99
  | bfi (h : Hdr) (f : VA)   -- BFI, R99
  | popc (h : Hdr) (f : VA)   -- POPC, R95
  | clz (h : Hdr) (f : VA)   -- CLZ, R95
  | ffs (h : Hdr) (f : VA)   -- FFS, R95
  | brev (h : Hdr) (f : VA)   -- BREV, R95
  | iaddImm (h : Hdr) (f : VI)   -- IADD_IMM, R96
  | imulImm (h : Hdr) (f : VI)   -- IMUL_IMM, R96
  | iminImm (h : Hdr) (f : VI)   -- IMIN_IMM, R96
  | imaxImm (h : Hdr) (f : VI)   -- IMAX_IMM, R96
  | shlImm (h : Hdr) (f : VI)   -- SHL_IMM, R96
  | shrImm (h : Hdr) (f : VI)   -- SHR_IMM, R96
  | sarImm (h : Hdr) (f : VI)   -- SAR_IMM, R96
  | rotlImm (h : Hdr) (f : VI)   -- ROTL_IMM, R96
  | fadd (h : Hdr) (f : VA)   -- FADD, R100
  | fmul (h : Hdr) (f : VA)   -- FMUL, R100
  | ffma (h : Hdr) (f : VA)   -- FFMA, R100
  | fmin (h : Hdr) (f : VA)   -- FMIN, R101
  | fmax (h : Hdr) (f : VA)   -- FMAX, R101
  | fcmp (h : Hdr) (f : VA)   -- FCMP, R101
  | fclass (h : Hdr) (f : VA)   -- FCLASS, R101
  | fscale (h : Hdr) (f : VA)   -- FSCALE, R100
  | fdot2 (h : Hdr) (f : VA)   -- FDOT2, R102
  | hadd2 (h : Hdr) (f : VA)   -- HADD2, R102
  | hmul2 (h : Hdr) (f : VA)   -- HMUL2, R102
  | hfma2 (h : Hdr) (f : VA)   -- HFMA2, R102
  | frcp (h : Hdr) (f : VA)   -- FRCP, R103
  | frsq (h : Hdr) (f : VA)   -- FRSQ, R103
  | fsqrt (h : Hdr) (f : VA)   -- FSQRT, R103
  | fexp2 (h : Hdr) (f : VA)   -- FEXP2, R103
  | flog2 (h : Hdr) (f : VA)   -- FLOG2, R103
  | fsin (h : Hdr) (f : VA)   -- FSIN, R103
  | fcos (h : Hdr) (f : VA)   -- FCOS, R103
  | faddImm (h : Hdr) (f : VI)   -- FADD_IMM, R100
  | fmulImm (h : Hdr) (f : VI)   -- FMUL_IMM, R100
  | fminImm (h : Hdr) (f : VI)   -- FMIN_IMM, R101
  | fmaxImm (h : Hdr) (f : VI)   -- FMAX_IMM, R101
  | cvt (h : Hdr) (f : VA)   -- CVT, R104
  | pack4Pack (h : Hdr) (f : VA)   -- PACK4_PACK, R105
  | pack4Unlo (h : Hdr) (f : VA)   -- PACK4_UNLO, R105
  | pack4Unhi (h : Hdr) (f : VA)   -- PACK4_UNHI, R105
  | plane (h : Hdr) (f : VA)   -- PLANE, R107
  | unplane (h : Hdr) (f : VA)   -- UNPLANE, R107
  | blkscaleScale (h : Hdr) (f : VA)   -- BLKSCALE_SCALE, R106
  | blkscaleApply (h : Hdr) (f : VA)   -- BLKSCALE_APPLY, R106
  | shfl (h : Hdr) (f : VA)   -- SHFL, R109
  | voteAll (h : Hdr) (f : VA)   -- VOTE_ALL, R110
  | voteAny (h : Hdr) (f : VA)   -- VOTE_ANY, R110
  | voteBallot (h : Hdr) (f : VA)   -- VOTE_BALLOT, R110
  | voteUni (h : Hdr) (f : VA)   -- VOTE_UNI, R110
  | matchK (h : Hdr) (f : VA)   -- MATCH, R108
  | klogic (h : Hdr) (f : VA)   -- KLOGIC, R108
  | kmov (h : Hdr) (f : VA)   -- KMOV, R111
  | readlane (h : Hdr) (f : VA)   -- READLANE, R108
  | redg (h : Hdr) (f : VA)   -- REDG, R112
  | redt (h : Hdr) (f : VA)   -- REDT, R112
  | scang (h : Hdr) (f : VA)   -- SCANG, R112
  | sadd (h : Hdr) (f : UF)   -- SADD, R113
  | ssub (h : Hdr) (f : UF)   -- SSUB, R113
  | smul (h : Hdr) (f : UF)   -- SMUL, R113
  | slogic (h : Hdr) (f : UF)   -- SLOGIC, R113
  | sshl (h : Hdr) (f : UF)   -- SSHL, R113
  | sshr (h : Hdr) (f : UF)   -- SSHR, R113
  | scmp (h : Hdr) (f : UF)   -- SCMP, R113
  | smin (h : Hdr) (f : UF)   -- SMIN, R113
  | smax (h : Hdr) (f : UF)   -- SMAX, R113
  | smov (h : Hdr) (f : UF)   -- SMOV, R113
  | smovCat (h : Hdr) (f : UF)   -- SMOV_CAT, R113
  | vbcast (h : Hdr) (f : VA)   -- VBCAST, R114
  | bra (h : Hdr) (f : BF)   -- BRA, R116
  | brx (h : Hdr) (f : BF)   -- BRX, R117
  | callK (h : Hdr) (f : BF)   -- CALL, R117
  | ret (h : Hdr) (f : BF)   -- RET, R117
  | ifK (h : Hdr) (f : BF)   -- IF, R118
  | elseK (h : Hdr) (f : BF)   -- ELSE, R118
  | endif (h : Hdr) (f : BF)   -- ENDIF, R118
  | loopK (h : Hdr) (f : BF)   -- LOOP, R118
  | breakK (h : Hdr) (f : BF)   -- BREAK, R118
  | contK (h : Hdr) (f : BF)   -- CONT, R118
  | endloop (h : Hdr) (f : BF)   -- ENDLOOP, R118
  | exitK (h : Hdr) (f : BF)   -- EXIT, R118
  | nop (h : Hdr) (f : BF)   -- NOP, R121
  | yieldK (h : Hdr) (f : BF)   -- YIELD, R121
  | sleepK (h : Hdr) (f : BF)   -- SLEEP, R121
  | ld (h : Hdr) (f : MF)   -- LD, R127
  | ldProbe (h : Hdr) (f : MF)   -- LD_PROBE, R129
  | st (h : Hdr) (f : MF)   -- ST, R127
  | lds (h : Hdr) (f : MF)   -- LDS, R127
  | sts (h : Hdr) (f : MF)   -- STS, R127
  | ldu (h : Hdr) (f : MF)   -- LDU, R128
  | stu (h : Hdr) (f : MF)   -- STU, R128
  | pref (h : Hdr) (f : MF)   -- PREF, R130
  | fetch (h : Hdr) (f : MF)   -- FETCH, R131
  | cctlWb (h : Hdr) (f : MF)   -- CCTL_WB, R132
  | cctlInv (h : Hdr) (f : MF)   -- CCTL_INV, R132
  | cctlDiscard (h : Hdr) (f : MF)   -- CCTL_DISCARD, R132
  | fence (h : Hdr) (f : MF)   -- FENCE, R133
  | atomCas (h : Hdr) (f : MF)   -- ATOM_CAS, R135
  | atomsCas (h : Hdr) (f : MF)   -- ATOMS_CAS, R135
  | atom (h : Hdr) (op : BitVec 3) (f : MF)   -- ATOM, R135
  | redK (h : Hdr) (op : BitVec 3) (f : MF)   -- RED, R135
  | atoms (h : Hdr) (op : BitVec 3) (f : MF)   -- ATOMS, R135
  | reds (h : Hdr) (op : BitVec 3) (f : MF)   -- REDS, R135
  | cpy (h : Hdr) (f : SF)   -- CPY, R142
  | cpyt (h : Hdr) (f : SF)   -- CPYT, R147
  | gath (h : Hdr) (f : SF)   -- GATH, R148
  | scat (h : Hdr) (f : SF)   -- SCAT, R148
  | shape (h : Hdr) (f : SF)   -- SHAPE, R146
  | batch (h : Hdr) (f : SF)   -- BATCH, R150
  | cwait (h : Hdr) (f : SF)   -- CWAIT, R151
  | cstat (h : Hdr) (f : SF)   -- CSTAT, R152
  | barInit (h : Hdr) (f : SF)   -- BAR_INIT, R159
  | barArrive (h : Hdr) (f : SF)   -- BAR_ARRIVE, R159
  | barWait (h : Hdr) (f : SF)   -- BAR_WAIT, R159
  | barSync (h : Hdr) (f : SF)   -- BAR_SYNC, R374
  | barDrop (h : Hdr) (f : SF)   -- BAR_DROP, R159
  | bellRing (h : Hdr) (f : SF)   -- BELL_RING, R164
  | bellRingSet (h : Hdr) (f : SF)   -- BELL_RING_SET, R164
  | bellWait (h : Hdr) (f : SF)   -- BELL_WAIT, R164
  | bellWaitNb (h : Hdr) (f : SF)   -- BELL_WAIT_NB, R164
  | ringSend (h : Hdr) (f : SF)   -- RING_SEND, R166
  | ringTake (h : Hdr) (f : SF)   -- RING_TAKE, R166
  | ringFree (h : Hdr) (f : SF)   -- RING_FREE, R166
  | ringFreeCap (h : Hdr) (f : SF)   -- RING_FREE_CAP, R166
  | ringStat (h : Hdr) (f : SF)   -- RING_STAT, R166
  | tryK (h : Hdr) (f : SF)   -- TRY, R169
  | commit (h : Hdr) (f : SF)   -- COMMIT, R172
  | abortK (h : Hdr) (f : SF)   -- ABORT, R170
  | tstat (h : Hdr) (f : SF)   -- TSTAT, R173
  | spanapp (h : Hdr) (f : SF)   -- SPANAPP, R188
  | spantag (h : Hdr) (f : SF)   -- SPANTAG, R188
  | spanset (h : Hdr) (f : SF)   -- SPANSET, R188
  | spanret (h : Hdr) (f : SF)   -- SPANRET, R188
  | spanq (h : Hdr) (f : SF)   -- SPANQ, R188
  | rmap (h : Hdr) (f : SF)   -- RMAP, R189
  | finfo (h : Hdr) (f : FF)   -- FINFO, R181
  | frd (h : Hdr) (f : FF)   -- FRD, R182
  | fwr (h : Hdr) (f : FF)   -- FWR, R182
  | fpatch (h : Hdr) (f : FF)   -- FPATCH, R183
  | fresumeRetry (h : Hdr) (f : FF)   -- FRESUME_RETRY, R286
  | fresumeSkip (h : Hdr) (f : FF)   -- FRESUME_SKIP, R184
  | fkill (h : Hdr) (f : FF)   -- FKILL, R185
  | fkillGrid (h : Hdr) (f : FF)   -- FKILL_GRID, R185
  | farrive (h : Hdr) (f : FF)   -- FARRIVE, R185
  | fstep (h : Hdr) (f : FF)   -- FSTEP, R184
  | frelease (h : Hdr) (f : FF)   -- FRELEASE, R185
  | acquire (h : Hdr) (f : SF)   -- ACQUIRE, R174
  | giveback (h : Hdr) (f : SF)   -- GIVEBACK, R174
  | launch (h : Hdr) (f : SF)   -- LAUNCH, R175
  | lstat (h : Hdr) (f : SF)   -- LSTAT, R176
  | trap (h : Hdr) (f : SF)   -- TRAP, R177
  | rdsr (h : Hdr) (f : SF)   -- RDSR, R178
  | wrsr (h : Hdr) (f : SF)   -- WRSR, R178
  | pgqry (h : Hdr) (f : SF)   -- PGQRY, R179
  | pgctlPin (h : Hdr) (f : SF)   -- PGCTL_PIN, R270
  | pgctlAttract (h : Hdr) (f : SF)   -- PGCTL_ATTRACT, R270
  | accrd (h : Hdr) (f : SF)   -- ACCRD, R214
  | accrdStat (h : Hdr) (f : SF)   -- ACCRD_STAT, R214
  | accwr (h : Hdr) (f : SF)   -- ACCWR, R214
  | accrs (h : Hdr) (f : SF)   -- ACCRS, R214
  | accmax (h : Hdr) (f : SF)   -- ACCMAX, R214
  | pnop (f : PF)   -- PNOP, R199
  | pzero (f : PF)   -- PZERO, R200
  | pfmt (f : PF)   -- PFMT, R197
  | pmm (f : PF)   -- PMM, R201
  | pmms (f : PF)   -- PMMS, R202
  | ploada (f : PF)   -- PLOADA, R203
  | pstore (f : PF)   -- PSTORE, R203
  | pexp (f : PF)   -- PEXP, R205
  | prowmax (f : PF)   -- PROWMAX, R206
  | prowsum (f : PF)   -- PROWSUM, R206
  | pscale (f : PF)   -- PSCALE, R207
  | ptrans (f : PF)   -- PTRANS, R204
  | pbellw (f : PF)   -- PBELLW, R208
  | pbellr (f : PF)   -- PBELLR, R208
  | pjmp (f : PF)   -- PJMP, R199
  | ploop (f : PF)   -- PLOOP, R199
  | pwake (f : PF)   -- PWAKE, R209
  | pend (f : PF)   -- PEND, R199
  | pressWordRefused (w : BitVec 64)   -- PRESS_WORD_REFUSED, R62
  | lookup (p stack port : Nat) (f : CF) (gpn : BitVec 40)   -- LOOKUP, R274
  | rd32 (p stack port : Nat) (f : CF)   -- RD32, R276
  | wrf32 (p stack port : Nat) (f : CF) (data : List Byte)   -- WRF32, R276
  | wrm8 (p stack port : Nat) (f : CF) (data : List Byte)   -- WRM8, R276
  | cellarBadCmd (p stack port : Nat) (f : CF)   -- CELLAR_BAD_CMD, R275
  | cellarHit (p stack port : Nat) (f : RF) (payload : List Word)   -- CELLAR_HIT, R275
  | cellarMiss (p stack port : Nat) (f : RF) (payload : List Word)   -- CELLAR_MISS, R275
  | cellarData (p stack port : Nat) (f : RF) (payload : List Word)   -- CELLAR_DATA, R275
  | cellarDone (p stack port : Nat) (f : RF) (payload : List Word)   -- CELLAR_DONE, R275
  | cellarError (p stack port : Nat) (f : RF) (payload : List Word)   -- CELLAR_ERROR, R275
  | ctxInstall (p : Nat)   -- CTX_INSTALL, R362
  | tlbInval (p : Nat)   -- TLB_INVAL, R362
  | pageRefRaise (p : Nat)   -- PAGE_REF_RAISE, R362
  | pageRefLower (p : Nat)   -- PAGE_REF_LOWER, R362
  | gpnReissue (p : Nat)   -- GPN_REISSUE, R362
  | streamCtlKill (p : Nat)   -- STREAM_CTL_KILL, R362
  | streamCtlRestart (p : Nat)   -- STREAM_CTL_RESTART, R362
  | teamCtlKill (p : Nat)   -- TEAM_CTL_KILL, R362
  | teamCtlRetry (p : Nat)   -- TEAM_CTL_RETRY, R362
  | teamCtlSkip (p : Nat)   -- TEAM_CTL_SKIP, R362
  | teamCtlStep (p : Nat)   -- TEAM_CTL_STEP, R362
  | replyK (p : Nat)   -- REPLY, R365
  | dirGrant (p : Nat)   -- DIR_GRANT, R362
  | attest (p : Nat)   -- ATTEST, R370
  | cmdUnknown (p : Nat)   -- CMD_UNKNOWN, R362
  | cmdWhileBusy (p : Nat) (v : Word)   -- CMD_WHILE_BUSY, R361
  | hctlGo (p : Nat)   -- HCTL_GO, R368
  | hctlWarm (p : Nat)   -- HCTL_WARM, R368
  | queueTailWrite (p q : Nat) (v : Word)   -- QUEUE_TAIL_WRITE, R300
  | queueEnWrite (p q : Nat) (v : Word)   -- QUEUE_EN_WRITE, R363
  | registerWrite (p : Nat) (off : Nat) (v : Word)   -- REGISTER_WRITE, R8
  | hreqHeadAdvance (p : Nat) (v : Word)   -- HREQ_HEAD_ADVANCE, R365
  | msixUnmask (p vec : Nat) (v : Word)   -- MSIX_UNMASK, R364
  | pressBellWake (sh : Nat)   -- PRESS_BELL_WAKE, R208
  | pressIdleGate (core ix : Nat)   -- PRESS_IDLE_GATE, R209
  | pressWakeComplete (core ix : Nat)   -- PRESS_WAKE_COMPLETE, R209
  | longLatencyResult (tk ix : Nat) (lanes : Mask)   -- LONG_LATENCY_RESULT, R54
  | teamUnpark (tk : Nat)   -- TEAM_UNPARK, R37
  | sleepExpiry (tk : Nat)   -- SLEEP_EXPIRY, R121
  | transferBegin (x : Nat)   -- TRANSFER_BEGIN, R139
  | transferComplete (x : Nat)   -- TRANSFER_COMPLETE, R140
  | probeBackgroundReturn (r : Nat)   -- PROBE_BACKGROUND_RETURN, R129
  | generationClear (lvl : Level) (scope : Scope)   -- GENERATION_CLEAR, R233
  | reeveSpawn (core : Nat)   -- REEVE_SPAWN, R283
  | teamAdmit (core : Nat)   -- TEAM_ADMIT, R310
  | impreciseReport (ix : Nat)   -- IMPRECISE_REPORT, R290
  | watchdog (tk : Nat)   -- WATCHDOG, R292
  | streamDeadlockKill (sh : Nat)   -- STREAM_DEADLOCK_KILL, R211
  | queueDispatch (p : Nat)   -- QUEUE_DISPATCH, R303
  | clusterPlace (p : Nat)   -- CLUSTER_PLACE, R307
  | preemptCluster (p : Nat)   -- PREEMPT_CLUSTER, R313
  | shareImageSave (p cl : Nat)   -- SHARE_IMAGE_SAVE, R313
  | clusterResume (p cl : Nat)   -- CLUSTER_RESUME, R314
  | periodStart (p q : Nat)   -- PERIOD_START, R301
  | budgetExhausted (p q : Nat)   -- BUDGET_EXHAUSTED, R302
  | energyWindow (p : Nat)   -- ENERGY_WINDOW, R304
  | meteringTick (p : Nat) (nj : List (Nat × Nat))   -- METERING_TICK, R305
  | gridComplete (g : Nat)   -- GRID_COMPLETE, R306
  | climb (r : Nat)   -- CLIMB, R254
  | firstTouchRerun (p set : Nat)   -- FIRST_TOUCH_RERUN, R256
  | lodgeOffer (ch : Nat)   -- LODGE_OFFER, R261
  | lodgeRefusedAll (ch : Nat)   -- LODGE_REFUSED_ALL, R262
  | lodgeGrant (ch : Nat)   -- LODGE_GRANT, R372
  | fillComplete (ch : Nat)   -- FILL_COMPLETE, R259
  | moveComplete (ch : Nat)   -- MOVE_COMPLETE, R265
  | directoryInvalidation (k : Nat)   -- DIRECTORY_INVALIDATION, R222
  | dirRebuild (p : Nat)   -- DIR_REBUILD, R264
  | ckptTimer (p : Nat)   -- CKPT_TIMER, R273
  | gleanTimer (p : Nat)   -- GLEAN_TIMER, R273
  | sectorReadRequest (k : Nat)   -- SECTOR_READ_REQUEST, R259
  | sectorReadReply (k : Nat)   -- SECTOR_READ_REPLY, R355
  | postedWrite (k : Nat)   -- POSTED_WRITE, R347
  | writeAck (k : Nat)   -- WRITE_ACK, R347
  | atomicRequest (k : Nat)   -- ATOMIC_REQUEST, R347
  | atomicReply (k : Nat)   -- ATOMIC_REPLY, R347
  | packedReadRequest (k : Nat)   -- PACKED_READ_REQUEST, R349
  | packedReadReply (k : Nat)   -- PACKED_READ_REPLY, R349
  | packwinExpiry (p dst : Nat)   -- PACKWIN_EXPIRY, R349
  | pageMoveData (k : Nat)   -- PAGE_MOVE_DATA, R344
  | fabricTimeout (r : Nat)   -- FABRIC_TIMEOUT, R350
  | heartbeatSend (p : Nat)   -- HEARTBEAT_SEND, R351
  | lossNotice (p lost : Nat)   -- LOSS_NOTICE, R351
  | packageRejoin (p lost : Nat)   -- PACKAGE_REJOIN, R352
  | portUp (p port num : Nat) (cabled : Bool)   -- PORT_UP, R343
  | portDown (p port : Nat)   -- PORT_DOWN, R346
  | coldReset (p : Nat)   -- COLD_RESET, R368
  | bootRom (p err : Nat)   -- BOOT_ROM, R368
  | cxlLinkTrained (p : Nat)   -- CXL_LINK_TRAINED, R368
  | fwVerify (p : Nat) (readOk : Bool)   -- FW_VERIFY, R369
  | fabricBringup (p podsize : Nat) (ok : Bool)   -- FABRIC_BRINGUP, R343
  | windowRead (p : Nat) (off : Word) (n : Nat)   -- WINDOW_READ, R367
  | windowWrite (p : Nat) (off : Word) (data : List Byte)   -- WINDOW_WRITE, R367
  | throttling (p : Nat) (hot : Bool)   -- THROTTLING, R371
  deriving DecidableEq, Repr

end Sys2Proof
end

