-- ==== Sys2Proof/WellFormed.lean ====
section
/-! DEFINITION. The checks of Table 02-4 that depend on the word alone: check 6 (permitted field values, res0 fields, the
guard of control words; R46, R48, R50, R93 and each instruction's table) and check 7 (pairs and quads), and the decode
checks of press words (R62, Table 07-5) and clause headers. What depends on the team as well (version, share, allotment)
is in Machine/Ops.lean. -/

namespace Sys2Proof

/-- A vector-format word's fields are permitted: `tOk` the type, then which of B, C, RM, SAT are used, and the bits of SUB
and FL that may be set. An s register named through an 8-bit field has bits [7:6] zero (R48). -/
def VA.ok (f : VA) (tOk useB useC useRm useSat : Bool) (sub : BitVec 6) (fl : BitVec 4) : Bool :=
  tOk && (useB || f.b == 0) && (useC || f.c == 0) && (useRm || f.rm == 0) && (useSat || !f.sat)
    && (f.sub &&& ~~~sub) == 0 && (f.fl &&& ~~~fl) == 0
    && (!f.fl.getLsbD 0 || f.b < 64) && (!f.fl.getLsbD 1 || f.c < 64)

/-- Low three bits of SUB name a condition or operation. -/
def VA.sub3 (f : VA) : Nat := f.sub.toNat % 8

/-- The combine field of ICMP and FCMP and the predicate C it uses (R98). -/
def VA.combOk (f : VA) : Bool := f.d < 16 && if f.sub.toNat / 16 == 0 then f.c == 0 else f.c < 16

/-- Planes of a format in plane layout, head and significand together (Table 03-1); none without plane layout. -/
def planesOf : BitVec 4 → Option Nat
  | 1 => some 17 | 3 => some 9 | 4 => some 10 | 5 => some 8 | 6 => some 4 | 7 => some 8 | _ => none

def VI.ok (f : VI) : Bool := !f.asS || f.a < 64

def UF.ok (f : UF) (subOk : Bool) : Bool := subOk && if f.i then f.b == 0 else f.imm == 0

def Hdr.unguarded (h : Hdr) : Bool := !h.ginv && h.gk == 15

/-- A control word's fields (R46, R115): which of OFF, SREG, PK are used, and whether SUB may select an s condition. -/
def BF.ok (h : Hdr) (f : BF) (off sreg pk kind : Bool) : Bool :=
  h.unguarded && !f.res && (off || f.off == 0) &&
    if kind && f.sub == 1 then f.pk == 0
    else f.sub == 0 && (sreg || f.sreg == 0) && (pk || (f.pk == 0 && !f.pinv))

/-- A memory word's fields (R50, R126, R134). `sx` 0: res0, 1: with SIZE 0 and 1, 2: any. -/
def MF.ok (f : MF) (sizes ords : List Nat) (probe strm : Bool) (sx : Nat) : Bool :=
  sizes.contains f.size.toNat && ords.contains f.ord.toNat && f.scope < 6 && f.probe == probe && (strm || !f.strm)
    && (!f.sx || sx == 2 || (sx == 1 && f.size < 2))

def SF.ok (f : SF) (v s1 s2 imm sub id : Bool) : Bool :=
  (v || f.v == 0) && (s1 || f.s1 == 0) && (s2 || f.s2 == 0) && (imm || f.imm == 0) && (sub || f.sub == 0) && (id || f.id == 0)

/-- SUB holds a scope and nothing else (R154). -/
def SF.scopeOk (f : SF) : Bool := f.sub < 6

def FF.ok (f : FF) (v hnd ssel treg file : Bool) (immOk : Bool) : Bool :=
  (v || f.v == 0) && (hnd || f.hnd == 0) && (ssel || f.ssel == 0) && (treg || f.treg == 0) && (file || f.file == 0) && immOk

/-- Does FRD (write = false) or FWR (write = true) use V, or SSEL, for this FILE and IMM (Table 06-14)? none: not offered. -/
def FF.useV (f : FF) (write : Bool) : Option Bool :=
  match f.file.toNat, f.imm.toNat with
  | 0, 0 => some true | 1, 0 => some false | 2, 0 => some true
  | 3, 0 => some false | 3, 2 => some true
  | 3, 1 => if write then none else some true
  | 3, 3 => if write then none else some false
  | 4, 0 => if write then none else some false
  | 4, 1 => if write then none else some false
  | 5, 0 => if write then none else some true
  | 5, 1 => if write then none else some true
  | 5, 2 => if write then none else some false
  | 6, n => if n < 4096 then some true else none
  | _, _ => none

/-- TREG limits of R50. -/
def FF.tregOk (f : FF) : Bool :=
  match f.file.toNat with | 0 => true | 1 => f.treg < 64 | 2 => f.treg < 16 | _ => f.treg == 0

def FF.regOk (f : FF) (write : Bool) : Bool :=
  f.tregOk && match f.useV write with
    | none => false | some true => f.ssel == 0 | some false => f.v == 0

/-- A bell operand of a copy word: bit 4 enables, [15:5] res0 (R141). -/
def SF.bellOk (f : SF) : Bool := f.imm < 32

/-- The fields a press word may use (Table 07-5): every other field is res0 (R62, R198). -/
def PF.ok (f : PF) (acc offa offb fmt bell masks : Bool) (pfl : BitVec 2) : Bool :=
  (acc || f.acc == 0) && (offa || f.offa == 0) && (offb || f.offb == 0) && (fmt || f.fmt == 0) && (bell || f.bell == 0)
    && (masks || (f.mmask == 0 && f.nmask == 0)) && (f.pfl &&& ~~~pfl) == 0

/-- COUNT of PLOOP, word bits [17:2] (Table 07-5). -/
def PF.count (f : PF) : BitVec 16 := f.mmask ++ f.nmask
/-- The signed word offset of PJMP and PLOOP, word bits [52:25] (Table 07-5). -/
def PF.woff (f : PF) : BitVec 28 := f.offa ++ f.offb

/-- The populated columns of a row of the opcode map, bit c for column c (Table 02-7). -/
def rowColumns : Nat → Nat
  | 0x00 => 0x7FFF | 0x01 => 0x07FF | 0x02 => 0x00FF | 0x04 => 0x0FFF | 0x05 => 0x007F | 0x06 => 0x000F | 0x07 => 0x001F
  | 0x08 => 0x003F | 0x09 => 0x0007 | 0x0A => 0x07FF | 0x0B => 0x7FFF | 0x0C => 0x003F | 0x0D => 0x003F | 0x10 => 0xFFFF
  | 0x11 => 0xFFFF | 0x12 => 0x00FF | 0x13 => 0x001F | 0x14 => 0x003F | 0x15 => 0x000F | 0x16 => 0x003F | 0x17 => 0x01FF
  | 0x18 => 0x01FF | 0x19 => 0x000F | _ => 0

/-- Is the cell of an opcode populated (check 1 of Table 02-4, R58)? -/
def cellUsed (op : BitVec 9) : Bool := (rowColumns (op.toNat / 16)).testBit (op.toNat % 16)

/-- Check 6 of Table 02-4, the part that depends on the word alone; for press words the decode check of R62. Rows that are
no words have no fields of their own to check. -/
def Instr.fieldOk : Instr → Bool
  | .opcodeIllegal _ op _ => !cellUsed op
  | .iadd _ f => f.ok (f.t == 9) true false false true 1 1
  | .iaddc _ f => f.ok (f.t == 9) true true false false 15 1 && f.c < 16
  | .isub _ f => f.ok (f.t == 9) true false false true 1 1
  | .isubb _ f => f.ok (f.t == 9) true true false false 15 1 && f.c < 16
  | .imul _ f => f.ok (f.t == 9) true false false false 0 1
  | .imulhi _ f => f.ok (f.t == 9) true false false false 1 1
  | .imad _ f => f.ok (f.t == 9) true true false false 0 15
  | .imadw _ f => f.ok (f.t == 9) true true false false 1 3
  | .imin _ f => f.ok (f.t == 9) true false false false 1 1
  | .imax _ f => f.ok (f.t == 9) true false false false 1 1
  | .iabs _ f => f.ok (f.t == 9) false false false true 0 0
  | .logic _ f => f.ok (f.t == 9) true true true true 63 3 && !f.rm.getLsbD 1
  | .sel _ f => f.ok (f.t == 9) true true false false 0 1 && f.c < 16
  | .icmp _ f => f.ok (f.t == 9) true true false false 63 1 && f.sub3 < 6 && f.combOk
  | .lea _ f => f.ok (f.t == 9) true false false false 15 1
  | .shl _ f => f.ok (f.t == 9) true false false false 0 1
  | .shr _ f => f.ok (f.t == 9) true false false false 0 1
  | .sar _ f => f.ok (f.t == 9) true false false false 0 1
  | .rotl _ f => f.ok (f.t == 9) true false false false 0 1
  | .fshl _ f => f.ok (f.t == 9) true true false false 0 3
  | .bfx _ f => f.ok (f.t == 9) true false false false 1 1
  | .bfi _ f => f.ok (f.t == 9) true true false false 0 3
  | .popc _ f => f.ok (f.t == 9) false false false false 0 0
  | .clz _ f => f.ok (f.t == 9) false false false false 0 0
  | .ffs _ f => f.ok (f.t == 9) false false false false 0 0
  | .brev _ f => f.ok (f.t == 9) false false false false 0 0
  | .iaddImm _ f => f.ok
  | .imulImm _ f => f.ok
  | .iminImm _ f => f.ok
  | .imaxImm _ f => f.ok
  | .shlImm _ f => f.ok
  | .shrImm _ f => f.ok
  | .sarImm _ f => f.ok
  | .rotlImm _ f => f.ok
  | .fadd _ f => f.ok (f.t == 0) false true true true 0 14
  | .fmul _ f => f.ok (f.t == 0) true false true true 0 5
  | .ffma _ f => f.ok (f.t == 0) true true true true 0 15
  | .fmin _ f => f.ok (f.t == 0) true false false false 0 5
  | .fmax _ f => f.ok (f.t == 0) true false false false 0 5
  | .fcmp _ f => f.ok (f.t == 0) true true false false 55 5 && f.combOk
  | .fclass _ f => f.ok (f.t < 5) false false false false 0 0
  | .fscale _ f => f.ok (f.t == 0) true false true true 0 5
  | .fdot2 _ f => f.ok (f.t == 1 || f.t == 2) true true true true 0 15
  | .hadd2 _ f => f.ok (f.t == 1 || f.t == 2) false true true true 0 14
  | .hmul2 _ f => f.ok (f.t == 1 || f.t == 2) true false true true 0 5
  | .hfma2 _ f => f.ok (f.t == 1 || f.t == 2) true true true true 0 15
  | .frcp _ f => f.ok (f.t == 0) false false true true 0 4
  | .frsq _ f => f.ok (f.t == 0) false false true true 0 4
  | .fsqrt _ f => f.ok (f.t == 0) false false true true 0 4
  | .fexp2 _ f => f.ok (f.t == 0) false false false false 0 4
  | .flog2 _ f => f.ok (f.t == 0) false false false false 0 4
  | .fsin _ f => f.ok (f.t == 0) false false false false 0 4
  | .fcos _ f => f.ok (f.t == 0) false false false false 0 4
  | .faddImm _ f => f.ok
  | .fmulImm _ f => f.ok
  | .fminImm _ f => f.ok
  | .fmaxImm _ f => f.ok
  | .cvt _ f => f.ok (f.t < 10) false false true true 15 0 && f.sub < 10
  | .pack4Pack _ f => f.ok (f.t == 6) true false false true 0 1
  | .pack4Unlo _ f => f.ok (f.t == 6) false false false false 1 0 && f.sub == 1
  | .pack4Unhi _ f => f.ok (f.t == 6) false false false false 2 0 && f.sub == 2
  | .plane _ f => f.ok ((planesOf f.t).any (f.sub.toNat < ·)) false false false false 63 0
  | .unplane _ f => f.ok ((planesOf f.t).any (f.sub.toNat < ·)) false true false false 63 2
  | .blkscaleScale _ f => f.ok (f.t == 3 || f.t == 4 || f.t == 7) false false false false 0 0
  | .blkscaleApply _ f => f.ok (f.t == 3 || f.t == 4 || f.t == 7) true false true true 1 1 && f.sub == 1
  | .shfl _ f => f.ok (f.t == 0) true true false false 7 3
  | .voteAll _ f => f.ok (f.t == 0) false false false false 0 0 && f.d < 16 && f.a < 16
  | .voteAny _ f => f.ok (f.t == 0) false false false false 1 0 && f.sub == 1 && f.d < 16 && f.a < 16
  | .voteBallot _ f => f.ok (f.t == 0) false false false false 2 0 && f.sub == 2 && f.a < 16
  | .voteUni _ f => f.ok (f.t == 0) false false false false 3 0 && f.sub == 3 && f.d < 16
  | .matchK _ f => f.ok (f.t == 0) false false false false 1 0
  | .klogic _ f => f.ok (f.t == 0) true false false false 15 0 && f.d < 16 && f.a < 16 && f.b < 16
  | .kmov _ f =>
      match f.sub.toNat with
      | 0 => f.ok (f.t == 0) false false false false 63 0 && f.a < 16
      | 1 => f.ok (f.t == 0) false false false false 63 0 && f.d < 16
      | 2 => f.ok (f.t == 0) false false false false 63 0 && f.d < 16 && f.a < 16
      | 3 => f.ok (f.t == 0) true false false false 63 1 && f.d < 16 && f.a == 0 && f.fl == 1
      | _ => false
  | .readlane _ f => f.ok (f.t == 0) true false false false 0 1 && f.fl == 1
  | .redg _ f => f.ok (f.t == 0 || f.t == 9) false false true true 15 0 && redOk f
  | .redt _ f => f.ok (f.t == 0 || f.t == 9) false false true true 15 0 && redOk f
  | .scang _ f => f.ok (f.t == 0 || f.t == 9) false false true true 31 0 && redOk f
  | .sadd _ f => f.ok (f.sub == 0)
  | .ssub _ f => f.ok (f.sub == 0)
  | .smul _ f => f.ok (f.sub == 0)
  | .slogic _ f => f.ok (f.sub < 16)
  | .sshl _ f => f.ok (f.sub == 0)
  | .sshr _ f => f.ok (f.sub < 2)
  | .scmp _ f => f.ok (f.sub < 16 && f.sub.toNat % 8 < 6)
  | .smin _ f => f.ok (f.sub < 2)
  | .smax _ f => f.ok (f.sub < 2)
  | .smov _ f => f.ok (f.sub == 0) && f.a == 0
  | .smovCat _ f => f.ok (f.sub == 1) && f.i
  | .vbcast _ f => f.ok (f.t == 0) true false false false 3 1 && f.fl == 1 && f.a == 0 && f.sub < 3
  | .bra h f => f.ok h true false true true
  | .brx h f => f.ok h true true true false
  | .callK h f => f.ok h true false true true
  | .ret h f => f.ok h false false true true
  | .ifK h f => f.ok h true false true false
  | .elseK h f => f.ok h true false false false
  | .endif h f => f.ok h false false false false
  | .loopK h f => f.ok h true false false false
  | .breakK h f => f.ok h false false true false
  | .contK h f => f.ok h false false true false
  | .endloop h f => f.ok h true false true false
  | .exitK h f => f.ok h false false true false
  | .nop h f => f.ok h false false false false
  | .yieldK h f => f.ok h false false false false
  | .sleepK h f => f.ok h true true false false
  | .ld _ f => f.ok [0, 1, 2, 3, 4] [0, 1] false true 1
  | .ldProbe _ f => f.ok [0, 1, 2, 3] [0] true true 1
  | .st _ f => f.ok [0, 1, 2, 3, 4] [0, 2] false true 0
  | .lds _ f => f.ok [0, 1, 2, 3, 4] [0, 1] false false 1
  | .sts _ f => f.ok [0, 1, 2, 3, 4] [0, 2] false false 0
  | .ldu _ f => f.ok [0, 1, 2, 3] [0, 1] false false 1 && f.addr == 0 && f.data < 64
  | .stu _ f => f.ok [0, 1, 2, 3] [0, 2] false false 0 && f.addr == 0 && f.data < 64
  | .pref _ f => f.ok [0] [0] false true 0 && (f.scope == 1 || f.scope == 3 || f.scope == 4) && f.data == 0
  | .fetch _ f => f.ok [0, 1] [0] false true 0 && f.scope == 0
  | .cctlWb _ f => f.ok [0] [0] false false 0 && f.scope > 1 && f.data == 0
  | .cctlInv _ f => f.ok [0] [0] false false 0 && f.scope > 1 && f.data == 1
  | .cctlDiscard _ f => f.ok [0] [0] false false 0 && f.scope > 1 && f.data == 2
  | .fence _ f => f.ok [0, 1] [1, 2, 3] false false 0 && f.data == 0 && f.addr == 0 && f.sb == 0 && f.off == 0
      && (f.size == 0 || f.ord == 3)
  | .atomCas _ f => f.ok [2, 3] [0, 1, 2, 3] false false 0
  | .atomsCas _ f => f.ok [2, 3] [0, 1, 2, 3] false false 0
  | .atom _ op f => atomOk op f [0, 1, 2, 3]
  | .redK _ op f => atomOk op f [0, 2]
  | .atoms _ op f => atomOk op f [0, 1, 2, 3]
  | .reds _ op f => atomOk op f [0, 2]
  | .cpy _ f => f.ok false true true true true true && f.bellOk && f.sub < 24 && f.id < 64
  | .cpyt _ f => f.ok false true true true true true && f.bellOk && f.sub.toNat / 2 % 8 < 6 && f.sub < 32
      && !(f.sub.getLsbD 0 && f.sub.getLsbD 4) && f.id < 62
  | .gath _ f => f.ok true true true true true false && f.bellOk && f.sub.toNat % 8 < 5 && f.sub < 48
  | .scat _ f => f.ok true true true true true false && f.bellOk && f.sub.toNat % 8 < 5 && f.sub < 48
  | .shape _ f => f.ok false true true false false false
  | .batch _ f => f.ok false true false false false false
  | .cwait _ f => f.ok false true true true true false && f.sub < 2 && (if f.sub == 1 then f.imm == 0 else f.s1 == 0)
  | .cstat _ f => f.ok false true false false false false
  | .barInit _ f => f.ok false true true true false false
  | .barArrive _ f => f.ok false true false true true false && f.scopeOk
  | .barWait _ f => f.ok false true false true true false && f.scopeOk
  | .barSync _ f => f.ok false true false true true false && f.scopeOk
  | .barDrop _ f => f.ok false true false true true false && f.scopeOk
  | .bellRing _ f => f.ok false false false false true true && f.scopeOk && f.id < 16
  | .bellRingSet _ f => f.ok false false false true true true && f.sub == 8 && f.imm != 0 && f.id < 16
  | .bellWait _ f => f.ok false false false false true true && f.scopeOk && f.id < 16
  | .bellWaitNb _ f => f.ok false true false false true true && f.sub.toNat / 8 == 1 && f.sub.toNat % 8 < 6 && f.id < 16
  | .ringSend _ f => ringOk f
  | .ringTake _ f => ringOk f
  | .ringFree _ f => f.ok false false false false true true && f.scopeOk && f.id < 8
  | .ringFreeCap _ f => f.ok false false false true true true && f.sub.toNat / 8 == 1 && f.sub.toNat % 8 < 6 && f.id < 8 && f.imm > 0 && f.imm < 17
  | .ringStat _ f => f.ok false true false false true true && f.scopeOk && f.id < 8
  | .tryK _ f => f.ok false false false true true false && f.sub < 2
  | .commit _ f => f.ok false false false false true true && f.scopeOk && f.id < 16
  | .abortK _ f => f.ok false false false true false false && f.imm < 256
  | .tstat _ f => f.ok false true false false false false
  | .spanapp _ f => f.ok false true true true true true && f.scopeOk && f.imm != 0 && f.id < 16
  | .spantag _ f => f.ok true true false false true true && f.scopeOk && f.id < 16
  | .spanset _ f => f.ok false true true true true true && f.scopeOk && f.imm < 32 && f.id < 16
  | .spanret _ f => f.ok false true true false true true && f.scopeOk && f.id < 16
  | .spanq _ f => f.ok false true true true true true && f.scopeOk && f.imm < 2 && f.id < 16
  | .rmap _ f => f.ok true true false true true false && f.scopeOk
  | .finfo _ f => f.ok false true true false false (f.imm < 3)
  | .frd _ f => f.regOk false
  | .fwr _ f => f.regOk true
  | .fpatch _ f => f.ok true true false false false (f.imm < 8)
  | .fresumeRetry _ f => f.ok false true false false false (f.imm == 0)
  | .fresumeSkip _ f => f.ok false true false false false (f.imm == 1)
  | .fkill _ f => f.ok false true false false false (f.imm == 0)
  | .fkillGrid _ f => f.ok false true false false false (f.imm == 1)
  | .farrive _ f => f.ok false true true false false (f.imm < 2)
  | .fstep _ f => f.ok false true true false false (f.imm == 0)
  | .frelease _ f => f.ok false false false false false (f.imm == 0)
  | .acquire _ f => f.ok false false false true false false && f.imm.toNat % 8 == 0 && f.imm > 15
  | .giveback _ f => f.ok false false false true false false && f.imm.toNat % 8 == 0 && f.imm > 15
  | .launch _ f => f.ok false true true false true false && f.sub < 2
  | .lstat _ f => f.ok false true true false false false
  | .trap _ f => f.ok false false false true false false
  | .rdsr _ f => f.ok true true false true false false && (if f.imm < 2 then f.s1 == 0 else if f.imm < 0x14 || (0x100 ≤ f.imm && f.imm < 0x10A) then f.v == 0 else true)
  | .wrsr _ f => f.ok false true false true false false
  | .pgqry _ f => f.ok false true true true false false && f.imm < 4
  | .pgctlPin _ f => f.ok false true true true true false && f.sub == 1 && f.imm < 256
  | .pgctlAttract _ f => f.ok false true true false false false
  | .accrd _ f => f.ok true true false false false true && f.id < 32
  | .accrdStat _ f => f.ok false false true false true true && (f.sub == 1 || f.sub == 3) && f.id < 32
  | .accwr _ f => f.ok true true false false false true && f.id < 32
  | .accrs _ f => f.ok true true false false false true && f.id < 32
  | .accmax _ f => f.ok true true false true false true && f.imm < 256 && f.id < 32
  | .pnop f => f.ok false false false false false false 0
  | .pzero f => f.ok true false false false false false 1
  | .pfmt f => f.ok false true false true false false 0
  | .pmm f => f.ok true true true true false true 0
  | .pmms f => f.ok true true true true false true 0
  | .ploada f => f.ok true true false false false true 0
  | .pstore f => f.ok true false true f.pfl.toNat.bodd false true 1
  | .pexp f => f.ok true true true true false true 0
  | .prowmax f => f.ok true false true false false true 1
  | .prowsum f => f.ok true true true true false true 0
  | .pscale f => f.ok true true false false false true 0
  | .ptrans f => f.ok true false false false false false 0
  | .pbellw f => f.ok false false false false true false 0
  | .pbellr f => f.ok false false false false true false 0
  | .pjmp f => f.ok false true true false false false 0
  | .ploop f => f.acc == 0 && f.fmt == 0 && f.bell == 0 && f.count != 0
  | .pwake f => f.ok false false false false false true 0
  | .pend f => f.ok false false false false false false 0
  | .lookup p sk po f _ => at_ p sk po && f.cmd == 0
  | .rd32 p sk po f => at_ p sk po && f.cmd == 1
  | .wrf32 p sk po f d => at_ p sk po && f.cmd == 2 && d.length == 32
  | .wrm8 p sk po f d => at_ p sk po && f.cmd == 3 && d.length == 8
  | .cellarBadCmd p sk po f => at_ p sk po && f.cmd.getLsbD 2
  | .cellarHit p sk po _ w => at_ p sk po && w.length == 1
  | .cellarMiss p sk po _ w => at_ p sk po && w.length == 2
  | .cellarData p sk po _ w => at_ p sk po && w.length == 4
  | .cellarDone p sk po _ w => at_ p sk po && w.isEmpty
  | .cellarError p sk po _ w => at_ p sk po && w.isEmpty
  | .portUp p port num _ => p < 144 && port < 18 && num < 256
  | .portDown p port => p < 144 && port < 18
  | _ => true
where
  /-- A port of a stack of a package (R3, R274). -/
  at_ (p sk po : Nat) : Bool := p < 144 && sk < 12 && po < 64
  /-- The operation and its modifiers of a reduction or scan (R112). -/
  redOk (f : VA) : Bool :=
    f.sub3 < (if f.t == 0 then 3 else 6)
      && (!f.sub.getLsbD 3 || (f.t == 9 && f.sub3 < 3))
      && (f.rm == 0 || (f.t == 0 && f.sub3 == 0)) && (!f.sat || f.sub3 == 0)
  /-- Atomics (R134): FADD has SIZE 2 only, SX only MIN and MAX. -/
  atomOk (op : BitVec 3) (f : MF) (ords : List Nat) : Bool :=
    f.ok (if op == 1 then [2] else [2, 3]) ords false false (if op == 2 || op == 3 then 2 else 0)
  /-- RING.SEND and RING.TAKE (R166): SUB[3] is `.nb`, and S2 the status only with it. -/
  ringOk (f : SF) : Bool :=
    f.ok false true (f.sub.getLsbD 3) false true true && f.sub < 16 && f.sub.toNat % 8 < 6 && f.id < 8

/-- The data registers of a memory word by SIZE: even pair for 8 bytes, quad for 16 (R50). -/
def MF.dataOk (f : MF) : Bool :=
  if f.size == 3 then !f.data.getLsbD 0 else if f.size == 4 then f.data.toNat % 4 == 0 else true

/-- Check 7 of Table 02-4: pair bases are even and quad bases are multiples of 4. -/
def Instr.pairOk : Instr → Bool
  | .imadw _ f => even f.d && (f.fl.getLsbD 1 || even f.c)
  | .lea _ f => even f.d && (f.fl.getLsbD 0 || even f.b)
  | .plane _ f => even f.d
  | .unplane _ f => even f.a
  | .shfl _ f => !f.sub.getLsbD 2 || (even f.a && (f.fl.getLsbD 1 || even f.c) && even f.d)
  | .matchK _ f => !f.sub.getLsbD 0 || even f.a
  | .vbcast _ f => !f.sub.getLsbD 1 || even f.d
  | .ld _ f => f.dataOk && even f.addr
  | .ldProbe _ f => f.dataOk && even f.addr
  | .st _ f => f.dataOk && even f.addr
  | .lds _ f => f.dataOk
  | .sts _ f => f.dataOk
  | .pref _ f => even f.addr
  | .fetch _ f => even f.addr
  | .cctlWb _ f => even f.addr
  | .cctlInv _ f => even f.addr
  | .cctlDiscard _ f => even f.addr
  | .atom _ _ f => f.dataOk && even f.addr
  | .redK _ _ f => f.dataOk && even f.addr
  | .atoms _ _ f => f.dataOk
  | .reds _ _ f => f.dataOk
  | .atomCas _ f => casOk f && even f.addr
  | .atomsCas _ f => casOk f
  | .gath _ f => even f.v
  | .scat _ f => even f.v
  | .rmap _ f => f.v.toNat % 4 == 0
  | .frd _ f => !(f.file == 5 && f.imm == 1) || even f.v
  | .pgctlPin _ f => !f.s1.getLsbD 0
  | .pgctlAttract _ f => !f.s1.getLsbD 0
  | _ => true
where
  even (r : BitVec 8) : Bool := !r.getLsbD 0
  casOk (f : MF) : Bool := if f.size == 2 then even f.data else f.data.toNat % 4 == 0

/-- A well-formed instruction: what checks 6 and 7 of Table 02-4, or R62, let through by the word alone. -/
def Instr.WellFormed (i : Instr) : Prop := i.fieldOk = true ∧ i.pairOk = true

end Sys2Proof
end

