-- ==== Sys2Proof/Decode.lean ====
section
/-! DEFINITION. The decoder, total on any bytes and rejecting by name, and after it the encoder, both from Tables 02-1, 02-3,
02-5, 02-7, 02-9 and 02-10 (R40 to R61); the packet headers of the cellar dies (Tables 10-17, 10-19) and the command and
register numbers of the host (20) are decoded here too. Words stand in memory little-endian (R4, R40). -/

namespace Sys2Proof

/-- Bytes of a little-endian number, lowest address first (R4). -/
def bytesOf : Nat → Nat → List Byte
  | 0, _ => []
  | n + 1, v => BitVec.ofNat 8 v :: bytesOf n (v / 256)

/-- The little-endian number of bytes (R4). -/
def natOfBytes : List Byte → Nat
  | [] => 0
  | b :: bs => b.toNat + 256 * natOfBytes bs

/-! ## Fields and words -/

/-- The skeleton of Table 02-3: Z, OP, GINV, GK and the format's bits. -/
def teamWord (op : BitVec 9) (h : Hdr) (r : BitVec 49) : Word :=
  (BitVec.ofBool h.z ++ op ++ BitVec.ofBool h.ginv ++ h.gk ++ r)

def wordOp (w : Word) : BitVec 9 := w.extractLsb' 54 9
def Hdr.ofWord (w : Word) : Hdr := ⟨w.getLsbD 63, w.getLsbD 53, w.extractLsb' 49 4⟩

def VA.bits (f : VA) : BitVec 49 :=
  f.d ++ f.a ++ f.b ++ f.c ++ f.t ++ f.rm ++ BitVec.ofBool f.sat ++ f.sub ++ f.fl
def VA.ofBits (r : BitVec 49) : VA :=
  ⟨r.extractLsb' 41 8, r.extractLsb' 33 8, r.extractLsb' 25 8, r.extractLsb' 17 8, r.extractLsb' 13 4,
   r.extractLsb' 11 2, r.getLsbD 10, r.extractLsb' 4 6, r.extractLsb' 0 4⟩

def VI.bits (f : VI) : BitVec 49 := f.d ++ f.a ++ f.imm ++ BitVec.ofBool f.asS
def VI.ofBits (r : BitVec 49) : VI := ⟨r.extractLsb' 41 8, r.extractLsb' 33 8, r.extractLsb' 1 32, r.getLsbD 0⟩

def UF.bits (f : UF) : BitVec 49 := f.d ++ f.a ++ f.b ++ f.imm ++ f.sub ++ BitVec.ofBool f.i
def UF.ofBits (r : BitVec 49) : UF :=
  ⟨r.extractLsb' 43 6, r.extractLsb' 37 6, r.extractLsb' 31 6, r.extractLsb' 7 24, r.extractLsb' 1 6, r.getLsbD 0⟩

def MF.bits (f : MF) : BitVec 49 :=
  f.data ++ f.addr ++ f.sb ++ f.off ++ f.size ++ f.scope ++ f.ord ++ BitVec.ofBool f.probe ++ BitVec.ofBool f.strm
    ++ BitVec.ofBool f.sx
def MF.ofBits (r : BitVec 49) : MF :=
  ⟨r.extractLsb' 41 8, r.extractLsb' 33 8, r.extractLsb' 27 6, r.extractLsb' 11 16, r.extractLsb' 8 3, r.extractLsb' 5 3,
   r.extractLsb' 3 2, r.getLsbD 2, r.getLsbD 1, r.getLsbD 0⟩

def BF.bits (f : BF) : BitVec 49 :=
  f.off ++ f.sreg ++ BitVec.ofBool f.pinv ++ BitVec.ofBool f.res ++ f.pk ++ f.sub
def BF.ofBits (r : BitVec 49) : BF :=
  ⟨r.extractLsb' 17 32, r.extractLsb' 11 6, r.getLsbD 10, r.getLsbD 9, r.extractLsb' 5 4, r.extractLsb' 0 5⟩

def SF.bits (f : SF) : BitVec 49 := f.v ++ f.s1 ++ f.s2 ++ f.imm ++ f.sub ++ f.id
def SF.ofBits (r : BitVec 49) : SF :=
  ⟨r.extractLsb' 41 8, r.extractLsb' 35 6, r.extractLsb' 29 6, r.extractLsb' 13 16, r.extractLsb' 7 6, r.extractLsb' 0 7⟩

def FF.bits (f : FF) : BitVec 49 := f.v ++ f.hnd ++ f.ssel ++ f.treg ++ f.file ++ f.imm
def FF.ofBits (r : BitVec 49) : FF :=
  ⟨r.extractLsb' 41 8, r.extractLsb' 39 2, r.extractLsb' 33 6, r.extractLsb' 25 8, r.extractLsb' 22 3, r.extractLsb' 0 22⟩

/-- A press word of opcode `pop` (Table 02-9). -/
def PF.bits (f : PF) (pop : BitVec 6) : Word :=
  pop ++ f.acc ++ f.offa ++ f.offb ++ f.fmt ++ f.bell ++ f.mmask ++ f.nmask ++ f.pfl
def PF.ofBits (w : Word) : PF :=
  ⟨w.extractLsb' 53 5, w.extractLsb' 39 14, w.extractLsb' 25 14, w.extractLsb' 22 3, w.extractLsb' 18 4,
   w.extractLsb' 10 8, w.extractLsb' 2 8, w.extractLsb' 0 2⟩

def HF.bits (f : HF) : Word :=
  f.cls ++ f.n ++ f.wbatch ++ BitVec.ofBool f.wb ++ f.wbell ++ f.gap ++ BitVec.ofBool f.give ++ f.res ++ f.sig
def HF.ofBits (w : Word) : HF :=
  ⟨w.extractLsb' 60 4, w.extractLsb' 56 4, w.extractLsb' 40 16, w.getLsbD 39, w.extractLsb' 23 16, w.extractLsb' 20 3,
   w.getLsbD 19, w.extractLsb' 8 11, w.extractLsb' 0 8⟩

/-! ## The decoder -/

/-- A clause header is whatever word stands where the program counter points (R41); its own checks are R42's. -/
def decodeHeader (w : Word) : Instr := .clauseHeader (HF.ofBits w)

/-- The instruction of a team's word (Table 02-7). A cell that holds several rows of the table is told apart by the field
that its description names; a value that names none of them decodes as the first row of the cell, whose check 6 it fails. -/
def decodeWord (w : Word) : Instr :=
  let h := Hdr.ofWord w
  let op := wordOp w
  let r := w.extractLsb' 0 49
  let va := VA.ofBits r
  let vi := VI.ofBits r
  let uf := UF.ofBits r
  let mf := MF.ofBits r
  let bf := BF.ofBits r
  let sf := SF.ofBits r
  let ff := FF.ofBits r
  match op.toNat with
  | 0x000 => .iadd h va
  | 0x001 => .iaddc h va
  | 0x002 => .isub h va
  | 0x003 => .isubb h va
  | 0x004 => .imul h va
  | 0x005 => .imulhi h va
  | 0x006 => .imad h va
  | 0x007 => .imadw h va
  | 0x008 => .imin h va
  | 0x009 => .imax h va
  | 0x00A => .iabs h va
  | 0x00B => .logic h va
  | 0x00C => .sel h va
  | 0x00D => .icmp h va
  | 0x00E => .lea h va
  | 0x010 => .shl h va
  | 0x011 => .shr h va
  | 0x012 => .sar h va
  | 0x013 => .rotl h va
  | 0x014 => .fshl h va
  | 0x015 => .bfx h va
  | 0x016 => .bfi h va
  | 0x017 => .popc h va
  | 0x018 => .clz h va
  | 0x019 => .ffs h va
  | 0x01A => .brev h va
  | 0x020 => .iaddImm h vi
  | 0x021 => .imulImm h vi
  | 0x022 => .iminImm h vi
  | 0x023 => .imaxImm h vi
  | 0x024 => .shlImm h vi
  | 0x025 => .shrImm h vi
  | 0x026 => .sarImm h vi
  | 0x027 => .rotlImm h vi
  | 0x040 => .fadd h va
  | 0x041 => .fmul h va
  | 0x042 => .ffma h va
  | 0x043 => .fmin h va
  | 0x044 => .fmax h va
  | 0x045 => .fcmp h va
  | 0x046 => .fclass h va
  | 0x047 => .fscale h va
  | 0x048 => .fdot2 h va
  | 0x049 => .hadd2 h va
  | 0x04A => .hmul2 h va
  | 0x04B => .hfma2 h va
  | 0x050 => .frcp h va
  | 0x051 => .frsq h va
  | 0x052 => .fsqrt h va
  | 0x053 => .fexp2 h va
  | 0x054 => .flog2 h va
  | 0x055 => .fsin h va
  | 0x056 => .fcos h va
  | 0x060 => .faddImm h vi
  | 0x061 => .fmulImm h vi
  | 0x062 => .fminImm h vi
  | 0x063 => .fmaxImm h vi
  | 0x070 => .cvt h va
  | 0x071 => if va.sub == 1 then .pack4Unlo h va else if va.sub == 2 then .pack4Unhi h va else .pack4Pack h va
  | 0x072 => .plane h va
  | 0x073 => .unplane h va
  | 0x074 => if va.sub == 1 then .blkscaleApply h va else .blkscaleScale h va
  | 0x080 => .shfl h va
  | 0x081 => if va.sub == 1 then .voteAny h va else if va.sub == 2 then .voteBallot h va else if va.sub == 3 then .voteUni h va else .voteAll h va
  | 0x082 => .matchK h va
  | 0x083 => .klogic h va
  | 0x084 => .kmov h va
  | 0x085 => .readlane h va
  | 0x090 => .redg h va
  | 0x091 => .redt h va
  | 0x092 => .scang h va
  | 0x0A0 => .sadd h uf
  | 0x0A1 => .ssub h uf
  | 0x0A2 => .smul h uf
  | 0x0A3 => .slogic h uf
  | 0x0A4 => .sshl h uf
  | 0x0A5 => .sshr h uf
  | 0x0A6 => .scmp h uf
  | 0x0A7 => .smin h uf
  | 0x0A8 => .smax h uf
  | 0x0A9 => if uf.sub == 1 then .smovCat h uf else .smov h uf
  | 0x0AA => .vbcast h va
  | 0x0B0 => .bra h bf
  | 0x0B1 => .brx h bf
  | 0x0B2 => .callK h bf
  | 0x0B3 => .ret h bf
  | 0x0B4 => .ifK h bf
  | 0x0B5 => .elseK h bf
  | 0x0B6 => .endif h bf
  | 0x0B7 => .loopK h bf
  | 0x0B8 => .breakK h bf
  | 0x0B9 => .contK h bf
  | 0x0BA => .endloop h bf
  | 0x0BB => .exitK h bf
  | 0x0BC => .nop h bf
  | 0x0BD => .yieldK h bf
  | 0x0BE => .sleepK h bf
  | 0x0C0 => if mf.probe then .ldProbe h mf else .ld h mf
  | 0x0C1 => .st h mf
  | 0x0C2 => .lds h mf
  | 0x0C3 => .sts h mf
  | 0x0C4 => .ldu h mf
  | 0x0C5 => .stu h mf
  | 0x0D0 => .pref h mf
  | 0x0D1 => .fetch h mf
  | 0x0D2 => if mf.data == 1 then .cctlInv h mf else if mf.data == 2 then .cctlDiscard h mf else .cctlWb h mf
  | 0x0D3 => .fence h mf
  | 0x0D4 => .atomCas h mf
  | 0x0D5 => .atomsCas h mf
  | 0x120 => .cpy h sf
  | 0x121 => .cpyt h sf
  | 0x122 => .gath h sf
  | 0x123 => .scat h sf
  | 0x124 => .shape h sf
  | 0x125 => .batch h sf
  | 0x126 => .cwait h sf
  | 0x127 => .cstat h sf
  | 0x130 => .barInit h sf
  | 0x131 => .barArrive h sf
  | 0x132 => .barWait h sf
  | 0x133 => .barSync h sf
  | 0x134 => .barDrop h sf
  | 0x140 => if sf.sub.getLsbD 3 then .bellRingSet h sf else .bellRing h sf
  | 0x141 => if sf.sub.getLsbD 3 then .bellWaitNb h sf else .bellWait h sf
  | 0x142 => .ringSend h sf
  | 0x143 => .ringTake h sf
  | 0x144 => if sf.sub.getLsbD 3 then .ringFreeCap h sf else .ringFree h sf
  | 0x145 => .ringStat h sf
  | 0x150 => .tryK h sf
  | 0x151 => .commit h sf
  | 0x152 => .abortK h sf
  | 0x153 => .tstat h sf
  | 0x160 => .spanapp h sf
  | 0x161 => .spantag h sf
  | 0x162 => .spanset h sf
  | 0x163 => .spanret h sf
  | 0x164 => .spanq h sf
  | 0x165 => .rmap h sf
  | 0x170 => .finfo h ff
  | 0x171 => .frd h ff
  | 0x172 => .fwr h ff
  | 0x173 => .fpatch h ff
  | 0x174 => if ff.imm == 1 then .fresumeSkip h ff else .fresumeRetry h ff
  | 0x175 => if ff.imm == 1 then .fkillGrid h ff else .fkill h ff
  | 0x176 => .farrive h ff
  | 0x177 => .fstep h ff
  | 0x178 => .frelease h ff
  | 0x180 => .acquire h sf
  | 0x181 => .giveback h sf
  | 0x182 => .launch h sf
  | 0x183 => .lstat h sf
  | 0x184 => .trap h sf
  | 0x185 => .rdsr h sf
  | 0x186 => .wrsr h sf
  | 0x187 => .pgqry h sf
  | 0x188 => if sf.sub == 1 then .pgctlPin h sf else .pgctlAttract h sf
  | 0x190 => if sf.sub == 1 || sf.sub == 3 then .accrdStat h sf else .accrd h sf
  | 0x191 => .accwr h sf
  | 0x192 => .accrs h sf
  | 0x193 => .accmax h sf
  | n => match n / 8 with
    | 0x20 => .atom h (op.extractLsb' 0 3) mf
    | 0x21 => .redK h (op.extractLsb' 0 3) mf
    | 0x22 => .atoms h (op.extractLsb' 0 3) mf
    | 0x23 => .reds h (op.extractLsb' 0 3) mf
    | _ => .opcodeIllegal h op r

/-- The instruction a press word names by its POP and fields alone; none for POP 0x12 to 0x3F (Table 02-10). -/
def pressOp (w : Word) : Option Instr :=
  let f := PF.ofBits w
  match (w.extractLsb' 58 6).toNat with
  | 0x00 => some (.pnop f)
  | 0x01 => some (.pzero f)
  | 0x02 => some (.pfmt f)
  | 0x03 => some (.pmm f)
  | 0x04 => some (.pmms f)
  | 0x05 => some (.ploada f)
  | 0x06 => some (.pstore f)
  | 0x07 => some (.pexp f)
  | 0x08 => some (.prowmax f)
  | 0x09 => some (.prowsum f)
  | 0x0A => some (.pscale f)
  | 0x0B => some (.ptrans f)
  | 0x0C => some (.pbellw f)
  | 0x0D => some (.pbellr f)
  | 0x0E => some (.pjmp f)
  | 0x0F => some (.ploop f)
  | 0x10 => some (.pwake f)
  | 0x11 => some (.pend f)
  | _ => none

/-- A press word whose opcode or a field the decoder refuses is the row PRESS_WORD_REFUSED (R62). -/
def decodePress (w : Word) : Instr :=
  match pressOp w with
  | some i => if i.fieldOk then i else .pressWordRefused w
  | none => .pressWordRefused w

/-- Which of the three places a word was fetched from (R40, R45, R60). -/
inductive WordKind where
  | header | team | press
  deriving DecidableEq, Repr

/-- Why the decoder refuses bytes. -/
inductive DecodeReject where
  /-- Fewer than eight bytes. -/
  | short
  /-- Table 02-2 checks 3 to 5: signature, res0 bits, class. -/
  | header
  /-- Check 6 of Table 02-4. -/
  | field
  /-- Check 7 of Table 02-4. -/
  | pair
  deriving DecidableEq, Repr

/-- Checks 3 to 5 of Table 02-2, those that depend on the header word alone: the subcode of the first that fails (R42). -/
def HF.subcode (f : HF) : Option Nat :=
  if f.sig != 0x6B then some 0x01
  else if f.res != 0 || (!f.wb && f.wbatch != 0) then some 0x02
  else if f.cls.getLsbD 3 then some 0x03 else none

/-- The instruction that the first eight bytes hold, and the bytes after them; total on any bytes. -/
def decode (k : WordKind) (bs : List Byte) : Except DecodeReject (Instr × List Byte) :=
  if bs.length < 8 then .error .short else
  let w := BitVec.ofNat 64 (natOfBytes (bs.take 8))
  match k with
  | .header => if (HF.ofBits w).subcode.isSome then .error .header else .ok (decodeHeader w, bs.drop 8)
  | .press => .ok (decodePress w, bs.drop 8)
  | .team =>
    let i := decodeWord w
    if !i.fieldOk then .error .field else if !i.pairOk then .error .pair else .ok (i, bs.drop 8)

/-! ## The encoder -/

/-- The word of a team instruction, a press word or a clause header, from Table 02-1, 02-3, 02-5, 02-7 and 02-9; none for
the rows that are no words. -/
def encodeWord : Instr → Option Word
  | .clauseHeader f => some f.bits
  | .opcodeIllegal h op r => some (teamWord op h r)
  | .iadd h f => some (teamWord 0x000 h f.bits)
  | .iaddc h f => some (teamWord 0x001 h f.bits)
  | .isub h f => some (teamWord 0x002 h f.bits)
  | .isubb h f => some (teamWord 0x003 h f.bits)
  | .imul h f => some (teamWord 0x004 h f.bits)
  | .imulhi h f => some (teamWord 0x005 h f.bits)
  | .imad h f => some (teamWord 0x006 h f.bits)
  | .imadw h f => some (teamWord 0x007 h f.bits)
  | .imin h f => some (teamWord 0x008 h f.bits)
  | .imax h f => some (teamWord 0x009 h f.bits)
  | .iabs h f => some (teamWord 0x00A h f.bits)
  | .logic h f => some (teamWord 0x00B h f.bits)
  | .sel h f => some (teamWord 0x00C h f.bits)
  | .icmp h f => some (teamWord 0x00D h f.bits)
  | .lea h f => some (teamWord 0x00E h f.bits)
  | .shl h f => some (teamWord 0x010 h f.bits)
  | .shr h f => some (teamWord 0x011 h f.bits)
  | .sar h f => some (teamWord 0x012 h f.bits)
  | .rotl h f => some (teamWord 0x013 h f.bits)
  | .fshl h f => some (teamWord 0x014 h f.bits)
  | .bfx h f => some (teamWord 0x015 h f.bits)
  | .bfi h f => some (teamWord 0x016 h f.bits)
  | .popc h f => some (teamWord 0x017 h f.bits)
  | .clz h f => some (teamWord 0x018 h f.bits)
  | .ffs h f => some (teamWord 0x019 h f.bits)
  | .brev h f => some (teamWord 0x01A h f.bits)
  | .iaddImm h f => some (teamWord 0x020 h f.bits)
  | .imulImm h f => some (teamWord 0x021 h f.bits)
  | .iminImm h f => some (teamWord 0x022 h f.bits)
  | .imaxImm h f => some (teamWord 0x023 h f.bits)
  | .shlImm h f => some (teamWord 0x024 h f.bits)
  | .shrImm h f => some (teamWord 0x025 h f.bits)
  | .sarImm h f => some (teamWord 0x026 h f.bits)
  | .rotlImm h f => some (teamWord 0x027 h f.bits)
  | .fadd h f => some (teamWord 0x040 h f.bits)
  | .fmul h f => some (teamWord 0x041 h f.bits)
  | .ffma h f => some (teamWord 0x042 h f.bits)
  | .fmin h f => some (teamWord 0x043 h f.bits)
  | .fmax h f => some (teamWord 0x044 h f.bits)
  | .fcmp h f => some (teamWord 0x045 h f.bits)
  | .fclass h f => some (teamWord 0x046 h f.bits)
  | .fscale h f => some (teamWord 0x047 h f.bits)
  | .fdot2 h f => some (teamWord 0x048 h f.bits)
  | .hadd2 h f => some (teamWord 0x049 h f.bits)
  | .hmul2 h f => some (teamWord 0x04A h f.bits)
  | .hfma2 h f => some (teamWord 0x04B h f.bits)
  | .frcp h f => some (teamWord 0x050 h f.bits)
  | .frsq h f => some (teamWord 0x051 h f.bits)
  | .fsqrt h f => some (teamWord 0x052 h f.bits)
  | .fexp2 h f => some (teamWord 0x053 h f.bits)
  | .flog2 h f => some (teamWord 0x054 h f.bits)
  | .fsin h f => some (teamWord 0x055 h f.bits)
  | .fcos h f => some (teamWord 0x056 h f.bits)
  | .faddImm h f => some (teamWord 0x060 h f.bits)
  | .fmulImm h f => some (teamWord 0x061 h f.bits)
  | .fminImm h f => some (teamWord 0x062 h f.bits)
  | .fmaxImm h f => some (teamWord 0x063 h f.bits)
  | .cvt h f => some (teamWord 0x070 h f.bits)
  | .pack4Pack h f => some (teamWord 0x071 h f.bits)
  | .pack4Unlo h f => some (teamWord 0x071 h f.bits)
  | .pack4Unhi h f => some (teamWord 0x071 h f.bits)
  | .plane h f => some (teamWord 0x072 h f.bits)
  | .unplane h f => some (teamWord 0x073 h f.bits)
  | .blkscaleScale h f => some (teamWord 0x074 h f.bits)
  | .blkscaleApply h f => some (teamWord 0x074 h f.bits)
  | .shfl h f => some (teamWord 0x080 h f.bits)
  | .voteAll h f => some (teamWord 0x081 h f.bits)
  | .voteAny h f => some (teamWord 0x081 h f.bits)
  | .voteBallot h f => some (teamWord 0x081 h f.bits)
  | .voteUni h f => some (teamWord 0x081 h f.bits)
  | .matchK h f => some (teamWord 0x082 h f.bits)
  | .klogic h f => some (teamWord 0x083 h f.bits)
  | .kmov h f => some (teamWord 0x084 h f.bits)
  | .readlane h f => some (teamWord 0x085 h f.bits)
  | .redg h f => some (teamWord 0x090 h f.bits)
  | .redt h f => some (teamWord 0x091 h f.bits)
  | .scang h f => some (teamWord 0x092 h f.bits)
  | .sadd h f => some (teamWord 0x0A0 h f.bits)
  | .ssub h f => some (teamWord 0x0A1 h f.bits)
  | .smul h f => some (teamWord 0x0A2 h f.bits)
  | .slogic h f => some (teamWord 0x0A3 h f.bits)
  | .sshl h f => some (teamWord 0x0A4 h f.bits)
  | .sshr h f => some (teamWord 0x0A5 h f.bits)
  | .scmp h f => some (teamWord 0x0A6 h f.bits)
  | .smin h f => some (teamWord 0x0A7 h f.bits)
  | .smax h f => some (teamWord 0x0A8 h f.bits)
  | .smov h f => some (teamWord 0x0A9 h f.bits)
  | .smovCat h f => some (teamWord 0x0A9 h f.bits)
  | .vbcast h f => some (teamWord 0x0AA h f.bits)
  | .bra h f => some (teamWord 0x0B0 h f.bits)
  | .brx h f => some (teamWord 0x0B1 h f.bits)
  | .callK h f => some (teamWord 0x0B2 h f.bits)
  | .ret h f => some (teamWord 0x0B3 h f.bits)
  | .ifK h f => some (teamWord 0x0B4 h f.bits)
  | .elseK h f => some (teamWord 0x0B5 h f.bits)
  | .endif h f => some (teamWord 0x0B6 h f.bits)
  | .loopK h f => some (teamWord 0x0B7 h f.bits)
  | .breakK h f => some (teamWord 0x0B8 h f.bits)
  | .contK h f => some (teamWord 0x0B9 h f.bits)
  | .endloop h f => some (teamWord 0x0BA h f.bits)
  | .exitK h f => some (teamWord 0x0BB h f.bits)
  | .nop h f => some (teamWord 0x0BC h f.bits)
  | .yieldK h f => some (teamWord 0x0BD h f.bits)
  | .sleepK h f => some (teamWord 0x0BE h f.bits)
  | .ld h f => some (teamWord 0x0C0 h f.bits)
  | .ldProbe h f => some (teamWord 0x0C0 h f.bits)
  | .st h f => some (teamWord 0x0C1 h f.bits)
  | .lds h f => some (teamWord 0x0C2 h f.bits)
  | .sts h f => some (teamWord 0x0C3 h f.bits)
  | .ldu h f => some (teamWord 0x0C4 h f.bits)
  | .stu h f => some (teamWord 0x0C5 h f.bits)
  | .pref h f => some (teamWord 0x0D0 h f.bits)
  | .fetch h f => some (teamWord 0x0D1 h f.bits)
  | .cctlWb h f => some (teamWord 0x0D2 h f.bits)
  | .cctlInv h f => some (teamWord 0x0D2 h f.bits)
  | .cctlDiscard h f => some (teamWord 0x0D2 h f.bits)
  | .fence h f => some (teamWord 0x0D3 h f.bits)
  | .atomCas h f => some (teamWord 0x0D4 h f.bits)
  | .atomsCas h f => some (teamWord 0x0D5 h f.bits)
  | .cpy h f => some (teamWord 0x120 h f.bits)
  | .cpyt h f => some (teamWord 0x121 h f.bits)
  | .gath h f => some (teamWord 0x122 h f.bits)
  | .scat h f => some (teamWord 0x123 h f.bits)
  | .shape h f => some (teamWord 0x124 h f.bits)
  | .batch h f => some (teamWord 0x125 h f.bits)
  | .cwait h f => some (teamWord 0x126 h f.bits)
  | .cstat h f => some (teamWord 0x127 h f.bits)
  | .barInit h f => some (teamWord 0x130 h f.bits)
  | .barArrive h f => some (teamWord 0x131 h f.bits)
  | .barWait h f => some (teamWord 0x132 h f.bits)
  | .barSync h f => some (teamWord 0x133 h f.bits)
  | .barDrop h f => some (teamWord 0x134 h f.bits)
  | .bellRing h f => some (teamWord 0x140 h f.bits)
  | .bellRingSet h f => some (teamWord 0x140 h f.bits)
  | .bellWait h f => some (teamWord 0x141 h f.bits)
  | .bellWaitNb h f => some (teamWord 0x141 h f.bits)
  | .ringSend h f => some (teamWord 0x142 h f.bits)
  | .ringTake h f => some (teamWord 0x143 h f.bits)
  | .ringFree h f => some (teamWord 0x144 h f.bits)
  | .ringFreeCap h f => some (teamWord 0x144 h f.bits)
  | .ringStat h f => some (teamWord 0x145 h f.bits)
  | .tryK h f => some (teamWord 0x150 h f.bits)
  | .commit h f => some (teamWord 0x151 h f.bits)
  | .abortK h f => some (teamWord 0x152 h f.bits)
  | .tstat h f => some (teamWord 0x153 h f.bits)
  | .spanapp h f => some (teamWord 0x160 h f.bits)
  | .spantag h f => some (teamWord 0x161 h f.bits)
  | .spanset h f => some (teamWord 0x162 h f.bits)
  | .spanret h f => some (teamWord 0x163 h f.bits)
  | .spanq h f => some (teamWord 0x164 h f.bits)
  | .rmap h f => some (teamWord 0x165 h f.bits)
  | .finfo h f => some (teamWord 0x170 h f.bits)
  | .frd h f => some (teamWord 0x171 h f.bits)
  | .fwr h f => some (teamWord 0x172 h f.bits)
  | .fpatch h f => some (teamWord 0x173 h f.bits)
  | .fresumeRetry h f => some (teamWord 0x174 h f.bits)
  | .fresumeSkip h f => some (teamWord 0x174 h f.bits)
  | .fkill h f => some (teamWord 0x175 h f.bits)
  | .fkillGrid h f => some (teamWord 0x175 h f.bits)
  | .farrive h f => some (teamWord 0x176 h f.bits)
  | .fstep h f => some (teamWord 0x177 h f.bits)
  | .frelease h f => some (teamWord 0x178 h f.bits)
  | .acquire h f => some (teamWord 0x180 h f.bits)
  | .giveback h f => some (teamWord 0x181 h f.bits)
  | .launch h f => some (teamWord 0x182 h f.bits)
  | .lstat h f => some (teamWord 0x183 h f.bits)
  | .trap h f => some (teamWord 0x184 h f.bits)
  | .rdsr h f => some (teamWord 0x185 h f.bits)
  | .wrsr h f => some (teamWord 0x186 h f.bits)
  | .pgqry h f => some (teamWord 0x187 h f.bits)
  | .pgctlPin h f => some (teamWord 0x188 h f.bits)
  | .pgctlAttract h f => some (teamWord 0x188 h f.bits)
  | .accrd h f => some (teamWord 0x190 h f.bits)
  | .accrdStat h f => some (teamWord 0x190 h f.bits)
  | .accwr h f => some (teamWord 0x191 h f.bits)
  | .accrs h f => some (teamWord 0x192 h f.bits)
  | .accmax h f => some (teamWord 0x193 h f.bits)
  | .atom h op f => some (teamWord (0x20#6 ++ op) h f.bits)
  | .redK h op f => some (teamWord (0x21#6 ++ op) h f.bits)
  | .atoms h op f => some (teamWord (0x22#6 ++ op) h f.bits)
  | .reds h op f => some (teamWord (0x23#6 ++ op) h f.bits)
  | .pnop f => some (f.bits 0x00)
  | .pzero f => some (f.bits 0x01)
  | .pfmt f => some (f.bits 0x02)
  | .pmm f => some (f.bits 0x03)
  | .pmms f => some (f.bits 0x04)
  | .ploada f => some (f.bits 0x05)
  | .pstore f => some (f.bits 0x06)
  | .pexp f => some (f.bits 0x07)
  | .prowmax f => some (f.bits 0x08)
  | .prowsum f => some (f.bits 0x09)
  | .pscale f => some (f.bits 0x0A)
  | .ptrans f => some (f.bits 0x0B)
  | .pbellw f => some (f.bits 0x0C)
  | .pbellr f => some (f.bits 0x0D)
  | .pjmp f => some (f.bits 0x0E)
  | .ploop f => some (f.bits 0x0F)
  | .pwake f => some (f.bits 0x10)
  | .pend f => some (f.bits 0x11)
  | .pressWordRefused w => some w
  | _ => none

/-- The bytes of an instruction that is a word, lowest address first (R4). -/
def encode (i : Instr) : List Byte := (encodeWord i).elim [] fun w => bytesOf 8 w.toNat

/-- The kind of word an instruction is; none for the rows that are no words. -/
def wordKind (i : Instr) : Option WordKind :=
  match i with
  | .clauseHeader _ => some .header
  | .pnop _ | .pzero _ | .pfmt _ | .pmm _ | .pmms _ | .ploada _ | .pstore _ | .pexp _ | .prowmax _ | .prowsum _ | .pscale _
  | .ptrans _ | .pbellw _ | .pbellr _ | .pjmp _ | .ploop _ | .pwake _ | .pend _ | .pressWordRefused _ => some .press
  | i => (encodeWord i).map fun _ => .team

/-! ## Cellar-die packets (Tables 10-17, 10-19) -/

def CF.word (f : CF) : Word := f.cmd ++ f.tag ++ BitVec.ofBool f.way ++ f.row ++ f.sector ++ f.lane ++ f.mask ++ f.res
def CF.ofWord (w : Word) : CF :=
  ⟨w.extractLsb' 61 3, w.extractLsb' 58 3, w.getLsbD 57, w.extractLsb' 38 19, w.extractLsb' 27 11, w.extractLsb' 25 2,
    w.extractLsb' 17 8, w.extractLsb' 0 17⟩

/-- A reply header of a kind. -/
def RF.word (f : RF) (kind : BitVec 3) : Word := kind ++ f.tag ++ f.ecc ++ BitVec.ofBool f.way ++ (0 : BitVec 47) ++ f.err
def RF.ofWord (w : Word) : RF := ⟨w.extractLsb' 58 3, w.extractLsb' 56 2, w.getLsbD 55, w.extractLsb' 0 8⟩

/-- A request that arrives at a port: its header and its payload words, rejected where the payload is not what CMD says. -/
def decodeCellar (p stack port : Nat) (ws : List Word) : Except String Instr :=
  match ws with
  | [] => .error "no header"
  | w :: pay =>
    let f := CF.ofWord w
    let bytes := pay.flatMap fun x => bytesOf 8 x.toNat
    match f.cmd.toNat, pay.length with
    | 0, 1 => .ok (.lookup p stack port f ((pay.headD 0).setWidth 40))
    | 1, 0 => .ok (.rd32 p stack port f)
    | 2, 4 => .ok (.wrf32 p stack port f bytes)
    | 3, 1 => .ok (.wrm8 p stack port f bytes)
    | n, _ => if 4 ≤ n then .ok (.cellarBadCmd p stack port f) else .error "payload"

/-- A reply that a port sends, rejected for the kinds that are never sent. -/
def decodeCellarReply (p stack port : Nat) (ws : List Word) : Except String Instr :=
  match ws with
  | [] => .error "no header"
  | w :: pay =>
    let f := RF.ofWord w
    match (w.extractLsb' 61 3).toNat with
    | 0 => .ok (.cellarHit p stack port f pay)
    | 1 => .ok (.cellarMiss p stack port f pay)
    | 2 => .ok (.cellarData p stack port f pay)
    | 3 => .ok (.cellarDone p stack port f pay)
    | 4 => .ok (.cellarError p stack port f pay)
    | _ => .error "KIND 5 to 7"

/-- The words of a cellar-die packet. -/
def encodeCellar : Instr → List Word
  | .lookup _ _ _ f gpn => [f.word, gpn.setWidth 64]
  | .rd32 _ _ _ f => [f.word]
  | .wrf32 _ _ _ f d => f.word :: (List.range 4).map fun i => BitVec.ofNat 64 (natOfBytes ((d.drop (8 * i)).take 8))
  | .wrm8 _ _ _ f d => [f.word, BitVec.ofNat 64 (natOfBytes (d.take 8))]
  | .cellarBadCmd _ _ _ f => [f.word]
  | .cellarHit _ _ _ f ws => f.word 0 :: ws
  | .cellarMiss _ _ _ f ws => f.word 1 :: ws
  | .cellarData _ _ _ f ws => f.word 2 :: ws
  | .cellarDone _ _ _ f ws => f.word 3 :: ws
  | .cellarError _ _ _ f ws => f.word 4 :: ws
  | _ => []

/-! ## Host commands and register writes (Tables 20-1 to 20-4) -/

/-- The command that an opcode and its arguments name; an opcode or a selecting argument that the table does not list ends as an
unknown command. -/
def decodeCommand (p : Nat) (op : BitVec 8) (arg1 arg2 : Word) : Instr :=
  match op.toNat with
  | 0x01 => .ctxInstall p
  | 0x02 => .tlbInval p
  | 0x03 => if arg1 = 0 then .pageRefRaise p else if arg1 = 1 then .pageRefLower p else .cmdUnknown p
  | 0x04 => .gpnReissue p
  | 0x05 => if arg2 = 0 then .streamCtlKill p else if arg2 = 1 then .streamCtlRestart p else .cmdUnknown p
  | 0x06 =>
    if arg1 = 0 then .teamCtlKill p else if arg1 = 1 then .teamCtlRetry p else if arg1 = 2 then .teamCtlSkip p
    else if arg1 = 3 then .teamCtlStep p else .cmdUnknown p
  | 0x07 => .replyK p
  | 0x08 => .dirGrant p
  | 0x09 => .attest p
  | _ => .cmdUnknown p

/-- The step that an 8-byte write at an offset of BAR0 is; `busy` is CMDSTAT.BUSY. -/
def decodeBar0 (p off : Nat) (busy : Bool) (v : Word) : Instr :=
  if off = 0x008 then (if v.getLsbD 1 then .hctlWarm p else if v.getLsbD 0 then .hctlGo p else .registerWrite p off v)
  else if off = 0x048 then .hreqHeadAdvance p v
  else if off = 0x1020 && busy then .cmdWhileBusy p v
  else if 0x100000 ≤ off && off < 0x180000 && off % 64 = 0x08 then .queueTailWrite p ((off - 0x100000) / 64) v
  else if 0x100000 ≤ off && off < 0x180000 && off % 64 = 0x30 then .queueEnWrite p ((off - 0x100000) / 64) v
  else if 0x200000 ≤ off && off < 0x208000 && off % 16 = 8 then .msixUnmask p ((off - 0x200000) / 16) v
  else .registerWrite p off v

/-- The instruction of a word given as the opcode table numbers bits: a team's word, eight bytes, the first at the lowest
address; none where `decode` refuses. -/
def decodeTableWord (nbits w : Nat) : Option Instr :=
  if 64 < nbits then none
  else match decode .team (bytesOf 8 (w % 2 ^ nbits)) with
    | .ok (i, _) => some i
    | .error _ => none

end Sys2Proof
end

