-- ==== Sys2Proof/Machine/Num.lean ====
section
/-! DEFINITION. The number formats and exact arithmetic of 03: decoding (R71, R80), Round with its five flags (R73 to R77,
R79, R82), conversions (R79, R83), exact sums and products (R76, R78), and plane reads (R85 to R87). An exact value is a
signed dyadic number; a real that is not dyadic is given to Round as a dyadic number strictly between the same neighbours. -/

namespace Sys2Proof.Machine

/-- An exact value: NaN (made = produced from operands that are not NaN, for the flag INVALID of R77), an infinity, or
± m × 2^e, with ± 0 when m is 0. -/
inductive XVal where
  | nan (made : Bool)
  | inf (neg : Bool)
  | fin (neg : Bool) (m : Nat) (e : Int)
  deriving DecidableEq, Repr

/-- The bits of a natural number: 0 for 0, else ⌊log2⌋ + 1. -/
def bitLen (n : Nat) : Nat := if n = 0 then 0 else Nat.log2 n + 1

/-- Two's complement: the low n bits of x as a signed number (Sext of R37). -/
def sext (x n : Nat) : Int :=
  let y := x % 2 ^ n
  if 2 * y < 2 ^ n then (y : Int) else (y : Int) - (2 ^ n : Nat)

/-- The low n bits of an integer, as a natural number. -/
def wrap (x : Int) (n : Nat) : Nat := (x % ((2 ^ n : Nat) : Int)).toNat

/-- Clamp an integer into [lo, hi]. -/
def clampInt (lo hi x : Int) : Int := if x < lo then lo else if hi < x then hi else x

def XVal.ofInt (x : Int) : XVal := .fin (x < 0) x.natAbs 0

/-! ## Formats -/

/-- The format of a code 0 to 9 (Table 03-1). -/
def fmtOf : Nat → Option Fmt
  | 0 => some .fp32 | 1 => some .bf16 | 2 => some .fp16 | 3 => some .e4m3 | 4 => some .e5m2
  | 5 => some .int8 | 6 => some .int4 | 7 => some .ts8 | 8 => some .int16 | 9 => some .int32 | _ => none

/-- Bits of a format (Table 03-1). -/
def fmtBits : Fmt → Nat
  | .fp32 | .int32 => 32 | .bf16 | .fp16 | .int16 => 16 | .e4m3 | .e5m2 | .int8 | .ts8 => 8 | .int4 => 4

/-- Is the format an integer format (Table 03-1)? TS8 is float-class (R88). -/
def fmtInt : Fmt → Bool
  | .int8 | .int4 | .int16 | .int32 => true | _ => false

/-- Exponent bits, fraction bits and bias of a binary floating format (Table 03-2); none for the others. -/
def fmtFloat : Fmt → Option (Nat × Nat × Int)
  | .fp32 => some (8, 23, 127) | .bf16 => some (8, 7, 127) | .fp16 => some (5, 10, 15)
  | .e4m3 => some (4, 3, 7) | .e5m2 => some (5, 2, 15) | _ => none

/-- Planes of the head and of the significand region; b and 0 for the formats that have no head (Table 03-1). -/
def fmtPlanes : Fmt → Nat × Nat
  | .bf16 => (9, 8) | .e4m3 => (5, 4) | .e5m2 => (6, 4) | .int8 => (8, 0) | .int4 => (4, 0) | .ts8 => (8, 0) | _ => (0, 0)

/-- Encoding of the largest finite magnitude (Table 03-3). -/
def maxEnc : Fmt → Nat
  | .fp32 => 0x7F7FFFFF | .bf16 => 0x7F7F | .fp16 => 0x7BFF | .e4m3 => 0x7E | .e5m2 => 0x7B | _ => 0

/-- The canonical NaN (Table 03-3, R72); for TS8 the zero that stands for it (R82). -/
def nanEnc : Fmt → Nat
  | .fp32 => 0x7FC00000 | .bf16 => 0x7FC0 | .fp16 => 0x7E00 | .e4m3 => 0x7F | .e5m2 => 0x7E | .ts8 => 0x77 | _ => 0

/-- The value of the fields of a binary floating format (R71, R86): J is the implicit bit. -/
def floatValue (m : Nat) (bias : Int) (neg : Bool) (e j frac : Nat) : XVal :=
  .fin neg (j * 2 ^ m + frac) ((max e 1 : Nat) - bias - m)

/-- Decode a binary floating encoding (R71). -/
def decodeFloat (f : Fmt) (eb mb : Nat) (bias : Int) (x : Nat) : XVal :=
  let neg := x.testBit (eb + mb)
  let e := x / 2 ^ mb % 2 ^ eb
  let m := x % 2 ^ mb
  if e = 2 ^ eb - 1 ∧ f ≠ .e4m3 then (if m = 0 then .inf neg else .nan false)
  else if e = 15 ∧ m = 7 ∧ f = .e4m3 then .nan false
  else floatValue mb bias neg e (if e = 0 then 0 else 1) m

/-- One term of a TS8 byte times 64 (R80). -/
def ts8Term (s : Bool) (c : Nat) : Int := if c < 7 then (if s then -(2 ^ (6 - c) : Int) else 2 ^ (6 - c)) else 0

/-- The value of a TS8 byte times 64 (R80). -/
def ts8Value (x : Nat) : Int := ts8Term (x.testBit 7) (x / 16 % 8) + ts8Term (x.testBit 3) (x % 8)

/-- Decode an encoding's low bits (R71, R79, R80). Every TS8 zero reads as +0. -/
def decodeNum (f : Fmt) (x : Nat) : XVal :=
  match fmtFloat f with
  | some (eb, mb, bias) => decodeFloat f eb mb bias x
  | none =>
    if f = .ts8 then .fin (ts8Value x < 0) (ts8Value x).natAbs (-6)
    else XVal.ofInt (sext x (fmtBits f))

/-! ## Round -/

/-- What Round gives: the encoding, zero- or sign-extended to 32 bits as CVT writes it, and the flags of R77. -/
structure Rounded where
  enc : Lane32
  invalid : Bool := false
  overflow : Bool := false
  underflow : Bool := false
  inexact : Bool := false
  saturated : Bool := false
  deriving DecidableEq, Repr

/-- Is the quotient rounded up in magnitude, given the discarded part's relation to a half (lt, eq, gt), whether anything is
discarded, and whether the kept part is odd (R73)? -/
def roundUp (rm : Rnd) (neg odd : Bool) (half : Ordering) (rest : Bool) : Bool :=
  match rm with
  | .rne => half == .gt || (half == .eq && odd)
  | .rz => false
  | .ru => rest && !neg
  | .rd => rest && neg

/-- m × 2^(−d) rounded to an integer under rm, and whether anything was discarded (R73, R79). -/
def roundShift (rm : Rnd) (neg : Bool) (m d : Nat) : Nat × Bool :=
  let d := min d (bitLen m + 2)
  let q := m / 2 ^ d
  let r := m % 2 ^ d
  (q + (if roundUp rm neg (q % 2 == 1) (compare (2 * r) (2 ^ d)) (r != 0) then 1 else 0), r != 0)

/-- Set the sign bit above the fields of a binary floating format. -/
def withSign (eb mb : Nat) (neg : Bool) (x : Nat) : Nat := if neg then x + 2 ^ (eb + mb) else x

/-- Overflow of Table 03-4 (R74): the encoding's magnitude and sign kept, infinity or the largest finite value. -/
def overflowEnc (f : Fmt) (eb mb : Nat) (rm : Rnd) (sat neg : Bool) : Nat :=
  let toMax := sat || f == .e4m3 || match rm with
    | .rne => false | .rz => true | .ru => neg | .rd => !neg
  withSign eb mb neg (if toMax then maxEnc f else 2 ^ mb * (2 ^ eb - 1))

/-- Round a finite non-zero value to a binary floating format (R73, R74, R75, R77). -/
def roundFloat (f : Fmt) (eb mb : Nat) (bias : Int) (rm : Rnd) (sat ftz neg : Bool) (m : Nat) (e : Int) : Rounded :=
  let qmin := 1 - bias - mb
  let q := max (e + bitLen m - 1 - mb) qmin
  let (n, rest) := if q ≤ e then (m * 2 ^ (e - q).toNat, false) else roundShift rm neg m (q - e).toNat
  let enc := (q - qmin).toNat * 2 ^ mb + n
  if maxEnc f < enc then
    { enc := .ofNat 32 (overflowEnc f eb mb rm sat neg), overflow := true, inexact := true, saturated := sat || f == .e4m3 }
  else if enc < 2 ^ mb ∧ ftz ∧ f = .fp32 then
    { enc := .ofNat 32 (withSign eb mb neg 0), underflow := rest || enc != 0, inexact := rest || enc != 0 }
  else { enc := .ofNat 32 (withSign eb mb neg enc), underflow := rest && enc < 2 ^ mb, inexact := rest }

/-- Canonical encodings of the TS8 value v / 64 (R81): the one with c2 = 7 when it exists, else the smallest c1. -/
def ts8Enc (v : Int) : Nat :=
  if v = 0 then 0x77 else
    let s := if v < 0 then 8 else 0
    let one := (List.range 7).map fun c => (s + c) * 16 + 7
    let two := (List.range 7).flatMap fun c1 => (List.range 7).flatMap fun c2 =>
      if c1 ≤ c2 then [(s + c1) * 16 + c2, (s + c1) * 16 + 8 + c2] else []
    ((one ++ two).find? fun x => ts8Value x == v).getD 0x77

/-- Magnitudes of the TS8 values times 64, 0 to 128, ascending (R80). -/
def ts8Mags : List Nat :=
  (List.range 129).filter fun n => (List.range 8).any fun c1 => (List.range 8).any fun c2 =>
    ts8Term false c1 + ts8Term false c2 == (n : Int) || ts8Term false c1 - ts8Term false c2 == (n : Int)

/-- Round a finite value to TS8 (R82). -/
def roundTs8 (rm : Rnd) (neg : Bool) (m : Nat) (e : Int) : Rounded :=
  -- |x| × 64 = a / b
  let x := e + 6
  let a := if 0 ≤ x then m * 2 ^ (min x.toNat 16) else m
  let b := if 0 ≤ x then 1 else 2 ^ (min (-x).toNat (bitLen m + 16))
  if 128 * b < a then { enc := if neg then 0x88 else 0x00, inexact := true, saturated := true } else
    let lo := (ts8Mags.filter fun k => k * b ≤ a).getLast?.getD 0
    let hi := (ts8Mags.find? fun k => a ≤ k * b).getD 128
    let up : Bool := match rm with
      | .rne => decide ((lo + hi) * b < 2 * a)
      | .rz => false
      | .ru => !neg
      | .rd => neg
    let k : Int := if up then hi else lo
    { enc := .ofNat 32 (ts8Enc (if neg then -k else k)), inexact := lo != hi }

/-- A value rounded to an integer under rm (R79); the flag says whether it was inexact. -/
def roundInt (rm : Rnd) (neg : Bool) (m : Nat) (e : Int) : Int × Bool :=
  if 0 ≤ e then
    -- beyond 2^64 every integer format is out of range
    let v : Int := m * 2 ^ (min e.toNat 64)
    (if neg then -v else v, false)
  else
    let (n, rest) := roundShift rm neg m (-e).toNat
    (if neg then -(n : Int) else n, rest)

/-- An exact value to an integer format of n bits, sign-extended to 32 (R79). A value out of range raises INVALID or SATURATED alone,
as Table 03-6 lists for 200.5 to INT8 (R77, R83; log 83). -/
def toInt (n : Nat) (rm : Rnd) (sat : Bool) (x : XVal) : Rounded :=
  let lo : Int := -(2 ^ (n - 1) : Int)
  let hi : Int := 2 ^ (n - 1) - 1
  let out (neg : Bool) : Rounded :=
    if sat then { enc := .ofInt 32 (if neg then lo else hi), saturated := true }
    else { enc := .ofInt 32 lo, invalid := true }
  match x with
  | .nan _ => { enc := if sat then 0 else .ofInt 32 lo, invalid := true }
  | .inf neg => out neg
  | .fin neg m e =>
    let (v, rest) := roundInt rm neg m e
    if v < lo || hi < v then out neg else { enc := .ofInt 32 v, inexact := rest }

/-- Round(x, fmt, rm, sat) of R37 with sr.mode.FTZ (R73 to R77, R79, R82). -/
def round (f : Fmt) (rm : Rnd) (sat ftz : Bool) (x : XVal) : Rounded :=
  match fmtFloat f with
  | some (eb, mb, bias) =>
    match x with
    | .nan made => { enc := .ofNat 32 (nanEnc f), invalid := made }
    | .inf neg =>
      if f = .e4m3 then
        (if sat then { enc := .ofNat 32 (withSign eb mb neg (maxEnc f)), saturated := true }
         else { enc := .ofNat 32 (nanEnc f), invalid := true })
      else { enc := .ofNat 32 (withSign eb mb neg (2 ^ mb * (2 ^ eb - 1))) }
    | .fin neg 0 _ => { enc := .ofNat 32 (withSign eb mb neg 0) }
    | .fin neg (m + 1) e => roundFloat f eb mb bias rm sat ftz neg (m + 1) e
  | none =>
    if f = .ts8 then
      match x with
      | .nan _ => { enc := 0x77, invalid := true }
      | .inf neg => { enc := if neg then 0x88 else 0x00, saturated := true }
      | .fin neg m e => roundTs8 rm neg m e
    else toInt (fmtBits f) rm sat x

/-! ## Exact operations -/

def XVal.neg : XVal → XVal
  | .nan a => .nan a | .inf s => .inf (!s) | .fin s m e => .fin (!s) m e

/-- A finite value as a signed multiple of 2^e0, for e0 at most its exponent. -/
def finAt (neg : Bool) (m : Nat) (e e0 : Int) : Int :=
  let n : Int := (m * 2 ^ (e - e0).toNat : Nat)
  if neg then -n else n

/-- Exact sum, with the zero of R76 under rm; ∞ − ∞ is a NaN (R78). -/
def XVal.add (rm : Rnd) : XVal → XVal → XVal
  | .nan a, .nan b => .nan (a && b)
  | .nan a, _ => .nan a
  | _, .nan b => .nan b
  | .inf a, .inf b => if a = b then .inf a else .nan true
  | .inf a, _ => .inf a
  | _, .inf b => .inf b
  | .fin s m e, .fin t n f =>
    let e0 := if m = 0 then f else if n = 0 then e else min e f
    let v := finAt s m e e0 + finAt t n f e0
    if v = 0 then (if m = 0 ∧ n = 0 ∧ s = t then .fin s 0 0 else .fin (rm == .rd) 0 0)
    else .fin (v < 0) v.natAbs e0

/-- Exact product; 0 × ∞ is a NaN (R78). -/
def XVal.mul : XVal → XVal → XVal
  | .nan a, .nan b => .nan (a && b)
  | .nan a, _ => .nan a
  | _, .nan b => .nan b
  | .inf a, .inf b => .inf (a != b)
  | .inf a, .fin t n _ => if n = 0 then .nan true else .inf (a != t)
  | .fin s m _, .inf b => if m = 0 then .nan true else .inf (s != b)
  | .fin s m e, .fin t n f => .fin (s != t) (m * n) (e + f)

/-- Times a power of two. -/
def XVal.scale (k : Int) : XVal → XVal
  | .fin s m e => .fin s m (e + k) | x => x

/-- A positive real between n × 2^e and (n + 1) × 2^e, the lower end itself when exact: the dyadic number that every format
rounds alike, given n of 64 bits or more. -/
def sticky (neg : Bool) (n : Nat) (e : Int) (exact : Bool) : XVal :=
  .fin neg (2 * n + (if exact then 0 else 1)) (e - 1)

/-- Exact quotient for Round (FRCP of R103, BLKSCALE of R106). x / 0 is ±∞ for non-zero x and a NaN for 0. -/
def XVal.div : XVal → XVal → XVal
  | .nan a, .nan b => .nan (a && b)
  | .nan a, _ => .nan a
  | _, .nan b => .nan b
  | .inf a, .inf b => (let _ := a; let _ := b; .nan true)
  | .inf a, .fin t _ _ => .inf (a != t)
  | .fin s _ _, .inf b => .fin (s != b) 0 0
  | .fin s m e, .fin t n f =>
    if n = 0 then (if m = 0 then .nan true else .inf (s != t))
    else if m = 0 then .fin (s != t) 0 0
    else
      let k := 80 + bitLen n
      let a := m * 2 ^ k
      sticky (s != t) (a / n) (e - f - k) (a % n == 0)

/-- An operand as a float instruction reads it: an FP32 subnormal is a zero of its sign when FTZ is 1 (R75). -/
def readF32 (ftz : Bool) (x : Lane32) : XVal :=
  match decodeNum .fp32 x.toNat with
  | .fin s m e => if ftz && x.toNat % 2 ^ 31 < 2 ^ 23 then .fin s 0 0 else .fin s m e
  | v => v

/-- The encoding itself with a subnormal flushed (R75, R101). -/
def flushF32 (ftz : Bool) (x : Lane32) : Lane32 :=
  if ftz && x.toNat % 2 ^ 31 < 2 ^ 23 then x &&& 0x80000000 else x

def negF32 (n : Bool) (x : Lane32) : Lane32 := if n then x ^^^ 0x80000000 else x

/-- Is an FP32 encoding a NaN (R71)? -/
def nanF32 (x : Lane32) : Bool := 0x7F800000 < x.toNat % 2 ^ 31

/-- A key that orders FP32 encodings that are not NaN by value, −0 below +0 (R101). -/
def keyF32 (x : Lane32) : Int := if x.msb then -((x.toNat % 2 ^ 31 : Nat) : Int) - 1 else (x.toNat : Int)

/-- FMIN and FMAX (R101), on operands as read. -/
def fminmax (isMax ftz : Bool) (a b : Lane32) : Lane32 :=
  let a := flushF32 ftz a
  let b := flushF32 ftz b
  if nanF32 a && nanF32 b then 0x7FC00000 else if nanF32 a then b else if nanF32 b then a
  else if (if isMax then keyF32 a < keyF32 b else keyF32 b < keyF32 a) then b else a

/-- Are two values, not NaN, ordered so (FCMP of R101)? Zeros of either sign are equal. -/
def xvalCompare : XVal → XVal → Ordering
  | .inf a, .inf b => if a = b then .eq else if a then .lt else .gt
  | .inf a, _ => if a then .lt else .gt
  | _, .inf b => if b then .gt else .lt
  | .fin s m e, .fin t n f => compare (finAt s m e (min e f)) (finAt t n f (min e f))
  | _, _ => .eq

/-- FCMP's condition 0 to 7 (R101). -/
def fcmpCond (c : Nat) (a b : XVal) : Bool :=
  match a, b with
  | .nan _, _ | _, .nan _ => c == 1 || c == 7
  | a, b =>
    let o := xvalCompare a b
    match c with
    | 0 => o == .eq | 1 => o != .eq | 2 => o == .lt | 3 => o != .gt | 4 => o == .gt | 5 => o != .lt | 6 => true | _ => false

/-- FCLASS's mask (R101). -/
def fclassMask (f : Fmt) (x : Nat) : Nat :=
  match fmtFloat f with
  | none => 0
  | some (eb, mb, bias) =>
    let sub := x / 2 ^ mb % 2 ^ eb == 0
    match decodeFloat f eb mb bias x with
    | .nan _ => 256
    | .inf true => 1 | .inf false => 128
    | .fin true 0 _ => 8 | .fin false 0 _ => 16
    | .fin true _ _ => if sub then 4 else 2
    | .fin false _ _ => if sub then 32 else 64

/-- Conversion of the source's low bits to the destination format (R104, R79, R83). -/
def convert (src dst : Fmt) (rm : Rnd) (sat ftz : Bool) (x : Lane32) : Rounded :=
  if fmtInt src && fmtInt dst then
    let v := sext x.toNat (fmtBits src)
    let n := fmtBits dst
    let c := clampInt (-(2 ^ (n - 1) : Int)) (2 ^ (n - 1) - 1) v
    if sat then { enc := .ofInt 32 c, saturated := c != v, inexact := c != v }
    else { enc := .ofInt 32 (sext (wrap v n) n), invalid := c != v, inexact := c != v }
  else round dst rm sat ftz (if src = .fp32 then readF32 ftz x else decodeNum src x.toNat)

/-! ## Planes -/

/-- Bit of plane p of an element's encoding, planes in the order of R85: for float formats the sign and exponent planes, then
the implicit plane (R86), then the fraction planes, then E5M2's pad; for the others the bits from the top. -/
def planeBit (f : Fmt) (p x : Nat) : Bool :=
  match fmtFloat f with
  | some (eb, mb, _) =>
    if p ≤ eb then x.testBit (eb + mb - p)
    else if p = eb + 1 then x / 2 ^ mb % 2 ^ eb != 0
    else if p < eb + 2 + mb then x.testBit (eb + mb + 1 - p) else false
  | none => x.testBit (fmtBits f - 1 - p)

/-- The encoding bit that plane p carries; none for the implicit and the pad plane (R107). -/
def planePos (f : Fmt) (p : Nat) : Option Nat :=
  match fmtFloat f with
  | some (eb, mb, _) =>
    if p ≤ eb then some (eb + mb - p) else if p = eb + 1 then none
    else if p < eb + 2 + mb then some (eb + mb + 1 - p) else none
  | none => some (fmtBits f - 1 - p)

/-- An element read from plane layout with p of its s significand planes (R86, R87), or with p of its b planes; `bit` says
what stands in each plane. -/
def planeElem (f : Fmt) (p : Nat) (bit : Nat → Bool) : XVal :=
  let num (i n : Nat) : Nat := (List.range n).foldl (fun a k => 2 * a + (if bit (i + k) then 1 else 0)) 0
  match fmtFloat f with
  | some (eb, mb, bias) =>
    let neg := bit 0
    let e := num 1 eb
    let j := if 0 < p ∧ bit (eb + 1) then 1 else 0
    let k := min (p - 1) mb
    let frac := num (eb + 2) k * 2 ^ (mb - k)
    if f = .e4m3 then
      (if e = 15 ∧ 4 ≤ p ∧ j = 1 ∧ frac = 7 then .nan false else floatValue mb bias neg e j frac)
    else if e = 2 ^ eb - 1 then (if frac = 0 then .inf neg else .nan false)
    else floatValue mb bias neg e j frac
  | none =>
    let b := fmtBits f
    if f = .ts8 then decodeNum .ts8 (num 0 8)
    else XVal.ofInt (sext (num 0 (min p b) * 2 ^ (b - min p b)) b)

end Sys2Proof.Machine
end

