-- ==== Sys2Proof/Machine/Sparse.lean ====
section
/-! DEFINITION. Sparse maps as plain data: lists of key and value in one canonical form (keys strictly rising; where a
default is named, no entry equal to it), and the bit-mask helpers of the lanes (R18). -/

namespace Sys2Proof.Machine

/-- The value at a key. -/
def find {α : Type} (m : List (Nat × α)) (k : Nat) : Option α := (m.find? fun e => e.1 == k).map (·.2)

/-- The map without a key. -/
def erase {α : Type} (m : List (Nat × α)) (k : Nat) : List (Nat × α) := m.filter fun e => e.1 != k

/-- Insert before the first greater key. -/
def insertAt {α : Type} (k : Nat) (v : α) : List (Nat × α) → List (Nat × α)
  | [] => [(k, v)]
  | e :: m => if k < e.1 then (k, v) :: e :: m else e :: insertAt k v m

/-- The map with a key at a value. -/
def put {α : Type} (m : List (Nat × α)) (k : Nat) (v : α) : List (Nat × α) := insertAt k v (erase m k)

/-- The value at a key, d where it is not listed. -/
def getD {α : Type} (d : α) (m : List (Nat × α)) (k : Nat) : α := (find m k).getD d

/-- The map with a key at a value; the default is not listed. -/
def setD {α : Type} [DecidableEq α] (d : α) (m : List (Nat × α)) (k : Nat) (v : α) : List (Nat × α) :=
  if v = d then erase m k else put m k v

/-- The canonical form: keys strictly rising. -/
abbrev Rising {α : Type} (m : List (Nat × α)) : Prop := m.Pairwise fun a b => a.1 < b.1

/-- The canonical form with a default: strictly rising and no entry equal to the default. -/
abbrev Canon {α : Type} (d : α) (m : List (Nat × α)) : Prop := Rising m ∧ ∀ e ∈ m, e.2 ≠ d

/-! ## Lanes -/

/-- The mask of lanes 0 to n − 1. -/
def laneMask (n : Nat) : Mask := BitVec.ofNat 1024 (2 ^ n - 1)

/-- The lanes of a mask in ascending order, among the first n. -/
def lanesOf (n : Nat) (m : Mask) : List Nat := (List.range n).filter fun L => m.getLsbD L

/-- The mask of the lanes of [0, n) that satisfy p. -/
def maskOf (n : Nat) (p : Nat → Bool) : Mask :=
  BitVec.ofNat 1024 ((List.range n).foldl (fun a L => if p L then a + 2 ^ L else a) 0)

/-- The summary word: bit g set when word g of the mask is non-zero (R18). -/
def summary (m : Mask) : BitVec 32 :=
  BitVec.ofNat 32 ((List.range 32).foldl (fun a g => if m.extractLsb' (32 * g) 32 == 0 then a else a + 2 ^ g) 0)

/-- Fold a partial function over a list, stopping at the first refusal. -/
def foldOpt {α β : Type} (f : β → α → Option β) : β → List α → Option β
  | b, [] => some b
  | b, x :: xs => match f b x with
    | none => none
    | some b' => foldOpt f b' xs

end Sys2Proof.Machine
end

