-- ==== Sys2Proof/Machine/State.lean ====
section
/-! DEFINITION. The state of the pod as plain data, the reasons a step can stop, and the state right after reset. Every map
is a list of key and value (Machine/Sparse.lean). Packages, cores, dies, shares and teams that are not listed read as a
record at reset, so that the pod has all of Config.maxPackages packages. -/

namespace Sys2Proof.Machine

open Host

/-! ## Numbers that name things

p is a package, core = 48 p + c a core of the pod, die = 4 p + d a compute die, tk = 20 core + slot a team slot (slots 16 to
19 are the reeve slots, R308; 138,240 n + 20 core + slot with n above 0 is a team in its image that left that slot, R313), key = 2,048 GPN + sector a 32-byte sector of the pod, frame = 2 set + way a frame. -/

/-- Causes of Table 12-1. -/
inductive Cause where
  | illegal | role | privilege | trap | bounds | misaligned | shape | translation | permission | rangeLock | pageLost
  | poison | departedStore | deferred
  deriving DecidableEq, Repr

/-- What a lane's entry of the cause record holds: its cause and its effective address (R281). -/
structure LaneCause where
  lane : Nat
  cause : Cause
  ea : Word
  deriving DecidableEq, Repr

/-- The cause record of a frozen team (R281). -/
structure CauseRec where
  lanes : List LaneCause := []
  /-- Primary cause code, subcode, and the 16-bit field. -/
  primary : Nat := 0
  sub : Nat := 0
  field : Nat := 0
  imprecise : Bool := false
  addr : Word := 0
  /-- The freeze was raised at a clause header (R42). -/
  atHeader : Bool := false
  deriving DecidableEq, Repr

/-- Kinds of a mask-stack entry, codes 0 to 4 (R118). -/
inductive EntryKind where
  | ifE | elseE | loopE | contE | callE
  deriving DecidableEq, Repr

structure StackEntry where
  kind : EntryKind
  mask : Mask
  addr : Word
  deriving DecidableEq, Repr

/-- A register that an instruction may write. -/
inductive RegId where
  | v (n : Nat) | s (n : Nat) | k (n : Nat)
  deriving DecidableEq, Repr

/-- A short-latency write of the current clause, not yet read by every later word (R53): word index, latency, register,
lane (0 for s registers) and value. -/
structure Pend where
  word : Nat
  lat : Nat
  reg : RegId
  lane : Nat
  val : Word
  deriving DecidableEq, Repr

/-- A byte of a long-latency result: known, or byte ix of the sector that a request will bring. -/
inductive Src where
  | known (b : Byte)
  | await (req ix : Nat)
  deriving DecidableEq, Repr

/-- One register of one lane of a long-latency result; sx sign-extends the bytes (R127); stale: a later instruction writes the
place, so that the value may be read only until that write has been (R54). -/
structure Part where
  reg : RegId
  lane : Nat
  bytes : List Src
  sx : Bool := false
  stale : Bool := false
  deriving DecidableEq, Repr

/-- An outstanding long-latency result (R54); word is none once its clause has ended. -/
structure LongRes where
  word : Option Nat
  parts : List Part
  deriving DecidableEq, Repr

/-- A byte of the machine by its resolved place: a global byte 65,536 GPN + offset, or a scratchpad byte of a share. -/
inductive Loc where
  | glob (a : Nat)
  | sp (sh off : Nat)
  deriving DecidableEq, Repr

/-- A barrier registration (R158). -/
structure Registration where
  sh : Nat
  off : Nat
  pending : Bool
  phase : Bool
  deriving DecidableEq, Repr

/-- One byte buffered by a store of an open try region, in program order (R169). -/
structure BufByte where
  lane : Nat
  loc : Loc
  val : Byte
  /-- The effective address of the lane's store (R289). -/
  ea : Word := 0
  deriving DecidableEq, Repr

/-- One sector of a lane's footprint; dirty when another agent has written it since the lane first touched it (R169, R172). -/
structure Foot where
  lane : Nat
  sector : Loc
  dirty : Bool
  deriving DecidableEq, Repr

/-- An open try region with its checkpoint (R169). -/
structure TryRegion where
  laneMode : Bool
  abortPc : Word
  v : List (Nat × Lane32)
  s : List (Nat × Word)
  k : List (Nat × Mask)
  live : Mask
  active : Mask
  depth : Nat
  buf : List BufByte := []
  foot : List Foot := []
  deriving DecidableEq, Repr

/-- What a parked team waits for (R37). -/
inductive Cond where
  /-- The switch marker: every outstanding result returned (R55). -/
  | results
  /-- The waits of the clause header at the pc (R43). -/
  | header
  /-- Admission at an allotment (R29, R174). -/
  | admission (a : Nat)
  | batch (m : BitVec 16)
  /-- A batch may be opened (R150). -/
  | batchRoom
  /-- These requests of the word are done: the bytes it reads have been brought (R145, R175, R187). -/
  | fetched (rs : List Nat)
  | bell (b : Nat)
  | barrier (sh off : Nat) (phase : Bool)
  | ringSend (r : Nat)
  | ringTake (r : Nat)
  /-- Lock entries free: core and count (R137). -/
  | locks (need : List (Nat × Nat))
  /-- The core's waiting list has room (R288). -/
  | listRoom
  | sleep (until_ : Nat)
  /-- The pending-launch store has room (R175). -/
  | launchRoom
  /-- Posted requests of the package with a number below n are acknowledged (R348). -/
  | acks (n : Nat)
  /-- The core holds few enough requests (R219). -/
  | requests (n : Nat)
  /-- The host's answer to a walk (R316). -/
  | walk (ix : Nat)
  /-- No range lock of a context, and no page change, touches n bytes at an address (R180). -/
  | drained (ctx lo n : Nat)
  /-- No change of these pages is in progress (R255). -/
  | still (gpns : List Nat)
  /-- A lodging is over; own: the page for whose switch it was begun (R270, R372). -/
  | lodged (ch : Nat) (own : Option Nat)
  /-- The team's earlier accesses have been performed (R225). -/
  | quiet
  /-- As quiet, for a word that has taken effect; its acquire at a scope follows; z: its switch marker (R226, R55). -/
  | acquired (scope : Nat) (z : Bool)
  /-- The frozen team steps (R184). -/
  | step (tk : Nat)
  deriving DecidableEq, Repr

inductive Run where
  | running
  /-- A freeze that waits for the team's outstanding results (R56). -/
  | freezing
  /-- An abort of its try region that waits for them (R171): code and user code. -/
  | aborting (code user : Nat)
  | parked (c : Cond)
  | frozen
  | ended
  deriving DecidableEq, Repr

/-- What stays known of an ended team (R24, R284, R291, R298). -/
structure Ended where
  serial : Nat
  core : Nat
  grid : Nat
  ctx : Nat
  teamIx : Nat
  cluster : Nat
  cl : Nat
  share : Nat
  role : Role := .general
  deriving DecidableEq, Repr

/-- A reeve's handle (R181, R285); a DEPARTED handle carries its record and what is known of the ended team (R291). -/
inductive Handle where
  | none
  | frozen (tk : Nat)
  | departed (e : Ended) (rec : CauseRec)
  deriving DecidableEq, Repr

/-- An imprecise report (R289): reason of Table 12-2, cause, instruction address, sector (2,048 GPN + sector) and lanes with
their effective addresses. -/
structure Report where
  tk : Nat
  serial : Nat
  reason : Nat
  cause : Cause
  addr : Word
  sector : Nat
  lanes : List (Nat × Word)
  deriving DecidableEq, Repr

/-- A team or a reeve. -/
structure Team where
  share : Nat
  cl : Nat
  grid : Nat
  ctx : Nat
  serial : Nat
  teamIx : Nat
  cluster : Nat
  slotT : Nat
  lanes : Nat
  role : Role
  version : Nat
  pro : Nat
  full : Nat
  allot : Nat
  pc : Word
  /-- The word of the current clause that issues next; none at the header. -/
  word : Option Nat
  hdr : HF
  live : Mask
  active : Mask
  masks : List StackEntry
  v : List (Nat × Lane32)
  s : List (Nat × Word)
  k : List (Nat × Mask)
  pend : List Pend
  outst : List LongRes
  ftz : Bool
  spextra : BitVec 32
  batch : BitVec 16
  batchDone : BitVec 16
  /-- Transfers of the forming batch, whether it has had any, and open batches with the transfers they wait for (R150). -/
  forming : List Nat
  formed : Bool := false
  batches : List (BitVec 16 × List Nat)
  /-- Widest completion scope of the transfers not yet observed by a wait (R236). -/
  copyScope : Nat
  copyStatus : Nat
  seen : BitVec 16
  regs : List Registration
  syncMark : Option Word
  tryR : Option TryRegion
  tryCode : BitVec 8
  tryUser : BitVec 8
  tryAborts : BitVec 32
  run : Run
  cause : CauseRec
  reports : List Report
  /-- The lanes of a word that FRESUME.retry or FSTEP re-executes (R286). -/
  retry : Option Mask
  h0 : Handle
  spawnedAt : Nat
  /-- Admitted under R29, and the number that orders admissions or waits (R310, R373). -/
  admitted : Bool
  admitSeq : Nat
  withdrawn : Bool
  giveMark : Bool
  gapUntil : Nat
  readyAt : Nat
  sleepUntil : Option Nat
  /-- Posted-request number a release of the current word waits for (R348). -/
  relWait : Option Nat
  /-- The reeve or command (none) that steps this team (R184). -/
  stepping : Option (Option Nat)
  stamp : Nat
  /-- Escalated, frozen for the host (R292); held frozen outside a full waiting list (R288). -/
  escalated : Bool
  /-- Failing answers of the host to the walks of the word that issues, by context and page (R316). -/
  fails : List (Nat × Cause) := []
  /-- It holds an issue slot: it is inside a clause (R57, R308). -/
  inSlot : Bool := false
  /-- A kill has ended it while a release of its word waited: it only completes that word (R357). -/
  doomed : Bool := false
  /-- What a parked word that has begun to act read when it issued (R52). -/
  latch : Option (List Word) := none
  /-- Sectors that requests brought for the word that waits, by key (R145, R175, R187). -/
  brought : List (Nat × List Byte) := []
  deriving DecidableEq, Repr

/-- A bell (Table 06-5). -/
structure Bell where
  expect : Nat := 1
  count : Nat := 0
  phase : Bool := false
  deriving DecidableEq, Repr

/-- Slot states of a stage ring (R165). -/
inductive SlotState where
  | empty | full | taken
  deriving DecidableEq, Repr

/-- A stage ring (R165), with the teams parked in SEND and TAKE in the order in which they parked (R167). -/
structure Ring where
  cap : Nat := 16
  slots : List (SlotState × Word) := List.replicate 16 (.empty, 0)
  tail : Nat := 0
  head : Nat := 0
  free : Nat := 0
  senders : List Nat := []
  takers : List Nat := []
  deriving DecidableEq, Repr

/-- An accumulator block: type, SAT, elements keyed 128 i + j, zero where not listed (R200). -/
structure Block where
  isInt : Bool := false
  sat : Bool := false
  elems : List (Nat × Lane32) := []
  deriving DecidableEq, Repr

inductive StreamState where
  | running | waiting (bell : Nat) | halted | ended | killed
  deriving DecidableEq, Repr

/-- A press stream (Table 07-1). -/
structure Stream where
  st : StreamState
  spc : Word
  f : List (Nat × List Byte) := []
  lc : List (Nat × Nat) := []
  seen : BitVec 16 := 0
  blocks : List Block
  bells : List Bell := List.replicate 16 {}
  /-- WAKEAT: by sub-array, the clock at which the last wake that the stream waits for or has started completes. -/
  wakeAt : List (Nat × Nat) := []
  cause : Nat := 0
  sub : Nat := 0
  deriving DecidableEq, Repr

/-- A cluster share (R15, R28): its core is none while the cluster is pre-empted. -/
structure Share where
  core : Option Nat
  cl : Nat
  grid : Nat
  pos : Nat
  spbytes : Nat
  nteams : Nat
  sp : List Cell := []
  rings : List Ring := []
  stream : Option Stream := none
  ended : Bool := false
  deriving DecidableEq, Repr

/-- A cluster (R16, R307): its shares by position; while it is pre-empted its teams stand in their images (R313). -/
structure Cluster where
  grid : Nat
  index : Nat
  cw : Nat
  ch : Nat
  die : Nat
  shares : List Nat
  placedSeq : Nat
  /-- Its teams stop at their next clause boundary (R313, step 1). -/
  stopping : Bool := false
  saving : Bool := false
  saved : Bool := false
  deriving DecidableEq, Repr

/-- A kernel header's fields (Table 01-7). -/
structure Kernel where
  version : Nat
  ftz : Bool
  lanes : Nat
  teams : Nat
  pro8 : Nat
  full8 : Nat
  partition : Nat
  roles : Nat
  entry : Word
  press : Word
  spbytes : Nat
  accblk : Nat
  rings : Nat
  deriving DecidableEq, Repr

/-- A launch record's fields (Table 01-9). -/
structure Launch where
  kernel : Word
  param : Word
  gx : Nat
  gy : Nat
  gz : Nat
  cw : Nat
  ch : Nat
  resOk : Bool
  energy : Nat
  done : Word
  deriving DecidableEq, Repr

/-- A grid (R16, R303 to R307). -/
structure Grid where
  pkg : Nat
  queue : Nat
  ctx : Nat
  kernel : Kernel
  launch : Launch
  ticket : Option Nat
  admittedAt : Nat
  nextCluster : Nat := 0
  clusters : List Nat := []
  metered : Nat := 0
  /-- Every core that the grid has used (R306). -/
  cores : List Nat := []
  /-- The completion's release has been performed: the posted requests with a number below this are waited for (R306, R348). -/
  released : Option Nat := none
  deriving DecidableEq, Repr

/-- What a leaf entry says of a page (Table 10-2), with the context and virtual page it was found for. -/
structure Leaf where
  gpn : Nat
  ord : Nat
  w : Bool
  x : Bool
  pin : Bool
  twin : Bool
  ckpt : Bool
  hotpol : Nat
  ctx : Nat
  vpage : Nat
  deriving DecidableEq, Repr

/-- A cached 32-byte sector (R216, R231): bytes, valid and dirty masks, the counter values recorded for CLUSTER, DIE,
PACKAGE, SYSTEM, and the page's kind UNORD. -/
structure Sector where
  data : List Byte
  valid : BitVec 32
  dirty : BitVec 32
  gens : List (BitVec 4)
  unord : Bool := false
  deriving DecidableEq, Repr

/-- A cache level: sectors by key, generation counters and LASTACQ of CLUSTER, DIE, PACKAGE, SYSTEM (R231, R237). -/
structure Cache where
  sectors : List (Nat × Sector) := []
  gen : List (BitVec 4) := [0, 0, 0, 0]
  lastAcq : List Nat := [0, 0, 0, 0]
  deriving DecidableEq, Repr

/-- A TLB entry (R246): context, first page of the run, log2 of its pages, the leaf entry; the second level's counters. -/
structure TlbEnt where
  ctx : Nat
  vpage : Nat
  log : Nat
  ent : Word
  rhot : Nat := 0
  whot : Nat := 0
  deriving DecidableEq, Repr

/-- A range-lock entry (R137): the transfer that holds it, its kind, and its byte range. Global ranges are virtual
addresses of a context; scratchpad ranges are offsets of a share. -/
structure Lock where
  xfer : Nat
  write : Bool
  /-- Context of a global range, or none with the share of a scratchpad range. -/
  ctx : Option Nat
  sh : Nat
  lo : Nat
  hi : Nat
  deriving DecidableEq, Repr

/-- A core. -/
structure Core where
  energy : BitVec 64 := 0
  l1 : Cache := {}
  tlb : List TlbEnt := []
  locks : List Lock := []
  /-- The waiting list of R288, oldest first, and teams held outside it while it is full. -/
  waiting : List Handle := []
  held : List Handle := []
  /-- PRESS_IDLE (Table 07-6). -/
  gated : BitVec 16 := 0xFFFF
  wakes : BitVec 16 := 0
  idle : BitVec 16 := 0x0400
  lastUse : List (Nat × Nat) := []
  /-- Sub-arrays whose wake is under way, with the clock at which it completes (R209). -/
  wakeAt : List (Nat × Nat) := []
  pressFree : Nat := 0
  /-- Partition word the core is set to (R26, R27). -/
  partition : Nat := 0x00181008
  /-- Clauses and press words issued since the last metering tick, by grid (R305). -/
  issued : List (Nat × Nat) := []
  deriving DecidableEq, Repr

/-- Frame states (Table 10-5). -/
inductive FrameState where
  | invalid | replica | masterShared | masterExcl | filling | moving | draining | lost
  deriving DecidableEq, Repr

/-- A frame's tag but for MRU (Table 10-4). -/
structure Tag where
  gpn : Nat := 0
  state : FrameState := .invalid
  pinned : Bool := false
  twin : Bool := false
  deriving DecidableEq, Repr

/-- A hamlet entry (Table 10-7): master 255 when not in this hamlet. -/
structure HamletEnt where
  master : Nat := 255
  present : BitVec 12 := 0
  deriving DecidableEq, Repr

/-- A parish entry (Table 10-8): master 254 is the host spill region. -/
structure ParishEnt where
  refs : Nat
  master : Nat
  twinpkg : Nat := 255
  lost : Bool := false
  pinned : Bool := false
  twin : Bool := false
  busy : Bool := false
  hamlets : BitVec 12 := 0
  deriving DecidableEq, Repr

/-- A work queue (Table 13-1), its context (R360), t_0 of its periods in µs, the entry order of its pending records: a
ticket of the pending-launch store or none for a ring record (R300). -/
structure Queue where
  ring : Nat := 0
  log2n : Nat := 0
  head : BitVec 32 := 0
  tail : BitVec 32 := 0
  period : Nat := 0
  budget : Nat := 0
  deadline : Nat := 0
  refill : Nat := 0
  pcap : Nat := 0
  balance : Int := 0
  used : Nat := 0
  overrun : Bool := false
  bg : Bool := false
  ringErr : Bool := false
  en : Bool := false
  absdl : Nat := 0
  ctx : Nat := 0
  t0 : Nat := 0
  entered : List (Option Nat) := []
  /-- Clock of the last period start; a grid of the queue was live in the current µs (R301, R302). -/
  startedAt : Option Nat := none
  busyUs : Bool := false
  /-- A TAIL write overran the ring, and none has put it right since (R300). -/
  blocked : Bool := false
  /-- The host's ADMIT request for the head record, and its answer (R303). -/
  asked : Option Nat := none
  answer : Option Nat := none
  deriving DecidableEq, Repr

/-- State of a ticket, 0 PENDING, 1 RUNNING, 2 ENDED, and its status (R176). -/
structure Ticket where
  state : Nat
  status : Nat
  deriving DecidableEq, Repr

/-- A translation context record (Table 20-5). -/
structure Context where
  rootTidx : Nat
  rootGpn : Nat
  shbase : Nat
  shw : Nat
  reeveHdr : Word
  reeveParam : Word
  deriving DecidableEq, Repr

/-- An entry of the escalation log (Table 12-5). -/
structure LogEnt where
  clock : Nat := 0
  addr : Word := 0
  tserial : Nat := 0
  rserial : Nat := 0
  kind : Nat := 0
  core : Nat := 0
  cause : Nat := 0
  deriving DecidableEq, Repr

/-- An entry of a stack's error history (Table 10-15). -/
structure HistEnt where
  clock : Nat := 0
  kind : Nat := 0
  symbol : Nat := 0
  way : Nat := 0
  row : Nat := 0
  sector : Nat := 0
  deriving DecidableEq, Repr

/-- A host request in the ring that has not been answered (R365, R366). -/
structure HostReq where
  kind : Nat
  core : Nat
  a : Word
  b : Word
  c : Word
  /-- The team or share whose word asked (R316). -/
  who : Nat := 0
  deriving DecidableEq, Repr

/-- A package. Registers whose fields only software or firmware reads are kept whole. -/
structure Pkg where
  /-- Clock of the pod at this package's last reset; sr.clock counts from it (R24). -/
  resetAt : Nat := 0
  coh : Nat := 0
  podsize : Nat := 1
  discarded : BitVec 64 := 0
  l3 : Cache := {}
  tlb2 : List TlbEnt := []
  frames : List (Nat × Tag) := []
  /-- Sets whose MRU way is way 1 (R250). -/
  mru : List (Nat × Nat) := []
  hbm : List Cell := []
  /-- Poisoned granules, and granules with one correctable symbol error (symbol number), keyed 2,048 frame + sector (R271). -/
  poison : List (Nat × Nat) := []
  symErr : List (Nat × Nat) := []
  refusal : List (Nat × Nat) := []
  /-- Drain holds: frames with the transfers that still read them (R327). -/
  drains : List (Nat × Nat) := []
  hamlet : List (Nat × HamletEnt) := []
  parish : List (Nat × ParishEnt) := []
  hamletOvf : Bool := false
  parishOvf : Bool := false
  /-- Entries a slice holds in SRAM (log 7). -/
  sliceRoom : Nat := 65536
  astat : BitVec 8 := 0
  /-- NEIGH; N0 to N3 read 0 until stage 5 has set them (the model's choice: log 102). -/
  neigh : Word := 0x0000002F00000000
  lodgectl : Word := 0x0000000100001000
  dirUsed : Nat := 0
  dirQuota : Nat := 0
  dirPages : List Nat := []
  scrub : Word := 0x0000006400000000
  pol : List (Nat × Word) := []
  counters : List (Nat × Word) := []
  errTotal : List (Nat × Nat) := []
  errNext : List (Nat × Nat) := []
  history : List (Nat × HistEnt) := []
  gleanAt : List (Nat × Nat) := []
  /-- Stacks for which a GLEAN request waits for room in the host's ring (R365). -/
  gleanDue : List Nat := []
  fstat : BitVec 6 := 0
  wdog : BitVec 16 := 0
  escTotal : Nat := 0
  escNext : Nat := 0
  freezes : Word := 0
  spawns : Word := 0
  log : List (Nat × LogEnt) := []
  ewin : Nat := 2400000
  wavail : Nat := 2400000
  /-- Clocks at which the energy window last began and the last µs was metered (R304, R305). -/
  windowAt : Option Nat := none
  meteredAt : Option Nat := none
  duty : BitVec 7 := 0
  overruns : Word := 0
  preempts : Word := 0
  queues : List (Nat × Queue) := []
  lastBg : Nat := 8191
  pending : List (Nat × (Nat × Launch)) := []
  nextTicket : BitVec 32 := 0
  tickets : List (Nat × Ticket) := []
  endedTickets : List Nat := []
  nextSerial : BitVec 32 := 1
  /-- The last 65,535 teams that ended, newest first (R24, R298). -/
  endedTeams : List Ended := []
  /-- Teams whose LAUNCH waits for room in the pending-launch store, in the order in which they reached it (R175). -/
  launchWait : List Nat := []
  linkUp : BitVec 18 := 0
  downEv : BitVec 18 := 0
  fto : Nat := 2000
  hbmiss : Nat := 4
  packwin : Nat := 64
  hbus : Nat := 10
  idMismatch : Bool := false
  lostmap : BitVec 144 := 0
  /-- Pages of a lost package whose LOSS request waits for room in the host's ring (R316). -/
  lossDue : List Nat := []
  flitsTx : Word := 0
  flitsRx : Word := 0
  packedRd : Word := 0
  resent : Word := 0
  timeouts : Word := 0
  noroute : Word := 0
  /-- Outstanding posted requests by number, with the packet or request they are (R347), and the next number. -/
  posted : List (Nat × Nat) := []
  postSeq : Nat := 0
  /-- Requests in the replay queue, in arrival order (R265). -/
  replay : List Nat := []
  /-- First touches waiting at this slice package, by set, in arrival order (R256). -/
  touchWait : List (Nat × Nat) := []
  /-- Word reads gathered per holder (R349). -/
  gather : List (Nat × List Nat) := []
  /-- Cellar ports: requests in service, keyed 8 (64 stack + port) + tag, and replies owed (R276). -/
  ports : List (Nat × List Word) := []
  stage : Nat := 0
  err : Nat := 0
  /-- Boot block registers FWADDR, CTXPOOL, SPILLBASE, SPILLSIZE, CKPTBASE, CKPTSIZE, HREQBASE, WINCTX, CTXTAB by offset. -/
  boot : List (Nat × Word) := []
  /-- Pages in the host spill region, with their place in it in pages (R262). -/
  spill : List (Nat × Nat) := []
  /-- Poisoned granules of the pages there, keyed 2,048 place + sector (R271). -/
  spillBad : List (Nat × Nat) := []
  hreqHead : BitVec 32 := 0
  hreqTail : BitVec 32 := 0
  hreqs : List (Nat × HostReq) := []
  walkFail : List (Nat × Cause) := []
  args : List (Nat × Word) := []
  cmdOp : Option (BitVec 8) := none
  cmdValue : BitVec 48 := 0
  cmdResult : BitVec 8 := 0
  lostCmd : Bool := false
  busy : Bool := false
  ctxs : List (Nat × Context) := []
  msix : List (Nat × Word) := []
  msixPend : List (Nat × Bool) := []
  /-- Interrupts delivered to the host, newest first. -/
  irqs : List Nat := []
  /-- Fused minimum SVN, and the SVN and hash of the verified image: 0 before there is one (R9, R369, R370; log 71). -/
  minSvn : Nat := 0
  svn : Nat := 0
  imageHash : BitVec 512 := 0
  throttled : Bool := false
  /-- Clock of the pod at the last heartbeat, the period that stood then, and the HBMISS of each package then (R351, R354). -/
  heartbeatAt : Option Nat := none
  beatUs : Nat := 10
  beatMiss : List (Nat × Nat) := []
  deriving DecidableEq, Repr

/-- How source bytes make destination bytes: byte for byte; nibble by nibble, source none for a zero, every other nibble of
the destination kept; or an INT4 to BF16 tile in plane layout, the bit at which each tile position's element begins (R144,
R147). -/
inductive XForm where
  | bytes
  | nibbles (map : List (Option Nat × Nat))
  | planes (f : Fmt) (elems : List (Option Nat))
  deriving DecidableEq, Repr

/-- A source byte of a transfer: known, byte ix of the sector that a request will bring, in a poisoned granule, of a LOST page,
not to be had (R149), or under a lock that the transfer waits for (R139). -/
inductive XByte where
  | known (b : Byte) | await (req ix : Nat) | poison | lost | failed | later
  deriving DecidableEq, Repr

/-- A copy transfer (R137 to R153). -/
structure Xfer where
  tk : Nat
  serial : Nat
  core : Nat
  share : Nat
  grid : Nat
  /-- The bytes of the source, none for a zero byte, and of the destination. -/
  src : List (Option Loc)
  dst : List Loc
  form : XForm := .bytes
  scope : Nat
  bell : Option Nat
  /-- The leaf of each global page that it touches. -/
  leaves : List Leaf := []
  /-- The copy status that it raises so far (R149). -/
  status : Nat := 0
  started : Bool := false
  /-- Its issue found a lock in its way: it waits, and waiting transfers begin in issue order (R139). -/
  waits : Bool := false
  /-- The source bytes once they have been read or asked for (R339). -/
  got : Option (List XByte) := none
  /-- Its writes have been made or posted (R140). -/
  wrote : Bool := false
  deriving DecidableEq, Repr

/-- One lane's part of an atomic request (R135). -/
structure AtomOp where
  lane : Nat
  off : Nat
  size : Nat
  /-- 0 to 7 of R134, 8 for CAS. -/
  op : Nat
  sx : Bool
  a : Nat
  b : Nat
  deriving DecidableEq, Repr

/-- What a sector request wants (R219, R254). -/
inductive ReqKind where
  /-- A load: the core's result waits for the bytes. -/
  | load
  /-- The background climb of a probe (R129). -/
  | probe
  /-- The residency request of FETCH; for a writable master when true (R131). -/
  | fetch (write : Bool)
  /-- A write of the bytes of a mask: a write-back, or a STRONG store of a team (R247, R234). -/
  | write (bytes : List Byte) (strong : Bool)
  | atomic (ops : List AtomOp) (ret : Bool)
  deriving DecidableEq, Repr

/-- Where a request stands. -/
inductive ReqAt where
  /-- Its climb is next (R254). -/
  | climb
  /-- In the replay queue of a package (R265). -/
  | replay (p : Nat)
  /-- Waiting for a page change (R255). -/
  | change (ch : Nat)
  /-- Sent to a holder (R259). -/
  | remote (p : Nat)
  /-- A first touch that found no way (R256). -/
  | touch (p : Nat)
  deriving DecidableEq, Repr

structure Request where
  kind : ReqKind
  at_ : ReqAt
  pkg : Nat
  core : Nat
  tk : Nat
  serial : Nat
  /-- Address of the instruction word, 0 for a write-back. -/
  addr : Word
  lanes : List (Nat × Word)
  gpn : Nat
  sector : Nat
  mask : BitVec 32
  ctx : Nat
  vpage : Nat
  pin : Bool
  twin : Bool
  hotpol : Nat
  seq : Nat
  sentAt : Nat
  /-- The fabric timeout in µs that stood when it was sent (R354). -/
  fto : Nat := 2000
  /-- The counters of the path recorded when the fill was requested: L1, L2, L3; empty for a level that takes no fill, or whose
  counter has advanced since (R231, R232). -/
  gens : List (List (BitVec 4))
  /-- The bytes of each of these levels that have been written there or gone from there since: the fill leaves them alone (R223). -/
  skip : List (BitVec 32) := [0, 0, 0]
  /-- The transfer whose bytes it reads or writes; a read for a word that waits in `Cond.fetched`. -/
  xfer : Option Nat := none
  bring : Bool := false
  /-- A write that poisons the granule (R149). -/
  taint : Bool := false
  /-- The host's access through a window that it belongs to (R353). -/
  win : Option Nat := none
  /-- It has come to the package that holds it by a packet, and is served there (R259, R265). -/
  landed : Bool := false
  /-- The replay queue that has held it, and its place in the order of arrival there (R255, R265). -/
  order : Option (Nat × Nat) := none
  /-- The page was removed while the fill was in flight (R240). -/
  stale : Bool := false
  /-- It has added to its entry's counter (R247); it is to be served remotely, every neighbour having refused (R262). -/
  heated : Bool := false
  forced : Bool := false
  /-- It has added to REMOTE_RD or REMOTE_WR (Table 10-14); it is ordered behind a write of its sector, and takes the hash plane
  (R345); it asks for one 8-byte word (R349), with the PACKWIN that stood when it began to gather (R354). -/
  counted : Bool := false
  ordered : Bool := false
  wordRead : Bool := false
  packwin : Nat := 64
  /-- The plane that an ordered one was last sent on (R346). -/
  plane : Nat := 0
  deriving DecidableEq, Repr

/-- A packet in flight on the planes (R344): from, to, plane, what it carries. -/
inductive PktKind where
  | readReq (r : Nat)
  | readReply (r : Nat) (data : List Byte) (bad : Nat)
  | write (r : Nat)
  | ack (r : Nat) (bad : Nat)
  | atomReq (r : Nat)
  | atomReply (r : Nat) (vals : List Nat) (bad : Nat)
  | packReq (rs : List Nat)
  | packReply (rs : List (Nat × List Byte × Nat))
  | inval (gpn : Nat)
  | pageData (ch : Nat)
  deriving DecidableEq, Repr

structure Packet where
  src : Nat
  dst : Nat
  plane : Nat
  kind : PktKind
  deriving DecidableEq, Repr

/-- Kinds of a page change (R255, R259, R261, R265). -/
inductive ChangeKind where
  | replicate | migrate | lodge
  deriving DecidableEq, Repr

inductive ChangeStage where
  /-- Waiting for the parish slice's BUSY (R255), or for the victim's lodging. -/
  | waiting
  /-- A lodger offered to the neighbours from number n on (R261). -/
  | offering (n : Nat)
  /-- Every neighbour tried refused (R262); the host has been asked by request ix. -/
  | refused
  | asked (ix : Nat)
  /-- The copy is under way (R265). -/
  | copying
  /-- The data has arrived. -/
  | arrived
  deriving DecidableEq, Repr

structure Change where
  kind : ChangeKind
  stage : ChangeStage
  gpn : Nat
  src : Nat
  dst : Nat
  /-- Destination frame; the request, or for a lodging the change, that waits for it. -/
  frame : Nat
  req : Option Nat
  forCh : Option Nat := none
  refusals : Nat := 0
  last : Nat := 0
  /-- The source frame's state before the change (R266). -/
  was : FrameState := .masterExcl
  deriving DecidableEq, Repr

/-- A host access through the window of a package that waits for its sectors (R353, R367): a write, the resolved places of its
bytes, the sectors that have come, and whether one has failed. -/
structure WinOp where
  pkg : Nat
  write : Bool
  locs : List Nat
  got : List (Nat × List Byte) := []
  failed : Bool := false
  deriving DecidableEq, Repr

/-- What takes the next step: plain data, chosen by the agenda (log 1). -/
inductive Agent where
  /-- A team issues its next clause header or word. -/
  | team (tk : Nat)
  /-- A press stream issues its next word. -/
  | stream (sh : Nat)
  /-- A step of the table that is no word. -/
  | event (i : Instr)
  /-- A cache drops a sector, writing its dirty bytes on (R216): level and key. -/
  | evict (lvl : Level) (key : Nat)
  /-- A TLB drops an entry by position: of a core, or of a package's second level (R246, R248). -/
  | dropTlb (core ix : Nat)
  | dropTlb2 (p ix : Nat)
  /-- A symbol error arises in a granule: one that is corrected (symbol 0 to 63) or one that is not (64) (R271). -/
  | bitError (p granule symbol : Nat)
  deriving DecidableEq, Repr

/-- The pod and its hosts. -/
structure State where
  /-- Clocks since the pod's first reset. -/
  now : Nat
  pkgs : List (Nat × Pkg)
  cores : List (Nat × Core)
  dies : List (Nat × Cache)
  teams : List (Nat × Team)
  shares : List (Nat × Share)
  clusters : List (Nat × Cluster)
  grids : List (Nat × Grid)
  xfers : List (Nat × Xfer)
  requests : List (Nat × Request)
  packets : List (Nat × Packet)
  changes : List (Nat × Change)
  /-- Imprecise reports on their way to the issuing package (R289). -/
  reports : List Report
  hostMem : List Cell
  /-- What the last host access through a window returned: bytes, or none for a poison response; none at all while it waits (R367). -/
  hostReply : Option (Option (List Byte))
  /-- Host accesses through windows that wait for their sectors (R353). -/
  windows : List (Nat × WinOp)
  /-- The model's own: the team or share that the step in progress belongs to, the steps to come with the clocks that pass
  before each, and the source of fresh numbers (log 1). -/
  cur : Nat
  agenda : List (Nat × Agent)
  fresh : Nat
  deriving DecidableEq, Repr

/-- Why a step stops with a fault. -/
inductive Fault where
  /-- Raised by a team's word when the team slot that is to issue it holds no team: no hardware issues a word there. Safe. -/
  | noTeam
  /-- Raised by a press word when the share that is to issue it has no stream. Safe. -/
  | noStream
  deriving DecidableEq, Repr

/-- Why a step is refused. -/
inductive Refusal where
  /-- Raised by exec for an instruction that has no meaning yet, named by its mnemonic. Safe. -/
  | notModelled (mnemonic : String)
  deriving DecidableEq, Repr

/-- The machine right after reset: no package has booted, nothing runs, memory lists nothing (R368 stage 0, R9). -/
def State.reset : State where
  now := 0
  pkgs := []
  cores := []
  dies := []
  teams := []
  shares := []
  clusters := []
  grids := []
  xfers := []
  requests := []
  packets := []
  changes := []
  reports := []
  hostMem := []
  hostReply := none
  windows := []
  cur := 0
  agenda := []
  fresh := 1

end Sys2Proof.Machine
end

