-- ==== Sys2Proof/Machine/Access.lean ====
section
/-! DEFINITION. The one way to read and write each piece of state: packages, cores, teams and the rest by number, the
registers of a team under the latency rules of R52 to R54, masks and guards (R18, R19, R46). -/

namespace Sys2Proof.Machine

/-! ## Records by number -/

def State.pkg (s : State) (p : Nat) : Pkg := getD {} s.pkgs p
def State.setPkg (s : State) (p : Nat) (x : Pkg) : State := { s with pkgs := put s.pkgs p x }
def State.updPkg (s : State) (p : Nat) (f : Pkg → Pkg) : State := s.setPkg p (f (s.pkg p))
def State.core (s : State) (c : Nat) : Core := getD {} s.cores c
def State.setCore (s : State) (c : Nat) (x : Core) : State := { s with cores := put s.cores c x }
def State.updCore (s : State) (c : Nat) (f : Core → Core) : State := s.setCore c (f (s.core c))
def State.die (s : State) (d : Nat) : Cache := getD {} s.dies d
def State.setDie (s : State) (d : Nat) (x : Cache) : State := { s with dies := put s.dies d x }
def State.team (s : State) (tk : Nat) : Option Team := find s.teams tk
def State.setTeam (s : State) (tk : Nat) (t : Team) : State := { s with teams := put s.teams tk t }
def State.updTeam (s : State) (tk : Nat) (f : Team → Team) : State :=
  match s.team tk with | some t => s.setTeam tk (f t) | none => s
def State.share (s : State) (sh : Nat) : Option Share := find s.shares sh
def State.setShare (s : State) (sh : Nat) (x : Share) : State := { s with shares := put s.shares sh x }
def State.updShare (s : State) (sh : Nat) (f : Share → Share) : State :=
  match s.share sh with | some x => s.setShare sh (f x) | none => s
def State.cluster (s : State) (cl : Nat) : Option Cluster := find s.clusters cl
def State.setCluster (s : State) (cl : Nat) (x : Cluster) : State := { s with clusters := put s.clusters cl x }
def State.updCluster (s : State) (cl : Nat) (f : Cluster → Cluster) : State :=
  match s.cluster cl with | some x => s.setCluster cl (f x) | none => s
def State.grid (s : State) (g : Nat) : Option Grid := find s.grids g
def State.setGrid (s : State) (g : Nat) (x : Grid) : State := { s with grids := put s.grids g x }
def State.updGrid (s : State) (g : Nat) (f : Grid → Grid) : State :=
  match s.grid g with | some x => s.setGrid g (f x) | none => s
def State.xfer (s : State) (x : Nat) : Option Xfer := find s.xfers x
def State.request (s : State) (r : Nat) : Option Request := find s.requests r
def State.setRequest (s : State) (r : Nat) (x : Request) : State := { s with requests := put s.requests r x }
def State.updRequest (s : State) (r : Nat) (f : Request → Request) : State :=
  match s.request r with | some x => s.setRequest r (f x) | none => s
def State.mapRequests (s : State) (f : Request → Request) : State := { s with requests := s.requests.map fun e => (e.1, f e.2) }
def State.dropRequest (s : State) (r : Nat) : State := { s with requests := erase s.requests r }
def State.packet (s : State) (k : Nat) : Option Packet := find s.packets k
def State.change (s : State) (ch : Nat) : Option Change := find s.changes ch
def State.setChange (s : State) (ch : Nat) (x : Change) : State := { s with changes := put s.changes ch x }
def State.updChange (s : State) (ch : Nat) (f : Change → Change) : State :=
  match s.change ch with | some x => s.setChange ch (f x) | none => s
def State.queue (s : State) (p q : Nat) : Queue := getD {} (s.pkg p).queues q
def State.setQueue (s : State) (p q : Nat) (x : Queue) : State :=
  s.updPkg p fun k => { k with queues := put k.queues q x }
def State.updQueue (s : State) (p q : Nat) (f : Queue → Queue) : State := s.setQueue p q (f (s.queue p q))

/-- Package, core and die of a core of the pod, and the core of a team slot. -/
def pkgOf (core : Nat) : Nat := core / 48
def dieOf (core : Nat) : Nat := core / 12
def coreOf (tk : Nat) : Nat := tk / 20 % 6912
/-- A team that stands in its image (R313). -/
def inImage (tk : Nat) : Bool := 138240 ≤ tk
def pkgOfTeam (tk : Nat) : Nat := pkgOf (coreOf tk)

/-- sr.clock of a package (R24). -/
def State.clock (s : State) (p : Nat) : Nat := s.now - (s.pkg p).resetAt

/-- A fresh number, and the state that has used it (log 1). -/
def State.bump (s : State) : State := { s with fresh := s.fresh + 1 }

/-- Word w of an MSI-X table entry: message address; data with the vector control above it, whose bit 0 masks (log 9). -/
def Pkg.msixWord (k : Pkg) (vec w : Nat) : Word := getD (if w = 0 then 0 else 0x100000000) k.msix (2 * vec + w)
def Pkg.masked (k : Pkg) (vec : Nat) : Bool := (k.msixWord vec 1).getLsbD 32

/-- Raise an MSI-X vector: an interrupt to the host, or, masked, its pending bit (R364). -/
def Pkg.raiseVec (k : Pkg) (vec : Nat) : Pkg :=
  if k.masked vec then { k with msixPend := put k.msixPend vec true } else { k with irqs := vec :: k.irqs }

/-- Set bits of ASTAT; a bit that becomes 1 raises vector 3 (R263, R364). -/
def Pkg.setAstat (k : Pkg) (bit : Nat) : Pkg :=
  if k.astat.getLsbD bit then k else ({ k with astat := k.astat ||| BitVec.ofNat 8 (2 ^ bit) }).raiseVec 3

/-- Set a bit of FSTAT; ESCALATED becoming 1 raises vector 1 (R294, R364). -/
def Pkg.setFstat (k : Pkg) (bit : Nat) : Pkg :=
  if k.fstat.getLsbD bit then k
  else
    let k := { k with fstat := k.fstat ||| BitVec.ofNat 6 (2 ^ bit) }
    if bit = 0 then k.raiseVec 1 else k

/-- Count an event of Table 10-14, by the counter's place 0 to 15. -/
def Pkg.count (k : Pkg) (n : Nat) (by_ : Nat := 1) : Pkg :=
  { k with counters := put k.counters n (getD 0 k.counters n + BitVec.ofNat 64 by_) }

/-! ## Registers (R21, R22, R52 to R54) -/

/-- The last write of this clause to a register and lane that the current word sees (R53). -/
def Team.fresh (t : Team) (r : RegId) (L : Nat) : Option Word :=
  ((t.pend.filter fun e => e.reg == r && e.lane == L && decide (e.word + e.lat ≤ t.word.getD 16)).getLast?).map (·.val)

/-- V[n][L] as the current word reads it; lanes that do not exist read zero (R14). -/
def Team.rv (t : Team) (n L : Nat) : Lane32 :=
  match t.fresh (.v n) L with
  | some x => x.setWidth 32
  | none => getD 0 t.v (1024 * n + L)

/-- V.d[n][L], vN in the low half (R22). -/
def Team.rvd (t : Team) (n L : Nat) : Word := t.rv (n + 1) L ++ t.rv n L

/-- S[n]; s0 reads as zero (R22). -/
def Team.rs (t : Team) (n : Nat) : Word :=
  if n = 0 then 0 else match t.fresh (.s n) 0 with
    | some x => x
    | none => getD 0 t.s n

/-- K[n][L]; k15 reads as true in every lane that exists (R22). -/
def Team.rk (t : Team) (n L : Nat) : Bool :=
  if t.lanes ≤ L then false else if n = 15 then true else match t.fresh (.k n) L with
    | some x => x.getLsbD 0
    | none => (getD 0 t.k n).getLsbD L

/-- Write a register's stored value; s0, k15 and lanes that do not exist discard it (R14, R22). -/
def Team.store (t : Team) (r : RegId) (L : Nat) (x : Word) : Team :=
  match r with
  | .v n => if L < t.lanes then { t with v := setD 0 t.v (1024 * n + L) (x.setWidth 32) } else t
  | .s n => if n = 0 then t else { t with s := setD 0 t.s n x }
  | .k n =>
    if n = 15 ∨ t.lanes ≤ L then t
    else
      let m := getD 0 t.k n
      let b := BitVec.ofNat 1024 (2 ^ L)
      { t with k := setD 0 t.k n (if x.getLsbD 0 then m ||| b else m &&& ~~~b) }

/-- A later instruction writes registers and lanes that outstanding results would still write (R54). -/
def Team.overwrite (t : Team) (ws : List (RegId × Nat)) : Team :=
  { t with outst := t.outst.map fun o => { o with parts := o.parts.map fun q =>
      { q with stale := q.stale || ws.any fun w => w.1 == q.reg && w.2 == q.lane } } }

/-- Issue short-latency writes of the current word (R53). -/
def Team.write (t : Team) (lat : Nat) (ws : List (RegId × Nat × Word)) : Team :=
  let t := t.overwrite (ws.map fun w => (w.1, w.2.1))
  { t with pend := t.pend ++ ws.map fun w => ⟨t.word.getD 0, lat, w.1, w.2.1, w.2.2⟩ }

/-- Issue a long-latency result of the current word (R54). -/
def Team.writeLong (t : Team) (parts : List Part) : Team :=
  let t := t.overwrite (parts.map fun q => (q.reg, q.lane))
  { t with outst := t.outst ++ [⟨some (t.word.getD 0), parts⟩] }

/-- A known value as a part: 4 bytes of a v register, 8 of an s register, one of a predicate. -/
def Part.ofVal (r : RegId) (L : Nat) (x : Word) : Part :=
  { reg := r, lane := L, bytes := (bytesOf (match r with | .v _ => 4 | .s _ => 8 | .k _ => 1) x.toNat).map .known }

/-- The value of a part all of whose bytes are known. -/
def Part.val (q : Part) : Option Word :=
  (foldOpt (fun (a : List Byte) b => match b with | .known x => some (a ++ [x]) | .await _ _ => none) [] q.bytes).map
    fun bs =>
      let n := natOfBytes bs
      if q.sx then BitVec.ofInt 64 (sext n (8 * bs.length)) else BitVec.ofNat 64 n

/-- Every short-latency result of the clause becomes the register's value, in program order (R53); an outstanding result that it
overwrites is discarded (R54). -/
def Team.commit (t : Team) : Team :=
  let t' := t.pend.foldl (fun u e => u.store e.reg e.lane e.val) t
  { t' with pend := [], outst := t.outst.map fun o =>
      { o with word := none, parts := o.parts.filter fun q => !(q.stale && t.pend.any fun e => e.reg == q.reg && e.lane == q.lane) } }

/-- The k mask of a predicate over the team's lanes. -/
def Team.kMask (t : Team) (n : Nat) : Mask := maskOf t.lanes fun L => t.rk n L

/-- The lanes whose guard is true (R46). -/
def Team.guard (t : Team) (h : Hdr) : Mask :=
  if h.gk = 15 then (if h.ginv then 0 else laneMask t.lanes)
  else maskOf t.lanes fun L => t.rk h.gk.toNat L != h.ginv

/-- Active (R19); a retried word takes the lanes of the retry in place of the guard (R286). -/
def Team.lanesFor (t : Team) (h : Hdr) : Mask :=
  match t.retry with
  | some m => m &&& t.active
  | none => t.active &&& t.guard h

/-- Active as a list of lanes. -/
def Team.act (t : Team) (h : Hdr) : List Nat := lanesOf t.lanes (t.lanesFor h)

/-- Does an instruction that acts once for the team execute (R46, R286)? One that has begun to act goes on (R52). -/
def Team.executes (t : Team) (h : Hdr) : Bool :=
  t.latch.isSome || match t.retry with
  | some m => m &&& t.active != 0 || (t.active == 0 && m == 0)
  | none => h.unguarded || t.active &&& t.guard h != 0

/-- Number of 32-lane groups (R14). -/
def Team.groups (t : Team) : Nat := (t.lanes + 31) / 32

/-- Bytes of register-file cache at an allotment (R29). -/
def Team.footprint (t : Team) (a : Nat) : Nat := t.groups * 128 * a

def Team.isReeve (t : Team) : Bool := t.role == .reeve

/-- sr.trystat (Table 06-11): SECT counts the distinct sectors of the store buffer. -/
def Loc.sector : Loc → Loc
  | .glob a => .glob (a / 32)
  | .sp sh o => .sp sh (o / 32)

def TryRegion.sectors (r : TryRegion) : Nat := ((r.buf.map fun b => b.loc.sector).dedup).length

def Team.trystat (t : Team) : Word :=
  let (sect, lane, open_) : Nat × Bool × Bool :=
    match t.tryR with | some r => (r.sectors, r.laneMode, true) | none => (0, false, false)
  t.tryAborts ++ BitVec.ofNat 12 sect ++ (0 : BitVec 2) ++ BitVec.ofBool lane ++ BitVec.ofBool open_ ++ t.tryUser ++ t.tryCode

/-! ## Causes (Table 12-1) -/

def Cause.index : Cause → Nat
  | .illegal => 1 | .role => 2 | .privilege => 3 | .trap => 4 | .bounds => 5 | .misaligned => 6 | .shape => 7
  | .translation => 8 | .permission => 9 | .rangeLock => 10 | .pageLost => 11 | .poison => 12 | .departedStore => 13
  | .deferred => 15

def Cause.code : Cause → Nat
  | .illegal => 0x01 | .role => 0x02 | .privilege => 0x03 | .trap => 0x04 | .bounds => 0x17 | .misaligned => 0x14
  | .shape => 0x16 | .translation => 0x10 | .permission => 0x11 | .rangeLock => 0x12 | .pageLost => 0x13 | .poison => 0x18
  | .departedStore => 0x30 | .deferred => 0xFF

/-- Causes BOUNDS to POISON: inside a try region they abort it (R170, R297). -/
def Cause.isAddress (c : Cause) : Bool := 5 ≤ c.index && c.index ≤ 12

/-- The cause of smallest index, DEFERRED left out (R282). -/
def primaryOf (ls : List LaneCause) : Option Cause :=
  ls.foldl (fun a l => if l.cause == .deferred then a else match a with
    | none => some l.cause
    | some c => if l.cause.index < c.index then some l.cause else a) none

/-- The cause word of FRD FILE 5 IMM 2 (Table 06-14). -/
def CauseRec.word (r : CauseRec) : Nat := r.primary + 256 * r.sub + 65536 * r.field + (if r.imprecise then 2 ^ 32 else 0)

end Sys2Proof.Machine
end

