-- ==== Sys2Proof/Machine/Mem.lean ====
section
/-! DEFINITION. Storage: the frames and granules of the stacks, host memory, the three caches and their generations, the
slices of the directory, releases and acquires, translation, and the checks of an access (08, R37, R122 to R124, R137, R138,
R243 to R253). Hardware that reads at the SYSTEM point of coherence reads it in one step. -/

namespace Sys2Proof.Machine

/-! ## Places (R249, R253, R359) -/

/-- Set of a GPN (R249). -/
def setOf (gpn : Nat) : Nat := ((gpn % 2 ^ 23) ^^^ (gpn / 2 ^ 23 % 2 ^ 17)) % Config.sets
def stackOf (gpn : Nat) : Nat := setOf gpn % Config.nStacks
def stackRow (gpn : Nat) : Nat := setOf gpn / Config.nStacks

def isHost (gpn : Nat) : Bool := Config.hostGpn ≤ gpn

def Pkg.tag (k : Pkg) (f : Nat) : Tag := getD {} k.frames f
def Pkg.setTag (k : Pkg) (f : Nat) (t : Tag) : Pkg := { k with frames := setD {} k.frames f t }
def Pkg.mruWay (k : Pkg) (set : Nat) : Nat := getD 0 k.mru set
/-- A way served an access or completed a fill (R260). -/
def Pkg.touch (k : Pkg) (f : Nat) : Pkg := { k with mru := setD 0 k.mru (f / 2) (f % 2) }

/-- The frame of a package that holds a GPN in a state other than INVALID. -/
def Pkg.frameOf (k : Pkg) (gpn : Nat) : Option Nat :=
  let f := 2 * setOf gpn
  let holds (f : Nat) : Bool := (k.tag f).gpn == gpn && (k.tag f).state != .invalid
  if holds f then some f else if holds (f + 1) then some (f + 1) else none

def Pkg.stateOf (k : Pkg) (gpn : Nat) : FrameState := (k.frameOf gpn).elim .invalid fun f => (k.tag f).state

/-- States that serve reads locally (Table 10-5). -/
def FrameState.serves (x : FrameState) : Bool := x == .replica || x == .masterShared || x == .masterExcl
def FrameState.isMaster (x : FrameState) : Bool := x == .masterShared || x == .masterExcl

/-- The GPN is known LOST to the package (R269). -/
def Pkg.knownLost (k : Pkg) (gpn : Nat) : Bool := k.stateOf gpn == .lost

/-- A package is declared lost: some survivor has received the notice (R351). -/
def State.declared (s : State) (p : Nat) : Bool := s.pkgs.any fun k => k.2.lostmap.getLsbD p

/-- A package takes part in the pod: its number is below podsize and it is not declared lost (R343, R350, R351). -/
def State.present (s : State) (at_ p : Nat) : Bool := p < (s.pkg at_).podsize && !s.declared p

/-- The package that serves the slice of hamlet h, of a package's own hamlet, and the parish slice, of a GPN: the next live one in ascending number (R253). -/
def State.hamletSliceOf (s : State) (at_ h gpn : Nat) : Nat :=
  (((List.range 12).map fun i => 12 * h + (gpn + i) % 12).find? (s.present at_)).getD at_
def State.hamletSlice (s : State) (at_ gpn : Nat) : Nat := s.hamletSliceOf at_ (at_ / 12) gpn
def State.parishSlice (s : State) (at_ gpn : Nat) : Nat :=
  let P := max 1 (s.pkg at_).podsize
  (((List.range P).map fun i => (gpn + i) % P).find? (s.present at_)).getD at_

def State.parishEnt (s : State) (at_ gpn : Nat) : Option ParishEnt := find (s.pkg (s.parishSlice at_ gpn)).parish gpn
def State.setParish (s : State) (at_ gpn : Nat) (e : ParishEnt) : State :=
  s.updPkg (s.parishSlice at_ gpn) fun k => { k with parish := put k.parish gpn e }
def State.updParish (s : State) (at_ gpn : Nat) (f : ParishEnt → ParishEnt) : State :=
  match s.parishEnt at_ gpn with | some e => s.setParish at_ gpn (f e) | none => s
def State.hamletEnt (s : State) (at_ gpn : Nat) : Option HamletEnt := find (s.pkg (s.hamletSlice at_ gpn)).hamlet gpn
def State.setHamlet (s : State) (at_ gpn : Nat) (e : HamletEnt) : State :=
  s.updPkg (s.hamletSlice at_ gpn) fun k => { k with hamlet := put k.hamlet gpn e }

/-! ## Bytes of memory -/

/-- A byte of a package's frame; frames that nothing has written read zero (log 4). -/
def Pkg.byte (k : Pkg) (f off : Nat) : Byte := getD 0 k.hbm (65536 * f + off)
def Pkg.setByte (k : Pkg) (f off : Nat) (b : Byte) : Pkg := { k with hbm := setD 0 k.hbm (65536 * f + off) b }
def Pkg.setBytes (k : Pkg) (f off : Nat) (bs : List Byte) : Pkg :=
  { k with hbm := (bs.zipIdx (65536 * f + off)).foldl (fun m x => setD 0 m x.2 x.1) k.hbm }
/-- Clear a frame to zero, its granules written whole (R256, R271). -/
def Pkg.zeroFrame (k : Pkg) (f : Nat) : Pkg :=
  { k with hbm := k.hbm.filter fun c => c.1 / 65536 != f, poison := k.poison.filter fun c => c.1 / 2048 != f
           symErr := k.symErr.filter fun c => c.1 / 2048 != f }
def State.hostByte (s : State) (a : Nat) : Byte := getD 0 s.hostMem a
def State.setHostBytes (s : State) (a : Nat) (bs : List Byte) : State :=
  { s with hostMem := (bs.zipIdx a).foldl (fun m x => setD 0 m x.2 x.1) s.hostMem }
def State.hostBytes (s : State) (a n : Nat) : List Byte := (List.range n).map fun i => s.hostByte (a + i)
/-- A scratchpad byte of a share (R28). -/
def State.spByte (s : State) (sh off : Nat) : Byte := (s.share sh).elim 0 fun x => getD 0 x.sp off
def State.setSpBytes (s : State) (sh off : Nat) (bs : List Byte) : State :=
  s.updShare sh fun x => { x with sp := (bs.zipIdx off).foldl (fun m y => setD 0 m y.2 y.1) x.sp }

/-- Host physical address of a byte of a host page (R359). -/
def hostAddr (gpn off : Nat) : Nat := 65536 * (gpn - Config.hostGpn) + off

def Pkg.bootReg (k : Pkg) (off : Nat) : Word := getD 0 k.boot off

/-- What the parish slice knows of a page: its entry or, in overflow, what a search of the package directories finds (R264). -/
def State.parishSees (s : State) (at_ gpn : Nat) : Option ParishEnt :=
  match s.parishEnt at_ gpn with
  | some e => some e
  | none =>
    if !(s.pkg (s.parishSlice at_ gpn)).parishOvf then none
    else
      let ms := s.pkgs.filterMap fun e => (e.2.frameOf gpn).bind fun f =>
        if (e.2.tag f).state.isMaster || (e.2.tag f).state == .moving then some (e.1, e.2.tag f) else none
      match ms with
      | [] => none
      | m :: rest =>
        some { refs := 1, master := m.1, twinpkg := (rest.head?).elim 255 (·.1), pinned := m.2.pinned, twin := m.2.twin }

/-- The byte at the SYSTEM point of coherence (Table 08-2): host memory, the master's frame, or the host spill region; a page
never backed reads as its first touch leaves it; none for a LOST or freed page. -/
def State.sysByte (s : State) (at_ gpn off : Nat) : Option Byte :=
  if isHost gpn then some (s.hostByte (hostAddr gpn off))
  else match s.parishSees at_ gpn with
    | none => some 0
    | some e =>
      if e.lost || e.refs == 0 then none
      else if e.master = 254 then
        match (List.range 144).findSome? fun p => (find (s.pkg p).spill gpn).map fun n => (p, n) with
        | some (p, n) => some (s.hostByte (((s.pkg p).bootReg 0x20).toNat + 65536 * n + off))
        | none => some 0
      else (s.pkg e.master).frameOf gpn |>.map fun f => (s.pkg e.master).byte f off

/-- n bytes at the SYSTEM point of coherence, none when the page is LOST. -/
def State.sysBytes (s : State) (at_ a n : Nat) : Option (List Byte) :=
  foldOpt (fun l i => (s.sysByte at_ ((a + i) / 65536) ((a + i) % 65536)).map fun b => l ++ [b]) [] (List.range n)

/-! ## Writes that try regions record (R169, R170) -/

/-- An agent other than team `by_` writes these places: every other team's footprint records it. -/
def State.noteWrite (s : State) (by_ : Option Nat) (ls : List Loc) : State :=
  { s with teams := s.teams.map fun e =>
      match e.2.tryR with
      | none => e
      | some r =>
        if some e.1 = by_ then e
        else (e.1, { e.2 with tryR := some { r with foot := r.foot.map fun f =>
          { f with dirty := f.dirty || ls.any fun l => l.sector == f.sector } } }) }

/-! ## Error correction (R271, R272) -/

/-- Add an entry to a stack's history. -/
def State.addHist (s : State) (p frame sector kind symbol : Nat) : State :=
  s.updPkg p fun k =>
    let st := frame / 2 % 12
    let n := getD 0 k.errNext st
    { k with
      history := put k.history (256 * st + n) ⟨s.clock p, kind, symbol, frame % 2, frame / 24, sector⟩
      errNext := put k.errNext st ((n + 1) % 256)
      errTotal := put k.errTotal st ((getD 0 k.errTotal st + 1) % 2 ^ 24) }

/-- Read a granule: a correctable error is corrected and written back, an uncorrectable one poisons the granule; whether it
is poisoned then. A read of a poisoned granule is recorded (R271, R272; log 16). -/
def State.readGranule (s : State) (p frame sector : Nat) : State × Bool :=
  let g := 2048 * frame + sector
  let held (s : State) : State × Bool := if (find (s.pkg p).poison g).isSome then (s.addHist p frame sector 3 63, true) else (s, false)
  match find (s.pkg p).symErr g with
  | none => held s
  | some n =>
    if n < 64 then
      held ((s.updPkg p fun k => let k := k.count 12; { k with symErr := erase k.symErr g }).addHist p frame sector 1 n)
    else
      ((s.updPkg p fun k =>
        let k := (k.count 13).setAstat 7
        { k with symErr := erase k.symErr g, poison := put k.poison g 1 }).addHist
        p frame sector 2 63, true)

/-- Write the masked bytes of a granule: a full write clears poison, a masked write to a poisoned granule is discarded and
recorded; whether it was performed (R271). -/
def State.writeGranule (s : State) (p frame sector : Nat) (bytes : List Byte) (mask : BitVec 32) : State × Bool :=
  let g := 2048 * frame + sector
  if mask = BitVec.allOnes 32 then
    (s.updPkg p fun k =>
        let k := k.setBytes frame (32 * sector) bytes
        { k with poison := (erase k.poison g), symErr := (erase k.symErr g) }, true)
  else if (find (s.pkg p).poison g).isSome then (s.addHist p frame sector 4 63, false)
  else
    let (s, bad) := s.readGranule p frame sector
    if bad then (s.addHist p frame sector 4 63, false)
    else
      (s.updPkg p fun k => (List.range 32).foldl (fun k i =>
        if mask.getLsbD i then k.setByte frame (32 * sector + i) (bytes.getD i 0) else k) k, true)

/-- The frame that serves a read of a package at the SYSTEM point of coherence: its own, else the master's (R222). -/
def State.servingFrame (s : State) (at_ gpn : Nat) : Option (Nat × Nat) :=
  if ((s.pkg at_).stateOf gpn).serves then ((s.pkg at_).frameOf gpn).map fun f => (at_, f)
  else (s.parishSees at_ gpn).bind fun e => ((s.pkg e.master).frameOf gpn).map fun f => (e.master, f)

/-- The granules under n bytes of a page at the frame that serves them are read, which finds their errors, and the way of a frame of the
package itself is the one used last (R271, R277). Hardware that reads at the SYSTEM point of coherence uses the bytes as they are stored,
poisoned or not (log 74). -/
def State.sysTouch (s : State) (at_ a n : Nat) : State :=
  let gpn := a / 65536
  match if isHost gpn then none else s.servingFrame at_ gpn with
  | none => s
  | some (q, f) =>
    let s := (List.range ((a % 32 + n + 31) / 32)).foldl (fun s i => (s.readGranule q f ((a % 65536 / 32 + i) % 2048)).1) s
    if q = at_ then s.updPkg q (·.touch f) else s

/-- Read n bytes at the SYSTEM point of coherence, none when the page is LOST. -/
def State.sysRead (s : State) (at_ a n : Nat) : State × Option (List Byte) :=
  match s.sysBytes at_ a n with
  | some bs => (s.sysTouch at_ a n, some bs)
  | none => (s, none)

/-- A granule becomes poisoned (R149, R271). -/
def State.poisonGranule (s : State) (p frame sector : Nat) : State :=
  s.updPkg p fun k => { k with poison := put k.poison (2048 * frame + sector) 1, symErr := erase k.symErr (2048 * frame + sector) }

/-! ## Caches (R216, R231 to R233) -/

def State.cache (s : State) : Level → Cache
  | .l1 c => (s.core c).l1 | .l2 d => s.die d | .l3 p => (s.pkg p).l3
def State.setCache (s : State) (lvl : Level) (x : Cache) : State :=
  match lvl with
  | .l1 c => s.updCore c fun k => { k with l1 := x }
  | .l2 d => s.setDie d x
  | .l3 p => s.updPkg p fun k => { k with l3 := x }

/-- The scopes a level carries, as places in the lists CLUSTER, DIE, PACKAGE, SYSTEM (Table 08-1). -/
def lvlCarries : Level → List Nat
  | .l1 _ => [0, 1, 2, 3] | .l2 _ => [2, 3] | .l3 _ => [3]
def lvlPkg : Level → Nat
  | .l1 c => pkgOf c | .l2 d => d / 4 | .l3 p => p
/-- The next level outwards; L2 of a core's die, L3 of its package. -/
def lvlNext : Level → Option Level
  | .l1 c => some (.l2 (dieOf c)) | .l2 d => some (.l3 (d / 4)) | .l3 _ => none

/-- A sector is current while every recorded value equals the level's counter (R231). -/
def Cache.current (x : Cache) (e : Sector) : Bool := e.gens == x.gen

/-- Merge a fill or a store into a sector: dirty bytes win over a fill, a stale sector keeps only its dirty bytes (R216,
R231). -/
def Cache.merge (x : Cache) (key : Nat) (bytes : List Byte) (mask : BitVec 32) (isDirty : Bool) (gens : List (BitVec 4))
    (unord : Bool) : Cache :=
  let old : Sector := (find x.sectors key).getD ⟨List.replicate 32 0, 0, 0, x.gen, unord⟩
  let keep := if x.current old then old.valid else old.dirty
  let take := if isDirty then mask else mask &&& ~~~old.dirty
  let e : Sector :=
    { data := (List.range 32).map fun i => if take.getLsbD i then bytes.getD i 0 else old.data.getD i 0
      valid := keep ||| take
      dirty := if isDirty then old.dirty ||| mask else old.dirty
      gens := gens
      unord := unord }
  { x with sectors := put x.sectors key e }

def Cache.drop (x : Cache) (key : Nat) : Cache := { x with sectors := erase x.sectors key }

/-- Place of a level in a request's lists, and whether a request's path goes through it. -/
def lvlIx : Level → Nat
  | .l1 _ => 0 | .l2 _ => 1 | .l3 _ => 2
def Request.passes (q : Request) : Level → Bool
  | .l1 c => q.core == c | .l2 d => dieOf q.core == d | .l3 p => q.pkg == p

/-- Bytes of a sector are written into a level or leave it: a fill of the sector that is in flight leaves them alone (R223). -/
def State.noteFill (s : State) (lvl : Level) (key : Nat) (mask : BitVec 32) : State :=
  s.mapRequests fun q =>
    if q.passes lvl && 2048 * q.gpn + q.sector == key then { q with skip := q.skip.modify (lvlIx lvl) (· ||| mask) } else q

/-- Write dirty bytes into a sector of a level, and drop a sector from a level. -/
def State.mergeDirty (s : State) (lvl : Level) (key : Nat) (bytes : List Byte) (mask : BitVec 32) (unord : Bool) : State :=
  (s.setCache lvl ((s.cache lvl).merge key bytes mask true (s.cache lvl).gen unord)).noteFill lvl key mask
def State.dropLine (s : State) (lvl : Level) (key : Nat) : State :=
  (s.setCache lvl ((s.cache lvl).drop key)).noteFill lvl key (BitVec.allOnes 32)

/-- A load of the masked bytes hits: the sector is current and holds them (R231). -/
def Cache.hits (x : Cache) (key : Nat) (mask : BitVec 32) : Bool :=
  match find x.sectors key with
  | none => false
  | some e => x.current e && (mask &&& ~~~e.valid) == 0

/-- Who a write or atomic is for: a team's instruction with its lanes and the page's attributes, or no one (R271, R289). -/
structure Issuer where
  tk : Nat := 0
  serial : Nat := 0
  addr : Word := 0
  lanes : List (Nat × Word) := []
  leaf : Option Leaf := none
  strong : Bool := false
  xfer : Option Nat := none
  bring : Bool := false
  taint : Bool := false
  win : Option Nat := none
  deriving DecidableEq, Repr

/-- Requests of the coalescer that a request stands for: one per group of 32 lanes, since the lanes of one atomic that name one word
are served with no other access between them (R136, R219; log 67). -/
def Request.weight (q : Request) : Nat := max 1 ((q.lanes.map fun x => x.1 / 32).dedup).length

/-- The bytes of a sector that a request is to write. -/
def Request.writes (q : Request) : BitVec 32 :=
  match q.kind with
  | .write _ _ => q.mask
  | .atomic ops _ => BitVec.ofNat 32 (ops.foldl (fun m o => m ||| (2 ^ o.size - 1) * 2 ^ o.off) 0)
  | _ => 0

/-- A request for the same sector of a package. -/
def Request.forSector (q : Request) (p key : Nat) : Bool := q.pkg == p && 2048 * q.gpn + q.sector == key

/-- A package has a request for a sector that is not yet done (R223). -/
def State.sectorBusy (s : State) (p key : Nat) : Bool :=
  s.requests.any fun e => e.2.forSector p key && match e.2.kind with | .fetch _ => false | _ => true

/-- The bytes of a sector that writes of a package have yet to change at the master (R223). -/
def State.pendingMask (s : State) (p key : Nat) : BitVec 32 :=
  s.requests.foldl (fun m e => if e.2.forSector p key then m ||| e.2.writes else m) 0

/-- A team's own earlier read of some bytes of a sector is in flight, its transfers' too: a later load does not overtake it (R224, R339). -/
def State.loading (s : State) (p serial key : Nat) (mask : BitVec 32) : Bool :=
  s.requests.any fun e => e.2.forSector p key && e.2.kind == .load && e.2.mask &&& mask != 0 && match e.2.xfer with
    | none => e.2.serial == serial && e.2.win.isNone
    | some x => (s.xfer x).any (·.serial == serial)

/-- A new request of a core for a sector, about to climb; its number is the state's fresh number before it. -/
def State.addRequest (s : State) (core key : Nat) (mask : BitVec 32) (kind : ReqKind) (w : Issuer) (gens : List (List (BitVec 4))) :
    State :=
  let q : Request :=
    { kind := kind, at_ := .climb, pkg := pkgOf core, core := core, tk := w.tk, serial := w.serial, addr := w.addr, lanes := w.lanes
      gpn := key / 2048, sector := key % 2048, mask := mask, ctx := w.leaf.elim 0 (·.ctx), vpage := w.leaf.elim (2 ^ 41) (·.vpage)
      pin := w.leaf.elim false (·.pin), twin := w.leaf.elim false (·.twin), hotpol := w.leaf.elim 0 (·.hotpol)
      seq := (s.pkg (pkgOf core)).postSeq, sentAt := s.now, gens := gens, xfer := w.xfer, bring := w.bring, taint := w.taint, win := w.win }
  s.bump.setRequest s.fresh q

/-- Add a posted request of a package and answer its number (R347). -/
def State.post (s : State) (p r : Nat) : State :=
  s.updPkg p fun k => { k with posted := k.posted ++ [(k.postSeq, r)], postSeq := k.postSeq + 1 }

/-- A state change of the page is in progress (R255). -/
def State.busy (s : State) (at_ gpn : Nat) : Bool :=
  (s.parishEnt at_ gpn).elim false (·.busy) || s.changes.any fun e => e.2.gpn == gpn && e.2.stage != .waiting

/-- A posted write that climbs (R347). -/
def State.postWrite (s : State) (core key : Nat) (bytes : List Byte) (mask : BitVec 32) (w : Issuer) : State :=
  (s.addRequest core key mask (.write bytes w.strong) w []).post (pkgOf core) s.fresh

/-- A write of a package to a sector is performed at once where it stands: host memory, or a local MASTER_EXCL frame without a twin
that no page change holds and no request of the package is bound for (R224, R255, R267). -/
def State.writesHere (s : State) (p key : Nat) : Bool :=
  isHost (key / 2048) || match (s.pkg p).frameOf (key / 2048) with
    | some f => ((s.pkg p).tag f).state == .masterExcl && !((s.pkg p).tag f).twin && !s.busy p (key / 2048) && !s.sectorBusy p key
    | none => false

/-- Write masked bytes of a sector at the package's memory: host memory at once, a local MASTER_EXCL frame that no page
change holds at once, any other place by a posted request that climbs (R224, R247, R255). -/
def State.memWrite (s : State) (core key : Nat) (bytes : List Byte) (mask : BitVec 32) (w : Issuer := {}) : State :=
  let gpn := key / 2048
  let sec := key % 2048
  let p := pkgOf core
  if isHost gpn then
    if w.taint then s
    else (List.range 32).foldl (fun s i =>
      if mask.getLsbD i then s.setHostBytes (hostAddr gpn (32 * sec + i)) [bytes.getD i 0] else s) s
  else
    let k := s.pkg p
    match k.frameOf gpn with
    | some f =>
      if s.writesHere p key then
        (if w.taint then s.poisonGranule p f sec else (s.writeGranule p f sec bytes mask).1).updPkg p (·.touch f)
      else s.postWrite core key bytes mask w
    | none => s.postWrite core key bytes mask w

/-- The GPN of an entry (Table 10-2). -/
def entGpn (e : Word) : Nat := (e.extractLsb' 0 40).toNat

/-- The leaf of a TLB entry for a page. -/
def TlbEnt.leaf (t : TlbEnt) (vpage : Nat) : Leaf :=
  { gpn := entGpn t.ent + vpage % 2 ^ t.log, ord := (t.ent.extractLsb' 60 2).toNat, w := t.ent.getLsbD 59, x := t.ent.getLsbD 58,
    pin := t.ent.getLsbD 57, twin := t.ent.getLsbD 56, ckpt := t.ent.getLsbD 55, hotpol := (t.ent.extractLsb' 51 4).toNat,
    ctx := t.ctx, vpage := t.vpage }

/-- A second-level entry of a package whose run covers a GPN. -/
def State.entryOf (s : State) (p gpn : Nat) : Option TlbEnt :=
  (s.pkg p).tlb2.find? fun t => entGpn t.ent ≤ gpn && gpn < entGpn t.ent + 2 ^ t.log

/-- What a package's second-level entry says of a page, for a write-back, which has no address (R247; log 66). -/
def State.entLeaf (s : State) (p gpn : Nat) : Option Leaf :=
  (s.entryOf p gpn).map fun t => { t.leaf (t.vpage + (gpn - entGpn t.ent)) with gpn := gpn }

/-- Write the dirty bytes of one sector of a level on to the next level, or from L3 to memory; the sector stays, clean. -/
def State.writeBackOne (s : State) (lvl : Level) (key : Nat) : State :=
  match find (s.cache lvl).sectors key with
  | none => s
  | some e =>
    if e.dirty = 0 then s
    else
      let x := s.cache lvl
      let s := s.setCache lvl { x with sectors := put x.sectors key { e with dirty := 0 } }
      match lvlNext lvl with
      | some n => s.mergeDirty n key e.data e.dirty e.unord
      | none => s.memWrite (48 * lvlPkg lvl) key e.data e.dirty { leaf := s.entLeaf (lvlPkg lvl) (key / 2048) }

/-- Write back every dirty sector of a level that satisfies a test (R220). -/
def State.writeBackAll (s : State) (lvl : Level) (p : Sector → Bool) : State :=
  ((s.cache lvl).sectors.filter fun e => p e.2).foldl (fun s e => s.writeBackOne lvl e.1) s

/-- The levels a scope's release and acquire act on, from the core outwards (Table 08-2); scope codes of R49. -/
def pathLevels (core scope : Nat) : List Level :=
  if scope < 2 then [] else if scope < 4 then [.l1 core]
  else if scope = 4 then [.l1 core, .l2 (dieOf core)] else [.l1 core, .l2 (dieOf core), .l3 (pkgOf core)]

/-- The write-back of a release at a scope (Table 08-2). A write-back moves sectors of kind UNORD too: it writes all dirty
bytes, which R235 permits. -/
def State.release (s : State) (core scope : Nat) : State :=
  (pathLevels core scope).foldl (fun s l => s.writeBackAll l fun _ => true) s

/-- The place of a scope in the generation lists. -/
def genIx (scope : Nat) : Nat := scope - 2

/-- Flash-clear: write back and invalidate the lines that record value g for a scope (R233). -/
def State.flashClear (s : State) (lvl : Level) (ix : Nat) (g : BitVec 4) : State :=
  let ks := ((s.cache lvl).sectors.filter fun e => e.2.gens.getD ix 0 == g).map (·.1)
  ks.foldl (fun s k => (s.writeBackOne lvl k).dropLine lvl k) s

/-- Advance a level's counter for a scope (R231, R233, R237): a fill in flight that recorded it is not installed as current
(R232). -/
def State.advance (s : State) (lvl : Level) (ix : Nat) : State :=
  let g := (s.cache lvl).gen.getD ix 0 + 1
  let s := s.flashClear lvl ix g
  let s := s.mapRequests fun q => if q.passes lvl then { q with gens := q.gens.set (lvlIx lvl) [] } else q
  let s := s.updPkg (lvlPkg lvl) fun k => { k with coh := k.coh + 1 }
  let x := s.cache lvl
  s.setCache lvl { x with gen := x.gen.set ix g, lastAcq := x.lastAcq.set ix (s.pkg (lvlPkg lvl)).coh }

/-- An acquire's advance of the generations of a scope (Table 08-2); lines of kind UNORD are advanced with the others. -/
def State.acquire (s : State) (core scope : Nat) : State :=
  (pathLevels core scope).foldl (fun s l => if (lvlCarries l).contains (genIx scope) then s.advance l (genIx scope) else s) s

/-- The bytes of a sector in the memory of a package: host memory, or a frame of its own that serves reads, with the mask of
those that no write of the package has yet to change (R216, R223). -/
def State.pullMem (s : State) (p key : Nat) : Option (State × List Byte × BitVec 32) :=
  let gpn := key / 2048
  let off := 32 * (key % 2048)
  if isHost gpn then some (s, s.hostBytes (hostAddr gpn off) 32, BitVec.allOnes 32)
  else
    let k := s.pkg p
    match k.frameOf gpn with
    | some f =>
      if (k.tag f).state.serves then
        let (s, _) := s.readGranule p f (key % 2048)
        some (s.updPkg p (·.touch f), (List.range 32).map fun i => k.byte f (off + i), ~~~s.pendingMask p key)
      else none
    | none => none

/-- Fill masked bytes of a sector into a level, clean: an older fill that is in flight leaves them alone (R223, R224). -/
def State.fillLevel (s : State) (l : Level) (key : Nat) (bytes : List Byte) (mask : BitVec 32) (unord : Bool) : State :=
  (s.setCache l ((s.cache l).merge key bytes mask false (s.cache l).gen unord)).noteFill l key mask

/-- The bytes a level holds for a sector. -/
def Cache.bytes (x : Cache) (key : Nat) : List Byte := (find x.sectors key).elim (List.replicate 32 0) (·.data)
def Cache.validMask (x : Cache) (key : Nat) : BitVec 32 := (find x.sectors key).elim 0 (·.valid)

/-- Bring the masked bytes of a sector into the levels named, the outermost last, from the nearest that holds them or from the
package's memory: none when neither does (R216). -/
def State.pull (s : State) (key : Nat) (mask : BitVec 32) (unord : Bool) : List Level → Nat → Option State
  | [], _ => none
  | [l], p =>
    if (s.cache l).hits key mask then some s
    else match s.pullMem p key with
      | none => none
      | some (s, bs, good) =>
        let s := s.fillLevel l key bs good unord
        if (s.cache l).hits key mask then some s else none
  | l :: n :: ls, p =>
    if (s.cache l).hits key mask then some s
    else match s.pull key mask unord (n :: ls) p with
      | none => none
      | some s =>
        some (s.fillLevel l key ((s.cache n).bytes key) ((s.cache n).validMask key) unord)

/-- Byte j of a sector as the nearest of some levels holds it, current or dirty. -/
def State.heldByte (s : State) (key j : Nat) (ls : List Level) : Option Byte :=
  ls.findSome? fun l => (find (s.cache l).sectors key).bind fun e =>
    if e.dirty.getLsbD j || ((s.cache l).current e && e.valid.getLsbD j) then some (e.data.getD j 0) else none

/-- Fill one level with a sector of a page that the package holds, from the levels beyond it and the package's memory (R130). -/
def State.prefetch (s : State) (key : Nat) (unord : Bool) (l : Level) (outer : List Level) (p : Nat) : State :=
  match s.pullMem p key with
  | none => s
  | some (s, bs, good) =>
    let held := (List.range 32).map fun j => s.heldByte key j outer
    let got := BitVec.ofNat 32 ((held.zipIdx.filter fun x => x.1.isSome).foldl (fun m x => m + 2 ^ x.2) 0)
    s.fillLevel l key (held.zipIdx.map fun x => x.1.getD (bs.getD x.2 0)) (got ||| good) unord

/-- The levels on a core's path. -/
def corePath (core : Nat) : List Level := [.l1 core, .l2 (dieOf core), .l3 (pkgOf core)]

/-- Write back and drop a sector from the levels of a core's path, narrowest first (R230, R236). -/
def State.purge (s : State) (key : Nat) (ls : List Level) : State :=
  ls.foldl (fun s l => (s.writeBackOne l key).dropLine l key) s

/-- The frame of a page's master, with its package; the twin's for a second package. -/
def State.masterFrames (s : State) (at_ gpn : Nat) : List (Nat × Nat) :=
  match s.parishSees at_ gpn with
  | none => []
  | some e => [e.master, e.twinpkg].filterMap fun p =>
      ((s.pkg p).frameOf gpn).bind fun f => if ((s.pkg p).tag f).state.isMaster || ((s.pkg p).tag f).state == .moving then some (p, f) else none

/-- The caches of a package, the narrowest first. -/
def pkgLevels (p : Nat) : List Level := (List.range 48).map (fun c => .l1 (48 * p + c)) ++ (List.range 4).map (fun d => .l2 (4 * p + d)) ++ [.l3 p]

/-- Dirty bytes of one sector that have left the caches of a package. -/
structure Spoil where
  pkg : Nat
  key : Nat
  bytes : List Byte
  mask : BitVec 32
  deriving DecidableEq, Repr

/-- Remove every line of a page from all caches of a package (R240, R252), and its fills in flight with them: what was dirty, sector by
sector. -/
def State.stripPage (s : State) (p gpn : Nat) : State × List Spoil :=
  let mine (s : State) (l : Level) : List (Nat × Sector) := (s.cache l).sectors.filter fun e => e.1 / 2048 == gpn
  let s := ((pkgLevels p).filter fun l => (lvlNext l).isSome).foldl (fun s l =>
    (mine s l).foldl (fun s e => (s.writeBackOne l e.1).dropLine l e.1) s) s
  let out := mine s (.l3 p)
  let s := out.foldl (fun s e => s.dropLine (.l3 p) e.1) s
  (s.mapRequests fun q => if q.pkg == p && q.gpn == gpn then { q with stale := true } else q,
    (out.filter fun e => e.2.dirty != 0).map fun e => ⟨p, e.1, e.2.data, e.2.dirty⟩)

/-! ## Translation (R243 to R248) -/

/-- How an address translates: to a leaf, not at all, or not yet, the host having been asked (R316). -/
inductive Tr where
  | ok (l : Leaf) | fail (c : Cause) | wait (ix : Nat)
  deriving DecidableEq, Repr

/-- Canonical addresses copy bit 56 into [63:57] (R122). -/
def canonical (va : Word) : Bool := va.extractLsb' 56 8 == 0 || va.extractLsb' 56 8 == 255

/-- A leaf entry's conditions of R245 at a level: run of 2^log pages. -/
def leafOk (e : Word) (log : Nat) : Bool :=
  e.getLsbD 63 && e.getLsbD 62 && e.extractLsb' 60 2 != 3 && e.extractLsb' 43 8 == 0 && e.extractLsb' 40 3 == 0
    && entGpn e % 2 ^ log == 0

/-- Walk the table from level lvl (0 to 3) down: leaf entry and log2 of its run, none for a TRANSLATION cause (R243 to R245). -/
def State.walk (s : State) (p : Nat) (vpage : Nat) : Nat → Nat → Nat → State × Option (Word × Nat)
  | 0, _, _ => (s, none)
  | n + 1, gpn, tidx =>
    -- n levels remain below this one: index bits above 10 n
    let ix := vpage / 2 ^ (10 * n) % (if n = 3 then 2048 else 1024)
    match s.sysRead p (65536 * gpn + 8192 * tidx + 8 * ix) 8 with
    | (s, none) => (s, none)
    | (s, some bs) =>
      let e := BitVec.ofNat 64 (natOfBytes bs)
      if !e.getLsbD 63 then (s, none)
      else if e.getLsbD 62 then
        (s, if n < 3 && leafOk e (10 * n) then some (e, 10 * n) else none)
      else if n = 0 || e.extractLsb' 43 19 != 0 then (s, none)
      else s.walk p vpage n (entGpn e) (e.extractLsb' 40 3).toNat

def TlbEnt.covers (t : TlbEnt) (ctx vpage : Nat) : Bool := t.ctx == ctx && vpage / 2 ^ t.log == t.vpage / 2 ^ t.log

/-- Write a host request at the ring's TAIL (R365, R366): none while the ring is full. -/
def State.askHost (s : State) (p kind core : Nat) (a b c : Word) : State × Option Nat :=
  let k := s.pkg p
  let who := s.cur
  if k.hreqTail - k.hreqHead = 4096 then (s, none)
  else
    let ix := k.hreqTail.toNat
    let base := (k.bootReg 0x40).toNat + 32 * (ix % 4096)
    let w0 := kind + 2 ^ 8 * p + 2 ^ 16 * (core % 256) + 2 ^ 32 * ix
    let s := s.setHostBytes base (bytesOf 8 w0 ++ bytesOf 8 a.toNat ++ bytesOf 8 b.toNat ++ bytesOf 8 c.toNat)
    (s.updPkg p fun k =>
      let k' := { k with hreqTail := k.hreqTail + 1, hreqs := put k.hreqs ix ⟨kind, core, a, b, c, who⟩ }
      if k.hreqTail = k.hreqHead then k'.raiseVec 5 else k', some ix)

/-- A page of the context pool, which teams cannot address (R36). -/
def Pkg.inPool (k : Pkg) (gpn : Nat) : Bool :=
  let x := (k.bootReg 0x18).toNat
  x % 2 ^ 40 ≤ gpn && gpn < x % 2 ^ 40 + x / 2 ^ 40

/-- A page of some package's context pool. -/
def State.pooled (s : State) (gpn : Nat) : Bool := s.pkgs.any fun k => k.2.inPool gpn

/-- A poisoned granule of a local frame under n bytes of a page (R37, R271); reading finds errors. -/
def State.poisonedAt (s : State) (p gpn off n : Nat) : Bool :=
  match (s.pkg p).frameOf gpn with
  | none => false
  | some f =>
    ((s.pkg p).tag f).state.serves && ((List.range ((off % 32 + n + 31) / 32)).any fun i =>
      let g := 2048 * f + off / 32 + i
      (find (s.pkg p).poison g).isSome || (find (s.pkg p).symErr g).any (64 ≤ ·))

/-- The leaf of a virtual address in a context, walked for without the TLBs. -/
def State.ctxLeaf (s : State) (p ctx : Nat) (va : Nat) : State × Option Leaf :=
  match find (s.pkg p).ctxs ctx with
  | none => (s, none)
  | some c =>
    let vp := va / 65536 % 2 ^ 41
    match if canonical (BitVec.ofNat 64 va) then s.walk p vp 4 c.rootGpn c.rootTidx else (s, none) with
    | (s, none) => (s, none)
    | (s, some r) => (s, some ((TlbEnt.mk ctx vp r.2 r.1 0 0).leaf vp))

/-- The place of a shadow word by its virtual address in a context: none when a check of a read fails (R37, R248). -/
def State.ctxPlace (s : State) (p ctx : Nat) (va : Nat) : State × Option (Leaf × Nat) :=
  match s.ctxLeaf p ctx va with
  | (s, none) => (s, none)
  | (s, some l) =>
      if l.ord = 3 || s.pooled l.gpn || (s.pkg p).knownLost l.gpn || s.poisonedAt p l.gpn (va % 65536) 4 then (s, none)
      else (s, some (l, 65536 * l.gpn + va % 65536))

/-- Counters of a new second-level entry, from the shadow table (R248). -/
def State.shadowHot (s : State) (p ctx gpn : Nat) : State × Nat × Nat :=
  match find (s.pkg p).ctxs ctx with
  | none => (s, 0, 0)
  | some c =>
    if c.shbase = 0 then (s, 0, 0)
    else match s.ctxPlace p ctx (c.shbase + 4 * (gpn % 2 ^ c.shw)) with
      | (s, none) => (s, 0, 0)
      | (s, some (_, a)) => match s.sysRead p a 4 with
        | (s, none) => (s, 0, 0)
        | (s, some bs) =>
          let w := natOfBytes bs
          (s, if w / 65536 = gpn / 2 ^ c.shw % 65536 then (w % 256 / 2, w / 256 % 256 / 2) else (0, 0))

/-- Who asks where no team's word does: the hardware of a core, the window and the queue scheduler of a package, and a press stream. -/
def hwWho (core : Nat) : Nat := 2 ^ 40 + core
def windowWho (p : Nat) : Nat := hwWho (6912 + p)
def schedWho (p : Nat) : Nat := hwWho (7056 + p)
def streamWho (sh : Nat) : Nat := 2 ^ 41 + sh

/-- What asks now belongs to no core: it uses no core's TLB, and a walk for it names core 0xFF (Table 20-9). -/
def State.noCore (s : State) : Bool := decide (hwWho 6912 ≤ s.cur) && decide (s.cur < streamWho 0)
def State.askCore (s : State) (core : Nat) : Nat := if s.noCore then 255 else core % 48

/-- The host has been asked for a walk of a page for a core by the word or hardware that asks now, and has not answered. -/
def State.asking (s : State) (core ctx : Nat) (va : Word) : Option Nat :=
  ((s.pkg (pkgOf core)).hreqs.find? fun h => h.2.kind == 1 && h.2.core == s.askCore core && h.2.who == s.cur
    && h.2.a.toNat / 65536 == va.toNat / 65536 && h.2.b.toNat % 4096 == ctx).map (·.1)

/-- Pass a second-level miss to the host, once (R316). -/
def State.askWalk (s : State) (core ctx : Nat) (va : Word) (write fetch_ : Bool) : State × Tr :=
  let p := pkgOf core
  match s.asking core ctx va with
  | some ix => (s, .wait ix)
  | none =>
    let (s, ix) := s.askHost p 1 (s.askCore core) va (BitVec.ofNat 64 (ctx + (if write then 4096 else 0) + (if fetch_ then 8192 else 0))) 0
    (s, .wait (ix.getD (2 ^ 32)))

/-- Key of a failing answer of the host: who asked (0 for a team's word, whose team holds the answer), context and page. -/
def failKey (who ctx vp : Nat) : Nat := 2 ^ 53 * who + 2 ^ 41 * ctx + vp

/-- A failing answer of the host, for the word or the hardware that asked (R316). -/
def State.noteFail (s : State) (p who ctx vp : Nat) (c : Cause) : State :=
  if who < 2 ^ 40 then s.updTeam who fun t => { t with fails := put t.fails (failKey 0 ctx vp) c }
  else s.updPkg p fun k => { k with walkFail := put k.walkFail (failKey who ctx vp) c }
def State.failed (s : State) (p ctx vp : Nat) : Option Cause :=
  match (s.team s.cur).bind fun t => find t.fails (failKey 0 ctx vp) with
  | some c => some c
  | none => find (s.pkg p).walkFail (failKey s.cur ctx vp)

/-- Run a read of the hardware under its own name; an answer that is no wait uses up the failing answers it was given. -/
def State.asHardware {α : Type} (s : State) (p who : Nat) (waits : α → Bool) (f : State → State × α) : State × α :=
  let r := f { s with cur := who }
  let s' : State := { r.1 with cur := s.cur }
  (if waits r.2 || (s'.pkg p).walkFail.isEmpty then s'
   else s'.updPkg p fun k => { k with walkFail := k.walkFail.filter fun w => w.1 / 2 ^ 53 != who }, r.2)

/-- Translate a virtual address for a core in a context: its TLB, the second level, then a walk, which enters both (R246);
DUTY.WALK passes a second-level miss to the host, whose failing answer stands for the word that asked (R316). -/
def State.translate (s : State) (core ctx : Nat) (va : Word) (write fetch_ : Bool := false) : State × Tr :=
  if !canonical va then (s, .fail .translation) else
  let p := pkgOf core
  let vp := va.toNat / 65536 % 2 ^ 41
  let enter (s : State) (t : TlbEnt) : State := if s.noCore then s else s.updCore core fun k => { k with tlb := t :: k.tlb }
  match if s.noCore then none else (s.core core).tlb.find? (·.covers ctx vp) with
  | some t => (s, .ok (t.leaf vp))
  | none =>
    match (s.pkg p).tlb2.find? (·.covers ctx vp) with
    | some t => (enter s t, .ok (t.leaf vp))
    | none =>
      match s.failed p ctx vp with
      | some c => (s, .fail c)
      | none =>
        if (s.pkg p).duty.getLsbD 3 || (s.asking core ctx va).isSome then s.askWalk core ctx va write fetch_
        else match find (s.pkg p).ctxs ctx with
          | none => (s, .fail .translation)
          | some c => match s.walk p vp 4 c.rootGpn c.rootTidx with
            | (s, none) => (s, .fail .translation)
            | (s, some (e, log)) =>
              let (s, hot) := s.shadowHot p ctx (entGpn e)
              let t : TlbEnt := ⟨ctx, vp / 2 ^ log * 2 ^ log, log, e, hot.1, hot.2⟩
              ((enter s t).updPkg p fun k => { k with tlb2 := t :: k.tlb2 },
                .ok (t.leaf vp))

/-- Add one to the counter of the second-level entry of a page, saturating (R247). -/
def State.heat (s : State) (p ctx vpage : Nat) (write : Bool) : State :=
  s.updPkg p fun k => { k with tlb2 := match k.tlb2.findIdx? (·.covers ctx vpage) with
    | none => k.tlb2
    | some i => k.tlb2.modify i fun t =>
      if write then { t with whot := min 255 (t.whot + 1) } else { t with rhot := min 255 (t.rhot + 1) } }

/-! ## Checks of an access (R37, R123, R124, R137, R138) -/

/-- A scratchpad address resolves to a share and an offset (R123); none is BOUNDS. -/
def State.resolve (s : State) (t : Team) (ea : Nat) : Option (Nat × Nat) :=
  let ea := ea % 2 ^ 32
  if ea / 2 ^ 26 % 2 = 0 then some (t.share, ea)
  else if ea / 2 ^ 27 != 0 then none
  else match s.cluster t.cl with
    | none => none
    | some c =>
      let p := ea / 2 ^ 22 % 16
      if p < c.cw * c.ch then (c.shares[p]?).map fun sh => (sh, ea % 2 ^ 22) else none

/-- Scratchpad bytes of a share as a team sees them: a reeve whose own share has ended has none anywhere (R123, R284). -/
def State.spBytesOf (s : State) (t : Team) (sh : Nat) : Nat :=
  (s.share sh).elim 0 fun x => if t.isReeve && (s.share t.share).any (·.ended) then 0 else x.spbytes

def Lock.overlaps (l : Lock) (lo n : Nat) : Bool := l.lo < lo + n && lo < l.hi

/-- RangeLocked of R37 for a global range of a context (R138). -/
def State.globLocked (s : State) (core ctx va n : Nat) (write : Bool) : Bool :=
  (s.core core).locks.any fun l => l.ctx == some ctx && l.overlaps va n && (write || l.write)

/-- RangeLocked of R37 for a scratchpad range (R138). -/
def State.spLocked (s : State) (sh off n : Nat) (write : Bool) : Bool :=
  match (s.share sh).bind (·.core) with
  | none => false
  | some c => (s.core c).locks.any fun l => l.ctx.isNone && l.sh == sh && l.overlaps off n && (write || l.write)

/-- The granules that n bytes of a page of a local frame lie in are read, which finds their errors (R271). -/
def State.readRange (s : State) (p gpn off n : Nat) : State :=
  match (s.pkg p).frameOf gpn with
  | none => s
  | some f => (List.range ((off % 32 + n + 31) / 32)).foldl (fun s i => (s.readGranule p f (off / 32 + i)).1) s

/-- A part of a global access that lies in one page: leaf, byte address 65,536 GPN + offset, length. -/
structure Piece where
  leaf : Leaf
  addr : Nat
  len : Nat
  deriving DecidableEq, Repr

/-- What the checks of one lane answer: the pieces of its access, a cause, or the host's walk it waits for. -/
inductive Chk where
  | ok (ps : List Piece) | bad (c : Cause) | wait (ix : Nat)
  deriving DecidableEq, Repr

def Chk.waits : Chk → Bool | .wait _ => true | _ => false

/-- Checks after translation, for one part (R37). -/
def State.checkPart (s : State) (core : Nat) (l : Leaf) (va n : Nat) (write rmw lockCheck probe : Bool) : Option Cause :=
  let p := pkgOf core
  if l.ord = 3 then some .translation
  else if (write && !l.w) || s.pooled l.gpn then some .permission
  else if lockCheck && s.globLocked core l.ctx va n write then some .rangeLock
  else if !probe && (s.pkg p).knownLost l.gpn then some .pageLost
  else if (!write || rmw) && s.poisonedAt p l.gpn (va % 65536) n then some .poison
  else none

/-- CheckAccess for a global access (R37); a permitted misaligned access is cut at page boundaries and the cause of smallest
index over its parts is the lane's (R124). -/
def State.checkGlobal (s : State) (core ctx : Nat) (va : Word) (n : Nat) (write rmw split lockCheck : Bool)
    (probe : Bool := false) : State × Chk :=
  if va.toNat % n != 0 && !split then (s, .bad .misaligned)
  else
    let first := min n (65536 - va.toNat % 65536)
    let cuts : List (Word × Nat) := if first = n then [(va, n)] else [(va, first), (va + BitVec.ofNat 64 first, n - first)]
    cuts.foldl (fun (acc : State × Chk) cut =>
      let (s, tr) := acc.1.translate core ctx cut.1 write
      let one : Chk := match tr with
        | .fail c => .bad c
        | .wait ix => .wait ix
        | .ok l => match s.checkPart core l cut.1.toNat cut.2 write rmw lockCheck probe with
          | some c => .bad c
          | none => .ok [⟨l, 65536 * l.gpn + cut.1.toNat % 65536, cut.2⟩]
      let s := match tr, one with
        | .ok l, .bad .poison => s.readRange (pkgOf core) l.gpn (cut.1.toNat % 65536) cut.2
        | _, _ => s
      (s, match acc.2, one with
        | .ok ps, .ok qs => .ok (ps ++ qs)
        | .wait ix, _ => .wait ix
        | _, .wait ix => .wait ix
        | .bad c, .bad d => .bad (if d.index < c.index then d else c)
        | .bad c, .ok _ => .bad c
        | .ok _, .bad d => .bad d)) (s, .ok [])

/-- CheckAccess for a scratchpad access of an address: share and offset, or a cause (R37, R123). -/
def State.checkSp (s : State) (t : Team) (ea n : Nat) (write : Bool) (lockCheck : Bool := true) : Except Cause (Nat × Nat) :=
  match s.resolve t ea with
  | none => .error .bounds
  | some (sh, off) =>
    if s.spBytesOf t sh < off + n then .error .bounds
    else if off % n != 0 then .error .misaligned
    else if lockCheck && s.spLocked sh off n write then .error .rangeLock
    else .ok (sh, off)

end Sys2Proof.Machine
end

