-- ==== Sys2Proof/Machine/Kernel.lean ====
section
/-! DEFINITION. Kernel headers as the hardware reads them: their fields, the records it reads in a context (R33), and the reeve
kernel of a context (R283). -/

namespace Sys2Proof.Machine

/-- A kernel header's fields, and whether its res0 bits are zero (Table 01-7). -/
def Kernel.ofBytes (bs : List Byte) : Kernel × Bool :=
  let w (i : Nat) : Nat := natOfBytes ((bs.drop (8 * i)).take 8)
  ({ version := w 0 % 256, ftz := (w 0).testBit 8, lanes := w 0 / 2 ^ 16 % 1024 + 1, teams := w 0 / 2 ^ 32 % 16 + 1
     pro8 := w 0 / 2 ^ 36 % 64, full8 := w 0 / 2 ^ 42 % 64, partition := w 1 % 2 ^ 32, roles := w 1 / 2 ^ 32
     entry := BitVec.ofNat 64 (w 2), press := BitVec.ofNat 64 (w 3), spbytes := w 4 % 2 ^ 32, accblk := w 4 / 2 ^ 32 % 256
     rings := w 4 / 2 ^ 40 % 256 },
   w 0 / 2 ^ 9 % 128 == 0 && w 0 / 2 ^ 26 % 64 == 0 && w 0 / 2 ^ 48 == 0 && w 4 / 2 ^ 48 == 0 && w 5 == 0 && w 6 == 0 && w 7 == 0)

/-- Check 1 of Table 01-8 on the header alone. -/
def Kernel.readable (k : Kernel) (resOk : Bool) (va : Word) : Bool :=
  1 ≤ k.version && k.version ≤ 3 && resOk && k.entry.toNat % 8 == 0 && va.toNat % 64 == 0

/-- The PRO8 and FULL8 limits of check 2. -/
def Kernel.allotOk (k : Kernel) : Bool := 2 ≤ k.pro8 && k.pro8 ≤ 8 && k.pro8 ≤ k.full8 && k.full8 ≤ 32

/-- What the hardware finds of 64 bytes that it reads in a context (R33). -/
inductive Rec where
  | ok (bs : List Byte) | bad | wait
  deriving DecidableEq, Repr

def Rec.waits : Rec → Bool | .wait => true | _ => false

/-- Read a 64-byte record in a context for a reader, as R33 gives. -/
def State.readRecord (s : State) (who core ctx : Nat) (va : Word) : State × Rec :=
  s.asHardware (pkgOf core) who Rec.waits fun s => match s.checkGlobal core ctx va 64 false false false false with
    | (s, .wait _) => (s, .wait)
    | (s, .bad _) => (s, .bad)
    | (s, .ok ps) => match s.sysRead (pkgOf core) ((ps.head?).elim 0 (·.addr)) 64 with
      | (s, some bs) => (s, .ok bs)
      | (s, none) => (s, .bad)

/-- The host has been asked by some hardware of a package for a walk of a page and has not answered (R316). -/
def State.walkAsked (s : State) (p who ctx : Nat) (va : Word) : Bool :=
  (s.pkg p).hreqs.any fun e =>
    e.2.kind == 1 && e.2.who == who && e.2.a.toNat / 65536 == va.toNat / 65536 && e.2.b.toNat % 4096 == ctx

/-- The reeve kernel of a context: its header and address, or none when there is no usable one (R283); none at all while a walk
is awaited. -/
def State.reeveKernel (s : State) (core ctx : Nat) : State × Option (Option (Kernel × Word × Word)) :=
  match find (s.pkg (pkgOf core)).ctxs ctx with
  | none => (s, some none)
  | some c =>
    if c.reeveHdr = 0 then (s, some none)
    else if s.walkAsked (pkgOf core) (hwWho core) ctx c.reeveHdr then (s, none)
    else match s.readRecord (hwWho core) core ctx c.reeveHdr with
      | (s, .wait) => (s, none)
      | (s, .bad) => (s, some none)
      | (s, .ok bs) =>
        let k := Kernel.ofBytes bs
        (s, some (if k.1.readable k.2 c.reeveHdr && k.1.allotOk then some (k.1, c.reeveHdr + k.1.entry, c.reeveParam) else none))

end Sys2Proof.Machine
end

