-- ==== Sys2Proof/Machine/Ops.lean ====
section
/-! DEFINITION. Named operations the instructions share: how a word ends (retire, jump, freeze, park, abort, end), taking a
fault (R37, R38, R280 to R282, R288, R292), resuming from it (R184, R286), the end of a team (R121, R161, R298), aborts of a
try region (R171), barrier words (R159) and bells (R163), and the checks before a word issues (R47). -/

namespace Sys2Proof.Machine

open Host

/-- How a word ends. -/
inductive Act where
  /-- It has taken its effect; the team goes on behind it. -/
  | retire (s : State)
  /-- It has taken its effect and the team continues at a clause header. -/
  | jump (s : State) (pc : Word)
  /-- It faults: the causes of the lanes, none for a lane without, their effective addresses, and the subcode. -/
  | freeze (s : State) (cs : List (Nat × Option Cause × Word)) (sub field : Nat)
  /-- It faults alike in every Active lane, with one cause; the cause stands even when no lane is in Active. -/
  | fault (s : State) (h : Hdr) (c : Cause) (sub field : Nat) (ea : Word)
  /-- It has not taken effect; the team leaves issue until the condition holds. -/
  | park (s : State) (c : Cond)
  /-- An event of Table 06-10 aborts the open try region. -/
  | abort (s : State) (code user : Nat)
  /-- The team has ended (R121). -/
  | ended (s : State)
  /-- It has taken its effect; the team leaves issue until its accesses are performed, and then acquires at a scope (R226). -/
  | hold (s : State) (scope : Nat)
  deriving DecidableEq, Repr

/-! ## Barrier words and bells -/

/-- A barrier word (Table 06-2). -/
structure BarWord where
  expected : Nat
  arrived : Nat
  drops : Nat
  phase : Bool
  deriving DecidableEq, Repr

/-- The fields of a barrier word; an operation on it clears its res0 bits (log 75). -/
def BarWord.ofNat (n : Nat) : BarWord := ⟨n % 65536, n / 2 ^ 16 % 65536, n / 2 ^ 32 % 65536, n.testBit 48⟩
def BarWord.toNat (w : BarWord) : Nat :=
  w.expected % 65536 + 2 ^ 16 * (w.arrived % 65536) + 2 ^ 32 * (w.drops % 65536) + (if w.phase then 2 ^ 48 else 0)

/-- Arrive of R159. -/
def BarWord.arrive (w : BarWord) (drop : Bool) : BarWord :=
  let w := { w with arrived := w.arrived + 1, drops := if drop then w.drops + 1 else w.drops }
  if w.expected ≤ w.arrived then ⟨w.expected - w.drops, 0, 0, !w.phase⟩ else w

def State.spNat (s : State) (sh off n : Nat) : Nat := natOfBytes ((List.range n).map fun i => s.spByte sh (off + i))
def State.barWord (s : State) (sh off : Nat) : BarWord := .ofNat (s.spNat sh off 8)
/-- Write a barrier word at its bank, on behalf of a team (R156). -/
def State.setBar (s : State) (by_ : Option Nat) (sh off : Nat) (w : BarWord) : State :=
  (s.setSpBytes sh off (bytesOf 8 w.toNat)).noteWrite by_ [.sp sh off]

/-- BellArrive of R163. -/
def Bell.arrive (b : Bell) : Bell :=
  if b.expect ≤ b.count + 1 then { b with phase := !b.phase, count := b.count + 1 - b.expect } else { b with count := b.count + 1 }

def State.bellArrive (s : State) (sh b : Nat) : State :=
  s.updShare sh fun x => { x with stream := x.stream.map fun m => { m with bells := m.bells.set b ((m.bells.getD b {}).arrive) } }

def State.bell (s : State) (sh b : Nat) : Bell := ((s.share sh).bind (·.stream)).elim {} fun m => m.bells.getD b {}

/-! ## Fault log and waiting lists -/

/-- Write an entry of the escalation log (Table 12-5) and set FSTAT.ESCALATED. -/
def State.logEsc (s : State) (p : Nat) (e : LogEnt) : State :=
  s.updPkg p fun k =>
    { (k.setFstat 0) with
      log := put k.log k.escNext { e with clock := s.clock p }
      escNext := (k.escNext + 1) % 64
      escTotal := (k.escTotal + 1) % 2 ^ 24 }

/-- A frozen team without a reeve, or a handle handed back, joins its core's waiting list, or is held while the list is full
(R288). -/
def State.enlist (s : State) (c : Nat) (h : Handle) : State :=
  if (s.core c).waiting.length < 64 then
    let s := s.updCore c fun k => { k with waiting := k.waiting ++ [h] }
    if (s.core c).waiting.length = 64 then s.updPkg (pkgOf c) (·.setFstat 1) else s
  else (s.updCore c fun k => { k with held := k.held ++ [h] }).updPkg (pkgOf c) (·.setFstat 1)

/-- Remove a team's handle from the waiting lists; held teams move up in order of freeze (R288). -/
def State.delist (s : State) (tk : Nat) : State :=
  { s with cores := s.cores.map fun (e : Nat × Core) =>
      let k := e.2
      if k.waiting.contains (Handle.frozen tk) || k.held.contains (Handle.frozen tk) then
        let w := k.waiting.filter (· != Handle.frozen tk)
        let h := k.held.filter (· != Handle.frozen tk)
        (e.1, { k with waiting := w ++ h.take (64 - w.length), held := h.drop (64 - w.length) })
      else e }

/-! ## Long-latency results that another step supplies -/

/-- No result is outstanding. -/
def Team.settled (t : Team) : Bool := t.outst.all fun o => o.parts.isEmpty

/-- Fill the bytes that wait for number r. -/
def Team.fill (t : Team) (r : Nat) (bytes : List Byte) : Team :=
  { t with outst := t.outst.map fun o => { o with parts := o.parts.map fun q => { q with bytes := q.bytes.map fun b =>
      match b with | .known x => .known x | .await n i => if n = r then .known (bytes.getD i 0) else .await n i } } }

/-- Parts that wait for number r are given up: their registers keep their values (R289). -/
def Team.giveUp (t : Team) (r : Nat) (lanes : List Nat) : Team :=
  { t with outst := t.outst.map fun o => { o with parts := o.parts.filter fun q =>
      !(lanes.contains q.lane && q.bytes.any fun b => match b with | .known _ => false | .await n _ => n == r) } }

def State.fillAll (s : State) (r : Nat) (bytes : List Byte) : State :=
  { s with teams := s.teams.map fun e => (e.1, e.2.fill r bytes) }

/-- A stepped word is done: the code of R184 to the reeve's result, or to the command that steps. -/
def State.settleStep (s : State) (tk code : Nat) : State :=
  match (s.team tk).bind (·.stepping) with
  | none => s
  | some (some n) => (s.updTeam tk fun t => { t with stepping := none }).fillAll n (bytesOf 8 code)
  | some none =>
    (s.updTeam tk fun t => { t with stepping := none }).updPkg (pkgOfTeam tk) fun k =>
      ({ k with cmdValue := BitVec.ofNat 48 code, cmdResult := 0, busy := false }).raiseVec 0

/-! ## The end of a team -/

/-- Role codes (Table 01-6). -/
def roleCode : Role → Nat | .general => 0 | .copy => 1 | .norm => 2 | .reeve => 3

/-- BAR.DROP on one registration, as the team's end performs it (R159, R161). -/
def State.dropReg (s : State) (tk : Nat) (r : Registration) : State :=
  let w := s.barWord r.sh r.off
  s.setBar (some tk) r.sh r.off (if r.pending then { w with drops := w.drops + 1 } else w.arrive true)

/-- The teams of a share that have not ended. -/
def State.teamsOf (s : State) (sh : Nat) : List (Nat × Team) := s.teams.filter fun e => e.2.share == sh && !e.2.isReeve

def StreamState.over : StreamState → Bool
  | .ended | .killed => true | _ => false

/-- A share ends when all its teams have ended and its stream is ENDED or KILLED (R211). -/
def State.endShare (s : State) (sh : Nat) : State :=
  match s.share sh with
  | none => s
  | some x =>
    if (s.teamsOf sh).isEmpty && x.stream.all (·.st.over) then s.setShare sh { x with ended := true } else s

/-- A reeve's h0 goes back when it ends: a FROZEN handle to the waiting list, a DEPARTED one to none (R185, R285, R291). -/
def State.handBack (s : State) (tk : Nat) : State :=
  match (s.team tk).elim Handle.none (·.h0) with
  | .frozen f => if (s.team f).any fun u => u.run == .frozen || u.stepping.isSome then s.enlist (coreOf tk) (.frozen f) else s
  | _ => s

/-- What stays known of a team that ends. -/
def Team.ending (t : Team) (core : Nat) : Ended :=
  { serial := t.serial, core := core, grid := t.grid, ctx := t.ctx, teamIx := t.teamIx, cluster := t.cluster, cl := t.cl, share := t.share,
    role := t.role }

/-- A team leaves the queues in which it waits: of its rings and of the pending-launch store. -/
def State.leaveQueues (s : State) (tk : Nat) : State :=
  match s.team tk with
  | none => s
  | some t =>
    (s.updShare t.share fun x =>
      { x with rings := x.rings.map fun r => { r with senders := r.senders.filter (· != tk), takers := r.takers.filter (· != tk) } }).updPkg
      (pkgOfTeam tk) fun k => { k with launchWait := k.launchWait.filter (· != tk) }

/-- The team ends: its registrations are dropped under one CLUSTER release, its buffer and its results are discarded, its
serial stays known, handles to it become NONE, its slot frees (R121, R161, R185, R298). -/
def State.endTeam (s : State) (tk : Nat) : State :=
  match s.team tk with
  | none => s
  | some t =>
    let s := if t.regs.isEmpty then s else s.release (coreOf tk) 2
    let s := t.regs.foldl (fun s r => s.dropReg tk r) s
    let s := s.handBack tk
    let s := s.delist tk
    let s := s.settleStep tk 2
    let s := s.leaveQueues tk
    let s := { s with teams := (erase s.teams tk).map fun (e : Nat × Team) => (e.1, if e.2.h0 = Handle.frozen tk then { e.2 with h0 := Handle.none } else e.2) }
    let s := s.updPkg (pkgOfTeam tk) fun k =>
      { k with endedTeams := (t.ending (coreOf tk) :: k.endedTeams).take Config.knownTeams }
    s.endShare t.share

/-- The hardware waits inside a word, on its behalf: no Park of R37. The team keeps its admission and its issue slot (R57, R308). -/
def Cond.stalls : Cond → Bool
  | .fetched _ | .acks _ | .walk _ | .quiet | .acquired _ _ => true
  | _ => false

/-- The team waits inside a word whose release is under way (R225, R348). -/
def Team.releasing (t : Team) : Bool := t.word.isSome && match t.run with
  | .parked (.acks _) | .parked .quiet => true
  | _ => false

/-- A team that a kill has ended goes no further than the word whose release it waited for (R357). -/
def State.reap (s : State) (tk : Nat) : State :=
  if (s.team tk).any fun t => t.doomed && !(match t.run with | .parked c => c.stalls | _ => false) then s.endTeam tk else s

/-- A kill ends a team, behind a release that it has issued (R298, R357). -/
def State.kill (s : State) (tk : Nat) : State :=
  if (s.team tk).any (·.releasing) then s.updTeam tk fun t => { t with doomed := true } else s.endTeam tk

/-- FKILL.grid: every team of a grid ends (R185). -/
def State.killGrid (s : State) (g : Nat) : State :=
  let s := ((s.teams.filter fun (e : Nat × Team) => e.2.grid == g && !e.2.isReeve).map (·.1)).foldl (fun s tk => s.kill tk) s
  ((s.shares.filter fun (e : Nat × Share) => e.2.grid == g).map (·.1)).foldl (fun s sh => s.endShare sh) s

/-! ## Taking a fault -/

/-- A reeve that freezes is escalated with the team its h0 names; hardware mode kills both, host-assisted mode holds both for
the host (R292). -/
def State.escalateReeve (s : State) (tk kind : Nat) : State :=
  match s.team tk with
  | none => s
  | some r =>
    let p := pkgOfTeam tk
    let tser : Nat := match r.h0 with
      | .frozen f => (s.team f).elim 0 (·.serial) | .departed e _ => e.serial | .none => 0
    -- the record of the reeve when it faulted, else of the team (Table 12-5)
    let rec_ : CauseRec := if kind = 1 then r.cause else match r.h0 with
      | .frozen f => (s.team f).elim { addr := r.cause.addr } (·.cause)
      | .departed _ x => x
      | .none => { addr := r.cause.addr }
    let s := s.logEsc p { addr := rec_.addr, tserial := tser, rserial := r.serial, kind := kind, core := coreOf tk % 48, cause := rec_.word }
    if (s.pkg p).duty.getLsbD 0 then
      let s := s.updTeam tk fun t => { t with escalated := true }
      match r.h0 with | .frozen f => s.updTeam f fun t => { t with escalated := true } | _ => s
    else
      let s := match r.h0 with | .frozen f => s.endTeam f | _ => s
      s.endTeam tk

/-- A team whose context has no reeve kernel: escalated with kind NOREEVE, killed in hardware mode and held for the host
otherwise; it joins no waiting list (R292). -/
def State.escalateAlone (s : State) (tk : Nat) : State :=
  match s.team tk with
  | none => s
  | some t =>
    let p := pkgOfTeam tk
    let s := s.logEsc p { addr := t.cause.addr, tserial := t.serial, rserial := 0, kind := 2, core := coreOf tk % 48, cause := t.cause.word }
    if (s.pkg p).duty.getLsbD 0 then (s.delist tk).updTeam tk fun t => { t with escalated := true } else s.endTeam tk

/-- No reeve can be spawned in a context: REEVEHDR is zero or names no usable header (R283, R292). -/
def State.reeveless (s : State) (core ctx : Nat) : Bool := (s.reeveKernel core ctx).2 == some none

/-- Abort the open region: the checkpoint is restored, buffer and footprints are discarded, the code is noted, and the team
continues at the abort clause (R171). -/
def Team.abortTry (t : Team) (code user : Nat) : Team :=
  match t.tryR with
  | none => t
  | some r =>
    { t with
      v := r.v, s := r.s, k := r.k, live := r.live, active := r.active
      masks := t.masks.drop (t.masks.length - r.depth)
      tryR := none, tryCode := BitVec.ofNat 8 code, tryUser := BitVec.ofNat 8 user, tryAborts := t.tryAborts + 1
      pc := r.abortPc, word := none, pend := [], outst := [], retry := none, relWait := none, sleepUntil := none, latch := none
      brought := [], fails := [], inSlot := false, run := .running, admitted := t.admitted && !t.withdrawn }

/-- What a team does once its outstanding results have returned: a freeze or an abort that waited for them takes effect (R56,
R171). A stepped team stays frozen behind it; a region's reports that are still on their way have met it open (R290). -/
def State.takeStop (s : State) (tk : Nat) : State :=
  match s.team tk with
  | none => s
  | some t =>
    if !t.settled then s
    else match t.run with
      | .freezing =>
        let s := s.setTeam tk { t with run := .frozen, admitted := false }
        let s := s.updPkg (pkgOfTeam tk) fun k => { k with freezes := k.freezes + 1 }
        if t.stepping.isSome then s.settleStep tk 1
        else if t.isReeve then s.escalateReeve tk 1
        -- one that no reeve can serve joins no list (R292)
        else if s.reeveless (coreOf tk) t.ctx then s
        else s.enlist (coreOf tk) (.frozen tk)
      | .aborting code user =>
        let s := { s with reports := s.reports.filter fun r => !(r.tk == tk && r.serial == t.serial) }
        let u := { t.abortTry code user with cause := {}, readyAt := s.now }
        if t.stepping.isSome then (s.setTeam tk { u with run := .frozen }).settleStep tk 0 else s.setTeam tk u
      | _ => s

/-- Freeze a team with a cause record (Freeze of R37, R280, R281): earlier words of the clause stand, nothing of the faulting
instruction does, and outstanding results return first (R56). A stepped team stays frozen under its handle. -/
def State.freeze (s : State) (tk : Nat) (rec_ : CauseRec) : State :=
  match s.team tk with
  | none => s
  | some t =>
    (s.setTeam tk { t.commit with
      run := .freezing, cause := rec_, retry := none, relWait := none, sleepUntil := none, latch := none, brought := [], fails := []
      inSlot := false }).takeStop tk

/-- A clause's last word issues: GAP and GIVE are noted (R308, R309). -/
def Team.noteEnd (t : Team) (now : Nat) : Team :=
  { t with gapUntil := now + 1 + t.hdr.gap.toNat, giveMark := t.giveMark || t.hdr.give }

/-- The word that issues is the last of its clause. -/
def Team.atLast (t : Team) : Bool := t.run == .running && t.word == some t.hdr.n.toNat

/-- An abort of the open region (R171). A team that issues or waits for admission keeps its place in the order of waits, a parked one
begins to wait (R310). -/
def State.abortTry (s : State) (tk code user : Nat) : State :=
  match s.team tk with
  | none => s
  | some t =>
    if t.tryR.isNone then s
    else
      let stays := t.run == .running || t.withdrawn
      let u := if t.atLast then t.noteEnd s.now else t
      ((if stays then s else s.bump).setTeam tk { u with
        run := .aborting code user, latch := none, brought := [], fails := [], inSlot := false
        admitSeq := if stays then t.admitSeq else s.fresh }).takeStop tk

/-- The address of the word that issues, or of the header (R281). -/
def Team.here (t : Team) : Word := match t.word with | none => t.pc | some j => t.pc + BitVec.ofNat 64 (8 * (j + 1))

/-- The cause record of a precise fault (R281, R282). -/
def Team.record (t : Team) (cs : List (Nat × Option Cause × Word)) (sub field : Nat) : CauseRec :=
  let ls := cs.map fun c => (⟨c.1, c.2.1.getD .deferred, c.2.2⟩ : LaneCause)
  let pr := primaryOf ls
  { lanes := ls, primary := pr.elim 0 (·.code), sub := if pr = some .illegal ∨ pr = some .shape then sub else 0, field := field,
    imprecise := false, addr := t.here, atHeader := t.word.isNone }

/-- A cause recorded in every Active lane. -/
def Team.everyLane (t : Team) (h : Hdr) (c : Cause) (ea : Word := 0) : List (Nat × Option Cause × Word) :=
  (t.act h).map fun L => (L, some c, ea)

/-- Freeze once for the team: every Active lane is recorded; with no lane in Active the primary cause stands alone. -/
def State.freezeTeam (s : State) (tk : Nat) (t : Team) (h : Hdr) (c : Cause) (sub : Nat) (ea : Word := 0) (field : Nat := 0) :
    State :=
  s.freeze tk { (t.record (t.everyLane h c ea) sub field) with
    primary := c.code, sub := if c = .illegal ∨ c = .shape then sub else 0 }

/-! ## How a word ends -/

/-- The team goes on at a clause header: short-latency results become visible, GAP and GIVE are noted (R41, R53, R308, R309). -/
def Team.endClause (t : Team) (now : Nat) (pc : Word) : Team :=
  { (t.commit).noteEnd now with
    pc := pc, word := none, retry := none, cause := {}, relWait := none, latch := none, brought := [], fails := [], inSlot := false
    run := .running, admitted := t.admitted && !t.withdrawn }

/-- Next clause in program order (R41). -/
def Team.nextPc (t : Team) : Word := t.pc + BitVec.ofNat 64 (8 * (t.hdr.n.toNat + 2))

/-- After its word: park on the switch marker while results are outstanding (R55), freeze again after a step (R184). -/
def State.settle (s : State) (tk : Nat) (z : Bool) : State :=
  match s.team tk with
  | none => s
  | some t =>
    if t.stepping.isSome then (s.setTeam tk { t.commit with run := .frozen }).settleStep tk 0
    else if z && t.outst.any (fun o => !o.parts.isEmpty) then s.setTeam tk { t with run := .parked .results, admitted := false, inSlot := false }
    else s

/-- Behind its word: the next word of the clause, or the next clause (R41, R57). -/
def State.passWord (s : State) (tk : Nat) : State :=
  s.updTeam tk fun t =>
    let j := t.word.getD 0
    if j < t.hdr.n.toNat then { t with
      word := some (j + 1), retry := none, cause := {}, relWait := none, latch := none, brought := [], fails := [], run := .running }
    else t.endClause s.now t.nextPc

/-- The instruction parks under Park of R37; the other conditions are waits of the hardware on its behalf, which a stepped word
waits out (R184). -/
def Cond.isPark : Cond → Bool
  | .fetched _ | .still _ | .lodged _ _ | .acks _ | .walk _ | .quiet | .acquired _ _ => false
  | _ => true

/-- A word that waits has issued, and so has read its guard (R52); for room in the waiting list it waits to issue (R288). -/
def Cond.reads (c : Cond) : Bool := c != .listRoom

/-- What follows a word that has ended as `a` says; z is its switch marker, which only a clause's last word carries (R47). A parked
team gives up its issue slot (log 96). -/
def Act.finish (a : Act) (tk : Nat) (z : Bool) : State :=
  match a with
  | .retire s => (s.passWord tk).settle tk z
  | .hold s scope =>
    match s.team tk with
    | none => s
    | some t =>
      let s := s.passWord tk
      s.updTeam tk fun u => { (if t.stepping.isSome then u.commit else u) with run := .parked (.acquired scope z) }
  | .jump s pc => (s.updTeam tk fun t => t.endClause s.now pc).settle tk z
  | .freeze s cs sub field =>
    match s.team tk with
    | none => s
    | some t =>
      let r := t.record cs sub field
      if t.tryR.isSome && cs.any (fun c => c.2.1.any (·.isAddress)) && !(cs.any fun c => c.2.1.any fun x => !x.isAddress) then
        s.abortTry tk 4 0
      else s.freeze tk r
  | .fault s h c sub field ea =>
    match s.team tk with
    | none => s
    | some t => if t.tryR.isSome && c.isAddress then s.abortTry tk 4 0 else s.freezeTeam tk t h c sub ea field
  | .park s c =>
    match s.team tk with
    | none => s
    | some t =>
      if t.stepping.isSome && c.isPark then
        (s.setTeam tk { t.commit with run := .frozen, sleepUntil := none, relWait := none, latch := none, brought := [], fails := [] }).settleStep tk 3
      else
        let latch := if c.reads && t.word.isSome then some (t.latch.getD []) else t.latch
        s.setTeam tk { t with run := .parked c, admitted := c.stalls && t.admitted, inSlot := c.stalls && t.inSlot, latch := latch }
  | .abort s code user => s.abortTry tk code user
  | .ended s => s.endTeam tk


/-! ## Checks before a word issues (R47) -/

/-- Opcode row of a team's word. -/
def rowOf (i : Instr) : Nat := (encodeWord i).elim 0x1F fun w => (wordOp w).toNat / 16

/-- Class of a row (Table 02-7); rows 0x1A to 0x1F never reach the check. -/
def rowClass (r : Nat) : Nat :=
  if r < 0x0A then 0 else if r = 0x0A then 1 else if r ≤ 0x11 then 2 else if r = 0x12 then 3 else if r ≤ 0x15 then 4
  else if r = 0x16 then 2 else if r = 0x17 then 7 else if r = 0x18 then 6 else 5

/-- Rows a role may issue (Table 01-6). -/
def roleRow (ro : Role) (r : Nat) : Bool :=
  let general := r ≤ 0x11 || (0x13 ≤ r && r ≤ 0x16) || r == 0x18
  match ro with
  | .general => general
  | .copy => r ≤ 0x03 || (0x0A ≤ r && r ≤ 0x16) || r == 0x18
  | .norm => general || r == 0x19
  | .reeve => general || r == 0x17

/-- v registers an M word names: the data registers by SIZE, and the address. -/
def memRegs (f : MF) (glob : Bool) (data : Nat) : List (Nat × Nat) := [(f.data.toNat, data), (f.addr.toNat, if glob then 2 else 1)]
def dataCount (size : BitVec 3) : Nat := if size = 4 then 4 else if size = 3 then 2 else 1
def atomCount (size : BitVec 3) : Nat := if size = 3 then 2 else 1

/-- v registers of a VA word with operands A, B, C of given widths (0: not a v register). -/
def vaRegs (f : VA) (d a b c : Nat) : List (Nat × Nat) :=
  [(f.d.toNat, d), (f.a.toNat, a), (f.b.toNat, if f.fl.getLsbD 0 then 0 else b), (f.c.toNat, if f.fl.getLsbD 1 then 0 else c)]

/-- The v registers a word names, as base and count (check 8). -/
def vregs : Instr → List (Nat × Nat)
  | .iadd _ f => vaRegs f 1 1 1 0 | .iaddc _ f => vaRegs f 1 1 1 0 | .isub _ f => vaRegs f 1 1 1 0 | .isubb _ f => vaRegs f 1 1 1 0
  | .imul _ f => vaRegs f 1 1 1 0 | .imulhi _ f => vaRegs f 1 1 1 0 | .imad _ f => vaRegs f 1 1 1 1 | .imadw _ f => vaRegs f 2 1 1 2
  | .imin _ f => vaRegs f 1 1 1 0 | .imax _ f => vaRegs f 1 1 1 0 | .iabs _ f => vaRegs f 1 1 0 0 | .logic _ f => vaRegs f 1 1 1 1
  | .sel _ f => vaRegs f 1 1 1 0 | .icmp _ f => vaRegs f 0 1 1 0 | .lea _ f => vaRegs f 2 1 2 0 | .shl _ f => vaRegs f 1 1 1 0
  | .shr _ f => vaRegs f 1 1 1 0 | .sar _ f => vaRegs f 1 1 1 0 | .rotl _ f => vaRegs f 1 1 1 0 | .fshl _ f => vaRegs f 1 1 1 1
  | .bfx _ f => vaRegs f 1 1 1 0 | .bfi _ f => vaRegs f 1 1 1 1 | .popc _ f => vaRegs f 1 1 0 0 | .clz _ f => vaRegs f 1 1 0 0
  | .ffs _ f => vaRegs f 1 1 0 0 | .brev _ f => vaRegs f 1 1 0 0
  | .iaddImm _ f | .imulImm _ f | .iminImm _ f | .imaxImm _ f | .shlImm _ f | .shrImm _ f | .sarImm _ f | .rotlImm _ f
  | .faddImm _ f | .fmulImm _ f | .fminImm _ f | .fmaxImm _ f => [(f.d.toNat, 1), (f.a.toNat, if f.asS then 0 else 1)]
  | .fadd _ f => vaRegs f 1 1 0 1 | .fmul _ f => vaRegs f 1 1 1 0 | .ffma _ f => vaRegs f 1 1 1 1 | .fmin _ f => vaRegs f 1 1 1 0
  | .fmax _ f => vaRegs f 1 1 1 0 | .fcmp _ f => vaRegs f 0 1 1 0 | .fclass _ f => vaRegs f 1 1 0 0 | .fscale _ f => vaRegs f 1 1 1 0
  | .fdot2 _ f => vaRegs f 1 1 1 1 | .hadd2 _ f => vaRegs f 1 1 0 1 | .hmul2 _ f => vaRegs f 1 1 1 0 | .hfma2 _ f => vaRegs f 1 1 1 1
  | .frcp _ f | .frsq _ f | .fsqrt _ f | .fexp2 _ f | .flog2 _ f | .fsin _ f | .fcos _ f => vaRegs f 1 1 0 0
  | .cvt _ f => vaRegs f 1 1 0 0 | .pack4Pack _ f => vaRegs f 1 1 1 0 | .pack4Unlo _ f => vaRegs f 1 1 0 0
  | .pack4Unhi _ f => vaRegs f 1 1 0 0 | .plane _ f => vaRegs f 2 1 0 0 | .unplane _ f => vaRegs f 1 2 0 1
  | .blkscaleScale _ f => vaRegs f 1 1 0 0 | .blkscaleApply _ f => vaRegs f 1 1 1 0
  | .shfl _ f => if f.sub.getLsbD 2 then vaRegs f 2 2 1 2 else vaRegs f 1 1 1 1
  | .voteAll _ _ | .voteAny _ _ => [] | .voteBallot _ f => vaRegs f 1 0 0 0 | .voteUni _ f => vaRegs f 0 1 0 0
  | .matchK _ f => vaRegs f 1 (if f.sub.getLsbD 0 then 2 else 1) 0 0 | .klogic _ _ => []
  | .kmov _ f => if f.sub = 0 then vaRegs f 1 0 0 0 else if f.sub = 1 then vaRegs f 0 1 0 0 else []
  | .readlane _ f => vaRegs f 1 1 0 0 | .redg _ f | .redt _ f | .scang _ f => vaRegs f 1 1 0 0
  | .vbcast _ f => vaRegs f (if f.sub.getLsbD 1 then 2 else 1) 0 0 0
  | .ld _ f | .ldProbe _ f | .st _ f => memRegs f true (dataCount f.size)
  | .lds _ f | .sts _ f => memRegs f false (dataCount f.size)
  | .pref _ f | .cctlWb _ f | .cctlInv _ f | .cctlDiscard _ f => memRegs f true 0
  | .fetch _ f => memRegs f true 1
  | .atomCas _ f => memRegs f true (2 * atomCount f.size) | .atomsCas _ f => memRegs f false (2 * atomCount f.size)
  | .atom _ _ f | .redK _ _ f => memRegs f true (atomCount f.size) | .atoms _ _ f | .reds _ _ f => memRegs f false (atomCount f.size)
  | .gath _ f | .scat _ f => [(f.v.toNat, 2)] | .spantag _ f => [(f.v.toNat, 1)] | .rmap _ f => [(f.v.toNat, 4)]
  | .frd _ f => if f.useV false = some true then [(f.v.toNat, if f.file = 5 && f.imm = 1 then 2 else 1)] else []
  | .fwr _ f => if f.useV true = some true then [(f.v.toNat, 1)] else []
  | .fpatch _ f => [(f.v.toNat, 1)]
  | .rdsr _ f => if f.imm < 2 then [(f.v.toNat, 1)] else []
  | .accrd _ f | .accwr _ f | .accrs _ f | .accmax _ f => [(f.v.toNat, 1)]
  | _ => []

/-- The special-register selectors known to a version (Tables 01-3, 01-4, 02-8). -/
def selKnown (version sel : Nat) : Bool := (sel < 0x14 && !(version == 1 && sel == 0x0F)) || (0x100 ≤ sel && sel ≤ 0x109)

/-- Does the word carry type code 7 (TS8) in VA.T or in CVT's source (R59)? -/
def usesTs8 : Instr → Bool
  | .cvt _ f => f.t == 7 || f.sub == 7
  | .plane _ f | .unplane _ f | .blkscaleScale _ f | .blkscaleApply _ f => f.t == 7
  | _ => false

def wordHdr : Instr → Option Hdr := fun i => (encodeWord i).map Hdr.ofWord

/-- The destination of a frozen instruction, for FPATCH (R183): a v register with its number of words, a predicate, an s
register, or none. -/
inductive Dest where
  | v (n words : Nat) | k (n : Nat) | s (n : Nat) | none
  deriving DecidableEq, Repr

def destOf : Instr → Dest
  | .icmp _ f | .fcmp _ f | .voteAll _ f | .voteAny _ f | .voteUni _ f | .klogic _ f => .k (f.d.toNat % 16)
  | .kmov _ f => if f.sub = 0 then .v f.d.toNat 1 else .k (f.d.toNat % 16)
  | .imadw _ f | .lea _ f | .plane _ f => .v f.d.toNat 2
  | .shfl _ f => .v f.d.toNat (if f.sub.getLsbD 2 then 2 else 1)
  | .vbcast _ f => .v f.d.toNat (if f.sub.getLsbD 1 then 2 else 1)
  | .sadd _ f | .ssub _ f | .smul _ f | .slogic _ f | .sshl _ f | .sshr _ f | .scmp _ f | .smin _ f | .smax _ f | .smov _ f
  | .smovCat _ f => .s f.d.toNat
  | .ld _ f | .ldProbe _ f | .lds _ f => .v f.data.toNat (dataCount f.size)
  | .ldu _ f => .s f.data.toNat | .fetch _ f => .v f.data.toNat 1
  | .atom _ _ f | .atoms _ _ f | .atomCas _ f | .atomsCas _ f => .v f.data.toNat (atomCount f.size)
  | .shape _ f => .s f.s2.toNat | .batch _ f => .s f.s1.toNat | .cwait _ f => .s f.s2.toNat | .cstat _ f => .s f.s1.toNat
  | .bellWaitNb _ f => .s f.s1.toNat | .ringSend _ f => if f.sub.getLsbD 3 then .s f.s2.toNat else .none
  | .ringTake _ f => .s f.s1.toNat | .ringStat _ f => .s f.s1.toNat | .tstat _ f => .s f.s1.toNat
  | .spanapp _ f | .spanret _ f | .spanq _ f => .s f.s2.toNat | .rmap _ f => .v f.v.toNat 4
  | .launch _ f => .s f.s2.toNat | .lstat _ f => .s f.s1.toNat | .pgqry _ f => .s f.s2.toNat
  | .pgctlPin _ f | .pgctlAttract _ f => .s f.s2.toNat
  | .rdsr _ f => if f.imm < 2 then .v f.v.toNat 1 else .s f.s1.toNat
  | .commit _ f => .k (f.id.toNat % 16)
  | .accrd _ f | .accmax _ f => .v f.v.toNat 1 | .accrdStat _ f => .s f.s2.toNat
  | .finfo _ f => .s f.ssel.toNat | .fstep _ f => .s f.ssel.toNat
  | .frd _ f => if f.useV false = some true then .v f.v.toNat (if f.file = 5 && f.imm = 1 then 2 else 1) else .s f.ssel.toNat
  | i => match vregs i with | (n, 1) :: _ => if rowOf i < 0x0A then .v n 1 else .none | _ => .none

/-- The word at a virtual address of a context as the hardware reads it, for FPATCH. -/
def State.wordAt (s : State) (core ctx : Nat) (va : Word) : Option Word :=
  match (s.translate core ctx va).2 with
  | .ok l => (s.sysBytes (pkgOf core) (65536 * l.gpn + va.toNat % 65536) 8).map fun bs => BitVec.ofNat 64 (natOfBytes bs)
  | _ => none

/-- The cause record of a report. -/
def Report.record (r : Report) : CauseRec :=
  { lanes := r.lanes.map fun l => ⟨l.1, r.cause, l.2⟩, primary := r.cause.code, sub := 0, field := r.reason, imprecise := true, addr := r.addr }

/-! ## Resuming (R184, R286) -/

/-- Lanes whose cause is still set (R286). -/
def CauseRec.mask (r : CauseRec) : Mask := maskOf 1024 fun L => r.lanes.any fun l => l.lane == L

/-- The team continues behind its frozen word as FRESUME.skip does; at its frozen point after an imprecise freeze. -/
def Team.skip (t : Team) (now : Nat) : Team :=
  let t := { t with syncMark := none }
  if t.cause.imprecise then { t with run := .running, cause := {}, retry := none }
  else
    let j := t.word.getD 0
    if j < t.hdr.n.toNat then { t with word := some (j + 1), run := .running, cause := {}, retry := none }
    else t.endClause now t.nextPc

/-- FRESUME.retry and the lanes FSTEP re-executes: the frozen word in the lanes whose cause is set; with none left, as skip
(R183, R286). A fault at a header is retried at the header. -/
def Team.again (t : Team) (now : Nat) : Team :=
  if t.cause.imprecise || t.cause.atHeader then { t with run := .running, cause := {}, retry := none }
  else if t.cause.lanes.isEmpty then t.skip now
  else { t with run := .running, retry := some t.cause.mask }

/-- The virtual pages that the re-executed lanes of a frozen team name, as first and last (R286): of the word, of the lanes'
addresses, split accesses with their second page, of the ranges of a CPY, any page for the tile of a CPYT. -/
def State.named (s : State) (core : Nat) (t : Team) : List (Nat × Nat) :=
  let page (a : Word) : Nat := a.toNat / 65536 % 2 ^ 41
  let pages (a : Word) (n : Nat) : Nat × Nat := (page a, page (a + BitVec.ofNat 64 (n - 1)))
  pages t.cause.addr 8 :: t.cause.lanes.flatMap (fun l => [(page l.ea, page l.ea), (page (l.ea + 15), page (l.ea + 15))]) ++
    match (s.wordAt core t.ctx t.cause.addr).map decodeWord with
    | some (.cpy _ f) =>
      let n := ((t.rs (f.id.toNat % 64)).setWidth 32 : Lane32).toNat
      (if f.sub.toNat % 4 < 2 then [pages (t.rs f.s2.toNat) n] else []) ++ (if f.sub.toNat % 2 = 0 then [pages (t.rs f.s1.toNat) n] else [])
    | some (.cpyt _ _) => [(0, 2 ^ 41 - 1)]
    | _ => []

/-- A TLB entry of a context maps a page of some ranges. -/
def TlbEnt.meets (e : TlbEnt) (ctx : Nat) (rs : List (Nat × Nat)) : Bool :=
  let lo := e.vpage / 2 ^ e.log * 2 ^ e.log
  e.ctx == ctx && rs.any fun r => r.1 < lo + 2 ^ e.log && lo ≤ r.2

/-- Before a retry after a TRANSLATION or PERMISSION cause, the TLB of a core and the second level drop the entries of the pages that
the lanes name (R286). -/
def State.dropPagesAt (s : State) (core : Nat) (t : Team) : State :=
  let hit (c : Nat) : Bool := c == 0x10 || c == 0x11
  if hit t.cause.primary || t.cause.lanes.any (fun l => hit l.cause.code) then
    let rs := s.named core t
    (s.updCore core fun k => { k with tlb := k.tlb.filter fun e => !e.meets t.ctx rs }).updPkg (pkgOf core) fun k =>
      { k with tlb2 := k.tlb2.filter fun e => !e.meets t.ctx rs }
  else s
def State.dropPages (s : State) (tk : Nat) (t : Team) : State := s.dropPagesAt (coreOf tk) t

/-- A frozen team whose record reads none in every lane, after a step or an FWR of the resume point, issues as any word. -/
def Team.clean (t : Team) : Bool := t.cause.primary == 0 && t.cause.lanes.isEmpty && !t.cause.imprecise

/-- Before a resumed team issues, its undelivered reports are delivered, the oldest first: one aborts an open region, the next
freezes the team anew, and those behind it stay kept (R290). -/
def State.deliverKept (s : State) (tk : Nat) : Nat → State
  | 0 => s
  | n + 1 => match s.team tk with
    | none => s
    | some t => match t.reports with
      | [] => s
      | r :: rs =>
        let s := s.setTeam tk { t with reports := rs }
        if t.tryR.isSome then (s.abortTry tk 4 0).deliverKept tk n else s.freeze tk r.record

/-- FRESUME of a frozen team (R184, R286, R287); skip clears its sync mark (R374). A team that has stepped past its fault goes on where it
stands (log 92). -/
def State.resume (s : State) (tk : Nat) (skip : Bool) : State :=
  match s.team tk with
  | none => s
  | some t =>
    let s := s.delist tk
    let u :=
      if t.clean then { t with run := .running, retry := none, syncMark := if skip then none else t.syncMark }
      else if skip then t.skip s.now
      -- a header that is retried keeps its record until its clause has begun, for a core that it may come to first (R286)
      else { t.again s.now with cause := if t.cause.atHeader then t.cause else (t.again s.now).cause }
    let s := ((if skip then s else s.dropPages tk t).bump).setTeam tk { u with escalated := false, admitSeq := s.fresh, withdrawn := false }
    let s := { s with teams := s.teams.map fun (e : Nat × Team) => if e.2.h0 = Handle.frozen tk then (e.1, { e.2 with h0 := Handle.none }) else e }
    s.deliverKept tk t.reports.length

/-- Begin one step of a frozen team (R184): with every cause cleared by FPATCH.done the move past the word is the step, and a record
that names no lane counts as such a one (log 97). The record stays until the word has been performed. -/
def State.beginStep (s : State) (tk : Nat) (who : Option Nat) : State :=
  match s.team tk with
  | none => s
  | some t =>
    let t := { t with stepping := some who }
    if t.clean || t.cause.imprecise then s.setTeam tk { t with run := .running, retry := none }
    else if t.cause.lanes.isEmpty && !t.cause.atHeader then
      (s.setTeam tk { t.skip s.now with run := .frozen, stepping := some who }).settleStep tk 0
    else (s.dropPages tk t).setTeam tk { t.again s.now with stepping := some who }

/-! ## Check 6 beyond the word, and the checks in order (R47) -/

/-- Check 6 beyond the word itself: what the share, the version, the clause and the frozen team decide (R115, R141, R164, R166,
R174, R182, R183, R213). Of a frozen instruction without a destination FPATCH takes `.done` with part 0 alone (log 98). -/
def State.fieldDyn (s : State) (tk : Nat) (t : Team) (i : Instr) : Bool :=
  let sh := s.share t.share
  let stream := sh.bind (·.stream)
  let blocks := stream.elim 0 (·.blocks.length)
  let only := t.hdr.n == 0
  !(usesTs8 i && t.version == 1) && match i with
  | .elseK _ _ | .endif _ _ | .endloop _ _ => only
  | .cpy _ f | .cpyt _ f | .gath _ f | .scat _ f => !f.imm.getLsbD 4 || stream.isSome
  | .bellRing _ _ | .bellRingSet _ _ | .bellWait _ _ | .bellWaitNb _ _ => stream.isSome
  | .ringSend _ f | .ringTake _ f | .ringFree _ f | .ringFreeCap _ f | .ringStat _ f => f.id.toNat < sh.elim 0 (·.rings.length)
  | .acquire _ f | .giveback _ f => f.imm.toNat ≤ t.full
  | .accrd _ f | .accrdStat _ f | .accwr _ f | .accrs _ f | .accmax _ f => f.id.toNat < blocks
  | .frd _ f | .fwr _ f => f.file != 6 || f.imm.toNat % 32 < blocks
  | .fpatch _ f =>
    match (if f.hnd = 0 then t.h0 else .none) with
    | .frozen ft =>
      (match (s.team ft).bind fun u => (s.wordAt (coreOf tk) u.ctx u.cause.addr).map decodeWord with
        | some j =>
          (match destOf j with
            | .v _ n => f.imm.toNat % 4 < n
            | .k _ => f.imm.toNat % 4 == 0
            | .s _ => f.imm.toNat % 4 < 2
            | .none => f.imm.getLsbD 2 && f.imm.toNat % 4 == 0)
        | none => true)
    | _ => true
  | _ => true

/-- The checks of Table 02-4, in order: the first that fails. -/
def State.precheck (s : State) (tk : Nat) (t : Team) (i : Instr) (h : Hdr) : Option (Cause × Nat) :=
  let r := rowOf i
  let last := t.word.getD 0 == t.hdr.n.toNat
  match i with
  | .opcodeIllegal _ _ _ => some (.illegal, 0x04)
  | i =>
    if (r == 0x15 && t.version < 2) || (r == 0x16 && t.version < 3) then some (.illegal, 0x05)
    else if r != 0x0B && rowClass r != t.hdr.cls.toNat then some (.illegal, 0x06)
    else if r == 0x0B && !last then some (.illegal, 0x07)
    else if h.z && !last then some (.illegal, 0x08)
    else if !i.fieldOk || !s.fieldDyn tk t i then some (.illegal, 0x09)
    else if !i.pairOk then some (.illegal, 0x0A)
    else if (vregs i).any fun q => q.2 != 0 && t.allot < q.1 + q.2 then some (.illegal, 0x0B)
    else match i with
      | .rdsr _ f => if !selKnown t.version f.imm.toNat then some (.illegal, 0x0C)
                     else if roleRow t.role r then none else some (.role, 0)
      | .wrsr _ f => if !selKnown t.version f.imm.toNat then some (.illegal, 0x0C)
                     else if f.imm != 0x10 && f.imm != 0x13 then some (.illegal, 0x16)
                     else if roleRow t.role r then none else some (.role, 0)
      | _ => if roleRow t.role r then none else some (.role, 0)

/-- While the waiting list is full, no word of rows 0x0C to 0x12 and 0x16 issues from a non-reeve team (R288); one that has issued
goes on. -/
def State.listBlocks (s : State) (tk : Nat) (t : Team) (i : Instr) : Bool :=
  let r := rowOf i
  !t.isReeve && t.latch.isNone && ((0x0C ≤ r && r ≤ 0x12) || r == 0x16) && 64 ≤ (s.core (coreOf tk)).waiting.length

/-- Events of Table 06-10 that the opcode row alone decides inside an open region (R170): ATOMIC, NEST, SYNC. -/
def tryEvent (i : Instr) : Option Nat :=
  let r := rowOf i
  match i with
  | .tryK _ _ | .exitK _ _ => some 8
  | .rdsr _ _ => none
  | .atomCas _ _ | .atomsCas _ _ => some 6
  | .fence _ _ | .cctlWb _ _ | .cctlInv _ _ | .cctlDiscard _ _ => some 9
  | .trap _ _ => none
  | _ => if r = 0x10 ∨ r = 0x11 then some 6 else if (0x12 ≤ r ∧ r ≤ 0x14) ∨ r = 0x16 ∨ r = 0x18 then some 9 else none

/-- A word that acts in each Active lane: with none it does nothing (R46). -/
def actsPerLane (i : Instr) : Bool :=
  let r := rowOf i
  r == 0x0D || r == 0x10 || r == 0x11 || match i with | .gath _ _ | .scat _ _ | .exitK _ _ | .spantag _ _ | .rmap _ _ => true | _ => false

/-- The word does something: it is not guarded off (R46). -/
def Team.doesAct (t : Team) (i : Instr) (h : Hdr) : Bool := if actsPerLane i then !(t.act h).isEmpty else t.executes h

/-- A stepped word that would park is not performed: the state stands as before it, but for the arrival of a BAR.SYNC (R184). -/
def Act.unstep (a : Act) (s : State) (t : Team) : Act :=
  match a with
  | .park _ c => if t.stepping.isSome && c.isPark && !(match c with | .barrier _ _ _ => true | _ => false) then .park s c else a
  | a => a

/-- Issue a team's word: the team, the checks before issue, then the instruction's own effect and what follows it. Inside an open
region the events of Table 06-10 come before the word's own checks (log 76). -/
def issue (i : Instr) (h : Hdr) (body : State → Nat → Team → Act) (s : State) : Outcome State Fault Refusal :=
  match s.team s.cur with
  | none => .fault .noTeam
  | some t =>
    match s.precheck s.cur t i h with
    | some (c, sub) => .next (s.freezeTeam s.cur t h c sub)
    | none =>
      if s.listBlocks s.cur t i then .next ((Act.park s .listRoom).finish s.cur h.z)
      else match t.tryR.isSome && t.doesAct i h, tryEvent i with
        | true, some code => .next (s.abortTry s.cur code 0)
        | _, _ => .next (((body s s.cur t).unstep s t).finish s.cur h.z)

/-- A vector instruction of short latency: the writes of each Active lane (R92). -/
def vec (h : Hdr) (lat : Nat) (f : Team → Mask → Nat → List (RegId × Word)) (s : State) (tk : Nat) (t : Team) : Act :=
  let m := t.lanesFor h
  .retire (s.setTeam tk (t.write lat ((lanesOf t.lanes m).flatMap fun L => (f t m L).map fun w => (w.1, L, w.2))))

/-- A vector instruction of long latency whose result is known when it issues (R52, R54). -/
def vecLong (h : Hdr) (f : Team → Mask → Nat → List (RegId × Word)) (s : State) (tk : Nat) (t : Team) : Act :=
  let m := t.lanesFor h
  .retire (s.setTeam tk (t.writeLong ((lanesOf t.lanes m).flatMap fun L => (f t m L).map fun w => Part.ofVal w.1 L w.2)))

/-- An instruction that acts once for the team under R46. -/
def once (h : Hdr) (f : State → Nat → Team → Act) (s : State) (tk : Nat) (t : Team) : Act :=
  if t.executes h then f s tk t else .retire s

/-- A pair's two writes. -/
def pairWrites (n : Nat) (x : Word) : List (RegId × Word) := [(.v n, x.extractLsb' 0 32 |>.setWidth 64), (.v (n + 1), x.extractLsb' 32 32 |>.setWidth 64)]

end Sys2Proof.Machine
end

