-- ==== Sys2Proof/Machine/Flags.lean ====
section
/-! DEFINITION. Conditions, carries and combines: every flag and predicate computation of the vector and uniform
instructions (R95, R98, R101, R113). -/

namespace Sys2Proof.Machine

/-- cond of ICMP and SCMP, 0 EQ to 5 GE (R98). -/
def condHolds (c : Nat) (a b : Int) : Bool :=
  match c with | 0 => a == b | 1 => a != b | 2 => a < b | 3 => a ≤ b | 4 => b < a | _ => b ≤ a

/-- The combination of a condition with a predicate (R98). -/
def combine (k : Nat) (c p : Bool) : Bool :=
  match k with | 0 => c | 1 => c && p | 2 => c || p | _ => c != p

/-- A 32-bit operand as an integer, unsigned or signed (R95). -/
def asInt (u : Bool) (x : Lane32) : Int := if u then (x.toNat : Int) else x.toInt

/-- Clamp an exact sum or difference when SAT is 1, else keep it modulo 2^32 (R95). -/
def satOrWrap (sat u : Bool) (x : Int) : Lane32 :=
  if sat then (if u then .ofInt 32 (clampInt 0 (2 ^ 32 - 1) x) else .ofInt 32 (clampInt (-(2 ^ 31)) (2 ^ 31 - 1) x))
  else .ofInt 32 x

/-- Sum with carry in and its carry out (R95). -/
def addCarry (a b : Lane32) (k : Bool) : Lane32 × Bool :=
  let x := a.toNat + b.toNat + k.toNat
  (.ofNat 32 x, 2 ^ 32 ≤ x)

/-- Difference with borrow in and its borrow out (R95). -/
def subBorrow (a b : Lane32) (k : Bool) : Lane32 × Bool :=
  let x : Int := (a.toNat : Int) - b.toNat - k.toNat
  (.ofInt 32 x, x < 0)

/-- A predicate as the value written to it. -/
def bit (b : Bool) : Word := if b then 1 else 0

end Sys2Proof.Machine
end

