-- ==== Sys2Proof/Machine/Operands.lean ====
section
/-! DEFINITION. Operand forms: A, B and C of the vector formats (R92), the second operand of the uniform row (R113), the
addresses of M words (R122), and the fields of M, S and F words as numbers. -/

namespace Sys2Proof.Machine

/-- a of lane L (R92). -/
def opA (t : Team) (f : VA) (L : Nat) : Lane32 := t.rv f.a.toNat L
/-- b of lane L: V[B], or S[B][31:0] with FL[0] (R92). -/
def opB (t : Team) (f : VA) (L : Nat) : Lane32 := if f.fl.getLsbD 0 then (t.rs f.b.toNat).setWidth 32 else t.rv f.b.toNat L
/-- c of lane L: V[C], or S[C][31:0] with FL[1] (R92). -/
def opC (t : Team) (f : VA) (L : Nat) : Lane32 := if f.fl.getLsbD 1 then (t.rs f.c.toNat).setWidth 32 else t.rv f.c.toNat L
/-- Pair operands read all 64 bits (R92). -/
def opAd (t : Team) (f : VA) (L : Nat) : Word := t.rvd f.a.toNat L
def opBd (t : Team) (f : VA) (L : Nat) : Word := if f.fl.getLsbD 0 then t.rs f.b.toNat else t.rvd f.b.toNat L
def opCd (t : Team) (f : VA) (L : Nat) : Word := if f.fl.getLsbD 1 then t.rs f.c.toNat else t.rvd f.c.toNat L
/-- A field that names a predicate uses its low 4 bits (R48). -/
def predOf (x : BitVec 8) : Nat := x.toNat % 16
/-- a of a VI word (R96). -/
def opVI (t : Team) (f : VI) (L : Nat) : Lane32 := if f.asS then (t.rs (f.a.toNat % 64)).setWidth 32 else t.rv f.a.toNat L
/-- y of a uniform word: S[B], or Sext(IMM24, 24) (R113). -/
def opY (t : Team) (f : UF) : Word := if f.i then f.imm.signExtend 64 else t.rs f.b.toNat

/-- EAglobal of lane L (R122). -/
def eaGlobal (t : Team) (f : MF) (L : Nat) : Word := t.rvd f.addr.toNat L + t.rs f.sb.toNat + f.off.signExtend 64
/-- EAscratch of lane L (R122). -/
def eaScratch (t : Team) (f : MF) (L : Nat) : Lane32 :=
  t.rv f.addr.toNat L + (t.rs f.sb.toNat).setWidth 32 + f.off.signExtend 32
/-- EAuniform (R122). -/
def eaUniform (t : Team) (f : MF) : Word := t.rs f.sb.toNat + f.off.signExtend 64

/-- Bytes of an access by SIZE (R49). -/
def sizeBytes (size : BitVec 3) : Nat := 2 ^ size.toNat
/-- Target of a control word: PC + 8 × Sext(OFF, 32) (R115). -/
def target (t : Team) (f : BF) : Word := t.pc + f.off.signExtend 64 * 8
/-- The data register of LDU and STU: bits [46:41] (R128). -/
def sData (f : MF) : Nat := f.data.toNat % 64

/-- The low 8n bits of the data registers of a lane, as bytes (R127). -/
def dataBytes (t : Team) (n base L : Nat) : List Byte :=
  (bytesOf (max n 4) ((List.range 4).foldl (fun a i => if 4 * i < n then a + (t.rv (base + i) L).toNat * 2 ^ (32 * i) else a) 0)).take n

/-- What a step answers. -/
abbrev Res := Host.Outcome State Fault Refusal

/-- One 32-bit result to vD. -/
def toV (d : BitVec 8) (x : Lane32) : List (RegId × Word) := [(.v d.toNat, x.setWidth 64)]
/-- One predicate result to k of a field. -/
def toK (n : Nat) (b : Bool) : List (RegId × Word) := [(.k n, bit b)]
/-- A pair result to vD.d. -/
def toVd (d : BitVec 8) (x : Word) : List (RegId × Word) := pairWrites d.toNat x
/-- A uniform result to sN with a short latency, acting once for the team. -/
def toS (h : Hdr) (lat n : Nat) (f : Team → Word) : State → Nat → Team → Act :=
  once h fun s tk t => .retire (s.setTeam tk (t.write lat [(.s n, 0, f t)]))
/-- A uniform result of long latency. -/
def Team.longS (t : Team) (n : Nat) (x : Word) : Team := t.writeLong [Part.ofVal (.s n) 0 x]

end Sys2Proof.Machine
end

