-- ==== Sys2Proof/Machine/Real.lean ====
section
/-! DEFINITION. The real functions of row 0x05 (R103) and of the accumulator read path (R91), by exact integer arithmetic:
square roots and quotients with a sticky bit are rounded exactly; E2's table is computed from integer roots of powers of
two; log2, sin and cos are computed to more than 150 bits below the value before the one rounding (log 11). -/

namespace Sys2Proof.Machine

/-- Newton's iteration for ⌊√n⌋ from above; stops where it no longer decreases. -/
def isqrtIter (n : Nat) : Nat → Nat → Nat
  | 0, x => x
  | k + 1, x =>
    let y := (x + n / x) / 2
    if y < x then isqrtIter n k y else x

/-- ⌊√n⌋. -/
def isqrt (n : Nat) : Nat := if n = 0 then 0 else isqrtIter n (bitLen n) (2 ^ ((bitLen n + 1) / 2))

/-- √x for a non-negative finite value with an even exponent choice (R103). -/
def realSqrt (m : Nat) (e : Int) : XVal :=
  let k : Nat := if (e - 160) % 2 = 0 then 160 else 161
  let a := m * 2 ^ k
  let r := isqrt a
  sticky false r ((e - k) / 2) (r * r == a)

/-- 1 / √x for a positive finite value: √(2^(2j) / m) with j large, an odd exponent moved into m (R103). -/
def realRsqrt (m : Nat) (e : Int) : XVal :=
  let (m, e) := if e % 2 = 0 then (m, e) else (2 * m, e - 1)
  let j := 120 + bitLen m
  let q := 2 ^ (2 * j) / m
  let r := isqrt q
  sticky false r (-j - e / 2) (m * r * r == 2 ^ (2 * j))

/-- Bits of log2 of y / 2^P, y in [2^P, 2^(P+1)), most significant first, accumulated onto `acc`. -/
def log2Bits (P : Nat) : Nat → Nat → Nat → Nat
  | 0, _, acc => acc
  | k + 1, y, acc =>
    let z := y * y / 2 ^ P
    if 2 ^ (P + 1) ≤ z then log2Bits P k (z / 2) (2 * acc + 1) else log2Bits P k z (2 * acc)

/-- log2 of a positive finite value; exact for a power of two (R103). -/
def realLog2 (m : Nat) (e : Int) : XVal :=
  let b := bitLen m
  let ip : Int := e + b - 1
  if m = 2 ^ (b - 1) then XVal.ofInt ip
  else
    let frac := log2Bits 320 240 (m * 2 ^ 320 / 2 ^ (b - 1)) 0
    let v : Int := ip * 2 ^ 240 + frac
    .fin (v < 0) (2 * v + 1).natAbs (-241)

/-- ⌊π × 2^416⌋. -/
def piFix : Nat := 0x3243f6a8885a308d313198a2e03707344a4093822299f31d0082efa98ec4e6c89452821e638d01377be5466cf34e90c6cc0ac29b7

/-- sin x and cos x of x / 2^P by their series: term after term, x² / 2^P given, n the next factorial's factor. -/
def sinCosSeries (P x2 : Nat) : Nat → Nat → Int → Int → Int
  | 0, _, _, acc => acc
  | k + 1, n, t, acc =>
    let t' := -(t * x2 / 2 ^ P) / (n * (n + 1) : Nat)
    sinCosSeries P x2 k (n + 2) t' (acc + t')

/-- sin(2π a) for 0 ≤ a ≤ 1/8, a = m × 2^e, as a fixed-point number of 416 bits. -/
def sinTurn (m : Nat) (e : Int) : Nat :=
  let x := if 0 ≤ e then 0 else m * 2 * piFix / 2 ^ (-e).toNat
  (sinCosSeries 416 (x * x / 2 ^ 416) 48 2 x x).toNat

/-- cos(2π a) for 0 ≤ a ≤ 1/8. -/
def cosTurn (m : Nat) (e : Int) : Nat :=
  let x := if 0 ≤ e then 0 else m * 2 * piFix / 2 ^ (-e).toNat
  (sinCosSeries 416 (x * x / 2 ^ 416) 48 1 (2 ^ 416) (2 ^ 416)).toNat

/-- sin(2π t) for a turn fraction t = n / 2^d, 0 ≤ n < 2^d: sign and magnitude, by the octant of t. Multiples of a quarter
turn are exact. -/
def sinFrac (n d : Nat) : XVal :=
  let oct := 8 * n / 2 ^ d
  let r := 8 * n % 2 ^ d
  let e : Int := -(d : Int) - 3
  let neg := decide (4 ≤ oct)
  if r = 0 ∧ oct % 2 = 0 then (if oct % 4 = 0 then .fin false 0 0 else .fin neg 1 0)
  else
    let c := 2 ^ d - r
    match oct % 4 with
    | 0 => .fin neg (2 * sinTurn r e + 1) (-417)
    | 1 => .fin neg (2 * cosTurn c e + 1) (-417)
    | 2 => .fin neg (2 * cosTurn r e + 1) (-417)
    | _ => .fin neg (2 * sinTurn c e + 1) (-417)

/-- sin (quarter = 0) or cos (quarter = 1) of 2π a for a finite a (R103): the fraction of a turn is exact. -/
def realSinCos (quarter : Nat) (neg : Bool) (m : Nat) (e : Int) : XVal :=
  let d := max 2 (-e).toNat
  let n := if 0 ≤ e then 0 else m * 2 ^ (d - (-e).toNat) % 2 ^ d
  let n := if neg then (2 ^ d - n) % 2 ^ d else n
  sinFrac ((n + quarter * 2 ^ (d - 2)) % 2 ^ d) d

/-! ## E2 (R91) -/

/-- ⌊2^(i/64) × 2^96⌋: six integer square roots. -/
def exp2Root (i : Nat) : Nat :=
  isqrt (isqrt (isqrt (isqrt (isqrt (isqrt (2 ^ (i + 64 * 96)))))))

/-- c0[i] (R91). -/
def e2c0 (i : Nat) : XVal :=
  decodeNum .fp32 (round .fp32 .rne false false (sticky false (exp2Root i) (-96) (i == 0))).enc.toNat
/-- c1[i] (R91). -/
def e2c1 (i : Nat) : XVal :=
  decodeNum .fp32 (round .fp32 .rne false false (sticky false (exp2Root (i + 1) - exp2Root i) (-96) false)).enc.toNat

/-- E2(x, dest) (R91). -/
def e2 (x : XVal) (dest : Fmt) : Rounded :=
  let big : Rounded := { enc := .ofNat 32 (if dest = .ts8 then 0x00 else maxEnc dest), saturated := true }
  match x with
  | .nan _ => round dest .rne true false (.nan false)
  | .inf true => { enc := if dest = .ts8 then 0x77 else 0 }
  | .inf false => big
  | .fin neg m e =>
    let lt := xvalCompare (.fin neg m e) (.fin true 126 0) == .lt
    if lt then { enc := if dest = .ts8 then 0x77 else 0 }
    else if xvalCompare (.fin neg m e) (.fin false 127 0) == .gt then big
    else
      -- fixed point with d fraction bits holds x exactly
      let d := (-e).toNat
      let v : Int := finAt neg m e (if e < 0 then e else 0)
      let xi : Int := v / (2 ^ d : Nat)
      let f := (v % (2 ^ d : Nat)).toNat
      let seg := 64 * f / 2 ^ d
      let t := 64 * f % 2 ^ d
      let y := (round .fp32 .rne false false (((e2c1 seg).mul (.fin false t (-(d : Int)))).add .rne (e2c0 seg))).enc
      round dest .rne true false ((decodeNum .fp32 y.toNat).scale xi)

end Sys2Proof.Machine
end

