-- ==== Sys2Proof/Machine/Float.lean ====
section
/-! DEFINITION. The float rows 0x04 to 0x06 (R100 to R103) and the conversion row 0x07 (R104 to R107). -/

namespace Sys2Proof.Machine

/-- RM of a word (R49). -/
def rmOf : BitVec 2 → Rnd | 0 => .rne | 1 => .rz | 2 => .ru | _ => .rd

/-- An FP32 operand as read, sign flipped when n is set (R75, R100). -/
def opF (t : Team) (n : Bool) (x : Lane32) : XVal := readF32 t.ftz (negF32 n x)

/-- Round to FP32 under the word's RM and SAT and the team's FTZ (R78). -/
def toF32 (t : Team) (f : VA) (x : XVal) : Lane32 := (round .fp32 (rmOf f.rm) f.sat t.ftz x).enc

/-- ± a + ± c, exact (R76, R100). -/
def faddVal (t : Team) (f : VA) (L : Nat) : XVal :=
  (opF t (f.fl.getLsbD 2) (opA t f L)).add (rmOf f.rm) (opF t (f.fl.getLsbD 3) (opC t f L))
def fmulVal (t : Team) (f : VA) (L : Nat) : XVal := (opF t (f.fl.getLsbD 2) (opA t f L)).mul (opF t false (opB t f L))
def ffmaVal (t : Team) (f : VA) (L : Nat) : XVal :=
  (fmulVal t f L).add (rmOf f.rm) (opF t (f.fl.getLsbD 3) (opC t f L))

/-- FMIN and FMAX: an operand as read, negated first (R100, R101). -/
def fminmaxVal (isMax : Bool) (t : Team) (f : VA) (L : Nat) : Lane32 :=
  fminmax isMax t.ftz (negF32 (f.fl.getLsbD 2) (opA t f L)) (opB t f L)

/-- The value of half i of a packed register, negated when n is set (R102). -/
def halfVal (f : VA) (n : Bool) (i : Nat) (x : Lane32) : XVal :=
  let v := decodeNum ((fmtOf f.t.toNat).getD .bf16) (x.toNat / 2 ^ (16 * i) % 65536)
  if n then v.neg else v

/-- Round both halves to T; FTZ does not affect them (R102). -/
def packHalves (f : VA) (g : Nat → XVal) : Lane32 :=
  let r (i : Nat) : BitVec 16 := (round ((fmtOf f.t.toNat).getD .bf16) (rmOf f.rm) f.sat false (g i)).enc.setWidth 16
  r 1 ++ r 0

def haddHalf (t : Team) (f : VA) (L i : Nat) : XVal :=
  (halfVal f (f.fl.getLsbD 2) i (opA t f L)).add (rmOf f.rm) (halfVal f (f.fl.getLsbD 3) i (opC t f L))
def hmulHalf (t : Team) (f : VA) (L i : Nat) : XVal :=
  (halfVal f (f.fl.getLsbD 2) i (opA t f L)).mul (halfVal f false i (opB t f L))
def hfmaHalf (t : Team) (f : VA) (L i : Nat) : XVal :=
  (hmulHalf t f L i).add (rmOf f.rm) (halfVal f (f.fl.getLsbD 3) i (opC t f L))

/-- FDOT2: a0 × b0 + a1 × b1 ± c in one rounding to FP32; FL[2] negates a (R100, R102). The product of a zero and a sum of
zeros keep the signs of R76. -/
def fdot2Val (t : Team) (f : VA) (L : Nat) : XVal :=
  ((hmulHalf t f L 0).add (rmOf f.rm) (hmulHalf t f L 1)).add (rmOf f.rm) (opF t (f.fl.getLsbD 3) (opC t f L))

/-- A unary function of a (R103): special values, else the exact real. -/
def unary (t : Team) (f : VA) (L : Nat) (g : XVal → XVal) : XVal := g (opF t (f.fl.getLsbD 2) (opA t f L))

def frcpVal : XVal → XVal
  | .nan m => .nan m
  | .inf s => .fin s 0 0
  | .fin s m e => if m = 0 then .inf s else (XVal.fin false 1 0).div (.fin s m e)
def frsqVal : XVal → XVal
  | .nan m => .nan m
  | .inf s => if s then .nan true else .fin false 0 0
  | .fin s m e => if m = 0 then .inf s else if s then .nan true else realRsqrt m e
def fsqrtVal : XVal → XVal
  | .nan m => .nan m
  | .inf s => if s then .nan true else .inf false
  | .fin s m e => if m = 0 then .fin s 0 0 else if s then .nan true else realSqrt m e
def flog2Val : XVal → XVal
  | .nan m => .nan m
  | .inf s => if s then .nan true else .inf false
  | .fin s m e => if m = 0 then .inf true else if s then .nan true else realLog2 m e
def fsinVal : XVal → XVal
  | .nan m => .nan m
  | .inf _ => .nan true
  | .fin s m e => if m = 0 then .fin s 0 0 else realSinCos 0 s m e
def fcosVal : XVal → XVal
  | .nan m => .nan m
  | .inf _ => .nan true
  | .fin s m e => if m = 0 then .fin false 1 0 else realSinCos 1 s m e

/-- FEXP2's result under FTZ (R91, R103); E2 gives no subnormal in FP32. -/
def fexp2Enc (t : Team) (x : XVal) : Lane32 := flushF32 t.ftz (e2 x .fp32).enc

def execFadd (h : Hdr) (f : VA) (s : State) : Res :=
  issue (.fadd h f) h (vec h 4 fun t _ L => toV f.d (toF32 t f (faddVal t f L))) s
def execFmul (h : Hdr) (f : VA) (s : State) : Res :=
  issue (.fmul h f) h (vec h 4 fun t _ L => toV f.d (toF32 t f (fmulVal t f L))) s
def execFfma (h : Hdr) (f : VA) (s : State) : Res :=
  issue (.ffma h f) h (vec h 4 fun t _ L => toV f.d (toF32 t f (ffmaVal t f L))) s
def execFmin (h : Hdr) (f : VA) (s : State) : Res :=
  issue (.fmin h f) h (vec h 4 fun t _ L => toV f.d (fminmaxVal false t f L)) s
def execFmax (h : Hdr) (f : VA) (s : State) : Res :=
  issue (.fmax h f) h (vec h 4 fun t _ L => toV f.d (fminmaxVal true t f L)) s
def execFcmp (h : Hdr) (f : VA) (s : State) : Res :=
  issue (.fcmp h f) h (vec h 4 fun t _ L =>
    toK (predOf f.d) (combine (f.sub.toNat / 16)
      (fcmpCond f.sub3 (opF t (f.fl.getLsbD 2) (opA t f L)) (opF t false (opB t f L))) (t.rk (predOf f.c) L))) s
def execFclass (h : Hdr) (f : VA) (s : State) : Res :=
  issue (.fclass h f) h (vec h 4 fun t _ L =>
    let fm := (fmtOf f.t.toNat).getD .fp32
    toV f.d (.ofNat 32 (fclassMask fm ((opA t f L).toNat % 2 ^ fmtBits fm)))) s
def execFscale (h : Hdr) (f : VA) (s : State) : Res :=
  issue (.fscale h f) h (vec h 4 fun t _ L =>
    toV f.d (toF32 t f ((opF t (f.fl.getLsbD 2) (opA t f L)).scale (opB t f L).toInt))) s
def execFdot2 (h : Hdr) (f : VA) (s : State) : Res :=
  issue (.fdot2 h f) h (vec h 4 fun t _ L => toV f.d (toF32 t f (fdot2Val t f L))) s
def execHadd2 (h : Hdr) (f : VA) (s : State) : Res :=
  issue (.hadd2 h f) h (vec h 4 fun t _ L => toV f.d (packHalves f (haddHalf t f L))) s
def execHmul2 (h : Hdr) (f : VA) (s : State) : Res :=
  issue (.hmul2 h f) h (vec h 4 fun t _ L => toV f.d (packHalves f (hmulHalf t f L))) s
def execHfma2 (h : Hdr) (f : VA) (s : State) : Res :=
  issue (.hfma2 h f) h (vec h 4 fun t _ L => toV f.d (packHalves f (hfmaHalf t f L))) s

/-! ## Row 0x05, long-latency (Table 02-6) -/

def execFrcp (h : Hdr) (f : VA) (s : State) : Res :=
  issue (.frcp h f) h (vecLong h fun t _ L => toV f.d (toF32 t f (unary t f L frcpVal))) s
def execFrsq (h : Hdr) (f : VA) (s : State) : Res :=
  issue (.frsq h f) h (vecLong h fun t _ L => toV f.d (toF32 t f (unary t f L frsqVal))) s
def execFsqrt (h : Hdr) (f : VA) (s : State) : Res :=
  issue (.fsqrt h f) h (vecLong h fun t _ L => toV f.d (toF32 t f (unary t f L fsqrtVal))) s
def execFexp2 (h : Hdr) (f : VA) (s : State) : Res :=
  issue (.fexp2 h f) h (vecLong h fun t _ L => toV f.d (fexp2Enc t (unary t f L id))) s
def execFlog2 (h : Hdr) (f : VA) (s : State) : Res :=
  issue (.flog2 h f) h (vecLong h fun t _ L => toV f.d (toF32 t f (unary t f L flog2Val))) s
def execFsin (h : Hdr) (f : VA) (s : State) : Res :=
  issue (.fsin h f) h (vecLong h fun t _ L => toV f.d (toF32 t f (unary t f L fsinVal))) s
def execFcos (h : Hdr) (f : VA) (s : State) : Res :=
  issue (.fcos h f) h (vecLong h fun t _ L => toV f.d (toF32 t f (unary t f L fcosVal))) s

/-! ## Row 0x06: the immediate is FP32, RNE, no saturation -/

def execFaddImm (h : Hdr) (f : VI) (s : State) : Res :=
  issue (.faddImm h f) h (vec h 4 fun t _ L =>
    toV f.d (round .fp32 .rne false t.ftz ((opF t false (opVI t f L)).add .rne (opF t false f.imm))).enc) s
def execFmulImm (h : Hdr) (f : VI) (s : State) : Res :=
  issue (.fmulImm h f) h (vec h 4 fun t _ L =>
    toV f.d (round .fp32 .rne false t.ftz ((opF t false (opVI t f L)).mul (opF t false f.imm))).enc) s
def execFminImm (h : Hdr) (f : VI) (s : State) : Res :=
  issue (.fminImm h f) h (vec h 4 fun t _ L => toV f.d (fminmax false t.ftz (opVI t f L) f.imm)) s
def execFmaxImm (h : Hdr) (f : VI) (s : State) : Res :=
  issue (.fmaxImm h f) h (vec h 4 fun t _ L => toV f.d (fminmax true t.ftz (opVI t f L) f.imm)) s

/-! ## Row 0x07 -/

/-- PACK4.PACK: nibbles of bytes of a and b, clamped to −8 to 7 with SAT (R105). -/
def pack4 (sat : Bool) (a b : Lane32) : Lane32 :=
  let nib (x : Lane32) (i : Nat) : Nat :=
    let v := sext (x.toNat / 2 ^ (8 * i)) 8
    wrap (if sat then clampInt (-8) 7 v else v) 4
  .ofNat 32 ((List.range 8).foldl (fun acc i => acc + nib (if i < 4 then a else b) (i % 4) * 2 ^ (4 * i)) 0)
/-- PACK4.UNLO and UNHI: four nibbles from nibble k on, sign-extended to bytes (R105). -/
def unpack4 (k : Nat) (a : Lane32) : Lane32 :=
  .ofNat 32 ((List.range 4).foldl (fun acc i => acc + wrap (sext (a.toNat / 2 ^ (4 * (i + k))) 4) 8 * 2 ^ (8 * i)) 0)

/-- BLKSCALE.SCALE: the smallest power of two p with p × max at or above m, clamped, as BF16 (R106). -/
def blkScale (f : Fmt) (m : XVal) : Lane32 :=
  let mx : Nat := match f with | .e4m3 => 448 | .e5m2 => 57344 | _ => 2
  match m with
  | .nan _ | .inf _ => 0x7FC0
  | .fin _ 0 _ => 0x3F80
  | .fin _ (n + 1) e =>
    -- exponents −126 to 127 in order; 127 when none reaches
    let ok (i : Nat) : Bool := xvalCompare (.fin false (n + 1) e) (.fin false mx ((i : Int) - 126)) != .gt
    let i := ((List.range 254).find? ok).getD 253
    .ofNat 32 ((i + 1) * 128)

/-- PLANE: bit l of the plane word is element l's, bit 32 + l element 32 + l's; lanes outside Active give 0 (R107). -/
def planeWord (fm : Fmt) (p : Nat) (t : Team) (f : VA) (m : Mask) (g : Nat) : Nat :=
  (List.range 64).foldl (fun acc e =>
    let L := 32 * g + e % 32
    if m.getLsbD L && planeBit fm p ((opA t f L).toNat / 2 ^ (16 * (e / 32)) % 65536) then acc + 2 ^ e else acc) 0

/-- UNPLANE: c with the encoding bit of plane p of each half replaced (R107). -/
def unplane32 (fm : Fmt) (p : Nat) (w : Word) (l : Nat) (c : Lane32) : Lane32 :=
  match planePos fm p with
  | none => c
  | some k =>
    let put1 (c : Lane32) (pos : Nat) (b : Bool) : Lane32 :=
      if b then c ||| .ofNat 32 (2 ^ pos) else c &&& ~~~(.ofNat 32 (2 ^ pos))
    put1 (put1 c k (w.getLsbD l)) (16 + k) (w.getLsbD (32 + l))

def execCvt (h : Hdr) (f : VA) (s : State) : Res :=
  issue (.cvt h f) h (vec h 4 fun t _ L =>
    toV f.d (convert ((fmtOf (f.sub.toNat % 16)).getD .fp32) ((fmtOf f.t.toNat).getD .fp32) (rmOf f.rm) f.sat t.ftz (opA t f L)).enc) s
def execPack4Pack (h : Hdr) (f : VA) (s : State) : Res :=
  issue (.pack4Pack h f) h (vec h 4 fun t _ L => toV f.d (pack4 f.sat (opA t f L) (opB t f L))) s
def execPack4Unlo (h : Hdr) (f : VA) (s : State) : Res :=
  issue (.pack4Unlo h f) h (vec h 4 fun t _ L => toV f.d (unpack4 0 (opA t f L))) s
def execPack4Unhi (h : Hdr) (f : VA) (s : State) : Res :=
  issue (.pack4Unhi h f) h (vec h 4 fun t _ L => toV f.d (unpack4 4 (opA t f L))) s
def execPlane (h : Hdr) (f : VA) (s : State) : Res :=
  issue (.plane h f) h (vecLong h fun t m L =>
    toVd f.d (.ofNat 64 (planeWord ((fmtOf f.t.toNat).getD .int8) f.sub.toNat t f m (L / 32)))) s
def execUnplane (h : Hdr) (f : VA) (s : State) : Res :=
  issue (.unplane h f) h (vecLong h fun t _ L =>
    toV f.d (unplane32 ((fmtOf f.t.toNat).getD .int8) f.sub.toNat (opAd t f L) (L % 32) (opC t f L))) s
def execBlkscaleScale (h : Hdr) (f : VA) (s : State) : Res :=
  issue (.blkscaleScale h f) h (vec h 4 fun t _ L =>
    toV f.d (blkScale ((fmtOf f.t.toNat).getD .e4m3) (opF t false (opA t f L &&& 0x7FFFFFFF)))) s
def execBlkscaleApply (h : Hdr) (f : VA) (s : State) : Res :=
  issue (.blkscaleApply h f) h (vec h 4 fun t _ L =>
    let fm := (fmtOf f.t.toNat).getD .e4m3
    toV f.d ((round fm (rmOf f.rm) f.sat false
      ((opF t false (opA t f L)).div (decodeNum .bf16 ((opB t f L).toNat % 65536)))).enc &&& (.ofNat 32 (2 ^ fmtBits fm - 1)))) s

end Sys2Proof.Machine
end

