-- ==== Sys2Proof/Machine/Int.lean ====
section
/-! DEFINITION. The integer rows 0x00 to 0x02 (R95 to R99). -/

namespace Sys2Proof.Machine

/-- Shifts by a 32-bit unsigned amount (R95). -/
def shl32 (a : Lane32) (n : Nat) : Lane32 := if 32 ≤ n then 0 else a <<< n
def shr32 (a : Lane32) (n : Nat) : Lane32 := if 32 ≤ n then 0 else a >>> n
def sar32 (a : Lane32) (n : Nat) : Lane32 := a.sshiftRight (min n 31)
def rotl32 (a : Lane32) (n : Nat) : Lane32 := a.rotateLeft (n % 32)
/-- Bits [63:32] of ((a × 2^32 + b) << (c mod 64)) (R95). -/
def fshl32 (a b c : Lane32) : Lane32 := ((a ++ b : Word) <<< (c.toNat % 64)).extractLsb' 32 32
/-- Bits [63:32] of the product (R95). -/
def mulHi (u : Bool) (a b : Lane32) : Lane32 := .ofInt 32 (asInt u a * asInt u b / 2 ^ 32)
/-- The smaller or larger of two operands (R95). -/
def minMax (isMax u : Bool) (a b : Lane32) : Lane32 :=
  if (if isMax then asInt u a < asInt u b else asInt u b < asInt u a) then b else a
/-- Position and length of BFX and BFI (R99). -/
def fieldPos (b : Lane32) : Nat × Nat :=
  let p := min (b.toNat % 256) 32
  (p, min (b.toNat / 256 % 256) (32 - p))
def bfx32 (u : Bool) (a b : Lane32) : Lane32 :=
  let (p, n) := fieldPos b
  let x := a.toNat / 2 ^ p % 2 ^ n
  if n = 0 then 0 else if u then .ofNat 32 x else .ofInt 32 (sext x n)
def bfi32 (a b c : Lane32) : Lane32 :=
  let (p, n) := fieldPos b
  let m : Lane32 := .ofNat 32 ((2 ^ n - 1) * 2 ^ p)
  (c &&& ~~~m) ||| (.ofNat 32 (a.toNat * 2 ^ p) &&& m)
/-- LOGIC: bit i is TT[4 a_i + 2 b_i + c_i] (R97). -/
def logic32 (tt : BitVec 8) (a b c : Lane32) : Lane32 :=
  let on (i : Nat) (x : Lane32) (v : Bool) : Bool := x.getLsbD i == v
  .ofNat 32 ((List.range 32).foldl (fun acc i =>
    if (List.range 8).any fun j =>
      tt.getLsbD j && on i a (j.testBit 2) && on i b (j.testBit 1) && on i c (j.testBit 0)
    then acc + 2 ^ i else acc) 0)
/-- LOGIC's truth table: RM[0], SAT, SUB (R51). -/
def ttOf (f : VA) : BitVec 8 := BitVec.ofBool (f.rm.getLsbD 0) ++ BitVec.ofBool f.sat ++ f.sub
def popc32 (a : Lane32) : Lane32 := .ofNat 32 ((List.range 32).filter fun i => a.getLsbD i).length
def clz32 (a : Lane32) : Lane32 := .ofNat 32 (32 - bitLen a.toNat)
def ffs32 (a : Lane32) : Lane32 := ((List.range 32).find? fun i => a.getLsbD i).elim 0xFFFFFFFF (BitVec.ofNat 32)
def negIf (n : Bool) (x : Lane32) : Lane32 := if n then -x else x
/-- IABS with its one saturating case (R95). -/
def iabs32 (sat : Bool) (a : Lane32) : Lane32 :=
  if a = 0x80000000 then (if sat then 0x7FFFFFFF else a) else if a.msb then -a else a
/-- IMADW: D.d := ext(a) × ext(b) + C.d mod 2^64 (R95). -/
def madWide (u : Bool) (a b : Lane32) (c : Word) : Word := .ofInt 64 (asInt u a * asInt u b) + c
/-- LEA: (B.d + (ext(a) << SUB[2:0])) mod 2^64 (R95). -/
def lea64 (u : Bool) (sh : Nat) (a : Lane32) (b : Word) : Word := b + (BitVec.ofInt 64 (asInt u a)) <<< sh

def execIadd (h : Hdr) (f : VA) (s : State) : Res :=
  issue (.iadd h f) h (vec h 2 fun t _ L =>
    let u := f.sub.getLsbD 0
    toV f.d (satOrWrap f.sat u (asInt u (opA t f L) + asInt u (opB t f L)))) s
def execIaddc (h : Hdr) (f : VA) (s : State) : Res :=
  issue (.iaddc h f) h (vec h 2 fun t _ L =>
    let x := addCarry (opA t f L) (opB t f L) (t.rk (predOf f.c) L)
    toV f.d x.1 ++ toK (f.sub.toNat % 16) x.2) s
def execIsub (h : Hdr) (f : VA) (s : State) : Res :=
  issue (.isub h f) h (vec h 2 fun t _ L =>
    let u := f.sub.getLsbD 0
    toV f.d (satOrWrap f.sat u (asInt u (opA t f L) - asInt u (opB t f L)))) s
def execIsubb (h : Hdr) (f : VA) (s : State) : Res :=
  issue (.isubb h f) h (vec h 2 fun t _ L =>
    let x := subBorrow (opA t f L) (opB t f L) (t.rk (predOf f.c) L)
    toV f.d x.1 ++ toK (f.sub.toNat % 16) x.2) s
def execImul (h : Hdr) (f : VA) (s : State) : Res :=
  issue (.imul h f) h (vec h 4 fun t _ L => toV f.d (opA t f L * opB t f L)) s
def execImulhi (h : Hdr) (f : VA) (s : State) : Res :=
  issue (.imulhi h f) h (vec h 4 fun t _ L => toV f.d (mulHi (f.sub.getLsbD 0) (opA t f L) (opB t f L))) s
def execImad (h : Hdr) (f : VA) (s : State) : Res :=
  issue (.imad h f) h (vec h 4 fun t _ L =>
    toV f.d (negIf (f.fl.getLsbD 2) (opA t f L) * opB t f L + negIf (f.fl.getLsbD 3) (opC t f L))) s
def execImadw (h : Hdr) (f : VA) (s : State) : Res :=
  issue (.imadw h f) h (vec h 4 fun t _ L => toVd f.d (madWide (f.sub.getLsbD 0) (opA t f L) (opB t f L) (opCd t f L))) s
def execImin (h : Hdr) (f : VA) (s : State) : Res :=
  issue (.imin h f) h (vec h 2 fun t _ L => toV f.d (minMax false (f.sub.getLsbD 0) (opA t f L) (opB t f L))) s
def execImax (h : Hdr) (f : VA) (s : State) : Res :=
  issue (.imax h f) h (vec h 2 fun t _ L => toV f.d (minMax true (f.sub.getLsbD 0) (opA t f L) (opB t f L))) s
def execIabs (h : Hdr) (f : VA) (s : State) : Res :=
  issue (.iabs h f) h (vec h 2 fun t _ L => toV f.d (iabs32 f.sat (opA t f L))) s
def execLogic (h : Hdr) (f : VA) (s : State) : Res :=
  issue (.logic h f) h (vec h 2 fun t _ L => toV f.d (logic32 (ttOf f) (opA t f L) (opB t f L) (opC t f L))) s
def execSel (h : Hdr) (f : VA) (s : State) : Res :=
  issue (.sel h f) h (vec h 2 fun t _ L => toV f.d (if t.rk (predOf f.c) L then opA t f L else opB t f L)) s
def execIcmp (h : Hdr) (f : VA) (s : State) : Res :=
  issue (.icmp h f) h (vec h 2 fun t _ L =>
    let u := f.sub.getLsbD 3
    toK (predOf f.d) (combine (f.sub.toNat / 16) (condHolds f.sub3 (asInt u (opA t f L)) (asInt u (opB t f L)))
      (t.rk (predOf f.c) L))) s
def execLea (h : Hdr) (f : VA) (s : State) : Res :=
  issue (.lea h f) h (vec h 2 fun t _ L => toVd f.d (lea64 (f.sub.getLsbD 3) f.sub3 (opA t f L) (opBd t f L))) s
def execShl (h : Hdr) (f : VA) (s : State) : Res :=
  issue (.shl h f) h (vec h 2 fun t _ L => toV f.d (shl32 (opA t f L) (opB t f L).toNat)) s
def execShr (h : Hdr) (f : VA) (s : State) : Res :=
  issue (.shr h f) h (vec h 2 fun t _ L => toV f.d (shr32 (opA t f L) (opB t f L).toNat)) s
def execSar (h : Hdr) (f : VA) (s : State) : Res :=
  issue (.sar h f) h (vec h 2 fun t _ L => toV f.d (sar32 (opA t f L) (opB t f L).toNat)) s
def execRotl (h : Hdr) (f : VA) (s : State) : Res :=
  issue (.rotl h f) h (vec h 2 fun t _ L => toV f.d (rotl32 (opA t f L) (opB t f L).toNat)) s
def execFshl (h : Hdr) (f : VA) (s : State) : Res :=
  issue (.fshl h f) h (vec h 2 fun t _ L => toV f.d (fshl32 (opA t f L) (opB t f L) (opC t f L))) s
def execBfx (h : Hdr) (f : VA) (s : State) : Res :=
  issue (.bfx h f) h (vec h 2 fun t _ L => toV f.d (bfx32 (f.sub.getLsbD 0) (opA t f L) (opB t f L))) s
def execBfi (h : Hdr) (f : VA) (s : State) : Res :=
  issue (.bfi h f) h (vec h 2 fun t _ L => toV f.d (bfi32 (opA t f L) (opB t f L) (opC t f L))) s
def execPopc (h : Hdr) (f : VA) (s : State) : Res := issue (.popc h f) h (vec h 2 fun t _ L => toV f.d (popc32 (opA t f L))) s
def execClz (h : Hdr) (f : VA) (s : State) : Res := issue (.clz h f) h (vec h 2 fun t _ L => toV f.d (clz32 (opA t f L))) s
def execFfs (h : Hdr) (f : VA) (s : State) : Res := issue (.ffs h f) h (vec h 2 fun t _ L => toV f.d (ffs32 (opA t f L))) s
def execBrev (h : Hdr) (f : VA) (s : State) : Res := issue (.brev h f) h (vec h 2 fun t _ L => toV f.d (opA t f L).reverse) s

/-! ## Row 0x02: b is IMM32 (R96) -/

def execIaddImm (h : Hdr) (f : VI) (s : State) : Res :=
  issue (.iaddImm h f) h (vec h 2 fun t _ L => toV f.d (opVI t f L + f.imm)) s
def execImulImm (h : Hdr) (f : VI) (s : State) : Res :=
  issue (.imulImm h f) h (vec h 4 fun t _ L => toV f.d (opVI t f L * f.imm)) s
def execIminImm (h : Hdr) (f : VI) (s : State) : Res :=
  issue (.iminImm h f) h (vec h 2 fun t _ L => toV f.d (minMax false false (opVI t f L) f.imm)) s
def execImaxImm (h : Hdr) (f : VI) (s : State) : Res :=
  issue (.imaxImm h f) h (vec h 2 fun t _ L => toV f.d (minMax true false (opVI t f L) f.imm)) s
def execShlImm (h : Hdr) (f : VI) (s : State) : Res :=
  issue (.shlImm h f) h (vec h 2 fun t _ L => toV f.d (shl32 (opVI t f L) f.imm.toNat)) s
def execShrImm (h : Hdr) (f : VI) (s : State) : Res :=
  issue (.shrImm h f) h (vec h 2 fun t _ L => toV f.d (shr32 (opVI t f L) f.imm.toNat)) s
def execSarImm (h : Hdr) (f : VI) (s : State) : Res :=
  issue (.sarImm h f) h (vec h 2 fun t _ L => toV f.d (sar32 (opVI t f L) f.imm.toNat)) s
def execRotlImm (h : Hdr) (f : VI) (s : State) : Res :=
  issue (.rotlImm h f) h (vec h 2 fun t _ L => toV f.d (rotl32 (opVI t f L) f.imm.toNat)) s

end Sys2Proof.Machine
end

