-- ==== Sys2Proof/Machine/Lane.lean ====
section
/-! DEFINITION. The lane rows 0x08 and 0x09 (R108 to R112, R90). -/

namespace Sys2Proof.Machine

/-- One level of the reduction tree: pairs of nodes, an empty child passes the other on (R90). -/
def treeLevel (op : Lane32 → Lane32 → Lane32) : List (Option Lane32) → List (Option Lane32)
  | a :: b :: xs => (match a, b with | some x, some y => some (op x y) | some x, none => some x | none, y => y) :: treeLevel op xs
  | xs => xs

/-- The final node of n levels (R90). -/
def tree (op : Lane32 → Lane32 → Lane32) (n : Nat) (xs : List (Option Lane32)) : Option Lane32 :=
  (((List.range n).foldl (fun l _ => treeLevel op l) xs).head?).join

/-- The operation of REDG, REDT and SCANG (R112). -/
def redOp (t : Team) (f : VA) (a b : Lane32) : Lane32 :=
  let u := f.sub.getLsbD 3
  if f.t = 0 then
    match f.sub3 with
    | 0 => toF32 t f ((opF t false a).add (rmOf f.rm) (opF t false b))
    | 1 => fminmax false t.ftz a b
    | _ => fminmax true t.ftz a b
  else match f.sub3 with
    | 0 => satOrWrap f.sat u (asInt u a + asInt u b)
    | 1 => minMax false u a b
    | 2 => minMax true u a b
    | 3 => a &&& b
    | 4 => a ||| b
    | _ => a ^^^ b

/-- The identity a first lane receives under `.excl` (R112). -/
def redIdentity (f : VA) : Lane32 :=
  let u := f.sub.getLsbD 3
  if f.t = 0 then (match f.sub3 with | 0 => 0 | 1 => 0x7F800000 | _ => 0xFF800000)
  else match f.sub3 with
    | 0 => 0 | 1 => if u then 0xFFFFFFFF else 0x7FFFFFFF | 2 => if u then 0 else 0x80000000 | 3 => 0xFFFFFFFF | _ => 0

/-- Level 0 of a group: the values of its Active lanes (R90). FTZ flushes what a node reads; a leaf that meets no other passes as it is (the
model's choice between R75 and R90: log 104). -/
def groupLeaves (t : Team) (f : VA) (m : Mask) (g : Nat) : List (Option Lane32) :=
  (List.range 32).map fun l => if m.getLsbD (32 * g + l) then some (opA t f (32 * g + l)) else none

def groupResult (t : Team) (f : VA) (m : Mask) (g : Nat) : Option Lane32 := tree (redOp t f) 5 (groupLeaves t f m g)

/-- SCANG for lane l of a group: left to right over the Active lanes at most l, or below l (R112). -/
def scanResult (t : Team) (f : VA) (m : Mask) (g l : Nat) : Lane32 :=
  let n := if f.sub.getLsbD 4 then l else l + 1
  (((groupLeaves t f m g).take n).foldl (fun (a : Option Lane32) x => match a, x with
    | some y, some z => some (redOp t f y z) | none, z => z | y, none => y) none).getD (redIdentity f)

/-- The source lane of SHFL within the group, none outside 0 to 31 (R109). -/
def shflLane (mode l : Nat) (n : Lane32) : Option Nat :=
  match mode with
  | 0 => some (n.toNat % 32)
  | 1 => if n.toNat ≤ l then some (l - n.toNat) else none
  | 2 => if l + n.toNat < 32 then some (l + n.toNat) else none
  | _ => some (l ^^^ (n.toNat % 32))

/-- The active lane that SHFL reads for lane L, if any. -/
def shflSrc (t : Team) (f : VA) (m : Mask) (L : Nat) : Option Nat :=
  (shflLane (f.sub.toNat % 4) (L % 32) (opB t f L)).bind fun j =>
    if m.getLsbD (32 * (L / 32) + j) then some (32 * (L / 32) + j) else none

def execShfl (h : Hdr) (f : VA) (s : State) : Res :=
  issue (.shfl h f) h (vecLong h fun t m L =>
    if f.sub.getLsbD 2 then toVd f.d ((shflSrc t f m L).elim (opCd t f L) (opAd t f))
    else toV f.d ((shflSrc t f m L).elim (opC t f L) (opA t f))) s
def execVoteAll (h : Hdr) (f : VA) (s : State) : Res :=
  issue (.voteAll h f) h (vecLong h fun t m _ =>
    toK (predOf f.d) ((lanesOf t.lanes m).all fun j => t.rk (predOf f.a) j)) s
def execVoteAny (h : Hdr) (f : VA) (s : State) : Res :=
  issue (.voteAny h f) h (vecLong h fun t m _ =>
    toK (predOf f.d) ((lanesOf t.lanes m).any fun j => t.rk (predOf f.a) j)) s
def execVoteBallot (h : Hdr) (f : VA) (s : State) : Res :=
  issue (.voteBallot h f) h (vecLong h fun t m L =>
    toV f.d (.ofNat 32 ((List.range 32).foldl (fun a l =>
      if m.getLsbD (32 * (L / 32) + l) && t.rk (predOf f.a) (32 * (L / 32) + l) then a + 2 ^ l else a) 0))) s
def execVoteUni (h : Hdr) (f : VA) (s : State) : Res :=
  issue (.voteUni h f) h (vecLong h fun t m L =>
    toK (predOf f.d) ((lanesOf t.lanes m).all fun j => opA t f j == opA t f L)) s
def execMatch (h : Hdr) (f : VA) (s : State) : Res :=
  issue (.matchK h f) h (vecLong h fun t m L =>
    toV f.d (.ofNat 32 ((List.range 32).foldl (fun a l =>
      let j := 32 * (L / 32) + l
      if m.getLsbD j && (opA t f j == opA t f L) && (!f.sub.getLsbD 0 || opAd t f j == opAd t f L) then a + 2 ^ l else a) 0))) s
def execKlogic (h : Hdr) (f : VA) (s : State) : Res :=
  issue (.klogic h f) h (vec h 1 fun t _ L =>
    toK (predOf f.d) (f.sub.getLsbD (2 * (t.rk (predOf f.a) L).toNat + (t.rk (predOf f.b) L).toNat))) s
def execKmov (h : Hdr) (f : VA) (s : State) : Res :=
  issue (.kmov h f) h (vec h 1 fun t _ L =>
    match f.sub.toNat with
    | 0 => toV f.d (if t.rk (predOf f.a) L then 1 else 0)
    | 1 => toK (predOf f.d) (opA t f L != 0)
    | 2 => toK (predOf f.d) (t.rk (predOf f.a) L)
    | _ => toK (predOf f.d) ((t.rs (f.b.toNat % 64)).getLsbD (L % 64))) s
def execReadlane (h : Hdr) (f : VA) (s : State) : Res :=
  issue (.readlane h f) h (vecLong h fun t _ _ =>
    let j := (t.rs (f.b.toNat % 64)).toNat % 1024
    toV f.d (if j < t.lanes then opA t f j else 0)) s
def execRedg (h : Hdr) (f : VA) (s : State) : Res :=
  issue (.redg h f) h (vecLong h fun t m L => toV f.d ((groupResult t f m (L / 32)).getD 0)) s
def execRedt (h : Hdr) (f : VA) (s : State) : Res :=
  issue (.redt h f) h (vecLong h fun t m _ =>
    toV f.d ((tree (redOp t f) 5 ((List.range 32).map (groupResult t f m))).getD 0)) s
def execScang (h : Hdr) (f : VA) (s : State) : Res :=
  issue (.scang h f) h (vecLong h fun t m L => toV f.d (scanResult t f m (L / 32) (L % 32))) s

end Sys2Proof.Machine
end

