-- ==== Sys2Proof/Machine/Header.lean ====
section
/-! DEFINITION. Fetching code (R42, R63), clause headers (R42, R43), and the wait conditions that parked teams test again. -/

namespace Sys2Proof.Machine

/-- The condition of CWAIT and of a header's batch wait: which batch it means, and whether it holds (R151, R43). -/
def Team.batchMeant (t : Team) (n : BitVec 16) : BitVec 16 := if (t.batch - n).toNat < 32768 then n else t.batch
def Team.batchOk (t : Team) (m : BitVec 16) : Bool := (t.batchDone - m).toNat < 32768

/-- BELL.WAIT's condition: PHASE ≠ SEEN (R164). -/
def State.bellReady (s : State) (t : Team) (b : Nat) : Bool := (s.bell t.share b).phase != t.seen.getLsbD b

/-- SEEN := PHASE for a set of bells. -/
def State.bellSeen (s : State) (t : Team) (bs : List Nat) : Team :=
  { t with seen := bs.foldl (fun (x : BitVec 16) b =>
      let m := BitVec.ofNat 16 (2 ^ b)
      if (s.bell t.share b).phase then x ||| m else x &&& ~~~m) t.seen }

/-- The acquire of a wait that observes the team's completed transfers: at the widest of their scopes (R236). -/
def State.copyAcquire (s : State) (tk : Nat) (t : Team) : State :=
  (s.acquire (coreOf tk) t.copyScope).updTeam tk fun u => { u with copyScope := 0 }

/-- The bells a header waits for. -/
def hfBells (f : HF) : List Nat := (List.range 16).filter fun b => f.wbell.getLsbD b

/-- Every enabled wait of a header holds (R43). -/
def State.headerReady (s : State) (t : Team) (f : HF) : Bool :=
  (!f.wb || t.batchOk (t.batchMeant f.wbatch)) && (hfBells f).all (s.bellReady t)

/-- The clause header: checks 3 to 7 of Table 02-2, then its waits, then the clause's first word is next (R42, R43). -/
def execClauseHeader (f : HF) (s : State) : Res :=
  match s.team s.cur with
  | none => .fault .noTeam
  | some t =>
    let hd : Hdr := ⟨false, false, 15⟩
    let stop (c : Cause) (sub : Nat) : Res := .next ((Act.fault s hd c sub 0 0).finish s.cur false)
    match f.subcode with
    | some sub => stop .illegal sub
    | none =>
      if f.wbell != 0 && ((s.share t.share).bind (·.stream)).isNone then stop .illegal 0x0D
      else if f.cls = 7 ∧ t.role ≠ .reeve then stop .privilege 0
      else if !s.headerReady t f then
        .next ((Act.park (s.setTeam s.cur { t with hdr := f }) .header).finish s.cur false)
      else
        let s' := if f.wb then s.copyAcquire s.cur t else s
        let s' := if f.wbell != 0 then s'.acquire (coreOf s.cur) 2 else s'
        let s' := s'.updCore (coreOf s.cur) fun k => { k with issued := put k.issued t.grid (getD 0 k.issued t.grid + 1) }
        .next (s'.updTeam s.cur fun u => { s.bellSeen u (hfBells f) with hdr := f, word := some 0, giveMark := false })

/-- What a fetch of code finds: the word, a cause, or the host's walk to wait for (R42 checks 1 and 2, R63). -/
inductive Fetched where
  | word (w : Word) | bad (c : Cause) | wait (ix : Nat)
  deriving DecidableEq, Repr

def Fetched.waits : Fetched → Bool | .wait _ => true | _ => false

/-- Byte j of a sector that a package has written at PACKAGE scope and its master has not yet: dirty in L3, or in the youngest
write that is on its way (R63). -/
def State.packageByte (s : State) (p key j : Nat) : Option Byte :=
  match (find (s.pkg p).l3.sectors key).bind fun e => if e.dirty.getLsbD j then some (e.data.getD j 0) else none with
  | some b => some b
  | none => s.requests.foldl (fun a e =>
      match e.2.kind with
      | .write bs _ => if e.2.forSector p key && e.2.mask.getLsbD j && !e.2.taint then some (bs.getD j 0) else a
      | _ => a) none

/-- Fetch the 8 bytes at a virtual address through the instruction cache: what has been written at PACKAGE scope, and beyond it
the bytes at the SYSTEM point of coherence (R63). A page of a context pool is no team's (R36); a LOST or freed page is an invalid
one (log 73). -/
def State.fetch (s : State) (core ctx : Nat) (va : Word) : State × Fetched :=
  let (s, tr) := s.translate core ctx va false true
  match tr with
  | .fail c => (s, .bad c)
  | .wait ix => (s, .wait ix)
  | .ok l =>
    let a := 65536 * l.gpn + va.toNat % 65536
    if l.ord = 3 then (s, .bad .translation)
    else if !l.x || s.pooled l.gpn then (s, .bad .permission)
    else match s.sysRead (pkgOf core) a 8 with
      | (s, none) => (s, .bad .translation)
      | (s, some bs) =>
        (s, .word (BitVec.ofNat 64 (natOfBytes (bs.zipIdx.map fun x => (s.packageByte (pkgOf core) ((a + x.2) / 32) ((a + x.2) % 32)).getD x.1))))

/-- Sum of the footprints that count towards admission on a core (R29, R310). -/
def State.admittedBytes (s : State) (core : Nat) : Nat :=
  ((s.teams.filter fun e => coreOf e.1 == core && e.2.admitted).map fun e => e.2.footprint e.2.allot).foldl (· + ·) 0

/-- Register-file bytes of a core (R26). -/
def State.rfBytes (s : State) (core : Nat) : Nat := (s.core core).partition % 32 * 65536

/-- Does a footprint at allotment a fit beside the admitted teams (R29)? -/
def State.fits (s : State) (tk : Nat) (t : Team) (a : Nat) : Bool :=
  s.admittedBytes (coreOf tk) - (if t.admitted then t.footprint t.allot else 0) + t.footprint a ≤ s.rfBytes (coreOf tk)

/-- Lock entries a core holds free (R137). -/
def State.locksFree (s : State) (core n : Nat) : Bool := (s.core core).locks.length + n ≤ Config.rangeLocks

/-- Requests in flight that a core holds (R219): loads, probes, atomics and STRONG stores; write-backs belong to the package, and
a transfer's to its engine. -/
def State.heldRequests (s : State) (core : Nat) : Nat :=
  ((s.requests.filter fun e => e.2.core == core && e.2.xfer.isNone && e.2.win.isNone && match e.2.kind with
    | .write _ strong => strong | .fetch _ => false | _ => true).map (·.2.weight)).foldl (· + ·) 0

/-- Every earlier access of a team has been performed: none of its loads, atomics and STRONG stores is under way (R225). -/
def State.quiet (s : State) (tk serial : Nat) : Bool :=
  s.requests.all fun e => !(e.2.tk == tk && e.2.serial == serial && e.2.xfer.isNone && match e.2.kind with
    | .load => true | .atomic _ _ => true | .write _ strong => strong | .probe => false | .fetch _ => false)

/-- A range lock or a page change touches n bytes at a virtual address of a context (R180). -/
def State.rangeBusy (s : State) (p ctx lo n : Nat) : Bool :=
  (s.cores.any fun e => pkgOf e.1 == p && e.2.locks.any fun l => l.ctx == some ctx && l.overlaps lo n)
  || s.changes.any fun e => (List.range (n / 65536)).any fun i =>
      match (s.translate (48 * p) ctx (BitVec.ofNat 64 (lo + 65536 * i))).2 with
      | .ok l => l.gpn == e.2.gpn
      | _ => false

/-- Does a parked team's condition hold (R37)? Ring waits follow the order in which the teams parked (R167). -/
def State.condHolds (s : State) (tk : Nat) (t : Team) : Cond → Bool
  | .results => t.settled
  | .header => s.headerReady t t.hdr
  | .admission a => s.fits tk t a
  | .batch m => t.batchOk m
  | .batchRoom => t.batches.length < 64
  | .bell b => s.bellReady t b
  | .barrier sh off ph => (s.barWord sh off).phase != ph
  | .ringSend r => match (s.share t.share).bind fun x => x.rings[r]? with
    | none => true
    | some g => (g.slots.getD g.tail (.empty, 0)).1 == .empty && g.senders.head? == some tk
  | .ringTake r => match (s.share t.share).bind fun x => x.rings[r]? with
    | none => true
    | some g => (g.slots.getD g.head (.empty, 0)).1 == .full && g.takers.head? == some tk
  | .locks need => need.all fun x => s.locksFree x.1 x.2
  | .listRoom => (s.core (coreOf tk)).waiting.length < 64
  | .sleep u => u ≤ s.now
  | .launchRoom =>
    let k := s.pkg (pkgOfTeam tk)
    k.pending.length < Config.pendingLaunches && (k.launchWait.find? fun x => !inImage x) == some tk
  | .acks n => (s.pkg (pkgOfTeam tk)).posted.all fun x => n ≤ x.1
  | .requests n => s.heldRequests (coreOf tk) + n ≤ Config.coreRequests
  | .fetched rs => rs.all fun r => (s.request r).isNone
  | .walk ix => (find (s.pkg (pkgOfTeam tk)).hreqs ix).isNone
  | .drained ctx lo n => !s.rangeBusy (pkgOfTeam tk) ctx lo n
  | .still gpns => gpns.all fun g => !s.busy (pkgOfTeam tk) g
  | .lodged ch _ => (s.change ch).isNone
  | .quiet => s.quiet tk t.serial
  | .acquired _ z => s.quiet tk t.serial && (!z || t.settled)
  | .step x => (s.team x).all fun u => u.stepping.isNone && u.settled

end Sys2Proof.Machine
end

