-- ==== Sys2Proof/Machine/Pages.lean ====
section
/-! DEFINITION. The location directory and the frames as operations: entries and presence bits (R253, R264), first touch (R256),
the placement comparator (R257, R258), victim choice (R260), invalidation (R222), page loss (R269) and reference counts
(R325 to R327), and what a one-step transaction between packages leaves in their counters (R344). -/

namespace Sys2Proof.Machine

/-! ## Between packages -/

/-- The package that must serve a page for this package cannot be reached (R350). -/
def State.noRoute (s : State) (p q : Nat) : Bool := p != q && ((s.pkg p).linkUp == 0 || !s.present p q)

/-- Some plane is up at both ends, or both are one package: a packet between them can arrive (R342). -/
def State.joined (s : State) (p q : Nat) : Bool := p == q || (s.pkg p).linkUp &&& (s.pkg q).linkUp != 0

/-- A package cannot reach the slices that a climb of a page asks (R253, R350). -/
def State.cutOff (s : State) (p gpn : Nat) : Bool := s.noRoute p (s.parishSlice p gpn) || s.noRoute p (s.hamletSlice p gpn)

/-- A transaction that takes one step crosses the planes: the flits of a request, and of its answer (Table 18-1; log 77). -/
def State.crossed (s : State) (p q there back : Nat) : State :=
  if p = q then s
  else
    let n (x : Nat) : Word := BitVec.ofNat 64 x
    (s.updPkg p fun k => { k with flitsTx := k.flitsTx + n there, flitsRx := k.flitsRx + n back }).updPkg q fun k =>
      { k with flitsTx := k.flitsTx + n back, flitsRx := k.flitsRx + n there }

/-- The page has been freed or is LOST, as its slice records (R269, R326). -/
def State.moot (s : State) (p gpn : Nat) : Bool := (s.parishEnt p gpn).any fun e => e.lost || e.refs == 0

/-- Count a request that fails for want of a route (R350). -/
def Pkg.missedRoute (k : Pkg) : Pkg := { k with noroute := k.noroute + 1 }

/-- The sector's granule is poisoned where it is held. -/
def State.granuleBad (s : State) (q gpn sec : Nat) : Bool :=
  match (s.pkg q).frameOf gpn with
  | none => false
  | some f => let g := 2048 * f + sec
    (find (s.pkg q).poison g).isSome || (find (s.pkg q).symErr g).any (64 ≤ ·)

/-! ## Directory entries -/

/-- Backing pages that n entries of a slice need beyond its SRAM: 4,096 entries of 16 bytes a page (R264, log 7). -/
def Pkg.pagesFor (k : Pkg) (n : Nat) : Nat := (n - k.sliceRoom + 4095) / 4096
def Pkg.entries (k : Pkg) : Nat := k.hamlet.length + k.parish.length

/-- Make room for one more entry at a slice package: SRAM, a backing page, or the overflow mode of DUTY (R264); none while the host
is asked for pages, in whatever mode DUTY has since been set to (R316). -/
def State.roomFor (s : State) (q gpn : Nat) (parish : Bool) : State × Option Bool :=
  let k := s.pkg q
  let need := k.pagesFor (k.entries + 1)
  if need = 0 then (s, some true)
  else if need ≤ k.dirQuota then (s.updPkg q fun k => { (k.setAstat 1) with dirUsed := max k.dirUsed need }, some true)
  else if k.hreqs.any fun e => e.2.kind == 4 && e.2.b == BitVec.ofNat 64 gpn then (s, none)
  else if k.duty.getLsbD 2 then ((s.askHost q 4 255 (if parish then 1 else 0) (BitVec.ofNat 64 gpn) (BitVec.ofNat 64 k.dirUsed)).1, none)
  else (s.updPkg q fun k => let k := k.setAstat 2; if parish then { k with parishOvf := true } else { k with hamletOvf := true }, some false)

/-- Record a parish entry; none while the slice waits for the host. -/
def State.addParish (s : State) (at_ gpn : Nat) (e : ParishEnt) : State × Bool :=
  match s.roomFor (s.parishSlice at_ gpn) gpn true with
  | (s, some true) => (s.setParish at_ gpn e, true)
  | (s, some false) => (s, true)
  | (s, none) => (s, false)

/-- The hamlet slice of a package can record its presence; false while the host is asked for pages (R264). -/
def State.presentRoom (s : State) (p gpn : Nat) : State × Bool :=
  let q := s.hamletSlice p gpn
  if (find (s.pkg q).hamlet gpn).isSome then (s, true)
  else match s.roomFor q gpn false with
    | (s, none) => (s, false)
    | (s, some _) => (s, true)

/-- Set a package's presence bit in its hamlet entry and the hamlet's in the parish entry; with `master`, it becomes the
hamlet's MASTER (R253). A change that no climb can hold back is recorded while the host is still asked for pages (log 78). -/
def State.notePresent (s : State) (p gpn : Nat) (master : Bool) : State :=
  let q := s.hamletSlice p gpn
  let s := match find (s.pkg q).hamlet gpn with
    | some _ => s
    | none => match s.roomFor q gpn false with
      | (s, some false) => s
      | (s, _) => s.updPkg q fun k => { k with hamlet := put k.hamlet gpn {} }
  let s := match find (s.pkg q).hamlet gpn with
    | none => s
    | some e =>
      let e := { e with present := e.present ||| BitVec.ofNat 12 (2 ^ (p % 12)), master := if master then p else e.master }
      s.updPkg q fun k => { k with hamlet := put k.hamlet gpn e }
  s.updParish p gpn fun e => { e with hamlets := e.hamlets ||| BitVec.ofNat 12 (2 ^ (p / 12)) }

/-- Clear a package's presence bit (R254). -/
def State.noteAbsent (s : State) (p gpn : Nat) : State :=
  match s.hamletEnt p gpn with
  | none => s
  | some e => s.setHamlet p gpn { e with present := e.present &&& ~~~BitVec.ofNat 12 (2 ^ (p % 12)), master := if e.master = p then 255 else e.master }

/-- Name the master in the parish entry and in the hamlet entries (R259, R265). -/
def State.setMaster (s : State) (p gpn : Nat) : State :=
  let s := s.updParish p gpn fun e => { e with master := p }
  let s := (List.range 12).foldl (fun s h =>
    let q := s.hamletSliceOf p h gpn
    match find (s.pkg q).hamlet gpn with
    | none => s
    | some e => if h = p / 12 ∨ e.master = 255 then s else s.updPkg q fun k => { k with hamlet := put k.hamlet gpn { e with master := 255 } }) s
  s.notePresent p gpn true

/-- Packages that hold, or may hold, a copy other than the master: REPLICA frames, and presence bits that are set. -/
def State.copies (s : State) (gpn master : Nat) : List Nat :=
  (s.pkgs.filter fun e => e.1 != master && e.2.stateOf gpn == .replica && !s.declared e.1).map (·.1)

/-! ## Attributes and the comparator (R247, R257, R258) -/

/-- Flits of a packet (Table 18-1). -/
def Packet.flits (k : Packet) : Nat := match k.kind with | .pageData _ => 293 | _ => 1

/-- Flits that wait for packets to a package, saturating at 4,095 (R258, R344). -/
def State.queueDepth (s : State) (p dst : Nat) : Nat :=
  min 4095 (((s.packets.filter fun k => k.2.src == p && k.2.dst == dst).map fun k => k.2.flits).foldl (· + ·) 0)

/-- Policy register n; its reset is WQ 8, TM 16, TR 4 (Table 10-9). -/
def Pkg.policy (k : Pkg) (n : Nat) : Word := getD 0x081004 k.pol n

/-- The comparison of R258: READ against TR, WRITE against TM; NOREP and NOMIG forbid. -/
def compareOk (pol : Word) (write : Bool) (hot q : Nat) (pass : Bool) : Bool :=
  let wq := (pol.extractLsb' 16 8).toNat
  let th := if write then (pol.extractLsb' 8 8).toNat else (pol.extractLsb' 0 8).toNat
  !(if write then pol.getLsbD 24 else pol.getLsbD 25) && (pass || decide (64 * th + wq * q ≤ 64 * hot))

/-! ## Lines that leave with their page (R222, R240, R252) -/

/-- Dirty bytes that have left the caches of a package go on as its posted writes (R347). -/
def State.postSpoils (s : State) (ws : List Spoil) : State :=
  ws.foldl (fun s w => s.postWrite (48 * w.pkg) w.key w.bytes w.mask { leaf := s.entLeaf w.pkg (w.key / 2048) }) s

/-- Dirty bytes that have left the caches of a package are written into frames of their page; as a posted write where an earlier write of
the package to the sector is under way, or no plane leads there (R223, R240, R342). -/
def State.landSpoils (s : State) (fs : List (Nat × Nat)) (ws : List Spoil) : State :=
  ws.foldl (fun s w =>
    if fs.isEmpty || s.pendingMask w.pkg w.key != 0 || fs.any fun m => s.noRoute w.pkg m.1 || !s.joined w.pkg m.1 then s.postSpoils [w]
    else fs.foldl (fun s m => ((s.writeGranule m.1 m.2 (w.key % 2048) w.bytes w.mask).1).crossed w.pkg m.1 1 1) s) s

/-- Take a frame's page away from its package: INVALID, its lines removed; what was dirty there (R240, R252). -/
def State.unframe (s : State) (p f : Nat) : State × List Spoil :=
  (s.updPkg p fun k => k.setTag f {}).stripPage p ((s.pkg p).tag f).gpn

/-- The directory invalidates every replica of a page but one package's: what was dirty there (R222, R344). -/
def State.clearCopies (s : State) (gpn master keep : Nat) : State × List Spoil :=
  ((s.copies gpn master).filter (· != keep)).foldl (fun acc p => match (acc.1.pkg p).frameOf gpn with
    | some f =>
      let r := acc.1.unframe p f
      (((r.1.updPkg p (·.count 9)).noteAbsent p gpn).crossed master p 1 1, acc.2 ++ r.2)
    | none => acc) (s, [])

/-- Every replica of a page is invalidated, its masters become MASTER_EXCL, and what was dirty in the replicas' packages is written
there (R222, R240, R252). -/
def State.invalidateCopies (s : State) (gpn master : Nat) : State :=
  let r := s.clearCopies gpn master master
  let s := { r.1 with pkgs := r.1.pkgs.map fun (e : Nat × Pkg) => (e.1, match e.2.frameOf gpn with
    | some f => if (e.2.tag f).state == FrameState.masterShared then e.2.setTag f { e.2.tag f with state := .masterExcl } else e.2
    | none => e.2) }
  s.landSpoils (s.masterFrames master gpn) r.2

/-- What becomes of the dirty bytes of a page that a package has given up: they are written at its masters once no replica is left, or,
while a change of the page is under way, behind it; those of a freed or LOST page are no one's (R222, R240, R255, R269). -/
def State.settleSpoils (s : State) (p gpn : Nat) (ws : List Spoil) : State :=
  if ws.isEmpty || s.moot p gpn then s
  else if s.busy p gpn then s.postSpoils ws
  else match s.parishSees p gpn with
    | none => s.postSpoils ws
    | some e =>
      let s := s.invalidateCopies gpn e.master
      s.landSpoils (s.masterFrames e.master gpn) ws

/-- Remove every line of a page from the caches of a package that stops holding it (R240, R252). -/
def State.purgePage (s : State) (p gpn : Nat) : State :=
  let r := s.stripPage p gpn
  r.1.settleSpoils p gpn r.2

/-! ## Victims (R258, R260) -/

inductive Victim where
  | take (f : Nat) | replica (f : Nat) | lodge (f : Nat) | none
  deriving DecidableEq, Repr

/-- TRIES of NEIGH: 5 to 7 act as 4 (Table 10-13). -/
def Pkg.tries (k : Pkg) : Nat := min 4 (k.neigh.extractLsb' 36 3).toNat
def Pkg.neighEn (k : Pkg) (i : Nat) : Bool := k.neigh.getLsbD (32 + i)
def Pkg.neighbour (k : Pkg) (i : Nat) : Nat := (k.neigh.extractLsb' (8 * i) 8).toNat

/-- A lodgeable master (R258). -/
def Pkg.lodgeable (k : Pkg) (f : Nat) : Bool :=
  (k.tag f).state.isMaster && !(k.tag f).pinned && (List.range 4).any k.neighEn && k.tries != 0

/-- Victim choice in a set (R260). -/
def Pkg.victim (k : Pkg) (set : Nat) : Victim :=
  let ways := [2 * set, 2 * set + 1]
  let is (x : FrameState) (f : Nat) : Bool := (k.tag f).state == x
  match ways.find? (is .invalid) with
  | some f => .take f
  | none => match ways.find? (is .lost) with
    | some f => .take f
    | none => match ways.find? fun f => is .replica f && !(k.tag f).pinned with
      | some f => .replica f
      | none =>
        let f := 2 * set + (1 - k.mruWay set)
        if k.lodgeable f then .lodge f else .none

/-- A way that needs no lodging. -/
def Victim.now : Victim → Option Nat
  | .take f => some f | .replica f => some f | _ => Option.none

/-- Another attraction into a set of a package has yet to take its way: it waits for the lodging of its victim; `r` is the request that
needs a way now, if any (R277). -/
def State.setTaken (s : State) (p set : Nat) (r : Option Nat) : Bool :=
  s.changes.any fun c => setOf c.2.gpn == set && (r.isNone || c.2.req != r) &&
    (if c.2.kind == ChangeKind.lodge then c.2.src == p else c.2.dst == p && c.2.stage == ChangeStage.waiting)

/-- A way of a set that needs no lodging and is owed to no other (R260, R277). -/
def State.freeWay (s : State) (p set : Nat) (r : Option Nat) : Option Nat :=
  if s.setTaken p set r then none else ((s.pkg p).victim set).now

/-- Drop a replica frame: INVALID, its lines removed (R240, R252). -/
def State.dropReplica (s : State) (p f : Nat) : State :=
  let gpn := ((s.pkg p).tag f).gpn
  let r := s.unframe p f
  r.1.settleSpoils p gpn r.2

/-- Take a way of a set for a new page: a replica that stands in it is dropped (R260). -/
def State.takeWay (s : State) (p f : Nat) (tag : Tag) : State :=
  let s := if ((s.pkg p).tag f).state == .replica then (s.dropReplica p f).updPkg p (·.count 8) else s
  s.updPkg p fun k => k.setTag f tag

/-! ## Twins (R267) -/

/-- The valid twin partner of a package. -/
def State.twinOf (s : State) (p : Nat) : Option Nat :=
  let n := (s.pkg p).neighbour 0
  if n = p || !s.present p n then none else some n

/-- Both frames of a twin page carry TWIN while both stand. -/
def State.makeTwin (s : State) (p f gpn : Nat) : State :=
  match s.twinOf p with
  | none => s
  | some n => match if s.noRoute p n || !s.joined p n then none else s.freeWay n (setOf gpn) none with
    | none => s
    | some g =>
      let tag : Tag := { gpn := gpn, state := .masterExcl, twin := true }
      let s := ((s.takeWay n g tag).updPkg n fun k => (k.zeroFrame g).touch g).updPkg p fun k => k.setTag f { k.tag f with twin := true }
      (s.updParish p gpn fun e => { e with twinpkg := n }).notePresent n gpn false

/-! ## First touch (R256) -/

/-- Create a page at a package in a way of its set: parish entry, zero-filled MASTER_EXCL frame, twin. -/
def State.createPage (s : State) (p f gpn : Nat) (twin : Bool) : State × Bool :=
  match s.addParish p gpn { refs := 1, master := p, twin := twin } with
  | (s, false) => (s, false)
  | (s, true) =>
    let s := s.takeWay p f { gpn := gpn, state := .masterExcl }
    let s := s.updPkg p fun k => ((k.zeroFrame f).touch f).count 10
    let s := s.notePresent p gpn true
    (if twin then s.makeTwin p f gpn else s, true)

/-- The first package, upwards from the parish slice package, whose set has a way without lodging that is owed to no other. -/
def State.touchPlace (s : State) (at_ gpn : Nat) (r : Option Nat) : Option (Nat × Nat) :=
  let P := max 1 (s.pkg at_).podsize
  let q := s.parishSlice at_ gpn
  (List.range P).findSome? fun i =>
    let p := (q + i) % P
    if s.present at_ p then (s.freeWay p (setOf gpn) r).map fun f => (p, f) else none

/-! ## Loss and references (R269, R325 to R327) -/

/-- A package comes to know a page LOST (R269); with LOSTPAGE when the page is LOST rather than freed (R268, R326). -/
def State.learnLost (s : State) (p gpn : Nat) (note : Bool) : State :=
  let s := if note then s.updPkg p (·.setAstat 6) else s
  match (s.pkg p).frameOf gpn with
  | some f =>
    if ((s.pkg p).tag f).state == .moving || ((s.pkg p).tag f).state == .draining then s
    else
      let s := s.updPkg p fun k => k.setTag f { gpn := gpn, state := .lost }
      s.purgePage p gpn
  | none => match s.freeWay p (setOf gpn) none with
    | some f => (s.takeWay p f { gpn := gpn, state := .lost }).purgePage p gpn
    | none => s

/-- A lock of a context covers a byte of a page, as a second-level TLB entry maps it. -/
def Lock.onPage (l : Lock) (es : List TlbEnt) (gpn : Nat) : Bool :=
  es.any fun e => l.ctx == some e.ctx && entGpn e.ent ≤ gpn && gpn < entGpn e.ent + 2 ^ e.log &&
    ({ l with lo := l.lo % 2 ^ 57, hi := l.lo % 2 ^ 57 + (l.hi - l.lo) } : Lock).overlaps (65536 * (e.vpage + (gpn - entGpn e.ent))) 65536

/-- A translation table maps a page at some virtual page from lo to hi; n + 1 levels from this table on, whose first page is base (R243 to
R245). -/
def State.tableMaps (s : State) (p gpn lo hi : Nat) : Nat → Nat → Nat → Nat → Bool
  | 0, _, _, _ => false
  | n + 1, table, tidx, base => (List.range (if n = 3 then 2048 else 1024)).any fun ix =>
    let first := base + ix * 2 ^ (10 * n)
    if hi < first || first + 2 ^ (10 * n) ≤ lo then false
    else match s.sysBytes p (65536 * table + 8192 * tidx + 8 * ix) 8 with
    | none => false
    | some bs =>
      let e := BitVec.ofNat 64 (natOfBytes bs)
      if !e.getLsbD 63 then false
      else if e.getLsbD 62 then
        n < 3 && leafOk e (10 * n) && entGpn e ≤ gpn && gpn < entGpn e + 2 ^ (10 * n) && lo ≤ first + (gpn - entGpn e) &&
          first + (gpn - entGpn e) ≤ hi
      else n != 0 && e.extractLsb' 43 19 == 0 && s.tableMaps p gpn lo hi n (entGpn e) (e.extractLsb' 40 3).toNat first

/-- A lock covers a byte of a page, as the tables of its context map it (R243, R327). -/
def State.lockMaps (s : State) (p gpn : Nat) (l : Lock) : Bool :=
  match l.ctx.bind (find (s.pkg p).ctxs) with
  | none => false
  | some c => l.lo != l.hi && s.tableMaps p gpn (l.lo % 2 ^ 57 / 65536) ((l.hi - 1) % 2 ^ 57 / 65536) 4 c.rootGpn c.rootTidx 0

/-- The transfers that hold range locks over a byte of a page: pages they touch, and pages between those in a locked range that the
package's TLB or the context's tables map (R327; log 23). -/
def State.drainersOf (s : State) (gpn : Nat) : List Nat :=
  let locked (x : Nat) : Bool := s.cores.any fun c => c.2.locks.any fun l =>
    l.xfer == x && (l.onPage (s.pkg (pkgOf c.1)).tlb2 gpn || s.lockMaps (pkgOf c.1) gpn l)
  (s.xfers.filter fun x => x.2.leaves.any (fun l => l.gpn == gpn) || locked x.1).map (·.1)

/-- A page whose references have reached 0 is freed: every frame of it goes LOST, the master through DRAINING while a transfer
holds a lock over the page, a MOVING one when its move ends; its lines leave every package (R326, R327). -/
def State.freePage (s : State) (gpn : Nat) : State :=
  let holds := s.drainersOf gpn
  let s := { s with pkgs := s.pkgs.map fun (e : Nat × Pkg) => (e.1, match find e.2.spill gpn with
    | none => e.2
    | some n => { e.2 with spill := erase e.2.spill gpn, spillBad := e.2.spillBad.filter fun c => c.1 / 2048 != n }) }
  (s.pkgs.map (·.1)).foldl (fun s p =>
    match (s.pkg p).frameOf gpn with
    | none => s.purgePage p gpn
    | some f =>
      let st := ((s.pkg p).tag f).state
      if st == .moving then s.updPkg p fun k => { k with drains := k.drains ++ holds.map fun x => (f, x) }
      else if st.isMaster && !holds.isEmpty then
        let s := s.updPkg p fun k => { k.setTag f { gpn := gpn, state := .draining } with drains := k.drains ++ holds.map fun x => (f, x) }
        s.purgePage p gpn
      else s.learnLost p gpn false) s

/-- Lower the references of a page by one, at the parish slice (R325): nothing on a page without references. -/
def State.lowerRef (s : State) (at_ gpn : Nat) : State :=
  match s.parishEnt at_ gpn with
  | none => s
  | some e =>
    if e.refs = 0 then s
    else
      let s := s.setParish at_ gpn { e with refs := e.refs - 1 }
      if e.refs = 1 then s.freePage gpn else s

/-- A transfer's locks clear: its drain holds are withdrawn, and frames without a hold go LOST (R327). -/
def State.withdraw (s : State) (x : Nat) : State :=
  (s.pkgs.map (·.1)).foldl (fun s p =>
    let fs := ((s.pkg p).drains.filter fun d => d.2 == x).map (·.1)
    let s := s.updPkg p fun k => { k with drains := k.drains.filter fun d => d.2 != x }
    fs.foldl (fun s f =>
      if ((s.pkg p).drains.any fun d => d.1 == f) || ((s.pkg p).tag f).state != .draining then s
      else (s.updPkg p fun k => k.setTag f { gpn := (k.tag f).gpn, state := .lost }).purgePage p ((s.pkg p).tag f).gpn) s) s

/-! ## Writes at the master (R222) -/

/-- The package of a TWIN page's other master (R267). -/
def State.twinAt (s : State) (q gpn : Nat) : Option Nat :=
  (s.parishSees q gpn).bind fun e => if e.twinpkg = 255 then none else some (if e.twinpkg = q then e.master else e.twinpkg)

/-- What keeps a write from a TWIN page's other master: its loss is being settled; the writing master has no up port; no plane is up at
both (R267, R268, R342, R350). -/
inductive TwinCut where
  | none | settling | noRoute | mute (n : Nat)
  deriving DecidableEq, Repr

def State.twinCut (s : State) (q gpn : Nat) : TwinCut :=
  match s.twinAt q gpn with
  | .none => .none
  | some n =>
    if s.declared n then .settling else if s.noRoute q n then .noRoute else if !s.joined q n then .mute n else .none

/-- Write masked bytes of a sector at the master of a page that holds it as MASTER_EXCL, and at its twin (R267); whether the
granule took them (R271). -/
def State.masterWrite (s : State) (q gpn sec : Nat) (bytes : List Byte) (mask : BitVec 32) : State × Bool :=
  match (s.pkg q).frameOf gpn with
  | none => (s, false)
  | some f =>
    let (s, ok) := s.writeGranule q f sec bytes mask
    match s.twinAt q gpn with
    | none => (s, ok)
    | some n => match (s.pkg n).frameOf gpn with
      | none => (s, ok)
      | some g => (if ok then ((s.writeGranule n g sec bytes mask).1).crossed q n 1 1 else s, ok)

end Sys2Proof.Machine
end

