-- ==== Sys2Proof/Machine/Ldst.lean ====
section
/-! DEFINITION. What the loads, stores and atomics share: the checks over lanes (R37, R38, R124), sector requests (R219), the
read and write of bytes at a point of coherence (R220, R225, R226, R234), store buffers and footprints of a try region (R169,
R170), and passes of the scratchpad banks (R217). -/

namespace Sys2Proof.Machine

/-! ## Checks over lanes -/

/-- What the checks of every Active lane answer together: the pieces of each, the causes to freeze with, or a walk to wait
for. -/
inductive LanesChk where
  | ok (ls : List (Nat × Word × List Piece))
  | bad (cs : List (Nat × Option Cause × Word))
  | wait (ix : Nat)
  deriving DecidableEq, Repr

/-- CheckAccess of a global access in each lane, in ascending order (R37). -/
def State.checkLanes (s : State) (tk : Nat) (t : Team) (lanes : List Nat) (ea : Nat → Word) (n : Nat)
    (write rmw split lockCheck : Bool) (probe : Bool := false) : State × LanesChk :=
  let r := lanes.foldl (fun (acc : State × List (Nat × Word × Chk)) L =>
    let (s, c) := acc.1.checkGlobal (coreOf tk) t.ctx (ea L) n write rmw split lockCheck probe
    (s, acc.2 ++ [(L, ea L, c)])) (s, [])
  (r.1,
    match r.2.findSome? fun x => match x.2.2 with | .wait ix => some ix | _ => none with
    | some ix => .wait ix
    | none =>
      if r.2.any fun x => match x.2.2 with | .bad _ => true | _ => false then
        .bad (r.2.map fun x => (x.1, (match x.2.2 with | .bad c => some c | _ => none), x.2.1))
      else .ok (r.2.map fun x => (x.1, x.2.1, match x.2.2 with | .ok ps => ps | _ => [])))

/-- CheckAccess of a scratchpad access in each lane: share and offset of each, or the causes (R37, R123). -/
def State.checkSpLanes (s : State) (t : Team) (lanes : List Nat) (ea : Nat → Nat) (n : Nat) (write : Bool) :
    Except (List (Nat × Option Cause × Word)) (List (Nat × Nat × Nat)) :=
  let r := lanes.map fun L => (L, s.checkSp t (ea L) n write)
  if r.all fun x => match x.2 with | .ok _ => true | .error _ => false then
    .ok (r.filterMap fun x => match x.2 with | .ok y => some (x.1, y.1, y.2) | .error _ => none)
  else .error (r.map fun x => (x.1, (match x.2 with | .ok _ => none | .error c => some c), BitVec.ofNat 64 (ea x.1 % 2 ^ 32)))

/-! ## Release and acquire of an instruction (R225, R226, R348) -/

/-- The releases of a word at a scope, and what follows once it is complete: the team's earlier accesses are performed, the
caches are written back, and at SYSTEM scope every posted request of the package is acknowledged. -/
def releaseThen (s : State) (tk : Nat) (t : Team) (scope : Nat) (go : State → Act) : Act :=
  if !s.quiet tk t.serial then .park s .quiet
  else if scope < 5 then go (s.release (coreOf tk) scope)
  else match t.relWait with
    | some n => if (s.pkg (pkgOfTeam tk)).posted.all fun x => n ≤ x.1 then go s else .park s (.acks n)
    | none =>
      let s := s.release (coreOf tk) 5
      let k := s.pkg (pkgOfTeam tk)
      if k.posted.isEmpty then go s else .park (s.setTeam tk { t with relWait := some k.postSeq }) (.acks k.postSeq)

/-- Scopes above CLUSTER on a scratchpad object are clamped to CLUSTER (R154, R221). -/
def clampScope (scope : Nat) : Nat := min scope 2

/-- Acquire when a word asks for it. -/
def State.acquireIf (s : State) (core scope : Nat) (b : Bool) : State := if b then s.acquire core scope else s

/-! ## Sectors -/

/-- The bytes of a sector that [addr, addr + len) covers. -/
def coverMask (key addr len : Nat) : BitVec 32 :=
  BitVec.ofNat 32 ((List.range 32).foldl (fun m j => if addr ≤ 32 * key + j && 32 * key + j < addr + len then m + 2 ^ j else m) 0)

/-- The sectors of a byte range. -/
def coverKeys (addr len : Nat) : List Nat := (List.range ((addr % 32 + len + 31) / 32)).map fun i => addr / 32 + i

/-- What a group of lanes asks of one sector: group, sector, bytes, scope whose point of coherence serves it, page, lanes. -/
structure Want where
  group : Nat
  key : Nat
  mask : BitVec 32
  scope : Nat
  leaf : Leaf
  lanes : List (Nat × Word)
  deriving DecidableEq, Repr

/-- Add a want, merging the lanes of one group that touch one sector (R219). -/
def addWant : List Want → Want → List Want
  | [], w => [w]
  | x :: xs, w =>
    if x.group = w.group ∧ x.key = w.key then
      { x with mask := x.mask ||| w.mask, scope := max x.scope w.scope, lanes := x.lanes ++ w.lanes } :: xs
    else x :: addWant xs w

/-- A STRONG page is served at the SYSTEM point of coherence whatever the word names (R234). -/
def pointScope (l : Leaf) (scope : Nat) : Nat := if l.ord = 1 then 5 else scope

/-- The wants of a global access: one per group and sector. -/
def wantsOf (ls : List (Nat × Word × List Piece)) (scope : Nat) : List Want :=
  ls.foldl (fun ws x => x.2.2.foldl (fun ws p => (coverKeys p.addr p.len).foldl (fun ws key =>
    addWant ws ⟨x.1 / 32, key, coverMask key p.addr p.len, pointScope p.leaf scope, p.leaf, [(x.1, x.2.1)]⟩) ws) ws) []

/-- The levels of a core's path that are not narrower than a scope's point of coherence. -/
def pointPath (core scope : Nat) : List Level := (corePath core).drop (pathLevels core scope).length

/-- Byte j of a sector as an access at a scope finds it held in its package: in the nearest level from the scope's point on, in host memory,
or in a local frame that serves reads (R129, R216). -/
def State.holds (s : State) (core key scope j : Nat) : Bool :=
  isHost (key / 2048) || ((s.pkg (pkgOf core)).stateOf (key / 2048)).serves || (s.heldByte key j (pointPath core scope)).isSome

/-- The bytes of a sector that the levels from a scope's point on hold together; none when one of the mask is held by none (R216). -/
def State.heldUnion (s : State) (core key : Nat) (mask : BitVec 32) (scope : Nat) : Option (List Byte) :=
  let at_ (j : Nat) : Option Byte := s.heldByte key j (pointPath core scope)
  if (List.range 32).all fun j => !mask.getLsbD j || (at_ j).isSome then some ((List.range 32).map fun j => (at_ j).getD 0) else none

/-- The bytes of a sector at a scope's point of coherence or, for TEAM and CORE scope, from the nearest cache: none when the
package does not hold them. Narrower levels give up their copies first (R226). -/
def State.readSector (s : State) (core key : Nat) (mask : BitVec 32) (scope : Nat) (unord : Bool) : State × Option (List Byte) :=
  let s := s.purge key (pathLevels core scope)
  match pointPath core scope with
  | [] => match s.pullMem (pkgOf core) key with
    | some (s, bs, good) => (s, if mask &&& ~~~good == 0 then some bs else none)
    | none => (s, none)
  | l :: ls => match s.pull key mask unord (l :: ls) (pkgOf core) with
    | some s => (s, some ((s.cache l).bytes key))
    | none => (s, s.heldUnion core key mask scope)

/-- Write masked bytes of a sector at a scope's point of coherence: dirty in the level that is its point, or at the master. -/
def State.writeSector (s : State) (core key : Nat) (bytes : List Byte) (mask : BitVec 32) (scope : Nat) (unord : Bool) (w : Issuer) :
    State :=
  let s := s.purge key (pathLevels core scope)
  match pointPath core scope with
  | [] => s.memWrite core key bytes mask w
  | l :: _ => s.mergeDirty l key bytes mask unord

/-- The counters of each level of the path that will take a fill, empty for a level narrower than the point (R231). -/
def State.pathGens (s : State) (core scope : Nat) : List (List (BitVec 4)) :=
  (corePath core).zipIdx.map fun x => if x.2 < (pathLevels core scope).length then [] else (s.cache x.1).gen

/-- What served a want: its bytes, or the request that will bring them beside the dirty bytes of the path. -/
structure Got where
  want : Want
  bytes : Option (List Byte)
  req : Nat
  held : List (Option Byte) := []
  deriving DecidableEq, Repr

/-- Byte j of a sector where a level of the path from a scope's point on holds it dirty, the nearest first (R216). -/
def State.dirtyByte (s : State) (core key scope j : Nat) : Option Byte :=
  (pointPath core scope).findSome? fun l => (find (s.cache l).sectors key).bind fun e =>
    if e.dirty.getLsbD j then some (e.data.getD j 0) else none

/-- The byte at a global address in what a group got. -/
def gotByte (gs : List Got) (group a : Nat) : Src :=
  match gs.find? fun g => g.want.group == group && g.want.key == a / 32 with
  | some g => match g.bytes with
    | some bs => .known (bs.getD (a % 32) 0)
    | none => match g.held.getD (a % 32) none with | some b => .known b | none => .await g.req (a % 32)
  | none => .known 0

/-- Read every want that the package holds; bytes that an earlier load of the team still waits for are read behind it (R224). -/
def State.readWants (s : State) (core serial : Nat) (ws : List Want) : State × List Got :=
  ws.foldl (fun (acc : State × List Got) w =>
    let (s, bs) := if acc.1.loading (pkgOf core) serial w.key w.mask then (acc.1, none) else acc.1.readSector core w.key w.mask w.scope (w.leaf.ord == 2)
    (s, acc.2 ++ [⟨w, bs, 0, if bs.isSome then [] else (List.range 32).map (s.dirtyByte core w.key w.scope)⟩])) (s, [])

/-- Request the sectors that the package does not hold, on behalf of a team's word, each with the counters its fill will record
(R219, R231). -/
def State.requestMissing (s : State) (tk : Nat) (t : Team) (kind : ReqKind) (gens : State → Want → List (List (BitVec 4))) (gs : List Got) :
    State × List Got :=
  gs.foldl (fun (acc : State × List Got) g =>
    match g.bytes with
    | some _ => (acc.1, acc.2 ++ [g])
    | none =>
      let s := acc.1
      let w : Issuer := { tk := tk, serial := t.serial, addr := t.here, lanes := g.want.lanes, leaf := some g.want.leaf }
      (s.addRequest (coreOf tk) g.want.key g.want.mask kind w (gens s g.want),
        acc.2 ++ [{ g with req := s.fresh }])) (s, [])

def missing (gs : List Got) : Nat := (gs.filter fun g => g.bytes.isNone).length

/-! ## Try regions (R169, R170) -/

/-- The byte of the open region's store buffer at a place, the latest that was stored. -/
def TryRegion.byte (r : TryRegion) (l : Loc) : Option Byte := ((r.buf.filter fun b => b.loc == l).getLast?).map (·.val)

/-- A lane reads or writes places: its footprint takes their sectors (R169). -/
def TryRegion.touch (r : TryRegion) (L : Nat) (ls : List Loc) : TryRegion :=
  let new := ((ls.map (·.sector)).dedup).filter fun x => !r.foot.any fun f => f.lane == L && f.sector == x
  { r with foot := r.foot ++ new.map fun x => ⟨L, x, false⟩ }

/-- Distinct sectors of a region's footprint. -/
def TryRegion.tracked (r : TryRegion) : Nat := ((r.foot.map (·.sector)).dedup).length

/-- The store buffer takes 32 bytes a sector of the team's 8 KiB and of the core's 64 KiB; 1,024 sectors are tracked (R169). -/
def State.tryOverflow (s : State) (tk : Nat) (r : TryRegion) : Bool :=
  let others := ((s.teams.filter fun e => e.1 != tk && coreOf e.1 == coreOf tk).map fun e => e.2.tryR.elim 0 (·.sectors)).foldl (· + ·) 0
  256 < r.sectors || 2048 < others + r.sectors || 1024 < r.tracked

/-- The places of a lane's pieces, byte for byte. -/
def locsOf (ps : List Piece) : List Loc := ps.flatMap fun p => (List.range p.len).map fun i => .glob (p.addr + i)
def spLocs (sh off n : Nat) : List Loc := (List.range n).map fun i => .sp sh (off + i)

/-- Inside an open region, record the accesses of lanes; the abort code when the footprint overflows. -/
def tryTouch (s : State) (tk : Nat) (t : Team) (ls : List (Nat × List Loc)) (go : State → Team → Act) : Act :=
  match t.tryR with
  | none => go s t
  | some r =>
    let r := ls.foldl (fun r x => r.touch x.1 x.2) r
    if s.tryOverflow tk r then .abort s 2 0
    else
      let t := { t with tryR := some r }
      go (s.setTeam tk t) t

/-- A store inside an open region: buffered when it fits, with the effective address of each lane (R169, R170, R289). -/
def tryStore (s : State) (tk : Nat) (t : Team) (ws : List (Nat × Loc × Byte)) (ea : Nat → Word) : Act :=
  match t.tryR with
  | none => .retire s
  | some r =>
    let r := ws.foldl (fun r w => r.touch w.1 [w.2.1]) r
    let r := { r with buf := r.buf ++ ws.map fun w => ⟨w.1, w.2.1, w.2.2, ea w.1⟩ }
    if s.tryOverflow tk r then .abort s 2 0 else .retire (s.setTeam tk { t with tryR := some r })

/-- An access to a STRONG page aborts an open region (R170). -/
def strongPage (ls : List (Nat × Word × List Piece)) : Bool := ls.any fun x => x.2.2.any fun p => p.leaf.ord == 1

/-! ## Loads and stores of global memory (R127, R128, R234) -/

/-- Serve the bytes of checked lanes as a load: every byte of every lane, its wait before it when a page is STRONG, and its
acquire behind it (R226, R234). `go` makes the register results. -/
def loadGlobal (s : State) (tk : Nat) (t : Team) (ls : List (Nat × Word × List Piece)) (ord scope : Nat)
    (go : State → Team → (Nat → List Src) → State) : Act :=
  let core := coreOf tk
  let strong := strongPage ls
  if t.tryR.isSome && strong then .abort s 5 0
  else
    let body (s : State) : Act :=
      tryTouch s tk t (ls.map fun x => (x.1, locsOf x.2.2)) fun s t =>
        let s := s.acquireIf core 5 strong
        let (s, gs) := s.readWants core t.serial (wantsOf ls (if ord = 1 then scope else 0))
        if Config.coreRequests < s.heldRequests core + missing gs then .park s (.requests (missing gs))
        else
          let (s, gs) := s.requestMissing tk t .load (fun s w => s.pathGens core w.scope) gs
          let bytes (L : Nat) : List Src :=
            match ls.find? fun x => x.1 == L with
            | none => []
            | some x => (locsOf x.2.2).map fun l =>
              match t.tryR.bind (·.byte l), l with
              | some b, _ => .known b
              | none, .glob a => gotByte gs (L / 32) a
              | none, .sp _ _ => .known 0
          let s := go s t bytes
          let sc := if strong then 5 else scope
          if ord = 1 || strong then (if missing gs = 0 then .retire (s.acquire core sc) else .hold s sc) else .retire s
    if strong then releaseThen s tk t 5 body else body s

/-- The bytes that lanes store, in ascending lane order: address, page, byte. -/
def storeBytes (ls : List (Nat × Word × List Piece)) (data : Nat → List Byte) : List (Nat × Nat × Leaf × Byte) :=
  ls.flatMap fun x => ((x.2.2.flatMap fun p => (List.range p.len).map fun i => (p.addr + i, p.leaf)).zip (data x.1)).map fun y =>
    (x.1, y.1.1, y.1.2, y.2)

/-- The bytes that a set of stores leaves in a sector; the highest-numbered lane's byte stands (R127). -/
def sectorBytes (ws : List (Nat × Nat × Leaf × Byte)) (key : Nat) : List Byte × BitVec 32 :=
  let at_ (j : Nat) : Option Byte := ((ws.filter fun w => w.2.1 == 32 * key + j).getLast?).map (·.2.2.2)
  ((List.range 32).map fun j => (at_ j).getD 0,
    BitVec.ofNat 32 ((List.range 32).foldl (fun m j => if (at_ j).isSome then m + 2 ^ j else m) 0))

/-- Perform stores of lanes, sector by sector, each at its point of coherence; other teams' footprints record them. `ea` gives the
effective address of a lane's store into a sector, which a late report carries (R289). -/
def State.performStores (s : State) (tk : Nat) (t : Team) (ws : List (Nat × Nat × Leaf × Byte)) (ea : Nat → Nat → Word) (scope : Nat) : State :=
  let keys := (ws.map fun w => w.2.1 / 32).dedup
  let s := keys.foldl (fun s key =>
    match ws.find? fun w => w.2.1 / 32 == key with
    | none => s
    | some w =>
      let (bs, m) := sectorBytes ws key
      let lanes := ((ws.filter fun w => w.2.1 / 32 == key).map (·.1)).dedup
      let leaf := w.2.2.1
      let who : Issuer := { tk := tk, serial := t.serial, addr := t.here, lanes := lanes.map fun L => (L, ea L key), leaf := some leaf, strong := leaf.ord == 1 }
      s.writeSector (coreOf tk) key bs m (pointScope leaf scope) (leaf.ord == 2) who) s
  s.noteWrite (some tk) (ws.map fun w => .glob w.2.1)

/-- Requests that the stores to STRONG pages hold until they are acknowledged: one a group and sector (R219). -/
def State.strongAway (s : State) (p : Nat) (ws : List (Nat × Nat × Leaf × Byte)) : Nat :=
  (((ws.filter fun w => w.2.2.1.ord == 1 && !s.writesHere p (w.2.1 / 32)).map fun w => (w.1 / 32, w.2.1 / 32)).dedup).length

/-- The placement comparator would serve a store to a page remotely: the page's master is elsewhere, and the store would not
bring it here (R170, R258). -/
def State.remoteMapped (s : State) (p : Nat) (l : Leaf) : Bool :=
  if isHost l.gpn || ((s.pkg p).stateOf l.gpn).isMaster then false
  else match s.parishSees p l.gpn with
    | none => false
    | some e =>
      let hot := (((s.pkg p).tlb2.find? (·.covers l.ctx l.vpage)).elim 0 (·.whot)) + 1
      e.pinned || l.pin || e.master == 254 ||
        !(compareOk ((s.pkg p).policy l.hotpol) true hot (s.queueDepth p e.master) false && (s.pkg p).victim (setOf l.gpn) != .none)

/-- Store bytes of checked lanes: into the buffer of an open region, else performed at the point of coherence of the word's scope, behind
the release that the word or a STRONG page asks for (R220, R225, R234; log 99). -/
def storeGlobal (s : State) (tk : Nat) (t : Team) (ls : List (Nat × Word × List Piece)) (ord scope : Nat) (data : Nat → List Byte) :
    Act :=
  let strong := strongPage ls
  let ws := storeBytes ls data
  let ea (L : Nat) : Word := (ls.find? fun x => x.1 == L).elim 0 fun x => x.2.1
  if t.tryR.isSome then
    (if strong then .abort s 5 0
     else if t.version = 3 && ls.any fun x => x.2.2.any fun p => s.remoteMapped (pkgOfTeam tk) p.leaf then .abort s 10 0
     else tryStore s tk t (ws.map fun w => (w.1, .glob w.2.1, w.2.2.2)) ea)
  else
    let body (s : State) : Act :=
      let n := if strong then s.strongAway (pkgOfTeam tk) ws else 0
      if n != 0 && Config.coreRequests < s.heldRequests (coreOf tk) + n then .park s (.requests n) else
      let s := s.performStores tk t ws (fun L _ => ea L) scope
      if strong then (if s.quiet tk t.serial then .retire (s.acquire (coreOf tk) 5) else .hold s 5) else .retire s
    if strong then releaseThen s tk t 5 fun s => body (s.acquire (coreOf tk) 5)
    else if ord = 2 then releaseThen s tk t scope body else body s

/-! ## Scratchpad (R127, R217, R218) -/

/-- Extra passes of an instruction on the banks; `merge` for loads and stores, whose lanes merge on one word (R217). -/
def extraPasses (acc : List (Nat × Nat × Nat)) (n : Nat) (merge : Bool) : Nat :=
  let per := if n = 16 then 8 else if n = 8 then 16 else 32
  let subs := (acc.map fun x => x.1 / per).dedup
  (subs.map fun g =>
    let words := (acc.filter fun x => x.1 / per == g).flatMap fun x =>
      (List.range (max 1 (n / 4))).map fun i => (x.2.1, x.2.2 / 4 + i)
    let words := if merge then words.dedup else words
    let p := (words.map fun w => (words.filter fun v => v.1 == w.1 && v.2 % 32 == w.2 % 32).length).foldl max 0
    p - 1).foldl (· + ·) 0

/-- Add an instruction's extra passes to sr.spextra when it issues, which R241 allows an RDSR to see at once. -/
def Team.addPasses (t : Team) (n : Nat) : Team := { t with spextra := t.spextra + BitVec.ofNat 32 n }

/-- The register results of a load of n bytes into a base register (R127). -/
def loadParts (d n : Nat) (sx : Bool) (L : Nat) (bs : List Src) : List Part :=
  if n ≤ 4 then [⟨.v d, L, bs, sx, false⟩]
  else (List.range (n / 4)).map fun i => ⟨.v (d + i), L, (bs.drop (4 * i)).take 4, false, false⟩

end Sys2Proof.Machine
end

