-- ==== Sys2Proof/Machine/Memory.lean ====
section
/-! DEFINITION. Rows 0x0C and 0x0D but for CAS: loads, stores, probes, prefetches, residency requests, cache control and
fences (R126 to R133). -/

namespace Sys2Proof.Machine

def ordN (f : MF) : Nat := f.ord.toNat
def scopeN (f : MF) : Nat := f.scope.toNat

/-- Go on with checked lanes, or freeze, or wait for the host's walk. -/
def checked (s : State) (r : LanesChk) (go : List (Nat × Word × List Piece) → Act) : Act :=
  match r with
  | .wait ix => .park s (.walk ix)
  | .bad cs => .freeze s cs 0 0
  | .ok ls => go ls

def execLd (h : Hdr) (f : MF) (s : State) : Res :=
  issue (.ld h f) h (fun s tk t =>
    let n := sizeBytes f.size
    let (s, r) := s.checkLanes tk t (t.act h) (eaGlobal t f) n false false (f.ord == 0 && f.size != 0) true
    checked s r fun ls => loadGlobal s tk t ls (ordN f) (scopeN f) fun s t bytes =>
      s.setTeam tk (t.writeLong (ls.flatMap fun x => loadParts f.data.toNat n f.sx x.1 (bytes x.1)))) s

/-- The wants of a probe, each lane for itself: it hits or misses by its own bytes (R129; log 93). -/
def probeWants (ls : List (Nat × Word × List Piece)) : List Want :=
  ls.flatMap fun x => x.2.2.flatMap fun p => (coverKeys p.addr p.len).map fun key =>
    ⟨x.1, key, coverMask key p.addr p.len, pointScope p.leaf 0, p.leaf, [(x.1, x.2.1)]⟩

/-- A lane of a probe hits: every byte that it reads is in the open region's buffer or held by its package (R129). -/
def State.probeHit (s : State) (core : Nat) (t : Team) (x : Nat × Word × List Piece) : Bool :=
  x.2.2.all fun p => (List.range p.len).all fun i =>
    (t.tryR.any fun r => (r.byte (.glob (p.addr + i))).isSome) || s.holds core ((p.addr + i) / 32) (pointScope p.leaf 0) ((p.addr + i) % 32)

/-- What the missing lanes of a probe ask for in the background: one request a group and sector; not of a page known LOST. -/
def State.probeClimbs (s : State) (p : Nat) (ls : List (Nat × Word × List Piece)) : List Got :=
  (((probeWants ls).filter fun w => !(s.pkg p).knownLost (w.key / 2048)).foldl
    (fun ws w => addWant ws { w with group := w.group / 32 }) []).map fun w => ⟨w, none, 0, []⟩

/-- The fill of a probe's climb goes to L2 alone, and nowhere for a STRONG page (R129, R234). -/
def State.probeGens (s : State) (core : Nat) (w : Want) : List (List (BitVec 4)) :=
  [[], if w.leaf.ord = 1 then [] else (s.die (dieOf core)).gen, []]

/-- A probe: lanes whose bytes are held receive them as LD would and k14 := 0, the others zero and k14 := 1, and climb in the background
(R129). On a STRONG page it acts as FENCE.ar before and after itself (R234). -/
def execLdProbe (h : Hdr) (f : MF) (s : State) : Res :=
  issue (.ldProbe h f) h (fun s tk t =>
    let n := sizeBytes f.size
    let core := coreOf tk
    let (s, r) := s.checkLanes tk t (t.act h) (eaGlobal t f) n false false false true true
    checked s r fun ls =>
      let strong := strongPage ls
      if t.tryR.isSome && strong then .abort s 5 0
      else
        let body (s : State) : Act := tryTouch s tk t (ls.map fun x => (x.1, locsOf x.2.2)) fun s t =>
          let s := s.acquireIf core 5 strong
          let hits := ls.filter (s.probeHit core t)
          let climbing := s.probeClimbs (pkgOf core) (ls.filter fun x => !s.probeHit core t x)
          let (s, gs) := s.readWants core t.serial (wantsOf hits 0)
          let asked := missing gs + climbing.length
          if Config.coreRequests < s.heldRequests core + asked then .park s (.requests asked)
          else
            let (s, gs) := s.requestMissing tk t .load (fun s w => s.pathGens core w.scope) gs
            let s := (s.requestMissing tk t .probe (fun s w => s.probeGens core w) climbing).1
            let parts := ls.flatMap fun x =>
              let hit := hits.any fun y => y.1 == x.1
              let bs : List Src := (locsOf x.2.2).map fun l => if !hit then .known 0 else match t.tryR.bind (·.byte l), l with
                | some b, _ => .known b
                | none, .glob a => gotByte gs (x.1 / 32) a
                | none, .sp _ _ => .known 0
              loadParts f.data.toNat n (f.sx && hit) x.1 bs ++ [Part.ofVal (.k 14) x.1 (bit !hit)]
            let s := s.setTeam tk (t.writeLong parts)
            if strong && missing gs != 0 then .hold s 5 else .retire (s.acquireIf core 5 strong)
        if strong then releaseThen s tk t 5 body else body s) s

def execSt (h : Hdr) (f : MF) (s : State) : Res :=
  issue (.st h f) h (fun s tk t =>
    let n := sizeBytes f.size
    let (s, r) := s.checkLanes tk t (t.act h) (eaGlobal t f) n true false (f.ord == 0 && f.size != 0) true
    checked s r fun ls => storeGlobal s tk t ls (ordN f) (scopeN f) (dataBytes t n f.data.toNat)) s

def execLds (h : Hdr) (f : MF) (s : State) : Res :=
  issue (.lds h f) h (fun s tk t =>
    let n := sizeBytes f.size
    match s.checkSpLanes t (t.act h) (fun L => (eaScratch t f L).toNat) n false with
    | .error cs => .freeze s cs 0 0
    | .ok ls =>
      tryTouch s tk t (ls.map fun x => (x.1, spLocs x.2.1 x.2.2 n)) fun s t =>
        let parts := ls.flatMap fun x =>
          loadParts f.data.toNat n f.sx x.1 ((List.range n).map fun i =>
            .known ((t.tryR.bind (·.byte (.sp x.2.1 (x.2.2 + i)))).getD (s.spByte x.2.1 (x.2.2 + i))))
        let s := s.setTeam tk ((t.writeLong parts).addPasses (extraPasses ls n true))
        .retire (s.acquireIf (coreOf tk) (clampScope (scopeN f)) (f.ord == 1))) s

def execSts (h : Hdr) (f : MF) (s : State) : Res :=
  issue (.sts h f) h (fun s tk t =>
    let n := sizeBytes f.size
    match s.checkSpLanes t (t.act h) (fun L => (eaScratch t f L).toNat) n true with
    | .error cs => .freeze s cs 0 0
    | .ok ls =>
      let passes := extraPasses ls n true
      let data := dataBytes t n f.data.toNat
      if t.tryR.isSome then
        -- a store that aborts has taken no pass (R170, R241)
        match tryStore s tk t (ls.flatMap fun x => (data x.1).zipIdx.map fun b => (x.1, .sp x.2.1 (x.2.2 + b.2), b.1))
            (fun L => (eaScratch t f L).setWidth 64) with
        | .retire s => .retire (s.updTeam tk (·.addPasses passes))
        | a => a
      else
        let go (s : State) : Act :=
          let s := ls.foldl (fun s x => s.setSpBytes x.2.1 x.2.2 (data x.1)) s
          let s := s.noteWrite (some tk) (ls.flatMap fun x => spLocs x.2.1 x.2.2 n)
          .retire (s.updTeam tk (·.addPasses passes))
        if f.ord = 2 then releaseThen s tk t (clampScope (scopeN f)) go else go s) s

/-- The check of a uniform access: a cause is recorded in every Active lane (R128). -/
def checkUniform (s : State) (h : Hdr) (tk : Nat) (t : Team) (ea : Word) (n : Nat) (write split : Bool) (go : State → List Piece → Act) :
    Act :=
  let (s, c) := s.checkGlobal (coreOf tk) t.ctx ea n write false split true
  match c with
  | .wait ix => .park s (.walk ix)
  | .bad c => .fault s h c 0 0 ea
  | .ok ps => go s ps

/-- The lane that stands for a uniform access in requests and footprints: the lowest that is Active, else lane 0. -/
def Team.firstLane (t : Team) (h : Hdr) : Nat := (t.act h).headD 0

def execLdu (h : Hdr) (f : MF) (s : State) : Res :=
  issue (.ldu h f) h (once h fun s tk t =>
    let n := sizeBytes f.size
    let ea := eaUniform t f
    checkUniform s h tk t ea n false (f.ord == 0 && f.size != 0) fun s ps =>
      let L := t.firstLane h
      loadGlobal s tk t [(L, ea, ps)] (ordN f) (scopeN f) fun s t bytes =>
        s.setTeam tk (t.writeLong [⟨.s (sData f), 0, bytes L, f.sx, false⟩])) s

def execStu (h : Hdr) (f : MF) (s : State) : Res :=
  issue (.stu h f) h (once h fun s tk t =>
    let n := sizeBytes f.size
    let ea := eaUniform t f
    checkUniform s h tk t ea n true (f.ord == 0 && f.size != 0) fun s ps =>
      storeGlobal s tk t [(t.firstLane h, ea, ps)] (ordN f) (scopeN f) fun _ => bytesOf n (t.rs (sData f)).toNat) s

/-- PREF: fill one level from a page that a frame of the package holds, in each lane that no check of its sector would stop; a lane whose
translation must wait for the host is passed over (R130; log 100). -/
def execPref (h : Hdr) (f : MF) (s : State) : Res :=
  issue (.pref h f) h (fun s tk t =>
    let core := coreOf tk
    let levels := (corePath core).drop (if f.scope = 1 then 0 else if f.scope = 3 then 1 else 2)
    .retire ((t.act h).foldl (fun s L =>
      let (s, c) := s.checkGlobal core t.ctx (eaGlobal t f L &&& ~~~(31 : Word)) 32 false false false true
      match c, levels with
      | .ok [p], l :: outer =>
        if p.leaf.ord = 1 || !((s.pkg (pkgOf core)).stateOf p.leaf.gpn).serves then s
        else s.prefetch (p.addr / 32) (p.leaf.ord == 2) l outer (pkgOf core)
      | _, _ => s) s)) s

/-- The residency status of a page for FETCH, by Table 05-2. -/
def Pkg.residency (k : Pkg) (gpn : Nat) (write : Bool) : Nat :=
  let st := k.stateOf gpn
  if (if write then st == .masterExcl else st.serves) then 0
  else if st == .filling || st == .moving then 3
  else if st == .lost then 4
  else 5

/-- FETCH: each lane's status, and one request a page for the pages that are elsewhere (R131). -/
def execFetch (h : Hdr) (f : MF) (s : State) : Res :=
  issue (.fetch h f) h (fun s tk t =>
    let core := coreOf tk
    let p := pkgOf core
    let (s, ls) := (t.act h).foldl (fun (acc : State × List (Nat × Nat × Option Leaf)) L =>
      let (s, tr) := acc.1.translate core t.ctx (eaGlobal t f L) (f.size == 1)
      match tr with
      | .ok l =>
        if l.ord = 3 then (s, acc.2 ++ [(L, 1, none)])
        else (s, acc.2 ++ [(L, (s.pkg p).residency l.gpn (f.size == 1 && l.w), some l)])
      | .fail _ => (s, acc.2 ++ [(L, 1, none)])
      | .wait ix => (s, acc.2 ++ [(L, 256 + ix, none)])) (s, [])
    match ls.find? fun x => 256 ≤ x.2.1 with
    | some x => .park s (.walk (x.2.1 - 256))
    | none =>
      let away := ls.filterMap fun x => if x.2.1 = 5 then x.2.2.filter fun l => !isHost l.gpn else none
      let pages := away.foldl (fun (acc : List Leaf) l => if acc.any fun m => m.gpn == l.gpn then acc else acc ++ [l]) []
      let s := pages.foldl (fun s l =>
        s.addRequest core (2048 * l.gpn) 0 (.fetch (f.size == 1 && l.w)) { tk := tk, serial := t.serial, leaf := some l } []) s
      .retire (s.setTeam tk (t.writeLong (ls.map fun x => Part.ofVal (.v f.data.toNat) x.1 (BitVec.ofNat 64 x.2.1))))) s

/-- CCTL has a lane's sector to act on: of a host page, of a page in a frame of the package, or of a page elsewhere that a cache of the
core's path holds a line of, as the example of 18 Tables 18-5 and 18-6 has it (R132; log 79). -/
def State.cctlActs (s : State) (core key : Nat) : Bool :=
  isHost (key / 2048) || ((s.pkg (pkgOf core)).stateOf (key / 2048)).serves ||
    (corePath core).any fun l => (find (s.cache l).sectors key).isSome

/-- The sectors that CCTL acts on: each lane's address is checked over its whole sector (R132); discard is a reeve's. -/
def cctl (h : Hdr) (f : MF) (write lockCheck : Bool) (act : State → Nat → List Level → State) (s : State) (tk : Nat) (t : Team) : Act :=
  let core := coreOf tk
  if f.data = 2 ∧ t.role ≠ .reeve then .fault s h .privilege 0 0 0
  else
    let ea (L : Nat) : Word := eaGlobal t f L &&& ~~~(31 : Word)
    let (s, r) := s.checkLanes tk t (t.act h) ea 32 write false false lockCheck
    match r with
    | .wait ix => .park s (.walk ix)
    | .bad cs => .freeze s (cs.map fun c => (c.1, c.2.1, eaGlobal t f c.1)) 0 0
    | .ok ls => .retire ((ls.flatMap fun x => x.2.2.map fun p => p.addr / 32).foldl (fun s key =>
        if s.cctlActs core key then act s key (pathLevels core (scopeN f)) else s) s)

/-- Write back the sector from every level narrower than the scope's point. -/
def State.wbSector (s : State) (key : Nat) (ls : List Level) : State := ls.foldl (fun s l => s.writeBackOne l key) s

/-- Drop the sector from the levels unwritten, counting 32 for each dirty one (R132). -/
def State.discardSector (s : State) (key : Nat) (ls : List Level) : State :=
  ls.foldl (fun s l =>
    let dirty := (find (s.cache l).sectors key).any fun e => e.dirty != 0
    let s := s.dropLine l key
    if dirty then s.updPkg (lvlPkg l) fun k => { k with discarded := k.discarded + 32 } else s) s

def execCctlWb (h : Hdr) (f : MF) (s : State) : Res :=
  issue (.cctlWb h f) h (cctl h f false false State.wbSector) s
def execCctlInv (h : Hdr) (f : MF) (s : State) : Res :=
  issue (.cctlInv h f) h (cctl h f true true State.purge) s
def execCctlDiscard (h : Hdr) (f : MF) (s : State) : Res :=
  issue (.cctlDiscard h f) h (cctl h f true true State.discardSector) s

/-- FENCE: a release, an acquire or both, when some lane is Active; its acquire waits for the earlier loads (R133, R227,
R229). -/
def execFence (h : Hdr) (f : MF) (s : State) : Res :=
  issue (.fence h f) h (fun s tk t =>
    if (t.act h).isEmpty then .retire s
    else if f.ord = 1 then
      (if s.quiet tk t.serial then .retire (s.acquire (coreOf tk) (scopeN f)) else .park s .quiet)
    else releaseThen s tk t (scopeN f) fun s => .retire (s.acquireIf (coreOf tk) (scopeN f) (f.ord == 3))) s

end Sys2Proof.Machine
end

