-- ==== Sys2Proof/Machine/Atomic.lean ====
section
/-! DEFINITION. Atomics: rows 0x10 and 0x11 and the CAS cells of row 0x0D (R134 to R136, R230). -/

namespace Sys2Proof.Machine

/-- The value an atomic writes: op 0 to 7 of R134, 8 for CAS with a the compare value and b the new one (R135). -/
def atomNew (op n : Nat) (sx : Bool) (old a b : Nat) : Nat :=
  match op with
  | 0 => (old + a) % 2 ^ (8 * n)
  | 1 => (round .fp32 .rne false false ((readF32 false (.ofNat 32 old)).add .rne (readF32 false (.ofNat 32 a)))).enc.toNat
  | 2 => if sx then (if sext a (8 * n) < sext old (8 * n) then a else old) else min old a
  | 3 => if sx then (if sext old (8 * n) < sext a (8 * n) then a else old) else max old a
  | 4 => old &&& a
  | 5 => old ||| a
  | 6 => old ^^^ a
  | 7 => a
  | _ => if old = a then b else old

/-- Put bytes into a list at a place. -/
def splice (bs : List Byte) (at_ : Nat) (xs : List Byte) : List Byte := bs.take at_ ++ xs ++ bs.drop (at_ + xs.length)

/-- Perform operations on the bytes of a sector in ascending lane order: the new bytes, those touched, the old values (R135). -/
def applyOps (bs : List Byte) (ops : List AtomOp) : List Byte × BitVec 32 × List Nat :=
  ops.foldl (fun acc o =>
    let old := natOfBytes ((acc.1.drop o.off).take o.size)
    let new := atomNew o.op o.size o.sx old o.a o.b
    (splice acc.1 o.off (bytesOf o.size new), acc.2.1 ||| BitVec.ofNat 32 ((2 ^ o.size - 1) * 2 ^ o.off), acc.2.2 ++ [old])) (bs, 0, [])

/-- The operands of a lane: value, or compare value and new value for CAS. -/
def atomArgs (t : Team) (f : MF) (cas : Bool) (L : Nat) : Nat × Nat :=
  let d := f.data.toNat
  if f.size = 3 then ((t.rvd d L).toNat, if cas then (t.rvd (d + 2) L).toNat else 0)
  else ((t.rv d L).toNat, if cas then (t.rv (d + 1) L).toNat else 0)

/-- The register result of a lane: the old value, n bytes of bs. -/
def atomParts (d n L : Nat) (bs : List Src) : List Part := loadParts d n false L bs

/-- Perform the operations of one sector at its place when the package holds it writable, or in host memory; the old values,
or none when they must go elsewhere (R136). -/
def State.atomicHere (s : State) (core key : Nat) (ops : List AtomOp) : Option (State × List Nat) :=
  let p := pkgOf core
  let gpn := key / 2048
  let sec := key % 2048
  if isHost gpn then
    let (bs, _, olds) := applyOps (s.hostBytes (hostAddr gpn (32 * sec)) 32) ops
    some (s.setHostBytes (hostAddr gpn (32 * sec)) bs, olds)
  else match (s.pkg p).frameOf gpn with
    | some f =>
      if s.writesHere p key then
        let (bs, m, olds) := applyOps ((List.range 32).map fun i => (s.pkg p).byte f (32 * sec + i)) ops
        some (((s.writeGranule p f sec bs m).1).updPkg p (·.touch f), olds)
      else none
    | none => none

/-- A global atomic: the release it asks for, the write-back and drop of its sectors on the core's path, its operations at
once or as requests, its results, and its acquire (R135, R136, R230, R234). -/
def atomicGlobal (h : Hdr) (f : MF) (op : Nat) (ret : Bool) (s : State) (tk : Nat) (t : Team) : Act :=
  let n := sizeBytes f.size
  let core := coreOf tk
  let (s, r) := s.checkLanes tk t (t.act h) (eaGlobal t f) n true true false true
  checked s r fun ls =>
    let strong := strongPage ls
    let flat := ls.filterMap fun x => x.2.2.head?.map fun p => (x.1, x.2.1, p)
    let keys := (flat.map fun x => x.2.2.addr / 32).dedup
    let acq := ordN f = 1 || ordN f = 3 || strong
    let sc := if strong then 5 else scopeN f
    let body (s : State) : Act :=
      let s := s.acquireIf core 5 strong
      let s := keys.foldl (fun s key => s.purge key (corePath core)) s
      let asked := ((flat.map fun x => (x.1 / 32, x.2.2.addr / 32)).dedup).length
      if Config.coreRequests < s.heldRequests core + asked then .park s (.requests asked)
      else
        let res := keys.foldl (fun (acc : State × List Part × Bool) key =>
          let mine := flat.filter fun x => x.2.2.addr / 32 == key
          let ops := mine.map fun x =>
            let a := atomArgs t f (op == 8) x.1
            (⟨x.1, x.2.2.addr % 32, n, op, f.sx, a.1 % 2 ^ (8 * n), a.2 % 2 ^ (8 * n)⟩ : AtomOp)
          match acc.1.atomicHere core key ops with
          | some (s, olds) =>
            (s.noteWrite (some tk) (mine.map fun x => .glob x.2.2.addr),
              acc.2.1 ++ (mine.zip olds).flatMap (fun y => atomParts f.data.toNat n y.1.1 ((bytesOf n y.2).map .known)), acc.2.2)
          | none =>
            let s := acc.1
            let r := s.fresh
            let w : Issuer :=
              { tk := tk, serial := t.serial, addr := t.here, lanes := mine.map fun x => (x.1, x.2.1), leaf := mine.head?.map fun x => x.2.2.leaf }
            let s := (s.addRequest core key (BitVec.allOnes 32) (.atomic ops ret) w []).post (pkgOf core) r
            (s, acc.2.1 ++ mine.zipIdx.flatMap (fun y => atomParts f.data.toNat n y.1.1 ((List.range n).map fun i => .await r (8 * y.2 + i))),
              true)) (s, [], false)
        let s := if ret then res.1.updTeam tk fun u => u.writeLong res.2.1 else res.1
        if acq then (if res.2.2 then .hold s sc else .retire (s.acquire core sc)) else .retire s
    if strong then releaseThen s tk t 5 body
    else if 2 ≤ ordN f then releaseThen s tk t (scopeN f) body else body s

/-- A scratchpad atomic at its bank, lanes in ascending order (R135, R136, R217). -/
def atomicSp (h : Hdr) (f : MF) (op : Nat) (ret : Bool) (s : State) (tk : Nat) (t : Team) : Act :=
  let n := sizeBytes f.size
  let core := coreOf tk
  match s.checkSpLanes t (t.act h) (fun L => (eaScratch t f L).toNat) n true with
  | .error cs => .freeze s cs 0 0
  | .ok ls =>
    let sc := clampScope (scopeN f)
    let body (s : State) : Act :=
      let res := ls.foldl (fun (acc : State × List Part) x =>
        let a := atomArgs t f (op == 8) x.1
        let old := acc.1.spNat x.2.1 x.2.2 n
        let new := atomNew op n f.sx old (a.1 % 2 ^ (8 * n)) (a.2 % 2 ^ (8 * n))
        (acc.1.setSpBytes x.2.1 x.2.2 (bytesOf n new), acc.2 ++ atomParts f.data.toNat n x.1 ((bytesOf n old).map .known))) (s, [])
      let s := res.1.noteWrite (some tk) (ls.flatMap fun x => spLocs x.2.1 x.2.2 n)
      let s := s.updTeam tk fun u => (if ret then u.writeLong res.2 else u).addPasses (extraPasses ls n false)
      .retire (s.acquireIf core sc (ordN f = 1 || ordN f = 3))
    if 2 ≤ ordN f then releaseThen s tk t sc body else body s

def execAtomCas (h : Hdr) (f : MF) (s : State) : Res := issue (.atomCas h f) h (atomicGlobal h f 8 true) s
def execAtomsCas (h : Hdr) (f : MF) (s : State) : Res := issue (.atomsCas h f) h (atomicSp h f 8 true) s
def execAtom (h : Hdr) (op : BitVec 3) (f : MF) (s : State) : Res := issue (.atom h op f) h (atomicGlobal h f op.toNat true) s
def execRed (h : Hdr) (op : BitVec 3) (f : MF) (s : State) : Res := issue (.redK h op f) h (atomicGlobal h f op.toNat false) s
def execAtoms (h : Hdr) (op : BitVec 3) (f : MF) (s : State) : Res := issue (.atoms h op f) h (atomicSp h f op.toNat true) s
def execReds (h : Hdr) (op : BitVec 3) (f : MF) (s : State) : Res := issue (.reds h op f) h (atomicSp h f op.toNat false) s

end Sys2Proof.Machine
end

