-- ==== Sys2Proof/Machine/Copy.lean ====
section
/-! DEFINITION. Row 0x12 and the life of a transfer: copies, tiles, gathers and scatters, shape records, batches and their
waits, and the begin and completion of a transfer (R137 to R153, R236, R327). -/

namespace Sys2Proof.Machine

open Host

/-! ## Ranges and their checks -/

/-- A byte range of a transfer: global by virtual address, or of a scratchpad by share and offset. -/
inductive Rng where
  | glob (va : Word) (n : Nat)
  | sp (sh off n : Nat)
  deriving DecidableEq, Repr

/-- The parts of a global range by page: address of the part, and how its page translates. -/
def State.pagesOf (s : State) (core ctx : Nat) (va : Word) (n : Nat) (write : Bool) : State × List (Word × Tr) :=
  (List.range ((va.toNat % 65536 + n + 65535) / 65536)).foldl (fun acc i =>
    let a := if i = 0 then va else BitVec.ofNat 64 ((va.toNat / 65536 + i) * 65536)
    let (s, tr) := acc.1.translate core ctx a write
    (s, acc.2 ++ [(a, tr)])) (s, [])

/-- The lowest of some addresses. -/
def lowest (l : List Word) : Option Word := l.foldl (fun a x => match a with | none => some x | some y => if x < y then some x else some y) none

/-- What the page checks of a transfer answer: the leaves of each range by part, a cause with its address, or a walk. -/
inductive RngChk where
  | ok (ls : List (List (Word × Leaf))) | bad (c : Cause) (ea : Word) | wait (ix : Nat)
  deriving DecidableEq, Repr

/-- TRANSLATION on every page of the ranges, then PERMISSION on every page (R142). -/
def State.checkRanges (s : State) (core ctx : Nat) (rs : List (Word × Nat × Bool)) : State × RngChk :=
  let r := rs.foldl (fun (acc : State × List (Bool × List (Word × Tr))) x =>
    let (s, ps) := acc.1.pagesOf core ctx x.1 x.2.1 x.2.2
    (s, acc.2 ++ [(x.2.2, ps)])) (s, [])
  let s := r.1
  let all := r.2.flatMap fun x => x.2.map fun y => (x.1, y.1, y.2)
  (s, match all.findSome? fun x => match x.2.2 with | .wait ix => some ix | _ => none with
    | some ix => .wait ix
    | none =>
      match lowest (all.filterMap fun x => match x.2.2 with | .ok l => if l.ord = 3 then some x.2.1 else none | _ => some x.2.1) with
      | some ea => .bad .translation ea
      | none =>
        match lowest (all.filterMap fun x => match x.2.2 with
            | .ok l => if (x.1 && !l.w) || s.pooled l.gpn then some x.2.1 else none | _ => none) with
        | some ea => .bad .permission ea
        | none => .ok (r.2.map fun x => x.2.filterMap fun y => match y.2 with | .ok l => some (y.1, l) | _ => none))

/-- The place of a virtual byte of a checked range. -/
def placeOf (ls : List (Word × Leaf)) (va : Word) : Loc :=
  match ls.find? fun x => x.1.toNat / 65536 == va.toNat / 65536 with
  | some x => .glob (65536 * x.2.gpn + va.toNat % 65536)
  | none => .glob 0

/-- A scratchpad range of a team, within SPBYTES (R123, R142). -/
def State.spRange (s : State) (t : Team) (a : Lane32) (n : Nat) : Option (Nat × Nat) :=
  match s.resolve t a.toNat with
  | none => none
  | some (sh, off) => if s.spBytesOf t sh < off + n then none else some (sh, off)

/-! ## Registration (R137, R139) -/

/-- The lock entry of a range, with the core whose table holds it. -/
def State.lockFor (s : State) (t : Team) (core x : Nat) (write : Bool) : Rng → Nat × Lock
  | .glob va n => (core, { xfer := x, write := write, ctx := some t.ctx, sh := 0, lo := va.toNat, hi := va.toNat + n })
  | .sp sh off n => (((s.share sh).bind (·.core)).getD core, { xfer := x, write := write, ctx := none, sh := sh, lo := off, hi := off + n })

/-- An earlier transfer holds a lock that keeps x from beginning, x's locks being those given (R139). -/
def State.conflicts (s : State) (x : Nat) (ls : List (Nat × Lock)) : Bool :=
  ls.any fun a => ((s.core a.1).locks).any fun b =>
    decide (b.xfer < x) && b.ctx == a.2.ctx && b.sh == a.2.sh && b.overlaps a.2.lo (a.2.hi - a.2.lo) && (a.2.write || b.write)

/-- The bell operand (R141). -/
def bellOf (f : SF) : Option Nat := if f.imm.getLsbD 4 then some (f.imm.toNat % 16) else none

/-- A new transfer; of the leaves of the pages that it touches, one a page. -/
def newXfer (tk : Nat) (t : Team) (src : List (Option Loc)) (dst : List Loc) (scope : Nat) (bell : Option Nat) (leaves : List Leaf) : Xfer :=
  { tk := tk, serial := t.serial, core := coreOf tk, share := t.share, grid := t.grid, src := src, dst := dst, scope := scope, bell := bell
    leaves := leaves.foldl (fun ls l => if ls.any fun m => m.gpn == l.gpn then ls else ls ++ [l]) [] }

/-! ## The reads of a transfer (R236, R339) -/

def State.updXfer (s : State) (x : Nat) (f : Xfer → Xfer) : State :=
  match s.xfer x with | some e => { s with xfers := put s.xfers x (f e) } | none => s

/-- A transfer raises its copy status (R149). -/
def State.raiseStatus (s : State) (x n : Nat) : State := s.updXfer x fun e => { e with status := max e.status n }

/-- The frame of a package that drains for a transfer, and the package whose frame drains, or will drain, for it (R327). -/
def State.drainFor (s : State) (x p gpn : Nat) : Option Nat :=
  ((s.pkg p).frameOf gpn).bind fun f =>
    if ((s.pkg p).tag f).state == .draining && (s.pkg p).drains.contains (f, x) then some f else none
def State.drainAt (s : State) (x gpn : Nat) : Option Nat :=
  (s.pkgs.find? fun k => (k.2.frameOf gpn).any fun f =>
    ((k.2.tag f).state == .draining || (k.2.tag f).state == .moving) && k.2.drains.contains (f, x)).map (·.1)

/-- The leaf of a page that a transfer touches. -/
def Xfer.leaf (e : Xfer) (gpn : Nat) : Option Leaf := e.leaves.find? fun l => l.gpn == gpn

/-- The scope whose point of coherence serves a page of a transfer (R234, R236). -/
def Xfer.point (e : Xfer) (gpn : Nat) : Nat := (e.leaf gpn).elim e.scope fun l => pointScope l e.scope

/-- Read the masked bytes of a sector for a transfer: what the package holds at once, in a frame that drains for it too, and a
request for the rest, or behind an earlier load of the team (R224, R236, R254, R327). -/
def State.xferSector (s : State) (x : Nat) (e : Xfer) (key : Nat) (mask : BitVec 32) : State × List XByte :=
  let p := pkgOf e.core
  let gpn := key / 2048
  let off := 32 * (key % 2048)
  let scope := e.point gpn
  let frame (s : State) (f : Nat) : State × List XByte :=
    match s.readGranule p f (key % 2048) with
    | (s, true) => (s.raiseStatus x 1, List.replicate 32 .poison)
    | (s, false) => (s, (List.range 32).map fun i => .known ((s.pkg p).byte f (off + i)))
  let ask (s : State) : State × List XByte :=
    (s.addRequest e.core key mask .load { serial := e.serial, leaf := e.leaf gpn, xfer := some x } [[], [], []],
      (List.range 32).map fun j => match s.dirtyByte e.core key scope j with | some b => .known b | none => .await s.fresh j)
  match s.drainFor x p gpn with
  | some f => frame s f
  | none =>
    if (s.drainAt x gpn).isSome then ask s
    else if (s.pkg p).knownLost gpn then (s.raiseStatus x 2, List.replicate 32 .lost)
    else match if s.poisonedAt p gpn off 32 then (s.pkg p).frameOf gpn else none with
      | some f => frame s f
      | none =>
        if s.loading p e.serial key mask then ask s
        else match s.readSector e.core key mask scope ((e.leaf gpn).any (·.ord == 2)) with
          | (s, some bs) => (s, bs.map .known)
          | (s, none) => ask s

/-- A byte that a transfer under way before this one is to write: it is read when this one begins (R139). -/
def State.toWrite (s : State) (x a : Nat) : Bool := s.xfers.any fun y => decide (y.1 < x) && y.2.dst.contains (.glob a)

/-- Read the source bytes of a transfer that are still to be read, those of global memory that pass a test (R143, R339). -/
def State.readSource (s : State) (x : Nat) (e : Xfer) (now : Nat → Bool) (sp : Bool) : State :=
  let old (i : Nat) : XByte := (e.got.elim .later fun l => l.getD i .later)
  let due := e.src.zipIdx.filterMap fun y => match y.1, old y.2 with | some (.glob a), .later => if now a then some a else none | _, _ => none
  let r := ((due.map (· / 32)).dedup).foldl (fun (acc : State × List (Nat × List XByte)) key =>
    let m := (due.filter fun a => a / 32 == key).foldl (fun m a => m ||| BitVec.ofNat 32 (2 ^ (a % 32))) 0
    let (s, bs) := acc.1.xferSector x e key m
    (s, acc.2 ++ [(key, bs)])) (s, [])
  let got := e.src.zipIdx.map fun y => match old y.2 with
    | .later => (match y.1 with
      | none => .known 0
      | some (.sp sh off) => if sp then .known (s.spByte sh off) else .later
      | some (.glob a) => if now a then ((find r.2 (a / 32)).getD []).getD (a % 32) .failed else .later)
    | b => b
  r.1.updXfer x fun e => { e with got := some got }

/-- The reads of a transfer that are placed at its issue: every byte of global memory that no earlier transfer is to write (R339). -/
def State.placeReads (s : State) (x : Nat) : State :=
  match s.xfer x with
  | none => s
  | some e => s.readSource x e (fun a => !s.toWrite x a) false

/-- Register a transfer with its locks and place its reads, or park until the entries are free (R137, R339). -/
def register (s : State) (tk : Nat) (t : Team) (x : Xfer) (src dst : Rng) : Act :=
  let n := s.fresh
  let ls := [s.lockFor t (coreOf tk) n false src, s.lockFor t (coreOf tk) n true dst]
  let need := (ls.map (·.1)).dedup.map fun c => (c, (ls.filter fun l => l.1 == c).length)
  if !(need.all fun x => s.locksFree x.1 x.2) then .park s (.locks need)
  else
    let x := { x with waits := s.conflicts n ls }
    let s := ls.foldl (fun s l => s.updCore l.1 fun k => { k with locks := k.locks ++ [l.2] }) s.bump
    .retire (({ s with xfers := put s.xfers n x }.placeReads n).updTeam tk fun u => { u with forming := u.forming ++ [n], formed := true })

/-- A transfer of no bytes registers nothing and completes at once; its batch has had a transfer (R137, R150). -/
def emptyXfer (s : State) (tk : Nat) (t : Team) (bell : Option Nat) : Act :=
  .retire ((match bell with | some b => s.bellArrive t.share b | none => s).updTeam tk fun u => { u with formed := true })

/-! ## CPY (R142) -/

/-- CPY; the addresses that its first two checks record are the model's (log 72). -/
def execCpy (h : Hdr) (f : SF) (s : State) : Res :=
  issue (.cpy h f) h (once h fun s tk t =>
    let core := coreOf tk
    let n := ((t.rs (f.id.toNat % 64)).setWidth 32 : Lane32).toNat
    let da := t.rs f.s1.toNat
    let sa := t.rs f.s2.toNat
    let dir := f.sub.toNat % 4
    let srcSp := dir = 2 ∨ dir = 3
    let dstSp := dir = 1 ∨ dir = 3
    let bell := bellOf f
    if n % 4 != 0 || (sa.toNat % 4 != 0) || (da.toNat % 4 != 0) then
      .fault s h .misaligned 0 0 (if da.toNat % 4 != 0 then da else sa)
    else
      let sSp := s.spRange t (sa.setWidth 32) n
      let dSp := s.spRange t (da.setWidth 32) n
      if srcSp ∧ sSp.isNone then .fault s h .bounds 0 0 (sa &&& 0xFFFFFFFF)
      else if dstSp ∧ dSp.isNone then .fault s h .bounds 0 0 (da &&& 0xFFFFFFFF)
      else if n = 0 then emptyXfer s tk t bell
      else
        let rs := (if srcSp then [] else [(sa, n, false)]) ++ (if dstSp then [] else [(da, n, true)])
        match s.checkRanges core t.ctx rs with
        | (s, .wait ix) => .park s (.walk ix)
        | (s, .bad c ea) => .fault s h c 0 0 ea
        | (s, .ok ls) =>
          let sLeaves := ls.headD []
          let dLeaves := ls.getLastD []
          let bytes (sp : Prop) [Decidable sp] (at_ : Option (Nat × Nat)) (lv : List (Word × Leaf)) (va : Word) : List Loc :=
            (List.range n).map fun i =>
              if sp then .sp (at_.elim 0 (·.1)) (at_.elim 0 (·.2) + i) else placeOf lv (va + BitVec.ofNat 64 i)
          let scope := if dstSp then clampScope (f.sub.toNat / 4) else f.sub.toNat / 4
          let rng (sp : Prop) [Decidable sp] (at_ : Option (Nat × Nat)) (va : Word) : Rng :=
            if sp then .sp (at_.elim 0 (·.1)) (at_.elim 0 (·.2)) n else .glob va n
          register s tk t (newXfer tk t ((bytes srcSp sSp sLeaves sa).map some) (bytes dstSp dSp dLeaves da) scope bell (ls.flatten.map (·.2)))
            (rng srcSp sSp sa) (rng dstSp dSp da)) s

/-! ## Shape records (R144 to R146) -/

structure Shape where
  base : Word
  rank : Nat
  fmt : Nat
  dims : List Nat
  strides : List Nat
  exts : List Nat
  res : Bool
  deriving DecidableEq, Repr

/-- The fields of a record (Table 05-6). -/
def Shape.ofBytes (bs : List Byte) : Shape :=
  let w (i : Nat) : Nat := natOfBytes ((bs.drop (8 * i)).take 8)
  { base := BitVec.ofNat 64 (w 0), rank := w 1 / 16 % 8, fmt := w 1 % 16
    dims := [w 2 % 2 ^ 32, w 2 / 2 ^ 32, w 3 % 2 ^ 32, w 3 / 2 ^ 32, w 4 % 2 ^ 32]
    strides := [w 4 / 2 ^ 32, w 5 % 2 ^ 32, w 5 / 2 ^ 32, w 6 % 2 ^ 32, w 6 / 2 ^ 32]
    exts := (List.range 5).map fun d => w 7 / 2 ^ (12 * d) % 4096
    res := w 1 / 128 != 0 || w 7 / 2 ^ 60 != 0 }

def Shape.ds (x : Shape) : List Nat := List.range x.rank
/-- Positions of a tile (R146, R147). -/
def Shape.count (x : Shape) : Nat := ((x.exts.take x.rank).foldl (· * ·) 1)
/-- Bits of an element. -/
def Shape.width (x : Shape) : Nat := (fmtOf x.fmt).elim 0 fmtBits
/-- Bytes of a tile in scratchpad. -/
def Shape.bytes (x : Shape) : Nat := (x.count * x.width + 7) / 8

/-- Bytes of a tile in plane layout: every plane word of every group (R85, R147). -/
def Shape.planeBytes (x : Shape) : Nat := 8 * (x.count / 64) * ((fmtOf x.fmt).elim 0 fun f => (fmtPlanes f).1 + (fmtPlanes f).2)

/-- The first condition of Table 05-7 that fails, by its subcode. -/
def Shape.bad (x : Shape) (version : Nat) (plane : Bool) : Option Nat :=
  let planeFmt := (fmtOf x.fmt).any fun f => (fmtPlanes f).1 != 0
  if !canonical x.base || x.base.toNat % 16 != 0 then some 1
  else if x.rank = 0 ∨ 5 < x.rank then some 2
  else if 9 < x.fmt ∨ (x.fmt = 7 ∧ version = 1) then some 3
  else if x.res then some 4
  else if x.ds.any fun d => x.dims.getD d 0 == 0 then some 5
  else if x.ds.any fun d => x.exts.getD d 0 == 0 then some 6
  else if x.strides.getD 0 0 == 0 || (x.ds.any fun d => d != 0 && decide (x.strides.getD d 0 < x.strides.getD (d - 1) 0 * x.dims.getD (d - 1) 0)) then
    some 7
  else if plane && (!planeFmt || x.count % 64 != 0) then some 8 else none

/-- What a word finds of n bytes that it reads before it acts: the bytes, sectors that must be requested, or that their request has
failed. -/
inductive Read where
  | ok (bs : List Byte) | missing (keys : List Nat) | failed
  deriving DecidableEq, Repr

/-- The bytes of a sector that a word reads at a scope: what a request brought for it, under dirty bytes of the core's path, or what the
package holds. -/
def State.readSectorFor (s : State) (core : Nat) (t : Team) (scope key : Nat) (mask : BitVec 32) : State × Option (List Byte) :=
  match find t.brought key with
  | some bs => (s, some ((List.range 32).map fun j => (s.dirtyByte core key scope j).getD (bs.getD j 0)))
  | none => if s.loading (pkgOf core) t.serial key mask then (s, none) else s.readSector core key mask scope false

/-- Bytes that a team's instruction reads as a load before it acts. -/
def State.readNow (s : State) (core : Nat) (t : Team) (scope a n : Nat) : State × Read :=
  let r := (coverKeys a n).foldl (fun (acc : State × List (Nat × List Byte) × List Nat) key =>
    match acc.1.readSectorFor core t scope key (coverMask key a n) with
    | (s, some bs) => (s, acc.2.1 ++ [(key, bs)], acc.2.2)
    | (s, none) => (s, acc.2.1, acc.2.2 ++ [key])) (s, [], [])
  (r.1, if r.2.2.isEmpty then
      .ok ((List.range n).map fun i => ((find r.2.1 ((a + i) / 32)).getD []).getD ((a + i) % 32) 0)
    else .missing r.2.2)

/-- A request of the word has failed: its report stands for the word, which has no effect (R269, R289; log 81). -/
def Team.lostRead (t : Team) : Bool := t.brought.any fun b => b.2.isEmpty

/-- Request the sectors that a word reads and the package does not hold, and wait for them; they climb as loads of the team's
Active lanes (R145, R175, R187, R254). -/
def bring (s : State) (h : Hdr) (tk : Nat) (t : Team) (va : Word) (l : Leaf) (scope a n : Nat) (keys : List Nat) : Act :=
  let lanes := match t.act h with | [] => [(0, va)] | ls => ls.map fun L => (L, va)
  let r := keys.foldl (fun (acc : State × List Nat) key =>
    let s := acc.1
    let w : Issuer := { tk := tk, serial := t.serial, addr := t.here, lanes := lanes, leaf := some l, bring := true }
    (s.addRequest (coreOf tk) key (coverMask key a n) .load w (s.pathGens (coreOf tk) scope), acc.2 ++ [s.fresh])) (s, [])
  .park r.1 (.fetched r.2)

/-- Read n bytes at an aligned virtual address as a checked load that acts once for the team, or freeze, or wait for their
sectors; on a STRONG page past the caches, as FENCE.ar before and after itself (R145, R175, R187, R234). -/
def readChecked (s : State) (h : Hdr) (tk : Nat) (t : Team) (va : Word) (n : Nat) (write lockCheck : Bool)
    (go : State → Nat → List Byte → Act) : Act :=
  if t.lostRead then .retire s
  else match s.checkGlobal (coreOf tk) t.ctx va n write false false lockCheck with
  | (s, .wait ix) => .park s (.walk ix)
  | (s, .bad c) => .fault s h c 0 0 va
  | (s, .ok ps) =>
    let a := (ps.head?).elim 0 (·.addr)
    let strong := ps.any fun p => p.leaf.ord == 1
    let scope := if strong then 5 else 0
    let body (s : State) : Act := match s.readNow (coreOf tk) t scope a n, ps.head? with
      | (s, .ok bs), _ => go (s.acquireIf (coreOf tk) 5 strong) a bs
      | (s, .missing keys), some p => bring s h tk t va p.leaf scope a n keys
      | (s, _), _ => .retire s
    if strong then releaseThen s tk t 5 fun s => body (s.acquire (coreOf tk) 5) else body s

def execShape (h : Hdr) (f : SF) (s : State) : Res :=
  issue (.shape h f) h (once h fun s tk t =>
    readChecked s h tk t (t.rs f.s1.toNat) 64 false true fun s _ bs =>
      let x := Shape.ofBytes bs
      match x.bad t.version false with
      | some sub => .fault s h .shape sub 0 (t.rs f.s1.toNat)
      | none => .retire (s.updTeam tk fun u => u.longS f.s2.toNat (BitVec.ofNat 64 x.bytes))) s

/-! ## CPYT (R147) -/

/-- Tile index of a position. -/
def tileIx : List Nat → Nat → List Nat
  | [], _ => []
  | e :: es, pos => pos % e :: tileIx es (pos / e)

/-- The tile's origin from the coordinate registers. -/
def tileOrigin (t : Team) (n : Nat) : List Nat :=
  let w (i : Nat) : Nat := (t.rs (n + i)).toNat
  [w 0 % 2 ^ 32, w 0 / 2 ^ 32, w 1 % 2 ^ 32, w 1 / 2 ^ 32, w 2 % 2 ^ 32]

/-- The element offset of each tile position, in elements; none out of bounds. -/
def Shape.offsets (x : Shape) (c : List Nat) : List (Option Nat) :=
  (List.range x.count).map fun pos =>
    let e := (tileIx (x.exts.take x.rank) pos).zipIdx.map fun y => c.getD y.2 0 + y.1
    if e.zipIdx.all fun y => y.1 < x.dims.getD y.2 0 then some ((e.zipIdx.map fun y => y.1 * x.strides.getD y.2 0).foldl (· + ·) 0)
    else none

/-- First byte and number of bytes of an element. -/
def Shape.elemAt (x : Shape) (o : Nat) : Nat × Nat := if x.width = 4 then (o / 2, 1) else (x.width / 8 * o, x.width / 8)

def execCpyt (h : Hdr) (f : SF) (s : State) : Res :=
  issue (.cpyt h f) h (once h fun s tk t =>
    let core := coreOf tk
    let load := !f.sub.getLsbD 0
    let plane := f.sub.getLsbD 4
    let rec_ := t.rs f.s1.toNat
    readChecked s h tk t rec_ 64 false true fun s _ bs =>
      let x := Shape.ofBytes bs
      match x.bad t.version plane with
      | some sub => .fault s h .shape sub 0 rec_
      | none =>
        let sa : Lane32 := (t.rs f.s2.toNat).setWidth 32
        let area := if plane then x.planeBytes else x.bytes
        if sa.toNat % 16 != 0 then .fault s h .misaligned 0 0 (sa.setWidth 64)
        else match s.spRange t sa area with
          | none => .fault s h .bounds 0 0 (sa.setWidth 64)
          | some (sh, off) =>
            let offs := x.offsets (tileOrigin t (f.id.toNat % 64))
            let elems := offs.filterMap id
            let va (o : Nat) : Word := x.base + BitVec.ofNat 64 (x.elemAt o).1
            -- pages of every in-bounds element, element by element
            match s.checkRanges core t.ctx (elems.map fun o => (va o, (x.elemAt o).2, !load)) with
            | (s, .wait ix) => .park s (.walk ix)
            | (s, .bad c ea) => .fault s h c 0 0 ea
            | (s, .ok ls) =>
              let lv := ls.flatten
              let gl (o i : Nat) : Loc := placeOf lv (va o + BitVec.ofNat 64 i)
              let n := (x.elemAt 0).2
              let spAll : List Loc := spLocs sh off area
              let glAll : List Loc := elems.flatMap fun o => (List.range n).map (gl o)
              -- tensor bytes stand in the order of the in-bounds elements, n bytes each
              let rank_ := offs.foldl (fun (acc : List (Option Nat) × Nat) o => match o with
                | some _ => (acc.1 ++ [some acc.2], acc.2 + 1) | none => (acc.1 ++ [none], acc.2)) ([], 0)
              let bitOf (o : Option Nat) (r : Option Nat) : Option Nat := match o, r with
                | some o, some r => some (8 * n * r + (if x.width = 4 then 4 * (o % 2) else 0)) | _, _ => none
              let bits := (offs.zip rank_.1).map fun y => bitOf y.1 y.2
              let scope := if load then clampScope (f.sub.toNat / 2 % 8) else f.sub.toNat / 2 % 8
              let w := x.width / 8
              -- an INT4 store writes whole bytes: a nibble of a byte that no element takes is the byte's own
              let cells := glAll.dedup
              let nibs := (elems.zip glAll).map fun y => 2 * cells.idxOf y.2 + y.1 % 2
              let kept := (List.range (2 * cells.length)).filter fun k => !nibs.contains k
              let (src, dst, form) : List (Option Loc) × List Loc × XForm :=
                match (if plane then fmtOf x.fmt else none) with
                | some fm => (glAll.map some, spAll, .planes fm bits)
                | none =>
                  if x.width = 4 then
                    (if load then (glAll.map some, spAll, .nibbles (bits.zipIdx.map fun y => (y.1.map (· / 4), y.2)))
                     else
                      (spAll.map some ++ kept.map (fun k => some (cells.getD (k / 2) (.glob 0))), cells,
                        .nibbles (((offs.zip rank_.1).zipIdx.filterMap fun y => y.1.2.map fun r => (some y.2, nibs.getD r 0)) ++
                          kept.zipIdx.map fun y => (some (2 * (spAll.length + y.2) + y.1 % 2), y.1))))
                  else if load then (offs.flatMap fun o => (List.range w).map fun i => o.map fun o => gl o i, spAll, .bytes)
                  else
                    ((offs.zipIdx.filterMap fun y => y.1.map fun _ => (List.range w).map fun i => some (.sp sh (off + w * y.2 + i))).flatten,
                      glAll, .bytes)
              let addrs := elems.map fun o => (va o).toNat
              let lo := addrs.foldl min (addrs.headD 0)
              let hi := addrs.foldl max 0 + n
              let gr : Rng := if addrs.isEmpty then .glob 0 0 else .glob (BitVec.ofNat 64 lo) (hi - lo)
              let sr : Rng := .sp sh off area
              let x := { newXfer tk t src dst scope (bellOf f) (lv.map (·.2)) with form := form }
              if !load && elems.isEmpty then emptyXfer s tk t (bellOf f)
              else if load then register s tk t x gr sr else register s tk t x sr gr) s

/-! ## GATH and SCAT (R148) -/

/-- Check the two sides of each Active lane, form the transfer, and register it; `gath`: global to scratchpad. A lane's record holds
its global address, whichever side fails (log 82); its scratchpad position is taken modulo 2^32 (the model's choice: log 106). -/
def gatherScatter (h : Hdr) (f : SF) (gath : Bool) (s : State) (tk : Nat) (t : Team) : Act :=
  let core := coreOf tk
  let n := 2 ^ (f.sub.toNat % 8)
  let ga (L : Nat) : Word := t.rvd f.v.toNat L + t.rs f.s2.toNat
  let sa (L : Nat) : Nat := ((t.rs f.s1.toNat).toNat + L * n) % 2 ^ 32
  let r := (t.act h).foldl (fun (acc : State × List (Nat × Chk × Except Cause (Nat × Nat))) L =>
    let (s, c) := acc.1.checkGlobal core t.ctx (ga L) n (!gath) false false false
    (s, acc.2 ++ [(L, c, s.checkSp t (sa L) n gath false)])) (s, [])
  let s := r.1
  match r.2.findSome? fun x => match x.2.1 with | .wait ix => some ix | _ => none with
  | some ix => .park s (.walk ix)
  | none =>
    let cause (x : Nat × Chk × Except Cause (Nat × Nat)) : Option Cause :=
      let g : Option Cause := match x.2.1 with | .bad c => some c | _ => none
      match g, x.2.2 with
      | some c, .error d => some (if d.index < c.index then d else c)
      | some c, .ok _ => some c
      | none, .error d => some d
      | none, .ok _ => none
    if r.2.any fun x => (cause x).isSome then .freeze s (r.2.map fun x => (x.1, cause x, ga x.1)) 0 0
    else
      let lanes := r.2.filterMap fun x => match x.2.1, x.2.2 with
        | .ok ps, .ok y => (ps.head?).map fun p => (x.1, p.addr, y.1, y.2) | _, _ => none
      let leaves := r.2.flatMap fun x => match x.2.1 with | .ok ps => ps.map (·.leaf) | _ => []
      if lanes.isEmpty then emptyXfer s tk t (bellOf f)
      else
        let gl := lanes.flatMap fun x => (List.range n).map fun i => Loc.glob (x.2.1 + i)
        let sp := lanes.flatMap fun x => spLocs x.2.2.1 x.2.2.2 n
        let gs := lanes.map fun x => (ga x.1).toNat
        let ss := lanes.map fun x => x.2.2.2
        let lo := gs.foldl min (gs.headD 0)
        let so := ss.foldl min (ss.headD 0)
        let gr : Rng := .glob (BitVec.ofNat 64 lo) (gs.foldl max 0 + n - lo)
        let sr : Rng := .sp (lanes.head?.elim 0 fun x => x.2.2.1) so (ss.foldl max 0 + n - so)
        let sc := f.sub.toNat / 8
        if gath then register s tk t (newXfer tk t (gl.map some) sp (clampScope sc) (bellOf f) leaves) gr sr
        else register s tk t (newXfer tk t (sp.map some) gl sc (bellOf f) leaves) sr gr

def execGath (h : Hdr) (f : SF) (s : State) : Res := issue (.gath h f) h (gatherScatter h f true) s
def execScat (h : Hdr) (f : SF) (s : State) : Res := issue (.scat h f) h (gatherScatter h f false) s

/-! ## Batches (R150 to R152) -/

/-- Drop completed batches from the open ones and set sr.batchdone. -/
def Team.settleBatches (t : Team) : Team :=
  let open_ := t.batches.dropWhile fun b => b.2.isEmpty
  { t with batches := open_, batchDone := match open_ with | [] => t.batch | b :: _ => b.1 - 1 }

/-- A transfer of the team is complete: its batch, the copy status and the scope that the next wait acquires. -/
def Team.transferDone (t : Team) (x scope status : Nat) : Team :=
  ({ t with
    forming := t.forming.filter (· != x)
    batches := (t.batches.map fun b => (b, b.2.contains x)).filterMap fun b =>
      let rest := b.1.2.filter (· != x)
      if b.2 && rest.isEmpty then none else some (b.1.1, rest)
    copyStatus := max t.copyStatus status
    copyScope := max t.copyScope scope } : Team).settleBatches

/-- BATCH: a batch whose transfers have all completed is complete when it closes, and an empty one when every earlier batch is
(R150). -/
def execBatch (h : Hdr) (f : SF) (s : State) : Res :=
  issue (.batch h f) h (once h fun s tk t =>
    let done := t.formed && t.forming.isEmpty
    if !done && 64 ≤ t.batches.length then .park s .batchRoom
    else
      let n := t.batch + 1
      let open_ := if done then t.batches else t.batches ++ [(n, t.forming)]
      let t := ({ t with batch := n, batches := open_, forming := [], formed := false } : Team).settleBatches
      .retire (s.setTeam tk (t.longS f.s1.toNat (n.setWidth 64)))) s

def execCwait (h : Hdr) (f : SF) (s : State) : Res :=
  issue (.cwait h f) h (once h fun s tk t =>
    -- a wait that has parked waits for the batch it meant when it issued (R52)
    let m := (t.latch.bind (·.head?)).elim (t.batchMeant (if f.sub.getLsbD 0 then (t.rs f.s1.toNat).setWidth 16 else f.imm)) (·.setWidth 16)
    if !t.batchOk m then .park (s.setTeam tk { t with latch := some [m.setWidth 64] }) (.batch m)
    else .retire ((s.copyAcquire tk t).updTeam tk fun u =>
      { u.longS f.s2.toNat (BitVec.ofNat 64 u.copyStatus) with copyStatus := 0 })) s

/-- The CSTAT word (R152). -/
def State.cstat (s : State) (t : Team) : Word :=
  let mine := (s.xfers.filter fun x => x.2.serial == t.serial && x.2.share == t.share).map (·.1)
  let locks := (s.cores.map fun c => (c.2.locks.filter fun l => mine.contains l.xfer).length).foldl (· + ·) 0
  BitVec.ofNat 64 (t.copyStatus % 256 + 2 ^ 8 * (t.batches.length % 256) + 2 ^ 16 * t.batchDone.toNat + 2 ^ 32 * t.batch.toNat
    + 2 ^ 48 * (locks % 256))

def execCstat (h : Hdr) (f : SF) (s : State) : Res :=
  issue (.cstat h f) h (once h fun s tk t => .retire (s.updTeam tk fun u => u.longS f.s1.toNat (s.cstat t))) s

/-! ## Transfers under way (R139, R140, R143, R149, R236) -/

/-- Change the team of a package with a serial, wherever it is. -/
def State.updTeamOf (s : State) (p serial : Nat) (f : Team → Team) : State :=
  { s with teams := s.teams.map fun (e : Nat × Team) => if pkgOfTeam e.1 = p ∧ e.2.serial = serial then (e.1, f e.2) else e }

/-- The locks of a transfer, by core. -/
def State.locksOf (s : State) (x : Nat) : List (Nat × Lock) :=
  s.cores.flatMap fun c => (c.2.locks.filter fun l => l.xfer == x).map fun l => (c.1, l)

/-- An earlier transfer holds a lock that keeps x from beginning (R139). -/
def State.mustWait (s : State) (x : Nat) : Bool := s.conflicts x (s.locksOf x)

/-- An earlier transfer of the same core, or with locks in a table of x, waits to begin (R139). -/
def State.queuedBehind (s : State) (x : Nat) (e : Xfer) : Bool :=
  let tables := (s.locksOf x).map (·.1)
  s.xfers.any fun y => decide (y.1 < x) && y.2.waits && !y.2.started &&
    (y.2.core == e.core || (s.locksOf y.1).any fun l => tables.contains l.1)

/-- A transfer begins: it reads what its issue left of its source (R139, R143). -/
def State.beginXfer (s : State) (x : Nat) (e : Xfer) : State :=
  (s.readSource x e (fun _ => true) true).updXfer x fun e => { e with started := true }

def execTransferBegin (x : Nat) (s : State) : Res :=
  .next (match s.xfer x with
    | none => s
    | some e => if e.started || s.mustWait x || (e.waits && s.queuedBehind x e) then s else s.beginXfer x e)

/-- The value of bit b of a list of bytes. -/
def bitAt (bs : List Byte) (b : Nat) : Bool := (bs.getD (b / 8) 0).getLsbD (b % 8)

/-- Group and plane of word w of the plane area of G groups with h planes of the first kind and sg of the second (R85). -/
def areaWord (G h sg w : Nat) : Nat × Nat := if w < G * h then (w / h, w % h) else ((w - G * h) / sg, h + (w - G * h) % sg)

/-- The bytes of a plane area (R85): elements by position, each given by the bit where its encoding begins, none for zero. -/
def planeArea (f : Fmt) (elems : List (Option Nat)) (src : List Byte) : List Byte :=
  let G := elems.length / 64
  let (h, sg) := fmtPlanes f
  let enc (pos : Nat) : Nat := match elems.getD pos none with
    | none => 0
    | some b => (List.range (fmtBits f)).foldl (fun a i => if bitAt src (b + i) then a + 2 ^ i else a) 0
  let word (w : Nat) : Nat :=
    let (g, p) := areaWord G h sg w
    (List.range 64).foldl (fun a e => if planeBit f p (enc (64 * g + e)) then a + 2 ^ e else a) 0
  (List.range (G * (h + sg))).flatMap fun w => bytesOf 8 (word w)

/-- The bytes of the destination from those of the source, before anything is written (R143); `old` are the destination's. -/
def XForm.apply (f : XForm) (src old : List Byte) : List Byte :=
  match f with
  | .bytes => src
  | .planes fm es => planeArea fm es src
  | .nibbles m => m.foldl (fun bs x =>
      let v : BitVec 8 := match x.1 with | some i => (src.getD (i / 2) 0) >>> (4 * (i % 2)) &&& 15 | none => 0
      let b := bs.getD (x.2 / 2) 0
      bs.set (x.2 / 2) (if x.2 % 2 = 0 then (b &&& 0xF0) ||| v else (b &&& 0x0F) ||| v <<< 4)) old

/-- The source bytes that byte i of the destination comes from. -/
def XForm.sources (f : XForm) (i : Nat) : List Nat :=
  match f with
  | .bytes => [i]
  | .nibbles m => m.filterMap fun y => if y.2 / 2 = i then y.1.map (· / 2) else none
  | .planes fm es =>
    let (h, sg) := fmtPlanes fm
    ((es.drop (64 * (areaWord (es.length / 64) h sg (i / 8)).1)).take 64).flatMap fun e =>
      e.elim [] fun b => (List.range ((fmtBits fm + 7) / 8)).map fun j => b / 8 + j

def XByte.waits : XByte → Bool | .await _ _ => true | _ => false
def XByte.byte : XByte → Byte | .known b => b | _ => 0
/-- What a source byte does to the bytes made from it: nothing, poison, loss, or their sectors stay old (R149). -/
def XByte.harm : XByte → Nat | .known _ => 0 | .await _ _ => 0 | .poison => 1 | .lost => 2 | .failed => 3 | .later => 3

/-- Every destination byte with its value and its harm. -/
def State.xferCells (s : State) (e : Xfer) (got : List XByte) : List (Loc × Byte × Nat) :=
  let old := e.dst.map fun l => match l with | .sp sh off => s.spByte sh off | .glob _ => 0
  let out := e.form.apply (got.map (·.byte)) old
  let clean := got.all fun b => b.harm == 0
  (e.dst.zip out).zipIdx.map fun y =>
    (y.1.1, y.1.2, if clean then 0 else ((e.form.sources y.2).map fun j => (got.getD j (.known 0)).harm).foldl max 0)

/-- Write the bytes of one sector for a transfer, at the point of coherence of its scope, or in a frame that drains for it; a write
that leaves the package is a request of the transfer (R149, R236, R327). `taint` poisons the granule in place of a write. -/
def State.xferWrite (s : State) (x : Nat) (e : Xfer) (key : Nat) (bytes : List Byte) (mask : BitVec 32) (taint : Bool) : State :=
  let p := pkgOf e.core
  let gpn := key / 2048
  match s.drainFor x p gpn with
  | some f => if taint then s.poisonGranule p f (key % 2048) else (s.writeGranule p f (key % 2048) bytes mask).1
  | none =>
    let away := (s.drainAt x gpn).isSome
    if !away && (s.pkg p).knownLost gpn then s.raiseStatus x 2
    else
      let scope := if taint || away then 5 else e.point gpn
      if scope < 5 then
        match if isHost gpn then none else s.parishSees p gpn with
        | some d => if d.lost || d.refs == 0 then (s.learnLost p gpn d.lost).raiseStatus x 2
                    else s.writeSector e.core key bytes mask scope ((e.leaf gpn).any (·.ord == 2)) {}
        | none => s.writeSector e.core key bytes mask scope ((e.leaf gpn).any (·.ord == 2)) {}
      else (s.purge key (corePath e.core)).memWrite e.core key bytes mask { leaf := e.leaf gpn, xfer := some x, taint := taint }

/-- A transfer makes its writes: every destination byte whose source could be had (R143, R149). -/
def State.xferPerform (s : State) (x : Nat) (e : Xfer) (got : List XByte) : State :=
  let cells := s.xferCells e got
  let kept := (cells.filter fun c => c.2.2 == 3).map fun c => c.1.sector
  let cells := cells.filter fun c => !kept.contains c.1.sector
  let s := cells.foldl (fun s c => match c.1 with
    | .sp sh off => s.setSpBytes sh off [if c.2.2 = 0 then c.2.1 else 0] | .glob _ => s) s
  let glob := cells.filterMap fun c => match c.1 with | .glob a => if c.2.2 = 2 then none else some (a, c.2.1, c.2.2) | .sp _ _ => none
  let s := ((glob.map fun c => c.1 / 32).dedup).foldl (fun s key =>
    let mine := glob.filter fun c => c.1 / 32 == key
    let at_ (j : Nat) : Option Byte := ((mine.filter fun c => c.1 % 32 == j).getLast?).map (·.2.1)
    let mask := BitVec.ofNat 32 ((List.range 32).foldl (fun m j => if (at_ j).isSome then m + 2 ^ j else m) 0)
    s.xferWrite x e key ((List.range 32).map fun j => (at_ j).getD 0) mask (mine.any fun c => c.2.2 == 1)) s
  (s.noteWrite none (cells.map (·.1))).updXfer x fun e => { e with wrote := true }

/-- A transfer completes: its locks are freed and its drain holds withdrawn, its bell counts, its batch is marked (R140). -/
def State.xferEnd (s : State) (x : Nat) (e : Xfer) : State :=
  let s := { s with cores := s.cores.map fun (c : Nat × Core) => (c.1, { c.2 with locks := c.2.locks.filter fun l => l.xfer != x }) }
  let s := s.withdraw x
  let s := match e.bell with | some b => s.bellArrive e.share b | none => s
  { s with xfers := erase s.xfers x }.updTeamOf (pkgOf e.core) e.serial fun t => t.transferDone x e.scope e.status

/-- With its source bytes there a transfer writes, and when none of its writes is under way it completes (R140). -/
def execTransferComplete (x : Nat) (s : State) : Res :=
  .next (match s.xfer x with
    | none => s
    | some e => match e.got with
      | none => s
      | some got =>
        if !e.started || got.any (·.waits) then s
        else
          let s := if e.wrote then s else s.xferPerform x e got
          if s.requests.any fun q => q.2.xfer == some x then s else (s.xfer x).elim s fun e => s.xferEnd x e)

end Sys2Proof.Machine
end

