-- ==== Sys2Proof/Machine/Moves.lean ====
section
/-! DEFINITION. Requests on their way and pages on the move: packets and planes (R344, R345), the replay queue (R265), what ends
a request (R232, R289, R347), invalidation before a write (R222), and the moves of a master (R259, R265, R267, R278). -/

namespace Sys2Proof.Machine

/-! ## Packets and planes -/

def upPorts (k : Pkg) : List Nat := (List.range 18).filter fun i => k.linkUp.getLsbD i

/-- The hash plane of an ordered packet for a sector among the planes of a list (R345); a key is GPN × 2,048 + x. -/
def hashPlane (ports : List Nat) (key : Nat) : Nat := ports.getD (key % max 1 ports.length) 0

/-- The planes that carry packets from a package to another: the sender's up ports, those that are down at the receiver left
out while others remain (R345; log 15). -/
def State.routes (s : State) (src dst : Nat) : List Nat :=
  let both := (upPorts (s.pkg src)).filter fun i => (s.pkg dst).linkUp.getLsbD i
  if both.isEmpty then upPorts (s.pkg src) else both

/-- The plane of an ordered packet: the hash plane over the sender's up ports, or over the routes where the receiver's port of that
plane is down (R345, R346; log 15). -/
def State.orderedPlane (s : State) (src dst key : Nat) : Nat :=
  let i := hashPlane (upPorts (s.pkg src)) key
  if (s.pkg dst).linkUp.getLsbD i then i else hashPlane (s.routes src dst) key

/-- Flits that wait in a package's queue of a plane. -/
def State.planeFlits (s : State) (p i : Nat) : Nat :=
  ((s.packets.filter fun k => k.2.src == p && k.2.plane == i).map fun k => k.2.flits).foldl (· + ·) 0

/-- One of several, any of which may be taken (log 18). -/
def State.pick (s : State) (l : List Nat) : Option Nat :=
  match l with
  | [] => none
  | [x] => some x
  | l => l[Config.choice s.fresh % l.length]?

/-- The plane of an unordered packet: any of those with the fewest queued flits (R345). -/
def State.freePlane (s : State) (p : Nat) (ports : List Nat) : Nat :=
  (s.pick (ports.filter fun i => ports.all fun j => s.planeFlits p i ≤ s.planeFlits p j)).getD 0

/-- Put a packet on its way; `key` names the sector of an ordered one. -/
def State.send (s : State) (src dst : Nat) (key : Option Nat) (kind : PktKind) : State :=
  let plane := match key with | some x => s.orderedPlane src dst x | none => s.freePlane src (s.routes src dst)
  let k : Packet := ⟨src, dst, plane, kind⟩
  ({ s with packets := put s.packets s.fresh k }.bump).updPkg src fun x => { x with flitsTx := x.flitsTx + BitVec.ofNat 64 k.flits }

/-- A packet may arrive: it is the oldest of its source, destination and plane, and the plane is up at both ends (R345). -/
def State.arrives (s : State) (k : Nat) (x : Packet) : Bool :=
  (s.pkg x.src).linkUp.getLsbD x.plane && (s.pkg x.dst).linkUp.getLsbD x.plane &&
    s.packets.all fun e => !(e.1 < k && e.2.src == x.src && e.2.dst == x.dst && e.2.plane == x.plane)

/-- Take a packet that arrives: `go` acts on the state without it, or leaves it where it is. -/
def State.receive (s : State) (k : Nat) (go : State → Packet → Option State) : State :=
  match s.packet k with
  | none => s
  | some x =>
    if !s.arrives k x then s
    else
      let s' := { s with packets := erase s.packets k }.updPkg x.dst fun y => { y with flitsRx := y.flitsRx + BitVec.ofNat 64 x.flits }
      (go s' x).getD s

/-! ## Requests end -/

def ReqKind.isWrite : ReqKind → Bool
  | .write _ _ => true | .atomic _ _ => true | .fetch w => w | .load => false | .probe => false

/-- A request leaves a replay queue. -/
def State.unhold (s : State) (p r : Nat) : State := s.updPkg p fun k => { k with replay := k.replay.filter (· != r) }

/-- Requests held at a package for want of a way in a set climb again. -/
def State.releaseSet (s : State) (p set : Nat) : State :=
  ((s.pkg p).replay.filter fun r => (s.request r).any fun q => q.pkg == p && setOf q.gpn == set && !s.busy p q.gpn).foldl
    (fun s r => (s.unhold p r).updRequest r fun q => { q with at_ := .climb }) s

/-- The attraction that waits for a lodging on behalf of a request (R372). -/
def State.waitingFor (s : State) (r : Nat) : Option Nat :=
  (s.changes.find? fun c => c.2.req == some r && c.2.stage == ChangeStage.waiting && c.2.kind != ChangeKind.lodge).map (·.1)

/-- That attraction is given up or has its way: the set's other requests go on. -/
def State.dropWaiting (s : State) (r : Nat) : State :=
  match (s.waitingFor r).bind s.change with
  | none => s
  | some c => ({ s with changes := s.changes.filter fun (c : Nat × Change) => !(c.2.req == some r && c.2.kind != ChangeKind.lodge) }).releaseSet c.dst (setOf c.gpn)

/-- A posted request is acknowledged (R347). -/
def State.ackPosted (s : State) (p r : Nat) : State := s.updPkg p fun k => { k with posted := k.posted.filter fun x => x.2 != r }

/-- A request leaves the queue that holds it. -/
def State.unqueue (s : State) (r : Nat) (q : Request) : State :=
  match q.at_ with
  | .replay p => s.unhold p r
  | .touch p => s.updPkg p fun k => { k with touchWait := k.touchWait.filter fun w => w.2 != r }
  | _ => s

/-- Change a host access that waits (R353). -/
def State.updWin (s : State) (w : Nat) (f : WinOp → WinOp) : State :=
  match find s.windows w with | some o => { s with windows := put s.windows w (f o) } | none => s

/-- The bytes that a window read returns: of host memory, and of the sectors that have come. -/
def State.winBytes (s : State) (o : WinOp) : List Byte :=
  o.locs.map fun a => if isHost (a / 65536) then s.hostByte (hostAddr (a / 65536) (a % 65536)) else (getD [] o.got (a / 32)).getD (a % 32) 0

/-- A host access completes with its last sector: data, or a poison response when one has failed (R353, R367). -/
def State.winDone (s : State) (w : Nat) : State :=
  match find s.windows w with
  | none => s
  | some o =>
    if s.requests.any fun e => e.2.win == some w then s
    else { s with windows := erase s.windows w, hostReply := some (if o.failed then none else some (if o.write then [] else s.winBytes o)) }

/-- A request is done: it leaves the machine, and its package, or the host access that it belongs to, waits for it no more. -/
def State.closeReq (s : State) (r : Nat) : State :=
  match s.request r with
  | none => s
  | some q =>
    let s := (((s.unqueue r q).dropWaiting r).dropRequest r).ackPosted q.pkg r
    let s := s.updPkg q.pkg fun k => { k with gather := (k.gather.map fun (g : Nat × List Nat) => (g.1, g.2.filter (· != r))).filter fun (g : Nat × List Nat) => !g.2.isEmpty }
    match q.win with | some w => s.winDone w | none => s

/-- The bytes that a request brings for a word that waits for it; none from one that has failed (R145, R175, R187). -/
def State.bringTo (s : State) (r : Nat) (q : Request) (bytes : List Byte) : State :=
  if !q.bring then s
  else s.updTeamOf q.pkg q.serial fun t => match t.run with
    | .parked (.fetched rs) => if rs.contains r then { t with brought := put t.brought (2048 * q.gpn + q.sector) bytes } else t
    | _ => t

/-- What a failed request of a transfer does: its source bytes are not to be had, and the copy status rises (R149). -/
def State.xferFailed (s : State) (x r : Nat) (q : Request) (reason : Nat) : State :=
  let write := q.kind.isWrite
  let status := match reason with | 1 | 5 => 2 | 2 => if write then 0 else 1 | 3 => 4 | _ => 3
  let as : XByte := match reason with | 1 | 5 => .lost | 2 => .poison | _ => .failed
  s.updXfer x fun e =>
    { e with
      status := max e.status status
      got := e.got.map fun l => l.map fun b => match b with | .await n _ => if n = r then as else b | _ => b }

/-- The bytes that a read of a transfer has brought. -/
def State.xferGot (s : State) (x r : Nat) (bytes : List Byte) : State :=
  s.updXfer x fun e => { e with got := e.got.map fun l => l.map fun b => match b with
    | .await n i => if n = r then .known (bytes.getD i 0) else b | _ => b }

/-- The stops that waited for the last results of a team take effect (R56, R171). -/
def State.takeStops (s : State) (p serial : Nat) : State :=
  ((s.teams.filter fun (e : Nat × Team) => pkgOfTeam e.1 == p && e.2.serial == serial).map (·.1)).foldl (fun s tk => s.takeStop tk) s

/-- A request fails: a team's lanes are given up and reported, a transfer's copy status rises, a host access gets a poison response, the
others end in silence (R149, R289, R353). -/
def State.failReq (s : State) (r reason : Nat) : State :=
  match s.request r with
  | none => s
  | some q =>
    let s := s.updPkg q.pkg fun k =>
      if reason = 3 then k.missedRoute else if reason = 4 then { k with timeouts := k.timeouts + 1 } else k
    let told := !q.lanes.isEmpty && q.xfer.isNone && match q.kind with | .probe => false | .fetch _ => false | _ => true
    let s := match q.xfer with | some x => s.xferFailed x r q reason | none => s.bringTo r q []
    let s := match q.win with | some w => s.updWin w fun o => { o with failed := true } | none => s
    let s := if told then
        { s with
          teams := s.teams.map fun (e : Nat × Team) => (e.1, e.2.giveUp r (q.lanes.map (·.1)))
          reports := s.reports ++ [⟨q.tk, q.serial, reason, if reason = 2 then .poison else .pageLost, q.addr, 2048 * q.gpn + q.sector, q.lanes⟩] }
      else s
    (s.closeReq r).takeStops q.pkg q.serial

/-- Of a sector of a level the clean bytes of a mask are held no more: the level may hold them older or newer than a read that comes. -/
def Cache.forget (x : Cache) (key : Nat) (mask : BitVec 32) : Cache :=
  match find x.sectors key with
  | none => x
  | some e => { x with sectors := put x.sectors key { e with valid := e.valid &&& (~~~mask ||| e.dirty) } }

/-- Install the masked bytes of a sector from the outermost level inwards, in the levels whose recorded counters still stand: a level
does not take the bytes that have come there or gone from there since the request, holds none of them clean afterwards, so that the next
read fetches them anew, and gives its dirty bytes on inwards (R216, R223, R224, R231, R232). -/
def State.install (s : State) (q : Request) (bytes : List Byte) (mask : BitVec 32) : State :=
  if q.stale then s
  else
    let key := 2048 * q.gpn + q.sector
    let unord := (s.entryOf q.pkg q.gpn).elim false fun t => t.ent.extractLsb' 60 2 == 2
    (((corePath q.core).zip (q.gens.zip q.skip)).reverse.foldl (fun (acc : State × List Byte × BitVec 32) x =>
      let s := acc.1
      let c := s.cache x.1
      let held : Sector := (find c.sectors key).getD ⟨[], 0, 0, [], false⟩
      let bs := (List.range 32).map fun j => if held.dirty.getLsbD j then held.data.getD j 0 else acc.2.1.getD j 0
      let m := (acc.2.2 &&& ~~~x.2.2) ||| held.dirty
      let c := c.forget key x.2.2
      (s.setCache x.1 (if x.2.1.isEmpty || x.2.1 != c.gen then c else c.merge key bs m false x.2.1 unord), bs, m)) (s, bytes, mask)).1

/-- The bytes of a read have come: the results, the transfer or the word that wait for them, and the fill of the path. -/
def State.finishRead (s : State) (r : Nat) (bytes : List Byte) (mask : BitVec 32) : State :=
  match s.request r with
  | none => s
  | some q =>
    let s := match q.xfer with | some x => s.xferGot x r bytes | none => s.bringTo r q bytes
    let s := match q.win with
      | some w => s.updWin w fun o => { o with got := put o.got (2048 * q.gpn + q.sector) bytes }
      | none => s
    ((s.fillAll r bytes).install q bytes mask).closeReq r

/-- The old values of an atomic have come. -/
def State.finishAtomic (s : State) (r : Nat) (vals : List Nat) : State := (s.fillAll r (vals.flatMap (bytesOf 8))).closeReq r

/-- The bytes of the aligned 8-byte word that holds the bytes of a mask (R349). -/
def wordMask (m : BitVec 32) : BitVec 32 :=
  (((List.range 4).map fun i => BitVec.ofNat 32 (255 * 2 ^ (8 * i))).find? fun w => m &&& ~~~w == 0).getD (BitVec.allOnes 32)

/-- The bytes that the reply to a read installs: a word read's 8, else the sector (R349). -/
def State.fillMask (s : State) (r : Nat) : BitVec 32 :=
  match s.request r with
  | some q => if q.wordRead then wordMask q.mask else BitVec.allOnes 32
  | none => BitVec.allOnes 32

/-! ## Serving at a package -/

/-- Answer a request: in its own package at once, else by a packet. -/
def State.answer (s : State) (holder : Nat) (q : Request) (kind : PktKind) (here : State → State) : State :=
  if q.pkg = holder then here s else s.send holder q.pkg none kind

/-- A master that may still have replicas and stands for a write: with none left it is MASTER_EXCL (R222). -/
def State.soleMaster (s : State) (p gpn : Nat) : State :=
  if (s.copies gpn p).isEmpty then s.invalidateCopies gpn p else s

/-- A request is on its way to a package that does not answer: it waits there until its timeout (R350). -/
def State.unheard (s : State) (r h : Nat) : State :=
  s.updRequest r fun q => { q with at_ := .remote h, sentAt := s.now, fto := (s.pkg q.pkg).fto, order := none }

/-- A write has not been performed: it stands in a replay queue, or a packet still carries it. -/
def State.unperformed (s : State) (r : Nat) (q : Request) : Bool :=
  q.kind.isWrite && ((match q.at_ with | .replay _ => true | _ => false) ||
    s.packets.any fun k => match k.2.kind with | .write n => n == r | .atomReq n => n == r | _ => false)

/-- A read that has arrived stands behind an earlier write of its package to its sector (R345). -/
def State.heldBack (s : State) (r : Nat) (q : Request) : Bool :=
  !q.kind.isWrite && s.requests.any fun e => decide (e.1 < r) && e.2.forSector q.pkg (2048 * q.gpn + q.sector) && s.unperformed e.1 e.2

/-- The granules of a page's masters become poisoned by a transfer's write (R149, R267). -/
def State.taintMasters (s : State) (p gpn sec : Nat) : State :=
  (s.masterFrames p gpn).foldl (fun s m => s.poisonGranule m.1 m.2 sec) s

/-- A host write has been performed: every try region records it (R169). -/
def State.noteWin (s : State) (q : Request) : State :=
  if q.win.isNone then s
  else s.noteWrite none ((List.range 32).filterMap fun j =>
    if q.mask.getLsbD j then some (.glob (65536 * q.gpn + 32 * q.sector + j)) else none)

/-- A write that a master cannot carry to the page's other master: it waits while that one's loss is settled; without a route it fails, its
issuer elsewhere hearing nothing; behind planes that do not meet it goes unanswered (R267, R268, R342, R350). -/
def State.twinWrite (s : State) (p r : Nat) (q : Request) (go : Unit → State) : Option State :=
  let lost (s : State) (h : Nat) : State := if q.pkg = p then s.unheard r h else s.updRequest r fun q => { q with at_ := .remote p }
  match s.twinCut p q.gpn with
  | .none => some (go ())
  | .settling => none
  | .noRoute => some (if q.pkg = p then s.failReq r 3 else lost s p)
  | .mute n => some (lost s n)

/-- Serve a request at a package whose frame can serve it now, a draining one for a transfer that holds it (R259, R271, R327, R347):
none when it must wait or go elsewhere. -/
def State.serveAt (s : State) (p r : Nat) : Option State :=
  match s.request r with
  | none => some s
  | some q =>
    match (s.pkg p).frameOf q.gpn with
    | none => none
    | some f =>
      let s := if q.kind.isWrite && (s.pkg p).stateOf q.gpn == .masterShared && !s.busy p q.gpn then s.soleMaster p q.gpn else s
      let st := (s.pkg p).stateOf q.gpn
      let s := if q.pkg = p then s.updPkg p (·.touch f) else s
      let drains := q.xfer.any fun x => s.drainFor x p q.gpn == some f
      let read (_ : Unit) : Option State :=
        if !(st.serves || drains) || s.heldBack r q then none
        else
          let (s, bad) := s.readGranule p f q.sector
          let bs := (List.range 32).map fun i => (s.pkg p).byte f (32 * q.sector + i)
          let bs := if bad then bs.map fun _ => 0 else bs
          some (s.answer p q (.readReply r bs (if bad then 2 else 0)) fun s =>
            if bad then s.failReq r 2 else s.finishRead r bs (s.fillMask r))
      let owns := st == .masterExcl && !s.busy p q.gpn
      let write (go : Unit → State) : Option State := if drains then some (go ()) else if owns then s.twinWrite p r q go else none
      match q.kind with
      | .load => read ()
      | .probe => read ()
      | .fetch w => if q.pkg != p then none else if w && !owns then none else if w || st.serves then some (s.closeReq r) else none
      | .write bs _ => write fun _ =>
        let (s, ok) := if q.taint then (if drains then s.poisonGranule p f q.sector else s.taintMasters p q.gpn q.sector, true)
          else if drains then s.writeGranule p f q.sector bs q.mask else s.masterWrite p q.gpn q.sector bs q.mask
        let s := if ok then s.noteWin q else s
        s.answer p q (.ack r (if ok then 0 else 2)) fun s => if ok then s.closeReq r else s.failReq r 2
      | .atomic ops _ => write fun _ =>
        let (s, bad) := s.readGranule p f q.sector
        if bad then s.answer p q (.atomReply r [] 2) fun s => s.failReq r 2
        else
          let (bs, m, olds) := applyOps ((List.range 32).map fun i => (s.pkg p).byte f (32 * q.sector + i)) ops
          let s := (s.masterWrite p q.gpn q.sector bs m).1
          let s := s.noteWrite (some q.tk) [.glob (65536 * q.gpn + 32 * q.sector)]
          s.answer p q (.atomReply r olds 0) fun s => s.finishAtomic r olds

/-- Send the invalidations that a write at a master waits for, each once (R222). -/
def State.startInval (s : State) (p gpn : Nat) : State :=
  (s.copies gpn p).foldl (fun s c =>
    if s.packets.any fun k => k.2.dst == c && k.2.kind == .inval gpn then s else s.send p c none (.inval gpn)) s

/-! ## The replay queue (R265) -/

/-- The replay queue is full; first touches that wait for a way stand in it too (R256, R265). -/
def Pkg.replayFull (k : Pkg) : Bool := Config.replayEntries ≤ k.replay.length + k.touchWait.length

/-- A request's place in the order of arrival at a replay queue; none where it has not been. -/
def State.arrivedAs (s : State) (p r : Nat) : Option Nat :=
  ((s.request r).bind (·.order)).bind fun o => if o.1 = p then some o.2 else none

/-- Hold a request in a package's replay queue, in the order of its first arrival there (R255, R265): not while it is full. One that has
landed there has come by a packet and is served there; another stops there on its climb, and its timeout begins (R254, R350). -/
def State.hold (s : State) (p r : Nat) (landed : Bool := false) : State × Bool :=
  if (s.pkg p).replayFull then (s.updPkg p (·.setAstat 4), false)
  else
    let n := (s.arrivedAs p r).getD s.fresh
    let s := s.bump
    let before (x : Nat) : Bool := (s.arrivedAs p x).any (· < n)
    ((s.updPkg p fun k =>
      ({ k with replay := k.replay.filter before ++ [r] ++ k.replay.filter fun x => !before x } : Pkg).count 11).updRequest r fun q =>
        let q := if landed then q else { q with sentAt := s.now, fto := (s.pkg q.pkg).fto }
        { q with at_ := .replay p, order := some (p, n), landed := landed }, true)

/-- Hold what a master cannot write yet, the invalidations on their way. -/
def State.holdWrite (s : State) (p r gpn : Nat) (landed : Bool := false) : State × Bool :=
  match s.hold p r landed with
  | (s, true) => (if s.busy p gpn then s else s.startInval p gpn, true)
  | x => x

/-- A held request is to be served where it is held: it is the package's own, or has come there by a packet (R259, R265). -/
def Request.servedAt (q : Request) (p : Nat) : Bool := q.pkg == p || q.landed

/-- Release the requests that a package holds for a page, in arrival order: of its own and those that packets brought it serves what it
can now, and writes that wait for invalidations or for BUSY stay; every other restarts its climb (R254, R255, R265). -/
def State.releaseAt (s : State) (p gpn : Nat) : State :=
  ((s.pkg p).replay.filter fun r => (s.request r).any fun q => q.gpn == gpn).foldl (fun s r =>
    match s.request r with
    | none => s.unhold p r
    | some q =>
      let here := q.servedAt p
      match if here then s.serveAt p r else none with
      | some s => s.unhold p r
      | none =>
        let st := (s.pkg p).stateOf gpn
        let write := q.kind.isWrite
        if st == .filling || st == .moving || ((write || !here) && s.busy p gpn) || (here && s.heldBack r q) then s
        else if here && write && st.isMaster then (if s.twinCut p gpn == .settling then s else s.startInval p gpn)
        else (s.unhold p r).updRequest r fun q => { q with at_ := .climb }) s

/-- Release a page's requests wherever they are held. -/
def State.releasePage (s : State) (gpn : Nat) : State :=
  ((s.pkgs.filter fun k => !k.2.replay.isEmpty).map (·.1)).foldl (fun s p => s.releaseAt p gpn) s

/-! ## Moving a master (R259, R265, R267, R278) -/

/-- Read every granule of a frame that an error has touched (R271). -/
def State.patrol (s : State) (p f : Nat) : State :=
  ((((s.pkg p).symErr ++ (s.pkg p).poison).filter fun e => e.1 / 2048 == f).map (·.1)).dedup.foldl (fun s g => (s.readGranule p f (g % 2048)).1) s

/-- Copy a frame with its poison. -/
def State.copyFrame (s : State) (src f dst g : Nat) : State :=
  let s := s.patrol src f
  let cells := ((s.pkg src).hbm.filter fun c => c.1 / 65536 == f).map fun c => (c.1 % 65536, c.2)
  let bad := ((s.pkg src).poison.filter fun c => c.1 / 2048 == f).map fun c => c.1 % 2048
  s.updPkg dst fun k =>
    let k := k.zeroFrame g
    let k := cells.foldl (fun k c => k.setByte g c.1 c.2) k
    { k with poison := bad.foldl (fun m x => put m (2048 * g + x) 1) k.poison
             symErr := k.symErr.filter fun e => e.1 / 2048 != g }

/-- Place of a page in a host spill region: package and slot (R262). -/
def State.spillAt (s : State) (gpn : Nat) : Option (Nat × Nat) :=
  (List.range 144).findSome? fun p => (find (s.pkg p).spill gpn).map fun n => (p, n)

/-- Host address of byte 0 of a spilled page. -/
def State.spillBase (s : State) (x : Nat × Nat) : Nat := ((s.pkg x.1).bootReg 0x20).toNat + 65536 * x.2

/-- Write masked bytes of a sector of a spilled page, as those of a granule: a poisoned one takes a full write alone; whether it took
them (R262, R271). -/
def State.spillWrite (s : State) (x : Nat × Nat) (sec : Nat) (bytes : List Byte) (mask : BitVec 32) : State × Bool :=
  let key := 2048 * x.2 + sec
  if mask != BitVec.allOnes 32 && (find (s.pkg x.1).spillBad key).isSome then (s, false)
  else
    let a := s.spillBase x + 32 * sec
    let s := (List.range 32).foldl (fun s i => if mask.getLsbD i then s.setHostBytes (a + i) [bytes.getD i 0] else s) s
    (s.updPkg x.1 fun k => { k with spillBad := erase k.spillBad key }, true)

/-- Fetch a spilled page into a frame, with its poison, and free its place (R262, R271). -/
def State.unspill (s : State) (gpn dst g : Nat) : State :=
  match s.spillAt gpn with
  | none => s
  | some x =>
    let bad := ((s.pkg x.1).spillBad.filter fun c => c.1 / 2048 == x.2).map fun c => c.1 % 2048
    let s := s.updPkg dst fun k =>
      let k := (k.zeroFrame g).setBytes g 0 (s.hostBytes (s.spillBase x) 65536)
      { k with poison := bad.foldl (fun m i => put m (2048 * g + i) 1) k.poison }
    s.updPkg x.1 fun k => { k with spill := erase k.spill gpn, spillBad := k.spillBad.filter fun c => c.1 / 2048 != x.2 }

/-- A page's data cross the planes (R344). -/
def State.crossedPage (s : State) (src dst : Nat) : State := s.crossed src dst (Packet.flits ⟨src, dst, 0, .pageData 0⟩) 0

/-- A twin's second master with its data, where a partner takes one (R267). -/
def State.twinUp (s : State) (p f gpn : Nat) : State :=
  let s := s.makeTwin p f gpn
  match s.twinAt p gpn with
  | none => s
  | some n => match (s.pkg n).frameOf gpn with
    | some g => (s.copyFrame p f n g).crossedPage p n
    | none => s

/-- The source of a change of master: no replica is left but the destination's; what was dirty in the caches of the source and of the
replicas is written into the master frames and into that replica, which becomes the master as it stands (R240, R252, R265 step 2). -/
def State.leave (s : State) (gpn src dst : Nat) : State :=
  let r := s.clearCopies gpn src dst
  let heir := if (r.1.pkg dst).stateOf gpn == .replica then (((r.1.pkg dst).frameOf gpn).map fun g => (dst, g)).toList else []
  let x : State × List Spoil := match (r.1.pkg src).frameOf gpn with
    | some f => (r.1.updPkg src fun k => k.setTag f { k.tag f with state := .moving }).stripPage src gpn
    | none => (r.1, [])
  x.1.landSpoils (x.1.masterFrames src gpn ++ heir) (r.2 ++ x.2)

/-- Clear a package's presence, and its hamlet's once no package of it holds a copy (R278). -/
def State.gone (s : State) (p gpn : Nat) : State :=
  let s := s.noteAbsent p gpn
  let h := p / 12
  if s.pkgs.any fun k => k.1 / 12 == h && k.1 != p && (k.2.frameOf gpn).isSome then s
  else s.updParish p gpn fun e => { e with hamlets := e.hamlets &&& ~~~BitVec.ofNat 12 (2 ^ h) }

/-- The last step of a master's move: the data is in the destination frame g, where a replica has it already, the directory names
it, the source frame is INVALID (R252, R265 step 4). -/
def State.arrive (s : State) (gpn src dst g : Nat) : State :=
  let e : ParishEnt := ((s.parishSees dst gpn).getD { refs := 1, master := src })
  let upgrade := ((s.pkg dst).tag g).state == .replica
  let s := if src = 254 then s.unspill gpn dst g else if upgrade then s else match (s.pkg src).frameOf gpn with
    | some f => s.copyFrame src f dst g
    | none => s
  let s := if src = 254 then s else match (s.pkg src).frameOf gpn with
    | some f => s.updPkg src fun k => k.setTag f {}
    | none => s
  let second := e.twinpkg = src
  let s := s.updPkg dst fun k =>
    let k := k.setTag g { gpn := gpn, state := .masterExcl, pinned := e.pinned, twin := e.twinpkg != 255 }
    if upgrade then k else k.touch g
  let s := if second then (s.updParish dst gpn fun e => { e with twinpkg := dst }).notePresent dst gpn false else s.setMaster dst gpn
  let s := if src = 254 then s else s.gone src gpn
  if e.twin && e.twinpkg = 255 then s.twinUp dst g gpn else s

/-- Clear BUSY and let the waiting requests go on (R255, R265). -/
def State.unbusy (s : State) (p gpn : Nat) : State := (s.updParish p gpn fun e => { e with busy := false }).releasePage gpn

/-! ## Lodging (R261, R262) -/

/-- The answer of a neighbour to a lodger of a page (Table 10-10): a way, or the first reason that applies. A package that holds
the page's other master already has no way for it (log 20), nor one whose way is owed to an attraction of its own (R277). -/
def State.lodgeAnswer (s : State) (src n gpn : Nat) : Except Nat Nat :=
  if n = src ∨ !s.present src n ∨ s.noRoute src n ∨ !s.joined src n then .error 3
  else
    let k := s.pkg n
    let set := setOf gpn
    let mine := k.frameOf gpn
    let free := s.freeWay n set none
    if !k.lodgectl.getLsbD 32 then .error 4
    else if mine.any fun f => (k.tag f).state != .replica then .error 1
    else match mine with
      | some f => .ok f
      | none => match free with
        | none => .error 1
        | some f =>
          -- frames of the stack that are not INVALID are the ones listed
          let used := (k.frames.filter fun x => stackOf' x.1 == set % Config.nStacks && x.2.state != .invalid).length
          if 2 * (Config.sets / Config.nStacks) - used < (k.lodgectl.extractLsb' 0 20).toNat then .error 2 else .ok f
where stackOf' (f : Nat) : Nat := f / 2 % Config.nStacks

/-- The neighbours that a lodging tries, in order (R261). -/
def Pkg.lodgers (k : Pkg) : List Nat := (((List.range 4).filter k.neighEn).map k.neighbour).take k.tries

/-- Lodge a victim at a neighbour that has accepted, in one step. -/
def State.lodgeIn (s : State) (src n gpn g : Nat) : State :=
  let s := s.updPkg src fun k => { k with refusal := erase k.refusal (setOf gpn) }
  let s := s.leave gpn src n
  let s := if ((s.pkg n).tag g).gpn == gpn && ((s.pkg n).tag g).state == .replica then s else s.takeWay n g { gpn := gpn, state := .filling }
  ((s.arrive gpn src n g).updPkg src (·.count 4)).updPkg n (·.count 5)

/-- Move a page's master in one step to a package that holds a replica of it, or that has a way without lodging (R259, R265, R270); the
page data cross the planes (R344). -/
def State.moveNow (s : State) (gpn src dst : Nat) : State × Bool :=
  let from_ (s : State) : State := if src = 254 then s else s.leave gpn src dst
  if src != 254 && !s.joined src dst then (s, false)
  else match (s.pkg dst).frameOf gpn with
  | some g =>
    if ((s.pkg dst).tag g).state == .replica then (((from_ s).arrive gpn src dst g).releasePage gpn, true) else (s, false)
  | none => match s.freeWay dst (setOf gpn) none with
    | none => (s, false)
    | some g =>
      let s := ((from_ s).takeWay dst g { gpn := gpn, state := .filling }).arrive gpn src dst g
      ((if src = 254 then s else s.crossedPage src dst).releasePage gpn, true)

/-! ## The hardware's own accesses at the SYSTEM point of coherence -/

/-- How a one-step first touch went. -/
inductive Touch where
  | done | waits | unreachable
  deriving DecidableEq, Repr

/-- The hardware's own first touch of a page, which no word awaits and which is done when the page is there. -/
def Request.ownTouch (q : Request) : Bool := decide (2 ^ 40 ≤ q.tk) && q.kind == .fetch false

/-- Hardware asks for the first touch of a page, once: a request that climbs, and waits as any other (R256, R277). -/
def State.askTouch (s : State) (p gpn : Nat) (twin : Bool) : State :=
  if s.requests.any fun e => e.2.pkg == p && e.2.gpn == gpn && e.2.ownTouch then s
  else (s.addRequest (48 * p) (2048 * gpn) 0 (.fetch false) { tk := hwWho (48 * p) } []).updRequest s.fresh fun q => { q with twin := twin }

/-- A first touch by the hardware: in one step where its set has a way that is owed to no other and no first touch of the set waits at
the slice; else, and while the slices have no room, behind a request for it (R256, R264, R277). -/
def State.touchNow (s : State) (p gpn : Nat) (twin : Bool) : State × Touch :=
  let set := setOf gpn
  let slice := s.parishSlice p gpn
  if s.cutOff p gpn then (s.updPkg p (·.missedRoute), .unreachable)
  else if (s.pkg slice).touchWait.any (fun w => w.1 == set) || !s.joined p slice || !s.joined p (s.hamletSlice p gpn) then
    (s.askTouch p gpn twin, .waits)
  else match s.freeWay p set none with
    | none => (s.askTouch p gpn twin, .waits)
    | some f => match s.presentRoom p gpn with
      | (s, false) => (s, .waits)
      | (s, true) => match s.createPage p f gpn twin with
        | (s, true) => (s.crossed p slice 1 1, .done)
        | (s, false) => (s, .waits)

/-- How a one-step write at the SYSTEM point of coherence went. -/
inductive SysW where
  | done | lost | poisoned | waits | unreachable
  deriving DecidableEq, Repr

/-- The package that holds a page's master does not answer another: no plane is up at both, or it has been reset (R342, R350, R352). -/
def State.mute (s : State) (p m gpn : Nat) : Bool := p != m && (!s.joined p m || ((s.pkg m).frameOf gpn).isNone)

/-- Write masked bytes of a sector at the SYSTEM point of coherence on behalf of a package: host memory, the spill region, or
the master once every replica is invalidated; a page never backed is touched first; it waits while the page changes state, the loss of its
other master is settled or an earlier write of the package to the sector is under way, and fails where no route leads or no answer would
come; a package that finds the page LOST or freed comes to know it (R268, R269, R345, R350, R352). -/
def State.sysWrite (s : State) (p key : Nat) (bytes : List Byte) (mask : BitVec 32) : State × SysW :=
  let gpn := key / 2048
  let sec := key % 2048
  let put (s : State) (base : Nat) : State :=
    (List.range 32).foldl (fun s i => if mask.getLsbD i then s.setHostBytes (base + i) [bytes.getD i 0] else s) s
  if isHost gpn then (put s (hostAddr gpn (32 * sec)), .done)
  else if s.busy p gpn || s.sectorBusy p key then (s, .waits)
  else
    let (s, r) : State × Touch := match s.parishSees p gpn with
      | some _ => (s, .done)
      | none => s.touchNow p gpn ((s.entryOf p gpn).elim false fun t => t.ent.getLsbD 56)
    match r, s.parishSees p gpn with
    | .unreachable, _ => (s, .unreachable)
    | .waits, _ | _, none => (s, .waits)
    | .done, some e =>
        let unheard (s : State) : State × SysW := (s.updPkg p fun k => { k with timeouts := k.timeouts + 1 }, .unreachable)
        if e.lost || e.refs = 0 then (s.learnLost p gpn e.lost, .lost)
        else if e.master = 254 then
          match s.spillAt gpn with
          | some x => s.spillWrite x sec bytes mask |> fun r => (r.1, if r.2 then .done else .poisoned)
          | none => (s, .lost)
        else if s.noRoute p e.master then (s.updPkg p (·.missedRoute), .unreachable)
        else if s.mute p e.master gpn then unheard s
        else match s.twinCut e.master gpn with
        | .settling => (s, .waits)
        | .noRoute => if e.master = p then (s.updPkg p (·.missedRoute), .unreachable) else unheard s
        | .mute _ => unheard s
        | .none =>
          let s := (s.invalidateCopies gpn e.master).crossed p e.master 1 1
          let (s, ok) := s.masterWrite e.master gpn sec bytes mask
          let s := if e.master = p then (match (s.pkg p).frameOf gpn with | some f => s.updPkg p (·.touch f) | none => s) else s
          (s, if ok then .done else .poisoned)

/-- Write n bytes at a global byte address at the SYSTEM point of coherence, sector by sector: the first that fails decides. -/
def State.sysWriteBytes (s : State) (p a : Nat) (bs : List Byte) : State × SysW :=
  let keys := (List.range ((a % 32 + bs.length + 31) / 32)).map fun i => a / 32 + i
  keys.foldl (fun (acc : State × SysW) key =>
    let m := BitVec.ofNat 32 ((List.range 32).foldl (fun m j =>
      if a ≤ 32 * key + j && 32 * key + j < a + bs.length then m + 2 ^ j else m) 0)
    let sec := (List.range 32).map fun j => bs.getD (32 * key + j - a) 0
    match acc.2 with
    | .done =>
      let (s, r) := acc.1.sysWrite p key sec m
      (s.noteWrite none ((List.range 32).filterMap fun j => if m.getLsbD j then some (.glob (32 * key + j)) else none), r)
    | r => (acc.1, r)) (s, .done)

/-- Drop the sectors of a byte range from every cache of a package, their dirty bytes written on first; hardware that reads or
writes at the SYSTEM point of coherence leaves no copy of its own behind. -/
def State.dropRange (s : State) (ls : List Level) (a n : Nat) : State :=
  ((List.range ((a % 32 + n + 31) / 32)).map fun i => a / 32 + i).foldl (fun s key => s.purge key ls) s


end Sys2Proof.Machine
end

