-- ==== Sys2Proof/Machine/Span.lean ====
section
/-! DEFINITION. Row 0x16: residency maps (R186 to R189, R325, R328). An instruction asks for the records that its package does not
hold as loads do, and then reads and writes its map at the SYSTEM point of coherence in one step, behind the write-back of dirty
bytes on its core's path. Clean lines stay in the levels that an acquire at its scope clears, so that a plain load may see the map as it
was until an acquire (R188, R341; log 80). -/

namespace Sys2Proof.Machine

/-- Fields of a map's 64-byte header and entries, as one number (Tables 06-15, 06-16). -/
def field (n lo len : Nat) : Nat := n / 2 ^ lo % 2 ^ len
def setField (n lo len v : Nat) : Nat := n - field n lo len * 2 ^ lo + (v % 2 ^ len) * 2 ^ lo

def mapNext (n : Nat) : Nat := field n 0 32
def mapCap (n : Nat) : Nat := field n 32 32
def mapVbase (n : Nat) : Nat := field n 64 64
def mapGstride (n : Nat) : Nat := field n 128 32
def mapSstride (n : Nat) : Nat := field n 160 32
def entTag (n slot : Nat) : Nat := field n (4 * slot) 4
def entRetired (n slot : Nat) : Bool := field n (256 + slot) 1 == 1
def entStatus (n : Nat) : Nat := field n 360 3
def entPage (n : Nat) : Nat := field n 320 40

/-- What the checks of map addresses answer: resolved places, a cause with its address, or a walk. -/
inductive MapChk where
  | ok (ps : List Piece) | bad (c : Cause) (ea : Word) | wait (ix : Nat)
  deriving DecidableEq, Repr

/-- CheckAccess of 64-byte records (R187). -/
def State.checkMaps (s : State) (tk : Nat) (t : Team) (vas : List Word) (write : Bool) : State × MapChk :=
  vas.foldl (fun acc va =>
    match acc.2 with
    | .ok qs => match acc.1.checkGlobal (coreOf tk) t.ctx va 64 write false false true with
      | (s, .ok ps) => (s, .ok (qs ++ ps))
      | (s, .bad c) => (s, .bad c va)
      | (s, .wait ix) => (s, .wait ix)
    | r => (acc.1, r)) (s, .ok [])

/-- Address of a block's entry. -/
def entryVa (m : Word) (b : Nat) : Word := m + BitVec.ofNat 64 (64 + 64 * b)

/-- A record as a number. -/
def State.record (s : State) (p a : Nat) : Nat := ((s.sysBytes p a 64).map natOfBytes).getD 0

/-- The sectors of a checked record that must be asked for before the step: those of a page that the package does not hold, which no
request has brought, or that cannot be had (R254, R269, R350). -/
def State.unreached (s : State) (tk : Nat) (t : Team) (x : Piece) (write : Bool) : List Nat :=
  let p := pkgOfTeam tk
  let gpn := x.addr / 65536
  let keys := [x.addr / 32, x.addr / 32 + 1]
  let away := (s.parishSees p gpn).any fun e => e.master != 254 && s.noRoute p e.master
  if isHost gpn then []
  else if (s.parishSees p gpn).isNone || (s.sysBytes p x.addr 64).isNone then keys
  else if ((s.pkg p).stateOf gpn).serves && !(write && away) then []
  else if away then keys
  else keys.filter fun k => (find t.brought k).isNone

/-- The dirty bytes of records on the core's path are written on; what to wait for while a request for their sectors, or a change of
their pages, or the loss of their other master, is under way (R268). -/
def State.settleMap (s : State) (tk : Nat) (as : List Nat) : State × Option Cond :=
  let p := pkgOfTeam tk
  let keys := as.flatMap fun a => [a / 32, a / 32 + 1]
  let s := keys.foldl (fun s key => (corePath (coreOf tk)).foldl (fun s l => s.writeBackOne l key) s) s
  let rs := (s.requests.filter fun q => keys.any (q.2.forSector p)).map (·.1)
  let gs := ((as.map (· / 65536)).dedup).filter fun g => s.busy p g || (s.parishSees p g).any fun e => s.twinCut e.master g == .settling
  (s, if !rs.isEmpty then some (.fetched rs) else if !gs.isEmpty then some (.still gs) else none)

/-- Check records, ask for what the package does not hold, settle their lines, and go on with their addresses; the faults stand for
the whole team, and a failed request's report for the word (R187, R269). -/
def withMaps (s : State) (h : Hdr) (tk : Nat) (t : Team) (vas : List Word) (write : Bool) (go : State → List Nat → Act) : Act :=
  if t.lostRead then .retire s
  else match s.checkMaps tk t vas write with
  | (s, .wait ix) => .park s (.walk ix)
  | (s, .bad c ea) => .fault s h c 0 0 ea
  | (s, .ok ps) =>
    match (ps.zip vas).find? fun x => !(s.unreached tk t x.1 write).isEmpty with
    | some x => bring s h tk t x.2 x.1.leaf 5 x.1.addr 64 (s.unreached tk t x.1 write)
    | none => match s.settleMap tk (ps.map (·.addr)) with
      | (s, some c) => .park s c
      | (s, none) => go s (ps.map (·.addr))

/-- A span instruction that acts once for the team: its map's header, its release, and its acquire behind it. -/
def span (h : Hdr) (f : SF) (write : Bool) (go : State → Nat → Team → Word → Nat → Nat → Act) (s : State) (tk : Nat) (t : Team) : Act :=
  let m := t.rs f.s1.toNat
  withMaps s h tk t [m] write fun s as =>
    releaseThen s tk t (f.sub.toNat % 8) fun s =>
      let a := as.headD 0
      go s tk t m a (s.record (pkgOfTeam tk) a)

/-- The levels of the core's path that an acquire at the scope leaves standing drop the records written: a load behind it finds the new
words there (R341). -/
def State.dropRecords (s : State) (core scope : Nat) (as : List Nat) : State :=
  (as.flatMap fun a => [a / 32, a / 32 + 1]).foldl (fun s key => (pointPath core scope).foldl (fun s l => s.dropLine l key) s) s

/-- The span instruction is done: records written, result delivered, acquire (R187, R188). -/
def spanDone (s : State) (tk : Nat) (f : SF) (ws : List (Nat × Nat)) (res : Option (Nat × Nat)) : Act :=
  let s := ws.foldl (fun s w => (s.sysWriteBytes (pkgOfTeam tk) w.1 (bytesOf 64 w.2)).1) s
  let s := s.dropRecords (coreOf tk) (f.sub.toNat % 8) (ws.map (·.1))
  let s := match res with | some (n, x) => s.updTeam tk fun u => u.longS n (BitVec.ofNat 64 x) | none => s
  .retire (s.acquire (coreOf tk) (f.sub.toNat % 8))

/-- Check and read the entries of blocks. -/
def withBlocks (s : State) (h : Hdr) (tk : Nat) (t : Team) (m : Word) (bs : List Nat) (write : Bool)
    (go : State → List (Nat × Nat × Nat) → Act) : Act :=
  withMaps s h tk t (bs.map (entryVa m)) write fun s as =>
    go s ((bs.zip as).map fun x => (x.1, x.2, s.record (pkgOfTeam tk) x.2))

/-- Change the slots of an entry that satisfy a test. -/
def mapSlots (b : Nat) (ok : Nat → Nat → Bool) (f : Nat → Nat → Nat) (e : Nat) : Nat :=
  (List.range 64).foldl (fun e i => if ok (64 * b + i) e then f e i else e) e

def blocksOf (lo hi : Nat) : List Nat := if hi ≤ lo then [] else (List.range ((hi - 1) / 64 + 1 - lo / 64)).map fun i => lo / 64 + i

def execSpanapp (h : Hdr) (f : SF) (s : State) : Res :=
  issue (.spanapp h f) h (once h (span h f true fun s tk t m a hd =>
    let p := mapNext hd
    let n := f.imm.toNat
    let tag := f.id.toNat % 16
    if 64 * mapCap hd < p + n then spanDone s tk f [] (some (f.s2.toNat, 2 ^ 32))
    else withBlocks s h tk t m (blocksOf p (p + n)) true fun s es =>
      if es.any fun e => entStatus e.2.2 != 0 then spanDone s tk f [] (some (f.s2.toNat, 2 ^ 32))
      else
        let ws := es.map fun e => (e.2.1, mapSlots e.1 (fun q _ => p ≤ q && q < p + n)
          (fun x i => setField (setField x (4 * i) 4 tag) (256 + i) 1 0) e.2.2)
        spanDone s tk f (ws ++ [(a, setField hd 0 32 (p + n))]) (some (f.s2.toNat, p)))) s

def execSpantag (h : Hdr) (f : SF) (s : State) : Res :=
  issue (.spantag h f) h (once h (span h f true fun s tk t m _ hd =>
    let qs := ((t.act h).map fun L => (t.rv f.v.toNat L).toNat).filter fun q => q < mapNext hd
    withBlocks s h tk t m ((qs.map (· / 64)).dedup) true fun s es =>
      spanDone s tk f (es.map fun e => (e.2.1, mapSlots e.1 (fun q x => qs.contains q && !entRetired x (q % 64))
        (fun x i => setField x (4 * i) 4 (f.id.toNat % 16)) e.2.2)) none)) s

def execSpanset (h : Hdr) (f : SF) (s : State) : Res :=
  issue (.spanset h f) h (once h (span h f true fun s tk t m _ hd =>
    let r := (t.rs f.s2.toNat).toNat
    let first := r % 2 ^ 32
    let hi := min (first + r / 2 ^ 32) (mapNext hd)
    withBlocks s h tk t m (blocksOf first hi) true fun s es =>
      spanDone s tk f (es.map fun e => (e.2.1, mapSlots e.1
        (fun q x => first ≤ q && q < hi && !entRetired x (q % 64) && (!f.imm.getLsbD 4 || entTag x (q % 64) == f.imm.toNat % 16))
        (fun x i => setField x (4 * i) 4 (f.id.toNat % 16)) e.2.2)) none)) s

def execSpanret (h : Hdr) (f : SF) (s : State) : Res :=
  issue (.spanret h f) h (once h (span h f true fun s tk t m _ hd =>
    let next := mapNext hd
    let tag := f.id.toNat % 16
    withBlocks s h tk t m (blocksOf 0 next) true fun s es =>
      let hit (q x : Nat) : Bool := q < next && entTag x (q % 64) == tag && !entRetired x (q % 64)
      let k := (es.map fun e => ((List.range 64).filter fun i => hit (64 * e.1 + i) e.2.2).length).foldl (· + ·) 0
      let es := es.map fun e => (e.1, e.2.1, mapSlots e.1 hit (fun x i => setField x (256 + i) 1 1) e.2.2)
      let full (e : Nat × Nat × Nat) : Bool := e.1 < mapCap hd && entStatus e.2.2 == 0 && field e.2.2 256 64 == 2 ^ 64 - 1
      let freed := es.filter full
      let s := freed.foldl (fun s e => s.lowerRef (pkgOfTeam tk) (entPage e.2.2)) s
      spanDone s tk f (es.map fun e => (e.2.1, if full e then setField e.2.2 360 3 2 else e.2.2))
        (some (f.s2.toNat, k + freed.length * 2 ^ 32)))) s

def execSpanq (h : Hdr) (f : SF) (s : State) : Res :=
  issue (.spanq h f) h (once h (span h f false fun s tk t m _ hd =>
    let next := mapNext hd
    withBlocks s h tk t m (blocksOf 0 next) false fun s es =>
      let k := (es.map fun e => ((List.range 64).filter fun i =>
        64 * e.1 + i < next && !entRetired e.2.2 i && (f.imm.getLsbD 0 || entTag e.2.2 i == f.id.toNat % 16)).length).foldl (· + ·) 0
      spanDone s tk f [] (some (f.s2.toNat, next + 2 ^ 32 * k)))) s

/-- Residency of a position's page, after UNMAPPED and RETIRED are left out (R189). -/
def Pkg.rmapStatus (k : Pkg) (gpn : Nat) : Nat :=
  let st := k.stateOf gpn
  if st == .lost then 4 else if st == .filling || st == .moving then 3 else if st.serves then 0 else 5

def execRmap (h : Hdr) (f : SF) (s : State) : Res :=
  issue (.rmap h f) h (fun s tk t =>
    let lanes := t.act h
    if lanes.isEmpty then .retire s
    else span h f false (fun s tk t m _ hd =>
      let p := pkgOfTeam tk
      let next := mapNext hd
      let cap := 64 * mapCap hd
      let qOf (L : Nat) : Nat := (t.rv f.v.toNat L).toNat
      let live (L : Nat) : Bool := qOf L < next && qOf L < cap
      -- each lane's entry is checked; its cause is the lane's own (R38)
      let r := lanes.foldl (fun (acc : State × List (Nat × Option Chk)) L =>
        if live L then
          let (s, c) := acc.1.checkGlobal (coreOf tk) t.ctx (entryVa m (qOf L / 64)) 64 false false false true
          (s, acc.2 ++ [(L, some c)])
        else (acc.1, acc.2 ++ [(L, none)])) (s, [])
      let s := r.1
      match r.2.findSome? fun x => match x.2 with | some (.wait ix) => some ix | _ => none with
      | some ix => .park s (.walk ix)
      | none =>
        let cause (c : Option Chk) : Option Cause := match c with | some (.bad c) => some c | _ => none
        if r.2.any fun x => (cause x.2).isSome then .freeze s (r.2.map fun x => (x.1, cause x.2, entryVa m (qOf x.1 / 64))) 0 0
        else withBlocks s h tk t m (((lanes.filter live).map fun L => qOf L / 64).dedup) false fun s es =>
          let parts := lanes.flatMap fun L =>
            let q := qOf L
            let e := ((es.find? fun e => e.1 == q / 64).map fun e => e.2.2).getD 0
            let st := if !live L || entStatus e == 1 then 1
              else if entRetired e (q % 64) || entStatus e == 2 then 2 else (s.pkg p).rmapStatus (entPage e)
            let ad := mapVbase hd + 65536 * (q / 64) + mapGstride hd * f.imm.toNat + mapSstride hd * (q % 64)
            let a : Word := if st = 1 ∨ st = 2 ∨ st = 4 then 0 else BitVec.ofNat 64 ad
            let tag := if live L then entTag e (q % 64) else 0
            [Part.ofVal (.v f.v.toNat) L (a.extractLsb' 0 32 |>.setWidth 64), Part.ofVal (.v (f.v.toNat + 1)) L (a.extractLsb' 32 32 |>.setWidth 64),
              Part.ofVal (.v (f.v.toNat + 2)) L (BitVec.ofNat 64 st), Part.ofVal (.v (f.v.toNat + 3)) L (BitVec.ofNat 64 tag)]
          .retire ((s.updTeam tk fun u => u.writeLong parts).acquire (coreOf tk) (f.sub.toNat % 8))) s tk t) s

end Sys2Proof.Machine
end

