-- ==== Sys2Proof/Machine/Press.lean ====
section
/-! DEFINITION. Press words: the sequencer's checks and halts, operands in plane layout, multiplication and the row operations,
bells, wakes and the end of streams (R60 to R64, R84 to R91, R190 to R212, R293). -/

namespace Sys2Proof.Machine

open Host

/-! ## How a press word ends (R62, R64, R192, R293) -/

/-- What a press word answers: it took effect and the stream goes on at an address, it is refused with a cause and subcode, or
it has not started. -/
inductive POut where
  | go (s : State) (spc : Word)
  | stop (c : Cause) (sub : Nat)
  | stay (s : State)
  deriving DecidableEq, Repr

/-- Change a share's stream. -/
def State.updStream (s : State) (sh : Nat) (f : Stream → Stream) : State := s.updShare sh fun x => { x with stream := x.stream.map f }
def State.stream (s : State) (sh : Nat) : Option Stream := (s.share sh).bind (·.stream)

/-- The management core kills a stream; with it the share may end (R211). -/
def State.killStream (s : State) (sh : Nat) : State :=
  (s.updStream sh fun m => { m with st := if m.st.over then m.st else .killed }).endShare sh

/-- The core of a share, while its cluster is pre-empted the first that its grid used, and its package (R211, R313). -/
def State.coreOfShare (s : State) (x : Share) : Nat :=
  x.core.getD ((s.grid x.grid).elim 0 fun g => g.cores.headD (48 * g.pkg))
def State.pkgOfShare (s : State) (x : Share) : Nat := (s.grid x.grid).elim (pkgOf (x.core.getD 0)) (·.pkg)

/-- Log a press-stream fault: kind STREAM, the stream's SPC (R293). -/
def State.logStream (s : State) (sh : Nat) (c : Cause) (sub : Nat) : State :=
  match s.share sh with
  | none => s
  | some x =>
    let p := s.pkgOfShare x
    let spc := (x.stream.map (·.spc)).getD 0
    let s := s.updStream sh fun m => { m with cause := c.code, sub := sub }
    (s.logEsc p { addr := spc, kind := 4, core := s.coreOfShare x % 48, cause := c.code + 256 * sub }).updPkg p (·.setFstat 3)

/-- A refused word halts the stream; in hardware mode the stream and its grid are killed (R62, R293). -/
def State.haltStream (s : State) (sh : Nat) (c : Cause) (sub : Nat) : State :=
  match s.share sh with
  | none => s
  | some x =>
    let p := s.pkgOfShare x
    let s := (s.updStream sh fun m => { m with st := .halted }).logStream sh c sub
    if (s.pkg p).duty.getLsbD 0 then s else (s.killStream sh).killGrid x.grid

/-- What every word of a stream is given: its share's number, the share, the stream, and the core. -/
structure PCtx where
  sh : Nat
  x : Share
  m : Stream
  core : Nat

/-- Issue a press word: a block number at or above ACCBLK fails decode (R62). -/
def press (f : PF) (usesAcc : Bool) (body : State → PCtx → POut) (s : State) : Res :=
  match s.share s.cur with
  | none => .fault .noStream
  | some x => match x.stream, x.core with
    | some m, some core =>
      if m.st != .running then .next s
      else if usesAcc && m.blocks.length ≤ f.acc.toNat then .next (s.haltStream s.cur .illegal 0x09)
      else match body s ⟨s.cur, x, m, core⟩ with
        | .go s spc => .next ((s.updStream s.cur fun m => { m with spc := spc }).updCore core fun k =>
            { k with issued := put k.issued x.grid (getD 0 k.issued x.grid + 1) })
        | .stop c sub => .next (s.haltStream s.cur c sub)
        | .stay s => .next s
    | _, _ => .fault .noStream

/-- Behind a word (R60). -/
def PCtx.after (c : PCtx) (s : State) : POut := .go s (c.m.spc + 8)

/-- A range of the share's scratchpad lies within SPBYTES (R62). -/
def PCtx.room (c : PCtx) (off n : Nat) : Bool := n == 0 || off + n ≤ c.x.spbytes

def opOff (x : BitVec 14) : Nat := 256 * x.toNat

/-- An operand past SPBYTES fails the decode; only a word that decodes is refused for what its instruction finds as it runs
(R62, R64). -/
def refused (room refuse : Bool) (go : POut) : POut :=
  if !room then .stop .bounds 0 else if refuse then .stop .illegal 0x09 else go

/-! ## Blocks and selections (R198, R200) -/

def PCtx.block (c : PCtx) (f : PF) : Block := c.m.blocks.getD f.acc.toNat {}
def Block.at_ (b : Block) (i j : Nat) : Lane32 := getD 0 b.elems (128 * i + j)
def State.setBlock (s : State) (c : PCtx) (f : PF) (b : Block) : State :=
  s.updStream c.sh fun m => { m with blocks := m.blocks.set f.acc.toNat b }

/-- Selected rows and columns. -/
def selRows (f : PF) : List Nat := (List.range 128).filter fun i => f.mmask.getLsbD (i / 16)
def selCols (f : PF) : List Nat := (List.range 128).filter fun j => f.nmask.getLsbD (j / 16)

/-- Change every selected element. -/
def Block.modify (b : Block) (rows cols : List Nat) (g : Nat → Nat → Lane32 → Lane32) : Block :=
  { b with elems := rows.foldl (fun m i => cols.foldl (fun m j => setD 0 m (128 * i + j) (g i j (getD 0 m (128 * i + j)))) m) b.elems }

/-! ## Format registers (R196, R197) -/

/-- The fields of a format register, as a number of 32 bytes. -/
def fbField (n lo len : Nat) : Nat := n / 2 ^ lo % 2 ^ len
def PCtx.fmtReg (c : PCtx) (f : PF) : Option Nat := (find c.m.f f.fmt.toNat).map natOfBytes
def fbA (n : Nat) : Nat := fbField n 0 4
def fbApl (n : Nat) : Nat := fbField n 4 4
def fbAblk (n : Nat) : Nat := fbField n 8 2
def fbB (n : Nat) : Nat := fbField n 16 4
def fbBpl (n : Nat) : Nat := fbField n 20 4
def fbBblk (n : Nat) : Nat := fbField n 24 2
def fbAcct (n : Nat) : Nat := fbField n 32 4
def fbAsoff (n : Nat) : Nat := fbField n 64 32
def fbBsoff (n : Nat) : Nat := fbField n 96 32
def fbEscale (n : Nat) : Lane32 := .ofNat 32 (fbField n 128 32)
def fbEfmt (n : Nat) : Nat := fbField n 160 4

/-- What PFMT refuses: its subcode (R197). -/
def fbBad (n version : Nat) : Option Nat :=
  if fbField n 10 6 != 0 || fbField n 26 6 != 0 || fbField n 36 28 != 0 || fbField n 164 28 != 0 || fbField n 192 64 != 0
      || fbAsoff n % 2 != 0 || fbBsoff n % 2 != 0 || (fbAcct n != 0 && fbAcct n != 9)
      || 9 < fbA n || 9 < fbB n || 9 < fbEfmt n then some 0x09
  else if version == 1 && (fbA n == 7 || fbB n == 7 || fbEfmt n == 7) then some 0x05 else none

def execPfmt (f : PF) (s : State) : Res :=
  press f false (fun s c =>
    let off := opOff f.offa
    if !c.room off 32 then .stop .bounds 0
    else
      let bs := (List.range 32).map fun i => s.spByte c.sh (off + i)
      match fbBad (natOfBytes bs) ((s.grid c.x.grid).elim 3 fun g => g.kernel.version) with
      | some sub => .stop .illegal sub
      | none => c.after (s.updStream c.sh fun m => { m with f := put m.f f.fmt.toNat bs })) s

/-! ## Operands in plane layout (R85, R194, R195) -/

/-- Byte and bit, from a region's start, of plane p of element e, in a region of 64 groups (R85). -/
def planeAt (f : Fmt) (p e : Nat) : Nat × Nat :=
  let (h, sg) := fmtPlanes f
  let g := e / 64
  let w := if p < h then g * h + p else 64 * h + g * sg + (p - h)
  (8 * w + e % 64 / 8, e % 8)

/-- Bytes of an operand region (Table 07-3). -/
def regionBytes (f : Fmt) : Nat := 512 * ((fmtPlanes f).1 + (fmtPlanes f).2)

/-- An element of an operand region, with p planes read (R86, R87). -/
def State.operand (s : State) (sh base : Nat) (f : Fmt) (p e : Nat) : XVal :=
  planeElem f p fun k =>
    let a := planeAt f k e
    (s.spByte sh (base + a.1)).getLsbD a.2

/-- Planes read: 0 means all (R196). -/
def planesRead (f : Fmt) (n : Nat) : Nat :=
  let all := if (fmtPlanes f).2 = 0 then fmtBits f else (fmtPlanes f).2
  if n = 0 then all else n

/-- Scales of a row or column: 2 under length code 1, else 1 (R195). -/
def nScales (code : Nat) : Nat := if code = 1 then 2 else 1

/-- The scale of element k of row or column i. -/
def State.scale (s : State) (sh base off code i k : Nat) : XVal :=
  if code = 0 then XVal.ofInt 1
  else decodeNum .bf16 (s.spNat sh (base + off + 2 * (i * nScales code + (if code = 1 then k / 16 else 0))) 2)

/-- The scale bytes of the highest selected row lie within SPBYTES. -/
def PCtx.scaleRoom (c : PCtx) (base off code : Nat) (sel : List Nat) : Bool :=
  code == 0 || match sel.getLast? with
    | none => true
    | some i => c.room (base + off) (2 * (i + 1) * nScales code)

/-! ## Multiplication (R88, R89, R200 to R202) -/

def isIntFmt (n : Nat) : Bool := n == 5 || n == 6
def isFloatFmt (n : Nat) : Bool := n == 1 || n == 3 || n == 4 || n == 7

/-- The refusal checks 2 to 6 of R200 on a format register's contents. -/
def pmmOk (n : Nat) (isInt : Bool) : Bool :=
  let a := fbA n
  let b := fbB n
  let planes (code pl : Nat) : Bool :=
    if code == 7 then pl == 0 else match fmtOf code with
      | some f => pl ≤ (if isIntFmt code then fmtBits f else (fmtPlanes f).2)
      | none => false
  ((isIntFmt a && isIntFmt b && fbAcct n == 9) || (isFloatFmt a && isFloatFmt b && fbAcct n == 0))
    && (isInt == (fbAcct n == 9)) && planes a (fbApl n) && planes b (fbBpl n)
    && (!isIntFmt a || fbAblk n == 0) && (!isIntFmt b || fbBblk n == 0)

/-- Bytes of the region of a format code, 0 for a code without a plane layout. -/
def planeSize (code : Nat) : Nat := if isIntFmt code || isFloatFmt code then (fmtOf code).elim 0 regionBytes else 0

/-- A finite value as an integer. -/
def xint : XVal → Int | .fin n m e => finAt n m e 0 | _ => 0

/-- The exact sum of the products of one element, +0 when it is zero (R88). -/
def dotFloat (ps : List XVal) : XVal :=
  match ps.foldl (fun (a : XVal) p => a.add .rne p) (.fin false 0 0) with
  | .fin _ 0 _ => .fin false 0 0
  | x => x

/-- The new element of a float block, and of an integer block with its saturation (R88, R89). -/
def mmFloat (old : Lane32) (t : XVal) : Lane32 := (round .fp32 .rne false false ((readF32 false old).add .rne t)).enc
def mmInt (old : Lane32) (t : Int) : Lane32 × Bool :=
  let x := old.toInt + t
  let y := clampInt (-(2 ^ 31)) (2 ^ 31 - 1) x
  (.ofInt 32 y, y != x)

/-- Multiply into the selected elements (R201). -/
def State.multiply (s : State) (c : PCtx) (f : PF) (n : Nat) : Block :=
  let b := c.block f
  match fmtOf (fbA n), fmtOf (fbB n) with
  | some fa, some fb =>
    let oa := opOff f.offa
    let ob := opOff f.offb
    let row (i : Nat) : List XVal := (List.range 32).map fun k =>
      (s.operand c.sh oa fa (planesRead fa (fbApl n)) (32 * i + k)).mul (s.scale c.sh oa (fbAsoff n) (fbAblk n) i k)
    let col (j : Nat) : List XVal := (List.range 32).map fun k =>
      (s.operand c.sh ob fb (planesRead fb (fbBpl n)) (32 * j + k)).mul (s.scale c.sh ob (fbBsoff n) (fbBblk n) j k)
    let cols := (selCols f).map fun j => (j, col j)
    (selRows f).foldl (fun b i =>
      let a := row i
      cols.foldl (fun b y =>
        let key := 128 * i + y.1
        let ps := (a.zip y.2).map fun z => z.1.mul z.2
        if b.isInt then
          let r := mmInt (getD 0 b.elems key) ((ps.map xint).foldl (· + ·) 0)
          { b with elems := setD 0 b.elems key r.1, sat := b.sat || r.2 }
        else { b with elems := setD 0 b.elems key (mmFloat (getD 0 b.elems key) (dotFloat ps)) }) b) b
  | _, _ => b

/-- Clocks that a word holds the press (R201). -/
def pmmClocks (f : PF) (n : Nat) : Nat :=
  if f.mmask = 0 ∨ f.nmask = 0 then 1
  else
    let pb := if fbB n = 7 then 2 else (fmtOf (fbB n)).elim 1 fun b => planesRead b (fbBpl n)
    max pb (if fbA n = 1 then 2 else 1)

/-! ## Power gating (R209, R210) -/

/-- The sub-arrays that masks use. -/
def usedArrays (f : PF) : List Nat := (List.range 16).filter fun x =>
  (f.mmask.getLsbD (2 * (x / 4)) || f.mmask.getLsbD (2 * (x / 4) + 1)) && (f.nmask.getLsbD (2 * (x % 4)) || f.nmask.getLsbD (2 * (x % 4) + 1))

/-- A wake of a sub-array of a core has started and has not been completed. -/
def State.waking (s : State) (core x : Nat) : Bool :=
  (find (s.core core).wakeAt x).isSome

/-- Start the wake of the gated sub-arrays among some; each wake is counted, saturating. WAKEAT of the stream takes the clock at which
each completes, also of a wake that another stream has started (R191; log 109). -/
def State.startWakes (s : State) (c : PCtx) (xs : List Nat) : State :=
  xs.foldl (fun s x =>
    if !(s.core c.core).gated.getLsbD x then s
    else
      let s := if s.waking c.core x then s else s.updCore c.core fun k =>
        { k with wakeAt := put k.wakeAt x (s.now + Config.pressWake), wakes := if k.wakes = 0xFFFF then k.wakes else k.wakes + 1 }
      s.updStream c.sh fun m => { m with wakeAt := put m.wakeAt x (getD s.now (s.core c.core).wakeAt x) }) s

/-- Use the press: once it is free and every sub-array used is awake (R201, R209); the idle clocks of the sub-arrays count from the clock at
which the word starts (the model's choice: log 108). -/
def usePress (c : PCtx) (f : PF) (clocks : Nat) (s : State) (go : State → POut) : POut :=
  let k := s.core c.core
  let xs := (usedArrays f)
  if s.now < k.pressFree then .stay s
  else if xs.any fun x => k.gated.getLsbD x then .stay (s.startWakes c xs)
  else go (s.updCore c.core fun k => { k with
    pressFree := s.now + clocks
    lastUse := xs.foldl (fun m x => put m x s.now) k.lastUse })

/-- PMM and PMMS: the refusals of R200, the press, the update; `bitmap` masks columns afterwards (R202). -/
def multiplyWord (f : PF) (bitmap : Bool) (s : State) (c : PCtx) : POut :=
  match c.fmtReg f with
  | none => .stop .illegal 0x09
  | some n =>
    let rows := if f.nmask = 0 then [] else (selRows f)
    let cols := if f.mmask = 0 then [] else (selCols f)
    -- a format without a plane layout has no region
    let sizeA := planeSize (fbA n)
    let sizeB := planeSize (fbB n)
    let room := (sizeA == 0 || c.room (opOff f.offa) sizeA && c.scaleRoom (opOff f.offa) (fbAsoff n) (fbAblk n) rows)
      && (sizeB == 0 || c.room (opOff f.offb) (sizeB + (if bitmap then 16 else 0)) && c.scaleRoom (opOff f.offb) (fbBsoff n) (fbBblk n) cols)
    refused room (!pmmOk n (c.block f).isInt || (bitmap && (c.block f).isInt)) <|
      usePress c f (pmmClocks f n) s fun s =>
        let b := s.multiply c f n
        let map := s.spNat c.sh (opOff f.offb + sizeB) 16
        let b := if bitmap then b.modify rows cols fun _ j x => if map.testBit j then x else 0xFF800000 else b
        c.after (s.setBlock c f b)

def execPmm (f : PF) (s : State) : Res := press f true (multiplyWord f false) s
def execPmms (f : PF) (s : State) : Res := press f true (multiplyWord f true) s

/-! ## Control words (R199, R200) -/

def execPnop (f : PF) (s : State) : Res := press f false (fun s c => c.after s) s
def execPzero (f : PF) (s : State) : Res :=
  press f true (fun s c => c.after (s.setBlock c f { isInt := f.pfl.getLsbD 0, sat := false, elems := [] })) s
def execPend (f : PF) (s : State) : Res :=
  press f false (fun s c => .go ((s.updStream c.sh fun m => { m with st := .ended }).endShare c.sh) c.m.spc) s

/-- Target of PJMP and PLOOP: SPC + 8 × Sext(word[52:25], 28). -/
def PCtx.target (c : PCtx) (f : PF) : Word := c.m.spc + f.woff.signExtend 64 * 8

def execPjmp (f : PF) (s : State) : Res := press f false (fun s c => .go s (c.target f)) s
def execPloop (f : PF) (s : State) : Res :=
  press f false (fun s c =>
    let k := f.pfl.toNat
    let lc := getD 0 c.m.lc k
    let n := (if lc = 0 then f.count.toNat else lc) - 1
    let s := s.updStream c.sh fun m => { m with lc := setD 0 m.lc k n }
    if n = 0 then c.after s else .go s (c.target f)) s

/-! ## Loads, stores and rows (R203 to R207) -/

/-- Write words or bytes of the share's scratchpad on behalf of the press. -/
def State.pressWrite (s : State) (sh off : Nat) (bs : List Byte) : State := (s.setSpBytes sh off bs).noteWrite none [.sp sh off]

def State.spWord (s : State) (sh off : Nat) : Lane32 := .ofNat 32 (s.spNat sh off 4)

def execPloada (f : PF) (s : State) : Res :=
  press f true (fun s c =>
    if !c.room (opOff f.offa) 65536 then .stop .bounds 0
    else c.after (s.setBlock c f ((c.block f).modify (selRows f) (selCols f) fun i j _ => s.spWord c.sh (opOff f.offa + 4 * (128 * i + j))))) s

/-- An element of a block as a number. -/
def Block.val (b : Block) (i j : Nat) : XVal := if b.isInt then XVal.ofInt (b.at_ i j).toInt else readF32 false (b.at_ i j)

/-- PSTORE.cvt's destination of element n: bytes, or a nibble (R203). -/
def State.storeElem (s : State) (sh base n : Nat) (f : Fmt) (x : Nat) : State :=
  if fmtBits f = 4 then
    let old := s.spByte sh (base + n / 2)
    let v := BitVec.ofNat 8 (x % 16)
    s.pressWrite sh (base + n / 2) [if n % 2 = 0 then (old &&& 0xF0) ||| v else (old &&& 0x0F) ||| v <<< 4]
  else s.pressWrite sh (base + fmtBits f / 8 * n) (bytesOf (fmtBits f / 8) (x % 2 ^ fmtBits f))

def execPstore (f : PF) (s : State) : Res :=
  press f true (fun s c =>
    let b := c.block f
    let base := opOff f.offb
    let each (s : State) (g : State → Nat → Nat → State) : State := (selRows f).foldl (fun s i => (selCols f).foldl (fun s j => g s i j) s) s
    if !f.pfl.getLsbD 0 then
      (if !c.room base 65536 then .stop .bounds 0
       else c.after (each s fun s i j => s.pressWrite c.sh (base + 4 * (128 * i + j)) (bytesOf 4 (b.at_ i j).toNat)))
    else match (c.fmtReg f).bind fun n => fmtOf (fbEfmt n) with
      | none => .stop .illegal 0x09
      | some e =>
        if !c.room base (16384 * fmtBits e / 8) then .stop .bounds 0
        else c.after (each s fun s i j => s.storeElem c.sh base (128 * i + j) e (round e .rne true false (b.val i j)).enc.toNat)) s

/-- PTRANS swaps rows and columns (R204). -/
def Block.transpose (b : Block) : Block := { b with elems := b.elems.foldl (fun m e => put m (128 * (e.1 % 128) + e.1 / 128) e.2) [] }

def execPtrans (f : PF) (s : State) : Res := press f true (fun s c => c.after (s.setBlock c f (c.block f).transpose)) s

/-- The encoding that PEXP forms of an element (R205). -/
def expElem (acc bias scale : Lane32) (e : Fmt) : Nat :=
  let x : XVal :=
    if bias = 0xFF800000 then .inf true
    else readF32 false (round .fp32 .rne false false (((readF32 false acc).add .rne (readF32 false bias).neg).mul (readF32 false scale))).enc
  (e2 x e).enc.toNat

/-- Destination formats of PEXP and PROWSUM. -/
def expFmt (n : Nat) : Option Fmt := if isFloatFmt (fbEfmt n) then fmtOf (fbEfmt n) else none

/-- The words of the selected rows at an offset lie within SPBYTES. -/
def PCtx.rowRoom (c : PCtx) (off : Nat) (rows : List Nat) : Bool := match rows.getLast? with | none => true | some i => c.room off (4 * (i + 1))

/-- Write an element of an operand region in plane layout; no other bit of its plane words changes. -/
def State.setPlanes (s : State) (sh base : Nat) (f : Fmt) (e x : Nat) : State :=
  (List.range ((fmtPlanes f).1 + (fmtPlanes f).2)).foldl (fun s p =>
    let a := planeAt f p e
    let old := s.spByte sh (base + a.1)
    let m := BitVec.ofNat 8 (2 ^ a.2)
    s.pressWrite sh (base + a.1) [if planeBit f p x then old ||| m else old &&& ~~~m]) s

def execPexp (f : PF) (s : State) : Res :=
  press f true (fun s c =>
    let b := c.block f
    let rows := if f.nmask = 0 then [] else (selRows f)
    let cols := if f.mmask = 0 then [] else (selCols f)
    match (c.fmtReg f).bind fun n => (expFmt n).map fun e => (n, e) with
    | none => refused (c.rowRoom (opOff f.offa) rows) true (.stay s)
    | some (n, e) =>
        let rs := regionBytes e
        refused (c.rowRoom (opOff f.offa) rows && cols.all fun j => c.room (opOff f.offb + j / 32 * rs) rs) b.isInt <|
          -- every bias and element is read before any bit is written
          let es := rows.flatMap fun i =>
            let bias := s.spWord c.sh (opOff f.offa + 4 * i)
            cols.map fun j => (opOff f.offb + j / 32 * rs, 32 * i + j % 32, expElem (b.at_ i j) bias (fbEscale n) e)
          c.after (es.foldl (fun s x => s.setPlanes c.sh x.1 e x.2.1 x.2.2) s)) s

/-- The maximum of words of a block's type, none for no word (R206). -/
def maxWords (isInt : Bool) (xs : List Lane32) : Option Lane32 :=
  let op (a b : Lane32) : Lane32 := if isInt then (if a.toInt < b.toInt then b else a) else fminmax true false a b
  match xs with
  | [] => none
  | x :: xs => some (xs.foldl op (op x x))

/-- The least value of a block's type: −∞ or −2^31. -/
def leastOf (isInt : Bool) : Lane32 := if isInt then 0x80000000 else 0xFF800000

def execProwmax (f : PF) (s : State) : Res :=
  press f true (fun s c =>
    let b := c.block f
    let off := opOff f.offb
    if !c.rowRoom off (selRows f) then .stop .bounds 0
    else c.after ((selRows f).foldl (fun s i =>
      let old := s.spWord c.sh (off + 4 * i)
      let sel := (selCols f).map fun j => b.at_ i j
      let x := if f.pfl.getLsbD 0 then (if sel.isEmpty then old else (maxWords b.isInt (old :: sel)).getD old)
               else (maxWords b.isInt sel).getD (leastOf b.isInt)
      s.pressWrite c.sh (off + 4 * i) (bytesOf 4 x.toNat)) s)) s

def execProwsum (f : PF) (s : State) : Res :=
  press f true (fun s c =>
    let b := c.block f
    let room := c.rowRoom (opOff f.offb) (selRows f) && (f.nmask == 0 || c.rowRoom (opOff f.offa) (selRows f))
    match (c.fmtReg f).bind fun n => (expFmt n).map fun e => (n, e) with
    | none => refused room true (.stay s)
    | some (n, e) =>
        refused room b.isInt <|
          let add (x y : Lane32) : Lane32 := (round .fp32 .rne false false ((readF32 false x).add .rne (readF32 false y))).enc
          let rows := (selRows f).map fun i =>
            let bias := s.spWord c.sh (opOff f.offa + 4 * i)
            let leaf (j : Nat) : Option Lane32 :=
              if f.nmask.getLsbD (j / 16) then
                some (round .fp32 .rne false false (decodeNum e (expElem (b.at_ i j) bias (fbEscale n) e))).enc
              else none
            (i, (tree add 7 ((List.range 128).map leaf)).getD 0)
          c.after (rows.foldl (fun s x => s.pressWrite c.sh (opOff f.offb + 4 * x.1) (bytesOf 4 x.2.toNat)) s)) s

def execPscale (f : PF) (s : State) : Res :=
  press f true (fun s c =>
    let b := c.block f
    let rows := if f.nmask = 0 then [] else (selRows f)
    refused (c.rowRoom (opOff f.offa) rows) b.isInt <| c.after (s.setBlock c f (b.modify (selRows f) (selCols f) fun i _ x =>
      (round .fp32 .rne false false ((readF32 false x).mul (readF32 false (s.spWord c.sh (opOff f.offa + 4 * i))))).enc))) s

/-! ## Bells and wakes (R208, R209) -/

def execPbellw (f : PF) (s : State) : Res :=
  press f false (fun s c =>
    let b := f.bell.toNat
    let ph := (s.bell c.sh b).phase
    if ph = c.m.seen.getLsbD b then .stay (s.updStream c.sh fun m => { m with st := .waiting b })
    else
      let m := BitVec.ofNat 16 (2 ^ b)
      let s := s.updStream c.sh fun k => { k with seen := if ph then k.seen ||| m else k.seen &&& ~~~m }
      c.after (s.acquire c.core 2)) s

def execPbellr (f : PF) (s : State) : Res :=
  press f false (fun s c => c.after ((s.release c.core 2).bellArrive c.sh f.bell.toNat)) s

def execPwake (f : PF) (s : State) : Res := press f false (fun s c => c.after (s.startWakes c (usedArrays f))) s

/-- A word that fails decode halts its stream: OPCODE for a POP without an instruction, FIELD otherwise (R62). -/
def execPressWordRefused (w : Word) (s : State) : Res :=
  press ⟨0, 0, 0, 0, 0, 0, 0, 0⟩ false (fun _ _ => .stop .illegal (if (pressOp w).isNone then 0x04 else 0x09)) s

/-- A waiting stream goes on once its bell's PHASE differs from SEEN (R208). -/
def execPressBellWake (sh : Nat) (s : State) : Res :=
  .next (match s.stream sh with
    | some m => match m.st with
      | .waiting b => if (s.bell sh b).phase != m.seen.getLsbD b then s.updStream sh fun m => { m with st := .running } else s
      | _ => s
    | none => s)

/-- A sub-array that nothing has used for IDLE clocks is gated (R209). -/
def execPressIdleGate (core ix : Nat) (s : State) : Res :=
  let k := s.core core
  let idle := k.idle.toNat
  .next (if ix < 16 && idle != 0 && !k.gated.getLsbD ix && getD 0 k.lastUse ix + idle ≤ s.now then
    s.updCore core fun k => { k with gated := k.gated ||| BitVec.ofNat 16 (2 ^ ix) } else s)

/-- A wake completes: its sub-array is no longer gated (R209), and its idle clocks count from this clock (the model's choice: log 108). -/
def execPressWakeComplete (core ix : Nat) (s : State) : Res :=
  .next (if ix < 16 && (find (s.core core).wakeAt ix).any (· ≤ s.now) then
    s.updCore core fun k =>
      { k with gated := k.gated &&& ~~~BitVec.ofNat 16 (2 ^ ix), lastUse := put k.lastUse ix s.now, wakeAt := erase k.wakeAt ix }
    else s)

/-- A stream that waits on a bell that nothing can ring is killed and logged with ILLEGAL WAIT (R211, R293). -/
def execStreamDeadlockKill (sh : Nat) (s : State) : Res :=
  .next (match s.stream sh with
    | some m => match m.st with
      | .waiting b =>
        if (s.teamsOf sh).isEmpty && !(s.xfers.any fun x => x.2.share == sh) && (s.bell sh b).phase == m.seen.getLsbD b then
          (s.logStream sh .illegal 0x0D).killStream sh
        else s
      | _ => s
    | none => s)

end Sys2Proof.Machine
end

