-- ==== Sys2Proof/Machine/Sync.lean ====
section
/-! DEFINITION. Rows 0x13 and 0x14: barriers, bells and stage rings (R155 to R167, R374). -/

namespace Sys2Proof.Machine

/-- ILLEGAL with a subcode of Table 06-1. -/
def stopWith (s : State) (h : Hdr) (sub : Nat) : Act := .fault s h .illegal sub 0 0

/-- The scope of a synchronisation word on a scratchpad object: SUB[2:0], clamped to CLUSTER (R154). -/
def syncScope (f : SF) : Nat := clampScope (f.sub.toNat % 8)

/-! ## Barriers -/

/-- The barrier word of an S word, checked as an 8-byte write (R157). -/
def atBarrier (s : State) (h : Hdr) (t : Team) (f : SF) (go : Nat → Nat → Act) : Act :=
  let ea : Lane32 := (t.rs f.s1.toNat).setWidth 32 + f.imm.setWidth 32
  match s.checkSp t ea.toNat 8 true with
  | .error c => .fault s h c 0 0 (ea.setWidth 64)
  | .ok (sh, off) => go sh off

def Team.regOf (t : Team) (sh off : Nat) : Option Registration := t.regs.find? fun r => r.sh == sh && r.off == off
def Team.setReg (t : Team) (r : Registration) : Team :=
  { t with regs := (t.regs.filter fun q => !(q.sh == r.sh && q.off == r.off)) ++ [r] }
def Team.dropRegOf (t : Team) (sh off : Nat) : Team := { t with regs := t.regs.filter fun q => !(q.sh == sh && q.off == off) }

/-- What keeps an arrival from being made: its subcode (R159). -/
def Team.arriveBad (t : Team) (sh off : Nat) : Option Nat :=
  match t.regOf sh off with
  | some r => if r.pending then some 0x12 else none
  | none => if 8 ≤ t.regs.length then some 0x11 else none

/-- Arrive for a team: its registration records the phase and is pending, and the word counts (R159). -/
def State.arriveFor (s : State) (tk sh off : Nat) : State :=
  let w := s.barWord sh off
  (s.updTeam tk fun t => t.setReg ⟨sh, off, true, w.phase⟩).setBar (some tk) sh off (w.arrive false)

/-- Drop for a team (R159): an arrive-and-drop, or a drop beside the pending arrival; the registration goes. -/
def State.dropFor (s : State) (tk sh off : Nat) : State :=
  let w := s.barWord sh off
  let pending := ((s.team tk).bind (·.regOf sh off)).any (·.pending)
  (s.updTeam tk fun t => t.dropRegOf sh off).setBar (some tk) sh off (if pending then { w with drops := w.drops + 1 } else w.arrive true)

/-- BAR.WAIT (R159). A team that parks keeps the place it waits at (R52). -/
def barrierWait (s : State) (h : Hdr) (tk : Nat) (t : Team) (sh off scope : Nat) : Act :=
  match t.regOf sh off with
  | none => stopWith s h 0x12
  | some r =>
    if !r.pending then stopWith s h 0x12
    else if (s.barWord sh off).phase = r.phase then .park (s.setTeam tk { t with latch := some [BitVec.ofNat 64 sh, BitVec.ofNat 64 off] }) (.barrier sh off r.phase)
    else .retire ((s.setTeam tk { t.setReg { r with pending := false } with syncMark := none }).acquire (coreOf tk) scope)

def execBarInit (h : Hdr) (f : SF) (s : State) : Res :=
  issue (.barInit h f) h (once h fun s tk t => atBarrier s h t f fun sh off =>
    .retire (s.setBar (some tk) sh off ⟨(t.rs f.s2.toNat).toNat % 65536, 0, 0, false⟩)) s
def execBarArrive (h : Hdr) (f : SF) (s : State) : Res :=
  issue (.barArrive h f) h (once h fun s tk t => atBarrier s h t f fun sh off =>
    match t.arriveBad sh off with
    | some sub => stopWith s h sub
    | none => releaseThen s tk t (syncScope f) fun s => .retire (s.arriveFor tk sh off)) s
/-- The barrier at which a word that has parked waits, or the word's own (R52). -/
def atWait (s : State) (h : Hdr) (t : Team) (f : SF) (go : Nat → Nat → Act) : Act :=
  match t.latch with
  | some [sh, off] => go sh.toNat off.toNat
  | _ => atBarrier s h t f go

def execBarWait (h : Hdr) (f : SF) (s : State) : Res :=
  issue (.barWait h f) h (once h fun s tk t => atWait s h t f fun sh off => barrierWait s h tk t sh off (syncScope f)) s
/-- BAR.SYNC: the arrival, then the wait; with the sync mark of this word standing, the wait alone (R374). -/
def execBarSync (h : Hdr) (f : SF) (s : State) : Res :=
  issue (.barSync h f) h (once h fun s tk t => atWait s h t f fun sh off =>
    if t.syncMark = some t.here then barrierWait s h tk t sh off (syncScope f)
    else match t.arriveBad sh off with
      | some sub => stopWith s h sub
      | none => releaseThen s tk t (syncScope f) fun s =>
        let s := (s.arriveFor tk sh off).updTeam tk fun u => { u with syncMark := some u.here }
        match s.team tk with
        | none => .retire s
        | some u => barrierWait s h tk u sh off (syncScope f)) s
def execBarDrop (h : Hdr) (f : SF) (s : State) : Res :=
  issue (.barDrop h f) h (once h fun s tk t => atBarrier s h t f fun sh off =>
    releaseThen s tk t (syncScope f) fun s => .retire (s.dropFor tk sh off)) s

/-! ## Bells -/

/-- The bell a word names: ID[3:0] (R164). -/
def bellNo (f : SF) : Nat := f.id.toNat % 16

def execBellRing (h : Hdr) (f : SF) (s : State) : Res :=
  issue (.bellRing h f) h (once h fun s tk t =>
    releaseThen s tk t (f.sub.toNat % 8) fun s => .retire (s.bellArrive t.share (bellNo f))) s
def execBellRingSet (h : Hdr) (f : SF) (s : State) : Res :=
  issue (.bellRingSet h f) h (once h fun s _ t =>
    .retire (s.updShare t.share fun x => { x with stream := x.stream.map fun m =>
      let b := m.bells.getD (bellNo f) {}
      { m with bells := m.bells.set (bellNo f) { b with expect := f.imm.toNat, count := 0 } } })) s
def execBellWait (h : Hdr) (f : SF) (s : State) : Res :=
  issue (.bellWait h f) h (once h fun s tk t =>
    if !s.bellReady t (bellNo f) then .park s (.bell (bellNo f))
    else .retire ((s.setTeam tk (s.bellSeen t [bellNo f])).acquire (coreOf tk) (f.sub.toNat % 8))) s
/-- The bell's state word (Table 06-5). -/
def bellWord (b : Bell) (seen got : Bool) : Nat :=
  b.expect % 65536 + 2 ^ 16 * (b.count % 65536) + (if b.phase then 2 ^ 32 else 0) + (if seen then 2 ^ 33 else 0) + (if got then 2 ^ 34 else 0)
def execBellWaitNb (h : Hdr) (f : SF) (s : State) : Res :=
  issue (.bellWaitNb h f) h (once h fun s tk t =>
    let got := s.bellReady t (bellNo f)
    let w := bellWord (s.bell t.share (bellNo f)) (t.seen.getLsbD (bellNo f)) got
    let u := (if got then s.bellSeen t [bellNo f] else t).longS f.s1.toNat (BitVec.ofNat 64 w)
    .retire ((s.setTeam tk u).acquireIf (coreOf tk) (f.sub.toNat % 8) got)) s

/-! ## Stage rings -/

def ringNo (f : SF) : Nat := f.id.toNat % 8
def State.ring (s : State) (sh r : Nat) : Ring := ((s.share sh).bind fun x => x.rings[r]?).getD {}
def State.setRing (s : State) (sh r : Nat) (g : Ring) : State := s.updShare sh fun x => { x with rings := x.rings.set r g }
def Ring.at_ (g : Ring) (i : Nat) : SlotState × Word := g.slots.getD i (.empty, 0)

/-- The status of an `.nb` form: 0 when it proceeds, 1 when not (R166). -/
def nbStatus (f : SF) (t : Team) (x : Word) : Team := if f.sub.getLsbD 3 then t.longS f.s2.toNat x else t

/-- RING.SEND: into an EMPTY tail slot with the token it read when it issued, the form that parks behind the senders that parked before it,
the `.nb` form by the slot's state alone (R52, R166, R167). -/
def execRingSend (h : Hdr) (f : SF) (s : State) : Res :=
  issue (.ringSend h f) h (once h fun s tk t =>
    let r := ringNo f
    let g := s.ring t.share r
    let token := (t.latch.bind (·.head?)).getD (t.rs f.s1.toNat)
    let turn := (g.at_ g.tail).1 = .empty ∧ (f.sub.getLsbD 3 ∨ g.senders = [] ∨ g.senders.head? = some tk)
    if turn then releaseThen s tk t (syncScope f) fun s =>
      let g := s.ring t.share r
      let g := { g with slots := g.slots.set g.tail (.full, token), tail := (g.tail + 1) % g.cap, senders := g.senders.filter (· != tk) }
      .retire ((s.setRing t.share r g).updTeam tk fun u => nbStatus f u 0)
    else if f.sub.getLsbD 3 then .retire (s.setTeam tk (nbStatus f t 1))
    else
      let s := if g.senders.contains tk then s else s.setRing t.share r { g with senders := g.senders ++ [tk] }
      .park (s.setTeam tk { t with latch := some [token] }) (.ringSend r)) s
def execRingTake (h : Hdr) (f : SF) (s : State) : Res :=
  issue (.ringTake h f) h (once h fun s tk t =>
    let r := ringNo f
    let g := s.ring t.share r
    let turn := (g.at_ g.head).1 = .full ∧ (f.sub.getLsbD 3 ∨ g.takers = [] ∨ g.takers.head? = some tk)
    if turn then
      let x := (g.at_ g.head).2
      let g := { g with slots := g.slots.set g.head (.taken, x), head := (g.head + 1) % g.cap, takers := g.takers.filter (· != tk) }
      .retire (((s.setRing t.share r g).updTeam tk fun u => nbStatus f (u.longS f.s1.toNat x) 0).acquire (coreOf tk) (syncScope f))
    else if f.sub.getLsbD 3 then .retire (s.setTeam tk (nbStatus f t 1))
    else .park (if g.takers.contains tk then s else s.setRing t.share r { g with takers := g.takers ++ [tk] }) (.ringTake r)) s
def execRingFree (h : Hdr) (f : SF) (s : State) : Res :=
  issue (.ringFree h f) h (once h fun s tk t =>
    let r := ringNo f
    let g := s.ring t.share r
    if (g.at_ g.free).1 ≠ .taken then stopWith s h 0x13
    else releaseThen s tk t (syncScope f) fun s =>
      let g := s.ring t.share r
      .retire (s.setRing t.share r { g with slots := g.slots.set g.free (.empty, 0), free := (g.free + 1) % g.cap })) s
def execRingFreeCap (h : Hdr) (f : SF) (s : State) : Res :=
  issue (.ringFreeCap h f) h (once h fun s _ t =>
    let r := ringNo f
    let g := s.ring t.share r
    if g.slots.any fun x => x.1 != .empty then stopWith s h 0x13
    else .retire (s.setRing t.share r { g with cap := f.imm.toNat, slots := List.replicate f.imm.toNat (.empty, 0), tail := 0, head := 0, free := 0 })) s
/-- The ring's state word (Table 06-8). -/
def Ring.word (g : Ring) : Nat :=
  let count (x : SlotState) : Nat := (g.slots.filter fun y => y.1 == x).length
  g.cap + 2 ^ 8 * count .full + 2 ^ 16 * count .taken + 2 ^ 24 * count .empty + 2 ^ 32 * g.head + 2 ^ 36 * g.tail + 2 ^ 40 * g.free
def execRingStat (h : Hdr) (f : SF) (s : State) : Res :=
  issue (.ringStat h f) h (once h fun s tk t =>
    .retire (s.setTeam tk (t.longS f.s1.toNat (BitVec.ofNat 64 (s.ring t.share (ringNo f)).word)))) s

end Sys2Proof.Machine
end

