-- ==== Sys2Proof/Machine/Try.lean ====
section
/-! DEFINITION. Row 0x15: try regions (R168 to R173). -/

namespace Sys2Proof.Machine

/-- TRY opens a region over the state at the word, once the results of earlier words have returned (R169; log 12). -/
def execTry (h : Hdr) (f : SF) (s : State) : Res :=
  issue (.tryK h f) h (once h fun s tk t =>
    if t.outst.any fun o => !o.parts.isEmpty then .park s .results
    else
      let c := t.pend.foldl (fun u e => u.store e.reg e.lane e.val) t
      let r : TryRegion :=
        { laneMode := f.sub.getLsbD 0, abortPc := t.pc + f.imm.signExtend 64 * 8, v := c.v, s := c.s, k := c.k, live := t.live
          active := t.active, depth := t.masks.length }
      .retire (s.setTeam tk { t with tryR := some r })) s

/-- Lanes of a region whose footprint another agent has written (R172). -/
def TryRegion.conflicts (r : TryRegion) : List Nat := ((r.foot.filter (·.dirty)).map (·.lane)).dedup

/-- Return lanes to the checkpoint but for one predicate; what is outstanding for them is discarded (R172). -/
def Team.rollBack (t : Team) (r : TryRegion) (bad : List Nat) (keep : Nat) : Team :=
  let m := maskOf 1024 fun L => bad.contains L
  let lane (e : Nat × Lane32) : Bool := bad.contains (e.1 % 1024)
  { t with
    v := (r.v.filter lane).foldl (fun v e => put v e.1 e.2) (t.v.filter fun e => !lane e)
    k := (List.range 15).foldl (fun k n => if n = keep then k else setD 0 k n ((getD 0 t.k n &&& ~~~m) ||| (getD 0 r.k n &&& m))) t.k
    pend := t.pend.filter fun e => match e.reg with | .s _ => true | _ => !bad.contains e.lane
    outst := t.outst.map fun o => { o with parts := o.parts.filter fun q => match q.reg with | .s _ => true | _ => !bad.contains q.lane } }

/-- What the package's entry says of a page, for a write that has only the resolved address. -/
def State.leafOf (s : State) (p gpn : Nat) : Leaf :=
  (s.entLeaf p gpn).getD ⟨gpn, 0, true, false, false, false, false, 0, 0, 0⟩

/-- Perform the buffered stores of some lanes, each lane's in program order, the highest lane's byte standing (R127, R172). -/
def State.performBuffer (s : State) (tk : Nat) (t : Team) (buf : List BufByte) (scope : Nat) : State :=
  let lanes := ((buf.map (·.lane)).dedup).mergeSort (· ≤ ·)
  let sorted := lanes.flatMap fun L => buf.filter fun b => b.lane == L
  let s := sorted.foldl (fun s b => match b.loc with | .sp sh off => s.setSpBytes sh off [b.val] | .glob _ => s) s
  let s := s.noteWrite (some tk) (sorted.map (·.loc))
  s.performStores tk t (sorted.filterMap fun b => match b.loc with
    | .glob a => some (b.lane, a, s.leafOf (pkgOfTeam tk) (a / 65536), b.val) | .sp _ _ => none)
    (fun L key => ((sorted.filter fun b => b.lane == L && b.loc.sector == .glob key).getLast?).elim 0 (·.ea)) scope

/-- COMMIT (R172). -/
def execCommit (h : Hdr) (f : SF) (s : State) : Res :=
  issue (.commit h f) h (once h fun s tk t =>
    match t.tryR with
    | none => stopWith s h 0x10
    | some r =>
      let bad := r.conflicts
      let kn := f.id.toNat % 16
      let scope := f.sub.toNat % 8
      if !r.laneMode && !bad.isEmpty then .abort s 3 0
      else releaseThen s tk t scope fun s =>
        let s := s.performBuffer tk t (r.buf.filter fun b => !bad.contains b.lane) scope
        .retire (s.updTeam tk fun u =>
          let u := { u with tryR := none }
          if !r.laneMode then u.writeLong ((t.act h).map fun L => Part.ofVal (.k kn) L 0)
          else
            let u := if bad.isEmpty then u else { u.rollBack r bad kn with tryCode := 3 }
            u.writeLong ((List.range t.lanes).map fun L => Part.ofVal (.k kn) L (bit (bad.contains L))))) s

def execAbort (h : Hdr) (f : SF) (s : State) : Res :=
  issue (.abortK h f) h (once h fun s _ t =>
    if t.tryR.isSome then .abort s 1 (f.imm.toNat % 256) else stopWith s h 0x10) s

def execTstat (h : Hdr) (f : SF) (s : State) : Res := issue (.tstat h f) h (toS h 1 f.s1.toNat (·.trystat)) s

end Sys2Proof.Machine
end

