-- ==== Sys2Proof/Machine/Reeve.lean ====
section
/-! DEFINITION. Row 0x17: what a reeve reads and does of a frozen team (R181 to R185, R285 to R287, R291). -/

namespace Sys2Proof.Machine

/-- The handle that a word names: h1 to h3 hold NONE (R181). -/
def Team.handle (t : Team) (f : FF) : Handle := if f.hnd = 0 then t.h0 else Handle.none

/-- ILLEGAL HANDLE freezes the reeve (R181). -/
def badHandle (s : State) (h : Hdr) : Act := .fault s h .illegal 0x14 0 0

/-- A word that needs a FROZEN handle; it waits while a step of the team is under way or its results are outstanding (R56). -/
def onFrozen (h : Hdr) (f : FF) (go : State → Nat → Team → Nat → Team → Act) : State → Nat → Team → Act :=
  once h fun s tk t =>
    match t.handle f with
    | .frozen k => match s.team k with
      | none => badHandle s h
      | some ft => if ft.stepping.isSome || !ft.settled then .park s (.step k) else go s tk t k ft
    | _ => badHandle s h

/-- The writes of a team that have yet to be performed (R318). -/
def State.unwritten (s : State) (tk serial : Nat) : List Nat :=
  (s.requests.filter fun (e : Nat × Request) => e.2.tk == tk && e.2.serial == serial && e.2.xfer.isNone && match e.2.kind with
    | .write _ _ => true | .atomic _ _ => true | _ => false).map (·.1)

/-- A word that issues only when the reeve's earlier writes have been performed (R318). -/
def behindWrites (s : State) (tk : Nat) (t : Team) (go : Act) : Act :=
  match s.unwritten tk t.serial with
  | [] => go
  | rs => .park s (.fetched rs)

/-- FINFO items 0 to 2 (R181, R285, R291); a DEPARTED handle's third item is the ended team's (R24). -/
def State.finfo (s : State) (x : Handle) (item : Nat) : Nat :=
  match x with
  | .none => 0
  | .frozen k => (s.team k).elim 0 fun u =>
    if item = 0 then 1 + (if u.cause.imprecise then 4 else 0) + (if u.tryR.isSome then 8 else 0) + 2 ^ 32 * u.serial
    else if item = 1 then (if u.clean then u.here else u.cause.addr).toNat
    else u.grid % 2 ^ 32 + 2 ^ 32 * roleCode u.role
  | .departed e r => if item = 0 then 2 + 4 + 2 ^ 32 * e.serial else if item = 1 then r.addr.toNat else e.grid % 2 ^ 32 + 2 ^ 32 * roleCode e.role

def execFinfo (h : Hdr) (f : FF) (s : State) : Res :=
  issue (.finfo h f) h (once h fun s tk t =>
    match t.handle f with
    | .frozen k => if (s.team k).any fun u => u.stepping.isSome || !u.settled then .park s (.step k)
      else .retire (s.setTeam tk (t.longS f.ssel.toNat (BitVec.ofNat 64 (s.finfo (.frozen k) f.imm.toNat))))
    | x => .retire (s.setTeam tk (t.longS f.ssel.toNat (BitVec.ofNat 64 (s.finfo x f.imm.toNat))))) s

/-- The accumulator element that FILE 6 names: block, and row at lane l (R182). A row has 128 elements: every Active lane of the reeve below
128 takes one, whatever lanes the frozen team has (the model's choice: log 107). -/
def accBlock (f : FF) : Nat := f.imm.toNat % 32
def accKey (f : FF) (l : Nat) : Nat := 128 * (f.imm.toNat / 32 % 128) + l
def State.accElem (s : State) (sh b key : Nat) : Lane32 :=
  match ((s.share sh).bind (·.stream)).bind fun m => m.blocks[b]? with
  | some x => getD 0 x.elems key
  | none => 0
def State.setAccElem (s : State) (sh b key : Nat) (x : Lane32) : State :=
  s.updShare sh fun y => { y with stream := y.stream.map fun m =>
    { m with blocks := m.blocks.modify b fun k => { k with elems := setD 0 k.elems key x } } }

/-- A lane's value under FRD (Table 06-14). -/
def State.frdLane (s : State) (t ft : Team) (f : FF) (l : Nat) : Word :=
  let n := f.treg.toNat
  match f.file.toNat, f.imm.toNat with
  | 0, _ => if n < ft.allot then (ft.rv n l).setWidth 64 else 0
  | 2, _ => bit (ft.rk n l)
  | 3, 1 => bit (ft.live.getLsbD l)
  | 3, 2 => bit (ft.active.getLsbD l)
  | 5, 0 => BitVec.ofNat 64 ((ft.cause.lanes.find? fun c => c.lane == l).elim 0 fun c => c.cause.code)
  | 5, 1 => (ft.cause.lanes.find? fun c => c.lane == l).elim 0 fun c => c.ea
  | 6, _ => if l < 128 then (s.accElem t.share (accBlock f) (accKey f l)).setWidth 64 else 0
  | _, _ => 0

/-- The value of an FRD that answers once (Table 06-14). -/
def State.frdOnce (s : State) (ft : Team) (f : FF) : Word :=
  match f.file.toNat, f.imm.toNat with
  | 1, _ => ft.rs f.treg.toNat
  | 3, 0 => ft.pc
  | 3, 3 => BitVec.ofNat 64 ft.masks.length
  | 4, 0 => ft.trystat
  | 4, 1 => s.cstat ft
  | 5, 2 => BitVec.ofNat 64 ft.cause.word
  | _, _ => 0

def execFrd (h : Hdr) (f : FF) (s : State) : Res :=
  issue (.frd h f) h (onFrozen h f fun s tk t _ ft =>
    if f.useV false = some true then
      let wide := f.file = 5 ∧ f.imm = 1
      .retire (s.setTeam tk (t.writeLong ((t.act h).flatMap fun L =>
        let x := s.frdLane t ft f L
        if wide then (toVd f.v x).map fun w => Part.ofVal w.1 L w.2 else [Part.ofVal (.v f.v.toNat) L x])))
    else .retire (s.setTeam tk (t.longS f.ssel.toNat (s.frdOnce ft f)))) s

/-- Write registers of the frozen team, in place of what its results would still write there (R54). -/
def Team.patch (ft : Team) (ws : List (RegId × Nat × Word)) : Team :=
  ws.foldl (fun u w => u.store w.1 w.2.1 w.2.2) (ft.overwrite (ws.map fun w => (w.1, w.2.1)))

def execFwr (h : Hdr) (f : FF) (s : State) : Res :=
  issue (.fwr h f) h (onFrozen h f fun s _ t k ft =>
    let n := f.treg.toNat
    let lanes := (t.act h).filter fun L => L < ft.lanes
    match f.file.toNat, f.imm.toNat with
    | 0, _ => .retire (if n < ft.allot then s.setTeam k (ft.patch (lanes.map fun L => (.v n, L, (t.rv f.v.toNat L).setWidth 64))) else s)
    | 1, _ => .retire (s.setTeam k (ft.patch [(.s n, 0, t.rs f.ssel.toNat)]))
    | 2, _ => .retire (s.setTeam k (ft.patch (lanes.map fun L => (.k n, L, bit ((t.rv f.v.toNat L).getLsbD 0)))))
    | 3, 0 =>
      let pc := t.rs f.ssel.toNat
      if pc.toNat % 8 != 0 then .fault s h .misaligned 0 0 0
      else .retire (s.setTeam k { ft with pc := pc, word := none, cause := {}, retry := none, syncMark := none })
    | 3, 2 =>
      let m := maskOf 1024 fun L => lanes.contains L
      let on := maskOf 1024 fun L => lanes.contains L && t.rv f.v.toNat L != 0
      .retire (s.setTeam k { ft with active := (ft.active &&& ~~~m) ||| (on &&& ft.live) })
    | 6, _ => .retire ((t.act h).foldl (fun s L => if L < 128 then s.setAccElem t.share (accBlock f) (accKey f L) (t.rv f.v.toNat L) else s) s)
    | _, _ => .retire s) s

/-- What FPATCH writes of the frozen instruction's destination: part of a v register or pair, predicate, half of an s
register (R183). -/
def patchWrites (t ft : Team) (d : Dest) (lanes : List Nat) (v part : Nat) : List (RegId × Nat × Word) :=
  let mine := lanes.filter fun L => L < ft.lanes
  match d with
  | .v n words => if part < words ∧ n + part < ft.allot then mine.map fun L => (.v (n + part), L, (t.rv v L).setWidth 64) else []
  | .k n => if part = 0 then mine.map fun L => (.k n, L, bit ((t.rv v L).getLsbD 0)) else []
  | .s n => match lanes.head? with
    | none => []
    | some L =>
      let old := ft.rs n
      let x := t.rv v L
      if part = 0 then [(.s n, 0, old.extractLsb' 32 32 ++ x)] else if part = 1 then [(.s n, 0, x ++ old.extractLsb' 0 32)] else []
  | .none => []

def execFpatch (h : Hdr) (f : FF) (s : State) : Res :=
  issue (.fpatch h f) h (onFrozen h f fun s tk t k ft =>
    let lanes := t.act h
    let d := ((s.wordAt (coreOf tk) ft.ctx ft.cause.addr).map decodeWord).elim Dest.none destOf
    let u := if ft.cause.atHeader || ft.clean then ft else ft.patch (patchWrites t ft d lanes f.v.toNat (f.imm.toNat % 4))
    let u := if f.imm.getLsbD 2 then { u with cause := { u.cause with lanes := u.cause.lanes.filter fun c => !lanes.contains c.lane } } else u
    .retire (s.setTeam k u)) s

/-- FRESUME: the handle becomes NONE and the team goes on (R184, R286). -/
def execFresumeRetry (h : Hdr) (f : FF) (s : State) : Res :=
  issue (.fresumeRetry h f) h (onFrozen h f fun s tk t k _ => behindWrites s tk t (.retire (s.resume k false))) s
def execFresumeSkip (h : Hdr) (f : FF) (s : State) : Res :=
  issue (.fresumeSkip h f) h (onFrozen h f fun s tk t k ft =>
    if ft.cause.atHeader then badHandle s h else behindWrites s tk t (.retire (s.resume k true))) s

def execFkill (h : Hdr) (f : FF) (s : State) : Res :=
  issue (.fkill h f) h (once h fun s tk t =>
    match t.handle f with
    | .frozen k => if ((s.team k).bind (·.stepping)).isSome then .park s (.step k) else behindWrites s tk t (.retire (s.endTeam k))
    | _ => badHandle s h) s

/-- FKILL.grid, which a DEPARTED handle permits too (R185, R291). -/
def execFkillGrid (h : Hdr) (f : FF) (s : State) : Res :=
  issue (.fkillGrid h f) h (once h fun s tk t =>
    match t.handle f with
    | .frozen k => match s.team k with
      | none => badHandle s h
      | some ft => if ft.stepping.isSome then .park s (.step k) else behindWrites s tk t (.retire (s.killGrid ft.grid))
    | .departed e _ => behindWrites s tk t (.retire (s.killGrid e.grid))
    | .none => badHandle s h) s

/-- FARRIVE: arrive or drop as the frozen team, behind a CLUSTER release of its accesses and of the reeve's (R185). -/
def execFarrive (h : Hdr) (f : FF) (s : State) : Res :=
  issue (.farrive h f) h (onFrozen h f fun s tk t k ft =>
    let ea : Lane32 := (t.rs f.ssel.toNat).setWidth 32
    match s.checkSp ft ea.toNat 8 true with
    | .error c => .fault s h c 0 0 (ea.setWidth 64)
    | .ok (sh, off) =>
      let drop := f.imm.getLsbD 0
      match (if drop then none else ft.arriveBad sh off) with
      | some sub => .fault s h .illegal sub 0 0
      | none =>
        if !s.quiet k ft.serial then .park s .quiet
        else releaseThen s tk t 2 fun s =>
          let s := s.release (coreOf k) 2
          .retire (if drop then s.dropFor k sh off else s.arriveFor k sh off)) s

/-- FSTEP: one word of the frozen team; its code comes when the step is done (R184). -/
def execFstep (h : Hdr) (f : FF) (s : State) : Res :=
  issue (.fstep h f) h (onFrozen h f fun s tk t k _ => behindWrites s tk t <|
    let n := s.fresh
    let s := s.bump.setTeam tk (t.writeLong [⟨.s f.ssel.toNat, 0, (List.range 8).map fun i => .await n i, false, false⟩])
    .retire (s.beginStep k (some n))) s

/-- FRELEASE ends the reeve; a FROZEN handle goes back to the waiting list (R185). -/
def execFrelease (h : Hdr) (f : FF) (s : State) : Res :=
  issue (.frelease h f) h (once h fun s _ _ => .ended s) s

end Sys2Proof.Machine
end

