-- ==== Sys2Proof/Machine/Accum.lean ====
section
/-! DEFINITION. Row 0x19: a NORM team's access to the accumulator blocks of its share's stream (R213 to R215). -/

namespace Sys2Proof.Machine

/-- The block a word names: ID[4:0]. -/
def State.accOf (s : State) (t : Team) (f : SF) : Block := ((s.stream t.share).bind fun m => m.blocks[f.id.toNat]?).getD {}

/-- Change that block. -/
def State.updAcc (s : State) (t : Team) (f : SF) (g : Block → Block) : State :=
  s.updStream t.share fun m => { m with blocks := m.blocks.modify f.id.toNat g }

/-- Row that a lane addresses: S[S1][15:0] and a step per lane. -/
def accRow (t : Team) (f : SF) (step : Nat → Nat) (L : Nat) : Nat := (t.rs f.s1.toNat).toNat % 65536 + step L

/-- BOUNDS in every lane whose row is 128 or above (R213). -/
def accChecked (h : Hdr) (f : SF) (step : Nat → Nat) (s : State) (t : Team) (go : List Nat → Act) : Act :=
  let lanes := t.act h
  if lanes.any fun L => 128 ≤ accRow t f step L then
    .freeze s (lanes.map fun L => (L, (if 128 ≤ accRow t f step L then some .bounds else none), 0)) 0 0
  else go lanes

def accStep (L : Nat) : Nat := L / 128
def accPlace (t : Team) (f : SF) (L : Nat) : Nat := 128 * accRow t f accStep L + L % 128

def execAccrd (h : Hdr) (f : SF) (s : State) : Res :=
  issue (.accrd h f) h (fun s tk t => accChecked h f accStep s t fun lanes =>
    let b := s.accOf t f
    .retire (s.setTeam tk (t.writeLong (lanes.map fun L => Part.ofVal (.v f.v.toNat) L ((getD 0 b.elems (accPlace t f L)).setWidth 64))))) s

def execAccrdStat (h : Hdr) (f : SF) (s : State) : Res :=
  issue (.accrdStat h f) h (once h fun s tk t =>
    let b := s.accOf t f
    let s := s.setTeam tk (t.longS f.s2.toNat (BitVec.ofNat 64 ((if b.isInt then 1 else 0) + if b.sat then 2 else 0)))
    .retire (if f.sub.getLsbD 1 then s.updAcc t f fun b => { b with sat := false } else s)) s

def execAccwr (h : Hdr) (f : SF) (s : State) : Res :=
  issue (.accwr h f) h (fun s _ t => accChecked h f accStep s t fun lanes =>
    .retire (s.updAcc t f fun b => { b with elems := lanes.foldl (fun m L => setD 0 m (accPlace t f L) (t.rv f.v.toNat L)) b.elems })) s

def execAccrs (h : Hdr) (f : SF) (s : State) : Res :=
  issue (.accrs h f) h (fun s _ t =>
    if (s.accOf t f).isInt && !(t.act h).isEmpty then .fault s h .illegal 0x15 0 0
    else accChecked h f accStep s t fun lanes =>
      .retire (s.updAcc t f fun b => { b with elems := lanes.foldl (fun m L =>
        let k := accPlace t f L
        setD 0 m k (round .fp32 .rne false false ((readF32 false (getD 0 m k)).mul (readF32 false (t.rv f.v.toNat L)))).enc) b.elems })) s

def execAccmax (h : Hdr) (f : SF) (s : State) : Res :=
  issue (.accmax h f) h (fun s tk t => accChecked h f id s t fun lanes =>
    let b := s.accOf t f
    let cols := (List.range 128).filter fun j => f.imm.getLsbD (j / 16)
    .retire (s.setTeam tk (t.writeLong (lanes.map fun L =>
      let x := (maxWords b.isInt (cols.map fun j => b.at_ (accRow t f id L) j)).getD (leastOf b.isInt)
      Part.ofVal (.v f.v.toNat) L (x.setWidth 64))))) s

end Sys2Proof.Machine
end

