-- ==== Sys2Proof/Machine/Directory.lean ====
section
/-! DEFINITION. The steps of the location directory: the climb of a request and its placement (R254, R258, R259), first touches
(R256), lodgings (R261, R262, R372), the completion of fills and moves (R259, R265), invalidations (R222), the rebuild of slices
(R264), checkpoints and gleaning (R273). -/

namespace Sys2Proof.Machine

open Host

/-! ## The climb -/

/-- Counters of the requesting entry, read and write (R247). -/
def State.hotOf (s : State) (q : Request) : Nat × Nat :=
  ((s.pkg q.pkg).tlb2.find? (·.covers q.ctx q.vpage)).elim (0, 0) fun t => (t.rhot, t.whot)

/-- A lodging of the request's page waits at its slice, and reached it before the request (R255, R372). -/
def State.lodgeAhead (s : State) (r : Nat) (q : Request) : Bool :=
  s.changes.any fun c => c.2.kind == ChangeKind.lodge && c.2.stage == ChangeStage.waiting && c.2.gpn == q.gpn &&
    (s.arrivedAs (s.parishSlice q.pkg q.gpn) r).all (c.1 < ·)

/-- Begin to bring a page's master or a replica of it into a frame (R259, R265 steps 1 and 2). -/
def State.beginChange (s : State) (kind : ChangeKind) (gpn src dst f r : Nat) : State :=
  let ch := s.fresh
  let s := (s.updParish dst gpn fun e => { e with busy := true }).bump
  let s := s.takeWay dst f { gpn := gpn, state := .filling }
  let was := (s.pkg src).stateOf gpn
  let s := match kind with
    | .replicate =>
      -- every master of the page is MASTER_SHARED before the copy begins (R259, R267)
      let s := (s.masterFrames dst gpn).foldl (fun (s : State) (m : Nat × Nat) => s.updPkg m.1 fun k =>
        if (k.tag m.2).state == FrameState.masterExcl then k.setTag m.2 { k.tag m.2 with state := .masterShared } else k) s
      s.notePresent dst gpn false
    | _ => if src = 254 then s else s.leave gpn src dst
  let c : Change :=
    { kind := kind, stage := if src = 254 then .arrived else .copying, gpn := gpn, src := src, dst := dst, frame := f, req := some r, was := was }
  let s := (s.setChange ch c).updRequest r fun q => { q with at_ := .change ch, order := none }
  let s := { s with changes := s.changes.filter fun (c : Nat × Change) => !(c.2.req == some r && c.1 != ch && c.2.kind != ChangeKind.lodge) }
  -- the way is taken: what waited for it in the set goes on (R277)
  let s := s.releaseSet dst (setOf gpn)
  if src = 254 then s else s.send src dst none (.pageData ch)

/-- The victim must be lodged first: its lodging waits at the victim's slice, and the attraction with it (R372). -/
def State.beginLodge (s : State) (kind : ChangeKind) (gpn src dst f r : Nat) : State :=
  let a := (s.waitingFor r).getD s.fresh
  let s := if (s.waitingFor r).isSome then s else s.bump
  let l := s.fresh
  let s := s.bump.setChange a { kind := kind, stage := .waiting, gpn := gpn, src := src, dst := dst, frame := f, req := some r }
  (s.setChange l { kind := .lodge, stage := .waiting, gpn := ((s.pkg dst).tag f).gpn, src := dst, dst := dst, frame := f, req := none,
                   forCh := some a }).updRequest r fun q => { q with at_ := .change a, order := none }

/-- Create a page for a request at a package, and go on: serve it there or, from elsewhere, climb again (R256); it waits for room in the
slices, and fails or goes unanswered where no route leads (R264, R350). -/
def State.touchFor (s : State) (r : Nat) (q : Request) (p f : Nat) : State :=
  if s.noRoute q.pkg p then s.failReq r 3
  else if !s.joined q.pkg p then s.unheard r p
  else match s.presentRoom p q.gpn with
  | (s, false) => (s.hold (s.hamletSlice p q.gpn) r).1
  | (s, true) => match s.createPage p f q.gpn q.twin with
    | (s, false) => (s.hold (s.parishSlice q.pkg q.gpn) r).1
    | (s, true) =>
      let s := s.dropWaiting r
      (if p = q.pkg then s.serveAt p r else none).getD (s.updRequest r fun q => { q with at_ := .climb })

/-- Serve the first touches that wait on a set of a slice package, in arrival order, while a way is found. -/
def rerunTouch : Nat → Nat → Nat → State → State
  | 0, _, _, s => s
  | n + 1, p, set, s =>
    match (s.pkg p).touchWait.find? fun w => w.1 == set with
    | none => s
    | some w =>
      let drop (s : State) : State :=
        (s.updPkg p fun k => { k with touchWait := k.touchWait.filter fun x => x.2 != w.2 }).updRequest w.2 fun q => { q with at_ := .climb }
      match s.request w.2 with
      | none => rerunTouch n p set (drop s)
      | some q =>
        if (s.parishSees q.pkg q.gpn).isSome then rerunTouch n p set (drop s)
        else match s.touchPlace q.pkg q.gpn (some w.2) with
          | some (m, f) => rerunTouch n p set ((drop s).touchFor w.2 q m f)
          | none => s

/-- FirstTouch (R256): behind the older first touches that wait on the set, those that now find a way. -/
def State.firstTouch (s : State) (r : Nat) (q : Request) : State :=
  let p := q.pkg
  let slice := s.parishSlice p q.gpn
  let s := rerunTouch (s.pkg slice).touchWait.length slice (setOf q.gpn) s
  if (s.parishSees p q.gpn).isSome then s
  else if s.busy p q.gpn then (s.hold slice r).1
  else if s.setTaken p (setOf q.gpn) (some r) then (s.hold p r).1
  else
    let elsewhere (_ : Unit) : State := match s.touchPlace p q.gpn (some r) with
      | some (n, f) => s.touchFor r q n f
      | none =>
        if (s.pkg slice).replayFull then s.updPkg slice (·.setAstat 4)
        else
          (s.updPkg slice fun k => (({ k with touchWait := k.touchWait ++ [(setOf q.gpn, r)] } : Pkg).setAstat 3).count 11).updRequest r fun q =>
            { q with at_ := .touch slice }
    match (s.pkg p).victim (setOf q.gpn) with
    | .none => elsewhere ()
    | .lodge f =>
      if q.forced then elsewhere () else s.beginLodge .migrate q.gpn p p f r
    | v => match v.now with
      | some f => s.touchFor r q p f
      | none => s

/-- Every byte that a read asks of its sector lies in one aligned 8-byte word (R349). -/
def oneWord (m : BitVec 32) : Bool := (List.range 4).any fun i => m &&& ~~~BitVec.ofNat 32 (255 * 2 ^ (8 * i)) == 0

/-- Send a gathered group of word reads; a request goes out anew, and its timeout with it (R349, R350). -/
def State.sendPacked (s : State) (p dst : Nat) : State :=
  match find (s.pkg p).gather dst with
  | none => s
  | some rs =>
    let s := s.updPkg p fun k => { k with gather := erase k.gather dst, packedRd := k.packedRd + BitVec.ofNat 64 rs.length }
    let s := rs.foldl (fun s r => s.updRequest r fun q => { q with sentAt := s.now }) s
    s.send p dst none (.packReq rs)

/-- Serve a request remotely (R259, R345, R349); the host spill region is host memory, with the poison of its pages (R271). -/
def State.serveRemote (s : State) (r : Nat) (q : Request) (holder : Nat) : State :=
  let p := q.pkg
  let key := 2048 * q.gpn + q.sector
  let write := q.kind.isWrite
  -- a request that leaves the package counts once (R319)
  let s := if q.counted || (holder != 254 && s.noRoute p holder) then s
    else (s.updPkg p (·.count (if write then 3 else 2) q.weight)).updRequest r fun q => { q with counted := true }
  if holder = 254 then
    match s.spillAt q.gpn with
    | none => s.failReq r 5
    | some x =>
      let a := s.spillBase x + 32 * q.sector
      let bad := (find (s.pkg x.1).spillBad (2048 * x.2 + q.sector)).isSome
      match q.kind with
      | .load | .probe => if bad then s.failReq r 2 else s.finishRead r (s.hostBytes a 32) (BitVec.allOnes 32)
      | .fetch _ => s.closeReq r
      | .write bs _ =>
        if q.taint then (s.updPkg x.1 fun k => { k with spillBad := put k.spillBad (2048 * x.2 + q.sector) 1 }).closeReq r
        else match s.spillWrite x q.sector bs q.mask with
          | (s, true) => (s.noteWin q).closeReq r
          | (s, false) => s.failReq r 2
      | .atomic ops _ =>
        if bad then s.failReq r 2
        else
          let (bs, _, olds) := applyOps (s.hostBytes a 32) ops
          ((s.setHostBytes a bs).noteWrite (some q.tk) [.glob (65536 * q.gpn + 32 * q.sector)]).finishAtomic r olds
  else if s.noRoute p holder then s.failReq r 3
  else
    let sent (s : State) : State := s.updRequest r fun q =>
      { q with at_ := .remote holder, sentAt := s.now, fto := (s.pkg p).fto, order := none }
    let ordered (s : State) : State := (sent s).updRequest r fun q => { q with plane := s.orderedPlane p holder key }
    match q.kind with
    | .fetch _ => s.closeReq r
    | .write _ _ => (ordered s).send p holder (some key) (.write r)
    | .atomic _ _ => (ordered s).send p holder (some key) (.atomReq r)
    | _ =>
      if q.ordered then (ordered s).send p holder (some key) (.readReq r)
      else if oneWord q.mask && q.xfer.isNone then
        -- a word read, alone or gathered with others (R349)
        let s := (sent s).updRequest r fun q => { q with wordRead := true, packwin := (s.pkg p).packwin }
        if (s.pkg p).packwin = 0 then s.send p holder none (.readReq r)
        else
          let s := s.updPkg p fun k => { k with gather := put k.gather holder (getD [] k.gather holder ++ [r]) }
          if 16 ≤ (getD [] (s.pkg p).gather holder).length then s.sendPacked p holder else s
      else (sent s).send p holder none (.readReq r)

/-- Place (R258): attraction, or remote service. -/
def State.place (s : State) (r : Nat) (q : Request) (holder : Nat) : State :=
  let p := q.pkg
  let gpn := q.gpn
  let set := setOf gpn
  let write := q.kind.isWrite
  let slice := s.parishSlice p gpn
  let ent := s.parishSees p gpn
  let local_ := (s.pkg p).stateOf gpn == .replica
  let hst := if holder = 254 then FrameState.masterExcl else (s.pkg holder).stateOf gpn
  let isFetch := match q.kind with | .fetch _ => true | _ => false
  let pass := (s.waitingFor r).isSome || isFetch
  let pinned := q.pin || ent.any (·.pinned)
  let bar := pinned || q.forced || (holder == 254 && write && !isFetch && !(s.pkg p).duty.getLsbD 1)
  let hot := s.hotOf q
  let ok := !bar && compareOk ((s.pkg p).policy q.hotpol) write (if write then hot.2 else hot.1) (s.queueDepth p holder) pass
  let upgrade := write && local_
  let v := (s.pkg p).victim set
  let near := holder == 254 || s.joined p holder
  let attract := ok && near && (upgrade || v != .none)
  let room := if attract && !upgrade then s.presentRoom p gpn else (s, true)
  if holder != 254 && s.noRoute p holder then s.failReq r 3
  else if hst == .filling || hst == .moving then if near then (s.hold holder r).1 else s.unheard r holder
  else if s.busy p gpn && (write || attract) || attract && s.lodgeAhead r q then (s.hold slice r).1
  else if ok && !upgrade && s.setTaken p set (some r) then (s.hold p r).1
  else if !room.2 then (room.1.hold (s.hamletSlice p gpn) r).1
  else if attract then
    let s := room.1
    if upgrade then
      match s.moveNow gpn holder p with
      | (s, true) => ((s.updPkg p (·.count 1)).serveAt p r).getD s
      | (s, false) => s.serveRemote r q holder
    else
      let kind : ChangeKind := if write || holder == 254 then .migrate else .replicate
      match v with
      | .lodge f => s.beginLodge kind gpn holder p f r
      | v => match v.now with | some f => s.beginChange kind gpn holder p f r | none => s
  else
    (s.dropWaiting r).serveRemote r q holder

/-- The packages of a hamlet that may serve a read, by its slice's entry or, in overflow, by a search (R254, R264). -/
def State.hamletHolders (s : State) (p gpn : Nat) : List Nat :=
  let mine := (List.range 12).map fun i => 12 * (p / 12) + i
  match s.hamletEnt p gpn with
  | some e => mine.filter fun n => n != p && e.present.getLsbD (n % 12)
  | none => if (s.pkg (s.hamletSlice p gpn)).hamletOvf then mine.filter fun n => n != p && (s.pkg n).frameOf gpn != none else []

/-- Place a request at the page's master as the parish slice names it. A master that is declared lost and not yet settled: a request that
has been sent climbs again behind the settlement, as every request does where the host directs it, and a new one has no route (R268, R350,
R352). -/
def State.placeMaster (s : State) (r : Nat) (q : Request) (m : Nat) : State :=
  let slice := s.parishSlice q.pkg q.gpn
  if m = 254 || s.present q.pkg m then s.place r q m
  else if s.declared m && (q.counted || (s.pkg slice).duty.getLsbD 6) then (s.hold slice r).1
  else s.failReq r 3

/-- Climb the slices for a request that its package cannot serve (R254), a transfer's to the frame that drains for it (R327): a flit to
each slice that another package serves, and one back (log 77). -/
def State.climbOut (s : State) (r : Nat) (q : Request) : State :=
  let p := q.pkg
  let gpn := q.gpn
  match q.xfer.bind fun x => s.drainAt x gpn with
  | some h => s.serveRemote r q h
  | none =>
  if s.cutOff p gpn then s.failReq r 3
  else if !s.joined p (s.hamletSlice p gpn) then s.unheard r (s.hamletSlice p gpn)
  else
  let s := s.crossed p (s.hamletSlice p gpn) 1 1
  let near := (s.hamletEnt p gpn).bind fun e =>
    if e.master != 255 && (s.present p e.master && ((s.pkg e.master).stateOf gpn).isMaster || (s.pkg e.master).stateOf gpn == .moving) then
      some e.master
    else none
  match near with
  | some h => s.place r q h
  | none =>
    if !s.joined p (s.parishSlice p gpn) then s.unheard r (s.parishSlice p gpn)
    else
    let s := s.crossed p (s.parishSlice p gpn) 1 1
    match s.parishSees p gpn with
    | none => s.firstTouch r q
    | some e =>
      if e.lost || e.refs == 0 then (s.learnLost p gpn e.lost).failReq r 5
      else
        let cands := if q.kind.isWrite then [] else (s.hamletHolders p gpn).filter (s.present p)
        let live (n : Nat) : Bool := ((s.pkg n).stateOf gpn).serves || (s.pkg n).stateOf gpn == .filling || (s.pkg n).stateOf gpn == .moving
        let master (s : State) : State := s.placeMaster r q e.master
        match s.pick cands with
        | some n => if live n then s.bump.place r q n else master (s.bump.noteAbsent n gpn)
        | none => master s

/-- The older requests of the same package for the same sector, which this one must follow (R223, R224). -/
def State.olderReqs (s : State) (r : Nat) (q : Request) : List Request :=
  match q.kind with
  | .fetch _ => []
  | _ => (s.requests.filter fun e => decide (e.1 < r) && e.2.forSector q.pkg (2048 * q.gpn + q.sector) &&
      match e.2.kind with | .fetch _ => false | _ => true).map (·.2)

/-- The package to which a read may go at once on the hash plane, behind the writes of its sector that are on their way there on that
plane (R345, R346). -/
def State.followTo (s : State) (q : Request) (olds : List Request) : Option Nat :=
  match q.kind, olds with
  | .load, e :: _ | .probe, e :: _ => match e.at_ with
    | .remote h =>
      let plane := s.orderedPlane q.pkg h (2048 * q.gpn + q.sector)
      if olds.all fun o => o.kind.isWrite && o.at_ == .remote h && o.plane == plane then some h else none
    | _ => none
  | _, _ => none

/-- A request that was released from a replay queue climbs before this one: it reached the queue earlier, or this one has come to the
page behind it (R255, R265). -/
def State.outranked (s : State) (r : Nat) (q : Request) : Bool :=
  s.requests.any fun e => e.1 != r && e.2.gpn == q.gpn && e.2.at_ == .climb && (s.olderReqs e.1 e.2).isEmpty &&
    match e.2.order, q.order with
    | some a, some b => a.1 == b.1 && decide (a.2 < b.2)
    | some _, none => true
    | none, _ => false

/-- Count a request that leaves the package, once (R247). -/
def State.heatReq (s : State) (r : Nat) (q : Request) : State :=
  if q.heated then s
  else ((List.range q.weight).foldl (fun s _ => s.heat q.pkg q.ctx q.vpage q.kind.isWrite) s).updRequest r fun q => { q with heated := true }

/-- One climb of a request, behind the earlier requests of its package for the sector; a read takes the hash plane only behind a write
that stands at its holder (R345). The hardware's own first touch is done when the page is there. -/
def State.climb (s : State) (r : Nat) : State :=
  match s.request r with
    | none => s
    | some q =>
      let p := q.pkg
      let olds := s.olderReqs r q
      if q.at_ != .climb then s
      else if !olds.isEmpty then match s.followTo q olds with
        | some h =>
          let s := (s.heatReq r q).updRequest r fun q => { q with ordered := true }
          s.serveRemote r ((s.request r).getD q) h
        | none => s
      else if q.ownTouch && (s.parishSees p q.gpn).isSome then s.closeReq r
      else if (q.xfer.bind fun x => s.drainAt x q.gpn).isNone && ((s.pkg p).knownLost q.gpn || (s.pkg p).stateOf q.gpn == .draining) then
        s.failReq r 5
      else
      let s := if q.ordered then s.updRequest r fun q => { q with ordered := false } else s
      match s.serveAt p r with
        | some s => s
        | none =>
          let st := (s.pkg p).stateOf q.gpn
          if s.outranked r q then s
          else if st == .filling || st == .moving then (s.hold p r).1
          else if q.kind.isWrite && st.isMaster then (match q.kind with
            | .fetch _ => if s.busy p q.gpn then (s.hold p r).1 else (s.soleMaster p q.gpn).closeReq r
            | _ => (s.holdWrite p r q.gpn).1)
          else
            let s := s.heatReq r q
            s.climbOut r ((s.request r).getD q)

def execClimb (r : Nat) (s : State) : Res := .next (s.climb r)

def execFirstTouchRerun (p set : Nat) (s : State) : Res := .next (rerunTouch (s.pkg p).touchWait.length p set s)

/-! ## Lodgings (R261, R262, R372) -/

/-- End a lodging: its page is no longer BUSY, the attraction that waits chooses its victim again or, forced, is served
remotely (R262, R372). -/
def State.endLodge (s : State) (ch : Nat) (c : Change) (forced : Bool) : State :=
  let s := { s with changes := erase s.changes ch }
  let s := s.unbusy c.src c.gpn
  -- a PGCTL that waits for it notes the page whose switch it was begun for (R270)
  let s := if !forced then s else
    { s with teams := s.teams.map fun (e : Nat × Team) => match e.2.run with
      | .parked (.lodged n (some g)) => if n = ch then (e.1, { e.2 with latch := e.2.latch.map (· ++ [BitVec.ofNat 64 g]) }) else e
      | _ => e }
  let s := match c.forCh.bind s.change with
    | some a => match a.req with
      | some r => s.updRequest r fun q => { q with at_ := .climb, forced := forced }
      | none => s
    | none => s
  let s := if forced then { s with changes := c.forCh.elim s.changes (erase s.changes) } else s
  if forced then s.releaseSet c.src (setOf c.gpn) else s

/-- A lodging is granted in its turn among what waits at the slice for the victim's page, when no other change of it stands: the frame
is checked again (R255, R372). -/
def execLodgeGrant (ch : Nat) (s : State) : Res :=
  .next (match s.change ch with
    | none => s
    | some c =>
      let slice := s.parishSlice c.src c.gpn
      let earlier := (s.changes.any fun e => e.1 < ch && e.2.gpn == c.gpn && e.2.kind == ChangeKind.lodge) ||
        s.requests.any fun e => e.2.gpn == c.gpn && (s.arrivedAs slice e.1).any (· < ch) &&
          (e.2.at_ == .replay slice || e.2.at_ == .climb && (s.olderReqs e.1 e.2).isEmpty)
      if c.kind != .lodge || c.stage != .waiting || s.busy c.src c.gpn || earlier then s
      else if ((s.pkg c.src).tag c.frame).gpn == c.gpn && (s.pkg c.src).lodgeable c.frame then
        (s.updParish c.src c.gpn fun e => { e with busy := true }).setChange ch { c with stage := .offering 0 }
      else s.endLodge ch c false)

/-- The next neighbour answers (R261); a page that has been freed or is LOST is lodged no more (R326). -/
def execLodgeOffer (ch : Nat) (s : State) : Res :=
  .next (match s.change ch with
    | none => s
    | some c => match c.stage with
      | .offering n =>
        let p := c.src
        if s.moot p c.gpn then s.endLodge ch c false else
        let ls := (s.pkg p).lodgers
        match ls[n]? with
        | none => s.setChange ch { c with stage := .refused }
        | some m => match s.lodgeAnswer p m c.gpn with
          | .error e =>
            let s := if e = 3 then s else s.crossed p m 1 1
            (s.updPkg p (·.count 6)).setChange ch { c with
              stage := if n + 1 < ls.length then .offering (n + 1) else .refused, refusals := c.refusals + 1, last := e }
          | .ok g =>
            let s := s.crossed p m 1 1
            if ((s.pkg m).tag g).gpn == c.gpn && ((s.pkg m).tag g).state == .replica then (s.lodgeIn p m c.gpn g).endLodge ch c false
            else
              let s := s.updPkg p fun k => { k with refusal := erase k.refusal (setOf c.gpn) }
              let s := (s.takeWay m g { gpn := c.gpn, state := .filling }).updPkg m (·.count 5)
              let was := (s.pkg p).stateOf c.gpn
              let s := s.leave c.gpn p m
              (s.setChange ch { c with stage := .copying, dst := m, frame := g, was := was }).send p m none (.pageData ch)
      | _ => s)

/-- What happens when no one takes a lodger and the host does not: nothing is evicted (R262). -/
def State.lodgeFails (s : State) (ch : Nat) (c : Change) : State :=
  (s.updPkg c.src fun k => (k.setAstat 0).count 7).endLodge ch c true

/-- Every neighbour has refused (R262, R278); a request that meets a full ring stands as stage `asked` 2^32 until it has room, in whatever
mode DUTY has since been set to (R316). -/
def execLodgeRefusedAll (ch : Nat) (s : State) : Res :=
  .next (match s.change ch with
    | none => s
    | some c =>
      if c.stage != .refused && c.stage != .asked (2 ^ 32) then s
      else if s.moot c.src c.gpn then s.endLodge ch c false
      else
        let s := s.updPkg c.src fun k => { k with refusal := setD 0 k.refusal (setOf c.gpn) c.last }
        if c.stage == .asked (2 ^ 32) || (s.pkg c.src).duty.getLsbD 1 then
          match s.askHost c.src 3 255 (BitVec.ofNat 64 c.gpn) (BitVec.ofNat 64 (c.last + 256 * c.refusals)) (BitVec.ofNat 64 (setOf c.gpn)) with
          | (s, some ix) => s.setChange ch { c with stage := .asked ix }
          | (s, none) => s.setChange ch { c with stage := .asked (2 ^ 32) }
        else s.lodgeFails ch c)

/-- The other master of a page, with its frame. -/
def State.otherMaster (s : State) (p gpn : Nat) : Option (Nat × Nat) := (s.masterFrames p gpn).find? fun m => m.1 != p

/-- The management core spills a refused lodger to the host spill region with its poison; false when the region is full (R262, R271). Of two masters the
other is left as the only one (R267; log 84). -/
def State.spillOut (s : State) (p f : Nat) : State × Bool :=
  let gpn := ((s.pkg p).tag f).gpn
  let room := ((s.pkg p).bootReg 0x28).toNat / 65536
  match s.otherMaster p gpn with
  | some m =>
    let s := ((s.updPkg p fun k => (k.setTag f {}).count 15).purgePage p gpn).updPkg m.1 fun k => k.setTag m.2 { k.tag m.2 with twin := false }
    (((s.updParish p gpn fun e => { e with twinpkg := 255 }).setMaster m.1 gpn).gone p gpn, true)
  | none => match (List.range room).find? fun n => !(s.pkg p).spill.any fun e => e.2 == n with
  | none => (s, false)
  | some n =>
    let s := (s.leave gpn p p).patrol p f
    let s := s.setHostBytes (((s.pkg p).bootReg 0x20).toNat + 65536 * n) ((List.range 65536).map fun i => (s.pkg p).byte f i)
    let bad := ((s.pkg p).poison.filter fun c => c.1 / 2048 == f).map fun c => c.1 % 2048
    let s := s.updPkg p fun k => ({ k.setTag f {} with
      spill := put k.spill gpn n, spillBad := bad.foldl (fun m i => put m (2048 * n + i) 1) k.spillBad } : Pkg).count 15
    let s := (s.updParish p gpn fun e => { e with master := 254 }).gone p gpn
    (s, true)

/-! ## Completion of fills and moves (R259, R265) -/

/-- The request that began a change is served from the new frame. -/
def State.serveNew (s : State) (c : Change) : State :=
  match c.req with
  | none => s
  | some r => (s.serveAt c.dst r).getD (s.updRequest r fun q => { q with at_ := .climb })

/-- A page that was freed or LOST while a change of it was under way: its frames go LOST, through DRAINING while a drain hold stands
(R327). -/
def State.endMoot (s : State) (ch : Nat) (c : Change) : State :=
  let s := { s with changes := erase s.changes ch }
  let s := [c.src, c.dst].foldl (fun s p => match (s.pkg p).frameOf c.gpn with
    | some f =>
      let held := (s.pkg p).drains.any fun d => d.1 == f
      (s.updPkg p fun k => k.setTag f { gpn := c.gpn, state := if held then .draining else .lost }).purgePage p c.gpn
    | none => s) s
  let s := match c.req with | some r => s.updRequest r fun q => { q with at_ := .climb } | none => s
  let s := s.unbusy c.dst c.gpn
  if c.kind = .lodge then s.endLodge ch c false else s.releaseSet c.dst (setOf c.gpn)

/-- A change of a page ends without effect: a frame that was being filled goes INVALID, and what waited goes on (R266). -/
def State.dropFill (s : State) (c : Change) : State :=
  match (s.pkg c.dst).frameOf c.gpn with
  | some f =>
    if ((s.pkg c.dst).tag f).state == .filling then
      let r := s.unframe c.dst f
      (r.1.noteAbsent c.dst c.gpn).settleSpoils c.dst c.gpn r.2
    else s
  | none => s

/-- The frame whose data a fill brings: its source's while that serves; when the replica there has gone meanwhile, a master's, which no
write has changed since (R255, R259). -/
def State.fillSource (s : State) (c : Change) : Option (Nat × Nat) :=
  if ((s.pkg c.src).stateOf c.gpn).serves then ((s.pkg c.src).frameOf c.gpn).map fun f => (c.src, f)
  else (s.masterFrames c.dst c.gpn).head?

def execFillComplete (ch : Nat) (s : State) : Res :=
  .next (match s.change ch with
    | none => s
    | some c =>
      if c.kind != .replicate || c.stage != .arrived then s
      else if s.moot c.dst c.gpn then s.endMoot ch c
      else match s.fillSource c with
      | none =>
        let s := ({ s.dropFill c with changes := erase s.changes ch }).unbusy c.dst c.gpn
        (c.req.elim s fun r => s.updRequest r fun q => { q with at_ := .climb }).releaseSet c.dst (setOf c.gpn)
      | some x =>
        let s := s.copyFrame x.1 x.2 c.dst c.frame
        let s := s.updPkg c.dst fun k => ((k.setTag c.frame { gpn := c.gpn, state := .replica }).touch c.frame).count 0
        let s := ({ s with changes := erase s.changes ch }).unbusy c.dst c.gpn
        (s.serveNew c).releaseSet c.dst (setOf c.gpn))

def execMoveComplete (ch : Nat) (s : State) : Res :=
  .next (match s.change ch with
    | none => s
    | some c =>
      if c.kind == .replicate || c.stage != .arrived then s
      else if s.moot c.dst c.gpn then s.endMoot ch c
      else
        let s := s.arrive c.gpn c.src c.dst c.frame
        if c.kind = .lodge then (s.updPkg c.src (·.count 4)).endLodge ch c false
        else
          let s := ({ s with changes := erase s.changes ch }.updPkg c.dst (·.count 1)).unbusy c.dst c.gpn
          (s.serveNew c).releaseSet c.dst (setOf c.gpn))

/-- An invalidation reaches a package: its replica goes; behind the last one the master is MASTER_EXCL and its waiting writes are
performed (R222). -/
def execDirectoryInvalidation (k : Nat) (s : State) : Res :=
  .next (match s.packet k with
    | some ⟨_, _, _, .inval gpn⟩ => s.receive k fun s x =>
      let s := match (s.pkg x.dst).frameOf gpn with
        | some f => if ((s.pkg x.dst).tag f).state == FrameState.replica then (s.dropReplica x.dst f).noteAbsent x.dst gpn else s
        | none => s
      let s := s.updPkg x.dst (·.count 9)
      some (if ((s.pkg x.src).stateOf gpn).isMaster && !s.busy x.src gpn then (s.soleMaster x.src gpn).releaseAt x.src gpn else s)
    | _ => s)

/-! ## Slices rebuilt, checkpoints, gleaning -/

/-- The management core rebuilds an overflowed package's slices by a full search, once the host has granted the pages (R264;
log 95). -/
def State.rebuild (s : State) (p : Nat) : State :=
  let frames := s.pkgs.flatMap fun k => (k.2.frames.filter fun f => f.2.state.serves || f.2.state == .moving).map fun f => (k.1, f.2)
  let s := frames.foldl (fun s x =>
    let gpn := x.2.gpn
    let master := x.2.state.isMaster || x.2.state == .moving
    let s := match s.parishSees p gpn with
      | some e => if s.parishSlice p gpn = p && master && (s.parishEnt p gpn).isNone then
          s.updPkg p fun k => { k with parish := put k.parish gpn e }
        else s
      | none => s
    if s.hamletSlice x.1 gpn = p && (s.hamletEnt x.1 gpn).isNone then
      s.updPkg p fun k => { k with hamlet := put k.hamlet gpn {} }
    else s) s
  frames.foldl (fun s x => s.notePresent x.1 x.2.gpn (x.2.state.isMaster && (s.parishEnt x.1 x.2.gpn).all fun e => e.master == x.1)) s

def execDirRebuild (p : Nat) (s : State) : Res :=
  let k := s.pkg p
  let ready := (k.hamletOvf || k.parishOvf) && k.pagesFor k.entries < k.dirQuota
  .next (if ready then (s.rebuild p).updPkg p fun k => { k with hamletOvf := false, parishOvf := false, dirUsed := k.pagesFor k.entries } else s)

/-- A frame is read by the patrol: errors are found and the frame is counted (R271, R273). -/
def State.glean (s : State) (p f : Nat) : State := (s.patrol p f).updPkg p (·.count 14)

/-- A leaf entry of a translation table maps a page with CKPT; n + 1 levels from this table on (R243 to R245). -/
def State.tableMarks (s : State) (p gpn : Nat) : Nat → Nat → Nat → Bool
  | 0, _, _ => false
  | n + 1, table, tidx => (List.range (if n = 3 then 2048 else 1024)).any fun ix =>
    match s.sysBytes p (65536 * table + 8192 * tidx + 8 * ix) 8 with
    | none => false
    | some bs =>
      let e := BitVec.ofNat 64 (natOfBytes bs)
      if !e.getLsbD 63 then false
      else if e.getLsbD 62 then n < 3 && leafOk e (10 * n) && e.getLsbD 55 && entGpn e ≤ gpn && gpn < entGpn e + 2 ^ (10 * n)
      else n != 0 && e.extractLsb' 43 19 == 0 && s.tableMarks p gpn n (entGpn e) (e.extractLsb' 40 3).toNat

/-- Is the page of a frame marked CKPT in some translation of its package: an entry that the second level holds, or a leaf of a
context's tables? -/
def State.marksCkpt (s : State) (p gpn : Nat) : Bool :=
  ((s.pkg p).tlb2.any fun t => t.ent.getLsbD 55 && entGpn t.ent ≤ gpn && gpn < entGpn t.ent + 2 ^ t.log) ||
    (s.pkg p).ctxs.any fun c => s.tableMarks p gpn 4 c.2.rootGpn c.2.rootTidx

/-- The checkpoint engine's pass at a multiple of CKPTMS milliseconds (R273): each checkpointed master's data goes to its twin,
which it must reach over the planes (R342, R350), or to its frame's place in the host checkpoint region, 65,536 bytes a frame in the order
of the frame numbers (log 101). -/
def execCkptTimer (p : Nat) (s : State) : Res :=
  let k := s.pkg p
  let ms := (k.scrub.extractLsb' 0 32).toNat
  .next (if ms = 0 ∨ s.clock p % (ms * Config.clocksPerMs) ≠ 0 then s
    else
      ((k.frames.filter fun f => f.2.state.isMaster && s.marksCkpt p f.2.gpn).map (·.1)).foldl (fun s f =>
        let s := s.glean p f
        let gpn := ((s.pkg p).tag f).gpn
        match (s.twinAt p gpn).bind fun n => ((s.pkg n).frameOf gpn).map fun g => (n, g) with
        | some (n, g) => if s.declared n || s.noRoute p n || !s.joined p n then s else (s.copyFrame p f n g).crossedPage p n
        | none =>
          if ((s.pkg p).bootReg 0x38).toNat < 65536 * (f + 1) then s
          else s.setHostBytes (((s.pkg p).bootReg 0x30).toNat + 65536 * f) ((List.range 65536).map fun i => (s.pkg p).byte f i)) s)

/-- Frames of a stack by number 2 × row + way, and back. -/
def stackFrame (stack n : Nat) : Nat := 2 * (Config.nStacks * (n / 2) + stack) + n % 2
def frameNo (f : Nat) : Nat := 2 * (f / 2 / Config.nStacks) + f % 2

/-- The frame that gleaning reads next in a stack: the first one at or after the place it has reached that is not INVALID and no
checkpointed master (R273). -/
def State.nextGlean (s : State) (p stack : Nat) : Option Nat :=
  let k := s.pkg p
  let mine := (k.frames.filter fun f => f.1 / 2 % Config.nStacks == stack && f.2.state != .invalid &&
    !(f.2.state.isMaster && s.marksCkpt p f.2.gpn)).map (·.1)
  match mine.find? fun f => getD 0 k.gleanAt stack ≤ frameNo f with
  | some f => some f
  | none => mine.head?

/-- Glean a frame of a stack and note its number (R273). -/
def State.gleanFrame (s : State) (p stack f : Nat) : State :=
  (s.glean p f).updPkg p fun k => { k with gleanAt := put k.gleanAt stack (frameNo f + 1) }

/-- The host is asked which frame of a stack to read next: while its ring is full the request waits (R365). -/
def State.askGlean (s : State) (p stack : Nat) : State :=
  let last : Word := (find (s.pkg p).gleanAt stack).elim (BitVec.allOnes 64) fun n => BitVec.ofNat 64 (n - 1)
  match s.askHost p 5 255 (BitVec.ofNat 64 stack) last 0 with
  | (s, some _) => s.updPkg p fun k => { k with gleanDue := k.gleanDue.filter (· != stack) }
  | (s, none) => s.updPkg p fun k => { k with gleanDue := k.gleanDue.filter (· != stack) ++ [stack] }

/-- Every GLEANUS microseconds one frame per stack is read, in ascending order, or the host is asked which (R273, R365). -/
def execGleanTimer (p : Nat) (s : State) : Res :=
  let us := ((s.pkg p).scrub.extractLsb' 32 16).toNat
  .next (if us = 0 ∨ s.clock p % (us * Config.clocksPerUs) ≠ 0 then s
    else if (s.pkg p).duty.getLsbD 4 then
      (List.range Config.nStacks).foldl (fun s st => s.askGlean p st) s
    else
      (List.range Config.nStacks).foldl (fun s st => match s.nextGlean p st with
        | none => s
        | some f => s.gleanFrame p st f) s)

end Sys2Proof.Machine
end

