-- ==== Sys2Proof/Machine/Fabric.lean ====
section
/-! DEFINITION. The fabric: packets that arrive (R344 to R349, R355), timeouts (R350), heartbeats and the loss of a package
(R266, R268, R351, R352), ports (R342, R343, R346). -/

namespace Sys2Proof.Machine

open Host

/-! ## Requests that arrive -/

/-- A request arrives at a package: it is served, held while its page changes state, its replicas go or an earlier write of its sector
has yet to come, or sent back to climb; none while the replay queue is full (R255, R259, R265, R345). -/
def State.arriveReq (s : State) (p r : Nat) : Option State :=
  match s.serveAt p r with
  | some s => some s
  | none => match s.request r with
    | none => some s
    | some q =>
      let st := (s.pkg p).stateOf q.gpn
      let kept := fun (x : State × Bool) => if x.2 then some x.1 else none
      if st == .filling || st == .moving || s.heldBack r q then kept (s.hold p r true)
      else if q.kind.isWrite && st.isMaster then kept (s.holdWrite p r q.gpn true)
      else some (s.updRequest r fun q => { q with at_ := .climb })

/-- Reads that stood behind a write which has been performed are served (R345). -/
def State.serveHeld (s : State) (p gpn : Nat) : State :=
  ((s.pkg p).replay.filter fun r => (s.request r).any fun q => q.gpn == gpn && !q.kind.isWrite && q.servedAt p).foldl
    (fun s r => match s.serveAt p r with | some s => s.unhold p r | none => s) s

/-- Take a request packet; a full replay queue stops it and is noted (R265). -/
def State.takeReq (s : State) (k r dst : Nat) : State :=
  let gpn := (s.request r).elim 0 (·.gpn)
  if ((s.packet k).any fun x => s.arrives k x) && ((s.arriveReq dst r).isNone) then s.updPkg dst (·.setAstat 4)
  else s.receive k fun s x => (s.arriveReq x.dst r).map fun s => s.serveHeld x.dst gpn

def execSectorReadRequest (k : Nat) (s : State) : Res :=
  .next (match s.packet k with | some ⟨_, dst, _, .readReq r⟩ => s.takeReq k r dst | _ => s)
def execPostedWrite (k : Nat) (s : State) : Res :=
  .next (match s.packet k with | some ⟨_, dst, _, .write r⟩ => s.takeReq k r dst | _ => s)
def execAtomicRequest (k : Nat) (s : State) : Res :=
  .next (match s.packet k with | some ⟨_, dst, _, .atomReq r⟩ => s.takeReq k r dst | _ => s)

/-! ## Replies (R232, R347, R355) -/

/-- A read's bytes arrive, of which a word read installs 8 (R349), or its granule's poison. -/
def State.readBack (s : State) (r : Nat) (bytes : List Byte) (bad : Nat) : State :=
  if bad = 0 then s.finishRead r bytes (s.fillMask r) else s.failReq r bad

def execSectorReadReply (k : Nat) (s : State) : Res :=
  .next (match s.packet k with
    | some ⟨_, _, _, .readReply r bs bad⟩ => s.receive k fun s _ => some (s.readBack r bs bad)
    | _ => s)
def execWriteAck (k : Nat) (s : State) : Res :=
  .next (match s.packet k with
    | some ⟨_, _, _, .ack r bad⟩ => s.receive k fun s _ => some (if bad = 0 then s.closeReq r else s.failReq r bad)
    | _ => s)
def execAtomicReply (k : Nat) (s : State) : Res :=
  .next (match s.packet k with
    | some ⟨_, _, _, .atomReply r vals bad⟩ => s.receive k fun s _ => some (if bad = 0 then s.finishAtomic r vals else s.failReq r bad)
    | _ => s)

/-- The background climb of a probe brings its sector: from the package's own frame, or by its reply (R129). -/
def execProbeBackgroundReturn (r : Nat) (s : State) : Res :=
  .next (match s.request r with
    | none => s
    | some q =>
      if q.kind != .probe then s
      else match s.packets.find? fun e => match e.2.kind with | .readReply n _ _ => n == r | _ => false with
        | some (k, ⟨_, _, _, .readReply _ bs bad⟩) => s.receive k fun s _ => some (s.readBack r bs bad)
        | _ => if q.at_ == .climb then (s.serveAt q.pkg r).getD s else s)

/-! ## Packed word reads (R349) -/

/-- The reads of a packed request that can be answered here; the others are held or climb again. -/
def State.packedServe (s : State) (p : Nat) (rs : List Nat) : State × List (Nat × List Byte × Nat) :=
  rs.foldl (fun acc r =>
    let s := acc.1
    match s.request r with
    | none => acc
    | some q => match (s.pkg p).frameOf q.gpn with
      | some f =>
        if ((s.pkg p).stateOf q.gpn).serves && !s.heldBack r q then
          let (s, bad) := s.readGranule p f q.sector
          let bs := (List.range 32).map fun i => (s.pkg p).byte f (32 * q.sector + i)
          (s, acc.2 ++ [(r, if bad then bs.map fun _ => 0 else bs, if bad then 2 else 0)])
        else ((s.arriveReq p r).getD (s.updRequest r fun q => { q with at_ := .climb }), acc.2)
      | none => (s.updRequest r fun q => { q with at_ := .climb }, acc.2)) (s, [])

def execPackedReadRequest (k : Nat) (s : State) : Res :=
  .next (match s.packet k with
    | some ⟨_, _, _, .packReq rs⟩ => s.receive k fun s x =>
      let (s, l) := s.packedServe x.dst rs
      some (if l.isEmpty then s else s.send x.dst x.src none (.packReply l))
    | _ => s)

def execPackedReadReply (k : Nat) (s : State) : Res :=
  .next (match s.packet k with
    | some ⟨_, _, _, .packReply l⟩ => s.receive k fun s _ =>
      some (l.foldl (fun s x => s.readBack x.1 x.2.1 x.2.2) s)
    | _ => s)

/-- PACKWIN clocks after the first of a group of word reads, as PACKWIN stood then, the group is sent (R349, R354). -/
def execPackwinExpiry (p dst : Nat) (s : State) : Res :=
  let rs := getD [] (s.pkg p).gather dst
  .next (if rs.any fun r => (s.request r).any fun q => q.sentAt + q.packwin ≤ s.now then s.sendPacked p dst else s)

/-- The data of a page move have arrived (R265, step 3). -/
def execPageMoveData (k : Nat) (s : State) : Res :=
  .next (match s.packet k with
    | some ⟨_, _, _, .pageData ch⟩ => s.receive k fun s _ => some (s.updChange ch fun c => { c with stage := .arrived })
    | _ => s)

/-! ## Timeouts and heartbeats (R350, R351) -/

/-- Clocks of a time in µs that acts as 1 when it is 0. -/
def usClocks (n : Nat) : Nat := max 1 n * Config.clocksPerUs

/-- A request stands at another package: sent there, or held in its replay queue. -/
def Request.away (q : Request) : Bool :=
  match q.at_ with | .remote _ => true | .replay h => h != q.pkg | _ => false

/-- A request, a transfer's among them, has gone unanswered for FTO: it fails with TIMEOUT (R149, R289, R350). -/
def execFabricTimeout (r : Nat) (s : State) : Res :=
  .next (match s.request r with
    | some q => if q.away && q.sentAt + usClocks q.fto ≤ s.now then s.failReq r 4 else s
    | none => s)

/-- A package sends a heartbeat flit on each up port; the period and each package's HBMISS hold for the heartbeats that follow (R351,
R354). -/
def State.beat (s : State) (p : Nat) : State := s.updPkg p fun k =>
  { k with heartbeatAt := some s.now, beatUs := k.hbus, beatMiss := s.pkgs.map fun e => (e.1, e.2.hbmiss)
           flitsTx := k.flitsTx + BitVec.ofNat 64 (upPorts k).length }

/-- Every HBUS µs a package with an up port sends a heartbeat, the first when its first port comes up (R351). -/
def execHeartbeatSend (p : Nat) (s : State) : Res :=
  let k := s.pkg p
  .next (if k.linkUp == 0 || k.heartbeatAt.any fun t => s.now < t + usClocks k.hbus then s else s.beat p)

/-! ## The loss of a package (R266, R268, R352) -/

/-- The package that serves the parish slice, or the hamlet slice, of a package while that is lost (R253). -/
def State.standIn (s : State) (p x : Nat) (parish : Bool) : Nat :=
  let P := max 1 (s.pkg p).podsize
  let order := if parish then (List.range P).map fun i => (x + 1 + i) % P else (List.range 12).map fun i => 12 * (x / 12) + (x + 1 + i) % 12
  ((order.filter (· != x)).find? (s.present p)).getD x

/-- A slice that moves from or back to a package takes its overflow mark along: what it did not record is found by a search alone (R264,
R268 step 1). -/
def State.carryOverflow (s : State) (p x : Nat) (back : Bool) : State :=
  let a := s.standIn p x true
  let h := s.standIn p x false
  let mark (s : State) (src dst : Nat) (parish : Bool) : State := s.updPkg dst fun k =>
    if parish then { k with parishOvf := k.parishOvf || (s.pkg src).parishOvf } else { k with hamletOvf := k.hamletOvf || (s.pkg src).hamletOvf }
  if back then mark (mark s a x true) h x false else mark (mark s x a true) x h false

/-- Slices stand where R253 puts them: entries move to the package that serves them. -/
def State.rehome (s : State) (p : Nat) : State :=
  let par := s.pkgs.flatMap fun k => (k.2.parish.filter fun e => s.parishSlice p e.1 != k.1).map fun e => (k.1, e)
  let s := par.foldl (fun s x =>
    (s.updPkg x.1 fun k => { k with parish := erase k.parish x.2.1 }).updPkg (s.parishSlice p x.2.1) fun k => { k with parish := put k.parish x.2.1 x.2.2 }) s
  let ham := s.pkgs.flatMap fun k => (k.2.hamlet.filter fun e => s.hamletSliceOf p (k.1 / 12) e.1 != k.1).map fun e => (k.1, e)
  ham.foldl (fun s x =>
    let q := s.hamletSliceOf p (x.1 / 12) x.2.1
    let s := s.updPkg x.1 fun k => { k with hamlet := erase k.hamlet x.2.1 }
    if q / 12 = x.1 / 12 then s.updPkg q fun k => { k with hamlet := put k.hamlet x.2.1 x.2.2 } else s) s

/-- A page change loses its source or its destination: the frame that is left returns to its state before the change, or goes
INVALID (R266); one of a page that has been freed or LOST meanwhile ends as such a change does (R326). -/
def State.breakChange (s : State) (p lost ch : Nat) (c : Change) : State :=
  if s.moot p c.gpn then s.endMoot ch c
  else
  let s := { s with changes := erase s.changes ch }
  let s :=
    if c.dst = lost && c.src != lost then s.updPkg c.src fun k => match k.frameOf c.gpn with
      | some f => if (k.tag f).state == .moving then k.setTag f { k.tag f with state := c.was } else k
      | none => k
    else s.dropFill c
  let s := { s with requests := s.requests.map fun (e : Nat × Request) => if e.2.at_ = ReqAt.change ch then (e.1, { e.2 with at_ := .climb }) else e }
  let s := s.unbusy p c.gpn
  if c.kind = .lodge then s.endLodge ch c false else s

/-- Every survivor's posted requests to a package that is declared lost, also those that it held, are never acknowledged: each is
reported by what the lost package was to its page (R289, R352). -/
def State.failPosted (s : State) (p lost : Nat) : State :=
  (s.requests.filter fun (e : Nat × Request) => e.2.pkg != lost &&
      (e.2.at_ == .remote lost || e.2.at_ == .replay lost)).foldl (fun s e => match e.2.kind with
    | .write _ _ | .atomic _ _ => s.failReq e.1 (if (s.parishSees p e.2.gpn).any fun x => x.master == lost then 1 else 3)
    | _ => s) s

/-- The first notice: the planes discard every packet to and from the package, it is fenced, its slices move, and what waited
there or changed there goes on (R266, R268 step 1, R352). -/
def State.declareLost (s : State) (p lost : Nat) : State :=
  let s := { s with packets := s.packets.filter fun (k : Nat × Packet) => k.2.src != lost && k.2.dst != lost }
  let s := ((s.carryOverflow p lost false).rehome p).failPosted p lost
  let s := s.mapRequests fun q =>
    if q.pkg ≠ lost ∧ (q.at_ = ReqAt.replay lost ∨ q.at_ = ReqAt.touch lost) then { q with at_ := .climb } else q
  let s := s.updPkg lost fun k => { k with downEv := k.downEv ||| k.linkUp, linkUp := 0, replay := [], touchWait := [] }
  (s.changes.filter fun (c : Nat × Change) => c.2.src == lost || c.2.dst == lost).foldl (fun s (c : Nat × Change) => s.breakChange p lost c.1 c.2) s

/-- The page's master is promoted at a package that holds a copy of it: its twin or a replica (R268 step 2). -/
def State.promoteAt (s : State) (p gpn q : Nat) : State :=
  match (s.pkg q).frameOf gpn with
  | none => s
  | some f =>
    let e := (s.parishEnt p gpn).getD { refs := 1, master := q }
    let st : FrameState := if (s.copies gpn q).isEmpty then .masterExcl else .masterShared
    let s := s.updPkg q fun k => k.setTag f { gpn := gpn, state := st, pinned := e.pinned, twin := false }
    ((s.updParish p gpn fun e => { e with twinpkg := 255, twin := e.twin && e.twinpkg != q }).setMaster q gpn).releasePage gpn

/-- The page is LOST; a package that seeks it learns so as its request climbs (R268, R269). -/
def State.losePage (s : State) (p gpn : Nat) : State :=
  (s.updParish p gpn fun e => { e with lost := true, twinpkg := 255 }).releasePage gpn

/-- The package at which hardware promotes a page: its twin, else the lowest replica (R268). -/
def State.heir (s : State) (lost : Nat) (gpn : Nat) (e : ParishEnt) : Option Nat :=
  if e.twinpkg != 255 && e.twinpkg != lost then some e.twinpkg else (s.copies gpn lost).head?

/-- The host has been asked to settle a page and has not answered. -/
def State.lossAsked (s : State) (p gpn : Nat) : Bool := (s.pkg p).hreqs.any fun h => h.2.kind == 6 && h.2.b == BitVec.ofNat 64 gpn

/-- A survivor settles one page of its parish slice: by itself, or by a request to the host, which waits while the ring is full; what has
begun in a mode of DUTY ends in it (R268, R316, R366). Writes that waited for the loss of the other master go on. -/
def State.settlePage (s : State) (p lost gpn : Nat) (e : ParishEnt) : State :=
  if e.master != lost then
    if e.twinpkg = lost then
      ((s.updParish p gpn fun e => { e with twinpkg := 255 }).updPkg e.master fun k => match k.frameOf gpn with
        | some f => k.setTag f { k.tag f with twin := false }
        | none => k).releasePage gpn
    else s
  else if e.lost || e.refs == 0 || s.lossAsked p gpn then s
  else if (s.pkg p).duty.getLsbD 6 || (s.pkg p).lossDue.contains gpn then
    match s.askHost p 6 255 (BitVec.ofNat 64 lost) (BitVec.ofNat 64 gpn)
        (BitVec.ofNat 64 (e.twinpkg + 256 * ((s.copies gpn lost).head?).getD 255)) with
    | (s, some _) => s.updPkg p fun k => { k with lossDue := k.lossDue.filter (· != gpn) }
    | (s, none) => s.updPkg p fun k => { k with lossDue := k.lossDue.filter (· != gpn) ++ [gpn] }
  else match s.heir lost gpn e with
    | some q => s.promoteAt p gpn q
    | none => s.losePage p gpn

/-- Pages whose master is on a lost package and whose entry an overflowed slice does not hold get one (R264, R268). -/
def State.enterLost (s : State) (p lost : Nat) : State :=
  if !(s.pkg p).parishOvf then s
  else ((s.pkg lost).frames.filter fun f => f.2.state.isMaster || f.2.state == .moving).foldl (fun s f =>
    if s.parishSlice p f.2.gpn != p || (s.parishEnt p f.2.gpn).isSome then s
    else match s.parishSees p f.2.gpn with
      | some e => s.setParish p f.2.gpn e
      | none => s) s

/-- A survivor settles its pages, and clears the lost package's presence (R268 steps 2 and 3). -/
def State.lossResponse (s : State) (p lost : Nat) : State :=
  let s := s.enterLost p lost
  let s := ((s.pkg p).parish).foldl (fun s e => s.settlePage p lost e.1 e.2) s
  if p / 12 != lost / 12 then s
  else s.updPkg p fun k => { k with hamlet := k.hamlet.map fun (e : Nat × HamletEnt) =>
    (e.1, { e.2 with present := e.2.present &&& ~~~BitVec.ofNat 12 (2 ^ (lost % 12)), master := if e.2.master = lost then 255 else e.2.master }) }

/-- A survivor's own reads at the lost package climb again (R352). -/
def State.settleRequests (s : State) (p lost : Nat) : State :=
  let mine := s.requests.filter fun (e : Nat × Request) => e.2.pkg == p && e.2.at_ == .remote lost
  mine.foldl (fun s e => s.updRequest e.1 fun q => { q with at_ := .climb }) (s.updPkg p fun k => { k with gather := erase k.gather lost })

/-- A package has stopped as the planes see it: no port of it is up, or HBMISS of its heartbeats have not come, at its period and with the
survivor's HBMISS as it stood when they began; the longer period counts while HBUS has changed (R351, R354). -/
def State.silent (s : State) (p lost : Nat) : Bool :=
  let m := s.pkg lost
  m.linkUp == 0 || m.heartbeatAt.all fun t => t + max 1 (getD (s.pkg p).hbmiss m.beatMiss p) * usClocks (max m.beatUs m.hbus) < s.now

/-- A loss notice reaches a survivor that has an up port (R351). -/
def execLossNotice (p lost : Nat) (s : State) : Res :=
  let k := s.pkg p
  .next (if p = lost || k.linkUp == 0 || k.podsize ≤ lost || !(s.declared lost || s.silent p lost) || s.declared p then s
    else if k.lostmap.getLsbD lost then (if k.duty.getLsbD 6 || !k.lossDue.isEmpty then s.lossResponse p lost else s)
    else
      let first := !s.declared lost
      let s := s.updPkg p fun k => (({ k with lostmap := k.lostmap ||| BitVec.ofNat 144 (2 ^ lost) } : Pkg).raiseVec 4).setAstat 5
      let s := if first then s.declareLost p lost else s
      (s.settleRequests p lost).lossResponse p lost)

/-- A package that has been reset and is READY again is no longer lost to a survivor; when it is to none, its slices return
(R253, R352). -/
def execPackageRejoin (p lost : Nat) (s : State) : Res :=
  let k := s.pkg p
  let m := s.pkg lost
  .next (if p = lost || !k.lostmap.getLsbD lost || m.stage != 6 || m.linkUp == 0 || m.heartbeatAt.isNone then s
    else
      let s := s.updPkg p fun k => ({ k with lostmap := k.lostmap &&& ~~~BitVec.ofNat 144 (2 ^ lost) } : Pkg).raiseVec 4
      if s.declared lost then s else (s.carryOverflow p lost true).rehome p)

/-! ## Ports (R342, R343, R346) -/

/-- The requests that a packet carries. -/
def PktKind.requests : PktKind → List Nat
  | .readReq r | .write r | .atomReq r => [r]
  | .packReq rs => rs
  | _ => []

/-- Packets that a plane no longer carries are sent again on up planes, and the timeout of their requests starts anew (R346, R350). -/
def State.resend (s : State) (p : Nat) : State :=
  let stuck (k : Packet) : Bool := (k.src == p || k.dst == p) && !((s.pkg k.src).linkUp.getLsbD k.plane && (s.pkg k.dst).linkUp.getLsbD k.plane)
  s.packets.foldl (fun s e =>
    let k := e.2
    let rs := s.routes k.src k.dst
    if !stuck k || rs.isEmpty then s
    else
      let key : Option Nat := match k.kind with
        | .write r | .atomReq r => (s.request r).map fun q => 2048 * q.gpn + q.sector
        | .readReq r => (s.request r).bind fun q => if q.ordered then some (2048 * q.gpn + q.sector) else none
        | _ => none
      let plane := match key with | some x => s.orderedPlane k.src k.dst x | none => s.freePlane k.src rs
      let s := k.kind.requests.foldl (fun s r => s.updRequest r fun q => { q with sentAt := s.now, plane := plane }) s
      { s with packets := put s.packets e.1 { k with plane := plane } }.updPkg k.src fun x =>
        { x with resent := x.resent + 1, flitsTx := x.flitsTx + BitVec.ofNat 64 k.flits }) s

/-- A port trains: it is up when it is cabled to its own plane and the plane reports the package's number (R342, R343). A lost
package sees no port up before its reset (R352). -/
def execPortUp (p port num : Nat) (cabled : Bool) (s : State) : Res :=
  let k := s.pkg p
  let b := BitVec.ofNat 18 (2 ^ port)
  .next (if 18 ≤ port || k.stage < 5 || 6 < k.stage || k.linkUp.getLsbD port || (s.declared p && k.stage == 6) then s
    else if !cabled then s.setPkg p { k with downEv := k.downEv ||| b }
    else if num != p then s.setPkg p (if k.idMismatch then k else ({ k with idMismatch := true } : Pkg).raiseVec 4)
    else
      let s := s.setPkg p { k with linkUp := k.linkUp ||| b }
      (if k.heartbeatAt.isNone then s.beat p else s).resend p)

def execPortDown (p port : Nat) (s : State) : Res :=
  let k := s.pkg p
  let b := BitVec.ofNat 18 (2 ^ port)
  .next (if 18 ≤ port || !k.linkUp.getLsbD port then s
    else (s.setPkg p { k with linkUp := k.linkUp &&& ~~~b, downEv := k.downEv ||| b }).resend p)

end Sys2Proof.Machine
end

