-- ==== Sys2Proof/Machine/Crypto.lean ====
section
/-! DEFINITION. SHA-512, MGF1 and RSASSA-PSS as R369 and R370 use them: SHA-512 with a 64-byte salt under RSA-4096. The constants
and the encoding method are those of the published standards that the manual names (log 17). -/

namespace Sys2Proof.Machine

/-! ## SHA-512 -/

/-- The round constants: the first 64 bits of the fractional parts of the cube roots of the first 80 primes. -/
def shaK0 : List Word :=
  [0x428A2F98D728AE22, 0x7137449123EF65CD, 0xB5C0FBCFEC4D3B2F, 0xE9B5DBA58189DBBC,
   0x3956C25BF348B538, 0x59F111F1B605D019, 0x923F82A4AF194F9B, 0xAB1C5ED5DA6D8118,
   0xD807AA98A3030242, 0x12835B0145706FBE, 0x243185BE4EE4B28C, 0x550C7DC3D5FFB4E2,
   0x72BE5D74F27B896F, 0x80DEB1FE3B1696B1, 0x9BDC06A725C71235, 0xC19BF174CF692694,
   0xE49B69C19EF14AD2, 0xEFBE4786384F25E3, 0x0FC19DC68B8CD5B5, 0x240CA1CC77AC9C65]
def shaK1 : List Word :=
  [0x2DE92C6F592B0275, 0x4A7484AA6EA6E483, 0x5CB0A9DCBD41FBD4, 0x76F988DA831153B5,
   0x983E5152EE66DFAB, 0xA831C66D2DB43210, 0xB00327C898FB213F, 0xBF597FC7BEEF0EE4,
   0xC6E00BF33DA88FC2, 0xD5A79147930AA725, 0x06CA6351E003826F, 0x142929670A0E6E70,
   0x27B70A8546D22FFC, 0x2E1B21385C26C926, 0x4D2C6DFC5AC42AED, 0x53380D139D95B3DF,
   0x650A73548BAF63DE, 0x766A0ABB3C77B2A8, 0x81C2C92E47EDAEE6, 0x92722C851482353B]
def shaK2 : List Word :=
  [0xA2BFE8A14CF10364, 0xA81A664BBC423001, 0xC24B8B70D0F89791, 0xC76C51A30654BE30,
   0xD192E819D6EF5218, 0xD69906245565A910, 0xF40E35855771202A, 0x106AA07032BBD1B8,
   0x19A4C116B8D2D0C8, 0x1E376C085141AB53, 0x2748774CDF8EEB99, 0x34B0BCB5E19B48A8,
   0x391C0CB3C5C95A63, 0x4ED8AA4AE3418ACB, 0x5B9CCA4F7763E373, 0x682E6FF3D6B2B8A3,
   0x748F82EE5DEFB2FC, 0x78A5636F43172F60, 0x84C87814A1F0AB72, 0x8CC702081A6439EC]
def shaK3 : List Word :=
  [0x90BEFFFA23631E28, 0xA4506CEBDE82BDE9, 0xBEF9A3F7B2C67915, 0xC67178F2E372532B,
   0xCA273ECEEA26619C, 0xD186B8C721C0C207, 0xEADA7DD6CDE0EB1E, 0xF57D4F7FEE6ED178,
   0x06F067AA72176FBA, 0x0A637DC5A2C898A6, 0x113F9804BEF90DAE, 0x1B710B35131C471B,
   0x28DB77F523047D84, 0x32CAAB7B40C72493, 0x3C9EBE0A15C9BEBC, 0x431D67C49C100D4C,
   0x4CC5D4BECB3E42B6, 0x597F299CFC657E2A, 0x5FCB6FAB3AD6FAEC, 0x6C44198C4A475817]
def shaK : List Word := shaK0 ++ shaK1 ++ shaK2 ++ shaK3

/-- The initial hash value: of the square roots of the first 8 primes. -/
def shaInit : List Word :=
  [0x6A09E667F3BCC908, 0xBB67AE8584CAA73B, 0x3C6EF372FE94F82B, 0xA54FF53A5F1D36F1,
   0x510E527FADE682D1, 0x9B05688C2B3E6C1F, 0x1F83D9ABFB41BD6B, 0x5BE0CD19137E2179]

def rotr (x : Word) (n : Nat) : Word := x.rotateRight n

/-- Big-endian numbers of bytes. -/
def natOfBE (bs : List Byte) : Nat := bs.foldl (fun a b => 256 * a + b.toNat) 0
def bytesBE (n x : Nat) : List Byte := (bytesOf n x).reverse

/-- The message schedule of a block of 16 words: 80 words. -/
def shaSchedule (block : List Word) : List Word :=
  (List.range 64).foldl (fun w i =>
    let x := w.getD (i + 14) 0
    let y := w.getD (i + 1) 0
    let s1 := rotr x 19 ^^^ rotr x 61 ^^^ x >>> 6
    let s0 := rotr y 1 ^^^ rotr y 8 ^^^ y >>> 7
    w ++ [s1 + w.getD (i + 9) 0 + s0 + w.getD i 0]) block

/-- One round on a to h. -/
def shaRound (v : List Word) (kw : Word) : List Word :=
  match v with
  | [a, b, c, d, e, f, g, h] =>
    let t1 := h + (rotr e 14 ^^^ rotr e 18 ^^^ rotr e 41) + ((e &&& f) ^^^ (~~~e &&& g)) + kw
    let t2 := (rotr a 28 ^^^ rotr a 34 ^^^ rotr a 39) + ((a &&& b) ^^^ (a &&& c) ^^^ (b &&& c))
    [t1 + t2, a, b, c, d + t1, e, f, g]
  | v => v

/-- Compress one block of 128 bytes. -/
def shaBlock (hs : List Word) (bs : List Byte) : List Word :=
  let w := shaSchedule ((List.range 16).map fun i => BitVec.ofNat 64 (natOfBE ((bs.drop (8 * i)).take 8)))
  let v := (w.zip shaK).foldl (fun v x => shaRound v (x.1 + x.2)) hs
  (hs.zip v).map fun x => x.1 + x.2

def shaBlocks : Nat → List Word → List Byte → List Word
  | 0, hs, _ => hs
  | n + 1, hs, bs => shaBlocks n (shaBlock hs (bs.take 128)) (bs.drop 128)

/-- SHA-512 of a byte string: 64 bytes. -/
def sha512 (m : List Byte) : List Byte :=
  let pad := (239 - m.length % 128) % 128
  let full := m ++ [0x80] ++ List.replicate pad 0 ++ bytesBE 16 (8 * m.length)
  (shaBlocks (full.length / 128) shaInit full).flatMap fun w => bytesBE 8 w.toNat

def hash512 (m : List Byte) : BitVec 512 := BitVec.ofNat 512 (natOfBE (sha512 m))

/-! ## RSASSA-PSS -/

/-- MGF1 with SHA-512. -/
def mgf1 (seed : List Byte) (n : Nat) : List Byte :=
  ((List.range ((n + 63) / 64)).flatMap fun c => sha512 (seed ++ bytesBE 4 c)).take n

def xorBytes (a b : List Byte) : List Byte := (a.zip b).map fun x => x.1 ^^^ x.2

/-- b^e mod n, by the bits of e from the top, of which there are k. -/
def modPow (b n e : Nat) : Nat → Nat
  | 0 => 1 % n
  | k + 1 =>
    let r := modPow b n (e / 2) k
    let r := r * r % n
    if e % 2 = 1 then r * b % n else r

/-- Clear the top bit of a byte string. -/
def clearTop : List Byte → List Byte
  | [] => []
  | b :: bs => (b &&& 0x7F) :: bs

/-- EMSA-PSS: the 512-byte encoding of a message with a salt of 64 bytes. -/
def pssEncode (m salt : List Byte) : List Byte :=
  let h := sha512 (List.replicate 8 0 ++ sha512 m ++ salt)
  let db := List.replicate 382 0 ++ [0x01] ++ salt
  clearTop (xorBytes db (mgf1 h 447)) ++ h ++ [0xBC]

/-- A signature under modulus n and private exponent d. -/
def pssSign (n d : Nat) (m salt : List Byte) : List Byte := bytesBE 512 (modPow (natOfBE (pssEncode m salt)) n d 4096)

/-- Verify a signature of 512 bytes under modulus n with exponent 65,537. -/
def pssVerify (n : Nat) (m sig : List Byte) : Bool :=
  let s := natOfBE sig
  let em := bytesBE 512 (modPow s n 65537 17)
  let masked := em.take 447
  let h := (em.drop 447).take 64
  let db := clearTop (xorBytes masked (mgf1 h 447))
  s < n && em.getD 511 0 == 0xBC && !((em.getD 0 0).getLsbD 7) && db.take 382 == List.replicate 382 0 && db.getD 382 0 == 0x01
    && sha512 (List.replicate 8 0 ++ sha512 m ++ db.drop 383) == h

end Sys2Proof.Machine
end

