-- ==== Sys2Proof/Machine/System.lean ====
section
/-! DEFINITION. Row 0x18: allotments, launches, traps, special registers, page queries and region switches (R174 to R180, R270,
R279), and the launch record (R34). -/

namespace Sys2Proof.Machine

/-! ## Allotment (R23, R174) -/

/-- Teams of a core that wait for admission (R310). -/
def State.waiters (s : State) (core : Nat) : List (Nat × Team) :=
  s.teams.filter fun e => coreOf e.1 == core && !inImage e.1 && !e.2.admitted && e.2.stepping.isNone && match e.2.run with
    | .running => true | .parked (.admission _) => true | _ => false

def execAcquire (h : Hdr) (f : SF) (s : State) : Res :=
  issue (.acquire h f) h (once h fun s tk t =>
    let n := f.imm.toNat
    if n ≤ t.allot then .retire s
    else if s.fits tk t n && (s.waiters (coreOf tk)).all fun e => e.1 == tk then .retire (s.setTeam tk { t with allot := n })
    else .park ({ s.bump with teams := put s.teams tk { t with admitSeq := s.fresh } }) (.admission n)) s

/-- GIVEBACK: registers from the new allotment on are given up with what was still to be written there (R174). -/
def execGiveback (h : Hdr) (f : SF) (s : State) : Res :=
  issue (.giveback h f) h (once h fun s tk t =>
    let a := max (min t.allot f.imm.toNat) t.pro
    let keep (r : RegId) : Bool := match r with | .v n => n < a | _ => true
    .retire (s.setTeam tk { t with
      allot := a
      v := t.v.filter fun e => e.1 / 1024 < a
      pend := t.pend.filter fun e => keep e.reg
      outst := t.outst.map fun o => { o with parts := o.parts.filter fun q => keep q.reg } })) s

/-! ## Launches (R34, R175, R176) -/

/-- A launch record's fields (Table 01-9); CW and CH are the numbers of columns and rows. -/
def Launch.ofBytes (bs : List Byte) : Launch :=
  let w (i : Nat) : Nat := natOfBytes ((bs.drop (8 * i)).take 8)
  { kernel := BitVec.ofNat 64 (w 0), param := BitVec.ofNat 64 (w 1)
    gx := w 2 % 2 ^ 16, gy := w 2 / 2 ^ 16 % 2 ^ 16, gz := w 2 / 2 ^ 32 % 2 ^ 16
    cw := w 2 / 2 ^ 48 % 4 + 1, ch := w 2 / 2 ^ 50 % 4 + 1
    resOk := w 2 / 2 ^ 52 == 0 && w 3 / 2 ^ 32 == 0 && w 5 == 0 && w 6 == 0 && w 7 == 0
    energy := w 3 % 2 ^ 32, done := BitVec.ofNat 64 (w 4) }

/-- The record enters the queue of the launching grid, behind what entered it before (R300). -/
def State.enqueue (s : State) (p q : Nat) (l : Launch) : State × Nat :=
  let n := (s.pkg p).nextTicket.toNat
  let s := s.updPkg p fun k => { k with
    nextTicket := k.nextTicket + 1
    pending := put k.pending n (q, l)
    tickets := put k.tickets n ⟨0, 0⟩ }
  (s.updQueue p q fun x => { x with entered := x.entered ++ [some n] }, n)

/-- The pending-launch store has an entry for a team's record: the LAUNCHes that wait enter in their order, and one that does not wait takes
an entry that they leave; a team that stands in its image keeps its place and holds up no other (R175). -/
def Pkg.launchRoom (k : Pkg) (tk : Nat) : Bool :=
  let waits := k.launchWait.filter fun x => !inImage x
  if waits.contains tk then waits.head? == some tk && decide (k.pending.length < Config.pendingLaunches)
  else decide (k.pending.length + waits.length < Config.pendingLaunches)

/-- LAUNCH: the record read when it issues enters the store behind a PACKAGE release, or waits with the team for an entry (R52,
R175). -/
def execLaunch (h : Hdr) (f : SF) (s : State) : Res :=
  issue (.launch h f) h (once h fun s tk t =>
    let p := pkgOfTeam tk
    let reach (s : State) (bs : List Byte) : Act :=
      releaseThen s tk t 4 fun s =>
        if (s.pkg p).launchRoom tk then
          let (s, n) := (s.updPkg p fun k => { k with launchWait := k.launchWait.filter (· != tk) }).enqueue p
            ((s.grid t.grid).elim 0 (·.queue)) (.ofBytes bs)
          .retire (s.updTeam tk fun u => u.longS f.s2.toNat (BitVec.ofNat 64 (2 ^ 32 * n)))
        else if f.sub.getLsbD 0 then
          let s := s.updPkg p fun k => if k.launchWait.contains tk then k else { k with launchWait := k.launchWait ++ [tk] }
          .park (s.updTeam tk fun u => { u with latch := some ((List.range 8).map fun i => BitVec.ofNat 64 (natOfBytes ((bs.drop (8 * i)).take 8))) })
            .launchRoom
        else .retire (s.updTeam tk fun u => u.writeLong (Part.ofVal (.s f.s2.toNat) 0 1 ::
          (t.act h).map fun L => Part.ofVal (.k h.gk.toNat) L (bit h.ginv)))
    match t.latch with
    | some (w :: ws) => reach s ((w :: ws).flatMap fun x => bytesOf 8 x.toNat)
    | _ => readChecked s h tk t (t.rs f.s1.toNat) 64 false true fun s _ bs => reach s bs) s

def execLstat (h : Hdr) (f : SF) (s : State) : Res :=
  issue (.lstat h f) h (once h fun s tk t =>
    let x := ((find (s.pkg (pkgOfTeam tk)).tickets ((t.rs f.s2.toNat).toNat % 2 ^ 32)).elim 3 fun k => k.state + 256 * k.status)
    .retire (s.setTeam tk (t.longS f.s1.toNat (BitVec.ofNat 64 x)))) s

/-! ## Traps and special registers (R24, R25, R177, R178) -/

def execTrap (h : Hdr) (f : SF) (s : State) : Res :=
  issue (.trap h f) h (once h fun s _ _ => .fault s h .trap 0 f.imm.toNat 0) s

/-- A per-team or capability register (Tables 01-3, 01-4). -/
def State.special (s : State) (tk : Nat) (t : Team) (sel : Nat) : Word :=
  let p := pkgOfTeam tk
  let c := coreOf tk
  let k := s.pkg p
  match sel with
  | 0x002 => BitVec.ofNat 64 t.teamIx
  | 0x003 => BitVec.ofNat 64 t.serial
  | 0x004 => BitVec.ofNat 64 (t.grid % 2 ^ 32)
  | 0x005 => BitVec.ofNat 64 t.cluster
  | 0x006 => BitVec.ofNat 64 (c % 48)
  | 0x007 => BitVec.ofNat 64 (c % 48 / 12)
  | 0x008 => BitVec.ofNat 64 p
  | 0x009 => BitVec.ofNat 64 (p / 12)
  | 0x00A => BitVec.ofNat 64 (roleCode t.role)
  | 0x00B => BitVec.ofNat 64 (s.clock p)
  | 0x00C => (s.core c).energy
  | 0x00D => t.batch.setWidth 64
  | 0x00E => t.batchDone.setWidth 64
  | 0x00F => t.trystat
  | 0x010 => t.spextra.setWidth 64
  | 0x011 => BitVec.ofNat 64 t.allot
  | 0x012 => BitVec.ofNat 64 t.version
  | 0x013 => bit t.ftz
  | 0x100 => BitVec.ofNat 64 Config.capVersion
  | 0x101 => BitVec.ofNat 64 Config.cores
  | 0x102 => BitVec.ofNat 64 Config.maxLanes
  | 0x103 => BitVec.ofNat 64 Config.pool
  | 0x104 => BitVec.ofNat 64 Config.slots
  | 0x105 => BitVec.ofNat 64 Config.reeves
  | 0x106 => BitVec.ofNat 64 Config.rangeLocks
  | 0x107 => BitVec.ofNat 64 Config.pressWake
  | 0x108 => BitVec.ofNat 64 k.podsize
  | 0x109 => k.discarded
  | _ => 0

def execRdsr (h : Hdr) (f : SF) (s : State) : Res :=
  issue (.rdsr h f) h (fun s tk t =>
    if f.imm < 2 then
      vec h 2 (fun _ _ L => toV f.v (BitVec.ofNat 32 (if f.imm = 0 then L else L / 32))) s tk t
    else once h (fun s tk t => .retire (s.setTeam tk (t.write 2 [(.s f.s1.toNat, 0, s.special tk t f.imm.toNat)]))) s tk t) s

/-- WRSR: the value is there for the next word, as Table 02-6 gives WRSR no latency and R178 gives 2 to its readers (log 87). -/
def execWrsr (h : Hdr) (f : SF) (s : State) : Res :=
  issue (.wrsr h f) h (once h fun s tk t =>
    let x := t.rs f.s1.toNat
    .retire (s.setTeam tk (if f.imm = 0x10 then { t with spextra := x.setWidth 32 } else { t with ftz := x.getLsbD 0 }))) s

/-! ## Page queries (R179, R279) -/

def FrameState.code : FrameState → Nat
  | .invalid => 0 | .replica => 1 | .masterShared => 2 | .masterExcl => 3 | .filling => 4 | .moving => 5 | .draining => 6 | .lost => 7

/-- PRESENT of the requester's hamlet: of its slice's entry or, in overflow, of a search (R253, R264). -/
def State.presentBits (s : State) (p gpn : Nat) : Nat :=
  match s.hamletEnt p gpn with
  | some e => e.present.toNat
  | none =>
    if !(s.pkg (s.hamletSlice p gpn)).hamletOvf then 0
    else ((List.range 12).filter fun i => ((s.pkg (12 * (p / 12) + i)).frameOf gpn).isSome).foldl (fun m i => m + 2 ^ i) 0

/-- PGQRY's items of a translated page (Table 06-12, R279). -/
def State.pageItem (s : State) (p ctx vpage : Nat) (l : Leaf) (item : Nat) : Nat :=
  let k := s.pkg p
  let f := k.frameOf l.gpn
  let tag := f.elim {} k.tag
  let b (x : Bool) (n : Nat) : Nat := if x then 2 ^ n else 0
  match item with
  | 0 => 2 ^ 16 * setOf l.gpn + 2 ^ 8 * (if tag.state.isMaster then p else 255) + b (f.any (· % 2 == 1)) 5 + b tag.twin 4 + b tag.pinned 3
      + tag.state.code
  | 1 => 2 ^ 51 + 2 ^ 47 * l.hotpol + b l.ckpt 46 + b l.twin 45 + b l.pin 44 + b l.x 43 + b l.w 42 + 2 ^ 40 * l.ord + l.gpn
  | 2 =>
    let he := s.hamletEnt p l.gpn
    let pe := s.parishSees p l.gpn
    let m := if tag.state.isMaster then p else match he.bind fun e => if e.master = 255 then none else some e.master with
      | some m => m
      | none => pe.elim 255 (·.master)
    2 ^ 32 * (getD 0 k.refusal (setOf l.gpn) % 8) + 2 ^ 24 * m + 2 ^ 12 * s.presentBits p l.gpn + pe.elim 0 (·.hamlets.toNat)
  | _ => (k.tlb2.find? (·.covers ctx vpage)).elim 0 fun e => 2 ^ 8 * e.whot + e.rhot

def execPgqry (h : Hdr) (f : SF) (s : State) : Res :=
  issue (.pgqry h f) h (once h fun s tk t =>
    let va := t.rs f.s1.toNat
    match s.translate (coreOf tk) t.ctx va with
    | (s, .wait ix) => .park s (.walk ix)
    | (s, .fail _) => .retire (s.setTeam tk (t.longS f.s2.toNat 0))
    | (s, .ok l) =>
      let x := s.pageItem (pkgOfTeam tk) t.ctx l.vpage l f.imm.toNat
      .retire (s.setTeam tk (t.longS f.s2.toNat (BitVec.ofNat 64 x)))) s

/-! ## Region switches (R180, R270) -/

/-- Set or clear PINNED of a page, in its parish entry and in the frames of its masters. -/
def State.setPinned (s : State) (p gpn : Nat) (b : Bool) : State :=
  let s := s.updParish p gpn fun e => { e with pinned := b }
  { s with pkgs := s.pkgs.map fun (k : Nat × Pkg) => match k.2.frameOf gpn with
    | some f => if (k.2.tag f).state.isMaster then (k.1, k.2.setTag f { k.2.tag f with pinned := b }) else k
    | none => k }

/-- A page becomes a TWIN page: its parish entry keeps TWIN, and a partner of its master takes a second one (R267; log 85). -/
def State.twinPage (s : State) (p gpn : Nat) : State :=
  match s.parishEnt p gpn with
  | none => s
  | some e =>
    if e.twin || e.master = 254 then s
    else
      let s := s.updParish p gpn fun e => { e with twin := true }
      match (s.pkg e.master).frameOf gpn with
      | some f => s.twinUp e.master f gpn
      | none => s

/-- How far the switch of a page has come: a code of R180, a lodging that its package must begin first, a change that takes the set's way
before it, or a change of the page itself to wait for. -/
inductive Switch where
  | code (n : Nat) | lodge (q f : Nat) | behind (ch : Nat) | wait
  deriving DecidableEq, Repr

/-- The way of a set that a page takes by victim choice (R260): an earlier attraction into the set goes first (R277), a master must be
lodged, and with its lodging `refused` there is no room (R270, R372). -/
def State.switchWay (s : State) (q gpn : Nat) (refused : Bool) (go : Nat → State × Switch) : State × Switch :=
  match s.changes.find? fun c => ({ s with changes := [c] } : State).setTaken q (setOf gpn) none with
  | some c => (s, .behind c.1)
  | none => match (s.pkg q).victim (setOf gpn) with
    | .none => (s, .code 1)
    | .lodge f => (s, if refused then .code 1 else .lodge q f)
    | v => v.now.elim (s, .code 1) go

/-- No packet of a package can come to another: no route, or no plane that is up at both (R342, R350). -/
def State.parted (s : State) (p q : Nat) : Bool := s.noRoute p q || !s.joined p q

/-- Pin a page at a package; `refused`: every neighbour, and the host, has refused the victim that it would have to lodge (R270). -/
def State.pinPage (s : State) (p gpn : Nat) (twin : Bool) (q : Nat) (refused : Bool) : State × Switch :=
  let slice := s.parishSlice p gpn
  let done (s : State) : State × Switch := (((if twin then s.twinPage p gpn else s).setPinned p gpn true).crossed p slice 1 1, .code 0)
  if s.parted p slice || s.parted p q then (s, .code 3)
  else if s.busy p gpn then (s, .wait)
  else match s.parishSees p gpn with
  | none => s.switchWay q gpn refused fun g => match s.presentRoom q gpn with
    | (s, false) => (s, .wait)
    | (s, true) => match s.createPage q g gpn twin with
      | (s, true) => ((s.setPinned p gpn true).crossed p slice 1 1, .code 0)
      | (s, false) => (s, .wait)
  | some e =>
    if e.lost || e.refs == 0 then (s, .code 2)
    else if e.master != 254 && (s.noRoute p e.master || s.parted e.master q) then (s, .code 3)
    else if e.master = q then done (s.invalidateCopies gpn q)
    else if e.twinpkg = q then
      done (((s.invalidateCopies gpn e.master).updParish p gpn fun x => { x with twinpkg := e.master }).setMaster q gpn)
    else
      let move (_ : Nat) : State × Switch := match s.moveNow gpn e.master q with
        | (s, false) => (s, .code 1)
        | (s, true) => done s
      if (s.pkg q).stateOf gpn == .replica then move 0 else s.switchWay q gpn refused move

def State.attractPage (s : State) (p gpn : Nat) (twin : Bool) : State × Switch :=
  let slice := s.parishSlice p gpn
  if s.parted p slice then (s, .code 3)
  else if s.busy p gpn then (s, .wait)
  else match s.parishSees p gpn with
  | some e =>
    if e.lost || e.refs == 0 then (s, .code 2)
    else (((if twin then s.twinPage p gpn else s).setPinned p gpn false).crossed p slice 1 1, .code 0)
  | none => (s, .code 0)

/-- Switch pages in order, up to the first that must wait: the codes, and the page that waits. -/
def State.switchPages (s : State) (go : State → Leaf → State × Switch) (ls : List Leaf) : State × List Nat × Option (Nat × Switch) :=
  ls.foldl (fun acc l =>
    if acc.2.2.isSome then acc
    else match go acc.1 l with
      | (s, .code x) => (s, acc.2.1 ++ [x], none)
      | (s, w) => (s, acc.2.1, some (l.gpn, w))) (s, [], none)

/-- Pages of a range by ascending GPN; the host's walk to wait for. -/
def State.rangePages (s : State) (core ctx : Nat) (lo : Word) (n : Nat) : State × Option Nat × List Leaf :=
  let r := (List.range (n / 65536)).foldl (fun (acc : State × Option Nat × List Leaf) i =>
    match acc.1.translate core ctx (lo + BitVec.ofNat 64 (65536 * i)) with
    | (s, .ok l) => (s, acc.2.1, acc.2.2 ++ [l])
    | (s, .wait ix) => (s, some ix, acc.2.2)
    | (s, .fail _) => (s, acc.2.1, acc.2.2)) (s, none, [])
  (r.1, r.2.1, (r.2.2.filter fun l => !isHost l.gpn).mergeSort fun a b => a.gpn ≤ b.gpn)

/-- What a PGCTL read when it issued, start and length of its range, and the pages whose victims have been refused a lodging since
(R52, R270). -/
def pgctlRead (t : Team) (f : SF) : Word × Word × List Word :=
  match t.latch with
  | some (lo :: n :: rs) => (lo, n, rs)
  | _ => (t.rs f.s1.toNat, t.rs (f.s1.toNat + 1), [])

/-- PGCTL: the range's locks drain, the caches write back at SYSTEM scope, and each page switches (R180, R270). Pages of the range that
are unmapped or in host memory are passed over, and of several codes the largest but LOST behind NO_ROOM stands (log 86). A page that
waits makes the word begin again with what it has read: what has switched stays switched, and a page whose victim's lodging was
abandoned repeats its victim choice (R372). -/
def pgctl (h : Hdr) (f : SF) (pkg : Option Nat) (s : State) (tk : Nat) (t : Team) : Act :=
  if t.role ≠ .reeve then .fault s h .privilege 0 0 0
  else
    let (lo, len, refused) := pgctlRead t f
    let n := len.toNat
    let p := pkgOfTeam tk
    let t := { t with latch := some (lo :: len :: refused) }
    if lo.toNat % 65536 != 0 || n % 65536 != 0 || n == 0 then .fault s h .misaligned 0 0 lo
    else if s.rangeBusy p t.ctx lo.toNat n then .park (s.setTeam tk t) (.drained t.ctx lo.toNat n)
    else releaseThen (s.setTeam tk t) tk t 5 fun s =>
      match s.rangePages (coreOf tk) t.ctx lo n with
      | (s, some ix, _) => .park s (.walk ix)
      | (s, none, ls) =>
        let r := match pkg with
          | some q => if !s.present p q || s.noRoute p q then (s, [3], none)
            else s.switchPages (fun s l => s.pinPage p l.gpn l.twin q (refused.contains (BitVec.ofNat 64 l.gpn))) ls
          | none => s.switchPages (fun s l => s.attractPage p l.gpn l.twin) ls
        match r.2.2 with
        | some (g, .lodge q v) =>
          let ch := r.1.fresh
          .park (r.1.bump.setChange ch
            { kind := .lodge, stage := .waiting, gpn := ((r.1.pkg q).tag v).gpn, src := q, dst := q, frame := v, req := none }) (.lodged ch (some g))
        | some (_, .behind ch) => .park r.1 (.lodged ch none)
        | some (g, _) => .park r.1 (.still [g])
        | none =>
          let has (x : Nat) : Bool := r.2.1.contains x
          let code := if has 3 then 3 else if has 1 then 1 else if has 2 then 2 else 0
          .retire (r.1.updTeam tk fun u => u.longS f.s2.toNat (BitVec.ofNat 64 code))

def execPgctlPin (h : Hdr) (f : SF) (s : State) : Res :=
  issue (.pgctlPin h f) h (once h (pgctl h f (some (f.imm.toNat % 256)))) s
def execPgctlAttract (h : Hdr) (f : SF) (s : State) : Res :=
  issue (.pgctlAttract h f) h (once h (pgctl h f none)) s

end Sys2Proof.Machine
end

