-- ==== Sys2Proof/Machine/Launches.lean ====
section
/-! DEFINITION. What starts teams: kernel headers and their validation (R31 to R33), serials, and a team's first state (R35,
R284). -/

namespace Sys2Proof.Machine

/-- Granules of a partition word, and its validity (R26). -/
def partRf (w : Nat) : Nat := w % 32
def partAcc (w : Nat) : Nat := w / 2 ^ 8 % 32
def partSp (w : Nat) : Nat := w / 2 ^ 16 % 64
def partOk (w : Nat) : Bool :=
  2 ≤ partRf w && partRf w ≤ 16 && partAcc w ≤ 24 && 8 ≤ partSp w && partSp w ≤ 46
    && partRf w + partAcc w + partSp w == Config.pool && w / 2 ^ 5 % 8 == 0 && w / 2 ^ 13 % 8 == 0 && w / 2 ^ 22 == 0

/-- Role code of slot t (Table 01-7). -/
def Kernel.roleCode (k : Kernel) (t : Nat) : Nat := k.roles / 2 ^ (2 * t) % 4
def roleOfCode (n : Nat) : Role := match n with | 0 => .general | 1 => .copy | 2 => .norm | _ => .reeve

/-- Orders 2 and 3 of Table 01-8: the first status that applies, 0 when none does. -/
def launchStatus (k : Kernel) (l : Launch) : Nat :=
  let w := k.partition
  let foot := (k.lanes + 31) / 32 * 128 * (8 * k.full8)
  if !partOk w || !k.allotOk || partRf w * 65536 < foot || k.spbytes % 256 != 0 || partSp w * 65536 < k.spbytes || partAcc w < k.accblk
      || 8 < k.rings || (k.press != 0 && k.accblk == 0) || l.gx == 0 || l.gy == 0 || l.gz == 0 || l.ch == 4 then 3
  else if (List.range k.teams).any fun t => k.roleCode t == 3 then 4 else 0

/-- The next serial that no live or recently ended team of the package holds (R24). -/
def State.serialFrom (s : State) (p : Nat) : Nat → BitVec 32 → BitVec 32
  | 0, n => n
  | k + 1, n =>
    if n == 0 || (s.teams.any fun e => pkgOfTeam e.1 == p && e.2.serial == n.toNat) || (s.pkg p).endedTeams.any (·.serial == n.toNat) then
      s.serialFrom p k (n + 1)
    else n

/-- Take a serial of a package. -/
def State.takeSerial (s : State) (p : Nat) : State × Nat :=
  let n := s.serialFrom p (s.teams.length + (s.pkg p).endedTeams.length + 1) (s.pkg p).nextSerial
  (s.updPkg p fun k => { k with nextSerial := n + 1 }, n.toNat)

/-- A team at its start (R35): the identity it is given, its kernel, its first clause header and s1. -/
structure Start where
  share : Nat
  cl : Nat
  grid : Nat
  ctx : Nat
  teamIx : Nat
  cluster : Nat
  slotT : Nat
  role : Role
  pc : Word
  param : Word
  h0 : Handle

def teamStart (x : Start) (k : Kernel) (serial now seq : Nat) : Team :=
  { share := x.share, cl := x.cl, grid := x.grid, ctx := x.ctx, serial := serial, teamIx := x.teamIx, cluster := x.cluster, slotT := x.slotT
    lanes := k.lanes, role := x.role, version := k.version, pro := 8 * k.pro8, full := 8 * k.full8, allot := 8 * k.pro8, pc := x.pc
    word := none, hdr := ⟨0, 0, 0, false, 0, 0, false, 0, 0⟩, live := laneMask k.lanes, active := laneMask k.lanes, masks := []
    v := [], s := setD 0 [] 1 x.param, k := [], pend := [], outst := [], ftz := k.ftz, spextra := 0, batch := 0xFFFF, batchDone := 0xFFFF
    forming := [], batches := [], copyScope := 0, copyStatus := 0, seen := 0, regs := [], syncMark := none, tryR := none, tryCode := 0
    tryUser := 0, tryAborts := 0, run := .running, cause := {}, reports := [], retry := none, h0 := x.h0, spawnedAt := now, admitted := false
    admitSeq := seq, withdrawn := false, giveMark := false, gapUntil := 0, readyAt := now, sleepUntil := none, relWait := none, stepping := none
    stamp := 0, escalated := false }

/-- Start a team in a slot (R35, R284). -/
def State.startTeam (s : State) (tk : Nat) (x : Start) (k : Kernel) : State :=
  let (s, n) := s.takeSerial (pkgOfTeam tk)
  s.bump.setTeam tk (teamStart x k n s.now s.fresh)

end Sys2Proof.Machine
end

