-- ==== Sys2Proof/Machine/Events.lean ====
section
/-! DEFINITION. Steps of teams that are no words: words without an instruction (R47, R58), returning results (R54), the ends of
parks (R37, R121), admission (R310, R373), reeves (R283, R284, R288, R292), late reports (R289 to R291), the watchdog (R292), and
flash-clears (R233). -/

namespace Sys2Proof.Machine

open Host

/-- A word of an opcode without an instruction: check 1 of Table 02-4 stops it (R47, R58). -/
def execOpcodeIllegal (h : Hdr) (op : BitVec 9) (r : BitVec 49) (s : State) : Res :=
  issue (.opcodeIllegal h op r) h (fun s _ _ => .fault s h .illegal 0x04 0 0) s

/-! ## Results (R54) -/

/-- The parts of a result that return now: known, and of the lanes named (lane 0 stands for an s register). -/
def Part.returns (lanes : Mask) (q : Part) : Bool := lanes.getLsbD q.lane && q.val.isSome

/-- Write the returning parts of result ix; what older instructions would still write to the same places is discarded. -/
def Team.landResult (t : Team) (ix : Nat) (lanes : Mask) : Team :=
  match t.outst[ix]? with
  | none => t
  | some o =>
    let now := o.parts.filter (·.returns lanes)
    let hit (l : List Part) (r : RegId) (L : Nat) : Bool := l.any fun q => q.reg == r && q.lane == L
    let rest := t.outst.zipIdx.map fun x =>
      { x.1 with parts := x.1.parts.filter fun q => !(if x.2 = ix then q.returns lanes else x.2 < ix && hit now q.reg q.lane) }
    let t := { t with
      pend := t.pend.filter fun e => !hit (now.filter fun q => !q.stale) e.reg e.lane
      outst := rest.filter fun o => !o.parts.isEmpty }
    now.foldl (fun t q => t.store q.reg q.lane (q.val.getD 0)) t

/-- A result returns; with the last one a freeze or an abort that waited for it takes effect (R54, R56, R171). -/
def execLongLatencyResult (tk ix : Nat) (lanes : Mask) (s : State) : Res :=
  .next ((s.updTeam tk fun t => t.landResult ix lanes).takeStop tk)

/-! ## Ends of parks (R37, R55, R121) -/

/-- A team comes back to issue: it waits for admission anew, one whose admission was withdrawn in its place ahead (R310, R373). -/
def State.unpark (s : State) (tk : Nat) : State :=
  s.bump.updTeam tk fun t => { t with run := .running, admitted := false, admitSeq := if t.withdrawn then t.admitSeq else s.fresh }

/-- A wait of the hardware inside a word is over: the team goes on as it was (R57). -/
def State.unstall (s : State) (tk : Nat) : State := s.updTeam tk fun t => { t with run := .running }

/-- A word's acquire takes effect: the team goes on, a stepped one stays frozen behind the word (R184, R226). -/
def State.acquired (s : State) (tk scope : Nat) : State :=
  let s := s.acquire (coreOf tk) scope
  if (s.team tk).any (·.stepping.isSome) then (s.updTeam tk fun t => { t with run := .frozen }).settleStep tk 0 else s.unstall tk

def execTeamUnpark (tk : Nat) (s : State) : Res :=
  .next (match s.team tk with
    | none => s
    | some t => match t.run with
      | .parked (.admission _) | .parked (.sleep _) => s
      | .parked (.acquired scope z) =>
        if !inImage tk && s.condHolds tk t (.acquired scope z) then s.acquired tk scope else s
      | .parked c => if !inImage tk && s.condHolds tk t c then (if c.stalls then s.unstall tk else s.unpark tk) else s
      | _ => s)

/-- A SLEEP ends; it counts in an image too (R313). -/
def execSleepExpiry (tk : Nat) (s : State) : Res :=
  .next (match s.team tk with
    | none => s
    | some t => match t.run with
      | .parked (.sleep u) => if u ≤ s.now then s.unpark tk else s
      | _ => s)

/-! ## Flash-clears (R233) -/

/-- Place of a scope in the generation lists; none for a scope that has no counters. -/
def scopeIx : Scope → Option Nat
  | .cluster => some 0 | .die => some 1 | .package => some 2 | .system => some 3 | _ => none

/-- A level clears the lines that record the value its counter takes next (R233). -/
def execGenerationClear (lvl : Level) (scope : Scope) (s : State) : Res :=
  .next (match scopeIx scope with
    | some ix => if (lvlCarries lvl).contains ix then s.flashClear lvl ix ((s.cache lvl).gen.getD ix 0 + 1) else s
    | none => s)

/-! ## Reeves (R283, R284, R288, R292) -/

/-- The oldest of a core's waiting list leaves it; a held team moves up (R288). -/
def Core.advanceList (k : Core) : Core :=
  let w := k.waiting.drop 1
  { k with waiting := w ++ k.held.take (64 - w.length), held := k.held.drop (64 - w.length) }

/-- NOREEVE: logged; the team is killed in hardware mode and held for the host otherwise (R292). -/
def State.noReeve (s : State) (core : Nat) (x : Handle) : State :=
  match x with
  | .none => s.updCore core (·.advanceList)
  | .departed e r =>
    (s.updCore core (·.advanceList)).logEsc (pkgOf core)
      { addr := r.addr, tserial := e.serial, rserial := 0, kind := 2, core := core % 48, cause := r.word }
  | .frozen f => if (s.team f).isNone then s.updCore core (·.advanceList) else s.escalateAlone f

/-- The start of a reeve for a handle: its share, identity and context, of an ended team those it had; none while the frozen
team's results are outstanding (R56, R284, R291). -/
def State.reeveStart (s : State) (x : Handle) : Option Start :=
  match x with
  | .frozen f => match s.team f with
    | none => none
    | some t =>
      if !t.settled || t.stepping.isSome then none
      else some ⟨t.share, t.cl, t.grid, t.ctx, t.teamIx, t.cluster, t.slotT, .reeve, 0, 0, x⟩
  | .departed e _ => some ⟨e.share, e.cl, e.grid, e.ctx, e.teamIx, e.cluster, 0, .reeve, 0, 0, x⟩
  | .none => none

/-- A slot holds no team, and every result that an ended team there waited for has returned (R298). -/
def State.slotFree (s : State) (tk : Nat) : Bool :=
  (s.team tk).isNone && s.requests.all fun e => !(e.2.tk == tk && e.2.xfer.isNone && !e.2.bring && match e.2.kind with
    | .load => true | .atomic _ ret => ret | _ => false)

/-- A free reeve slot of a core. -/
def State.reeveSlot (s : State) (core : Nat) : Option Nat := ([16, 17, 18, 19].map fun i => 20 * core + i).find? s.slotFree

/-- A frozen team of a core that stands on no list and has no reeve: no reeve can be spawned for it (R283, R292). -/
def State.unlisted (s : State) (core : Nat) : Option (Nat × Team) :=
  s.teams.find? fun (e : Nat × Team) =>
    let h := Handle.frozen e.1
    coreOf e.1 == core && e.2.run == .frozen && !e.2.escalated && !e.2.isReeve && e.2.stepping.isNone
      && !(s.cores.any fun c => c.2.waiting.contains h || c.2.held.contains h) && !s.teams.any fun r => r.2.h0 == h

/-- A team that no reeve can serve is escalated; a reeve is spawned for the oldest listed team of a core, or that team is escalated for
want of a reeve kernel (R283, R292). -/
def execReeveSpawn (core : Nat) (s : State) : Res :=
  .next (match s.unlisted core, (s.core core).waiting.head? with
    | some e, _ => if s.reeveless core e.2.ctx then s.escalateAlone e.1 else s.enlist core (.frozen e.1)
    | none, none => s
    | none, some x => match s.reeveStart x with
      | none => s
      | some st => match s.reeveKernel core st.ctx with
        | (s, none) => s
        | (s, some none) => s.noReeve core x
        | (s, some (some (k, pc, param))) => match s.reeveSlot core with
          | none => s
          | some tk =>
            ((s.startTeam tk { st with pc := pc, param := param } k).updCore core (·.advanceList)).updPkg (pkgOf core) fun k =>
              { k with spawns := k.spawns + 1 })

/-! ## Admission (R29, R310, R373) -/

/-- Order of two waiters: reeves, then teams whose admission was withdrawn, then by the time they began to wait. -/
def Team.before (a b : Team) : Bool :=
  let c (t : Team) : Nat := if t.isReeve then 0 else if t.withdrawn then 1 else 2
  if c a = c b then a.admitSeq < b.admitSeq else c a < c b

/-- The first waiter of a core. -/
def State.firstWaiter (s : State) (core : Nat) : Option (Nat × Team) :=
  (s.waiters core).foldl (fun a e => match a with
    | none => some e
    | some x => if e.2.before x.2 then some e else some x) none

/-- The allotment at which a team is admitted. -/
def Team.wants (t : Team) : Nat := match t.run with | .parked (.admission n) => max n t.allot | _ => t.allot

/-- Admit a team; an ACQUIRE that waited has its allotment (R174). -/
def State.letIn (s : State) (tk : Nat) : State :=
  s.bump.updTeam tk fun t =>
    { t with allot := t.wants, run := .running, admitted := true, withdrawn := false, admitSeq := s.fresh, readyAt := s.now }

/-- The most recently admitted non-reeve team of a core that still has its admission. -/
def State.lastAdmitted (s : State) (core : Nat) : Option (Nat × Team) :=
  (s.teams.filter fun (e : Nat × Team) => coreOf e.1 == core && e.2.admitted && !e.2.isReeve && !e.2.withdrawn).foldl
    (fun a e => match a with | none => some e | some x => if x.2.admitSeq < e.2.admitSeq then some e else some x) none

/-- Withdraw one admission for a waiting reeve, unless clauses that end will make room (R373). -/
def State.withdrawOne (s : State) (core : Nat) (r : Team) : State :=
  let leaving := ((s.teams.filter fun (e : Nat × Team) => coreOf e.1 == core && e.2.admitted && e.2.withdrawn).map fun e =>
    e.2.footprint e.2.allot).foldl (· + ·) 0
  if s.admittedBytes core - leaving + r.footprint r.wants ≤ s.rfBytes core then s
  else match s.lastAdmitted core with
    | none => s
    | some e => s.updTeam e.1 fun t => { t with withdrawn := true, admitted := t.word.isSome }

def execTeamAdmit (core : Nat) (s : State) : Res :=
  .next (match s.firstWaiter core with
    | none => s
    | some (tk, t) =>
      if s.fits tk t t.wants then s.letIn tk
      else if t.isReeve then s.withdrawOne core t
      else s)

/-! ## Late reports (R289 to R291) -/

/-- A team can be frozen between instructions: at a clause boundary, or parked in a word that has not taken effect (R280); a release
that it has issued completes first (R357). -/
def Team.interruptible (t : Team) : Bool :=
  t.settled && match t.run with
    | .running => t.word.isNone
    | .parked c => !c.stalls
    | _ => false

/-- A report meets a team that is not in its clause: an open region aborts, any other team freezes (R290, R297). -/
def State.deliver (s : State) (r : Report) (t : Team) : State :=
  let s := s.leaveQueues r.tk
  if t.tryR.isSome then s.abortTry r.tk 4 0 else s.freeze r.tk r.record

/-- The cause record of a report for a team that has ended (R291). -/
def Report.departed (r : Report) : CauseRec :=
  { lanes := r.lanes.map fun l => ⟨l.1, .departedStore, l.2⟩, primary := 0x30, sub := r.cause.code, field := r.reason, imprecise := true, addr := r.addr }

/-- A report reaches its package: it freezes its team, is kept with a frozen one, or spawns a DEPARTED handle; a region that is
aborting has met it already (R290, R291). -/
def execImpreciseReport (ix : Nat) (s : State) : Res :=
  .next (match s.reports[ix]? with
    | none => s
    | some r =>
      let earlier := (s.reports.take ix).any fun q => q.tk == r.tk && q.serial == r.serial
      let done := { s with reports := s.reports.eraseIdx ix }
      let p := pkgOfTeam r.tk
      if earlier then s
      else match (s.team r.tk).bind fun t => if t.serial = r.serial then some t else none with
        | some t =>
          if t.run == .frozen || t.run == .freezing || t.stepping.isSome then
            (if t.reports.length < 4 then done.setTeam r.tk { t with reports := t.reports ++ [r] }
             else (done.logEsc p { addr := r.addr, tserial := r.serial, kind := 5, core := coreOf r.tk % 48, cause := r.record.word }).updPkg p
               (·.setFstat 4))
          else if t.interruptible && !inImage r.tk then done.deliver r t
          else s
        | none => match (s.pkg p).endedTeams.find? (·.serial == r.serial) with
          | none => done
          | some e => done.enlist e.core (.departed e r.departed))

/-! ## The watchdog (R292) -/

/-- A reeve that has run longer than the watchdog allows is frozen at a clause boundary and escalated. -/
def execWatchdog (tk : Nat) (s : State) : Res :=
  .next (match s.team tk with
    | none => s
    | some t =>
      let p := pkgOfTeam tk
      let limit := (s.pkg p).wdog.toNat * 4096
      if !t.isReeve || limit = 0 || s.now - t.spawnedAt ≤ limit || t.stepping.isSome || !t.interruptible then s
      else
        let s := (s.leaveQueues tk).updTeam tk fun t =>
          { t.commit with run := .frozen, admitted := false, inSlot := false, latch := none, cause := { imprecise := true, addr := t.here } }
        (s.updPkg p (·.setFstat 2)).escalateReeve tk 3)

end Sys2Proof.Machine
end

