-- ==== Sys2Proof/Machine/Sched.lean ====
section
/-! DEFINITION. The queue scheduler, the distributor, pre-emption and metering (R299 to R307, R311 to R314), and what a launch
leaves when it ends (R306, R176). -/

namespace Sys2Proof.Machine

open Host

/-! ## Tickets and DONE words (R176, R306) -/

/-- A ticket has ended with a status; the 4,096 last ones stay known (R176). -/
def Pkg.endTicket (k : Pkg) (t : Option Nat) (status : Nat) : Pkg :=
  match t with
  | none => k
  | some n =>
    let l := n :: k.endedTickets
    { k with
      endedTickets := l.take Config.knownLaunches
      tickets := (l.drop Config.knownLaunches).foldl (fun (m : List (Nat × Ticket)) x => erase m x) (put k.tickets n ⟨2, status⟩) }

/-- Raise the completion vector of a queue (R364). -/
def Pkg.completed (k : Pkg) (q : Nat) : Pkg := k.raiseVec (16 + q % 2032)

/-- A DONE word that cannot be written is logged (R306). -/
def State.doneFail (s : State) (p core : Nat) (va : Word) (c : Cause) : State :=
  (s.logEsc p { addr := va, kind := 6, core := core % 48, cause := c.code }).updPkg p (·.setFstat 5)

/-- Write the DONE word of a launch of a queue, or log why not, a page that no route leads to as a LOST one (R306, log 88); false while
a walk or a page change holds it up. -/
def State.writeDone (s : State) (p q core ctx : Nat) (va : Word) (x : Nat) : State × Bool :=
  if va = 0 then (s, true)
  else if s.walkAsked p (schedWho p) ctx va then (s, false)
  else match s.asHardware p (schedWho p) Chk.waits fun s => s.checkGlobal core ctx va 8 true false false false with
    | (s, .wait _) => (s, false)
    | (s, .bad c) => (s.doneFail p core va c, true)
    | (s, .ok ps) =>
      let a := (ps.head?).elim 0 (·.addr)
      let s := s.dropRange (corePath core) a 8
      match s.sysWriteBytes p a (bytesOf 8 x) with
      | (s, .done) => (s.updPkg p (·.completed q), true)
      | (s, .lost) | (s, .unreachable) => (s.doneFail p core va .pageLost, true)
      | (s, .poisoned) => (s.doneFail p core va .poison, true)
      | (s, .waits) => (s, false)

/-- The DONE word (Table 13-2). -/
def doneWord (uj status : Nat) : Nat := 2 ^ 63 + min uj (2 ^ 32 - 1) * 2 ^ 8 + status

/-! ## Dispatch (R300, R303) -/

/-- Is the queue background now (R301)? -/
def Queue.isBg (x : Queue) : Bool := x.period == 0 || x.bg

/-- The record a queue would dispatch next, by its place among the entered ones: a ticket, or a ring record. -/
def Queue.nextRecord (x : Queue) : Option (Nat × Option Nat) :=
  (x.entered.zipIdx.find? fun e => e.1.isSome || !x.blocked).map fun e => (e.2, e.1)

/-- The head record of a queue: the ring lies in host memory at 64 × RING. -/
def State.headRecord (s : State) (p : Nat) (x : Queue) : Option (Nat × Option Nat × Launch) :=
  match x.nextRecord with
  | none => none
  | some (i, some n) => (find (s.pkg p).pending n).map fun l => (i, some n, l.2)
  | some (i, none) => some (i, none, .ofBytes (s.hostBytes (64 * x.ring + 64 * (x.head.toNat % 2 ^ min 16 x.log2n)) 64))

/-- Queues with a head record in the order in which the scheduler considers them (R303). -/
def State.queueOrder (s : State) (p : Nat) : List Nat :=
  let k := s.pkg p
  let ready := k.queues.filter fun (e : Nat × Queue) => e.2.en && (s.headRecord p e.2).isSome
  let fg := (ready.filter fun (e : Nat × Queue) => !e.2.isBg).mergeSort fun a b => a.2.absdl < b.2.absdl || (a.2.absdl == b.2.absdl && a.1 ≤ b.1)
  let bg := ready.filter fun (e : Nat × Queue) => e.2.isBg
  (fg ++ bg.filter (fun e => k.lastBg < e.1) ++ bg.filter (fun e => e.1 ≤ k.lastBg)).map (·.1)

/-- What validation under orders 1 to 3 of Table 01-8 finds. -/
inductive Valid where
  | ok (k : Kernel) | bad (status : Nat) | wait
  deriving DecidableEq, Repr

/-- The scheduler of a package reads the kernel header of a record in a context (R32, R33). -/
def State.validate (s : State) (p ctx : Nat) (l : Launch) : State × Valid :=
  match s.readRecord (schedWho p) (48 * p) ctx l.kernel with
    | (s, .wait) => (s, .wait)
    | (s, .bad) => (s, .bad 2)
    | (s, .ok bs) =>
      let k := Kernel.ofBytes bs
      if !(k.1.readable k.2 l.kernel) || k.1.press.toNat % 8 != 0 || !l.resOk then (s, .bad 2)
      else (s, match launchStatus k.1 l with | 0 => .ok k.1 | n => .bad n)

/-- The head record leaves its queue (R300, R303). -/
def State.takeRecord (s : State) (p q i : Nat) (t : Option Nat) : State :=
  let s := s.updQueue p q fun x =>
    { x with entered := x.entered.eraseIdx i, head := if t.isNone then x.head + 1 else x.head, asked := none, answer := none }
  s.updPkg p fun k =>
    { k with
      lastBg := if (s.queue p q).isBg then q else k.lastBg
      pending := t.elim k.pending (erase k.pending) }

/-- A launch fails: its DONE word, then its ticket is ENDED with the status; false while the word waits (R32, R306). -/
def State.failLaunch (s : State) (p q i : Nat) (t : Option Nat) (l : Launch) (status : Nat) : State × Bool :=
  match s.writeDone p q (48 * p) (s.queue p q).ctx l.done (doneWord 0 status) with
  | (s, false) => (s, false)
  | (s, true) => ((s.takeRecord p q i t).updPkg p (·.endTicket t status), true)

/-- The next grid serial from a number on that no live grid has (R24). -/
def State.gridSerial (s : State) : Nat → Nat → Nat
  | 0, n => n % 2 ^ 32
  | k + 1, n => if s.grids.any fun g => g.1 % 2 ^ 32 == n % 2 ^ 32 then s.gridSerial k (n + 1) else n % 2 ^ 32

/-- A launch is dispatched: purse and window are charged, and its grid is live (R303); the low 32 bits of its number, which sr.grid reads,
are no other live grid's (log 70). -/
def State.startGrid (s : State) (p q i : Nat) (t : Option Nat) (l : Launch) (k : Kernel) : State :=
  let s := s.takeRecord p q i t
  let s := s.updQueue p q fun x => { x with balance := x.balance - 1000 * l.energy, busyUs := true }
  let s := s.updPkg p fun k =>
    { k with wavail := k.wavail - l.energy, tickets := t.elim k.tickets fun n => put k.tickets n ⟨1, 0⟩ }
  s.bump.setGrid (2 ^ 32 * s.fresh + s.gridSerial s.grids.length s.fresh)
    { pkg := p, queue := q, ctx := (s.queue p q).ctx, kernel := k, launch := l, ticket := t, admittedAt := s.clock p }

/-- Admit, refuse or fail the head record of a queue; false when it stays pending, for the purse, the window, the host, a walk or
the place of its DONE word (R303). -/
def State.admitRecord (s : State) (p q : Nat) : State × Bool :=
  let x := s.queue p q
  let k := s.pkg p
  match s.headRecord p x with
  | none => (s, false)
  | some (i, t, l) =>
    if s.walkAsked p (schedWho p) x.ctx l.kernel then (s, false) else
    let decide_ (refuse : Bool) : State × Bool := match s.validate p x.ctx l with
      | (s, .wait) => (s, false)
      | (s, .bad n) => s.failLaunch p q i t l n
      | (s, .ok kn) => if refuse then s.failLaunch p q i t l 5 else (s.startGrid p q i t l kn, true)
    match x.answer, x.asked with
    | some a, _ => decide_ (a != 0)
    | none, some _ => (s, false)
    | none, none =>
      if k.duty.getLsbD 5 then
        match s.askHost p 2 255 (BitVec.ofNat 64 q) (BitVec.ofNat 64 l.energy) l.kernel with
        | (_, none) => (s, false)
        | (s, some ix) => (s.updQueue p q fun x => { x with asked := some ix }, false)
      else if x.pcap < l.energy || k.ewin < l.energy then decide_ true
      else if 1000 * (l.energy : Int) ≤ x.balance && l.energy ≤ k.wavail then decide_ false
      else (s, false)

/-- The scheduler looks at the queues in its order up to the first whose head record it takes; one that stays pending blocks only its
own queue (R303). -/
def execQueueDispatch (p : Nat) (s : State) : Res :=
  .next ((s.queueOrder p).foldl (fun (a : State × Bool) q => if a.2 then a else a.1.admitRecord p q) (s, false)).1

/-! ## The distributor (R26, R27, R307) -/

/-- What a share asks of a core: partition word, team slots, a press stream, blocks, scratchpad bytes. -/
structure Need where
  part : Nat
  slots : Nat
  stream : Bool
  blocks : Nat
  bytes : Nat

def Kernel.need (k : Kernel) : Need := ⟨k.partition, k.teams, k.press != 0, k.accblk, k.spbytes⟩

/-- Shares that a core hosts, those of some clusters left out. -/
def State.hosted (s : State) (core : Nat) (skip : List Nat) : List Share :=
  (s.shares.filter fun (e : Nat × Share) => e.2.core == some core && !e.2.ended && !skip.contains e.2.cl).map (·.2)

/-- Free team slots of a core, in ascending order: no team stands there, nor a result of one that has ended (R298). -/
def State.freeSlots (s : State) (core : Nat) (skip : List Nat) : List Nat :=
  ((List.range Config.slots).map fun i => 20 * core + i).filter fun tk => s.slotFree tk || (s.team tk).any fun t => skip.contains t.cl

/-- Blocks that a share holds: ACCBLK of its kernel, whether or not it has a stream (R307). -/
def State.blocksOf (s : State) (x : Share) : Nat :=
  match s.grid x.grid with
  | some g => g.kernel.accblk
  | none => x.stream.elim 0 (·.blocks.length)

/-- A core has room for a share (R27, R307). -/
def State.coreFits (s : State) (core : Nat) (n : Need) (skip : List Nat) : Bool :=
  let hs := s.hosted core skip
  let teams := s.teams.any fun (e : Nat × Team) => coreOf e.1 == core && !inImage e.1 && !skip.contains e.2.cl
  let streams := (hs.filter fun x => x.stream.isSome).length
  (((!hs.isEmpty || teams) && (s.core core).partition == n.part) || (hs.isEmpty && !teams))
    && n.slots ≤ (s.freeSlots core skip).length
    && streams + (if n.stream then 1 else 0) ≤ 4
    && ((hs.map s.blocksOf).foldl (· + ·) 0) + n.blocks ≤ partAcc n.part
    && ((hs.map (·.spbytes)).foldl (· + ·) 0) + n.bytes ≤ partSp n.part * 65536

/-- Cores of a CW × CH rectangle of a die with its top-left at a row and column (R15). -/
def rectangle (die cw ch row col : Nat) : List Nat :=
  (List.range ch).flatMap fun i => (List.range cw).map fun j => 12 * die + 4 * (row + i) + col + j

/-- The rectangles of a package in the order in which the distributor prefers them (R307). -/
def rectangles (p cw ch : Nat) : List (List Nat) :=
  (List.range 4).flatMap fun d => (List.range (4 - ch)).flatMap fun r => (List.range (5 - cw)).map fun c => rectangle (4 * p + d) cw ch r c

def State.findPlace (s : State) (p : Nat) (g : Grid) (skip : List Nat) : Option (List Nat) :=
  (rectangles p g.launch.cw g.launch.ch).find? fun cs => cs.all fun c => s.coreFits c g.kernel.need skip

/-- Clusters of a grid (R16). -/
def Grid.total (g : Grid) : Nat := g.launch.gx * g.launch.gy * g.launch.gz

/-- Bytes of the images of a cluster of a kernel: a context image for each team at full allotment, and the shares' scratchpads
and blocks (Table 01-10, R313). -/
def Grid.imageBytes (g : Grid) : Nat :=
  let k := g.kernel
  g.launch.cw * g.launch.ch * (k.teams * (0x9000 + 8 * k.full8 * ((k.lanes + 31) / 32) * 256) + k.spbytes + 65536 * if k.press = 0 then 0 else k.accblk)

/-- A cluster has a share that has not ended. -/
def State.clusterLive (s : State) (c : Cluster) : Bool := c.shares.any fun sh => (s.share sh).any fun x => !x.ended

/-- The context pool has room for one more cluster of a grid (R36, R368). -/
def State.poolRoom (s : State) (p : Nat) (g : Grid) : Bool :=
  let used := ((s.clusters.filter fun (e : Nat × Cluster) => s.clusterLive e.2 && (s.grid e.2.grid).any fun x => x.pkg == p).map fun e =>
    (s.grid e.2.grid).elim 0 (·.imageBytes)).foldl (· + ·) 0
  used + g.imageBytes ≤ ((s.pkg p).bootReg 0x18).toNat / 2 ^ 40 * 65536

/-- Grids of a package in dispatch order. -/
def State.gridsOf (s : State) (p : Nat) : List (Nat × Grid) := s.grids.filter fun e => e.2.pkg == p

/-- The first grid of a package with an unplaced cluster: the one the distributor places next (R307). -/
def State.nextGrid (s : State) (p : Nat) : Option (Nat × Grid) := (s.gridsOf p).find? fun e => e.2.nextCluster < e.2.total

/-- A cluster of grid v is a victim for a waiting cluster of grid g (R312). -/
def State.victimOf (s : State) (p : Nat) (v g : Grid) : Bool :=
  let x := s.queue p g.queue
  let y := s.queue p v.queue
  !x.isBg && (y.isBg || x.absdl < y.absdl)

/-- Pre-empted clusters of a package that wait to resume. -/
def State.savedClusters (s : State) (p : Nat) : List (Nat × Cluster) :=
  s.clusters.filter fun (e : Nat × Cluster) => e.2.saved && (s.grid e.2.grid).any fun g => g.pkg == p

/-- Start the shares of a cluster on the cores of a rectangle, streams before teams (R15, R35, R190, R340); each core acquires at
PACKAGE scope for the teams that a LAUNCH creates (R227). -/
def State.startCluster (s : State) (gk : Nat) (g : Grid) (cores : List Nat) : State :=
  let k := g.kernel
  let cl := s.fresh
  let n := cores.length
  let s := { s with fresh := s.fresh + 1 + n }
  let shares := (List.range n).map fun i => cl + 1 + i
  let s := s.setCluster cl { grid := gk, index := g.nextCluster, cw := g.launch.cw, ch := g.launch.ch, die := (cores.headD 0) / 12,
                             shares := shares, placedSeq := cl }
  let s := s.updGrid gk fun g => { g with nextCluster := g.nextCluster + 1, clusters := g.clusters ++ [cl],
                                          cores := g.cores ++ cores.filter fun c => !g.cores.contains c }
  (cores.zipIdx).foldl (fun s x =>
    let sh := cl + 1 + x.2
    let stream : Option Stream := if k.press = 0 then none else
      some { st := .running, spc := g.launch.kernel + k.press, blocks := List.replicate k.accblk {} }
    let s := if g.ticket.isSome then s.acquire x.1 4 else s
    let s := (s.updCore x.1 fun c => { c with partition := k.partition }).setShare sh
      { core := some x.1, cl := cl, grid := gk, pos := x.2, spbytes := k.spbytes, nteams := k.teams, rings := List.replicate k.rings {}, stream := stream }
    (((s.freeSlots x.1 []).take k.teams).zipIdx).foldl (fun s y =>
      s.startTeam y.1 ⟨sh, cl, gk, g.ctx, x.2 * k.teams + y.2, g.nextCluster, y.2, roleOfCode (k.roleCode y.2), g.launch.kernel + k.entry,
        g.launch.param, .none⟩ k) s) s

/-- Place the next cluster: the earliest grid with an unplaced one, behind pre-empted clusters of earlier grids but for those
whose room was taken for it (R307, R314; log 13). -/
def execClusterPlace (p : Nat) (s : State) : Res :=
  .next (match s.nextGrid p with
    | none => s
    | some (gk, g) =>
      let ahead := (s.savedClusters p).any fun c => c.2.grid ≤ gk && !(c.2.grid != gk && (s.grid c.2.grid).any fun v => s.victimOf p v g)
      if ahead || !s.poolRoom p g then s
      else match s.findPlace p g [] with
        | none => s
        | some cores => s.startCluster gk g cores)

/-! ## Pre-emption (R311 to R314) -/

/-- A team moves to another number: to its image and back. -/
def State.rekey (s : State) (a b : Nat) : State :=
  match s.team a with
  | none => s
  | some t =>
    let hd (h : Handle) : Handle := if h = Handle.frozen a then .frozen b else h
    let ix (n : Nat) : Nat := if n = a then b else n
    let s := { s with
      teams := (put (erase s.teams a) b t).map fun (e : Nat × Team) => (e.1, { e.2 with h0 := hd e.2.h0 })
      cores := s.cores.map fun (e : Nat × Core) => (e.1, { e.2 with waiting := e.2.waiting.map hd, held := e.2.held.map hd })
      requests := s.requests.map fun (e : Nat × Request) => if e.2.tk = a ∧ e.2.serial = t.serial then (e.1, { e.2 with tk := b }) else e
      xfers := s.xfers.map fun (e : Nat × Xfer) => if e.2.tk = a ∧ e.2.serial = t.serial then (e.1, { e.2 with tk := b }) else e
      reports := s.reports.map fun (r : Report) => if r.tk = a ∧ r.serial = t.serial then { r with tk := b } else r }
    let s := s.updPkg (pkgOfTeam a) fun k => { k with launchWait := k.launchWait.map ix }
    s.updShare t.share fun x => { x with rings := x.rings.map fun r => { r with senders := r.senders.map ix, takers := r.takers.map ix } }

/-- The teams of a cluster, by number. -/
def State.clusterTeams (s : State) (cl : Nat) : List (Nat × Team) := s.teams.filter fun (e : Nat × Team) => e.2.cl == cl && !e.2.isReeve

/-- May a cluster be pre-empted at all (R311)? -/
def State.preemptable (s : State) (cl : Nat) : Bool :=
  (s.clusterTeams cl).all (fun e => !((e.2.run == .frozen || e.2.run == .freezing) && e.2.tryR.isSome) && e.2.stepping.isNone
      && !s.teams.any fun r => r.2.isReeve && r.2.h0 == Handle.frozen e.1)
    && !s.teams.any fun r => r.2.isReeve && r.2.cl == cl

/-- The victims for a waiting grid, the first to go first: the latest ABSDL, background as the latest of all, the most
recently placed of a grid (R312). -/
def State.victims (s : State) (p : Nat) (g : Grid) : List (Nat × Cluster) :=
  let rank (c : Cluster) : Bool × Nat := match s.grid c.grid with
    | none => (false, 0)
    | some v => ((s.queue p v.queue).isBg, (s.queue p v.queue).absdl)
  let before (a b : Nat × Cluster) : Bool :=
    let x := rank a.2
    let y := rank b.2
    if x.1 != y.1 then x.1
    else if x.2 != y.2 && !x.1 then y.2 < x.2
    else if a.2.grid != b.2.grid then b.2.grid < a.2.grid
    else b.2.placedSeq ≤ a.2.placedSeq
  ((s.clusters.filter fun (e : Nat × Cluster) => !e.2.stopping && !e.2.saving && !e.2.saved && s.clusterLive e.2 && s.preemptable e.1 &&
      (s.grid e.2.grid).any fun v => v.pkg == p && s.victimOf p v g).mergeSort before)

/-- A team leaves its core: an open region aborts with PREEMPT, a DIE release is performed, the coherence clock stamps the image,
and the slot frees (R237, R313). -/
def State.imageTeam (s : State) (tk : Nat) : State :=
  match s.team tk with
  | none => s
  | some t =>
    let s := if t.tryR.isSome then s.abortTry tk 7 0 else s
    let s := (s.release (coreOf tk) 3).updPkg (pkgOfTeam tk) fun k => { k with coh := k.coh + 1 }
    let n := s.fresh
    let s := s.bump.updTeam tk fun t => { t with stamp := (s.pkg (pkgOfTeam tk)).coh, admitted := false, withdrawn := false }
    s.rekey tk (138240 * n + tk)

/-- A team may leave its core: it stands at a clause boundary, parked under Park or frozen, its results have returned and its accesses
have been performed (R56, R57, R225, R237). -/
def State.atRest (s : State) (tk : Nat) (t : Team) : Bool :=
  t.settled && s.quiet tk t.serial && match t.run with
    | .running => t.word.isNone
    | .parked c => c.isPark
    | .frozen => true
    | _ => false

/-- A foreground grid has an unplaced cluster that no rectangle can take, and that one could take without its victims (R312). -/
def State.starved (s : State) (p : Nat) (g : Grid) : Bool :=
  !(s.queue p g.queue).isBg && decide (g.nextCluster < g.total) && s.poolRoom p g && (s.findPlace p g []).isNone
    && (s.findPlace p g ((s.victims p g).map (·.1))).isSome

/-- Pre-empt a cluster: its teams stop at their next clause boundary, and once all are at rest they go to their images; a cluster that
R311 has come to protect goes on (R311, R313). -/
def State.stopCluster (s : State) (p cl : Nat) : State :=
  if !s.preemptable cl then s.updCluster cl fun c => { c with stopping := false }
  else if (s.clusterTeams cl).all fun e => s.atRest e.1 e.2 then
    (((s.clusterTeams cl).map (·.1)).foldl (fun s tk => s.imageTeam tk) s).updCluster cl (fun c => { c with stopping := false, saving := true })
      |>.updPkg p fun k => { k with preempts := k.preempts + 1 }
  else s.updCluster cl fun c => { c with stopping := true }

/-- Clusters of a package that satisfy a condition. -/
def State.clustersOf (s : State) (p : Nat) (f : Cluster → Bool) : List (Nat × Cluster) :=
  s.clusters.filter fun e => f e.2 && (s.grid e.2.grid).any fun v => v.pkg == p

/-- Pre-emption, one cluster at a time: the first victim of the first foreground grid, in dispatch order, that needs one (R312, R313). -/
def execPreemptCluster (p : Nat) (s : State) : Res :=
  .next (if !(s.clustersOf p (·.saving)).isEmpty then s
    else match s.clustersOf p (·.stopping) with
      | (cl, _) :: _ => s.stopCluster p cl
      | [] => match (s.gridsOf p).find? fun e => s.starved p e.2 with
        | none => s
        | some (_, g) => match s.victims p g with
          | [] => s
          | (cl, _) :: _ => s.stopCluster p cl)

/-- A transfer holds a lock on a scratchpad range of a share (R313, step 4). -/
def Xfer.onShare (x : Xfer) (sh : Nat) : Bool :=
  let on (l : Loc) : Bool := match l with | .sp n _ => n == sh | .glob _ => false
  x.dst.any on || x.src.any fun l => l.any on

/-- The share images are written and the cores are released (R313, steps 4 to 6). -/
def execShareImageSave (p cl : Nat) (s : State) : Res :=
  .next (match s.cluster cl with
    | none => s
    | some c =>
      if !c.saving || !((s.grid c.grid).any fun g => g.pkg == p) || (c.shares.any fun sh => s.xfers.any fun x => x.2.onShare sh) then s
      else
        let s := c.shares.foldl (fun s sh => s.updShare sh fun x => { x with core := none }) s
        s.setCluster cl { c with saving := false, saved := true })

/-- What a saved share asks of a core. -/
def State.savedNeed (s : State) (g : Grid) (sh : Nat) (x : Share) : Need :=
  { part := g.kernel.partition, slots := (s.teamsOf sh).length, stream := x.stream.isSome, blocks := s.blocksOf x, bytes := x.spbytes }

/-- Cores of the cluster's die for its shares that have not ended: the lowest that fits for each position in turn (R314). -/
def State.resumePlace (s : State) (g : Grid) (c : Cluster) : Option (List (Nat × Nat)) :=
  foldOpt (fun (l : List (Nat × Nat)) sh => match s.share sh with
    | none => some l
    | some x =>
      if x.ended then some l
      else (((List.range 12).map fun i => 12 * c.die + i).find? fun core => !(l.any fun y => y.2 == core) && s.coreFits core (s.savedNeed g sh x) []).map
        fun core => l ++ [(sh, core)]) [] c.shares

/-- The L1 of a core is brought up to a resuming team's stamp (R238). -/
def State.bringUp (s : State) (core stamp : Nat) : State :=
  [0, 1, 2, 3].foldl (fun s ix => if (s.core core).l1.lastAcq.getD ix 0 < stamp then s.advance (.l1 core) ix else s) s

/-- A team that was resumed by FRESUME.retry and has yet to issue its word anew finds no entry of the pages that the word names in the TLB of
the core it comes to either (R286). -/
def State.dropResumed (s : State) (core : Nat) (t : Team) : State :=
  if t.retry.isNone && !t.cause.atHeader then s else s.dropPagesAt core t

/-- A pre-empted cluster resumes when it is the distributor's next: no earlier cluster waits that the context pool has room for, and
the room is not wanted for the foreground cluster it was taken for (R314; log 13). -/
def execClusterResume (p cl : Nat) (s : State) : Res :=
  .next (match s.cluster cl with
    | none => s
    | some c => match s.grid c.grid with
      | none => s
      | some g =>
        let ahead := (s.savedClusters p).any fun e => e.2.grid < c.grid || (e.2.grid == c.grid && e.2.index < c.index)
        let wanted := match s.nextGrid p with
          | some (gk, n) => s.poolRoom p n && (gk < c.grid || s.victimOf p g n)
          | none => false
        if !c.saved || g.pkg != p || ahead || wanted then s
        else match s.resumePlace g c with
          | none => s
          | some l =>
            let s := l.foldl (fun s y =>
              let s := (s.updCore y.2 fun k => { k with partition := g.kernel.partition }).updShare y.1 fun x => { x with core := some y.2 }
              let ts := (s.teamsOf y.1).mergeSort fun a b => a.2.slotT ≤ b.2.slotT
              (ts.zip (s.freeSlots y.2 [])).foldl (fun s z =>
                let s := s.dropResumed y.2 z.1.2
                ((s.bringUp y.2 z.1.2.stamp).rekey z.1.1 z.2).bump.updTeam z.2 fun t => { t with admitSeq := s.fresh }) s) s
            (s.setCluster cl { c with saved := false, placedSeq := s.fresh }).bump.updGrid c.grid fun g =>
              { g with cores := g.cores ++ (l.map (·.2)).filter fun x => !g.cores.contains x })

/-! ## Periods, budgets, the window and metering (R301 to R305) -/

/-- Period k of a queue starts, behind the metering of the µs before it (R301); a BUDGET of 0 makes it background from here (R302). -/
def execPeriodStart (p q : Nat) (s : State) : Res :=
  let x := s.queue p q
  let c := s.clock p
  let us := c / Config.clocksPerUs
  .next (if !x.en || x.period == 0 || (s.pkg p).meteredAt != some c || c % Config.clocksPerUs != 0 || us < x.t0 || (us - x.t0) % max 1 x.period != 0 || x.startedAt == some c then s
    else s.setQueue p q { x with
      absdl := (us + min x.deadline x.period) * Config.clocksPerUs
      used := 0
      bg := x.budget == 0
      balance := min (x.balance + 1000 * x.refill) (1000 * x.pcap)
      startedAt := some c })

/-- USED reaches BUDGET: background for the rest of the period, and an OVERRUN event (R302, R364). -/
def State.exhaust (s : State) (p q : Nat) : State :=
  let x := s.queue p q
  if x.period == 0 || x.bg || x.budget == 0 || x.used < x.budget then s
  else (s.setQueue p q { x with bg := true, overrun := true }).updPkg p fun k => ({ k with overruns := k.overruns + 1 } : Pkg).raiseVec 2

def execBudgetExhausted (p q : Nat) (s : State) : Res := .next (s.exhaust p q)

/-- WAVAIL := EWIN at a millisecond of sr.clock (R304). -/
def execEnergyWindow (p : Nat) (s : State) : Res :=
  let c := s.clock p
  .next (if c % Config.clocksPerMs != 0 || (s.pkg p).windowAt == some c then s
    else s.updPkg p fun k => { k with wavail := k.ewin, windowAt := some c })

/-- The weights by which grids share a core's energy: what they issued there, or the slots and streams they hold (R305). -/
def State.weights (s : State) (core : Nat) : List (Nat × Nat) :=
  let holds := ((s.teams.filter fun (e : Nat × Team) => coreOf e.1 == core && !inImage e.1).map fun e => e.2.grid) ++
    ((s.hosted core []).filter fun x => x.stream.any fun m => !m.st.over).map (·.grid)
  let here := holds.dedup
  let did := ((s.core core).issued.filter fun e => here.contains e.1)
  if did.any fun e => e.2 != 0 then did else here.map fun g => (g, (holds.filter (· == g)).length)

/-- One core's energy of a µs: sr.energy, and the grids' shares; what a division leaves over goes to the first (log 14). -/
def State.meter (s : State) (core nj : Nat) : State :=
  let ws := s.weights core
  let W := (ws.map (·.2)).foldl (· + ·) 0
  let parts := ws.map fun e => (e.1, nj * e.2 / max 1 W)
  let rest := nj - (parts.map (·.2)).foldl (· + ·) 0
  let s := s.updCore core fun k => { k with energy := k.energy + BitVec.ofNat 64 nj }
  (parts.zipIdx).foldl (fun s x => s.updGrid x.1.1 fun g => { g with metered := g.metered + x.1.2 + if x.2 = 0 then rest else 0 }) s

/-- One µs is metered: the energy each core spent in it is given from outside, and USED advances, which may exhaust a BUDGET in the same
step (R302, R305). -/
def execMeteringTick (p : Nat) (nj : List (Nat × Nat)) (s : State) : Res :=
  let c := s.clock p
  .next (if c % Config.clocksPerUs != 0 || (s.pkg p).meteredAt == some c then s
    else
      let s := (nj.filter fun e => e.1 < 48).foldl (fun s e => s.meter (48 * p + e.1) e.2) s
      let s := { s with cores := s.cores.map fun (e : Nat × Core) => if pkgOf e.1 = p then (e.1, { e.2 with issued := [] }) else e }
      let s := s.updPkg p fun k => { k with
        meteredAt := some c
        queues := k.queues.map fun (e : Nat × Queue) =>
          let live := (s.gridsOf p).any fun g => g.2.queue == e.1
          (e.1, { e.2 with used := if e.2.busyUs || live then min (2 ^ 32 - 1) (e.2.used + 1) else e.2.used, busyUs := live }) }
      ((s.pkg p).queues.map (·.1)).foldl (fun s q => s.exhaust p q) s)

/-! ## Completion (R304 to R306) -/

/-- Everything a grid's completion waits for but its writes: teams, streams and transfers (R306). -/
def State.gridEnded (s : State) (gk : Nat) (g : Grid) : Bool :=
  g.nextCluster == g.total && !(s.teams.any fun e => e.2.grid == gk && !e.2.isReeve)
    && (s.shares.all fun e => e.2.grid != gk || e.2.ended) && !(s.xfers.any fun x => x.2.grid == gk)

/-- A late report of a grid's team is still on its way (R291). -/
def State.reportDue (s : State) (gk : Nat) (g : Grid) : Bool :=
  s.reports.any fun r => pkgOfTeam r.tk == g.pkg && (s.pkg g.pkg).endedTeams.any fun x => x.serial == r.serial && x.grid == gk

/-- The grid leaves the machine. -/
def State.dropGrid (s : State) (gk : Nat) : State :=
  { s with
    grids := erase s.grids gk
    clusters := s.clusters.filter fun (e : Nat × Cluster) => e.2.grid != gk
    shares := s.shares.filter fun (e : Nat × Share) => e.2.grid != gk }

/-- Purse and window regain what the grid did not spend (R304, R305). -/
def State.settleGrid (s : State) (g : Grid) : State :=
  let p := g.pkg
  let s := s.updQueue p g.queue fun x => { x with balance := x.balance + 1000 * g.launch.energy - g.metered }
  if s.clock p / Config.clocksPerMs = g.admittedAt / Config.clocksPerMs then
    s.updPkg p fun k => { k with wavail := k.wavail + (g.launch.energy - g.metered / 1000) }
  else s

/-- The completion of a grid releases at SYSTEM scope on every core it used, once; the number of the package's next posted request
then (R306, R348). -/
def State.gridRelease (s : State) (gk : Nat) (g : Grid) : State × Nat :=
  match g.released with
  | some n => (s, n)
  | none =>
    let s := g.cores.foldl (fun s c => s.release c 5) s
    let n := (s.pkg g.pkg).postSeq
    (s.updGrid gk fun g => { g with released := some n }, n)

/-- A grid completes: a release at SYSTEM scope on every core it used, then, with every posted write that left before acknowledged, its
DONE word, its ticket and the settlement (R306, R348). -/
def execGridComplete (gk : Nat) (s : State) : Res :=
  .next (match s.grid gk with
    | none => s
    | some g =>
      if !s.gridEnded gk g || s.reportDue gk g then s
      else
        let (s, n) := s.gridRelease gk g
        let core := g.cores.headD (48 * g.pkg)
        if (s.pkg g.pkg).posted.any fun x => x.1 < n then s
        else match s.writeDone g.pkg g.queue core g.ctx g.launch.done (doneWord (g.metered / 1000) 0) with
          | (s, false) => s
          | (s, true) => ((s.settleGrid g).updPkg g.pkg (·.endTicket g.ticket 0)).dropGrid gk)

end Sys2Proof.Machine
end

