-- ==== Sys2Proof/Machine/Regs.lean ====
section
/-! DEFINITION. BAR0: what its registers read (R263, R294, R299, R315, R354, R360 to R364), and what writes of them do under their
access codes (R7, R8, R210, R300, R363 to R365). -/

namespace Sys2Proof.Machine

open Host

def wlo (v : Word) : Nat := v.toNat % 2 ^ 32
def whi (v : Word) : Nat := v.toNat / 2 ^ 32
def w64 (n : Nat) : Word := BitVec.ofNat 64 n

/-- BAR0 is reachable once the CXL link has trained (R368). -/
def Pkg.reachable (k : Pkg) : Bool := 3 ≤ k.stage && !(k.stage == 7 && k.err == 5)

def Pkg.arg (k : Pkg) (i : Nat) : Word := getD 0 k.args i
def Pkg.queueOf (k : Pkg) (q : Nat) : Queue := getD {} k.queues q
def Pkg.updQ (k : Pkg) (q : Nat) (f : Queue → Queue) : Pkg := { k with queues := put k.queues q (f (k.queueOf q)) }

/-! ## Reads -/

/-- The boot block (Table 20-2). -/
def Pkg.readBoot (k : Pkg) (off : Nat) : Word :=
  if off = 0x000 then w64 (k.stage + 256 * k.err)
  else if off = 0x048 then k.hreqHead ++ k.hreqTail
  else if 0x010 ≤ off && off ≤ 0x058 then k.bootReg off
  else 0

/-- The command block (Table 20-3). -/
def Pkg.readCmd (k : Pkg) (off : Nat) : Word :=
  if off < 0x20 then k.arg (off / 8)
  else if off = 0x28 then k.cmdValue ++ k.cmdResult ++ (0 : BitVec 6) ++ BitVec.ofBool k.lostCmd ++ BitVec.ofBool k.busy
  else 0

/-- The scheduler control block (Table 13-3). -/
def Pkg.readSched (k : Pkg) (off : Nat) : Word :=
  match off with
  | 0x00 => 0x100000
  | 0x08 => w64 k.ewin
  | 0x10 => w64 k.wavail
  | 0x18 => k.duty.setWidth 64
  | 0x20 => k.overruns
  | 0x28 => k.preempts
  | _ => 0

/-- An entry of a stack's error history (Table 10-15). -/
def HistEnt.word (e : HistEnt) (i : Nat) : Word :=
  if i = 0 then w64 e.clock
  else w64 (2 ^ 60 * (e.kind % 16) + 2 ^ 54 * (e.symbol % 64) + 2 ^ 52 * (e.way % 2) + 2 ^ 32 * (e.row % 2 ^ 19) + 2 ^ 21 * (e.sector % 2048))

/-- The attraction control block (Tables 10-11 to 10-15). -/
def Pkg.readAttr (k : Pkg) (off : Nat) : Word :=
  if off = 0x00 then k.astat.setWidth 64
  else if off = 0x08 then k.neigh
  else if off = 0x10 then k.lodgectl
  else if off = 0x18 then w64 (2 ^ 32 * k.dirUsed + k.dirQuota)
  else if off = 0x20 then k.scrub
  else if 0x40 ≤ off && off < 0xC0 then k.policy ((off - 0x40) / 8)
  else if 0x100 ≤ off && off < 0x180 then getD 0 k.counters ((off - 0x100) / 8)
  else if 0x180 ≤ off && off < 0x1E0 then
    let n := (off - 0x180) / 8
    w64 (2 ^ 8 * getD 0 k.errTotal n + getD 0 k.errNext n)
  else if 0x1000 ≤ off && off < 0xD000 then
    (getD {} k.history (256 * ((off - 0x1000) / 4096) + off % 4096 / 16)).word (off / 8 % 2)
  else 0

/-- An entry of the escalation log (Table 12-5). -/
def LogEnt.word (e : LogEnt) (i : Nat) : Word :=
  match i with
  | 0 => w64 e.clock
  | 1 => e.addr
  | 2 => w64 (2 ^ 32 * e.tserial + e.rserial)
  | _ => w64 (2 ^ 60 * e.kind + 2 ^ 48 * e.core + e.cause)

/-- The fault control block (Tables 12-3 to 12-5). -/
def Pkg.readFault (k : Pkg) (off : Nat) : Word :=
  if off = 0x00 then k.fstat.setWidth 64
  else if off = 0x08 then k.wdog.setWidth 64
  else if off = 0x10 then w64 (2 ^ 8 * k.escTotal + k.escNext)
  else if off = 0x18 then k.freezes
  else if off = 0x20 then k.spawns
  else if 0x800 ≤ off && off < 0x1000 then (getD {} k.log ((off - 0x800) / 32)).word (off / 8 % 4)
  else 0

/-- The fabric control block (Tables 18-2 to 18-4); PODINFO.PKGID reads the package's number from its reset on (the model's choice: log
103). -/
def Pkg.readFabric (k : Pkg) (p off : Nat) : Word :=
  match off with
  | 0x00 => (k.downEv ++ k.linkUp).setWidth 64
  | 0x08 => w64 (2 ^ 32 * k.fto + 2 ^ 24 * k.hbmiss + 2 ^ 16 * k.packwin + k.hbus)
  | 0x10 => w64 ((if k.idMismatch then 2 ^ 16 else 0) + 2 ^ 8 * k.podsize + p)
  | 0x18 => k.lostmap.extractLsb' 0 64
  | 0x20 => k.lostmap.extractLsb' 64 64
  | 0x28 => k.lostmap.extractLsb' 128 64
  | 0x40 => k.flitsTx
  | 0x48 => k.flitsRx
  | 0x50 => k.packedRd
  | 0x58 => k.resent
  | 0x60 => k.timeouts
  | 0x68 => k.noroute
  | _ => 0

/-- A queue block (Table 13-1); an aperiodic queue is background at all times, and its ABSDL reads 0 (R301). -/
def Queue.read (x : Queue) (off : Nat) : Word :=
  match off with
  | 0x00 => w64 (64 * x.ring + x.log2n)
  | 0x08 => x.head ++ x.tail
  | 0x10 => w64 (2 ^ 32 * x.period + x.budget)
  | 0x18 => w64 x.deadline
  | 0x20 => w64 (2 ^ 32 * x.refill + x.pcap)
  | 0x28 => BitVec.ofInt 64 x.balance
  | 0x30 => w64 (2 ^ 32 * x.used + (if x.overrun then 8 else 0) + (if x.isBg then 4 else 0) + (if x.ringErr then 2 else 0) + if x.en then 1 else 0)
  | 0x38 => w64 (if x.period = 0 then 0 else x.absdl)
  | _ => 0

/-- What an aligned 8-byte read of BAR0 returns (R360). -/
def State.regRead (s : State) (p off : Nat) : Word :=
  let k := s.pkg p
  if off % 8 ≠ 0 then 0
  else if off < 0x1000 then k.readBoot off
  else if off < 0x2000 then k.readCmd (off - 0x1000)
  else if off < 0x3000 then k.readSched (off - 0x2000)
  else if off < 0x10000 then 0
  else if off < 0x20000 then k.readAttr (off - 0x10000)
  else if off < 0x21000 then k.readFault (off - 0x20000)
  else if off < 0x22000 then k.readFabric p (off - 0x21000)
  else if off < 0x40000 then 0
  else if off < 0x70000 then
    let c := s.core (48 * p + (off - 0x40000) / 4096)
    if off % 4096 = 0 then (c.gated ++ c.wakes ++ c.idle).setWidth 64 else 0
  else if off < 0x100000 then 0
  else if off < 0x180000 then (k.queueOf ((off - 0x100000) / 64)).read (off % 64)
  else if off < 0x190000 then w64 (k.queueOf ((off - 0x180000) / 8)).ctx
  else if off < 0x200000 then 0
  else if off < 0x208000 then k.msixWord ((off - 0x200000) / 16) (off / 8 % 2)
  else if off < 0x208100 then
    w64 ((List.range 64).foldl (fun a i => if getD false k.msixPend (8 * (off - 0x208000) + i) then a + 2 ^ i else a) 0)
  else 0

/-! ## Writes -/

/-- W1C: ones of the write clear bits (R8). -/
def w1c {n : Nat} (old : BitVec n) (v : Word) : BitVec n := old &&& ~~~(v.setWidth n)

def Pkg.writeBoot (k : Pkg) (off : Nat) (v : Word) : Pkg :=
  if off = 0x048 then k
  else if off = 0x050 then { k with boot := setD 0 k.boot off (v &&& 0xFFF) }
  else if 0x010 ≤ off && off ≤ 0x058 then { k with boot := setD 0 k.boot off v }
  else k

/-- A write of CMD starts a command unless one runs (R361). -/
def Pkg.writeCmd (k : Pkg) (off : Nat) (v : Word) : Pkg :=
  if off < 0x20 then { k with args := setD 0 k.args (off / 8) v }
  else if off = 0x20 then (if k.busy then k else { k with busy := true, cmdOp := some (v.setWidth 8) })
  else if off = 0x28 then { k with lostCmd := k.lostCmd && !v.getLsbD 1 }
  else k

def Pkg.writeSched (k : Pkg) (off : Nat) (v : Word) : Pkg :=
  match off with
  | 0x08 => { k with ewin := wlo v }
  | 0x18 => { k with duty := v.setWidth 7 }
  | 0x20 => { k with overruns := v }
  | 0x28 => { k with preempts := v }
  | _ => k

def Pkg.writeAttr (k : Pkg) (off : Nat) (v : Word) : Pkg :=
  if off = 0x00 then { k with astat := w1c k.astat v }
  else if off = 0x08 then { k with neigh := v &&& 0x7FFFFFFFFF }
  else if off = 0x10 then { k with lodgectl := v &&& 0x1000FFFFF }
  else if off = 0x18 then { k with dirQuota := wlo v }
  else if off = 0x20 then { k with scrub := v &&& 0xFFFFFFFFFFFF }
  else if 0x40 ≤ off && off < 0xC0 then { k with pol := put k.pol ((off - 0x40) / 8) (v &&& 0x3FFFFFF) }
  else if 0x100 ≤ off && off < 0x180 then { k with counters := setD 0 k.counters ((off - 0x100) / 8) v }
  else k

/-- LISTFULL stands while a waiting list of the package is full (R288). -/
def State.writeFault (s : State) (p off : Nat) (v : Word) : State :=
  match off with
  | 0x00 =>
    let full := s.cores.any fun c => pkgOf c.1 == p && 64 ≤ c.2.waiting.length
    s.updPkg p fun k => { k with fstat := w1c k.fstat v ||| (if full then k.fstat &&& 2 else 0) }
  | 0x08 => s.updPkg p fun k => { k with wdog := v.setWidth 16 }
  | 0x18 => s.updPkg p fun k => { k with freezes := v }
  | 0x20 => s.updPkg p fun k => { k with spawns := v }
  | _ => s

def Pkg.writeFabric (k : Pkg) (off : Nat) (v : Word) : Pkg :=
  match off with
  | 0x00 => { k with downEv := w1c k.downEv (v >>> 18) }
  | 0x08 => { k with fto := whi v % 2 ^ 16, hbmiss := wlo v / 2 ^ 24, packwin := wlo v / 2 ^ 16 % 256, hbus := wlo v % 2 ^ 16 }
  | 0x10 => { k with idMismatch := k.idMismatch && !v.getLsbD 16 }
  | 0x40 => { k with flitsTx := v }
  | 0x48 => { k with flitsRx := v }
  | 0x50 => { k with packedRd := v }
  | 0x58 => { k with resent := v }
  | 0x60 => { k with timeouts := v }
  | 0x68 => { k with noroute := v }
  | _ => k

/-- PRESS_IDLE (Table 07-6): a one in any bit of WAKES clears the field. -/
def Core.writeIdle (c : Core) (v : Word) : Core :=
  { c with wakes := if v.extractLsb' 16 16 = 0 then c.wakes else 0, idle := v.setWidth 16 }

def Queue.write (x : Queue) (off : Nat) (v : Word) : Queue :=
  match off with
  | 0x00 => { x with ring := v.toNat / 64, log2n := v.toNat % 32 }
  | 0x10 => { x with period := whi v, budget := wlo v, absdl := if whi v = 0 then 0 else x.absdl }
  | 0x18 => { x with deadline := wlo v }
  | 0x20 => { x with refill := whi v, pcap := wlo v }
  | 0x28 => { x with balance := v.toInt }
  | _ => x

/-- A host write of a register that has no row of its own; read-only and reserved bits, and offsets without a register, ignore it
(R7, R8, R360). -/
def State.regWrite (s : State) (p off : Nat) (v : Word) : State :=
  if off % 8 ≠ 0 then s
  else if off < 0x1000 then s.updPkg p (·.writeBoot off v)
  else if off < 0x2000 then s.updPkg p (·.writeCmd (off - 0x1000) v)
  else if off < 0x3000 then s.updPkg p (·.writeSched (off - 0x2000) v)
  else if off < 0x10000 then s
  else if off < 0x20000 then s.updPkg p (·.writeAttr (off - 0x10000) v)
  else if off < 0x21000 then s.writeFault p (off - 0x20000) v
  else if off < 0x22000 then s.updPkg p (·.writeFabric (off - 0x21000) v)
  else if off < 0x40000 then s
  else if off < 0x70000 then
    (if off % 4096 = 0 then s.updCore (48 * p + (off - 0x40000) / 4096) (·.writeIdle v) else s)
  else if off < 0x100000 then s
  else if off < 0x180000 then s.updPkg p (·.updQ ((off - 0x100000) / 64) (·.write (off % 64) v))
  else if off < 0x190000 then s.updPkg p (·.updQ ((off - 0x180000) / 8) fun x => { x with ctx := v.toNat % 4096 })
  else if off < 0x200000 then s
  else if off < 0x208000 && off % 16 = 0 then s.updPkg p fun k => { k with msix := put k.msix ((off - 0x200000) / 8) v }
  else s

def execRegisterWrite (p off : Nat) (v : Word) (s : State) : Res :=
  .next (if (s.pkg p).reachable then s.regWrite p off v else s)

/-- A CMD write while a command runs (R361). -/
def execCmdWhileBusy (p : Nat) (_v : Word) (s : State) : Res :=
  .next (if (s.pkg p).reachable && (s.pkg p).busy then s.updPkg p fun k => { k with lostCmd := true } else s)

/-- A host write of HREQIX: HEAD frees ring entries, and the frames to glean that the full ring held up are asked for (R365). -/
def execHreqHeadAdvance (p : Nat) (v : Word) (s : State) : Res :=
  .next (if (s.pkg p).reachable then
      let s := s.updPkg p fun k => { k with hreqHead := v.extractLsb' 32 32 }
      (s.pkg p).gleanDue.foldl (fun s st => s.askGlean p st) s
    else s)

/-- A host write of an entry's data and vector control: an unmasked vector's pending interrupt is delivered (R364). -/
def execMsixUnmask (p vec : Nat) (v : Word) (s : State) : Res :=
  .next (if !(s.pkg p).reachable || 2048 ≤ vec then s
    else s.updPkg p fun k =>
      let k := { k with msix := put k.msix (2 * vec + 1) v }
      if !k.masked vec && getD false k.msixPend vec then { k with msixPend := erase k.msixPend vec, irqs := vec :: k.irqs } else k)

/-- The ring records of a queue that a TAIL covers enter behind what has entered, or leave when TAIL goes back (R300). -/
def Queue.enter (x : Queue) : Queue :=
  let d := (x.tail - x.head).toNat
  let c := (x.entered.filter (·.isNone)).length
  if c ≤ d then { x with entered := x.entered ++ List.replicate (d - c) none }
  else { x with entered := (x.entered.foldr (fun (e : Option Nat) (a : Nat × List (Option Nat)) =>
    if e.isNone && 0 < a.1 then (a.1 - 1, a.2) else (a.1, e :: a.2)) (c - d, [])).2 }

/-- A host write of TAIL: an overrun sets RINGERR, raises vector 2 and stops the ring until a later write fits, otherwise records enter
(R300, R364). -/
def execQueueTailWrite (p q : Nat) (v : Word) (s : State) : Res :=
  .next (if !(s.pkg p).reachable || Config.queues ≤ q then s
    else
      let x := { s.queue p q with tail := v.setWidth 32 }
      let full : Bool := 2 ^ min 16 x.log2n < (x.tail - x.head).toNat
      let y := { x with blocked := full }
      let y := if full then y else y.enter
      let x := if y.nextRecord.map (·.2) == x.nextRecord.map (·.2) then { x with blocked := full } else { x with blocked := full, asked := none, answer := none }
      if full then
        let s := s.setQueue p q { x with ringErr := true }
        if x.ringErr then s else s.updPkg p (·.raiseVec 2)
      else s.setQueue p q x.enter)

/-- A host write of a queue's status: OVERRUN and RINGERR clear on ones, EN := 1 needs READY and an installed context (R301, R363,
R368). -/
def execQueueEnWrite (p q : Nat) (v : Word) (s : State) : Res :=
  .next (if !(s.pkg p).reachable || Config.queues ≤ q then s
    else
      let x := s.queue p q
      let may := (s.pkg p).stage == 6 && (find (s.pkg p).ctxs x.ctx).isSome
      let en := v.getLsbD 0 && (x.en || may)
      let x := { x with overrun := x.overrun && !v.getLsbD 3, ringErr := x.ringErr && !v.getLsbD 1 }
      s.setQueue p q (if en && !x.en then
          { x with en := true, t0 := s.clock p / Config.clocksPerUs + 1, startedAt := none }
        else { x with en := en }))

end Sys2Proof.Machine
end

