-- ==== Sys2Proof/Machine/Boot.lean ====
section
/-! DEFINITION. Reset and boot (R9, R343, R368, R369, Table 10-13), attestation (R370) and throttling (R371). -/

namespace Sys2Proof.Machine

open Host

/-- BOOTSTAT changes (R364). -/
def Pkg.setStage (k : Pkg) (stage err : Nat) : Pkg := ({ k with stage := stage, err := err } : Pkg).raiseVec 6

/-- Registers at their Reset values: a STAGE that was not 0 has changed, and the reset mask holds vector 6 pending (R9, R364; log 55). -/
def Pkg.restaged (k : Pkg) (stage : Nat) : Pkg := if stage = 0 then k else k.raiseVec 6

/-- Some package that is READY still counts this one as present. -/
def State.counted (s : State) (p : Nat) : Bool :=
  !s.declared p && s.pkgs.any fun e => e.1 != p && e.2.stage == 6 && p < e.2.podsize

/-- The requests that waited at a package that is reset climb again. -/
def Request.leaving (q : Request) (p : Nat) : Request :=
  if q.at_ = ReqAt.replay p ∨ q.at_ = ReqAt.touch p then { q with at_ := .climb } else q

/-- A reset of a package: its registers, caches, frames, teams and grids are gone, the fused minimum stays; what other packages
had under way with it ends as at a loss. Its slices' entries stay with the pod until the loss is declared (R253, R268, R368). -/
def State.resetPkg (s : State) (p : Nat) : State :=
  let old := s.pkg p
  let keep := s.counted p
  let q := ((s.pkgs.find? fun e => e.1 != p && p < e.2.podsize).map (·.1)).getD p
  let s := (s.changes.filter fun (c : Nat × Change) => c.2.src == p || c.2.dst == p).foldl
    (fun s (c : Nat × Change) => s.breakChange q p c.1 c.2) s
  let mine := (s.gridsOf p).map (·.1)
  { s with
    pkgs := put s.pkgs p (({ resetAt := s.now, minSvn := old.minSvn, irqs := old.irqs, parish := if keep then old.parish else []
                             hamlet := if keep then old.hamlet else [] } : Pkg).restaged old.stage)
    cores := s.cores.filter fun (e : Nat × Core) => pkgOf e.1 != p
    dies := s.dies.filter fun (e : Nat × Cache) => e.1 / 4 != p
    teams := s.teams.filter fun (e : Nat × Team) => pkgOfTeam e.1 != p
    shares := s.shares.filter fun (e : Nat × Share) => !mine.contains e.2.grid
    clusters := s.clusters.filter fun (e : Nat × Cluster) => !mine.contains e.2.grid
    grids := s.grids.filter fun (e : Nat × Grid) => e.2.pkg != p
    xfers := s.xfers.filter fun (e : Nat × Xfer) => pkgOf e.2.core != p
    requests := (s.requests.filter fun (e : Nat × Request) => e.2.pkg != p).map fun e => (e.1, e.2.leaving p)
    packets := s.packets.filter fun (k : Nat × Packet) => k.2.src != p && k.2.dst != p
    reports := s.reports.filter fun r => pkgOfTeam r.tk != p
    windows := s.windows.filter fun (w : Nat × WinOp) => w.2.pkg != p }

def execColdReset (p : Nat) (s : State) : Res := .next (if p < Config.maxPackages then s.resetPkg p else s)

/-- A write of HCTL with WARM set (R368). -/
def execHctlWarm (p : Nat) (s : State) : Res := .next (if (s.pkg p).reachable then s.resetPkg p else s)

/-- A write of HCTL with GO set: ignored outside stage 3 (R368). -/
def execHctlGo (p : Nat) (s : State) : Res :=
  .next (if (s.pkg p).stage = 3 then s.updPkg p (·.setStage 4 0) else s)

/-- The boot ROM begins, and ends: `err` 0 when fuses, stacks and die-to-die links are good (R368). -/
def execBootRom (p err : Nat) (s : State) : Res :=
  .next (match (s.pkg p).stage with
    | 0 => s.updPkg p (·.setStage 1 0)
    | 1 => s.updPkg p fun k => if err = 0 then k.setStage 2 0 else k.setStage 7 5
    | _ => s)

def execCxlLinkTrained (p : Nat) (s : State) : Res :=
  .next (if (s.pkg p).stage = 2 then s.updPkg p (·.setStage 3 0) else s)

/-! ## Firmware (R369) -/

def sliceOf (bs : List Byte) (off n : Nat) : List Byte := (bs.drop off).take n
def allZero (bs : List Byte) : Bool := bs.all (· == 0)

/-- The length of the body that a header states. -/
def fwBody (h : List Byte) : Nat := natOfBytes (sliceOf h 8 8)

/-- Magic, res0 bytes and body length of a header (Table 20-8). -/
def fwHeaderOk (h : List Byte) : Bool :=
  natOfBytes (sliceOf h 0 4) == 0x4B463957 && allZero (sliceOf h 4 4) && allZero (sliceOf h 0x18 40) && allZero (sliceOf h 0x440 960)
    && fwBody h != 0 && fwBody h % 4096 == 0 && fwBody h ≤ 64 * 2 ^ 20

/-- The message the signature covers. -/
def fwMessage (h body : List Byte) : List Byte := sha512 (sliceOf h 0 0x240 ++ List.replicate 512 0 ++ sliceOf h 0x440 960) ++ sha512 body

/-- The key is the vendor's and the signature verifies. -/
def fwSigned (h body : List Byte) : Bool :=
  let n := sliceOf h 0x40 512
  hash512 n == Config.vendorKeyHash && pssVerify (natOfBE n) (fwMessage h body) (sliceOf h 0x240 512)

/-- Stage 4: the image is read and checked, in the order of the stage's error codes (R368, R369). -/
def execFwVerify (p : Nat) (readOk : Bool) (s : State) : Res :=
  let k := s.pkg p
  let a := (k.bootReg 0x10).toNat
  let h := s.hostBytes a 2048
  let svn := natOfBytes (sliceOf h 0x10 8)
  .next (if k.stage ≠ 4 then s
    else if !readOk then s.updPkg p (·.setStage 7 1)
    else if !fwHeaderOk h then s.updPkg p (·.setStage 7 2)
    else
      let body := s.hostBytes (a + 2048) (fwBody h)
      if !fwSigned h body then s.updPkg p (·.setStage 7 3)
      else if svn < k.minSvn then s.updPkg p (·.setStage 7 4)
      else s.updPkg p fun k =>
        ({ k with svn := svn, minSvn := max k.minSvn svn, imageHash := hash512 (h ++ body) } : Pkg).setStage 5 0)

/-- The boot values of NEIGH; EN and TRIES stay (Table 10-13). -/
def neighBoot (p P : Nat) (old : Word) : Word :=
  let h := p / 12
  let i := p % 12
  let m := min 12 (P - 12 * h)
  let n0 := 12 * h + (i + 1) % m
  let n1 := 12 * h + (i + m - 1) % m
  (old &&& 0x7F00000000) ||| w64 (n0 + 2 ^ 8 * n1 + 2 ^ 16 * ((p + 12) % P) + 2 ^ 24 * ((p + 12 * P - 12) % P))

/-- Stage 5: ports, numbering and NEIGH; the package is READY and its heartbeats begin (R343, R351, R368). A package that was reset
in a live pod waits until its loss has been declared (R352). -/
def execFabricBringup (p podsize : Nat) (ok : Bool) (s : State) : Res :=
  .next (if (s.pkg p).stage ≠ 5 then s
    else if !ok then s.updPkg p (·.setStage 7 6)
    else if podsize ≤ p || Config.maxPackages < podsize || s.counted p then s
    else s.updPkg p fun k =>
      ({ k with podsize := podsize, neigh := neighBoot p podsize k.neigh, heartbeatAt := some s.now, beatUs := k.hbus,
                beatMiss := s.pkgs.map (fun e => (e.1, e.2.hbmiss)) } : Pkg).setStage 6 0)

/-! ## Attestation (R370) -/

/-- The report's bytes 0x000 to 0x2BF (Table 20-6). -/
def State.attestBody (s : State) (p : Nat) : List Byte :=
  let k := s.pkg p
  let regs := (List.range 12).flatMap fun i => bytesOf 8 (s.regRead p (8 * i)).toNat
  bytesBE 64 Config.bootRomHash.toNat ++ bytesBE 64 k.imageHash.toNat ++ sha512 (regs ++ bytesOf 8 (s.regRead p 0x2018).toNat)
    ++ s.hostBytes (k.arg 0).toNat 32 ++ bytesOf 8 k.svn ++ bytesOf 8 k.minSvn ++ bytesOf 8 p ++ bytesOf 8 (s.clock p) ++ List.replicate 448 0

/-- The whole report: body, signature, certificate. -/
def State.attestReport (s : State) (p : Nat) : List Byte :=
  let m := s.attestBody p
  m ++ pssSign Config.attestModulus Config.attestExponent m (bytesBE 64 (Config.attestSalt s.fresh).toNat)
    ++ bytesBE 512 Config.attestModulus ++ List.replicate 64 0 ++ bytesBE 512 Config.vendorCertSignature.toNat

/-! ## Power (R371) -/

/-- Throttling withholds issue slots and press words: no figure in clocks and no result changes. -/
def execThrottling (p : Nat) (hot : Bool) (s : State) : Res := .next (s.updPkg p fun k => { k with throttled := hot })

end Sys2Proof.Machine
end

