-- ==== Sys2Proof/Machine/Cellar.lean ====
section
/-! DEFINITION. The cellar-die protocol: requests that arrive at a port and the replies it returns (R250, R271, R274 to R276). -/

namespace Sys2Proof.Machine

open Host

/-- A frame's tag as a word (Table 10-4); MRU stands only where it is given. -/
def Tag.word (t : Tag) (mru : Bool) : Word :=
  BitVec.ofNat 64 ((if mru then 2 ^ 46 else 0) + (if t.twin then 2 ^ 44 else 0) + (if t.pinned then 2 ^ 43 else 0)
    + 2 ^ 40 * t.state.code + t.gpn % 2 ^ 40)

/-- The place of a port's tag among the package's outstanding packets. -/
def portKey (stack port : Nat) (tag : BitVec 3) : Nat := 8 * (64 * stack + port) + tag.toNat

/-- Frame of a way of a row of a stack. -/
def rowFrame (stack row way : Nat) : Nat := 2 * (Config.nStacks * row + stack) + way

/-- A reply is owed for a request. -/
def State.owe (s : State) (p stack port : Nat) (f : RF) (kind : BitVec 3) (pay : List Word) : State :=
  s.updPkg p fun k => { k with ports := put k.ports (portKey stack port f.tag) (f.word kind :: pay) }

/-- Take a request at a port whose tag is free: a set res0 bit, and then anything else it names, answers ERROR without effect;
a busy tag stalls it (R275, R276). -/
def cellar (p stack port : Nat) (f : CF) (home : Nat) (res : Bool) (go : State → State) (s : State) : Res :=
  if stack ≥ Config.nStacks ∨ port ≠ home % 64 ∨ (find (s.pkg p).ports (portKey stack port f.tag)).isSome then .next s
  else .next (if res || f.res != 0 then s.owe p stack port ⟨f.tag, 0, false, 2⟩ 4 [] else go s)

def execLookup (p stack port : Nat) (f : CF) (gpn : BitVec 40) (s : State) : Res :=
  cellar p stack port f f.row.toNat (f.way || f.sector != 0) (fun s =>
    let k := s.pkg p
    let f0 := rowFrame stack f.row.toNat 0
    let mru := k.mruWay (f0 / 2) == 1
    let holds (g : Nat) : Bool := (k.tag g).gpn == gpn.toNat && (k.tag g).state != .invalid
    if holds f0 then s.owe p stack port ⟨f.tag, 0, false, 0⟩ 0 [(k.tag f0).word mru]
    else if holds (f0 + 1) then s.owe p stack port ⟨f.tag, 0, true, 0⟩ 0 [(k.tag (f0 + 1)).word mru]
    else s.owe p stack port ⟨f.tag, 0, false, 0⟩ 1 [(k.tag f0).word mru, (k.tag (f0 + 1)).word false]) s

/-- ECC status of a granule's old contents before it is read: 0 CLEAN, 1 CORRECTED, 2 POISON; correction does not mend a poisoned one
(R271, R275). -/
def Pkg.ecc (k : Pkg) (f sector : Nat) : BitVec 2 :=
  let g := 2048 * f + sector
  if (find k.poison g).isSome then 2
  else match find k.symErr g with
  | some n => if n < 64 then 1 else 2
  | none => 0

def cfFrame (stack : Nat) (f : CF) : Nat := rowFrame stack f.row.toNat (if f.way then 1 else 0)

def execRd32 (p stack port : Nat) (f : CF) (s : State) : Res :=
  cellar p stack port f (f.row.toNat + f.sector.toNat) false (fun s =>
    let g := cfFrame stack f
    let ecc := (s.pkg p).ecc g f.sector.toNat
    let s := (s.readGranule p g f.sector.toNat).1
    let bs := (List.range 32).map fun i => if ecc = 2 then 0 else (s.pkg p).byte g (32 * f.sector.toNat + i)
    s.owe p stack port ⟨f.tag, ecc, false, 0⟩ 2 ((List.range 4).map fun i => BitVec.ofNat 64 (natOfBytes ((bs.drop (8 * i)).take 8)))) s

def execWrf32 (p stack port : Nat) (f : CF) (data : List Byte) (s : State) : Res :=
  cellar p stack port f (f.row.toNat + f.sector.toNat) false (fun s =>
    (s.writeGranule p (cfFrame stack f) f.sector.toNat data (BitVec.allOnes 32)).1.owe p stack port ⟨f.tag, 0, false, 0⟩ 3 []) s

def execWrm8 (p stack port : Nat) (f : CF) (data : List Byte) (s : State) : Res :=
  cellar p stack port f (f.row.toNat + f.sector.toNat) false (fun s =>
    let g := cfFrame stack f
    let ecc := (s.pkg p).ecc g f.sector.toNat
    let lane := 8 * f.lane.toNat
    let bytes := (List.range 32).map fun i => data.getD (i - lane) 0
    (s.writeGranule p g f.sector.toNat bytes (f.mask.setWidth 32 <<< lane)).1.owe p stack port ⟨f.tag, ecc, false, 0⟩ 3 []) s

/-- CMD 4 to 7 (R275). -/
def execCellarBadCmd (p stack port : Nat) (f : CF) (s : State) : Res :=
  .next (if stack ≥ Config.nStacks ∨ 64 ≤ port ∨ (find (s.pkg p).ports (portKey stack port f.tag)).isSome then s
    else s.owe p stack port ⟨f.tag, 0, false, 1⟩ 4 [])

/-- A reply returns: the packet that the port owes for the tag leaves it, and the tag is free (R276). -/
def State.reply (s : State) (p stack port : Nat) (f : RF) (kind : BitVec 3) (pay : List Word) : State :=
  if find (s.pkg p).ports (portKey stack port f.tag) = some (f.word kind :: pay) then
    s.updPkg p fun k => { k with ports := erase k.ports (portKey stack port f.tag) }
  else s

def execCellarHit (p stack port : Nat) (f : RF) (pay : List Word) (s : State) : Res := .next (s.reply p stack port f 0 pay)
def execCellarMiss (p stack port : Nat) (f : RF) (pay : List Word) (s : State) : Res := .next (s.reply p stack port f 1 pay)
def execCellarData (p stack port : Nat) (f : RF) (pay : List Word) (s : State) : Res := .next (s.reply p stack port f 2 pay)
def execCellarDone (p stack port : Nat) (f : RF) (pay : List Word) (s : State) : Res := .next (s.reply p stack port f 3 pay)
def execCellarError (p stack port : Nat) (f : RF) (pay : List Word) (s : State) : Res := .next (s.reply p stack port f 4 pay)

end Sys2Proof.Machine
end

