-- ==== Sys2Proof/Machine/Control.lean ====
section
/-! DEFINITION. The control row 0x0B: branches, calls, structured divergence, the end of lanes, NOP, YIELD and SLEEP (R115 to
R121). -/

namespace Sys2Proof.Machine

/-- cond per lane, as a mask: K[PK] XOR PINV (R118). -/
def condMask (t : Team) (f : BF) : Mask := maskOf t.lanes fun L => t.rk f.pk.toNat L != f.pinv

/-- The condition of BRA, BRX, CALL and RET: of an s register, or of a predicate equal in every active lane; none when it is
not (R115, R116). With no lane active every predicate counts as equal and the branch is taken (the model's choice: log 105). -/
def condUniform (t : Team) (f : BF) : Option Bool :=
  if f.sub = 1 then some ((t.rs f.sreg.toNat != 0) != f.pinv)
  else
    let m := t.active &&& condMask t f
    if m = t.active then some true else if m = 0 then some false else none

/-- Reconverge over the mask stack: the entries left and the clause to go on at; none when no entry is left (R119). -/
def reconverge : List StackEntry → Option (List StackEntry × Word)
  | [] => none
  | e :: es => match e.kind with
    | .callE => reconverge es
    | .loopE => none
    | _ => some (e :: es, e.addr)

/-- Leave a control word with a new stack, mask and live mask: at `pc` when given, else at the next clause, or where
Reconverge leads when the active mask is empty. A pop below the depth of an open try region aborts it (R118, R119, R170). -/
def leave (s : State) (tk : Nat) (t : Team) (masks : List StackEntry) (m live : Mask) (pc : Option Word) : Act :=
  let r : Option (List StackEntry × Option Word) :=
    match pc with
    | some a => some (masks, some a)
    | none => if m = 0 then (reconverge masks).map fun r => (r.1, some r.2) else some (masks, none)
  match r with
  | none => .ended s
  | some (masks, pc) =>
    if t.tryR.any fun r => masks.length < r.depth then .abort s 8 0
    else
      let s := s.setTeam tk { t with masks := masks, active := m, live := live }
      match pc with
      | some a => .jump s a
      | none => .retire s

/-- ILLEGAL with a subcode at the word (R116, R120). -/
def illegalAt (s : State) (h : Hdr) (sub : Nat) : Act := .fault s h .illegal sub 0 0

/-- A branch under a uniform condition (R116): `go` when it is taken. -/
def branch (h : Hdr) (f : BF) (go : State → Nat → Team → Act) (s : State) (tk : Nat) (t : Team) : Act :=
  match condUniform t f with
  | none => illegalAt s h 0x0F
  | some false => .retire s
  | some true => go s tk t

/-- Push entries, bottom first, within the depth of 256 (R20, R120). -/
def pushing (h : Hdr) (es : List StackEntry) (go : List StackEntry → Act) (s : State) (t : Team) : Act :=
  if 256 < t.masks.length + es.length then illegalAt s h 0x0E else go (es.reverse ++ t.masks)

/-- Add lanes to the first entry of a kind above any CALL entry; none where there is no LOOP (R118). -/
def addToLoop (k : EntryKind) (m : Mask) : List StackEntry → Option (List StackEntry)
  | [] => none
  | e :: es =>
    if e.kind = k then some ({ e with mask := e.mask ||| m } :: es)
    else if e.kind = .callE then none
    else (addToLoop k m es).map fun l => e :: l

/-- BREAK and CONT (R118). -/
def leaveLoop (h : Hdr) (f : BF) (k : EntryKind) (s : State) (tk : Nat) (t : Team) : Act :=
  let out := t.active &&& condMask t f
  match addToLoop k out t.masks with
  | none => illegalAt s h 0x10
  | some ms => leave s tk t ms (t.active &&& ~~~out) t.live none

def execBra (h : Hdr) (f : BF) (s : State) : Res :=
  issue (.bra h f) h (branch h f fun s _ t => .jump s (target t f)) s
def execBrx (h : Hdr) (f : BF) (s : State) : Res :=
  issue (.brx h f) h (branch h f fun s _ t =>
    let a := t.rs f.sreg.toNat + f.off.signExtend 64 * 8
    if a.toNat % 8 != 0 then .fault s h .misaligned 0 0 0 else .jump s a) s
def execCall (h : Hdr) (f : BF) (s : State) : Res :=
  issue (.callK h f) h (branch h f fun s tk t =>
    pushing h [⟨.callE, 0, t.nextPc⟩] (fun ms => leave s tk t ms t.active t.live (some (target t f))) s t) s
def execRet (h : Hdr) (f : BF) (s : State) : Res :=
  issue (.ret h f) h (branch h f fun s tk t =>
    match t.masks with
    | e :: es => if e.kind = .callE then leave s tk t es t.active t.live (some e.addr) else illegalAt s h 0x10
    | [] => illegalAt s h 0x10) s
def execIf (h : Hdr) (f : BF) (s : State) : Res :=
  issue (.ifK h f) h (fun s tk t =>
    let c := condMask t f
    pushing h [⟨.ifE, t.active &&& ~~~c, target t f⟩] (fun ms => leave s tk t ms (t.active &&& c) t.live none) s t) s
def execElse (h : Hdr) (f : BF) (s : State) : Res :=
  issue (.elseK h f) h (fun s tk t =>
    match t.masks with
    | e :: es =>
      if e.kind = .ifE then
        let m := e.mask &&& t.live
        leave s tk t (⟨.elseE, t.active, target t f⟩ :: es) m t.live (if m = 0 then some (target t f) else none)
      else illegalAt s h 0x10
    | [] => illegalAt s h 0x10) s
def execEndif (h : Hdr) (f : BF) (s : State) : Res :=
  issue (.endif h f) h (fun s tk t =>
    match t.masks with
    | e :: es =>
      if e.kind = .ifE ∨ e.kind = .elseE then leave s tk t es ((t.active ||| e.mask) &&& t.live) t.live none
      else illegalAt s h 0x10
    | [] => illegalAt s h 0x10) s
/-- LOOP; one that no active lane reaches goes to its ENDLOOP clause at once, as a reconvergence would (the model's choice: log 105). -/
def execLoop (h : Hdr) (f : BF) (s : State) : Res :=
  issue (.loopK h f) h (fun s tk t =>
    pushing h [⟨.loopE, 0, target t f⟩, ⟨.contE, 0, target t f⟩] (fun ms => leave s tk t ms t.active t.live none) s t) s
def execBreak (h : Hdr) (f : BF) (s : State) : Res := issue (.breakK h f) h (leaveLoop h f .loopE) s
def execCont (h : Hdr) (f : BF) (s : State) : Res := issue (.contK h f) h (leaveLoop h f .contE) s
def execEndloop (h : Hdr) (f : BF) (s : State) : Res :=
  issue (.endloop h f) h (fun s tk t =>
    match t.masks with
    | c :: l :: es =>
      if c.kind = .contE ∧ l.kind = .loopE then
        let cand := (t.active ||| c.mask) &&& t.live
        let go := cand &&& condMask t f
        let out := l.mask ||| (cand &&& ~~~go)
        if go != 0 then leave s tk t ({ c with mask := 0 } :: { l with mask := out } :: es) go t.live (some (target t f))
        else leave s tk t es (out &&& t.live) t.live none
      else illegalAt s h 0x10
    | _ => illegalAt s h 0x10) s
def execExit (h : Hdr) (f : BF) (s : State) : Res :=
  issue (.exitK h f) h (fun s tk t =>
    let out := t.active &&& condMask t f
    let live := t.live &&& ~~~out
    if live = 0 then .ended s else leave s tk t t.masks (t.active &&& ~~~out) live none) s
def execNop (h : Hdr) (f : BF) (s : State) : Res := issue (.nop h f) h (fun s _ _ => .retire s) s
def execYield (h : Hdr) (f : BF) (s : State) : Res :=
  issue (.yieldK h f) h (fun s tk t => .retire (s.setTeam tk { t with giveMark := true })) s
def execSleep (h : Hdr) (f : BF) (s : State) : Res :=
  issue (.sleepK h f) h (fun s tk t =>
    match t.sleepUntil with
    | some u => if u ≤ s.now then .retire (s.setTeam tk { t with sleepUntil := none }) else .park s (.sleep u)
    | none =>
      let n := (f.off.setWidth 64 + t.rs f.sreg.toNat).toNat
      if n = 0 then .retire s
      else .park (s.setTeam tk { t with sleepUntil := some (s.now + n) }) (.sleep (s.now + n))) s

end Sys2Proof.Machine
end

