-- ==== Sys2Proof/Machine/Host.lean ====
section
/-! DEFINITION. The host's commands (R361 to R365) and its window (R353, R367). -/

namespace Sys2Proof.Machine

open Host

/-! ## How a command runs and ends (R361) -/

/-- A command ends: RESULT and VALUE, BUSY clears, vector 0. Results are 0 OK, 1 BAD_ARG, 2 REFUSED, 3 NOT_FOUND, 4 BAD_STATE. -/
def State.endCmd (s : State) (p res : Nat) : State :=
  s.updPkg p fun k => ({ k with cmdResult := BitVec.ofNat 8 res, cmdValue := 0, busy := false, cmdOp := none } : Pkg).raiseVec 0

/-- The command that CMD and its arguments name runs; before READY every one but ATTEST ends with BAD_STATE. -/
def command (p : Nat) (i : Instr) (go : State → Pkg → State) (s : State) : Res :=
  let k := s.pkg p
  .next (match k.cmdOp with
    | none => s
    | some op =>
      if !k.busy || decodeCommand p op (k.arg 1) (k.arg 2) ≠ i then s
      else if k.stage ≠ 6 && op ≠ 9 then s.endCmd p 4
      else go s k)

/-! ## Contexts and translations -/

/-- A TLB entry maps a byte of a range of a context; a length of 0 is the whole context. -/
def TlbEnt.within (e : TlbEnt) (ctx lo n : Nat) : Bool :=
  e.ctx == ctx && (n == 0 || (65536 * e.vpage < lo + n && lo < 65536 * (e.vpage + 2 ^ e.log)))

/-- Drop the entries of a range from both TLB levels of every package, and the host's answers to walks there (R246). -/
def State.dropTlbs (s : State) (ctx lo n : Nat) : State :=
  let keep (e : TlbEnt) : Bool := !e.within ctx lo n
  let keepFail (w : Nat × Cause) : Bool := keep ⟨w.1 / 2 ^ 41 % 4096, w.1 % 2 ^ 41, 0, 0, 0, 0⟩
  { s with
    teams := s.teams.map fun (t : Nat × Team) => (t.1, { t.2 with fails := t.2.fails.filter keepFail })
    cores := s.cores.map fun (c : Nat × Core) => (c.1, { c.2 with tlb := c.2.tlb.filter keep })
    pkgs := s.pkgs.map fun (k : Nat × Pkg) => (k.1, { k.2 with
      tlb2 := k.2.tlb2.filter keep
      walkFail := k.2.walkFail.filter keepFail }) }

/-- An access that translated through a range is still under way: a request, a transfer's range lock, or a store that an open try region
holds back until its COMMIT (R172, R246). -/
def State.accessing (s : State) (ctx lo n : Nat) : Bool :=
  let on (c vp : Nat) : Bool := TlbEnt.within ⟨c, vp, 0, 0, 0, 0⟩ ctx lo n
  (s.requests.any fun e => (!e.2.lanes.isEmpty || e.2.win.isSome) && on e.2.ctx e.2.vpage)
  || (s.cores.any fun c => c.2.locks.any fun l => l.ctx == some ctx &&
      (n == 0 || ({ l with lo := l.lo % 2 ^ 57, hi := l.lo % 2 ^ 57 + (l.hi - l.lo) } : Lock).overlaps lo n))
  || s.teams.any fun e => e.2.tryR.any fun r => r.buf.any fun b => match b.loc with
      | .glob _ => on e.2.ctx (b.ea.toNat / 65536 % 2 ^ 41) || on e.2.ctx ((b.ea + 15).toNat / 65536 % 2 ^ 41)
      | .sp _ _ => false

/-- A context record (Table 20-5), none when it is not valid (R363). -/
def Context.ofBytes (bs : List Byte) : Option Context :=
  let w (i : Nat) : Nat := natOfBytes ((bs.drop (8 * i)).take 8)
  let tidx := w 0 / 2 ^ 40 % 8
  let shw := w 1 % 64
  if w 0 / 2 ^ 43 ≠ 0 || !allZero (bs.drop 32) || tidx % 2 = 1 || shw < 16 || 36 < shw then none
  else some ⟨tidx, w 0 % 2 ^ 40, w 1 / 64 * 64, shw, w64 (w 2), w64 (w 3)⟩

def execCtxInstall (p : Nat) (s : State) : Res :=
  command p (.ctxInstall p) (fun s k =>
    let n := (k.arg 0).toNat
    if n = 0 || 4096 ≤ n then s.endCmd p 1
    else match Context.ofBytes (s.hostBytes ((k.bootReg 0x58).toNat + 64 * n) 64) with
      | none => s.endCmd p 1
      | some c =>
        if s.grids.any fun g => g.2.ctx == n then s.endCmd p 2
        else if (find k.ctxs n).isSome && s.accessing n 0 0 then s
        else
          let s := if (find k.ctxs n).isSome then s.dropTlbs n 0 0 else s
          (s.updPkg p fun k => { k with ctxs := put k.ctxs n c }).endCmd p 0) s

def execTlbInval (p : Nat) (s : State) : Res :=
  command p (.tlbInval p) (fun s k =>
    let ctx := (k.arg 0).toNat
    let lo := (k.arg 1).toNat % 2 ^ 57
    let n := (k.arg 2).toNat
    if s.accessing ctx lo n then s else (s.dropTlbs ctx lo n).endCmd p 0) s

/-! ## Pages (R269, R325, R326) -/

/-- The page's parish slice is out of reach of a package, which cannot change it: the command is refused (R350, R352; log 110). -/
def State.sliceCut (s : State) (p gpn : Nat) : Bool := s.parted p (s.parishSlice p gpn)

def execPageRefRaise (p : Nat) (s : State) : Res :=
  command p (.pageRefRaise p) (fun s k =>
    let gpn := (k.arg 0).toNat
    if s.sliceCut p gpn then s.endCmd p 2
    else match s.parishEnt p gpn with
    | none => s.endCmd p 3
    | some e =>
      if e.refs = 0 || 65535 ≤ e.refs then s.endCmd p 2
      else (s.setParish p gpn { e with refs := e.refs + 1 }).endCmd p 0) s

def execPageRefLower (p : Nat) (s : State) : Res :=
  command p (.pageRefLower p) (fun s k =>
    let gpn := (k.arg 0).toNat
    if s.sliceCut p gpn then s.endCmd p 2
    else match s.parishEnt p gpn with
    | none => s.endCmd p 3
    | some e => if e.refs = 0 then s.endCmd p 3 else (s.lowerRef p gpn).endCmd p 0) s

/-- Every LOST frame of a page goes INVALID, and no package keeps a line of the page (R252, R326). -/
def State.clearLost (s : State) (gpn : Nat) : State :=
  let s := (s.pkgs.map (·.1)).foldl (fun s p => s.purgePage p gpn) s
  { s with pkgs := s.pkgs.map fun (e : Nat × Pkg) => (e.1, match e.2.frameOf gpn with
      | some f => if (e.2.tag f).state = FrameState.lost then e.2.setTag f {} else e.2
      | none => e.2) }

/-- Requests held at a slice package climb again. -/
def State.retryHeld (s : State) (p : Nat) : State :=
  ((s.pkg p).replay.filter fun r => (s.request r).all fun q => !s.busy p q.gpn).foldl
    (fun s r => (s.unhold p r).updRequest r fun q => { q with at_ := .climb }) s

/-- It waits while a frame of the page drains or a change of it ends; the entry that it frees makes room at the slice (R264). -/
def execGpnReissue (p : Nat) (s : State) : Res :=
  command p (.gpnReissue p) (fun s k =>
    let gpn := (k.arg 0).toNat
    let gone := (s.parishEnt p gpn).any (fun e => e.lost || e.refs == 0) || ((s.parishEnt p gpn).isNone && s.pkgs.any fun e => e.2.knownLost gpn)
    if s.sliceCut p gpn || !gone then s.endCmd p 2
    else if (s.pkgs.any fun e => e.2.stateOf gpn == .draining) || s.changes.any fun c => c.2.gpn == gpn then s
    else
      let q := s.parishSlice p gpn
      ((((s.clearLost gpn).updPkg q fun k => { k with parish := erase k.parish gpn }).retryHeld q)).endCmd p 0) s

/-! ## Streams and teams (R211, R292, R293) -/

/-- The streams of a core in the order of their shares. -/
def State.streamsOf (s : State) (core : Nat) : List (Nat × Stream) :=
  (s.shares.filter fun (e : Nat × Share) => e.2.core == some core && !e.2.ended).filterMap fun e => e.2.stream.map fun m => (e.1, m)

/-- Act on the stream that the arguments name. -/
def onStream (p : Nat) (go : State → Nat → Stream → State) (s : State) (k : Pkg) : State :=
  let c := (k.arg 0).toNat
  let n := (k.arg 1).toNat
  if 48 ≤ c || 4 ≤ n then s.endCmd p 1
  else match (s.streamsOf (48 * p + c))[n]? with
    | none => s.endCmd p 3
    | some e => go s e.1 e.2

def execStreamCtlKill (p : Nat) (s : State) : Res :=
  command p (.streamCtlKill p) (onStream p fun s sh m =>
    if m.st.over then s.endCmd p 2 else (s.killStream sh).endCmd p 0) s

def execStreamCtlRestart (p : Nat) (s : State) : Res :=
  command p (.streamCtlRestart p) (onStream p fun s sh m =>
    if m.st = .halted then (s.updStream sh fun m => { m with st := .running }).endCmd p 0 else s.endCmd p 2) s

/-- Act on the team or reeve of a serial that is frozen for the host; while its results are outstanding or a step is under way the
command runs on. -/
def onEscalated (p : Nat) (go : State → Nat → Team → State) (s : State) (k : Pkg) : State :=
  match s.teams.find? fun e => pkgOfTeam e.1 == p && e.2.serial == (k.arg 0).toNat with
  | none => s.endCmd p 3
  | some (tk, t) =>
    if t.stepping.isSome then s
    else if t.run ≠ .frozen || !t.escalated then s.endCmd p 2
    else if !t.settled then s
    else go s tk t

def execTeamCtlKill (p : Nat) (s : State) : Res :=
  command p (.teamCtlKill p) (onEscalated p fun s tk _ => (s.endTeam tk).endCmd p 0) s

def execTeamCtlRetry (p : Nat) (s : State) : Res :=
  command p (.teamCtlRetry p) (onEscalated p fun s tk _ => (s.resume tk false).endCmd p 0) s

def execTeamCtlSkip (p : Nat) (s : State) : Res :=
  command p (.teamCtlSkip p) (onEscalated p fun s tk t => if t.cause.atHeader then s.endCmd p 2 else (s.resume tk true).endCmd p 0) s

/-- The step begins; the command ends with it (Ops: settleStep), and VALUE holds the code of R184. -/
def execTeamCtlStep (p : Nat) (s : State) : Res :=
  command p (.teamCtlStep p) (onEscalated p fun s tk _ => if inImage tk then s else (s.updPkg p fun k => { k with cmdOp := none }).beginStep tk none) s

/-! ## Replies to host requests (R365, R366) -/

/-- The cause that a code of Table 12-1 names; TRANSLATION for one that names none (log 112). -/
def causeOf (c : Word) : Cause :=
  ([.illegal, .role, .privilege, .trap, .bounds, .misaligned, .shape, .translation, .permission, .rangeLock, .pageLost, .poison, .departedStore,
    .deferred].find? fun x : Cause => c == BitVec.ofNat 64 x.code && c != 0).getD .translation

/-- The outcome of a walk: an entry, which enters the second level and the TLB of the core concerned, or a cause for the word or the
hardware that asked (R246, R316, R365). -/
def State.replyWalk (s : State) (p : Nat) (h : HostReq) (e c : Word) : State :=
  let ctx := h.b.toNat % 4096
  let vp := h.a.toNat / 65536 % 2 ^ 41
  if e ≠ 0 && leafOk e 0 then
    let (s, hot) := s.shadowHot p ctx (entGpn e)
    let t : TlbEnt := ⟨ctx, vp, 0, e, hot.1, hot.2⟩
    let s := if h.core = 255 then s else s.updCore (48 * p + h.core) fun k => { k with tlb := t :: k.tlb }
    s.updPkg p fun k => { k with tlb2 := t :: k.tlb2 }
  else s.noteFail p h.who ctx vp (if e = 0 then causeOf c else .translation)

/-- The host declines a lodger or has it spilled; a region that is full declines (R262); a page that has been freed or is LOST stays where it
is (R326). -/
def State.replyLodge (s : State) (p ix : Nat) (spill : Bool) : State :=
  match s.changes.find? fun c => c.2.stage == ChangeStage.asked ix && c.2.src == p with
  | none => s
  | some (ch, c) =>
    if s.moot p c.gpn then s.endLodge ch c false
    else if spill then match s.spillOut p c.frame with
      | (s, true) => s.endLodge ch c false
      | (_, false) => s.lodgeFails ch c
    else s.lodgeFails ch c

/-- Apply an answer: none for one that the kind does not have. -/
def State.applyReply (s : State) (p ix : Nat) (h : HostReq) (x y : Word) : Option State :=
  match h.kind with
  | 1 => some (s.replyWalk p h x y)
  | 2 => if x.toNat < 2 then some (s.updQueue p h.a.toNat fun q => if q.asked = some ix then { q with answer := some x.toNat } else q) else none
  | 3 => if x.toNat < 2 then some (s.replyLodge p ix (x == 1)) else none
  | 4 => some s
  | 5 => if x.toNat < 2 * (Config.sets / Config.nStacks) then some (s.gleanFrame p h.a.toNat (stackFrame h.a.toNat x.toNat)) else none
  | 6 =>
    if x = 0xFF then some (s.losePage p h.b.toNat)
    else if ((s.pkg x.toNat).stateOf h.b.toNat).serves then some (s.promoteAt p h.b.toNat x.toNat) else none
  | _ => none

/-- An index that the ring does not hold, from HEAD to TAIL, or that has been answered is not found (R365). -/
def execReply (p : Nat) (s : State) : Res :=
  command p (.replyK p) (fun s k =>
    let ix := (k.arg 0).toNat
    match if (BitVec.ofNat 32 ix - k.hreqHead).toNat < (k.hreqTail - k.hreqHead).toNat then find k.hreqs ix else none with
    | none => s.endCmd p 3
    | some h => match s.applyReply p ix h (k.arg 1) (k.arg 2) with
      | none => s.endCmd p 1
      | some s => (s.updPkg p fun k => { k with hreqs := erase k.hreqs ix }).endCmd p 0) s

/-- Backing pages for the local slices (R264). -/
def execDirGrant (p : Nat) (s : State) : Res :=
  command p (.dirGrant p) (fun s k =>
    let n := (k.arg 1).toNat
    let first := (k.arg 0).toNat
    if 2 ^ 40 < first + n then s.endCmd p 1
    else
      let s := s.updPkg p fun k => { k with
        dirPages := k.dirPages ++ (List.range n).map (first + ·)
        dirQuota := min (2 ^ 32 - 1) (k.dirQuota + n) }
      (s.retryHeld p).endCmd p 0) s

def execAttest (p : Nat) (s : State) : Res :=
  command p (.attest p) (fun s k => ((s.setHostBytes (k.arg 1).toNat (s.attestReport p)).bump).endCmd p 0) s

/-- An opcode that Table 20-4 does not list, or an argument that selects nothing (R362). -/
def execCmdUnknown (p : Nat) (s : State) : Res := command p (.cmdUnknown p) (fun s _ => s.endCmd p 1) s

/-! ## The window (R367) -/

/-- How a window access goes: its pieces, a poison response, or it waits. -/
def State.windowCheck (s : State) (p off n : Nat) (write : Bool) : State × Chk :=
  s.asHardware p (windowWho p) Chk.waits fun s => s.checkGlobal (48 * p) ((s.pkg p).bootReg 0x50).toNat (w64 off) n write false true false

/-- The sectors of a window access outside host memory, with the leaf of each and the mask of its bytes. -/
def winSectors (ps : List Piece) : List (Nat × Leaf × BitVec 32) :=
  (ps.filter fun x => !isHost x.leaf.gpn).flatMap fun x => (coverKeys x.addr x.len).map fun key => (key, x.leaf, coverMask key x.addr x.len)

/-- The host writes bytes at resolved places: of host memory at once, of others by its requests. -/
def State.winHost (s : State) (places : List (Nat × Byte)) : State :=
  places.foldl (fun s x => if isHost (x.1 / 65536) then
    (s.setHostBytes (hostAddr (x.1 / 65536) (x.1 % 65536)) [x.2]).noteWrite none [.glob x.1] else s) s

/-- A window access that has passed its checks: a request of its package for each sector, which it waits for unless they are served at once
(R353, R367; log 111). -/
def State.windowGo (s : State) (p : Nat) (write : Bool) (ps : List Piece) (data : List Byte) : State :=
  let locs := ps.flatMap fun x => (List.range x.len).map (x.addr + ·)
  let places := locs.zip data
  let w := s.fresh
  let s : State := { s.bump with windows := put s.windows w { pkg := p, write := write, locs := locs }, hostReply := none }
  let s := if write then s.winHost places else s
  let r := (winSectors ps).foldl (fun (acc : State × List Nat) x =>
    let s := acc.1
    let is : Issuer := { tk := windowWho p, leaf := some x.2.1, win := some w }
    let bs := (List.range 32).map fun j => getD 0 places (32 * x.1 + j)
    (if write then s.postWrite (48 * p) x.1 bs x.2.2 is else s.addRequest (48 * p) x.1 x.2.2 .load is [[], [], []], acc.2 ++ [s.fresh])) (s, [])
  (r.2.foldl (fun s r => s.climb r) r.1).winDone w

/-- A CXL.mem read of n bytes of the window: data from the SYSTEM point of coherence, or a poison response; no reply while it waits. -/
def execWindowRead (p : Nat) (off : Word) (n : Nat) (s : State) : Res :=
  .next (if !(s.pkg p).reachable || n = 0 || 2 ^ 36 < off.toNat + n then s
    else match s.windowCheck p off.toNat n false with
      | (s, .wait _) => { s with hostReply := none }
      | (s, .bad _) => { s with hostReply := some none }
      | (s, .ok ps) => s.windowGo p false ps [])

/-- A CXL.mem write of the window: performed at its SYSTEM point of coherence, or a poison response. -/
def execWindowWrite (p : Nat) (off : Word) (data : List Byte) (s : State) : Res :=
  .next (if !(s.pkg p).reachable || data.isEmpty || 2 ^ 36 < off.toNat + data.length then s
    else match s.windowCheck p off.toNat data.length true with
      | (s, .wait _) => { s with hostReply := none }
      | (s, .bad _) => { s with hostReply := some none }
      | (s, .ok ps) => s.windowGo p true ps data)

end Sys2Proof.Machine
end

