-- ==== Sys2Proof/Machine/Uniform.lean ====
section
/-! DEFINITION. The uniform row 0x0A (R113, R114). -/

namespace Sys2Proof.Machine

/-- A 64-bit operand as an integer (R113). -/
def asInt64 (u : Bool) (x : Word) : Int := if u then (x.toNat : Int) else x.toInt
def sshl64 (a y : Word) : Word := if 64 ≤ y.toNat then 0 else a <<< y.toNat
/-- SSHR: logical with `.u`, else arithmetic by at most 63 (R113). -/
def sshr64 (u : Bool) (a y : Word) : Word :=
  if u then (if 64 ≤ y.toNat then 0 else a >>> y.toNat) else a.sshiftRight (min y.toNat 63)
/-- SLOGIC: bit i := SUB[2 a_i + y_i] (R113). -/
def slogic64 (tt : BitVec 6) (a y : Word) : Word :=
  .ofNat 64 ((List.range 64).foldl (fun acc i =>
    if tt.getLsbD (2 * (a.getLsbD i).toNat + (y.getLsbD i).toNat) then acc + 2 ^ i else acc) 0)
def sminMax (isMax u : Bool) (a y : Word) : Word :=
  if (if isMax then asInt64 u a < asInt64 u y else asInt64 u y < asInt64 u a) then y else a

def opSA (t : Team) (f : UF) : Word := t.rs f.a.toNat

def execSadd (h : Hdr) (f : UF) (s : State) : Res :=
  issue (.sadd h f) h (toS h 1 f.d.toNat fun t => opSA t f + opY t f) s
def execSsub (h : Hdr) (f : UF) (s : State) : Res :=
  issue (.ssub h f) h (toS h 1 f.d.toNat fun t => opSA t f - opY t f) s
def execSmul (h : Hdr) (f : UF) (s : State) : Res :=
  issue (.smul h f) h (toS h 2 f.d.toNat fun t => opSA t f * opY t f) s
def execSlogic (h : Hdr) (f : UF) (s : State) : Res :=
  issue (.slogic h f) h (toS h 1 f.d.toNat fun t => slogic64 f.sub (opSA t f) (opY t f)) s
def execSshl (h : Hdr) (f : UF) (s : State) : Res :=
  issue (.sshl h f) h (toS h 1 f.d.toNat fun t => sshl64 (opSA t f) (opY t f)) s
def execSshr (h : Hdr) (f : UF) (s : State) : Res :=
  issue (.sshr h f) h (toS h 1 f.d.toNat fun t => sshr64 (f.sub.getLsbD 0) (opSA t f) (opY t f)) s
def execScmp (h : Hdr) (f : UF) (s : State) : Res :=
  issue (.scmp h f) h (toS h 1 f.d.toNat fun t =>
    let u := f.sub.getLsbD 3
    bit (condHolds (f.sub.toNat % 8) (asInt64 u (opSA t f)) (asInt64 u (opY t f)))) s
def execSmin (h : Hdr) (f : UF) (s : State) : Res :=
  issue (.smin h f) h (toS h 1 f.d.toNat fun t => sminMax false (f.sub.getLsbD 0) (opSA t f) (opY t f)) s
def execSmax (h : Hdr) (f : UF) (s : State) : Res :=
  issue (.smax h f) h (toS h 1 f.d.toNat fun t => sminMax true (f.sub.getLsbD 0) (opSA t f) (opY t f)) s
def execSmov (h : Hdr) (f : UF) (s : State) : Res :=
  issue (.smov h f) h (toS h 1 f.d.toNat fun t => opY t f) s
def execSmovCat (h : Hdr) (f : UF) (s : State) : Res :=
  issue (.smovCat h f) h (toS h 1 f.d.toNat fun t => opSA t f * 2 ^ 24 + f.imm.setWidth 64) s
def execVbcast (h : Hdr) (f : VA) (s : State) : Res :=
  issue (.vbcast h f) h (vec h 2 fun t _ _ =>
    let x := t.rs (f.b.toNat % 64)
    if f.sub.getLsbD 1 then toVd f.d x
    else if f.sub.getLsbD 0 then toV f.d (x.extractLsb' 32 32) else toV f.d (x.setWidth 32)) s

end Sys2Proof.Machine
end

