-- ==== Sys2Proof/Machine/Dispatch.lean ====
section
/-! DEFINITION. The dispatch: one arm for each instruction, each a direct call of its meaning. -/

namespace Sys2Proof.Machine

open Host

def exec (i : Instr) (s : State) : Host.Outcome State Fault Refusal :=
  match i with
  | .clauseHeader f => Sys2Proof.Machine.execClauseHeader f s
  | .opcodeIllegal h op rest => Sys2Proof.Machine.execOpcodeIllegal h op rest s
  | .iadd h f => Sys2Proof.Machine.execIadd h f s
  | .iaddc h f => Sys2Proof.Machine.execIaddc h f s
  | .isub h f => Sys2Proof.Machine.execIsub h f s
  | .isubb h f => Sys2Proof.Machine.execIsubb h f s
  | .imul h f => Sys2Proof.Machine.execImul h f s
  | .imulhi h f => Sys2Proof.Machine.execImulhi h f s
  | .imad h f => Sys2Proof.Machine.execImad h f s
  | .imadw h f => Sys2Proof.Machine.execImadw h f s
  | .imin h f => Sys2Proof.Machine.execImin h f s
  | .imax h f => Sys2Proof.Machine.execImax h f s
  | .iabs h f => Sys2Proof.Machine.execIabs h f s
  | .logic h f => Sys2Proof.Machine.execLogic h f s
  | .sel h f => Sys2Proof.Machine.execSel h f s
  | .icmp h f => Sys2Proof.Machine.execIcmp h f s
  | .lea h f => Sys2Proof.Machine.execLea h f s
  | .shl h f => Sys2Proof.Machine.execShl h f s
  | .shr h f => Sys2Proof.Machine.execShr h f s
  | .sar h f => Sys2Proof.Machine.execSar h f s
  | .rotl h f => Sys2Proof.Machine.execRotl h f s
  | .fshl h f => Sys2Proof.Machine.execFshl h f s
  | .bfx h f => Sys2Proof.Machine.execBfx h f s
  | .bfi h f => Sys2Proof.Machine.execBfi h f s
  | .popc h f => Sys2Proof.Machine.execPopc h f s
  | .clz h f => Sys2Proof.Machine.execClz h f s
  | .ffs h f => Sys2Proof.Machine.execFfs h f s
  | .brev h f => Sys2Proof.Machine.execBrev h f s
  | .iaddImm h f => Sys2Proof.Machine.execIaddImm h f s
  | .imulImm h f => Sys2Proof.Machine.execImulImm h f s
  | .iminImm h f => Sys2Proof.Machine.execIminImm h f s
  | .imaxImm h f => Sys2Proof.Machine.execImaxImm h f s
  | .shlImm h f => Sys2Proof.Machine.execShlImm h f s
  | .shrImm h f => Sys2Proof.Machine.execShrImm h f s
  | .sarImm h f => Sys2Proof.Machine.execSarImm h f s
  | .rotlImm h f => Sys2Proof.Machine.execRotlImm h f s
  | .fadd h f => Sys2Proof.Machine.execFadd h f s
  | .fmul h f => Sys2Proof.Machine.execFmul h f s
  | .ffma h f => Sys2Proof.Machine.execFfma h f s
  | .fmin h f => Sys2Proof.Machine.execFmin h f s
  | .fmax h f => Sys2Proof.Machine.execFmax h f s
  | .fcmp h f => Sys2Proof.Machine.execFcmp h f s
  | .fclass h f => Sys2Proof.Machine.execFclass h f s
  | .fscale h f => Sys2Proof.Machine.execFscale h f s
  | .fdot2 h f => Sys2Proof.Machine.execFdot2 h f s
  | .hadd2 h f => Sys2Proof.Machine.execHadd2 h f s
  | .hmul2 h f => Sys2Proof.Machine.execHmul2 h f s
  | .hfma2 h f => Sys2Proof.Machine.execHfma2 h f s
  | .frcp h f => Sys2Proof.Machine.execFrcp h f s
  | .frsq h f => Sys2Proof.Machine.execFrsq h f s
  | .fsqrt h f => Sys2Proof.Machine.execFsqrt h f s
  | .fexp2 h f => Sys2Proof.Machine.execFexp2 h f s
  | .flog2 h f => Sys2Proof.Machine.execFlog2 h f s
  | .fsin h f => Sys2Proof.Machine.execFsin h f s
  | .fcos h f => Sys2Proof.Machine.execFcos h f s
  | .faddImm h f => Sys2Proof.Machine.execFaddImm h f s
  | .fmulImm h f => Sys2Proof.Machine.execFmulImm h f s
  | .fminImm h f => Sys2Proof.Machine.execFminImm h f s
  | .fmaxImm h f => Sys2Proof.Machine.execFmaxImm h f s
  | .cvt h f => Sys2Proof.Machine.execCvt h f s
  | .pack4Pack h f => Sys2Proof.Machine.execPack4Pack h f s
  | .pack4Unlo h f => Sys2Proof.Machine.execPack4Unlo h f s
  | .pack4Unhi h f => Sys2Proof.Machine.execPack4Unhi h f s
  | .plane h f => Sys2Proof.Machine.execPlane h f s
  | .unplane h f => Sys2Proof.Machine.execUnplane h f s
  | .blkscaleScale h f => Sys2Proof.Machine.execBlkscaleScale h f s
  | .blkscaleApply h f => Sys2Proof.Machine.execBlkscaleApply h f s
  | .shfl h f => Sys2Proof.Machine.execShfl h f s
  | .voteAll h f => Sys2Proof.Machine.execVoteAll h f s
  | .voteAny h f => Sys2Proof.Machine.execVoteAny h f s
  | .voteBallot h f => Sys2Proof.Machine.execVoteBallot h f s
  | .voteUni h f => Sys2Proof.Machine.execVoteUni h f s
  | .matchK h f => Sys2Proof.Machine.execMatch h f s
  | .klogic h f => Sys2Proof.Machine.execKlogic h f s
  | .kmov h f => Sys2Proof.Machine.execKmov h f s
  | .readlane h f => Sys2Proof.Machine.execReadlane h f s
  | .redg h f => Sys2Proof.Machine.execRedg h f s
  | .redt h f => Sys2Proof.Machine.execRedt h f s
  | .scang h f => Sys2Proof.Machine.execScang h f s
  | .sadd h f => Sys2Proof.Machine.execSadd h f s
  | .ssub h f => Sys2Proof.Machine.execSsub h f s
  | .smul h f => Sys2Proof.Machine.execSmul h f s
  | .slogic h f => Sys2Proof.Machine.execSlogic h f s
  | .sshl h f => Sys2Proof.Machine.execSshl h f s
  | .sshr h f => Sys2Proof.Machine.execSshr h f s
  | .scmp h f => Sys2Proof.Machine.execScmp h f s
  | .smin h f => Sys2Proof.Machine.execSmin h f s
  | .smax h f => Sys2Proof.Machine.execSmax h f s
  | .smov h f => Sys2Proof.Machine.execSmov h f s
  | .smovCat h f => Sys2Proof.Machine.execSmovCat h f s
  | .vbcast h f => Sys2Proof.Machine.execVbcast h f s
  | .bra h f => Sys2Proof.Machine.execBra h f s
  | .brx h f => Sys2Proof.Machine.execBrx h f s
  | .callK h f => Sys2Proof.Machine.execCall h f s
  | .ret h f => Sys2Proof.Machine.execRet h f s
  | .ifK h f => Sys2Proof.Machine.execIf h f s
  | .elseK h f => Sys2Proof.Machine.execElse h f s
  | .endif h f => Sys2Proof.Machine.execEndif h f s
  | .loopK h f => Sys2Proof.Machine.execLoop h f s
  | .breakK h f => Sys2Proof.Machine.execBreak h f s
  | .contK h f => Sys2Proof.Machine.execCont h f s
  | .endloop h f => Sys2Proof.Machine.execEndloop h f s
  | .exitK h f => Sys2Proof.Machine.execExit h f s
  | .nop h f => Sys2Proof.Machine.execNop h f s
  | .yieldK h f => Sys2Proof.Machine.execYield h f s
  | .sleepK h f => Sys2Proof.Machine.execSleep h f s
  | .ld h f => Sys2Proof.Machine.execLd h f s
  | .ldProbe h f => Sys2Proof.Machine.execLdProbe h f s
  | .st h f => Sys2Proof.Machine.execSt h f s
  | .lds h f => Sys2Proof.Machine.execLds h f s
  | .sts h f => Sys2Proof.Machine.execSts h f s
  | .ldu h f => Sys2Proof.Machine.execLdu h f s
  | .stu h f => Sys2Proof.Machine.execStu h f s
  | .pref h f => Sys2Proof.Machine.execPref h f s
  | .fetch h f => Sys2Proof.Machine.execFetch h f s
  | .cctlWb h f => Sys2Proof.Machine.execCctlWb h f s
  | .cctlInv h f => Sys2Proof.Machine.execCctlInv h f s
  | .cctlDiscard h f => Sys2Proof.Machine.execCctlDiscard h f s
  | .fence h f => Sys2Proof.Machine.execFence h f s
  | .atomCas h f => Sys2Proof.Machine.execAtomCas h f s
  | .atomsCas h f => Sys2Proof.Machine.execAtomsCas h f s
  | .atom h op f => Sys2Proof.Machine.execAtom h op f s
  | .redK h op f => Sys2Proof.Machine.execRed h op f s
  | .atoms h op f => Sys2Proof.Machine.execAtoms h op f s
  | .reds h op f => Sys2Proof.Machine.execReds h op f s
  | .cpy h f => Sys2Proof.Machine.execCpy h f s
  | .cpyt h f => Sys2Proof.Machine.execCpyt h f s
  | .gath h f => Sys2Proof.Machine.execGath h f s
  | .scat h f => Sys2Proof.Machine.execScat h f s
  | .shape h f => Sys2Proof.Machine.execShape h f s
  | .batch h f => Sys2Proof.Machine.execBatch h f s
  | .cwait h f => Sys2Proof.Machine.execCwait h f s
  | .cstat h f => Sys2Proof.Machine.execCstat h f s
  | .barInit h f => Sys2Proof.Machine.execBarInit h f s
  | .barArrive h f => Sys2Proof.Machine.execBarArrive h f s
  | .barWait h f => Sys2Proof.Machine.execBarWait h f s
  | .barSync h f => Sys2Proof.Machine.execBarSync h f s
  | .barDrop h f => Sys2Proof.Machine.execBarDrop h f s
  | .bellRing h f => Sys2Proof.Machine.execBellRing h f s
  | .bellRingSet h f => Sys2Proof.Machine.execBellRingSet h f s
  | .bellWait h f => Sys2Proof.Machine.execBellWait h f s
  | .bellWaitNb h f => Sys2Proof.Machine.execBellWaitNb h f s
  | .ringSend h f => Sys2Proof.Machine.execRingSend h f s
  | .ringTake h f => Sys2Proof.Machine.execRingTake h f s
  | .ringFree h f => Sys2Proof.Machine.execRingFree h f s
  | .ringFreeCap h f => Sys2Proof.Machine.execRingFreeCap h f s
  | .ringStat h f => Sys2Proof.Machine.execRingStat h f s
  | .tryK h f => Sys2Proof.Machine.execTry h f s
  | .commit h f => Sys2Proof.Machine.execCommit h f s
  | .abortK h f => Sys2Proof.Machine.execAbort h f s
  | .tstat h f => Sys2Proof.Machine.execTstat h f s
  | .spanapp h f => Sys2Proof.Machine.execSpanapp h f s
  | .spantag h f => Sys2Proof.Machine.execSpantag h f s
  | .spanset h f => Sys2Proof.Machine.execSpanset h f s
  | .spanret h f => Sys2Proof.Machine.execSpanret h f s
  | .spanq h f => Sys2Proof.Machine.execSpanq h f s
  | .rmap h f => Sys2Proof.Machine.execRmap h f s
  | .finfo h f => Sys2Proof.Machine.execFinfo h f s
  | .frd h f => Sys2Proof.Machine.execFrd h f s
  | .fwr h f => Sys2Proof.Machine.execFwr h f s
  | .fpatch h f => Sys2Proof.Machine.execFpatch h f s
  | .fresumeRetry h f => Sys2Proof.Machine.execFresumeRetry h f s
  | .fresumeSkip h f => Sys2Proof.Machine.execFresumeSkip h f s
  | .fkill h f => Sys2Proof.Machine.execFkill h f s
  | .fkillGrid h f => Sys2Proof.Machine.execFkillGrid h f s
  | .farrive h f => Sys2Proof.Machine.execFarrive h f s
  | .fstep h f => Sys2Proof.Machine.execFstep h f s
  | .frelease h f => Sys2Proof.Machine.execFrelease h f s
  | .acquire h f => Sys2Proof.Machine.execAcquire h f s
  | .giveback h f => Sys2Proof.Machine.execGiveback h f s
  | .launch h f => Sys2Proof.Machine.execLaunch h f s
  | .lstat h f => Sys2Proof.Machine.execLstat h f s
  | .trap h f => Sys2Proof.Machine.execTrap h f s
  | .rdsr h f => Sys2Proof.Machine.execRdsr h f s
  | .wrsr h f => Sys2Proof.Machine.execWrsr h f s
  | .pgqry h f => Sys2Proof.Machine.execPgqry h f s
  | .pgctlPin h f => Sys2Proof.Machine.execPgctlPin h f s
  | .pgctlAttract h f => Sys2Proof.Machine.execPgctlAttract h f s
  | .accrd h f => Sys2Proof.Machine.execAccrd h f s
  | .accrdStat h f => Sys2Proof.Machine.execAccrdStat h f s
  | .accwr h f => Sys2Proof.Machine.execAccwr h f s
  | .accrs h f => Sys2Proof.Machine.execAccrs h f s
  | .accmax h f => Sys2Proof.Machine.execAccmax h f s
  | .pnop f => Sys2Proof.Machine.execPnop f s
  | .pzero f => Sys2Proof.Machine.execPzero f s
  | .pfmt f => Sys2Proof.Machine.execPfmt f s
  | .pmm f => Sys2Proof.Machine.execPmm f s
  | .pmms f => Sys2Proof.Machine.execPmms f s
  | .ploada f => Sys2Proof.Machine.execPloada f s
  | .pstore f => Sys2Proof.Machine.execPstore f s
  | .pexp f => Sys2Proof.Machine.execPexp f s
  | .prowmax f => Sys2Proof.Machine.execProwmax f s
  | .prowsum f => Sys2Proof.Machine.execProwsum f s
  | .pscale f => Sys2Proof.Machine.execPscale f s
  | .ptrans f => Sys2Proof.Machine.execPtrans f s
  | .pbellw f => Sys2Proof.Machine.execPbellw f s
  | .pbellr f => Sys2Proof.Machine.execPbellr f s
  | .pjmp f => Sys2Proof.Machine.execPjmp f s
  | .ploop f => Sys2Proof.Machine.execPloop f s
  | .pwake f => Sys2Proof.Machine.execPwake f s
  | .pend f => Sys2Proof.Machine.execPend f s
  | .pressWordRefused w => Sys2Proof.Machine.execPressWordRefused w s
  | .lookup p stack port f gpn => Sys2Proof.Machine.execLookup p stack port f gpn s
  | .rd32 p stack port f => Sys2Proof.Machine.execRd32 p stack port f s
  | .wrf32 p stack port f data => Sys2Proof.Machine.execWrf32 p stack port f data s
  | .wrm8 p stack port f data => Sys2Proof.Machine.execWrm8 p stack port f data s
  | .cellarBadCmd p stack port f => Sys2Proof.Machine.execCellarBadCmd p stack port f s
  | .cellarHit p stack port f payload => Sys2Proof.Machine.execCellarHit p stack port f payload s
  | .cellarMiss p stack port f payload => Sys2Proof.Machine.execCellarMiss p stack port f payload s
  | .cellarData p stack port f payload => Sys2Proof.Machine.execCellarData p stack port f payload s
  | .cellarDone p stack port f payload => Sys2Proof.Machine.execCellarDone p stack port f payload s
  | .cellarError p stack port f payload => Sys2Proof.Machine.execCellarError p stack port f payload s
  | .ctxInstall p => Sys2Proof.Machine.execCtxInstall p s
  | .tlbInval p => Sys2Proof.Machine.execTlbInval p s
  | .pageRefRaise p => Sys2Proof.Machine.execPageRefRaise p s
  | .pageRefLower p => Sys2Proof.Machine.execPageRefLower p s
  | .gpnReissue p => Sys2Proof.Machine.execGpnReissue p s
  | .streamCtlKill p => Sys2Proof.Machine.execStreamCtlKill p s
  | .streamCtlRestart p => Sys2Proof.Machine.execStreamCtlRestart p s
  | .teamCtlKill p => Sys2Proof.Machine.execTeamCtlKill p s
  | .teamCtlRetry p => Sys2Proof.Machine.execTeamCtlRetry p s
  | .teamCtlSkip p => Sys2Proof.Machine.execTeamCtlSkip p s
  | .teamCtlStep p => Sys2Proof.Machine.execTeamCtlStep p s
  | .replyK p => Sys2Proof.Machine.execReply p s
  | .dirGrant p => Sys2Proof.Machine.execDirGrant p s
  | .attest p => Sys2Proof.Machine.execAttest p s
  | .cmdUnknown p => Sys2Proof.Machine.execCmdUnknown p s
  | .cmdWhileBusy p v => Sys2Proof.Machine.execCmdWhileBusy p v s
  | .hctlGo p => Sys2Proof.Machine.execHctlGo p s
  | .hctlWarm p => Sys2Proof.Machine.execHctlWarm p s
  | .queueTailWrite p q v => Sys2Proof.Machine.execQueueTailWrite p q v s
  | .queueEnWrite p q v => Sys2Proof.Machine.execQueueEnWrite p q v s
  | .registerWrite p off v => Sys2Proof.Machine.execRegisterWrite p off v s
  | .hreqHeadAdvance p v => Sys2Proof.Machine.execHreqHeadAdvance p v s
  | .msixUnmask p vec v => Sys2Proof.Machine.execMsixUnmask p vec v s
  | .pressBellWake sh => Sys2Proof.Machine.execPressBellWake sh s
  | .pressIdleGate core ix => Sys2Proof.Machine.execPressIdleGate core ix s
  | .pressWakeComplete core ix => Sys2Proof.Machine.execPressWakeComplete core ix s
  | .longLatencyResult tk ix lanes => Sys2Proof.Machine.execLongLatencyResult tk ix lanes s
  | .teamUnpark tk => Sys2Proof.Machine.execTeamUnpark tk s
  | .sleepExpiry tk => Sys2Proof.Machine.execSleepExpiry tk s
  | .transferBegin x => Sys2Proof.Machine.execTransferBegin x s
  | .transferComplete x => Sys2Proof.Machine.execTransferComplete x s
  | .probeBackgroundReturn r => Sys2Proof.Machine.execProbeBackgroundReturn r s
  | .generationClear lvl scope => Sys2Proof.Machine.execGenerationClear lvl scope s
  | .reeveSpawn core => Sys2Proof.Machine.execReeveSpawn core s
  | .teamAdmit core => Sys2Proof.Machine.execTeamAdmit core s
  | .impreciseReport ix => Sys2Proof.Machine.execImpreciseReport ix s
  | .watchdog tk => Sys2Proof.Machine.execWatchdog tk s
  | .streamDeadlockKill sh => Sys2Proof.Machine.execStreamDeadlockKill sh s
  | .queueDispatch p => Sys2Proof.Machine.execQueueDispatch p s
  | .clusterPlace p => Sys2Proof.Machine.execClusterPlace p s
  | .preemptCluster p => Sys2Proof.Machine.execPreemptCluster p s
  | .shareImageSave p cl => Sys2Proof.Machine.execShareImageSave p cl s
  | .clusterResume p cl => Sys2Proof.Machine.execClusterResume p cl s
  | .periodStart p q => Sys2Proof.Machine.execPeriodStart p q s
  | .budgetExhausted p q => Sys2Proof.Machine.execBudgetExhausted p q s
  | .energyWindow p => Sys2Proof.Machine.execEnergyWindow p s
  | .meteringTick p nj => Sys2Proof.Machine.execMeteringTick p nj s
  | .gridComplete g => Sys2Proof.Machine.execGridComplete g s
  | .climb r => Sys2Proof.Machine.execClimb r s
  | .firstTouchRerun p set => Sys2Proof.Machine.execFirstTouchRerun p set s
  | .lodgeOffer ch => Sys2Proof.Machine.execLodgeOffer ch s
  | .lodgeRefusedAll ch => Sys2Proof.Machine.execLodgeRefusedAll ch s
  | .lodgeGrant ch => Sys2Proof.Machine.execLodgeGrant ch s
  | .fillComplete ch => Sys2Proof.Machine.execFillComplete ch s
  | .moveComplete ch => Sys2Proof.Machine.execMoveComplete ch s
  | .directoryInvalidation k => Sys2Proof.Machine.execDirectoryInvalidation k s
  | .dirRebuild p => Sys2Proof.Machine.execDirRebuild p s
  | .ckptTimer p => Sys2Proof.Machine.execCkptTimer p s
  | .gleanTimer p => Sys2Proof.Machine.execGleanTimer p s
  | .sectorReadRequest k => Sys2Proof.Machine.execSectorReadRequest k s
  | .sectorReadReply k => Sys2Proof.Machine.execSectorReadReply k s
  | .postedWrite k => Sys2Proof.Machine.execPostedWrite k s
  | .writeAck k => Sys2Proof.Machine.execWriteAck k s
  | .atomicRequest k => Sys2Proof.Machine.execAtomicRequest k s
  | .atomicReply k => Sys2Proof.Machine.execAtomicReply k s
  | .packedReadRequest k => Sys2Proof.Machine.execPackedReadRequest k s
  | .packedReadReply k => Sys2Proof.Machine.execPackedReadReply k s
  | .packwinExpiry p dst => Sys2Proof.Machine.execPackwinExpiry p dst s
  | .pageMoveData k => Sys2Proof.Machine.execPageMoveData k s
  | .fabricTimeout r => Sys2Proof.Machine.execFabricTimeout r s
  | .heartbeatSend p => Sys2Proof.Machine.execHeartbeatSend p s
  | .lossNotice p lost => Sys2Proof.Machine.execLossNotice p lost s
  | .packageRejoin p lost => Sys2Proof.Machine.execPackageRejoin p lost s
  | .portUp p port num cabled => Sys2Proof.Machine.execPortUp p port num cabled s
  | .portDown p port => Sys2Proof.Machine.execPortDown p port s
  | .coldReset p => Sys2Proof.Machine.execColdReset p s
  | .bootRom p err => Sys2Proof.Machine.execBootRom p err s
  | .cxlLinkTrained p => Sys2Proof.Machine.execCxlLinkTrained p s
  | .fwVerify p readOk => Sys2Proof.Machine.execFwVerify p readOk s
  | .fabricBringup p podsize ok => Sys2Proof.Machine.execFabricBringup p podsize ok s
  | .windowRead p off n => Sys2Proof.Machine.execWindowRead p off n s
  | .windowWrite p off data => Sys2Proof.Machine.execWindowWrite p off data s
  | .throttling p hot => Sys2Proof.Machine.execThrottling p hot s

end Sys2Proof.Machine
end

