-- ==== Sys2Proof/Machine/Agents.lean ====
section
/-! DEFINITION. What each agent of a step does (log 1): a team's and a stream's fetch (R40 to R42, R60, R63), issue slots (R57, R308,
R309), evictions (R216, R246 to R248), memory errors (R271); the rule that picks a step where the agenda names none; and how a word
is placed where the first team fetches. -/

namespace Sys2Proof.Machine

open Host

/-! ## Teams and streams -/

/-- A team's cluster is being saved: it issues nothing (R313). -/
def State.saving (s : State) (cl : Nat) : Bool := (s.cluster cl).any (·.saving)
/-- A team's cluster is to be pre-empted: it issues no further clause (R313). -/
def State.stopping (s : State) (cl : Nat) : Bool := (s.cluster cl).any (·.stopping)

/-- A team may issue: it runs, is admitted or steps, stands on its core, and, where a clause is next, its gap has run out and its
cluster goes on (R308, R313). -/
def State.mayIssue (s : State) (tk : Nat) (t : Team) : Bool :=
  t.run == .running && (t.admitted || t.stepping.isSome) && !inImage tk && !s.saving t.cl
    && (t.word.isSome || (decide (t.gapUntil ≤ s.now) && !s.stopping t.cl))

/-! ## Issue slots (R57, R308, R309) -/

/-- Rank of a candidate: those that have waited too long, reeves, the give-way mark, the ready clock, the slot (R308, R309; log 90). -/
def Team.rank (t : Team) (now tk : Nat) : Nat × Nat × Nat × Nat :=
  let ready := max t.readyAt t.gapUntil
  (if ready + Config.agedClocks ≤ now then 0 else if t.isReeve then 1 else 2, if t.giveMark then 1 else 0, ready, tk % 20)

/-- Lexicographic order; among those that have waited too long only the ready clock and the slot count. -/
def rankBefore (a b : Nat × Nat × Nat × Nat) : Bool :=
  if a.1 ≠ b.1 then a.1 < b.1
  else if a.1 ≠ 0 ∧ a.2.1 ≠ b.2.1 then a.2.1 < b.2.1
  else if a.2.2.1 ≠ b.2.2.1 then a.2.2.1 < b.2.2.1
  else a.2.2.2 < b.2.2.2

/-- The candidates of a core: teams that may issue and hold no slot (R308). -/
def State.candidates (s : State) (core : Nat) : List (Nat × Team) :=
  s.teams.filter fun (e : Nat × Team) => coreOf e.1 == core && !e.2.inSlot && e.2.stepping.isNone && s.mayIssue e.1 e.2

/-- The first candidate of a core in rank. -/
def State.firstCandidate (s : State) (core : Nat) : Option Nat :=
  ((s.candidates core).foldl (fun (a : Option (Nat × Team)) e => match a with
    | none => some e
    | some b => if rankBefore (e.2.rank s.now e.1) (b.2.rank s.now b.1) then some e else a) none).map (·.1)

/-- A core has a free issue slot. -/
def State.slotOpen (s : State) (core : Nat) : Bool :=
  decide (((s.teams.filter fun (e : Nat × Team) => coreOf e.1 == core && !inImage e.1 && e.2.inSlot).length) < Config.issueSlots)

/-- A team issues: it may, and holds a slot, steps, or takes a free slot as the first candidate of its core (R308). -/
def State.issues (s : State) (tk : Nat) (t : Team) : Bool :=
  s.mayIssue tk t && (t.inSlot || t.stepping.isSome || (s.slotOpen (coreOf tk) && s.firstCandidate (coreOf tk) == some tk))

/-- The team holds a slot from here to the end of its clause; a stepped one takes none. -/
def State.takeSlot (s : State) (tk : Nat) (t : Team) : State :=
  if t.inSlot || t.stepping.isSome then s else s.setTeam tk { t with inSlot := true }

/-- A failed fetch freezes the team once (R42). -/
def noHdr : Hdr := ⟨false, false, 15⟩

/-- A team that a kill has ended ends once its word has gone on (R357). -/
def reaped (tk : Nat) (r : Res) : Res :=
  match r with
  | .next s => .next (s.reap tk)
  | r => r

/-- A team fetches the word at its place and executes it: its header, or a word of its clause. A failed fetch names no address of a
lane (R281). -/
def stepTeam (tk : Nat) (s : State) : Res :=
  let s := { s with cur := tk }
  match s.team tk with
  | none => .next s
  | some t =>
    if !s.issues tk t then .next s
    else (if t.doomed then reaped tk else id) <| match (s.takeSlot tk t).fetch (coreOf tk) t.ctx t.here with
      | (s, .wait ix) => .next (s.updTeam tk fun u => { u with run := .parked (.walk ix) })
      | (s, .bad c) => .next ((Act.fault s noHdr c 0 0 0).finish tk false)
      | (s, .word w) => if t.word.isNone then exec (decodeHeader w) s else exec (decodeWord w) s

/-- A press stream fetches and executes its next word; a word that cannot be fetched halts it (R60, R63). -/
def stepStream (sh : Nat) (s : State) : Res :=
  let s := { s with cur := sh }
  match s.share sh with
  | none => .next s
  | some x => match x.stream, x.core with
    | some m, some core =>
      if m.st != .running || s.saving x.cl then .next s
      else match s.asHardware (pkgOf core) (streamWho sh) Fetched.waits fun s => s.fetch core ((s.grid x.grid).elim 0 (·.ctx)) m.spc with
        | (s, .wait _) => .next s
        | (s, .bad c) => .next (s.haltStream sh c 0)
        | (s, .word w) => exec (decodePress w) s
    | _, _ => .next s

/-! ## Evictions -/

/-- A cache drops a sector, its dirty bytes written on first (R216). -/
def State.evictLine (s : State) (lvl : Level) (key : Nat) : State := (s.writeBackOne lvl key).dropLine lvl key

/-- Write the counters of an evicted second-level entry to its context's shadow table; a write that fails its checks is dropped; false
while it has to wait (R248). -/
def State.shadowWrite (s : State) (p : Nat) (e : TlbEnt) : State × Bool :=
  match find (s.pkg p).ctxs e.ctx with
  | none => (s, true)
  | some c =>
    if c.shbase = 0 then (s, true)
    else
      let gpn := entGpn e.ent
      let a := c.shbase + 4 * (gpn % 2 ^ c.shw)
      match s.ctxLeaf p e.ctx a with
      | (s, none) => (s, true)
      | (s, some l) =>
        if (s.checkPart (48 * p) l a 4 true false false false).isSome then (s, true)
        else
          let r := s.sysWriteBytes p (65536 * l.gpn + a % 65536) (bytesOf 4 (2 ^ 16 * (gpn / 2 ^ c.shw % 65536) + 2 ^ 8 * e.whot + e.rhot))
          (r.1, r.2 != .waits)

def State.evictTlb2 (s : State) (p ix : Nat) : State :=
  match (s.pkg p).tlb2[ix]? with
  | none => s
  | some e => match s.shadowWrite p e with
    | (s, true) => s.updPkg p fun k => { k with tlb2 := k.tlb2.eraseIdx ix }
    | (s, false) => s

/-! ## Capacities (R3, R216, R246; log 89) -/

def lvlLines : Level → Nat
  | .l1 _ => Config.l1Lines | .l2 _ => Config.l2Lines | .l3 _ => Config.l3Lines

/-- The 128-byte lines that a cache holds sectors of. -/
def Cache.lines (x : Cache) : List Nat := (x.sectors.map fun e => e.1 / 4).eraseReps

/-- Nothing holds more than it has room for. -/
def State.roomy (s : State) : Bool :=
  (s.cores.all fun e => decide (e.2.l1.sectors.length ≤ Config.l1Lines) && decide (e.2.tlb.length ≤ Config.tlbEntries))
    && (s.dies.all fun e => decide (e.2.sectors.length ≤ Config.l2Lines))
    && s.pkgs.all fun e => decide (e.2.l3.sectors.length ≤ Config.l3Lines) && decide (e.2.tlb2.length ≤ Config.tlb2Entries)

/-- A cache drops lines, any of them, until it holds no more than it has room for. -/
def State.trimCache (s : State) (lvl : Level) : State :=
  (List.range ((s.cache lvl).lines.length - lvlLines lvl)).foldl (fun s _ => match s.pick (s.cache lvl).lines with
    | none => s
    | some l => (((s.cache lvl).sectors.filter fun e => e.1 / 4 == l).foldl (fun s e => s.evictLine lvl e.1) s).bump) s

/-- The TLBs drop entries, any of them, likewise. -/
def State.trimTlb (s : State) (core : Nat) : State :=
  (List.range ((s.core core).tlb.length - Config.tlbEntries)).foldl (fun s _ =>
    (s.updCore core fun k => { k with tlb := k.tlb.eraseIdx (Config.choice s.fresh % k.tlb.length) }).bump) s
def State.trimTlb2 (s : State) (p : Nat) : State :=
  (List.range ((s.pkg p).tlb2.length - Config.tlb2Entries)).foldl (fun s _ =>
    (s.evictTlb2 p (Config.choice s.fresh % (s.pkg p).tlb2.length)).bump) s

/-- What a step has brought into a cache or a TLB that was full drives out something else. -/
def State.trim (s : State) : State :=
  if s.roomy then s
  else
    let s := (s.cores.map (·.1)).foldl (fun s c => (s.trimCache (.l1 c)).trimTlb c) s
    let s := (s.dies.map (·.1)).foldl (fun s d => s.trimCache (.l2 d)) s
    (s.pkgs.map (·.1)).foldl (fun s p => (s.trimCache (.l3 p)).trimTlb2 p) s

/-- Behind a step, every cache and TLB holds what it has room for. -/
def trimmed (r : Res) : Res :=
  match r with
  | .next s => .next s.trim
  | r => r

/-! ## Errors -/

/-- A symbol error arises in a granule: two errors of different symbols cannot be corrected (R271). -/
def State.strike (s : State) (p g symbol : Nat) : State :=
  s.updPkg p fun k =>
    if (find k.poison g).isSome then k
    else match find k.symErr g with
      | none => { k with symErr := put k.symErr g (min 64 symbol) }
      | some n => { k with symErr := put k.symErr g (if n = symbol then n else 64) }

/-! ## The step that no agenda names -/

/-- A packet arrives. -/
def stepPacket (k : Nat) (x : PktKind) : State → Res :=
  match x with
  | .readReq _ => execSectorReadRequest k
  | .readReply _ _ _ => execSectorReadReply k
  | .write _ => execPostedWrite k
  | .ack _ _ => execWriteAck k
  | .atomReq _ => execAtomicRequest k
  | .atomReply _ _ _ => execAtomicReply k
  | .packReq _ => execPackedReadRequest k
  | .packReply _ => execPackedReadReply k
  | .inval _ => execDirectoryInvalidation k
  | .pageData _ => execPageMoveData k

/-- The next boot step that needs nothing from outside; package 0 boots where no package is listed (R368). -/
def bootStep (p : Nat) (s : State) : Res :=
  match (s.pkg p).stage with
  | 0 | 1 => execBootRom p 0 s
  | 2 => execCxlLinkTrained p s
  | 4 => execFwVerify p true s
  | _ => .next s

/-- A command that is under way. -/
def commandStep (p : Nat) (s : State) : Res :=
  let k := s.pkg p
  match k.cmdOp with
  | none => .next s
  | some op => exec (decodeCommand p op (k.arg 1) (k.arg 2)) s

/-- What the hardware of teams, streams and cores does of itself at a clock. -/
def coreEvents (s : State) : List (State → Res) :=
  (s.teams.flatMap fun (e : Nat × Team) => (List.range e.2.outst.length).map fun i => execLongLatencyResult e.1 i (BitVec.allOnes 1024))
  ++ (s.teams.flatMap fun (e : Nat × Team) => [execTeamUnpark e.1, execSleepExpiry e.1, execWatchdog e.1])
  ++ (s.shares.flatMap fun (e : Nat × Share) => [execPressBellWake e.1, execStreamDeadlockKill e.1])
  ++ (s.cores.flatMap fun (e : Nat × Core) => execReeveSpawn e.1 :: execTeamAdmit e.1 ::
      (List.range 16).flatMap fun i => [execPressWakeComplete e.1 i, execPressIdleGate e.1 i])
  ++ (s.xfers.flatMap fun (e : Nat × Xfer) => [execTransferBegin e.1, execTransferComplete e.1])
  ++ (List.range s.reports.length).map execImpreciseReport

/-- What the attraction memory and the fabric do. -/
def fabricEvents (s : State) : List (State → Res) :=
  (s.packets.map fun (e : Nat × Packet) => stepPacket e.1 e.2.kind)
  ++ (s.changes.flatMap fun (e : Nat × Change) =>
      [execFillComplete e.1, execMoveComplete e.1, execLodgeGrant e.1, execLodgeOffer e.1, execLodgeRefusedAll e.1])
  ++ (s.requests.flatMap fun (e : Nat × Request) => [execClimb e.1, execProbeBackgroundReturn e.1, execFabricTimeout e.1])
  ++ s.pkgs.flatMap fun (e : Nat × Pkg) =>
      (e.2.touchWait.map fun w => execFirstTouchRerun e.1 w.1) ++ (e.2.gather.map fun g => execPackwinExpiry e.1 g.1)
      ++ [execDirRebuild e.1, execHeartbeatSend e.1]
      ++ s.pkgs.flatMap fun (x : Nat × Pkg) => [execLossNotice e.1 x.1, execPackageRejoin e.1 x.1]

/-- What the management core and the scheduler of a package do. -/
def packageEvents (p : Nat) (s : State) : List (State → Res) :=
  let k := s.pkg p
  [bootStep p, commandStep p, execEnergyWindow p, execMeteringTick p []]
  ++ (k.queues.flatMap fun (q : Nat × Queue) => [execPeriodStart p q.1, execBudgetExhausted p q.1])
  ++ [execQueueDispatch p, execClusterPlace p, execPreemptCluster p]
  ++ (s.clusters.flatMap fun (c : Nat × Cluster) => [execShareImageSave p c.1, execClusterResume p c.1])
  ++ (s.gridsOf p).map fun g => execGridComplete g.1

/-- The first of a list of steps that changes the state. -/
def firstChange (s : State) : List (State → Res) → Option Res
  | [] => none
  | f :: fs => match f s with
    | .next s' => if s' = s then firstChange s fs else some (.next s')
    | r => some r

/-- The team that issues next: a first candidate that has a free slot, else those that hold slots or step in turn. -/
def State.nextTeam (s : State) : Option Nat :=
  match s.teams.find? fun (e : Nat × Team) => !e.2.inSlot && e.2.stepping.isNone && s.issues e.1 e.2 with
  | some e => some e.1
  | none =>
    let ms := s.teams.filter fun (e : Nat × Team) => s.issues e.1 e.2
    (ms[s.now / 2 % max 1 ms.length]?).map (·.1)

/-- Running streams take turns with the teams. -/
def State.nextStream (s : State) : Option Nat :=
  let ms := s.shares.filter fun (e : Nat × Share) => e.2.core.isSome && !s.saving e.2.cl && e.2.stream.any fun m => m.st == .running
  (ms[s.now / 2 % max 1 ms.length]?).map (·.1)

/-- A clock passes; the checkpoint engine and the patrol look at it (R273). -/
def State.tick (s : State) : State :=
  let s := { s with now := s.now + 1 }
  s.pkgs.foldl (fun s (e : Nat × Pkg) => match execCkptTimer e.1 s with
    | .next s => (match execGleanTimer e.1 s with | .next s => s | _ => s)
    | _ => s) s

/-- What happens where the agenda names no agent: what the hardware does of itself at this clock, else a clock passes and a team or a
stream issues. -/
def idleAct (s : State) : Res :=
  let ps := if s.pkgs.isEmpty then [0] else s.pkgs.map (·.1)
  match firstChange s (coreEvents s ++ fabricEvents s ++ ps.flatMap fun p => packageEvents p s) with
  | some r => r
  | none =>
    let s := s.tick
    match s.nextTeam, s.nextStream with
    | some tk, some sh => if s.now % 2 = 0 then stepTeam tk s else stepStream sh s
    | some tk, none => stepTeam tk s
    | none, some sh => stepStream sh s
    | none, none => .next s

/-- One step where the agenda names none. -/
def idleStep (s : State) : Res := trimmed (idleAct s)

/-- What an agent does. -/
def actAgent (a : Agent) (s : State) : Res :=
  match a with
  | .team tk => stepTeam tk s
  | .stream sh => stepStream sh s
  | .event i => exec i s
  | .evict lvl key => .next (s.evictLine lvl key)
  | .dropTlb core ix => .next (s.updCore core fun k => { k with tlb := k.tlb.eraseIdx ix })
  | .dropTlb2 p ix => .next (s.evictTlb2 p ix)
  | .bitError p g symbol => .next (s.strike p g symbol)

/-- One step of an agent. -/
def stepAgent (a : Agent) (s : State) : Res := trimmed (actAgent a s)

/-! ## A word where the first team fetches -/

/-- The role that issues an opcode row (Table 01-6). -/
def rowRole (r : Nat) : Role := if r = 0x12 then .copy else if r = 0x17 then .reeve else if r = 0x19 then .norm else .general

/-- The team that issues a placed word: one lane, at the first word of a clause of one word of the row's class. -/
def placedTeam (r now seq : Nat) : Team :=
  { teamStart ⟨0, 0, 0, 1, 0, 0, 0, rowRole r, 0x10000, 0, .none⟩
      { version := 3, ftz := false, lanes := 1, teams := 1, pro8 := 32, full8 := 32, partition := 0x00181008, roles := 0, entry := 0
        press := 0, spbytes := 0x10000, accblk := 4, rings := 8 } 1 now seq with
    word := some 0, hdr := ⟨BitVec.ofNat 4 (if r = 0x0B then 0 else rowClass r), 0, 0, false, 0, 0, false, 0, 0x6B⟩, admitted := true, inSlot := true }

/-- Its share, with a running stream and rings. -/
def placedShare : Share :=
  { core := some 0, cl := 0, grid := 0, pos := 0, spbytes := 0x10000, nteams := 1, rings := List.replicate 8 {}
    stream := some { st := .running, spc := 0x20000, blocks := List.replicate 4 {} } }

/-- Page 1 in a frame of package 0, mapped as page 1 of context 1 and executable, with a word at byte 8. -/
def State.placeCode (s : State) (w : Nat) : State :=
  let f := 2 * setOf 1
  let s := s.updPkg 0 fun k => ({ k with podsize := 1 } : Pkg)
  let s := s.setParish 0 1 { refs := 1, master := 0 }
  (s.updPkg 0 fun k => (k.setTag f { gpn := 1, state := .masterExcl }).setBytes f 8 (bytesOf 8 w)).updCore 0 fun k =>
    { k with tlb := ⟨1, 1, 0, BitVec.ofNat 64 (2 ^ 63 + 2 ^ 62 + 2 ^ 59 + 2 ^ 58 + 1), 0, 0⟩ :: k.tlb }

/-- The word stands where a team fetches next, and that team takes the next step (log 2). -/
def State.placeWord (s : State) (w : Nat) : State :=
  let r := (wordOp (BitVec.ofNat 64 w)).toNat / 16
  let s := s.placeCode w
  let s := s.setShare 0 placedShare
  let s := s.setCluster 0 { grid := 0, index := 0, cw := 1, ch := 1, die := 0, shares := [0], placedSeq := 0 }
  let s := s.setTeam 0 (placedTeam r s.now s.fresh)
  { s with agenda := (0, .team 0) :: s.agenda }

end Sys2Proof.Machine
end

