-- ==== Sys2Proof/Machine/Step.lean ====
section
/-! DEFINITION. One step of the pod: the agenda's next agent after the clocks it names, or the fixed rule where it is empty
(log 1). -/

namespace Sys2Proof.Machine

open Host

/-- One step. -/
def step (s : State) : Host.Outcome State Fault Refusal :=
  match s.agenda with
  | (dt, a) :: rest => stepAgent a { s with now := s.now + dt, agenda := rest }
  | [] => idleStep s

/-- s with an instruction of nbits bits where the next step fetches; the bits above nbits are zero (log 2). -/
def State.withFetchWord (s : State) (nbits w : Nat) : State := s.placeWord (w % 2 ^ min nbits 64)

end Sys2Proof.Machine
end

