-- ==== Sys2Proof/Safety.lean ====
section
/-! DEFINITION. The terms in which claims are stated: memory and its canonical form, when a team's word may issue, what a word
leaves of its team, and when a press word may run. -/

namespace Sys2Proof.Machine

open Host

/-! ## Memory -/

/-- Memory as cells in canonical form: addresses strictly rising, no cell that holds what an unlisted address reads as (log 4). -/
abbrev Memory := List Cell
abbrev Memory.wf (m : Memory) : Prop := Canon (0 : Byte) m

/-- Every memory of the machine has the canonical form: host memory, the stacks of every package, every scratchpad. -/
abbrev State.memWf (s : State) : Prop :=
  Memory.wf s.hostMem ∧ (∀ e ∈ s.pkgs, Memory.wf e.2.hbm) ∧ ∀ e ∈ s.shares, Memory.wf e.2.sp

/-- Every byte of memory reads in s' as it reads in s: host memory, every frame of every package, every scratchpad. -/
def SameMemory (s s' : State) : Prop :=
  (∀ a, s'.hostByte a = s.hostByte a) ∧ (∀ p f off, (s'.pkg p).byte f off = (s.pkg p).byte f off) ∧
    ∀ sh off, s'.spByte sh off = s.spByte sh off

/-! ## When a word issues -/

/-- The team t of the slot in turn issues word i with skeleton h: every check of Table 02-4 passes, no full waiting list holds it
(R288), no open region forbids it or it is guarded off (R170, R46), and it runs of itself, not stepped by a reeve (R184). -/
abbrev State.Issues (s : State) (t : Team) (i : Instr) (h : Hdr) : Prop :=
  s.team s.cur = some t ∧ s.precheck s.cur t i h = none ∧ s.listBlocks s.cur t i = false ∧
    (t.tryR = none ∨ tryEvent i = none ∨ t.doesAct i h = false) ∧ t.stepping = none

/-- As Issues, for a word that acts once for the team: it executes (R46). -/
abbrev State.IssuesOnce (s : State) (t : Team) (i : Instr) (h : Hdr) : Prop := s.Issues t i h ∧ t.executes h = true

/-! ## What a word leaves of its team -/

/-- The value of a register in a lane once the clause ends (R53). -/
def Team.endVal (t : Team) (r : RegId) (L : Nat) : Word :=
  match r with
  | .v n => (t.commit.rv n L).setWidth 64
  | .s n => t.commit.rs n
  | .k n => bit (t.commit.rk n L)

/-- What a register holds of a value written to it: 32 bits, 64 bits or one; s0 stays zero and k15 true (R22). -/
def RegId.holds (r : RegId) (x : Word) : Word :=
  match r with
  | .v _ => (x.setWidth 32).setWidth 64
  | .s n => if n = 0 then 0 else x
  | .k n => if n = 15 then 1 else bit (x.getLsbD 0)

/-- The outstanding results that a register in a lane is to take; one that a later instruction's write comes after is none (R54). -/
def Team.dueParts (t : Team) (r : RegId) (L : Nat) : List Part :=
  (t.outst.flatMap (·.parts)).filter fun q => !q.stale && (q.reg == r && q.lane == L)

/-- A place that names a register once: a lane that exists, and lane 0 of an s register. -/
def RegId.place (r : RegId) (L : Nat) : Prop := match r with | .s _ => L = 0 | _ => L < 1024

/-- The last value that a list of writes gives a place. -/
def lastWrite (ws : List (RegId × Nat × Word)) (r : RegId) (L : Nat) : Option Word :=
  ((ws.filter fun w => w.1 == r && w.2.1 == L).getLast?).map (·.2.2)

/-- t' has the registers of t but for short-latency writes; every other register and every other outstanding result stays as it
was, and a register written waits for no result any more (R53, R54). -/
def Team.Wrote (t t' : Team) (ws : List (RegId × Nat × Word)) : Prop :=
  ∀ r L, r.place L →
    match lastWrite ws r L with
    | some x => t'.endVal r L = r.holds x ∧ t'.dueParts r L = []
    | none => t'.endVal r L = t.endVal r L ∧ t'.dueParts r L = t.dueParts r L

/-- t' has the registers of t, and one result of known value outstanding at each place that the writes name (R54). -/
def Team.WroteLong (t t' : Team) (ws : List (RegId × Nat × Word)) : Prop :=
  ∀ r L, r.place L →
    t'.endVal r L = t.endVal r L ∧
    match lastWrite ws r L with
    | some x => (t'.dueParts r L).map (·.val) = [some x]
    | none => t'.dueParts r L = t.dueParts r L

/-- Every field of a team but its registers, its outstanding results, its place in the program, and what the machine holds for the
word or the clause that has ended, is as it was. -/
def Team.Kept (t t' : Team) : Prop :=
  t' = { t with
    v := t'.v, s := t'.s, k := t'.k, pend := t'.pend, outst := t'.outst, pc := t'.pc, word := t'.word, run := t'.run
    admitted := t'.admitted, gapUntil := t'.gapUntil, giveMark := t'.giveMark, retry := t'.retry, cause := t'.cause
    relWait := t'.relWait, latch := t'.latch, brought := t'.brought, fails := t'.fails, inSlot := t'.inSlot }

/-- The team stands behind its word: at the next word of its clause, or at the next clause (R41). -/
def Team.Next (t t' : Team) : Prop :=
  if t.word.getD 0 < t.hdr.n.toNat then t'.pc = t.pc ∧ t'.word = some (t.word.getD 0 + 1) else t'.pc = t.nextPc ∧ t'.word = none

/-- The word completes: the machine is s2, in which the team t has made short-latency writes and gone on. -/
def Ends (r : Res) (s2 : State) (tk : Nat) (t : Team) (ws : List (RegId × Nat × Word)) : Prop :=
  ∃ t', r = .next (s2.setTeam tk t') ∧ t.Kept t' ∧ t.Next t' ∧ t.Wrote t' ws

/-- The word completes: the machine is s2, in which the team t waits for results of known value and has gone on. -/
def EndsLong (r : Res) (s2 : State) (tk : Nat) (t : Team) (ws : List (RegId × Nat × Word)) : Prop :=
  ∃ t', r = .next (s2.setTeam tk t') ∧ t.Kept t' ∧ t.Next t' ∧ t.WroteLong t' ws

/-- The word completes: the machine is s2, in which the team t continues at a clause header. -/
def Jumps (r : Res) (s2 : State) (tk : Nat) (t : Team) (pc : Word) : Prop :=
  ∃ t', r = .next (s2.setTeam tk t') ∧ t.Kept t' ∧ t'.pc = pc ∧ t'.word = none ∧ t.Wrote t' []

/-- A vector word of one 32-bit result of short latency: vD of every Active lane holds a value that P allows, and nothing else
changes. -/
def VecEnds (r : Res) (s : State) (t : Team) (h : Hdr) (d : BitVec 8) (P : Nat → Lane32 → Prop) : Prop :=
  ∃ x : Nat → Lane32, (∀ L ∈ t.act h, P L (x L)) ∧
    Ends r s s.cur t ((t.act h).map fun L => (.v d.toNat, L, (x L).setWidth 64))

/-- The same with a result of long latency. -/
def VecEndsLong (r : Res) (s : State) (t : Team) (h : Hdr) (d : BitVec 8) (P : Nat → Lane32 → Prop) : Prop :=
  ∃ x : Nat → Lane32, (∀ L ∈ t.act h, P L (x L)) ∧
    EndsLong r s s.cur t ((t.act h).map fun L => (.v d.toNat, L, (x L).setWidth 64))

/-- A vector word whose result is the pair vD.d. -/
def PairEnds (r : Res) (s : State) (t : Team) (h : Hdr) (d : BitVec 8) (P : Nat → Word → Prop) : Prop :=
  ∃ x : Nat → Word, (∀ L ∈ t.act h, P L (x L)) ∧ Ends r s s.cur t ((t.act h).flatMap fun L =>
    [(.v d.toNat, L, ((x L).extractLsb' 0 32).setWidth 64), (.v (d.toNat + 1), L, ((x L).extractLsb' 32 32).setWidth 64)])

/-- A vector word whose result is a predicate. -/
def PredEnds (r : Res) (s : State) (t : Team) (h : Hdr) (k : Nat) (P : Nat → Bool → Prop) : Prop :=
  ∃ x : Nat → Bool, (∀ L ∈ t.act h, P L (x L)) ∧ Ends r s s.cur t ((t.act h).map fun L => (.k k, L, bit (x L)))

/-- A vector word whose result is a predicate, of long latency. -/
def PredEndsLong (r : Res) (s : State) (t : Team) (h : Hdr) (k : Nat) (P : Nat → Bool → Prop) : Prop :=
  ∃ x : Nat → Bool, (∀ L ∈ t.act h, P L (x L)) ∧ EndsLong r s s.cur t ((t.act h).map fun L => (.k k, L, bit (x L)))

/-- A word that acts once and writes sN with a short latency. -/
def UniEnds (r : Res) (s : State) (t : Team) (n : Nat) (P : Word → Prop) : Prop :=
  ∃ x, P x ∧ Ends r s s.cur t [(.s n, 0, x)]

/-- A word that acts once and writes sN with a long latency; the machine is s2. -/
def UniEndsLong (r : Res) (s2 : State) (tk : Nat) (t : Team) (n : Nat) (x : Word) : Prop := EndsLong r s2 tk t [(.s n, 0, x)]

/-- The word faults: its team freezes with a record of a cause, as State.freeze takes a fault (R37, R281). -/
def Freezes (r : Res) (s : State) (t : Team) (h : Hdr) (c : Cause) (sub : Nat) : Prop :=
  r = .next (s.freezeTeam s.cur t h c sub)

/-! ## Press words -/

/-- The stream m of the share in turn issues a press word on a core: it runs, and the block the word uses is one of its own (R62). -/
abbrev State.Presses (s : State) (x : Share) (m : Stream) (core : Nat) (f : PF) (usesAcc : Bool) : Prop :=
  s.share s.cur = some x ∧ x.stream = some m ∧ x.core = some core ∧ m.st = .running ∧ (usesAcc = true → f.acc.toNat < m.blocks.length)

/-- The press word completes: the machine is s2, the stream goes on at an address, and the word is counted for its grid (R305). -/
def PressEnds (r : Res) (s2 : State) (sh : Nat) (x : Share) (core : Nat) (spc : Word) : Prop :=
  r = .next ((s2.updStream sh fun m => { m with spc := spc }).updCore core fun k =>
    { k with issued := put k.issued x.grid (getD 0 k.issued x.grid + 1) })

end Sys2Proof.Machine
end

