-- ==== Sys2Proof/Rules.lean ====
section
/-! DEFINITION. The spec's rules as relations between operands and results, and the shapes in which statements about words are
made. A meaning computes; a rule here says what may come out. -/

namespace Sys2Proof.Machine

open Host

/-! ## Shapes -/

/-- Whenever the word issues it completes, and vD of each Active lane then holds a value the rule P allows. -/
def VecOp (i : Instr) (h : Hdr) (d : BitVec 8) (P : Team → Nat → Lane32 → Prop) : Prop :=
  ∀ s t, State.Issues s t i h → VecEnds (exec i s) s t h d (P t)
/-- The same with a result of long latency. -/
def VecLongOp (i : Instr) (h : Hdr) (d : BitVec 8) (P : Team → Nat → Lane32 → Prop) : Prop :=
  ∀ s t, State.Issues s t i h → VecEndsLong (exec i s) s t h d (P t)
/-- The same for a result in the pair vD.d. -/
def PairOp (i : Instr) (h : Hdr) (d : BitVec 8) (P : Team → Nat → Word → Prop) : Prop :=
  ∀ s t, State.Issues s t i h → PairEnds (exec i s) s t h d (P t)
def PairLongOp (i : Instr) (h : Hdr) (d : BitVec 8) (P : Team → Nat → Word → Prop) : Prop :=
  ∀ s t, State.Issues s t i h → ∃ x : Nat → Word, (∀ L ∈ t.act h, P t L (x L)) ∧
    EndsLong (exec i s) s s.cur t ((t.act h).flatMap fun L =>
      [(.v d.toNat, L, ((x L).extractLsb' 0 32).setWidth 64), (.v (d.toNat + 1), L, ((x L).extractLsb' 32 32).setWidth 64)])
/-- The same for a result in kN. -/
def PredOp (i : Instr) (h : Hdr) (k : Nat) (P : Team → Nat → Prop) : Prop :=
  ∀ s t, State.Issues s t i h → PredEnds (exec i s) s t h k fun L b => b = true ↔ P t L
def PredLongOp (i : Instr) (h : Hdr) (k : Nat) (P : Team → Nat → Prop) : Prop :=
  ∀ s t, State.Issues s t i h → PredEndsLong (exec i s) s t h k fun L b => b = true ↔ P t L
/-- A word that acts once for the team: it writes sN when it executes, and does nothing when its guard forbids it (R46). -/
def UniOp (i : Instr) (h : Hdr) (n : Nat) (P : Team → Word → Prop) : Prop :=
  ∀ s t, State.Issues s t i h → if t.executes h then UniEnds (exec i s) s t n (P t) else Ends (exec i s) s s.cur t []

/-- A vector word of a 32-bit result and a predicate, such as a carry. -/
def CarryOp (i : Instr) (h : Hdr) (d : BitVec 8) (k : Nat) (P : Team → Nat → Lane32 → Bool → Prop) : Prop :=
  ∀ s t, State.Issues s t i h → ∃ (x : Nat → Lane32) (c : Nat → Bool), (∀ L ∈ t.act h, P t L (x L) (c L)) ∧
    Ends (exec i s) s s.cur t ((t.act h).flatMap fun L => [(.v d.toNat, L, (x L).setWidth 64), (.k k, L, bit (c L))])

/-! ## Operands (R92, R96, R113) -/

/-- b and c as R92 reads them; a is V[A][L]. -/
def srcB (f : VA) (t : Team) (L : Nat) : Lane32 := if f.fl.getLsbD 0 then (t.rs f.b.toNat).setWidth 32 else t.rv f.b.toNat L
def srcC (f : VA) (t : Team) (L : Nat) : Lane32 := if f.fl.getLsbD 1 then (t.rs f.c.toNat).setWidth 32 else t.rv f.c.toNat L
def srcA (f : VA) (t : Team) (L : Nat) : Lane32 := t.rv f.a.toNat L
/-- Pairs: V.d or the whole of S (R92). -/
def srcAd (f : VA) (t : Team) (L : Nat) : Word := t.rv (f.a.toNat + 1) L ++ t.rv f.a.toNat L
def srcBd (f : VA) (t : Team) (L : Nat) : Word := if f.fl.getLsbD 0 then t.rs f.b.toNat else t.rv (f.b.toNat + 1) L ++ t.rv f.b.toNat L
def srcCd (f : VA) (t : Team) (L : Nat) : Word := if f.fl.getLsbD 1 then t.rs f.c.toNat else t.rv (f.c.toNat + 1) L ++ t.rv f.c.toNat L
/-- Predicates named by a field's low 4 bits. -/
def srcKA (f : VA) (t : Team) (L : Nat) : Bool := t.rk (f.a.toNat % 16) L
def srcKB (f : VA) (t : Team) (L : Nat) : Bool := t.rk (f.b.toNat % 16) L
def srcKC (f : VA) (t : Team) (L : Nat) : Bool := t.rk (f.c.toNat % 16) L
/-- a of a VI word (R96). -/
def srcImmA (f : VI) (t : Team) (L : Nat) : Lane32 := if f.asS then (t.rs (f.a.toNat % 64)).setWidth 32 else t.rv f.a.toNat L
/-- y of a uniform word (R113). -/
def srcY (f : UF) (t : Team) : Word := if f.i then f.imm.signExtend 64 else t.rs f.b.toNat

/-! ## Integer rules -/

/-- An exact sum or difference as a 32-bit result (R95). -/
def SumRule (sat u : Bool) (e : Int) (x : Lane32) : Prop :=
  if sat then asInt u x = if u then max 0 (min e (2 ^ 32 - 1)) else max (-(2 ^ 31)) (min e (2 ^ 31 - 1))
  else (2 ^ 32 : Int) ∣ asInt u x - e

/-- cond of R98. -/
def CondRule (c : Nat) (a b : Int) : Prop :=
  match c with | 0 => a = b | 1 => a ≠ b | 2 => a < b | 3 => a ≤ b | 4 => a > b | _ => a ≥ b

/-- The combination of SUB[5:4] (R98). -/
def CombRule (k : Nat) (c p : Prop) : Prop :=
  match k with | 0 => c | 1 => c ∧ p | 2 => c ∨ p | _ => (c ∧ ¬p) ∨ (¬c ∧ p)

/-- Bit j of LOGIC's table: SUB, SAT, RM[0] from the lowest (R51). -/
def ttBit (f : VA) (j : Nat) : Bool := if j < 6 then f.sub.getLsbD j else if j = 6 then f.sat else f.rm.getLsbD 0

/-- Position and length of a field (R99). -/
def fieldP (b : Lane32) : Nat := min (b.toNat % 256) 32
def fieldN (b : Lane32) : Nat := min (b.toNat / 256 % 256) (32 - fieldP b)

/-- ± x as FL's negation bits say. -/
def signed (neg : Bool) (x : Lane32) : Int := if neg then -(x.toNat : Int) else x.toNat

def ShlRule (a x : Lane32) (n : Nat) : Prop := x.toNat = a.toNat * 2 ^ n % 2 ^ 32
def ShrRule (a x : Lane32) (n : Nat) : Prop := x.toNat = a.toNat / 2 ^ n
def SarRule (a x : Lane32) (n : Nat) : Prop := x.toInt = a.toInt / 2 ^ min n 31
def RotlRule (a x : Lane32) (n : Nat) : Prop := ∀ i < 32, x.getLsbD ((i + n) % 32) = a.getLsbD i

/-! ## Floating-point rules -/

/-- The rational value of ± m × 2^e. -/
def dyadic (neg : Bool) (m : Nat) (e : Int) : ℚ := (if neg then -1 else 1) * m * 2 ^ e

/-- Is the value a NaN? -/
def XVal.isNan : XVal → Bool | .nan _ => true | _ => false

/-- v is the exact sum of a and b, with the zero of R76 under rm (R76, R78). -/
def SumOf (rm : Rnd) (a b v : XVal) : Prop :=
  match a, b with
  | .fin s m i, .fin u n j => ∃ z k l, v = .fin z k l ∧ dyadic z k l = dyadic s m i + dyadic u n j ∧
      (k = 0 → (z = true ↔ if m = 0 ∧ n = 0 ∧ s = u then s = true else rm = .rd))
  | .inf p, .inf q => if p = q then v = .inf p else v = .nan true
  | .inf p, .fin _ _ _ => v = .inf p
  | .fin _ _ _, .inf q => v = .inf q
  | _, _ => v.isNan = true

/-- v is the exact product of a and b (R78). -/
def ProductOf (a b v : XVal) : Prop :=
  match a, b with
  | .fin s m i, .fin u n j => ∃ k l, v = .fin (s != u) k l ∧ dyadic (s != u) k l = dyadic s m i * dyadic u n j
  | .inf p, .inf q => v = .inf (p != q)
  | .inf p, .fin u n _ => if n = 0 then v = .nan true else v = .inf (p != u)
  | .fin s m _, .inf q => if m = 0 then v = .nan true else v = .inf (s != q)
  | _, _ => v.isNan = true

/-- The rounding mode of a code, in the order of R49. -/
def rndOf (c : BitVec 2) : Rnd := if c = 0 then .rne else if c = 1 then .rz else if c = 2 then .ru else .rd

/-- An FP32 operand as a vector float instruction reads it: a sign bit flipped, a subnormal a zero of its sign under FTZ (R75,
R100). -/
def ReadsAs (t : Team) (neg : Bool) (x : Lane32) (v : XVal) : Prop :=
  let y : Lane32 := if neg then x ^^^ 0x80000000 else x
  if t.ftz = true ∧ y.toNat % 2 ^ 31 < 2 ^ 23 then (∃ e, v = .fin y.msb 0 e) else v = decodeNum .fp32 y.toNat

/-- A half of a packed register, its sign flipped when neg is set (R102). -/
def halfOf (f : VA) (neg : Bool) (i : Nat) (x : Lane32) : XVal :=
  let v := decodeNum (if f.t = 1 then .bf16 else .fp16) (x.toNat / 2 ^ (16 * i) % 2 ^ 16)
  if neg then v.neg else v

/-- FMIN and FMAX on operands as read (R101): o is the order that decides, x one of them. -/
def MinMaxRule (isMax ftz : Bool) (a b x : Lane32) : Prop :=
  let fl (y : Lane32) : Lane32 := if ftz = true ∧ y.toNat % 2 ^ 31 < 2 ^ 23 then y &&& 0x80000000 else y
  let nan (y : Lane32) : Prop := 0x7F800000 < y.toNat % 2 ^ 31
  -- the key orders encodings by value, −0 below +0
  let key (y : Lane32) : Int := if y.msb then -1 - (y.toNat % 2 ^ 31 : Nat) else y.toNat
  (nan a ∧ nan b → x = 0x7FC00000) ∧ (nan a ∧ ¬nan b → x = fl b) ∧ (¬nan a ∧ nan b → x = fl a) ∧
    (¬nan a ∧ ¬nan b → (x = fl a ∨ x = fl b) ∧
      key x = if isMax then max (key (fl a)) (key (fl b)) else min (key (fl a)) (key (fl b)))

/-- Order of two finite or infinite values. -/
def xLt : XVal → XVal → Prop
  | .inf a, .inf b => a = true ∧ b = false
  | .inf a, .fin _ _ _ => a = true
  | .fin _ _ _, .inf b => b = false
  | .fin s m i, .fin u n j => dyadic s m i < dyadic u n j
  | _, _ => False

/-- FCMP's condition (R101). -/
def FcondRule (c : Nat) (a b : XVal) : Prop :=
  if a.isNan || b.isNan then c = 1 ∨ c = 7
  else match c with
    | 0 => ¬xLt a b ∧ ¬xLt b a | 1 => xLt a b ∨ xLt b a | 2 => xLt a b | 3 => ¬xLt b a | 4 => xLt b a | 5 => ¬xLt a b
    | 6 => True | _ => False

/-- v is what Round needs of a real r that need not be dyadic: r itself, or a dyadic number strictly between the same neighbours,
with more than 60 bits before them (R73, R103). -/
def StickyOf (r : ℝ) (v : XVal) : Prop :=
  ∃ (z : Bool) (n : Nat) (e : Int), (v = .fin z (2 * n) (e - 1) ∧ r = (if z then -1 else 1) * n * (2 : ℝ) ^ e) ∨
    (v = .fin z (2 * n + 1) (e - 1) ∧ 2 ^ 60 ≤ n ∧ 0 < (if z then -1 else 1) * r ∧ n * (2 : ℝ) ^ e < |r| ∧ |r| < (n + 1) * (2 : ℝ) ^ e)

/-- v is the quotient of a and b for Round (R103, R106). -/
def QuotientOf (a b v : XVal) : Prop :=
  match a, b with
  | .fin s m i, .fin u n j =>
    if n = 0 then (if m = 0 then v = .nan true else v = .inf (s != u))
    else if m = 0 then ∃ e, v = .fin (s != u) 0 e else StickyOf ((dyadic s m i / dyadic u n j : ℚ) : ℝ) v
  | .inf s, .fin u _ _ => v = .inf (s != u)
  | .fin s _ _, .inf u => ∃ e, v = .fin (s != u) 0 e
  | _, _ => v.isNan = true

/-- n times the spacing sp is ± v, v > 0, rounded under a mode: the nearer neighbour, on a tie the even one; that of smaller
magnitude; the greater; the lesser (step 2 of R73). -/
def RoundsTo (rm : Rnd) (s : Bool) (v sp : ℚ) (n : Nat) : Prop :=
  |n * sp - v| < sp ∧ match rm with
    | .rne => 2 * |n * sp - v| ≤ sp ∧ (2 * |n * sp - v| = sp → n % 2 = 0)
    | .rz => n * sp ≤ v
    | .ru => if s then n * sp ≤ v else v ≤ n * sp
    | .rd => if s then v ≤ n * sp else n * sp ≤ v

/-- An overflow is written as the largest finite value, not as an infinity (Table 03-4). -/
def ToMax (f : Fmt) (rm : Rnd) (sat s : Bool) : Prop := sat = true ∨ f = .e4m3 ∨ rm = .rz ∨ (rm = .ru ∧ s = true) ∨ (rm = .rd ∧ s = false)

/-- A conversion to an integer format of n bits (R79). -/
def ToIntRule (n : Nat) (rm : Rnd) (sat : Bool) (a : XVal) (x : Lane32) : Prop :=
  let lo : Int := -(2 ^ (n - 1))
  let hi : Int := 2 ^ (n - 1) - 1
  let out (s : Bool) : Int := if sat then (if s then lo else hi) else lo
  match a with
  | .nan _ => x.toInt = if sat then 0 else lo
  | .inf s => x.toInt = out s
  | .fin s m e => ∃ k : Nat, RoundsTo rm s (dyadic false m e) 1 k ∧
      let i : Int := if s then -(k : Int) else k
      x.toInt = if lo ≤ i ∧ i ≤ hi then i else out s

/-- The value of a TS8 byte, the sum of its two terms (R80). -/
def ts8Of (x : Nat) : ℚ :=
  let term (s : Bool) (c : Nat) : ℚ := if c < 7 then (if s then -1 else 1) / 2 ^ c else 0
  term (x.testBit 7) (x / 16 % 8) + term (x.testBit 3) (x % 8)

/-- A byte is the canonical encoding of its value (R81). -/
def Ts8Canonical (x : Nat) : Prop :=
  let ordered (y : Nat) : Prop := (y.testBit 7 = true ↔ ts8Of y < 0) ∧ y / 16 % 8 ≤ y % 8
  x < 256 ∧ if ts8Of x = 0 then x = 0x77 else ordered x ∧ (x % 8 = 7 → x.testBit 3 = false) ∧
    ∀ y < 256, ordered y → ts8Of y = ts8Of x → (y % 8 = 7 → x % 8 = 7) ∧ (x % 8 ≠ 7 → x / 16 % 8 ≤ y / 16 % 8)

/-- A conversion to TS8 (R82): to the candidate that the mode names, with the limits ±2 and a zero for a NaN. -/
def ToTs8Rule (rm : Rnd) (a : XVal) (x : Lane32) : Prop :=
  match a with
  | .nan _ => x = 0x77
  | .inf s => x = if s then 0x88 else 0x00
  | .fin s m e =>
    let v := dyadic s m e
    let w := ts8Of x.toNat
    if 2 < |v| then x = (if s then 0x88 else 0x00) else Ts8Canonical x.toNat ∧ match rm with
      | .rne => ∀ y < 256, |w - v| ≤ |ts8Of y - v| ∧ (|w - v| = |ts8Of y - v| → |w| ≤ |ts8Of y|)
      | .rz => 0 ≤ w * v ∧ |w| ≤ |v| ∧ ∀ y < 256, |ts8Of y| ≤ |v| → |ts8Of y| ≤ |w|
      | .ru => v ≤ w ∧ ∀ y < 256, v ≤ ts8Of y → w ≤ ts8Of y
      | .rd => w ≤ v ∧ ∀ y < 256, ts8Of y ≤ v → ts8Of y ≤ w

/-- E2 of R91 into a format: NaN and the two ends, else the straight line of a segment between 2^(seg/64) and 2^((seg+1)/64), its
constants and its point rounded to FP32, times 2^xi, rounded with saturation. -/
def E2Rule (x : XVal) (dest : Fmt) (r : Lane32) : Prop :=
  let zero : Lane32 := if dest = .ts8 then 0x77 else 0
  let top : Lane32 := if dest = .ts8 then 0 else BitVec.ofNat 32 (maxEnc dest)
  let rounded (y : ℝ) (c : Lane32) : Prop := ∃ v, StickyOf y v ∧ c = (round .fp32 .rne false false v).enc
  match x with
  | .nan _ => r = BitVec.ofNat 32 (nanEnc dest)
  | .inf s => r = if s then zero else top
  | .fin s m e =>
    let v := dyadic s m e
    (v < -126 → r = zero) ∧ (127 < v → r = top) ∧ (-126 ≤ v → v ≤ 127 → ∃ (xi : Int) (seg tm : Nat) (te : Int) (c0 c1 : Lane32) (p q : XVal),
      (xi : ℚ) ≤ v ∧ v < xi + 1 ∧ (seg : ℚ) ≤ 64 * (v - xi) ∧ 64 * (v - xi) < seg + 1 ∧ dyadic false tm te = 64 * (v - xi) - seg ∧
      rounded ((2 : ℝ) ^ ((seg : ℝ) / 64)) c0 ∧ rounded ((2 : ℝ) ^ (((seg : ℝ) + 1) / 64) - (2 : ℝ) ^ ((seg : ℝ) / 64)) c1 ∧
      ProductOf (decodeNum .fp32 c1.toNat) (.fin false tm te) p ∧ SumOf .rne p (decodeNum .fp32 c0.toNat) q ∧
      ∃ z k l, decodeNum .fp32 (round .fp32 .rne false false q).enc.toNat = .fin z k l ∧ r = (round dest .rne true false (.fin z k (l + xi))).enc)

/-! ## Lane rules -/

/-- Lane L is in Active (R19). -/
abbrev Team.InActive (t : Team) (h : Hdr) (L : Nat) : Prop := (t.lanesFor h).getLsbD L = true

/-- SHFL's lane j (R109). -/
def shflJ (mode l n : Nat) : Int :=
  match mode with | 0 => (n % 32 : Nat) | 1 => (l : Int) - n | 2 => (l : Int) + n | _ => (Nat.xor l (n % 32) : Nat)

/-- One node's value from its children's (R90). -/
def node (op : Lane32 → Lane32 → Lane32) : Option Lane32 → Option Lane32 → Option Lane32
  | some a, some b => some (op a b)
  | some a, none => some a
  | none, b => b

/-- Node j of level k of the tree over given leaves (R90). -/
def treeNode (op : Lane32 → Lane32 → Lane32) (leaf : Nat → Option Lane32) : Nat → Nat → Option Lane32
  | 0, j => leaf j
  | k + 1, j => node op (treeNode op leaf k (2 * j)) (treeNode op leaf k (2 * j + 1))

/-- x is op of a and b under a reduction word: its FP32 and integer operations (R112). -/
def ReduceRule (t : Team) (f : VA) (a b x : Lane32) : Prop :=
  let u := f.sub.getLsbD 3
  if f.t = 0 then
    match f.sub.toNat % 8 with
    | 0 => ∃ p q v, ReadsAs t false a p ∧ ReadsAs t false b q ∧ SumOf (rndOf f.rm) p q v ∧ x = (round .fp32 (rndOf f.rm) f.sat t.ftz v).enc
    | 1 => MinMaxRule false t.ftz a b x
    | _ => MinMaxRule true t.ftz a b x
  else match f.sub.toNat % 8 with
    | 0 => SumRule f.sat u (asInt u a + asInt u b) x
    | 1 => asInt u x = min (asInt u a) (asInt u b)
    | 2 => asInt u x = max (asInt u a) (asInt u b)
    | 3 => ∀ i < 32, x.getLsbD i = (a.getLsbD i && b.getLsbD i)
    | 4 => ∀ i < 32, x.getLsbD i = (a.getLsbD i || b.getLsbD i)
    | _ => ∀ i < 32, x.getLsbD i = (a.getLsbD i ^^ b.getLsbD i)

/-- Lane L's value where it is in Active (R90). -/
def leafOf (f : VA) (t : Team) (h : Hdr) (L : Nat) : Option Lane32 := if (t.lanesFor h).getLsbD L then some (srcA f t L) else none

/-- The identity that `.excl` gives the first Active lane (R112). -/
def IdentityRule (f : VA) (x : Lane32) : Prop :=
  let u := f.sub.getLsbD 3
  if f.t = 0 then x = (match f.sub.toNat % 8 with | 0 => 0 | 1 => 0x7F800000 | _ => 0xFF800000)
  else x = match f.sub.toNat % 8 with
    | 0 => 0 | 1 => (if u then 0xFFFFFFFF else 0x7FFFFFFF) | 2 => (if u then 0 else 0x80000000) | 3 => 0xFFFFFFFF | _ => 0

/-! ## Control rules -/

/-- cond of R118 in a lane. -/
def laneCond (f : BF) (t : Team) (L : Nat) : Bool := t.rk f.pk.toNat L != f.pinv

/-- The condition of BRA, BRX, CALL and RET has the value b: an s register compared with zero, or a predicate that every active
lane holds alike (R115, R116). -/
def CondIs (f : BF) (t : Team) (b : Bool) : Prop :=
  if f.sub = 1 then b = ((t.rs f.sreg.toNat != 0) != f.pinv)
  else t.active ≠ 0 ∧ ∀ L, t.active.getLsbD L = true → L < t.lanes ∧ laneCond f t L = b

/-- The predicate differs between two active lanes (R116). -/
def CondDivergent (f : BF) (t : Team) : Prop :=
  f.sub ≠ 1 ∧ ∃ L M, L < t.lanes ∧ M < t.lanes ∧ t.active.getLsbD L = true ∧ t.active.getLsbD M = true ∧ laneCond f t L = true ∧ laneCond f t M = false

/-- A target: PC + 8 × Sext(OFF, 32) (R115). -/
def branchDest (f : BF) (t : Team) : Word := t.pc + 8 * f.off.signExtend 64

/-- The team's active lanes exist. -/
def Team.ActiveExists (t : Team) : Prop := ∀ L, t.active.getLsbD L = true → L < t.lanes

/-- A pop to n entries stays at or above the depth of an open region (R170). -/
def Team.DeepEnough (t : Team) (n : Nat) : Prop := ∀ r, t.tryR = some r → r.depth ≤ n

/-- A mask is the lanes of m that satisfy p. -/
def IsLanes (x m : Mask) (p : Nat → Bool) : Prop := ∀ L < 1024, x.getLsbD L = (m.getLsbD L && p L)

/-- The word leaves the team with a mask stack, an active and a live mask: behind the word while a lane is active, else where
Reconverge leads, which pops the CALL entries on top and stops at an IF, ELSE or CONT entry (R118, R119). -/
def Leaves (r : Res) (s : State) (t : Team) (masks : List StackEntry) (m live : Mask) : Prop :=
  (m ≠ 0 → t.DeepEnough masks.length → Ends r s s.cur { t with masks := masks, active := m, live := live } []) ∧
  ∀ calls e es, m = 0 → masks = calls ++ e :: es → (∀ c ∈ calls, c.kind = .callE) → (e.kind = .ifE ∨ e.kind = .elseE ∨ e.kind = .contE) →
    t.DeepEnough (es.length + 1) → Jumps r s s.cur { t with masks := e :: es, active := m, live := live } e.addr

/-! ## Results with parts still to come, and places of an access -/

/-- t' has the registers of t, and at each place that the parts name waits for them and for nothing else (R54). -/
def Team.Awaits (t t' : Team) (ps : List Part) : Prop :=
  ∀ r L, r.place L → t'.endVal r L = t.endVal r L ∧
    t'.dueParts r L = match ps.filter fun q => q.reg == r && q.lane == L with | [] => t.dueParts r L | q :: qs => q :: qs

/-- The word completes: the machine is s2, in which the team t waits for parts and has gone on. -/
def EndsParts (r : Res) (s2 : State) (tk : Nat) (t : Team) (ps : List Part) : Prop :=
  ∃ t', r = .next (s2.setTeam tk t') ∧ t.Kept t' ∧ t.Next t' ∧ t.Awaits t' ps

/-- The word waits: nothing but the team's place in issue changes; a word that has parked under R37 has read its guard (R37, R52). -/
def Parks (r : Res) (s2 : State) (tk : Nat) (t : Team) (c : Cond) : Prop :=
  r = .next (s2.setTeam tk { t with run := .parked c, admitted := c.stalls && t.admitted, inSlot := c.stalls && t.inSlot,
                                    latch := if c.reads && t.word.isSome then some (t.latch.getD []) else t.latch })

/-- The addresses of R122. -/
def addrGlobal (f : MF) (t : Team) (L : Nat) : Word := (t.rv (f.addr.toNat + 1) L ++ t.rv f.addr.toNat L : Word) + t.rs f.sb.toNat + f.off.signExtend 64
def addrScratch (f : MF) (t : Team) (L : Nat) : Nat := (t.rv f.addr.toNat L + (t.rs f.sb.toNat).setWidth 32 + f.off.signExtend 32).toNat
def addrUniform (f : MF) (t : Team) : Word := t.rs f.sb.toNat + f.off.signExtend 64

/-- SplitAllowed of a load or a store (R124). -/
def splitOk (f : MF) : Bool := f.ord == 0 && f.size != 0

/-- The addresses of the bytes of a checked access, in order. -/
def pieceBytes (ps : List Piece) : List Nat := ps.flatMap fun p => (List.range p.len).map fun i => p.addr + i

/-- The low 8n bits of the data registers of a lane (R127). -/
def storedData (t : Team) (n d L : Nat) : List Byte := (List.range n).map fun i => (t.rv (d + i / 4) L).extractLsb' (8 * (i % 4)) 8

def Src.isKnown : Src → Bool | .known _ => true | .await _ _ => false

/-- What a load of a scratchpad writes from n bytes at a place: one register, or one for each 4 bytes (R127). -/
def spLoads (s : State) (f : MF) (n : Nat) (L sh off : Nat) : List (RegId × Nat × Word) :=
  if n ≤ 4 then [(.v f.data.toNat, L, if f.sx then BitVec.ofInt 64 (sext (s.spNat sh off n) (8 * n)) else BitVec.ofNat 64 (s.spNat sh off n))]
  else (List.range (n / 4)).map fun i => (.v (f.data.toNat + i), L, BitVec.ofNat 64 (s.spNat sh (off + 4 * i) 4))

/-- s' differs from s in scratchpad bytes alone: those that w names hold its values, every other byte stays. -/
def StoresSp (s s' : State) (w : Nat → Nat → Option Byte) : Prop :=
  s' = { s with shares := s'.shares } ∧ (∀ sh, (s'.share sh).map (fun x => { x with sp := [] }) = (s.share sh).map fun x => { x with sp := [] }) ∧
    ∀ sh off, (s.share sh).isSome → s'.spByte sh off = (w sh off).getD (s.spByte sh off)

/-- The byte that the last of several accesses leaves at a place of a share: each has a lane, share, offset and bytes. -/
def lastSp (ls : List (Nat × Nat × Nat)) (data : Nat → List Byte) (sh off : Nat) : Option Byte :=
  (ls.reverse.find? fun x => x.2.1 == sh && decide (x.2.2 ≤ off) && decide (off < x.2.2 + (data x.1).length)).map fun x => (data x.1).getD (off - x.2.2) 0

/-- The new value of an atomic operation, 0 to 7 of R134 and 8 for CAS, on n bytes (R134, R135). -/
def AtomicRule (op n : Nat) (sx : Bool) (old a b new : Nat) : Prop :=
  match op with
  | 0 => new = (old + a) % 2 ^ (8 * n)
  | 1 => ∃ v, SumOf .rne (decodeNum .fp32 old) (decodeNum .fp32 a) v ∧ new = (round .fp32 .rne false false v).enc.toNat
  | 2 => (new = old ∨ new = a) ∧ if sx then sext new (8 * n) = min (sext old (8 * n)) (sext a (8 * n)) else new = min old a
  | 3 => (new = old ∨ new = a) ∧ if sx then sext new (8 * n) = max (sext old (8 * n)) (sext a (8 * n)) else new = max old a
  | 4 => ∀ i, new.testBit i = (old.testBit i && a.testBit i)
  | 5 => ∀ i, new.testBit i = (old.testBit i || a.testBit i)
  | 6 => ∀ i, new.testBit i = (old.testBit i ^^ a.testBit i)
  | 7 => new = a
  | _ => new = if old = a then b else old

/-- The operands of a lane's atomic: a 32- or 64-bit value, or with CAS a compare value and a new one (R135). -/
def atomicArgs (t : Team) (f : MF) (op L : Nat) : Nat × Nat :=
  let d := f.data.toNat
  if f.size = 3 then ((t.rv (d + 1) L ++ t.rv d L : Word).toNat, if op = 8 then (t.rv (d + 3) L ++ t.rv (d + 2) L : Word).toNat else 0)
  else ((t.rv d L).toNat % 2 ^ (8 * sizeBytes f.size), if op = 8 then (t.rv (d + 1) L).toNat % 2 ^ (8 * sizeBytes f.size) else 0)

/-- Scratchpad atomics of lanes one after another: the machine, and each lane's old value (R135, R136). -/
def spAtomics (t : Team) (f : MF) (op : Nat) : State → List (Nat × Nat × Nat) → State × List Nat
  | s, [] => (s, [])
  | s, x :: xs =>
    let n := sizeBytes f.size
    let old := s.spNat x.2.1 x.2.2 n
    let r := spAtomics t f op (s.setSpBytes x.2.1 x.2.2 (bytesOf n (atomNew op n f.sx old (atomicArgs t f op x.1).1 (atomicArgs t f op x.1).2))) xs
    (r.1, old :: r.2)

/-- Operations on the bytes of a sector one after another: the bytes at last, and the old value that each finds (R135). -/
def atomSeq : List Byte → List AtomOp → List Byte × List Nat
  | bs, [] => (bs, [])
  | bs, o :: os =>
    let old := natOfBytes ((bs.drop o.off).take o.size)
    let new := bytesOf o.size (atomNew o.op o.size o.sx old o.a o.b)
    let r := atomSeq ((List.range 32).map fun i => if o.off ≤ i ∧ i < o.off + o.size then new.getD (i - o.off) 0 else bs.getD i 0) os
    (r.1, old :: r.2)

/-- Old values as register results. -/
def oldParts (f : MF) (ls : List Nat) (olds : List Nat) : List Part :=
  (ls.zip olds).flatMap fun y => loadParts f.data.toNat (sizeBytes f.size) false y.1 ((bytesOf (sizeBytes f.size) y.2).map .known)

/-- Global atomics sector by sector: performed where the package holds the sector writable, requested elsewhere; the machine, the
register results, and whether some were requested (R135, R136). -/
def globalAtomics (tk : Nat) (t : Team) (f : MF) (op : Nat) (ret : Bool) (flat : List (Nat × Word × Piece)) : State → List Nat → State × List Part × Bool
  | s, [] => (s, [], false)
  | s, key :: keys =>
    let n := sizeBytes f.size
    let mine := flat.filter fun x => x.2.2.addr / 32 == key
    let ops := mine.map fun x => (⟨x.1, x.2.2.addr % 32, n, op, f.sx, (atomicArgs t f op x.1).1, (atomicArgs t f op x.1).2⟩ : AtomOp)
    match s.atomicHere (coreOf tk) key ops with
    | some (s', olds) =>
      let r := globalAtomics tk t f op ret flat (s'.noteWrite (some tk) (mine.map fun x => .glob x.2.2.addr)) keys
      (r.1, oldParts f (mine.map (·.1)) olds ++ r.2.1, r.2.2)
    | none =>
      let w : Issuer := { tk := tk, serial := t.serial, addr := t.here, lanes := mine.map fun x => (x.1, x.2.1), leaf := mine.head?.map fun x => x.2.2.leaf }
      let r := globalAtomics tk t f op ret flat
        ((s.addRequest (coreOf tk) key (BitVec.allOnes 32) (.atomic ops ret) w []).post (pkgOf (coreOf tk)) s.fresh) keys
      (r.1, mine.zipIdx.flatMap (fun y => loadParts f.data.toNat n false y.1.1 ((List.range n).map fun i => .await s.fresh (8 * y.2 + i))) ++ r.2.1, true)

/-! ## Copies, synchronisation and regions -/

/-- The word completes in the machine X, whatever X holds of its team, which goes on there. -/
def EndsIn (r : Res) (X : State) (tk : Nat) (ws : List (RegId × Nat × Word)) : Prop := ∃ u, X.team tk = some u ∧ Ends r X tk u ws

/-- A lock of an earlier transfer stands in the way of one of some locks, by core (R139). -/
def LockInWay (s : State) (x : Nat) (ls : List (Nat × Lock)) : Prop :=
  ∃ a ∈ ls, ∃ b ∈ (s.core a.1).locks, b.xfer < x ∧ b.ctx = a.2.ctx ∧ b.sh = a.2.sh ∧ (a.2.lo < b.hi ∧ b.lo < a.2.hi) ∧
    (a.2.write = true ∨ b.write = true)

/-- The word registers a transfer under the next fresh number, with locks by core, places its reads, and adds it to the team's forming
batch; it waits where an earlier transfer's lock is in its way (R137, R139, R150, R339). -/
def Registers (r : Res) (s : State) (tk : Nat) (t : Team) (e : Xfer) (ls : List (Nat × Lock)) : Prop :=
  ∃ w, (w = true ↔ LockInWay s s.fresh ls) ∧
    Ends r (({ ls.foldl (fun s l => s.updCore l.1 fun k => { k with locks := k.locks ++ [l.2] }) s.bump with
      xfers := put s.xfers s.fresh { e with waits := w } } : State).placeReads s.fresh) tk { t with forming := t.forming ++ [s.fresh], formed := true } []

/-- Every core's table has room for its entries among the locks (R137). -/
def LockRoom (s : State) (ls : List (Nat × Lock)) : Prop :=
  ∀ c ∈ ls.map (·.1), (s.core c).locks.length + (ls.filter fun l => l.1 == c).length ≤ 64

/-- The bell a copy word names (R141). -/
def copyBell (f : SF) : Option Nat := if f.imm.getLsbD 4 then some (f.imm.toNat % 16) else none

/-- The word's release at a scope is done at once: the team's earlier accesses are performed and, at SYSTEM scope, no posted request is
unacknowledged; s2 is the machine behind it (R225, R348). -/
def Released (s : State) (tk : Nat) (t : Team) (sc : Nat) (s2 : State) : Prop :=
  s.quiet tk t.serial = true ∧ s2 = s.release (coreOf tk) sc ∧
    (sc < 5 ∨ sc = 5 ∧ t.relWait = none ∧ (s2.pkg (pkgOfTeam tk)).posted = [])

/-- A word has read n bytes of a record at a virtual address as a checked load before it acts: s2 is the machine behind, a the record's
place. On a STRONG page it reads at the SYSTEM point, as FENCE.ar before and after itself (R145, R234). -/
def RecordRead (s : State) (tk : Nat) (t : Team) (va : Word) (n : Nat) (write lockCheck : Bool) (s2 : State) (a : Nat) (bs : List Byte) : Prop :=
  t.lostRead = false ∧ ∃ s1 ps, s.checkGlobal (coreOf tk) t.ctx va n write false false lockCheck = (s1, .ok ps) ∧ a = (ps.head?).elim 0 (·.addr) ∧
    ((∀ p ∈ ps, p.leaf.ord ≠ 1) → s1.readNow (coreOf tk) t 0 a n = (s2, .ok bs)) ∧
    ((∃ p ∈ ps, p.leaf.ord = 1) → ∃ s3 s4, Released s1 tk t 5 s3 ∧ (s3.acquire (coreOf tk) 5).readNow (coreOf tk) t 5 a n = (s4, .ok bs) ∧
      s2 = s4.acquire (coreOf tk) 5)

/-- The word aborts the open region of its team, once every outstanding result has returned: the team continues as an abort leaves it,
its reports under way have met the region open, GAP and GIVE are noted where its clause ends, and a team that issues or waits for
admission keeps its place (R171, R290, R308 to R310). -/
def Aborts (r : Res) (s : State) (tk : Nat) (t : Team) (code user : Nat) : Prop :=
  let u := if t.word = some t.hdr.n.toNat then { t with gapUntil := s.now + 1 + t.hdr.gap.toNat, giveMark := t.giveMark || t.hdr.give } else t
  t.run = .running →
  ((∃ o ∈ t.outst, o.parts ≠ []) → r = .next (s.setTeam tk { u with
    run := .aborting code user, latch := none, brought := [], fails := [], inSlot := false })) ∧
  ((∀ o ∈ t.outst, o.parts = []) →
    let s2 : State := { s with reports := s.reports.filter fun x => !(x.tk == tk && x.serial == t.serial) }
    r = .next (s2.setTeam tk { u.abortTry code user with cause := {}, readyAt := s.now }))

/-- Arrive of R159: the count, and at EXPECTED the next phase. -/
def ArriveRule (w x : BarWord) (drop : Bool) : Prop :=
  let d := if drop then w.drops + 1 else w.drops
  if w.arrived + 1 < w.expected then x = ⟨w.expected, w.arrived + 1, d, w.phase⟩ else x = ⟨w.expected - d, 0, 0, !w.phase⟩

/-- BellArrive of R163. -/
def BellRule (b x : Bell) : Prop :=
  if b.count + 1 < b.expect then x = { b with count := b.count + 1 } else x = ⟨b.expect, b.count + 1 - b.expect, !b.phase⟩

/-- The records of map addresses pass their checks, the package holds their sectors or a request has brought them, and their lines are
settled, with no request or page change in the way (R187, R254). -/
def MapsOk (s : State) (tk : Nat) (t : Team) (vas : List Word) (write : Bool) (s' : State) (as : List Nat) : Prop :=
  t.lostRead = false ∧ ∃ s1 ps, s.checkMaps tk t vas write = (s1, .ok ps) ∧ (∀ x ∈ ps, s1.unreached tk t x write = []) ∧
    as = ps.map (·.addr) ∧ s1.settleMap tk as = (s', none)

/-- A span word is done: records are written, an s register waits for a number, and the acquire follows (R187). -/
def SpanEnds (r : Res) (s : State) (tk : Nat) (t : Team) (sc : Nat) (ws : List (Nat × Nat)) (res : Option (Nat × Nat)) : Prop :=
  let s2 := ws.foldl (fun s w => (s.sysWriteBytes (pkgOfTeam tk) w.1 (bytesOf 64 w.2)).1) s
  let s2 := s2.dropRecords (coreOf tk) sc (ws.map (·.1))
  let u := match res with | some (n, x) => t.longS n (BitVec.ofNat 64 x) | none => t
  Ends r ((s2.setTeam tk u).acquire (coreOf tk) sc) tk u []

/-! ## Reeves -/

/-- The word's handle is FROZEN on team k, which stands still (R181). -/
def OnFrozen (s : State) (t : Team) (f : FF) (k : Nat) (ft : Team) : Prop :=
  f.hnd = 0 ∧ t.h0 = .frozen k ∧ k ≠ s.cur ∧ s.team k = some ft ∧ ft.stepping = none ∧ ft.settled = true

/-- What FRD reads of a frozen team in a lane, by FILE and IMM (Table 06-14). -/
def frdLaneRule (s : State) (t ft : Team) (f : FF) (l : Nat) : Word :=
  let lane := ft.cause.lanes.find? fun c => c.lane == l
  if f.file = 0 then (if f.treg.toNat < ft.allot then (ft.rv f.treg.toNat l).setWidth 64 else 0)
  else if f.file = 2 then bit (ft.rk f.treg.toNat l)
  else if f.file = 3 then bit (if f.imm = 1 then ft.live.getLsbD l else ft.active.getLsbD l)
  else if f.file = 5 then (if f.imm = 0 then BitVec.ofNat 64 (lane.elim 0 fun c => c.cause.code) else lane.elim 0 fun c => c.ea)
  else if l < 128 then (s.accElem t.share (f.imm.toNat % 32) (128 * (f.imm.toNat / 32 % 128) + l)).setWidth 64 else 0

/-- What an FRD that answers once reads (Table 06-14). -/
def frdOnceRule (s : State) (ft : Team) (f : FF) : Word :=
  if f.file = 1 then ft.rs f.treg.toNat
  else if f.file = 3 then (if f.imm = 0 then ft.pc else BitVec.ofNat 64 ft.masks.length)
  else if f.file = 4 then (if f.imm = 0 then ft.trystat else s.cstat ft)
  else BitVec.ofNat 64 ft.cause.word

/-! ## Acquires behind a word, stops, and objects in scratchpad -/

/-- The word completes, and acquires at a scope behind its effect: the machine is X with the team t (R226). -/
def EndsAcq (r : Res) (X : State) (tk : Nat) (t : Team) (sc : Nat) : Prop := Ends r ((X.setTeam tk t).acquire (coreOf tk) sc) tk t []

/-- The same for a word with results of long latency. -/
def EndsLongAcq (r : Res) (X : State) (tk : Nat) (t : Team) (ws : List (RegId × Nat × Word)) (sc : Nat) : Prop :=
  ∃ t1, t.Kept t1 ∧ t.WroteLong t1 ws ∧ t1.pc = t.pc ∧ t1.word = t.word ∧ EndsAcq r X tk t1 sc

/-- The word faults in the machine s1 at an effective address (R280 to R282). -/
def FreezesAt (r : Res) (s1 : State) (tk : Nat) (t : Team) (h : Hdr) (c : Cause) (sub : Nat) (ea : Word) : Prop :=
  r = .next (s1.freezeTeam tk t h c sub ea)

/-- The offset that an S word's barrier operand names (R157). -/
def barAddr (f : SF) (t : Team) : Nat := ((t.rs f.s1.toNat).setWidth 32 + f.imm.setWidth 32 : Lane32).toNat

/-- Bell n of a share's stream is b. -/
def State.setBell (s : State) (sh n : Nat) (b : Bell) : State :=
  s.updShare sh fun x => { x with stream := x.stream.map fun m => { m with bells := m.bells.set n b } }

/-- The bytes of a range of a transfer: global bytes by their pages, or a share's. -/
def rngLocs (sp : Option (Nat × Nat)) (lv : List (Word × Leaf)) (va : Word) (n : Nat) : List Loc :=
  (List.range n).map fun i => match sp with | some (sh, off) => .sp sh (off + i) | none => placeOf lv (va + BitVec.ofNat 64 i)

/-- Its lock: in the core's own table for a global range, in the table of the scratchpad's core for a share's (R137). -/
def rngLock (s : State) (tk : Nat) (t : Team) (x : Nat) (write : Bool) (sp : Option (Nat × Nat)) (va : Word) (n : Nat) : Nat × Lock :=
  match sp with
  | some (sh, off) => (((s.share sh).bind (·.core)).getD (coreOf tk), { xfer := x, write := write, ctx := none, sh := sh, lo := off, hi := off + n })
  | none => (coreOf tk, { xfer := x, write := write, ctx := some t.ctx, sh := 0, lo := va.toNat, hi := va.toNat + n })

/-- A span word of map m has checked the header at its address a and released; s2 is the machine behind it (R187). -/
def SpanStarts (s : State) (tk : Nat) (t : Team) (m : Word) (write : Bool) (sc : Nat) (s2 : State) (a : Nat) : Prop :=
  ∃ s1, MapsOk s tk t [m] write s1 [a] ∧ Released s1 tk t sc s2

/-- The entries of blocks at checked addresses: block, address and record. -/
def entriesOf (s : State) (tk : Nat) (bs as : List Nat) : List (Nat × Nat × Nat) :=
  (bs.zip as).map fun x => (x.1, x.2, s.record (pkgOfTeam tk) x.2)

/-- The lanes that a cause record names. -/
def CauseRec.Names (r : CauseRec) (m : Mask) : Prop := ∀ L < 1024, (m.getLsbD L = true ↔ ∃ c ∈ r.lanes, c.lane = L)

/-- No waiting list names a team, and no other handle does (R181). -/
def State.Unnamed (s : State) (k : Nat) : Prop :=
  (∀ c, Handle.frozen k ∉ (s.core c).waiting ∧ Handle.frozen k ∉ (s.core c).held) ∧ ∀ tk u, s.team tk = some u → u.h0 ≠ .frozen k

/-! ## Press -/

/-- A press word selects row i and column j (R198). -/
def selects (f : PF) (i j : Nat) : Prop := i < 128 ∧ j < 128 ∧ f.mmask.getLsbD (i / 16) = true ∧ f.nmask.getLsbD (j / 16) = true

/-- The machine in which the word's block is b. -/
def State.withBlock (s : State) (f : PF) (b : Block) : State := s.updStream s.cur fun m => { m with blocks := m.blocks.set f.acc.toNat b }

/-- A team without what its open region's footprints hold. -/
def Team.unfooted (t : Team) : Team := { t with tryR := t.tryR.map fun (r : TryRegion) => { r with foot := [] } }

/-- X differs from s in bytes of one share's scratchpad, those that w names, and in the footprints that note the writes (R172). -/
def State.PressStores (s X : State) (sh : Nat) (w : Nat → Option Byte) : Prop :=
  X = { s with shares := X.shares, teams := X.teams } ∧ (∀ q, q ≠ sh → X.share q = s.share q) ∧
    (X.share sh).map (fun y => { y with sp := [] }) = (s.share sh).map (fun y => { y with sp := [] }) ∧
    (∀ off, X.spByte sh off = (w off).getD (s.spByte sh off)) ∧
    ∀ tk, (X.team tk).map Team.unfooted = (s.team tk).map Team.unfooted

/-- v is the exact sum of 32 products, +0 where it is zero (R88). -/
def DotRule (a b : Nat → XVal) (v : XVal) : Prop :=
  ∃ p acc : Nat → XVal, acc 0 = .fin false 0 0 ∧ (∀ k < 32, ProductOf (a k) (b k) (p k) ∧ SumOf .rne (acc k) (p k) (acc (k + 1))) ∧
    ((∃ z e, acc 32 = .fin z 0 e) → v = .fin false 0 0) ∧ ((∀ z e, acc 32 ≠ .fin z 0 e) → v = acc 32)

/-- One element of a multiplication: a float block rounds once, an integer block saturates (R88, R89). -/
def MulRule (isInt : Bool) (a b : Nat → XVal) (old new : Lane32) (clipped : Prop) : Prop :=
  if isInt then ∃ x y : Nat → Int, (∀ k < 32, a k = XVal.ofInt (x k) ∧ b k = XVal.ofInt (y k)) ∧
      let e := old.toInt + ((List.range 32).map fun k => x k * y k).sum
      new.toInt = max (-(2 ^ 31)) (min e (2 ^ 31 - 1)) ∧ (clipped ↔ new.toInt ≠ e)
  else ¬clipped ∧ ∃ v w, DotRule a b v ∧ SumOf .rne (decodeNum .fp32 old.toNat) v w ∧ new = (round .fp32 .rne false false w).enc

/-- The argument of PEXP: the element less the row's bias, times the scale, rounded once to FP32; −∞ where the bias is −∞ (R205). -/
def PexpArg (acc bias scale : Lane32) (x : XVal) : Prop :=
  if bias = 0xFF800000 then x = .inf true
  else ∃ d w, SumOf .rne (decodeNum .fp32 acc.toNat) (decodeNum .fp32 bias.toNat).neg d ∧ ProductOf d (decodeNum .fp32 scale.toNat) w ∧
    x = decodeNum .fp32 (round .fp32 .rne false false w).enc.toNat

/-- x is the greatest of a block's words (R206, R214): of the block's type, the least value where there is none; a NaN gives way to a
number, and with NaNs alone the result is the canonical one (R101). -/
def GreatestOf (isInt : Bool) (ws : List Lane32) (x : Lane32) : Prop :=
  let num (w : Lane32) : Prop := isInt = true ∨ (decodeNum .fp32 w.toNat).isNan = false
  let below (w : Lane32) : Prop := if isInt then x.toInt < w.toInt else xLt (decodeNum .fp32 x.toNat) (decodeNum .fp32 w.toNat)
  (ws = [] → x = if isInt then 0x80000000 else 0xFF800000) ∧
    ((∃ w ∈ ws, num w) → x ∈ ws ∧ num x ∧ ∀ w ∈ ws, num w → ¬below w) ∧
    (ws ≠ [] → (∀ w ∈ ws, ¬num w) → x = 0x7FC00000)

/-! ## Cellar dies and packages -/

/-- A frame's tag as a word, with the set's MRU in bit 46 (Table 10-4). -/
def TagRule (t : Tag) (mru : Bool) (w : Word) : Prop :=
  (w.extractLsb' 0 40).toNat = t.gpn % 2 ^ 40 ∧ (w.extractLsb' 40 3).toNat = t.state.code ∧ w.getLsbD 43 = t.pinned ∧
    w.getLsbD 44 = t.twin ∧ w.getLsbD 45 = false ∧ w.getLsbD 46 = mru ∧ w.extractLsb' 47 17 = 0

/-- ECC status of a granule before a read: 0 CLEAN, 1 CORRECTED, 2 POISON (R271, R275). -/
def EccRule (k : Pkg) (g : Nat) (e : BitVec 2) : Prop :=
  if (find k.poison g).isSome then e = 2
  else match find k.symErr g with
  | some n => e = if n < 64 then 1 else 2
  | none => e = 0

/-- A command of an opcode runs on a package that is READY (R361). -/
def State.Commands (s : State) (p op : Nat) : Prop := (s.pkg p).cmdOp = some (BitVec.ofNat 8 op) ∧ (s.pkg p).busy = true ∧ (s.pkg p).stage = 6

/-- The command ends: the machine is X with RESULT written, VALUE 0, BUSY clear and vector 0 raised (R361). -/
def CmdEnds (r : Res) (X : State) (p res : Nat) : Prop :=
  r = .next (X.updPkg p fun k => ({ k with cmdResult := BitVec.ofNat 8 res, cmdValue := 0, busy := false, cmdOp := none } : Pkg).raiseVec 0)

/-- A TLB entry maps a byte of a range of a context; a length of 0 is the whole context (R362). -/
def TlbIn (ctx lo n : Nat) (e : TlbEnt) : Prop := e.ctx = ctx ∧ (n = 0 ∨ 65536 * e.vpage < lo + n ∧ lo < 65536 * (e.vpage + 2 ^ e.log))

/-- X has the machine s without the translations of a range, in both TLB levels of every package, and without failed walks of it (R246). -/
def TlbDrops (s X : State) (ctx lo n : Nat) : Prop :=
  X = { s with cores := X.cores, pkgs := X.pkgs, teams := X.teams } ∧
    (∀ tk, (X.team tk).map (fun t => { t with fails := [] }) = (s.team tk).map fun t => { t with fails := [] }) ∧
    (∀ c, X.core c = { s.core c with tlb := (X.core c).tlb } ∧ ∀ e, e ∈ (X.core c).tlb ↔ e ∈ (s.core c).tlb ∧ ¬TlbIn ctx lo n e) ∧
    ∀ q, X.pkg q = { s.pkg q with tlb2 := (X.pkg q).tlb2, walkFail := (X.pkg q).walkFail } ∧
      ∀ e, e ∈ (X.pkg q).tlb2 ↔ e ∈ (s.pkg q).tlb2 ∧ ¬TlbIn ctx lo n e

/-- A context record passes its checks, and what it says (R363, Table 20-5). -/
def CtxRule (bs : List Byte) (c : Option Context) : Prop :=
  let w (i : Nat) : Nat := natOfBytes ((bs.drop (8 * i)).take 8)
  let tidx := w 0 / 2 ^ 40 % 8
  let shw := w 1 % 64
  if w 0 < 2 ^ 43 ∧ (∀ i, 32 ≤ i → i < 64 → bs.getD i 0 = 0) ∧ tidx % 2 = 0 ∧ 16 ≤ shw ∧ shw ≤ 36 then
    c = some ⟨tidx, w 0 % 2 ^ 40, w 1 / 64 * 64, shw, BitVec.ofNat 64 (w 2), BitVec.ofNat 64 (w 3)⟩
  else c = none

/-- The bits that a write of a BAR0 register sets, for registers whose every other bit reads as before a write (Tables 07-6, 10-11 to 10-14,
12-3, 13-1, 13-3, 18-2 to 18-4, 20-2, 20-3). -/
def rwMask (off : Nat) : Option Word :=
  let all : Word := BitVec.allOnes 64
  if off % 8 ≠ 0 then none
  else if off ∈ [0x010, 0x018, 0x020, 0x028, 0x030, 0x038, 0x040, 0x058, 0x1000, 0x1008, 0x1010, 0x1018, 0x2020, 0x2028, 0x20018, 0x20020,
      0x21040, 0x21048, 0x21050, 0x21058, 0x21060, 0x21068] then some all
  else if off = 0x050 then some 0xFFF
  else if off = 0x2008 then some 0xFFFFFFFF
  else if off = 0x2018 then some 0x7F
  else if off = 0x10008 then some 0x7FFFFFFFFF
  else if off = 0x10010 then some 0x1000FFFFF
  else if off = 0x10020 then some 0xFFFFFFFFFFFF
  else if off = 0x20008 then some 0xFFFF
  else if off = 0x21008 then some 0xFFFFFFFFFFFF
  else if 0x10040 ≤ off ∧ off < 0x100C0 then some 0x3FFFFFF
  else if 0x10100 ≤ off ∧ off < 0x10180 then some all
  else if 0x100000 ≤ off ∧ off < 0x180000 then
    (if off % 64 = 0x00 then some (all - 0x20) else if off % 64 = 0x18 then some 0xFFFFFFFF
     else if off % 64 = 0x10 ∨ off % 64 = 0x20 ∨ off % 64 = 0x28 then some all else none)
  else if 0x180000 ≤ off ∧ off < 0x190000 then some 0xFFF
  else if 0x200000 ≤ off ∧ off < 0x208000 ∧ off % 16 = 0 then some all
  else none

end Sys2Proof.Machine
end

