-- ==== Sys2Proof/Certificates/Slice0/Obligations.lean ====
section
/-! DEFINITION. The statements for the provers, in the order of the opcode table's families. Each names the rules of spec/ it
formalises. "Issues" is the premise that the word passes the checks before issue (R47); a conclusion Ends, EndsLong, Jumps or
Freezes names the whole next state, so it is the word's frame as well (R92, R38). -/

open Sys2Proof Sys2Proof.Machine Host

/-! ## Integer rows 0x00 to 0x02 -/

/-- IADD, ISUB, IADD with an immediate, and IADDC and ISUBB, whose carry or borrow out goes to kO (R95, R96).
IMUL, IMULHI, IMAD, IMADW, LEA and IMUL with an immediate (R95, R96).
IMIN, IMAX, their immediate forms, IABS and SEL (R95, R96). -/
def Obligations.IntegerArithmetic : Prop :=
  ((∀ h : Hdr,
  (∀ f, VecOp (.iadd h f) h f.d fun t L x => SumRule f.sat (f.sub.getLsbD 0) (asInt (f.sub.getLsbD 0) (srcA f t L) + asInt (f.sub.getLsbD 0) (srcB f t L)) x) ∧
  (∀ f, VecOp (.isub h f) h f.d fun t L x => SumRule f.sat (f.sub.getLsbD 0) (asInt (f.sub.getLsbD 0) (srcA f t L) - asInt (f.sub.getLsbD 0) (srcB f t L)) x) ∧
  (∀ f, VecOp (.iaddImm h f) h f.d fun t L x => SumRule false false ((srcImmA f t L).toInt + f.imm.toInt) x)) ∧
  (∀ (h : Hdr) (f : VA),
  (CarryOp (.iaddc h f) h f.d (f.sub.toNat % 16) fun t L x c =>
    x.toNat + 2 ^ 32 * c.toNat = (srcA f t L).toNat + (srcB f t L).toNat + (srcKC f t L).toNat) ∧
  (CarryOp (.isubb h f) h f.d (f.sub.toNat % 16) fun t L x c =>
    (x.toNat : Int) - 2 ^ 32 * c.toNat = (srcA f t L).toNat - (srcB f t L).toNat - (srcKC f t L).toNat))) ∧
  (∀ h : Hdr,
  (∀ f, VecOp (.imul h f) h f.d fun t L x => x.toNat = (srcA f t L).toNat * (srcB f t L).toNat % 2 ^ 32) ∧
  (∀ f, VecOp (.imulhi h f) h f.d fun t L x =>
    asInt (f.sub.getLsbD 0) x = asInt (f.sub.getLsbD 0) (srcA f t L) * asInt (f.sub.getLsbD 0) (srcB f t L) / 2 ^ 32) ∧
  (∀ f, VecOp (.imad h f) h f.d fun t L x => (2 ^ 32 : Int) ∣
    x.toNat - (signed (f.fl.getLsbD 2) (srcA f t L) * (srcB f t L).toNat + signed (f.fl.getLsbD 3) (srcC f t L))) ∧
  (∀ f, PairOp (.imadw h f) h f.d fun t L x => (2 ^ 64 : Int) ∣
    x.toNat - (asInt (f.sub.getLsbD 0) (srcA f t L) * asInt (f.sub.getLsbD 0) (srcB f t L) + (srcCd f t L).toNat)) ∧
  (∀ f, PairOp (.lea h f) h f.d fun t L x => (2 ^ 64 : Int) ∣
    x.toNat - ((srcBd f t L).toNat + asInt (f.sub.getLsbD 3) (srcA f t L) * 2 ^ (f.sub.toNat % 8))) ∧
  (∀ f, VecOp (.imulImm h f) h f.d fun t L x => x.toNat = (srcImmA f t L).toNat * f.imm.toNat % 2 ^ 32)) ∧
  (∀ h : Hdr,
  (∀ f, VecOp (.imin h f) h f.d fun t L x =>
    asInt (f.sub.getLsbD 0) x = min (asInt (f.sub.getLsbD 0) (srcA f t L)) (asInt (f.sub.getLsbD 0) (srcB f t L))) ∧
  (∀ f, VecOp (.imax h f) h f.d fun t L x =>
    asInt (f.sub.getLsbD 0) x = max (asInt (f.sub.getLsbD 0) (srcA f t L)) (asInt (f.sub.getLsbD 0) (srcB f t L))) ∧
  (∀ f, VecOp (.iminImm h f) h f.d fun t L x => x.toInt = min (srcImmA f t L).toInt f.imm.toInt) ∧
  (∀ f, VecOp (.imaxImm h f) h f.d fun t L x => x.toInt = max (srcImmA f t L).toInt f.imm.toInt) ∧
  (∀ f, VecOp (.iabs h f) h f.d fun t L x =>
    if (srcA f t L).toInt = -(2 ^ 31) then x.toInt = (if f.sat then 2 ^ 31 - 1 else -(2 ^ 31)) else x.toInt = |(srcA f t L).toInt|) ∧
  (∀ f, VecOp (.sel h f) h f.d fun t L x => x = if srcKC f t L then srcA f t L else srcB f t L))

/-- LOGIC computes bit i as TT[4 a + 2 b + c] of the bits i (R97).
ICMP: cond(a, b), signed or unsigned, combined with K[C], to K[D] (R98).
A word whose FL[3:2], condition or C these rules do not permit fails the field check (R97, R98). -/
def Obligations.LogicAndCompare : Prop :=
  (∀ (h : Hdr) (f : VA),
  VecOp (.logic h f) h f.d fun t L x => ∀ i < 32, x.getLsbD i =
    ttBit f (4 * ((srcA f t L).getLsbD i).toNat + 2 * ((srcB f t L).getLsbD i).toNat + ((srcC f t L).getLsbD i).toNat)) ∧
  (∀ (h : Hdr) (f : VA),
  PredOp (.icmp h f) h (f.d.toNat % 16) fun t L =>
    CombRule (f.sub.toNat / 16) (CondRule (f.sub.toNat % 8) (asInt (f.sub.getLsbD 3) (srcA f t L)) (asInt (f.sub.getLsbD 3) (srcB f t L)))
      (srcKC f t L = true)) ∧
  (∀ (h : Hdr) (f : VA), ((Instr.logic h f).fieldOk = true → f.fl.toNat < 4) ∧
    ((Instr.icmp h f).fieldOk = true → f.sub.toNat % 8 < 6 ∧ (f.sub.toNat / 16 = 0 → f.c = 0)))

/-- SHL, SHR, SAR, ROTL, their immediate forms, and FSHL, for every 32-bit amount (R95, R96).
BFX and BFI (R99); POPC, CLZ, FFS and BREV (R95). -/
def Obligations.ShiftsAndBitFields : Prop :=
  (∀ h : Hdr,
  (∀ f, VecOp (.shl h f) h f.d fun t L x => ShlRule (srcA f t L) x (srcB f t L).toNat) ∧
  (∀ f, VecOp (.shr h f) h f.d fun t L x => ShrRule (srcA f t L) x (srcB f t L).toNat) ∧
  (∀ f, VecOp (.sar h f) h f.d fun t L x => SarRule (srcA f t L) x (srcB f t L).toNat) ∧
  (∀ f, VecOp (.rotl h f) h f.d fun t L x => RotlRule (srcA f t L) x (srcB f t L).toNat) ∧
  (∀ f, VecOp (.shlImm h f) h f.d fun t L x => ShlRule (srcImmA f t L) x f.imm.toNat) ∧
  (∀ f, VecOp (.shrImm h f) h f.d fun t L x => ShrRule (srcImmA f t L) x f.imm.toNat) ∧
  (∀ f, VecOp (.sarImm h f) h f.d fun t L x => SarRule (srcImmA f t L) x f.imm.toNat) ∧
  (∀ f, VecOp (.rotlImm h f) h f.d fun t L x => RotlRule (srcImmA f t L) x f.imm.toNat) ∧
  (∀ f, VecOp (.fshl h f) h f.d fun t L x =>
    x.toNat = ((srcA f t L).toNat * 2 ^ 32 + (srcB f t L).toNat) * 2 ^ ((srcC f t L).toNat % 64) / 2 ^ 32 % 2 ^ 32)) ∧
  ((∀ (h : Hdr) (f : VA),
  (VecOp (.bfx h f) h f.d fun t L x => ∀ i < 32, x.getLsbD i =
    if i < fieldN (srcB f t L) then (srcA f t L).getLsbD (fieldP (srcB f t L) + i)
    else !f.sub.getLsbD 0 && decide (0 < fieldN (srcB f t L)) && (srcA f t L).getLsbD (fieldP (srcB f t L) + fieldN (srcB f t L) - 1)) ∧
  (VecOp (.bfi h f) h f.d fun t L x => ∀ i < 32, x.getLsbD i =
    if fieldP (srcB f t L) ≤ i ∧ i < fieldP (srcB f t L) + fieldN (srcB f t L) then (srcA f t L).getLsbD (i - fieldP (srcB f t L))
    else (srcC f t L).getLsbD i)) ∧
  (∀ (h : Hdr) (f : VA),
  (VecOp (.popc h f) h f.d fun t L x => x.toNat = ∑ i ∈ Finset.range 32, ((srcA f t L).getLsbD i).toNat) ∧
  (VecOp (.clz h f) h f.d fun t L x => x.toNat ≤ 32 ∧ (srcA f t L).toNat < 2 ^ (32 - x.toNat) ∧
    (x.toNat < 32 → 2 ^ (31 - x.toNat) ≤ (srcA f t L).toNat)) ∧
  (VecOp (.ffs h f) h f.d fun t L x => if srcA f t L = 0 then x = 0xFFFFFFFF else
    x.toNat < 32 ∧ (srcA f t L).getLsbD x.toNat = true ∧ ∀ i < x.toNat, (srcA f t L).getLsbD i = false) ∧
  (VecOp (.brev h f) h f.d fun t L x => ∀ i < 32, x.getLsbD (31 - i) = (srcA f t L).getLsbD i)))

/-! ## Float rows 0x04 to 0x06 -/

/-- FADD, FMUL, FFMA, FSCALE and the immediate FADD and FMUL: one Round of the exact result on the operands as read (R75, R76,
R78, R100). -/
def Obligations.FloatArithmetic : Prop := ∀ h : Hdr,
  (∀ f, VecOp (.fadd h f) h f.d fun t L x => ∃ p q v, ReadsAs t (f.fl.getLsbD 2) (srcA f t L) p ∧ ReadsAs t (f.fl.getLsbD 3) (srcC f t L) q ∧
    SumOf (rndOf f.rm) p q v ∧ x = (round .fp32 (rndOf f.rm) f.sat t.ftz v).enc) ∧
  (∀ f, VecOp (.fmul h f) h f.d fun t L x => ∃ p q v, ReadsAs t (f.fl.getLsbD 2) (srcA f t L) p ∧ ReadsAs t false (srcB f t L) q ∧
    ProductOf p q v ∧ x = (round .fp32 (rndOf f.rm) f.sat t.ftz v).enc) ∧
  (∀ f, VecOp (.ffma h f) h f.d fun t L x => ∃ p q w r v, ReadsAs t (f.fl.getLsbD 2) (srcA f t L) p ∧ ReadsAs t false (srcB f t L) q ∧
    ProductOf p q w ∧ ReadsAs t (f.fl.getLsbD 3) (srcC f t L) r ∧ SumOf (rndOf f.rm) w r v ∧ x = (round .fp32 (rndOf f.rm) f.sat t.ftz v).enc) ∧
  (∀ f, VecOp (.fscale h f) h f.d fun t L x => ∃ p v, ReadsAs t (f.fl.getLsbD 2) (srcA f t L) p ∧
    (∀ z k l, p = .fin z k l → v = .fin z k (l + (srcB f t L).toInt)) ∧ ((∀ z k l, p ≠ .fin z k l) → v = p) ∧
    x = (round .fp32 (rndOf f.rm) f.sat t.ftz v).enc) ∧
  (∀ f, VecOp (.faddImm h f) h f.d fun t L x => ∃ p q v, ReadsAs t false (srcImmA f t L) p ∧ ReadsAs t false f.imm q ∧
    SumOf .rne p q v ∧ x = (round .fp32 .rne false t.ftz v).enc) ∧
  (∀ f, VecOp (.fmulImm h f) h f.d fun t L x => ∃ p q v, ReadsAs t false (srcImmA f t L) p ∧ ReadsAs t false f.imm q ∧
    ProductOf p q v ∧ x = (round .fp32 .rne false t.ftz v).enc)

/-- Round leaves every number that the destination encodes as it is, under every mode, and keeps its zeros' signs: an encoding
that is no NaN decodes and rounds to itself without a flag (R71, R73, R77).
A number is rounded to a multiple of the spacing of its binade, or of the subnormals, on the side that the mode names, on a tie under RNE
to the even one; where that exceeds the largest finite value the result is Table 03-4's with OVERFLOW, else it is that multiple, INEXACT
exactly when it differs and UNDERFLOW when it is inexact below the smallest normal (R73, R74, R77). NaN gives the canonical NaN,
an infinity Table 03-4's result, and FTZ turns an FP32 subnormal result into a zero of its sign (R72, R74, R75). -/
def Obligations.Rounding : Prop :=
  (∀ f ∈ [Fmt.fp32, .bf16, .fp16, .e4m3, .e5m2], ∀ (rm : Rnd) (sat : Bool) (x : Nat),
  x < 2 ^ fmtBits f → (decodeNum f x).isNan = false → round f rm sat false (decodeNum f x) = { enc := BitVec.ofNat 32 x }) ∧
  (∀ (f : Fmt) (eb mb : Nat) (bias : Int), fmtFloat f = some (eb, mb, bias) →
  ∀ (rm : Rnd) (sat s : Bool) (m : Nat) (e : Int) (M : Nat) (E : Int), m ≠ 0 → decodeNum f (maxEnc f) = .fin false M E →
  let r := round f rm sat false (.fin s m e)
  let sp : ℚ := 2 ^ max (e + bitLen m - 1 - mb) (1 - bias - mb)
  ∃ n : Nat, RoundsTo rm s (dyadic false m e) sp n ∧ (r.overflow = true ↔ dyadic false M E < n * sp) ∧
    (r.overflow = false → ∃ k l, decodeNum f r.enc.toNat = .fin s k l ∧ dyadic false k l = n * sp ∧
      (r.inexact = true ↔ n * sp ≠ dyadic false m e) ∧ (r.underflow = true ↔ r.inexact = true ∧ n * sp < 2 ^ (1 - bias)) ∧ r.saturated = false) ∧
    (r.overflow = true → r.inexact = true ∧ r.underflow = false ∧ (r.saturated = true ↔ sat = true ∨ f = .e4m3) ∧
      (ToMax f rm sat s → decodeNum f r.enc.toNat = .fin s M E) ∧ (¬ToMax f rm sat s → decodeNum f r.enc.toNat = .inf s))) ∧
  (∀ (rm : Rnd) (sat ftz s made : Bool),
  round .fp32 rm sat ftz (.nan made) = { enc := 0x7FC00000, invalid := made } ∧ round .bf16 rm sat ftz (.nan made) = { enc := 0x7FC0, invalid := made } ∧
  round .fp16 rm sat ftz (.nan made) = { enc := 0x7E00, invalid := made } ∧ round .e4m3 rm sat ftz (.nan made) = { enc := 0x7F, invalid := made } ∧
  round .e5m2 rm sat ftz (.nan made) = { enc := 0x7E, invalid := made } ∧
  (∀ f ∈ [Fmt.fp32, .bf16, .fp16, .e5m2], decodeNum f (round f rm sat ftz (.inf s)).enc.toNat = .inf s) ∧
  round .e4m3 rm sat ftz (.inf s) = (if sat then { enc := if s then 0xFE else 0x7E, saturated := true } else { enc := 0x7F, invalid := true }) ∧
  ∀ x, (round .fp32 rm sat true x).enc = (let r := (round .fp32 rm sat false x).enc
    if r.toNat % 2 ^ 31 < 2 ^ 23 then r &&& 0x80000000 else r))

/-- FMIN, FMAX, their immediate forms, FCMP and FCLASS (R101).
FDOT2, HADD2, HMUL2 and HFMA2 on packed halves; FTZ reaches only FDOT2's c and result (R102). -/
def Obligations.FloatSelectCompareAndPackedHalves : Prop :=
  (∀ h : Hdr,
  (∀ f, VecOp (.fmin h f) h f.d fun t L x =>
    MinMaxRule false t.ftz (if f.fl.getLsbD 2 then srcA f t L ^^^ 0x80000000 else srcA f t L) (srcB f t L) x) ∧
  (∀ f, VecOp (.fmax h f) h f.d fun t L x =>
    MinMaxRule true t.ftz (if f.fl.getLsbD 2 then srcA f t L ^^^ 0x80000000 else srcA f t L) (srcB f t L) x) ∧
  (∀ f, VecOp (.fminImm h f) h f.d fun t L x => MinMaxRule false t.ftz (srcImmA f t L) f.imm x) ∧
  (∀ f, VecOp (.fmaxImm h f) h f.d fun t L x => MinMaxRule true t.ftz (srcImmA f t L) f.imm x) ∧
  (∀ f, PredOp (.fcmp h f) h (f.d.toNat % 16) fun t L => ∃ p q, ReadsAs t (f.fl.getLsbD 2) (srcA f t L) p ∧ ReadsAs t false (srcB f t L) q ∧
    CombRule (f.sub.toNat / 16) (FcondRule (f.sub.toNat % 8) p q) (srcKC f t L = true)) ∧
  (∀ f, VecOp (.fclass h f) h f.d fun t L x => ∀ fm eb mb bias, fmtOf f.t.toNat = some fm → fmtFloat fm = some (eb, mb, bias) →
    let y := (srcA f t L).toNat % 2 ^ fmtBits fm
    let normal := y / 2 ^ mb % 2 ^ eb ≠ 0
    match decodeNum fm y with
    | .nan _ => x = 2 ^ 8
    | .inf s => x = if s then 2 ^ 0 else 2 ^ 7
    | .fin s k _ => if k = 0 then x = (if s then 2 ^ 3 else 2 ^ 4)
        else (normal → x = if s then 2 ^ 1 else 2 ^ 6) ∧ (¬normal → x = if s then 2 ^ 2 else 2 ^ 5))) ∧
  (∀ (h : Hdr) (f : VA),
  let ty : Fmt := if f.t = 1 then .bf16 else .fp16
  let n2 := f.fl.getLsbD 2
  let n3 := f.fl.getLsbD 3
  let halves (x : Lane32) (P : Nat → XVal → Prop) : Prop :=
    ∀ i < 2, ∃ v, P i v ∧ x.toNat / 2 ^ (16 * i) % 2 ^ 16 = (round ty (rndOf f.rm) f.sat false v).enc.toNat
  (VecOp (.hadd2 h f) h f.d fun t L x => halves x fun i v => SumOf (rndOf f.rm) (halfOf f n2 i (srcA f t L)) (halfOf f n3 i (srcC f t L)) v) ∧
  (VecOp (.hmul2 h f) h f.d fun t L x => halves x fun i v => ProductOf (halfOf f n2 i (srcA f t L)) (halfOf f false i (srcB f t L)) v) ∧
  (VecOp (.hfma2 h f) h f.d fun t L x => halves x fun i v => ∃ w, ProductOf (halfOf f n2 i (srcA f t L)) (halfOf f false i (srcB f t L)) w ∧
    SumOf (rndOf f.rm) w (halfOf f n3 i (srcC f t L)) v) ∧
  (VecOp (.fdot2 h f) h f.d fun t L x => ∃ w0 w1 w c v, ProductOf (halfOf f n2 0 (srcA f t L)) (halfOf f false 0 (srcB f t L)) w0 ∧
    ProductOf (halfOf f n2 1 (srcA f t L)) (halfOf f false 1 (srcB f t L)) w1 ∧ SumOf (rndOf f.rm) w0 w1 w ∧
    ReadsAs t n3 (srcC f t L) c ∧ SumOf (rndOf f.rm) w c v ∧ x = (round .fp32 (rndOf f.rm) f.sat t.ftz v).enc))

/-- FRCP, FRSQ and FSQRT: the correctly rounded reciprocal, reciprocal root and root, with their special inputs (R103).
FEXP2 is E2 into FP32: the segment's line between its FP32 constants, rounded once, scaled by 2^xi (R91, R103).
FLOG2, FSIN and FCOS complete, with the special results of Table 04-5 (R103); powers of two have exact logarithms, and quarter
turns exact sines. -/
def Obligations.SpecialFunctions : Prop :=
  (∀ (h : Hdr) (f : VA),
  let out (t : Team) (L : Nat) (x : Lane32) (P : XVal → XVal → Prop) : Prop :=
    ∃ a v, ReadsAs t (f.fl.getLsbD 2) (srcA f t L) a ∧ P a v ∧ x = (round .fp32 (rndOf f.rm) f.sat t.ftz v).enc
  (VecLongOp (.frcp h f) h f.d fun t L x => out t L x fun a v => QuotientOf (.fin false 1 0) a v) ∧
  (VecLongOp (.frsq h f) h f.d fun t L x => out t L x fun a v => match a with
    | .fin s m e => if m = 0 then v = .inf s else if s then v = .nan true else StickyOf (1 / Real.sqrt (dyadic false m e : ℚ)) v
    | .inf s => if s then v = .nan true else ∃ e, v = .fin false 0 e
    | .nan _ => v.isNan = true) ∧
  (VecLongOp (.fsqrt h f) h f.d fun t L x => out t L x fun a v => match a with
    | .fin s m e => if m = 0 then ∃ e, v = .fin s 0 e else if s then v = .nan true else StickyOf (Real.sqrt (dyadic false m e : ℚ)) v
    | .inf s => if s then v = .nan true else v = .inf false
    | .nan _ => v.isNan = true)) ∧
  (∀ (h : Hdr) (f : VA),
  let rd (t : Team) (L : Nat) (P : XVal → Prop) : Prop := ∃ a, ReadsAs t (f.fl.getLsbD 2) (srcA f t L) a ∧ P a
  (VecLongOp (.fexp2 h f) h f.d fun t L x => rd t L fun a => E2Rule a .fp32 x ∧ match a with
    | .nan _ => x = 0x7FC00000
    | .inf s => x = if s then 0 else 0x7F7FFFFF
    | .fin s m e => (dyadic s m e < -126 → x = 0) ∧ (127 < dyadic s m e → x = 0x7F7FFFFF) ∧
        (∀ k : Int, dyadic s m e = k → -126 ≤ k → k ≤ 127 → x = BitVec.ofInt 32 ((k + 127) * 2 ^ 23))) ∧
  (VecLongOp (.flog2 h f) h f.d fun t L x => rd t L fun a => match a with
    | .nan _ => x = 0x7FC00000
    | .inf s => x = if s then 0x7FC00000 else 0x7F800000
    | .fin s m e => (m = 0 → x = 0xFF800000) ∧ (m ≠ 0 → s = true → x = 0x7FC00000) ∧
        (∀ k : Int, dyadic s m e = 2 ^ k → x = (round .fp32 .rne false t.ftz (.ofInt k)).enc)) ∧
  (VecLongOp (.fsin h f) h f.d fun t L x => rd t L fun a => match a with
    | .fin s m e => (m = 0 → x = if s then 0x80000000 else 0) ∧
        (∀ k : Int, m ≠ 0 → 4 * dyadic s m e = k → x = if k % 2 = 0 then 0 else if k % 4 = 1 then 0x3F800000 else 0xBF800000)
    | _ => x = 0x7FC00000) ∧
  (VecLongOp (.fcos h f) h f.d fun t L x => rd t L fun a => match a with
    | .fin s m e => ∀ k : Int, 4 * dyadic s m e = k → x = if k % 2 = 1 then 0 else if k % 4 = 0 then 0x3F800000 else 0xBF800000
    | _ => x = 0x7FC00000))

/-! ## Conversion row 0x07 -/

/-- CVT: an integer to an integer clamps or keeps its low bits; a number to an integer is rounded, out of range the nearest limit or the
least value, and a NaN gives 0 or the least value; a number to TS8 takes the candidate that the mode names, ±2 beyond it and 0x77 for
a NaN; to a float format it is one Round (R79, R82, R83, R104).
PACK4, PLANE, UNPLANE (R105, R107) and BLKSCALE (R106). -/
def Obligations.ConversionsAndPacking : Prop :=
  (∀ (h : Hdr) (f : VA),
  VecOp (.cvt h f) h f.d fun t L x => ∀ src dst, fmtOf (f.sub.toNat % 16) = some src → fmtOf f.t.toNat = some dst →
    if fmtInt src = true ∧ fmtInt dst = true then
      let v := sext (srcA f t L).toNat (fmtBits src)
      if f.sat then x.toInt = max (-(2 ^ (fmtBits dst - 1))) (min v (2 ^ (fmtBits dst - 1) - 1))
      else x.toInt = sext x.toNat (fmtBits dst) ∧ (2 ^ fmtBits dst : Int) ∣ x.toInt - v
    else ∃ a, (if src = .fp32 then ReadsAs t false (srcA f t L) a else a = decodeNum src (srcA f t L).toNat) ∧
      x = (round dst (rndOf f.rm) f.sat t.ftz a).enc ∧
      (fmtInt dst = true → ToIntRule (fmtBits dst) (rndOf f.rm) f.sat a x) ∧ (dst = .ts8 → ToTs8Rule (rndOf f.rm) a x)) ∧
  ((∀ (h : Hdr) (f : VA),
  (VecOp (.pack4Pack h f) h f.d fun t L x => ∀ i < 8,
    let v := ((if i < 4 then srcA f t L else srcB f t L).extractLsb' (8 * (i % 4)) 8).toInt
    ((x.extractLsb' (4 * i) 4).toNat : Int) = (if f.sat then max (-8) (min v 7) else v) % 16) ∧
  (VecOp (.pack4Unlo h f) h f.d fun t L x => ∀ i < 4, (x.extractLsb' (8 * i) 8).toInt = ((srcA f t L).extractLsb' (4 * i) 4).toInt) ∧
  (VecOp (.pack4Unhi h f) h f.d fun t L x => ∀ i < 4, (x.extractLsb' (8 * i) 8).toInt = ((srcA f t L).extractLsb' (4 * (i + 4)) 4).toInt) ∧
  (PairLongOp (.plane h f) h f.d fun t L x => ∀ fm, fmtOf f.t.toNat = some fm → ∀ l < 32,
    let M := 32 * (L / 32) + l
    x.getLsbD l = ((t.lanesFor h).getLsbD M && planeBit fm f.sub.toNat ((srcA f t M).toNat % 2 ^ 16)) ∧
    x.getLsbD (32 + l) = ((t.lanesFor h).getLsbD M && planeBit fm f.sub.toNat ((srcA f t M).toNat / 2 ^ 16))) ∧
  (VecLongOp (.unplane h f) h f.d fun t L x => ∀ fm, fmtOf f.t.toNat = some fm → ∀ i < 16,
    x.getLsbD i = (if planePos fm f.sub.toNat = some i then (srcAd f t L).getLsbD (L % 32) else (srcC f t L).getLsbD i) ∧
    x.getLsbD (16 + i) = (if planePos fm f.sub.toNat = some i then (srcAd f t L).getLsbD (32 + L % 32) else (srcC f t L).getLsbD (16 + i)))) ∧
  (∀ (h : Hdr) (f : VA),
  (VecOp (.blkscaleScale h f) h f.d fun t L x => ∃ a, ReadsAs t false (srcA f t L &&& 0x7FFFFFFF) a ∧ match a with
    | .fin s m e => if m = 0 then x = 0x3F80 else
        let top : ℚ := if f.t = 3 then 448 else if f.t = 4 then 57344 else 2
        ∃ i : Nat, i < 254 ∧ x = BitVec.ofNat 32 ((i + 1) * 2 ^ 7) ∧ (i < 253 → dyadic s m e ≤ 2 ^ ((i : Int) - 126) * top) ∧
          ∀ j : Nat, j < i → 2 ^ ((j : Int) - 126) * top < dyadic s m e
    | _ => x = 0x7FC0) ∧
  (VecOp (.blkscaleApply h f) h f.d fun t L x => ∀ fm, fmtOf f.t.toNat = some fm → ∃ a v, ReadsAs t false (srcA f t L) a ∧
    QuotientOf a (decodeNum .bf16 ((srcB f t L).toNat % 2 ^ 16)) v ∧
    x.toNat = (round fm (rndOf f.rm) f.sat false v).enc.toNat % 2 ^ fmtBits fm)))

/-! ## Lane rows 0x08 and 0x09 -/

/-- SHFL, MATCH and READLANE (R108, R109).
VOTE in its four forms (R110), KLOGIC (R108) and KMOV in its four forms (R111).
REDG, REDT and SCANG: the fixed tree over the Active lanes of a group or of the team, and the scan from left to right (R90,
R112). The SUB values and the pairs that SHFL, VOTE and KMOV permit (R109 to R111). -/
def Obligations.LanesVotesReductions : Prop :=
  (∀ (h : Hdr) (f : VA),
  (f.sub.getLsbD 2 = false → VecLongOp (.shfl h f) h f.d fun t L x =>
    let j := shflJ (f.sub.toNat % 4) (L % 32) (srcB f t L).toNat
    let M := 32 * (L / 32) + j.toNat
    if 0 ≤ j ∧ j < 32 ∧ t.InActive h M then x = srcA f t M else x = srcC f t L) ∧
  (f.sub.getLsbD 2 = true → PairLongOp (.shfl h f) h f.d fun t L x =>
    let j := shflJ (f.sub.toNat % 4) (L % 32) (srcB f t L).toNat
    let M := 32 * (L / 32) + j.toNat
    if 0 ≤ j ∧ j < 32 ∧ t.InActive h M then x = srcAd f t M else x = srcCd f t L) ∧
  (VecLongOp (.matchK h f) h f.d fun t L x => ∀ l < 32,
    let M := 32 * (L / 32) + l
    (x.getLsbD l = true ↔ t.InActive h M ∧ srcA f t M = srcA f t L ∧ (f.sub.getLsbD 0 = true → srcAd f t M = srcAd f t L))) ∧
  (VecLongOp (.readlane h f) h f.d fun t _ x =>
    let j := (t.rs (f.b.toNat % 64)).toNat % 1024
    x = if j < t.lanes then srcA f t j else 0)) ∧
  ((∀ (h : Hdr) (f : VA),
  (PredLongOp (.voteAll h f) h (f.d.toNat % 16) fun t _ => ∀ M ∈ t.act h, srcKA f t M = true) ∧
  (PredLongOp (.voteAny h f) h (f.d.toNat % 16) fun t _ => ∃ M ∈ t.act h, srcKA f t M = true) ∧
  (PredLongOp (.voteUni h f) h (f.d.toNat % 16) fun t _ => ∀ M ∈ t.act h, ∀ N ∈ t.act h, srcA f t M = srcA f t N) ∧
  (VecLongOp (.voteBallot h f) h f.d fun t L x => ∀ l < 32,
    (x.getLsbD l = true ↔ t.InActive h (32 * (L / 32) + l) ∧ srcKA f t (32 * (L / 32) + l) = true))) ∧
  (∀ (h : Hdr) (f : VA),
  (PredOp (.klogic h f) h (f.d.toNat % 16) fun t L => f.sub.getLsbD (2 * (srcKA f t L).toNat + (srcKB f t L).toNat) = true) ∧
  (f.sub = 0 → VecOp (.kmov h f) h f.d fun t L x => x = if srcKA f t L then 1 else 0) ∧
  (f.sub = 1 → PredOp (.kmov h f) h (f.d.toNat % 16) fun t L => srcA f t L ≠ 0) ∧
  (f.sub = 2 → PredOp (.kmov h f) h (f.d.toNat % 16) fun t L => srcKA f t L = true) ∧
  (f.sub = 3 → PredOp (.kmov h f) h (f.d.toNat % 16) fun t L => (t.rs (f.b.toNat % 64)).getLsbD (L % 64) = true))) ∧
  (∀ (h : Hdr) (f : VA),
  let rule (t : Team) (P : (Lane32 → Lane32 → Lane32) → Prop) : Prop := ∃ op, (∀ a b, ReduceRule t f a b (op a b)) ∧ P op
  (VecLongOp (.redg h f) h f.d fun t L x => rule t fun op =>
    treeNode op (fun l => leafOf f t h (32 * (L / 32) + l)) 5 0 = some x) ∧
  (VecLongOp (.redt h f) h f.d fun t _ x => rule t fun op =>
    treeNode op (fun g => treeNode op (fun l => leafOf f t h (32 * g + l)) 5 0) 5 0 = some x) ∧
  (VecLongOp (.scang h f) h f.d fun t L x => rule t fun op =>
    match ((List.range 32).filter fun l => (if f.sub.getLsbD 4 then decide (l < L % 32) else decide (l ≤ L % 32))).filterMap
        fun l => leafOf f t h (32 * (L / 32) + l) with
    | [] => IdentityRule f x
    | y :: ys => x = ys.foldl op y)) ∧
  (∀ (h : Hdr) (f : VA), ((Instr.shfl h f).fieldOk = true → f.sub.toNat < 8) ∧
    (f.sub.getLsbD 2 = true → (Instr.shfl h f).pairOk = true → f.a.toNat % 2 = 0 ∧ f.d.toNat % 2 = 0 ∧ (f.fl.getLsbD 1 = false → f.c.toNat % 2 = 0)) ∧
    ((Instr.voteAll h f).fieldOk = true → f.sub = 0) ∧ ((Instr.voteAny h f).fieldOk = true → f.sub = 1) ∧
    ((Instr.voteBallot h f).fieldOk = true → f.sub = 2) ∧ ((Instr.voteUni h f).fieldOk = true → f.sub = 3) ∧
    ((Instr.kmov h f).fieldOk = true → f.sub.toNat < 4 ∧ (f.sub = 3 → f.fl = 1)))

/-! ## Uniform row 0x0A -/

/-- SADD, SSUB, SMUL, SLOGIC, SSHL, SSHR, SCMP, SMIN, SMAX, SMOV and SMOV.CAT in 64-bit arithmetic (R46, R113), and
VBCAST: the low half, the high half, or all of S[B] into the pair D, with the field values it permits (R114). -/
def Obligations.UniformRow : Prop :=
  (∀ (h : Hdr) (f : UF),
  let a (t : Team) : Word := t.rs f.a.toNat
  let int (u : Bool) (x : Word) : Int := if u then x.toNat else x.toInt
  UniOp (.sadd h f) h f.d.toNat (fun t x => x.toNat = ((a t).toNat + (srcY f t).toNat) % 2 ^ 64) ∧
  UniOp (.ssub h f) h f.d.toNat (fun t x => (x.toNat : Int) = ((a t).toNat - (srcY f t).toNat : Int) % 2 ^ 64) ∧
  UniOp (.smul h f) h f.d.toNat (fun t x => x.toNat = (a t).toNat * (srcY f t).toNat % 2 ^ 64) ∧
  UniOp (.slogic h f) h f.d.toNat (fun t x => ∀ i < 64, x.getLsbD i = f.sub.getLsbD (2 * ((a t).getLsbD i).toNat + ((srcY f t).getLsbD i).toNat)) ∧
  UniOp (.sshl h f) h f.d.toNat (fun t x => x.toNat = (a t).toNat * 2 ^ (srcY f t).toNat % 2 ^ 64) ∧
  UniOp (.sshr h f) h f.d.toNat (fun t x => if f.sub.getLsbD 0 then x.toNat = (a t).toNat / 2 ^ (srcY f t).toNat
    else x.toInt = (a t).toInt / 2 ^ min (srcY f t).toNat 63) ∧
  UniOp (.scmp h f) h f.d.toNat (fun t x => (x = 0 ∨ x = 1) ∧ (x = 1 ↔
    CondRule (f.sub.toNat % 8) (int (f.sub.getLsbD 3) (a t)) (int (f.sub.getLsbD 3) (srcY f t)))) ∧
  UniOp (.smin h f) h f.d.toNat (fun t x => int (f.sub.getLsbD 0) x = min (int (f.sub.getLsbD 0) (a t)) (int (f.sub.getLsbD 0) (srcY f t))) ∧
  UniOp (.smax h f) h f.d.toNat (fun t x => int (f.sub.getLsbD 0) x = max (int (f.sub.getLsbD 0) (a t)) (int (f.sub.getLsbD 0) (srcY f t))) ∧
  UniOp (.smov h f) h f.d.toNat (fun t x => x = srcY f t) ∧
  UniOp (.smovCat h f) h f.d.toNat (fun t x => x.toNat = ((a t).toNat * 2 ^ 24 + f.imm.toNat) % 2 ^ 64)) ∧
  (∀ (h : Hdr) (f : VA),
  (f.sub = 0 → VecOp (.vbcast h f) h f.d fun t _ x => x = (t.rs (f.b.toNat % 64)).extractLsb' 0 32) ∧
  (f.sub = 1 → VecOp (.vbcast h f) h f.d fun t _ x => x = (t.rs (f.b.toNat % 64)).extractLsb' 32 32) ∧
  (f.sub = 2 → PairOp (.vbcast h f) h f.d fun t _ x => x = t.rs (f.b.toNat % 64)) ∧
  ((Instr.vbcast h f).fieldOk = true → f.t = 0 ∧ f.a = 0 ∧ f.c = 0 ∧ f.fl = 1 ∧ f.sub.toNat < 3) ∧
  (f.sub = 2 → (Instr.vbcast h f).pairOk = true → f.d.toNat % 2 = 0))

/-! ## Control row 0x0B -/

/-- BRA, BRX, CALL and RET: a uniform condition decides; CALL pushes the next clause's address, RET pops it and continues there; a
divergent predicate, a taken BRX to an address that is no multiple of 8, a full stack and a top that is no CALL entry freeze the team
(R115, R116, R117, R120).
EXIT ends lanes, and the team when none is left live; NOP has no effect; YIELD marks the team; SLEEP waits for the clocks it
names (R118, R121). -/
def Obligations.BranchesCallsAndExit : Prop :=
  ((∀ (h : Hdr) (f : BF) (s : State) (t : Team),
  let brx := t.rs f.sreg.toNat + 8 * f.off.signExtend 64
  (s.Issues t (.bra h f) h →
    (CondIs f t true → Jumps (exec (.bra h f) s) s s.cur t (branchDest f t)) ∧
    (CondIs f t false → Ends (exec (.bra h f) s) s s.cur t []) ∧
    (CondDivergent f t → Freezes (exec (.bra h f) s) s t h .illegal 0x0F)) ∧
  (s.Issues t (.brx h f) h →
    (CondIs f t true → brx.toNat % 8 = 0 → Jumps (exec (.brx h f) s) s s.cur t brx) ∧
    (CondIs f t true → brx.toNat % 8 ≠ 0 → t.tryR = none → Freezes (exec (.brx h f) s) s t h .misaligned 0) ∧
    (CondIs f t false → Ends (exec (.brx h f) s) s s.cur t []) ∧
    (CondDivergent f t → Freezes (exec (.brx h f) s) s t h .illegal 0x0F))) ∧
  (∀ (h : Hdr) (f : BF) (s : State) (t : Team),
  (s.Issues t (.callK h f) h →
    (CondIs f t true → t.masks.length < 256 → t.DeepEnough (t.masks.length + 1) →
      Jumps (exec (.callK h f) s) s s.cur { t with masks := ⟨.callE, 0, t.nextPc⟩ :: t.masks } (branchDest f t)) ∧
    (CondIs f t true → 256 ≤ t.masks.length → Freezes (exec (.callK h f) s) s t h .illegal 0x0E) ∧
    (CondIs f t false → Ends (exec (.callK h f) s) s s.cur t []) ∧
    (CondDivergent f t → Freezes (exec (.callK h f) s) s t h .illegal 0x0F)) ∧
  (s.Issues t (.ret h f) h →
    (∀ e es, CondIs f t true → t.masks = e :: es → e.kind = .callE → t.DeepEnough es.length →
      Jumps (exec (.ret h f) s) s s.cur { t with masks := es } e.addr) ∧
    (CondIs f t true → (∀ e es, t.masks = e :: es → e.kind ≠ .callE) → Freezes (exec (.ret h f) s) s t h .illegal 0x10) ∧
    (CondIs f t false → Ends (exec (.ret h f) s) s s.cur t []) ∧
    (CondDivergent f t → Freezes (exec (.ret h f) s) s t h .illegal 0x0F)))) ∧
  (∀ (h : Hdr) (f : BF) (s : State) (t : Team), t.ActiveExists →
  (s.Issues t (.exitK h f) h → ∀ out rest live, IsLanes out t.active (laneCond f t) → IsLanes rest t.active (fun L => !laneCond f t L) →
    live = t.live &&& ~~~out →
    (live ≠ 0 → Leaves (exec (.exitK h f) s) s t t.masks rest live) ∧ (live = 0 → exec (.exitK h f) s = .next (s.endTeam s.cur))) ∧
  (s.Issues t (.nop h f) h → Ends (exec (.nop h f) s) s s.cur t []) ∧
  (s.Issues t (.yieldK h f) h → ∃ t', exec (.yieldK h f) s = .next (s.setTeam s.cur t') ∧ t.Kept t' ∧ t.Next t' ∧ t.Wrote t' [] ∧ t'.giveMark = true) ∧
  (s.Issues t (.sleepK h f) h →
    let n := (f.off.setWidth 64 + t.rs f.sreg.toNat).toNat
    (t.sleepUntil = none → n = 0 → Ends (exec (.sleepK h f) s) s s.cur t []) ∧
    (t.sleepUntil = none → n ≠ 0 → Parks (exec (.sleepK h f) s) s s.cur { t with sleepUntil := some (s.now + n) } (.sleep (s.now + n))) ∧
    (∀ u, t.sleepUntil = some u → s.now < u → Parks (exec (.sleepK h f) s) s s.cur t (.sleep u)) ∧
    (∀ u, t.sleepUntil = some u → u ≤ s.now → Ends (exec (.sleepK h f) s) s s.cur { t with sleepUntil := none } [])))

/-- IF, ELSE and ENDIF (R118, R119, R120).
LOOP, BREAK, CONT and ENDLOOP (R118, R119, R120). -/
def Obligations.IfsAndLoops : Prop :=
  (∀ (h : Hdr) (f : BF) (s : State) (t : Team), t.ActiveExists →
  (s.Issues t (.ifK h f) h →
    (∀ yes no, t.masks.length < 256 → IsLanes yes t.active (laneCond f t) → IsLanes no t.active (fun L => !laneCond f t L) →
      Leaves (exec (.ifK h f) s) s t (⟨.ifE, no, branchDest f t⟩ :: t.masks) yes t.live) ∧
    (256 ≤ t.masks.length → Freezes (exec (.ifK h f) s) s t h .illegal 0x0E)) ∧
  (s.Issues t (.elseK h f) h →
    (∀ e es, t.masks = e :: es → e.kind = .ifE → t.DeepEnough t.masks.length →
      if e.mask &&& t.live = 0 then
        Jumps (exec (.elseK h f) s) s s.cur { t with masks := ⟨.elseE, t.active, branchDest f t⟩ :: es, active := 0 } (branchDest f t)
      else Ends (exec (.elseK h f) s) s s.cur
        { t with masks := ⟨.elseE, t.active, branchDest f t⟩ :: es, active := e.mask &&& t.live } []) ∧
    ((∀ e es, t.masks = e :: es → e.kind ≠ .ifE) → Freezes (exec (.elseK h f) s) s t h .illegal 0x10)) ∧
  (s.Issues t (.endif h f) h →
    (∀ e es, t.masks = e :: es → e.kind = .ifE ∨ e.kind = .elseE →
      Leaves (exec (.endif h f) s) s t es ((t.active ||| e.mask) &&& t.live) t.live) ∧
    ((∀ e es, t.masks = e :: es → e.kind ≠ .ifE ∧ e.kind ≠ .elseE) → Freezes (exec (.endif h f) s) s t h .illegal 0x10))) ∧
  (∀ (h : Hdr) (f : BF) (s : State) (t : Team), t.ActiveExists →
  let outer (k : EntryKind) (pre : List StackEntry) : Prop := ∀ e ∈ pre, e.kind ≠ k ∧ e.kind ≠ .callE
  (s.Issues t (.loopK h f) h →
    (t.masks.length ≤ 254 → Leaves (exec (.loopK h f) s) s t (⟨.contE, 0, branchDest f t⟩ :: ⟨.loopE, 0, branchDest f t⟩ :: t.masks) t.active t.live) ∧
    (254 < t.masks.length → Freezes (exec (.loopK h f) s) s t h .illegal 0x0E)) ∧
  (∀ pre e post out rest, IsLanes out t.active (laneCond f t) → IsLanes rest t.active (fun L => !laneCond f t L) → t.masks = pre ++ e :: post →
    (s.Issues t (.breakK h f) h → outer .loopE pre → e.kind = .loopE →
      Leaves (exec (.breakK h f) s) s t (pre ++ { e with mask := e.mask ||| out } :: post) rest t.live) ∧
    (s.Issues t (.contK h f) h → outer .contE pre → e.kind = .contE →
      Leaves (exec (.contK h f) s) s t (pre ++ { e with mask := e.mask ||| out } :: post) rest t.live)) ∧
  ((∀ pre e post, t.masks = pre ++ e :: post → e.kind = .loopE → ∃ c ∈ pre, c.kind = .callE) → s.Issues t (.breakK h f) h →
    Freezes (exec (.breakK h f) s) s t h .illegal 0x10) ∧
  ((∀ pre e post, t.masks = pre ++ e :: post → e.kind = .contE → ∃ c ∈ pre, c.kind = .callE) → s.Issues t (.contK h f) h →
    Freezes (exec (.contK h f) s) s t h .illegal 0x10) ∧
  (s.Issues t (.endloop h f) h →
    (∀ c l es go out, t.masks = c :: l :: es → c.kind = .contE → l.kind = .loopE → (∀ L, c.mask.getLsbD L = true → L < t.lanes) →
      IsLanes go ((t.active ||| c.mask) &&& t.live) (laneCond f t) → IsLanes out ((t.active ||| c.mask) &&& t.live) (fun L => !laneCond f t L) →
      (go ≠ 0 → t.DeepEnough t.masks.length → Jumps (exec (.endloop h f) s) s s.cur
        { t with masks := { c with mask := 0 } :: { l with mask := l.mask ||| out } :: es, active := go } (branchDest f t)) ∧
      (go = 0 → Leaves (exec (.endloop h f) s) s t es ((l.mask ||| out) &&& t.live) t.live)) ∧
    ((∀ c l es, t.masks = c :: l :: es → ¬(c.kind = .contE ∧ l.kind = .loopE)) → Freezes (exec (.endloop h f) s) s t h .illegal 0x10)))

/-! ## Memory rows 0x0C and 0x0D -/

/-- LD and LDU outside an open region, on pages that are not STRONG: the lanes' checked bytes, from the nearest level that holds them
or as results of sector requests, behind an earlier load of the team that is in flight; `.acq` acquires behind the load (R127, R128, R219,
R224, R226). LD.probe: a lane whose bytes a cache from the point on, host memory or a serving frame holds takes them as LD would and
k14 := 0; the others take zero and k14 := 1 and climb in the background, for a fill of L2 alone (R129; a lane hits or misses by its own
bytes, and a hit may wait behind the package's own write, the model's choice, log 93). -/
def Obligations.LoadsFromMemory : Prop :=
  (∀ (h : Hdr) (f : MF) (s s1 : State) (t : Team),
  let core := coreOf s.cur
  let n := 2 ^ f.size.toNat
  let sc := if f.ord = 1 then f.scope.toNat else 0
  let out (i : Instr) (ls : List (Nat × Word × List Piece)) (parts : List Got → List Part) : Prop :=
    strongPage ls = false →
    let r2 := s1.readWants core t.serial (wantsOf ls sc)
    let r3 := r2.1.requestMissing s.cur t .load (fun s w => s.pathGens core w.scope) r2.2
    let ps := parts r3.2
    r2.1.heldRequests core + missing r2.2 ≤ 4096 →
    (f.ord ≠ 1 → EndsParts (exec i s) r3.1 s.cur t ps) ∧
    (f.ord = 1 → missing r2.2 = 0 → Ends (exec i s) ((r3.1.setTeam s.cur (t.writeLong ps)).acquire core sc) s.cur (t.writeLong ps) []) ∧
    (f.ord = 1 → missing r2.2 ≠ 0 → ∃ t', exec i s = .next (r3.1.setTeam s.cur t') ∧ t.Kept t' ∧ t.Next t' ∧ t.Awaits t' ps ∧
      t'.run = .parked (.acquired sc h.z))
  t.tryR = none →
  (∀ ls, s.Issues t (.ld h f) h → s.checkLanes s.cur t (t.act h) (addrGlobal f t) n false false (splitOk f) true = (s1, .ok ls) →
    out (.ld h f) ls fun gs => ls.flatMap fun x => loadParts f.data.toNat n f.sx x.1 ((pieceBytes x.2.2).map (gotByte gs (x.1 / 32)))) ∧
  (∀ ps, s.IssuesOnce t (.ldu h f) h → s.checkGlobal core t.ctx (addrUniform f t) n false false (splitOk f) true = (s1, .ok ps) →
    let L := (t.act h).headD 0
    out (.ldu h f) [(L, addrUniform f t, ps)] fun gs => [⟨.s (f.data.toNat % 64), 0, (pieceBytes ps).map (gotByte gs (L / 32)), f.sx, false⟩])) ∧
  (∀ (h : Hdr) (f : MF) (s s1 : State) (t : Team) (ls : List (Nat × Word × List Piece)),
  let core := coreOf s.cur
  let n := 2 ^ f.size.toNat
  s.Issues t (.ldProbe h f) h → t.tryR = none →
  s.checkLanes s.cur t (t.act h) (addrGlobal f t) n false false false true true = (s1, .ok ls) →
  strongPage ls = false →
  let held (x : Nat × Word × List Piece) : Bool := (pieceBytes x.2.2).all fun a => s1.holds core (a / 32) 0 (a % 32)
  let climbing := s1.probeClimbs (pkgOf core) (ls.filter fun x => !held x)
  let r2 := s1.readWants core t.serial (wantsOf (ls.filter held) 0)
  r2.1.heldRequests core + (missing r2.2 + climbing.length) ≤ 4096 →
  let r3 := r2.1.requestMissing s.cur t .load (fun s w => s.pathGens core w.scope) r2.2
  let r4 := r3.1.requestMissing s.cur t .probe (fun s w => s.probeGens core w) climbing
  EndsParts (exec (.ldProbe h f) s) r4.1 s.cur t (ls.flatMap fun x =>
    if held x then loadParts f.data.toNat n f.sx x.1 ((pieceBytes x.2.2).map (gotByte r3.2 (x.1 / 32))) ++ [Part.ofVal (.k 14) x.1 0]
    else loadParts f.data.toNat n false x.1 ((pieceBytes x.2.2).map fun _ => .known 0) ++ [Part.ofVal (.k 14) x.1 1]))

/-- ST and STU outside an open region, on pages that are not STRONG: the stored bytes at the point of the word's scope, behind the release
that `.rel` asks for (R127, R128, R225). That a plain store is performed at its SCOPE's point and not narrower is the model's choice
(log 99).
A store at TEAM or CORE scope leaves its bytes dirty in the core's L1 and nowhere else: each stored byte holds the last value stored to it, every
other dirty byte stays, and no other place of the machine changes but the other teams' footprints and what a fill in flight may still
bring there (R127, R216, R170, R223). -/
def Obligations.StoresToMemory : Prop :=
  (∀ (h : Hdr) (f : MF) (s s1 : State) (t : Team),
  let core := coreOf s.cur
  let n := 2 ^ f.size.toNat
  let sc := f.scope.toNat
  let out (i : Instr) (ls : List (Nat × Word × List Piece)) (data : Nat → List Byte) : Prop :=
    strongPage ls = false →
    let ws := storeBytes ls data
    let ea (L : Nat) : Word := (ls.find? fun x => x.1 == L).elim 0 fun x => x.2.1
    (f.ord ≠ 2 → Ends (exec i s) (s1.performStores s.cur t ws (fun L _ => ea L) sc) s.cur t []) ∧
    (f.ord = 2 → s1.quiet s.cur t.serial = true →
      (sc < 5 → Ends (exec i s) ((s1.release core sc).performStores s.cur t ws (fun L _ => ea L) sc) s.cur t []) ∧
      (5 ≤ sc → t.relWait = none → ((s1.release core 5).pkg (pkgOf core)).posted = [] →
        Ends (exec i s) ((s1.release core 5).performStores s.cur t ws (fun L _ => ea L) sc) s.cur t [])) ∧
    (f.ord = 2 → s1.quiet s.cur t.serial = false → Parks (exec i s) s1 s.cur t .quiet)
  t.tryR = none →
  (∀ ls, s.Issues t (.st h f) h → s.checkLanes s.cur t (t.act h) (addrGlobal f t) n true false (splitOk f) true = (s1, .ok ls) →
    out (.st h f) ls (storedData t n f.data.toNat)) ∧
  (∀ ps, s.IssuesOnce t (.stu h f) h → s.checkGlobal core t.ctx (addrUniform f t) n true false (splitOk f) true = (s1, .ok ps) →
    out (.stu h f) [((t.act h).headD 0, addrUniform f t, ps)] fun _ => bytesOf n (t.rs (f.data.toNat % 64)).toNat)) ∧
  (∀ (s : State) (tk : Nat) (t : Team) (ws : List (Nat × Nat × Leaf × Byte)) (ea : Nat → Nat → Word) (sc : Nat),
  sc < 2 → ws ≠ [] → (∀ w ∈ ws, w.2.2.1.ord ≠ 1) → ∃ (x : Cache) (rs : List (Nat × Request)),
  s.performStores tk t ws ea sc = (({ s with requests := rs } : State).setCache (.l1 (coreOf tk)) x).noteWrite (some tk) (ws.map fun w => .glob w.2.1) ∧
  rs.map (fun e => (e.1, { e.2 with skip := [] })) = s.requests.map (fun e => (e.1, { e.2 with skip := [] })) ∧
  x.gen = (s.core (coreOf tk)).l1.gen ∧ x.lastAcq = (s.core (coreOf tk)).l1.lastAcq ∧
  ∀ a, match (ws.filter fun w => w.2.1 == a).getLast? with
    | some w => ∃ e, find x.sectors (a / 32) = some e ∧ e.dirty.getLsbD (a % 32) = true ∧ e.data.getD (a % 32) 0 = w.2.2.2
    | none => ∀ e, find (s.core (coreOf tk)).l1.sectors (a / 32) = some e → e.dirty.getLsbD (a % 32) = true →
        ∃ e', find x.sectors (a / 32) = some e' ∧ e'.dirty.getLsbD (a % 32) = true ∧ e'.data.getD (a % 32) 0 = e.data.getD (a % 32) 0)

/-- A load at a narrow scope is served by the nearest level that holds its bytes: an L1 hit changes nothing; an L2 or an L3 hit gives its
bytes, fills the levels before it and changes no byte of memory; where no cache holds the sector, a local frame that serves reads gives its bytes and each level of the path then hits, unless a write of the package has yet to
change one of them; where neither does, the package does not hold it (R129, R216, R223, R231).
The checks of a global access leave every byte of memory as it is while walks are the hardware's (R37, R246, R316).
PREF, FETCH, CCTL and FENCE complete: the first two whatever their addresses are, CCTL where its lanes pass their checks, FENCE once the team's earlier
accesses are performed and the package's posted writes acknowledged (R130 to R133). -/
def Obligations.ReadsNearestLevelChecksKeepMemory : Prop :=
  (∀ (s : State) (core key : Nat) (mask : BitVec 32) (unord : Bool),
  (∀ e, find (s.core core).l1.sectors key = some e → (s.core core).l1.hits key mask = true →
    s.readSector core key mask 0 unord = (s, some e.data)) ∧
  (∀ e, find (s.core core).l1.sectors key = none → find (s.die (dieOf core)).sectors key = some e → (s.die (dieOf core)).hits key mask = true →
    ∃ s' bs, s.readSector core key mask 0 unord = (s', some bs) ∧ (∀ i < 32, mask.getLsbD i = true → bs.getD i 0 = e.data.getD i 0) ∧
      (s'.core core).l1.hits key mask = true ∧ s'.dies = s.dies ∧ s'.pkgs = s.pkgs ∧ SameMemory s s') ∧
  (∀ e, find (s.core core).l1.sectors key = none → find (s.die (dieOf core)).sectors key = none →
    find (s.pkg (pkgOf core)).l3.sectors key = some e → (s.pkg (pkgOf core)).l3.hits key mask = true →
    ∃ s' bs, s.readSector core key mask 0 unord = (s', some bs) ∧ (∀ i < 32, mask.getLsbD i = true → bs.getD i 0 = e.data.getD i 0) ∧
      (s'.core core).l1.hits key mask = true ∧ (s'.die (dieOf core)).hits key mask = true ∧ s'.pkgs = s.pkgs ∧ SameMemory s s') ∧
  ((∀ l ∈ corePath core, find (s.cache l).sectors key = none) → isHost (key / 2048) = false →
    (∀ f, (s.pkg (pkgOf core)).frameOf (key / 2048) = some f → ((s.pkg (pkgOf core)).tag f).state.serves = true →
      (mask &&& s.pendingMask (pkgOf core) key = 0 → ∃ s' bs, s.readSector core key mask 0 unord = (s', some bs) ∧
        (∀ i < 32, mask.getLsbD i = true → bs.getD i 0 = (s.pkg (pkgOf core)).byte f (32 * (key % 2048) + i)) ∧
        (∀ l ∈ corePath core, (s'.cache l).hits key mask = true) ∧ SameMemory s s') ∧
      (mask &&& s.pendingMask (pkgOf core) key ≠ 0 → s.readSector core key mask 0 unord = (s, none))) ∧
    ((∀ f, (s.pkg (pkgOf core)).frameOf (key / 2048) = some f → ((s.pkg (pkgOf core)).tag f).state.serves = false) → mask ≠ 0 →
      s.readSector core key mask 0 unord = (s, none)))) ∧
  (∀ (s : State) (tk : Nat) (t : Team) (lanes : List Nat) (ea : Nat → Word) (n : Nat)
    (write rmw split lockCheck probe : Bool), (s.pkg (pkgOfTeam tk)).duty.getLsbD 3 = false →
  let s1 := (s.checkLanes tk t lanes ea n write rmw split lockCheck probe).1
  SameMemory s s1 ∧ s1.teams = s.teams ∧ s1.shares = s.shares ∧ s1.requests = s.requests ∧ s1.xfers = s.xfers) ∧
  (∀ (h : Hdr) (f : MF) (s : State) (t : Team),
  let core := coreOf s.cur
  let completes (i : Instr) : Prop := ∃ (s2 : State) (t' : Team), exec i s = .next (s2.setTeam s.cur t') ∧ t.Kept t' ∧ t.Next t'
  let checked (write lockCheck : Bool) : Prop := ∃ s1 ls,
    s.checkLanes s.cur t (t.act h) (fun L => addrGlobal f t L &&& ~~~(31 : Word)) 32 write false false lockCheck = (s1, .ok ls)
  (s.Issues t (.pref h f) h → completes (.pref h f)) ∧
  (s.Issues t (.fetch h f) h → (s.pkg (pkgOf core)).duty.getLsbD 3 = false → (s.pkg (pkgOf core)).hreqs = [] → completes (.fetch h f)) ∧
  (s.Issues t (.cctlWb h f) h → checked false false → completes (.cctlWb h f)) ∧
  (s.Issues t (.cctlInv h f) h → checked true true → completes (.cctlInv h f)) ∧
  (s.Issues t (.cctlDiscard h f) h → t.role = .reeve → checked true true → completes (.cctlDiscard h f)) ∧
  (s.Issues t (.fence h f) h → s.quiet s.cur t.serial = true →
    f.ord = 1 ∨ f.scope.toNat < 5 ∨ t.relWait = none ∧ ((s.release core 5).pkg (pkgOf core)).posted = [] → completes (.fence h f)))

/-- A lane that fails a check freezes the team with every lane's cause, or aborts an open region, and nothing of the word is performed
(R38, R127, R170); a walk that the host must answer parks it (R316). Accesses to a STRONG page release before and acquire around
themselves at SYSTEM scope, and a store is performed there (R234). -/
def Obligations.StrongAndFailedAccesses : Prop :=
  (∀ (h : Hdr) (f : MF) (s s1 : State) (t : Team),
  let n := 2 ^ f.size.toNat
  let out (i : Instr) (c : LanesChk) : Prop :=
    (∀ cs, c = .bad cs → exec i s = .next ((Act.freeze s1 cs 0 0).finish s.cur h.z) ∧
      (t.tryR = none → exec i s = .next (s1.freeze s.cur (t.record cs 0 0)))) ∧
    ∀ ix, c = .wait ix → Parks (exec i s) s1 s.cur t (.walk ix)
  (∀ c, s.Issues t (.ld h f) h → s.checkLanes s.cur t (t.act h) (addrGlobal f t) n false false (splitOk f) true = (s1, c) → out (.ld h f) c) ∧
  (∀ c, s.Issues t (.st h f) h → s.checkLanes s.cur t (t.act h) (addrGlobal f t) n true false (splitOk f) true = (s1, c) → out (.st h f) c) ∧
  (∀ cs, s.Issues t (.lds h f) h → s.checkSpLanes t (t.act h) (addrScratch f t) n false = .error cs →
    exec (.lds h f) s = .next ((Act.freeze s cs 0 0).finish s.cur h.z)) ∧
  (∀ cs, s.Issues t (.sts h f) h → s.checkSpLanes t (t.act h) (addrScratch f t) n true = .error cs →
    exec (.sts h f) s = .next ((Act.freeze s cs 0 0).finish s.cur h.z))) ∧
  (∀ (h : Hdr) (f : MF) (s s1 : State) (t : Team) (ls : List (Nat × Word × List Piece)),
  let core := coreOf s.cur
  let n := 2 ^ f.size.toNat
  let s2 := s1.release core 5
  t.tryR = none → strongPage ls = true → s1.quiet s.cur t.serial = true → t.relWait = none → (s2.pkg (pkgOf core)).posted = [] →
  (s.Issues t (.ld h f) h → s.checkLanes s.cur t (t.act h) (addrGlobal f t) n false false (splitOk f) true = (s1, .ok ls) →
    let r3 := (s2.acquire core 5).readWants core t.serial (wantsOf ls (if f.ord = 1 then f.scope.toNat else 0))
    let ps (gs : List Got) := ls.flatMap fun x => loadParts f.data.toNat n f.sx x.1 ((pieceBytes x.2.2).map (gotByte gs (x.1 / 32)))
    missing r3.2 = 0 → r3.1.heldRequests core ≤ 4096 →
    Ends (exec (.ld h f) s) ((r3.1.setTeam s.cur (t.writeLong (ps r3.2))).acquire core 5) s.cur (t.writeLong (ps r3.2)) []) ∧
  (s.Issues t (.st h f) h → s.checkLanes s.cur t (t.act h) (addrGlobal f t) n true false (splitOk f) true = (s1, .ok ls) →
    let s4 := s2.acquire core 5
    let ws := storeBytes ls (storedData t n f.data.toNat)
    let s3 := s4.performStores s.cur t ws (fun L _ => (ls.find? fun x => x.1 == L).elim 0 fun x => x.2.1) f.scope.toNat
    let away := s4.strongAway (pkgOf core) ws
    (away ≠ 0 → 4096 < s4.heldRequests core + away → Parks (exec (.st h f) s) s4 s.cur t (.requests away)) ∧
    (away = 0 ∨ s4.heldRequests core + away ≤ 4096 →
    (s3.quiet s.cur t.serial = true → Ends (exec (.st h f) s) (s3.acquire core 5) s.cur t []) ∧
    (s3.quiet s.cur t.serial = false → ∃ t', exec (.st h f) s = .next (s3.setTeam s.cur t') ∧ t.Kept t' ∧ t.Next t' ∧ t.Wrote t' [] ∧
      t'.run = .parked (.acquired 5 h.z)))))

/-- LDS and STS outside an open region: the registers take the bytes of the lanes' places, or the places the registers' bytes, the
highest lane's where lanes meet; extra bank passes are counted; every other byte of memory stays (R123, R127, R217, R218).
Inside an open region LDS, LD and LDU read the region's own stores first, acquiring behind them where the word asks for it, and STS, ST
and STU put theirs, with each lane's effective address, into its buffer in order and change no memory (R169, R226, R289). -/
def Obligations.ScratchpadAndRegionAccesses : Prop :=
  (∀ (h : Hdr) (f : MF) (s : State) (t : Team) (sh off : Nat → Nat),
  let n := 2 ^ f.size.toNat
  let sc := min f.scope.toNat 2
  let ls := (t.act h).map fun L => (L, sh L, off L)
  let u := { t with spextra := t.spextra + BitVec.ofNat 32 (extraPasses ls n true) }
  t.tryR = none →
  (s.Issues t (.lds h f) h → (∀ L ∈ t.act h, s.checkSp t (addrScratch f t L) n false = .ok (sh L, off L)) →
    let ws := (t.act h).flatMap fun L => spLoads s f n L (sh L) (off L)
    (f.ord ≠ 1 → EndsLong (exec (.lds h f) s) s s.cur u ws) ∧
    (f.ord = 1 → ∃ t1, u.WroteLong t1 ws ∧ u.Kept t1 ∧ t1.pc = t.pc ∧ t1.word = t.word ∧
      Ends (exec (.lds h f) s) ((s.setTeam s.cur t1).acquire (coreOf s.cur) sc) s.cur t1 [])) ∧
  (s.Issues t (.sts h f) h → (∀ L ∈ t.act h, s.checkSp t (addrScratch f t L) n true = .ok (sh L, off L)) →
    let places := ls.flatMap fun x => spLocs x.2.1 x.2.2 n
    (f.ord ≠ 2 → ∃ s2, StoresSp s s2 (lastSp ls (storedData t n f.data.toNat)) ∧
      Ends (exec (.sts h f) s) (s2.noteWrite (some s.cur) places) s.cur u []) ∧
    (f.ord = 2 → s.quiet s.cur t.serial = true → ∃ s2, StoresSp (s.release (coreOf s.cur) sc) s2 (lastSp ls (storedData t n f.data.toNat)) ∧
      Ends (exec (.sts h f) s) (s2.noteWrite (some s.cur) places) s.cur u []))) ∧
  (∀ (h : Hdr) (f : MF) (s s1 : State) (t : Team) (r : TryRegion),
  let n := 2 ^ f.size.toNat
  let touched (ws : List (Nat × Loc × Byte)) : TryRegion := ws.foldl (fun q w => q.touch w.1 [w.2.1]) r
  let added (ws : List (Nat × Loc × Byte)) (ea : Nat → Word) : TryRegion :=
    { touched ws with buf := r.buf ++ ws.map fun w => ⟨w.1, w.2.1, w.2.2, ea w.1⟩ }
  let core := coreOf s.cur
  let sc := min f.scope.toNat 2
  let loads (i : Instr) (ls : List (Nat × Word × List Piece)) (parts : (Nat → Nat → Src) → List Part) : Prop :=
    let q := ls.foldl (fun q x => q.touch x.1 ((pieceBytes x.2.2).map Loc.glob)) r
    let u := { t with tryR := some q }
    strongPage ls = false → s1.tryOverflow s.cur q = false →
    let r2 := (s1.setTeam s.cur u).readWants core t.serial (wantsOf ls (if f.ord = 1 then f.scope.toNat else 0))
    r2.1.heldRequests core + missing r2.2 ≤ 4096 →
    let r3 := r2.1.requestMissing s.cur u .load (fun s w => s.pathGens core w.scope) r2.2
    let ps := parts fun L a => match r.byte (.glob a) with | some b => .known b | none => gotByte r3.2 (L / 32) a
    (f.ord ≠ 1 → EndsParts (exec i s) r3.1 s.cur u ps) ∧
    (f.ord = 1 → missing r2.2 = 0 → ∃ t1, u.Kept t1 ∧ u.Awaits t1 ps ∧ t1.pc = t.pc ∧ t1.word = t.word ∧
      Ends (exec i s) ((r3.1.setTeam s.cur t1).acquire core f.scope.toNat) s.cur t1 []) ∧
    (f.ord = 1 → missing r2.2 ≠ 0 → ∃ t', exec i s = .next (r3.1.setTeam s.cur t') ∧ u.Kept t' ∧ u.Next t' ∧ u.Awaits t' ps ∧
      t'.run = .parked (.acquired f.scope.toNat h.z))
  let stores (i : Instr) (ls : List (Nat × Word × List Piece)) (data : Nat → List Byte) : Prop :=
    let ws := (storeBytes ls data).map fun w => (w.1, Loc.glob w.2.1, w.2.2.2)
    let ea (L : Nat) : Word := (ls.find? fun x => x.1 == L).elim 0 fun x => x.2.1
    strongPage ls = false → (t.version = 3 → ∀ x ∈ ls, ∀ p ∈ x.2.2, s1.remoteMapped (pkgOfTeam s.cur) p.leaf = false) →
    s1.tryOverflow s.cur (added ws ea) = false → Ends (exec i s) s1 s.cur { t with tryR := some (added ws ea) } []
  t.tryR = some r →
  (∀ sh off : Nat → Nat, s.Issues t (.lds h f) h → (∀ L ∈ t.act h, s.checkSp t (addrScratch f t L) n false = .ok (sh L, off L)) →
    let ls := (t.act h).map fun L => (L, sh L, off L)
    let q := ls.foldl (fun q x => q.touch x.1 (spLocs x.2.1 x.2.2 n)) r
    let u := { t with tryR := some q, spextra := t.spextra + BitVec.ofNat 32 (extraPasses ls n true) }
    let ps := ls.flatMap fun x => loadParts f.data.toNat n f.sx x.1 ((List.range n).map fun i =>
      .known ((r.byte (.sp x.2.1 (x.2.2 + i))).getD (s.spByte x.2.1 (x.2.2 + i))))
    s.tryOverflow s.cur q = false →
    (f.ord ≠ 1 → EndsParts (exec (.lds h f) s) s s.cur u ps) ∧
    (f.ord = 1 → ∃ t1, u.Kept t1 ∧ u.Awaits t1 ps ∧ t1.pc = t.pc ∧ t1.word = t.word ∧
      Ends (exec (.lds h f) s) ((s.setTeam s.cur t1).acquire core sc) s.cur t1 [])) ∧
  (∀ sh off : Nat → Nat, s.Issues t (.sts h f) h → (∀ L ∈ t.act h, s.checkSp t (addrScratch f t L) n true = .ok (sh L, off L)) →
    let ls := (t.act h).map fun L => (L, sh L, off L)
    let ws := ls.flatMap fun x => (storedData t n f.data.toNat x.1).zipIdx.map fun b => (x.1, .sp x.2.1 (x.2.2 + b.2), b.1)
    let ea (L : Nat) : Word := BitVec.ofNat 64 (addrScratch f t L)
    s.tryOverflow s.cur (added ws ea) = false →
    Ends (exec (.sts h f) s) s s.cur { t with tryR := some (added ws ea), spextra := t.spextra + BitVec.ofNat 32 (extraPasses ls n true) } []) ∧
  (∀ ls, s.Issues t (.ld h f) h → s.checkLanes s.cur t (t.act h) (addrGlobal f t) n false false (splitOk f) true = (s1, .ok ls) →
    loads (.ld h f) ls fun b => ls.flatMap fun x => loadParts f.data.toNat n f.sx x.1 ((pieceBytes x.2.2).map (b x.1))) ∧
  (∀ ps, s.IssuesOnce t (.ldu h f) h → s.checkGlobal core t.ctx (addrUniform f t) n false false (splitOk f) true = (s1, .ok ps) →
    let L := (t.act h).headD 0
    loads (.ldu h f) [(L, addrUniform f t, ps)] fun b => [⟨.s (f.data.toNat % 64), 0, (pieceBytes ps).map (b L), f.sx, false⟩]) ∧
  (∀ ls, s.Issues t (.st h f) h → s.checkLanes s.cur t (t.act h) (addrGlobal f t) n true false (splitOk f) true = (s1, .ok ls) →
    stores (.st h f) ls (storedData t n f.data.toNat)) ∧
  (∀ ps, s.IssuesOnce t (.stu h f) h → s.checkGlobal core t.ctx (addrUniform f t) n true false (splitOk f) true = (s1, .ok ps) →
    stores (.stu h f) [((t.act h).headD 0, addrUniform f t, ps)] fun _ => bytesOf n (t.rs (f.data.toNat % 64)).toNat))

/-- PREF completes whatever its addresses are, asks for no sector, writes no register and changes no cache but the level it names, and no byte
of memory (R130; a lane whose translation waits for the host is passed over, the model's choice, log 100); FETCH completes wherever the host need not walk for it, writes each lane's residency status and asks once for each
page that is elsewhere (R131).
CCTL writes back, invalidates or discards the lanes' sectors in the levels narrower than its scope's point, of pages that the package
holds or the host has, and of any other page of which a cache of the core's path holds the line, which is the model's choice (log 79);
discard is a reeve's (R132). FENCE releases, acquires or both, and waits where it must (R133, R225 to R229). -/
def Obligations.PrefetchCacheControlFences : Prop :=
  (∀ (h : Hdr) (f : MF) (s : State) (t : Team),
  let core := coreOf s.cur
  let p := pkgOf core
  (s.Issues t (.pref h f) h → ∃ s2, Ends (exec (.pref h f) s) s2 s.cur t [] ∧
    s2.requests.map (fun e => (e.1, { e.2 with skip := [] })) = s.requests.map (fun e => (e.1, { e.2 with skip := [] })) ∧
    (∀ l, l ≠ (corePath core).getD (if f.scope = 1 then 0 else if f.scope = 3 then 1 else 2) (.l3 p) → s2.cache l = s.cache l) ∧
    ((s.pkg p).duty.getLsbD 3 = false → SameMemory s s2)) ∧
  (s.Issues t (.fetch h f) h → (s.pkg p).duty.getLsbD 3 = false → (s.pkg p).hreqs = [] → ∃ (s2 : State) (code : Nat → Nat),
    EndsLong (exec (.fetch h f) s) s2 s.cur t ((t.act h).map fun L => (.v f.data.toNat, L, BitVec.ofNat 64 (code L))) ∧
      ∀ L ∈ t.act h, code L ∈ [0, 1, 3, 4, 5]) ∧
  (s.Issues t (.fetch h f) h → ∀ leaf : Nat → Option Leaf,
    (∀ L ∈ t.act h, match leaf L with
      | some l => s.translate core t.ctx (addrGlobal f t L) (f.size == 1) = (s, .ok l)
      | none => ∃ c, s.translate core t.ctx (addrGlobal f t L) (f.size == 1) = (s, .fail c)) →
    let status (l : Leaf) : Nat :=
      let st := (s.pkg p).stateOf l.gpn
      if l.ord = 3 then 1
      else if (if f.size = 1 ∧ l.w = true then st = .masterExcl else st = .replica ∨ st = .masterShared ∨ st = .masterExcl) then 0
      else if st = .filling ∨ st = .moving then 3
      else if st = .lost then 4 else 5
    let code (L : Nat) : Nat := match leaf L with | some l => status l | none => 1
    let away := ((t.act h).filterMap leaf).filter fun l => status l == 5 && !isHost l.gpn
    let pages := away.foldl (fun acc l => if acc.any fun m => m.gpn == l.gpn then acc else acc ++ [l]) []
    let s2 := pages.foldl (fun s l => s.addRequest core (2048 * l.gpn) 0 (.fetch (f.size == 1 && l.w)) { tk := s.cur, serial := t.serial, leaf := some l } []) s
    EndsLong (exec (.fetch h f) s) s2 s.cur t ((t.act h).map fun L => (.v f.data.toNat, L, BitVec.ofNat 64 (code L))))) ∧
  (∀ (h : Hdr) (f : MF) (s s1 : State) (t : Team),
  let core := coreOf s.cur
  let sc := f.scope.toNat
  let sector (L : Nat) : Word := addrGlobal f t L &&& ~~~(31 : Word)
  let keys (ls : List (Nat × Word × List Piece)) : List Nat := ls.flatMap fun x => x.2.2.map fun p => p.addr / 32
  let here (s : State) (key : Nat) : Prop := isHost (key / 2048) = true ∨ ((s.pkg (pkgOf core)).stateOf (key / 2048)).serves = true ∨
    ∃ l ∈ corePath core, (find (s.cache l).sectors key).isSome
  (∀ ls, s.Issues t (.cctlWb h f) h → s.checkLanes s.cur t (t.act h) sector 32 false false false false = (s1, .ok ls) →
    Ends (exec (.cctlWb h f) s) ((keys ls).foldl (fun s key => (pathLevels core sc).foldl (fun s l => s.writeBackOne l key) s) s1) s.cur t []) ∧
  (∀ ls (act : State → Nat → State), (∀ s key, here s key → act s key = s.purge key (pathLevels core sc)) → (∀ s key, ¬here s key → act s key = s) →
    s.Issues t (.cctlInv h f) h → s.checkLanes s.cur t (t.act h) sector 32 true false false true = (s1, .ok ls) →
    Ends (exec (.cctlInv h f) s) ((keys ls).foldl act s1) s.cur t []) ∧
  (∀ ls (act : State → Nat → State), (∀ s key, here s key → act s key = s.discardSector key (pathLevels core sc)) →
    (∀ s key, ¬here s key → act s key = s) →
    s.Issues t (.cctlDiscard h f) h → t.role = .reeve → s.checkLanes s.cur t (t.act h) sector 32 true false false true = (s1, .ok ls) →
    Ends (exec (.cctlDiscard h f) s) ((keys ls).foldl act s1) s.cur t []) ∧
  (s.Issues t (.cctlDiscard h f) h → t.role ≠ .reeve → Freezes (exec (.cctlDiscard h f) s) s t h .privilege 0) ∧
  (s.Issues t (.fence h f) h →
    (t.act h = [] → Ends (exec (.fence h f) s) s s.cur t []) ∧
    (t.act h ≠ [] → s.quiet s.cur t.serial = false → Parks (exec (.fence h f) s) s s.cur t .quiet) ∧
    (t.act h ≠ [] → s.quiet s.cur t.serial = true → f.ord = 1 → Ends (exec (.fence h f) s) (s.acquire core sc) s.cur t []) ∧
    (t.act h ≠ [] → s.quiet s.cur t.serial = true → f.ord ≠ 1 → sc < 5 →
      Ends (exec (.fence h f) s) (if f.ord = 3 then (s.release core sc).acquire core sc else s.release core sc) s.cur t []) ∧
    (t.act h ≠ [] → s.quiet s.cur t.serial = true → f.ord ≠ 1 → 5 ≤ sc → t.relWait = none →
      let s2 := s.release core 5
      ((s2.pkg (pkgOf core)).posted = [] → Ends (exec (.fence h f) s) (if f.ord = 3 then s2.acquire core sc else s2) s.cur t []) ∧
      ((s2.pkg (pkgOf core)).posted ≠ [] →
        Parks (exec (.fence h f) s) s2 s.cur { t with relWait := some (s2.pkg (pkgOf core)).postSeq } (.acks (s2.pkg (pkgOf core)).postSeq))) ∧
    (∀ n, t.act h ≠ [] → s.quiet s.cur t.serial = true → f.ord ≠ 1 → 5 ≤ sc → t.relWait = some n →
      ((∀ x ∈ (s.pkg (pkgOf core)).posted, n ≤ x.1) → Ends (exec (.fence h f) s) (if f.ord = 3 then s.acquire core sc else s) s.cur t []) ∧
      ((∃ x ∈ (s.pkg (pkgOf core)).posted, x.1 < n) → Parks (exec (.fence h f) s) s s.cur t (.acks n)))))

/-! ## Atomics -/

/-- The new value of each atomic operation (R134, R135); and an atomic on a sector of a local MASTER_EXCL frame: the lane receives the old
value, the place takes the new one little-endian, and every other byte of memory stays (R4, R135, R136).
ATOMS, REDS and ATOMS.cas: lane after lane at the banks, with the old values as results, the passes counted, and the order the word
asks for (R134, R135, R136, R217). -/
def Obligations.AtomicValuesAndScratchpadAtomics : Prop :=
  ((∀ (op n : Nat) (sx : Bool) (old a b : Nat), op ≤ 8 → n = 4 ∨ n = 8 → (op = 1 → n = 4) →
  old < 2 ^ (8 * n) → a < 2 ^ (8 * n) → b < 2 ^ (8 * n) → AtomicRule op n sx old a b (atomNew op n sx old a b)) ∧
  (∀ (s : State) (core key fr : Nat) (o : AtomOp),
  let p := pkgOf core
  let g := 2048 * fr + key % 2048
  isHost (key / 2048) = false → (s.pkg p).frameOf (key / 2048) = some fr → ((s.pkg p).tag fr).state = .masterExcl →
  ((s.pkg p).tag fr).twin = false → s.busy p (key / 2048) = false → s.sectorBusy p key = false →
  find (s.pkg p).poison g = none → find (s.pkg p).symErr g = none → o.off + o.size ≤ 32 → o.size = 4 ∨ o.size = 8 →
  let old := natOfBytes ((List.range o.size).map fun i => (s.pkg p).byte fr (32 * (key % 2048) + o.off + i))
  let new := atomNew o.op o.size o.sx old o.a o.b
  ∃ s', s.atomicHere core key [o] = some (s', [old]) ∧
    (∀ i < o.size, (s'.pkg p).byte fr (32 * (key % 2048) + o.off + i) = BitVec.ofNat 8 (new / 2 ^ (8 * i))) ∧
    (∀ q f off, off < 65536 → ¬(q = p ∧ f = fr ∧ 32 * (key % 2048) + o.off ≤ off ∧ off < 32 * (key % 2048) + o.off + o.size) →
      (s'.pkg q).byte f off = (s.pkg q).byte f off) ∧
    s'.hostMem = s.hostMem ∧ s'.shares = s.shares ∧ s'.teams = s.teams)) ∧
  (∀ (h : Hdr) (f : MF) (s : State) (t : Team) (ls : List (Nat × Nat × Nat)),
  let core := coreOf s.cur
  let n := sizeBytes f.size
  let sc := min f.scope.toNat 2
  let out (i : Instr) (op : Nat) (ret : Bool) : Prop :=
    s.Issues t i h → s.checkSpLanes t (t.act h) (addrScratch f t) n true = .ok ls → (2 ≤ f.ord.toNat → s.quiet s.cur t.serial = true) →
    let r := spAtomics t f op (if 2 ≤ f.ord.toNat then s.release core sc else s) ls
    let s2 := r.1.noteWrite (some s.cur) (ls.flatMap fun x => spLocs x.2.1 x.2.2 n)
    let ps := if ret then oldParts f (ls.map (·.1)) r.2 else []
    let u := { t with spextra := t.spextra + BitVec.ofNat 32 (extraPasses ls n false) }
    (f.ord ≠ 1 → f.ord ≠ 3 → EndsParts (exec i s) s2 s.cur u ps) ∧
    (f.ord = 1 ∨ f.ord = 3 → ∃ t1, u.Kept t1 ∧ u.Awaits t1 ps ∧ t1.pc = t.pc ∧ t1.word = t.word ∧
      Ends (exec i s) ((s2.setTeam s.cur t1).acquire core sc) s.cur t1 [])
  out (.atomsCas h f) 8 true ∧ (∀ op, out (.atoms h op f) op.toNat true) ∧ ∀ op, out (.reds h op f) op.toNat false)

/-- ATOM, RED and ATOM.cas on pages that are not STRONG: their sectors leave the core's caches, each is operated on where the package
holds it writable and requested elsewhere, and the order the word asks for is kept (R135, R136, R230). In a sector of a local
MASTER_EXCL frame, or of host memory, the lanes' operations are performed one after another in their order, each giving the value it
finds; in any other the word asks for the sector by one posted request that carries its lanes' operations. That one request stands for
all of a word's groups of a sector, held as one a group, is the model's choice (log 67). -/
def Obligations.GlobalAtomics : Prop :=
  (∀ (s : State) (core key : Nat) (ops : List AtomOp),
  let p := pkgOf core
  let gpn := key / 2048
  let k := s.pkg p
  (∀ o ∈ ops, o.off + o.size ≤ 32 ∧ (o.size = 4 ∨ o.size = 8)) →
  (isHost gpn = true → ∃ s', s.atomicHere core key ops = some (s', (atomSeq (s.hostBytes (hostAddr gpn (32 * (key % 2048))) 32) ops).2) ∧
    s' = s.setHostBytes (hostAddr gpn (32 * (key % 2048))) (atomSeq (s.hostBytes (hostAddr gpn (32 * (key % 2048))) 32) ops).1) ∧
  (isHost gpn = false → ∀ fr, k.frameOf gpn = some fr → (k.tag fr).state = .masterExcl → (k.tag fr).twin = false → s.busy p gpn = false →
    s.sectorBusy p key = false → find k.poison (2048 * fr + key % 2048) = none → find k.symErr (2048 * fr + key % 2048) = none →
    let r := atomSeq ((List.range 32).map fun i => k.byte fr (32 * (key % 2048) + i)) ops
    ∃ s', s.atomicHere core key ops = some (s', r.2) ∧ (∀ i < 32, (s'.pkg p).byte fr (32 * (key % 2048) + i) = r.1.getD i 0) ∧
      (∀ q f off, off < 65536 → ¬(q = p ∧ f = fr ∧ off / 32 = key % 2048) → (s'.pkg q).byte f off = (s.pkg q).byte f off) ∧
      s'.hostMem = s.hostMem ∧ s'.shares = s.shares ∧ s'.teams = s.teams ∧ s'.requests = s.requests) ∧
  (isHost gpn = false → (∀ fr, k.frameOf gpn = some fr → (k.tag fr).state ≠ .masterExcl ∨ (k.tag fr).twin = true) ∨ s.busy p gpn = true ∨
    s.sectorBusy p key = true → s.atomicHere core key ops = none)) ∧
  ∀ (h : Hdr) (f : MF) (s s1 : State) (t : Team) (ls : List (Nat × Word × List Piece)),
  let core := coreOf s.cur
  let sc := f.scope.toNat
  let flat := ls.filterMap fun x => x.2.2.head?.map fun p => (x.1, x.2.1, p)
  let keys := (flat.map fun x => x.2.2.addr / 32).dedup
  let out (i : Instr) (op : Nat) (ret : Bool) : Prop :=
    s.Issues t i h → s.checkLanes s.cur t (t.act h) (addrGlobal f t) (sizeBytes f.size) true true false true = (s1, .ok ls) →
    strongPage ls = false → (2 ≤ f.ord.toNat → s1.quiet s.cur t.serial = true ∧
      (sc < 5 ∨ t.relWait = none ∧ ((s1.release core sc).pkg (pkgOf core)).posted = [])) →
    let s2 := keys.foldl (fun s key => s.purge key (corePath core)) (if 2 ≤ f.ord.toNat then s1.release core sc else s1)
    s2.heldRequests core + ((flat.map fun x => (x.1 / 32, x.2.2.addr / 32)).dedup).length ≤ 4096 →
    let r := globalAtomics s.cur t f op ret flat s2 keys
    let ps := if ret then r.2.1 else []
    (f.ord ≠ 1 → f.ord ≠ 3 → EndsParts (exec i s) r.1 s.cur t ps) ∧
    (f.ord = 1 ∨ f.ord = 3 → r.2.2 = false → ∃ t1, t.Kept t1 ∧ t.Awaits t1 ps ∧ t1.pc = t.pc ∧ t1.word = t.word ∧
      Ends (exec i s) ((r.1.setTeam s.cur t1).acquire core sc) s.cur t1 []) ∧
    (f.ord = 1 ∨ f.ord = 3 → r.2.2 = true → ∃ t', exec i s = .next (r.1.setTeam s.cur t') ∧ t.Kept t' ∧ t.Next t' ∧ t.Awaits t' ps ∧
      t'.run = .parked (.acquired sc h.z))
  out (.atomCas h f) 8 true ∧ (∀ op, out (.atom h op f) op.toNat true) ∧ ∀ op, out (.redK h op f) op.toNat false

/-! ## Copies (row 0x12) -/

/-- CPY registers a transfer of n bytes between its two ranges, with a read lock and a write lock, under the next number, its reads placed,
and the team goes on at once; n = 0 completes at once and rings the bell; a misaligned operand, a scratchpad range past SPBYTES or a
failing page stops it, TRANSLATION before PERMISSION (R137, R141, R142, R339). Which address a misaligned operand or a range past
SPBYTES records is the model's choice (log 72).
CPYT registers a transfer of a tile, a load with the tensor's lock first and a store with the tile's; of elements of whole bytes a load
brings each in-bounds element's bytes to the tile's place and zero to every other place, and a store moves the tile's in-bounds
elements to the tensor; a store with no element in bounds completes at once; a bad record, a misaligned tile, a tile past SPBYTES and a
failing page stop it (R137, R144, R146, R147). How many bytes a tile in plane layout takes is the model's choice (log 69). -/
def Obligations.CopiesRegisterTransfers : Prop :=
  (∀ (h : Hdr) (f : SF) (s : State) (t : Team),
  let core := coreOf s.cur
  let n := (t.rs (f.id.toNat % 64)).toNat % 2 ^ 32
  let da := t.rs f.s1.toNat
  let sa := t.rs f.s2.toNat
  let dir := f.sub.toNat % 4
  let low (x : Word) : Nat := x.toNat % 2 ^ 32
  let inSp (x : Word) (p : Nat × Nat) : Prop := s.resolve t (low x) = some p ∧ p.2 + n ≤ s.spBytesOf t p.1
  let aligned : Prop := n % 4 = 0 ∧ sa.toNat % 4 = 0 ∧ da.toNat % 4 = 0
  s.IssuesOnce t (.cpy h f) h →
  (∀ (sp dp : Option (Nat × Nat)) (s1 : State) (ls : List (List (Word × Leaf))), aligned → n ≠ 0 →
    (if dir = 2 ∨ dir = 3 then ∃ p, sp = some p ∧ inSp sa p else sp = none) →
    (if dir = 1 ∨ dir = 3 then ∃ p, dp = some p ∧ inSp da p else dp = none) →
    s.checkRanges core t.ctx ((if sp.isSome then [] else [(sa, n, false)]) ++ if dp.isSome then [] else [(da, n, true)]) = (s1, .ok ls) →
    let locks := [rngLock s1 s.cur t s1.fresh false sp sa n, rngLock s1 s.cur t s1.fresh true dp da n]
    LockRoom s1 locks →
    Registers (exec (.cpy h f) s) s1 s.cur t
      (newXfer s.cur t ((rngLocs sp (ls.headD []) sa n).map some) (rngLocs dp (ls.getLastD []) da n)
        (if dp.isSome then min (f.sub.toNat / 4) 2 else f.sub.toNat / 4) (copyBell f) (ls.flatten.map (·.2))) locks) ∧
  (aligned → n = 0 → (dir = 2 ∨ dir = 3 → ∃ p, inSp sa p) → (dir = 1 ∨ dir = 3 → ∃ p, inSp da p) →
    Ends (exec (.cpy h f) s) (match copyBell f with | some b => s.bellArrive t.share b | none => s) s.cur { t with formed := true } []) ∧
  (¬aligned → FreezesAt (exec (.cpy h f) s) s s.cur t h .misaligned 0 (if da.toNat % 4 = 0 then sa else da)) ∧
  (aligned → dir = 2 ∨ dir = 3 → (¬∃ p, inSp sa p) → FreezesAt (exec (.cpy h f) s) s s.cur t h .bounds 0 (BitVec.ofNat 64 (low sa))) ∧
  (aligned → (dir = 2 ∨ dir = 3 → ∃ p, inSp sa p) → dir = 1 ∨ dir = 3 → (¬∃ p, inSp da p) →
    FreezesAt (exec (.cpy h f) s) s s.cur t h .bounds 0 (BitVec.ofNat 64 (low da))) ∧
  (∀ (s1 : State) (c : Cause) (ea : Word), aligned → n ≠ 0 → (dir = 2 ∨ dir = 3 → ∃ p, inSp sa p) → (dir = 1 ∨ dir = 3 → ∃ p, inSp da p) →
    s.checkRanges core t.ctx ((if dir = 2 ∨ dir = 3 then [] else [(sa, n, false)]) ++ if dir = 1 ∨ dir = 3 then [] else [(da, n, true)]) =
      (s1, .bad c ea) → FreezesAt (exec (.cpy h f) s) s1 s.cur t h c 0 ea)) ∧
  -- the pages of a range that lies in one page
  (∀ (s s1 : State) (core ctx n : Nat) (va : Word) (w : Bool), 0 < n → va.toNat % 65536 + n ≤ 65536 →
    (∀ c, s.translate core ctx va w = (s1, .fail c) → s.checkRanges core ctx [(va, n, w)] = (s1, .bad .translation va)) ∧
    ∀ l, s.translate core ctx va w = (s1, .ok l) →
      (l.ord = 3 → s.checkRanges core ctx [(va, n, w)] = (s1, .bad .translation va)) ∧
      (l.ord ≠ 3 → w = true ∧ l.w = false ∨ s1.pooled l.gpn = true → s.checkRanges core ctx [(va, n, w)] = (s1, .bad .permission va)) ∧
      (l.ord ≠ 3 → (w = true → l.w = true) → s1.pooled l.gpn = false → s.checkRanges core ctx [(va, n, w)] = (s1, .ok [[(va, l)]]))) ∧
  (∀ (h : Hdr) (f : SF) (s s2 s3 : State) (t : Team) (a : Nat) (bs : List Byte) (sh off : Nat)
    (ls : List (List (Word × Leaf))),
  let core := coreOf s.cur
  let load := f.sub.getLsbD 0 = false
  let sa : Lane32 := (t.rs f.s2.toNat).setWidth 32
  let x := Shape.ofBytes bs
  let offs := x.offsets (tileOrigin t (f.id.toNat % 64))
  let elems := offs.filterMap id
  let va (o : Nat) : Word := x.base + BitVec.ofNat 64 (x.elemAt o).1
  let gl (o i : Nat) : Loc := placeOf ls.flatten (va o + BitVec.ofNat 64 i)
  let w := x.width / 8
  let plane := f.sub.getLsbD 4
  let area := if plane then x.planeBytes else x.bytes
  let lo := (elems.map fun o => (va o).toNat).foldl min ((elems.map fun o => (va o).toNat).headD 0)
  let hi := (elems.map fun o => (va o).toNat).foldl max 0 + (x.elemAt 0).2
  s.IssuesOnce t (.cpyt h f) h → RecordRead s s.cur t (t.rs f.s1.toNat) 64 false true s2 a bs →
  (∀ sub, x.bad t.version plane = some sub → FreezesAt (exec (.cpyt h f) s) s2 s.cur t h .shape sub (t.rs f.s1.toNat)) ∧
  (x.bad t.version plane = none → sa.toNat % 16 ≠ 0 → FreezesAt (exec (.cpyt h f) s) s2 s.cur t h .misaligned 0 (sa.setWidth 64)) ∧
  (x.bad t.version plane = none → sa.toNat % 16 = 0 → (¬∃ p, s2.resolve t sa.toNat = some p ∧ p.2 + area ≤ s2.spBytesOf t p.1) →
    FreezesAt (exec (.cpyt h f) s) s2 s.cur t h .bounds 0 (sa.setWidth 64)) ∧
  (x.bad t.version plane = none → sa.toNat % 16 = 0 → s2.resolve t sa.toNat = some (sh, off) → off + area ≤ s2.spBytesOf t sh →
    ∀ c ea, s2.checkRanges core t.ctx (elems.map fun o => (va o, (x.elemAt o).2, f.sub.getLsbD 0)) = (s3, .bad c ea) →
    FreezesAt (exec (.cpyt h f) s) s3 s.cur t h c 0 ea) ∧
  (x.bad t.version plane = none → sa.toNat % 16 = 0 → s2.resolve t sa.toNat = some (sh, off) → off + area ≤ s2.spBytesOf t sh →
  s2.checkRanges core t.ctx (elems.map fun o => (va o, (x.elemAt o).2, f.sub.getLsbD 0)) = (s3, .ok ls) →
  let gLock := if elems = [] then rngLock s3 s.cur t s3.fresh (f.sub.getLsbD 0) none 0 0
    else rngLock s3 s.cur t s3.fresh (f.sub.getLsbD 0) none (BitVec.ofNat 64 lo) (hi - lo)
  let sLock := rngLock s3 s.cur t s3.fresh (!f.sub.getLsbD 0) (some (sh, off)) 0 area
  let whole : Prop := plane = false ∧ 8 ≤ x.width
  let e (src : List (Option Loc)) (dst : List Loc) (scope : Nat) : Xfer := newXfer s.cur t src dst scope (copyBell f) (ls.flatten.map (·.2))
  (load → LockRoom s3 [gLock, sLock] → ∃ y : Xfer, Registers (exec (.cpyt h f) s) s3 s.cur t y [gLock, sLock] ∧
    (whole → y = e (offs.flatMap fun o => (List.range w).map fun i => o.map fun o => gl o i) (spLocs sh off area) (min (f.sub.toNat / 2 % 8) 2))) ∧
  (¬load → elems ≠ [] → LockRoom s3 [sLock, gLock] → ∃ y : Xfer, Registers (exec (.cpyt h f) s) s3 s.cur t y [sLock, gLock] ∧
    (whole → y = e ((offs.zipIdx.filter fun y => y.1.isSome).flatMap fun y => (List.range w).map fun i => some (.sp sh (off + w * y.2 + i)))
      (elems.flatMap fun o => (List.range w).map (gl o)) (f.sub.toNat / 2 % 8))) ∧
  (¬load → elems = [] →
    Ends (exec (.cpyt h f) s) (match copyBell f with | some b => s3.bellArrive t.share b | none => s3) s.cur { t with formed := true } [])))

/-- Where an element stands (R146): position pos of a tile has the indices c(d) + its tile indices, dimension 0 fastest, and is absent
when an index is not below its dimension. SHAPE answers the tile's bytes, and stops with the first failing condition of Table 05-7
(R144, R145).
GATH and SCAT register one transfer of 2^SUB[2:0] bytes a lane between V.d + S2 and S1 + L × n of scratchpad, for the Active lanes in
order; with no lane they complete at once (R137, R148). That an overlapping range lock does not stop them, and that the scratchpad
position is taken modulo 2^32, are the model's choices (logs 22, 106). -/
def Obligations.ShapesGatherScatter : Prop :=
  ((∀ (x : Shape) (c : List Nat) (pos : Nat), pos < x.count → (∀ e ∈ x.exts.take x.rank, 0 < e) →
    x.rank ≤ x.exts.length → (x.offsets c).length = x.count ∧ ∃ js : List Nat, js.length = x.rank ∧
      (∀ d < x.rank, js.getD d 0 < x.exts.getD d 0) ∧
      pos = ((List.range x.rank).map fun d => js.getD d 0 * ((x.exts.take d).foldl (· * ·) 1)).sum ∧
      (x.offsets c)[pos]? = some (if ∀ d < x.rank, c.getD d 0 + js.getD d 0 < x.dims.getD d 0 then
        some ((List.range x.rank).map fun d => (c.getD d 0 + js.getD d 0) * x.strides.getD d 0).sum else none)) ∧
  ∀ (h : Hdr) (f : SF) (s s2 : State) (t : Team) (a : Nat) (bs : List Byte),
  let x := Shape.ofBytes bs
  s.IssuesOnce t (.shape h f) h → RecordRead s s.cur t (t.rs f.s1.toNat) 64 false true s2 a bs →
  (x.bad t.version false = none →
    EndsLong (exec (.shape h f) s) s2 s.cur t [(.s f.s2.toNat, 0, BitVec.ofNat 64 ((x.count * x.width + 7) / 8))]) ∧
  ∀ sub, x.bad t.version false = some sub → FreezesAt (exec (.shape h f) s) s2 s.cur t h .shape sub (t.rs f.s1.toNat)) ∧
  (∀ (h : Hdr) (f : SF) (s : State) (t : Team) (leaf : Nat → Leaf) (sh off : Nat → Nat),
  let core := coreOf s.cur
  let n := 2 ^ (f.sub.toNat % 8)
  let ga (L : Nat) : Word := (t.rv (f.v.toNat + 1) L ++ t.rv f.v.toNat L : Word) + t.rs f.s2.toNat
  let sa (L : Nat) : Nat := ((t.rs f.s1.toNat).toNat + L * n) % 2 ^ 32
  let lanes := t.act h
  let checked (gath : Bool) : Prop := ∀ L ∈ lanes, (ga L).toNat % n = 0 ∧ s.translate core t.ctx (ga L) (!gath) = (s, .ok (leaf L)) ∧
    (leaf L).ord ≠ 3 ∧ (gath = false → (leaf L).w = true) ∧ s.pooled (leaf L).gpn = false ∧ (s.pkg (pkgOf core)).knownLost (leaf L).gpn = false ∧
    (gath = true → s.poisonedAt (pkgOf core) (leaf L).gpn ((ga L).toNat % 65536) n = false) ∧ s.checkSp t (sa L) n gath false = .ok (sh L, off L)
  let gl := lanes.flatMap fun L => (List.range n).map fun i => Loc.glob (65536 * (leaf L).gpn + (ga L).toNat % 65536 + i)
  let sp := lanes.flatMap fun L => spLocs (sh L) (off L) n
  let lo := (lanes.map fun L => (ga L).toNat).foldl min ((lanes.map fun L => (ga L).toNat).headD 0)
  let hi := (lanes.map fun L => (ga L).toNat).foldl max 0 + n
  let so := (lanes.map off).foldl min ((lanes.map off).headD 0)
  let top := (lanes.map off).foldl max 0 + n
  let gLock (w : Bool) := rngLock s s.cur t s.fresh w none (BitVec.ofNat 64 lo) (hi - lo)
  let sLock (w : Bool) := rngLock s s.cur t s.fresh w (some (((lanes.head?).map sh).getD 0, so)) 0 (top - so)
  let e (src : List (Option Loc)) (dst : List Loc) (scope : Nat) : Xfer := newXfer s.cur t src dst scope (copyBell f) (lanes.map leaf)
  let rung := match copyBell f with | some b => s.bellArrive t.share b | none => s
  (s.Issues t (.gath h f) h → checked true → (lanes = [] → Ends (exec (.gath h f) s) rung s.cur { t with formed := true } []) ∧
    (lanes ≠ [] → LockRoom s [gLock false, sLock true] →
      Registers (exec (.gath h f) s) s s.cur t (e (gl.map some) sp (min (f.sub.toNat / 8) 2)) [gLock false, sLock true])) ∧
  (s.Issues t (.scat h f) h → checked false → (lanes = [] → Ends (exec (.scat h f) s) rung s.cur { t with formed := true } []) ∧
    (lanes ≠ [] → LockRoom s [sLock false, gLock true] →
      Registers (exec (.scat h f) s) s s.cur t (e (sp.map some) gl (f.sub.toNat / 8)) [sLock false, gLock true])))

/-- BATCH closes the forming batch under the next number, complete at once where its transfers have all completed; CWAIT waits for a batch,
acquires at the widest scope of its transfers and answers and clears the copy status; CSTAT answers the counts; batchdone is the number
before the oldest open batch (R149 to R152, R236).
At its issue a transfer reads every byte of global memory that no earlier transfer is to write (R339). It begins, and reads the rest, unless
an earlier one holds an overlapping lock and one of the two writes, or unless it has waited and an earlier one of its core or its
tables waits still (R139). A begun transfer within scratchpad has read every source byte, and completes: the last write to a byte
stands, its locks are freed, its bell counts and its batch is marked (R140, R143). -/
def Obligations.BatchesAndTransfers : Prop :=
  (∀ (h : Hdr) (f : SF) (s : State) (t : Team),
  (s.IssuesOnce t (.batch h f) h → ∀ (bs : List (BitVec 16 × List Nat)) (done : BitVec 16),
    let n := t.batch + 1
    let complete : Prop := t.formed = true ∧ t.forming = []
    (complete → bs = t.batches.dropWhile fun b => b.2.isEmpty) →
    (¬complete → bs = (t.batches ++ [(n, t.forming)]).dropWhile fun b => b.2.isEmpty) → done = (match bs with | [] => n | b :: _ => b.1 - 1) →
    (complete ∨ t.batches.length < 64 →
      EndsLong (exec (.batch h f) s) s s.cur { t with batch := n, batches := bs, forming := [], formed := false, batchDone := done }
        [(.s f.s1.toNat, 0, n.setWidth 64)]) ∧
    (¬complete → 64 ≤ t.batches.length → Parks (exec (.batch h f) s) s s.cur t .batchRoom)) ∧
  (s.IssuesOnce t (.cwait h f) h → ∀ m : BitVec 16,
    let n := if f.sub.getLsbD 0 then (t.rs f.s1.toNat).setWidth 16 else f.imm
    (t.latch = none ∨ t.latch = some [] → m = (if (t.batch - n).toNat < 2 ^ 15 then n else t.batch)) →
    (∀ x xs, t.latch = some (x :: xs) → m = x.setWidth 16) →
    ((t.batchDone - m).toNat < 2 ^ 15 →
      EndsLong (exec (.cwait h f) s) (s.acquire (coreOf s.cur) t.copyScope) s.cur { t with copyScope := 0, copyStatus := 0 }
        [(.s f.s2.toNat, 0, BitVec.ofNat 64 t.copyStatus)]) ∧
    (2 ^ 15 ≤ (t.batchDone - m).toNat → Parks (exec (.cwait h f) s) s s.cur { t with latch := some [m.setWidth 64] } (.batch m))) ∧
  (s.IssuesOnce t (.cstat h f) h →
    let mine (l : Lock) : Prop := ∃ e ∈ s.xfers, e.1 = l.xfer ∧ e.2.serial = t.serial ∧ e.2.share = t.share
    ∀ locks : Nat, (∃ m : Lock → Bool, (∀ l, m l = true ↔ mine l) ∧ locks = (s.cores.map fun c => c.2.locks.countP m).sum) →
    EndsLong (exec (.cstat h f) s) s s.cur t [(.s f.s1.toNat, 0, BitVec.ofNat 64 (t.copyStatus % 2 ^ 8 + 2 ^ 8 * (t.batches.length % 2 ^ 8)
      + 2 ^ 16 * t.batchDone.toNat + 2 ^ 32 * t.batch.toNat + 2 ^ 48 * (locks % 2 ^ 8)))])) ∧
  (∀ (s : State) (x : Nat) (e : Xfer), s.xfer x = some e →
  (e.got = none → ∃ (e' : Xfer) (got : List XByte), (s.placeReads x).xfer x = some e' ∧ e'.started = e.started ∧ e'.got = some got ∧ got.length = e.src.length ∧
    (∀ (i sh off : Nat), e.src[i]? = some (some (Loc.sp sh off)) → got[i]? = some XByte.later) ∧
    ∀ (i a : Nat), e.src[i]? = some (some (Loc.glob a)) → (got[i]? = some XByte.later ↔ ∃ y f, (y, f) ∈ s.xfers ∧ y < x ∧ Loc.glob a ∈ f.dst)) ∧
  (e.started = false →
    let blocked : Prop := ∃ c a b, a ∈ (s.core c).locks ∧ a.xfer = x ∧ (find s.cores c).isSome ∧ b ∈ (s.core c).locks ∧ b.xfer < x ∧ b.ctx = a.ctx ∧
      b.sh = a.sh ∧ a.lo ≤ a.hi ∧ b.lo < a.hi ∧ a.lo < b.hi ∧ (a.write = true ∨ b.write = true)
    let queued : Prop := e.waits = true ∧ ∃ y f, (y, f) ∈ s.xfers ∧ y < x ∧ f.waits = true ∧ f.started = false ∧
      (f.core = e.core ∨ ∃ c a b, (find s.cores c).isSome ∧ a ∈ (s.core c).locks ∧ a.xfer = x ∧ b ∈ (s.core c).locks ∧ b.xfer = y)
    (∀ c a, a ∈ (s.core c).locks → a.lo ≤ a.hi) → (s.cores.map (·.1)).Nodup →
    (blocked ∨ queued → exec (.transferBegin x) s = .next s) ∧
    (¬blocked → ¬queued → ∃ s' e', exec (.transferBegin x) s = .next s' ∧ s'.xfer x = some e' ∧ e'.started = true ∧
      (∃ got, e'.got = some got ∧ got.length = e.src.length) ∧
      (e.got = none ∨ e.got = some (e.src.map fun _ => .later) → (∀ l ∈ e.src, ∃ sh off, l = some (.sp sh off)) → s' = { s with xfers := put s.xfers x { e with
        started := true, got := some (e.src.map fun l => match l with | some (.sp sh off) => .known (s.spByte sh off) | _ => .failed) } }))) ∧
  (∀ vals : List Byte, e.started = true → e.got = some (vals.map .known) → e.wrote = false → (∀ q ∈ s.requests, q.2.xfer ≠ some x) →
    e.form = .bytes → vals.length = e.dst.length → (∀ l ∈ e.dst, ∃ sh off, l = .sp sh off ∧ (s.share sh).isSome) →
    ∃ s', exec (.transferComplete x) s = .next s' ∧ s'.xfer x = none ∧ (∀ c, ∀ l ∈ (s'.core c).locks, l.xfer ≠ x) ∧
      (∀ sh off, (s.share sh).isSome → s'.spByte sh off =
        ((e.dst.zip vals).reverse.find? fun y => y.1 == .sp sh off).elim (s.spByte sh off) (·.2)) ∧
      (∀ b, e.bell = some b → ∀ y m, s.share e.share = some y → y.stream = some m → b < m.bells.length →
        ∃ b', BellRule (s.bell e.share b) b' ∧ s'.bell e.share b = b') ∧
      ∀ tk t, s.team tk = some t → pkgOfTeam tk = pkgOf e.core → t.serial = e.serial → ∃ t', s'.team tk = some t' ∧ x ∉ t'.forming ∧
        (∀ b ∈ t'.batches, x ∉ b.2) ∧ t'.copyStatus = max t.copyStatus e.status ∧ t'.copyScope = max t.copyScope e.scope))

/-! ## Barriers, bells and rings (rows 0x13, 0x14) -/

/-- BAR.INIT, ARRIVE, WAIT, SYNC and DROP on a barrier word: the release, the count and the phase of Arrive, the team's registration, the wait
for the phase at the place that the word named when it issued, and the acquire (R52, R154 to R161, R374). -/
def Obligations.Barriers : Prop := ∀ (h : Hdr) (f : SF) (s : State) (t : Team) (sh off : Nat),
  let sc := min (f.sub.toNat % 8) 2
  let reg := t.regs.find? fun r => r.sh == sh && r.off == off
  let others := t.regs.filter fun r => !(r.sh == sh && r.off == off)
  let named : Prop := s.checkSp t (barAddr f t) 8 true = .ok (sh, off)
  -- a word that has parked waits where it waited
  let waitsAt : Prop := match t.latch with | some [a, b] => a.toNat = sh ∧ b.toNat = off | _ => named
  let parked : Option (List Word) := some [BitVec.ofNat 64 sh, BitVec.ofNat 64 off]
  -- a barrier word written is the word read, and no other byte of scratchpad changes
  (∀ (by_ : Option Nat) (w : BarWord), (s.share sh).isSome → w.expected < 2 ^ 16 → w.arrived < 2 ^ 16 → w.drops < 2 ^ 16 →
    (s.setBar by_ sh off w).barWord sh off = w ∧ ∀ q o, ¬(q = sh ∧ off ≤ o ∧ o < off + 8) → (s.setBar by_ sh off w).spByte q o = s.spByte q o) ∧
  (s.IssuesOnce t (.barInit h f) h → named →
    Ends (exec (.barInit h f) s) (s.setBar (some s.cur) sh off ⟨(t.rs f.s2.toNat).toNat % 2 ^ 16, 0, 0, false⟩) s.cur t []) ∧
  (s.IssuesOnce t (.barArrive h f) h → named →
    (∀ r, reg = some r → r.pending = true → Freezes (exec (.barArrive h f) s) s t h .illegal 0x12) ∧
    (reg = none → 8 ≤ t.regs.length → Freezes (exec (.barArrive h f) s) s t h .illegal 0x11) ∧
    ((∀ r, reg = some r → r.pending = false) → (reg = none → t.regs.length < 8) → ∀ s2, Released s s.cur t sc s2 →
      ∃ w, ArriveRule (s2.barWord sh off) w false ∧
      Ends (exec (.barArrive h f) s) (s2.setBar (some s.cur) sh off w) s.cur { t with regs := others ++ [⟨sh, off, true, (s2.barWord sh off).phase⟩] } [])) ∧
  (s.IssuesOnce t (.barWait h f) h → waitsAt →
    ((∀ r, reg = some r → r.pending = false) → Freezes (exec (.barWait h f) s) s t h .illegal 0x12) ∧
    (∀ r, reg = some r → r.pending = true →
      ((s.barWord sh off).phase = r.phase → Parks (exec (.barWait h f) s) s s.cur { t with latch := parked } (.barrier sh off r.phase)) ∧
      ((s.barWord sh off).phase ≠ r.phase →
        EndsAcq (exec (.barWait h f) s) s s.cur { t with regs := others ++ [⟨sh, off, false, r.phase⟩], syncMark := none } sc))) ∧
  (s.IssuesOnce t (.barSync h f) h → waitsAt → t.syncMark ≠ some t.here → (∀ r, reg = some r → r.pending = false) → (reg = none → t.regs.length < 8) →
    ∀ s2, Released s s.cur t sc s2 → (s2.share sh).isSome → ∃ w, ArriveRule (s2.barWord sh off) w false ∧
      let s3 := s2.setBar (some s.cur) sh off w
      let ph := (s2.barWord sh off).phase
      (w.phase = ph →
        Parks (exec (.barSync h f) s) s3 s.cur { t with regs := others ++ [⟨sh, off, true, ph⟩], syncMark := some t.here, latch := parked }
          (.barrier sh off ph)) ∧
      (w.phase ≠ ph → EndsAcq (exec (.barSync h f) s) s3 s.cur { t with regs := others ++ [⟨sh, off, false, ph⟩], syncMark := none } sc)) ∧
  (s.IssuesOnce t (.barSync h f) h → waitsAt → t.syncMark = some t.here → ∀ r, reg = some r → r.pending = true →
    ((s.barWord sh off).phase ≠ r.phase →
      EndsAcq (exec (.barSync h f) s) s s.cur { t with regs := others ++ [⟨sh, off, false, r.phase⟩], syncMark := none } sc) ∧
    ((s.barWord sh off).phase = r.phase → Parks (exec (.barSync h f) s) s s.cur { t with latch := parked } (.barrier sh off r.phase))) ∧
  (s.IssuesOnce t (.barDrop h f) h → named → ∀ s2, Released s s.cur t sc s2 → ∃ w,
    (if reg.any (·.pending) then w = { s2.barWord sh off with drops := (s2.barWord sh off).drops + 1 } else ArriveRule (s2.barWord sh off) w true) ∧
    Ends (exec (.barDrop h f) s) (s2.setBar (some s.cur) sh off w) s.cur { t with regs := others } [])

/-- BELL.RING releases and counts an arrival; its set form gives EXPECT and clears COUNT; BELL.WAIT goes on where PHASE differs from SEEN, with
SEEN := PHASE and an acquire, and parks where not; its nb form answers the bell's state word (R162 to R164).
RING.SEND fills the EMPTY slot at the tail behind a release, RING.TAKE empties the FULL slot at the head with an acquire, RING.FREE frees the
oldest TAKEN slot, its capacity form resets an empty ring, RING.STAT answers the ring's state word; a team that may not proceed queues
behind those that parked before; the nb form goes by the slot's state alone and says whether it proceeded (R165 to R167). -/
def Obligations.BellsAndRings : Prop :=
  (∀ (h : Hdr) (f : SF) (s : State) (t : Team) (x : Share) (m : Stream),
  let n := f.id.toNat % 16
  let sc := f.sub.toNat % 8
  let b := s.bell t.share n
  let seen := t.seen.getLsbD n
  s.share t.share = some x → x.stream = some m → n < m.bells.length →
  (s.IssuesOnce t (.bellRing h f) h → ∀ s2, Released s s.cur t sc s2 → ∃ b', BellRule b b' ∧
    Ends (exec (.bellRing h f) s) (s2.setBell t.share n b') s.cur t []) ∧
  (s.IssuesOnce t (.bellRingSet h f) h →
    Ends (exec (.bellRingSet h f) s) (s.setBell t.share n ⟨f.imm.toNat, 0, b.phase⟩) s.cur t []) ∧
  (s.IssuesOnce t (.bellWait h f) h →
    (b.phase = seen → Parks (exec (.bellWait h f) s) s s.cur t (.bell n)) ∧
    (b.phase ≠ seen → ∃ v : BitVec 16, v.getLsbD n = b.phase ∧ (∀ j, j ≠ n → v.getLsbD j = t.seen.getLsbD j) ∧
      EndsAcq (exec (.bellWait h f) s) s s.cur { t with seen := v } sc)) ∧
  (s.IssuesOnce t (.bellWaitNb h f) h → b.expect < 2 ^ 16 → b.count < 2 ^ 16 → ∃ w : Word,
    w.toNat = b.expect + 2 ^ 16 * b.count + 2 ^ 32 * b.phase.toNat + 2 ^ 33 * seen.toNat + 2 ^ 34 * (b.phase ^^ seen).toNat ∧
    (b.phase = seen → EndsLong (exec (.bellWaitNb h f) s) s s.cur t [(.s f.s1.toNat, 0, w)]) ∧
    (b.phase ≠ seen → ∃ v : BitVec 16, v.getLsbD n = b.phase ∧ (∀ j, j ≠ n → v.getLsbD j = t.seen.getLsbD j) ∧
      EndsLongAcq (exec (.bellWaitNb h f) s) s s.cur { t with seen := v } [(.s f.s1.toNat, 0, w)] sc))) ∧
  (∀ (h : Hdr) (f : SF) (s : State) (t : Team),
  let r := f.id.toNat % 8
  let nb := f.sub.getLsbD 3
  let sc := min (f.sub.toNat % 8) 2
  let g := s.ring t.share r
  let slot (i : Nat) : SlotState × Word := g.slots.getD i (.empty, 0)
  let status (x : Word) : List (RegId × Nat × Word) := if nb then [(.s f.s2.toNat, 0, x)] else []
  -- the token that a SEND read when it issued
  let token : Word := match t.latch with | some (x :: _) => x | _ => t.rs f.s1.toNat
  (s.IssuesOnce t (.ringSend h f) h →
    let turn : Prop := (slot g.tail).1 = .empty ∧ (nb = true ∨ g.senders = [] ∨ g.senders.head? = some s.cur)
    (turn → ∀ s2, Released s s.cur t sc s2 → let s3 := s2.setRing t.share r { g with
        slots := g.slots.set g.tail (.full, token), tail := (g.tail + 1) % g.cap, senders := g.senders.filter (· != s.cur) }
      if nb then EndsLong (exec (.ringSend h f) s) s3 s.cur t (status 0) else Ends (exec (.ringSend h f) s) s3 s.cur t []) ∧
    (¬turn → nb = true → EndsLong (exec (.ringSend h f) s) s s.cur t (status 1)) ∧
    (¬turn → nb = false → Parks (exec (.ringSend h f) s)
      (if s.cur ∈ g.senders then s else s.setRing t.share r { g with senders := g.senders ++ [s.cur] }) s.cur { t with latch := some [token] }
      (.ringSend r))) ∧
  (s.IssuesOnce t (.ringTake h f) h →
    let turn : Prop := (slot g.head).1 = .full ∧ (nb = true ∨ g.takers = [] ∨ g.takers.head? = some s.cur)
    (turn → EndsLongAcq (exec (.ringTake h f) s) (s.setRing t.share r { g with
        slots := g.slots.set g.head (.taken, (slot g.head).2), head := (g.head + 1) % g.cap, takers := g.takers.filter (· != s.cur) })
      s.cur t ((.s f.s1.toNat, 0, (slot g.head).2) :: status 0) sc) ∧
    (¬turn → nb = true → EndsLong (exec (.ringTake h f) s) s s.cur t (status 1)) ∧
    (¬turn → nb = false → Parks (exec (.ringTake h f) s)
      (if s.cur ∈ g.takers then s else s.setRing t.share r { g with takers := g.takers ++ [s.cur] }) s.cur t (.ringTake r))) ∧
  (s.IssuesOnce t (.ringFree h f) h →
    ((slot g.free).1 ≠ .taken → Freezes (exec (.ringFree h f) s) s t h .illegal 0x13) ∧
    ((slot g.free).1 = .taken → ∀ s2, Released s s.cur t sc s2 → Ends (exec (.ringFree h f) s)
      (s2.setRing t.share r { g with slots := g.slots.set g.free (.empty, 0), free := (g.free + 1) % g.cap }) s.cur t [])) ∧
  (s.IssuesOnce t (.ringFreeCap h f) h →
    ((∃ y ∈ g.slots, y.1 ≠ .empty) → Freezes (exec (.ringFreeCap h f) s) s t h .illegal 0x13) ∧
    ((∀ y ∈ g.slots, y.1 = .empty) → Ends (exec (.ringFreeCap h f) s) (s.setRing t.share r { g with
      cap := f.imm.toNat, slots := List.replicate f.imm.toNat (.empty, 0), tail := 0, head := 0, free := 0 }) s.cur t [])) ∧
  (s.IssuesOnce t (.ringStat h f) h →
    let n (x : SlotState) : Nat := g.slots.countP fun y => y.1 == x
    EndsLong (exec (.ringStat h f) s) s s.cur t [(.s f.s1.toNat, 0, BitVec.ofNat 64 (g.cap + 2 ^ 8 * n .full + 2 ^ 16 * n .taken
      + 2 ^ 24 * n .empty + 2 ^ 32 * g.head + 2 ^ 36 * g.tail + 2 ^ 40 * g.free))]))

/-! ## Try regions (row 0x15) -/

/-- TRY opens a region whose checkpoint is the team's registers, lanes and depth at the word, and an abort brings all of them back, discards the
buffer and the footprints, counts itself and continues at the abort clause (R169, R171).
COMMIT performs the buffered stores and closes the region; the predicate it names tells each lane whether it committed; in team mode a
conflict aborts the region, in lane mode the conflicting lanes alone return to the checkpoint and their stores are dropped (R172). That
TRY parks while a result is outstanding, and that COMMIT performs its buffer in one step, are the model's choices (logs 12, 3). -/
def Obligations.TryRegions : Prop :=
  (∀ (h : Hdr) (f : SF) (s : State) (t : Team),
  (s.IssuesOnce t (.tryK h f) h →
    ((∃ o ∈ t.outst, o.parts ≠ []) → Parks (exec (.tryK h f) s) s s.cur t .results) ∧
    ((∀ o ∈ t.outst, o.parts = []) → ∃ r : TryRegion, r.laneMode = f.sub.getLsbD 0 ∧ r.abortPc = t.pc + 8 * f.imm.signExtend 64 ∧
      r.live = t.live ∧ r.active = t.active ∧ r.depth = t.masks.length ∧ r.buf = [] ∧ r.foot = [] ∧
      Ends (exec (.tryK h f) s) s s.cur { t with tryR := some r } [] ∧
      ∀ (u : Team) (code user : Nat), u.tryR = some { r with buf := (u.tryR.getD r).buf, foot := (u.tryR.getD r).foot } → u.lanes = t.lanes →
        ∀ (q : RegId) (L : Nat), q.place L → (u.abortTry code user).endVal q L = t.endVal q L)) ∧
  (∀ (code user : Nat) (r : TryRegion), t.tryR = some r →
    let u := t.abortTry code user
    u.tryR = none ∧ u.live = r.live ∧ u.active = r.active ∧ u.masks = t.masks.drop (t.masks.length - r.depth) ∧ u.pc = r.abortPc ∧ u.word = none ∧
      u.outst = [] ∧ u.tryCode = BitVec.ofNat 8 code ∧ u.tryUser = BitVec.ofNat 8 user ∧ u.tryAborts = t.tryAborts + 1 ∧ u.run = .running) ∧
  (s.IssuesOnce t (.abortK h f) h →
    (t.tryR = none → Freezes (exec (.abortK h f) s) s t h .illegal 0x10) ∧
    (t.tryR ≠ none → Aborts (exec (.abortK h f) s) s s.cur t 1 (f.imm.toNat % 256))) ∧
  (s.IssuesOnce t (.tstat h f) h → UniEnds (exec (.tstat h f) s) s t f.s1.toNat fun x => x.toNat =
    t.tryCode.toNat + 2 ^ 8 * t.tryUser.toNat + 2 ^ 16 * t.tryR.isSome.toNat + 2 ^ 17 * (t.tryR.any (·.laneMode)).toNat
      + 2 ^ 20 * ((t.tryR.elim 0 (·.sectors)) % 2 ^ 12) + 2 ^ 32 * t.tryAborts.toNat)) ∧
  (∀ (h : Hdr) (f : SF) (s : State) (t : Team),
  let kn := f.id.toNat % 16
  let sc := f.sub.toNat % 8
  s.IssuesOnce t (.commit h f) h →
  (t.tryR = none → Freezes (exec (.commit h f) s) s t h .illegal 0x10) ∧
  (∀ r, t.tryR = some r →
    let bad (L : Nat) : Prop := ∃ q ∈ r.foot, q.dirty = true ∧ q.lane = L
    (r.laneMode = false → (∃ L, bad L) → Aborts (exec (.commit h f) s) s s.cur t 3 0) ∧
    (r.laneMode = false → (∀ L, ¬bad L) → ∀ s2, Released s s.cur t sc s2 →
      EndsLong (exec (.commit h f) s) (s2.performBuffer s.cur t r.buf sc) s.cur { t with tryR := none } ((t.act h).map fun L => (.k kn, L, 0))) ∧
    (r.laneMode = true → Rising r.v → ∀ (b : Nat → Bool) (s2 : State), (∀ L, b L = true ↔ bad L) → Released s s.cur t sc s2 →
      ∃ u : Team, u.tryR = none ∧ ((∃ L, b L = true) → u.tryCode = 3) ∧ ((∀ L, b L = false) → u.tryCode = t.tryCode) ∧
        t.Kept { u with tryR := t.tryR, tryCode := t.tryCode } ∧ u.pc = t.pc ∧ u.word = t.word ∧
        EndsLong (exec (.commit h f) s) (s2.performBuffer s.cur t (r.buf.filter fun q => !b q.lane) sc) s.cur u
          ((List.range t.lanes).map fun L => (.k kn, L, bit (b L))) ∧
        ∀ (q : RegId) (L : Nat), q.place L → (∀ n, q = .k n → n ≠ kn ∧ n < 16) →
          match q with
          | .s _ => u.endVal q L = t.endVal q L ∧ u.dueParts q L = t.dueParts q L
          | _ => if b L then u.endVal q L = (t.abortTry 3 0).endVal q L ∧ u.dueParts q L = []
                 else u.endVal q L = t.endVal q L ∧ u.dueParts q L = t.dueParts q L)))

/-! ## Span instructions (row 0x16) -/

/-- A field of a record is written alone (Tables 06-15, 06-16); SPANAPP appends positions under a tag, where the map has room and no block it
needs is unmapped, and answers the first position or 2^32; SPANTAG tags the positions that lanes name; SPANSET tags a range, under `.if`
only where the old tag fits (R186 to R188).
SPANRET retires every position of a tag, and frees the page of each full block; SPANQ counts positions; both answer in one register.
RMAP answers each lane's residency status, address and tag (R186 to R189, R325). That a map's records are read and written at the SYSTEM
point in one step, behind the write-back of their lines, is the model's choice (log 80). -/
def Obligations.SpanMaps : Prop :=
  ((∀ n lo len v lo' len' : Nat, field (setField n lo len v) lo len = v % 2 ^ len ∧
    (lo' + len' ≤ lo ∨ lo + len ≤ lo' → field (setField n lo len v) lo' len' = field n lo' len')) ∧
  ∀ (h : Hdr) (f : SF) (s s2 s3 : State) (t : Team) (a : Nat) (as : List Nat),
  let m := t.rs f.s1.toNat
  let sc := f.sub.toNat % 8
  let tag := f.id.toNat % 16
  let hd := s2.record (pkgOfTeam s.cur) a
  let next := mapNext hd
  let setTag (b : Nat) (ok : Nat → Nat → Bool) (e : Nat) : Nat := mapSlots b ok (fun x i => setField x (4 * i) 4 tag) e
  SpanStarts s s.cur t m true sc s2 a →
  (s.IssuesOnce t (.spanapp h f) h →
    let n := f.imm.toNat
    let res (x : Nat) : Option (Nat × Nat) := some (f.s2.toNat, x)
    (64 * mapCap hd < next + n → SpanEnds (exec (.spanapp h f) s) s2 s.cur t sc [] (res (2 ^ 32))) ∧
    (next + n ≤ 64 * mapCap hd → MapsOk s2 s.cur t ((blocksOf next (next + n)).map (entryVa m)) true s3 as →
      let es := entriesOf s3 s.cur (blocksOf next (next + n)) as
      ((∃ e ∈ es, entStatus e.2.2 ≠ 0) → SpanEnds (exec (.spanapp h f) s) s3 s.cur t sc [] (res (2 ^ 32))) ∧
      ((∀ e ∈ es, entStatus e.2.2 = 0) → SpanEnds (exec (.spanapp h f) s) s3 s.cur t sc
        (es.map (fun e => (e.2.1, mapSlots e.1 (fun q _ => decide (next ≤ q) && decide (q < next + n))
            (fun x i => setField (setField x (4 * i) 4 tag) (256 + i) 1 0) e.2.2)) ++ [(a, setField hd 0 32 (next + n))]) (res next)))) ∧
  (s.IssuesOnce t (.spantag h f) h →
    let qs := ((t.act h).map fun L => (t.rv f.v.toNat L).toNat).filter fun q => decide (q < next)
    let bs := (qs.map (· / 64)).dedup
    MapsOk s2 s.cur t (bs.map (entryVa m)) true s3 as →
    SpanEnds (exec (.spantag h f) s) s3 s.cur t sc ((entriesOf s3 s.cur bs as).map fun e =>
      (e.2.1, setTag e.1 (fun q x => decide (q ∈ qs) && !entRetired x (q % 64)) e.2.2)) none) ∧
  (s.IssuesOnce t (.spanset h f) h →
    let r := (t.rs f.s2.toNat).toNat
    let first := r % 2 ^ 32
    let hi := min (first + r / 2 ^ 32) next
    MapsOk s2 s.cur t ((blocksOf first hi).map (entryVa m)) true s3 as →
    SpanEnds (exec (.spanset h f) s) s3 s.cur t sc ((entriesOf s3 s.cur (blocksOf first hi) as).map fun e =>
      (e.2.1, setTag e.1 (fun q x => decide (first ≤ q) && decide (q < hi) && !entRetired x (q % 64) &&
        (!f.imm.getLsbD 4 || entTag x (q % 64) == f.imm.toNat % 16)) e.2.2)) none)) ∧
  (∀ (h : Hdr) (f : SF) (s s2 s3 : State) (t : Team) (a : Nat) (as : List Nat),
  let m := t.rs f.s1.toNat
  let sc := f.sub.toNat % 8
  let tag := f.id.toNat % 16
  let p := pkgOfTeam s.cur
  let hd := s2.record p a
  let next := mapNext hd
  let es := entriesOf s3 s.cur (blocksOf 0 next) as
  let count (ok : Nat → Nat → Bool) : Nat := (es.map fun e => (List.range 64).countP fun i => ok (64 * e.1 + i) e.2.2).sum
  (s.IssuesOnce t (.spanret h f) h → SpanStarts s s.cur t m true sc s2 a → MapsOk s2 s.cur t ((blocksOf 0 next).map (entryVa m)) true s3 as →
    let hit (q x : Nat) : Bool := decide (q < next) && entTag x (q % 64) == tag && !entRetired x (q % 64)
    let es' := es.map fun e => (e.1, e.2.1, mapSlots e.1 hit (fun x i => setField x (256 + i) 1 1) e.2.2)
    let full (e : Nat × Nat × Nat) : Bool := decide (e.1 < mapCap hd) && entStatus e.2.2 == 0 && field e.2.2 256 64 == 2 ^ 64 - 1
    SpanEnds (exec (.spanret h f) s) ((es'.filter full).foldl (fun s e => s.lowerRef p (entPage e.2.2)) s3) s.cur t sc
      (es'.map fun e => (e.2.1, if full e then setField e.2.2 360 3 2 else e.2.2))
      (some (f.s2.toNat, count hit + 2 ^ 32 * es'.countP full))) ∧
  (s.IssuesOnce t (.spanq h f) h → SpanStarts s s.cur t m false sc s2 a → MapsOk s2 s.cur t ((blocksOf 0 next).map (entryVa m)) false s3 as →
    SpanEnds (exec (.spanq h f) s) s3 s.cur t sc [] (some (f.s2.toNat, next + 2 ^ 32 * count fun q x =>
      decide (q < next) && !entRetired x (q % 64) && (f.imm.getLsbD 0 || entTag x (q % 64) == tag)))) ∧
  (s.Issues t (.rmap h f) h → t.act h = [] → Ends (exec (.rmap h f) s) s s.cur t []) ∧
  (s.Issues t (.rmap h f) h → t.act h ≠ [] → SpanStarts s s.cur t m false sc s2 a →
    let q (L : Nat) : Nat := (t.rv f.v.toNat L).toNat
    let live (L : Nat) : Bool := decide (q L < next) && decide (q L < 64 * mapCap hd)
    let bs := (((t.act h).filter live).map fun L => q L / 64).dedup
    (∀ L ∈ t.act h, live L = true → ∃ ps, s2.checkGlobal (coreOf s.cur) t.ctx (entryVa m (q L / 64)) 64 false false false true = (s2, .ok ps)) →
    MapsOk s2 s.cur t (bs.map (entryVa m)) false s3 as →
    let ent (L : Nat) : Nat := (((entriesOf s3 s.cur bs as).find? fun e => e.1 == q L / 64).map (·.2.2)).getD 0
    let state (L : Nat) : FrameState := (s3.pkg p).stateOf (entPage (ent L))
    let status (L : Nat) : Nat :=
      if live L = false ∨ entStatus (ent L) = 1 then 1
      else if entRetired (ent L) (q L % 64) = true ∨ entStatus (ent L) = 2 then 2
      else if state L = .lost then 4 else if state L = .filling ∨ state L = .moving then 3
      else if state L = .replica ∨ state L = .masterShared ∨ state L = .masterExcl then 0 else 5
    let addr (L : Nat) : Word := if status L = 1 ∨ status L = 2 ∨ status L = 4 then 0
      else BitVec.ofNat 64 (mapVbase hd + 65536 * (q L / 64) + mapGstride hd * f.imm.toNat + mapSstride hd * (q L % 64))
    EndsLongAcq (exec (.rmap h f) s) s3 s.cur t ((t.act h).flatMap fun L =>
      [(.v f.v.toNat, L, ((addr L).extractLsb' 0 32).setWidth 64), (.v (f.v.toNat + 1), L, ((addr L).extractLsb' 32 32).setWidth 64),
        (.v (f.v.toNat + 2), L, BitVec.ofNat 64 (status L)),
        (.v (f.v.toNat + 3), L, BitVec.ofNat 64 (if live L then entTag (ent L) (q L % 64) else 0))]) sc))

/-! ## Reeve instructions (row 0x17) -/

/-- FINFO answers what a handle names; FRD reads the frozen team's registers, masks, status and cause, lane by lane or once (R181, R182,
R285, R291, R294).
FWR writes the frozen team's registers, its resume point, its active lanes or an accumulator; FPATCH writes the destination of its frozen
instruction, and clears the causes of the lanes it has done (R182, R183). That FINFO parks while its team steps (log 32), that FWR of s, k
and masks has no allotment limit (log 31), and that FILE 6 takes every Active lane below 128 (log 107), are the model's choices. -/
def Obligations.ReeveReadsAndWrites : Prop :=
  (∀ (h : Hdr) (f : FF) (s : State) (t ft : Team) (k : Nat),
  let role (u : Team) : Nat := match u.role with | .general => 0 | .copy => 1 | .norm => 2 | .reeve => 3
  let info (x : Nat) : Prop := EndsLong (exec (.finfo h f) s) s s.cur t [(.s f.ssel.toNat, 0, BitVec.ofNat 64 x)]
  (s.IssuesOnce t (.finfo h f) h →
    (OnFrozen s t f k ft →
      (f.imm = 0 → info (1 + (if ft.cause.imprecise then 4 else 0) + (if ft.tryR.isSome then 8 else 0) + 2 ^ 32 * ft.serial)) ∧
      (f.imm = 1 → ft.cause.primary ≠ 0 → info ft.cause.addr.toNat) ∧ (f.imm = 2 → info (ft.grid % 2 ^ 32 + 2 ^ 32 * role ft))) ∧
    (f.hnd ≠ 0 ∨ t.h0 = .none → info 0) ∧
    (∀ e r, f.hnd = 0 → t.h0 = .departed e r →
      (f.imm = 0 → info (6 + 2 ^ 32 * e.serial)) ∧ (f.imm = 1 → info r.addr.toNat) ∧
      (f.imm = 2 → info (e.grid % 2 ^ 32 + 2 ^ 32 * match e.role with | .general => 0 | .copy => 1 | .norm => 2 | .reeve => 3))) ∧
    (f.hnd = 0 → t.h0 = .frozen k → s.team k = some ft → ft.stepping.isSome = true ∨ ft.settled = false →
      Parks (exec (.finfo h f) s) s s.cur t (.step k))) ∧
  (s.IssuesOnce t (.frd h f) h →
    (OnFrozen s t f k ft →
      if f.useV false = some true then
        EndsLong (exec (.frd h f) s) s s.cur t ((t.act h).flatMap fun L =>
          let x := frdLaneRule s t ft f L
          if f.file = 5 ∧ f.imm = 1 then
            [(.v f.v.toNat, L, (x.extractLsb' 0 32).setWidth 64), (.v (f.v.toNat + 1), L, (x.extractLsb' 32 32).setWidth 64)]
          else [(.v f.v.toNat, L, x)])
      else EndsLong (exec (.frd h f) s) s s.cur t [(.s f.ssel.toNat, 0, frdOnceRule s ft f)]) ∧
    (f.hnd ≠ 0 ∨ t.h0 = .none → Freezes (exec (.frd h f) s) s t h .illegal 0x14))) ∧
  (∀ (h : Hdr) (f : FF) (s : State) (t ft : Team) (k : Nat),
  let n := f.treg.toNat
  let lanes := (t.act h).filter fun L => decide (L < ft.lanes)
  let writes (r : Res) (ws : List (RegId × Nat × Word)) (g : Team → Team) : Prop :=
    ∃ u : Team, Ends r (s.setTeam k (g u)) s.cur t [] ∧ ft.Kept u ∧ u.pc = ft.pc ∧ u.word = ft.word ∧ u.run = ft.run ∧ u.cause = ft.cause ∧ ft.Wrote u ws
  OnFrozen s t f k ft →
  (s.IssuesOnce t (.fwr h f) h → ft.pend = [] →
    (f.file = 0 → n < ft.allot → writes (exec (.fwr h f) s) (lanes.map fun L => (.v n, L, (t.rv f.v.toNat L).setWidth 64)) id) ∧
    (f.file = 0 → ft.allot ≤ n → Ends (exec (.fwr h f) s) s s.cur t []) ∧
    (f.file = 1 → writes (exec (.fwr h f) s) [(.s n, 0, t.rs f.ssel.toNat)] id) ∧
    (f.file = 2 → writes (exec (.fwr h f) s) (lanes.map fun L => (.k n, L, bit ((t.rv f.v.toNat L).getLsbD 0))) id) ∧
    (f.file = 3 → f.imm = 0 → (t.rs f.ssel.toNat).toNat % 8 = 0 → Ends (exec (.fwr h f) s)
      (s.setTeam k { ft with pc := t.rs f.ssel.toNat, word := none, cause := {}, retry := none, syncMark := none }) s.cur t []) ∧
    (f.file = 3 → f.imm = 0 → (t.rs f.ssel.toNat).toNat % 8 ≠ 0 → t.tryR = none → Freezes (exec (.fwr h f) s) s t h .misaligned 0) ∧
    (f.file = 3 → f.imm = 2 → ∃ x : Mask, (∀ L < 1024, x.getLsbD L = if L ∈ lanes then (ft.live.getLsbD L && t.rv f.v.toNat L != 0) else ft.active.getLsbD L) ∧
      Ends (exec (.fwr h f) s) (s.setTeam k { ft with active := x }) s.cur t []) ∧
    (f.file = 6 → ∀ (x : Share) (m : Stream), s.share t.share = some x → x.stream = some m → f.imm.toNat % 32 < m.blocks.length →
      ∃ s2, Ends (exec (.fwr h f) s) s2 s.cur t [] ∧ s2 = { s with shares := s2.shares } ∧ (∀ q, q ≠ t.share → s2.share q = s.share q) ∧
        (s2.share t.share).map (fun y => { y with stream := none }) = some { x with stream := none } ∧
        ∀ b j, s2.accElem t.share b j = if b = f.imm.toNat % 32 ∧ j / 128 = f.imm.toNat / 32 % 128 ∧ j % 128 ∈ t.act h
          then t.rv f.v.toNat (j % 128) else s.accElem t.share b j)) ∧
  (s.IssuesOnce t (.fpatch h f) h → ft.pend = [] → ft.cause.atHeader = false → ft.cause.primary ≠ 0 → ∀ w,
    s.wordAt (coreOf s.cur) ft.ctx ft.cause.addr = some w →
    let part := f.imm.toNat % 4
    let finish (u : Team) : Team := if f.imm.getLsbD 2 then { u with cause := { ft.cause with lanes := ft.cause.lanes.filter fun c => decide (c.lane ∉ t.act h) } } else u
    (∀ b words, destOf (decodeWord w) = .v b words → part < words → b + part < ft.allot →
      writes (exec (.fpatch h f) s) (lanes.map fun L => (.v (b + part), L, (t.rv f.v.toNat L).setWidth 64)) finish) ∧
    (∀ b, destOf (decodeWord w) = .k b → part = 0 →
      writes (exec (.fpatch h f) s) (lanes.map fun L => (.k b, L, bit ((t.rv f.v.toNat L).getLsbD 0))) finish) ∧
    (∀ b L, destOf (decodeWord w) = .s b → lanes.head? = some L → part < 2 →
      writes (exec (.fpatch h f) s) [(.s b, 0, if part = 0 then (ft.rs b).extractLsb' 32 32 ++ t.rv f.v.toNat L else t.rv f.v.toNat L ++ (ft.rs b).extractLsb' 0 32)]
        finish)))

/-- FRESUME.retry lets the frozen team re-execute its word in the lanes whose cause is set, FRESUME.skip lets it go on behind the word; no
handle and no list names it any more. FSTEP lets it run one word, whose outcome the reeve's register waits for (R184, R286). Each waits
until the reeve's earlier writes have been performed (R318). -/
def Obligations.ReeveResumesAndSteps : Prop := ∀ (h : Hdr) (f : FF) (s : State) (t ft : Team) (k : Nat),
  OnFrozen s t f k ft → ft.reports = [] → ft.h0 = .none → ft.cause.imprecise = false → ft.cause.primary ≠ 0 →
  let own (X : State) : Prop := X.team s.cur = some { t with h0 := .none }
  (s.unwritten s.cur t.serial ≠ [] → ∀ i, i = .fresumeRetry h f ∨ (i = .fresumeSkip h f ∧ ft.cause.atHeader = false) ∨ i = .fstep h f →
    s.IssuesOnce t i h → Parks (exec i s) s s.cur t (.fetched (s.unwritten s.cur t.serial))) ∧
  (s.IssuesOnce t (.fresumeSkip h f) h → ft.cause.atHeader = true → Freezes (exec (.fresumeSkip h f) s) s t h .illegal 0x14) ∧
  (s.unwritten s.cur t.serial = [] →
  (s.IssuesOnce t (.fresumeRetry h f) h → ft.cause.atHeader = false → ft.cause.lanes ≠ [] → ∃ (X : State) (m : Mask),
    EndsIn (exec (.fresumeRetry h f) s) X s.cur [] ∧ own X ∧ X.Unnamed k ∧ ft.cause.Names m ∧
    X.team k = some { ft with run := .running, retry := some m, escalated := false, withdrawn := false, admitSeq := s.fresh }) ∧
  (s.IssuesOnce t (.fresumeSkip h f) h → ft.cause.atHeader = false → ∃ (X : State) (u : Team), EndsIn (exec (.fresumeSkip h f) s) X s.cur [] ∧
      own X ∧ X.Unnamed k ∧ X.team k = some u ∧ u.run = .running ∧ u.cause = {} ∧ u.retry = none ∧ u.syncMark = none ∧ ft.Next u ∧ ft.Wrote u []) ∧
  (s.IssuesOnce t (.fstep h f) h → Rising s.teams → ft.cause.atHeader = false → ft.cause.lanes ≠ [] → ∃ m : Mask, ft.cause.Names m ∧
    EndsParts (exec (.fstep h f) s)
      ((s.bump.dropPages k ft).setTeam k { ft with run := .running, retry := some m, stepping := some (some s.fresh) }) s.cur t
      [⟨.s f.ssel.toNat, 0, (List.range 8).map fun i => .await s.fresh i, false, false⟩]))

/-- FKILL ends the frozen team and FKILL.grid its grid's teams, one that waits for its release behind it (R357); FARRIVE arrives at or drops from a barrier for it, behind releases of both;
FRELEASE ends the reeve and hands a frozen team back to its core's list (R185, R291). The first two wait until the reeve's earlier writes
have been performed (R318). -/
def Obligations.ReeveEndsAndArrives : Prop := ∀ (h : Hdr) (f : FF) (s : State) (t ft : Team) (k : Nat), t.tryR = none →
  (s.unwritten s.cur t.serial ≠ [] → ∀ i, i = .fkill h f ∨ i = .fkillGrid h f → s.IssuesOnce t i h → OnFrozen s t f k ft →
    Parks (exec i s) s s.cur t (.fetched (s.unwritten s.cur t.serial))) ∧
  (s.unwritten s.cur t.serial = [] → s.IssuesOnce t (.fkill h f) h → OnFrozen s t f k ft → ft.h0 = .none → ∃ X,
    EndsIn (exec (.fkill h f) s) X s.cur [] ∧ X.team k = none ∧ X.team s.cur = some { t with h0 := .none } ∧
    (∀ c, Handle.frozen k ∉ (X.core c).waiting ∧ Handle.frozen k ∉ (X.core c).held) ∧ (∃ e ∈ (X.pkg (pkgOfTeam k)).endedTeams, e.serial = ft.serial)) ∧
  (s.unwritten s.cur t.serial = [] → s.IssuesOnce t (.fkillGrid h f) h → Rising s.teams →
    (OnFrozen s t f k ft → ∃ X, EndsIn (exec (.fkillGrid h f) s) X s.cur [] ∧ ∀ n u, X.team n = some u → u.grid = ft.grid →
      u.role = .reeve ∨ u.doomed = true ∧ u.releasing = true) ∧
    (∀ e r, f.hnd = 0 → t.h0 = .departed e r → ∃ X,
      EndsIn (exec (.fkillGrid h f) s) X s.cur [] ∧ ∀ n u, X.team n = some u → u.grid = e.grid → u.role = .reeve ∨ u.doomed = true ∧ u.releasing = true)) ∧
  (s.IssuesOnce t (.farrive h f) h → OnFrozen s t f k ft → ∀ sh off s2,
    s.checkSp ft ((t.rs f.ssel.toNat).toNat % 2 ^ 32) 8 true = .ok (sh, off) → s.quiet k ft.serial = true → Released s s.cur t 2 s2 →
    let reg := ft.regs.find? fun r => r.sh == sh && r.off == off
    let others := ft.regs.filter fun r => !(r.sh == sh && r.off == off)
    let s3 := s2.release (coreOf k) 2
    let old := s3.barWord sh off
    (f.imm.getLsbD 0 = false → (∀ r, reg = some r → r.pending = false) → (reg = none → ft.regs.length < 8) → ∃ w, ArriveRule old w false ∧
      Ends (exec (.farrive h f) s) ((s3.setTeam k { ft with regs := others ++ [⟨sh, off, true, old.phase⟩] }).setBar (some k) sh off w) s.cur t []) ∧
    (f.imm.getLsbD 0 = true → ∃ w, (if reg.any (·.pending) then w = { old with drops := old.drops + 1 } else ArriveRule old w true) ∧
      Ends (exec (.farrive h f) s) ((s3.setTeam k { ft with regs := others }).setBar (some k) sh off w) s.cur t [])) ∧
  (s.IssuesOnce t (.frelease h f) h → ∃ s', exec (.frelease h f) s = .next s' ∧ s'.team s.cur = none ∧
    (t.h0 = .frozen k → s.team k = some ft → ft.run = .frozen → k ≠ s.cur → (s.core (coreOf s.cur)).waiting.length < 64 →
      Handle.frozen s.cur ∉ (s.core (coreOf s.cur)).waiting → Handle.frozen s.cur ∉ (s.core (coreOf s.cur)).held →
      (s'.core (coreOf s.cur)).waiting = (s.core (coreOf s.cur)).waiting ++ [.frozen k] ∧ (s'.team k).map (·.run) = some .frozen))

/-! ## System instructions (row 0x18) -/

/-- ACQUIRE raises the allotment where the register file has room and no other team waits, and parks where not; GIVEBACK lowers it and discards
what stood above (R23, R174). LAUNCH reads its record when it issues, puts it into the queue of the launching grid behind those that wait
and answers a ticket, or, where those that wait leave it no entry, answers that the store is full or waits with the record read; LSTAT answers a ticket's state (R175, R176, R300). -/
def Obligations.AllotmentAndLaunch : Prop := ∀ (h : Hdr) (f : SF) (s : State) (t : Team),
  (s.IssuesOnce t (.acquire h f) h →
    let n := f.imm.toNat
    (n ≤ t.allot → Ends (exec (.acquire h f) s) s s.cur t []) ∧
    (t.allot < n → s.fits s.cur t n = true → (∀ e ∈ s.waiters (coreOf s.cur), e.1 = s.cur) →
      Ends (exec (.acquire h f) s) s s.cur { t with allot := n } []) ∧
    (t.allot < n → s.fits s.cur t n = false → Parks (exec (.acquire h f) s) s.bump s.cur { t with admitSeq := s.fresh } (.admission n))) ∧
  (s.IssuesOnce t (.giveback h f) h → ∃ t', exec (.giveback h f) s = .next (s.setTeam s.cur t') ∧
    let a := max (min t.allot f.imm.toNat) t.pro
    ({ t with allot := a } : Team).Kept t' ∧ t.Next t' ∧
    (∀ (r : RegId) (L : Nat), r.place L → (∀ n, r = .v n → n < a) → t'.endVal r L = t.endVal r L ∧ t'.dueParts r L = t.dueParts r L) ∧
    ∀ n L, L < 1024 → a ≤ n → t'.endVal (.v n) L = 0 ∧ t'.dueParts (.v n) L = []) ∧
  (∀ (s2 s3 : State) (a : Nat) (bs : List Byte), s.IssuesOnce t (.launch h f) h →
    let p := pkgOfTeam s.cur
    let q := (s3.grid t.grid).elim 0 (·.queue)
    let n := (s3.pkg p).nextTicket.toNat
    let waits := (s3.pkg p).launchWait.filter fun x => !inImage x
    let room : Prop := if s.cur ∈ waits then waits.head? = some s.cur ∧ (s3.pkg p).pending.length < 4096
      else (s3.pkg p).pending.length + waits.length < 4096
    let reaches : Prop :=
      (room → EndsLong (exec (.launch h f) s)
        ((s3.updPkg p fun k => { k with launchWait := k.launchWait.filter (· != s.cur), nextTicket := k.nextTicket + 1
                                        pending := put k.pending n (q, .ofBytes bs), tickets := put k.tickets n ⟨0, 0⟩ }).updQueue p q
          fun x => { x with entered := x.entered ++ [some n] })
        s.cur t [(.s f.s2.toNat, 0, BitVec.ofNat 64 (2 ^ 32 * n))]) ∧
      (¬room → f.sub.getLsbD 0 = true → Parks (exec (.launch h f) s)
        (s3.updPkg p fun k => { k with launchWait := if s.cur ∈ k.launchWait then k.launchWait else k.launchWait ++ [s.cur] }) s.cur
        { t with latch := some ((List.range 8).map fun i => BitVec.ofNat 64 (natOfBytes ((bs.drop (8 * i)).take 8))) } .launchRoom) ∧
      (¬room → f.sub.getLsbD 0 = false → EndsLong (exec (.launch h f) s) s3 s.cur t
        ((.s f.s2.toNat, 0, 1) :: (t.act h).map fun L => (.k h.gk.toNat, L, bit h.ginv)))
    (t.latch = none ∨ t.latch = some [] → RecordRead s s.cur t (t.rs f.s1.toNat) 64 false true s2 a bs → Released s2 s.cur t 4 s3 → reaches) ∧
    (∀ ws, t.latch = some ws → ws ≠ [] → bs = ws.flatMap (fun x => bytesOf 8 x.toNat) → Released s s.cur t 4 s3 → reaches)) ∧
  (s.IssuesOnce t (.lstat h f) h → EndsLong (exec (.lstat h f) s) s s.cur t [(.s f.s1.toNat, 0,
    match find (s.pkg (pkgOfTeam s.cur)).tickets ((t.rs f.s2.toNat).toNat % 2 ^ 32) with
    | some k => BitVec.ofNat 64 (k.state + 2 ^ 8 * k.status)
    | none => 3)])

/-- TRAP freezes the team with its code. RDSR answers a register of Tables 01-3 and 01-4, each lane its own of the per-lane ones; WRSR
writes sr.spextra and sr.mode alone (R24, R25, R177, R178).
PGQRY answers what the package knows of a page, and zero for an address that does not translate (R179, R279); PGCTL is a reeve's: it
drains and releases, then pins each page or lets it roam again, waiting for a page's change or for a lodging, and answers the worst code
(R180, R270, R372). A page whose victim's lodging was abandoned repeats its victim choice; one that needs a way behind an earlier attraction
waits for it. The order of the worst code (log 86), TWIN taken from the translation (log 85), and sr.grid as the low half of a grid's
number (log 70), are the model's choices. -/
def Obligations.TrapsSpecialRegistersPages : Prop :=
  (∀ (h : Hdr) (f : SF) (s : State) (t : Team),
  let core := coreOf s.cur
  let p := pkgOfTeam s.cur
  let reads (sel : Nat) (x : Word) : Prop := f.imm.toNat = sel → t.executes h = true →
    Ends (exec (.rdsr h f) s) s s.cur t [(.s f.s1.toNat, 0, x)]
  (s.IssuesOnce t (.trap h f) h → exec (.trap h f) s = .next (s.freezeTeam s.cur t h .trap 0 0 f.imm.toNat)) ∧
  (s.Issues t (.rdsr h f) h →
    (f.imm.toNat = 0 → VecEnds (exec (.rdsr h f) s) s t h f.v fun L x => x.toNat = L) ∧
    (f.imm.toNat = 1 → VecEnds (exec (.rdsr h f) s) s t h f.v fun L x => x.toNat = L / 32) ∧
    reads 0x002 (BitVec.ofNat 64 t.teamIx) ∧ reads 0x003 (BitVec.ofNat 64 t.serial) ∧ reads 0x004 (BitVec.ofNat 64 (t.grid % 2 ^ 32)) ∧
    reads 0x005 (BitVec.ofNat 64 t.cluster) ∧ reads 0x006 (BitVec.ofNat 64 (core % 48)) ∧ reads 0x007 (BitVec.ofNat 64 (core % 48 / 12)) ∧
    reads 0x008 (BitVec.ofNat 64 p) ∧ reads 0x009 (BitVec.ofNat 64 (p / 12)) ∧
    reads 0x00A (match t.role with | .general => 0 | .copy => 1 | .norm => 2 | .reeve => 3) ∧
    reads 0x00B (BitVec.ofNat 64 (s.now - (s.pkg p).resetAt)) ∧ reads 0x00C (s.core core).energy ∧ reads 0x00D (t.batch.setWidth 64) ∧
    reads 0x00E (t.batchDone.setWidth 64) ∧ reads 0x00F t.trystat ∧ reads 0x010 (t.spextra.setWidth 64) ∧ reads 0x011 (BitVec.ofNat 64 t.allot) ∧
    reads 0x012 (BitVec.ofNat 64 t.version) ∧ reads 0x013 (bit t.ftz) ∧ reads 0x100 3 ∧ reads 0x101 48 ∧ reads 0x102 1024 ∧ reads 0x103 48 ∧
    reads 0x104 16 ∧ reads 0x105 4 ∧ reads 0x106 64 ∧ reads 0x107 180 ∧ reads 0x108 (BitVec.ofNat 64 (s.pkg p).podsize) ∧ reads 0x109 (s.pkg p).discarded ∧
    (2 ≤ f.imm.toNat → t.executes h = false → Ends (exec (.rdsr h f) s) s s.cur t [])) ∧
  (s.IssuesOnce t (.wrsr h f) h →
    (f.imm.toNat = 0x010 → Ends (exec (.wrsr h f) s) s s.cur { t with spextra := (t.rs f.s1.toNat).setWidth 32 } []) ∧
    (f.imm.toNat = 0x013 → Ends (exec (.wrsr h f) s) s s.cur { t with ftz := (t.rs f.s1.toNat).getLsbD 0 } [])) ∧
  ∀ c, s.team s.cur = some t → s.precheck s.cur t (.wrsr h f) h = some (.illegal, c) → Freezes (exec (.wrsr h f) s) s t h .illegal c) ∧
  (∀ (h : Hdr) (f : SF) (s s1 : State) (t : Team),
  let core := coreOf s.cur
  let p := pkgOfTeam s.cur
  let va := t.rs f.s1.toNat
  (s.IssuesOnce t (.pgqry h f) h →
    (∀ c, s.translate core t.ctx va = (s1, .fail c) → EndsLong (exec (.pgqry h f) s) s1 s.cur t [(.s f.s2.toNat, 0, 0)]) ∧
    (∀ ix, s.translate core t.ctx va = (s1, .wait ix) → Parks (exec (.pgqry h f) s) s1 s.cur t (.walk ix)) ∧
    ∀ l, s.translate core t.ctx va = (s1, .ok l) →
      let k := s1.pkg p
      let fr := k.frameOf l.gpn
      let tag := fr.elim {} k.tag
      let out (x : Nat) : Prop := EndsLong (exec (.pgqry h f) s) s1 s.cur t [(.s f.s2.toNat, 0, BitVec.ofNat 64 x)]
      (f.imm = 0 → out (2 ^ 16 * setOf l.gpn + 2 ^ 8 * (if tag.state = .masterShared ∨ tag.state = .masterExcl then p else 255)
        + 2 ^ 5 * (fr.elim 0 (· % 2)) + 2 ^ 4 * tag.twin.toNat + 2 ^ 3 * tag.pinned.toNat + tag.state.code)) ∧
      (f.imm = 1 → out (2 ^ 51 + 2 ^ 47 * l.hotpol + 2 ^ 46 * l.ckpt.toNat + 2 ^ 45 * l.twin.toNat + 2 ^ 44 * l.pin.toNat + 2 ^ 43 * l.x.toNat
        + 2 ^ 42 * l.w.toNat + 2 ^ 40 * l.ord + l.gpn)) ∧
      (f.imm = 2 → out (s1.pageItem p t.ctx l.vpage l 2)) ∧
      (f.imm = 3 → out ((k.tlb2.find? (·.covers t.ctx l.vpage)).elim 0 fun e => 2 ^ 8 * e.whot + e.rhot))) ∧
  -- what the word read when it issued, and the pages whose victims have been refused since
  let rd : Word × Word × List Word := match t.latch with | some (lo :: len :: rs) => (lo, len, rs) | _ => (va, t.rs (f.s1.toNat + 1), [])
  let lo := rd.1
  let n := rd.2.1.toNat
  let u := { t with latch := some (lo :: rd.2.1 :: rd.2.2) }
  let okRange : Prop := t.role = .reeve ∧ lo.toNat % 65536 = 0 ∧ n % 65536 = 0 ∧ n ≠ 0 ∧ s.rangeBusy p t.ctx lo.toNat n = false
  let worst (cs : List Nat) : Word := if 3 ∈ cs then 3 else if 1 ∈ cs then 1 else if 2 ∈ cs then 2 else 0
  (∀ i, i = .pgctlPin h f ∨ i = .pgctlAttract h f → s.IssuesOnce t i h →
    (t.role ≠ .reeve → Freezes (exec i s) s t h .privilege 0) ∧
    (t.role = .reeve → lo.toNat % 65536 ≠ 0 ∨ n % 65536 ≠ 0 ∨ n = 0 → FreezesAt (exec i s) s s.cur t h .misaligned 0 lo) ∧
    (t.role = .reeve → lo.toNat % 65536 = 0 → n % 65536 = 0 → n ≠ 0 → s.rangeBusy p t.ctx lo.toNat n = true →
      Parks (exec i s) s s.cur u (.drained t.ctx lo.toNat n))) ∧
  ∀ (s2 s3 : State) (ls : List Leaf), okRange → Released (s.setTeam s.cur u) s.cur u 5 s2 → s2.rangePages core t.ctx lo n = (s3, none, ls) →
    -- the pages' codes, or the wait for a page change, or a lodging that is tried first; the team as the switches leave it
    let switched (res : Res) (r : State × List Nat × Option (Nat × Switch)) : Prop := ∃ u, r.1.team s.cur = some u ∧
      (r.2.2 = none → EndsLong res r.1 s.cur u [(.s f.s2.toNat, 0, worst r.2.1)]) ∧
      (∀ g, r.2.2 = some (g, .wait) → Parks res r.1 s.cur u (.still [g])) ∧
      (∀ g ch, r.2.2 = some (g, .behind ch) → Parks res r.1 s.cur u (.lodged ch none)) ∧
      ∀ g a v, r.2.2 = some (g, .lodge a v) → Parks res (r.1.bump.setChange r.1.fresh
        { kind := .lodge, stage := .waiting, gpn := ((r.1.pkg a).tag v).gpn, src := a, dst := a, frame := v, req := none }) s.cur
        u (.lodged r.1.fresh (some g))
    (s.IssuesOnce t (.pgctlAttract h f) h →
      switched (exec (.pgctlAttract h f) s) (s3.switchPages (fun s l => s.attractPage p l.gpn l.twin) ls)) ∧
    (s.IssuesOnce t (.pgctlPin h f) h →
      let q := f.imm.toNat % 256
      (s3.present p q = false ∨ s3.noRoute p q = true → EndsLong (exec (.pgctlPin h f) s) s3 s.cur t [(.s f.s2.toNat, 0, 3)]) ∧
      (s3.present p q = true → s3.noRoute p q = false → switched (exec (.pgctlPin h f) s)
        (s3.switchPages (fun s l => s.pinPage p l.gpn l.twin q (rd.2.2.contains (BitVec.ofNat 64 l.gpn))) ls))))

/-! ## Accumulator access (row 0x19) -/

/-- ACCRD reads, ACCWR writes and ACCRS rescales the element of each lane's row and column, ACCMAX answers the greatest selected element of each
lane's row, ACCRD.stat answers and may clear the block's type and saturation; a row at or above 128 stops the lanes (R213 to R215). -/
def Obligations.AccumulatorAccess : Prop := ∀ (h : Hdr) (f : SF) (s : State) (t : Team) (x : Share) (m : Stream) (b : Block),
  let row0 := (t.rs f.s1.toNat).toNat % 65536
  let place (L : Nat) : Nat := 128 * (row0 + L / 128) + L % 128
  let inRange : Prop := ∀ L ∈ t.act h, row0 + L / 128 < 128
  let changed (b' : Block) : State := s.setShare t.share { x with stream := some { m with blocks := m.blocks.set f.id.toNat b' } }
  s.share t.share = some x → x.stream = some m → m.blocks[f.id.toNat]? = some b →
  -- the lanes whose row is too high have the cause BOUNDS
  let stops (i : Instr) (step : Nat → Nat) : Prop := t.tryR = none → exec i s = .next (s.freeze s.cur (t.record ((t.act h).map fun L =>
    (L, (if 128 ≤ row0 + step L then some .bounds else none), 0)) 0 0))
  (s.Issues t (.accrd h f) h →
    (inRange → EndsLong (exec (.accrd h f) s) s s.cur t ((t.act h).map fun L => (.v f.v.toNat, L, (getD 0 b.elems (place L)).setWidth 64))) ∧
    (¬inRange → stops (.accrd h f) (· / 128))) ∧
  (s.Issues t (.accwr h f) h → ¬inRange → stops (.accwr h f) (· / 128)) ∧
  (s.Issues t (.accrs h f) h → b.isInt = false → ¬inRange → stops (.accrs h f) (· / 128)) ∧
  (s.Issues t (.accmax h f) h → (∃ L ∈ t.act h, 128 ≤ row0 + L) → stops (.accmax h f) id) ∧
  (s.IssuesOnce t (.accrdStat h f) h → EndsLong (exec (.accrdStat h f) s)
    (if f.sub.getLsbD 1 then changed { b with sat := false } else s) s.cur t [(.s f.s2.toNat, 0, BitVec.ofNat 64 (b.isInt.toNat + 2 * b.sat.toNat))]) ∧
  (s.Issues t (.accwr h f) h → inRange → ∃ es, Ends (exec (.accwr h f) s) (changed { b with elems := es }) s.cur t [] ∧
    (∀ L ∈ t.act h, getD 0 es (place L) = t.rv f.v.toNat L) ∧ ∀ k, (∀ L ∈ t.act h, k ≠ place L) → getD 0 es k = getD 0 b.elems k) ∧
  (s.Issues t (.accrs h f) h →
    (b.isInt = true → t.act h ≠ [] → Freezes (exec (.accrs h f) s) s t h .illegal 0x15) ∧
    (b.isInt = false → inRange → ∃ es, Ends (exec (.accrs h f) s) (changed { b with elems := es }) s.cur t [] ∧
      (∀ L ∈ t.act h, ∃ v, ProductOf (decodeNum .fp32 (getD 0 b.elems (place L)).toNat) (decodeNum .fp32 (t.rv f.v.toNat L).toNat) v ∧
        getD 0 es (place L) = (round .fp32 .rne false false v).enc) ∧
      ∀ k, (∀ L ∈ t.act h, k ≠ place L) → getD 0 es k = getD 0 b.elems k)) ∧
  (s.Issues t (.accmax h f) h → (∀ L ∈ t.act h, row0 + L < 128) →
    let sel (L : Nat) : List Lane32 := ((List.range 128).filter fun j => f.imm.getLsbD (j / 16)).map fun j => getD 0 b.elems (128 * (row0 + L) + j)
    ∃ y : Nat → Lane32, (∀ L ∈ t.act h, GreatestOf b.isInt (sel L) (y L)) ∧
      EndsLong (exec (.accmax h f) s) s s.cur t ((t.act h).map fun L => (.v f.v.toNat, L, (y L).setWidth 64)))

/-! ## Press words (R190 to R212) -/

/-- PNOP, PZERO, PJMP, PLOOP, PFMT, PBELLW, PBELLR, PWAKE and PEND: where the stream goes on, and what each changes (R60, R197, R199, R200, R204,
R208, R209, R211).
A word that fails decode, a block that the stream does not have, a bad format block and a range past SPBYTES halt the stream: it is logged
and, in hardware mode, killed with its grid; for the host it stands HALTED at the word (R62, R64, R197, R293). -/
def Obligations.PressControlAndHalts : Prop :=
  (∀ (f : PF) (s : State) (x : Share) (m : Stream) (core : Nat),
  let target := m.spc + 8 * f.woff.signExtend 64
  let upd (g : Stream → Stream) : State := s.updStream s.cur g
  (s.Presses x m core f false →
    PressEnds (exec (.pnop f) s) s s.cur x core (m.spc + 8) ∧
    PressEnds (exec (.pjmp f) s) s s.cur x core target ∧
    (∀ n : Nat, n = (if getD 0 m.lc f.pfl.toNat = 0 then f.count.toNat else getD 0 m.lc f.pfl.toNat) - 1 →
      PressEnds (exec (.ploop f) s) (upd fun m => { m with lc := setD 0 m.lc f.pfl.toNat n }) s.cur x core (if n = 0 then m.spc + 8 else target)) ∧
    (∀ bs : List Byte, 256 * f.offa.toNat + 32 ≤ x.spbytes → bs = ((List.range 32).map fun i => s.spByte s.cur (256 * f.offa.toNat + i)) →
      fbBad (natOfBytes bs) ((s.grid x.grid).elim 3 (·.kernel.version)) = none →
      PressEnds (exec (.pfmt f) s) (upd fun m => { m with f := put m.f f.fmt.toNat bs }) s.cur x core (m.spc + 8)) ∧
    (let n := f.bell.toNat
     let b := m.bells.getD n {}
     (b.phase = m.seen.getLsbD n → exec (.pbellw f) s = .next (upd fun m => { m with st := .waiting n })) ∧
     (b.phase ≠ m.seen.getLsbD n → ∃ v : BitVec 16, v.getLsbD n = b.phase ∧ (∀ j, j ≠ n → v.getLsbD j = m.seen.getLsbD j) ∧
       PressEnds (exec (.pbellw f) s) ((upd fun m => { m with seen := v }).acquire core 2) s.cur x core (m.spc + 8)) ∧
     (n < m.bells.length → ∃ b', BellRule b b' ∧ PressEnds (exec (.pbellr f) s) ((s.release core 2).setBell s.cur n b') s.cur x core (m.spc + 8))) ∧
    (∃ (X : State) (own : List (Nat × Nat)), PressEnds (exec (.pwake f) s) X s.cur x core (m.spc + 8) ∧
      X = { s with cores := X.cores, shares := X.shares } ∧ (∀ c, c ≠ core → X.core c = s.core c) ∧ (∀ q, q ≠ s.cur → X.share q = s.share q) ∧
      X.share s.cur = some { x with stream := some { m with wakeAt := own } } ∧
      X.core core = { s.core core with wakeAt := (X.core core).wakeAt, wakes := (X.core core).wakes } ∧
      (∀ j, j ∈ usedArrays f ∧ (s.core core).gated.getLsbD j = true → find own j = find (X.core core).wakeAt j) ∧
      (∀ j, ¬(j ∈ usedArrays f ∧ (s.core core).gated.getLsbD j = true) → find own j = find m.wakeAt j) ∧
      ∀ j, find (X.core core).wakeAt j = if j ∈ usedArrays f ∧ (s.core core).gated.getLsbD j = true ∧ find (s.core core).wakeAt j = none
        then some (s.now + 180) else find (s.core core).wakeAt j) ∧
    PressEnds (exec (.pend f) s) ((upd fun m => { m with st := .ended }).endShare s.cur) s.cur x core m.spc ∧
    ((∀ e ∈ s.teams, e.2.share ≠ s.cur) → ∃ s', exec (.pend f) s = .next s' ∧ (s'.share s.cur).map (·.ended) = some true)) ∧
  (s.Presses x m core f true →
    PressEnds (exec (.pzero f) s) (s.withBlock f ⟨f.pfl.getLsbD 0, false, []⟩) s.cur x core (m.spc + 8))) ∧
  ((∀ (s : State) (x : Share) (m : Stream) (p c : Nat) (cause : Cause) (sub : Nat), s.share c = some x → x.stream = some m →
    (s.grid x.grid).map (·.pkg) = some p → m.st.over = false →
    let s' := s.haltStream c cause sub
    ((s.pkg p).duty.getLsbD 0 = true → (s'.share c).bind (·.stream) = some { m with st := .halted, cause := cause.code, sub := sub }) ∧
    ((s.pkg p).duty.getLsbD 0 = false → ((s'.share c).bind (·.stream)).map (·.st) = some .killed ∧
      ∀ tk t, s'.team tk = some t → t.grid = x.grid → t.role = .reeve) ∧
    (s'.pkg p).fstat.getLsbD 3 = true ∧ (s'.pkg p).escTotal = ((s.pkg p).escTotal + 1) % 2 ^ 24) ∧
  ∀ (f : PF) (s : State) (x : Share) (m : Stream) (core : Nat), s.Presses x m core f false →
    let halts (r : Res) (c : Cause) (sub : Nat) : Prop := r = .next (s.haltStream s.cur c sub)
    (∀ w, halts (exec (.pressWordRefused w) s) .illegal (if (pressOp w).isNone then 0x04 else 0x09)) ∧
    (m.blocks.length ≤ f.acc.toNat → ∀ i, i ∈ [Instr.pzero f, .pmm f, .pmms f, .ploada f, .pstore f, .pexp f, .prowmax f, .prowsum f, .pscale f, .ptrans f] →
      halts (exec i s) .illegal 0x09) ∧
    (x.spbytes < 256 * f.offa.toNat + 32 → halts (exec (.pfmt f) s) .bounds 0) ∧
    (f.acc.toNat < m.blocks.length → x.spbytes < 256 * f.offa.toNat + 65536 → halts (exec (.ploada f) s) .bounds 0) ∧
    (∀ sub, 256 * f.offa.toNat + 32 ≤ x.spbytes →
      fbBad (natOfBytes ((List.range 32).map fun i => s.spByte s.cur (256 * f.offa.toNat + i))) ((s.grid x.grid).elim 3 (·.kernel.version)) = some sub →
      halts (exec (.pfmt f) s) .illegal sub))

/-- PMM multiplies the selected rows of A by the selected columns of B into the block: the exact sum of the products of scaled operands, rounded
once, or saturated; PMMS then puts −∞ in the columns that its bitmap does not select; the press is held for the word's clocks, and a
gated sub-array is woken first (R84 to R89, R196, R200 to R202, R209). That the idle clocks of a sub-array count from the clock at which the
word starts is the model's choice (log 108). -/
def Obligations.PressMultiply : Prop := ∀ (f : PF) (s : State) (x : Share) (m : Stream) (core n : Nat) (b : Block) (fa fb : Fmt) (bitmap : Bool),
  let w : Instr := if bitmap then .pmms f else .pmm f
  let oa := 256 * f.offa.toNat
  let ob := 256 * f.offb.toNat
  let inside (off len : Nat) : Prop := len = 0 ∨ off + len ≤ x.spbytes
  let scales (code : Nat) : Nat := if code = 1 then 2 else 1
  s.Presses x m core f true → m.blocks[f.acc.toNat]? = some b → (find m.f f.fmt.toNat).map natOfBytes = some n →
  fmtOf (fbA n) = some fa → fmtOf (fbB n) = some fb → pmmOk n b.isInt = true → (bitmap = true → b.isInt = false) →
  inside oa (regionBytes fa) → inside ob (regionBytes fb + if bitmap then 16 else 0) →
  (fbAblk n ≠ 0 → ∀ i j, selects f i j → inside (oa + fbAsoff n) (2 * (i + 1) * scales (fbAblk n))) →
  (fbBblk n ≠ 0 → ∀ i j, selects f i j → inside (ob + fbBsoff n) (2 * (j + 1) * scales (fbBblk n))) →
  let awake : Prop := (s.core core).pressFree ≤ s.now ∧ ∀ j ∈ usedArrays f, (s.core core).gated.getLsbD j = false
  (awake → ∃ (b' : Block) (use : List (Nat × Nat)) (A B : Nat → Nat → XVal) (clipped : Nat → Nat → Prop),
    PressEnds (exec w s) ((s.updCore core fun k => { k with pressFree := s.now + pmmClocks f n, lastUse := use }).withBlock f b') s.cur x core (m.spc + 8) ∧
    (∀ i k, i < 128 → k < 32 → ProductOf (s.operand s.cur oa fa (planesRead fa (fbApl n)) (32 * i + k)) (s.scale s.cur oa (fbAsoff n) (fbAblk n) i k) (A i k)) ∧
    (∀ j k, j < 128 → k < 32 → ProductOf (s.operand s.cur ob fb (planesRead fb (fbBpl n)) (32 * j + k)) (s.scale s.cur ob (fbBsoff n) (fbBblk n) j k) (B j k)) ∧
    b'.isInt = b.isInt ∧ (b'.sat = true ↔ b.sat = true ∨ ∃ i j, selects f i j ∧ clipped i j) ∧
    ∀ i j, i < 128 → j < 128 →
      (¬selects f i j → b'.at_ i j = b.at_ i j) ∧
      (selects f i j → ∃ y, MulRule b.isInt (A i) (B j) (b.at_ i j) y (clipped i j) ∧
        b'.at_ i j = if bitmap = true ∧ (s.spByte s.cur (ob + regionBytes fb + j / 8)).getLsbD (j % 8) = false then 0xFF800000 else y)) ∧
  ((s.now < (s.core core).pressFree → exec w s = .next s) ∧
   ((s.core core).pressFree ≤ s.now → ¬awake → ∃ s', exec w s = .next s' ∧ s' = { s with cores := s'.cores, shares := s'.shares } ∧
     (s'.share s.cur).map (fun y => { y with stream := none }) = some { x with stream := none } ∧
     (s'.stream s.cur).map (fun y => { y with wakeAt := [] }) = some { m with wakeAt := [] } ∧ (∀ q, q ≠ s.cur → s'.share q = s.share q) ∧
     ∀ j ∈ usedArrays f, (s.core core).gated.getLsbD j = true →
       find (s'.core core).wakeAt j = some ((find (s.core core).wakeAt j).getD (s.now + 180))))

/-- PLOADA, PSTORE and its cvt form, PTRANS and PSCALE: which elements move, in which format, and that nothing else changes (R203, R204, R207). -/
def Obligations.PressLoadsAndStores : Prop := ∀ (f : PF) (s : State) (x : Share) (m : Stream) (core : Nat) (b : Block),
  let oa := 256 * f.offa.toNat
  let ob := 256 * f.offb.toNat
  s.Presses x m core f true → m.blocks[f.acc.toNat]? = some b →
  (oa + 65536 ≤ x.spbytes → ∃ es, PressEnds (exec (.ploada f) s) (s.withBlock f { b with elems := es }) s.cur x core (m.spc + 8) ∧
    ∀ i j, i < 128 → j < 128 → (selects f i j → (getD 0 es (128 * i + j)).toNat = s.spNat s.cur (oa + 4 * (128 * i + j)) 4) ∧
      (¬selects f i j → getD 0 es (128 * i + j) = b.at_ i j)) ∧
  (f.pfl.getLsbD 0 = false → ob + 65536 ≤ x.spbytes → ∃ X, PressEnds (exec (.pstore f) s) X s.cur x core (m.spc + 8) ∧
    ∃ w, s.PressStores X s.cur w ∧ (∀ i j k, selects f i j → k < 4 → w (ob + 4 * (128 * i + j) + k) = some ((b.at_ i j).extractLsb' (8 * k) 8)) ∧
      ∀ off, (∀ i j k, selects f i j → k < 4 → off ≠ ob + 4 * (128 * i + j) + k) → w off = none) ∧
  (∀ n e, f.pfl.getLsbD 0 = true → (find m.f f.fmt.toNat).map natOfBytes = some n → fmtOf (fbEfmt n) = some e → ob + 16384 * fmtBits e / 8 ≤ x.spbytes →
    ∃ X, PressEnds (exec (.pstore f) s) X s.cur x core (m.spc + 8) ∧ ∃ w, s.PressStores X s.cur w ∧
      -- bit k of element q stands at bit fmtBits × q + k of the area
      ∀ off bit, bit < 8 →
        let q := (8 * (off - ob) + bit) / fmtBits e
        let k := (8 * (off - ob) + bit) % fmtBits e
        let v := if b.isInt then XVal.ofInt (b.at_ (q / 128) (q % 128)).toInt else decodeNum .fp32 (b.at_ (q / 128) (q % 128)).toNat
        (X.spByte s.cur off).getLsbD bit = if ob ≤ off ∧ q < 16384 ∧ f.mmask.getLsbD (q / 128 / 16) = true ∧ f.nmask.getLsbD (q % 128 / 16) = true
          then (round e .rne true false v).enc.toNat.testBit k else (s.spByte s.cur off).getLsbD bit) ∧
  (Rising b.elems → (∀ e ∈ b.elems, e.1 < 16384) → ∃ es, PressEnds (exec (.ptrans f) s) (s.withBlock f { b with elems := es }) s.cur x core (m.spc + 8) ∧
    ∀ i j, i < 128 → j < 128 → getD 0 es (128 * i + j) = b.at_ j i) ∧
  (b.isInt = false → (∀ i j, selects f i j → oa + 4 * (i + 1) ≤ x.spbytes) →
    ∃ es, PressEnds (exec (.pscale f) s) (s.withBlock f { b with elems := es }) s.cur x core (m.spc + 8) ∧
    ∀ i j, i < 128 → j < 128 → (¬selects f i j → getD 0 es (128 * i + j) = b.at_ i j) ∧
      (selects f i j → ∃ v, ProductOf (decodeNum .fp32 (b.at_ i j).toNat) (decodeNum .fp32 (s.spNat s.cur (oa + 4 * i) 4)) v ∧
        getD 0 es (128 * i + j) = (round .fp32 .rne false false v).enc))

/-- PEXP writes E2 of (element − bias) × scale, rounded once, of each selected element in plane layout; PROWMAX and PROWSUM write one word a
selected row: the greatest selected element, or the sum of the exponentials in the tree of R90 (R90, R91, R205, R206). That only the
selected rows' words need lie within SPBYTES is the model's choice (log 36). -/
def Obligations.PressRows : Prop := ∀ (f : PF) (s : State) (x : Share) (m : Stream) (core : Nat) (b : Block),
  let oa := 256 * f.offa.toNat
  let ob := 256 * f.offb.toNat
  let rowsFit (off : Nat) : Prop := ∀ i < 128, f.mmask.getLsbD (i / 16) = true → off + 4 * (i + 1) ≤ x.spbytes
  let old (off i : Nat) : Lane32 := BitVec.ofNat 32 (s.spNat s.cur (off + 4 * i) 4)
  s.Presses x m core f true → m.blocks[f.acc.toNat]? = some b →
  (∀ n e, b.isInt = false → (find m.f f.fmt.toNat).map natOfBytes = some n → isFloatFmt (fbEfmt n) = true → fmtOf (fbEfmt n) = some e →
    ∃ v : Nat → Nat → Nat, (∀ i j, selects f i j → ∃ y r, PexpArg (b.at_ i j) (old oa i) (fbEscale n) y ∧ E2Rule y e r ∧ v i j = r.toNat) ∧
    ((∀ i j, selects f i j → oa + 4 * (i + 1) ≤ x.spbytes ∧ ob + (j / 32 + 1) * regionBytes e ≤ x.spbytes) →
      ∃ X w, PressEnds (exec (.pexp f) s) X s.cur x core (m.spc + 8) ∧ s.PressStores X s.cur w ∧
        (∀ i j p, selects f i j → p < (fmtPlanes e).1 + (fmtPlanes e).2 →
          let a := planeAt e p (32 * i + j % 32)
          (X.spByte s.cur (ob + j / 32 * regionBytes e + a.1)).getLsbD a.2 = planeBit e p (v i j)) ∧
        ∀ off bit, bit < 8 → (∀ i j p, selects f i j → p < (fmtPlanes e).1 + (fmtPlanes e).2 →
            ¬(off = ob + j / 32 * regionBytes e + (planeAt e p (32 * i + j % 32)).1 ∧ bit = (planeAt e p (32 * i + j % 32)).2)) →
          (X.spByte s.cur off).getLsbD bit = (s.spByte s.cur off).getLsbD bit) ∧
    (rowsFit ob → (f.nmask ≠ 0 → rowsFit oa) →
      ∃ X w, PressEnds (exec (.prowsum f) s) X s.cur x core (m.spc + 8) ∧ s.PressStores X s.cur w ∧
        (∀ i k, i < 128 → f.mmask.getLsbD (i / 16) = true → k < 4 → ∃ sum : Lane32,
          sum = (treeNode (fun a c => (round .fp32 .rne false false ((decodeNum .fp32 a.toNat).add .rne (decodeNum .fp32 c.toNat))).enc)
            (fun j => if j < 128 ∧ f.nmask.getLsbD (j / 16) = true then some (round .fp32 .rne false false (decodeNum e (v i j))).enc else none) 7 0).getD 0 ∧
          w (ob + 4 * i + k) = some (sum.extractLsb' (8 * k) 8)) ∧
        ∀ off, (∀ i k, i < 128 → f.mmask.getLsbD (i / 16) = true → k < 4 → off ≠ ob + 4 * i + k) → w off = none)) ∧
  (rowsFit ob → ∃ X w, PressEnds (exec (.prowmax f) s) X s.cur x core (m.spc + 8) ∧ s.PressStores X s.cur w ∧
    (∀ i k, i < 128 → f.mmask.getLsbD (i / 16) = true → k < 4 → ∃ y : Lane32,
      let sel := ((List.range 128).filter fun j => f.nmask.getLsbD (j / 16)).map fun j => b.at_ i j
      (f.pfl.getLsbD 0 = false → GreatestOf b.isInt sel y) ∧ (f.pfl.getLsbD 0 = true → sel = [] → y = old ob i) ∧
      (f.pfl.getLsbD 0 = true → sel ≠ [] → GreatestOf b.isInt (old ob i :: sel) y) ∧ w (ob + 4 * i + k) = some (y.extractLsb' (8 * k) 8)) ∧
    ∀ off, (∀ i k, i < 128 → f.mmask.getLsbD (i / 16) = true → k < 4 → off ≠ ob + 4 * i + k) → w off = none)

/-! ## Cellar dies (R274 to R276) -/

/-- A request at a port of a stack whose tag is free is owed one reply: LOOKUP by the tags of its row, RD32 with the granule's bytes and their
ECC status, WRF32 and WRM8 with DONE; a set res0 bit is owed ERROR and has no effect; a busy tag stalls it. A reply that is owed leaves
the port and frees the tag (R250, R271, R274 to R276). -/
def Obligations.CellarProtocol : Prop := ∀ (s : State) (p stack port : Nat) (f : CF), stack < 12 →
  let key := portKey stack port f.tag
  let k := s.pkg p
  let owes (X : State) (r : RF) (kind : BitVec 3) (pay : List Word) : State := X.updPkg p fun k => { k with ports := put k.ports key (r.word kind :: pay) }
  let plain : RF := ⟨f.tag, 0, false, 0⟩
  let w0 := 2 * (12 * f.row.toNat + stack)
  let fr := w0 + f.way.toNat
  let sec := f.sector.toNat
  let mru : Bool := decide (getD 0 k.mru (w0 / 2) = 1)
  let holds (w : Nat) (gpn : BitVec 40) : Prop := (k.tag w).gpn = gpn.toNat ∧ (k.tag w).state ≠ .invalid
  let requests (gpn : BitVec 40) (data : List Byte) : List Instr := [.lookup p stack port f gpn, .rd32 p stack port f, .wrf32 p stack port f data, .wrm8 p stack port f data]
  (find k.ports key = none →
    (∀ gpn, port = f.row.toNat % 64 → f.res = 0 → f.way = false → sec = 0 →
      ∃ a b, TagRule (k.tag w0) mru a ∧ TagRule (k.tag (w0 + 1)) false b ∧
        (holds w0 gpn → exec (.lookup p stack port f gpn) s = .next (owes s plain 0 [a])) ∧
        (¬holds w0 gpn → holds (w0 + 1) gpn → ∃ c, TagRule (k.tag (w0 + 1)) mru c ∧ exec (.lookup p stack port f gpn) s = .next (owes s { plain with way := true } 0 [c])) ∧
        (¬holds w0 gpn → ¬holds (w0 + 1) gpn → exec (.lookup p stack port f gpn) s = .next (owes s plain 1 [a, b]))) ∧
    (port = (f.row.toNat + sec) % 64 → f.res = 0 →
      (∃ e ws, EccRule k (2048 * fr + sec) e ∧ exec (.rd32 p stack port f) s = .next (owes (s.readGranule p fr sec).1 ⟨f.tag, e, false, 0⟩ 2 ws) ∧
        ws.length = 4 ∧ ∀ i < 32, ((ws.getD (i / 8) 0).extractLsb' (8 * (i % 8)) 8) = if e = 2 then 0 else k.byte fr (32 * sec + i)) ∧
      (∀ data, data.length = 32 → ∃ X, exec (.wrf32 p stack port f data) s = .next (owes X plain 3 []) ∧ X = s.setPkg p (X.pkg p) ∧
        X.pkg p = { k with hbm := (X.pkg p).hbm, poison := erase k.poison (2048 * fr + sec), symErr := erase k.symErr (2048 * fr + sec) } ∧
        ∀ g off, off < 65536 → (X.pkg p).byte g off = if g = fr ∧ off / 32 = sec then data.getD (off % 32) 0 else k.byte g off) ∧
      (∀ data e, data.length = 8 → EccRule k (2048 * fr + sec) e → ∃ X, exec (.wrm8 p stack port f data) s = .next (owes X ⟨f.tag, e, false, 0⟩ 3 []) ∧
        X = s.setPkg p (X.pkg p) ∧ ∀ g off, off < 65536 → (X.pkg p).byte g off =
          if e ≠ 2 ∧ g = fr ∧ off / 8 = 4 * sec + f.lane.toNat ∧ f.mask.getLsbD (off % 8) = true then data.getD (off % 8) 0 else k.byte g off)) ∧
    (f.res ≠ 0 → ∀ gpn data, ∀ i ∈ requests gpn data, port = (if i = .lookup p stack port f gpn then f.row.toNat else f.row.toNat + sec) % 64 →
      exec i s = .next (owes s ⟨f.tag, 0, false, 2⟩ 4 [])) ∧
    (port < 64 → exec (.cellarBadCmd p stack port f) s = .next (owes s ⟨f.tag, 0, false, 1⟩ 4 []))) ∧
  ((find k.ports key).isSome → ∀ gpn data, ∀ i ∈ .cellarBadCmd p stack port f :: requests gpn data, exec i s = .next s) ∧
  ∀ r : RF, r.tag = f.tag → ∀ pay : List Word, ∀ e ∈ [(Instr.cellarHit p stack port r pay, (0 : BitVec 3)), (.cellarMiss p stack port r pay, 1),
      (.cellarData p stack port r pay, 2), (.cellarDone p stack port r pay, 3), (.cellarError p stack port r pay, 4)],
    (find k.ports key = some (r.word e.2 :: pay) → exec e.1 s = .next (s.updPkg p fun k => { k with ports := erase k.ports key })) ∧
    (find k.ports key ≠ some (r.word e.2 :: pay) → exec e.1 s = .next s)

/-! ## The host's commands and registers (R360 to R368) -/

/-- CTX_INSTALL, TLB_INVAL, PAGE_REF, GPN_REISSUE, DIR_GRANT, REPLY and ATTEST end with the result and the effect of Table 20-4; an opcode or an
argument that selects nothing ends with BAD_ARG; before READY every command but ATTEST ends with BAD_STATE (R361 to R365, R370).
STREAM_CTL kills or restarts the stream that its arguments name, TEAM_CTL acts as FKILL, FRESUME and FSTEP on a team frozen for the host; each
ends with REFUSED, NOT_FOUND or BAD_ARG where it does not apply (R184 to R186, R211, R292, R293, R362).
The model's choices, not the spec's: the numbering of a core's streams (log 49), CTX_INSTALL and TLB_INVAL running on while an access of the
range is under way (log 50), BAD_STATE before BAD_ARG (log 51), one page to an answered walk's TLB entry (log 52), the byte order of the
report (log 59), REFUSED for PAGE_REF and GPN_REISSUE whose slice is out of reach (log 110) and TRANSLATION for an answered cause that
Table 12-1 does not list (log 112). -/
def Obligations.HostCommands : Prop :=
  (∀ (s : State) (p : Nat),
  let k := s.pkg p
  let a := (k.arg 0).toNat
  let ends (i : Instr) (X : State) (res : Nat) : Prop := CmdEnds (exec i s) X p res
  (s.Commands p 1 → ∀ c, CtxRule (s.hostBytes ((k.bootReg 0x58).toNat + 64 * a) 64) c →
    (a = 0 ∨ 4096 ≤ a ∨ c = none → ends (.ctxInstall p) s 1) ∧
    (0 < a → a < 4096 → ∀ r, c = some r →
      ((∃ g ∈ s.grids, g.2.ctx = a) → ends (.ctxInstall p) s 2) ∧
      ((∀ g ∈ s.grids, g.2.ctx ≠ a) →
        (find k.ctxs a = none → ends (.ctxInstall p) (s.updPkg p fun k => { k with ctxs := put k.ctxs a r }) 0) ∧
        ((find k.ctxs a).isSome → s.accessing a 0 0 = true → exec (.ctxInstall p) s = .next s) ∧
        ((find k.ctxs a).isSome → s.accessing a 0 0 = false →
          ∃ X, TlbDrops s X a 0 0 ∧ ends (.ctxInstall p) (X.updPkg p fun k => { k with ctxs := put k.ctxs a r }) 0)))) ∧
  (s.Commands p 2 → ∀ lo n, lo = (k.arg 1).toNat % 2 ^ 57 → n = (k.arg 2).toNat →
    (s.accessing a lo n = true → exec (.tlbInval p) s = .next s) ∧
    (s.accessing a lo n = false → ∃ X, TlbDrops s X a lo n ∧ ends (.tlbInval p) X 0)) ∧
  ((s.Commands p 3 ∧ k.arg 1 = 0 ∧ s.sliceCut p a = true → ends (.pageRefRaise p) s 2) ∧
    (s.Commands p 3 ∧ k.arg 1 = 1 ∧ s.sliceCut p a = true → ends (.pageRefLower p) s 2) ∧
    (s.Commands p 4 ∧ s.sliceCut p a = true → ends (.gpnReissue p) s 2)) ∧
  (s.Commands p 3 →
    (k.arg 1 = 0 → s.sliceCut p a = false →
      (s.parishEnt p a = none → ends (.pageRefRaise p) s 3) ∧
      (∀ e, s.parishEnt p a = some e → (e.refs = 0 ∨ 65535 ≤ e.refs → ends (.pageRefRaise p) s 2) ∧
        (0 < e.refs → e.refs < 65535 → ends (.pageRefRaise p) (s.setParish p a { e with refs := e.refs + 1 }) 0))) ∧
    (k.arg 1 = 1 → s.sliceCut p a = false →
      (s.parishEnt p a = none → ends (.pageRefLower p) s 3) ∧
      (∀ e, s.parishEnt p a = some e → (e.refs = 0 → ends (.pageRefLower p) s 3) ∧
        (1 < e.refs → ends (.pageRefLower p) (s.setParish p a { e with refs := e.refs - 1 }) 0) ∧
        (e.refs = 1 → ends (.pageRefLower p) ((s.setParish p a { e with refs := 0 }).freePage a) 0))) ∧
    (k.arg 1 ≠ 0 → k.arg 1 ≠ 1 → ends (.cmdUnknown p) s 1)) ∧
  (s.Commands p 4 →
    ((∀ e, s.parishEnt p a = some e → e.lost = false ∧ e.refs ≠ 0) → (s.parishEnt p a = none → ∀ q ∈ s.pkgs, q.2.knownLost a = false) →
      ends (.gpnReissue p) s 2) ∧
    (((∃ e, s.parishEnt p a = some e ∧ (e.lost = true ∨ e.refs = 0)) ∨ s.parishEnt p a = none ∧ ∃ q ∈ s.pkgs, q.2.knownLost a = true) →
      s.sliceCut p a = false →
      ((∃ q ∈ s.pkgs, q.2.stateOf a = .draining) ∨ (∃ c ∈ s.changes, c.2.gpn = a) → exec (.gpnReissue p) s = .next s) ∧
      ((∀ q ∈ s.pkgs, q.2.stateOf a ≠ .draining) → (∀ c ∈ s.changes, c.2.gpn ≠ a) →
      (∀ q ∈ s.pkgs, (∃ e, s.parishEnt q.1 a = some e ∧ (e.lost = true ∨ e.refs = 0)) ∨ s.parishSees q.1 a = none) →
      ∃ X, ends (.gpnReissue p) X 0 ∧ X = { s with pkgs := X.pkgs, cores := X.cores, dies := X.dies, requests := X.requests, fresh := X.fresh, hostMem := X.hostMem } ∧
        find (X.pkg (s.parishSlice p a)).parish a = none ∧
        ∀ q f, (X.pkg q).tag f = if (s.pkg q).frameOf a = some f ∧ ((s.pkg q).tag f).state = .lost then {} else (s.pkg q).tag f))) ∧
  (s.Commands p 7 →
    let held : Prop := (BitVec.ofNat 32 a - k.hreqHead).toNat < (k.hreqTail - k.hreqHead).toNat
    (¬held ∨ find k.hreqs a = none → ends (.replyK p) s 3) ∧
    (∀ h, held → find k.hreqs a = some h → ∀ x y, x = k.arg 1 → y = k.arg 2 →
      let done (X : State) : Prop := ends (.replyK p) (X.updPkg p fun k => { k with hreqs := erase k.hreqs a }) 0
      let ctx := h.b.toNat % 4096
      let vp := h.a.toNat / 65536 % 2 ^ 41
      (h.kind = 1 → x ≠ 0 → leafOk x 0 = true → ∀ s0 r w, s.shadowHot p ctx (entGpn x) = (s0, (r, w)) →
        let entered (X : State) : State := X.updPkg p fun k => { k with tlb2 := ⟨ctx, vp, 0, x, r, w⟩ :: k.tlb2 }
        (h.core = 255 → done (entered s0)) ∧
        (h.core ≠ 255 → done (entered (s0.updCore (48 * p + h.core) fun k => { k with tlb := ⟨ctx, vp, 0, x, r, w⟩ :: k.tlb })))) ∧
      (h.kind = 1 → x = 0 ∨ leafOk x 0 = false → ∀ cause : Cause,
        ((x = 0 ∧ ∃ c : Cause, y = BitVec.ofNat 64 c.code) → x = 0 ∧ y = BitVec.ofNat 64 cause.code) →
        (¬(x = 0 ∧ ∃ c : Cause, y = BitVec.ofNat 64 c.code) → cause = .translation) →
        (h.who < 2 ^ 40 → done (s.updTeam h.who fun t => { t with fails := put t.fails (2 ^ 41 * ctx + vp) cause })) ∧
        (2 ^ 40 ≤ h.who → done (s.updPkg p fun k => { k with walkFail := put k.walkFail (2 ^ 53 * h.who + 2 ^ 41 * ctx + vp) cause }))) ∧
      (h.kind = 2 → x.toNat < 2 → done (s.updQueue p h.a.toNat fun q => if q.asked = some a then { q with answer := some x.toNat } else q)) ∧
      (h.kind = 3 → x.toNat < 2 → done (s.replyLodge p a (x == 1))) ∧
      (h.kind = 4 → done s) ∧
      (h.kind = 5 → x.toNat < 1048576 → done (s.gleanFrame p h.a.toNat (stackFrame h.a.toNat x.toNat))) ∧
      (h.kind = 6 → x = 0xFF → done (s.losePage p h.b.toNat)) ∧
      (h.kind = 6 → x ≠ 0xFF → ((s.pkg x.toNat).stateOf h.b.toNat).serves = true → done (s.promoteAt p h.b.toNat x.toNat)) ∧
      ((h.kind = 2 ∨ h.kind = 3) ∧ 2 ≤ x.toNat ∨ h.kind = 5 ∧ 1048576 ≤ x.toNat ∨
        h.kind = 6 ∧ x ≠ 0xFF ∧ ((s.pkg x.toNat).stateOf h.b.toNat).serves = false ∨ 6 < h.kind → ends (.replyK p) s 1))) ∧
  (s.Commands p 8 → ∀ n, n = (k.arg 1).toNat →
    (2 ^ 40 < a + n → ends (.dirGrant p) s 1) ∧
    (a + n ≤ 2 ^ 40 → ∃ X, ends (.dirGrant p) X 0 ∧ X = { s with pkgs := X.pkgs, requests := X.requests } ∧
      X.pkg p = { k with dirPages := k.dirPages ++ (List.range n).map (a + ·), dirQuota := min (2 ^ 32 - 1) (k.dirQuota + n), replay := (X.pkg p).replay })) ∧
  (k.cmdOp = some 9 → k.busy = true → ∃ rep, ends (.attest p) (s.setHostBytes (k.arg 1).toNat rep).bump 0 ∧ rep = s.attestReport p ∧
    rep.take 64 = bytesBE 64 Config.bootRomHash.toNat ∧ (rep.drop 64).take 64 = bytesBE 64 k.imageHash.toNat) ∧
  (∀ op : BitVec 8, s.Commands p op.toNat → 9 < op.toNat ∨ op = 0 → ends (.cmdUnknown p) s 1) ∧
  ∀ op, k.cmdOp = some op → ∀ i, i = decodeCommand p op (k.arg 1) (k.arg 2) →
    (k.busy = true → k.stage ≠ 6 → op ≠ 9 → ends i s 4) ∧ (k.busy = false → exec i s = .next s)) ∧
  (∀ (s : State) (p : Nat),
  let k := s.pkg p
  let a := (k.arg 0).toNat
  let n := (k.arg 1).toNat
  let ends (i : Instr) (X : State) (res : Nat) : Prop := CmdEnds (exec i s) X p res
  (s.Commands p 5 → ∀ i, k.arg 2 = 0 ∧ i = .streamCtlKill p ∨ k.arg 2 = 1 ∧ i = .streamCtlRestart p →
    (48 ≤ a ∨ 4 ≤ n → ends i s 1) ∧
    (a < 48 → n < 4 → (s.streamsOf (48 * p + a))[n]? = none → ends i s 3) ∧
    (a < 48 → n < 4 → ∀ sh m, (s.streamsOf (48 * p + a))[n]? = some (sh, m) → s.stream sh = some m →
      (i = .streamCtlKill p → m.st = .ended ∨ m.st = .killed → ends i s 2) ∧
      (i = .streamCtlKill p → m.st ≠ .ended → m.st ≠ .killed → ∃ X, ends i X 0 ∧ X = { s with shares := X.shares } ∧
        X.stream sh = some { m with st := .killed } ∧ ∀ q, q ≠ sh → X.share q = s.share q) ∧
      (i = .streamCtlRestart p → m.st ≠ .halted → ends i s 2) ∧
      (i = .streamCtlRestart p → m.st = .halted → ends i (s.updStream sh fun m => { m with st := .running }) 0))) ∧
  (s.Commands p 6 → n < 4 → ∀ i, i = (if n = 0 then .teamCtlKill p else if n = 1 then .teamCtlRetry p else if n = 2 then .teamCtlSkip p else .teamCtlStep p) →
    ((∀ e ∈ s.teams, pkgOfTeam e.1 = p → e.2.serial ≠ a) → ends i s 3) ∧
    (∀ tk t, (tk, t) ∈ s.teams → pkgOfTeam tk = p → t.serial = a → (∀ e ∈ s.teams, pkgOfTeam e.1 = p → e.2.serial = a → e = (tk, t)) → t.stepping = none →
      (t.run ≠ .frozen ∨ t.escalated = false → ends i s 2) ∧
      (t.run = .frozen → t.escalated = true → t.settled = true →
        (n = 0 → ends i (s.endTeam tk) 0) ∧
        (n = 1 → ends i (s.resume tk false) 0) ∧
        (n = 2 → t.cause.atHeader = true → ends i s 2) ∧
        (n = 2 → t.cause.atHeader = false → ends i (s.resume tk true) 0) ∧
        (n = 3 → tk < 138240 → exec i s = .next ((s.updPkg p fun k => { k with cmdOp := none }).beginStep tk none))))))

/-- A host write of a register sets the register's own bits and changes what no other register reads; writes of ones clear the W1C bits, but
LISTFULL while a list is full; a write of CMD starts a command, or sets LOSTCMD while one runs; TAIL, EN, HREQIX and MSI-X entries act as their
rules say, and a queue whose PERIOD is written 0 is background and has no deadline; a HEAD that frees entries of the host ring asks for the
frames to glean that the full ring held up, and a TAIL that changes the record to be presented next withdraws the host's answer for the old
one; an unreachable package takes no write (R7, R8, R210, R288, R300, R301, R303, R360 to R365, R368).
The model's choices, not the spec's: LISTFULL standing while a list is full (log 54), the MSI-X entries' layout (log 9, PRESUMED) and
background at PERIOD 0 (log 91). -/
def Obligations.HostRegisters : Prop := ∀ (s : State) (p q vec : Nat) (v : Word),
  let k := s.pkg p
  let writes (off : Nat) (X : Pkg) : Prop := exec (.registerWrite p off v) s = .next (s.setPkg p X)
  (k.reachable = false → ∀ off, ∀ i ∈ [Instr.registerWrite p off v, .cmdWhileBusy p v, .hctlWarm p, .queueTailWrite p q v, .queueEnWrite p q v,
      .hreqHeadAdvance p v, .msixUnmask p vec v], exec i s = .next s) ∧
  (k.reachable = true →
    (∀ off, off % 8 ≠ 0 → exec (.registerWrite p off v) s = .next s) ∧
    (∀ off mask, rwMask off = some mask → ∃ X, exec (.registerWrite p off v) s = .next (s.setPkg p X) ∧ (s.setPkg p X).regRead p off = v &&& mask ∧
      ∀ o, o ≠ off → (0x100000 ≤ off → off < 0x180000 → off % 64 = 0x10 → o ≠ off + 0x20 ∧ o ≠ off + 0x28) →
        (s.setPkg p X).regRead p o = s.regRead p o) ∧
    (q < 8192 → v.extractLsb' 32 32 = 0 → ∃ X, exec (.registerWrite p (0x100010 + 64 * q) v) s = .next (s.setPkg p X) ∧
      (s.setPkg p X).regRead p (0x100038 + 64 * q) = 0 ∧ ((s.setPkg p X).regRead p (0x100030 + 64 * q)).getLsbD 2 = true) ∧
    writes 0x10000 { k with astat := k.astat &&& ~~~(v.setWidth 8) } ∧
    writes 0x21000 { k with downEv := k.downEv &&& ~~~((v >>> 18).setWidth 18) } ∧
    writes 0x21010 { k with idMismatch := k.idMismatch && !v.getLsbD 16 } ∧
    writes 0x1028 { k with lostCmd := k.lostCmd && !v.getLsbD 1 } ∧
    (∃ F : BitVec 6, writes 0x20000 { k with fstat := F } ∧ ∀ j < 6, F.getLsbD j =
      (k.fstat.getLsbD j && (!v.getLsbD j || decide (j = 1 ∧ ∃ c ∈ s.cores, c.1 / 48 = p ∧ 64 ≤ c.2.waiting.length)))) ∧
    (∀ c < 48, exec (.registerWrite p (0x40000 + 4096 * c) v) s = .next (s.updCore (48 * p + c) fun x =>
      { x with wakes := if v.extractLsb' 16 16 = 0 then x.wakes else 0, idle := v.setWidth 16 })) ∧
    (k.busy = false → writes 0x1020 { k with busy := true, cmdOp := some (v.setWidth 8) }) ∧
    (k.busy = true → exec (.cmdWhileBusy p v) s = .next (s.setPkg p { k with lostCmd := true })) ∧
    exec (.hreqHeadAdvance p v) s = .next (k.gleanDue.foldl (fun X stack => X.askGlean p stack) (s.setPkg p { k with hreqHead := v.extractLsb' 32 32 })) ∧
    (vec < 2048 → exec (.msixUnmask p vec v) s = .next (s.setPkg p
      (if v.getLsbD 32 = false ∧ getD false k.msixPend vec = true then
        { k with msix := put k.msix (2 * vec + 1) v, msixPend := erase k.msixPend vec, irqs := vec :: k.irqs }
       else { k with msix := put k.msix (2 * vec + 1) v }))) ∧
    (q < 8192 →
      let x := s.queue p q
      let y : Queue := { x with tail := v.setWidth 32 }
      let past : Prop := 2 ^ min 16 x.log2n < (y.tail - x.head).toNat
      let answers (z : Queue) : Prop :=
        if z.nextRecord.map (·.2) = x.nextRecord.map (·.2) then z.asked = x.asked ∧ z.answer = x.answer else z.asked = none ∧ z.answer = none
      (past → ∃ X z, exec (.queueTailWrite p q v) s = .next (s.setPkg p X) ∧ X.queueOf q = z ∧ answers z ∧
        z = { y with ringErr := true, blocked := true, asked := z.asked, answer := z.answer } ∧
        X = { (if x.ringErr then k else k.raiseVec 2) with queues := X.queues }) ∧
      (¬past → ∃ z, exec (.queueTailWrite p q v) s = .next (s.setQueue p q z) ∧ answers z ∧
        z = { y with entered := z.entered, blocked := false, asked := z.asked, answer := z.answer } ∧
        z.entered.filter (·.isSome) = x.entered.filter (·.isSome) ∧ (z.entered.filter (·.isNone)).length = (y.tail - x.head).toNat) ∧
      (∃ z : Queue, exec (.queueEnWrite p q v) s = .next (s.setQueue p q z) ∧
        z = { x with overrun := x.overrun && !v.getLsbD 3, ringErr := x.ringErr && !v.getLsbD 1, en := z.en, t0 := z.t0, startedAt := z.startedAt } ∧
        (z.en = true ↔ v.getLsbD 0 = true ∧ (x.en = true ∨ k.stage = 6 ∧ (find k.ctxs x.ctx).isSome)) ∧
        (if z.en = true ∧ x.en = false then z.t0 = s.clock p / 3600 + 1 ∧ z.startedAt = none else z.t0 = x.t0 ∧ z.startedAt = x.startedAt))))

/-! ## Boot, power and the window (R353, R367 to R371) -/

/-- Each boot stage goes to the next, or to FAILED (7) with its code, and raises vector 6; GO is taken in stage 3 alone; a reset of a package
that takes part in no page change leaves it at its reset values, with nothing of it running, vector 6 pending under the reset mask where
STAGE was not 0, and no other package's state changed; throttling changes no result (R9, R343, R364, R368, R369, R371).
The model's choices, not the spec's: what a reset leaves of the frames, slices, caches, transfers, delivered interrupts and the fused
minimum, the pending vector 6, and that bring-up waits for the declaration of the loss (log 55). -/
def Obligations.BootStages : Prop := ∀ (s : State) (p : Nat),
  let k := s.pkg p
  let at_ (X : State) (kk : Pkg) (stage err : Nat) : State := X.setPkg p (({ kk with stage := stage, err := err } : Pkg).raiseVec 6)
  let goes (i : Instr) (kk : Pkg) (stage err : Nat) : Prop := exec i s = .next (at_ s kk stage err)
  (k.stage = 0 → ∀ err, goes (.bootRom p err) k 1 0) ∧
  (k.stage = 1 → goes (.bootRom p 0) k 2 0 ∧ ∀ err, err ≠ 0 → goes (.bootRom p err) k 7 5) ∧
  (k.stage = 2 → goes (.cxlLinkTrained p) k 3 0) ∧
  (k.stage = 3 → goes (.hctlGo p) k 4 0) ∧
  (k.stage = 4 →
    let img := (k.bootReg 0x10).toNat
    let byte (i : Nat) : Byte := s.hostByte (img + i)
    let num (i n : Nat) : Nat := natOfBytes (s.hostBytes (img + i) n)
    let zero (i j : Nat) : Prop := ∀ x, i ≤ x → x < j → byte x = 0
    let header : Prop := num 0 4 = 0x4B463957 ∧ zero 4 8 ∧ zero 0x18 0x40 ∧ zero 0x440 0x800 ∧ num 8 8 ≠ 0 ∧ num 8 8 % 4096 = 0 ∧ num 8 8 ≤ 67108864
    let h := s.hostBytes img 2048
    let body := s.hostBytes (img + 2048) (num 8 8)
    goes (.fwVerify p false) k 7 1 ∧
    (¬header → goes (.fwVerify p true) k 7 2) ∧
    (header → fwSigned h body = false → goes (.fwVerify p true) k 7 3) ∧
    (header → fwSigned h body = true → num 0x10 8 < k.minSvn → goes (.fwVerify p true) k 7 4) ∧
    (header → fwSigned h body = true → k.minSvn ≤ num 0x10 8 →
      goes (.fwVerify p true) { k with svn := num 0x10 8, minSvn := num 0x10 8, imageHash := hash512 (h ++ body) } 5 0)) ∧
  (k.stage = 5 → ∀ P,
    goes (.fabricBringup p P false) k 7 6 ∧
    (p < P → P ≤ 144 → s.counted p = false →
      let miss : List (Nat × Nat) := s.pkgs.map fun e => (e.1, e.2.hbmiss)
      ∃ nb : Word,
        goes (.fabricBringup p P true) { k with podsize := P, neigh := nb, heartbeatAt := some s.now, beatUs := k.hbus, beatMiss := miss } 6 0 ∧
        nb.extractLsb' 32 32 = (k.neigh.extractLsb' 32 32 &&& 0x7F) ∧
        let h := p / 12
        let m := min 12 (P - 12 * h)
        (nb.extractLsb' 0 8).toNat = 12 * h + (p % 12 + 1) % m ∧ (nb.extractLsb' 8 8).toNat = 12 * h + (p % 12 + m - 1) % m ∧
        (nb.extractLsb' 16 8).toNat = (p + 12) % P ∧ (nb.extractLsb' 24 8).toNat = (p + 12 * P - 12) % P)) ∧
  (∀ e ∈ [(Instr.cxlLinkTrained p, 2), (.hctlGo p, 3), (.fwVerify p true, 4), (.fabricBringup p 1 true, 5)], k.stage ≠ e.2 → exec e.1 s = .next s) ∧
  (1 < k.stage → exec (.bootRom p 0) s = .next s) ∧
  (∀ hot, exec (.throttling p hot) s = .next (s.setPkg p { k with throttled := hot })) ∧
  ((∀ c ∈ s.changes, c.2.src ≠ p ∧ c.2.dst ≠ p) → ∀ i, (i = .coldReset p ∧ p < 144 ∨ i = .hctlWarm p ∧ k.reachable = true) →
    ∃ X, exec i s = .next X ∧
      X.pkg p = { resetAt := s.now, minSvn := k.minSvn, irqs := k.irqs, parish := (X.pkg p).parish, hamlet := (X.pkg p).hamlet,
                  msixPend := if k.stage = 0 then [] else [(6, true)] } ∧
      (s.counted p = false → (X.pkg p).parish = [] ∧ (X.pkg p).hamlet = []) ∧
      (∀ q, q ≠ p → X.pkg q = s.pkg q) ∧ X.hostMem = s.hostMem ∧ X.now = s.now ∧ X.agenda = s.agenda ∧
      (∀ tk, X.team tk = if pkgOfTeam tk = p then none else s.team tk) ∧
      (∀ c, X.core c = if c / 48 = p then {} else s.core c) ∧ (∀ d, X.die d = if d / 4 = p then {} else s.die d) ∧
      (∀ e, e ∈ X.grids ↔ e ∈ s.grids ∧ e.2.pkg ≠ p) ∧ ∀ e ∈ X.packets, e.2.src ≠ p ∧ e.2.dst ≠ p)

/-- A window access checks as any access of the window's context does: it waits for a walk, or is answered with poison and without effect where
a check fails. Otherwise its bytes of host memory are read or written at once, and each sector of another page is a request of its package,
which a page held here serves at once: a read returns the bytes that stand there, a write is performed in the MASTER_EXCL frame; a masked
write to a poisoned granule, a frame that drains and a directory that no plane leads to give the poison response, as a LOST page or a
poisoned granule that is read does by its check; a request behind an earlier one of
the package for its sector stays, without an answer; the access ends with its last request, with poison when one has failed
(R122, R254, R269, R271, R345, R350, R353, R367).
The model's choices, not the spec's: an access is one step and its answer stands in hostReply (log 57), poison for a request that cannot be
served (log 58), host memory written in that step (log 77) and a request for each sector (log 111). -/
def Obligations.WindowAccess : Prop :=
  (∀ (s s1 : State) (p : Nat) (off : Word) (n : Nat) (data : List Byte) (write : Bool) (c : Chk),
  (s.pkg p).reachable = true → 0 < n → n ≤ 64 → data.length = n → off.toNat + n ≤ 2 ^ 36 →
  s.windowCheck p off.toNat n write = (s1, c) →
  let i : Instr := if write then .windowWrite p off data else .windowRead p off n
  let w := s1.fresh
  let replies (X : State) (r : Option (Option (List Byte))) : Prop := exec i s = .next X ∧ X.hostReply = r
  let poison : Prop := ∃ X, replies X (some none) ∧ X.hostMem = s1.hostMem ∧ ∀ q f b, (X.pkg q).byte f b = (s1.pkg q).byte f b
  (∀ ix, c = .wait ix → exec i s = .next { s1 with hostReply := none }) ∧
  (∀ e, c = .bad e → exec i s = .next { s1 with hostReply := some none }) ∧
  ∀ x, c = .ok [x] → (∀ e ∈ s1.requests, e.1 < w ∧ e.2.win ≠ some w) → (∀ e ∈ s1.teams, e.2.serial ≠ 0) →
    let gpn := x.leaf.gpn
    let a := 65536 * (gpn - 0xFF00000000) + x.addr % 65536
    let k := s1.pkg p
    let sectors := (x.addr % 32 + x.len + 31) / 32
    let free : Prop := ∀ i < sectors, s1.sectorBusy p (x.addr / 32 + i) = false
    x.addr / 65536 = gpn → x.addr % 65536 + x.len ≤ 65536 → x.len = n →
    -- host memory
    (0xFF00000000 ≤ gpn → write = false → ∃ X, replies X (some (some ((List.range n).map fun j => s1.hostByte (a + j)))) ∧ X.hostMem = s1.hostMem) ∧
    (0xFF00000000 ≤ gpn → write = true → ∃ X, replies X (some (some [])) ∧ X.pkgs = s1.pkgs ∧
      ∀ b, X.hostByte b = if a ≤ b ∧ b < a + n then data.getD (b - a) 0 else s1.hostByte b) ∧
    -- other pages
    (gpn < 0xFF00000000 → free →
      (k.stateOf gpn = .draining → poison) ∧
      (k.frameOf gpn = none → s1.cutOff p gpn = true → (∀ e ∈ s1.requests, e.2.gpn ≠ gpn ∨ e.2.order = none) → poison) ∧
      (∀ f, k.frameOf gpn = some f →
        let granule (i : Nat) : Nat := 2048 * f + x.addr / 32 % 2048 + i
        let sound (i : Nat) : Prop := find k.poison (granule i) = none ∧ find k.symErr (granule i) = none
        let whole (i : Nat) : Prop := x.addr % 65536 ≤ x.addr / 32 % 2048 * 32 + 32 * i ∧ x.addr / 32 % 2048 * 32 + 32 * i + 32 ≤ x.addr % 65536 + n
        (write = false → (k.stateOf gpn).serves = true → (∀ i < sectors, sound i) →
          ∃ X, replies X (some (some ((List.range n).map fun j => k.byte f (x.addr % 65536 + j)))) ∧ X.hostMem = s1.hostMem) ∧
        (write = true → k.stateOf gpn = .masterExcl → s1.busy p gpn = false → s1.twinAt p gpn = none →
          ((∀ i < sectors, sound i ∨ whole i) → ∃ X, replies X (some (some [])) ∧ X.hostMem = s1.hostMem ∧
            (∀ g b, b < 65536 → (X.pkg p).byte g b =
              if g = f ∧ x.addr % 65536 ≤ b ∧ b < x.addr % 65536 + n then data.getD (b - x.addr % 65536) 0 else k.byte g b) ∧
            ∀ i < sectors, whole i → find (X.pkg p).poison (granule i) = none) ∧
          (sectors = 1 → (find k.poison (granule 0)).isSome → ¬whole 0 → poison)))) ∧
    (gpn < 0xFF00000000 → sectors = 1 → s1.sectorBusy p (x.addr / 32) = true → write = true → ∃ X q, replies X none ∧
      X.request (w + 1) = some q ∧ q.at_ = .climb ∧ q.win = some w ∧ q.pkg = p ∧ 2048 * q.gpn + q.sector = x.addr / 32)) ∧
  ∀ (s : State) (w : Nat) (o : WinOp), find s.windows w = some o →
    ((∃ e ∈ s.requests, e.2.win = some w) → s.winDone w = s) ∧
    ((∀ e ∈ s.requests, e.2.win ≠ some w) → s.winDone w = { s with windows := erase s.windows w, hostReply := some (
      if o.failed then none else if o.write then some [] else some (o.locs.map fun a =>
        if 0xFF00000000 ≤ a / 65536 then s.hostByte (65536 * (a / 65536 - 0xFF00000000) + a % 65536) else (getD [] o.got (a / 32)).getD (a % 32) 0)) })

/-! ## What the hardware of teams and streams does of itself -/

/-- LONG_LATENCY_RESULT: the parts of a result that are known, in the lanes that return, are written and no longer outstanding; what earlier
results would still write there is discarded, a later instruction's write stays, and other registers and results stay (R52, R54).
TEAM_UNPARK and SLEEP_EXPIRY: a parked team whose condition holds comes back and waits for admission anew, one whose admission was
withdrawn in its old place; one that waited inside a word goes on with that word as it was; any other stays as it is (R37, R55, R57, R121,
R150, R151, R159, R164, R175, R310, R313, R373).
WATCHDOG freezes and escalates a reeve that has run past its limit; GENERATION_CLEAR leaves a level no sector of the value its counter takes
next (R233, R292).
A waiting stream goes on once its bell's PHASE differs from SEEN; one on a bell that nothing can ring is logged and killed; an idle sub-array
is gated after IDLE clocks, and a wake that is due opens it (R208, R209, R211, R293).
The model's choices, not the spec's: a stepped team stays frozen behind its word (log 34), the watchdog's freeze leaves FREEZES (log 35),
the kill of a stream whose bell nothing can ring leaves the teams (log 37), and idle clocks count from the wake too (log 108). -/
def Obligations.CoreEvents : Prop :=
  (∀ (s : State) (tk : Nat) (t : Team), s.team tk = some t →
  let back (X : State) (u : Team) : State :=
    X.bump.setTeam tk { u with run := .running, admitted := false, admitSeq := if u.withdrawn then u.admitSeq else X.fresh }
  (∀ ix lanes o, t.outst[ix]? = some o → t.run ≠ .freezing → (∀ c u, t.run ≠ .aborting c u) → (∀ q ∈ o.parts, q.reg.place q.lane ∧ (q.lane < t.lanes ∨ ∃ n, q.reg = .s n)) → (∀ e ∈ t.pend, e.reg.place e.lane) →
    let now (q : Part) : Prop := q ∈ o.parts ∧ lanes.getLsbD q.lane = true ∧ q.val.isSome
    ∃ t', exec (.longLatencyResult tk ix lanes) s = .next (s.setTeam tk t') ∧
      t' = { t with v := t'.v, s := t'.s, k := t'.k, pend := t'.pend, outst := t'.outst } ∧
      t'.outst = (t.outst.zipIdx.map fun x => { x.1 with parts := x.1.parts.filter fun q => !(
          if x.2 = ix then lanes.getLsbD q.lane && q.val.isSome
          else decide (x.2 < ix) && o.parts.any fun y => lanes.getLsbD y.lane && y.val.isSome && y.reg == q.reg && y.lane == q.lane) }).filter
        (fun o => !o.parts.isEmpty) ∧
      (∀ q x, now q → q.val = some x → (∀ y, now y → y.reg = q.reg → y.lane = q.lane → y = q) → t'.endVal q.reg q.lane =
        if q.stale = true ∧ ∃ e ∈ t.pend, e.reg = q.reg ∧ e.lane = q.lane then t.endVal q.reg q.lane else q.reg.holds x) ∧
      ∀ (r : RegId) (L : Nat), r.place L → (∀ q, now q → ¬(q.reg = r ∧ q.lane = L)) → t'.endVal r L = t.endVal r L) ∧
  (∀ c, t.run = .parked c → tk < 138240 → (∀ a, c ≠ .admission a) → (∀ u, c ≠ .sleep u) → (∀ sc z, c ≠ .acquired sc z) →
    (s.condHolds tk t c = false → exec (.teamUnpark tk) s = .next s) ∧
    (s.condHolds tk t c = true → exec (.teamUnpark tk) s = .next (match c with
      | .fetched _ | .acks _ | .walk _ | .quiet => s.setTeam tk { t with run := .running }
      | _ => back s t))) ∧
  (∀ sc z, t.run = .parked (.acquired sc z) → tk < 138240 →
    (s.condHolds tk t (.acquired sc z) = false → exec (.teamUnpark tk) s = .next s) ∧
    (s.condHolds tk t (.acquired sc z) = true → ∀ u, (s.acquire (coreOf tk) sc).team tk = some u →
      (u.stepping = none → exec (.teamUnpark tk) s = .next ((s.acquire (coreOf tk) sc).setTeam tk { u with run := .running })) ∧
      (u.stepping ≠ none → ∃ X v, exec (.teamUnpark tk) s = .next X ∧ X.team tk = some v ∧ v.run = .frozen ∧ v.stepping = none))) ∧
  ((∀ c, t.run ≠ .parked c) ∨ 138240 ≤ tk → exec (.teamUnpark tk) s = .next s) ∧
  (∀ u, t.run = .parked (.sleep u) → exec (.sleepExpiry tk) s = .next (if u ≤ s.now then back s t else s)) ∧
  ((∀ u, t.run ≠ .parked (.sleep u)) → exec (.sleepExpiry tk) s = .next s) ∧
  -- what each condition is
  (s.condHolds tk t .results = true ↔ ∀ o ∈ t.outst, o.parts = []) ∧
  (∀ m, s.condHolds tk t (.batch m) = true ↔ (t.batchDone - m).toNat < 32768) ∧
  (s.condHolds tk t .batchRoom = true ↔ t.batches.length < 64) ∧
  (∀ b, s.condHolds tk t (.bell b) = true ↔ (s.bell t.share b).phase ≠ t.seen.getLsbD b) ∧
  (∀ sh off ph, s.condHolds tk t (.barrier sh off ph) = true ↔ (s.barWord sh off).phase ≠ ph) ∧
  (∀ need, s.condHolds tk t (.locks need) = true ↔ ∀ x ∈ need, (s.core x.1).locks.length + x.2 ≤ 64) ∧
  (s.condHolds tk t .listRoom = true ↔ (s.core (coreOf tk)).waiting.length < 64) ∧
  (s.condHolds tk t .launchRoom = true ↔ (s.pkg (pkgOfTeam tk)).pending.length < 4096 ∧
    (s.pkg (pkgOfTeam tk)).launchWait.find? (fun x => !inImage x) = some tk) ∧
  (∀ n, s.condHolds tk t (.acks n) = true ↔ ∀ x ∈ (s.pkg (pkgOfTeam tk)).posted, n ≤ x.1) ∧
  (∀ ix, s.condHolds tk t (.walk ix) = true ↔ find (s.pkg (pkgOfTeam tk)).hreqs ix = none) ∧
  (∀ rs, s.condHolds tk t (.fetched rs) = true ↔ ∀ r ∈ rs, s.request r = none) ∧
  (∀ gs, s.condHolds tk t (.still gs) = true ↔ ∀ g ∈ gs, s.busy (pkgOfTeam tk) g = false) ∧
  (∀ ch own, s.condHolds tk t (.lodged ch own) = true ↔ s.change ch = none)) ∧
  (∀ (s : State),
  (∀ tk t, s.team tk = some t →
    let p := pkgOfTeam tk
    let over_ : Prop := t.role = .reeve ∧ (s.pkg p).wdog ≠ 0 ∧ (s.pkg p).wdog.toNat * 4096 < s.now - t.spawnedAt ∧ t.stepping = none ∧ t.interruptible = true
    (¬over_ → exec (.watchdog tk) s = .next s) ∧
    (over_ → ∃ X, exec (.watchdog tk) s = .next X ∧
      ((s.pkg p).duty.getLsbD 0 = false → X.team tk = none ∧ ∀ f, t.h0 = .frozen f → X.team f = none) ∧
      ((s.pkg p).duty.getLsbD 0 = true → (X.pkg p).fstat.getLsbD 2 = true ∧ (X.pkg p).fstat.getLsbD 0 = true ∧ (X.pkg p).freezes = (s.pkg p).freezes ∧
        (X.pkg p).escTotal = ((s.pkg p).escTotal + 1) % 2 ^ 24 ∧ ∃ u, X.team tk = some u ∧ u.run = .frozen ∧ u.escalated = true ∧ u.admitted = false ∧
          u.cause = { imprecise := true, addr := t.here } ∧ u.pc = t.pc ∧ ∀ f v, t.h0 = .frozen f → f ≠ tk → s.team f = some v → X.team f = some { v with escalated := true }))) ∧
  ∀ (lvl : Level) (sc : Scope),
    let ix : Nat := match sc with | .cluster => 0 | .die => 1 | .package => 2 | _ => 3
    let carries : Prop := match lvl, sc with
      | .l1 _, .cluster => True | .l1 _, .die => True | .l1 _, .package => True | .l1 _, .system => True
      | .l2 _, .package => True | .l2 _, .system => True | .l3 _, .system => True | _, _ => False
    (¬carries → exec (.generationClear lvl sc) s = .next s) ∧
    (carries → ∃ X, exec (.generationClear lvl sc) s = .next X ∧ (X.cache lvl).gen = (s.cache lvl).gen ∧
      X = { s with pkgs := X.pkgs, cores := X.cores, dies := X.dies, requests := X.requests, hostMem := X.hostMem, fresh := X.fresh } ∧
      ∀ e, e ∈ (X.cache lvl).sectors ↔ e ∈ (s.cache lvl).sectors ∧
        ∀ y ∈ (s.cache lvl).sectors, y.1 = e.1 → y.2.gens.getD ix 0 ≠ (s.cache lvl).gen.getD ix 0 + 1)) ∧
  (∀ (s : State),
  (∀ sh x m b p, s.share sh = some x → x.stream = some m → m.st = .waiting b → (s.grid x.grid).map (·.pkg) = some p →
    (exec (.pressBellWake sh) s = .next (if (m.bells.getD b {}).phase = m.seen.getLsbD b then s else s.updStream sh fun m => { m with st := .running })) ∧
    (let dead : Prop := (∀ e ∈ s.teams, e.2.share ≠ sh) ∧ (∀ e ∈ s.xfers, e.2.share ≠ sh) ∧ (m.bells.getD b {}).phase = m.seen.getLsbD b
     (¬dead → exec (.streamDeadlockKill sh) s = .next s) ∧
     (dead → ∃ X, exec (.streamDeadlockKill sh) s = .next X ∧ X.stream sh = some { m with st := .killed, cause := 1, sub := 0x0D } ∧ X.teams = s.teams ∧
       (X.pkg p).fstat.getLsbD 3 = true ∧ (X.pkg p).escTotal = ((s.pkg p).escTotal + 1) % 2 ^ 24))) ∧
  (∀ sh, (∀ m b, s.stream sh = some m → m.st ≠ .waiting b) → exec (.pressBellWake sh) s = .next s ∧ exec (.streamDeadlockKill sh) s = .next s) ∧
  ∀ core ix, ix < 16 →
    let k := s.core core
    let idle : Prop := k.idle ≠ 0 ∧ k.gated.getLsbD ix = false ∧ getD 0 k.lastUse ix + k.idle.toNat ≤ s.now
    let due : Prop := ∃ n, find k.wakeAt ix = some n ∧ n ≤ s.now
    (¬idle → exec (.pressIdleGate core ix) s = .next s) ∧
    (idle → ∃ g : BitVec 16, (∀ j < 16, g.getLsbD j = (k.gated.getLsbD j || decide (j = ix))) ∧ exec (.pressIdleGate core ix) s = .next (s.setCore core { k with gated := g })) ∧
    (¬due → exec (.pressWakeComplete core ix) s = .next s) ∧
    (due → ∃ g : BitVec 16, (∀ j < 16, g.getLsbD j = (k.gated.getLsbD j && !decide (j = ix))) ∧
      exec (.pressWakeComplete core ix) s = .next (s.setCore core { k with gated := g, lastUse := put k.lastUse ix s.now, wakeAt := erase k.wakeAt ix })))

/-- TEAM_ADMIT admits the first waiter of a core, reeves before teams whose admission was withdrawn before the others by the time they began to
wait, once its footprint, at the allotment that it waits for, fits beside the admitted ones; for a reeve that does not fit, the admission of
the team admitted last is withdrawn, unless enough is being withdrawn already (R29, R174, R310, R373). -/
def Obligations.Admission : Prop := ∀ (s : State) (core tk : Nat) (t : Team),
  let waits (e : Nat × Team) : Prop := coreOf e.1 = core ∧ e.1 < 138240 ∧ e.2.admitted = false ∧ e.2.stepping = none ∧
    (e.2.run = .running ∨ ∃ a, e.2.run = .parked (.admission a))
  let cls (u : Team) : Nat := if u.role = .reeve then 0 else if u.withdrawn then 1 else 2
  let foot (u : Team) (a : Nat) : Nat := (u.lanes + 31) / 32 * 128 * a
  let total (p : Team → Bool) : Nat := ((s.teams.filter fun e => coreOf e.1 == core && e.2.admitted && p e.2).map fun e => foot e.2 e.2.allot).sum
  let room : Nat := (s.core core).partition % 32 * 65536
  let admits (a : Nat) : Prop :=
    (total (fun _ => true) + foot t a ≤ room → exec (.teamAdmit core) s = .next (s.bump.setTeam tk { t with
      allot := a, run := .running, admitted := true, withdrawn := false, admitSeq := s.fresh, readyAt := s.now })) ∧
    (room < total (fun _ => true) + foot t a →
      (t.role ≠ .reeve → exec (.teamAdmit core) s = .next s) ∧
      (t.role = .reeve →
        (total (fun u => !u.withdrawn) + foot t a ≤ room → exec (.teamAdmit core) s = .next s) ∧
        (room < total (fun u => !u.withdrawn) + foot t a →
          let holds (e : Nat × Team) : Prop := coreOf e.1 = core ∧ e.2.admitted = true ∧ e.2.role ≠ .reeve ∧ e.2.withdrawn = false
          ((∀ e ∈ s.teams, ¬holds e) → exec (.teamAdmit core) s = .next s) ∧
          ∀ v u, (v, u) ∈ s.teams → s.team v = some u → holds (v, u) → (∀ e ∈ s.teams, holds e → e = (v, u) ∨ e.2.admitSeq < u.admitSeq) →
            exec (.teamAdmit core) s = .next (s.setTeam v { u with withdrawn := true, admitted := u.word.isSome }))))
  ((∀ e ∈ s.teams, ¬waits e) → exec (.teamAdmit core) s = .next s) ∧
  ((tk, t) ∈ s.teams → s.team tk = some t → waits (tk, t) →
    (∀ e ∈ s.teams, waits e → e = (tk, t) ∨ cls t < cls e.2 ∨ cls t = cls e.2 ∧ t.admitSeq < e.2.admitSeq) →
    (t.run = .running → admits t.allot) ∧ ∀ a, t.run = .parked (.admission a) → admits (max a t.allot))

/-- REEVE_SPAWN starts a reeve in a free reeve slot for the oldest handle of a core's waiting list, at the entry of its context's reeve kernel, with
the handle in h0 and the identity of the team that it names, also of one that has ended; where the context names no usable kernel the
team joins no list and is logged and ended, or held for the host; it waits while the team's results are outstanding, a host walk is
awaited, or no slot is free (R56, R283 to R285, R288, R291, R292, R298).
IMPRECISE_REPORT: a report freezes a live team that stands between instructions, or aborts its open region; up to four are kept with a frozen
team and a fifth is logged; one for a team that has ended makes a DEPARTED handle, and one for a team that is no longer known is
discarded; the others wait (R289 to R291, R297).
The model's choices, not the spec's: a slot is free only once the results of the team that ended there have returned (log 42), and NOREEVE for a
listed team at its spawn (log 44). -/
def Obligations.ReeveSpawnsAndReports : Prop :=
  (∀ (s s1 : State) (core : Nat) (x : Handle) (rest : List Handle) (st : Start) (c : Context) (bs : List Byte),
  let p := pkgOf core
  let i : Instr := .reeveSpawn core
  let k := (Kernel.ofBytes bs).1
  let usable : Prop := k.readable (Kernel.ofBytes bs).2 c.reeveHdr = true ∧ k.allotOk = true
  let slots : List Nat := [20 * core + 16, 20 * core + 17, 20 * core + 18, 20 * core + 19]
  let none_ (X : State) : Prop := exec i s = .next (X.noReeve core x)
  (s.unlisted core = none → (s.core core).waiting = [] → exec i s = .next s) ∧
  (s.unlisted core = none → (s.core core).waiting = x :: rest →
    (s.reeveStart x = none → exec i s = .next s) ∧
    (s.reeveStart x = some st →
      (find (s.pkg p).ctxs st.ctx = none → none_ s) ∧
      (find (s.pkg p).ctxs st.ctx = some c → c.reeveHdr = 0 → none_ s) ∧
      (find (s.pkg p).ctxs st.ctx = some c → c.reeveHdr ≠ 0 → s.walkAsked p (hwWho core) st.ctx c.reeveHdr = true → exec i s = .next s) ∧
      (find (s.pkg p).ctxs st.ctx = some c → c.reeveHdr ≠ 0 → s.walkAsked p (hwWho core) st.ctx c.reeveHdr = false →
        (s.readRecord (hwWho core) core st.ctx c.reeveHdr = (s1, .wait) → exec i s = .next s1) ∧
        (s.readRecord (hwWho core) core st.ctx c.reeveHdr = (s1, .bad) → none_ s1) ∧
        (s.readRecord (hwWho core) core st.ctx c.reeveHdr = (s1, .ok bs) → ¬usable → none_ s1) ∧
        (s.readRecord (hwWho core) core st.ctx c.reeveHdr = (s1, .ok bs) → usable →
          ((∀ tk ∈ slots, s1.slotFree tk = false) → exec i s = .next s1) ∧
          (∀ tk ∈ slots, s1.slotFree tk = true → (∀ q ∈ slots, q < tk → s1.slotFree q = false) → ∃ X r, exec i s = .next X ∧ X.team tk = some r ∧
            (∀ q, q ≠ tk → X.team q = s1.team q) ∧ (X.pkg p).spawns = (s1.pkg p).spawns + 1 ∧
            (X.core core).waiting = (s1.core core).waiting.drop 1 ++ (s1.core core).held.take (64 - ((s1.core core).waiting.drop 1).length) ∧
            r.role = .reeve ∧ r.h0 = x ∧ r.pc = c.reeveHdr + k.entry ∧ r.word = none ∧ r.rs 1 = c.reeveParam ∧ r.run = .running ∧ r.admitted = false ∧
            r.share = st.share ∧ r.cl = st.cl ∧ r.grid = st.grid ∧ r.ctx = st.ctx ∧ r.teamIx = st.teamIx ∧ r.cluster = st.cluster ∧
            r.lanes = k.lanes ∧ r.allot = 8 * k.pro8 ∧ r.spawnedAt = s1.now))))) ∧
  -- whose identity the reeve has
  (∀ f t, x = .frozen f → s.team f = some t →
    (t.settled = false ∨ t.stepping ≠ none → s.reeveStart x = none) ∧
    (t.settled = true → t.stepping = none → s.reeveStart x = some ⟨t.share, t.cl, t.grid, t.ctx, t.teamIx, t.cluster, t.slotT, .reeve, 0, 0, x⟩)) ∧
  (∀ e r, x = .departed e r → s.reeveStart x = some ⟨e.share, e.cl, e.grid, e.ctx, e.teamIx, e.cluster, 0, .reeve, 0, 0, x⟩) ∧
  -- a slot holds no team, and no result of one that has ended is still to come
  (∀ tk, s.slotFree tk = true ↔ s.team tk = none ∧ ∀ e ∈ s.requests, ¬(e.2.tk = tk ∧ e.2.xfer = none ∧ e.2.bring = false ∧
    (e.2.kind = .load ∨ ∃ ops, e.2.kind = .atomic ops true))) ∧
  -- a frozen team that stands on no list and has no reeve
  (∀ f t, s.unlisted core = some (f, t) →
    (coreOf f = core ∧ t.run = .frozen ∧ t.escalated = false ∧ t.role ≠ .reeve ∧ t.stepping = none ∧
      (∀ e ∈ s.cores, Handle.frozen f ∉ e.2.waiting ∧ Handle.frozen f ∉ e.2.held) ∧ ∀ e ∈ s.teams, e.2.h0 ≠ .frozen f) ∧
    (s.reeveless core t.ctx = true → exec i s = .next (s.escalateAlone f)) ∧ (s.reeveless core t.ctx = false → exec i s = .next (s.enlist core (.frozen f)))) ∧
  -- NOREEVE
  (∀ f t, s.team f = some t → pkgOfTeam f = p →
    s.noReeve core (.frozen f) = s.escalateAlone f ∧ ((s.escalateAlone f).pkg p).escTotal = ((s.pkg p).escTotal + 1) % 2 ^ 24 ∧
    ((s.pkg p).duty.getLsbD 0 = true → ∃ u, (s.escalateAlone f).team f = some u ∧ u = { t with escalated := true }) ∧
    ((s.pkg p).duty.getLsbD 0 = false → (s.escalateAlone f).team f = none))) ∧
  (∀ (s : State) (ix : Nat) (r : Report), s.reports[ix]? = some r →
  (∀ q ∈ s.reports.take ix, ¬(q.tk = r.tk ∧ q.serial = r.serial)) →
  let i : Instr := .impreciseReport ix
  let X : State := { s with reports := s.reports.eraseIdx ix }
  let p := pkgOfTeam r.tk
  let named : List LaneCause := r.lanes.map fun l => ⟨l.1, r.cause, l.2⟩
  let rec_ : CauseRec := { lanes := named, primary := r.cause.code, sub := 0, field := r.reason, imprecise := true, addr := r.addr }
  (∀ t, s.team r.tk = some t → t.serial = r.serial →
    (t.run = .frozen ∨ t.run = .freezing ∨ t.stepping ≠ none →
      (t.reports.length < 4 → exec i s = .next (X.setTeam r.tk { t with reports := t.reports ++ [r] })) ∧
      (4 ≤ t.reports.length → exec i s = .next ((X.logEsc p { addr := r.addr, tserial := r.serial, kind := 5, core := coreOf r.tk % 48, cause := rec_.word }).updPkg p
        (·.setFstat 4)))) ∧
    (t.run ≠ .frozen → t.run ≠ .freezing → t.stepping = none →
      (t.interruptible = false ∨ 138240 ≤ r.tk → exec i s = .next s) ∧
      (t.interruptible = true → r.tk < 138240 → ∃ Y : State, Y = { X with shares := Y.shares, pkgs := Y.pkgs } ∧
        (∀ q, Y.pkg q = { s.pkg q with launchWait := (Y.pkg q).launchWait }) ∧ r.tk ∉ (Y.pkg p).launchWait ∧ (∀ q, q ≠ t.share → Y.share q = s.share q) ∧
        (∀ x, s.share t.share = some x → ∃ y : Share, Y.share t.share = some y ∧ y = { x with rings := y.rings } ∧
          ∀ g ∈ y.rings, r.tk ∉ g.senders ∧ r.tk ∉ g.takers) ∧
        exec i s = .next (if t.tryR.isSome then Y.abortTry r.tk 4 0 else Y.freeze r.tk rec_)))) ∧
  ((∀ t, s.team r.tk = some t → t.serial ≠ r.serial) →
    ((∀ e ∈ (s.pkg p).endedTeams, e.serial ≠ r.serial) → exec i s = .next X) ∧
    ∀ e, (s.pkg p).endedTeams.find? (fun e => e.serial == r.serial) = some e → exec i s = .next (X.enlist e.core (.departed e
      { lanes := r.lanes.map fun l => ⟨l.1, .departedStore, l.2⟩, primary := 0x30, sub := r.cause.code, field := r.reason, imprecise := true, addr := r.addr }))))

/-! ## The scheduler (R299 to R314) -/

/-- PERIOD_START, BUDGET_EXHAUSTED, ENERGY_WINDOW and METERING_TICK act at their clocks and do nothing at others: the deadline, USED, the balance
with its refill and cap, background mode and OVERRUN, which a budget met in the metered µs brings at once, WAVAIL, the energy of the cores and
the grids' shares of it, by what each issued on a core or by what it holds there (R299, R301, R302, R304, R305, R364).
GRID_COMPLETE: a grid whose teams, streams and transfers have ended, and of which no report is due, releases once at SYSTEM scope on every core
it used; with every write posted up to then acknowledged its DONE word is written, in host memory or in the master's frame, its ticket ends with
status 0, purse and window regain what it did not spend, and it leaves the machine; a DONE word that fails its checks, or whose page is LOST or
freed, is logged (R175, R176, R304 to R306, R348, R364).
The model's choices, not the spec's: what a division leaves over goes to the first grid (log 14), a BUDGET of 0 sets background without an
overrun (log 41), and whole microjoules in WAVAIL and the DONE word (log 43). -/
def Obligations.PeriodsMeteringAndCompletion : Prop :=
  (∀ (s : State) (p q : Nat),
  let k := s.pkg p
  let x := s.queue p q
  let c := s.clock p
  let us := c / 3600
  let starts : Prop := x.en = true ∧ x.period ≠ 0 ∧ k.meteredAt = some c ∧ c % 3600 = 0 ∧ x.t0 ≤ us ∧ (us - x.t0) % x.period = 0 ∧ x.startedAt ≠ some c
  (¬starts → exec (.periodStart p q) s = .next s) ∧
  (starts → exec (.periodStart p q) s = .next (s.setQueue p q { x with
    absdl := (us + min x.deadline x.period) * 3600, used := 0, bg := decide (x.budget = 0), balance := min (x.balance + 1000 * x.refill) (1000 * x.pcap), startedAt := some c })) ∧
  (let spent : Prop := x.period ≠ 0 ∧ x.bg = false ∧ x.budget ≠ 0 ∧ x.budget ≤ x.used
   (¬spent → exec (.budgetExhausted p q) s = .next s) ∧
   (spent → exec (.budgetExhausted p q) s = .next ((s.setQueue p q { x with bg := true, overrun := true }).updPkg p fun k =>
     ({ k with overruns := k.overruns + 1 } : Pkg).raiseVec 2))) ∧
  exec (.energyWindow p) s = .next (if c % 3600000 = 0 ∧ k.windowAt ≠ some c then s.setPkg p { k with wavail := k.ewin, windowAt := some c } else s) ∧
  (¬(c % 3600 = 0 ∧ k.meteredAt ≠ some c) → ∀ nj, exec (.meteringTick p nj) s = .next s) ∧
  (c % 3600 = 0 → k.meteredAt ≠ some c → Rising s.grids → Rising k.queues → ∀ nj : List (Nat × Nat), (∀ e ∈ nj, e.1 < 48) → (nj.map (·.1)).Nodup → ∃ X,
    exec (.meteringTick p nj) s = .next X ∧
    (∀ d < 48, (X.core (48 * p + d)).energy = (s.core (48 * p + d)).energy + BitVec.ofNat 64 ((nj.filter fun e => e.1 == d).map (·.2)).sum ∧
      (X.core (48 * p + d)).issued = []) ∧
    (X.pkg p).meteredAt = some c ∧
    (let share (e : Nat × Nat) (gk : Nat) : Nat :=
       let ws := s.weights (48 * p + e.1)
       let cut (y : Nat × Nat) : Nat := e.2 * y.2 / max 1 (ws.map (·.2)).sum
       (ws.zipIdx.map fun x => if x.1.1 = gk then cut x.1 + (if x.2 = 0 then e.2 - (ws.map cut).sum else 0) else 0).sum
     ∀ gk g, s.grid gk = some g → X.grid gk = some { g with metered := g.metered + (nj.map fun e => share e gk).sum }) ∧
    ∀ y, find k.queues q = some y → ∃ z, find (X.pkg p).queues q = some z ∧ (let live : Prop := ∃ g ∈ s.grids, g.2.pkg = p ∧ g.2.queue = q
      let spent : Prop := y.period ≠ 0 ∧ y.bg = false ∧ y.budget ≠ 0 ∧ y.budget ≤ z.used
      z = { y with used := z.used, busyUs := decide live, bg := y.bg || decide spent, overrun := y.overrun || decide spent } ∧
        (y.busyUs = true ∨ live → z.used = min (2 ^ 32 - 1) (y.used + 1)) ∧ (y.busyUs = false → ¬live → z.used = y.used))) ∧
  -- the weights of a core's grids
  ∀ core, let holds (g : Nat) : Nat := (s.teams.filter fun e => coreOf e.1 == core && decide (e.1 < 138240) && e.2.grid == g).length +
      (s.shares.filter fun e => e.2.core == some core && !e.2.ended && e.2.grid == g && e.2.stream.any fun m => m.st != .ended && m.st != .killed).length
    ((∃ e ∈ (s.core core).issued, 0 < holds e.1 ∧ e.2 ≠ 0) → s.weights core = (s.core core).issued.filter fun e => decide (0 < holds e.1)) ∧
    ((∀ e ∈ (s.core core).issued, holds e.1 = 0 ∨ e.2 = 0) → ∀ g w, (g, w) ∈ s.weights core ↔ w = holds g ∧ 0 < w)) ∧
  (∀ (s : State) (gk : Nat) (g : Grid), s.grid gk = some g →
  let i : Instr := .gridComplete gk
  let p := g.pkg
  let over_ : Prop := g.nextCluster = g.launch.gx * g.launch.gy * g.launch.gz ∧ (∀ e ∈ s.teams, e.2.grid = gk → e.2.role = .reeve) ∧
    (∀ e ∈ s.shares, e.2.grid = gk → e.2.ended = true) ∧ ∀ e ∈ s.xfers, e.2.grid ≠ gk
  let s0 := g.cores.foldl (fun s c => s.release c 5) s
  let last : Nat := g.released.getD (s0.pkg p).postSeq
  let s1 := if g.released.isSome then s else s0.updGrid gk fun g => { g with released := some last }
  let done : Nat := 2 ^ 63 + min (g.metered / 1000) (2 ^ 32 - 1) * 2 ^ 8
  (¬over_ ∨ s.reportDue gk g = true → exec i s = .next s) ∧
  (over_ → s.reportDue gk g = false →
    ((∃ x ∈ (s1.pkg p).posted, x.1 < last) → exec i s = .next s1) ∧
    ((∀ x ∈ (s1.pkg p).posted, last ≤ x.1) → ∀ s2 ok, s1.writeDone p g.queue (g.cores.headD (48 * p)) g.ctx g.launch.done done = (s2, ok) →
      (ok = false → exec i s = .next s2) ∧
      (ok = true → ∃ X, exec i s = .next X ∧ X.grid gk = none ∧ (∀ h, h ≠ gk → X.grid h = s2.grid h) ∧
        (∀ e ∈ X.clusters, e.2.grid ≠ gk) ∧ (∀ e ∈ X.shares, e.2.grid ≠ gk) ∧
        (X.queue p g.queue).balance = (s2.queue p g.queue).balance + 1000 * g.launch.energy - g.metered ∧
        (X.pkg p).wavail = (s2.pkg p).wavail + (if s2.clock p / 3600000 = g.admittedAt / 3600000 then g.launch.energy - g.metered / 1000 else 0) ∧
        ∀ n, g.ticket = some n → n ∉ (s2.pkg p).endedTickets → find (X.pkg p).tickets n = some ⟨2, 0⟩))) ∧
  -- the DONE word
  (∀ core ctx n, s.writeDone p g.queue core ctx 0 n = (s, true)) ∧
  let checks (core ctx : Nat) (va : Word) : State × Chk := s.asHardware p (schedWho p) Chk.waits fun s => s.checkGlobal core ctx va 8 true false false false
  let told (Y : State) (s2 : State) : Prop := if (s2.pkg p).masked (16 + g.queue % 2032) = true then getD false (Y.pkg p).msixPend (16 + g.queue % 2032) = true
    else (Y.pkg p).irqs.head? = some (16 + g.queue % 2032)
  (∀ core ctx va n s2 c, va ≠ 0 → s.walkAsked p (schedWho p) ctx va = false → checks core ctx va = (s2, .bad c) →
    ∃ Y, s.writeDone p g.queue core ctx va n = (Y, true) ∧ (Y.pkg p).fstat.getLsbD 5 = true ∧ (Y.pkg p).escTotal = ((s2.pkg p).escTotal + 1) % 2 ^ 24 ∧ Y.hostMem = s2.hostMem) ∧
  (∀ core ctx va n s2 x, va ≠ 0 → s.walkAsked p (schedWho p) ctx va = false → checks core ctx va = (s2, .ok [x]) →
    x.leaf.gpn = x.addr / 65536 → 0xFF00000000 ≤ x.leaf.gpn → x.addr % 8 = 0 → n < 2 ^ 64 → ∃ Y, s.writeDone p g.queue core ctx va n = (Y, true) ∧
      (∀ j < 8, Y.hostByte (65536 * (x.leaf.gpn - 0xFF00000000) + x.addr % 65536 + j) = BitVec.ofNat 8 (n / 2 ^ (8 * j))) ∧
      told Y s2) ∧
  (∀ core ctx va n s2 x, va ≠ 0 → s.walkAsked p (schedWho p) ctx va = false → checks core ctx va = (s2, .ok [x]) →
    x.leaf.gpn = x.addr / 65536 → x.leaf.gpn < 0xFF00000000 → x.addr % 8 = 0 → n < 2 ^ 64 →
    (∀ l ∈ corePath core, find (s2.cache l).sectors (x.addr / 32) = none) → s2.sectorBusy p (x.addr / 32) = false →
    let gpn := x.leaf.gpn
    (s2.busy p gpn = true → ∃ Y, s.writeDone p g.queue core ctx va n = (Y, false)) ∧
    (s2.busy p gpn = false → ∀ e, s2.parishSees p gpn = some e →
      (e.lost = true ∨ e.refs = 0 → ∃ Y, s.writeDone p g.queue core ctx va n = (Y, true) ∧ (Y.pkg p).fstat.getLsbD 5 = true ∧
        (Y.pkg p).escTotal = ((s2.pkg p).escTotal + 1) % 2 ^ 24) ∧
      (∀ f, e.lost = false → e.refs ≠ 0 → e.master = p → e.twinpkg = 255 → p < 144 → (s2.pkg p).frameOf gpn = some f → (s2.pkg p).stateOf gpn = .masterExcl →
        (∀ q ∈ s2.pkgs, q.2.stateOf gpn ≠ .replica) →
        find (s2.pkg p).poison (2048 * f + x.addr / 32 % 2048) = none → find (s2.pkg p).symErr (2048 * f + x.addr / 32 % 2048) = none →
        ∃ Y, s.writeDone p g.queue core ctx va n = (Y, true) ∧ told Y s2 ∧ Y.hostMem = s2.hostMem ∧
          ∀ h b, b < 65536 → (Y.pkg p).byte h b = if h = f ∧ x.addr % 65536 ≤ b ∧ b < x.addr % 65536 + 8 then BitVec.ofNat 8 (n / 2 ^ (8 * (b - x.addr % 65536)))
            else (s2.pkg p).byte h b))))

/-- QUEUE_DISPATCH considers the enabled queues with a head record, foreground by deadline and number, background in turn, and takes the first
whose record does not wait, one that waits blocking its own queue alone: a record that no purse or window could ever pay is refused, one that both can pay is charged and its grid is
live, its sr.grid no other live grid's; a bad record ends with its status; in ADMIT mode the host's answer decides (R24, R32, R299, R300, R303,
R306, R316).
The model's choices, not the spec's: RING and its records lie in host memory (log 39), and the scheduler reads a kernel header in one step at the
SYSTEM point (log 24). -/
def Obligations.QueueDispatch : Prop := ∀ (s : State) (p : Nat),
  let k := s.pkg p
  let i : Instr := .queueDispatch p
  let bg (q : Nat) : Prop := (s.queue p q).period = 0 ∨ (s.queue p q).bg = true
  let first (q : Nat) (m : List Nat) : Prop := ∃ l, s.queueOrder p = l ++ q :: m ∧ ∀ y ∈ l, s.admitRecord p y = (s, false)
  (Rising k.queues →
    (∀ q, q ∈ s.queueOrder p ↔ (find k.queues q).isSome ∧ (s.queue p q).en = true ∧ (s.headRecord p (s.queue p q)).isSome) ∧
    (s.queueOrder p).Pairwise fun a b => (¬bg a ∧ bg b) ∨ (¬bg a ∧ ¬bg b ∧ ((s.queue p a).absdl < (s.queue p b).absdl ∨ (s.queue p a).absdl = (s.queue p b).absdl ∧ a < b)) ∨
      (bg a ∧ bg b ∧ (k.lastBg < a ∧ b ≤ k.lastBg ∨ (a ≤ k.lastBg ↔ b ≤ k.lastBg) ∧ a < b))) ∧
  ((∀ q ∈ s.queueOrder p, s.admitRecord p q = (s, false)) → exec i s = .next s) ∧
  -- the head record of a ring
  (∀ x : Queue, ∀ rest, x.entered = none :: rest → x.blocked = false →
    s.headRecord p x = some (0, none, .ofBytes (s.hostBytes (64 * x.ring + 64 * (x.head.toNat % 2 ^ min 16 x.log2n)) 64))) ∧
  ∀ q m ix tkt l, first q m → s.headRecord p (s.queue p q) = some (ix, tkt, l) → s.walkAsked p (schedWho p) (s.queue p q).ctx l.kernel = false →
    -- ADMIT mode
    (∀ n, (s.queue p q).asked = some n → (s.queue p q).answer = none → s.admitRecord p q = (s, false)) ∧
    (∀ a s1 kn, (s.queue p q).answer = some a → s.validate p (s.queue p q).ctx l = (s1, .ok kn) →
      (a ≠ 0 → s.admitRecord p q = s1.failLaunch p q ix tkt l 5) ∧ (a = 0 → (s.admitRecord p q).2 = true)) ∧
    (k.duty.getLsbD 5 = true → (s.queue p q).asked = none → (s.queue p q).answer = none → ∀ s1,
      (s.askHost p 2 255 (BitVec.ofNat 64 q) (BitVec.ofNat 64 l.energy) l.kernel = (s1, none) → s.admitRecord p q = (s, false)) ∧
      ∀ n, s.askHost p 2 255 (BitVec.ofNat 64 q) (BitVec.ofNat 64 l.energy) l.kernel = (s1, some n) →
        s.admitRecord p q = (s1.updQueue p q fun x => { x with asked := some n }, false)) ∧
    (k.duty.getLsbD 5 = false → (s.queue p q).asked = none → (s.queue p q).answer = none →
    let x := s.queue p q
    let never : Prop := x.pcap < l.energy ∨ k.ewin < l.energy
    let pays : Prop := 1000 * (l.energy : Int) ≤ x.balance ∧ l.energy ≤ k.wavail
    (¬never → ¬pays → s.admitRecord p q = (s, false)) ∧
    ∀ s1 v, s.validate p x.ctx l = (s1, v) →
      -- a launch fails, or its DONE word waits and the queues behind are considered
      (∀ n, (v = .bad n ∧ (never ∨ pays)) ∨ ((∃ kn, v = .ok kn) ∧ never ∧ n = 5) → ∀ s2,
        (s1.failLaunch p q ix tkt l n = (s2, true) → exec i s = .next s2) ∧
        (s1.failLaunch p q ix tkt l n = (s2, false) → (∀ y ∈ m, s2.admitRecord p y = (s2, false)) → exec i s = .next s2) ∧
        ∀ y m' s3, s1.failLaunch p q ix tkt l n = (s2, false) → m = y :: m' → s2.admitRecord p y = (s3, true) → exec i s = .next s3) ∧
      (∀ kn, v = .ok kn → ¬never → pays → s1.queue p q = x → ∃ X gk, exec i s = .next X ∧ gk / 2 ^ 32 = s1.fresh ∧
        (s1.grids.length < 2 ^ 32 → ∀ e ∈ s1.grids, e.1 % 2 ^ 32 ≠ gk % 2 ^ 32) ∧
        X.grid gk = some { pkg := p, queue := q, ctx := x.ctx, kernel := kn, launch := l, ticket := tkt, admittedAt := s1.clock p } ∧
        (∀ g, g ≠ gk → X.grid g = s1.grid g) ∧ (X.pkg p).wavail = (s1.pkg p).wavail - l.energy ∧
        X.queue p q = { x with
          entered := x.entered.eraseIdx ix, head := if tkt = none then x.head + 1 else x.head, asked := none, answer := none,
          balance := x.balance - 1000 * l.energy, busyUs := true } ∧
        (∀ n, tkt = some n → find (X.pkg p).tickets n = some ⟨1, 0⟩ ∧ find (X.pkg p).pending n = none)) ∧
      -- a failed launch writes its DONE word, leaves its queue and ends its ticket
      ∀ n s2, s1.writeDone p q (48 * p) (s1.queue p q).ctx l.done (2 ^ 63 + n) = (s2, true) → n < 256 → ∃ Y, s1.failLaunch p q ix tkt l n = (Y, true) ∧
        (∀ j, tkt = some j → j ∉ (s2.pkg p).endedTickets → find (Y.pkg p).tickets j = some ⟨2, n⟩) ∧ (Y.queue p q).entered = (s2.queue p q).entered.eraseIdx ix)

/-- CLUSTER_PLACE starts the next cluster of the earliest grid on the first rectangle of CW × CH cores of a die, the lowest die first and then the
lowest mesh index of its top-left core, whose cores all have room, where the context pool has room: its shares with empty scratchpad,
rings and streams, its teams at their kernel's entry (R15, R16, R26 to R28, R35, R36, R190, R307, R314). That a pre-empted cluster of
an earlier grid goes first, but for one whose room was taken for this cluster, is the model's choice (log 13). -/
def Obligations.ClusterPlacement : Prop := ∀ (s : State) (p gk : Nat) (g : Grid) (cores : List Nat), p < 144 → s.nextGrid p = some (gk, g) → s.grid gk = some g →
  let i : Instr := .clusterPlace p
  let k := g.kernel
  let ahead : Prop := ∃ c ∈ s.savedClusters p, c.2.grid ≤ gk ∧ (c.2.grid = gk ∨ ∀ v, s.grid c.2.grid = some v → s.victimOf p v g = false)
  let n := cores.length
  let cl := s.fresh
  let rect (d r c : Nat) : List Nat := (List.range g.launch.ch).flatMap fun a => (List.range g.launch.cw).map fun b => 12 * (4 * p + d) + 4 * (r + a) + (c + b)
  let lies (d r c : Nat) : Prop := d < 4 ∧ r + g.launch.ch ≤ 3 ∧ c + g.launch.cw ≤ 4
  let fits (d r c : Nat) : Prop := ∀ x ∈ rect d r c, s.coreFits x k.need [] = true
  (∀ l, s.findPlace p g [] = some l → ∃ d r c, lies d r c ∧ l = rect d r c ∧ fits d r c ∧
    ∀ d' r' c', lies d' r' c' → fits d' r' c' → d < d' ∨ d = d' ∧ 4 * r + c ≤ 4 * r' + c') ∧
  (s.findPlace p g [] = none ↔ ∀ d r c, lies d r c → ¬fits d r c) ∧
  (∀ core, let hs := s.shares.filter fun e => e.2.core == some core && !e.2.ended
    let here : Prop := hs ≠ [] ∨ ∃ e ∈ s.teams, coreOf e.1 = core ∧ e.1 < 138240
    (s.coreFits core k.need [] = true ↔ (here → (s.core core).partition = k.partition) ∧
      k.teams ≤ ((List.range 16).filter fun m => s.slotFree (20 * core + m)).length ∧
      (hs.filter fun e => e.2.stream.isSome).length + (if k.press = 0 then 0 else 1) ≤ 4 ∧
      (hs.map fun e => s.blocksOf e.2).sum + k.accblk ≤ partAcc k.partition ∧
      (hs.map fun e => e.2.spbytes).sum + k.spbytes ≤ partSp k.partition * 65536)) ∧
  (ahead ∨ s.poolRoom p g = false ∨ s.findPlace p g [] = none → exec i s = .next s) ∧
  (¬ahead → s.poolRoom p g = true → s.findPlace p g [] = some cores → k.teams ≤ 16 → ∃ X, exec i s = .next X ∧
    (∀ c ∈ cores, s.coreFits c k.need [] = true ∧ c / 48 = p) ∧ n = g.launch.cw * g.launch.ch ∧
    X.cluster cl = some {
      grid := gk, index := g.nextCluster, cw := g.launch.cw, ch := g.launch.ch, die := cores.headD 0 / 12,
      shares := (List.range n).map (cl + 1 + ·), placedSeq := cl } ∧
    (∃ g', X.grid gk = some g' ∧ g'.nextCluster = g.nextCluster + 1 ∧ g'.clusters = g.clusters ++ [cl] ∧ ∀ c ∈ cores, c ∈ g'.cores) ∧
    ∀ j core, cores[j]? = some core → (X.core core).partition = k.partition ∧
      X.share (cl + 1 + j) = some {
        core := some core, cl := cl, grid := gk, pos := j, spbytes := k.spbytes, nteams := k.teams, rings := List.replicate k.rings {},
        stream := if k.press = 0 then none else some { st := .running, spc := g.launch.kernel + k.press, blocks := List.replicate k.accblk {} } } ∧
      ∀ m < k.teams, ∃ tk t, coreOf tk = core ∧ tk % 20 < 16 ∧ X.team tk = some t ∧ t.share = cl + 1 + j ∧ t.cl = cl ∧ t.grid = gk ∧ t.ctx = g.ctx ∧
        t.slotT = m ∧ t.teamIx = j * k.teams + m ∧ t.cluster = g.nextCluster ∧ t.pc = g.launch.kernel + k.entry ∧ t.word = none ∧ t.rs 1 = g.launch.param ∧
        t.lanes = k.lanes ∧ t.role = roleOfCode (k.roles / 2 ^ (2 * m) % 4) ∧ t.allot = 8 * k.pro8 ∧ t.run = .running ∧ t.admitted = false)

/-- PREEMPT_CLUSTER stops the first victim of the first foreground grid that no rectangle can take, one cluster at a time, and once its teams
stand at clause boundaries with their results returned and their accesses performed, they leave their slots for their images; a cluster
that R311 has come to protect goes on; SHARE_IMAGE_SAVE then frees its cores when no transfer holds its scratchpads, and
CLUSTER_RESUME places its shares again. R311's conditions and R312's order are stated as such: no cluster of which a reeve holds a FROZEN handle,
a team is frozen with a region open, or a team is a reeve; background before foreground, the latest ABSDL first, the most recently placed of a
grid first (R56, R57, R237, R311 to R314).
The model's choices, not the spec's: a resume waits while its room is wanted for a foreground cluster (log 13), it takes the lowest cores that fit
(log 46), the order among background grids (log 47), and a listed frozen team keeps its handle (log 62). -/
def Obligations.PreemptSaveResume : Prop := ∀ (s : State) (p : Nat),
  (let starved (g : Grid) : Prop := (s.queue p g.queue).period ≠ 0 ∧ (s.queue p g.queue).bg = false ∧
      g.nextCluster < g.launch.gx * g.launch.gy * g.launch.gz ∧ s.poolRoom p g = true ∧ s.findPlace p g [] = none ∧
      (s.findPlace p g ((s.victims p g).map (·.1))).isSome
   let fresh : Prop := s.clustersOf p (·.saving) = [] ∧ s.clustersOf p (·.stopping) = []
   let stops (cl : Nat) : Prop := (s.clustersOf p (·.saving) = [] ∧ ∃ c rest, s.clustersOf p (·.stopping) = (cl, c) :: rest) ∨
      (fresh ∧ ∃ l gk g m c rest, s.gridsOf p = l ++ (gk, g) :: m ∧ (∀ e ∈ l, ¬starved e.2) ∧ starved g ∧ s.victims p g = (cl, c) :: rest)
   let stands (tk : Nat) (t : Team) : Prop := t.settled = true ∧ s.quiet tk t.serial = true ∧
      ((t.run = .running ∧ t.word = none) ∨ (∃ c, t.run = .parked c ∧ c.isPark = true) ∨ t.run = .frozen)
   -- R311
   (∀ cl, s.preemptable cl = true ↔ (∀ e ∈ s.teams, e.2.cl = cl → e.2.role ≠ .reeve ∧ e.2.stepping = none ∧
     ¬((e.2.run = .frozen ∨ e.2.run = .freezing) ∧ e.2.tryR ≠ none) ∧ ∀ r ∈ s.teams, r.2.role = .reeve → r.2.h0 ≠ .frozen e.1)) ∧
   -- R312
   (∀ g, let bg (c : Cluster) : Prop := ∃ v, s.grid c.grid = some v ∧ ((s.queue p v.queue).period = 0 ∨ (s.queue p v.queue).bg = true)
     let dl (c : Cluster) : Nat := (s.grid c.grid).elim 0 fun v => (s.queue p v.queue).absdl
     let waiter : Prop := (s.queue p g.queue).period ≠ 0 ∧ (s.queue p g.queue).bg = false
     (∀ e, e ∈ s.victims p g ↔ e ∈ s.clusters ∧ e.2.stopping = false ∧ e.2.saving = false ∧ e.2.saved = false ∧ s.preemptable e.1 = true ∧
       (∃ sh ∈ e.2.shares, ∃ x, s.share sh = some x ∧ x.ended = false) ∧
       ∃ v, s.grid e.2.grid = some v ∧ v.pkg = p ∧ waiter ∧ (bg e.2 ∨ (s.queue p g.queue).absdl < dl e.2)) ∧
     (s.victims p g).Pairwise fun a b => (bg a.2 ∧ ¬bg b.2) ∨ ((bg a.2 ↔ bg b.2) ∧ ((¬bg a.2 ∧ dl b.2 < dl a.2) ∨ ((bg a.2 ∨ dl a.2 = dl b.2) ∧
       (b.2.grid < a.2.grid ∨ a.2.grid = b.2.grid ∧ b.2.placedSeq ≤ a.2.placedSeq))))) ∧
   (s.clustersOf p (·.saving) ≠ [] → exec (.preemptCluster p) s = .next s) ∧
   (fresh → (∀ e ∈ s.gridsOf p, ¬starved e.2) → exec (.preemptCluster p) s = .next s) ∧
   ∀ cl, stops cl →
     (s.preemptable cl = false → exec (.preemptCluster p) s = .next (s.updCluster cl fun c => { c with stopping := false })) ∧
     (s.preemptable cl = true → (∃ e ∈ s.clusterTeams cl, ¬stands e.1 e.2) →
       exec (.preemptCluster p) s = .next (s.updCluster cl fun c => { c with stopping := true })) ∧
     (s.preemptable cl = true → (∀ e ∈ s.clusterTeams cl, stands e.1 e.2) → (∀ e ∈ s.clusterTeams cl, e.1 < 138240) → 0 < s.fresh →
       ∀ c, s.cluster cl = some c → ∃ X, exec (.preemptCluster p) s = .next X ∧
       X.cluster cl = some { c with stopping := false, saving := true } ∧ (X.pkg p).preempts = (s.pkg p).preempts + 1 ∧
       ∀ tk t, s.team tk = some t → t.cl = cl → t.role ≠ .reeve → X.team tk = none ∧
         ∃ m u, 0 < m ∧ X.team (138240 * m + tk) = some u ∧ u.serial = t.serial ∧ u.admitted = false ∧ u.tryR = none)) ∧
  (∀ cl c g, s.cluster cl = some c → s.grid c.grid = some g →
    let held (sh : Nat) (x : Xfer) : Prop := (∃ o, Loc.sp sh o ∈ x.dst) ∨ ∃ o, some (Loc.sp sh o) ∈ x.src
    let may : Prop := c.saving = true ∧ g.pkg = p ∧ ∀ sh ∈ c.shares, ∀ e ∈ s.xfers, ¬held sh e.2
    (¬may → exec (.shareImageSave p cl) s = .next s) ∧
    (may → ∃ X, exec (.shareImageSave p cl) s = .next X ∧ X = { s with shares := X.shares, clusters := X.clusters } ∧ X.cluster cl = some { c with saving := false, saved := true } ∧
      ∀ sh x, s.share sh = some x → X.share sh = some (if sh ∈ c.shares then { x with core := none } else x)) ∧
    (let ahead : Prop := ∃ e ∈ s.savedClusters p, e.2.grid < c.grid ∨ e.2.grid = c.grid ∧ e.2.index < c.index
     let wanted : Prop := ∃ gk n, s.nextGrid p = some (gk, n) ∧ s.poolRoom p n = true ∧ (gk < c.grid ∨ s.victimOf p g n = true)
     let may : Prop := c.saved = true ∧ g.pkg = p ∧ ¬ahead ∧ ¬wanted
     (¬may ∨ s.resumePlace g c = none → exec (.clusterResume p cl) s = .next s) ∧
     ∀ l, may → s.resumePlace g c = some l → c.shares.Nodup → ∃ X, exec (.clusterResume p cl) s = .next X ∧
       (∃ c', X.cluster cl = some c' ∧ c'.saved = false ∧ c'.shares = c.shares) ∧
       (∀ y ∈ l, y.2 / 12 = c.die ∧ (X.core y.2).partition = g.kernel.partition ∧ ∃ x, X.share y.1 = some x ∧ x.core = some y.2) ∧
       ∀ sh ∈ c.shares, ∀ x, s.share sh = some x → x.ended = false → ∃ y ∈ l, y.1 = sh))

/-! ## The location directory (R252 to R273, R372) -/

/-- CLIMB: a request that follows an older one waits, or a read follows writes that are on their way to its plane; one for a LOST or freed page
fails; one that its package's frame can serve is served and leaves; one whose page is on its way here is held, in the order of arrival; any
other counts its heat and goes up the slices, to the master that the hamlet slice names, a holder in the hamlet or the master that the parish
slice names, or to a first touch, or fails where no route leads there. Placement attracts the page where the comparator's inequality passes
and a way is free, holds the request while the page changes state, a lodging came first or another takes the way, and otherwise sends the
request to the holder. A probe's background return and the rerun of waiting first touches go on alike
(R129, R222, R223, R224, R247, R254 to R259, R265, R269, R271, R277, R289, R345, R349, R350, R372).
The model's choices, not the spec's: a new request to a master that is declared lost and not yet settled has no route (log 113), and one-step
flits to the slices (log 77). -/
def Obligations.DirectoryClimbs : Prop := ∀ (s : State) (r : Nat) (q : Request), s.request r = some q → Rising s.pkgs →
  let p := q.pkg
  let gpn := q.gpn
  let k := s.pkg p
  let st := k.stateOf gpn
  let i : Instr := .climb r
  let olds := s.olderReqs r q
  let up : Prop := q.at_ = .climb ∧ olds = []
  let drain : Option Nat := q.xfer.bind fun x => s.drainAt x gpn
  let mine : Prop := q.ownTouch = false ∨ s.parishSees p gpn = none
  let lives : Prop := drain = none → st ≠ .lost ∧ st ≠ .draining
  let go : Prop := up ∧ mine ∧ lives ∧ q.ordered = false
  let follows (h : Nat) : Prop := (q.kind = .load ∨ q.kind = .probe) ∧
    ∀ o ∈ olds, o.kind.isWrite = true ∧ o.at_ = .remote h ∧ o.plane = s.orderedPlane p h (2048 * gpn + q.sector)
  -- no stop of the request's team waits for its results
  let calm : Prop := ∀ e ∈ s.teams, pkgOfTeam e.1 = p → e.2.serial = q.serial → e.2.run ≠ .freezing ∧ ∀ c u, e.2.run ≠ .aborting c u
  let clean (n f : Nat) : Prop := find (s.pkg n).poison (2048 * f + q.sector) = none ∧ find (s.pkg n).symErr (2048 * f + q.sector) = none
  let bytes (n f : Nat) : List Byte := (List.range 32).map fun j => (s.pkg n).byte f (32 * q.sector + j)
  (q.at_ ≠ .climb ∨ (olds ≠ [] ∧ ∀ h, ¬follows h) → exec i s = .next s) ∧
  (∀ h, q.at_ = .climb → olds ≠ [] → follows h → ∃ q', exec i s = .next
    ((((s.heatReq r q).updRequest r fun q => { q with ordered := true }).serveRemote r q' h)) ∧ q' = { q with heated := true, ordered := true }) ∧
  (up → q.ownTouch = true → (s.parishSees p gpn).isSome → exec i s = .next (s.closeReq r)) ∧
  (up → mine → drain = none → st = .lost ∨ st = .draining → exec i s = .next (s.failReq r 5)) ∧
  -- a read that has gone behind writes and climbs again takes any plane
  (up → mine → lives → q.ordered = true → exec i s = exec i (s.updRequest r fun q => { q with ordered := false })) ∧
  -- a request that fails leaves; a team's lanes are reported
  (calm → ∀ reason, ∃ X, s.failReq r reason = X ∧ X.request r = none ∧
    ((q.lanes = [] ∨ q.xfer ≠ none ∨ q.kind = .probe ∨ ∃ w, q.kind = .fetch w) → X.reports = s.reports) ∧
    (q.lanes ≠ [] → q.xfer = none → q.kind ≠ .probe → (∀ w, q.kind ≠ .fetch w) → X.reports = s.reports ++
      [⟨q.tk, q.serial, reason, if reason = 2 then .poison else .pageLost, q.addr, 2048 * gpn + q.sector, q.lanes⟩]) ∧
    ∀ x e, q.xfer = some x → s.xfer x = some e → reason = 3 ∨ reason = 4 → (X.xfer x).map (·.status) = some (max e.status (if reason = 3 then 4 else 3))) ∧
  (∀ f, go → k.frameOf gpn = some f → st = .replica ∨ st = .masterShared ∨ st = .masterExcl → q.kind = .load → q.bring = false → clean p f →
    s.heldBack r q = false → ∃ X, exec i s = .next X ∧
    X.request r = none ∧ (∀ tk t, s.team tk = some t → X.team tk = some (t.fill r (bytes p f))) ∧ ∀ n g o, (X.pkg n).byte g o = (s.pkg n).byte g o) ∧
  (∀ f bs z, go → k.frameOf gpn = some f → st = .masterExcl → s.busy p gpn = false → q.kind = .write bs z → q.taint = false → clean p f →
    (∀ e, s.parishSees p gpn = some e → e.twinpkg = 255) → q.sector < 2048 → bs.length = 32 → ∃ X, exec i s = .next X ∧ X.request r = none ∧
    ∀ n g o, o < 65536 → (X.pkg n).byte g o = if n = p ∧ g = f ∧ o / 32 = q.sector ∧ q.mask.getLsbD (o % 32) = true then bs.getD (o % 32) 0 else (s.pkg n).byte g o) ∧
  -- one that is not served here
  (k.frameOf gpn = none → s.serveAt p r = none) ∧
  (st = .filling ∨ st = .moving → s.serveAt p r = none) ∧
  (go → s.serveAt p r = none →
    (s.outranked r q = true → exec i s = .next s) ∧
    (s.outranked r q = false → st = .filling ∨ st = .moving →
      (k.replay.length + k.touchWait.length < 4096 →
        let n := (s.arrivedAs p r).getD s.fresh
        let before (x : Nat) : Bool := (s.arrivedAs p x).any (· < n)
        ∃ X, exec i s = .next X ∧ X.request r = some { q with at_ := .replay p, order := some (p, n), landed := false, sentAt := s.now, fto := k.fto } ∧
          (X.pkg p).replay = k.replay.filter before ++ [r] ++ k.replay.filter fun x => !before x) ∧
      (4096 ≤ k.replay.length + k.touchWait.length → exec i s = .next (s.updPkg p (·.setAstat 4)))) ∧
    (s.outranked r q = false → st = .masterShared ∨ st = .masterExcl → (∃ b z, q.kind = .write b z) ∨ (∃ o z, q.kind = .atomic o z) →
      exec i s = .next (s.holdWrite p r gpn).1) ∧
    (s.outranked r q = false → st ≠ .filling → st ≠ .moving → ¬(q.kind.isWrite = true ∧ (st = .masterShared ∨ st = .masterExcl)) →
      exec i s = .next ((s.heatReq r q).climbOut r { q with heated := true }))) ∧
  -- what was released from a replay queue goes first, in the order of arrival there
  ((∀ e ∈ s.requests, e.1 ≠ r → e.2.gpn = gpn → e.2.at_ = .climb → e.2.order = none) → s.outranked r q = false) ∧
  (∀ e ∈ s.requests, e.1 ≠ r → e.2.gpn = gpn → e.2.at_ = .climb → s.olderReqs e.1 e.2 = [] → ∀ h n, e.2.order = some (h, n) →
    (q.order = none ∨ ∃ m, q.order = some (h, m) ∧ n < m) → s.outranked r q = true) ∧
  -- the slices: a flit to each that another package serves
  (∀ h, drain = some h → s.climbOut r q = s.serveRemote r q h) ∧
  (drain = none → s.cutOff p gpn = true → s.climbOut r q = s.failReq r 3) ∧
  (drain = none → s.cutOff p gpn = false →
    let H := s.hamletSlice p gpn
    let P := s.parishSlice p gpn
    let s1 := s.crossed p H 1 1
    let s2 := s1.crossed p P 1 1
    let names (m : HamletEnt) : Prop := m.master ≠ 255 ∧ ((s.present p m.master = true ∧ ((s.pkg m.master).stateOf gpn = .masterShared ∨
      (s.pkg m.master).stateOf gpn = .masterExcl)) ∨ (s.pkg m.master).stateOf gpn = .moving)
    (s.joined p H = false → s.climbOut r q = s.unheard r H) ∧
    (s.joined p H = true →
      -- the hamlet slice names a master that holds the page
      (∀ m, s.hamletEnt p gpn = some m → names m → s.climbOut r q = s1.place r q m.master) ∧
      ((∀ m, s.hamletEnt p gpn = some m → ¬names m) →
        (s.joined p P = false → s.climbOut r q = s1.unheard r P) ∧
        (s.joined p P = true →
          (s.parishSees p gpn = none → s.climbOut r q = s2.firstTouch r q) ∧
          ∀ e, s.parishSees p gpn = some e →
            (e.lost = true ∨ e.refs = 0 → s.climbOut r q = (s2.learnLost p gpn e.lost).failReq r 5) ∧
            (e.lost = false → e.refs ≠ 0 →
              let near : List Nat := if q.kind.isWrite then [] else (s.hamletHolders p gpn).filter (s.present p)
              (near = [] → s.climbOut r q = s2.placeMaster r q e.master) ∧
              ∀ n, near = [n] →
                ((s.pkg n).stateOf gpn ≠ .invalid → (s.pkg n).stateOf gpn ≠ .lost → (s.pkg n).stateOf gpn ≠ .draining → s.climbOut r q = s2.bump.place r q n) ∧
                ((s.pkg n).stateOf gpn = .invalid → s.climbOut r q = (s2.bump.noteAbsent n gpn).placeMaster r q e.master)))))) ∧
  -- the master that the parish slice names, and one that is declared lost (log 113)
  (∀ m, (m = 254 ∨ s.present p m = true → s.placeMaster r q m = s.place r q m) ∧
    (m ≠ 254 → s.present p m = false →
      (s.declared m = true → q.counted = true ∨ (s.pkg (s.parishSlice p gpn)).duty.getLsbD 6 = true → s.placeMaster r q m = (s.hold (s.parishSlice p gpn) r).1) ∧
      (s.declared m = false ∨ q.counted = false ∧ (s.pkg (s.parishSlice p gpn)).duty.getLsbD 6 = false → s.placeMaster r q m = s.failReq r 3))) ∧
  -- the first touch at the requester, or, without a way here, where one is found, or it waits
  (s.parishSees p gpn = none → (∀ w ∈ (s.pkg (s.parishSlice p gpn)).touchWait, w.1 ≠ setOf gpn) →
    (s.busy p gpn = true → s.firstTouch r q = (s.hold (s.parishSlice p gpn) r).1) ∧
    (s.busy p gpn = false → s.setTaken p (setOf gpn) (some r) = true → s.firstTouch r q = (s.hold p r).1) ∧
    (s.busy p gpn = false → s.setTaken p (setOf gpn) (some r) = false →
      (∀ f, k.victim (setOf gpn) = .take f ∨ k.victim (setOf gpn) = .replica f → s.firstTouch r q = s.touchFor r q p f) ∧
      (∀ f, k.victim (setOf gpn) = .lodge f → q.forced = false → s.firstTouch r q = s.beginLodge .migrate gpn p p f r) ∧
      (k.victim (setOf gpn) = .none ∨ (∃ f, k.victim (setOf gpn) = .lodge f) ∧ q.forced = true →
        (∀ n f, s.touchPlace p gpn (some r) = some (n, f) → s.firstTouch r q = s.touchFor r q n f) ∧
        (s.touchPlace p gpn (some r) = none → ∀ n, n = s.parishSlice p gpn → (s.pkg n).replay.length + (s.pkg n).touchWait.length < 4096 →
          ∃ X, s.firstTouch r q = X ∧ X.request r = some { q with at_ := .touch n } ∧ (X.pkg n).touchWait = (s.pkg n).touchWait ++ [(setOf gpn, r)] ∧
            (X.pkg n).astat.getLsbD 3 = true)))) ∧
  (∀ n f, (s.noRoute p n = true → s.touchFor r q n f = s.failReq r 3) ∧
    (s.noRoute p n = false → s.joined p n = false → s.touchFor r q n f = s.unheard r n) ∧
    (s.noRoute p n = false → s.joined p n = true → ∀ X, s.presentRoom n gpn = (X, false) → s.touchFor r q n f = (X.hold (X.hamletSlice n gpn) r).1)) ∧
  (∀ f X, s.createPage p f gpn false = (X, true) → (s.pkg (s.parishSlice p gpn)).pagesFor ((s.pkg (s.parishSlice p gpn)).entries + 1) = 0 →
    ((s.pkg p).tag f).state = .invalid →
    ((X.pkg p).tag f).gpn = gpn ∧ ((X.pkg p).tag f).state = .masterExcl ∧ (∀ o, o < 65536 → (X.pkg p).byte f o = 0) ∧
      ∃ e, find (X.pkg (s.parishSlice p gpn)).parish gpn = some e ∧ e.refs = 1 ∧ e.master = p) ∧
  -- placement: the comparison is exact
  (∀ (pol : Word) (w : Bool) (hot depth : Nat) (pass : Bool), compareOk pol w hot depth pass = true ↔
    pol.getLsbD (if w then 24 else 25) = false ∧
      (pass = true ∨ 64 * (pol.extractLsb' (if w then 8 else 0) 8).toNat + (pol.extractLsb' 16 8).toNat * depth ≤ 64 * hot)) ∧
  (∀ h, let hst : FrameState := if h = 254 then .masterExcl else (s.pkg h).stateOf gpn
    let ent := s.parishSees p gpn
    let fetch : Prop := ∃ w, q.kind = .fetch w
    let bar : Prop := q.pin = true ∨ (∃ e, ent = some e ∧ e.pinned = true) ∨ q.forced = true ∨
      (h = 254 ∧ q.kind.isWrite = true ∧ ¬fetch ∧ k.duty.getLsbD 1 = false)
    let hot := s.hotOf q
    let pass : Prop := (s.waitingFor r).isSome ∨ fetch
    let pol := k.policy q.hotpol
    let passes : Prop := if q.kind.isWrite = true then pol.getLsbD 24 = false ∧
        (pass ∨ 64 * (pol.extractLsb' 8 8).toNat + (pol.extractLsb' 16 8).toNat * s.queueDepth p h ≤ 64 * hot.2)
      else pol.getLsbD 25 = false ∧ (pass ∨ 64 * (pol.extractLsb' 0 8).toNat + (pol.extractLsb' 16 8).toNat * s.queueDepth p h ≤ 64 * hot.1)
    let goes : Prop := ¬bar ∧ passes
    let cut : Prop := h ≠ 254 ∧ s.noRoute p h = true
    let near : Prop := h = 254 ∨ s.joined p h = true
    let still : Prop := ¬cut ∧ hst ≠ .filling ∧ hst ≠ .moving
    let upgrade : Prop := q.kind.isWrite = true ∧ st = .replica
    let way : Prop := upgrade ∨ k.victim (setOf gpn) ≠ .none
    let attract : Prop := goes ∧ near ∧ way
    let waits : Prop := (s.busy p gpn = true ∧ (q.kind.isWrite = true ∨ attract)) ∨ attract ∧ s.lodgeAhead r q = true
    (cut → s.place r q h = s.failReq r 3) ∧
    (¬cut → hst = .filling ∨ hst = .moving → (near → s.place r q h = (s.hold h r).1) ∧ (¬near → s.place r q h = s.unheard r h)) ∧
    (still → waits → s.place r q h = (s.hold (s.parishSlice p gpn) r).1) ∧
    (still → ¬waits → ¬upgrade → goes → s.setTaken p (setOf gpn) (some r) = true → s.place r q h = (s.hold p r).1) ∧
    (still → ¬waits → ¬attract → ¬(goes ∧ ¬upgrade ∧ s.setTaken p (setOf gpn) (some r) = true) → s.place r q h = (s.dropWaiting r).serveRemote r q h) ∧
    -- a write takes over the page that stands here as a replica
    (still → ¬waits → attract → upgrade → ∀ X, (s.moveNow gpn h p = (X, true) → s.place r q h = ((X.updPkg p (·.count 1)).serveAt p r).getD X) ∧
      (s.moveNow gpn h p = (X, false) → s.place r q h = X.serveRemote r q h)) ∧
    (still → ¬waits → attract → ¬upgrade → s.setTaken p (setOf gpn) (some r) = false →
      (∀ X, s.presentRoom p gpn = (X, false) → s.place r q h = (X.hold (s.hamletSlice p gpn) r).1) ∧
      ∀ s1, s.presentRoom p gpn = (s1, true) →
        let kind : ChangeKind := if q.kind.isWrite || h == 254 then .migrate else .replicate
        (∀ f, k.victim (setOf gpn) = .lodge f → s.place r q h = s1.beginLodge kind gpn h p f r) ∧
        ∀ f, k.victim (setOf gpn) = .take f ∨ k.victim (setOf gpn) = .replica f ∧ (k.tag f).gpn ≠ gpn → ∃ X, s.place r q h = X ∧
          ((X.pkg p).tag f).gpn = gpn ∧ (p ≠ h → ((X.pkg p).tag f).state = .filling) ∧ ∃ ch c, X.change ch = some c ∧ c.gpn = gpn ∧ c.src = h ∧ c.dst = p ∧
            c.frame = f ∧ c.req = some r ∧ (p ≠ h → h ≠ 254 → c.was = hst) ∧ c.kind = kind ∧ c.stage = if h = 254 then .arrived else .copying)) ∧
  -- the host spill region is read in host memory
  (q.kind = .load → ∃ s1 : State, s1.hostMem = s.hostMem ∧
    (s.spillAt gpn = none → s.serveRemote r q 254 = s1.failReq r 5) ∧
    ∀ x, s.spillAt gpn = some x →
      ((find (s.pkg x.1).spillBad (2048 * x.2 + q.sector)).isSome → s.serveRemote r q 254 = s1.failReq r 2) ∧
      (find (s.pkg x.1).spillBad (2048 * x.2 + q.sector) = none →
        s.serveRemote r q 254 = s1.finishRead r (s.hostBytes ((s.pkg x.1).bootReg 0x20 |>.toNat |> (· + 65536 * x.2 + 32 * q.sector)) 32) (BitVec.allOnes 32))) ∧
  (∀ h, h ≠ 254 → s.noRoute p h = true → s.serveRemote r q h = s.failReq r 3) ∧
  (∀ h, h ≠ 254 → s.noRoute p h = false → q.kind = .load →
    let word : Bool := oneWord q.mask && q.xfer.isNone
    let gone : Request := { q with at_ := .remote h, sentAt := s.now, fto := k.fto, order := none, counted := true }
    -- a read behind writes of its sector goes on their plane; a word read is marked, and gathered while PACKWIN is set
    (q.ordered = true → let pl := s.orderedPlane p h (2048 * gpn + q.sector)
      (s.serveRemote r q h).packet s.fresh = some ⟨p, h, pl, .readReq r⟩ ∧ (s.serveRemote r q h).request r = some { gone with plane := pl }) ∧
    (q.ordered = false → word = false → (∃ pl, (s.serveRemote r q h).packet s.fresh = some ⟨p, h, pl, .readReq r⟩) ∧
      (s.serveRemote r q h).request r = some gone) ∧
    (q.ordered = false → word = true → k.packwin = 0 → (∃ pl, (s.serveRemote r q h).packet s.fresh = some ⟨p, h, pl, .readReq r⟩) ∧
      (s.serveRemote r q h).request r = some { gone with wordRead := true, packwin := 0 }) ∧
    (q.ordered = false → word = true → k.packwin ≠ 0 → (getD [] k.gather h).length < 15 → getD [] ((s.serveRemote r q h).pkg p).gather h = getD [] k.gather h ++ [r] ∧
      (s.serveRemote r q h).packets = s.packets ∧ (s.serveRemote r q h).request r = some { gone with wordRead := true, packwin := k.packwin })) ∧
  -- writes and atomics go on the hash plane of their sector
  (∀ h, h ≠ 254 → s.noRoute p h = false →
    let pl := s.orderedPlane p h (2048 * gpn + q.sector)
    let gone : Request := { q with at_ := .remote h, sentAt := s.now, fto := k.fto, order := none, counted := true, plane := pl }
    (∀ b z, q.kind = .write b z → (s.serveRemote r q h).packet s.fresh = some ⟨p, h, pl, .write r⟩ ∧ (s.serveRemote r q h).request r = some gone) ∧
    (∀ o z, q.kind = .atomic o z → (s.serveRemote r q h).packet s.fresh = some ⟨p, h, pl, .atomReq r⟩ ∧ (s.serveRemote r q h).request r = some gone)) ∧
  -- probes
  (q.kind ≠ .probe → exec (.probeBackgroundReturn r) s = .next s) ∧
  (q.kind = .probe → (∀ e ∈ s.packets, ∀ b x, e.2.kind ≠ .readReply r b x) → q.at_ ≠ .climb → exec (.probeBackgroundReturn r) s = .next s) ∧
  (∀ f, q.kind = .probe → (∀ e ∈ s.packets, ∀ b x, e.2.kind ≠ .readReply r b x) → q.at_ = .climb → k.frameOf gpn = some f →
    st = .replica ∨ st = .masterShared ∨ st = .masterExcl → clean p f → s.heldBack r q = false → ∃ X, exec (.probeBackgroundReturn r) s = .next X ∧ X.request r = none) ∧
  -- first touches that wait at a slice package
  ∀ n set, ((∀ w ∈ (s.pkg n).touchWait, w.1 ≠ set) → exec (.firstTouchRerun n set) s = .next s) ∧
    ∀ w, ((s.pkg n).touchWait.filter fun x => x.1 == set) = [w] → w.2 = r →
      let drop := s.updPkg n fun k => { k with touchWait := k.touchWait.filter fun x => x.2 != r }
      ((s.parishSees p gpn).isSome → exec (.firstTouchRerun n set) s = .next (drop.updRequest r fun q => { q with at_ := .climb })) ∧
      (s.parishSees p gpn = none → s.touchPlace p gpn (some r) = none → exec (.firstTouchRerun n set) s = .next s)

/-- LODGE_GRANT, LODGE_OFFER and LODGE_REFUSED_ALL take a lodging from grant through its neighbours to an acceptance, the host's answer or a failure;
with the refusal codes of Table 10-10; FILL_COMPLETE and MOVE_COMPLETE give the destination its frame and the directory its master; an
invalidation drops a replica; the rebuild, the checkpoint engine and the patrol act at their times; a page that has been freed or is LOST is
neither lodged nor filled (R222, R252, R253, R255, R259 to R267, R271 to R273, R326, R365, R372). That the engine writes frame f at
CKPTBASE + 65536 f of host memory is the model's choice (log 101). -/
def Obligations.DirectoryMoves : Prop := ∀ (s : State), Rising s.pkgs →
  (∀ ch c, s.change ch = some c →
    let p := c.src
    let k := s.pkg p
    let ls := k.lodgers
    -- a lodging is granted
    (let slice := s.parishSlice p c.gpn
     let free : Prop := c.kind = .lodge ∧ c.stage = .waiting ∧ s.busy p c.gpn = false ∧ (∀ e ∈ s.changes, e.1 < ch → e.2.gpn = c.gpn → e.2.kind ≠ .lodge) ∧
       ∀ e ∈ s.requests, e.2.gpn = c.gpn → ∀ n, s.arrivedAs slice e.1 = some n → n < ch →
         ¬(e.2.at_ = .replay slice ∨ e.2.at_ = .climb ∧ s.olderReqs e.1 e.2 = [])
     let still : Prop := (k.tag c.frame).gpn = c.gpn ∧ k.lodgeable c.frame = true
     (¬free → exec (.lodgeGrant ch) s = .next s) ∧
     (free → still → exec (.lodgeGrant ch) s = .next ((s.updParish p c.gpn fun e => { e with busy := true }).setChange ch { c with stage := .offering 0 })) ∧
     (free → ¬still → exec (.lodgeGrant ch) s = .next (s.endLodge ch c false))) ∧
    -- a neighbour answers
    ((∀ n, c.stage ≠ .offering n) → exec (.lodgeOffer ch) s = .next s) ∧
    (∀ n, c.stage = .offering n → s.moot p c.gpn = true → exec (.lodgeOffer ch) s = .next (s.endLodge ch c false)) ∧
    (∀ n, c.stage = .offering n → s.moot p c.gpn = false →
      (ls[n]? = none → exec (.lodgeOffer ch) s = .next (s.setChange ch { c with stage := .refused })) ∧
      (∀ m e, ls[n]? = some m → s.lodgeAnswer p m c.gpn = .error e → exec (.lodgeOffer ch) s = .next (((if e = 3 then s else s.crossed p m 1 1).updPkg p (·.count 6)).setChange ch
        { c with stage := if n + 1 < ls.length then .offering (n + 1) else .refused, refusals := c.refusals + 1, last := e })) ∧
      (∀ m g, ls[n]? = some m → s.lodgeAnswer p m c.gpn = .ok g → ((s.pkg m).tag g).gpn = c.gpn → ((s.pkg m).tag g).state = .replica →
        exec (.lodgeOffer ch) s = .next (((s.crossed p m 1 1).lodgeIn p m c.gpn g).endLodge ch c false)) ∧
      (∀ m g, ls[n]? = some m → s.lodgeAnswer p m c.gpn = .ok g → ((s.pkg m).tag g).state ≠ .replica → m ≠ p → ∃ X, exec (.lodgeOffer ch) s = .next X ∧
        ((X.pkg m).tag g).gpn = c.gpn ∧ ((X.pkg m).tag g).state = .filling ∧ X.change ch = some { c with stage := .copying, dst := m, frame := g, was := k.stateOf c.gpn } ∧
        ∀ f, k.frameOf c.gpn = some f → ((X.pkg p).tag f).state = .moving)) ∧
    -- the reasons of a refusal
    (∀ m, let x := s.pkg m
      let set := setOf c.gpn
      let near : Prop := m ≠ p ∧ s.present p m = true ∧ s.noRoute p m = false ∧ s.joined p m = true
      let used := (x.frames.filter fun y => y.1 / 2 % 12 == set % 12 && y.2.state != .invalid).length
      (¬near → s.lodgeAnswer p m c.gpn = .error 3) ∧
      (near → x.lodgectl.getLsbD 32 = false → s.lodgeAnswer p m c.gpn = .error 4) ∧
      (near → x.lodgectl.getLsbD 32 = true →
        (∀ f, x.frameOf c.gpn = some f → (x.tag f).state ≠ .replica → s.lodgeAnswer p m c.gpn = .error 1) ∧
        (∀ f, x.frameOf c.gpn = some f → (x.tag f).state = .replica → s.lodgeAnswer p m c.gpn = .ok f) ∧
        (x.frameOf c.gpn = none → s.setTaken m set none = true ∨ x.victim set = .none ∨ (∃ f, x.victim set = .lodge f) → s.lodgeAnswer p m c.gpn = .error 1) ∧
        ∀ f, x.frameOf c.gpn = none → s.setTaken m set none = false → x.victim set = .take f ∨ x.victim set = .replica f →
          (1048576 - used < (x.lodgectl.extractLsb' 0 20).toNat → s.lodgeAnswer p m c.gpn = .error 2) ∧
          ((x.lodgectl.extractLsb' 0 20).toNat ≤ 1048576 - used → s.lodgeAnswer p m c.gpn = .ok f))) ∧
    -- every neighbour has refused: lodging fails, or the host is asked, also later where its ring is full
    (let due : Prop := c.stage = .refused ∨ c.stage = .asked (2 ^ 32)
     let asks : Prop := (c.stage = .refused ∧ k.duty.getLsbD 1 = true) ∨ c.stage = .asked (2 ^ 32)
     let s1 := s.updPkg p fun k => { k with refusal := setD 0 k.refusal (setOf c.gpn) c.last }
     (¬due → exec (.lodgeRefusedAll ch) s = .next s) ∧
     (due → s.moot p c.gpn = true → exec (.lodgeRefusedAll ch) s = .next (s.endLodge ch c false)) ∧
     (s.moot p c.gpn = false →
      (c.stage = .refused → k.duty.getLsbD 1 = false → exec (.lodgeRefusedAll ch) s = .next ((s1.updPkg p fun k => (k.setAstat 0).count 7).endLodge ch c true)) ∧
      (asks → k.hreqTail - k.hreqHead = 4096 → exec (.lodgeRefusedAll ch) s = .next (s1.setChange ch { c with stage := .asked (2 ^ 32) })) ∧
      (asks → k.hreqTail - k.hreqHead ≠ 4096 → ∃ X, exec (.lodgeRefusedAll ch) s = .next X ∧
        X.change ch = some { c with stage := .asked k.hreqTail.toNat } ∧ (find (X.pkg p).hreqs k.hreqTail.toNat).map (·.kind) = some 3))) ∧
    -- fills and moves complete
    (let d := s.pkg c.dst
     let moot : Prop := ∃ e, s.parishEnt c.dst c.gpn = some e ∧ (e.lost = true ∨ e.refs = 0)
     let gone : State := { s with changes := erase s.changes ch }
     (¬(c.kind = .replicate ∧ c.stage = .arrived) → exec (.fillComplete ch) s = .next s) ∧
     (c.kind = .replicate → c.stage = .arrived → moot → exec (.fillComplete ch) s = .next (s.endMoot ch c)) ∧
     (c.kind = .replicate → c.stage = .arrived → ¬moot → (k.stateOf c.gpn).serves = false → s.masterFrames c.dst c.gpn = [] → ∃ X,
        exec (.fillComplete ch) s = .next X ∧ ∀ f, d.frameOf c.gpn = some f → (d.tag f).state = .filling → (X.pkg c.dst).tag f = {}) ∧
     (∀ f, c.kind = .replicate → c.stage = .arrived → ¬moot → p ≠ c.dst → k.frameOf c.gpn = some f → (k.stateOf c.gpn).serves = true → Memory.wf k.hbm →
       (∀ g, find k.symErr g = none ∧ find k.poison g = none) → ∃ Y,
       exec (.fillComplete ch) s = .next (((Y.unbusy c.dst c.gpn).serveNew c).releaseSet c.dst (setOf c.gpn)) ∧
       Y = gone.setPkg c.dst (Y.pkg c.dst) ∧ (Y.pkg c.dst).tag c.frame = { gpn := c.gpn, state := .replica } ∧
       (∀ o, o < 65536 → (Y.pkg c.dst).byte c.frame o = k.byte f o) ∧
       ∀ g, g ≠ c.frame → (Y.pkg c.dst).tag g = d.tag g ∧ ∀ o, o < 65536 → (Y.pkg c.dst).byte g o = d.byte g o) ∧
     (c.kind = .replicate ∨ c.stage ≠ .arrived → exec (.moveComplete ch) s = .next s) ∧
     (c.kind ≠ .replicate → c.stage = .arrived → moot → exec (.moveComplete ch) s = .next (s.endMoot ch c)) ∧
     (∀ f, c.kind ≠ .replicate → c.stage = .arrived → ¬moot → p ≠ 254 → p ≠ c.dst → k.frameOf c.gpn = some f → Memory.wf k.hbm →
       (∀ g, find k.symErr g = none ∧ find k.poison g = none) → (∀ e, s.parishSees c.dst c.gpn = some e → e.twin = false ∧ e.twinpkg ≠ p) →
       (d.tag c.frame).state ≠ .replica → ∃ Y, Y = s.arrive c.gpn p c.dst c.frame ∧
       exec (.moveComplete ch) s = .next (if c.kind = .lodge then (Y.updPkg p (·.count 4)).endLodge ch c false
         else (((({ Y with changes := erase Y.changes ch } : State).updPkg c.dst (·.count 1)).unbusy c.dst c.gpn).serveNew c).releaseSet c.dst (setOf c.gpn)) ∧
       ((Y.pkg c.dst).tag c.frame).gpn = c.gpn ∧ ((Y.pkg c.dst).tag c.frame).state = .masterExcl ∧ (Y.pkg p).tag f = {} ∧
       (∀ o, o < 65536 → (Y.pkg c.dst).byte c.frame o = k.byte f o) ∧ (∀ e, s.parishEnt c.dst c.gpn = some e → ∃ e', find (Y.pkg (s.parishSlice c.dst c.gpn)).parish c.gpn = some e' ∧
         e'.master = c.dst ∧ e'.refs = e.refs)))) ∧
  (∀ ch, s.change ch = none → ∀ i ∈ [Instr.lodgeGrant ch, .lodgeOffer ch, .lodgeRefusedAll ch, .fillComplete ch, .moveComplete ch], exec i s = .next s) ∧
  -- an invalidation arrives
  (∀ k x gpn, s.packet k = some x → x.kind = .inval gpn →
    (s.arrives k x = false → exec (.directoryInvalidation k) s = .next s) ∧
    (∀ f, s.arrives k x = true → x.src ≠ x.dst → (s.pkg x.dst).frameOf gpn = some f → ((s.pkg x.dst).tag f).state = .replica →
      ((s.pkg x.src).stateOf gpn).isMaster = false → ∃ X, exec (.directoryInvalidation k) s = .next X ∧ X.packet k = none ∧ (X.pkg x.dst).tag f = {} ∧
        ∀ l, ∀ e ∈ (X.cache l).sectors, lvlPkg l = x.dst → l ∈ corePath (48 * x.dst) → e.1 / 2048 ≠ gpn)) ∧
  -- slices rebuilt, checkpoints, gleaning
  ∀ p, let k := s.pkg p
    (¬((k.hamletOvf = true ∨ k.parishOvf = true) ∧ k.pagesFor k.entries < k.dirQuota) → exec (.dirRebuild p) s = .next s) ∧
    ((k.hamletOvf = true ∨ k.parishOvf = true) → k.pagesFor k.entries < k.dirQuota → ∃ X, exec (.dirRebuild p) s = .next X ∧
      (X.pkg p).hamletOvf = false ∧ (X.pkg p).parishOvf = false) ∧
    (let ms := (k.scrub.extractLsb' 0 32).toNat
     let us := (k.scrub.extractLsb' 32 16).toNat
     (ms = 0 ∨ s.clock p % (ms * 3600000) ≠ 0 → exec (.ckptTimer p) s = .next s) ∧
     (ms ≠ 0 → s.clock p % (ms * 3600000) = 0 → ∀ f t, (k.frames.filter fun x => x.2.state.isMaster && s.marksCkpt p x.2.gpn) = [(f, t)] → k.tag f = t →
        (∀ g, find k.symErr g = none ∧ find k.poison g = none) →
        (∀ n g, s.twinAt p t.gpn = some n → n ≠ p → (s.pkg n).frameOf t.gpn = some g → s.declared n = false → s.noRoute p n = false → s.joined p n = true →
          Memory.wf k.hbm → ∃ X, exec (.ckptTimer p) s = .next X ∧ X.hostMem = s.hostMem ∧ ∀ o, o < 65536 → (X.pkg n).byte g o = k.byte f o) ∧
        (s.twinAt p t.gpn = none → 65536 * (f + 1) ≤ (k.bootReg 0x38).toNat → ∃ X, exec (.ckptTimer p) s = .next X ∧ ∀ a, X.hostByte a = if (k.bootReg 0x30).toNat + 65536 * f ≤ a ∧ a < (k.bootReg 0x30).toNat + 65536 * f + 65536 then
          k.byte f (a - ((k.bootReg 0x30).toNat + 65536 * f)) else s.hostByte a)) ∧
     (us = 0 ∨ s.clock p % (us * 3600) ≠ 0 → exec (.gleanTimer p) s = .next s) ∧
     (us ≠ 0 → s.clock p % (us * 3600) = 0 → k.duty.getLsbD 4 = false → ∃ X, exec (.gleanTimer p) s = .next X ∧
       ∀ st f, st < 12 → s.nextGlean p st = some f → find (X.pkg p).gleanAt st = some (2 * (f / 2 / 12) + f % 2 + 1)) ∧
     (us ≠ 0 → s.clock p % (us * 3600) = 0 → k.duty.getLsbD 4 = true → ∃ X, exec (.gleanTimer p) s = .next X ∧ (X.pkg p).frames = k.frames ∧
        (k.hreqTail - k.hreqHead = 4096 → ∀ st < 12, st ∈ (X.pkg p).gleanDue)))

/-! ## The fabric (R342 to R355) -/

/-- A packet arrives in the order of its plane. A request is served and answered, held while its page changes state or an earlier write of its
sector has yet to come, or sent back to climb; a full replay queue stops it and is noted. A reply ends its request: the bytes land, 8 of
them for a word read, the write is acknowledged, the old values come back, or it fails. Word reads travel in groups, page data advance
their move, and what stays unanswered times out (R129, R222, R232, R254, R255, R259, R265, R271, R289, R344 to R350, R355). -/
def Obligations.FabricPackets : Prop := ∀ (s : State), Rising s.pkgs →
  (∀ k x, s.packet k = some x →
    let s' : State := { s with packets := erase s.packets k }.updPkg x.dst fun y => { y with flitsRx := y.flitsRx + BitVec.ofNat 64 x.flits }
    let on (r : Nat) (i : Instr) : Prop := (x.kind = .readReq r ∧ i = .sectorReadRequest k) ∨ (x.kind = .write r ∧ i = .postedWrite k) ∨ (x.kind = .atomReq r ∧ i = .atomicRequest k)
    (s.arrives k x = false → ∀ i ∈ [Instr.sectorReadRequest k, .sectorReadReply k, .postedWrite k, .writeAck k, .atomicRequest k, .atomicReply k,
      .packedReadRequest k, .packedReadReply k, .pageMoveData k], exec i s = .next s) ∧
    (s.arrives k x = true → x.src ≠ x.dst →
      -- requests
      (∀ r i q, on r i → s.request r = some q → q.pkg = x.src →
        let d := s.pkg x.dst
        let st := d.stateOf q.gpn
        let bytes (f : Nat) : List Byte := (List.range 32).map fun j => d.byte f (32 * q.sector + j)
        let clean (f : Nat) : Prop := find d.poison (2048 * f + q.sector) = none ∧ find d.symErr (2048 * f + q.sector) = none
        let alone : Prop := ∀ e, s.parishSees x.dst q.gpn = some e → e.twinpkg = 255
        let held : Bool := s'.heldBack r q
        -- a read that stood behind this request is served with it
        let after (X : State) : Prop := exec i s = .next (X.serveHeld x.dst q.gpn)
        (st = .invalid → held = false → after (s'.updRequest r fun q => { q with at_ := .climb })) ∧
        (st = .filling ∨ st = .moving ∨ (st = .invalid ∧ held = true) → d.replay.length + d.touchWait.length < 4096 → ∃ X n, exec i s = .next X ∧ X.packet k = none ∧
          X.request r = some { q with at_ := .replay x.dst, order := some (x.dst, n), landed := true } ∧ r ∈ (X.pkg x.dst).replay) ∧
        (st = .filling ∨ st = .moving → 4096 ≤ d.replay.length + d.touchWait.length → exec i s = .next (s.updPkg x.dst (·.setAstat 4))) ∧
        (∀ f, x.kind = .readReq r → q.kind = .load → d.frameOf q.gpn = some f → st = .replica ∨ st = .masterShared ∨ st = .masterExcl → clean f → held = false →
          after (s'.send x.dst x.src none (.readReply r (bytes f) 0))) ∧
        (∀ f b z, x.kind = .write r → q.kind = .write b z → q.taint = false → d.frameOf q.gpn = some f → st = .masterExcl → s.busy x.dst q.gpn = false → clean f → alone →
          b.length = 32 → q.sector < 2048 → ∃ Y : State, after (Y.send x.dst x.src none (.ack r 0)) ∧ Y = { s'.setPkg x.dst (Y.pkg x.dst) with teams := Y.teams } ∧ (q.win = none → Y.teams = s.teams) ∧
          ∀ g o, o < 65536 → (Y.pkg x.dst).byte g o = if g = f ∧ o / 32 = q.sector ∧ q.mask.getLsbD (o % 32) = true then b.getD (o % 32) 0 else d.byte g o) ∧
        (∀ f ops z, x.kind = .atomReq r → q.kind = .atomic ops z → d.frameOf q.gpn = some f → st = .masterExcl → s.busy x.dst q.gpn = false → clean f → alone →
          ∃ Y : State, after (Y.send x.dst x.src none (.atomReply r (applyOps (bytes f) ops).2.2 0)))) ∧
      -- replies
      (∀ r b, x.kind = .readReply r b 0 → exec (.sectorReadReply k) s = .next (s'.finishRead r b (s'.fillMask r))) ∧
      (∀ r q, s.request r = some q → (q.wordRead = false → s'.fillMask r = BitVec.allOnes 32) ∧
        (q.wordRead = true → oneWord q.mask = true → ∀ j < 32, (s'.fillMask r).getLsbD j = true ↔ ∃ w < 4, (q.mask &&& ~~~BitVec.ofNat 32 (255 * 2 ^ (8 * w)) = 0 ∧
          ∀ v < w, q.mask &&& ~~~BitVec.ofNat 32 (255 * 2 ^ (8 * v)) ≠ 0) ∧ j / 8 = w)) ∧
      (∀ r b e, x.kind = .readReply r b e → e ≠ 0 → exec (.sectorReadReply k) s = .next (s'.failReq r e)) ∧
      (∀ r e, x.kind = .ack r e → exec (.writeAck k) s = .next (if e = 0 then s'.closeReq r else s'.failReq r e)) ∧
      (∀ r v e, x.kind = .atomReply r v e → exec (.atomicReply k) s = .next (if e = 0 then s'.finishAtomic r v else s'.failReq r e)) ∧
      (∀ r q f, x.kind = .packReq [r] → s.request r = some q → (s.pkg x.dst).frameOf q.gpn = some f → ((s.pkg x.dst).tag f).state.serves = true →
        find (s.pkg x.dst).poison (2048 * f + q.sector) = none → find (s.pkg x.dst).symErr (2048 * f + q.sector) = none → s'.heldBack r q = false →
        exec (.packedReadRequest k) s = .next (s'.send x.dst x.src none (.packReply [(r, (List.range 32).map fun j => (s.pkg x.dst).byte f (32 * q.sector + j), 0)]))) ∧
      (∀ r q, x.kind = .packReq [r] → s.request r = some q → (s.pkg x.dst).frameOf q.gpn = none → exec (.packedReadRequest k) s = .next (s'.updRequest r fun q => { q with at_ := .climb })) ∧
      (∀ r b, x.kind = .packReply [(r, b, 0)] → exec (.packedReadReply k) s = .next (s'.finishRead r b (s'.fillMask r))) ∧
      (∀ ch c, x.kind = .pageData ch → s.change ch = some c → exec (.pageMoveData k) s = .next (s'.setChange ch { c with stage := .arrived })))) ∧
  -- how a request ends
  (∀ r q, s.request r = some q → (∀ x, s.waitingFor r = some x → False) →
    (∃ X, s.closeReq r = X ∧ X.request r = none ∧ (X.pkg q.pkg).posted = (s.pkg q.pkg).posted.filter (fun x => x.2 != r) ∧ X.teams = s.teams) ∧
    (∀ b m, (s.finishRead r b m).request r = none ∧ (q.bring = false → ∀ tk t, s.team tk = some t → (s.finishRead r b m).team tk = some (t.fill r b))) ∧
    ∀ v, (s.finishAtomic r v).request r = none ∧ ∀ tk t, s.team tk = some t → (s.finishAtomic r v).team tk = some (t.fill r (v.flatMap (bytesOf 8)))) ∧
  -- groups and timeouts
  (∀ p dst, let rs := getD [] (s.pkg p).gather dst
    let due : Prop := ∃ r ∈ rs, ∃ q, s.request r = some q ∧ q.sentAt + q.packwin ≤ s.now
    (¬due → exec (.packwinExpiry p dst) s = .next s) ∧
    (due → ∃ X, exec (.packwinExpiry p dst) s = .next X ∧ (∃ pl, X.packet s.fresh = some ⟨p, dst, pl, .packReq rs⟩) ∧ find (X.pkg p).gather dst = none ∧
      (∀ r ∈ rs, ∀ q, s.request r = some q → (X.request r).map (·.sentAt) = some s.now) ∧ (X.pkg p).packedRd = (s.pkg p).packedRd + BitVec.ofNat 64 rs.length)) ∧
  -- a request at another package, sent there or held in its replay queue
  ∀ r, (s.request r = none → exec (.fabricTimeout r) s = .next s) ∧
    ∀ q, s.request r = some q →
      let away : Prop := (∃ h, q.at_ = .remote h) ∨ ∃ h, h ≠ q.pkg ∧ q.at_ = .replay h
      (¬away → exec (.fabricTimeout r) s = .next s) ∧
      (away → exec (.fabricTimeout r) s = .next (if q.sentAt + max 1 q.fto * 3600 ≤ s.now then s.failReq r 4 else s))

/-- Heartbeats go out each HBUS from a package with a port up, the first with its first port; a loss notice, due at a package with a port up when
another has fallen silent by its heartbeats' period or is declared, enters LOSTMAP, raises vector 4, notes the loss and lets the survivor
settle its pages: at a twin, at a replica, or LOST, or by a request to the host that waits while the ring is full; a package that is READY
again rejoins, its slices with what they did not record; ports go up and down, with their packets sent again
(R263, R264, R266 to R269, R316, R342, R343, R346, R350 to R352, R364 to R366).
The model's choices, not the spec's: the slices return when no survivor counts the package lost (log 45), and the survivor's response runs again
while DUTY.LOSS is set or a request to the host is due (log 56). -/
def Obligations.FabricLossAndPorts : Prop := ∀ (s : State), Rising s.pkgs →
  let beat (X : State) (p : Nat) : State := X.setPkg p { X.pkg p with
    heartbeatAt := some X.now, beatUs := (X.pkg p).hbus, beatMiss := X.pkgs.map fun e => (e.1, e.2.hbmiss),
    flitsTx := (X.pkg p).flitsTx + BitVec.ofNat 64 ((List.range 18).countP fun j => (X.pkg p).linkUp.getLsbD j) }
  (∀ p, let k := s.pkg p
    let beats : Prop := k.linkUp ≠ 0 ∧ ∀ t, k.heartbeatAt = some t → t + max 1 k.hbus * 3600 ≤ s.now
    (¬beats → exec (.heartbeatSend p) s = .next s) ∧ (beats → exec (.heartbeatSend p) s = .next (beat s p))) ∧
  (∀ p x, let k := s.pkg p
    let m := s.pkg x
    let silent : Prop := m.linkUp = 0 ∨ ∀ t, m.heartbeatAt = some t → t + max 1 (getD k.hbmiss m.beatMiss p) * (max 1 (max m.beatUs m.hbus) * 3600) < s.now
    let heard : Prop := p ≠ x ∧ k.linkUp ≠ 0 ∧ x < k.podsize ∧ (s.declared x = true ∨ silent) ∧ s.declared p = false
    (¬heard → exec (.lossNotice p x) s = .next s) ∧
    (heard → k.lostmap.getLsbD x = true → exec (.lossNotice p x) s = .next (if k.duty.getLsbD 6 = true ∨ k.lossDue ≠ [] then s.lossResponse p x else s)) ∧
    (heard → k.lostmap.getLsbD x = false → x < 144 → ∃ Y m, exec (.lossNotice p x) s = .next ((Y.settleRequests p x).lossResponse p x) ∧
      (∀ j < 144, m.getLsbD j = (k.lostmap.getLsbD j || decide (j = x))) ∧
      let s1 := s.setPkg p ((({ k with lostmap := m } : Pkg).raiseVec 4).setAstat 5)
      Y = if s.declared x then s1 else s1.declareLost p x)) ∧
  -- how a survivor settles a page of the lost package
  (∀ p x gpn e, let k := s.pkg p
    s.parishEnt p gpn = some e →
    (e.master ≠ x → e.twinpkg ≠ x → s.settlePage p x gpn e = s) ∧
    (e.master ≠ x → e.twinpkg = x → ∃ Y : State, s.settlePage p x gpn e = Y.releasePage gpn ∧
      find (Y.pkg (s.parishSlice p gpn)).parish gpn = some { e with twinpkg := 255 } ∧
      ∀ f, (s.pkg e.master).frameOf gpn = some f → ((Y.pkg e.master).tag f).twin = false) ∧
    (e.master = x → (e.lost = true ∨ e.refs = 0 ∨ s.lossAsked p gpn = true) → s.settlePage p x gpn e = s) ∧
    -- the host is asked, or will be once its ring has room
    (e.master = x → e.lost = false → e.refs ≠ 0 → s.lossAsked p gpn = false → k.duty.getLsbD 6 = true ∨ gpn ∈ k.lossDue →
      (k.hreqTail - k.hreqHead = 4096 → ∃ X, s.settlePage p x gpn e = X ∧ gpn ∈ (X.pkg p).lossDue ∧ (X.pkg p).hreqs = k.hreqs) ∧
      (k.hreqTail - k.hreqHead ≠ 4096 → ∃ X h, s.settlePage p x gpn e = X ∧ gpn ∉ (X.pkg p).lossDue ∧ find (X.pkg p).hreqs k.hreqTail.toNat = some h ∧
        h.kind = 6 ∧ h.a = BitVec.ofNat 64 x ∧ h.b = BitVec.ofNat 64 gpn)) ∧
    (e.master = x → e.lost = false → e.refs ≠ 0 → s.lossAsked p gpn = false → k.duty.getLsbD 6 = false → gpn ∉ k.lossDue →
      (∀ q, (if e.twinpkg ≠ 255 ∧ e.twinpkg ≠ x then some e.twinpkg else (s.copies gpn x).head?) = some q → s.settlePage p x gpn e = s.promoteAt p gpn q) ∧
      ((if e.twinpkg ≠ 255 ∧ e.twinpkg ≠ x then some e.twinpkg else (s.copies gpn x).head?) = none → 
        s.settlePage p x gpn e = (s.setParish p gpn { e with lost := true, twinpkg := 255 }).releasePage gpn)) ∧
    (∀ q f, (s.pkg q).frameOf gpn = some f → ∃ Y : State, s.promoteAt p gpn q = Y.releasePage gpn ∧
      (∃ y, find (Y.pkg (s.parishSlice p gpn)).parish gpn = some y ∧ (s.parishSlice q gpn = s.parishSlice p gpn → y.master = q) ∧ y.twinpkg = 255 ∧ y.refs = e.refs) ∧
      ((Y.pkg q).tag f).gpn = gpn ∧ ((Y.pkg q).tag f).twin = false ∧ (((Y.pkg q).tag f).state = .masterExcl ↔ s.copies gpn q = []) ∧
      (((Y.pkg q).tag f).state = .masterShared ↔ s.copies gpn q ≠ []))) ∧
  (∀ p x, let k := s.pkg p
    let back : Prop := p ≠ x ∧ k.lostmap.getLsbD x = true ∧ (s.pkg x).stage = 6 ∧ (s.pkg x).linkUp ≠ 0 ∧ (s.pkg x).heartbeatAt ≠ none
    (¬back → exec (.packageRejoin p x) s = .next s) ∧
    (back → x < 144 → ∃ m, (∀ j < 144, m.getLsbD j = (k.lostmap.getLsbD j && !decide (j = x))) ∧
      let s1 := s.setPkg p (({ k with lostmap := m } : Pkg).raiseVec 4)
      exec (.packageRejoin p x) s = .next (if s1.declared x then s1 else (s1.carryOverflow p x true).rehome p))) ∧
  ∀ p port, let k := s.pkg p
    let set (b : BitVec 18) (v : Bool) (c : BitVec 18) : Prop := ∀ j < 18, c.getLsbD j = if j = port then v else b.getLsbD j
    (port < 18 → k.linkUp.getLsbD port = true → ∃ u d, set k.linkUp false u ∧ set k.downEv true d ∧
      exec (.portDown p port) s = .next ((s.setPkg p { k with linkUp := u, downEv := d }).resend p)) ∧
    (18 ≤ port ∨ k.linkUp.getLsbD port = false → exec (.portDown p port) s = .next s) ∧
    ∀ num cabled,
      let trains : Prop := port < 18 ∧ 5 ≤ k.stage ∧ k.stage ≤ 6 ∧ k.linkUp.getLsbD port = false ∧ ¬(s.declared p = true ∧ k.stage = 6)
      (¬trains → exec (.portUp p port num cabled) s = .next s) ∧
      (trains → cabled = false → ∃ d, set k.downEv true d ∧ exec (.portUp p port num cabled) s = .next (s.setPkg p { k with downEv := d })) ∧
      (trains → cabled = true → num ≠ p → exec (.portUp p port num cabled) s = .next (s.setPkg p (if k.idMismatch then k else ({ k with idMismatch := true } : Pkg).raiseVec 4))) ∧
      (trains → cabled = true → num = p → ∃ u, set k.linkUp true u ∧ let s1 := s.setPkg p { k with linkUp := u }
        exec (.portUp p port num cabled) s = .next ((if k.heartbeatAt = none then beat s1 p else s1).resend p)) ∧
      -- a packet stuck on a plane is sent again on an up plane
      ∀ n e rs, s.packets = [(n, e)] → e.src = p ∨ e.dst = p → rs = s.routes e.src e.dst → rs ≠ [] → ¬((s.pkg e.src).linkUp.getLsbD e.plane = true ∧ (s.pkg e.dst).linkUp.getLsbD e.plane = true) →
        ∃ pl, pl ∈ rs ∧ (s.resend p).packet n = some { e with plane := pl } ∧ ((s.resend p).pkg e.src).resent = (s.pkg e.src).resent + 1

/-! ## Encoding, reset, fetching and the checks before issue -/

/-- Right after reset: the registers read as the tables say (Tables 07-6, 10-9, 10-11, 12-3, 13-1, 13-3, 18-2, 20-2), but for WAVAIL, PODINFO and
the MSI-X table, whose values are the model's (log 6, 8, 9, 103); the clock stands at 0 and the package in stage 0; no team, share, grid, transfer, request or packet exists
(R24, R315, R360). Memory is in its canonical form and the agenda is empty (log 1, 4). The model's choices where the tables give no value: the
TLBs are empty (log 5); ERRHEAD, ESCHEAD and every position that no table lists read 0 (log 68), N0 to N3 of NEIGH read 0 (log 102); a queue with PERIOD 0 is in the background (log 91).
Words written out bit by bit from Tables 02-1, 02-3, 02-5, 02-7, 02-9 and 02-10 decode to the instructions they stand for (R40 to R62). -/
def Obligations.ResetAndKnownWords : Prop :=
  ((∀ p off, off ≠ 0x2010 → off ≠ 0x21010 → ¬(0x200000 ≤ off ∧ off < 0x208000) → State.reset.regRead p off =
    if off = 0x2000 then 0x100000 else if off = 0x2008 then 2400000 else if off = 0x10008 then 0x2F00000000 else if off = 0x10010 then 0x100001000
    else if off = 0x10020 then 0x6400000000 else if off % 8 = 0 ∧ 0x10040 ≤ off ∧ off < 0x100C0 then 0x00081004
    else if off = 0x21008 then BitVec.ofNat 64 (2000 * 2 ^ 32 + 4 * 2 ^ 24 + 64 * 2 ^ 16 + 10)
    else if off % 4096 = 0 ∧ 0x40000 ≤ off ∧ off < 0x70000 then 0xFFFF00000400
    else if off % 64 = 0x30 ∧ 0x100000 ≤ off ∧ off < 0x180000 then 4 else 0) ∧
  (∀ p, State.reset.clock p = 0 ∧ (State.reset.pkg p).stage = 0 ∧ (State.reset.pkg p).discarded = 0 ∧ (State.reset.pkg p).frames = [] ∧
    (State.reset.pkg p).parish = [] ∧ (State.reset.pkg p).ctxs = []) ∧
  (∀ c, (State.reset.core c).energy = 0 ∧ (State.reset.core c).tlb = [] ∧ (State.reset.core c).locks = [] ∧ (State.reset.core c).waiting = []) ∧
  (∀ n, State.reset.team n = none ∧ State.reset.share n = none ∧ State.reset.grid n = none ∧ State.reset.xfer n = none ∧
    State.reset.request n = none ∧ State.reset.packet n = none ∧ State.reset.change n = none) ∧
  State.reset.agenda = [] ∧ State.reset.reports = [] ∧ State.reset.memWf) ∧
  (let h : Hdr := ⟨false, false, 15⟩
  decode .team (bytesOf 8 0x001E080406012000) = .ok (.iadd h ⟨4, 2, 3, 0, 9, 0, false, 0, 0⟩, []) ∧
  decode .team (bytesOf 8 0x909E0A080C0E0000) = .ok (.ffma ⟨true, false, 15⟩ ⟨5, 4, 6, 7, 0, 0, false, 0, 0⟩, []) ∧
  decode .team (bytesOf 8 0x2C1FFFFFFFFC2401) = .ok (.bra h ⟨-2, 4, true, false, 0, 1⟩, []) ∧
  decode .team (bytesOf 8 0x301E100420080388) = .ok (.ld h ⟨8, 2, 4, 0x100, 3, 4, 1, false, false, false⟩, []) ∧
  decode .team (bytesOf 8 0x481E005020000885) = .ok (.cpy h ⟨0, 10, 1, 0, 17, 5⟩, []) ∧
  decode .header (bytesOf 8 0x010000000000006B) = .ok (.clauseHeader ⟨0, 1, 0, false, 0, 0, false, 0, 0x6B⟩, []) ∧
  decode .press (bytesOf 8 0x0400000000000000) = .ok (.pzero ⟨0, 0, 0, 0, 0, 0, 0, 0⟩, []) ∧
  decode .press (bytesOf 8 0x4800000000000000) = .ok (.pressWordRefused 0x4800000000000000, []) ∧
  decode .header (bytesOf 8 0x010000000000006A) = .error .header ∧ decode .team (bytesOf 8 0x001E080406000000) = .error .field)

/-- Decoding and encoding agree: every well-formed word of a team, of a press stream and every clause header that passes its checks decodes to the
instruction it encodes, and whatever decodes is the encoding of what it decodes to, so that no bit is dropped and no two instructions share a word
(R40, R45, R60, R62). -/
def Obligations.DecodeEncode : Prop :=
  (∀ i, wordKind i = some .team → i.WellFormed → decode .team (encode i) = .ok (i, [])) ∧
  (∀ i, wordKind i = some .press → i.WellFormed → (∀ w, i = .pressWordRefused w → decodePress w = i) → decode .press (encode i) = .ok (i, [])) ∧
  (∀ f : HF, f.subcode = none → decode .header (encode (.clauseHeader f)) = .ok (.clauseHeader f, [])) ∧
  (∀ k bs i rest, decode k bs = .ok (i, rest) → wordKind i = some k ∧ bs = encode i ++ rest ∧ (k = .team → i.WellFormed))

/-- A step runs the decoded instruction: where the agenda names a team that issues, or the step's own hardware, the step is the meaning of what the
eight bytes at its program counter decode to, after the clocks that pass; behind it a cache that has overflowed drops lines. What has been written at
PACKAGE scope is fetched before what the SYSTEM point holds. A fetch that the page forbids freezes the team or aborts its open region; a fetch
that the host walks for waits. A team issues that runs, is admitted or stepped, has let its gap pass where a clause is next, and holds one of the two
slots of its core or is the first candidate for a free one; another takes no step (R40 to R42, R57, R63, R308, R313). A press stream fetches and
runs its next word, and halts where there is none to fetch (R60, R63). The model's choices, not the spec's: bytes written at PACKAGE scope are
fetched before what the SYSTEM point holds (log 24), lines that overflow a cache are dropped behind the step (log 89), and a parked team has given
up its slot (log 96). -/
def Obligations.StepRunsDecoded : Prop := ∀ (s s0 : State) (dt n : Nat) (rest : List (Nat × Agent)),
  s0 = { s with now := s.now + dt, agenda := rest, cur := n } →
  (s.agenda = (dt, .team n) :: rest → ∀ t, s0.team n = some t →
    (s0.issues n t = true ↔ t.run = .running ∧ (t.admitted = true ∨ t.stepping.isSome = true) ∧ n < 138240 ∧ s0.saving t.cl = false ∧
      (t.word = none → t.gapUntil ≤ s0.now ∧ s0.stopping t.cl = false) ∧
      (t.inSlot = true ∨ t.stepping.isSome = true ∨
        ((s0.teams.filter fun (e : Nat × Team) => coreOf e.1 == coreOf n && decide (e.1 < 138240) && e.2.inSlot).length < 2 ∧
          s0.firstCandidate (coreOf n) = some n))) ∧
    (s0.issues n t = false → step s = trimmed (.next s0)) ∧
    (s0.issues n t = true →
      let core := coreOf n
      let s1 := if t.inSlot = true ∨ t.stepping.isSome = true then s0 else s0.setTeam n { t with inSlot := true }
      let kind := if t.word.isNone then WordKind.header else .team
      -- a team that a kill has ended, and that only completes the word whose release it waited for, ends behind it
      let ends (r : Res) : Res := if t.doomed then (match r with | .next X => .next (X.reap n) | r => r) else r
      (∀ (e : TlbEnt) (vp : Nat) (s2 : State) (bs : List Byte) (i : Instr), canonical t.here = true → vp = t.here.toNat / 65536 % 2 ^ 41 →
        (s1.core core).tlb.find? (·.covers t.ctx vp) = some e →
        let a := 65536 * (e.leaf vp).gpn + t.here.toNat % 65536
        (e.leaf vp).ord ≠ 3 → (e.leaf vp).x = true → s1.pooled (e.leaf vp).gpn = false → s1.sysRead (pkgOf core) a 8 = (s2, some bs) →
        decode kind (bs.zipIdx.map fun x => (s2.packageByte (pkgOf core) ((a + x.2) / 32) ((a + x.2) % 32)).getD x.1) = .ok (i, []) →
        step s = trimmed (ends (exec i s2))) ∧
      (∀ (e : TlbEnt) (vp : Nat), canonical t.here = true → vp = t.here.toNat / 65536 % 2 ^ 41 →
        (s1.core core).tlb.find? (·.covers t.ctx vp) = some e → (e.leaf vp).ord ≠ 3 → (e.leaf vp).x = false ∨ s1.pooled (e.leaf vp).gpn = true →
        s1.fetch core t.ctx t.here = (s1, .bad .permission)) ∧
      (canonical t.here = false → s1.fetch core t.ctx t.here = (s1, .bad .translation)) ∧
      (∀ s2 w i, s1.fetch core t.ctx t.here = (s2, .word w) → decode kind (bytesOf 8 w.toNat) = .ok (i, []) → step s = trimmed (ends (exec i s2))) ∧
      (∀ s2 c, s1.fetch core t.ctx t.here = (s2, .bad c) →
        (t.tryR = none ∨ c.isAddress = false → step s = trimmed (ends (.next (s2.freezeTeam n t ⟨false, false, 15⟩ c 0)))) ∧
        (t.tryR.isSome = true → c.isAddress = true → step s = trimmed (ends (.next (s2.abortTry n 4 0))))) ∧
      ∀ s2 ix, s1.fetch core t.ctx t.here = (s2, .wait ix) →
        step s = trimmed (.next (s2.updTeam n fun u => { u with run := .parked (.walk ix) })))) ∧
  (s.agenda = (dt, .stream n) :: rest → ∀ x m core g, s0.share n = some x → x.stream = some m → x.core = some core → s0.grid x.grid = some g →
    m.st = .running → s0.saving x.cl = false →
    let fetched := s0.asHardware (pkgOf core) (streamWho n) Fetched.waits fun s => s.fetch core g.ctx m.spc
    (∀ s1 w i, fetched = (s1, .word w) → decode .press (bytesOf 8 w.toNat) = .ok (i, []) → step s = trimmed (exec i s1)) ∧
    (∀ s1 c, fetched = (s1, .bad c) → step s = trimmed (.next (s1.haltStream n c 0))) ∧
    ∀ s1 ix, fetched = (s1, .wait ix) → step s = trimmed (.next s1)) ∧
  (∀ i, s.agenda = (dt, .event i) :: rest → step s = trimmed (exec i { s with now := s.now + dt, agenda := rest })) ∧
  ∀ X : State, X.roomy = true → trimmed (.next X) = .next X

/-- What was last written to a byte is what it reads, and every other byte stays: host memory, frames, scratchpads (R28, R251, R359); a whole granule
written clears its poison, a masked write to a poisoned granule is discarded; a read corrects a correctable error and poisons the granule of
an uncorrectable one, leaves every byte, and finds every poisoned granule poisoned, with a symbol error or without (R271); a cleared frame
reads zero (R256). -/
def Obligations.MemoryReadsBack : Prop :=
  (∀ (s : State) a bs b, (s.setHostBytes a bs).hostByte b = if a ≤ b ∧ b < a + bs.length then bs.getD (b - a) 0 else s.hostByte b) ∧
  (∀ (k : Pkg) f off bs g o, (k.setBytes f off bs).byte g o =
    if 65536 * f + off ≤ 65536 * g + o ∧ 65536 * g + o < 65536 * f + off + bs.length then bs.getD (65536 * g + o - (65536 * f + off)) 0 else k.byte g o) ∧
  (∀ (s : State) sh off bs q o, (s.share sh).isSome → (s.setSpBytes sh off bs).spByte q o =
    if q = sh ∧ off ≤ o ∧ o < off + bs.length then bs.getD (o - off) 0 else s.spByte q o) ∧
  (∀ (k : Pkg) f g o, o < 65536 → (k.zeroFrame f).byte g o = if g = f then 0 else k.byte g o) ∧
  (∀ (s : State) p f sec bs mask, sec < 2048 → bs.length = 32 →
    let r := s.writeGranule p f sec bs mask
    let old := find (s.pkg p).poison (2048 * f + sec)
    let sym := find (s.pkg p).symErr (2048 * f + sec)
    (r.2 = true ↔ mask = BitVec.allOnes 32 ∨ old = none ∧ ∀ n, sym = some n → n < 64) ∧
    (∀ g o, o < 65536 → (r.1.pkg p).byte g o =
      if r.2 = true ∧ g = f ∧ o / 32 = sec ∧ mask.getLsbD (o % 32) = true then bs.getD (o % 32) 0 else (s.pkg p).byte g o) ∧
    (∀ q, q ≠ p → r.1.pkg q = s.pkg q) ∧ (mask = BitVec.allOnes 32 → find (r.1.pkg p).poison (2048 * f + sec) = none)) ∧
  ∀ (s : State) p f sec,
    let r := s.readGranule p f sec
    let old := find (s.pkg p).poison (2048 * f + sec)
    let sym := find (s.pkg p).symErr (2048 * f + sec)
    (r.2 = true ↔ (∃ n, sym = some n ∧ 64 ≤ n) ∨ old.isSome) ∧ (r.1.pkg p).hbm = (s.pkg p).hbm ∧
    find (r.1.pkg p).symErr (2048 * f + sec) = none ∧
    (find (r.1.pkg p).poison (2048 * f + sec) = if (∃ n, sym = some n ∧ 64 ≤ n) then some 1 else old)

/-- Memory keeps its canonical form through every step of every agent (log 4). -/
def Obligations.EveryStepKeepsMemoryForm : Prop := ∀ s s' : State, s.memWf → step s = .next s' → s'.memWf

/-- The checks before a word issues, in the order of Table 02-4, the first that fails freezing the team (R47); a full waiting list holds back rows
0x0C to 0x12 and 0x16 of a team that is no reeve, but for one that has issued already (R288); an event that the row alone decides aborts an open
region (R170). A clause header passes its checks, waits, acquires for what it waited for, and makes the clause's first word next (R42, R43). The
model's choice, not the spec's: of a team that is no reeve, a PGCTL or CCTL.discard in an open region aborts it before the privilege check (log 76). -/
def Obligations.ChecksBeforeIssue : Prop := ∀ (s : State) (t : Team), s.team s.cur = some t →
  (∀ i h, wordKind i = some .team → wordHdr i = some h →
    let r := rowOf i
    let last := t.word.getD 0 = t.hdr.n.toNat
    let sel : Option (Nat × Bool) := match i with | .rdsr _ f => some (f.imm.toNat, false) | .wrsr _ f => some (f.imm.toNat, true) | _ => none
    let illegal (n : Nat) : Option (Cause × Nat) := some (.illegal, n)
    let out := s.precheck s.cur t i h
    ((∃ op rest, i = .opcodeIllegal h op rest) → out = illegal 0x04) ∧
    ((¬∃ op rest, i = .opcodeIllegal h op rest) →
      if (r = 0x15 ∧ t.version < 2) ∨ (r = 0x16 ∧ t.version < 3) then out = illegal 0x05
      else if r ≠ 0x0B ∧ rowClass r ≠ t.hdr.cls.toNat then out = illegal 0x06
      else if r = 0x0B ∧ ¬last then out = illegal 0x07
      else if h.z = true ∧ ¬last then out = illegal 0x08
      else if ¬(i.fieldOk = true ∧ s.fieldDyn s.cur t i = true) then out = illegal 0x09
      else if i.pairOk = false then out = illegal 0x0A
      else if (∃ q ∈ vregs i, q.2 ≠ 0 ∧ t.allot < q.1 + q.2) then out = illegal 0x0B
      else if sel.any (fun x => !selKnown t.version x.1) then out = illegal 0x0C
      else if sel.any (fun x => x.2 && x.1 != 0x10 && x.1 != 0x13) then out = illegal 0x16
      else if roleRow t.role r = false then out = some (.role, 0)
      else out = none) ∧
    (∀ c sub, out = some (c, sub) → Freezes (exec i s) s t h c sub) ∧
    (out = none → s.listBlocks s.cur t i = true → t.stepping = none → Parks (exec i s) s s.cur t .listRoom) ∧
    (s.listBlocks s.cur t i = true ↔ t.isReeve = false ∧ t.latch = none ∧ (0x0C ≤ r ∧ r ≤ 0x12 ∨ r = 0x16) ∧ 64 ≤ (s.core (coreOf s.cur)).waiting.length) ∧
    (out = none → s.listBlocks s.cur t i = false → t.tryR.isSome = true → t.doesAct i h = true → ∀ code, tryEvent i = some code → exec i s = .next (s.abortTry s.cur code 0))) ∧
  ∀ f : HF,
    let r := exec (.clauseHeader f) s
    let hd : Hdr := ⟨false, false, 15⟩
    let noStream := ((s.share t.share).bind (·.stream)) = none
    let waits := (f.wb = true → t.batchOk (t.batchMeant f.wbatch) = true) ∧ ∀ b < 16, f.wbell.getLsbD b = true → (s.bell t.share b).phase ≠ t.seen.getLsbD b
    if f.sig ≠ 0x6B then Freezes r s t hd .illegal 0x01
    else if f.res ≠ 0 ∨ f.wb = false ∧ f.wbatch ≠ 0 then Freezes r s t hd .illegal 0x02
    else if f.cls.getLsbD 3 = true then Freezes r s t hd .illegal 0x03
    else if f.wbell ≠ 0 ∧ noStream then Freezes r s t hd .illegal 0x0D
    else if f.cls = 7 ∧ t.role ≠ .reeve then Freezes r s t hd .privilege 0
    else (¬waits → t.stepping = none → Parks r s s.cur { t with hdr := f } .header) ∧
      (waits →
        let c := coreOf s.cur
        let a := if f.wb then (s.acquire c t.copyScope).setTeam s.cur { t with copyScope := 0 } else s
        let b := if f.wbell ≠ 0 then a.acquire c 2 else a
        ∃ u, r = .next ((b.updCore c fun k => { k with issued := put k.issued t.grid (getD 0 k.issued t.grid + 1) }).setTeam s.cur u) ∧
          u = { t with copyScope := if f.wb then 0 else t.copyScope, hdr := f, word := some 0, giveMark := false, seen := u.seen } ∧
          ∀ n < 16, u.seen.getLsbD n = if f.wbell.getLsbD n then (s.bell t.share n).phase else t.seen.getLsbD n)

/-- What a fault leaves (R37, R38, R56, R280 to R282, R288): the team stops with its record, its registers as the words before the faulting one left
them; once its outstanding results have returned it is frozen, FREEZES one higher, its handle at the end of its core's waiting list or, while the list
is full, held outside it; a team that no reeve can serve joins no list. The primary cause is the one of smallest index. A reeve's fault is escalated
instead: the reeve and the team it serves end, and in host-assisted mode both are held for the host (R292). -/
def Obligations.FreezeRecords : Prop :=
  (∀ (s : State) (tk : Nat) (t : Team) (cr : CauseRec), s.team tk = some t →
    let t' : Team := { t.commit with run := .freezing, cause := cr, retry := none, relWait := none, sleepUntil := none, latch := none
                                     brought := [], fails := [], inSlot := false }
    s.freeze tk cr = (s.setTeam tk t').takeStop tk ∧ (∀ (q : RegId) L, q.place L → t'.endVal q L = t.endVal q L ∧ t'.dueParts q L = t.dueParts q L)) ∧
  (∀ (s : State) (tk : Nat) (t : Team), s.team tk = some t → t.run = .freezing →
    let s' := s.takeStop tk
    let core := coreOf tk
    ((∃ o ∈ t.outst, o.parts ≠ []) → s' = s) ∧
    ((∀ o ∈ t.outst, o.parts = []) → t.stepping = none →
      let Y := (s.setTeam tk { t with run := .frozen, admitted := false }).updPkg (pkgOf core) fun k => { k with freezes := k.freezes + 1 }
      (t.isReeve = false → Y.reeveless core t.ctx = true → s' = Y) ∧
      (t.isReeve = false → Y.reeveless core t.ctx = false →
        s'.team tk = some { t with run := .frozen, admitted := false } ∧
        (s'.pkg (pkgOf core)).freezes = (s.pkg (pkgOf core)).freezes + 1 ∧
        (s'.core core).waiting = (s.core core).waiting ++ (if (s.core core).waiting.length < 64 then [Handle.frozen tk] else []) ∧
        (s'.core core).held = (s.core core).held ++ (if (s.core core).waiting.length < 64 then [] else [Handle.frozen tk]) ∧
        (63 ≤ (s.core core).waiting.length → (s'.pkg (pkgOf core)).fstat.getLsbD 1 = true) ∧
        (∀ n, n ≠ tk → s'.team n = s.team n) ∧ SameMemory s s') ∧
      (t.isReeve = true →
        (∃ e, find (s'.pkg (pkgOf core)).log (s.pkg (pkgOf core)).escNext = some e ∧ e.addr = t.cause.addr ∧ e.rserial = t.serial ∧ e.kind = 1 ∧
          e.core = core % 48 ∧ e.cause = t.cause.word) ∧
        (s'.pkg (pkgOf core)).fstat.getLsbD 0 = true ∧
        ((s.pkg (pkgOf core)).duty.getLsbD 0 = true → s'.team tk = some { t with run := .frozen, admitted := false, escalated := true } ∧
          ∀ f u, t.h0 = .frozen f → f ≠ tk → s.team f = some u → s'.team f = some { u with escalated := true }) ∧
        ((s.pkg (pkgOf core)).duty.getLsbD 0 = false → s'.team tk = none ∧ ∀ f, t.h0 = .frozen f → s'.team f = none)))) ∧
  (∀ (t : Team) (cs : List (Nat × Option Cause × Word)) (sub field : Nat),
    let r := t.record cs sub field
    r.lanes = cs.map (fun c => (⟨c.1, c.2.1.getD .deferred, c.2.2⟩ : LaneCause)) ∧ r.field = field ∧ r.imprecise = false ∧
      r.addr = (match t.word with | none => t.pc | some j => t.pc + BitVec.ofNat 64 (8 * (j + 1))) ∧
      (∀ c, (∃ L e, (L, some c, e) ∈ cs) → c ≠ .deferred → (∀ L d e, (L, some d, e) ∈ cs → d ≠ .deferred → c.index ≤ d.index) →
        r.primary = c.code ∧ r.sub = if c = .illegal ∨ c = .shape then sub else 0)) ∧
  ∀ (s : State) (tk : Nat) (t : Team) (h : Hdr) (c : Cause) (sub : Nat) (ea : Word) (field : Nat),
    s.freezeTeam tk t h c sub ea field = s.freeze tk
      { lanes := (t.act h).map fun L => ⟨L, c, ea⟩, primary := c.code, sub := if c = .illegal ∨ c = .shape then sub else 0, field := field
        imprecise := false, addr := t.here, atHeader := t.word.isNone }
end

