-- ==== Sys2Proof/Laws/Sparse.lean ====
section
/-! SUPPORT. Laws of the sparse maps: reading after writing, and the canonical form. -/

namespace Sys2Proof.Machine

variable {α : Type}

theorem find_nil (k : Nat) : find ([] : List (Nat × α)) k = none := rfl

theorem find_cons (e : Nat × α) (m : List (Nat × α)) (k : Nat) : find (e :: m) k = if e.1 = k then some e.2 else find m k := by
  unfold find
  rw [List.find?_cons]
  by_cases h : e.1 = k
  · simp [h]
  · have : (e.1 == k) = false := by simpa using h
    simp [this, h]

theorem find_erase_same (m : List (Nat × α)) (k : Nat) : find (erase m k) k = none := by
  simp [find, erase]

theorem find_erase_other (m : List (Nat × α)) {k j : Nat} (h : j ≠ k) : find (erase m k) j = find m j := by
  induction m with
  | nil => rfl
  | cons e m ih =>
    have ih' : find (List.filter (fun e => e.1 != k) m) j = find m j := ih
    by_cases he : e.1 = k
    · have : ¬ e.1 = j := by omega
      simp [erase, he, find_cons, ih']
      omega
    · simp [erase, he, find_cons, ih']

theorem find_insertAt_same (k : Nat) (v : α) (m : List (Nat × α)) (h : find m k = none) : find (insertAt k v m) k = some v := by
  induction m with
  | nil => simp [insertAt, find_cons]
  | cons e m ih =>
    rw [find_cons] at h
    by_cases hk : e.1 = k
    · simp [hk] at h
    · simp only [hk, if_false] at h
      by_cases hl : k < e.1
      · simp [insertAt, hl, find_cons]
      · simp [insertAt, hl, find_cons, hk, ih h]

theorem find_insertAt_other (k : Nat) (v : α) (m : List (Nat × α)) {j : Nat} (h : j ≠ k) : find (insertAt k v m) j = find m j := by
  induction m with
  | nil => simp only [insertAt, find_cons, find_nil]; rw [if_neg (Ne.symm h)]
  | cons e m ih =>
    by_cases hl : k < e.1
    · simp only [insertAt, hl, if_true]; rw [find_cons, if_neg (Ne.symm h)]
    · simp only [insertAt, hl, if_false]; rw [find_cons, find_cons, ih]

@[simp] theorem find_put_same (m : List (Nat × α)) (k : Nat) (v : α) : find (put m k v) k = some v :=
  find_insertAt_same k v _ (find_erase_same m k)

@[simp] theorem find_put_other (m : List (Nat × α)) (k : Nat) (v : α) {j : Nat} (h : j ≠ k) : find (put m k v) j = find m j := by
  rw [put, find_insertAt_other k v _ h, find_erase_other m h]

theorem erase_insertAt (k : Nat) (v : α) (m : List (Nat × α)) : erase (insertAt k v m) k = erase m k := by
  induction m with
  | nil => simp [insertAt, erase]
  | cons e m ih =>
    by_cases hl : k < e.1
    · simp [insertAt, hl, erase]
    · simp only [insertAt, hl, if_false]
      have ih' : List.filter (fun e => e.1 != k) (insertAt k v m) = List.filter (fun e => e.1 != k) m := ih
      simp only [erase, List.filter_cons, ih']

theorem erase_erase (m : List (Nat × α)) (k : Nat) : erase (erase m k) k = erase m k := by simp [erase]

@[simp] theorem put_put (m : List (Nat × α)) (k : Nat) (a b : α) : put (put m k a) k b = put m k b := by
  simp only [put, erase_insertAt, erase_erase]

@[simp] theorem getD_put_same (d : α) (m : List (Nat × α)) (k : Nat) (v : α) : getD d (put m k v) k = v := by simp [getD]

theorem getD_put_other (d : α) (m : List (Nat × α)) (k : Nat) (v : α) {j : Nat} (h : j ≠ k) : getD d (put m k v) j = getD d m j := by
  simp [getD, h]

theorem getD_setD_same [DecidableEq α] (d : α) (m : List (Nat × α)) (k : Nat) (v : α) : getD d (setD d m k v) k = v := by
  unfold setD
  split
  · next h => simp [getD, find_erase_same, h]
  · simp

theorem getD_setD_other [DecidableEq α] (d : α) (m : List (Nat × α)) (k : Nat) (v : α) {j : Nat} (h : j ≠ k) :
    getD d (setD d m k v) j = getD d m j := by
  unfold setD
  split
  · simp [getD, find_erase_other m h]
  · exact getD_put_other d m k v h

/-- Reading a map with a default after one write. -/
theorem getD_setD [DecidableEq α] (d : α) (m : List (Nat × α)) (k j : Nat) (v : α) :
    getD d (setD d m k v) j = if j = k then v else getD d m j := by
  split
  · next h => rw [h, getD_setD_same]
  · next h => exact getD_setD_other d m k v h

/-! ## The canonical form -/

theorem rising_erase {m : List (Nat × α)} (h : Rising m) (k : Nat) : Rising (erase m k) := List.Pairwise.filter _ h

theorem mem_insertAt {k : Nat} {v : α} {m : List (Nat × α)} {e : Nat × α} (h : e ∈ insertAt k v m) : e = (k, v) ∨ e ∈ m := by
  induction m with
  | nil => simpa [insertAt] using h
  | cons x m ih =>
    by_cases hl : k < x.1
    · simpa [insertAt, hl] using h
    · simp only [insertAt, hl, if_false, List.mem_cons] at h
      rcases h with h | h
      · exact .inr (by simp [h])
      · rcases ih h with h | h
        · exact .inl h
        · exact .inr (by simp [h])

theorem rising_insertAt {k : Nat} {v : α} {m : List (Nat × α)} (h : Rising m) (hk : ∀ e ∈ m, e.1 ≠ k) : Rising (insertAt k v m) := by
  induction m with
  | nil => simp [insertAt]
  | cons x m ih =>
    have hx := List.pairwise_cons.mp h
    by_cases hl : k < x.1
    · simp only [insertAt, hl, if_true]
      refine List.pairwise_cons.mpr ⟨fun e he => ?_, h⟩
      rcases List.mem_cons.mp he with he | he
      · simpa [he] using hl
      · exact Nat.lt_trans hl (hx.1 e he)
    · simp only [insertAt, hl, if_false]
      refine List.pairwise_cons.mpr ⟨fun e he => ?_, ih hx.2 fun e he => hk e (List.mem_cons_of_mem _ he)⟩
      rcases mem_insertAt he with he | he
      · have := hk x List.mem_cons_self
        rw [he]
        show x.1 < k
        omega
      · exact hx.1 e he

theorem erase_ne {m : List (Nat × α)} {k : Nat} : ∀ e ∈ erase m k, e.1 ≠ k := by simp [erase]

theorem rising_put {m : List (Nat × α)} (h : Rising m) (k : Nat) (v : α) : Rising (put m k v) :=
  rising_insertAt (rising_erase h k) erase_ne

theorem canon_erase {d : α} {m : List (Nat × α)} (h : Canon d m) (k : Nat) : Canon d (erase m k) :=
  ⟨rising_erase h.1 k, fun e he => h.2 e (List.mem_of_mem_filter he)⟩

/-- A write with a default keeps the canonical form. -/
theorem canon_setD [DecidableEq α] {d : α} {m : List (Nat × α)} (h : Canon d m) (k : Nat) (v : α) : Canon d (setD d m k v) := by
  unfold setD
  split
  · exact canon_erase h k
  · next hv =>
    refine ⟨rising_put h.1 k v, fun e he => ?_⟩
    rcases mem_insertAt he with he | he
    · rw [he]; exact hv
    · exact (canon_erase h k).2 e he

end Sys2Proof.Machine
end

