-- ==== Sys2Proof/Laws/Memory.lean ====
section
/-! SUPPORT. Laws of memory: every operation that writes host memory, a frame or a scratchpad keeps the canonical form, and memory at
reset has it. -/

namespace Sys2Proof.Machine

variable {α : Type}

theorem memWf_reset : State.reset.memWf := by decide +kernel

/-! ## Cells -/

theorem wf_fold (bs : List (Byte × Nat)) {m : Memory} (h : Memory.wf m) : Memory.wf (bs.foldl (fun m x => setD 0 m x.2 x.1) m) := by
  induction bs generalizing m with
  | nil => exact h
  | cons b bs ih => exact ih (canon_setD h _ _)

theorem wf_filter {m : Memory} (h : Memory.wf m) (p : Host.Cell → Bool) : Memory.wf (m.filter p) :=
  ⟨List.Pairwise.filter _ h.1, fun e he => h.2 e (List.mem_of_mem_filter he)⟩

theorem wf_nil : Memory.wf [] := ⟨List.Pairwise.nil, fun _ h => nomatch h⟩

theorem Pkg.wf_setByte {k : Pkg} (h : Memory.wf k.hbm) (f off : Nat) (b : Byte) : Memory.wf (k.setByte f off b).hbm := canon_setD h _ _

theorem Pkg.wf_setBytes {k : Pkg} (h : Memory.wf k.hbm) (f off : Nat) (bs : List Byte) : Memory.wf (k.setBytes f off bs).hbm := wf_fold _ h

theorem Pkg.wf_zeroFrame {k : Pkg} (h : Memory.wf k.hbm) (f : Nat) : Memory.wf (k.zeroFrame f).hbm := wf_filter h _

/-! ## The machine -/

/-- A change of some fields keeps the form where the three memories' holders are as they were. -/
theorem State.memWf_of {s s' : State} (h : s.memWf) (h1 : s'.hostMem = s.hostMem) (h2 : s'.pkgs = s.pkgs) (h3 : s'.shares = s.shares) :
    s'.memWf := by unfold State.memWf; rw [h1, h2, h3]; exact h

theorem find_mem {m : List (Nat × α)} {k : Nat} {v : α} (h : find m k = some v) : (k, v) ∈ m := by
  induction m with
  | nil => simp [find_nil] at h
  | cons e m ih =>
    rw [find_cons] at h
    by_cases he : e.1 = k
    · simp only [he, if_true, Option.some.injEq] at h
      exact List.mem_cons.mpr (.inl (by rw [← h, ← he]))
    · simp only [he, if_false] at h
      exact List.mem_cons_of_mem _ (ih h)

theorem mem_put {m : List (Nat × α)} {k : Nat} {v : α} {e : Nat × α} (h : e ∈ put m k v) : e = (k, v) ∨ e ∈ m := by
  rcases mem_insertAt h with h | h
  · exact .inl h
  · exact .inr (List.mem_of_mem_filter h)

theorem State.memWf_pkg {s : State} (h : s.memWf) (p : Nat) : Memory.wf (s.pkg p).hbm := by
  unfold State.pkg getD
  rcases hf : find s.pkgs p with _ | k
  · exact wf_nil
  · exact h.2.1 _ (find_mem hf)

theorem State.memWf_share {s : State} (h : s.memWf) {sh : Nat} {x : Share} (hx : s.share sh = some x) : Memory.wf x.sp := h.2.2 _ (find_mem hx)

theorem State.memWf_setPkg {s : State} (h : s.memWf) (p : Nat) {k : Pkg} (hk : Memory.wf k.hbm) : (s.setPkg p k).memWf :=
  ⟨h.1, fun _ he => (mem_put he).elim (fun e => e ▸ hk) (h.2.1 _), h.2.2⟩

theorem State.memWf_updPkg {s : State} (h : s.memWf) (p : Nat) {f : Pkg → Pkg} (hf : Memory.wf (f (s.pkg p)).hbm) : (s.updPkg p f).memWf :=
  State.memWf_setPkg h p hf

theorem State.memWf_setShare {s : State} (h : s.memWf) (sh : Nat) {x : Share} (hx : Memory.wf x.sp) : (s.setShare sh x).memWf :=
  ⟨h.1, h.2.1, fun _ he => (mem_put he).elim (fun e => e ▸ hx) (h.2.2 _)⟩

theorem State.memWf_updCore {s : State} (h : s.memWf) (c : Nat) (f : Core → Core) : (s.updCore c f).memWf := h
theorem State.memWf_setDie {s : State} (h : s.memWf) (d : Nat) (x : Cache) : (s.setDie d x).memWf := h
theorem State.memWf_setTeam {s : State} (h : s.memWf) (tk : Nat) (t : Team) : (s.setTeam tk t).memWf := h
theorem State.memWf_setRequest {s : State} (h : s.memWf) (r : Nat) (q : Request) : (s.setRequest r q).memWf := h

theorem State.memWf_mapRequests {s : State} (h : s.memWf) (f : Request → Request) : (s.mapRequests f).memWf := h

theorem State.memWf_withRequests {s : State} (h : s.memWf) (r : List (Nat × Request)) : { s with requests := r }.memWf := h

theorem State.memWf_setHostBytes {s : State} (h : s.memWf) (a : Nat) (bs : List Byte) : (s.setHostBytes a bs).memWf := ⟨wf_fold _ h.1, h.2⟩

theorem State.memWf_setSpBytes {s : State} (h : s.memWf) (sh off : Nat) (bs : List Byte) : (s.setSpBytes sh off bs).memWf := by
  unfold State.setSpBytes State.updShare
  split
  · next x hx => exact State.memWf_setShare h sh (wf_fold _ (State.memWf_share h hx))
  · exact h

theorem State.memWf_noteWrite {s : State} (h : s.memWf) (by_ : Option Nat) (ls : List Loc) : (s.noteWrite by_ ls).memWf := h

theorem State.memWf_setBar {s : State} (h : s.memWf) (by_ : Option Nat) (sh off : Nat) (w : BarWord) : (s.setBar by_ sh off w).memWf :=
  State.memWf_noteWrite (State.memWf_setSpBytes h _ _ _) _ _

/-! ## Granules (R271) -/

theorem State.memWf_addHist {s : State} (h : s.memWf) (p frame sector kind symbol : Nat) : (s.addHist p frame sector kind symbol).memWf :=
  State.memWf_updPkg h p (State.memWf_pkg h p)

theorem Pkg.raiseVec_hbm (k : Pkg) (v : Nat) : (k.raiseVec v).hbm = k.hbm := by unfold Pkg.raiseVec; split <;> rfl

theorem Pkg.setAstat_hbm (k : Pkg) (b : Nat) : (k.setAstat b).hbm = k.hbm := by
  unfold Pkg.setAstat; split
  · rfl
  · rw [Pkg.raiseVec_hbm]

theorem State.memWf_readGranule {s : State} (h : s.memWf) (p frame sector : Nat) : (s.readGranule p frame sector).1.memWf := by
  have held (x : State) (hx : x.memWf) : (if (find (x.pkg p).poison (2048 * frame + sector)).isSome
      then (x.addHist p frame sector 3 63, true) else (x, false)).1.memWf := by
    split
    · exact State.memWf_addHist hx _ _ _ _ _
    · exact hx
  unfold State.readGranule
  dsimp only
  split
  · exact held s h
  · split
    · exact held _ (State.memWf_addHist (State.memWf_updPkg h p (State.memWf_pkg h p)) _ _ _ _ _)
    · refine State.memWf_addHist (State.memWf_updPkg h p ?_) _ _ _ _ _
      show Memory.wf (((s.pkg p).count 13).setAstat 7).hbm
      rw [Pkg.setAstat_hbm]
      exact State.memWf_pkg h p

theorem Pkg.wf_fold_setByte (l : List Nat) (mask : BitVec 32) (frame base : Nat) (bs : List Byte) {k : Pkg} (h : Memory.wf k.hbm) :
    Memory.wf (l.foldl (fun k i => if mask.getLsbD i then k.setByte frame (base + i) (bs.getD i 0) else k) k).hbm := by
  induction l generalizing k with
  | nil => exact h
  | cons i l ih =>
    refine ih ?_
    dsimp only
    split
    · exact Pkg.wf_setByte h _ _ _
    · exact h

theorem State.memWf_writeGranule {s : State} (h : s.memWf) (p frame sector : Nat) (bs : List Byte) (mask : BitVec 32) :
    (s.writeGranule p frame sector bs mask).1.memWf := by
  unfold State.writeGranule
  dsimp only
  split
  · exact State.memWf_updPkg h p (Pkg.wf_setBytes (State.memWf_pkg h p) _ _ _)
  · split
    · exact State.memWf_addHist h _ _ _ _ _
    · have hr := State.memWf_readGranule h p frame sector
      split
      · exact State.memWf_addHist hr _ _ _ _ _
      · exact State.memWf_updPkg hr p (Pkg.wf_fold_setByte _ _ _ _ _ (State.memWf_pkg hr p))

theorem State.memWf_poisonGranule {s : State} (h : s.memWf) (p frame sector : Nat) : (s.poisonGranule p frame sector).memWf :=
  State.memWf_updPkg h p (State.memWf_pkg h p)

/-! ## Levels, releases and acquires (R216, R225, R226) -/

theorem State.memWf_setCache {s : State} (h : s.memWf) (l : Level) (x : Cache) : (s.setCache l x).memWf := by
  cases l with
  | l1 c => exact h
  | l2 d => exact h
  | l3 p => exact State.memWf_updPkg h p (State.memWf_pkg h p)

theorem State.memWf_foldl {β : Type} (l : List β) (f : State → β → State) (hf : ∀ s b, s.memWf → (f s b).memWf) {s : State} (h : s.memWf) :
    (l.foldl f s).memWf := by
  induction l generalizing s with
  | nil => exact h
  | cons b l ih => exact ih (hf _ _ h)

theorem State.memWf_postWrite {s : State} (h : s.memWf) (core key : Nat) (bs : List Byte) (mask : BitVec 32) (w : Issuer) :
    (s.postWrite core key bs mask w).memWf := by
  unfold State.postWrite State.post
  have h' : (s.addRequest core key mask (.write bs w.strong) w []).memWf := h
  exact State.memWf_updPkg h' _ (State.memWf_pkg h' _)

theorem State.memWf_memWrite {s : State} (h : s.memWf) (core key : Nat) (bs : List Byte) (mask : BitVec 32) (w : Issuer) :
    (s.memWrite core key bs mask w).memWf := by
  unfold State.memWrite
  dsimp only
  split
  · split
    · exact h
    · refine State.memWf_foldl _ _ (fun s i h => ?_) h
      split
      · exact State.memWf_setHostBytes h _ _
      · exact h
  · split
    · next f _ =>
      split
      · split
        · have hw := State.memWf_poisonGranule h (pkgOf core) f (key % 2048)
          exact State.memWf_updPkg hw _ (State.memWf_pkg hw _)
        · have hw := State.memWf_writeGranule h (pkgOf core) f (key % 2048) bs mask
          exact State.memWf_updPkg hw _ (State.memWf_pkg hw _)
      · exact State.memWf_postWrite h _ _ _ _ _
    · exact State.memWf_postWrite h _ _ _ _ _

theorem State.memWf_noteFill {s : State} (h : s.memWf) (l : Level) (key : Nat) (mask : BitVec 32) : (s.noteFill l key mask).memWf := h

theorem State.memWf_mergeDirty {s : State} (h : s.memWf) (l : Level) (key : Nat) (bs : List Byte) (mask : BitVec 32) (u : Bool) :
    (s.mergeDirty l key bs mask u).memWf := State.memWf_noteFill (State.memWf_setCache h _ _) _ _ _

theorem State.memWf_dropLine {s : State} (h : s.memWf) (l : Level) (key : Nat) : (s.dropLine l key).memWf :=
  State.memWf_noteFill (State.memWf_setCache h _ _) _ _ _

theorem State.memWf_writeBackOne {s : State} (h : s.memWf) (l : Level) (key : Nat) : (s.writeBackOne l key).memWf := by
  unfold State.writeBackOne
  dsimp only
  split
  · exact h
  · split
    · exact h
    · split
      · exact State.memWf_mergeDirty (State.memWf_setCache h _ _) _ _ _ _ _
      · exact State.memWf_memWrite (State.memWf_setCache h _ _) _ _ _ _ _

theorem State.memWf_release {s : State} (h : s.memWf) (core scope : Nat) : (s.release core scope).memWf := by
  unfold State.release State.writeBackAll
  exact State.memWf_foldl _ _ (fun s l h => State.memWf_foldl _ _ (fun s e h => State.memWf_writeBackOne h _ _) h) h

theorem State.memWf_advance {s : State} (h : s.memWf) (l : Level) (ix : Nat) : (s.advance l ix).memWf := by
  unfold State.advance State.flashClear
  dsimp only
  have hf : ∀ ks : List Nat, (ks.foldl (fun s k => (s.writeBackOne l k).dropLine l k) s).memWf := fun ks =>
    State.memWf_foldl ks _ (fun s k h => State.memWf_dropLine (State.memWf_writeBackOne h _ _) _ _) h
  refine State.memWf_setCache (State.memWf_updPkg ?_ _ (State.memWf_pkg ?_ _)) _ _
  all_goals exact State.memWf_mapRequests (hf _) _

theorem State.memWf_acquire {s : State} (h : s.memWf) (core scope : Nat) : (s.acquire core scope).memWf := by
  unfold State.acquire
  refine State.memWf_foldl _ _ (fun s l h => ?_) h
  split
  · exact State.memWf_advance h _ _
  · exact h

theorem State.memWf_purge {s : State} (h : s.memWf) (key : Nat) (ls : List Level) : (s.purge key ls).memWf := by
  unfold State.purge
  exact State.memWf_foldl _ _ (fun s l h => State.memWf_dropLine (State.memWf_writeBackOne h _ _) _ _) h

/-! ## Lines that leave with their page (R222, R240, R252) -/

theorem State.memWf_crossed {s : State} (h : s.memWf) (p q there back : Nat) : (s.crossed p q there back).memWf := by
  unfold State.crossed
  split
  · exact h
  · have h1 := State.memWf_updPkg h p (f := fun k => { k with
      flitsTx := k.flitsTx + BitVec.ofNat 64 there, flitsRx := k.flitsRx + BitVec.ofNat 64 back }) (State.memWf_pkg h p)
    exact State.memWf_updPkg h1 q (State.memWf_pkg h1 q)

theorem State.memWf_stripPage {s : State} (h : s.memWf) (p gpn : Nat) : (s.stripPage p gpn).1.memWf := by
  unfold State.stripPage
  generalize pkgLevels p = ls
  dsimp only
  apply State.memWf_mapRequests
  apply State.memWf_foldl _ _ (fun s e h => State.memWf_dropLine h _ _)
  exact State.memWf_foldl _ _ (fun s l h => State.memWf_foldl _ _ (fun s e h => State.memWf_dropLine (State.memWf_writeBackOne h _ _) _ _) h) h

theorem State.memWf_postSpoils {s : State} (h : s.memWf) (ws : List Spoil) : (s.postSpoils ws).memWf :=
  State.memWf_foldl _ _ (fun _ _ h => State.memWf_postWrite h _ _ _ _ _) h

theorem State.memWf_landSpoils {s : State} (h : s.memWf) (fs : List (Nat × Nat)) (ws : List Spoil) : (s.landSpoils fs ws).memWf := by
  refine State.memWf_foldl _ _ (fun s w h => ?_) h
  split
  · exact State.memWf_postSpoils h _
  · exact State.memWf_foldl _ _ (fun s m h => State.memWf_crossed (State.memWf_writeGranule h _ _ _ _ _) _ _ _ _) h

theorem State.memWf_unframe {s : State} (h : s.memWf) (p f : Nat) : (s.unframe p f).1.memWf := by
  unfold State.unframe
  exact State.memWf_stripPage (State.memWf_updPkg h p (State.memWf_pkg h p)) _ _

theorem State.memWf_noteAbsent {s : State} (h : s.memWf) (p gpn : Nat) : (s.noteAbsent p gpn).memWf := by
  unfold State.noteAbsent
  split
  · exact h
  · exact State.memWf_updPkg h _ (State.memWf_pkg h _)

theorem State.memWf_clearCopies {s : State} (h : s.memWf) (gpn master keep : Nat) : (s.clearCopies gpn master keep).1.memWf := by
  unfold State.clearCopies
  refine List.foldlRecOn (motive := fun (acc : State × List Spoil) => acc.1.memWf) _ _ h fun acc ha p _ => ?_
  split
  · next f _ =>
    dsimp only
    generalize hr : acc.1.unframe p f = r
    have h1 : r.1.memWf := hr ▸ State.memWf_unframe ha p f
    exact State.memWf_crossed (State.memWf_noteAbsent (State.memWf_updPkg h1 p (f := (·.count 9)) (State.memWf_pkg h1 p)) _ _) _ _ _ _
  · exact ha

/-- A change of every package that leaves its stacks keeps the form. -/
theorem State.memWf_mapPkgs {s : State} (h : s.memWf) (f : Nat × Pkg → Pkg) (hf : ∀ e, (f e).hbm = e.2.hbm) :
    { s with pkgs := s.pkgs.map fun e : Nat × Pkg => (e.1, f e) }.memWf := by
  refine ⟨h.1, fun e he => ?_, h.2.2⟩
  obtain ⟨x, hx, rfl⟩ := List.mem_map.mp he
  simpa only [hf] using h.2.1 x hx

theorem State.memWf_invalidateCopies {s : State} (h : s.memWf) (gpn master : Nat) : (s.invalidateCopies gpn master).memWf := by
  unfold State.invalidateCopies
  refine State.memWf_landSpoils (State.memWf_mapPkgs (State.memWf_clearCopies h gpn master master) _ fun e => ?_) _ _
  split
  · split <;> rfl
  · rfl

theorem State.memWf_settleSpoils {s : State} (h : s.memWf) (p gpn : Nat) (ws : List Spoil) : (s.settleSpoils p gpn ws).memWf := by
  unfold State.settleSpoils
  split
  · exact h
  · split
    · exact State.memWf_postSpoils h _
    · split
      · exact State.memWf_postSpoils h _
      · exact State.memWf_landSpoils (State.memWf_invalidateCopies h _ _) _ _

theorem State.memWf_purgePage {s : State} (h : s.memWf) (p gpn : Nat) : (s.purgePage p gpn).memWf :=
  State.memWf_settleSpoils (State.memWf_stripPage h p gpn) _ _ _

theorem State.memWf_askHost {s : State} (h : s.memWf) (p kind core : Nat) (a b c : Word) : (s.askHost p kind core a b c).1.memWf := by
  unfold State.askHost
  dsimp only
  split
  · exact h
  · refine State.memWf_updPkg (State.memWf_setHostBytes h _ _) p ?_
    have hp := State.memWf_pkg (State.memWf_setHostBytes h ((((s.pkg p).bootReg 0x40).toNat + 32 * ((s.pkg p).hreqTail.toNat % 4096)))
      (bytesOf 8 (kind + 2 ^ 8 * p + 2 ^ 16 * (core % 256) + 2 ^ 32 * (s.pkg p).hreqTail.toNat) ++ bytesOf 8 a.toNat ++ bytesOf 8 b.toNat ++ bytesOf 8 c.toNat)) p
    split
    · rw [Pkg.raiseVec_hbm]; exact hp
    · exact hp

end Sys2Proof.Machine
end

