-- ==== Sys2Proof/Laws/State.lean ====
section
/-! SUPPORT. One law per field per update of the state, and what a record reads after an update. -/

namespace Sys2Proof.Machine

/-! ## Fields after an update -/

@[simp] theorem State.setPkg_now (s : State) (p : Nat) (x : Pkg) : (s.setPkg p x).now = s.now := rfl
@[simp] theorem State.setPkg_pkgs (s : State) (p : Nat) (x : Pkg) : (s.setPkg p x).pkgs = put s.pkgs p x := rfl
@[simp] theorem State.setPkg_cores (s : State) (p : Nat) (x : Pkg) : (s.setPkg p x).cores = s.cores := rfl
@[simp] theorem State.setPkg_dies (s : State) (p : Nat) (x : Pkg) : (s.setPkg p x).dies = s.dies := rfl
@[simp] theorem State.setPkg_teams (s : State) (p : Nat) (x : Pkg) : (s.setPkg p x).teams = s.teams := rfl
@[simp] theorem State.setPkg_shares (s : State) (p : Nat) (x : Pkg) : (s.setPkg p x).shares = s.shares := rfl
@[simp] theorem State.setPkg_clusters (s : State) (p : Nat) (x : Pkg) : (s.setPkg p x).clusters = s.clusters := rfl
@[simp] theorem State.setPkg_grids (s : State) (p : Nat) (x : Pkg) : (s.setPkg p x).grids = s.grids := rfl
@[simp] theorem State.setPkg_xfers (s : State) (p : Nat) (x : Pkg) : (s.setPkg p x).xfers = s.xfers := rfl
@[simp] theorem State.setPkg_requests (s : State) (p : Nat) (x : Pkg) : (s.setPkg p x).requests = s.requests := rfl
@[simp] theorem State.setPkg_packets (s : State) (p : Nat) (x : Pkg) : (s.setPkg p x).packets = s.packets := rfl
@[simp] theorem State.setPkg_changes (s : State) (p : Nat) (x : Pkg) : (s.setPkg p x).changes = s.changes := rfl
@[simp] theorem State.setPkg_reports (s : State) (p : Nat) (x : Pkg) : (s.setPkg p x).reports = s.reports := rfl
@[simp] theorem State.setPkg_hostMem (s : State) (p : Nat) (x : Pkg) : (s.setPkg p x).hostMem = s.hostMem := rfl
@[simp] theorem State.setPkg_hostReply (s : State) (p : Nat) (x : Pkg) : (s.setPkg p x).hostReply = s.hostReply := rfl
@[simp] theorem State.setPkg_windows (s : State) (p : Nat) (x : Pkg) : (s.setPkg p x).windows = s.windows := rfl
@[simp] theorem State.setPkg_cur (s : State) (p : Nat) (x : Pkg) : (s.setPkg p x).cur = s.cur := rfl
@[simp] theorem State.setPkg_agenda (s : State) (p : Nat) (x : Pkg) : (s.setPkg p x).agenda = s.agenda := rfl
@[simp] theorem State.setPkg_fresh (s : State) (p : Nat) (x : Pkg) : (s.setPkg p x).fresh = s.fresh := rfl

@[simp] theorem State.setCore_now (s : State) (c : Nat) (x : Core) : (s.setCore c x).now = s.now := rfl
@[simp] theorem State.setCore_pkgs (s : State) (c : Nat) (x : Core) : (s.setCore c x).pkgs = s.pkgs := rfl
@[simp] theorem State.setCore_cores (s : State) (c : Nat) (x : Core) : (s.setCore c x).cores = put s.cores c x := rfl
@[simp] theorem State.setCore_dies (s : State) (c : Nat) (x : Core) : (s.setCore c x).dies = s.dies := rfl
@[simp] theorem State.setCore_teams (s : State) (c : Nat) (x : Core) : (s.setCore c x).teams = s.teams := rfl
@[simp] theorem State.setCore_shares (s : State) (c : Nat) (x : Core) : (s.setCore c x).shares = s.shares := rfl
@[simp] theorem State.setCore_clusters (s : State) (c : Nat) (x : Core) : (s.setCore c x).clusters = s.clusters := rfl
@[simp] theorem State.setCore_grids (s : State) (c : Nat) (x : Core) : (s.setCore c x).grids = s.grids := rfl
@[simp] theorem State.setCore_xfers (s : State) (c : Nat) (x : Core) : (s.setCore c x).xfers = s.xfers := rfl
@[simp] theorem State.setCore_requests (s : State) (c : Nat) (x : Core) : (s.setCore c x).requests = s.requests := rfl
@[simp] theorem State.setCore_packets (s : State) (c : Nat) (x : Core) : (s.setCore c x).packets = s.packets := rfl
@[simp] theorem State.setCore_changes (s : State) (c : Nat) (x : Core) : (s.setCore c x).changes = s.changes := rfl
@[simp] theorem State.setCore_reports (s : State) (c : Nat) (x : Core) : (s.setCore c x).reports = s.reports := rfl
@[simp] theorem State.setCore_hostMem (s : State) (c : Nat) (x : Core) : (s.setCore c x).hostMem = s.hostMem := rfl
@[simp] theorem State.setCore_hostReply (s : State) (c : Nat) (x : Core) : (s.setCore c x).hostReply = s.hostReply := rfl
@[simp] theorem State.setCore_windows (s : State) (c : Nat) (x : Core) : (s.setCore c x).windows = s.windows := rfl
@[simp] theorem State.setCore_cur (s : State) (c : Nat) (x : Core) : (s.setCore c x).cur = s.cur := rfl
@[simp] theorem State.setCore_agenda (s : State) (c : Nat) (x : Core) : (s.setCore c x).agenda = s.agenda := rfl
@[simp] theorem State.setCore_fresh (s : State) (c : Nat) (x : Core) : (s.setCore c x).fresh = s.fresh := rfl

@[simp] theorem State.setDie_now (s : State) (d : Nat) (x : Cache) : (s.setDie d x).now = s.now := rfl
@[simp] theorem State.setDie_pkgs (s : State) (d : Nat) (x : Cache) : (s.setDie d x).pkgs = s.pkgs := rfl
@[simp] theorem State.setDie_cores (s : State) (d : Nat) (x : Cache) : (s.setDie d x).cores = s.cores := rfl
@[simp] theorem State.setDie_dies (s : State) (d : Nat) (x : Cache) : (s.setDie d x).dies = put s.dies d x := rfl
@[simp] theorem State.setDie_teams (s : State) (d : Nat) (x : Cache) : (s.setDie d x).teams = s.teams := rfl
@[simp] theorem State.setDie_shares (s : State) (d : Nat) (x : Cache) : (s.setDie d x).shares = s.shares := rfl
@[simp] theorem State.setDie_clusters (s : State) (d : Nat) (x : Cache) : (s.setDie d x).clusters = s.clusters := rfl
@[simp] theorem State.setDie_grids (s : State) (d : Nat) (x : Cache) : (s.setDie d x).grids = s.grids := rfl
@[simp] theorem State.setDie_xfers (s : State) (d : Nat) (x : Cache) : (s.setDie d x).xfers = s.xfers := rfl
@[simp] theorem State.setDie_requests (s : State) (d : Nat) (x : Cache) : (s.setDie d x).requests = s.requests := rfl
@[simp] theorem State.setDie_packets (s : State) (d : Nat) (x : Cache) : (s.setDie d x).packets = s.packets := rfl
@[simp] theorem State.setDie_changes (s : State) (d : Nat) (x : Cache) : (s.setDie d x).changes = s.changes := rfl
@[simp] theorem State.setDie_reports (s : State) (d : Nat) (x : Cache) : (s.setDie d x).reports = s.reports := rfl
@[simp] theorem State.setDie_hostMem (s : State) (d : Nat) (x : Cache) : (s.setDie d x).hostMem = s.hostMem := rfl
@[simp] theorem State.setDie_hostReply (s : State) (d : Nat) (x : Cache) : (s.setDie d x).hostReply = s.hostReply := rfl
@[simp] theorem State.setDie_windows (s : State) (d : Nat) (x : Cache) : (s.setDie d x).windows = s.windows := rfl
@[simp] theorem State.setDie_cur (s : State) (d : Nat) (x : Cache) : (s.setDie d x).cur = s.cur := rfl
@[simp] theorem State.setDie_agenda (s : State) (d : Nat) (x : Cache) : (s.setDie d x).agenda = s.agenda := rfl
@[simp] theorem State.setDie_fresh (s : State) (d : Nat) (x : Cache) : (s.setDie d x).fresh = s.fresh := rfl

@[simp] theorem State.setTeam_now (s : State) (tk : Nat) (t : Team) : (s.setTeam tk t).now = s.now := rfl
@[simp] theorem State.setTeam_pkgs (s : State) (tk : Nat) (t : Team) : (s.setTeam tk t).pkgs = s.pkgs := rfl
@[simp] theorem State.setTeam_cores (s : State) (tk : Nat) (t : Team) : (s.setTeam tk t).cores = s.cores := rfl
@[simp] theorem State.setTeam_dies (s : State) (tk : Nat) (t : Team) : (s.setTeam tk t).dies = s.dies := rfl
@[simp] theorem State.setTeam_teams (s : State) (tk : Nat) (t : Team) : (s.setTeam tk t).teams = put s.teams tk t := rfl
@[simp] theorem State.setTeam_shares (s : State) (tk : Nat) (t : Team) : (s.setTeam tk t).shares = s.shares := rfl
@[simp] theorem State.setTeam_clusters (s : State) (tk : Nat) (t : Team) : (s.setTeam tk t).clusters = s.clusters := rfl
@[simp] theorem State.setTeam_grids (s : State) (tk : Nat) (t : Team) : (s.setTeam tk t).grids = s.grids := rfl
@[simp] theorem State.setTeam_xfers (s : State) (tk : Nat) (t : Team) : (s.setTeam tk t).xfers = s.xfers := rfl
@[simp] theorem State.setTeam_requests (s : State) (tk : Nat) (t : Team) : (s.setTeam tk t).requests = s.requests := rfl
@[simp] theorem State.setTeam_packets (s : State) (tk : Nat) (t : Team) : (s.setTeam tk t).packets = s.packets := rfl
@[simp] theorem State.setTeam_changes (s : State) (tk : Nat) (t : Team) : (s.setTeam tk t).changes = s.changes := rfl
@[simp] theorem State.setTeam_reports (s : State) (tk : Nat) (t : Team) : (s.setTeam tk t).reports = s.reports := rfl
@[simp] theorem State.setTeam_hostMem (s : State) (tk : Nat) (t : Team) : (s.setTeam tk t).hostMem = s.hostMem := rfl
@[simp] theorem State.setTeam_hostReply (s : State) (tk : Nat) (t : Team) : (s.setTeam tk t).hostReply = s.hostReply := rfl
@[simp] theorem State.setTeam_windows (s : State) (tk : Nat) (t : Team) : (s.setTeam tk t).windows = s.windows := rfl
@[simp] theorem State.setTeam_cur (s : State) (tk : Nat) (t : Team) : (s.setTeam tk t).cur = s.cur := rfl
@[simp] theorem State.setTeam_agenda (s : State) (tk : Nat) (t : Team) : (s.setTeam tk t).agenda = s.agenda := rfl
@[simp] theorem State.setTeam_fresh (s : State) (tk : Nat) (t : Team) : (s.setTeam tk t).fresh = s.fresh := rfl

@[simp] theorem State.setShare_now (s : State) (sh : Nat) (x : Share) : (s.setShare sh x).now = s.now := rfl
@[simp] theorem State.setShare_pkgs (s : State) (sh : Nat) (x : Share) : (s.setShare sh x).pkgs = s.pkgs := rfl
@[simp] theorem State.setShare_cores (s : State) (sh : Nat) (x : Share) : (s.setShare sh x).cores = s.cores := rfl
@[simp] theorem State.setShare_dies (s : State) (sh : Nat) (x : Share) : (s.setShare sh x).dies = s.dies := rfl
@[simp] theorem State.setShare_teams (s : State) (sh : Nat) (x : Share) : (s.setShare sh x).teams = s.teams := rfl
@[simp] theorem State.setShare_shares (s : State) (sh : Nat) (x : Share) : (s.setShare sh x).shares = put s.shares sh x := rfl
@[simp] theorem State.setShare_clusters (s : State) (sh : Nat) (x : Share) : (s.setShare sh x).clusters = s.clusters := rfl
@[simp] theorem State.setShare_grids (s : State) (sh : Nat) (x : Share) : (s.setShare sh x).grids = s.grids := rfl
@[simp] theorem State.setShare_xfers (s : State) (sh : Nat) (x : Share) : (s.setShare sh x).xfers = s.xfers := rfl
@[simp] theorem State.setShare_requests (s : State) (sh : Nat) (x : Share) : (s.setShare sh x).requests = s.requests := rfl
@[simp] theorem State.setShare_packets (s : State) (sh : Nat) (x : Share) : (s.setShare sh x).packets = s.packets := rfl
@[simp] theorem State.setShare_changes (s : State) (sh : Nat) (x : Share) : (s.setShare sh x).changes = s.changes := rfl
@[simp] theorem State.setShare_reports (s : State) (sh : Nat) (x : Share) : (s.setShare sh x).reports = s.reports := rfl
@[simp] theorem State.setShare_hostMem (s : State) (sh : Nat) (x : Share) : (s.setShare sh x).hostMem = s.hostMem := rfl
@[simp] theorem State.setShare_hostReply (s : State) (sh : Nat) (x : Share) : (s.setShare sh x).hostReply = s.hostReply := rfl
@[simp] theorem State.setShare_windows (s : State) (sh : Nat) (x : Share) : (s.setShare sh x).windows = s.windows := rfl
@[simp] theorem State.setShare_cur (s : State) (sh : Nat) (x : Share) : (s.setShare sh x).cur = s.cur := rfl
@[simp] theorem State.setShare_agenda (s : State) (sh : Nat) (x : Share) : (s.setShare sh x).agenda = s.agenda := rfl
@[simp] theorem State.setShare_fresh (s : State) (sh : Nat) (x : Share) : (s.setShare sh x).fresh = s.fresh := rfl

@[simp] theorem State.setCluster_now (s : State) (cl : Nat) (x : Cluster) : (s.setCluster cl x).now = s.now := rfl
@[simp] theorem State.setCluster_pkgs (s : State) (cl : Nat) (x : Cluster) : (s.setCluster cl x).pkgs = s.pkgs := rfl
@[simp] theorem State.setCluster_cores (s : State) (cl : Nat) (x : Cluster) : (s.setCluster cl x).cores = s.cores := rfl
@[simp] theorem State.setCluster_dies (s : State) (cl : Nat) (x : Cluster) : (s.setCluster cl x).dies = s.dies := rfl
@[simp] theorem State.setCluster_teams (s : State) (cl : Nat) (x : Cluster) : (s.setCluster cl x).teams = s.teams := rfl
@[simp] theorem State.setCluster_shares (s : State) (cl : Nat) (x : Cluster) : (s.setCluster cl x).shares = s.shares := rfl
@[simp] theorem State.setCluster_clusters (s : State) (cl : Nat) (x : Cluster) : (s.setCluster cl x).clusters = put s.clusters cl x := rfl
@[simp] theorem State.setCluster_grids (s : State) (cl : Nat) (x : Cluster) : (s.setCluster cl x).grids = s.grids := rfl
@[simp] theorem State.setCluster_xfers (s : State) (cl : Nat) (x : Cluster) : (s.setCluster cl x).xfers = s.xfers := rfl
@[simp] theorem State.setCluster_requests (s : State) (cl : Nat) (x : Cluster) : (s.setCluster cl x).requests = s.requests := rfl
@[simp] theorem State.setCluster_packets (s : State) (cl : Nat) (x : Cluster) : (s.setCluster cl x).packets = s.packets := rfl
@[simp] theorem State.setCluster_changes (s : State) (cl : Nat) (x : Cluster) : (s.setCluster cl x).changes = s.changes := rfl
@[simp] theorem State.setCluster_reports (s : State) (cl : Nat) (x : Cluster) : (s.setCluster cl x).reports = s.reports := rfl
@[simp] theorem State.setCluster_hostMem (s : State) (cl : Nat) (x : Cluster) : (s.setCluster cl x).hostMem = s.hostMem := rfl
@[simp] theorem State.setCluster_hostReply (s : State) (cl : Nat) (x : Cluster) : (s.setCluster cl x).hostReply = s.hostReply := rfl
@[simp] theorem State.setCluster_windows (s : State) (cl : Nat) (x : Cluster) : (s.setCluster cl x).windows = s.windows := rfl
@[simp] theorem State.setCluster_cur (s : State) (cl : Nat) (x : Cluster) : (s.setCluster cl x).cur = s.cur := rfl
@[simp] theorem State.setCluster_agenda (s : State) (cl : Nat) (x : Cluster) : (s.setCluster cl x).agenda = s.agenda := rfl
@[simp] theorem State.setCluster_fresh (s : State) (cl : Nat) (x : Cluster) : (s.setCluster cl x).fresh = s.fresh := rfl

@[simp] theorem State.setGrid_now (s : State) (g : Nat) (x : Grid) : (s.setGrid g x).now = s.now := rfl
@[simp] theorem State.setGrid_pkgs (s : State) (g : Nat) (x : Grid) : (s.setGrid g x).pkgs = s.pkgs := rfl
@[simp] theorem State.setGrid_cores (s : State) (g : Nat) (x : Grid) : (s.setGrid g x).cores = s.cores := rfl
@[simp] theorem State.setGrid_dies (s : State) (g : Nat) (x : Grid) : (s.setGrid g x).dies = s.dies := rfl
@[simp] theorem State.setGrid_teams (s : State) (g : Nat) (x : Grid) : (s.setGrid g x).teams = s.teams := rfl
@[simp] theorem State.setGrid_shares (s : State) (g : Nat) (x : Grid) : (s.setGrid g x).shares = s.shares := rfl
@[simp] theorem State.setGrid_clusters (s : State) (g : Nat) (x : Grid) : (s.setGrid g x).clusters = s.clusters := rfl
@[simp] theorem State.setGrid_grids (s : State) (g : Nat) (x : Grid) : (s.setGrid g x).grids = put s.grids g x := rfl
@[simp] theorem State.setGrid_xfers (s : State) (g : Nat) (x : Grid) : (s.setGrid g x).xfers = s.xfers := rfl
@[simp] theorem State.setGrid_requests (s : State) (g : Nat) (x : Grid) : (s.setGrid g x).requests = s.requests := rfl
@[simp] theorem State.setGrid_packets (s : State) (g : Nat) (x : Grid) : (s.setGrid g x).packets = s.packets := rfl
@[simp] theorem State.setGrid_changes (s : State) (g : Nat) (x : Grid) : (s.setGrid g x).changes = s.changes := rfl
@[simp] theorem State.setGrid_reports (s : State) (g : Nat) (x : Grid) : (s.setGrid g x).reports = s.reports := rfl
@[simp] theorem State.setGrid_hostMem (s : State) (g : Nat) (x : Grid) : (s.setGrid g x).hostMem = s.hostMem := rfl
@[simp] theorem State.setGrid_hostReply (s : State) (g : Nat) (x : Grid) : (s.setGrid g x).hostReply = s.hostReply := rfl
@[simp] theorem State.setGrid_windows (s : State) (g : Nat) (x : Grid) : (s.setGrid g x).windows = s.windows := rfl
@[simp] theorem State.setGrid_cur (s : State) (g : Nat) (x : Grid) : (s.setGrid g x).cur = s.cur := rfl
@[simp] theorem State.setGrid_agenda (s : State) (g : Nat) (x : Grid) : (s.setGrid g x).agenda = s.agenda := rfl
@[simp] theorem State.setGrid_fresh (s : State) (g : Nat) (x : Grid) : (s.setGrid g x).fresh = s.fresh := rfl

@[simp] theorem State.setRequest_now (s : State) (r : Nat) (x : Request) : (s.setRequest r x).now = s.now := rfl
@[simp] theorem State.setRequest_pkgs (s : State) (r : Nat) (x : Request) : (s.setRequest r x).pkgs = s.pkgs := rfl
@[simp] theorem State.setRequest_cores (s : State) (r : Nat) (x : Request) : (s.setRequest r x).cores = s.cores := rfl
@[simp] theorem State.setRequest_dies (s : State) (r : Nat) (x : Request) : (s.setRequest r x).dies = s.dies := rfl
@[simp] theorem State.setRequest_teams (s : State) (r : Nat) (x : Request) : (s.setRequest r x).teams = s.teams := rfl
@[simp] theorem State.setRequest_shares (s : State) (r : Nat) (x : Request) : (s.setRequest r x).shares = s.shares := rfl
@[simp] theorem State.setRequest_clusters (s : State) (r : Nat) (x : Request) : (s.setRequest r x).clusters = s.clusters := rfl
@[simp] theorem State.setRequest_grids (s : State) (r : Nat) (x : Request) : (s.setRequest r x).grids = s.grids := rfl
@[simp] theorem State.setRequest_xfers (s : State) (r : Nat) (x : Request) : (s.setRequest r x).xfers = s.xfers := rfl
@[simp] theorem State.setRequest_requests (s : State) (r : Nat) (x : Request) : (s.setRequest r x).requests = put s.requests r x := rfl
@[simp] theorem State.setRequest_packets (s : State) (r : Nat) (x : Request) : (s.setRequest r x).packets = s.packets := rfl
@[simp] theorem State.setRequest_changes (s : State) (r : Nat) (x : Request) : (s.setRequest r x).changes = s.changes := rfl
@[simp] theorem State.setRequest_reports (s : State) (r : Nat) (x : Request) : (s.setRequest r x).reports = s.reports := rfl
@[simp] theorem State.setRequest_hostMem (s : State) (r : Nat) (x : Request) : (s.setRequest r x).hostMem = s.hostMem := rfl
@[simp] theorem State.setRequest_hostReply (s : State) (r : Nat) (x : Request) : (s.setRequest r x).hostReply = s.hostReply := rfl
@[simp] theorem State.setRequest_windows (s : State) (r : Nat) (x : Request) : (s.setRequest r x).windows = s.windows := rfl
@[simp] theorem State.setRequest_cur (s : State) (r : Nat) (x : Request) : (s.setRequest r x).cur = s.cur := rfl
@[simp] theorem State.setRequest_agenda (s : State) (r : Nat) (x : Request) : (s.setRequest r x).agenda = s.agenda := rfl
@[simp] theorem State.setRequest_fresh (s : State) (r : Nat) (x : Request) : (s.setRequest r x).fresh = s.fresh := rfl

@[simp] theorem State.dropRequest_now (s : State) (r : Nat) : (s.dropRequest r).now = s.now := rfl
@[simp] theorem State.dropRequest_pkgs (s : State) (r : Nat) : (s.dropRequest r).pkgs = s.pkgs := rfl
@[simp] theorem State.dropRequest_cores (s : State) (r : Nat) : (s.dropRequest r).cores = s.cores := rfl
@[simp] theorem State.dropRequest_dies (s : State) (r : Nat) : (s.dropRequest r).dies = s.dies := rfl
@[simp] theorem State.dropRequest_teams (s : State) (r : Nat) : (s.dropRequest r).teams = s.teams := rfl
@[simp] theorem State.dropRequest_shares (s : State) (r : Nat) : (s.dropRequest r).shares = s.shares := rfl
@[simp] theorem State.dropRequest_clusters (s : State) (r : Nat) : (s.dropRequest r).clusters = s.clusters := rfl
@[simp] theorem State.dropRequest_grids (s : State) (r : Nat) : (s.dropRequest r).grids = s.grids := rfl
@[simp] theorem State.dropRequest_xfers (s : State) (r : Nat) : (s.dropRequest r).xfers = s.xfers := rfl
@[simp] theorem State.dropRequest_requests (s : State) (r : Nat) : (s.dropRequest r).requests = erase s.requests r := rfl
@[simp] theorem State.dropRequest_packets (s : State) (r : Nat) : (s.dropRequest r).packets = s.packets := rfl
@[simp] theorem State.dropRequest_changes (s : State) (r : Nat) : (s.dropRequest r).changes = s.changes := rfl
@[simp] theorem State.dropRequest_reports (s : State) (r : Nat) : (s.dropRequest r).reports = s.reports := rfl
@[simp] theorem State.dropRequest_hostMem (s : State) (r : Nat) : (s.dropRequest r).hostMem = s.hostMem := rfl
@[simp] theorem State.dropRequest_hostReply (s : State) (r : Nat) : (s.dropRequest r).hostReply = s.hostReply := rfl
@[simp] theorem State.dropRequest_windows (s : State) (r : Nat) : (s.dropRequest r).windows = s.windows := rfl
@[simp] theorem State.dropRequest_cur (s : State) (r : Nat) : (s.dropRequest r).cur = s.cur := rfl
@[simp] theorem State.dropRequest_agenda (s : State) (r : Nat) : (s.dropRequest r).agenda = s.agenda := rfl
@[simp] theorem State.dropRequest_fresh (s : State) (r : Nat) : (s.dropRequest r).fresh = s.fresh := rfl

@[simp] theorem State.setChange_now (s : State) (ch : Nat) (x : Change) : (s.setChange ch x).now = s.now := rfl
@[simp] theorem State.setChange_pkgs (s : State) (ch : Nat) (x : Change) : (s.setChange ch x).pkgs = s.pkgs := rfl
@[simp] theorem State.setChange_cores (s : State) (ch : Nat) (x : Change) : (s.setChange ch x).cores = s.cores := rfl
@[simp] theorem State.setChange_dies (s : State) (ch : Nat) (x : Change) : (s.setChange ch x).dies = s.dies := rfl
@[simp] theorem State.setChange_teams (s : State) (ch : Nat) (x : Change) : (s.setChange ch x).teams = s.teams := rfl
@[simp] theorem State.setChange_shares (s : State) (ch : Nat) (x : Change) : (s.setChange ch x).shares = s.shares := rfl
@[simp] theorem State.setChange_clusters (s : State) (ch : Nat) (x : Change) : (s.setChange ch x).clusters = s.clusters := rfl
@[simp] theorem State.setChange_grids (s : State) (ch : Nat) (x : Change) : (s.setChange ch x).grids = s.grids := rfl
@[simp] theorem State.setChange_xfers (s : State) (ch : Nat) (x : Change) : (s.setChange ch x).xfers = s.xfers := rfl
@[simp] theorem State.setChange_requests (s : State) (ch : Nat) (x : Change) : (s.setChange ch x).requests = s.requests := rfl
@[simp] theorem State.setChange_packets (s : State) (ch : Nat) (x : Change) : (s.setChange ch x).packets = s.packets := rfl
@[simp] theorem State.setChange_changes (s : State) (ch : Nat) (x : Change) : (s.setChange ch x).changes = put s.changes ch x := rfl
@[simp] theorem State.setChange_reports (s : State) (ch : Nat) (x : Change) : (s.setChange ch x).reports = s.reports := rfl
@[simp] theorem State.setChange_hostMem (s : State) (ch : Nat) (x : Change) : (s.setChange ch x).hostMem = s.hostMem := rfl
@[simp] theorem State.setChange_hostReply (s : State) (ch : Nat) (x : Change) : (s.setChange ch x).hostReply = s.hostReply := rfl
@[simp] theorem State.setChange_windows (s : State) (ch : Nat) (x : Change) : (s.setChange ch x).windows = s.windows := rfl
@[simp] theorem State.setChange_cur (s : State) (ch : Nat) (x : Change) : (s.setChange ch x).cur = s.cur := rfl
@[simp] theorem State.setChange_agenda (s : State) (ch : Nat) (x : Change) : (s.setChange ch x).agenda = s.agenda := rfl
@[simp] theorem State.setChange_fresh (s : State) (ch : Nat) (x : Change) : (s.setChange ch x).fresh = s.fresh := rfl

@[simp] theorem State.bump_now (s : State) : (s.bump).now = s.now := rfl
@[simp] theorem State.bump_pkgs (s : State) : (s.bump).pkgs = s.pkgs := rfl
@[simp] theorem State.bump_cores (s : State) : (s.bump).cores = s.cores := rfl
@[simp] theorem State.bump_dies (s : State) : (s.bump).dies = s.dies := rfl
@[simp] theorem State.bump_teams (s : State) : (s.bump).teams = s.teams := rfl
@[simp] theorem State.bump_shares (s : State) : (s.bump).shares = s.shares := rfl
@[simp] theorem State.bump_clusters (s : State) : (s.bump).clusters = s.clusters := rfl
@[simp] theorem State.bump_grids (s : State) : (s.bump).grids = s.grids := rfl
@[simp] theorem State.bump_xfers (s : State) : (s.bump).xfers = s.xfers := rfl
@[simp] theorem State.bump_requests (s : State) : (s.bump).requests = s.requests := rfl
@[simp] theorem State.bump_packets (s : State) : (s.bump).packets = s.packets := rfl
@[simp] theorem State.bump_changes (s : State) : (s.bump).changes = s.changes := rfl
@[simp] theorem State.bump_reports (s : State) : (s.bump).reports = s.reports := rfl
@[simp] theorem State.bump_hostMem (s : State) : (s.bump).hostMem = s.hostMem := rfl
@[simp] theorem State.bump_hostReply (s : State) : (s.bump).hostReply = s.hostReply := rfl
@[simp] theorem State.bump_windows (s : State) : (s.bump).windows = s.windows := rfl
@[simp] theorem State.bump_cur (s : State) : (s.bump).cur = s.cur := rfl
@[simp] theorem State.bump_agenda (s : State) : (s.bump).agenda = s.agenda := rfl
@[simp] theorem State.bump_fresh (s : State) : (s.bump).fresh = s.fresh + 1 := rfl

/-! ## Records after an update -/

@[simp] theorem State.team_setTeam (s : State) (tk : Nat) (t : Team) : (s.setTeam tk t).team tk = some t := find_put_same _ _ _
theorem State.team_setTeam_other (s : State) {tk j : Nat} (t : Team) (h : j ≠ tk) : (s.setTeam tk t).team j = s.team j := find_put_other _ _ _ h
@[simp] theorem State.setTeam_setTeam (s : State) (tk : Nat) (t u : Team) : (s.setTeam tk t).setTeam tk u = s.setTeam tk u := by
  simp [State.setTeam]
theorem State.updTeam_some {s : State} {tk : Nat} {t : Team} (h : s.team tk = some t) (f : Team → Team) : s.updTeam tk f = s.setTeam tk (f t) := by
  simp [State.updTeam, h]
@[simp] theorem State.updTeam_setTeam (s : State) (tk : Nat) (t : Team) (f : Team → Team) : (s.setTeam tk t).updTeam tk f = s.setTeam tk (f t) := by
  simp [State.updTeam]
@[simp] theorem State.share_setShare (s : State) (sh : Nat) (x : Share) : (s.setShare sh x).share sh = some x := find_put_same _ _ _
theorem State.share_setShare_other (s : State) {sh j : Nat} (x : Share) (h : j ≠ sh) : (s.setShare sh x).share j = s.share j := find_put_other _ _ _ h
theorem State.updShare_some {s : State} {sh : Nat} {x : Share} (h : s.share sh = some x) (f : Share → Share) : s.updShare sh f = s.setShare sh (f x) := by
  simp [State.updShare, h]
@[simp] theorem State.pkg_setPkg (s : State) (p : Nat) (x : Pkg) : (s.setPkg p x).pkg p = x := getD_put_same _ _ _ _
theorem State.pkg_setPkg_other (s : State) {p q : Nat} (x : Pkg) (h : q ≠ p) : (s.setPkg p x).pkg q = s.pkg q := getD_put_other _ _ _ _ h
@[simp] theorem State.core_setCore (s : State) (c : Nat) (x : Core) : (s.setCore c x).core c = x := getD_put_same _ _ _ _
theorem State.core_setCore_other (s : State) {c d : Nat} (x : Core) (h : d ≠ c) : (s.setCore c x).core d = s.core d := getD_put_other _ _ _ _ h
@[simp] theorem State.grid_setGrid (s : State) (g : Nat) (x : Grid) : (s.setGrid g x).grid g = some x := find_put_same _ _ _
@[simp] theorem State.request_setRequest (s : State) (r : Nat) (x : Request) : (s.setRequest r x).request r = some x := find_put_same _ _ _

/-- A package's team, share and register file do not stand in one another's way. -/
@[simp] theorem State.team_setPkg (s : State) (p : Nat) (x : Pkg) (tk : Nat) : (s.setPkg p x).team tk = s.team tk := rfl
@[simp] theorem State.team_updPkg (s : State) (p : Nat) (f : Pkg → Pkg) (tk : Nat) : (s.updPkg p f).team tk = s.team tk := rfl
@[simp] theorem State.team_updCore (s : State) (c : Nat) (f : Core → Core) (tk : Nat) : (s.updCore c f).team tk = s.team tk := rfl
@[simp] theorem State.share_setTeam (s : State) (tk : Nat) (t : Team) (sh : Nat) : (s.setTeam tk t).share sh = s.share sh := rfl
@[simp] theorem State.share_updPkg (s : State) (p : Nat) (f : Pkg → Pkg) (sh : Nat) : (s.updPkg p f).share sh = s.share sh := rfl
@[simp] theorem State.share_updCore (s : State) (c : Nat) (f : Core → Core) (sh : Nat) : (s.updCore c f).share sh = s.share sh := rfl
@[simp] theorem State.pkg_setTeam (s : State) (tk : Nat) (t : Team) (p : Nat) : (s.setTeam tk t).pkg p = s.pkg p := rfl
@[simp] theorem State.core_setTeam (s : State) (tk : Nat) (t : Team) (c : Nat) : (s.setTeam tk t).core c = s.core c := rfl
@[simp] theorem State.team_setShare (s : State) (sh : Nat) (x : Share) (tk : Nat) : (s.setShare sh x).team tk = s.team tk := rfl
@[simp] theorem State.team_updShare (s : State) (sh : Nat) (f : Share → Share) (tk : Nat) : (s.updShare sh f).team tk = s.team tk := by
  unfold State.updShare; split <;> rfl
@[simp] theorem State.pkg_updPkg (s : State) (p : Nat) (f : Pkg → Pkg) : (s.updPkg p f).pkg p = f (s.pkg p) := State.pkg_setPkg _ _ _
theorem State.pkg_updPkg_other (s : State) {p q : Nat} (f : Pkg → Pkg) (h : q ≠ p) : (s.updPkg p f).pkg q = s.pkg q := State.pkg_setPkg_other _ _ h
@[simp] theorem State.core_updCore (s : State) (c : Nat) (f : Core → Core) : (s.updCore c f).core c = f (s.core c) := State.core_setCore _ _ _
theorem State.core_updCore_other (s : State) {c d : Nat} (f : Core → Core) (h : d ≠ c) : (s.updCore c f).core d = s.core d := State.core_setCore_other _ _ h
@[simp] theorem State.updPkg_cur (s : State) (p : Nat) (f : Pkg → Pkg) : (s.updPkg p f).cur = s.cur := rfl
@[simp] theorem State.updCore_cur (s : State) (c : Nat) (f : Core → Core) : (s.updCore c f).cur = s.cur := rfl

end Sys2Proof.Machine
end

