-- ==== Sys2Proof/Laws/Team.lean ====
section
/-! SUPPORT. Laws of a team's registers: what a write leaves at every place, and how a word that retires or jumps ends. -/

namespace Sys2Proof.Machine

open Host

/-! ## Registers under a list of writes -/

/-- The registers of two teams are the same. -/
def Team.SameRegs (t u : Team) : Prop := t.v = u.v ∧ t.s = u.s ∧ t.k = u.k ∧ t.lanes = u.lanes

theorem Team.SameRegs.rfl' (t : Team) : t.SameRegs t := ⟨rfl, rfl, rfl, rfl⟩

theorem Team.sameRegs_store {t u : Team} (h : t.SameRegs u) (r : RegId) (L : Nat) (x : Word) : (t.store r L x).SameRegs (u.store r L x) := by
  obtain ⟨hv, hs, hk, hl⟩ := h
  cases r <;> simp only [Team.store, hl] <;> split <;> simp [Team.SameRegs, hv, hs, hk, hl]

theorem Team.sameRegs_fold {α : Type} (f : α → RegId × Nat × Word) (ws : List α) {t u : Team} (h : t.SameRegs u) :
    (ws.foldl (fun t w => t.store (f w).1 (f w).2.1 (f w).2.2) t).SameRegs (ws.foldl (fun t w => t.store (f w).1 (f w).2.1 (f w).2.2) u) := by
  induction ws generalizing t u with
  | nil => exact h
  | cons w ws ih => exact ih (Team.sameRegs_store h _ _ _)

/-- A stored register as a word. -/
def Team.rawVal (t : Team) (r : RegId) (L : Nat) : Word :=
  match r with
  | .v n => (getD 0 t.v (1024 * n + L)).setWidth 64
  | .s n => if n = 0 then 0 else getD 0 t.s n
  | .k n => bit (if t.lanes ≤ L then false else if n = 15 then true else (getD 0 t.k n).getLsbD L)

theorem Team.rawVal_congr {t u : Team} (h : t.SameRegs u) (r : RegId) (L : Nat) : t.rawVal r L = u.rawVal r L := by
  obtain ⟨hv, hs, hk, hl⟩ := h
  cases r <;> simp [Team.rawVal, hv, hs, hk, hl]

theorem Team.fresh_nil {t : Team} (h : t.pend = []) (r : RegId) (L : Nat) : t.fresh r L = none := by simp [Team.fresh, h]

theorem Team.endVal_eq {t : Team} (r : RegId) (L : Nat) : t.endVal r L = t.commit.rawVal r L := by
  have h : t.commit.pend = [] := rfl
  cases r <;> simp [Team.endVal, Team.rv, Team.rs, Team.rk, Team.fresh_nil h, Team.rawVal]

theorem Team.lanes_store (t : Team) (r : RegId) (L : Nat) (x : Word) : (t.store r L x).lanes = t.lanes := by
  cases r <;> simp only [Team.store] <;> split <;> rfl

/-- A write that a place of the team takes: a lane that exists, lane 0 for an s register. -/
def okWrite (lanes : Nat) (w : RegId × Nat × Word) : Prop := w.1.place w.2.1 ∧ match w.1 with | .s _ => True | _ => w.2.1 < lanes

/-- A cleared bit. -/
theorem clearBit (M b : Mask) {L : Nat} (h : L < 1024) : (M &&& ~~~b).getLsbD L = (M.getLsbD L && !b.getLsbD L) := by
  rw [BitVec.getLsbD_and, BitVec.getLsbD_not]; simp [h]

/-- The mask of one lane. -/
theorem oneBit (L' : Nat) {L : Nat} (h : L < 1024) : (BitVec.ofNat 1024 (2 ^ L')).getLsbD L = decide (L' = L) := by
  rw [BitVec.getLsbD_ofNat, Nat.testBit_two_pow]; simp [h]

theorem Team.rawVal_store {t : Team} {w : RegId × Nat × Word} (hw : okWrite t.lanes w) {r : RegId} {L : Nat} (hp : r.place L) :
    (t.store w.1 w.2.1 w.2.2).rawVal r L = if w.1 = r ∧ w.2.1 = L then r.holds w.2.2 else t.rawVal r L := by
  obtain ⟨r', L', x⟩ := w
  cases r' with
  | v m =>
    have hl : L' < t.lanes := hw.2
    have h1 : L' < 1024 := hw.1
    cases r with
    | v n =>
      have h2 : L < 1024 := hp
      simp only [Team.store, hl, if_true, Team.rawVal, getD_setD, RegId.v.injEq]
      by_cases h : m = n ∧ L' = L
      · simp [h.1, h.2, RegId.holds]
      · have : ¬ (1024 * n + L = 1024 * m + L') := by omega
        simp [h, this]
    | s n => simp [Team.store, hl, Team.rawVal]
    | k n => simp [Team.store, hl, Team.rawVal]
  | s m =>
    cases r with
    | v n => simp only [Team.store]; split <;> simp [Team.rawVal]
    | s n =>
      have h0 : L' = 0 := hw.1
      have h1 : L = 0 := hp
      by_cases hm : m = 0
      · by_cases hn : m = n
        · simp [Team.rawVal, RegId.holds, hm, ← hn, h0, h1]
        · simp [Team.store, hm, Team.rawVal]; intro h; omega
      · by_cases hn : m = n
        · subst hn; simp [Team.store, Team.rawVal, getD_setD, RegId.holds, hm, h0, h1]
        · have : ¬ n = m := fun h => hn h.symm
          simp [Team.store, Team.rawVal, getD_setD, hm, hn, this]
    | k n => simp only [Team.store]; split <;> simp [Team.rawVal]
  | k m =>
    have hl : L' < t.lanes := hw.2
    have h1 : L' < 1024 := hw.1
    have hnl : ¬ t.lanes ≤ L' := by omega
    cases r with
    | v n => simp only [Team.store]; split <;> simp [Team.rawVal]
    | s n => simp only [Team.store]; split <;> simp [Team.rawVal]
    | k n =>
      have h2 : L < 1024 := hp
      by_cases hm : m = 15
      · by_cases hn : m = n ∧ L' = L
        · obtain ⟨rfl, rfl⟩ := hn
          simp [Team.store, Team.rawVal, RegId.holds, hm, hnl, bit]
        · simp [Team.store, hm, Team.rawVal]
          intro h h'; subst h; exact absurd ⟨hm, h'⟩ hn
      · have hc : ¬ (m = 15 ∨ t.lanes ≤ L') := by simp [hm, hnl]
        obtain ⟨b, hb⟩ : ∃ b, b = BitVec.ofNat 1024 (2 ^ L') := ⟨_, rfl⟩
        have hbit : b.getLsbD L = decide (L' = L) := by rw [hb]; exact oneBit L' h2
        simp only [Team.store, hc, if_false, Team.rawVal, getD_setD]
        rw [← hb]
        by_cases hn : m = n
        · subst hn
          by_cases hL : L' = L
          · subst hL
            by_cases hx : x.getLsbD 0 = true
            · simp only [hx, if_true, hnl, if_false, hm, true_and, RegId.holds, BitVec.getLsbD_or, hbit]; simp [bit]
            · have e := clearBit (getD 0 t.k m) b h2
              rw [hbit] at e
              rw [if_neg hx, if_pos rfl, e]; simp only [RegId.holds, hnl, if_false, hm]; simp only [bit]; simp; simpa using hx
          · by_cases hx : x.getLsbD 0 = true
            · simp only [hx, if_true, BitVec.getLsbD_or, hbit, hL]; simp
            · have e := clearBit (getD 0 t.k m) b h2
              rw [hbit] at e
              rw [if_neg hx, if_pos rfl, e]; simp [hL]
        · have : ¬ n = m := fun h => hn h.symm
          simp [hn, this]

/-- What a place holds after a list of writes: the last one's value, or what it held. -/
theorem Team.rawVal_fold (ws : List (RegId × Nat × Word)) {t : Team} (hw : ∀ w ∈ ws, okWrite t.lanes w) {r : RegId} {L : Nat} (hp : r.place L) :
    (ws.foldl (fun t w => t.store w.1 w.2.1 w.2.2) t).rawVal r L = match lastWrite ws r L with | some x => r.holds x | none => t.rawVal r L := by
  induction ws generalizing t with
  | nil => rfl
  | cons w ws ih =>
    have hl : (t.store w.1 w.2.1 w.2.2).lanes = t.lanes := Team.lanes_store _ _ _ _
    have h := ih (t := t.store w.1 w.2.1 w.2.2) (by rw [hl]; exact fun x hx => hw x (List.mem_cons_of_mem _ hx))
    simp only [List.foldl_cons, h]
    have hs := Team.rawVal_store (hw w List.mem_cons_self) hp
    unfold lastWrite
    by_cases hc : w.1 = r ∧ w.2.1 = L
    · simp only [List.filter_cons, hc.1, hc.2, beq_self_eq_true, Bool.and_self, if_true]
      cases hf : List.filter (fun w => w.1 == r && w.2.1 == L) ws with
      | nil => simpa [hc.1, hc.2] using hs
      | cons a l => simp [List.getLast?_cons_cons]; rw [List.getLast?_eq_some_getLast (by simp)]; rfl
    · have : (w.1 == r && w.2.1 == L) = false := by simpa using hc
      simp only [List.filter_cons, this, Bool.false_eq_true, if_false]
      cases hf : (List.filter (fun w => w.1 == r && w.2.1 == L) ws).getLast? with
      | none => simp [hs, hc]
      | some a => simp

theorem Team.commit_sameRegs (t : Team) : t.commit.SameRegs (t.pend.foldl (fun u e => u.store e.reg e.lane e.val) t) := ⟨rfl, rfl, rfl, rfl⟩

theorem Team.dueParts_overwrite (t : Team) (ws : List (RegId × Nat)) (r : RegId) (L : Nat) :
    (t.overwrite ws).dueParts r L = if (ws.any fun w => w.1 == r && w.2 == L) then [] else t.dueParts r L := by
  simp only [Team.dueParts, Team.overwrite]
  induction t.outst with
  | nil => simp
  | cons o os ih =>
    simp only [List.map_cons, List.flatMap_cons, List.filter_append]
    rw [ih]
    suffices hf : List.filter (fun q : Part => !q.stale && (q.reg == r && q.lane == L))
        (o.parts.map fun q => { q with stale := q.stale || ws.any fun w => w.1 == q.reg && w.2 == q.lane })
        = if (ws.any fun w => w.1 == r && w.2 == L) then [] else List.filter (fun q => !q.stale && (q.reg == r && q.lane == L)) o.parts by
      rw [hf]; split <;> simp
    induction o.parts with
    | nil => simp
    | cons q qs ih =>
      rw [List.map_cons, List.filter_cons, List.filter_cons, ih]
      by_cases hq : q.reg = r ∧ q.lane = L
      · by_cases h : (ws.any fun w => w.1 == r && w.2 == L) = true
        · simp only [hq.1, hq.2, h]; simp
        · simp only [Bool.not_eq_true] at h; simp only [hq.1, hq.2, h, Bool.or_false]
          obtain ⟨_, _, _, _, _⟩ := q
          obtain ⟨rfl, rfl⟩ := hq; rfl
      · have : (q.reg == r && q.lane == L) = false := by simpa using hq
        simp [this]

theorem lastWrite_none {ws : List (RegId × Nat × Word)} {r : RegId} {L : Nat} :
    lastWrite ws r L = none ↔ (ws.any fun w => w.1 == r && w.2.1 == L) = false := by
  simp [lastWrite, List.any_eq_false]

/-- Short-latency writes leave the team as Wrote says. -/
theorem Team.wrote_write (t : Team) (lat : Nat) (ws : List (RegId × Nat × Word)) (hw : ∀ w ∈ ws, okWrite t.lanes w) : t.Wrote (t.write lat ws) ws := by
  intro r L hp
  have hc : (t.write lat ws).commit.SameRegs (ws.foldl (fun u w => u.store w.1 w.2.1 w.2.2) t.commit) := by
    have h1 := Team.commit_sameRegs (t.write lat ws)
    have h2 : (t.write lat ws).pend = t.pend ++ ws.map fun w => (⟨t.word.getD 0, lat, w.1, w.2.1, w.2.2⟩ : Pend) := rfl
    rw [h2, List.foldl_append, List.foldl_map] at h1
    have h3 := Team.sameRegs_fold (fun e : Pend => (e.reg, e.lane, e.val)) t.pend (t := t.write lat ws) (u := t) ⟨rfl, rfl, rfl, rfl⟩
    have h4 := Team.sameRegs_fold (fun w : RegId × Nat × Word => w) ws h3
    have h5 := Team.sameRegs_fold (fun w : RegId × Nat × Word => w) ws (t := t.pend.foldl (fun u e => u.store e.reg e.lane e.val) t) (u := t.commit) ⟨rfl, rfl, rfl, rfl⟩
    exact ⟨h1.1.trans (h4.1.trans h5.1), h1.2.1.trans (h4.2.1.trans h5.2.1), h1.2.2.1.trans (h4.2.2.1.trans h5.2.2.1), h1.2.2.2.trans (h4.2.2.2.trans h5.2.2.2)⟩
  have hlanes : ∀ (l : List Pend) (u : Team), (l.foldl (fun u e => u.store e.reg e.lane e.val) u).lanes = u.lanes := by
    intro l; induction l with
    | nil => intro u; rfl
    | cons e l ih => intro u; rw [List.foldl_cons, ih, Team.lanes_store]
  have hl : t.commit.lanes = t.lanes := hlanes t.pend t
  have hv : (t.write lat ws).endVal r L = match lastWrite ws r L with | some x => r.holds x | none => t.endVal r L := by
    rw [Team.endVal_eq, Team.rawVal_congr hc, Team.rawVal_fold ws (by rw [hl]; exact hw) hp, Team.endVal_eq]
  have hd : (t.write lat ws).dueParts r L = if (ws.any fun w => w.1 == r && w.2.1 == L) then [] else t.dueParts r L := by
    have := Team.dueParts_overwrite t (ws.map fun w => (w.1, w.2.1)) r L
    simp only [List.any_map] at this
    exact this
  cases hx : lastWrite ws r L with
  | none =>
    simp only [hx] at hv ⊢
    rw [lastWrite_none] at hx
    exact ⟨hv, by rw [hd, hx]; rfl⟩
  | some x =>
    simp only [hx] at hv ⊢
    refine ⟨hv, ?_⟩
    have : (ws.any fun w => w.1 == r && w.2.1 == L) = true := by
      by_contra hn
      have := lastWrite_none.mpr (Bool.not_eq_true _ ▸ hn)
      rw [this] at hx; cases hx
    rw [hd, this]; rfl

/-! ## How a word ends -/

theorem Team.endVal_commit (t : Team) (r : RegId) (L : Nat) : t.commit.endVal r L = t.endVal r L := by
  rw [Team.endVal_eq, Team.endVal_eq]; rfl

theorem Team.endVal_congr {t u : Team} (h : t.SameRegs u) (hp : t.pend = u.pend) (r : RegId) (L : Nat) : t.endVal r L = u.endVal r L := by
  rw [Team.endVal_eq, Team.endVal_eq]
  apply Team.rawVal_congr
  have h1 := Team.sameRegs_fold (fun e : Pend => (e.reg, e.lane, e.val)) u.pend h
  have h2 := Team.commit_sameRegs t
  have h3 := Team.commit_sameRegs u
  rw [hp] at h2
  exact ⟨h2.1.trans (h1.1.trans h3.1.symm), h2.2.1.trans (h1.2.1.trans h3.2.1.symm), h2.2.2.1.trans (h1.2.2.1.trans h3.2.2.1.symm),
    h2.2.2.2.trans (h1.2.2.2.trans h3.2.2.2.symm)⟩

/-- The value of a part made of a known value that the register holds. -/
theorem Part.val_ofVal_v (n L : Nat) (x : Lane32) : (Part.ofVal (.v n) L (x.setWidth 64)).val = some (x.setWidth 64) := by
  have h : ∀ a b c d : Byte, ((Part.mk (.v n) L [.known a, .known b, .known c, .known d] false false).val) = some (BitVec.ofNat 64 (natOfBytes [a, b, c, d])) := fun _ _ _ _ => rfl
  have e : x.toNat < 2 ^ 32 := x.isLt
  have hm : x.toNat % 2 ^ 64 = x.toNat := Nat.mod_eq_of_lt (by omega)
  simp only [Part.ofVal, bytesOf, List.map_cons, List.map_nil, BitVec.toNat_setWidth, hm, h]
  simp only [natOfBytes, BitVec.toNat_ofNat]
  congr 1
  apply BitVec.eq_of_toNat_eq
  simp only [BitVec.toNat_ofNat, BitVec.toNat_setWidth]
  omega

theorem Part.val_ofVal_s (n L : Nat) (x : Word) : (Part.ofVal (.s n) L x).val = some x := by
  have h : ∀ a b c d e f g i : Byte, ((Part.mk (.s n) L [.known a, .known b, .known c, .known d, .known e, .known f, .known g, .known i] false false).val)
      = some (BitVec.ofNat 64 (natOfBytes [a, b, c, d, e, f, g, i])) := fun _ _ _ _ _ _ _ _ => rfl
  have e : x.toNat < 2 ^ 64 := x.isLt
  simp only [Part.ofVal, bytesOf, List.map_cons, List.map_nil, h]
  simp only [natOfBytes, BitVec.toNat_ofNat]
  congr 1
  apply BitVec.eq_of_toNat_eq
  simp only [BitVec.toNat_ofNat]
  omega

theorem Part.val_ofVal_k (n L : Nat) (b : Bool) : (Part.ofVal (.k n) L (bit b)).val = some (bit b) := by cases b <;> rfl

/-- A result of known parts, one a place, leaves the team as WroteLong says. -/
theorem Team.wroteLong_writeLong (t : Team) (ps : List Part) (ws : List (RegId × Nat × Word))
    (hs : ∀ q ∈ ps, q.stale = false) (h : (ps.map fun q => (q.reg, q.lane, q.val)) = ws.map fun w => (w.1, w.2.1, some w.2.2))
    (hn : (ws.map fun w => (w.1, w.2.1)).Nodup) : t.WroteLong (t.writeLong ps) ws := by
  intro r L _
  refine ⟨by refine Team.endVal_congr ?_ ?_ r L; exact ⟨rfl, rfl, rfl, rfl⟩; rfl, ?_⟩
  have hd : (t.writeLong ps).dueParts r L = (t.overwrite (ps.map fun q => (q.reg, q.lane))).dueParts r L ++ ps.filter fun q => q.reg == r && q.lane == L := by
    have hf : ps.filter (fun q => !q.stale && (q.reg == r && q.lane == L)) = ps.filter fun q => q.reg == r && q.lane == L :=
      List.filter_congr fun q hq => by simp [hs q hq]
    simp only [Team.dueParts, Team.writeLong, List.flatMap_append, List.filter_append, List.flatMap_cons, List.flatMap_nil, List.append_nil, hf]
  have hp : (ps.filter fun q => q.reg == r && q.lane == L).map (fun q => (q.reg, q.lane, q.val))
      = (ws.filter fun w => w.1 == r && w.2.1 == L).map fun w => (w.1, w.2.1, some w.2.2) := by
    have h1 := List.filter_map (f := fun q : Part => (q.reg, q.lane, q.val)) (p := fun x => x.1 == r && x.2.1 == L) (l := ps)
    have h2 := List.filter_map (f := fun w : RegId × Nat × Word => (w.1, w.2.1, some w.2.2)) (p := fun x => x.1 == r && x.2.1 == L) (l := ws)
    rw [h] at h1
    exact h1.symm.trans h2
  have hany : (ps.map fun q => (q.reg, q.lane)) = ws.map fun w => (w.1, w.2.1) := by
    have := congrArg (List.map fun x : RegId × Nat × Option Word => (x.1, x.2.1)) h
    simpa [List.map_map, Function.comp_def] using this
  have hov := Team.dueParts_overwrite t (ps.map fun q => (q.reg, q.lane)) r L
  rw [hany] at hov
  simp only [List.any_map, Function.comp_def] at hov
  rw [hany] at hd
  rw [hov] at hd
  have hval : (ps.filter fun q => q.reg == r && q.lane == L).map (·.val) = (ws.filter fun w => w.1 == r && w.2.1 == L).map fun w => some w.2.2 := by
    have := congrArg (List.map fun x : RegId × Nat × Option Word => x.2.2) hp
    simpa [List.map_map, Function.comp_def] using this
  cases hx : lastWrite ws r L with
  | none =>
    have hf := lastWrite_none.mp hx
    have hnil : ps.filter (fun q => q.reg == r && q.lane == L) = [] := by
      have h0 : ws.filter (fun w => w.1 == r && w.2.1 == L) = [] := by
        apply List.filter_eq_nil_iff.mpr; intro w hw; simpa using List.any_eq_false.mp hf w hw
      rw [h0] at hp; simpa using hp
    simp [hd, hf, hnil]
  | some x =>
    obtain ⟨w, hw, hwx⟩ : ∃ w, (ws.filter fun w => w.1 == r && w.2.1 == L).getLast? = some w ∧ w.2.2 = x := by
      simpa [lastWrite, Option.map_eq_some_iff] using hx
    have hone : ws.filter (fun w => w.1 == r && w.2.1 == L) = [w] := by
      have hnd : ((ws.filter fun w => w.1 == r && w.2.1 == L).map fun w => (w.1, w.2.1)).Nodup := hn.sublist (List.Sublist.map _ List.filter_sublist)
      have hall : ∀ y ∈ ws.filter (fun w => w.1 == r && w.2.1 == L), (y.1, y.2.1) = (r, L) := by
        intro y hy; have := (List.mem_filter.mp hy).2; simp only [Bool.and_eq_true, beq_iff_eq] at this; rw [this.1, this.2]
      revert hw hnd hall
      generalize List.filter (fun w => w.1 == r && w.2.1 == L) ws = l
      intro hw hnd hall
      match l, hw, hnd, hall with
      | [y], hw, _, _ => simpa using hw
      | y :: z :: l, _, hnd, hall =>
        have h1 := hall y (by simp)
        have h2 := hall z (by simp)
        simp only [List.map_cons, h1, h2] at hnd
        simp at hnd
    have hany' : (ws.any fun w => w.1 == r && w.2.1 == L) = true := by
      by_contra hc; rw [lastWrite_none.mpr (by simpa only [Bool.not_eq_true] using hc)] at hx; cases hx
    rw [hd, hany']
    rw [hone] at hval
    simp only [if_true, List.nil_append, hval]
    simp [hwx]

/-- Nothing but the place in the program changes: registers and outstanding results are as they were. -/
def Team.Moved (t t' : Team) : Prop := t.Kept t' ∧ (∀ r L, t'.endVal r L = t.endVal r L) ∧ ∀ r L, t'.dueParts r L = t.dueParts r L

/-- The fields of a team that a write of a register keeps. -/
theorem Team.store_kept (t : Team) (r : RegId) (L : Nat) (x : Word) : t.store r L x = { t with v := (t.store r L x).v, s := (t.store r L x).s, k := (t.store r L x).k } := by
  cases r <;> simp only [Team.store] <;> split <;> rfl

theorem Team.fold_kept (l : List Pend) (t : Team) : ∃ v s k, l.foldl (fun u e => u.store e.reg e.lane e.val) t = { t with v := v, s := s, k := k } := by
  induction l generalizing t with
  | nil => exact ⟨t.v, t.s, t.k, rfl⟩
  | cons e l ih =>
    obtain ⟨v, s, k, h⟩ := ih (t.store e.reg e.lane e.val)
    refine ⟨v, s, k, ?_⟩
    rw [List.foldl_cons, h, Team.store_kept]

theorem Team.commit_kept (t : Team) : ∃ v s k, t.commit = { t with v := v, s := s, k := k, pend := [], outst := t.commit.outst } := by
  obtain ⟨v, s, k, h⟩ := Team.fold_kept t.pend t
  refine ⟨v, s, k, ?_⟩
  simp only [Team.commit, h]

/-- The end of a clause discards only results that nothing waits for any more. -/
theorem Team.dueParts_commit (t : Team) (r : RegId) (L : Nat) : t.commit.dueParts r L = t.dueParts r L := by
  simp only [Team.dueParts, Team.commit]
  induction t.outst with
  | nil => rfl
  | cons o os ih =>
    simp only [List.map_cons, List.flatMap_cons, List.filter_append, ih, List.filter_filter]
    congr 1
    exact List.filter_congr fun q _ => by cases q.stale <;> simp

theorem Team.endClause_moved (t : Team) (now : Nat) (pc : Word) : t.Moved (t.endClause now pc) ∧ (t.endClause now pc).pc = pc ∧ (t.endClause now pc).word = none := by
  obtain ⟨v, s, k, h⟩ := Team.commit_kept t
  refine ⟨⟨?_, fun r L => ?_, fun r L => ?_⟩, rfl, rfl⟩
  · unfold Team.Kept Team.endClause Team.noteEnd; rw [h]
  · rw [← Team.endVal_commit t]
    exact Team.endVal_congr ⟨rfl, rfl, rfl, rfl⟩ rfl r L
  · exact Team.dueParts_commit t r L

theorem Team.passWord_moved (t : Team) (now : Nat) (t' : Team)
    (h : t' = if t.word.getD 0 < t.hdr.n.toNat then { t with word := some (t.word.getD 0 + 1), retry := none, cause := {}, relWait := none, latch := none, brought := [], fails := [], run := .running }
      else t.endClause now t.nextPc) : t.Moved t' ∧ t.Next t' := by
  subst h
  by_cases hj : t.word.getD 0 < t.hdr.n.toNat
  · simp only [hj, if_true]
    exact ⟨⟨rfl, fun r L => by refine Team.endVal_congr ?_ ?_ r L; exact ⟨rfl, rfl, rfl, rfl⟩; rfl, fun r L => rfl⟩, by simp [Team.Next, hj]⟩
  · simp only [hj, if_false]
    obtain ⟨h1, h2, h3⟩ := Team.endClause_moved t now t.nextPc
    exact ⟨h1, by simp [Team.Next, hj, h2, h3]⟩

/-- What the switch marker does to a team that is not stepped. -/
theorem State.settle_setTeam (s : State) (tk : Nat) (t : Team) (z : Bool) (hs : t.stepping = none) :
    ∃ run adm slot, (s.setTeam tk t).settle tk z = s.setTeam tk { t with run := run, admitted := adm, inSlot := slot } := by
  simp only [State.settle, State.team_setTeam, hs, Option.isSome_none, Bool.false_eq_true, if_false]
  split
  · exact ⟨_, _, _, State.setTeam_setTeam _ _ _ _⟩
  · exact ⟨t.run, t.admitted, t.inSlot, by rw [← hs]⟩

/-- Where a team stands has no part in its registers. -/
theorem Team.Moved.stand {t t' : Team} (h : t.Moved t') (run : Run) (adm slot : Bool) : t.Moved { t' with run := run, admitted := adm, inSlot := slot } := by
  refine ⟨?_, fun r L => ?_, fun r L => h.2.2 r L⟩
  · have := h.1; unfold Team.Kept at this ⊢; rw [this]
  · rw [← h.2.1 r L]; refine Team.endVal_congr ?_ ?_ r L; exact ⟨rfl, rfl, rfl, rfl⟩; rfl

theorem Team.Kept.stepping {t t' : Team} (h : t.Kept t') : t'.stepping = t.stepping := by unfold Team.Kept at h; rw [h]

/-- A word that retires in a state in which its team stands at u leaves that state with the team moved on. -/
theorem Act.finish_retire {s : State} {tk : Nat} {u : Team} (z : Bool) (h : s.team tk = some u) (hs : u.stepping = none) :
    ∃ t', (Act.retire s).finish tk z = s.setTeam tk t' ∧ u.Moved t' ∧ u.Next t' := by
  obtain ⟨hm, hn⟩ := Team.passWord_moved u s.now _ rfl
  have h1 := State.updTeam_some h fun t =>
    if t.word.getD 0 < t.hdr.n.toNat then { t with word := some (t.word.getD 0 + 1), retry := none, cause := {}, relWait := none, latch := none, brought := [], fails := [], run := .running }
    else t.endClause s.now t.nextPc
  obtain ⟨run, adm, slot, h2⟩ := State.settle_setTeam s tk _ z (hm.1.stepping.trans hs)
  refine ⟨_, ?_, hm.stand run adm slot, ?_⟩
  · show (s.passWord tk).settle tk z = _
    exact (congrArg (fun x => State.settle x tk z) h1).trans h2
  · unfold Team.Next at hn ⊢; exact hn

/-- A word that jumps. -/
theorem Act.finish_jump {s : State} {tk : Nat} {u : Team} (z : Bool) (pc : Word) (h : s.team tk = some u) (hs : u.stepping = none) :
    ∃ t', (Act.jump s pc).finish tk z = s.setTeam tk t' ∧ u.Moved t' ∧ t'.pc = pc ∧ t'.word = none := by
  obtain ⟨hm, h3, h4⟩ := Team.endClause_moved u s.now pc
  have h1 := State.updTeam_some h fun t => t.endClause s.now pc
  obtain ⟨run, adm, slot, h2⟩ := State.settle_setTeam s tk _ z (hm.1.stepping.trans hs)
  refine ⟨_, ?_, hm.stand run adm slot, h3, h4⟩
  show (s.updTeam tk fun t => t.endClause s.now pc).settle tk z = _
  exact (congrArg (fun x => State.settle x tk z) h1).trans h2

/-! ## Completion -/

theorem Team.Wrote.moved {t u t' : Team} {ws : List (RegId × Nat × Word)} (h : t.Wrote u ws) (hm : u.Moved t') : t.Wrote t' ws := by
  intro r L hp
  have := h r L hp
  revert this
  cases lastWrite ws r L <;> simp only [hm.2.1, hm.2.2] <;> exact id

theorem Team.wrote_nil (t : Team) : t.Wrote t [] := fun _ _ _ => ⟨rfl, rfl⟩

theorem Team.Kept.trans {t u t' : Team} (h : t.Kept u) (hm : u.Kept t') : t.Kept t' := by unfold Team.Kept at *; rw [hm, h]

/-- Registers and results written first, then the word retires. -/
theorem ends_retire {s s2 : State} {tk : Nat} {t u : Team} {z : Bool} {ws : List (RegId × Nat × Word)} (h : s.team tk = some u) (hs : u.stepping = none)
    (h2 : ∀ x, s.setTeam tk x = s2.setTeam tk x) (hk : t.Kept u) (hn : u.pc = t.pc ∧ u.word = t.word) (hw : t.Wrote u ws) :
    Ends (.next ((Act.retire s).finish tk z)) s2 tk t ws := by
  obtain ⟨t', h3, h4, h5⟩ := Act.finish_retire z h hs
  refine ⟨t', by rw [h3, h2], hk.trans h4.1, ?_, hw.moved h4⟩
  have hh : u.hdr = t.hdr := by unfold Team.Kept at hk; rw [hk]
  unfold Team.Next at h5 ⊢
  simpa only [hn.1, hn.2, hh, Team.nextPc] using h5

theorem Team.WroteLong.moved {t u t' : Team} {ws : List (RegId × Nat × Word)} (h : t.WroteLong u ws) (hm : u.Moved t') : t.WroteLong t' ws := by
  intro r L hp
  have := h r L hp
  revert this
  cases lastWrite ws r L <;> simp only [hm.2.1, hm.2.2] <;> exact id

theorem endsLong_retire {s s2 : State} {tk : Nat} {t u : Team} {z : Bool} {ws : List (RegId × Nat × Word)} (h : s.team tk = some u)
    (hs : u.stepping = none) (h2 : ∀ x, s.setTeam tk x = s2.setTeam tk x) (hk : t.Kept u) (hn : u.pc = t.pc ∧ u.word = t.word) (hw : t.WroteLong u ws) :
    EndsLong (.next ((Act.retire s).finish tk z)) s2 tk t ws := by
  obtain ⟨t', h3, h4, h5⟩ := Act.finish_retire z h hs
  refine ⟨t', by rw [h3, h2], hk.trans h4.1, ?_, hw.moved h4⟩
  have hh : u.hdr = t.hdr := by unfold Team.Kept at hk; rw [hk]
  unfold Team.Next at h5 ⊢
  simpa only [hn.1, hn.2, hh, Team.nextPc] using h5

theorem jumps_jump {s s2 : State} {tk : Nat} {t u : Team} {z : Bool} {pc : Word} (h : s.team tk = some u) (hs : u.stepping = none)
    (h2 : ∀ x, s.setTeam tk x = s2.setTeam tk x) (hm : t.Moved u) : Jumps (.next ((Act.jump s pc).finish tk z)) s2 tk t pc := by
  obtain ⟨t', h3, h4, h5, h6⟩ := Act.finish_jump z pc h hs
  exact ⟨t', by rw [h3, h2], hm.1.trans h4.1, h5, h6, ((Team.wrote_nil t).moved hm).moved h4⟩

/-- A team that no reeve steps parks with what its word has done. -/
theorem Act.unstep_none {a : Act} {s : State} {t : Team} (h : t.stepping = none) : a.unstep s t = a := by
  cases a <;> simp [Act.unstep, h]

/-- What issue answers for a team whose word may issue. -/
theorem issue_next {s : State} {t : Team} {i : Instr} {h : Hdr} (hi : s.Issues t i h) (body : State → Nat → Team → Act) :
    issue i h body s = .next ((body s s.cur t).finish s.cur h.z) := by
  obtain ⟨h1, h2, h3, h4, h5⟩ := hi
  unfold issue
  simp only [h1, h2, h3, Bool.false_eq_true, if_false, Act.unstep_none h5]
  rcases h4 with h4 | h4 | h4
  · simp [h4]
  · simp only [h4]
    cases t.tryR.isSome && t.doesAct i h <;> rfl
  · simp [h4]

/-- Every lane in Active exists and is below 1,024. -/
theorem Team.act_lt {t : Team} {h : Hdr} {L : Nat} (hL : L ∈ t.act h) : L < t.lanes ∧ L < 1024 := by
  simp only [Team.act, lanesOf, List.mem_filter, List.mem_range] at hL
  exact ⟨hL.1, BitVec.lt_of_getLsbD hL.2⟩

/-- A vector word of short latency completes: its writes, and nothing else. -/
theorem vec_ends {s : State} {t : Team} {i : Instr} {h : Hdr} (hi : s.Issues t i h) (lat : Nat) (f : Team → Mask → Nat → List (RegId × Word))
    (hf : ∀ L ∈ t.act h, ∀ w ∈ f t (t.lanesFor h) L, match w.1 with | .s _ => False | _ => True) :
    Ends (issue i h (vec h lat f) s) s s.cur t ((t.act h).flatMap fun L => (f t (t.lanesFor h) L).map fun w => (w.1, L, w.2)) := by
  rw [issue_next hi]
  have hw := Team.wrote_write t lat ((t.act h).flatMap fun L => (f t (t.lanesFor h) L).map fun w => (w.1, L, w.2)) (by
    intro w hw
    simp only [List.mem_flatMap, List.mem_map] at hw
    obtain ⟨L, hL, w', hw', rfl⟩ := hw
    obtain ⟨h1, h2⟩ := Team.act_lt hL
    have := hf L hL w' hw'
    unfold okWrite RegId.place
    revert this
    cases w'.1 <;> simp [h1, h2])
  exact ends_retire (State.team_setTeam _ _ _) hi.2.2.2.2 (fun x => State.setTeam_setTeam _ _ _ _) rfl ⟨rfl, rfl⟩ hw

/-- A vector word of long latency whose results are known completes. -/
theorem vecLong_ends {s : State} {t : Team} {i : Instr} {h : Hdr} (hi : s.Issues t i h) (f : Team → Mask → Nat → List (RegId × Word))
    (hf : ∀ L ∈ t.act h, ∀ w ∈ f t (t.lanesFor h) L, (Part.ofVal w.1 L w.2).val = some w.2)
    (hn : ∀ L ∈ t.act h, ((f t (t.lanesFor h) L).map (·.1)).Nodup) :
    EndsLong (issue i h (vecLong h f) s) s s.cur t ((t.act h).flatMap fun L => (f t (t.lanesFor h) L).map fun w => (w.1, L, w.2)) := by
  rw [issue_next hi]
  refine endsLong_retire (State.team_setTeam _ _ _) hi.2.2.2.2 (fun x => State.setTeam_setTeam _ _ _ _) rfl ⟨rfl, rfl⟩ ?_
  apply Team.wroteLong_writeLong
  · intro q hq
    obtain ⟨L, -, hq⟩ := List.mem_flatMap.mp hq
    obtain ⟨w, -, rfl⟩ := List.mem_map.mp hq
    rfl
  · show List.map _ (List.flatMap _ (t.act h)) = _
    simp only [List.map_flatMap, List.map_map]
    apply List.flatMap_congr
    intro L hL
    apply List.map_congr_left
    intro w hw
    simp only [Function.comp, hf L hL w hw]
    rfl
  · simp only [List.map_flatMap, List.map_map]
    rw [List.nodup_flatMap]
    refine ⟨fun L hL => ?_, ?_⟩
    · have := hn L hL
      have h2 : (List.map ((fun w : RegId × Nat × Word => (w.1, w.2.1)) ∘ fun w : RegId × Word => (w.1, L, w.2)) (f t (t.lanesFor h) L))
          = ((f t (t.lanesFor h) L).map (·.1)).map fun r => (r, L) := by simp [List.map_map, Function.comp_def]
      rw [h2]
      exact this.map fun a b hab => (Prod.mk.inj hab).1
    · have hnd : (t.act h).Nodup := (List.nodup_range).filter _
      refine hnd.imp fun {a b} hab => ?_
      simp only [Function.onFun, List.disjoint_left, List.mem_map, Function.comp]
      rintro x ⟨w, -, rfl⟩ ⟨w', -, hw'⟩
      exact hab (Prod.mk.inj hw').2.symm

/-- A word that acts once and writes an s register with a long latency, in a state that differs in nothing of its team. -/
theorem longS_ends {s s2 : State} {tk : Nat} {t : Team} {z : Bool} (n : Nat) (x : Word) (h : s.team tk = some (t.longS n x)) (hs : t.stepping = none)
    (h2 : ∀ y, s.setTeam tk y = s2.setTeam tk y) : UniEndsLong (.next ((Act.retire s).finish tk z)) s2 tk t n x := by
  refine endsLong_retire h hs h2 rfl ⟨rfl, rfl⟩ ?_
  apply Team.wroteLong_writeLong
  · intro q hq; rw [List.mem_singleton.mp hq]; rfl
  · simp only [List.map_cons, List.map_nil, Part.val_ofVal_s]; rfl
  · simp

/-- A word that acts once and writes an s register with a short latency. -/
theorem toS_ends {s : State} {t : Team} {i : Instr} {h : Hdr} (hi : s.IssuesOnce t i h) (lat n : Nat) (f : Team → Word) :
    Ends (issue i h (toS h lat n f) s) s s.cur t [(.s n, 0, f t)] := by
  rw [issue_next hi.1]
  have hw := Team.wrote_write t lat [(.s n, 0, f t)] (by intro w hw; simp only [List.mem_singleton] at hw; subst hw; exact ⟨rfl, trivial⟩)
  simp only [toS, once, hi.2, if_true]
  exact ends_retire (State.team_setTeam _ _ _) hi.1.2.2.2.2 (fun x => State.setTeam_setTeam _ _ _ _) rfl ⟨rfl, rfl⟩ hw

end Sys2Proof.Machine
end

