-- ==== Sys2Proof/Tests/Slice0.lean ====
section
/-! SUPPORT. Tests: words written out from the spec's encodings decode to their instructions, ill-formed terms are refused, single steps give
the results that the spec's examples and tables name, and every statement's premises are met somewhere. -/

namespace Sys2Proof.Tests

open Sys2Proof Sys2Proof.Machine Host

set_option Elab.async false

/-! ## Decoding (Tables 02-1 to 02-10) -/

def hd : Hdr := ⟨false, false, 15⟩
def word (w : Nat) : Option Instr := decodeTableWord 64 w

-- the worked words of 02, 04, 05, 06 and 07
theorem test_decode_integer : word 0x001E080406012000 = some (.iadd hd ⟨4, 2, 3, 0, 9, 0, false, 0, 0⟩) ∧
    word 0x035E040000012001 = some (.icmp hd ⟨2, 0, 0, 0, 9, 0, false, 0, 1⟩) ∧
    word 0x039E0C00040120B1 = some (.lea hd ⟨6, 0, 2, 0, 9, 0, false, 11, 1⟩) := by decide +kernel
-- OP 0x020: d << 41, a << 33, imm << 1
theorem test_decode_immediate : word 0x081E02040000000A = some (.iaddImm hd ⟨1, 2, 5, false⟩) := by decide +kernel
theorem test_decode_float : word 0x909E0A080C0E0000 = some (.ffma ⟨true, false, 15⟩ ⟨5, 4, 6, 7, 0, 0, false, 0, 0⟩) ∧
    word 0x114A06201E000040 = some (.fcmp ⟨false, false, 5⟩ ⟨3, 16, 15, 0, 0, 0, false, 4, 0⟩) ∧
    word 0x141E020400000000 = some (.frcp hd ⟨1, 2, 0, 0, 0, 0, false, 0, 0⟩) := by decide +kernel
theorem test_decode_conversion : word 0x1C1E020400002000 = some (.cvt hd ⟨1, 2, 0, 0, 1, 0, false, 0, 0⟩) := by decide +kernel
theorem test_decode_lanes : word 0xA04A220600000020 = some (.voteBallot ⟨true, false, 5⟩ ⟨17, 3, 0, 0, 0, 0, false, 2, 0⟩) ∧
    word 0x241E020400012010 = some (.redg hd ⟨1, 2, 0, 0, 9, 0, false, 1, 0⟩) := by decide +kernel
theorem test_decode_uniform : word 0x281E084180000000 = some (.sadd hd ⟨1, 2, 3, 0, 0, false⟩) := by decide +kernel
theorem test_decode_control : word 0x2E9FFFFFFFF001E0 = some (.endloop hd ⟨-8, 0, false, false, 15, 0⟩) ∧
    word 0x2C1FFFFFFFFC2401 = some (.bra hd ⟨-2, 4, true, false, 0, 1⟩) := by decide +kernel
theorem test_decode_memory : word 0x301E100420080388 = some (.ld hd ⟨8, 2, 4, 0x100, 3, 4, 1, false, false, false⟩) ∧
    word 0xB09E100600000300 = some (.lds ⟨true, false, 15⟩ ⟨8, 3, 0, 0, 3, 0, 0, false, false, false⟩) ∧
    word 0x34DE0000000000B8 = some (.fence hd ⟨0, 0, 0, 0, 0, 5, 3, false, false, false⟩) := by decide +kernel
theorem test_decode_atomics : word 0xC1DE0800300003A0 = some (.atom ⟨true, false, 15⟩ 7 ⟨4, 0, 6, 0, 3, 5, 0, false, false, false⟩) ∧
    word 0x471E020400000200 = some (.reds hd 4 ⟨1, 2, 0, 0, 2, 0, 0, false, false, false⟩) := by decide +kernel
theorem test_decode_copy : word 0x481E005020000885 = some (.cpy hd ⟨0, 10, 1, 0, 17, 5⟩) := by decide +kernel
theorem test_decode_sync : word 0x4CDE002000020100 = some (.barSync hd ⟨0, 4, 0, 16, 2, 0⟩) ∧
    word 0x501E000000000103 = some (.bellRing hd ⟨0, 0, 0, 0, 2, 3⟩) ∧ word 0x541E000000008080 = some (.tryK hd ⟨0, 0, 0, 4, 1, 0⟩) := by decide +kernel
theorem test_decode_span : word 0x589E00222002A283 = some (.spanset hd ⟨0, 4, 17, 21, 5, 3⟩) ∧
    word 0xD95E081000000280 = some (.rmap ⟨true, false, 15⟩ ⟨4, 2, 0, 0, 5, 0⟩) := by decide +kernel
theorem test_decode_reeve : word 0x5C5E000A01400002 = some (.frd hd ⟨0, 0, 5, 0, 5, 2⟩) ∧
    word 0x5D1E000000000000 = some (.fresumeRetry hd ⟨0, 0, 0, 0, 0, 0⟩) ∧
    word 0x5D1E000000000001 = some (.fresumeSkip hd ⟨0, 0, 0, 0, 0, 1⟩) := by decide +kernel
theorem test_decode_system : word 0x615E003000020000 = some (.rdsr hd ⟨0, 6, 0, 16, 0, 0⟩) ∧
    word 0x611E00000000E000 = some (.trap hd ⟨0, 0, 0, 7, 0, 0⟩) ∧ word 0x641E101000000003 = some (.accrd hd ⟨8, 2, 0, 0, 0, 3⟩) := by decide +kernel
theorem test_decode_illegal : word 0x681E000000000000 = some (.opcodeIllegal hd 0x1A0 0) ∧ word 0x001E080406000000 = none := by decide +kernel
theorem test_decode_press : decodePress 0x0800120000000000 = .pfmt ⟨0, 36, 0, 0, 0, 0, 0, 0⟩ ∧
    decodePress 0x0C00000024000404 = .pmm ⟨0, 0, 18, 0, 0, 1, 1, 0⟩ ∧ decodePress 0x1C0012804C000404 = .pexp ⟨0, 37, 38, 0, 0, 1, 1, 0⟩ ∧
    decodePress 0x240012815C000404 = .prowsum ⟨0, 37, 174, 0, 0, 1, 1, 0⟩ ∧ decodePress 0x34000000000C0000 = .pbellr ⟨0, 0, 0, 0, 3, 0, 0, 0⟩ ∧
    decodePress 0x4800000000000000 = .pressWordRefused 0x4800000000000000 := by decide +kernel
theorem test_decode_header : decode .header (bytesOf 8 0x010000000000006B) = .ok (.clauseHeader ⟨0, 1, 0, false, 0, 0, false, 0, 0x6B⟩, []) ∧
    decode .header (bytesOf 8 0x010000000000006A) = .error .header ∧ decode .team [1, 2, 3] = .error .short := by decide +kernel
-- CMD 1 (RD32), TAG 5, WAY 1, ROW 3, SECTOR 4 (Table 10-17)
theorem test_decode_cellar : decodeCellar 0 2 7 [0x360000C020000000] =
    .ok (.rd32 0 2 7 ⟨1, 5, true, 3, 4, 0, 0, 0⟩) := by decide +kernel
theorem test_decode_command : decodeCommand 0 6 2 0 = .teamCtlSkip 0 ∧ decodeCommand 0 6 4 0 = .cmdUnknown 0 ∧
    decodeBar0 0 0x048 false 7 = .hreqHeadAdvance 0 7 := by decide +kernel

/-! ## Ill-formed terms, one for each check of the words alone (Table 02-4 checks 6 and 7, R62) -/

theorem test_refuses_vector_fields :
    [Instr.iadd hd ⟨4, 2, 3, 0, 0, 0, false, 0, 0⟩,  -- type
     .iabs hd ⟨4, 2, 1, 0, 9, 0, false, 0, 0⟩,  -- B unused
     .iadd hd ⟨4, 2, 3, 1, 9, 0, false, 0, 0⟩,  -- C unused
     .iadd hd ⟨4, 2, 3, 0, 9, 1, false, 0, 0⟩,  -- RM unused
     .imul hd ⟨4, 2, 3, 0, 9, 0, true, 0, 0⟩,  -- SAT unused
     .iadd hd ⟨4, 2, 3, 0, 9, 0, false, 2, 0⟩,  -- SUB
     .iadd hd ⟨4, 2, 3, 0, 9, 0, false, 0, 2⟩,  -- FL
     .iadd hd ⟨4, 2, 64, 0, 9, 0, false, 0, 1⟩,  -- s register above s63
     .icmp hd ⟨16, 2, 3, 0, 9, 0, false, 0, 0⟩,  -- predicate above k15
     .icmp hd ⟨1, 2, 3, 0, 9, 0, false, 6, 0⟩,  -- condition
     .iaddImm hd ⟨1, 64, 0, true⟩, .plane hd ⟨2, 4, 0, 0, 1, 0, false, 17, 0⟩, .redg hd ⟨1, 2, 0, 0, 9, 0, false, 6, 0⟩,
     .sadd hd ⟨1, 2, 3, 1, 0, false⟩, .sadd hd ⟨1, 2, 3, 0, 0, true⟩, .smov hd ⟨1, 2, 3, 0, 0, false⟩].all (fun i => !i.fieldOk) = true := by
  decide +kernel

theorem test_refuses_control_memory_fields :
    [Instr.bra ⟨false, false, 3⟩ ⟨1, 0, false, false, 1, 0⟩,  -- guarded control word
     .bra hd ⟨1, 0, false, true, 1, 0⟩,  -- res0
     .nop hd ⟨1, 0, false, false, 0, 0⟩,  -- OFF unused
     .bra hd ⟨1, 0, false, false, 0, 2⟩,  -- kind
     .ld hd ⟨8, 2, 4, 0, 5, 0, 0, false, false, false⟩,  -- SIZE
     .ld hd ⟨8, 2, 4, 0, 2, 0, 2, false, false, false⟩,  -- ORD
     .ld hd ⟨8, 2, 4, 0, 2, 6, 0, false, false, false⟩,  -- SCOPE
     .st hd ⟨8, 2, 4, 0, 2, 0, 0, true, false, false⟩,  -- PROBE
     .lds hd ⟨8, 2, 4, 0, 2, 0, 0, false, true, false⟩,  -- STRM
     .ld hd ⟨8, 2, 4, 0, 2, 0, 0, false, false, true⟩,  -- SX
     .cpy hd ⟨0, 10, 1, 32, 17, 5⟩,  -- bell operand
     .barSync hd ⟨0, 4, 0, 16, 6, 0⟩,  -- scope
     .bellRingSet hd ⟨0, 0, 0, 0, 8, 3⟩, .ringSend hd ⟨0, 1, 2, 0, 0, 0⟩, .abortK hd ⟨0, 0, 0, 256, 0, 0⟩,
     .frd hd ⟨0, 0, 0, 16, 2, 0⟩,  -- TREG
     .frd hd ⟨0, 0, 1, 1, 0, 0⟩,  -- SSEL unused
     .frd hd ⟨0, 0, 0, 0, 7, 0⟩,  -- FILE
     .acquire hd ⟨0, 0, 0, 12, 0, 0⟩, .rdsr hd ⟨1, 6, 0, 16, 0, 0⟩,
     .opcodeIllegal hd 0 0].all (fun i => !i.fieldOk) = true := by decide +kernel

theorem test_refuses_press_header_packet_fields :
    [Instr.pnop ⟨1, 0, 0, 0, 0, 0, 0, 0⟩, .pzero ⟨0, 1, 0, 0, 0, 0, 0, 0⟩, .pzero ⟨0, 0, 1, 0, 0, 0, 0, 0⟩, .pzero ⟨0, 0, 0, 1, 0, 0, 0, 0⟩,
     .pzero ⟨0, 0, 0, 0, 1, 0, 0, 0⟩, .pzero ⟨0, 0, 0, 0, 0, 1, 0, 0⟩, .pzero ⟨0, 0, 0, 0, 0, 0, 0, 2⟩, .ploop ⟨0, 0, 0, 0, 0, 0, 0, 0⟩,
     .lookup 0 12 0 ⟨0, 0, false, 0, 0, 0, 0, 0⟩ 0, .rd32 0 0 64 ⟨1, 0, false, 0, 0, 0, 0, 0⟩, .wrf32 0 0 0 ⟨2, 0, false, 0, 0, 0, 0, 0⟩ [],
     .portUp 0 18 0 true].all (fun i => !i.fieldOk) = true ∧
    HF.subcode ⟨0, 1, 0, false, 0, 0, false, 0, 0x6A⟩ = some 1 ∧ HF.subcode ⟨0, 1, 0, false, 0, 0, false, 1, 0x6B⟩ = some 2 ∧
    HF.subcode ⟨0, 1, 1, false, 0, 0, false, 0, 0x6B⟩ = some 2 ∧ HF.subcode ⟨8, 1, 0, false, 0, 0, false, 0, 0x6B⟩ = some 3 := by decide +kernel

theorem test_refuses_pairs :
    [Instr.imadw hd ⟨5, 2, 3, 6, 9, 0, false, 0, 0⟩, .imadw hd ⟨4, 2, 3, 7, 9, 0, false, 0, 0⟩, .lea hd ⟨4, 2, 3, 0, 9, 0, false, 0, 0⟩,
     .shfl hd ⟨4, 3, 0, 4, 0, 0, false, 4, 0⟩, .ld hd ⟨8, 3, 4, 0, 2, 0, 0, false, false, false⟩, .ld hd ⟨9, 2, 4, 0, 3, 0, 0, false, false, false⟩,
     .ld hd ⟨6, 2, 4, 0, 4, 0, 0, false, false, false⟩, .atomCas hd ⟨3, 2, 0, 0, 2, 0, 0, false, false, false⟩, .rmap hd ⟨2, 2, 3, 0, 0, 0⟩,
     .pgctlPin hd ⟨0, 3, 4, 1, 1, 0⟩].all (fun i => !i.pairOk) = true ∧
    ¬(Instr.iadd hd ⟨4, 2, 3, 0, 0, 0, false, 0, 0⟩).WellFormed ∧ (Instr.iadd hd ⟨4, 2, 3, 0, 9, 0, false, 0, 0⟩).WellFormed := by
  unfold Instr.WellFormed; decide +kernel

/-! ## A small machine -/

/-- Virtual page 2 of context 1 is page 2, writable and executable, in a MASTER_EXCL frame of package 0. -/
def withData (s : State) : State :=
  let s := s.setParish 0 2 { refs := 1, master := 0 }
  (s.updPkg 0 fun k => k.setTag (2 * setOf 2) { gpn := 2, state := .masterExcl }).updCore 0 fun k =>
    { k with tlb := k.tlb ++ [⟨1, 2, 0, BitVec.ofNat 64 (2 ^ 63 + 2 ^ 62 + 2 ^ 59 + 2 ^ 58 + 2), 0, 0⟩] }

/-- A team of one lane that is about to issue a word, its registers as f leaves them. -/
def at_ (i : Instr) (f : Team → Team := id) : State :=
  let s := withData (State.reset.placeWord ((encodeWord i).elim 0 (·.toNat)))
  { s.updTeam 0 f with agenda := [], cur := 0 }

/-- Registers of lane 0, and s registers. -/
def regs (vs ss : List (Nat × Nat)) (t : Team) : Team :=
  { t with v := vs.foldl (fun m x => put m (1024 * x.1) (BitVec.ofNat 32 x.2)) t.v, s := ss.foldl (fun m x => put m x.1 (BitVec.ofNat 64 x.2)) t.s }

/-- Two lanes. -/
def wide (t : Team) : Team := { t with lanes := 2, live := 3, active := 3 }

/-- The word issues in the team of slot 0. -/
def issues (s : State) (i : Instr) : Bool :=
  match s.team s.cur with
  | none => false
  | some t => s.precheck s.cur t i hd == none && !s.listBlocks s.cur t i && (t.tryR.isNone || ((tryEvent i).isNone || !t.doesAct i hd)) && t.stepping.isNone && t.executes hd

/-- It then meets the premises Issues and IssuesOnce of the statements. -/
theorem issues_sound {s : State} {i : Instr} (h : issues s i = true) : ∃ t, s.IssuesOnce t i hd := by
  unfold issues at h
  split at h
  · cases h
  · next t ht =>
    simp only [Bool.and_eq_true, Bool.or_eq_true, beq_iff_eq, Bool.not_eq_true', Option.isNone_iff_eq_none] at h
    exact ⟨t, ⟨ht, h.1.1.1.1, h.1.1.1.2, h.1.1.2, h.1.2⟩, h.2⟩

/-- The machine after a step of one word, and what its team then holds. -/
def after : Res → Option State | .next s => some s | _ => none
def vAt (r : Res) (n : Nat) (L : Nat := 0) : Option Nat := ((after r).bind fun s => s.team 0).map fun t => (t.commit.rv n L).toNat
def sAt (r : Res) (n : Nat) : Option Nat := ((after r).bind fun s => s.team 0).map fun t => (t.commit.rs n).toNat
def kAt (r : Res) (n : Nat) (L : Nat := 0) : Option Bool := ((after r).bind fun s => s.team 0).map fun t => t.commit.rk n L
/-- A result of long latency. -/
def due (r : Res) (q : RegId) (L : Nat := 0) : Option Nat :=
  ((after r).bind fun s => s.team 0).bind fun t => ((t.dueParts q L).head?.bind (·.val)).map (·.toNat)
/-- The primary cause and the subcode of a team that froze. -/
def froze (r : Res) : Option (Nat × Nat) :=
  ((after r).bind fun s => s.team 0).bind fun t => if t.run = .frozen then some (t.cause.primary, t.cause.sub) else none
def parked (r : Res) : Option Cond := ((after r).bind fun s => s.team 0).bind fun t => match t.run with | .parked c => some c | _ => none

/-- exec of a word in its small machine. -/
def run (i : Instr) (f : Team → Team := id) : Res := exec i (at_ i f)

/-! ## Every word of a team issues somewhere (premises of the statements on words) -/

def ii (d a b c sub fl : Nat) : VA := ⟨BitVec.ofNat 8 d, BitVec.ofNat 8 a, BitVec.ofNat 8 b, BitVec.ofNat 8 c, 9, 0, false, BitVec.ofNat 6 sub, BitVec.ofNat 4 fl⟩
def ff (t d a b c sub fl : Nat) : VA := { ii d a b c sub fl with t := BitVec.ofNat 4 t }
def mm (d a size scope ord : Nat) : MF := ⟨BitVec.ofNat 8 d, BitVec.ofNat 8 a, 4, 0, BitVec.ofNat 3 size, BitVec.ofNat 3 scope, BitVec.ofNat 2 ord, false, false, false⟩
def bb (off pk : Nat) : BF := ⟨BitVec.ofNat 32 off, 0, false, false, BitVec.ofNat 4 pk, 0⟩
def sx (v s1 s2 imm sub id : Nat) : SF := ⟨BitVec.ofNat 8 v, BitVec.ofNat 6 s1, BitVec.ofNat 6 s2, BitVec.ofNat 16 imm, BitVec.ofNat 6 sub, BitVec.ofNat 7 id⟩
def fx (v ssel treg file imm : Nat) : FF := ⟨BitVec.ofNat 8 v, 0, BitVec.ofNat 6 ssel, BitVec.ofNat 8 treg, BitVec.ofNat 3 file, BitVec.ofNat 22 imm⟩
def allIssue (l : List Instr) : Bool := l.all fun i => i.fieldOk && i.pairOk && issues (at_ i) i

theorem witness_integer_words : allIssue [.iadd hd (ii 4 2 3 0 1 0), .iaddc hd (ii 4 2 3 1 15 0), .isub hd (ii 4 2 63 0 0 1), .isubb hd (ii 4 2 3 15 0 0),
    .imul hd (ii 4 2 3 0 0 0), .imulhi hd (ii 4 2 3 0 1 0), .imad hd (ii 4 2 3 1 0 15), .imadw hd (ii 4 2 3 6 1 0), .imin hd (ii 4 2 3 0 1 0), .imax hd (ii 4 2 3 0 0 0),
    .iabs hd (ii 4 2 0 0 0 0), .logic hd (ii 4 2 3 1 63 0), .sel hd (ii 4 2 3 1 0 0), .icmp hd (ii 15 2 3 1 61 0), .lea hd (ii 4 2 6 0 15 0), .shl hd (ii 4 2 3 0 0 0),
    .shr hd (ii 4 2 3 0 0 0), .sar hd (ii 255 255 255 0 0 0), .rotl hd (ii 4 2 3 0 0 0), .fshl hd (ii 4 2 3 1 0 0), .bfx hd (ii 4 2 3 0 1 0), .bfi hd (ii 4 2 3 1 0 0),
    .popc hd (ii 4 2 0 0 0 0), .clz hd (ii 4 2 0 0 0 0), .ffs hd (ii 4 2 0 0 0 0), .brev hd (ii 4 2 0 0 0 0), .iaddImm hd ⟨4, 2, 7, false⟩, .imulImm hd ⟨4, 63, 7, true⟩,
    .iminImm hd ⟨4, 2, 7, false⟩, .imaxImm hd ⟨4, 2, 7, false⟩, .shlImm hd ⟨4, 2, 7, false⟩, .shrImm hd ⟨4, 2, 7, false⟩, .sarImm hd ⟨4, 2, 7, false⟩,
    .rotlImm hd ⟨4, 2, 7, false⟩] = true := by decide +kernel

theorem witness_float_words : allIssue [.fadd hd (ff 0 4 2 0 1 0 14), .fmul hd (ff 0 4 2 3 0 0 5), .ffma hd (ff 0 4 2 3 1 0 15), .fmin hd (ff 0 4 2 3 0 0 4),
    .fmax hd (ff 0 4 2 3 0 0 0), .fcmp hd (ff 0 15 2 3 1 55 0), .fclass hd (ff 4 4 2 0 0 0 0), .fscale hd (ff 0 4 2 3 0 0 0), .fdot2 hd (ff 1 4 2 3 1 0 0), .hadd2 hd (ff 2 4 2 0 1 0 0),
    .hmul2 hd (ff 1 4 2 3 0 0 0), .hfma2 hd (ff 2 4 2 3 1 0 0), .frcp hd (ff 0 4 2 0 0 0 4), .frsq hd (ff 0 4 2 0 0 0 0), .fsqrt hd (ff 0 4 2 0 0 0 0), .fexp2 hd (ff 0 4 2 0 0 0 0),
    .flog2 hd (ff 0 4 2 0 0 0 0), .fsin hd (ff 0 4 2 0 0 0 0), .fcos hd (ff 0 4 2 0 0 0 0), .faddImm hd ⟨4, 2, 0x3F800000, false⟩, .fmulImm hd ⟨4, 2, 0x3F800000, false⟩,
    .fminImm hd ⟨4, 2, 0x3F800000, false⟩, .fmaxImm hd ⟨4, 2, 0x3F800000, false⟩, .cvt hd (ff 9 4 2 0 0 9 0), .pack4Pack hd (ff 6 4 2 3 0 0 0), .pack4Unlo hd (ff 6 4 2 0 0 1 0),
    .pack4Unhi hd (ff 6 4 2 0 0 2 0), .plane hd (ff 1 4 2 0 0 16 0), .unplane hd (ff 6 4 2 0 1 3 0), .blkscaleScale hd (ff 7 4 2 0 0 0 0), .blkscaleApply hd (ff 3 4 2 3 0 1 0)] = true := by
  decide +kernel

theorem witness_lane_words : allIssue [.shfl hd (ff 0 4 2 3 1 0 0), .shfl hd (ff 0 4 2 3 6 7 0), .voteAll hd (ff 0 15 15 0 0 0 0), .voteAny hd (ff 0 1 2 0 0 1 0), .voteBallot hd (ff 0 4 2 0 0 2 0),
    .voteUni hd (ff 0 1 200 0 0 3 0), .matchK hd (ff 0 4 2 0 0 1 0), .klogic hd (ff 0 1 2 3 0 15 0), .kmov hd (ff 0 4 2 0 0 0 0), .kmov hd (ff 0 4 2 0 0 1 0), .kmov hd (ff 0 4 2 0 0 2 0),
    .kmov hd (ff 0 4 0 3 0 3 1), .readlane hd (ff 0 4 2 3 0 0 1), .redg hd (ff 0 4 2 0 0 2 0), .redt hd (ff 9 4 2 0 0 5 0), .scang hd (ff 9 4 2 0 0 26 0), .sadd hd ⟨4, 2, 3, 0, 0, false⟩,
    .ssub hd ⟨4, 2, 0, 5, 0, true⟩, .smul hd ⟨4, 2, 3, 0, 0, false⟩, .slogic hd ⟨4, 2, 3, 0, 15, false⟩, .sshl hd ⟨4, 2, 3, 0, 0, false⟩, .sshr hd ⟨4, 2, 3, 0, 1, false⟩,
    .scmp hd ⟨4, 2, 3, 0, 13, false⟩, .smin hd ⟨4, 2, 3, 0, 1, false⟩, .smax hd ⟨4, 2, 3, 0, 0, false⟩, .smov hd ⟨4, 0, 3, 0, 0, false⟩, .smovCat hd ⟨4, 2, 0, 5, 1, true⟩,
    .vbcast hd (ff 0 4 0 3 0 0 1), .vbcast hd (ff 0 4 0 3 0 1 1), .vbcast hd (ff 0 4 0 3 0 2 1)] = true := by decide +kernel

theorem witness_control_words : allIssue [.bra hd (bb 1 15), .bra hd ⟨1, 2, false, false, 0, 1⟩, .brx hd ⟨1, 2, false, false, 15, 0⟩, .callK hd (bb 1 15), .ret hd (bb 0 15), .ifK hd (bb 1 15),
    .elseK hd (bb 1 0), .endif hd (bb 0 0), .loopK hd (bb 1 0), .breakK hd (bb 0 1), .contK hd (bb 0 1), .endloop hd (bb 1 15), .exitK hd (bb 0 15), .nop hd (bb 0 0), .yieldK hd (bb 0 0),
    .sleepK hd ⟨5, 2, false, false, 0, 0⟩] = true := by decide +kernel

theorem witness_memory_words : allIssue [.ld hd (mm 8 2 4 5 1), .ldProbe hd { mm 8 2 2 0 0 with probe := true }, .st hd (mm 8 2 4 5 2), .lds hd (mm 8 2 4 2 1), .sts hd (mm 8 2 3 2 2),
    .ldu hd (mm 8 0 3 0 0), .stu hd (mm 8 0 3 0 0), .pref hd (mm 0 2 0 1 0), .fetch hd (mm 8 2 1 0 0), .cctlWb hd (mm 0 2 0 5 0), .cctlInv hd (mm 1 2 0 2 0), .cctlDiscard hd (mm 2 2 0 2 0),
    .fence hd { mm 0 0 1 5 3 with sb := 0 }, .atomCas hd (mm 4 2 3 5 3), .atomsCas hd (mm 4 2 2 0 0), .atom hd 1 (mm 4 2 2 5 3), .redK hd 7 (mm 4 2 3 5 2), .atoms hd 2 { mm 4 2 2 0 0 with sx := true },
    .reds hd 0 (mm 4 2 2 0 0)] = true := by decide +kernel

theorem witness_sync_words : allIssue [.cpy hd (sx 0 10 1 31 23 63), .cpyt hd (sx 0 10 1 0 10 61), .gath hd (sx 2 10 1 0 44 0), .scat hd (sx 2 10 1 0 0 0), .shape hd (sx 0 1 2 0 0 0), .batch hd (sx 0 1 0 0 0 0),
    .cwait hd (sx 0 0 2 65535 0 0), .cwait hd (sx 0 3 2 0 1 0), .cstat hd (sx 0 1 0 0 0 0), .barInit hd (sx 0 1 2 8 0 0), .barArrive hd (sx 0 1 0 8 5 0), .barWait hd (sx 0 1 0 8 2 0),
    .barSync hd (sx 0 1 0 8 0 0), .barDrop hd (sx 0 1 0 8 0 0), .bellRing hd (sx 0 0 0 0 5 15), .bellRingSet hd (sx 0 0 0 65535 8 0), .bellWait hd (sx 0 0 0 0 0 15), .bellWaitNb hd (sx 0 1 0 0 8 3),
    .ringSend hd (sx 0 1 0 0 0 7), .ringSend hd (sx 0 1 2 0 8 0), .ringTake hd (sx 0 1 0 0 0 7), .ringFree hd (sx 0 0 0 0 0 7), .ringFreeCap hd (sx 0 0 0 16 8 7), .ringStat hd (sx 0 1 0 0 0 7),
    .tryK hd (sx 0 0 0 65535 1 0), .commit hd (sx 0 0 0 0 5 15), .abortK hd (sx 0 0 0 255 0 0), .tstat hd (sx 0 1 0 0 0 0)] = true := by decide +kernel

theorem witness_system_words : allIssue [.spanapp hd (sx 0 1 2 65535 0 15), .spantag hd (sx 3 1 0 0 0 15), .spanset hd (sx 0 1 2 31 5 15), .spanret hd (sx 0 1 2 0 0 3), .spanq hd (sx 0 1 2 1 0 3),
    .rmap hd (sx 4 1 0 9 0 0), .finfo hd (fx 0 1 0 0 2), .frd hd (fx 4 0 255 0 0), .frd hd (fx 0 4 63 1 0), .fwr hd (fx 4 0 3 0 0), .fpatch hd (fx 4 0 0 0 7), .fresumeRetry hd (fx 0 0 0 0 0),
    .fresumeSkip hd (fx 0 0 0 0 1), .fkill hd (fx 0 0 0 0 0), .fkillGrid hd (fx 0 0 0 0 1), .farrive hd (fx 0 1 0 0 1), .fstep hd (fx 0 1 0 0 0), .frelease hd (fx 0 0 0 0 0),
    .acquire hd (sx 0 0 0 256 0 0), .giveback hd (sx 0 0 0 16 0 0), .launch hd (sx 0 1 2 0 1 0), .lstat hd (sx 0 1 2 0 0 0), .trap hd (sx 0 0 0 65535 0 0), .rdsr hd (sx 3 0 0 0 0 0),
    .rdsr hd (sx 0 3 0 0x109 0 0), .wrsr hd (sx 0 3 0 0x13 0 0), .pgqry hd (sx 0 1 2 3 0 0), .pgctlPin hd (sx 0 2 4 143 1 0), .pgctlAttract hd (sx 0 2 4 0 0 0), .accrd hd (sx 3 1 0 0 0 3),
    .accrdStat hd (sx 0 0 2 0 3 0), .accwr hd (sx 3 1 0 0 0 0), .accrs hd (sx 3 1 0 0 0 0), .accmax hd (sx 3 1 0 255 0 0)] = true := by decide +kernel


/-! ## The further premises of the statements, clause by clause -/

def tm (s : State) : Team := (s.team s.cur).getD (placedTeam 0 0 0)
/-- The word issues in its small machine, and its team and the machine meet P. -/
def meets (i : Instr) (f : Team → Team) (P : State → Team → Bool) : Bool := issues (at_ i f) i && P (at_ i f) (tm (at_ i f))
def allOf (l : List Bool) : Bool := l.all id

theorem mask_lanes {x : Mask} {p : Nat → Bool} (h : (List.range 1024).all (fun L => !x.getLsbD L || p L) = true) : ∀ L, x.getLsbD L = true → p L = true := by
  intro L hL
  have hb : L < 1024 := by by_contra hn; simp [BitVec.getLsbD_of_ge x L (by omega)] at hL
  simpa [hL] using List.all_eq_true.1 h L (List.mem_range.2 hb)

theorem condIs_reg {f : BF} {t : Team} {b : Bool} (h : (f.sub == 1 && b == ((t.rs f.sreg.toNat != 0) != f.pinv)) = true) : CondIs f t b := by
  simp only [Bool.and_eq_true, beq_iff_eq] at h
  unfold CondIs
  rw [if_pos h.1]; exact h.2

theorem condIs_pk {f : BF} {t : Team} {b : Bool}
    (h : (f.sub != 1 && t.active != 0 && (List.range 1024).all fun L => !t.active.getLsbD L || (decide (L < t.lanes) && laneCond f t L == b)) = true) : CondIs f t b := by
  simp only [Bool.and_eq_true, bne_iff_ne, ne_eq] at h
  unfold CondIs
  rw [if_neg h.1.1]
  exact ⟨h.1.2, fun L hL => by simpa using mask_lanes h.2 L hL⟩

-- BranchesCallsAndExit: a condition of an s register and of a predicate, both ways, and a predicate on which two lanes differ
def kEven (t : Team) : Team := { wide t with k := put t.k 1 1 }
theorem witness_branch_conditions :
    CondIs ⟨1, 2, false, false, 0, 1⟩ (tm (at_ (.bra hd ⟨1, 2, false, false, 0, 1⟩) (regs [] [(2, 5)]))) true ∧
    CondIs ⟨1, 2, false, false, 0, 1⟩ (tm (at_ (.bra hd ⟨1, 2, false, false, 0, 1⟩))) false ∧
    CondIs (bb 1 15) (tm (at_ (.bra hd (bb 1 15)))) true ∧ CondIs (bb 1 1) (tm (at_ (.bra hd (bb 1 1)))) false ∧
    CondDivergent (bb 1 1) (tm (at_ (.bra hd (bb 1 1)) kEven)) ∧ (tm (at_ (.exitK hd (bb 0 1)) kEven)).ActiveExists := by
  refine ⟨condIs_reg (by decide +kernel), condIs_reg (by decide +kernel), condIs_pk (by decide +kernel), condIs_pk (by decide +kernel),
    ⟨by decide, 0, 1, by decide +kernel⟩, fun L hL => ?_⟩
  have h := mask_lanes (p := fun L => decide (L < (tm (at_ (.exitK hd (bb 0 1)) kEven)).lanes)) (by decide +kernel) L hL
  simpa using h

def deep (n : Nat) (e : StackEntry) (t : Team) : Team := { t with masks := List.replicate n e }
def regBase : BF := ⟨1, 2, false, false, 15, 0⟩
theorem witness_BranchesCallsAndExit : allOf [
    meets (.bra hd (bb 1 1)) kEven fun _ _ => true, meets (.brx hd regBase) (regs [] [(2, 0)]) fun _ t => (t.rs 2 + 8).toNat % 8 == 0,
    meets (.brx hd regBase) (regs [] [(2, 5)]) fun _ t => (t.rs 2 + 8).toNat % 8 != 0 && t.tryR.isNone,
    meets (.callK hd (bb 1 15)) id fun _ t => t.masks.length < 256 && t.tryR.isNone, meets (.callK hd (bb 1 15)) (deep 256 ⟨.callE, 0, 0⟩) fun _ t => 256 ≤ t.masks.length,
    meets (.ret hd (bb 0 15)) (deep 1 ⟨.callE, 0, 0x10040⟩) fun _ t => t.masks.head?.any fun e => e.kind == .callE,
    meets (.ret hd (bb 0 15)) id fun _ t => t.masks.isEmpty, meets (.ret hd (bb 0 1)) kEven fun _ _ => true,
    meets (.exitK hd (bb 0 1)) kEven fun _ t => t.active == 3 && t.live == 3, meets (.exitK hd (bb 0 15)) id fun _ t => t.live == 1,
    meets (.sleepK hd (bb 0 0)) id fun _ t => t.sleepUntil.isNone, meets (.sleepK hd (bb 5 0)) id fun _ t => t.sleepUntil.isNone,
    meets (.sleepK hd (bb 5 0)) (fun t => { t with sleepUntil := some 0 }) fun s t => t.sleepUntil.any fun u => u ≤ s.now] = true := by decide +kernel

-- IfsAndLoops: each kind of top entry, a full stack, a mask that dies and one that lives, an entry behind a CALL
theorem witness_IfsAndLoops : allOf [
    meets (.ifK hd (bb 1 1)) kEven fun _ t => t.masks.length < 256, meets (.ifK hd (bb 1 15)) (deep 256 ⟨.ifE, 0, 0⟩) fun _ t => 256 ≤ t.masks.length,
    meets (.elseK hd (bb 1 0)) (fun t => deep 1 ⟨.ifE, 2, 0⟩ { wide t with active := 1 }) fun _ t => t.masks.head?.any fun e => e.kind == .ifE && e.mask &&& t.live != 0,
    meets (.elseK hd (bb 1 0)) (deep 1 ⟨.ifE, 0, 0⟩) fun _ t => t.masks.head?.any fun e => e.kind == .ifE && e.mask &&& t.live == 0,
    meets (.elseK hd (bb 1 0)) (deep 1 ⟨.elseE, 0, 0⟩) fun _ t => t.masks.head?.any fun e => e.kind != .ifE,
    meets (.endif hd (bb 0 0)) (deep 1 ⟨.elseE, 1, 0⟩) fun _ t => t.masks.head?.any fun e => e.kind == .elseE, meets (.endif hd (bb 0 0)) id fun _ t => t.masks.isEmpty,
    meets (.loopK hd (bb 1 0)) (deep 254 ⟨.ifE, 0, 0⟩) fun _ t => t.masks.length ≤ 254, meets (.loopK hd (bb 1 0)) (deep 255 ⟨.ifE, 0, 0⟩) fun _ t => 254 < t.masks.length,
    meets (.breakK hd (bb 0 1)) (fun t => { kEven t with masks := [⟨.contE, 0, 0⟩, ⟨.loopE, 0, 0⟩] }) fun _ t => (t.masks.drop 1).head?.any fun e => e.kind == .loopE,
    meets (.contK hd (bb 0 1)) (fun t => { kEven t with masks := [⟨.ifE, 0, 0⟩, ⟨.contE, 0, 0⟩, ⟨.loopE, 0, 0⟩] }) fun _ t => (t.masks.drop 1).head?.any fun e => e.kind == .contE,
    meets (.breakK hd (bb 0 1)) (fun t => { t with masks := [⟨.callE, 0, 0⟩, ⟨.loopE, 0, 0⟩] }) fun _ t => t.masks.head?.any fun e => e.kind == .callE,
    meets (.contK hd (bb 0 1)) id fun _ t => t.masks.isEmpty,
    meets (.endloop hd (bb 1 1)) (fun t => { kEven t with masks := [⟨.contE, 0, 0⟩, ⟨.loopE, 0, 0⟩] }) fun _ t => t.active &&& 1 != 0 && t.tryR.isNone,
    meets (.endloop hd (bb 1 2)) (fun t => { kEven t with masks := [⟨.contE, 0, 0⟩, ⟨.loopE, 0, 0⟩] }) fun _ t => !t.rk 2 0 && !t.rk 2 1,
    meets (.endloop hd (bb 1 1)) (deep 2 ⟨.loopE, 0, 0⟩) fun _ t => t.masks.head?.any fun e => e.kind != .contE] = true := by decide +kernel

-- Reconverge: no lane left, a CALL entry to pop above an entry that stays
theorem witness_reconverge : allOf [meets (.exitK hd (bb 0 15)) (fun t => { wide t with active := 1, masks := [⟨.callE, 0, 0⟩, ⟨.elseE, 2, 0x10040⟩] }) fun _ t =>
    t.live != t.active && t.masks.length == 2] = true := by decide +kernel

-- a number, and the largest of every format
theorem witness_Rounding : (2 : Nat) ≠ 0 ∧ decodeNum .fp32 (maxEnc .fp32) = .fin false 16777215 104 ∧ decodeNum .bf16 (maxEnc .bf16) = .fin false 255 120 ∧
    decodeNum .fp16 (maxEnc .fp16) = .fin false 2047 5 ∧ decodeNum .e4m3 (maxEnc .e4m3) = .fin false 14 5 ∧ decodeNum .e5m2 (maxEnc .e5m2) = .fin false 7 13 := by decide +kernel

/-! ### Memory -/

def addr2 : Team → Team := regs [(2, 0x20010)] []
/-- Page 2 is STRONG. -/
def strong (s : State) : State := s.updCore 0 fun k => { k with tlb := k.tlb.map fun e => if e.vpage = 2 then { e with ent := e.ent ||| BitVec.ofNat 64 (2 ^ 60) } else e }
/-- Page 2 is elsewhere: no frame holds it. -/
def away (s : State) : State := s.updPkg 0 fun k => k.setTag (2 * setOf 2) {}
/-- Package 1 masters page 2, whose frame it holds. -/
def elsewhere (s : State) : State := ((s.setParish 0 2 { refs := 1, master := 1 }).updPkg 0 fun k => { (k.setTag (2 * setOf 2) {}) with podsize := 2, linkUp := 1 }).updPkg 1 fun k =>
  { (k.setTag (2 * setOf 2) { gpn := 2, state := .masterExcl }) with stage := 6, podsize := 2, linkUp := 1, heartbeatAt := some 0 }
/-- The word issues in the machine that g makes of its small one. -/
def meetsIn (g : State → State) (i : Instr) (f : Team → Team) (P : State → Team → Bool) : Bool := issues (g (at_ i f)) i && P (g (at_ i f)) (tm (g (at_ i f)))
def checked (s : State) (t : Team) (f : MF) (n : Nat) (write rmw split : Bool) (P : State → List (Nat × Word × List Piece) → Bool) : Bool :=
  match s.checkLanes s.cur t (t.act hd) (addrGlobal f t) n write rmw split true with | (s1, .ok ls) => P s1 ls | _ => false
/-- Sectors that the package does not hold. -/
def misses (s1 : State) (ls : List (Nat × Word × List Piece)) (sc : Nat) : Nat := missing (s1.readWants 0 1 (wantsOf ls sc)).2

theorem witness_LoadsFromMemory : allOf [
    meets (.ld hd (mm 8 2 2 0 0)) addr2 fun s t => checked s t (mm 8 2 2 0 0) 4 false false true fun s1 ls => !strongPage ls && misses s1 ls 0 == 0 && t.tryR.isNone,
    meets (.ld hd (mm 8 2 2 5 1)) addr2 fun s t => checked s t (mm 8 2 2 5 1) 4 false false false fun s1 ls => !strongPage ls && misses s1 ls 5 == 0,
    meetsIn away (.ld hd (mm 8 2 2 5 1)) addr2 fun s t => checked s t (mm 8 2 2 5 1) 4 false false false fun s1 ls => misses s1 ls 5 == 1 && s1.heldRequests 0 == 0,
    meetsIn away (.ldProbe hd { mm 8 2 2 0 0 with probe := true }) addr2 fun s t =>
      match s.checkLanes 0 t (t.act hd) (addrGlobal (mm 8 2 2 0 0) t) 4 false false false true true with | (s1, .ok ls) => misses s1 ls 0 == 1 | _ => false,
    meets (.ldProbe hd { mm 8 2 2 0 0 with probe := true }) addr2 fun s t =>
      match s.checkLanes 0 t (t.act hd) (addrGlobal (mm 8 2 2 0 0) t) 4 false false false true true with | (s1, .ok ls) => !strongPage ls && ls.all (fun x => (pieceBytes x.2.2).all fun a => s1.holds 0 (a / 32) 0 (a % 32)) | _ => false,
    meetsIn away (.ldProbe hd { mm 8 2 2 0 0 with probe := true }) addr2 fun s t =>
      match s.checkLanes 0 t (t.act hd) (addrGlobal (mm 8 2 2 0 0) t) 4 false false false true true with | (s1, .ok ls) => (s1.probeClimbs 0 ls).length == 1 && ls.all (fun x => !(pieceBytes x.2.2).all fun a => s1.holds 0 (a / 32) 0 (a % 32)) | _ => false,
    meets (.ldu hd (mm 8 0 3 0 0)) (regs [] [(4, 0x20010)]) fun s t =>
      match s.checkGlobal 0 t.ctx (addrUniform (mm 8 0 3 0 0) t) 8 false false (splitOk (mm 8 0 3 0 0)) true with | (_, .ok ps) => ps.length == 1 | _ => false] = true := by
  decide +kernel

theorem witness_StoresToMemory : allOf [
    meets (.st hd (mm 8 2 2 0 0)) addr2 fun s t => checked s t (mm 8 2 2 0 0) 4 true false true fun _ ls => !strongPage ls && !(storeBytes ls (storedData t 4 8)).isEmpty,
    meets (.st hd (mm 8 2 2 1 2)) addr2 fun s t => checked s t (mm 8 2 2 1 2) 4 true false false fun s1 ls => !strongPage ls && s1.quiet 0 t.serial,
    meets (.st hd (mm 8 2 2 5 2)) addr2 fun s t => checked s t (mm 8 2 2 5 2) 4 true false false fun s1 ls =>
      !strongPage ls && s1.quiet 0 t.serial && t.relWait.isNone && ((s1.release 0 5).pkg 0).posted.isEmpty,
    meetsIn (fun s => s.addRequest 0 4096 1 .load { tk := 0, serial := 1, leaf := none } []) (.st hd (mm 8 2 2 1 2)) addr2 fun s t =>
      checked s t (mm 8 2 2 1 2) 4 true false false fun s1 _ => !s1.quiet 0 t.serial,
    meets (.stu hd (mm 8 0 3 0 0)) (regs [] [(4, 0x20010)]) fun s t =>
      match s.checkGlobal 0 t.ctx (addrUniform (mm 8 0 3 0 0) t) 8 true false (splitOk (mm 8 0 3 0 0)) true with | (_, .ok ps) => ps.length == 1 | _ => false] = true := by
  decide +kernel

/-- A request of team 0 for bytes of page 2. -/
def req (kind : ReqKind) (s : State) : State := s.addRequest 0 4096 1 kind { tk := 0, serial := 1, leaf := none } []
-- a hit in L1, a local frame that serves, one with a write of its own under way, a page that is elsewhere
theorem witness_ReadsNearestLevelChecksKeepMemory :
    let s := withData State.reset
    let k : Nat := 2048 * 2
    let s1 := (s.readSector 0 k 1 0 false).1
    (s1.core 0).l1.hits k 1 = true ∧ (∀ l ∈ corePath 0, find (s.cache l).sectors k = none) ∧ isHost 2 = false ∧ (s.pkg 0).frameOf 2 = some (2 * setOf 2) ∧
      ((s.pkg 0).tag (2 * setOf 2)).state.serves = true ∧ s.pendingMask 0 k = 0 ∧ (req (.write [] false) s).pendingMask 0 k ≠ 0 ∧ (State.reset.pkg 0).frameOf 2 = none ∧ (s.pkg 0).duty.getLsbD 3 = false ∧
      (let s2 := s1.setCache (.l1 0) (s.cache (.l1 0))
       find (s2.core 0).l1.sectors k = none ∧ (find (s2.die 0).sectors k).isSome ∧ (s2.die 0).hits k 1 = true ∧
         (let s3 := s2.setCache (.l2 0) (s.cache (.l2 0)); find (s3.core 0).l1.sectors k = none ∧ find (s3.die 0).sectors k = none ∧ (find (s3.pkg 0).l3.sectors k).isSome ∧ (s3.pkg 0).l3.hits k 1 = true)) := by decide +kernel

theorem witness_StrongAndFailedAccesses : allOf [
    meets (.ld hd (mm 8 2 2 0 0)) (regs [(2, 0x90000)] []) fun s t =>
      match s.checkLanes 0 t (t.act hd) (addrGlobal (mm 8 2 2 0 0) t) 4 false false true true with | (_, .bad cs) => cs.length == 1 && t.tryR.isNone | _ => false,
    meetsIn (fun s => s.updPkg 0 fun k => { k with duty := 8, ctxs := [(1, ⟨0, 1, 0, 36, 0, 0⟩)] }) (.st hd (mm 8 2 2 0 0)) (regs [(2, 0x90000)] []) fun s t =>
      match s.checkLanes 0 t (t.act hd) (addrGlobal (mm 8 2 2 0 0) t) 4 true false true true with | (_, .wait _) => true | _ => false,
    meets (.lds hd (mm 8 2 2 0 0)) (regs [(2, 0x10000)] []) fun s t => match s.checkSpLanes t (t.act hd) (addrScratch (mm 8 2 2 0 0) t) 4 false with | .error _ => true | .ok _ => false,
    meets (.sts hd (mm 8 2 2 0 0)) (regs [(2, 2)] []) fun s t => match s.checkSpLanes t (t.act hd) (addrScratch (mm 8 2 2 0 0) t) 4 true with | .error _ => true | .ok _ => false,
    meetsIn strong (.ld hd (mm 8 2 2 0 0)) addr2 fun s t => checked s t (mm 8 2 2 0 0) 4 false false true fun s1 ls =>
      strongPage ls && s1.quiet 0 t.serial && t.relWait.isNone && ((s1.release 0 5).pkg 0).posted.isEmpty && misses ((s1.release 0 5).acquire 0 5) ls 0 == 0,
    meetsIn strong (.st hd (mm 8 2 2 0 0)) addr2 fun s t => checked s t (mm 8 2 2 0 0) 4 true false true fun s1 ls => strongPage ls && s1.quiet 0 t.serial &&
      (s1.release 0 5).strongAway 0 (storeBytes ls (storedData t 4 8)) == 0,
    meetsIn (fun s => strong (elsewhere s)) (.st hd (mm 8 2 2 0 0)) addr2 fun s t => checked s t (mm 8 2 2 0 0) 4 true false true fun s1 ls =>
      strongPage ls && ((s1.release 0 5).strongAway 0 (storeBytes ls (storedData t 4 8)) == 1) && decide (s1.heldRequests 0 + 1 ≤ 4096)] = true := by decide +kernel

def spAt (n : Nat) : Team → Team := regs [(2, n)] []
def opened (lane : Bool) (t : Team) : Team :=
  { t with tryR := some { laneMode := lane, abortPc := 0x10040, v := t.v, s := t.s, k := t.k, live := t.live, active := t.active, depth := 0 } }
def spOk (s : State) (t : Team) (ea n : Nat) (w : Bool) : Bool := match s.checkSp t ea n w with | .ok _ => true | .error _ => false
theorem witness_ScratchpadAndRegionAccesses : allOf [
    meets (.lds hd (mm 8 2 2 0 0)) (spAt 16) fun s t => spOk s t 16 4 false && t.tryR.isNone, meets (.lds hd (mm 8 2 2 2 1)) (spAt 16) fun s t => spOk s t 16 4 false,
    meets (.sts hd (mm 8 2 3 0 0)) (spAt 0xFFF8) fun s t => spOk s t 0xFFF8 8 true, meets (.sts hd (mm 8 2 2 2 2)) (spAt 16) fun s t => spOk s t 16 4 true && s.quiet 0 t.serial,
    meets (.lds hd (mm 8 2 2 0 0)) (fun t => opened false (spAt 16 t)) fun s t => spOk s t 16 4 false && t.tryR.any fun r => !s.tryOverflow 0 (r.touch 0 (spLocs 0 16 4)),
    meets (.sts hd (mm 8 2 2 0 0)) (fun t => opened true (spAt 16 t)) fun s t => spOk s t 16 4 true,
    meets (.st hd (mm 8 2 2 0 0)) (fun t => opened false (addr2 t)) fun s t => checked s t (mm 8 2 2 0 0) 4 true false true fun s1 ls =>
      !strongPage ls && ls.all fun x => x.2.2.all fun p => !s1.remoteMapped 0 p.leaf,
    meets (.lds hd (mm 8 2 2 2 1)) (fun t => opened false (spAt 16 t)) fun s t => spOk s t 16 4 false,
    meets (.ld hd (mm 8 2 2 0 0)) (fun t => opened false (addr2 t)) fun s t => checked s t (mm 8 2 2 0 0) 4 false false true fun s1 ls => !strongPage ls && misses s1 ls 0 == 0 && !s1.tryOverflow 0 ((t.tryR.getD ⟨false, 0, [], [], [], 0, 0, 0, [], []⟩).touch 0 [.glob 0x20010]),
    meets (.ld hd (mm 8 2 2 5 1)) (fun t => opened false (addr2 t)) fun s t => checked s t (mm 8 2 2 5 1) 4 false false false fun s1 ls => !strongPage ls && misses s1 ls 5 == 0,
    meetsIn away (.ld hd (mm 8 2 2 5 1)) (fun t => opened false (addr2 t)) fun s t => checked s t (mm 8 2 2 5 1) 4 false false false fun s1 ls => misses s1 ls 5 == 1 && s1.heldRequests 0 == 0,
    meets (.ldu hd (mm 8 0 3 0 0)) (fun t => opened false (regs [] [(4, 0x20010)] t)) fun s t =>
      match s.checkGlobal 0 t.ctx (addrUniform (mm 8 0 3 0 0) t) 8 false false (splitOk (mm 8 0 3 0 0)) true with | (_, .ok ps) => ps.length == 1 | _ => false,
    meets (.stu hd (mm 8 0 3 0 0)) (fun t => opened false (regs [] [(4, 0x20010)] t)) fun s t =>
      match s.checkGlobal 0 t.ctx (addrUniform (mm 8 0 3 0 0) t) 8 true false (splitOk (mm 8 0 3 0 0)) true with | (s1, .ok ps) => ps.all fun p => !s1.remoteMapped 0 p.leaf | _ => false] = true := by decide +kernel

theorem witness_PrefetchCacheControlFences : allOf [
    meets (.pref hd (mm 0 2 0 1 0)) addr2 fun s _ => !(s.pkg 0).duty.getLsbD 3,
    meets (.fetch hd (mm 8 2 1 0 0)) addr2 fun s t => (s.translate 0 t.ctx 0x20010 true).2 matches .ok _, meets (.fetch hd (mm 8 2 0 0 0)) (regs [(2, 0x1)] [(4, 0xFFFFFFFFFFFFFFFF)]) fun _ _ => true,
    meets (.cctlWb hd (mm 0 2 0 5 0)) addr2 fun s t => (s.checkLanes 0 t (t.act hd) (fun _ => 0x20000) 32 false false false false).2 matches .ok _,
    meets (.cctlInv hd (mm 1 2 0 2 0)) addr2 fun s t => (s.checkLanes 0 t (t.act hd) (fun _ => 0x20000) 32 true false false true).2 matches .ok _,
    meets (.cctlDiscard hd (mm 2 2 0 2 0)) (fun t => { addr2 t with role := .reeve }) fun _ t => t.role == .reeve, meets (.cctlDiscard hd (mm 2 2 0 2 0)) addr2 fun _ t => t.role != .reeve,
    meets (.fence hd { mm 0 0 1 5 3 with sb := 0 }) id fun s t => s.quiet 0 t.serial && t.relWait.isNone && ((s.release 0 5).pkg 0).posted.isEmpty && !(t.act hd).isEmpty,
    meets (.fence hd { mm 0 0 0 2 1 with sb := 0 }) id fun s t => s.quiet 0 t.serial, meets (.fence hd { mm 0 0 0 2 2 with sb := 0 }) id fun s t => s.quiet 0 t.serial,
    meets (.fence hd { mm 0 0 0 2 2 with sb := 0 }) (fun t => { t with active := 0 }) fun _ t => (t.act hd).isEmpty,
    meetsIn (fun s => s.addRequest 0 4096 1 .load { tk := 0, serial := 1, leaf := none } []) (.fence hd { mm 0 0 0 2 2 with sb := 0 }) id fun s t => !s.quiet 0 t.serial,
    meetsIn (fun s => s.updPkg 0 fun k => { k with posted := [(1, 9)], postSeq := 2 }) (.fence hd { mm 0 0 0 5 2 with sb := 0 }) id fun s _ => !((s.release 0 5).pkg 0).posted.isEmpty] = true := by
  decide +kernel

theorem witness_AtomicValuesAndScratchpadAtomics : allOf [
    meets (.atoms hd 2 { mm 4 2 2 0 0 with sx := true }) (spAt 16) fun s t => spOk s t 16 4 true, meets (.atomsCas hd (mm 4 2 2 1 3)) (spAt 16) fun s t => spOk s t 16 4 true && s.quiet 0 t.serial,
    meets (.reds hd 0 (mm 4 2 2 1 2)) (spAt 16) fun s t => spOk s t 16 4 true && s.quiet 0 t.serial, meets (.atoms hd 0 (mm 4 2 2 1 1)) (spAt 16) fun s t => spOk s t 16 4 true] = true := by decide +kernel

theorem witness_atomic_at_frame :
    (let s := withData State.reset
     ((s.pkg 0).tag (2 * setOf 2)).state = .masterExcl ∧ ((s.pkg 0).tag (2 * setOf 2)).twin = false ∧ s.busy 0 2 = false ∧ s.sectorBusy 0 4096 = false ∧
       find (s.pkg 0).poison (2048 * (2 * setOf 2)) = none ∧ find (s.pkg 0).symErr (2048 * (2 * setOf 2)) = none ∧ isHost 2 = false ∧ isHost 0xFF00000000 = true ∧
       (req (.write [] false) s).sectorBusy 0 4096 = true ∧ (∀ o ∈ [(⟨0, 4, 4, 1, false, 5, 0⟩ : AtomOp)], o.off + o.size ≤ 32 ∧ o.size = 4)) := by decide +kernel

theorem witness_GlobalAtomics : allOf [
    meets (.atom hd 1 (mm 4 2 2 0 0)) addr2 fun s t => checked s t (mm 4 2 2 0 0) 4 true true false fun _ ls => !strongPage ls,
    meets (.redK hd 7 (mm 4 2 3 5 2)) addr2 fun s t => checked s t (mm 4 2 3 5 2) 8 true true false fun s1 ls => !strongPage ls && s1.quiet 0 t.serial && ((s1.release 0 5).pkg 0).posted.isEmpty,
    meets (.atomCas hd (mm 4 2 3 2 3)) addr2 fun s t => checked s t (mm 4 2 3 2 3) 8 true true false fun s1 ls => !strongPage ls && s1.quiet 0 t.serial,
    meetsIn away (.atom hd 0 (mm 4 2 2 2 1)) addr2 fun s t => checked s t (mm 4 2 2 2 1) 4 true true false fun s1 ls => !strongPage ls && (s1.atomicHere 0 4096 []).isNone] = true := by decide +kernel

/-! ### Copies, synchronisation, regions -/

/-- Bytes at an offset of page 2. -/
def data (off : Nat) (ws : List Nat) (s : State) : State := s.updPkg 0 fun k => k.setBytes (2 * setOf 2) off (ws.flatMap (bytesOf 8))
/-- A shape record: FP32, rank 1, base 0x20100, 6 elements, stride 1, tiles of 4. -/
def shape1 : List Nat := [0x20100, 16, 6, 0, 2 ^ 32, 0, 0, 4]
def readable (s : State) (t : Team) (va : Word) : Bool :=
  match s.checkGlobal 0 t.ctx va 64 false false false true with
  | (s1, .ok ps) => !t.lostRead && ps.all (fun p => p.leaf.ord != 1) && ((s1.readNow 0 t 0 ((ps.head?).elim 0 (·.addr)) 64).2 matches .ok _)
  | _ => false
def readableStrong (s : State) (t : Team) (va : Word) : Bool :=
  match s.checkGlobal 0 t.ctx va 64 false false false true with
  | (s1, .ok ps) => !t.lostRead && ps.any (fun p => p.leaf.ord == 1) && s1.quiet 0 t.serial && t.relWait.isNone && ((s1.release 0 5).pkg 0).posted.isEmpty &&
      ((((s1.release 0 5).acquire 0 5).readNow 0 t 5 ((ps.head?).elim 0 (·.addr)) 64).2 matches .ok _)
  | _ => false

theorem witness_CopiesRegisterTransfers : allOf [
    meets (.cpy hd (sx 0 10 1 0 1 5)) (regs [] [(10, 64), (1, 0x20000), (5, 16)]) fun s t =>
      ((s.checkRanges 0 t.ctx [(0x20000, 16, false)]).2 matches .ok _) && s.resolve t 64 == some (0, 64) && decide (64 + 16 ≤ s.spBytesOf t 0) && (s.core 0).locks.isEmpty,
    meets (.cpy hd (sx 0 10 1 0x13 8 5)) (regs [] [(10, 0x20100), (1, 0x20000), (5, 16)]) fun s t =>
      (s.checkRanges 0 t.ctx [(0x20000, 16, false), (0x20100, 16, true)]).2 matches .ok _,
    meets (.cpy hd (sx 0 10 1 0x13 3 5)) (regs [] [(10, 64), (1, 128)]) fun s t => s.resolve t 64 == some (0, 64) && s.resolve t 128 == some (0, 128),
    meets (.cpy hd (sx 0 10 1 0 3 5)) (regs [] [(10, 64), (1, 128), (5, 6)]) fun _ t => (t.rs 5).toNat % 4 != 0,
    meets (.cpy hd (sx 0 10 1 0 2 5)) (regs [] [(10, 0x20000), (1, 0xFFF8), (5, 16)]) fun s t => decide (s.spBytesOf t 0 < 0xFFF8 + 16),
    meetsIn (data 0 shape1) (.cpyt hd (sx 0 10 1 0 0 6)) (regs [] [(10, 0x20000), (1, 64)]) fun s t =>
      readable s t 0x20000 && (Shape.ofBytes (shape1.flatMap (bytesOf 8))).bad t.version false == none &&
        (Shape.ofBytes (shape1.flatMap (bytesOf 8))).offsets (tileOrigin t 6) == [some 0, some 1, some 2, some 3],
    meetsIn (data 0 shape1) (.cpyt hd (sx 0 10 1 0 11 6)) (regs [] [(10, 0x20000), (1, 64), (6, 4)]) fun s t =>
      readable s t 0x20000 && (Shape.ofBytes (shape1.flatMap (bytesOf 8))).offsets (tileOrigin t 6) == [some 4, some 5, none, none],
    meetsIn (data 0 shape1) (.cpyt hd (sx 0 10 1 0 1 6)) (regs [] [(10, 0x20000), (1, 64), (6, 8)]) fun s t =>
      readable s t 0x20000 && (Shape.ofBytes (shape1.flatMap (bytesOf 8))).offsets (tileOrigin t 6) == [none, none, none, none],
    -- a scratchpad range or a page that stops CPY, and a record, a place or a page that stops CPYT
    meets (.cpy hd (sx 0 10 1 0 3 5)) (regs [] [(10, 0xFFF8), (1, 128), (5, 16)]) fun s t => s.resolve t 128 == some (0, 128) && decide (s.spBytesOf t 0 < 0xFFF8 + 16),
    meets (.cpy hd (sx 0 10 1 0 1 5)) (regs [] [(10, 64), (1, 0x90000), (5, 16)]) fun s t => (s.checkRanges 0 t.ctx [(0x90000, 16, false)]).2 matches .bad _ _,
    (let s := withData State.reset; ((s.translate 0 1 0x90000 false).2 matches .fail _) && (match (s.translate 0 1 0x20000 true).2 with | .ok l => l.ord != 3 && l.w && !s.pooled l.gpn | _ => false)),
    (let s := (withData State.reset).updCore 0 fun k => { k with tlb := [⟨1, 2, 0, BitVec.ofNat 64 (2 ^ 63 + 2 ^ 62 + 2 ^ 61 + 2 ^ 60 + 2), 0, 0⟩] }; match (s.translate 0 1 0x20000 false).2 with | .ok l => l.ord == 3 | _ => false),
    (let s := (withData State.reset).updCore 0 fun k => { k with tlb := [⟨1, 2, 0, BitVec.ofNat 64 (2 ^ 63 + 2 ^ 62 + 2), 0, 0⟩] }; match (s.translate 0 1 0x20000 true).2 with | .ok l => l.ord != 3 && !l.w | _ => false),
    meetsIn (data 0 []) (.cpyt hd (sx 0 10 1 0 0 6)) (regs [] [(10, 0x20000), (1, 64)]) fun s t => readable s t 0x20000 && ((Shape.ofBytes (List.replicate 64 0)).bad t.version false).isSome,
    meetsIn (data 0 shape1) (.cpyt hd (sx 0 10 1 0 0 6)) (regs [] [(10, 0x20000), (1, 68)]) fun s t => readable s t 0x20000,
    meetsIn (data 0 shape1) (.cpyt hd (sx 0 10 1 0 0 6)) (regs [] [(10, 0x20000), (1, 0xFFFF0)]) fun s t => readable s t 0x20000 && (s.resolve t 0xFFFF0).all fun p => decide (s.spBytesOf t p.1 < p.2 + 16),
    meetsIn (data 0 (0x90000 :: shape1.drop 1)) (.cpyt hd (sx 0 10 1 0 0 6)) (regs [] [(10, 0x20000), (1, 64)]) fun s t => readable s t 0x20000 && ((s.checkRanges 0 t.ctx [(0x90000, 4, false)]).2 matches .bad _ _),
    meetsIn (fun s => strong (data 0 shape1 s)) (.cpyt hd (sx 0 10 1 0 0 6)) (regs [] [(10, 0x20000), (1, 64)]) fun s t => readableStrong s t 0x20000] = true := by decide +kernel

theorem witness_ShapesGatherScatter : allOf [
    meetsIn (data 0 shape1) (.shape hd (sx 0 1 2 0 0 0)) (regs [] [(1, 0x20000)]) fun s t => readable s t 0x20000,
    meetsIn (data 0 []) (.shape hd (sx 0 1 2 0 0 0)) (regs [] [(1, 0x20000)]) fun s t => readable s t 0x20000 && ((Shape.ofBytes []).bad t.version false).isSome,
    decide ((4 : Nat) < 4 * 3) && (Shape.ofBytes ([0x20100, 32, 6 + 2 ^ 32 * 3, 0, 2 ^ 32, 6, 0, 4 + 2 ^ 12 * 3].flatMap (bytesOf 8))).count == 12,
    meets (.gath hd (sx 2 10 1 0 2 0)) (regs [(2, 0x20010)] [(10, 64)]) fun s t =>
      ((s.translate 0 t.ctx 0x20010).2 matches .ok _) && spOk s t 64 4 true && (s.pkg 0).inPool 2 == false && (t.act hd).length == 1,
    meets (.scat hd (sx 2 10 1 0 2 0)) (regs [(2, 0x20010)] [(10, 64)]) fun s t => ((s.translate 0 t.ctx 0x20010 true).2 matches .ok _) && spOk s t 64 4 false,
    meets (.gath hd (sx 2 10 1 0 2 0)) (fun t => { t with active := 0 }) fun _ t => (t.act hd).isEmpty] = true := by decide +kernel

def xferOf (form : XForm) (src : List (Option Loc)) (dst : List Loc) (started : Bool) : Xfer :=
  { tk := 0, serial := 1, core := 0, share := 0, grid := 0, src := src, dst := dst, form := form, scope := 0, bell := some 3, started := started }
def withXfer (x : Nat) (e : Xfer) (s : State) : State := { s with xfers := put s.xfers x e }
def lockOf (x : Nat) (w : Bool) : Lock := { xfer := x, write := w, ctx := none, sh := 0, lo := 0, hi := 16 }
theorem witness_BatchesAndTransfers : allOf [
    meets (.batch hd (sx 0 1 0 0 0 0)) id fun _ t => t.batches.length < 64, meets (.batch hd (sx 0 1 0 0 0 0)) (fun t => { t with formed := true }) fun _ t => t.formed && t.forming.isEmpty,
    meets (.cwait hd (sx 0 0 2 1 0 0)) (fun t => { t with latch := some [65535] }) fun _ t => decide ((t.batchDone - 65535).toNat < 2 ^ 15), meets (.batch hd (sx 0 1 0 0 0 0)) (fun t => { t with batches := List.replicate 64 (1, [7]) }) fun _ t => 64 ≤ t.batches.length,
    meets (.cwait hd (sx 0 0 2 65535 0 0)) id fun _ t => decide ((t.batchDone - 65535).toNat < 2 ^ 15),
    meets (.cwait hd (sx 0 0 2 1 0 0)) (fun t => { t with batch := 1, batches := [(1, [7])] }) fun _ t => decide ((t.batch - 1).toNat < 2 ^ 15 ∧ 2 ^ 15 ≤ (t.batchDone - 1).toNat),
    meets (.cstat hd (sx 0 1 0 0 0 0)) id fun _ _ => true] = true := by decide +kernel

theorem witness_transferBegin :
    (let s := (withXfer 5 (xferOf .bytes [some (.sp 0 0)] [.sp 0 4] false) (State.reset.setShare 0 placedShare)).updCore 0 fun k => { k with locks := [lockOf 4 true, lockOf 5 false] }
     let y := (withXfer 4 { xferOf .bytes [] [] false with waits := true } s).updXfer 5 fun e => { e with waits := true }
     (y.xfer 5).any (fun e => e.waits && !e.started) = true ∧ (y.xfer 4).any (fun e => e.waits && !e.started) = true ∧ (find y.cores 0).isSome ∧
     (s.xfer 5).isSome ∧ (s.cores.map (·.1)).Nodup ∧ (∀ l ∈ (s.core 0).locks, l.lo ≤ l.hi) ∧ (lockOf 4 true).xfer < 5) := by decide +kernel
-- reads placed at issue: one that an earlier transfer is to write waits for it
theorem witness_placeReads :
    (let e := xferOf .bytes [some (.glob 0x20000), some (.glob 0x20001), some (.sp 0 0)] [.sp 0 4] false
     let s := withXfer 4 (xferOf .bytes [] [.glob 0x20001] false) (withXfer 5 e (withData State.reset))
     e.got = none ∧ s.xfer 5 = some e ∧ (∃ y f, (y, f) ∈ s.xfers ∧ y < 5 ∧ Loc.glob 0x20001 ∈ f.dst)) := by
  refine ⟨by decide +kernel, by decide +kernel, 4, xferOf .bytes [] [.glob 0x20001] false, by decide +kernel, by decide +kernel, by decide +kernel⟩
theorem witness_transferComplete :
    (let s := withXfer 5 { xferOf .bytes [some (.sp 0 0)] [.sp 0 4] true with got := some [.known 7] } (State.reset.setShare 0 placedShare)
     (s.xfer 5).any (fun e => e.got == some ([7].map .known) && !e.wrote && e.form == .bytes && e.dst.length == 1) = true ∧ s.requests = [] ∧ (s.share 0).isSome) := by decide +kernel

def reg0 (pending phase : Bool) (t : Team) : Team := { t with regs := [⟨0, 8, pending, phase⟩] }
def bar (w : BarWord) (s : State) : State := s.setBar none 0 8 w
theorem witness_Barriers : allOf [
    meets (.barInit hd (sx 0 1 2 8 0 0)) id fun s t => spOk s t 8 8 true, meets (.barArrive hd (sx 0 1 0 8 2 0)) (reg0 true false) fun s t => spOk s t 8 8 true,
    meets (.barArrive hd (sx 0 1 0 8 2 0)) (fun t => { t with regs := List.replicate 8 ⟨0, 16, false, false⟩ }) fun _ t => 8 ≤ t.regs.length,
    meetsIn (bar ⟨1, 0, 0, false⟩) (.barArrive hd (sx 0 1 0 8 2 0)) id fun s t => s.quiet 0 t.serial && s.barWord 0 8 == ⟨1, 0, 0, false⟩,
    meetsIn (bar ⟨2, 0, 0, false⟩) (.barArrive hd (sx 0 1 0 8 2 0)) (reg0 false true) fun s t => s.quiet 0 t.serial,
    meets (.barWait hd (sx 0 1 0 8 2 0)) id fun _ t => t.regs.isEmpty, meets (.barWait hd (sx 0 1 0 8 2 0)) (reg0 true false) fun s _ => (s.barWord 0 8).phase == false,
    meets (.barWait hd (sx 0 1 0 8 2 0)) (reg0 true true) fun s _ => (s.barWord 0 8).phase != true,
    meets (.barWait hd (sx 0 1 0 96 2 0)) (fun t => { reg0 true true t with latch := some [0, 8] }) fun s _ => (s.barWord 0 8).phase != true,
    meets (.barSync hd (sx 0 1 0 8 0 0)) (fun t => { reg0 true false t with syncMark := some t.here, latch := some [0, 8] }) fun s t => (s.barWord 0 8).phase == false && t.syncMark == some t.here,
    meetsIn (bar ⟨2, 0, 0, false⟩) (.barSync hd (sx 0 1 0 8 0 0)) id fun s t => t.syncMark.isNone && s.quiet 0 t.serial,
    meetsIn (bar ⟨1, 0, 0, false⟩) (.barSync hd (sx 0 1 0 8 0 0)) id fun s t => t.syncMark.isNone && s.quiet 0 t.serial,
    meets (.barSync hd (sx 0 1 0 8 0 0)) (fun t => { reg0 true true t with syncMark := some t.here }) fun s _ => (s.barWord 0 8).phase != true,
    meets (.barDrop hd (sx 0 1 0 8 0 0)) (reg0 true false) fun s t => s.quiet 0 t.serial, meets (.barDrop hd (sx 0 1 0 8 0 0)) id fun s t => s.quiet 0 t.serial] = true := by decide +kernel

def slots (st : SlotState) (s : State) : State := s.setRing 0 7 { s.ring 0 7 with slots := List.replicate 16 (st, 5) }
def queued (s : State) : State := s.setRing 0 7 { slots := List.replicate 16 (.empty, 0), senders := [1], takers := [1] }
theorem witness_BellsAndRings : allOf [
    meets (.bellRing hd (sx 0 0 0 0 5 15)) id fun s t => (s.stream 0).any (fun m => 15 < m.bells.length) && s.quiet 0 t.serial && t.relWait.isNone && ((s.release 0 5).pkg 0).posted.isEmpty,
    meets (.bellRingSet hd (sx 0 0 0 65535 8 0)) id fun _ _ => true, meets (.bellWait hd (sx 0 0 0 0 0 15)) id fun s _ => (s.bell 0 15).phase == false,
    meetsIn (fun s => s.setBell 0 15 ⟨1, 0, true⟩) (.bellWait hd (sx 0 0 0 0 0 15)) id fun s _ => (s.bell 0 15).phase == true,
    meets (.bellWaitNb hd (sx 0 1 0 0 8 3)) id fun s _ => (s.bell 0 3).expect < 2 ^ 16,
    meetsIn (fun s => s.setBell 0 3 ⟨1, 0, true⟩) (.bellWaitNb hd (sx 0 1 0 0 8 3)) id fun s _ => (s.bell 0 3).phase == true,
    meets (.ringSend hd (sx 0 1 0 0 0 7)) id fun s t => (s.ring 0 7).senders.isEmpty && s.quiet 0 t.serial, meetsIn (slots .full) (.ringSend hd (sx 0 1 2 0 8 7)) id fun _ _ => true,
    meetsIn queued (.ringSend hd (sx 0 1 0 0 0 7)) id fun s _ => (s.ring 0 7).senders == [1], meetsIn (slots .full) (.ringTake hd (sx 0 1 0 0 0 7)) id fun s _ => (s.ring 0 7).takers.isEmpty,
    meets (.ringSend hd (sx 0 1 0 0 0 7)) (fun t => { t with latch := some [9] }) fun s t => t.latch == some [9] && (s.ring 0 7).senders.isEmpty,
    meets (.ringTake hd (sx 0 1 2 0 8 7)) id fun _ _ => true, meetsIn queued (.ringTake hd (sx 0 1 0 0 0 7)) id fun _ _ => true,
    meets (.ringFree hd (sx 0 0 0 0 0 7)) id fun s _ => ((s.ring 0 7).slots.getD 0 (.taken, 0)).1 == .empty, meetsIn (slots .taken) (.ringFree hd (sx 0 0 0 0 0 7)) id fun s t => s.quiet 0 t.serial,
    meets (.ringFreeCap hd (sx 0 0 0 4 8 7)) id fun s _ => (s.ring 0 7).slots.all (fun y => y.1 == .empty), meetsIn (slots .full) (.ringFreeCap hd (sx 0 0 0 4 8 7)) id fun _ _ => true,
    meets (.ringStat hd (sx 0 1 0 0 0 7)) id fun _ _ => true] = true := by decide +kernel

def owed (t : Team) : Team := { t with outst := [⟨none, [⟨.v 3, 0, [.await 9 0], false, false⟩]⟩] }
def conflict (lane : Bool) (t : Team) : Team := { opened lane t with tryR := (opened lane t).tryR.map fun (r : TryRegion) => { r with foot := [⟨0, .sp 0 0, true⟩] } }
theorem witness_TryRegions : allOf [
    meets (.tryK hd (sx 0 0 0 2 1 0)) owed fun _ t => t.outst.any fun o => !o.parts.isEmpty, meets (.tryK hd (sx 0 0 0 2 0 0)) id fun _ t => t.outst.isEmpty,
    meets (.abortK hd (sx 0 0 0 7 0 0)) id fun _ t => t.tryR.isNone, meets (.abortK hd (sx 0 0 0 7 0 0)) (opened false) fun _ t => t.tryR.isSome,
    meets (.tstat hd (sx 0 1 0 0 0 0)) id fun _ _ => true, meets (.commit hd (sx 0 0 0 0 5 1)) id fun _ t => t.tryR.isNone,
    meets (.commit hd (sx 0 0 0 0 5 1)) (conflict false) fun _ t => t.tryR.any fun r => !r.laneMode && r.foot.any (·.dirty),
    meets (.commit hd (sx 0 0 0 0 5 1)) (opened false) fun s t => s.quiet 0 t.serial && t.relWait.isNone && ((s.release 0 5).pkg 0).posted.isEmpty,
    meets (.commit hd (sx 0 0 0 0 2 1)) (conflict true) fun s t => s.quiet 0 t.serial && t.tryR.any fun r => r.laneMode && decide (Rising r.v)] = true := by decide +kernel

/-! ### Span maps, reeves, system instructions -/

/-- A map at 0x20000: NEXT, CAP 2 blocks, VBASE 0x30000, strides; entries of page 2 and page 9, then unmapped. -/
def spanMap (next st : Nat) : State → State :=
  data 0 ([next + 2 ^ 32 * 2, 0x30000, 64 * 2 ^ 32 + 0x1000, 0, 0, 0, 0, 0] ++ [0, 0, 0, 0, 0, 2 + 2 ^ 40 * st, 0, 0] ++ [0, 0, 0, 0, 0, 9 + 2 ^ 40 * st, 0, 0])
def mapOk (s : State) (t : Team) (write : Bool) : Bool :=
  match s.checkMaps 0 t [0x20000, 0x20040] write with
  | (s1, .ok ps) => !t.lostRead && ps.all (fun x => (s1.unreached 0 t x write).isEmpty) && (s1.settleMap 0 (ps.map (·.addr))).2.isNone &&
      (s1.settleMap 0 (ps.map (·.addr))).1.quiet 0 t.serial
  | _ => false
def mapRegs : Team → Team := regs [(4, 3)] [(1, 0x20000), (2, 2 ^ 32 * 4 + 1)]
theorem witness_SpanMaps : allOf [
    meetsIn (spanMap 5 0) (.spanapp hd (sx 0 1 2 4 2 7)) mapRegs fun s t => mapOk s t true && mapNext (s.record 0 0x20000) == 5 && mapCap (s.record 0 0x20000) == 2,
    meetsIn (spanMap 5 0) (.spanapp hd (sx 0 1 2 200 2 7)) mapRegs fun s t => mapOk s t true && decide (64 * 2 < 5 + 200),
    meetsIn (spanMap 5 1) (.spanapp hd (sx 0 1 2 4 2 7)) mapRegs fun s t => mapOk s t true && entStatus (s.record 0 0x20040) != 0,
    meetsIn (spanMap 5 0) (.spantag hd (sx 4 1 0 0 2 7)) mapRegs fun s t => mapOk s t true && decide ((t.rv 4 0).toNat < 5), meetsIn (spanMap 5 0) (.spanset hd (sx 0 1 2 16 2 7)) mapRegs fun s t => mapOk s t true,
    meetsIn (spanMap 64 0) (.spanret hd (sx 0 1 2 0 2 0)) mapRegs fun s t => mapOk s t true && entTag (s.record 0 0x20040) 0 == 0, meetsIn (spanMap 5 0) (.spanq hd (sx 0 1 2 1 2 0)) mapRegs fun s t => mapOk s t false,
    meetsIn (spanMap 5 0) (.rmap hd (sx 4 1 0 1 2 0)) mapRegs fun s t => mapOk s t false && !(t.act hd).isEmpty, meets (.rmap hd (sx 4 1 0 1 2 0)) (fun t => { t with active := 0 }) fun _ t => (t.act hd).isEmpty] = true := by
  decide +kernel

/-- Slot 1 of the core holds a team frozen at an IADD to v4, in page 2. -/
def frozenAt (c : CauseRec) (s : State) : State :=
  data 0x40 [0x010000000000006B, 0x001E080406012000] (s.setTeam 1 { placedTeam 0 0 1 with serial := 2, pc := 0x20040, run := .frozen, admitted := false, cause := c })
/-- The same at another word. -/
def frozenOn (w : Nat) (s : State) : State := data 0x48 [w] (frozenAt { lanes := [⟨0, .illegal, 0⟩], primary := Cause.illegal.code, sub := 9, addr := 0x20048 } s)
def cr0 : CauseRec := { lanes := [⟨0, .illegal, 0⟩], primary := Cause.illegal.code, sub := 9, addr := 0x20048 }
def holding (t : Team) : Team := { regs [(4, 7)] [(1, 0x20040), (2, 1)] t with h0 := .frozen 1 }
def ended1 : Ended := { serial := 5, core := 0, grid := 6, ctx := 1, teamIx := 3, cluster := 0, cl := 0, share := 0 }
def stands (s : State) (t : Team) : Bool := t.h0 == .frozen 1 && (s.team 1).any fun ft => ft.stepping.isNone && ft.settled && ft.pend.isEmpty && ft.run == .frozen && ft.reports.isEmpty && ft.h0 == .none
theorem witness_ReeveReadsAndWrites : allOf ([0, 1, 2].map (fun n => meetsIn (frozenAt cr0) (.finfo hd (fx 0 1 0 0 n)) holding fun s t => stands s t && cr0.primary != 0) ++ [
    meetsIn (frozenAt cr0) (.finfo hd (fx 0 1 0 0 2)) id fun _ t => t.h0 == .none,
    meets (.finfo hd (fx 0 1 0 0 0)) (fun t => { t with h0 := .departed ended1 cr0 }) fun _ _ => true,
    meetsIn (fun s => (frozenAt cr0 s).updTeam 1 owed) (.finfo hd (fx 0 1 0 0 0)) holding fun s _ => (s.team 1).any fun ft => !ft.settled,
    meetsIn (frozenAt cr0) (.frd hd (fx 4 0 255 0 0)) holding stands, meetsIn (frozenAt cr0) (.frd hd (fx 4 0 0 5 1)) holding stands, meetsIn (frozenAt cr0) (.frd hd (fx 0 3 63 1 0)) holding stands,
    meets (.frd hd (fx 4 0 3 0 0)) id fun _ t => t.h0 == .none] ++
    [fx 4 0 3 0 0, fx 0 2 7 1 0, fx 4 0 5 2 0, fx 0 1 0 3 0, fx 0 2 0 3 0, fx 4 0 0 3 2, fx 4 0 0 6 33].map (fun f => meetsIn (frozenAt cr0) (.fwr hd f) holding stands) ++ [
    meetsIn (frozenAt cr0) (.fpatch hd (fx 4 0 0 0 4)) holding fun s t => stands s t && s.wordAt 0 1 0x20048 == some 0x001E080406012000 && destOf (decodeWord 0x001E080406012000) == .v 4 1,
    meetsIn (frozenOn ((encodeWord (.commit hd (sx 0 0 0 0 0 3))).elim 0 (·.toNat))) (.fpatch hd (fx 4 0 0 0 0)) holding fun s t => stands s t && (s.wordAt 0 1 0x20048).any fun w => (destOf (decodeWord w) matches .k _),
    meetsIn (frozenOn 0x281E084180000000) (.fpatch hd (fx 4 0 0 0 1)) holding fun s t => stands s t && (s.wordAt 0 1 0x20048).any fun w => (destOf (decodeWord w) matches .s _)]) = true := by decide +kernel

theorem witness_ReeveResumesAndSteps : allOf [
    meetsIn (frozenAt cr0) (.fresumeRetry hd (fx 0 0 0 0 0)) holding stands, meetsIn (frozenAt cr0) (.fresumeSkip hd (fx 0 0 0 0 1)) holding stands,
    meetsIn (frozenAt { cr0 with atHeader := true }) (.fresumeSkip hd (fx 0 0 0 0 1)) holding stands,
    meetsIn (frozenAt cr0) (.fstep hd (fx 0 1 0 0 0)) holding fun s t => stands s t && decide (Rising s.teams) && (s.unwritten 0 t.serial).isEmpty,
    meetsIn (fun s => req (.write [] false) (frozenAt cr0 s)) (.fresumeRetry hd (fx 0 0 0 0 0)) holding fun s t => stands s t && !(s.unwritten 0 t.serial).isEmpty] = true := by decide +kernel

theorem witness_ReeveEndsAndArrives : allOf [
    meetsIn (frozenAt cr0) (.fkill hd (fx 0 0 0 0 0)) holding stands, meetsIn (frozenAt cr0) (.fkillGrid hd (fx 0 0 0 0 1)) holding fun s t => stands s t && decide (Rising s.teams),
    meets (.fkillGrid hd (fx 0 0 0 0 1)) (fun t => { t with h0 := .departed ended1 cr0 }) fun _ t => t.tryR.isNone,
    meetsIn (frozenAt cr0) (.farrive hd (fx 0 2 0 0 0)) (fun t => { holding t with s := put t.s 2 8 }) fun s t => stands s t && (s.team 1).any (fun ft => spOk s ft 8 8 true && s.quiet 1 ft.serial && ft.regs.isEmpty) && s.quiet 0 t.serial,
    meetsIn (frozenAt cr0) (.farrive hd (fx 0 2 0 0 1)) (fun t => { holding t with s := put t.s 2 8 }) stands,
    meetsIn (frozenAt cr0) (.frelease hd (fx 0 0 0 0 0)) holding fun s t => stands s t && (s.core 0).waiting.isEmpty && (s.core 0).held.isEmpty] = true := by decide +kernel

theorem witness_AllotmentAndLaunch : allOf [
    meets (.acquire hd (sx 0 0 0 16 0 0)) id fun _ t => 16 ≤ t.allot, meets (.acquire hd (sx 0 0 0 256 0 0)) (fun t => { t with allot := 8 }) fun s t => decide (t.allot < 256) && s.fits 0 t 256 && (s.waiters 0).all (fun e => e.1 == 0),
    meets (.acquire hd (sx 0 0 0 256 0 0)) (fun t => { wide t with allot := 8, lanes := 1024, live := BitVec.allOnes 1024, active := BitVec.allOnes 1024 }) fun s t => decide (t.allot < 256) && !s.fits 0 t 256,
    meets (.giveback hd (sx 0 0 0 16 0 0)) id fun _ _ => true,
    meets (.launch hd (sx 0 1 2 0 1 0)) (regs [] [(1, 0x20000)]) fun s t => readable s t 0x20000 && s.quiet 0 t.serial && decide ((s.pkg 0).pending.length < 4096) && (s.pkg 0).launchWait.isEmpty,
    meetsIn (fun s => s.updPkg 0 fun k => { k with pending := List.replicate 4096 (0, 0, .ofBytes []) }) (.launch hd (sx 0 1 2 0 1 0)) (regs [] [(1, 0x20000)]) fun s _ => decide (4096 ≤ (s.pkg 0).pending.length),
    meetsIn (fun s => s.updPkg 0 fun k => { k with pending := List.replicate 4096 (0, 0, .ofBytes []) }) (.launch hd (sx 0 1 2 0 0 0)) (regs [] [(1, 0x20000)]) fun s _ => decide (4096 ≤ (s.pkg 0).pending.length),
    meets (.launch hd (sx 0 1 2 0 1 0)) (fun t => { t with latch := some (List.replicate 8 5) }) fun s t => t.latch.any (fun ws => !ws.isEmpty) && s.quiet 0 t.serial,
    meetsIn (fun s => s.updPkg 0 fun k => { k with launchWait := [1] }) (.launch hd (sx 0 1 2 0 1 0)) (regs [] [(1, 0x20000)]) fun s _ => (s.pkg 0).launchWait.find? (fun x => !inImage x) == some 1,
    meetsIn (fun s => s.updPkg 0 fun k => { k with launchWait := [0] }) (.launch hd (sx 0 1 2 0 1 0)) (fun t => { t with latch := some (List.replicate 8 5) }) fun s t =>
      (s.pkg 0).launchWait.head? == some 0 && s.quiet 0 t.serial && decide ((s.pkg 0).pending.length < 4096),
    meetsIn strong (.launch hd (sx 0 1 2 0 1 0)) (regs [] [(1, 0x20000)]) fun s t => readableStrong s t 0x20000,
    meets (.lstat hd (sx 0 1 2 0 0 0)) id fun _ _ => true] = true := by decide +kernel

/-- Both ways of page 2's set at package 0 hold masters, one of which may be lodged. -/
def lodgers0 (s : State) : State := s.updPkg 0 fun k => { ((k.setTag (2 * setOf 2) { gpn := 0x100002, state := .masterExcl }).setTag (2 * setOf 2 + 1) { gpn := 0x200002, state := .masterExcl }) with lodgectl := 2 ^ 33 - 1, neigh := 1 + 2 ^ 32 + 2 ^ 36 }
def reeve (t : Team) : Team := { regs [] [(2, 0x20000), (3, 0x10000)] t with role := .reeve }
def pageRange (s : State) (t : Team) : Bool :=
  !s.rangeBusy 0 t.ctx 0x20000 0x10000 && s.quiet 0 t.serial && t.relWait.isNone && ((s.release 0 5).pkg 0).posted.isEmpty && ((s.release 0 5).rangePages 0 t.ctx 0x20000 0x10000).2.1.isNone
theorem witness_TrapsSpecialRegistersPages : allOf ([
    meets (.trap hd (sx 0 0 0 65535 0 0)) id fun _ _ => true] ++
    [0x000, 0x001].map (fun n => meets (.rdsr hd (sx 3 0 0 n 0 0)) id fun _ _ => true) ++
    ((List.range 18).map (· + 2) ++ (List.range 10).map (· + 256)).map (fun n => meets (.rdsr hd (sx 0 3 0 n 0 0)) id fun _ t => t.executes hd) ++ [
    meets (.wrsr hd (sx 0 3 0 0x10 0 0)) id fun _ _ => true, meets (.wrsr hd (sx 0 3 0 0x13 0 0)) id fun _ _ => true,
    (let s := at_ (.wrsr hd (sx 0 3 0 0x12 0 0)); s.precheck 0 (tm s) (.wrsr hd (sx 0 3 0 0x12 0 0)) hd == some (.illegal, 0x16)),
    meets (.pgqry hd (sx 0 1 2 0 0 0)) (regs [] [(1, 0x20000)]) fun s t => (s.translate 0 t.ctx 0x20000).2 matches .ok _, meets (.pgqry hd (sx 0 1 2 3 0 0)) (regs [] [(1, 0x90000)]) fun s t => (s.translate 0 t.ctx 0x90000).2 matches .fail _,
    meets (.pgctlPin hd (sx 0 2 4 0 1 0)) id fun _ t => t.role != .reeve, meets (.pgctlPin hd (sx 0 2 4 0 1 0)) (fun t => { t with role := .reeve }) fun _ t => t.rs 3 == 0,
    meets (.pgctlPin hd (sx 0 2 4 0 1 0)) reeve pageRange, meets (.pgctlPin hd (sx 0 2 4 7 1 0)) reeve fun s t => pageRange s t && !s.present 0 7, meets (.pgctlAttract hd (sx 0 2 4 0 0 0)) reeve pageRange,
    meetsIn (fun s => s.updCore 0 fun k => { k with locks := [⟨9, true, some 1, 0, 0x20000, 0x20010⟩] }) (.pgctlAttract hd (sx 0 2 4 0 0 0)) reeve fun s t => s.rangeBusy 0 t.ctx 0x20000 0x10000,
    meets (.pgctlPin hd (sx 0 2 4 0 1 0)) (fun t => { reeve t with latch := some [0x20000, 0x10000, 2] }) fun s t => pageRange s { t with s := [] } && t.latch == some [0x20000, 0x10000, 2],
    meetsIn (fun s => (lodgers0 (elsewhere (withData s))).setChange 5 { kind := .lodge, stage := .waiting, gpn := 0x800003, src := 0, dst := 0, frame := 2 * setOf 2, req := some 9 }) (.pgctlPin hd (sx 0 2 4 0 1 0)) reeve
      fun s t => ((((s.release 0 5).rangePages 0 t.ctx 0x20000 0x10000).1.switchPages (fun s l => s.pinPage 0 l.gpn l.twin 0 false) ((s.release 0 5).rangePages 0 t.ctx 0x20000 0x10000).2.2).2.2 matches some (2, .behind 5)),
    meets (.pgctlAttract hd (sx 0 2 4 0 0 0)) reeve fun s t => (let x := (s.release 0 5).rangePages 0 t.ctx 0x20000 0x10000; x.2.2.length == 1 && (x.1.switchPages (fun s l => s.attractPage 0 l.gpn l.twin) x.2.2).2.2 == none),
    meetsIn (fun s => s.setParish 0 2 { refs := 1, master := 0, busy := true }) (.pgctlAttract hd (sx 0 2 4 0 0 0)) reeve fun s t => (let x := (s.release 0 5).rangePages 0 t.ctx 0x20000 0x10000;
      (x.1.switchPages (fun s l => s.attractPage 0 l.gpn l.twin) x.2.2).2.2 == some (2, .wait)),
    meetsIn (fun s => lodgers0 (elsewhere (withData s))) (.pgctlPin hd (sx 0 2 4 0 1 0)) reeve fun s t => (let x := (s.release 0 5).rangePages 0 t.ctx 0x20000 0x10000;
      x.1.present 0 0 && !x.1.noRoute 0 0 && ((x.1.switchPages (fun s l => s.pinPage 0 l.gpn l.twin 0 false) x.2.2).2.2 matches some (2, .lodge _ _)))]) = true := by
  decide +kernel

def intBlock (s : State) : State := s.updShare 0 fun x => { x with stream := x.stream.map fun m => { m with blocks := List.replicate 4 ⟨true, true, []⟩ } }
theorem witness_AccumulatorAccess : allOf [
    meets (.accrd hd (sx 3 1 0 0 0 3)) id fun s t => (t.rs 1).toNat + 0 < 128 && (s.stream 0).any fun m => 3 < m.blocks.length, meets (.accrd hd (sx 3 1 0 0 0 3)) (regs [] [(1, 128)]) fun _ t => 128 ≤ (t.rs 1).toNat && t.tryR.isNone,
    meets (.accrdStat hd (sx 0 0 2 0 3 0)) id fun _ _ => true, meets (.accwr hd (sx 3 1 0 0 0 0)) id fun _ _ => true, meets (.accrs hd (sx 3 1 0 0 0 0)) id fun _ _ => true,
    meets (.accwr hd (sx 3 1 0 0 0 0)) (regs [] [(1, 128)]) fun _ t => 128 ≤ (t.rs 1).toNat, meets (.accrs hd (sx 3 1 0 0 0 0)) (regs [] [(1, 128)]) fun s t => 128 ≤ (t.rs 1).toNat && (s.stream 0).any fun m => m.blocks.any fun b => !b.isInt,
    meets (.accmax hd (sx 3 1 0 255 0 0)) (regs [] [(1, 128)]) fun _ t => 128 ≤ (t.rs 1).toNat && (t.act hd) == [0],
    meetsIn intBlock (.accrs hd (sx 3 1 0 0 0 0)) id fun s t => (s.stream 0).any (fun m => m.blocks.all (·.isInt)) && !(t.act hd).isEmpty, meets (.accmax hd (sx 3 1 0 255 0 0)) id fun _ t => (t.rs 1).toNat + 0 < 128] = true := by
  decide +kernel

/-! ### Press words, cellar dies, the host -/

/-- The machine with a running stream on core 0, its stream and share changed. -/
def pressAt (f : Stream → Stream) (g : Share → Share := id) : State := State.reset.setShare 0 (g { placedShare with stream := placedShare.stream.map f })
def pressed (s : State) (f : PF) (uses : Bool) : Bool := (s.share s.cur).any fun x => x.core == some 0 && x.stream.any fun m => m.st == .running && (!uses || decide (f.acc.toNat < m.blocks.length))
def pf (acc offa offb pfl : Nat) : PF := ⟨BitVec.ofNat 5 acc, BitVec.ofNat 14 offa, BitVec.ofNat 14 offb, 0, 3, 255, 255, BitVec.ofNat 2 pfl⟩
theorem presses_sound {s : State} {f : PF} {u : Bool} (h : pressed s f u = true) : ∃ x m, s.Presses x m 0 f u := by
  unfold pressed at h
  rw [Option.any_eq_true] at h
  obtain ⟨x, hx, h⟩ := h
  simp only [Bool.and_eq_true, beq_iff_eq, Option.any_eq_true] at h
  obtain ⟨hc, m, hm, hr, hu⟩ := h
  exact ⟨x, m, hx, hm, hc, hr, by intro hu'; simpa [hu'] using hu⟩

theorem witness_PressControlAndHalts : allOf [
    pressed (pressAt id) (pf 0 0 0 0) true, pressed (pressAt fun m => { m with lc := [(0, 3)] }) (pf 0 0 0 0) false, decide (256 * 0 + 32 ≤ placedShare.spbytes) && fbBad 0 3 == none,
    pressed (pressAt fun m => { m with seen := 8 }) (pf 0 0 0 0) false && (({} : Bell).phase != (8 : BitVec 16).getLsbD 3), (State.reset.teams.all fun e => e.2.share != 0),
    pressed (pressAt fun m => { m with blocks := [] }) (pf 0 0 0 0) false, decide (placedShare.spbytes < 256 * 16383 + 32), decide ((0 : Nat) < 4 ∧ placedShare.spbytes < 256 * 1 + 65536),
    (fbBad (natOfBytes (List.replicate 32 0xFF)) 3).isSome, (pressed ((pressAt id).setSpBytes 0 0 (List.replicate 32 0xFF)) (pf 0 0 0 0) false),
    ((State.reset.updPkg 0 fun k => { k with duty := 1 }).pkg 0).duty.getLsbD 0, !(State.reset.pkg 0).duty.getLsbD 0] = true := by decide +kernel

/-- BF16 operands, a float block. -/
def fmt1 (n : Nat) : Stream → Stream := fun m => { m with f := [(0, bytesOf 32 n)] }
def fbFits (n : Nat) (isInt : Bool) : Bool := (fmtOf (fbA n)).any fun a => (fmtOf (fbB n)).any fun b => pmmOk n isInt && decide (regionBytes a ≤ 65536 ∧ regionBytes b + 16 ≤ 65536)
theorem witness_PressMultiply : allOf [
    pressed (pressAt (fmt1 0x10001)) (pf 0 0 0 0) true && fbFits 0x10001 false, pressed (pressAt fun m => { fmt1 0x900060006 m with blocks := [⟨true, false, []⟩] }) (pf 0 0 0 0) true && fbFits 0x900060006 true,
    fbFits (0x10001 + 2 ^ 8 + 2 ^ 24 * 2 + 2 ^ 64 * 0x2000 + 2 ^ 96 * 0x4000) false && decide (0x2000 + 2 * 128 * 2 ≤ 65536 ∧ 0x4000 + 2 * 128 ≤ 65536),
    decide (((pressAt id).core 0).pressFree ≤ (pressAt id).now) && ((pressAt id).core 0).gated == 0xFFFF,
    (((pressAt id).updCore 0 fun k => { k with gated := 0 }).core 0).gated == 0, decide ((pressAt id).now < (((pressAt id).updCore 0 fun k => { k with pressFree := 9 }).core 0).pressFree)] = true := by
  decide +kernel

theorem witness_PressLoadsAndStores : allOf [
    pressed (pressAt id) (pf 0 0 0 0) true && decide (256 * 0 + 65536 ≤ placedShare.spbytes), pressed (pressAt (fmt1 (2 ^ 160))) (pf 0 0 0 1) true && (fmtOf (fbEfmt (2 ^ 160))).any fun e => decide (16384 * fmtBits e / 8 ≤ 65536),
    pressed (pressAt fun m => { m with blocks := [⟨false, false, [(1, 5), (16383, 7)]⟩] }) (pf 0 0 0 0) true && decide (Rising [(1, (5 : Lane32)), (16383, 7)]), decide (4 * 128 ≤ 65536)] = true := by decide +kernel

theorem witness_PressRows : allOf [
    pressed (pressAt (fmt1 (2 ^ 160))) (pf 0 2 8 0) true && isFloatFmt (fbEfmt (2 ^ 160)), decide (256 * 2 + 4 * 128 ≤ placedShare.spbytes), (fmtOf 1).any fun e => decide (256 * 8 + 4 * regionBytes e ≤ 65536)] = true := by decide +kernel

def cf (row sector way res : Nat) : CF := ⟨0, 5, way == 1, BitVec.ofNat 19 row, BitVec.ofNat 11 sector, 1, 0xF0, BitVec.ofNat 17 res⟩
def dies (k : Pkg → Pkg) : State := State.reset.updPkg 0 k
theorem witness_CellarProtocol :
    find (dies id |>.pkg 0).ports (portKey 2 3 5) = none ∧ (3 = (cf 3 0 0 0).row.toNat % 64) ∧ (7 = ((cf 3 4 1 0).row.toNat + (cf 3 4 1 0).sector.toNat) % 64) ∧
    (∀ w ∈ [76, 77], ((dies fun k => k.setTag w { gpn := 9, state := .replica }).pkg 0).tag w = { gpn := 9, state := .replica }) ∧
    (let k := (dies fun k => { k with symErr := [(2, 7), (3, 64)], poison := [(4, 1)] }).pkg 0
     find k.symErr 1 = none ∧ find k.poison 1 = none ∧ find k.symErr 2 = some 7 ∧ find k.symErr 3 = some 64 ∧ (find k.poison 4).isSome) ∧
    (find ((dies fun k => { k with ports := put k.ports (portKey 2 3 5) [(⟨5, 0, false, 0⟩ : RF).word 3] }).pkg 0).ports (portKey 2 3 5)).isSome ∧ (⟨5, 0, false, 0⟩ : RF).tag = (cf 3 0 0 1).tag ∧ (cf 3 0 0 1).res ≠ 0 := by
  decide +kernel

/-- Package 0 is READY and runs command op. -/
def cmd (op : Nat) (args : List (Nat × Word)) (f : Pkg → Pkg := id) : State :=
  State.reset.updPkg 0 fun k => f { k with cmdOp := some (BitVec.ofNat 8 op), busy := true, stage := 6, args := args }
def mapped2 (e : ParishEnt) (s : State) : State := s.setParish 0 2 e
def goodCtx : List Byte := [0x00, 16, 0, 0, 0, 0, 0, 0].flatMap (bytesOf 8)
theorem witness_HostCommands_context :
    (cmd 1 [(0, 5)]).Commands 0 1 ∧ CtxRule goodCtx (some ⟨0, 0, 0, 16, 0, 0⟩) ∧ CtxRule (List.replicate 64 (0 : Byte)) none ∧
    ((cmd 1 [(0, 5)]).setHostBytes 320 goodCtx).hostBytes ((((cmd 1 [(0, 5)]).pkg 0).bootReg 0x58).toNat + 64 * 5) 64 = goodCtx ∧ (cmd 1 [(0, 5)]).accessing 5 0 0 = false ∧
    ((cmd 1 [(0, 5)] fun k => { k with ctxs := [(5, ⟨0, 0, 0, 16, 0, 0⟩)] }).updCore 0 fun k => { k with locks := [⟨9, true, some 5, 0, 0, 16⟩] }).accessing 5 0 0 = true := by
  refine ⟨by unfold State.Commands; decide +kernel, ?_, ?_, by decide +kernel, by decide +kernel, by decide +kernel⟩ <;> unfold CtxRule <;>
    decide +kernel

theorem witness_HostCommands : allOf [
    (cmd 2 [(0, 5)]).accessing 5 0 0 == false, ((cmd 3 [(0, 2)]).parishEnt 0 2).isNone, ((mapped2 { refs := 1, master := 0 } (cmd 3 [(0, 2)])).parishEnt 0 2).any fun e => e.refs == 1,
    ((mapped2 { refs := 65535, master := 0 } (cmd 3 [(0, 2), (1, 1)])).parishEnt 0 2).any fun e => decide (1 < e.refs), ((mapped2 { refs := 0, master := 0 } (cmd 4 [(0, 2)])).parishEnt 0 2).any fun e => e.refs == 0,
    (cmd 4 [(0, 2)]).pkgs.all (fun q => q.2.knownLost 2 == false && q.2.stateOf 2 != .draining) && (cmd 4 [(0, 2)]).changes.isEmpty,
    (cmd 4 [(0, 2)] fun k => k.setTag (2 * setOf 2) { gpn := 2, state := .lost }).pkgs.any (fun q => q.2.knownLost 2), (find ((cmd 7 [(0, 3)]).pkg 0).hreqs 3).isNone,
    (let k := (cmd 7 [(0, 3)] fun k => { k with hreqs := [(3, { kind := 1, core := 0, a := 0, b := 2, c := 0 })], hreqHead := 4, hreqTail := 5 }).pkg 0; !decide (((3 : BitVec 32) - k.hreqHead).toNat < (k.hreqTail - k.hreqHead).toNat)),
    ([1, 2, 3, 4, 5, 6, 7].all fun n => [0, 255].all fun c => (let k := (cmd 7 [(0, 3), (1, 0)] fun k => { k with hreqs := [(3, { kind := n, core := c, a := 0, b := 2, c := 0 })], hreqHead := 3, hreqTail := 4 }).pkg 0
      decide (((3 : BitVec 32) - k.hreqHead).toNat < (k.hreqTail - k.hreqHead).toNat) && (find k.hreqs 3).any fun h => h.kind == n)),
    (let s := { cmd 3 [(0, 2)] with fresh := 9 }.updPkg 0 fun k => { k with podsize := 2, linkUp := 0 }; [2, 3].any fun g => s.sliceCut 0 g),
    (cmd 3 [(0, 2)]).sliceCut 0 2 == false, (cmd 4 [(0, 2)]).pkgs.all fun q => ((cmd 4 [(0, 2)]).parishSees q.1 2).isNone, (({ cmd 1 [(0, 5)] with grids := [(3, { pkg := 1, queue := 7, ctx := 5, kernel := (Kernel.ofBytes []).1, launch := .ofBytes [], ticket := none, admittedAt := 0 })] } : State).grids.any fun g => g.2.ctx == 5),
    leafOk (BitVec.ofNat 64 (2 ^ 63 + 2 ^ 62 + 2)) 0, ((cmd 7 [] fun k => k.setTag (2 * setOf 2) { gpn := 2, state := .replica }).pkg 0).stateOf 2 |>.serves,
    decide (2 ^ 40 < 1 + (2 ^ 40 : Nat)) && decide (0 + (2 ^ 40 : Nat) ≤ 2 ^ 40), ((cmd 9 []).pkg 0).cmdOp == some 9 && ((cmd 9 []).pkg 0).busy, ((cmd 10 []).pkg 0).stage == 6 && ((cmd 0 []).pkg 0).cmdOp == some 0,
    (State.reset.updPkg 0 fun k => { k with cmdOp := some 1, busy := true }).pkg 0 |>.stage |> (· != 6)] = true := by decide +kernel

def streamed (st : StreamState) : State := (cmd 5 [(0, 0), (1, 0)]).setShare 0 { placedShare with stream := placedShare.stream.map fun m => { m with st := st } }
def escalated (c : CauseRec) (n : Nat) : State := (cmd 6 [(0, 1), (1, BitVec.ofNat 64 n)]).setTeam 0 { placedTeam 0 0 1 with run := .frozen, escalated := true, admitted := false, cause := c }
theorem witness_HostCommands_streams_teams : allOf ([
    ((cmd 5 []).streamsOf 0)[0]? == none, (streamed .running).stream 0 |>.any (fun m => m.st == .running), ((streamed .running).streamsOf 0)[0]?.isSome, (streamed .ended).stream 0 |>.any (fun m => m.st == .ended),
    (streamed .halted).stream 0 |>.any (fun m => m.st == .halted), (cmd 6 []).teams.isEmpty, (escalated cr0 0).teams.length == 1 && (escalated cr0 0).teams.all (fun e => e.2.serial == 1 && e.2.stepping.isNone && e.2.settled),
    (escalated { cr0 with atHeader := true } 2).teams.all fun e => e.2.cause.atHeader, ((escalated cr0 1).updTeam 0 fun t => { t with escalated := false }).teams.all fun e => !e.2.escalated]) = true := by decide +kernel

/-- A reachable package 0. -/
def ready (f : Pkg → Pkg := id) : State := State.reset.updPkg 0 fun k => f { k with stage := 6 }
theorem witness_HostRegisters : allOf [
    (State.reset.pkg 0).reachable == false, (ready.pkg 0).reachable, ([0x010, 0x050, 0x2018, 0x10040, 0x100018, 0x18FFF8, 0x207FF0].all fun o => (rwMask o).isSome), (rwMask 0x10000).isNone,
    (ready.pkg 0).busy == false, ((ready fun k => { k with busy := true }).pkg 0).busy, decide (2 ^ min 16 0 < ((2 : BitVec 32) - 0).toNat), decide (¬2 ^ min 16 0 < ((1 : BitVec 32) - 0).toNat),
    (let x : Queue := { log2n := 4, tail := 1, entered := [none], asked := some 4, answer := some 0 }
     x.nextRecord == ({ x with tail := 2, entered := [none, none] } : Queue).nextRecord && x.nextRecord.map (·.2) != ({ x with tail := 0, entered := [] } : Queue).nextRecord.map (·.2)),
    ((ready fun k => { k with gleanDue := [3] }).pkg 0).gleanDue == [3],
    ((ready fun k => { k with msixPend := [(2047, true)] }).pkg 0).msixPend == [(2047, true)]] = true := by decide +kernel

def staged (n : Nat) : State := State.reset.updPkg 0 fun k => { k with stage := n }
def image : List Byte := bytesOf 8 0x4B463957 ++ bytesOf 8 4096
theorem witness_BootStages : allOf [
    ([0, 1, 2, 3, 4, 5].all fun n => ((staged n).pkg 0).stage == n), ((staged 4).hostByte 0 == 0), ((staged 4).setHostBytes 0 image).hostBytes 0 16 == image && decide (4096 % 4096 = 0 ∧ 4096 ≤ 67108864),
    ((staged 5).counted 0 == false), (staged 5).changes.isEmpty, ((ready).pkg 0).reachable] = true := by decide +kernel

/-! ### The window, events, the scheduler -/

/-- Context 1 of package 0 has window pages 2, in its frame, and 4, which is host page 0. -/
def windowAt_ : State := (withData (ready fun k => { k with boot := [(0x50, 1)] })).updPkg 0 fun k =>
  { k with tlb2 := [⟨1, 2, 0, BitVec.ofNat 64 (2 ^ 63 + 2 ^ 62 + 2 ^ 59 + 2), 0, 0⟩, ⟨1, 4, 0, BitVec.ofNat 64 (2 ^ 63 + 2 ^ 62 + 2 ^ 59 + 0xFF00000000), 0, 0⟩] }
def looked (s : State) (off : Word) (n : Nat) (write : Bool) : State × Chk := s.windowCheck 0 off.toNat n write
def oneLeaf (r : State × Chk) (P : State → Piece → Bool) : Bool := match r.2 with
  | .ok [x] => r.1.requests.all (fun e => e.2.win != some r.1.fresh && decide (e.1 < r.1.fresh)) && x.addr / 65536 == x.leaf.gpn && P r.1 x
  | _ => false
def onGranule (k : Pkg → Pkg) : State := windowAt_.updPkg 0 k
theorem witness_WindowAccess : allOf [
    (windowAt_.pkg 0).reachable, oneLeaf (looked windowAt_ 0x40000 8 true) fun _ x => decide (0xFF00000000 ≤ x.leaf.gpn) && x.len == 8, (looked windowAt_ 0x90000 8 false).2 matches .bad _,
    (looked (windowAt_.updPkg 0 fun k => { k with duty := 8, ctxs := [(1, ⟨0, 1, 0, 36, 0, 0⟩)] }) 0x90000 8 false).2 matches .wait _,
    oneLeaf (looked windowAt_ 0x20000 64 true) fun s x => x.leaf.gpn == 2 && x.len == 64 && !s.sectorBusy 0 4096 && !s.sectorBusy 0 4097 && (s.pkg 0).frameOf 2 == some (2 * setOf 2) && (s.pkg 0).stateOf 2 == .masterExcl &&
      !s.busy 0 2 && (s.twinAt 0 2).isNone && (s.pkg 0).poison.isEmpty && (s.pkg 0).symErr.isEmpty,
    oneLeaf (looked windowAt_ 0x20010 8 false) fun s _ => ((s.pkg 0).stateOf 2).serves,
    oneLeaf (looked (onGranule fun k => k.setTag (2 * setOf 2) { gpn := 2, state := .draining }) 0x20000 8 false) fun s _ => (s.pkg 0).stateOf 2 == .draining,
    oneLeaf (looked (onGranule fun k => { k.setTag (2 * setOf 2) {} with podsize := 3 }) 0x20000 8 true) fun s _ => s.cutOff 0 2 && ((s.pkg 0).frameOf 2).isNone && s.requests.isEmpty,
    oneLeaf (looked (onGranule fun k => { k with poison := [(2048 * (2 * setOf 2), 1)] }) 0x20000 8 true) fun s _ => (find (s.pkg 0).poison (2048 * (2 * setOf 2))).isSome,
    (looked (onGranule fun k => { k with poison := [(2048 * (2 * setOf 2), 1)] }) 0x20000 8 false).2 == .bad .poison,
    oneLeaf (looked (req (.write [] false) windowAt_) 0x20000 8 true) fun s x => s.sectorBusy 0 (x.addr / 32),
    (let s : State := { windowAt_ with windows := [(3, { pkg := 0, write := false, locs := [0x20000] })] }; (find s.windows 3).isSome && s.requests.all fun e => e.2.win != some 3),
    (let s := ({ req .load windowAt_ with windows := [(3, { pkg := 0, write := false, locs := [0x20000] })] } : State).mapRequests fun q => { q with win := some 3 }; s.requests.any fun e => e.2.win == some 3)] = true := by decide +kernel

def parkedOn (c : Cond) : State := (at_ (.nop hd (bb 0 0))).updTeam 0 fun t => { t with run := .parked c, admitted := false }
def holdsNow (c : Cond) : Bool := (parkedOn c).condHolds 0 (tm (parkedOn c)) c
def waitingStream (st : StreamState) : State := pressAt fun m => { m with st := st }
theorem witness_CoreEvents : allOf [
    (owed (placedTeam 0 0 0)).outst[0]?.any (fun o => o.parts.all fun q => q.lane < 1) && (placedTeam 0 0 0).pend.isEmpty, holdsNow .results, !holdsNow (.bell 3), holdsNow (.acquired 2 false),
    !(let s := (parkedOn (.acquired 2 false)).addRequest 0 4096 1 .load { tk := 0, serial := 1, leaf := none } []; s.condHolds 0 (tm s) (.acquired 2 false)),
    (tm (parkedOn (.sleep 0))).run == .parked (.sleep 0), (tm (at_ (.nop hd (bb 0 0)))).run == .running,
    (let s := (parkedOn .results).updTeam 0 fun t => { t with role := .reeve, run := .running, word := none }
     let s := { s with now := 4097 }.updPkg 0 fun k => { k with wdog := 1 }
     (tm s).interruptible && (tm s).stepping.isNone && decide ((s.pkg 0).wdog.toNat * 4096 < s.now - (tm s).spawnedAt)),
    ((waitingStream (.waiting 3)).stream 0).any fun m => m.st == .waiting 3 && (m.bells.getD 3 {}).phase == m.seen.getLsbD 3, (waitingStream (.waiting 3)).teams.isEmpty && (waitingStream (.waiting 3)).xfers.isEmpty,
    ((pressAt fun m => { m with st := .waiting 3, seen := 8 }).stream 0).any fun m => (m.bells.getD 3 {}).phase != m.seen.getLsbD 3, ((waitingStream .running).stream 0).any fun m => m.st == .running,
    (let k := (({ pressAt id with now := 0x400 } : State).updCore 0 fun k => { k with gated := 0 }).core 0; k.idle != 0 && decide (getD 0 k.lastUse 0 + k.idle.toNat ≤ 0x400)),
    (let s := ({ pressAt id with now := 180 } : State).updCore 0 fun k => { k with wakeAt := [(2, 180)] }; (find (s.core 0).wakeAt 2).any fun n => decide (n ≤ s.now)),
    ([Cond.walk 3, .still [2], .lodged 5 (some 2), .quiet].all holdsNow), (let s := (parkedOn (.still [2])).setParish 0 2 { refs := 1, master := 0, busy := true }; s.busy 0 2),
    (let s := parkedOn .launchRoom; s.condHolds 0 (tm s) .launchRoom == false), (parkedOn (.fetched [9])).condHolds 0 (tm (parkedOn (.fetched [9]))) (.fetched [9])] = true := by
  decide +kernel

def admitting (f : Team → Team) : State := (at_ (.nop hd (bb 0 0))).updTeam 0 fun t => f { t with admitted := false }
def big (t : Team) : Team := { t with lanes := 1024, allot := 128 }
theorem witness_Admission : allOf [
    (admitting id).teams.all (fun e => e.1 < 138240 && !e.2.admitted && e.2.stepping.isNone && e.2.run == .running), (admitting fun t => { t with run := .parked (.admission 8) }).teams.all fun e => e.2.run == .parked (.admission 8),
    (at_ (.nop hd (bb 0 0))).teams.all (fun e => e.2.admitted), decide (32 * 128 * 128 ≤ ((admitting big).core 0).partition % 32 * 65536),
    decide (((admitting id).core 0).partition % 32 * 65536 < 2 * (32 * 128 * 128)),
    ((admitting fun t => { big t with role := .reeve }).setTeam 1 { big (placedTeam 0 0 1) with admitted := true }).teams.any fun e => e.2.admitted && e.2.role != .reeve && !e.2.withdrawn] = true := by decide +kernel

/-- A context whose reeve header is at 0x20000: version 3, PRO8 4, FULL8 32, entry 64. -/
def reeved (hdr : Word) (s : State) : State := (s.updCore 0 fun k => { k with waiting := [.frozen 1] }).updPkg 0 fun k => { k with ctxs := [(1, ⟨0, 1, 0, 36, hdr, 7⟩)] }
def kernelRec : List Nat := [3 + 2 ^ 36 * 4 + 2 ^ 42 * 32, 0x00181008, 64, 0, 0x10000, 0, 0, 0]
def spawnAt : State := data 0 kernelRec (reeved 0x20000 (frozenAt cr0 (at_ (.nop hd (bb 0 0)))))
theorem witness_ReeveSpawns : allOf [
    (State.reset.core 0).waiting.isEmpty, (spawnAt.core 0).waiting == [.frozen 1], (spawnAt.team 1).any fun t => t.settled && t.stepping.isNone, ((spawnAt.updTeam 1 owed).team 1).any fun t => !t.settled,
    ((find (spawnAt.pkg 0).ctxs 1).any fun c => c.reeveHdr != 0) && !spawnAt.walkAsked 0 (hwWho 0) 1 0x20000, (find ((reeved 0 (frozenAt cr0 State.reset)).pkg 0).ctxs 1).any fun c => c.reeveHdr == 0,
    (match spawnAt.readRecord (hwWho 0) 0 1 0x20000 with | (s1, .ok bs) => (Kernel.ofBytes bs).1.readable (Kernel.ofBytes bs).2 0x20000 && (Kernel.ofBytes bs).1.allotOk && s1.teams == spawnAt.teams | _ => false),
    (match (reeved 0x20000 (frozenAt cr0 (at_ (.nop hd (bb 0 0))))).readRecord (hwWho 0) 0 1 0x20000 with | (_, .ok bs) => !(Kernel.ofBytes bs).1.allotOk | _ => false),
    (spawnAt.readRecord (hwWho 0) 0 1 0x90000).2 == .bad, [16, 17, 18, 19].all (fun k => spawnAt.slotFree k), (spawnAt.reeveStart (.frozen 1)).isSome, ((spawnAt.updTeam 1 owed).reeveStart (.frozen 1)).isNone, (spawnAt.reeveStart (.departed ended1 cr0)).isSome,
    (spawnAt.unlisted 0).isNone, (let s := spawnAt.updCore 0 fun k => { k with waiting := [] }; (s.unlisted 0).any (fun e => e.1 == 1) && !s.reeveless 0 1), (let s := (spawnAt.updCore 0 fun k => { k with waiting := [] }).updPkg 0 fun k => { k with ctxs := [] }; (s.unlisted 0).isSome && s.reeveless 0 1), [16, 17, 18].all fun k => ((spawnAt.setTeam 16 (placedTeam 0 0 1) |>.setTeam 17 (placedTeam 0 0 1) |>.setTeam 18 (placedTeam 0 0 1)).team k).isSome] = true := by
  decide +kernel

def report (serial : Nat) : Report := ⟨0, serial, 2, .poison, 0x10008, 4096, [(0, 0x20010)]⟩
def reported (serial : Nat) (f : Team → Team) : State := { (at_ (.nop hd (bb 0 0))).updTeam 0 f with reports := [report serial] }
theorem witness_Reports : allOf [
    (reported 1 fun t => { t with run := .frozen }).reports[0]?.any fun r => r == report 1, (tm (reported 1 fun t => { t with run := .frozen, reports := List.replicate 4 (report 1) })).reports.length == 4,
    (tm (reported 1 fun t => { t with word := none })).interruptible && (tm (reported 1 id)).serial == 1, !(tm (reported 1 fun t => { t with word := some 0 })).interruptible, (tm (reported 9 id)).serial != 9,
    ((reported 9 id).pkg 0).endedTeams.isEmpty, (((reported 5 id).updPkg 0 fun k => { k with endedTeams := [ended1] }).pkg 0).endedTeams.find? (fun e => e.serial == 5) == some ended1,
    (tm (reported 1 fun t => { t with run := .freezing })).run == .freezing] = true := by decide +kernel

def queue1 (q : Queue) (s : State := State.reset) : State := s.updPkg 0 fun k => { k with stage := 6, queues := [(7, q)] }
def launch1 : Launch := { kernel := 0x20000, param := 5, gx := 1, gy := 1, gz := 1, cw := 1, ch := 1, resOk := true, energy := 10, done := 0 }
def kernel1 : Kernel := { version := 3, ftz := false, lanes := 32, teams := 2, pro8 := 2, full8 := 4, partition := 0x00181008, roles := 0, entry := 64, press := 0x100, spbytes := 0x1000, accblk := 1, rings := 2 }
def grid1 : Grid := { pkg := 0, queue := 7, ctx := 1, kernel := kernel1, launch := launch1, ticket := none, admittedAt := 0 }
def fg : Queue := { en := true, period := 10, deadline := 8, budget := 4, refill := 1, pcap := 100, ctx := 1, ring := 0, log2n := 4, tail := 1, entered := [none], balance := 50000 }
def schedChecks (s : State) (va : Word) : State × Chk := s.asHardware 0 (schedWho 0) Chk.waits fun s => s.checkGlobal 0 1 va 8 true false false false
theorem witness_PeriodsMeteringAndCompletion : allOf [
    (let s := { queue1 fg with now := 36000 }; (s.queue 0 7).en && s.clock 0 % 3600 == 0 && (s.clock 0 / 3600 - (s.queue 0 7).t0) % (s.queue 0 7).period == 0 && (s.queue 0 7).startedAt != some (s.clock 0)),
    (let s := ({ queue1 fg with now := 36000 } : State).updPkg 0 fun k => { k with meteredAt := some 36000 }; (s.pkg 0).meteredAt == some (s.clock 0)), decide (((queue1 fg).queue 0 7).used < ((queue1 fg).queue 0 7).budget), decide (((queue1 { fg with used := 4 }).queue 0 7).budget ≤ 4), (({ queue1 fg with now := 3600000 } : State).clock 0) % 3600000 == 0,
    (let s := ({ at_ (.nop hd (bb 0 0)) with now := 3600, grids := [(0, grid1)] } : State); s.clock 0 % 3600 == 0 && (s.pkg 0).meteredAt != some 3600 && decide (Rising s.grids) && s.weights 0 == [(0, 2)] && decide (((s.weights 0).map (·.1)).Nodup)),
    (let s : State := { State.reset with grids := [(0, { grid1 with nextCluster := 1 })] }; (s.grid 0).any fun g => g.nextCluster == g.launch.gx * g.launch.gy * g.launch.gz && !s.reportDue 0 g && ((g.cores.foldl (fun s c => s.release c 5) s).pkg 0).posted.isEmpty),
    (let s : State := { State.reset.updPkg 0 (fun k => { k with posted := [(1, 9)], postSeq := 2 }) with grids := [(0, { grid1 with nextCluster := 1, released := some 2 })] }; (s.pkg 0).posted.any (fun x => decide (x.1 < 2)) && !((s.pkg 0).posted.all fun x => decide (2 ≤ x.1))),
    !windowAt_.walkAsked 0 (schedWho 0) 1 0x40000, oneLeaf (schedChecks windowAt_ 0x40000) fun _ x => decide (0xFF00000000 ≤ x.leaf.gpn) && x.addr % 8 == 0, (schedChecks windowAt_ 0x90000).2 matches .bad _,
    -- a DONE word in a page: its frame, a page in change, one that is freed
    oneLeaf (schedChecks windowAt_ 0x20000) fun s x => x.leaf.gpn == 2 && (corePath 0).all (fun l => (find (s.cache l).sectors (x.addr / 32)).isNone) && !s.sectorBusy 0 4096 && !s.busy 0 2 &&
      (s.parishSees 0 2).any (fun e => !e.lost && e.refs == 1 && e.master == 0 && e.twinpkg == 255) && (s.pkg 0).frameOf 2 == some (2 * setOf 2) && (s.pkg 0).stateOf 2 == .masterExcl && s.pkgs.all (fun q => q.2.stateOf 2 != .replica),
    oneLeaf (schedChecks (windowAt_.setParish 0 2 { refs := 1, master := 0, busy := true }) 0x20000) fun s _ => s.busy 0 2,
    oneLeaf (schedChecks (windowAt_.setParish 0 2 { refs := 0, master := 0 }) 0x20000) fun s _ => (s.parishSees 0 2).any fun e => e.refs == 0,
    -- weights by issue, and by what a core holds
    (let s := ({ at_ (.nop hd (bb 0 0)) with grids := [(0, grid1)] } : State).updCore 0 fun k => { k with issued := [(0, 3)] }; (s.core 0).issued == [(0, 3)] && s.teams.any (fun e => e.1 == 0 && e.2.grid == 0)),
    (let s := (at_ (.nop hd (bb 0 0))).updCore 0 fun k => { k with issued := [(4, 3)] }; s.teams.all (fun e => e.2.grid != 4) && s.shares.all (fun e => e.2.grid != 4))] = true := by decide +kernel

/-- A queue whose ring's first record launches the kernel at 0x20000 (Table 01-8). -/
def launchBytes : List Byte := [0x20000, 5, 1 + 2 ^ 16 + 2 ^ 32, 10, 0, 0, 0, 0].flatMap (bytesOf 8)
def launching (q : Queue) : State := (data 0 [3 + 2 ^ 16 * 31 + 2 ^ 32 + 2 ^ 36 * 2 + 2 ^ 42 * 4, 0x00181008, 64, 0, 0x1000, 0, 0, 0] ((withData (queue1 q)).updPkg 0 fun k =>
  { k with tlb2 := [⟨1, 2, 0, BitVec.ofNat 64 (2 ^ 63 + 2 ^ 62 + 2 ^ 59 + 2 ^ 58 + 2), 0, 0⟩] })).setHostBytes 0 launchBytes
theorem witness_QueueDispatch : allOf [
    decide (Rising ((launching fg).pkg 0).queues), (launching fg).queueOrder 0 == [7], (launching { fg with en := false }).queueOrder 0 == [], ((launching fg).headRecord 0 fg).any fun x => x.1 == 0 && x.2.1 == none && x.2.2 == launch1,
    !(launching fg).walkAsked 0 (schedWho 0) 1 0x20000 && !((launching fg).pkg 0).duty.getLsbD 5, ((launching fg).validate 0 1 launch1).2 matches .ok _, ((queue1 fg).validate 0 1 launch1).2 matches .bad _,
    decide (1000 * (10 : Int) ≤ fg.balance ∧ 10 ≤ ((launching fg).pkg 0).wavail), decide (¬1000 * (10 : Int) ≤ ({ fg with balance := 0 } : Queue).balance), decide (({ fg with pcap := 9 } : Queue).pcap < 10),
    (launching { fg with asked := some 4 }).admitRecord 0 7 == (launching { fg with asked := some 4 }, false), ((launching { fg with answer := some 5, asked := some 4 }).queue 0 7).answer == some 5,
    (let s := (launching fg).updPkg 0 fun k => { k with duty := 32 }; (s.pkg 0).duty.getLsbD 5 && (s.askHost 0 2 255 7 10 0x20000).2 == some 0),
    (let s := (launching fg).updPkg 0 fun k => { k with duty := 32, hreqTail := 4096 }; (s.askHost 0 2 255 7 10 0x20000).2 == none), decide (((launching fg).validate 0 1 launch1).1.grids.length < 2 ^ 32),
    (((launching fg).validate 0 1 launch1).1.queue 0 7 == fg), ((launching { fg with balance := 0 }).admitRecord 0 7) == (launching { fg with balance := 0 }, false)] = true := by decide +kernel

def pooled (g : Grid) : State := { State.reset with grids := [(3, g)] }.updPkg 0 fun k => { k with boot := [(0x18, BitVec.ofNat 64 (2 ^ 40 * 4096))] }
theorem witness_ClusterPlacement : allOf [
    (pooled grid1).nextGrid 0 == some (3, grid1), (pooled grid1).poolRoom 0 grid1, ((pooled grid1).findPlace 0 grid1 []).any fun l => l.length == 1, (pooled grid1).savedClusters 0 == [], decide (kernel1.teams ≤ 16),
    !((({ State.reset with grids := [(3, grid1)] } : State)).poolRoom 0 grid1)] = true := by decide +kernel

/-- A background cluster fills every core, and a foreground grid waits. -/
def clusterOf (c : Cluster) : State :=
  let s : State := { pooled grid1 with grids := [(2, { grid1 with queue := 8, nextCluster := 1, clusters := [9] }), (3, grid1)], fresh := 50 }
  ((s.updPkg 0 fun k => { k with queues := [(7, { fg with absdl := 5 }), (8, {})] }).setCluster 9 c).setShare 10 { placedShare with cl := 9, grid := 2, core := if c.saved then none else some 0, spbytes := 0x1000 }
def cl9 : Cluster := { grid := 2, index := 0, cw := 1, ch := 1, die := 0, shares := [10], placedSeq := 9 }
def fills (s : State) : State := (List.range 48).foldl (fun s c => s.setShare (100 + c) { placedShare with cl := 9, grid := 2, core := some c, spbytes := 24 * 65536 }) s
theorem witness_PreemptSaveResume : allOf [
    (let s := fills (clusterOf cl9); (s.clustersOf 0 (·.saving)).isEmpty && (s.clustersOf 0 (·.stopping)).isEmpty && s.gridsOf 0 == [(2, { grid1 with queue := 8, nextCluster := 1, clusters := [9] }), (3, grid1)] && (s.queue 0 7).period != 0 &&
      s.poolRoom 0 grid1 && (s.findPlace 0 grid1 []).isNone && (s.findPlace 0 grid1 ((s.victims 0 grid1).map (·.1))).isSome && (s.victims 0 grid1).map (·.1) == [9] && s.preemptable 9),
    (let s := clusterOf { cl9 with stopping := true }; (s.clustersOf 0 (·.stopping)).map (·.1) == [9]), (clusterOf { cl9 with saving := true }).clustersOf 0 (·.saving) != [],
    !((fills (clusterOf cl9)).setTeam 5 { placedTeam 0 0 1 with cl := 9, run := .frozen, tryR := (opened false (placedTeam 0 0 1)).tryR }).preemptable 9,
    ((clusterOf cl9).setTeam 5 { placedTeam 0 0 1 with cl := 9, word := none }).clusterTeams 9 |>.all fun e => e.2.run == .running && e.2.word.isNone && e.2.settled,
    (let s := clusterOf cl9; s.nextGrid 0 == some (3, grid1) && s.victims 0 grid1 == [(9, cl9)] && s.clusters.all (fun c => !c.2.saving) && (s.clusterTeams 9).isEmpty),
    (let s := fills (clusterOf cl9); (s.findPlace 0 grid1 []).isNone && (s.findPlace 0 grid1 [9]).isSome), ((clusterOf { cl9 with saving := true }).cluster 9).any (fun c => c.saving) && (clusterOf cl9).xfers.isEmpty,
    (let s := { clusterOf { cl9 with saved := true } with grids := [(2, { grid1 with queue := 8, nextCluster := 1 })] }; (s.cluster 9).any (fun c => c.saved && decide c.shares.Nodup && (s.resumePlace grid1 c) == some [(10, 0)]) && (s.nextGrid 0).isNone)] = true := by
  decide +kernel

/-! ### The directory and the fabric -/

/-- A pod of two packages, both READY, one plane up; package 1 masters page 2 in its frame. -/
def pod (st1 : FrameState) : State :=
  let s := { State.reset with fresh := 20 }
  let s := [0, 1].foldl (fun (s : State) p => s.updPkg p fun k => { k with stage := 6, podsize := 2, linkUp := 1, heartbeatAt := some 0 }) s
  (s.setParish 0 2 { refs := 1, master := 1 }).updPkg 1 fun k => k.setTag (2 * setOf 2) { gpn := 2, state := st1 }
def change1 (kind : ChangeKind) (stage : ChangeStage) (s : State) : State := s.setChange 5 { kind := kind, stage := stage, gpn := 2, src := 1, dst := 0, frame := 2 * setOf 2, req := none }
def at0 (st : FrameState) (s : State) : State := s.updPkg 0 fun k => k.setTag (2 * setOf 2) { gpn := 2, state := st }

/-- A vector-format word with every field zero. -/
def va0 : VA := ⟨0, 0, 0, 0, 0, 0, false, 0, 0⟩

theorem witness_field_checks : allOf [
    Instr.fieldOk (.logic hd { va0 with t := 9, fl := 3 }), Instr.fieldOk (.icmp hd { va0 with t := 9, sub := 5 }),
    Instr.fieldOk (.shfl hd { va0 with sub := 4 }) && Instr.pairOk (.shfl hd { va0 with sub := 4 }),
    Instr.fieldOk (.voteAll hd va0), Instr.fieldOk (.voteAny hd { va0 with sub := 1 }), Instr.fieldOk (.voteBallot hd { va0 with sub := 2 }),
    Instr.fieldOk (.voteUni hd { va0 with sub := 3 }), Instr.fieldOk (.kmov hd { va0 with sub := 3, fl := 1 }),
    Instr.fieldOk (.vbcast hd { va0 with sub := 2, fl := 1 }) && Instr.pairOk (.vbcast hd { va0 with sub := 2, fl := 1 })] = true := by
  decide +kernel

/-- Two packages whose hamlet slice names package 1 as a holder beside a master elsewhere. -/
def podHeld (st1 : FrameState) : State := (req .load (pod st1)).setHamlet 1 2 { present := 2 }

theorem witness_DirectoryClimbs_replica : allOf ([FrameState.replica, .invalid].map fun st => let s := podHeld st
    (s.request 20).any (fun q => q.kind == .load && !q.kind.isWrite) && (s.hamletEnt 0 2).any (fun m => m.master == 255) &&
    (s.parishSees 0 2).any (fun e => !e.lost && e.refs != 0 && s.present 0 e.master && (s.bump.noteAbsent 1 2).present 0 e.master) &&
    (s.hamletHolders 0 2).filter (s.present 0) == [1] && (s.pkg 1).stateOf 2 == st) = true := by decide +kernel

theorem witness_DirectoryClimbs : allOf [
    (let s := req .load (pod .masterExcl); decide (Rising s.pkgs) && (s.request 20).any (fun q => q.at_ == .climb && (s.olderReqs 20 q).isEmpty && !s.outranked 20 q && (s.pkg 0).stateOf q.gpn == .invalid && s.hotOf q == (0, 0)) && (s.waitingFor 20).isNone &&
      (s.hamletEnt 0 2).isNone && (s.parishSees 0 2).any (fun e => e.master == 1 && !e.lost) && s.present 0 1 && !s.noRoute 0 1 && (s.pkg 0).packwin != 0),
    (let s := req .load (req (.write (List.replicate 32 7) false) (pod .masterExcl)); (s.request 21).any fun q => !(s.olderReqs 21 q).isEmpty && (s.olderReqs 21 q).any fun o => o.at_ == .climb),
    (let s := (req .load (req (.write (List.replicate 32 7) false) (pod .masterExcl))).updRequest 20 fun q => { q with at_ := .remote 1, plane := 0 }
     (s.request 21).any fun q => !(s.olderReqs 21 q).isEmpty && (s.olderReqs 21 q).all fun o => o.kind.isWrite && o.at_ == .remote 1 && o.plane == s.orderedPlane 0 1 4096),
    (let s := (req .load (req (.fetch false) (pod .masterExcl))).updRequest 20 fun q => { q with order := some (0, 3) }; (s.request 21).any fun q => s.outranked 21 q),
    (let s := req .load (pod .masterExcl); s.teams.all (fun e => e.2.run == .running) && !s.cutOff 0 2 && (((s.updPkg 0 fun k => { k with linkUp := 0 }).cutOff 0 3))),
    (let s := (req .load State.reset).setChange 5 { kind := .lodge, stage := .waiting, gpn := 0x800003, src := 0, dst := 0, frame := 0, req := some 9 }; s.setTaken 0 (setOf 2) (some 20) && (s.parishSees 0 2).isNone),
    (let s := change1 .lodge .waiting (req .load (pod .masterExcl)); (s.request 20).any fun q => s.lodgeAhead 20 q),
    (let s := (req .load (pod .masterExcl)).setHamlet 0 2 { present := 0 }; (s.presentRoom 0 2).2), !((State.reset.updPkg 0 fun k => { k with sliceRoom := 0, dirQuota := 0, duty := 4, hreqTail := 4096 }).presentRoom 0 2).2, (let s := at0 .lost (req .load (pod .masterExcl)); (s.pkg 0).knownLost 2), ((at0 .draining (req .load (pod .masterExcl))).pkg 0).stateOf 2 == .draining,
    (let s := at0 .replica (req .load (pod .masterShared)); ((s.pkg 0).frameOf 2).isSome && (s.pkg 0).stateOf 2 == .replica && (find (s.pkg 0).poison (2048 * (2 * setOf 2))).isNone),
    (let s := (at0 .masterExcl (req (.write (List.replicate 32 7) false) (pod .invalid))).setParish 0 2 { refs := 1, master := 0 }; (s.pkg 0).stateOf 2 == .masterExcl && !s.busy 0 2 && (s.parishEnt 0 2).any fun e => e.twinpkg == 255),
    ((at0 .filling (req .load (pod .masterExcl))).pkg 0).stateOf 2 == .filling, decide (4096 ≤ (((at0 .moving (req .load (pod .masterExcl))).updPkg 0 fun k => { k with replay := List.replicate 4096 9 }).pkg 0).replay.length),
    ((req .load State.reset).parishSees 0 2).isNone && !((req .load State.reset).busy 0 2), ((req .load State.reset).pkg 0).victim (setOf 2) == .take (2 * setOf 2), !((req .load State.reset).setTaken 0 (setOf 2) (some 1)),
    (State.reset.createPage 0 (2 * setOf 2) 2 false).2 && (State.reset.pkg 0).pagesFor 1 == 0, (((req .load (pod .masterExcl)).setParish 0 2 { refs := 1, master := 1, lost := true }).parishSees 0 2).any (·.lost),
    compareOk 0 false 0 0 false, (((pod .masterExcl).updPkg 0 fun k => { k with packwin := 0 }).pkg 0).packwin == 0, (let s := { pod .masterExcl with pkgs := put (pod .masterExcl).pkgs 0 { (pod .masterExcl).pkg 0 with linkUp := 0 } }; s.noRoute 0 1),
    (let s := at0 .replica (req .probe (pod .masterShared)); (s.request 20).any fun q => q.kind == .probe && q.at_ == .climb), (let s := State.reset.updPkg 0 fun k => { k with touchWait := [(setOf 2, 1)] }; (s.pkg 0).touchWait == [(setOf 2, 1)])] = true := by
  decide +kernel

/-- Request 20 of package 0, for a sector of page gpn. -/
def climber (f : Request → Request) (kind : ReqKind := .load) (s : State := pod .masterExcl) (gpn : Nat := 2) : State :=
  (s.addRequest 0 (2048 * gpn) 1 kind { tk := 0, serial := 1, leaf := none } []).updRequest 20 f
def wr : ReqKind := .write (List.replicate 32 7) false
/-- Both ways of page 2's set hold masters that may be lodged, or that are pinned. -/
def lodgers2 (pinned : Bool) (s : State) : State := s.updPkg 0 fun k => { ((k.setTag (2 * Machine.setOf 2) { gpn := 0x800003, state := .masterExcl, pinned := pinned }).setTag (2 * Machine.setOf 2 + 1) { gpn := 0x1000000, state := .masterExcl, pinned := pinned }) with
  lodgectl := 2 ^ 33 - 1, neigh := 1 + 2 ^ 32 + 2 ^ 36 }
def full2 (s : State) : State := s.updPkg 0 fun k => { k with sliceRoom := 0, dirQuota := 0, duty := 4, hreqTail := 4096 }
theorem witness_DirectoryClimbs_slices : allOf [
    (let s := climber (fun q => { q with tk := hwWho 0 }) (.fetch false); (s.parishSees 0 2).isSome && (s.request 20).any fun q => q.ownTouch && q.at_ == .climb && (s.olderReqs 20 q).isEmpty),
    (let s := (climber fun q => { q with xfer := some 7 }).updPkg 1 fun k => { (k.setTag (2 * Machine.setOf 2) { gpn := 2, state := .draining }) with drains := [(2 * Machine.setOf 2, 7)] }; s.drainAt 7 2 == some 1),
    ((climber fun q => { q with ordered := true }).request 20).any (·.ordered),
    (let s := at0 .masterShared (climber id wr (pod .replica)); (s.pkg 0).stateOf 2 == .masterShared && (s.request 20).any fun q => !s.outranked 20 q && q.kind == wr),
    (let s := at0 .filling (climber id); (s.serveAt 0 20).isNone && decide ((s.pkg 0).replay.length + (s.pkg 0).touchWait.length < 4096)),
    -- no plane is up at both ends: to the hamlet slice of page 1, to the parish slice of page 3
    (let s := (climber id .load (pod .masterExcl) 1).updPkg 1 fun k => { k with linkUp := 2 }; !s.cutOff 0 1 && s.hamletSlice 0 1 == 1 && !s.joined 0 1),
    (let s := (climber id .load (pod .masterExcl) 3).updPkg 1 fun k => { k with linkUp := 2 }; !s.cutOff 0 3 && s.hamletSlice 0 3 == 0 && s.parishSlice 0 3 == 1 && (s.hamletEnt 0 3).isNone),
    (let s := (climber id).setHamlet 0 2 { present := 2, master := 1 }; (s.hamletEnt 0 2).any fun m => m.master == 1 && s.present 0 1 && (s.pkg 1).stateOf 2 == .masterExcl),
    -- a master that is declared lost, or that the pod does not have
    (let s := (climber id).updPkg 0 fun k => { k with lostmap := 2, duty := 64 }; s.declared 1 && !s.present 0 1 && (s.pkg (s.parishSlice 0 2)).duty.getLsbD 6),
    (let s := (climber fun q => { q with counted := true }).updPkg 0 fun k => { k with lostmap := 2 }; s.declared 1 && (s.request 20).any (·.counted)),
    (let s := (climber id).updPkg 0 fun k => { k with lostmap := 2 }; s.declared 1 && !(s.pkg 0).duty.getLsbD 6 && (s.request 20).any fun q => !q.counted), (!(climber id).declared 5 && !(climber id).present 0 5),
    -- first touches
    (let s := (req .load State.reset).setChange 5 { kind := .migrate, stage := .copying, gpn := 2, src := 1, dst := 0, frame := 0, req := none }; s.busy 0 2 && (s.parishSees 0 2).isNone && (s.pkg (s.parishSlice 0 2)).touchWait.isEmpty),
    (let s := lodgers2 false (req .load State.reset); (s.pkg 0).victim (Machine.setOf 2) matches .lodge _),
    (let s := lodgers2 true (req .load State.reset); (s.pkg 0).victim (Machine.setOf 2) == .none && (s.touchPlace 0 2 (some 1)).isNone && decide ((s.pkg 0).replay.length + (s.pkg 0).touchWait.length < 4096)),
    (let s := (lodgers2 false (req .load State.reset)).updRequest 1 fun q => { q with forced := true }; (s.request 1).any (·.forced)),
    (let s := lodgers2 true (climber id .load { State.reset with fresh := 20 }); (s.touchPlace 0 2 (some 20)).isNone),
    (let s := lodgers2 true (([0, 1].foldl (fun (s : State) p => s.updPkg p fun k => { k with podsize := 2, linkUp := 1 })) (req .load State.reset)); s.touchPlace 0 2 (some 1) == some (1, 2 * setOf 2) && !s.noRoute 0 1 && s.joined 0 1),
    !((full2 (req .load State.reset)).presentRoom 0 2).2] = true := by decide +kernel

theorem witness_DirectoryClimbs_placement : allOf [
    -- heat that passes TR 4, none, and what bars an attraction
    (let s := (climber id).updPkg 0 fun k => { k with pol := [(0, 0)] }; compareOk (((s.pkg 0).policy 0)) false 0 (s.queueDepth 0 1) false && !s.busy 0 2 && !s.setTaken 0 (Machine.setOf 2) (some 20)),
    (let s := (climber fun q => { q with hotpol := 0 }); !compareOk ((s.pkg 0).policy 0) false 0 0 false), compareOk 0 false 0 0 true && !compareOk (2 ^ 25) false 5 0 true && !compareOk (2 ^ 24) true 5 0 true,
    ((climber fun q => { q with pin := true }).request 20).any (·.pin), (((climber id).setParish 0 2 { refs := 1, master := 1, pinned := true }).parishSees 0 2).any (·.pinned),
    (let s := (climber id).updPkg 1 fun k => { k with linkUp := 2 }; !s.noRoute 0 1 && !s.joined 0 1),
    (let s := climber id .load (pod .moving); (s.pkg 1).stateOf 2 == .moving && !s.noRoute 0 1 && s.joined 0 1),
    (let s := (climber id wr).setParish 0 2 { refs := 1, master := 1, busy := true }; s.busy 0 2 && (s.request 20).any fun q => q.kind.isWrite),
    (let s := (climber id).setChange 5 { kind := .lodge, stage := .waiting, gpn := 0x800003, src := 0, dst := 0, frame := 0, req := some 9 }; s.setTaken 0 (Machine.setOf 2) (some 20) && !s.busy 0 2 && (s.request 20).any (fun q => !s.lodgeAhead 20 q)),
    (let s := at0 .replica (climber id wr (pod .masterShared)); (s.pkg 0).stateOf 2 == .replica && (s.moveNow 2 1 0).2), !((at0 .moving (climber id wr (pod .masterShared))).moveNow 2 1 0).2,
    !((full2 (climber id)).presentRoom 0 2).2, ((climber id).presentRoom 0 2).2, (let s := lodgers2 false (climber id); (s.pkg 0).victim (Machine.setOf 2) matches .lodge _), ((climber id).pkg 0).victim (Machine.setOf 2) == .take (2 * Machine.setOf 2),
    -- the host spill region
    ((climber id).spillAt 2).isNone, (let s := (climber id).updPkg 0 fun k => { k with spill := [(2, 3)], spillBad := [(2048 * 3, 1)] }; s.spillAt 2 == some (0, 3) && (find (s.pkg 0).spillBad (2048 * 3 + 0)).isSome),
    (let s := (climber id).updPkg 0 fun k => { k with spill := [(2, 3)] }; s.spillAt 2 == some (0, 3) && (find (s.pkg 0).spillBad (2048 * 3 + 0)).isNone),
    (!(climber id wr).noRoute 0 1), (!(climber id (.atomic [] false)).noRoute 0 1)] = true := by decide +kernel

def lodging (stage : ChangeStage) : State := ((pod .masterExcl).setChange 5 { kind := .lodge, stage := stage, gpn := 2, src := 1, dst := 0, frame := 2 * setOf 2, req := none }).updPkg 1 fun k => { k with neigh := 2 ^ 32 + 2 ^ 36, lodgectl := 2 ^ 32 }
def invalPkt (s : State) : State := { s with packets := [(9, ⟨1, 0, 0, .inval 2⟩)] }
theorem witness_DirectoryMoves : allOf [
    (let s := lodging .waiting; (s.change 5).any (fun c => !s.busy 1 c.gpn && ((s.pkg 1).tag c.frame).gpn == c.gpn && (s.pkg 1).lodgeable c.frame) && s.changes.all fun e => !(decide (e.1 < 5))),
    (let s := lodging (.offering 0); (s.pkg 1).lodgers == [0] && (match s.lodgeAnswer 1 0 2 with | .ok g => (((s.pkg 0).tag g).state != .replica) | .error _ => false)),
    (let s := (lodging (.offering 0)).updPkg 0 fun k => { k with lodgectl := 0 }; (match s.lodgeAnswer 1 0 2 with | .ok _ => false | .error e => e == 4)), ((lodging (.offering 1)).pkg 1).lodgers[1]?.isNone,
    ((lodging .refused).change 5).any (fun c => c.stage == .refused) && !((lodging .refused).pkg 1).duty.getLsbD 1, ((((lodging .refused).updPkg 1 fun k => { k with duty := 2 }).pkg 1).duty.getLsbD 1) && (((lodging .refused).pkg 1).hreqTail - ((lodging .refused).pkg 1).hreqHead != 4096),
    (((lodging .refused).updPkg 1 fun k => { k with duty := 2, hreqTail := 4096 }).pkg 1).hreqTail == 4096,
    ([ChangeStage.offering 0, .refused, .asked (2 ^ 32)].all fun x => ((lodging x).setParish 0 2 { refs := 0, master := 1 }).moot 1 2 && !(lodging x).moot 1 2 && ((lodging x).change 5).any (·.stage == x)),
    -- the answers of Table 10-10, and a neighbour that holds a replica
    (let s := (lodging (.offering 0)).updPkg 0 fun k => { k with lodgectl := 2 ^ 32 }; s.lodgeAnswer 1 0 2 matches .ok _),
    (let s := (lodging (.offering 0)).updPkg 1 fun k => { k with linkUp := 2 }; s.lodgeAnswer 1 0 2 matches .error 3),
    (let s := lodgers2 true (lodging (.offering 0)); s.lodgeAnswer 1 0 2 matches .error 1), (let s := at0 .masterShared ((lodging (.offering 0)).updPkg 0 fun k => { k with lodgectl := 2 ^ 32 }); s.lodgeAnswer 1 0 2 matches .error 1),
    (let s := (lodging (.offering 0)).updPkg 0 fun k => { (k.setTag 24 { gpn := 12, state := .masterExcl }) with lodgectl := 2 ^ 32 + 2 ^ 20 - 1 }; s.lodgeAnswer 1 0 2 matches .ok _),
    (let s := (lodging (.offering 0)).updPkg 0 fun k => { ((k.setTag 28 { gpn := 14, state := .masterExcl }).setTag 52 { gpn := 26, state := .replica }) with lodgectl := 2 ^ 32 + 2 ^ 20 - 1 }; s.lodgeAnswer 1 0 2 matches .error 2),
    (let s := at0 .replica ((lodging (.offering 0)).updPkg 0 fun k => { k with lodgectl := 2 ^ 32 }); match s.lodgeAnswer 1 0 2 with | .ok g => ((s.pkg 0).tag g).state == .replica && ((s.pkg 0).tag g).gpn == 2 | .error _ => false),
    -- a replication whose source has gone, and a page whose master nobody holds
    (let s := at0 .filling (change1 .replicate .arrived (pod .invalid)); !((s.pkg 1).stateOf 2).serves && (s.masterFrames 0 2).isEmpty && (s.parishEnt 0 2).any fun e => !e.lost && e.refs != 0),
    -- a checkpointed page of a twin, and a patrol that finds the ring full
    (let s := { (at0 .masterExcl (pod .masterExcl)).setParish 0 2 { refs := 1, master := 0, twinpkg := 1, twin := true } with now := 3600000 }; s.twinAt 0 2 == some 1 && ((s.pkg 1).frameOf 2).isSome && !s.declared 1 && !s.noRoute 0 1 && s.joined 0 1),
    (let s := { pod .masterExcl with now := 360000 }.updPkg 0 fun k => { k with duty := 16, hreqTail := 4096 }; (s.pkg 0).duty.getLsbD 4 && decide ((s.pkg 0).hreqTail - (s.pkg 0).hreqHead = (4096 : BitVec 32)) && s.clock 0 % 360000 == 0),
    (let s := at0 .filling (change1 .replicate .arrived (pod .masterShared)); (s.change 5).any (fun c => c.kind == .replicate && c.stage == .arrived) && (((s.pkg 1).frameOf 2).isSome && decide (Memory.wf (s.pkg 1).hbm) && (s.parishEnt 0 2).any fun e => !e.lost && e.refs != 0)),
    (let s := at0 .filling (change1 .migrate .arrived (pod .moving)); ((s.pkg 1).frameOf 2 == some (2 * setOf 2)) && decide (Memory.wf (s.pkg 1).hbm) && (s.parishEnt 0 2).any fun e => !e.twin && e.twinpkg != 1),
    (((change1 .migrate .arrived (pod .moving)).setParish 0 2 { refs := 0, master := 1 }).parishEnt 0 2).any (fun e => e.refs == 0),
    (let s := invalPkt (at0 .replica (pod .invalid)); (s.packet 9).any fun x => s.arrives 9 x && x.src != x.dst && ((s.pkg x.dst).frameOf 2).isSome && !((s.pkg x.src).stateOf 2).isMaster), (let s := invalPkt State.reset; (s.packet 9).any fun x => !s.arrives 9 x),
    (let k := { (pod .masterExcl).pkg 0 with hamletOvf := true, dirQuota := 1 }; decide (k.pagesFor k.entries < k.dirQuota)), ((pod .masterExcl).pkg 0).scrub.extractLsb' 0 32 == 0 && (((pod .masterExcl).pkg 0).scrub.extractLsb' 32 16).toNat * 3600 == 360000,
    (let s := { pod .masterExcl with now := 3600000 }.updPkg 0 fun k => ({ k with scrub := 1 + 2 ^ 32, boot := [(0x30, 0x1000), (0x38, BitVec.ofNat 64 (65536 * (2 * setOf 2 + 1)))] } : Pkg).setTag (2 * setOf 2) { gpn := 2, state := .masterExcl }
     let s := s.updCore 0 fun k => k
     s.clock 0 % 3600000 == 0 && decide (65536 * (2 * setOf 2 + 1) ≤ ((s.pkg 0).bootReg 0x38).toNat))] = true := by decide +kernel

def pkt (src dst : Nat) (kind : PktKind) (s : State) : State := { s with packets := [(9, ⟨src, dst, 0, kind⟩)] }
def comes (s : State) : Bool := (s.packet 9).any fun x => s.arrives 9 x && x.src != x.dst
theorem witness_FabricPackets : allOf [
    (let s := pkt 0 1 (.readReq 20) (req .load (pod .masterExcl)); comes s && (s.request 20).any (fun q => q.pkg == 0 && (s.pkg 1).stateOf q.gpn == .masterExcl)), (let s := pkt 0 1 (.readReq 20) (req .load (pod .invalid)); comes s && (s.pkg 1).stateOf 2 == .invalid),
    (let s := pkt 0 1 (.readReq 20) (req .load (pod .moving)); comes s && decide ((s.pkg 1).replay.length < 4096)), decide (4096 ≤ (((pkt 0 1 (.readReq 20) (req .load (pod .moving))).updPkg 1 fun k => { k with replay := List.replicate 4096 3 }).pkg 1).replay.length),
    (let s := pkt 0 1 (.write 20) (req (.write (List.replicate 32 7) false) (pod .masterExcl)); comes s && !s.busy 1 2 && (s.parishEnt 1 2).any fun e => e.twinpkg == 255), (let s := pkt 0 1 (.atomReq 20) (req (.atomic [] false) (pod .masterExcl)); comes s),
    comes (pkt 1 0 (.readReply 20 [] 0) (req .load (pod .masterExcl))), (let s := (req .load (pod .masterExcl)).updRequest 20 fun q => { q with wordRead := true }; (s.request 20).any fun q => q.wordRead && oneWord q.mask),
    (let s := (req .load (req (.write [] false) (pod .invalid))).updRequest 20 fun q => { q with at_ := .replay 1 }; (s.request 21).any fun q => s.heldBack 21 q), comes (pkt 1 0 (.readReply 20 [] 2) (req .load (pod .masterExcl))), comes (pkt 1 0 (.ack 20 0) (pod .masterExcl)), comes (pkt 1 0 (.atomReply 20 [] 0) (pod .masterExcl)),
    comes (pkt 0 1 (.packReq [20]) (req .load (pod .masterExcl))), comes (pkt 1 0 (.packReply [(20, [], 0)]) (req .load (pod .masterExcl))) && oneWord 1, comes (pkt 1 0 (.pageData 5) (change1 .migrate .copying (pod .masterExcl))),
    !(comes (pkt 0 1 (.readReq 20) State.reset)), ((req .load (pod .masterExcl)).waitingFor 20).isNone,
    (let s := ({ req .load (pod .masterExcl) with now := 64 } : State).updPkg 0 fun k => { k with gather := [(1, [20])] }; (getD [] (s.pkg 0).gather 1).any fun r => (s.request r).any fun q => decide (q.sentAt + 64 ≤ s.now)),
    (let s := ({ (req .load (pod .masterExcl)).updRequest 20 (fun q => { q with at_ := .remote 1 }) with now := 2000 * 3600 } : State); (s.request 20).any fun q => q.at_ == .remote 1 && decide (q.sentAt + max 1 q.fto * 3600 ≤ s.now)),
    (let s := ({ (req .load (pod .masterExcl)).updRequest 20 (fun q => { q with at_ := .replay 1, counted := true }) with now := 2000 * 3600 } : State); (s.request 20).any fun q => q.counted && q.at_ == .replay 1 && decide (q.sentAt + max 1 q.fto * 3600 ≤ s.now))] = true := by decide +kernel

theorem witness_FabricLossAndPorts : allOf [
    decide (Rising (pod .masterExcl).pkgs), (let s := { pod .masterExcl with now := 36000 }; (s.pkg 0).stage == 6 && s.clock 0 % (10 * 3600) == 0 && (s.pkg 0).heartbeatAt != some 36000),
    (let s := { pod .masterExcl with now := 4 * 36000 }; (s.pkg 1).heartbeatAt.any (fun t => decide (t + 4 * 36000 ≤ s.now)) && !s.declared 0 && decide (1 < (s.pkg 0).podsize) && !(s.pkg 0).lostmap.getLsbD 1),
    (let s := (pod .masterExcl).updPkg 0 fun k => { k with lostmap := 2 }; s.declared 1 && (s.pkg 0).lostmap.getLsbD 1 && (s.pkg 1).stage == 6 && (s.pkg 1).linkUp != 0), ((pod .masterExcl).parishEnt 0 2).any (fun e => e.master == 1 && !e.lost && e.refs == 1 && e.twinpkg == 255),
    ((pod .masterExcl).copies 2 1).isEmpty, ((at0 .replica (pod .masterShared)).copies 2 1).head? == some 0, ((at0 .replica (pod .masterShared)).pkg 0).frameOf 2 |>.isSome, ((pod .masterExcl).pkg 0).linkUp.getLsbD 0 && !((pod .masterExcl).pkg 0).linkUp.getLsbD 17,
    -- a beat that is due, one that is not, a first port, and silence by the period of the last beat
    ((pod .masterExcl).pkg 0).linkUp != 0 && (pod .masterExcl).now == 0, (let s := { pod .masterExcl with now := 3600 * 11 }; (s.pkg 0).heartbeatAt.any fun t => decide (t + max 1 (s.pkg 0).hbus * 3600 ≤ s.now)),
    (let s := (pod .masterExcl).updPkg 0 fun k => { k with linkUp := 0, heartbeatAt := none }; (s.pkg 0).heartbeatAt.isNone && decide (5 ≤ 6)),
    (let s := { pod .masterExcl with now := 3600 * 100 }; (s.pkg 1).heartbeatAt.any fun t => decide (t + max 1 (getD (s.pkg 0).hbmiss (s.pkg 1).beatMiss 0) * (max 1 (max (s.pkg 1).beatUs (s.pkg 1).hbus) * 3600) < s.now)),
    (let s := (pod .masterExcl).updPkg 0 fun k => { k with lostmap := 2, lossDue := [2] }; (s.pkg 0).lossDue == [2] && s.declared 1),
    -- how pages are settled: a lost twin, a host that is asked, a full ring
    (((pod .masterExcl).setParish 0 2 { refs := 1, master := 0, twinpkg := 1 }).parishEnt 0 2).any (fun e => e.master == 0 && e.twinpkg == 1),
    (let s := (pod .masterExcl).updPkg 0 fun k => { k with duty := 64 }; (s.pkg 0).duty.getLsbD 6 && !s.lossAsked 0 2 && (s.pkg 0).hreqTail - (s.pkg 0).hreqHead != 4096),
    (let s := (pod .masterExcl).updPkg 0 fun k => { k with lossDue := [2], hreqTail := 4096 }; (s.pkg 0).hreqTail - (s.pkg 0).hreqHead == 4096 && !s.lossAsked 0 2),
    (let s := (pod .masterExcl).updPkg 0 fun k => { k with hreqs := [(0, { kind := 6, core := 255, a := 1, b := 2, c := 0 })] }; s.lossAsked 0 2),
    (let s := (pkt 0 1 (.ack 3 0) (pod .masterExcl)).updPkg 0 fun k => { k with linkUp := 2 }; s.routes 0 1 != [] && !((s.pkg 0).linkUp.getLsbD 0))] = true := by decide +kernel

/-! ### Steps, checks and freezes -/

def agendaAt (i : Instr) : State := { at_ i with agenda := [(1, .team 0)] }
theorem witness_StepRunsDecoded :
    (let s := agendaAt (.iadd hd (ii 4 2 3 0 0 0))
     let t := tm s
     s.team 0 = some t ∧ s.issues 0 t = true ∧ canonical t.here = true ∧ (s.core 0).tlb.find? (·.covers t.ctx 1) = some ⟨1, 1, 0, BitVec.ofNat 64 (2 ^ 63 + 2 ^ 62 + 2 ^ 59 + 2 ^ 58 + 1), 0, 0⟩ ∧
     s.pooled 1 = false ∧ (s.sysRead 0 (65536 + t.here.toNat % 65536) 8).2 = some (encode (.iadd hd (ii 4 2 3 0 0 0))) ∧ (∀ j < 8, s.packageByte 0 (2048 + 0) (8 + j) = none) ∧
     decode .team (encode (.iadd hd (ii 4 2 3 0 0 0))) = .ok (.iadd hd (ii 4 2 3 0 0 0), [])) := by decide +kernel

/-- The machine about to issue, its team changed. -/
def nopAt (f : Team → Team) : State := (agendaAt (.nop hd (bb 0 0))).updTeam 0 f
def fetchAt (s : State) : Fetched := (s.fetch 0 1 (tm s).here).2
theorem witness_StepRunsDecoded_others : allOf [
    (let s := nopAt fun t => { t with pc := 0x90000 }; (fetchAt s == .bad .translation) && s.issues 0 (tm s) && (tm s).tryR.isNone),
    (let s := nopAt fun t => opened false { t with pc := 0x90000 }; (fetchAt s == .bad .translation) && s.issues 0 (tm s) && Cause.translation.isAddress),
    (let s := nopAt fun t => { t with pc := BitVec.ofNat 64 (2 ^ 60) }; !canonical (tm s).here && s.issues 0 (tm s)),
    (let s := (nopAt fun t => { t with pc := 0x90000 }).updPkg 0 fun k => { k with duty := 8, ctxs := [(1, ⟨0, 1, 0, 36, 0, 0⟩)] }; (fetchAt s matches .wait _) && s.issues 0 (tm s)),
    (let s := nopAt fun t => { t with word := none, inSlot := false }; s.issues 0 (tm s) && s.firstCandidate 0 == some 0 && (fetchAt s matches .word _)),
    (let s := (nopAt fun t => { t with word := none, inSlot := false }).setTeam 1 { placedTeam 0 0 1 with word := none, inSlot := false, role := .reeve }; !s.issues 0 (tm s) && s.firstCandidate 0 == some 1),
    (let s := nopAt fun t => { t with admitted := false }; !s.issues 0 (tm s)), (let s := nopAt fun t => { t with admitted := false, stepping := some none }; s.issues 0 (tm s)),
    (let s := nopAt fun t => { t with word := none, gapUntil := 9 }; !s.issues 0 (tm s)), (nopAt id).roomy,
    (let s : State := { (at_ (.nop hd (bb 0 0))).setShare 0 { placedShare with stream := placedShare.stream.map fun m => { m with spc := 0x10008 } } with grids := [(0, grid1)] }
     ((s.asHardware 0 (streamWho 0) Fetched.waits fun s => s.fetch 0 1 0x10008).2 matches .word _) && !s.saving 0),
    ((nopAt id).asHardware 0 (streamWho 0) Fetched.waits fun s => s.fetch 0 1 0x90008).2 == .bad .translation] = true := by decide +kernel

theorem witness_EveryStepKeepsMemoryForm : State.reset.memWf ∧ (step (agendaAt (.st hd (mm 8 2 2 0 0))) matches .next _) = true := by decide +kernel

/-- Words that fail one check of Table 02-4 each, in its order, then RDSR and WRSR, and the role. -/
def failing : List (Instr × (Team → Team) × Nat) := [
  (.opcodeIllegal hd 0x1A0 0, id, 0x04), (.tryK hd (sx 0 0 0 1 0 0), fun t => { t with version := 1 }, 0x05), (.spanq hd (sx 0 1 2 0 0 0), fun t => { t with version := 2 }, 0x05),
  (.ld hd (mm 8 2 2 0 0), fun t => { t with hdr := { t.hdr with cls := 0 } }, 0x06), (.nop hd (bb 0 0), fun t => { t with hdr := { t.hdr with n := 1 } }, 0x07), (.iadd ⟨true, false, 15⟩ (ii 4 2 3 0 0 0), fun t => { t with hdr := { t.hdr with n := 1 } }, 0x08),
  (.iadd hd (ii 4 2 3 9 0 0), id, 0x09), (.imadw hd (ii 5 2 3 6 0 0), id, 0x0A), (.iadd hd (ii 8 2 3 0 0 0), fun t => { t with allot := 8 }, 0x0B), (.rdsr hd (sx 0 3 0 0x14 0 0), id, 0x0C), (.wrsr hd (sx 0 3 0 0x12 0 0), id, 0x16)]
theorem test_checks_before_issue : failing.all (fun x => let s := at_ (.nop hd (bb 0 0)); let u := { x.2.1 (placedTeam (rowOf x.1) 0 1) with share := 0 }
      (s.setTeam 0 u).precheck 0 u x.1 ((wordHdr x.1).getD hd) == some (.illegal, x.2.2)) = true ∧
    (let s := at_ (.cpy hd (sx 0 10 1 0 0 5)) fun t => { t with role := .general }; s.precheck 0 (tm s) (.cpy hd (sx 0 10 1 0 0 5)) hd = some (.role, 0)) := by decide +kernel

theorem witness_ChecksBeforeIssue : allOf [
    (let s := (at_ (.ld hd (mm 8 2 2 0 0))).updCore 0 fun k => { k with waiting := List.replicate 64 .none }; s.listBlocks 0 (tm s) (.ld hd (mm 8 2 2 0 0)) && (s.precheck 0 (tm s) (.ld hd (mm 8 2 2 0 0)) hd).isNone),
    (let s := at_ (.atom hd 0 (mm 4 2 2 0 0)) (opened false); (tryEvent (.atom hd 0 (mm 4 2 2 0 0))).isSome && (tm s).doesAct (.atom hd 0 (mm 4 2 2 0 0)) hd && (tm s).tryR.isSome && (s.precheck 0 (tm s) (.atom hd 0 (mm 4 2 2 0 0)) hd).isNone),
    (let s := (at_ (.nop hd (bb 0 0))).updTeam 0 fun t => { t with word := none }; (tm s).batchOk ((tm s).batchMeant 0xFFFF) && (s.bell 0 3).phase == (tm s).seen.getLsbD 3)] = true := by decide +kernel

/-- A team of slot 0 that is about to freeze, in a machine whose context has the reeve kernel, or none. -/
def stopping (f : Team → Team) (hdr : Word) : State := data 0 kernelRec ((at_ (.nop hd (bb 0 0)) fun t => f { t with run := .freezing, cause := cr0 }).updPkg 0 fun k =>
  { k with ctxs := [(1, ⟨0, 1, 0, 36, hdr, 7⟩)] })
def stopped (s : State) : State := (s.setTeam 0 { tm s with run := .frozen, admitted := false }).updPkg 0 fun k => { k with freezes := k.freezes + 1 }
theorem witness_FreezeRecords : allOf [
    (tm (stopping owed 0)).outst.any (fun o => !o.parts.isEmpty), (let s := stopping id 0x20000; (tm s).settled && (tm s).stepping.isNone && !(tm s).isReeve && !(stopped s).reeveless 0 1),
    (stopped (stopping id 0)).reeveless 0 1, (let s := (stopping id 0x20000).updCore 0 fun k => { k with waiting := List.replicate 63 .none }; decide (63 ≤ (s.core 0).waiting.length)),
    (let s := stopping (fun t => { t with role := .reeve, h0 := .frozen 1 }) 0; (tm s).isReeve && !(s.pkg 0).duty.getLsbD 0 && ((s.updPkg 0 fun k => { k with duty := 1 }).pkg 0).duty.getLsbD 0)] = true := by decide +kernel

/-! ## Single steps -/

-- R95: sums wrap modulo 2^32 and saturate under SAT; carry and borrow
theorem test_integer_sums :
    vAt (run (.iadd hd (ii 4 2 3 0 0 0)) (regs [(2, 0xFFFFFFFF), (3, 2)] [])) 4 = some 1 ∧
    vAt (run (.iadd hd { ii 4 2 3 0 0 0 with sat := true }) (regs [(2, 0x7FFFFFFF), (3, 1)] [])) 4 = some 0x7FFFFFFF ∧
    vAt (run (.isub hd { ii 4 2 3 0 1 0 with sat := true }) (regs [(2, 1), (3, 2)] [])) 4 = some 0 ∧
    kAt (run (.iaddc hd (ii 4 2 3 15 1 0)) (regs [(2, 0xFFFFFFFF), (3, 0)] [])) 1 = some true ∧
    kAt (run (.isubb hd (ii 4 2 3 0 1 0)) (regs [(2, 1), (3, 1)] [])) 1 = some false := by decide +kernel
theorem test_integer_products :
    vAt (run (.imul hd (ii 4 2 3 0 0 0)) (regs [(2, 0x10000), (3, 0x10001)] [])) 4 = some 0x10000 ∧
    vAt (run (.imulhi hd (ii 4 2 3 0 0 0)) (regs [(2, 0xFFFFFFFF), (3, 5)] [])) 4 = some 0xFFFFFFFF ∧
    vAt (run (.imulhi hd (ii 4 2 3 0 1 0)) (regs [(2, 0xFFFFFFFF), (3, 5)] [])) 4 = some 4 ∧
    vAt (run (.imadw hd (ii 4 2 3 6 1 0)) (regs [(2, 0xFFFFFFFF), (3, 2), (6, 2), (7, 0)] [])) 5 = some 2 := by decide +kernel
theorem test_lea_min_abs :
    vAt (run (.lea hd (ii 4 2 6 0 11 0)) (regs [(2, 0xFFFFFFFE), (6, 100), (7, 1)] [])) 4 = some 84 ∧
    vAt (run (.imin hd (ii 4 2 3 0 0 0)) (regs [(2, 0xFFFFFFFF), (3, 1)] [])) 4 = some 0xFFFFFFFF ∧
    vAt (run (.imax hd (ii 4 2 3 0 0 0)) (regs [(2, 0xFFFFFFFF), (3, 1)] [])) 4 = some 1 ∧
    vAt (run (.iabs hd { ii 4 2 0 0 0 0 with sat := true }) (regs [(2, 0x80000000)] [])) 4 = some 0x7FFFFFFF ∧
    vAt (run (.iabs hd (ii 4 2 0 0 0 0)) (regs [(2, 0x80000000)] [])) 4 = some 0x80000000 := by decide +kernel
-- R97: bit 5 of TT is a AND NOT b AND c; R98: signed, unsigned, XOR with k15
theorem test_logic_compare :
    vAt (run (.logic hd (ii 4 2 3 1 0x20 0)) (regs [(2, 0b1111), (3, 0b0101), (1, 0b0110)] [])) 4 = some 0b0010 ∧
    kAt (run (.icmp hd (ii 1 2 3 0 0x0A 0)) (regs [(2, 1), (3, 0xFFFFFFFF)] [])) 1 = some true ∧
    kAt (run (.icmp hd (ii 1 2 3 0 0x02 0)) (regs [(2, 1), (3, 0xFFFFFFFF)] [])) 1 = some false ∧
    kAt (run (.icmp hd (ii 1 2 3 15 0x30 0)) (regs [(2, 1), (3, 1)] [])) 1 = some false := by decide +kernel
-- R95, R99: shifts by 32 and more, fields that reach past bit 31
theorem test_shifts_and_fields :
    vAt (run (.shl hd (ii 4 2 3 0 0 0)) (regs [(2, 1), (3, 32)] [])) 4 = some 0 ∧
    vAt (run (.sar hd (ii 4 2 3 0 0 0)) (regs [(2, 0x80000000), (3, 0xFFFFFFFF)] [])) 4 = some 0xFFFFFFFF ∧
    vAt (run (.rotl hd (ii 4 2 3 0 0 0)) (regs [(2, 0x80000001), (3, 33)] [])) 4 = some 3 ∧
    vAt (run (.bfx hd (ii 4 2 3 0 0 0)) (regs [(2, 0xF0), (3, 0x0404)] [])) 4 = some 0xFFFFFFFF ∧
    vAt (run (.bfx hd (ii 4 2 3 0 1 0)) (regs [(2, 0x80000000), (3, 0xFF1C)] [])) 4 = some 8 ∧
    vAt (run (.ffs hd (ii 4 2 0 0 0 0)) (regs [(2, 0)] [])) 4 = some 0xFFFFFFFF ∧ vAt (run (.clz hd (ii 4 2 0 0 0 0)) (regs [(2, 0)] [])) 4 = some 32 ∧
    vAt (run (.brev hd (ii 4 2 0 0 0 0)) (regs [(2, 1)] [])) 4 = some 0x80000000 := by decide +kernel
-- 1 + 2^-24 ties to even, rounds up under RU; 3 × 1/3; ∞ − ∞; a subnormal under FTZ
theorem test_float :
    vAt (run (.fadd hd (ff 0 4 2 0 1 0 0)) (regs [(2, 0x3F800000), (1, 0x33800000)] [])) 4 = some 0x3F800000 ∧
    vAt (run (.fadd hd { ff 0 4 2 0 1 0 0 with rm := 2 }) (regs [(2, 0x3F800000), (1, 0x33800000)] [])) 4 = some 0x3F800001 ∧
    vAt (run (.ffma hd (ff 0 4 2 3 1 0 0)) (regs [(2, 0x40400000), (3, 0x3EAAAAAB), (1, 0xBF800000)] [])) 4 = some 0x33000000 ∧
    vAt (run (.fadd hd (ff 0 4 2 0 1 0 8)) (regs [(2, 0x7F800000), (1, 0x7F800000)] [])) 4 = some 0x7FC00000 ∧
    vAt (run (.fmul hd (ff 0 4 2 3 0 0 0)) (fun t => { regs [(2, 1), (3, 0x40000000)] [] t with ftz := true })) 4 = some 0 ∧
    vAt (run (.fmin hd (ff 0 4 2 3 0 0 0)) (regs [(2, 0x7FC00000), (3, 0x40000000)] [])) 4 = some 0x40000000 ∧
    due (run (.frcp hd (ff 0 4 2 0 0 0 0)) (regs [(2, 0x40000000)] [])) (.v 4) = some 0x3F000000 ∧
    due (run (.fsqrt hd (ff 0 4 2 0 0 0 0)) (regs [(2, 0x40800000)] [])) (.v 4) = some 0x40000000 := by decide +kernel
-- formats: 1.0 to BF16 and E4M3, 300.7 to INT32, saturation to INT8, INT4 packing
theorem test_conversions :
    vAt (run (.cvt hd (ff 1 4 2 0 0 0 0)) (regs [(2, 0x3F800000)] [])) 4 = some 0x3F80 ∧
    vAt (run (.cvt hd (ff 3 4 2 0 0 0 0)) (regs [(2, 0x3F800000)] [])) 4 = some 0x38 ∧
    vAt (run (.cvt hd { ff 9 4 2 0 0 0 0 with rm := 1 }) (regs [(2, 0x43965999)] [])) 4 = some 300 ∧
    vAt (run (.pack4Unlo hd (ff 6 4 2 0 0 1 0)) (regs [(2, 0x0000F87F)] [])) 4 = some 0xFFF807FF := by decide +kernel
-- R112, R90, R108 to R111 on two lanes
theorem test_lanes :
    due (run (.redt hd (ff 9 4 2 0 0 0 0)) fun t => { wide t with v := [(2048, 5), (2049, 6)] }) (.v 4) = some 11 ∧
    due (run (.scang hd (ff 9 4 2 0 0 16 0)) fun t => { wide t with v := [(2048, 5), (2049, 6)] }) (.v 4) 1 = some 5 ∧
    due (run (.shfl hd (ff 0 4 2 3 1 0 0)) fun t => { wide t with v := [(2048, 5), (2049, 6), (3072, 1)] }) (.v 4) 0 = some 6 ∧
    due (run (.voteBallot hd (ff 0 4 1 0 0 2 0)) kEven) (.v 4) 1 = some 1 := by decide +kernel
theorem test_uniform :
    sAt (run (.sadd hd ⟨4, 2, 3, 0, 0, false⟩) (regs [] [(2, 2 ^ 64 - 1), (3, 2)])) 4 = some 1 ∧ sAt (run (.sshr hd ⟨4, 2, 0, 4, 0, true⟩) (regs [] [(2, 2 ^ 63)])) 4 = some 0xF800000000000000 ∧
    sAt (run (.smovCat hd ⟨4, 2, 0, 5, 1, true⟩) (regs [] [(2, 3)])) 4 = some (3 * 2 ^ 24 + 5) ∧ sAt (run (.smov hd ⟨0, 0, 0, 7, 0, true⟩)) 0 = some 0 := by decide +kernel
-- a store stays dirty in L1, a load finds it; a sign-extended byte; a misaligned atomic faults (R124, R127)
theorem test_memory :
    (after (run (.st hd (mm 8 2 2 0 0)) (regs [(2, 0x20010), (8, 0x11223344)] []))).map (fun s => ((find (s.core 0).l1.sectors 4096).map fun e => (e.data.getD 16 0, e.data.getD 19 0, e.dirty)) ==
      some (0x44, 0x11, 0xF0000)) = some true ∧
    due (exec (.ld hd { mm 8 2 0 0 0 with sx := true }) (data 16 [0x80] (at_ (.ld hd { mm 8 2 0 0 0 with sx := true }) addr2))) (.v 8) = some 0xFFFFFFFFFFFFFF80 ∧
    froze (run (.atom hd 0 (mm 4 2 3 0 0)) (regs [(2, 0x20004)] [])) = some (Cause.misaligned.code, 0) ∧
    due (run (.atoms hd 0 (mm 4 2 2 0 0)) (regs [(2, 16), (4, 9)] [])) (.v 4) = some 0 := by decide +kernel
-- R177, R180, R167, R121, R160: TRAP 7 freezes with its field, PGCTL by a general team is a PRIVILEGE fault
theorem test_faults :
    (after (exec (.trap hd (sx 0 0 0 7 0 0)) (data 0 kernelRec ((at_ (.trap hd (sx 0 0 0 7 0 0))).updPkg 0 fun k => { k with ctxs := [(1, ⟨0, 1, 0, 36, 0x20000, 7⟩)] })))).map (fun s => ((s.team 0).any fun t => t.run == .frozen && t.cause.field == 7 && t.cause.addr == 0x10008, (s.core 0).waiting)) = some (true, [.frozen 0]) ∧
    froze (run (.pgctlPin hd (sx 0 2 4 0 1 0))) = some (Cause.privilege.code, 0) ∧ froze (run (.ringFree hd (sx 0 0 0 0 0 7))) = some (Cause.illegal.code, 0x13) ∧
    parked (run (.sleepK hd (bb 5 0))) = some (.sleep 5) ∧ parked (run (.barWait hd (sx 0 1 0 8 2 0)) (reg0 true false)) = some (.barrier 0 8 false) := by decide +kernel
theorem test_system :
    sAt (run (.rdsr hd (sx 0 3 0 0x101 0 0))) 3 = some 48 ∧ due (run (.lstat hd (sx 0 1 2 0 0 0))) (.s 1) = some 3 ∧
    (after (run (.barSync hd (sx 0 1 0 8 0 0)))).map (fun s => s.barWord 0 8) = some ⟨0, 0, 0, true⟩ := by decide +kernel
-- R199, R200, R208
theorem test_press :
    (after (execPnop (pf 0 0 0 0) (pressAt id))).bind (fun s => (s.stream 0).map (·.spc)) = some 0x20008 ∧
    (after (execPzero (pf 1 0 0 1) (pressAt id))).bind (fun s => (s.stream 0).map fun m => (m.blocks.getD 1 {}).isInt) = some true ∧
    (after (execPbellw (pf 0 0 0 0) (pressAt id))).bind (fun s => (s.stream 0).map (·.st)) = some (.waiting 3) := by decide +kernel

end Sys2Proof.Tests
end

/-! PROOFS. How a word ends, by the shape of its meaning: from what it computes in each Active lane, or once for the team, to the shapes
of Rules. -/

namespace Sys2Proof.Machine

open Host

/-! ## Words that write results in each Active lane -/

section Shapes

variable {i : Instr} {h : Hdr} {d : BitVec 8} {k lat : Nat} {g : Team → Mask → Nat → List (RegId × Word)}

/-- A vector word of short latency that writes `ws L` in Active lane L. -/
theorem ends_of_vec {s : State} {t : Team} (hi : s.Issues t i h) (he : ∀ s, exec i s = issue i h (vec h lat g) s)
    {ws : Nat → List (RegId × Word)} (hg : ∀ L ∈ t.act h, g t (t.lanesFor h) L = ws L)
    (hws : ∀ L, ∀ w ∈ ws L, match w.1 with | .s _ => False | _ => True) :
    Ends (exec i s) s s.cur t ((t.act h).flatMap fun L => (ws L).map fun w => (w.1, L, w.2)) := by
  rw [he, ← List.flatMap_congr fun L hL => congrArg (List.map _) (hg L hL)]
  exact vec_ends hi lat g fun L hL => hg L hL ▸ hws L

/-- A vector word of long latency that writes `ws L` in Active lane L. -/
theorem endsLong_of_vecLong {s : State} {t : Team} (hi : s.Issues t i h) (he : ∀ s, exec i s = issue i h (vecLong h g) s)
    {ws : Nat → List (RegId × Word)} (hg : ∀ L ∈ t.act h, g t (t.lanesFor h) L = ws L)
    (hws : ∀ L, ∀ w ∈ ws L, (Part.ofVal w.1 L w.2).val = some w.2) (hn : ∀ L, ((ws L).map (·.1)).Nodup) :
    EndsLong (exec i s) s s.cur t ((t.act h).flatMap fun L => (ws L).map fun w => (w.1, L, w.2)) := by
  rw [he, ← List.flatMap_congr fun L hL => congrArg (List.map _) (hg L hL)]
  exact vecLong_ends hi g (fun L hL => hg L hL ▸ hws L) fun L hL => hg L hL ▸ hn L

theorem vecOp_of_exec {P : Team → Nat → Lane32 → Prop} (he : ∀ s, exec i s = issue i h (vec h lat g) s)
    (hg : ∀ t, ∀ L ∈ t.act h, ∃ x, g t (t.lanesFor h) L = toV d x ∧ P t L x) : VecOp i h d P := by
  intro s t hi
  choose! x hx hP using hg t
  refine ⟨x, hP, ?_⟩
  rw [← List.flatMap_pure_eq_map]
  exact ends_of_vec hi he hx (by simp [toV])

theorem pairOp_of_exec {P : Team → Nat → Word → Prop} (he : ∀ s, exec i s = issue i h (vec h lat g) s)
    (hg : ∀ t, ∀ L ∈ t.act h, ∃ x, g t (t.lanesFor h) L = toVd d x ∧ P t L x) : PairOp i h d P := by
  intro s t hi
  choose! x hx hP using hg t
  exact ⟨x, hP, ends_of_vec hi he hx (by simp [toVd, pairWrites])⟩

theorem predOp_of_exec {P : Team → Nat → Prop} (he : ∀ s, exec i s = issue i h (vec h lat g) s)
    (hg : ∀ t, ∀ L ∈ t.act h, ∃ b, g t (t.lanesFor h) L = toK k b ∧ (b = true ↔ P t L)) : PredOp i h k P := by
  intro s t hi
  choose! x hx hP using hg t
  refine ⟨x, hP, ?_⟩
  rw [← List.flatMap_pure_eq_map]
  exact ends_of_vec hi he hx (by simp [toK])

theorem vecLongOp_of_exec {P : Team → Nat → Lane32 → Prop} (he : ∀ s, exec i s = issue i h (vecLong h g) s)
    (hg : ∀ t, ∀ L ∈ t.act h, ∃ x, g t (t.lanesFor h) L = toV d x ∧ P t L x) : VecLongOp i h d P := by
  intro s t hi
  choose! x hx hP using hg t
  refine ⟨x, hP, ?_⟩
  rw [← List.flatMap_pure_eq_map]
  exact endsLong_of_vecLong hi he hx (by simp [toV, Part.val_ofVal_v]) (by simp [toV])

theorem pairLongOp_of_exec {P : Team → Nat → Word → Prop} (he : ∀ s, exec i s = issue i h (vecLong h g) s)
    (hg : ∀ t, ∀ L ∈ t.act h, ∃ x, g t (t.lanesFor h) L = toVd d x ∧ P t L x) : PairLongOp i h d P := by
  intro s t hi
  choose! x hx hP using hg t
  exact ⟨x, hP, endsLong_of_vecLong hi he hx (by simp [toVd, pairWrites, Part.val_ofVal_v]) (by simp [toVd, pairWrites])⟩

theorem predLongOp_of_exec {P : Team → Nat → Prop} (he : ∀ s, exec i s = issue i h (vecLong h g) s)
    (hg : ∀ t, ∀ L ∈ t.act h, ∃ b, g t (t.lanesFor h) L = toK k b ∧ (b = true ↔ P t L)) : PredLongOp i h k P := by
  intro s t hi
  choose! x hx hP using hg t
  refine ⟨x, hP, ?_⟩
  rw [← List.flatMap_pure_eq_map]
  exact endsLong_of_vecLong hi he hx (by simp [toK, Part.val_ofVal_k]) (by simp [toK])

/-! ## Words that act once for the team -/

/-- A word that only retires leaves its team's registers alone. -/
theorem retire_ends {s : State} {t : Team} (hi : s.Issues t i h) : Ends (.next ((Act.retire s).finish s.cur h.z)) s s.cur t [] := by
  obtain ⟨hteam, -, -, -, hstep⟩ := hi
  exact ends_retire hteam hstep (fun _ => rfl) rfl ⟨rfl, rfl⟩ (Team.wrote_nil t)

theorem uniOp_of_exec {n : Nat} {f : Team → Word} {P : Team → Word → Prop} (he : ∀ s, exec i s = issue i h (toS h lat n f) s)
    (hP : ∀ t, P t (f t)) : UniOp i h n P := by
  intro s t hi
  rw [he]
  split
  case isTrue hx => exact ⟨f t, hP t, toS_ends ⟨hi, hx⟩ lat n f⟩
  case isFalse hx =>
    rw [issue_next hi]
    simp only [toS, once, hx, if_false, Bool.false_eq_true]
    exact retire_ends hi

end Shapes

/-! ## Masks and words made bit by bit -/

/-- The sum of the powers of two at the places that satisfy p, as the model folds it. -/
theorem foldl_two_pow_testBit (p : Nat → Bool) (n i : Nat) :
    ((List.range n).foldl (fun a j => if p j then a + 2 ^ j else a) 0).testBit i = (decide (i < n) && p i) ∧
      (List.range n).foldl (fun a j => if p j then a + 2 ^ j else a) 0 < 2 ^ n := by
  induction n with
  | zero => simp
  | succ n ih =>
    obtain ⟨hbit, hlt⟩ := ih
    rw [List.range_succ, List.foldl_append, List.foldl_cons, List.foldl_nil, pow_succ]
    generalize (List.range n).foldl _ 0 = a at hbit hlt
    split
    case isTrue hp =>
      refine ⟨?_, by omega⟩
      rcases lt_trichotomy i n with hi | rfl | hi
      · rw [Nat.add_comm, Nat.testBit_two_pow_add_gt hi, hbit]; simp [hi, Nat.lt_succ_of_lt hi]
      · rw [Nat.add_comm, Nat.testBit_two_pow_add_eq, Nat.testBit_lt_two_pow hlt]; simp [hp]
      · rw [Nat.testBit_lt_two_pow (lt_of_lt_of_le (by omega : a + 2 ^ n < 2 ^ (n + 1)) (Nat.pow_le_pow_right two_pos hi))]
        simp; omega
    case isFalse hp =>
      refine ⟨?_, by omega⟩
      rcases eq_or_ne i n with rfl | hi
      · simp [hbit, hp]
      · rw [hbit]; congr 1; exact decide_eq_decide.mpr (by omega)

theorem getLsbD_ofNat_foldl {w : Nat} (p : Nat → Bool) (n : Nat) {i : Nat} (hi : i < w) :
    (BitVec.ofNat w ((List.range n).foldl (fun a j => if p j then a + 2 ^ j else a) 0)).getLsbD i = (decide (i < n) && p i) := by
  rw [BitVec.getLsbD_ofNat, (foldl_two_pow_testBit p n i).1]
  simp [hi]

theorem maskOf_getLsbD (n : Nat) (p : Nat → Bool) {L : Nat} (h : L < 1024) : (maskOf n p).getLsbD L = (decide (L < n) && p L) :=
  getLsbD_ofNat_foldl p n h

theorem Team.mem_act {t : Team} {h : Hdr} {L : Nat} : L ∈ t.act h ↔ L < t.lanes ∧ t.InActive h L := by
  simp [Team.act, lanesOf, List.mem_filter]

end Sys2Proof.Machine

/-! PROOFS. Row 0x00: LOGIC by its truth table and ICMP with its combine (R97, R98). -/

namespace Sys2Proof.Machine

open Host

/-- Bit j of the table that LOGIC's fields spell (R51). -/
theorem ttOf_getLsbD (f : VA) {j : Nat} (hj : j < 8) : (ttOf f).getLsbD j = ttBit f j := by
  unfold ttOf ttBit
  rw [BitVec.getLsbD_append, BitVec.getLsbD_append]
  rcases lt_trichotomy j 6 with h | rfl | h
  · simp [h]
  · simp
  · obtain rfl : j = 7 := by omega
    simp

/-- The one place of LOGIC's table whose three address bits are x, y and z. -/
theorem any_address_eq (tt : BitVec 8) (x y z : Bool) :
    ((List.range 8).any fun j => tt.getLsbD j && x == j.testBit 2 && y == j.testBit 1 && z == j.testBit 0) =
      tt.getLsbD (4 * x.toNat + 2 * y.toNat + z.toNat) := by
  cases x <;> cases y <;> cases z <;> simp [List.range_succ, Nat.testBit, Nat.shiftRight_eq_div_pow]

theorem logic32_getLsbD (tt : BitVec 8) (a b c : Lane32) {i : Nat} (hi : i < 32) :
    (logic32 tt a b c).getLsbD i = tt.getLsbD (4 * (a.getLsbD i).toNat + 2 * (b.getLsbD i).toNat + (c.getLsbD i).toNat) := by
  refine (getLsbD_ofNat_foldl _ 32 hi).trans ?_
  rw [decide_eq_true hi, Bool.true_and]
  exact any_address_eq _ _ _ _

/-- cond of ICMP and SCMP (R98). -/
theorem condHolds_iff (c : Nat) (a b : Int) : condHolds c a b = true ↔ CondRule c a b := by
  unfold condHolds CondRule
  split <;> simp

/-- The combination of a condition with a predicate (R98). -/
theorem combine_iff (k : Nat) {c p : Bool} {C : Prop} (hc : c = true ↔ C) : combine k c p = true ↔ CombRule k C (p = true) := by
  unfold combine CombRule
  rw [← hc]
  split <;> cases c <;> cases p <;> simp

/-! ## Permitted fields (R93) -/

/-- What the check of a vector word's fields leaves of them. -/
theorem VA.ok_fields {f : VA} {tOk useB useC useRm useSat : Bool} {sub : BitVec 6} {fl : BitVec 4}
    (hok : f.ok tOk useB useC useRm useSat sub fl = true) :
    tOk = true ∧ (useC = false → f.c = 0) ∧ f.sub &&& ~~~sub = 0 ∧ f.fl &&& ~~~fl = 0 := by
  simp only [VA.ok, Bool.and_eq_true, Bool.or_eq_true, beq_iff_eq] at hok
  obtain ⟨⟨⟨⟨⟨⟨⟨⟨ht, -⟩, hc⟩, -⟩, -⟩, hsub⟩, hfl⟩, -⟩, -⟩ := hok
  exact ⟨ht, fun hu => hc.resolve_left (by simp [hu]), hsub, hfl⟩

theorem fieldOk_logic {h : Hdr} {f : VA} (hok : (Instr.logic h f).fieldOk = true) : f.fl.toNat < 4 := by
  have hand : (f.ok (f.t == 9) true true true true 63 3 && !f.rm.getLsbD 1) = true := hok
  obtain ⟨-, -, -, hfl⟩ := VA.ok_fields (Bool.and_elim_left hand)
  revert hfl
  generalize f.fl = fl
  revert fl
  decide

theorem fieldOk_icmp {h : Hdr} {f : VA} (hok : (Instr.icmp h f).fieldOk = true) : f.sub.toNat % 8 < 6 ∧ (f.sub.toNat / 16 = 0 → f.c = 0) := by
  have hand : (f.ok (f.t == 9) true true false false 63 1 && f.sub3 < 6 && f.combOk) = true := hok
  simp only [VA.sub3, VA.combOk, Bool.and_eq_true, decide_eq_true_eq] at hand
  obtain ⟨⟨-, hcond⟩, -, hc⟩ := hand
  exact ⟨of_decide_eq_true hcond, fun h0 => by simpa [h0] using hc⟩

/-! ## The words -/

theorem vecOp_logic (h : Hdr) (f : VA) : VecOp (.logic h f) h f.d fun t L x => ∀ i < 32, x.getLsbD i =
    ttBit f (4 * ((srcA f t L).getLsbD i).toNat + 2 * ((srcB f t L).getLsbD i).toNat + ((srcC f t L).getLsbD i).toNat) :=
  vecOp_of_exec (fun _ => rfl) fun t L _ => ⟨_, rfl, fun i hi => by
    rw [logic32_getLsbD _ _ _ _ hi, ttOf_getLsbD]
    · rfl
    · have ha := Bool.toNat_lt ((opA t f L).getLsbD i)
      have hb := Bool.toNat_lt ((opB t f L).getLsbD i)
      have hc := Bool.toNat_lt ((opC t f L).getLsbD i)
      omega⟩

theorem predOp_icmp (h : Hdr) (f : VA) : PredOp (.icmp h f) h (f.d.toNat % 16) fun t L =>
    CombRule (f.sub.toNat / 16) (CondRule (f.sub.toNat % 8) (asInt (f.sub.getLsbD 3) (srcA f t L)) (asInt (f.sub.getLsbD 3) (srcB f t L)))
      (srcKC f t L = true) :=
  predOp_of_exec (fun _ => rfl) fun _ _ _ => ⟨_, rfl, combine_iff _ (condHolds_iff _ _ _)⟩

/-- Settles O2: LOGIC bit by bit, ICMP by its condition and combine, and the field values that their checks permit. -/
theorem logicAndCompare : Obligations.LogicAndCompare :=
  ⟨vecOp_logic, predOp_icmp, fun _ _ => ⟨fieldOk_logic, fieldOk_icmp⟩⟩

end Sys2Proof.Machine

/-! PROOFS. Rows 0x01 and 0x02: shifts for every amount, bit fields and bit counts (R95, R96, R99). -/

namespace Sys2Proof.Machine

open Host

/-! ## Shifts (R95) -/

theorem shl32_rule (a : Lane32) (n : Nat) : ShlRule a (shl32 a n) n := by
  unfold ShlRule shl32
  split
  case isTrue hn =>
    obtain ⟨m, rfl⟩ := Nat.exists_eq_add_of_le hn
    rw [pow_add, Nat.mul_left_comm, Nat.mul_mod_right]; rfl
  case isFalse => rw [BitVec.toNat_shiftLeft, Nat.shiftLeft_eq]

theorem shr32_rule (a : Lane32) (n : Nat) : ShrRule a (shr32 a n) n := by
  unfold ShrRule shr32
  split
  case isTrue hn => exact (Nat.div_eq_of_lt (a.isLt.trans_le (Nat.pow_le_pow_right two_pos hn))).symm
  case isFalse => rw [BitVec.toNat_ushiftRight, Nat.shiftRight_eq_div_pow]

theorem sar32_rule (a : Lane32) (n : Nat) : SarRule a (sar32 a n) n := by
  unfold SarRule sar32
  rw [BitVec.toInt_sshiftRight, Int.shiftRight_eq_div_pow]
  norm_cast

theorem rotl32_rule (a : Lane32) (n : Nat) : RotlRule a (rotl32 a n) n := by
  intro i hi
  have hr : n % 32 < 32 := Nat.mod_lt _ (by decide)
  have hk : (i + n) % 32 < 32 := Nat.mod_lt _ (by decide)
  rw [rotl32, BitVec.getLsbD_rotateLeft, Nat.mod_mod, Bool.cond_decide]
  split
  case isTrue hlt => congr 1; omega
  case isFalse hge => rw [decide_eq_true hk, Bool.true_and]; congr 1; omega

theorem fshl32_toNat (a b c : Lane32) :
    (fshl32 a b c).toNat = (a.toNat * 2 ^ 32 + b.toNat) * 2 ^ (c.toNat % 64) / 2 ^ 32 % 2 ^ 32 := by
  rw [fshl32, BitVec.extractLsb'_toNat, BitVec.toNat_shiftLeft, BitVec.toNat_append, ← Nat.shiftLeft_add_eq_or_of_lt b.isLt,
    Nat.shiftLeft_eq, Nat.shiftLeft_eq, Nat.shiftRight_eq_div_pow]
  omega

/-! ## Bit fields (R99) -/

/-- A number's low n bits, sign-extended: bit n − 1 stands above them. -/
theorem getLsbD_ofInt_sext {w n i : Nat} (x : Nat) (hn : 0 < n) (hi : i < w) :
    (BitVec.ofInt w (sext x n)).getLsbD i = if i < n then x.testBit i else x.testBit (n - 1) := by
  have hext : BitVec.ofInt w (sext x n) = (BitVec.ofNat n x).signExtend w := rfl
  rw [hext, BitVec.getLsbD_signExtend, BitVec.msb_eq_getLsbD_last, BitVec.getLsbD_ofNat, BitVec.getLsbD_ofNat]
  split <;> simp_all

/-- The bits of a field of a word. -/
theorem testBit_field (x p n i : Nat) : (x / 2 ^ p % 2 ^ n).testBit i = (decide (i < n) && x.testBit (p + i)) := by
  rw [Nat.testBit_mod_two_pow, Nat.testBit_div_two_pow, Nat.add_comm]

theorem bfx32_eq (u : Bool) (a b : Lane32) : bfx32 u a b =
    if fieldN b = 0 then 0 else if u then .ofNat 32 (a.toNat / 2 ^ fieldP b % 2 ^ fieldN b)
    else .ofInt 32 (sext (a.toNat / 2 ^ fieldP b % 2 ^ fieldN b) (fieldN b)) := rfl

theorem bfx32_getLsbD (u : Bool) (a b : Lane32) {i : Nat} (hi : i < 32) : (bfx32 u a b).getLsbD i =
    if i < fieldN b then a.getLsbD (fieldP b + i) else !u && decide (0 < fieldN b) && a.getLsbD (fieldP b + fieldN b - 1) := by
  rw [bfx32_eq]
  by_cases hn : fieldN b = 0
  · simp [hn]
  have hpos : 0 < fieldN b := Nat.pos_of_ne_zero hn
  have hlast : fieldP b + (fieldN b - 1) = fieldP b + fieldN b - 1 := by omega
  rw [if_neg hn]
  cases u with
  | true =>
    rw [if_pos rfl, BitVec.getLsbD_ofNat, testBit_field]
    by_cases hin : i < fieldN b <;> simp [hi, hin, BitVec.testBit_toNat]
  | false =>
    rw [if_neg Bool.false_ne_true, getLsbD_ofInt_sext _ hpos hi, testBit_field, testBit_field, hlast]
    by_cases hin : i < fieldN b <;> simp [hin, hpos, BitVec.testBit_toNat]

/-- The mask of a field. -/
theorem getLsbD_fieldMask (p n : Nat) {i : Nat} (hi : i < 32) :
    (BitVec.ofNat 32 ((2 ^ n - 1) * 2 ^ p)).getLsbD i = decide (p ≤ i ∧ i < p + n) := by
  rw [BitVec.getLsbD_ofNat, Nat.testBit_mul_two_pow, Nat.testBit_two_pow_sub_one]
  by_cases hp : p ≤ i
  · simp [hi, hp]; omega
  · simp [hp]

theorem bfi32_eq (a b c : Lane32) : bfi32 a b c =
    let m : Lane32 := .ofNat 32 ((2 ^ fieldN b - 1) * 2 ^ fieldP b)
    (c &&& ~~~m) ||| (.ofNat 32 (a.toNat * 2 ^ fieldP b) &&& m) := rfl

theorem bfi32_getLsbD (a b c : Lane32) {i : Nat} (hi : i < 32) : (bfi32 a b c).getLsbD i =
    if fieldP b ≤ i ∧ i < fieldP b + fieldN b then a.getLsbD (i - fieldP b) else c.getLsbD i := by
  rw [bfi32_eq, BitVec.getLsbD_or, BitVec.getLsbD_and, BitVec.getLsbD_and, BitVec.getLsbD_not, getLsbD_fieldMask _ _ hi, BitVec.getLsbD_ofNat,
    Nat.testBit_mul_two_pow, BitVec.testBit_toNat]
  split
  case isTrue hin => simp [hi, hin]
  case isFalse hout => simp [hi, hout]

/-! ## Bit counts (R95) -/

theorem length_filter_range (p : Nat → Bool) (n : Nat) : ((List.range n).filter p).length = ∑ i ∈ Finset.range n, (p i).toNat := by
  induction n with
  | zero => rfl
  | succ n ih =>
    rw [List.range_succ, List.filter_append, List.length_append, ih, Finset.sum_range_succ]
    cases hp : p n <;> simp [hp]

theorem popc32_toNat (a : Lane32) : (popc32 a).toNat = ∑ i ∈ Finset.range 32, (a.getLsbD i).toNat := by
  have hle : ((List.range 32).filter fun i => a.getLsbD i).length ≤ 32 := List.length_filter_le _ _
  rw [popc32, BitVec.toNat_ofNat, Nat.mod_eq_of_lt (by omega), length_filter_range]

theorem clz32_rule (a : Lane32) : (clz32 a).toNat ≤ 32 ∧ a.toNat < 2 ^ (32 - (clz32 a).toNat) ∧
    ((clz32 a).toNat < 32 → 2 ^ (31 - (clz32 a).toNat) ≤ a.toNat) := by
  have hval : (clz32 a).toNat = 32 - bitLen a.toNat := by rw [clz32, BitVec.toNat_ofNat, Nat.mod_eq_of_lt (by omega)]
  rw [hval]
  by_cases h0 : a.toNat = 0
  · simp [h0, bitLen]
  have hlog : a.toNat.log2 < 32 := (Nat.log2_lt h0).mpr a.isLt
  have hlen : bitLen a.toNat = a.toNat.log2 + 1 := if_neg h0
  have htop : 32 - (32 - (a.toNat.log2 + 1)) = a.toNat.log2 + 1 := by omega
  have hone : 31 - (32 - (a.toNat.log2 + 1)) = a.toNat.log2 := by omega
  rw [hlen, htop, hone]
  exact ⟨by omega, Nat.lt_log2_self, fun _ => Nat.log2_self_le h0⟩

theorem ffs32_rule (a : Lane32) : if a = 0 then ffs32 a = 0xFFFFFFFF else
    (ffs32 a).toNat < 32 ∧ a.getLsbD (ffs32 a).toNat = true ∧ ∀ i < (ffs32 a).toNat, a.getLsbD i = false := by
  unfold ffs32
  cases hfind : (List.range 32).find? fun i => a.getLsbD i with
  | none =>
    rw [List.find?_range_eq_none] at hfind
    have hzero : a = 0 := BitVec.eq_of_getLsbD_eq fun i hi => by simpa using hfind i hi
    rw [if_pos hzero]; rfl
  | some k =>
    rw [List.find?_range_eq_some] at hfind
    obtain ⟨hset, hk, hbelow⟩ := hfind
    have hk32 : k < 32 := List.mem_range.mp hk
    have hval : (BitVec.ofNat 32 k).toNat = k := by rw [BitVec.toNat_ofNat, Nat.mod_eq_of_lt (by omega)]
    have hne : a ≠ 0 := by rintro rfl; simp at hset
    rw [if_neg hne, Option.elim_some, hval]
    exact ⟨hk32, hset, fun i hi => by simpa using hbelow i hi⟩

theorem reverse_getLsbD (a : Lane32) {i : Nat} (hi : i < 32) : a.reverse.getLsbD (31 - i) = a.getLsbD i := by
  have hback : 32 - 1 - (31 - i) = i := by omega
  rw [BitVec.getLsbD_reverse, BitVec.getMsbD_eq_getLsbD, hback, decide_eq_true (by omega), Bool.true_and]

/-! ## The words -/

/-- Settles O3: each word computes its shift, field or count in every Active lane. -/
theorem shiftsAndBitFields : Obligations.ShiftsAndBitFields := by
  refine ⟨fun h => ⟨?_, ?_, ?_, ?_, ?_, ?_, ?_, ?_, ?_⟩, fun h f => ⟨?_, ?_⟩, fun h f => ⟨?_, ?_, ?_, ?_⟩⟩
  case refine_1 => exact fun _ => vecOp_of_exec (fun _ => rfl) fun _ _ _ => ⟨_, rfl, shl32_rule _ _⟩
  case refine_2 => exact fun _ => vecOp_of_exec (fun _ => rfl) fun _ _ _ => ⟨_, rfl, shr32_rule _ _⟩
  case refine_3 => exact fun _ => vecOp_of_exec (fun _ => rfl) fun _ _ _ => ⟨_, rfl, sar32_rule _ _⟩
  case refine_4 => exact fun _ => vecOp_of_exec (fun _ => rfl) fun _ _ _ => ⟨_, rfl, rotl32_rule _ _⟩
  case refine_5 => exact fun _ => vecOp_of_exec (fun _ => rfl) fun _ _ _ => ⟨_, rfl, shl32_rule _ _⟩
  case refine_6 => exact fun _ => vecOp_of_exec (fun _ => rfl) fun _ _ _ => ⟨_, rfl, shr32_rule _ _⟩
  case refine_7 => exact fun _ => vecOp_of_exec (fun _ => rfl) fun _ _ _ => ⟨_, rfl, sar32_rule _ _⟩
  case refine_8 => exact fun _ => vecOp_of_exec (fun _ => rfl) fun _ _ _ => ⟨_, rfl, rotl32_rule _ _⟩
  case refine_9 => exact fun _ => vecOp_of_exec (fun _ => rfl) fun _ _ _ => ⟨_, rfl, fshl32_toNat _ _ _⟩
  case refine_10 => exact vecOp_of_exec (fun _ => rfl) fun _ _ _ => ⟨_, rfl, fun _ => bfx32_getLsbD _ _ _⟩
  case refine_11 => exact vecOp_of_exec (fun _ => rfl) fun _ _ _ => ⟨_, rfl, fun _ => bfi32_getLsbD _ _ _⟩
  case refine_12 => exact vecOp_of_exec (fun _ => rfl) fun _ _ _ => ⟨_, rfl, popc32_toNat _⟩
  case refine_13 => exact vecOp_of_exec (fun _ => rfl) fun _ _ _ => ⟨_, rfl, clz32_rule _⟩
  case refine_14 => exact vecOp_of_exec (fun _ => rfl) fun _ _ _ => ⟨_, rfl, ffs32_rule _⟩
  case refine_15 => exact vecOp_of_exec (fun _ => rfl) fun _ _ _ => ⟨_, rfl, fun _ => reverse_getLsbD _⟩

end Sys2Proof.Machine

/-! PROOFS. Row 0x0A: the uniform words in 64-bit arithmetic, and VBCAST (R46, R113, R114). -/

namespace Sys2Proof.Machine

open Host

/-! ## 64-bit arithmetic (R113) -/

theorem sub64_toNat (a y : Word) : ((a - y).toNat : Int) = ((a.toNat - y.toNat : Int)) % 2 ^ 64 := by
  have ha := a.isLt
  have hy := y.isLt
  rw [BitVec.toNat_sub]
  omega

theorem slogic64_getLsbD (tt : BitVec 6) (a y : Word) {i : Nat} (hi : i < 64) :
    (slogic64 tt a y).getLsbD i = tt.getLsbD (2 * (a.getLsbD i).toNat + (y.getLsbD i).toNat) := by
  refine (getLsbD_ofNat_foldl _ 64 hi).trans ?_
  rw [decide_eq_true hi, Bool.true_and]

theorem sshl64_toNat (a y : Word) : (sshl64 a y).toNat = a.toNat * 2 ^ y.toNat % 2 ^ 64 := by
  unfold sshl64
  split
  case isTrue hn =>
    obtain ⟨m, hm⟩ := Nat.exists_eq_add_of_le hn
    rw [hm, pow_add, Nat.mul_left_comm, Nat.mul_mod_right]; rfl
  case isFalse => rw [BitVec.toNat_shiftLeft, Nat.shiftLeft_eq]

theorem sshr64_rule (u : Bool) (a y : Word) :
    if u then (sshr64 u a y).toNat = a.toNat / 2 ^ y.toNat else (sshr64 u a y).toInt = a.toInt / 2 ^ min y.toNat 63 := by
  unfold sshr64
  cases u with
  | true =>
    simp only [if_true]
    split
    case isTrue hn => exact (Nat.div_eq_of_lt (a.isLt.trans_le (Nat.pow_le_pow_right two_pos hn))).symm
    case isFalse => rw [BitVec.toNat_ushiftRight, Nat.shiftRight_eq_div_pow]
  | false =>
    simp only [Bool.false_eq_true, if_false]
    rw [BitVec.toInt_sshiftRight, Int.shiftRight_eq_div_pow]
    norm_cast

theorem bit_eq_one_iff {b : Bool} {P : Prop} (h : b = true ↔ P) : (bit b = 0 ∨ bit b = 1) ∧ (bit b = 1 ↔ P) := by
  rw [← h]
  cases b <;> simp [bit]

theorem asInt64_sminMax (u : Bool) (a y : Word) :
    asInt64 u (sminMax false u a y) = min (asInt64 u a) (asInt64 u y) ∧ asInt64 u (sminMax true u a y) = max (asInt64 u a) (asInt64 u y) := by
  constructor <;> simp only [sminMax, Bool.false_eq_true, if_false, if_true] <;> split <;> omega

theorem cat24_toNat (a : Word) (m : BitVec 24) : (a * 2 ^ 24 + m.setWidth 64 : Word).toNat = (a.toNat * 2 ^ 24 + m.toNat) % 2 ^ 64 := by
  have hm := m.isLt
  have hshift : (2 ^ 24 : Word).toNat = 2 ^ 24 := rfl
  rw [BitVec.toNat_add, BitVec.toNat_mul, BitVec.toNat_setWidth, hshift]
  omega

/-! ## VBCAST (R114) -/

theorem fieldOk_vbcast {h : Hdr} {f : VA} (hok : (Instr.vbcast h f).fieldOk = true) :
    f.t = 0 ∧ f.a = 0 ∧ f.c = 0 ∧ f.fl = 1 ∧ f.sub.toNat < 3 := by
  have hand : (f.ok (f.t == 0) true false false false 3 1 && f.fl == 1 && f.a == 0 && f.sub < 3) = true := hok
  simp only [Bool.and_eq_true, beq_iff_eq, decide_eq_true_eq] at hand
  obtain ⟨⟨⟨hva, hfl⟩, ha⟩, hsub⟩ := hand
  obtain ⟨ht, hc, -, -⟩ := VA.ok_fields hva
  exact ⟨eq_of_beq ht, ha, hc rfl, hfl, hsub⟩

/-- A pair's base is even. -/
theorem even_toNat {r : BitVec 8} (h : Instr.pairOk.even r = true) : r.toNat % 2 = 0 := by
  have hbit : r.getLsbD 0 = false := by simpa [Instr.pairOk.even] using h
  rw [← BitVec.testBit_toNat, Nat.testBit_zero] at hbit
  simpa using hbit

theorem pairOk_vbcast {h : Hdr} {f : VA} (hsub : f.sub = 2) (hok : (Instr.vbcast h f).pairOk = true) : f.d.toNat % 2 = 0 := by
  have hor : (!f.sub.getLsbD 1 || Instr.pairOk.even f.d) = true := hok
  rw [hsub] at hor
  exact even_toNat hor

/-- Settles O10: every uniform word by its 64-bit result, and VBCAST by its three forms and its checks. -/
theorem uniformRow : Obligations.UniformRow := by
  refine ⟨fun h f => ⟨?_, ?_, ?_, ?_, ?_, ?_, ?_, ?_, ?_, ?_, ?_⟩, fun h f => ⟨?_, ?_, ?_, fieldOk_vbcast, pairOk_vbcast⟩⟩
  case refine_1 => exact uniOp_of_exec (fun _ => rfl) fun _ => BitVec.toNat_add _ _
  case refine_2 => exact uniOp_of_exec (fun _ => rfl) fun _ => sub64_toNat _ _
  case refine_3 => exact uniOp_of_exec (fun _ => rfl) fun _ => BitVec.toNat_mul _ _
  case refine_4 => exact uniOp_of_exec (fun _ => rfl) fun _ _ => slogic64_getLsbD _ _ _
  case refine_5 => exact uniOp_of_exec (fun _ => rfl) fun _ => sshl64_toNat _ _
  case refine_6 => exact uniOp_of_exec (fun _ => rfl) fun _ => sshr64_rule _ _ _
  case refine_7 => exact uniOp_of_exec (fun _ => rfl) fun _ => bit_eq_one_iff (condHolds_iff _ _ _)
  case refine_8 => exact uniOp_of_exec (fun _ => rfl) fun _ => (asInt64_sminMax _ _ _).1
  case refine_9 => exact uniOp_of_exec (fun _ => rfl) fun _ => (asInt64_sminMax _ _ _).2
  case refine_10 => exact uniOp_of_exec (fun _ => rfl) fun _ => rfl
  case refine_11 => exact uniOp_of_exec (fun _ => rfl) fun _ => cat24_toNat _ _
  case refine_12 =>
    exact fun hsub => vecOp_of_exec (fun _ => rfl) fun _ _ _ => ⟨_, by simp [hsub], BitVec.setWidth_eq_extractLsb' (by decide)⟩
  case refine_13 => exact fun hsub => vecOp_of_exec (fun _ => rfl) fun _ _ _ => ⟨_, by simp [hsub], rfl⟩
  case refine_14 => exact fun hsub => pairOp_of_exec (fun _ => rfl) fun _ _ _ => ⟨_, by simp [hsub], rfl⟩

end Sys2Proof.Machine

/-! PROOFS. Row 0x0B: branches, calls and returns under a uniform condition, EXIT, NOP, YIELD and SLEEP (R115 to R121). -/

namespace Sys2Proof.Machine

open Host

/-! ## Conditions (R115, R116, R118) -/

theorem target_eq (t : Team) (f : BF) : target t f = branchDest f t := by
  unfold target branchDest
  rw [BitVec.mul_comm]

theorem condMask_getLsbD (t : Team) (f : BF) {L : Nat} (h : L < 1024) : (condMask t f).getLsbD L = (decide (L < t.lanes) && laneCond f t L) :=
  maskOf_getLsbD _ _ h

/-- A lane whose condition the mask of conditions gives. -/
theorem active_and_condMask_getLsbD (t : Team) (f : BF) (L : Nat) :
    (t.active &&& condMask t f).getLsbD L = (t.active.getLsbD L && (decide (L < t.lanes) && laneCond f t L)) := by
  rw [BitVec.getLsbD_and]
  by_cases h : L < 1024
  · rw [condMask_getLsbD t f h]
  · rw [BitVec.getLsbD_of_ge t.active L (by omega)]; rfl

theorem condUniform_of_condIs {t : Team} {f : BF} {b : Bool} (h : CondIs f t b) : condUniform t f = some b := by
  unfold CondIs at h
  unfold condUniform
  split
  case isTrue hsub => rw [if_pos hsub] at h; rw [h]
  case isFalse hsub =>
    rw [if_neg hsub] at h
    obtain ⟨hne, hall⟩ := h
    cases b with
    | true =>
      have heq : t.active &&& condMask t f = t.active := BitVec.eq_of_getLsbD_eq fun L _ => by
        rw [active_and_condMask_getLsbD]
        cases hL : t.active.getLsbD L with
        | false => rfl
        | true => simp [hall L hL]
      simp only [heq, if_true]
    | false =>
      have hzero : t.active &&& condMask t f = 0 := BitVec.eq_of_getLsbD_eq fun L _ => by
        rw [active_and_condMask_getLsbD]
        cases hL : t.active.getLsbD L with
        | false => simp
        | true => simp [hall L hL]
      simp only [hzero, if_true, if_neg (Ne.symm hne)]

theorem condUniform_of_divergent {t : Team} {f : BF} (h : CondDivergent f t) : condUniform t f = none := by
  obtain ⟨hsub, L, M, hL, hM, haL, haM, hcL, hcM⟩ := h
  have hall : t.active &&& condMask t f ≠ t.active := fun heq => by
    have := active_and_condMask_getLsbD t f M
    rw [heq, haM, hcM] at this; simp at this
  have hnone : t.active &&& condMask t f ≠ 0 := fun heq => by
    have := active_and_condMask_getLsbD t f L
    rw [heq, haL, hcL] at this; simp [hL] at this
  simp only [condUniform, if_neg hsub, if_neg hall, if_neg hnone]

/-! ## Regions and the mask stack (R119, R170) -/

theorem Team.DeepEnough.no_abort {t : Team} {n : Nat} (hd : t.DeepEnough n) : (t.tryR.any fun r => n < r.depth) = false := by
  cases hr : t.tryR with
  | none => rfl
  | some r => simpa using hd r hr

/-- Reconverge pops the CALL entries on top and stops at an IF, ELSE or CONT entry (R119). -/
theorem reconverge_calls {calls : List StackEntry} {e : StackEntry} {es : List StackEntry} (hc : ∀ c ∈ calls, c.kind = .callE)
    (he : e.kind = .ifE ∨ e.kind = .elseE ∨ e.kind = .contE) : reconverge (calls ++ e :: es) = some (e :: es, e.addr) := by
  induction calls with
  | nil => rcases he with he | he | he <;> simp [reconverge, he]
  | cons c calls ih =>
    rw [List.cons_append, reconverge, hc c List.mem_cons_self]
    exact ih fun x hx => hc x (List.mem_cons_of_mem _ hx)

/-! ## How control words end -/

theorem Team.moved_refl (t : Team) : t.Moved t := ⟨rfl, fun _ _ => rfl, fun _ _ => rfl⟩

/-- The team is set to u, and its word retires. -/
theorem setTeam_retire_ends (s : State) {tk : Nat} {u : Team} (hs : u.stepping = none) (z : Bool) :
    Ends (.next ((Act.retire (s.setTeam tk u)).finish tk z)) s tk u [] :=
  ends_retire (State.team_setTeam _ _ _) hs (fun _ => State.setTeam_setTeam _ _ _ _) rfl ⟨rfl, rfl⟩ (Team.wrote_nil u)

/-- The team is set to u, and its word jumps. -/
theorem setTeam_jump_jumps (s : State) {tk : Nat} {u : Team} (hs : u.stepping = none) (z : Bool) (pc : Word) :
    Jumps (.next ((Act.jump (s.setTeam tk u) pc).finish tk z)) s tk u pc :=
  jumps_jump (State.team_setTeam _ _ _) hs (fun _ => State.setTeam_setTeam _ _ _ _) u.moved_refl

section Ways

variable {s : State} {t : Team} {i : Instr} {h : Hdr}

/-- A fault freezes the team once for all its lanes, unless an address cause meets an open region (R37, R170). -/
theorem fault_freezes (hi : s.Issues t i h) {c : Cause} (sub : Nat) (hc : t.tryR = none ∨ c.isAddress = false) :
    Freezes (.next ((Act.fault s h c sub 0 0).finish s.cur h.z)) s t h c sub := by
  have hno : (t.tryR.isSome && c.isAddress) = false := by
    rcases hc with hc | hc <;> simp [hc]
  simp only [Freezes, Act.finish, hi.1, hno, Bool.false_eq_true, if_false]

theorem illegalAt_freezes (hi : s.Issues t i h) (sub : Nat) : Freezes (.next ((illegalAt s h sub).finish s.cur h.z)) s t h .illegal sub :=
  fault_freezes hi sub (.inr rfl)

theorem jump_jumps (hi : s.Issues t i h) (pc : Word) : Jumps (.next ((Act.jump s pc).finish s.cur h.z)) s s.cur t pc := by
  obtain ⟨hteam, -, -, -, hstep⟩ := hi
  exact jumps_jump hteam hstep (fun _ => rfl) t.moved_refl

/-- A word that parks a team u that it has noted. -/
theorem setTeam_park_parks {tk : Nat} {u : Team} (hs : u.stepping = none) (c : Cond) (z : Bool) :
    Parks (.next ((Act.park (s.setTeam tk u) c).finish tk z)) s tk u c := by
  simp only [Parks, Act.finish, State.team_setTeam, State.setTeam_setTeam, hs, Option.isSome_none, Bool.false_and, Bool.false_eq_true, if_false]

theorem park_parks (hi : s.Issues t i h) (c : Cond) : Parks (.next ((Act.park s c).finish s.cur h.z)) s s.cur t c := by
  obtain ⟨hteam, -, -, -, hstep⟩ := hi
  simp only [Parks, Act.finish, hteam, hstep, Option.isSome_none, Bool.false_and, Bool.false_eq_true, if_false]

/-- Leaving within the region's depth to a given address. -/
theorem leave_jumps (hi : s.Issues t i h) {masks : List StackEntry} (m live : Mask) (pc : Word) (hd : t.DeepEnough masks.length) :
    Jumps (.next ((leave s s.cur t masks m live (some pc)).finish s.cur h.z)) s s.cur { t with masks := masks, active := m, live := live } pc := by
  obtain ⟨-, -, -, -, hstep⟩ := hi
  simp only [leave, hd.no_abort, Bool.false_eq_true, if_false]
  exact setTeam_jump_jumps s (u := { t with masks := masks, active := m, live := live }) hstep h.z pc

/-- Leaving without an address: behind the word, or where Reconverge leads (R118, R119). -/
theorem leave_leaves (hi : s.Issues t i h) (masks : List StackEntry) (m live : Mask) :
    Leaves (.next ((leave s s.cur t masks m live none).finish s.cur h.z)) s t masks m live := by
  obtain ⟨-, -, -, -, hstep⟩ := hi
  refine ⟨fun hm hd => ?_, fun calls e es hm hmasks hc he hd => ?_⟩
  · simp only [leave, if_neg hm, hd.no_abort, Bool.false_eq_true, if_false]
    exact setTeam_retire_ends s (u := { t with masks := masks, active := m, live := live }) hstep h.z
  · have hd' : t.DeepEnough (e :: es).length := hd
    simp only [leave, if_pos hm, hmasks, reconverge_calls hc he, Option.map_some, hd'.no_abort, Bool.false_eq_true, if_false]
    exact setTeam_jump_jumps s (u := { t with masks := e :: es, active := m, live := live }) hstep h.z e.addr

/-- A branch goes, continues at the next clause, or stops, as its condition says (R116). -/
theorem branch_rule {f : BF} {go : State → Nat → Team → Act} (hi : s.Issues t i h) (he : exec i s = issue i h (branch h f go) s) :
    (CondIs f t true → exec i s = .next ((go s s.cur t).finish s.cur h.z)) ∧
    (CondIs f t false → Ends (exec i s) s s.cur t []) ∧ (CondDivergent f t → Freezes (exec i s) s t h .illegal 0x0F) := by
  rw [he, issue_next hi, branch]
  refine ⟨fun hc => ?_, fun hc => ?_, fun hc => ?_⟩
  · rw [condUniform_of_condIs hc]
  · rw [condUniform_of_condIs hc]; exact retire_ends hi
  · rw [condUniform_of_divergent hc]; exact illegalAt_freezes hi _

/-! ## The words -/

theorem bra_rule {f : BF} (hi : s.Issues t (.bra h f) h) :
    (CondIs f t true → Jumps (exec (.bra h f) s) s s.cur t (branchDest f t)) ∧
    (CondIs f t false → Ends (exec (.bra h f) s) s s.cur t []) ∧
    (CondDivergent f t → Freezes (exec (.bra h f) s) s t h .illegal 0x0F) := by
  obtain ⟨hgo, hrest⟩ := branch_rule hi (rfl : exec (.bra h f) s = issue _ h (branch h f _) s)
  refine ⟨fun hc => ?_, hrest⟩
  rw [hgo hc, target_eq]
  exact jump_jumps hi _

theorem brx_rule {f : BF} (hi : s.Issues t (.brx h f) h) :
    let brx := t.rs f.sreg.toNat + 8 * f.off.signExtend 64
    (CondIs f t true → brx.toNat % 8 = 0 → Jumps (exec (.brx h f) s) s s.cur t brx) ∧
    (CondIs f t true → brx.toNat % 8 ≠ 0 → t.tryR = none → Freezes (exec (.brx h f) s) s t h .misaligned 0) ∧
    (CondIs f t false → Ends (exec (.brx h f) s) s s.cur t []) ∧
    (CondDivergent f t → Freezes (exec (.brx h f) s) s t h .illegal 0x0F) := by
  obtain ⟨hgo, hrest⟩ := branch_rule hi (rfl : exec (.brx h f) s = issue _ h (branch h f _) s)
  intro brx
  have hdest : t.rs f.sreg.toNat + f.off.signExtend 64 * 8 = brx := congrArg _ (BitVec.mul_comm _ _)
  refine ⟨fun hc h8 => ?_, fun hc h8 hr => ?_, hrest⟩
  · rw [hgo hc]
    simp only [hdest, h8, bne_self_eq_false, Bool.false_eq_true, if_false]
    exact jump_jumps hi _
  · rw [hgo hc]
    simp only [hdest, bne_iff_ne.mpr h8, if_true]
    exact fault_freezes hi 0 (.inl hr)

theorem callK_rule {f : BF} (hi : s.Issues t (.callK h f) h) :
    (CondIs f t true → t.masks.length < 256 → t.DeepEnough (t.masks.length + 1) →
      Jumps (exec (.callK h f) s) s s.cur { t with masks := ⟨.callE, 0, t.nextPc⟩ :: t.masks } (branchDest f t)) ∧
    (CondIs f t true → 256 ≤ t.masks.length → Freezes (exec (.callK h f) s) s t h .illegal 0x0E) ∧
    (CondIs f t false → Ends (exec (.callK h f) s) s s.cur t []) ∧
    (CondDivergent f t → Freezes (exec (.callK h f) s) s t h .illegal 0x0F) := by
  obtain ⟨hgo, hrest⟩ := branch_rule hi (rfl : exec (.callK h f) s = issue _ h (branch h f _) s)
  refine ⟨fun hc hroom hd => ?_, fun hc hfull => ?_, hrest⟩
  · rw [hgo hc, pushing, if_neg (by simp; omega), target_eq]
    exact leave_jumps hi t.active t.live _ hd
  · rw [hgo hc, pushing, if_pos (by simp; omega)]
    exact illegalAt_freezes hi _

theorem ret_rule {f : BF} (hi : s.Issues t (.ret h f) h) :
    (∀ e es, CondIs f t true → t.masks = e :: es → e.kind = .callE → t.DeepEnough es.length →
      Jumps (exec (.ret h f) s) s s.cur { t with masks := es } e.addr) ∧
    (CondIs f t true → (∀ e es, t.masks = e :: es → e.kind ≠ .callE) → Freezes (exec (.ret h f) s) s t h .illegal 0x10) ∧
    (CondIs f t false → Ends (exec (.ret h f) s) s s.cur t []) ∧
    (CondDivergent f t → Freezes (exec (.ret h f) s) s t h .illegal 0x0F) := by
  obtain ⟨hgo, hrest⟩ := branch_rule hi (rfl : exec (.ret h f) s = issue _ h (branch h f _) s)
  refine ⟨fun e es hc hm hk hd => ?_, fun hc hno => ?_, hrest⟩
  · rw [hgo hc, hm]
    simp only [hk, if_true]
    exact leave_jumps hi t.active t.live e.addr hd
  · rw [hgo hc]
    cases hm : t.masks with
    | nil => exact illegalAt_freezes hi _
    | cons e es =>
      simp only [if_neg (hno e es hm)]
      exact illegalAt_freezes hi _

theorem exitK_rule {f : BF} (ha : t.ActiveExists) (hi : s.Issues t (.exitK h f) h) {out rest live : Mask}
    (hout : IsLanes out t.active (laneCond f t)) (hrest : IsLanes rest t.active fun L => !laneCond f t L) (hlive : live = t.live &&& ~~~out) :
    (live ≠ 0 → Leaves (exec (.exitK h f) s) s t t.masks rest live) ∧ (live = 0 → exec (.exitK h f) s = .next (s.endTeam s.cur)) := by
  have hexec : exec (.exitK h f) s = execExit h f s := rfl
  have hin (L : Nat) : (t.active.getLsbD L && decide (L < t.lanes)) = t.active.getLsbD L := by
    cases hL : t.active.getLsbD L with
    | false => rfl
    | true => simpa using ha L hL
  have hout' : t.active &&& condMask t f = out := BitVec.eq_of_getLsbD_eq fun L hL => by
    rw [active_and_condMask_getLsbD, ← Bool.and_assoc, hin, hout L hL]
  have hrest' : t.active &&& ~~~out = rest := BitVec.eq_of_getLsbD_eq fun L hL => by
    rw [clearBit _ _ hL, hout L hL, hrest L hL]
    cases t.active.getLsbD L <;> rfl
  rw [hexec, execExit, issue_next hi]
  simp only [hout', hrest', ← hlive]
  refine ⟨fun hne => ?_, fun hz => ?_⟩
  · rw [if_neg hne]; exact leave_leaves hi _ _ _
  · rw [if_pos hz]; rfl

theorem nop_ends {f : BF} (hi : s.Issues t (.nop h f) h) : Ends (exec (.nop h f) s) s s.cur t [] := by
  have hexec : exec (.nop h f) s = execNop h f s := rfl
  rw [hexec, execNop, issue_next hi]
  exact retire_ends hi

theorem Team.commit_giveMark (t : Team) : t.commit.giveMark = t.giveMark := by
  obtain ⟨v, r, k, hc⟩ := t.commit_kept
  rw [hc]

/-- A team marked to give its slot up stays marked behind its word (R309). -/
theorem giveMark_finish_retire {tk : Nat} {u t' : Team} {z : Bool} (hu : s.team tk = some u) (hs : u.stepping = none)
    (hmark : u.giveMark = true) (h' : (Act.retire s).finish tk z = s.setTeam tk t') : t'.giveMark = true := by
  obtain ⟨u1, hpass, hs1, hmark1⟩ : ∃ u1, s.passWord tk = s.setTeam tk u1 ∧ u1.stepping = none ∧ u1.giveMark = true := by
    obtain ⟨hmoved, -⟩ := Team.passWord_moved u s.now _ rfl
    refine ⟨_, State.updTeam_some hu _, hmoved.1.stepping.trans hs, ?_⟩
    dsimp only
    split
    · exact hmark
    · simp [Team.endClause, Team.noteEnd, Team.commit_giveMark, hmark]
  obtain ⟨run, adm, slot, hset⟩ := State.settle_setTeam s tk u1 z hs1
  have heq : s.setTeam tk t' = s.setTeam tk { u1 with run := run, admitted := adm, inSlot := slot } := by
    rw [← h', ← hset, ← hpass]; rfl
  have hteam := congrArg (State.team · tk) heq
  simp only [State.team_setTeam, Option.some.injEq] at hteam
  rw [hteam]; exact hmark1

/-- The mark has no part in a team's registers. -/
theorem Team.moved_giveMark (t : Team) : t.Moved { t with giveMark := true } := by
  refine ⟨rfl, fun r L => ?_, fun _ _ => rfl⟩
  refine Team.endVal_congr ?_ ?_ r L
  · exact ⟨rfl, rfl, rfl, rfl⟩
  · rfl

theorem yieldK_rule {f : BF} (hi : s.Issues t (.yieldK h f) h) :
    ∃ t', exec (.yieldK h f) s = .next (s.setTeam s.cur t') ∧ t.Kept t' ∧ t.Next t' ∧ t.Wrote t' [] ∧ t'.giveMark = true := by
  have hexec : exec (.yieldK h f) s = execYield h f s := rfl
  rw [hexec, execYield, issue_next hi]
  obtain ⟨-, -, -, -, hstep⟩ := hi
  have hmoved := t.moved_giveMark
  have hu : (s.setTeam s.cur { t with giveMark := true }).team s.cur = some { t with giveMark := true } := State.team_setTeam _ _ _
  obtain ⟨t', hres, hkept, hnext, hwrote⟩ := ends_retire (z := h.z) hu hstep (fun _ => State.setTeam_setTeam _ _ _ _) hmoved.1 ⟨rfl, rfl⟩
    ((Team.wrote_nil t).moved hmoved)
  refine ⟨t', hres, hkept, hnext, hwrote, giveMark_finish_retire (z := h.z) hu hstep rfl ?_⟩
  rw [Host.Outcome.next.inj hres, State.setTeam_setTeam]

theorem sleepK_rule {f : BF} (hi : s.Issues t (.sleepK h f) h) :
    let n := (f.off.setWidth 64 + t.rs f.sreg.toNat).toNat
    (t.sleepUntil = none → n = 0 → Ends (exec (.sleepK h f) s) s s.cur t []) ∧
    (t.sleepUntil = none → n ≠ 0 → Parks (exec (.sleepK h f) s) s s.cur { t with sleepUntil := some (s.now + n) } (.sleep (s.now + n))) ∧
    (∀ u, t.sleepUntil = some u → s.now < u → Parks (exec (.sleepK h f) s) s s.cur t (.sleep u)) ∧
    (∀ u, t.sleepUntil = some u → u ≤ s.now → Ends (exec (.sleepK h f) s) s s.cur { t with sleepUntil := none } []) := by
  intro n
  have hexec : exec (.sleepK h f) s = execSleep h f s := rfl
  have hstep : t.stepping = none := hi.2.2.2.2
  rw [hexec, execSleep, issue_next hi]
  refine ⟨fun hu hn => ?_, fun hu hn => ?_, fun u hu hlt => ?_, fun u hu hle => ?_⟩
  · simp only [hu, if_pos (show (f.off.setWidth 64 + t.rs f.sreg.toNat).toNat = 0 from hn)]
    exact retire_ends hi
  · simp only [hu, if_neg (show ¬(f.off.setWidth 64 + t.rs f.sreg.toNat).toNat = 0 from hn)]
    exact setTeam_park_parks (u := { t with sleepUntil := some (s.now + n) }) hstep _ _
  · simp only [hu, if_neg (Nat.not_le.mpr hlt)]
    exact park_parks hi _
  · simp only [hu, if_pos hle]
    exact setTeam_retire_ends s (u := { t with sleepUntil := none }) hstep h.z

end Ways

/-- Settles O11: each control word by its condition, its stack and its clock. -/
theorem branchesCallsAndExit : Obligations.BranchesCallsAndExit :=
  ⟨⟨fun _ _ _ _ => ⟨bra_rule, brx_rule⟩, fun _ _ _ _ => ⟨callK_rule, ret_rule⟩⟩, fun _ _ _ _ ha =>
    ⟨fun hi _ _ _ => exitK_rule ha hi, nop_ends, yieldK_rule, sleepK_rule⟩⟩

end Sys2Proof.Machine

/-! PROOFS. What REDG, REDT and SCANG apply at a node: an FP32 sum, a minimum or maximum, an integer operation (R75, R76, R78, R95, R101,
R112). -/

namespace Sys2Proof.Machine

open Host

/-! ## Exact sums (R76, R78) -/

/-- A finite value, counted in units of 2^e0 at or below its exponent. -/
theorem finAt_mul_zpow (s : Bool) (m : Nat) {e e0 : Int} (h : m = 0 ∨ e0 ≤ e) : (finAt s m e e0 : ℚ) * 2 ^ e0 = dyadic s m e := by
  rcases h with rfl | h
  · cases s <;> simp [finAt, dyadic]
  · have hexp : (2 : ℚ) ^ (e - e0).toNat * 2 ^ e0 = 2 ^ e := by
      rw [← zpow_natCast, Int.toNat_of_nonneg (by omega), ← zpow_add₀ two_ne_zero]
      congr 1; omega
    cases s <;> simp [finAt, dyadic, mul_assoc, hexp]

/-- An integer in units of 2^e0, as the sign and magnitude of an exact value. -/
theorem dyadic_natAbs (v e0 : Int) : dyadic (v < 0) v.natAbs e0 = v * 2 ^ e0 := by
  unfold dyadic
  rcases lt_or_ge v 0 with h | h
  · have habs : ((v.natAbs : Nat) : ℚ) = -v := by rw [Nat.cast_natAbs, abs_of_neg h, Int.cast_neg]
    simp [h, habs]
  · have habs : ((v.natAbs : Nat) : ℚ) = v := by rw [Nat.cast_natAbs, abs_of_nonneg h]
    simp [Int.not_lt.mpr h, habs]

theorem sumOf_add (rm : Rnd) (a b : XVal) : SumOf rm a b (a.add rm b) := by
  match a, b with
  | .nan _, .nan _ | .nan _, .inf _ | .nan _, .fin _ _ _ | .inf _, .nan _ | .fin _ _ _, .nan _ => rfl
  | .inf _, .fin _ _ _ | .fin _ _ _, .inf _ => rfl
  | .inf p, .inf q => by_cases h : p = q <;> simp [SumOf, XVal.add, h]
  | .fin s m e, .fin u n f =>
    obtain ⟨e0, he0⟩ : ∃ e0, e0 = if m = 0 then f else if n = 0 then e else min e f := ⟨_, rfl⟩
    obtain ⟨v, hv⟩ : ∃ v, v = finAt s m e e0 + finAt u n f e0 := ⟨_, rfl⟩
    have hs : m = 0 ∨ e0 ≤ e := by rw [he0]; split_ifs <;> omega
    have hu : n = 0 ∨ e0 ≤ f := by rw [he0]; split_ifs <;> omega
    have hsum : (v : ℚ) * 2 ^ e0 = dyadic s m e + dyadic u n f := by
      rw [hv, Int.cast_add, add_mul, finAt_mul_zpow s m hs, finAt_mul_zpow u n hu]
    have hadd : (XVal.fin s m e).add rm (.fin u n f) = if v = 0 then (if m = 0 ∧ n = 0 ∧ s = u then .fin s 0 0 else .fin (rm == .rd) 0 0)
        else .fin (v < 0) v.natAbs e0 := by rw [hv, he0]; rfl
    rw [hadd]
    by_cases h0 : v = 0
    · have hzero : dyadic s m e + dyadic u n f = 0 := by rw [← hsum, h0]; simp
      rw [if_pos h0]
      split
      case isTrue hz => exact ⟨s, 0, 0, rfl, by rw [hzero]; simp [dyadic], fun _ => by simp [hz]⟩
      case isFalse hz => exact ⟨_, 0, 0, rfl, by rw [hzero]; simp [dyadic], fun _ => by simp [hz]⟩
    · rw [if_neg h0]
      exact ⟨_, _, _, rfl, by rw [dyadic_natAbs, hsum], fun hk => absurd (Int.natAbs_eq_zero.mp hk) h0⟩

/-! ## FP32 operands (R75, R101) -/

theorem rmOf_eq (c : BitVec 2) : rmOf c = rndOf c := by revert c; decide

/-- An FP32 encoding whose exponent field is zero is finite, of the sign of its top bit. -/
theorem decodeNum_fp32_subnormal (x : Lane32) (h : x.toNat % 2 ^ 31 < 2 ^ 23) : ∃ m e, decodeNum .fp32 x.toNat = .fin x.msb m e := by
  have hexp : x.toNat / 2 ^ 23 % 2 ^ 8 = 0 := by omega
  have hsign : x.toNat.testBit 31 = x.msb := by rw [BitVec.msb_eq_getLsbD_last, BitVec.testBit_toNat]
  exact ⟨_, _, by
    show decodeFloat .fp32 8 23 127 x.toNat = _
    simp only [decodeFloat, hexp, floatValue]
    rw [← hsign]; rfl⟩

theorem readsAs_opF (t : Team) (neg : Bool) (x : Lane32) : ReadsAs t neg x (opF t neg x) := by
  unfold ReadsAs opF negF32
  generalize (if neg = true then x ^^^ 0x80000000 else x) = y
  dsimp only
  unfold readF32
  split
  case isTrue h =>
    obtain ⟨m, e, hdec⟩ := decodeNum_fp32_subnormal y h.2
    obtain ⟨hftz, hsub⟩ := h
    refine ⟨0, ?_⟩
    simp only [hdec, hftz, hsub, decide_true, Bool.and_self, if_true]
  case isFalse h =>
    cases decodeNum .fp32 y.toNat with
    | fin s m e => simpa using fun hf hs => absurd ⟨hf, hs⟩ h
    | nan _ => rfl
    | inf _ => rfl

theorem flushF32_eq (ftz : Bool) (y : Lane32) :
    flushF32 ftz y = if ftz = true ∧ y.toNat % 2 ^ 31 < 2 ^ 23 then y &&& 0x80000000 else y := by
  simp [flushF32]

/-- A flushed encoding is a NaN just when the encoding is. -/
theorem nanF32_flushF32 (ftz : Bool) (y : Lane32) : nanF32 (flushF32 ftz y) = true ↔ 0x7F800000 < y.toNat % 2 ^ 31 := by
  rw [flushF32_eq]
  split
  case isTrue h =>
    have hz : (y &&& 0x80000000).toNat % 2 ^ 31 = 0 := by
      have hand : (y &&& 0x80000000).toNat = y.toNat &&& 2 ^ 31 := BitVec.toNat_and _ _
      rw [hand, Nat.and_two_pow, Nat.mul_mod_left]
    simp only [nanF32, hz, decide_eq_true_eq]
    omega
  case isFalse => simp [nanF32]

/-- The key of R101, as the rule writes it. -/
theorem keyF32_eq (y : Lane32) : keyF32 y = if y.msb then -1 - ((y.toNat % 2 ^ 31 : Nat) : Int) else y.toNat := by
  unfold keyF32
  split <;> omega

theorem minMaxRule_fminmax (isMax ftz : Bool) (a b : Lane32) : MinMaxRule isMax ftz a b (fminmax isMax ftz a b) := by
  have ha := nanF32_flushF32 ftz a
  have hb := nanF32_flushF32 ftz b
  unfold MinMaxRule fminmax
  simp only [← flushF32_eq, ← ha, ← hb, ← keyF32_eq]
  generalize flushF32 ftz a = p
  generalize flushF32 ftz b = q
  refine ⟨fun ⟨hp, hq⟩ => ?_, fun ⟨hp, hq⟩ => ?_, fun ⟨hp, hq⟩ => ?_, fun ⟨hp, hq⟩ => ?_⟩
  · simp only [hp, hq, Bool.and_self, if_true]
  · simp only [hp, hq, Bool.true_and, Bool.false_eq_true, if_false, if_true]
  · simp only [hp, hq, Bool.false_and, Bool.false_eq_true, if_false, if_true]
  · simp only [hp, hq, Bool.false_and, Bool.false_eq_true, if_false]
    cases isMax with
    | false => simp only [Bool.false_eq_true, if_false]; split <;> simp <;> omega
    | true => simp only [if_true]; split <;> simp <;> omega

/-! ## Integer operations (R95) -/

theorem clampInt_eq {lo hi : Int} (h : lo ≤ hi) (x : Int) : clampInt lo hi x = max lo (min x hi) := by
  unfold clampInt
  split_ifs <;> omega

theorem asInt_ofInt (u : Bool) (z : Int) : asInt u (.ofInt 32 z) = if u then z % 2 ^ 32 else z.bmod (2 ^ 32) := by
  cases u with
  | true =>
    have hnn : 0 ≤ z % 2 ^ 32 := Int.emod_nonneg _ (by decide)
    simp only [asInt, if_true, BitVec.toNat_ofInt]
    exact Int.toNat_of_nonneg hnn
  | false => simp only [asInt, Bool.false_eq_true, if_false, BitVec.toInt_ofInt]

theorem satOrWrap_rule (sat u : Bool) (e : Int) : SumRule sat u e (satOrWrap sat u e) := by
  unfold SumRule satOrWrap
  cases sat with
  | false =>
    simp only [Bool.false_eq_true, if_false, asInt_ofInt, Int.bmod_def]
    split_ifs <;> omega
  | true =>
    cases u with
    | true => simp only [if_true, asInt_ofInt, clampInt_eq (show (0 : Int) ≤ 2 ^ 32 - 1 by decide)]; omega
    | false =>
      simp only [Bool.false_eq_true, if_false, if_true, asInt_ofInt, clampInt_eq (show (-(2 ^ 31) : Int) ≤ 2 ^ 31 - 1 by decide), Int.bmod_def]
      split <;> omega

theorem asInt_minMax (u : Bool) (a b : Lane32) :
    asInt u (minMax false u a b) = min (asInt u a) (asInt u b) ∧ asInt u (minMax true u a b) = max (asInt u a) (asInt u b) := by
  constructor <;> simp only [minMax, Bool.false_eq_true, if_false, if_true] <;> split <;> omega

/-- The operation of a reduction word at a node (R112). -/
theorem reduceRule_redOp (t : Team) (f : VA) (a b : Lane32) : ReduceRule t f a b (redOp t f a b) := by
  unfold ReduceRule redOp VA.sub3
  dsimp only
  generalize f.sub.toNat % 8 = k
  split
  case isTrue =>
    match k with
    | 0 => exact ⟨_, _, _, readsAs_opF t false a, readsAs_opF t false b, sumOf_add _ _ _, by rw [← rmOf_eq]; rfl⟩
    | 1 => exact minMaxRule_fminmax _ _ _ _
    | _ + 2 => exact minMaxRule_fminmax _ _ _ _
  case isFalse =>
    match k with
    | 0 => exact satOrWrap_rule _ _ _
    | 1 => exact (asInt_minMax _ _ _).1
    | 2 => exact (asInt_minMax _ _ _).2
    | 3 => exact fun _ _ => BitVec.getLsbD_and
    | 4 => exact fun _ _ => BitVec.getLsbD_or
    | _ + 5 => exact fun _ _ => BitVec.getLsbD_xor

end Sys2Proof.Machine

/-! PROOFS. Rows 0x08 and 0x09: SHFL, votes, predicate moves, matches, reductions over the fixed tree and scans (R90, R108 to R112). -/

namespace Sys2Proof.Machine

open Host

/-! ## SHFL (R109) -/

theorem shflLane_eq {mode l : Nat} (hl : l < 32) (n : Lane32) : shflLane mode l n =
    if 0 ≤ shflJ mode l n.toNat ∧ shflJ mode l n.toNat < 32 then some (shflJ mode l n.toNat).toNat else none := by
  match mode with
  | 0 =>
    have hlt := Nat.mod_lt n.toNat (by decide : 32 > 0)
    simp only [shflLane, shflJ]; rw [if_pos (by omega)]; rfl
  | 1 => simp only [shflLane, shflJ]; split <;> split <;> simp <;> omega
  | 2 => simp only [shflLane, shflJ]; split <;> split <;> simp <;> omega
  | k + 3 =>
    have hlt : l ^^^ (n.toNat % 32) < 2 ^ 5 := Nat.xor_lt_two_pow hl (Nat.mod_lt _ (by decide))
    have hj : shflJ (k + 3) l n.toNat = ((l ^^^ (n.toNat % 32) : Nat) : Int) := rfl
    rw [hj, if_pos (by omega)]; rfl

/-- What SHFL writes for lane L: the source lane's value where that lane is in Active, else its own. -/
theorem shflSrc_elim {α : Type} (t : Team) (f : VA) (h : Hdr) (L : Nat) (own : α) (val : Nat → α) :
    let j := shflJ (f.sub.toNat % 4) (L % 32) (srcB f t L).toNat
    let M := 32 * (L / 32) + j.toNat
    if 0 ≤ j ∧ j < 32 ∧ t.InActive h M then (shflSrc t f (t.lanesFor h) L).elim own val = val M
    else (shflSrc t f (t.lanesFor h) L).elim own val = own := by
  intro j M
  have hsrc : shflSrc t f (t.lanesFor h) L = (if 0 ≤ j ∧ j < 32 then some j.toNat else none).bind fun j =>
      if (t.lanesFor h).getLsbD (32 * (L / 32) + j) then some (32 * (L / 32) + j) else none := by
    rw [shflSrc, shflLane_eq (Nat.mod_lt _ (by decide))]; rfl
  rw [hsrc]
  by_cases hj : 0 ≤ j ∧ j < 32
  · rw [if_pos hj, Option.bind_some]
    by_cases hact : t.InActive h M
    · rw [if_pos ⟨hj.1, hj.2, hact⟩, if_pos hact]; rfl
    · rw [if_neg fun hall => hact hall.2.2, if_neg hact]; rfl
  · rw [if_neg hj, if_neg fun hall => hj ⟨hall.1, hall.2.1⟩]; rfl

/-! ## The tree of a reduction (R90) -/

section Tree

variable {op : Lane32 → Lane32 → Lane32}

theorem treeLevel_cons (a b : Option Lane32) (xs : List (Option Lane32)) : treeLevel op (a :: b :: xs) = node op a b :: treeLevel op xs := by
  cases a <;> cases b <;> rfl

theorem treeLevel_map_range (g : Nat → Option Lane32) (n : Nat) :
    treeLevel op ((List.range (2 * n)).map g) = (List.range n).map fun j => node op (g (2 * j)) (g (2 * j + 1)) := by
  induction n generalizing g with
  | zero => rfl
  | succ n ih =>
    have hshift : (List.range (2 * (n + 1))).map g = g 0 :: g 1 :: (List.range (2 * n)).map fun j => g (j + 2) := by
      rw [Nat.mul_succ, List.range_succ_eq_map, List.range_succ_eq_map]
      simp [Function.comp_def]
    rw [hshift, List.range_succ_eq_map, treeLevel_cons, ih, List.map_cons, List.map_map]
    rfl

theorem foldl_treeLevel (leaf : Nat → Option Lane32) (k m : Nat) :
    (List.range k).foldl (fun l _ => treeLevel op l) ((List.range (2 ^ k * m)).map leaf) = (List.range m).map (treeNode op leaf k) := by
  induction k generalizing m with
  | zero => rw [pow_zero, Nat.one_mul]; rfl
  | succ k ih =>
    rw [List.range_succ, List.foldl_append, pow_succ, Nat.mul_assoc, ih (2 * m), List.foldl_cons, List.foldl_nil, treeLevel_map_range]
    rfl

theorem tree_eq_treeNode (leaf : Nat → Option Lane32) (k : Nat) : tree op k ((List.range (2 ^ k)).map leaf) = treeNode op leaf k 0 := by
  have h := foldl_treeLevel (op := op) leaf k 1
  rw [Nat.mul_one] at h
  rw [tree, h]; rfl

/-- A node has a value where a leaf below it has one. -/
theorem treeNode_isSome {leaf : Nat → Option Lane32} {k j : Nat} {l : Nat} (hl : l / 2 ^ k = j) (h : (leaf l).isSome) :
    (treeNode op leaf k j).isSome := by
  induction k generalizing j with
  | zero => rw [pow_zero, Nat.div_one] at hl; exact hl ▸ h
  | succ k ih =>
    have hhalf : l / 2 ^ k = 2 * j ∨ l / 2 ^ k = 2 * j + 1 := by
      rw [pow_succ, ← Nat.div_div_eq_div_mul] at hl; omega
    rw [treeNode]
    rcases hhalf with hk | hk
    · obtain ⟨x, hx⟩ := Option.isSome_iff_exists.mp (ih hk)
      rw [hx]; cases treeNode op leaf k (2 * j + 1) <;> rfl
    · obtain ⟨x, hx⟩ := Option.isSome_iff_exists.mp (ih hk)
      rw [hx]; cases treeNode op leaf k (2 * j) <;> rfl

/-- Values joined from left to right, an absent one passed over (R112). -/
theorem foldl_node (xs : List (Option Lane32)) (a : Lane32) : xs.foldl (node op) (some a) = some ((xs.filterMap id).foldl op a) := by
  induction xs generalizing a with
  | nil => rfl
  | cons x xs ih => cases x <;> exact ih _

theorem foldl_node_none (xs : List (Option Lane32)) :
    xs.foldl (node op) none = match xs.filterMap id with | [] => none | y :: ys => some (ys.foldl op y) := by
  induction xs with
  | nil => rfl
  | cons x xs ih =>
    cases x with
    | none => exact ih
    | some a => exact foldl_node xs a

end Tree

/-! ## Reductions and scans of a group (R90, R112) -/

theorem groupResult_eq (t : Team) (f : VA) (h : Hdr) (g : Nat) :
    groupResult t f (t.lanesFor h) g = treeNode (redOp t f) (fun l => leafOf f t h (32 * g + l)) 5 0 :=
  tree_eq_treeNode _ 5

theorem teamResult_eq (t : Team) (f : VA) (h : Hdr) : tree (redOp t f) 5 ((List.range 32).map (groupResult t f (t.lanesFor h))) =
    treeNode (redOp t f) (fun g => treeNode (redOp t f) (fun l => leafOf f t h (32 * g + l)) 5 0) 5 0 := by
  rw [funext (groupResult_eq t f h)]
  exact tree_eq_treeNode _ 5

/-- The tree of a group in which lane L is Active has a value. -/
theorem group_isSome {t : Team} {h : Hdr} {L : Nat} (f : VA) (op : Lane32 → Lane32 → Lane32) (hL : L ∈ t.act h) :
    (treeNode op (fun l => leafOf f t h (32 * (L / 32) + l)) 5 0).isSome := by
  refine treeNode_isSome (l := L % 32) (Nat.div_eq_of_lt (Nat.mod_lt _ (by decide))) ?_
  rw [Nat.div_add_mod, leafOf, if_pos (Team.mem_act.mp hL).2]; rfl

/-- The tree of the groups' trees has a value where a lane is Active. -/
theorem team_isSome {t : Team} {h : Hdr} {L : Nat} (f : VA) (op : Lane32 → Lane32 → Lane32) (hL : L ∈ t.act h) :
    (treeNode op (fun g => treeNode op (fun l => leafOf f t h (32 * g + l)) 5 0) 5 0).isSome := by
  have hlt := (Team.act_lt hL).2
  exact treeNode_isSome (l := L / 32) (Nat.div_eq_of_lt (by omega)) (group_isSome f op hL)

/-- The lanes of a group below n, in order. -/
theorem filter_range_lt {n m : Nat} (h : n ≤ m) : (List.range m).filter (· < n) = List.range n := by
  rw [← List.Ico.zero_bot m, List.Ico.filter_lt, min_eq_right h, List.Ico.zero_bot]

/-- The lanes that a scan joins for lane l of a group (R112). -/
def scanLanes (f : VA) (l : Nat) : List Nat := List.range (if f.sub.getLsbD 4 then l else l + 1)

theorem filter_scan (f : VA) {l : Nat} (hl : l < 32) :
    (List.range 32).filter (fun k => if f.sub.getLsbD 4 then decide (k < l) else decide (k ≤ l)) = scanLanes f l := by
  unfold scanLanes
  cases f.sub.getLsbD 4 with
  | true => exact filter_range_lt hl.le
  | false =>
    simp only [Bool.false_eq_true, if_false, ← Nat.lt_succ_iff]
    exact filter_range_lt hl

theorem take_groupLeaves (t : Team) (f : VA) (h : Hdr) (g : Nat) {l : Nat} (hl : l < 32) :
    (groupLeaves t f (t.lanesFor h) g).take (if f.sub.getLsbD 4 then l else l + 1) = (scanLanes f l).map fun k => leafOf f t h (32 * g + k) := by
  have hle : (if f.sub.getLsbD 4 then l else l + 1) ≤ 32 := by split <;> omega
  rw [groupLeaves, ← List.map_take, List.take_range, min_eq_left hle]
  rfl

theorem scanResult_eq (t : Team) (f : VA) (h : Hdr) (g : Nat) {l : Nat} (hl : l < 32) : scanResult t f (t.lanesFor h) g l =
    (((scanLanes f l).map fun k => leafOf f t h (32 * g + k)).foldl (node (redOp t f)) none).getD (redIdentity f) := by
  rw [← take_groupLeaves t f h g hl]
  unfold scanResult
  dsimp only
  congr 2
  funext a x
  cases a <;> cases x <;> rfl

theorem identityRule_redIdentity (f : VA) : IdentityRule f (redIdentity f) := by
  unfold IdentityRule redIdentity VA.sub3
  dsimp only
  split <;> rfl

/-- SCANG joins the lanes' values from left to right, or gives the identity where there is none (R112). -/
theorem scanResult_rule (t : Team) (f : VA) (h : Hdr) (g : Nat) {l : Nat} (hl : l < 32) :
    match (scanLanes f l).filterMap fun k => leafOf f t h (32 * g + k) with
    | [] => IdentityRule f (scanResult t f (t.lanesFor h) g l)
    | y :: ys => scanResult t f (t.lanesFor h) g l = ys.foldl (redOp t f) y := by
  rw [scanResult_eq t f h g hl, foldl_node_none, List.filterMap_map]
  change match (scanLanes f l).filterMap (id ∘ fun k => leafOf f t h (32 * g + k)) with | [] => _ | y :: ys => _
  cases (scanLanes f l).filterMap (id ∘ fun k => leafOf f t h (32 * g + k)) with
  | nil => exact identityRule_redIdentity f
  | cons y ys => rfl

/-! ## Permitted fields (R93, R109 to R111) -/

theorem fieldOk_shfl {h : Hdr} {f : VA} (hok : (Instr.shfl h f).fieldOk = true) : f.sub.toNat < 8 := by
  have hva : f.ok (f.t == 0) true true false false 7 3 = true := hok
  obtain ⟨-, -, hsub, -⟩ := VA.ok_fields hva
  revert hsub
  generalize f.sub = sub
  revert sub
  decide

theorem pairOk_shfl {h : Hdr} {f : VA} (hpair : f.sub.getLsbD 2 = true) (hok : (Instr.shfl h f).pairOk = true) :
    f.a.toNat % 2 = 0 ∧ f.d.toNat % 2 = 0 ∧ (f.fl.getLsbD 1 = false → f.c.toNat % 2 = 0) := by
  have hand : (!f.sub.getLsbD 2 || (Instr.pairOk.even f.a && (f.fl.getLsbD 1 || Instr.pairOk.even f.c) && Instr.pairOk.even f.d)) = true := hok
  rw [hpair, Bool.not_true, Bool.false_or, Bool.and_eq_true, Bool.and_eq_true] at hand
  obtain ⟨⟨ha, hc⟩, hd⟩ := hand
  exact ⟨even_toNat ha, even_toNat hd, fun hfl => even_toNat (by rwa [hfl, Bool.false_or] at hc)⟩

theorem fieldOk_voteAll {h : Hdr} {f : VA} (hok : (Instr.voteAll h f).fieldOk = true) : f.sub = 0 := by
  have hand : (f.ok (f.t == 0) false false false false 0 0 && f.d < 16 && f.a < 16) = true := hok
  simp only [Bool.and_eq_true] at hand
  obtain ⟨⟨hva, -⟩, -⟩ := hand
  obtain ⟨-, -, hsub, -⟩ := VA.ok_fields hva
  revert hsub
  generalize f.sub = sub
  revert sub
  decide

theorem fieldOk_voteAny {h : Hdr} {f : VA} (hok : (Instr.voteAny h f).fieldOk = true) : f.sub = 1 := by
  have hand : (f.ok (f.t == 0) false false false false 1 0 && f.sub == 1 && f.d < 16 && f.a < 16) = true := hok
  simp only [Bool.and_eq_true, beq_iff_eq] at hand
  obtain ⟨⟨⟨-, hsub⟩, -⟩, -⟩ := hand
  exact hsub

theorem fieldOk_voteBallot {h : Hdr} {f : VA} (hok : (Instr.voteBallot h f).fieldOk = true) : f.sub = 2 := by
  have hand : (f.ok (f.t == 0) false false false false 2 0 && f.sub == 2 && f.a < 16) = true := hok
  simp only [Bool.and_eq_true, beq_iff_eq] at hand
  obtain ⟨⟨-, hsub⟩, -⟩ := hand
  exact hsub

theorem fieldOk_voteUni {h : Hdr} {f : VA} (hok : (Instr.voteUni h f).fieldOk = true) : f.sub = 3 := by
  have hand : (f.ok (f.t == 0) false false false false 3 0 && f.sub == 3 && f.d < 16) = true := hok
  simp only [Bool.and_eq_true, beq_iff_eq] at hand
  obtain ⟨⟨-, hsub⟩, -⟩ := hand
  exact hsub

theorem fieldOk_kmov {h : Hdr} {f : VA} (hok : (Instr.kmov h f).fieldOk = true) : f.sub.toNat < 4 ∧ (f.sub = 3 → f.fl = 1) := by
  have hmatch : (match f.sub.toNat with
      | 0 => f.ok (f.t == 0) false false false false 63 0 && f.a < 16
      | 1 => f.ok (f.t == 0) false false false false 63 0 && f.d < 16
      | 2 => f.ok (f.t == 0) false false false false 63 0 && f.d < 16 && f.a < 16
      | 3 => f.ok (f.t == 0) true false false false 63 1 && f.d < 16 && f.a == 0 && f.fl == 1
      | _ => false) = true := hok
  refine ⟨?_, fun hsub => ?_⟩
  · by_contra hge
    obtain ⟨k, hk⟩ := Nat.exists_eq_add_of_le' (Nat.not_lt.mp hge)
    rw [hk] at hmatch
    exact Bool.false_ne_true hmatch
  · rw [hsub] at hmatch
    exact eq_of_beq (Bool.and_elim_right hmatch)

/-! ## The words -/

theorem vecLongOp_shfl {h : Hdr} {f : VA} (hsub : f.sub.getLsbD 2 = false) : VecLongOp (.shfl h f) h f.d fun t L x =>
    let j := shflJ (f.sub.toNat % 4) (L % 32) (srcB f t L).toNat
    let M := 32 * (L / 32) + j.toNat
    if 0 ≤ j ∧ j < 32 ∧ t.InActive h M then x = srcA f t M else x = srcC f t L :=
  vecLongOp_of_exec (fun _ => rfl) fun t L _ => ⟨_, if_neg (Bool.eq_false_iff.mp hsub), shflSrc_elim t f h L _ _⟩

theorem pairLongOp_shfl {h : Hdr} {f : VA} (hsub : f.sub.getLsbD 2 = true) : PairLongOp (.shfl h f) h f.d fun t L x =>
    let j := shflJ (f.sub.toNat % 4) (L % 32) (srcB f t L).toNat
    let M := 32 * (L / 32) + j.toNat
    if 0 ≤ j ∧ j < 32 ∧ t.InActive h M then x = srcAd f t M else x = srcCd f t L :=
  pairLongOp_of_exec (fun _ => rfl) fun t L _ => ⟨_, if_pos hsub, shflSrc_elim t f h L _ _⟩

theorem vecLongOp_matchK (h : Hdr) (f : VA) : VecLongOp (.matchK h f) h f.d fun t L x => ∀ l < 32,
    let M := 32 * (L / 32) + l
    (x.getLsbD l = true ↔ t.InActive h M ∧ srcA f t M = srcA f t L ∧ (f.sub.getLsbD 0 = true → srcAd f t M = srcAd f t L)) :=
  vecLongOp_of_exec (fun _ => rfl) fun t L _ => ⟨_, rfl, fun l hl => by
    dsimp only
    rw [getLsbD_ofNat_foldl _ 32 hl]
    simp only [hl, decide_true, Bool.true_and, Bool.and_eq_true, Bool.or_eq_true, Bool.not_eq_true', ← Bool.not_eq_true, beq_iff_eq, and_assoc,
      ← imp_iff_not_or]
    exact Iff.rfl⟩

theorem vote_words (h : Hdr) (f : VA) :
    (PredLongOp (.voteAll h f) h (f.d.toNat % 16) fun t _ => ∀ M ∈ t.act h, srcKA f t M = true) ∧
    (PredLongOp (.voteAny h f) h (f.d.toNat % 16) fun t _ => ∃ M ∈ t.act h, srcKA f t M = true) ∧
    (PredLongOp (.voteUni h f) h (f.d.toNat % 16) fun t _ => ∀ M ∈ t.act h, ∀ N ∈ t.act h, srcA f t M = srcA f t N) ∧
    (VecLongOp (.voteBallot h f) h f.d fun t L x => ∀ l < 32,
      (x.getLsbD l = true ↔ t.InActive h (32 * (L / 32) + l) ∧ srcKA f t (32 * (L / 32) + l) = true)) := by
  refine ⟨?_, ?_, ?_, ?_⟩
  · exact predLongOp_of_exec (fun _ => rfl) fun t L _ => ⟨_, rfl, List.all_eq_true⟩
  · exact predLongOp_of_exec (fun _ => rfl) fun t L _ => ⟨_, rfl, List.any_eq_true⟩
  · refine predLongOp_of_exec (fun _ => rfl) fun t L hL => ⟨_, rfl, List.all_eq_true.trans ⟨fun hall M hM N hN => ?_, fun hall M hM => ?_⟩⟩
    · exact (eq_of_beq (hall M hM)).trans (eq_of_beq (hall N hN)).symm
    · exact beq_iff_eq.mpr (hall M hM L hL)
  · refine vecLongOp_of_exec (fun _ => rfl) fun t L _ => ⟨_, rfl, fun l hl => ?_⟩
    rw [getLsbD_ofNat_foldl _ 32 hl, decide_eq_true hl, Bool.true_and, Bool.and_eq_true]
    exact Iff.rfl

theorem predicate_words (h : Hdr) (f : VA) :
    (PredOp (.klogic h f) h (f.d.toNat % 16) fun t L => f.sub.getLsbD (2 * (srcKA f t L).toNat + (srcKB f t L).toNat) = true) ∧
    (f.sub = 0 → VecOp (.kmov h f) h f.d fun t L x => x = if srcKA f t L then 1 else 0) ∧
    (f.sub = 1 → PredOp (.kmov h f) h (f.d.toNat % 16) fun t L => srcA f t L ≠ 0) ∧
    (f.sub = 2 → PredOp (.kmov h f) h (f.d.toNat % 16) fun t L => srcKA f t L = true) ∧
    (f.sub = 3 → PredOp (.kmov h f) h (f.d.toNat % 16) fun t L => (t.rs (f.b.toNat % 64)).getLsbD (L % 64) = true) := by
  refine ⟨?_, fun hsub => ?_, fun hsub => ?_, fun hsub => ?_, fun hsub => ?_⟩
  · exact predOp_of_exec (fun _ => rfl) fun t L _ => ⟨_, rfl, Iff.rfl⟩
  · exact vecOp_of_exec (fun _ => rfl) fun t L _ => ⟨_, by rw [hsub]; rfl, rfl⟩
  · exact predOp_of_exec (fun _ => rfl) fun t L _ => ⟨_, by rw [hsub]; rfl, bne_iff_ne⟩
  · exact predOp_of_exec (fun _ => rfl) fun t L _ => ⟨_, by rw [hsub]; rfl, Iff.rfl⟩
  · exact predOp_of_exec (fun _ => rfl) fun t L _ => ⟨_, by rw [hsub]; rfl, Iff.rfl⟩

theorem reduction_words (h : Hdr) (f : VA) :
    let rule (t : Team) (P : (Lane32 → Lane32 → Lane32) → Prop) : Prop := ∃ op, (∀ a b, ReduceRule t f a b (op a b)) ∧ P op
    (VecLongOp (.redg h f) h f.d fun t L x => rule t fun op => treeNode op (fun l => leafOf f t h (32 * (L / 32) + l)) 5 0 = some x) ∧
    (VecLongOp (.redt h f) h f.d fun t _ x => rule t fun op =>
      treeNode op (fun g => treeNode op (fun l => leafOf f t h (32 * g + l)) 5 0) 5 0 = some x) ∧
    (VecLongOp (.scang h f) h f.d fun t L x => rule t fun op =>
      match ((List.range 32).filter fun l => (if f.sub.getLsbD 4 then decide (l < L % 32) else decide (l ≤ L % 32))).filterMap
          fun l => leafOf f t h (32 * (L / 32) + l) with
      | [] => IdentityRule f x
      | y :: ys => x = ys.foldl op y) := by
  refine ⟨?_, ?_, ?_⟩
  · refine vecLongOp_of_exec (fun _ => rfl) fun t L hL => ⟨_, rfl, redOp t f, reduceRule_redOp t f, ?_⟩
    rw [groupResult_eq]
    exact (Option.getD_of_ne_none (Option.isSome_iff_ne_none.mp (group_isSome f _ hL)) 0).symm
  · refine vecLongOp_of_exec (fun _ => rfl) fun t L hL => ⟨_, rfl, redOp t f, reduceRule_redOp t f, ?_⟩
    rw [teamResult_eq]
    exact (Option.getD_of_ne_none (Option.isSome_iff_ne_none.mp (team_isSome f _ hL)) 0).symm
  · refine vecLongOp_of_exec (fun _ => rfl) fun t L hL => ⟨_, rfl, redOp t f, reduceRule_redOp t f, ?_⟩
    have hl : L % 32 < 32 := Nat.mod_lt _ (by decide)
    rw [filter_scan f hl]
    exact scanResult_rule t f h (L / 32) hl

/-- Settles O9: each lane word by the lanes it reads, the reductions by the fixed tree, and the field values that the checks permit. A lone
leaf passes through the tree unflushed under FTZ, as log 104 chooses. -/
theorem lanesVotesReductions : Obligations.LanesVotesReductions := by
  refine ⟨fun h f => ⟨vecLongOp_shfl, pairLongOp_shfl, vecLongOp_matchK h f, ?_⟩, ⟨vote_words, predicate_words⟩, reduction_words, fun h f => ?_⟩
  · exact vecLongOp_of_exec (fun _ => rfl) fun _ _ _ => ⟨_, rfl, rfl⟩
  · exact ⟨fieldOk_shfl, pairOk_shfl, fieldOk_voteAll, fieldOk_voteAny, fieldOk_voteBallot, fieldOk_voteUni, fieldOk_kmov⟩

end Sys2Proof.Machine

/-! PROOFS. The formats of words: a word that is put together from fields gives them back, and the fields of a word make it up again
(Tables 02-1, 02-3, 02-5, 02-9). -/

namespace Sys2Proof

open BitVec (extractLsb'_append_eq_of_le extractLsb'_append_eq_of_add_le extractLsb'_eq_self extractLsb'_append_extractLsb'_eq_extractLsb')

/-! ## Bits of words put together from fields -/

theorem ofBool_getLsbD {w : Nat} (x : BitVec w) (i : Nat) : BitVec.ofBool (x.getLsbD i) = x.extractLsb' i 1 := by
  ext j hj
  obtain rfl : j = 0 := by omega
  simp

theorem getLsbD_append_of_le {v w i : Nat} {x : BitVec v} {y : BitVec w} (h : w ≤ i) : (x ++ y).getLsbD i = x.getLsbD (i - w) := by
  rw [BitVec.getLsbD_append, if_neg (by omega)]

theorem getLsbD_append_of_lt {v w i : Nat} {x : BitVec v} {y : BitVec w} (h : i < w) : (x ++ y).getLsbD i = y.getLsbD i := by
  rw [BitVec.getLsbD_append, if_pos h]

theorem getLsbD_ofBool_zero (b : Bool) : (BitVec.ofBool b).getLsbD 0 = b := by cases b <;> rfl

/-! ## Formats: the fields of a word, and the word of its fields -/

theorem VA.ofBits_bits (f : VA) : VA.ofBits f.bits = f := by
  simp (disch := decide) only [VA.ofBits, VA.bits, extractLsb'_append_eq_of_le, extractLsb'_append_eq_of_add_le, extractLsb'_eq_self, Nat.sub_self,
    getLsbD_append_of_le, getLsbD_append_of_lt, getLsbD_ofBool_zero, -Nat.reduceAdd]

theorem VA.bits_ofBits (r : BitVec 49) : (VA.ofBits r).bits = r := by
  simp (disch := rfl) only [VA.ofBits, VA.bits, extractLsb'_append_extractLsb'_eq_extractLsb', extractLsb'_eq_self, ofBool_getLsbD, -Nat.reduceAdd]

theorem VI.ofBits_bits (f : VI) : VI.ofBits f.bits = f := by
  simp (disch := decide) only [VI.ofBits, VI.bits, extractLsb'_append_eq_of_le, extractLsb'_append_eq_of_add_le, extractLsb'_eq_self, Nat.sub_self,
    getLsbD_append_of_lt, getLsbD_ofBool_zero, -Nat.reduceAdd]

theorem VI.bits_ofBits (r : BitVec 49) : (VI.ofBits r).bits = r := by
  simp (disch := rfl) only [VI.ofBits, VI.bits, extractLsb'_append_extractLsb'_eq_extractLsb', extractLsb'_eq_self, ofBool_getLsbD, -Nat.reduceAdd]

theorem UF.ofBits_bits (f : UF) : UF.ofBits f.bits = f := by
  simp (disch := decide) only [UF.ofBits, UF.bits, extractLsb'_append_eq_of_le, extractLsb'_append_eq_of_add_le, extractLsb'_eq_self, Nat.sub_self,
    getLsbD_append_of_lt, getLsbD_ofBool_zero, -Nat.reduceAdd]

theorem UF.bits_ofBits (r : BitVec 49) : (UF.ofBits r).bits = r := by
  simp (disch := rfl) only [UF.ofBits, UF.bits, extractLsb'_append_extractLsb'_eq_extractLsb', extractLsb'_eq_self, ofBool_getLsbD, -Nat.reduceAdd]

theorem MF.ofBits_bits (f : MF) : MF.ofBits f.bits = f := by
  simp (disch := decide) only [MF.ofBits, MF.bits, extractLsb'_append_eq_of_le, extractLsb'_append_eq_of_add_le, extractLsb'_eq_self, Nat.sub_self,
    getLsbD_append_of_le, getLsbD_append_of_lt, getLsbD_ofBool_zero, -Nat.reduceAdd]

theorem MF.bits_ofBits (r : BitVec 49) : (MF.ofBits r).bits = r := by
  simp (disch := rfl) only [MF.ofBits, MF.bits, extractLsb'_append_extractLsb'_eq_extractLsb', extractLsb'_eq_self, ofBool_getLsbD, -Nat.reduceAdd]

theorem BF.ofBits_bits (f : BF) : BF.ofBits f.bits = f := by
  simp (disch := decide) only [BF.ofBits, BF.bits, extractLsb'_append_eq_of_le, extractLsb'_append_eq_of_add_le, extractLsb'_eq_self, Nat.sub_self,
    getLsbD_append_of_le, getLsbD_append_of_lt, getLsbD_ofBool_zero, -Nat.reduceAdd]

theorem BF.bits_ofBits (r : BitVec 49) : (BF.ofBits r).bits = r := by
  simp (disch := rfl) only [BF.ofBits, BF.bits, extractLsb'_append_extractLsb'_eq_extractLsb', extractLsb'_eq_self, ofBool_getLsbD, -Nat.reduceAdd]

theorem SF.ofBits_bits (f : SF) : SF.ofBits f.bits = f := by
  simp (disch := decide) only [SF.ofBits, SF.bits, extractLsb'_append_eq_of_le, extractLsb'_append_eq_of_add_le, extractLsb'_eq_self, Nat.sub_self,
    -Nat.reduceAdd]

theorem SF.bits_ofBits (r : BitVec 49) : (SF.ofBits r).bits = r := by
  simp (disch := rfl) only [SF.ofBits, SF.bits, extractLsb'_append_extractLsb'_eq_extractLsb', extractLsb'_eq_self, -Nat.reduceAdd]

theorem FF.ofBits_bits (f : FF) : FF.ofBits f.bits = f := by
  simp (disch := decide) only [FF.ofBits, FF.bits, extractLsb'_append_eq_of_le, extractLsb'_append_eq_of_add_le, extractLsb'_eq_self, Nat.sub_self,
    -Nat.reduceAdd]

theorem FF.bits_ofBits (r : BitVec 49) : (FF.ofBits r).bits = r := by
  simp (disch := rfl) only [FF.ofBits, FF.bits, extractLsb'_append_extractLsb'_eq_extractLsb', extractLsb'_eq_self, -Nat.reduceAdd]

theorem HF.ofBits_bits (f : HF) : HF.ofBits f.bits = f := by
  simp (disch := decide) only [HF.ofBits, HF.bits, extractLsb'_append_eq_of_le, extractLsb'_append_eq_of_add_le, extractLsb'_eq_self, Nat.sub_self,
    getLsbD_append_of_le, getLsbD_append_of_lt, getLsbD_ofBool_zero, -Nat.reduceAdd]

theorem HF.bits_ofBits (r : BitVec 64) : (HF.ofBits r).bits = r := by
  simp (disch := rfl) only [HF.ofBits, HF.bits, extractLsb'_append_extractLsb'_eq_extractLsb', extractLsb'_eq_self, ofBool_getLsbD, -Nat.reduceAdd]

theorem PF.ofBits_bits (f : PF) (pop : BitVec 6) : PF.ofBits (f.bits pop) = f := by
  simp (disch := decide) only [PF.ofBits, PF.bits, extractLsb'_append_eq_of_le, extractLsb'_append_eq_of_add_le, extractLsb'_eq_self, Nat.sub_self,
    -Nat.reduceAdd]

theorem PF.bits_ofBits (w : Word) : (PF.ofBits w).bits (w.extractLsb' 58 6) = w := by
  simp (disch := rfl) only [PF.ofBits, PF.bits, extractLsb'_append_extractLsb'_eq_extractLsb', extractLsb'_eq_self, -Nat.reduceAdd]

/-! ## The skeleton of a team's word -/

theorem wordOp_teamWord (op : BitVec 9) (h : Hdr) (r : BitVec 49) : wordOp (teamWord op h r) = op := by
  simp (disch := decide) only [wordOp, teamWord, extractLsb'_append_eq_of_le, extractLsb'_append_eq_of_add_le, extractLsb'_eq_self, Nat.sub_self,
    -Nat.reduceAdd]

theorem bits_teamWord (op : BitVec 9) (h : Hdr) (r : BitVec 49) : (teamWord op h r).extractLsb' 0 49 = r := by
  simp (disch := decide) only [teamWord, extractLsb'_append_eq_of_add_le, extractLsb'_eq_self, -Nat.reduceAdd]

theorem ofWord_teamWord (op : BitVec 9) (h : Hdr) (r : BitVec 49) : Hdr.ofWord (teamWord op h r) = h := by
  simp (disch := decide) only [Hdr.ofWord, teamWord, extractLsb'_append_eq_of_le, extractLsb'_append_eq_of_add_le, extractLsb'_eq_self,
    Nat.sub_self, getLsbD_append_of_le, getLsbD_append_of_lt, getLsbD_ofBool_zero, -Nat.reduceAdd]

theorem teamWord_of_word (w : Word) : teamWord (wordOp w) (Hdr.ofWord w) (w.extractLsb' 0 49) = w := by
  simp (disch := rfl) only [wordOp, Hdr.ofWord, teamWord, extractLsb'_append_extractLsb'_eq_extractLsb', extractLsb'_eq_self, ofBool_getLsbD,
    -Nat.reduceAdd]

end Sys2Proof

/-! PROOFS. Every word of a team decodes to the instruction that it encodes, and the other way round (Table 02-7, R45, R58). -/

namespace Sys2Proof

/-! ## From a word to its instruction and back -/

/-- What decoding gives for the cell of an opcode: a team's word, whose encoding is the word again, and OPCODE_ILLEGAL where the cell is not
populated. -/
def DecodedCell (op : BitVec 9) (h : Hdr) (r : BitVec 49) (i : Instr) : Prop :=
  wordKind i = some .team ∧ encodeWord i = some (teamWord op h r) ∧ (cellUsed op = false → i = .opcodeIllegal h op r)

theorem decodedCell_of_op {op : BitVec 9} {h : Hdr} {r b : BitVec 49} {i : Instr} {n : Nat} (hop : op.toNat = n) (hkind : wordKind i = some .team)
    (henc : encodeWord i = some (teamWord (BitVec.ofNat 9 n) h b)) (hused : cellUsed (BitVec.ofNat 9 n) = true) (hb : b = r) : DecodedCell op h r i := by
  subst hop hb
  rw [BitVec.ofNat_toNat, BitVec.setWidth_eq] at henc hused
  exact ⟨hkind, henc, fun hfree => absurd hused (by rw [hfree]; decide)⟩

/-- The atomics fill half a row each, and their opcode's low bits name the operation. -/
theorem decodedCell_of_row {op : BitVec 9} {h : Hdr} {r b : BitVec 49} {i : Instr} {n : BitVec 6} (hop : op.toNat / 8 = n.toNat)
    (hkind : wordKind i = some .team) (henc : encodeWord i = some (teamWord (n ++ op.extractLsb' 0 3) h b))
    (hused : ∀ c : BitVec 3, cellUsed (n ++ c) = true) (hb : b = r) : DecodedCell op h r i := by
  obtain rfl : n = op.extractLsb' 3 6 := by
    apply BitVec.eq_of_toNat_eq
    rw [BitVec.extractLsb'_toNat, Nat.shiftRight_eq_div_pow]
    omega
  have hcell := hused (op.extractLsb' 0 3)
  rw [BitVec.extractLsb'_append_extractLsb'] at henc hcell
  subst hb
  exact ⟨hkind, henc, fun hfree => absurd hcell (by rw [hfree]; decide)⟩

theorem decodedCell_decodeWord (op : BitVec 9) (h : Hdr) (r : BitVec 49) : DecodedCell op h r (decodeWord (teamWord op h r)) := by
  rw [decodeWord, wordOp_teamWord, ofWord_teamWord, bits_teamWord]
  split
  case h_161 =>
    split
    case h_5 => exact ⟨rfl, rfl, fun _ => rfl⟩
    all_goals exact decodedCell_of_row (by assumption) rfl rfl (by decide) (MF.bits_ofBits _)
  all_goals
    repeat' split
    all_goals
      refine decodedCell_of_op (by assumption) rfl rfl (by decide) ?_
      simp only [VA.bits_ofBits, VI.bits_ofBits, UF.bits_ofBits, MF.bits_ofBits, BF.bits_ofBits, SF.bits_ofBits, FF.bits_ofBits]

/-! ## From an instruction to its word and back -/

theorem eq_of_fields {α : Type} {C : α → Instr} {f g : α} {i : Instr} (hfields : g = f) (hi : i = C g) : i = C f := hfields ▸ hi

/-! ### Cells that several rows of the table share -/

section

-- the decoder's match has 160 alternatives
set_option maxRecDepth 8000

theorem decodeWord_pack4 (h : Hdr) (f : VA) : decodeWord (teamWord 0x071 h f.bits) =
    if f.sub == 1 then .pack4Unlo h f else if f.sub == 2 then .pack4Unhi h f else .pack4Pack h f := by
  unfold decodeWord
  rw [wordOp_teamWord, ofWord_teamWord, bits_teamWord]
  exact eq_of_fields (C := fun f => if f.sub == 1 then .pack4Unlo h f else if f.sub == 2 then .pack4Unhi h f else .pack4Pack h f) f.ofBits_bits rfl

theorem decodeWord_blkscale (h : Hdr) (f : VA) : decodeWord (teamWord 0x074 h f.bits) =
    if f.sub == 1 then .blkscaleApply h f else .blkscaleScale h f := by
  unfold decodeWord
  rw [wordOp_teamWord, ofWord_teamWord, bits_teamWord]
  exact eq_of_fields (C := fun f => if f.sub == 1 then .blkscaleApply h f else .blkscaleScale h f) f.ofBits_bits rfl

theorem decodeWord_vote (h : Hdr) (f : VA) : decodeWord (teamWord 0x081 h f.bits) =
    if f.sub == 1 then .voteAny h f else if f.sub == 2 then .voteBallot h f else if f.sub == 3 then .voteUni h f else .voteAll h f := by
  unfold decodeWord
  rw [wordOp_teamWord, ofWord_teamWord, bits_teamWord]
  exact eq_of_fields (C := fun f => if f.sub == 1 then .voteAny h f else if f.sub == 2 then .voteBallot h f else if f.sub == 3 then .voteUni h f else .voteAll h f) f.ofBits_bits rfl

theorem decodeWord_smov (h : Hdr) (f : UF) : decodeWord (teamWord 0x0A9 h f.bits) =
    if f.sub == 1 then .smovCat h f else .smov h f := by
  unfold decodeWord
  rw [wordOp_teamWord, ofWord_teamWord, bits_teamWord]
  exact eq_of_fields (C := fun f => if f.sub == 1 then .smovCat h f else .smov h f) f.ofBits_bits rfl

theorem decodeWord_ld (h : Hdr) (f : MF) : decodeWord (teamWord 0x0C0 h f.bits) =
    if f.probe then .ldProbe h f else .ld h f := by
  unfold decodeWord
  rw [wordOp_teamWord, ofWord_teamWord, bits_teamWord]
  exact eq_of_fields (C := fun f => if f.probe then .ldProbe h f else .ld h f) f.ofBits_bits rfl

theorem decodeWord_cctl (h : Hdr) (f : MF) : decodeWord (teamWord 0x0D2 h f.bits) =
    if f.data == 1 then .cctlInv h f else if f.data == 2 then .cctlDiscard h f else .cctlWb h f := by
  unfold decodeWord
  rw [wordOp_teamWord, ofWord_teamWord, bits_teamWord]
  exact eq_of_fields (C := fun f => if f.data == 1 then .cctlInv h f else if f.data == 2 then .cctlDiscard h f else .cctlWb h f) f.ofBits_bits rfl

theorem decodeWord_bellRing (h : Hdr) (f : SF) : decodeWord (teamWord 0x140 h f.bits) =
    if f.sub.getLsbD 3 then .bellRingSet h f else .bellRing h f := by
  unfold decodeWord
  rw [wordOp_teamWord, ofWord_teamWord, bits_teamWord]
  exact eq_of_fields (C := fun f => if f.sub.getLsbD 3 then .bellRingSet h f else .bellRing h f) f.ofBits_bits rfl

theorem decodeWord_bellWait (h : Hdr) (f : SF) : decodeWord (teamWord 0x141 h f.bits) =
    if f.sub.getLsbD 3 then .bellWaitNb h f else .bellWait h f := by
  unfold decodeWord
  rw [wordOp_teamWord, ofWord_teamWord, bits_teamWord]
  exact eq_of_fields (C := fun f => if f.sub.getLsbD 3 then .bellWaitNb h f else .bellWait h f) f.ofBits_bits rfl

theorem decodeWord_ringFree (h : Hdr) (f : SF) : decodeWord (teamWord 0x144 h f.bits) =
    if f.sub.getLsbD 3 then .ringFreeCap h f else .ringFree h f := by
  unfold decodeWord
  rw [wordOp_teamWord, ofWord_teamWord, bits_teamWord]
  exact eq_of_fields (C := fun f => if f.sub.getLsbD 3 then .ringFreeCap h f else .ringFree h f) f.ofBits_bits rfl

theorem decodeWord_fresume (h : Hdr) (f : FF) : decodeWord (teamWord 0x174 h f.bits) =
    if f.imm == 1 then .fresumeSkip h f else .fresumeRetry h f := by
  unfold decodeWord
  rw [wordOp_teamWord, ofWord_teamWord, bits_teamWord]
  exact eq_of_fields (C := fun f => if f.imm == 1 then .fresumeSkip h f else .fresumeRetry h f) f.ofBits_bits rfl

theorem decodeWord_fkill (h : Hdr) (f : FF) : decodeWord (teamWord 0x175 h f.bits) =
    if f.imm == 1 then .fkillGrid h f else .fkill h f := by
  unfold decodeWord
  rw [wordOp_teamWord, ofWord_teamWord, bits_teamWord]
  exact eq_of_fields (C := fun f => if f.imm == 1 then .fkillGrid h f else .fkill h f) f.ofBits_bits rfl

theorem decodeWord_pgctl (h : Hdr) (f : SF) : decodeWord (teamWord 0x188 h f.bits) =
    if f.sub == 1 then .pgctlPin h f else .pgctlAttract h f := by
  unfold decodeWord
  rw [wordOp_teamWord, ofWord_teamWord, bits_teamWord]
  exact eq_of_fields (C := fun f => if f.sub == 1 then .pgctlPin h f else .pgctlAttract h f) f.ofBits_bits rfl

theorem decodeWord_accrd (h : Hdr) (f : SF) : decodeWord (teamWord 0x190 h f.bits) =
    if f.sub == 1 || f.sub == 3 then .accrdStat h f else .accrd h f := by
  unfold decodeWord
  rw [wordOp_teamWord, ofWord_teamWord, bits_teamWord]
  exact eq_of_fields (C := fun f => if f.sub == 1 || f.sub == 3 then .accrdStat h f else .accrd h f) f.ofBits_bits rfl

end

/-! ### What check 6 says of the field that tells them apart -/

theorem VA.sub_eq_zero {f : VA} {t b c rm sat : Bool} {fl : BitVec 4} (hok : f.ok t b c rm sat 0 fl = true) : f.sub = 0 := by
  obtain ⟨-, -, hsub, -⟩ := Machine.VA.ok_fields hok
  revert hsub
  generalize f.sub = sub
  revert sub
  decide

theorem SF.sub_eq_zero {f : SF} {v s1 s2 imm id : Bool} (hok : f.ok v s1 s2 imm false id = true) : f.sub = 0 := by
  have hsub : (false || f.sub == 0) = true := Bool.and_elim_right (Bool.and_elim_left hok)
  simpa using hsub

theorem MF.probe_eq {f : MF} {sizes ords : List Nat} {probe strm : Bool} {sx : Nat} (hok : f.ok sizes ords probe strm sx = true) :
    f.probe = probe :=
  eq_of_beq (Bool.and_elim_right (Bool.and_elim_left (Bool.and_elim_left hok)))

theorem getLsbD_of_div {sub : BitVec 6} (h : sub.toNat / 8 = 1) : sub.getLsbD 3 = true := by
  revert sub
  decide

theorem SF.getLsbD_of_scopeOk {f : SF} (h : f.scopeOk = true) : f.sub.getLsbD 3 = false := by
  have hsub : decide (f.sub < 6) = true := h
  revert hsub
  generalize f.sub = sub
  revert sub
  decide

set_option maxRecDepth 8000 in
/-- A team's word that passes check 6 is read back from its encoding. -/
theorem decodeWord_encodeWord {i : Instr} (hi : wordKind i = some .team) (hok : i.fieldOk = true) :
    ∃ w, encodeWord i = some w ∧ decodeWord w = i := by
  have parts (op : BitVec 9) (h : Hdr) (r : BitVec 49) : decodeWord (teamWord op h r) = decodeWord (teamWord op h r) := rfl
  conv at parts =>
    enter [op, h, r, 2]
    rw [decodeWord, wordOp_teamWord, ofWord_teamWord, bits_teamWord]
  cases i with
  | iadd h f | iaddc h f | isub h f | isubb h f | imul h f | imulhi h f | imad h f | imadw h f | imin h f | imax h f | iabs h f | logic h f
  | sel h f | icmp h f | lea h f | shl h f | shr h f | sar h f | rotl h f | fshl h f | bfx h f | bfi h f | popc h f | clz h f | ffs h f | brev h f
  | fadd h f | fmul h f | ffma h f | fmin h f | fmax h f | fcmp h f | fclass h f | fscale h f | fdot2 h f | hadd2 h f | hmul2 h f | hfma2 h f
  | frcp h f | frsq h f | fsqrt h f | fexp2 h f | flog2 h f | fsin h f | fcos h f | cvt h f | plane h f | unplane h f | shfl h f | matchK h f
  | klogic h f | kmov h f | readlane h f | redg h f | redt h f | scang h f | vbcast h f =>
    exact ⟨_, rfl, (parts ..).trans (eq_of_fields f.ofBits_bits rfl)⟩
  | iaddImm h f | imulImm h f | iminImm h f | imaxImm h f | shlImm h f | shrImm h f | sarImm h f | rotlImm h f | faddImm h f | fmulImm h f
  | fminImm h f | fmaxImm h f =>
    exact ⟨_, rfl, (parts ..).trans (eq_of_fields f.ofBits_bits rfl)⟩
  | sadd h f | ssub h f | smul h f | slogic h f | sshl h f | sshr h f | scmp h f | smin h f | smax h f =>
    exact ⟨_, rfl, (parts ..).trans (eq_of_fields f.ofBits_bits rfl)⟩
  | st h f | lds h f | sts h f | ldu h f | stu h f | pref h f | fetch h f | fence h f | atomCas h f | atomsCas h f =>
    exact ⟨_, rfl, (parts ..).trans (eq_of_fields f.ofBits_bits rfl)⟩
  | bra h f | brx h f | callK h f | ret h f | ifK h f | elseK h f | endif h f | loopK h f | breakK h f | contK h f | endloop h f | exitK h f
  | nop h f | yieldK h f | sleepK h f =>
    exact ⟨_, rfl, (parts ..).trans (eq_of_fields f.ofBits_bits rfl)⟩
  | cpy h f | cpyt h f | gath h f | scat h f | shape h f | batch h f | cwait h f | cstat h f | barInit h f | barArrive h f | barWait h f
  | barSync h f | barDrop h f | ringSend h f | ringTake h f | ringStat h f | tryK h f | commit h f | abortK h f | tstat h f | spanapp h f
  | spantag h f | spanset h f | spanret h f | spanq h f | rmap h f | acquire h f | giveback h f | launch h f | lstat h f | trap h f | rdsr h f
  | wrsr h f | pgqry h f | accwr h f | accrs h f | accmax h f =>
    exact ⟨_, rfl, (parts ..).trans (eq_of_fields f.ofBits_bits rfl)⟩
  | finfo h f | frd h f | fwr h f | fpatch h f | farrive h f | fstep h f | frelease h f =>
    exact ⟨_, rfl, (parts ..).trans (eq_of_fields f.ofBits_bits rfl)⟩
  | pack4Pack h f =>
    have hsub : f.sub = 0 := VA.sub_eq_zero hok
    exact ⟨_, rfl, (decodeWord_pack4 h f).trans (by rw [hsub]; rfl)⟩
  | pack4Unlo h f =>
    have hsub : f.sub = 1 := eq_of_beq (Bool.and_elim_right hok)
    exact ⟨_, rfl, (decodeWord_pack4 h f).trans (by rw [hsub]; rfl)⟩
  | pack4Unhi h f =>
    have hsub : f.sub = 2 := eq_of_beq (Bool.and_elim_right hok)
    exact ⟨_, rfl, (decodeWord_pack4 h f).trans (by rw [hsub]; rfl)⟩
  | blkscaleScale h f =>
    have hsub : f.sub = 0 := VA.sub_eq_zero hok
    exact ⟨_, rfl, (decodeWord_blkscale h f).trans (by rw [hsub]; rfl)⟩
  | blkscaleApply h f =>
    have hsub : f.sub = 1 := eq_of_beq (Bool.and_elim_right hok)
    exact ⟨_, rfl, (decodeWord_blkscale h f).trans (by rw [hsub]; rfl)⟩
  | voteAll h f =>
    have hsub : f.sub = 0 := VA.sub_eq_zero (Bool.and_elim_left (Bool.and_elim_left hok))
    exact ⟨_, rfl, (decodeWord_vote h f).trans (by rw [hsub]; rfl)⟩
  | voteAny h f =>
    have hsub : f.sub = 1 := eq_of_beq (Bool.and_elim_right (Bool.and_elim_left (Bool.and_elim_left hok)))
    exact ⟨_, rfl, (decodeWord_vote h f).trans (by rw [hsub]; rfl)⟩
  | voteBallot h f =>
    have hsub : f.sub = 2 := eq_of_beq (Bool.and_elim_right (Bool.and_elim_left hok))
    exact ⟨_, rfl, (decodeWord_vote h f).trans (by rw [hsub]; rfl)⟩
  | voteUni h f =>
    have hsub : f.sub = 3 := eq_of_beq (Bool.and_elim_right (Bool.and_elim_left hok))
    exact ⟨_, rfl, (decodeWord_vote h f).trans (by rw [hsub]; rfl)⟩
  | smov h f =>
    have hsub : f.sub = 0 := eq_of_beq (Bool.and_elim_left (Bool.and_elim_left hok))
    exact ⟨_, rfl, (decodeWord_smov h f).trans (by rw [hsub]; rfl)⟩
  | smovCat h f =>
    have hsub : f.sub = 1 := eq_of_beq (Bool.and_elim_left (Bool.and_elim_left hok))
    exact ⟨_, rfl, (decodeWord_smov h f).trans (by rw [hsub]; rfl)⟩
  | ld h f =>
    have hprobe : f.probe = false := MF.probe_eq hok
    exact ⟨_, rfl, (decodeWord_ld h f).trans (by rw [hprobe]; rfl)⟩
  | ldProbe h f =>
    have hprobe : f.probe = true := MF.probe_eq hok
    exact ⟨_, rfl, (decodeWord_ld h f).trans (by rw [hprobe]; rfl)⟩
  | cctlWb h f =>
    have hdata : f.data = 0 := eq_of_beq (Bool.and_elim_right hok)
    exact ⟨_, rfl, (decodeWord_cctl h f).trans (by rw [hdata]; rfl)⟩
  | cctlInv h f =>
    have hdata : f.data = 1 := eq_of_beq (Bool.and_elim_right hok)
    exact ⟨_, rfl, (decodeWord_cctl h f).trans (by rw [hdata]; rfl)⟩
  | cctlDiscard h f =>
    have hdata : f.data = 2 := eq_of_beq (Bool.and_elim_right hok)
    exact ⟨_, rfl, (decodeWord_cctl h f).trans (by rw [hdata]; rfl)⟩
  | bellRing h f =>
    have hbit : f.sub.getLsbD 3 = false := SF.getLsbD_of_scopeOk (Bool.and_elim_right (Bool.and_elim_left hok))
    exact ⟨_, rfl, (decodeWord_bellRing h f).trans (by rw [hbit]; rfl)⟩
  | bellRingSet h f =>
    have hsub : f.sub = 8 := eq_of_beq (Bool.and_elim_right (Bool.and_elim_left (Bool.and_elim_left hok)))
    exact ⟨_, rfl, (decodeWord_bellRing h f).trans (by rw [hsub]; rfl)⟩
  | bellWait h f =>
    have hbit : f.sub.getLsbD 3 = false := SF.getLsbD_of_scopeOk (Bool.and_elim_right (Bool.and_elim_left hok))
    exact ⟨_, rfl, (decodeWord_bellWait h f).trans (by rw [hbit]; rfl)⟩
  | bellWaitNb h f =>
    have hbit : f.sub.getLsbD 3 = true := getLsbD_of_div (eq_of_beq (Bool.and_elim_right (Bool.and_elim_left (Bool.and_elim_left hok))))
    exact ⟨_, rfl, (decodeWord_bellWait h f).trans (by rw [hbit]; rfl)⟩
  | ringFree h f =>
    have hbit : f.sub.getLsbD 3 = false := SF.getLsbD_of_scopeOk (Bool.and_elim_right (Bool.and_elim_left hok))
    exact ⟨_, rfl, (decodeWord_ringFree h f).trans (by rw [hbit]; rfl)⟩
  | ringFreeCap h f =>
    have hbit : f.sub.getLsbD 3 = true := getLsbD_of_div (eq_of_beq (Bool.and_elim_right (Bool.and_elim_left (Bool.and_elim_left (Bool.and_elim_left
      (Bool.and_elim_left hok))))))
    exact ⟨_, rfl, (decodeWord_ringFree h f).trans (by rw [hbit]; rfl)⟩
  | fresumeRetry h f =>
    have himm : f.imm = 0 := eq_of_beq (Bool.and_elim_right hok)
    exact ⟨_, rfl, (decodeWord_fresume h f).trans (by rw [himm]; rfl)⟩
  | fresumeSkip h f =>
    have himm : f.imm = 1 := eq_of_beq (Bool.and_elim_right hok)
    exact ⟨_, rfl, (decodeWord_fresume h f).trans (by rw [himm]; rfl)⟩
  | fkill h f =>
    have himm : f.imm = 0 := eq_of_beq (Bool.and_elim_right hok)
    exact ⟨_, rfl, (decodeWord_fkill h f).trans (by rw [himm]; rfl)⟩
  | fkillGrid h f =>
    have himm : f.imm = 1 := eq_of_beq (Bool.and_elim_right hok)
    exact ⟨_, rfl, (decodeWord_fkill h f).trans (by rw [himm]; rfl)⟩
  | pgctlPin h f =>
    have hsub : f.sub = 1 := eq_of_beq (Bool.and_elim_right (Bool.and_elim_left hok))
    exact ⟨_, rfl, (decodeWord_pgctl h f).trans (by rw [hsub]; rfl)⟩
  | pgctlAttract h f =>
    have hsub : f.sub = 0 := SF.sub_eq_zero hok
    exact ⟨_, rfl, (decodeWord_pgctl h f).trans (by rw [hsub]; rfl)⟩
  | accrd h f =>
    have hsub : f.sub = 0 := SF.sub_eq_zero (Bool.and_elim_left hok)
    exact ⟨_, rfl, (decodeWord_accrd h f).trans (by rw [hsub]; rfl)⟩
  | accrdStat h f =>
    have hsub : (f.sub == 1 || f.sub == 3) = true := Bool.and_elim_right (Bool.and_elim_left hok)
    exact ⟨_, rfl, (decodeWord_accrd h f).trans (by rw [hsub]; rfl)⟩
  | opcodeIllegal h op r =>
    obtain ⟨-, -, hfree⟩ := decodedCell_decodeWord op h r
    exact ⟨_, rfl, hfree (by simpa using (show (!cellUsed op) = true from hok))⟩
  | atom h op f | redK h op f | atoms h op f | reds h op f =>
    refine ⟨_, rfl, ?_⟩
    have hop : op = 0 ∨ op = 1 ∨ op = 2 ∨ op = 3 ∨ op = 4 ∨ op = 5 ∨ op = 6 ∨ op = 7 := by clear parts hok hi; revert op; decide
    obtain rfl | rfl | rfl | rfl | rfl | rfl | rfl | rfl := hop <;> exact (parts ..).trans (eq_of_fields f.ofBits_bits rfl)
  | _ => exact nomatch hi

end Sys2Proof

/-! PROOFS. Words as bytes, press words and clause headers, and that decoding and encoding agree (R4, R40, R60, R62). -/

namespace Sys2Proof

/-! ## Bytes of words -/

theorem length_bytesOf (n v : Nat) : (bytesOf n v).length = n := by
  induction n generalizing v with
  | zero => rfl
  | succ n ih => rw [bytesOf, List.length_cons, ih]

theorem natOfBytes_bytesOf (n v : Nat) : natOfBytes (bytesOf n v) = v % 256 ^ n := by
  induction n generalizing v with
  | zero => rw [pow_zero, Nat.mod_one]; rfl
  | succ n ih =>
    rw [bytesOf, natOfBytes, ih, BitVec.toNat_ofNat, pow_succ' 256 n]
    exact Nat.mod_mul.symm

theorem bytesOf_natOfBytes (bs : List Byte) : bytesOf bs.length (natOfBytes bs) = bs := by
  induction bs with
  | nil => rfl
  | cons b bs ih =>
    have hlow : BitVec.ofNat 8 (b.toNat + 256 * natOfBytes bs) = b := BitVec.eq_of_toNat_eq (by rw [BitVec.toNat_ofNat]; omega)
    have hhigh : (b.toNat + 256 * natOfBytes bs) / 256 = natOfBytes bs := by omega
    rw [List.length_cons, natOfBytes, bytesOf, hlow, hhigh, ih]

theorem natOfBytes_lt (bs : List Byte) : natOfBytes bs < 256 ^ bs.length := by
  induction bs with
  | nil => exact Nat.one_pos
  | cons b bs ih =>
    rw [natOfBytes, List.length_cons, pow_succ']
    omega

/-- Eight bytes are those of the word that they hold. -/
theorem bytesOf_word {bs : List Byte} (hlen : ¬bs.length < 8) : bytesOf 8 (BitVec.ofNat 64 (natOfBytes (bs.take 8))).toNat = bs.take 8 := by
  have htake : (bs.take 8).length = 8 := by rw [List.length_take]; omega
  have hlt := natOfBytes_lt (bs.take 8)
  rw [htake] at hlt
  rw [BitVec.toNat_ofNat, Nat.mod_eq_of_lt (b := 2 ^ 64) hlt]
  simpa only [htake] using bytesOf_natOfBytes (bs.take 8)

theorem word_bytesOf (w : Word) : BitVec.ofNat 64 (natOfBytes ((bytesOf 8 w.toNat).take 8)) = w := by
  rw [List.take_of_length_le (length_bytesOf 8 _).le, natOfBytes_bytesOf]
  exact BitVec.eq_of_toNat_eq (by rw [BitVec.toNat_ofNat]; omega)

theorem drop_bytesOf (v : Nat) : (bytesOf 8 v).drop 8 = [] := List.drop_of_length_le (length_bytesOf 8 v).le

theorem encode_eq {i : Instr} {w : Word} (h : encodeWord i = some w) : encode i = bytesOf 8 w.toNat := by rw [encode, h]; rfl

/-! ## The decoder by the kind of word -/

theorem decode_team_bytesOf {w : Word} (hwf : (decodeWord w).WellFormed) : decode .team (bytesOf 8 w.toNat) = .ok (decodeWord w, []) := by
  obtain ⟨hfield, hpair⟩ := hwf
  rw [decode, if_neg (length_bytesOf 8 _).ge.not_gt, word_bytesOf, drop_bytesOf]
  simp [hfield, hpair]

theorem decode_press_bytesOf (w : Word) : decode .press (bytesOf 8 w.toNat) = .ok (decodePress w, []) := by
  rw [decode, if_neg (length_bytesOf 8 _).ge.not_gt, word_bytesOf, drop_bytesOf]

theorem decode_header_bytesOf {w : Word} (hchecks : (HF.ofBits w).subcode = none) : decode .header (bytesOf 8 w.toNat) = .ok (decodeHeader w,
  []) := by
  rw [decode, if_neg (length_bytesOf 8 _).ge.not_gt, word_bytesOf, drop_bytesOf]
  simp [hchecks]

/-- Of each kind, what decodes is what the word of the first eight bytes names, and the rest of the bytes stands behind it. -/
theorem of_decode_ok {k : WordKind} {bs rest : List Byte} {i : Instr} (h : decode k bs = .ok (i, rest)) : ∃ w : Word, bs = bytesOf 8 w.toNat ++ rest ∧
    (k = .header → i = decodeHeader w) ∧ (k = .press → i = decodePress w) ∧ (k = .team → i = decodeWord w ∧ i.WellFormed) := by
  rw [decode] at h
  split at h
  case isTrue => exact nomatch h
  case isFalse hlen =>
    refine ⟨BitVec.ofNat 64 (natOfBytes (bs.take 8)), ?_⟩
    rw [bytesOf_word hlen]
    have hbs := (List.take_append_drop 8 bs).symm
    cases k with
    | header =>
      dsimp only at h
      split at h
      case isTrue => exact nomatch h
      case isFalse => obtain ⟨rfl, rfl⟩ := h; exact ⟨hbs, fun _ => rfl, nofun, nofun⟩
    | press => obtain ⟨rfl, rfl⟩ := h; exact ⟨hbs, nofun, fun _ => rfl, nofun⟩
    | team =>
      dsimp only at h
      split at h
      case isTrue => exact nomatch h
      case isFalse hfield =>
        split at h
        case isTrue => exact nomatch h
        case isFalse hpair =>
          obtain ⟨rfl, rfl⟩ := h
          exact ⟨hbs, nofun, nofun, fun _ => ⟨rfl, by simpa using hfield, by simpa using hpair⟩⟩

theorem decodeWord_kind_encodeWord (w : Word) : wordKind (decodeWord w) = some .team ∧ encodeWord (decodeWord w) = some w := by
  obtain ⟨hkind, henc, -⟩ := decodedCell_decodeWord (wordOp w) (Hdr.ofWord w) (w.extractLsb' 0 49)
  rw [teamWord_of_word] at hkind henc
  exact ⟨hkind, henc⟩

/-! ## Press words -/

theorem press_of_pop {w : Word} {n : Nat} (hpop : (w.extractLsb' 58 6).toNat = n) : some ((PF.ofBits w).bits (BitVec.ofNat 6 n)) = some w := by
  rw [← hpop, BitVec.ofNat_toNat, BitVec.setWidth_eq, PF.bits_ofBits]

theorem pressOp_kind_encodeWord {w : Word} {i : Instr} (h : pressOp w = some i) : wordKind i = some .press ∧ encodeWord i = some w := by
  unfold pressOp at h
  split at h
  case h_19 => exact nomatch h
  all_goals
    obtain rfl := Option.some.inj h
    exact ⟨rfl, press_of_pop (by assumption)⟩

theorem decodePress_kind_encodeWord (w : Word) : wordKind (decodePress w) = some .press ∧ encodeWord (decodePress w) = some w := by
  unfold decodePress
  split
  case h_1 i hi =>
    split
    case isTrue => exact pressOp_kind_encodeWord hi
    case isFalse => exact ⟨rfl, rfl⟩
  case h_2 => exact ⟨rfl, rfl⟩

theorem pop_bits (f : PF) (pop : BitVec 6) : (f.bits pop).extractLsb' 58 6 = pop := by
  simp (disch := decide) only [PF.bits, BitVec.extractLsb'_append_eq_of_le, BitVec.extractLsb'_eq_self, Nat.sub_self, -Nat.reduceAdd]

theorem decodePress_encodeWord {i : Instr} (hi : wordKind i = some .press) (hok : i.fieldOk = true) (hrefused : ∀ w,
  i = .pressWordRefused w → decodePress w = i) :
    ∃ w, encodeWord i = some w ∧ decodePress w = i := by
  have press {w : Word} {i : Instr} (hop : pressOp w = some i) (hok : i.fieldOk = true) : decodePress w = i := by
    rw [decodePress, hop]
    exact if_pos hok
  cases i with
  | pressWordRefused w => exact ⟨w, rfl, hrefused w rfl⟩
  | pnop f | pzero f | pfmt f | pmm f | pmms f | ploada f | pstore f | pexp f | prowmax f | prowsum f | pscale f | ptrans f | pbellw f | pbellr f
  | pjmp f | ploop f | pwake f | pend f =>
    refine ⟨_, rfl, press ?_ hok⟩
    rw [pressOp, PF.ofBits_bits, pop_bits]
    rfl
  | _ => exact nomatch hi

/-- Settles O55: each format is read back field by field, each cell of the opcode map by the field that tells its rows apart. -/
theorem decodeEncode : Obligations.DecodeEncode := by
  refine ⟨fun i hi hwf => ?_, fun i hi hwf hrefused => ?_, fun f hchecks => ?_, fun k bs i rest h => ?_⟩
  · obtain ⟨w, henc, hdec⟩ := decodeWord_encodeWord hi hwf.1
    rw [encode_eq henc, decode_team_bytesOf (hdec ▸ hwf), hdec]
  · obtain ⟨w, henc, hdec⟩ := decodePress_encodeWord hi hwf.1 hrefused
    rw [encode_eq henc, decode_press_bytesOf, hdec]
  · rw [encode_eq (w := f.bits) rfl, decode_header_bytesOf (by rwa [HF.ofBits_bits]), decodeHeader, HF.ofBits_bits]
  · obtain ⟨w, rfl, hheader, hpress, hteam⟩ := of_decode_ok h
    suffices hword : wordKind i = some k ∧ encodeWord i = some w by
      obtain ⟨hkind, henc⟩ := hword
      exact ⟨hkind, by rw [encode_eq henc], fun hk => (hteam hk).2⟩
    cases k with
    | header => obtain rfl := hheader rfl; exact ⟨rfl, congrArg some (HF.bits_ofBits w)⟩
    | press => obtain rfl := hpress rfl; exact decodePress_kind_encodeWord w
    | team => obtain rfl := (hteam rfl).1; exact decodeWord_kind_encodeWord w

end Sys2Proof

/-! PROOFS. Rows 0x00 and 0x02: adds with carry, multiplies, minima, absolute value and select (R95, R96). -/

namespace Sys2Proof.Machine

open Host

theorem carryOp_of_exec {i : Instr} {h : Hdr} {d : BitVec 8} {k lat : Nat} {g : Team → Mask → Nat → List (RegId × Word)}
    {P : Team → Nat → Lane32 → Bool → Prop} (he : ∀ s, exec i s = issue i h (vec h lat g) s)
    (hg : ∀ t, ∀ L ∈ t.act h, ∃ x c, g t (t.lanesFor h) L = toV d x ++ toK k c ∧ P t L x c) : CarryOp i h d k P := by
  intro s t hi
  choose! x c hx hP using hg t
  exact ⟨x, c, hP, ends_of_vec hi he hx (by simp [toV, toK])⟩

/-! ## Sums with a carry (R95) -/

theorem addCarry_toNat (a b : Lane32) (c : Bool) :
    (addCarry a b c).1.toNat + 2 ^ 32 * (addCarry a b c).2.toNat = a.toNat + b.toNat + c.toNat := by
  have ha := a.isLt
  have hb := b.isLt
  have hc := c.toNat_lt
  simp only [addCarry, BitVec.toNat_ofNat]
  by_cases hx : 2 ^ 32 ≤ a.toNat + b.toNat + c.toNat
  · rw [decide_eq_true hx, Bool.toNat_true]; omega
  · rw [decide_eq_false hx, Bool.toNat_false]; omega

theorem subBorrow_toNat (a b : Lane32) (c : Bool) :
    ((subBorrow a b c).1.toNat : Int) - 2 ^ 32 * ((subBorrow a b c).2.toNat : Int) = a.toNat - b.toNat - c.toNat := by
  have ha := a.isLt
  have hb := b.isLt
  have hc := c.toNat_lt
  simp only [subBorrow, BitVec.toNat_ofInt]
  by_cases hx : (a.toNat : Int) - b.toNat - c.toNat < 0
  · rw [decide_eq_true hx, Bool.toNat_true]; omega
  · rw [decide_eq_false hx, Bool.toNat_false]; omega

theorem add_toInt_rule (a b : Lane32) : SumRule false false (a.toInt + b.toInt) (a + b) := by
  have hsum : (a + b).toInt = (a.toInt + b.toInt).bmod (2 ^ 32) := BitVec.toInt_add a b
  simp only [SumRule, asInt, Bool.false_eq_true, if_false, hsum]
  exact Int.dvd_bmod_sub_self

/-! ## Products (R95) -/

/-- A word that is an integer's low bits differs from it by a multiple of 2^w. -/
theorem dvd_toNat_sub {w : Nat} {x : BitVec w} {z : Int} (h : x = BitVec.ofInt w z) : (2 ^ w : Int) ∣ x.toNat - z := by
  rw [h, BitVec.toNat_ofInt, Int.toNat_of_nonneg (Int.emod_nonneg _ (by positivity))]
  push_cast
  exact Int.dvd_emod_sub_self

theorem asInt_mulHi (u : Bool) (a b : Lane32) : asInt u (mulHi u a b) = asInt u a * asInt u b / 2 ^ 32 := by
  rw [mulHi, asInt_ofInt]
  cases u with
  | true =>
    have ha : asInt true a ≤ 2 ^ 32 - 1 := by have := a.isLt; simp only [asInt, if_true]; omega
    have hb : asInt true b ≤ 2 ^ 32 - 1 := by have := b.isLt; simp only [asInt, if_true]; omega
    have ha0 : 0 ≤ asInt true a := by simp [asInt]
    have hb0 : 0 ≤ asInt true b := by simp [asInt]
    have hmul := mul_le_mul ha hb hb0 (by norm_num)
    have hpos := mul_nonneg ha0 hb0
    rw [if_pos rfl]
    omega
  | false =>
    have habs (x : Lane32) : |asInt false x| ≤ 2 ^ 31 := abs_le.mpr ⟨BitVec.le_toInt x, (BitVec.toInt_lt (x := x)).le⟩
    have hmul := mul_le_mul (habs a) (habs b) (abs_nonneg _) (by norm_num)
    rw [← abs_mul, abs_le] at hmul
    rw [if_neg Bool.false_ne_true, Int.bmod_def]
    split <;> omega

theorem negIf_eq (neg : Bool) (x : Lane32) : negIf neg x = BitVec.ofInt 32 (signed neg x) := by
  cases neg <;> simp [negIf, signed, BitVec.ofInt_neg]

theorem mad32_dvd (na nc : Bool) (a b c : Lane32) :
    (2 ^ 32 : Int) ∣ (negIf na a * b + negIf nc c).toNat - (signed na a * b.toNat + signed nc c) := by
  refine dvd_toNat_sub ?_
  rw [BitVec.ofInt_add, BitVec.ofInt_mul, ← negIf_eq, ← negIf_eq, BitVec.ofInt_natCast, BitVec.ofNat_toNat, BitVec.setWidth_eq]

theorem madWide_dvd (u : Bool) (a b : Lane32) (c : Word) : (2 ^ 64 : Int) ∣ (madWide u a b c).toNat - (asInt u a * asInt u b + c.toNat) := by
  refine dvd_toNat_sub ?_
  rw [BitVec.ofInt_add, BitVec.ofInt_natCast, BitVec.ofNat_toNat, BitVec.setWidth_eq]
  rfl

theorem lea64_dvd (u : Bool) (k : Nat) (a : Lane32) (b : Word) : (2 ^ 64 : Int) ∣ (lea64 u k a b).toNat - (b.toNat + asInt u a * 2 ^ k) := by
  refine dvd_toNat_sub ?_
  have hpow : BitVec.ofInt 64 (2 ^ k) = BitVec.twoPow 64 k := by
    rw [show (2 ^ k : Int) = ((2 ^ k : Nat) : Int) by push_cast; rfl, BitVec.ofInt_natCast]
    exact BitVec.eq_of_toNat_eq (by rw [BitVec.toNat_ofNat, BitVec.toNat_twoPow])
  rw [BitVec.ofInt_add, BitVec.ofInt_natCast, BitVec.ofNat_toNat, BitVec.setWidth_eq, BitVec.ofInt_mul, hpow, BitVec.mul_twoPow_eq_shiftLeft]
  rfl

/-! ## The absolute value (R95) -/

theorem iabs32_rule (sat : Bool) (a : Lane32) : if a.toInt = -(2 ^ 31) then (iabs32 sat a).toInt = (if sat then 2 ^ 31 - 1 else -(2 ^ 31))
    else (iabs32 sat a).toInt = |a.toInt| := by
  have hmin : a.toInt = -(2 ^ 31) ↔ a = 0x80000000 := BitVec.toInt_inj (y := 0x80000000#32)
  unfold iabs32
  split
  case isTrue h =>
    rw [if_pos (hmin.mp h)]
    split
    · rfl
    · exact h
  case isFalse h =>
    rw [if_neg (hmin.not.mp h)]
    cases hs : a.msb with
    | true =>
      have hneg : a.toInt < 0 := by simpa [BitVec.msb_eq_toInt] using hs
      rw [if_pos rfl, BitVec.toInt_neg_of_ne_intMin (x := a) (hmin.not.mp h), abs_of_neg hneg]
    | false =>
      have hnn : 0 ≤ a.toInt := by simpa [BitVec.msb_eq_toInt] using hs
      rw [if_neg Bool.false_ne_true, abs_of_nonneg hnn]

/-! ## The words -/

/-- Settles O1: each word by its exact result, kept modulo a power of two, clamped, or with its carry. -/
theorem integerArithmetic : Obligations.IntegerArithmetic := by
  refine ⟨⟨fun h => ⟨fun f => ?_, fun f => ?_, fun f => ?_⟩, fun h f => ⟨?_, ?_⟩⟩,
    fun h => ⟨fun f => ?_, fun f => ?_, fun f => ?_, fun f => ?_, fun f => ?_, fun f => ?_⟩,
    fun h => ⟨fun f => ?_, fun f => ?_, fun f => ?_, fun f => ?_, fun f => ?_, fun f => ?_⟩⟩
  case refine_1 => exact vecOp_of_exec (fun _ => rfl) fun _ _ _ => ⟨_, rfl, satOrWrap_rule _ _ _⟩
  case refine_2 => exact vecOp_of_exec (fun _ => rfl) fun _ _ _ => ⟨_, rfl, satOrWrap_rule _ _ _⟩
  case refine_3 => exact vecOp_of_exec (fun _ => rfl) fun _ _ _ => ⟨_, rfl, add_toInt_rule _ _⟩
  case refine_4 => exact carryOp_of_exec (fun _ => rfl) fun _ _ _ => ⟨_, _, rfl, addCarry_toNat _ _ _⟩
  case refine_5 => exact carryOp_of_exec (fun _ => rfl) fun _ _ _ => ⟨_, _, rfl, subBorrow_toNat _ _ _⟩
  case refine_6 => exact vecOp_of_exec (fun _ => rfl) fun _ _ _ => ⟨_, rfl, BitVec.toNat_mul _ _⟩
  case refine_7 => exact vecOp_of_exec (fun _ => rfl) fun _ _ _ => ⟨_, rfl, asInt_mulHi _ _ _⟩
  case refine_8 => exact vecOp_of_exec (fun _ => rfl) fun _ _ _ => ⟨_, rfl, mad32_dvd _ _ _ _ _⟩
  case refine_9 => exact pairOp_of_exec (fun _ => rfl) fun _ _ _ => ⟨_, rfl, madWide_dvd _ _ _ _⟩
  case refine_10 => exact pairOp_of_exec (fun _ => rfl) fun _ _ _ => ⟨_, rfl, lea64_dvd _ _ _ _⟩
  case refine_11 => exact vecOp_of_exec (fun _ => rfl) fun _ _ _ => ⟨_, rfl, BitVec.toNat_mul _ _⟩
  case refine_12 => exact vecOp_of_exec (fun _ => rfl) fun _ _ _ => ⟨_, rfl, (asInt_minMax _ _ _).1⟩
  case refine_13 => exact vecOp_of_exec (fun _ => rfl) fun _ _ _ => ⟨_, rfl, (asInt_minMax _ _ _).2⟩
  case refine_14 => exact vecOp_of_exec (fun _ => rfl) fun _ _ _ => ⟨_, rfl, (asInt_minMax false _ _).1⟩
  case refine_15 => exact vecOp_of_exec (fun _ => rfl) fun _ _ _ => ⟨_, rfl, (asInt_minMax false _ _).2⟩
  case refine_16 => exact vecOp_of_exec (fun _ => rfl) fun _ _ _ => ⟨_, rfl, iabs32_rule _ _⟩
  case refine_17 => exact vecOp_of_exec (fun _ => rfl) fun _ _ _ => ⟨_, rfl, rfl⟩

end Sys2Proof.Machine

/-! PROOFS. Round: the neighbour that a mode names, the encodings of what it gives, and the special values (R71 to R77). -/

namespace Sys2Proof.Machine

open Host

/-! ## Shifting right with rounding (R73) -/

theorem lt_two_pow_bitLen (m : Nat) : m < 2 ^ bitLen m := by
  unfold bitLen
  split
  case isTrue h => simp [h]
  case isFalse => exact Nat.lt_log2_self

theorem two_pow_le_of_bitLen {m k : Nat} (h : bitLen m = k + 1) : 2 ^ k ≤ m := by
  unfold bitLen at h
  split at h
  case isTrue => cases h
  case isFalse h0 => rw [← Nat.succ.inj h]; exact Nat.log2_self_le h0

/-- The clamp of the shift's distance has no effect: beyond it the quotient is 0 and the rest is below a half (R73). -/
theorem roundShift_eq (rm : Rnd) (neg : Bool) (m d : Nat) : roundShift rm neg m d =
    (m / 2 ^ d + (if roundUp rm neg (m / 2 ^ d % 2 == 1) (compare (2 * (m % 2 ^ d)) (2 ^ d)) (m % 2 ^ d != 0) then 1 else 0), m % 2 ^ d != 0) := by
  unfold roundShift
  dsimp only
  rcases le_total d (bitLen m + 2) with h | h
  · rw [min_eq_left h]
  · have hsmall : m < 2 ^ bitLen m := lt_two_pow_bitLen m
    have hlt {k : Nat} (hk : bitLen m + 2 ≤ k) : 4 * m < 2 ^ k := by
      have hle : 2 ^ (bitLen m + 2) ≤ 2 ^ k := Nat.pow_le_pow_right two_pos hk
      rw [pow_add] at hle
      omega
    have h0 {k : Nat} (hk : bitLen m + 2 ≤ k) : m / 2 ^ k = 0 ∧ m % 2 ^ k = m ∧ compare (2 * m) (2 ^ k) = .lt :=
      ⟨Nat.div_eq_of_lt (by have := hlt hk; omega), Nat.mod_eq_of_lt (by have := hlt hk; omega),
        Nat.compare_eq_lt.mpr (by have := hlt hk; omega)⟩
    obtain ⟨ha, hb, hc⟩ := h0 h
    obtain ⟨ha', hb', hc'⟩ := h0 le_rfl
    rw [min_eq_right h, ha, hb, hc, ha', hb', hc']

/-- A quotient q and a rest ρ, rounded as the mode says, are the integer that R73 names for q + ρ. -/
theorem roundsTo_roundUp (rm : Rnd) (s : Bool) (q : Nat) {r p : Nat} (hr : r < p) :
    RoundsTo rm s (q + (r : ℚ) / p) 1 (q + if roundUp rm s (q % 2 == 1) (compare (2 * r) p) (r != 0) then 1 else 0) := by
  have hp : (0 : ℚ) < p := by exact_mod_cast (Nat.zero_le r).trans_lt hr
  obtain ⟨ρ, hρ⟩ : ∃ ρ : ℚ, ρ = r / p := ⟨_, rfl⟩
  have h0 : 0 ≤ ρ := by rw [hρ]; positivity
  have h1 : ρ < 1 := by rw [hρ, div_lt_one hp]; exact_mod_cast hr
  have hz : r = 0 ↔ ρ = 0 := by rw [hρ, div_eq_zero_iff]; simp [hp.ne']
  have hlt : 2 * r < p ↔ 2 * ρ < 1 := by rw [hρ, ← mul_div_assoc, div_lt_one hp]; norm_cast
  have hgt : p < 2 * r ↔ 1 < 2 * ρ := by rw [hρ, ← mul_div_assoc, one_lt_div hp]; norm_cast
  rw [← hρ]
  unfold RoundsTo
  have hdown : |((q + 0 : Nat) : ℚ) * 1 - (q + ρ)| = ρ := by
    rw [show ((q + 0 : Nat) : ℚ) * 1 - (q + ρ) = -ρ by push_cast; ring, abs_neg, abs_of_nonneg h0]
  have hup : |((q + 1 : Nat) : ℚ) * 1 - (q + ρ)| = 1 - ρ := by
    rw [show ((q + 1 : Nat) : ℚ) * 1 - (q + ρ) = 1 - ρ by push_cast; ring, abs_of_nonneg (by linarith)]
  by_cases hb : roundUp rm s (q % 2 == 1) (compare (2 * r) p) (r != 0) = true
  · have hne : ρ ≠ 0 := by
      rintro rfl
      rw [hz.mpr rfl] at hb
      have : compare (2 * 0) p = .lt := Nat.compare_eq_lt.mpr (by omega)
      rw [this] at hb
      cases rm <;> simp [roundUp] at hb
    have hpos : 0 < ρ := lt_of_le_of_ne h0 hne.symm
    rw [if_pos hb, hup]
    refine ⟨by linarith, ?_⟩
    cases rm with
    | rne =>
      simp only [roundUp, Bool.or_eq_true, Bool.and_eq_true, beq_iff_eq, Nat.compare_eq_gt, Nat.compare_eq_eq] at hb
      rcases hb with hb | ⟨hb, hodd⟩
      · have := hgt.mp hb
        exact ⟨by linarith, fun h => absurd h (by linarith)⟩
      · have h2 : 2 * ρ = 1 := le_antisymm (not_lt.mp (hgt.not.mp (by omega))) (not_lt.mp (hlt.not.mp (by omega)))
        exact ⟨by linarith, fun _ => by omega⟩
    | rz => cases hb
    | ru =>
      simp only [roundUp, Bool.and_eq_true, Bool.not_eq_true'] at hb
      rw [if_neg (by simp [hb.2])]; push_cast; linarith
    | rd =>
      simp only [roundUp, Bool.and_eq_true] at hb
      show if s = true then _ else _
      rw [if_pos hb.2]; push_cast; linarith
  · rw [if_neg hb, hdown]
    refine ⟨h1, ?_⟩
    cases rm with
    | rne =>
      simp only [roundUp, Bool.or_eq_true, Bool.and_eq_true, beq_iff_eq, Nat.compare_eq_gt, Nat.compare_eq_eq, not_or, not_and, not_lt] at hb
      obtain ⟨hle, heven⟩ := hb
      refine ⟨not_lt.mp (hgt.not.mp (by omega)), fun h => ?_⟩
      have : 2 * r = p := le_antisymm hle (not_lt.mp (hlt.not.mpr (by linarith)))
      have := heven this
      omega
    | rz => push_cast; linarith
    | ru =>
      cases s with
      | true => rw [if_pos rfl]; push_cast; linarith
      | false =>
        have h00 : ρ = 0 := hz.mp (by simpa [roundUp] using hb)
        rw [if_neg Bool.false_ne_true, h00]; push_cast; linarith
    | rd =>
      cases s with
      | false => rw [if_neg Bool.false_ne_true]; push_cast; linarith
      | true =>
        have h00 : ρ = 0 := hz.mp (by simpa [roundUp] using hb)
        show if true = true then _ else _
        rw [if_pos rfl, h00]; push_cast; linarith

/-- m × 2^(−d) is rounded to the integer that the mode names, and the rest is zero just when it is that integer (R73, R79). -/
theorem roundShift_rule (rm : Rnd) (s : Bool) (m d : Nat) :
    RoundsTo rm s ((m : ℚ) / 2 ^ d) 1 (roundShift rm s m d).1 ∧ ((roundShift rm s m d).2 = true ↔ ((roundShift rm s m d).1 : ℚ) ≠ (m : ℚ) / 2 ^ d) := by
  have hp : 0 < 2 ^ d := Nat.two_pow_pos d
  have hlt : m % 2 ^ d < 2 ^ d := Nat.mod_lt _ hp
  have hm : (m : ℚ) / 2 ^ d = (m / 2 ^ d : Nat) + ((m % 2 ^ d : Nat) : ℚ) / (2 ^ d : Nat) := by
    have : (m : ℚ) = 2 ^ d * (m / 2 ^ d : Nat) + (m % 2 ^ d : Nat) := by exact_mod_cast (Nat.div_add_mod m (2 ^ d)).symm
    rw [div_eq_iff (by positivity), add_mul, div_mul_eq_mul_div, Nat.cast_pow, Nat.cast_ofNat, mul_div_assoc, div_self (by positivity), mul_one,
      mul_comm _ ((2 : ℚ) ^ d)]
    exact this
  rw [roundShift_eq, hm]
  refine ⟨roundsTo_roundUp rm s _ hlt, ?_⟩
  generalize m / 2 ^ d = q
  generalize m % 2 ^ d = r at hlt
  generalize 2 ^ d = p at hlt hp
  have hpq : (0 : ℚ) < p := by exact_mod_cast hp
  have h1 : (r : ℚ) / p < 1 := by rw [div_lt_one hpq]; exact_mod_cast hlt
  dsimp only
  by_cases hr : r = 0
  · subst hr
    have hc : compare (2 * 0) p = .lt := Nat.compare_eq_lt.mpr (by omega)
    rw [hc]
    cases rm <;> simp [roundUp]
  · have hpos : 0 < (r : ℚ) / p := div_pos (by exact_mod_cast Nat.pos_of_ne_zero hr) hpq
    refine iff_of_true (by simpa using hr) ?_
    split <;> push_cast <;> intro h <;> linarith

/-- Rounding to a multiple of a spacing is rounding to an integer in units of it. -/
theorem RoundsTo.scale {rm : Rnd} {s : Bool} {v sp : ℚ} {n : Nat} (hsp : 0 < sp) (h : RoundsTo rm s (v / sp) 1 n) : RoundsTo rm s v sp n := by
  have habs : |(n : ℚ) * sp - v| = |n * 1 - v / sp| * sp := by
    rw [← abs_of_pos hsp, ← abs_mul, abs_of_pos hsp, sub_mul, div_mul_cancel₀ _ hsp.ne', mul_one]
  have hle : (n : ℚ) * sp ≤ v ↔ (n : ℚ) * 1 ≤ v / sp := by rw [mul_one, le_div_iff₀ hsp]
  have hge : v ≤ (n : ℚ) * sp ↔ v / sp ≤ (n : ℚ) * 1 := by rw [mul_one, div_le_iff₀ hsp]
  obtain ⟨hlt, hmode⟩ := h
  refine ⟨by rw [habs]; nlinarith, ?_⟩
  cases rm with
  | rne =>
    obtain ⟨hhalf, htie⟩ := hmode
    rw [habs]
    exact ⟨by nlinarith, fun heq => htie (mul_right_cancel₀ hsp.ne' (by linarith))⟩
  | rz => exact hle.mpr hmode
  | ru => cases s <;> simp only [hle, hge] <;> exact hmode
  | rd => cases s <;> simp only [hle, hge] <;> exact hmode

/-! ## Encodings of binary floating formats (R71) -/

/-- A rounded value in its encoding: k binades above the subnormals, n of the spacing's units. -/
def EncForm (mb k n : Nat) : Prop := n ≤ 2 ^ (mb + 1) ∧ (k = 0 ∨ 2 ^ mb ≤ n)

/-- The largest finite encoding of a format lies below its infinity, or is E4M3's (Table 03-3). -/
theorem maxEnc_form {f : Fmt} {eb mb : Nat} {bias : Int} (hf : fmtFloat f = some (eb, mb, bias)) :
    ∃ K N, maxEnc f = K * 2 ^ mb + N ∧ 2 ^ mb ≤ N ∧ N < 2 ^ (mb + 1) ∧ maxEnc f < 2 ^ (eb + mb) ∧ eb + mb < 32 ∧
      (f = .e4m3 ∨ maxEnc f < 2 ^ mb * (2 ^ eb - 1)) := by
  cases f <;> cases hf
  case fp32 => exact ⟨253, 0xFFFFFF, by decide⟩
  case bf16 => exact ⟨253, 0xFF, by decide⟩
  case fp16 => exact ⟨29, 0x7FF, by decide⟩
  case e4m3 => exact ⟨14, 14, by decide⟩
  case e5m2 => exact ⟨29, 7, by decide⟩

/-- The fields of an encoding with its sign. -/
theorem withSign_fields (eb mb : Nat) (s : Bool) {x : Nat} (hx : x < 2 ^ (eb + mb)) :
    (withSign eb mb s x).testBit (eb + mb) = s ∧ withSign eb mb s x / 2 ^ mb % 2 ^ eb = x / 2 ^ mb ∧ withSign eb mb s x % 2 ^ mb = x % 2 ^ mb := by
  have hdiv : x / 2 ^ mb < 2 ^ eb := Nat.div_lt_of_lt_mul (by rwa [← pow_add, Nat.add_comm])
  have hsplit : 2 ^ (eb + mb) = 2 ^ mb * 2 ^ eb := by rw [pow_add, mul_comm]
  cases s with
  | false => exact ⟨Nat.testBit_lt_two_pow hx, Nat.mod_eq_of_lt hdiv, rfl⟩
  | true =>
    refine ⟨?_, ?_, ?_⟩
    · rw [withSign, if_pos rfl, Nat.add_comm, Nat.testBit_two_pow_add_eq, Nat.testBit_lt_two_pow hx]; rfl
    · rw [withSign, if_pos rfl, hsplit, Nat.add_mul_div_left _ _ (Nat.two_pow_pos mb), Nat.add_mod_right, Nat.mod_eq_of_lt hdiv]
    · rw [withSign, if_pos rfl, hsplit, Nat.add_mul_mod_self_left]

theorem withSign_toNat {eb mb x : Nat} (s : Bool) (hx : x < 2 ^ (eb + mb)) (h32 : eb + mb < 32) :
    (BitVec.ofNat 32 (withSign eb mb s x)).toNat = withSign eb mb s x := by
  have hle : 2 ^ (eb + mb) * 2 ≤ 2 ^ 32 := by rw [← pow_succ]; exact Nat.pow_le_pow_right two_pos (by omega)
  refine Nat.mod_eq_of_lt ?_
  cases s
  · rw [withSign, if_neg Bool.false_ne_true]; omega
  · rw [withSign, if_pos rfl]; omega

/-- A finite encoding with a sign decodes to its fields' value (R71). -/
theorem decodeNum_withSign {f : Fmt} {eb mb : Nat} {bias : Int} (hf : fmtFloat f = some (eb, mb, bias)) (s : Bool) {x : Nat} (hx : x ≤ maxEnc f) :
    decodeNum f (withSign eb mb s x) = floatValue mb bias s (x / 2 ^ mb) (if x / 2 ^ mb = 0 then 0 else 1) (x % 2 ^ mb) := by
  obtain ⟨K, N, -, -, -, hmax, -, hinf⟩ := maxEnc_form hf
  obtain ⟨hsign, hexp, hfrac⟩ := withSign_fields eb mb s (hx.trans_lt hmax)
  have hfin : ¬(x / 2 ^ mb = 2 ^ eb - 1 ∧ f ≠ .e4m3) := fun ⟨he, hne⟩ => by
    have hlt := hinf.resolve_left hne
    have := Nat.mul_div_le x (2 ^ mb)
    rw [he] at this
    omega
  have hnan : ¬(x / 2 ^ mb = 15 ∧ x % 2 ^ mb = 7 ∧ f = .e4m3) := fun ⟨he, hm, h4⟩ => by
    subst h4
    cases hf
    have : x ≤ 0x7E := hx
    omega
  rw [decodeNum, hf]
  show decodeFloat f eb mb bias (withSign eb mb s x) = _
  simp only [decodeFloat, hsign, hexp, hfrac, if_neg hfin, if_neg hnan]

/-- What the fields of k binades and n units say. -/
theorem floatValue_form {mb k n : Nat} (hk : EncForm mb k n) (bias : Int) (s : Bool) : ∃ m l,
    floatValue mb bias s ((k * 2 ^ mb + n) / 2 ^ mb) (if (k * 2 ^ mb + n) / 2 ^ mb = 0 then 0 else 1) ((k * 2 ^ mb + n) % 2 ^ mb) = .fin s m l ∧
      dyadic false m l = n * 2 ^ (1 - bias - mb + k) := by
  obtain ⟨hn, hk⟩ := hk
  have hp : 0 < 2 ^ mb := Nat.two_pow_pos mb
  have hz : (2 : ℚ) ≠ 0 := two_ne_zero
  rw [pow_succ] at hn
  have hdiv : (k * 2 ^ mb + n) / 2 ^ mb = k + n / 2 ^ mb := by rw [Nat.add_comm, Nat.add_mul_div_right _ _ hp, Nat.add_comm]
  have hmod : (k * 2 ^ mb + n) % 2 ^ mb = n % 2 ^ mb := by rw [Nat.add_comm, Nat.add_mul_mod_self_right]
  rw [hdiv, hmod]
  refine ⟨_, _, rfl, ?_⟩
  rw [dyadic, if_neg Bool.false_ne_true, one_mul]
  rcases lt_or_ge n (2 ^ mb) with hlt | hge
  · obtain rfl : k = 0 := hk.resolve_right (by omega)
    rw [Nat.div_eq_of_lt hlt, Nat.mod_eq_of_lt hlt]
    simp
  · rw [if_neg (by have := Nat.div_pos hge hp; omega)]
    rcases eq_or_lt_of_le hn with rfl | hlt
    · rw [Nat.mul_div_cancel_left _ hp, Nat.mul_mod_right]
      rw [show ((max (k + 2) 1 : Nat) : Int) - bias - mb = (1 - bias - mb + k) + 1 by omega, zpow_add₀ hz]
      push_cast; ring
    · have h1 : n / 2 ^ mb = 1 := Nat.div_eq_of_lt_le (by omega) (by omega)
      have h2 : n % 2 ^ mb = n - 2 ^ mb := by have := Nat.div_add_mod n (2 ^ mb); rw [h1] at this; omega
      rw [h1, h2]
      rw [show ((max (k + 1) 1 : Nat) : Int) - bias - mb = (1 - bias - mb + k) by omega, one_mul, Nat.add_sub_cancel' hge]

/-- Encodings are ordered as the values that they stand for. -/
theorem encForm_lt_iff {mb k n K N : Nat} (h : EncForm mb k n) (hN : 2 ^ mb ≤ N) (hN' : N < 2 ^ (mb + 1)) :
    K * 2 ^ mb + N < k * 2 ^ mb + n ↔ (N : ℚ) * 2 ^ K < n * 2 ^ k := by
  obtain ⟨hn, hk⟩ := h
  rw [pow_succ] at hn hN'
  have hcast : (N : ℚ) * 2 ^ K < n * 2 ^ k ↔ N * 2 ^ K < n * 2 ^ k := by norm_cast
  rw [hcast]
  have hK : 0 < 2 ^ K := Nat.two_pow_pos K
  have hk0 : 0 < 2 ^ k := Nat.two_pow_pos k
  rcases lt_trichotomy k K with hlt | rfl | hgt
  · obtain ⟨j, rfl⟩ := Nat.exists_eq_add_of_lt hlt
    refine iff_of_false (by nlinarith) ?_
    have hj : 1 ≤ 2 ^ j := Nat.one_le_two_pow
    rw [show k + j + 1 = k + 1 + j by omega, pow_add, pow_add, not_lt]
    calc n * 2 ^ k ≤ 2 ^ mb * 2 * 2 ^ k := Nat.mul_le_mul_right _ hn
      _ ≤ 2 ^ mb * 2 * 2 ^ k * 2 ^ j := Nat.le_mul_of_pos_right _ hj
      _ ≤ N * (2 ^ k * 2 ^ 1 * 2 ^ j) := by nlinarith [Nat.mul_le_mul_right (2 * 2 ^ k * 2 ^ j) hN]
  · rw [Nat.mul_lt_mul_right hk0]; omega
  · obtain ⟨j, rfl⟩ := Nat.exists_eq_add_of_lt hgt
    have hge := hk.resolve_left (by omega)
    refine iff_of_true (by nlinarith) ?_
    have hj : 1 ≤ 2 ^ j := Nat.one_le_two_pow
    rw [show K + j + 1 = K + 1 + j by omega, pow_add, pow_add]
    calc N * 2 ^ K < 2 ^ mb * 2 * 2 ^ K := Nat.mul_lt_mul_of_pos_right hN' hK
      _ ≤ 2 ^ mb * 2 * 2 ^ K * 2 ^ j := Nat.le_mul_of_pos_right _ hj
      _ ≤ n * (2 ^ K * 2 ^ 1 * 2 ^ j) := by nlinarith [Nat.mul_le_mul_right (2 * 2 ^ K * 2 ^ j) hge]

/-! ## What Round gives of a finite value (R73 to R75, R77) -/

/-- The result of Round for an encoding's magnitude: Table 03-4 above the largest finite value, a zero where FTZ flushes it (R74, R75). -/
def floatResult (f : Fmt) (eb mb : Nat) (rm : Rnd) (sat ftz neg : Bool) (enc : Nat) (rest : Bool) : Rounded :=
  if maxEnc f < enc then
    { enc := .ofNat 32 (overflowEnc f eb mb rm sat neg), overflow := true, inexact := true, saturated := sat || f == .e4m3 }
  else if enc < 2 ^ mb ∧ ftz ∧ f = .fp32 then
    { enc := .ofNat 32 (withSign eb mb neg 0), underflow := rest || enc != 0, inexact := rest || enc != 0 }
  else { enc := .ofNat 32 (withSign eb mb neg enc), underflow := rest && enc < 2 ^ mb, inexact := rest }

/-- The spacing of Round for a value: that of its binade, or of the subnormals (R73). -/
def unitExp (mb : Nat) (bias : Int) (m : Nat) (e : Int) : Int := max (e + bitLen m - 1 - mb) (1 - bias - mb)

/-- Units of the spacing in a value, rounded, and whether anything was discarded (R73). -/
def unitsOf (rm : Rnd) (s : Bool) (m : Nat) (e q : Int) : Nat × Bool :=
  if q ≤ e then (m * 2 ^ (e - q).toNat, false) else roundShift rm s m (q - e).toNat

theorem roundFloat_eq (f : Fmt) (eb mb : Nat) (bias : Int) (rm : Rnd) (sat ftz s : Bool) (m : Nat) (e : Int) :
    roundFloat f eb mb bias rm sat ftz s m e = floatResult f eb mb rm sat ftz s
      ((unitExp mb bias m e - (1 - bias - mb)).toNat * 2 ^ mb + (unitsOf rm s m e (unitExp mb bias m e)).1) (unitsOf rm s m e (unitExp mb bias m e)).2 := rfl

theorem round_fin {f : Fmt} {eb mb : Nat} {bias : Int} (hf : fmtFloat f = some (eb, mb, bias)) (rm : Rnd) (sat ftz s : Bool) {m : Nat} (hm : m ≠ 0)
    (e : Int) : round f rm sat ftz (.fin s m e) = roundFloat f eb mb bias rm sat ftz s m e := by
  cases m with
  | zero => exact absurd rfl hm
  | succ m => simp only [round, hf]

theorem unitsOf_rule (rm : Rnd) (s : Bool) (m : Nat) (e q : Int) :
    RoundsTo rm s (dyadic false m e) (2 ^ q) (unitsOf rm s m e q).1 ∧
      ((unitsOf rm s m e q).2 = true ↔ ((unitsOf rm s m e q).1 : ℚ) * 2 ^ q ≠ dyadic false m e) := by
  have hsp : (0 : ℚ) < 2 ^ q := by positivity
  unfold unitsOf
  split
  case isTrue h =>
    have hval : ((m * 2 ^ (e - q).toNat : Nat) : ℚ) * 2 ^ q = dyadic false m e := by
      have hexp : (2 : ℚ) ^ (e - q).toNat * 2 ^ q = 2 ^ e := by
        rw [← zpow_natCast, Int.toNat_of_nonneg (by omega), ← zpow_add₀ two_ne_zero]
        congr 1; omega
      simp [dyadic, mul_assoc, hexp]
    refine ⟨⟨by rw [hval, sub_self, abs_zero]; exact hsp, ?_⟩, by rw [hval]; simp⟩
    rw [hval]
    cases rm <;> cases s <;> simp [hsp.le, hsp.ne]
  case isFalse h =>
    have hval : (m : ℚ) / 2 ^ (q - e).toNat = dyadic false m e / 2 ^ q := by
      have hexp : (2 : ℚ) ^ q = 2 ^ e * 2 ^ (q - e).toNat := by
        rw [← zpow_natCast, Int.toNat_of_nonneg (by omega), ← zpow_add₀ two_ne_zero]
        congr 1; omega
      rw [hexp, dyadic, if_neg Bool.false_ne_true, one_mul, mul_comm (2 ^ e), mul_div_mul_right _ _ (by positivity)]
    obtain ⟨hround, hrest⟩ := roundShift_rule rm s m (q - e).toNat
    rw [hval] at hround hrest
    exact ⟨hround.scale hsp, hrest.trans (not_congr (eq_div_iff hsp.ne'))⟩

/-- The units fill the significand: at most two binades of it, and the whole of it above the subnormals. -/
theorem unitsOf_form (rm : Rnd) (s : Bool) {m : Nat} (hm : m ≠ 0) (e : Int) (mb : Nat) (bias : Int) :
    EncForm mb (unitExp mb bias m e - (1 - bias - mb)).toNat (unitsOf rm s m e (unitExp mb bias m e)).1 := by
  obtain ⟨b, hb⟩ : ∃ b, bitLen m = b + 1 := ⟨m.log2, if_neg hm⟩
  have hlo := two_pow_le_of_bitLen hb
  have hhi := lt_two_pow_bitLen m
  rw [hb] at hhi
  obtain ⟨⟨habs, -⟩, -⟩ := unitsOf_rule rm s m e (unitExp mb bias m e)
  obtain ⟨q, hq⟩ : ∃ q, q = unitExp mb bias m e := ⟨_, rfl⟩
  have hqv : q = max (e + b - mb) (1 - bias - mb) := by rw [hq, unitExp, hb]; push_cast; congr 1; ring
  rw [← hq] at habs ⊢
  generalize (unitsOf rm s m e q).1 = n at habs ⊢
  have hsp : (0 : ℚ) < 2 ^ q := by positivity
  rw [abs_lt] at habs
  have hv : dyadic false m e = m * 2 ^ e := by simp [dyadic]
  have hle : ((2 : ℚ) ^ (b + 1)) * 2 ^ e ≤ 2 ^ (mb + 1) * 2 ^ q := by
    rw [← zpow_natCast, ← zpow_natCast, ← zpow_add₀ two_ne_zero, ← zpow_add₀ two_ne_zero]
    exact zpow_le_zpow_right₀ one_le_two (by push_cast; omega)
  have hpe : (0 : ℚ) < 2 ^ e := by positivity
  constructor
  · have hm' : (m : ℚ) < 2 ^ (b + 1) := by exact_mod_cast hhi
    have hlt : (n : ℚ) * 2 ^ q < (2 ^ (mb + 1) + 1) * 2 ^ q := by nlinarith
    have : (n : ℚ) < 2 ^ (mb + 1) + 1 := lt_of_mul_lt_mul_right hlt hsp.le
    exact Nat.lt_succ_iff.mp (by exact_mod_cast this)
  · rcases le_or_gt (e + b - mb) (1 - bias - mb) with h | h
    · left; omega
    · right
      have heq : ((2 : ℚ) ^ b) * 2 ^ e = 2 ^ mb * 2 ^ q := by
        rw [← zpow_natCast, ← zpow_natCast, ← zpow_add₀ two_ne_zero, ← zpow_add₀ two_ne_zero]
        congr 1; omega
      have hm' : (2 : ℚ) ^ b ≤ m := by exact_mod_cast hlo
      have hlt : (2 ^ mb : ℚ) * 2 ^ q < (n + 1) * 2 ^ q := by nlinarith
      have : (2 ^ mb : ℚ) < n + 1 := lt_of_mul_lt_mul_right hlt hsp.le
      exact Nat.lt_succ_iff.mp (by exact_mod_cast this)

theorem toMax_iff (f : Fmt) (rm : Rnd) (sat s : Bool) :
    (sat || f == .e4m3 || match rm with | .rne => false | .rz => true | .ru => s | .rd => !s) = true ↔ ToMax f rm sat s := by
  unfold ToMax
  cases rm <;> cases s <;> simp

theorem overflowEnc_toMax {f : Fmt} {rm : Rnd} {sat s : Bool} (eb mb : Nat) (h : ToMax f rm sat s) :
    overflowEnc f eb mb rm sat s = withSign eb mb s (maxEnc f) :=
  congrArg (withSign eb mb s) (if_pos ((toMax_iff f rm sat s).mpr h))

theorem overflowEnc_infinity {f : Fmt} {rm : Rnd} {sat s : Bool} (eb mb : Nat) (h : ¬ToMax f rm sat s) :
    overflowEnc f eb mb rm sat s = withSign eb mb s (2 ^ mb * (2 ^ eb - 1)) :=
  congrArg (withSign eb mb s) (if_neg ((toMax_iff f rm sat s).not.mpr h))

/-- An infinity's encoding (R71). -/
theorem decodeNum_infinity {f : Fmt} {eb mb : Nat} {bias : Int} (hf : fmtFloat f = some (eb, mb, bias)) (h4 : f ≠ .e4m3) (s : Bool) :
    decodeNum f (BitVec.ofNat 32 (withSign eb mb s (2 ^ mb * (2 ^ eb - 1)))).toNat = .inf s := by
  cases f <;> cases hf
  case e4m3 => exact absurd rfl h4
  all_goals cases s <;> rfl

/-- Round on a finite number that is not zero: its units of the spacing and their encoding, and the flags (R73, R74, R77). -/
theorem round_rule {f : Fmt} {eb mb : Nat} {bias : Int} (hf : fmtFloat f = some (eb, mb,
  bias)) (rm : Rnd) (sat s : Bool) {m : Nat} {e : Int} {M : Nat}
    {E : Int} (hm : m ≠ 0) (hmax : decodeNum f (maxEnc f) = .fin false M E) :
    let r := round f rm sat false (.fin s m e)
    let sp : ℚ := 2 ^ unitExp mb bias m e
    ∃ n : Nat, RoundsTo rm s (dyadic false m e) sp n ∧ (r.overflow = true ↔ dyadic false M E < n * sp) ∧
      (r.overflow = false → ∃ k l, decodeNum f r.enc.toNat = .fin s k l ∧ dyadic false k l = n * sp ∧
        (r.inexact = true ↔ n * sp ≠ dyadic false m e) ∧ (r.underflow = true ↔ r.inexact = true ∧ n * sp < 2 ^ (1 - bias)) ∧ r.saturated = false) ∧
      (r.overflow = true → r.inexact = true ∧ r.underflow = false ∧ (r.saturated = true ↔ sat = true ∨ f = .e4m3) ∧
        (ToMax f rm sat s → decodeNum f r.enc.toNat = .fin s M E) ∧ (¬ToMax f rm sat s → decodeNum f r.enc.toNat = .inf s)) := by
  intro r
  have hr : r = floatResult f eb mb rm sat false s ((unitExp mb bias m e - (1 - bias - mb)).toNat * 2 ^ mb +
      (unitsOf rm s m e (unitExp mb bias m e)).1) (unitsOf rm s m e (unitExp mb bias m e)).2 := by
    rw [← roundFloat_eq]; exact round_fin hf rm sat false s hm e
  have hform := unitsOf_form rm s hm e mb bias
  obtain ⟨hround, hrest⟩ := unitsOf_rule rm s m e (unitExp mb bias m e)
  have hq : 1 - bias - mb ≤ unitExp mb bias m e := le_max_right _ _
  clear_value r
  generalize unitExp mb bias m e = q at *
  intro sp
  generalize (unitsOf rm s m e q).1 = n at *
  generalize (unitsOf rm s m e q).2 = rest at *
  obtain ⟨k, hk⟩ : ∃ k : Nat, k = (q - (1 - bias - mb)).toNat := ⟨_, rfl⟩
  rw [← hk] at hr hform
  have hqk : q = 1 - bias - mb + k := by omega
  obtain ⟨K, N, hKN, hN, hN', hmaxlt, h32, -⟩ := maxEnc_form hf
  -- the largest finite value
  have hM : dyadic false M E = N * 2 ^ (1 - bias - mb + K) ∧ ∀ s, decodeNum f (withSign eb mb s (maxEnc f)) = .fin s M E := by
    obtain ⟨m', l', hval, hdy⟩ := floatValue_form (k := K) (n := N) ⟨hN'.le, .inr hN⟩ bias false
    rw [← hKN, ← decodeNum_withSign hf false le_rfl, withSign, if_neg Bool.false_ne_true, hmax] at hval
    cases hval
    refine ⟨hdy, fun s => ?_⟩
    have h1 := decodeNum_withSign hf s (le_refl (maxEnc f))
    have h0 := decodeNum_withSign hf false (le_refl (maxEnc f))
    rw [withSign, if_neg Bool.false_ne_true, hmax] at h0
    rw [h1]
    simp only [floatValue, XVal.fin.injEq] at h0 ⊢
    exact ⟨trivial, h0.2.1.symm, h0.2.2.symm⟩
  obtain ⟨hMval, hMdec⟩ := hM
  have hcmp : maxEnc f < k * 2 ^ mb + n ↔ dyadic false M E < n * sp := by
    have hb : (0 : ℚ) < 2 ^ (1 - bias - mb) := by positivity
    rw [hKN, encForm_lt_iff hform hN hN', hMval, show sp = 2 ^ (1 - bias - mb : Int) * 2 ^ k by
      simp only [sp]; rw [hqk, zpow_add₀ two_ne_zero, zpow_natCast], zpow_add₀ two_ne_zero, zpow_natCast,
      mul_left_comm, mul_left_comm (n : ℚ), mul_lt_mul_iff_right₀ hb]
  refine ⟨n, hround, ?_⟩
  rw [hr, floatResult]
  by_cases hov : maxEnc f < k * 2 ^ mb + n
  · rw [if_pos hov]
    refine ⟨iff_of_true rfl (hcmp.mp hov), fun h => absurd h (by simp), fun _ => ⟨rfl, rfl, by simp, fun hto => ?_, fun hto => ?_⟩⟩
    · dsimp only
      rw [overflowEnc_toMax eb mb hto, withSign_toNat s hmaxlt h32]
      exact hMdec s
    · have h4 : f ≠ .e4m3 := fun h => hto (.inr (.inl h))
      dsimp only
      rw [overflowEnc_infinity eb mb hto]
      exact decodeNum_infinity hf h4 s
  · have hlt : k * 2 ^ mb + n < 2 ^ (eb + mb) := (not_lt.mp hov).trans_lt hmaxlt
    rw [if_neg hov, if_neg (by simp)]
    refine ⟨iff_of_false Bool.false_ne_true (hcmp.not.mp hov), fun _ => ?_, fun h => absurd h (by simp)⟩
    obtain ⟨m', l', hval, hdy⟩ := floatValue_form hform bias s
    refine ⟨m', l', ?_, ?_, hrest, ?_, rfl⟩
    · dsimp only
      rw [withSign_toNat s hlt h32, decodeNum_withSign hf s (not_lt.mp hov), hval]
    · rw [hdy, ← hqk]
    · have hsub : k * 2 ^ mb + n < 2 ^ mb ↔ (n : ℚ) * sp < 2 ^ (1 - bias) := by
        have hb : (0 : ℚ) < 2 ^ (1 - bias - mb) := by positivity
        have hmb : (2 : ℚ) ^ (1 - bias) = 2 ^ (1 - bias - mb) * (2 ^ mb : Nat) := by
          rw [Nat.cast_pow, Nat.cast_ofNat, ← zpow_natCast, ← zpow_add₀ two_ne_zero]; congr 1; ring
        have hnk : (n : ℚ) * sp = 2 ^ (1 - bias - mb) * (n * 2 ^ k : Nat) := by
          simp only [sp]; rw [hqk, zpow_add₀ two_ne_zero, zpow_natCast]; push_cast; ring
        rw [hnk, hmb, mul_lt_mul_iff_right₀ hb, Nat.cast_lt]
        obtain ⟨-, rfl | hge⟩ := hform
        · simp
        · refine iff_of_false (by omega) (not_lt.mpr (hge.trans (Nat.le_mul_of_pos_right _ (Nat.two_pow_pos k))))
      rw [← hsub]
      simp

/-! ## Encodings round to themselves (R71, R73) -/

theorem bitLen_le {n k : Nat} (h : n < 2 ^ k) : bitLen n ≤ k := by
  unfold bitLen
  split
  case isTrue => exact Nat.zero_le k
  case isFalse h0 => exact (Nat.log2_lt h0).mpr h

theorem bitLen_of_form {n k : Nat} (hlo : 2 ^ k ≤ n) (hhi : n < 2 ^ (k + 1)) : bitLen n = k + 1 := by
  have h0 : n ≠ 0 := by have := Nat.two_pow_pos k; omega
  rw [bitLen, if_neg h0, (Nat.log2_eq_iff h0).mpr ⟨hlo, hhi⟩]

/-- The value of an encoding that is finite is a whole number of its own spacing's units. -/
theorem unitExp_floatValue {mb ex frac : Nat} (hfrac : frac < 2 ^ mb) (bias : Int) :
    unitExp mb bias ((if ex = 0 then 0 else 1) * 2 ^ mb + frac) ((max ex 1 : Nat) - bias - mb) = (max ex 1 : Nat) - bias - mb := by
  unfold unitExp
  split
  case isTrue h =>
    have := bitLen_le hfrac
    rw [zero_mul, zero_add, h]
    omega
  case isFalse h =>
    have := bitLen_of_form (n := 1 * 2 ^ mb + frac) (k := mb) (by omega) (by rw [pow_succ]; omega)
    rw [this]
    omega

/-- An encoding is its sign over its exponent and its fraction. -/
theorem eq_withSign_fields {eb mb x : Nat} (hx : x < 2 ^ (1 + eb + mb)) :
    x = withSign eb mb (x.testBit (eb + mb)) (x / 2 ^ mb % 2 ^ eb * 2 ^ mb + x % 2 ^ mb) := by
  have hlow : x / 2 ^ mb % 2 ^ eb * 2 ^ mb + x % 2 ^ mb = x % 2 ^ (eb + mb) := by
    rw [Nat.add_comm eb mb, pow_add, Nat.mod_mul]; ring
  have htop : x / 2 ^ (eb + mb) < 2 := Nat.div_lt_of_lt_mul (by rw [← pow_succ]; convert hx using 2; omega)
  have hdm := Nat.div_add_mod x (2 ^ (eb + mb))
  rw [hlow, withSign, Nat.testBit_eq_decide_div_mod_eq]
  generalize x / 2 ^ (eb + mb) = t at *
  obtain rfl | rfl : t = 0 ∨ t = 1 := by omega
  · simpa using hdm.symm
  · simp; omega

theorem fmtBits_of_float {f : Fmt} {eb mb : Nat} {bias : Int} (hf : fmtFloat f = some (eb, mb, bias)) : fmtBits f = 1 + eb + mb := by
  cases f <;> cases hf <;> rfl

/-- A finite exponent and fraction lie at or below the largest finite value. -/
theorem fields_le_maxEnc {f : Fmt} {eb mb : Nat} {bias : Int} (hf : fmtFloat f = some (eb, mb, bias)) {ex frac : Nat} (hex : ex < 2 ^ eb)
    (hfrac : frac < 2 ^ mb) (hinf : ¬(ex = 2 ^ eb - 1 ∧ f ≠ .e4m3)) (hnan : ¬(ex = 15 ∧ frac = 7 ∧ f = .e4m3)) : ex * 2 ^ mb + frac ≤ maxEnc f := by
  cases f <;> cases hf <;> simp_all [maxEnc] <;> omega

theorem round_floatValue {f : Fmt} {eb mb : Nat} {bias : Int} (hf : fmtFloat f = some (eb, mb, bias)) (rm : Rnd) (sat s : Bool) {ex frac : Nat}
    (hex : ex < 2 ^ eb) (hfrac : frac < 2 ^ mb) (hinf : ¬(ex = 2 ^ eb - 1 ∧ f ≠ .e4m3)) (hnan : ¬(ex = 15 ∧ frac = 7 ∧ f = .e4m3)) :
    round f rm sat false (floatValue mb bias s ex (if ex = 0 then 0 else 1) frac) = { enc := BitVec.ofNat 32 (withSign eb mb s (ex * 2 ^ mb + frac)) } := by
  have hmax := fields_le_maxEnc hf hex hfrac hinf hnan
  unfold floatValue
  by_cases hm : (if ex = 0 then 0 else 1) * 2 ^ mb + frac = 0
  · obtain ⟨rfl, rfl⟩ : ex = 0 ∧ frac = 0 := by
      have := Nat.two_pow_pos mb
      split at hm <;> omega
    rw [hm]
    simp only [round, hf, zero_mul, add_zero]
  · have hunit := unitExp_floatValue (ex := ex) hfrac bias
    rw [round_fin hf rm sat false s hm, roundFloat_eq, hunit]
    have hk : (((max ex 1 : Nat) : Int) - bias - mb - (1 - bias - mb)).toNat * 2 ^ mb + ((if ex = 0 then 0 else 1) * 2 ^ mb + frac) = ex * 2 ^ mb + frac := by
      split
      case isTrue h => simp [h]
      case isFalse h =>
        rw [show (((max ex 1 : Nat) : Int) - bias - mb - (1 - bias - mb)).toNat = ex - 1 by omega, ← add_assoc, ← add_mul,
          Nat.sub_add_cancel (by omega)]
    simp only [unitsOf, le_refl, if_true, sub_self, Int.toNat_zero, pow_zero, mul_one, hk]
    rw [floatResult, if_neg (not_lt.mpr hmax), if_neg (by simp)]
    rfl

theorem round_infinity {f : Fmt} {eb mb : Nat} {bias : Int} (hf : fmtFloat f = some (eb, mb, bias)) (h4 : f ≠ .e4m3) (rm : Rnd) (sat ftz s : Bool) :
    round f rm sat ftz (.inf s) = { enc := BitVec.ofNat 32 (withSign eb mb s (2 ^ mb * (2 ^ eb - 1))) } := by
  simp only [round, hf, if_neg h4]

theorem round_decodeNum {f : Fmt} {eb mb : Nat} {bias : Int} (hf : fmtFloat f = some (eb, mb, bias)) (rm : Rnd) (sat : Bool) {x : Nat}
    (hx : x < 2 ^ fmtBits f) (hnan : (decodeNum f x).isNan = false) : round f rm sat false (decodeNum f x) = { enc := BitVec.ofNat 32 x } := by
  have hsplit := eq_withSign_fields (eb := eb) (mb := mb) (by rwa [← fmtBits_of_float hf])
  have hex : x / 2 ^ mb % 2 ^ eb < 2 ^ eb := Nat.mod_lt _ (Nat.two_pow_pos eb)
  have hfrac : x % 2 ^ mb < 2 ^ mb := Nat.mod_lt _ (Nat.two_pow_pos mb)
  have hdec : decodeNum f x = decodeFloat f eb mb bias x := by rw [decodeNum, hf]
  rw [hdec] at hnan ⊢
  unfold decodeFloat at hnan ⊢
  dsimp only at hnan ⊢
  split
  case isTrue hinf =>
    rw [if_pos hinf] at hnan
    obtain ⟨hexp, h4⟩ := hinf
    split
    case isTrue h0 =>
      rw [round_infinity hf h4]
      conv_rhs => rw [hsplit, hexp, h0, add_zero, mul_comm]
    case isFalse h0 => rw [if_neg h0] at hnan; cases hnan
  case isFalse hinf =>
    rw [if_neg hinf] at hnan
    split
    case isTrue h4 => rw [if_pos h4] at hnan; cases hnan
    case isFalse h4 =>
      rw [round_floatValue hf rm sat _ hex hfrac hinf h4, ← hsplit]

/-! ## NaN, infinities and subnormal results (R72, R74, R75) -/

/-- Flushing an FP32 encoding by its magnitude (R75). -/
theorem flushF32_withSign (s : Bool) {x : Nat} (hx : x < 2 ^ 31) :
    flushF32 true (.ofNat 32 (withSign 8 23 s x)) = .ofNat 32 (withSign 8 23 s (if x < 2 ^ 23 then 0 else x)) := by
  have hval := withSign_toNat (eb := 8) (mb := 23) s hx (by decide)
  have hmag : withSign 8 23 s x % 2 ^ 31 = x := by cases s <;> simp only [withSign, if_true, Bool.false_eq_true, if_false] <;> omega
  rw [flushF32_eq, hval, hmag]
  by_cases hsub : x < 2 ^ 23
  · rw [if_pos ⟨rfl, hsub⟩, if_pos hsub]
    have hzero := withSign_toNat (eb := 8) (mb := 23) s (x := 0) (by decide) (by decide)
    obtain ⟨hbit, -⟩ := withSign_fields 8 23 s hx
    refine BitVec.eq_of_toNat_eq ?_
    rw [BitVec.toNat_and, hval, hzero]
    show withSign 8 23 s x &&& 2 ^ 31 = _
    rw [Nat.and_two_pow, hbit]
    cases s <;> rfl
  · rw [if_neg (fun h => hsub h.2), if_neg hsub]

/-- FTZ turns a subnormal FP32 result into a zero of its sign (R75). -/
theorem floatResult_ftz (rm : Rnd) (sat s : Bool) (enc : Nat) (rest : Bool) :
    (floatResult .fp32 8 23 rm sat true s enc rest).enc = flushF32 true (floatResult .fp32 8 23 rm sat false s enc rest).enc := by
  unfold floatResult
  by_cases hov : maxEnc .fp32 < enc
  · rw [if_pos hov, if_pos hov]
    dsimp only
    by_cases hto : ToMax .fp32 rm sat s
    · rw [overflowEnc_toMax 8 23 hto, flushF32_withSign s (by decide)]; rfl
    · rw [overflowEnc_infinity 8 23 hto, flushF32_withSign s (by decide)]; rfl
  · have hlt : enc < 2 ^ 31 := (not_lt.mp hov).trans_lt (by decide)
    rw [if_neg hov, if_neg hov, if_neg (c := _ ∧ false = true ∧ _) (by simp)]
    dsimp only
    rw [flushF32_withSign s hlt]
    by_cases hsub : enc < 2 ^ 23
    · rw [if_pos ⟨hsub, rfl, rfl⟩, if_pos hsub]
    · rw [if_neg (fun h => hsub h.1), if_neg hsub]

theorem round_ftz (rm : Rnd) (sat : Bool) (x : XVal) : (round .fp32 rm sat true x).enc = flushF32 true (round .fp32 rm sat false x).enc := by
  have hf : fmtFloat .fp32 = some (8, 23, 127) := rfl
  match x with
  | .nan _ => rfl
  | .inf s => rw [round_infinity hf (by decide), round_infinity hf (by decide), flushF32_withSign s (by decide)]; rfl
  | .fin s 0 _ => exact (flushF32_withSign s (x := 0) (by decide)).symm
  | .fin s (m + 1) e =>
    rw [round_fin hf rm sat true s m.succ_ne_zero, round_fin hf rm sat false s m.succ_ne_zero, roundFloat_eq, roundFloat_eq, floatResult_ftz]

/-- Settles O5: Round by the units of its spacing, encodings that round to themselves, and the special values of Table 03-4. -/
theorem rounding : Obligations.Rounding := by
  refine ⟨fun f hf rm sat x hx hnan => ?_, fun f eb mb bias hf rm sat s m e M E hm hmax => round_rule hf rm sat s hm hmax,
    fun rm sat ftz s made => ?_⟩
  · obtain ⟨⟨eb, mb, bias⟩, hff⟩ : ∃ y, fmtFloat f = some y := by
      simp only [List.mem_cons, List.not_mem_nil, or_false] at hf
      rcases hf with rfl | rfl | rfl | rfl | rfl <;> exact ⟨_, rfl⟩
    exact round_decodeNum hff rm sat hx hnan
  · refine ⟨rfl, rfl, rfl, rfl, rfl, fun f hf => ?_, ?_, fun x => ?_⟩
    · have h4 : f ≠ .e4m3 := by rintro rfl; simp at hf
      obtain ⟨⟨eb, mb, bias⟩, hff⟩ : ∃ y, fmtFloat f = some y := by
        simp only [List.mem_cons, List.not_mem_nil, or_false] at hf
        rcases hf with rfl | rfl | rfl | rfl <;> exact ⟨_, rfl⟩
      rw [round_infinity hff h4]
      exact decodeNum_infinity hff h4 s
    · cases sat <;> cases s <;> rfl
    · rw [round_ftz, flushF32_eq]
      simp

end Sys2Proof.Machine

/-! PROOFS. Rows 0x04 to 0x06: one Round of the exact result, minima, compares, classes and packed halves (R75, R76, R78, R100 to R102). -/

namespace Sys2Proof.Machine

open Host

/-! ## A word that issues has passed its checks (Table 02-4) -/

theorem fieldOk_of_precheck {s : State} {tk : Nat} {t : Team} {i : Instr} {h : Hdr} (hp : s.precheck tk t i h = none) : i.fieldOk = true := by
  unfold State.precheck at hp
  dsimp only at hp
  split at hp
  case h_1 => cases hp
  case h_2 =>
    split at hp; · cases hp
    split at hp; · cases hp
    split at hp; · cases hp
    split at hp; · cases hp
    split at hp
    case isTrue => cases hp
    case isFalse hf =>
      simp only [Bool.or_eq_true, Bool.not_eq_true', not_or, Bool.not_eq_false] at hf
      exact hf.1

theorem pairOk_of_precheck {s : State} {tk : Nat} {t : Team} {i : Instr} {h : Hdr} (hp : s.precheck tk t i h = none) : i.pairOk = true := by
  unfold State.precheck at hp
  dsimp only at hp
  split at hp
  case h_1 => cases hp
  case h_2 =>
    split at hp; · cases hp
    split at hp; · cases hp
    split at hp; · cases hp
    split at hp; · cases hp
    split at hp; · cases hp
    split at hp
    case isTrue => cases hp
    case isFalse hf => simpa using hf

/-- A vector word whose rule rests on the field check that it has passed. -/
theorem vecOp_of_fieldOk {i : Instr} {h : Hdr} {d : BitVec 8} {lat : Nat} {g : Team → Mask → Nat → List (RegId × Word)}
    {P : Team → Nat → Lane32 → Prop} (he : ∀ s, exec i s = issue i h (vec h lat g) s)
    (hg : i.fieldOk = true → ∀ t, ∀ L ∈ t.act h, ∃ x, g t (t.lanesFor h) L = toV d x ∧ P t L x) : VecOp i h d P := by
  intro s t hi
  have hi' := hi
  obtain ⟨-, hpre, -⟩ := hi'
  exact vecOp_of_exec he (hg (fieldOk_of_precheck hpre)) s t hi

/-! ## Exact products, scaling and order (R76, R78, R101) -/

theorem dyadic_mul (s u : Bool) (m n : Nat) (e f : Int) : dyadic (s != u) (m * n) (e + f) = dyadic s m e * dyadic u n f := by
  unfold dyadic
  rw [zpow_add₀ two_ne_zero]
  cases s <;> cases u <;> push_cast <;> simp <;> ring

theorem productOf_mul (a b : XVal) : ProductOf a b (a.mul b) := by
  match a, b with
  | .nan _, .nan _ | .nan _, .inf _ | .nan _, .fin _ _ _ | .inf _, .nan _ | .fin _ _ _, .nan _ => rfl
  | .inf _, .inf _ => rfl
  | .inf _, .fin _ n _ => by_cases h : n = 0 <;> simp [ProductOf, XVal.mul, h]
  | .fin _ m _, .inf _ => by_cases h : m = 0 <;> simp [ProductOf, XVal.mul, h]
  | .fin s m e, .fin u n f => exact ⟨m * n, e + f, rfl, dyadic_mul s u m n e f⟩

theorem scale_rule (k : Int) (p : XVal) :
    (∀ z m e, p = .fin z m e → p.scale k = .fin z m (e + k)) ∧ ((∀ z m e, p ≠ .fin z m e) → p.scale k = p) := by
  cases p with
  | nan _ | inf _ => exact ⟨fun _ _ _ h => XVal.noConfusion h, fun _ => rfl⟩
  | fin s m e => exact ⟨fun z k l h => by cases h; rfl, fun h => absurd rfl (h s m e)⟩

/-- The order of two finite values is that of their counts in a common unit. -/
theorem finAt_lt_iff (s u : Bool) (m n : Nat) (e f : Int) :
    finAt s m e (min e f) < finAt u n f (min e f) ↔ dyadic s m e < dyadic u n f := by
  have hpos : (0 : ℚ) < 2 ^ min e f := by positivity
  rw [← finAt_mul_zpow s m (.inr (min_le_left e f)), ← finAt_mul_zpow u n (.inr (min_le_right e f)), mul_lt_mul_iff_left₀ hpos]
  norm_cast

theorem xvalCompare_eq_lt_iff {a b : XVal} (ha : a.isNan = false) (hb : b.isNan = false) : xvalCompare a b = .lt ↔ xLt a b := by
  match a, b with
  | .inf p, .inf q => cases p <;> cases q <;> simp [xvalCompare, xLt]
  | .inf p, .fin _ _ _ => cases p <;> simp [xvalCompare, xLt]
  | .fin _ _ _, .inf q => cases q <;> simp [xvalCompare, xLt]
  | .fin s m e, .fin u n f => rw [xvalCompare, compare_lt_iff_lt, finAt_lt_iff]; rfl

theorem xvalCompare_eq_gt_iff {a b : XVal} (ha : a.isNan = false) (hb : b.isNan = false) : xvalCompare a b = .gt ↔ xLt b a := by
  match a, b with
  | .inf p, .inf q => cases p <;> cases q <;> simp [xvalCompare, xLt]
  | .inf p, .fin _ _ _ => cases p <;> simp [xvalCompare, xLt]
  | .fin _ _ _, .inf q => cases q <;> simp [xvalCompare, xLt]
  | .fin s m e, .fin u n f => rw [xvalCompare, compare_gt_iff_gt, min_comm, finAt_lt_iff]; rfl

theorem fcmpCond_eq {a b : XVal} (ha : a.isNan = false) (hb : b.isNan = false) (c : Nat) : fcmpCond c a b =
    match c with
    | 0 => xvalCompare a b == .eq | 1 => xvalCompare a b != .eq | 2 => xvalCompare a b == .lt | 3 => xvalCompare a b != .gt
    | 4 => xvalCompare a b == .gt | 5 => xvalCompare a b != .lt | 6 => true | _ => false := by
  match a, b with
  | .inf _, .inf _ | .inf _, .fin _ _ _ | .fin _ _ _, .inf _ | .fin _ _ _, .fin _ _ _ => rfl

theorem fcmpCond_nan {a b : XVal} (h : a.isNan = true ∨ b.isNan = true) (c : Nat) : fcmpCond c a b = (c == 1 || c == 7) := by
  cases a <;> cases b <;> simp_all [fcmpCond, XVal.isNan]

theorem fcmpCond_iff (c : Nat) (a b : XVal) : fcmpCond c a b = true ↔ FcondRule c a b := by
  unfold FcondRule
  by_cases h : a.isNan = true ∨ b.isNan = true
  · rw [fcmpCond_nan h, if_pos (by simpa using h)]; simp
  simp only [not_or, Bool.not_eq_true] at h
  obtain ⟨ha, hb⟩ := h
  have hlt := xvalCompare_eq_lt_iff ha hb
  have hgt := xvalCompare_eq_gt_iff ha hb
  rw [fcmpCond_eq ha hb, if_neg (by simp [ha, hb]), ← hlt, ← hgt]
  generalize xvalCompare a b = o
  split <;> cases o <;> simp

/-! ## Classes (R101) -/

/-- The mask of an encoding's class: one bit, by its sign, its exponent field and its fraction (R101). -/
theorem fclass_rule {fm : Fmt} {eb mb : Nat} {bias : Int} (hf : fmtFloat fm = some (eb, mb, bias)) (y : Nat) :
    let normal := y / 2 ^ mb % 2 ^ eb ≠ 0
    let x : Lane32 := .ofNat 32 (fclassMask fm y)
    match decodeNum fm y with
    | .nan _ => x = 2 ^ 8
    | .inf s => x = if s then 2 ^ 0 else 2 ^ 7
    | .fin s k _ => if k = 0 then x = (if s then 2 ^ 3 else 2 ^ 4)
        else (normal → x = if s then 2 ^ 1 else 2 ^ 6) ∧ (¬normal → x = if s then 2 ^ 2 else 2 ^ 5) := by
  intro normal x
  simp only [x, normal, decodeNum, fclassMask, hf]
  cases decodeFloat fm eb mb bias y with
  | nan _ => rfl
  | inf s => cases s <;> rfl
  | fin s k e =>
    cases k with
    | zero => cases s <;> rfl
    | succ k =>
      dsimp only
      rw [if_neg k.succ_ne_zero]
      by_cases hsub : y / 2 ^ mb % 2 ^ eb = 0
      · rw [hsub]; exact ⟨fun h => absurd rfl h, fun _ => by cases s <;> rfl⟩
      · refine ⟨fun _ => ?_, fun h => absurd hsub h⟩
        rw [beq_eq_false_iff_ne.mpr hsub]
        cases s <;> rfl

/-! ## Halves of a register (R102) -/

/-- The format of a packed-half word's type field. -/
theorem fmtOf_half {f : VA} (ht : (f.t == 1 || f.t == 2) = true) : (fmtOf f.t.toNat).getD .bf16 = if f.t = 1 then .bf16 else .fp16 := by
  simp only [Bool.or_eq_true, beq_iff_eq] at ht
  rcases ht with ht | ht <;> rw [ht] <;> rfl

theorem halfVal_eq {f : VA} (ht : (f.t == 1 || f.t == 2) = true) (n : Bool) (i : Nat) (x : Lane32) : halfVal f n i x = halfOf f n i x := by
  simp only [halfVal, halfOf, fmtOf_half ht]
  rfl

theorem withSign_lt {eb mb x : Nat} (s : Bool) (hx : x < 2 ^ (eb + mb)) : withSign eb mb s x < 2 ^ (1 + eb + mb) := by
  rw [show 1 + eb + mb = eb + mb + 1 by omega, pow_succ]
  unfold withSign
  split <;> omega

theorem infinity_lt (eb mb : Nat) : 2 ^ mb * (2 ^ eb - 1) < 2 ^ (eb + mb) := by
  rw [pow_add, Nat.mul_comm]
  exact Nat.mul_lt_mul_of_pos_right (Nat.sub_lt (Nat.two_pow_pos eb) one_pos) (Nat.two_pow_pos mb)

theorem floatResult_lt {f : Fmt} {eb mb : Nat} {bias : Int} (hf : fmtFloat f = some (eb, mb, bias)) (rm : Rnd) (sat ftz s : Bool) (enc : Nat)
    (rest : Bool) : (floatResult f eb mb rm sat ftz s enc rest).enc.toNat < 2 ^ fmtBits f := by
  obtain ⟨-, -, -, -, -, hmax, h32, -⟩ := maxEnc_form hf
  have hlt {x : Nat} (hx : x < 2 ^ (eb + mb)) : (BitVec.ofNat 32 (withSign eb mb s x)).toNat < 2 ^ fmtBits f := by
    rw [withSign_toNat s hx h32, fmtBits_of_float hf]
    exact withSign_lt s hx
  unfold floatResult
  by_cases hov : maxEnc f < enc
  · rw [if_pos hov]
    dsimp only
    by_cases hto : ToMax f rm sat s
    · rw [overflowEnc_toMax eb mb hto]; exact hlt hmax
    · rw [overflowEnc_infinity eb mb hto]; exact hlt (infinity_lt eb mb)
  · rw [if_neg hov]
    split
    · exact hlt (Nat.two_pow_pos _)
    · exact hlt ((not_lt.mp hov).trans_lt hmax)

theorem nanEnc_lt {f : Fmt} {eb mb : Nat} {bias : Int} (hf : fmtFloat f = some (eb, mb, bias)) : nanEnc f < 2 ^ fmtBits f := by
  cases f <;> cases hf <;> decide

/-- Round's encoding fits its format. -/
theorem round_lt {f : Fmt} {eb mb : Nat} {bias : Int} (hf : fmtFloat f = some (eb, mb, bias)) (rm : Rnd) (sat ftz : Bool) (v : XVal) :
    (round f rm sat ftz v).enc.toNat < 2 ^ fmtBits f := by
  obtain ⟨-, -, -, -, -, hmax, -, -⟩ := maxEnc_form hf
  have hnat {k : Nat} (hk : k < 2 ^ fmtBits f) : (BitVec.ofNat 32 k).toNat < 2 ^ fmtBits f := (Nat.mod_le _ _).trans_lt hk
  have hsign {x : Nat} (s : Bool) (hx : x < 2 ^ (eb + mb)) : (BitVec.ofNat 32 (withSign eb mb s x)).toNat < 2 ^ fmtBits f :=
    hnat (by rw [fmtBits_of_float hf]; exact withSign_lt s hx)
  match v with
  | .fin s (m + 1) e => rw [round_fin hf rm sat ftz s m.succ_ne_zero, roundFloat_eq]; exact floatResult_lt hf ..
  | .fin s 0 _ => simp only [round, hf]; exact hsign s (Nat.two_pow_pos _)
  | .nan _ => simp only [round, hf]; exact hnat (nanEnc_lt hf)
  | .inf s =>
    simp only [round, hf]
    split
    · split
      · exact hsign s hmax
      · exact hnat (nanEnc_lt hf)
    · exact hsign s (infinity_lt eb mb)

/-- The halves of a packed register are those that it was packed from (R102). -/
theorem packHalves_half {f : VA} (ht : (f.t == 1 || f.t == 2) = true) (g : Nat → XVal) {i : Nat} (hi : i < 2) :
    (packHalves f g).toNat / 2 ^ (16 * i) % 2 ^ 16 =
      (round (if f.t = 1 then .bf16 else .fp16) (rndOf f.rm) f.sat false (g i)).enc.toNat := by
  have hlt (i : Nat) : (round (if f.t = 1 then .bf16 else .fp16) (rndOf f.rm) f.sat false (g i)).enc.toNat < 2 ^ 16 := by
    split
    · exact round_lt (f := .bf16) rfl ..
    · exact round_lt (f := .fp16) rfl ..
  have h0 := hlt 0
  have h1 := hlt 1
  have hval : (packHalves f g).toNat = (round (if f.t = 1 then .bf16 else .fp16) (rndOf f.rm) f.sat false (g 1)).enc.toNat * 2 ^ 16 +
      (round (if f.t = 1 then .bf16 else .fp16) (rndOf f.rm) f.sat false (g 0)).enc.toNat := by
    simp only [packHalves, fmtOf_half ht, rmOf_eq]
    rw [BitVec.toNat_append, ← Nat.shiftLeft_add_eq_or_of_lt (BitVec.isLt _), Nat.shiftLeft_eq, BitVec.toNat_setWidth, BitVec.toNat_setWidth,
      Nat.mod_eq_of_lt h0, Nat.mod_eq_of_lt h1]
  rw [hval]
  obtain rfl | rfl : i = 0 ∨ i = 1 := by omega
  · omega
  · omega

/-! ## Operands that a read leaves open: the exponent of a flushed zero -/

/-- Two readings of one operand are equal but for the exponent of a zero. -/
theorem ReadsAs.eq_or_zero {t : Team} {n : Bool} {x : Lane32} {p p' : XVal} (h : ReadsAs t n x p) (h' : ReadsAs t n x p') :
    p = p' ∨ ∃ s e e', p = .fin s 0 e ∧ p' = .fin s 0 e' := by
  unfold ReadsAs at h h'
  generalize (if n = true then x ^^^ 0x80000000 else x) = y at h h'
  dsimp only at h h'
  split at h
  case isTrue hz =>
    rw [if_pos hz] at h'
    obtain ⟨e, he⟩ := h
    obtain ⟨e', he'⟩ := h'
    exact .inr ⟨_, e, e', he, he'⟩
  case isFalse hz => rw [if_neg hz] at h'; exact .inl (h.trans h'.symm)

theorem xLt_zero (s : Bool) (e e' : Int) (q : XVal) : (xLt (.fin s 0 e) q ↔ xLt (.fin s 0 e') q) ∧ (xLt q (.fin s 0 e) ↔ xLt q (.fin s 0 e')) := by
  cases q <;> simp [xLt, dyadic]

/-- FCMP's condition does not depend on how its operands were read. -/
theorem fcondRule_congr {t : Team} {n n' : Bool} {x y : Lane32} {p p' q q' : XVal} (c : Nat) (hp : ReadsAs t n x p) (hp' : ReadsAs t n x p')
    (hq : ReadsAs t n' y q) (hq' : ReadsAs t n' y q') : FcondRule c p q ↔ FcondRule c p' q' := by
  have hl (p p' q : XVal) (h : p = p' ∨ ∃ s e e', p = .fin s 0 e ∧ p' = .fin s 0 e') : FcondRule c p q ↔ FcondRule c p' q := by
    rcases h with rfl | ⟨s, e, e', rfl, rfl⟩
    · rfl
    · unfold FcondRule
      obtain ⟨h1, h2⟩ := xLt_zero s e e' q
      rw [h1, h2]; rfl
  have hr (p q q' : XVal) (h : q = q' ∨ ∃ s e e', q = .fin s 0 e ∧ q' = .fin s 0 e') : FcondRule c p q ↔ FcondRule c p q' := by
    rcases h with rfl | ⟨s, e, e', rfl, rfl⟩
    · rfl
    · unfold FcondRule
      obtain ⟨h1, h2⟩ := xLt_zero s e e' p
      rw [h1, h2]; rfl
  exact (hl _ _ _ (hp.eq_or_zero hp')).trans (hr _ _ _ (hq.eq_or_zero hq'))

/-- A combination depends on its condition's truth alone. -/
theorem combRule_congr (k : Nat) {c c' p : Prop} (h : c ↔ c') : CombRule k c p ↔ CombRule k c' p := by rw [propext h]

/-! ## The words -/

/-- Settles O4: each word reads its operands, joins them exactly and rounds once. -/
theorem floatArithmetic : Obligations.FloatArithmetic := by
  intro h
  refine ⟨fun f => ?_, fun f => ?_, fun f => ?_, fun f => ?_, fun f => ?_, fun f => ?_⟩
  case refine_1 =>
    exact vecOp_of_exec (fun _ => rfl) fun t L _ => ⟨_, rfl, _, _, _, readsAs_opF .., readsAs_opF .., sumOf_add .., by rw [← rmOf_eq]; rfl⟩
  case refine_2 =>
    exact vecOp_of_exec (fun _ => rfl) fun t L _ => ⟨_, rfl, _, _, _, readsAs_opF .., readsAs_opF .., productOf_mul .., by rw [← rmOf_eq]; rfl⟩
  case refine_3 =>
    exact vecOp_of_exec (fun _ => rfl) fun t L _ => ⟨_, rfl, _, _, _, _, _, readsAs_opF .., readsAs_opF .., productOf_mul .., readsAs_opF ..,
      sumOf_add .., by rw [← rmOf_eq]; rfl⟩
  case refine_4 =>
    exact vecOp_of_exec (fun _ => rfl) fun t L _ => ⟨_, rfl, _, _, readsAs_opF .., (scale_rule _ _).1, (scale_rule _ _).2,
      by rw [← rmOf_eq]; rfl⟩
  case refine_5 =>
    exact vecOp_of_exec (fun _ => rfl) fun t L _ => ⟨_, rfl, _, _, _, readsAs_opF .., readsAs_opF .., sumOf_add .., rfl⟩
  case refine_6 =>
    exact vecOp_of_exec (fun _ => rfl) fun t L _ => ⟨_, rfl, _, _, _, readsAs_opF .., readsAs_opF .., productOf_mul .., rfl⟩

/-- Settles O6: minima and compares by the order of values, classes by their fields, packed halves by one Round each. -/
theorem floatSelectCompareAndPackedHalves : Obligations.FloatSelectCompareAndPackedHalves := by
  refine ⟨fun h => ⟨fun f => ?_, fun f => ?_, fun f => ?_, fun f => ?_, fun f => ?_, fun f => ?_⟩, fun h f => ⟨?_, ?_, ?_, ?_⟩⟩
  case refine_1 => exact vecOp_of_exec (fun _ => rfl) fun t L _ => ⟨_, rfl, minMaxRule_fminmax ..⟩
  case refine_2 => exact vecOp_of_exec (fun _ => rfl) fun t L _ => ⟨_, rfl, minMaxRule_fminmax ..⟩
  case refine_3 => exact vecOp_of_exec (fun _ => rfl) fun t L _ => ⟨_, rfl, minMaxRule_fminmax ..⟩
  case refine_4 => exact vecOp_of_exec (fun _ => rfl) fun t L _ => ⟨_, rfl, minMaxRule_fminmax ..⟩
  case refine_5 =>
    refine predOp_of_exec (fun _ => rfl) fun t L _ => ⟨_, rfl, ?_⟩
    rw [combine_iff _ (fcmpCond_iff _ _ _)]
    exact ⟨fun hc => ⟨_, _, readsAs_opF .., readsAs_opF .., hc⟩, fun ⟨p, q, hp, hq, hc⟩ =>
      (combRule_congr _ (fcondRule_congr _ (readsAs_opF ..) hp (readsAs_opF ..) hq)).mpr hc⟩
  case refine_6 =>
    refine vecOp_of_exec (fun _ => rfl) fun t L _ => ⟨_, rfl, fun fm eb mb bias hfm hf => ?_⟩
    rw [hfm, Option.getD_some]
    exact fclass_rule hf _
  case refine_7 =>
    refine vecOp_of_fieldOk (fun _ => rfl) fun hok t L _ => ⟨_, rfl, fun i hi => ?_⟩
    obtain ⟨ht, -⟩ := VA.ok_fields hok
    exact ⟨_, by rw [haddHalf, halfVal_eq ht, halfVal_eq ht, rmOf_eq]; exact sumOf_add .., packHalves_half ht _ hi⟩
  case refine_8 =>
    refine vecOp_of_fieldOk (fun _ => rfl) fun hok t L _ => ⟨_, rfl, fun i hi => ?_⟩
    obtain ⟨ht, -⟩ := VA.ok_fields hok
    exact ⟨_, by rw [hmulHalf, halfVal_eq ht, halfVal_eq ht]; exact productOf_mul .., packHalves_half ht _ hi⟩
  case refine_9 =>
    refine vecOp_of_fieldOk (fun _ => rfl) fun hok t L _ => ⟨_, rfl, fun i hi => ?_⟩
    obtain ⟨ht, -⟩ := VA.ok_fields hok
    exact ⟨_, ⟨hmulHalf t f L i, by rw [hmulHalf, halfVal_eq ht, halfVal_eq ht]; exact productOf_mul ..,
      by rw [hfmaHalf, halfVal_eq ht, rmOf_eq]; exact sumOf_add ..⟩, packHalves_half ht _ hi⟩
  case refine_10 =>
    refine vecOp_of_fieldOk (fun _ => rfl) fun hok t L _ => ⟨_, rfl, ?_⟩
    obtain ⟨ht, -⟩ := VA.ok_fields hok
    have hprod (i : Nat) : ProductOf (halfOf f (f.fl.getLsbD 2) i (srcA f t L)) (halfOf f false i (srcB f t L)) (hmulHalf t f L i) := by
      rw [hmulHalf, halfVal_eq ht, halfVal_eq ht]; exact productOf_mul ..
    exact ⟨_, _, _, _, _, hprod 0, hprod 1, sumOf_add .., readsAs_opF .., sumOf_add .., by rw [← rmOf_eq]; rfl⟩

end Sys2Proof.Machine

/-! PROOFS. Row 0x07: quotients, conversions to integers and to TS8, packing, planes and block scales (R79 to R83, R104 to R107). -/

namespace Sys2Proof.Machine

open Host

-- proofs that wait for one another's congruence lemmas would each hold a thread
set_option Elab.async false

/-! ## Reals between two neighbours (R73, R103) -/

/-- A real is given to Round by its multiple of 2^e from below, and whether that is all of it. -/
theorem stickyOf_sticky {s exact : Bool} {n : Nat} {e : Int} {r ρ : ℝ} (hpos : 0 < ρ) (hr : r = (if s then -1 else 1) * ρ)
    (hexact : exact = true → ρ = n * 2 ^ e) (hrest : exact = false → 2 ^ 60 ≤ n ∧ n * (2 : ℝ) ^ e < ρ ∧ ρ < (n + 1) * (2 : ℝ) ^ e) :
    StickyOf r (sticky s n e exact) := by
  refine ⟨s, n, e, ?_⟩
  cases exact with
  | true => exact .inl ⟨rfl, by rw [hr, hexact rfl, mul_assoc]⟩
  | false =>
    obtain ⟨hn, hlo, hhi⟩ := hrest rfl
    have habs : |r| = ρ := by rw [hr, abs_mul, abs_of_pos hpos]; cases s <;> simp
    have hsign : (if s then (-1 : ℝ) else 1) * r = ρ := by rw [hr]; cases s <;> simp
    exact .inr ⟨rfl, hn, by rw [hsign]; exact hpos, by rw [habs]; exact hlo, by rw [habs]; exact hhi⟩

theorem dyadic_div (s u : Bool) (m n : Nat) (e f : Int) :
    dyadic s m e / dyadic u n f = (if s != u then -1 else 1) * ((m : ℚ) / n * 2 ^ (e - f)) := by
  unfold dyadic
  rw [zpow_sub₀ two_ne_zero]
  cases s <;> cases u <;> simp <;> ring

/-- A quotient of magnitudes, from below in units of 2^(e − f − k). -/
theorem div_stickyOf (s u : Bool) {m n : Nat} (hm : m ≠ 0) (hn : n ≠ 0) (e f : Int) :
    StickyOf ((dyadic s m e / dyadic u n f : ℚ) : ℝ) (sticky (s != u) (m * 2 ^ (80 + bitLen n) / n) (e - f - (80 + bitLen n : Nat))
      (m * 2 ^ (80 + bitLen n) % n == 0)) := by
  obtain ⟨k, hk⟩ : ∃ k, k = 80 + bitLen n := ⟨_, rfl⟩
  rw [← hk]
  have hn0 : (0 : ℝ) < n := by exact_mod_cast Nat.pos_of_ne_zero hn
  have hm0 : (0 : ℝ) < m := by exact_mod_cast Nat.pos_of_ne_zero hm
  obtain ⟨a, ha⟩ : ∃ a, a = m * 2 ^ k := ⟨_, rfl⟩
  rw [← ha]
  have hunit : (m : ℝ) / n * 2 ^ (e - f) = (a : ℝ) / n * 2 ^ (e - f - k : Int) := by
    rw [ha, zpow_sub₀ two_ne_zero (e - f), zpow_natCast]
    push_cast
    field_simp
  have hpow : (0 : ℝ) < 2 ^ (e - f - k : Int) := by positivity
  have hdm : (a : ℝ) = n * (a / n : Nat) + (a % n : Nat) := by exact_mod_cast (Nat.div_add_mod a n).symm
  refine stickyOf_sticky (ρ := (m : ℝ) / n * 2 ^ (e - f)) (by positivity) ?_ (fun hx => ?_) fun hx => ?_
  · rw [dyadic_div]; push_cast; cases s <;> cases u <;> simp
  · rw [hunit, hdm, show a % n = 0 by simpa using hx]
    push_cast
    field_simp
    simp
  · have hmod : 0 < a % n := Nat.pos_of_ne_zero (by simpa using hx)
    have hlt : a % n < n := Nat.mod_lt _ (Nat.pos_of_ne_zero hn)
    refine ⟨?_, ?_, ?_⟩
    · rw [Nat.le_div_iff_mul_le (Nat.pos_of_ne_zero hn), ha, hk, pow_add]
      have h1 := (lt_two_pow_bitLen n).le
      have h2 := Nat.pos_of_ne_zero hm
      calc 2 ^ 60 * n ≤ 2 ^ 80 * 2 ^ bitLen n := Nat.mul_le_mul (by norm_num) h1
        _ ≤ m * (2 ^ 80 * 2 ^ bitLen n) := Nat.le_mul_of_pos_left _ h2
    · rw [hunit]
      refine mul_lt_mul_of_pos_right ?_ hpow
      rw [lt_div_iff₀ hn0, hdm]
      have : (0 : ℝ) < (a % n : Nat) := by exact_mod_cast hmod
      nlinarith
    · rw [hunit]
      refine mul_lt_mul_of_pos_right ?_ hpow
      rw [div_lt_iff₀ hn0, hdm]
      have : ((a % n : Nat) : ℝ) < n := by exact_mod_cast hlt
      nlinarith

theorem quotientOf_div (a b : XVal) : QuotientOf a b (a.div b) := by
  match a, b with
  | .nan _, .nan _ | .nan _, .inf _ | .nan _, .fin _ _ _ | .inf _, .nan _ | .fin _ _ _, .nan _ | .inf _, .inf _ => rfl
  | .inf _, .fin _ _ _ => rfl
  | .fin _ _ _, .inf _ => exact ⟨0, rfl⟩
  | .fin s m e, .fin u n f =>
    unfold QuotientOf XVal.div
    dsimp only
    by_cases hn : n = 0
    · by_cases hm : m = 0 <;> simp [hn, hm]
    · rw [if_neg hn, if_neg hn]
      by_cases hm : m = 0
      · rw [if_pos hm, if_pos hm]; exact ⟨0, rfl⟩
      · rw [if_neg hm, if_neg hm]; exact div_stickyOf s u hm hn e f

/-! ## Integers (R79, R83) -/

/-- A number of n bits, n at most 32, as a 32-bit word. -/
theorem toInt_ofInt_of_fits {n : Nat} (hn : 0 < n) (hn32 : n ≤ 32) {z : Int} (hlo : -(2 ^ (n - 1)) ≤ z) (hhi : z ≤ 2 ^ (n - 1) - 1) :
    (BitVec.ofInt 32 z).toInt = z := by
  have hle : (2 : Int) ^ (n - 1) ≤ 2 ^ 31 := pow_le_pow_right₀ (by decide) (by omega)
  rw [BitVec.toInt_ofInt]
  exact Int.bmod_eq_of_le (by norm_num; omega) (by norm_num; omega)

theorem sext_eq_toInt (x n : Nat) : sext x n = (BitVec.ofNat n x).toInt := by
  unfold sext
  rw [BitVec.toInt_eq_toNat_cond, BitVec.toNat_ofNat]

theorem sext_bounds (x n : Nat) : -(2 ^ (n - 1)) ≤ sext x n ∧ sext x n ≤ 2 ^ (n - 1) - 1 := by
  rw [sext_eq_toInt]
  have h1 := BitVec.le_toInt (BitVec.ofNat n x)
  have h2 := BitVec.toInt_lt (x := BitVec.ofNat n x)
  exact ⟨h1, by omega⟩

theorem fmtBits_le (f : Fmt) : 0 < fmtBits f ∧ fmtBits f ≤ 32 := by cases f <;> decide

/-- A number rounded to an integer, exactly the one that the mode names unless it lies beyond every integer format (R79). -/
theorem roundInt_rule (rm : Rnd) (s : Bool) (m : Nat) (e : Int) : ∃ k : Nat, RoundsTo rm s (dyadic false m e) 1 k ∧
    ((roundInt rm s m e).1 = (if s then -(k : Int) else k) ∨
      2 ^ 64 ≤ k ∧ 2 ^ 64 ≤ (if s then -(roundInt rm s m e).1 else (roundInt rm s m e).1)) := by
  unfold roundInt
  split
  case isTrue he =>
    obtain ⟨n, rfl⟩ := Int.eq_ofNat_of_zero_le he
    have hval : dyadic false m n = (m * 2 ^ n : Nat) := by simp [dyadic]
    refine ⟨m * 2 ^ n, ⟨by rw [hval]; simp, by rw [hval]; cases rm <;> cases s <;> simp⟩, ?_⟩
    rcases le_total n 64 with h | h
    · left
      rw [min_eq_left (by simpa using h)]
      cases s <;> simp
    · rw [min_eq_right (by simpa using h)]
      rcases Nat.eq_zero_or_pos m with rfl | hm
      · left; cases s <;> simp
      · right
        have h64 : 2 ^ 64 ≤ m * 2 ^ 64 := Nat.le_mul_of_pos_left _ hm
        have hn : 2 ^ 64 ≤ m * 2 ^ n := (Nat.pow_le_pow_right two_pos h).trans (Nat.le_mul_of_pos_left _ hm)
        exact ⟨hn, by cases s <;> simp <;> omega⟩
  case isFalse he =>
    obtain ⟨n, hn⟩ : ∃ n : Nat, e = -n := ⟨(-e).toNat, by omega⟩
    have hval : dyadic false m e = (m : ℚ) / 2 ^ n := by
      rw [hn, dyadic, zpow_neg, zpow_natCast]; simp [div_eq_mul_inv]
    have hneg : (-e).toNat = n := by omega
    rw [hneg, hval]
    exact ⟨_, (roundShift_rule rm s m n).1, .inl rfl⟩

theorem toIntRule_toInt {n : Nat} (hn : 0 < n) (hn32 : n ≤ 32) (rm : Rnd) (sat : Bool) (a : XVal) :
    ToIntRule n rm sat a (toInt n rm sat a).enc := by
  have hpow : (0 : Int) < 2 ^ (n - 1) := by positivity
  have hpow32 : (2 : Int) ^ (n - 1) ≤ 2 ^ 31 := pow_le_pow_right₀ (by decide) (by omega)
  have hfits {z : Int} := toInt_ofInt_of_fits (z := z) hn hn32
  have hlo := hfits (z := -(2 ^ (n - 1))) le_rfl (by omega)
  have hhi := hfits (z := 2 ^ (n - 1) - 1) (by omega) le_rfl
  have hout (s : Bool) : (if sat then (.ofInt 32 (if s then -(2 ^ (n - 1)) else 2 ^ (n - 1) - 1) : Lane32) else .ofInt 32 (-(2 ^ (n - 1)))).toInt =
      if sat then (if s then -(2 ^ (n - 1)) else 2 ^ (n - 1) - 1) else -(2 ^ (n - 1)) := by
    cases sat <;> cases s <;> simp [hlo, hhi]
  match a with
  | .nan _ => cases sat <;> simp [ToIntRule, toInt, hlo]
  | .inf s => cases sat <;> cases s <;> simp [ToIntRule, toInt, hlo, hhi]
  | .fin s m e =>
    obtain ⟨k, hk, hv⟩ := roundInt_rule rm s m e
    refine ⟨k, hk, ?_⟩
    unfold toInt
    dsimp only
    generalize (roundInt rm s m e).1 = v at hv
    have hrange : (v < -(2 ^ (n - 1)) ∨ 2 ^ (n - 1) - 1 < v) ↔
        ¬(-(2 ^ (n - 1)) ≤ (if s then -(k : Int) else k) ∧ (if s then -(k : Int) else k) ≤ 2 ^ (n - 1) - 1) := by
      rcases hv with rfl | ⟨hk64, hv64⟩
      · omega
      · cases s <;> simp at hv64 ⊢ <;> omega
    by_cases hr : v < -(2 ^ (n - 1)) ∨ 2 ^ (n - 1) - 1 < v
    · rw [if_pos (by simpa using hr), if_neg (hrange.mp hr), ← hout s]
      cases sat <;> rfl
    · rw [if_neg (by simpa using hr), if_pos (not_not.mp (hrange.not.mp hr))]
      dsimp only
      rw [hfits (by omega) (by omega)]
      rcases hv with hv | ⟨-, hv64⟩
      · exact hv
      · exact absurd hr (not_not.mpr (by cases s <;> simp at hv64 <;> omega))

/-- An integer kept to its low n bits (R79). -/
theorem wrapInt_rule {n : Nat} (hn : 0 < n) (hn32 : n ≤ 32) (v : Int) :
    (BitVec.ofInt 32 (sext (wrap v n) n)).toInt = sext (BitVec.ofInt 32 (sext (wrap v n) n)).toNat n ∧
      (2 ^ n : Int) ∣ (BitVec.ofInt 32 (sext (wrap v n) n)).toInt - v := by
  obtain ⟨hlo, hhi⟩ := sext_bounds (wrap v n) n
  have hwrap : BitVec.ofNat n (wrap v n) = BitVec.ofInt n v := by
    apply BitVec.eq_of_toNat_eq
    rw [BitVec.toNat_ofNat, BitVec.toNat_ofInt, wrap]
    refine Nat.mod_eq_of_lt ?_
    have := Int.emod_lt_of_pos v (show (0 : Int) < (2 ^ n : Nat) by positivity)
    have := Int.emod_nonneg v (show ((2 ^ n : Nat) : Int) ≠ 0 by positivity)
    omega
  rw [toInt_ofInt_of_fits hn hn32 hlo hhi]
  constructor
  · have hsw : BitVec.ofNat n (BitVec.ofInt 32 (sext (wrap v n) n)).toNat = BitVec.ofNat n (wrap v n) := by
      refine BitVec.eq_of_getLsbD_eq fun i hi => ?_
      rw [BitVec.getLsbD_ofNat, BitVec.getLsbD_ofNat, BitVec.testBit_toNat, getLsbD_ofInt_sext _ hn (hi.trans_le hn32), if_pos hi]
    rw [sext_eq_toInt (BitVec.toNat _) n, hsw, sext_eq_toInt]
  · rw [sext_eq_toInt, hwrap, BitVec.toInt_ofInt]
    exact Int.dvd_bmod_sub_self

/-! ## TS8 (R80 to R82) -/

/-- The value of a TS8 byte in units of 1/64. -/
theorem ts8Of_eq (x : Nat) : ts8Of x = (ts8Value x : ℚ) / 64 := by
  have hterm (s : Bool) (c : Nat) (hc : c < 8) :
      (if c < 7 then (if s then -1 else 1) / 2 ^ c else 0 : ℚ) = (ts8Term s c : ℚ) / 64 := by
    interval_cases c <;> cases s <;> norm_num [ts8Term]
  show (if x / 16 % 8 < 7 then (if x.testBit 7 then -1 else 1) / 2 ^ (x / 16 % 8) else 0 : ℚ) +
    (if x % 8 < 7 then (if x.testBit 3 then -1 else 1) / 2 ^ (x % 8) else 0) = _
  rw [hterm _ _ (by omega), hterm _ _ (by omega), ts8Value]
  push_cast
  ring

/-- The magnitudes of the TS8 values, in units of 1/64, written out. -/
theorem ts8Mags_eq : ts8Mags = [0, 1, 2, 3, 4, 5, 6, 7, 8, 9, 10, 12, 14, 15, 16, 17, 18, 20, 24, 28, 30, 31, 32, 33, 34, 36, 40, 48, 56, 60, 62, 63,
    64, 65, 66, 68, 72, 80, 96, 128] := by decide +kernel

theorem natAbs_ts8Value_mem : ∀ y < 256, (ts8Value y).natAbs ∈ ts8Mags := by
  rw [ts8Mags_eq]
  decide +kernel

theorem ts8Enc_value : ∀ k ∈ ts8Mags, k ≤ 128 ∧ ts8Enc k < 256 ∧ ts8Value (ts8Enc k) = k ∧ ts8Enc (-k) < 256 ∧ ts8Value (ts8Enc (-k)) = -k := by
  rw [ts8Mags_eq]
  decide +kernel

/-- Ts8Canonical over the integers. -/
def ts8CanonicalInt (x : Nat) : Bool :=
  let ordered (y : Nat) : Bool := (y.testBit 7 == decide (ts8Value y < 0)) && decide (y / 16 % 8 ≤ y % 8)
  if ts8Value x = 0 then x == 0x77 else ordered x && (x % 8 != 7 || !x.testBit 3) &&
    (List.range 256).all fun y => !ordered y || ts8Value y != ts8Value x || ((y % 8 != 7 || x % 8 == 7) && (x % 8 == 7 || decide (x / 16 % 8 ≤ y / 16 % 8)))

theorem ts8CanonicalInt_ts8Enc : ∀ k ∈ ts8Mags, ts8CanonicalInt (ts8Enc k) = true ∧ ts8CanonicalInt (ts8Enc (-k)) = true := by
  rw [ts8Mags_eq]
  decide +kernel

theorem ts8Canonical_of_int {x : Nat} (hx : x < 256) (h : ts8CanonicalInt x = true) : Ts8Canonical x := by
  have hneg (y : Nat) : ts8Of y < 0 ↔ ts8Value y < 0 := by
    rw [ts8Of_eq, div_lt_iff₀ (by norm_num), zero_mul]; norm_cast
  have heq (y z : Nat) : ts8Of y = ts8Of z ↔ ts8Value y = ts8Value z := by
    rw [ts8Of_eq, ts8Of_eq, div_left_inj' (by norm_num)]; norm_cast
  have hzero : ts8Of x = 0 ↔ ts8Value x = 0 := by
    rw [ts8Of_eq, div_eq_zero_iff]; norm_num
  refine ⟨hx, ?_⟩
  unfold ts8CanonicalInt at h
  dsimp only at h ⊢
  by_cases h0 : ts8Value x = 0
  · rw [if_pos (hzero.mpr h0)]
    rw [if_pos h0] at h
    simpa using h
  · rw [if_neg (hzero.not.mpr h0)]
    rw [if_neg h0] at h
    simp only [Bool.and_eq_true, Bool.or_eq_true, Bool.not_eq_true', Bool.and_eq_false_iff, List.all_eq_true, List.mem_range, bne_iff_ne, beq_iff_eq,
      decide_eq_true_eq, decide_eq_false_iff_not, beq_eq_false_iff_ne] at h
    obtain ⟨⟨⟨hsign, hord⟩, hseven⟩, hall⟩ := h
    refine ⟨⟨by rw [hsign, decide_eq_true_eq, hneg], hord⟩, fun h7 => hseven.resolve_left (by simpa using h7), fun y hy ⟨hys, hyo⟩ hval => ?_⟩
    have hys' : y.testBit 7 = decide (ts8Value y < 0) := by rw [Bool.eq_iff_iff, hys, decide_eq_true_eq, hneg]
    rcases hall y hy with (hc | hc) | ⟨h1, h2⟩
    · rcases hc with hc | hc
      · exact absurd hys' hc
      · exact absurd hyo hc
    · exact absurd ((heq y x).mp hval) hc
    · exact ⟨fun h7 => h1.resolve_left (by simpa using h7), fun h7 => h2.resolve_left h7⟩

/-- Is the candidate of greater magnitude taken, given whether it is the nearer one (R82)? -/
def ts8Up (rm : Rnd) (s nearer : Bool) : Bool := match rm with | .rne => nearer | .rz => false | .ru => !s | .rd => s

/-- Round to TS8 of ± (a / b) / 64 (R82). -/
def ts8Result (rm : Rnd) (neg : Bool) (a b : Nat) : Rounded :=
  if 128 * b < a then { enc := if neg then 0x88 else 0x00, inexact := true, saturated := true } else
    let lo := (ts8Mags.filter fun k => k * b ≤ a).getLast?.getD 0
    let hi := (ts8Mags.find? fun k => a ≤ k * b).getD 128
    let k : Int := if ts8Up rm neg (decide ((lo + hi) * b < 2 * a)) then hi else lo
    { enc := .ofNat 32 (ts8Enc (if neg then -k else k)), inexact := lo != hi }

/-- The fraction a / b stands for a value u in every comparison with the candidates and their midpoints. -/
def ActsAs (a b : Nat) (u : ℚ) : Prop := ∀ K ≤ 256, (K * b < 2 * a ↔ (K : ℚ) < 2 * u) ∧ (2 * a < K * b ↔ 2 * u < K)

theorem actsAs_div {a b : Nat} (hb : 0 < b) : ActsAs a b ((a : ℚ) / b) := by
  intro K _
  have hbq : (0 : ℚ) < b := by exact_mod_cast hb
  rw [← mul_div_assoc, lt_div_iff₀ hbq, div_lt_iff₀ hbq]
  exact ⟨by norm_cast, by norm_cast⟩

/-- Beyond the limits of TS8 the clamps of its rounding keep every comparison (R82). -/
theorem roundTs8_eq (rm : Rnd) (neg : Bool) (m : Nat) (e : Int) :
    ∃ a b, roundTs8 rm neg m e = ts8Result rm neg a b ∧ ActsAs a b (64 * dyadic false m e) := by
  have hu : 64 * dyadic false m e = m * 2 ^ (e + 6) := by
    rw [dyadic, zpow_add₀ two_ne_zero]; norm_num; ring
  rw [hu]
  have hdef : roundTs8 rm neg m e = ts8Result rm neg (if 0 ≤ e + 6 then m * 2 ^ (min (e + 6).toNat 16) else m)
      (if 0 ≤ e + 6 then 1 else 2 ^ (min (-(e + 6)).toNat (bitLen m + 16))) := rfl
  refine ⟨_, _, hdef, ?_⟩
  generalize e + 6 = x
  by_cases hx : 0 ≤ x
  · rw [if_pos hx, if_pos hx]
    obtain ⟨n, rfl⟩ := Int.eq_ofNat_of_zero_le hx
    rw [zpow_natCast, Int.toNat_natCast]
    rcases le_total n 16 with h | h
    · rw [min_eq_left h]
      have := actsAs_div (a := m * 2 ^ n) (b := 1) one_pos
      simpa using this
    · rw [min_eq_right h]
      intro K hK
      rcases Nat.eq_zero_or_pos m with rfl | hm
      · simp
      · have h16 : 2 ^ 16 ≤ m * 2 ^ 16 := Nat.le_mul_of_pos_left _ hm
        have hn : 2 ^ 16 ≤ m * 2 ^ n := (Nat.pow_le_pow_right two_pos h).trans (Nat.le_mul_of_pos_left _ hm)
        have hnq : (2 : ℚ) ^ 16 ≤ m * 2 ^ n := by exact_mod_cast hn
        have hKq : (K : ℚ) ≤ 256 := by exact_mod_cast hK
        exact ⟨iff_of_true (by omega) (by linarith), iff_of_false (by omega) (by linarith)⟩
  · rw [if_neg hx, if_neg hx]
    obtain ⟨n, hn⟩ : ∃ n : Nat, x = -n := ⟨(-x).toNat, by omega⟩
    rw [hn, neg_neg, Int.toNat_natCast, zpow_neg, zpow_natCast, ← div_eq_mul_inv]
    rcases le_total n (bitLen m + 16) with h | h
    · rw [min_eq_left h]
      have := actsAs_div (a := m) (b := 2 ^ n) (Nat.two_pow_pos n)
      simpa using this
    · rw [min_eq_right h]
      intro K hK
      have hlt := lt_two_pow_bitLen m
      have hsmall {j : Nat} (hj : bitLen m + 16 ≤ j) : 2 * m < 2 ^ j := by
        have := Nat.pow_le_pow_right (n := 2) two_pos hj
        rw [pow_add] at this
        omega
      have h1 := hsmall le_rfl
      have h2 := hsmall h
      have hpos : (0 : ℚ) < 2 ^ n := by positivity
      rw [← mul_div_assoc, lt_div_iff₀ hpos, div_lt_iff₀ hpos]
      rcases Nat.eq_zero_or_pos K with rfl | hK0
      · simp
      · have hclamp : 2 * m < K * 2 ^ (bitLen m + 16) := h1.trans_le (Nat.le_mul_of_pos_left _ hK0)
        have hreal : (2 : ℚ) * m < K * 2 ^ n := by exact_mod_cast h2.trans_le (Nat.le_mul_of_pos_left _ hK0)
        exact ⟨iff_of_false (by omega) (by linarith), iff_of_true hclamp hreal⟩

theorem ts8Mags_sorted : ts8Mags.Pairwise (· < ·) := by
  rw [ts8Mags_eq]
  decide

theorem zero_mem_ts8Mags : 0 ∈ ts8Mags := by
  rw [ts8Mags_eq]
  decide

theorem limit_mem_ts8Mags : 128 ∈ ts8Mags := by
  rw [ts8Mags_eq]
  decide

/-- The last of the elements that a test keeps is the greatest of a rising list. -/
theorem getLast?_filter_max {l : List Nat} (hl : l.Pairwise (· < ·)) {p : Nat → Bool} {z : Nat} (hz : z ∈ l) (hpz : p z = true) (d : Nat) :
    (l.filter p).getLast?.getD d ∈ l ∧ p ((l.filter p).getLast?.getD d) = true ∧ ∀ y ∈ l, p y = true → y ≤ (l.filter p).getLast?.getD d := by
  have hmem : z ∈ l.filter p := List.mem_filter.mpr ⟨hz, hpz⟩
  have hne : l.filter p ≠ [] := List.ne_nil_of_mem hmem
  rw [List.getLast?_eq_some_getLast hne, Option.getD_some]
  obtain ⟨h1, h2⟩ := List.mem_filter.mp (List.getLast_mem hne)
  refine ⟨h1, h2, fun y hy hpy => ?_⟩
  have hpair : (l.filter p).Pairwise (· ≤ ·) := (hl.filter p).imp le_of_lt
  have hsplit := List.dropLast_append_getLast hne
  rw [← hsplit, List.pairwise_append] at hpair
  have hy' : y ∈ (l.filter p).dropLast ++ [(l.filter p).getLast hne] := by rw [hsplit]; exact List.mem_filter.mpr ⟨hy, hpy⟩
  rcases List.mem_append.mp hy' with hd | hd
  · exact hpair.2.2 y hd _ (List.mem_singleton_self _)
  · exact (List.mem_singleton.mp hd).le

/-- The first element that passes a test is the least of a rising list. -/
theorem find?_min {l : List Nat} (hl : l.Pairwise (· < ·)) {p : Nat → Bool} {z : Nat} (hz : z ∈ l) (hpz : p z = true) (d : Nat) :
    (l.find? p).getD d ∈ l ∧ p ((l.find? p).getD d) = true ∧ ∀ y ∈ l, p y = true → (l.find? p).getD d ≤ y := by
  obtain ⟨x, hx⟩ : ∃ x, l.find? p = some x := Option.isSome_iff_exists.mp (List.find?_isSome.mpr ⟨z, hz, hpz⟩)
  rw [hx, Option.getD_some]
  obtain ⟨hpx, as, bs, hsplit, hbefore⟩ := List.find?_eq_some_iff_append.mp hx
  refine ⟨List.mem_of_find?_eq_some hx, hpx, fun y hy hpy => ?_⟩
  rw [hsplit] at hy hl
  rcases List.mem_append.mp hy with h | h
  · have := hbefore y h
    simp [hpy] at this
  · rcases List.mem_cons.mp h with rfl | h
    · exact le_rfl
    · obtain ⟨-, hcons, -⟩ := List.pairwise_append.mp hl
      exact ((List.pairwise_cons.mp hcons).1 y h).le

/-- The candidates below and above a magnitude u of TS8, in units of 1/64 (R82). -/
structure Ts8Between (lo hi : Nat) (u : ℚ) : Prop where
  lo_mem : lo ∈ ts8Mags
  hi_mem : hi ∈ ts8Mags
  lo_le : (lo : ℚ) ≤ u
  le_hi : u ≤ hi
  lo_max : ∀ y ∈ ts8Mags, (y : ℚ) ≤ u → y ≤ lo
  hi_min : ∀ y ∈ ts8Mags, u ≤ (y : ℚ) → hi ≤ y

theorem ts8Between_of_actsAs {a b : Nat} {u : ℚ} (h : ActsAs a b u) (hmax : ¬128 * b < a) :
    Ts8Between ((ts8Mags.filter fun k => k * b ≤ a).getLast?.getD 0) ((ts8Mags.find? fun k => a ≤ k * b).getD 128) u := by
  have hle {k : Nat} (hk : k ∈ ts8Mags) : k * b ≤ a ↔ (k : ℚ) ≤ u := by
    have := (h (2 * k) (by have := (ts8Enc_value k hk).1; omega)).2
    push_cast at this
    rw [← not_lt, ← not_lt]
    refine not_congr ⟨fun hlt => ?_, fun hlt => ?_⟩
    · have := this.mp (by rw [mul_assoc]; omega)
      linarith
    · have := this.mpr (by linarith)
      rw [mul_assoc] at this
      omega
  have hge {k : Nat} (hk : k ∈ ts8Mags) : a ≤ k * b ↔ u ≤ (k : ℚ) := by
    have := (h (2 * k) (by have := (ts8Enc_value k hk).1; omega)).1
    push_cast at this
    rw [← not_lt, ← not_lt]
    refine not_congr ⟨fun hlt => ?_, fun hlt => ?_⟩
    · have := this.mp (by rw [mul_assoc]; omega)
      linarith
    · have := this.mpr (by linarith)
      rw [mul_assoc] at this
      omega
  obtain ⟨hl, hlp, hlmax⟩ := getLast?_filter_max (p := fun k => decide (k * b ≤ a)) ts8Mags_sorted zero_mem_ts8Mags (by simp) 0
  obtain ⟨hh, hhp, hhmin⟩ := find?_min (p := fun k => decide (a ≤ k * b)) ts8Mags_sorted limit_mem_ts8Mags (by simpa using hmax) 128
  simp only [decide_eq_true_eq] at hlp hlmax hhp hhmin
  exact ⟨hl, hh, (hle hl).mp hlp, (hge hh).mp hhp, fun y hy hyu => hlmax y hy ((hle hy).mpr hyu), fun y hy hyu => hhmin y hy ((hge hy).mpr hyu)⟩

/-- The byte's value, in units of 1/64, has a magnitude that is a candidate. -/
theorem ts8Of_candidate {y : Nat} (hy : y < 256) : ∃ j ∈ ts8Mags, |ts8Of y| = j / 64 ∧ (ts8Of y = j / 64 ∨ ts8Of y = -(j / 64)) := by
  refine ⟨_, natAbs_ts8Value_mem y hy, ?_, ?_⟩
  · rw [ts8Of_eq, abs_div, Nat.cast_natAbs, Int.cast_abs]; norm_num
  · rw [ts8Of_eq]
    rcases Int.natAbs_eq (ts8Value y) with h | h
    · left; rw [h]; simp
    · right; rw [h]; simp [neg_div]

theorem Ts8Between.cases {lo hi : Nat} {u : ℚ} (h : Ts8Between lo hi u) {j : Nat} (hj : j ∈ ts8Mags) :
    ((j : ℚ) ≤ lo ∧ (j : ℚ) < u) ∨ ((j : ℚ) ≤ lo ∧ (hi : ℚ) ≤ j ∧ (j : ℚ) = u) ∨ ((hi : ℚ) ≤ j ∧ u < j) := by
  have hmax (hle : (j : ℚ) ≤ u) : (j : ℚ) ≤ lo := by exact_mod_cast h.lo_max j hj hle
  have hmin (hge : u ≤ (j : ℚ)) : (hi : ℚ) ≤ j := by exact_mod_cast h.hi_min j hj hge
  rcases lt_trichotomy (j : ℚ) u with hlt | heq | hgt
  · exact .inl ⟨hmax hlt.le, hlt⟩
  · exact .inr (.inl ⟨hmax heq.le, hmin heq.ge, heq⟩)
  · exact .inr (.inr ⟨hmin hgt.le, hgt⟩)

/-- w is the value of a TS8 byte that a mode names for v (R82). -/
def Ts8Named (rm : Rnd) (v w : ℚ) : Prop :=
  match rm with
  | .rne => ∀ y < 256, |w - v| ≤ |ts8Of y - v| ∧ (|w - v| = |ts8Of y - v| → |w| ≤ |ts8Of y|)
  | .rz => 0 ≤ w * v ∧ |w| ≤ |v| ∧ ∀ y < 256, |ts8Of y| ≤ |v| → |ts8Of y| ≤ |w|
  | .ru => v ≤ w ∧ ∀ y < 256, v ≤ ts8Of y → w ≤ ts8Of y
  | .rd => w ≤ v ∧ ∀ y < 256, ts8Of y ≤ v → ts8Of y ≤ w

/-- The candidate that a mode names, for a value ± u / 64 between two candidates (R82). -/
theorem ts8Named_of_between {lo hi : Nat} {u : ℚ} (h : Ts8Between lo hi u) (rm : Rnd) (s : Bool) {k : Nat} {w v : ℚ}
    (hk : k = if ts8Up rm s (decide ((lo + hi : ℚ) < 2 * u)) then hi else lo)
    (hw : w = if s then -((k : ℚ) / 64) else k / 64) (hv : v = if s then -(u / 64) else u / 64) : Ts8Named rm v w := by
  have hlo0 : (0 : ℚ) ≤ lo := Nat.cast_nonneg lo
  have hhi0 : (0 : ℚ) ≤ hi := Nat.cast_nonneg hi
  have hlo := h.lo_le
  have hhi := h.le_hi
  have hu0 : 0 ≤ u := hlo0.trans hlo
  have habsw : |w| = k / 64 := by
    rw [hw]; split
    · rw [abs_neg, abs_of_nonneg (by positivity)]
    · rw [abs_of_nonneg (by positivity)]
  have habsv : |v| = u / 64 := by
    rw [hv]; split
    · rw [abs_neg, abs_of_nonneg (by positivity)]
    · rw [abs_of_nonneg (by positivity)]
  have hdist : |w - v| = |(k : ℚ) - u| / 64 := by
    rw [hw, hv, ← abs_of_pos (show (0 : ℚ) < 64 by norm_num), ← abs_div, abs_of_pos (show (0 : ℚ) < 64 by norm_num)]
    cases s
    · rw [if_neg Bool.false_ne_true, if_neg Bool.false_ne_true, sub_div]
    · rw [if_pos rfl, if_pos rfl, ← abs_neg]; congr 1; ring
  cases rm with
  | rne =>
    intro y hy
    obtain ⟨j, hj, habsy, -⟩ := ts8Of_candidate hy
    have hfar : |(j : ℚ) - u| / 64 ≤ |ts8Of y - v| := by
      have := abs_abs_sub_abs_le_abs_sub (ts8Of y) v
      rwa [habsy, habsv, ← sub_div, abs_div, abs_of_pos (show (0 : ℚ) < 64 by norm_num)] at this
    have hcand := h.cases hj
    rw [hdist, habsw, habsy]
    by_cases hup : (lo + hi : ℚ) < 2 * u
    · obtain rfl : k = hi := by simpa [ts8Up, hup] using hk
      rw [abs_of_nonneg (by linarith)]
      rcases hcand with ⟨h1, h2⟩ | ⟨h1, -, h2⟩ | ⟨h1, h2⟩
      · rw [abs_of_nonpos (by linarith)] at hfar
        exact ⟨by linarith, fun heq => by linarith⟩
      · rw [h2, sub_self, abs_zero] at hfar
        exact ⟨by linarith, fun heq => by linarith⟩
      · rw [abs_of_nonneg (by linarith)] at hfar
        exact ⟨by linarith, fun _ => by linarith⟩
    · obtain rfl : k = lo := by simpa [ts8Up, hup] using hk
      rw [abs_of_nonpos (by linarith)]
      rcases hcand with ⟨h1, h2⟩ | ⟨h1, -, h2⟩ | ⟨h1, h2⟩
      · rw [abs_of_nonpos (by linarith)] at hfar
        exact ⟨by linarith, fun heq => by linarith⟩
      · rw [h2, sub_self, abs_zero] at hfar
        exact ⟨by linarith, fun heq => by linarith⟩
      · rw [abs_of_nonneg (by linarith)] at hfar
        exact ⟨by linarith, fun _ => by linarith⟩
  | rz =>
    obtain rfl : k = lo := by simpa [ts8Up] using hk
    show _ ∧ _ ∧ _
    rw [habsw, habsv]
    refine ⟨?_, by linarith, fun y hy hle => ?_⟩
    · rw [hw, hv]; cases s <;> simp <;> positivity
    · obtain ⟨j, hj, habsy, -⟩ := ts8Of_candidate hy
      rw [habsy] at hle ⊢
      have : (j : ℚ) ≤ k := by exact_mod_cast h.lo_max j hj (by linarith)
      linarith
  | ru =>
    cases s with
    | false =>
      obtain rfl : k = hi := by simpa [ts8Up] using hk
      rw [if_neg Bool.false_ne_true] at hw hv
      refine ⟨by linarith, fun y hy hle => ?_⟩
      obtain ⟨j, hj, -, hval⟩ := ts8Of_candidate hy
      have hj0 : (0 : ℚ) ≤ j := Nat.cast_nonneg j
      rcases hval with hval | hval <;> rcases h.cases hj with ⟨h1, h2⟩ | ⟨h1, h2, h3⟩ | ⟨h1, h2⟩ <;> linarith
    | true =>
      obtain rfl : k = lo := by simpa [ts8Up] using hk
      rw [if_pos rfl] at hw hv
      refine ⟨by linarith, fun y hy hle => ?_⟩
      obtain ⟨j, hj, -, hval⟩ := ts8Of_candidate hy
      have hj0 : (0 : ℚ) ≤ j := Nat.cast_nonneg j
      rcases hval with hval | hval <;> rcases h.cases hj with ⟨h1, h2⟩ | ⟨h1, h2, h3⟩ | ⟨h1, h2⟩ <;> linarith
  | rd =>
    cases s with
    | false =>
      obtain rfl : k = lo := by simpa [ts8Up] using hk
      rw [if_neg Bool.false_ne_true] at hw hv
      refine ⟨by linarith, fun y hy hle => ?_⟩
      obtain ⟨j, hj, -, hval⟩ := ts8Of_candidate hy
      have hj0 : (0 : ℚ) ≤ j := Nat.cast_nonneg j
      rcases hval with hval | hval <;> rcases h.cases hj with ⟨h1, h2⟩ | ⟨h1, h2, h3⟩ | ⟨h1, h2⟩ <;> linarith
    | true =>
      obtain rfl : k = hi := by simpa [ts8Up] using hk
      rw [if_pos rfl] at hw hv
      refine ⟨by linarith, fun y hy hle => ?_⟩
      obtain ⟨j, hj, -, hval⟩ := ts8Of_candidate hy
      have hj0 : (0 : ℚ) ≤ j := Nat.cast_nonneg j
      rcases hval with hval | hval <;> rcases h.cases hj with ⟨h1, h2⟩ | ⟨h1, h2, h3⟩ | ⟨h1, h2⟩ <;> linarith

theorem roundTs8_rule (rm : Rnd) (s : Bool) (m : Nat) (e : Int) : ToTs8Rule rm (.fin s m e) (roundTs8 rm s m e).enc := by
  obtain ⟨a, b, hdef, hacts⟩ := roundTs8_eq rm s m e
  have habs : |dyadic s m e| = dyadic false m e := by
    have h0 : 0 ≤ dyadic false m e := by simp only [dyadic, Bool.false_eq_true, if_false]; positivity
    cases s
    · exact abs_of_nonneg h0
    · rw [show dyadic true m e = -dyadic false m e by simp [dyadic], abs_neg, abs_of_nonneg h0]
  have hmax : 128 * b < a ↔ 2 < |dyadic s m e| := by
    have := (hacts 256 le_rfl).1
    push_cast at this
    rw [habs]
    exact ⟨fun h => by have := this.mp (by omega); linarith, fun h => by have := this.mpr (by linarith); omega⟩
  rw [hdef]
  clear hdef
  unfold ToTs8Rule
  dsimp only
  by_cases hbig : 128 * b < a
  · rw [if_pos (hmax.mp hbig), ts8Result, if_pos hbig]
  · rw [if_neg (hmax.not.mp hbig), ts8Result, if_neg hbig]
    dsimp only
    have hbetween := ts8Between_of_actsAs hacts hbig
    generalize (ts8Mags.filter fun k => k * b ≤ a).getLast?.getD 0 = lo at hbetween ⊢
    generalize (ts8Mags.find? fun k => a ≤ k * b).getD 128 = hi at hbetween ⊢
    have hhalf : (lo + hi) * b < 2 * a ↔ ((lo : ℚ) + hi) < 2 * (64 * dyadic false m e) := by
      have hl := (ts8Enc_value lo hbetween.lo_mem).1
      have hh := (ts8Enc_value hi hbetween.hi_mem).1
      have := (hacts (lo + hi) (by omega)).1
      push_cast at this
      exact this
    rw [decide_eq_decide.mpr hhalf]
    obtain ⟨k, hk⟩ : ∃ k, k = if ts8Up rm s (decide ((lo + hi : ℚ) < 2 * (64 * dyadic false m e))) then hi else lo := ⟨_, rfl⟩
    have hkmem : k ∈ ts8Mags := by rw [hk]; split; exacts [hbetween.hi_mem, hbetween.lo_mem]
    have hkint : (if ts8Up rm s (decide ((lo + hi : ℚ) < 2 * (64 * dyadic false m e))) then (hi : Int) else lo) = k := by rw [hk]; split <;> rfl
    obtain ⟨-, hlt, hval, hltn, hvaln⟩ := ts8Enc_value k hkmem
    obtain ⟨hcan, hcann⟩ := ts8CanonicalInt_ts8Enc k hkmem
    rw [hkint]
    have henc : ts8Enc (if s then -(k : Int) else k) < 256 ∧ ts8CanonicalInt (ts8Enc (if s then -(k : Int) else k)) = true ∧
        ts8Of (ts8Enc (if s then -(k : Int) else k)) = if s then -((k : ℚ) / 64) else k / 64 := by
      cases s
      · exact ⟨hlt, hcan, by simp [ts8Of_eq, hval]⟩
      · exact ⟨hltn, hcann, by simp [ts8Of_eq, hvaln, neg_div]⟩
    generalize ts8Enc (if s then -(k : Int) else k) = x at henc ⊢
    obtain ⟨hx, hxcan, hxval⟩ := henc
    have hnat : (BitVec.ofNat 32 x).toNat = x := Nat.mod_eq_of_lt (by omega)
    rw [hnat]
    refine ⟨ts8Canonical_of_int hx hxcan, ?_⟩
    have hnamed : Ts8Named rm (dyadic s m e) (ts8Of x) := ts8Named_of_between hbetween rm s hk hxval (by cases s <;> simp [dyadic])
    cases rm <;> exact hnamed

theorem toTs8Rule_round (rm : Rnd) (sat ftz : Bool) (a : XVal) : ToTs8Rule rm a (round .ts8 rm sat ftz a).enc := by
  match a with
  | .nan _ => rfl
  | .inf s => cases s <;> rfl
  | .fin s m e => exact roundTs8_rule rm s m e

/-! ## Numbers written digit by digit -/

/-- A sum of digits in base 2^w. -/
theorem foldl_digits (w : Nat) (d : Nat → Nat) (hd : ∀ i, d i < 2 ^ w) (n : Nat) :
    (List.range n).foldl (fun a i => a + d i * 2 ^ (w * i)) 0 < 2 ^ (w * n) ∧
      ∀ i < n, (List.range n).foldl (fun a i => a + d i * 2 ^ (w * i)) 0 / 2 ^ (w * i) % 2 ^ w = d i := by
  induction n with
  | zero => simp
  | succ n ih =>
    obtain ⟨hlt, hdig⟩ := ih
    rw [List.range_succ, List.foldl_append, List.foldl_cons, List.foldl_nil]
    generalize (List.range n).foldl (fun a i => a + d i * 2 ^ (w * i)) 0 = a at hlt hdig
    have hsucc : 2 ^ (w * (n + 1)) = 2 ^ (w * n) * 2 ^ w := by rw [← pow_add]; rfl
    constructor
    · rw [hsucc]
      have := Nat.mul_le_mul_right (2 ^ (w * n)) (Nat.succ_le_of_lt (hd n))
      rw [Nat.succ_mul] at this
      rw [Nat.mul_comm (2 ^ (w * n))]
      omega
    · intro i hi
      rcases Nat.lt_succ_iff_lt_or_eq.mp hi with hi | rfl
      · rw [← hdig i hi]
        obtain ⟨j, rfl⟩ := Nat.exists_eq_add_of_lt hi
        rw [show w * (i + j + 1) = w * i + w + w * j by ring, pow_add, pow_add,
          show a + d (i + j + 1) * (2 ^ (w * i) * 2 ^ w * 2 ^ (w * j)) = a + 2 ^ (w * i) * (2 ^ w * (d (i + j + 1) * 2 ^ (w * j))) by ring,
          Nat.add_mul_div_left _ _ (Nat.two_pow_pos _), Nat.add_mul_mod_self_left]
      · rw [Nat.add_mul_div_right _ _ (Nat.two_pow_pos _), Nat.div_eq_of_lt hlt, Nat.zero_add, Nat.mod_eq_of_lt (hd i)]

/-- Digit i of a 32-bit word written digit by digit. -/
theorem extractLsb'_digits {w n : Nat} (hwn : w * n ≤ 32) (d : Nat → Nat) (hd : ∀ i, d i < 2 ^ w) {i : Nat} (hi : i < n) :
    ((BitVec.ofNat 32 ((List.range n).foldl (fun a i => a + d i * 2 ^ (w * i)) 0)).extractLsb' (w * i) w).toNat = d i := by
  obtain ⟨hlt, hdig⟩ := foldl_digits w d hd n
  rw [BitVec.extractLsb'_toNat, BitVec.toNat_ofNat, Nat.shiftRight_eq_div_pow, Nat.mod_eq_of_lt (hlt.trans_le (Nat.pow_le_pow_right two_pos hwn)),
    hdig i hi]

theorem wrap_lt (x : Int) (n : Nat) : wrap x n < 2 ^ n := by
  have := Int.emod_lt_of_pos x (show (0 : Int) < (2 ^ n : Nat) by positivity)
  have := Int.emod_nonneg x (show ((2 ^ n : Nat) : Int) ≠ 0 by positivity)
  unfold wrap
  omega

theorem wrap_cast (x : Int) (n : Nat) : (wrap x n : Int) = x % 2 ^ n := by
  rw [wrap, Int.toNat_of_nonneg (Int.emod_nonneg x (by positivity))]
  push_cast
  rfl

theorem sext_extract (x : Lane32) (p w : Nat) : sext (x.toNat / 2 ^ p) w = (x.extractLsb' p w).toInt := by
  rw [sext_eq_toInt]
  congr 1
  apply BitVec.eq_of_toNat_eq
  rw [BitVec.toNat_ofNat, BitVec.extractLsb'_toNat, Nat.shiftRight_eq_div_pow]

/-- PACK4.PACK (R105). -/
theorem pack4_rule (sat : Bool) (a b : Lane32) {i : Nat} (hi : i < 8) :
    (((pack4 sat a b).extractLsb' (4 * i) 4).toNat : Int) =
      (if sat then max (-8) (min (((if i < 4 then a else b).extractLsb' (8 * (i % 4)) 8).toInt) 7)
        else ((if i < 4 then a else b).extractLsb' (8 * (i % 4)) 8).toInt) % 16 := by
  rw [pack4, extractLsb'_digits (w := 4) (n := 8) (by decide)
    (fun i => wrap (if sat then clampInt (-8) 7 (sext ((if i < 4 then a else b).toNat / 2 ^ (8 * (i % 4))) 8)
      else sext ((if i < 4 then a else b).toNat / 2 ^ (8 * (i % 4))) 8) 4) (fun i => wrap_lt _ 4) hi, wrap_cast, sext_extract,
    clampInt_eq (by decide)]
  rfl

/-- PACK4.UNLO and UNHI (R105). -/
theorem unpack4_rule (k : Nat) (a : Lane32) {i : Nat} (hi : i < 4) :
    ((unpack4 k a).extractLsb' (8 * i) 8).toInt = (a.extractLsb' (4 * (i + k)) 4).toInt := by
  have hdig := extractLsb'_digits (w := 8) (n := 4) (by decide) (fun i => wrap (sext (a.toNat / 2 ^ (4 * (i + k))) 4) 8) (fun i => wrap_lt _ 8) hi
  rw [← sext_extract a, BitVec.toInt_eq_toNat_bmod]
  rw [show (unpack4 k a).extractLsb' (8 * i) 8 = (BitVec.ofNat 32 ((List.range 4).foldl (fun acc i => acc +
    wrap (sext (a.toNat / 2 ^ (4 * (i + k))) 4) 8 * 2 ^ (8 * i)) 0)).extractLsb' (8 * i) 8 from rfl, hdig, wrap_cast]
  obtain ⟨hlo, hhi⟩ := sext_bounds (a.toNat / 2 ^ (4 * (i + k))) 4
  generalize sext (a.toNat / 2 ^ (4 * (i + k))) 4 = z at *
  rw [Int.bmod_def]
  split <;> omega

/-! ## Planes (R107) -/

theorem planeWord_getLsbD (fm : Fmt) (p : Nat) (t : Team) (f : VA) (m : Mask) (g : Nat) {e : Nat} (he : e < 64) :
    (BitVec.ofNat 64 (planeWord fm p t f m g)).getLsbD e =
      (m.getLsbD (32 * g + e % 32) && planeBit fm p ((opA t f (32 * g + e % 32)).toNat / 2 ^ (16 * (e / 32)) % 65536)) := by
  rw [planeWord, getLsbD_ofNat_foldl (fun e => m.getLsbD (32 * g + e % 32) &&
    planeBit fm p ((opA t f (32 * g + e % 32)).toNat / 2 ^ (16 * (e / 32)) % 65536)) 64 he, decide_eq_true he, Bool.true_and]

/-- One bit of a register replaced. -/
def putBit (c : Lane32) (pos : Nat) (b : Bool) : Lane32 := if b then c ||| .ofNat 32 (2 ^ pos) else c &&& ~~~(.ofNat 32 (2 ^ pos))

theorem putBit_getLsbD (c : Lane32) (pos : Nat) (b : Bool) {i : Nat} (hi : i < 32) :
    (putBit c pos b).getLsbD i = if pos = i then b else c.getLsbD i := by
  have hbit : (BitVec.ofNat 32 (2 ^ pos)).getLsbD i = decide (pos = i) := by
    rw [BitVec.getLsbD_ofNat, Nat.testBit_two_pow, decide_eq_true hi, Bool.true_and]
  unfold putBit
  cases b
  · rw [if_neg Bool.false_ne_true, BitVec.getLsbD_and, BitVec.getLsbD_not, hbit, decide_eq_true hi]
    by_cases h : pos = i <;> simp [h]
  · rw [if_pos rfl, BitVec.getLsbD_or, hbit]
    by_cases h : pos = i <;> simp [h]

/-- The formats that have planes, whose encodings are halves at most (R107). -/
theorem fmtBits_of_planesOf {ty : BitVec 4} {fm : Fmt} {n : Nat} (hn : planesOf ty = some n) (hfm : fmtOf ty.toNat = some fm) : fmtBits fm ≤ 16 := by
  have hty : ∀ ty : BitVec 4, (planesOf ty).isSome = true → ∀ fm, fmtOf ty.toNat = some fm → fmtBits fm ≤ 16 := by
    intro ty
    have : ∀ ty : BitVec 4, (planesOf ty).isSome = true → ((fmtOf ty.toNat).all fun fm => fmtBits fm ≤ 16) = true := by decide
    intro h fm hf
    simpa [hf] using this ty h
  exact hty ty (by rw [hn]; rfl) fm hfm

theorem planePos_lt {f : Fmt} {p k : Nat} (hf : fmtBits f ≤ 16) (hk : planePos f p = some k) : k < 16 := by
  unfold planePos at hk
  split at hk
  case h_1 eb mb bias hff =>
    have hbits := fmtBits_of_float hff
    split_ifs at hk <;> cases hk <;> omega
  case h_2 =>
    cases hk
    have := (fmtBits_le f).1
    omega

/-- UNPLANE on one register: the bit that the plane carries is replaced in both halves (R107). -/
theorem unplane32_rule {fm : Fmt} (hf : fmtBits fm ≤ 16) (p : Nat) (w : Word) (l : Nat) (c : Lane32) {i : Nat} (hi : i < 16) :
    (unplane32 fm p w l c).getLsbD i = (if planePos fm p = some i then w.getLsbD l else c.getLsbD i) ∧
      (unplane32 fm p w l c).getLsbD (16 + i) = (if planePos fm p = some i then w.getLsbD (32 + l) else c.getLsbD (16 + i)) := by
  unfold unplane32
  cases hk : planePos fm p with
  | none => simp
  | some k =>
    have hk16 := planePos_lt hf hk
    show (putBit (putBit c k (w.getLsbD l)) (16 + k) (w.getLsbD (32 + l))).getLsbD i = _ ∧
      (putBit (putBit c k (w.getLsbD l)) (16 + k) (w.getLsbD (32 + l))).getLsbD (16 + i) = _
    rw [putBit_getLsbD _ _ _ (by omega), putBit_getLsbD _ _ _ (by omega), putBit_getLsbD _ _ _ (by omega), putBit_getLsbD _ _ _ (by omega),
      if_neg (by omega), if_neg (c := k = 16 + i) (by omega)]
    simp

/-! ## Block scales (R106) -/

theorem dyadic_scaled (mx : Nat) (i : Nat) : dyadic false mx ((i : Int) - 126) = 2 ^ ((i : Int) - 126) * (mx : ℚ) := by
  simp [dyadic, mul_comm]

/-- The largest magnitude that a block's elements are to reach (R106). -/
def blkTop : Fmt → Nat | .e4m3 => 448 | .e5m2 => 57344 | _ => 2

/-- Does scaling by the power of two at place i take a maximum to the top (R106)? -/
def blkReaches (f : Fmt) (n : Nat) (e : Int) (i : Nat) : Bool :=
  xvalCompare (.fin false n e) (.fin false (blkTop f) ((i : Int) - 126)) != .gt

theorem blkScale_fin (f : Fmt) (s : Bool) (n : Nat) (e : Int) : blkScale f (.fin s (n + 1) e) =
    BitVec.ofNat 32 ((((List.range 254).find? (blkReaches f (n + 1) e)).getD 253 + 1) * 128) := by
  cases f <;> rfl

theorem blkReaches_iff (f : Fmt) (n : Nat) (e : Int) (i : Nat) :
    blkReaches f n e i = true ↔ dyadic false n e ≤ 2 ^ ((i : Int) - 126) * (blkTop f : ℚ) := by
  rw [blkReaches, bne_iff_ne, ne_eq, xvalCompare_eq_gt_iff rfl rfl, ← dyadic_scaled]
  exact not_lt

/-- The first of 254 exponents that reaches the top, the last where none does (R106). -/
theorem blkScale_rule (f : Fmt) {k : Nat} (hk : k ≠ 0) (e : Int) :
    ∃ i : Nat, i < 254 ∧ blkScale f (.fin false k e) = BitVec.ofNat 32 ((i + 1) * 2 ^ 7) ∧
      (i < 253 → dyadic false k e ≤ 2 ^ ((i : Int) - 126) * (blkTop f : ℚ)) ∧
      ∀ j : Nat, j < i → 2 ^ ((j : Int) - 126) * (blkTop f : ℚ) < dyadic false k e := by
  obtain ⟨n, rfl⟩ := Nat.exists_eq_succ_of_ne_zero hk
  rw [blkScale_fin]
  cases hfind : (List.range 254).find? (blkReaches f (n + 1) e) with
  | some i =>
    obtain ⟨hi, hlt, hbefore⟩ := List.find?_range_eq_some.mp hfind
    refine ⟨i, List.mem_range.mp hlt, rfl, fun _ => (blkReaches_iff ..).mp hi, fun j hj => ?_⟩
    have hj' := hbefore j hj
    rw [Bool.not_eq_true', ← Bool.not_eq_true, blkReaches_iff] at hj'
    exact not_le.mp hj'
  | none =>
    refine ⟨253, by omega, rfl, fun h => absurd h (by omega), fun j hj => ?_⟩
    have hj' := List.find?_eq_none.mp hfind j (List.mem_range.mpr (by omega))
    rw [blkReaches_iff] at hj'
    exact not_le.mp hj'

/-- An FP32 operand without its sign bit is not negative. -/
theorem opF_abs {t : Team} {x : Lane32} {s : Bool} {m : Nat} {e : Int} (h : opF t false (x &&& 0x7FFFFFFF) = .fin s m e) : s = false := by
  have hmsb : (x &&& 0x7FFFFFFF).msb = false := by rw [BitVec.msb_and]; exact Bool.and_false _
  have hbit : (x &&& 0x7FFFFFFF).toNat.testBit 31 = false := by rw [BitVec.testBit_toNat]; exact hmsb
  have hread := readsAs_opF t false (x &&& 0x7FFFFFFF)
  unfold ReadsAs at hread
  dsimp only at hread
  rw [if_neg Bool.false_ne_true, h] at hread
  split at hread
  · obtain ⟨e', he⟩ := hread
    cases he
    exact hmsb
  · have hdec : decodeNum .fp32 (x &&& 0x7FFFFFFF).toNat = decodeFloat .fp32 8 23 127 (x &&& 0x7FFFFFFF).toNat := rfl
    rw [hdec] at hread
    unfold decodeFloat floatValue at hread
    dsimp only at hread
    split_ifs at hread <;> cases hread <;> exact hbit

/-! ## The words -/

theorem convert_rule (src dst : Fmt) (rm : Rnd) (t : Team) (sat : Bool) (x : Lane32) :
    if fmtInt src = true ∧ fmtInt dst = true then
      let v := sext x.toNat (fmtBits src)
      if sat then (convert src dst rm sat t.ftz x).enc.toInt = max (-(2 ^ (fmtBits dst - 1))) (min v (2 ^ (fmtBits dst - 1) - 1))
      else (convert src dst rm sat t.ftz x).enc.toInt = sext (convert src dst rm sat t.ftz x).enc.toNat (fmtBits dst) ∧
        (2 ^ fmtBits dst : Int) ∣ (convert src dst rm sat t.ftz x).enc.toInt - v
    else ∃ a, (if src = .fp32 then ReadsAs t false x a else a = decodeNum src x.toNat) ∧
      (convert src dst rm sat t.ftz x).enc = (round dst rm sat t.ftz a).enc ∧
      (fmtInt dst = true → ToIntRule (fmtBits dst) rm sat a (convert src dst rm sat t.ftz x).enc) ∧
      (dst = .ts8 → ToTs8Rule rm a (convert src dst rm sat t.ftz x).enc) := by
  obtain ⟨hpos, h32⟩ := fmtBits_le dst
  have hpow : (0 : Int) < 2 ^ (fmtBits dst - 1) := by positivity
  by_cases h : fmtInt src = true ∧ fmtInt dst = true
  · have hint : (fmtInt src && fmtInt dst) = true := by rw [h.1, h.2]; rfl
    rw [if_pos h]
    simp only [convert, hint, if_true]
    cases sat
    · simp only [Bool.false_eq_true, if_false]
      exact wrapInt_rule hpos h32 _
    · simp only [if_true]
      rw [clampInt_eq (by omega)]
      exact toInt_ofInt_of_fits hpos h32 (by omega) (by omega)
  · have hint : (fmtInt src && fmtInt dst) = false := by
      rw [Bool.and_eq_false_iff]
      rcases not_and_or.mp h with h | h
      · exact .inl (by simpa using h)
      · exact .inr (by simpa using h)
    rw [if_neg h]
    simp only [convert, hint, Bool.false_eq_true, if_false]
    refine ⟨_, ?_, rfl, fun hint => ?_, ?_⟩
    · split
      · exact readsAs_opF t false x
      · rfl
    · cases dst <;> cases hint <;> exact toIntRule_toInt (by decide) (by decide) ..
    · rintro rfl
      exact toTs8Rule_round ..

theorem and_ofNat_mask (x : Lane32) (n : Nat) : (x &&& BitVec.ofNat 32 (2 ^ n - 1)).toNat = x.toNat % 2 ^ n := by
  rw [BitVec.toNat_and, BitVec.toNat_ofNat]
  refine Nat.eq_of_testBit_eq fun i => ?_
  rw [Nat.testBit_and, Nat.testBit_mod_two_pow, Nat.testBit_two_pow_sub_one, Nat.testBit_mod_two_pow]
  by_cases hi : i < 32
  · simp [hi, Bool.and_comm]
  · rw [BitVec.testBit_toNat, BitVec.getLsbD_of_ge x i (by omega), Bool.false_and, Bool.and_false]

/-- A vector word of long latency whose rule rests on the field check that it has passed. -/
theorem vecLongOp_of_fieldOk {i : Instr} {h : Hdr} {d : BitVec 8} {g : Team → Mask → Nat → List (RegId × Word)}
    {P : Team → Nat → Lane32 → Prop} (he : ∀ s, exec i s = issue i h (vecLong h g) s)
    (hg : i.fieldOk = true → ∀ t, ∀ L ∈ t.act h, ∃ x, g t (t.lanesFor h) L = toV d x ∧ P t L x) : VecLongOp i h d P := by
  intro s t hi
  have hi' := hi
  obtain ⟨-, hpre, -⟩ := hi'
  exact vecLongOp_of_exec he (hg (fieldOk_of_precheck hpre)) s t hi

/-- The top of a block's format by its code. -/
theorem blkTop_of_code {f : VA} (ht : (f.t == 3 || f.t == 4 || f.t == 7) = true) :
    (blkTop ((fmtOf f.t.toNat).getD .e4m3) : ℚ) = if f.t = 3 then 448 else if f.t = 4 then 57344 else 2 := by
  simp only [Bool.or_eq_true, beq_iff_eq] at ht
  rcases ht with (ht | ht) | ht <;> rw [ht] <;> simp [fmtOf, blkTop]

/-- Settles O8: conversions by their rule for the destination, packing and planes bit by bit, block scales by order and quotient. -/
theorem conversionsAndPacking : Obligations.ConversionsAndPacking := by
  refine ⟨fun h f => ?_, fun h f => ⟨?_, ?_, ?_, ?_, ?_⟩, fun h f => ⟨?_, ?_⟩⟩
  case refine_1 =>
    refine vecOp_of_exec (fun _ => rfl) fun t L _ => ⟨_, rfl, fun src dst hsrc hdst => ?_⟩
    rw [hsrc, hdst, Option.getD_some, Option.getD_some, rmOf_eq]
    exact convert_rule ..
  case refine_2 => exact vecOp_of_exec (fun _ => rfl) fun t L _ => ⟨_, rfl, fun i hi => pack4_rule _ _ _ hi⟩
  case refine_3 => exact vecOp_of_exec (fun _ => rfl) fun t L _ => ⟨_, rfl, fun i hi => unpack4_rule 0 _ hi⟩
  case refine_4 => exact vecOp_of_exec (fun _ => rfl) fun t L _ => ⟨_, rfl, fun i hi => unpack4_rule 4 _ hi⟩
  case refine_5 =>
    refine pairLongOp_of_exec (fun _ => rfl) fun t L _ => ⟨_, rfl, fun fm hfm l hl => ?_⟩
    rw [hfm, Option.getD_some]
    refine ⟨?_, ?_⟩
    · rw [planeWord_getLsbD _ _ _ _ _ _ (by omega), Nat.mod_eq_of_lt hl, Nat.div_eq_of_lt hl]
      simp [opA, srcA]
    · have hlt := (opA t f (32 * (L / 32) + l)).isLt
      rw [planeWord_getLsbD _ _ _ _ _ _ (by omega), Nat.add_mod_left, Nat.mod_eq_of_lt hl, show (32 + l) / 32 = 1 by omega,
        Nat.mod_eq_of_lt (a := _ / _) (by omega)]
      rfl
  case refine_6 =>
    refine vecLongOp_of_fieldOk (fun _ => rfl) fun hok t L _ => ⟨_, rfl, fun fm hfm i hi => ?_⟩
    obtain ⟨ht, -⟩ := VA.ok_fields hok
    obtain ⟨n, hn, -⟩ := (Option.any_eq_true _ _).mp ht
    rw [hfm, Option.getD_some]
    exact unplane32_rule (fmtBits_of_planesOf hn hfm) _ _ _ _ hi
  case refine_7 =>
    refine vecOp_of_fieldOk (fun _ => rfl) fun hok t L _ => ⟨_, rfl, _, readsAs_opF .., ?_⟩
    obtain ⟨ht, -⟩ := VA.ok_fields hok
    show match opF t false (opA t f L &&& 0x7FFFFFFF) with | .fin _ _ _ => _ | _ => _
    cases ha : opF t false (opA t f L &&& 0x7FFFFFFF) with
    | nan _ | inf _ => rfl
    | fin s k e =>
      obtain rfl := opF_abs ha
      dsimp only
      split
      case isTrue hk => rw [hk]; rfl
      case isFalse hk => rw [← blkTop_of_code ht]; exact blkScale_rule _ hk e
  case refine_8 =>
    refine vecOp_of_exec (fun _ => rfl) fun t L _ => ⟨_, rfl, fun fm hfm => ⟨_, _, readsAs_opF .., quotientOf_div .., ?_⟩⟩
    rw [hfm, Option.getD_some, rmOf_eq]
    exact and_ofNat_mask ..

end Sys2Proof.Machine

/-! PROOFS. Row 0x05: reciprocals and roots correctly rounded, E2, and the exact results of FLOG2, FSIN and FCOS (R91, R103). -/

namespace Sys2Proof.Machine

open Host

-- proofs that wait for one another's congruence lemmas would each hold a thread
set_option Elab.async false

/-! ## Square roots -/

/-- Newton's iteration from above reaches ⌊√n⌋ once its error is used up: each step halves it. -/
theorem isqrtIter_eq_sqrt {n : Nat} (hn : n ≠ 0) (k x : Nat) (hge : n.sqrt ≤ x) (herr : x - n.sqrt < 2 ^ k) : isqrtIter n k x = n.sqrt := by
  have hpos : 0 < n.sqrt := Nat.sqrt_pos.mpr (Nat.pos_of_ne_zero hn)
  induction k generalizing x with
  | zero =>
    rw [pow_zero] at herr
    rw [isqrtIter]
    omega
  | succ k ih =>
    have hsq : n < (n.sqrt + 1) * (n.sqrt + 1) := Nat.lt_succ_sqrt n
    have hsq' : n.sqrt * n.sqrt ≤ n := Nat.sqrt_le n
    have hx0 : 0 < x := hpos.trans_le hge
    unfold isqrtIter
    dsimp only
    rcases Nat.eq_or_lt_of_le hge with heq | hlt
    · have hdiv : x ≤ n / x := (Nat.le_div_iff_mul_le hx0).mpr (by rw [← heq]; exact hsq')
      rw [if_neg (by omega), heq]
    · have hdiv : n / x ≤ n.sqrt := by
        rw [← Nat.lt_succ_iff, Nat.div_lt_iff_lt_mul hx0]
        exact hsq.trans_le (Nat.mul_le_mul_left _ hlt)
      have hlow : n.sqrt ≤ (x + n / x) / 2 := by
        have hmul : n < x * (n / x + 1) := Nat.lt_mul_div_succ n hx0
        have : 2 * n.sqrt < x + (n / x + 1) := by
          by_contra hcon
          have h4 : (x + (n / x + 1)) * (x + (n / x + 1)) ≤ 2 * n.sqrt * (2 * n.sqrt) := Nat.mul_le_mul (not_lt.mp hcon) (not_lt.mp hcon)
          nlinarith [sq_nonneg ((x : Int) - (n / x + 1 : Nat))]
        omega
      rw [pow_succ] at herr
      rw [if_pos (by omega)]
      exact ih _ hlow (by omega)

theorem isqrt_eq_sqrt (n : Nat) : isqrt n = n.sqrt := by
  unfold isqrt
  split
  case isTrue h => rw [h, Nat.sqrt_zero]
  case isFalse h =>
    have hlt := lt_two_pow_bitLen n
    have hb : 0 < bitLen n := by rw [bitLen, if_neg h]; omega
    refine isqrtIter_eq_sqrt h _ _ ?_ ?_
    · refine (Nat.sqrt_lt'.mpr ?_).le
      rw [← pow_mul]
      exact hlt.trans_le (Nat.pow_le_pow_right two_pos (by omega))
    · have : 2 ^ ((bitLen n + 1) / 2) ≤ 2 ^ bitLen n := Nat.pow_le_pow_right two_pos (by omega)
      have := Nat.sqrt_pos.mpr (Nat.pos_of_ne_zero h)
      omega

/-- A real square root from below: r is the integer root of the whole part of y. -/
theorem sqrt_between {y : ℝ} {a : Nat} (ha : (a : ℝ) ≤ y) (ha' : y < a + 1) : (a.sqrt : ℝ) ≤ √y ∧ √y < a.sqrt + 1 := by
  have h1 : (a.sqrt : ℝ) * a.sqrt ≤ a := by exact_mod_cast Nat.sqrt_le a
  have h2 : (a : ℝ) + 1 ≤ (a.sqrt + 1) * (a.sqrt + 1) := by exact_mod_cast Nat.lt_succ_sqrt a
  constructor
  · exact Real.le_sqrt_of_sq_le (by rw [sq]; linarith)
  · rw [Real.sqrt_lt' (by positivity), sq]; linarith

/-- A real square root is given to Round by its whole part in units of 2^e. -/
theorem sqrt_stickyOf {y r : ℝ} {a : Nat} {e : Int} {exact : Bool} (hr : r = √y * 2 ^ e) (ha : (a : ℝ) ≤ y) (ha' : y < a + 1) (hbig : 2 ^ 120 ≤ a)
    (hexact : exact = true ↔ (a.sqrt : ℝ) * a.sqrt = y) : StickyOf r (sticky false a.sqrt e exact) := by
  have ha0 : (0 : ℝ) < a := by exact_mod_cast (Nat.two_pow_pos 120).trans_le hbig
  have hy : 0 < y := ha0.trans_le ha
  obtain ⟨hlo, hhi⟩ := sqrt_between ha ha'
  have hpow : (0 : ℝ) < 2 ^ e := by positivity
  refine stickyOf_sticky (ρ := √y * 2 ^ e) (by have := Real.sqrt_pos.mpr hy; positivity) (by simp [hr]) (fun hx => ?_) fun hx => ⟨?_, ?_, ?_⟩
  · rw [← hexact.mp hx, Real.sqrt_mul_self (Nat.cast_nonneg _)]
  · rw [Nat.le_sqrt]; omega
  · refine mul_lt_mul_of_pos_right (lt_of_le_of_ne hlo fun heq => ?_) hpow
    have : exact = true := hexact.mpr (by rw [heq, Real.mul_self_sqrt hy.le])
    rw [hx] at this
    cases this
  · exact mul_lt_mul_of_pos_right hhi hpow

theorem realSqrt_stickyOf {m : Nat} (hm : m ≠ 0) (e : Int) : StickyOf (√((dyadic false m e : ℚ) : ℝ)) (realSqrt m e) := by
  obtain ⟨k, hk⟩ : ∃ k : Nat, k = if (e - 160) % 2 = 0 then 160 else 161 := ⟨_, rfl⟩
  have hdef : realSqrt m e = sticky false (isqrt (m * 2 ^ k)) ((e - k) / 2) (isqrt (m * 2 ^ k) * isqrt (m * 2 ^ k) == m * 2 ^ k) := by
    rw [hk]; rfl
  have hk160 : 160 ≤ k := by rw [hk]; split <;> omega
  obtain ⟨j, hj⟩ : ∃ j : Int, e - k = 2 * j := ⟨(e - k) / 2, by rw [hk]; split <;> omega⟩
  rw [hdef, isqrt_eq_sqrt, show (e - k) / 2 = j by omega]
  have hval : ((dyadic false m e : ℚ) : ℝ) = ((m * 2 ^ k : Nat) : ℝ) * (2 ^ j) ^ 2 := by
    have hexp : (2 : ℝ) ^ e = 2 ^ (k : Int) * (2 ^ j) ^ 2 := by
      rw [← zpow_natCast (2 ^ j) 2, ← zpow_mul, ← zpow_add₀ two_ne_zero]; congr 1; push_cast; omega
    simp only [dyadic, Bool.false_eq_true, if_false, one_mul]
    push_cast
    rw [hexp, zpow_natCast, mul_assoc]
  refine sqrt_stickyOf (y := ((m * 2 ^ k : Nat) : ℝ)) ?_ le_rfl (lt_add_one _) ?_ ?_
  · rw [hval, Real.sqrt_mul (Nat.cast_nonneg _), Real.sqrt_sq (by positivity)]
  · have h1 : 2 ^ 160 ≤ 2 ^ k := Nat.pow_le_pow_right two_pos hk160
    have h2 : 2 ^ k ≤ m * 2 ^ k := Nat.le_mul_of_pos_left _ (Nat.pos_of_ne_zero hm)
    omega
  · rw [beq_iff_eq]; norm_cast

/-- The whole part of a quotient of naturals, among the reals. -/
theorem natDiv_between (x : Nat) {m : Nat} (hm : m ≠ 0) : ((x / m : Nat) : ℝ) ≤ (x : ℝ) / m ∧ (x : ℝ) / m < (x / m : Nat) + 1 := by
  have h0 : (0 : ℝ) < m := by exact_mod_cast Nat.pos_of_ne_zero hm
  rw [le_div_iff₀ h0, div_lt_iff₀ h0]
  exact ⟨by exact_mod_cast Nat.div_mul_le_self x m, by exact_mod_cast Nat.lt_div_mul_add (Nat.pos_of_ne_zero hm) |>.trans_eq (by ring)⟩

/-- A reciprocal root for an even exponent 2 i. -/
theorem rsqrt_stickyOf {m : Nat} (hm : m ≠ 0) (i : Int) : StickyOf (1 / √((m : ℝ) * (2 ^ i) ^ 2))
    (sticky false (isqrt (2 ^ (2 * (120 + bitLen m)) / m)) (-(120 + bitLen m : Nat) - i)
      (m * isqrt (2 ^ (2 * (120 + bitLen m)) / m) * isqrt (2 ^ (2 * (120 + bitLen m)) / m) == 2 ^ (2 * (120 + bitLen m)))) := by
  obtain ⟨j, hj⟩ : ∃ j, j = 120 + bitLen m := ⟨_, rfl⟩
  rw [← hj, isqrt_eq_sqrt]
  have h0 : (0 : ℝ) < m := by exact_mod_cast Nat.pos_of_ne_zero hm
  obtain ⟨hlo, hhi⟩ := natDiv_between (2 ^ (2 * j)) hm
  refine sqrt_stickyOf (y := ((2 ^ (2 * j) : Nat) : ℝ) / m) ?_ hlo hhi ?_ ?_
  · have hsq : ((2 ^ (2 * j) : Nat) : ℝ) = (2 ^ j) ^ 2 := by push_cast; rw [← pow_mul, Nat.mul_comm]
    rw [hsq, Real.sqrt_div (by positivity), Real.sqrt_sq (by positivity), Real.sqrt_mul h0.le, Real.sqrt_sq (by positivity),
      zpow_sub₀ two_ne_zero, zpow_neg, zpow_natCast]
    field_simp
  · rw [Nat.le_div_iff_mul_le (Nat.pos_of_ne_zero hm)]
    have h1 := (lt_two_pow_bitLen m).le
    calc 2 ^ 120 * m ≤ 2 ^ 120 * 2 ^ bitLen m := Nat.mul_le_mul_left _ h1
      _ = 2 ^ j := by rw [hj, pow_add]
      _ ≤ 2 ^ (2 * j) := Nat.pow_le_pow_right two_pos (by omega)
  · rw [beq_iff_eq, eq_div_iff h0.ne', Nat.mul_assoc, Nat.mul_comm]
    norm_cast

theorem realRsqrt_stickyOf {m : Nat} (hm : m ≠ 0) (e : Int) : StickyOf (1 / √((dyadic false m e : ℚ) : ℝ)) (realRsqrt m e) := by
  have hdy (m' : Nat) (i : Int) : ((dyadic false m' (2 * i) : ℚ) : ℝ) = (m' : ℝ) * (2 ^ i) ^ 2 := by
    simp only [dyadic, Bool.false_eq_true, if_false, one_mul]
    push_cast
    rw [← zpow_natCast (2 ^ i) 2, ← zpow_mul, mul_comm 2 i]
    rfl
  unfold realRsqrt
  by_cases he : e % 2 = 0
  · obtain ⟨i, rfl⟩ : ∃ i, e = 2 * i := ⟨e / 2, by omega⟩
    rw [hdy]
    simp only [he, if_true, Int.mul_ediv_cancel_left _ (two_ne_zero)]
    exact rsqrt_stickyOf hm i
  · obtain ⟨i, rfl⟩ : ∃ i, e = 2 * i + 1 := ⟨e / 2, by omega⟩
    have hdouble : dyadic false m (2 * i + 1) = dyadic false (2 * m) (2 * i) := by
      simp only [dyadic, zpow_add₀ (two_ne_zero : (2 : ℚ) ≠ 0)]
      push_cast
      ring
    rw [hdouble, hdy]
    simp only [he, if_false, add_sub_cancel_right, Int.mul_ediv_cancel_left _ (two_ne_zero)]
    exact rsqrt_stickyOf (by omega) i

/-! ## FRCP, FRSQ and FSQRT (R103) -/

theorem frcpVal_rule (a : XVal) : QuotientOf (.fin false 1 0) a (frcpVal a) := by
  match a with
  | .nan _ => rfl
  | .inf s => exact ⟨0, by cases s <;> rfl⟩
  | .fin s m e =>
    unfold frcpVal
    by_cases hm : m = 0
    · cases s <;> simp [QuotientOf, hm]
    · simp only [hm, if_false]
      exact quotientOf_div _ _

theorem frsqVal_rule (a : XVal) : match a with
    | .fin s m e => if m = 0 then frsqVal a = .inf s else if s then frsqVal a = .nan true else
        StickyOf (1 / √((dyadic false m e : ℚ) : ℝ)) (frsqVal a)
    | .inf s => if s then frsqVal a = .nan true else ∃ e, frsqVal a = .fin false 0 e
    | .nan _ => (frsqVal a).isNan = true := by
  match a with
  | .nan _ => rfl
  | .inf s => cases s; exacts [⟨0, rfl⟩, rfl]
  | .fin s m e =>
    dsimp only [frsqVal]
    by_cases hm : m = 0
    · rw [if_pos hm, if_pos hm]
    · rw [if_neg hm, if_neg hm]
      cases s
      · exact realRsqrt_stickyOf hm e
      · rfl

theorem fsqrtVal_rule (a : XVal) : match a with
    | .fin s m e => if m = 0 then ∃ e, fsqrtVal a = .fin s 0 e else if s then fsqrtVal a = .nan true else
        StickyOf (√((dyadic false m e : ℚ) : ℝ)) (fsqrtVal a)
    | .inf s => if s then fsqrtVal a = .nan true else fsqrtVal a = .inf false
    | .nan _ => (fsqrtVal a).isNan = true := by
  match a with
  | .nan _ => rfl
  | .inf s => cases s <;> rfl
  | .fin s m e =>
    dsimp only [fsqrtVal]
    by_cases hm : m = 0
    · rw [if_pos hm, if_pos hm]; exact ⟨0, rfl⟩
    · rw [if_neg hm, if_neg hm]
      cases s
      · exact realSqrt_stickyOf hm e
      · rfl

/-! ## FLOG2, FSIN and FCOS where they are exact (R103) -/

theorem VA.ok_plain {f : VA} {tOk useB useC useRm useSat : Bool} {sub : BitVec 6} {fl : BitVec 4}
    (hok : f.ok tOk useB useC useRm useSat sub fl = true) : (useRm = false → f.rm = 0) ∧ (useSat = false → f.sat = false) := by
  simp only [VA.ok, Bool.and_eq_true, Bool.or_eq_true, beq_iff_eq, Bool.not_eq_true'] at hok
  obtain ⟨⟨⟨⟨⟨⟨-, hrm⟩, hsat⟩, -⟩, -⟩, -⟩, -⟩ := hok
  exact ⟨fun h => hrm.resolve_left (by simp [h]), fun h => hsat.resolve_left (by simp [h])⟩

/-- A dyadic value that is a power of two. -/
theorem eq_two_pow_of_dyadic {s : Bool} {m : Nat} {e k : Int} (h : dyadic s m e = 2 ^ k) : s = false ∧ ∃ j : Nat, m = 2 ^ j ∧ e + j = k := by
  have hk : (0 : ℚ) < 2 ^ k := by positivity
  have he : (0 : ℚ) < 2 ^ e := by positivity
  have hs : s = false := by
    cases s with
    | false => rfl
    | true =>
      have : dyadic true m e ≤ 0 := by
        simp only [dyadic, if_true]
        have : (0 : ℚ) ≤ m * 2 ^ e := by positivity
        linarith
      linarith
  subst hs
  refine ⟨rfl, (k - e).toNat, ?_⟩
  have hm : (m : ℚ) = 2 ^ (k - e) := by
    rw [zpow_sub₀ two_ne_zero, eq_div_iff he.ne', ← h]
    simp [dyadic]
  have hge : 0 ≤ k - e := by
    by_contra hneg
    have hm1 : (1 : ℚ) ≤ m := by
      have : m ≠ 0 := by rintro rfl; rw [Nat.cast_zero] at hm; have : (0 : ℚ) < 2 ^ (k - e) := by positivity
                         linarith
      exact_mod_cast Nat.one_le_iff_ne_zero.mpr this
    have : (2 : ℚ) ^ (k - e) < 1 := zpow_lt_one_of_neg₀ one_lt_two (by omega)
    linarith
  refine ⟨?_, by omega⟩
  rw [← Int.toNat_of_nonneg hge, zpow_natCast] at hm
  exact_mod_cast hm

theorem realLog2_two_pow (j : Nat) (e : Int) : realLog2 (2 ^ j) e = XVal.ofInt (e + j) := by
  have hb : bitLen (2 ^ j) = j + 1 := bitLen_of_form le_rfl (Nat.pow_lt_pow_right one_lt_two (Nat.lt_succ_self j))
  unfold realLog2
  rw [hb]
  simp only [Nat.add_sub_cancel, if_true]
  congr 1
  push_cast
  ring

/-- Multiples of a quarter turn (R103). -/
theorem sinFrac_quarter {q d : Nat} (hq : q < 4) (hd : 2 ≤ d) :
    sinFrac (q * 2 ^ (d - 2)) d = if q % 2 = 0 then .fin false 0 0 else .fin (decide (2 ≤ q)) 1 0 := by
  have hsplit : 8 * (q * 2 ^ (d - 2)) = 2 * q * 2 ^ d := by
    rw [show d = d - 2 + 2 by omega, pow_add, Nat.add_sub_cancel]; ring
  have hdiv : 8 * (q * 2 ^ (d - 2)) / 2 ^ d = 2 * q := by rw [hsplit, Nat.mul_div_cancel _ (Nat.two_pow_pos d)]
  have hmod : 8 * (q * 2 ^ (d - 2)) % 2 ^ d = 0 := by rw [hsplit, Nat.mul_mod_left]
  unfold sinFrac
  simp only [hdiv, hmod]
  interval_cases q <;> rfl

/-- The fraction of a turn of a magnitude, in units of 2^(−d), d at least 2, where it is K quarters. -/
theorem turnFrac_quarter {m K : Nat} {e : Int} (h : 4 * dyadic false m e = K) {d : Nat} (hd : 2 ≤ d) (hde : (-e).toNat ≤ d) :
    (if 0 ≤ e then 0 else m * 2 ^ (d - (-e).toNat) % 2 ^ d) = K % 4 * 2 ^ (d - 2) := by
  have hd4 : 2 ^ d = 4 * 2 ^ (d - 2) := by rw [show d = d - 2 + 2 by omega, pow_add, Nat.add_sub_cancel]; ring
  have hdy : dyadic false m e = m * 2 ^ e := by simp [dyadic]
  rw [hdy] at h
  split
  case isTrue he =>
    obtain ⟨n, rfl⟩ := Int.eq_ofNat_of_zero_le he
    have hK : K = 4 * (m * 2 ^ n) := by rw [zpow_natCast] at h; exact_mod_cast h.symm
    rw [hK, Nat.mul_mod_right, Nat.zero_mul]
  case isFalse he =>
    obtain ⟨t, ht⟩ : ∃ t : Nat, e = -t := ⟨(-e).toNat, by omega⟩
    have htn : (-e).toNat = t := by omega
    rw [htn] at hde ⊢
    have hK : 4 * m = K * 2 ^ t := by
      rw [ht, zpow_neg, zpow_natCast, ← div_eq_mul_inv, ← mul_div_assoc, div_eq_iff (by positivity)] at h
      exact_mod_cast h
    have hm : m * 2 ^ (d - t) = 2 ^ (d - 2) * K := by
      have : 4 * (m * 2 ^ (d - t)) = 4 * (2 ^ (d - 2) * K) := by
        calc 4 * (m * 2 ^ (d - t)) = K * (2 ^ t * 2 ^ (d - t)) := by rw [← mul_assoc, hK]; ring
          _ = K * 2 ^ d := by rw [← pow_add, Nat.add_sub_cancel' hde]
          _ = 4 * (2 ^ (d - 2) * K) := by rw [hd4]; ring
      omega
    rw [hm, hd4, Nat.mul_comm 4, Nat.mul_mod_mul_left, Nat.mul_comm]

/-- A multiple k of a quarter turn, its fraction counted in units of 2^(−d) (R103). -/
theorem realSinCos_quarter {s : Bool} {m : Nat} {e k : Int} (h : 4 * dyadic s m e = k) (quarter : Nat) :
    realSinCos quarter s m e = if (k + quarter) % 2 = 0 then .fin false 0 0 else .fin (decide (2 ≤ (k + quarter) % 4)) 1 0 := by
  obtain ⟨d, hd⟩ : ∃ d, d = max 2 (-e).toNat := ⟨_, rfl⟩
  have hd2 : 2 ≤ d := by omega
  have hd4 : 2 ^ d = 4 * 2 ^ (d - 2) := by rw [show d = d - 2 + 2 by omega, pow_add, Nat.add_sub_cancel]; ring
  have hpos := Nat.two_pow_pos (d - 2)
  have hneg : dyadic true m e = -dyadic false m e := by simp [dyadic]
  have h0 : 0 ≤ dyadic false m e := by simp only [dyadic, Bool.false_eq_true, if_false]; positivity
  obtain ⟨K, hK, hk⟩ : ∃ K : Nat, 4 * dyadic false m e = K ∧ k = if s then -(K : Int) else K := by
    cases s with
    | false =>
      have hk0 : (0 : ℚ) ≤ k := by rw [← h]; linarith
      obtain ⟨K, rfl⟩ := Int.eq_ofNat_of_zero_le (by exact_mod_cast hk0)
      exact ⟨K, by exact_mod_cast h, rfl⟩
    | true =>
      rw [hneg] at h
      have hk0 : (0 : ℚ) ≤ (-k : Int) := by push_cast; rw [← h]; linarith
      obtain ⟨K, hK⟩ := Int.eq_ofNat_of_zero_le (a := -k) (by exact_mod_cast hk0)
      refine ⟨K, ?_, by rw [if_pos rfl]; omega⟩
      have : ((-k : Int) : ℚ) = K := by exact_mod_cast hK
      push_cast at this
      linarith
  have hfrac := turnFrac_quarter hK hd2 (by omega)
  have hdef : realSinCos quarter s m e = sinFrac (((if s then (2 ^ d - if 0 ≤ e then 0 else m * 2 ^ (d - (-e).toNat) % 2 ^ d) % 2 ^ d
      else if 0 ≤ e then 0 else m * 2 ^ (d - (-e).toNat) % 2 ^ d) + quarter * 2 ^ (d - 2)) % 2 ^ d) d := by rw [hd]; rfl
  have hquarters (q : Nat) : q * 2 ^ (d - 2) % 2 ^ d = q % 4 * 2 ^ (d - 2) := by rw [hd4, Nat.mul_mod_mul_right]
  have hsign : (if s then (2 ^ d - K % 4 * 2 ^ (d - 2)) % 2 ^ d else K % 4 * 2 ^ (d - 2)) = (k % 4).toNat * 2 ^ (d - 2) := by
    cases s with
    | false => rw [if_neg Bool.false_ne_true, hk, if_neg Bool.false_ne_true]; rfl
    | true =>
      rw [if_pos rfl, hk, if_pos rfl, hd4, ← Nat.sub_mul, ← hd4, hquarters]
      congr 1
      omega
  rw [hdef, hfrac, hsign, ← Nat.add_mul, hquarters, sinFrac_quarter (Nat.mod_lt _ (by decide)) hd2]
  have hq : (((k % 4).toNat + quarter) % 4 : Nat) = (k + quarter) % 4 := by omega
  have h2 : ((k % 4).toNat + quarter) % 4 % 2 = 0 ↔ (k + quarter) % 2 = 0 := by omega
  simp only [h2]
  congr 2
  exact decide_eq_decide.mpr (by omega)

/-! ## E2's constants (R91) -/

/-- ⌊2^(i/64) × 2^96⌋ for i from 0 to 64, written out. -/
def exp2Table : List Nat :=
  [0x1000000000000000000000000, 0x102c9a3e778060ee6f7caca4f, 0x1059b0d31585743ae7c548eb6, 0x10874518759bc808c35f25d94,
   0x10b5586cf9890f6298b92b718, 0x10e3ec32d3d1a2020742e4f8a, 0x111301d0125b50a4ebbf1aed9, 0x11429aaea92ddfb34101943b2,
   0x1172b83c7d517adcdf7c8c50e, 0x11a35beb6fcb753cb698f692d, 0x11d4873168b9aa7805b802899, 0x12063b88628cd63b8eeb02950,
   0x12387a6e75623866c1fadb1c1, 0x126b4565e27cdd257a673281d, 0x129e9df51fdee12c25d15f5a2, 0x12d285a6e4030b40091d536d0,
   0x1306fe0a31b7152de8d5a4630, 0x133c08b26416ff4c9c8610d96, 0x1371a7373aa9caa7145502f45, 0x13a7db34e59ff6ea1bc9299e0,
   0x13dea64c12342235b41223e13, 0x14160a21f72e29f84325b8f3d, 0x144e086061892d03136f409df, 0x1486a2b5c13cd013c1a3b6906,
   0x14bfdad5362a271d4397afec4, 0x14f9b2769d2ca6ad33d8b69aa, 0x15342b569d4f81df0a83c49d8, 0x156f4736b527da66ecb004764,
   0x15ab07dd48542958c93015191, 0x15e76f15ad21486e9be4c2039, 0x16247eb03a5584b1f0fa06fd2, 0x166238825522249127d9e29b8,
   0x16a09e667f3bcc908b2fb1366, 0x16dfb23c651a2ef220e2cbe1b, 0x171f75e8ec5f73dd2370f2ef0, 0x175feb564267c8bf6e9aa33a4,
   0x17a11473eb0186d7d51023f6c, 0x17e2f336cf4e62105d02ba157, 0x182589994cce128acf88afab3, 0x1868d99b4492ec80e41d90ac2,
   0x18ace5422aa0db5ba7c55a192, 0x18f1ae991577362b982745c72, 0x193737b0cdc5e4f4501c3f254, 0x197d829fde4e4f8b9e920f91e,
   0x19c49182a3f0901c7c46b071f, 0x1a0c667b5de564b29ada8b8ca, 0x1a5503b23e255c8b424491caf, 0x1a9e6b5579fdbf43eb243bdff,
   0x1ae89f995ad3ad5e8734d1773, 0x1b33a2b84f15faf6bfd0e7bd9, 0x1b7f76f2fb5e46eaa7b081ab5, 0x1bcc1e904bc1d2247ba0f45b3,
   0x1c199bdd85529c2220cb12a09, 0x1c67f12e57d14b4a2137fd20f, 0x1cb720dcef90691503cbd1e94, 0x1d072d4a07897b8d0f22f21a1,
   0x1d5818dcfba48725da05aeb66, 0x1da9e603db3285708c01a5b6d, 0x1dfc97337b9b5eb968cac39ed, 0x1e502ee78b3ff6273d1301539,
   0x1ea4afa2a490d9858f73a18f5, 0x1efa1bee615a27771fd21a92d, 0x1f50765b6e4540674f84b7628, 0x1fa7c1819e90d82e90a7e74b2,
   0x2000000000000000000000000]

theorem exp2Table_bounds : ∀ i < 65, exp2Table.getD i 0 ^ 64 ≤ 2 ^ (i + 6144) ∧ 2 ^ (i + 6144) < (exp2Table.getD i 0 + 1) ^ 64 ∧
    (i % 64 ≠ 0 → exp2Table.getD i 0 ^ 64 ≠ 2 ^ (i + 6144)) := by
  decide +kernel

/-- Square roots of square roots, rounded down each time, are rounded down once. -/
theorem sqrt_pow_le (n k : Nat) {r : Nat} (hr : r ^ k ≤ n.sqrt) : r ^ (2 * k) ≤ n := by
  rw [Nat.mul_comm, pow_mul]
  exact (Nat.pow_le_pow_left hr 2).trans (Nat.sqrt_le' n)

theorem lt_sqrt_pow (n k : Nat) {r : Nat} (hr : n.sqrt < r ^ k) : n < r ^ (2 * k) := by
  rw [Nat.mul_comm, pow_mul]
  exact Nat.sqrt_lt'.mp hr

theorem exp2Root_eq_table : ∀ i < 65, exp2Root i = exp2Table.getD i 0 := by
  intro i hi
  obtain ⟨hlo, hhi, -⟩ := exp2Table_bounds i hi
  have hroot (n : Nat) : (isqrt (isqrt (isqrt (isqrt (isqrt (isqrt n)))))) ^ 64 ≤ n ∧ n < (isqrt (isqrt (isqrt (isqrt (isqrt (isqrt n))))) + 1) ^ 64 := by
    simp only [isqrt_eq_sqrt]
    constructor
    · exact sqrt_pow_le _ 32 (sqrt_pow_le _ 16 (sqrt_pow_le _ 8 (sqrt_pow_le _ 4 (sqrt_pow_le _ 2 (sqrt_pow_le _ 1 (pow_one _).le)))))
    · exact lt_sqrt_pow _ 32 (lt_sqrt_pow _ 16 (lt_sqrt_pow _ 8 (lt_sqrt_pow _ 4 (lt_sqrt_pow _ 2 (lt_sqrt_pow _ 1
        (by rw [pow_one]; exact Nat.lt_succ_self _))))))
  obtain ⟨hrlo, hrhi⟩ := hroot (2 ^ (i + 6144))
  have h1 := lt_of_pow_lt_pow_left₀ 64 (Nat.zero_le _) (hlo.trans_lt hrhi)
  have h2 := lt_of_pow_lt_pow_left₀ 64 (Nat.zero_le _) (hrlo.trans_lt hhi)
  have hdef : exp2Root i = isqrt (isqrt (isqrt (isqrt (isqrt (isqrt (2 ^ (i + 6144))))))) := rfl
  rw [hdef]
  omega

/-- The differences of neighbouring entries leave room below and above them in units of 2^(−88), and Round does not see the difference. -/
theorem exp2Table_steps : ∀ i < 64, exp2Table.getD i 0 < exp2Table.getD (i + 1) 0 ∧ 0 < (exp2Table.getD (i + 1) 0 - exp2Table.getD i 0) % 256 ∧
    2 ^ 60 ≤ (exp2Table.getD (i + 1) 0 - exp2Table.getD i 0) / 256 ∧
    (round .fp32 .rne false false (sticky false (exp2Table.getD (i + 1) 0 - exp2Table.getD i 0) (-96) false)).enc =
      (round .fp32 .rne false false (sticky false ((exp2Table.getD (i + 1) 0 - exp2Table.getD i 0) / 256) (-88) false)).enc := by
  decide +kernel

/-- A positive number of at least lo bits, below 2^(−up + 1) in FP32's significand. -/
def isConstant (lo : Nat) (up : Int) : XVal → Bool
  | .fin s m e => !s && decide (2 ^ lo ≤ m) && decide (m < 2 ^ 24) && decide (e + up ≤ -23) && decide (lo = 0 ∨ e = -23)
  | _ => false

/-- The constants as numbers: c0 from 1 to 2, c1 between 0 and 1. -/
theorem exp2Table_constants : ∀ i < 64,
    isConstant 23 0 (decodeNum .fp32 (round .fp32 .rne false false (sticky false (exp2Table.getD i 0) (-96) (i == 0))).enc.toNat) = true ∧
    isConstant 0 1 (decodeNum .fp32 (round .fp32 .rne false false (sticky false (exp2Table.getD (i + 1) 0 - exp2Table.getD i 0) (-96) false)).enc.toNat)
      = true := by
  decide +kernel

/-- The k-th root of 2^i by integer powers, in units of 1 / b. -/
theorem rpow_between_of_pow {r b k i : Nat} (hk : k ≠ 0) (hb : 0 < b) (hlo : r ^ k ≤ 2 ^ i * b ^ k) (hhi : 2 ^ i * b ^ k < (r + 1) ^ k) :
    (r : ℝ) / b ≤ (2 : ℝ) ^ ((i : ℝ) / k) ∧ (2 : ℝ) ^ ((i : ℝ) / k) < (r + 1) / b ∧ (r ^ k ≠ 2 ^ i * b ^ k → (r : ℝ) / b ≠ (2 : ℝ) ^ ((i : ℝ) / k)) := by
  have hk0 : (k : ℝ) ≠ 0 := by exact_mod_cast hk
  have hpow : ((2 : ℝ) ^ ((i : ℝ) / k)) ^ k = 2 ^ i := by
    rw [← Real.rpow_natCast, ← Real.rpow_mul two_pos.le, ← Real.rpow_natCast, div_mul_cancel₀ _ hk0]
  have hy : (0 : ℝ) ≤ (2 : ℝ) ^ ((i : ℝ) / k) := Real.rpow_nonneg two_pos.le _
  have hbig : (0 : ℝ) < (b : ℝ) ^ k := pow_pos (by exact_mod_cast hb) k
  have hcast : (2 : ℝ) ^ i * (b : ℝ) ^ k = ((2 ^ i * b ^ k : Nat) : ℝ) := by push_cast; rfl
  refine ⟨?_, ?_, fun hne heq => hne ?_⟩
  · refine le_of_pow_le_pow_left₀ hk hy ?_
    rw [div_pow, hpow, div_le_iff₀ hbig, hcast]
    exact_mod_cast hlo
  · refine lt_of_pow_lt_pow_left₀ k (div_nonneg (by positivity) (Nat.cast_nonneg b)) ?_
    rw [div_pow, hpow, lt_div_iff₀ hbig, hcast]
    exact_mod_cast hhi
  · have hk' : ((r : ℝ) / b) ^ k = ((2 : ℝ) ^ ((i : ℝ) / k)) ^ k := by rw [heq]
    rw [div_pow, hpow, div_eq_iff hbig.ne', hcast] at hk'
    exact_mod_cast hk'

/-- 2^(i/64) lies between its entry and the next number, in units of 2^(−96), and meets it just for whole powers. -/
theorem rpow_between {i : Nat} (hi : i < 65) : (exp2Table.getD i 0 : ℝ) * 2 ^ (-96 : Int) ≤ (2 : ℝ) ^ ((i : ℝ) / 64) ∧
    (2 : ℝ) ^ ((i : ℝ) / 64) < (exp2Table.getD i 0 + 1) * 2 ^ (-96 : Int) ∧
    (i % 64 ≠ 0 → (exp2Table.getD i 0 : ℝ) * 2 ^ (-96 : Int) ≠ (2 : ℝ) ^ ((i : ℝ) / 64)) := by
  obtain ⟨hlo, hhi, hne⟩ := exp2Table_bounds i hi
  have hN : 2 ^ (i + 6144) = 2 ^ i * (2 ^ 96) ^ 64 := by rw [← pow_mul, ← pow_add]
  rw [hN] at hlo hhi hne
  have hroot := rpow_between_of_pow (by decide) (Nat.two_pow_pos 96) hlo hhi
  have hunit (x : ℝ) : x * 2 ^ (-96 : Int) = x / ((2 ^ 96 : Nat) : ℝ) := by
    rw [zpow_neg, ← div_eq_mul_inv, Nat.cast_pow, Nat.cast_ofNat, zpow_ofNat]
  rw [Nat.cast_ofNat] at hroot
  obtain ⟨h1, h2, h3⟩ := hroot
  rw [hunit, hunit]
  exact ⟨h1, h2, fun h => h3 (hne h)⟩

theorem e2c0_stickyOf {i : Nat} (hi : i < 64) : StickyOf ((2 : ℝ) ^ ((i : ℝ) / 64)) (sticky false (exp2Root i) (-96) (i == 0)) := by
  rw [exp2Root_eq_table i (by omega)]
  obtain ⟨hlo, hhi, hne⟩ := rpow_between (i := i) (by omega)
  have hbig : 2 ^ 60 ≤ exp2Table.getD i 0 := by
    have : ∀ i < 64, 2 ^ 60 ≤ exp2Table.getD i 0 := by decide +kernel
    exact this i hi
  refine stickyOf_sticky (ρ := (2 : ℝ) ^ ((i : ℝ) / 64)) (Real.rpow_pos_of_pos two_pos _) (by simp) (fun h0 => ?_) fun h0 => ⟨hbig, ?_, hhi⟩
  · obtain rfl : i = 0 := by simpa using h0
    have htop : exp2Table.getD 0 0 = 2 ^ 96 := rfl
    rw [htop, Nat.cast_pow, Nat.cast_two, zpow_neg, zpow_ofNat, mul_inv_cancel₀ (by positivity)]
    simp
  · have hi0 : i ≠ 0 := by simpa using h0
    exact lt_of_le_of_ne hlo (hne (by omega))

/-- A difference of two numbers known to one unit lies between two neighbours 256 units apart, where it does not meet them. -/
theorem sub_between {a b : Nat} {x y u : ℝ} (hu : 0 < u) (hab : a < b) (hmod : 0 < (b - a) % 256) (hx : a * u ≤ x) (hx' : x < (a + 1) * u)
    (hy : b * u ≤ y) (hy' : y < (b + 1) * u) :
    ((b - a) / 256 : Nat) * (256 * u) < y - x ∧ y - x < (((b - a) / 256 : Nat) + 1) * (256 * u) := by
  obtain ⟨n, rfl⟩ := Nat.exists_eq_add_of_le hab.le
  rw [Nat.add_sub_cancel_left] at *
  have h1 : n / 256 * 256 + 1 ≤ n := by omega
  have h2 : n + 1 ≤ (n / 256 + 1) * 256 := by omega
  have h1' : ((n / 256 : Nat) : ℝ) * 256 + 1 ≤ n := by exact_mod_cast h1
  have h2' : (n : ℝ) + 1 ≤ ((n / 256 : Nat) + 1) * 256 := by exact_mod_cast h2
  push_cast at hy hy'
  constructor
  · nlinarith
  · nlinarith

theorem e2c1_rounded {i : Nat} (hi : i < 64) : ∃ v, StickyOf ((2 : ℝ) ^ (((i : ℝ) + 1) / 64) - (2 : ℝ) ^ ((i : ℝ) / 64)) v ∧
    (round .fp32 .rne false false (sticky false (exp2Root (i + 1) - exp2Root i) (-96) false)).enc = (round .fp32 .rne false false v).enc := by
  rw [exp2Root_eq_table i (by omega), exp2Root_eq_table (i + 1) (by omega)]
  obtain ⟨hab, hmod, hbig, henc⟩ := exp2Table_steps i hi
  refine ⟨_, ?_, henc⟩
  obtain ⟨hx, hx', -⟩ := rpow_between (i := i) (by omega)
  obtain ⟨hy, hy', -⟩ := rpow_between (i := i + 1) (by omega)
  rw [Nat.cast_add_one] at hy hy'
  obtain ⟨hlo, hhi⟩ := sub_between (by positivity) hab hmod hx hx' hy hy'
  have hunit : (256 : ℝ) * 2 ^ (-96 : Int) = 2 ^ (-88 : Int) := by
    rw [show (256 : ℝ) = 2 ^ (8 : Int) by norm_num, ← zpow_add₀ two_ne_zero]; rfl
  rw [hunit] at hlo hhi
  exact stickyOf_sticky ((mul_nonneg (Nat.cast_nonneg _) (by positivity)).trans_lt hlo) (by simp) (fun h => by cases h) fun _ => ⟨hbig, hlo, hhi⟩

theorem isConstant_iff {lo : Nat} {up : Int} {x : XVal} (h : isConstant lo up x = true) :
    ∃ m e, x = .fin false m e ∧ 2 ^ lo ≤ m ∧ m < 2 ^ 24 ∧ e + up ≤ -23 ∧ (lo = 0 ∨ e = -23) := by
  cases x with
  | nan _ | inf _ => cases h
  | fin s m e =>
    simp only [isConstant, Bool.and_eq_true, Bool.not_eq_true', decide_eq_true_eq] at h
    obtain ⟨⟨⟨⟨rfl, h1⟩, h2⟩, h3⟩, h4⟩ := h
    exact ⟨m, e, rfl, h1, h2, h3, h4⟩

/-- c0 lies from 1 to 2. -/
theorem e2c0_bounds {i : Nat} (hi : i < 64) : ∃ m e, e2c0 i = .fin false m e ∧ 1 ≤ dyadic false m e ∧ dyadic false m e < 2 := by
  have h := (exp2Table_constants i hi).1
  rw [← exp2Root_eq_table i (by omega)] at h
  obtain ⟨m, e, hv, hlo, hhi, -, he⟩ := isConstant_iff h
  obtain rfl : e = -23 := he.resolve_left (by decide)
  have hlo' : (2 : ℚ) ^ 23 ≤ m := by exact_mod_cast hlo
  have hhi' : (m : ℚ) < 2 ^ 24 := by exact_mod_cast hhi
  have hdy : dyadic false m (-23) = m / 2 ^ 23 := by simp only [dyadic, Bool.false_eq_true, if_false, one_mul, zpow_neg, zpow_ofNat, div_eq_mul_inv]
  refine ⟨m, -23, hv, ?_, ?_⟩
  · rw [hdy, le_div_iff₀ (by positivity), one_mul]; exact hlo'
  · rw [hdy, div_lt_iff₀ (by positivity)]; linarith

/-- c1 lies from 0 to 1. -/
theorem e2c1_bounds {i : Nat} (hi : i < 64) : ∃ m e, e2c1 i = .fin false m e ∧ 0 ≤ dyadic false m e ∧ dyadic false m e < 1 := by
  have h := (exp2Table_constants i hi).2
  rw [← exp2Root_eq_table i (by omega), ← exp2Root_eq_table (i + 1) (by omega)] at h
  obtain ⟨m, e, hv, -, hhi, he, -⟩ := isConstant_iff h
  have hhi' : (m : ℚ) < 2 ^ (24 : Int) := by exact_mod_cast hhi
  have hpow : (2 : ℚ) ^ e ≤ 2 ^ (-24 : Int) := zpow_le_zpow_right₀ one_le_two (by omega)
  refine ⟨m, e, hv, ?_, ?_⟩
  · simp only [dyadic, Bool.false_eq_true, if_false]; positivity
  · simp only [dyadic, Bool.false_eq_true, if_false, one_mul]
    calc (m : ℚ) * 2 ^ e ≤ m * 2 ^ (-24 : Int) := mul_le_mul_of_nonneg_left hpow (Nat.cast_nonneg m)
      _ < 2 ^ (24 : Int) * 2 ^ (-24 : Int) := mul_lt_mul_of_pos_right hhi' (by positivity)
      _ = 1 := by rw [← zpow_add₀ two_ne_zero]; rfl

/-! ## Rounding near 1 -/

/-- A value is at least its spacing times 2^mb where it is at least the smallest normal number. -/
theorem round_fp32_normal (rm : Rnd) (s : Bool) {m : Nat} {e : Int} (hlo : 2 ^ (-126 : Int) ≤ dyadic false m e) :
    2 ^ 23 ≤ (unitExp 23 127 m e - (1 - 127 - 23)).toNat * 2 ^ 23 + (unitsOf rm s m e (unitExp 23 127 m e)).1 := by
  have hm : m ≠ 0 := by
    rintro rfl
    have : dyadic false 0 e = 0 := by simp [dyadic]
    have : (0 : ℚ) < 2 ^ (-126 : Int) := by positivity
    linarith
  obtain ⟨-, hform⟩ := unitsOf_form rm s hm e 23 127
  obtain ⟨⟨habs, -⟩, -⟩ := unitsOf_rule rm s m e (unitExp 23 127 m e)
  rcases hform with h0 | h0
  · have hq : unitExp 23 127 m e = -149 := by have : (1 - (127 : Int) - (23 : Nat)) ≤ unitExp 23 127 m e := le_max_right _ _; push_cast at *; omega
    rw [hq] at habs ⊢
    rw [abs_lt] at habs
    have hsp : (0 : ℚ) < 2 ^ (-149 : Int) := by positivity
    have h126 : (2 : ℚ) ^ (-126 : Int) = 2 ^ 23 * 2 ^ (-149 : Int) := by norm_num
    have hlt : (2 ^ 23 : ℚ) * 2 ^ (-149 : Int) < ((unitsOf rm s m e (-149)).1 + 1) * 2 ^ (-149 : Int) := by rw [add_mul, ← h126]; linarith
    have : (2 ^ 23 : ℚ) < (unitsOf rm s m e (-149)).1 + 1 := lt_of_mul_lt_mul_right hlt hsp.le
    have : 2 ^ 23 < (unitsOf rm s m e (-149)).1 + 1 := by exact_mod_cast this
    omega
  · push_cast at *
    omega

/-- The binade of a normal number and its spacing in FP32. -/
theorem unitExp_of_normal {m : Nat} {e : Int} (hlo : 2 ^ (-126 : Int) ≤ dyadic false m e) :
    ∃ j : Int, unitExp 23 127 m e = j - 23 ∧ 2 ^ j ≤ dyadic false m e ∧ dyadic false m e < 2 ^ (j + 1) := by
  have hdy : dyadic false m e = m * 2 ^ e := by simp [dyadic]
  have hpe : (0 : ℚ) < 2 ^ e := by positivity
  have hm : m ≠ 0 := by
    rintro rfl
    rw [hdy, Nat.cast_zero, zero_mul] at hlo
    exact absurd hlo (not_le.mpr (by positivity))
  obtain ⟨b, hb⟩ : ∃ b, bitLen m = b + 1 := ⟨m.log2, if_neg hm⟩
  have h1 := two_pow_le_of_bitLen hb
  have h2 := lt_two_pow_bitLen m
  rw [hb] at h2
  have hge : (2 : ℚ) ^ (e + b) ≤ dyadic false m e := by
    rw [hdy, zpow_add₀ two_ne_zero, zpow_natCast, mul_comm]
    exact mul_le_mul_of_nonneg_right (by exact_mod_cast h1) hpe.le
  have hlt : dyadic false m e < 2 ^ (e + b + 1) := by
    rw [hdy, add_assoc, zpow_add₀ two_ne_zero, mul_comm]
    exact mul_lt_mul_of_pos_left (by exact_mod_cast h2) hpe
  have hj : -126 < e + b + 1 := (zpow_lt_zpow_iff_right₀ one_lt_two).mp (hlo.trans_lt hlt)
  refine ⟨e + b, ?_, hge, hlt⟩
  unfold unitExp
  rw [hb]
  push_cast
  omega

/-- A number from 1 to 3 rounds to a number of at least 1 (R73). -/
theorem round_near_one {k : Nat} {l : Int} (hlo : 1 ≤ dyadic false k l) (hhi : dyadic false k l < 3) : ∃ k' l',
    decodeNum .fp32 (round .fp32 .rne false false (.fin false k l)).enc.toNat = .fin false k' l' ∧ 1 ≤ dyadic false k' l' := by
  have hk : k ≠ 0 := by
    rintro rfl
    have : dyadic false 0 l = 0 := by simp [dyadic]
    linarith
  obtain ⟨j, hunit, hj, hj'⟩ := unitExp_of_normal (m := k) (e := l) (le_trans (by norm_num) hlo)
  have hj0 : 0 ≤ j := by
    have : (2 : ℚ) ^ (0 : Int) < 2 ^ (j + 1) := by rw [zpow_zero]; exact hlo.trans_lt hj'
    have := (zpow_lt_zpow_iff_right₀ (one_lt_two (α := ℚ))).mp this
    omega
  have hmax : decodeNum .fp32 (maxEnc .fp32) = .fin false 16777215 104 := rfl
  obtain ⟨n, ⟨hnear, hhalf, -⟩, hov, hfin, -⟩ := round_rule (f := .fp32) rfl .rne false false (e := l) hk hmax
  rw [hunit] at hnear hhalf hov hfin
  have hsp : (0 : ℚ) < 2 ^ (j - 23) := by positivity
  have h2j : (2 : ℚ) ^ j = 2 ^ 23 * 2 ^ (j - 23) := by
    rw [← zpow_natCast, ← zpow_add₀ two_ne_zero]; congr 1; push_cast; ring
  rw [abs_lt] at hnear
  have hn : 2 ^ 23 ≤ n := by
    have hlt : ((2 : ℚ) ^ 23) * 2 ^ (j - 23) < (n + 1) * 2 ^ (j - 23) := by rw [add_mul, ← h2j]; linarith
    have : (2 : ℚ) ^ 23 < n + 1 := lt_of_mul_lt_mul_right hlt hsp.le
    have : 2 ^ 23 < n + 1 := by exact_mod_cast this
    omega
  have hge : 1 ≤ (n : ℚ) * 2 ^ (j - 23) := by
    have h1 : (1 : ℚ) ≤ 2 ^ j := one_le_zpow₀ one_le_two hj0
    have h2 : (2 : ℚ) ^ 23 ≤ n := by exact_mod_cast hn
    calc (1 : ℚ) ≤ 2 ^ j := h1
      _ = 2 ^ 23 * 2 ^ (j - 23) := h2j
      _ ≤ n * 2 ^ (j - 23) := mul_le_mul_of_nonneg_right h2 hsp.le
  have hspv : (2 : ℚ) ^ (j - 23) ≤ dyadic false k l := le_trans (zpow_le_zpow_right₀ one_le_two (by omega)) hj
  have hfits : ¬dyadic false 16777215 104 < (n : ℚ) * 2 ^ (j - 23) := by
    have : (6 : ℚ) ≤ dyadic false 16777215 104 := by norm_num [dyadic]
    linarith
  obtain ⟨k', l', hdec, hval, -⟩ := hfin (Bool.not_eq_true _ ▸ hov.not.mpr hfits)
  exact ⟨k', l', hdec, by rw [hval]; exact hge⟩

/-- The point of a segment's line (R91). -/
def e2Line (seg t d : Nat) : XVal := ((e2c1 seg).mul (.fin false t (-(d : Int)))).add .rne (e2c0 seg)

theorem e2Line_bounds {seg t d : Nat} (hseg : seg < 64) (ht : t < 2 ^ d) : ∃ k l,
  e2Line seg t d = .fin false k l ∧ 1 ≤ dyadic false k l ∧ dyadic false k l < 3 := by
  obtain ⟨m0, e0, h0, hlo0, hhi0⟩ := e2c0_bounds hseg
  obtain ⟨m1, e1, h1, hlo1, hhi1⟩ := e2c1_bounds hseg
  have hsum := sumOf_add .rne ((e2c1 seg).mul (.fin false t (-(d : Int)))) (e2c0 seg)
  have ht0 : 0 ≤ dyadic false t (-(d : Int)) := by simp only [dyadic, Bool.false_eq_true, if_false]; positivity
  have ht1 : dyadic false t (-(d : Int)) < 1 := by
    have : (t : ℚ) < 2 ^ d := by exact_mod_cast ht
    simp only [dyadic, Bool.false_eq_true, if_false, one_mul, zpow_neg, zpow_natCast, ← div_eq_mul_inv]
    rwa [div_lt_one (by positivity)]
  rw [h0, h1] at hsum
  obtain ⟨z, k, l, hv, hval, -⟩ := hsum
  rw [dyadic_mul false false] at hval
  have hprod : 0 ≤ dyadic false m1 e1 * dyadic false t (-(d : Int)) := mul_nonneg hlo1 ht0
  have hprod1 : dyadic false m1 e1 * dyadic false t (-(d : Int)) < 1 := by nlinarith
  have hz : z = false := by
    cases z with
    | false => rfl
    | true =>
      have : dyadic true k l ≤ 0 := by
        simp only [dyadic, if_true]
        have : (0 : ℚ) ≤ k * 2 ^ l := by positivity
        linarith
      linarith
  subst hz
  exact ⟨k, l, by rw [e2Line, h0, h1]; exact hv, by rw [hval]; linarith, by rw [hval]; linarith⟩

/-- A finite value v in fixed point with d fraction bits: its whole part, its segment and what is left of it (R91). -/
theorem fixedPoint_split {v : ℚ} {V : Int} {d : Nat} (hv : v * 2 ^ d = V) :
    let f := (V % (2 ^ d : Nat)).toNat
    ((V / (2 ^ d : Nat) : Int) : ℚ) ≤ v ∧ v < (V / (2 ^ d : Nat) : Int) + 1 ∧ ((64 * f / 2 ^ d : Nat) : ℚ) ≤ 64 * (v - (V / (2 ^ d : Nat) : Int)) ∧
      64 * (v - (V / (2 ^ d : Nat) : Int)) < (64 * f / 2 ^ d : Nat) + 1 ∧
      dyadic false (64 * f % 2 ^ d) (-(d : Int)) = 64 * (v - (V / (2 ^ d : Nat) : Int)) - (64 * f / 2 ^ d : Nat) ∧
      64 * f / 2 ^ d < 64 ∧ 64 * f % 2 ^ d < 2 ^ d := by
  intro f
  obtain ⟨p, hp⟩ : ∃ p : Nat, p = 2 ^ d := ⟨_, rfl⟩
  have hp0 : 0 < p := by rw [hp]; exact Nat.two_pow_pos d
  have hpq : (0 : ℚ) < p := by exact_mod_cast hp0
  have hvp : v * p = V := by rw [hp]; push_cast; exact hv
  have hmod0 : 0 ≤ V % (p : Int) := Int.emod_nonneg V (by omega)
  have hmod1 : V % (p : Int) < p := Int.emod_lt_of_pos V (by omega)
  simp only [f]
  rw [← hp]
  obtain ⟨g, hg⟩ : ∃ g : Nat, g = (V % (p : Int)).toNat := ⟨_, rfl⟩
  rw [← hg]
  have hgp : g < p := by omega
  obtain ⟨xi, hxi⟩ : ∃ xi, xi = V / (p : Int) := ⟨_, rfl⟩
  rw [← hxi]
  have hV : (V : ℚ) = p * xi + g := by
    have := Int.mul_ediv_add_emod V p
    rw [← hxi, ← Int.toNat_of_nonneg hmod0, ← hg] at this
    exact_mod_cast this.symm
  have hfrac : v - xi = g / p := by rw [eq_div_iff hpq.ne', sub_mul, hvp, hV]; ring
  have hdm : (64 * g : ℚ) = p * (64 * g / p : Nat) + (64 * g % p : Nat) := by exact_mod_cast (Nat.div_add_mod (64 * g) p).symm
  have hr : 64 * g % p < p := Nat.mod_lt _ hp0
  have hrq : ((64 * g % p : Nat) : ℚ) < p := by exact_mod_cast hr
  have hg0 : (0 : ℚ) ≤ g / p := by positivity
  have hg1 : (g : ℚ) / p < 1 := by rw [div_lt_one hpq]; exact_mod_cast hgp
  have h64 : 64 * ((g : ℚ) / p) = (64 * g / p : Nat) + (64 * g % p : Nat) / p := by
    rw [← mul_div_assoc, hdm, add_div, mul_div_cancel_left₀ _ hpq.ne']
  have hr0 : (0 : ℚ) ≤ (64 * g % p : Nat) / p := by positivity
  have hr1 : ((64 * g % p : Nat) : ℚ) / p < 1 := by rw [div_lt_one hpq]; exact hrq
  rw [hfrac, h64]
  refine ⟨by linarith, by linarith, by linarith, by linarith, ?_, ?_, hr⟩
  · simp only [dyadic, Bool.false_eq_true, if_false, one_mul, zpow_neg, zpow_natCast, ← div_eq_mul_inv]
    rw [hp]; push_cast; ring
  · rw [Nat.div_lt_iff_lt_mul hp0]; omega

theorem e2_fin (s : Bool) (m : Nat) (e : Int) (dest : Fmt) : e2 (.fin s m e) dest =
    if xvalCompare (.fin s m e) (.fin true 126 0) == .lt then { enc := if dest = .ts8 then 0x77 else 0 }
    else if xvalCompare (.fin s m e) (.fin false 127 0) == .gt then { enc := .ofNat 32 (if dest = .ts8 then 0x00 else maxEnc dest), saturated := true }
    else
      let d := (-e).toNat
      let v : Int := finAt s m e (if e < 0 then e else 0)
      let f := (v % (2 ^ d : Nat)).toNat
      round dest .rne true false ((decodeNum .fp32 (round .fp32 .rne false false (e2Line (64 * f / 2 ^ d) (64 * f % 2 ^ d) d)).enc.toNat).scale
        (v / (2 ^ d : Nat))) := rfl

theorem dyadic_neg126 : dyadic true 126 0 = -126 := by norm_num [dyadic]
theorem dyadic_127 : dyadic false 127 0 = 127 := by norm_num [dyadic]

/-- In its range E2 takes a point of a segment's line, at least 1, times 2^xi (R91). -/
theorem e2_inside {s : Bool} {m : Nat} {e : Int} (dest : Fmt) (hlo : -126 ≤ dyadic s m e) (hhi : dyadic s m e ≤ 127) :
    ∃ (xi : Int) (seg tm d : Nat) (k : Nat) (l : Int), (xi : ℚ) ≤ dyadic s m e ∧ dyadic s m e < xi + 1 ∧
      (seg : ℚ) ≤ 64 * (dyadic s m e - xi) ∧ 64 * (dyadic s m e - xi) < seg + 1 ∧
      dyadic false tm (-(d : Int)) = 64 * (dyadic s m e - xi) - seg ∧ seg < 64 ∧
      decodeNum .fp32 (round .fp32 .rne false false (e2Line seg tm d)).enc.toNat = .fin false k l ∧ 1 ≤ dyadic false k l ∧
      e2 (.fin s m e) dest = round dest .rne true false (.fin false k (l + xi)) := by
  have h1 : (xvalCompare (.fin s m e) (.fin true 126 0) == .lt) = false := by
    rw [beq_eq_false_iff_ne, ne_eq, xvalCompare_eq_lt_iff rfl rfl]
    show ¬dyadic s m e < dyadic true 126 0
    rw [dyadic_neg126]; exact not_lt.mpr hlo
  have h2 : (xvalCompare (.fin s m e) (.fin false 127 0) == .gt) = false := by
    rw [beq_eq_false_iff_ne, ne_eq, xvalCompare_eq_gt_iff rfl rfl]
    show ¬dyadic false 127 0 < dyadic s m e
    rw [dyadic_127]; exact not_lt.mpr hhi
  have hv : dyadic s m e * 2 ^ (-e).toNat = (finAt s m e (if e < 0 then e else 0) : Int) := by
    rw [← finAt_mul_zpow s m (e0 := if e < 0 then e else 0) (.inr (by split <;> omega)), mul_assoc, ← zpow_natCast, ← zpow_add₀ two_ne_zero]
    have : (if e < 0 then e else 0) + ((-e).toNat : Int) = 0 := by split <;> omega
    rw [this, zpow_zero, mul_one]
  obtain ⟨hx, hx', hs, hs', ht, hseg, htm⟩ := fixedPoint_split hv
  obtain ⟨k0, l0, hline, hb1, hb3⟩ := e2Line_bounds hseg htm
  obtain ⟨k, l, hdec, h1'⟩ := round_near_one hb1 hb3
  refine ⟨_, _, _, (-e).toNat, k, l, hx, hx', hs, hs', ht, hseg, by rw [hline]; exact hdec, h1', ?_⟩
  rw [e2_fin, h1, h2]
  simp only [Bool.false_eq_true, if_false]
  rw [hline, hdec]
  rfl

theorem e2_rule (x : XVal) (dest : Fmt) : E2Rule x dest (e2 x dest).enc := by
  match x with
  | .nan _ => cases dest <;> rfl
  | .inf s => cases s <;> cases dest <;> rfl
  | .fin s m e =>
    refine ⟨fun hlt => ?_, fun hgt => ?_, fun hlo hhi => ?_⟩
    · have h1 : (xvalCompare (.fin s m e) (.fin true 126 0) == .lt) = true := by
        rw [beq_iff_eq, xvalCompare_eq_lt_iff rfl rfl]
        show dyadic s m e < dyadic true 126 0
        rw [dyadic_neg126]; exact hlt
      rw [e2_fin, if_pos h1]
    · have h1 : (xvalCompare (.fin s m e) (.fin true 126 0) == .lt) = false := by
        rw [beq_eq_false_iff_ne, ne_eq, xvalCompare_eq_lt_iff rfl rfl]
        show ¬dyadic s m e < dyadic true 126 0
        rw [dyadic_neg126]; linarith
      have h2 : (xvalCompare (.fin s m e) (.fin false 127 0) == .gt) = true := by
        rw [beq_iff_eq, xvalCompare_eq_gt_iff rfl rfl]
        show dyadic false 127 0 < dyadic s m e
        rw [dyadic_127]; exact hgt
      rw [e2_fin, h1, if_neg Bool.false_ne_true, if_pos h2]
      cases dest <;> rfl
    · obtain ⟨xi, seg, tm, d, k, l, hx, hx', hs, hs', ht, hseg, hdec, -, hres⟩ := e2_inside dest hlo hhi
      obtain ⟨v1, hv1, hc1⟩ := e2c1_rounded hseg
      exact ⟨xi, seg, tm, -(d : Int), _, _, _, _, hx, hx', hs, hs', ht, ⟨_, e2c0_stickyOf hseg, rfl⟩, ⟨v1, hv1, hc1⟩,
        productOf_mul _ _, sumOf_add _ _ _, false, k, l, hdec, by rw [hres]⟩

/-! ## FEXP2 (R91, R103) -/

/-- A normal FP32 result is no subnormal: FTZ leaves it (R75). -/
theorem flushF32_round_normal (ftz : Bool) (rm : Rnd) (sat s : Bool) {m : Nat} {e : Int} (hlo : 2 ^ (-126 : Int) ≤ dyadic false m e) :
    flushF32 ftz (round .fp32 rm sat false (.fin s m e)).enc = (round .fp32 rm sat false (.fin s m e)).enc := by
  have hm : m ≠ 0 := by
    rintro rfl
    have : dyadic false 0 e = 0 := by simp [dyadic]
    rw [this] at hlo
    exact absurd hlo (not_le.mpr (by positivity))
  cases ftz with
  | false => rfl
  | true =>
    have hnormal := round_fp32_normal rm s hlo
    rw [round_fin rfl rm sat false s hm, roundFloat_eq]
    generalize (unitExp 23 127 m e - _).toNat * _ + _ = enc at hnormal
    unfold floatResult
    by_cases hov : maxEnc .fp32 < enc
    · rw [if_pos hov]
      dsimp only
      by_cases hto : ToMax .fp32 rm sat s
      · rw [overflowEnc_toMax 8 23 hto, flushF32_withSign s (by decide)]; rfl
      · rw [overflowEnc_infinity 8 23 hto, flushF32_withSign s (by decide)]; rfl
    · rw [if_neg hov, if_neg (by simp)]
      dsimp only
      rw [flushF32_withSign s ((not_lt.mp hov).trans_lt (by decide)), if_neg (not_lt.mpr hnormal)]

theorem dyadic_add (s : Bool) (m : Nat) (e k : Int) : dyadic s m (e + k) = dyadic s m e * 2 ^ k := by
  rw [dyadic, dyadic, zpow_add₀ two_ne_zero, mul_assoc]
  ring

/-- E2 gives no subnormal in FP32 (R91). -/
theorem fexp2Enc_eq (t : Team) (x : XVal) : fexp2Enc t x = (e2 x .fp32).enc := by
  unfold fexp2Enc
  have hsmall (y : Lane32) (hy : y = 0 ∨ 2 ^ 23 ≤ y.toNat % 2 ^ 31) : flushF32 t.ftz y = y := by
    rw [flushF32_eq]
    split
    case isTrue h =>
      obtain rfl := hy.resolve_right (not_le.mpr h.2)
      rfl
    case isFalse => rfl
  match x with
  | .nan _ => exact hsmall _ (.inr (by show 2 ^ 23 ≤ (0x7FC00000 : Lane32).toNat % 2 ^ 31; decide))
  | .inf true => exact hsmall _ (.inl rfl)
  | .inf false => exact hsmall _ (.inr (by decide))
  | .fin s m e =>
    obtain ⟨hlow, hhigh, -⟩ := e2_rule (.fin s m e) .fp32
    rcases lt_or_ge (dyadic s m e) (-126) with h | h
    · rw [hlow h]; exact hsmall _ (.inl rfl)
    rcases lt_or_ge 127 (dyadic s m e) with h' | h'
    · rw [hhigh h']; exact hsmall _ (.inr (by decide))
    obtain ⟨xi, -, -, -, k, l, -, hx', -, -, -, -, -, h1, hres⟩ := e2_inside .fp32 h h'
    rw [hres]
    refine flushF32_round_normal _ _ _ _ ?_
    have hxi : -126 ≤ xi := by
      have : (-127 : ℚ) < xi := by linarith
      have : -127 < xi := by exact_mod_cast this
      omega
    rw [dyadic_add]
    calc (2 : ℚ) ^ (-126 : Int) ≤ 2 ^ xi := zpow_le_zpow_right₀ one_le_two hxi
      _ ≤ dyadic false k l * 2 ^ xi := le_mul_of_one_le_left (by positivity) h1

theorem e2c0_zero : e2c0 0 = .fin false 8388608 (-23) := by
  rw [e2c0, exp2Root_eq_table 0 (by decide)]
  decide +kernel

/-- At the start of the first segment the line's point is 1. -/
theorem e2Line_zero (d : Nat) : e2Line 0 0 d = .fin false 8388608 (-23) := by
  obtain ⟨m, e, h1, -⟩ := e2c1_bounds (i := 0) (by decide)
  rw [e2Line, e2c0_zero, h1]
  have hmul : (XVal.fin false m e).mul (.fin false 0 (-(d : Int))) = .fin false 0 (e + -(d : Int)) := rfl
  rw [hmul]
  have hzero : finAt false 0 (e + -(d : Int)) (-23) = 0 := by simp [finAt]
  simp only [XVal.add, if_true, hzero]
  rfl

/-- E2 of a whole number k is 2^k (R91). -/
theorem e2_whole {s : Bool} {m : Nat} {e k : Int} (hk : dyadic s m e = k) (hlo : -126 ≤ k) (hhi : k ≤ 127) :
    (e2 (.fin s m e) .fp32).enc = BitVec.ofInt 32 ((k + 127) * 2 ^ 23) := by
  have hlo' : -126 ≤ dyadic s m e := by rw [hk]; exact_mod_cast hlo
  have hhi' : dyadic s m e ≤ 127 := by rw [hk]; exact_mod_cast hhi
  obtain ⟨xi, seg, tm, d, k', l', hx, hx', hs, hs', ht, -, hdec, -, hres⟩ := e2_inside .fp32 hlo' hhi'
  rw [hk] at hx hx' hs hs' ht
  obtain rfl : xi = k := by
    have h1 : xi ≤ k := by exact_mod_cast hx
    have h2 : k < xi + 1 := by exact_mod_cast hx'
    omega
  rw [sub_self, mul_zero] at hs hs' ht
  obtain rfl : seg = 0 := by
    have : (seg : ℚ) ≤ ((0 : Nat) : ℚ) := by simpa using hs
    exact Nat.le_zero.mp (by exact_mod_cast this)
  obtain rfl : tm = 0 := by
    have hpos : (0 : ℚ) < 2 ^ (-(d : Int)) := by positivity
    have : (tm : ℚ) * 2 ^ (-(d : Int)) = 0 := by simpa [dyadic] using ht
    exact_mod_cast (mul_eq_zero.mp this).resolve_right hpos.ne'
  have hone : decodeNum .fp32 (round .fp32 .rne false false (.fin false 8388608 (-23))).enc.toNat = .fin false 8388608 (-23) := by decide +kernel
  rw [e2Line_zero, hone] at hdec
  cases hdec
  obtain ⟨ex, hex⟩ : ∃ ex : Nat, (ex : Int) = xi + 127 := ⟨(xi + 127).toNat, by omega⟩
  have hval : XVal.fin false 8388608 (-23 + xi) = floatValue 23 127 false ex (if ex = 0 then 0 else 1) 0 := by
    rw [if_neg (by omega), floatValue]
    congr 1
    rw [show max ex 1 = ex by omega]
    push_cast
    omega
  rw [hres, hval, round_floatValue (f := .fp32) rfl .rne true false (by omega) (by decide) (by omega) (by simp)]
  dsimp only
  rw [withSign, if_neg Bool.false_ne_true, ← hex, add_zero, ← BitVec.ofInt_natCast]
  push_cast
  rfl

/-! ## The words -/

/-- FEXP2 by E2, with its special results (R91, R103). -/
theorem fexp2_rule (x : XVal) : E2Rule x .fp32 (e2 x .fp32).enc ∧ match x with
    | .nan _ => (e2 x .fp32).enc = 0x7FC00000
    | .inf s => (e2 x .fp32).enc = if s then 0 else 0x7F7FFFFF
    | .fin s m e => (dyadic s m e < -126 → (e2 x .fp32).enc = 0) ∧ (127 < dyadic s m e → (e2 x .fp32).enc = 0x7F7FFFFF) ∧
        (∀ k : Int, dyadic s m e = k → -126 ≤ k → k ≤ 127 → (e2 x .fp32).enc = BitVec.ofInt 32 ((k + 127) * 2 ^ 23)) := by
  refine ⟨e2_rule x .fp32, ?_⟩
  match x with
  | .nan _ => rfl
  | .inf s => cases s <;> rfl
  | .fin s m e =>
    obtain ⟨hlow, hhigh, -⟩ := e2_rule (.fin s m e) .fp32
    exact ⟨hlow, hhigh, fun k hk hlo hhi => e2_whole hk hlo hhi⟩

/-- A unary word whose RM and SAT fields are zero rounds to the nearest without saturation. -/
theorem toF32_plain {t : Team} {f : VA} (hrm : f.rm = 0) (hsat : f.sat = false) (x : XVal) : toF32 t f x = (round .fp32 .rne false t.ftz x).enc := by
  rw [toF32, hrm, hsat]
  rfl

theorem flog2_rule (ftz : Bool) (x : XVal) : match x with
    | .nan _ => (round .fp32 .rne false ftz (flog2Val x)).enc = 0x7FC00000
    | .inf s => (round .fp32 .rne false ftz (flog2Val x)).enc = if s then 0x7FC00000 else 0x7F800000
    | .fin s m e => (m = 0 → (round .fp32 .rne false ftz (flog2Val x)).enc = 0xFF800000) ∧
        (m ≠ 0 → s = true → (round .fp32 .rne false ftz (flog2Val x)).enc = 0x7FC00000) ∧
        (∀ k : Int, dyadic s m e = 2 ^ k → (round .fp32 .rne false ftz (flog2Val x)).enc = (round .fp32 .rne false ftz (.ofInt k)).enc) := by
  match x with
  | .nan _ => rfl
  | .inf s => cases s <;> rfl
  | .fin s m e =>
    refine ⟨fun h0 => ?_, fun h0 hs => ?_, fun k hk => ?_⟩
    · rw [flog2Val, if_pos h0]; rfl
    · rw [flog2Val, if_neg h0, if_pos hs]; rfl
    · obtain ⟨rfl, j, rfl, rfl⟩ := eq_two_pow_of_dyadic hk
      rw [flog2Val, if_neg (Nat.two_pow_pos j).ne', if_neg Bool.false_ne_true, realLog2_two_pow]

theorem round_quarter (ftz : Bool) (j : Int) : (round .fp32 .rne false ftz (if j % 2 = 0 then .fin false 0 0 else .fin (decide (2 ≤ j % 4)) 1 0)).enc =
    if j % 2 = 0 then 0 else if j % 4 = 1 then 0x3F800000 else 0xBF800000 := by
  split
  · rfl
  · split
    case isTrue h => rw [h]; cases ftz <;> rfl
    case isFalse h => rw [decide_eq_true (by omega : 2 ≤ j % 4)]; cases ftz <;> rfl

theorem fsin_rule (ftz : Bool) (x : XVal) : match x with
    | .fin s m e => (m = 0 → (round .fp32 .rne false ftz (fsinVal x)).enc = if s then 0x80000000 else 0) ∧
        (∀ k : Int, m ≠ 0 → 4 * dyadic s m e = k → (round .fp32 .rne false ftz (fsinVal x)).enc =
          if k % 2 = 0 then 0 else if k % 4 = 1 then 0x3F800000 else 0xBF800000)
    | _ => (round .fp32 .rne false ftz (fsinVal x)).enc = 0x7FC00000 := by
  match x with
  | .nan _ | .inf _ => rfl
  | .fin s m e =>
    refine ⟨fun h0 => ?_, fun k h0 hk => ?_⟩
    · rw [fsinVal, if_pos h0]; cases s <;> rfl
    · rw [fsinVal, if_neg h0, realSinCos_quarter hk 0, Nat.cast_zero, add_zero, round_quarter]

theorem fcos_rule (ftz : Bool) (x : XVal) : match x with
    | .fin s m e => ∀ k : Int, 4 * dyadic s m e = k → (round .fp32 .rne false ftz (fcosVal x)).enc =
        if k % 2 = 1 then 0 else if k % 4 = 0 then 0x3F800000 else 0xBF800000
    | _ => (round .fp32 .rne false ftz (fcosVal x)).enc = 0x7FC00000 := by
  match x with
  | .nan _ | .inf _ => rfl
  | .fin s m e =>
    intro k hk
    by_cases h0 : m = 0
    · obtain rfl : k = 0 := by
        rw [h0] at hk
        have : (k : ℚ) = 0 := by rw [← hk]; simp [dyadic]
        exact_mod_cast this
      rw [fcosVal, if_pos h0]
      cases ftz <;> rfl
    · rw [fcosVal, if_neg h0, realSinCos_quarter hk 1, Nat.cast_one, round_quarter]
      have heven : (k + 1) % 2 = 0 ↔ k % 2 = 1 := by omega
      have hone : (k + 1) % 4 = 1 ↔ k % 4 = 0 := by omega
      simp only [heven, hone]

/-- Settles O7: the roots and quotients by their whole parts, E2 by its table, and the exact logarithms and sines. -/
theorem specialFunctions : Obligations.SpecialFunctions := by
  refine ⟨fun h f => ⟨?_, ?_, ?_⟩, fun h f => ⟨?_, ?_, ?_, ?_⟩⟩
  case refine_1 =>
    exact vecLongOp_of_exec (fun _ => rfl) fun t L _ => ⟨_, rfl, _, _, readsAs_opF .., frcpVal_rule _, by rw [← rmOf_eq]; rfl⟩
  case refine_2 =>
    exact vecLongOp_of_exec (fun _ => rfl) fun t L _ => ⟨_, rfl, _, _, readsAs_opF .., frsqVal_rule _, by rw [← rmOf_eq]; rfl⟩
  case refine_3 =>
    exact vecLongOp_of_exec (fun _ => rfl) fun t L _ => ⟨_, rfl, _, _, readsAs_opF .., fsqrtVal_rule _, by rw [← rmOf_eq]; rfl⟩
  case refine_4 =>
    exact vecLongOp_of_exec (fun _ => rfl) fun t L _ => ⟨_, rfl, _, readsAs_opF .., by rw [fexp2Enc_eq]; exact fexp2_rule _⟩
  case refine_5 =>
    refine vecLongOp_of_fieldOk (fun _ => rfl) fun hok t L _ => ⟨_, rfl, _, readsAs_opF .., ?_⟩
    obtain ⟨hrm, hsat⟩ := VA.ok_plain hok
    rw [toF32_plain (hrm rfl) (hsat rfl)]
    exact flog2_rule _ _
  case refine_6 =>
    refine vecLongOp_of_fieldOk (fun _ => rfl) fun hok t L _ => ⟨_, rfl, _, readsAs_opF .., ?_⟩
    obtain ⟨hrm, hsat⟩ := VA.ok_plain hok
    rw [toF32_plain (hrm rfl) (hsat rfl)]
    exact fsin_rule _ _
  case refine_7 =>
    refine vecLongOp_of_fieldOk (fun _ => rfl) fun hok t L _ => ⟨_, rfl, _, readsAs_opF .., ?_⟩
    obtain ⟨hrm, hsat⟩ := VA.ok_plain hok
    rw [toF32_plain (hrm rfl) (hsat rfl)]
    exact fcos_rule _ _

end Sys2Proof.Machine

/-! PROOFS. Row 0x0B: IF, ELSE, ENDIF, LOOP, BREAK, CONT and ENDLOOP with the mask stack (R118 to R120). -/

namespace Sys2Proof.Machine

open Host

/-! ## Lanes by their condition (R118) -/

theorem IsLanes.eq_of_getLsbD {x y m : Mask} {p : Nat → Bool} (hx : IsLanes x m p) (hy : ∀ L < 1024, y.getLsbD L = (m.getLsbD L && p L)) : x = y :=
  BitVec.eq_of_getLsbD_eq fun L hL => (hx L hL).trans (hy L hL).symm

section Lanes

variable {t : Team} {f : BF} {x m : Mask} (hm : ∀ L, m.getLsbD L = true → L < t.lanes)
include hm

theorem IsLanes.eq_and_condMask (hx : IsLanes x m (laneCond f t)) : x = m &&& condMask t f := by
  refine hx.eq_of_getLsbD fun L hL => ?_
  rw [BitVec.getLsbD_and, condMask_getLsbD t f hL]
  cases hmL : m.getLsbD L with
  | false => rfl
  | true => simp [hm L hmL]

theorem IsLanes.eq_and_not_condMask (hx : IsLanes x m fun L => !laneCond f t L) : x = m &&& ~~~condMask t f := by
  refine hx.eq_of_getLsbD fun L hL => ?_
  rw [BitVec.getLsbD_and, BitVec.getLsbD_not, condMask_getLsbD t f hL, decide_eq_true hL]
  cases hmL : m.getLsbD L with
  | false => rfl
  | true => simp [hm L hmL]

end Lanes

/-- The lanes of a mask outside those of it that a second mask has. -/
theorem and_not_and_self (m c : Mask) : m &&& ~~~(m &&& c) = m &&& ~~~c := by
  refine BitVec.eq_of_getLsbD_eq fun L hL => ?_
  simp only [BitVec.getLsbD_and, BitVec.getLsbD_not, hL, decide_true, Bool.true_and]
  cases m.getLsbD L <;> cases c.getLsbD L <;> rfl

/-! ## The LOOP entries of the stack (R118) -/

/-- The lanes go to the first entry of the kind, where no entry of it and no CALL entry comes before. -/
theorem addToLoop_append {k : EntryKind} (m : Mask) {pre : List StackEntry} {e : StackEntry} (post : List StackEntry)
    (hpre : ∀ c ∈ pre, c.kind ≠ k ∧ c.kind ≠ .callE) (he : e.kind = k) :
    addToLoop k m (pre ++ e :: post) = some (pre ++ { e with mask := e.mask ||| m } :: post) := by
  induction pre with
  | nil => simp [addToLoop, he]
  | cons c cs ih =>
    obtain ⟨hk, hcall⟩ := hpre c List.mem_cons_self
    rw [List.cons_append, addToLoop, if_neg hk, if_neg hcall, ih fun x hx => hpre x (List.mem_cons_of_mem _ hx)]
    rfl

/-- The lanes have no entry to go to where a CALL entry comes before every entry of the kind. -/
theorem addToLoop_none {k : EntryKind} (m : Mask) {es : List StackEntry}
    (hes : ∀ pre e post, es = pre ++ e :: post → e.kind = k → ∃ c ∈ pre, c.kind = .callE) : addToLoop k m es = none := by
  induction es with
  | nil => rfl
  | cons c cs ih =>
    rw [addToLoop]
    have hne : c.kind ≠ k := fun h => by
      obtain ⟨d, hd, -⟩ := hes [] c cs rfl h
      cases hd
    rw [if_neg hne]
    by_cases hcall : c.kind = .callE
    · rw [if_pos hcall]
    · rw [if_neg hcall, ih, Option.map_none]
      intro pre e post hsplit he
      obtain ⟨d, hd, hdk⟩ := hes (c :: pre) e post (by rw [hsplit]; rfl) he
      rcases List.mem_cons.mp hd with rfl | hd
      · exact absurd hdk hcall
      · exact ⟨d, hd, hdk⟩

/-! ## The words -/

section Words

variable {s : State} {t : Team} {h : Hdr} {f : BF}

theorem ifK_rule (ha : t.ActiveExists) (hi : s.Issues t (.ifK h f) h) :
    (∀ yes no, t.masks.length < 256 → IsLanes yes t.active (laneCond f t) → IsLanes no t.active (fun L => !laneCond f t L) →
      Leaves (exec (.ifK h f) s) s t (⟨.ifE, no, branchDest f t⟩ :: t.masks) yes t.live) ∧
    (256 ≤ t.masks.length → Freezes (exec (.ifK h f) s) s t h .illegal 0x0E) := by
  have hexec : exec (.ifK h f) s = execIf h f s := rfl
  rw [hexec, execIf, issue_next hi]
  refine ⟨fun yes no hroom hyes hno => ?_, fun hfull => ?_⟩
  · rw [hyes.eq_and_condMask ha, hno.eq_and_not_condMask ha, ← target_eq]
    simp only [pushing, List.length_cons, List.length_nil]
    rw [if_neg (by omega)]
    exact leave_leaves hi _ _ _
  · simp only [pushing, List.length_cons, List.length_nil]
    rw [if_pos (by omega)]
    exact illegalAt_freezes hi _

theorem elseK_rule (hi : s.Issues t (.elseK h f) h) :
    (∀ e es, t.masks = e :: es → e.kind = .ifE → t.DeepEnough t.masks.length →
      if e.mask &&& t.live = 0 then
        Jumps (exec (.elseK h f) s) s s.cur { t with masks := ⟨.elseE, t.active, branchDest f t⟩ :: es, active := 0 } (branchDest f t)
      else Ends (exec (.elseK h f) s) s s.cur
        { t with masks := ⟨.elseE, t.active, branchDest f t⟩ :: es, active := e.mask &&& t.live } []) ∧
    ((∀ e es, t.masks = e :: es → e.kind ≠ .ifE) → Freezes (exec (.elseK h f) s) s t h .illegal 0x10) := by
  have hexec : exec (.elseK h f) s = execElse h f s := rfl
  rw [hexec, execElse, issue_next hi]
  refine ⟨fun e es hm hk hd => ?_, fun hno => ?_⟩
  · rw [hm] at hd
    simp only [hm, hk, if_true]
    split
    case isTrue h0 =>
      rw [← target_eq, h0]
      exact leave_jumps hi (masks := ⟨.elseE, t.active, target t f⟩ :: es) 0 t.live _ hd
    case isFalse h0 =>
      rw [← target_eq]
      obtain ⟨hends, -⟩ := leave_leaves hi (⟨.elseE, t.active, target t f⟩ :: es) (e.mask &&& t.live) t.live
      exact hends h0 hd
  · cases hm : t.masks with
    | nil => exact illegalAt_freezes hi _
    | cons e es =>
      simp only [if_neg (hno e es hm)]
      exact illegalAt_freezes hi _

theorem endif_rule (hi : s.Issues t (.endif h f) h) :
    (∀ e es, t.masks = e :: es → e.kind = .ifE ∨ e.kind = .elseE →
      Leaves (exec (.endif h f) s) s t es ((t.active ||| e.mask) &&& t.live) t.live) ∧
    ((∀ e es, t.masks = e :: es → e.kind ≠ .ifE ∧ e.kind ≠ .elseE) → Freezes (exec (.endif h f) s) s t h .illegal 0x10) := by
  have hexec : exec (.endif h f) s = execEndif h f s := rfl
  rw [hexec, execEndif, issue_next hi]
  refine ⟨fun e es hm hk => ?_, fun hno => ?_⟩
  · simp only [hm, if_pos hk]
    exact leave_leaves hi _ _ _
  · cases hm : t.masks with
    | nil => exact illegalAt_freezes hi _
    | cons e es =>
      simp only [if_neg (not_or.mpr (hno e es hm))]
      exact illegalAt_freezes hi _

theorem loopK_rule (hi : s.Issues t (.loopK h f) h) :
    (t.masks.length ≤ 254 → Leaves (exec (.loopK h f) s) s t (⟨.contE, 0, branchDest f t⟩ :: ⟨.loopE, 0,
      branchDest f t⟩ :: t.masks) t.active t.live) ∧
    (254 < t.masks.length → Freezes (exec (.loopK h f) s) s t h .illegal 0x0E) := by
  have hexec : exec (.loopK h f) s = execLoop h f s := rfl
  rw [hexec, execLoop, issue_next hi]
  refine ⟨fun hroom => ?_, fun hfull => ?_⟩
  · rw [← target_eq]
    simp only [pushing, List.length_cons, List.length_nil]
    rw [if_neg (by omega)]
    exact leave_leaves hi _ _ _
  · simp only [pushing, List.length_cons, List.length_nil]
    rw [if_pos (by omega)]
    exact illegalAt_freezes hi _

/-- BREAK and CONT alike: the leaving lanes go to the first entry of the kind (R118). -/
theorem leaveLoop_rule {i : Instr} {k : EntryKind} (ha : t.ActiveExists) (hi : s.Issues t i h) (he : exec i s = issue i h (leaveLoop h f k) s) {pre post : List StackEntry}
    {e : StackEntry} {out rest : Mask} (hout : IsLanes out t.active (laneCond f t)) (hrest : IsLanes rest t.active fun L => !laneCond f t L)
    (hm : t.masks = pre ++ e :: post) (hpre : ∀ c ∈ pre, c.kind ≠ k ∧ c.kind ≠ .callE) (hk : e.kind = k) :
    Leaves (exec i s) s t (pre ++ { e with mask := e.mask ||| out } :: post) rest t.live := by
  rw [he, issue_next hi, hout.eq_and_condMask ha, hrest.eq_and_not_condMask ha]
  simp only [leaveLoop, hm, addToLoop_append _ post hpre hk, and_not_and_self]
  exact leave_leaves hi _ _ _

theorem leaveLoop_freezes {i : Instr} {k : EntryKind} (hi : s.Issues t i h) (he : exec i s = issue i h (leaveLoop h f k) s)
    (hno : ∀ pre e post, t.masks = pre ++ e :: post → e.kind = k → ∃ c ∈ pre, c.kind = .callE) : Freezes (exec i s) s t h .illegal 0x10 := by
  rw [he, issue_next hi]
  simp only [leaveLoop, addToLoop_none _ hno]
  exact illegalAt_freezes hi _

theorem endloop_rule (ha : t.ActiveExists) (hi : s.Issues t (.endloop h f) h) :
    (∀ c l es go out, t.masks = c :: l :: es → c.kind = .contE → l.kind = .loopE → (∀ L, c.mask.getLsbD L = true → L < t.lanes) →
      IsLanes go ((t.active ||| c.mask) &&& t.live) (laneCond f t) → IsLanes out ((t.active ||| c.mask) &&& t.live) (fun L => !laneCond f t L) →
      (go ≠ 0 → t.DeepEnough t.masks.length → Jumps (exec (.endloop h f) s) s s.cur
        { t with masks := { c with mask := 0 } :: { l with mask := l.mask ||| out } :: es, active := go } (branchDest f t)) ∧
      (go = 0 → Leaves (exec (.endloop h f) s) s t es ((l.mask ||| out) &&& t.live) t.live)) ∧
    ((∀ c l es, t.masks = c :: l :: es → ¬(c.kind = .contE ∧ l.kind = .loopE)) → Freezes (exec (.endloop h f) s) s t h .illegal 0x10) := by
  have hexec : exec (.endloop h f) s = execEndloop h f s := rfl
  rw [hexec, execEndloop, issue_next hi]
  refine ⟨fun c l es go out hm hc hl hlanes hgo hout => ?_, fun hno => ?_⟩
  · have hcand : ∀ L, ((t.active ||| c.mask) &&& t.live).getLsbD L = true → L < t.lanes := fun L hL => by
      rw [BitVec.getLsbD_and, BitVec.getLsbD_or, Bool.and_eq_true, Bool.or_eq_true] at hL
      exact hL.1.elim (ha L) (hlanes L)
    have hgo' := hgo.eq_and_condMask hcand
    have hout' := hout.eq_and_not_condMask hcand
    rw [← and_not_and_self] at hout'
    have hkinds : c.kind = .contE ∧ l.kind = .loopE := ⟨hc, hl⟩
    refine ⟨fun h0 hd => ?_, fun h0 => ?_⟩
    · rw [hm] at hd
      have hne : ((t.active ||| c.mask) &&& t.live &&& condMask t f != 0) = true := by rw [← hgo']; exact bne_iff_ne.mpr h0
      simp only [hm, if_pos hkinds, hne, if_true]
      rw [hout', hgo', ← target_eq]
      exact leave_jumps hi (masks := { c with mask := 0 } :: { l with mask := _ } :: es) _ t.live _ hd
    · have heq : ((t.active ||| c.mask) &&& t.live &&& condMask t f != 0) = false := by rw [← hgo', h0]; exact bne_self_eq_false _
      simp only [hm, if_pos hkinds, heq, Bool.false_eq_true, if_false]
      rw [hout']
      exact leave_leaves hi _ _ _
  · split
    case h_1 c l es hm =>
      rw [if_neg (hno c l es hm)]
      exact illegalAt_freezes hi _
    case h_2 => exact illegalAt_freezes hi _

end Words

/-- Settles O12: each word by the entry that it pushes, finds or pops, and where its mask leads. A LOOP that no active lane reaches goes to its
ENDLOOP clause, the model's choice (log 105). -/
theorem ifsAndLoops : Obligations.IfsAndLoops :=
  ⟨fun _ _ _ _ ha => ⟨ifK_rule ha, elseK_rule, endif_rule⟩, fun _ _ _ _ ha => ⟨loopK_rule,
    fun _ _ _ _ _ hout hrest hm => ⟨fun hi hpre hk => leaveLoop_rule ha hi rfl hout hrest hm hpre hk,
      fun hi hpre hk => leaveLoop_rule ha hi rfl hout hrest hm hpre hk⟩,
    fun hno hi => leaveLoop_freezes hi rfl hno, fun hno hi => leaveLoop_freezes hi rfl hno, endloop_rule ha⟩⟩

end Sys2Proof.Machine

/-! PROOFS. What memory reads behind a write: host memory, frames, scratchpads and granules (R28, R251, R256, R271, R359). -/

namespace Sys2Proof.Machine

open Host

/-- Reading a map behind a run of writes of consecutive places. -/
theorem getD_foldl_setD (bs : List Byte) (m : List (Nat × Byte)) (a j : Nat) :
    getD 0 ((bs.zipIdx a).foldl (fun m x => setD 0 m x.2 x.1) m) j = if a ≤ j ∧ j < a + bs.length then bs.getD (j - a) 0 else getD 0 m j := by
  induction bs generalizing m a with
  | nil => simp
  | cons b bs ih =>
    rw [List.zipIdx_cons, List.foldl_cons, ih, getD_setD, List.length_cons]
    rcases Nat.lt_trichotomy j a with h | h | h
    · rw [if_neg (by omega), if_neg (by omega), if_neg (by omega)]
    · rw [if_neg (by omega), if_pos h, if_pos (by omega), h, Nat.sub_self]
      rfl
    · have hj : j - a = (j - (a + 1)) + 1 := by omega
      by_cases hb : j < a + 1 + bs.length
      · rw [if_pos (by omega), if_pos (by omega), hj, List.getD_cons_succ]
      · rw [if_neg (by omega), if_neg (by omega), if_neg (by omega)]

/-- A byte of a frame behind the masked writes of the first n bytes from a place. -/
theorem byte_foldl_setByte (k : Pkg) (f off n : Nat) (bs : List Byte) (mask : BitVec 32) (g o : Nat) :
    ((List.range n).foldl (fun k i => if mask.getLsbD i then k.setByte f (off + i) (bs.getD i 0) else k) k).byte g o =
      if 65536 * f + off ≤ 65536 * g + o ∧ 65536 * g + o < 65536 * f + off + n ∧ mask.getLsbD (65536 * g + o - (65536 * f + off)) = true then
        bs.getD (65536 * g + o - (65536 * f + off)) 0
      else k.byte g o := by
  induction n with
  | zero => rw [if_neg (by omega)]; rfl
  | succ n ih =>
    rw [List.range_succ, List.foldl_append, List.foldl_cons, List.foldl_nil]
    generalize hy : 65536 * g + o = y at ih ⊢
    have hb (x : Pkg) : (x.setByte f (off + n) (bs.getD n 0)).byte g o = if y = 65536 * f + (off + n) then bs.getD n 0 else x.byte g o := by
      unfold Pkg.setByte Pkg.byte
      rw [getD_setD, hy]
    by_cases hn : y = 65536 * f + off + n
    · have hd : y - (65536 * f + off) = n := by omega
      rw [hd] at ih ⊢
      rw [if_neg (by omega)] at ih
      by_cases hm : mask.getLsbD n = true
      · rw [if_pos hm, hb, if_pos (by omega), if_pos ⟨by omega, by omega, hm⟩]
      · rw [if_neg hm, ih, if_neg (fun h => hm h.2.2)]
    · have hsplit : (65536 * f + off ≤ y ∧ y < 65536 * f + off + (n + 1) ∧ mask.getLsbD (y - (65536 * f + off)) = true) ↔
          (65536 * f + off ≤ y ∧ y < 65536 * f + off + n ∧ mask.getLsbD (y - (65536 * f + off)) = true) := by
        constructor <;> rintro ⟨h1, h2, h3⟩ <;> exact ⟨h1, by omega, h3⟩
      simp only [hsplit]
      rw [← ih]
      split
      · rw [hb, if_neg (by omega)]
      · rfl

/-- Host memory behind a write. -/
theorem hostByte_setHostBytes (s : State) (a : Nat) (bs : List Byte) (b : Nat) :
    (s.setHostBytes a bs).hostByte b = if a ≤ b ∧ b < a + bs.length then bs.getD (b - a) 0 else s.hostByte b :=
  getD_foldl_setD bs s.hostMem a b

/-- A package's frames behind a write. -/
theorem byte_setBytes (k : Pkg) (f off : Nat) (bs : List Byte) (g o : Nat) :
    (k.setBytes f off bs).byte g o =
      if 65536 * f + off ≤ 65536 * g + o ∧ 65536 * g + o < 65536 * f + off + bs.length then bs.getD (65536 * g + o - (65536 * f + off)) 0
      else k.byte g o :=
  getD_foldl_setD bs k.hbm _ _

/-- A scratchpad behind a write to a share that is there. -/
theorem spByte_setSpBytes (s : State) (sh off : Nat) (bs : List Byte) (q o : Nat) (h : (s.share sh).isSome) :
    (s.setSpBytes sh off bs).spByte q o = if q = sh ∧ off ≤ o ∧ o < off + bs.length then bs.getD (o - off) 0 else s.spByte q o := by
  obtain ⟨x, hx⟩ := Option.isSome_iff_exists.mp h
  unfold State.setSpBytes State.spByte
  rw [State.updShare_some hx]
  by_cases hq : q = sh
  · rw [hq, State.share_setShare, hx]
    simp only [true_and]
    exact getD_foldl_setD bs x.sp off o
  · rw [State.share_setShare_other _ _ hq, if_neg (fun hc => hq hc.1)]

/-- Keys that a filter on keys keeps read as before, the others read the default. -/
theorem find_filter_key {α : Type} (m : List (Nat × α)) (keep : Nat → Bool) (j : Nat) :
    find (m.filter fun c => keep c.1) j = if keep j = true then find m j else none := by
  induction m with
  | nil => simp [find_nil]
  | cons e m ih =>
    rw [List.filter_cons]
    by_cases hk : keep e.1 = true
    · rw [if_pos hk, find_cons, find_cons, ih]
      by_cases hj : e.1 = j
      · rw [if_pos hj, if_pos hj, if_pos (hj ▸ hk)]
      · rw [if_neg hj, if_neg hj]
    · rw [if_neg hk, ih, find_cons]
      by_cases hj : e.1 = j
      · rw [if_neg (hj ▸ hk), if_neg (hj ▸ hk)]
      · rw [if_neg hj]

/-- A cleared frame reads zero, every other reads as before (R256). -/
theorem byte_zeroFrame (k : Pkg) (f g o : Nat) (ho : o < 65536) : (k.zeroFrame f).byte g o = if g = f then 0 else k.byte g o := by
  unfold Pkg.zeroFrame Pkg.byte getD
  rw [find_filter_key k.hbm (fun c => c / 65536 != f)]
  have hd : (65536 * g + o) / 65536 = g := by omega
  rw [hd]
  by_cases hg : g = f
  · simp [hg]
  · simp [hg]

/-- Two packages with the same frames, poison and symbol errors. -/
def Pkg.SameGranules (a b : Pkg) : Prop := a.hbm = b.hbm ∧ a.poison = b.poison ∧ a.symErr = b.symErr

theorem Pkg.raiseVec_sameGranules (k : Pkg) (v : Nat) : (k.raiseVec v).SameGranules k := by
  unfold Pkg.raiseVec
  split <;> exact ⟨rfl, rfl, rfl⟩

theorem Pkg.setAstat_sameGranules (k : Pkg) (b : Nat) : (k.setAstat b).SameGranules k := by
  unfold Pkg.setAstat
  split
  · exact ⟨rfl, rfl, rfl⟩
  · exact Pkg.raiseVec_sameGranules _ _

/-- A history entry changes no granule. -/
theorem State.addHist_sameGranules (s : State) (p frame sector kind symbol : Nat) : ((s.addHist p frame sector kind symbol).pkg p).SameGranules (s.pkg p) := by
  unfold State.addHist
  rw [State.pkg_updPkg]
  exact ⟨rfl, rfl, rfl⟩

theorem State.addHist_pkg_other (s : State) (p frame sector kind symbol : Nat) {q : Nat} (h : q ≠ p) :
    (s.addHist p frame sector kind symbol).pkg q = s.pkg q := State.pkg_updPkg_other _ _ h

/-- What a read of a granule leaves and answers (R271). -/
theorem State.readGranule_spec (s : State) (p f sec : Nat) :
    let r := s.readGranule p f sec
    let old := find (s.pkg p).poison (2048 * f + sec)
    let sym := find (s.pkg p).symErr (2048 * f + sec)
    (r.2 = true ↔ (∃ n, sym = some n ∧ 64 ≤ n) ∨ old.isSome) ∧ (r.1.pkg p).hbm = (s.pkg p).hbm ∧ (∀ q, q ≠ p → r.1.pkg q = s.pkg q) ∧
      find (r.1.pkg p).symErr (2048 * f + sec) = none ∧
      find (r.1.pkg p).poison (2048 * f + sec) = if (∃ n, sym = some n ∧ 64 ≤ n) then some 1 else old := by
  intro r old sym
  have hr : r = s.readGranule p f sec := rfl
  unfold State.readGranule at hr
  -- a granule without an uncorrectable error answers by its poison
  have answered (x : State) (hx : (x.pkg p).hbm = (s.pkg p).hbm) (hpo : (x.pkg p).poison = (s.pkg p).poison)
      (hsy : find (x.pkg p).symErr (2048 * f + sec) = none) (hq : ∀ q, q ≠ p → x.pkg q = s.pkg q) (hno : ¬ ∃ n, sym = some n ∧ 64 ≤ n)
      (hr : r = if (find (x.pkg p).poison (2048 * f + sec)).isSome then (x.addHist p f sec 3 63, true) else (x, false)) :
      (r.2 = true ↔ (∃ n, sym = some n ∧ 64 ≤ n) ∨ old.isSome) ∧ (r.1.pkg p).hbm = (s.pkg p).hbm ∧ (∀ q, q ≠ p → r.1.pkg q = s.pkg q) ∧
        find (r.1.pkg p).symErr (2048 * f + sec) = none ∧
        find (r.1.pkg p).poison (2048 * f + sec) = if (∃ n, sym = some n ∧ 64 ≤ n) then some 1 else old := by
    rw [hpo] at hr
    by_cases hp : old.isSome
    · rw [if_pos hp] at hr
      obtain ⟨g1, g2, g3⟩ := State.addHist_sameGranules x p f sec 3 63
      rw [hr]
      exact ⟨⟨fun _ => .inr hp, fun _ => rfl⟩, g1.trans hx, fun q h => (State.addHist_pkg_other x p _ _ _ _ h).trans (hq q h), by rw [g3]; exact hsy,
        by rw [if_neg hno, g2, hpo]⟩
    · rw [if_neg hp] at hr
      rw [hr]
      exact ⟨⟨fun h => (by cases h), fun h => (h.elim hno hp).elim⟩, hx, hq, hsy, by rw [if_neg hno, hpo]⟩
  cases hsym : sym with
  | none =>
    have hsym' : find (s.pkg p).symErr (2048 * f + sec) = none := hsym
    simp only [hsym'] at hr
    exact hsym ▸ answered s rfl rfl hsym' (fun _ _ => rfl) (by rw [hsym]; rintro ⟨n, hn, -⟩; cases hn) hr
  | some n =>
    have hsym' : find (s.pkg p).symErr (2048 * f + sec) = some n := hsym
    simp only [hsym'] at hr
    by_cases hn : n < 64
    · rw [if_pos hn] at hr
      have hsame (x : State) := State.addHist_sameGranules x p f sec 1 n
      refine hsym ▸ answered _ ?_ ?_ ?_ (fun q hq => ?_) (by rw [hsym]; rintro ⟨m, hm, h⟩; cases hm; omega) hr
      · rw [(hsame _).1, State.pkg_updPkg]; rfl
      · rw [(hsame _).2.1, State.pkg_updPkg]; rfl
      · rw [(hsame _).2.2, State.pkg_updPkg]; exact find_erase_same _ _
      · rw [State.addHist_pkg_other _ _ _ _ _ _ hq, State.pkg_updPkg_other _ _ hq]
    · rw [if_neg hn] at hr
      have hyes : ∃ m, some n = some m ∧ 64 ≤ m := ⟨n, rfl, by omega⟩
      obtain ⟨a1, a2, a3⟩ := Pkg.setAstat_sameGranules ((s.pkg p).count 13) 7
      obtain ⟨h1, h2, h3⟩ := State.addHist_sameGranules (s.updPkg p fun k =>
        { (k.count 13).setAstat 7 with
          symErr := erase ((k.count 13).setAstat 7).symErr (2048 * f + sec)
          poison := put ((k.count 13).setAstat 7).poison (2048 * f + sec) 1 }) p f sec 2 63
      rw [State.pkg_updPkg] at h1 h2 h3
      rw [hr]
      refine ⟨⟨fun _ => .inl hyes, fun _ => rfl⟩, h1.trans a1, fun q hq => (State.addHist_pkg_other _ p _ _ _ _ hq).trans
        (State.pkg_updPkg_other _ _ hq), ?_, ?_⟩
      · rw [h3]; exact find_erase_same _ _
      · rw [h2, if_pos hyes]; exact find_put_same _ _ _

/-- The place of a granule's byte: the frame, the sector and the byte within it. -/
theorem granule_place {f sec g o : Nat} (hs : sec < 2048) (ho : o < 65536) :
    (65536 * f + 32 * sec ≤ 65536 * g + o ∧ 65536 * g + o < 65536 * f + 32 * sec + 32) ↔ g = f ∧ o / 32 = sec := by
  constructor
  · rintro ⟨h1, h2⟩
    have hg : g = f := by omega
    exact ⟨hg, by omega⟩
  · rintro ⟨rfl, h⟩
    omega

/-- What a write of a granule leaves and answers (R271). -/
theorem State.writeGranule_spec (s : State) (p f sec : Nat) (bs : List Byte) (mask : BitVec 32) (hs : sec < 2048) (hl : bs.length = 32) :
    let r := s.writeGranule p f sec bs mask
    let old := find (s.pkg p).poison (2048 * f + sec)
    let sym := find (s.pkg p).symErr (2048 * f + sec)
    (r.2 = true ↔ mask = BitVec.allOnes 32 ∨ old = none ∧ ∀ n, sym = some n → n < 64) ∧
    (∀ g o, o < 65536 → (r.1.pkg p).byte g o =
      if r.2 = true ∧ g = f ∧ o / 32 = sec ∧ mask.getLsbD (o % 32) = true then bs.getD (o % 32) 0 else (s.pkg p).byte g o) ∧
    (∀ q, q ≠ p → r.1.pkg q = s.pkg q) ∧ (mask = BitVec.allOnes 32 → find (r.1.pkg p).poison (2048 * f + sec) = none) := by
  intro r old sym
  have hr : r = s.writeGranule p f sec bs mask := rfl
  unfold State.writeGranule at hr
  by_cases hm : mask = BitVec.allOnes 32
  · rw [if_pos hm] at hr
    rw [hr]
    refine ⟨by simp [hm], fun g o ho => ?_, fun q hq => State.pkg_updPkg_other _ _ hq, fun _ => ?_⟩
    · rw [State.pkg_updPkg]
      show ((s.pkg p).setBytes f (32 * sec) bs).byte g o = _
      rw [byte_setBytes, hl]
      have hall : mask.getLsbD (o % 32) = true := by
        rw [hm, BitVec.getLsbD_allOnes]; exact decide_eq_true (by omega)
      by_cases hc : g = f ∧ o / 32 = sec
      · rw [if_pos ((granule_place hs ho).mpr hc), if_pos ⟨rfl, hc.1, hc.2, hall⟩]
        congr 1
        omega
      · rw [if_neg (fun h => hc ((granule_place hs ho).mp h)), if_neg (fun h => hc ⟨h.2.1, h.2.2.1⟩)]
    · rw [State.pkg_updPkg]
      exact find_erase_same _ _
  · rw [if_neg hm] at hr
    -- a write that is discarded leaves every byte
    have discarded (x : State) (hx : (x.pkg p).hbm = (s.pkg p).hbm) (hq : ∀ q, q ≠ p → x.pkg q = s.pkg q) (hr : r = (x.addHist p f sec 4 63, false))
        (hbad : ¬ (old = none ∧ ∀ n, sym = some n → n < 64)) :
        (r.2 = true ↔ mask = BitVec.allOnes 32 ∨ old = none ∧ ∀ n, sym = some n → n < 64) ∧
        (∀ g o, o < 65536 → (r.1.pkg p).byte g o =
          if r.2 = true ∧ g = f ∧ o / 32 = sec ∧ mask.getLsbD (o % 32) = true then bs.getD (o % 32) 0 else (s.pkg p).byte g o) ∧
        (∀ q, q ≠ p → r.1.pkg q = s.pkg q) ∧ (mask = BitVec.allOnes 32 → find (r.1.pkg p).poison (2048 * f + sec) = none) := by
      rw [hr]
      refine ⟨⟨fun h => (by cases h), fun h => (h.elim hm hbad).elim⟩, fun g o _ => ?_,
        fun q hq' => (State.addHist_pkg_other x p _ _ _ _ hq').trans (hq q hq'), fun h => (hm h).elim⟩
      rw [if_neg (fun h => by cases h.1)]
      show getD 0 ((x.addHist p f sec 4 63).pkg p).hbm _ = getD 0 (s.pkg p).hbm _
      rw [(State.addHist_sameGranules x p f sec 4 63).1, hx]
    by_cases hp : old.isSome
    · rw [if_pos hp] at hr
      exact discarded s rfl (fun _ _ => rfl) hr (fun h => by rw [h.1] at hp; cases hp)
    · rw [if_neg hp] at hr
      obtain ⟨hbad, hhbm, hoth, -, -⟩ := State.readGranule_spec s p f sec
      generalize s.readGranule p f sec = x at hr hbad hhbm hoth
      obtain ⟨x, bad⟩ := x
      dsimp only at hr hbad hhbm hoth
      have hnone : old = none := Option.not_isSome_iff_eq_none.mp hp
      by_cases hb : bad = true
      · rw [if_pos hb] at hr
        refine discarded x hhbm hoth hr (fun h => ?_)
        obtain ⟨n, hn, h64⟩ := (hbad.mp hb).resolve_right hp
        exact absurd (h.2 n hn) (by omega)
      · rw [if_neg hb] at hr
        rw [hr]
        refine ⟨⟨fun _ => .inr ⟨hnone, fun n hn => ?_⟩, fun _ => rfl⟩, fun g o ho => ?_,
          fun q hq => (State.pkg_updPkg_other _ _ hq).trans (hoth q hq),
          fun h => (hm h).elim⟩
        · by_contra hge
          exact hb (hbad.mpr (.inl ⟨n, hn, by omega⟩))
        · rw [State.pkg_updPkg, byte_foldl_setByte]
          have hsame : (x.pkg p).byte g o = (s.pkg p).byte g o := by unfold Pkg.byte; rw [hhbm]
          rw [hsame]
          by_cases hc : g = f ∧ o / 32 = sec
          · obtain ⟨h1, h2⟩ := (granule_place hs ho).mpr hc
            have hi : 65536 * g + o - (65536 * f + 32 * sec) = o % 32 := by omega
            rw [hi]
            by_cases hbit : mask.getLsbD (o % 32) = true
            · rw [if_pos ⟨h1, h2, hbit⟩, if_pos ⟨rfl, hc.1, hc.2, hbit⟩]
            · rw [if_neg (fun h => hbit h.2.2), if_neg (fun h => hbit h.2.2.2)]
          · rw [if_neg (fun h => hc ((granule_place hs ho).mp ⟨h.1, h.2.1⟩)), if_neg (fun h => hc ⟨h.2.1, h.2.2.1⟩)]

/-- Settles O57: each map reads back its last write, and granules by the cases of their poison and symbol errors. -/
theorem memoryReadsBack : Obligations.MemoryReadsBack := by
  refine ⟨hostByte_setHostBytes, byte_setBytes, fun s sh off bs q o h => spByte_setSpBytes s sh off bs q o h,
    fun k f g o ho => byte_zeroFrame k f g o ho, fun s p f sec bs mask hs hl => State.writeGranule_spec s p f sec bs mask hs hl, fun s p f sec => ?_⟩
  obtain ⟨h1, h2, -, h4, h5⟩ := State.readGranule_spec s p f sec
  exact ⟨h1, h2, h4, h5⟩

end Sys2Proof.Machine

/-! PROOFS. What the reads of the hardware change: granule states, error history, ways, TLBs and host requests, and nothing else (R37, R243 to R248,
  R271, R316). -/

namespace Sys2Proof.Machine

open Host

/-! ## What a read of granules may change -/

/-- A package whose granule states, error history, counters and ways used last are those of x. -/
def Pkg.readAs (k x : Pkg) : Pkg :=
  { k with
    poison := x.poison, symErr := x.symErr, errTotal := x.errTotal, errNext := x.errNext, history := x.history, counters := x.counters
    astat := x.astat, msixPend := x.msixPend, irqs := x.irqs, mru := x.mru }

/-- What reads of granules may leave of a package. -/
def Pkg.Reads (k k' : Pkg) : Prop := k' = k.readAs k'

theorem Pkg.Reads.refl (k : Pkg) : k.Reads k := rfl

theorem Pkg.Reads.trans {a b c : Pkg} (hb : a.Reads b) (hc : b.Reads c) : a.Reads c := by
  unfold Pkg.Reads at hb hc ⊢
  rw [hb] at hc
  exact hc

/-- What reads of granules may leave of the pod. -/
def State.Reads (s s' : State) : Prop := s' = { s with pkgs := s'.pkgs } ∧ ∀ q, (s.pkg q).Reads (s'.pkg q)

theorem State.Reads.refl (s : State) : s.Reads s := ⟨rfl, fun _ => rfl⟩

theorem State.Reads.trans {a b c : State} (hb : a.Reads b) (hc : b.Reads c) : a.Reads c := by
  obtain ⟨b1, b2⟩ := hb
  obtain ⟨c1, c2⟩ := hc
  refine ⟨?_, fun q => (b2 q).trans (c2 q)⟩
  rw [b1] at c1
  exact c1

theorem State.Reads.updPkg (s : State) (q : Nat) {f : Pkg → Pkg} (h : (s.pkg q).Reads (f (s.pkg q))) : s.Reads (s.updPkg q f) := by
  refine ⟨rfl, fun x => ?_⟩
  by_cases hx : x = q
  · rw [hx, State.pkg_updPkg]
    exact h
  · rw [State.pkg_updPkg_other _ _ hx]
    exact .refl _

/-- A run of reads is a read. -/
theorem State.Reads.foldl {α : Type} (l : List α) (f : State → α → State) (hf : ∀ (s : State) (x : α), s.Reads (f s x)) (s : State) :
    s.Reads (l.foldl f s) := by
  induction l generalizing s with
  | nil => exact .refl s
  | cons x l ih => exact (hf s x).trans (ih _)

/-! ## Granules and the SYSTEM point -/

theorem Pkg.reads_raiseVec (k : Pkg) (v : Nat) : k.Reads (k.raiseVec v) := by
  unfold Pkg.raiseVec
  split <;> rfl

theorem Pkg.reads_setAstat (k : Pkg) (b : Nat) : k.Reads (k.setAstat b) := by
  unfold Pkg.setAstat
  split
  · rfl
  · exact Pkg.Reads.trans (b := { k with astat := k.astat ||| BitVec.ofNat 8 (2 ^ b) }) rfl (Pkg.reads_raiseVec _ _)

theorem State.reads_addHist (s : State) (q frame sector kind symbol : Nat) : s.Reads (s.addHist q frame sector kind symbol) :=
  .updPkg s q (by rfl)

theorem State.reads_readGranule (s : State) (q frame sector : Nat) : s.Reads (s.readGranule q frame sector).1 := by
  have held (a x : State) (h : a.Reads x) :
      a.Reads (if (find (x.pkg q).poison (2048 * frame + sector)).isSome then (x.addHist q frame sector 3 63, true) else (x, false)).1 := by
    split
    · exact h.trans (State.reads_addHist x q _ _ _ _)
    · exact h
  unfold State.readGranule
  dsimp only
  split
  · exact held s s (.refl s)
  · next n _ =>
    split
    · exact held s _ ((State.Reads.updPkg s q (by rfl)).trans (State.reads_addHist _ q _ _ _ _))
    · refine (State.Reads.updPkg s q ?_).trans (State.reads_addHist _ q _ _ _ _)
      exact Pkg.Reads.trans (b := ((s.pkg q).count 13).setAstat 7)
        (Pkg.Reads.trans (b := (s.pkg q).count 13) rfl (Pkg.reads_setAstat _ _)) rfl

theorem State.reads_sysTouch (s : State) (at_ a n : Nat) : s.Reads (s.sysTouch at_ a n) := by
  unfold State.sysTouch
  dsimp only
  split
  · exact .refl s
  · next q f _ =>
    have h : s.Reads ((List.range ((a % 32 + n + 31) / 32)).foldl (fun s i => (s.readGranule q f ((a % 65536 / 32 + i) % 2048)).1) s) :=
      .foldl _ _ (fun x i => State.reads_readGranule x q f _) s
    split
    · exact h.trans (.updPkg _ q (by rfl))
    · exact h

theorem State.reads_sysRead (s : State) (at_ a n : Nat) : s.Reads (s.sysRead at_ a n).1 := by
  unfold State.sysRead
  split
  · exact State.reads_sysTouch s at_ a n
  · exact .refl s

theorem State.reads_readRange (s : State) (q gpn off n : Nat) : s.Reads (s.readRange q gpn off n) := by
  unfold State.readRange
  split
  · exact .refl s
  · exact .foldl _ _ (fun x i => State.reads_readGranule x q _ _) s

/-! ## What a read of the hardware may change -/

/-- A package whose second-level TLB, host requests and what granule reads change are those of x. -/
def Pkg.lookedAs (k x : Pkg) : Pkg :=
  { k with
    poison := x.poison, symErr := x.symErr, errTotal := x.errTotal, errNext := x.errNext, history := x.history, counters := x.counters
    astat := x.astat, msixPend := x.msixPend, irqs := x.irqs, mru := x.mru, tlb2 := x.tlb2, hreqTail := x.hreqTail, hreqs := x.hreqs }

/-- What reads of the hardware may leave of a package: they change nothing but what lookedAs names. -/
def Pkg.Looks (k k' : Pkg) : Prop := k' = k.lookedAs k'

theorem Pkg.Looks.refl (k : Pkg) : k.Looks k := rfl

theorem Pkg.Looks.trans {a b c : Pkg} (hb : a.Looks b) (hc : b.Looks c) : a.Looks c := by
  unfold Pkg.Looks at hb hc ⊢
  rw [hb] at hc
  exact hc

theorem Pkg.Reads.looks {k k' : Pkg} (h : k.Reads k') : k.Looks k' := by
  have hread (x : Pkg) : k.Looks (k.readAs x) := rfl
  unfold Pkg.Reads at h
  rw [h]
  exact hread k'

/-- What reads of the hardware, on behalf of package p, may leave of the pod: its TLBs and what Pkg.Looks names; host memory alone where the host
is asked for walks. -/
def State.Looks (p : Nat) (s s' : State) : Prop :=
  s' = { s with pkgs := s'.pkgs, cores := s'.cores, hostMem := s'.hostMem } ∧ (∀ q, (s.pkg q).Looks (s'.pkg q)) ∧
    (∀ c, s'.core c = { s.core c with tlb := (s'.core c).tlb }) ∧ ((s.pkg p).duty.getLsbD 3 = false → s'.hostMem = s.hostMem)

theorem State.Looks.refl (p : Nat) (s : State) : s.Looks p s := ⟨rfl, fun _ => rfl, fun _ => rfl, fun _ => rfl⟩

theorem Pkg.Looks.duty {k k' : Pkg} (h : k.Looks k') : k'.duty = k.duty := by rw [h]; rfl

theorem State.Looks.trans {p : Nat} {a b c : State} (hb : a.Looks p b) (hc : b.Looks p c) : a.Looks p c := by
  obtain ⟨b1, b2, b3, b4⟩ := hb
  obtain ⟨c1, c2, c3, c4⟩ := hc
  refine ⟨?_, fun q => (b2 q).trans (c2 q), fun x => ?_, fun hd => (c4 ?_).trans (b4 hd)⟩
  · rw [b1] at c1
    exact c1
  · have hx := c3 x
    rw [b3 x] at hx
    exact hx
  · rw [(b2 p).duty]
    exact hd

theorem State.Reads.looks (p : Nat) {s s' : State} (h : s.Reads s') : s.Looks p s' := by
  obtain ⟨h1, h2⟩ := h
  refine ⟨by rw [h1], fun q => (h2 q).looks, fun c => ?_, fun _ => by rw [h1]⟩
  have hc : s'.core c = s.core c := by rw [h1]; rfl
  rw [hc]

theorem State.Looks.updPkg {p : Nat} (s : State) (q : Nat) {f : Pkg → Pkg} (h : (s.pkg q).Looks (f (s.pkg q))) : s.Looks p (s.updPkg q f) := by
  refine ⟨rfl, fun x => ?_, fun _ => rfl, fun _ => rfl⟩
  by_cases hx : x = q
  · rw [hx, State.pkg_updPkg]
    exact h
  · rw [State.pkg_updPkg_other _ _ hx]
    exact .refl _

theorem State.Looks.updTlb (p : Nat) (s : State) (c : Nat) (l : List TlbEnt) : s.Looks p (s.updCore c fun k => { k with tlb := l }) := by
  refine ⟨rfl, fun _ => rfl, fun x => ?_, fun _ => rfl⟩
  by_cases hx : x = c
  · rw [hx, State.core_updCore]
  · rw [State.core_updCore_other _ _ hx]

theorem State.Looks.foldl {α : Type} {p : Nat} (l : List α) (f : State → α → State) (hf : ∀ (s : State) (x : α), s.Looks p (f s x)) (s : State) :
    s.Looks p (l.foldl f s) := by
  induction l generalizing s with
  | nil => exact .refl p s
  | cons x l ih => exact (hf s x).trans (ih _)

section
variable {p : Nat} {s s' : State} (h : s.Looks p s')
include h

theorem State.Looks.pkg (q : Nat) : (s.pkg q).Looks (s'.pkg q) := h.2.1 q
theorem State.Looks.core (c : Nat) : s'.core c = { s.core c with tlb := (s'.core c).tlb } := h.2.2.1 c
theorem State.Looks.hostMem (hd : (s.pkg p).duty.getLsbD 3 = false) : s'.hostMem = s.hostMem := h.2.2.2 hd
theorem State.Looks.now : s'.now = s.now := by rw [h.1]
theorem State.Looks.dies : s'.dies = s.dies := by rw [h.1]
theorem State.Looks.teams : s'.teams = s.teams := by rw [h.1]
theorem State.Looks.shares : s'.shares = s.shares := by rw [h.1]
theorem State.Looks.clusters : s'.clusters = s.clusters := by rw [h.1]
theorem State.Looks.grids : s'.grids = s.grids := by rw [h.1]
theorem State.Looks.xfers : s'.xfers = s.xfers := by rw [h.1]
theorem State.Looks.requests : s'.requests = s.requests := by rw [h.1]
theorem State.Looks.packets : s'.packets = s.packets := by rw [h.1]
theorem State.Looks.changes : s'.changes = s.changes := by rw [h.1]
theorem State.Looks.cur : s'.cur = s.cur := by rw [h.1]
theorem State.Looks.agenda : s'.agenda = s.agenda := by rw [h.1]
theorem State.Looks.fresh : s'.fresh = s.fresh := by rw [h.1]
theorem State.Looks.team (tk : Nat) : s'.team tk = s.team tk := by unfold State.team; rw [h.teams]
theorem State.Looks.share (sh : Nat) : s'.share sh = s.share sh := by unfold State.share; rw [h.shares]
theorem State.Looks.hbm (q : Nat) : (s'.pkg q).hbm = (s.pkg q).hbm := by rw [h.pkg q]; rfl
theorem State.Looks.frames (q : Nat) : (s'.pkg q).frames = (s.pkg q).frames := by rw [h.pkg q]; rfl

/-- Reads leave every byte of memory where no walk is asked of the host. -/
theorem State.Looks.sameMemory (hd : (s.pkg p).duty.getLsbD 3 = false) : SameMemory s s' := by
  refine ⟨fun a => ?_, fun q f off => ?_, fun sh off => ?_⟩
  · unfold State.hostByte; rw [h.hostMem hd]
  · unfold Pkg.byte; rw [h.hbm q]
  · unfold State.spByte; rw [h.share sh]

end

/-! ## Walks and translations -/

theorem State.looks_walk (p : Nat) (s : State) (q vpage n gpn tidx : Nat) : s.Looks p (s.walk q vpage n gpn tidx).1 := by
  induction n generalizing s gpn tidx with
  | zero => exact .refl p s
  | succ n ih =>
    have hread := (State.reads_sysRead s q (65536 * gpn + 8192 * tidx + 8 * (vpage / 2 ^ (10 * n) % (if n = 3 then 2048 else 1024))) 8).looks p
    unfold State.walk
    dsimp only
    split
    · next heq => rw [heq] at hread; exact hread
    · next heq =>
      rw [heq] at hread
      split
      · exact hread
      · split
        · exact hread
        · split
          · exact hread
          · exact hread.trans (ih _ _ _)

theorem State.looks_ctxLeaf (p : Nat) (s : State) (q ctx va : Nat) : s.Looks p (s.ctxLeaf q ctx va).1 := by
  unfold State.ctxLeaf
  split
  · exact .refl p s
  · next c _ =>
    have hwalk : s.Looks p
        (if canonical (BitVec.ofNat 64 va) then s.walk q (va / 65536 % 2 ^ 41) 4 c.rootGpn c.rootTidx else (s, none)).1 := by
      split
      · exact State.looks_walk p s q _ _ _ _
      · exact .refl p s
    dsimp only
    split
    · next heq => rw [heq] at hwalk; exact hwalk
    · next heq => rw [heq] at hwalk; exact hwalk

theorem State.looks_ctxPlace (p : Nat) (s : State) (q ctx va : Nat) : s.Looks p (s.ctxPlace q ctx va).1 := by
  have hleaf := State.looks_ctxLeaf p s q ctx va
  unfold State.ctxPlace
  split
  · next heq => rw [heq] at hleaf; exact hleaf
  · next heq =>
    rw [heq] at hleaf
    split <;> exact hleaf

theorem State.looks_shadowHot (p : Nat) (s : State) (q ctx gpn : Nat) : s.Looks p (s.shadowHot q ctx gpn).1 := by
  unfold State.shadowHot
  split
  · exact .refl p s
  · next c _ =>
    split
    · exact .refl p s
    · have hplace := State.looks_ctxPlace p s q ctx (c.shbase + 4 * (gpn % 2 ^ c.shw))
      split
      · next heq => rw [heq] at hplace; exact hplace
      · next s1 _ a heq =>
        rw [heq] at hplace
        have hread := (State.reads_sysRead s1 q a 4).looks p
        split
        · next heq => rw [heq] at hread; exact hplace.trans hread
        · next heq => rw [heq] at hread; exact hplace.trans hread

/-- A request to the host changes host memory: only a package whose walks are the host's sends one for a walk. -/
theorem State.looks_askHost (s : State) (p kind core : Nat) (a b c : Word) (hd : (s.pkg p).duty.getLsbD 3 = true) :
    s.Looks p (s.askHost p kind core a b c).1 := by
  unfold State.askHost
  dsimp only
  split
  · exact .refl p s
  · refine ⟨rfl, fun q => ?_, fun _ => rfl, fun h => absurd h (by rw [hd]; decide)⟩
    by_cases hq : q = p
    · rw [hq, State.pkg_updPkg]
      split
      · exact Pkg.Looks.trans (b := { s.pkg p with
          hreqTail := (s.pkg p).hreqTail + 1, hreqs := put (s.pkg p).hreqs (s.pkg p).hreqTail.toNat ⟨kind, core, a, b, c, s.cur⟩ }) rfl
          ((Pkg.reads_raiseVec _ _).looks)
      · rfl
    · rw [State.pkg_updPkg_other _ _ hq]
      exact .refl _

theorem State.looks_askWalk (s : State) (core ctx : Nat) (va : Word) (write fetch_ : Bool)
    (hd : (s.pkg (pkgOf core)).duty.getLsbD 3 = true ∨ (s.asking core ctx va).isSome = true) :
    s.Looks (pkgOf core) (s.askWalk core ctx va write fetch_).1 := by
  unfold State.askWalk
  dsimp only
  split
  · exact .refl _ s
  · next hnone =>
    exact State.looks_askHost s (pkgOf core) 1 _ _ _ _ (hd.resolve_right (by rw [hnone]; decide))

theorem State.looks_translate (s : State) (core ctx : Nat) (va : Word) (write fetch_ : Bool) :
    s.Looks (pkgOf core) (s.translate core ctx va write fetch_).1 := by
  have henter (x : State) (e : TlbEnt) :
      x.Looks (pkgOf core) (if x.noCore then x else x.updCore core fun k => { k with tlb := e :: k.tlb }) := by
    split
    · exact .refl _ x
    · exact .updTlb _ x core (e :: (x.core core).tlb)
  unfold State.translate
  dsimp only
  split
  · exact .refl _ s
  split
  · exact .refl _ s
  split
  · exact henter s _
  split
  · exact .refl _ s
  split
  · next hask => exact State.looks_askWalk s core ctx va write fetch_ (by simpa using hask)
  split
  · exact .refl _ s
  · next c _ =>
    have hwalk := State.looks_walk (pkgOf core) s (pkgOf core) (va.toNat / 65536 % 2 ^ 41) 4 c.rootGpn c.rootTidx
    split
    · next heq => rw [heq] at hwalk; exact hwalk
    · next s1 e log heq =>
      rw [heq] at hwalk
      have hhot := State.looks_shadowHot (pkgOf core) s1 (pkgOf core) ctx (entGpn e)
      have hent := hwalk.trans (hhot.trans (henter _ ⟨ctx, va.toNat / 65536 % 2 ^ 41 / 2 ^ log * 2 ^ log, log, e,
        (s1.shadowHot (pkgOf core) ctx (entGpn e)).2.1, (s1.shadowHot (pkgOf core) ctx (entGpn e)).2.2⟩))
      dsimp only
      exact hent.trans (.updPkg _ _ (by rfl))

/-- A fetch of code changes what reads change. -/
theorem State.looks_fetch (s : State) (core ctx : Nat) (va : Word) : s.Looks (pkgOf core) (s.fetch core ctx va).1 := by
  have htr := State.looks_translate s core ctx va false true
  unfold State.fetch
  dsimp only
  split
  · exact htr
  · exact htr
  · next l _ =>
    split
    · exact htr
    · split
      · exact htr
      · have hread := (State.reads_sysRead (s.translate core ctx va false true).1 (pkgOf core) (65536 * l.gpn + va.toNat % 65536) 8).looks (pkgOf core)
        split
        · next heq => rw [heq] at hread; exact htr.trans hread
        · next heq => rw [heq] at hread; exact htr.trans hread

/-! ## The checks of an access -/

theorem State.looks_checkGlobal (s : State) (core ctx : Nat) (va : Word) (n : Nat) (write rmw split lockCheck probe : Bool) :
    s.Looks (pkgOf core) (s.checkGlobal core ctx va n write rmw split lockCheck probe).1 := by
  unfold State.checkGlobal
  split
  · exact .refl _ s
  dsimp only
  refine List.foldlRecOn (motive := fun (acc : State × Chk) => s.Looks (pkgOf core) acc.1) _ _ (.refl _ s) fun acc hacc cut _ => ?_
  have htr := State.looks_translate acc.1 core ctx cut.1 write false
  dsimp only
  split
  · exact hacc.trans (htr.trans ((State.reads_readRange _ _ _ _ _).looks _))
  · exact hacc.trans htr

theorem State.looks_checkLanes (s : State) (tk : Nat) (t : Team) (lanes : List Nat) (ea : Nat → Word) (n : Nat)
    (write rmw split lockCheck probe : Bool) : s.Looks (pkgOfTeam tk) (s.checkLanes tk t lanes ea n write rmw split lockCheck probe).1 := by
  unfold State.checkLanes
  dsimp only
  refine List.foldlRecOn (motive := fun (acc : State × List (Nat × Word × Chk)) => s.Looks (pkgOfTeam tk) acc.1) _ _ (.refl _ s) fun acc hacc L _ => ?_
  exact hacc.trans (State.looks_checkGlobal acc.1 _ _ _ _ _ _ _ _ _)

end Sys2Proof.Machine

/-! PROOFS. What a step runs: the team's or the stream's next word, or the event that the agenda names (R40 to R42, R57, R60, R63). -/

namespace Sys2Proof.Machine

open Host

theorem inImage_iff (n : Nat) : inImage n = true ↔ 138240 ≤ n := decide_eq_true_iff

/-- Which team issues (R57, R308, R313). -/
theorem State.issues_iff (s : State) (n : Nat) (t : Team) : s.issues n t = true ↔
    t.run = .running ∧ (t.admitted = true ∨ t.stepping.isSome = true) ∧ n < 138240 ∧ s.saving t.cl = false ∧
      (t.word = none → t.gapUntil ≤ s.now ∧ s.stopping t.cl = false) ∧
      (t.inSlot = true ∨ t.stepping.isSome = true ∨
        ((s.teams.filter fun (e : Nat × Team) => coreOf e.1 == coreOf n && decide (e.1 < 138240) && e.2.inSlot).length < 2 ∧
          s.firstCandidate (coreOf n) = some n)) := by
  have hfilter : (fun (e : Nat × Team) => coreOf e.1 == coreOf n && !inImage e.1 && e.2.inSlot) =
      fun (e : Nat × Team) => coreOf e.1 == coreOf n && decide (e.1 < 138240) && e.2.inSlot := by
    funext e
    have : (!inImage e.1) = decide (e.1 < 138240) := by unfold inImage; rw [← decide_not]; simp
    rw [this]
  unfold State.issues State.mayIssue State.slotOpen
  rw [hfilter, show Config.issueSlots = 2 from rfl]
  have himage : (!inImage n) = true ↔ n < 138240 := by unfold inImage; rw [← decide_not, decide_eq_true_iff]; omega
  simp only [Bool.and_eq_true, Bool.or_eq_true, himage, beq_iff_eq, decide_eq_true_iff, Bool.not_eq_true', Option.isSome_iff_ne_none]
  cases t.word with
  | none => simp; tauto
  | some j => simp; tauto

/-- A team's word that decodes is executed as what it decodes to. -/
theorem decode_at {bs : List Byte} {word : Option Nat} {i : Instr}
    (h : decode (if word.isNone then WordKind.header else .team) bs = .ok (i, [])) :
    (if word.isNone then decodeHeader (BitVec.ofNat 64 (natOfBytes bs)) else decodeWord (BitVec.ofNat 64 (natOfBytes bs))) = i := by
  obtain ⟨w, hbs, hheader, -, hteam⟩ := of_decode_ok h
  rw [List.append_nil] at hbs
  have hw : BitVec.ofNat 64 (natOfBytes bs) = w := by
    have hword := word_bytesOf w
    rwa [List.take_of_length_le (length_bytesOf 8 _).le, ← hbs] at hword
  rw [hw]
  cases word with
  | none => exact (hheader rfl).symm
  | some j => exact (hteam rfl).1.symm

/-- What ends a team that a kill has doomed, behind its word (R357). -/
def endsDoomed (n : Nat) (t : Team) (r : Res) : Res := (if t.doomed then reaped n else id) r

theorem endsDoomed_eq (n : Nat) (t : Team) (r : Res) :
    endsDoomed n t r = if t.doomed then (match r with | .next X => .next (X.reap n) | r => r) else r := by
  unfold endsDoomed reaped
  split <;> rfl

theorem State.takeSlot_eq (s : State) (n : Nat) (t : Team) :
    s.takeSlot n t = if t.inSlot = true ∨ t.stepping.isSome = true then s else s.setTeam n { t with inSlot := true } := by
  unfold State.takeSlot
  simp only [Bool.or_eq_true]

/-- What a team does with what its fetch finds. -/
def teamAct (n : Nat) (t : Team) (s : State) : Fetched → Res
  | .wait ix => .next (s.updTeam n fun u => { u with run := .parked (.walk ix) })
  | .bad c => .next ((Act.fault s noHdr c 0 0 0).finish n false)
  | .word w => exec (if t.word.isNone then decodeHeader w else decodeWord w) s

theorem stepTeam_eq {s : State} {n : Nat} (hcur : s.cur = n) : stepTeam n s = match s.team n with
    | none => .next s
    | some t =>
      if !s.issues n t then .next s
      else endsDoomed n t (teamAct n t ((s.takeSlot n t).fetch (coreOf n) t.ctx t.here).1 ((s.takeSlot n t).fetch (coreOf n) t.ctx t.here).2) := by
  subst hcur
  unfold stepTeam
  show (match s.team s.cur with | none => _ | some t => _) = _
  cases s.team s.cur with
  | none => rfl
  | some t =>
    dsimp only
    congr 1
    unfold endsDoomed
    obtain ⟨s2, x⟩ := (s.takeSlot s.cur t).fetch (coreOf s.cur) t.ctx t.here
    cases x with
    | word w =>
      unfold teamAct
      dsimp only
      rw [← apply_ite (fun i => exec i s2)]
    | bad c => rfl
    | wait ix => rfl

/-- A team that issues, by what its fetch finds. -/
theorem stepTeam_issues {s : State} {n : Nat} {t : Team} (hcur : s.cur = n) (ht : s.team n = some t) (hi : s.issues n t = true) {s2 : State}
    {x : Fetched} (hf : (s.takeSlot n t).fetch (coreOf n) t.ctx t.here = (s2, x)) : stepTeam n s = endsDoomed n t (teamAct n t s2 x) := by
  rw [stepTeam_eq hcur, ht]
  dsimp only
  rw [hi, hf]
  rfl

/-- A team that does not issue takes no step. -/
theorem stepTeam_idle {s : State} {n : Nat} {t : Team} (hcur : s.cur = n) (ht : s.team n = some t) (hi : s.issues n t = false) :
    stepTeam n s = .next s := by
  rw [stepTeam_eq hcur, ht]
  dsimp only
  rw [hi]
  rfl

/-- The team that a slot was taken for. -/
theorem State.team_takeSlot {s : State} {n : Nat} {t : Team} (ht : s.team n = some t) :
    ∃ b, (s.takeSlot n t).team n = some { t with inSlot := b } ∧ (s.takeSlot n t).cur = s.cur := by
  unfold State.takeSlot
  split
  · exact ⟨t.inSlot, ht, rfl⟩
  · exact ⟨true, State.team_setTeam _ _ _, rfl⟩

/-- A freeze writes the slot of a team anew, so that having taken one before makes no difference. -/
theorem finish_fault_slot {s : State} {n : Nat} {t : Team} {b : Bool} (h : s.team n = some { t with inSlot := b }) (c : Cause) :
    (Act.fault s noHdr c 0 0 0).finish n false =
      if t.tryR.isSome && c.isAddress then s.abortTry n 4 0 else s.freezeTeam n t ⟨false, false, 15⟩ c 0 := by
  unfold Act.finish
  dsimp only
  rw [h]
  rfl

/-- A fetch by a team whose translation its core's TLB holds. -/
theorem State.fetch_hit {s : State} {core ctx : Nat} {va : Word} {e : TlbEnt} (hcur : s.cur < 138240) (hcan : canonical va = true)
    (htlb : (s.core core).tlb.find? (·.covers ctx (va.toNat / 65536 % 2 ^ 41)) = some e) :
    s.translate core ctx va false true = (s, .ok (e.leaf (va.toNat / 65536 % 2 ^ 41))) := by
  have hno : s.noCore = false := by
    unfold State.noCore
    rw [Bool.and_eq_false_iff]
    left
    exact decide_eq_false (by unfold hwWho; omega)
  unfold State.translate
  rw [hcan, hno]
  simp only [Bool.not_true, Bool.false_eq_true, if_false]
  rw [htlb]

/-- What a stream does with what its fetch finds. -/
def streamAct (n : Nat) : State × Fetched → Res
  | (s, .wait _) => .next s
  | (s, .bad c) => .next (s.haltStream n c 0)
  | (s, .word w) => exec (decodePress w) s

/-- A stream that runs, by what its fetch finds. -/
theorem stepStream_runs {s : State} {n : Nat} {x : Share} {m : Stream} {core : Nat} {g : Grid} (hcur : s.cur = n) (hx : s.share n = some x)
    (hm : x.stream = some m) (hcore : x.core = some core) (hg : s.grid x.grid = some g) (hrun : m.st = .running) (hsave : s.saving x.cl = false) :
    stepStream n s = streamAct n (s.asHardware (pkgOf core) (streamWho n) Fetched.waits fun s => s.fetch core g.ctx m.spc) := by
  subst hcur
  have hctx : (fun y : State => y.fetch core ((y.grid x.grid).elim 0 (·.ctx)) m.spc) { s with cur := streamWho s.cur } =
      (fun y : State => y.fetch core g.ctx m.spc) { s with cur := streamWho s.cur } := by
    have : State.grid { s with cur := streamWho s.cur } x.grid = some g := hg
    dsimp only
    rw [this]
    rfl
  have hhw : (s.asHardware (pkgOf core) (streamWho s.cur) Fetched.waits fun y => y.fetch core ((y.grid x.grid).elim 0 (·.ctx)) m.spc) =
      s.asHardware (pkgOf core) (streamWho s.cur) Fetched.waits fun y => y.fetch core g.ctx m.spc := by
    unfold State.asHardware
    rw [hctx]
  have hs : (s.share s.cur) = some x := hx
  unfold stepStream
  show (match s.share s.cur with | none => _ | some x => _) = _
  rw [hs]
  dsimp only
  rw [hm, hcore]
  dsimp only
  rw [if_neg (by rw [hrun]; simpa using hsave), ← hhw]
  rfl

/-- Nothing is dropped where everything has room. -/
theorem trimmed_roomy {X : State} (h : X.roomy = true) : trimmed (.next X) = .next X := by
  show Host.Outcome.next X.trim = .next X
  rw [State.trim, if_pos h]

/-- Settles O56: the step's agent is the agenda's, and a team's or a stream's step is the case of what its fetch finds. The model's choices stand
as the statement words them (logs 24, 89, 96), and a doomed team is reaped behind its word (log 48). -/
theorem stepRunsDecoded : Obligations.StepRunsDecoded := by
  intro s s0 dt n rest hs0
  have hcur : s0.cur = n := by rw [hs0]
  have hstep (a : Agent) (ha : s.agenda = (dt, a) :: rest) : step s = trimmed (actAgent a { s with now := s.now + dt, agenda := rest }) := by
    unfold step
    rw [ha]
    rfl
  refine ⟨fun ha t ht => ⟨State.issues_iff s0 n t, fun hi => ?_, fun hi => ?_⟩, fun ha x m core g hx hm hcore hg hrun hsave => ?_, fun i ha => ?_,
    fun X => trimmed_roomy⟩
  · have hteam : step s = trimmed (stepTeam n s0) := by rw [hstep _ ha, hs0]; rfl
    rw [hteam, stepTeam_idle hcur ht hi]
  · have hteam : step s = trimmed (stepTeam n s0) := by rw [hstep _ ha, hs0]; rfl
    intro core s1 kind ends
    have hs1 : s0.takeSlot n t = s1 := State.takeSlot_eq s0 n t
    have hends (r : Res) : endsDoomed n t r = ends r := endsDoomed_eq n t r
    have hn : n < 138240 := ((State.issues_iff s0 n t).mp hi).2.2.1
    obtain ⟨b, hslot, hcur1⟩ := State.team_takeSlot ht
    rw [hs1] at hslot hcur1
    have hcur1 : s1.cur < 138240 := by rw [hcur1, hcur]; exact hn
    have go {s2 : State} {x : Fetched} (hf : s1.fetch core t.ctx t.here = (s2, x)) := stepTeam_issues hcur ht hi (hs1 ▸ hf)
    refine ⟨?_, fun e vp hcan hvp htlb hord hperm => ?_, fun hcan => ?_,
      fun s2 w i hf hdec => ?_, fun s2 c hf => ?_, fun s2 ix hf => ?_⟩
    · intro e vp s2 bs i hcan hvp htlb a hord hx hpool hread hdec
      have hf : s1.fetch core t.ctx t.here = (s2, .word (BitVec.ofNat 64 (natOfBytes
          (bs.zipIdx.map fun x => (s2.packageByte (pkgOf core) ((a + x.2) / 32) ((a + x.2) % 32)).getD x.1)))) := by
        unfold State.fetch
        rw [State.fetch_hit hcur1 hcan (hvp ▸ htlb), ← hvp]
        dsimp only
        rw [if_neg hord, hx, hpool]
        rw [if_neg (by decide), hread]
      have hi' := decode_at hdec
      rw [hteam, go hf, ← hends, ← hi']
      rfl
    · unfold State.fetch
      rw [State.fetch_hit hcur1 hcan (hvp ▸ htlb), ← hvp]
      dsimp only
      rw [if_neg hord, if_pos (by simpa using hperm)]
    · have htr : s1.translate core t.ctx t.here false true = (s1, .fail .translation) := by
        unfold State.translate
        rw [hcan]
        rfl
      unfold State.fetch
      rw [htr]
    · have hi' := decode_at hdec
      have hw : BitVec.ofNat 64 (natOfBytes (bytesOf 8 w.toNat)) = w := by
        have hword := word_bytesOf w
        rwa [List.take_of_length_le (length_bytesOf 8 _).le] at hword
      rw [hw] at hi'
      rw [hteam, go hf, ← hends, ← hi']
      rfl
    · have hlook := State.looks_fetch s1 core t.ctx t.here
      rw [hf] at hlook
      have hslot2 := (hlook.team n).trans hslot
      have hstop := finish_fault_slot hslot2 c
      refine ⟨fun hc => ?_, fun htry haddr => ?_⟩
      · rw [hteam, go hf, hends]
        show trimmed (ends (.next ((Act.fault s2 noHdr c 0 0 0).finish n false))) = _
        rw [show _ = _ from hstop, if_neg]
        rcases hc with hc | hc <;> simp [hc]
      · rw [hteam, go hf, hends]
        show trimmed (ends (.next ((Act.fault s2 noHdr c 0 0 0).finish n false))) = _
        rw [show _ = _ from hstop, if_pos (by simp [htry, haddr])]
    · rw [hteam, go hf]
      have hlook := State.looks_fetch s1 core t.ctx t.here
      rw [hf] at hlook
      have hslot2 := (hlook.team n).trans hslot
      -- a doomed team that waits for the hardware inside its word is not reaped
      have hstays : (s2.updTeam n fun u => { u with run := .parked (.walk ix) }).reap n = s2.updTeam n fun u => { u with run := .parked (.walk ix) } := by
        rw [State.updTeam_some hslot2]
        unfold State.reap
        rw [State.team_setTeam, if_neg]
        simp [Cond.stalls]
      unfold teamAct endsDoomed
      split
      · exact congrArg (fun X => trimmed (.next X)) hstays
      · rfl
  · intro fetched
    have hsh : step s = trimmed (streamAct n fetched) := by
      have hstream : step s = trimmed (stepStream n s0) := by rw [hstep _ ha, hs0]; rfl
      rw [hstream, stepStream_runs hcur hx hm hcore hg hrun hsave]
    refine ⟨fun s1 w i hf hdec => ?_, fun s1 c hf => ?_, fun s1 ix hf => ?_⟩
    · obtain ⟨v, hv, -, hpress, -⟩ := of_decode_ok hdec
      have hvw : v = w := by
        have h1 := word_bytesOf v
        rw [← List.append_nil (bytesOf 8 v.toNat), ← hv, word_bytesOf] at h1
        exact h1.symm
      rw [hsh, hf, hpress rfl, hvw]
      rfl
    · rw [hsh, hf]
      rfl
    · rw [hsh, hf]
      rfl
  · rw [hstep _ ha]
    rfl

end Sys2Proof.Machine

/-! PROOFS. The machine right after reset, register block by register block, and words written out from their encodings (R24, R40 to R62, R360). -/

namespace Sys2Proof.Machine

open Host

/-! ## The blocks of BAR0 right after reset -/

theorem reset_pkg (p : Nat) : State.reset.pkg p = {} := rfl
theorem reset_core (c : Nat) : State.reset.core c = {} := rfl

theorem readBoot_reset (off : Nat) : ({} : Pkg).readBoot off = 0 := by
  unfold Pkg.readBoot
  split
  · rfl
  split
  · rfl
  split <;> rfl

theorem readCmd_reset (off : Nat) : ({} : Pkg).readCmd off = 0 := by
  unfold Pkg.readCmd
  split
  · rfl
  split <;> rfl

theorem readSched_reset {off : Nat} (h : off ≠ 0x10) :
    ({} : Pkg).readSched off = if off = 0 then 0x100000 else if off = 8 then 2400000 else 0 := by
  unfold Pkg.readSched
  split
  · rfl
  · rfl
  · exact absurd rfl h
  · rfl
  · rfl
  · rfl
  · next h0 h8 _ _ _ _ => rw [if_neg h0, if_neg h8]

theorem policy_reset (n : Nat) : ({} : Pkg).policy n = 0x00081004 := rfl

theorem readAttr_reset (off : Nat) : ({} : Pkg).readAttr off =
    if off = 0x08 then 0x2F00000000 else if off = 0x10 then 0x100001000 else if off = 0x20 then 0x6400000000
    else if 0x40 ≤ off ∧ off < 0xC0 then 0x00081004 else 0 := by
  unfold Pkg.readAttr
  by_cases h0 : off = 0
  · rw [h0]; rfl
  rw [if_neg h0]
  by_cases h8 : off = 8
  · rw [if_pos h8, if_pos h8]
  rw [if_neg h8, if_neg h8]
  by_cases h10 : off = 0x10
  · rw [if_pos h10, if_pos h10]
  rw [if_neg h10, if_neg h10]
  by_cases h18 : off = 0x18
  · rw [h18]; rfl
  rw [if_neg h18]
  by_cases h20 : off = 0x20
  · rw [if_pos h20, if_pos h20]
  rw [if_neg h20, if_neg h20]
  by_cases hpol : 0x40 ≤ off ∧ off < 0xC0
  · rw [if_pos (by simpa using hpol), if_pos hpol]
    rfl
  rw [if_neg (by simpa using hpol), if_neg hpol]
  split
  · rfl
  split
  · rfl
  split
  · show HistEnt.word _ _ = 0
    unfold HistEnt.word
    split <;> rfl
  · rfl

theorem readFault_reset (off : Nat) : ({} : Pkg).readFault off = 0 := by
  unfold Pkg.readFault
  split
  · rfl
  split
  · rfl
  split
  · rfl
  split
  · rfl
  split
  · rfl
  split
  · show LogEnt.word {} _ = 0
    unfold LogEnt.word
    split <;> rfl
  · rfl

theorem readFabric_reset {p off : Nat} (h : off ≠ 0x10) :
    ({} : Pkg).readFabric p off = if off = 8 then BitVec.ofNat 64 (2000 * 2 ^ 32 + 4 * 2 ^ 24 + 64 * 2 ^ 16 + 10) else 0 := by
  unfold Pkg.readFabric
  split
  · rfl
  · rfl
  · exact absurd rfl h
  · rfl
  · rfl
  · rfl
  · rfl
  · rfl
  · rfl
  · rfl
  · rfl
  · rfl
  · next h8 _ _ _ _ _ _ _ _ _ _ => rw [if_neg h8]

theorem queueRead_reset (off : Nat) : ({} : Queue).read off = if off = 0x30 then 4 else 0 := by
  unfold Queue.read
  split
  · rfl
  · rfl
  · rfl
  · rfl
  · rfl
  · rfl
  · rfl
  · rfl
  · next h30 _ => rw [if_neg h30]

theorem msixPend_reset (n : Nat) :
    w64 ((List.range 64).foldl (fun a i => if getD false ({} : Pkg).msixPend (8 * n + i) then a + 2 ^ i else a) 0) = 0 := by
  have (l : List Nat) : l.foldl (fun a i => if getD false ({} : Pkg).msixPend (8 * n + i) then a + 2 ^ i else a) 0 = 0 := by
    induction l with
    | nil => rfl
    | cons i l ih => exact ih
  rw [this]
  rfl

/-- What the statement names as the value of each register right after reset. -/
def resetValue (off : Nat) : Word :=
  if off = 0x2000 then 0x100000 else if off = 0x2008 then 2400000 else if off = 0x10008 then 0x2F00000000 else if off = 0x10010 then 0x100001000
  else if off = 0x10020 then 0x6400000000 else if off % 8 = 0 ∧ 0x10040 ≤ off ∧ off < 0x100C0 then 0x00081004
  else if off = 0x21008 then BitVec.ofNat 64 (2000 * 2 ^ 32 + 4 * 2 ^ 24 + 64 * 2 ^ 16 + 10)
  else if off % 4096 = 0 ∧ 0x40000 ≤ off ∧ off < 0x70000 then 0xFFFF00000400
  else if off % 64 = 0x30 ∧ 0x100000 ≤ off ∧ off < 0x180000 then 4 else 0

theorem resetValue_other {off : Nat} (h1 : off ≠ 0x2000) (h2 : off ≠ 0x2008) (h3 : off ≠ 0x10008) (h4 : off ≠ 0x10010) (h5 : off ≠ 0x10020)
    (h6 : ¬(off % 8 = 0 ∧ 0x10040 ≤ off ∧ off < 0x100C0)) (h7 : off ≠ 0x21008) (h8 : ¬(off % 4096 = 0 ∧ 0x40000 ≤ off ∧ off < 0x70000))
    (h9 : ¬(off % 64 = 0x30 ∧ 0x100000 ≤ off ∧ off < 0x180000)) : resetValue off = 0 := by
  rw [resetValue, if_neg h1, if_neg h2, if_neg h3, if_neg h4, if_neg h5, if_neg h6, if_neg h7, if_neg h8, if_neg h9]

theorem resetValue_sched {off : Nat} (h : 0x2000 ≤ off) (h' : off < 0x3000) :
    resetValue off = if off - 0x2000 = 0 then 0x100000 else if off - 0x2000 = 8 then 2400000 else 0 := by
  by_cases h0 : off = 0x2000
  · rw [h0]; rfl
  by_cases h8 : off = 0x2008
  · rw [h8]; rfl
  rw [if_neg (by omega), if_neg (by omega)]
  exact resetValue_other h0 h8 (by omega) (by omega) (by omega) (by omega) (by omega) (by omega) (by omega)

theorem resetValue_attr {off : Nat} (hm : off % 8 = 0) (h : 0x10000 ≤ off) (h' : off < 0x20000) : resetValue off =
    if off - 0x10000 = 0x08 then 0x2F00000000 else if off - 0x10000 = 0x10 then 0x100001000 else if off - 0x10000 = 0x20 then 0x6400000000
    else if 0x40 ≤ off - 0x10000 ∧ off - 0x10000 < 0xC0 then 0x00081004 else 0 := by
  by_cases h8 : off = 0x10008
  · rw [h8]; rfl
  by_cases h10 : off = 0x10010
  · rw [h10]; rfl
  by_cases h20 : off = 0x10020
  · rw [h20]; rfl
  rw [if_neg (by omega), if_neg (by omega), if_neg (by omega)]
  by_cases hpol : 0x10040 ≤ off ∧ off < 0x100C0
  · rw [resetValue, if_neg (by omega), if_neg (by omega), if_neg h8, if_neg h10, if_neg h20, if_pos ⟨hm, hpol⟩, if_pos (by omega)]
  · rw [if_neg (by omega)]
    exact resetValue_other (by omega) (by omega) h8 h10 h20 (by omega) (by omega) (by omega) (by omega)

theorem resetValue_fabric {off : Nat} (h : 0x21000 ≤ off) (h' : off < 0x22000) :
    resetValue off = if off - 0x21000 = 8 then BitVec.ofNat 64 (2000 * 2 ^ 32 + 4 * 2 ^ 24 + 64 * 2 ^ 16 + 10) else 0 := by
  by_cases h8 : off = 0x21008
  · rw [h8]; rfl
  rw [if_neg (by omega)]
  exact resetValue_other (by omega) (by omega) (by omega) (by omega) (by omega) (by omega) h8 (by omega) (by omega)

theorem resetValue_press {off : Nat} (h : 0x40000 ≤ off) (h' : off < 0x70000) :
    resetValue off = if off % 4096 = 0 then 0xFFFF00000400 else 0 := by
  by_cases hm : off % 4096 = 0
  · rw [if_pos hm, resetValue, if_neg (by omega), if_neg (by omega), if_neg (by omega), if_neg (by omega), if_neg (by omega), if_neg (by omega),
      if_neg (by omega), if_pos ⟨hm, h, h'⟩]
  · rw [if_neg hm]
    exact resetValue_other (by omega) (by omega) (by omega) (by omega) (by omega) (by omega) (by omega) (by omega) (by omega)

theorem resetValue_queues {off : Nat} (h : 0x100000 ≤ off) (h' : off < 0x180000) :
    resetValue off = if off % 64 = 0x30 then 4 else 0 := by
  by_cases hm : off % 64 = 0x30
  · rw [if_pos hm, resetValue, if_neg (by omega), if_neg (by omega), if_neg (by omega), if_neg (by omega), if_neg (by omega), if_neg (by omega),
      if_neg (by omega), if_neg (by omega), if_pos ⟨hm, h, h'⟩]
  · rw [if_neg hm]
    exact resetValue_other (by omega) (by omega) (by omega) (by omega) (by omega) (by omega) (by omega) (by omega) (by omega)

/-- What every register but WAVAIL, PODINFO and the MSI-X table reads right after reset, block by block. -/
theorem regRead_reset {p off : Nat} (h1 : off ≠ 0x2010) (h2 : off ≠ 0x21010) (h3 : ¬(0x200000 ≤ off ∧ off < 0x208000)) :
    State.reset.regRead p off = resetValue off := by
  unfold State.regRead
  rw [reset_pkg]
  dsimp only
  have other (h : off < 0x2000 ∨ 0x3000 ≤ off ∧ off < 0x10000 ∨ 0x20000 ≤ off ∧ off < 0x21000 ∨ 0x22000 ≤ off ∧ off < 0x40000 ∨
      0x70000 ≤ off ∧ off < 0x100000 ∨ 0x180000 ≤ off) : 0 = resetValue off :=
    (resetValue_other (by omega) (by omega) (by omega) (by omega) (by omega) (by omega) (by omega) (by omega) (by omega)).symm
  by_cases c0 : off % 8 ≠ 0
  · rw [if_pos c0]
    exact (resetValue_other (by omega) (by omega) (by omega) (by omega) (by omega) (by omega) (by omega) (by omega) (by omega)).symm
  rw [if_neg c0]
  by_cases c1 : off < 0x1000
  · rw [if_pos c1, readBoot_reset, other (by omega)]
  rw [if_neg c1]
  by_cases c2 : off < 0x2000
  · rw [if_pos c2, readCmd_reset, other (by omega)]
  rw [if_neg c2]
  by_cases c3 : off < 0x3000
  · rw [if_pos c3, readSched_reset (by omega), resetValue_sched (by omega) (by omega)]
  rw [if_neg c3]
  by_cases c4 : off < 0x10000
  · rw [if_pos c4]
    exact other (by omega)
  rw [if_neg c4]
  by_cases c5 : off < 0x20000
  · rw [if_pos c5, readAttr_reset, resetValue_attr (by omega) (by omega) (by omega)]
  rw [if_neg c5]
  by_cases c6 : off < 0x21000
  · rw [if_pos c6, readFault_reset, other (by omega)]
  rw [if_neg c6]
  by_cases c7 : off < 0x22000
  · rw [if_pos c7, readFabric_reset (by omega), resetValue_fabric (by omega) (by omega)]
  rw [if_neg c7]
  by_cases c8 : off < 0x40000
  · rw [if_pos c8]
    exact other (by omega)
  rw [if_neg c8]
  by_cases c9 : off < 0x70000
  · rw [if_pos c9, reset_core, resetValue_press (by omega) (by omega)]
    rfl
  rw [if_neg c9]
  by_cases c10 : off < 0x100000
  · rw [if_pos c10]
    exact other (by omega)
  rw [if_neg c10]
  by_cases c11 : off < 0x180000
  · rw [if_pos c11, show ({} : Pkg).queueOf ((off - 0x100000) / 64) = {} from rfl, queueRead_reset, resetValue_queues (by omega) (by omega)]
  rw [if_neg c11]
  have hhigh : 0 = resetValue off := other (by omega)
  by_cases c12 : off < 0x190000
  · rw [if_pos c12]
    exact hhigh
  rw [if_neg c12]
  by_cases c13 : off < 0x200000
  · rw [if_pos c13]
    exact hhigh
  rw [if_neg c13]
  by_cases c14 : off < 0x208000
  · rw [if_pos c14]
    exact absurd ⟨by omega, by omega⟩ h3
  rw [if_neg c14]
  by_cases c15 : off < 0x208100
  · rw [if_pos c15, msixPend_reset, hhigh]
  rw [if_neg c15]
  exact hhigh

/-- The records of the machine right after reset: there are none. -/
theorem find_reset (n : Nat) : State.reset.team n = none ∧ State.reset.share n = none ∧ State.reset.grid n = none ∧ State.reset.xfer n = none ∧
    State.reset.request n = none ∧ State.reset.packet n = none ∧ State.reset.change n = none := ⟨rfl, rfl, rfl, rfl, rfl, rfl, rfl⟩

/-- Settles O54: the registers block by block, and the known words by evaluation of the decoder. The values the tables leave open are the model's
choices (logs 1, 4, 5, 6, 8, 9, 68, 91, 102, 103). -/
theorem resetAndKnownWords : Obligations.ResetAndKnownWords :=
  ⟨⟨fun _ _ h1 h2 h3 => regRead_reset h1 h2 h3, fun _ => ⟨rfl, rfl, rfl, rfl, rfl, rfl⟩, fun _ => ⟨rfl, rfl, rfl, rfl⟩, find_reset, rfl, rfl,
    memWf_reset⟩, by decide +kernel⟩

end Sys2Proof.Machine

/-! PROOFS. What releases, acquires and other moves of bytes between caches and memory change: caches, memory and the package's requests,
  and nothing else (R216 to R233). -/

namespace Sys2Proof.Machine

open Host

/-! ## What moves of bytes between caches and memory may change -/

/-- A package whose L3, frames' bytes, posted requests and what granule reads change are those of x. -/
def Pkg.flowedAs (k x : Pkg) : Pkg :=
  { k with
    poison := x.poison, symErr := x.symErr, errTotal := x.errTotal, errNext := x.errNext, history := x.history, counters := x.counters
    astat := x.astat, msixPend := x.msixPend, irqs := x.irqs, mru := x.mru, l3 := x.l3, coh := x.coh, hbm := x.hbm, posted := x.posted
    postSeq := x.postSeq }

/-- What moves of bytes may leave of a package. -/
def Pkg.Flows (k k' : Pkg) : Prop := k' = k.flowedAs k'

theorem Pkg.Flows.refl (k : Pkg) : k.Flows k := rfl

theorem Pkg.Flows.trans {a b c : Pkg} (hb : a.Flows b) (hc : b.Flows c) : a.Flows c := by
  unfold Pkg.Flows at hb hc ⊢
  rw [hb] at hc
  exact hc

theorem Pkg.Reads.flows {k k' : Pkg} (h : k.Reads k') : k.Flows k' := by
  have hread (x : Pkg) : k.Flows (k.readAs x) := rfl
  unfold Pkg.Reads at h
  rw [h]
  exact hread k'

/-- What moves of bytes between caches and memory may leave of the pod: caches, memory, and requests of packages. -/
def State.Flows (s s' : State) : Prop :=
  s' = { s with pkgs := s'.pkgs, cores := s'.cores, dies := s'.dies, requests := s'.requests, hostMem := s'.hostMem, fresh := s'.fresh } ∧
    (∀ q, (s.pkg q).Flows (s'.pkg q)) ∧ ∀ c, s'.core c = { s.core c with l1 := (s'.core c).l1 }

theorem State.Flows.refl (s : State) : s.Flows s := ⟨rfl, fun _ => rfl, fun _ => rfl⟩

theorem State.Flows.trans {a b c : State} (hb : a.Flows b) (hc : b.Flows c) : a.Flows c := by
  obtain ⟨b1, b2, b3⟩ := hb
  obtain ⟨c1, c2, c3⟩ := hc
  refine ⟨?_, fun q => (b2 q).trans (c2 q), fun x => ?_⟩
  · rw [b1] at c1
    exact c1
  · have hx := c3 x
    rw [b3 x] at hx
    exact hx

theorem State.Reads.flows {s s' : State} (h : s.Reads s') : s.Flows s' := by
  obtain ⟨h1, h2⟩ := h
  refine ⟨by rw [h1], fun q => (h2 q).flows, fun c => ?_⟩
  have hc : s'.core c = s.core c := by rw [h1]; rfl
  rw [hc]

theorem State.Flows.updPkg (s : State) (q : Nat) {f : Pkg → Pkg} (h : (s.pkg q).Flows (f (s.pkg q))) : s.Flows (s.updPkg q f) := by
  refine ⟨rfl, fun x => ?_, fun _ => rfl⟩
  by_cases hx : x = q
  · rw [hx, State.pkg_updPkg]
    exact h
  · rw [State.pkg_updPkg_other _ _ hx]
    exact .refl _

/-- A state in which requests, host memory, the second-level caches and the fresh number alone differ. -/
theorem State.Flows.of_eq {s s' : State}
    (h : s' = { s with dies := s'.dies, requests := s'.requests, hostMem := s'.hostMem, fresh := s'.fresh }) : s.Flows s' := by
  have hp : s'.pkgs = s.pkgs := by rw [h]
  have hc : s'.cores = s.cores := by rw [h]
  refine ⟨?_, fun q => ?_, fun c => ?_⟩
  · rw [hp, hc]
    exact h
  · have : s'.pkg q = s.pkg q := by unfold State.pkg; rw [hp]
    rw [this]
    exact .refl _
  · have : s'.core c = s.core c := by unfold State.core; rw [hc]
    rw [this]

/-- A run of moves is a move. -/
theorem State.Flows.foldl {α : Type} (l : List α) (f : State → α → State) (hf : ∀ (s : State) (x : α), s.Flows (f s x)) (s : State) :
    s.Flows (l.foldl f s) := by
  induction l generalizing s with
  | nil => exact .refl s
  | cons x l ih => exact (hf s x).trans (ih _)

section
variable {s s' : State} (h : s.Flows s')
include h

theorem State.Flows.pkg (q : Nat) : (s.pkg q).Flows (s'.pkg q) := h.2.1 q
theorem State.Flows.core (c : Nat) : s'.core c = { s.core c with l1 := (s'.core c).l1 } := h.2.2 c
theorem State.Flows.now : s'.now = s.now := by rw [h.1]
theorem State.Flows.teams : s'.teams = s.teams := by rw [h.1]
theorem State.Flows.shares : s'.shares = s.shares := by rw [h.1]
theorem State.Flows.clusters : s'.clusters = s.clusters := by rw [h.1]
theorem State.Flows.grids : s'.grids = s.grids := by rw [h.1]
theorem State.Flows.xfers : s'.xfers = s.xfers := by rw [h.1]
theorem State.Flows.packets : s'.packets = s.packets := by rw [h.1]
theorem State.Flows.changes : s'.changes = s.changes := by rw [h.1]
theorem State.Flows.reports : s'.reports = s.reports := by rw [h.1]
theorem State.Flows.cur : s'.cur = s.cur := by rw [h.1]
theorem State.Flows.agenda : s'.agenda = s.agenda := by rw [h.1]
theorem State.Flows.team (tk : Nat) : s'.team tk = s.team tk := by unfold State.team; rw [h.teams]
theorem State.Flows.share (sh : Nat) : s'.share sh = s.share sh := by unfold State.share; rw [h.shares]
theorem State.Flows.cluster (cl : Nat) : s'.cluster cl = s.cluster cl := by unfold State.cluster; rw [h.clusters]
theorem State.Flows.grid (g : Nat) : s'.grid g = s.grid g := by unfold State.grid; rw [h.grids]
theorem State.Flows.xfer (x : Nat) : s'.xfer x = s.xfer x := by unfold State.xfer; rw [h.xfers]
theorem State.Flows.bell (sh b : Nat) : s'.bell sh b = s.bell sh b := by unfold State.bell; rw [h.share]
theorem State.Flows.barWord (sh off : Nat) : s'.barWord sh off = s.barWord sh off := by
  unfold State.barWord State.spNat State.spByte
  rw [h.share]
theorem State.Flows.locks (c : Nat) : (s'.core c).locks = (s.core c).locks := by rw [h.core c]
theorem State.Flows.waiting (c : Nat) : (s'.core c).waiting = (s.core c).waiting := by rw [h.core c]

end

/-! ## Caches -/

theorem State.flows_setCache (s : State) (lvl : Level) (x : Cache) : s.Flows (s.setCache lvl x) := by
  cases lvl with
  | l1 c =>
    refine ⟨rfl, fun _ => rfl, fun y => ?_⟩
    by_cases hy : y = c
    · rw [hy]
      exact (State.core_updCore s c fun k => { k with l1 := x }) ▸ rfl
    · have : (s.setCache (.l1 c) x).core y = s.core y := State.core_updCore_other s _ hy
      rw [this]
  | l2 d => exact .of_eq rfl
  | l3 p =>
    show s.Flows (s.updPkg p fun k => { k with l3 := x })
    exact State.Flows.updPkg s p rfl

theorem State.flows_mapRequests (s : State) (f : Request → Request) : s.Flows (s.mapRequests f) := .of_eq rfl

theorem State.flows_mergeDirty (s : State) (lvl : Level) (key : Nat) (bs : List Byte) (mask : BitVec 32) (u : Bool) :
    s.Flows (s.mergeDirty lvl key bs mask u) := by
  unfold State.mergeDirty State.noteFill
  exact (State.flows_setCache s lvl _).trans (State.flows_mapRequests _ _)

theorem State.flows_dropLine (s : State) (lvl : Level) (key : Nat) : s.Flows (s.dropLine lvl key) := by
  unfold State.dropLine State.noteFill
  exact (State.flows_setCache s lvl _).trans (State.flows_mapRequests _ _)

theorem State.flows_fillLevel (s : State) (lvl : Level) (key : Nat) (bs : List Byte) (mask : BitVec 32) (u : Bool) :
    s.Flows (s.fillLevel lvl key bs mask u) := by
  unfold State.fillLevel State.noteFill
  exact (State.flows_setCache s lvl _).trans (State.flows_mapRequests _ _)

/-! ## Memory -/

theorem Pkg.flows_foldl_setByte (l : List Nat) (f : Pkg → Nat → Pkg) (hf : ∀ k i, Pkg.Flows k (f k i)) (k : Pkg) : k.Flows (l.foldl f k) := by
  induction l generalizing k with
  | nil => exact .refl k
  | cons x l ih => exact (hf k x).trans (ih _)

theorem State.flows_writeGranule (s : State) (p frame sector : Nat) (bs : List Byte) (mask : BitVec 32) :
    s.Flows (s.writeGranule p frame sector bs mask).1 := by
  have hist (x : State) (kind symbol : Nat) : x.Flows (x.addHist p frame sector kind symbol) := (State.reads_addHist x p _ _ _ _).flows
  unfold State.writeGranule
  dsimp only
  split
  · dsimp only
    refine State.Flows.updPkg s p ?_
    exact rfl
  split
  · exact hist s 4 63
  have hread := (State.reads_readGranule s p frame sector).flows
  split
  · exact hread.trans (hist _ 4 63)
  · dsimp only
    refine hread.trans (.updPkg _ p (Pkg.flows_foldl_setByte _ _ (fun k i => ?_) _))
    split <;> exact rfl

theorem State.flows_postWrite (s : State) (core key : Nat) (bs : List Byte) (mask : BitVec 32) (w : Issuer) :
    s.Flows (s.postWrite core key bs mask w) := by
  have hadd : s.Flows (s.addRequest core key mask (.write bs w.strong) w []) := .of_eq rfl
  unfold State.postWrite State.post
  refine hadd.trans (State.Flows.updPkg _ _ ?_)
  exact rfl

theorem State.flows_setHostBytes (s : State) (a : Nat) (bs : List Byte) : s.Flows (s.setHostBytes a bs) := .of_eq rfl

theorem State.flows_memWrite (s : State) (core key : Nat) (bs : List Byte) (mask : BitVec 32) (w : Issuer) :
    s.Flows (s.memWrite core key bs mask w) := by
  unfold State.memWrite
  dsimp only
  split
  · split
    · exact .refl s
    · refine .foldl _ _ (fun x i => ?_) s
      split
      · exact State.flows_setHostBytes x _ _
      · exact .refl x
  · split
    · next f _ =>
      split
      · refine State.Flows.trans ?_ (State.Flows.updPkg _ _ (f := fun k => k.touch f) rfl)
        split
        · refine State.Flows.updPkg s _ ?_
          exact rfl
        · exact State.flows_writeGranule s _ _ _ _ _
      · exact State.flows_postWrite s _ _ _ _ _
    · exact State.flows_postWrite s _ _ _ _ _

/-! ## Releases and acquires -/

theorem State.flows_writeBackOne (s : State) (lvl : Level) (key : Nat) : s.Flows (s.writeBackOne lvl key) := by
  unfold State.writeBackOne
  split
  · exact .refl s
  · split
    · exact .refl s
    · dsimp only
      split
      · exact (State.flows_setCache s lvl _).trans (State.flows_mergeDirty _ _ _ _ _ _)
      · exact (State.flows_setCache s lvl _).trans (State.flows_memWrite _ _ _ _ _ _)

theorem State.flows_writeBackAll (s : State) (lvl : Level) (p : Sector → Bool) : s.Flows (s.writeBackAll lvl p) := by
  unfold State.writeBackAll
  exact .foldl _ _ (fun x (e : Nat × Sector) => State.flows_writeBackOne x lvl e.1) s

/-- A release moves dirty bytes outwards and changes nothing else. -/
theorem State.flows_release (s : State) (core scope : Nat) : s.Flows (s.release core scope) := by
  unfold State.release
  exact .foldl _ _ (fun x l => State.flows_writeBackAll x l _) s

theorem State.flows_flashClear (s : State) (lvl : Level) (ix : Nat) (g : BitVec 4) : s.Flows (s.flashClear lvl ix g) := by
  unfold State.flashClear
  exact .foldl _ _ (fun x k => (State.flows_writeBackOne x lvl k).trans (State.flows_dropLine _ lvl k)) s

theorem State.flows_advance (s : State) (lvl : Level) (ix : Nat) : s.Flows (s.advance lvl ix) := by
  unfold State.advance
  dsimp only
  refine State.Flows.trans ?_ (State.flows_setCache _ _ _)
  refine State.Flows.trans ?_ (State.Flows.updPkg _ _ (f := fun k => { k with coh := k.coh + 1 }) rfl)
  exact (State.flows_flashClear s lvl ix _).trans (State.flows_mapRequests _ _)

/-- An acquire advances generations and changes nothing beyond caches and memory. -/
theorem State.flows_acquire (s : State) (core scope : Nat) : s.Flows (s.acquire core scope) := by
  unfold State.acquire
  refine .foldl _ _ (fun x l => ?_) s
  split
  · exact State.flows_advance x l _
  · exact .refl x

theorem State.flows_acquireIf (s : State) (core scope : Nat) (b : Bool) : s.Flows (s.acquireIf core scope b) := by
  unfold State.acquireIf
  split
  · exact State.flows_acquire s core scope
  · exact .refl s

theorem State.flows_purge (s : State) (key : Nat) (ls : List Level) : s.Flows (s.purge key ls) := by
  unfold State.purge
  exact .foldl _ _ (fun x l => (State.flows_writeBackOne x l key).trans (State.flows_dropLine _ l key)) s

end Sys2Proof.Machine

/-! PROOFS. The checks before a word issues, in the order of Tables 02-2 and 02-4 (R42, R43, R47, R170, R288). -/

namespace Sys2Proof.Machine

open Host

/-- A word of a team issues: its checks, then its own body (R47). -/
theorem exec_issue {i : Instr} {h : Hdr} (s : State) (hk : wordKind i = some .team) (hh : wordHdr i = some h) :
    ∃ body, exec i s = issue i h body s := by
  cases i
  any_goals (cases hk; done)
  all_goals
    have hhdr := Option.some.inj hh
    rw [ofWord_teamWord] at hhdr
    subst hhdr
    delta exec
    dsimp only
    exact ⟨_, rfl⟩

/-- The special register that a word names, and whether it writes it. -/
def specialOf : Instr → Option (Nat × Bool)
  | .rdsr _ f => some (f.imm.toNat, false)
  | .wrsr _ f => some (f.imm.toNat, true)
  | _ => none

/-- The checks of a special-register selector, and of the role. -/
def selectorCheck (t : Team) (i : Instr) : Option (Cause × Nat) :=
  match i with
  | .rdsr _ f => if !selKnown t.version f.imm.toNat then some (.illegal, 0x0C)
                 else if roleRow t.role (rowOf i) then none else some (.role, 0)
  | .wrsr _ f => if !selKnown t.version f.imm.toNat then some (.illegal, 0x0C)
                 else if f.imm != 0x10 && f.imm != 0x13 then some (.illegal, 0x16)
                 else if roleRow t.role (rowOf i) then none else some (.role, 0)
  | _ => if roleRow t.role (rowOf i) then none else some (.role, 0)

theorem selectorCheck_eq (t : Team) (i : Instr) : selectorCheck t i =
    if (specialOf i).any (fun x => !selKnown t.version x.1) then some (.illegal, 0x0C)
    else if (specialOf i).any (fun x => x.2 && x.1 != 0x10 && x.1 != 0x13) then some (.illegal, 0x16)
    else if roleRow t.role (rowOf i) = false then some (.role, 0) else none := by
  have hrole (r : Nat) : (if roleRow t.role r then none else some (Cause.role, 0)) =
      if roleRow t.role r = false then some (Cause.role, 0) else none := by cases roleRow t.role r <;> rfl
  unfold selectorCheck
  split
  · rw [hrole]
    simp [specialOf]
  · next h f =>
    have hne (n : BitVec 16) : (f.imm != n) = (f.imm.toNat != n.toNat) := by
      rw [Bool.eq_iff_iff, bne_iff_ne, bne_iff_ne, Ne, BitVec.toNat_inj.symm]
    rw [hrole, hne, hne]
    simp [specialOf]
  · next hrd hwr =>
    have : specialOf i = none := by
      unfold specialOf
      split
      · exact absurd rfl (hrd _ _)
      · exact absurd rfl (hwr _ _)
      · rfl
    rw [this, hrole]
    rfl

theorem State.precheck_other (s : State) (tk : Nat) (t : Team) (i : Instr) (h : Hdr) (hi : ∀ h op rest, i ≠ .opcodeIllegal h op rest) :
    s.precheck tk t i h =
      if (rowOf i == 0x15 && t.version < 2) || (rowOf i == 0x16 && t.version < 3) then some (.illegal, 0x05)
      else if rowOf i != 0x0B && rowClass (rowOf i) != t.hdr.cls.toNat then some (.illegal, 0x06)
      else if rowOf i == 0x0B && !(t.word.getD 0 == t.hdr.n.toNat) then some (.illegal, 0x07)
      else if h.z && !(t.word.getD 0 == t.hdr.n.toNat) then some (.illegal, 0x08)
      else if !i.fieldOk || !s.fieldDyn tk t i then some (.illegal, 0x09)
      else if !i.pairOk then some (.illegal, 0x0A)
      else if (vregs i).any fun q => q.2 != 0 && t.allot < q.1 + q.2 then some (.illegal, 0x0B)
      else selectorCheck t i := by
  unfold State.precheck
  split
  · exact absurd rfl (hi _ _ _)
  · rfl

/-- The checks of a word that is no refused opcode, in the order of Table 02-4 (R47). -/
theorem State.precheck_eq (s : State) (tk : Nat) (t : Team) (i : Instr) (h : Hdr) (hi : ∀ h op rest, i ≠ .opcodeIllegal h op rest) :
    let r := rowOf i
    let last := t.word.getD 0 = t.hdr.n.toNat
    let illegal (n : Nat) : Option (Cause × Nat) := some (.illegal, n)
    s.precheck tk t i h =
      if (r = 0x15 ∧ t.version < 2) ∨ (r = 0x16 ∧ t.version < 3) then illegal 0x05
      else if r ≠ 0x0B ∧ rowClass r ≠ t.hdr.cls.toNat then illegal 0x06
      else if r = 0x0B ∧ ¬last then illegal 0x07
      else if h.z = true ∧ ¬last then illegal 0x08
      else if ¬(i.fieldOk = true ∧ s.fieldDyn tk t i = true) then illegal 0x09
      else if i.pairOk = false then illegal 0x0A
      else if (∃ q ∈ vregs i, q.2 ≠ 0 ∧ t.allot < q.1 + q.2) then illegal 0x0B
      else if (specialOf i).any (fun x => !selKnown t.version x.1) then illegal 0x0C
      else if (specialOf i).any (fun x => x.2 && x.1 != 0x10 && x.1 != 0x13) then illegal 0x16
      else if roleRow t.role r = false then some (.role, 0)
      else none := by
  intro r last illegal
  rw [State.precheck_other s tk t i h hi, selectorCheck_eq]
  have hregs : ((vregs i).any fun q => q.2 != 0 && t.allot < q.1 + q.2) = true ↔ ∃ q ∈ vregs i, q.2 ≠ 0 ∧ t.allot < q.1 + q.2 := by
    simp [List.any_eq_true]
  have hok : (!i.fieldOk || !s.fieldDyn tk t i) = true ↔ ¬(i.fieldOk = true ∧ s.fieldDyn tk t i = true) := by
    cases i.fieldOk <;> cases s.fieldDyn tk t i <;> decide
  simp only [hregs, hok, Bool.or_eq_true, Bool.and_eq_true, beq_iff_eq, decide_eq_true_eq, bne_iff_ne, Bool.not_eq_true', beq_eq_false_iff_ne]
  rfl

/-- Where the checks of Table 02-4 stop a word. -/
theorem exec_of_precheck {s : State} {t : Team} {i : Instr} {h : Hdr} (ht : s.team s.cur = some t) (hk : wordKind i = some .team)
    (hh : wordHdr i = some h) {c : Cause} {sub : Nat} (hpre : s.precheck s.cur t i h = some (c, sub)) : Freezes (exec i s) s t h c sub := by
  obtain ⟨body, hbody⟩ := exec_issue s hk hh
  rw [Freezes, hbody, issue]
  simp only [ht, hpre]

/-- Where the full waiting list holds a word back (R288). -/
theorem exec_of_listBlocks {s : State} {t : Team} {i : Instr} {h : Hdr} (ht : s.team s.cur = some t) (hk : wordKind i = some .team)
    (hh : wordHdr i = some h) (hpre : s.precheck s.cur t i h = none) (hlist : s.listBlocks s.cur t i = true) (hstep : t.stepping = none) :
    Parks (exec i s) s s.cur t .listRoom := by
  obtain ⟨body, hbody⟩ := exec_issue s hk hh
  rw [hbody, issue]
  simp only [ht, hpre, hlist, if_true]
  simp only [Parks, Act.finish, ht, hstep, Option.isSome_none, Bool.false_and, Bool.false_eq_true, if_false]

/-- Where an open region forbids a word (R170). -/
theorem exec_of_tryEvent {s : State} {t : Team} {i : Instr} {h : Hdr} (ht : s.team s.cur = some t) (hk : wordKind i = some .team)
    (hh : wordHdr i = some h) (hpre : s.precheck s.cur t i h = none) (hlist : s.listBlocks s.cur t i = false) (htry : t.tryR.isSome = true)
    (hacts : t.doesAct i h = true) {code : Nat} (hev : tryEvent i = some code) : exec i s = .next (s.abortTry s.cur code 0) := by
  obtain ⟨body, hbody⟩ := exec_issue s hk hh
  rw [hbody, issue]
  simp only [ht, hpre, hlist, htry, hacts, hev, Bool.false_eq_true, if_false, Bool.and_self]

theorem State.listBlocks_iff (s : State) (tk : Nat) (t : Team) (i : Instr) : s.listBlocks tk t i = true ↔
    t.isReeve = false ∧ t.latch = none ∧ (0x0C ≤ rowOf i ∧ rowOf i ≤ 0x12 ∨ rowOf i = 0x16) ∧ 64 ≤ (s.core (coreOf tk)).waiting.length := by
  unfold State.listBlocks
  simp only [Bool.and_eq_true, Bool.or_eq_true, Bool.not_eq_true', Option.isNone_iff_eq_none, decide_eq_true_eq, beq_iff_eq, and_assoc]

/-! ## Clause headers -/

/-- The first check of Table 02-2 that a header fails, of the word alone. -/
theorem HF.subcode_eq (f : HF) : f.subcode =
    if f.sig ≠ 0x6B then some 0x01 else if f.res ≠ 0 ∨ f.wb = false ∧ f.wbatch ≠ 0 then some 0x02
    else if f.cls.getLsbD 3 = true then some 0x03 else none := by
  unfold HF.subcode
  simp only [bne_iff_ne, Bool.or_eq_true, Bool.and_eq_true, Bool.not_eq_true']

/-- A header waits until its batch is complete and each of its bells has rung (R43). -/
theorem State.headerReady_iff (s : State) (t : Team) (f : HF) : s.headerReady t f = true ↔
    (f.wb = true → t.batchOk (t.batchMeant f.wbatch) = true) ∧ ∀ b < 16, f.wbell.getLsbD b = true → (s.bell t.share b).phase ≠ t.seen.getLsbD b := by
  unfold State.headerReady hfBells State.bellReady
  simp only [Bool.and_eq_true, Bool.or_eq_true, Bool.not_eq_true', List.all_eq_true, List.mem_filter, List.mem_range, bne_iff_ne, and_imp]
  cases f.wb <;> simp

/-- SEEN after the bells of a list have been noted. -/
theorem bellSeen_getLsbD (s : State) (t : Team) (bs : List Nat) (hbs : ∀ b ∈ bs, b < 16) (n : Nat) (hn : n < 16) :
    (s.bellSeen t bs).seen.getLsbD n = if n ∈ bs then (s.bell t.share n).phase else t.seen.getLsbD n := by
  unfold State.bellSeen
  dsimp only
  generalize t.seen = x
  induction bs generalizing x with
  | nil => simp
  | cons b bs ih =>
    have hb : b < 16 := hbs b List.mem_cons_self
    rw [List.foldl_cons, ih (fun c hc => hbs c (List.mem_cons_of_mem _ hc))]
    by_cases hmem : n ∈ bs
    · rw [if_pos hmem, if_pos (List.mem_cons_of_mem _ hmem)]
    · rw [if_neg hmem]
      have hbit : (BitVec.ofNat 16 (2 ^ b)).getLsbD n = decide (b = n) := by
        rw [BitVec.getLsbD_ofNat, Nat.testBit_two_pow]
        simp [hn]
      have hset (c : Bool) : (if c = true then x ||| BitVec.ofNat 16 (2 ^ b) else x &&& ~~~BitVec.ofNat 16 (2 ^ b)).getLsbD n =
          if n = b then c else x.getLsbD n := by
        cases c
        · simp only [Bool.false_eq_true, if_false, BitVec.getLsbD_and, BitVec.getLsbD_not, hbit, hn, decide_true, Bool.true_and, eq_comm (a := b)]
          by_cases hnb : n = b <;> simp [hnb]
        · simp only [if_true, BitVec.getLsbD_or, hbit, eq_comm (a := b)]
          by_cases hnb : n = b <;> simp [hnb]
      rw [hset]
      by_cases hnb : n = b
      · rw [if_pos hnb, if_pos (hnb ▸ List.mem_cons_self), hnb]
      · rw [if_neg hnb, if_neg (fun h => (List.mem_cons.mp h).elim hnb hmem)]

/-- A header that fails a check freezes its team. -/
theorem stop_freezes {s : State} {t : Team} (ht : s.team s.cur = some t) (h : Hdr) {c : Cause} (sub : Nat) (hc : c.isAddress = false) :
    Freezes (.next ((Act.fault s h c sub 0 0).finish s.cur false)) s t h c sub := by
  simp only [Freezes, Act.finish, ht, hc, Bool.and_false, Bool.false_eq_true, if_false]

/-- What a clause header does, by its checks and its waits (R42, R43). -/
theorem execClauseHeader_rule {s : State} {t : Team} (ht : s.team s.cur = some t) (f : HF) :
    let r := exec (.clauseHeader f) s
    let hd : Hdr := ⟨false, false, 15⟩
    let noStream := ((s.share t.share).bind (·.stream)) = none
    let waits := (f.wb = true → t.batchOk (t.batchMeant f.wbatch) = true) ∧ ∀ b < 16,
      f.wbell.getLsbD b = true → (s.bell t.share b).phase ≠ t.seen.getLsbD b
    if f.sig ≠ 0x6B then Freezes r s t hd .illegal 0x01
    else if f.res ≠ 0 ∨ f.wb = false ∧ f.wbatch ≠ 0 then Freezes r s t hd .illegal 0x02
    else if f.cls.getLsbD 3 = true then Freezes r s t hd .illegal 0x03
    else if f.wbell ≠ 0 ∧ noStream then Freezes r s t hd .illegal 0x0D
    else if f.cls = 7 ∧ t.role ≠ .reeve then Freezes r s t hd .privilege 0
    else (¬waits → t.stepping = none → Parks r s s.cur { t with hdr := f } .header) ∧
      (waits →
        let c := coreOf s.cur
        let a := if f.wb then (s.acquire c t.copyScope).setTeam s.cur { t with copyScope := 0 } else s
        let b := if f.wbell ≠ 0 then a.acquire c 2 else a
        ∃ u, r = .next ((b.updCore c fun k => { k with issued := put k.issued t.grid (getD 0 k.issued t.grid + 1) }).setTeam s.cur u) ∧
          u = { t with copyScope := if f.wb then 0 else t.copyScope, hdr := f, word := some 0, giveMark := false, seen := u.seen } ∧
          ∀ n < 16, u.seen.getLsbD n = if f.wbell.getLsbD n then (s.bell t.share n).phase else t.seen.getLsbD n) := by
  intro r hd noStream waits
  have hr : r = execClauseHeader f s := rfl
  have hstop {c : Cause} (sub : Nat) (hc : c.isAddress = false) := stop_freezes ht hd sub hc
  unfold execClauseHeader at hr
  rw [ht] at hr
  dsimp only at hr
  rw [HF.subcode_eq f] at hr
  split
  · next h1 =>
    rw [if_pos h1] at hr
    exact hr ▸ hstop 0x01 rfl
  next h1 =>
  rw [if_neg h1] at hr
  split
  · next h2 =>
    rw [if_pos h2] at hr
    exact hr ▸ hstop 0x02 rfl
  next h2 =>
  rw [if_neg h2] at hr
  split
  · next h3 =>
    rw [if_pos h3] at hr
    exact hr ▸ hstop 0x03 rfl
  next h3 =>
  rw [if_neg h3] at hr
  dsimp only at hr
  have hbell : (f.wbell != 0 && ((s.share t.share).bind (·.stream)).isNone) = true ↔ f.wbell ≠ 0 ∧ noStream := by
    rw [Bool.and_eq_true, bne_iff_ne, Option.isNone_iff_eq_none]
  split
  · next h4 =>
    rw [if_pos (hbell.mpr h4)] at hr
    exact hr ▸ hstop 0x0D rfl
  next h4 =>
  rw [if_neg (fun h => h4 (hbell.mp h))] at hr
  split
  · next h5 =>
    rw [if_pos h5] at hr
    exact hr ▸ hstop 0 rfl
  next h5 =>
  rw [if_neg h5] at hr
  refine ⟨fun hw hstep => ?_, fun hw => ?_⟩
  · rw [if_pos (by rw [Bool.not_eq_true', ← Bool.not_eq_true]; exact fun h => hw ((s.headerReady_iff t f).mp h))] at hr
    rw [hr]
    exact setTeam_park_parks (u := { t with hdr := f }) hstep .header false
  · rw [if_neg (by rw [(s.headerReady_iff t f).mpr hw]; decide)] at hr
    intro c a b
    have hbells : ∀ n ∈ hfBells f, n < 16 := fun n hn => List.mem_range.mp (List.mem_filter.mp hn).1
    -- the team behind the acquires, and the state in which it stands
    let t1 : Team := { t with copyScope := if f.wb then 0 else t.copyScope }
    have ha : (if f.wb then s.copyAcquire s.cur t else s) = a := by
      by_cases hwb : f.wb = true
      · show (if f.wb then s.copyAcquire s.cur t else s) = if f.wb then _ else s
        rw [if_pos hwb, if_pos hwb]
        unfold State.copyAcquire
        rw [State.updTeam_some (((State.flows_acquire s c t.copyScope).team s.cur).trans ht)]
      · show (if f.wb then s.copyAcquire s.cur t else s) = if f.wb then _ else s
        rw [if_neg hwb, if_neg hwb]
    have hta : a.team s.cur = some t1 := by
      by_cases hwb : f.wb = true
      · show (if f.wb then (s.acquire c t.copyScope).setTeam s.cur { t with copyScope := 0 } else s).team s.cur = _
        rw [if_pos hwb, State.team_setTeam]
        simp only [t1, hwb, if_true]
      · show (if f.wb then (s.acquire c t.copyScope).setTeam s.cur { t with copyScope := 0 } else s).team s.cur = _
        rw [if_neg hwb, ht]
        simp only [t1, hwb]
        rfl
    have htb : b.team s.cur = some t1 := by
      show (if f.wbell ≠ 0 then a.acquire c 2 else a).team s.cur = _
      split
      · exact ((State.flows_acquire a c 2).team s.cur).trans hta
      · exact hta
    have hb : (if f.wbell != 0 then a.acquire c 2 else a) = b := by
      show _ = if f.wbell ≠ 0 then a.acquire c 2 else a
      simp only [bne_iff_ne]
    refine ⟨{ s.bellSeen t1 (hfBells f) with hdr := f, word := some 0, giveMark := false }, ?_, ?_, fun n hn => ?_⟩
    · rw [hr, ha, hb]
      have htc : (b.updCore c fun k => { k with issued := put k.issued t.grid (getD 0 k.issued t.grid + 1) }).team s.cur = some t1 := htb
      rw [State.updTeam_some htc]
    · rfl
    · show (s.bellSeen t1 (hfBells f)).seen.getLsbD n = _
      rw [bellSeen_getLsbD s t1 _ hbells n hn]
      have : n ∈ hfBells f ↔ f.wbell.getLsbD n = true := by simp [hfBells, hn]
      simp only [this]
      rfl

/-- The cases of a value given by a condition. -/
theorem ite_of_eq {α : Type} {p Q : Prop} [Decidable p] {x a b : α} (h : x = if p then a else b) (hq : x = b → Q) : if p then x = a else Q := by
  by_cases hp : p
  · rw [if_pos hp] at h ⊢
    exact h
  · rw [if_neg hp] at h ⊢
    exact hq h

/-- Settles O59: a word of a team issues with its checks in the order of Table 02-4, a header with those of Table 02-2. The model's choice of log 76
is tryEvent's place before the word's own checks. -/
theorem checksBeforeIssue : Obligations.ChecksBeforeIssue := by
  intro s t ht
  refine ⟨fun i h hk hh => ?_, execClauseHeader_rule ht⟩
  intro r last sel illegal out
  have hop (h' : Hdr) (op : BitVec 9) (rest : BitVec 49) (hi : i = .opcodeIllegal h' op rest) : h' = h := by
    rw [hi] at hh
    have hhdr := Option.some.inj hh
    rwa [ofWord_teamWord] at hhdr
  refine ⟨fun ⟨op, rest, hi⟩ => ?_, fun hi => ?_, fun c sub hout => exec_of_precheck ht hk hh hout,
    fun hout hlist hstep => exec_of_listBlocks ht hk hh hout hlist hstep, s.listBlocks_iff s.cur t i,
    fun hout hlist htry hacts code hev => exec_of_tryEvent ht hk hh hout hlist htry hacts hev⟩
  · show s.precheck s.cur t i h = _
    rw [hi]
    rfl
  · have hsel : sel = specialOf i := rfl
    have hout : out = _ := s.precheck_eq s.cur t i h fun h' op rest hi' => hi ⟨op, rest, by rw [hi', hop h' op rest hi']⟩
    rw [hsel]
    exact ite_of_eq hout fun h => ite_of_eq h fun h => ite_of_eq h fun h => ite_of_eq h fun h => ite_of_eq h fun h => ite_of_eq h fun h =>
      ite_of_eq h fun h => ite_of_eq h fun h => ite_of_eq h fun h => ite_of_eq h fun h => h

end Sys2Proof.Machine

/-! PROOFS. The end of a team: what it leaves of other teams, of packages and of the lists of handles (R121, R161, R185, R288, R298). -/

namespace Sys2Proof.Machine

open Host

/-! ## Maps over records -/

/-- Reading a map whose records are changed in place. -/
theorem find_map_of_key {α β : Type} (m : List (Nat × α)) (f : Nat × α → Nat × β) (hf : ∀ e, (f e).1 = e.1) (k : Nat) :
    find (m.map f) k = (find m k).map fun v => (f (k, v)).2 := by
  induction m with
  | nil => rfl
  | cons e m ih =>
    rw [List.map_cons, find_cons, find_cons, hf, ih]
    by_cases he : e.1 = k
    · rw [if_pos he, if_pos he, ← he]
      rfl
    · rw [if_neg he, if_neg he]

/-- Reading a list of cores, with their default, whose records are changed in place. -/
theorem State.core_map (s : State) (f : Nat × Core → Nat × Core) (hf : ∀ e, (f e).1 = e.1) (hd : ∀ c, (f (c, {})).2 = {}) (c : Nat) :
    ({ s with cores := s.cores.map f } : State).core c = (f (c, s.core c)).2 := by
  unfold State.core getD
  rw [find_map_of_key _ f hf]
  cases find s.cores c with
  | none => exact (hd c).symm
  | some x => rfl

/-! ## Teams that others' writes and results reach -/

/-- What a write that a team's footprints note leaves of it (R169, R170). -/
def Team.noted (t : Team) (ls : List Loc) : Team :=
  { t with tryR := t.tryR.map fun (r : TryRegion) => { r with foot := r.foot.map fun f => { f with dirty := f.dirty || ls.any fun l => l.sector == f.sector } } }

theorem Team.noted_of_no_region {t : Team} (h : t.tryR = none) (ls : List Loc) : t.noted ls = t := by
  unfold Team.noted
  rw [h]
  show { t with tryR := none } = t
  rw [← h]

/-- The team at a place behind a write of an agent. -/
theorem State.team_noteWrite (s : State) (by_ : Option Nat) (ls : List Loc) (n : Nat) :
    (s.noteWrite by_ ls).team n = (s.team n).map fun t => if some n = by_ then t else t.noted ls := by
  unfold State.noteWrite State.team
  rw [find_map_of_key]
  · cases hn : find s.teams n with
    | none => rfl
    | some t =>
      simp only [Option.map_some]
      cases htry : t.tryR with
      | none =>
        rw [Team.noted_of_no_region htry, ite_self]
      | some r =>
        by_cases hby : some n = by_
        · simp only [hby, if_true]
        · simp only [hby, if_false, Team.noted, htry, Option.map_some]
  · intro e
    split
    · rfl
    · split <;> rfl

theorem State.noteWrite_pkgs (s : State) (by_ : Option Nat) (ls : List Loc) : (s.noteWrite by_ ls).pkgs = s.pkgs := rfl
theorem State.noteWrite_cores (s : State) (by_ : Option Nat) (ls : List Loc) : (s.noteWrite by_ ls).cores = s.cores := rfl

theorem State.team_fillAll (s : State) (r : Nat) (bytes : List Byte) (n : Nat) : (s.fillAll r bytes).team n = (s.team n).map fun t => t.fill r bytes :=
  find_map_of_key s.teams (fun e => (e.1, e.2.fill r bytes)) (fun _ => rfl) n

/-! ## Packages when a team ends -/

/-- A package in which the end of a team has left what it may change. -/
def Pkg.woundAs (k x : Pkg) : Pkg :=
  { k with
    poison := x.poison, symErr := x.symErr, errTotal := x.errTotal, errNext := x.errNext, history := x.history, counters := x.counters
    astat := x.astat, msixPend := x.msixPend, irqs := x.irqs, mru := x.mru, l3 := x.l3, coh := x.coh, hbm := x.hbm, posted := x.posted
    postSeq := x.postSeq, fstat := x.fstat, cmdValue := x.cmdValue, cmdResult := x.cmdResult, busy := x.busy, launchWait := x.launchWait
    endedTeams := x.endedTeams }

/-- What the end of a team may leave of a package: bits of FSTAT set, and what woundAs names. -/
def Pkg.Winds (k k' : Pkg) : Prop := k' = k.woundAs k' ∧ ∀ b, k.fstat.getLsbD b = true → k'.fstat.getLsbD b = true

theorem Pkg.Winds.refl (k : Pkg) : k.Winds k := ⟨rfl, fun _ h => h⟩

theorem Pkg.Winds.trans {a b c : Pkg} (hb : a.Winds b) (hc : b.Winds c) : a.Winds c := by
  obtain ⟨b1, b2⟩ := hb
  obtain ⟨c1, c2⟩ := hc
  refine ⟨?_, fun x h => c2 x (b2 x h)⟩
  rw [b1] at c1
  exact c1

theorem Pkg.Flows.winds {k k' : Pkg} (h : k.Flows k') : k.Winds k' := by
  have hflow (x : Pkg) : k.Winds (k.flowedAs x) := ⟨rfl, fun _ hb => hb⟩
  unfold Pkg.Flows at h
  rw [h]
  exact hflow k'

theorem Pkg.Winds.log {k k' : Pkg} (h : k.Winds k') : k'.log = k.log := by rw [h.1]; rfl
theorem Pkg.Winds.duty {k k' : Pkg} (h : k.Winds k') : k'.duty = k.duty := by rw [h.1]; rfl
theorem Pkg.Winds.freezes {k k' : Pkg} (h : k.Winds k') : k'.freezes = k.freezes := by rw [h.1]; rfl
theorem Pkg.Winds.fstat {k k' : Pkg} (h : k.Winds k') {b : Nat} (hb : k.fstat.getLsbD b = true) : k'.fstat.getLsbD b = true := h.2 b hb

theorem Pkg.winds_raiseVec (k : Pkg) (v : Nat) : k.Winds (k.raiseVec v) := (Pkg.reads_raiseVec k v).flows.winds

/-- A bit of FSTAT that is set. -/
theorem getLsbD_or_two_pow {w : Nat} (x : BitVec w) {n : Nat} (hn : n < w) (b : Nat) :
    (x ||| BitVec.ofNat w (2 ^ n)).getLsbD b = (x.getLsbD b || decide (b = n)) := by
  rw [BitVec.getLsbD_or, BitVec.getLsbD_ofNat, Nat.testBit_two_pow]
  by_cases hb : b = n
  · simp [hb, hn]
  · have : ¬n = b := fun h => hb h.symm
    simp [hb, this]

theorem Pkg.setFstat_fstat (k : Pkg) {bit : Nat} (hbit : bit < 6) (b : Nat) :
    (k.setFstat bit).fstat.getLsbD b = (k.fstat.getLsbD b || decide (b = bit)) := by
  unfold Pkg.setFstat
  split
  · next h =>
    by_cases hb : b = bit
    · rw [hb, h]
      rfl
    · simp [hb]
  · have hvec (x : Pkg) : (x.raiseVec 1).fstat = x.fstat := by unfold Pkg.raiseVec; split <;> rfl
    dsimp only
    split
    · rw [hvec]
      exact getLsbD_or_two_pow _ hbit b
    · exact getLsbD_or_two_pow _ hbit b

theorem Pkg.winds_setFstat (k : Pkg) {bit : Nat} (hbit : bit < 6) : k.Winds (k.setFstat bit) := by
  refine ⟨?_, fun b hb => by rw [k.setFstat_fstat hbit, hb]; rfl⟩
  unfold Pkg.setFstat
  split
  · rfl
  · dsimp only
    split
    · unfold Pkg.raiseVec
      split <;> rfl
    · rfl

/-- Packages behind an update of one. -/
theorem State.winds_updPkg (s : State) (p : Nat) {f : Pkg → Pkg} (h : (s.pkg p).Winds (f (s.pkg p))) (q : Nat) : (s.pkg q).Winds ((s.updPkg p f).pkg q) := by
  by_cases hq : q = p
  · rw [hq, State.pkg_updPkg]
    exact h
  · rw [State.pkg_updPkg_other _ _ hq]
    exact .refl _

theorem State.winds_of_pkgs {s s' : State} (h : s'.pkgs = s.pkgs) (q : Nat) : (s.pkg q).Winds (s'.pkg q) := by
  unfold State.pkg
  rw [h]
  exact .refl _

/-! ## Lists of handles -/

/-- A handle that joins a core's lists (R288). -/
theorem State.enlist_waiting (s : State) (c : Nat) (h : Handle) (d : Nat) :
    ((s.enlist c h).core d).waiting = (s.core d).waiting ++ (if d = c ∧ (s.core c).waiting.length < 64 then [h] else []) := by
  unfold State.enlist
  split
  · next hlen =>
    have hcore : ((s.updCore c fun k => { k with waiting := k.waiting ++ [h] }).core d).waiting =
        (s.core d).waiting ++ (if d = c ∧ (s.core c).waiting.length < 64 then [h] else []) := by
      by_cases hd : d = c
      · rw [hd, State.core_updCore, if_pos ⟨rfl, hlen⟩]
      · rw [State.core_updCore_other _ _ hd, if_neg fun hc => hd hc.1, List.append_nil]
    dsimp only
    split
    · exact hcore
    · exact hcore
  · next hlen =>
    rw [if_neg fun hc => hlen hc.2, List.append_nil]
    by_cases hd : d = c
    · rw [hd]
      show ((s.updCore c fun k => { k with held := k.held ++ [h] }).core c).waiting = _
      rw [State.core_updCore]
    · show ((s.updCore c fun k => { k with held := k.held ++ [h] }).core d).waiting = _
      rw [State.core_updCore_other _ _ hd]

theorem State.enlist_held (s : State) (c : Nat) (h : Handle) (d : Nat) :
    ((s.enlist c h).core d).held = (s.core d).held ++ (if d = c ∧ ¬(s.core c).waiting.length < 64 then [h] else []) := by
  unfold State.enlist
  split
  · next hlen =>
    have hcore : ((s.updCore c fun k => { k with waiting := k.waiting ++ [h] }).core d).held =
        (s.core d).held ++ (if d = c ∧ ¬(s.core c).waiting.length < 64 then [h] else []) := by
      rw [if_neg fun hc => hc.2 hlen, List.append_nil]
      by_cases hd : d = c
      · rw [hd, State.core_updCore]
      · rw [State.core_updCore_other _ _ hd]
    dsimp only
    split
    · exact hcore
    · exact hcore
  · next hlen =>
    by_cases hd : d = c
    · rw [hd, if_pos ⟨rfl, hlen⟩]
      show ((s.updCore c fun k => { k with held := k.held ++ [h] }).core c).held = _
      rw [State.core_updCore]
    · rw [if_neg fun hc => hd hc.1, List.append_nil]
      show ((s.updCore c fun k => { k with held := k.held ++ [h] }).core d).held = _
      rw [State.core_updCore_other _ _ hd]

/-- A list that becomes full sets FSTAT.LISTFULL, and nothing else of a package changes. -/
theorem State.enlist_winds (s : State) (c : Nat) (h : Handle) (q : Nat) : (s.pkg q).Winds ((s.enlist c h).pkg q) := by
  unfold State.enlist
  split
  · dsimp only
    split
    · exact State.winds_updPkg (s.updCore c _) _ (Pkg.winds_setFstat _ (by decide)) q
    · exact .refl _
  · exact State.winds_updPkg (s.updCore c _) _ (Pkg.winds_setFstat _ (by decide)) q

theorem State.enlist_full (s : State) (c : Nat) (h : Handle) (hlen : 63 ≤ (s.core c).waiting.length) :
    ((s.enlist c h).pkg (pkgOf c)).fstat.getLsbD 1 = true := by
  have hset (x : State) : ((x.updPkg (pkgOf c) (·.setFstat 1)).pkg (pkgOf c)).fstat.getLsbD 1 = true := by
    rw [State.pkg_updPkg, Pkg.setFstat_fstat _ (by decide)]
    simp
  unfold State.enlist
  split
  · next hl =>
    dsimp only
    rw [if_pos]
    · exact hset _
    · rw [State.core_updCore, List.length_append, List.length_singleton]
      omega
  · exact hset _

theorem State.enlist_teams (s : State) (c : Nat) (h : Handle) : (s.enlist c h).teams = s.teams := by
  unfold State.enlist
  dsimp only
  split
  · split <;> rfl
  · rfl

/-- A team's handle leaves every list (R288). -/
theorem State.delist_core (s : State) (tk c : Nat) : (s.delist tk).core c =
    if (s.core c).waiting.contains (Handle.frozen tk) || (s.core c).held.contains (Handle.frozen tk) then
      let w := (s.core c).waiting.filter (· != Handle.frozen tk)
      let h := (s.core c).held.filter (· != Handle.frozen tk)
      { s.core c with waiting := w ++ h.take (64 - w.length), held := h.drop (64 - w.length) }
    else s.core c := by
  unfold State.delist
  rw [State.core_map]
  · dsimp only
    split <;> rfl
  · intro e
    dsimp only
    split <;> rfl
  · intro c
    rfl

theorem State.delist_unlisted (s : State) (tk c : Nat) :
    Handle.frozen tk ∉ ((s.delist tk).core c).waiting ∧ Handle.frozen tk ∉ ((s.delist tk).core c).held := by
  rw [s.delist_core]
  have hfilter (l : List Handle) : Handle.frozen tk ∉ l.filter (· != Handle.frozen tk) := by simp
  split
  · refine ⟨fun hm => ?_, fun hm => hfilter _ (List.mem_of_mem_drop hm)⟩
    rcases List.mem_append.mp hm with hm | hm
    · exact hfilter _ hm
    · exact hfilter _ (List.mem_of_mem_take hm)
  · next h =>
    simp only [Bool.or_eq_true, List.contains_iff_mem, not_or] at h
    exact h

theorem State.delist_of_unlisted {s : State} {tk c : Nat} (hw : Handle.frozen tk ∉ (s.core c).waiting) (hh : Handle.frozen tk ∉ (s.core c).held) :
    (s.delist tk).core c = s.core c := by
  rw [s.delist_core, if_neg]
  simp [hw, hh]

/-! ## Settling a step, and the rest of an end -/

theorem State.settleStep_none {s : State} {tk : Nat} (h : ∀ t, s.team tk = some t → t.stepping = none) (code : Nat) : s.settleStep tk code = s := by
  have : (s.team tk).bind (·.stepping) = none := by
    cases ht : s.team tk with
    | none => rfl
    | some t => exact h t ht
  unfold State.settleStep
  rw [this]

theorem State.settleStep_cores (s : State) (tk code : Nat) : (s.settleStep tk code).cores = s.cores := by
  have hupd (f : Team → Team) : (s.updTeam tk f).cores = s.cores := by unfold State.updTeam; split <;> rfl
  unfold State.settleStep
  split
  · rfl
  · exact hupd _
  · exact hupd _

theorem State.updTeam_pkgs (s : State) (tk : Nat) (f : Team → Team) : (s.updTeam tk f).pkgs = s.pkgs := by
  unfold State.updTeam
  split <;> rfl

theorem State.settleStep_winds (s : State) (tk code q : Nat) : (s.pkg q).Winds ((s.settleStep tk code).pkg q) := by
  unfold State.settleStep
  split
  · exact .refl _
  · exact State.winds_of_pkgs (State.updTeam_pkgs s tk _) q
  · refine (State.winds_of_pkgs (State.updTeam_pkgs s tk _) q).trans (State.winds_updPkg _ _ ?_ q)
    exact Pkg.Winds.trans (b := { (s.updTeam tk _).pkg (pkgOfTeam tk) with cmdValue := BitVec.ofNat 48 code, cmdResult := 0, busy := false })
      ⟨rfl, fun _ hb => hb⟩ (Pkg.winds_raiseVec _ _)

/-! ## Registrations -/

theorem State.updShare_teams (s : State) (sh : Nat) (f : Share → Share) : (s.updShare sh f).teams = s.teams := by
  unfold State.updShare
  split <;> rfl

theorem State.updShare_pkgs (s : State) (sh : Nat) (f : Share → Share) : (s.updShare sh f).pkgs = s.pkgs := by
  unfold State.updShare
  split <;> rfl

theorem State.updShare_cores (s : State) (sh : Nat) (f : Share → Share) : (s.updShare sh f).cores = s.cores := by
  unfold State.updShare
  split <;> rfl

theorem State.team_setBar (s : State) (by_ : Option Nat) (sh off : Nat) (w : BarWord) (n : Nat) :
    (s.setBar by_ sh off w).team n = (s.team n).map fun t => if some n = by_ then t else t.noted [.sp sh off] := by
  unfold State.setBar
  rw [State.team_noteWrite]
  unfold State.setSpBytes State.team
  rw [State.updShare_teams]

theorem State.setBar_pkgs (s : State) (by_ : Option Nat) (sh off : Nat) (w : BarWord) : (s.setBar by_ sh off w).pkgs = s.pkgs :=
  State.updShare_pkgs s sh _

theorem State.setBar_cores (s : State) (by_ : Option Nat) (sh off : Nat) (w : BarWord) : (s.setBar by_ sh off w).cores = s.cores :=
  State.updShare_cores s sh _

/-! ## What the end of a team leaves of another -/

/-- Another team's footprints may have noted writes and, where o says so, its outstanding results may have been filled. -/
def Team.Grazed (o : Prop) (u u' : Team) : Prop :=
  u' = { u with tryR := u'.tryR, outst := u'.outst } ∧ (u.tryR = none → u'.tryR = none) ∧ (¬o → u'.outst = u.outst)

theorem Team.Grazed.refl (o : Prop) (u : Team) : u.Grazed o u := ⟨rfl, id, fun _ => rfl⟩

theorem Team.Grazed.trans {o : Prop} {a b c : Team} (hb : Grazed o a b) (hc : Grazed o b c) : Grazed o a c := by
  obtain ⟨b1, b2, b3⟩ := hb
  obtain ⟨c1, c2, c3⟩ := hc
  refine ⟨?_, fun h => c2 (b2 h), fun h => (c3 h).trans (b3 h)⟩
  rw [b1] at c1
  exact c1

theorem Team.noted_grazed (o : Prop) (u : Team) (ls : List Loc) : Grazed o u (u.noted ls) :=
  ⟨rfl, fun h => by unfold Team.noted; rw [h]; rfl, fun _ => rfl⟩

theorem Team.fill_grazed {o : Prop} (h : o) (u : Team) (r : Nat) (bytes : List Byte) : Grazed o u (u.fill r bytes) :=
  ⟨rfl, id, fun hn => absurd h hn⟩

/-- A team that no open region and no filled result lets anything reach. -/
theorem Team.Grazed.eq {u u' : Team} (h : Grazed False u u') (ht : u.tryR = none) : u' = u := by
  obtain ⟨h1, h2, h3⟩ := h
  rw [h1, h2 ht, h3 id]
  show { u with tryR := none } = u
  rw [← ht]

/-- The team at a place is still there, grazed at most, or there is none still. -/
def State.Grazes (o : Prop) (s s' : State) (n : Nat) : Prop :=
  (s.team n = none → s'.team n = none) ∧ ∀ u, s.team n = some u → ∃ u', s'.team n = some u' ∧ Team.Grazed o u u'

theorem State.Grazes.of_teams {o : Prop} {s s' : State} (h : s'.teams = s.teams) (n : Nat) : Grazes o s s' n := by
  have : s'.team n = s.team n := by unfold State.team; rw [h]
  rw [State.Grazes, this]
  exact ⟨id, fun u hu => ⟨u, hu, .refl o u⟩⟩

theorem State.Grazes.trans {o : Prop} {a b c : State} {n : Nat} (hb : Grazes o a b n) (hc : Grazes o b c n) : Grazes o a c n := by
  refine ⟨fun h => hc.1 (hb.1 h), fun u hu => ?_⟩
  obtain ⟨v, hv, huv⟩ := hb.2 u hu
  obtain ⟨w, hw, hvw⟩ := hc.2 v hv
  exact ⟨w, hw, huv.trans hvw⟩

theorem State.Grazes.of_map {o : Prop} {s s' : State} {n : Nat} {f : Team → Team} (h : s'.team n = (s.team n).map f)
    (hf : ∀ u, Team.Grazed o u (f u)) : Grazes o s s' n :=
  ⟨fun hn => by rw [h, hn]; rfl, fun u hu => ⟨f u, by rw [h, hu]; rfl, hf u⟩⟩

theorem State.grazes_dropReg (o : Prop) (s : State) (tk : Nat) (r : Registration) (n : Nat) : Grazes o s (s.dropReg tk r) n := by
  refine .of_map (s.team_setBar (some tk) r.sh r.off _ n) fun u => ?_
  split
  · exact .refl o u
  · exact u.noted_grazed o _

theorem State.dropReg_pkgs (s : State) (tk : Nat) (r : Registration) : (s.dropReg tk r).pkgs = s.pkgs := s.setBar_pkgs _ _ _ _
theorem State.dropReg_cores (s : State) (tk : Nat) (r : Registration) : (s.dropReg tk r).cores = s.cores := s.setBar_cores _ _ _ _

theorem State.handBack_teams (s : State) (tk : Nat) : (s.handBack tk).teams = s.teams := by
  unfold State.handBack
  split
  · split
    · exact State.enlist_teams _ _ _
    · rfl
  · rfl

theorem State.handBack_winds (s : State) (tk q : Nat) : (s.pkg q).Winds ((s.handBack tk).pkg q) := by
  unfold State.handBack
  split
  · split
    · exact State.enlist_winds _ _ _ _
    · exact .refl _
  · exact .refl _

/-- The code of a step reaches results of other teams, and the stepped team no more. -/
theorem State.grazes_settleStep (s : State) (tk code : Nat) {n : Nat} (hn : n ≠ tk) :
    Grazes (∃ t, s.team tk = some t ∧ t.stepping.isSome = true) s (s.settleStep tk code) n := by
  have hupd (f : Team → Team) : (s.updTeam tk f).team n = s.team n := by
    unfold State.updTeam
    split
    · exact State.team_setTeam_other s _ hn
    · rfl
  unfold State.settleStep
  split
  · exact .of_teams rfl n
  · next r hr =>
    have hstep : ∃ t, s.team tk = some t ∧ t.stepping.isSome = true := by
      obtain ⟨t, ht, htr⟩ := Option.bind_eq_some_iff.mp hr
      exact ⟨t, ht, by rw [htr]; rfl⟩
    refine .of_map (f := fun t => t.fill r (bytesOf 8 code)) ?_ fun u => Team.fill_grazed hstep u _ _
    rw [State.team_fillAll, hupd]
  · refine .of_map (f := id) ?_ fun u => .refl _ u
    rw [State.team_updPkg, hupd]
    simp

theorem Pkg.winds_endedTeams (k : Pkg) (l : List Ended) : k.Winds { k with endedTeams := l } := ⟨rfl, fun _ hb => hb⟩

theorem State.leaveQueues_teams (s : State) (tk : Nat) : (s.leaveQueues tk).teams = s.teams := by
  unfold State.leaveQueues
  split
  · rfl
  · exact State.updShare_teams s _ _

theorem State.leaveQueues_cores (s : State) (tk : Nat) : (s.leaveQueues tk).cores = s.cores := by
  unfold State.leaveQueues
  split
  · rfl
  · exact State.updShare_cores s _ _

theorem State.leaveQueues_winds (s : State) (tk q : Nat) : (s.pkg q).Winds ((s.leaveQueues tk).pkg q) := by
  unfold State.leaveQueues
  split
  · exact .refl _
  · refine (State.winds_of_pkgs (State.updShare_pkgs s _ _) q).trans (State.winds_updPkg _ _ ?_ q)
    exact ⟨rfl, fun _ hb => hb⟩

theorem State.endShare_pkgs (s : State) (sh : Nat) : (s.endShare sh).pkgs = s.pkgs := by
  unfold State.endShare
  split
  · rfl
  · split <;> rfl

theorem State.endShare_cores (s : State) (sh : Nat) : (s.endShare sh).cores = s.cores := by
  unfold State.endShare
  split
  · rfl
  · split <;> rfl

theorem State.endShare_teams (s : State) (sh : Nat) : (s.endShare sh).teams = s.teams := by
  unfold State.endShare
  split
  · rfl
  · split <;> rfl

/-! ## The end of a team -/

/-- A team whose handle to an ended team becomes NONE. -/
def Team.forget (tk : Nat) (u : Team) : Team := if u.h0 = Handle.frozen tk then { u with h0 := Handle.none } else u

/-- Reading a map whose values are changed in place. -/
theorem find_map_val {α β : Type} (m : List (Nat × α)) (g : α → β) (k : Nat) : find (m.map fun e => (e.1, g e.2)) k = (find m k).map g :=
  find_map_of_key m (fun e => (e.1, g e.2)) (fun _ => rfl) k

/-- The machine in which a team has released and dropped its registrations. -/
def State.dropRegs (s : State) (tk : Nat) (t : Team) : State :=
  t.regs.foldl (fun s r => s.dropReg tk r) (if t.regs.isEmpty then s else s.release (coreOf tk) 2)

theorem State.grazes_dropRegs (o : Prop) (s : State) (tk : Nat) (t : Team) (n : Nat) : Grazes o s (s.dropRegs tk t) n := by
  unfold State.dropRegs
  have hrel : Grazes o s (if t.regs.isEmpty then s else s.release (coreOf tk) 2) n := by
    split
    · exact .of_teams rfl n
    · exact .of_teams (State.flows_release s _ _).teams n
  exact List.foldlRecOn (motive := fun x => Grazes o s x n) _ _ hrel fun x hx r _ => hx.trans (State.grazes_dropReg o x tk r n)

theorem State.dropRegs_winds (s : State) (tk : Nat) (t : Team) (q : Nat) : (s.pkg q).Winds ((s.dropRegs tk t).pkg q) := by
  unfold State.dropRegs
  have hrel : (s.pkg q).Winds ((if t.regs.isEmpty then s else s.release (coreOf tk) 2).pkg q) := by
    split
    · exact .refl _
    · exact ((State.flows_release s _ _).pkg q).winds
  exact List.foldlRecOn (motive := fun x : State => (s.pkg q).Winds (x.pkg q)) _ _ hrel fun x hx r _ =>
    hx.trans (State.winds_of_pkgs (State.dropReg_pkgs x tk r) q)

/-- The lists of a core stay as they are while registrations are dropped. -/
theorem State.dropRegs_lists (s : State) (tk : Nat) (t : Team) (c : Nat) :
    ((s.dropRegs tk t).core c).waiting = (s.core c).waiting ∧ ((s.dropRegs tk t).core c).held = (s.core c).held := by
  unfold State.dropRegs
  have hrel : ((if t.regs.isEmpty then s else s.release (coreOf tk) 2).core c).waiting = (s.core c).waiting ∧
      ((if t.regs.isEmpty then s else s.release (coreOf tk) 2).core c).held = (s.core c).held := by
    split
    · exact ⟨rfl, rfl⟩
    · rw [(State.flows_release s (coreOf tk) 2).core c]
      exact ⟨rfl, rfl⟩
  refine List.foldlRecOn (motive := fun x : State => (x.core c).waiting = (s.core c).waiting ∧ (x.core c).held = (s.core c).held) _ _ hrel fun x hx r _ => ?_
  have : (x.dropReg tk r).core c = x.core c := by unfold State.core; rw [x.dropReg_cores]
  rw [this]
  exact hx

/-- The machine of the end of a team before the team leaves the list of teams. -/
def State.endStages (s : State) (tk : Nat) (t : Team) : State := ((((s.dropRegs tk t).handBack tk).delist tk).settleStep tk 2).leaveQueues tk

/-- A team leaves the list of teams, and handles to it become NONE. -/
def State.dropTeam (s : State) (tk : Nat) : State :=
  { s with teams := (erase s.teams tk).map fun (e : Nat × Team) => (e.1, e.2.forget tk) }

/-- The end of a team, in its stages. -/
theorem State.endTeam_some {s : State} {tk : Nat} {t : Team} (ht : s.team tk = some t) : s.endTeam tk =
    (((s.endStages tk t).dropTeam tk).updPkg (pkgOfTeam tk) fun k =>
      { k with endedTeams := (t.ending (coreOf tk) :: k.endedTeams).take Config.knownTeams }).endShare t.share := by
  unfold State.endTeam
  rw [ht]
  rfl

theorem State.dropTeam_team (s : State) (tk n : Nat) : (s.dropTeam tk).team n = if n = tk then none else (s.team n).map (Team.forget tk) := by
  refine (find_map_val _ (Team.forget tk) n).trans ?_
  split
  · next hn => rw [hn, find_erase_same]; rfl
  · next hn => rw [find_erase_other _ hn]; rfl

/-- The team at a place behind the end of a team. -/
theorem State.endTeam_team_eq {s : State} {tk : Nat} {t : Team} (ht : s.team tk = some t) (n : Nat) :
    (s.endTeam tk).team n = if n = tk then none else ((s.endStages tk t).team n).map (Team.forget tk) := by
  rw [State.endTeam_some ht, ← State.dropTeam_team]
  unfold State.team
  rw [State.endShare_teams]
  rfl

theorem State.endTeam_none {s : State} {tk : Nat} (ht : s.team tk = none) : s.endTeam tk = s := by
  unfold State.endTeam
  rw [ht]

/-- A team that has ended is gone. -/
theorem State.endTeam_team (s : State) (tk : Nat) : (s.endTeam tk).team tk = none := by
  cases ht : s.team tk with
  | none => rw [State.endTeam_none ht, ht]
  | some t => rw [State.endTeam_team_eq ht, if_pos rfl]

theorem State.grazes_endStages {s : State} {tk : Nat} {t : Team} (ht : s.team tk = some t) {n : Nat} (hn : n ≠ tk) :
    Grazes (t.stepping.isSome = true) s (s.endStages tk t) n := by
  let x : State := ((s.dropRegs tk t).handBack tk).delist tk
  have hx (m : Nat) : Grazes (t.stepping.isSome = true) s x m :=
    (State.grazes_dropRegs _ s tk t m).trans (.of_teams (State.handBack_teams _ tk) m)
  have hset := State.grazes_settleStep x tk 2 hn
  obtain ⟨t', ht', hgr⟩ := (hx tk).2 t ht
  have hstep : t'.stepping = t.stepping := by rw [hgr.1]
  have hiff : (∃ t, x.team tk = some t ∧ t.stepping.isSome = true) = (t.stepping.isSome = true) := by
    rw [ht']
    simp [hstep]
  rw [hiff] at hset
  exact ((hx n).trans hset).trans (.of_teams (State.leaveQueues_teams _ tk) n)

/-- What the end of a team leaves of every other: handles to it become NONE, footprints note the writes of its registrations, and the code of a
step that it was to end reaches the results that wait for it. -/
theorem State.endTeam_other {s : State} {tk : Nat} {t : Team} (ht : s.team tk = some t) {n : Nat} (hn : n ≠ tk) :
    (s.team n = none → (s.endTeam tk).team n = none) ∧
    ∀ u, s.team n = some u → ∃ u', Team.Grazed (t.stepping.isSome = true) u u' ∧
      (s.endTeam tk).team n = some (if u.h0 = .frozen tk then { u' with h0 := .none } else u') := by
  have hlast : (s.endTeam tk).team n = ((s.endStages tk t).team n).map (Team.forget tk) := by rw [State.endTeam_team_eq ht, if_neg hn]
  obtain ⟨hnone, hsome⟩ := State.grazes_endStages ht hn
  refine ⟨fun h => by rw [hlast, hnone h]; rfl, fun u hu => ?_⟩
  obtain ⟨u', hu', hgr⟩ := hsome u hu
  have hh0 : u'.h0 = u.h0 := by rw [hgr.1]
  refine ⟨u', hgr, ?_⟩
  rw [hlast, hu', Option.map_some, Team.forget, hh0]

/-- Another team that no open region lets the end reach stays as it is, but for a handle to the ended team. -/
theorem State.endTeam_other_eq {s : State} {tk : Nat} {t : Team} (ht : s.team tk = some t) (hstep : t.stepping = none) {n : Nat} (hn : n ≠ tk) {u : Team}
    (hu : s.team n = some u) (htry : u.tryR = none) :
    (s.endTeam tk).team n = some (if u.h0 = .frozen tk then { u with h0 := .none } else u) := by
  obtain ⟨u', hgr, hu'⟩ := (State.endTeam_other ht hn).2 u hu
  have hfalse : (t.stepping.isSome = true) = False := by rw [hstep]; simp
  rw [hfalse] at hgr
  rw [hu', hgr.eq htry]

/-- What the end of a team leaves of the packages. -/
theorem State.endTeam_winds (s : State) (tk q : Nat) : (s.pkg q).Winds ((s.endTeam tk).pkg q) := by
  cases ht : s.team tk with
  | none =>
    rw [State.endTeam_none ht]
    exact .refl _
  | some t =>
    rw [State.endTeam_some ht]
    have h1 : (s.pkg q).Winds ((s.endStages tk t).pkg q) :=
      (((State.dropRegs_winds s tk t q).trans (State.handBack_winds _ tk q)).trans (State.settleStep_winds (((s.dropRegs tk t).handBack tk).delist tk) tk 2 q)).trans
        (State.leaveQueues_winds (State.settleStep _ tk 2) tk q)
    have h2 : (s.pkg q).Winds (((s.endStages tk t).dropTeam tk).pkg q) := h1
    exact (h2.trans (State.winds_updPkg _ (pkgOfTeam tk) (Pkg.winds_endedTeams _ _) q)).trans (State.winds_of_pkgs (State.endShare_pkgs _ _) q)

/-- The lists of a core behind the end of a team: those of the handing back without the team. -/
theorem State.endTeam_core {s : State} {tk : Nat} {t : Team} (ht : s.team tk = some t) (c : Nat) :
    (s.endTeam tk).core c = (((s.dropRegs tk t).handBack tk).delist tk).core c := by
  rw [State.endTeam_some ht]
  unfold State.core
  rw [State.endShare_cores]
  show getD {} (s.endStages tk t).cores c = _
  unfold State.endStages
  rw [State.leaveQueues_cores, State.settleStep_cores]

/-- No list names a team that has ended. -/
theorem State.endTeam_unlisted {s : State} {tk : Nat} {t : Team} (ht : s.team tk = some t) (c : Nat) :
    Handle.frozen tk ∉ ((s.endTeam tk).core c).waiting ∧ Handle.frozen tk ∉ ((s.endTeam tk).core c).held := by
  rw [State.endTeam_core ht]
  exact State.delist_unlisted _ tk c

/-- The serial of a team that has ended stays known (R298). -/
theorem State.endTeam_known {s : State} {tk : Nat} {t : Team} (ht : s.team tk = some t) :
    ∃ e ∈ ((s.endTeam tk).pkg (pkgOfTeam tk)).endedTeams, e.serial = t.serial := by
  refine ⟨t.ending (coreOf tk), ?_, rfl⟩
  rw [State.endTeam_some ht]
  have hp (x : State) (sh p : Nat) : (x.endShare sh).pkg p = x.pkg p := by unfold State.pkg; rw [State.endShare_pkgs]
  rw [hp, State.pkg_updPkg]
  show _ ∈ List.take (64 * 1024 - 1) (_ :: _)
  exact List.mem_cons_self

end Sys2Proof.Machine

/-! PROOFS. What a fault leaves: the record, the frozen team and its handle, and a reeve's escalation (R37, R38, R56, R280 to R282, R288, R292). -/

namespace Sys2Proof.Machine

open Host

/-! ## The primary cause (R282) -/

theorem Cause.index_injective : Function.Injective Cause.index := by
  intro a b h
  cases a <;> cases b <;> first | rfl | cases h

/-- The choice between the cause kept so far and a lane's. -/
def primaryStep (a : Option Cause) (l : LaneCause) : Option Cause :=
  if l.cause == .deferred then a else match a with
    | none => some l.cause
    | some c => if l.cause.index < c.index then some l.cause else a

theorem primaryOf_def (ls : List LaneCause) : primaryOf ls = ls.foldl primaryStep none := rfl

/-- The cause that the choice of the primary one keeps: it is one of the list's, and none of the list has a smaller index. -/
theorem primaryOf_foldl (ls : List LaneCause) (a : Option Cause) :
    let r := ls.foldl primaryStep a
    (∀ x, a = some x → ∃ y, r = some y ∧ y.index ≤ x.index) ∧
    (∀ l ∈ ls, l.cause ≠ .deferred → ∃ y, r = some y ∧ y.index ≤ l.cause.index) ∧
    ∀ y, r = some y → a = some y ∨ ∃ l ∈ ls, l.cause = y ∧ y ≠ .deferred := by
  induction ls generalizing a with
  | nil => exact ⟨fun x hx => ⟨x, hx, le_refl _⟩, fun l hl => (by cases hl), fun y hy => .inl hy⟩
  | cons l ls ih =>
    intro r
    by_cases hdef : l.cause = .deferred
    · have hr : r = ls.foldl primaryStep a := by
        show List.foldl primaryStep (primaryStep a l) ls = _
        have : primaryStep a l = a := by unfold primaryStep; rw [hdef]; rfl
        rw [this]
      obtain ⟨h1, h2, h3⟩ := ih a
      rw [← hr] at h1 h2 h3
      refine ⟨h1, fun l' hl' hne => ?_, fun y hy => ?_⟩
      · rcases List.mem_cons.mp hl' with rfl | hl'
        · exact absurd hdef hne
        · exact h2 l' hl' hne
      · exact (h3 y hy).imp_right fun ⟨l', hl', h⟩ => ⟨l', List.mem_cons_of_mem _ hl', h⟩
    · have hbeq : (l.cause == Cause.deferred) = false := beq_eq_false_iff_ne.mpr hdef
      -- the accumulator behind this lane
      have hacc : ∃ z, primaryStep a l = some z ∧ z.index ≤ l.cause.index ∧ (∀ x, a = some x → z.index ≤ x.index) ∧ (a = some z ∨ z = l.cause) := by
        unfold primaryStep
        rw [hbeq]
        cases a with
        | none => exact ⟨l.cause, rfl, le_refl _, nofun, .inr rfl⟩
        | some x =>
          by_cases hlt : l.cause.index < x.index
          · exact ⟨l.cause, if_pos hlt, le_refl _, fun x' hx' => (by cases hx'; exact le_of_lt hlt), .inr rfl⟩
          · exact ⟨x, if_neg hlt, not_lt.mp hlt, fun x' hx' => (by cases hx'; exact le_refl _), .inl rfl⟩
      obtain ⟨z, hstep, hzl, hza, hz⟩ := hacc
      have hr : r = ls.foldl primaryStep (some z) := by rw [← hstep]; rfl
      obtain ⟨h1, h2, h3⟩ := ih (some z)
      rw [← hr] at h1 h2 h3
      obtain ⟨y0, hy0, hle0⟩ := h1 z rfl
      refine ⟨fun x hx => ⟨y0, hy0, hle0.trans (hza x hx)⟩, fun l' hl' hne => ?_, fun y hy => ?_⟩
      · rcases List.mem_cons.mp hl' with rfl | hl'
        · exact ⟨y0, hy0, hle0.trans hzl⟩
        · exact h2 l' hl' hne
      · rcases h3 y hy with h | ⟨l', hl', h⟩
        · cases h
          rcases hz with hz | hz
          · exact .inl hz
          · exact .inr ⟨l, List.mem_cons_self, hz.symm, hz ▸ hdef⟩
        · exact .inr ⟨l', List.mem_cons_of_mem _ hl', h⟩

/-- The primary cause is the one of smallest index, DEFERRED left out (R282). -/
theorem primaryOf_eq {ls : List LaneCause} {c : Cause} (hmem : ∃ l ∈ ls, l.cause = c) (hdef : c ≠ .deferred)
    (hmin : ∀ l ∈ ls, l.cause ≠ .deferred → c.index ≤ l.cause.index) : primaryOf ls = some c := by
  obtain ⟨-, h2, h3⟩ := primaryOf_foldl ls none
  obtain ⟨l, hl, hlc⟩ := hmem
  obtain ⟨y, hy, hle⟩ := h2 l hl (hlc ▸ hdef)
  have hyc : y = c := by
    rcases h3 y hy with h | ⟨l', hl', hly, hyd⟩
    · cases h
    · have hge := hmin l' hl' (hly ▸ hyd)
      rw [hly] at hge
      rw [hlc] at hle
      exact Cause.index_injective (le_antisymm hle hge)
  rw [← hyc]
  exact hy

/-- What the record of a precise fault holds (R281, R282). -/
theorem Team.record_rule (t : Team) (cs : List (Nat × Option Cause × Word)) (sub field : Nat) :
    let r := t.record cs sub field
    r.lanes = cs.map (fun c => (⟨c.1, c.2.1.getD .deferred, c.2.2⟩ : LaneCause)) ∧ r.field = field ∧ r.imprecise = false ∧
      r.addr = (match t.word with | none => t.pc | some j => t.pc + BitVec.ofNat 64 (8 * (j + 1))) ∧
      (∀ c, (∃ L e, (L, some c, e) ∈ cs) → c ≠ .deferred → (∀ L d e, (L, some d, e) ∈ cs → d ≠ .deferred → c.index ≤ d.index) →
        r.primary = c.code ∧ r.sub = if c = .illegal ∨ c = .shape then sub else 0) := by
  refine ⟨rfl, rfl, rfl, rfl, fun c ⟨L, e, hc⟩ hdef hmin => ?_⟩
  have hp : primaryOf (cs.map fun c => (⟨c.1, c.2.1.getD .deferred, c.2.2⟩ : LaneCause)) = some c := by
    refine primaryOf_eq ⟨_, List.mem_map_of_mem hc, rfl⟩ hdef fun l hl hne => ?_
    obtain ⟨⟨M, d, x⟩, hd, rfl⟩ := List.mem_map.mp hl
    cases d with
    | none => exact absurd rfl hne
    | some d => exact hmin M d x hd hne
  unfold Team.record
  dsimp only
  rw [hp]
  simp

/-! ## Freezing (R37, R56, R288, R292) -/

theorem Team.settled_iff (t : Team) : t.settled = true ↔ ∀ o ∈ t.outst, o.parts = [] := by
  unfold Team.settled
  simp only [List.all_eq_true, List.isEmpty_iff]

/-- A frozen team joins its core's list, or is held while the list is full. -/
theorem State.enlist_sameMemory (s : State) (c : Nat) (h : Handle) : SameMemory s (s.enlist c h) := by
  have hfstat (k : Pkg) (b : Nat) : (k.setFstat b).hbm = k.hbm := by
    unfold Pkg.setFstat
    split
    · rfl
    · dsimp only
      split
      · exact Pkg.raiseVec_hbm _ _
      · rfl
  have hset (x : State) : SameMemory x (x.updPkg (pkgOf c) (·.setFstat 1)) := by
    refine ⟨fun _ => rfl, fun p f off => ?_, fun _ _ => rfl⟩
    unfold Pkg.byte
    by_cases hp : p = pkgOf c
    · rw [hp, State.pkg_updPkg, hfstat]
    · rw [State.pkg_updPkg_other _ _ hp]
  unfold State.enlist
  dsimp only
  split
  · split
    · exact hset (s.updCore c _)
    · exact ⟨fun _ => rfl, fun _ _ _ => rfl, fun _ _ => rfl⟩
  · exact hset (s.updCore c _)

/-- The machine in which a team whose results have returned is frozen, and counted. -/
def State.frozenAt (s : State) (tk : Nat) (t : Team) : State :=
  (s.setTeam tk { t with run := .frozen, admitted := false }).updPkg (pkgOf (coreOf tk)) fun k => { k with freezes := k.freezes + 1 }

/-- What a freeze does once the team's results have returned. -/
theorem State.takeStop_frozen {s : State} {tk : Nat} {t : Team} (ht : s.team tk = some t) (hrun : t.run = .freezing)
    (hset : ∀ o ∈ t.outst, o.parts = []) (hstep : t.stepping = none) : s.takeStop tk =
      if t.isReeve then (s.frozenAt tk t).escalateReeve tk 1
      else if (s.frozenAt tk t).reeveless (coreOf tk) t.ctx then s.frozenAt tk t
      else (s.frozenAt tk t).enlist (coreOf tk) (.frozen tk) := by
  unfold State.takeStop
  rw [ht]
  dsimp only
  have hno : t.stepping.isSome = false := by rw [hstep]; rfl
  rw [t.settled_iff.mpr hset, hrun, hno]
  rfl

/-- A team that leaves a mark in the escalation log (R292). -/
theorem State.logEsc_log (s : State) (p : Nat) (e : LogEnt) :
    find ((s.logEsc p e).pkg p).log (s.pkg p).escNext = some { e with clock := s.clock p } := by
  unfold State.logEsc
  rw [State.pkg_updPkg]
  exact find_put_same _ _ _

theorem State.logEsc_fstat (s : State) (p : Nat) (e : LogEnt) : ((s.logEsc p e).pkg p).fstat.getLsbD 0 = true := by
  unfold State.logEsc
  rw [State.pkg_updPkg]
  show ((s.pkg p).setFstat 0).fstat.getLsbD 0 = true
  rw [Pkg.setFstat_fstat _ (by decide)]
  simp

theorem State.logEsc_duty (s : State) (p : Nat) (e : LogEnt) : ((s.logEsc p e).pkg p).duty = (s.pkg p).duty := by
  unfold State.logEsc
  rw [State.pkg_updPkg]
  show ((s.pkg p).setFstat 0).duty = _
  exact (Pkg.winds_setFstat _ (by decide)).duty

theorem State.updTeam_pkg (s : State) (tk : Nat) (f : Team → Team) (p : Nat) : (s.updTeam tk f).pkg p = s.pkg p := by
  unfold State.pkg
  rw [State.updTeam_pkgs]

theorem State.updTeam_team_other (s : State) {tk n : Nat} (f : Team → Team) (h : n ≠ tk) : (s.updTeam tk f).team n = s.team n := by
  unfold State.updTeam
  split
  · exact State.team_setTeam_other s _ h
  · rfl

theorem State.updTeam_team {s : State} {tk : Nat} {t : Team} (h : s.team tk = some t) (f : Team → Team) : (s.updTeam tk f).team tk = some (f t) := by
  rw [State.updTeam_some h, State.team_setTeam]

/-- The entry that a reeve's own fault leaves in the escalation log. -/
def State.reeveEnt (s : State) (tk : Nat) (r : Team) : LogEnt :=
  { addr := r.cause.addr
    tserial := (match r.h0 with | .frozen f => (s.team f).elim 0 (·.serial) | .departed e _ => e.serial | .none => 0)
    rserial := r.serial, kind := 1, core := coreOf tk % 48, cause := r.cause.word }

/-- A reeve's own fault: logged; then held for the host with the team it serves, or both end. -/
theorem State.escalateReeve_some {s : State} {tk : Nat} {r : Team} (hr : s.team tk = some r) : s.escalateReeve tk 1 =
    (let x := s.logEsc (pkgOfTeam tk) (s.reeveEnt tk r)
     if (x.pkg (pkgOfTeam tk)).duty.getLsbD 0 then
       let y := x.updTeam tk fun t => { t with escalated := true }
       match r.h0 with | .frozen f => y.updTeam f fun t => { t with escalated := true } | _ => y
     else (match r.h0 with | .frozen f => x.endTeam f | _ => x).endTeam tk) := by
  unfold State.escalateReeve
  rw [hr]
  rfl

/-- What a reeve's own fault leaves: its entry in the log, FSTAT.ESCALATED, and the teams by DUTY. -/
theorem State.escalateReeve_rule {s : State} {tk : Nat} {r : Team} (hr : s.team tk = some r) :
    let p := pkgOfTeam tk
    let s' := s.escalateReeve tk 1
    (∃ e, find (s'.pkg p).log (s.pkg p).escNext = some e ∧ e.addr = r.cause.addr ∧ e.rserial = r.serial ∧ e.kind = 1 ∧ e.core = coreOf tk % 48 ∧
      e.cause = r.cause.word) ∧
    (s'.pkg p).fstat.getLsbD 0 = true ∧
    ((s.pkg p).duty.getLsbD 0 = true → s'.team tk = some { r with escalated := true } ∧
      ∀ f u, r.h0 = .frozen f → f ≠ tk → s.team f = some u → s'.team f = some { u with escalated := true }) ∧
    ((s.pkg p).duty.getLsbD 0 = false → s'.team tk = none ∧ ∀ f, r.h0 = .frozen f → s'.team f = none) := by
  intro p s'
  have hs' : s' = _ := State.escalateReeve_some hr
  dsimp only at hs'
  generalize hx : s.logEsc (pkgOfTeam tk) (s.reeveEnt tk r) = x at hs'
  have hlog : find (x.pkg p).log (s.pkg p).escNext = some { s.reeveEnt tk r with clock := s.clock p } := by rw [← hx]; exact State.logEsc_log s p _
  have hfstat : (x.pkg p).fstat.getLsbD 0 = true := by rw [← hx]; exact State.logEsc_fstat s p _
  have hduty : (x.pkg p).duty = (s.pkg p).duty := by rw [← hx]; exact State.logEsc_duty s p _
  have hteam (n : Nat) : x.team n = s.team n := by rw [← hx]; rfl
  -- the log and FSTAT behind anything that ends teams at most
  have hmarks : (x.pkg p).Winds (s'.pkg p) → (∃ e, find (s'.pkg p).log (s.pkg p).escNext = some e ∧ e.addr = r.cause.addr ∧ e.rserial = r.serial ∧
      e.kind = 1 ∧ e.core = coreOf tk % 48 ∧ e.cause = r.cause.word) ∧ (s'.pkg p).fstat.getLsbD 0 = true := fun hw =>
    ⟨⟨_, by rw [hw.log, hlog], rfl, rfl, rfl, rfl, rfl⟩, hw.fstat hfstat⟩
  rw [show (x.pkg (pkgOfTeam tk)).duty = _ from hduty] at hs'
  by_cases hd : (s.pkg p).duty.getLsbD 0 = true
  · rw [if_pos hd] at hs'
    have hesc : (x.updTeam tk fun t => { t with escalated := true }).team tk = some { r with escalated := true } :=
      State.updTeam_team ((hteam tk).trans hr) _
    have hpkgs : s'.pkg p = x.pkg p := by
      rw [hs']
      split
      · rw [State.updTeam_pkg, State.updTeam_pkg]
      · rw [State.updTeam_pkg]
    obtain ⟨h1, h2⟩ := hmarks (hpkgs ▸ .refl _)
    refine ⟨h1, h2, fun _ => ⟨?_, fun f u hf hne hu => ?_⟩, fun h => absurd h (by rw [hd]; decide)⟩
    · rw [hs']
      split
      · next f _ =>
        by_cases hf : f = tk
        · rw [hf, State.updTeam_team hesc]
        · rw [State.updTeam_team_other _ _ (Ne.symm hf), hesc]
      · exact hesc
    · rw [hs', hf]
      exact State.updTeam_team (by rw [State.updTeam_team_other _ _ hne, hteam, hu]) _
  · rw [if_neg hd] at hs'
    have hw : (x.pkg p).Winds (s'.pkg p) := by
      rw [hs']
      split
      · exact (State.endTeam_winds x _ p).trans (State.endTeam_winds _ tk p)
      · exact State.endTeam_winds x tk p
    obtain ⟨h1, h2⟩ := hmarks hw
    refine ⟨h1, h2, fun h => absurd h hd, fun _ => ⟨by rw [hs']; exact State.endTeam_team _ tk, fun f hf => ?_⟩⟩
    rw [hs', hf]
    dsimp only
    -- the team that the reeve serves has ended, and stays so
    by_cases hft : f = tk
    · rw [hft]
      exact State.endTeam_team _ tk
    · have hgone := State.endTeam_team x f
      cases ht : (x.endTeam f).team tk with
      | none => rw [State.endTeam_none ht, hgone]
      | some t => exact (State.endTeam_other ht hft).1 hgone

/-- What a freeze that takes effect leaves of a team that a reeve may serve. -/
theorem State.frozenAt_enlist {s : State} {tk : Nat} {t : Team} :
    let s' := (s.frozenAt tk t).enlist (coreOf tk) (.frozen tk)
    let core := coreOf tk
    s'.team tk = some { t with run := .frozen, admitted := false } ∧
      (s'.pkg (pkgOf core)).freezes = (s.pkg (pkgOf core)).freezes + 1 ∧
      (s'.core core).waiting = (s.core core).waiting ++ (if (s.core core).waiting.length < 64 then [Handle.frozen tk] else []) ∧
      (s'.core core).held = (s.core core).held ++ (if (s.core core).waiting.length < 64 then [] else [Handle.frozen tk]) ∧
      (63 ≤ (s.core core).waiting.length → (s'.pkg (pkgOf core)).fstat.getLsbD 1 = true) ∧
      (∀ n, n ≠ tk → s'.team n = s.team n) ∧ SameMemory s s' := by
  intro s' core
  have hteams : s'.teams = (s.frozenAt tk t).teams := State.enlist_teams _ _ _
  have hcore : (s.frozenAt tk t).core core = s.core core := rfl
  have hpkg : ((s.frozenAt tk t).pkg (pkgOf core)).freezes = (s.pkg (pkgOf core)).freezes + 1 := by
    unfold State.frozenAt
    rw [State.pkg_updPkg]
    rfl
  refine ⟨?_, ?_, ?_, ?_, fun h => State.enlist_full _ _ _ h, fun n hn => ?_, ?_⟩
  · unfold State.team
    rw [hteams]
    exact find_put_same _ _ _
  · rw [(State.enlist_winds (s.frozenAt tk t) core (.frozen tk) (pkgOf core)).freezes, hpkg]
  · rw [State.enlist_waiting, hcore]
    exact congrArg _ (if_congr ⟨fun h => h.2, fun h => ⟨rfl, h⟩⟩ rfl rfl)
  · rw [State.enlist_held, hcore]
    refine congrArg _ ?_
    by_cases hlen : (s.core core).waiting.length < 64
    · rw [if_pos hlen, if_neg fun h => h.2 hlen]
    · rw [if_neg hlen, if_pos ⟨rfl, hlen⟩]
  · unfold State.team
    rw [hteams]
    exact find_put_other _ _ _ hn
  · have h1 : SameMemory s (s.frozenAt tk t) := by
      refine ⟨fun _ => rfl, fun p f off => ?_, fun _ _ => rfl⟩
      unfold Pkg.byte State.frozenAt
      by_cases hp : p = pkgOf (coreOf tk)
      · rw [hp, State.pkg_updPkg]
        rfl
      · rw [State.pkg_updPkg_other _ _ hp]
        rfl
    obtain ⟨a1, a2, a3⟩ := h1
    obtain ⟨b1, b2, b3⟩ := State.enlist_sameMemory (s.frozenAt tk t) core (.frozen tk)
    exact ⟨fun a => (b1 a).trans (a1 a), fun p f off => (b2 p f off).trans (a2 p f off), fun sh off => (b3 sh off).trans (a3 sh off)⟩

/-- Settles O60: the record by its parts, and what a freeze does once results have returned, for a team and for a reeve. -/
theorem freezeRecords : Obligations.FreezeRecords := by
  refine ⟨fun s tk t cr ht => ⟨?_, fun q L _ => ⟨?_, ?_⟩⟩, fun s tk t ht hrun => ⟨fun hout => ?_, fun hset hstep => ?_⟩,
    fun t cs sub field => t.record_rule cs sub field, fun s tk t h c sub ea field => ?_⟩
  · unfold State.freeze
    rw [ht]
  · rw [← Team.endVal_commit t]
    exact Team.endVal_congr ⟨rfl, rfl, rfl, rfl⟩ rfl q L
  · exact t.dueParts_commit q L
  · obtain ⟨o, ho, hparts⟩ := hout
    have hset : t.settled = false := by
      rw [Bool.eq_false_iff]
      exact fun h => hparts ((t.settled_iff.mp h) o ho)
    show s.takeStop tk = s
    unfold State.takeStop
    rw [ht]
    dsimp only
    rw [hset]
    rfl
  · have hstop := State.takeStop_frozen ht hrun hset hstep
    refine ⟨fun hre hless => ?_, fun hre hless => ?_, fun hre => ?_⟩
    · rw [hstop, hre]
      exact if_pos hless
    · rw [hre, if_neg (by decide), if_neg (by rw [Bool.not_eq_true]; exact hless)] at hstop
      rw [hstop]
      exact State.frozenAt_enlist
    · rw [hre, if_pos rfl] at hstop
      have hr : (s.frozenAt tk t).team tk = some { t with run := .frozen, admitted := false } := find_put_same _ _ _
      have hrule := State.escalateReeve_rule hr
      have hpk : ((s.frozenAt tk t).pkg (pkgOf (coreOf tk))) = { s.pkg (pkgOf (coreOf tk)) with freezes := (s.pkg (pkgOf (coreOf tk))).freezes + 1 } := by
        unfold State.frozenAt
        rw [State.pkg_updPkg]
        rfl
      rw [hstop]
      obtain ⟨h1, h2, h3, h4⟩ := hrule
      rw [show pkgOfTeam tk = pkgOf (coreOf tk) from rfl, hpk] at h1 h3 h4
      refine ⟨h1, h2, fun hd => ?_, h4⟩
      obtain ⟨h31, h32⟩ := h3 hd
      refine ⟨h31, fun f u hf hne hu => h32 f u hf hne ?_⟩
      exact (find_put_other _ _ _ hne).trans hu
  · unfold State.freezeTeam Team.record Team.everyLane
    simp only [List.map_map]
    rfl

end Sys2Proof.Machine

/-! PROOFS. Barriers, bells and stage rings: arrivals, waits, and the slots of a ring (R154 to R167). -/

namespace Sys2Proof.Machine

open Host

/-! ## Words that act once -/

/-- What a word that acts once for its team answers. -/
theorem once_next {s : State} {t : Team} {i : Instr} {h : Hdr} (hi : s.IssuesOnce t i h) (body : State → Nat → Team → Act) :
    issue i h (once h body) s = .next ((body s s.cur t).finish s.cur h.z) := by
  rw [issue_next hi.1]
  unfold once
  rw [if_pos hi.2]

/-- A word that retires in a machine which holds its team as it stood leaves the team's registers alone. -/
theorem retire_ends_in {s2 : State} {tk : Nat} {t : Team} (ht : s2.team tk = some t) (hs : t.stepping = none) (z : Bool) :
    Ends (.next ((Act.retire s2).finish tk z)) s2 tk t [] :=
  ends_retire ht hs (fun _ => rfl) rfl ⟨rfl, rfl⟩ (Team.wrote_nil t)

/-- A word that acquires behind its effect. -/
theorem acquire_endsAcq (X : State) {tk : Nat} {u : Team} (hs : u.stepping = none) (sc : Nat) (z : Bool) :
    EndsAcq (.next ((Act.retire ((X.setTeam tk u).acquire (coreOf tk) sc)).finish tk z)) X tk u sc :=
  retire_ends_in (by rw [(State.flows_acquire _ _ _).team, State.team_setTeam]) hs z

/-- Behind a release that is done at once a word goes on. -/
theorem releaseThen_released {s s2 : State} {tk : Nat} {t : Team} {sc : Nat} (h : Released s tk t sc s2) (go : State → Act) :
    releaseThen s tk t sc go = go s2 := by
  obtain ⟨hquiet, rfl, hsc⟩ := h
  unfold releaseThen
  rw [hquiet]
  rcases hsc with hsc | ⟨rfl, hwait, hposted⟩
  · simp [hsc]
  · simp [hwait, hposted]

theorem Released.flows {s s2 : State} {tk : Nat} {t : Team} {sc : Nat} (h : Released s tk t sc s2) : s.Flows s2 := by
  rw [h.2.1]
  exact State.flows_release _ _ _

/-- A stop of Table 06-1 freezes the team (R47). -/
theorem stopWith_freezes {s : State} {t : Team} {i : Instr} {h : Hdr} (hi : s.Issues t i h) (sub : Nat) :
    Freezes (.next ((stopWith s h sub).finish s.cur h.z)) s t h .illegal sub :=
  fault_freezes hi sub (.inr rfl)

/-! ## Barrier words -/

/-- A map that keeps the keys, and every entry of one key, commutes with a write of that key. -/
theorem map_put_same {α : Type} (l : List (Nat × α)) {f : Nat × α → Nat × α} {a : Nat} (x : α) (hk : ∀ e, (f e).1 = e.1)
    (hf : ∀ y, f (a, y) = (a, y)) : (put l a x).map f = put (l.map f) a x := by
  have hins (m : List (Nat × α)) : (insertAt a x m).map f = insertAt a x (m.map f) := by
    induction m with
    | nil => simp [insertAt, hf]
    | cons e m ih =>
      simp only [insertAt, List.map_cons, hk]
      split
      · simp [hf]
      · rw [List.map_cons, ih]
  unfold put erase
  rw [hins, List.filter_map]
  congr 2
  exact List.filter_congr fun e _ => by simp [Function.comp, hk]

/-- What a barrier word written for a team does, and what is put in the team's place, do not meet. -/
theorem State.setTeam_setBar (s : State) (tk : Nat) (u : Team) (sh off : Nat) (w : BarWord) :
    (s.setTeam tk u).setBar (some tk) sh off w = (s.setBar (some tk) sh off w).setTeam tk u := by
  have hnote (s : State) (ls : List Loc) : (s.setTeam tk u).noteWrite (some tk) ls = (s.noteWrite (some tk) ls).setTeam tk u := by
    unfold State.noteWrite State.setTeam
    dsimp only
    rw [map_put_same]
    · intro e
      cases e.2.tryR with
      | none => rfl
      | some r => exact apply_ite Prod.fst _ _ _ |>.trans (by split <;> rfl)
    · intro y
      cases y.tryR <;> simp
  unfold State.setBar
  rw [← hnote]
  unfold State.setSpBytes State.updShare
  have hshare : (s.setTeam tk u).share sh = s.share sh := rfl
  rw [hshare]
  cases s.share sh <;> rfl

/-- Arrive of R159 as the rule says it. -/
theorem BarWord.arrive_rule (w : BarWord) (drop : Bool) : ArriveRule w (w.arrive drop) drop := by
  unfold ArriveRule BarWord.arrive
  dsimp only
  split
  case isTrue h => rw [if_neg (by omega)]
  case isFalse h => rw [if_pos (by omega)]

/-- What holds of the word that has arrived holds of one that the rule allows. -/
theorem BarWord.exists_arrived (w : BarWord) (drop : Bool) {P : BarWord → Prop} (hP : P (w.arrive drop)) : ∃ x, ArriveRule w x drop ∧ P x :=
  ⟨_, w.arrive_rule drop, hP⟩

/-- The same for a drop, beside a pending arrival or with one. -/
theorem BarWord.exists_dropped (w : BarWord) (b : Bool) {P : BarWord → Prop} (hP : P (if b then { w with drops := w.drops + 1 } else w.arrive true)) :
    ∃ x, (if b then x = { w with drops := w.drops + 1 } else ArriveRule w x true) ∧ P x := by
  cases b
  · exact ⟨_, w.arrive_rule true, hP⟩
  · exact ⟨_, rfl, hP⟩

theorem BarWord.ofNat_toNat {w : BarWord} (he : w.expected < 2 ^ 16) (ha : w.arrived < 2 ^ 16) (hd : w.drops < 2 ^ 16) :
    BarWord.ofNat w.toNat = w ∧ w.toNat < 256 ^ 8 := by
  obtain ⟨e, a, d, p⟩ := w
  dsimp only at he ha hd
  norm_num at he ha hd
  unfold BarWord.ofNat BarWord.toNat
  dsimp only
  rw [Nat.mod_eq_of_lt he, Nat.mod_eq_of_lt ha, Nat.mod_eq_of_lt hd]
  cases p
  · refine ⟨?_, by simp; omega⟩
    have : Nat.testBit (e + 2 ^ 16 * a + 2 ^ 32 * d) 48 = false := Nat.testBit_lt_two_pow (by omega)
    simp only [Bool.false_eq_true, if_false, Nat.add_zero, this, BarWord.mk.injEq, and_true]
    omega
  · refine ⟨?_, by simp; omega⟩
    have : Nat.testBit (e + 2 ^ 16 * a + 2 ^ 32 * d + 2 ^ 48) 48 = true := by
      rw [Nat.add_comm, Nat.testBit_two_pow_add_eq, Nat.testBit_lt_two_pow (by omega)]
      rfl
    simp only [if_true, this, BarWord.mk.injEq, and_true]
    omega

theorem State.spByte_noteWrite (s : State) (by_ : Option Nat) (ls : List Loc) (q o : Nat) : (s.noteWrite by_ ls).spByte q o = s.spByte q o := rfl

/-- A barrier word written is the word read, and every other byte stays. -/
theorem State.barWord_setBar (s : State) (by_ : Option Nat) (sh off : Nat) {w : BarWord} (hsh : (s.share sh).isSome) (he : w.expected < 2 ^ 16)
    (ha : w.arrived < 2 ^ 16) (hd : w.drops < 2 ^ 16) : (s.setBar by_ sh off w).barWord sh off = w ∧
      ∀ q o, ¬(q = sh ∧ off ≤ o ∧ o < off + 8) → (s.setBar by_ sh off w).spByte q o = s.spByte q o := by
  obtain ⟨hback, hlt⟩ := BarWord.ofNat_toNat he ha hd
  have hbytes (q o : Nat) := spByte_setSpBytes s sh off (bytesOf 8 w.toNat) q o hsh
  rw [length_bytesOf] at hbytes
  refine ⟨?_, fun q o hq => (hbytes q o).trans (if_neg hq)⟩
  have hread : (List.range 8).map (fun i => (s.setBar by_ sh off w).spByte sh (off + i)) = bytesOf 8 w.toNat := by
    refine List.ext_getElem (by simp [length_bytesOf]) fun i hi _ => ?_
    have hi8 : i < 8 := by simpa using hi
    rw [List.getElem_map, List.getElem_range]
    refine (hbytes sh (off + i)).trans ?_
    rw [if_pos ⟨rfl, by omega, by omega⟩, Nat.add_sub_cancel_left, List.getD_eq_getElem _ _ (by rw [length_bytesOf]; exact hi8)]
  unfold State.barWord State.spNat
  rw [hread, natOfBytes_bytesOf, Nat.mod_eq_of_lt hlt, hback]

/-- A word of memory has its fields in range. -/
theorem State.barWord_lt (s : State) (sh off : Nat) :
    (s.barWord sh off).expected < 2 ^ 16 ∧ (s.barWord sh off).arrived < 2 ^ 16 ∧ (s.barWord sh off).drops < 2 ^ 16 := by
  refine ⟨?_, ?_, ?_⟩ <;> exact Nat.mod_lt _ (by decide)

/-- An arrival keeps the fields in range. -/
theorem BarWord.arrive_lt {w : BarWord} (he : w.expected < 2 ^ 16) (hd : w.drops < 2 ^ 16) :
    (w.arrive false).expected < 2 ^ 16 ∧ (w.arrive false).arrived < 2 ^ 16 ∧ (w.arrive false).drops < 2 ^ 16 := by
  unfold BarWord.arrive
  dsimp only
  split
  · refine ⟨?_, ?_, ?_⟩ <;> dsimp only <;> omega
  · refine ⟨he, ?_, hd⟩
    dsimp only
    omega

/-! ## Registrations -/

/-- The registrations of a team at other barriers. -/
def Team.otherRegs (t : Team) (sh off : Nat) : List Registration := t.regs.filter fun r => !(r.sh == sh && r.off == off)

/-- The team with one registration at a barrier. -/
theorem Team.setReg_eq (t : Team) (r : Registration) : t.setReg r = { t with regs := t.otherRegs r.sh r.off ++ [r] } := rfl

theorem Team.find_otherRegs (t : Team) (sh off : Nat) : (t.otherRegs sh off).find? (fun r => r.sh == sh && r.off == off) = none := by
  rw [List.find?_eq_none]
  intro r hr
  have := (List.mem_filter.mp hr).2
  simpa [imp_iff_not_or] using this

/-- The registration just set is the one found. -/
theorem Team.regOf_setReg (t : Team) (sh off : Nat) (b ph : Bool) : (t.setReg ⟨sh, off, b, ph⟩).regOf sh off = some ⟨sh, off, b, ph⟩ := by
  show (t.otherRegs sh off ++ [(⟨sh, off, b, ph⟩ : Registration)]).find? _ = _
  rw [List.find?_append, Team.find_otherRegs]
  simp

theorem Team.setReg_setReg (t : Team) (sh off : Nat) (b c ph : Bool) :
    (t.setReg ⟨sh, off, b, ph⟩).setReg ⟨sh, off, c, ph⟩ = t.setReg ⟨sh, off, c, ph⟩ := by
  have hothers : (t.setReg ⟨sh, off, b, ph⟩).otherRegs sh off = t.otherRegs sh off := by
    show (t.otherRegs sh off ++ [(⟨sh, off, b, ph⟩ : Registration)]).filter _ = _
    simp [List.filter_append, Team.otherRegs]
  rw [Team.setReg_eq, hothers]
  rfl

/-- The registration found at a barrier names it. -/
theorem Team.regOf_names {t : Team} {sh off : Nat} {r : Registration} (h : t.regOf sh off = some r) : r = ⟨sh, off, r.pending, r.phase⟩ := by
  have := List.find?_some h
  simp only [Bool.and_eq_true, beq_iff_eq] at this
  obtain ⟨rfl, rfl⟩ := this
  rfl

/-- An arrival is made where no arrival is pending and there is room for a registration (R159). -/
theorem Team.arriveBad_none {t : Team} {sh off : Nat} (hp : ∀ r, t.regOf sh off = some r → r.pending = false)
    (hroom : t.regOf sh off = none → t.regs.length < 8) : t.arriveBad sh off = none := by
  unfold Team.arriveBad
  cases hr : t.regOf sh off with
  | none => simp [Nat.not_le.mpr (hroom hr)]
  | some r => simp [hp r hr]

/-- An arrival for a team that is there. -/
theorem State.arriveFor_eq {s : State} {tk : Nat} {t : Team} (ht : s.team tk = some t) (sh off : Nat) :
    s.arriveFor tk sh off = (s.setBar (some tk) sh off ((s.barWord sh off).arrive false)).setTeam tk
      (t.setReg ⟨sh, off, true, (s.barWord sh off).phase⟩) := by
  unfold State.arriveFor
  dsimp only
  rw [State.updTeam_some ht, State.setTeam_setBar]

/-- A drop for a team that is there. -/
theorem State.dropFor_eq {s : State} {tk : Nat} {t : Team} (ht : s.team tk = some t) (sh off : Nat) :
    s.dropFor tk sh off = (s.setBar (some tk) sh off (if (t.regOf sh off).any (·.pending) then
      { s.barWord sh off with drops := (s.barWord sh off).drops + 1 } else (s.barWord sh off).arrive true)).setTeam tk (t.dropRegOf sh off) := by
  unfold State.dropFor
  dsimp only
  rw [State.updTeam_some ht, State.setTeam_setBar, ht]
  rfl

/-! ## Waits -/

/-- A team that a place names goes on there. -/
theorem atBarrier_named {s : State} {h : Hdr} {t : Team} {f : SF} {sh off : Nat} (hn : s.checkSp t (barAddr f t) 8 true = .ok (sh, off))
    (go : Nat → Nat → Act) : atBarrier s h t f go = go sh off := by
  unfold atBarrier
  show (match s.checkSp t (barAddr f t) 8 true with | .error c => _ | .ok (sh, off) => go sh off) = _
  rw [hn]

/-- A word that has parked waits where it waited, another at the place it names. -/
theorem atWait_at {s : State} {h : Hdr} {t : Team} {f : SF} {sh off : Nat}
    (hn : match t.latch with
      | some [a, b] => a.toNat = sh ∧ b.toNat = off
      | _ => s.checkSp t (barAddr f t) 8 true = .ok (sh, off)) (go : Nat → Nat → Act) : atWait s h t f go = go sh off := by
  unfold atWait
  match hl : t.latch with
  | some [a, b] =>
    rw [hl] at hn
    obtain ⟨rfl, rfl⟩ := hn
    rfl
  | none | some [] | some [_] | some (_ :: _ :: _ :: _) =>
    rw [hl] at hn
    exact atBarrier_named hn go

/-- BAR.WAIT on a pending registration, while the phase is the registered one (R159). -/
theorem barrierWait_waits {s : State} {h : Hdr} {tk : Nat} {t : Team} {sh off : Nat} {r : Registration} (hr : t.regOf sh off = some r)
    (hp : r.pending = true) (sc : Nat) (hph : (s.barWord sh off).phase = r.phase) :
    barrierWait s h tk t sh off sc =
      .park (s.setTeam tk { t with latch := some [BitVec.ofNat 64 sh, BitVec.ofNat 64 off] }) (.barrier sh off r.phase) := by
  unfold barrierWait
  simp [hr, hp, hph]

/-- BAR.WAIT on a pending registration, behind the phase (R159). -/
theorem barrierWait_passes {s : State} {h : Hdr} {tk : Nat} {t : Team} {sh off : Nat} {r : Registration} (hr : t.regOf sh off = some r)
    (hp : r.pending = true) (sc : Nat) (hph : (s.barWord sh off).phase ≠ r.phase) :
    barrierWait s h tk t sh off sc =
      .retire ((s.setTeam tk { t.setReg { r with pending := false } with syncMark := none }).acquire (coreOf tk) sc) := by
  unfold barrierWait
  simp [hr, hp, hph]

/-- BAR.WAIT without a pending arrival (R159). -/
theorem barrierWait_stops {s : State} {h : Hdr} {tk : Nat} {t : Team} {sh off : Nat} (hp : ∀ r, t.regOf sh off = some r → r.pending = false)
    (sc : Nat) : barrierWait s h tk t sh off sc = stopWith s h 0x12 := by
  unfold barrierWait
  cases hr : t.regOf sh off with
  | none => rfl
  | some r => simp [hp r hr]

section Waits

variable {s : State} {h : Hdr} {tk : Nat} {t : Team} {sh off : Nat} {r : Registration}

/-- A wait behind the phase completes with an acquire. -/
theorem barrierWait_endsAcq (hs : t.stepping = none) (hr : t.regOf sh off = some r) (hp : r.pending = true) (sc : Nat) (z : Bool)
    (hph : (s.barWord sh off).phase ≠ r.phase) :
    EndsAcq (.next ((barrierWait s h tk t sh off sc).finish tk z)) s tk
      { t with regs := t.otherRegs sh off ++ [⟨sh, off, false, r.phase⟩], syncMark := none } sc := by
  rw [barrierWait_passes hr hp sc hph]
  have hreg : t.setReg { r with pending := false } = { t with regs := t.otherRegs sh off ++ [⟨sh, off, false, r.phase⟩] } := by
    rw [Team.regOf_names hr]
    rfl
  rw [hreg]
  exact acquire_endsAcq s (u := { t with regs := t.otherRegs sh off ++ [⟨sh, off, false, r.phase⟩], syncMark := none }) hs sc z

/-- A wait within the phase parks. -/
theorem barrierWait_parks (hs : t.stepping = none) (hr : t.regOf sh off = some r) (hp : r.pending = true) (sc : Nat) (z : Bool)
    (hph : (s.barWord sh off).phase = r.phase) :
    Parks (.next ((barrierWait s h tk t sh off sc).finish tk z)) s tk { t with latch := some [BitVec.ofNat 64 sh, BitVec.ofNat 64 off] }
      (.barrier sh off r.phase) := by
  rw [barrierWait_waits hr hp sc hph]
  exact setTeam_park_parks (u := { t with latch := some [BitVec.ofNat 64 sh, BitVec.ofNat 64 off] }) hs _ z

end Waits

/-- What stands in the team's place does not tell where a wait ends. -/
theorem EndsAcq.of_setTeam {r : Res} {X : State} {tk : Nat} {u t : Team} {sc : Nat} (h : EndsAcq r (X.setTeam tk u) tk t sc) :
    EndsAcq r X tk t sc := by
  unfold EndsAcq at h ⊢
  rwa [State.setTeam_setTeam] at h

theorem Parks.of_setTeam {r : Res} {X : State} {tk : Nat} {u t : Team} {c : Cond} (h : Parks r (X.setTeam tk u) tk t c) : Parks r X tk t c := by
  unfold Parks at h ⊢
  rwa [State.setTeam_setTeam] at h

/-! ## The words of row 0x13 -/

section Barriers

variable {h : Hdr} {f : SF} {s : State} {t : Team} {sh off : Nat}

/-- BAR.INIT (R157). -/
theorem barInit_ends (hi : s.IssuesOnce t (.barInit h f) h) (hn : s.checkSp t (barAddr f t) 8 true = .ok (sh, off)) :
    Ends (exec (.barInit h f) s) (s.setBar (some s.cur) sh off ⟨(t.rs f.s2.toNat).toNat % 2 ^ 16, 0, 0, false⟩) s.cur t [] := by
  show Ends (issue (.barInit h f) h _ s) _ _ _ _
  rw [once_next hi, atBarrier_named hn]
  refine retire_ends_in ?_ hi.1.2.2.2.2 h.z
  simp [State.team_setBar, hi.1.1]

/-- An arrival for the team behind its release. -/
theorem team_barred {s2 : State} (hteam : s.team s.cur = some t) (hrel : s.Flows s2) (w : BarWord) :
    (s2.setBar (some s.cur) sh off w).team s.cur = some t := by
  simp [State.team_setBar, hrel.team, hteam]

/-- BAR.ARRIVE (R159). -/
theorem barArrive_ends (hi : s.IssuesOnce t (.barArrive h f) h) (hn : s.checkSp t (barAddr f t) 8 true = .ok (sh, off))
    (hbad : t.arriveBad sh off = none) {s2 : State} (hrel : Released s s.cur t (syncScope f) s2) :
    Ends (exec (.barArrive h f) s) (s2.setBar (some s.cur) sh off ((s2.barWord sh off).arrive false)) s.cur
      { t with regs := t.otherRegs sh off ++ [⟨sh, off, true, (s2.barWord sh off).phase⟩] } [] := by
  show Ends (issue (.barArrive h f) h _ s) _ _ _ _
  have hteam : s2.team s.cur = some t := by rw [hrel.flows.team, hi.1.1]
  rw [once_next hi, atBarrier_named hn]
  rw [hbad, releaseThen_released hrel, State.arriveFor_eq hteam]
  exact setTeam_retire_ends _ (u := { t with regs := t.otherRegs sh off ++ [⟨sh, off, true, (s2.barWord sh off).phase⟩] }) hi.1.2.2.2.2 h.z

/-- BAR.ARRIVE that may not be made stops the team (Table 06-1). -/
theorem barArrive_stops (hi : s.IssuesOnce t (.barArrive h f) h) (hn : s.checkSp t (barAddr f t) 8 true = .ok (sh, off)) {sub : Nat}
    (hbad : t.arriveBad sh off = some sub) : Freezes (exec (.barArrive h f) s) s t h .illegal sub := by
  show Freezes (issue (.barArrive h f) h _ s) _ _ _ _ _
  rw [once_next hi, atBarrier_named hn]
  rw [hbad]
  exact stopWith_freezes hi.1 sub

/-- BAR.WAIT is the wait at its place. -/
theorem exec_barWait (hi : s.IssuesOnce t (.barWait h f) h)
    (hn : match t.latch with
      | some [a, b] => a.toNat = sh ∧ b.toNat = off
      | _ => s.checkSp t (barAddr f t) 8 true = .ok (sh, off)) :
    exec (.barWait h f) s = .next ((barrierWait s h s.cur t sh off (syncScope f)).finish s.cur h.z) := by
  show issue (.barWait h f) h _ s = _
  rw [once_next hi, atWait_at hn]

/-- BAR.SYNC whose arrival has been made is the wait at its place (R374). -/
theorem exec_barSync_marked (hi : s.IssuesOnce t (.barSync h f) h)
    (hn : match t.latch with
      | some [a, b] => a.toNat = sh ∧ b.toNat = off
      | _ => s.checkSp t (barAddr f t) 8 true = .ok (sh, off)) (hm : t.syncMark = some t.here) :
    exec (.barSync h f) s = .next ((barrierWait s h s.cur t sh off (syncScope f)).finish s.cur h.z) := by
  show issue (.barSync h f) h _ s = _
  rw [once_next hi, atWait_at hn, if_pos hm]

/-- The team of a BAR.SYNC behind its arrival. -/
def Team.synced (t : Team) (sh off : Nat) (ph : Bool) : Team :=
  { t with regs := t.otherRegs sh off ++ [⟨sh, off, true, ph⟩], syncMark := some t.here }

/-- The registration of a BAR.SYNC behind its arrival. -/
theorem Team.regOf_synced (t : Team) (sh off : Nat) (ph : Bool) : (t.synced sh off ph).regOf sh off = some ⟨sh, off, true, ph⟩ :=
  t.regOf_setReg sh off true ph

theorem Team.otherRegs_synced (t : Team) (sh off : Nat) (ph : Bool) : (t.synced sh off ph).otherRegs sh off = t.otherRegs sh off := by
  show (t.otherRegs sh off ++ [(⟨sh, off, true, ph⟩ : Registration)]).filter _ = _
  simp [List.filter_append, Team.otherRegs]

/-- The wait of a BAR.SYNC behind its arrival, within the phase. -/
theorem wait_synced_parks {X : State} {tk : Nat} {ph : Bool} (hs : t.stepping = none) (sc : Nat) (z : Bool) (hph : (X.barWord sh off).phase = ph) :
    Parks (.next ((barrierWait (X.setTeam tk (t.synced sh off ph)) h tk (t.synced sh off ph) sh off sc).finish tk z)) X tk
      { t.synced sh off ph with latch := some [BitVec.ofNat 64 sh, BitVec.ofNat 64 off] } (.barrier sh off ph) :=
  Parks.of_setTeam (u := t.synced sh off ph)
    (barrierWait_parks (s := X.setTeam tk (t.synced sh off ph)) (t := t.synced sh off ph) hs (t.regOf_synced sh off ph) rfl sc z hph)

/-- The same behind the phase. -/
theorem wait_synced_endsAcq {X : State} {tk : Nat} {ph : Bool} (hs : t.stepping = none) (sc : Nat) (z : Bool) (hph : (X.barWord sh off).phase ≠ ph) :
    EndsAcq (.next ((barrierWait (X.setTeam tk (t.synced sh off ph)) h tk (t.synced sh off ph) sh off sc).finish tk z)) X tk
      { t with regs := t.otherRegs sh off ++ [⟨sh, off, false, ph⟩], syncMark := none } sc := by
  have hw := EndsAcq.of_setTeam (u := t.synced sh off ph)
    (barrierWait_endsAcq (h := h) (s := X.setTeam tk (t.synced sh off ph)) (t := t.synced sh off ph) hs (t.regOf_synced sh off ph) rfl sc z hph)
  rw [Team.otherRegs_synced] at hw
  exact hw

/-- BAR.SYNC is its arrival and then the wait (R159, R374). -/
theorem exec_barSync (hi : s.IssuesOnce t (.barSync h f) h)
    (hn : match t.latch with
      | some [a, b] => a.toNat = sh ∧ b.toNat = off
      | _ => s.checkSp t (barAddr f t) 8 true = .ok (sh, off)) (hm : t.syncMark ≠ some t.here) (hbad : t.arriveBad sh off = none) {s2 : State}
    (hrel : Released s s.cur t (syncScope f) s2) :
    exec (.barSync h f) s = .next ((barrierWait
      ((s2.setBar (some s.cur) sh off ((s2.barWord sh off).arrive false)).setTeam s.cur (t.synced sh off (s2.barWord sh off).phase)) h s.cur
      (t.synced sh off (s2.barWord sh off).phase) sh off (syncScope f)).finish s.cur h.z) := by
  show issue (.barSync h f) h _ s = _
  have hteam : s2.team s.cur = some t := by rw [hrel.flows.team, hi.1.1]
  rw [once_next hi, atWait_at hn, if_neg hm, hbad]
  dsimp only
  rw [releaseThen_released hrel, State.arriveFor_eq hteam, State.updTeam_setTeam, State.team_setTeam]
  rfl

/-- BAR.DROP (R159). -/
theorem barDrop_ends (hi : s.IssuesOnce t (.barDrop h f) h) (hn : s.checkSp t (barAddr f t) 8 true = .ok (sh, off)) {s2 : State}
    (hrel : Released s s.cur t (syncScope f) s2) :
    Ends (exec (.barDrop h f) s) (s2.setBar (some s.cur) sh off (if (t.regOf sh off).any (·.pending) then
      { s2.barWord sh off with drops := (s2.barWord sh off).drops + 1 } else (s2.barWord sh off).arrive true)) s.cur
      { t with regs := t.otherRegs sh off } [] := by
  show Ends (issue (.barDrop h f) h _ s) _ _ _ _
  have hteam : s2.team s.cur = some t := by rw [hrel.flows.team, hi.1.1]
  rw [once_next hi, atBarrier_named hn, releaseThen_released hrel, State.dropFor_eq hteam]
  exact setTeam_retire_ends _ (u := { t with regs := t.otherRegs sh off }) hi.1.2.2.2.2 h.z

end Barriers

/-- Settles O24: a release that is done at once goes on with the arrival; what a wait answers turns on the registration and the phase alone. -/
theorem barriers : Obligations.Barriers := by
  unfold Obligations.Barriers
  intro h f s t sh off
  dsimp only
  have hsc : syncScope f = min (f.sub.toNat % 8) 2 := rfl
  rw [← hsc]
  refine ⟨fun by_ w hsh he ha hd => State.barWord_setBar s by_ sh off hsh he ha hd, barInit_ends, ?_, ?_, ?_, ?_, ?_⟩
  case refine_1 =>
    intro hi hn
    refine ⟨fun r hr hp => barArrive_stops hi hn ?_, fun hr hl => barArrive_stops hi hn ?_, fun hp hroom s2 hrel =>
      BarWord.exists_arrived _ _ (barArrive_ends hi hn (Team.arriveBad_none hp hroom) hrel)⟩
    · have hreg : t.regOf sh off = some r := hr
      simp [Team.arriveBad, hreg, hp]
    · have hreg : t.regOf sh off = none := hr
      simp [Team.arriveBad, hreg, hl]
  case refine_2 =>
    intro hi hn
    rw [exec_barWait hi hn]
    refine ⟨fun hp => ?_, fun r hr hp => ⟨barrierWait_parks hi.1.2.2.2.2 hr hp _ h.z, barrierWait_endsAcq hi.1.2.2.2.2 hr hp _ h.z⟩⟩
    rw [barrierWait_stops hp]
    exact stopWith_freezes hi.1 _
  case refine_3 =>
    intro hi hn hm hp hroom s2 hrel hsh
    obtain ⟨he, -, hd⟩ := s2.barWord_lt sh off
    obtain ⟨he', ha', hd'⟩ := BarWord.arrive_lt he hd
    have hback := (State.barWord_setBar s2 (some s.cur) sh off hsh he' ha' hd').1
    refine BarWord.exists_arrived _ _ ⟨fun hph => ?_, fun hph => ?_⟩
    · rw [exec_barSync hi hn hm (Team.arriveBad_none hp hroom) hrel]
      exact wait_synced_parks hi.1.2.2.2.2 _ h.z ((congrArg BarWord.phase hback).trans hph)
    · rw [exec_barSync hi hn hm (Team.arriveBad_none hp hroom) hrel]
      exact wait_synced_endsAcq hi.1.2.2.2.2 _ h.z fun hc => hph ((congrArg BarWord.phase hback).symm.trans hc)
  case refine_4 =>
    intro hi hn hm r hr hp
    rw [exec_barSync_marked hi hn hm]
    exact ⟨barrierWait_endsAcq hi.1.2.2.2.2 hr hp _ h.z, barrierWait_parks hi.1.2.2.2.2 hr hp _ h.z⟩
  case refine_5 =>
    intro hi hn s2 hrel
    exact BarWord.exists_dropped _ _ (barDrop_ends hi hn hrel)

/-! ## Results of long latency in s registers -/

/-- One result of long latency in an s register. -/
theorem Team.wroteLong_longS (t : Team) (n : Nat) (x : Word) : t.WroteLong (t.longS n x) [(.s n, 0, x)] := by
  apply Team.wroteLong_writeLong
  · intro q hq
    rw [List.mem_singleton.mp hq]
    rfl
  · simp only [List.map_cons, List.map_nil, Part.val_ofVal_s]
    rfl
  · simp

theorem lastWrite_append (ws ws' : List (RegId × Nat × Word)) (r : RegId) (L : Nat) :
    lastWrite (ws ++ ws') r L = (lastWrite ws' r L).or (lastWrite ws r L) := by
  unfold lastWrite
  rw [List.filter_append, List.getLast?_append]
  cases (ws'.filter _).getLast? <;> rfl

/-- Results of one word after those of another. -/
theorem Team.WroteLong.append {t u v : Team} {ws ws' : List (RegId × Nat × Word)} (h : t.WroteLong u ws) (h' : u.WroteLong v ws') :
    t.WroteLong v (ws ++ ws') := by
  intro r L hp
  obtain ⟨hend, hdue⟩ := h r L hp
  obtain ⟨hend', hdue'⟩ := h' r L hp
  refine ⟨hend'.trans hend, ?_⟩
  rw [lastWrite_append]
  cases hw : lastWrite ws' r L with
  | some x =>
    rw [hw] at hdue'
    exact hdue'
  | none =>
    rw [hw] at hdue'
    dsimp only at hdue'
    rw [Option.none_or, hdue']
    exact hdue

/-- A word that answers in an s register behind its effect. -/
theorem longS_endsLong (X : State) {tk : Nat} {t : Team} (hs : t.stepping = none) (n : Nat) (x : Word) (z : Bool) :
    EndsLong (.next ((Act.retire (X.setTeam tk (t.longS n x))).finish tk z)) X tk t [(.s n, 0, x)] :=
  longS_ends n x (State.team_setTeam _ _ _) hs fun _ => State.setTeam_setTeam _ _ _ _

/-- A word with results of long latency that acquires behind its effect. -/
theorem acquire_endsLongAcq (X : State) {tk : Nat} {t u : Team} {ws : List (RegId × Nat × Word)} (hs : u.stepping = none) (hk : t.Kept u)
    (hw : t.WroteLong u ws) (hn : u.pc = t.pc ∧ u.word = t.word) (sc : Nat) (z : Bool) :
    EndsLongAcq (.next ((Act.retire ((X.setTeam tk u).acquire (coreOf tk) sc)).finish tk z)) X tk t ws sc :=
  ⟨u, hk, hw, hn.1, hn.2, acquire_endsAcq X hs sc z⟩

/-- A word that answers in an s register and acquires. -/
theorem longS_endsLongAcq (X : State) {tk : Nat} {t : Team} (hs : t.stepping = none) (n : Nat) (x : Word) (sc : Nat) (z : Bool) :
    EndsLongAcq (.next ((Act.retire ((X.setTeam tk (t.longS n x)).acquire (coreOf tk) sc)).finish tk z)) X tk t [(.s n, 0, x)] sc :=
  acquire_endsLongAcq X (t := t) (u := t.longS n x) hs rfl (t.wroteLong_longS n x) ⟨rfl, rfl⟩ sc z

/-- A word that parks in a machine which holds its team as it stood. -/
theorem park_parks_in {s2 : State} {tk : Nat} {t : Team} (ht : s2.team tk = some t) (hs : t.stepping = none) (c : Cond) (z : Bool) :
    Parks (.next ((Act.park s2 c).finish tk z)) s2 tk t c := by
  simp only [Parks, Act.finish, ht, hs, Option.isSome_none, Bool.false_and, Bool.false_eq_true, if_false]

/-! ## Bells -/

/-- BellArrive of R163 as the rule says it. -/
theorem Bell.arrive_rule (b : Bell) : BellRule b b.arrive := by
  unfold BellRule Bell.arrive
  split
  case isTrue h => rw [if_neg (by omega)]
  case isFalse h => rw [if_pos (by omega)]

section Bells

variable {h : Hdr} {f : SF} {s : State} {t : Team} {x : Share} {m : Stream}

/-- A bell of a share's stream. -/
theorem State.bell_eq (hx : s.share t.share = some x) (hm : x.stream = some m) (n : Nat) : s.bell t.share n = m.bells.getD n {} := by
  unfold State.bell
  rw [hx]
  simp [hm]

/-- A bell of a share's stream that takes a value. -/
theorem State.setBell_eq (hx : s.share t.share = some x) (hm : x.stream = some m) (n : Nat) (b : Bell) :
    s.setBell t.share n b = s.setShare t.share { x with stream := some { m with bells := m.bells.set n b } } := by
  unfold State.setBell
  rw [State.updShare_some hx, hm]
  rfl

/-- An arrival at a bell. -/
theorem State.bellArrive_eq (hx : s.share t.share = some x) (hm : x.stream = some m) (n : Nat) :
    s.bellArrive t.share n = s.setBell t.share n (s.bell t.share n).arrive := by
  rw [State.setBell_eq hx hm, State.bell_eq hx hm]
  unfold State.bellArrive
  rw [State.updShare_some hx, hm]
  rfl

theorem State.team_setBell (s : State) (sh n : Nat) (b : Bell) (tk : Nat) : (s.setBell sh n b).team tk = s.team tk := by
  unfold State.setBell State.team
  rw [State.updShare_teams]

/-- BELL.RING (R163). -/
theorem bellRing_ends (hx : s.share t.share = some x) (hm : x.stream = some m) (hi : s.IssuesOnce t (.bellRing h f) h) {s2 : State}
    (hrel : Released s s.cur t (f.sub.toNat % 8) s2) :
    Ends (exec (.bellRing h f) s) (s2.setBell t.share (bellNo f) (s.bell t.share (bellNo f)).arrive) s.cur t [] := by
  show Ends (issue (.bellRing h f) h _ s) _ _ _ _
  have hx2 : s2.share t.share = some x := by rw [hrel.flows.share, hx]
  rw [once_next hi, releaseThen_released hrel, State.bellArrive_eq hx2 hm, hrel.flows.bell]
  refine retire_ends_in ?_ hi.1.2.2.2.2 h.z
  rw [State.team_setBell, hrel.flows.team, hi.1.1]

/-- BELL.RING.set (R163). -/
theorem bellRingSet_ends (hx : s.share t.share = some x) (hm : x.stream = some m) (hi : s.IssuesOnce t (.bellRingSet h f) h) :
    Ends (exec (.bellRingSet h f) s) (s.setBell t.share (bellNo f) ⟨f.imm.toNat, 0, (s.bell t.share (bellNo f)).phase⟩) s.cur t [] := by
  show Ends (issue (.bellRingSet h f) h _ s) _ _ _ _
  rw [once_next hi, State.setBell_eq hx hm, State.bell_eq hx hm, State.updShare_some hx, hm]
  refine retire_ends_in ?_ hi.1.2.2.2.2 h.z
  exact hi.1.1

/-- Where a bell's phase is the one seen, it is not ready. -/
theorem State.bellReady_iff (s : State) (t : Team) (n : Nat) : s.bellReady t n = true ↔ (s.bell t.share n).phase ≠ t.seen.getLsbD n := by
  unfold State.bellReady
  simp

/-- The team that has seen a bell differs in SEEN alone, and there in that bell's bit. -/
theorem State.exists_bellSeen (s : State) (t : Team) {n : Nat} (hn : n < 16) :
    ∃ v : BitVec 16, v.getLsbD n = (s.bell t.share n).phase ∧ (∀ j, j ≠ n → v.getLsbD j = t.seen.getLsbD j) ∧
      s.bellSeen t [n] = { t with seen := v } := by
  have hbit (j : Nat) (hj : j < 16) := bellSeen_getLsbD s t [n] (by simpa using hn) j hj
  refine ⟨(s.bellSeen t [n]).seen, ?_, fun j hj => ?_, rfl⟩
  · rw [hbit n hn]
    simp
  · by_cases hlt : j < 16
    · rw [hbit j hlt]
      simp [hj]
    · rw [BitVec.getLsbD_of_ge _ _ (by omega), BitVec.getLsbD_of_ge _ _ (by omega)]

theorem bellNo_lt (f : SF) : bellNo f < 16 := Nat.mod_lt _ (by decide)

/-- BELL.WAIT (R164). -/
theorem bellWait_rule (hi : s.IssuesOnce t (.bellWait h f) h) :
    ((s.bell t.share (bellNo f)).phase = t.seen.getLsbD (bellNo f) → Parks (exec (.bellWait h f) s) s s.cur t (.bell (bellNo f))) ∧
    ((s.bell t.share (bellNo f)).phase ≠ t.seen.getLsbD (bellNo f) → ∃ v : BitVec 16, v.getLsbD (bellNo f) = (s.bell t.share (bellNo f)).phase ∧
      (∀ j, j ≠ bellNo f → v.getLsbD j = t.seen.getLsbD j) ∧
      EndsAcq (exec (.bellWait h f) s) s s.cur { t with seen := v } (f.sub.toNat % 8)) := by
  show (_ → Parks (issue (.bellWait h f) h _ s) _ _ _ _) ∧ (_ → ∃ v, _ ∧ _ ∧ EndsAcq (issue (.bellWait h f) h _ s) _ _ _ _)
  rw [once_next hi]
  refine ⟨fun hph => ?_, fun hph => ?_⟩
  · rw [if_pos (by simp [State.bellReady, hph])]
    exact park_parks hi.1 _
  · rw [if_neg (by simp [State.bellReady, hph])]
    obtain ⟨v, hv, hother, hseen⟩ := s.exists_bellSeen t (bellNo_lt f)
    refine ⟨v, hv, hother, ?_⟩
    rw [hseen]
    exact acquire_endsAcq s (u := { t with seen := v }) hi.1.2.2.2.2 _ h.z

/-- The bell's state word (Table 06-5). -/
theorem bellWord_toNat {b : Bell} (seen got : Bool) (he : b.expect < 2 ^ 16) (hc : b.count < 2 ^ 16) :
    (BitVec.ofNat 64 (bellWord b seen got)).toNat =
      b.expect + 2 ^ 16 * b.count + 2 ^ 32 * b.phase.toNat + 2 ^ 33 * seen.toNat + 2 ^ 34 * got.toNat := by
  have hw : bellWord b seen got = b.expect + 2 ^ 16 * b.count + 2 ^ 32 * b.phase.toNat + 2 ^ 33 * seen.toNat + 2 ^ 34 * got.toNat := by
    unfold bellWord
    rw [Nat.mod_eq_of_lt (by omega), Nat.mod_eq_of_lt (a := b.count) (by omega)]
    cases b.phase <;> cases seen <;> cases got <;> rfl
  have := b.phase.toNat_lt
  have := seen.toNat_lt
  have := got.toNat_lt
  rw [BitVec.toNat_ofNat, hw, Nat.mod_eq_of_lt (by omega)]

/-- BELL.WAIT.nb (R164). -/
theorem bellWaitNb_rule (hi : s.IssuesOnce t (.bellWaitNb h f) h) (he : (s.bell t.share (bellNo f)).expect < 2 ^ 16)
    (hc : (s.bell t.share (bellNo f)).count < 2 ^ 16) : ∃ w : Word,
    w.toNat = (s.bell t.share (bellNo f)).expect + 2 ^ 16 * (s.bell t.share (bellNo f)).count + 2 ^ 32 * (s.bell t.share (bellNo f)).phase.toNat +
      2 ^ 33 * (t.seen.getLsbD (bellNo f)).toNat + 2 ^ 34 * ((s.bell t.share (bellNo f)).phase ^^ t.seen.getLsbD (bellNo f)).toNat ∧
    ((s.bell t.share (bellNo f)).phase = t.seen.getLsbD (bellNo f) → EndsLong (exec (.bellWaitNb h f) s) s s.cur t [(.s f.s1.toNat, 0, w)]) ∧
    ((s.bell t.share (bellNo f)).phase ≠ t.seen.getLsbD (bellNo f) → ∃ v : BitVec 16, v.getLsbD (bellNo f) = (s.bell t.share (bellNo f)).phase ∧
      (∀ j, j ≠ bellNo f → v.getLsbD j = t.seen.getLsbD j) ∧
      EndsLongAcq (exec (.bellWaitNb h f) s) s s.cur { t with seen := v } [(.s f.s1.toNat, 0, w)] (f.sub.toNat % 8)) := by
  refine ⟨_, bellWord_toNat _ _ he hc, ?_⟩
  show (_ → EndsLong (issue (.bellWaitNb h f) h _ s) _ _ _ _) ∧ (_ → ∃ v, _ ∧ _ ∧ EndsLongAcq (issue (.bellWaitNb h f) h _ s) _ _ _ _ _)
  rw [once_next hi]
  dsimp only
  have hready : s.bellReady t (bellNo f) = ((s.bell t.share (bellNo f)).phase ^^ t.seen.getLsbD (bellNo f)) := by
    unfold State.bellReady
    cases (s.bell t.share (bellNo f)).phase <;> cases t.seen.getLsbD (bellNo f) <;> rfl
  rw [← hready]
  refine ⟨fun hph => ?_, fun hph => ?_⟩
  · have hno : s.bellReady t (bellNo f) = false := by simp [State.bellReady, hph]
    rw [hno]
    exact longS_endsLong s hi.1.2.2.2.2 _ _ h.z
  · have hyes : s.bellReady t (bellNo f) = true := (s.bellReady_iff t _).mpr hph
    rw [hyes]
    obtain ⟨v, hv, hother, hseen⟩ := s.exists_bellSeen t (bellNo_lt f)
    refine ⟨v, hv, hother, ?_⟩
    rw [hseen]
    exact longS_endsLongAcq s (t := { t with seen := v }) hi.1.2.2.2.2 _ _ _ h.z

end Bells

/-! ## Stage rings -/

theorem State.team_setRing (s : State) (sh r : Nat) (g : Ring) (tk : Nat) : (s.setRing sh r g).team tk = s.team tk := by
  unfold State.setRing State.team
  rw [State.updShare_teams]

theorem State.Flows.ring {s s' : State} (h : s.Flows s') (sh r : Nat) : s'.ring sh r = s.ring sh r := by
  unfold State.ring
  rw [h.share]

/-- The places a ring word answers its status at. -/
def nbWrites (f : SF) (x : Word) : List (RegId × Nat × Word) := if f.sub.getLsbD 3 then [(.s f.s2.toNat, 0, x)] else []

/-- A team behind a ring word's status. -/
theorem nbStatus_rule (f : SF) (t : Team) (x : Word) :
    t.Kept (nbStatus f t x) ∧ t.WroteLong (nbStatus f t x) (nbWrites f x) ∧ (nbStatus f t x).pc = t.pc ∧ (nbStatus f t x).word = t.word ∧
      (nbStatus f t x).stepping = t.stepping := by
  unfold nbStatus nbWrites
  split
  · exact ⟨rfl, t.wroteLong_longS _ _, rfl, rfl, rfl⟩
  · exact ⟨rfl, fun _ _ _ => ⟨rfl, rfl⟩, rfl, rfl, rfl⟩

section Rings

variable {h : Hdr} {f : SF} {s : State} {t : Team}

/-- A ring word of the nb form completes with its status. -/
theorem nbStatus_endsLong (X : State) {tk : Nat} (hs : t.stepping = none) (x : Word) (z : Bool) :
    EndsLong (.next ((Act.retire (X.setTeam tk (nbStatus f t x))).finish tk z)) X tk t (nbWrites f x) := by
  obtain ⟨hk, hw, hpc, hword, hstep⟩ := nbStatus_rule f t x
  exact endsLong_retire (State.team_setTeam _ _ _) (hstep.trans hs) (fun _ => State.setTeam_setTeam _ _ _ _) hk ⟨hpc, hword⟩ hw

/-- A ring word completes, and says so in the nb form. -/
theorem nbStatus_ends (X : State) {tk : Nat} (hs : t.stepping = none) (x : Word) (z : Bool) :
    let r : Res := .next ((Act.retire (X.setTeam tk (nbStatus f t x))).finish tk z)
    if f.sub.getLsbD 3 = true then EndsLong r X tk t (nbWrites f x) else Ends r X tk t [] := by
  intro r
  split
  case isTrue => exact nbStatus_endsLong X hs x z
  case isFalse hnb =>
    have hplain : nbStatus f t x = t := if_neg hnb
    have hr : r = .next ((Act.retire (X.setTeam tk t)).finish tk z) := by rw [← hplain]
    rw [hr]
    exact setTeam_retire_ends X hs z

/-- A SEND that may proceed fills the slot behind its release (R166). -/
theorem ringSend_turn (hi : s.IssuesOnce t (.ringSend h f) h) {token : Word} (htoken : token = (t.latch.bind (·.head?)).getD (t.rs f.s1.toNat))
    (hturn : ((s.ring t.share (ringNo f)).at_ (s.ring t.share (ringNo f)).tail).1 = .empty ∧ (f.sub.getLsbD 3 = true ∨
      (s.ring t.share (ringNo f)).senders = [] ∨ (s.ring t.share (ringNo f)).senders.head? = some s.cur)) {s2 : State}
    (hrel : Released s s.cur t (syncScope f) s2) :
    let g := s.ring t.share (ringNo f)
    exec (.ringSend h f) s = .next ((Act.retire ((s2.setRing t.share (ringNo f) { g with slots := g.slots.set g.tail (.full, token)
                                                                                         tail := (g.tail + 1) % g.cap
                                                                                         senders := g.senders.filter (· != s.cur) }).setTeam
      s.cur (nbStatus f t 0))).finish s.cur h.z) := by
  intro g
  show issue (.ringSend h f) h _ s = _
  rw [once_next hi]
  dsimp only
  rw [if_pos hturn, releaseThen_released hrel, hrel.flows.ring, State.updTeam_some (t := t), htoken]
  rw [State.team_setRing, hrel.flows.team, hi.1.1]

/-- A SEND that may not proceed queues and parks, or says so (R166, R167). -/
theorem ringSend_waits (hi : s.IssuesOnce t (.ringSend h f) h) {token : Word} (htoken : token = (t.latch.bind (·.head?)).getD (t.rs f.s1.toNat))
    (hturn : ¬(((s.ring t.share (ringNo f)).at_ (s.ring t.share (ringNo f)).tail).1 = .empty ∧ (f.sub.getLsbD 3 = true ∨
      (s.ring t.share (ringNo f)).senders = [] ∨ (s.ring t.share (ringNo f)).senders.head? = some s.cur))) :
    let g := s.ring t.share (ringNo f)
    (f.sub.getLsbD 3 = true → EndsLong (exec (.ringSend h f) s) s s.cur t (nbWrites f 1)) ∧
    (f.sub.getLsbD 3 = false → Parks (exec (.ringSend h f) s)
      (if s.cur ∈ g.senders then s else s.setRing t.share (ringNo f) { g with senders := g.senders ++ [s.cur] }) s.cur
      { t with latch := some [token] } (.ringSend (ringNo f))) := by
  intro g
  show (_ → EndsLong (issue (.ringSend h f) h _ s) _ _ _ _) ∧ (_ → Parks (issue (.ringSend h f) h _ s) _ _ _ _)
  rw [once_next hi]
  dsimp only
  rw [if_neg hturn]
  refine ⟨fun hnb => ?_, fun hnb => ?_⟩
  · rw [if_pos hnb]
    exact nbStatus_endsLong s hi.1.2.2.2.2 1 h.z
  · rw [if_neg (Bool.eq_false_iff.mp hnb), ← htoken]
    simp only [List.contains_iff_mem]
    exact setTeam_park_parks (u := { t with latch := some [token] }) hi.1.2.2.2.2 _ h.z

/-- A TAKE that may proceed empties the slot and acquires (R166). -/
theorem ringTake_turn (hi : s.IssuesOnce t (.ringTake h f) h)
    (hturn : ((s.ring t.share (ringNo f)).at_ (s.ring t.share (ringNo f)).head).1 = .full ∧ (f.sub.getLsbD 3 = true ∨
      (s.ring t.share (ringNo f)).takers = [] ∨ (s.ring t.share (ringNo f)).takers.head? = some s.cur)) :
    let g := s.ring t.share (ringNo f)
    EndsLongAcq (exec (.ringTake h f) s) (s.setRing t.share (ringNo f) { g with
        slots := g.slots.set g.head (.taken, (g.at_ g.head).2), head := (g.head + 1) % g.cap, takers := g.takers.filter (· != s.cur) })
      s.cur t ((.s f.s1.toNat, 0, (g.at_ g.head).2) :: nbWrites f 0) (syncScope f) := by
  intro g
  show EndsLongAcq (issue (.ringTake h f) h _ s) _ _ _ _ _
  rw [once_next hi]
  dsimp only
  rw [if_pos hturn, State.updTeam_some (t := t) (by rw [State.team_setRing, hi.1.1])]
  obtain ⟨hk, hw, hpc, hword, hstep⟩ := nbStatus_rule f (t.longS f.s1.toNat (g.at_ g.head).2) 0
  exact acquire_endsLongAcq _ (t := t) (hstep.trans hi.1.2.2.2.2) (Team.Kept.trans (u := t.longS f.s1.toNat (g.at_ g.head).2) rfl hk)
    (Team.WroteLong.append (u := t.longS f.s1.toNat (g.at_ g.head).2) (t.wroteLong_longS _ _) hw) ⟨hpc, hword⟩ _ h.z

/-- A TAKE that may not proceed queues and parks, or says so (R166, R167). -/
theorem ringTake_waits (hi : s.IssuesOnce t (.ringTake h f) h)
    (hturn : ¬(((s.ring t.share (ringNo f)).at_ (s.ring t.share (ringNo f)).head).1 = .full ∧ (f.sub.getLsbD 3 = true ∨
      (s.ring t.share (ringNo f)).takers = [] ∨ (s.ring t.share (ringNo f)).takers.head? = some s.cur))) :
    let g := s.ring t.share (ringNo f)
    (f.sub.getLsbD 3 = true → EndsLong (exec (.ringTake h f) s) s s.cur t (nbWrites f 1)) ∧
    (f.sub.getLsbD 3 = false → Parks (exec (.ringTake h f) s)
      (if s.cur ∈ g.takers then s else s.setRing t.share (ringNo f) { g with takers := g.takers ++ [s.cur] }) s.cur t (.ringTake (ringNo f))) := by
  intro g
  show (_ → EndsLong (issue (.ringTake h f) h _ s) _ _ _ _) ∧ (_ → Parks (issue (.ringTake h f) h _ s) _ _ _ _)
  rw [once_next hi]
  dsimp only
  rw [if_neg hturn]
  refine ⟨fun hnb => ?_, fun hnb => ?_⟩
  · rw [if_pos hnb]
    exact nbStatus_endsLong s hi.1.2.2.2.2 1 h.z
  · rw [if_neg (Bool.eq_false_iff.mp hnb)]
    simp only [List.contains_iff_mem]
    refine park_parks_in ?_ hi.1.2.2.2.2 _ h.z
    split
    · exact hi.1.1
    · rw [State.team_setRing, hi.1.1]

/-- RING.FREE (R166). -/
theorem ringFree_rule (hi : s.IssuesOnce t (.ringFree h f) h) :
    let g := s.ring t.share (ringNo f)
    ((g.at_ g.free).1 ≠ .taken → Freezes (exec (.ringFree h f) s) s t h .illegal 0x13) ∧
    ((g.at_ g.free).1 = .taken → ∀ s2, Released s s.cur t (syncScope f) s2 → Ends (exec (.ringFree h f) s)
      (s2.setRing t.share (ringNo f) { g with slots := g.slots.set g.free (.empty, 0), free := (g.free + 1) % g.cap }) s.cur t []) := by
  intro g
  show (_ → Freezes (issue (.ringFree h f) h _ s) _ _ _ _ _) ∧ (_ → ∀ s2, _ → Ends (issue (.ringFree h f) h _ s) _ _ _ _)
  rw [once_next hi]
  dsimp only
  refine ⟨fun hslot => ?_, fun hslot s2 hrel => ?_⟩
  · rw [if_pos hslot]
    exact stopWith_freezes hi.1 _
  · rw [if_neg (not_not_intro hslot), releaseThen_released hrel, hrel.flows.ring]
    refine retire_ends_in ?_ hi.1.2.2.2.2 h.z
    rw [State.team_setRing, hrel.flows.team, hi.1.1]

/-- The capacity form of RING.FREE (R165). -/
theorem ringFreeCap_rule (hi : s.IssuesOnce t (.ringFreeCap h f) h) :
    let g := s.ring t.share (ringNo f)
    ((∃ y ∈ g.slots, y.1 ≠ .empty) → Freezes (exec (.ringFreeCap h f) s) s t h .illegal 0x13) ∧
    ((∀ y ∈ g.slots, y.1 = .empty) → Ends (exec (.ringFreeCap h f) s) (s.setRing t.share (ringNo f) { g with
      cap := f.imm.toNat, slots := List.replicate f.imm.toNat (.empty, 0), tail := 0, head := 0, free := 0 }) s.cur t []) := by
  intro g
  show (_ → Freezes (issue (.ringFreeCap h f) h _ s) _ _ _ _ _) ∧ (_ → Ends (issue (.ringFreeCap h f) h _ s) _ _ _ _)
  rw [once_next hi]
  dsimp only
  have hany : (g.slots.any fun x => x.1 != .empty) = true ↔ ∃ y ∈ g.slots, y.1 ≠ .empty := by simp
  refine ⟨fun hfull => ?_, fun hempty => ?_⟩
  · rw [if_pos (hany.mpr hfull)]
    exact stopWith_freezes hi.1 _
  · rw [if_neg fun hc => (hany.mp hc).elim fun y hy => hy.2 (hempty y hy.1)]
    refine retire_ends_in ?_ hi.1.2.2.2.2 h.z
    rw [State.team_setRing, hi.1.1]

/-- The ring's state word counts its slots by their states (Table 06-8). -/
theorem Ring.word_eq (g : Ring) :
    let n (x : SlotState) : Nat := g.slots.countP fun y => y.1 == x
    g.word = g.cap + 2 ^ 8 * n .full + 2 ^ 16 * n .taken + 2 ^ 24 * n .empty + 2 ^ 32 * g.head + 2 ^ 36 * g.tail + 2 ^ 40 * g.free := by
  simp only [Ring.word, List.countP_eq_length_filter]

/-- RING.STAT (R167). -/
theorem ringStat_ends (hi : s.IssuesOnce t (.ringStat h f) h) :
    EndsLong (exec (.ringStat h f) s) s s.cur t [(.s f.s1.toNat, 0, BitVec.ofNat 64 (s.ring t.share (ringNo f)).word)] := by
  show EndsLong (issue (.ringStat h f) h _ s) _ _ _ _
  rw [once_next hi]
  exact longS_endsLong s hi.1.2.2.2.2 _ _ h.z

end Rings

/-- Settles O25: bells by BellArrive and the phase seen; rings by the state of the slot and the order of those that parked. -/
theorem bellsAndRings : Obligations.BellsAndRings := by
  unfold Obligations.BellsAndRings
  refine ⟨?_, ?_⟩
  · intro h f s t x m n sc b seen hx hm _
    refine ⟨fun hi s2 hrel => ⟨_, Bell.arrive_rule _, bellRing_ends hx hm hi hrel⟩, fun hi => bellRingSet_ends hx hm hi, bellWait_rule,
      bellWaitNb_rule⟩
  · intro h f s t r nb sc g slot status token
    have htoken : token = (t.latch.bind (·.head?)).getD (t.rs f.s1.toNat) := by
      show (match t.latch with | some (x :: _) => x | _ => _) = _
      rcases t.latch with _ | _ | _ <;> rfl
    refine ⟨?_, ?_, ringFree_rule, ringFreeCap_rule, ?_⟩
    · intro hi turn
      refine ⟨fun hturn s2 hrel => ?_, fun hturn => (ringSend_waits hi htoken hturn).1, fun hturn => (ringSend_waits hi htoken hturn).2⟩
      rw [ringSend_turn hi htoken hturn hrel]
      exact nbStatus_ends _ hi.1.2.2.2.2 0 h.z
    · intro hi turn
      exact ⟨ringTake_turn hi, fun hturn => (ringTake_waits hi hturn).1, fun hturn => (ringTake_waits hi hturn).2⟩
    · intro hi n
      have hends := ringStat_ends hi
      rw [Ring.word_eq] at hends
      exact hends

end Sys2Proof.Machine

/-! PROOFS. A COMMIT in lane mode that rolls a lane back to less than its checkpoint (R172). -/

namespace Sys2Proof.Machine

open Host

/-! ## A lane-mode COMMIT of a team of 1,025 lanes -/

/-- COMMIT that tells each lane in k1. -/
def wideCommit : SF := ⟨0, 0, 0, 0, 2, 1⟩

/-- A region in lane mode in which lane 0 has met a conflict. -/
def wideRegion : TryRegion :=
  { laneMode := true, abortPc := 0, v := [], s := [], k := [], live := 1, active := 1, depth := 0, foot := [⟨0, .glob 0, true⟩] }

/-- A team of 1,025 lanes that issues COMMIT: a write to v0 in lane 1,024, where v1 of lane 0 stands, is not visible yet. -/
def wideTeam (t : Team) : Team := { t with lanes := 1025, tryR := some wideRegion, pend := [⟨0, 0, .v 0, 1024, 5⟩] }

def wideState : State :=
  let s := State.reset.placeWord ((encodeWord (.commit ⟨false, false, 15⟩ wideCommit)).elim 0 (·.toNat))
  { s.updTeam 0 wideTeam with agenda := [], cur := 0 }

/-- Its COMMIT. -/
def wideWord : Instr := .commit ⟨false, false, 15⟩ wideCommit

/-- It issues, with its region as written and no earlier access under way. -/
theorem wideState_issues : ∃ t, wideState.IssuesOnce t wideWord ⟨false, false, 15⟩ ∧ t.tryR = some wideRegion ∧
    wideState.quiet wideState.cur t.serial = true := by
  have hall : (wideState.team wideState.cur).any (fun t => wideState.precheck wideState.cur t wideWord ⟨false, false, 15⟩ == none &&
      !wideState.listBlocks wideState.cur t wideWord && (tryEvent wideWord).isNone && t.stepping.isNone && t.executes ⟨false, false, 15⟩ &&
      decide (t.tryR = some wideRegion) && wideState.quiet wideState.cur t.serial) = true := by
    decide +kernel
  cases ht : wideState.team wideState.cur with
  | none => rw [ht] at hall; cases hall
  | some t =>
    rw [ht] at hall
    simp only [Option.any_some, Bool.and_eq_true, beq_iff_eq, Bool.not_eq_true', Option.isNone_iff_eq_none, decide_eq_true_eq] at hall
    obtain ⟨⟨⟨⟨⟨⟨hpre, hlist⟩, hev⟩, hstep⟩, hexec⟩, htry⟩, hquiet⟩ := hall
    exact ⟨t, ⟨⟨ht, hpre, hlist, .inr (.inl hev), hstep⟩, hexec⟩, htry, hquiet⟩

/-- Behind it v1 of lane 0 holds what was written to lane 1,024 of v0. -/
theorem wideState_after : (match exec wideWord wideState with
    | .next s => (s.team wideState.cur).map fun t => t.endVal (.v 1) 0
    | _ => none) = some 5 := by
  decide +kernel

/-- Refutes O26: a team of 1,025 lanes, whose conflicting lane 0 does not return to its checkpoint, as the stored registers of lane 1,024 and
of lane 0 meet; no statement bounds a team's lanes. -/
theorem not_tryRegions : ¬ Obligations.TryRegions := by
  intro hall
  unfold Obligations.TryRegions at hall
  obtain ⟨t, hi, htry, hquiet⟩ := wideState_issues
  obtain ⟨-, hcommit⟩ := hall
  obtain ⟨-, hregion⟩ := hcommit ⟨false, false, 15⟩ wideCommit wideState t hi
  obtain ⟨-, -, hlane⟩ := hregion wideRegion htry
  have hbad (L : Nat) : decide (L = 0) = true ↔ ∃ q ∈ wideRegion.foot, q.dirty = true ∧ q.lane = L := by
    show _ ↔ ∃ q ∈ [(⟨0, .glob 0, true⟩ : Foot)], _
    rw [decide_eq_true_iff]
    constructor
    · rintro rfl
      exact ⟨_, List.mem_singleton_self _, rfl, rfl⟩
    · rintro ⟨q, hq, -, hL⟩
      rw [← hL, List.mem_singleton.mp hq]
  obtain ⟨u, -, -, -, -, -, -, hends, hvals⟩ := hlane rfl List.Pairwise.nil (fun L => decide (L = 0)) _ hbad ⟨hquiet, rfl, .inl (by decide)⟩
  obtain ⟨t', hexec, -, -, hlong⟩ := hends
  have hplace : (RegId.v 1).place 0 := show 0 < 1024 by decide
  have hu := hvals (.v 1) 0 hplace (by intro n hn; cases hn)
  obtain ⟨hu, -⟩ := hu
  have hafter := wideState_after
  have hrun : exec wideWord wideState = _ := hexec
  rw [hrun] at hafter
  simp only [State.team_setTeam, Option.map_some, Option.some.injEq] at hafter
  obtain ⟨hsame, -⟩ := hlong (.v 1) 0 hplace
  have hzero : (t.abortTry 3 0).endVal (.v 1) 0 = 0 := by
    unfold Team.abortTry
    rw [htry]
    rfl
  rw [hsame, hu, hzero] at hafter
  exact absurd hafter (by decide)

end Sys2Proof.Machine

/-! PROOFS. What a reeve reads and writes of a frozen team (R181 to R183). -/

namespace Sys2Proof.Machine

open Host

/-! ## Handles -/

section Handles

variable {i : Instr} {h : Hdr} {f : FF} {s : State} {t ft : Team} {k : Nat}

/-- The word goes on with the team that its handle names. -/
theorem onFrozen_next (hi : s.IssuesOnce t i h) (hf : OnFrozen s t f k ft) (go : State → Nat → Team → Nat → Team → Act) :
    issue i h (onFrozen h f go) s = .next ((go s s.cur t k ft).finish s.cur h.z) := by
  obtain ⟨hhnd, hh0, -, hteam, hstep, hsettled⟩ := hf
  unfold onFrozen
  rw [once_next hi]
  unfold Team.handle
  rw [if_pos hhnd, hh0]
  dsimp only
  rw [hteam]
  simp [hstep, hsettled]

/-- A word whose handle names no team stops (R181). -/
theorem onFrozen_badHandle (hi : s.IssuesOnce t i h) (hf : f.hnd ≠ 0 ∨ t.h0 = .none) (go : State → Nat → Team → Nat → Team → Act) :
    Freezes (issue i h (onFrozen h f go) s) s t h .illegal 0x14 := by
  unfold onFrozen
  have hnone : t.handle f = .none := by
    unfold Team.handle
    rcases hf with hf | hf
    · rw [if_neg hf]
    · simp [hf]
  rw [once_next hi, hnone]
  exact fault_freezes hi.1 _ (.inr rfl)

/-! ## FINFO -/

/-- FINFO answers what its handle names, once the team stands still (R181). -/
theorem finfo_endsLong (hi : s.IssuesOnce t (.finfo h f) h) {x : Handle} (hx : t.handle f = x)
    (hstill : ∀ k, x = .frozen k → (s.team k).any (fun u => u.stepping.isSome || !u.settled) = false) :
    EndsLong (exec (.finfo h f) s) s s.cur t [(.s f.ssel.toNat, 0, BitVec.ofNat 64 (s.finfo x f.imm.toNat))] := by
  show EndsLong (issue (.finfo h f) h _ s) _ _ _ _
  rw [once_next hi, hx]
  cases x with
  | none => exact longS_endsLong s hi.1.2.2.2.2 _ _ h.z
  | departed e r => exact longS_endsLong s hi.1.2.2.2.2 _ _ h.z
  | frozen k =>
    dsimp only
    rw [if_neg (by rw [hstill k rfl]; decide)]
    exact longS_endsLong s hi.1.2.2.2.2 _ _ h.z

/-- FINFO of a team that steps, or whose results are outstanding, waits (R56, R184). -/
theorem finfo_parks (hi : s.IssuesOnce t (.finfo h f) h) (hhnd : f.hnd = 0) (hh0 : t.h0 = .frozen k) (hteam : s.team k = some ft)
    (hmoves : ft.stepping.isSome = true ∨ ft.settled = false) : Parks (exec (.finfo h f) s) s s.cur t (.step k) := by
  show Parks (issue (.finfo h f) h _ s) _ _ _ _
  have hx : t.handle f = .frozen k := by rw [Team.handle, if_pos hhnd, hh0]
  rw [once_next hi, hx]
  dsimp only
  rw [if_pos (by rw [hteam]; rcases hmoves with hm | hm <;> simp [hm])]
  exact park_parks hi.1 _

/-- What FINFO answers of a frozen team (R181). -/
theorem finfo_frozen (hteam : s.team k = some ft) :
    s.finfo (.frozen k) 0 = 1 + (if ft.cause.imprecise then 4 else 0) + (if ft.tryR.isSome then 8 else 0) + 2 ^ 32 * ft.serial ∧
    (ft.cause.primary ≠ 0 → s.finfo (.frozen k) 1 = ft.cause.addr.toNat) ∧
    s.finfo (.frozen k) 2 = ft.grid % 2 ^ 32 + 2 ^ 32 * roleCode ft.role := by
  unfold State.finfo
  simp only [hteam, Option.elim_some]
  refine ⟨rfl, fun hp => ?_, rfl⟩
  have hclean : ft.clean = false := by simp [Team.clean, hp]
  simp [hclean]

/-! ## FRD -/

/-- What FRD and FWR may name of a frozen team (Table 06-14). -/
theorem frd_useV (hi : s.Issues t (.frd h f) h) : f.useV false ≠ none := by
  have hok := fieldOk_of_precheck hi.2.1
  have hreg : f.regOk false = true := hok
  intro hn
  rw [FF.regOk, hn] at hreg
  simp at hreg

/-- A lane's value under FRD is the rule's. -/
theorem frdLane_eq (hv : f.useV false = some true) (L : Nat) : s.frdLane t ft f L = frdLaneRule s t ft f L := by
  unfold FF.useV at hv
  unfold State.frdLane frdLaneRule
  simp only [← BitVec.toNat_inj]
  split at hv <;> simp_all [accBlock, accKey]

/-- What an FRD that answers once reads is the rule's. -/
theorem frdOnce_eq (hn : f.useV false ≠ none) (hv : f.useV false ≠ some true) : s.frdOnce ft f = frdOnceRule s ft f := by
  unfold FF.useV at hv hn
  unfold State.frdOnce frdOnceRule
  simp only [← BitVec.toNat_inj]
  split at hv <;> simp_all

/-- The code of a cause is a byte. -/
theorem Cause.code_lt (c : Cause) : c.code < 2 ^ 8 := by cases c <;> decide

/-- A lane's value under FRD fits one register, but for the effective address. -/
theorem frdLaneRule_lt (hw : ¬(f.file = 5 ∧ f.imm = 1)) (hv : f.useV false = some true) (L : Nat) :
    ∃ x : Lane32, frdLaneRule s t ft f L = x.setWidth 64 := by
  have hbit (b : Bool) : ∃ x : Lane32, bit b = x.setWidth 64 := by
    cases b
    · exact ⟨0, rfl⟩
    · exact ⟨1, rfl⟩
  have hsmall (n : Nat) (hn : n < 2 ^ 32) : ∃ x : Lane32, BitVec.ofNat 64 n = x.setWidth 64 :=
    ⟨BitVec.ofNat 32 n, BitVec.eq_of_toNat_eq (by simp; omega)⟩
  have himm : f.file = 5 → f.imm = 0 := by
    intro h5
    unfold FF.useV at hv
    have h5' : f.file.toNat = 5 := by rw [h5]; rfl
    have h1' : f.imm.toNat ≠ 1 := fun hc => hw ⟨h5, BitVec.eq_of_toNat_eq hc⟩
    rw [h5'] at hv
    split at hv <;> simp_all
    exact BitVec.eq_of_toNat_eq ‹_›
  unfold frdLaneRule
  dsimp only
  split
  · split
    · exact ⟨_, rfl⟩
    · exact ⟨0, rfl⟩
  · split
    · exact hbit _
    · split
      · exact hbit _
      · split
        case isTrue h5 =>
          rw [if_pos (himm h5)]
          refine hsmall _ ?_
          cases ft.cause.lanes.find? (fun c => c.lane == L) with
          | none => decide
          | some c => exact lt_trans c.cause.code_lt (by decide)
        · split
          · exact ⟨_, rfl⟩
          · exact ⟨0, rfl⟩

/-- The registers an FRD in each lane writes, with their values. -/
def frdRegs (s : State) (t ft : Team) (f : FF) (L : Nat) : List (RegId × Word) :=
  if f.file = 5 ∧ f.imm = 1 then toVd f.v (frdLaneRule s t ft f L) else [(.v f.v.toNat, frdLaneRule s t ft f L)]

/-- FRD in each Active lane (R182). -/
theorem frd_lanes (hi : s.IssuesOnce t (.frd h f) h) (hf : OnFrozen s t f k ft) (hv : f.useV false = some true) :
    EndsLong (exec (.frd h f) s) s s.cur t ((t.act h).flatMap fun L => (frdRegs s t ft f L).map fun w => (w.1, L, w.2)) := by
  have hexec : exec (.frd h f) s = issue (.frd h f) h (vecLong h fun _ _ L => frdRegs s t ft f L) s := by
    show issue (.frd h f) h _ s = _
    rw [onFrozen_next hi hf, issue_next hi.1]
    dsimp only
    rw [if_pos hv]
    unfold vecLong
    have hparts (L : Nat) : (if f.file = 5 ∧ f.imm = 1 then (toVd f.v (s.frdLane t ft f L)).map (fun w => Part.ofVal w.1 L w.2)
        else [Part.ofVal (.v f.v.toNat) L (s.frdLane t ft f L)]) = (frdRegs s t ft f L).map fun w => Part.ofVal w.1 L w.2 := by
      rw [frdLane_eq hv]
      unfold frdRegs
      split <;> rfl
    simp only [hparts]
    rfl
  rw [hexec]
  refine vecLong_ends hi.1 _ (fun L _ w hw => ?_) fun L _ => ?_
  · unfold frdRegs at hw
    split at hw
    case isTrue =>
      rcases List.mem_cons.mp hw with rfl | hw
      · exact Part.val_ofVal_v _ _ _
      · rw [List.mem_singleton.mp hw]
        exact Part.val_ofVal_v _ _ _
    case isFalse hw' =>
      obtain ⟨x, hx⟩ := frdLaneRule_lt (s := s) (t := t) (ft := ft) hw' hv L
      rw [List.mem_singleton.mp hw, hx]
      exact Part.val_ofVal_v _ _ _
  · unfold frdRegs
    split
    · simp [toVd, pairWrites]
    · simp

/-- FRD that answers once (R182). -/
theorem frd_once (hi : s.IssuesOnce t (.frd h f) h) (hf : OnFrozen s t f k ft) (hv : f.useV false ≠ some true) :
    EndsLong (exec (.frd h f) s) s s.cur t [(.s f.ssel.toNat, 0, frdOnceRule s ft f)] := by
  show EndsLong (issue (.frd h f) h _ s) _ _ _ _
  rw [onFrozen_next hi hf]
  dsimp only
  rw [if_neg hv, frdOnce_eq (frd_useV hi.1) hv]
  exact longS_endsLong s hi.1.2.2.2.2 _ _ h.z

end Handles

/-! ## Writes of a frozen team's registers -/

/-- A write of registers keeps every field but the registers. -/
theorem Team.foldl_store_kept (ws : List (RegId × Nat × Word)) (t : Team) :
    ∃ v s k, ws.foldl (fun u w => u.store w.1 w.2.1 w.2.2) t = { t with v := v, s := s, k := k } := by
  induction ws generalizing t with
  | nil => exact ⟨t.v, t.s, t.k, rfl⟩
  | cons w ws ih =>
    obtain ⟨v, s, k, h⟩ := ih (t.store w.1 w.2.1 w.2.2)
    refine ⟨v, s, k, ?_⟩
    rw [List.foldl_cons, h, Team.store_kept]

/-- What FWR and FPATCH change of a team. -/
theorem Team.patch_kept (ft : Team) (ws : List (RegId × Nat × Word)) :
    ∃ v s k, ft.patch ws = { ft with v := v, s := s, k := k, outst := (ft.overwrite (ws.map fun w => (w.1, w.2.1))).outst } :=
  Team.foldl_store_kept ws _

/-- Without pending writes a place holds its stored value. -/
theorem Team.endVal_of_pend_nil {t : Team} (hp : t.pend = []) (r : RegId) (L : Nat) : t.endVal r L = t.rawVal r L := by
  rw [Team.endVal_eq]
  have hs := t.commit_sameRegs
  rw [hp] at hs
  exact Team.rawVal_congr hs r L

/-- The results due at a place that a write names, and at any other. -/
theorem Team.dueParts_patch (ft : Team) (ws : List (RegId × Nat × Word)) (r : RegId) (L : Nat) :
    (ft.patch ws).dueParts r L = if (ws.any fun w => w.1 == r && w.2.1 == L) then [] else ft.dueParts r L := by
  obtain ⟨v, s, k, hk⟩ := ft.patch_kept ws
  have hdue : (ft.patch ws).dueParts r L = (ft.overwrite (ws.map fun w => (w.1, w.2.1))).dueParts r L := by
    unfold Team.dueParts
    rw [hk]
  rw [hdue, Team.dueParts_overwrite, List.any_map]
  rfl

/-- A write of registers of a team without pending writes. -/
theorem Team.wrote_patch {ft : Team} (hp : ft.pend = []) {ws : List (RegId × Nat × Word)} (hw : ∀ w ∈ ws, okWrite ft.lanes w) :
    ft.Wrote (ft.patch ws) ws := by
  intro r L hplace
  obtain ⟨v, s, k, hk⟩ := ft.patch_kept ws
  have hpend : (ft.patch ws).pend = [] := by rw [hk, ← hp]
  have hval : (ft.patch ws).endVal r L = match lastWrite ws r L with | some x => r.holds x | none => ft.endVal r L := by
    rw [Team.endVal_of_pend_nil hpend, Team.endVal_of_pend_nil hp]
    have hfold := Team.rawVal_fold ws (t := ft.overwrite (ws.map fun w => (w.1, w.2.1))) hw hplace
    have hsame : (ft.overwrite (ws.map fun w => (w.1, w.2.1))).rawVal r L = ft.rawVal r L := Team.rawVal_congr ⟨rfl, rfl, rfl, rfl⟩ r L
    rw [hsame] at hfold
    exact hfold
  have hdue := ft.dueParts_patch ws r L
  cases hx : lastWrite ws r L with
  | none =>
    rw [hx] at hval
    rw [if_neg (by rw [lastWrite_none.mp hx]; decide)] at hdue
    exact ⟨hval, hdue⟩
  | some x =>
    rw [hx] at hval
    have hany : (ws.any fun w => w.1 == r && w.2.1 == L) = true := by
      by_contra hc
      rw [lastWrite_none.mpr (by simpa only [Bool.not_eq_true] using hc)] at hx
      cases hx
    rw [if_pos hany] at hdue
    exact ⟨hval, hdue⟩

/-- The team a word leaves of a frozen one, whose registers it has written. -/
theorem Team.patch_rule {ft : Team} (hp : ft.pend = []) {ws : List (RegId × Nat × Word)} (hw : ∀ w ∈ ws, okWrite ft.lanes w) :
    ft.Kept (ft.patch ws) ∧ (ft.patch ws).pc = ft.pc ∧ (ft.patch ws).word = ft.word ∧ (ft.patch ws).run = ft.run ∧ (ft.patch ws).cause = ft.cause ∧
      ft.Wrote (ft.patch ws) ws := by
  have hwrote := Team.wrote_patch hp hw
  obtain ⟨v, s, k, hk⟩ := ft.patch_kept ws
  rw [hk] at hwrote ⊢
  exact ⟨rfl, rfl, rfl, rfl, rfl, hwrote⟩

section Writes

variable {i : Instr} {h : Hdr} {f : FF} {s : State} {t ft : Team} {k : Nat}

/-- The lanes of the reeve that the frozen team has. -/
def sharedLanes (t ft : Team) (h : Hdr) : List Nat := (t.act h).filter fun L => decide (L < ft.lanes)

theorem okWrite_v (n : Nat) (x : Nat → Word) : ∀ w ∈ (sharedLanes t ft h).map (fun L => ((.v n : RegId), L, x L)), okWrite ft.lanes w := by
  intro w hw
  obtain ⟨L, hL, rfl⟩ := List.mem_map.mp hw
  obtain ⟨hact, hlt⟩ := List.mem_filter.mp hL
  exact ⟨(Team.act_lt hact).2, of_decide_eq_true hlt⟩

theorem okWrite_k (n : Nat) (x : Nat → Word) : ∀ w ∈ (sharedLanes t ft h).map (fun L => ((.k n : RegId), L, x L)), okWrite ft.lanes w := by
  intro w hw
  obtain ⟨L, hL, rfl⟩ := List.mem_map.mp hw
  obtain ⟨hact, hlt⟩ := List.mem_filter.mp hL
  exact ⟨(Team.act_lt hact).2, of_decide_eq_true hlt⟩

theorem okWrite_s (n : Nat) (x : Word) : ∀ w ∈ [((.s n : RegId), 0, x)], okWrite ft.lanes w := by
  intro w hw
  rw [List.mem_singleton.mp hw]
  exact ⟨rfl, trivial⟩

/-- A word that leaves another team than its own in some state. -/
theorem setOther_ends (hi : s.Issues t i h) (hk : k ≠ s.cur) (u : Team) :
    Ends (.next ((Act.retire (s.setTeam k u)).finish s.cur h.z)) (s.setTeam k u) s.cur t [] :=
  retire_ends_in (by rw [State.team_setTeam_other _ _ hk.symm, hi.1]) hi.2.2.2.2 h.z

/-- The word writes registers of the frozen team. -/
theorem patch_writes (hi : s.Issues t i h) (hk : k ≠ s.cur) (hp : ft.pend = []) {ws : List (RegId × Nat × Word)} (hw : ∀ w ∈ ws, okWrite ft.lanes w)
    (g : Team → Team) : ∃ u : Team, Ends (.next ((Act.retire (s.setTeam k (g (ft.patch ws)))).finish s.cur h.z)) (s.setTeam k (g u)) s.cur t [] ∧
      ft.Kept u ∧ u.pc = ft.pc ∧ u.word = ft.word ∧ u.run = ft.run ∧ u.cause = ft.cause ∧ ft.Wrote u ws :=
  ⟨_, setOther_ends hi hk _, Team.patch_rule hp hw⟩

end Writes

/-! ## FWR -/

section Fwr

variable {h : Hdr} {f : FF} {s : State} {t ft : Team} {k : Nat}

theorem fwr_v (hi : s.IssuesOnce t (.fwr h f) h) (hf : OnFrozen s t f k ft) (hfile : f.file.toNat = 0) :
    exec (.fwr h f) s = .next ((Act.retire (if f.treg.toNat < ft.allot then
      s.setTeam k (ft.patch ((sharedLanes t ft h).map fun L => (.v f.treg.toNat, L, (t.rv f.v.toNat L).setWidth 64))) else s)).finish s.cur h.z) := by
  show issue (.fwr h f) h _ s = _
  rw [onFrozen_next hi hf]
  dsimp only
  rw [hfile]
  rfl

theorem fwr_s (hi : s.IssuesOnce t (.fwr h f) h) (hf : OnFrozen s t f k ft) (hfile : f.file.toNat = 1) :
    exec (.fwr h f) s = .next ((Act.retire (s.setTeam k (ft.patch [(.s f.treg.toNat, 0, t.rs f.ssel.toNat)]))).finish s.cur h.z) := by
  show issue (.fwr h f) h _ s = _
  rw [onFrozen_next hi hf]
  dsimp only
  rw [hfile]
  rfl

theorem fwr_k (hi : s.IssuesOnce t (.fwr h f) h) (hf : OnFrozen s t f k ft) (hfile : f.file.toNat = 2) :
    exec (.fwr h f) s = .next ((Act.retire (s.setTeam k (ft.patch ((sharedLanes t ft h).map fun L =>
      (.k f.treg.toNat, L, bit ((t.rv f.v.toNat L).getLsbD 0)))))).finish s.cur h.z) := by
  show issue (.fwr h f) h _ s = _
  rw [onFrozen_next hi hf]
  dsimp only
  rw [hfile]
  rfl

theorem fwr_pc_exec (hi : s.IssuesOnce t (.fwr h f) h) (hf : OnFrozen s t f k ft) (hfile : f.file.toNat = 3) (himm : f.imm.toNat = 0) :
    let u : Team := { ft with pc := t.rs f.ssel.toNat, word := none, cause := {}, retry := none, syncMark := none }
    exec (.fwr h f) s = .next ((if (t.rs f.ssel.toNat).toNat % 8 != 0 then Act.fault s h .misaligned 0 0 0
      else .retire (s.setTeam k u)).finish s.cur h.z) := by
  intro u
  show issue (.fwr h f) h _ s = _
  rw [onFrozen_next hi hf]
  dsimp only
  rw [hfile, himm]
  rfl

/-- FWR of the resume point (R182). -/
theorem fwr_pc (hi : s.IssuesOnce t (.fwr h f) h) (hf : OnFrozen s t f k ft) (hfile : f.file.toNat = 3) (himm : f.imm.toNat = 0) :
    ((t.rs f.ssel.toNat).toNat % 8 = 0 → Ends (exec (.fwr h f) s)
      (s.setTeam k { ft with pc := t.rs f.ssel.toNat, word := none, cause := {}, retry := none, syncMark := none }) s.cur t []) ∧
    ((t.rs f.ssel.toNat).toNat % 8 ≠ 0 → t.tryR = none → Freezes (exec (.fwr h f) s) s t h .misaligned 0) := by
  rw [fwr_pc_exec hi hf hfile himm]
  refine ⟨fun hal => ?_, fun hal htry => ?_⟩
  · rw [if_neg (by simp [hal])]
    exact setOther_ends hi.1 hf.2.2.1 _
  · rw [if_pos (by simp [hal])]
    exact fault_freezes hi.1 _ (.inl htry)

/-- The lanes that FWR makes active (R182). -/
def fwrActive (t ft : Team) (h : Hdr) (f : FF) : Mask :=
  (ft.active &&& ~~~(maskOf 1024 fun L => (sharedLanes t ft h).contains L)) |||
    ((maskOf 1024 fun L => (sharedLanes t ft h).contains L && t.rv f.v.toNat L != 0) &&& ft.live)

theorem fwrActive_getLsbD {L : Nat} (hL : L < 1024) : (fwrActive t ft h f).getLsbD L =
    if L ∈ sharedLanes t ft h then (ft.live.getLsbD L && t.rv f.v.toNat L != 0) else ft.active.getLsbD L := by
  unfold fwrActive
  rw [BitVec.getLsbD_or, clearBit _ _ hL, BitVec.getLsbD_and, maskOf_getLsbD _ _ hL, maskOf_getLsbD _ _ hL]
  by_cases hmem : L ∈ sharedLanes t ft h
  · simp [hmem, hL, Bool.and_comm]
  · simp [hmem]

/-- FWR of the active lanes (R182). -/
theorem fwr_active (hi : s.IssuesOnce t (.fwr h f) h) (hf : OnFrozen s t f k ft) (hfile : f.file.toNat = 3) (himm : f.imm.toNat = 2) :
    Ends (exec (.fwr h f) s) (s.setTeam k { ft with active := fwrActive t ft h f }) s.cur t [] := by
  show Ends (issue (.fwr h f) h _ s) _ _ _ _
  rw [onFrozen_next hi hf]
  dsimp only
  rw [hfile, himm]
  exact setOther_ends hi.1 hf.2.2.1 _

/-- A share's accumulator element behind a write. -/
theorem State.accElem_setAccElem {x : Share} {m : Stream} (hx : s.share t.share = some x) (hm : x.stream = some m) {b : Nat} (hb : b < m.blocks.length)
    (key : Nat) (w : Lane32) : ∃ m' : Stream, (s.setAccElem t.share b key w).share t.share = some { x with stream := some m' } ∧
      m'.blocks.length = m.blocks.length ∧
      (s.setAccElem t.share b key w) = { s with shares := (s.setAccElem t.share b key w).shares } ∧
      (∀ q, q ≠ t.share → (s.setAccElem t.share b key w).share q = s.share q) ∧
      ∀ c j, (s.setAccElem t.share b key w).accElem t.share c j = if c = b ∧ j = key then w else s.accElem t.share c j := by
  unfold State.setAccElem
  rw [State.updShare_some hx, hm]
  refine ⟨_, State.share_setShare _ _ _, by simp, rfl, fun q hq => State.share_setShare_other _ _ hq, fun c j => ?_⟩
  unfold State.accElem
  rw [State.share_setShare, hx]
  simp only [Option.bind_some, Option.map_some, hm, List.getElem?_modify]
  by_cases hc : b = c
  · subst hc
    rw [List.getElem?_eq_getElem hb]
    simp [getD_setD]
  · have hc' : ¬(c = b ∧ j = key) := fun h => hc h.1.symm
    rw [if_neg hc']
    simp [hc]

/-- States that differ in their shares alone. -/
theorem shares_only_trans {a b c : State} (hb : b = { a with shares := b.shares }) (hc : c = { b with shares := c.shares }) :
    c = { a with shares := c.shares } := hc.trans (by rw [hb])

/-- FWR of an accumulator row: the Active lanes below 128, one element each (R182). -/
theorem foldl_setAccElem {x : Share} {m : Stream} (hx : s.share t.share = some x) (hm : x.stream = some m) (hb : accBlock f < m.blocks.length)
    (v : Nat → Lane32) (ls : List Nat) :
    let s2 := ls.foldl (fun s L => if L < 128 then s.setAccElem t.share (accBlock f) (accKey f L) (v L) else s) s
    (∃ m' : Stream, s2.share t.share = some { x with stream := some m' } ∧ m'.blocks.length = m.blocks.length) ∧ s2 = { s with shares := s2.shares } ∧
      (∀ q, q ≠ t.share → s2.share q = s.share q) ∧
      ∀ b j, s2.accElem t.share b j =
        if b = accBlock f ∧ j / 128 = f.imm.toNat / 32 % 128 ∧ j % 128 ∈ ls then v (j % 128) else s.accElem t.share b j := by
  induction ls generalizing s x m with
  | nil => exact ⟨⟨m, hx.trans (by rw [← hm]), rfl⟩, rfl, fun _ _ => rfl, fun b j => by simp⟩
  | cons L ls ih =>
    rw [List.foldl_cons]
    by_cases hL : L < 128
    · rw [if_pos hL]
      obtain ⟨m1, hshare, hlen, hst, hother, helem⟩ := State.accElem_setAccElem (s := s) hx hm hb (accKey f L) (v L)
      obtain ⟨⟨m2, hshare2, hlen2⟩, hst2, hother2, helem2⟩ := ih hshare rfl (hlen ▸ hb)
      refine ⟨⟨m2, hshare2, hlen2.trans hlen⟩, ?_, fun q hq => (hother2 q hq).trans (hother q hq), fun b j => ?_⟩
      · exact shares_only_trans hst hst2
      · rw [helem2, helem]
        have hkey : j = accKey f L ↔ j / 128 = f.imm.toNat / 32 % 128 ∧ j % 128 = L := by
          unfold accKey
          omega
        by_cases hrow : b = accBlock f ∧ j / 128 = f.imm.toNat / 32 % 128
        · obtain ⟨hb', hr⟩ := hrow
          by_cases hmem : j % 128 ∈ ls
          · rw [if_pos ⟨hb', hr, hmem⟩, if_pos ⟨hb', hr, List.mem_cons_of_mem _ hmem⟩]
          · rw [if_neg fun hc => hmem hc.2.2]
            by_cases hl : j % 128 = L
            · rw [if_pos ⟨hb', hkey.mpr ⟨hr, hl⟩⟩, if_pos ⟨hb', hr, by rw [hl]; exact List.mem_cons_self⟩, hl]
            · rw [if_neg fun hc => hl (hkey.mp hc.2).2, if_neg fun hc => (List.mem_cons.mp hc.2.2).elim hl hmem]
        · rw [if_neg fun hc => hrow ⟨hc.1, hc.2.1⟩, if_neg fun hc => hrow ⟨hc.1, (hkey.mp hc.2).1⟩, if_neg fun hc => hrow ⟨hc.1, hc.2.1⟩]
    · rw [if_neg hL]
      obtain ⟨hm2, hst2, hother2, helem2⟩ := ih hx hm hb
      refine ⟨hm2, hst2, hother2, fun b j => ?_⟩
      rw [helem2]
      have hne : j % 128 ≠ L := by have := Nat.mod_lt j (show 0 < 128 by decide); omega
      simp [hne]

/-- FWR of an accumulator row (R182). -/
theorem fwr_acc (hi : s.IssuesOnce t (.fwr h f) h) (hf : OnFrozen s t f k ft) (hfile : f.file.toNat = 6) {x : Share} {m : Stream}
    (hx : s.share t.share = some x) (hm : x.stream = some m) (hb : f.imm.toNat % 32 < m.blocks.length) :
    ∃ s2, Ends (exec (.fwr h f) s) s2 s.cur t [] ∧ s2 = { s with shares := s2.shares } ∧ (∀ q, q ≠ t.share → s2.share q = s.share q) ∧
      (s2.share t.share).map (fun y => { y with stream := none }) = some { x with stream := none } ∧
      ∀ b j, s2.accElem t.share b j = if b = f.imm.toNat % 32 ∧ j / 128 = f.imm.toNat / 32 % 128 ∧ j % 128 ∈ t.act h
        then t.rv f.v.toNat (j % 128) else s.accElem t.share b j := by
  obtain ⟨⟨m', hshare, -⟩, hst, hother, helem⟩ := foldl_setAccElem (f := f) hx hm hb (t.rv f.v.toNat) (t.act h)
  refine ⟨_, ?_, hst, hother, by rw [hshare]; rfl, helem⟩
  show Ends (issue (.fwr h f) h _ s) _ _ _ _
  rw [onFrozen_next hi hf]
  dsimp only
  rw [hfile]
  refine retire_ends_in ?_ hi.1.2.2.2.2 h.z
  rw [hst]
  exact hi.1.1

end Fwr

/-! ## FPATCH -/

section Fpatch

variable {h : Hdr} {f : FF} {s : State} {t ft : Team} {k : Nat}

/-- The frozen team with the causes of the Active lanes cleared, where FPATCH says that they are done (R183). -/
def patchDone (t ft : Team) (h : Hdr) (f : FF) (u : Team) : Team :=
  if f.imm.getLsbD 2 then { u with cause := { ft.cause with lanes := ft.cause.lanes.filter fun c => decide (c.lane ∉ t.act h) } } else u

/-- FPATCH of a word that has a cause. -/
theorem exec_fpatch (hi : s.IssuesOnce t (.fpatch h f) h) (hf : OnFrozen s t f k ft) (hh : ft.cause.atHeader = false)
    (hc : ft.cause.primary ≠ 0) {w : Word} (hw : s.wordAt (coreOf s.cur) ft.ctx ft.cause.addr = some w) {ws : List (RegId × Nat × Word)}
    (hws : patchWrites t ft (destOf (decodeWord w)) (t.act h) f.v.toNat (f.imm.toNat % 4) = ws) :
    exec (.fpatch h f) s = .next ((Act.retire (s.setTeam k (patchDone t ft h f (ft.patch ws)))).finish s.cur h.z) := by
  show issue (.fpatch h f) h _ s = _
  have hclean : ft.clean = false := by simp [Team.clean, hc]
  obtain ⟨v, sr, kr, hk⟩ := ft.patch_kept ws
  have hcause : (ft.patch ws).cause = ft.cause := by rw [hk]
  rw [onFrozen_next hi hf]
  dsimp only
  rw [hw, hh, hclean]
  simp only [Option.map_some, Option.elim_some, hws, Bool.or_false, Bool.false_eq_true, if_false, hcause]
  unfold patchDone
  simp

/-- The first Active lane, where the frozen team has one of them, is the first of those it has. -/
theorem head_sharedLanes {L : Nat} (hL : (sharedLanes t ft h).head? = some L) : (t.act h).head? = some L := by
  have hsorted : (t.act h).Pairwise (· < ·) := List.pairwise_lt_range.filter _
  unfold sharedLanes at hL
  cases hact : t.act h with
  | nil => rw [hact] at hL; cases hL
  | cons a l =>
    rw [hact] at hL hsorted
    rw [List.filter_cons] at hL
    split at hL
    · exact hL
    case isFalse hna =>
      have hmem : L ∈ l.filter fun L => decide (L < ft.lanes) := List.mem_of_mem_head? hL
      obtain ⟨hmem, hlt⟩ := List.mem_filter.mp hmem
      have := (List.pairwise_cons.mp hsorted).1 L hmem
      simp only [decide_eq_true_eq] at hna hlt
      omega

end Fpatch

/-- Settles O28: by the file that the word names; what is written of a frozen team is written in place of what its results would bring.
That FINFO waits while its team steps (log 32), that s, k and masks have no allotment (log 31) and that FILE 6 takes each Active lane below
128 (log 107) are the model's choices. -/
theorem reeveReadsAndWrites : Obligations.ReeveReadsAndWrites := by
  unfold Obligations.ReeveReadsAndWrites
  refine ⟨?_, ?_⟩
  · intro h f s t ft k role info
    refine ⟨fun hi => ⟨fun hf => ?_, ?_, ?_, ?_⟩, fun hi => ⟨fun hf => ?_, fun hf => onFrozen_badHandle hi hf _⟩⟩
    · have hx : t.handle f = .frozen k := by rw [Team.handle, if_pos hf.1, hf.2.1]
      obtain ⟨-, -, -, hteam, hstep, hsettled⟩ := hf
      have hends := finfo_endsLong hi hx fun j hj => by
        rw [← Handle.frozen.inj hj, hteam]
        simp [hstep, hsettled]
      obtain ⟨h0, h1, h2⟩ := finfo_frozen hteam
      refine ⟨fun himm => ?_, fun himm hp => ?_, fun himm => ?_⟩
      · have hz : f.imm.toNat = 0 := by rw [himm]; rfl
        rw [hz, h0] at hends
        exact hends
      · have hz : f.imm.toNat = 1 := by rw [himm]; rfl
        rw [hz, h1 hp] at hends
        exact hends
      · have hz : f.imm.toNat = 2 := by rw [himm]; rfl
        rw [hz, h2] at hends
        exact hends
    · intro hno
      refine finfo_endsLong hi (x := .none) ?_ fun j hj => by cases hj
      unfold Team.handle
      rcases hno with hno | hno
      · rw [if_neg hno]
      · simp [hno]
    · intro e r hhnd hh0
      have hends := finfo_endsLong hi (x := .departed e r) (by rw [Team.handle, if_pos hhnd, hh0]) fun j hj => by cases hj
      refine ⟨fun himm => ?_, fun himm => ?_, fun himm => ?_⟩
      all_goals
        rw [himm] at hends
        exact hends
    · exact fun hhnd hh0 hteam hmoves => finfo_parks hi hhnd hh0 hteam hmoves
    · split
      case isTrue hv =>
        have hends := frd_lanes hi hf hv
        have hregs (L : Nat) : (frdRegs s t ft f L).map (fun w => (w.1, L, w.2)) =
            if f.file = 5 ∧ f.imm = 1 then [(.v f.v.toNat, L, ((frdLaneRule s t ft f L).extractLsb' 0 32).setWidth 64),
              (.v (f.v.toNat + 1), L, ((frdLaneRule s t ft f L).extractLsb' 32 32).setWidth 64)] else [(.v f.v.toNat, L,
                frdLaneRule s t ft f L)] := by
          unfold frdRegs
          split <;> rfl
        simp only [hregs] at hends
        exact hends
      case isFalse hv => exact frd_once hi hf hv
  · intro h f s t ft k n lanes writes hf
    obtain ⟨-, -, hk, -⟩ := id hf
    refine ⟨fun hi hp => ?_, ?_⟩
    · refine ⟨fun hfile hn => ?_, fun hfile hn => ?_, fun hfile => ?_, fun hfile => ?_, fun hfile himm => ?_, fun hfile himm => ?_,
        fun hfile himm => ?_, fun hfile x m hx hm hb => ?_⟩
      · rw [fwr_v hi hf (by rw [hfile]; rfl), if_pos hn]
        exact patch_writes hi.1 hk hp (okWrite_v _ _) id
      · rw [fwr_v hi hf (by rw [hfile]; rfl), if_neg (Nat.not_lt.mpr hn)]
        exact retire_ends hi.1
      · rw [fwr_s hi hf (by rw [hfile]; rfl)]
        exact patch_writes hi.1 hk hp (okWrite_s _ _) id
      · rw [fwr_k hi hf (by rw [hfile]; rfl)]
        exact patch_writes hi.1 hk hp (okWrite_k _ _) id
      · exact (fwr_pc hi hf (by rw [hfile]; rfl) (by rw [himm]; rfl)).1
      · exact (fwr_pc hi hf (by rw [hfile]; rfl) (by rw [himm]; rfl)).2
      · exact ⟨_, fun L hL => fwrActive_getLsbD hL, fwr_active hi hf (by rw [hfile]; rfl) (by rw [himm]; rfl)⟩
      · exact fwr_acc hi hf (by rw [hfile]; rfl) hx hm hb
    · intro hi hp hh hc w hw part finish
      refine ⟨fun b words hd hpart hallot => ?_, fun b hd hpart => ?_, fun b L hd hL hpart => ?_⟩
      · have hws : patchWrites t ft (destOf (decodeWord w)) (t.act h) f.v.toNat (f.imm.toNat % 4) =
            (sharedLanes t ft h).map fun L => (.v (b + part), L, (t.rv f.v.toNat L).setWidth 64) := by
          rw [hd, patchWrites]
          exact if_pos ⟨hpart, hallot⟩
        rw [exec_fpatch hi hf hh hc hw hws]
        exact patch_writes hi.1 hk hp (okWrite_v _ _) (patchDone t ft h f)
      · have hws : patchWrites t ft (destOf (decodeWord w)) (t.act h) f.v.toNat (f.imm.toNat % 4) =
            (sharedLanes t ft h).map fun L => (.k b, L, bit ((t.rv f.v.toNat L).getLsbD 0)) := by
          rw [hd, patchWrites]
          exact if_pos hpart
        rw [exec_fpatch hi hf hh hc hw hws]
        exact patch_writes hi.1 hk hp (okWrite_k _ _) (patchDone t ft h f)
      · have hws : patchWrites t ft (destOf (decodeWord w)) (t.act h) f.v.toNat (f.imm.toNat % 4) = [(.s b, 0, if part = 0 then
            (ft.rs b).extractLsb' 32 32 ++ t.rv f.v.toNat L else t.rv f.v.toNat L ++ (ft.rs b).extractLsb' 0 32)] := by
          rw [hd, patchWrites]
          dsimp only
          rw [head_sharedLanes hL]
          dsimp only
          show (if part = 0 then _ else if part = 1 then _ else _) = _
          by_cases h0 : part = 0
          · rw [if_pos h0, if_pos h0]
          · rw [if_neg h0, if_neg h0, if_pos (by omega)]
        rw [exec_fpatch hi hf hh hc hw hws]
        exact patch_writes hi.1 hk hp (okWrite_s _ _) (patchDone t ft h f)

end Sys2Proof.Machine

/-! PROOFS. What lets a frozen team go on: FRESUME and FSTEP (R184, R286). -/

namespace Sys2Proof.Machine

open Host

/-! ## Translations do not look at teams -/

/-- The machine with other teams. -/
def State.withTeams (s : State) (T : List (Nat × Team)) : State := { s with teams := T }

section Blind

variable (s : State) (T : List (Nat × Team))

theorem State.pkg_withTeams (p : Nat) : (s.withTeams T).pkg p = s.pkg p := rfl
theorem State.updPkg_withTeams (p : Nat) (f : Pkg → Pkg) : (s.withTeams T).updPkg p f = (s.updPkg p f).withTeams T := rfl
theorem State.updCore_withTeams (c : Nat) (f : Core → Core) : (s.withTeams T).updCore c f = (s.updCore c f).withTeams T := rfl
theorem State.addHist_withTeams (p f i k n : Nat) : (s.withTeams T).addHist p f i k n = (s.addHist p f i k n).withTeams T := rfl

/-- A read of a granule that is poisoned is recorded. -/
def State.readHeld (s : State) (p f i : Nat) : State × Bool :=
  if (find (s.pkg p).poison (2048 * f + i)).isSome then (s.addHist p f i 3 63, true) else (s, false)

theorem State.readHeld_withTeams (p f i : Nat) : (s.withTeams T).readHeld p f i = ((s.readHeld p f i).1.withTeams T, (s.readHeld p f i).2) := by
  unfold State.readHeld
  rw [State.pkg_withTeams]
  by_cases h : (find (s.pkg p).poison (2048 * f + i)).isSome = true
  · rw [if_pos h, if_pos h]
    rfl
  · rw [if_neg h, if_neg h]

/-- A correctable error is taken out before the granule is read. -/
theorem State.readGranule_eq (p f i : Nat) : s.readGranule p f i = match find (s.pkg p).symErr (2048 * f + i) with
    | none => s.readHeld p f i
    | some n =>
      if n < 64 then ((s.updPkg p fun k => let k := k.count 12; { k with symErr := erase k.symErr (2048 * f + i) }).addHist p f i 1 n).readHeld p f i
      else ((s.updPkg p fun k =>
        let k := (k.count 13).setAstat 7
        { k with symErr := erase k.symErr (2048 * f + i), poison := put k.poison (2048 * f + i) 1 }).addHist p f i 2 63, true) := rfl

theorem State.readGranule_withTeams (p f i : Nat) :
    (s.withTeams T).readGranule p f i = ((s.readGranule p f i).1.withTeams T, (s.readGranule p f i).2) := by
  rw [State.readGranule_eq, State.readGranule_eq, State.pkg_withTeams]
  cases find (s.pkg p).symErr (2048 * f + i) with
  | none => exact s.readHeld_withTeams T p f i
  | some n =>
    dsimp only
    by_cases hn : n < 64
    · rw [if_pos hn, if_pos hn]
      rw [State.updPkg_withTeams, State.addHist_withTeams, State.readHeld_withTeams]
    · rw [if_neg hn, if_neg hn]
      rfl

theorem State.sysTouch_withTeams (at_ a n : Nat) : (s.withTeams T).sysTouch at_ a n = (s.sysTouch at_ a n).withTeams T := by
  have hfold (l : List Nat) (q f : Nat) (s : State) : l.foldl (fun s i => (s.readGranule q f ((a % 65536 / 32 + i) % 2048)).1) (s.withTeams T) =
      (l.foldl (fun s i => (s.readGranule q f ((a % 65536 / 32 + i) % 2048)).1) s).withTeams T := by
    induction l generalizing s with
    | nil => rfl
    | cons i l ih => rw [List.foldl_cons, List.foldl_cons, State.readGranule_withTeams, ih]
  have hserving : (s.withTeams T).servingFrame at_ (a / 65536) = s.servingFrame at_ (a / 65536) := rfl
  unfold State.sysTouch
  dsimp only
  rw [hserving]
  cases (if isHost (a / 65536) = true then none else s.servingFrame at_ (a / 65536)) with
  | none => rfl
  | some x =>
    dsimp only
    rw [hfold]
    split <;> rfl

theorem State.sysRead_withTeams (at_ a n : Nat) : (s.withTeams T).sysRead at_ a n = ((s.sysRead at_ a n).1.withTeams T, (s.sysRead at_ a n).2) := by
  have hbytes : (s.withTeams T).sysBytes at_ a n = s.sysBytes at_ a n := rfl
  unfold State.sysRead
  rw [hbytes, State.sysTouch_withTeams]
  cases s.sysBytes at_ a n <;> rfl

theorem State.walk_withTeams (p vpage n gpn tidx : Nat) :
    (s.withTeams T).walk p vpage n gpn tidx = ((s.walk p vpage n gpn tidx).1.withTeams T, (s.walk p vpage n gpn tidx).2) := by
  induction n generalizing s gpn tidx with
  | zero => rfl
  | succ n ih =>
    unfold State.walk
    dsimp only
    rw [State.sysRead_withTeams]
    cases hr : s.sysRead p (65536 * gpn + 8192 * tidx + 8 * (vpage / 2 ^ (10 * n) % if n = 3 then 2048 else 1024)) 8 with
    | mk s2 bs =>
      cases bs with
      | none => rfl
      | some bs =>
        dsimp only
        split
        · rfl
        · split
          · rfl
          · split
            · rfl
            · exact ih _ _ _

theorem State.ctxLeaf_withTeams (p ctx va : Nat) :
    (s.withTeams T).ctxLeaf p ctx va = ((s.ctxLeaf p ctx va).1.withTeams T, (s.ctxLeaf p ctx va).2) := by
  unfold State.ctxLeaf
  rw [State.pkg_withTeams]
  cases find (s.pkg p).ctxs ctx with
  | none => rfl
  | some c =>
    dsimp only
    rw [State.walk_withTeams]
    by_cases hcan : canonical (BitVec.ofNat 64 va) = true
    · rw [if_pos hcan, if_pos hcan]
      cases s.walk p (va / 65536 % 2 ^ 41) 4 c.rootGpn c.rootTidx with
      | mk s2 r => cases r <;> rfl
    · rw [if_neg hcan, if_neg hcan]

theorem State.ctxPlace_withTeams (p ctx va : Nat) :
    (s.withTeams T).ctxPlace p ctx va = ((s.ctxPlace p ctx va).1.withTeams T, (s.ctxPlace p ctx va).2) := by
  unfold State.ctxPlace
  rw [State.ctxLeaf_withTeams]
  cases s.ctxLeaf p ctx va with
  | mk s2 l =>
    cases l with
    | none => rfl
    | some l =>
      have hpool : (s2.withTeams T).pooled l.gpn = s2.pooled l.gpn := rfl
      have hbad : (s2.withTeams T).poisonedAt p l.gpn (va % 65536) 4 = s2.poisonedAt p l.gpn (va % 65536) 4 := rfl
      dsimp only
      rw [hpool, hbad, State.pkg_withTeams]
      split <;> rfl

theorem State.shadowHot_withTeams (p ctx gpn : Nat) :
    (s.withTeams T).shadowHot p ctx gpn = ((s.shadowHot p ctx gpn).1.withTeams T, (s.shadowHot p ctx gpn).2) := by
  unfold State.shadowHot
  rw [State.pkg_withTeams]
  cases find (s.pkg p).ctxs ctx with
  | none => rfl
  | some c =>
    dsimp only
    split
    · rfl
    · rw [State.ctxPlace_withTeams]
      cases s.ctxPlace p ctx (c.shbase + 4 * (gpn % 2 ^ c.shw)) with
      | mk s2 x =>
        cases x with
        | none => rfl
        | some x =>
          dsimp only
          rw [State.sysRead_withTeams]
          cases s2.sysRead p x.2 4 with
          | mk s3 bs => cases bs <;> rfl

theorem State.askWalk_withTeams (core ctx : Nat) (va : Word) (write fetch_ : Bool) :
    ((s.withTeams T).askWalk core ctx va write fetch_).2 = (s.askWalk core ctx va write fetch_).2 := by
  have hasking : (s.withTeams T).asking core ctx va = s.asking core ctx va := rfl
  unfold State.askWalk
  dsimp only
  rw [hasking]
  cases s.asking core ctx va with
  | some ix => rfl
  | none =>
    dsimp only
    unfold State.askHost
    dsimp only
    rw [State.pkg_withTeams]
    split <;> rfl

/-- A translation is the same with other teams, where the team that asks has the same failing answers. -/
theorem State.translate_withTeams (core ctx : Nat) (va : Word) (write fetch_ : Bool)
    (hfails : ∀ p vp, (s.withTeams T).failed p ctx vp = s.failed p ctx vp) :
    ((s.withTeams T).translate core ctx va write fetch_).2 = (s.translate core ctx va write fetch_).2 := by
  have hno : (s.withTeams T).noCore = s.noCore := rfl
  have hcore : (s.withTeams T).core core = s.core core := rfl
  have hasking : (s.withTeams T).asking core ctx va = s.asking core ctx va := rfl
  unfold State.translate
  dsimp only
  by_cases hcan : (!canonical va) = true
  · rw [if_pos hcan, if_pos hcan]
  · rw [if_neg hcan, if_neg hcan, hno, hcore]
    cases (if s.noCore = true then none else (s.core core).tlb.find? (·.covers ctx (va.toNat / 65536 % 2 ^ 41))) with
    | some e => rfl
    | none =>
      dsimp only
      rw [State.pkg_withTeams, hfails, hasking]
      cases (s.pkg (pkgOf core)).tlb2.find? (·.covers ctx (va.toNat / 65536 % 2 ^ 41)) with
      | some e => rfl
      | none =>
        dsimp only
        cases s.failed (pkgOf core) ctx (va.toNat / 65536 % 2 ^ 41) with
        | some c => rfl
        | none =>
          dsimp only
          by_cases hask : ((s.pkg (pkgOf core)).duty.getLsbD 3 || (s.asking core ctx va).isSome) = true
          · rw [if_pos hask, if_pos hask]
            exact s.askWalk_withTeams T core ctx va write fetch_
          · rw [if_neg hask, if_neg hask]
            cases find (s.pkg (pkgOf core)).ctxs ctx with
            | none => rfl
            | some c =>
              dsimp only
              rw [State.walk_withTeams]
              cases s.walk (pkgOf core) (va.toNat / 65536 % 2 ^ 41) 4 c.rootGpn c.rootTidx with
              | mk s2 r =>
                cases r with
                | none => rfl
                | some r =>
                  dsimp only
                  rw [State.shadowHot_withTeams]

/-- Pages that a frozen team names are the same with other teams. -/
theorem State.dropPages_withTeams (k : Nat) (ft : Team) (hfails : ∀ p ctx vp, (s.withTeams T).failed p ctx vp = s.failed p ctx vp) :
    (s.withTeams T).dropPages k ft = (s.dropPages k ft).withTeams T := by
  have hword : (s.withTeams T).wordAt (coreOf k) ft.ctx ft.cause.addr = s.wordAt (coreOf k) ft.ctx ft.cause.addr := by
    unfold State.wordAt
    rw [State.translate_withTeams s T _ _ _ _ _ fun p vp => hfails p _ vp]
    rfl
  have hnamed : (s.withTeams T).named (coreOf k) ft = s.named (coreOf k) ft := by
    unfold State.named
    rw [hword]
  unfold State.dropPages State.dropPagesAt
  dsimp only
  rw [hnamed]
  split <;> rfl

end Blind

/-! ## What a retry changes beside its team -/

theorem State.dropPages_teams (s : State) (k : Nat) (ft : Team) : (s.dropPages k ft).teams = s.teams := by
  unfold State.dropPages State.dropPagesAt
  dsimp only
  split <;> rfl

theorem State.dropPages_core (s : State) (k : Nat) (ft : Team) (c : Nat) : (s.dropPages k ft).core c = { s.core c with tlb := ((s.dropPages k ft).core c).tlb } := by
  unfold State.dropPages State.dropPagesAt
  dsimp only
  split
  · by_cases hc : c = coreOf k
    · have hcore (f : Core → Core) (g : Pkg → Pkg) : ((s.updCore (coreOf k) f).updPkg (pkgOf (coreOf k)) g).core c = f (s.core c) := by
        rw [hc]
        exact State.core_updCore s (coreOf k) f
      rw [hcore]
    · have hcore (f : Core → Core) (g : Pkg → Pkg) : ((s.updCore (coreOf k) f).updPkg (pkgOf (coreOf k)) g).core c = s.core c :=
        State.core_updCore_other s f hc
      rw [hcore]
  · rfl

/-- Lanes whose cause is set (R286). -/
theorem CauseRec.names_mask (r : CauseRec) : r.Names r.mask := by
  intro L hL
  unfold CauseRec.mask
  rw [maskOf_getLsbD _ _ hL]
  simp [hL]

/-! ## FRESUME -/

section Resume

variable {i : Instr} {h : Hdr} {f : FF} {s : State} {t ft : Team} {k : Nat}

/-- A word that issues only behind the reeve's writes goes on without any (R318). -/
theorem behindWrites_nil (hw : s.unwritten s.cur t.serial = []) (go : Act) : behindWrites s s.cur t go = go := by
  unfold behindWrites
  rw [hw]

/-- It waits for those that have yet to be performed. -/
theorem behindWrites_waits (hw : s.unwritten s.cur t.serial ≠ []) (go : Act) :
    behindWrites s s.cur t go = .park s (.fetched (s.unwritten s.cur t.serial)) := by
  unfold behindWrites
  cases hl : s.unwritten s.cur t.serial with
  | nil => exact absurd hl hw
  | cons r rs => rfl

/-- The frozen team as FRESUME lets it go on (R184). -/
def Team.resumed (ft : Team) (now : Nat) (skip : Bool) : Team := if skip then ft.skip now else { ft.again now with cause := (ft.again now).cause }

/-- The machine in which the frozen team goes on as u. -/
def State.resumedAs (s : State) (k : Nat) (ft : Team) (skip : Bool) (u : Team) : State :=
  let s1 := s.delist k
  let s2 := ((if skip then s1 else s1.dropPages k ft).bump).setTeam k { u with escalated := false, admitSeq := s.fresh, withdrawn := false }
  { s2 with teams := s2.teams.map fun e => if e.2.h0 = Handle.frozen k then (e.1, { e.2 with h0 := Handle.none }) else e }

/-- FRESUME of a team with a precise record that is not at a header and without kept reports. -/
theorem State.resume_eq (hteam : s.team k = some ft) (hr : ft.reports = []) (hc : ft.cause.primary ≠ 0) (hh : ft.cause.atHeader = false) (skip : Bool) :
    s.resume k skip = s.resumedAs k ft skip (if skip then ft.skip s.now else ft.again s.now) := by
  have hclean : ft.clean = false := by simp [Team.clean, hc]
  unfold State.resume
  rw [hteam]
  dsimp only
  rw [hr, hclean, hh]
  cases skip <;> rfl

/-- The teams of the machine in which a frozen team goes on. -/
theorem State.resumedAs_team (skip : Bool) (u : Team) (n : Nat) : (s.resumedAs k ft skip u).team n =
    (if n = k then some { u with escalated := false, admitSeq := s.fresh, withdrawn := false } else s.team n).map fun v =>
      if v.h0 = .frozen k then { v with h0 := .none } else v := by
  have hteams : (if skip then s.delist k else (s.delist k).dropPages k ft).teams = s.teams := by
    cases skip
    · exact State.dropPages_teams _ _ _
    · rfl
  unfold State.resumedAs State.team
  dsimp only
  rw [find_map_of_key]
  · have hset : find (((if skip then s.delist k else (s.delist k).dropPages k ft).bump).setTeam k
        { u with escalated := false, admitSeq := s.fresh, withdrawn := false }).teams n =
        if n = k then some { u with escalated := false, admitSeq := s.fresh, withdrawn := false } else find s.teams n := by
      show find (put (if skip then s.delist k else (s.delist k).dropPages k ft).teams k _) n = _
      rw [hteams]
      split
      case isTrue hn => rw [hn, find_put_same]
      case isFalse hn => rw [find_put_other _ _ _ hn]
    rw [hset]
    congr 1
    funext v
    split <;> rfl
  · intro e
    split <;> rfl

/-- No handle and no list names a team that goes on. -/
theorem State.resumedAs_unnamed (skip : Bool) (u : Team) : (s.resumedAs k ft skip u).Unnamed k := by
  refine ⟨fun c => ?_, fun n v hv => ?_⟩
  · have hcore : ((s.resumedAs k ft skip u).core c).waiting = ((s.delist k).core c).waiting ∧ ((s.resumedAs k ft skip u).core c).held = ((s.delist k).core c).held := by
      cases skip
      · show (((s.delist k).dropPages k ft).core c).waiting = _ ∧ (((s.delist k).dropPages k ft).core c).held = _
        rw [State.dropPages_core]
        exact ⟨rfl, rfl⟩
      · exact ⟨rfl, rfl⟩
    rw [hcore.1, hcore.2]
    exact s.delist_unlisted k c
  · rw [State.resumedAs_team, Option.map_eq_some_iff] at hv
    obtain ⟨w, -, rfl⟩ := hv
    split
    · intro hc
      cases hc
    · assumption

end Resume

/-! ## Sorted maps with the same entries -/

theorem find_none_of_lt {α : Type} {m : List (Nat × α)} {k : Nat} (h : ∀ e ∈ m, k < e.1) : find m k = none := by
  unfold find
  rw [Option.map_eq_none_iff, List.find?_eq_none]
  intro e he
  have := h e he
  simp
  omega

/-- Sorted maps that answer alike are the same. -/
theorem rising_ext {α : Type} {m m' : List (Nat × α)} (h : Rising m) (h' : Rising m') (hf : ∀ k, find m k = find m' k) : m = m' := by
  induction m generalizing m' with
  | nil =>
    cases m' with
    | nil => rfl
    | cons b l' =>
      have := hf b.1
      rw [find_nil, find_cons, if_pos rfl] at this
      cases this
  | cons a l ih =>
    obtain ⟨ha, hl⟩ := List.pairwise_cons.mp h
    cases m' with
    | nil =>
      have := hf a.1
      rw [find_nil, find_cons, if_pos rfl] at this
      cases this
    | cons b l' =>
      obtain ⟨hb, hl'⟩ := List.pairwise_cons.mp h'
      have hkey : a.1 = b.1 := by
        rcases lt_trichotomy a.1 b.1 with hlt | heq | hgt
        · have := hf a.1
          rw [find_cons, if_pos rfl, find_none_of_lt] at this
          · cases this
          · exact fun e he => (List.mem_cons.mp he).elim (fun h => h ▸ hlt) fun he => lt_trans hlt (hb e he)
        · exact heq
        · have := hf b.1
          rw [find_cons b, if_pos rfl, find_none_of_lt] at this
          · cases this
          · exact fun e he => (List.mem_cons.mp he).elim (fun h => h ▸ hgt) fun he => lt_trans hgt (ha e he)
      have hval : a.2 = b.2 := by
        have := hf a.1
        rw [find_cons, if_pos rfl, find_cons, if_pos hkey.symm] at this
        exact Option.some.inj this
      rw [Prod.ext hkey hval, ih hl hl' fun k => ?_]
      by_cases hk : a.1 = k
      · rw [find_none_of_lt (hk ▸ ha), find_none_of_lt (hk ▸ hkey ▸ hb)]
      · have := hf k
        rwa [find_cons, if_neg hk, find_cons, if_neg (hkey ▸ hk)] at this

/-- Writes of two keys of a sorted map may change places. -/
theorem put_comm {α : Type} {m : List (Nat × α)} (h : Rising m) {a b : Nat} (hab : a ≠ b) (x y : α) : put (put m a x) b y = put (put m b y) a x := by
  refine rising_ext (rising_put (rising_put h _ _) _ _) (rising_put (rising_put h _ _) _ _) fun k => ?_
  by_cases ha : k = a
  · rw [ha, find_put_other _ _ _ hab, find_put_same, find_put_same]
  · by_cases hb : k = b
    · rw [hb, find_put_same, find_put_other _ _ _ hab.symm, find_put_same]
    · rw [find_put_other _ _ _ hb, find_put_other _ _ _ ha, find_put_other _ _ _ ha, find_put_other _ _ _ hb]

/-! ## Results that come later -/

/-- A result of parts that are awaited stands at its places alone. -/
theorem Team.awaits_writeLong (t : Team) {ps : List Part} (hs : ∀ q ∈ ps, q.stale = false) : t.Awaits (t.writeLong ps) ps := by
  intro r L _
  refine ⟨?_, ?_⟩
  · refine Team.endVal_congr ?_ ?_ r L
    · exact ⟨rfl, rfl, rfl, rfl⟩
    · rfl
  · have hdue : (t.writeLong ps).dueParts r L =
        (t.overwrite (ps.map fun q => (q.reg, q.lane))).dueParts r L ++ ps.filter fun q => q.reg == r && q.lane == L := by
      have hf : ps.filter (fun q => !q.stale && (q.reg == r && q.lane == L)) = ps.filter fun q => q.reg == r && q.lane == L :=
        List.filter_congr fun q hq => by simp [hs q hq]
      simp only [Team.dueParts, Team.writeLong, List.flatMap_append, List.filter_append, List.flatMap_cons, List.flatMap_nil, List.append_nil, hf]
    rw [hdue, Team.dueParts_overwrite, List.any_map]
    cases hl : ps.filter fun q => q.reg == r && q.lane == L with
    | nil =>
      have hany : (ps.any ((fun w => w.1 == r && w.2 == L) ∘ fun q => (q.reg, q.lane))) = false := by
        rw [List.any_eq_false]
        exact fun q hq => List.filter_eq_nil_iff.mp hl q hq
      rw [hany, if_neg (by decide), List.append_nil]
    | cons q qs =>
      have hany : (ps.any ((fun w => w.1 == r && w.2 == L) ∘ fun q => (q.reg, q.lane))) = true := by
        have hq : q ∈ ps.filter fun q => q.reg == r && q.lane == L := by rw [hl]; exact List.mem_cons_self
        exact List.any_eq_true.mpr ⟨q, (List.mem_filter.mp hq).1, (List.mem_filter.mp hq).2⟩
      rw [hany, if_pos rfl, List.nil_append]

theorem Team.Awaits.moved {t u t' : Team} {ps : List Part} (h : t.Awaits u ps) (hm : u.Moved t') : t.Awaits t' ps := by
  intro r L hp
  obtain ⟨hval, hdue⟩ := h r L hp
  exact ⟨(hm.2.1 r L).trans hval, (hm.2.2 r L).trans hdue⟩

/-- A word that retires with results that come later. -/
theorem endsParts_retire {s s2 : State} {tk : Nat} {t u : Team} {z : Bool} {ps : List Part} (h : s.team tk = some u) (hs : u.stepping = none)
    (h2 : ∀ x, s.setTeam tk x = s2.setTeam tk x) (hk : t.Kept u) (hn : u.pc = t.pc ∧ u.word = t.word) (hw : t.Awaits u ps) :
    EndsParts (.next ((Act.retire s).finish tk z)) s2 tk t ps := by
  obtain ⟨t', h3, h4, h5⟩ := Act.finish_retire z h hs
  refine ⟨t', by rw [h3, h2], hk.trans h4.1, ?_, hw.moved h4⟩
  have hh : u.hdr = t.hdr := by unfold Team.Kept at hk; rw [hk]
  unfold Team.Next at h5 ⊢
  simpa only [hn.1, hn.2, hh, Team.nextPc] using h5

section Resume

variable {i : Instr} {h : Hdr} {f : FF} {s : State} {t ft : Team} {k : Nat}

/-- A frozen team with a precise record that re-executes its word in some lanes (R286). -/
theorem Team.again_eq (hi : ft.cause.imprecise = false) (hh : ft.cause.atHeader = false) (hl : ft.cause.lanes ≠ []) (now : Nat) :
    ft.again now = { ft with run := .running, retry := some ft.cause.mask } := by
  unfold Team.again
  rw [hi, hh]
  cases hc : ft.cause.lanes with
  | nil => exact absurd hc hl
  | cons c l => rfl

/-- A frozen team that goes on behind its word (R184). -/
theorem Team.skip_rule (hi : ft.cause.imprecise = false) (now : Nat) : (ft.skip now).run = .running ∧ (ft.skip now).cause = {} ∧
    (ft.skip now).retry = none ∧ (ft.skip now).syncMark = none ∧ (ft.skip now).h0 = ft.h0 ∧ ft.Next (ft.skip now) ∧
    (∀ r L, (ft.skip now).endVal r L = ft.endVal r L) ∧ ∀ r L, (ft.skip now).dueParts r L = ft.dueParts r L := by
  unfold Team.skip
  dsimp only
  rw [if_neg (by simp [hi])]
  by_cases hj : ft.word.getD 0 < ft.hdr.n.toNat
  · rw [if_pos hj]
    refine ⟨rfl, rfl, rfl, rfl, rfl, ?_, fun r L => ?_, fun _ _ => rfl⟩
    · unfold Team.Next
      rw [if_pos hj]
      exact ⟨rfl, rfl⟩
    · refine Team.endVal_congr ?_ ?_ r L
      · exact ⟨rfl, rfl, rfl, rfl⟩
      · rfl
  · rw [if_neg hj]
    obtain ⟨⟨hk, hval, hdue⟩, hpc, hword⟩ := Team.endClause_moved { ft with syncMark := none } now ft.nextPc
    unfold Team.Kept at hk
    refine ⟨rfl, rfl, rfl, ?_, ?_, ?_, fun r L => ?_, fun r L => hdue r L⟩
    · show (Team.endClause { ft with syncMark := none } now ft.nextPc).syncMark = none
      rw [hk]
    · show (Team.endClause { ft with syncMark := none } now ft.nextPc).h0 = ft.h0
      rw [hk]
    · unfold Team.Next
      rw [if_neg hj]
      exact ⟨hpc, hword⟩
    · refine (hval r L).trans ?_
      refine Team.endVal_congr ?_ ?_ r L
      · exact ⟨rfl, rfl, rfl, rfl⟩
      · rfl

/-- The reeve, and the frozen team, in the machine in which the latter goes on. -/
theorem resumed_ends {z : Bool} (hteam : s.team s.cur = some t) (hs : t.stepping = none) (hf : OnFrozen s t f k ft) (skip : Bool) {u : Team}
    (hu : u.h0 = .none) :
    let X := s.resumedAs k ft skip u
    EndsIn (.next ((Act.retire X).finish s.cur z)) X s.cur [] ∧ X.team s.cur = some { t with h0 := .none } ∧ X.Unnamed k ∧
      X.team k = some { u with escalated := false, withdrawn := false, admitSeq := s.fresh } := by
  intro X
  obtain ⟨-, hh0, hk, -⟩ := hf
  have hown : X.team s.cur = some { t with h0 := .none } := by
    show (s.resumedAs k ft skip u).team s.cur = _
    rw [State.resumedAs_team, if_neg hk.symm, hteam, Option.map_some, if_pos hh0]
  refine ⟨⟨_, hown, retire_ends_in hown hs z⟩, hown, State.resumedAs_unnamed skip u, ?_⟩
  show (s.resumedAs k ft skip u).team k = _
  rw [State.resumedAs_team, if_pos rfl, Option.map_some, if_neg]
  intro hc
  rw [show ({ u with escalated := false, admitSeq := s.fresh, withdrawn := false } : Team).h0 = u.h0 from rfl, hu] at hc
  cases hc

/-- FSTEP (R184). -/
theorem fstep_ends (hi : s.IssuesOnce t (.fstep h f) h) (hf : OnFrozen s t f k ft) (hw : s.unwritten s.cur t.serial = []) (hrise : Rising s.teams)
    (himp : ft.cause.imprecise = false) (hc : ft.cause.primary ≠ 0) (hh : ft.cause.atHeader = false) (hl : ft.cause.lanes ≠ []) :
    EndsParts (exec (.fstep h f) s)
      ((s.bump.dropPages k ft).setTeam k { ft with run := .running, retry := some ft.cause.mask, stepping := some (some s.fresh) }) s.cur t
      [⟨.s f.ssel.toNat, 0, (List.range 8).map fun i => .await s.fresh i, false, false⟩] := by
  show EndsParts (issue (.fstep h f) h _ s) _ _ _ _
  rw [onFrozen_next hi hf, behindWrites_nil hw]
  obtain ⟨-, -, hk, hteam, hstep, -⟩ := hf
  let tl := t.writeLong [⟨.s f.ssel.toNat, 0, (List.range 8).map fun i => .await s.fresh i, false, false⟩]
  let u : Team := { ft with run := .running, retry := some ft.cause.mask, stepping := some (some s.fresh) }
  let s1 := s.bump.withTeams (put s.teams s.cur tl)
  have hbegin : (s.bump.setTeam s.cur tl).beginStep k (some s.fresh) = (s1.dropPages k ft).setTeam k u := by
    have hteam1 : (s.bump.setTeam s.cur tl).team k = some ft := by
      rw [State.team_setTeam_other _ _ hk]
      exact hteam
    have hclean : ft.clean = false := by simp [Team.clean, hc]
    have hempty : ft.cause.lanes.isEmpty = false := by simpa using hl
    have hagain := Team.again_eq (ft := { ft with stepping := some (some s.fresh) }) himp hh hl s.now
    unfold State.beginStep
    rw [hteam1]
    dsimp only
    have hclean' : ({ ft with stepping := some (some s.fresh) } : Team).clean = false := hclean
    rw [hclean', himp, hempty]
    simp only [Bool.or_self, Bool.false_and, Bool.false_eq_true, if_false]
    rw [show (s.bump.setTeam s.cur tl).now = s.now from rfl, hagain]
    rfl
  have hfails (p ctx vp : Nat) : s1.failed p ctx vp = s.bump.failed p ctx vp := by
    have h1 : s1.team s1.cur = some tl := State.team_setTeam s.bump s.cur tl
    have h2 : s.bump.team s.bump.cur = some t := hi.1.1
    unfold State.failed
    rw [h1, h2]
    rfl
  have hdrop : (s1.dropPages k ft) = (s.bump.dropPages k ft).withTeams (put s.teams s.cur tl) :=
    State.dropPages_withTeams s.bump _ k ft hfails
  dsimp only
  rw [show (s.bump.setTeam s.cur (t.writeLong _)).beginStep k (some s.fresh) = _ from hbegin, hdrop]
  have hown : (((s.bump.dropPages k ft).withTeams (put s.teams s.cur tl)).setTeam k u).team s.cur = some tl := by
    rw [State.team_setTeam_other _ _ hk.symm]
    exact find_put_same _ _ _
  refine endsParts_retire hown hi.1.2.2.2.2 (fun x => ?_) rfl ⟨rfl, rfl⟩ (t.awaits_writeLong (by simp))
  have hteams : (s.bump.dropPages k ft).teams = s.teams := State.dropPages_teams _ _ _
  have hput : put (put (put s.teams s.cur tl) k u) s.cur x = put (put (s.bump.dropPages k ft).teams k u) s.cur x := by
    rw [put_comm hrise hk.symm, put_put, hteams]
  show ({ s.bump.dropPages k ft with teams := put (put (put s.teams s.cur tl) k u) s.cur x } : State) = _
  rw [hput]
  rfl

end Resume

/-- Settles O29: the machine in which the frozen team goes on differs in that team, in the handles and lists that named it, and in TLB
entries; a step is one word under the number that the reeve's register waits for. -/
theorem reeveResumesAndSteps : Obligations.ReeveResumesAndSteps := by
  unfold Obligations.ReeveResumesAndSteps
  intro h f s t ft k hf hr hh0 himp hc own
  have hteam : s.team k = some ft := hf.2.2.2.1
  refine ⟨fun hw i hcase hi => ?_, fun hi hh => ?_, fun hw => ⟨fun hi hh hl => ?_, fun hi hh => ?_, fun hi hrise hh hl => ?_⟩⟩
  · rcases hcase with rfl | ⟨rfl, hh⟩ | rfl
    · show Parks (issue (.fresumeRetry h f) h _ s) _ _ _ _
      rw [onFrozen_next hi hf, behindWrites_waits hw]
      exact park_parks hi.1 _
    · show Parks (issue (.fresumeSkip h f) h _ s) _ _ _ _
      rw [onFrozen_next hi hf, if_neg (by simp [hh]), behindWrites_waits hw]
      exact park_parks hi.1 _
    · show Parks (issue (.fstep h f) h _ s) _ _ _ _
      rw [onFrozen_next hi hf, behindWrites_waits hw]
      exact park_parks hi.1 _
  · show Freezes (issue (.fresumeSkip h f) h _ s) _ _ _ _ _
    rw [onFrozen_next hi hf, if_pos hh]
    exact fault_freezes hi.1 _ (.inr rfl)
  · have hexec : exec (.fresumeRetry h f) s =
        .next ((Act.retire (s.resumedAs k ft false { ft with run := .running, retry := some ft.cause.mask })).finish s.cur h.z) := by
      show issue (.fresumeRetry h f) h _ s = _
      rw [onFrozen_next hi hf, behindWrites_nil hw, State.resume_eq hteam hr hc hh, if_neg (by decide), Team.again_eq himp hh hl]
    rw [hexec]
    obtain ⟨hends, hown, hun, hk⟩ := resumed_ends (z := h.z) hi.1.1 hi.1.2.2.2.2 hf false
      (u := { ft with run := .running, retry := some ft.cause.mask }) hh0
    exact ⟨_, ft.cause.mask, hends, hown, hun, ft.cause.names_mask, hk⟩
  · have hexec : exec (.fresumeSkip h f) s = .next ((Act.retire (s.resumedAs k ft true (ft.skip s.now))).finish s.cur h.z) := by
      show issue (.fresumeSkip h f) h _ s = _
      rw [onFrozen_next hi hf, if_neg (by simp [hh]), behindWrites_nil hw, State.resume_eq hteam hr hc hh, if_pos rfl]
    rw [hexec]
    obtain ⟨hrun, hcause, hretry, hsync, hu0, hnext, hval, hdue⟩ := Team.skip_rule himp s.now
    obtain ⟨hends, hown, hun, hk⟩ := resumed_ends (z := h.z) hi.1.1 hi.1.2.2.2.2 hf true (u := ft.skip s.now) (hu0.trans hh0)
    refine ⟨_, _, hends, hown, hun, hk, hrun, hcause, hretry, hsync, hnext, fun r L _ => ⟨?_, hdue r L⟩⟩
    refine Eq.trans ?_ (hval r L)
    refine Team.endVal_congr ?_ ?_ r L
    · exact ⟨rfl, rfl, rfl, rfl⟩
    · rfl
  · exact ⟨_, ft.cause.names_mask, fstep_ends hi hf hw hrise himp hc hh hl⟩

end Sys2Proof.Machine

/-! PROOFS. The ends that a reeve brings, and its arrivals for a frozen team (R185, R291, R298). -/

namespace Sys2Proof.Machine

open Host

/-! ## Who may issue a reeve's word -/

/-- The row of a word that its encoding names. -/
theorem rowOf_of_encode {i : Instr} {op : BitVec 9} {h : Hdr} {r : BitVec 49} (he : encodeWord i = some (teamWord op h r)) : rowOf i = op.toNat / 16 := by
  unfold rowOf
  rw [he, Option.elim_some, wordOp_teamWord]

/-- A word that issues is of a row of its team's role (Table 01-6). -/
theorem roleRow_of_precheck {s : State} {tk : Nat} {t : Team} {i : Instr} {h : Hdr} (hi : ∀ h op rest, i ≠ .opcodeIllegal h op rest)
    (hp : s.precheck tk t i h = none) : roleRow t.role (rowOf i) = true := by
  rw [State.precheck_eq s tk t i h hi] at hp
  by_contra hrole
  rw [Bool.not_eq_true] at hrole
  simp only [hrole, if_true] at hp
  split_ifs at hp

/-- A word of row 0x17 is a reeve's. -/
theorem reeve_of_row {s : State} {tk : Nat} {t : Team} {i : Instr} {h : Hdr} (hi : ∀ h op rest, i ≠ .opcodeIllegal h op rest)
    (hp : s.precheck tk t i h = none) (hr : rowOf i = 0x17) : t.role = .reeve := by
  have hrole := roleRow_of_precheck hi hp
  rw [hr] at hrole
  cases hro : t.role with
  | reeve => rfl
  | general | copy | norm =>
    rw [hro] at hrole
    exact absurd hrole (by decide)

/-! ## Kills (R298, R357) -/

/-- What a kill of other teams leaves of a team. -/
def Team.Spared (u v : Team) : Prop := v = { u with tryR := v.tryR, outst := v.outst, h0 := v.h0 }

theorem Team.Spared.refl (u : Team) : u.Spared u := rfl

theorem Team.Spared.trans {a b c : Team} (hb : a.Spared b) (hc : b.Spared c) : a.Spared c := by
  unfold Team.Spared at hb hc ⊢
  rw [hb] at hc
  exact hc

section Spared

variable {u v : Team} (h : u.Spared v)
include h

theorem Team.Spared.grid : v.grid = u.grid := by unfold Team.Spared at h; rw [h]
theorem Team.Spared.role : v.role = u.role := by unfold Team.Spared at h; rw [h]
theorem Team.Spared.stepping : v.stepping = u.stepping := by unfold Team.Spared at h; rw [h]
theorem Team.Spared.doomed : v.doomed = u.doomed := by unfold Team.Spared at h; rw [h]
theorem Team.Spared.releasing : v.releasing = u.releasing := by unfold Team.Spared at h; rw [h]; rfl

end Spared

theorem Team.Grazed.spared {o : Prop} {u v : Team} (h : Team.Grazed o u v) : u.Spared v := by
  obtain ⟨h, -⟩ := h
  unfold Team.Spared
  rw [h]

/-- What a kill leaves of another team. -/
theorem State.kill_other (s : State) {tk n : Nat} (hn : n ≠ tk) :
    (∀ u, s.team n = some u → ∃ v, (s.kill tk).team n = some v ∧ u.Spared v) ∧ (s.team n = none → (s.kill tk).team n = none) := by
  unfold State.kill
  split
  · have hupd (f : Team → Team) : (s.updTeam tk f).team n = s.team n := by
      unfold State.updTeam
      split
      · exact State.team_setTeam_other s _ hn
      · rfl
    rw [hupd]
    exact ⟨fun u hu => ⟨u, hu, .refl u⟩, id⟩
  · cases ht : s.team tk with
    | none =>
      rw [State.endTeam_none ht]
      exact ⟨fun u hu => ⟨u, hu, .refl u⟩, id⟩
    | some t =>
      obtain ⟨hnone, hsome⟩ := State.endTeam_other ht hn
      refine ⟨fun u hu => ?_, hnone⟩
      obtain ⟨u', hgr, hu'⟩ := hsome u hu
      refine ⟨_, hu', hgr.spared.trans ?_⟩
      split <;> rfl

/-- A killed team is gone, or goes no further than the release that it waits for. -/
theorem State.kill_self (s : State) (tk : Nat) {v : Team} (hv : (s.kill tk).team tk = some v) :
    (v.doomed = true ∧ v.releasing = true) ∧ ∃ t, s.team tk = some t ∧ v.grid = t.grid ∧ v.role = t.role := by
  unfold State.kill at hv
  cases ht : s.team tk with
  | none => 
    rw [ht, Option.any_none, if_neg (by decide), State.endTeam_team] at hv
    cases hv
  | some t =>
    rw [ht, Option.any_some] at hv
    by_cases hr : t.releasing = true
    · rw [if_pos hr, State.updTeam_some ht, State.team_setTeam] at hv
      obtain rfl := Option.some.inj hv
      exact ⟨⟨rfl, hr⟩, t, rfl, rfl, rfl⟩
    · rw [if_neg hr, State.endTeam_team] at hv
      cases hv

/-- What is left of a team behind some kills. -/
theorem State.foldl_kill (l : List Nat) (s : State) (n : Nat) :
    (∀ u, s.team n = some u → n ∉ l → ∃ v, (l.foldl (fun s tk => s.kill tk) s).team n = some v ∧ u.Spared v) ∧
    (∀ v, (l.foldl (fun s tk => s.kill tk) s).team n = some v → (n ∈ l → v.doomed = true ∧ v.releasing = true) ∧
      ∃ u, s.team n = some u ∧ v.grid = u.grid ∧ v.role = u.role ∧ (u.doomed = true ∧ u.releasing = true → v.doomed = true ∧ v.releasing = true)) := by
  induction l generalizing s with
  | nil => exact ⟨fun u hu _ => ⟨u, hu, .refl u⟩, fun v hv => ⟨fun h => absurd h List.not_mem_nil, v, hv, rfl, rfl, id⟩⟩
  | cons tk l ih =>
    rw [List.foldl_cons]
    obtain ⟨ih1, ih2⟩ := ih (s.kill tk)
    refine ⟨fun u hu hn => ?_, fun v hv => ?_⟩
    · obtain ⟨hne, hnl⟩ := List.ne_and_not_mem_of_not_mem_cons hn
      obtain ⟨w, hw, huw⟩ := (s.kill_other hne).1 u hu
      obtain ⟨v, hv, hwv⟩ := ih1 w hw hnl
      exact ⟨v, hv, huw.trans hwv⟩
    · obtain ⟨hin, w, hw, hgrid, hrole, hdoom⟩ := ih2 v hv
      by_cases hne : n = tk
      · subst hne
        obtain ⟨hself, u, hu, hgrid', hrole'⟩ := s.kill_self n hw
        exact ⟨fun _ => hdoom hself, u, hu, hgrid.trans hgrid', hrole.trans hrole', fun _ => hdoom hself⟩
      · obtain ⟨hsome, hnone⟩ := s.kill_other hne
        cases hu : s.team n with
        | none =>
          rw [hnone hu] at hw
          cases hw
        | some u =>
          obtain ⟨w', hw', hsp⟩ := hsome u hu
          rw [hw'] at hw
          obtain rfl := Option.some.inj hw
          refine ⟨fun hmem => hin ((List.mem_cons.mp hmem).resolve_left hne), u, rfl, hgrid.trans hsp.grid, hrole.trans hsp.role, fun hd => hdoom ?_⟩
          rwa [hsp.doomed, hsp.releasing]

/-- An entry of a sorted map is the one found. -/
theorem find_of_mem {α : Type} {m : List (Nat × α)} (h : Rising m) {e : Nat × α} (he : e ∈ m) : find m e.1 = some e.2 := by
  induction m with
  | nil => cases he
  | cons a l ih =>
    obtain ⟨ha, hl⟩ := List.pairwise_cons.mp h
    rw [find_cons]
    rcases List.mem_cons.mp he with rfl | he
    · rw [if_pos rfl]
    · rw [if_neg (Nat.ne_of_lt (ha e he)), ih hl he]

/-- The teams of a grid that its kill reaches. -/
def State.killed (s : State) (g : Nat) : List Nat := (s.teams.filter fun (e : Nat × Team) => e.2.grid == g && !e.2.isReeve).map (·.1)

theorem State.killGrid_team (s : State) (g n : Nat) : (s.killGrid g).team n = ((s.killed g).foldl (fun s tk => s.kill tk) s).team n := by
  have hshares (l : List Nat) (x : State) : (l.foldl (fun s sh => s.endShare sh) x).teams = x.teams := by
    induction l generalizing x with
    | nil => rfl
    | cons sh l ih => rw [List.foldl_cons, ih, State.endShare_teams]
  unfold State.killGrid State.team
  dsimp only
  rw [hshares]
  rfl

/-- What the kill of a grid leaves of its teams: reeves, and teams whose release is under way. -/
theorem State.killGrid_rest (s : State) (g n : Nat) {v : Team} (hv : (s.killGrid g).team n = some v) (hg : v.grid = g) :
    v.role = .reeve ∨ v.doomed = true ∧ v.releasing = true := by
  rw [State.killGrid_team] at hv
  obtain ⟨hin, u, hu, hgrid, hrole, -⟩ := (State.foldl_kill (s.killed g) s n).2 v hv
  by_cases hreeve : v.role = .reeve
  · exact .inl hreeve
  · refine .inr (hin (List.mem_map.mpr ⟨(n, u), List.mem_filter.mpr ⟨find_mem hu, ?_⟩, rfl⟩))
    have : u.isReeve = false := by
      rw [hrole] at hreeve
      unfold Team.isReeve
      simpa using hreeve
    simp [← hgrid, hg, this]

/-- A reeve stands behind the kill of a grid. -/
theorem State.killGrid_reeve {s : State} (hrise : Rising s.teams) (g : Nat) {n : Nat} {u : Team} (hu : s.team n = some u) (hr : u.role = .reeve) :
    ∃ v, (s.killGrid g).team n = some v ∧ u.Spared v := by
  rw [State.killGrid_team]
  refine (State.foldl_kill (s.killed g) s n).1 u hu fun hmem => ?_
  obtain ⟨e, he, rfl⟩ := List.mem_map.mp hmem
  obtain ⟨hmem, hcond⟩ := List.mem_filter.mp he
  have hfound : s.team e.1 = some e.2 := find_of_mem hrise hmem
  rw [hu] at hfound
  obtain rfl := Option.some.inj hfound
  simp [Team.isReeve, hr] at hcond

/-! ## The words -/

section Words

variable {h : Hdr} {f : FF} {s : State} {t ft : Team} {k : Nat}

/-- FKILL goes on with the team that its handle names. -/
theorem exec_fkill (hi : s.IssuesOnce t (.fkill h f) h) (hf : OnFrozen s t f k ft) :
    exec (.fkill h f) s = .next ((behindWrites s s.cur t (.retire (s.endTeam k))).finish s.cur h.z) := by
  show issue (.fkill h f) h _ s = _
  obtain ⟨hhnd, hh0, -, hteam, hstep, -⟩ := hf
  rw [once_next hi, show t.handle f = .frozen k by rw [Team.handle, if_pos hhnd, hh0]]
  dsimp only
  rw [hteam, Option.bind_some, hstep]
  rfl

theorem exec_fkillGrid (hi : s.IssuesOnce t (.fkillGrid h f) h) (hf : OnFrozen s t f k ft) :
    exec (.fkillGrid h f) s = .next ((behindWrites s s.cur t (.retire (s.killGrid ft.grid))).finish s.cur h.z) := by
  show issue (.fkillGrid h f) h _ s = _
  obtain ⟨hhnd, hh0, -, hteam, hstep, -⟩ := hf
  rw [once_next hi, show t.handle f = .frozen k by rw [Team.handle, if_pos hhnd, hh0]]
  dsimp only
  rw [hteam]
  dsimp only
  rw [hstep]
  rfl

theorem exec_fkillGrid_departed (hi : s.IssuesOnce t (.fkillGrid h f) h) {e : Ended} {r : CauseRec} (hhnd : f.hnd = 0) (hh0 : t.h0 = .departed e r) :
    exec (.fkillGrid h f) s = .next ((behindWrites s s.cur t (.retire (s.killGrid e.grid))).finish s.cur h.z) := by
  show issue (.fkillGrid h f) h _ s = _
  rw [once_next hi, show t.handle f = .departed e r by rw [Team.handle, if_pos hhnd, hh0]]

/-- FKILL.grid of a reeve. -/
theorem killGrid_ends (hi : s.IssuesOnce t (.fkillGrid h f) h) (hrise : Rising s.teams) (g : Nat) :
    EndsIn (.next ((Act.retire (s.killGrid g)).finish s.cur h.z)) (s.killGrid g) s.cur [] := by
  have hrow : rowOf (.fkillGrid h f) = 0x17 := rowOf_of_encode (op := 0x175) (h := h) (r := f.bits) rfl
  have hrole := reeve_of_row (fun _ _ _ hc => by cases hc) hi.1.2.1 hrow
  obtain ⟨v, hv, hsp⟩ := State.killGrid_reeve hrise g hi.1.1 hrole
  exact ⟨v, hv, retire_ends_in hv (hsp.stepping.trans hi.1.2.2.2.2) h.z⟩

/-- FARRIVE goes on behind the releases of both (R185). -/
theorem exec_farrive (hi : s.IssuesOnce t (.farrive h f) h) (hf : OnFrozen s t f k ft) {sh off : Nat}
    (hsp : s.checkSp ft ((t.rs f.ssel.toNat).toNat % 2 ^ 32) 8 true = .ok (sh, off)) (hq : s.quiet k ft.serial = true) {s2 : State}
    (hrel : Released s s.cur t 2 s2) (hbad : f.imm.getLsbD 0 = false → ft.arriveBad sh off = none) :
    exec (.farrive h f) s = .next ((Act.retire (if f.imm.getLsbD 0 then (s2.release (coreOf k) 2).dropFor k sh off
      else (s2.release (coreOf k) 2).arriveFor k sh off)).finish s.cur h.z) := by
  show issue (.farrive h f) h _ s = _
  have hea : ((t.rs f.ssel.toNat).setWidth 32 : Lane32).toNat = (t.rs f.ssel.toNat).toNat % 2 ^ 32 := BitVec.toNat_setWidth _ _
  rw [onFrozen_next hi hf]
  dsimp only
  rw [hea, hsp]
  have hnone : (if f.imm.getLsbD 0 = true then none else ft.arriveBad sh off) = none := by
    split
    · rfl
    · next hd => exact hbad (by simpa using hd)
  dsimp only
  rw [hnone]
  dsimp only
  rw [hq, releaseThen_released hrel]
  rfl

/-- A barrier word that is written on behalf of a frozen team leaves the reeve as it is. -/
theorem farrive_ends (hi : s.IssuesOnce t (.farrive h f) h) (htry : t.tryR = none) (hk : k ≠ s.cur) {s3 : State} (hs3 : s.Flows s3) (u : Team)
    (sh off : Nat) (w : BarWord) :
    Ends (.next ((Act.retire ((s3.setTeam k u).setBar (some k) sh off w)).finish s.cur h.z)) ((s3.setTeam k u).setBar (some k) sh off w) s.cur t [] := by
  refine retire_ends_in ?_ hi.1.2.2.2.2 h.z
  rw [State.team_setBar, State.team_setTeam_other _ _ hk.symm, hs3.team, hi.1.1, Option.map_some, Team.noted_of_no_region htry]
  simp

/-- FRELEASE ends the reeve (R185). -/
theorem exec_frelease (hi : s.IssuesOnce t (.frelease h f) h) : exec (.frelease h f) s = .next (s.endTeam s.cur) := by
  show issue (.frelease h f) h _ s = _
  rw [once_next hi]
  rfl

/-- The frozen team goes back to its core's list when its reeve ends (R185). -/
theorem endTeam_handsBack (hteam : s.team s.cur = some t) (hh0 : t.h0 = .frozen k) (hft : s.team k = some ft) (hrun : ft.run = .frozen) (hk : k ≠ s.cur)
    (hroom : (s.core (coreOf s.cur)).waiting.length < 64) (hw : Handle.frozen s.cur ∉ (s.core (coreOf s.cur)).waiting)
    (hh : Handle.frozen s.cur ∉ (s.core (coreOf s.cur)).held) :
    ((s.endTeam s.cur).core (coreOf s.cur)).waiting = (s.core (coreOf s.cur)).waiting ++ [.frozen k] ∧
      ((s.endTeam s.cur).team k).map (·.run) = some .frozen := by
  let x := s.dropRegs s.cur t
  obtain ⟨hwait, hheld⟩ := State.dropRegs_lists s s.cur t (coreOf s.cur)
  obtain ⟨t', ht', hgr⟩ := (State.grazes_dropRegs False s s.cur t s.cur).2 t hteam
  obtain ⟨ft', hft', hfgr⟩ := (State.grazes_dropRegs False s s.cur t k).2 ft hft
  have hback : x.handBack s.cur = x.enlist (coreOf s.cur) (.frozen k) := by
    have h0 : t'.h0 = .frozen k := by rw [hgr.1, ← hh0]
    have hr : ft'.run = .frozen := by rw [hfgr.1, ← hrun]
    unfold State.handBack
    rw [ht', Option.elim_some, h0]
    dsimp only
    rw [hft', Option.any_some, hr]
    rfl
  have hwait' : ((x.enlist (coreOf s.cur) (.frozen k)).core (coreOf s.cur)).waiting = (s.core (coreOf s.cur)).waiting ++ [.frozen k] := by
    rw [State.enlist_waiting, hwait, if_pos ⟨rfl, hroom⟩]
  have hheld' : ((x.enlist (coreOf s.cur) (.frozen k)).core (coreOf s.cur)).held = (s.core (coreOf s.cur)).held := by
    rw [State.enlist_held, hheld, hwait, if_neg fun hc => hc.2 hroom, List.append_nil]
  refine ⟨?_, ?_⟩
  · rw [State.endTeam_core hteam, hback, State.delist_of_unlisted, hwait']
    · rw [hwait']
      simp [hw, hk.symm]
    · rw [hheld']
      exact hh
  · obtain ⟨u', hgr', hu'⟩ := (State.endTeam_other hteam hk).2 ft hft
    rw [hu', Option.map_some]
    have hr : u'.run = .frozen := by rw [hgr'.1, ← hrun]
    split <;> exact congrArg some hr

end Words

/-- Settles O30: each word by the team or the grid that its handle names. That FKILL.grid leaves a team doomed while its release is under way
is the model's choice (log 48). -/
theorem reeveEndsAndArrives : Obligations.ReeveEndsAndArrives := by
  unfold Obligations.ReeveEndsAndArrives
  intro h f s t ft k htry
  refine ⟨fun hw i hcase hi hf => ?_, fun hw hi hf hh0 => ?_, fun hw hi hrise => ⟨fun hf => ?_, fun e r hhnd hh0 => ?_⟩, ?_, fun hi => ?_⟩
  · rcases hcase with rfl | rfl
    · rw [exec_fkill hi hf, behindWrites_waits hw]
      exact park_parks hi.1 _
    · rw [exec_fkillGrid hi hf, behindWrites_waits hw]
      exact park_parks hi.1 _
  · rw [exec_fkill hi hf, behindWrites_nil hw]
    obtain ⟨-, hth0, hk, hteam, hstep, -⟩ := hf
    have hown := State.endTeam_other_eq hteam hstep hk.symm hi.1.1 htry
    rw [if_pos hth0] at hown
    exact ⟨_, ⟨_, hown, retire_ends_in hown hi.1.2.2.2.2 h.z⟩, State.endTeam_team s k, hown, State.endTeam_unlisted hteam, State.endTeam_known hteam⟩
  · rw [exec_fkillGrid hi hf, behindWrites_nil hw]
    exact ⟨_, killGrid_ends hi hrise _, fun n u hu hg => s.killGrid_rest _ n hu hg⟩
  · rw [exec_fkillGrid_departed hi hhnd hh0, behindWrites_nil hw]
    exact ⟨_, killGrid_ends hi hrise _, fun n u hu hg => s.killGrid_rest _ n hu hg⟩
  · intro hi hf sh off s2 hsp hq hrel reg others s3 old
    have hflow : s.Flows s3 := hrel.flows.trans (State.flows_release s2 (coreOf k) 2)
    have hteam3 : s3.team k = some ft := by rw [hflow.team, hf.2.2.2.1]
    refine ⟨fun hd hp hroom => BarWord.exists_arrived _ _ ?_, fun hd => BarWord.exists_dropped _ _ ?_⟩
    · rw [exec_farrive hi hf hsp hq hrel fun _ => Team.arriveBad_none hp hroom, hd, if_neg (by decide)]
      have harrive : s3.arriveFor k sh off = (s3.setTeam k (ft.setReg ⟨sh, off, true, old.phase⟩)).setBar (some k) sh off (old.arrive false) := by
        unfold State.arriveFor
        dsimp only
        rw [State.updTeam_some hteam3]
      rw [show (s2.release (coreOf k) 2).arriveFor k sh off = _ from harrive]
      exact farrive_ends hi htry hf.2.2.1 hflow _ sh off _
    · rw [exec_farrive hi hf hsp hq hrel (fun hc => by rw [hd] at hc; cases hc), hd, if_pos rfl]
      have hdrop : s3.dropFor k sh off = (s3.setTeam k (ft.dropRegOf sh off)).setBar (some k) sh off
          (if (ft.regOf sh off).any (·.pending) then { old with drops := old.drops + 1 } else old.arrive true) := by
        unfold State.dropFor
        dsimp only
        rw [State.updTeam_some hteam3, hteam3]
        rfl
      rw [show (s2.release (coreOf k) 2).dropFor k sh off = _ from hdrop]
      exact farrive_ends hi htry hf.2.2.1 hflow _ sh off _
  · refine ⟨_, exec_frelease hi, State.endTeam_team s s.cur, fun hh0 hft hrun hk hroom hwait hheld => ?_⟩
    exact endTeam_handsBack hi.1.1 hh0 hft hrun hk hroom hwait hheld

end Sys2Proof.Machine

/-! PROOFS. A GIVEBACK behind which a register that was given up is not zero (R174). -/

namespace Sys2Proof.Machine

open Host

/-! ## GIVEBACK of a team of 1,025 lanes -/

/-- GIVEBACK to 16 registers. -/
def giveSixteen : SF := ⟨0, 0, 0, 16, 0, 0⟩

/-- A team of 1,025 lanes with 32 registers, of which a write to v15 in lane 1,024, where v16 of lane 0 stands, is not visible yet. -/
def givingTeam (t : Team) : Team := { t with lanes := 1025, allot := 32, full := 32, pro := 0, pend := [⟨0, 0, .v 15, 1024, 5⟩] }

/-- Its GIVEBACK. -/
def giveWord : Instr := .giveback ⟨false, false, 15⟩ giveSixteen

def givingState : State :=
  let s := State.reset.placeWord ((encodeWord giveWord).elim 0 (·.toNat))
  { s.updTeam 0 givingTeam with agenda := [], cur := 0 }

/-- It issues. -/
theorem givingState_issues : ∃ t, givingState.IssuesOnce t giveWord ⟨false, false, 15⟩ ∧ t.allot = 32 ∧ t.pro = 0 := by
  have hall : (givingState.team givingState.cur).any (fun t => givingState.precheck givingState.cur t giveWord ⟨false, false, 15⟩ == none &&
      !givingState.listBlocks givingState.cur t giveWord && t.tryR.isNone && t.stepping.isNone && t.executes ⟨false, false, 15⟩ &&
      decide (t.allot = 32) && decide (t.pro = 0)) = true := by
    decide +kernel
  cases ht : givingState.team givingState.cur with
  | none => rw [ht] at hall; cases hall
  | some t =>
    rw [ht] at hall
    simp only [Option.any_some, Bool.and_eq_true, beq_iff_eq, Bool.not_eq_true', Option.isNone_iff_eq_none, decide_eq_true_eq] at hall
    obtain ⟨⟨⟨⟨⟨⟨hpre, hlist⟩, hev⟩, hstep⟩, hexec⟩, hallot⟩, hpro⟩ := hall
    exact ⟨t, ⟨⟨ht, hpre, hlist, .inl hev, hstep⟩, hexec⟩, hallot, hpro⟩

/-- Behind it v16 of lane 0, which the team gave up, holds what was written to lane 1,024 of v15. -/
theorem givingState_after : (match exec giveWord givingState with
    | .next s => (s.team givingState.cur).map fun t => t.endVal (.v 16) 0
    | _ => none) = some 5 := by
  decide +kernel

/-- Refutes O31: GIVEBACK of a team of 1,025 lanes leaves v16 of lane 0 what is due in lane 1,024 of v15, as the two stored registers
meet; no statement bounds a team's lanes. -/
theorem not_allotmentAndLaunch : ¬ Obligations.AllotmentAndLaunch := by
  intro hall
  unfold Obligations.AllotmentAndLaunch at hall
  obtain ⟨t, hi, hallot, hpro⟩ := givingState_issues
  obtain ⟨-, hgive, -⟩ := hall ⟨false, false, 15⟩ giveSixteen givingState t
  obtain ⟨t', hexec, -, -, -, hgone⟩ := hgive hi
  have hzero := (hgone 16 0 (by decide) (by rw [hallot, hpro]; decide)).1
  have hafter := givingState_after
  have hrun : exec giveWord givingState = _ := hexec
  rw [hrun] at hafter
  simp only [State.team_setTeam, Option.map_some, Option.some.injEq] at hafter
  rw [hzero] at hafter
  exact absurd hafter (by decide)

end Sys2Proof.Machine

/-! PROOFS. What the directory and the caches may change, and writes at the SYSTEM point of coherence (R252 to R278). -/

namespace Sys2Proof.Machine

open Host

/-! ## What the directory and the caches may change: nothing of teams, shares, clusters, grids or transfers -/

/-- The two machines hold the same teams, shares, clusters, grids and transfers, at the same clock. -/
def State.Below (s s' : State) : Prop :=
  s' = { s with pkgs := s'.pkgs, cores := s'.cores, dies := s'.dies, requests := s'.requests, hostMem := s'.hostMem, fresh := s'.fresh
                packets := s'.packets, changes := s'.changes }

theorem State.Below.refl (s : State) : s.Below s := rfl

theorem State.Below.trans {a b c : State} (hb : a.Below b) (hc : b.Below c) : a.Below c := by
  unfold State.Below at hb hc ⊢
  rw [hb] at hc
  exact hc

theorem State.Below.foldl {α : Type} (l : List α) (f : State → α → State) (hf : ∀ (s : State) (x : α), s.Below (f s x)) (s : State) :
    s.Below (l.foldl f s) := by
  induction l generalizing s with
  | nil => exact .refl s
  | cons x l ih => exact (hf s x).trans (ih _)

theorem State.Flows.below {s s' : State} (h : s.Flows s') : s.Below s' := by
  unfold State.Below
  have := h.1
  rw [this]

theorem State.Looks.below {p : Nat} {s s' : State} (h : s.Looks p s') : s.Below s' := by
  unfold State.Below
  rw [h.1]

theorem State.below_updPkg (s : State) (p : Nat) (f : Pkg → Pkg) : s.Below (s.updPkg p f) := rfl

theorem State.Below.teams {s s' : State} (h : s.Below s') : s'.teams = s.teams := by rw [h]

theorem State.Below.team {s s' : State} (h : s.Below s') (tk : Nat) : s'.team tk = s.team tk := by unfold State.team; rw [h.teams]

theorem State.below_crossed (s : State) (p q m n : Nat) : s.Below (s.crossed p q m n) := by
  unfold State.crossed
  split
  · exact .refl s
  · exact rfl

theorem State.below_noteAbsent (s : State) (p gpn : Nat) : s.Below (s.noteAbsent p gpn) := by
  unfold State.noteAbsent
  split
  · exact .refl s
  · exact rfl

theorem State.below_postSpoils (s : State) (ws : List Spoil) : s.Below (s.postSpoils ws) := by
  unfold State.postSpoils
  exact .foldl _ _ (fun x w => (State.flows_postWrite x _ _ _ _ _).below) s

theorem State.below_landSpoils (s : State) (fs : List (Nat × Nat)) (ws : List Spoil) : s.Below (s.landSpoils fs ws) := by
  unfold State.landSpoils
  refine .foldl _ _ (fun x w => ?_) s
  split
  · exact x.below_postSpoils [w]
  · exact .foldl _ _ (fun y m => (State.flows_writeGranule y _ _ _ _ _).below.trans (State.below_crossed _ _ _ _ _)) x

theorem State.below_stripPage (s : State) (p gpn : Nat) : s.Below (s.stripPage p gpn).1 := by
  unfold State.stripPage
  dsimp only
  refine .trans ?_ (State.flows_mapRequests _ _).below
  refine .trans ?_ (.foldl _ _ (fun x e => (State.flows_dropLine x _ _).below) _)
  refine .foldl _ _ (fun x l => ?_) s
  exact .foldl _ _ (fun y e => ((State.flows_writeBackOne y l _).trans (State.flows_dropLine _ l _)).below) x

theorem State.below_unframe (s : State) (p f : Nat) : s.Below (s.unframe p f).1 := by
  unfold State.unframe
  exact (s.below_updPkg p _).trans (State.below_stripPage _ _ _)

theorem State.below_clearCopies (s : State) (gpn master keep : Nat) : s.Below (s.clearCopies gpn master keep).1 := by
  unfold State.clearCopies
  refine List.foldlRecOn (motive := fun (acc : State × List Spoil) => s.Below acc.1) _ _ (.refl s) fun acc hacc q _ => ?_
  split
  · dsimp only
    exact hacc.trans ((acc.1.below_unframe q _).trans ((State.below_updPkg _ q _).trans ((State.below_noteAbsent _ _ _).trans
      (State.below_crossed _ _ _ _ _))))
  · exact hacc

theorem State.below_invalidateCopies (s : State) (gpn master : Nat) : s.Below (s.invalidateCopies gpn master) := by
  unfold State.invalidateCopies
  dsimp only
  refine .trans ?_ (State.below_landSpoils _ _ _)
  refine (s.below_clearCopies gpn master master).trans ?_
  exact rfl

theorem State.below_settleSpoils (s : State) (p gpn : Nat) (ws : List Spoil) : s.Below (s.settleSpoils p gpn ws) := by
  unfold State.settleSpoils
  split
  · exact .refl s
  split
  · exact s.below_postSpoils ws
  split
  · exact s.below_postSpoils ws
  · exact (s.below_invalidateCopies gpn _).trans (State.below_landSpoils _ _ _)

theorem State.below_purgePage (s : State) (p gpn : Nat) : s.Below (s.purgePage p gpn) :=
  (s.below_stripPage p gpn).trans (State.below_settleSpoils _ _ _ _)

/-! ## Moves of pages, which keep memory in its canonical form too -/

/-- What the directory's and the fabric's moves keep: what State.Below says, and the canonical form of memory. -/
def State.Lays (s s' : State) : Prop := s.Below s' ∧ (s.memWf → s'.memWf)

theorem State.Lays.refl (s : State) : s.Lays s := ⟨.refl s, id⟩

theorem State.Lays.trans {a b c : State} (hb : a.Lays b) (hc : b.Lays c) : a.Lays c := ⟨hb.1.trans hc.1, hc.2 ∘ hb.2⟩

theorem State.Lays.foldl {α : Type} (l : List α) (f : State → α → State) (hf : ∀ (s : State) (x : α), s.Lays (f s x)) (s : State) :
    s.Lays (l.foldl f s) := by
  induction l generalizing s with
  | nil => exact .refl s
  | cons x l ih => exact (hf s x).trans (ih _)

/-- A change of a package that leaves its stacks. -/
theorem State.lays_updPkg (s : State) (p : Nat) {f : Pkg → Pkg} (hf : ∀ k : Pkg, (f k).hbm = k.hbm) : s.Lays (s.updPkg p f) :=
  ⟨s.below_updPkg p f, fun h => State.memWf_updPkg h p (by rw [hf]; exact State.memWf_pkg h p)⟩

/-- A change of a package that keeps its stacks' form. -/
theorem State.lays_updPkg_wf (s : State) (p : Nat) {f : Pkg → Pkg} (hf : ∀ k : Pkg, Memory.wf k.hbm → Memory.wf (f k).hbm) :
    s.Lays (s.updPkg p f) :=
  ⟨s.below_updPkg p f, fun h => State.memWf_updPkg h p (hf _ (State.memWf_pkg h p))⟩

theorem State.lays_purgePage (s : State) (p gpn : Nat) : s.Lays (s.purgePage p gpn) := ⟨s.below_purgePage p gpn,
  fun h => State.memWf_purgePage h p gpn⟩

theorem State.lays_settleSpoils (s : State) (p gpn : Nat) (ws : List Spoil) : s.Lays (s.settleSpoils p gpn ws) :=
  ⟨s.below_settleSpoils p gpn ws, fun h => State.memWf_settleSpoils h p gpn ws⟩

theorem State.lays_invalidateCopies (s : State) (gpn master : Nat) : s.Lays (s.invalidateCopies gpn master) :=
  ⟨s.below_invalidateCopies gpn master, fun h => State.memWf_invalidateCopies h gpn master⟩

theorem State.lays_crossed (s : State) (p q m n : Nat) : s.Lays (s.crossed p q m n) :=
  ⟨s.below_crossed p q m n, fun h => State.memWf_crossed h p q m n⟩

theorem State.lays_writeGranule (s : State) (p f i : Nat) (bs : List Byte) (mask : BitVec 32) : s.Lays (s.writeGranule p f i bs mask).1 :=
  ⟨(State.flows_writeGranule s p f i bs mask).below, fun h => State.memWf_writeGranule h p f i bs mask⟩

theorem State.lays_setHostBytes (s : State) (a : Nat) (bs : List Byte) : s.Lays (s.setHostBytes a bs) :=
  ⟨rfl, fun h => State.memWf_setHostBytes h a bs⟩

theorem State.below_askHost (s : State) (p kind core : Nat) (a b c : Word) : s.Below (s.askHost p kind core a b c).1 := by
  unfold State.askHost
  dsimp only
  split
  · exact .refl s
  · exact rfl

theorem State.lays_askHost (s : State) (p kind core : Nat) (a b c : Word) : s.Lays (s.askHost p kind core a b c).1 :=
  ⟨s.below_askHost p kind core a b c, fun h => State.memWf_askHost h p kind core a b c⟩

theorem State.lays_setParish (s : State) (p gpn : Nat) (e : ParishEnt) : s.Lays (s.setParish p gpn e) := s.lays_updPkg _ fun _ => rfl

theorem State.lays_updParish (s : State) (p gpn : Nat) (f : ParishEnt → ParishEnt) : s.Lays (s.updParish p gpn f) := by
  unfold State.updParish
  split
  · exact s.lays_setParish p gpn _
  · exact .refl s

theorem State.lays_dropReplica (s : State) (p f : Nat) : s.Lays (s.dropReplica p f) :=
  State.Lays.trans ⟨s.below_unframe p f, fun h => State.memWf_unframe h p f⟩ (State.lays_settleSpoils _ _ _ _)

theorem State.lays_takeWay (s : State) (p f : Nat) (tag : Tag) : s.Lays (s.takeWay p f tag) := by
  unfold State.takeWay
  dsimp only
  refine .trans ?_ (State.lays_updPkg _ p fun _ => rfl)
  split
  · exact (s.lays_dropReplica p f).trans (State.lays_updPkg _ p fun _ => rfl)
  · exact .refl s

theorem State.lays_learnLost (s : State) (p gpn : Nat) (note : Bool) : s.Lays (s.learnLost p gpn note) := by
  have hnote : s.Lays (if note then s.updPkg p (·.setAstat 6) else s) := by
    split
    · exact s.lays_updPkg p fun k => Pkg.setAstat_hbm k 6
    · exact .refl s
  unfold State.learnLost
  dsimp only
  generalize (if note then s.updPkg p (·.setAstat 6) else s) = x at hnote ⊢
  refine hnote.trans ?_
  split
  · split
    · exact .refl _
    · refine .trans ?_ (State.lays_purgePage _ _ _)
      exact State.lays_updPkg _ p fun _ => rfl
  · split
    · exact (State.lays_takeWay _ _ _ _).trans (State.lays_purgePage _ _ _)
    · exact .refl _

theorem State.lays_freePage (s : State) (gpn : Nat) : s.Lays (s.freePage gpn) := by
  unfold State.freePage
  dsimp only
  refine .trans ?_ (.foldl _ _ (fun x q => ?_) _)
  · refine ⟨rfl, fun h => State.memWf_mapPkgs h _ fun e => ?_⟩
    split <;> rfl
  split
  · exact x.lays_purgePage q gpn
  · split
    · exact x.lays_updPkg q fun _ => rfl
    split
    · refine .trans ?_ (State.lays_purgePage _ _ _)
      exact x.lays_updPkg q fun _ => rfl
    · exact x.lays_learnLost q gpn false

theorem State.lays_lowerRef (s : State) (p gpn : Nat) : s.Lays (s.lowerRef p gpn) := by
  unfold State.lowerRef
  split
  · exact .refl s
  split
  · exact .refl s
  dsimp only
  split
  · exact (s.lays_setParish p gpn _).trans (State.lays_freePage _ _)
  · exact s.lays_setParish p gpn _

/-! ## First touches -/

theorem State.lays_roomFor (s : State) (q gpn : Nat) (parish : Bool) : s.Lays (s.roomFor q gpn parish).1 := by
  unfold State.roomFor
  dsimp only
  split
  · exact .refl s
  split
  · dsimp only
    exact s.lays_updPkg q fun k => Pkg.setAstat_hbm k 1
  split
  · exact .refl s
  split
  · exact s.lays_askHost q 4 255 _ _ _
  · dsimp only
    refine s.lays_updPkg q fun k => ?_
    split <;> exact Pkg.setAstat_hbm k 2

theorem State.lays_presentRoom (s : State) (p gpn : Nat) : s.Lays (s.presentRoom p gpn).1 := by
  have hroom := s.lays_roomFor (s.hamletSlice p gpn) gpn false
  unfold State.presentRoom
  dsimp only
  split
  · exact .refl s
  split <;> next heq => rw [heq] at hroom; exact hroom

theorem State.lays_addParish (s : State) (p gpn : Nat) (e : ParishEnt) : s.Lays (s.addParish p gpn e).1 := by
  have hroom := s.lays_roomFor (s.parishSlice p gpn) gpn true
  unfold State.addParish
  split <;> next heq => rw [heq] at hroom; first | exact hroom | exact hroom.trans (State.lays_setParish _ _ _ _)

theorem State.lays_notePresent (s : State) (p gpn : Nat) (master : Bool) : s.Lays (s.notePresent p gpn master) := by
  unfold State.notePresent
  extract_lets q s1 s2
  have h1 : s.Lays s1 := by
    have hroom := s.lays_roomFor q gpn false
    subst s1
    split
    · exact .refl s
    · split
      · next heq => rw [heq] at hroom; exact hroom
      · next heq => rw [heq] at hroom; exact hroom.trans (State.lays_updPkg _ _ fun _ => rfl)
  have h2 : s1.Lays s2 := by
    subst s2
    split
    · exact .refl _
    · exact State.lays_updPkg _ _ fun _ => rfl
  exact (h1.trans h2).trans (State.lays_updParish _ _ _ _)

theorem Pkg.zeroFrame_wf {k : Pkg} (h : Memory.wf k.hbm) (f : Nat) : Memory.wf (k.zeroFrame f).hbm :=
  ⟨h.1.filter _, fun e he => h.2 e (List.mem_of_mem_filter he)⟩

theorem State.lays_makeTwin (s : State) (p f gpn : Nat) : s.Lays (s.makeTwin p f gpn) := by
  unfold State.makeTwin
  split
  · exact .refl s
  split
  · exact .refl s
  dsimp only
  refine .trans ?_ (State.lays_notePresent _ _ _ _)
  refine .trans ?_ (State.lays_updParish _ _ _ _)
  refine .trans ?_ (State.lays_updPkg _ _ fun _ => rfl)
  exact (State.lays_takeWay _ _ _ _).trans (State.lays_updPkg_wf _ _ fun k hk => Pkg.zeroFrame_wf hk _)

theorem State.lays_createPage (s : State) (p f gpn : Nat) (twin : Bool) : s.Lays (s.createPage p f gpn twin).1 := by
  have hadd := s.lays_addParish p gpn { refs := 1, master := p, twin := twin }
  unfold State.createPage
  split
  · next heq => rw [heq] at hadd; exact hadd
  next s1 heq =>
  rw [heq] at hadd
  have hpage : s.Lays (((s1.takeWay p f { gpn := gpn, state := .masterExcl }).updPkg p fun k =>
      ((k.zeroFrame f).touch f).count 10).notePresent p gpn true) := by
    refine .trans ?_ (State.lays_notePresent _ _ _ _)
    refine (hadd.trans (s1.lays_takeWay p f { gpn := gpn, state := .masterExcl })).trans ?_
    exact State.lays_updPkg_wf _ p fun k hk => Pkg.zeroFrame_wf hk f
  dsimp only
  split
  · exact hpage.trans (State.lays_makeTwin _ _ _ _)
  · exact hpage

theorem State.lays_updRequest (s : State) (r : Nat) (f : Request → Request) : s.Lays (s.updRequest r f) := by
  unfold State.updRequest
  split
  · exact ⟨rfl, id⟩
  · exact .refl s

theorem State.lays_askTouch (s : State) (p gpn : Nat) (twin : Bool) : s.Lays (s.askTouch p gpn twin) := by
  unfold State.askTouch
  split
  · exact .refl s
  · exact State.Lays.trans (b := s.addRequest (48 * p) (2048 * gpn) 0 (.fetch false) { tk := hwWho (48 * p) } []) ⟨rfl, id⟩
      (State.lays_updRequest _ _ _)

theorem State.lays_touchNow (s : State) (p gpn : Nat) (twin : Bool) : s.Lays (s.touchNow p gpn twin).1 := by
  have hask := s.lays_askTouch p gpn twin
  have hroom := s.lays_presentRoom p gpn
  unfold State.touchNow
  dsimp only
  split
  · exact s.lays_updPkg p fun _ => rfl
  split
  · exact hask
  split
  · exact hask
  next f _ =>
  split
  · next heq => rw [heq] at hroom; exact hroom
  next s1 heq =>
  rw [heq] at hroom
  have hpage := s1.lays_createPage p f gpn twin
  split
  · next heq => rw [heq] at hpage; exact hroom.trans (hpage.trans (State.lays_crossed _ _ _ _ _))
  · next heq => rw [heq] at hpage; exact hroom.trans hpage

/-! ## Writes of the hardware at the SYSTEM point of coherence -/

theorem State.lays_putHost (s : State) (a : Nat) (bs : List Byte) (mask : BitVec 32) :
    s.Lays ((List.range 32).foldl (fun s i => if mask.getLsbD i then s.setHostBytes (a + i) [bs.getD i 0] else s) s) := by
  refine .foldl _ _ (fun x i => ?_) s
  split
  · exact x.lays_setHostBytes _ _
  · exact .refl x

theorem State.lays_spillWrite (s : State) (x : Nat × Nat) (sec : Nat) (bs : List Byte) (mask : BitVec 32) :
    s.Lays (s.spillWrite x sec bs mask).1 := by
  unfold State.spillWrite
  dsimp only
  split
  · exact .refl s
  · refine .trans (s.lays_putHost (s.spillBase x + 32 * sec) bs mask) ?_
    dsimp only
    exact State.lays_updPkg _ _ fun _ => rfl

theorem State.lays_masterWrite (s : State) (q gpn sec : Nat) (bs : List Byte) (mask : BitVec 32) : s.Lays (s.masterWrite q gpn sec bs mask).1 := by
  unfold State.masterWrite
  split
  · exact .refl s
  next f _ =>
  have hw := s.lays_writeGranule q f sec bs mask
  dsimp only
  split
  · exact hw
  split
  · exact hw
  dsimp only
  split
  · exact hw.trans ((State.lays_writeGranule _ _ _ _ _ _).trans (State.lays_crossed _ _ _ _ _))
  · exact hw

theorem State.lays_sysWrite (s : State) (p key : Nat) (bs : List Byte) (mask : BitVec 32) : s.Lays (s.sysWrite p key bs mask).1 := by
  unfold State.sysWrite
  extract_lets gpn sec store unheard
  split
  · exact s.lays_putHost _ bs mask
  split
  · exact .refl s
  split
  next x r heq =>
  have htouch : s.Lays x := by
    split at heq
    · exact (Prod.mk.inj heq).1 ▸ .refl s
    · have htouch := s.lays_touchNow p gpn ((s.entryOf p gpn).elim false fun t => t.ent.getLsbD 56)
      rw [heq] at htouch
      exact htouch
  have hmiss : s.Lays (x.updPkg p (·.missedRoute)) := htouch.trans (x.lays_updPkg p fun _ => rfl)
  have hunheard : s.Lays (x.updPkg p fun k => { k with timeouts := k.timeouts + 1 }) := htouch.trans (x.lays_updPkg p fun _ => rfl)
  split
  · exact htouch
  · exact htouch
  · exact htouch
  next e _ =>
  split
  · exact htouch.trans (x.lays_learnLost p _ _)
  split
  · split
    · exact htouch.trans (x.lays_spillWrite _ _ _ _)
    · exact htouch
  split
  · exact hmiss
  split
  · exact hunheard
  split
  · exact htouch
  · split
    · exact hmiss
    · exact hunheard
  · exact hunheard
  · extract_lets y
    have hy : s.Lays y := htouch.trans ((x.lays_invalidateCopies gpn e.master).trans (State.lays_crossed _ p e.master 1 1))
    have hwrite := hy.trans (y.lays_masterWrite e.master gpn sec bs mask)
    clear_value y
    generalize y.masterWrite e.master gpn sec bs mask = r at hwrite
    obtain ⟨z, ok⟩ := r
    split
    next z2 _ heq2 =>
    obtain ⟨rfl, rfl⟩ := Prod.mk.inj heq2
    extract_lets w
    have hw : z.Lays w := by
      subst w
      split
      · split
        · exact State.lays_updPkg _ _ fun _ => rfl
        · exact .refl _
      · exact .refl _
    exact hwrite.trans hw

/-! ## An acquire looks at no team -/

section
variable (s : State) (T : List (Nat × Team))

theorem State.setCache_withTeams (l : Level) (x : Cache) : (s.withTeams T).setCache l x = (s.setCache l x).withTeams T := by
  cases l <;> rfl

theorem State.mergeDirty_withTeams (l : Level) (key : Nat) (bs : List Byte) (mask : BitVec 32) (u : Bool) :
    (s.withTeams T).mergeDirty l key bs mask u = (s.mergeDirty l key bs mask u).withTeams T := by
  cases l <;> rfl

theorem State.dropLine_withTeams (l : Level) (key : Nat) : (s.withTeams T).dropLine l key = (s.dropLine l key).withTeams T := by
  cases l <;> rfl

theorem State.writeGranule_withTeams (p f i : Nat) (bs : List Byte) (mask : BitVec 32) :
    ((s.withTeams T).writeGranule p f i bs mask).1 = ((s.writeGranule p f i bs mask).1).withTeams T := by
  unfold State.writeGranule
  rw [State.readGranule_withTeams, State.pkg_withTeams]
  dsimp only
  split
  · rfl
  split
  · rfl
  split <;> rfl

/-- A run of steps that each look at no team looks at none. -/
theorem foldl_withTeams {α : Type} (l : List α) (f : State → α → State) (hf : ∀ s x, f (s.withTeams T) x = (f s x).withTeams T) :
    l.foldl f (s.withTeams T) = (l.foldl f s).withTeams T := by
  induction l generalizing s with
  | nil => rfl
  | cons x l ih => rw [List.foldl_cons, List.foldl_cons, hf, ih]

theorem State.memWrite_withTeams (core key : Nat) (bs : List Byte) (mask : BitVec 32) (w : Issuer) :
    (s.withTeams T).memWrite core key bs mask w = (s.memWrite core key bs mask w).withTeams T := by
  have hhere : (s.withTeams T).writesHere (pkgOf core) key = s.writesHere (pkgOf core) key := rfl
  unfold State.memWrite
  dsimp only
  rw [hhere, State.pkg_withTeams]
  split
  · split
    · rfl
    · refine foldl_withTeams s T _ _ fun x i => ?_
      split <;> rfl
  · split
    · split
      · split
        · rfl
        · rw [State.writeGranule_withTeams]
          rfl
      · rfl
    · rfl

theorem State.writeBackOne_withTeams (l : Level) (key : Nat) : (s.withTeams T).writeBackOne l key = (s.writeBackOne l key).withTeams T := by
  have hcache : (s.withTeams T).cache l = s.cache l := by cases l <;> rfl
  unfold State.writeBackOne
  rw [hcache]
  split
  · rfl
  split
  · rfl
  dsimp only
  rw [State.setCache_withTeams]
  split
  · exact State.mergeDirty_withTeams _ T _ _ _ _ _
  · exact State.memWrite_withTeams _ T _ _ _ _ _

theorem State.advance_withTeams (l : Level) (ix : Nat) : (s.withTeams T).advance l ix = (s.advance l ix).withTeams T := by
  have hcache (s : State) : (s.withTeams T).cache l = s.cache l := by cases l <;> rfl
  have hflash (g : BitVec 4) : (s.withTeams T).flashClear l ix g = (s.flashClear l ix g).withTeams T := by
    unfold State.flashClear
    rw [hcache]
    refine foldl_withTeams s T _ _ fun x k => ?_
    rw [State.writeBackOne_withTeams, State.dropLine_withTeams]
  unfold State.advance
  dsimp only
  rw [hcache, hflash]
  have hrest (x : State) (f : Request → Request) (g : Pkg → Pkg) :
      (((x.withTeams T).mapRequests f).updPkg (lvlPkg l) g) = ((x.mapRequests f).updPkg (lvlPkg l) g).withTeams T := rfl
  rw [hrest, hcache, State.setCache_withTeams]
  rfl

theorem State.acquire_withTeams (core scope : Nat) : (s.withTeams T).acquire core scope = (s.acquire core scope).withTeams T := by
  unfold State.acquire
  refine foldl_withTeams s T _ _ fun x l => ?_
  split
  · exact State.advance_withTeams x T l _
  · rfl

end

/-- A team set before an acquire stands behind it. -/
theorem State.setTeam_acquire (s : State) (tk : Nat) (t : Team) (core scope : Nat) :
    (s.setTeam tk t).acquire core scope = (s.acquire core scope).setTeam tk t := by
  have hput : put (s.acquire core scope).teams tk t = put s.teams tk t := by rw [(State.flows_acquire s core scope).teams]
  show _ = (s.acquire core scope).withTeams (put (s.acquire core scope).teams tk t)
  rw [hput]
  exact s.acquire_withTeams (put s.teams tk t) core scope

end Sys2Proof.Machine

/-! PROOFS. The span words on residency maps (R186 to R189). -/

namespace Sys2Proof.Machine

open Host

-- proofs that wait for one another's congruence lemmas would each hold a thread
set_option Elab.async false

/-! ## Fields of a record -/

/-- What a record holds beside a field, and the field's own value. -/
theorem setField_eq (n lo len v : Nat) : setField n lo len v = n % 2 ^ lo + 2 ^ lo * (v % 2 ^ len + 2 ^ len * (n / 2 ^ (lo + len))) := by
  have hlow := Nat.mod_add_div n (2 ^ lo)
  have hhigh := Nat.mod_add_div (n / 2 ^ lo) (2 ^ len)
  rw [Nat.div_div_eq_div_mul, ← pow_add] at hhigh
  unfold setField field
  generalize n % 2 ^ lo = a at *
  generalize n / 2 ^ (lo + len) = d at *
  generalize n / 2 ^ lo % 2 ^ len = c at *
  rw [← hhigh] at hlow
  have hsplit (x : Nat) : 2 ^ lo * (x + 2 ^ len * d) = x * 2 ^ lo + 2 ^ lo * (2 ^ len * d) := by ring
  rw [hsplit] at hlow ⊢
  omega

/-- A field written reads back as the low bits of what was written. -/
theorem field_setField_same (n lo len v : Nat) : field (setField n lo len v) lo len = v % 2 ^ len := by
  unfold field
  rw [setField_eq, Nat.add_mul_div_left _ _ (Nat.two_pow_pos lo), Nat.div_eq_of_lt (Nat.mod_lt _ (Nat.two_pow_pos lo)), Nat.zero_add,
    Nat.add_mul_mod_self_left, Nat.mod_mod]

/-- A field depends on the bits below its end alone. -/
theorem field_eq_of_mod {m n lo len : Nat} (h : m % 2 ^ (lo + len) = n % 2 ^ (lo + len)) : field m lo len = field n lo len := by
  unfold field
  rw [← Nat.mod_mul_right_div_self, ← Nat.mod_mul_right_div_self, ← pow_add, h]

/-- A field depends on the bits from its begin on alone. -/
theorem field_eq_of_div {m n lo len k : Nat} (hk : k ≤ lo) (h : m / 2 ^ k = n / 2 ^ k) : field m lo len = field n lo len := by
  unfold field
  rw [← Nat.add_sub_cancel' hk, pow_add, ← Nat.div_div_eq_div_mul, ← Nat.div_div_eq_div_mul, h]

/-- A field written leaves the fields beside it. -/
theorem field_setField_other (n lo len v lo' len' : Nat) (h : lo' + len' ≤ lo ∨ lo + len ≤ lo') :
    field (setField n lo len v) lo' len' = field n lo' len' := by
  rcases h with h | h
  · refine field_eq_of_mod ?_
    have hdvd : 2 ^ (lo' + len') ∣ 2 ^ lo := pow_dvd_pow 2 h
    rw [setField_eq, ← Nat.mod_mod_of_dvd _ hdvd, Nat.add_mul_mod_self_left, Nat.mod_mod, Nat.mod_mod_of_dvd _ hdvd]
  · refine field_eq_of_div h ?_
    have hlow : (v % 2 ^ len + 2 ^ len * (n / 2 ^ (lo + len))) / 2 ^ len = n / 2 ^ (lo + len) := by
      rw [Nat.add_mul_div_left _ _ (Nat.two_pow_pos len), Nat.div_eq_of_lt (Nat.mod_lt _ (Nat.two_pow_pos len)), Nat.zero_add]
    rw [pow_add 2 lo len, ← Nat.div_div_eq_div_mul, setField_eq, Nat.add_mul_div_left _ _ (Nat.two_pow_pos lo),
      Nat.div_eq_of_lt (Nat.mod_lt _ (Nat.two_pow_pos lo)), Nat.zero_add, hlow, pow_add]

/-! ## Checked records -/

theorem State.below_checkMaps (s : State) (tk : Nat) (t : Team) (vas : List Word) (write : Bool) : s.Below (s.checkMaps tk t vas write).1 := by
  unfold State.checkMaps
  refine List.foldlRecOn (motive := fun (acc : State × MapChk) => s.Below acc.1) _ _ (.refl s) fun acc hacc va _ => ?_
  have hcheck := (acc.1.looks_checkGlobal (coreOf tk) t.ctx va 64 write false false true false).below
  split
  · split <;> next heq => rw [heq] at hcheck; exact hacc.trans hcheck
  · exact hacc

theorem State.below_settleMap (s : State) (tk : Nat) (as : List Nat) : s.Below (s.settleMap tk as).1 := by
  unfold State.settleMap
  exact .foldl _ _ (fun x key => .foldl _ _ (fun y l => (State.flows_writeBackOne y l key).below) x) s

section
variable {s s' : State} {tk : Nat} {t : Team} {vas : List Word} {write : Bool} {as : List Nat}

/-- Behind the checks of its records a word goes on with their addresses. -/
theorem withMaps_ok (hm : MapsOk s tk t vas write s' as) (h : Hdr) (go : State → List Nat → Act) : withMaps s h tk t vas write go = go s' as := by
  obtain ⟨hlost, s1, ps, hcheck, hreach, rfl, hsettle⟩ := hm
  have hfind : (ps.zip vas).find? (fun x => !(s1.unreached tk t x.1 write).isEmpty) = none := by
    rw [List.find?_eq_none]
    intro x hx
    rw [hreach x.1 (List.of_mem_zip hx).1]
    decide
  unfold withMaps
  rw [hlost, hcheck]
  simp only [Bool.false_eq_true, if_false, hfind, hsettle]

/-- The checks of records change no team. -/
theorem MapsOk.below (hm : MapsOk s tk t vas write s' as) : s.Below s' := by
  obtain ⟨-, s1, ps, hcheck, -, -, hsettle⟩ := hm
  have h1 := s.below_checkMaps tk t vas write
  have h2 := s1.below_settleMap tk as
  rw [hcheck] at h1
  rw [hsettle] at h2
  exact h1.trans h2

theorem SpanStarts.below {m : Word} {sc a : Nat} (hs : SpanStarts s tk t m write sc s' a) : s.Below s' := by
  obtain ⟨s1, hm, hrel⟩ := hs
  exact hm.below.trans hrel.flows.below

/-- A span word whose header is checked and released goes on with the header. -/
theorem span_starts {f : SF} {a : Nat} (hs : SpanStarts s tk t (t.rs f.s1.toNat) write (f.sub.toNat % 8) s' a) (h : Hdr)
    (go : State → Nat → Team → Word → Nat → Nat → Act) :
    span h f write go s tk t = go s' tk t (t.rs f.s1.toNat) a (s'.record (pkgOfTeam tk) a) := by
  obtain ⟨s1, hm, hrel⟩ := hs
  unfold span
  dsimp only
  rw [withMaps_ok hm, releaseThen_released hrel]
  rfl

/-- A span word whose entries are checked goes on with them. -/
theorem withBlocks_ok {m : Word} {bs : List Nat} (hm : MapsOk s tk t (bs.map (entryVa m)) write s' as) (h : Hdr)
    (go : State → List (Nat × Nat × Nat) → Act) : withBlocks s h tk t m bs write go = go s' (entriesOf s' tk bs as) :=
  withMaps_ok hm h _

end

/-! ## The end of a span word -/

/-- Writes of the hardware leave a team without a region, and memory in its canonical form. -/
theorem State.sysWriteBytes_keeps (s : State) (p a : Nat) (bs : List Byte) :
    (∀ tk t, s.team tk = some t → t.tryR = none → (s.sysWriteBytes p a bs).1.team tk = some t) ∧ (s.memWf → (s.sysWriteBytes p a bs).1.memWf) := by
  unfold State.sysWriteBytes
  extract_lets keys
  refine List.foldlRecOn (motive := fun (acc : State × SysW) =>
    (∀ tk t, s.team tk = some t → t.tryR = none → acc.1.team tk = some t) ∧ (s.memWf → acc.1.memWf)) _ _ ⟨fun _ _ h _ => h,
      id⟩ fun acc hacc key _ => ?_
  obtain ⟨hteam, hwf⟩ := hacc
  split
  · extract_lets m sec
    have hw := acc.1.lays_sysWrite p key sec m
    refine ⟨fun tk t ht htry => ?_, fun h => State.memWf_noteWrite (hw.2 (hwf h)) _ _⟩
    dsimp only
    rw [State.team_noteWrite, hw.1.team, hteam tk t ht htry, Option.map_some, if_neg (by rintro ⟨⟩), Team.noted_of_no_region htry]
  · exact ⟨hteam, hwf⟩

theorem State.below_dropRecords (s : State) (core sc : Nat) (as : List Nat) : s.Below (s.dropRecords core sc as) := by
  unfold State.dropRecords
  exact .foldl _ _ (fun x key => .foldl _ _ (fun y l => (State.flows_dropLine y l key).below) x) s

/-- A span word that is done ends as R187 says. -/
theorem spanDone_ends {s : State} {tk : Nat} {t : Team} (ht : s.team tk = some t) (hs : t.stepping = none) (f : SF) (ws : List (Nat × Nat))
    (htry : t.tryR = none ∨ ws = []) (res : Option (Nat × Nat)) (z : Bool) :
    SpanEnds (.next ((spanDone s tk f ws res).finish tk z)) s tk t (f.sub.toNat % 8) ws res := by
  have hteam : ((ws.foldl (fun s w => (s.sysWriteBytes (pkgOfTeam tk) w.1 (bytesOf 64 w.2)).1) s).dropRecords (coreOf tk) (f.sub.toNat % 8)
      (ws.map (·.1))).team tk = some t := by
    rw [(State.below_dropRecords _ _ _ _).team]
    rcases htry with htry | rfl
    · exact List.foldlRecOn (motive := fun (x : State) => x.team tk = some t) _ _ ht fun x hx w _ => (x.sysWriteBytes_keeps _ _ _).1 tk t hx htry
    · exact ht
  unfold SpanEnds spanDone
  dsimp only
  generalize (ws.foldl (fun s w => (s.sysWriteBytes (pkgOfTeam tk) w.1 (bytesOf 64 w.2)).1) s).dropRecords (coreOf tk) (f.sub.toNat % 8)
    (ws.map (·.1)) = X at hteam ⊢
  cases res with
  | none =>
    dsimp only
    rw [State.setTeam_acquire]
    have hX : (X.acquire (coreOf tk) (f.sub.toNat % 8)).team tk = some t := by rw [(State.flows_acquire _ _ _).team, hteam]
    obtain ⟨t', hr, hrest⟩ := retire_ends_in hX hs z
    refine ⟨t', ?_, hrest⟩
    rw [State.setTeam_setTeam]
    exact hr
  | some r =>
    dsimp only
    rw [State.updTeam_some hteam]
    exact acquire_endsAcq X (u := t.longS r.1 (BitVec.ofNat 64 r.2)) hs _ z

/-! ## SPANAPP, SPANTAG and SPANSET -/

/-- A word that the open region's events stop issues with no region open where it acts once for its team. -/
theorem region_closed {s : State} {t : Team} {i : Instr} {h : Hdr} (hi : s.IssuesOnce t i h) (hev : tryEvent i ≠ none)
    (hlane : actsPerLane i = false) : t.tryR = none := by
  obtain ⟨⟨-, -, -, htry, -⟩, hexec⟩ := hi
  rcases htry with htry | htry | htry
  · exact htry
  · exact absurd htry hev
  · unfold Team.doesAct at htry
    rw [hlane, if_neg (by decide), hexec] at htry
    cases htry

section
variable {h : Hdr} {f : SF} {s s2 s3 : State} {t : Team} {a : Nat} {as : List Nat} {write : Bool}

/-- The team of a span word whose header is checked. -/
theorem SpanStarts.team {m : Word} {sc : Nat} (hs : SpanStarts s s.cur t m write sc s2 a) (ht : s.team s.cur = some t) : s2.team s.cur = some t := by
  rw [hs.below.team, ht]

theorem MapsOk.team {vas : List Word} (hm : MapsOk s2 s.cur t vas write s3 as) (ht : s2.team s.cur = some t) : s3.team s.cur = some t := by
  rw [hm.below.team, ht]

theorem spanapp_full (hi : s.IssuesOnce t (.spanapp h f) h) (hs : SpanStarts s s.cur t (t.rs f.s1.toNat) true (f.sub.toNat % 8) s2 a)
    (hroom : 64 * mapCap (s2.record (pkgOfTeam s.cur) a) < mapNext (s2.record (pkgOfTeam s.cur) a) + f.imm.toNat) :
    SpanEnds (exec (.spanapp h f) s) s2 s.cur t (f.sub.toNat % 8) [] (some (f.s2.toNat, 2 ^ 32)) := by
  show SpanEnds (issue (.spanapp h f) h _ s) _ _ _ _ _ _
  rw [once_next hi, span_starts hs]
  dsimp only
  rw [if_pos hroom]
  exact spanDone_ends (hs.team hi.1.1) hi.1.2.2.2.2 f [] (.inr rfl) _ h.z

theorem spanapp_blocks (hi : s.IssuesOnce t (.spanapp h f) h) (hs : SpanStarts s s.cur t (t.rs f.s1.toNat) true (f.sub.toNat % 8) s2 a)
    (hroom : mapNext (s2.record (pkgOfTeam s.cur) a) + f.imm.toNat ≤ 64 * mapCap (s2.record (pkgOfTeam s.cur) a))
    (hm : MapsOk s2 s.cur t ((blocksOf (mapNext (s2.record (pkgOfTeam s.cur) a)) (mapNext (s2.record (pkgOfTeam s.cur) a) + f.imm.toNat)).map
      (entryVa (t.rs f.s1.toNat))) true s3 as) :
    let next := mapNext (s2.record (pkgOfTeam s.cur) a)
    let es := entriesOf s3 s.cur (blocksOf next (next + f.imm.toNat)) as
    ((∃ e ∈ es, entStatus e.2.2 ≠ 0) → SpanEnds (exec (.spanapp h f) s) s3 s.cur t (f.sub.toNat % 8) [] (some (f.s2.toNat, 2 ^ 32))) ∧
    ((∀ e ∈ es, entStatus e.2.2 = 0) → SpanEnds (exec (.spanapp h f) s) s3 s.cur t (f.sub.toNat % 8)
      (es.map (fun e => (e.2.1, mapSlots e.1 (fun q _ => decide (next ≤ q) && decide (q < next + f.imm.toNat))
        (fun x i => setField (setField x (4 * i) 4 (f.id.toNat % 16)) (256 + i) 1 0) e.2.2)) ++
          [(a, setField (s2.record (pkgOfTeam s.cur) a) 0 32 (next + f.imm.toNat))]) (some (f.s2.toNat, next))) := by
  intro next es
  have hrow : rowOf (.spanapp h f) = 0x16 := rowOf_of_encode (op := 0x160) (h := h) (r := f.bits) rfl
  have hrun : exec (.spanapp h f) s = issue (.spanapp h f) h _ s := rfl
  rw [hrun, once_next hi, span_starts hs]
  dsimp only
  rw [if_neg (Nat.not_lt.mpr hroom), withBlocks_ok hm]
  have hteam := hm.team (hs.team hi.1.1)
  constructor
  · intro hbad
    rw [if_pos (by simpa [List.any_eq_true] using hbad)]
    exact spanDone_ends hteam hi.1.2.2.2.2 f [] (.inr rfl) _ h.z
  · intro hok
    rw [if_neg (by simpa [List.any_eq_true] using hok)]
    exact spanDone_ends hteam hi.1.2.2.2.2 f _ (.inl (region_closed hi (by simp [tryEvent, hrow]) (by simp [actsPerLane, hrow]))) _ h.z

theorem spantag_ends (hi : s.IssuesOnce t (.spantag h f) h) (hs : SpanStarts s s.cur t (t.rs f.s1.toNat) true (f.sub.toNat % 8) s2 a) :
    let qs := ((t.act h).map fun L => (t.rv f.v.toNat L).toNat).filter fun q => decide (q < mapNext (s2.record (pkgOfTeam s.cur) a))
    MapsOk s2 s.cur t (((qs.map (· / 64)).dedup).map (entryVa (t.rs f.s1.toNat))) true s3 as →
    SpanEnds (exec (.spantag h f) s) s3 s.cur t (f.sub.toNat % 8) ((entriesOf s3 s.cur ((qs.map (· / 64)).dedup) as).map fun e =>
      (e.2.1, mapSlots e.1 (fun q x => decide (q ∈ qs) && !entRetired x (q % 64)) (fun x i => setField x (4 * i) 4 (f.id.toNat % 16)) e.2.2)) none := by
  intro qs hm
  have hrun : exec (.spantag h f) s = issue (.spantag h f) h _ s := rfl
  rw [hrun, once_next hi, span_starts hs]
  dsimp only
  rw [withBlocks_ok hm]
  have hrow : rowOf (.spantag h f) = 0x16 := rowOf_of_encode (op := 0x161) (h := h) (r := f.bits) rfl
  have htry : t.tryR = none ∨ qs = [] := by
    obtain ⟨⟨-, -, -, htry, -⟩, -⟩ := hi
    rcases htry with htry | htry | htry
    · exact .inl htry
    · simp [tryEvent, hrow] at htry
    · have hact : t.act h = [] := by
        unfold Team.doesAct at htry
        simpa [actsPerLane, hrow] using htry
      exact .inr (by show List.filter _ (List.map _ (t.act h)) = []; rw [hact]; rfl)
  have hmem (q : Nat) : qs.contains q = decide (q ∈ qs) := List.contains_eq_mem _ _
  simp only [← hmem]
  refine spanDone_ends (hm.team (hs.team hi.1.1)) hi.1.2.2.2.2 f _ (htry.imp_right fun hqs => ?_) none h.z
  rw [show (entriesOf s3 s.cur ((qs.map (· / 64)).dedup) as) = [] by rw [hqs]; rfl]
  rfl

theorem spanset_ends (hi : s.IssuesOnce t (.spanset h f) h) (hs : SpanStarts s s.cur t (t.rs f.s1.toNat) true (f.sub.toNat % 8) s2 a) :
    let r := (t.rs f.s2.toNat).toNat
    let first := r % 2 ^ 32
    let hi := min (first + r / 2 ^ 32) (mapNext (s2.record (pkgOfTeam s.cur) a))
    MapsOk s2 s.cur t ((blocksOf first hi).map (entryVa (t.rs f.s1.toNat))) true s3 as →
    SpanEnds (exec (.spanset h f) s) s3 s.cur t (f.sub.toNat % 8) ((entriesOf s3 s.cur (blocksOf first hi) as).map fun e =>
      (e.2.1, mapSlots e.1 (fun q x => decide (first ≤ q) && decide (q < hi) && !entRetired x (q % 64) &&
        (!f.imm.getLsbD 4 || entTag x (q % 64) == f.imm.toNat % 16)) (fun x i => setField x (4 * i) 4 (f.id.toNat % 16)) e.2.2)) none := by
  intro r first last hm
  have hrow : rowOf (.spanset h f) = 0x16 := rowOf_of_encode (op := 0x162) (h := h) (r := f.bits) rfl
  have hrun : exec (.spanset h f) s = issue (.spanset h f) h _ s := rfl
  rw [hrun, once_next hi, span_starts hs]
  dsimp only
  rw [withBlocks_ok hm]
  exact spanDone_ends (hm.team (hs.team hi.1.1)) hi.1.2.2.2.2 f _ (.inl (region_closed hi (by simp [tryEvent, hrow]) (by simp [actsPerLane,
    hrow]))) none h.z

end

/-! ## SPANRET and SPANQ -/

theorem foldl_add_eq_sum (l : List Nat) : l.foldl (· + ·) 0 = l.sum := List.sum_eq_foldl.symm

section
variable {h : Hdr} {f : SF} {s s2 s3 : State} {t : Team} {a : Nat} {as : List Nat} {write : Bool}

/-- SPANRET is done: the pages of the blocks that are full are freed. -/
theorem spanret_done (ht : s3.team s.cur = some t) (hst : t.stepping = none) (htry : t.tryR = none) (freed : List (Nat × Nat × Nat))
    (ws : List (Nat × Nat)) {m n : Nat} (hn : m = n) (z : Bool) :
    SpanEnds (.next ((spanDone (freed.foldl (fun x e => x.lowerRef (pkgOfTeam s.cur) (entPage e.2.2)) s3) s.cur f ws (some (f.s2.toNat,
      m))).finish s.cur z))
      (freed.foldl (fun x e => x.lowerRef (pkgOfTeam s.cur) (entPage e.2.2)) s3) s.cur t (f.sub.toNat % 8) ws (some (f.s2.toNat, n)) := by
  have hteam : (freed.foldl (fun x e => x.lowerRef (pkgOfTeam s.cur) (entPage e.2.2)) s3).team s.cur = some t := by
    rw [(State.Lays.foldl freed _ (fun x (e : Nat × Nat × Nat) => x.lays_lowerRef _ (entPage e.2.2)) s3).1.team, ht]
  rw [hn]
  exact spanDone_ends hteam hst f ws (.inl htry) _ z

theorem spanret_ends (hi : s.IssuesOnce t (.spanret h f) h) (hs : SpanStarts s s.cur t (t.rs f.s1.toNat) true (f.sub.toNat % 8) s2 a) {n : Nat} :
    let hd := s2.record (pkgOfTeam s.cur) a
    let next := mapNext hd
    let es := entriesOf s3 s.cur (blocksOf 0 next) as
    MapsOk s2 s.cur t ((blocksOf 0 next).map (entryVa (t.rs f.s1.toNat))) true s3 as →
    let hit (q x : Nat) : Bool := decide (q < next) && entTag x (q % 64) == f.id.toNat % 16 && !entRetired x (q % 64)
    let es' := es.map fun e => (e.1, e.2.1, mapSlots e.1 hit (fun x i => setField x (256 + i) 1 1) e.2.2)
    let full (e : Nat × Nat × Nat) : Bool := decide (e.1 < mapCap hd) && entStatus e.2.2 == 0 && field e.2.2 256 64 == 2 ^ 64 - 1
    (es.map fun e => ((List.range 64).filter fun i => hit (64 * e.1 + i) e.2.2).length).foldl (· + ·) 0 + (es'.filter full).length * 2 ^ 32 = n →
    SpanEnds (exec (.spanret h f) s) ((es'.filter full).foldl (fun x e => x.lowerRef (pkgOfTeam s.cur) (entPage e.2.2)) s3) s.cur t (f.sub.toNat % 8)
      (es'.map fun e => (e.2.1, if full e then setField e.2.2 360 3 2 else e.2.2)) (some (f.s2.toNat, n)) := by
  intro hd next es hm hit es' full hn
  have hrow : rowOf (.spanret h f) = 0x16 := rowOf_of_encode (op := 0x163) (h := h) (r := f.bits) rfl
  have hrun : exec (.spanret h f) s = issue (.spanret h f) h _ s := rfl
  rw [hrun, once_next hi, span_starts hs]
  dsimp only
  rw [withBlocks_ok hm]
  exact spanret_done (hm.team (hs.team hi.1.1)) hi.1.2.2.2.2 (region_closed hi (by simp [tryEvent, hrow]) (by simp [actsPerLane, hrow])) _ _ hn h.z

theorem spanq_ends (hi : s.IssuesOnce t (.spanq h f) h) (hs : SpanStarts s s.cur t (t.rs f.s1.toNat) false (f.sub.toNat % 8) s2 a) :
    let next := mapNext (s2.record (pkgOfTeam s.cur) a)
    let es := entriesOf s3 s.cur (blocksOf 0 next) as
    let count (ok : Nat → Nat → Bool) : Nat := (es.map fun e => (List.range 64).countP fun i => ok (64 * e.1 + i) e.2.2).sum
    MapsOk s2 s.cur t ((blocksOf 0 next).map (entryVa (t.rs f.s1.toNat))) false s3 as →
    SpanEnds (exec (.spanq h f) s) s3 s.cur t (f.sub.toNat % 8) [] (some (f.s2.toNat, next + 2 ^ 32 * count fun q x =>
      decide (q < next) && !entRetired x (q % 64) && (f.imm.getLsbD 0 || entTag x (q % 64) == f.id.toNat % 16))) := by
  intro next es count hm
  have hrun : exec (.spanq h f) s = issue (.spanq h f) h _ s := rfl
  rw [hrun, once_next hi, span_starts hs]
  dsimp only
  rw [withBlocks_ok hm]
  have hcount : (es.map fun e => ((List.range 64).filter fun i => decide (64 * e.1 + i < next) && !entRetired e.2.2 i &&
      (f.imm.getLsbD 0 || entTag e.2.2 i == f.id.toNat % 16)).length).foldl (· + ·) 0 = count fun q x =>
      decide (q < next) && !entRetired x (q % 64) && (f.imm.getLsbD 0 || entTag x (q % 64) == f.id.toNat % 16) := by
    rw [foldl_add_eq_sum]
    simp only [count]
    congr 1
    refine List.map_congr_left fun e _ => ?_
    rw [List.countP_eq_length_filter]
    congr 1
    refine List.filter_congr fun i hi => ?_
    have hi := List.mem_range.mp hi
    have hslot : (64 * e.1 + i) % 64 = i := by omega
    rw [hslot]
  rw [hcount]
  exact spanDone_ends (hm.team (hs.team hi.1.1)) hi.1.2.2.2.2 f [] (.inr rfl) _ h.z

/-! ## RMAP -/

theorem rmap_idle (hi : s.Issues t (.rmap h f) h) (hact : t.act h = []) : Ends (exec (.rmap h f) s) s s.cur t [] := by
  show Ends (execRmap h f s) _ _ _ _
  unfold execRmap
  rw [issue_next hi]
  dsimp only
  rw [hact]
  exact retire_ends_in hi.1 hi.2.2.2.2 h.z

/-- A position of a lane that its map holds. -/
def mapLive (hd : Nat) (f : SF) (t : Team) (L : Nat) : Bool :=
  decide ((t.rv f.v.toNat L).toNat < mapNext hd) && decide ((t.rv f.v.toNat L).toNat < 64 * mapCap hd)

/-- The checks of lanes whose entries pass change nothing. -/
theorem rmap_checks {core ctx : Nat} {m : Word} (lanes : List Nat) (live : Nat → Bool) (q : Nat → Nat)
    (hok : ∀ L ∈ lanes, live L = true → ∃ ps, s.checkGlobal core ctx (entryVa m (q L / 64)) 64 false false false true = (s, .ok ps)) :
    ∃ r : List (Nat × Option Chk), (lanes.foldl (fun (acc : State × List (Nat × Option Chk)) L =>
        if live L then
          let (s, c) := acc.1.checkGlobal core ctx (entryVa m (q L / 64)) 64 false false false true
          (s, acc.2 ++ [(L, some c)])
        else (acc.1, acc.2 ++ [(L, none)])) (s, [])) = (s, r) ∧ ∀ x ∈ r, x.2 = none ∨ ∃ ps, x.2 = some (.ok ps) := by
  refine List.foldlRecOn (motive := fun (acc : State × List (Nat × Option Chk)) => ∃ r, acc = (s, r) ∧ ∀ x ∈ r, x.2 = none ∨ ∃ ps,
    x.2 = some (.ok ps))
    _ _ ⟨[], rfl, nofun⟩ ?_
  rintro acc ⟨r, rfl, hr⟩ L hL
  dsimp only
  have hadd (c : Option Chk) (hc : c = none ∨ ∃ ps, c = some (.ok ps)) : ∀ x ∈ r ++ [(L, c)], x.2 = none ∨ ∃ ps, x.2 = some (.ok ps) := by
    intro x hx
    rcases List.mem_append.mp hx with hx | hx
    · exact hr x hx
    · rw [List.mem_singleton.mp hx]
      exact hc
  split
  · next hl =>
    obtain ⟨ps, hps⟩ := hok L hL hl
    rw [hps]
    exact ⟨_, rfl, hadd _ (.inr ⟨ps, rfl⟩)⟩
  · exact ⟨_, rfl, hadd _ (.inl rfl)⟩

/-- What a lane's position reads as: its entry, status, tag and address (R189). -/
def mapEntry (f : SF) (t : Team) (es : List (Nat × Nat × Nat)) (L : Nat) : Nat :=
  ((es.find? fun e => e.1 == (t.rv f.v.toNat L).toNat / 64).map (·.2.2)).getD 0

def mapStatus (k : Pkg) (hd : Nat) (f : SF) (t : Team) (es : List (Nat × Nat × Nat)) (L : Nat) : Nat :=
  if !mapLive hd f t L || entStatus (mapEntry f t es L) == 1 then 1
  else if entRetired (mapEntry f t es L) ((t.rv f.v.toNat L).toNat % 64) || entStatus (mapEntry f t es L) == 2 then 2
  else k.rmapStatus (entPage (mapEntry f t es L))

def mapTag (hd : Nat) (f : SF) (t : Team) (es : List (Nat × Nat × Nat)) (L : Nat) : Nat :=
  if mapLive hd f t L then entTag (mapEntry f t es L) ((t.rv f.v.toNat L).toNat % 64) else 0

def mapAddr (k : Pkg) (hd : Nat) (f : SF) (t : Team) (es : List (Nat × Nat × Nat)) (L : Nat) : Word :=
  if mapStatus k hd f t es L = 1 ∨ mapStatus k hd f t es L = 2 ∨ mapStatus k hd f t es L = 4 then 0
  else BitVec.ofNat 64 (mapVbase hd + 65536 * ((t.rv f.v.toNat L).toNat / 64) + mapGstride hd * f.imm.toNat + mapSstride hd * ((t.rv f.v.toNat L).toNat % 64))

/-- What RMAP writes in a lane. -/
def mapWrites (k : Pkg) (hd : Nat) (f : SF) (t : Team) (es : List (Nat × Nat × Nat)) (L : Nat) : List (RegId × Word) :=
  [(.v f.v.toNat, ((mapAddr k hd f t es L).extractLsb' 0 32).setWidth 64), (.v (f.v.toNat + 1),
    ((mapAddr k hd f t es L).extractLsb' 32 32).setWidth 64),
    (.v (f.v.toNat + 2), BitVec.ofNat 64 (mapStatus k hd f t es L)), (.v (f.v.toNat + 3), BitVec.ofNat 64 (mapTag hd f t es L))]

/-- The residency of a page as R189 lists it. -/
theorem Pkg.rmapStatus_rule (k : Pkg) (gpn : Nat) : k.rmapStatus gpn =
    if k.stateOf gpn = .lost then 4 else if k.stateOf gpn = .filling ∨ k.stateOf gpn = .moving then 3
    else if k.stateOf gpn = .replica ∨ k.stateOf gpn = .masterShared ∨ k.stateOf gpn = .masterExcl then 0 else 5 := by
  unfold Pkg.rmapStatus
  cases k.stateOf gpn <;> rfl

theorem mapStatus_le (k : Pkg) (hd : Nat) (f : SF) (t : Team) (es : List (Nat × Nat × Nat)) (L : Nat) : mapStatus k hd f t es L ≤ 5 := by
  unfold mapStatus
  rw [Pkg.rmapStatus_rule]
  split_ifs <;> omega

theorem mapTag_lt (hd : Nat) (f : SF) (t : Team) (es : List (Nat × Nat × Nat)) (L : Nat) : mapTag hd f t es L < 16 := by
  unfold mapTag
  split
  · exact Nat.mod_lt _ (by decide)
  · decide

/-- A word below 2^32 is what a vector register's part of it reads as. -/
theorem Part.val_ofVal_small (n L : Nat) {x : Nat} (hx : x < 2 ^ 32) : (Part.ofVal (.v n) L (BitVec.ofNat 64 x)).val = some (BitVec.ofNat 64 x) := by
  have h : (BitVec.ofNat 64 x) = (BitVec.ofNat 32 x).setWidth 64 := by
    apply BitVec.eq_of_toNat_eq
    rw [BitVec.toNat_setWidth, BitVec.toNat_ofNat, BitVec.toNat_ofNat]
    omega
  rw [h]
  exact Part.val_ofVal_v n L _

theorem Team.kept_writeLong (t : Team) (ps : List Part) : t.Kept (t.writeLong ps) := rfl

/-- Results of several registers a lane, of long latency. -/
theorem Team.wroteLong_lanes (t : Team) (h : Hdr) (g : Nat → List (RegId × Word))
    (hval : ∀ L ∈ t.act h, ∀ w ∈ g L, (Part.ofVal w.1 L w.2).val = some w.2) (hnd : ∀ L ∈ t.act h, ((g L).map (·.1)).Nodup) :
    t.WroteLong (t.writeLong ((t.act h).flatMap fun L => (g L).map fun w => Part.ofVal w.1 L w.2))
      ((t.act h).flatMap fun L => (g L).map fun w => (w.1, L, w.2)) := by
  apply Team.wroteLong_writeLong
  · intro q hq
    obtain ⟨L, -, hq⟩ := List.mem_flatMap.mp hq
    obtain ⟨w, -, rfl⟩ := List.mem_map.mp hq
    rfl
  · simp only [List.map_flatMap, List.map_map]
    refine List.flatMap_congr fun L hL => List.map_congr_left fun w hw => ?_
    show (w.1, L, (Part.ofVal w.1 L w.2).val) = (w.1, L, some w.2)
    rw [hval L hL w hw]
  · simp only [List.map_flatMap, List.map_map]
    rw [List.nodup_flatMap]
    refine ⟨fun L hL => ?_, ((List.nodup_range).filter _).imp fun {a b} hab => ?_⟩
    · have hpair : (g L).map ((fun w : RegId × Nat × Word => (w.1, w.2.1)) ∘ fun w : RegId × Word => (w.1, L,
      w.2)) = ((g L).map (·.1)).map fun r => (r, L) := by
        simp [List.map_map, Function.comp_def]
      rw [hpair]
      exact (hnd L hL).map fun a b hab => (Prod.mk.inj hab).1
    · intro x hx hx'
      obtain ⟨w, -, rfl⟩ := List.mem_map.mp hx
      obtain ⟨w', -, hw'⟩ := List.mem_map.mp hx'
      exact hab (Prod.mk.inj hw').2.symm

theorem wroteLong_mapWrites (k : Pkg) (hd : Nat) (es : List (Nat × Nat × Nat)) :
    t.WroteLong (t.writeLong ((t.act h).flatMap fun L => (mapWrites k hd f t es L).map fun w => Part.ofVal w.1 L w.2))
      ((t.act h).flatMap fun L => (mapWrites k hd f t es L).map fun w => (w.1, L, w.2)) := by
  refine t.wroteLong_lanes h _ (fun L _ w hw => ?_) fun L _ => by simp [mapWrites]
  have hst : mapStatus k hd f t es L < 2 ^ 32 := by have := mapStatus_le k hd f t es L; omega
  have htag : mapTag hd f t es L < 2 ^ 32 := by have := mapTag_lt hd f t es L; omega
  simp only [mapWrites, List.mem_cons, List.not_mem_nil, or_false] at hw
  rcases hw with rfl | rfl | rfl | rfl
  · exact Part.val_ofVal_v _ _ _
  · exact Part.val_ofVal_v _ _ _
  · exact Part.val_ofVal_small _ _ hst
  · exact Part.val_ofVal_small _ _ htag

theorem rmap_ends (hi : s.Issues t (.rmap h f) h) (hact : t.act h ≠ []) (hs : SpanStarts s s.cur t (t.rs f.s1.toNat) false (f.sub.toNat % 8) s2 a)
    (hchk : ∀ L ∈ t.act h, mapLive (s2.record (pkgOfTeam s.cur) a) f t L = true →
      ∃ ps, s2.checkGlobal (coreOf s.cur) t.ctx (entryVa (t.rs f.s1.toNat) ((t.rv f.v.toNat L).toNat / 64)) 64 false false false true = (s2,
        .ok ps)) :
    let hd := s2.record (pkgOfTeam s.cur) a
    let bs := (((t.act h).filter (mapLive hd f t)).map fun L => (t.rv f.v.toNat L).toNat / 64).dedup
    MapsOk s2 s.cur t (bs.map (entryVa (t.rs f.s1.toNat))) false s3 as →
    EndsLongAcq (exec (.rmap h f) s) s3 s.cur t ((t.act h).flatMap fun L =>
      (mapWrites (s3.pkg (pkgOfTeam s.cur)) hd f t (entriesOf s3 s.cur bs as) L).map fun w => (w.1, L, w.2)) (f.sub.toNat % 8) := by
  intro hd bs hm
  show EndsLongAcq (execRmap h f s) _ _ _ _ _
  unfold execRmap
  rw [issue_next hi]
  dsimp only
  rw [if_neg (by simpa using hact), span_starts hs]
  have hteam := hm.team (hs.team hi.1)
  clear hs
  change ∀ L ∈ t.act h, mapLive hd f t L = true → _ at hchk
  rw [show s2.record (pkgOfTeam s.cur) a = hd from rfl]
  clear_value hd
  obtain ⟨r, hr, hok⟩ := rmap_checks (s := s2) (t.act h) (mapLive hd f t) (fun L => (t.rv f.v.toNat L).toNat) hchk
  unfold mapLive at hr
  rw [hr]
  split
  · next ix hix =>
    obtain ⟨x, hx, hx2⟩ := List.exists_of_findSome?_eq_some hix
    rcases hok x hx with hc | ⟨ps, hc⟩ <;> rw [hc] at hx2 <;> cases hx2
  rw [if_neg (by
    rw [List.any_eq_true]
    rintro ⟨x, hx, hx2⟩
    rcases hok x hx with hc | ⟨ps, hc⟩ <;> rw [hc] at hx2 <;> cases hx2)]
  dsimp only
  have hblocks (go : State → List (Nat × Nat × Nat) → Act) : withBlocks s2 h s.cur t (t.rs f.s1.toNat) (((t.act h).filter fun L =>
      decide ((t.rv f.v.toNat L).toNat < mapNext hd) && decide ((t.rv f.v.toNat L).toNat < 64 * mapCap hd)).map fun L => (t.rv f.v.toNat L).toNat / 64).dedup
      false go = go s3 (entriesOf s3 s.cur bs as) := withBlocks_ok hm h go
  rw [hblocks, State.updTeam_some hteam]
  generalize entriesOf s3 s.cur bs as = es
  exact acquire_endsLongAcq s3 (t := t)
    (u := t.writeLong ((t.act h).flatMap fun L => (mapWrites (s3.pkg (pkgOfTeam s.cur)) hd f t es L).map fun w : RegId × Word => Part.ofVal w.1 L w.2))
    hi.2.2.2.2 (t.kept_writeLong _) (wroteLong_mapWrites _ hd es) ⟨rfl, rfl⟩ _ h.z

end

/-- Settles O27. That a map's records are read and written at the SYSTEM point in one step is the model's choice (log 80). -/
theorem spanMaps : Obligations.SpanMaps := by
  unfold Obligations.SpanMaps
  refine ⟨⟨fun n lo len v lo' len' => ⟨field_setField_same n lo len v, field_setField_other n lo len v lo' len'⟩, ?_⟩, ?_⟩
  · intro h f s s2 s3 t a as m sc tag hd next setTag hs
    refine ⟨fun hi => ?_, fun hi => ?_, fun hi => ?_⟩
    · intro n res
      exact ⟨fun hroom => spanapp_full hi hs hroom, fun hroom hm => spanapp_blocks hi hs hroom hm⟩
    · intro qs bs hm
      exact spantag_ends hi hs hm
    · intro r first last hm
      exact spanset_ends hi hs hm
  · intro h f s s2 s3 t a as m sc tag p hd next es count
    refine ⟨fun hi hs hm => ?_, fun hi hs hm => spanq_ends hi hs hm, rmap_idle, fun hi hact hs => ?_⟩
    · intro hit es' full
      refine spanret_ends hi hs hm ?_
      rw [foldl_add_eq_sum, ← List.countP_eq_length_filter, Nat.mul_comm (List.countP _ _)]
      simp only [← List.countP_eq_length_filter]
      rfl
    · intro q live bs hchk hm ent state status addr
      have hends : EndsLongAcq (exec (.rmap h f) s) s3 s.cur t ((t.act h).flatMap fun L =>
          (mapWrites (s3.pkg p) hd f t (entriesOf s3 s.cur bs as) L).map fun w => (w.1, L, w.2)) sc := rmap_ends hi hact hs hchk hm
      clear_value hd
      have hstatus (L : Nat) : mapStatus (s3.pkg p) hd f t (entriesOf s3 s.cur bs as) L = status L := by
        unfold mapStatus
        rw [Pkg.rmapStatus_rule]
        simp only [Bool.or_eq_true, Bool.not_eq_true', beq_iff_eq]
        rfl
      have haddr (L : Nat) : mapAddr (s3.pkg p) hd f t (entriesOf s3 s.cur bs as) L = addr L := by
        unfold mapAddr
        rw [hstatus]
      refine Eq.mp (congrArg (fun ws => EndsLongAcq _ s3 s.cur t ws sc) (List.flatMap_congr fun L _ => ?_)) hends
      unfold mapWrites
      rw [haddr, hstatus]
      rfl

end Sys2Proof.Machine

/-! PROOFS. The greatest of a list of words, and the accumulator words (R101, R206, R213 to R215). -/

namespace Sys2Proof.Machine

open Host

/-! ## The key of R101 orders FP32 encodings by value -/

/-- The value of a finite FP32 magnitude, in units of the least subnormal. -/
def magUnits (u : Nat) : Nat := (u - (u / 2 ^ 23 - 1) * 2 ^ 23) * 2 ^ (u / 2 ^ 23 - 1)

theorem magForm (u : Nat) : EncForm 23 (u / 2 ^ 23 - 1) (u - (u / 2 ^ 23 - 1) * 2 ^ 23) ∧ (u / 2 ^ 23 - 1) * 2 ^ 23 ≤ u := by
  unfold EncForm
  omega

theorem magUnits_mono {u v : Nat} (h : u ≤ v) : magUnits u ≤ magUnits v := by
  obtain ⟨hu, hul⟩ := magForm u
  obtain ⟨⟨hv1, hv2⟩, hvl⟩ := magForm v
  rcases Nat.lt_or_ge v (2 ^ 23) with hsub | hnorm
  · have hu0 : u / 2 ^ 23 - 1 = 0 := by omega
    have hv0 : v / 2 ^ 23 - 1 = 0 := by omega
    unfold magUnits
    rw [hu0, hv0]
    omega
  · by_contra hlt
    have hq : ((v - (v / 2 ^ 23 - 1) * 2 ^ 23 : Nat) : ℚ) * 2 ^ (v / 2 ^ 23 - 1) < ((u - (u / 2 ^ 23 - 1) * 2 ^ 23 : Nat) : ℚ) * 2 ^ (u / 2 ^ 23 - 1) := by
      have := Nat.lt_of_not_le hlt
      unfold magUnits at this
      exact_mod_cast this
    have := (encForm_lt_iff (K := v / 2 ^ 23 - 1) hu (by omega) (by omega)).mpr hq
    omega

/-- What a finite FP32 encoding decodes to. -/
theorem decodeNum_fp32_finite {y : Lane32} (h : y.toNat % 2 ^ 31 < 0x7F800000) :
    ∃ m l, decodeNum .fp32 y.toNat = .fin y.msb m l ∧ dyadic false m l = magUnits (y.toNat % 2 ^ 31) * 2 ^ (-149 : Int) := by
  obtain ⟨hform, hle⟩ := magForm (y.toNat % 2 ^ 31)
  obtain ⟨m, l, hv, hd⟩ := floatValue_form hform 127 y.msb
  rw [Nat.add_sub_cancel' hle] at hv
  have hsign : y.toNat = withSign 8 23 y.msb (y.toNat % 2 ^ 31) := by
    have hlt := y.isLt
    have hmsb : y.msb = decide (2 ^ 31 ≤ y.toNat) := BitVec.msb_eq_decide y
    unfold withSign
    rw [hmsb]
    by_cases hbig : 2 ^ 31 ≤ y.toNat
    · simp only [hbig, decide_true, if_true]
      omega
    · simp only [hbig, decide_false, Bool.false_eq_true, if_false]
      omega
  refine ⟨m, l, ?_, ?_⟩
  · rw [hsign, decodeNum_withSign (f := .fp32) rfl y.msb (show y.toNat % 2 ^ 31 ≤ 0x7F7FFFFF by omega)]
    exact hv
  · rw [hd]
    unfold magUnits
    rw [zpow_add₀ two_ne_zero]
    push_cast
    rw [zpow_natCast, mul_assoc, mul_comm ((2 : ℚ) ^ (y.toNat % 2147483648 / 8388608 - 1))]

/-- An FP32 encoding is finite, an infinity or a NaN by its magnitude. -/
theorem decodeNum_fp32_inf {y : Lane32} (h : y.toNat % 2 ^ 31 = 0x7F800000) : decodeNum .fp32 y.toNat = .inf y.msb := by
  have hmsb : y.msb = decide (2 ^ 31 ≤ y.toNat) := BitVec.msb_eq_decide y
  have hlt := y.isLt
  rcases (show y.toNat = 0x7F800000 ∨ y.toNat = 0xFF800000 by omega) with hy | hy <;> rw [hmsb, hy] <;> rfl

theorem decodeNum_fp32_nan {y : Lane32} : (decodeNum .fp32 y.toNat).isNan = nanF32 y := by
  unfold nanF32
  rcases Nat.lt_trichotomy (y.toNat % 2 ^ 31) 0x7F800000 with h | h | h
  · obtain ⟨m, l, hdec, -⟩ := decodeNum_fp32_finite h
    rw [hdec, decide_eq_false (by omega)]
    rfl
  · rw [decodeNum_fp32_inf h, decide_eq_false (by omega)]
    rfl
  · have he : y.toNat / 2 ^ 23 % 2 ^ 8 = 2 ^ 8 - 1 := by omega
    have hm : y.toNat % 2 ^ 23 ≠ 0 := by omega
    have hdec : decodeNum .fp32 y.toNat = .nan false := by
      show decodeFloat .fp32 8 23 127 y.toNat = _
      unfold decodeFloat
      simp only [he, hm]
      rfl
    rw [hdec, decide_eq_true h]
    rfl

/-- The value at a sign and a magnitude below another's is not above it. -/
theorem dyadic_sign (s : Bool) {m : Nat} {l : Int} {u : Nat} (h : dyadic false m l = magUnits u * 2 ^ (-149 : Int)) :
    dyadic s m l = (if s then -1 else 1) * (magUnits u * 2 ^ (-149 : Int)) := by
  rw [← h]
  unfold dyadic
  cases s <;> simp

theorem xLt_key {a b : Lane32} (ha : nanF32 a = false) (hb : nanF32 b = false) (h : xLt (decodeNum .fp32 a.toNat) (decodeNum .fp32 b.toNat)) :
    keyF32 a < keyF32 b := by
  have hmono {u v : Nat} (huv : u ≤ v) : (magUnits u : ℚ) * 2 ^ (-149 : Int) ≤ magUnits v * 2 ^ (-149 : Int) :=
    mul_le_mul_of_nonneg_right (by exact_mod_cast magUnits_mono huv) (by positivity)
  have hpos (u : Nat) : (0 : ℚ) ≤ magUnits u * 2 ^ (-149 : Int) := by positivity
  have hmsba : a.msb = decide (2 ^ 31 ≤ a.toNat) := BitVec.msb_eq_decide a
  have hmsbb : b.msb = decide (2 ^ 31 ≤ b.toNat) := BitVec.msb_eq_decide b
  have hla := a.isLt
  have hlb := b.isLt
  have hna : a.toNat % 2 ^ 31 ≤ 0x7F800000 := by simpa [nanF32] using ha
  have hnb : b.toNat % 2 ^ 31 ≤ 0x7F800000 := by simpa [nanF32] using hb
  unfold keyF32
  rcases Nat.lt_or_eq_of_le hna with hfa | hia <;> rcases Nat.lt_or_eq_of_le hnb with hfb | hib
  · obtain ⟨m, l, hda, hva⟩ := decodeNum_fp32_finite hfa
    obtain ⟨n, k, hdb, hvb⟩ := decodeNum_fp32_finite hfb
    rw [hda, hdb] at h
    have hlt : dyadic a.msb m l < dyadic b.msb n k := h
    rw [dyadic_sign _ hva, dyadic_sign _ hvb] at hlt
    cases hsa : a.msb <;> cases hsb : b.msb <;> simp only [hsa, hsb, Bool.false_eq_true, if_false, if_true, one_mul, neg_mul] at hlt ⊢
    · have hmag : a.toNat % 2 ^ 31 < b.toNat % 2 ^ 31 := by
        by_contra hle
        exact absurd (hmono (Nat.le_of_not_lt hle)) (not_le.mpr hlt)
      rw [hsa] at hmsba
      rw [hsb] at hmsbb
      have := of_decide_eq_false hmsba.symm
      have := of_decide_eq_false hmsbb.symm
      omega
    · have := hpos (a.toNat % 2 ^ 31)
      have := hpos (b.toNat % 2 ^ 31)
      linarith
    · omega
    · have hmag : b.toNat % 2 ^ 31 < a.toNat % 2 ^ 31 := by
        by_contra hle
        have := hmono (Nat.le_of_not_lt hle)
        linarith
      omega
  · obtain ⟨m, l, hda, hva⟩ := decodeNum_fp32_finite hfa
    rw [hda, decodeNum_fp32_inf hib] at h
    have hsb : b.msb = false := h
    rw [hsb] at hmsbb ⊢
    have := of_decide_eq_false hmsbb.symm
    cases hsa : a.msb <;> simp only [Bool.false_eq_true, if_false, if_true]
    · rw [hsa] at hmsba
      have := of_decide_eq_false hmsba.symm
      omega
    · omega
  · obtain ⟨n, k, hdb, hvb⟩ := decodeNum_fp32_finite hfb
    rw [hdb, decodeNum_fp32_inf hia] at h
    have hsa : a.msb = true := h
    rw [hsa]
    cases b.msb <;> simp only [Bool.false_eq_true, if_false, if_true] <;> omega
  · rw [decodeNum_fp32_inf hia, decodeNum_fp32_inf hib] at h
    obtain ⟨hsa, hsb⟩ : a.msb = true ∧ b.msb = false := h
    rw [hsa, hsb]
    simp only [Bool.false_eq_true, if_false, if_true]
    omega

/-! ## The greatest of a list of words (R206, R214) -/

/-- r is the best of some words by a key, among those that are numbers; c where there are words but no number. -/
def BestOf (num : Lane32 → Bool) (key : Lane32 → Int) (c : Lane32) (ws : List Lane32) (r : Lane32) : Prop :=
  ((∃ w ∈ ws, num w = true) → r ∈ ws ∧ num r = true ∧ ∀ w ∈ ws, num w = true → key w ≤ key r) ∧
    ((∀ w ∈ ws, num w = false) → r = c)

/-- An operation that keeps the better of two words. -/
structure Better (num : Lane32 → Bool) (key : Lane32 → Int) (c : Lane32) (op : Lane32 → Lane32 → Lane32) : Prop where
  none : num c = false ∨ ∀ w, num w = true
  both : ∀ a b, num a = true → num b = true → (op a b = a ∧ key b ≤ key a) ∨ (op a b = b ∧ key a ≤ key b)
  left : ∀ a b, num a = true → num b = false → op a b = a
  right : ∀ a b, num a = false → num b = true → op a b = b
  neither : ∀ a b, num a = false → num b = false → op a b = c

section
variable {num : Lane32 → Bool} {key : Lane32 → Int} {c : Lane32} {op : Lane32 → Lane32 → Lane32} (hop : Better num key c op)
include hop

theorem Better.single (x : Lane32) : BestOf num key c [x] (op x x) := by
  constructor
  · rintro ⟨w, hw, hn⟩
    obtain rfl := List.mem_singleton.mp hw
    have hsame : op w w = w := by
      rcases hop.both w w hn hn with ⟨h, -⟩ | ⟨h, -⟩ <;> exact h
    rw [hsame]
    exact ⟨hw, hn, fun v hv _ => by rw [List.mem_singleton.mp hv]⟩
  · intro hn
    have hx := hn x (List.mem_singleton_self x)
    exact hop.neither x x hx hx

theorem Better.snoc {ws : List Lane32} {r : Lane32} (hws : ws ≠ []) (h : BestOf num key c ws r) (y : Lane32) :
    BestOf num key c (ws ++ [y]) (op r y) := by
  by_cases hnum : ∃ w ∈ ws, num w = true
  · obtain ⟨hmem, hr, hbest⟩ := h.1 hnum
    refine ⟨fun _ => ?_, fun hall => ?_⟩
    · cases hy : num y with
      | false =>
        rw [hop.left r y hr hy]
        refine ⟨List.mem_append_left _ hmem, hr, fun w hw hn => ?_⟩
        rcases List.mem_append.mp hw with hw | hw
        · exact hbest w hw hn
        · rw [List.mem_singleton.mp hw, hy] at hn
          cases hn
      | true =>
        rcases hop.both r y hr hy with ⟨hres, hle⟩ | ⟨hres, hle⟩ <;> rw [hres]
        · refine ⟨List.mem_append_left _ hmem, hr, fun w hw hn => ?_⟩
          rcases List.mem_append.mp hw with hw | hw
          · exact hbest w hw hn
          · rw [List.mem_singleton.mp hw]
            exact hle
        · refine ⟨List.mem_append_right _ (List.mem_singleton_self y), hy, fun w hw hn => ?_⟩
          rcases List.mem_append.mp hw with hw | hw
          · exact (hbest w hw hn).trans hle
          · rw [List.mem_singleton.mp hw]
    · obtain ⟨w, hw, hn⟩ := hnum
      rw [hall w (List.mem_append_left _ hw)] at hn
      cases hn
  · have hall : ∀ w ∈ ws, num w = false := fun w hw => Bool.eq_false_iff.mpr fun hn => hnum ⟨w, hw, hn⟩
    obtain rfl := h.2 hall
    have hc : num r = false := by
      rcases hop.none with hc | hc
      · exact hc
      · obtain ⟨w, hw⟩ := List.exists_mem_of_ne_nil ws hws
        exact absurd ⟨w, hw, hc w⟩ hnum
    refine ⟨?_, fun hall' => hop.neither r y hc (hall' y (List.mem_append_right _ (List.mem_singleton_self y)))⟩
    rintro ⟨w, hw, hn⟩
    rcases List.mem_append.mp hw with hw | hw
    · exact absurd ⟨w, hw, hn⟩ hnum
    · obtain rfl := List.mem_singleton.mp hw
      rw [hop.right r w hc hn]
      refine ⟨List.mem_append_right _ (List.mem_singleton_self w), hn, fun v hv hvn => ?_⟩
      rcases List.mem_append.mp hv with hv | hv
      · exact absurd ⟨v, hv, hvn⟩ hnum
      · rw [List.mem_singleton.mp hv]

theorem Better.foldl (xs : List Lane32) {ws : List Lane32} {r : Lane32} (hws : ws ≠ []) (h : BestOf num key c ws r) :
    BestOf num key c (ws ++ xs) (xs.foldl op r) := by
  induction xs generalizing ws r with
  | nil => rwa [List.append_nil]
  | cons y xs ih =>
    rw [List.foldl_cons, show ws ++ y :: xs = (ws ++ [y]) ++ xs by simp]
    exact ih (by simp) (hop.snoc hws h y)

end

theorem better_fmax : Better (fun w => !nanF32 w) keyF32 0x7FC00000 (fminmax true false) where
  none := .inl (by decide)
  both a b ha hb := by
    have ha : nanF32 a = false := by simpa using ha
    have hb : nanF32 b = false := by simpa using hb
    have hop : fminmax true false a b = if keyF32 a < keyF32 b then b else a := by
      unfold fminmax
      simp [flushF32, ha, hb]
    rw [hop]
    split
    · exact .inr ⟨rfl, by omega⟩
    · exact .inl ⟨rfl, by omega⟩
  left a b ha hb := by unfold fminmax; simp_all [flushF32]
  right a b ha hb := by unfold fminmax; simp_all [flushF32]
  neither a b ha hb := by unfold fminmax; simp_all [flushF32]

theorem better_imax : Better (fun _ => true) BitVec.toInt 0x7FC00000 (fun a b : Lane32 => if a.toInt < b.toInt then b else a) where
  none := .inr fun _ => rfl
  both a b _ _ := by
    split
    · exact .inr ⟨rfl, by omega⟩
    · exact .inl ⟨rfl, by omega⟩
  left _ _ _ h := by cases h
  right _ _ h _ := by cases h
  neither _ _ h _ := by cases h

/-- The maximum of words of a block's type is the greatest of R206. -/
theorem greatestOf_maxWords (isInt : Bool) (ws : List Lane32) : GreatestOf isInt ws ((maxWords isInt ws).getD (leastOf isInt)) := by
  unfold GreatestOf
  intro num below
  cases ws with
  | nil =>
    refine ⟨fun _ => rfl, ?_, fun h => absurd rfl h⟩
    rintro ⟨w, hw, -⟩
    cases hw
  | cons x xs =>
    cases isInt with
    | true =>
      obtain ⟨hbest, -⟩ := better_imax.foldl xs (List.cons_ne_nil x []) (better_imax.single x)
      obtain ⟨hmem, -, hle⟩ := hbest ⟨x, by simp, rfl⟩
      refine ⟨fun h => (by cases h), fun _ => ⟨hmem, Or.inl rfl, fun w hw _ hlt => ?_⟩, fun _ hall => absurd (Or.inl rfl) (hall x (by simp))⟩
      exact absurd hlt (not_lt.mpr (hle w hw rfl))
    | false =>
      have hnum (w : Lane32) : num w ↔ (!nanF32 w) = true := by
        show false = true ∨ (decodeNum .fp32 w.toNat).isNan = false ↔ _
        rw [decodeNum_fp32_nan]
        simp
      obtain ⟨hbest, hnone⟩ := better_fmax.foldl xs (List.cons_ne_nil x []) (better_fmax.single x)
      refine ⟨fun h => (by cases h), ?_, fun _ hall => ?_⟩
      · rintro ⟨w, hw, hn⟩
        obtain ⟨hmem, hr, hle⟩ := hbest ⟨w, hw, (hnum w).mp hn⟩
        refine ⟨hmem, (hnum _).mpr hr, fun v hv hvn hlt => ?_⟩
        have hkey := hle v hv ((hnum v).mp hvn)
        have hrn : nanF32 (xs.foldl (fminmax true false) (fminmax true false x x)) = false := by simpa using hr
        have := xLt_key hrn (by simpa using (hnum v).mp hvn) hlt
        exact absurd this (not_lt.mpr hkey)
      · exact hnone fun w hw => Bool.eq_false_iff.mpr fun hn => hall w hw ((hnum w).mpr hn)

/-! ## Accumulator words (R213 to R215) -/

/-- One vector result a lane, of long latency. -/
theorem Team.wroteLong_map (t : Team) (h : Hdr) (n : Nat) (g : Nat → Lane32) :
    t.WroteLong (t.writeLong ((t.act h).map fun L => Part.ofVal (.v n) L ((g L).setWidth 64))) ((t.act h).map fun L => (.v n, L,
      (g L).setWidth 64)) := by
  have hw := t.wroteLong_lanes h (fun L => [(RegId.v n, (g L).setWidth 64)])
    (fun L _ w hw => by rw [List.mem_singleton.mp hw]; exact Part.val_ofVal_v _ _ _) fun L _ => by simp
  simpa only [List.map_cons, List.map_nil, List.flatMap_singleton', List.flatMap_pure_eq_map, ← List.map_eq_flatMap] using hw

theorem writeLong_endsLong (X : State) {tk : Nat} {t : Team} (hs : t.stepping = none) (ps : List Part) {ws : List (RegId × Nat × Word)}
    (hw : t.WroteLong (t.writeLong ps) ws) (z : Bool) : EndsLong (.next ((Act.retire (X.setTeam tk (t.writeLong ps))).finish tk z)) X tk t ws :=
  endsLong_retire (u := t.writeLong ps) (State.team_setTeam _ _ _) hs (fun _ => State.setTeam_setTeam _ _ _ _) (t.kept_writeLong ps) ⟨rfl, rfl⟩ hw

/-- A word that stops lanes outside a region freezes the team with their causes (R38). -/
theorem freeze_closed {s : State} {t : Team} (ht : s.team s.cur = some t) (htry : t.tryR = none) (cs : List (Nat × Option Cause × Word)) (sub field : Nat)
    (z : Bool) : (Act.freeze s cs sub field).finish s.cur z = s.freeze s.cur (t.record cs sub field) := by
  simp only [Act.finish, ht, htry, Option.isSome_none, Bool.false_and, Bool.false_eq_true, if_false]

section
variable {h : Hdr} {f : SF} {s : State} {t : Team} {x : Share} {m : Stream} {b : Block}

theorem State.accOf_eq (hx : s.share t.share = some x) (hm : x.stream = some m) (hb : m.blocks[f.id.toNat]? = some b) : s.accOf t f = b := by
  unfold State.accOf State.stream
  rw [hx, Option.bind_some, hm, Option.bind_some, hb, Option.getD_some]

theorem State.updAcc_eq (hx : s.share t.share = some x) (hm : x.stream = some m) (hb : m.blocks[f.id.toNat]? = some b) (g : Block → Block) :
    s.updAcc t f g = s.setShare t.share { x with stream := some { m with blocks := m.blocks.set f.id.toNat (g b) } } := by
  unfold State.updAcc State.updStream
  rw [State.updShare_some hx, hm, Option.map_some, List.modify_eq_set_getElem?, hb]
  rfl

/-- A range of accumulator rows that a word's lanes name passes, or stops the lanes whose row is too high. -/
theorem accChecked_go {step : Nat → Nat} (hin : ∀ L ∈ t.act h, (t.rs f.s1.toNat).toNat % 65536 + step L < 128) (go : List Nat → Act) :
    accChecked h f step s t go = go (t.act h) := by
  unfold accChecked
  dsimp only
  rw [if_neg]
  rw [List.any_eq_true]
  rintro ⟨L, hL, hrow⟩
  exact absurd (hin L hL) (not_lt.mpr (of_decide_eq_true hrow))

theorem accChecked_stops {i : Instr} {step : Nat → Nat} {go : List Nat → Act} (hi : s.Issues t i h) (htry : t.tryR = none)
    (hout : ∃ L ∈ t.act h, 128 ≤ (t.rs f.s1.toNat).toNat % 65536 + step L) :
    (accChecked h f step s t go).finish s.cur h.z = s.freeze s.cur (t.record ((t.act h).map fun L =>
      (L, (if 128 ≤ (t.rs f.s1.toNat).toNat % 65536 + step L then some .bounds else none), 0)) 0 0) := by
  unfold accChecked
  dsimp only
  rw [if_pos]
  · exact freeze_closed hi.1 htry _ _ _ _
  · rw [List.any_eq_true]
    obtain ⟨L, hL, hrow⟩ := hout
    exact ⟨L, hL, decide_eq_true hrow⟩

/-- Writes of a run of changes to places of their own. -/
theorem getD_foldl_place {α : Type} (l : List α) (place : α → Nat) (g : Lane32 → α → Lane32) (m : List (Nat × Lane32)) (hnd : l.Nodup)
    (hinj : ∀ a ∈ l, ∀ b ∈ l, place a = place b → a = b) :
    let es := l.foldl (fun m a => setD 0 m (place a) (g (getD 0 m (place a)) a)) m
    (∀ a ∈ l, getD 0 es (place a) = g (getD 0 m (place a)) a) ∧ ∀ k, (∀ a ∈ l, k ≠ place a) → getD 0 es k = getD 0 m k := by
  induction l generalizing m with
  | nil => exact ⟨fun a ha => (by cases ha), fun _ _ => rfl⟩
  | cons a l ih =>
    obtain ⟨ha, hl⟩ := List.nodup_cons.mp hnd
    obtain ⟨hin, hout⟩ := ih (setD 0 m (place a) (g (getD 0 m (place a)) a)) hl
      fun b hb c hc => hinj b (List.mem_cons_of_mem _ hb) c (List.mem_cons_of_mem _ hc)
    have hother (b : α) (hb : b ∈ l) : place a ≠ place b := fun he =>
      ha (hinj a List.mem_cons_self b (List.mem_cons_of_mem _ hb) he ▸ hb)
    intro es
    have hes : es = l.foldl (fun m a => setD 0 m (place a) (g (getD 0 m (place a)) a)) (setD 0 m (place a) (g (getD 0 m (place a)) a)) := rfl
    rw [hes]
    constructor
    · intro b hb
      rcases List.mem_cons.mp hb with rfl | hb
      · rw [hout _ hother, getD_setD, if_pos rfl]
      · rw [hin b hb, getD_setD, if_neg (Ne.symm (hother b hb))]
    · intro k hk
      rw [hout k fun b hb => hk b (List.mem_cons_of_mem _ hb), getD_setD, if_neg (hk a List.mem_cons_self)]

theorem accPlace_inj (t : Team) (f : SF) (a b : Nat) (hab : accPlace t f a = accPlace t f b) : a = b := by
  unfold accPlace accRow accStep at hab
  omega

theorem Team.nodup_act (t : Team) (h : Hdr) : (t.act h).Nodup := List.nodup_range.filter _

theorem readF32_plain (y : Lane32) : readF32 false y = decodeNum .fp32 y.toNat := by
  unfold readF32
  cases decodeNum .fp32 y.toNat <;> rfl

end

/-- Settles O33. -/
theorem accumulatorAccess : Obligations.AccumulatorAccess := by
  unfold Obligations.AccumulatorAccess
  intro h f s t x m b row0 place inRange changed hx hm hb stops
  have hacc : s.accOf t f = b := State.accOf_eq hx hm hb
  have hupd (g : Block → Block) : s.updAcc t f g = changed (g b) := State.updAcc_eq hx hm hb g
  have hteam (b' : Block) (ht : s.team s.cur = some t) : (changed b').team s.cur = some t := ht
  have hout (step : Nat → Nat) (hno : ¬∀ L ∈ t.act h, row0 + step L < 128) : ∃ L ∈ t.act h, 128 ≤ row0 + step L := by
    push Not at hno
    exact hno
  refine ⟨fun hi => ⟨fun hin => ?_, fun hno htry => ?_⟩, fun hi hno htry => ?_, fun hi hint hno htry => ?_, fun hi hno htry => ?_, fun hi => ?_,
    fun hi hin => ?_, fun hi => ⟨fun hint hact => ?_, fun hint hin => ?_⟩, fun hi hin => ?_⟩
  case refine_1 =>
    show EndsLong (execAccrd h f s) _ _ _ _
    unfold execAccrd
    rw [issue_next hi]
    dsimp only
    rw [accChecked_go (step := accStep) hin, hacc]
    exact writeLong_endsLong s hi.2.2.2.2 _ (t.wroteLong_map h f.v.toNat fun L => getD 0 b.elems (place L)) h.z
  case refine_2 =>
    show execAccrd h f s = _
    unfold execAccrd
    rw [issue_next hi]
    exact congrArg _ (accChecked_stops (step := accStep) hi htry (hout accStep hno))
  case refine_3 =>
    show execAccwr h f s = _
    unfold execAccwr
    rw [issue_next hi]
    exact congrArg _ (accChecked_stops (step := accStep) hi htry (hout accStep hno))
  case refine_4 =>
    show execAccrs h f s = _
    unfold execAccrs
    rw [issue_next hi]
    rw [hacc, if_neg (by simp [hint])]
    exact congrArg _ (accChecked_stops (step := accStep) hi htry (hout accStep hno))
  case refine_5 =>
    show execAccmax h f s = _
    unfold execAccmax
    rw [issue_next hi]
    exact congrArg _ (accChecked_stops (step := id) hi htry hno)
  case refine_6 =>
    show EndsLong (execAccrdStat h f s) _ _ _ _
    unfold execAccrdStat
    rw [once_next hi]
    dsimp only
    rw [hacc]
    have hcode : ((if b.isInt then 1 else 0) + if b.sat then 2 else 0) = b.isInt.toNat + 2 * b.sat.toNat := by
      cases b.isInt <;> cases b.sat <;> rfl
    rw [hcode]
    split
    · rw [State.updAcc_eq (s := s.setTeam s.cur _) hx hm hb]
      exact longS_endsLong (changed { b with sat := false }) hi.1.2.2.2.2 _ _ h.z
    · exact longS_endsLong s hi.1.2.2.2.2 _ _ h.z
  case refine_7 =>
    obtain ⟨hsame, hother⟩ := getD_foldl_place (t.act h) (accPlace t f) (fun _ L => t.rv f.v.toNat L) b.elems (t.nodup_act h)
      fun a _ b _ => accPlace_inj t f a b
    refine ⟨_, ?_, hsame, hother⟩
    show Ends (execAccwr h f s) _ _ _ _
    unfold execAccwr
    rw [issue_next hi]
    rw [accChecked_go (step := accStep) hin, hupd]
    exact retire_ends_in (hteam _ hi.1) hi.2.2.2.2 h.z
  case refine_8 =>
    show Freezes (execAccrs h f s) _ _ _ _ _
    unfold execAccrs
    rw [issue_next hi]
    rw [hacc, hint, if_pos (by simpa using hact)]
    exact fault_freezes hi 0x15 (.inr rfl)
  case refine_9 =>
    obtain ⟨hsame, hother⟩ := getD_foldl_place (t.act h) (accPlace t f)
      (fun y L => (round .fp32 .rne false false ((readF32 false y).mul (readF32 false (t.rv f.v.toNat L)))).enc) b.elems (t.nodup_act h)
      fun a _ b _ => accPlace_inj t f a b
    refine ⟨_, ?_, fun L hL => ⟨_, ?_, hsame L hL⟩, hother⟩
    · show Ends (execAccrs h f s) _ _ _ _
      unfold execAccrs
      rw [issue_next hi]
      dsimp only
      rw [hacc, if_neg (by simp [hint]), accChecked_go (step := accStep) hin, hupd]
      exact retire_ends_in (hteam _ hi.1) hi.2.2.2.2 h.z
    · rw [readF32_plain, readF32_plain]
      exact productOf_mul _ _
  case refine_10 =>
    intro sel
    refine ⟨fun L => (maxWords b.isInt (sel L)).getD (leastOf b.isInt), fun L _ => greatestOf_maxWords b.isInt (sel L), ?_⟩
    show EndsLong (execAccmax h f s) _ _ _ _
    unfold execAccmax
    rw [issue_next hi]
    dsimp only
    rw [accChecked_go (step := id) hin, hacc]
    exact writeLong_endsLong s hi.2.2.2.2 _ (t.wroteLong_map h f.v.toNat fun L => (maxWords b.isInt (sel L)).getD (leastOf b.isInt)) h.z

end Sys2Proof.Machine

/-! PROOFS. Press words: how they end, what they write, and loads and stores of blocks (O36). -/

namespace Sys2Proof.Machine

open Host

/-! ## How a press word ends -/

section
variable {s : State} {x : Share} {m : Stream} {core : Nat} {f : PF} {uses : Bool}

/-- What a press word that its stream issues answers. -/
theorem press_next (hp : s.Presses x m core f uses) (body : State → PCtx → POut) :
    press f uses body s = match body s ⟨s.cur, x, m, core⟩ with
      | .go s1 spc => .next ((s1.updStream s1.cur fun m => { m with spc := spc }).updCore core fun k =>
          { k with issued := put k.issued x.grid (getD 0 k.issued x.grid + 1) })
      | .stop c sub => .next (s.haltStream s.cur c sub)
      | .stay s1 => .next s1 := by
  obtain ⟨hx, hm, hc, hrun, hacc⟩ := hp
  have hblock : (uses && decide (m.blocks.length ≤ f.acc.toNat)) = false := by
    cases uses with
    | false => rfl
    | true => exact decide_eq_false (Nat.not_le.mpr (hacc rfl))
  unfold press
  cases hb : body s ⟨s.cur, x, m, core⟩ <;> simp only [hx, hm, hc, hrun, hblock, hb, bne_self_eq_false, Bool.false_eq_true, if_false]

/-- A press word that goes on. -/
theorem press_go (hp : s.Presses x m core f uses) {body : State → PCtx → POut} {s1 : State} {spc : Word}
    (hb : body s ⟨s.cur, x, m, core⟩ = .go s1 spc) (hcur : s1.cur = s.cur) : PressEnds (press f uses body s) s1 s.cur x core spc := by
  rw [press_next hp, hb]
  exact hcur ▸ rfl

/-- A press word that is refused. -/
theorem press_stop (hp : s.Presses x m core f uses) {body : State → PCtx → POut} {c : Cause} {sub : Nat}
    (hb : body s ⟨s.cur, x, m, core⟩ = .stop c sub) : press f uses body s = .next (s.haltStream s.cur c sub) := by
  rw [press_next hp, hb]

/-- A press word that has not started. -/
theorem press_stay (hp : s.Presses x m core f uses) {body : State → PCtx → POut} {s1 : State}
    (hb : body s ⟨s.cur, x, m, core⟩ = .stay s1) : press f uses body s = .next s1 := by
  rw [press_next hp, hb]

theorem PCtx.room_iff (c : PCtx) (off n : Nat) : c.room off n = true ↔ n = 0 ∨ off + n ≤ c.x.spbytes := by
  unfold PCtx.room
  rw [Bool.or_eq_true, beq_iff_eq, decide_eq_true_iff]

theorem PCtx.block_eq {b : Block} (c : PCtx) (hb : c.m.blocks[f.acc.toNat]? = some b) : c.block f = b := by
  unfold PCtx.block
  rw [List.getD_eq_getElem?_getD, hb, Option.getD_some]

end

/-! ## Selected elements (R198) -/

/-- The selected rows and columns, row by row. -/
def selPairs (f : PF) : List (Nat × Nat) := (selRows f).flatMap fun i => (selCols f).map fun j => (i, j)

theorem mem_selRows (f : PF) (i : Nat) : i ∈ selRows f ↔ i < 128 ∧ f.mmask.getLsbD (i / 16) = true := by
  unfold selRows
  rw [List.mem_filter, List.mem_range]

theorem mem_selCols (f : PF) (j : Nat) : j ∈ selCols f ↔ j < 128 ∧ f.nmask.getLsbD (j / 16) = true := by
  unfold selCols
  rw [List.mem_filter, List.mem_range]

theorem mem_selPairs (f : PF) (i j : Nat) : (i, j) ∈ selPairs f ↔ selects f i j := by
  unfold selPairs selects
  simp only [List.mem_flatMap, List.mem_map, Prod.mk.injEq, mem_selRows, mem_selCols]
  constructor
  · rintro ⟨i', ⟨hi, hmi⟩, j', ⟨hj, hmj⟩, rfl, rfl⟩
    exact ⟨hi, hj, hmi, hmj⟩
  · rintro ⟨hi, hj, hmi, hmj⟩
    exact ⟨i, ⟨hi, hmi⟩, j, ⟨hj, hmj⟩, rfl, rfl⟩

theorem nodup_selRows (f : PF) : (selRows f).Nodup := List.nodup_range.filter _
theorem nodup_selCols (f : PF) : (selCols f).Nodup := List.nodup_range.filter _

theorem nodup_selPairs (f : PF) : (selPairs f).Nodup := by
  unfold selPairs
  rw [List.nodup_flatMap]
  refine ⟨fun i _ => (nodup_selCols f).map fun a b hab => (Prod.mk.inj hab).2, (nodup_selRows f).imp fun {a b} hab => ?_⟩
  intro p hp hp'
  obtain ⟨j, -, rfl⟩ := List.mem_map.mp hp
  obtain ⟨j', -, hj'⟩ := List.mem_map.mp hp'
  exact hab (Prod.mk.inj hj').1.symm

/-- A run over the selected rows and their columns is one over the selected elements. -/
theorem foldl_selPairs {β : Type} (f : PF) (g : β → Nat → Nat → β) (b : β) :
    (selRows f).foldl (fun b i => (selCols f).foldl (fun b j => g b i j) b) b = (selPairs f).foldl (fun b p => g b p.1 p.2) b := by
  unfold selPairs
  rw [List.foldl_flatMap]
  simp only [List.foldl_map]

/-- What a change of every selected element leaves of a block. -/
theorem Block.at_modify (b : Block) (f : PF) (g : Nat → Nat → Lane32 → Lane32) {i j : Nat} (hj : j < 128) :
    (selects f i j → (b.modify (selRows f) (selCols f) g).at_ i j = g i j (b.at_ i j)) ∧
      (¬selects f i j → (b.modify (selRows f) (selCols f) g).at_ i j = b.at_ i j) := by
  have hinj : ∀ p ∈ selPairs f, ∀ q ∈ selPairs f, 128 * p.1 + p.2 = 128 * q.1 + q.2 → p = q := by
    rintro ⟨i, j⟩ hp ⟨k, l⟩ hq he
    obtain ⟨-, hj, -⟩ := (mem_selPairs f i j).mp hp
    obtain ⟨-, hl, -⟩ := (mem_selPairs f k l).mp hq
    have he : 128 * i + j = 128 * k + l := he
    exact Prod.ext (by show i = k; omega) (by show j = l; omega)
  obtain ⟨hin, hout⟩ := getD_foldl_place (selPairs f) (fun p => 128 * p.1 + p.2) (fun y p => g p.1 p.2 y) b.elems (nodup_selPairs f) hinj
  have helems : (b.modify (selRows f) (selCols f) g).elems =
      (selPairs f).foldl (fun m p => setD 0 m (128 * p.1 + p.2) (g p.1 p.2 (getD 0 m (128 * p.1 + p.2)))) b.elems :=
    foldl_selPairs f (fun m i j => setD 0 m (128 * i + j) (g i j (getD 0 m (128 * i + j)))) b.elems
  unfold Block.at_
  rw [helems]
  refine ⟨fun hs => hin (i, j) ((mem_selPairs f i j).mpr hs), fun hs => hout _ ?_⟩
  rintro ⟨k, l⟩ hp he
  have hkl := (mem_selPairs f k l).mp hp
  have he : 128 * i + j = 128 * k + l := he
  have hl : l < 128 := hkl.2.1
  obtain rfl : i = k := by omega
  obtain rfl : j = l := by omega
  exact hs hkl

/-! ## Writes of the press to its share's scratchpad -/

/-- A bit of scratchpad. -/
def State.spBit (s : State) (sh off k : Nat) : Bool := (s.spByte sh off).getLsbD k

/-- X differs from s in one share's scratchpad, and in the footprints that note the writes (R172). -/
def State.Beside (s X : State) (sh : Nat) : Prop :=
  X = { s with shares := X.shares, teams := X.teams } ∧ (∀ q, q ≠ sh → X.share q = s.share q) ∧
    (X.share sh).map (fun y => { y with sp := [] }) = (s.share sh).map (fun y => { y with sp := [] }) ∧
    ∀ tk, (X.team tk).map Team.unfooted = (s.team tk).map Team.unfooted

theorem State.Beside.refl (s : State) (sh : Nat) : s.Beside s sh := ⟨rfl, fun _ _ => rfl, rfl, fun _ => rfl⟩

theorem State.Beside.trans {a b c : State} {sh : Nat} (hb : a.Beside b sh) (hc : b.Beside c sh) : a.Beside c sh := by
  obtain ⟨b1, b2, b3, b4⟩ := hb
  obtain ⟨c1, c2, c3, c4⟩ := hc
  refine ⟨?_, fun q hq => (c2 q hq).trans (b2 q hq), c3.trans b3, fun tk => (c4 tk).trans (b4 tk)⟩
  rw [b1] at c1
  exact c1

theorem State.Beside.isSome {s X : State} {sh : Nat} (h : s.Beside X sh) (hx : (s.share sh).isSome) : (X.share sh).isSome := by
  have := congrArg Option.isSome h.2.2.1
  rwa [Option.isSome_map, Option.isSome_map, hx] at this

theorem Team.unfooted_noted (t : Team) (ls : List Loc) : (t.noted ls).unfooted = t.unfooted := by
  unfold Team.noted Team.unfooted
  cases t.tryR <;> rfl

theorem State.beside_pressWrite (s : State) (sh off : Nat) (bs : List Byte) : s.Beside (s.pressWrite sh off bs) sh := by
  refine ⟨?_, fun q hq => ?_, ?_, fun tk => ?_⟩
  · unfold State.pressWrite State.setSpBytes State.updShare
    split <;> rfl
  · show (s.setSpBytes sh off bs).share q = _
    unfold State.setSpBytes State.updShare
    split
    · exact State.share_setShare_other s _ hq
    · rfl
  · show ((s.setSpBytes sh off bs).share sh).map _ = _
    unfold State.setSpBytes State.updShare
    split
    · next x hx => rw [State.share_setShare, hx]; rfl
    · rfl
  · unfold State.pressWrite
    rw [State.team_noteWrite, Option.map_map]
    have hteam : (s.setSpBytes sh off bs).team tk = s.team tk := by
      unfold State.setSpBytes State.updShare
      split <;> rfl
    rw [hteam]
    cases s.team tk with
    | none => rfl
    | some t =>
      show some (Team.unfooted (if _ then t else t.noted _)) = some t.unfooted
      split
      · rfl
      · rw [Team.unfooted_noted]

theorem State.spByte_pressWrite {s : State} {sh : Nat} (hx : (s.share sh).isSome) (off : Nat) (bs : List Byte) (o : Nat) :
    (s.pressWrite sh off bs).spByte sh o = if off ≤ o ∧ o < off + bs.length then bs.getD (o - off) 0 else s.spByte sh o := by
  show (s.setSpBytes sh off bs).spByte sh o = _
  rw [spByte_setSpBytes s sh off bs sh o hx]
  simp only [true_and]

/-- A run of steps that each write bits of their own, whatever they read there, writes the bits of all of them. -/
theorem cells_foldl {α : Type} {s : State} {sh : Nat} (hx : (s.share sh).isSome) (step : State → α → State) (cell : α → Nat → Nat → Prop)
    (val : α → Nat → Nat → Bool) (l : List α)
    (hstep : ∀ X, ∀ a ∈ l, s.Beside X sh → (X.share sh).isSome → (∀ off k, k < 8 → cell a off k → X.spBit sh off k = s.spBit sh off k) →
      X.Beside (step X a) sh ∧ ∀ off k, k < 8 → (cell a off k → (step X a).spBit sh off k = val a off k) ∧
        (¬cell a off k → (step X a).spBit sh off k = X.spBit sh off k))
    (hdisj : l.Pairwise fun a b => ∀ off k, k < 8 → cell a off k → ¬cell b off k) :
    s.Beside (l.foldl step s) sh ∧ (∀ a ∈ l, ∀ off k, k < 8 → cell a off k → (l.foldl step s).spBit sh off k = val a off k) ∧
      ∀ off k, k < 8 → (∀ a ∈ l, ¬cell a off k) → (l.foldl step s).spBit sh off k = s.spBit sh off k := by
  induction l using List.reverseRecOn with
  | nil => exact ⟨.refl s sh, fun a ha => (by cases ha), fun _ _ _ _ => rfl⟩
  | append_singleton l a ih =>
    rw [List.pairwise_append] at hdisj
    obtain ⟨hl, -, hla⟩ := hdisj
    have hla (b : α) (hb : b ∈ l) (off k : Nat) (hk : k < 8) (hc : cell b off k) : ¬cell a off k := hla b hb a (List.mem_singleton_self a) off k hk hc
    obtain ⟨hbeside, hin, hout⟩ := ih (fun X b hb => hstep X b (List.mem_append_left _ hb)) hl
    rw [List.foldl_append, List.foldl_cons, List.foldl_nil]
    obtain ⟨hbeside', hval⟩ := hstep (l.foldl step s) a (List.mem_append_right _ (List.mem_singleton_self a)) hbeside (hbeside.isSome hx)
      fun off k hk hc => hout off k hk fun b hb hcb => hla b hb off k hk hcb hc
    refine ⟨hbeside.trans hbeside', fun b hb off k hk hc => ?_, fun off k hk hno => ?_⟩
    · rcases List.mem_append.mp hb with hb | hb
      · rw [(hval off k hk).2 (hla b hb off k hk hc), hin b hb off k hk hc]
      · rw [List.mem_singleton.mp hb] at hc ⊢
        exact (hval off k hk).1 hc
    · rw [(hval off k hk).2 (hno a (List.mem_append_right _ (List.mem_singleton_self a))),
      hout off k hk fun b hb => hno b (List.mem_append_left _ hb)]

/-- What a run of the press's writes leaves, as the statements say it. -/
theorem State.Beside.pressStores {s X : State} {sh : Nat} (h : s.Beside X sh) (touched : Nat → Prop) [DecidablePred touched]
    (hno : ∀ off, ¬touched off → X.spByte sh off = s.spByte sh off) :
    s.PressStores X sh fun off => if touched off then some (X.spByte sh off) else none := by
  obtain ⟨h1, h2, h3, h4⟩ := h
  refine ⟨h1, h2, h3, fun off => ?_, h4⟩
  by_cases ht : touched off
  · show _ = (if touched off then some (X.spByte sh off) else none).getD _
    rw [if_pos ht]
    rfl
  · show _ = (if touched off then some (X.spByte sh off) else none).getD _
    rw [if_neg ht, hno off ht]
    rfl

theorem spByte_of_bits {s X : State} {sh off off' : Nat} (h : ∀ k < 8, X.spBit sh off k = s.spBit sh off' k) : X.spByte sh off = s.spByte sh off' :=
  BitVec.eq_of_getLsbD_eq h

/-- A byte of a number's little-endian bytes, bit by bit. -/
theorem getLsbD_bytesOf (n v i k : Nat) (hi : i < n) (hk : k < 8) : ((bytesOf n v).getD i 0).getLsbD k = v.testBit (8 * i + k) := by
  induction n generalizing v i with
  | zero => omega
  | succ n ih =>
    cases i with
    | zero =>
      show (BitVec.ofNat 8 v).getLsbD k = _
      rw [BitVec.getLsbD_ofNat, decide_eq_true hk, Bool.true_and, Nat.mul_zero, Nat.zero_add]
    | succ i =>
      show ((bytesOf n (v / 256)).getD i 0).getLsbD k = _
      rw [ih _ _ (by omega), show (256 : Nat) = 2 ^ 8 from rfl, Nat.testBit_div_two_pow]
      congr 1
      omega

/-- A write of some little-endian bytes, bit by bit. -/
theorem State.spBit_pressWrite {s : State} {sh : Nat} (hx : (s.share sh).isSome) (p n v : Nat) (off k : Nat) (hk : k < 8) :
    (p ≤ off ∧ off < p + n → (s.pressWrite sh p (bytesOf n v)).spBit sh off k = v.testBit (8 * (off - p) + k)) ∧
      (¬(p ≤ off ∧ off < p + n) → (s.pressWrite sh p (bytesOf n v)).spBit sh off k = s.spBit sh off k) := by
  unfold State.spBit
  rw [State.spByte_pressWrite hx, length_bytesOf]
  refine ⟨fun h => ?_, fun h => by rw [if_neg h]⟩
  rw [if_pos h, getLsbD_bytesOf _ _ _ _ (by omega) hk]

/-- A run of writes of words of their own, each of a value that may rest on the word's old one, as the statements say it. -/
theorem words_foldl {α : Type} {s : State} {sh : Nat} (hx : (s.share sh).isSome) (step : State → α → State) (place : α → Nat) (v : α → Lane32)
    (l : List α)
    (hstep : ∀ X, ∀ a ∈ l, s.Beside X sh → (∀ k < 4, X.spByte sh (place a + k) = s.spByte sh (place a + k)) →
      step X a = X.pressWrite sh (place a) (bytesOf 4 (v a).toNat))
    (hdisj : l.Pairwise fun a b => place a + 4 ≤ place b ∨ place b + 4 ≤ place a) :
    s.Beside (l.foldl step s) sh ∧ ∃ w, s.PressStores (l.foldl step s) sh w ∧
      (∀ a ∈ l, ∀ k < 4, w (place a + k) = some ((v a).extractLsb' (8 * k) 8)) ∧
      ∀ off, (∀ a ∈ l, ∀ k < 4, off ≠ place a + k) → w off = none := by
  obtain ⟨hbeside, hin, hout⟩ := cells_foldl hx step (fun a off _ => place a ≤ off ∧ off < place a + 4)
    (fun a off k => (v a).toNat.testBit (8 * (off - place a) + k)) l
    (fun X a ha hb hX hown => by
      rw [hstep X a ha hb fun k hk => spByte_of_bits fun j hj => hown _ j hj ⟨by omega, by omega⟩]
      exact ⟨State.beside_pressWrite _ _ _ _, fun off k hk => State.spBit_pressWrite hX _ _ _ _ _ hk⟩)
    (hdisj.imp fun {a b} hab off k _ hca hcb => by omega)
  have hbyte (a : α) (ha : a ∈ l) (k : Nat) (hk : k < 4) : (l.foldl step s).spByte sh (place a + k) = (v a).extractLsb' (8 * k) 8 := by
    apply BitVec.eq_of_getLsbD_eq
    intro j hj
    rw [BitVec.getLsbD_extractLsb', decide_eq_true hj, Bool.true_and, BitVec.getLsbD]
    have := hin a ha (place a + k) j hj ⟨by omega, by omega⟩
    rwa [Nat.add_sub_cancel_left] at this
  classical
  refine ⟨hbeside, _, hbeside.pressStores (fun off => ∃ a ∈ l, place a ≤ off ∧ off < place a + 4) fun off hno => ?_, fun a ha k hk => ?_,
    fun off hno => if_neg ?_⟩
  · exact spByte_of_bits fun k hk => hout off k hk fun a ha hc => hno ⟨a, ha, hc⟩
  · rw [if_pos ⟨a, ha, by omega, by omega⟩, hbyte a ha k hk]
  · rintro ⟨a, ha, h1, h2⟩
    exact hno a ha (off - place a) (by omega) (by omega)

/-- The places of two different selected elements, s bytes an element. -/
theorem pairwise_selPairs (f : PF) (base : Nat) :
    (selPairs f).Pairwise fun a b => base + 4 * (128 * a.1 + a.2) + 4 ≤ base + 4 * (128 * b.1 + b.2) ∨
      base + 4 * (128 * b.1 + b.2) + 4 ≤ base + 4 * (128 * a.1 + a.2) := by
  refine (nodup_selPairs f).imp_of_mem fun {a b} ha hb hab => ?_
  obtain ⟨i, j⟩ := a
  obtain ⟨k, l⟩ := b
  obtain ⟨-, hj, -⟩ := (mem_selPairs f i j).mp ha
  obtain ⟨-, hl, -⟩ := (mem_selPairs f k l).mp hb
  have hne : ¬(i = k ∧ j = l) := fun h => hab (Prod.ext h.1 h.2)
  dsimp only
  omega

theorem Block.val_eq (b : Block) (i j : Nat) :
    b.val i j = if b.isInt then XVal.ofInt (b.at_ i j).toInt else decodeNum .fp32 (b.at_ i j).toNat := by
  unfold Block.val
  rw [readF32_plain]

/-! ## PLOADA and PSCALE (R203, R207) -/

/-- Where every row's word lies within SPBYTES, the last row's does. -/
theorem PCtx.rowRoom_of (c : PCtx) (off : Nat) (rows : List Nat) (h : ∀ i ∈ rows, off + 4 * (i + 1) ≤ c.x.spbytes) : c.rowRoom off rows = true := by
  unfold PCtx.rowRoom
  match hl : rows.getLast? with
  | none => rfl
  | some i => exact (c.room_iff _ _).mpr (.inr (h i (List.mem_of_getLast? hl)))

/-- A change of a share's stream leaves whose turn it is. -/
theorem State.cur_updStream (s : State) (sh : Nat) (g : Stream → Stream) : (s.updStream sh g).cur = s.cur := by
  unfold State.updStream State.updShare
  split <;> rfl

theorem State.spWord_toNat (s : State) (sh off : Nat) : (s.spWord sh off).toNat = s.spNat sh off 4 := by
  unfold State.spWord
  rw [BitVec.toNat_ofNat]
  refine Nat.mod_eq_of_lt ((natOfBytes_lt _).trans_eq ?_)
  rw [List.length_map, List.length_range]
  norm_num

section
variable {s : State} {x : Share} {m : Stream} {core : Nat} {f : PF} {b : Block}

theorem ploada_ends (hp : s.Presses x m core f true) (hb : m.blocks[f.acc.toNat]? = some b) (hroom : 256 * f.offa.toNat + 65536 ≤ x.spbytes) :
    ∃ es, PressEnds (exec (.ploada f) s) (s.withBlock f { b with elems := es }) s.cur x core (m.spc + 8) ∧
      ∀ i j, i < 128 → j < 128 →
        (selects f i j → (getD 0 es (128 * i + j)).toNat = s.spNat s.cur (256 * f.offa.toNat + 4 * (128 * i + j)) 4) ∧
        (¬selects f i j → getD 0 es (128 * i + j) = b.at_ i j) := by
  let g : Nat → Nat → Lane32 → Lane32 := fun i j _ => s.spWord s.cur (opOff f.offa + 4 * (128 * i + j))
  have hroom' : (⟨s.cur, x, m, core⟩ : PCtx).room (opOff f.offa) 65536 = true := (PCtx.room_iff _ _ _).mpr (.inr hroom)
  have hends : PressEnds (execPloada f s) (s.withBlock f (b.modify (selRows f) (selCols f) g)) s.cur x core (m.spc + 8) := by
    unfold execPloada
    refine press_go hp ?_ (State.cur_updStream s _ _)
    dsimp only
    rw [hroom', PCtx.block_eq _ hb]
    rfl
  refine ⟨(b.modify (selRows f) (selCols f) g).elems, hends, fun i j _ hj => ?_⟩
  obtain ⟨h1, h2⟩ := Block.at_modify b f g (i := i) hj
  refine ⟨fun hs => ?_, fun hs => h2 hs⟩
  rw [show getD 0 (b.modify (selRows f) (selCols f) g).elems (128 * i + j) = g i j (b.at_ i j) from h1 hs]
  exact State.spWord_toNat s _ _

/-- The rows whose words an instruction reads are those that a selected element stands in. -/
theorem mem_rows {i : Nat} (h : i ∈ if f.nmask = 0 then [] else selRows f) : ∃ j, selects f i j := by
  split at h
  · cases h
  · next hne =>
    obtain ⟨hi, hm⟩ := (mem_selRows f i).mp h
    obtain ⟨k, hk, hkn⟩ : ∃ k < 8, f.nmask.getLsbD k = true := by
      by_contra hno
      exact hne (BitVec.eq_of_getLsbD_eq fun k hk => by
        refine Eq.trans ?_ BitVec.getLsbD_zero.symm
        exact Bool.eq_false_iff.mpr fun hn => hno ⟨k, hk, hn⟩)
    exact ⟨16 * k, hi, by omega, hm, by rwa [Nat.mul_div_cancel_left k (by omega)]⟩

theorem pscale_ends (hp : s.Presses x m core f true) (hb : m.blocks[f.acc.toNat]? = some b) (hint : b.isInt = false)
    (hroom : ∀ i j, selects f i j → 256 * f.offa.toNat + 4 * (i + 1) ≤ x.spbytes) :
    ∃ es, PressEnds (exec (.pscale f) s) (s.withBlock f { b with elems := es }) s.cur x core (m.spc + 8) ∧
      ∀ i j, i < 128 → j < 128 → (¬selects f i j → getD 0 es (128 * i + j) = b.at_ i j) ∧
        (selects f i j → ∃ v, ProductOf (decodeNum .fp32 (b.at_ i j).toNat) (decodeNum .fp32 (s.spNat s.cur (256 * f.offa.toNat + 4 * i) 4)) v ∧
          getD 0 es (128 * i + j) = (round .fp32 .rne false false v).enc) := by
  let g : Nat → Nat → Lane32 → Lane32 := fun i _ y =>
    (round .fp32 .rne false false ((readF32 false y).mul (readF32 false (s.spWord s.cur (opOff f.offa + 4 * i))))).enc
  have hroom' : (⟨s.cur, x, m, core⟩ : PCtx).rowRoom (opOff f.offa) (if f.nmask = 0 then [] else selRows f) = true :=
    PCtx.rowRoom_of _ _ _ fun i hi => (mem_rows hi).elim fun j hj => hroom i j hj
  have hends : PressEnds (execPscale f s) (s.withBlock f (b.modify (selRows f) (selCols f) g)) s.cur x core (m.spc + 8) := by
    unfold execPscale
    refine press_go hp ?_ (State.cur_updStream s _ _)
    dsimp only
    rw [hroom', PCtx.block_eq _ hb, hint]
    rfl
  refine ⟨(b.modify (selRows f) (selCols f) g).elems, hends, fun i j _ hj => ?_⟩
  obtain ⟨h1, h2⟩ := Block.at_modify b f g (i := i) hj
  refine ⟨fun hs => h2 hs, fun hs => ⟨_, productOf_mul _ _, ?_⟩⟩
  rw [show getD 0 (b.modify (selRows f) (selCols f) g).elems (128 * i + j) = g i j (b.at_ i j) from h1 hs]
  show (round .fp32 .rne false false ((readF32 false _).mul (readF32 false _))).enc = _
  rw [readF32_plain, readF32_plain, State.spWord_toNat]
  rfl

/-! ## PTRANS (R204) -/

theorem find_foldl_transpose (es acc : List (Nat × Lane32)) (hlt : ∀ e ∈ es, e.1 < 16384) (hr : Rising es) {i j : Nat} (hi : i < 128) (hj : j < 128) :
    find (es.foldl (fun m e => put m (128 * (e.1 % 128) + e.1 / 128) e.2) acc) (128 * i + j) =
      (find es (128 * j + i)).or (find acc (128 * i + j)) := by
  induction es generalizing acc with
  | nil => rfl
  | cons e es ih =>
    obtain ⟨hne, hr⟩ := List.pairwise_cons.mp hr
    have hlt' := hlt e (List.mem_cons_self ..)
    rw [List.foldl_cons, ih _ (fun e he => hlt e (List.mem_cons_of_mem _ he)) hr, find_cons]
    by_cases he : e.1 = 128 * j + i
    · have hno : find es (128 * j + i) = none := by
        rw [← he]
        exact find_none_of_lt hne
      rw [hno, if_pos he, show 128 * (e.1 % 128) + e.1 / 128 = 128 * i + j by omega, find_put_same]
      rfl
    · rw [if_neg he, find_put_other _ _ _ (by omega)]

theorem ptrans_ends (hp : s.Presses x m core f true) (hb : m.blocks[f.acc.toNat]? = some b) (hr : Rising b.elems) (hlt : ∀ e ∈ b.elems, e.1 < 16384) :
    ∃ es, PressEnds (exec (.ptrans f) s) (s.withBlock f { b with elems := es }) s.cur x core (m.spc + 8) ∧
      ∀ i j, i < 128 → j < 128 → getD 0 es (128 * i + j) = b.at_ j i := by
  have hends : PressEnds (execPtrans f s) (s.withBlock f b.transpose) s.cur x core (m.spc + 8) := by
    unfold execPtrans
    refine press_go hp ?_ (State.cur_updStream s _ _)
    rw [PCtx.block_eq _ hb]
    rfl
  refine ⟨b.transpose.elems, hends, fun i j hi hj => ?_⟩
  show (find (b.elems.foldl _ []) _).getD 0 = (find b.elems _).getD 0
  rw [find_foldl_transpose b.elems [] hlt hr hi hj, find_nil, Option.or_none]

/-! ## PSTORE (R203) -/

theorem pstore_ends (hp : s.Presses x m core f true) (hb : m.blocks[f.acc.toNat]? = some b) (hpl : f.pfl.getLsbD 0 = false)
    (hroom : 256 * f.offb.toNat + 65536 ≤ x.spbytes) :
    ∃ X, PressEnds (exec (.pstore f) s) X s.cur x core (m.spc + 8) ∧ ∃ w, s.PressStores X s.cur w ∧
      (∀ i j k, selects f i j → k < 4 → w (256 * f.offb.toNat + 4 * (128 * i + j) + k) = some ((b.at_ i j).extractLsb' (8 * k) 8)) ∧
      ∀ off, (∀ i j k, selects f i j → k < 4 → off ≠ 256 * f.offb.toNat + 4 * (128 * i + j) + k) → w off = none := by
  let step : State → Nat × Nat → State := fun X p => X.pressWrite s.cur (opOff f.offb + 4 * (128 * p.1 + p.2)) (bytesOf 4 (b.at_ p.1 p.2).toNat)
  have hroom' : (⟨s.cur, x, m, core⟩ : PCtx).room (opOff f.offb) 65536 = true := (PCtx.room_iff _ _ _).mpr (.inr hroom)
  obtain ⟨hbeside, w, hw, hin, hout⟩ := words_foldl (Option.isSome_of_eq_some hp.1) step (fun p => opOff f.offb + 4 * (128 * p.1 + p.2))
    (fun p => b.at_ p.1 p.2) (selPairs f) (fun _ _ _ _ _ => rfl) (pairwise_selPairs f _)
  refine ⟨(selPairs f).foldl step s, ?_, w, hw, fun i j k hs hk => hin (i, j) ((mem_selPairs f i j).mpr hs) k hk, fun off hno => hout off ?_⟩
  · show PressEnds (execPstore f s) _ _ _ _ _
    unfold execPstore
    refine press_go hp ?_ (by rw [hbeside.1])
    dsimp only
    rw [hpl, hroom', PCtx.block_eq _ hb]
    exact congrArg (fun X => POut.go X (m.spc + 8)) (foldl_selPairs f (fun X i j => step X (i, j)) s)
  · rintro ⟨i, j⟩ hp k hk
    exact hno i j k ((mem_selPairs f i j).mp hp) hk

/-- The bits that an element of w bits takes in an area. -/
def elemCell (base w n off k : Nat) : Prop := 8 * base + w * n ≤ 8 * off + k ∧ 8 * off + k < 8 * base + w * (n + 1)

theorem fmtBits_cases (e : Fmt) : fmtBits e = 4 ∨ ∃ n, 0 < n ∧ fmtBits e = 8 * n ∧ fmtBits e / 8 = n := by
  cases e with
  | int4 => exact .inl rfl
  | e4m3 | e5m2 | int8 | ts8 => exact .inr ⟨1, Nat.zero_lt_succ _, rfl, rfl⟩
  | bf16 | fp16 | int16 => exact .inr ⟨2, Nat.zero_lt_succ _, rfl, rfl⟩
  | fp32 | int32 => exact .inr ⟨4, Nat.zero_lt_succ _, rfl, rfl⟩

/-- A nibble put into a byte, bit by bit. -/
theorem getLsbD_nibble (old v : Byte) (hv : v.toNat < 16) (n k : Nat) (hk : k < 8) :
    (if n % 2 = 0 then (old &&& 0xF0) ||| v else (old &&& 0x0F) ||| v <<< 4).getLsbD k =
      if k / 4 = n % 2 then v.getLsbD (k % 4) else old.getLsbD k := by
  have hhigh (j : Nat) (hj : 4 ≤ j) : v.getLsbD j = false := by
    rw [BitVec.getLsbD]
    exact Nat.testBit_lt_two_pow (hv.trans_le (Nat.pow_le_pow_right (n := 2) (by decide) hj))
  have h4 : v[4] = false := hhigh 4 (le_refl _)
  have h5 : v[5] = false := hhigh 5 (by decide)
  have h6 : v[6] = false := hhigh 6 (by decide)
  have h7 : v[7] = false := hhigh 7 (by decide)
  rcases Nat.mod_two_eq_zero_or_one n with h | h
  · rw [h, if_pos rfl]
    interval_cases k <;> simp [h4, h5, h6, h7]
  · rw [h, if_neg (by decide)]
    interval_cases k <;> simp

theorem storeElem_bits {X : State} {sh : Nat} (hX : (X.share sh).isSome) (base n : Nat) (e : Fmt) (v : Nat) :
    X.Beside (X.storeElem sh base n e v) sh ∧ ∀ off k, k < 8 →
      (elemCell base (fmtBits e) n off k → (X.storeElem sh base n e v).spBit sh off k = v.testBit (8 * off + k - (8 * base + fmtBits e * n))) ∧
      (¬elemCell base (fmtBits e) n off k → (X.storeElem sh base n e v).spBit sh off k = X.spBit sh off k) := by
  unfold State.storeElem elemCell
  rcases fmtBits_cases e with h | ⟨w, hw, h, h8⟩
  · rw [if_pos h, h]
    refine ⟨State.beside_pressWrite _ _ _ _, fun off k hk => ?_⟩
    unfold State.spBit
    rw [State.spByte_pressWrite hX, List.length_singleton]
    by_cases ho : off = base + n / 2
    · subst ho
      rw [if_pos ⟨le_refl _, Nat.lt_succ_self _⟩, Nat.sub_self]
      show (_ → BitVec.getLsbD (ite _ _ _) _ = _) ∧ (_ → BitVec.getLsbD (ite _ _ _) _ = _)
      have hlt : (BitVec.ofNat 8 (v % 16)).toNat = v % 16 := by
        rw [BitVec.toNat_ofNat]; omega
      rw [getLsbD_nibble _ _ (by omega) _ _ hk]
      refine ⟨fun hc => ?_, fun hc => if_neg (by omega)⟩
      rw [if_pos (by omega), BitVec.getLsbD, hlt, show 16 = 2 ^ 4 from rfl, Nat.testBit_mod_two_pow, decide_eq_true (by omega), Bool.true_and]
      congr 1
      omega
    · rw [if_neg (by omega)]
      exact ⟨fun hc => by omega, fun _ => rfl⟩
  · rw [if_neg (by omega), h8, h]
    refine ⟨State.beside_pressWrite _ _ _ _, fun off k hk => ?_⟩
    obtain ⟨h1, h2⟩ := State.spBit_pressWrite hX (base + w * n) w (v % 2 ^ (8 * w)) off k hk
    have hmul : 8 * w * n = 8 * (w * n) := Nat.mul_assoc 8 w n
    have hmul' : 8 * w * (n + 1) = 8 * (w * n) + 8 * w := by ring
    rw [hmul, hmul']
    refine ⟨fun hc => ?_, fun hc => h2 (by omega)⟩
    rw [h1 (by omega), Nat.testBit_mod_two_pow, decide_eq_true (by omega), Bool.true_and]
    congr 1
    omega

theorem elemCell_iff {base w n off k : Nat} (hw : 0 < w) :
    elemCell base w n off k ↔ 8 * base ≤ 8 * off + k ∧ (8 * off + k - 8 * base) / w = n := by
  unfold elemCell
  constructor
  · rintro ⟨h1, h2⟩
    rw [Nat.mul_succ] at h2
    refine ⟨by omega, Nat.div_eq_of_lt_le ?_ ?_⟩
    · rw [Nat.mul_comm n]
      omega
    · rw [Nat.mul_comm (n + 1), Nat.mul_succ]
      omega
  · rintro ⟨h1, rfl⟩
    have h2 := Nat.div_add_mod (8 * off + k - 8 * base) w
    have h3 := Nat.mod_lt (8 * off + k - 8 * base) hw
    rw [Nat.mul_add, Nat.mul_one]
    omega

theorem pstore_cvt_ends (hp : s.Presses x m core f true) (hb : m.blocks[f.acc.toNat]? = some b) (n : Nat) (e : Fmt) (hpl : f.pfl.getLsbD 0 = true)
    (hn : (find m.f f.fmt.toNat).map natOfBytes = some n) (he : fmtOf (fbEfmt n) = some e)
    (hroom : 256 * f.offb.toNat + 16384 * fmtBits e / 8 ≤ x.spbytes) :
    ∃ X, PressEnds (exec (.pstore f) s) X s.cur x core (m.spc + 8) ∧ ∃ w, s.PressStores X s.cur w ∧
      ∀ off bit, bit < 8 →
        let q := (8 * (off - 256 * f.offb.toNat) + bit) / fmtBits e
        let k := (8 * (off - 256 * f.offb.toNat) + bit) % fmtBits e
        let v := if b.isInt then XVal.ofInt (b.at_ (q / 128) (q % 128)).toInt else decodeNum .fp32 (b.at_ (q / 128) (q % 128)).toNat
        (X.spByte s.cur off).getLsbD bit =
          if 256 * f.offb.toNat ≤ off ∧ q < 16384 ∧ f.mmask.getLsbD (q / 128 / 16) = true ∧ f.nmask.getLsbD (q % 128 / 16) = true
          then (round e .rne true false v).enc.toNat.testBit k else (s.spByte s.cur off).getLsbD bit := by
  have hw : 0 < fmtBits e := by cases e <;> decide
  let v : Nat → Nat := fun q => (round e .rne true false (b.val (q / 128) (q % 128))).enc.toNat
  let step : State → Nat × Nat → State := fun X p => X.storeElem s.cur (opOff f.offb) (128 * p.1 + p.2) e (round e .rne true false (b.val p.1 p.2)).enc.toNat
  have hroom' : (⟨s.cur, x, m, core⟩ : PCtx).room (opOff f.offb) (16384 * fmtBits e / 8) = true := (PCtx.room_iff _ _ _).mpr (.inr hroom)
  have hreg : ((⟨s.cur, x, m, core⟩ : PCtx).fmtReg f).bind (fun n => fmtOf (fbEfmt n)) = some e := by
    show ((find m.f f.fmt.toNat).map natOfBytes).bind _ = _
    rw [hn]
    exact he
  obtain ⟨hbeside, hin,
    hout⟩ := cells_foldl (Option.isSome_of_eq_some hp.1) step (fun p off k => elemCell (opOff f.offb) (fmtBits e) (128 * p.1 + p.2) off k)
    (fun p off k => (round e .rne true false (b.val p.1 p.2)).enc.toNat.testBit (8 * off + k - (8 * opOff f.offb + fmtBits e * (128 * p.1 + p.2))))
    (selPairs f) (fun X p _ _ hX _ => storeElem_bits hX _ _ _ _) ((nodup_selPairs f).imp_of_mem fun {p p'} hp hp' hne off k _ hc hc' => by
      obtain ⟨i, j⟩ := p
      obtain ⟨i', j'⟩ := p'
      have hs := (mem_selPairs f i j).mp hp
      have hs' := (mem_selPairs f i' j').mp hp'
      have h1 := ((elemCell_iff hw).mp hc).2
      have h2 := ((elemCell_iff hw).mp hc').2
      have hj : j < 128 := hs.2.1
      have hj' : j' < 128 := hs'.2.1
      dsimp only at h1 h2
      exact hne (Prod.ext (by dsimp only; omega) (by dsimp only; omega)))
  classical
  refine ⟨(selPairs f).foldl step s, ?_, _, hbeside.pressStores (fun _ => True) fun off hno => absurd trivial hno, fun off bit hbit => ?_⟩
  · show PressEnds (execPstore f s) _ _ _ _ _
    unfold execPstore
    refine press_go hp ?_ (by rw [hbeside.1])
    rw [hpl, hreg, PCtx.block_eq _ hb]
    show (if !(PCtx.room _ _ _) then _ else _) = _
    rw [hroom']
    exact congrArg (fun X => POut.go X (m.spc + 8)) (foldl_selPairs f (fun X i j => step X (i, j)) s)
  · intro q k v
    have hval : v = b.val (q / 128) (q % 128) := (Block.val_eq b _ _).symm
    have hpos (ho : 256 * f.offb.toNat ≤ off) : 8 * off + bit - 8 * opOff f.offb = 8 * (off - 256 * f.offb.toNat) + bit := by
      show 8 * off + bit - 8 * (256 * f.offb.toNat) = _
      omega
    have hdiv := Nat.div_add_mod q 128
    by_cases hsel : 256 * f.offb.toNat ≤ off ∧ q < 16384 ∧ f.mmask.getLsbD (q / 128 / 16) = true ∧ f.nmask.getLsbD (q % 128 / 16) = true
    · rw [if_pos hsel, hval]
      obtain ⟨ho, hq, hm, hnm⟩ := hsel
      have hs : selects f (q / 128) (q % 128) := ⟨by omega, Nat.mod_lt _ (by decide), hm, hnm⟩
      have hcell : elemCell (opOff f.offb) (fmtBits e) (128 * (q / 128) + q % 128) off bit :=
        (elemCell_iff hw).mpr ⟨by show 8 * (256 * _) ≤ _; omega, by rw [hpos ho, hdiv]⟩
      refine (hin (q / 128, q % 128) ((mem_selPairs f _ _).mpr hs) off bit hbit hcell).trans ?_
      show Nat.testBit _ _ = Nat.testBit _ _
      congr 1
      have hk := Nat.div_add_mod (8 * (off - 256 * f.offb.toNat) + bit) (fmtBits e)
      show 8 * off + bit - (8 * opOff f.offb + fmtBits e * (128 * (q / 128) + q % 128)) = k
      rw [hdiv, ← Nat.sub_sub, hpos ho]
      show _ - fmtBits e * ((8 * (off - 256 * f.offb.toNat) + bit) / fmtBits e) = _ % _
      omega
    · rw [if_neg hsel]
      refine hout off bit hbit fun p hp' hc => hsel ?_
      obtain ⟨i, j⟩ := p
      obtain ⟨hi, hj, hmi, hnj⟩ := (mem_selPairs f i j).mp hp'
      obtain ⟨hle, hqe⟩ := (elemCell_iff hw).mp hc
      have ho : 256 * f.offb.toNat ≤ off := by
        have hle : 8 * (256 * f.offb.toNat) ≤ 8 * off + bit := hle
        omega
      rw [hpos ho] at hqe
      have hqe : q = 128 * i + j := hqe
      rw [hqe, show (128 * i + j) / 128 = i by omega, show (128 * i + j) % 128 = j by omega]
      exact ⟨ho, by omega, hmi, hnj⟩

end

/-- Settles O36: what each word reads, writes and leaves, by its own lemma. -/
theorem pressLoadsAndStores : Obligations.PressLoadsAndStores := by
  intro f s x m core b oa ob hp hb
  exact ⟨ploada_ends hp hb, pstore_ends hp hb, pstore_cvt_ends hp hb, ptrans_ends hp hb, pscale_ends hp hb⟩

end Sys2Proof.Machine

/-! PROOFS. Press rows: elements in plane layout, PEXP, PROWMAX and PROWSUM (O37). -/

namespace Sys2Proof.Machine

open Host

/-! ## Elements in plane layout (R85) -/

theorem planeAt_bit_lt (f : Fmt) (p e : Nat) : (planeAt f p e).2 < 8 := Nat.mod_lt _ (by decide)

/-- Where plane p of a group stands among the words of a region whose groups have h head planes and g others. -/
def planePlace (h g p group : Nat) : Nat := if p < h then group * h + p else 64 * h + group * g + (p - h)

theorem planeAt_eq (f : Fmt) (p e : Nat) :
    planeAt f p e = (8 * planePlace (fmtPlanes f).1 (fmtPlanes f).2 p (e / 64) + e % 64 / 8, e % 8) := rfl

theorem planePlace_lt {h g p group : Nat} (hp : p < h + g) (hgroup : group < 64) : planePlace h g p group < 64 * (h + g) := by
  unfold planePlace
  have hh : group * h ≤ 63 * h := Nat.mul_le_mul_right h (by omega)
  have hg : group * g ≤ 63 * g := Nat.mul_le_mul_right g (by omega)
  by_cases h1 : p < h
  · rw [if_pos h1]; omega
  · rw [if_neg h1]; omega

theorem mul_add_inj {n a b p q : Nat} (hp : p < n) (hq : q < n) (h : a * n + p = b * n + q) : a = b ∧ p = q := by
  have hdiv := congrArg (· / n) h
  have hmod := congrArg (· % n) h
  have hn : 0 < n := by omega
  simp only [Nat.mod_eq_of_lt hp, Nat.mod_eq_of_lt hq, Nat.mul_comm _ n, Nat.mul_add_div hn,
    Nat.div_eq_of_lt hp, Nat.div_eq_of_lt hq, Nat.mul_add_mod] at hdiv hmod
  exact ⟨hdiv, hmod⟩

theorem planePlace_inj {h g p q a b : Nat} (hp : p < h + g) (hq : q < h + g) (ha : a < 64) (hb : b < 64)
    (he : planePlace h g p a = planePlace h g q b) : p = q ∧ a = b := by
  unfold planePlace at he
  have hah : a * h ≤ 63 * h := Nat.mul_le_mul_right h (by omega)
  have hbh : b * h ≤ 63 * h := Nat.mul_le_mul_right h (by omega)
  by_cases h1 : p < h <;> by_cases h2 : q < h
  · rw [if_pos h1, if_pos h2] at he
    obtain ⟨hab, hpq⟩ := mul_add_inj h1 h2 he
    exact ⟨hpq, hab⟩
  · rw [if_pos h1, if_neg h2] at he
    omega
  · rw [if_neg h1, if_pos h2] at he
    omega
  · rw [if_neg h1, if_neg h2] at he
    obtain ⟨hab, hpq⟩ := mul_add_inj (n := g) (p := p - h) (q := q - h) (by omega) (by omega) (by omega : a * g + (p - h) = b * g + (q - h))
    exact ⟨by omega, hab⟩

theorem planeAt_lt (f : Fmt) {p e : Nat} (hp : p < (fmtPlanes f).1 + (fmtPlanes f).2) (he : e < 4096) : (planeAt f p e).1 < regionBytes f := by
  rw [planeAt_eq]
  have h := planePlace_lt hp (show e / 64 < 64 by omega)
  show 8 * _ + _ < 512 * _
  omega

/-- No two elements' planes share a bit of a region. -/
theorem planeAt_inj (f : Fmt) {p q e d : Nat} (hp : p < (fmtPlanes f).1 + (fmtPlanes f).2) (hq : q < (fmtPlanes f).1 + (fmtPlanes f).2)
    (he : e < 4096) (hd : d < 4096) (h1 : (planeAt f p e).1 = (planeAt f q d).1) (h2 : (planeAt f p e).2 = (planeAt f q d).2) : p = q ∧ e = d := by
  rw [planeAt_eq, planeAt_eq] at h1 h2
  dsimp only at h1 h2
  obtain ⟨hpq, hgroup⟩ := planePlace_inj hp hq (show e / 64 < 64 by omega) (show d / 64 < 64 by omega) (by omega)
  exact ⟨hpq, by omega⟩

/-- One bit put into a byte. -/
theorem getLsbD_put_bit (old : Byte) (v : Bool) {b k : Nat} (hk : k < 8) :
    (if v then old ||| BitVec.ofNat 8 (2 ^ b) else old &&& ~~~BitVec.ofNat 8 (2 ^ b)).getLsbD k = if k = b then v else old.getLsbD k := by
  have hbit : (BitVec.ofNat 8 (2 ^ b)).getLsbD k = decide (b = k) := by
    rw [BitVec.getLsbD_ofNat, decide_eq_true hk, Bool.true_and, Nat.testBit_two_pow]
  cases v with
  | true =>
    rw [if_pos rfl, BitVec.getLsbD_or, hbit]
    by_cases h : k = b
    · rw [if_pos h, decide_eq_true h.symm, Bool.or_true]
    · rw [if_neg h, decide_eq_false (fun h' => h h'.symm), Bool.or_false]
  | false =>
    rw [if_neg Bool.false_ne_true, BitVec.getLsbD_and, BitVec.getLsbD_not, hbit, decide_eq_true hk, Bool.true_and]
    by_cases h : k = b
    · rw [if_pos h, decide_eq_true h.symm]
      exact Bool.and_false _
    · rw [if_neg h, decide_eq_false (fun h' => h h'.symm)]
      exact Bool.and_true _

/-- The bits of an element of a region at a base. -/
def planeCell (base : Nat) (f : Fmt) (e off k : Nat) : Prop :=
  ∃ p < (fmtPlanes f).1 + (fmtPlanes f).2, off = base + (planeAt f p e).1 ∧ k = (planeAt f p e).2

theorem setPlanes_bits {X : State} {sh : Nat} (hX : (X.share sh).isSome) (base : Nat) (f : Fmt) {e : Nat} (he : e < 4096) (v : Nat) :
    X.Beside (X.setPlanes sh base f e v) sh ∧
      (∀ p < (fmtPlanes f).1 + (fmtPlanes f).2,
        (X.setPlanes sh base f e v).spBit sh (base + (planeAt f p e).1) (planeAt f p e).2 = planeBit f p v) ∧
      ∀ off k, k < 8 → ¬planeCell base f e off k → (X.setPlanes sh base f e v).spBit sh off k = X.spBit sh off k := by
  obtain ⟨hbeside, hin, hout⟩ := cells_foldl hX (fun Y p =>
      Y.pressWrite sh (base + (planeAt f p e).1) [if planeBit f p v then Y.spByte sh (base + (planeAt f p e).1) ||| BitVec.ofNat 8 (2 ^ (planeAt f p e).2)
        else Y.spByte sh (base + (planeAt f p e).1) &&& ~~~BitVec.ofNat 8 (2 ^ (planeAt f p e).2)])
    (fun p off k => off = base + (planeAt f p e).1 ∧ k = (planeAt f p e).2) (fun p _ _ => planeBit f p v)
    (List.range ((fmtPlanes f).1 + (fmtPlanes f).2))
    (fun Y p _ _ hY _ => by
      refine ⟨State.beside_pressWrite _ _ _ _, fun off k hk => ?_⟩
      unfold State.spBit
      rw [State.spByte_pressWrite hY, List.length_singleton]
      by_cases ho : off = base + (planeAt f p e).1
      · rw [if_pos (by omega), ho, Nat.sub_self]
        show (_ → BitVec.getLsbD (ite _ _ _) _ = _) ∧ (_ → BitVec.getLsbD (ite _ _ _) _ = _)
        rw [getLsbD_put_bit _ _ hk]
        exact ⟨fun hc => if_pos hc.2, fun hc => if_neg fun hb => hc ⟨rfl, hb⟩⟩
      · rw [if_neg (by omega)]
        exact ⟨fun hc => absurd hc.1 ho, fun _ => rfl⟩)
    (List.nodup_range.imp_of_mem fun {p q} hp hq hne off k _ hc hc' => hne
      (planeAt_inj f (List.mem_range.mp hp) (List.mem_range.mp hq) he he (by omega) (by omega)).1)
  exact ⟨hbeside, fun p hp => hin p (List.mem_range.mpr hp) _ _ (planeAt_bit_lt f p e) ⟨rfl, rfl⟩,
    fun off k hk hno => hout off k hk fun p hp hc => hno ⟨p, List.mem_range.mp hp, hc⟩⟩

theorem selCols_nil {f : PF} (h : f.nmask = 0) : selCols f = [] := by
  unfold selCols
  rw [h, List.filter_eq_nil_iff]
  intro j _
  rw [BitVec.ofNat_eq_ofNat, BitVec.getLsbD_zero]
  exact Bool.false_ne_true

theorem selRows_nil {f : PF} (h : f.mmask = 0) : selRows f = [] := by
  unfold selRows
  rw [h, List.filter_eq_nil_iff]
  intro j _
  rw [BitVec.ofNat_eq_ofNat, BitVec.getLsbD_zero]
  exact Bool.false_ne_true

/-- The pairs of the rows and columns that a word uses are the selected elements. -/
theorem usedPairs_eq (f : PF) :
    ((if f.nmask = 0 then [] else selRows f).flatMap fun i => (if f.mmask = 0 then [] else selCols f).map fun j => (i, j)) = selPairs f := by
  unfold selPairs
  by_cases hn : f.nmask = 0
  · rw [if_pos hn, selCols_nil hn]
    exact (List.flatMap_eq_nil_iff.mpr fun _ _ => rfl).symm
  · rw [if_neg hn]
    by_cases hm : f.mmask = 0
    · rw [if_pos hm, selRows_nil hm]
      rfl
    · rw [if_neg hm]

theorem mem_cols {f : PF} {j : Nat} (h : j ∈ if f.mmask = 0 then [] else selCols f) : ∃ i, selects f i j := by
  split at h
  · cases h
  · next hne =>
    obtain ⟨hj, hn⟩ := (mem_selCols f j).mp h
    obtain ⟨k, hk, hkm⟩ : ∃ k < 8, f.mmask.getLsbD k = true := by
      by_contra hno
      exact hne (BitVec.eq_of_getLsbD_eq fun k hk => by
        refine Eq.trans ?_ BitVec.getLsbD_zero.symm
        exact Bool.eq_false_iff.mpr fun hn => hno ⟨k, hk, hn⟩)
    exact ⟨16 * k, by omega, hj, by rwa [Nat.mul_div_cancel_left k (by omega)], hn⟩

/-! ## PEXP (R205) -/

/-- The argument of E2 for an element. -/
def pexpArg (acc bias scale : Lane32) : XVal :=
  if bias = 0xFF800000 then .inf true
  else readF32 false (round .fp32 .rne false false (((readF32 false acc).add .rne (readF32 false bias).neg).mul (readF32 false scale))).enc

theorem expElem_eq (acc bias scale : Lane32) (e : Fmt) : expElem acc bias scale e = (e2 (pexpArg acc bias scale) e).enc.toNat := rfl

theorem pexpArg_rule (acc bias scale : Lane32) : PexpArg acc bias scale (pexpArg acc bias scale) := by
  unfold PexpArg pexpArg
  by_cases h : bias = 0xFF800000
  · rw [if_pos h, if_pos h]
  · rw [if_neg h, if_neg h]
    refine ⟨_, _, sumOf_add _ _ _, productOf_mul _ _, ?_⟩
    simp only [readF32_plain]

section
variable {s : State} {x : Share} {m : Stream} {core : Nat} {f : PF} {b : Block} {n : Nat} {e : Fmt}

/-- What PEXP forms of each element, as the machine stands when the word starts. -/
def pexpValue (s : State) (f : PF) (b : Block) (n : Nat) (e : Fmt) (i j : Nat) : Nat :=
  expElem (b.at_ i j) (s.spWord s.cur (opOff f.offa + 4 * i)) (fbEscale n) e

theorem expReg_eq (hn : (find m.f f.fmt.toNat).map natOfBytes = some n) (hf : isFloatFmt (fbEfmt n) = true) (he : fmtOf (fbEfmt n) = some e) :
    ((⟨s.cur, x, m, core⟩ : PCtx).fmtReg f).bind (fun n => (expFmt n).map fun e => (n, e)) = some (n, e) := by
  show ((find m.f f.fmt.toNat).map natOfBytes).bind _ = _
  rw [hn]
  show (expFmt n).map _ = _
  unfold expFmt
  rw [hf, if_pos rfl, he]
  rfl

theorem pexp_ends (hp : s.Presses x m core f true) (hb : m.blocks[f.acc.toNat]? = some b) (hint : b.isInt = false)
    (hn : (find m.f f.fmt.toNat).map natOfBytes = some n) (hf : isFloatFmt (fbEfmt n) = true) (he : fmtOf (fbEfmt n) = some e)
    (hroom : ∀ i j, selects f i j → 256 * f.offa.toNat + 4 * (i + 1) ≤ x.spbytes ∧ 256 * f.offb.toNat + (j / 32 + 1) * regionBytes e ≤ x.spbytes) :
    ∃ X w, PressEnds (exec (.pexp f) s) X s.cur x core (m.spc + 8) ∧ s.PressStores X s.cur w ∧
      (∀ i j p, selects f i j → p < (fmtPlanes e).1 + (fmtPlanes e).2 →
        let a := planeAt e p (32 * i + j % 32)
        (X.spByte s.cur (256 * f.offb.toNat + j / 32 * regionBytes e + a.1)).getLsbD a.2 = planeBit e p (pexpValue s f b n e i j)) ∧
      ∀ off bit, bit < 8 → (∀ i j p, selects f i j → p < (fmtPlanes e).1 + (fmtPlanes e).2 →
          ¬(off = 256 * f.offb.toNat + j / 32 * regionBytes e + (planeAt e p (32 * i + j % 32)).1 ∧ bit = (planeAt e p (32 * i + j % 32)).2)) →
        (X.spByte s.cur off).getLsbD bit = (s.spByte s.cur off).getLsbD bit := by
  let area : Nat × Nat → Nat := fun p => opOff f.offb + p.2 / 32 * regionBytes e
  let step : State → Nat × Nat → State := fun X p => X.setPlanes s.cur (area p) e (32 * p.1 + p.2 % 32) (pexpValue s f b n e p.1 p.2)
  have hx : (s.share s.cur).isSome := Option.isSome_of_eq_some hp.1
  have hlt (p : Nat × Nat) (hp : p ∈ selPairs f) : 32 * p.1 + p.2 % 32 < 4096 := by
    obtain ⟨i, j⟩ := p
    have hi : i < 128 := ((mem_selPairs f i j).mp hp).1
    show 32 * i + j % 32 < 4096
    omega
  obtain ⟨hbeside, hin, hout⟩ := cells_foldl hx step (fun p off k => planeCell (area p) e (32 * p.1 + p.2 % 32) off k)
    (fun p off k => (step s p).spBit s.cur off k) (selPairs f)
    (fun X p hp' _ hX _ => by
      obtain ⟨h1, h2, h3⟩ := setPlanes_bits hX (area p) e (hlt p hp') (pexpValue s f b n e p.1 p.2)
      obtain ⟨-, h2', -⟩ := setPlanes_bits hx (area p) e (hlt p hp') (pexpValue s f b n e p.1 p.2)
      refine ⟨h1, fun off k hk => ⟨?_, h3 off k hk⟩⟩
      rintro ⟨q, hq, rfl, rfl⟩
      exact (h2 q hq).trans (h2' q hq).symm)
    ((nodup_selPairs f).imp_of_mem fun {p p'} hp hp' hne off k _ hc hc' => by
      obtain ⟨q, hq, ho, hk⟩ := hc
      obtain ⟨q', hq', ho', hk'⟩ := hc'
      have h1 := planeAt_lt e hq (hlt p hp)
      have h2 := planeAt_lt e hq' (hlt p' hp')
      obtain ⟨i, j⟩ := p
      obtain ⟨i', j'⟩ := p'
      have hj : j < 128 := ((mem_selPairs f i j).mp hp).2.1
      have hj' : j' < 128 := ((mem_selPairs f i' j').mp hp').2.1
      dsimp only [area] at ho ho' hk hk' h1 h2
      obtain ⟨hreg, hat⟩ := mul_add_inj (a := j / 32) (b := j' / 32) h1 h2 (by omega)
      obtain ⟨-, hel⟩ := planeAt_inj e hq hq' (hlt (i, j) hp) (hlt (i', j') hp') hat (hk.symm.trans hk')
      dsimp only at hel
      exact hne (Prod.ext (by dsimp only; omega) (by dsimp only; omega)))
  classical
  refine ⟨(selPairs f).foldl step s, _, ?_, hbeside.pressStores (fun _ => True) fun off hno => absurd trivial hno, fun i j p hs hp' => ?_,
    fun off bit hbit hno => hout off bit hbit ?_⟩
  · show PressEnds (execPexp f s) _ _ _ _ _
    unfold execPexp
    refine press_go hp ?_ (by rw [hbeside.1])
    dsimp only
    rw [expReg_eq hn hf he, PCtx.block_eq _ hb]
    have hrow : (⟨s.cur, x, m, core⟩ : PCtx).rowRoom (opOff f.offa) (if f.nmask = 0 then [] else selRows f) = true :=
      PCtx.rowRoom_of _ _ _ fun i hi => (mem_rows hi).elim fun j hj => (hroom i j hj).1
    have hcol : ((if f.mmask = 0 then [] else selCols f).all fun j =>
        (⟨s.cur, x, m, core⟩ : PCtx).room (opOff f.offb + j / 32 * regionBytes e) (regionBytes e)) = true := by
      rw [List.all_eq_true]
      intro j hj
      obtain ⟨i, hs⟩ := mem_cols hj
      have h := (hroom i j hs).2
      rw [Nat.succ_mul (j / 32)] at h
      exact (PCtx.room_iff _ _ _).mpr (.inr ((Nat.add_assoc _ _ _).trans_le h))
    dsimp only
    rw [hrow, hcol, hint]
    show POut.go _ _ = _
    have hfold := congrArg (fun l : List (Nat × Nat) => l.foldl step s) (usedPairs_eq f)
    rw [← hfold]
    congr 1
    rw [← List.foldl_map (f := fun p : Nat × Nat => (area p, 32 * p.1 + p.2 % 32, pexpValue s f b n e p.1 p.2))
      (g := fun X y => State.setPlanes X s.cur y.1 e y.2.1 y.2.2), List.map_flatMap]
    simp only [List.map_map]
    rfl
  · obtain ⟨-, h2, -⟩ := setPlanes_bits hx (area (i, j)) e (hlt _ ((mem_selPairs f i j).mpr hs)) (pexpValue s f b n e i j)
    exact (hin (i, j) ((mem_selPairs f i j).mpr hs) _ _ (planeAt_bit_lt e p _) ⟨p, hp', rfl, rfl⟩).trans (h2 p hp')
  · rintro ⟨i, j⟩ hs ⟨p, hp', ho, hk⟩
    exact hno i j p ((mem_selPairs f i j).mp hs) hp' ⟨ho, hk⟩

/-! ## PROWMAX and PROWSUM (R206) -/

theorem pairwise_selRows (f : PF) (base : Nat) :
    (selRows f).Pairwise fun a b => base + 4 * a + 4 ≤ base + 4 * b ∨ base + 4 * b + 4 ≤ base + 4 * a :=
  (nodup_selRows f).imp fun {a b} hab => by omega

/-- The word that PROWMAX writes for a row. -/
def rowMax (f : PF) (b : Block) (old : Lane32) (i : Nat) : Lane32 :=
  let sel := (selCols f).map fun j => b.at_ i j
  if f.pfl.getLsbD 0 then (if sel.isEmpty then old else (maxWords b.isInt (old :: sel)).getD old)
  else (maxWords b.isInt sel).getD (leastOf b.isInt)

theorem maxWords_cons (isInt : Bool) (y : Lane32) (ys : List Lane32) (d d' : Lane32) :
    (maxWords isInt (y :: ys)).getD d = (maxWords isInt (y :: ys)).getD d' := rfl

theorem rowMax_rule (f : PF) (b : Block) (old : Lane32) (i : Nat) :
    let sel := ((List.range 128).filter fun j => f.nmask.getLsbD (j / 16)).map fun j => b.at_ i j
    (f.pfl.getLsbD 0 = false → GreatestOf b.isInt sel (rowMax f b old i)) ∧ (f.pfl.getLsbD 0 = true → sel = [] → rowMax f b old i = old) ∧
      (f.pfl.getLsbD 0 = true → sel ≠ [] → GreatestOf b.isInt (old :: sel) (rowMax f b old i)) := by
  intro sel
  have hrow : rowMax f b old i = if f.pfl.getLsbD 0 then (if sel.isEmpty then old else (maxWords b.isInt (old :: sel)).getD old)
    else (maxWords b.isInt sel).getD (leastOf b.isInt) := rfl
  rw [hrow]
  refine ⟨fun h => ?_, fun h hsel => ?_, fun h hsel => ?_⟩
  · rw [h, if_neg Bool.false_ne_true]
    exact greatestOf_maxWords b.isInt sel
  · rw [h, if_pos rfl, hsel]
    rfl
  · rw [h, if_pos rfl, if_neg (by rwa [List.isEmpty_iff]), maxWords_cons _ _ _ old (leastOf b.isInt)]
    exact greatestOf_maxWords b.isInt (old :: sel)

/-- A word whose bytes stand as before reads as before. -/
theorem spWord_of_bytes {s X : State} {sh off : Nat} (h : ∀ k < 4,
  X.spByte sh (off + k) = s.spByte sh (off + k)) : X.spWord sh off = s.spWord sh off := by
  unfold State.spWord State.spNat
  congr 2
  exact List.map_congr_left fun k hk => h k (List.mem_range.mp hk)

theorem prowmax_ends (hp : s.Presses x m core f true) (hb : m.blocks[f.acc.toNat]? = some b)
    (hroom : ∀ i < 128, f.mmask.getLsbD (i / 16) = true → 256 * f.offb.toNat + 4 * (i + 1) ≤ x.spbytes) :
    ∃ X w, PressEnds (exec (.prowmax f) s) X s.cur x core (m.spc + 8) ∧ s.PressStores X s.cur w ∧
      (∀ i k, i < 128 → f.mmask.getLsbD (i / 16) = true → k < 4 →
        w (256 * f.offb.toNat + 4 * i + k) = some ((rowMax f b (s.spWord s.cur (256 * f.offb.toNat + 4 * i)) i).extractLsb' (8 * k) 8)) ∧
      ∀ off, (∀ i k, i < 128 → f.mmask.getLsbD (i / 16) = true → k < 4 → off ≠ 256 * f.offb.toNat + 4 * i + k) → w off = none := by
  let step : State → Nat → State := fun X i =>
    X.pressWrite s.cur (opOff f.offb + 4 * i) (bytesOf 4 (rowMax f b (X.spWord s.cur (opOff f.offb + 4 * i)) i).toNat)
  obtain ⟨hbeside, w, hw, hin, hout⟩ := words_foldl (Option.isSome_of_eq_some hp.1) step (fun i => opOff f.offb + 4 * i)
    (fun i => rowMax f b (s.spWord s.cur (opOff f.offb + 4 * i)) i) (selRows f)
    (fun X i _ _ hown => by
      show X.pressWrite _ _ (bytesOf 4 (rowMax f b (X.spWord _ _) i).toNat) = _
      rw [spWord_of_bytes hown]) (pairwise_selRows f _)
  refine ⟨(selRows f).foldl step s, w, ?_, hw, fun i k hi hm hk => hin i ((mem_selRows f i).mpr ⟨hi, hm⟩) k hk,
    fun off hno => hout off fun i hi k hk => ?_⟩
  · show PressEnds (execProwmax f s) _ _ _ _ _
    unfold execProwmax
    refine press_go hp ?_ (by rw [hbeside.1])
    have hrow : (⟨s.cur, x, m, core⟩ : PCtx).rowRoom (opOff f.offb) (selRows f) = true :=
      PCtx.rowRoom_of _ _ _ fun i hi => hroom i ((mem_selRows f i).mp hi).1 ((mem_selRows f i).mp hi).2
    dsimp only
    rw [hrow, PCtx.block_eq _ hb]
    rfl
  · obtain ⟨hi, hm⟩ := (mem_selRows f i).mp hi
    exact hno i k hi hm hk

/-- The sum that PROWSUM writes for a row. -/
def rowSum (s : State) (f : PF) (b : Block) (n : Nat) (e : Fmt) (i : Nat) : Lane32 :=
  (treeNode (fun a c => (round .fp32 .rne false false ((decodeNum .fp32 a.toNat).add .rne (decodeNum .fp32 c.toNat))).enc)
    (fun j => if j < 128 ∧ f.nmask.getLsbD (j / 16) = true then
      some (round .fp32 .rne false false (decodeNum e (pexpValue s f b n e i j))).enc else none) 7 0).getD 0

theorem tree_rowSum (s : State) (f : PF) (b : Block) (n : Nat) (e : Fmt) (i : Nat) :
    (tree (fun y z => (round .fp32 .rne false false ((readF32 false y).add .rne (readF32 false z))).enc) 7 ((List.range 128).map fun j =>
      if f.nmask.getLsbD (j / 16) then some (round .fp32 .rne false false (decodeNum e (pexpValue s f b n e i j))).enc else none)).getD 0 =
    rowSum s f b n e i := by
  unfold rowSum
  rw [← tree_eq_treeNode]
  simp only [readF32_plain]
  congr 2
  refine List.map_congr_left fun j hj => ?_
  simp only [List.mem_range.mp hj, true_and]

theorem prowsum_ends (hp : s.Presses x m core f true) (hb : m.blocks[f.acc.toNat]? = some b) (hint : b.isInt = false)
    (hn : (find m.f f.fmt.toNat).map natOfBytes = some n) (hf : isFloatFmt (fbEfmt n) = true) (he : fmtOf (fbEfmt n) = some e)
    (hroom : ∀ i < 128, f.mmask.getLsbD (i / 16) = true → 256 * f.offb.toNat + 4 * (i + 1) ≤ x.spbytes)
    (hbias : f.nmask ≠ 0 → ∀ i < 128, f.mmask.getLsbD (i / 16) = true → 256 * f.offa.toNat + 4 * (i + 1) ≤ x.spbytes) :
    ∃ X w, PressEnds (exec (.prowsum f) s) X s.cur x core (m.spc + 8) ∧ s.PressStores X s.cur w ∧
      (∀ i k, i < 128 → f.mmask.getLsbD (i / 16) = true → k < 4 →
        w (256 * f.offb.toNat + 4 * i + k) = some ((rowSum s f b n e i).extractLsb' (8 * k) 8)) ∧
      ∀ off, (∀ i k, i < 128 → f.mmask.getLsbD (i / 16) = true → k < 4 → off ≠ 256 * f.offb.toNat + 4 * i + k) → w off = none := by
  let step : State → Nat → State := fun X i => X.pressWrite s.cur (opOff f.offb + 4 * i) (bytesOf 4 (rowSum s f b n e i).toNat)
  obtain ⟨hbeside, w, hw, hin, hout⟩ := words_foldl (Option.isSome_of_eq_some hp.1) step (fun i => opOff f.offb + 4 * i)
    (rowSum s f b n e) (selRows f) (fun _ _ _ _ _ => rfl) (pairwise_selRows f _)
  refine ⟨(selRows f).foldl step s, w, ?_, hw, fun i k hi hm hk => hin i ((mem_selRows f i).mpr ⟨hi, hm⟩) k hk,
    fun off hno => hout off fun i hi k hk => ?_⟩
  · show PressEnds (execProwsum f s) _ _ _ _ _
    unfold execProwsum
    refine press_go hp ?_ (by rw [hbeside.1])
    have hrow : (⟨s.cur, x, m, core⟩ : PCtx).rowRoom (opOff f.offb) (selRows f) = true :=
      PCtx.rowRoom_of _ _ _ fun i hi => hroom i ((mem_selRows f i).mp hi).1 ((mem_selRows f i).mp hi).2
    have hrow' : (f.nmask == 0 || (⟨s.cur, x, m, core⟩ : PCtx).rowRoom (opOff f.offa) (selRows f)) = true := by
      by_cases h0 : f.nmask = 0
      · rw [h0]
        rfl
      · rw [PCtx.rowRoom_of _ _ _ fun i hi => hbias h0 i ((mem_selRows f i).mp hi).1 ((mem_selRows f i).mp hi).2, Bool.or_true]
    dsimp only
    rw [expReg_eq hn hf he, PCtx.block_eq _ hb]
    dsimp only
    rw [hrow, hrow', hint, List.foldl_map]
    exact congrArg (fun v : Nat → Lane32 => POut.go ((selRows f).foldl (fun X i =>
      X.pressWrite s.cur (opOff f.offb + 4 * i) (bytesOf 4 (v i).toNat)) s) (m.spc + 8)) (funext (tree_rowSum s f b n e))
  · obtain ⟨hi, hm⟩ := (mem_selRows f i).mp hi
    exact hno i k hi hm hk

end

/-- Settles O37: PEXP by the disjoint bits of its elements' planes, PROWMAX and PROWSUM by one word a selected row; only the selected rows'
words need lie within SPBYTES (log 36). -/
theorem pressRows : Obligations.PressRows := by
  intro f s x m core b oa ob rowsFit old hp hb
  refine ⟨fun n e hint hn hf he => ⟨fun i j => pexpValue s f b n e i j, fun i j _ => ⟨_, _, pexpArg_rule _ _ _, e2_rule _ _, rfl⟩,
    fun hroom => pexp_ends hp hb hint hn hf he hroom, fun hfit hbias => ?_⟩, fun hfit => ?_⟩
  · obtain ⟨X, w, hends, hst, hin, hout⟩ := prowsum_ends hp hb hint hn hf he hfit hbias
    exact ⟨X, w, hends, hst, fun i k hi hm hk => ⟨_, rfl, hin i k hi hm hk⟩, hout⟩
  · obtain ⟨X, w, hends, hst, hin, hout⟩ := prowmax_ends hp hb hfit
    refine ⟨X, w, hends, hst, fun i k hi hm hk => ⟨rowMax f b (old ob i) i, ?_⟩, hout⟩
    obtain ⟨h1, h2, h3⟩ := rowMax_rule f b (old ob i) i
    exact ⟨h1, h2, h3, hin i k hi hm hk⟩

end Sys2Proof.Machine

/-! PROOFS. A grid whose stream is halted keeps a team that waits in a release (O34). -/

namespace Sys2Proof.Machine

open Host

-- proofs that wait for one another's congruence lemmas would each hold a thread
set_option Elab.async false

/-! ## A halted stream of a grid with a team inside a release (R293, R357) -/

/-- A team that waits inside a word for its posted writes (R225). -/
def releasingTeam (t : Team) : Team := { t with run := .parked .quiet, word := some 0, role := .general }

/-- The grid of the placed share, on package 0. -/
def placedGrid : Grid :=
  { pkg := 0, queue := 0, ctx := 1, ticket := none, admittedAt := 0
    kernel := { version := 3, ftz := false, lanes := 1, teams := 1, pro8 := 32, full8 := 32, partition := 0x00181008, roles := 0, entry := 0,
                press := 0, spbytes := 0x10000, accblk := 4, rings := 8 }
    launch := { kernel := 0, param := 0, gx := 1, gy := 1, gz := 1, cw := 1, ch := 1, resOk := true, energy := 0, done := 0 } }

/-- Team 0 of grid 0 waits inside a release, and the share's stream runs. -/
def releasingState : State := ((State.reset.placeWord 0).updTeam 0 releasingTeam).setGrid 0 placedGrid

/-- The package kills what a fault leaves. -/
theorem releasingState_duty : (releasingState.pkg 0).duty.getLsbD 0 = false := by decide +kernel

/-- Behind the halt of the stream team 0 of the grid is there still. -/
theorem releasingState_halted : ((releasingState.haltStream 0 .bounds 0).team 0).any (fun t => t.grid == 0 && t.role == .general) = true := by
  decide +kernel

/-- Refutes O34: in hardware mode a stream that is halted is killed with its grid, but a team of the grid that waits inside a release stays,
doomed, until its release is performed (log 48); it is no reeve. -/
theorem not_pressControlAndHalts : ¬ Obligations.PressControlAndHalts := by
  intro hall
  unfold Obligations.PressControlAndHalts at hall
  obtain ⟨-, hhalt, -⟩ := hall
  obtain ⟨-, hkilled, -, -⟩ := hhalt releasingState placedShare { st := .running, spc := 0x20000, blocks := List.replicate 4 {} } 0 0 .bounds 0
    (by decide +kernel) rfl (by decide +kernel) rfl
  obtain ⟨-, hreeves⟩ := hkilled releasingState_duty
  have hteam := releasingState_halted
  cases ht : (releasingState.haltStream 0 .bounds 0).team 0 with
  | none =>
    rw [ht] at hteam
    cases hteam
  | some t =>
    rw [ht, Option.any_some, Bool.and_eq_true, beq_iff_eq, beq_iff_eq] at hteam
    obtain ⟨hgrid, hrole⟩ := hteam
    have hreeve := hreeves 0 t ht hgrid
    rw [hrole] at hreeve
    cases hreeve

end Sys2Proof.Machine

/-! PROOFS. Multiplication: one element, the run over the selected elements, wakes, PMM and PMMS (O35). -/

namespace Sys2Proof.Machine

open Host

/-! ## One element of a multiplication (R88, R89) -/

/-- The products of one element, in the order of their sum. -/
def products (a b : Nat → XVal) : List XVal := (List.range 32).map fun k => (a k).mul (b k)

theorem dotFloat_rule (a b : Nat → XVal) : DotRule a b (dotFloat (products a b)) := by
  let acc : Nat → XVal := fun n => ((List.range n).map fun k => (a k).mul (b k)).foldl (fun (x : XVal) p => x.add .rne p) (.fin false 0 0)
  have hsum : dotFloat (products a b) = match acc 32 with | .fin _ 0 _ => .fin false 0 0 | x => x := rfl
  refine ⟨fun k => (a k).mul (b k), acc, rfl, fun k _ => ⟨productOf_mul _ _, ?_⟩, ?_, fun hne => ?_⟩
  · show SumOf .rne (acc k) _ (List.foldl _ _ _)
    rw [List.range_succ, List.map_append, List.foldl_append]
    exact sumOf_add _ _ _
  · rintro ⟨z, e, hz⟩
    rw [hsum, hz]
    rfl
  · rw [hsum]
    generalize acc 32 = y at hne
    match y with
    | .fin z 0 e => exact absurd rfl (hne z e)
    | .fin z (n + 1) e => rfl
    | .inf z => rfl
    | .nan q => rfl

theorem mulRule_float (a b : Nat → XVal) (old : Lane32) : MulRule false a b old (mmFloat old (dotFloat (products a b))) False := by
  refine ⟨not_false, _, _, dotFloat_rule a b, sumOf_add _ _ _, ?_⟩
  unfold mmFloat
  rw [readF32_plain]

theorem finAt_zero (neg : Bool) (m : Nat) : finAt neg m 0 0 = if neg then -(m : Int) else m := by
  unfold finAt
  simp

theorem xint_mul_ofInt (x y : Int) : xint ((XVal.ofInt x).mul (XVal.ofInt y)) = x * y := by
  show finAt (decide (x < 0) != decide (y < 0)) (x.natAbs * y.natAbs) (0 + 0) 0 = x * y
  rw [Int.add_zero, finAt_zero, Nat.cast_mul, Int.natCast_natAbs, Int.natCast_natAbs]
  by_cases hx : x < 0 <;> by_cases hy : y < 0
  · rw [decide_eq_true hx, decide_eq_true hy, abs_of_neg hx, abs_of_neg hy]
    simp
  · rw [decide_eq_true hx, decide_eq_false hy, abs_of_neg hx, abs_of_nonneg (not_lt.mp hy)]
    simp
  · rw [decide_eq_false hx, decide_eq_true hy, abs_of_nonneg (not_lt.mp hx), abs_of_neg hy]
    simp
  · rw [decide_eq_false hx, decide_eq_false hy, abs_of_nonneg (not_lt.mp hx), abs_of_nonneg (not_lt.mp hy)]
    simp

theorem toInt_clamp (y : Int) (hlo : -(2 ^ 31) ≤ y) (hhi : y ≤ 2 ^ 31 - 1) : (BitVec.ofInt 32 y).toInt = y := by
  rw [BitVec.toInt_ofInt]
  exact Int.bmod_eq_of_le (by norm_num; omega) (by norm_num; omega)

theorem mulRule_int (a b : Nat → XVal) (x y : Nat → Int) (hab : ∀ k < 32, a k = XVal.ofInt (x k) ∧ b k = XVal.ofInt (y k)) (old : Lane32) :
    let r := mmInt old (((products a b).map xint).foldl (· + ·) 0)
    MulRule true a b old r.1 (r.2 = true) := by
  intro r
  refine ⟨x, y, hab, ?_⟩
  intro e
  have hsum : ((products a b).map xint).foldl (· + ·) 0 = ((List.range 32).map fun k => x k * y k).sum := by
    rw [← List.sum_eq_foldl]
    unfold products
    rw [List.map_map]
    refine congrArg List.sum (List.map_congr_left fun k hk => ?_)
    obtain ⟨h1, h2⟩ := hab k (List.mem_range.mp hk)
    show xint ((a k).mul (b k)) = _
    rw [h1, h2, xint_mul_ofInt]
  have hr : r = (BitVec.ofInt 32 (clampInt (-(2 ^ 31)) (2 ^ 31 - 1) e), clampInt (-(2 ^ 31)) (2 ^ 31 - 1) e != e) := by
    show mmInt old _ = _
    rw [hsum]
    rfl
  have hclamp := clampInt_eq (lo := -(2 ^ 31)) (hi := 2 ^ 31 - 1) (by norm_num) e
  have htoInt : r.1.toInt = max (-(2 ^ 31)) (min e (2 ^ 31 - 1)) := by
    rw [hr, hclamp]
    exact toInt_clamp _ (by omega) (by omega)
  refine ⟨htoInt, ?_⟩
  rw [htoInt, hr, hclamp]
  exact bne_iff_ne

/-- The new element of a block, and whether it saturated. -/
def mulElem (isInt : Bool) (a b : Nat → XVal) (old : Lane32) : Lane32 :=
  if isInt then (mmInt old (((products a b).map xint).foldl (· + ·) 0)).1 else mmFloat old (dotFloat (products a b))
def mulClips (isInt : Bool) (a b : Nat → XVal) (old : Lane32) : Bool := isInt && (mmInt old (((products a b).map xint).foldl (· + ·) 0)).2

theorem mulElem_rule {isInt : Bool} {a b : Nat → XVal} (hab : isInt = true → ∃ x y : Nat → Int, ∀ k < 32,
  a k = XVal.ofInt (x k) ∧ b k = XVal.ofInt (y k))
    (old : Lane32) : MulRule isInt a b old (mulElem isInt a b old) (mulClips isInt a b old = true) := by
  cases isInt with
  | true =>
    obtain ⟨x, y, hxy⟩ := hab rfl
    exact mulRule_int a b x y hxy old
  | false =>
    have h := mulRule_float a b old
    exact ⟨Bool.false_ne_true, h.2⟩

/-! ## The run over the selected elements (R201) -/

/-- One element of a block is replaced, and the block's saturation noted. -/
def Block.mulAt (A B : Nat → Nat → XVal) (b : Block) (p : Nat × Nat) : Block :=
  { b with
    elems := setD 0 b.elems (128 * p.1 + p.2) (mulElem b.isInt (A p.1) (B p.2) (b.at_ p.1 p.2))
    sat := b.sat || mulClips b.isInt (A p.1) (B p.2) (b.at_ p.1 p.2) }

theorem foldl_mulAt (A B : Nat → Nat → XVal) (l : List (Nat × Nat)) (b : Block) (hnd : l.Nodup) (hlt : ∀ p ∈ l, p.2 < 128) :
    let b' := l.foldl (Block.mulAt A B) b
    b'.isInt = b.isInt ∧
      (b'.sat = true ↔ b.sat = true ∨ ∃ p ∈ l, mulClips b.isInt (A p.1) (B p.2) (b.at_ p.1 p.2) = true) ∧
      (∀ p ∈ l, b'.at_ p.1 p.2 = mulElem b.isInt (A p.1) (B p.2) (b.at_ p.1 p.2)) ∧
      ∀ p : Nat × Nat, p.2 < 128 → p ∉ l → b'.at_ p.1 p.2 = b.at_ p.1 p.2 := by
  induction l using List.reverseRecOn with
  | nil =>
    refine ⟨rfl, ?_, fun p hp => (by cases hp), fun _ _ _ => rfl⟩
    simp
  | append_singleton l a ih =>
    obtain ⟨hl, -, hla⟩ := List.nodup_append.mp hnd
    obtain ⟨hint, hsat, hin, hout⟩ := ih hl fun p hp => hlt p (List.mem_append_left _ hp)
    have ha : a ∉ l := fun h => hla a h a (List.mem_singleton_self a) rfl
    have ha128 : a.2 < 128 := hlt a (List.mem_append_right _ (List.mem_singleton_self a))
    have hold := hout a ha128 ha
    rw [List.foldl_append, List.foldl_cons, List.foldl_nil]
    generalize l.foldl (Block.mulAt A B) b = c at hint hsat hin hout hold ⊢
    have hat (p : Nat × Nat) (hp : p.2 < 128) :
        (c.mulAt A B a).at_ p.1 p.2 = if p = a then mulElem b.isInt (A a.1) (B a.2) (b.at_ a.1 a.2) else c.at_ p.1 p.2 := by
      by_cases hpa : p = a
      · rw [if_pos hpa, hpa]
        unfold Block.mulAt Block.at_
        rw [getD_setD_same]
        show mulElem c.isInt _ _ (c.at_ a.1 a.2) = mulElem b.isInt _ _ (b.at_ a.1 a.2)
        rw [hold, hint]
      · rw [if_neg hpa]
        have hne : 128 * p.1 + p.2 ≠ 128 * a.1 + a.2 := fun he => hpa (Prod.ext (by omega) (by omega))
        exact getD_setD_other _ _ _ _ hne
    refine ⟨hint, ?_, fun p hp => ?_, fun p hp hno => ?_⟩
    · show (c.sat || mulClips c.isInt _ _ (c.at_ a.1 a.2)) = true ↔ _
      rw [Bool.or_eq_true, hsat, hint, hold]
      simp only [List.mem_append, List.mem_singleton, or_and_right, exists_or, exists_eq_left, or_assoc]
    · rw [hat p (hlt p hp)]
      rcases List.mem_append.mp hp with hp | hp
      · rw [if_neg (fun h : p = a => ha (h ▸ hp)), hin p hp]
      · rw [List.mem_singleton.mp hp, if_pos rfl]
    · rw [hat p hp, if_neg (fun h => hno (List.mem_append_right _ (List.mem_singleton.mpr h))), hout p hp fun h => hno (List.mem_append_left _ h)]

section
variable {s : State} {c : PCtx} {f : PF} {n : Nat} {fa fb : Fmt}

/-- The scaled elements of a row of A, and of a column of B. -/
def rowElem (s : State) (sh : Nat) (f : PF) (n : Nat) (fa : Fmt) (i k : Nat) : XVal :=
  (s.operand sh (opOff f.offa) fa (planesRead fa (fbApl n)) (32 * i + k)).mul (s.scale sh (opOff f.offa) (fbAsoff n) (fbAblk n) i k)
def colElem (s : State) (sh : Nat) (f : PF) (n : Nat) (fb : Fmt) (j k : Nat) : XVal :=
  (s.operand sh (opOff f.offb) fb (planesRead fb (fbBpl n)) (32 * j + k)).mul (s.scale sh (opOff f.offb) (fbBsoff n) (fbBblk n) j k)

theorem multiply_eq (ha : fmtOf (fbA n) = some fa) (hb : fmtOf (fbB n) = some fb) :
    s.multiply c f n = (selPairs f).foldl (Block.mulAt (rowElem s c.sh f n fa) (colElem s c.sh f n fb)) (c.block f) := by
  unfold State.multiply
  rw [ha, hb, ← foldl_selPairs f fun b i j => Block.mulAt (rowElem s c.sh f n fa) (colElem s c.sh f n fb) b (i, j)]
  dsimp only
  simp only [List.foldl_map]
  refine congrArg (fun g => List.foldl g (c.block f) (selRows f)) (funext fun b => funext fun i => ?_)
  refine congrArg (fun g => List.foldl g b (selCols f)) (funext fun b => funext fun j => ?_)
  have hprod : (((List.range 32).map (rowElem s c.sh f n fa i)).zip ((List.range 32).map (colElem s c.sh f n fb j))).map (fun z => z.1.mul z.2) =
      products (rowElem s c.sh f n fa i) (colElem s c.sh f n fb j) := by
    rw [List.zip_map', List.map_map]
    rfl
  unfold Block.mulAt mulElem mulClips
  cases hint : b.isInt with
  | true =>
    rw [← hprod]
    rfl
  | false =>
    rw [← hprod, Bool.false_and, Bool.or_false]
    rfl

/-- The bit of a number that stands in scratchpad. -/
theorem State.testBit_spNat (s : State) (sh off : Nat) {len j : Nat} (hj : j < 8 * len) :
    (s.spNat sh off len).testBit j = (s.spByte sh (off + j / 8)).getLsbD (j % 8) := by
  unfold State.spNat
  set bs := (List.range len).map fun i => s.spByte sh (off + i) with hbs
  have hlen : bs.length = len := by rw [hbs, List.length_map, List.length_range]
  have h := getLsbD_bytesOf bs.length (natOfBytes bs) (j / 8) (j % 8) (by omega) (Nat.mod_lt _ (by decide))
  rw [bytesOf_natOfBytes, Nat.div_add_mod] at h
  rw [← h, hbs, List.getD_eq_getElem?_getD, List.getElem?_map, List.getElem?_range (by omega)]
  rfl

/-- A product with one. -/
theorem ofInt_mul_one (x : Int) : (XVal.ofInt x).mul (XVal.ofInt 1) = XVal.ofInt x := by
  show XVal.fin (decide (x < 0) != false) (x.natAbs * 1) (0 + 0) = _
  rw [Bool.bne_false, Nat.mul_one]
  rfl

/-- An element of an integer operand is an integer. -/
theorem operand_int (s : State) (sh base : Nat) {code : Nat} {g : Fmt} (hc : isIntFmt code = true) (hg : fmtOf code = some g) (p e : Nat) :
    ∃ y : Int, s.operand sh base g p e = XVal.ofInt y := by
  unfold isIntFmt at hc
  rw [Bool.or_eq_true, beq_iff_eq, beq_iff_eq] at hc
  rcases hc with rfl | rfl
  · cases hg
    exact ⟨_, rfl⟩
  · cases hg
    exact ⟨_, rfl⟩

theorem scale_one (s : State) (sh base off i k : Nat) : s.scale sh base off 0 i k = XVal.ofInt 1 := rfl

/-- What the checks of R200 leave: integer operands without scales in an integer block. -/
theorem pmmOk_int {isInt : Bool} (h : pmmOk n isInt = true) (hi : isInt = true) :
    isIntFmt (fbA n) = true ∧ isIntFmt (fbB n) = true ∧ fbAblk n = 0 ∧ fbBblk n = 0 := by
  unfold pmmOk at h
  simp only [Bool.and_eq_true, Bool.or_eq_true, beq_iff_eq, Bool.not_eq_true', hi] at h
  obtain ⟨⟨⟨⟨⟨hfmt, hacc⟩, -⟩, -⟩, hab⟩, hbb⟩ := h
  have hacc : fbAcct n = 9 := by
    have h9 := hacc.symm
    rwa [beq_iff_eq] at h9
  rcases hfmt with ⟨⟨h1, h2⟩, -⟩ | ⟨-, h0⟩
  · rw [h1] at hab
    rw [h2] at hbb
    exact ⟨h1, h2, hab.resolve_left (by decide), hbb.resolve_left (by decide)⟩
  · omega

theorem planeSize_of_pmmOk {isInt : Bool} (h : pmmOk n isInt = true) (ha : fmtOf (fbA n) = some fa) (hb : fmtOf (fbB n) = some fb) :
    planeSize (fbA n) = regionBytes fa ∧ planeSize (fbB n) = regionBytes fb := by
  unfold pmmOk at h
  simp only [Bool.and_eq_true, Bool.or_eq_true] at h
  obtain ⟨⟨⟨⟨⟨hfmt, -⟩, -⟩, -⟩, -⟩, -⟩ := h
  unfold planeSize
  rw [ha, hb]
  have hor : (isIntFmt (fbA n) || isFloatFmt (fbA n)) = true ∧ (isIntFmt (fbB n) || isFloatFmt (fbB n)) = true := by
    simp only [Bool.or_eq_true]
    rcases hfmt with ⟨⟨h1, h2⟩, -⟩ | ⟨⟨h1, h2⟩, -⟩
    · exact ⟨.inl h1, .inl h2⟩
    · exact ⟨.inr h1, .inr h2⟩
  rw [hor.1, hor.2]
  exact ⟨rfl, rfl⟩

/-- Both operands' elements are integers where the block is one of integers. -/
theorem elems_int {isInt : Bool} (h : pmmOk n isInt = true) (ha : fmtOf (fbA n) = some fa) (hb : fmtOf (fbB n) = some fb) (sh i j : Nat) (hi : isInt = true) :
    ∃ x y : Nat → Int, ∀ k < 32, rowElem s sh f n fa i k = XVal.ofInt (x k) ∧ colElem s sh f n fb j k = XVal.ofInt (y k) := by
  obtain ⟨hia, hib, hsa, hsb⟩ := pmmOk_int h hi
  choose x hx using fun k => operand_int s sh (opOff f.offa) hia ha (planesRead fa (fbApl n)) (32 * i + k)
  choose y hy using fun k => operand_int s sh (opOff f.offb) hib hb (planesRead fb (fbBpl n)) (32 * j + k)
  refine ⟨x, y, fun k _ => ⟨?_, ?_⟩⟩
  · unfold rowElem
    rw [hsa, scale_one, hx, ofInt_mul_one]
  · unfold colElem
    rw [hsb, scale_one, hy, ofInt_mul_one]

end

/-! ## Wakes (R209) -/

/-- What the wakes of some sub-arrays leave of a machine in which a share's stream runs on a core. -/
def State.Wakes (s X : State) (c : PCtx) (xs : List Nat) : Prop :=
  X = { s with cores := X.cores, shares := X.shares } ∧
  (∃ own, X.share c.sh = some { c.x with stream := some { c.m with wakeAt := own } }) ∧
  (∀ q, q ≠ c.sh → X.share q = s.share q) ∧
  (X.core c.core).gated = (s.core c.core).gated ∧
  ∀ j, find (X.core c.core).wakeAt j = if j ∈ xs ∧ (s.core c.core).gated.getLsbD j = true
    then some ((find (s.core c.core).wakeAt j).getD (s.now + 180)) else find (s.core c.core).wakeAt j

/-- The wake of a gated sub-array starts, unless it is under way. -/
def State.startWake (s : State) (c : PCtx) (i : Nat) : State :=
  if s.waking c.core i then s else s.updCore c.core fun k =>
    { k with wakeAt := put k.wakeAt i (s.now + Config.pressWake), wakes := if k.wakes = 0xFFFF then k.wakes else k.wakes + 1 }

theorem State.startWakes_one (s : State) (c : PCtx) (i : Nat) : s.startWakes c [i] =
    if (s.core c.core).gated.getLsbD i then (s.startWake c i).updStream c.sh fun m =>
      { m with wakeAt := put m.wakeAt i (getD (s.startWake c i).now ((s.startWake c i).core c.core).wakeAt i) } else s := by
  show (if !(s.core c.core).gated.getLsbD i then s else _) = _
  cases (s.core c.core).gated.getLsbD i <;> rfl

theorem State.startWake_rule (s : State) (c : PCtx) (i : Nat) :
    let Y := s.startWake c i
    Y = { s with cores := Y.cores } ∧ (Y.core c.core).gated = (s.core c.core).gated ∧
      (∀ d, d ≠ c.core → Y.core d = s.core d) ∧
      Y.core c.core = { s.core c.core with wakeAt := (Y.core c.core).wakeAt, wakes := (Y.core c.core).wakes } ∧
      ∀ j, find (Y.core c.core).wakeAt j = if j = i then some ((find (s.core c.core).wakeAt j).getD (s.now + 180)) else find (s.core c.core).wakeAt j := by
  intro Y
  have hY : Y = s.startWake c i := rfl
  unfold State.startWake State.waking at hY
  clear_value Y
  cases hw : find (s.core c.core).wakeAt i with
  | some n =>
    rw [hw, Option.isSome_some, if_pos rfl] at hY
    rw [hY]
    refine ⟨rfl, rfl, fun _ _ => rfl, rfl, fun j => ?_⟩
    by_cases hj : j = i
    · rw [if_pos hj, hj, hw]
      rfl
    · rw [if_neg hj]
  | none =>
    rw [hw, Option.isSome_none, if_neg Bool.false_ne_true] at hY
    rw [hY]
    refine ⟨rfl, by rw [State.core_updCore], fun d hd => State.core_updCore_other s _ hd, by rw [State.core_updCore], fun j => ?_⟩
    rw [State.core_updCore]
    show find (put _ _ _) j = _
    by_cases hj : j = i
    · rw [if_pos hj, hj, find_put_same, hw]
      rfl
    · rw [if_neg hj, find_put_other _ _ _ hj]

theorem State.startWakes_append (s : State) (c : PCtx) (xs : List Nat) (j : Nat) : s.startWakes c (xs ++ [j]) = (s.startWakes c xs).startWakes c [j] :=
  List.foldl_append

theorem State.wakes_startWakes {s : State} {c : PCtx} (hx : s.share c.sh = some c.x) (hm : c.x.stream = some c.m) (xs : List Nat) :
    s.Wakes (s.startWakes c xs) c xs := by
  induction xs using List.reverseRecOn with
  | nil =>
    refine ⟨rfl, ⟨c.m.wakeAt, ?_⟩, fun _ _ => rfl, rfl, fun j => ?_⟩
    · show s.share c.sh = _
      rw [hx, ← hm]
    · rw [if_neg fun h => List.not_mem_nil h.1]
      rfl
  | append_singleton xs i ih =>
    rw [State.startWakes_append]
    obtain ⟨h1, ⟨own, h2⟩, h3, h4, h5⟩ := ih
    generalize s.startWakes c xs = X at h1 h2 h3 h4 h5
    rw [State.startWakes_one, h4]
    by_cases hg : (s.core c.core).gated.getLsbD i = true
    · rw [if_pos hg]
      obtain ⟨y1, y2, y3, y4, y5⟩ := X.startWake_rule c i
      generalize X.startWake c i = Y at y1 y2 y3 y4 y5
      have hY : Y.share c.sh = some { c.x with stream := some { c.m with wakeAt := own } } := by rw [y1]; exact h2
      unfold State.updStream
      rw [State.updShare_some hY]
      refine ⟨?_, ⟨_, State.share_setShare _ _ _⟩, fun q hq => ?_, y2.trans h4, fun j => ?_⟩
      · rw [y1, h1]
        rfl
      · rw [State.share_setShare_other _ _ hq, y1]
        exact h3 q hq
      · show find (Y.core c.core).wakeAt j = _
        rw [y5, h5, h1]
        by_cases hj : j = i
        · have hmem : i ∈ xs ++ [i] ∧ (s.core c.core).gated.getLsbD i = true := ⟨List.mem_append_right _ (List.mem_singleton_self i), hg⟩
          rw [hj, if_pos rfl, if_pos hmem]
          split <;> rfl
        · rw [if_neg hj]
          simp only [List.mem_append, List.mem_singleton, hj, or_false]
    · rw [if_neg hg]
      refine ⟨h1, ⟨own, h2⟩, h3, h4, fun j => ?_⟩
      rw [h5]
      by_cases hj : j = i
      · rw [hj, if_neg fun h => hg h.2, if_neg fun h => hg h.2]
      · simp only [List.mem_append, List.mem_singleton, hj, or_false]

/-! ## PMM and PMMS -/

section
variable {s : State} {x : Share} {m : Stream} {core n : Nat} {f : PF} {b : Block} {fa fb : Fmt} {bitmap : Bool}

theorem exec_multiply (f : PF) (bitmap : Bool) (s : State) : exec (if bitmap then .pmms f else .pmm f) s = press f true (multiplyWord f bitmap) s := by
  cases bitmap <;> rfl

/-- The ranges that a multiplication reads lie within SPBYTES. -/
def PCtx.MulRoom (c : PCtx) (f : PF) (n : Nat) (fa fb : Fmt) (bitmap : Bool) : Prop :=
  c.room (opOff f.offa) (regionBytes fa) = true ∧ c.room (opOff f.offb) (regionBytes fb + if bitmap then 16 else 0) = true ∧
    c.scaleRoom (opOff f.offa) (fbAsoff n) (fbAblk n) (if f.nmask = 0 then [] else selRows f) = true ∧
    c.scaleRoom (opOff f.offb) (fbBsoff n) (fbBblk n) (if f.mmask = 0 then [] else selCols f) = true

/-- The block that a multiplication leaves. -/
def product (s : State) (sh : Nat) (f : PF) (n : Nat) (fa fb : Fmt) (bitmap : Bool) (b : Block) : Block :=
  let b := (selPairs f).foldl (Block.mulAt (rowElem s sh f n fa) (colElem s sh f n fb)) b
  if bitmap then b.modify (selRows f) (selCols f) fun _ j y => if (s.spNat sh (opOff f.offb + regionBytes fb) 16).testBit j then y else 0xFF800000 else b

theorem Block.modify_used (b : Block) (f : PF) (g : Nat → Nat → Lane32 → Lane32) :
    b.modify (if f.nmask = 0 then [] else selRows f) (if f.mmask = 0 then [] else selCols f) g = b.modify (selRows f) (selCols f) g := by
  have hfold (rows cols : List Nat) : (b.modify rows cols g) = { b with elems := List.foldl (fun m p =>
      setD 0 m (128 * p.1 + p.2) (g p.1 p.2 (getD 0 m (128 * p.1 + p.2)))) b.elems (rows.flatMap fun i => cols.map fun j => (i, j)) } := by
    unfold Block.modify
    rw [List.foldl_flatMap]
    simp only [List.foldl_map]
  rw [hfold, hfold, usedPairs_eq]
  rfl

theorem refused_go (go : POut) : refused true false go = go := rfl

theorem multiplyWord_eq (hb : m.blocks[f.acc.toNat]? = some b) (hn : (find m.f f.fmt.toNat).map natOfBytes = some n) (ha : fmtOf (fbA n) = some fa)
    (hfb : fmtOf (fbB n) = some fb) (hok : pmmOk n b.isInt = true) (hint : bitmap = true → b.isInt = false)
    (hroom : (⟨s.cur, x, m, core⟩ : PCtx).MulRoom f n fa fb bitmap) :
    multiplyWord f bitmap s ⟨s.cur, x, m, core⟩ = usePress ⟨s.cur, x, m, core⟩ f (pmmClocks f n) s fun s' =>
      PCtx.after ⟨s.cur, x, m, core⟩ (s'.setBlock ⟨s.cur, x, m, core⟩ f (product s' s.cur f n fa fb bitmap b)) := by
  obtain ⟨hsa, hsb⟩ := planeSize_of_pmmOk hok ha hfb
  obtain ⟨r1, r2, r3, r4⟩ := hroom
  have hreg : (⟨s.cur, x, m, core⟩ : PCtx).fmtReg f = some n := hn
  have hrefuse : (!pmmOk n b.isInt || (bitmap && b.isInt)) = false := by
    rw [hok]
    cases bitmap with
    | false => rfl
    | true => rw [hint rfl]; rfl
  unfold multiplyWord
  rw [hreg]
  dsimp only
  rw [hsa, hsb, PCtx.block_eq _ hb, hrefuse, r1, r2, r3, r4, Bool.and_true, Bool.or_true, Bool.or_true, Bool.and_true]
  rw [refused_go]
  refine congrArg _ (funext fun s' => ?_)
  rw [multiply_eq ha hfb, PCtx.block_eq _ hb]
  unfold product
  cases bitmap with
  | false => rfl
  | true =>
    rw [if_pos rfl, if_pos rfl, Block.modify_used]

/-- Where every selected row's scales lie within SPBYTES, the range of the highest one's does. -/
theorem PCtx.scaleRoom_of (c : PCtx) (base off code : Nat) (rows : List Nat)
    (h : code ≠ 0 → ∀ i ∈ rows, 2 * (i + 1) * nScales code = 0 ∨ base + off + 2 * (i + 1) * nScales code ≤ c.x.spbytes) :
    c.scaleRoom base off code rows = true := by
  unfold PCtx.scaleRoom
  by_cases h0 : code = 0
  · rw [h0]
    rfl
  · rw [Bool.or_eq_true]
    refine .inr ?_
    match hl : rows.getLast? with
    | none => rfl
    | some i => exact (c.room_iff _ _).mpr (h h0 i (List.mem_of_getLast? hl))

/-- Nothing that a multiplication reads rests on the cores. -/
theorem product_updCore (s : State) (k : Nat) (g : Core → Core) (sh : Nat) (f : PF) (n : Nat) (fa fb : Fmt) (bitmap : Bool) (b : Block) :
    product (s.updCore k g) sh f n fa fb bitmap b = product s sh f n fa fb bitmap b := rfl

theorem multiply_awake (hp : s.Presses x m core f true) (hb : m.blocks[f.acc.toNat]? = some b) (hn : (find m.f f.fmt.toNat).map natOfBytes = some n)
    (ha : fmtOf (fbA n) = some fa) (hfb : fmtOf (fbB n) = some fb) (hok : pmmOk n b.isInt = true) (hint : bitmap = true → b.isInt = false)
    (hroom : (⟨s.cur, x, m, core⟩ : PCtx).MulRoom f n fa fb bitmap) (hfree : (s.core core).pressFree ≤ s.now)
    (hawake : ∀ j ∈ usedArrays f, (s.core core).gated.getLsbD j = false) :
    ∃ use, PressEnds (exec (if bitmap then .pmms f else .pmm f) s)
      ((s.updCore core fun k => { k with pressFree := s.now + pmmClocks f n, lastUse := use }).withBlock f (product s s.cur f n fa fb bitmap b))
      s.cur x core (m.spc + 8) := by
  refine ⟨(usedArrays f).foldl (fun m x => put m x s.now) (s.core core).lastUse, ?_⟩
  rw [exec_multiply]
  refine press_go hp ?_ (State.cur_updStream _ _ _)
  rw [multiplyWord_eq hb hn ha hfb hok hint hroom]
  unfold usePress
  have hany : ((usedArrays f).any fun j => (s.core core).gated.getLsbD j) = false := by
    rw [List.any_eq_false]
    intro j hj
    rw [hawake j hj]
    exact Bool.false_ne_true
  dsimp only
  rw [if_neg (Nat.not_lt.mpr hfree), hany, if_neg Bool.false_ne_true, product_updCore]
  rfl

theorem multiply_busy (hp : s.Presses x m core f true) (hb : m.blocks[f.acc.toNat]? = some b) (hn : (find m.f f.fmt.toNat).map natOfBytes = some n)
    (ha : fmtOf (fbA n) = some fa) (hfb : fmtOf (fbB n) = some fb) (hok : pmmOk n b.isInt = true) (hint : bitmap = true → b.isInt = false)
    (hroom : (⟨s.cur, x, m, core⟩ : PCtx).MulRoom f n fa fb bitmap) (hbusy : s.now < (s.core core).pressFree) :
    exec (if bitmap then .pmms f else .pmm f) s = .next s := by
  rw [exec_multiply]
  refine press_stay hp ?_
  rw [multiplyWord_eq hb hn ha hfb hok hint hroom]
  unfold usePress
  dsimp only
  rw [if_pos hbusy]

theorem multiply_gated (hp : s.Presses x m core f true) (hb : m.blocks[f.acc.toNat]? = some b) (hn : (find m.f f.fmt.toNat).map natOfBytes = some n)
    (ha : fmtOf (fbA n) = some fa) (hfb : fmtOf (fbB n) = some fb) (hok : pmmOk n b.isInt = true) (hint : bitmap = true → b.isInt = false)
    (hroom : (⟨s.cur, x, m, core⟩ : PCtx).MulRoom f n fa fb bitmap) (hfree : (s.core core).pressFree ≤ s.now)
    (hgated : ∃ j ∈ usedArrays f, (s.core core).gated.getLsbD j = true) :
    exec (if bitmap then .pmms f else .pmm f) s = .next (s.startWakes ⟨s.cur, x, m, core⟩ (usedArrays f)) := by
  rw [exec_multiply]
  refine press_stay hp ?_
  rw [multiplyWord_eq hb hn ha hfb hok hint hroom]
  unfold usePress
  have hany : ((usedArrays f).any fun j => (s.core core).gated.getLsbD j) = true := List.any_eq_true.mpr hgated
  dsimp only
  rw [if_neg (Nat.not_lt.mpr hfree), hany, if_pos rfl]

/-- What a multiplication leaves of its block, element by element. -/
theorem product_rule (hok : pmmOk n b.isInt = true) (ha : fmtOf (fbA n) = some fa) (hfb : fmtOf (fbB n) = some fb) (sh : Nat) :
    (product s sh f n fa fb bitmap b).isInt = b.isInt ∧
    ((product s sh f n fa fb bitmap b).sat = true ↔ b.sat = true ∨ ∃ i j, selects f i j ∧
      mulClips b.isInt (rowElem s sh f n fa i) (colElem s sh f n fb j) (b.at_ i j) = true) ∧
    ∀ i j, i < 128 → j < 128 →
      (¬selects f i j → (product s sh f n fa fb bitmap b).at_ i j = b.at_ i j) ∧
      (selects f i j → ∃ y, MulRule b.isInt (rowElem s sh f n fa i) (colElem s sh f n fb j) (b.at_ i j) y
          (mulClips b.isInt (rowElem s sh f n fa i) (colElem s sh f n fb j) (b.at_ i j) = true) ∧
        (product s sh f n fa fb bitmap b).at_ i j =
          if bitmap = true ∧ (s.spByte sh (256 * f.offb.toNat + regionBytes fb + j / 8)).getLsbD (j % 8) = false then 0xFF800000 else y) := by
  obtain ⟨hint, hsat, hin, hout⟩ := foldl_mulAt (rowElem s sh f n fa) (colElem s sh f n fb) (selPairs f) b (nodup_selPairs f)
    fun p hp => ((mem_selPairs f p.1 p.2).mp hp).2.1
  have hsat' : (∃ p ∈ selPairs f, mulClips b.isInt (rowElem s sh f n fa p.1) (colElem s sh f n fb p.2) (b.at_ p.1 p.2) = true) ↔
      ∃ i j, selects f i j ∧ mulClips b.isInt (rowElem s sh f n fa i) (colElem s sh f n fb j) (b.at_ i j) = true := by
    constructor
    · rintro ⟨⟨i, j⟩, hp, hc⟩
      exact ⟨i, j, (mem_selPairs f i j).mp hp, hc⟩
    · rintro ⟨i, j, hs, hc⟩
      exact ⟨(i, j), (mem_selPairs f i j).mpr hs, hc⟩
  rw [hsat'] at hsat
  have hrule (i j : Nat) := mulElem_rule (elems_int (s := s) (f := f) hok ha hfb sh i j) (b.at_ i j)
  unfold product
  generalize (selPairs f).foldl _ b = c at hint hsat hin hout
  cases bitmap with
  | false =>
    refine ⟨hint, hsat, fun i j _ hj => ⟨fun hs => hout (i, j) hj fun h => hs ((mem_selPairs f i j).mp h), fun hs => ⟨_, hrule i j, ?_⟩⟩⟩
    rw [if_neg (fun h : false = true ∧ _ => Bool.false_ne_true h.1)]
    exact hin (i, j) ((mem_selPairs f i j).mpr hs)
  | true =>
    refine ⟨hint, hsat, fun i j _ hj => ?_⟩
    obtain ⟨h1, h2⟩ := c.at_modify f (fun _ j y => if (s.spNat sh (opOff f.offb + regionBytes fb) 16).testBit j then y else 0xFF800000) (i := i) hj
    refine ⟨fun hs => (h2 hs).trans (hout (i, j) hj fun h => hs ((mem_selPairs f i j).mp h)), fun hs => ⟨_, hrule i j, (h1 hs).trans ?_⟩⟩
    rw [hin (i, j) ((mem_selPairs f i j).mpr hs), State.testBit_spNat _ _ _ (by omega)]
    show (if (s.spByte sh (256 * f.offb.toNat + regionBytes fb + j / 8)).getLsbD (j % 8) = true then _ else _) = _
    cases (s.spByte sh (256 * f.offb.toNat + regionBytes fb + j / 8)).getLsbD (j % 8) <;> rfl

end

/-- Settles O35: the run over the selected elements by `foldl_mulAt`, each element by `mulElem_rule`, and the wakes by `wakes_startWakes`; the
idle clocks of the sub-arrays count from the clock at which the word starts (log 108). -/
theorem pressMultiply : Obligations.PressMultiply := by
  intro f s x m core n b fa fb bitmap w oa ob inside scales hp hb hn ha hfb hok hint hinA hinB hscA hscB awake
  have hroom : (⟨s.cur, x, m, core⟩ : PCtx).MulRoom f n fa fb bitmap := by
    refine ⟨(PCtx.room_iff _ _ _).mpr hinA, (PCtx.room_iff _ _ _).mpr hinB, PCtx.scaleRoom_of _ _ _ _ _ fun h0 i hi => ?_,
      PCtx.scaleRoom_of _ _ _ _ _ fun h0 j hj => ?_⟩
    · obtain ⟨j, hs⟩ := mem_rows hi
      exact hscA h0 i j hs
    · obtain ⟨i, hs⟩ := mem_cols hj
      exact hscB h0 i j hs
  refine ⟨fun ⟨hfree, hawake⟩ => ?_, fun hbusy => multiply_busy hp hb hn ha hfb hok hint hroom hbusy, fun hfree hnot => ?_⟩
  · obtain ⟨use, hends⟩ := multiply_awake hp hb hn ha hfb hok hint hroom hfree hawake
    obtain ⟨h1, h2, h3⟩ := product_rule (s := s) (f := f) (bitmap := bitmap) hok ha hfb s.cur
    exact ⟨_, use, rowElem s s.cur f n fa, colElem s s.cur f n fb, _, hends, fun i k _ _ => productOf_mul _ _, fun j k _ _ => productOf_mul _ _,
      h1, h2, h3⟩
  · have hgated : ∃ j ∈ usedArrays f, (s.core core).gated.getLsbD j = true := by
      by_contra hno
      exact hnot ⟨hfree, fun j hj => Bool.eq_false_iff.mpr fun hg => hno ⟨j, hj, hg⟩⟩
    obtain ⟨w1, ⟨own, w2⟩, w3, -, w5⟩ := State.wakes_startWakes (c := ⟨s.cur, x, m, core⟩) hp.1 hp.2.1 (usedArrays f)
    refine ⟨_, multiply_gated hp hb hn ha hfb hok hint hroom hfree hgated, w1, ?_, ?_, w3, fun j hj hg => ?_⟩
    · rw [w2]
      rfl
    · unfold State.stream
      rw [w2]
      rfl
    · rw [w5, if_pos ⟨hj, hg⟩]

end Sys2Proof.Machine

/-! PROOFS. The protocol of the cellar dies: tags and granules as words, requests at a port, replies (O38). -/

namespace Sys2Proof.Machine

open Host

/-! ## Tags and granules as words (R250, R275) -/

theorem FrameState.code_lt (t : FrameState) : t.code < 8 := by cases t <;> decide

theorem Tag.word_rule (t : Tag) (mru : Bool) : TagRule t mru (t.word mru) := by
  have hcode := FrameState.code_lt t.state
  obtain ⟨m, hm, hm2⟩ : ∃ m, (m = if mru then 1 else 0) ∧ m < 2 := ⟨_, rfl, by split <;> decide⟩
  obtain ⟨w, hw, hw2⟩ : ∃ w, (w = if t.twin then 1 else 0) ∧ w < 2 := ⟨_, rfl, by split <;> decide⟩
  obtain ⟨p, hp, hp2⟩ : ∃ p, (p = if t.pinned then 1 else 0) ∧ p < 2 := ⟨_, rfl, by split <;> decide⟩
  obtain ⟨n, hn⟩ : ∃ n, n = 2 ^ 46 * m + 2 ^ 44 * w + 2 ^ 43 * p + 2 ^ 40 * t.state.code + t.gpn % 2 ^ 40 := ⟨_, rfl⟩
  have hword : t.word mru = BitVec.ofNat 64 n := by
    unfold Tag.word
    congr 1
    rw [hn, hm, hw, hp]
    cases mru <;> cases t.twin <;> cases t.pinned <;> rfl
  have hbit (i : Nat) (hi : i < 64) : (BitVec.ofNat 64 n).getLsbD i = decide (n / 2 ^ i % 2 = 1) := by
    rw [BitVec.getLsbD_ofNat, decide_eq_true hi, Bool.true_and, Nat.testBit_eq_decide_div_mod_eq]
  have hext (lo len : Nat) : ((BitVec.ofNat 64 n).extractLsb' lo len).toNat = n / 2 ^ lo % 2 ^ len := by
    rw [BitVec.extractLsb'_toNat, BitVec.toNat_ofNat, Nat.mod_eq_of_lt (show n < 2 ^ 64 by omega), Nat.shiftRight_eq_div_pow]
  have hbool (b : Bool) (k : Nat) (hk : k = if b then 1 else 0) : decide (k = 1) = b := by
    rw [hk]; cases b <;> rfl
  unfold TagRule
  rw [hword, hext, hext, hbit 43 (by decide), hbit 44 (by decide), hbit 45 (by decide), hbit 46 (by decide)]
  refine ⟨by omega, by omega, ?_, ?_, ?_, ?_, ?_⟩
  · rw [show n / 2 ^ 43 % 2 = p by omega, hbool t.pinned p hp]
  · rw [show n / 2 ^ 44 % 2 = w by omega, hbool t.twin w hw]
  · rw [show n / 2 ^ 45 % 2 = 0 by omega]
    rfl
  · rw [show n / 2 ^ 46 % 2 = m by omega, hbool mru m hm]
  · apply BitVec.eq_of_toNat_eq
    rw [hext]
    show _ = 0
    omega

theorem Pkg.ecc_rule (k : Pkg) (f sector : Nat) : EccRule k (2048 * f + sector) (k.ecc f sector) := by
  unfold EccRule Pkg.ecc
  by_cases h : (find k.poison (2048 * f + sector)).isSome
  · rw [if_pos h]
    exact if_pos h
  · rw [if_neg h]
    show (match find k.symErr (2048 * f + sector) with | some n => _ | none => _)
    cases hs : find k.symErr (2048 * f + sector) with
    | none =>
      dsimp only
      rw [if_neg h, hs]
    | some n =>
      dsimp only
      rw [if_neg h, hs]

/-- A granule is given up where its status is POISON. -/
theorem EccRule.eq_two_iff {k : Pkg} {g : Nat} {e : BitVec 2} (h : EccRule k g e) :
    e ≠ 2 ↔ find k.poison g = none ∧ ∀ n, find k.symErr g = some n → n < 64 := by
  unfold EccRule at h
  by_cases hp : (find k.poison g).isSome
  · rw [if_pos hp] at h
    exact ⟨fun hne => absurd h hne, fun hn => by rw [hn.1] at hp; cases hp⟩
  · rw [if_neg hp] at h
    have hnone := Option.not_isSome_iff_eq_none.mp hp
    cases hs : find k.symErr g with
    | none =>
      rw [hs] at h
      exact ⟨fun _ => ⟨hnone, fun n hn => (by cases hn)⟩, fun _ => by rw [show e = 0 from h]; decide⟩
    | some n =>
      rw [hs] at h
      have h : e = if n < 64 then 1 else 2 := h
      by_cases hn : n < 64
      · rw [if_pos hn] at h
        exact ⟨fun _ => ⟨hnone, fun m hm => by cases hm; exact hn⟩, fun _ => by rw [h]; decide⟩
      · rw [if_neg hn] at h
        exact ⟨fun hne => absurd h hne, fun hall => absurd (hall.2 n rfl) hn⟩

/-- A byte of a word that eight bytes make. -/
theorem byte_ofNat_natOfBytes (l : List Byte) (hl : l.length = 8) {k : Nat} (hk : k < 8) :
    (BitVec.ofNat 64 (natOfBytes l)).extractLsb' (8 * k) 8 = l.getD k 0 := by
  apply BitVec.eq_of_getLsbD_eq
  intro j hj
  have h := getLsbD_bytesOf l.length (natOfBytes l) k j (by omega) hj
  rw [bytesOf_natOfBytes] at h
  rw [BitVec.getLsbD_extractLsb', decide_eq_true hj, Bool.true_and, BitVec.getLsbD_ofNat, decide_eq_true (by omega), Bool.true_and, h]

/-! ## Changes of one package -/

theorem State.updPkg_updPkg (s : State) (p : Nat) (f g : Pkg → Pkg) : (s.updPkg p f).updPkg p g = s.setPkg p (g (f (s.pkg p))) := by
  show State.setPkg (s.updPkg p f) p (g ((s.updPkg p f).pkg p)) = _
  rw [State.pkg_updPkg]
  unfold State.updPkg State.setPkg
  rw [put_put]

/-- X has another package p, and is the machine s else. -/
theorem State.onPkg_of {s X : State} {p : Nat} (h : ∃ a, X = s.setPkg p a) : X = s.setPkg p (X.pkg p) := by
  obtain ⟨a, rfl⟩ := h
  rw [State.pkg_setPkg]

theorem State.updPkg_onPkg {s X : State} {p : Nat} (h : X = s ∨ ∃ a, X = s.setPkg p a) (g : Pkg → Pkg) : ∃ a, X.updPkg p g = s.setPkg p a := by
  rcases h with rfl | ⟨a, rfl⟩
  · exact ⟨_, rfl⟩
  · exact ⟨_, State.updPkg_updPkg s p (fun _ => a) g⟩

theorem State.addHist_onPkg {s X : State} {p : Nat} (h : X = s ∨ ∃ a, X = s.setPkg p a) (f sec kind n : Nat) :
    ∃ a, X.addHist p f sec kind n = s.setPkg p a := State.updPkg_onPkg h _

theorem State.readGranule_onPkg (s : State) (p f sec : Nat) : (s.readGranule p f sec).1 = s ∨ ∃ a, (s.readGranule p f sec).1 = s.setPkg p a := by
  unfold State.readGranule
  dsimp only
  cases find (s.pkg p).symErr (2048 * f + sec) with
  | none =>
    dsimp only
    split
    · exact .inr (State.addHist_onPkg (.inl rfl) _ _ _ _)
    · exact .inl rfl
  | some n =>
    dsimp only
    split
    · have h := State.addHist_onPkg (s := s) (p := p) (X := s.updPkg p fun k => { k.count 12 with
        symErr := erase (k.count 12).symErr (2048 * f + sec) }) (.inr ⟨_, rfl⟩) f sec 1 n
      split
      · exact .inr (State.addHist_onPkg (.inr h) _ _ _ _)
      · exact .inr h
    · exact .inr (State.addHist_onPkg (.inr ⟨_, rfl⟩) _ _ _ _)

theorem State.writeGranule_onPkg (s : State) (p f sec : Nat) (bs : List Byte) (mask : BitVec 32) : ∃ a,
  (s.writeGranule p f sec bs mask).1 = s.setPkg p a := by
  unfold State.writeGranule
  dsimp only
  split
  · exact ⟨_, rfl⟩
  · split
    · exact State.addHist_onPkg (.inl rfl) _ _ _ _
    · have hread := State.readGranule_onPkg s p f sec
      generalize s.readGranule p f sec = r at hread
      obtain ⟨Y, bad⟩ := r
      cases bad with
      | true => exact State.addHist_onPkg hread _ _ _ _
      | false =>
        dsimp only
        rw [if_neg Bool.false_ne_true]
        obtain ⟨a, ha⟩ := State.updPkg_onPkg hread fun k => (List.range 32).foldl (fun k i =>
          if mask.getLsbD i then k.setByte f (32 * sec + i) (bs.getD i 0) else k) k
        exact ⟨a, ha⟩

/-! ## Requests at a port (R275, R276) -/

section
variable {s : State} {p stack port : Nat} {f : CF}

theorem cellar_go (hs : stack < 12) (home : Nat) (res : Bool) (go : State → State) (hp : port = home % 64)
    (hfree : find (s.pkg p).ports (portKey stack port f.tag) = none) :
    cellar p stack port f home res go s = .next (if res || f.res != 0 then s.owe p stack port ⟨f.tag, 0, false, 2⟩ 4 [] else go s) := by
  unfold cellar
  rw [if_neg]
  rintro (h | h | h)
  · exact absurd hs (Nat.not_lt.mpr h)
  · exact h hp
  · rw [hfree] at h
    cases h

theorem cellar_busy (home : Nat) (res : Bool) (go : State → State) (hbusy : (find (s.pkg p).ports (portKey stack port f.tag)).isSome) :
    cellar p stack port f home res go s = .next s := if_pos (.inr (.inr hbusy))

/-- A request whose res0 bits are set is owed ERROR. -/
theorem cellar_res (hs : stack < 12) (home : Nat) (res : Bool) (go : State → State) (hp : port = home % 64)
    (hfree : find (s.pkg p).ports (portKey stack port f.tag) = none) (hres : f.res ≠ 0) :
    cellar p stack port f home res go s = .next (s.owe p stack port ⟨f.tag, 0, false, 2⟩ 4 []) := by
  rw [cellar_go hs home res go hp hfree, if_pos]
  rw [Bool.or_eq_true]
  exact .inr (bne_iff_ne.mpr hres)

/-- One without a set res0 bit takes effect. -/
theorem cellar_effect (hs : stack < 12) (home : Nat) (go : State → State) (hp : port = home % 64)
    (hfree : find (s.pkg p).ports (portKey stack port f.tag) = none) (hres : f.res = 0) :
    cellar p stack port f home false go s = .next (go s) := by
  rw [cellar_go hs home false go hp hfree, hres]
  rfl

theorem cfFrame_eq (stack : Nat) (f : CF) : cfFrame stack f = 2 * (12 * f.row.toNat + stack) + f.way.toNat := by
  unfold cfFrame rowFrame
  cases f.way <;> rfl

theorem lookup_rule (hs : stack < 12) (hfree : find (s.pkg p).ports (portKey stack port f.tag) = none) (gpn : BitVec 40)
    (hp : port = f.row.toNat % 64) (hres : f.res = 0) (hway : f.way = false) (hsec : f.sector.toNat = 0) :
    let k := s.pkg p
    let w0 := 2 * (12 * f.row.toNat + stack)
    let mru : Bool := decide (getD 0 k.mru (w0 / 2) = 1)
    let holds (w : Nat) : Prop := (k.tag w).gpn = gpn.toNat ∧ (k.tag w).state ≠ .invalid
    (holds w0 → exec (.lookup p stack port f gpn) s = .next (s.owe p stack port ⟨f.tag, 0, false, 0⟩ 0 [(k.tag w0).word mru])) ∧
      (¬holds w0 → holds (w0 + 1) → exec (.lookup p stack port f gpn) s = .next (s.owe p stack port ⟨f.tag, 0, true,
        0⟩ 0 [(k.tag (w0 + 1)).word mru])) ∧
      (¬holds w0 → ¬holds (w0 + 1) → exec (.lookup p stack port f gpn) s =
        .next (s.owe p stack port ⟨f.tag, 0, false, 0⟩ 1 [(k.tag w0).word mru, (k.tag (w0 + 1)).word false])) := by
  intro k w0 mru holds
  have hres' : (f.way || f.sector != 0) = false := by
    rw [hway, show f.sector = 0 from BitVec.eq_of_toNat_eq hsec]
    rfl
  have hexec : exec (.lookup p stack port f gpn) s = .next (
      if (k.tag w0).gpn == gpn.toNat && (k.tag w0).state != .invalid then s.owe p stack port ⟨f.tag, 0, false, 0⟩ 0 [(k.tag w0).word mru]
      else if (k.tag (w0 + 1)).gpn == gpn.toNat && (k.tag (w0 + 1)).state != .invalid then s.owe p stack port ⟨f.tag, 0, true,
        0⟩ 0 [(k.tag (w0 + 1)).word mru]
      else s.owe p stack port ⟨f.tag, 0, false, 0⟩ 1 [(k.tag w0).word mru, (k.tag (w0 + 1)).word false]) := by
    show execLookup p stack port f gpn s = _
    unfold execLookup
    rw [hres', cellar_effect hs _ _ hp hfree hres]
    rfl
  have hholds (w : Nat) : ((k.tag w).gpn == gpn.toNat && (k.tag w).state != .invalid) = true ↔ holds w := by
    rw [Bool.and_eq_true, beq_iff_eq, bne_iff_ne]
  refine ⟨fun h => ?_, fun h h' => ?_, fun h h' => ?_⟩
  · rw [hexec, if_pos ((hholds w0).mpr h)]
  · rw [hexec, if_neg fun hc => h ((hholds w0).mp hc), if_pos ((hholds _).mpr h')]
  · rw [hexec, if_neg fun hc => h ((hholds w0).mp hc), if_neg fun hc => h' ((hholds _).mp hc)]

theorem rd32_rule (hs : stack < 12) (hfree : find (s.pkg p).ports (portKey stack port f.tag) = none)
    (hp : port = (f.row.toNat + f.sector.toNat) % 64) (hres : f.res = 0) {fr : Nat} (hfr : fr = cfFrame stack f) :
    ∃ ws, exec (.rd32 p stack port f) s =
        .next ((s.readGranule p fr f.sector.toNat).1.owe p stack port ⟨f.tag, (s.pkg p).ecc fr f.sector.toNat, false, 0⟩ 2 ws) ∧
      ws.length = 4 ∧ ∀ i < 32, (ws.getD (i / 8) 0).extractLsb' (8 * (i % 8)) 8 =
        if (s.pkg p).ecc fr f.sector.toNat = 2 then 0 else (s.pkg p).byte fr (32 * f.sector.toNat + i) := by
  subst hfr
  let bs := (List.range 32).map fun i => if (s.pkg p).ecc (cfFrame stack f) f.sector.toNat = 2 then (0 : Byte)
    else ((s.readGranule p (cfFrame stack f) f.sector.toNat).1.pkg p).byte (cfFrame stack f) (32 * f.sector.toNat + i)
  refine ⟨(List.range 4).map fun i => BitVec.ofNat 64 (natOfBytes ((bs.drop (8 * i)).take 8)), ?_, rfl, fun i hi => ?_⟩
  · show execRd32 p stack port f s = _
    unfold execRd32
    rw [cellar_effect hs _ _ hp hfree hres]
  · have hbs : bs.length = 32 := rfl
    rw [List.getD_eq_getElem?_getD, List.getElem?_map, List.getElem?_range (by omega)]
    show (BitVec.ofNat 64 (natOfBytes ((bs.drop (8 * (i / 8))).take 8))).extractLsb' _ _ = _
    rw [byte_ofNat_natOfBytes _ (by rw [List.length_take, List.length_drop, hbs]; omega) (Nat.mod_lt _ (by decide)),
      List.getD_eq_getElem?_getD, List.getElem?_take_of_lt (Nat.mod_lt _ (by decide)), List.getElem?_drop, Nat.div_add_mod, List.getElem?_map,
      List.getElem?_range hi]
    show (if (s.pkg p).ecc (cfFrame stack f) f.sector.toNat = 2 then (0 : Byte) else Pkg.byte _ _ _) = _
    obtain ⟨-, hhbm, -⟩ := State.readGranule_spec s p (cfFrame stack f) f.sector.toNat
    unfold Pkg.byte
    rw [hhbm]

theorem wrf32_rule (hs : stack < 12) (hfree : find (s.pkg p).ports (portKey stack port f.tag) = none)
    (hp : port = (f.row.toNat + f.sector.toNat) % 64) (hres : f.res = 0) {fr : Nat} (hfr : fr = cfFrame stack f) (data : List Byte) (hd : data.length = 32) :
    ∃ X, exec (.wrf32 p stack port f data) s = .next (X.owe p stack port ⟨f.tag, 0, false, 0⟩ 3 []) ∧ X = s.setPkg p (X.pkg p) ∧
      X.pkg p = { s.pkg p with hbm := (X.pkg p).hbm, poison := erase (s.pkg p).poison (2048 * fr + f.sector.toNat)
                               symErr := erase (s.pkg p).symErr (2048 * fr + f.sector.toNat) } ∧
      ∀ g off, off < 65536 → (X.pkg p).byte g off =
        if g = fr ∧ off / 32 = f.sector.toNat then data.getD (off % 32) 0 else (s.pkg p).byte g off := by
  obtain ⟨hok, hbyte, -⟩ := State.writeGranule_spec s p fr f.sector.toNat data (BitVec.allOnes 32) f.sector.isLt hd
  refine ⟨(s.writeGranule p fr f.sector.toNat data (BitVec.allOnes 32)).1, ?_, State.onPkg_of (State.writeGranule_onPkg _ _ _ _ _ _), ?_,
    fun g off ho => ?_⟩
  · show execWrf32 p stack port f data s = _
    unfold execWrf32
    rw [cellar_effect hs _ _ hp hfree hres, hfr]
  · unfold State.writeGranule
    rw [if_pos rfl, State.pkg_updPkg]
    rfl
  · rw [hbyte g off ho, hok.mpr (.inl rfl), BitVec.getLsbD_allOnes, decide_eq_true (Nat.mod_lt _ (by decide) : off % 32 < 32)]
    simp only [true_and, and_true]

theorem wrm8_rule (hs : stack < 12) (hfree : find (s.pkg p).ports (portKey stack port f.tag) = none)
    (hp : port = (f.row.toNat + f.sector.toNat) % 64) (hres : f.res = 0) {fr : Nat} (hfr : fr = cfFrame stack f) (data : List Byte) {e : BitVec 2}
    (he : EccRule (s.pkg p) (2048 * fr + f.sector.toNat) e) :
    ∃ X, exec (.wrm8 p stack port f data) s = .next (X.owe p stack port ⟨f.tag, e, false, 0⟩ 3 []) ∧ X = s.setPkg p (X.pkg p) ∧
      ∀ g off, off < 65536 → (X.pkg p).byte g off =
        if e ≠ 2 ∧ g = fr ∧ off / 8 = 4 * f.sector.toNat + f.lane.toNat ∧ f.mask.getLsbD (off % 8) = true then data.getD (off % 8) 0
        else (s.pkg p).byte g off := by
  let bytes := (List.range 32).map fun i => data.getD (i - 8 * f.lane.toNat) 0
  let mask : BitVec 32 := f.mask.setWidth 32 <<< (8 * f.lane.toNat)
  have hecc : e = (s.pkg p).ecc fr f.sector.toNat := by
    have h := (s.pkg p).ecc_rule fr f.sector.toNat
    unfold EccRule at he h
    split at he
    · next hc => rw [if_pos hc] at h; rw [he, h]
    · next hc =>
      rw [if_neg hc] at h
      cases hsym : find (s.pkg p).symErr (2048 * fr + f.sector.toNat) with
      | none =>
        rw [hsym] at he h
        exact he.trans h.symm
      | some n =>
        rw [hsym] at he h
        exact he.trans h.symm
  have hlane := f.lane.isLt
  have hbit (i : Nat) (hi : i < 32) : mask.getLsbD i = (decide (i / 8 = f.lane.toNat) && f.mask.getLsbD (i % 8)) := by
    show (_ <<< _ : BitVec 32).getLsbD i = _
    rw [BitVec.getLsbD_shiftLeft, decide_eq_true hi, Bool.true_and, BitVec.getLsbD_setWidth, decide_eq_true (by omega : i - 8 * f.lane.toNat < 32),
      Bool.true_and]
    by_cases hc : i / 8 = f.lane.toNat
    · rw [decide_eq_true hc, Bool.true_and, decide_eq_false (by omega : ¬i < 8 * f.lane.toNat), Bool.not_false, Bool.true_and]
      congr 1
      omega
    · rw [decide_eq_false hc, Bool.false_and]
      by_cases hlt : i < 8 * f.lane.toNat
      · rw [decide_eq_true hlt]
        rfl
      · rw [BitVec.getLsbD_of_ge _ _ (by omega), Bool.and_false]
  have hmask : mask ≠ BitVec.allOnes 32 := by
    intro hall
    have hone (i : Nat) (hi : i < 32) : mask.getLsbD i = true := by
      rw [hall, BitVec.getLsbD_allOnes]
      exact decide_eq_true hi
    have h0 := hone 0 (by decide)
    have h31 := hone 31 (by decide)
    rw [hbit 0 (by decide), Bool.and_eq_true, decide_eq_true_iff] at h0
    rw [hbit 31 (by decide), Bool.and_eq_true, decide_eq_true_iff] at h31
    have h0 := h0.1
    have h31 := h31.1
    omega
  obtain ⟨hok, hbyte, -⟩ := State.writeGranule_spec s p fr f.sector.toNat bytes mask f.sector.isLt rfl
  refine ⟨(s.writeGranule p fr f.sector.toNat bytes mask).1, ?_, State.onPkg_of (State.writeGranule_onPkg _ _ _ _ _ _), fun g off ho => ?_⟩
  · show execWrm8 p stack port f data s = _
    unfold execWrm8
    rw [cellar_effect hs _ _ hp hfree hres, hecc, hfr]
  · have hperformed : (s.writeGranule p fr f.sector.toNat bytes mask).2 = true ↔ e ≠ 2 := by
      rw [hok, he.eq_two_iff]
      exact ⟨fun h => h.resolve_left hmask, .inr⟩
    rw [hbyte g off ho]
    have hplace : ((s.writeGranule p fr f.sector.toNat bytes mask).2 = true ∧ g = fr ∧ off / 32 = f.sector.toNat ∧ mask.getLsbD (off % 32) = true) ↔
        (e ≠ 2 ∧ g = fr ∧ off / 8 = 4 * f.sector.toNat + f.lane.toNat ∧ f.mask.getLsbD (off % 8) = true) := by
      rw [hperformed, hbit _ (Nat.mod_lt _ (by decide)), Bool.and_eq_true, decide_eq_true_iff, show off % 32 % 8 = off % 8 by omega]
      constructor
      · rintro ⟨h1, h2, h3, h4, h5⟩
        exact ⟨h1, h2, by omega, h5⟩
      · rintro ⟨h1, h2, h3, h4⟩
        exact ⟨h1, h2, by omega, by omega, h4⟩
    by_cases hc : e ≠ 2 ∧ g = fr ∧ off / 8 = 4 * f.sector.toNat + f.lane.toNat ∧ f.mask.getLsbD (off % 8) = true
    · rw [if_pos (hplace.mpr hc), if_pos hc, List.getD_eq_getElem?_getD, List.getElem?_map, List.getElem?_range (Nat.mod_lt _ (by decide))]
      show data.getD (off % 32 - 8 * f.lane.toNat) 0 = _
      obtain ⟨-, -, hoff, -⟩ := hc
      congr 1
      omega
    · rw [if_neg fun h => hc (hplace.mp h), if_neg hc]

end

/-- Settles O38: each request by its own lemma, the checks of a port once (`cellar_go`, `cellar_busy`). -/
theorem cellarProtocol : Obligations.CellarProtocol := by
  intro s p stack port f hs key k owes plain w0 fr sec mru holds requests
  have hfr : fr = cfFrame stack f := (cfFrame_eq stack f).symm
  refine ⟨fun hfree => ⟨fun gpn hp hres hway hsec => ?_, fun hp hres => ⟨?_, fun data hd => ?_, fun data e hd he => ?_⟩,
    fun hres gpn data i hi hp => ?_, fun hp => ?_⟩, fun hbusy gpn data i hi => ?_, fun r hr pay e he => ?_⟩
  · obtain ⟨h1, h2, h3⟩ := lookup_rule hs hfree gpn hp hres hway hsec
    exact ⟨_, _, Tag.word_rule _ _, Tag.word_rule _ _, h1, fun hn hh => ⟨_, Tag.word_rule _ _, h2 hn hh⟩, h3⟩
  · obtain ⟨ws, hexec, hlen, hbytes⟩ := rd32_rule hs hfree hp hres hfr
    exact ⟨_, ws, k.ecc_rule fr sec, hexec, hlen, hbytes⟩
  · exact wrf32_rule hs hfree hp hres hfr data hd
  · exact wrm8_rule hs hfree hp hres hfr data he
  · unfold requests at hi
    simp only [List.mem_cons, List.not_mem_nil, or_false] at hi
    rcases hi with rfl | rfl | rfl | rfl
    · rw [if_pos rfl] at hp
      show execLookup p stack port f gpn s = _
      unfold execLookup
      exact cellar_res hs _ _ _ hp hfree hres
    · rw [if_neg (by simp)] at hp
      show execRd32 p stack port f s = _
      unfold execRd32
      exact cellar_res hs _ _ _ hp hfree hres
    · rw [if_neg (by simp)] at hp
      show execWrf32 p stack port f data s = _
      unfold execWrf32
      exact cellar_res hs _ _ _ hp hfree hres
    · rw [if_neg (by simp)] at hp
      show execWrm8 p stack port f data s = _
      unfold execWrm8
      exact cellar_res hs _ _ _ hp hfree hres
  · show Host.Outcome.next _ = _
    rw [if_neg]
    · rfl
    · rintro (h | h | h)
      · exact absurd hs (Nat.not_lt.mpr h)
      · exact absurd hp (Nat.not_lt.mpr h)
      · rw [show find (s.pkg p).ports (portKey stack port f.tag) = none from hfree] at h
        cases h
  · unfold requests at hi
    simp only [List.mem_cons, List.not_mem_nil, or_false] at hi
    rcases hi with rfl | rfl | rfl | rfl | rfl
    · exact congrArg Host.Outcome.next (if_pos (.inr (.inr hbusy)))
    · show execLookup p stack port f gpn s = _
      unfold execLookup
      exact cellar_busy _ _ _ hbusy
    · show execRd32 p stack port f s = _
      unfold execRd32
      exact cellar_busy _ _ _ hbusy
    · show execWrf32 p stack port f data s = _
      unfold execWrf32
      exact cellar_busy _ _ _ hbusy
    · show execWrm8 p stack port f data s = _
      unfold execWrm8
      exact cellar_busy _ _ _ hbusy
  · have hreply (kind : BitVec 3) :
        (find k.ports key = some (r.word kind :: pay) → s.reply p stack port r kind pay = s.updPkg p fun k => { k with ports := erase k.ports key }) ∧
          (find k.ports key ≠ some (r.word kind :: pay) → s.reply p stack port r kind pay = s) := by
      unfold State.reply
      rw [hr]
      exact ⟨fun h => if_pos h, fun h => if_neg h⟩
    simp only [List.mem_cons, List.not_mem_nil, or_false] at he
    rcases he with rfl | rfl | rfl | rfl | rfl
    all_goals exact ⟨fun h => congrArg Host.Outcome.next ((hreply _).1 h), fun h => congrArg Host.Outcome.next ((hreply _).2 h)⟩

end Sys2Proof.Machine

/-! PROOFS. Admission: the first of a list by an order, waiters, and what a core holds (O44). -/

namespace Sys2Proof.Machine

open Host

/-! ## The first of a list by an order -/

/-- A run that keeps the better of two finds the element that is better than every other. -/
theorem foldl_best {α : Type} (g : Option α → α → Option α) (lt : α → α → Bool) (hn : ∀ e, g none e = some e)
    (hs : ∀ x e, g (some x) e = if lt e x then some e else some x) {m : α} (l : List α) (acc : Option α)
    (hl : ∀ e ∈ l, e = m ∨ lt m e = true ∧ lt e m = false) (hacc : acc = some m ∨ m ∈ l ∧ ∀ x ∈ acc, lt m x = true) : l.foldl g acc = some m := by
  induction l generalizing acc with
  | nil =>
    rcases hacc with h | ⟨h, -⟩
    · exact h
    · cases h
  | cons e l ih =>
    rw [List.foldl_cons]
    have hl' : ∀ e ∈ l, e = m ∨ lt m e = true ∧ lt e m = false := fun e he => hl e (List.mem_cons_of_mem _ he)
    have he := hl e (List.mem_cons_self ..)
    refine ih _ hl' ?_
    rcases hacc with rfl | ⟨hm, hx⟩
    · rw [hs]
      rcases he with rfl | ⟨-, hno⟩
      · exact .inl (ite_self _)
      · rw [hno]
        exact .inl rfl
    · by_cases hem : e = m
      · cases acc with
        | none => exact .inl (by rw [hn, hem])
        | some x => exact .inl (by rw [hs, hem, hx x rfl]; rfl)
      · have hml : m ∈ l := (List.mem_cons.mp hm).resolve_left fun h => hem h.symm
        have hme := (he.resolve_left hem).1
        refine .inr ⟨hml, fun y hy => ?_⟩
        cases acc with
        | none =>
          rw [hn] at hy
          cases hy
          exact hme
        | some x =>
          rw [hs] at hy
          split at hy
          · cases hy
            exact hme
          · cases hy
            exact hx _ rfl

/-! ## Waiters (R310, R373) -/

section
variable {s : State} {core tk : Nat} {t : Team}

/-- A team waits for its admission on a core. -/
def Awaits (core : Nat) (e : Nat × Team) : Prop := coreOf e.1 = core ∧ e.1 < 138240 ∧ e.2.admitted = false ∧ e.2.stepping = none ∧
  (e.2.run = .running ∨ ∃ a, e.2.run = .parked (.admission a))

theorem mem_waiters (s : State) (core : Nat) (e : Nat × Team) : e ∈ s.waiters core ↔ e ∈ s.teams ∧ Awaits core e := by
  unfold State.waiters Awaits inImage
  rw [List.mem_filter]
  simp only [Bool.and_eq_true, beq_iff_eq, Bool.not_eq_true', decide_eq_false_iff_not, Nat.not_le, Option.isNone_iff_eq_none, and_assoc]
  refine and_congr_right fun _ => and_congr_right fun _ => and_congr_right fun _ => and_congr_right fun _ => and_congr_right fun _ => ?_
  constructor
  · intro h
    split at h
    · next hr => exact .inl hr
    · next a hr => exact .inr ⟨a, hr⟩
    · cases h
  · rintro (h | ⟨a, h⟩) <;> rw [h]

/-- The class of a waiter in the order of admission. -/
def Team.waitClass (u : Team) : Nat := if u.role = .reeve then 0 else if u.withdrawn then 1 else 2

theorem Team.isReeve_iff (u : Team) : u.isReeve = true ↔ u.role = .reeve := beq_iff_eq

theorem Team.before_iff (a b : Team) : a.before b = true ↔ a.waitClass < b.waitClass ∨ a.waitClass = b.waitClass ∧ a.admitSeq < b.admitSeq := by
  have hclass (u : Team) : (if u.isReeve then 0 else if u.withdrawn then 1 else 2) = u.waitClass := by
    unfold Team.waitClass
    simp only [Team.isReeve_iff]
  unfold Team.before
  simp only [hclass]
  by_cases h : a.waitClass = b.waitClass
  · rw [if_pos h, decide_eq_true_iff]
    omega
  · rw [if_neg h, decide_eq_true_iff]
    omega

theorem firstWaiter_none (h : ∀ e ∈ s.teams, ¬Awaits core e) : s.firstWaiter core = none := by
  have hnil : s.waiters core = [] := List.eq_nil_iff_forall_not_mem.mpr fun e he => h e ((mem_waiters s core e).mp he).1 ((mem_waiters s core e).mp he).2
  unfold State.firstWaiter
  rw [hnil]
  rfl

theorem firstWaiter_eq (hmem : (tk, t) ∈ s.teams) (hw : Awaits core (tk, t)) (hfirst : ∀ e ∈ s.teams, Awaits core e →
      e = (tk, t) ∨ t.waitClass < e.2.waitClass ∨ t.waitClass = e.2.waitClass ∧ t.admitSeq < e.2.admitSeq) : s.firstWaiter core = some (tk, t) := by
  unfold State.firstWaiter
  refine foldl_best _ (fun e x => e.2.before x.2) (fun _ => rfl) (fun _ _ => rfl) _ none (fun e he => ?_) (.inr ⟨(mem_waiters s core _).mpr ⟨hmem,
    hw⟩,
    fun x hx => (by cases hx)⟩)
  obtain ⟨hin, hwait⟩ := (mem_waiters s core e).mp he
  refine (hfirst e hin hwait).imp_right fun hlt => ⟨(Team.before_iff _ _).mpr hlt, ?_⟩
  rw [Bool.eq_false_iff]
  intro hb
  have := (Team.before_iff _ _).mp hb
  omega

/-- A team of a core holds its admission, and is not a reeve that another's want could take it from. -/
def Yields (core : Nat) (e : Nat × Team) : Prop := coreOf e.1 = core ∧ e.2.admitted = true ∧ e.2.role ≠ .reeve ∧ e.2.withdrawn = false

theorem yields_iff (core : Nat) (e : Nat × Team) :
    (coreOf e.1 == core && e.2.admitted && !e.2.isReeve && !e.2.withdrawn) = true ↔ Yields core e := by
  unfold Yields
  simp only [Bool.and_eq_true, beq_iff_eq, Bool.not_eq_true', and_assoc, ← Team.isReeve_iff, ne_eq, Bool.not_eq_true]

theorem lastAdmitted_none (h : ∀ e ∈ s.teams, ¬Yields core e) : s.lastAdmitted core = none := by
  unfold State.lastAdmitted
  rw [List.filter_eq_nil_iff.mpr fun e he hc => h e he ((yields_iff core e).mp hc)]
  rfl

theorem lastAdmitted_eq {v : Nat} {u : Team} (hmem : (v, u) ∈ s.teams) (hy : Yields core (v, u))
    (hlast : ∀ e ∈ s.teams, Yields core e → e = (v, u) ∨ e.2.admitSeq < u.admitSeq) : s.lastAdmitted core = some (v, u) := by
  unfold State.lastAdmitted
  refine foldl_best _ (fun e x => decide (x.2.admitSeq < e.2.admitSeq)) (fun _ => rfl) (fun x e => ?_) _ none (fun e he => ?_)
    (.inr ⟨List.mem_filter.mpr ⟨hmem, (yields_iff core _).mpr hy⟩, fun x hx => (by cases hx)⟩)
  · simp only [decide_eq_true_iff]
  · obtain ⟨hin, hc⟩ := List.mem_filter.mp he
    refine (hlast e hin ((yields_iff core e).mp hc)).imp_right fun hlt => ⟨decide_eq_true hlt, decide_eq_false ?_⟩
    exact Nat.not_lt.mpr (Nat.le_of_lt hlt)

/-- The bytes that admitted teams of a core hold, those that a test passes. -/
def heldBytes (s : State) (core : Nat) (p : Team → Bool) : Nat :=
  ((s.teams.filter fun e => coreOf e.1 == core && e.2.admitted && p e.2).map fun e => (e.2.lanes + 31) / 32 * 128 * e.2.allot).sum

theorem admittedBytes_eq (s : State) (core : Nat) : s.admittedBytes core = heldBytes s core fun _ => true := by
  unfold State.admittedBytes heldBytes
  rw [← List.sum_eq_foldl]
  simp only [Bool.and_true]
  rfl

/-- What is being withdrawn and what is not make what is held. -/
theorem heldBytes_split (s : State) (core : Nat) :
    heldBytes s core (fun _ => true) = heldBytes s core (fun u => u.withdrawn) + heldBytes s core fun u => !u.withdrawn := by
  unfold heldBytes
  induction s.teams with
  | nil => rfl
  | cons e l ih =>
    simp only [List.filter_cons]
    cases coreOf e.1 == core <;> cases e.2.admitted <;> cases e.2.withdrawn <;>
      simp only [Bool.and_true, Bool.and_false, Bool.not_true, Bool.not_false, if_true, if_false, Bool.false_eq_true,
        List.map_cons, List.sum_cons] at ih ⊢ <;> omega

theorem fits_iff (hcore : coreOf tk = core) (hadm : t.admitted = false) (a : Nat) :
    s.fits tk t a = true ↔ heldBytes s core (fun _ => true) + (t.lanes + 31) / 32 * 128 * a ≤ (s.core core).partition % 32 * 65536 := by
  unfold State.fits
  rw [hadm, hcore, admittedBytes_eq, decide_eq_true_iff]
  exact Iff.rfl

/-- The team that waits first is admitted where it fits; where not, a reeve has an admission withdrawn. -/
theorem teamAdmit_first (hteam : s.team tk = some t) (hfirst : s.firstWaiter core = some (tk,
  t)) (hcore : coreOf tk = core) (hadm : t.admitted = false)
    (a : Nat) (ha : t.wants = a) :
    (heldBytes s core (fun _ => true) + (t.lanes + 31) / 32 * 128 * a ≤ (s.core core).partition % 32 * 65536 →
      exec (.teamAdmit core) s = .next (s.bump.setTeam tk { t with
        allot := a, run := .running, admitted := true, withdrawn := false, admitSeq := s.fresh, readyAt := s.now })) ∧
    ((s.core core).partition % 32 * 65536 < heldBytes s core (fun _ => true) + (t.lanes + 31) / 32 * 128 * a →
      (t.role ≠ .reeve → exec (.teamAdmit core) s = .next s) ∧ (t.role = .reeve → exec (.teamAdmit core) s = .next (s.withdrawOne core t))) := by
  have hexec : exec (.teamAdmit core) s = .next (if s.fits tk t t.wants then s.letIn tk else if t.isReeve then s.withdrawOne core t else s) := by
    show Host.Outcome.next (match s.firstWaiter core with | none => s | some (tk, t) => _) = _
    rw [hfirst]
  rw [hexec, ha]
  refine ⟨fun h => ?_, fun h => ?_⟩
  · rw [if_pos ((fits_iff hcore hadm a).mpr h)]
    unfold State.letIn
    rw [State.updTeam_some (s := s.bump) hteam, ha]
  · rw [if_neg fun hf => absurd ((fits_iff hcore hadm a).mp hf) (Nat.not_le.mpr h)]
    exact ⟨fun hr => by rw [if_neg fun hc => hr ((Team.isReeve_iff t).mp hc)], fun hr => by rw [if_pos ((Team.isReeve_iff t).mpr hr)]⟩

theorem withdrawOne_enough (h : heldBytes s core (fun u => !u.withdrawn) + (t.lanes + 31) / 32 * 128 * t.wants ≤ (s.core core).partition % 32 * 65536) :
    s.withdrawOne core t = s := by
  have hleaving : ((s.teams.filter fun (e : Nat × Team) => coreOf e.1 == core && e.2.admitted && e.2.withdrawn).map fun e =>
      e.2.footprint e.2.allot).foldl (· + ·) 0 = heldBytes s core (fun u => u.withdrawn) := by
    rw [← List.sum_eq_foldl]
    rfl
  unfold State.withdrawOne
  dsimp only
  rw [hleaving, admittedBytes_eq, heldBytes_split, Nat.add_sub_cancel_left]
  exact if_pos h

theorem withdrawOne_more (h : (s.core core).partition % 32 * 65536 < heldBytes s core (fun u => !u.withdrawn) + (t.lanes + 31) / 32 * 128 * t.wants) :
    s.withdrawOne core t = (s.lastAdmitted core).elim s fun e => s.updTeam e.1 fun t => { t with withdrawn := true, admitted := t.word.isSome } := by
  have hleaving : ((s.teams.filter fun (e : Nat × Team) => coreOf e.1 == core && e.2.admitted && e.2.withdrawn).map fun e =>
      e.2.footprint e.2.allot).foldl (· + ·) 0 = heldBytes s core (fun u => u.withdrawn) := by
    rw [← List.sum_eq_foldl]
    rfl
  unfold State.withdrawOne
  dsimp only
  rw [hleaving, admittedBytes_eq, heldBytes_split, Nat.add_sub_cancel_left]
  refine (if_neg (Nat.not_le.mpr h)).trans ?_
  cases s.lastAdmitted core <;> rfl

end

/-- Settles O44: the first waiter and the last admitted by `foldl_best`, the bytes of a core by `heldBytes`. -/
theorem admission : Obligations.Admission := by
  intro s core tk t waits cls foot total room admits
  refine ⟨fun hno => ?_, fun hmem hteam hw hfirst => ?_⟩
  · show Host.Outcome.next (match s.firstWaiter core with | none => s | some (tk, t) => _) = _
    rw [firstWaiter_none hno]
  · have hone := firstWaiter_eq hmem hw hfirst
    obtain ⟨hcore, -, hadm, -, -⟩ := hw
    have hadmits (a : Nat) (ha : t.wants = a) : admits a := by
      obtain ⟨h1, h2⟩ := teamAdmit_first hteam hone hcore hadm a ha
      refine ⟨h1, fun hroom => ⟨(h2 hroom).1, fun hr => ⟨fun henough => ?_, fun hmore => ⟨fun hno => ?_, fun v u hin hu hy hlast => ?_⟩⟩⟩⟩
      · rw [(h2 hroom).2 hr, withdrawOne_enough (by rw [ha]; exact henough)]
      · rw [(h2 hroom).2 hr, withdrawOne_more (by rw [ha]; exact hmore), lastAdmitted_none hno]
        rfl
      · rw [(h2 hroom).2 hr, withdrawOne_more (by rw [ha]; exact hmore), lastAdmitted_eq hin hy hlast]
        exact congrArg Host.Outcome.next (State.updTeam_some hu _)
    refine ⟨fun hrun => hadmits _ ?_, fun a hrun => hadmits _ ?_⟩
    · unfold Team.wants
      rw [hrun]
    · unfold Team.wants
      rw [hrun]

end Sys2Proof.Machine

/-! PROOFS. A stream whose share has a reeve and no other team is killed for want of a ringer (O43). -/

namespace Sys2Proof.Machine

open Host

/-! ## A waiting stream beside a reeve (R211) -/

/-- The placed share, whose stream waits on bell 0 with nothing that has rung it. -/
def waitingShare : Share := { placedShare with stream := some { st := .waiting 0, spc := 0x20000, blocks := List.replicate 4 {} } }

/-- A reeve of the share is its only team: the teams that it served have ended. -/
def lastReeveState : State := ((State.reset.setShare 0 waitingShare).setGrid 0 placedGrid).setTeam 16 (placedTeam 0x17 0 1)

/-- The stream is killed although the reeve has not ended. -/
theorem lastReeveState_killed : (match exec (.streamDeadlockKill 0) lastReeveState with
    | .next s => (s.stream 0).map (·.st)
    | _ => none) = some .killed := by
  decide +kernel

/-- Refutes O43: the kill of a stream that waits on a bell that nothing can ring looks at the share's teams that are no reeves, so it comes also while
a reeve of the share is there still. -/
theorem not_coreEvents : ¬ Obligations.CoreEvents := by
  intro hall
  unfold Obligations.CoreEvents at hall
  obtain ⟨-, -, hstream⟩ := hall
  obtain ⟨hwait, -, -⟩ := hstream lastReeveState
  obtain ⟨-, hkeep, -⟩ := hwait 0 waitingShare { st := .waiting 0, spc := 0x20000, blocks := List.replicate 4 {} } 0 0 rfl rfl rfl rfl
  have hstays := hkeep fun hdead => hdead.1 (16, placedTeam 0x17 0 1) (by decide +kernel) rfl
  have hkilled := lastReeveState_killed
  rw [hstays] at hkilled
  revert hkilled
  decide +kernel

end Sys2Proof.Machine

/-! PROOFS. Boot stages and the reset of a package: the image's header in host memory, NEIGH at boot, what a reset leaves (R343, R368,
  R369). -/

namespace Sys2Proof.Machine

open Host

/-! ## Places filtered by their key -/

theorem getD_filter_key {α : Type} (d : α) (m : List (Nat × α)) (keep : Nat → Bool) (j : Nat) :
    getD d (m.filter fun e => keep e.1) j = if keep j then getD d m j else d := by
  unfold getD
  rw [find_filter_key]
  split <;> rfl

/-! ## Slices of host memory -/

theorem State.sliceOf_hostBytes (s : State) (a : Nat) {off n m : Nat} (h : off + n ≤ m) : sliceOf (s.hostBytes a m) off n = s.hostBytes (a + off) n := by
  unfold sliceOf State.hostBytes
  refine List.ext_getElem ?_ fun i h1 h2 => ?_
  · simp
    omega
  · simp [Nat.add_assoc]

theorem allZero_hostBytes (s : State) (a i j : Nat) : allZero (s.hostBytes (a + i) (j - i)) = true ↔ ∀ x, i ≤ x → x < j → s.hostByte (a + x) = 0 := by
  unfold allZero State.hostBytes
  simp only [List.all_map, List.all_eq_true, List.mem_range, Function.comp, beq_iff_eq]
  constructor
  · intro h x hi hj
    have := h (x - i) (by omega)
    rwa [show a + i + (x - i) = a + x from by omega] at this
  · intro h x hx
    rw [Nat.add_assoc]
    exact h (i + x) (by omega) (by omega)

/-- The header of a firmware image in host memory (Table 20-8). -/
theorem fwHeaderOk_hostBytes (s : State) (a : Nat) :
    let num (i n : Nat) : Nat := natOfBytes (s.hostBytes (a + i) n)
    let zero (i j : Nat) : Prop := ∀ x, i ≤ x → x < j → s.hostByte (a + x) = 0
    fwHeaderOk (s.hostBytes a 2048) = true ↔
      num 0 4 = 0x4B463957 ∧ zero 4 8 ∧ zero 0x18 0x40 ∧ zero 0x440 0x800 ∧ num 8 8 ≠ 0 ∧ num 8 8 % 4096 = 0 ∧ num 8 8 ≤ 67108864 := by
  intro num zero
  unfold fwHeaderOk fwBody
  rw [State.sliceOf_hostBytes s a (by decide), State.sliceOf_hostBytes s a (by decide), State.sliceOf_hostBytes s a (by decide),
    State.sliceOf_hostBytes s a (by decide), State.sliceOf_hostBytes s a (by decide)]
  simp only [Bool.and_eq_true, beq_iff_eq, bne_iff_ne, decide_eq_true_eq, and_assoc]
  rw [allZero_hostBytes s a 4 8, allZero_hostBytes s a 0x18 0x40, allZero_hostBytes s a 0x440 0x800]
  exact Iff.rfl

/-! ## NEIGH at boot (Table 10-13) -/

/-- The boot value of NEIGH: the four neighbours below the bits that stay. -/
theorem neighBoot_fields {p P : Nat} (hp : p < P) (hP : P ≤ 144) (old : Word) :
    let h := p / 12
    let m := min 12 (P - 12 * h)
    (neighBoot p P old).extractLsb' 32 32 = (old.extractLsb' 32 32 &&& 0x7F) ∧
    ((neighBoot p P old).extractLsb' 0 8).toNat = 12 * h + (p % 12 + 1) % m ∧
    ((neighBoot p P old).extractLsb' 8 8).toNat = 12 * h + (p % 12 + m - 1) % m ∧
    ((neighBoot p P old).extractLsb' 16 8).toNat = (p + 12) % P ∧ ((neighBoot p P old).extractLsb' 24 8).toNat = (p + 12 * P - 12) % P := by
  intro h m
  have hm : 0 < m := by omega
  have h0 : 12 * h + (p % 12 + 1) % m < 256 := by have := Nat.mod_lt (p % 12 + 1) hm; omega
  have h1 : 12 * h + (p % 12 + m - 1) % m < 256 := by have := Nat.mod_lt (p % 12 + m - 1) hm; omega
  have h2 : (p + 12) % P < 256 := by have := Nat.mod_lt (p + 12) (show 0 < P by omega); omega
  have h3 : (p + 12 * P - 12) % P < 256 := by have := Nat.mod_lt (p + 12 * P - 12) (show 0 < P by omega); omega
  unfold neighBoot
  dsimp only
  have low (i : Nat) (hi : i + 8 ≤ 32) : (old &&& 0x7F00000000).extractLsb' i 8 = 0#8 := by
    refine BitVec.eq_of_getLsbD_eq fun j hj => ?_
    rw [BitVec.getLsbD_extractLsb', BitVec.getLsbD_and]
    have hb : (0x7F00000000 : Word).getLsbD (i + j) = false := by
      have : i + j < 32 := by omega
      interval_cases hij : i + j <;> rfl
    rw [hb]
    simp
  have high : (old &&& 0x7F00000000).extractLsb' 32 32 = (old.extractLsb' 32 32 &&& 0x7F) := by
    rw [BitVec.extractLsb'_and]
    rfl
  change (((old &&& 0x7F00000000) ||| w64 ((12 * h + (p % 12 + 1) % m) + 2 ^ 8 * (12 * h + (p % 12 + m - 1) % m) + 2 ^ 16 * ((p + 12) % P) + 2 ^ 24 * ((p + 12 * P - 12) % P))).extractLsb' 32 32 = _ ∧ _)
  generalize 12 * h + (p % 12 + 1) % m = n0 at *
  generalize 12 * h + (p % 12 + m - 1) % m = n1 at *
  generalize (p + 12) % P = n2 at *
  generalize (p + 12 * P - 12) % P = n3 at *
  have hN : n0 + 2 ^ 8 * n1 + 2 ^ 16 * n2 + 2 ^ 24 * n3 < 2 ^ 64 := by omega
  have hv (i : Nat) (hi : i + 8 ≤ 32) : ((old &&& 0x7F00000000) ||| w64 (n0 + 2 ^ 8 * n1 + 2 ^ 16 * n2 + 2 ^ 24 * n3)).extractLsb' i 8 =
      BitVec.ofNat 8 ((n0 + 2 ^ 8 * n1 + 2 ^ 16 * n2 + 2 ^ 24 * n3) / 2 ^ i) := by
    rw [BitVec.extractLsb'_or, low i hi, BitVec.zero_or]
    refine BitVec.eq_of_toNat_eq ?_
    rw [BitVec.extractLsb'_toNat, BitVec.toNat_ofNat, w64, BitVec.toNat_ofNat, Nat.mod_eq_of_lt hN, Nat.shiftRight_eq_div_pow]
  refine ⟨?_, ?_, ?_, ?_, ?_⟩
  · rw [BitVec.extractLsb'_or, high]
    have hz : (w64 (n0 + 2 ^ 8 * n1 + 2 ^ 16 * n2 + 2 ^ 24 * n3)).extractLsb' 32 32 = 0#32 := by
      refine BitVec.eq_of_toNat_eq ?_
      rw [BitVec.extractLsb'_toNat, w64, BitVec.toNat_ofNat, Nat.mod_eq_of_lt hN, Nat.shiftRight_eq_div_pow, Nat.div_eq_of_lt (by omega)]
      rfl
    rw [hz, BitVec.or_zero]
  · rw [hv 0 (by decide), BitVec.toNat_ofNat]
    omega
  · rw [hv 8 (by decide), BitVec.toNat_ofNat]
    omega
  · rw [hv 16 (by decide), BitVec.toNat_ofNat]
    omega
  · rw [hv 24 (by decide), BitVec.toNat_ofNat]
    omega

/-! ## Boot stages (R368, R369) -/

/-- A package in a stage, with vector 6. -/
def State.atStage (s : State) (p : Nat) (k : Pkg) (stage err : Nat) : State := s.setPkg p (({ k with stage := stage, err := err } : Pkg).raiseVec 6)

theorem exec_fwVerify {s : State} {p : Nat} (hst : (s.pkg p).stage = 4) :
    let k := s.pkg p
    let img := (k.bootReg 0x10).toNat
    let h := s.hostBytes img 2048
    let body := s.hostBytes (img + 2048) (natOfBytes (s.hostBytes (img + 8) 8))
    let svn := natOfBytes (s.hostBytes (img + 0x10) 8)
    exec (.fwVerify p false) s = .next (s.atStage p k 7 1) ∧
    (fwHeaderOk h = false → exec (.fwVerify p true) s = .next (s.atStage p k 7 2)) ∧
    (fwHeaderOk h = true →
      (fwSigned h body = false → exec (.fwVerify p true) s = .next (s.atStage p k 7 3)) ∧
      (fwSigned h body = true → svn < k.minSvn → exec (.fwVerify p true) s = .next (s.atStage p k 7 4)) ∧
      (fwSigned h body = true → k.minSvn ≤ svn →
        exec (.fwVerify p true) s = .next (s.atStage p { k with svn := svn, minSvn := svn, imageHash := hash512 (h ++ body) } 5 0))) := by
  intro k img h body svn
  have hbody : fwBody h = natOfBytes (s.hostBytes (img + 8) 8) := by
    unfold fwBody
    rw [State.sliceOf_hostBytes s img (by decide)]
  have hsvn : natOfBytes (sliceOf h 0x10 8) = svn := by rw [State.sliceOf_hostBytes s img (by decide)]
  have hexec (ok : Bool) : exec (.fwVerify p ok) s = .next (if k.stage ≠ 4 then s
    else if !ok then s.atStage p k 7 1
    else if !fwHeaderOk h then s.atStage p k 7 2
    else if !fwSigned h (s.hostBytes (img + 2048) (fwBody h)) then s.atStage p k 7 3
    else if natOfBytes (sliceOf h 0x10 8) < k.minSvn then s.atStage p k 7 4
    else s.atStage p
      { k with svn := natOfBytes (sliceOf h 0x10 8), minSvn := max k.minSvn (natOfBytes (sliceOf h 0x10 8))
               imageHash := hash512 (h ++ s.hostBytes (img + 2048) (fwBody h)) } 5 0) := rfl
  rw [hbody, hsvn] at hexec
  have hst' : ¬k.stage ≠ 4 := not_not.mpr hst
  refine ⟨by rw [hexec, if_neg hst']; rfl, fun hh => by rw [hexec, if_neg hst', hh]; rfl, fun hh => ⟨fun hs => ?_, fun hs hlt => ?_,
    fun hs hle => ?_⟩⟩
  · rw [hexec, if_neg hst', hh, hs]; rfl
  · rw [hexec, if_neg hst', hh, hs, if_pos hlt]; rfl
  · rw [hexec, if_neg hst', hh, hs, if_neg (Nat.not_lt.mpr hle), Nat.max_eq_right hle]; rfl

/-! ## A reset (R9, R368) -/

/-- Under the reset mask a vector stays pending. -/
theorem Pkg.raiseVec_unset (k : Pkg) (h : k.msix = []) (vec : Nat) : k.raiseVec vec = { k with msixPend := put k.msixPend vec true } := by
  have hm : k.masked vec = true := by
    unfold Pkg.masked Pkg.msixWord getD
    rw [h, find_nil]
    decide
  unfold Pkg.raiseVec
  rw [if_pos hm]

/-- A package at its reset values whose STAGE was not 0 holds vector 6 pending. -/
theorem Pkg.restaged_unset (k : Pkg) (h : k.msix = []) (stage : Nat) :
    k.restaged stage = { k with msixPend := if stage = 0 then k.msixPend else put k.msixPend 6 true } := by
  unfold Pkg.restaged
  split
  · rfl
  · exact k.raiseVec_unset h 6

/-- What a reset leaves of a package that takes part in no page change. -/
theorem State.resetPkg_rule {s : State} {p : Nat} (hch : ∀ c ∈ s.changes, c.2.src ≠ p ∧ c.2.dst ≠ p) :
    let k := s.pkg p
    let X := s.resetPkg p
    X.pkg p = { resetAt := s.now, minSvn := k.minSvn, irqs := k.irqs, parish := (X.pkg p).parish, hamlet := (X.pkg p).hamlet,
                msixPend := if k.stage = 0 then [] else [(6, true)] } ∧
    (s.counted p = false → (X.pkg p).parish = [] ∧ (X.pkg p).hamlet = []) ∧
    (∀ q, q ≠ p → X.pkg q = s.pkg q) ∧ X.hostMem = s.hostMem ∧ X.now = s.now ∧ X.agenda = s.agenda ∧
    (∀ tk, X.team tk = if pkgOfTeam tk = p then none else s.team tk) ∧
    (∀ c, X.core c = if c / 48 = p then {} else s.core c) ∧ (∀ d, X.die d = if d / 4 = p then {} else s.die d) ∧
    (∀ e, e ∈ X.grids ↔ e ∈ s.grids ∧ e.2.pkg ≠ p) ∧ ∀ e ∈ X.packets, e.2.src ≠ p ∧ e.2.dst ≠ p := by
  intro k X
  have hno : s.changes.filter (fun (c : Nat × Change) => c.2.src == p || c.2.dst == p) = [] := by
    refine List.filter_eq_nil_iff.mpr fun c hc => ?_
    obtain ⟨h1, h2⟩ := hch c hc
    rw [beq_eq_false_iff_ne.mpr h1, beq_eq_false_iff_ne.mpr h2]
    decide
  have hX : X = s.resetPkg p := rfl
  unfold State.resetPkg at hX
  dsimp only at hX
  rw [hno, List.foldl_nil] at hX
  have hpkg : X.pkg p = (({ resetAt := s.now, minSvn := k.minSvn, irqs := k.irqs, parish := if s.counted p then k.parish else []
                            hamlet := if s.counted p then k.hamlet else [] } : Pkg).restaged k.stage) := by
    rw [hX]
    exact getD_put_same _ _ _ _
  refine ⟨?_, fun hc => ?_, fun q hq => ?_, ?_, ?_, ?_, fun tk => ?_, fun c => ?_, fun d => ?_, fun e => ?_, fun e he => ?_⟩
  · rw [hpkg, Pkg.restaged_unset _ rfl]
    rfl
  · rw [hpkg, hc, Pkg.restaged_unset _ rfl]
    exact ⟨rfl, rfl⟩
  · rw [hX]
    exact getD_put_other _ _ _ _ hq
  · rw [hX]
  · rw [hX]
  · rw [hX]
  · rw [hX]
    show find (s.teams.filter fun e => pkgOfTeam e.1 != p) tk = _
    rw [find_filter_key s.teams (fun n => pkgOfTeam n != p)]
    by_cases h : pkgOfTeam tk = p
    · rw [if_pos h, if_neg (by rw [h, bne_self_eq_false]; decide)]
    · rw [if_neg h, if_pos (bne_iff_ne.mpr h)]
      rfl
  · rw [hX]
    show getD {} (s.cores.filter fun e => pkgOf e.1 != p) c = _
    rw [getD_filter_key {} s.cores (fun n => pkgOf n != p)]
    by_cases h : c / 48 = p
    · rw [if_pos h, if_neg (by rw [show pkgOf c = p from h, bne_self_eq_false]; decide)]
    · rw [if_neg h, if_pos (bne_iff_ne.mpr (show pkgOf c ≠ p from h))]
      rfl
  · rw [hX]
    show getD {} (s.dies.filter fun e => e.1 / 4 != p) d = _
    rw [getD_filter_key {} s.dies (fun n => n / 4 != p)]
    by_cases h : d / 4 = p
    · rw [if_pos h, if_neg (by rw [h, bne_self_eq_false]; decide)]
    · rw [if_neg h, if_pos (bne_iff_ne.mpr h)]
      rfl
  · rw [hX]
    dsimp only
    rw [List.mem_filter, bne_iff_ne]
  · rw [hX] at he
    have := (List.mem_filter.mp he).2
    rwa [Bool.and_eq_true, bne_iff_ne, bne_iff_ne] at this

/-- Settles O41: each stage as the boot step's own definition has it, the image's checks on bytes of host memory, NEIGH by its fields, and the
reset by filters on keys of packages (log 55). -/
theorem bootStages : Obligations.BootStages := by
  unfold Obligations.BootStages
  intro s p k at_ goes
  refine ⟨fun h0 err => ?_, fun h1 => ⟨?_, fun err herr => ?_⟩, fun h2 => ?_, fun h3 => ?_, fun h4 => ?_, fun h5 P => ⟨?_, fun hp hP hcount => ?_⟩,
    ?_, fun hgt => ?_,
    fun hot => rfl, fun hch i hi => ?_⟩
  · show execBootRom p err s = _
    unfold execBootRom
    rw [h0]
    rfl
  · show execBootRom p 0 s = _
    unfold execBootRom
    rw [h1]
    rfl
  · show execBootRom p err s = _
    unfold execBootRom
    rw [h1]
    simp only [if_neg herr]
    rfl
  · show execCxlLinkTrained p s = _
    unfold execCxlLinkTrained
    rw [if_pos h2]
    rfl
  · show execHctlGo p s = _
    unfold execHctlGo
    rw [if_pos h3]
    rfl
  · intro img byte num zero header h body
    obtain ⟨hread, hbad, hgood⟩ := exec_fwVerify h4
    have hiff := fwHeaderOk_hostBytes s img
    refine ⟨hread, fun hno => hbad (Bool.eq_false_iff.mpr fun hok => hno (hiff.mp hok)), fun hhd => (hgood (hiff.mpr hhd)).1,
      fun hhd => (hgood (hiff.mpr hhd)).2.1,
      fun hhd => (hgood (hiff.mpr hhd)).2.2⟩
  · show execFabricBringup p P false s = _
    unfold execFabricBringup
    rw [if_neg (not_not.mpr h5)]
    rfl
  · intro miss
    refine ⟨neighBoot p P k.neigh, ?_, neighBoot_fields hp hP k.neigh⟩
    show execFabricBringup p P true s = _
    unfold execFabricBringup
    have hno : (decide (P ≤ p) || decide (Config.maxPackages < P) || s.counted p) = false := by
      rw [hcount, decide_eq_false (Nat.not_le.mpr hp), decide_eq_false (show ¬Config.maxPackages < P from Nat.not_lt.mpr hP)]
      rfl
    rw [if_neg (not_not.mpr h5), hno]
    rfl
  · intro e he hne
    have hcases : e = (Instr.cxlLinkTrained p, 2) ∨ e = (.hctlGo p, 3) ∨ e = (.fwVerify p true, 4) ∨ e = (.fabricBringup p 1 true,
      5) := by simpa using he
    obtain rfl | rfl | rfl | rfl := hcases
    · show execCxlLinkTrained p s = _
      unfold execCxlLinkTrained
      rw [if_neg hne]
    · show execHctlGo p s = _
      unfold execHctlGo
      rw [if_neg hne]
    · show execFwVerify p true s = _
      unfold execFwVerify
      exact congrArg _ (if_pos hne)
    · show execFabricBringup p 1 true s = _
      unfold execFabricBringup
      rw [if_pos hne]
  · show execBootRom p 0 s = _
    unfold execBootRom
    split
    · next h => rw [show k.stage = 0 from h] at hgt; omega
    · next h => rw [show k.stage = 1 from h] at hgt; omega
    · rfl
  · refine ⟨s.resetPkg p, ?_, State.resetPkg_rule hch⟩
    obtain ⟨rfl, hp⟩ | ⟨rfl, hr⟩ := hi
    · show execColdReset p s = _
      unfold execColdReset
      exact congrArg _ (if_pos hp)
    · show execHctlWarm p s = _
      unfold execHctlWarm
      exact congrArg _ (if_pos hr)

end Sys2Proof.Machine

/-! PROOFS. Host writes of BAR0: what each register reads behind a write, TAIL and what enters, EN, FSTAT, the MSI-X table (R7, R8, R300,
  R301, R360 to R365). -/

namespace Sys2Proof.Machine

open Host

/-! ## Reads of the blocks of BAR0 (R360) -/

/-- What each block of BAR0 reads at an offset, of two packages. -/
structure Pkg.ReadsAs (k X : Pkg) (p o : Nat) : Prop where
  boot : X.readBoot o = k.readBoot o
  cmd : ∀ n, o = 0x1000 + n → X.readCmd n = k.readCmd n
  sched : ∀ n, o = 0x2000 + n → X.readSched n = k.readSched n
  attr : ∀ n, o = 0x10000 + n → X.readAttr n = k.readAttr n
  fault : ∀ n, o = 0x20000 + n → X.readFault n = k.readFault n
  fabric : ∀ n, o = 0x21000 + n → X.readFabric p n = k.readFabric p n
  queue : ∀ n j, o = 0x100000 + 64 * n + j → j < 64 → (X.queueOf n).read j = (k.queueOf n).read j
  ctx : ∀ n j, o = 0x180000 + 8 * n + j → j < 8 → (X.queueOf n).ctx = (k.queueOf n).ctx
  msix : ∀ n j, o = 0x200000 + 16 * n + 8 * j → j < 2 → X.msixWord n j = k.msixWord n j
  pend : X.msixPend = k.msixPend

/-- A register reads the same of packages whose blocks read the same there. -/
theorem Pkg.ReadsAs.regRead {s : State} {p o : Nat} {X : Pkg} (h : (s.pkg p).ReadsAs X p o) : (s.setPkg p X).regRead p o = s.regRead p o := by
  unfold State.regRead
  rw [State.pkg_setPkg]
  dsimp only
  refine ite_congr rfl (fun _ => rfl) fun h8 => ite_congr rfl (fun _ => h.boot) fun h1 => ite_congr rfl (fun _ => h.cmd _ (by omega)) fun h2 =>
    ite_congr rfl (fun _ => h.sched _ (by omega)) fun h3 => ite_congr rfl (fun _ => rfl) fun h4 => ite_congr rfl (fun _ => h.attr _ (by omega)) fun h5 =>
    ite_congr rfl (fun _ => h.fault _ (by omega)) fun h6 => ite_congr rfl (fun _ => h.fabric _ (by omega)) fun h7 => ite_congr rfl (fun _ => rfl) fun h9 =>
    ite_congr rfl (fun _ => rfl) fun h10 => ite_congr rfl (fun _ => rfl) fun h11 => ite_congr rfl (fun _ => h.queue _ _ (by omega) (by omega)) fun h12 =>
    ite_congr rfl (fun _ => congrArg w64 (h.ctx _ (o % 8) (by omega) (by omega))) fun h13 => ite_congr rfl (fun _ => rfl) fun h14 =>
    ite_congr rfl (fun _ => h.msix _ _ (by omega) (by omega)) fun _ => ?_
  rw [h.pend]

theorem Pkg.ReadsAs.refl (k : Pkg) (p o : Nat) : k.ReadsAs k p o where
  boot := rfl
  cmd := fun _ _ => rfl
  sched := fun _ _ => rfl
  attr := fun _ _ => rfl
  fault := fun _ _ => rfl
  fabric := fun _ _ => rfl
  queue := fun _ _ _ _ => rfl
  ctx := fun _ _ _ _ => rfl
  msix := fun _ _ _ _ => rfl
  pend := rfl

/-! ## The blocks by their offsets -/

theorem Pkg.readSched_eq (k : Pkg) (n : Nat) : k.readSched n =
    if n = 0x00 then 0x100000 else if n = 0x08 then w64 k.ewin else if n = 0x10 then w64 k.wavail else if n = 0x18 then k.duty.setWidth 64
    else if n = 0x20 then k.overruns else if n = 0x28 then k.preempts else 0 := by
  unfold Pkg.readSched
  split <;> simp_all

theorem Pkg.readFabric_eq (k : Pkg) (p n : Nat) : k.readFabric p n =
    if n = 0x00 then (k.downEv ++ k.linkUp).setWidth 64 else if n = 0x08 then w64 (2 ^ 32 * k.fto + 2 ^ 24 * k.hbmiss + 2 ^ 16 * k.packwin + k.hbus)
    else if n = 0x10 then w64 ((if k.idMismatch then 2 ^ 16 else 0) + 2 ^ 8 * k.podsize + p) else if n = 0x18 then k.lostmap.extractLsb' 0 64
    else if n = 0x20 then k.lostmap.extractLsb' 64 64 else if n = 0x28 then k.lostmap.extractLsb' 128 64 else if n = 0x40 then k.flitsTx
    else if n = 0x48 then k.flitsRx else if n = 0x50 then k.packedRd else if n = 0x58 then k.resent else if n = 0x60 then k.timeouts
    else if n = 0x68 then k.noroute else 0 := by
  unfold Pkg.readFabric
  split <;> simp_all

theorem Queue.read_eq (x : Queue) (n : Nat) : x.read n =
    if n = 0x00 then w64 (64 * x.ring + x.log2n) else if n = 0x08 then x.head ++ x.tail else if n = 0x10 then w64 (2 ^ 32 * x.period + x.budget)
    else if n = 0x18 then w64 x.deadline else if n = 0x20 then w64 (2 ^ 32 * x.refill + x.pcap) else if n = 0x28 then BitVec.ofInt 64 x.balance
    else if n = 0x30 then
      w64 (2 ^ 32 * x.used + (if x.overrun then 8 else 0) + (if x.isBg then 4 else 0) + (if x.ringErr then 2 else 0) + if x.en then 1 else 0)
    else if n = 0x38 then w64 (if x.period = 0 then 0 else x.absdl) else 0 := by
  unfold Queue.read
  split <;> simp_all

/-! ## Packages of which one register has been written -/

section
variable (k : Pkg) (p : Nat) {o : Nat} (v : Word)

theorem Pkg.readsAs_writeBoot {n : Nat} (h : o ≠ n) : k.ReadsAs (k.writeBoot n v) p o := by
  have hboot (w : Word) : k.ReadsAs { k with boot := setD 0 k.boot n w } p o :=
    { Pkg.ReadsAs.refl k p o with
      boot := by
        unfold Pkg.readBoot Pkg.bootReg
        dsimp only
        rw [getD_setD_other _ _ _ _ h] }
  unfold Pkg.writeBoot
  split
  · exact .refl k p o
  split
  · exact hboot _
  split
  · exact hboot v
  · exact .refl k p o

theorem Pkg.readsAs_writeArg {n : Nat} (h : o ≠ 0x1000 + n) (h8 : o % 8 = 0) (hn8 : n % 8 = 0) (hn : n < 0x20) : k.ReadsAs (k.writeCmd n v) p o := by
  unfold Pkg.writeCmd
  rw [if_pos hn]
  exact { Pkg.ReadsAs.refl k p o with
    cmd := fun m hm => by
      unfold Pkg.readCmd Pkg.arg
      dsimp only
      rw [getD_setD_other _ _ _ _ (show m / 8 ≠ n / 8 by omega)] }

theorem Pkg.readsAs_writeSched {n : Nat} (h : o ≠ 0x2000 + n) : k.ReadsAs (k.writeSched n v) p o := by
  unfold Pkg.writeSched
  split
  · exact { Pkg.ReadsAs.refl k p o with sched := fun m hm => by simp only [Pkg.readSched_eq, show m ≠ 0x08 by omega, if_false] }
  · exact { Pkg.ReadsAs.refl k p o with sched := fun m hm => by simp only [Pkg.readSched_eq, show m ≠ 0x18 by omega, if_false] }
  · exact { Pkg.ReadsAs.refl k p o with sched := fun m hm => by simp only [Pkg.readSched_eq, show m ≠ 0x20 by omega, if_false] }
  · exact { Pkg.ReadsAs.refl k p o with sched := fun m hm => by simp only [Pkg.readSched_eq, show m ≠ 0x28 by omega, if_false] }
  · exact .refl k p o

theorem Pkg.readsAs_writeAttr {n : Nat} (h : o ≠ 0x10000 + n) (h8 : o % 8 = 0) (hn8 : n % 8 = 0) : k.ReadsAs (k.writeAttr n v) p o := by
  unfold Pkg.writeAttr
  split
  · exact { Pkg.ReadsAs.refl k p o with attr := fun m hm => by simp only [Pkg.readAttr, show m ≠ 0x00 by omega, if_false]; rfl }
  split
  · exact { Pkg.ReadsAs.refl k p o with attr := fun m hm => by simp only [Pkg.readAttr, show m ≠ 0x08 by omega, if_false]; rfl }
  split
  · exact { Pkg.ReadsAs.refl k p o with attr := fun m hm => by simp only [Pkg.readAttr, show m ≠ 0x10 by omega, if_false]; rfl }
  split
  · exact { Pkg.ReadsAs.refl k p o with attr := fun m hm => by simp only [Pkg.readAttr, show m ≠ 0x18 by omega, if_false]; rfl }
  split
  · exact { Pkg.ReadsAs.refl k p o with attr := fun m hm => by simp only [Pkg.readAttr, show m ≠ 0x20 by omega, if_false]; rfl }
  split
  · next hn =>
    exact { Pkg.ReadsAs.refl k p o with
      attr := fun m hm => by
        unfold Pkg.readAttr Pkg.policy
        dsimp only
        by_cases hm' : 0x40 ≤ m ∧ m < 0xC0
        · rw [getD_put_other _ _ _ _ (show (m - 0x40) / 8 ≠ (n - 0x40) / 8 by simp at hn; omega)]
        · rw [show (decide (0x40 ≤ m) && decide (m < 0xC0)) = false by simp; omega]
          rfl }
  split
  · next hn =>
    exact { Pkg.ReadsAs.refl k p o with
      attr := fun m hm => by
        unfold Pkg.readAttr
        dsimp only
        by_cases hm' : 0x100 ≤ m ∧ m < 0x180
        · rw [getD_setD_other _ _ _ _ (show (m - 0x100) / 8 ≠ (n - 0x100) / 8 by simp at hn; omega)]
          rfl
        · rw [show (decide (0x100 ≤ m) && decide (m < 0x180)) = false by simp; omega]
          rfl }
  · exact .refl k p o

theorem Pkg.readsAs_wdog (h : o ≠ 0x20008) (w : BitVec 16) : k.ReadsAs { k with wdog := w } p o :=
  { Pkg.ReadsAs.refl k p o with fault := fun m hm => by simp only [Pkg.readFault, show m ≠ 0x08 by omega, if_false] }

theorem Pkg.readsAs_freezes (h : o ≠ 0x20018) : k.ReadsAs { k with freezes := v } p o :=
  { Pkg.ReadsAs.refl k p o with fault := fun m hm => by simp only [Pkg.readFault, show m ≠ 0x18 by omega, if_false] }

theorem Pkg.readsAs_spawns (h : o ≠ 0x20020) : k.ReadsAs { k with spawns := v } p o :=
  { Pkg.ReadsAs.refl k p o with fault := fun m hm => by simp only [Pkg.readFault, show m ≠ 0x20 by omega, if_false] }

theorem Pkg.readsAs_writeFabric {n : Nat} (h : o ≠ 0x21000 + n) : k.ReadsAs (k.writeFabric n v) p o := by
  unfold Pkg.writeFabric
  split
  · exact { Pkg.ReadsAs.refl k p o with fabric := fun m hm => by simp only [Pkg.readFabric_eq, show m ≠ 0x00 by omega, if_false] }
  · exact { Pkg.ReadsAs.refl k p o with fabric := fun m hm => by simp only [Pkg.readFabric_eq, show m ≠ 0x08 by omega, if_false] }
  · exact { Pkg.ReadsAs.refl k p o with fabric := fun m hm => by simp only [Pkg.readFabric_eq, show m ≠ 0x10 by omega, if_false] }
  · exact { Pkg.ReadsAs.refl k p o with fabric := fun m hm => by simp only [Pkg.readFabric_eq, show m ≠ 0x40 by omega, if_false] }
  · exact { Pkg.ReadsAs.refl k p o with fabric := fun m hm => by simp only [Pkg.readFabric_eq, show m ≠ 0x48 by omega, if_false] }
  · exact { Pkg.ReadsAs.refl k p o with fabric := fun m hm => by simp only [Pkg.readFabric_eq, show m ≠ 0x50 by omega, if_false] }
  · exact { Pkg.ReadsAs.refl k p o with fabric := fun m hm => by simp only [Pkg.readFabric_eq, show m ≠ 0x58 by omega, if_false] }
  · exact { Pkg.ReadsAs.refl k p o with fabric := fun m hm => by simp only [Pkg.readFabric_eq, show m ≠ 0x60 by omega, if_false] }
  · exact { Pkg.ReadsAs.refl k p o with fabric := fun m hm => by simp only [Pkg.readFabric_eq, show m ≠ 0x68 by omega, if_false] }
  · exact .refl k p o

theorem Pkg.queueOf_updQ (q : Nat) (f : Queue → Queue) (n : Nat) : (k.updQ q f).queueOf n = if n = q then f (k.queueOf q) else k.queueOf n := by
  unfold Pkg.updQ Pkg.queueOf
  split
  · next h => rw [h, getD_put_same]
  · next h => rw [getD_put_other _ _ _ _ h]

theorem Queue.write_ctx (x : Queue) (j : Nat) : (x.write j v).ctx = x.ctx := by
  unfold Queue.write
  split <;> rfl

/-- A word of a queue block reads as before behind a write of another one, but the words that PERIOD shows in. -/
theorem Queue.read_write_other (x : Queue) {i j : Nat} (h : i ≠ j) (hper : j = 0x10 → i ≠ 0x30 ∧ i ≠ 0x38) : (x.write j v).read i = x.read i := by
  unfold Queue.write
  split
  · simp only [Queue.read_eq, h, if_false, Queue.isBg]
    rfl
  · obtain ⟨h1, h2⟩ := hper rfl
    rw [Queue.read_eq, Queue.read_eq]
    exact ite_congr rfl (fun _ => rfl) fun _ => ite_congr rfl (fun _ => rfl) fun _ => ite_congr rfl (fun h' => absurd h' h) fun _ =>
      ite_congr rfl (fun _ => rfl) fun _ => ite_congr rfl (fun _ => rfl) fun _ => ite_congr rfl (fun _ => rfl) fun _ =>
      ite_congr rfl (fun h' => absurd h' h1) fun _ => ite_congr rfl (fun h' => absurd h' h2) fun _ => rfl
  · simp only [Queue.read_eq, h, if_false, Queue.isBg]
    rfl
  · simp only [Queue.read_eq, h, if_false, Queue.isBg]
    rfl
  · simp only [Queue.read_eq, h, if_false, Queue.isBg]
    rfl
  · rfl

theorem Pkg.readsAs_writeQueue {q j : Nat} (h : o ≠ 0x100000 + 64 * q + j)
    (hper : j = 0x10 → o ≠ 0x100000 + 64 * q + 0x30 ∧ o ≠ 0x100000 + 64 * q + 0x38) : k.ReadsAs (k.updQ q (·.write j v)) p o :=
  { Pkg.ReadsAs.refl k p o with
    queue := fun n i hi hlt => by
      rw [Pkg.queueOf_updQ]
      split
      · next hn =>
        rw [hn]
        refine Queue.read_write_other v _ (by omega) fun hj' => ?_
        obtain ⟨h1, h2⟩ := hper hj'
        omega
      · rfl
    ctx := fun n i _ _ => by
      rw [Pkg.queueOf_updQ]
      split
      · next hn => rw [hn, Queue.write_ctx]
      · rfl }

theorem Pkg.readsAs_writeCtx {q : Nat} (h8 : o % 8 = 0) (h : o ≠ 0x180000 + 8 * q) (w : Nat) : k.ReadsAs (k.updQ q fun x => { x with ctx := w }) p o :=
  { Pkg.ReadsAs.refl k p o with
    queue := fun n i _ _ => by
      rw [Pkg.queueOf_updQ]
      split
      · next hn => rw [hn]; rfl
      · rfl
    ctx := fun n i hi hlt => by
      rw [Pkg.queueOf_updQ, if_neg (by omega)] }

theorem Pkg.readsAs_writeMsix {n : Nat} (h : o ≠ 0x200000 + 8 * n) : k.ReadsAs { k with msix := put k.msix n v } p o :=
  { Pkg.ReadsAs.refl k p o with
    msix := fun m j hm hj => by
      unfold Pkg.msixWord
      dsimp only
      rw [getD_put_other _ _ _ _ (by omega)] }

end

/-! ## The bits that a register keeps -/

theorem w64_wlo (v : Word) : w64 (wlo v) = v &&& 0xFFFFFFFF := by
  refine BitVec.eq_of_toNat_eq ?_
  rw [BitVec.toNat_and, w64, wlo, BitVec.toNat_ofNat, show (0xFFFFFFFF : Word).toNat = 2 ^ 32 - 1 from rfl, Nat.and_two_pow_sub_one_eq_mod]
  omega

theorem w64_mod_two_pow (v : Word) {n : Nat} (hn : n ≤ 64) : w64 (v.toNat % 2 ^ n) = v &&& BitVec.ofNat 64 (2 ^ n - 1) := by
  have hle : 2 ^ n ≤ 2 ^ 64 := Nat.pow_le_pow_right (by decide) hn
  have hpos : 0 < 2 ^ n := Nat.two_pow_pos n
  have hlt : v.toNat % 2 ^ n < 2 ^ n := Nat.mod_lt _ hpos
  refine BitVec.eq_of_toNat_eq ?_
  rw [BitVec.toNat_and, w64, BitVec.toNat_ofNat, BitVec.toNat_ofNat, Nat.mod_eq_of_lt (a := 2 ^ n - 1) (by omega), Nat.and_two_pow_sub_one_eq_mod,
    Nat.mod_eq_of_lt (by omega)]

theorem setWidth_setWidth_mask (v : Word) {n : Nat} (hn : n ≤ 64) : (v.setWidth n).setWidth 64 = v &&& BitVec.ofNat 64 (2 ^ n - 1) := by
  rw [← w64_mod_two_pow v hn]
  refine BitVec.eq_of_toNat_eq ?_
  rw [w64, BitVec.toNat_setWidth, BitVec.toNat_setWidth, BitVec.toNat_ofNat]

theorem w64_halves (v : Word) : w64 (2 ^ 32 * whi v + wlo v) = v := by
  refine BitVec.eq_of_toNat_eq ?_
  rw [w64, whi, wlo, BitVec.toNat_ofNat, Nat.div_add_mod, Nat.mod_eq_of_lt v.isLt]

/-- The link timers of Table 18-3 in their fields. -/
theorem w64_timers (v : Word) : w64 (2 ^ 32 * (whi v % 2 ^ 16) + 2 ^ 24 * (wlo v / 2 ^ 24) + 2 ^ 16 * (wlo v / 2 ^ 16 % 256) + wlo v % 2 ^ 16) = v &&& 0xFFFFFFFFFFFF := by
  rw [show (0xFFFFFFFFFFFF : Word) = BitVec.ofNat 64 (2 ^ 48 - 1) from rfl, ← w64_mod_two_pow v (by decide)]
  refine congrArg w64 ?_
  unfold whi wlo
  omega

/-- A ring's base with its size, of which bit 5 is reserved. -/
theorem w64_ring (v : Word) : w64 (64 * (v.toNat / 64) + v.toNat % 32) = v &&& (BitVec.allOnes 64 - 0x20) := by
  have hmask : ∀ i < 64, (BitVec.allOnes 64 - 0x20).getLsbD i = !decide (i = 5) := by decide
  refine BitVec.eq_of_getLsbD_eq fun i hi => ?_
  have hbit : (64 * (v.toNat / 64) + v.toNat % 32).testBit i = if i < 6 then (v.toNat % 2 ^ 5).testBit i else (v.toNat / 2 ^ 6).testBit (i - 6) :=
    Nat.testBit_two_pow_mul_add _ (show v.toNat % 32 < 2 ^ 6 by omega) i
  rw [BitVec.getLsbD_and, hmask i hi, w64, BitVec.getLsbD_ofNat, decide_eq_true hi, Bool.true_and, hbit, ← BitVec.testBit_toNat]
  split
  · rw [Nat.testBit_mod_two_pow]
    by_cases h5 : i = 5
    · rw [decide_eq_false (show ¬i < 5 by omega), decide_eq_true h5, Bool.false_and, Bool.not_true, Bool.and_false]
    · rw [decide_eq_true (show i < 5 by omega), decide_eq_false h5, Bool.true_and, Bool.not_false, Bool.and_true]
  · rw [Nat.testBit_div_two_pow, decide_eq_false (show ¬i = 5 by omega), Bool.not_false, Bool.and_true, Nat.sub_add_cancel (by omega)]

/-! ## A write of a register with bits of its own -/

/-- A host write of a register sets its own bits, which a mask gives, and what no other register reads (R8); PERIOD shows in two more words. -/
def State.SetsReg (s : State) (p off : Nat) (v mask : Word) : Prop :=
  ∃ X, exec (.registerWrite p off v) s = .next (s.setPkg p X) ∧ (s.setPkg p X).regRead p off = v &&& mask ∧
    ∀ o, o ≠ off → (0x100000 ≤ off → off < 0x180000 → off % 64 = 0x10 → o ≠ off + 0x20 ∧ o ≠ off + 0x28) → (s.setPkg p X).regRead p o = s.regRead p o

theorem State.SetsReg.of_readsAs {s : State} {p off : Nat} {v mask : Word} {X : Pkg} (hr : (s.pkg p).reachable = true)
    (hexec : s.regWrite p off v = s.setPkg p X) (hread : (s.setPkg p X).regRead p off = v &&& mask)
    (hframe : ∀ o, o ≠ off → o % 8 = 0 → (0x100000 ≤ off → off < 0x180000 → off % 64 = 0x10 → o ≠ off + 0x20 ∧ o ≠ off + 0x28) → (s.pkg p).ReadsAs X p o) :
    s.SetsReg p off v mask := by
  refine ⟨X, ?_, hread, fun o ho hper => ?_⟩
  · show execRegisterWrite p off v s = _
    unfold execRegisterWrite
    rw [if_pos hr, hexec]
  · by_cases h8 : o % 8 = 0
    · exact (hframe o ho h8 hper).regRead
    · unfold State.regRead
      exact (if_pos h8).trans (if_pos h8).symm

section
variable (s : State) (p : Nat) {off : Nat} (v : Word) (h8 : off % 8 = 0)
include h8

theorem State.regWrite_boot (h : off < 0x1000) : s.regWrite p off v = s.setPkg p ((s.pkg p).writeBoot off v) := by
  unfold State.regWrite
  rw [if_neg (not_not.mpr h8), if_pos h]
  rfl

theorem State.regWrite_cmd {n : Nat} (hn : n < 0x1000) (h : off = 0x1000 + n) : s.regWrite p off v = s.setPkg p ((s.pkg p).writeCmd n v) := by
  unfold State.regWrite
  rw [if_neg (not_not.mpr h8), if_neg (by omega), if_pos (by omega), show off - 0x1000 = n by omega]
  rfl

theorem State.regWrite_sched {n : Nat} (hn : n < 0x1000) (h : off = 0x2000 + n) : s.regWrite p off v = s.setPkg p ((s.pkg p).writeSched n v) := by
  unfold State.regWrite
  rw [if_neg (not_not.mpr h8), if_neg (by omega), if_neg (by omega), if_pos (by omega), show off - 0x2000 = n by omega]
  rfl

theorem State.regWrite_attr {n : Nat} (hn : n < 0x10000) (h : off = 0x10000 + n) : s.regWrite p off v = s.setPkg p ((s.pkg p).writeAttr n v) := by
  unfold State.regWrite
  rw [if_neg (not_not.mpr h8), if_neg (by omega), if_neg (by omega), if_neg (by omega), if_neg (by omega), if_pos (by omega),
    show off - 0x10000 = n by omega]
  rfl

theorem State.regWrite_fault {n : Nat} (hn : n < 0x1000) (h : off = 0x20000 + n) : s.regWrite p off v = s.writeFault p n v := by
  unfold State.regWrite
  rw [if_neg (not_not.mpr h8), if_neg (by omega), if_neg (by omega), if_neg (by omega), if_neg (by omega), if_neg (by omega), if_pos (by omega),
    show off - 0x20000 = n by omega]

theorem State.regWrite_fabric {n : Nat} (hn : n < 0x1000) (h : off = 0x21000 + n) : s.regWrite p off v = s.setPkg p ((s.pkg p).writeFabric n v) := by
  unfold State.regWrite
  rw [if_neg (not_not.mpr h8), if_neg (by omega), if_neg (by omega), if_neg (by omega), if_neg (by omega), if_neg (by omega), if_neg (by omega),
    if_pos (by omega),
    show off - 0x21000 = n by omega]
  rfl

theorem State.regWrite_idle {c : Nat} (hc : c < 48) (h : off = 0x40000 + 4096 * c) : s.regWrite p off v = s.updCore (48 * p + c) (·.writeIdle v) := by
  unfold State.regWrite
  rw [if_neg (not_not.mpr h8), if_neg (by omega), if_neg (by omega), if_neg (by omega), if_neg (by omega), if_neg (by omega), if_neg (by omega),
    if_neg (by omega),
    if_neg (by omega), if_pos (by omega), if_pos (by omega), show (off - 0x40000) / 4096 = c by omega]

theorem State.regWrite_queue {q j : Nat} (hq : q < 8192) (hj : j < 64) (h : off = 0x100000 + 64 * q + j) :
    s.regWrite p off v = s.setPkg p ((s.pkg p).updQ q (·.write j v)) := by
  unfold State.regWrite
  rw [if_neg (not_not.mpr h8), if_neg (by omega), if_neg (by omega), if_neg (by omega), if_neg (by omega), if_neg (by omega), if_neg (by omega),
    if_neg (by omega),
    if_neg (by omega), if_neg (by omega), if_neg (by omega), if_pos (by omega), show (off - 0x100000) / 64 = q by omega, show off % 64 = j by omega]
  rfl

theorem State.regWrite_ctx {q : Nat} (hq : q < 8192) (h : off = 0x180000 + 8 * q) :
    s.regWrite p off v = s.setPkg p ((s.pkg p).updQ q fun x => { x with ctx := v.toNat % 4096 }) := by
  unfold State.regWrite
  rw [if_neg (not_not.mpr h8), if_neg (by omega), if_neg (by omega), if_neg (by omega), if_neg (by omega), if_neg (by omega), if_neg (by omega),
    if_neg (by omega),
    if_neg (by omega), if_neg (by omega), if_neg (by omega), if_neg (by omega), if_pos (by omega), show (off - 0x180000) / 8 = q by omega]
  rfl

theorem State.regWrite_msix {n : Nat} (hn : n < 2048) (h : off = 0x200000 + 16 * n) :
    s.regWrite p off v = s.setPkg p { s.pkg p with msix := put (s.pkg p).msix (2 * n) v } := by
  unfold State.regWrite
  rw [if_neg (not_not.mpr h8), if_neg (by omega), if_neg (by omega), if_neg (by omega), if_neg (by omega), if_neg (by omega), if_neg (by omega),
    if_neg (by omega),
    if_neg (by omega), if_neg (by omega), if_neg (by omega), if_neg (by omega), if_neg (by omega), if_neg (by omega), if_pos (by simp; omega),
    show (off - 0x200000) / 8 = 2 * n by omega]
  rfl

end

section
variable (s : State) (p : Nat) {off : Nat} (h8 : off % 8 = 0)
include h8

theorem State.regRead_boot (h : off < 0x1000) : s.regRead p off = (s.pkg p).readBoot off := by
  unfold State.regRead
  rw [if_neg (not_not.mpr h8), if_pos h]

theorem State.regRead_cmd {n : Nat} (hn : n < 0x1000) (h : off = 0x1000 + n) : s.regRead p off = (s.pkg p).readCmd n := by
  unfold State.regRead
  rw [if_neg (not_not.mpr h8), if_neg (by omega), if_pos (by omega), show off - 0x1000 = n by omega]

theorem State.regRead_sched {n : Nat} (hn : n < 0x1000) (h : off = 0x2000 + n) : s.regRead p off = (s.pkg p).readSched n := by
  unfold State.regRead
  rw [if_neg (not_not.mpr h8), if_neg (by omega), if_neg (by omega), if_pos (by omega), show off - 0x2000 = n by omega]

theorem State.regRead_attr {n : Nat} (hn : n < 0x10000) (h : off = 0x10000 + n) : s.regRead p off = (s.pkg p).readAttr n := by
  unfold State.regRead
  rw [if_neg (not_not.mpr h8), if_neg (by omega), if_neg (by omega), if_neg (by omega), if_neg (by omega), if_pos (by omega),
    show off - 0x10000 = n by omega]

theorem State.regRead_fault {n : Nat} (hn : n < 0x1000) (h : off = 0x20000 + n) : s.regRead p off = (s.pkg p).readFault n := by
  unfold State.regRead
  rw [if_neg (not_not.mpr h8), if_neg (by omega), if_neg (by omega), if_neg (by omega), if_neg (by omega), if_neg (by omega), if_pos (by omega),
    show off - 0x20000 = n by omega]

theorem State.regRead_fabric {n : Nat} (hn : n < 0x1000) (h : off = 0x21000 + n) : s.regRead p off = (s.pkg p).readFabric p n := by
  unfold State.regRead
  rw [if_neg (not_not.mpr h8), if_neg (by omega), if_neg (by omega), if_neg (by omega), if_neg (by omega), if_neg (by omega), if_neg (by omega),
    if_pos (by omega), show off - 0x21000 = n by omega]

theorem State.regRead_queue {q j : Nat} (hq : q < 8192) (hj : j < 64) (h : off = 0x100000 + 64 * q + j) : s.regRead p off = ((s.pkg p).queueOf q).read j := by
  unfold State.regRead
  rw [if_neg (not_not.mpr h8), if_neg (by omega), if_neg (by omega), if_neg (by omega), if_neg (by omega), if_neg (by omega), if_neg (by omega),
    if_neg (by omega), if_neg (by omega), if_neg (by omega), if_neg (by omega), if_pos (by omega), show (off - 0x100000) / 64 = q by omega,
      show off % 64 = j by omega]

theorem State.regRead_ctx {q : Nat} (hq : q < 8192) (h : off = 0x180000 + 8 * q) : s.regRead p off = w64 ((s.pkg p).queueOf q).ctx := by
  unfold State.regRead
  rw [if_neg (not_not.mpr h8), if_neg (by omega), if_neg (by omega), if_neg (by omega), if_neg (by omega), if_neg (by omega), if_neg (by omega),
    if_neg (by omega), if_neg (by omega), if_neg (by omega), if_neg (by omega), if_neg (by omega), if_pos (by omega),
      show (off - 0x180000) / 8 = q by omega]

theorem State.regRead_msix {n j : Nat} (hn : n < 2048) (hj : j < 2) (h : off = 0x200000 + 16 * n + 8 * j) : s.regRead p off = (s.pkg p).msixWord n j := by
  unfold State.regRead
  rw [if_neg (not_not.mpr h8), if_neg (by omega), if_neg (by omega), if_neg (by omega), if_neg (by omega), if_neg (by omega), if_neg (by omega),
    if_neg (by omega), if_neg (by omega), if_neg (by omega), if_neg (by omega), if_neg (by omega), if_neg (by omega), if_neg (by omega),
      if_pos (by omega), show (off - 0x200000) / 16 = n by omega, show off / 8 % 2 = j by omega]

end

/-! ## The registers of Table 20-1 that the host may write whole -/

section
variable {s : State} {p : Nat} (hr : (s.pkg p).reachable = true) {off : Nat} (v : Word) (h8 : off % 8 = 0)
include hr h8

theorem State.setsReg_boot (hlo : 0x010 ≤ off) (hhi : off ≤ 0x058) (h48 : off ≠ 0x048) :
    s.SetsReg p off v (if off = 0x050 then 0xFFF else BitVec.allOnes 64) := by
  have hrange : (decide (0x010 ≤ off) && decide (off ≤ 0x058)) = true := by rw [decide_eq_true hlo, decide_eq_true hhi]; rfl
  have hread (w : Word) : ({ s.pkg p with boot := setD 0 (s.pkg p).boot off w } : Pkg).readBoot off = w := by
    unfold Pkg.readBoot Pkg.bootReg
    rw [if_neg (by omega), if_neg h48, hrange]
    exact getD_setD_same _ _ _ _
  refine .of_readsAs hr (s.regWrite_boot p v h8 (by omega)) ?_ fun o ho _ _ => Pkg.readsAs_writeBoot _ p v ho
  rw [State.regRead_boot _ p h8 (by omega), State.pkg_setPkg]
  unfold Pkg.writeBoot
  rw [if_neg h48]
  split
  · exact hread _
  · rw [BitVec.and_allOnes]
    exact hread v

theorem State.setsReg_arg (hlo : 0x1000 ≤ off) (hhi : off < 0x1020) : s.SetsReg p off v (BitVec.allOnes 64) := by
  obtain ⟨n, rfl⟩ := Nat.exists_eq_add_of_le hlo
  refine .of_readsAs hr (s.regWrite_cmd p v h8 (show n < 0x1000 by omega) rfl) ?_ fun o ho ho8 _ =>
    Pkg.readsAs_writeArg _ p v ho ho8 (by omega) (by omega)
  rw [State.regRead_cmd _ p h8 (show n < 0x1000 by omega) rfl, State.pkg_setPkg, BitVec.and_allOnes]
  unfold Pkg.writeCmd Pkg.readCmd Pkg.arg
  rw [if_pos (by omega), if_pos (by omega)]
  exact getD_setD_same _ _ _ _

theorem State.setsReg_sched {n : Nat} {mask : Word} (hn : n < 0x1000) (hoff : off = 0x2000 + n) (hread : ((s.pkg p).writeSched n v).readSched n = v &&& mask) :
    s.SetsReg p off v mask := by
  refine .of_readsAs hr (s.regWrite_sched p v h8 hn hoff) ?_ fun o ho _ _ => Pkg.readsAs_writeSched _ p v fun h => ho (h.trans hoff.symm)
  rw [State.regRead_sched _ p h8 hn hoff, State.pkg_setPkg, hread]

theorem State.setsReg_attr {n : Nat} {mask : Word} (hn : n < 0x10000) (hoff : off = 0x10000 + n) (hread : ((s.pkg p).writeAttr n v).readAttr n = v &&& mask) :
    s.SetsReg p off v mask := by
  refine .of_readsAs hr (s.regWrite_attr p v h8 hn hoff) ?_ fun o ho ho8 _ => Pkg.readsAs_writeAttr _ p v (fun h => ho (h.trans hoff.symm)) ho8 (by omega)
  rw [State.regRead_attr _ p h8 hn hoff, State.pkg_setPkg, hread]

theorem State.setsReg_fabric {n : Nat} {mask : Word} (hn : n < 0x1000) (hoff : off = 0x21000 + n)
    (hread : ((s.pkg p).writeFabric n v).readFabric p n = v &&& mask) : s.SetsReg p off v mask := by
  refine .of_readsAs hr (s.regWrite_fabric p v h8 hn hoff) ?_ fun o ho _ _ => Pkg.readsAs_writeFabric _ p v fun h => ho (h.trans hoff.symm)
  rw [State.regRead_fabric _ p h8 hn hoff, State.pkg_setPkg, hread]

theorem State.setsReg_queue {q j : Nat} {mask : Word} (hq : q < 8192) (hj : j < 64) (hoff : off = 0x100000 + 64 * q + j)
    (hread : (((s.pkg p).queueOf q).write j v).read j = v &&& mask) : s.SetsReg p off v mask := by
  refine .of_readsAs hr (s.regWrite_queue p v h8 hq hj hoff) ?_ fun o ho _ hper => Pkg.readsAs_writeQueue _ p v (fun h => ho (h.trans hoff.symm)) fun hj' => ?_
  · rw [State.regRead_queue _ p h8 hq hj hoff, State.pkg_setPkg, Pkg.queueOf_updQ, if_pos rfl, hread]
  · obtain ⟨h1, h2⟩ := hper (by omega) (by omega) (by omega)
    omega

theorem State.setsReg_ctx (hlo : 0x180000 ≤ off) (hhi : off < 0x190000) : s.SetsReg p off v 0xFFF := by
  obtain ⟨q, hq, hoff⟩ : ∃ q, q < 8192 ∧ off = 0x180000 + 8 * q := ⟨(off - 0x180000) / 8, by omega, by omega⟩
  refine .of_readsAs hr (s.regWrite_ctx p v h8 hq hoff) ?_ fun o ho ho8 _ => Pkg.readsAs_writeCtx _ p ho8 (fun h => ho (h.trans hoff.symm)) _
  rw [State.regRead_ctx _ p h8 hq hoff, State.pkg_setPkg, Pkg.queueOf_updQ, if_pos rfl]
  exact w64_mod_two_pow v (n := 12) (by decide)

theorem State.setsReg_msix (hlo : 0x200000 ≤ off) (hhi : off < 0x208000) (h16 : off % 16 = 0) : s.SetsReg p off v (BitVec.allOnes 64) := by
  obtain ⟨n, hn, hoff⟩ : ∃ n, n < 2048 ∧ off = 0x200000 + 16 * n := ⟨(off - 0x200000) / 16, by omega, by omega⟩
  refine .of_readsAs hr (s.regWrite_msix p v h8 hn hoff) ?_ fun o ho _ _ => Pkg.readsAs_writeMsix _ p v (by omega)
  rw [State.regRead_msix _ p h8 hn (show 0 < 2 by decide) (by omega), State.pkg_setPkg, BitVec.and_allOnes]
  exact getD_put_same _ _ _ _

theorem State.setsReg_freezes (hoff : off = 0x20018) : s.SetsReg p off v (BitVec.allOnes 64) := by
  subst hoff
  refine .of_readsAs hr (s.regWrite_fault p v h8 (n := 0x18) (by decide) rfl) ?_ fun o ho _ _ => Pkg.readsAs_freezes _ p v ho
  rw [State.regRead_fault _ p h8 (n := 0x18) (by decide) rfl, State.pkg_setPkg, BitVec.and_allOnes]
  rfl

theorem State.setsReg_spawns (hoff : off = 0x20020) : s.SetsReg p off v (BitVec.allOnes 64) := by
  subst hoff
  refine .of_readsAs hr (s.regWrite_fault p v h8 (n := 0x20) (by decide) rfl) ?_ fun o ho _ _ => Pkg.readsAs_spawns _ p v ho
  rw [State.regRead_fault _ p h8 (n := 0x20) (by decide) rfl, State.pkg_setPkg, BitVec.and_allOnes]
  rfl

theorem State.setsReg_wdog (hoff : off = 0x20008) : s.SetsReg p off v 0xFFFF := by
  subst hoff
  refine .of_readsAs hr (s.regWrite_fault p v h8 (n := 0x08) (by decide) rfl) ?_ fun o ho _ _ => Pkg.readsAs_wdog _ p ho _
  rw [State.regRead_fault _ p h8 (n := 0x08) (by decide) rfl, State.pkg_setPkg]
  exact setWidth_setWidth_mask v (n := 16) (by decide)

/-- The policy registers and the counters of the attraction block (Tables 10-9, 10-14). -/
theorem State.setsReg_policy (hlo : 0x10040 ≤ off) (hhi : off < 0x100C0) : s.SetsReg p off v 0x3FFFFFF := by
  obtain ⟨n, rfl⟩ := Nat.exists_eq_add_of_le (show 0x10000 ≤ off by omega)
  refine State.setsReg_attr hr v h8 (n := n) (by omega) rfl ?_
  have hrange : (decide (0x40 ≤ n) && decide (n < 0xC0)) = true := by simp; omega
  unfold Pkg.writeAttr Pkg.readAttr Pkg.policy
  simp only [show n ≠ 0x00 by omega, show n ≠ 0x08 by omega, show n ≠ 0x10 by omega, show n ≠ 0x18 by omega, show n ≠ 0x20 by omega, if_false,
    hrange, if_true]
  exact getD_put_same _ _ _ _

theorem State.setsReg_counter (hlo : 0x10100 ≤ off) (hhi : off < 0x10180) : s.SetsReg p off v (BitVec.allOnes 64) := by
  obtain ⟨n, rfl⟩ := Nat.exists_eq_add_of_le (show 0x10000 ≤ off by omega)
  refine State.setsReg_attr hr v h8 (n := n) (by omega) rfl ?_
  have hpol : (decide (0x40 ≤ n) && decide (n < 0xC0)) = false := by simp; omega
  have hrange : (decide (0x100 ≤ n) && decide (n < 0x180)) = true := by simp; omega
  unfold Pkg.writeAttr Pkg.readAttr
  simp only [show n ≠ 0x00 by omega, show n ≠ 0x08 by omega, show n ≠ 0x10 by omega, show n ≠ 0x18 by omega, show n ≠ 0x20 by omega, if_false, hpol,
    hrange, if_true,
    Bool.false_eq_true, BitVec.and_allOnes]
  exact getD_setD_same _ _ _ _

/-- The words of a queue block (Table 13-1). -/
theorem State.setsReg_queueWord (hlo : 0x100000 ≤ off) (hhi : off < 0x180000) :
    (off % 64 = 0x00 → s.SetsReg p off v (BitVec.allOnes 64 - 0x20)) ∧ (off % 64 = 0x18 → s.SetsReg p off v 0xFFFFFFFF) ∧
    (off % 64 = 0x10 ∨ off % 64 = 0x20 ∨ off % 64 = 0x28 → s.SetsReg p off v (BitVec.allOnes 64)) := by
  obtain ⟨q, j, hq, hj, hoff⟩ : ∃ q j, q < 8192 ∧ j < 64 ∧ off = 0x100000 + 64 * q + j := ⟨(off - 0x100000) / 64, off % 64, by omega, by omega,
    by omega⟩
  have hmod : off % 64 = j := by omega
  have hset {mask : Word} := State.setsReg_queue hr v h8 (mask := mask) hq hj hoff
  rw [hmod]
  refine ⟨fun h0 => hset ?_, fun h18 => hset ?_, ?_⟩
  · subst h0
    exact w64_ring v
  · subst h18
    exact w64_wlo v
  · rintro (rfl | rfl | rfl)
    · exact hset ((w64_halves v).trans BitVec.and_allOnes.symm)
    · exact hset ((w64_halves v).trans BitVec.and_allOnes.symm)
    · exact hset (BitVec.ofInt_toInt.trans BitVec.and_allOnes.symm)

/-- Every register that the host may write whole keeps its bits and leaves every other (R8). -/
theorem State.setsReg_of_rwMask {mask : Word} (hmask : rwMask off = some mask) : s.SetsReg p off v mask := by
  unfold rwMask at hmask
  dsimp only at hmask
  rw [if_neg (not_not.mpr h8)] at hmask
  by_cases hmem : off ∈ [0x010, 0x018, 0x020, 0x028, 0x030, 0x038, 0x040, 0x058, 0x1000, 0x1008, 0x1010, 0x1018, 0x2020, 0x2028, 0x20018, 0x20020,
      0x21040, 0x21048, 0x21050, 0x21058, 0x21060, 0x21068]
  · rw [if_pos hmem] at hmask
    cases hmask
    have hcases : (0x010 ≤ off ∧ off ≤ 0x058 ∧ off ≠ 0x048 ∧ off ≠ 0x050) ∨ (0x1000 ≤ off ∧ off < 0x1020) ∨ off = 0x2020 ∨ off = 0x2028 ∨ off = 0x20018 ∨ off = 0x20020 ∨
        off = 0x21040 ∨ off = 0x21048 ∨ off = 0x21050 ∨ off = 0x21058 ∨ off = 0x21060 ∨ off = 0x21068 := by
      simp only [List.mem_cons, List.not_mem_nil, or_false] at hmem
      omega
    obtain ⟨h1, h2, h3, h4⟩ | ⟨h1, h2⟩ | h | h | h | h | h | h | h | h | h | h := hcases
    · have := State.setsReg_boot hr v h8 h1 h2 h3
      rwa [if_neg h4] at this
    · exact State.setsReg_arg hr v h8 h1 h2
    · exact State.setsReg_sched hr v h8 (n := 0x20) (by decide) h (BitVec.and_allOnes).symm
    · exact State.setsReg_sched hr v h8 (n := 0x28) (by decide) h (BitVec.and_allOnes).symm
    · exact State.setsReg_freezes hr v h8 h
    · exact State.setsReg_spawns hr v h8 h
    · exact State.setsReg_fabric hr v h8 (n := 0x40) (by decide) h (BitVec.and_allOnes).symm
    · exact State.setsReg_fabric hr v h8 (n := 0x48) (by decide) h (BitVec.and_allOnes).symm
    · exact State.setsReg_fabric hr v h8 (n := 0x50) (by decide) h (BitVec.and_allOnes).symm
    · exact State.setsReg_fabric hr v h8 (n := 0x58) (by decide) h (BitVec.and_allOnes).symm
    · exact State.setsReg_fabric hr v h8 (n := 0x60) (by decide) h (BitVec.and_allOnes).symm
    · exact State.setsReg_fabric hr v h8 (n := 0x68) (by decide) h (BitVec.and_allOnes).symm
  rw [if_neg hmem] at hmask
  by_cases h : off = 0x050
  · rw [if_pos h] at hmask
    cases hmask
    have := State.setsReg_boot hr v h8 (by omega) (by omega) (by omega)
    rwa [if_pos h] at this
  rw [if_neg h] at hmask
  clear h
  by_cases h : off = 0x2008
  · rw [if_pos h] at hmask
    cases hmask
    exact State.setsReg_sched hr v h8 (n := 0x08) (by decide) h (w64_wlo v)
  rw [if_neg h] at hmask
  clear h
  by_cases h : off = 0x2018
  · rw [if_pos h] at hmask
    cases hmask
    exact State.setsReg_sched hr v h8 (n := 0x18) (by decide) h (setWidth_setWidth_mask v (n := 7) (by decide))
  rw [if_neg h] at hmask
  clear h
  by_cases h : off = 0x10008
  · rw [if_pos h] at hmask
    cases hmask
    exact State.setsReg_attr hr v h8 (n := 0x08) (by decide) h rfl
  rw [if_neg h] at hmask
  clear h
  by_cases h : off = 0x10010
  · rw [if_pos h] at hmask
    cases hmask
    exact State.setsReg_attr hr v h8 (n := 0x10) (by decide) h rfl
  rw [if_neg h] at hmask
  clear h
  by_cases h : off = 0x10020
  · rw [if_pos h] at hmask
    cases hmask
    exact State.setsReg_attr hr v h8 (n := 0x20) (by decide) h rfl
  rw [if_neg h] at hmask
  clear h
  by_cases h : off = 0x20008
  · rw [if_pos h] at hmask
    cases hmask
    exact State.setsReg_wdog hr v h8 h
  rw [if_neg h] at hmask
  clear h
  by_cases h : off = 0x21008
  · rw [if_pos h] at hmask
    cases hmask
    exact State.setsReg_fabric hr v h8 (n := 0x08) (by decide) h (w64_timers v)
  rw [if_neg h] at hmask
  clear h
  by_cases h : 0x10040 ≤ off ∧ off < 0x100C0
  · rw [if_pos h] at hmask
    cases hmask
    exact State.setsReg_policy hr v h8 h.1 h.2
  rw [if_neg h] at hmask
  clear h
  by_cases h : 0x10100 ≤ off ∧ off < 0x10180
  · rw [if_pos h] at hmask
    cases hmask
    exact State.setsReg_counter hr v h8 h.1 h.2
  rw [if_neg h] at hmask
  clear h
  by_cases h : 0x100000 ≤ off ∧ off < 0x180000
  · rw [if_pos h] at hmask
    obtain ⟨h0, h18, hall⟩ := State.setsReg_queueWord hr v h8 h.1 h.2
    by_cases hw : off % 64 = 0x00
    · rw [if_pos hw] at hmask
      cases hmask
      exact h0 hw
    rw [if_neg hw] at hmask
    by_cases hw : off % 64 = 0x18
    · rw [if_pos hw] at hmask
      cases hmask
      exact h18 hw
    rw [if_neg hw] at hmask
    by_cases hw : off % 64 = 0x10 ∨ off % 64 = 0x20 ∨ off % 64 = 0x28
    · rw [if_pos hw] at hmask
      cases hmask
      exact hall hw
    · rw [if_neg hw] at hmask
      cases hmask
  rw [if_neg h] at hmask
  clear h
  by_cases h : 0x180000 ≤ off ∧ off < 0x190000
  · rw [if_pos h] at hmask
    cases hmask
    exact State.setsReg_ctx hr v h8 h.1 h.2
  rw [if_neg h] at hmask
  clear h
  by_cases h : 0x200000 ≤ off ∧ off < 0x208000 ∧ off % 16 = 0
  · rw [if_pos h] at hmask
    cases hmask
    exact State.setsReg_msix hr v h8 h.1 h.2.1 h.2.2
  · rw [if_neg h] at hmask
    cases hmask

end

/-! ## What TAIL lets enter (R300) -/

/-- One ring record leaves for each of a number that TAIL has gone back by, the last ones first. -/
def leaveOne (e : Option Nat) (a : Nat × List (Option Nat)) : Nat × List (Option Nat) := if e.isNone && 0 < a.1 then (a.1 - 1, a.2) else (a.1,
  e :: a.2)

theorem foldr_leaveOne (l : List (Option Nat)) (n : Nat) :
    (l.foldr leaveOne (n, [])).2.filter (·.isSome) = l.filter (·.isSome) ∧ (l.foldr leaveOne (n, [])).1 = n - (l.filter (·.isNone)).length ∧
      ((l.foldr leaveOne (n, [])).2.filter (·.isNone)).length = (l.filter (·.isNone)).length - n := by
  induction l with
  | nil => simp
  | cons e l ih =>
    obtain ⟨hsome, hleft, hnone⟩ := ih
    rw [List.foldr_cons]
    generalize l.foldr leaveOne (n, []) = a at *
    unfold leaveOne
    cases e with
    | some t =>
      rw [if_neg (by simp)]
      simp [hsome, hleft, hnone]
    | none =>
      by_cases ha : 0 < a.1
      · rw [if_pos (by simp [ha])]
        simp [hsome]
        omega
      · rw [if_neg (by simp [ha])]
        simp [hsome]
        omega

/-- The entered records behind a TAIL: tickets stay, and ring records stand for what TAIL covers. -/
theorem Queue.enter_rule (x : Queue) : x.enter = { x with entered := x.enter.entered } ∧ x.enter.entered.filter (·.isSome) = x.entered.filter (·.isSome) ∧
    (x.enter.entered.filter (·.isNone)).length = (x.tail - x.head).toNat := by
  by_cases hle : (x.entered.filter (·.isNone)).length ≤ (x.tail - x.head).toNat
  · have henter : x.enter = { x with entered := x.entered ++ List.replicate ((x.tail - x.head).toNat - (x.entered.filter (·.isNone)).length) none } := if_pos hle
    rw [henter]
    refine ⟨rfl, ?_, ?_⟩
    · simp
    · simp only [List.filter_append, List.length_append, List.filter_replicate, Option.isNone_none, if_true, List.length_replicate]
      omega
  · have henter : x.enter = { x with entered := (x.entered.foldr leaveOne ((x.entered.filter (·.isNone)).length - (x.tail - x.head).toNat, [])).2 } := if_neg hle
    obtain ⟨hsome, -, hnone⟩ := foldr_leaveOne x.entered ((x.entered.filter (·.isNone)).length - (x.tail - x.head).toNat)
    rw [henter]
    exact ⟨rfl, hsome, by dsimp only; rw [hnone]; omega⟩

/-- What has entered depends on what had, and on TAIL and HEAD. -/
theorem Queue.enter_congr {x y : Queue} (he : x.entered = y.entered) (ht : x.tail = y.tail) (hh : x.head = y.head) : x.enter.entered = y.enter.entered := by
  unfold Queue.enter
  simp only [apply_ite Queue.entered, he, ht, hh]

/-- The place of the next record depends on what has entered and on whether the ring has stopped. -/
theorem Queue.nextRecord_congr {x y : Queue} (he : x.entered = y.entered) (hb : x.blocked = y.blocked) : x.nextRecord = y.nextRecord := by
  unfold Queue.nextRecord
  rw [he, hb]

/-- A queue behind a TAIL, as it stops or goes on: another next record than before withdraws the host's answer. -/
def Queue.retold (y : Queue) (next : Option (Option Nat)) (full : Bool) : Queue :=
  if next == y.nextRecord.map (·.2) then { y with blocked := full } else { y with blocked := full, asked := none, answer := none }

theorem Queue.retold_rule (y : Queue) (next : Option (Option Nat)) (full : Bool) :
    y.retold next full = { y with blocked := full, asked := (y.retold next full).asked, answer := (y.retold next full).answer } ∧
      if next = y.nextRecord.map (·.2) then (y.retold next full).asked = y.asked ∧ (y.retold next full).answer = y.answer
      else (y.retold next full).asked = none ∧ (y.retold next full).answer = none := by
  unfold Queue.retold
  by_cases h : next = y.nextRecord.map (·.2)
  · rw [if_pos (beq_iff_eq.mpr h), if_pos h]
    exact ⟨rfl, rfl, rfl⟩
  · rw [if_neg (fun hb => h (beq_iff_eq.mp hb)), if_neg h]
    exact ⟨rfl, rfl, rfl⟩

theorem Pkg.raiseVec_queues (k : Pkg) (qs : List (Nat × Queue)) (vec : Nat) : ({ k with queues := qs } : Pkg).raiseVec vec = { k.raiseVec vec with queues := qs } := by
  unfold Pkg.raiseVec
  rw [show ({ k with queues := qs } : Pkg).masked vec = k.masked vec from rfl]
  split <;> rfl

theorem exec_queueTailWrite {s : State} {p q : Nat} (v : Word) (hr : (s.pkg p).reachable = true) (hq : q < 8192) :
    let k := s.pkg p
    let x := s.queue p q
    let y : Queue := { x with tail := v.setWidth 32 }
    let past : Prop := 2 ^ min 16 x.log2n < (y.tail - x.head).toNat
    let answers (z : Queue) : Prop :=
      if z.nextRecord.map (·.2) = x.nextRecord.map (·.2) then z.asked = x.asked ∧ z.answer = x.answer else z.asked = none ∧ z.answer = none
    (past → ∃ X z, exec (.queueTailWrite p q v) s = .next (s.setPkg p X) ∧ X.queueOf q = z ∧ answers z ∧
      z = { y with ringErr := true, blocked := true, asked := z.asked, answer := z.answer } ∧
      X = { (if x.ringErr then k else k.raiseVec 2) with queues := X.queues }) ∧
    (¬past → ∃ z, exec (.queueTailWrite p q v) s = .next (s.setQueue p q z) ∧ answers z ∧
      z = { y with entered := z.entered, blocked := false, asked := z.asked, answer := z.answer } ∧
      z.entered.filter (·.isSome) = x.entered.filter (·.isSome) ∧ (z.entered.filter (·.isNone)).length = (y.tail - x.head).toNat) := by
  intro k x y past answers
  have hguard : (!k.reachable || decide (Config.queues ≤ q)) = false := by
    rw [hr, decide_eq_false (show ¬Config.queues ≤ q from Nat.not_le.mpr hq)]
    rfl
  have hexec : exec (.queueTailWrite p q v) s = execQueueTailWrite p q v s := rfl
  unfold execQueueTailWrite at hexec
  rw [if_neg (show ¬(!k.reachable || decide (Config.queues ≤ q)) = true by rw [hguard]; decide)] at hexec
  refine ⟨fun hpast => ?_, fun hfits => ?_⟩
  · let y1 : Queue := { y with blocked := true }
    obtain ⟨hz, hans⟩ := y.retold_rule (y1.nextRecord.map (·.2)) true
    generalize hzdef : y.retold (y1.nextRecord.map (·.2)) true = z at hz hans
    have hexec : exec (.queueTailWrite p q v) s = .next (if z.ringErr then s.setQueue p q { z with ringErr := true }
        else (s.setQueue p q { z with ringErr := true }).updPkg p (·.raiseVec 2)) := by
      rw [hexec, ← hzdef]
      simp only [show decide (2 ^ min 16 (s.queue p q).log2n < (v.setWidth 32 - (s.queue p q).head).toNat) = true from decide_eq_true hpast, if_true]
      rfl
    have hring : z.ringErr = x.ringErr := by rw [hz]
    have hnext : ({ z with ringErr := true } : Queue).nextRecord = y1.nextRecord := Queue.nextRecord_congr (by rw [hz]) (by rw [hz])
    refine ⟨{ (if x.ringErr then k else k.raiseVec 2) with queues := put k.queues q { z with ringErr := true } }, { z with ringErr := true }, ?_, ?_, ?_, ?_, rfl⟩
    · rw [hexec, hring]
      cases x.ringErr with
      | true => rfl
      | false =>
        rw [if_neg Bool.false_ne_true, if_neg Bool.false_ne_true]
        unfold State.setQueue
        rw [State.updPkg_updPkg, Pkg.raiseVec_queues]
    · exact getD_put_same _ _ _ _
    · show if ({ z with ringErr := true } : Queue).nextRecord.map (·.2) = _ then _ else _
      rw [hnext]
      exact hans
    · rw [hz]
  · let y1 : Queue := ({ y with blocked := false } : Queue).enter
    obtain ⟨hz, hans⟩ := y.retold_rule (y1.nextRecord.map (·.2)) false
    generalize hzdef : y.retold (y1.nextRecord.map (·.2)) false = z at hz hans
    have hexec : exec (.queueTailWrite p q v) s = .next (s.setQueue p q z.enter) := by
      rw [hexec, ← hzdef]
      simp only [show decide (2 ^ min 16 (s.queue p q).log2n < (v.setWidth 32 - (s.queue p q).head).toNat) = false from decide_eq_false hfits,
        if_false,
        Bool.false_eq_true]
      rfl
    obtain ⟨henter, hsome, hnone⟩ := z.enter_rule
    have hentered : z.enter.entered = y1.entered := by rw [hz]; exact Queue.enter_congr rfl rfl rfl
    refine ⟨z.enter, hexec, ?_, ?_, ?_, ?_⟩
    · have hnext : z.enter.nextRecord = y1.nextRecord := by
        have hblocked (x : Queue) : x.enter.blocked = x.blocked := by rw [x.enter_rule.1]
        exact Queue.nextRecord_congr hentered ((hblocked z).trans ((congrArg Queue.blocked hz).trans (hblocked { y with blocked := false }).symm))
      have hkeeps : z.enter.asked = z.asked ∧ z.enter.answer = z.answer := by
        rw [henter]
        exact ⟨rfl, rfl⟩
      show if z.enter.nextRecord.map (·.2) = _ then _ else _
      rw [hnext, hkeeps.1, hkeeps.2]
      exact hans
    · have hz' : z.enter = { z with entered := z.enter.entered } := henter
      rw [hz', hz]
    · rw [hsome, hz]
    · rw [hnone, hz]

/-! ## The other writes of BAR0 -/

/-- A queue whose PERIOD is 0 is background and shows no deadline (R301; log 91). -/
theorem Queue.read_of_no_period {x : Queue} (h : x.period = 0) : x.read 0x38 = 0 ∧ (x.read 0x30).getLsbD 2 = true := by
  have hbg : x.isBg = true := by unfold Queue.isBg; rw [h]; rfl
  refine ⟨?_, ?_⟩
  · show w64 (if x.period = 0 then 0 else x.absdl) = 0
    rw [if_pos h]
    rfl
  · show (w64 (2 ^ 32 * x.used + (if x.overrun then 8 else 0) + (if x.isBg then 4 else 0) + (if x.ringErr then 2 else 0) + if x.en then 1 else 0)).getLsbD 2 = true
    rw [w64, BitVec.getLsbD_ofNat, Nat.testBit_eq_decide_div_mod_eq, hbg]
    simp only [if_true, Bool.and_eq_true, decide_eq_true_eq]
    refine ⟨by decide, ?_⟩
    split <;> split <;> split <;> omega

theorem exec_queueEnWrite {s : State} {p q : Nat} (v : Word) (hr : (s.pkg p).reachable = true) (hq : q < 8192) :
    let k := s.pkg p
    let x := s.queue p q
    ∃ z : Queue, exec (.queueEnWrite p q v) s = .next (s.setQueue p q z) ∧
      z = { x with overrun := x.overrun && !v.getLsbD 3, ringErr := x.ringErr && !v.getLsbD 1, en := z.en, t0 := z.t0, startedAt := z.startedAt } ∧
      (z.en = true ↔ v.getLsbD 0 = true ∧ (x.en = true ∨ k.stage = 6 ∧ (find k.ctxs x.ctx).isSome)) ∧
      (if z.en = true ∧ x.en = false then z.t0 = s.clock p / 3600 + 1 ∧ z.startedAt = none else z.t0 = x.t0 ∧ z.startedAt = x.startedAt) := by
  intro k x
  have hguard : (!k.reachable || decide (Config.queues ≤ q)) = false := by
    rw [hr, decide_eq_false (show ¬Config.queues ≤ q from Nat.not_le.mpr hq)]
    rfl
  let en : Bool := v.getLsbD 0 && (x.en || (k.stage == 6 && (find k.ctxs x.ctx).isSome))
  have hen : en = true ↔ v.getLsbD 0 = true ∧ (x.en = true ∨ k.stage = 6 ∧ (find k.ctxs x.ctx).isSome) := by
    simp only [en, Bool.and_eq_true, Bool.or_eq_true, beq_iff_eq]
  let y : Queue := { x with overrun := x.overrun && !v.getLsbD 3, ringErr := x.ringErr && !v.getLsbD 1 }
  have hexec : exec (.queueEnWrite p q v) s = .next (s.setQueue p q (if en && !x.en then
      { y with en := true, t0 := s.clock p / 3600 + 1, startedAt := none } else { y with en := en })) := by
    show execQueueEnWrite p q v s = _
    unfold execQueueEnWrite
    rw [if_neg (show ¬(!k.reachable || decide (Config.queues ≤ q)) = true by rw [hguard]; decide)]
    rfl
  refine ⟨_, hexec, ?_⟩
  by_cases hb : (en && !x.en) = true
  · rw [if_pos hb]
    obtain ⟨h1, h2⟩ := Bool.and_eq_true_iff.mp hb
    refine ⟨rfl, ⟨fun _ => hen.mp h1, fun _ => rfl⟩, ?_⟩
    rw [if_pos ⟨rfl, by simpa using h2⟩]
    exact ⟨rfl, rfl⟩
  · rw [if_neg hb]
    refine ⟨rfl, hen, ?_⟩
    rw [if_neg fun h => hb (by rw [show en = true from h.1, h.2]; rfl)]
    exact ⟨rfl, rfl⟩

/-- FSTAT behind a write: LISTFULL stands while a list of the package is full (R288; log 54). -/
theorem exec_writeFstat {s : State} {p : Nat} (v : Word) (hr : (s.pkg p).reachable = true) :
    let k := s.pkg p
    ∃ F : BitVec 6, exec (.registerWrite p 0x20000 v) s = .next (s.setPkg p { k with fstat := F }) ∧ ∀ j < 6, F.getLsbD j =
      (k.fstat.getLsbD j && (!v.getLsbD j || decide (j = 1 ∧ ∃ c ∈ s.cores, c.1 / 48 = p ∧ 64 ≤ c.2.waiting.length))) := by
  intro k
  let full : Bool := s.cores.any fun c => pkgOf c.1 == p && 64 ≤ c.2.waiting.length
  have hfull : full = true ↔ ∃ c ∈ s.cores, c.1 / 48 = p ∧ 64 ≤ c.2.waiting.length := by
    simp only [full, List.any_eq_true, Bool.and_eq_true, beq_iff_eq, decide_eq_true_eq]
    rfl
  refine ⟨w1c k.fstat v ||| (if full then k.fstat &&& 2 else 0), ?_, fun j hj => ?_⟩
  · show execRegisterWrite p 0x20000 v s = _
    unfold execRegisterWrite
    rw [if_pos hr, State.regWrite_fault s p v rfl (n := 0) (by decide) rfl]
    rfl
  · have hwrite : (w1c k.fstat v).getLsbD j = (k.fstat.getLsbD j && !v.getLsbD j) := by
      unfold w1c
      rw [BitVec.getLsbD_and, BitVec.getLsbD_not, BitVec.getLsbD_setWidth, decide_eq_true hj]
      rfl
    have hkeep : (if full then k.fstat &&& 2 else 0).getLsbD j = (k.fstat.getLsbD j && decide (j = 1 ∧ full = true)) := by
      cases full with
      | false => simp
      | true =>
        have hbit : ∀ j < 6, (2 : BitVec 6).getLsbD j = decide (j = 1) := by decide
        rw [if_pos rfl, BitVec.getLsbD_and, hbit j hj]
        simp
    rw [BitVec.getLsbD_or, hwrite, hkeep, Bool.and_or_distrib_left]
    simp only [hfull]

/-- A package that the host cannot reach takes no write. -/
theorem exec_write_unreachable {s : State} {p : Nat} (h : (s.pkg p).reachable = false) (q vec off : Nat) (v : Word) :
    ∀ i ∈ [Instr.registerWrite p off v, .cmdWhileBusy p v, .hctlWarm p, .queueTailWrite p q v, .queueEnWrite p q v, .hreqHeadAdvance p v,
      .msixUnmask p vec v],
      exec i s = .next s := by
  have hn : ¬(s.pkg p).reachable = true := by rw [h]; decide
  simp only [List.forall_mem_cons, List.not_mem_nil, false_imp_iff, implies_true, and_true]
  refine ⟨congrArg _ (if_neg hn), congrArg _ (if_neg (by rw [h]; exact Bool.false_ne_true)), congrArg _ (if_neg hn),
    congrArg _ (if_pos (by rw [h]; rfl)),
    congrArg _ (if_pos (by rw [h]; rfl)), congrArg _ (if_neg hn), congrArg _ (if_pos (by rw [h]; rfl))⟩

/-- A host write of an entry of the MSI-X table (R364; log 9). -/
theorem exec_msixUnmask {s : State} {p vec : Nat} (v : Word) (hr : (s.pkg p).reachable = true) (hvec : vec < 2048) :
    let k := s.pkg p
    exec (.msixUnmask p vec v) s = .next (s.setPkg p
      (if v.getLsbD 32 = false ∧ getD false k.msixPend vec = true then
        { k with msix := put k.msix (2 * vec + 1) v, msixPend := erase k.msixPend vec, irqs := vec :: k.irqs }
       else { k with msix := put k.msix (2 * vec + 1) v })) := by
  intro k
  have hguard : (!k.reachable || decide (2048 ≤ vec)) = false := by
    rw [hr, decide_eq_false (Nat.not_le.mpr hvec)]
    rfl
  have hmasked : ({ k with msix := put k.msix (2 * vec + 1) v } : Pkg).masked vec = v.getLsbD 32 :=
    congrArg (fun w : Word => w.getLsbD 32) (getD_put_same _ _ _ _)
  have hexec : exec (.msixUnmask p vec v) s = .next (s.setPkg p
      (if !({ k with msix := put k.msix (2 * vec + 1) v } : Pkg).masked vec && getD false k.msixPend vec then
        { k with msix := put k.msix (2 * vec + 1) v, msixPend := erase k.msixPend vec, irqs := vec :: k.irqs }
       else { k with msix := put k.msix (2 * vec + 1) v })) := by
    show execMsixUnmask p vec v s = _
    unfold execMsixUnmask
    rw [if_neg (show ¬(!k.reachable || decide (2048 ≤ vec)) = true by rw [hguard]; decide)]
    rfl
  rw [hexec, hmasked]
  by_cases hc : v.getLsbD 32 = false ∧ getD false k.msixPend vec = true
  · rw [if_pos hc, if_pos (by rw [hc.1, hc.2]; rfl)]
  · rw [if_neg hc, if_neg fun h => hc (by simpa using h)]

/-- Settles O40: reads of BAR0 block by block, each write by the register's own block, and the rules of CMD, HREQIX, TAIL, EN and the MSI-X table from
their definitions (logs 9, 54, 91). -/
theorem hostRegisters : Obligations.HostRegisters := by
  unfold Obligations.HostRegisters
  intro s p q vec v k writes
  refine ⟨fun h off => exec_write_unreachable h q vec off v, fun hr => ?_⟩
  have hexec (off : Nat) : exec (.registerWrite p off v) s = .next (s.regWrite p off v) := congrArg _ (if_pos hr)
  refine ⟨fun off h8 => ?_, fun off mask hmask => ?_, fun hq hv => ?_, ?_, ?_, ?_, ?_, exec_writeFstat v hr, fun c hc => ?_, fun hb => ?_,
    fun hb => ?_, ?_,
    exec_msixUnmask v hr, fun hq => ?_⟩
  · rw [hexec]
    exact congrArg _ (if_pos h8)
  · have h8 : off % 8 = 0 := by
      by_contra h8
      unfold rwMask at hmask
      dsimp only at hmask
      rw [if_pos h8] at hmask
      cases hmask
    exact State.setsReg_of_rwMask hr v h8 hmask
  · have hwhi : whi v = 0 := by
      have := congrArg BitVec.toNat hv
      rw [BitVec.extractLsb'_toNat, Nat.shiftRight_eq_div_pow] at this
      have hlt := v.isLt
      unfold whi
      rw [show (0 : BitVec 32).toNat = 0 from rfl] at this
      omega
    have hper : (((k.queueOf q).write 0x10 v)).period = 0 := hwhi
    obtain ⟨h38, h30⟩ := Queue.read_of_no_period hper
    have hqueue (j : Nat) (hj : j < 64) (h8 : j % 8 = 0) : (s.setPkg p (k.updQ q (·.write 0x10 v))).regRead p (0x100000 + 64 * q + j) =
        ((k.queueOf q).write 0x10 v).read j := by
      rw [State.regRead_queue _ p (by omega) hq hj rfl, State.pkg_setPkg, Pkg.queueOf_updQ, if_pos rfl]
    refine ⟨k.updQ q (·.write 0x10 v), ?_, ?_, ?_⟩
    · rw [hexec, State.regWrite_queue s p v (by omega) hq (show 0x10 < 64 by decide) (by omega)]
    · rw [show 0x100038 + 64 * q = 0x100000 + 64 * q + 0x38 by omega, hqueue _ (by decide) (by decide), h38]
    · rw [show 0x100030 + 64 * q = 0x100000 + 64 * q + 0x30 by omega, hqueue _ (by decide) (by decide), h30]
  · show exec _ s = _
    rw [hexec, State.regWrite_attr s p v (by decide) (n := 0) (by decide) rfl]
    rfl
  · show exec _ s = _
    rw [hexec, State.regWrite_fabric s p v (by decide) (n := 0) (by decide) rfl]
    rfl
  · show exec _ s = _
    rw [hexec, State.regWrite_fabric s p v (by decide) (n := 0x10) (by decide) rfl]
    rfl
  · show exec _ s = _
    rw [hexec, State.regWrite_cmd s p v (by decide) (n := 0x28) (by decide) rfl]
    rfl
  · rw [hexec, State.regWrite_idle s p v (by omega) hc rfl]
    rfl
  · show exec _ s = _
    rw [hexec, State.regWrite_cmd s p v (by decide) (n := 0x20) (by decide) rfl]
    refine congrArg (fun X => Outcome.next (s.setPkg p X)) ?_
    show (if k.busy then k else _) = _
    rw [if_neg (by rw [hb]; decide)]
  · exact congrArg _ (if_pos (by rw [hr, show (s.pkg p).busy = true from hb]; rfl))
  · show execHreqHeadAdvance p v s = _
    unfold execHreqHeadAdvance
    rw [if_pos hr]
    dsimp only
    rw [State.pkg_updPkg]
    rfl
  · intro x y past answers
    obtain ⟨hpast, hfits⟩ := exec_queueTailWrite v hr hq
    exact ⟨hpast, hfits, exec_queueEnWrite v hr hq⟩

end Sys2Proof.Machine

/-! PROOFS. Spawns of reeves and late reports (R283 to R291): the reeve kernel of a context, free reeve slots, teams that no reeve can serve,
  queues that a team leaves. -/

namespace Sys2Proof.Machine

open Host

/-! ## The start of a team (R35, R284) -/

/-- A team's start takes a serial of its package and a fresh number, and changes nothing beyond. -/
theorem State.startTeam_eq (s : State) (tk : Nat) (x : Start) (k : Kernel) : ∃ (n : Nat) (nx : BitVec 32),
    s.startTeam tk x k = ((s.updPkg (pkgOfTeam tk) fun k => { k with nextSerial := nx }).bump.setTeam tk (teamStart x k n s.now s.fresh)) :=
  ⟨_, _, rfl⟩

/-! ## The reeve kernel of a context (R283) -/

section
variable {s s1 : State} {core ctx : Nat} {c : Context} {bs : List Byte}

theorem State.reeveKernel_of_no_context (h : find (s.pkg (pkgOf core)).ctxs ctx = none) : s.reeveKernel core ctx = (s, some none) := by
  unfold State.reeveKernel
  rw [h]

theorem State.reeveKernel_of_no_header (h : find (s.pkg (pkgOf core)).ctxs ctx = some c) (h0 : c.reeveHdr = 0) : s.reeveKernel core ctx = (s,
  some none) := by
  unfold State.reeveKernel
  rw [h]
  exact if_pos h0

theorem State.reeveKernel_of_asked (h : find (s.pkg (pkgOf core)).ctxs ctx = some c) (h0 : c.reeveHdr ≠ 0)
    (hasked : s.walkAsked (pkgOf core) (hwWho core) ctx c.reeveHdr = true) : s.reeveKernel core ctx = (s, none) := by
  unfold State.reeveKernel
  rw [h]
  exact (if_neg h0).trans (if_pos hasked)

/-- The header is read in its context. -/
theorem State.reeveKernel_of_read (h : find (s.pkg (pkgOf core)).ctxs ctx = some c) (h0 : c.reeveHdr ≠ 0)
    (hasked : s.walkAsked (pkgOf core) (hwWho core) ctx c.reeveHdr = false) :
    let k := (Kernel.ofBytes bs).1
    let usable : Prop := k.readable (Kernel.ofBytes bs).2 c.reeveHdr = true ∧ k.allotOk = true
    (s.readRecord (hwWho core) core ctx c.reeveHdr = (s1, .wait) → s.reeveKernel core ctx = (s1, none)) ∧
    (s.readRecord (hwWho core) core ctx c.reeveHdr = (s1, .bad) → s.reeveKernel core ctx = (s1, some none)) ∧
    (s.readRecord (hwWho core) core ctx c.reeveHdr = (s1, .ok bs) → ¬usable → s.reeveKernel core ctx = (s1, some none)) ∧
    (s.readRecord (hwWho core) core ctx c.reeveHdr = (s1, .ok bs) → usable →
      s.reeveKernel core ctx = (s1, some (some (k, c.reeveHdr + k.entry, c.reeveParam)))) := by
  intro k usable
  have hna : ¬s.walkAsked (pkgOf core) (hwWho core) ctx c.reeveHdr = true := by rw [hasked]; decide
  unfold State.reeveKernel
  rw [h]
  dsimp only
  rw [if_neg h0, if_neg hna]
  refine ⟨fun hr => by rw [hr], fun hr => by rw [hr], fun hr hu => ?_, fun hr hu => ?_⟩
  · rw [hr]
    dsimp only
    rw [if_neg fun hb => hu (Bool.and_eq_true_iff.mp hb)]
  · rw [hr]
    dsimp only
    rw [if_pos (Bool.and_eq_true_iff.mpr hu)]

end

/-! ## Spawns (R283, R284, R292) -/

section
variable {s s1 : State} {core : Nat} {x : Handle} {rest : List Handle} {st : Start} (hun : s.unlisted core = none) (hw : (s.core core).waiting = x :: rest)
include hun hw

theorem exec_reeveSpawn_waits (hst : s.reeveStart x = none) : exec (.reeveSpawn core) s = .next s := by
  show execReeveSpawn core s = _
  unfold execReeveSpawn
  rw [hun, hw, List.head?_cons]
  dsimp only
  rw [hst]

theorem exec_reeveSpawn_asks (hst : s.reeveStart x = some st) (hk : s.reeveKernel core st.ctx = (s1,
  none)) : exec (.reeveSpawn core) s = .next s1 := by
  show execReeveSpawn core s = _
  unfold execReeveSpawn
  rw [hun, hw, List.head?_cons]
  dsimp only
  rw [hst]
  dsimp only
  rw [hk]

theorem exec_reeveSpawn_noReeve (hst : s.reeveStart x = some st) (hk : s.reeveKernel core st.ctx = (s1, some none)) :
    exec (.reeveSpawn core) s = .next (s1.noReeve core x) := by
  show execReeveSpawn core s = _
  unfold execReeveSpawn
  rw [hun, hw, List.head?_cons]
  dsimp only
  rw [hst]
  dsimp only
  rw [hk]

variable {k : Kernel} {pc param : Word}

theorem exec_reeveSpawn_full (hst : s.reeveStart x = some st) (hk : s.reeveKernel core st.ctx = (s1, some (some (k, pc, param))))
    (hslot : s1.reeveSlot core = none) : exec (.reeveSpawn core) s = .next s1 := by
  show execReeveSpawn core s = _
  unfold execReeveSpawn
  rw [hun, hw, List.head?_cons]
  dsimp only
  rw [hst]
  dsimp only
  rw [hk]
  dsimp only
  rw [hslot]

theorem exec_reeveSpawn_starts (hst : s.reeveStart x = some st) (hk : s.reeveKernel core st.ctx = (s1, some (some (k, pc, param)))) {tk : Nat}
    (hslot : s1.reeveSlot core = some tk) : exec (.reeveSpawn core) s =
      .next (((s1.startTeam tk { st with pc := pc, param := param } k).updCore core (·.advanceList)).updPkg (pkgOf core) fun k =>
        { k with spawns := k.spawns + 1 }) := by
  show execReeveSpawn core s = _
  unfold execReeveSpawn
  rw [hun, hw, List.head?_cons]
  dsimp only
  rw [hst]
  dsimp only
  rw [hk]
  dsimp only
  rw [hslot]

end

/-- The reeve slots of a core. -/
def reeveSlots (core : Nat) : List Nat := [20 * core + 16, 20 * core + 17, 20 * core + 18, 20 * core + 19]

theorem State.reeveSlot_eq (s : State) (core : Nat) : s.reeveSlot core = (reeveSlots core).find? s.slotFree := rfl

theorem State.reeveSlot_none {s : State} {core : Nat} (h : ∀ tk ∈ reeveSlots core, s.slotFree tk = false) : s.reeveSlot core = none := by
  rw [State.reeveSlot_eq, List.find?_eq_none]
  exact fun tk htk => by rw [h tk htk]; decide

/-- The lowest free slot is taken. -/
theorem State.reeveSlot_some {s : State} {core tk : Nat} (htk : tk ∈ reeveSlots core) (hfree : s.slotFree tk = true)
    (hlow : ∀ q ∈ reeveSlots core, q < tk → s.slotFree q = false) : s.reeveSlot core = some tk := by
  have hsorted : (reeveSlots core).Pairwise (· < ·) := by
    unfold reeveSlots
    simp
  rw [State.reeveSlot_eq, List.find?_eq_some_iff_append]
  obtain ⟨l, r, hlr⟩ := List.append_of_mem htk
  refine ⟨hfree, l, r, hlr, fun q hq => ?_⟩
  rw [hlr, List.pairwise_append] at hsorted
  rw [hlow q (hlr ▸ List.mem_append_left _ hq) (hsorted.2.2 q hq tk (List.mem_cons_self ..))]
  rfl

/-! ## Slots, lists and handles -/

/-- A slot is free when no team stands there and no result of one that has ended is still to come (R298; log 42). -/
theorem State.slotFree_iff (s : State) (tk : Nat) : s.slotFree tk = true ↔ s.team tk = none ∧ ∀ e ∈ s.requests,
  ¬(e.2.tk = tk ∧ e.2.xfer = none ∧ e.2.bring = false ∧
    (e.2.kind = .load ∨ ∃ ops, e.2.kind = .atomic ops true)) := by
  have hkind (k : ReqKind) : (match k with | .load => true | .atomic _ ret => ret | _ => false) = true ↔ k = .load ∨ ∃ ops, k = .atomic ops true := by
    cases k with
    | atomic ops ret => simp
    | load => simp
    | probe => simp
    | fetch w => simp
    | write bs z => simp
  unfold State.slotFree
  rw [Bool.and_eq_true, Option.isNone_iff_eq_none, List.all_eq_true]
  refine and_congr_right fun _ => forall_congr' fun e => forall_congr' fun _ => ?_
  rw [Bool.not_eq_true', ← Bool.not_eq_true]
  refine not_congr ?_
  simp only [Bool.and_eq_true, beq_iff_eq, Option.isNone_iff_eq_none, Bool.not_eq_true', and_assoc]
  exact and_congr_right fun _ => and_congr_right fun _ => and_congr_right fun _ => hkind e.2.kind

theorem State.reeveStart_frozen {s : State} {f : Nat} {t : Team} (ht : s.team f = some t) :
    (t.settled = false ∨ t.stepping ≠ none → s.reeveStart (.frozen f) = none) ∧
    (t.settled = true → t.stepping = none →
      s.reeveStart (.frozen f) = some ⟨t.share, t.cl, t.grid, t.ctx, t.teamIx, t.cluster, t.slotT, .reeve, 0, 0, .frozen f⟩) := by
  unfold State.reeveStart
  dsimp only
  rw [ht]
  dsimp only
  refine ⟨fun h => if_pos ?_, fun hset hstep => if_neg ?_⟩
  · obtain h | h := h
    · rw [h]
      rfl
    · rw [Option.isSome_iff_ne_none.mpr h, Bool.or_true]
  · rw [hset, hstep]
    exact Bool.false_ne_true

/-- A frozen team that stands on no list and has no reeve. -/
theorem State.unlisted_rule {s : State} {core f : Nat} {t : Team} (h : s.unlisted core = some (f, t)) :
    coreOf f = core ∧ t.run = .frozen ∧ t.escalated = false ∧ t.role ≠ .reeve ∧ t.stepping = none ∧
      (∀ e ∈ s.cores, Handle.frozen f ∉ e.2.waiting ∧ Handle.frozen f ∉ e.2.held) ∧ ∀ e ∈ s.teams, e.2.h0 ≠ .frozen f := by
  have hb := List.find?_some h
  dsimp only at hb
  simp only [Bool.and_eq_true, beq_iff_eq, Bool.not_eq_true', Option.isNone_iff_eq_none, List.any_eq_false, Bool.or_eq_true, not_or,
    List.contains_iff_mem,
    and_assoc] at hb
  obtain ⟨hcore, hrun, hesc, hrole, hstep, hlists, hreeves⟩ := hb
  exact ⟨hcore, hrun, hesc, fun hr => absurd (t.isReeve_iff.mpr hr) (by rw [hrole]; exact Bool.false_ne_true), hstep, hlists, hreeves⟩

theorem exec_reeveSpawn_unlisted {s : State} {core f : Nat} {t : Team} (h : s.unlisted core = some (f, t)) :
    exec (.reeveSpawn core) s = .next (if s.reeveless core t.ctx then s.escalateAlone f else s.enlist core (.frozen f)) := by
  show execReeveSpawn core s = _
  unfold execReeveSpawn
  rw [h]

/-! ## A team that no reeve can serve (R292; log 44) -/

theorem State.logEsc_escTotal (s : State) (p : Nat) (e : LogEnt) : ((s.logEsc p e).pkg p).escTotal = ((s.pkg p).escTotal + 1) % 2 ^ 24 := by
  unfold State.logEsc
  rw [State.pkg_updPkg]

theorem Pkg.Winds.escTotal {k k' : Pkg} (h : k.Winds k') : k'.escTotal = k.escTotal := by rw [h.1]; rfl

theorem State.delist_team (s : State) (tk n : Nat) : (s.delist tk).team n = s.team n := rfl

/-- NOREEVE for a team that has not ended: one entry of the log, and the team is held for the host, or ends, by DUTY. -/
theorem State.noReeve_frozen {s : State} {core f : Nat} {t : Team} (ht : s.team f = some t) :
    let p := pkgOfTeam f
    s.noReeve core (.frozen f) = s.escalateAlone f ∧ ((s.escalateAlone f).pkg p).escTotal = ((s.pkg p).escTotal + 1) % 2 ^ 24 ∧
    ((s.pkg p).duty.getLsbD 0 = true → (s.escalateAlone f).team f = some { t with escalated := true }) ∧
    ((s.pkg p).duty.getLsbD 0 = false → (s.escalateAlone f).team f = none) := by
  intro p
  generalize hx : s.logEsc p { addr := t.cause.addr, tserial := t.serial, rserial := 0, kind := 2, core := coreOf f % 48, cause := t.cause.word } = x
  have halone : s.escalateAlone f = if (x.pkg p).duty.getLsbD 0 then (x.delist f).updTeam f fun t => { t with escalated := true } else x.endTeam f := by
    unfold State.escalateAlone
    rw [ht, ← hx]
  have htotal : (x.pkg p).escTotal = ((s.pkg p).escTotal + 1) % 2 ^ 24 := hx ▸ State.logEsc_escTotal s p _
  have hduty : (x.pkg p).duty = (s.pkg p).duty := hx ▸ State.logEsc_duty s p _
  have hteam : x.team f = some t := by rw [← hx]; exact ht
  rw [hduty] at halone
  refine ⟨?_, ?_, fun hd => ?_, fun hd => ?_⟩
  · unfold State.noReeve
    dsimp only
    rw [ht]
    rfl
  · rw [halone]
    split
    · rw [State.updTeam_pkg]
      exact htotal
    · rw [(State.endTeam_winds x f p).escTotal, htotal]
  · rw [halone, if_pos hd]
    exact State.updTeam_team (s := x.delist f) (show (x.delist f).team f = some t from hteam) _
  · rw [halone, if_neg (by rw [hd]; exact Bool.false_ne_true)]
    exact State.endTeam_team x f

/-! ## A reeve that starts (R284) -/

theorem State.startTeam_rule (s : State) (tk : Nat) (x : Start) (k : Kernel) : ∃ n,
  (s.startTeam tk x k).team tk = some (teamStart x k n s.now s.fresh) ∧
    (∀ q, q ≠ tk → (s.startTeam tk x k).team q = s.team q) ∧ (s.startTeam tk x k).cores = s.cores ∧
    ∀ p, ((s.startTeam tk x k).pkg p).spawns = (s.pkg p).spawns := by
  obtain ⟨n, nx, heq⟩ := s.startTeam_eq tk x k
  refine ⟨n, ?_, fun q hq => ?_, ?_, fun p => ?_⟩
  · rw [heq, State.team_setTeam]
  · rw [heq, State.team_setTeam_other _ _ hq]
    rfl
  · rw [heq]
    rfl
  · have hpkg : (s.startTeam tk x k).pkg p = (s.updPkg (pkgOfTeam tk) fun k => { k with nextSerial := nx }).pkg p := by
      rw [heq]
      rfl
    rw [hpkg]
    by_cases hp : p = pkgOfTeam tk
    · rw [hp, State.pkg_updPkg]
    · rw [State.pkg_updPkg_other _ _ hp]

theorem rs_teamStart (x : Start) (k : Kernel) (n now seq : Nat) : (teamStart x k n now seq).rs 1 = x.param := by
  show getD 0 (setD 0 [] 1 x.param) 1 = x.param
  exact getD_setD_same _ _ _ _

/-- A reeve's start has the role of a reeve and the handle it is spawned for. -/
theorem State.reeveStart_some {s : State} {x : Handle} {st : Start} (h : s.reeveStart x = some st) : st.role = .reeve ∧ st.h0 = x := by
  unfold State.reeveStart at h
  cases x with
  | none => cases h
  | departed e r =>
    injection h with h
    rw [← h]
    exact ⟨rfl, rfl⟩
  | frozen f =>
    dsimp only at h
    cases ht : s.team f with
    | none => rw [ht] at h; cases h
    | some t =>
      rw [ht] at h
      dsimp only at h
      by_cases hb : (!t.settled || t.stepping.isSome) = true
      · rw [if_pos hb] at h
        cases h
      · rw [if_neg hb] at h
        injection h with h
        rw [← h]
        exact ⟨rfl, rfl⟩

/-- The state behind a spawn: the reeve in its slot, the waiting list one further, one spawn more. -/
def State.spawned (s : State) (core tk : Nat) (st : Start) (k : Kernel) : State :=
  ((s.startTeam tk st k).updCore core (·.advanceList)).updPkg (pkgOf core) fun k => { k with spawns := k.spawns + 1 }

theorem State.spawned_rule (s : State) (core tk : Nat) (st : Start) (k : Kernel) :
    ∃ n, (s.spawned core tk st k).team tk = some (teamStart st k n s.now s.fresh) ∧ (∀ q, q ≠ tk → (s.spawned core tk st k).team q = s.team q) ∧
    ((s.spawned core tk st k).pkg (pkgOf core)).spawns = (s.pkg (pkgOf core)).spawns + 1 ∧
    ((s.spawned core tk st k).core core).waiting = (s.core core).waiting.drop 1 ++ (s.core core).held.take (64 - ((s.core core).waiting.drop 1).length) := by
  obtain ⟨n, hteam, hothers, hcores, hspawns⟩ := s.startTeam_rule tk st k
  have hcore : (s.startTeam tk st k).core core = s.core core := by
    unfold State.core
    rw [hcores]
  refine ⟨n, hteam, hothers, ?_, ?_⟩
  · unfold State.spawned
    rw [State.pkg_updPkg]
    exact congrArg (· + 1) (hspawns _)
  · unfold State.spawned
    show (((s.startTeam tk st k).updCore core (·.advanceList)).core core).waiting = _
    rw [State.core_updCore, hcore]
    rfl

theorem inImage_eq_false {tk : Nat} : inImage tk = false ↔ tk < 138240 := by
  unfold inImage
  rw [decide_eq_false_iff_not, Nat.not_le]

/-! ## Late reports (R289 to R291) -/

theorem Share.rings_without (x : Share) (tk : Nat) : ∀ g ∈ (x.rings.map fun r : Ring =>
    { r with senders := r.senders.filter (· != tk), takers := r.takers.filter (· != tk) }), tk ∉ g.senders ∧ tk ∉ g.takers := by
  intro g hg
  obtain ⟨r, -, rfl⟩ := List.mem_map.mp hg
  exact ⟨fun h => by simpa using (List.mem_filter.mp h).2, fun h => by simpa using (List.mem_filter.mp h).2⟩

/-- A team that leaves its queues changes no more than the rings of its share and the list of its package's waiting launches. -/
theorem State.leaveQueues_rule {s : State} {tk : Nat} {t : Team} (ht : s.team tk = some t) :
    let Y := s.leaveQueues tk
    Y = { s with shares := Y.shares, pkgs := Y.pkgs } ∧ (∀ q, Y.pkg q = { s.pkg q with launchWait := (Y.pkg q).launchWait }) ∧
    tk ∉ (Y.pkg (pkgOfTeam tk)).launchWait ∧ (∀ q, q ≠ t.share → Y.share q = s.share q) ∧
    ∀ x, s.share t.share = some x → ∃ y : Share, Y.share t.share = some y ∧ y = { x with rings := y.rings } ∧ ∀ g ∈ y.rings, tk ∉ g.senders ∧ tk ∉ g.takers := by
  intro Y
  let W : State := s.updShare t.share fun x =>
      { x with rings := x.rings.map fun r => { r with senders := r.senders.filter (· != tk), takers := r.takers.filter (· != tk) } }
  have hY : Y = W.updPkg (pkgOfTeam tk) fun k => { k with launchWait := k.launchWait.filter (· != tk) } := by
    show s.leaveQueues tk = _
    unfold State.leaveQueues
    rw [ht]
  have hW : W = { s with shares := W.shares } := by
    show s.updShare _ _ = { s with shares := (s.updShare _ _).shares }
    unfold State.updShare
    cases hx : s.share t.share <;> rfl
  have hpkgW (q : Nat) : W.pkg q = s.pkg q := by rw [hW]; rfl
  refine ⟨?_, fun q => ?_, ?_, fun q hq => ?_, fun x hx => ?_⟩
  · rw [hY]
    show (s.updShare _ _).updPkg _ _ = { s with shares := ((s.updShare _ _).updPkg _ _).shares, pkgs := ((s.updShare _ _).updPkg _ _).pkgs }
    unfold State.updShare
    cases hx : s.share t.share <;> rfl
  · rw [hY]
    by_cases hq : q = pkgOfTeam tk
    · rw [hq, State.pkg_updPkg, hpkgW]
    · rw [State.pkg_updPkg_other _ _ hq, hpkgW]
  · rw [hY, State.pkg_updPkg]
    exact fun h => by simpa using (List.mem_filter.mp h).2
  · rw [hY]
    show W.share q = _
    show (s.updShare _ _).share q = _
    unfold State.updShare
    cases hx : s.share t.share with
    | none => rfl
    | some x => exact State.share_setShare_other s _ hq
  · refine ⟨{ x with rings := x.rings.map fun r => { r with senders := r.senders.filter (· != tk), takers := r.takers.filter (· != tk) } }, ?_, rfl,
      x.rings_without tk⟩
    · rw [hY]
      show (s.updShare _ _).share t.share = _
      rw [State.updShare_some hx, State.share_setShare]

section
variable {s : State} {ix : Nat} {r : Report} (hr : s.reports[ix]? = some r) (hfirst : ∀ q ∈ s.reports.take ix, ¬(q.tk = r.tk ∧ q.serial = r.serial))
include hr hfirst

/-- The machine without a report that has been taken. -/
theorem exec_report_eq : exec (.impreciseReport ix) s = .next (
    let done := { s with reports := s.reports.eraseIdx ix }
    match (s.team r.tk).bind fun t => if t.serial = r.serial then some t else none with
    | some t =>
      if t.run == .frozen || t.run == .freezing || t.stepping.isSome then
        (if t.reports.length < 4 then done.setTeam r.tk { t with reports := t.reports ++ [r] }
         else (done.logEsc (pkgOfTeam r.tk) { addr := r.addr, tserial := r.serial, kind := 5, core := coreOf r.tk % 48, cause := r.record.word }).updPkg
           (pkgOfTeam r.tk) (·.setFstat 4))
      else if t.interruptible && !inImage r.tk then done.deliver r t
      else s
    | none => match (s.pkg (pkgOfTeam r.tk)).endedTeams.find? (·.serial == r.serial) with
      | none => done
      | some e => done.enlist e.core (.departed e r.departed)) := by
  have hearlier : ((s.reports.take ix).any fun q => q.tk == r.tk && q.serial == r.serial) = false := by
    rw [List.any_eq_false]
    intro q hq hb
    rw [Bool.and_eq_true, beq_iff_eq, beq_iff_eq] at hb
    exact hfirst q hq hb
  show execImpreciseReport ix s = _
  unfold execImpreciseReport
  rw [hr]
  dsimp only
  rw [hearlier]
  rfl

end

/-- Settles O45: the start of a reeve follows `State.spawned_rule` behind the record of its context, and a report finds a team that it freezes or
aborts, one that keeps it, or one that has ended. -/
theorem reeveSpawnsAndReports : Obligations.ReeveSpawnsAndReports := by
  unfold Obligations.ReeveSpawnsAndReports
  refine ⟨?_, ?_⟩
  · intro s s1 core x rest st c bs p i k usable slots none_
    refine ⟨fun hun hw => ?_, fun hun hw => ⟨fun hst => exec_reeveSpawn_waits hun hw hst, fun hst => ?_⟩,
    fun f t hx ht => hx ▸ State.reeveStart_frozen ht, fun e r hx => hx ▸ rfl, s.slotFree_iff, fun f t hun => ⟨State.unlisted_rule hun, ?_, ?_⟩,
    fun f t ht hp => ?_⟩
    · show execReeveSpawn core s = _
      unfold execReeveSpawn
      rw [hun, hw]
      rfl
    · refine ⟨fun hc => exec_reeveSpawn_noReeve hun hw hst (State.reeveKernel_of_no_context hc),
        fun hc h0 => exec_reeveSpawn_noReeve hun hw hst (State.reeveKernel_of_no_header hc h0),
        fun hc h0 hasked => exec_reeveSpawn_asks hun hw hst (State.reeveKernel_of_asked hc h0 hasked), fun hc h0 hasked => ?_⟩
      obtain ⟨hwait, hbad, hunusable, husable⟩ := State.reeveKernel_of_read (s1 := s1) (bs := bs) hc h0 hasked
      refine ⟨fun hrd => exec_reeveSpawn_asks hun hw hst (hwait hrd), fun hrd => exec_reeveSpawn_noReeve hun hw hst (hbad hrd),
        fun hrd hu => exec_reeveSpawn_noReeve hun hw hst (hunusable hrd hu), fun hrd hu => ⟨fun hfull => ?_, fun tk htk hfree hlow => ?_⟩⟩
      · exact exec_reeveSpawn_full hun hw hst (husable hrd hu) (State.reeveSlot_none hfull)
      · obtain ⟨hrole, hh0⟩ := State.reeveStart_some hst
        obtain ⟨n, hteam, hothers, hspawns, hlist⟩ := s1.spawned_rule core tk { st with pc := c.reeveHdr + k.entry, param := c.reeveParam } k
        exact ⟨_, _, exec_reeveSpawn_starts hun hw hst (husable hrd hu) (State.reeveSlot_some htk hfree hlow), hteam, hothers, hspawns, hlist,
          hrole, hh0, rfl, rfl,
          rs_teamStart .., rfl, rfl, rfl, rfl, rfl, rfl, rfl, rfl, rfl, rfl, rfl⟩
    · exact fun hless => (exec_reeveSpawn_unlisted hun).trans (congrArg _ (if_pos hless))
    · exact fun hless => (exec_reeveSpawn_unlisted hun).trans (congrArg _ (if_neg (by rw [hless]; exact Bool.false_ne_true)))
    · obtain ⟨halone, htotal, hheld, hended⟩ := State.noReeve_frozen (core := core) ht
      rw [hp] at htotal hheld hended
      exact ⟨halone, htotal, fun hd => ⟨_, hheld hd, rfl⟩, hended⟩
  · intro s ix r hr hfirst i X p named rec_
    have heq := exec_report_eq hr hfirst
    refine ⟨fun t ht hser => ?_, fun hgone => ?_⟩
    · have hnamed : ((s.team r.tk).bind fun t => if t.serial = r.serial then some t else none) = some t := by
        rw [ht]
        exact if_pos hser
      rw [hnamed] at heq
      dsimp only at heq
      refine ⟨fun hstop => ?_, fun hrun hfreezing hstep => ?_⟩
      · have hb : (t.run == .frozen || t.run == .freezing || t.stepping.isSome) = true := by
          rw [Bool.or_eq_true, Bool.or_eq_true, beq_iff_eq, beq_iff_eq, Option.isSome_iff_ne_none, or_assoc]
          exact hstop
        rw [if_pos hb] at heq
        exact ⟨fun hlt => heq.trans (congrArg _ (if_pos hlt)), fun hge => heq.trans (congrArg _ (if_neg (Nat.not_lt.mpr hge)))⟩
      · have hb : ¬(t.run == .frozen || t.run == .freezing || t.stepping.isSome) = true := by
          rw [Bool.or_eq_true, Bool.or_eq_true, beq_iff_eq, beq_iff_eq, Option.isSome_iff_ne_none, or_assoc]
          exact fun h => h.elim hrun fun h => h.elim hfreezing fun h => h hstep
        rw [if_neg hb] at heq
        refine ⟨fun hno => heq.trans (congrArg _ (if_neg fun h => ?_)), fun hint hslot => ?_⟩
        · rw [Bool.and_eq_true, Bool.not_eq_true', inImage_eq_false] at h
          obtain hno | hno := hno
          · rw [hno] at h
            exact Bool.false_ne_true h.1
          · exact absurd h.2 (Nat.not_lt.mpr hno)
        · have himage : (t.interruptible && !inImage r.tk) = true := by
            rw [Bool.and_eq_true, Bool.not_eq_true', inImage_eq_false]
            exact ⟨hint, hslot⟩
          rw [if_pos himage] at heq
          obtain ⟨hY, hpkg, hlist, hshares, hrings⟩ := State.leaveQueues_rule (s := X) ht
          exact ⟨X.leaveQueues r.tk, hY, hpkg, hlist, hshares, hrings, heq⟩
    · have hnone : ((s.team r.tk).bind fun t => if t.serial = r.serial then some t else none) = none := by
        cases ht : s.team r.tk with
        | none => rfl
        | some t => exact if_neg (hgone t ht)
      rw [hnone] at heq
      dsimp only at heq
      refine ⟨fun hunknown => ?_, fun e he => ?_⟩
      · have hfind : ((s.pkg (pkgOfTeam r.tk)).endedTeams.find? (·.serial == r.serial)) = none := by
          rw [List.find?_eq_none]
          exact fun e he hb => hunknown e he (beq_iff_eq.mp hb)
        rw [hfind] at heq
        exact heq
      · rw [show ((s.pkg (pkgOfTeam r.tk)).endedTeams.find? (·.serial == r.serial)) = some e from he] at heq
        exact heq

end Sys2Proof.Machine

/-! PROOFS. Queue dispatch (R300, R303): the order of the queues, what becomes of a head record, records that leave their queue,
  the serial of a grid. -/

namespace Sys2Proof.Machine

open Host

/-! ## The order of the queues (R303) -/

/-- An entry of a map with rising keys is what the map holds at its key. -/
theorem find_isSome_iff {α : Type} {m : List (Nat × α)} (q : Nat) : (find m q).isSome = true ↔ ∃ e ∈ m, e.1 = q := by
  constructor
  · intro h
    obtain ⟨x, hx⟩ := Option.isSome_iff_exists.mp h
    exact ⟨(q, x), find_mem hx, rfl⟩
  · rintro ⟨e, he, rfl⟩
    unfold find
    rw [Option.isSome_map, List.find?_isSome]
    exact ⟨e, he, beq_self_eq_true _⟩

theorem State.queue_of_mem {s : State} {p : Nat} (h : Rising (s.pkg p).queues) {e : Nat × Queue} (he : e ∈ (s.pkg p).queues) : s.queue p e.1 = e.2 := by
  unfold State.queue getD
  rw [find_of_mem h he]
  rfl

theorem Queue.isBg_iff (x : Queue) : x.isBg = true ↔ x.period = 0 ∨ x.bg = true := by
  unfold Queue.isBg
  rw [Bool.or_eq_true, beq_iff_eq]

/-- The foreground's order: by deadline, then by number. -/
def earlierQueue (a b : Nat × Queue) : Bool := a.2.absdl < b.2.absdl || (a.2.absdl == b.2.absdl && a.1 ≤ b.1)

theorem earlierQueue_iff (a b : Nat × Queue) : earlierQueue a b = true ↔ a.2.absdl < b.2.absdl ∨ a.2.absdl = b.2.absdl ∧ a.1 ≤ b.1 := by
  unfold earlierQueue
  rw [Bool.or_eq_true, Bool.and_eq_true, decide_eq_true_iff, decide_eq_true_iff, beq_iff_eq]

theorem pairwise_earlierQueue (l : List (Nat × Queue)) : (l.mergeSort earlierQueue).Pairwise fun a b => earlierQueue a b = true :=
  List.pairwise_mergeSort (fun a b c hab hbc => by rw [earlierQueue_iff] at *; omega) (fun a b => by
    rw [Bool.or_eq_true, earlierQueue_iff, earlierQueue_iff]; omega) l

/-- Enabled queues with a head record, by number. -/
def State.readyQueues (s : State) (p : Nat) : List (Nat × Queue) := (s.pkg p).queues.filter fun e => e.2.en && (s.headRecord p e.2).isSome

theorem State.queueOrder_eq (s : State) (p : Nat) : s.queueOrder p =
    ((((s.readyQueues p).filter fun e => !e.2.isBg).mergeSort earlierQueue ++ ((s.readyQueues p).filter fun e => e.2.isBg).filter (fun e => (s.pkg p).lastBg < e.1) ++
      ((s.readyQueues p).filter fun e => e.2.isBg).filter fun e => e.1 ≤ (s.pkg p).lastBg)).map (·.1) := rfl

section
variable {s : State} {p : Nat} (hk : Rising (s.pkg p).queues)
include hk

/-- The order holds every enabled queue with a head record. -/
theorem State.mem_queueOrder (q : Nat) :
    q ∈ s.queueOrder p ↔ (find (s.pkg p).queues q).isSome ∧ (s.queue p q).en = true ∧ (s.headRecord p (s.queue p q)).isSome := by
  have hsplit (e : Nat × Queue) : (e ∈ ((s.readyQueues p).filter fun e => !e.2.isBg).mergeSort earlierQueue ++
      ((s.readyQueues p).filter fun e => e.2.isBg).filter (fun e => (s.pkg p).lastBg < e.1) ++
      ((s.readyQueues p).filter fun e => e.2.isBg).filter fun e => e.1 ≤ (s.pkg p).lastBg) ↔ e ∈ s.readyQueues p := by
    simp only [List.mem_append, List.mem_mergeSort, List.mem_filter, Bool.not_eq_true', decide_eq_true_iff]
    constructor
    · rintro ((⟨h, -⟩ | ⟨⟨h, -⟩, -⟩) | ⟨⟨h, -⟩, -⟩) <;> exact h
    · intro h
      cases hb : e.2.isBg
      · exact .inl (.inl ⟨h, rfl⟩)
      · obtain hlt | hle := Nat.lt_or_ge (s.pkg p).lastBg e.1
        · exact .inl (.inr ⟨⟨h, rfl⟩, hlt⟩)
        · exact .inr ⟨⟨h, rfl⟩, hle⟩
  rw [State.queueOrder_eq, List.mem_map, find_isSome_iff]
  constructor
  · rintro ⟨e, he, rfl⟩
    obtain ⟨hm, hb⟩ := List.mem_filter.mp ((hsplit e).mp he)
    rw [State.queue_of_mem hk hm]
    exact ⟨⟨e, hm, rfl⟩, Bool.and_eq_true_iff.mp hb⟩
  · rintro ⟨⟨e, hm, rfl⟩, hb⟩
    rw [State.queue_of_mem hk hm] at hb
    exact ⟨e, (hsplit e).mpr (List.mem_filter.mpr ⟨hm, Bool.and_eq_true_iff.mpr hb⟩), rfl⟩

/-- The order: foreground by deadline and number, then background in turn from behind the last one. -/
theorem State.pairwise_queueOrder : (s.queueOrder p).Pairwise fun a b =>
    let bg (q : Nat) : Prop := (s.queue p q).period = 0 ∨ (s.queue p q).bg = true
    (¬bg a ∧ bg b) ∨ (¬bg a ∧ ¬bg b ∧ ((s.queue p a).absdl < (s.queue p b).absdl ∨ (s.queue p a).absdl = (s.queue p b).absdl ∧ a < b)) ∨
      (bg a ∧ bg b ∧ ((s.pkg p).lastBg < a ∧ b ≤ (s.pkg p).lastBg ∨ (a ≤ (s.pkg p).lastBg ↔ b ≤ (s.pkg p).lastBg) ∧ a < b)) := by
  have hready : Rising (s.readyQueues p) := hk.filter _
  have hqueue (e : Nat × Queue) (he : e ∈ s.readyQueues p) : s.queue p e.1 = e.2 := State.queue_of_mem hk (List.mem_filter.mp he).1
  have hfg (e : Nat × Queue) (he : e ∈ ((s.readyQueues p).filter fun e => !e.2.isBg).mergeSort earlierQueue) :
      s.queue p e.1 = e.2 ∧ ¬((s.queue p e.1).period = 0 ∨ (s.queue p e.1).bg = true) := by
    obtain ⟨hm, hb⟩ := List.mem_filter.mp (List.mem_mergeSort.mp he)
    exact ⟨hqueue e hm, fun h => by rw [← hqueue e hm, (Queue.isBg_iff _).mpr h] at hb; cases hb⟩
  have hbg (e : Nat × Queue) (he : e ∈ (s.readyQueues p).filter fun e => e.2.isBg) : (s.queue p e.1).period = 0 ∨ (s.queue p e.1).bg = true := by
    obtain ⟨hm, hb⟩ := List.mem_filter.mp he
    rw [hqueue e hm]
    exact (Queue.isBg_iff _).mp hb
  have hnodup : (((s.readyQueues p).filter fun e => !e.2.isBg).mergeSort earlierQueue).Pairwise fun a b => a.1 ≠ b.1 := by
    refine (List.mergeSort_perm _ _).symm.pairwise_iff (fun h => h.symm) |>.mp ?_
    exact (hready.filter _).imp fun h => Nat.ne_of_lt h
  rw [State.queueOrder_eq, List.pairwise_map, List.pairwise_append, List.pairwise_append]
  refine ⟨⟨?_, ?_, fun a ha b hb => ?_⟩, ?_, fun a ha b hb => ?_⟩
  · refine ((pairwise_earlierQueue _).and hnodup).imp_of_mem fun {a b} ha hb h => .inr (.inl ?_)
    obtain ⟨hqa, hna⟩ := hfg a ha
    obtain ⟨hqb, hnb⟩ := hfg b hb
    rw [earlierQueue_iff] at h
    exact ⟨hna, hnb, by rw [hqa, hqb]; omega⟩
  · refine ((hready.filter _).filter _).imp_of_mem fun {a b} ha hb h => .inr (.inr ?_)
    obtain ⟨ha, hla⟩ := List.mem_filter.mp ha
    obtain ⟨hb, hlb⟩ := List.mem_filter.mp hb
    rw [decide_eq_true_iff] at hla hlb
    exact ⟨hbg a ha, hbg b hb, .inr ⟨by omega, h⟩⟩
  · exact .inl ⟨(hfg a ha).2, hbg b (List.mem_filter.mp hb).1⟩
  · refine ((hready.filter _).filter _).imp_of_mem fun {a b} ha hb h => .inr (.inr ?_)
    obtain ⟨ha, hla⟩ := List.mem_filter.mp ha
    obtain ⟨hb, hlb⟩ := List.mem_filter.mp hb
    rw [decide_eq_true_iff] at hla hlb
    exact ⟨hbg a ha, hbg b hb, .inr ⟨by omega, h⟩⟩
  · obtain ⟨hb, hlb⟩ := List.mem_filter.mp hb
    rw [decide_eq_true_iff] at hlb
    obtain ha | ha := List.mem_append.mp ha
    · exact .inl ⟨(hfg a ha).2, hbg b hb⟩
    · obtain ⟨ha, hla⟩ := List.mem_filter.mp ha
      rw [decide_eq_true_iff] at hla
      exact .inr (.inr ⟨hbg a ha, hbg b hb, .inl ⟨hla, hlb⟩⟩)

end

/-! ## Dispatch up to the first record that is taken (R303) -/

/-- What QUEUE_DISPATCH does to the machine at one queue. -/
def dispatchAt (p : Nat) (a : State × Bool) (q : Nat) : State × Bool := if a.2 then a else a.1.admitRecord p q

theorem exec_queueDispatch (s : State) (p : Nat) : exec (.queueDispatch p) s = .next ((s.queueOrder p).foldl (dispatchAt p) (s, false)).1 := rfl

theorem foldl_dispatchAt_done (p : Nat) (s : State) (l : List Nat) : l.foldl (dispatchAt p) (s, true) = (s, true) := by
  induction l with
  | nil => rfl
  | cons q l ih => exact ih

theorem foldl_dispatchAt_stay {p : Nat} {s : State} {l : List Nat} (h : ∀ q ∈ l, s.admitRecord p q = (s, false)) :
    l.foldl (dispatchAt p) (s, false) = (s, false) := by
  induction l with
  | nil => rfl
  | cons q l ih =>
    rw [List.foldl_cons, show dispatchAt p (s, false) q = (s, false) from h q (List.mem_cons_self ..)]
    exact ih fun y hy => h y (List.mem_cons_of_mem _ hy)

theorem foldl_dispatchAt_take {p : Nat} {s s' : State} {q : Nat} (l : List Nat) (h : s.admitRecord p q = (s', true)) :
    (q :: l).foldl (dispatchAt p) (s, false) = (s', true) := by
  rw [List.foldl_cons, show dispatchAt p (s, false) q = (s', true) from h]
  exact foldl_dispatchAt_done p s' l

/-- Queues whose records stay are passed over. -/
theorem exec_queueDispatch_from {s : State} {p : Nat} {l m : List Nat} (ho : s.queueOrder p = l ++ m) (h : ∀ q ∈ l, s.admitRecord p q = (s, false)) :
    exec (.queueDispatch p) s = .next (m.foldl (dispatchAt p) (s, false)).1 := by
  rw [exec_queueDispatch, ho, List.foldl_append, foldl_dispatchAt_stay h]

/-! ## What becomes of a head record (R303) -/

/-- A record that is not waiting: validated, then failed, refused or started. -/
def State.judgeRecord (s : State) (p q i : Nat) (t : Option Nat) (l : Launch) (refuse : Bool) : State × Bool :=
  match s.validate p (s.queue p q).ctx l with
  | (s, .wait) => (s, false)
  | (s, .bad n) => s.failLaunch p q i t l n
  | (s, .ok kn) => if refuse then s.failLaunch p q i t l 5 else (s.startGrid p q i t l kn, true)

section
variable {s s1 : State} {p q ix : Nat} {tkt : Option Nat} {l : Launch} {n : Nat} {kn : Kernel} {refuse : Bool}

theorem State.judgeRecord_bad (hv : s.validate p (s.queue p q).ctx l = (s1,
  .bad n)) : s.judgeRecord p q ix tkt l refuse = s1.failLaunch p q ix tkt l n := by
  unfold State.judgeRecord
  rw [hv]

theorem State.judgeRecord_refuse (hv : s.validate p (s.queue p q).ctx l = (s1,
  .ok kn)) : s.judgeRecord p q ix tkt l true = s1.failLaunch p q ix tkt l 5 := by
  unfold State.judgeRecord
  rw [hv]
  rfl

theorem State.judgeRecord_start (hv : s.validate p (s.queue p q).ctx l = (s1, .ok kn)) :
    s.judgeRecord p q ix tkt l false = (s1.startGrid p q ix tkt l kn, true) := by
  unfold State.judgeRecord
  rw [hv]
  rfl

variable (hh : s.headRecord p (s.queue p q) = some (ix, tkt, l)) (hw : s.walkAsked p (schedWho p) (s.queue p q).ctx l.kernel = false)
include hh hw

theorem State.admitRecord_answered {a : Nat} (ha : (s.queue p q).answer = some a) : s.admitRecord p q = s.judgeRecord p q ix tkt l (a != 0) := by
  unfold State.admitRecord
  dsimp only
  rw [hh]
  dsimp only
  rw [hw, ha]
  rfl

variable (hna : (s.queue p q).answer = none)
include hna

theorem State.admitRecord_asked (ha : (s.queue p q).asked = some n) : s.admitRecord p q = (s, false) := by
  unfold State.admitRecord
  dsimp only
  rw [hh]
  dsimp only
  rw [hw, hna, ha]
  rfl

variable (hnk : (s.queue p q).asked = none)
include hnk

/-- A head record of which the host has not been asked: by DUTY's ADMIT the host is, else purse and window decide. -/
theorem State.admitRecord_eq : s.admitRecord p q =
    if (s.pkg p).duty.getLsbD 5 then
      match s.askHost p 2 255 (BitVec.ofNat 64 q) (BitVec.ofNat 64 l.energy) l.kernel with
      | (_, none) => (s, false)
      | (s, some ix) => (s.updQueue p q fun x => { x with asked := some ix }, false)
    else if (s.queue p q).pcap < l.energy || (s.pkg p).ewin < l.energy then s.judgeRecord p q ix tkt l true
    else if 1000 * (l.energy : Int) ≤ (s.queue p q).balance && l.energy ≤ (s.pkg p).wavail then s.judgeRecord p q ix tkt l false
    else (s, false) := by
  unfold State.admitRecord
  dsimp only
  rw [hh]
  dsimp only
  rw [hw, hna, hnk]
  rfl

theorem State.admitRecord_admit (hd : (s.pkg p).duty.getLsbD 5 = true) :
    (s.askHost p 2 255 (BitVec.ofNat 64 q) (BitVec.ofNat 64 l.energy) l.kernel = (s1, none) → s.admitRecord p q = (s, false)) ∧
    ∀ n, s.askHost p 2 255 (BitVec.ofNat 64 q) (BitVec.ofNat 64 l.energy) l.kernel = (s1, some n) →
      s.admitRecord p q = (s1.updQueue p q fun x => { x with asked := some n }, false) := by
  have heq := (State.admitRecord_eq hh hw hna hnk).trans (if_pos hd)
  exact ⟨fun h => by rw [heq, h], fun n h => by rw [heq, h]⟩

variable (hd : (s.pkg p).duty.getLsbD 5 = false)
include hd

theorem State.admitRecord_never (h : (s.queue p q).pcap < l.energy ∨ (s.pkg p).ewin < l.energy) : s.admitRecord p q = s.judgeRecord p q ix tkt l true := by
  rw [State.admitRecord_eq hh hw hna hnk, if_neg (by rw [hd]; exact Bool.false_ne_true), if_pos (by simpa using h)]

theorem State.admitRecord_pays (h : ¬((s.queue p q).pcap < l.energy ∨ (s.pkg p).ewin < l.energy))
    (hp : 1000 * (l.energy : Int) ≤ (s.queue p q).balance ∧ l.energy ≤ (s.pkg p).wavail) : s.admitRecord p q = s.judgeRecord p q ix tkt l false := by
  rw [State.admitRecord_eq hh hw hna hnk, if_neg (by rw [hd]; exact Bool.false_ne_true), if_neg (by simpa using h), if_pos (by simpa using hp)]

theorem State.admitRecord_stays (h : ¬((s.queue p q).pcap < l.energy ∨ (s.pkg p).ewin < l.energy))
    (hp : ¬(1000 * (l.energy : Int) ≤ (s.queue p q).balance ∧ l.energy ≤ (s.pkg p).wavail)) : s.admitRecord p q = (s, false) := by
  rw [State.admitRecord_eq hh hw hna hnk, if_neg (by rw [hd]; exact Bool.false_ne_true), if_neg (by simpa using h), if_neg (by simpa using hp)]

end

/-! ## Records that leave their queue (R176, R300, R303) -/

theorem State.queue_updQueue (s : State) (p q : Nat) (f : Queue → Queue) : (s.updQueue p q f).queue p q = f (s.queue p q) := by
  unfold State.updQueue State.setQueue State.queue
  rw [State.pkg_updPkg]
  exact getD_put_same ..

theorem State.queue_updPkg (s : State) (p q : Nat) {f : Pkg → Pkg} (h : ∀ k, (f k).queues = k.queues) : (s.updPkg p f).queue p q = s.queue p q := by
  unfold State.queue
  rw [State.pkg_updPkg, h]

/-- The record leaves its queue, with what the host has said of it; a ring's HEAD moves on. -/
theorem State.queue_takeRecord (s : State) (p q i : Nat) (t : Option Nat) : (s.takeRecord p q i t).queue p q =
    { s.queue p q with entered := (s.queue p q).entered.eraseIdx i, head := if t = none then (s.queue p q).head + 1 else (s.queue p q).head,
                       asked := none, answer := none } := by
  have hafter (W : State) : (W.updPkg p fun k => { k with
      lastBg := if (W.queue p q).isBg then q else k.lastBg, pending := t.elim k.pending (erase k.pending) }).queue p q = W.queue p q :=
    State.queue_updPkg W p q fun _ => rfl
  refine (hafter _).trans ((State.queue_updQueue s p q _).trans ?_)
  cases t <;> rfl

/-- A taken record changes its queue, the turn of the background and the store of waiting launches. -/
theorem State.pkg_takeRecord (s : State) (p q i : Nat) (t : Option Nat) : ∃ qs b, (s.takeRecord p q i t).pkg p =
    { s.pkg p with queues := qs, lastBg := b, pending := t.elim (s.pkg p).pending (erase (s.pkg p).pending) } := by
  unfold State.takeRecord State.updQueue State.setQueue
  dsimp only
  rw [State.pkg_updPkg, State.pkg_updPkg]
  exact ⟨_, _, rfl⟩

theorem find_foldl_erase {α : Type} (l : List Nat) {n : Nat} (h : n ∉ l) (m : List (Nat × α)) :
    find (l.foldl (fun (m : List (Nat × α)) x => erase m x) m) n = find m n := by
  induction l generalizing m with
  | nil => rfl
  | cons x l ih =>
    rw [List.foldl_cons, ih (fun hn => h (List.mem_cons_of_mem _ hn)), find_erase_other m (List.ne_of_not_mem_cons h)]

/-- The ticket that has ended last stays known. -/
theorem Pkg.find_endTicket {k : Pkg} {n : Nat} (h : n ∉ k.endedTickets) (status : Nat) : find (k.endTicket (some n) status).tickets n = some ⟨2,
  status⟩ := by
  have hd : n ∉ (n :: k.endedTickets).drop Config.knownLaunches := fun hn => h (List.mem_of_mem_drop (show n ∈ k.endedTickets.drop 4095 from hn))
  exact (find_foldl_erase _ hd _).trans (find_put_same ..)

theorem Pkg.endTicket_queues (k : Pkg) (t : Option Nat) (status : Nat) : (k.endTicket t status).queues = k.queues := by
  cases t <;> rfl

/-- A failed launch: behind its DONE word it leaves its queue and its ticket ends with the status. -/
theorem State.failLaunch_rule {s s2 : State} {p q ix n : Nat} {tkt : Option Nat} {l : Launch}
    (h : s.writeDone p q (48 * p) (s.queue p q).ctx l.done (2 ^ 63 + n) = (s2, true)) : ∃ Y, s.failLaunch p q ix tkt l n = (Y, true) ∧
    (∀ j, tkt = some j → j ∉ (s2.pkg p).endedTickets → find (Y.pkg p).tickets j = some ⟨2,
      n⟩) ∧ (Y.queue p q).entered = (s2.queue p q).entered.eraseIdx ix := by
  have hword : doneWord 0 n = 2 ^ 63 + n := by
    unfold doneWord
    rw [Nat.zero_min, Nat.zero_mul, Nat.add_zero]
  refine ⟨(s2.takeRecord p q ix tkt).updPkg p (·.endTicket tkt n), ?_, fun j hj hnot => ?_, ?_⟩
  · unfold State.failLaunch
    rw [hword, h]
  · obtain ⟨qs, b, hk⟩ := s2.pkg_takeRecord p q ix tkt
    subst hj
    rw [State.pkg_updPkg, hk]
    exact Pkg.find_endTicket (k := { s2.pkg p with queues := qs, lastBg := b, pending := erase (s2.pkg p).pending j }) hnot n
  · rw [State.queue_updPkg _ _ _ fun k => k.endTicket_queues tkt n, State.queue_takeRecord]

/-! ## A grid that starts (R24, R303; log 70) -/

/-- A number from a start on is another than every live grid's once fewer of them are live than there are numbers. -/
theorem State.gridSerial_taken (s : State) (k n : Nat) (h : ∃ e ∈ s.grids, e.1 % 2 ^ 32 = s.gridSerial k n) :
    ∀ j ≤ k, ∃ e ∈ s.grids, e.1 % 2 ^ 32 = (n + j) % 2 ^ 32 := by
  induction k generalizing n with
  | zero =>
    intro j hj
    obtain rfl := Nat.le_zero.mp hj
    exact h
  | succ k ih =>
    unfold State.gridSerial at h
    split at h
    · next hused =>
      intro j hj
      cases j with
      | zero =>
        obtain ⟨e, he, heq⟩ := List.any_eq_true.mp hused
        exact ⟨e, he, beq_iff_eq.mp heq⟩
      | succ j =>
        obtain ⟨e, he, heq⟩ := ih (n + 1) h j (Nat.le_of_succ_le_succ hj)
        exact ⟨e, he, heq.trans (congrArg (· % 2 ^ 32) (by omega))⟩
    · next hfree =>
      obtain ⟨e, he, heq⟩ := h
      exact absurd (List.any_eq_true (p := fun g => g.1 % 2 ^ 32 == n % 2 ^ 32).mpr ⟨e, he, beq_iff_eq.mpr heq⟩) hfree

theorem State.gridSerial_lt (s : State) (k n : Nat) : s.gridSerial k n < 2 ^ 32 := by
  induction k generalizing n with
  | zero => exact Nat.mod_lt _ (by decide)
  | succ k ih =>
    unfold State.gridSerial
    split
    · exact ih _
    · exact Nat.mod_lt _ (by decide)

/-- No live grid has the serial that a grid takes. -/
theorem State.gridSerial_fresh (s : State) (n : Nat) (h : s.grids.length < 2 ^ 32) : ∀ e ∈ s.grids, e.1 % 2 ^ 32 ≠ s.gridSerial s.grids.length n := by
  intro e he heq
  have htaken := s.gridSerial_taken _ _ ⟨e, he, heq⟩
  have hnodup : ((List.range (s.grids.length + 1)).map fun j => (n + j) % 2 ^ 32).Nodup := by
    refine List.Nodup.map_on (fun a ha b hb hab => ?_) List.nodup_range
    rw [List.mem_range] at ha hb
    omega
  have hsub : ((List.range (s.grids.length + 1)).map fun j => (n + j) % 2 ^ 32) ⊆ s.grids.map fun e => e.1 % 2 ^ 32 := by
    intro v hv
    obtain ⟨j, hj, rfl⟩ := List.mem_map.mp hv
    obtain ⟨e, he, heq⟩ := htaken j (Nat.le_of_lt_succ (List.mem_range.mp hj))
    exact List.mem_map.mpr ⟨e, he, heq⟩
  have hlen := (List.Nodup.subperm hnodup hsub).length_le
  rw [List.length_map, List.length_map, List.length_range] at hlen
  omega

/-- A launch starts: its record leaves the queue, purse and window are charged, its ticket runs, and its grid is live under a number of its own. -/
theorem State.startGrid_rule (s : State) (p q ix : Nat) (tkt : Option Nat) (l : Launch) (kn : Kernel) : let X := s.startGrid p q ix tkt l kn
    ∃ gk, gk / 2 ^ 32 = s.fresh ∧ (s.grids.length < 2 ^ 32 → ∀ e ∈ s.grids, e.1 % 2 ^ 32 ≠ gk % 2 ^ 32) ∧
    X.grid gk = some { pkg := p, queue := q, ctx := (s.queue p q).ctx, kernel := kn, launch := l, ticket := tkt, admittedAt := s.clock p } ∧
    (∀ g, g ≠ gk → X.grid g = s.grid g) ∧ (X.pkg p).wavail = (s.pkg p).wavail - l.energy ∧
    X.queue p q = { s.queue p q with
      entered := (s.queue p q).entered.eraseIdx ix, head := if tkt = none then (s.queue p q).head + 1 else (s.queue p q).head, asked := none,
        answer := none,
      balance := (s.queue p q).balance - 1000 * l.energy, busyUs := true } ∧
    ∀ n, tkt = some n → find (X.pkg p).tickets n = some ⟨1, 0⟩ ∧ find (X.pkg p).pending n = none := by
  intro X
  let Z : State := ((s.takeRecord p q ix tkt).updQueue p q fun x => { x with balance := x.balance - 1000 * l.energy, busyUs := true }).updPkg p fun k =>
    { k with wavail := k.wavail - l.energy, tickets := tkt.elim k.tickets fun n => put k.tickets n ⟨1, 0⟩ }
  have hX : X = Z.bump.setGrid (2 ^ 32 * Z.fresh + Z.gridSerial Z.grids.length Z.fresh)
      { pkg := p, queue := q, ctx := (Z.queue p q).ctx, kernel := kn, launch := l, ticket := tkt, admittedAt := Z.clock p } := rfl
  obtain ⟨qs, b, hk⟩ := s.pkg_takeRecord p q ix tkt
  have hZ : ∃ qs, Z.pkg p = { s.pkg p with
      queues := qs, lastBg := b, pending := tkt.elim (s.pkg p).pending (erase (s.pkg p).pending), wavail := (s.pkg p).wavail - l.energy,
      tickets := tkt.elim (s.pkg p).tickets fun n => put (s.pkg p).tickets n ⟨1, 0⟩ } := by
    unfold Z State.updQueue State.setQueue
    rw [State.pkg_updPkg, State.pkg_updPkg, hk]
    exact ⟨_, rfl⟩
  obtain ⟨qs', hZ⟩ := hZ
  have hafter (W : State) : (W.updPkg p fun k => { k with
      wavail := k.wavail - l.energy, tickets := tkt.elim k.tickets fun n => put k.tickets n ⟨1, 0⟩ }).queue p q = W.queue p q :=
    State.queue_updPkg W p q fun _ => rfl
  have hqueue : Z.queue p q = { s.queue p q with
      entered := (s.queue p q).entered.eraseIdx ix, head := if tkt = none then (s.queue p q).head + 1 else (s.queue p q).head, asked := none,
        answer := none,
      balance := (s.queue p q).balance - 1000 * l.energy, busyUs := true } := by
    refine (hafter _).trans ((State.queue_updQueue _ p q _).trans ?_)
    rw [State.queue_takeRecord]
  have hclock : Z.clock p = s.clock p := by
    unfold State.clock
    rw [hZ]
    rfl
  have hlt := Z.gridSerial_lt Z.grids.length Z.fresh
  have hfresh : Z.fresh = s.fresh := rfl
  have hpkg : X.pkg p = Z.pkg p := rfl
  refine ⟨2 ^ 32 * Z.fresh + Z.gridSerial Z.grids.length Z.fresh, by omega, fun hlen => ?_, ?_, fun g hg => ?_, ?_, ?_, fun n hn => ?_⟩
  · rw [Nat.mul_add_mod, Nat.mod_eq_of_lt hlt]
    exact Z.gridSerial_fresh Z.fresh hlen
  · rw [hX, State.grid_setGrid, hqueue, hclock]
  · exact find_put_other _ _ _ hg
  · rw [hpkg, hZ]
  · exact hqueue
  · subst hn
    rw [hpkg, hZ]
    exact ⟨find_put_same .., find_erase_same ..⟩

/-- The head record of a ring that is next stands at HEAD in host memory. -/
theorem State.headRecord_ring (s : State) (p : Nat) {x : Queue} {rest : List (Option Nat)} (he : x.entered = none :: rest) (hb : x.blocked = false) :
    s.headRecord p x = some (0, none, .ofBytes (s.hostBytes (64 * x.ring + 64 * (x.head.toNat % 2 ^ min 16 x.log2n)) 64)) := by
  have hn : x.nextRecord = some (0, none) := by
    unfold Queue.nextRecord
    rw [he, List.zipIdx_cons, List.find?_cons_of_pos (by rw [hb]; rfl)]
    rfl
  unfold State.headRecord
  rw [hn]

section
variable {s s2 : State} {p q : Nat} {r m : List Nat} (ho : s.queueOrder p = r ++ q :: m) (hr : ∀ y ∈ r, s.admitRecord p y = (s, false))
include ho hr

/-- The record of a queue is taken. -/
theorem exec_queueDispatch_taken (h : s.admitRecord p q = (s2, true)) : exec (.queueDispatch p) s = .next s2 := by
  rw [exec_queueDispatch_from ho hr, foldl_dispatchAt_take m h]

/-- The DONE word of a record that fails waits, and so do the records of the queues behind. -/
theorem exec_queueDispatch_waits (h : s.admitRecord p q = (s2, false)) (hm : ∀ y ∈ m, s2.admitRecord p y = (s2,
  false)) : exec (.queueDispatch p) s = .next s2 := by
  rw [exec_queueDispatch_from ho hr, List.foldl_cons, show dispatchAt p (s, false) q = (s2, false) from h, foldl_dispatchAt_stay hm]

/-- The DONE word of a record that fails waits, and the record of the next queue is taken. -/
theorem exec_queueDispatch_behind {s3 : State} {y : Nat} {m' : List Nat} (h : s.admitRecord p q = (s2, false)) (hm : m = y :: m')
    (hy : s2.admitRecord p y = (s3, true)) : exec (.queueDispatch p) s = .next s3 := by
  rw [exec_queueDispatch_from ho hr, List.foldl_cons, show dispatchAt p (s, false) q = (s2, false) from h, hm, foldl_dispatchAt_take m' hy]

end

/-- Settles O47: the queues' order by `State.pairwise_queueOrder`, a record by `State.judgeRecord`, a failed launch by `State.failLaunch_rule`,
  a started one
by `State.startGrid_rule`. -/
theorem queueDispatch : Obligations.QueueDispatch := by
  unfold Obligations.QueueDispatch
  intro s p k i bg first
  refine ⟨fun hk => ⟨State.mem_queueOrder hk, State.pairwise_queueOrder hk⟩, fun hstay => ?_, fun x rest he hb => s.headRecord_ring p he hb, ?_⟩
  · rw [show exec i s = _ from exec_queueDispatch s p, foldl_dispatchAt_stay hstay]
  · rintro q m ix tkt l ⟨r, ho, hr⟩ hh hw
    refine ⟨fun n hask hans => State.admitRecord_asked hh hw hans hask, fun a s1 kn hans hv => ?_,
      fun hd hask hans s1 => State.admitRecord_admit hh hw hans hask hd,
      fun hd hask hans => ?_⟩
    · have heq := State.admitRecord_answered hh hw hans
      refine ⟨fun ha => ?_, fun ha => ?_⟩
      · rw [heq, show (a != 0) = true from bne_iff_ne.mpr ha, State.judgeRecord_refuse hv]
      · rw [heq, show (a != 0) = false by rw [ha]; rfl, State.judgeRecord_start hv]
    · intro x never pays
      refine ⟨fun hnn hnp => State.admitRecord_stays hh hw hans hask hd hnn hnp, fun s1 v hv => ⟨fun n hn s2 => ?_, fun kn hvk hnn hp hsame => ?_,
        fun n s2 hdone _ => ?_⟩⟩
      · have heq : s.admitRecord p q = s1.failLaunch p q ix tkt l n := by
          obtain ⟨hbad, hnp⟩ | ⟨⟨kn, hok⟩, hnever, hn5⟩ := hn
          · rw [hbad] at hv
            by_cases hnever : never
            · rw [State.admitRecord_never hh hw hans hask hd hnever, State.judgeRecord_bad hv]
            · rw [State.admitRecord_pays hh hw hans hask hd hnever (hnp.resolve_left hnever), State.judgeRecord_bad hv]
          · rw [hok] at hv
            rw [State.admitRecord_never hh hw hans hask hd hnever, State.judgeRecord_refuse hv, hn5]
        exact ⟨fun hf => exec_queueDispatch_taken ho hr (heq.trans hf), fun hf hm => exec_queueDispatch_waits ho hr (heq.trans hf) hm,
          fun y m' s3 hf hm hy => exec_queueDispatch_behind ho hr (heq.trans hf) hm hy⟩
      · rw [hvk] at hv
        have heq : s.admitRecord p q = (s1.startGrid p q ix tkt l kn, true) := by
          rw [State.admitRecord_pays hh hw hans hask hd hnn hp, State.judgeRecord_start hv]
        obtain ⟨gk, hfresh, hother, hgrid, hgrids, hwin, hqueue, hticket⟩ := s1.startGrid_rule p q ix tkt l kn
        rw [hsame] at hgrid hqueue
        exact ⟨_, gk, exec_queueDispatch_taken ho hr heq, hfresh, hother, hgrid, hgrids, hwin, hqueue, hticket⟩
      · exact State.failLaunch_rule hdone

end Sys2Proof.Machine

/-! PROOFS. Placement of clusters (R15, R27, R307): rectangles, room on a core, requests that an acquire leaves, shares and teams that start. -/

namespace Sys2Proof.Machine

open Host

/-! ## Rectangles of cores in the order of R307 -/

/-- Places of a rectangle in a package: die, row and column of its top-left core, in the order in which the distributor looks. -/
def spots (cw ch : Nat) : List (Nat × Nat × Nat) :=
  (List.range 4).flatMap fun d => (List.range (4 - ch)).flatMap fun r => (List.range (5 - cw)).map fun c => (d, r, c)

theorem rectangles_eq (p cw ch : Nat) : rectangles p cw ch = (spots cw ch).map fun x => rectangle (4 * p + x.1) cw ch x.2.1 x.2.2 := by
  unfold rectangles spots
  simp only [List.map_flatMap, List.map_map]
  rfl

theorem mem_spots {cw ch : Nat} {x : Nat × Nat × Nat} : x ∈ spots cw ch ↔ x.1 < 4 ∧ x.2.1 + ch ≤ 3 ∧ x.2.2 + cw ≤ 4 := by
  unfold spots
  simp only [List.mem_flatMap, List.mem_map, List.mem_range]
  constructor
  · rintro ⟨d, hd, r, hr, c, hc, rfl⟩
    exact ⟨hd, by dsimp only; omega, by dsimp only; omega⟩
  · rintro ⟨hd, hr, hc⟩
    exact ⟨x.1, hd, x.2.1, by omega, x.2.2, by omega, rfl⟩

/-- The lowest die first, then the lowest mesh index. -/
theorem pairwise_spots (cw ch : Nat) : (spots cw ch).Pairwise fun x y => x.1 < y.1 ∨ x.1 = y.1 ∧ 4 * x.2.1 + x.2.2 ≤ 4 * y.2.1 + y.2.2 := by
  unfold spots
  rw [List.pairwise_flatMap]
  refine ⟨fun d _ => ?_, ?_⟩
  · rw [List.pairwise_flatMap]
    refine ⟨fun r _ => ?_, ?_⟩
    · rw [List.pairwise_map]
      exact List.pairwise_lt_range.imp fun h => .inr ⟨rfl, by dsimp only; omega⟩
    · refine List.pairwise_lt_range.imp fun {r r'} h x hx y hy => ?_
      obtain ⟨c, hc, rfl⟩ := List.mem_map.mp hx
      obtain ⟨c', hc', rfl⟩ := List.mem_map.mp hy
      rw [List.mem_range] at hc hc'
      exact .inr ⟨rfl, by dsimp only; omega⟩
  · refine List.pairwise_lt_range.imp fun {d d'} h x hx y hy => ?_
    simp only [List.mem_flatMap, List.mem_map] at hx hy
    obtain ⟨r, -, c, -, rfl⟩ := hx
    obtain ⟨r', -, c', -, rfl⟩ := hy
    exact .inl h

theorem mem_rectangle {die cw ch r c x : Nat} : x ∈ rectangle die cw ch r c ↔ ∃ a < ch, ∃ b < cw, x = 12 * die + 4 * (r + a) + c + b := by
  unfold rectangle
  simp only [List.mem_flatMap, List.mem_map, List.mem_range, eq_comm]

theorem length_rectangle (die cw ch r c : Nat) : (rectangle die cw ch r c).length = cw * ch := by
  unfold rectangle
  simp only [List.length_flatMap, List.length_map, List.length_range, List.map_const', List.sum_replicate, smul_eq_mul, Nat.mul_comm]

/-- The cores of a rectangle that lies on the die are different ones. -/
theorem nodup_rectangle {die cw ch r c : Nat} (h : c + cw ≤ 4) : (rectangle die cw ch r c).Nodup := by
  unfold rectangle
  rw [List.nodup_flatMap]
  refine ⟨fun a _ => List.nodup_range.map fun b b' hb => by omega, ?_⟩
  refine List.pairwise_lt_range.imp fun {a a'} hlt => ?_
  rw [Function.onFun, List.disjoint_left]
  intro x hx hx'
  obtain ⟨b, hb, rfl⟩ := List.mem_map.mp hx
  obtain ⟨b', hb', heq⟩ := List.mem_map.mp hx'
  rw [List.mem_range] at hb hb'
  omega

theorem pkgOf_rectangle {p d cw ch r c x : Nat} (hd : d < 4) (hr : r + ch ≤ 3) (hc : c + cw ≤ 4) (hx : x ∈ rectangle (4 * p + d) cw ch r c) : x / 48 = p := by
  obtain ⟨a, ha, b, hb, rfl⟩ := mem_rectangle.mp hx
  omega

section
variable {s : State} {p : Nat} {g : Grid}

theorem State.findPlace_eq : s.findPlace p g [] = ((spots g.launch.cw g.launch.ch).find? fun x =>
    (rectangle (4 * p + x.1) g.launch.cw g.launch.ch x.2.1 x.2.2).all fun c => s.coreFits c g.kernel.need []).map
      fun x => rectangle (4 * p + x.1) g.launch.cw g.launch.ch x.2.1 x.2.2 := by
  unfold State.findPlace
  rw [rectangles_eq, List.find?_map]
  rfl

theorem State.findPlace_some {l : List Nat} (h : s.findPlace p g [] = some l) : ∃ d r c, (d < 4 ∧ r + g.launch.ch ≤ 3 ∧ c + g.launch.cw ≤ 4) ∧
    l = rectangle (4 * p + d) g.launch.cw g.launch.ch r c ∧ (∀ x ∈ l, s.coreFits x g.kernel.need [] = true) ∧
    ∀ d' r' c', (d' < 4 ∧ r' + g.launch.ch ≤ 3 ∧ c' + g.launch.cw ≤ 4) →
      (∀ x ∈ rectangle (4 * p + d') g.launch.cw g.launch.ch r' c',
        s.coreFits x g.kernel.need [] = true) → d < d' ∨ d = d' ∧ 4 * r + c ≤ 4 * r' + c' := by
  rw [State.findPlace_eq, Option.map_eq_some_iff] at h
  obtain ⟨⟨d, r, c⟩, hx, rfl⟩ := h
  obtain ⟨hfit, before, behind, hlist, hno⟩ := List.find?_eq_some_iff_append.mp hx
  refine ⟨d, r, c, mem_spots.mp (List.mem_of_find?_eq_some hx), rfl, fun x hxm => List.all_eq_true.mp hfit x hxm, fun d' r' c' hlies hfits => ?_⟩
  have hmem : (d', r', c') ∈ spots g.launch.cw g.launch.ch := mem_spots.mpr hlies
  have hpair := pairwise_spots g.launch.cw g.launch.ch
  rw [hlist] at hmem hpair
  obtain hin | hin := List.mem_append.mp hmem
  · have := hno _ hin
    rw [List.all_eq_true.mpr hfits] at this
    cases this
  · obtain heq | hin := List.mem_cons.mp hin
    · injection heq with h1 h2
      injection h2 with h2 h3
      omega
    · exact (List.pairwise_cons.mp (List.pairwise_append.mp hpair).2.1).1 _ hin

theorem State.findPlace_none : s.findPlace p g [] = none ↔ ∀ d r c, (d < 4 ∧ r + g.launch.ch ≤ 3 ∧ c + g.launch.cw ≤ 4) →
    ¬∀ x ∈ rectangle (4 * p + d) g.launch.cw g.launch.ch r c, s.coreFits x g.kernel.need [] = true := by
  rw [State.findPlace_eq, Option.map_eq_none_iff, List.find?_eq_none]
  constructor
  · intro h d r c hlies hfits
    exact h (d, r, c) (mem_spots.mpr hlies) (List.all_eq_true.mpr hfits)
  · intro h x hx hfits
    exact h x.1 x.2.1 x.2.2 (mem_spots.mp hx) (List.all_eq_true.mp hfits)

end

/-! ## Room on a core (R27, R307) -/

theorem State.hosted_nil (s : State) (core : Nat) : s.hosted core [] = (s.shares.filter fun e => e.2.core == some core && !e.2.ended).map (·.2) := by
  unfold State.hosted
  simp only [List.contains_nil, Bool.not_false, Bool.and_true]

theorem State.freeSlots_nil (s : State) (core : Nat) : s.freeSlots core [] = ((List.range 16).map fun i => 20 * core + i).filter s.slotFree := by
  unfold State.freeSlots
  refine List.filter_congr fun tk _ => ?_
  have : ((s.team tk).any fun t => ([] : List Nat).contains t.cl) = false := by
    cases s.team tk <;> rfl
  rw [this, Bool.or_false]

/-- A core has room for a share: its partition, its slots, its streams, its blocks and its scratchpad. -/
theorem State.coreFits_iff (s : State) (core : Nat) (k : Kernel) : let hs := s.shares.filter fun e => e.2.core == some core && !e.2.ended
    let here : Prop := hs ≠ [] ∨ ∃ e ∈ s.teams, coreOf e.1 = core ∧ e.1 < 138240
    s.coreFits core k.need [] = true ↔ (here → (s.core core).partition = k.partition) ∧
      k.teams ≤ ((List.range 16).filter fun m => s.slotFree (20 * core + m)).length ∧
      (hs.filter fun e => e.2.stream.isSome).length + (if k.press = 0 then 0 else 1) ≤ 4 ∧
      (hs.map fun e => s.blocksOf e.2).sum + k.accblk ≤ partAcc k.partition ∧
      (hs.map fun e => e.2.spbytes).sum + k.spbytes ≤ partSp k.partition * 65536 := by
  intro hs here
  have hhere : (!(s.hosted core []).isEmpty || s.teams.any fun (e : Nat × Team) => coreOf e.1 == core && !inImage e.1 && !([] : List Nat).contains e.2.cl) = true ↔ here := by
    rw [State.hosted_nil, Bool.or_eq_true, List.any_eq_true]
    refine or_congr ?_ (exists_congr fun e => and_congr_right fun _ => ?_)
    · rw [Bool.not_eq_true', ← Bool.not_eq_true, List.isEmpty_iff, List.map_eq_nil_iff]
    · simp only [List.contains_nil, Bool.not_false, Bool.and_true, Bool.and_eq_true, beq_iff_eq, Bool.not_eq_true', inImage_eq_false]
  have hpart : (((!(s.hosted core []).isEmpty || s.teams.any fun (e : Nat × Team) => coreOf e.1 == core && !inImage e.1 && !([] : List Nat).contains e.2.cl) &&
        (s.core core).partition == k.partition) ||
      ((s.hosted core []).isEmpty && !s.teams.any fun (e : Nat × Team) => coreOf e.1 == core && !inImage e.1 && !([] : List Nat).contains e.2.cl)) = true ↔
      (here → (s.core core).partition = k.partition) := by
    have hnot : ((s.hosted core []).isEmpty && !s.teams.any fun (e : Nat × Team) => coreOf e.1 == core && !inImage e.1 && !([] : List Nat).contains e.2.cl) = true ↔ ¬here := by
      rw [← hhere, Bool.not_eq_true, Bool.or_eq_false_iff, Bool.not_eq_false', Bool.and_eq_true, Bool.not_eq_true']
    rw [Bool.or_eq_true, Bool.and_eq_true, hhere, hnot, beq_iff_eq]
    by_cases hh : here
    · exact ⟨fun h _ => (h.resolve_right (not_not.mpr hh)).2, fun h => .inl ⟨hh, h hh⟩⟩
    · exact ⟨fun _ h => absurd h hh, fun _ => .inr hh⟩
  have hslots : (s.freeSlots core []).length = ((List.range 16).filter fun m => s.slotFree (20 * core + m)).length := by
    rw [State.freeSlots_nil, List.filter_map, List.length_map]
    rfl
  have hstreams : ((s.hosted core []).filter fun x => x.stream.isSome).length = (hs.filter fun e => e.2.stream.isSome).length := by
    rw [State.hosted_nil, List.filter_map, List.length_map]
    rfl
  have hblocks : ((s.hosted core []).map s.blocksOf).foldl (· + ·) 0 = (hs.map fun e => s.blocksOf e.2).sum := by
    rw [State.hosted_nil, List.map_map, foldl_add_eq_sum]
    rfl
  have hbytes : ((s.hosted core []).map (·.spbytes)).foldl (· + ·) 0 = (hs.map fun e => e.2.spbytes).sum := by
    rw [State.hosted_nil, List.map_map, foldl_add_eq_sum]
    rfl
  have hpress : (if k.need.stream then 1 else 0) = if k.press = 0 then 0 else 1 := by
    unfold Kernel.need
    by_cases h : k.press = 0
    · rw [if_pos h, h]
      rfl
    · rw [if_neg h, if_pos (bne_iff_ne.mpr h)]
  unfold State.coreFits
  dsimp only
  rw [Bool.and_eq_true, Bool.and_eq_true, Bool.and_eq_true, Bool.and_eq_true, and_assoc, and_assoc, and_assoc]
  refine and_congr hpart (and_congr ?_ (and_congr ?_ (and_congr ?_ ?_)))
  · rw [decide_eq_true_iff, hslots]
    rfl
  · rw [decide_eq_true_iff, hstreams, hpress]
  · rw [decide_eq_true_iff, hblocks]
    rfl
  · rw [decide_eq_true_iff, hbytes]
    rfl

/-! ## Requests that an acquire leaves (R233) -/

/-- Every request is an earlier one's, or a posted write, and numbers are taken upwards. -/
def State.Posts (s s' : State) : Prop := s.fresh ≤ s'.fresh ∧ ∀ e' ∈ s'.requests, (∃ bs z, e'.2.kind = .write bs z) ∨
  ∃ e ∈ s.requests, e'.2.tk = e.2.tk ∧ e'.2.xfer = e.2.xfer ∧ e'.2.bring = e.2.bring ∧ e'.2.kind = e.2.kind

theorem State.Posts.of_eq {s s' : State} (h : s'.requests = s.requests) (hf : s.fresh ≤ s'.fresh) : s.Posts s' :=
  ⟨hf, fun e he => .inr ⟨e, h ▸ he, rfl, rfl, rfl, rfl⟩⟩

theorem State.Posts.refl (s : State) : s.Posts s := .of_eq rfl (Nat.le_refl _)

theorem State.Posts.trans {a b c : State} (hb : a.Posts b) (hc : b.Posts c) : a.Posts c := by
  refine ⟨Nat.le_trans hb.1 hc.1, fun e he => ?_⟩
  obtain hw | ⟨d, hd, h1, h2, h3, h4⟩ := hc.2 e he
  · exact .inl hw
  · obtain ⟨bs, z, hw⟩ | ⟨x, hx, g1, g2, g3, g4⟩ := hb.2 d hd
    · exact .inl ⟨bs, z, h4.trans hw⟩
    · exact .inr ⟨x, hx, h1.trans g1, h2.trans g2, h3.trans g3, h4.trans g4⟩

theorem State.Posts.foldl {α : Type} (l : List α) (f : State → α → State) (hf : ∀ (s : State) (x : α),
  s.Posts (f s x)) (s : State) : s.Posts (l.foldl f s) := by
  induction l generalizing s with
  | nil => exact .refl s
  | cons x l ih => exact (hf s x).trans (ih _)

/-- Notes on requests leave what they are for. -/
theorem State.posts_mapRequests (s : State) {f : Request → Request}
    (h : ∀ q, (f q).tk = q.tk ∧ (f q).xfer = q.xfer ∧ (f q).bring = q.bring ∧ (f q).kind = q.kind) : s.Posts (s.mapRequests f) := by
  refine ⟨Nat.le_refl _, fun e he => ?_⟩
  obtain ⟨d, hd, rfl⟩ := List.mem_map.mp he
  exact .inr ⟨d, hd, h d.2⟩

theorem State.posts_updPkg (s : State) (p : Nat) (f : Pkg → Pkg) : s.Posts (s.updPkg p f) := .of_eq rfl (Nat.le_refl _)

theorem State.posts_setCache (s : State) (lvl : Level) (x : Cache) : s.Posts (s.setCache lvl x) := by
  cases lvl <;> exact .of_eq rfl (Nat.le_refl _)

theorem State.posts_noteFill (s : State) (lvl : Level) (key : Nat) (m : BitVec 32) : s.Posts (s.noteFill lvl key m) := by
  refine s.posts_mapRequests fun q => ?_
  split <;> exact ⟨rfl, rfl, rfl, rfl⟩

theorem State.posts_mergeDirty (s : State) (lvl : Level) (key : Nat) (bs : List Byte) (mask : BitVec 32) (u : Bool) : s.Posts (s.mergeDirty lvl key bs mask u) :=
  (s.posts_setCache lvl _).trans (State.posts_noteFill _ lvl key mask)

theorem State.posts_dropLine (s : State) (lvl : Level) (key : Nat) : s.Posts (s.dropLine lvl key) :=
  (s.posts_setCache lvl _).trans (State.posts_noteFill _ lvl key _)

theorem State.posts_postWrite (s : State) (core key : Nat) (bs : List Byte) (mask : BitVec 32) (w : Issuer) : s.Posts (s.postWrite core key bs mask w) := by
  refine ⟨Nat.le_succ _, fun e he => ?_⟩
  obtain rfl | he := mem_put (show e ∈ put s.requests s.fresh _ from he)
  · exact .inl ⟨bs, w.strong, rfl⟩
  · exact .inr ⟨e, he, rfl, rfl, rfl, rfl⟩

theorem State.posts_reads {s s' : State} (h : s.Reads s') : s.Posts s' := .of_eq (by rw [h.1]) (by rw [h.1])

theorem State.posts_writeGranule (s : State) (p frame sector : Nat) (bs : List Byte) (mask : BitVec 32) : s.Posts (s.writeGranule p frame sector bs mask).1 := by
  have hread := State.posts_reads (State.reads_readGranule s p frame sector)
  have hhist (x : State) (kind symbol : Nat) : x.Posts (x.addHist p frame sector kind symbol) := State.posts_reads (State.reads_addHist x p _ _ _ _)
  unfold State.writeGranule
  dsimp only
  split
  · exact State.posts_updPkg s p _
  split
  · exact hhist s 4 63
  split
  · exact hread.trans (hhist _ 4 63)
  · exact hread.trans (State.posts_updPkg _ p _)

/-- A write to memory is performed, or posted. -/
theorem State.posts_memWrite (s : State) (core key : Nat) (bs : List Byte) (mask : BitVec 32) (w : Issuer) : s.Posts (s.memWrite core key bs mask w) := by
  unfold State.memWrite
  dsimp only
  split
  · split
    · exact .refl s
    · refine .foldl _ _ (fun x i => ?_) s
      split <;> exact .of_eq rfl (Nat.le_refl _)
  · split
    · next f _ =>
      split
      · refine State.Posts.trans ?_ (State.posts_updPkg _ _ fun k => k.touch f)
        split
        · exact State.posts_updPkg s _ _
        · exact State.posts_writeGranule s _ _ _ _ _
      · exact State.posts_postWrite s _ _ _ _ _
    · exact State.posts_postWrite s _ _ _ _ _

theorem State.posts_writeBackOne (s : State) (lvl : Level) (key : Nat) : s.Posts (s.writeBackOne lvl key) := by
  unfold State.writeBackOne
  split
  · exact .refl s
  · split
    · exact .refl s
    · dsimp only
      split
      · exact (State.posts_setCache s lvl _).trans (State.posts_mergeDirty _ _ _ _ _ _)
      · exact (State.posts_setCache s lvl _).trans (State.posts_memWrite _ _ _ _ _ _)

theorem State.posts_advance (s : State) (lvl : Level) (ix : Nat) : s.Posts (s.advance lvl ix) := by
  unfold State.advance State.flashClear
  dsimp only
  refine State.Posts.trans ?_ (State.posts_setCache _ _ _)
  refine State.Posts.trans ?_ (State.posts_updPkg _ _ fun k => { k with coh := k.coh + 1 })
  refine State.Posts.trans ?_ (State.posts_mapRequests _ fun q => ?_)
  · exact .foldl _ _ (fun x k => (State.posts_writeBackOne x lvl k).trans (State.posts_dropLine _ lvl k)) s
  · split <;> exact ⟨rfl, rfl, rfl, rfl⟩

/-- An acquire posts writes, and no other request. -/
theorem State.posts_acquire (s : State) (core scope : Nat) : s.Posts (s.acquire core scope) := by
  unfold State.acquire
  refine .foldl _ _ (fun x l => ?_) s
  split
  · exact State.posts_advance x l _
  · exact .refl x

theorem State.posts_writeBackAll (s : State) (lvl : Level) (p : Sector → Bool) : s.Posts (s.writeBackAll lvl p) := by
  unfold State.writeBackAll
  exact .foldl _ _ (fun x (e : Nat × Sector) => State.posts_writeBackOne x lvl e.1) s

/-- A release posts writes, and no other request. -/
theorem State.posts_release (s : State) (core scope : Nat) : s.Posts (s.release core scope) := by
  unfold State.release
  exact .foldl _ _ (fun x l => State.posts_writeBackAll x l _) s

/-- A free slot stays free where no team comes and no request but posted writes. -/
theorem State.Posts.slotFree {s s' : State} (h : s.Posts s') {tk : Nat} (ht : s'.team tk = s.team tk) (hf : s.slotFree tk = true) : s'.slotFree tk = true := by
  rw [State.slotFree_iff] at hf ⊢
  obtain ⟨hnone, hreq⟩ := hf
  refine ⟨ht.trans hnone, fun e' he' ⟨htk, hx, hb, hk⟩ => ?_⟩
  obtain ⟨bs, z, hw⟩ | ⟨e, he, h1, h2, h3, h4⟩ := h.2 e' he'
  · rw [hw] at hk
    obtain hk | ⟨ops, hk⟩ := hk <;> cases hk
  · exact hreq e he ⟨h1 ▸ htk, h2 ▸ hx, h3 ▸ hb, h4 ▸ hk⟩

/-! ## Teams that start (R35) -/

/-- What starts of teams may change: the teams, serials of packages and fresh numbers. -/
def State.Starts (s s' : State) : Prop := s' = { s with teams := s'.teams, pkgs := s'.pkgs, fresh := s'.fresh } ∧ s.fresh ≤ s'.fresh

theorem State.Starts.trans {a b c : State} (hb : a.Starts b) (hc : b.Starts c) : a.Starts c := by
  obtain ⟨hb, hbf⟩ := hb
  obtain ⟨hc, hcf⟩ := hc
  refine ⟨?_, Nat.le_trans hbf hcf⟩
  rw [hb] at hc
  exact hc

theorem State.starts_startTeam (s : State) (tk : Nat) (x : Start) (k : Kernel) : s.Starts (s.startTeam tk x k) := by
  obtain ⟨n, nx, heq⟩ := s.startTeam_eq tk x k
  rw [heq]
  exact ⟨rfl, Nat.le_succ _⟩

/-- Teams that start in slots of their own. -/
theorem State.foldl_startTeam (st : Nat → Start) (k : Kernel) (ys : List Nat) (hy : ys.Nodup) (s : State) (n : Nat) :
    let X := (ys.zipIdx n).foldl (fun s y => s.startTeam y.1 (st y.2) k) s
    s.Starts X ∧ (∀ q, q ∉ ys → X.team q = s.team q) ∧
    ∀ i tk, ys[i]? = some tk → ∃ ser now seq, X.team tk = some (teamStart (st (n + i)) k ser now seq) := by
  induction ys generalizing s n with
  | nil => exact ⟨⟨rfl, Nat.le_refl _⟩, fun q _ => rfl, fun i tk h => by cases h⟩
  | cons y ys ih =>
    obtain ⟨hnot, hys⟩ := List.nodup_cons.mp hy
    obtain ⟨ser, hteam, hothers, -, -⟩ := s.startTeam_rule y (st n) k
    obtain ⟨hstarts, hkeep, hat⟩ := ih hys (s.startTeam y (st n) k) (n + 1)
    rw [List.zipIdx_cons, List.foldl_cons]
    refine ⟨(s.starts_startTeam y (st n) k).trans hstarts, fun q hq => ?_, fun i tk h => ?_⟩
    · rw [hkeep q fun h => hq (List.mem_cons_of_mem _ h), hothers q (List.ne_of_not_mem_cons hq)]
    · cases i with
      | zero =>
        injection h with h
        subst h
        exact ⟨ser, s.now, s.fresh, (hkeep y hnot).trans hteam⟩
      | succ i =>
        rw [show n + (i + 1) = n + 1 + i by omega]
        exact hat i tk h

/-! ## A cluster that starts (R15, R26, R190, R307) -/

/-- The share of a cluster on a core, at a place of its rectangle. -/
def shareAt (gk : Nat) (g : Grid) (cl : Nat) (x : Nat × Nat) : Share :=
  { core := some x.1, cl := cl, grid := gk, pos := x.2, spbytes := g.kernel.spbytes, nteams := g.kernel.teams, rings := List.replicate g.kernel.rings {}
    stream := if g.kernel.press = 0 then none else
      some { st := .running, spc := g.launch.kernel + g.kernel.press, blocks := List.replicate g.kernel.accblk {} } }

/-- The start of team m of that share. -/
def shareStart (gk : Nat) (g : Grid) (cl : Nat) (x : Nat × Nat) (m : Nat) : Start :=
  ⟨cl + 1 + x.2, cl, gk, g.ctx, x.2 * g.kernel.teams + m, g.nextCluster, m, roleOfCode (g.kernel.roleCode m), g.launch.kernel + g.kernel.entry,
    g.launch.param,
    .none⟩

/-- The share stands on its core, before its teams. -/
def State.putShare (s : State) (gk : Nat) (g : Grid) (cl : Nat) (x : Nat × Nat) : State :=
  ((if g.ticket.isSome then s.acquire x.1 4 else s).updCore x.1 fun c => { c with partition := g.kernel.partition }).setShare (cl + 1 + x.2) (shareAt gk g cl x)

/-- A share starts on its core. -/
def State.startShare (gk : Nat) (g : Grid) (cl : Nat) (s : State) (x : Nat × Nat) : State :=
  ((((s.putShare gk g cl x).freeSlots x.1 []).take g.kernel.teams).zipIdx).foldl (fun s y => s.startTeam y.1 (shareStart gk g cl x y.2) g.kernel)
    (s.putShare gk g cl x)

/-- The machine with a new cluster. -/
def State.addCluster (s : State) (gk : Nat) (g : Grid) (cores : List Nat) : State :=
  ({ s with fresh := s.fresh + 1 + cores.length }).setCluster s.fresh
    { grid := gk, index := g.nextCluster, cw := g.launch.cw, ch := g.launch.ch, die := (cores.headD 0) / 12,
      shares := (List.range cores.length).map fun i => s.fresh + 1 + i, placedSeq := s.fresh }

/-- A grid with one more cluster and its cores. -/
def Grid.addCluster (g : Grid) (cl : Nat) (cores : List Nat) : Grid :=
  { g with nextCluster := g.nextCluster + 1, clusters := g.clusters ++ [cl], cores := g.cores ++ cores.filter fun c => !g.cores.contains c }

/-- The machine with a cluster in its grid, before its shares. -/
def State.putCluster (s : State) (gk : Nat) (g : Grid) (cores : List Nat) : State :=
  (s.addCluster gk g cores).updGrid gk fun g => g.addCluster s.fresh cores

theorem State.startCluster_eq (s : State) (gk : Nat) (g : Grid) (cores : List Nat) :
    s.startCluster gk g cores = (cores.zipIdx).foldl (State.startShare gk g s.fresh) (s.putCluster gk g cores) := rfl

/-- A share stands with its teams on its core. -/
def State.HasShare (s : State) (gk : Nat) (g : Grid) (cl : Nat) (x : Nat × Nat) : Prop :=
  (s.core x.1).partition = g.kernel.partition ∧ s.share (cl + 1 + x.2) = some (shareAt gk g cl x) ∧
  ∀ m < g.kernel.teams, ∃ tk ser now seq, coreOf tk = x.1 ∧ tk % 20 < 16 ∧ s.team tk = some (teamStart (shareStart gk g cl x m) g.kernel ser now seq)

theorem coreOf_slot {core i : Nat} (hc : core < 6912) (hi : i < 16) : coreOf (20 * core + i) = core := by
  unfold coreOf
  omega

theorem State.mem_freeSlots {s : State} {core tk : Nat} (hc : core < 6912) (h : tk ∈ s.freeSlots core []) : coreOf tk = core ∧ tk % 20 < 16 := by
  rw [State.freeSlots_nil] at h
  obtain ⟨i, hi, rfl⟩ := List.mem_map.mp (List.mem_filter.mp h).1
  rw [List.mem_range] at hi
  exact ⟨coreOf_slot hc hi, by omega⟩

/-- Free slots of a core stay free where its teams stay and writes alone are posted. -/
theorem State.Posts.freeSlots {s s' : State} (h : s.Posts s') {core : Nat} (hc : core < 6912) (ht : ∀ q, coreOf q = core → s'.team q = s.team q) :
    (s.freeSlots core []).length ≤ (s'.freeSlots core []).length := by
  rw [State.freeSlots_nil, State.freeSlots_nil, ← List.countP_eq_length_filter, ← List.countP_eq_length_filter]
  refine List.countP_mono_left fun tk htk hf => h.slotFree (ht tk ?_) hf
  obtain ⟨i, hi, rfl⟩ := List.mem_map.mp htk
  exact coreOf_slot hc (List.mem_range.mp hi)

section
variable (s : State) (gk : Nat) (g : Grid) (cl : Nat) (x : Nat × Nat)

theorem State.putShare_rule : let Y := s.putShare gk g cl x
    (∀ q, Y.team q = s.team q) ∧ Y.clusters = s.clusters ∧ Y.grids = s.grids ∧ s.Posts Y ∧ (Y.core x.1).partition = g.kernel.partition ∧
    (∀ c, c ≠ x.1 → (Y.core c).partition = (s.core c).partition) ∧ Y.share (cl + 1 + x.2) = some (shareAt gk g cl x) ∧
    ∀ n, n ≠ cl + 1 + x.2 → Y.share n = s.share n := by
  intro Y
  have hbase : ∃ W : State, s.Flows W ∧ s.Posts W ∧
      Y = (W.updCore x.1 fun c => { c with partition := g.kernel.partition }).setShare (cl + 1 + x.2) (shareAt gk g cl x) := by
    by_cases ht : g.ticket.isSome = true
    · refine ⟨s.acquire x.1 4, State.flows_acquire s _ _, State.posts_acquire s _ _, ?_⟩
      show s.putShare gk g cl x = _
      unfold State.putShare
      rw [if_pos ht]
    · refine ⟨s, .refl s, .refl s, ?_⟩
      show s.putShare gk g cl x = _
      unfold State.putShare
      rw [if_neg ht]
  obtain ⟨W, hflows, hposts, hY⟩ := hbase
  rw [hY]
  refine ⟨hflows.team, hflows.clusters, hflows.grids, hposts.trans (.of_eq rfl (Nat.le_refl _)), ?_, fun c hc => ?_, State.share_setShare ..,
    fun n hn => ?_⟩
  · exact congrArg Core.partition (State.core_updCore W x.1 fun c => { c with partition := g.kernel.partition })
  · refine (congrArg Core.partition (State.core_updCore_other W (fun c => { c with partition := g.kernel.partition }) hc)).trans ?_
    rw [hflows.core]
  · exact (State.share_setShare_other _ _ hn).trans (hflows.share n)

/-- A share starts where its core has slots for its teams. -/
theorem State.startShare_rule (hc : x.1 < 6912) (hroom : g.kernel.teams ≤ (s.freeSlots x.1 []).length) : let Y := s.startShare gk g cl x
    (∀ q, coreOf q ≠ x.1 → Y.team q = s.team q) ∧ Y.clusters = s.clusters ∧ Y.grids = s.grids ∧ s.Posts Y ∧
    (∀ c, c ≠ x.1 → (Y.core c).partition = (s.core c).partition) ∧ (∀ n, n ≠ cl + 1 + x.2 → Y.share n = s.share n) ∧ Y.HasShare gk g cl x := by
  intro Y
  obtain ⟨hteam, hclusters, hgrids, hposts, hpart, hparts, hshare, hshares⟩ := s.putShare_rule gk g cl x
  generalize hZ : s.putShare gk g cl x = Z at *
  have hslots : g.kernel.teams ≤ (Z.freeSlots x.1 []).length := Nat.le_trans hroom (hposts.freeSlots hc fun q _ => hteam q)
  have hnodup : ((Z.freeSlots x.1 []).take g.kernel.teams).Nodup := by
    refine List.Nodup.sublist (List.take_sublist _ _) ?_
    rw [State.freeSlots_nil]
    exact (List.nodup_range.map fun i j h => by omega).filter _
  have hcore (q : Nat) (hq : q ∈ (Z.freeSlots x.1 []).take g.kernel.teams) := State.mem_freeSlots hc (List.mem_of_mem_take hq)
  obtain ⟨hstarts, hkeep, hat⟩ := State.foldl_startTeam (shareStart gk g cl x) g.kernel _ hnodup Z 0
  have hY : Y = (((Z.freeSlots x.1 []).take g.kernel.teams).zipIdx).foldl (fun s y => s.startTeam y.1 (shareStart gk g cl x y.2) g.kernel) Z := by
    rw [← hZ]
    rfl
  rw [← hY] at hstarts hkeep hat
  clear_value Y
  obtain ⟨hstarts, hfresh⟩ := hstarts
  have hYc (c : Nat) : Y.core c = Z.core c := by rw [hstarts]; rfl
  have hYs (n : Nat) : Y.share n = Z.share n := by rw [hstarts]; rfl
  refine ⟨fun q hq => ?_, ?_, ?_, hposts.trans (.of_eq ?_ hfresh), fun c hcx => ?_, fun n hn => ?_, ?_, ?_, fun m hm => ?_⟩
  · rw [hkeep q fun h => hq (hcore q h).1, hteam]
  · rw [hstarts]
    exact hclusters
  · rw [hstarts]
    exact hgrids
  · rw [hstarts]
  · rw [hYc, hparts c hcx]
  · rw [hYs, hshares n hn]
  · rw [hYc, hpart]
  · rw [hYs, hshare]
  · have hlt : m < ((Z.freeSlots x.1 []).take g.kernel.teams).length := by
      rw [List.length_take]
      omega
    obtain ⟨ser, now, seq, ht⟩ := hat m _ (List.getElem?_eq_getElem hlt)
    rw [Nat.zero_add] at ht
    obtain ⟨h1, h2⟩ := hcore _ (List.getElem_mem hlt)
    exact ⟨_, ser, now, seq, h1, h2, ht⟩

end

/-- Shares that start on cores of their own, at places of their own. -/
theorem State.foldl_startShare (gk : Nat) (g : Grid) (cl : Nat) (l : List (Nat × Nat)) (hcores : (l.map (·.1)).Nodup) (hplaces : (l.map (·.2)).Nodup) (s : State)
    (hl : ∀ x ∈ l, x.1 < 6912 ∧ g.kernel.teams ≤ (s.freeSlots x.1 []).length) : let X := l.foldl (State.startShare gk g cl) s
    (∀ q, coreOf q ∉ l.map (·.1) → X.team q = s.team q) ∧ X.clusters = s.clusters ∧ X.grids = s.grids ∧
    (∀ c, c ∉ l.map (·.1) → (X.core c).partition = (s.core c).partition) ∧ (∀ n, (∀ x ∈ l, n ≠ cl + 1 + x.2) → X.share n = s.share n) ∧
    ∀ x ∈ l, X.HasShare gk g cl x := by
  induction l generalizing s with
  | nil => exact ⟨fun _ _ => rfl, rfl, rfl, fun _ _ => rfl, fun _ _ => rfl, fun x hx => by cases hx⟩
  | cons x l ih =>
    rw [List.map_cons, List.nodup_cons] at hcores hplaces
    obtain ⟨hxc, hxroom⟩ := hl x (List.mem_cons_self ..)
    obtain ⟨hteam, hclusters, hgrids, hposts, hparts, hshares, hhas⟩ := State.startShare_rule s gk g cl x hxc hxroom
    have hne (y : Nat × Nat) (hy : y ∈ l) : y.1 ≠ x.1 := fun h => hcores.1 (h ▸ List.mem_map_of_mem hy)
    have hroom (y : Nat × Nat) (hy : y ∈ l) : y.1 < 6912 ∧ g.kernel.teams ≤ ((s.startShare gk g cl x).freeSlots y.1 []).length := by
      obtain ⟨hyc, hyr⟩ := hl y (List.mem_cons_of_mem _ hy)
      exact ⟨hyc, Nat.le_trans hyr (hposts.freeSlots hyc fun q hq => hteam q (hq ▸ hne y hy))⟩
    obtain ⟨iteam, iclusters, igrids, iparts, ishares, ihas⟩ := ih hcores.2 hplaces.2 _ hroom
    rw [List.foldl_cons]
    refine ⟨fun q hq => ?_, iclusters.trans hclusters, igrids.trans hgrids, fun c hc => ?_, fun n hn => ?_, fun y hy => ?_⟩
    · rw [List.map_cons, List.mem_cons, not_or] at hq
      rw [iteam q hq.2, hteam q hq.1]
    · rw [List.map_cons, List.mem_cons, not_or] at hc
      rw [iparts c hc.2, hparts c hc.1]
    · rw [ishares n fun y hy => hn y (List.mem_cons_of_mem _ hy), hshares n (hn x (List.mem_cons_self ..))]
    · obtain rfl | hy := List.mem_cons.mp hy
      · obtain ⟨h1, h2, h3⟩ := hhas
        refine ⟨(iparts _ hcores.1).trans h1, (ishares _ fun z hz h => ?_).trans h2, fun m hm => ?_⟩
        · exact hplaces.1 (List.mem_map.mpr ⟨z, hz, by omega⟩)
        · obtain ⟨tk, ser, now, seq, hcore, hslot, ht⟩ := h3 m hm
          exact ⟨tk, ser, now, seq, hcore, hslot, (iteam tk (by rw [hcore]; exact hcores.1)).trans ht⟩
      · exact ihas y hy

theorem State.updGrid_some {s : State} {gk : Nat} {g : Grid} (h : s.grid gk = some g) (f : Grid → Grid) : s.updGrid gk f = s.setGrid gk (f g) := by
  unfold State.updGrid
  rw [h]

/-! ## The distributor (R307) -/

/-- Pre-empted clusters of earlier grids go first, but for those whose room was taken for this grid (log 13). -/
theorem ahead_iff {s : State} {p gk : Nat} {g : Grid} : ((s.savedClusters p).any fun c => c.2.grid ≤ gk && !(c.2.grid != gk && (s.grid c.2.grid).any fun v => s.victimOf p v g)) = true ↔
    ∃ c ∈ s.savedClusters p, c.2.grid ≤ gk ∧ (c.2.grid = gk ∨ ∀ v, s.grid c.2.grid = some v → s.victimOf p v g = false) := by
  rw [List.any_eq_true]
  refine exists_congr fun c => and_congr_right fun _ => ?_
  rw [Bool.and_eq_true, decide_eq_true_iff, Bool.not_eq_true', Bool.and_eq_false_iff, bne_eq_false_iff_eq]
  refine and_congr_right fun _ => or_congr_right ?_
  cases s.grid c.2.grid with
  | none => exact ⟨fun _ _ h => (Option.some_ne_none _ h.symm).elim, fun _ => rfl⟩
  | some v => exact ⟨fun h w hw => Option.some.inj hw ▸ h, fun h => h v rfl⟩

section
variable {s : State} {p gk : Nat} {g : Grid} (hg : s.nextGrid p = some (gk, g))
include hg

/-- What CLUSTER_PLACE does for the earliest grid with an unplaced cluster. -/
theorem exec_clusterPlace_eq : exec (.clusterPlace p) s = .next (
    let ahead := (s.savedClusters p).any fun c => c.2.grid ≤ gk && !(c.2.grid != gk && (s.grid c.2.grid).any fun v => s.victimOf p v g)
    if ahead || !s.poolRoom p g then s
    else match s.findPlace p g [] with
      | none => s
      | some cores => s.startCluster gk g cores) := by
  show execClusterPlace p s = _
  unfold execClusterPlace
  rw [hg] <;> rfl

end

/-- Settles O48: the rectangle by `State.findPlace_some`, the room by `State.coreFits_iff`, the shares and their teams by `State.foldl_startShare`. -/
theorem clusterPlacement : Obligations.ClusterPlacement := by
  unfold Obligations.ClusterPlacement
  intro s p gk g cores hp hg hgk i k ahead n cl rect lies fits
  have hrect (d r c : Nat) : rectangle (4 * p + d) g.launch.cw g.launch.ch r c = rect d r c := by
    unfold rectangle rect
    simp only [Nat.add_assoc]
  have heq : exec i s = _ := exec_clusterPlace_eq hg
  refine ⟨fun l hl => ?_, ?_, fun core => s.coreFits_iff core k, fun hno => ?_, fun hna hpool hplace hteams => ?_⟩
  · obtain ⟨d, r, c, hlies, hlist, hfits, hfirst⟩ := State.findPlace_some hl
    rw [hrect] at hlist
    refine ⟨d, r, c, hlies, hlist, fun x hx => hfits x (hlist ▸ hx), fun d' r' c' hlies' hfits' => hfirst d' r' c' hlies' ?_⟩
    rw [hrect]
    exact hfits'
  · rw [State.findPlace_none]
    refine forall_congr' fun d => forall_congr' fun r => forall_congr' fun c => ?_
    rw [hrect]
  · rw [heq]
    refine congrArg _ ?_
    by_cases hstop : ((s.savedClusters p).any fun c => c.2.grid ≤ gk && !(c.2.grid != gk && (s.grid c.2.grid).any fun v => s.victimOf p v g)) ||
        !s.poolRoom p g
    · exact if_pos hstop
    · refine (if_neg hstop).trans ?_
      rw [Bool.or_eq_true, not_or, Bool.not_eq_true', Bool.not_eq_false] at hstop
      obtain hah | hpool | hplace := hno
      · exact absurd (ahead_iff.mpr hah) hstop.1
      · rw [hpool] at hstop
        cases hstop.2
      · rw [hplace]
  · have hX : exec i s = .next (s.startCluster gk g cores) := by
      rw [heq]
      refine congrArg _ ((if_neg ?_).trans ?_)
      · rw [Bool.or_eq_true, not_or, hpool]
        exact ⟨fun h => hna (ahead_iff.mp h), Bool.false_ne_true⟩
      · rw [hplace]
    obtain ⟨d, r, c, ⟨hd, hr, hc⟩, hlist, hfits, -⟩ := State.findPlace_some hplace
    have hcores (x : Nat) (hx : x ∈ cores) : x / 48 = p := pkgOf_rectangle hd hr hc (hlist ▸ hx)
    have hnodup : cores.Nodup := hlist ▸ nodup_rectangle hc
    let B : State := s.putCluster gk g cores
    have hB : B = (s.addCluster gk g cores).setGrid gk (g.addCluster s.fresh cores) := State.updGrid_some (s := s.addCluster gk g cores) hgk _
    have hroom (x : Nat × Nat) (hx : x ∈ cores.zipIdx) : x.1 < 6912 ∧ g.kernel.teams ≤ (B.freeSlots x.1 []).length := by
      have hmem : x.1 ∈ cores := List.fst_mem_of_mem_zipIdx hx
      have hlt : x.1 < 6912 := by
        have := hcores x.1 hmem
        omega
      have hfree : (B.freeSlots x.1 []).length = ((List.range 16).filter fun m => s.slotFree (20 * x.1 + m)).length := by
        rw [hB, State.freeSlots_nil, List.filter_map, List.length_map]
        rfl
      exact ⟨hlt, hfree ▸ ((s.coreFits_iff x.1 g.kernel).mp (hfits x.1 hmem)).2.1⟩
    obtain ⟨-, hclusters, hgrids, -, -, hhas⟩ := State.foldl_startShare gk g s.fresh cores.zipIdx (by rw [List.zipIdx_map_fst]; exact hnodup)
      (by rw [List.zipIdx_map_snd]; exact List.nodup_range') B hroom
    rw [← State.startCluster_eq] at hclusters hgrids hhas
    refine ⟨s.startCluster gk g cores, hX, fun x hx => ⟨hfits x hx, hcores x hx⟩, ?_, ?_, ⟨g.addCluster s.fresh cores, ?_, rfl, rfl,
      fun c hc => ?_⟩, fun j core hj => ?_⟩
    · show cores.length = _
      rw [hlist, length_rectangle]
    · unfold State.cluster
      rw [hclusters, hB]
      exact find_put_same ..
    · unfold State.grid
      rw [hgrids, hB]
      exact find_put_same ..
    · refine List.mem_append.mpr ?_
      rw [List.mem_filter]
      by_cases hin : c ∈ g.cores
      · exact .inl hin
      · exact .inr ⟨hc, by rw [Bool.not_eq_true', ← Bool.not_eq_true, List.contains_iff_mem]; exact hin⟩
    · obtain ⟨h1, h2, h3⟩ := hhas (core, j) (List.mk_mem_zipIdx_iff_getElem?.mpr hj)
      refine ⟨h1, h2, fun m hm => ?_⟩
      obtain ⟨tk, ser, now, seq, hcore, hslot, ht⟩ := h3 m hm
      exact ⟨tk, _, hcore, hslot, ht, rfl, rfl, rfl, rfl, rfl, rfl, rfl, rfl, rfl, rs_teamStart .., rfl, rfl, rfl, rfl, rfl⟩

end Sys2Proof.Machine

/-! PROOFS. Pre-emption and resumption (R311 to R314): teams that move to their images and back, what may be pre-empted and in which order,
  shares that leave and come back. -/

namespace Sys2Proof.Machine

open Host

/-! ## A team that moves to its image (R313) -/

/-- A team that other teams' moves leave: its serial, its region, its step, whether it is admitted and whether results are outstanding. -/
def Team.Alike (t u : Team) : Prop := u.serial = t.serial ∧ u.tryR = t.tryR ∧ u.stepping = t.stepping ∧ u.settled = t.settled ∧ u.admitted = t.admitted

theorem Team.Alike.refl (t : Team) : t.Alike t := ⟨rfl, rfl, rfl, rfl, rfl⟩

theorem Team.Alike.trans {a b c : Team} (hb : a.Alike b) (hc : b.Alike c) : a.Alike c := by
  obtain ⟨h1, h2, h3, h4, h5⟩ := hb
  obtain ⟨g1, g2, g3, g4, g5⟩ := hc
  exact ⟨g1.trans h1, g2.trans h2, g3.trans h3, g4.trans h4, g5.trans h5⟩

/-- The team of a slot is one alike, or there is none as before. -/
def State.KeepsTeam (s s' : State) (q : Nat) : Prop := ∃ f : Team → Team, s'.team q = (s.team q).map f ∧ ∀ t : Team, t.Alike (f t)

theorem State.KeepsTeam.of_eq {s s' : State} {q : Nat} (h : s'.team q = s.team q) : s.KeepsTeam s' q :=
  ⟨id, by rw [h, Option.map_id_fun]; rfl, .refl⟩

theorem State.KeepsTeam.trans {a b c : State} {q : Nat} (hb : a.KeepsTeam b q) (hc : b.KeepsTeam c q) : a.KeepsTeam c q := by
  obtain ⟨f, hf, hfa⟩ := hb
  obtain ⟨g, hg, hga⟩ := hc
  exact ⟨g ∘ f, by rw [hg, hf, Option.map_map], fun t => (hfa t).trans (hga (f t))⟩

theorem State.KeepsTeam.live {s s' : State} {q : Nat} {t : Team} (h : s.KeepsTeam s' q) (ht : s.team q = some t) : ∃ u,
  s'.team q = some u ∧ t.Alike u := by
  obtain ⟨f, hf, hfa⟩ := h
  exact ⟨f t, by rw [hf, ht]; rfl, hfa t⟩

theorem State.KeepsTeam.gone {s s' : State} {q : Nat} (h : s.KeepsTeam s' q) (ht : s.team q = none) : s'.team q = none := by
  obtain ⟨f, hf, -⟩ := h
  rw [hf, ht]
  rfl

theorem State.KeepsTeam.of_some {s s' : State} {q : Nat} {u : Team} (h : s.KeepsTeam s' q) (hu : s'.team q = some u) : ∃ t,
  s.team q = some t ∧ t.Alike u := by
  cases ht : s.team q with
  | none =>
    rw [h.gone ht] at hu
    cases hu
  | some t =>
    obtain ⟨w, hw, ha⟩ := h.live ht
    rw [hu] at hw
    injection hw with hw
    exact ⟨t, rfl, hw ▸ ha⟩

/-- A handle behind a move of a team. -/
def moved (a b : Nat) (h : Handle) : Handle := if h = Handle.frozen a then .frozen b else h

/-- A team whose handle names a moved team by its new number. -/
def Team.rehandle (t : Team) (a b : Nat) : Team := { t with h0 := moved a b t.h0 }

/-- What stays as it was under moves of teams: clusters, what packages count, and each core and share but for what names the teams. -/
structure State.Moves (s s' : State) : Prop where
  clusters : s'.clusters = s.clusters
  preempts : ∀ q, (s'.pkg q).preempts = (s.pkg q).preempts
  partition : ∀ c, (s'.core c).partition = (s.core c).partition
  core : ∀ n x, s.share n = some x → ∃ y, s'.share n = some y ∧ y.core = x.core
  fresh : s.fresh ≤ s'.fresh

theorem State.Moves.refl (s : State) : s.Moves s := ⟨rfl, fun _ => rfl, fun _ => rfl, fun _ x h => ⟨x, h, rfl⟩, Nat.le_refl _⟩

theorem State.Moves.trans {a b c : State} (hb : a.Moves b) (hc : b.Moves c) : a.Moves c where
  clusters := hc.clusters.trans hb.clusters
  preempts q := (hc.preempts q).trans (hb.preempts q)
  partition q := (hc.partition q).trans (hb.partition q)
  core n x hx := by
    obtain ⟨y, hy, hyc⟩ := hb.core n x hx
    obtain ⟨z, hz, hzc⟩ := hc.core n y hy
    exact ⟨z, hz, hzc.trans hyc⟩
  fresh := Nat.le_trans hb.fresh hc.fresh

theorem State.Flows.moves {s s' : State} (h : s.Flows s') (hp : s.Posts s') : s.Moves s' where
  clusters := h.clusters
  preempts q := by rw [h.pkg q]; rfl
  partition c := by rw [h.core c]
  core n x hx := ⟨x, (h.share n).trans hx, rfl⟩
  fresh := hp.1

/-- Changes of the teams alone, of requests, transfers and reports, and of numbers that are taken. -/
theorem State.Moves.of_eq {s s' : State} (hc : s'.clusters = s.clusters) (hp : s'.pkgs = s.pkgs) (hk : s'.cores = s.cores) (hs : s'.shares = s.shares)
    (hf : s.fresh ≤ s'.fresh) : s.Moves s' where
  clusters := hc
  preempts q := by unfold State.pkg; rw [hp]
  partition c := by unfold State.core; rw [hk]
  core n x hx := ⟨x, by unfold State.share; rw [hs]; exact hx, rfl⟩
  fresh := hf

theorem State.moves_updPkg (s : State) (p : Nat) {f : Pkg → Pkg} (h : (f (s.pkg p)).preempts = (s.pkg p).preempts) : s.Moves (s.updPkg p f) where
  clusters := rfl
  preempts q := by
    by_cases hq : q = p
    · rw [hq, State.pkg_updPkg, h]
    · rw [State.pkg_updPkg_other _ _ hq]
  partition _ := rfl
  core _ x hx := ⟨x, hx, rfl⟩
  fresh := Nat.le_refl _

theorem State.moves_updShare (s : State) (n : Nat) {f : Share → Share} (h : ∀ x, (f x).core = x.core) : s.Moves (s.updShare n f) := by
  unfold State.updShare
  cases hn : s.share n with
  | none => exact .refl s
  | some y => exact {
      clusters := rfl
      preempts := fun _ => rfl
      partition := fun _ => rfl
      core := fun m x hx => by
        by_cases hm : m = n
        · rw [hm] at hx ⊢
          rw [hn] at hx
          injection hx with hx
          exact ⟨_, State.share_setShare .., by rw [h, hx]⟩
        · exact ⟨x, (State.share_setShare_other _ _ hm).trans hx, rfl⟩
      fresh := Nat.le_refl _ }

theorem State.moves_setTeam (s : State) (tk : Nat) (t : Team) : s.Moves (s.setTeam tk t) := .of_eq rfl rfl rfl rfl (Nat.le_refl _)

theorem State.moves_updTeam (s : State) (tk : Nat) (f : Team → Team) : s.Moves (s.updTeam tk f) := by
  unfold State.updTeam
  cases s.team tk <;> exact .of_eq rfl rfl rfl rfl (Nat.le_refl _)

/-- The machine in which a team has moved to another number, but for the queues that name it. -/
def State.renumber (s : State) (a b : Nat) (t : Team) : State := { s with
  teams := (put (erase s.teams a) b t).map fun (e : Nat × Team) => (e.1, e.2.rehandle a b)
  cores := s.cores.map fun (e : Nat × Core) => (e.1, { e.2 with waiting := e.2.waiting.map (moved a b), held := e.2.held.map (moved a b) })
  requests := s.requests.map fun (e : Nat × Request) => if e.2.tk = a ∧ e.2.serial = t.serial then (e.1, { e.2 with tk := b }) else e
  xfers := s.xfers.map fun (e : Nat × Xfer) => if e.2.tk = a ∧ e.2.serial = t.serial then (e.1, { e.2 with tk := b }) else e
  reports := s.reports.map fun (r : Report) => if r.tk = a ∧ r.serial = t.serial then { r with tk := b } else r }

theorem State.rekey_some {s : State} {a : Nat} {t : Team} (ht : s.team a = some t) (b : Nat) : ∃ (f : List Nat → List Nat) (g : List Ring → List Ring),
    s.rekey a b = ((s.renumber a b t).updPkg (pkgOfTeam a) fun k => { k with launchWait := f k.launchWait }).updShare t.share fun x =>
      { x with rings := g x.rings } := by
  refine ⟨List.map fun n => if n = a then b else n, List.map fun r : Ring =>
    { r with senders := r.senders.map fun n => if n = a then b else n, takers := r.takers.map fun n => if n = a then b else n }, ?_⟩
  unfold State.rekey
  rw [ht]
  rfl

theorem State.moves_renumber (s : State) (a b : Nat) (t : Team) : s.Moves (s.renumber a b t) where
  clusters := rfl
  preempts _ := rfl
  partition c := by
    have hfind := find_map_val s.cores (fun k : Core => { k with waiting := k.waiting.map (moved a b), held := k.held.map (moved a b) }) c
    unfold State.core getD
    rw [show find (s.renumber a b t).cores c = _ from hfind]
    cases find s.cores c <;> rfl
  core _ x hx := ⟨x, hx, rfl⟩
  fresh := Nat.le_refl _

theorem State.moves_rekey (s : State) (a b : Nat) : s.Moves (s.rekey a b) := by
  cases ht : s.team a with
  | none =>
    unfold State.rekey
    rw [ht]
    exact .refl s
  | some t =>
    obtain ⟨f, g, heq⟩ := State.rekey_some ht b
    rw [heq]
    exact (s.moves_renumber a b t).trans ((State.moves_updPkg _ _ (f := fun k => { k with launchWait := f k.launchWait }) rfl).trans
      (State.moves_updShare _ _ fun _ => rfl))

/-- A team that moves to another number stands there, and handles to it name the new number. -/
theorem State.rekey_rule {s : State} {a b : Nat} {t : Team} (ht : s.team a = some t) (hab : b ≠ a) :
    (s.rekey a b).team a = none ∧ (s.rekey a b).team b = some (t.rehandle a b) ∧ ∀ q, q ≠ a → q ≠ b → s.KeepsTeam (s.rekey a b) q := by
  obtain ⟨f, g, heq⟩ := State.rekey_some ht b
  have hteam (q : Nat) : (s.rekey a b).team q = (find (put (erase s.teams a) b t) q).map fun u => u.rehandle a b := by
    rw [heq]
    show find (State.updShare _ _ _).teams q = _
    rw [State.updShare_teams]
    exact find_map_val (put (erase s.teams a) b t) (fun u : Team => u.rehandle a b) q
  refine ⟨?_, ?_, fun q hqa hqb => ⟨fun u => u.rehandle a b, ?_, fun _ => .refl _⟩⟩
  · rw [hteam, find_put_other _ _ _ hab.symm, find_erase_same]
    rfl
  · rw [hteam, find_put_same]
    rfl
  · rw [hteam, find_put_other _ _ _ hqb, find_erase_other _ hqa]
    rfl

/-! ## A team that leaves its core (R237, R313) -/

/-- An aborted team stands at its abort clause, without its region. -/
theorem Team.abortTry_rule (t : Team) (code user : Nat) : (t.abortTry code user).serial = t.serial ∧ (t.abortTry code user).tryR = none := by
  unfold Team.abortTry
  cases h : t.tryR with
  | none => exact ⟨rfl, h⟩
  | some r => exact ⟨rfl, rfl⟩

/-- Bytes that come in leave what a team is. -/
theorem Team.alike_fill (t : Team) (r : Nat) (bs : List Byte) : t.Alike (t.fill r bs) := by
  refine ⟨rfl, rfl, rfl, ?_, rfl⟩
  unfold Team.settled Team.fill
  dsimp only
  rw [List.all_map]
  refine List.all_congr rfl fun o => ?_
  simp

/-- A step that is done: its code goes to the reeve's result or to the command that steps. -/
theorem State.settleStep_rule {s : State} {tk : Nat} {t : Team} (ht : s.team tk = some t) (code : Nat) :
    (∃ u, (s.settleStep tk code).team tk = some u ∧ u.serial = t.serial ∧ u.tryR = t.tryR) ∧ (∀ q, q ≠ tk → s.KeepsTeam (s.settleStep tk code) q) ∧
    s.Moves (s.settleStep tk code) := by
  have hupd := State.updTeam_team ht fun t => { t with stepping := none }
  have hother (q : Nat) (hq : q ≠ tk) : s.KeepsTeam (s.updTeam tk fun t => { t with stepping := none }) q := .of_eq (State.updTeam_team_other s _ hq)
  have hmoves := State.moves_updTeam s tk fun t => { t with stepping := none }
  unfold State.settleStep
  rw [ht, Option.bind_some]
  cases t.stepping with
  | none => exact ⟨⟨t, ht, rfl, rfl⟩, fun q _ => .of_eq rfl, .refl s⟩
  | some x =>
    cases x with
    | some n =>
      refine ⟨⟨({ t with stepping := none } : Team).fill n (bytesOf 8 code), ?_, rfl, rfl⟩, fun q hq => (hother q hq).trans
        ⟨_, State.team_fillAll _ n _ q, fun u => u.alike_fill n _⟩, hmoves.trans (.of_eq rfl rfl rfl rfl (Nat.le_refl _))⟩
      dsimp only
      rw [State.team_fillAll, hupd]
      rfl
    | none =>
      refine ⟨⟨_, hupd, rfl, rfl⟩, fun q hq => (hother q hq).trans (.of_eq rfl), hmoves.trans (State.moves_updPkg _ _ ?_)⟩
      unfold Pkg.raiseVec
      split <;> rfl

/-- An abort of a team's region: the region is gone at once where no result is outstanding and the team is not stepped. -/
theorem State.abortTry_rule {s : State} {tk : Nat} {t : Team} (ht : s.team tk = some t) (hr : t.tryR ≠ none) (code user : Nat) :
    (∃ u, (s.abortTry tk code user).team tk = some u ∧ u.serial = t.serial ∧ (t.settled = true → u.tryR = none)) ∧
    (∀ q, q ≠ tk → s.KeepsTeam (s.abortTry tk code user) q) ∧ s.Moves (s.abortTry tk code user) := by
  obtain ⟨r, hr⟩ := Option.ne_none_iff_exists'.mp hr
  generalize hst : (t.run == .running || t.withdrawn) = stays
  let v : Team := { (if t.atLast then t.noteEnd s.now else t) with
    run := .aborting code user, latch := none, brought := [], fails := [], inSlot := false
    admitSeq := if stays then t.admitSeq else s.fresh }
  let B : State := (if stays then s else s.bump).setTeam tk v
  have hv : v.serial = t.serial ∧ v.settled = t.settled ∧ v.run = .aborting code user := by
    unfold v
    by_cases hl : t.atLast = true
    · rw [if_pos hl]
      exact ⟨rfl, rfl, rfl⟩
    · rw [if_neg hl]
      exact ⟨rfl, rfl, rfl⟩
  obtain ⟨hvs, hvset, hvrun⟩ := hv
  have hB : B.team tk = some v ∧ (∀ q, q ≠ tk → s.KeepsTeam B q) ∧ s.Moves B := by
    refine ⟨State.team_setTeam _ _ _, fun q hq => .of_eq ?_, ?_⟩
    · unfold B
      rw [State.team_setTeam_other _ _ hq]
      cases stays <;> rfl
    · unfold B
      cases stays with
      | true => exact .of_eq rfl rfl rfl rfl (Nat.le_refl _)
      | false => exact .of_eq rfl rfl rfl rfl (Nat.le_succ _)
  obtain ⟨hBt, hBq, hBm⟩ := hB
  have habort : s.abortTry tk code user = B.takeStop tk := by
    unfold State.abortTry
    rw [ht]
    dsimp only
    rw [if_neg (by rw [hr]; exact Bool.false_ne_true), hst]
  rw [habort]
  unfold State.takeStop
  rw [hBt]
  dsimp only
  rw [hvset, hvrun]
  cases hset : t.settled with
  | false => exact ⟨⟨v, hBt, hvs, fun h => absurd h Bool.false_ne_true⟩, hBq, hBm⟩
  | true =>
    dsimp only
    rw [if_neg (show ¬(!true) = true by decide)]
    obtain ⟨hus, hur⟩ := v.abortTry_rule code user
    generalize hC : ({ B with reports := B.reports.filter fun r => !(r.tk == tk && r.serial == v.serial) } : State) = C
    have hCt (q : Nat) : C.team q = B.team q := by rw [← hC]; rfl
    have hCm : B.Moves C := by
      rw [← hC]
      exact .of_eq rfl rfl rfl rfl (Nat.le_refl _)
    have hput (w : Team) : (∀ q, q ≠ tk → s.KeepsTeam (C.setTeam tk w) q) ∧ s.Moves (C.setTeam tk w) :=
      ⟨fun q hq => (hBq q hq).trans (.of_eq ((State.team_setTeam_other C w hq).trans (hCt q))), (hBm.trans hCm).trans (State.moves_setTeam C tk w)⟩
    by_cases hstep : v.stepping.isSome = true
    · rw [if_pos hstep]
      generalize hw : ({ v.abortTry code user with cause := {}, readyAt := B.now, run := .frozen } : Team) = w
      have hws : w.serial = v.serial ∧ w.tryR = none := by
        rw [← hw]
        exact ⟨hus, hur⟩
      obtain ⟨⟨u, hu, hus', hur'⟩, hq, hm⟩ := State.settleStep_rule (State.team_setTeam C tk w) 0
      exact ⟨⟨u, hu, (hus'.trans hws.1).trans hvs, fun _ => hur'.trans hws.2⟩, fun q hne => ((hput w).1 q hne).trans (hq q hne), (hput w).2.trans hm⟩
    · rw [if_neg hstep]
      exact ⟨⟨_, State.team_setTeam _ _ _, hus.trans hvs, fun _ => hur⟩, (hput _).1, (hput _).2⟩

/-- A team that stands at rest goes to an image of its own: no region is open there and it is not admitted. -/
theorem State.imageTeam_rule {s : State} {tk : Nat} {t : Team} (ht : s.team tk = some t) (hfresh : 0 < s.fresh) : let Y := s.imageTeam tk
    ∃ n u, 0 < n ∧ s.Moves Y ∧ 0 < Y.fresh ∧ Y.team tk = none ∧ Y.team (138240 * n + tk) = some u ∧ u.serial = t.serial ∧ u.admitted = false ∧
      (t.settled = true → u.tryR = none) ∧ ∀ q, q ≠ tk → q ≠ 138240 * n + tk → s.KeepsTeam Y q := by
  intro Y
  obtain ⟨A, u, hA, hu, hus, hur, hAq, hAm⟩ : ∃ (A : State) (u : Team), (if t.tryR.isSome then s.abortTry tk 7 0 else s) = A ∧ A.team tk = some u ∧
      u.serial = t.serial ∧ (t.settled = true → u.tryR = none) ∧ (∀ q, q ≠ tk → s.KeepsTeam A q) ∧ s.Moves A := by
    by_cases hr : t.tryR = none
    · exact ⟨s, t, if_neg (by rw [hr]; exact Bool.false_ne_true), ht, rfl, fun _ => hr, fun _ _ => .of_eq rfl, .refl s⟩
    · obtain ⟨⟨u, hu, hus, hur⟩, hq, hm⟩ := State.abortTry_rule ht hr 7 0
      exact ⟨_, u, if_pos (Option.isSome_iff_ne_none.mpr hr), hu, hus, hur, hq, hm⟩
  let R : State := (A.release (coreOf tk) 3).updPkg (pkgOfTeam tk) fun k => { k with coh := k.coh + 1 }
  have hflows := State.flows_release A (coreOf tk) 3
  have hR (q : Nat) : R.team q = A.team q := hflows.team q
  have hRm : A.Moves R := (hflows.moves (State.posts_release A _ _)).trans
    (State.moves_updPkg _ (pkgOfTeam tk) (f := fun k => { k with coh := k.coh + 1 }) rfl)
  let U : State := R.bump.updTeam tk fun t => { t with stamp := (R.pkg (pkgOfTeam tk)).coh, admitted := false, withdrawn := false }
  have hRb : R.bump.team tk = some u := (hR tk).trans hu
  let w : Team := { u with stamp := (R.pkg (pkgOfTeam tk)).coh, admitted := false, withdrawn := false }
  have hU : U.team tk = some w := State.updTeam_team hRb _
  have hUm : R.Moves U := State.Moves.trans (b := R.bump) (.of_eq rfl rfl rfl rfl (Nat.le_succ _)) (State.moves_updTeam R.bump tk _)
  have hpos : 0 < R.fresh := Nat.lt_of_lt_of_le hfresh (Nat.le_trans hAm.fresh hRm.fresh)
  have hY : Y = U.rekey tk (138240 * R.fresh + tk) := by
    show s.imageTeam tk = _
    unfold State.imageTeam
    rw [ht]
    dsimp only
    rw [hA]
  have hm := State.moves_rekey U tk (138240 * R.fresh + tk)
  obtain ⟨hnone, himage, hkeep⟩ := State.rekey_rule hU (b := 138240 * R.fresh + tk) (by omega)
  have hall : s.Moves Y := by
    rw [hY]
    exact ((hAm.trans hRm).trans hUm).trans hm
  refine ⟨R.fresh, w.rehandle tk (138240 * R.fresh + tk), hpos, hall, Nat.lt_of_lt_of_le hfresh hall.fresh, ?_, ?_, hus, rfl, hur, fun q hq hqi => ?_⟩
  · rw [hY, hnone]
  · rw [hY, himage]
  · exact ((hAq q hq).trans (.of_eq ((State.updTeam_team_other R.bump _ hq).trans (hR q)))).trans (hY ▸ hkeep q hq hqi)

theorem State.imageTeam_none {s : State} {tk : Nat} (ht : s.team tk = none) : s.imageTeam tk = s := by
  unfold State.imageTeam
  rw [ht]

/-- Teams go one after another to images of their own. -/
theorem State.foldl_imageTeam (l : List Nat) (s : State) (hl : ∀ tk ∈ l,
  tk < 138240) (hfresh : 0 < s.fresh) : let X := l.foldl (fun s tk => s.imageTeam tk) s
    s.Moves X ∧ (∀ tk, tk < 138240 → s.team tk = none → X.team tk = none) ∧
    (∀ m tk u, 0 < m → tk < 138240 → s.team tk = none → s.team (138240 * m + tk) = some u → ∃ x, X.team (138240 * m + tk) = some x ∧ u.Alike x) ∧
    ∀ tk ∈ l, ∀ t, s.team tk = some t → X.team tk = none ∧
      ∃ m u, 0 < m ∧ X.team (138240 * m + tk) = some u ∧ u.serial = t.serial ∧ u.admitted = false ∧ (t.settled = true → u.tryR = none) := by
  induction l generalizing s with
  | nil => exact ⟨.refl s, fun _ _ h => h, fun m tk u _ _ _ h => ⟨u, h, .refl u⟩, fun tk h => by cases h⟩
  | cons y l ih =>
    have hlt := hl y (List.mem_cons_self ..)
    have hll (tk : Nat) (h : tk ∈ l) : tk < 138240 := hl tk (List.mem_cons_of_mem _ h)
    rw [List.foldl_cons]
    cases hy : s.team y with
    | none =>
      rw [State.imageTeam_none hy]
      obtain ⟨h1, h2, h3, h4⟩ := ih s hll hfresh
      refine ⟨h1, h2, h3, fun tk htk t ht => ?_⟩
      obtain rfl | htk := List.mem_cons.mp htk
      · rw [hy] at ht
        cases ht
      · exact h4 tk htk t ht
    | some t =>
      obtain ⟨n, u, hn, hm, hf, hgone, himage, hser, hadm, htry, hkeep⟩ := State.imageTeam_rule hy hfresh
      have hslot (tk : Nat) (h : tk < 138240) (hne : tk ≠ y) : s.KeepsTeam (s.imageTeam y) tk := hkeep tk hne (by omega)
      have hnone (tk : Nat) (h : tk < 138240) (ht : s.team tk = none) : (s.imageTeam y).team tk = none := by
        by_cases hne : tk = y
        · rw [hne, hgone]
        · exact (hslot tk h hne).gone ht
      obtain ⟨h1, h2, h3, h4⟩ := ih (s.imageTeam y) hll hf
      refine ⟨hm.trans h1, fun tk h ht => h2 tk h (hnone tk h ht), fun m tk v hm0 htk ht hv => ?_, fun tk htk t' ht' => ?_⟩
      · have hne : tk ≠ y := fun h => by rw [h, hy] at ht; cases ht
        obtain ⟨w, hw, hwa⟩ := (hkeep (138240 * m + tk) (by omega) (by omega)).live hv
        obtain ⟨x, hx, hxa⟩ := h3 m tk w hm0 htk (hnone tk htk ht) hw
        exact ⟨x, hx, hwa.trans hxa⟩
      · by_cases hne : tk = y
        · rw [hne] at ht' ⊢
          rw [hy] at ht'
          injection ht' with ht'
          obtain ⟨x, hx, hxs, hxr, -, -, hxa⟩ := h3 n y u hn hlt hgone himage
          rw [← ht']
          exact ⟨h2 y hlt hgone, n, x, hn, hx, hxs.trans hser, hxa.trans hadm, fun hset => hxr.trans (htry hset)⟩
        · obtain htk | htk := List.mem_cons.mp htk
          · exact absurd htk hne
          · obtain ⟨w, hw, hws, -, -, hwset, -⟩ := (hslot tk (hll tk htk) hne).live ht'
            obtain ⟨hgo, m, x, hm0, hx, hxs, hxa, hxr⟩ := h4 tk htk w hw
            exact ⟨hgo, m, x, hm0, hx, hxs.trans hws, hxa, fun hset => hxr (hwset.trans hset)⟩

/-! ## What may be pre-empted, and in which order (R311, R312) -/

theorem State.mem_clusterTeams {s : State} {cl : Nat} {e : Nat × Team} : e ∈ s.clusterTeams cl ↔ e ∈ s.teams ∧ e.2.cl = cl ∧ e.2.role ≠ .reeve := by
  unfold State.clusterTeams
  rw [List.mem_filter, Bool.and_eq_true, beq_iff_eq, Bool.not_eq_true', ← Bool.not_eq_true, Team.isReeve_iff]

theorem State.preemptable_iff (s : State) (cl : Nat) : s.preemptable cl = true ↔ ∀ e ∈ s.teams,
  e.2.cl = cl → e.2.role ≠ .reeve ∧ e.2.stepping = none ∧
    ¬((e.2.run = .frozen ∨ e.2.run = .freezing) ∧ e.2.tryR ≠ none) ∧ ∀ r ∈ s.teams, r.2.role = .reeve → r.2.h0 ≠ .frozen e.1 := by
  have hteam (e : Nat × Team) : (!((e.2.run == .frozen || e.2.run == .freezing) && e.2.tryR.isSome) && e.2.stepping.isNone &&
      !s.teams.any fun r => r.2.isReeve && r.2.h0 == Handle.frozen e.1) = true ↔
      ¬((e.2.run = .frozen ∨ e.2.run = .freezing) ∧ e.2.tryR ≠ none) ∧ e.2.stepping = none ∧ ∀ r ∈ s.teams,
        r.2.role = .reeve → r.2.h0 ≠ .frozen e.1 := by
    rw [Bool.and_eq_true, Bool.and_eq_true, Bool.not_eq_true', Bool.not_eq_true', ← Bool.not_eq_true, Bool.and_eq_true, Bool.or_eq_true, beq_iff_eq,
      beq_iff_eq,
      Option.isSome_iff_ne_none, Option.isNone_iff_eq_none, List.any_eq_false, and_assoc]
    refine and_congr_right fun _ => and_congr_right fun _ => forall_congr' fun r => forall_congr' fun _ => ?_
    rw [Bool.and_eq_true, Team.isReeve_iff, beq_iff_eq, not_and]
  unfold State.preemptable
  rw [Bool.and_eq_true, List.all_eq_true, Bool.not_eq_true', List.any_eq_false]
  constructor
  · rintro ⟨hall, hno⟩ e he hcl
    have hrole : e.2.role ≠ .reeve := fun hr => hno e he (by rw [e.2.isReeve_iff.mpr hr, beq_iff_eq.mpr hcl]; rfl)
    obtain ⟨h1, h2, h3⟩ := (hteam e).mp (hall e (State.mem_clusterTeams.mpr ⟨he, hcl, hrole⟩))
    exact ⟨hrole, h2, h1, h3⟩
  · intro h
    refine ⟨fun e he => ?_, fun e he hb => ?_⟩
    · obtain ⟨hm, hcl, -⟩ := State.mem_clusterTeams.mp he
      obtain ⟨-, h2, h1, h3⟩ := h e hm hcl
      exact (hteam e).mpr ⟨h1, h2, h3⟩
    · rw [Bool.and_eq_true, Team.isReeve_iff, beq_iff_eq] at hb
      exact (h e he hb.2).1 hb.1

/-- What a victim ranks by: whether its grid is in the background, and its deadline. -/
def State.rank (s : State) (p : Nat) (c : Cluster) : Bool × Nat :=
  match s.grid c.grid with
  | none => (false, 0)
  | some v => ((s.queue p v.queue).isBg, (s.queue p v.queue).absdl)

/-- The order in which victims go. -/
def State.goesBefore (s : State) (p : Nat) (a b : Nat × Cluster) : Bool :=
  if (s.rank p a.2).1 != (s.rank p b.2).1 then (s.rank p a.2).1
  else if (s.rank p a.2).2 != (s.rank p b.2).2 && !(s.rank p a.2).1 then (s.rank p b.2).2 < (s.rank p a.2).2
  else if a.2.grid != b.2.grid then b.2.grid < a.2.grid
  else b.2.placedSeq ≤ a.2.placedSeq

theorem State.victims_eq (s : State) (p : Nat) (g : Grid) : s.victims p g =
    (s.clusters.filter fun (e : Nat × Cluster) => !e.2.stopping && !e.2.saving && !e.2.saved && s.clusterLive e.2 && s.preemptable e.1 &&
      (s.grid e.2.grid).any fun v => v.pkg == p && s.victimOf p v g).mergeSort (s.goesBefore p) := rfl

theorem State.rank_fst (s : State) (p : Nat) (c : Cluster) : (s.rank p c).1 = true ↔
    ∃ v, s.grid c.grid = some v ∧ ((s.queue p v.queue).period = 0 ∨ (s.queue p v.queue).bg = true) := by
  unfold State.rank
  cases s.grid c.grid with
  | none => exact ⟨fun h => absurd h Bool.false_ne_true, fun ⟨v, hv, _⟩ => by cases hv⟩
  | some v => exact (Queue.isBg_iff _).trans ⟨fun h => ⟨v, rfl, h⟩, fun ⟨w, hw, h⟩ => Option.some.inj hw ▸ h⟩

theorem State.rank_snd (s : State) (p : Nat) (c : Cluster) : (s.rank p c).2 = (s.grid c.grid).elim 0 fun v => (s.queue p v.queue).absdl := by
  unfold State.rank
  cases s.grid c.grid <;> rfl

theorem greaterFirst_iff (a b m n : Nat) : (if a != b then decide (b < a) else decide (n ≤ m)) = true ↔ b < a ∨ a = b ∧ n ≤ m := by
  by_cases h : a = b
  · rw [if_neg (by rw [bne_iff_ne]; exact fun hn => hn h), decide_eq_true_iff]
    omega
  · rw [if_pos (bne_iff_ne.mpr h), decide_eq_true_iff]
    omega

/-- Background first, then the latest deadline, then the grid dispatched last, then the cluster placed last. -/
theorem State.goesBefore_iff (s : State) (p : Nat) (a b : Nat × Cluster) : s.goesBefore p a b = true ↔
    ((s.rank p a.2).1 = true ∧ ¬(s.rank p b.2).1 = true) ∨ (((s.rank p a.2).1 = true ↔ (s.rank p b.2).1 = true) ∧
      ((¬(s.rank p a.2).1 = true ∧ (s.rank p b.2).2 < (s.rank p a.2).2) ∨ (((s.rank p a.2).1 = true ∨ (s.rank p a.2).2 = (s.rank p b.2).2) ∧
        (b.2.grid < a.2.grid ∨ a.2.grid = b.2.grid ∧ b.2.placedSeq ≤ a.2.placedSeq)))) := by
  unfold State.goesBefore
  generalize (s.rank p a.2).1 = x
  generalize (s.rank p b.2).1 = y
  generalize (s.rank p a.2).2 = m
  generalize (s.rank p b.2).2 = n
  rw [← greaterFirst_iff]
  cases x <;> cases y
  case false.false =>
    by_cases hmn : m = n
    · simp [hmn]
    · simp [hmn]
  all_goals simp

theorem State.goesBefore_trans (s : State) (p : Nat) (a b c : Nat × Cluster) (hab : s.goesBefore p a b = true) (hbc : s.goesBefore p b c = true) :
    s.goesBefore p a c = true := by
  have hnum (x : Bool) : x = true ↔ x.toNat = 1 := by cases x <;> decide
  rw [State.goesBefore_iff, hnum, hnum] at *
  omega

theorem State.goesBefore_total (s : State) (p : Nat) (a b : Nat × Cluster) : (s.goesBefore p a b || s.goesBefore p b a) = true := by
  rw [Bool.or_eq_true, State.goesBefore_iff, State.goesBefore_iff]
  have hnum (x : Bool) : x = true ↔ x.toNat = 1 := by cases x <;> decide
  rw [hnum, hnum]
  omega

theorem State.clusterLive_iff (s : State) (c : Cluster) : s.clusterLive c = true ↔ ∃ sh ∈ c.shares, ∃ x, s.share sh = some x ∧ x.ended = false := by
  unfold State.clusterLive
  rw [List.any_eq_true]
  refine exists_congr fun sh => and_congr_right fun _ => ?_
  cases s.share sh with
  | none => exact ⟨fun h => absurd h Bool.false_ne_true, fun ⟨x, hx, _⟩ => by cases hx⟩
  | some x =>
    refine ⟨fun h => ⟨x, rfl, by simpa using h⟩, fun ⟨y, hy, h⟩ => ?_⟩
    injection hy with hy
    rw [hy]
    simpa using h

/-- A foreground grid waits for the room of a grid in the background or with a later deadline. -/
theorem State.victimOf_iff (s : State) (p : Nat) (v g : Grid) : s.victimOf p v g = true ↔ ((s.queue p g.queue).period ≠ 0 ∧ (s.queue p g.queue).bg = false) ∧
    (((s.queue p v.queue).period = 0 ∨ (s.queue p v.queue).bg = true) ∨ (s.queue p g.queue).absdl < (s.queue p v.queue).absdl) := by
  unfold State.victimOf
  dsimp only
  rw [Bool.and_eq_true, Bool.not_eq_true', ← Bool.not_eq_true, Queue.isBg_iff, Bool.or_eq_true, Queue.isBg_iff, decide_eq_true_iff, not_or,
    Bool.not_eq_true]

theorem State.victims_rule (s : State) (p : Nat) (g : Grid) :
    let bg (c : Cluster) : Prop := ∃ v, s.grid c.grid = some v ∧ ((s.queue p v.queue).period = 0 ∨ (s.queue p v.queue).bg = true)
    let dl (c : Cluster) : Nat := (s.grid c.grid).elim 0 fun v => (s.queue p v.queue).absdl
    let waiter : Prop := (s.queue p g.queue).period ≠ 0 ∧ (s.queue p g.queue).bg = false
    (∀ e, e ∈ s.victims p g ↔ e ∈ s.clusters ∧ e.2.stopping = false ∧ e.2.saving = false ∧ e.2.saved = false ∧ s.preemptable e.1 = true ∧
       (∃ sh ∈ e.2.shares, ∃ x, s.share sh = some x ∧ x.ended = false) ∧
       ∃ v, s.grid e.2.grid = some v ∧ v.pkg = p ∧ waiter ∧ (bg e.2 ∨ (s.queue p g.queue).absdl < dl e.2)) ∧
     (s.victims p g).Pairwise fun a b => (bg a.2 ∧ ¬bg b.2) ∨ ((bg a.2 ↔ bg b.2) ∧ ((¬bg a.2 ∧ dl b.2 < dl a.2) ∨ ((bg a.2 ∨ dl a.2 = dl b.2) ∧
       (b.2.grid < a.2.grid ∨ a.2.grid = b.2.grid ∧ b.2.placedSeq ≤ a.2.placedSeq)))) := by
  intro bg dl waiter
  have hbg (c : Cluster) : (s.rank p c).1 = true ↔ bg c := s.rank_fst p c
  refine ⟨fun e => ?_, ?_⟩
  · rw [State.victims_eq, List.mem_mergeSort, List.mem_filter]
    refine and_congr_right fun _ => ?_
    rw [Bool.and_eq_true, Bool.and_eq_true, Bool.and_eq_true, Bool.and_eq_true, Bool.and_eq_true, Bool.not_eq_true', Bool.not_eq_true',
      Bool.not_eq_true',
      State.clusterLive_iff, and_assoc, and_assoc, and_assoc, and_assoc]
    refine and_congr_right fun _ => and_congr_right fun _ => and_congr_right fun _ => ?_
    rw [and_left_comm]
    refine and_congr_right fun _ => and_congr_right fun _ => ?_
    have hv (v : Grid) (hv : s.grid e.2.grid = some v) : (bg e.2 ∨ (s.queue p g.queue).absdl < dl e.2) ↔
        ((s.queue p v.queue).period = 0 ∨ (s.queue p v.queue).bg = true) ∨ (s.queue p g.queue).absdl < (s.queue p v.queue).absdl := by
      refine or_congr ⟨fun ⟨w, hw, h⟩ => ?_, fun h => ⟨v, hv, h⟩⟩ ?_
      · rw [hv] at hw
        injection hw with hw
        rw [hw]
        exact h
      · show _ < (s.grid e.2.grid).elim _ _ ↔ _
        rw [hv]
        rfl
    cases hgr : s.grid e.2.grid with
    | none => exact ⟨fun h => absurd h Bool.false_ne_true, fun ⟨v, hv, _⟩ => by cases hv⟩
    | some v =>
      rw [Option.any_some, Bool.and_eq_true, beq_iff_eq, State.victimOf_iff, ← hv v hgr]
      exact ⟨fun h => ⟨v, rfl, h⟩, fun ⟨w, hw, h⟩ => Option.some.inj hw ▸ h⟩
  · rw [State.victims_eq]
    refine (List.pairwise_mergeSort (s.goesBefore_trans p) (s.goesBefore_total p) _).imp fun {a b} h => ?_
    rw [State.goesBefore_iff, hbg, hbg, State.rank_snd, State.rank_snd] at h
    exact h

/-! ## PREEMPT_CLUSTER (R312, R313) -/

/-- The team stands where it may leave its core. -/
def State.Stands (s : State) (tk : Nat) (t : Team) : Prop := t.settled = true ∧ s.quiet tk t.serial = true ∧
  ((t.run = .running ∧ t.word = none) ∨ (∃ c, t.run = .parked c ∧ c.isPark = true) ∨ t.run = .frozen)

theorem State.atRest_iff (s : State) (tk : Nat) (t : Team) : s.atRest tk t = true ↔ s.Stands tk t := by
  unfold State.atRest State.Stands
  rw [Bool.and_eq_true, Bool.and_eq_true, and_assoc]
  refine and_congr_right fun _ => and_congr_right fun _ => ?_
  cases t.run with
  | running => simp
  | parked c => simp
  | frozen => simp
  | freezing => simp
  | ended => simp
  | aborting c u => simp

theorem State.starved_iff (s : State) (p : Nat) (g : Grid) : s.starved p g = true ↔ (s.queue p g.queue).period ≠ 0 ∧ (s.queue p g.queue).bg = false ∧
    g.nextCluster < g.launch.gx * g.launch.gy * g.launch.gz ∧ s.poolRoom p g = true ∧ s.findPlace p g [] = none ∧
    (s.findPlace p g ((s.victims p g).map (·.1))).isSome := by
  unfold State.starved
  rw [Bool.and_eq_true, Bool.and_eq_true, Bool.and_eq_true, Bool.and_eq_true, Bool.not_eq_true', ← Bool.not_eq_true, Queue.isBg_iff, not_or,
    Bool.not_eq_true,
    decide_eq_true_iff, Option.isNone_iff_eq_none, and_assoc, and_assoc, and_assoc, and_assoc]
  rfl

section
variable {s : State} {p cl : Nat}

theorem exec_preempt_saving (h : s.clustersOf p (·.saving) ≠ []) : exec (.preemptCluster p) s = .next s := by
  show execPreemptCluster p s = _
  unfold execPreemptCluster
  exact congrArg _ (if_pos (by rw [Bool.not_eq_true', ← Bool.not_eq_true, List.isEmpty_iff]; exact h))

variable (hsave : s.clustersOf p (·.saving) = [])
include hsave

theorem exec_preempt_going {c : Cluster} {rest : List (Nat × Cluster)} (h : s.clustersOf p (·.stopping) = (cl, c) :: rest) :
    exec (.preemptCluster p) s = .next (s.stopCluster p cl) := by
  show execPreemptCluster p s = _
  unfold execPreemptCluster
  rw [hsave, h]
  rfl

variable (hstop : s.clustersOf p (·.stopping) = [])
include hstop

theorem exec_preempt_none (h : ∀ e ∈ s.gridsOf p, ¬s.starved p e.2 = true) : exec (.preemptCluster p) s = .next s := by
  show execPreemptCluster p s = _
  unfold execPreemptCluster
  rw [hsave, hstop, List.find?_eq_none.mpr h]
  rfl

theorem exec_preempt_victim {l m : List (Nat × Grid)} {gk : Nat} {g : Grid} {c : Cluster} {rest : List (Nat × Cluster)} (ho : s.gridsOf p = l ++ (gk, g) :: m)
    (hl : ∀ e ∈ l, ¬s.starved p e.2 = true) (hg : s.starved p g = true) (hv : s.victims p g = (cl, c) :: rest) :
    exec (.preemptCluster p) s = .next (s.stopCluster p cl) := by
  have hfind : ((s.gridsOf p).find? fun e => s.starved p e.2) = some (gk, g) := by
    rw [List.find?_eq_some_iff_append]
    exact ⟨hg, l, m, ho, fun e he => by rw [Bool.not_eq_true']; exact Bool.not_eq_true _ ▸ hl e he⟩
  show execPreemptCluster p s = _
  unfold execPreemptCluster
  rw [hsave, hstop, hfind]
  dsimp only
  rw [hv]
  rfl

end

section
variable {s : State} {p cl : Nat}

theorem State.stopCluster_protected (h : s.preemptable cl = false) : s.stopCluster p cl = s.updCluster cl fun c => { c with stopping := false } := by
  unfold State.stopCluster
  rw [h]
  rfl

variable (h : s.preemptable cl = true)
include h

theorem State.stopCluster_waits (hw : ∃ e ∈ s.clusterTeams cl, ¬s.Stands e.1 e.2) :
    s.stopCluster p cl = s.updCluster cl fun c => { c with stopping := true } := by
  obtain ⟨e, he, hno⟩ := hw
  unfold State.stopCluster
  rw [if_neg (by rw [h]; decide), if_neg fun hall => hno ((s.atRest_iff e.1 e.2).mp (List.all_eq_true.mp hall e he))]

theorem State.stopCluster_goes (hw : ∀ e ∈ s.clusterTeams cl, s.Stands e.1 e.2) : s.stopCluster p cl =
    ((((s.clusterTeams cl).map (·.1)).foldl (fun s tk => s.imageTeam tk) s).updCluster cl fun c => { c with stopping := false, saving := true }).updPkg p
      fun k => { k with preempts := k.preempts + 1 } := by
  unfold State.stopCluster
  rw [if_neg (by rw [h]; decide), if_pos (List.all_eq_true.mpr fun e he => (s.atRest_iff e.1 e.2).mpr (hw e he))]

/-- A cluster whose teams stand leaves its cores: every team stands in an image, and its shares are saved next. -/
theorem State.stopCluster_images (hw : ∀ e ∈ s.clusterTeams cl, s.Stands e.1 e.2) (hslots : ∀ e ∈ s.clusterTeams cl,
  e.1 < 138240) (hfresh : 0 < s.fresh)
    {c : Cluster} (hc : s.cluster cl = some c) : let X := s.stopCluster p cl
    X.cluster cl = some { c with stopping := false, saving := true } ∧ (X.pkg p).preempts = (s.pkg p).preempts + 1 ∧
    ∀ tk t, s.team tk = some t → t.cl = cl → t.role ≠ .reeve → X.team tk = none ∧
      ∃ m u, 0 < m ∧ X.team (138240 * m + tk) = some u ∧ u.serial = t.serial ∧ u.admitted = false ∧ u.tryR = none := by
  intro X
  have hlt (tk : Nat) (htk : tk ∈ (s.clusterTeams cl).map (·.1)) : tk < 138240 := by
    obtain ⟨e, he, rfl⟩ := List.mem_map.mp htk
    exact hslots e he
  obtain ⟨hm, -, -, hgo⟩ := State.foldl_imageTeam _ s hlt hfresh
  generalize hF : ((s.clusterTeams cl).map (·.1)).foldl (fun s tk => s.imageTeam tk) s = F at hm hgo
  have hFc : F.cluster cl = some c := by
    unfold State.cluster
    rw [hm.clusters]
    exact hc
  have hX : X = (F.setCluster cl { c with stopping := false, saving := true }).updPkg p fun k => { k with preempts := k.preempts + 1 } := by
    show s.stopCluster p cl = _
    rw [State.stopCluster_goes h hw, hF, State.updCluster, hFc]
  rw [hX]
  refine ⟨find_put_same .., ?_, fun tk t ht hcl hrole => ?_⟩
  · rw [State.pkg_updPkg]
    exact congrArg (· + 1) (hm.preempts p)
  · have hmem : (tk, t) ∈ s.clusterTeams cl := State.mem_clusterTeams.mpr ⟨find_mem ht, hcl, hrole⟩
    obtain ⟨hnone, m, u, hm0, hu, hus, hua, hur⟩ := hgo tk (List.mem_map.mpr ⟨(tk, t), hmem, rfl⟩) t ht
    exact ⟨hnone, m, u, hm0, hu, hus, hua, hur (hw (tk, t) hmem).1⟩

end

/-! ## SHARE_IMAGE_SAVE (R313) -/

theorem Xfer.onShare_iff (x : Xfer) (sh : Nat) : x.onShare sh = true ↔ (∃ o, Loc.sp sh o ∈ x.dst) ∨ ∃ o, some (Loc.sp sh o) ∈ x.src := by
  have hon (l : Loc) : (match l with | .sp n _ => n == sh | .glob _ => false) = true ↔ ∃ o, l = .sp sh o := by
    cases l with
    | sp n o =>
      dsimp only
      rw [beq_iff_eq]
      exact ⟨fun h => ⟨o, by rw [h]⟩, fun ⟨o', h⟩ => by injection h⟩
    | glob a => exact ⟨fun h => absurd h Bool.false_ne_true, fun ⟨o, h⟩ => by cases h⟩
  unfold Xfer.onShare
  dsimp only
  rw [Bool.or_eq_true, List.any_eq_true, List.any_eq_true]
  refine or_congr ⟨fun ⟨l, hl, h⟩ => ?_, fun ⟨o, h⟩ => ⟨_, h, (hon _).mpr ⟨o, rfl⟩⟩⟩ ⟨fun ⟨l, hl, h⟩ => ?_, fun ⟨o, h⟩ => ⟨_, h, (hon _).mpr ⟨o,
    rfl⟩⟩⟩
  · obtain ⟨o, rfl⟩ := (hon l).mp h
    exact ⟨o, hl⟩
  · cases l with
    | none => cases h
    | some l =>
      obtain ⟨o, rfl⟩ := (hon l).mp h
      exact ⟨o, hl⟩

/-- Shares that leave their cores. -/
theorem State.foldl_leaveCore (l : List Nat) (s : State) : let X := l.foldl (fun s sh => s.updShare sh fun x => { x with core := none }) s
    X = { s with shares := X.shares } ∧ ∀ sh x, s.share sh = some x → X.share sh = some (if sh ∈ l then { x with core := none } else x) := by
  induction l generalizing s with
  | nil => exact ⟨rfl, fun sh x h => h⟩
  | cons n l ih =>
    obtain ⟨h1, h2⟩ := ih (s.updShare n fun x => { x with core := none })
    have hupd : s.updShare n (fun x => { x with core := none }) = { s with shares := (s.updShare n fun x => { x with core := none }).shares } := by
      unfold State.updShare
      cases s.share n <;> rfl
    rw [List.foldl_cons]
    refine ⟨?_, fun sh x hx => ?_⟩
    · rw [hupd] at h1
      rw [hupd]
      exact h1
    · by_cases hn : sh = n
      · subst hn
        rw [State.updShare_some hx] at h2 ⊢
        rw [h2 sh _ (State.share_setShare ..), if_pos (List.mem_cons_self ..), ite_self]
      · have hsame : (s.updShare n fun x => { x with core := none }).share sh = some x := by
          unfold State.updShare
          cases s.share n with
          | none => exact hx
          | some y => exact (State.share_setShare_other s _ hn).trans hx
        rw [h2 sh x hsame]
        simp only [List.mem_cons, hn, false_or]

theorem shareImageSave_iff {s : State} {p : Nat} {c : Cluster} {g : Grid} : (!c.saving || !(g.pkg == p) || (c.shares.any fun sh => s.xfers.any fun x => x.2.onShare sh)) = true ↔
    ¬(c.saving = true ∧ g.pkg = p ∧ ∀ sh ∈ c.shares, ∀ e ∈ s.xfers, ¬((∃ o, Loc.sp sh o ∈ e.2.dst) ∨ ∃ o, some (Loc.sp sh o) ∈ e.2.src)) := by
  have hany : (c.shares.any fun sh => s.xfers.any fun x => x.2.onShare sh) = true ↔
      ¬∀ sh ∈ c.shares, ∀ e ∈ s.xfers, ¬((∃ o, Loc.sp sh o ∈ e.2.dst) ∨ ∃ o, some (Loc.sp sh o) ∈ e.2.src) := by
    simp only [List.any_eq_true, Xfer.onShare_iff]
    exact ⟨fun ⟨sh, hsh, e, he, h⟩ hall => hall sh hsh e he h, fun h => by_contra fun hno => h fun sh hsh e he hh => hno ⟨sh, hsh, e, he, hh⟩⟩
  rw [Bool.or_eq_true, Bool.or_eq_true, Bool.not_eq_true', Bool.not_eq_true', beq_eq_false_iff_ne, hany, ← Bool.not_eq_true, not_and_or, not_and_or,
    or_assoc]

section
variable {s : State} {p cl : Nat} {c : Cluster} {g : Grid} (hc : s.cluster cl = some c) (hg : s.grid c.grid = some g)
include hc hg

theorem exec_shareImageSave_eq : exec (.shareImageSave p cl) s = .next (
    if !c.saving || !(g.pkg == p) || (c.shares.any fun sh => s.xfers.any fun x => x.2.onShare sh) then s
    else (c.shares.foldl (fun s sh => s.updShare sh fun x => { x with core := none }) s).setCluster cl { c with saving := false, saved := true }) := by
  show execShareImageSave p cl s = _
  unfold execShareImageSave
  rw [hc]
  dsimp only
  rw [hg]
  rfl

end

/-! ## CLUSTER_RESUME (R314) -/

/-- What a resumed share is given: a core of its cluster's die. -/
theorem State.foldOpt_resumePlace (s : State) (g : Grid) (c : Cluster) (shs : List Nat) (acc l : List (Nat × Nat))
    (h : foldOpt (fun (l : List (Nat × Nat)) sh => match s.share sh with
      | none => some l
      | some x =>
        if x.ended then some l
        else (((List.range 12).map fun i => 12 * c.die + i).find? fun core => !(l.any fun y => y.2 == core) && s.coreFits core (s.savedNeed g sh x) []).map
          fun core => l ++ [(sh, core)]) acc shs = some l) :
    ∃ m : List (Nat × Nat), l = acc ++ m ∧ (m.map (·.1)).Sublist shs ∧ (∀ y ∈ m, y.2 / 12 = c.die ∧ ∃ x, s.share y.1 = some x) ∧
      ∀ sh ∈ shs, ∀ x, s.share sh = some x → x.ended = false → ∃ y ∈ m, y.1 = sh := by
  induction shs generalizing acc with
  | nil =>
    injection h with h
    exact ⟨[], by rw [← h, List.append_nil], List.Sublist.refl _, fun y hy => absurd hy List.not_mem_nil, fun sh hsh => absurd hsh List.not_mem_nil⟩
  | cons n shs ih =>
    unfold foldOpt at h
    cases hn : s.share n with
    | none =>
      rw [hn] at h
      obtain ⟨m, hm, hsub, hall, hlive⟩ := ih acc h
      refine ⟨m, hm, hsub.cons n, hall, fun sh hsh x hx hl => ?_⟩
      obtain rfl | hsh := List.mem_cons.mp hsh
      · rw [hn] at hx
        cases hx
      · exact hlive sh hsh x hx hl
    | some x =>
      rw [hn] at h
      dsimp only at h
      by_cases he : x.ended = true
      · rw [if_pos he] at h
        obtain ⟨m, hm, hsub, hall, hlive⟩ := ih acc h
        refine ⟨m, hm, hsub.cons n, hall, fun sh hsh y hy hl => ?_⟩
        obtain rfl | hsh := List.mem_cons.mp hsh
        · rw [hn] at hy
          injection hy with hy
          rw [← hy, he] at hl
          cases hl
        · exact hlive sh hsh y hy hl
      · rw [if_neg he] at h
        cases hf : ((List.range 12).map fun i => 12 * c.die + i).find? fun core => !(acc.any fun y => y.2 == core) && s.coreFits core (s.savedNeed g n x) [] with
        | none =>
          rw [hf] at h
          cases h
        | some core =>
          rw [hf] at h
          obtain ⟨m, hm, hsub, hall, hlive⟩ := ih _ h
          have hdie : core / 12 = c.die := by
            obtain ⟨i, hi, rfl⟩ := List.mem_map.mp (List.mem_of_find?_eq_some hf)
            rw [List.mem_range] at hi
            omega
          refine ⟨(n, core) :: m, by rw [hm, List.append_assoc]; rfl, hsub.cons_cons n, fun y hy => ?_, fun sh hsh y hy hl => ?_⟩
          · obtain rfl | hy := List.mem_cons.mp hy
            · exact ⟨hdie, x, hn⟩
            · exact hall y hy
          · obtain rfl | hsh := List.mem_cons.mp hsh
            · exact ⟨_, List.mem_cons_self .., rfl⟩
            · obtain ⟨z, hz, hzs⟩ := hlive sh hsh y hy hl
              exact ⟨z, List.mem_cons_of_mem _ hz, hzs⟩

/-- A team comes back from its image to a slot of a core. -/
def State.resumeTeam (core : Nat) (s : State) (z : (Nat × Team) × Nat) : State :=
  ((((s.dropResumed core z.1.2).bringUp core z.1.2.stamp).rekey z.1.1 z.2).bump).updTeam z.2 fun t =>
    { t with admitSeq := (s.dropResumed core z.1.2).fresh }

/-- A share comes back to a core with its teams. -/
def State.resumeShare (part : Nat) (s : State) (y : Nat × Nat) : State :=
  let s := (s.updCore y.2 fun k => { k with partition := part }).updShare y.1 fun x => { x with core := some y.2 }
  (((s.teamsOf y.1).mergeSort fun a b => a.2.slotT ≤ b.2.slotT).zip (s.freeSlots y.2 [])).foldl (State.resumeTeam y.2) s

theorem State.moves_updCore (s : State) (c : Nat) {f : Core → Core} (h : (f (s.core c)).partition = (s.core c).partition) : s.Moves (s.updCore c f) where
  clusters := rfl
  preempts _ := rfl
  partition q := by
    by_cases hq : q = c
    · rw [hq, State.core_updCore, h]
    · rw [State.core_updCore_other _ _ hq]
  core _ x hx := ⟨x, hx, rfl⟩
  fresh := Nat.le_refl _

theorem State.Moves.foldl {α : Type} (l : List α) (f : State → α → State) (hf : ∀ (s : State) (x : α),
  s.Moves (f s x)) (s : State) : s.Moves (l.foldl f s) := by
  induction l generalizing s with
  | nil => exact .refl s
  | cons x l ih => exact (hf s x).trans (ih _)

theorem State.moves_resumeTeam (core : Nat) (s : State) (z : (Nat × Team) × Nat) : s.Moves (s.resumeTeam core z) := by
  have hdrop : s.Moves (s.dropResumed core z.1.2) := by
    unfold State.dropResumed State.dropPagesAt
    split
    · exact .refl s
    · dsimp only
      split
      · exact (State.moves_updCore s core rfl).trans (State.moves_updPkg _ _ rfl)
      · exact .refl s
  have hbring (x : State) : x.Moves (x.bringUp core z.1.2.stamp) := by
    unfold State.bringUp
    refine .foldl _ _ (fun y ix => ?_) x
    split
    · exact (State.flows_advance y _ ix).moves (State.posts_advance y _ ix)
    · exact .refl y
  unfold State.resumeTeam
  exact ((hdrop.trans (hbring _)).trans (State.moves_rekey _ _ _)).trans (State.Moves.trans
    (b := ((((s.dropResumed core z.1.2).bringUp core z.1.2.stamp).rekey z.1.1 z.2).bump)) (.of_eq rfl rfl rfl rfl (Nat.le_succ _)) (State.moves_updTeam _ _ _))

/-- Shares come back: each stands on its core, whose partition is its kernel's. -/
theorem State.foldl_resumeShare (part : Nat) (l : List (Nat × Nat)) (hl : (l.map (·.1)).Nodup) (s : State) (hs : ∀ y ∈ l, ∃ x, s.share y.1 = some x) :
    let X := l.foldl (State.resumeShare part) s
    (∀ c, (s.core c).partition = part → (X.core c).partition = part) ∧
    (∀ n x, n ∉ l.map (·.1) → s.share n = some x → ∃ y, X.share n = some y ∧ y.core = x.core) ∧
    ∀ y ∈ l, (X.core y.2).partition = part ∧ ∃ x, X.share y.1 = some x ∧ x.core = some y.2 := by
  induction l generalizing s with
  | nil => exact ⟨fun _ h => h, fun n x _ h => ⟨x, h, rfl⟩, fun y hy => by cases hy⟩
  | cons z l ih =>
    rw [List.map_cons, List.nodup_cons] at hl
    obtain ⟨x0, hx0⟩ := hs z (List.mem_cons_self ..)
    let A : State := (s.updCore z.2 fun k => { k with partition := part }).setShare z.1 { x0 with core := some z.2 }
    have hA : s.resumeShare part z = (((A.teamsOf z.1).mergeSort fun a b => a.2.slotT ≤ b.2.slotT).zip (A.freeSlots z.2 [])).foldl (State.resumeTeam z.2) A := by
      unfold State.resumeShare
      rw [show (s.updCore z.2 fun k => { k with partition := part }).updShare z.1 (fun x => { x with core := some z.2 }) = A from State.updShare_some
        (s := s.updCore z.2 fun k => { k with partition := part }) hx0 _]
    have hm : A.Moves (s.resumeShare part z) := hA ▸ State.Moves.foldl _ _ (State.moves_resumeTeam z.2) A
    rw [List.foldl_cons]
    generalize s.resumeShare part z = B at hm ⊢
    have hpart (c : Nat) (h : (s.core c).partition = part ∨ c = z.2) : (B.core c).partition = part := by
      rw [hm.partition]
      by_cases hc : c = z.2
      · rw [hc]
        exact congrArg Core.partition (State.core_updCore s z.2 fun k => { k with partition := part })
      · exact (congrArg Core.partition (State.core_updCore_other s (fun k => { k with partition := part }) hc)).trans (h.resolve_right hc)
    have hkeep (n : Nat) (x : Share) (hn : n ≠ z.1) (hx : s.share n = some x) : ∃ y, B.share n = some y ∧ y.core = x.core :=
      hm.core n x ((State.share_setShare_other _ _ hn).trans hx)
    have hne (y : Nat × Nat) (hy : y ∈ l) : y.1 ≠ z.1 := fun h => hl.1 (h ▸ List.mem_map_of_mem hy)
    obtain ⟨h1, h2, h3⟩ := ih hl.2 B fun y hy => by
      obtain ⟨x, hx⟩ := hs y (List.mem_cons_of_mem _ hy)
      obtain ⟨w, hw, -⟩ := hkeep y.1 x (hne y hy) hx
      exact ⟨w, hw⟩
    refine ⟨fun c hc => h1 c (hpart c (.inl hc)), fun n x hn hx => ?_, fun y hy => ?_⟩
    · rw [List.map_cons, List.mem_cons, not_or] at hn
      obtain ⟨w, hw, hwc⟩ := hkeep n x hn.1 hx
      obtain ⟨v, hv, hvc⟩ := h2 n w hn.2 hw
      exact ⟨v, hv, hvc.trans hwc⟩
    · obtain rfl | hy := List.mem_cons.mp hy
      · obtain ⟨w, hw, hwc⟩ := hm.core y.1 _ (State.share_setShare ..)
        obtain ⟨v, hv, hvc⟩ := h2 y.1 w hl.1 hw
        exact ⟨h1 y.2 (hpart y.2 (.inr rfl)), v, hv, hvc.trans hwc⟩
      · exact h3 y hy

section
variable {s : State} {p cl : Nat} {c : Cluster} {g : Grid}

/-- An earlier cluster waits to come back. -/
def State.earlierSaved (s : State) (p : Nat) (c : Cluster) : Bool :=
  (s.savedClusters p).any fun e => e.2.grid < c.grid || (e.2.grid == c.grid && e.2.index < c.index)

/-- The room is wanted for a cluster of an earlier grid, or of the foreground (log 13). -/
def State.roomWanted (s : State) (p : Nat) (c : Cluster) (g : Grid) : Bool :=
  match s.nextGrid p with
  | some (gk, n) => s.poolRoom p n && (gk < c.grid || s.victimOf p g n)
  | none => false

theorem State.earlierSaved_iff : s.earlierSaved p c = true ↔ ∃ e ∈ s.savedClusters p,
  e.2.grid < c.grid ∨ e.2.grid = c.grid ∧ e.2.index < c.index := by
  unfold State.earlierSaved
  simp only [List.any_eq_true, Bool.or_eq_true, Bool.and_eq_true, decide_eq_true_iff, beq_iff_eq]

theorem State.roomWanted_iff : s.roomWanted p c g = true ↔
    ∃ gk n, s.nextGrid p = some (gk, n) ∧ s.poolRoom p n = true ∧ (gk < c.grid ∨ s.victimOf p g n = true) := by
  unfold State.roomWanted
  cases hn : s.nextGrid p with
  | none => exact ⟨fun h => absurd h Bool.false_ne_true, fun ⟨gk, n, h, _⟩ => by cases h⟩
  | some e =>
    obtain ⟨gk, n⟩ := e
    dsimp only
    rw [Bool.and_eq_true, Bool.or_eq_true, decide_eq_true_iff]
    refine ⟨fun h => ⟨gk, n, rfl, h⟩, fun ⟨gk', n', h, hr⟩ => ?_⟩
    injection h with h
    injection h with h1 h2
    rw [h1, h2]
    exact hr

/-- The shares of a cluster back on cores of its die. -/
def State.resumed (s : State) (cl : Nat) (c : Cluster) (g : Grid) (l : List (Nat × Nat)) : State :=
  let s := l.foldl (State.resumeShare g.kernel.partition) s
  (s.setCluster cl { c with saved := false, placedSeq := s.fresh }).bump.updGrid c.grid fun g =>
    { g with cores := g.cores ++ (l.map (·.2)).filter fun x => !g.cores.contains x }

variable (hc : s.cluster cl = some c) (hg : s.grid c.grid = some g)
include hc hg

theorem exec_clusterResume_eq : exec (.clusterResume p cl) s = .next (
    if !c.saved || g.pkg != p || s.earlierSaved p c || s.roomWanted p c g then s
    else match s.resumePlace g c with
      | none => s
      | some l => s.resumed cl c g l) := by
  show execClusterResume p cl s = _
  unfold execClusterResume
  rw [hc]
  dsimp only
  rw [hg] <;> rfl

theorem exec_clusterResume_rule :
    let may : Prop := c.saved = true ∧ g.pkg = p ∧ ¬(∃ e ∈ s.savedClusters p, e.2.grid < c.grid ∨ e.2.grid = c.grid ∧ e.2.index < c.index) ∧
      ¬∃ gk n, s.nextGrid p = some (gk, n) ∧ s.poolRoom p n = true ∧ (gk < c.grid ∨ s.victimOf p g n = true)
    (¬may ∨ s.resumePlace g c = none → exec (.clusterResume p cl) s = .next s) ∧
    ∀ l, may → s.resumePlace g c = some l → exec (.clusterResume p cl) s = .next (s.resumed cl c g l) := by
  intro may
  have hcond : (!c.saved || g.pkg != p || s.earlierSaved p c || s.roomWanted p c g) = true ↔ ¬may := by
    unfold may
    rw [Bool.or_eq_true, Bool.or_eq_true, Bool.or_eq_true, State.earlierSaved_iff, State.roomWanted_iff, Bool.not_eq_true', ← Bool.not_eq_true,
      bne_iff_ne,
      not_and_or, not_and_or, not_and_or, not_not, not_not, or_assoc, or_assoc]
  rw [exec_clusterResume_eq hc hg]
  refine ⟨fun h => congrArg _ ?_, fun l hm hl => congrArg _ ?_⟩
  · by_cases hm : may
    · rw [if_neg fun hb => hcond.mp hb hm, h.resolve_left (not_not.mpr hm)]
    · exact if_pos (hcond.mpr hm)
  · rw [if_neg fun hb => hcond.mp hb hm, hl]

end

theorem State.resumed_rule {s : State} {cl : Nat} {c : Cluster} {g : Grid} {l : List (Nat × Nat)} (hl : s.resumePlace g c = some l) (hnodup : c.shares.Nodup) :
    let X := s.resumed cl c g l
    (∃ c', X.cluster cl = some c' ∧ c'.saved = false ∧ c'.shares = c.shares) ∧
    (∀ y ∈ l, y.2 / 12 = c.die ∧ (X.core y.2).partition = g.kernel.partition ∧ ∃ x, X.share y.1 = some x ∧ x.core = some y.2) ∧
    ∀ sh ∈ c.shares, ∀ x, s.share sh = some x → x.ended = false → ∃ y ∈ l, y.1 = sh := by
  intro X
  obtain ⟨m, hm, hsub, hall, hlive⟩ := State.foldOpt_resumePlace s g c c.shares [] l hl
  rw [List.nil_append] at hm
  subst hm
  obtain ⟨-, -, hshares⟩ := State.foldl_resumeShare g.kernel.partition l (hnodup.sublist hsub) s fun y hy => (hall y hy).2
  generalize hF : l.foldl (State.resumeShare g.kernel.partition) s = F at hshares
  have hX : X = (F.setCluster cl { c with saved := false, placedSeq := F.fresh }).bump.updGrid c.grid fun g =>
      { g with cores := g.cores ++ (l.map (·.2)).filter fun x => !g.cores.contains x } := by
    rw [← hF]
    rfl
  have hsame (W : State) (n : Nat) (f : Grid → Grid) : (W.updGrid n f).clusters = W.clusters ∧ (W.updGrid n f).cores = W.cores ∧
      (W.updGrid n f).shares = W.shares := by
    unfold State.updGrid
    cases W.grid n <;> exact ⟨rfl, rfl, rfl⟩
  obtain ⟨h1, h2, h3⟩ := hsame (F.setCluster cl { c with saved := false, placedSeq := F.fresh }).bump c.grid fun g =>
      { g with cores := g.cores ++ (l.map (·.2)).filter fun x => !g.cores.contains x }
  rw [← hX] at h1 h2 h3
  refine ⟨⟨{ c with saved := false, placedSeq := F.fresh }, ?_, rfl, rfl⟩, fun y hy => ?_, hlive⟩
  · unfold State.cluster
    rw [h1]
    exact find_put_same ..
  · obtain ⟨hpart, hshare⟩ := hshares y hy
    refine ⟨(hall y hy).1, ?_, ?_⟩
    · unfold State.core
      rw [h2]
      exact hpart
    · unfold State.share
      rw [h3]
      exact hshare

/-- Settles O49: R311 and R312 by `State.preemptable_iff` and `State.victims_rule`, the images by `State.stopCluster_images`, the way back by
`State.resumed_rule`. -/
theorem preemptSaveResume : Obligations.PreemptSaveResume := by
  unfold Obligations.PreemptSaveResume
  intro s p
  refine ⟨?_, fun cl c g hc hg => ?_⟩
  · intro starved fresh stops stands
    have hstarved (g : Grid) : s.starved p g = true ↔ starved g := s.starved_iff p g
    refine ⟨s.preemptable_iff, s.victims_rule p, exec_preempt_saving, fun hf hno => ?_, fun cl hstops => ?_⟩
    · exact exec_preempt_none hf.1 hf.2 fun e he h => hno e he ((hstarved e.2).mp h)
    · have heq : exec (.preemptCluster p) s = .next (s.stopCluster p cl) := by
        obtain ⟨hs, c, rest, hgo⟩ | ⟨hf, l, gk, g, m, c, rest, ho, hl, hg, hv⟩ := hstops
        · exact exec_preempt_going hs hgo
        · exact exec_preempt_victim hf.1 hf.2 ho (fun e he h => hl e he ((hstarved e.2).mp h)) ((hstarved g).mpr hg) hv
      refine ⟨fun hp => ?_, fun hp hw => ?_, fun hp hw hslots hfresh c hc => ⟨_, heq, State.stopCluster_images hp hw hslots hfresh hc⟩⟩
      · rw [heq, State.stopCluster_protected hp]
      · rw [heq, State.stopCluster_waits hp hw]
  · intro held may
    refine ⟨fun hno => ?_, fun hm => ?_, ?_⟩
    · rw [exec_shareImageSave_eq hc hg, if_pos (shareImageSave_iff.mpr hno)]
    · obtain ⟨h1, h2⟩ := State.foldl_leaveCore c.shares s
      refine ⟨_, (exec_shareImageSave_eq hc hg).trans (congrArg _ (if_neg fun hb => shareImageSave_iff.mp hb hm)), ?_, find_put_same .., h2⟩
      rw [h1]
      rfl
    · intro ahead wanted may
      obtain ⟨hstay, hgo⟩ := exec_clusterResume_rule (p := p) hc hg
      exact ⟨hstay, fun l hm hl hnodup => ⟨_, hgo l hm hl, State.resumed_rule hl hnodup⟩⟩

end Sys2Proof.Machine

/-! PROOFS. A package that is listed twice (R253, R306, R351), against the clauses on the DONE word. -/

namespace Sys2Proof.Machine

open Host

/-! ## A package that is listed twice (R253, R351) -/

/-- A package of a pod of two that records page 2 as LOST, and translates page 1 of context 1 to it. -/
def lostSlicePkg : Pkg where
  podsize := 2
  parish := [(2, { refs := 1, master := 0, lost := true })]
  tlb2 := [⟨1, 1, 0, BitVec.ofNat 64 (2 ^ 63 + 2 ^ 62 + 2 ^ 59 + 2 ^ 58 + 2), 0, 0⟩]

/-- A package that records page 2 as busy. -/
def busySlicePkg : Pkg where
  podsize := 2
  parish := [(2, { refs := 1, master := 0, busy := true })]

/-- Package 0 is listed twice: the second entry, which no lookup finds, declares it lost, so that package 1 serves the slice of page 2. -/
def twicePkgState : State := { State.reset.setGrid 0 placedGrid with pkgs := [(0, lostSlicePkg), (0, { lostmap := 1 }), (1, busySlicePkg)] }

/-- The page's slice is busy for package 0. -/
theorem twicePkgState_busy : twicePkgState.busy 0 2 = true := by decide +kernel

/-- The place of the DONE word passes its checks. -/
theorem twicePkgState_checks : ∃ x, twicePkgState.asHardware 0 (schedWho 0) Chk.waits (fun s => s.checkGlobal 0 1 0x10000 8 true false false false) =
    (twicePkgState, .ok [x]) ∧ x.leaf.gpn = 2 ∧ x.addr = 131072 :=
  ⟨⟨(TlbEnt.leaf ⟨1, 1, 0, BitVec.ofNat 64 (2 ^ 63 + 2 ^ 62 + 2 ^ 59 + 2 ^ 58 + 2), 0, 0⟩ 1), 131072, 8⟩, by decide +kernel, by decide +kernel, rfl⟩

/-- The DONE word is not held up: dropping its lines from the caches writes package 0 back as one entry, which serves the slice itself. -/
theorem twicePkgState_done : (twicePkgState.writeDone 0 0 0 1 0x10000 0).2 = true := by decide +kernel

/-- Refutes O46: the clauses on the DONE word do not ask that the packages are listed once, in rising order. Where one is listed twice, the write of
its L3 that drops the word's lines takes the second entry away,
  and with it who serves the page's slice; a page that was busy before is not so at the write. -/
theorem not_periodsMeteringAndCompletion : ¬ Obligations.PeriodsMeteringAndCompletion := by
  intro hall
  unfold Obligations.PeriodsMeteringAndCompletion at hall
  obtain ⟨-, hgrid⟩ := hall
  obtain ⟨-, -, -, -, -, hframe⟩ := hgrid twicePkgState 0 placedGrid rfl
  obtain ⟨x, hchecks, hgpn, haddr⟩ := twicePkgState_checks
  obtain ⟨hbusy, -⟩ := hframe 0 1 0x10000 0 twicePkgState x (by decide) (by decide +kernel) hchecks (by rw [hgpn, haddr]) (by rw [hgpn]; decide)
    (by rw [haddr]) (by decide) (by rw [haddr]; decide +kernel) (by rw [haddr]; decide +kernel)
  rw [hgpn] at hbusy
  obtain ⟨Y, hY⟩ := hbusy twicePkgState_busy
  have hdone := twicePkgState_done
  rw [show twicePkgState.writeDone 0 0 0 1 0x10000 0 = (Y, false) from hY] at hdone
  exact Bool.false_ne_true hdone

end Sys2Proof.Machine

/-! PROOFS. A write of the window to a page whose slice is busy behind a package that is listed twice (R253, R351, R367),
  against the clause on its bytes. -/

namespace Sys2Proof.Machine

open Host

/-! ## A write of the window while the slice is busy -/

/-- A reachable package that is the master of page 2, records it as busy, and translates page 1 of the window's context to it. -/
def windowPkg : Pkg where
  stage := 6
  podsize := 2
  frames := [(4, { gpn := 2, state := .masterExcl })]
  parish := [(2, { refs := 1, master := 0, busy := true })]
  tlb2 := [⟨0, 1, 0, BitVec.ofNat 64 (2 ^ 63 + 2 ^ 62 + 2 ^ 59 + 2 ^ 58 + 2), 0, 0⟩]

/-- Package 0 is listed twice: the second entry, which no lookup finds, declares it lost, so that package 1 serves the slice of page 2. -/
def windowTwiceState : State := { State.reset with pkgs := [(0, windowPkg), (0, { lostmap := 1 }), (1, { podsize := 2 })] }

/-- The byte at offset 65536 of the window passes its checks. -/
theorem windowTwiceState_checks : ∃ x, windowTwiceState.windowCheck 0 65536 1 true = (windowTwiceState, .ok [x]) ∧
    x.leaf.gpn = 2 ∧ x.addr = 131072 ∧ x.len = 1 :=
  ⟨⟨(TlbEnt.leaf ⟨0, 1, 0, BitVec.ofNat 64 (2 ^ 63 + 2 ^ 62 + 2 ^ 59 + 2 ^ 58 + 2), 0, 0⟩ 1), 131072, 1⟩, by decide +kernel, by decide +kernel, rfl,
    rfl⟩

/-- No page change holds page 2 and it has no twin, as package 0 sees it before the write. -/
theorem windowTwiceState_idle : windowTwiceState.busy 0 2 = false ∧ windowTwiceState.twinAt 0 2 = none := by
  constructor <;> decide +kernel

/-- The write is not answered: its posted number writes package 0 back as one entry, which serves the slice itself, and there the page is busy. -/
theorem windowTwiceState_held (X : State) (hX : exec (.windowWrite 0 65536 [7]) windowTwiceState = .next X) : X.hostReply = none := by
  have hnone : (match exec (.windowWrite 0 65536 [7]) windowTwiceState with | .next Y => Y.hostReply == none | _ => true) = true := by
    decide +kernel
  rw [hX] at hnone
  exact beq_iff_eq.1 hnone

/-- Refutes O42: the statement does not ask that the packages are listed once, in rising order. Where one is listed twice, the number of the posted
write takes the second entry away, and with it who serves the page's slice; a page that was not busy before is so at the write. -/
theorem not_windowAccess : ¬ Obligations.WindowAccess := by
  intro hall
  unfold Obligations.WindowAccess at hall
  obtain ⟨hwin, -⟩ := hall
  obtain ⟨x, hcheck, hgpn, haddr, hlen⟩ := windowTwiceState_checks
  obtain ⟨-, -, hok⟩ := hwin windowTwiceState windowTwiceState 0 65536 1 [7] true (.ok [x]) (by decide +kernel) (by decide) (by decide) rfl
    (by decide) hcheck
  obtain ⟨-, -, hother, -⟩ := hok x rfl (by decide +kernel) (by decide +kernel) (by rw [hgpn, haddr]) (by rw [haddr, hlen]; decide) hlen
  rw [hgpn, haddr, hlen] at hother
  obtain ⟨-, -, hframe⟩ := hother (by decide) (by decide +kernel)
  obtain ⟨hidle, htwin⟩ := windowTwiceState_idle
  obtain ⟨-, hwrite⟩ := hframe 4 (by decide +kernel)
  obtain ⟨hdone, -⟩ := hwrite rfl (by decide +kernel) hidle htwin
  obtain ⟨X, ⟨hX, hreply⟩, -⟩ := hdone (by decide +kernel)
  have hnone := windowTwiceState_held X hX
  rw [hnone] at hreply
  exact nomatch hreply

end Sys2Proof.Machine

/-! PROOFS. GPN_REISSUE of a page whose slice is another one once a package that is listed twice is listed once (R252, R253, R326, R351),
  against the clause on the frames' tags. -/

namespace Sys2Proof.Machine

open Host

/-! ## A reissue that finds the page at another slice -/

/-- A package whose L3 holds a dirty sector of page 2, and whose own slice knows the page. -/
def spoilPkg : Pkg where
  podsize := 2
  l3 := { sectors := [(4096, ⟨List.replicate 32 0, 1, 1, [], false⟩)] }
  parish := [(2, { refs := 1, master := 0 })]

/-- A package with GPN_REISSUE of page 2 under way, whose slice has the page LOST and whose frame holds it as MASTER_SHARED. -/
def reissuePkg : Pkg where
  podsize := 2
  stage := 6
  busy := true
  cmdOp := some 4
  args := [(0, 2)]
  frames := [(4, { gpn := 2, state := .masterShared })]
  parish := [(2, { refs := 1, master := 0, lost := true })]

/-- Package 0 is listed twice: the second entry, which no lookup finds, declares it lost, so that package 1 serves the slice of page 2. -/
def reissueTwiceState : State := { State.reset with pkgs := [(0, spoilPkg), (0, { lostmap := 1 }), (1, reissuePkg)] }

/-- Raising a vector leaves the tags. -/
theorem Pkg.raiseVec_tag (k : Pkg) (vec f : Nat) : (k.raiseVec vec).tag f = k.tag f := by
  unfold Pkg.raiseVec
  split <;> rfl

/-- Every package finds page 2 LOST at the slice of package 1. -/
theorem reissueTwiceState_lost : ∀ q ∈ reissueTwiceState.pkgs, ∃ e, reissueTwiceState.parishEnt q.1 2 = some e ∧ (e.lost = true ∨ e.refs = 0) := by
  intro q hq
  refine ⟨{ refs := 1, master := 0, lost := true }, ?_, .inl rfl⟩
  have hall : ∀ q ∈ reissueTwiceState.pkgs, reissueTwiceState.parishEnt q.1 2 = some { refs := 1, master := 0, lost := true } := by decide +kernel
  exact hall q hq

/-- No frame of page 2 drains. -/
theorem reissueTwiceState_still : ∀ q ∈ reissueTwiceState.pkgs, q.2.stateOf 2 ≠ .draining := by decide +kernel

/-- The reissue makes package 1's frame MASTER_EXCL: dropping the dirty sector writes package 0 back as one entry,
  whose own slice then knows the page. -/
theorem reissueTwiceState_sole (X : State) (hX : exec (.gpnReissue 1) reissueTwiceState = .next X) : ((X.pkg 1).tag 4).state = .masterExcl := by
  have htag : (match exec (.gpnReissue 1) reissueTwiceState with | .next Y => ((Y.pkg 1).tag 4).state == .masterExcl | _ => false) = true := by
    decide +kernel
  rw [hX] at htag
  exact beq_iff_eq.1 htag

/-- Refutes O39: the clause on GPN_REISSUE does not ask that the packages are listed once, in rising order. Where one is listed twice,
  the removal of a
line from its L3 takes the second entry away, and with it who serves the page's slice: there the page is not LOST, and the frames that share it
are made the only ones. -/
theorem not_hostCommands : ¬ Obligations.HostCommands := by
  intro hall
  unfold Obligations.HostCommands at hall
  obtain ⟨-, -, -, -, hreissue, -⟩ := hall.1 reissueTwiceState 1
  have hlost := reissueTwiceState_lost
  have hslice : ∃ e, reissueTwiceState.parishEnt 1 2 = some e ∧ (e.lost = true ∨ e.refs = 0) := hlost (1, reissuePkg) (by decide +kernel)
  obtain ⟨-, hgone⟩ := hreissue ⟨rfl, rfl, rfl⟩
  obtain ⟨-, hdone⟩ := hgone (.inl hslice) (by decide +kernel)
  obtain ⟨X, hends, -, -, htags⟩ := hdone reissueTwiceState_still (fun c hc => absurd hc List.not_mem_nil) fun q hq => .inl (hlost q hq)
  have hsole := reissueTwiceState_sole _ hends
  have hshared : (X.pkg 1).tag 4 = { gpn := 2, state := .masterShared } := (htags 1 4).trans (by decide +kernel)
  rw [State.pkg_updPkg, Pkg.raiseVec_tag] at hsole
  exact absurd ((congrArg Tag.state hshared).symm.trans hsole) (by decide)

end Sys2Proof.Machine

/-! PROOFS. Accesses of global memory: reads and requests of sectors, checked lanes, and the loads LD, LDU and LD.probe outside a region (R37, R124,
  R127 to R129, R219, R224, R226). -/

namespace Sys2Proof.Machine

open Host

/-! ## Reads and requests of sectors move bytes alone -/

theorem State.flows_addRequest (s : State) (core key : Nat) (mask : BitVec 32) (kind : ReqKind) (w : Issuer) (gens : List (List (BitVec 4))) :
    s.Flows (s.addRequest core key mask kind w gens) := .of_eq rfl

theorem State.flows_pullMem {s s' : State} {p key : Nat} {bs : List Byte} {good : BitVec 32} (h : s.pullMem p key = some (s', bs,
  good)) : s.Flows s' := by
  unfold State.pullMem at h
  dsimp only at h
  split at h
  · obtain ⟨rfl, -⟩ := Prod.mk.inj (Option.some.inj h)
    exact .refl s
  · split at h
    · split at h
      · obtain ⟨rfl, -⟩ := Prod.mk.inj (Option.some.inj h)
        exact (State.reads_readGranule s _ _ _).flows.trans (.updPkg _ _ rfl)
      · exact nomatch h
    · exact nomatch h

theorem State.flows_pull (key : Nat) (mask : BitVec 32) (unord : Bool) (p : Nat) : ∀ (ls : List Level) (s s' : State),
  s.pull key mask unord ls p = some s' → s.Flows s'
  | [], _, _, h => nomatch h
  | [l], s, s', h => by
    unfold State.pull at h
    split at h
    · obtain rfl := Option.some.inj h
      exact .refl s
    · split at h
      · exact nomatch h
      · next s1 bs good hp =>
        dsimp only at h
        split at h
        · obtain rfl := Option.some.inj h
          exact (State.flows_pullMem hp).trans (State.flows_fillLevel _ _ _ _ _ _)
        · exact nomatch h
  | l :: n :: ls, s, s', h => by
    unfold State.pull at h
    split at h
    · obtain rfl := Option.some.inj h
      exact .refl s
    · split at h
      · exact nomatch h
      · next s1 hp =>
        obtain rfl := Option.some.inj h
        exact (State.flows_pull key mask unord p (n :: ls) s s1 hp).trans (State.flows_fillLevel _ _ _ _ _ _)

theorem State.flows_readSector (s : State) (core key : Nat) (mask : BitVec 32) (scope : Nat) (unord : Bool) :
    s.Flows (s.readSector core key mask scope unord).1 := by
  unfold State.readSector
  dsimp only
  have hpurge := State.flows_purge s key (pathLevels core scope)
  split
  · split
    · next hp => exact hpurge.trans (State.flows_pullMem hp)
    · exact hpurge
  · split
    · next hp => exact hpurge.trans (State.flows_pull _ _ _ _ _ _ _ hp)
    · exact hpurge

theorem State.flows_writeSector (s : State) (core key : Nat) (bs : List Byte) (mask : BitVec 32) (scope : Nat) (unord : Bool) (w : Issuer) :
    s.Flows (s.writeSector core key bs mask scope unord w) := by
  unfold State.writeSector
  dsimp only
  have hpurge := State.flows_purge s key (pathLevels core scope)
  split
  · exact hpurge.trans (State.flows_memWrite _ _ _ _ _ _)
  · exact hpurge.trans (State.flows_mergeDirty _ _ _ _ _ _)

theorem State.flows_readWants (s : State) (core serial : Nat) (ws : List Want) : s.Flows (s.readWants core serial ws).1 := by
  unfold State.readWants
  refine List.foldlRecOn (motive := fun (acc : State × List Got) => s.Flows acc.1) _ _ (.refl s) fun acc hacc w _ => ?_
  dsimp only
  split
  · exact hacc
  · exact hacc.trans (State.flows_readSector _ _ _ _ _ _)

theorem State.flows_requestMissing (s : State) (tk : Nat) (t : Team) (kind : ReqKind) (gens : State → Want → List (List (BitVec 4))) (gs : List Got) :
    s.Flows (s.requestMissing tk t kind gens gs).1 := by
  unfold State.requestMissing
  refine List.foldlRecOn (motive := fun (acc : State × List Got) => s.Flows acc.1) _ _ (.refl s) fun acc hacc g _ => ?_
  dsimp only
  split
  · exact hacc
  · exact hacc.trans (State.flows_addRequest _ _ _ _ _ _ _)

/-- A request for what is missing leaves what is missing. -/
theorem State.missing_requestMissing (s : State) (tk : Nat) (t : Team) (kind : ReqKind) (gens : State → Want → List (List (BitVec 4))) (gs : List Got) :
    missing (s.requestMissing tk t kind gens gs).2 = missing gs := by
  have hstep (l : List Got) : ∀ acc : State × List Got, missing (l.foldl (fun (acc : State × List Got) g =>
      match g.bytes with
      | some _ => (acc.1, acc.2 ++ [g])
      | none =>
        (acc.1.addRequest (coreOf tk) g.want.key g.want.mask kind
          { tk := tk, serial := t.serial, addr := t.here, lanes := g.want.lanes, leaf := some g.want.leaf } (gens acc.1 g.want),
          acc.2 ++ [{ g with req := acc.1.fresh }])) acc).2 = missing acc.2 + missing l := by
    induction l with
    | nil => exact fun acc => rfl
    | cons g l ih =>
      intro acc
      rw [List.foldl_cons, ih]
      cases hg : g.bytes <;> simp [missing, List.filter_append, List.filter_cons, hg] <;> omega
  have h := hstep gs (s, [])
  simp only [missing, List.filter_nil, List.length_nil, Nat.zero_add] at h
  exact h

theorem State.flows_performStores (s : State) (tk : Nat) (t : Team) (ws : List (Nat × Nat × Leaf × Byte)) (ea : Nat → Nat → Word) (scope : Nat) :
    ∃ s', s.Flows s' ∧ s.performStores tk t ws ea scope = s'.noteWrite (some tk) (ws.map fun w => .glob w.2.1) := by
  refine ⟨_, ?_, rfl⟩
  refine State.Flows.foldl _ _ (fun s key => ?_) s
  dsimp only
  split
  · exact .refl _
  · exact State.flows_writeSector _ _ _ _ _ _ _ _

/-! ## Checked lanes -/

/-- Lanes that pass their checks are the lanes that were checked, each with its address. -/
theorem State.checkLanes_ok {s s1 : State} {tk : Nat} {t : Team} {lanes : List Nat} {ea : Nat → Word} {n : Nat} {write rmw split lockCheck probe : Bool}
    {ls : List (Nat × Word × List Piece)} (h : s.checkLanes tk t lanes ea n write rmw split lockCheck probe = (s1, .ok ls)) :
    ls.map (fun x => (x.1, x.2.1)) = lanes.map fun L => (L, ea L) := by
  have hfold (l : List Nat) : ∀ acc : State × List (Nat × Word × Chk), ((l.foldl (fun (acc : State × List (Nat × Word × Chk)) L =>
      ((acc.1.checkGlobal (coreOf tk) t.ctx (ea L) n write rmw split lockCheck probe).1,
        acc.2 ++ [(L, ea L, (acc.1.checkGlobal (coreOf tk) t.ctx (ea L) n write rmw split lockCheck probe).2)])) acc).2.map fun x => (x.1, x.2.1)) =
      acc.2.map (fun x => (x.1, x.2.1)) ++ l.map fun L => (L, ea L) := by
    induction l with
    | nil => intro acc; simp
    | cons L l ih =>
      intro acc
      rw [List.foldl_cons, ih]
      simp
  have hr := hfold lanes (s, [])
  unfold State.checkLanes at h
  dsimp only at h
  rw [Prod.mk.injEq] at h
  obtain ⟨-, h⟩ := h
  split at h
  · exact nomatch h
  · split at h
    · exact nomatch h
    · injection h with h
      rw [← h, List.map_map]
      simpa [Function.comp_def] using hr

theorem State.checkLanes_lanes {s s1 : State} {tk : Nat} {t : Team} {lanes : List Nat} {ea : Nat → Word} {n : Nat} {write rmw split lockCheck probe : Bool}
    {ls : List (Nat × Word × List Piece)} (h : s.checkLanes tk t lanes ea n write rmw split lockCheck probe = (s1,
      .ok ls)) : ls.map (·.1) = lanes := by
  have hok := congrArg (List.map Prod.fst) (State.checkLanes_ok h)
  simpa [Function.comp_def] using hok

/-- In a list whose lanes are distinct a lane finds its own entry. -/
theorem find?_of_lanes {α : Type} {ls : List (Nat × α)} (hnd : (ls.map (·.1)).Nodup) {x : Nat × α} (hx : x ∈ ls) :
    ls.find? (fun y => y.1 == x.1) = some x := by
  induction ls with
  | nil => exact nomatch hx
  | cons y l ih =>
    rw [List.map_cons, List.nodup_cons] at hnd
    obtain ⟨hy, hl⟩ := hnd
    rcases List.mem_cons.mp hx with rfl | hx
    · exact List.find?_cons_of_pos (by simp)
    · have hne : y.1 ≠ x.1 := fun he => hy (he ▸ List.mem_map_of_mem hx)
      rw [List.find?_cons_of_neg (by simpa using hne)]
      exact ih hl hx

/-- The places of pieces are the addresses of their bytes. -/
theorem locsOf_eq (ps : List Piece) : locsOf ps = (pieceBytes ps).map .glob := by
  unfold locsOf pieceBytes
  rw [List.map_flatMap]
  simp [Function.comp_def]

/-- The parts of a load of new bytes are not stale. -/
theorem stale_loadParts (d n : Nat) (sx : Bool) (L : Nat) (bs : List Src) : ∀ q ∈ loadParts d n sx L bs, q.stale = false := by
  unfold loadParts
  intro q hq
  split at hq
  · rw [List.mem_singleton] at hq
    subst hq
    rfl
  · obtain ⟨i, -, rfl⟩ := List.mem_map.mp hq
    rfl

/-! ## Words that wait behind their effect for an acquire -/

/-- A word that has taken its effect and waits for its accesses before it acquires. -/
theorem Act.finish_hold {s : State} {tk : Nat} {u : Team} (sc : Nat) (z : Bool) (h : s.team tk = some u) (hs : u.stepping = none) :
    ∃ t', (Act.hold s sc).finish tk z = s.setTeam tk t' ∧ u.Moved t' ∧ u.Next t' ∧ t'.run = .parked (.acquired sc z) := by
  obtain ⟨v, hv⟩ : ∃ v, v = (if u.word.getD 0 < u.hdr.n.toNat then
      { u with word := some (u.word.getD 0 + 1), retry := none, cause := {}, relWait := none, latch := none, brought := [], fails := [], run := .running }
    else u.endClause s.now u.nextPc) := ⟨_, rfl⟩
  obtain ⟨hm, hn⟩ := Team.passWord_moved u s.now v hv
  have hpass : s.passWord tk = s.setTeam tk v := by
    rw [hv]
    exact State.updTeam_some h _
  refine ⟨{ v with run := .parked (.acquired sc z) }, ?_, hm.stand (.parked (.acquired sc z)) v.admitted v.inSlot, hn, rfl⟩
  unfold Act.finish
  dsimp only
  rw [h]
  dsimp only
  rw [hs, hpass, State.updTeam_some (State.team_setTeam s tk v), State.setTeam_setTeam]
  rfl

/-- A word with results that come later, which acquires behind them. -/
theorem hold_awaits (X : State) {tk : Nat} {t u : Team} {ps : List Part} (hs : u.stepping = none) (hk : t.Kept u) (hn : u.pc = t.pc ∧ u.word = t.word)
    (hw : t.Awaits u ps) (sc : Nat) (z : Bool) : ∃ t', Outcome.next ((Act.hold (X.setTeam tk u) sc).finish tk z) = (.next (X.setTeam tk t') : Res) ∧
      t.Kept t' ∧ t.Next t' ∧ t.Awaits t' ps ∧ t'.run = .parked (.acquired sc z) := by
  obtain ⟨t', h3, h4, h5, h6⟩ := Act.finish_hold sc z (State.team_setTeam X tk u) hs
  refine ⟨t', by rw [h3, State.setTeam_setTeam], hk.trans h4.1, ?_, hw.moved h4, h6⟩
  have hh : u.hdr = t.hdr := by unfold Team.Kept at hk; rw [hk]
  unfold Team.Next at h5 ⊢
  simpa only [hn.1, hn.2, hh, Team.nextPc] using h5

/-! ## What a load does once its lanes are recorded -/

/-- The bytes that a lane of a load takes: of an open region's buffer first, else what its group got. -/
def loadedBytes (r : Option TryRegion) (ls : List (Nat × Word × List Piece)) (gs : List Got) (L : Nat) : List Src :=
  match ls.find? fun x => x.1 == L with
  | none => []
  | some x => (locsOf x.2.2).map fun l =>
    match r.bind (·.byte l), l with
    | some b, _ => .known b
    | none, .glob a => gotByte gs (L / 32) a
    | none, .sp _ _ => .known 0

/-- A load has its results: it acquires, at once or once what is missing has come. -/
def loadEnd (tk ord scope : Nat) (strong : Bool) (m : Nat) (X : State) : Act :=
  if ord = 1 || strong then (if m = 0 then .retire (X.acquire (coreOf tk) (if strong then 5 else scope)) else .hold X (if strong then 5 else scope))
  else .retire X

/-- A load behind its release and its footprints. -/
def loadAct (tk : Nat) (ls : List (Nat × Word × List Piece)) (ord scope : Nat) (strong : Bool) (go : State → Team → (Nat → List Src) → State)
    (s : State) (t : Team) : Act :=
  let s := s.acquireIf (coreOf tk) 5 strong
  let r2 := s.readWants (coreOf tk) t.serial (wantsOf ls (if ord = 1 then scope else 0))
  if Config.coreRequests < r2.1.heldRequests (coreOf tk) + missing r2.2 then .park r2.1 (.requests (missing r2.2))
  else
    let r3 := r2.1.requestMissing tk t .load (fun s w => s.pathGens (coreOf tk) w.scope) r2.2
    loadEnd tk ord scope strong (missing r3.2) (go r3.1 t (loadedBytes t.tryR ls r3.2))

/-- A load records its lanes in an open region and reads, behind a release where a page is STRONG. -/
theorem loadGlobal_eq (s : State) (tk : Nat) (t : Team) (ls : List (Nat × Word × List Piece)) (ord scope : Nat)
    (go : State → Team → (Nat → List Src) → State) : loadGlobal s tk t ls ord scope go =
      if t.tryR.isSome && strongPage ls then .abort s 5 0
      else if strongPage ls then releaseThen s tk t 5 fun s => tryTouch s tk t (ls.map fun x => (x.1,
        locsOf x.2.2)) (loadAct tk ls ord scope (strongPage ls) go)
      else tryTouch s tk t (ls.map fun x => (x.1, locsOf x.2.2)) (loadAct tk ls ord scope (strongPage ls) go) := rfl

/-- The bytes of a lane outside a region are what its group got. -/
theorem loadedBytes_none {ls : List (Nat × Word × List Piece)} (hnd : (ls.map (·.1)).Nodup) (gs : List Got) {x : Nat × Word × List Piece} (hx : x ∈ ls) :
    loadedBytes none ls gs x.1 = (pieceBytes x.2.2).map (gotByte gs (x.1 / 32)) := by
  unfold loadedBytes
  rw [find?_of_lanes hnd hx]
  dsimp only
  rw [locsOf_eq, List.map_map]
  rfl

/-- The bytes of a lane inside a region: the region's own, else what its group got. -/
theorem loadedBytes_some {ls : List (Nat × Word × List Piece)} (hnd : (ls.map (·.1)).Nodup) (r : TryRegion) (gs : List Got) {x : Nat × Word × List Piece}
    (hx : x ∈ ls) : loadedBytes (some r) ls gs x.1 =
      (pieceBytes x.2.2).map fun a => match r.byte (.glob a) with | some b => .known b | none => gotByte gs (x.1 / 32) a := by
  unfold loadedBytes
  rw [find?_of_lanes hnd hx]
  dsimp only
  rw [locsOf_eq, List.map_map]
  refine List.map_congr_left fun a _ => ?_
  simp only [Function.comp_apply, Option.bind_some]
  cases r.byte (.glob a) <;> rfl

/-- A load whose requests the core has room for. -/
theorem loadAct_room {s : State} {tk : Nat} {t : Team} {ls : List (Nat × Word × List Piece)} {ord scope : Nat} {strong : Bool}
    {go : State → Team → (Nat → List Src) → State} {r2 r3 : State × List Got}
    (h2 : r2 = (s.acquireIf (coreOf tk) 5 strong).readWants (coreOf tk) t.serial (wantsOf ls (if ord = 1 then scope else 0)))
    (h3 : r3 = r2.1.requestMissing tk t .load (fun s w => s.pathGens (coreOf tk) w.scope) r2.2)
    (hroom : r2.1.heldRequests (coreOf tk) + missing r2.2 ≤ 4096) :
    loadAct tk ls ord scope strong go s t = loadEnd tk ord scope strong (missing r2.2) (go r3.1 t (loadedBytes t.tryR ls r3.2)) := by
  have hmiss : missing r3.2 = missing r2.2 := h3 ▸ State.missing_requestMissing _ _ _ _ _ _
  have hfull : ¬Config.coreRequests < r2.1.heldRequests (coreOf tk) + missing r2.2 := Nat.not_lt.mpr hroom
  subst h2
  refine (if_neg hfull).trans ?_
  rw [← h3, hmiss]

/-- What the end of a load of pages that are not STRONG leaves: the team waiting for the parts, and the acquire. -/
theorem loadEnd_outcome (X : State) {tk : Nat} {t : Team} {ps : List Part} (hs : t.stepping = none) (hstale : ∀ q ∈ ps, q.stale = false)
    (ord scope m : Nat) (z : Bool) :
    (ord ≠ 1 → EndsParts (.next ((loadEnd tk ord scope false m (X.setTeam tk (t.writeLong ps))).finish tk z)) X tk t ps) ∧
    (ord = 1 → m = 0 → Ends (.next ((loadEnd tk ord scope false m (X.setTeam tk (t.writeLong ps))).finish tk z))
      ((X.setTeam tk (t.writeLong ps)).acquire (coreOf tk) scope) tk (t.writeLong ps) []) ∧
    (ord = 1 → m ≠ 0 → ∃ t', (.next ((loadEnd tk ord scope false m (X.setTeam tk (t.writeLong ps))).finish tk z) : Res) = .next (X.setTeam tk t') ∧
      t.Kept t' ∧ t.Next t' ∧ t.Awaits t' ps ∧ t'.run = .parked (.acquired scope z)) := by
  have hkept : t.Kept (t.writeLong ps) := t.kept_writeLong ps
  refine ⟨fun hord => ?_, fun hord hm => ?_, fun hord hm => ?_⟩
  · rw [show loadEnd tk ord scope false m (X.setTeam tk (t.writeLong ps)) = .retire (X.setTeam tk (t.writeLong ps)) by simp [loadEnd, hord]]
    exact endsParts_retire (State.team_setTeam _ _ _) hs (fun x => State.setTeam_setTeam _ _ _ _) hkept ⟨rfl, rfl⟩ (t.awaits_writeLong hstale)
  · rw [show loadEnd tk ord scope false m (X.setTeam tk (t.writeLong ps)) = .retire ((X.setTeam tk (t.writeLong ps)).acquire (coreOf tk) scope) by
      simp [loadEnd, hord, hm]]
    exact acquire_endsAcq X (u := t.writeLong ps) hs scope z
  · rw [show loadEnd tk ord scope false m (X.setTeam tk (t.writeLong ps)) = .hold (X.setTeam tk (t.writeLong ps)) scope by simp [loadEnd, hord, hm]]
    exact hold_awaits X (u := t.writeLong ps) hs hkept ⟨rfl, rfl⟩ (t.awaits_writeLong hstale) scope z

/-! ## LD, LDU and LD.probe (R127 to R129) -/

section Loads

variable {h : Hdr} {f : MF} {s s1 : State} {t : Team}

/-- The lanes of a word that pass their checks are distinct. -/
theorem State.checkLanes_nodup {tk : Nat} {ea : Nat → Word} {n : Nat} {write rmw split lockCheck probe : Bool} {ls : List (Nat × Word × List Piece)}
    (hc : s.checkLanes tk t (t.act h) ea n write rmw split lockCheck probe = (s1, .ok ls)) : (ls.map (·.1)).Nodup :=
  State.checkLanes_lanes hc ▸ t.nodup_act h

/-- The parts of a load of all its lanes. -/
def laneParts (d n : Nat) (sx : Bool) (ls : List (Nat × Word × List Piece)) (bytes : Nat → List Src) : List Part :=
  ls.flatMap fun x => loadParts d n sx x.1 (bytes x.1)

theorem stale_laneParts (d n : Nat) (sx : Bool) (ls : List (Nat × Word × List Piece)) (bytes : Nat → List Src) :
    ∀ q ∈ laneParts d n sx ls bytes, q.stale = false := by
  intro q hq
  obtain ⟨x, -, hq⟩ := List.mem_flatMap.mp hq
  exact stale_loadParts _ _ _ _ _ q hq

/-- LD goes on with its checked lanes. -/
theorem exec_ld_eq (hi : s.Issues t (.ld h f) h) {ls : List (Nat × Word × List Piece)}
    (hc : s.checkLanes s.cur t (t.act h) (addrGlobal f t) (2 ^ f.size.toNat) false false (splitOk f) true = (s1, .ok ls)) :
    exec (.ld h f) s = .next ((loadGlobal s1 s.cur t ls f.ord.toNat f.scope.toNat fun X u bytes =>
      X.setTeam s.cur (u.writeLong (laneParts f.data.toNat (2 ^ f.size.toNat) f.sx ls bytes))).finish s.cur h.z) := by
  show execLd h f s = _
  unfold execLd
  rw [issue_next hi]
  dsimp only
  rw [show s.checkLanes s.cur t (t.act h) (eaGlobal t f) (sizeBytes f.size) false false (f.ord == 0 && f.size != 0) true = (s1, .ok ls) from hc]
  rfl

/-- LDU goes on with its checked pieces. -/
theorem exec_ldu_eq (hi : s.IssuesOnce t (.ldu h f) h) {ps : List Piece}
    (hc : s.checkGlobal (coreOf s.cur) t.ctx (addrUniform f t) (2 ^ f.size.toNat) false false (splitOk f) true = (s1, .ok ps)) :
    exec (.ldu h f) s = .next ((loadGlobal s1 s.cur t [((t.act h).headD 0, addrUniform f t, ps)] f.ord.toNat f.scope.toNat fun X u bytes =>
      X.setTeam s.cur (u.writeLong [⟨.s (f.data.toNat % 64), 0, bytes ((t.act h).headD 0), f.sx, false⟩])).finish s.cur h.z) := by
  show execLdu h f s = _
  unfold execLdu
  rw [once_next hi]
  dsimp only [checkUniform]
  rw [show s.checkGlobal (coreOf s.cur) t.ctx (eaUniform t f) (sizeBytes f.size) false false (f.ord == 0 && f.size != 0) true = (s1, .ok ps) from hc]
  rfl

/-- Outside a region a load of pages that are not STRONG reads at once. -/
theorem loadGlobal_plain {tk : Nat} {ls : List (Nat × Word × List Piece)} (hr : t.tryR = none) (hstrong : strongPage ls = false) (X : State) (ord scope : Nat)
    (go : State → Team → (Nat → List Src) → State) : loadGlobal X tk t ls ord scope go = loadAct tk ls ord scope false go X t := by
  rw [loadGlobal_eq, hstrong]
  simp only [Bool.and_false, Bool.false_eq_true, if_false]
  unfold tryTouch
  rw [hr]

/-- The order field as a number. -/
theorem ordN_eq_one (o : BitVec 2) : o.toNat = 1 ↔ o = 1 := by
  rw [show (1 : Nat) = (1 : BitVec 2).toNat from rfl, BitVec.toNat_inj]

/-- What the statement asks of a load outside a region, from what the word goes on with. -/
theorem load_rule {i : Instr} {ls : List (Nat × Word × List Piece)} {parts : (Nat → List Src) → List Part} {out : List Got → List Part}
    (hs : t.stepping = none) (hr : t.tryR = none) (hstrong : strongPage ls = false)
    (he : exec i s = .next ((loadGlobal s1 s.cur t ls f.ord.toNat f.scope.toNat fun X u bytes => X.setTeam s.cur (u.writeLong (parts bytes))).finish s.cur h.z))
    (hp : ∀ gs, parts (loadedBytes none ls gs) = out gs) (hstale : ∀ bytes, ∀ q ∈ parts bytes, q.stale = false) :
    let core := coreOf s.cur
    let sc := if f.ord = 1 then f.scope.toNat else 0
    let r2 := s1.readWants core t.serial (wantsOf ls sc)
    let r3 := r2.1.requestMissing s.cur t .load (fun s w => s.pathGens core w.scope) r2.2
    r2.1.heldRequests core + missing r2.2 ≤ 4096 →
    (f.ord ≠ 1 → EndsParts (exec i s) r3.1 s.cur t (out r3.2)) ∧
    (f.ord = 1 → missing r2.2 = 0 → Ends (exec i s) ((r3.1.setTeam s.cur (t.writeLong (out r3.2))).acquire core sc) s.cur
      (t.writeLong (out r3.2)) []) ∧
    (f.ord = 1 → missing r2.2 ≠ 0 → ∃ t', exec i s = .next (r3.1.setTeam s.cur t') ∧ t.Kept t' ∧ t.Next t' ∧ t.Awaits t' (out r3.2) ∧
      t'.run = .parked (.acquired sc h.z)) := by
  intro core sc r2 r3 hroom
  have hord (a b : Nat) : (if f.ord.toNat = 1 then a else b) = if f.ord = 1 then a else b := by simp only [ordN_eq_one]
  rw [he, loadGlobal_plain hr hstrong, loadAct_room (r2 := r2) (r3 := r3) (by rw [hord]; rfl) rfl hroom, hr, hp]
  obtain ⟨hplain, hacq,
    hhold⟩ := loadEnd_outcome r3.1 (ps := out r3.2) hs (fun q hq => hstale (loadedBytes none ls r3.2) q ((hp r3.2).symm ▸ hq)) f.ord.toNat f.scope.toNat
    (missing r2.2) h.z (tk := s.cur)
  have hsc (ho : f.ord = 1) : f.scope.toNat = sc := (if_pos ho).symm
  exact ⟨fun ho => hplain (mt (ordN_eq_one _).mp ho), fun ho => hsc ho ▸ hacq ((ordN_eq_one _).mpr ho),
    fun ho => hsc ho ▸ hhold ((ordN_eq_one _).mpr ho)⟩

/-! ### LD.probe -/

/-- Every byte that a lane of a probe reads is held by its package, at TEAM scope. -/
def probeHeld (s : State) (core : Nat) (x : Nat × Word × List Piece) : Bool := (pieceBytes x.2.2).all fun a => s.holds core (a / 32) 0 (a % 32)

/-- Outside a region a lane of a probe of pages that are not STRONG hits where its bytes are held. -/
theorem probeHit_eq (hr : t.tryR = none) {ls : List (Nat × Word × List Piece)} (hstrong : strongPage ls = false) (core : Nat) {x : Nat × Word × List Piece}
    (hx : x ∈ ls) : s.probeHit core t x = probeHeld s core x := by
  have hleaf (p : Piece) (hp : p ∈ x.2.2) : pointScope p.leaf 0 = 0 := by
    have hno := List.any_eq_false.mp (Bool.eq_false_iff.mpr (List.any_eq_false.mp hstrong x hx)) p hp
    exact if_neg fun ho => hno (by rw [ho]; rfl)
  unfold State.probeHit probeHeld pieceBytes
  rw [List.all_flatMap, hr]
  rw [Bool.eq_iff_iff, List.all_eq_true, List.all_eq_true]
  refine forall₂_congr fun p hp => ?_
  rw [List.all_map]
  simp only [hleaf p hp, Option.any_none, Bool.false_or]
  rfl

/-- Of lanes that are distinct one is among those that pass a test where it passes it itself. -/
theorem any_filter_lane {α : Type} {ls : List (Nat × α)} (hnd : (ls.map (·.1)).Nodup) (q : Nat × α → Bool) {x : Nat × α} (hx : x ∈ ls) :
    (ls.filter q).any (fun y => y.1 == x.1) = q x := by
  rw [Bool.eq_iff_iff, List.any_eq_true]
  constructor
  · rintro ⟨y, hy, he⟩
    obtain ⟨hyl, hq⟩ := List.mem_filter.mp hy
    have hyx : y = x := List.inj_on_of_nodup_map hnd hyl hx (beq_iff_eq.mp he)
    exact hyx ▸ hq
  · exact fun hq => ⟨x, List.mem_filter.mpr ⟨hx, hq⟩, by simp⟩

/-- The parts of a lane of a probe: as LD would and k14 := 0 where it hits, else zero and k14 := 1. -/
def probeParts (f : MF) (hit : Nat × Word × List Piece → Bool) (gs : List Got) (x : Nat × Word × List Piece) : List Part :=
  if hit x then loadParts f.data.toNat (2 ^ f.size.toNat) f.sx x.1 ((pieceBytes x.2.2).map (gotByte gs (x.1 / 32))) ++ [Part.ofVal (.k 14) x.1 0]
  else loadParts f.data.toNat (2 ^ f.size.toNat) false x.1 ((pieceBytes x.2.2).map fun _ => .known 0) ++ [Part.ofVal (.k 14) x.1 1]

theorem stale_probeParts (f : MF) (hit : Nat × Word × List Piece → Bool) (gs : List Got) (ls : List (Nat × Word × List Piece)) :
    ∀ q ∈ ls.flatMap (probeParts f hit gs), q.stale = false := by
  intro q hq
  obtain ⟨x, -, hq⟩ := List.mem_flatMap.mp hq
  unfold probeParts at hq
  split at hq
  all_goals
    rcases List.mem_append.mp hq with hq | hq
    · exact stale_loadParts _ _ _ _ _ q hq
    · rw [List.mem_singleton.mp hq]
      rfl

/-- LD.probe with its lanes checked, outside a region. -/
theorem ldProbe_rule (hi : s.Issues t (.ldProbe h f) h) (hr : t.tryR = none) {ls : List (Nat × Word × List Piece)} (hstrong : strongPage ls = false)
    (hc : s.checkLanes s.cur t (t.act h) (addrGlobal f t) (2 ^ f.size.toNat) false false false true true = (s1, .ok ls)) {r2 r3 : State × List Got}
    {climbing : List Got} (hcl : climbing = s1.probeClimbs (pkgOf (coreOf s.cur)) (ls.filter fun x => !probeHeld s1 (coreOf s.cur) x))
    (h2 : r2 = s1.readWants (coreOf s.cur) t.serial (wantsOf (ls.filter (probeHeld s1 (coreOf s.cur))) 0))
    (hroom : r2.1.heldRequests (coreOf s.cur) + (missing r2.2 + climbing.length) ≤ 4096)
    (h3 : r3 = r2.1.requestMissing s.cur t .load (fun X w => X.pathGens (coreOf s.cur) w.scope) r2.2) :
    EndsParts (exec (.ldProbe h f) s) (r3.1.requestMissing s.cur t .probe (fun X w => X.probeGens (coreOf s.cur) w) climbing).1 s.cur t
      (ls.flatMap (probeParts f (probeHeld s1 (coreOf s.cur)) r3.2)) := by
  obtain ⟨q, hq⟩ : ∃ q, q = s1.probeHit (coreOf s.cur) t := ⟨_, rfl⟩
  have hheld : ∀ x ∈ ls, q x = probeHeld s1 (coreOf s.cur) x := fun x hx => hq ▸ probeHit_eq hr hstrong _ hx
  have hhits : ls.filter q = ls.filter (probeHeld s1 (coreOf s.cur)) := List.filter_congr hheld
  have hmiss : (ls.filter fun x => !q x) = ls.filter fun x => !probeHeld s1 (coreOf s.cur) x :=
    List.filter_congr fun x hx => by rw [hheld x hx]
  have hparts : (ls.flatMap fun x =>
      loadParts f.data.toNat (sizeBytes f.size) (f.sx && (ls.filter (probeHeld s1 (coreOf s.cur))).any fun y => y.1 == x.1) x.1
        ((locsOf x.2.2).map fun l => if !((ls.filter (probeHeld s1 (coreOf s.cur))).any fun y => y.1 == x.1) then Src.known 0
          else match t.tryR.bind (·.byte l), l with
            | some b, _ => .known b
            | none, .glob a => gotByte r3.2 (x.1 / 32) a
            | none, .sp _ _ => .known 0) ++
        [Part.ofVal (.k 14) x.1 (bit !((ls.filter (probeHeld s1 (coreOf s.cur))).any fun y => y.1 == x.1))]) =
      ls.flatMap (probeParts f (probeHeld s1 (coreOf s.cur)) r3.2) := by
    refine List.flatMap_congr fun x hx => ?_
    rw [any_filter_lane (State.checkLanes_nodup hc) _ hx, hr, locsOf_eq, List.map_map]
    unfold probeParts
    cases probeHeld s1 (coreOf s.cur) x
    · simp [Function.comp_def, bit, sizeBytes]
    · simp [Function.comp_def, bit, sizeBytes]
  have hbody : exec (.ldProbe h f) s = .next ((Act.retire ((r3.1.requestMissing s.cur t .probe (fun X w => X.probeGens (coreOf s.cur) w) climbing).1.setTeam s.cur
      (t.writeLong (ls.flatMap (probeParts f (probeHeld s1 (coreOf s.cur)) r3.2))))).finish s.cur h.z) := by
    have hfull : ¬Config.coreRequests < r2.1.heldRequests (coreOf s.cur) + (missing r2.2 + climbing.length) := Nat.not_lt.mpr hroom
    subst hcl h2
    show execLdProbe h f s = _
    unfold execLdProbe
    rw [issue_next hi]
    dsimp only
    rw [show s.checkLanes s.cur t (t.act h) (eaGlobal t f) (sizeBytes f.size) false false false true true = (s1, .ok ls) from hc]
    dsimp only [checked]
    rw [hstrong]
    simp only [Bool.and_false, Bool.false_eq_true, if_false, tryTouch, hr, State.acquireIf, Bool.false_and]
    rw [← hr, ← hq, hhits, hmiss, ← hparts, if_neg hfull, ← h3] <;> rfl
  rw [hbody]
  exact endsParts_retire (State.team_setTeam _ _ _) hi.2.2.2.2 (fun x => State.setTeam_setTeam _ _ _ _) (t.kept_writeLong _) ⟨rfl, rfl⟩
    (t.awaits_writeLong (stale_probeParts _ _ _ _))

end Loads

/-- Settles O13: each load goes on with its checked lanes, reads what the package holds and asks for the rest; its parts are the lanes' bytes. -/
theorem loadsFromMemory : Obligations.LoadsFromMemory := by
  unfold Obligations.LoadsFromMemory
  refine ⟨?_, ?_⟩
  · intro h f s s1 t core n sc out hr
    constructor
    · intro ls hi hc hstrong
      refine load_rule (out := fun gs => ls.flatMap fun x => loadParts f.data.toNat n f.sx x.1 ((pieceBytes x.2.2).map (gotByte gs (x.1 / 32))))
        hi.2.2.2.2 hr hstrong (exec_ld_eq hi hc) (fun gs => List.flatMap_congr fun x hx => ?_) (stale_laneParts _ _ _ _)
      rw [loadedBytes_none (State.checkLanes_nodup hc) gs hx]
    · intro ps hi hc L hstrong
      refine load_rule (out := fun gs => [⟨.s (f.data.toNat % 64), 0, (pieceBytes ps).map (gotByte gs (L / 32)), f.sx, false⟩])
        hi.1.2.2.2.2 hr hstrong (exec_ldu_eq hi hc) (fun gs => ?_) fun bytes q hq => by rw [List.mem_singleton.mp hq]
      rw [loadedBytes_none (ls := [(L, addrUniform f t, ps)]) (List.nodup_singleton _) gs List.mem_cons_self]
  · intro h f s s1 t ls core n hi hr hc hstrong held climbing r2 hroom r3 r4
    exact ldProbe_rule hi hr hstrong hc rfl rfl hroom rfl

end Sys2Proof.Machine

/-! PROOFS. Stores of global memory outside a region: their bytes, and what a store at a narrow scope leaves (R127, R128, R170, R216, R223, R225). -/

namespace Sys2Proof.Machine

open Host

/-! ## The bytes of data registers (R127) -/

/-- The bytes of a number, each by its place. -/
theorem bytesOf_eq_map (n v : Nat) : bytesOf n v = (List.range n).map fun i => BitVec.ofNat 8 (v / 256 ^ i) := by
  induction n generalizing v with
  | zero => rfl
  | succ n ih =>
    rw [bytesOf, ih, List.range_succ_eq_map, List.map_cons, List.map_map, pow_zero, Nat.div_one]
    refine congrArg _ (List.map_congr_left fun i _ => ?_)
    rw [Function.comp_apply, pow_succ', Nat.div_div_eq_div_mul]

/-- A byte of a 32-bit digit of a number. -/
theorem byte_of_digit {v i : Nat} {x : Lane32} (h : v / 2 ^ (32 * (i / 4)) % 2 ^ 32 = x.toNat) :
    BitVec.ofNat 8 (v / 256 ^ i) = x.extractLsb' (8 * (i % 4)) 8 := by
  apply BitVec.eq_of_toNat_eq
  rw [BitVec.extractLsb'_toNat, ← h, Nat.shiftRight_eq_div_pow, BitVec.toNat_ofNat]
  have hpow : (256 : Nat) ^ i = 2 ^ (32 * (i / 4)) * 2 ^ (8 * (i % 4)) := by
    rw [show (256 : Nat) = 2 ^ 8 from rfl, ← pow_mul, ← pow_add]
    congr 1
    omega
  have hsplit : (2 : Nat) ^ 32 = 2 ^ (8 * (i % 4)) * 2 ^ (32 - 8 * (i % 4)) := by
    rw [← pow_add]
    congr 1
    omega
  rw [hpow, ← Nat.div_div_eq_div_mul, hsplit, Nat.mod_mul_right_div_self]
  refine (Nat.mod_mod_of_dvd _ ?_).symm
  exact pow_dvd_pow 2 (by omega)

/-- The low bytes of the data registers, for a size of R49. -/
theorem dataBytes_eq (t : Team) {k : Nat} (hk : k ≤ 4) (d L : Nat) : dataBytes t (2 ^ k) d L = storedData t (2 ^ k) d L := by
  have hn : 2 ^ k ≤ 16 := (Nat.pow_le_pow_right two_pos hk).trans (by decide)
  obtain ⟨n, hkn⟩ : ∃ n, n = 2 ^ k := ⟨_, rfl⟩
  rw [← hkn] at hn ⊢
  obtain ⟨digit, hdigit⟩ : ∃ digit : Nat → Nat, digit = fun i => if 4 * i < n then (t.rv (d + i) L).toNat else 0 := ⟨_, rfl⟩
  have hd (i : Nat) : digit i < 2 ^ 32 := by
    rw [hdigit]
    dsimp only
    split
    · exact (t.rv (d + i) L).isLt
    · exact Nat.two_pow_pos 32
  have hfold : (List.range 4).foldl (fun a i => if 4 * i < n then a + (t.rv (d + i) L).toNat * 2 ^ (32 * i) else a) 0 =
      (List.range 4).foldl (fun a i => a + digit i * 2 ^ (32 * i)) 0 := by
    refine List.foldl_ext _ _ _ fun a i _ => ?_
    rw [hdigit]
    by_cases h4 : 4 * i < n <;> simp [h4]
  unfold dataBytes storedData
  rw [hfold, bytesOf_eq_map, ← List.map_take, List.take_range, Nat.min_eq_left (le_max_left n 4)]
  refine List.map_congr_left fun i hi => ?_
  have hin : i < n := List.mem_range.mp hi
  refine byte_of_digit ?_
  rw [(foldl_digits 32 digit hd 4).2 (i / 4) (by omega), hdigit]
  exact if_pos (by omega)

/-! ## ST and STU outside a region -/

/-- A release waits for the team's earlier accesses. -/
theorem releaseThen_busy {X : State} {tk : Nat} {t : Team} (hbusy : X.quiet tk t.serial = false) (sc : Nat) (go : State → Act) :
    releaseThen X tk t sc go = .park X .quiet := by
  unfold releaseThen
  rw [hbusy]
  rfl

/-- A release at SYSTEM scope that is done at once. -/
theorem releaseThen_system {X : State} {tk : Nat} {t : Team} {sc : Nat} (hquiet : X.quiet tk t.serial = true) (hsc : 5 ≤ sc) (hw : t.relWait = none)
    (hposted : ((X.release (coreOf tk) 5).pkg (pkgOfTeam tk)).posted = []) (go : State → Act) : releaseThen X tk t sc go = go (X.release (coreOf tk) 5) := by
  unfold releaseThen
  rw [hquiet, hw]
  dsimp only
  rw [if_neg (by decide), if_neg (Nat.not_lt.mpr hsc), if_pos (List.isEmpty_iff.mpr hposted)]

section Stores

variable {h : Hdr} {f : MF} {s s1 : State} {t : Team}

theorem State.team_performStores {X : State} {tk : Nat} (ht : X.team tk = some t) (t' : Team) (ws : List (Nat × Nat × Leaf × Byte)) (ea : Nat → Nat → Word)
    (scope : Nat) : (X.performStores tk t' ws ea scope).team tk = some t := by
  obtain ⟨X', hflow, heq⟩ := State.flows_performStores X tk t' ws ea scope
  rw [heq, State.team_noteWrite, hflow.team, ht]
  exact congrArg some (if_pos rfl)

/-- A size that a load or store offers. -/
theorem size_le_four {sizes ords : List Nat} {probe strm : Bool} {sx : Nat} (hsizes : ∀ n ∈ sizes,
  n ≤ 4) (hok : f.ok sizes ords probe strm sx = true) :
    f.size.toNat ≤ 4 := by
  simp only [MF.ok, Bool.and_eq_true, List.contains_iff_mem] at hok
  obtain ⟨⟨⟨⟨⟨hsize, -⟩, -⟩, -⟩, -⟩, -⟩ := hok
  exact hsizes _ hsize

/-- What a store of checked lanes does outside a region on pages that are not STRONG. -/
theorem storeGlobal_plain {tk : Nat} {ls : List (Nat × Word × List Piece)} (hr : t.tryR = none) (hstrong : strongPage ls = false) (X : State) (ord scope : Nat)
    (data : Nat → List Byte) :
    let go (X : State) : Act := .retire (X.performStores tk t (storeBytes ls data) (fun L _ => (ls.find? fun x => x.1 == L).elim 0 fun x => x.2.1) scope)
    storeGlobal X tk t ls ord scope data = if ord = 2 then releaseThen X tk t scope go else go X := by
  unfold storeGlobal
  dsimp only
  rw [hr, hstrong]
  rfl

/-- What the statement asks of a store outside a region on pages that are not STRONG, from what the word goes on with. -/
theorem store_rule {i : Instr} {ls : List (Nat × Word × List Piece)} {data : Nat → List Byte} (hs : t.stepping = none) (hr : t.tryR = none)
    (ht : s1.team s.cur = some t) (hstrong : strongPage ls = false)
    (he : exec i s = .next ((storeGlobal s1 s.cur t ls f.ord.toNat f.scope.toNat data).finish s.cur h.z)) :
    let core := coreOf s.cur
    let sc := f.scope.toNat
    let ws := storeBytes ls data
    let ea (L : Nat) : Word := (ls.find? fun x => x.1 == L).elim 0 fun x => x.2.1
    (f.ord ≠ 2 → Ends (exec i s) (s1.performStores s.cur t ws (fun L _ => ea L) sc) s.cur t []) ∧
    (f.ord = 2 → s1.quiet s.cur t.serial = true →
      (sc < 5 → Ends (exec i s) ((s1.release core sc).performStores s.cur t ws (fun L _ => ea L) sc) s.cur t []) ∧
      (5 ≤ sc → t.relWait = none → ((s1.release core 5).pkg (pkgOf core)).posted = [] →
        Ends (exec i s) ((s1.release core 5).performStores s.cur t ws (fun L _ => ea L) sc) s.cur t [])) ∧
    (f.ord = 2 → s1.quiet s.cur t.serial = false → Parks (exec i s) s1 s.cur t .quiet) := by
  intro core sc ws ea
  have hgo {X : State} (hX : X.team s.cur = some t) :
      Ends (.next ((Act.retire (X.performStores s.cur t ws (fun L _ => ea L) sc)).finish s.cur h.z)) (X.performStores s.cur t ws (fun L _ => ea L) sc) s.cur t [] :=
    retire_ends_in (State.team_performStores hX t ws _ sc) hs h.z
  have hrel (n : Nat) : (s1.release core n).team s.cur = some t := (State.flows_release s1 core n).team s.cur ▸ ht
  have hord : f.ord = 2 ↔ f.ord.toNat = 2 := ⟨fun ho => congrArg BitVec.toNat ho, fun ho => BitVec.eq_of_toNat_eq ho⟩
  rw [he, storeGlobal_plain hr hstrong]
  refine ⟨fun ho => ?_, fun ho hquiet => ⟨fun hsc => ?_, fun hsc hw hposted => ?_⟩, fun ho hbusy => ?_⟩
  · rw [if_neg (mt hord.mpr ho)]
    exact hgo ht
  · rw [if_pos (hord.mp ho), releaseThen_released ⟨hquiet, rfl, .inl hsc⟩]
    exact hgo (hrel sc)
  · rw [if_pos (hord.mp ho), releaseThen_system hquiet hsc hw hposted]
    exact hgo (hrel 5)
  · rw [if_pos (hord.mp ho), releaseThen_busy hbusy]
    exact park_parks_in ht hs .quiet h.z

/-- ST goes on with its checked lanes. -/
theorem exec_st_eq (hi : s.Issues t (.st h f) h) {ls : List (Nat × Word × List Piece)}
    (hc : s.checkLanes s.cur t (t.act h) (addrGlobal f t) (2 ^ f.size.toNat) true false (splitOk f) true = (s1, .ok ls)) :
    exec (.st h f) s = .next ((storeGlobal s1 s.cur t ls f.ord.toNat f.scope.toNat (storedData t (2 ^ f.size.toNat) f.data.toNat)).finish s.cur h.z) := by
  have hsize : f.size.toNat ≤ 4 := size_le_four (by decide) (fieldOk_of_precheck hi.2.1 : f.ok [0, 1, 2, 3, 4] [0, 2] false true 0 = true)
  have hdata : dataBytes t (sizeBytes f.size) f.data.toNat = storedData t (2 ^ f.size.toNat) f.data.toNat := funext fun L => dataBytes_eq t hsize _ L
  show execSt h f s = _
  unfold execSt
  rw [issue_next hi]
  dsimp only
  rw [show s.checkLanes s.cur t (t.act h) (eaGlobal t f) (sizeBytes f.size) true false (f.ord == 0 && f.size != 0) true = (s1, .ok ls) from hc]
  dsimp only [checked]
  rw [hdata]
  rfl

/-- STU goes on with its checked pieces. -/
theorem exec_stu_eq (hi : s.IssuesOnce t (.stu h f) h) {ps : List Piece}
    (hc : s.checkGlobal (coreOf s.cur) t.ctx (addrUniform f t) (2 ^ f.size.toNat) true false (splitOk f) true = (s1, .ok ps)) :
    exec (.stu h f) s = .next ((storeGlobal s1 s.cur t [((t.act h).headD 0, addrUniform f t, ps)] f.ord.toNat f.scope.toNat
      fun _ => bytesOf (2 ^ f.size.toNat) (t.rs (f.data.toNat % 64)).toNat).finish s.cur h.z) := by
  show execStu h f s = _
  unfold execStu
  rw [once_next hi]
  dsimp only [checkUniform]
  rw [show s.checkGlobal (coreOf s.cur) t.ctx (eaUniform t f) (sizeBytes f.size) true false (f.ord == 0 && f.size != 0) true = (s1, .ok ps) from hc]
  rfl

/-- Checks leave the team of the word as it stood. -/
theorem team_of_checkLanes {tk : Nat} (ht : s.team tk = some t) {lanes : List Nat} {ea : Nat → Word} {n : Nat} {write rmw split lockCheck probe : Bool} {c : LanesChk}
    (hc : s.checkLanes tk t lanes ea n write rmw split lockCheck probe = (s1, c)) : s1.team tk = some t := by
  have hl := (State.looks_checkLanes s tk t lanes ea n write rmw split lockCheck probe).team tk
  rw [hc] at hl
  exact hl.trans ht

theorem team_of_checkGlobal {tk : Nat} (ht : s.team tk = some t) {core ctx n : Nat} {va : Word} {write rmw split lockCheck probe : Bool} {c : Chk}
    (hc : s.checkGlobal core ctx va n write rmw split lockCheck probe = (s1, c)) : s1.team tk = some t := by
  have hl := (State.looks_checkGlobal s core ctx va n write rmw split lockCheck probe).team tk
  rw [hc] at hl
  exact hl.trans ht

end Stores

/-! ## What a store at a narrow scope leaves (R127, R216, R223) -/

/-- Requests without what their fills may not bring. -/
def unskipped (rs : List (Nat × Request)) : List (Nat × Request) := rs.map fun e => (e.1, { e.2 with skip := [] })

/-- X differs from s in a core's L1, which is x, and in what the fills in flight may bring. -/
def State.L1Is (s X : State) (c : Nat) (x : Cache) : Prop :=
  ∃ rs, X = ({ s with requests := rs } : State).setCache (.l1 c) x ∧ unskipped rs = unskipped s.requests

theorem State.L1Is.l1 {s X : State} {c : Nat} {x : Cache} (h : s.L1Is X c x) : (X.core c).l1 = x := by
  obtain ⟨rs, rfl, -⟩ := h
  unfold State.setCache
  dsimp only
  rw [State.core_updCore]

theorem State.L1Is.trans {s X Y : State} {c : Nat} {x y : Cache} (hX : s.L1Is X c x) (hY : X.L1Is Y c y) : s.L1Is Y c y := by
  obtain ⟨rs, rfl, hrs⟩ := hX
  obtain ⟨rs', rfl, hrs'⟩ := hY
  refine ⟨rs', ?_, hrs'.trans hrs⟩
  have hcore : (({ s with requests := rs', cores := put s.cores c { s.core c with l1 := x } } : State).core c) = { s.core c with l1 := x } :=
    getD_put_same _ _ _ _
  show ({ s with requests := rs', cores := put s.cores c { s.core c with l1 := x } } : State).updCore c (fun k => { k with l1 := y }) = _
  unfold State.updCore State.setCore
  rw [hcore, put_put]
  rfl

/-- Dirty bytes merged into a core's L1. -/
theorem State.l1Is_mergeDirty (s : State) (c key : Nat) (bs : List Byte) (mask : BitVec 32) (unord : Bool) :
    s.L1Is (s.mergeDirty (.l1 c) key bs mask unord) c ((s.core c).l1.merge key bs mask true (s.core c).l1.gen unord) := by
  refine ⟨((s.mergeDirty (.l1 c) key bs mask unord)).requests, rfl, ?_⟩
  show unskipped (s.requests.map _) = _
  unfold unskipped
  rw [List.map_map]
  refine List.map_congr_left fun e _ => ?_
  dsimp only [Function.comp_apply]
  split <;> rfl

/-- The stores of a word to one sector, merged into a level. -/
def Cache.stored (ws : List (Nat × Nat × Leaf × Byte)) (x : Cache) (key : Nat) : Cache :=
  match ws.find? fun w => w.2.1 / 32 == key with
  | none => x
  | some w => x.merge key (sectorBytes ws key).1 (sectorBytes ws key).2 true x.gen (w.2.2.1.ord == 2)

theorem Cache.stored_gen (ws : List (Nat × Nat × Leaf × Byte)) (x : Cache) (key : Nat) : (x.stored ws key).gen = x.gen := by
  unfold Cache.stored
  split <;> rfl

theorem Cache.stored_lastAcq (ws : List (Nat × Nat × Leaf × Byte)) (x : Cache) (key : Nat) : (x.stored ws key).lastAcq = x.lastAcq := by
  unfold Cache.stored
  split <;> rfl

/-- A level holds a byte dirty. -/
def Cache.HasDirty (x : Cache) (a : Nat) (b : Byte) : Prop :=
  ∃ e, find x.sectors (a / 32) = some e ∧ e.dirty.getLsbD (a % 32) = true ∧ e.data.getD (a % 32) 0 = b

/-- The last byte that a word stores at an address. -/
def lastByte (ws : List (Nat × Nat × Leaf × Byte)) (a : Nat) : Option Byte := ((ws.filter fun w => w.2.1 == a).getLast?).map (·.2.2.2)

/-- The bytes that a set of stores leaves in a sector, by their places. -/
theorem sectorBytes_at (ws : List (Nat × Nat × Leaf × Byte)) (a : Nat) :
    (sectorBytes ws (a / 32)).1.getD (a % 32) 0 = (lastByte ws a).getD 0 ∧ (sectorBytes ws (a / 32)).2.getLsbD (a % 32) = (lastByte ws a).isSome := by
  have hlt : a % 32 < 32 := Nat.mod_lt _ (by decide)
  have ha : 32 * (a / 32) + a % 32 = a := Nat.div_add_mod a 32
  unfold sectorBytes
  dsimp only
  constructor
  · rw [List.getD_eq_getElem _ _ (by simpa using hlt), List.getElem_map, List.getElem_range, ha]
    rfl
  · rw [getLsbD_ofNat_foldl _ _ hlt, ha]
    unfold lastByte
    simp [hlt]

/-- What merging dirty bytes leaves of a sector. -/
theorem Cache.find_merge_dirty (x : Cache) (key : Nat) (bs : List Byte) (mask : BitVec 32) (gens : List (BitVec 4)) (unord : Bool) {j : Nat} (hj : j < 32) :
    ∃ e, find (x.merge key bs mask true gens unord).sectors key = some e ∧
      e.dirty.getLsbD j = ((find x.sectors key).any (fun e => e.dirty.getLsbD j) || mask.getLsbD j) ∧
      e.data.getD j 0 = if mask.getLsbD j then bs.getD j 0 else (find x.sectors key).elim 0 fun e => e.data.getD j 0 := by
  refine ⟨_, find_put_same _ _ _, ?_, ?_⟩
  · cases find x.sectors key <;> simp
  · dsimp only
    rw [if_pos rfl, List.getD_eq_getElem _ _ (by simpa using hj), List.getElem_map, List.getElem_range]
    cases find x.sectors key with
    | none =>
      have hzero : (List.replicate 32 (0 : Byte)).getD j 0 = 0 := by rw [List.getD_eq_getElem _ _ (by simpa using hj), List.getElem_replicate]
      show (if mask.getLsbD j then bs.getD j 0 else (List.replicate 32 (0 : Byte)).getD j 0) = _
      rw [hzero]
      rfl
    | some e => rfl

theorem Cache.find_merge_other (x : Cache) {key k : Nat} (h : k ≠ key) (bs : List Byte) (mask : BitVec 32) (d : Bool) (gens : List (BitVec 4)) (unord : Bool) :
    find (x.merge key bs mask d gens unord).sectors k = find x.sectors k := find_put_other _ _ _ h

/-- A sector's stores make the last byte stored at each address dirty. -/
theorem Cache.stored_hasDirty {ws : List (Nat × Nat × Leaf × Byte)} (x : Cache) {a : Nat} {b : Byte} (hb : lastByte ws a = some b) :
    (x.stored ws (a / 32)).HasDirty a b := by
  have hlt : a % 32 < 32 := Nat.mod_lt _ (by decide)
  obtain ⟨hdata, hmask⟩ := sectorBytes_at ws a
  rw [hb] at hdata hmask
  unfold Cache.stored
  split
  · next hnone =>
    obtain ⟨w, hw, -⟩ := Option.map_eq_some_iff.mp hb
    have hmem := List.mem_filter.mp (List.mem_of_getLast? hw)
    exact absurd (by simpa using congrArg (· / 32) (beq_iff_eq.mp hmem.2)) (by simpa using List.find?_eq_none.mp hnone w hmem.1)
  · obtain ⟨e, he, hd, hv⟩ := x.find_merge_dirty (a / 32) (sectorBytes ws (a / 32)).1 (sectorBytes ws (a / 32)).2 x.gen _ hlt
    exact ⟨e, he, by rw [hd, hmask]; simp, by rw [hv, hmask, hdata]; rfl⟩

/-- A sector's stores keep a dirty byte that they do not store to. -/
theorem Cache.HasDirty.stored {ws : List (Nat × Nat × Leaf × Byte)} {x : Cache} {a key : Nat} {b : Byte} (h : x.HasDirty a b)
    (ha : key = a / 32 → lastByte ws a = none) : (x.stored ws key).HasDirty a b := by
  have hlt : a % 32 < 32 := Nat.mod_lt _ (by decide)
  obtain ⟨e, he, hd, hv⟩ := h
  unfold Cache.stored
  split
  · exact ⟨e, he, hd, hv⟩
  · by_cases hk : a / 32 = key
    · subst hk
      obtain ⟨-, hmask⟩ := sectorBytes_at ws a
      rw [ha rfl] at hmask
      obtain ⟨e', he', hd', hv'⟩ := x.find_merge_dirty (a / 32) (sectorBytes ws (a / 32)).1 (sectorBytes ws (a / 32)).2 x.gen _ hlt
      refine ⟨e', he', ?_, ?_⟩
      · rw [hd', he]
        simp [hd]
      · rw [hv', hmask, he]
        exact hv
    · exact ⟨e, (x.find_merge_other hk _ _ _ _ _).trans he, hd, hv⟩

/-- Of sectors whose stores are made one after another, that of a stored byte holds it dirty. -/
theorem Cache.foldl_stored_hasDirty {ws : List (Nat × Nat × Leaf × Byte)} {a : Nat} {b : Byte} (hb : lastByte ws a = some b) (l : List Nat) :
    ∀ x : Cache, (a / 32 ∈ l ∨ x.HasDirty a b) → (l.foldl (Cache.stored ws) x).HasDirty a b := by
  induction l with
  | nil => exact fun x h => h.resolve_left List.not_mem_nil
  | cons k l ih =>
    intro x h
    refine ih _ ?_
    by_cases hk : k = a / 32
    · exact .inr (hk ▸ x.stored_hasDirty hb)
    · rcases h with h | h
      · exact .inl ((List.mem_cons.mp h).resolve_left (Ne.symm hk))
      · exact .inr (h.stored fun he => absurd he hk)

theorem Cache.HasDirty.foldl_stored {ws : List (Nat × Nat × Leaf × Byte)} {a : Nat} {b : Byte} (hb : lastByte ws a = none) (l : List Nat) :
    ∀ x : Cache, x.HasDirty a b → (l.foldl (Cache.stored ws) x).HasDirty a b := by
  induction l with
  | nil => exact fun x h => h
  | cons k l ih => exact fun x h => ih _ (h.stored fun _ => hb)

/-- The stores of a word to one sector, performed at a scope. -/
def storeStep (tk : Nat) (t : Team) (ws : List (Nat × Nat × Leaf × Byte)) (ea : Nat → Nat → Word) (scope : Nat) (s : State) (key : Nat) : State :=
  match ws.find? fun w => w.2.1 / 32 == key with
  | none => s
  | some w => s.writeSector (coreOf tk) key (sectorBytes ws key).1 (sectorBytes ws key).2 (pointScope w.2.2.1 scope) (w.2.2.1.ord == 2)
      { tk := tk, serial := t.serial, addr := t.here, lanes := (((ws.filter fun w => w.2.1 / 32 == key).map (·.1)).dedup).map fun L => (L, ea L key),
        leaf := some w.2.2.1, strong := w.2.2.1.ord == 1 }

/-- The stores of a word are performed sector by sector. -/
theorem performStores_eq (s : State) (tk : Nat) (t : Team) (ws : List (Nat × Nat × Leaf × Byte)) (ea : Nat → Nat → Word) (scope : Nat) :
    s.performStores tk t ws ea scope =
      (((ws.map fun w => w.2.1 / 32).dedup).foldl (storeStep tk t ws ea scope) s).noteWrite (some tk) (ws.map fun w => .glob w.2.1) := rfl

section Narrow

variable {tk : Nat} {t : Team} {ws : List (Nat × Nat × Leaf × Byte)} {ea : Nat → Nat → Word} {sc : Nat}

/-- At a narrow scope the stores to a sector go to the core's L1. -/
theorem l1Is_storeStep (hsc : sc < 2) (hord : ∀ w ∈ ws, w.2.2.1.ord ≠ 1) {k : Nat} (hk : (ws.find? fun w => w.2.1 / 32 == k).isSome) (X : State) :
    X.L1Is (storeStep tk t ws ea sc X k) (coreOf tk) ((X.core (coreOf tk)).l1.stored ws k) := by
  obtain ⟨w, hw⟩ := Option.isSome_iff_exists.mp hk
  have hpoint : pointScope w.2.2.1 sc = sc := if_neg (hord w (List.mem_of_find?_eq_some hw))
  have hwrite : storeStep tk t ws ea sc X k = X.mergeDirty (.l1 (coreOf tk)) k (sectorBytes ws k).1 (sectorBytes ws k).2 (w.2.2.1.ord == 2) := by
    unfold storeStep
    rw [hw]
    dsimp only
    rw [hpoint]
    unfold State.writeSector pointPath pathLevels
    rw [if_pos hsc]
    rfl
  have hstored : (X.core (coreOf tk)).l1.stored ws k = (X.core (coreOf tk)).l1.merge k (sectorBytes ws k).1 (sectorBytes ws k).2 true
      (X.core (coreOf tk)).l1.gen (w.2.2.1.ord == 2) := by
    unfold Cache.stored
    rw [hw]
  rw [hwrite, hstored]
  exact State.l1Is_mergeDirty X _ _ _ _ _

theorem l1Is_foldl_storeStep (hsc : sc < 2) (hord : ∀ w ∈ ws, w.2.2.1.ord ≠ 1) (l : List Nat) : (∀ k ∈ l,
  (ws.find? fun w => w.2.1 / 32 == k).isSome) →
    ∀ s X x, State.L1Is s X (coreOf tk) x → s.L1Is (l.foldl (storeStep tk t ws ea sc) X) (coreOf tk) (l.foldl (Cache.stored ws) x) := by
  induction l with
  | nil => exact fun _ s X x h => h
  | cons k l ih =>
    intro hl s X x h
    have hstep := l1Is_storeStep (tk := tk) (t := t) (ea := ea) hsc hord (hl k List.mem_cons_self) X
    rw [h.l1] at hstep
    exact ih (fun k' hk' => hl k' (List.mem_cons_of_mem _ hk')) s _ _ (h.trans hstep)

theorem foldl_stored_counters (ws : List (Nat × Nat × Leaf × Byte)) (l : List Nat) : ∀ x : Cache,
    (l.foldl (Cache.stored ws) x).gen = x.gen ∧ (l.foldl (Cache.stored ws) x).lastAcq = x.lastAcq := by
  induction l with
  | nil => exact fun x => ⟨rfl, rfl⟩
  | cons k l ih => exact fun x => ⟨(ih _).1.trans (x.stored_gen ws k), (ih _).2.trans (x.stored_lastAcq ws k)⟩

/-- A store at TEAM or CORE scope changes the core's L1 alone, where each stored byte stands dirty with its last value. -/
theorem performStores_narrow (s : State) (hsc : sc < 2) (hne : ws ≠ []) (hord : ∀ w ∈ ws,
  w.2.2.1.ord ≠ 1) : ∃ (x : Cache) (rs : List (Nat × Request)),
    s.performStores tk t ws ea sc = (({ s with requests := rs } : State).setCache (.l1 (coreOf tk)) x).noteWrite (some tk) (ws.map fun w => .glob w.2.1) ∧
    unskipped rs = unskipped s.requests ∧ (x.gen = (s.core (coreOf tk)).l1.gen ∧ x.lastAcq = (s.core (coreOf tk)).l1.lastAcq) ∧
    (∀ a b, lastByte ws a = some b → x.HasDirty a b) ∧ ∀ a b, lastByte ws a = none → (s.core (coreOf tk)).l1.HasDirty a b → x.HasDirty a b := by
  obtain ⟨keys, hkeys⟩ : ∃ keys, keys = (ws.map fun w => w.2.1 / 32).dedup := ⟨_, rfl⟩
  have hmem {w : Nat × Nat × Leaf × Byte} (hw : w ∈ ws) : w.2.1 / 32 ∈ keys := by
    rw [hkeys, List.mem_dedup]
    exact List.mem_map_of_mem hw
  have hfound : ∀ k ∈ keys, (ws.find? fun w => w.2.1 / 32 == k).isSome := by
    intro k hk
    rw [hkeys, List.mem_dedup] at hk
    obtain ⟨w, hw, rfl⟩ := List.mem_map.mp hk
    exact List.find?_isSome.mpr ⟨w, hw, by simp⟩
  obtain ⟨k, l, hl⟩ : ∃ k l, keys = k :: l := by
    obtain ⟨w, ws', rfl⟩ := List.exists_cons_of_ne_nil hne
    exact List.exists_cons_of_ne_nil (List.ne_nil_of_mem (hmem List.mem_cons_self))
  rw [hl] at hfound
  obtain ⟨rs, heq, hrs⟩ := l1Is_foldl_storeStep hsc hord l (fun k' hk' => hfound k' (List.mem_cons_of_mem _ hk')) s _ _
    (l1Is_storeStep (tk := tk) (t := t) (ea := ea) hsc hord (hfound k List.mem_cons_self) s)
  have hcons : l.foldl (Cache.stored ws) ((s.core (coreOf tk)).l1.stored ws k) = keys.foldl (Cache.stored ws) (s.core (coreOf tk)).l1 := by rw [hl]; rfl
  rw [hcons] at heq
  refine ⟨_, rs, ?_, hrs, foldl_stored_counters ws keys _, fun a b hb => ?_, fun a b hb h => h.foldl_stored hb keys _⟩
  · rw [performStores_eq, ← hkeys, hl, List.foldl_cons, heq, hl]
  · obtain ⟨w, hw, -⟩ := Option.map_eq_some_iff.mp hb
    obtain ⟨hws, ha⟩ := List.mem_filter.mp (List.mem_of_getLast? hw)
    exact Cache.foldl_stored_hasDirty hb keys _ (.inl (beq_iff_eq.mp ha ▸ hmem hws))

end Narrow

/-- Settles O14: a store goes on behind its release and is performed sector by sector; at a narrow scope each sector's bytes are merged, dirty,
  into the
core's L1. -/
theorem storesToMemory : Obligations.StoresToMemory := by
  unfold Obligations.StoresToMemory
  refine ⟨?_, ?_⟩
  · intro h f s s1 t core n sc out hr
    constructor
    · intro ls hi hc hstrong
      exact store_rule hi.2.2.2.2 hr (team_of_checkLanes hi.1 hc) hstrong (exec_st_eq hi hc)
    · intro ps hi hc hstrong
      exact store_rule hi.1.2.2.2.2 hr (team_of_checkGlobal hi.1.1 hc) hstrong (exec_stu_eq hi hc)
  · intro s tk t ws ea sc hsc hne hord
    obtain ⟨x, rs, heq, hrs, ⟨hgen, hacq⟩, hstored, hkept⟩ := performStores_narrow s (tk := tk) (t := t) (ea := ea) hsc hne hord
    refine ⟨x, rs, heq, hrs, hgen, hacq, fun a => ?_⟩
    split
    · next w hw => exact hstored a w.2.2.2 (by rw [lastByte, hw]; rfl)
    · next hw => exact fun e he hd => hkept a _ (by rw [lastByte, hw]; rfl) ⟨e, he, hd, rfl⟩

end Sys2Proof.Machine

/-! PROOFS. Accesses that fail their checks, and accesses to STRONG pages (R38, R127, R170, R234, R316). -/

namespace Sys2Proof.Machine

open Host

section Failed

variable {h : Hdr} {f : MF} {s s1 : State} {t : Team}

/-! ## Lanes that fail (R38, R127, R170) -/

/-- What checked lanes that do not pass do: a freeze, or an abort, with nothing performed; a wait for the host's walk. -/
theorem failed_rule {i : Instr} {c : LanesChk} {go : List (Nat × Word × List Piece) → Act} (hs : t.stepping = none) (ht : s1.team s.cur = some t)
    (he : exec i s = .next ((checked s1 c go).finish s.cur h.z)) :
    (∀ cs, c = .bad cs → exec i s = .next ((Act.freeze s1 cs 0 0).finish s.cur h.z) ∧
      (t.tryR = none → exec i s = .next (s1.freeze s.cur (t.record cs 0 0)))) ∧
    ∀ ix, c = .wait ix → Parks (exec i s) s1 s.cur t (.walk ix) := by
  constructor
  · rintro cs rfl
    have hfreeze : exec i s = .next ((Act.freeze s1 cs 0 0).finish s.cur h.z) := he
    refine ⟨hfreeze, fun hr => hfreeze.trans (congrArg _ ?_)⟩
    unfold Act.finish
    dsimp only
    rw [ht]
    dsimp only
    rw [hr]
    rfl
  · rintro ix rfl
    rw [he]
    exact park_parks_in ht hs (.walk ix) h.z

/-- LD checks its lanes. -/
theorem exec_ld_checked (hi : s.Issues t (.ld h f) h) {c : LanesChk}
    (hc : s.checkLanes s.cur t (t.act h) (addrGlobal f t) (2 ^ f.size.toNat) false false (splitOk f) true = (s1, c)) :
    ∃ go, exec (.ld h f) s = .next ((checked s1 c go).finish s.cur h.z) := by
  refine ⟨fun ls => loadGlobal s1 s.cur t ls f.ord.toNat f.scope.toNat fun X u bytes =>
      X.setTeam s.cur (u.writeLong (laneParts f.data.toNat (2 ^ f.size.toNat) f.sx ls bytes)), ?_⟩
  show execLd h f s = _
  unfold execLd
  rw [issue_next hi]
  dsimp only
  rw [show s.checkLanes s.cur t (t.act h) (eaGlobal t f) (sizeBytes f.size) false false (f.ord == 0 && f.size != 0) true = (s1, c) from hc]
  rfl

/-- ST checks its lanes. -/
theorem exec_st_checked (hi : s.Issues t (.st h f) h) {c : LanesChk}
    (hc : s.checkLanes s.cur t (t.act h) (addrGlobal f t) (2 ^ f.size.toNat) true false (splitOk f) true = (s1, c)) :
    ∃ go, exec (.st h f) s = .next ((checked s1 c go).finish s.cur h.z) := by
  refine ⟨fun ls => storeGlobal s1 s.cur t ls f.ord.toNat f.scope.toNat (dataBytes t (2 ^ f.size.toNat) f.data.toNat), ?_⟩
  show execSt h f s = _
  unfold execSt
  rw [issue_next hi]
  dsimp only
  rw [show s.checkLanes s.cur t (t.act h) (eaGlobal t f) (sizeBytes f.size) true false (f.ord == 0 && f.size != 0) true = (s1, c) from hc]
  rfl

/-- LDS and STS freeze with the causes of their lanes. -/
theorem exec_lds_failed (hi : s.Issues t (.lds h f) h) {cs : List (Nat × Option Cause × Word)}
    (hc : s.checkSpLanes t (t.act h) (addrScratch f t) (2 ^ f.size.toNat) false = .error cs) :
    exec (.lds h f) s = .next ((Act.freeze s cs 0 0).finish s.cur h.z) := by
  show execLds h f s = _
  unfold execLds
  rw [issue_next hi]
  dsimp only
  rw [show s.checkSpLanes t (t.act h) (fun L => (eaScratch t f L).toNat) (sizeBytes f.size) false = .error cs from hc]

theorem exec_sts_failed (hi : s.Issues t (.sts h f) h) {cs : List (Nat × Option Cause × Word)}
    (hc : s.checkSpLanes t (t.act h) (addrScratch f t) (2 ^ f.size.toNat) true = .error cs) :
    exec (.sts h f) s = .next ((Act.freeze s cs 0 0).finish s.cur h.z) := by
  show execSts h f s = _
  unfold execSts
  rw [issue_next hi]
  dsimp only
  rw [show s.checkSpLanes t (t.act h) (fun L => (eaScratch t f L).toNat) (sizeBytes f.size) true = .error cs from hc]

/-! ## STRONG pages (R234) -/

/-- A load of a STRONG page, behind its release. -/
theorem loadGlobal_strong {tk : Nat} {ls : List (Nat × Word × List Piece)} (hr : t.tryR = none) (hstrong : strongPage ls = true) (X : State) (ord scope : Nat)
    (go : State → Team → (Nat → List Src) → State) : loadGlobal X tk t ls ord scope go = releaseThen X tk t 5 fun X => loadAct tk ls ord scope true go X t := by
  rw [loadGlobal_eq, hstrong]
  unfold tryTouch
  rw [hr]
  rfl

/-- A store to a STRONG page, between the waits and the acquires of R234. -/
def strongStore (tk : Nat) (t : Team) (ls : List (Nat × Word × List Piece)) (scope : Nat) (data : Nat → List Byte) (X : State) : Act :=
  let n := X.strongAway (pkgOfTeam tk) (storeBytes ls data)
  if n != 0 && Config.coreRequests < X.heldRequests (coreOf tk) + n then .park X (.requests n)
  else
    let Y := X.performStores tk t (storeBytes ls data) (fun L _ => (ls.find? fun x => x.1 == L).elim 0 fun x => x.2.1) scope
    if Y.quiet tk t.serial then .retire (Y.acquire (coreOf tk) 5) else .hold Y 5

theorem storeGlobal_strong {tk : Nat} {ls : List (Nat × Word × List Piece)} (hr : t.tryR = none) (hstrong : strongPage ls = true) (X : State) (ord scope : Nat)
    (data : Nat → List Byte) : storeGlobal X tk t ls ord scope data =
      releaseThen X tk t 5 fun X => strongStore tk t ls scope data (X.acquire (coreOf tk) 5) := by
  unfold storeGlobal strongStore
  dsimp only
  rw [hr, hstrong]
  rfl

/-- Where nothing is missing nothing is requested. -/
theorem State.requestMissing_none (X : State) (tk : Nat) (u : Team) (kind : ReqKind) (gens : State → Want → List (List (BitVec 4))) {gs : List Got}
    (hm : missing gs = 0) : X.requestMissing tk u kind gens gs = (X, gs) := by
  have hall : ∀ g ∈ gs, ∃ bs, g.bytes = some bs := by
    intro g hg
    have hnot := List.filter_eq_nil_iff.mp (List.length_eq_zero_iff.mp hm) g hg
    exact Option.ne_none_iff_exists'.mp fun hn => hnot (by rw [hn]; rfl)
  have hfold (l : List Got) (hl : ∀ g ∈ l, ∃ bs, g.bytes = some bs) : ∀ acc : State × List Got, (l.foldl (fun (acc : State × List Got) g =>
      match g.bytes with
      | some _ => (acc.1, acc.2 ++ [g])
      | none =>
        (acc.1.addRequest (coreOf tk) g.want.key g.want.mask kind
          { tk := tk, serial := u.serial, addr := u.here, lanes := g.want.lanes, leaf := some g.want.leaf } (gens acc.1 g.want),
          acc.2 ++ [{ g with req := acc.1.fresh }])) acc) = (acc.1, acc.2 ++ l) := by
    induction l with
    | nil => exact fun acc => by simp
    | cons g l ih =>
      intro acc
      obtain ⟨bs, hbs⟩ := hl g List.mem_cons_self
      rw [List.foldl_cons, ih fun g' hg' => hl g' (List.mem_cons_of_mem _ hg'), hbs]
      simp
  exact (hfold gs hall (X, [])).trans (by simp)

/-- A load of a STRONG page whose bytes are all held. -/
theorem ld_strong (hi : s.Issues t (.ld h f) h) (hr : t.tryR = none) {ls : List (Nat × Word × List Piece)} (hstrong : strongPage ls = true) {s2 : State}
    (hrel : Released s1 s.cur t 5 s2) (hc : s.checkLanes s.cur t (t.act h) (addrGlobal f t) (2 ^ f.size.toNat) false false (splitOk f) true = (s1,
      .ok ls))
    {r3 : State × List Got} (h3 : r3 = (s2.acquire (coreOf s.cur) 5).readWants (coreOf s.cur) t.serial (wantsOf ls (if f.ord = 1 then f.scope.toNat else 0)))
    (hm : missing r3.2 = 0) (hroom : r3.1.heldRequests (coreOf s.cur) ≤ 4096) {ps : List Part}
    (hps : ps = ls.flatMap fun x => loadParts f.data.toNat (2 ^ f.size.toNat) f.sx x.1 ((pieceBytes x.2.2).map (gotByte r3.2 (x.1 / 32)))) :
    Ends (exec (.ld h f) s) ((r3.1.setTeam s.cur (t.writeLong ps)).acquire (coreOf s.cur) 5) s.cur (t.writeLong ps) [] := by
  have hord (a b : Nat) : (if f.ord.toNat = 1 then a else b) = if f.ord = 1 then a else b := by simp only [ordN_eq_one]
  have hparts : laneParts f.data.toNat (2 ^ f.size.toNat) f.sx ls (loadedBytes none ls r3.2) = ps := by
    rw [hps]
    exact List.flatMap_congr fun x hx => by rw [loadedBytes_none (State.checkLanes_nodup hc) r3.2 hx]
  rw [exec_ld_eq hi hc, loadGlobal_strong hr hstrong, releaseThen_released hrel,
    loadAct_room (r2 := r3) (r3 := r3) (by rw [hord]; exact h3) (State.requestMissing_none _ _ _ _ _ hm).symm (by omega), hr, hparts, hm]
  have hend : loadEnd s.cur f.ord.toNat f.scope.toNat true 0 (r3.1.setTeam s.cur (t.writeLong ps)) =
      .retire ((r3.1.setTeam s.cur (t.writeLong ps)).acquire (coreOf s.cur) 5) := by simp [loadEnd]
  rw [hend]
  exact acquire_endsAcq r3.1 (u := t.writeLong ps) hi.2.2.2.2 5 h.z

/-- What a store to a STRONG page does behind its release and its first acquire. -/
theorem strongStore_rule {ls : List (Nat × Word × List Piece)} {data : Nat → List Byte} {X Y : State} (hs : t.stepping = none) (hX : X.team s.cur = some t)
    {n : Nat} (hn : n = X.strongAway (pkgOf (coreOf s.cur)) (storeBytes ls data))
    (hY : Y = X.performStores s.cur t (storeBytes ls data) (fun L _ => (ls.find? fun x => x.1 == L).elim 0 fun x => x.2.1) f.scope.toNat) :
    let res : Res := .next ((strongStore s.cur t ls f.scope.toNat data X).finish s.cur h.z)
    (n ≠ 0 → 4096 < X.heldRequests (coreOf s.cur) + n → Parks res X s.cur t (.requests n)) ∧
    (n = 0 ∨ X.heldRequests (coreOf s.cur) + n ≤ 4096 →
      (Y.quiet s.cur t.serial = true → Ends res (Y.acquire (coreOf s.cur) 5) s.cur t []) ∧
      (Y.quiet s.cur t.serial = false → ∃ t', res = .next (Y.setTeam s.cur t') ∧ t.Kept t' ∧ t.Next t' ∧ t.Wrote t' [] ∧
        t'.run = .parked (.acquired 5 h.z))) := by
  intro res
  have hYt : Y.team s.cur = some t := hY ▸ State.team_performStores hX t _ _ _
  have hact : strongStore s.cur t ls f.scope.toNat data X = if n ≠ 0 ∧ 4096 < X.heldRequests (coreOf s.cur) + n then .park X (.requests n)
      else if Y.quiet s.cur t.serial = true then .retire (Y.acquire (coreOf s.cur) 5) else .hold Y 5 := by
    have hn' : n = X.strongAway (pkgOfTeam s.cur) (storeBytes ls data) := hn
    unfold strongStore
    rw [← hn', ← hY]
    simp only [bne_iff_ne, Bool.and_eq_true, decide_eq_true_eq]
    rfl
  refine ⟨fun hne hlt => ?_, fun hroom => ⟨fun hquiet => ?_, fun hbusy => ?_⟩⟩
  · show Parks (.next ((strongStore s.cur t ls f.scope.toNat data X).finish s.cur h.z)) X s.cur t (.requests n)
    rw [hact, if_pos ⟨hne, hlt⟩]
    exact park_parks_in hX hs _ h.z
  · show Ends (.next ((strongStore s.cur t ls f.scope.toNat data X).finish s.cur h.z)) _ s.cur t []
    rw [hact, if_neg (by omega), if_pos hquiet]
    exact retire_ends_in (((State.flows_acquire Y _ _).team s.cur).trans hYt) hs h.z
  · show ∃ t', Outcome.next ((strongStore s.cur t ls f.scope.toNat data X).finish s.cur h.z) = .next (Y.setTeam s.cur t') ∧ _
    rw [hact, if_neg (by omega), if_neg (by rw [hbusy]; decide)]
    obtain ⟨t', hfin, hmoved, hnext, hrun⟩ := Act.finish_hold 5 h.z hYt hs
    exact ⟨t', by rw [hfin], hmoved.1, hnext, (t.wrote_nil).moved hmoved, hrun⟩

end Failed

/-- Settles O16: lanes that fail their checks stop the word before it does anything; on a STRONG page a word goes on behind its release and an acquire. -/
theorem strongAndFailedAccesses : Obligations.StrongAndFailedAccesses := by
  unfold Obligations.StrongAndFailedAccesses
  refine ⟨?_, ?_⟩
  · intro h f s s1 t n out
    refine ⟨fun c hi hc => ?_, fun c hi hc => ?_, fun cs hi hc => exec_lds_failed hi hc, fun cs hi hc => exec_sts_failed hi hc⟩
    · obtain ⟨go, he⟩ := exec_ld_checked hi hc
      exact failed_rule hi.2.2.2.2 (team_of_checkLanes hi.1 hc) he
    · obtain ⟨go, he⟩ := exec_st_checked hi hc
      exact failed_rule hi.2.2.2.2 (team_of_checkLanes hi.1 hc) he
  · intro h f s s1 t ls core n s2 hr hstrong hquiet hw hposted
    have hrel : Released s1 s.cur t 5 s2 := ⟨hquiet, rfl, .inr ⟨rfl, hw, hposted⟩⟩
    constructor
    · intro hi hc r3 ps hm hroom
      exact ld_strong hi hr hstrong hrel hc rfl hm hroom rfl
    · intro hi hc s4 ws s3 away
      have ht4 : s4.team s.cur = some t :=
        ((State.flows_acquire s2 core 5).team s.cur).trans (((State.flows_release s1 core 5).team s.cur).trans (team_of_checkLanes hi.1 hc))
      rw [exec_st_eq hi hc, storeGlobal_strong hr hstrong, releaseThen_released hrel]
      exact strongStore_rule hi.2.2.2.2 ht4 rfl rfl

end Sys2Proof.Machine

/-! PROOFS. Scratchpad loads and stores, and the accesses of an open try region (R123, R127, R169, R217, R218, R226). -/

namespace Sys2Proof.Machine

open Host

/-! ## Parts whose bytes are known -/

/-- The bytes of a part that are all known. -/
theorem foldOpt_known (bs acc : List Byte) :
    foldOpt (fun (a : List Byte) b => match b with | .known x => some (a ++ [x]) | .await _ _ => none) acc (bs.map Src.known) = some (acc ++ bs) := by
  induction bs generalizing acc with
  | nil => simp [foldOpt]
  | cons b bs ih =>
    rw [List.map_cons, foldOpt]
    dsimp only
    rw [ih, List.append_assoc]
    rfl

/-- The value of a part that is all known. -/
theorem Part.val_known (r : RegId) (L : Nat) (bs : List Byte) (sx st : Bool) : Part.val ⟨r, L, bs.map .known, sx, st⟩ =
    some (if sx then BitVec.ofInt 64 (sext (natOfBytes bs) (8 * bs.length)) else BitVec.ofNat 64 (natOfBytes bs)) := by
  unfold Part.val
  exact (congrArg (Option.map _) (foldOpt_known bs [])).trans rfl

/-- The bytes of a scratchpad at a place. -/
def State.spBytes (s : State) (sh off n : Nat) : List Byte := (List.range n).map fun i => s.spByte sh (off + i)

theorem State.natOfBytes_spBytes (s : State) (sh off n : Nat) : natOfBytes (s.spBytes sh off n) = s.spNat sh off n := rfl

/-- Four bytes of a place, in its middle. -/
theorem State.spBytes_slice (s : State) (sh off : Nat) {n k m : Nat} (h : k + m ≤ n) : ((s.spBytes sh off n).drop k).take m = s.spBytes sh (off + k) m := by
  unfold State.spBytes
  apply List.ext_getElem
  · simp; omega
  · intro i h1 h2
    simp [Nat.add_assoc]

section Scratch

variable {h : Hdr} {f : MF} {s : State} {t : Team}

/-- The parts of a scratchpad load name the registers of its values. -/
theorem loadParts_spLoads (n L sh off : Nat) : ((loadParts f.data.toNat n f.sx L ((s.spBytes sh off n).map .known)).map fun q => (q.reg, q.lane,
  q.val)) =
    (spLoads s f n L sh off).map fun w => (w.1, w.2.1, some w.2.2) := by
  unfold loadParts spLoads
  by_cases hn : n ≤ 4
  · rw [if_pos hn, if_pos hn, List.map_singleton, List.map_singleton, Part.val_known, State.natOfBytes_spBytes]
    simp [State.spBytes]
  · rw [if_neg hn, if_neg hn, List.map_map, List.map_map]
    refine List.map_congr_left fun i hi => ?_
    have hi : i < n / 4 := List.mem_range.mp hi
    have hslice := s.spBytes_slice sh off (n := n) (k := 4 * i) (m := 4) (by omega)
    rw [Function.comp_apply, Function.comp_apply]
    dsimp only
    rw [← List.map_drop, ← List.map_take, hslice, Part.val_known, State.natOfBytes_spBytes]
    rfl

/-- A scratchpad load names each place once. -/
theorem spLoads_nodup (n : Nat) {lanes : List Nat} (hl : lanes.Nodup) (sh off : Nat → Nat) :
    ((lanes.flatMap fun L => spLoads s f n L (sh L) (off L)).map fun w => (w.1, w.2.1)).Nodup := by
  have hlane (L : Nat) : ∀ w ∈ spLoads s f n L (sh L) (off L), w.2.1 = L := by
    unfold spLoads
    split
    · intro w hw
      rw [List.mem_singleton.mp hw]
    · intro w hw
      obtain ⟨i, -, rfl⟩ := List.mem_map.mp hw
      rfl
  rw [List.map_flatMap, List.nodup_flatMap]
  refine ⟨fun L _ => ?_, hl.imp fun {a b} hab x hx hx' => ?_⟩
  · unfold spLoads
    split
    · exact List.nodup_singleton _
    · rw [List.map_map]
      refine List.nodup_range.map fun a b hab => ?_
      have hreg := RegId.v.inj (Prod.mk.inj hab).1
      omega
  · obtain ⟨w, hw, rfl⟩ := List.mem_map.mp hx
    obtain ⟨w', hw', he⟩ := List.mem_map.mp hx'
    exact hab ((hlane a w hw).symm.trans ((Prod.mk.inj he).2.symm.trans (hlane b w' hw')))

/-- The results of a scratchpad load. -/
theorem wroteLong_spLoads (u : Team) (n : Nat) {lanes : List Nat} (hl : lanes.Nodup) (sh off : Nat → Nat) :
    u.WroteLong (u.writeLong (lanes.flatMap fun L => loadParts f.data.toNat n f.sx L ((s.spBytes (sh L) (off L) n).map .known)))
      (lanes.flatMap fun L => spLoads s f n L (sh L) (off L)) := by
  refine Team.wroteLong_writeLong u _ _ (fun q hq => ?_) ?_ (spLoads_nodup n hl sh off)
  · obtain ⟨L, -, hq⟩ := List.mem_flatMap.mp hq
    exact stale_loadParts _ _ _ _ _ q hq
  · rw [List.map_flatMap, List.map_flatMap]
    exact List.flatMap_congr fun L _ => loadParts_spLoads n L (sh L) (off L)

/-! ## Checked places -/

/-- Lanes that pass the checks of a scratchpad access. -/
theorem State.checkSpLanes_ok (s : State) (t : Team) (ea : Nat → Nat) (n : Nat) (write : Bool) (sh off : Nat → Nat) : ∀ (lanes : List Nat),
    (∀ L ∈ lanes, s.checkSp t (ea L) n write = .ok (sh L, off L)) → s.checkSpLanes t lanes ea n write = .ok (lanes.map fun L => (L, sh L,
      off L)) := by
  intro lanes hok
  have hmap : (lanes.map fun L => (L, s.checkSp t (ea L) n write)) = lanes.map fun L => (L, .ok (sh L, off L)) :=
    List.map_congr_left fun L hL => by rw [hok L hL]
  unfold State.checkSpLanes
  dsimp only
  rw [hmap, if_pos (by simp)]
  rw [List.filterMap_map]
  exact congrArg _ (List.filterMap_eq_map ▸ rfl)

/-! ## The open region's record -/

/-- A footprint leaves the buffer. -/
theorem TryRegion.touch_buf (r : TryRegion) (L : Nat) (ls : List Loc) : (r.touch L ls).buf = r.buf := rfl

theorem TryRegion.byte_foldl_touch {α : Type} (l : List α) (lane : α → Nat) (locs : α → List Loc) (r : TryRegion) (p : Loc) :
    (l.foldl (fun q x => q.touch (lane x) (locs x)) r).byte p = r.byte p := by
  induction l generalizing r with
  | nil => rfl
  | cons x l ih => exact (ih _).trans rfl

theorem TryRegion.buf_foldl_touch {α : Type} (l : List α) (lane : α → Nat) (locs : α → List Loc) (r : TryRegion) :
    (l.foldl (fun q x => q.touch (lane x) (locs x)) r).buf = r.buf := by
  induction l generalizing r with
  | nil => rfl
  | cons x l ih => exact (ih _).trans rfl

/-! ## LDS -/

/-- LDS goes on with its checked lanes. -/
theorem exec_lds_eq (hi : s.Issues t (.lds h f) h) {ls : List (Nat × Nat × Nat)}
    (hc : s.checkSpLanes t (t.act h) (addrScratch f t) (2 ^ f.size.toNat) false = .ok ls) :
    exec (.lds h f) s = .next ((tryTouch s s.cur t (ls.map fun x => (x.1, spLocs x.2.1 x.2.2 (2 ^ f.size.toNat))) fun X u =>
      .retire ((X.setTeam s.cur ((u.writeLong (ls.flatMap fun x => loadParts f.data.toNat (2 ^ f.size.toNat) f.sx x.1
        ((List.range (2 ^ f.size.toNat)).map fun i =>
          .known ((u.tryR.bind (·.byte (.sp x.2.1 (x.2.2 + i)))).getD (X.spByte x.2.1 (x.2.2 + i)))))).addPasses
        (extraPasses ls (2 ^ f.size.toNat) true))).acquireIf (coreOf s.cur) (min f.scope.toNat 2) (f.ord == 1))).finish s.cur h.z) := by
  show execLds h f s = _
  unfold execLds
  rw [issue_next hi]
  dsimp only
  rw [show s.checkSpLanes t (t.act h) (fun L => (eaScratch t f L).toNat) (sizeBytes f.size) false = .ok ls from hc]
  rfl

/-- A word that has its results retires, behind an acquire where it asks for one. -/
theorem retire_acquireIf_parts (X : State) {tk : Nat} {u : Team} {ps : List Part} (hs : u.stepping = none) (hstale : ∀ q ∈ ps,
  q.stale = false) (ord : BitVec 2)
    (sc : Nat) (z : Bool) :
    (ord ≠ 1 → EndsParts (.next ((Act.retire ((X.setTeam tk (u.writeLong ps)).acquireIf (coreOf tk) sc (ord == 1))).finish tk z)) X tk u ps) ∧
    (ord = 1 → ∃ t1, u.Kept t1 ∧ u.Awaits t1 ps ∧ t1.pc = u.pc ∧ t1.word = u.word ∧
      Ends (.next ((Act.retire ((X.setTeam tk (u.writeLong ps)).acquireIf (coreOf tk) sc (ord == 1))).finish tk z))
        ((X.setTeam tk t1).acquire (coreOf tk) sc) tk t1 []) := by
  have hkept : u.Kept (u.writeLong ps) := u.kept_writeLong ps
  constructor
  · intro ho
    rw [show (ord == 1) = false from beq_eq_false_iff_ne.mpr ho]
    exact endsParts_retire (State.team_setTeam _ _ _) hs (fun x => State.setTeam_setTeam _ _ _ _) hkept ⟨rfl, rfl⟩ (u.awaits_writeLong hstale)
  · intro ho
    rw [show (ord == 1) = true from beq_iff_eq.mpr ho]
    exact ⟨u.writeLong ps, hkept, u.awaits_writeLong hstale, rfl, rfl, acquire_endsAcq X (u := u.writeLong ps) hs sc z⟩

/-- LDS outside a region. -/
theorem lds_plain (hi : s.Issues t (.lds h f) h) (hr : t.tryR = none) (sh off : Nat → Nat)
    (hok : ∀ L ∈ t.act h, s.checkSp t (addrScratch f t L) (2 ^ f.size.toNat) false = .ok (sh L, off L)) :
    let ls := (t.act h).map fun L => (L, sh L, off L)
    let ws := (t.act h).flatMap fun L => spLoads s f (2 ^ f.size.toNat) L (sh L) (off L)
    let u := { t with spextra := t.spextra + BitVec.ofNat 32 (extraPasses ls (2 ^ f.size.toNat) true) }
    (f.ord ≠ 1 → EndsLong (exec (.lds h f) s) s s.cur u ws) ∧
    (f.ord = 1 → ∃ t1, u.WroteLong t1 ws ∧ u.Kept t1 ∧ t1.pc = t.pc ∧ t1.word = t.word ∧
      Ends (exec (.lds h f) s) ((s.setTeam s.cur t1).acquire (coreOf s.cur) (min f.scope.toNat 2)) s.cur t1 []) := by
  intro ls ws u
  have hs : u.stepping = none := hi.2.2.2.2
  obtain ⟨ps, hps⟩ : ∃ ps,
    ps = (t.act h).flatMap fun L => loadParts f.data.toNat (2 ^ f.size.toNat) f.sx L ((s.spBytes (sh L) (off L) (2 ^ f.size.toNat)).map .known) :=
    ⟨_, rfl⟩
  have hw : u.WroteLong (u.writeLong ps) ws := hps ▸ wroteLong_spLoads u _ (t.nodup_act h) sh off
  have hkept : u.Kept (u.writeLong ps) := u.kept_writeLong ps
  have he : exec (.lds h f) s = .next ((Act.retire ((s.setTeam s.cur (u.writeLong ps)).acquireIf (coreOf s.cur) (min f.scope.toNat 2) (f.ord == 1))).finish s.cur h.z) := by
    rw [exec_lds_eq hi (s.checkSpLanes_ok t _ _ _ sh off _ hok), hps]
    unfold tryTouch
    rw [hr]
    dsimp only
    rw [List.flatMap_map]
    simp only [State.spBytes, List.map_map, hr]
    rfl
  rw [he]
  constructor
  · intro ho
    rw [show (f.ord == 1) = false from beq_eq_false_iff_ne.mpr ho]
    exact endsLong_retire (State.team_setTeam _ _ _) hs (fun x => State.setTeam_setTeam _ _ _ _) hkept ⟨rfl, rfl⟩ hw
  · intro ho
    rw [show (f.ord == 1) = true from beq_iff_eq.mpr ho]
    exact ⟨u.writeLong ps, hw, hkept, rfl, rfl, acquire_endsAcq s (u := u.writeLong ps) hs _ h.z⟩

/-- LDS in an open region that its footprint fits. -/
theorem lds_region (hi : s.Issues t (.lds h f) h) {r : TryRegion} (hr : t.tryR = some r) (sh off : Nat → Nat)
    (hok : ∀ L ∈ t.act h, s.checkSp t (addrScratch f t L) (2 ^ f.size.toNat) false = .ok (sh L, off L)) :
    let n := 2 ^ f.size.toNat
    let ls := (t.act h).map fun L => (L, sh L, off L)
    let q := ls.foldl (fun q x => q.touch x.1 (spLocs x.2.1 x.2.2 n)) r
    let u := { t with tryR := some q, spextra := t.spextra + BitVec.ofNat 32 (extraPasses ls n true) }
    let ps := ls.flatMap fun x => loadParts f.data.toNat n f.sx x.1 ((List.range n).map fun i =>
      .known ((r.byte (.sp x.2.1 (x.2.2 + i))).getD (s.spByte x.2.1 (x.2.2 + i))))
    s.tryOverflow s.cur q = false →
    (f.ord ≠ 1 → EndsParts (exec (.lds h f) s) s s.cur u ps) ∧
    (f.ord = 1 → ∃ t1, u.Kept t1 ∧ u.Awaits t1 ps ∧ t1.pc = t.pc ∧ t1.word = t.word ∧
      Ends (exec (.lds h f) s) ((s.setTeam s.cur t1).acquire (coreOf s.cur) (min f.scope.toNat 2)) s.cur t1 []) := by
  intro n ls q u ps hfit
  have hq : (ls.map fun x => (x.1, spLocs x.2.1 x.2.2 n)).foldl (fun r x => r.touch x.1 x.2) r = q := by rw [List.foldl_map]
  have hbyte (p : Loc) : q.byte p = r.byte p := TryRegion.byte_foldl_touch ls (·.1) (fun x => spLocs x.2.1 x.2.2 n) r p
  have he : exec (.lds h f) s = .next ((Act.retire (((s.setTeam s.cur { t with tryR := some q }).setTeam s.cur (u.writeLong ps)).acquireIf (coreOf s.cur)
      (min f.scope.toNat 2) (f.ord == 1))).finish s.cur h.z) := by
    have hparts : (ls.flatMap fun x => loadParts f.data.toNat n f.sx x.1 ((List.range n).map fun i =>
        .known (((some q).bind (·.byte (.sp x.2.1 (x.2.2 + i)))).getD ((s.setTeam s.cur { t with tryR := some q }).spByte x.2.1 (x.2.2 + i))))) = ps := by
      simp only [Option.bind_some, hbyte]
      rfl
    rw [exec_lds_eq hi (s.checkSpLanes_ok t _ _ _ sh off _ hok)]
    unfold tryTouch
    rw [hr]
    dsimp only
    rw [hq, if_neg (by rw [hfit]; decide), hparts]
    rfl
  rw [he, State.setTeam_setTeam]
  refine retire_acquireIf_parts s (u := u) hi.2.2.2.2 (fun p hp => ?_) f.ord _ h.z
  obtain ⟨x, -, hp⟩ := List.mem_flatMap.mp hp
  exact stale_loadParts _ _ _ _ _ p hp

end Scratch

/-! ## STS -/

/-- A write of scratchpad bytes stores those bytes. -/
theorem State.setSpBytes_frame (s : State) (q o : Nat) (bs : List Byte) : s.setSpBytes q o bs = { s with shares := (s.setSpBytes q o bs).shares } ∧
    ∀ sh, ((s.setSpBytes q o bs).share sh).map (fun x => { x with sp := [] }) = (s.share sh).map fun x => { x with sp := [] } := by
  unfold State.setSpBytes
  cases hq : s.share q with
  | none => rw [State.updShare, hq]; exact ⟨rfl, fun _ => rfl⟩
  | some x =>
    rw [State.updShare_some hq]
    refine ⟨rfl, fun sh => ?_⟩
    by_cases he : sh = q
    · rw [he, State.share_setShare, hq]
      rfl
    · rw [State.share_setShare_other _ _ he]

/-- A scratchpad behind a write, whether or not the share written is there. -/
theorem State.spByte_setSpBytes_at (s : State) (q o : Nat) (bs : List Byte) {sh : Nat} (off : Nat) (hsh : (s.share sh).isSome) :
    (s.setSpBytes q o bs).spByte sh off = if sh = q ∧ o ≤ off ∧ off < o + bs.length then bs.getD (off - o) 0 else s.spByte sh off := by
  cases hq : s.share q with
  | none =>
    have hne : sh ≠ q := fun he => by rw [he, hq] at hsh; exact nomatch hsh
    rw [State.setSpBytes, State.updShare, hq, if_neg fun hc => hne hc.1]
  | some x => exact spByte_setSpBytes s q o bs sh off (by rw [hq]; rfl)

/-- Writes of lanes one after another leave the last lane's bytes at each place. -/
theorem storesSp_foldl (data : Nat → List Byte) : ∀ (ls : List (Nat × Nat × Nat)) (s : State),
    StoresSp s (ls.foldl (fun s x => s.setSpBytes x.2.1 x.2.2 (data x.1)) s) (lastSp ls data)
  | [], s => ⟨rfl, fun _ => rfl, fun _ _ _ => rfl⟩
  | x :: ls, s => by
    obtain ⟨hframe, hshare⟩ := s.setSpBytes_frame x.2.1 x.2.2 (data x.1)
    obtain ⟨hframe', hshare', hbyte⟩ := storesSp_foldl data ls (s.setSpBytes x.2.1 x.2.2 (data x.1))
    rw [List.foldl_cons]
    refine ⟨hframe'.trans (by rw [hframe]), fun sh => (hshare' sh).trans (hshare sh), fun sh off hsh => ?_⟩
    have hsh' : ((s.setSpBytes x.2.1 x.2.2 (data x.1)).share sh).isSome := by
      have hmap := congrArg Option.isSome (hshare sh)
      rw [Option.isSome_map, Option.isSome_map] at hmap
      exact hmap.trans hsh
    rw [hbyte sh off hsh', s.spByte_setSpBytes_at _ _ _ off hsh]
    unfold lastSp
    rw [List.reverse_cons, List.find?_append]
    cases ls.reverse.find? fun x => x.2.1 == sh && decide (x.2.2 ≤ off) && decide (off < x.2.2 + (data x.1).length) with
    | some y => rfl
    | none =>
      have hiff : (x.2.1 == sh && decide (x.2.2 ≤ off) && decide (off < x.2.2 + (data x.1).length)) = true ↔
          sh = x.2.1 ∧ x.2.2 ≤ off ∧ off < x.2.2 + (data x.1).length := by
        rw [Bool.and_eq_true, Bool.and_eq_true, beq_iff_eq, decide_eq_true_eq, decide_eq_true_eq, and_assoc, @eq_comm _ sh]
      by_cases hin : sh = x.2.1 ∧ x.2.2 ≤ off ∧ off < x.2.2 + (data x.1).length
      · rw [if_pos hin, List.find?_cons_of_pos (by exact hiff.mpr hin)]
        rfl
      · rw [if_neg hin, List.find?_cons_of_neg (by exact mt hiff.mp hin)]
        rfl

theorem StoresSp.team {s s' : State} {w : Nat → Nat → Option Byte} (h : StoresSp s s' w) (tk : Nat) : s'.team tk = s.team tk := by
  rw [h.1]
  rfl

/-- A store of a lane's scratchpad bytes in an open region, byte by byte. -/
def spStores (ls : List (Nat × Nat × Nat)) (data : Nat → List Byte) : List (Nat × Loc × Byte) :=
  ls.flatMap fun x => (data x.1).zipIdx.map fun b => (x.1, .sp x.2.1 (x.2.2 + b.2), b.1)

/-- What STS does with its checked lanes outside a region, behind its release. -/
def stsAct (tk passes : Nat) (ls : List (Nat × Nat × Nat)) (n : Nat) (data : Nat → List Byte) (s : State) : Act :=
  .retire (((ls.foldl (fun s x => s.setSpBytes x.2.1 x.2.2 (data x.1)) s).noteWrite (some tk)
    (ls.flatMap fun x => spLocs x.2.1 x.2.2 n)).updTeam tk (·.addPasses passes))

section Sts

variable {h : Hdr} {f : MF} {s : State} {t : Team}

/-- STS goes on with its checked lanes. -/
theorem exec_sts_eq (hi : s.Issues t (.sts h f) h) {ls : List (Nat × Nat × Nat)} (hc : s.checkSpLanes t (t.act h) (addrScratch f t) (2 ^ f.size.toNat) true = .ok ls) :
    exec (.sts h f) s = .next ((
      if t.tryR.isSome then
        match tryStore s s.cur t (spStores ls (storedData t (2 ^ f.size.toNat) f.data.toNat)) (fun L => BitVec.ofNat 64 (addrScratch f t L)) with
        | .retire X => .retire (X.updTeam s.cur (·.addPasses (extraPasses ls (2 ^ f.size.toNat) true)))
        | a => a
      else if f.ord = 2 then releaseThen s s.cur t (min f.scope.toNat 2)
        (stsAct s.cur (extraPasses ls (2 ^ f.size.toNat) true) ls (2 ^ f.size.toNat) (storedData t (2 ^ f.size.toNat) f.data.toNat))
      else stsAct s.cur (extraPasses ls (2 ^ f.size.toNat) true) ls (2 ^ f.size.toNat) (storedData t (2 ^ f.size.toNat) f.data.toNat) s).finish s.cur h.z) := by
  have hsize : f.size.toNat ≤ 4 := size_le_four (by decide) (fieldOk_of_precheck hi.2.1 : f.ok [0, 1, 2, 3, 4] [0, 2] false false 0 = true)
  have hdata : dataBytes t (sizeBytes f.size) f.data.toNat = storedData t (2 ^ f.size.toNat) f.data.toNat := funext fun L => dataBytes_eq t hsize _ L
  have hea : (fun L => (eaScratch t f L).setWidth 64) = fun L => BitVec.ofNat 64 (addrScratch f t L) := funext fun L => BitVec.ofNat_toNat _ _ |>.symm
  show execSts h f s = _
  unfold execSts
  rw [issue_next hi]
  dsimp only
  rw [show s.checkSpLanes t (t.act h) (fun L => (eaScratch t f L).toNat) (sizeBytes f.size) true = .ok ls from hc]
  dsimp only
  rw [hdata, hea]
  rfl

/-- STS outside a region. -/
theorem sts_plain (hi : s.Issues t (.sts h f) h) (hr : t.tryR = none) (sh off : Nat → Nat)
    (hok : ∀ L ∈ t.act h, s.checkSp t (addrScratch f t L) (2 ^ f.size.toNat) true = .ok (sh L, off L)) :
    let n := 2 ^ f.size.toNat
    let ls := (t.act h).map fun L => (L, sh L, off L)
    let u := { t with spextra := t.spextra + BitVec.ofNat 32 (extraPasses ls n true) }
    let places := ls.flatMap fun x => spLocs x.2.1 x.2.2 n
    (f.ord ≠ 2 → ∃ s2, StoresSp s s2 (lastSp ls (storedData t n f.data.toNat)) ∧
      Ends (exec (.sts h f) s) (s2.noteWrite (some s.cur) places) s.cur u []) ∧
    (f.ord = 2 → s.quiet s.cur t.serial = true → ∃ s2,
      StoresSp (s.release (coreOf s.cur) (min f.scope.toNat 2)) s2 (lastSp ls (storedData t n f.data.toNat)) ∧
      Ends (exec (.sts h f) s) (s2.noteWrite (some s.cur) places) s.cur u []) := by
  intro n ls u places
  have hgo (X : State) (hX : X.team s.cur = some t) : ∃ s2, StoresSp X s2 (lastSp ls (storedData t n f.data.toNat)) ∧
      Ends (.next ((stsAct s.cur (extraPasses ls n true) ls n (storedData t n f.data.toNat) X).finish s.cur h.z)) (s2.noteWrite (some s.cur) places) s.cur u [] := by
    have hst := storesSp_foldl (storedData t n f.data.toNat) ls X
    obtain ⟨s2, hs2⟩ : ∃ s2, s2 = ls.foldl (fun s x => s.setSpBytes x.2.1 x.2.2 (storedData t n f.data.toNat x.1)) X := ⟨_, rfl⟩
    rw [← hs2] at hst
    have hteam : (s2.noteWrite (some s.cur) places).team s.cur = some t := by
      rw [State.team_noteWrite, hst.team, hX]
      exact congrArg some (if_pos rfl)
    have hact : stsAct s.cur (extraPasses ls n true) ls n (storedData t n f.data.toNat) X = .retire ((s2.noteWrite (some s.cur) places).setTeam s.cur u) := by
      unfold stsAct
      rw [← hs2, State.updTeam_some hteam]
      rfl
    exact ⟨s2, hst, hact ▸ setTeam_retire_ends _ (u := u) hi.2.2.2.2 h.z⟩
  rw [exec_sts_eq hi (s.checkSpLanes_ok t _ _ _ sh off _ hok), hr, if_neg (by simp)]
  constructor
  · intro ho
    rw [if_neg ho]
    exact hgo s hi.1
  · intro ho hquiet
    rw [if_pos ho, releaseThen_released ⟨hquiet, rfl, .inl (by omega)⟩]
    exact hgo _ (((State.flows_release s _ _).team s.cur).trans hi.1)

/-! ## Stores of an open region (R169, R289) -/

/-- A region with stores added to its footprint and its buffer. -/
def TryRegion.added (r : TryRegion) (ws : List (Nat × Loc × Byte)) (ea : Nat → Word) : TryRegion :=
  { ws.foldl (fun q w => q.touch w.1 [w.2.1]) r with buf := r.buf ++ ws.map fun w => ⟨w.1, w.2.1, w.2.2, ea w.1⟩ }

/-- A store inside an open region that it fits. -/
theorem tryStore_some {r : TryRegion} (hr : t.tryR = some r) (X : State) (tk : Nat) (ws : List (Nat × Loc × Byte)) (ea : Nat → Word)
    (hfit : X.tryOverflow tk (r.added ws ea) = false) : tryStore X tk t ws ea = .retire (X.setTeam tk { t with tryR := some (r.added ws ea) }) := by
  have hbuf : (ws.foldl (fun r w => r.touch w.1 [w.2.1]) r).buf = r.buf := TryRegion.buf_foldl_touch ws (·.1) (fun w => [w.2.1]) r
  unfold tryStore
  rw [hr]
  dsimp only
  rw [hbuf]
  exact if_neg (by rw [← TryRegion.added, hfit]; decide)

/-- STS in an open region. -/
theorem sts_region (hi : s.Issues t (.sts h f) h) {r : TryRegion} (hr : t.tryR = some r) (sh off : Nat → Nat)
    (hok : ∀ L ∈ t.act h, s.checkSp t (addrScratch f t L) (2 ^ f.size.toNat) true = .ok (sh L, off L)) :
    let n := 2 ^ f.size.toNat
    let ls := (t.act h).map fun L => (L, sh L, off L)
    let q := r.added (spStores ls (storedData t n f.data.toNat)) fun L => BitVec.ofNat 64 (addrScratch f t L)
    s.tryOverflow s.cur q = false →
    Ends (exec (.sts h f) s) s s.cur { t with tryR := some q, spextra := t.spextra + BitVec.ofNat 32 (extraPasses ls n true) } [] := by
  intro n ls q hfit
  rw [exec_sts_eq hi (s.checkSpLanes_ok t _ _ _ sh off _ hok), if_pos (by rw [hr]; rfl), tryStore_some hr s s.cur _ _ hfit]
  dsimp only
  rw [State.updTeam_some (State.team_setTeam _ _ _), State.setTeam_setTeam]
  exact setTeam_retire_ends s (u := { t with tryR := some q, spextra := t.spextra + BitVec.ofNat 32 (extraPasses ls n true) }) hi.2.2.2.2 h.z

/-- A store of global memory in an open region. -/
theorem storeGlobal_region {i : Instr} {s1 : State} {ls : List (Nat × Word × List Piece)} {data : Nat → List Byte} {r : TryRegion} (hs : t.stepping = none)
    (hr : t.tryR = some r) (he : exec i s = .next ((storeGlobal s1 s.cur t ls f.ord.toNat f.scope.toNat data).finish s.cur h.z)) :
    let q := r.added ((storeBytes ls data).map fun w => (w.1, Loc.glob w.2.1, w.2.2.2)) fun L => (ls.find? fun x => x.1 == L).elim 0 fun x => x.2.1
    strongPage ls = false → (t.version = 3 → ∀ x ∈ ls, ∀ p ∈ x.2.2, s1.remoteMapped (pkgOfTeam s.cur) p.leaf = false) →
    s1.tryOverflow s.cur q = false → Ends (exec i s) s1 s.cur { t with tryR := some q } [] := by
  intro q hstrong hremote hfit
  have hno : ¬(decide (t.version = 3) && ls.any fun x => x.2.2.any fun p => s1.remoteMapped (pkgOfTeam s.cur) p.leaf) = true := by
    intro hc
    simp only [Bool.and_eq_true, decide_eq_true_eq, List.any_eq_true] at hc
    obtain ⟨hv, x, hx, p, hp, hrem⟩ := hc
    rw [hremote hv x hx p hp] at hrem
    exact nomatch hrem
  have hact : storeGlobal s1 s.cur t ls f.ord.toNat f.scope.toNat data = .retire (s1.setTeam s.cur { t with tryR := some q }) := by
    unfold storeGlobal
    dsimp only
    rw [if_pos (by rw [hr]; rfl), hstrong, if_neg (by decide), if_neg hno]
    exact tryStore_some hr s1 s.cur _ _ hfit
  rw [he, hact]
  exact setTeam_retire_ends s1 (u := { t with tryR := some q }) hs h.z

/-- A load of global memory in an open region: its own stores first (R169, R226). -/
theorem loadGlobal_region {i : Instr} {s1 : State} {ls : List (Nat × Word × List Piece)} {r : TryRegion} {parts : (Nat → List Src) → List Part}
    {out : (Nat → Nat → Src) → List Part} (hs : t.stepping = none) (hr : t.tryR = some r) (hnd : (ls.map (·.1)).Nodup)
    (he : exec i s = .next ((loadGlobal s1 s.cur t ls f.ord.toNat f.scope.toNat fun X u bytes => X.setTeam s.cur (u.writeLong (parts bytes))).finish s.cur h.z))
    (hp : ∀ (g : Nat → Nat → Src) bytes, (∀ x ∈ ls, bytes x.1 = (pieceBytes x.2.2).map (g x.1)) → parts bytes = out g)
    (hstale : ∀ bytes, ∀ q ∈ parts bytes, q.stale = false) :
    let core := coreOf s.cur
    let q := ls.foldl (fun q x => q.touch x.1 ((pieceBytes x.2.2).map Loc.glob)) r
    let u := { t with tryR := some q }
    strongPage ls = false → s1.tryOverflow s.cur q = false →
    let r2 := (s1.setTeam s.cur u).readWants core t.serial (wantsOf ls (if f.ord = 1 then f.scope.toNat else 0))
    r2.1.heldRequests core + missing r2.2 ≤ 4096 →
    let r3 := r2.1.requestMissing s.cur u .load (fun s w => s.pathGens core w.scope) r2.2
    let ps := out fun L a => match r.byte (.glob a) with | some b => .known b | none => gotByte r3.2 (L / 32) a
    (f.ord ≠ 1 → EndsParts (exec i s) r3.1 s.cur u ps) ∧
    (f.ord = 1 → missing r2.2 = 0 → ∃ t1, u.Kept t1 ∧ u.Awaits t1 ps ∧ t1.pc = t.pc ∧ t1.word = t.word ∧
      Ends (exec i s) ((r3.1.setTeam s.cur t1).acquire core f.scope.toNat) s.cur t1 []) ∧
    (f.ord = 1 → missing r2.2 ≠ 0 → ∃ t', exec i s = .next (r3.1.setTeam s.cur t') ∧ u.Kept t' ∧ u.Next t' ∧ u.Awaits t' ps ∧
      t'.run = .parked (.acquired f.scope.toNat h.z)) := by
  intro core q u hstrong hfit r2 hroom r3 ps
  have hord (a b : Nat) : (if f.ord.toNat = 1 then a else b) = if f.ord = 1 then a else b := by simp only [ordN_eq_one]
  have hq : (ls.map fun x => (x.1, locsOf x.2.2)).foldl (fun r x => r.touch x.1 x.2) r = q := by
    rw [List.foldl_map]
    simp only [locsOf_eq]
    rfl
  have hparts : parts (loadedBytes (some q) ls r3.2) = ps := by
    refine hp _ _ fun x hx => (loadedBytes_some hnd q r3.2 hx).trans (List.map_congr_left fun a _ => ?_)
    rw [show q.byte (.glob a) = r.byte (.glob a) from TryRegion.byte_foldl_touch ls (·.1) (fun x => (pieceBytes x.2.2).map Loc.glob) r _] <;> rfl
  have htouch : loadGlobal s1 s.cur t ls f.ord.toNat f.scope.toNat (fun X u bytes => X.setTeam s.cur (u.writeLong (parts bytes))) =
      loadAct s.cur ls f.ord.toNat f.scope.toNat false (fun X u bytes => X.setTeam s.cur (u.writeLong (parts bytes))) (s1.setTeam s.cur u) u := by
    rw [loadGlobal_eq, hstrong]
    simp only [Bool.and_false, Bool.false_eq_true, if_false]
    unfold tryTouch
    rw [hr]
    dsimp only
    rw [hq, if_neg (by rw [hfit]; decide)]
  obtain ⟨hplain, hacq,
    hhold⟩ := loadEnd_outcome r3.1 (t := u) (ps := ps) hs (fun p hp' => hstale (loadedBytes (some q) ls r3.2) p (hparts.symm ▸ hp'))
    f.ord.toNat f.scope.toNat (missing r2.2) h.z (tk := s.cur)
  rw [he, htouch, loadAct_room (r2 := r2) (r3 := r3) (by rw [hord]; rfl) rfl hroom, show u.tryR = some q from rfl, hparts]
  refine ⟨fun ho => hplain (mt (ordN_eq_one _).mp ho), fun ho hm => ⟨u.writeLong ps, u.kept_writeLong ps, ?_, rfl, rfl,
    hacq ((ordN_eq_one _).mpr ho) hm⟩,
    fun ho => hhold ((ordN_eq_one _).mpr ho)⟩
  exact u.awaits_writeLong fun p hp' => hstale (loadedBytes (some q) ls r3.2) p (hparts.symm ▸ hp')

end Sts

/-- Settles O17: outside a region a word reads or writes the places of its checked lanes at once; inside one its loads read the buffer first, and
its stores go into the buffer. -/
theorem scratchpadAndRegionAccesses : Obligations.ScratchpadAndRegionAccesses := by
  unfold Obligations.ScratchpadAndRegionAccesses
  refine ⟨?_, ?_⟩
  · intro h f s t sh off n sc ls u hr
    exact ⟨fun hi hok => lds_plain hi hr sh off hok, fun hi hok => sts_plain hi hr sh off hok⟩
  · intro h f s s1 t r n touched added core sc loads stores hr
    refine ⟨fun sh off hi hok => lds_region hi hr sh off hok, fun sh off hi hok => sts_region hi hr sh off hok, ?_, ?_, ?_, ?_⟩
    · intro ls hi hc
      refine loadGlobal_region (parts := laneParts f.data.toNat n f.sx ls)
        (out := fun b => ls.flatMap fun x => loadParts f.data.toNat n f.sx x.1 ((pieceBytes x.2.2).map (b x.1)))
        hi.2.2.2.2 hr (State.checkLanes_nodup hc) (exec_ld_eq hi hc) (fun g bytes hb => ?_) (stale_laneParts _ _ _ _)
      exact List.flatMap_congr fun x hx => by rw [hb x hx]
    · intro ps hi hc L
      refine loadGlobal_region (parts := fun bytes => [⟨.s (f.data.toNat % 64), 0, bytes L, f.sx, false⟩])
        (out := fun b => [⟨.s (f.data.toNat % 64), 0, (pieceBytes ps).map (b L), f.sx, false⟩])
        hi.1.2.2.2.2 hr (List.nodup_singleton _) (exec_ldu_eq hi hc) (fun g bytes hb => ?_) fun bytes q hq => by rw [List.mem_singleton.mp hq]
      rw [show bytes L = (pieceBytes ps).map (g L) from hb (L, addrUniform f t, ps) List.mem_cons_self]
    · intro ls hi hc
      exact storeGlobal_region hi.2.2.2.2 hr (exec_st_eq hi hc)
    · intro ps hi hc
      exact storeGlobal_region hi.1.2.2.2.2 hr (exec_stu_eq hi hc)

end Sys2Proof.Machine

/-! PROOFS. Prefetches, residency requests, cache control and fences (R130 to R133). -/

namespace Sys2Proof.Machine

open Host

/-! ## Steps that leave every cache -/

/-- Every cache stands as it did. -/
def State.SameCaches (s s' : State) : Prop := ∀ lvl, s'.cache lvl = s.cache lvl

theorem State.SameCaches.trans {a b c : State} (hb : a.SameCaches b) (hc : b.SameCaches c) : a.SameCaches c := fun lvl => (hc lvl).trans (hb lvl)

theorem State.sameCaches_of {s s' : State} (hc : ∀ c, (s'.core c).l1 = (s.core c).l1) (hd : s'.dies = s.dies) (hp : ∀ p,
  (s'.pkg p).l3 = (s.pkg p).l3) :
    s.SameCaches s'
  | .l1 c => hc c
  | .l2 d => by show s'.die d = s.die d; unfold State.die; rw [hd]
  | .l3 p => hp p

theorem State.Looks.sameCaches {p : Nat} {s s' : State} (h : s.Looks p s') : s.SameCaches s' :=
  State.sameCaches_of (fun c => by rw [h.core c]) h.dies fun q => by rw [h.pkg q]; rfl

theorem State.sameCaches_updPkg (s : State) (p : Nat) {f : Pkg → Pkg} (h : (f (s.pkg p)).l3 = (s.pkg p).l3) : s.SameCaches (s.updPkg p f) :=
  State.sameCaches_of (fun _ => rfl) rfl fun q => by
    by_cases hq : q = p
    · rw [hq, State.pkg_updPkg, h]
    · rw [State.pkg_updPkg_other _ _ hq]

theorem State.sameCaches_noteFill (s : State) (lvl : Level) (key : Nat) (mask : BitVec 32) : s.SameCaches (s.noteFill lvl key mask) :=
  State.sameCaches_of (fun _ => rfl) rfl fun _ => rfl

/-! ## Writes to one cache -/

theorem State.cache_setCache (s : State) (lvl : Level) (x : Cache) : (s.setCache lvl x).cache lvl = x := by
  cases lvl with
  | l1 c =>
    show ((s.updCore c _).core c).l1 = x
    rw [State.core_updCore]
  | l2 d => exact getD_put_same _ _ _ _
  | l3 p =>
    show ((s.updPkg p _).pkg p).l3 = x
    rw [State.pkg_updPkg]

theorem State.cache_setCache_other (s : State) {lvl l : Level} (x : Cache) (h : l ≠ lvl) : (s.setCache lvl x).cache l = s.cache l := by
  cases lvl with
  | l1 c =>
    cases l with
    | l1 d =>
      show ((s.updCore c _).core d).l1 = _
      rw [State.core_updCore_other _ _ fun hd => h (by rw [hd])]
      rfl
    | l2 d => rfl
    | l3 p => rfl
  | l2 c =>
    cases l with
    | l1 d => rfl
    | l2 d => exact getD_put_other _ _ _ _ fun hd => h (by rw [hd])
    | l3 p => rfl
  | l3 c =>
    cases l with
    | l1 d => rfl
    | l2 d => rfl
    | l3 p =>
      show ((s.updPkg c _).pkg p).l3 = _
      rw [State.pkg_updPkg_other _ _ fun hd => h (by rw [hd])]
      rfl

/-- A cache is no byte of memory, no team and no request. -/
theorem State.setCache_frame (s : State) (lvl : Level) (x : Cache) : SameMemory s (s.setCache lvl x) ∧ (s.setCache lvl x).teams = s.teams ∧
    (s.setCache lvl x).requests = s.requests ∧ ∀ q, ((s.setCache lvl x).pkg q).duty = (s.pkg q).duty := by
  cases lvl with
  | l1 c => exact ⟨⟨fun _ => rfl, fun _ _ _ => rfl, fun _ _ => rfl⟩, rfl, rfl, fun _ => rfl⟩
  | l2 d => exact ⟨⟨fun _ => rfl, fun _ _ _ => rfl, fun _ _ => rfl⟩, rfl, rfl, fun _ => rfl⟩
  | l3 p =>
    have hpkg (q : Nat) : ∃ y, (s.setCache (.l3 p) x).pkg q = { s.pkg q with l3 := y } := by
      by_cases hq : q = p
      · rw [hq]
        exact ⟨x, State.pkg_updPkg s p _⟩
      · exact ⟨(s.pkg q).l3, State.pkg_updPkg_other s _ hq⟩
    refine ⟨⟨fun _ => rfl, fun q f off => ?_, fun _ _ => rfl⟩, rfl, rfl, fun q => ?_⟩
    · obtain ⟨y, hy⟩ := hpkg q
      rw [hy]
      rfl
    · obtain ⟨y, hy⟩ := hpkg q
      rw [hy]

theorem SameMemory.refl (s : State) : SameMemory s s := ⟨fun _ => rfl, fun _ _ _ => rfl, fun _ _ => rfl⟩

theorem SameMemory.trans {a b c : State} (hb : SameMemory a b) (hc : SameMemory b c) : SameMemory a c := by
  obtain ⟨hb1, hb2, hb3⟩ := hb
  obtain ⟨hc1, hc2, hc3⟩ := hc
  exact ⟨fun x => (hc1 x).trans (hb1 x), fun p f o => (hc2 p f o).trans (hb2 p f o), fun q o => (hc3 q o).trans (hb3 q o)⟩

/-- What a fill brings into a level stays there. -/
theorem State.fillLevel_frame (s : State) (l : Level) (key : Nat) (bs : List Byte) (mask : BitVec 32) (unord : Bool) :
    SameMemory s (s.fillLevel l key bs mask unord) ∧ (s.fillLevel l key bs mask unord).teams = s.teams ∧
    unskipped (s.fillLevel l key bs mask unord).requests = unskipped s.requests ∧ (∀ q,
      ((s.fillLevel l key bs mask unord).pkg q).duty = (s.pkg q).duty) ∧
    ∀ m, m ≠ l → (s.fillLevel l key bs mask unord).cache m = s.cache m := by
  obtain ⟨hmem, hteams, hreq, hduty⟩ := s.setCache_frame l ((s.cache l).merge key bs mask false (s.cache l).gen unord)
  refine ⟨hmem, hteams, ?_, hduty, fun m hm => ?_⟩
  · unfold State.fillLevel State.noteFill State.mapRequests unskipped
    dsimp only
    rw [hreq, List.map_map]
    refine List.map_congr_left fun e _ => ?_
    dsimp only [Function.comp_apply]
    split <;> rfl
  · unfold State.fillLevel
    rw [State.sameCaches_noteFill, State.cache_setCache_other _ _ hm]

/-! ## PREF (R130) -/

/-- What prefetches into a level on behalf of package p may leave. -/
def State.Prefetches (p : Nat) (l : Level) (s s' : State) : Prop :=
  s'.teams = s.teams ∧ unskipped s'.requests = unskipped s.requests ∧ (∀ m, m ≠ l → s'.cache m = s.cache m) ∧
    (s'.pkg p).duty = (s.pkg p).duty ∧ ((s.pkg p).duty.getLsbD 3 = false → SameMemory s s')

theorem State.Prefetches.refl (p : Nat) (l : Level) (s : State) : s.Prefetches p l s := ⟨rfl, rfl, fun _ _ => rfl, rfl, fun _ => .refl s⟩

theorem State.Prefetches.trans {p : Nat} {l : Level} {a b c : State} (hb : a.Prefetches p l b) (hc : b.Prefetches p l c) : a.Prefetches p l c := by
  obtain ⟨hb1, hb2, hb3, hb4, hb5⟩ := hb
  obtain ⟨hc1, hc2, hc3, hc4, hc5⟩ := hc
  exact ⟨hc1.trans hb1, hc2.trans hb2, fun m hm => (hc3 m hm).trans (hb3 m hm), hc4.trans hb4, fun hd => (hb5 hd).trans (hc5 (by rw [hb4]; exact hd))⟩

theorem State.Looks.prefetches {p : Nat} {s s' : State} (h : s.Looks p s') (l : Level) : s.Prefetches p l s' :=
  ⟨h.teams, by rw [h.requests], fun m _ => h.sameCaches m, (h.pkg p).duty, h.sameMemory⟩

/-- A read of a sector of the package's memory. -/
theorem State.looks_pullMem {s s' : State} {p key : Nat} {bs : List Byte} {good : BitVec 32} (h : s.pullMem p key = some (s', bs,
  good)) : s.Looks p s' := by
  unfold State.pullMem at h
  dsimp only at h
  split at h
  · obtain ⟨rfl, -⟩ := Prod.mk.inj (Option.some.inj h)
    exact .refl p s
  · split at h
    · split at h
      · obtain ⟨rfl, -⟩ := Prod.mk.inj (Option.some.inj h)
        exact ((State.reads_readGranule s _ _ _).looks p).trans (.updPkg _ _ rfl)
      · exact nomatch h
    · exact nomatch h

theorem State.prefetches_prefetch (s : State) (key : Nat) (unord : Bool) (l : Level) (outer : List Level) (p : Nat) :
    s.Prefetches p l (s.prefetch key unord l outer p) := by
  unfold State.prefetch
  split
  · exact .refl p l s
  · next s1 bs good hp =>
    obtain ⟨hmem, hteams, hreq, hduty, hcache⟩ := s1.fillLevel_frame l key _ _ unord
    exact ((State.looks_pullMem hp).prefetches l).trans ⟨hteams, hreq, hcache, hduty p, fun _ => hmem⟩

section Pref

variable {h : Hdr} {f : MF} {s : State} {t : Team}

/-- The level that PREF fills (Table 05-1). -/
def prefLevel (f : MF) (core : Nat) : Level := (corePath core).getD (if f.scope = 1 then 0 else if f.scope = 3 then 1 else 2) (.l3 (pkgOf core))

/-- One lane of PREF. -/
def prefLane (core : Nat) (t : Team) (f : MF) (levels : List Level) (s : State) (L : Nat) : State :=
  let r := s.checkGlobal core t.ctx (eaGlobal t f L &&& ~~~(31 : Word)) 32 false false false true
  match r.2, levels with
  | .ok [p], l :: outer =>
    if p.leaf.ord = 1 || !((r.1.pkg (pkgOf core)).stateOf p.leaf.gpn).serves then r.1
    else r.1.prefetch (p.addr / 32) (p.leaf.ord == 2) l outer (pkgOf core)
  | _, _ => r.1

theorem prefetches_prefLane (core : Nat) (t : Team) (f : MF) (l : Level) (outer : List Level) (s : State) (L : Nat) :
    s.Prefetches (pkgOf core) l (prefLane core t f (l :: outer) s L) := by
  have hlook := (State.looks_checkGlobal s core t.ctx (eaGlobal t f L &&& ~~~(31 : Word)) 32 false false false true false).prefetches l
  unfold prefLane
  dsimp only
  split
  · next hls =>
    obtain ⟨rfl, rfl⟩ := List.cons.inj hls
    split
    · exact hlook
    · exact hlook.trans (State.prefetches_prefetch _ _ _ _ _ _)
  · exact hlook

theorem exec_pref_eq (hi : s.Issues t (.pref h f) h) : exec (.pref h f) s = .next ((Act.retire ((t.act h).foldl
    (prefLane (coreOf s.cur) t f ((corePath (coreOf s.cur)).drop (if f.scope = 1 then 0 else if f.scope = 3 then 1 else 2))) s)).finish s.cur h.z) := by
  show execPref h f s = _
  unfold execPref
  rw [issue_next hi]
  rfl

/-- The levels from PREF's on. -/
theorem prefLevels_eq (f : MF) (core : Nat) : ∃ outer,
    (corePath core).drop (if f.scope = 1 then 0 else if f.scope = 3 then 1 else 2) = prefLevel f core :: outer := by
  unfold prefLevel
  split
  · exact ⟨_, rfl⟩
  · split
    · exact ⟨_, rfl⟩
    · exact ⟨_, rfl⟩

/-- PREF completes, and has filled its level at most. -/
theorem pref_ends (hi : s.Issues t (.pref h f) h) : ∃ s2, Ends (exec (.pref h f) s) s2 s.cur t [] ∧
    s.Prefetches (pkgOf (coreOf s.cur)) (prefLevel f (coreOf s.cur)) s2 := by
  obtain ⟨outer, houter⟩ := prefLevels_eq f (coreOf s.cur)
  have hall : s.Prefetches (pkgOf (coreOf s.cur)) (prefLevel f (coreOf s.cur)) ((t.act h).foldl (prefLane (coreOf s.cur) t f (prefLevel f (coreOf s.cur) :: outer)) s) :=
    List.foldlRecOn (motive := fun X => s.Prefetches (pkgOf (coreOf s.cur)) (prefLevel f (coreOf s.cur)) X) _ _ (.refl _ _ s)
      fun X hX L _ => hX.trans (prefetches_prefLane _ t f _ _ X L)
  refine ⟨_, ?_, hall⟩
  rw [exec_pref_eq hi, houter]
  refine retire_ends_in ?_ hi.2.2.2.2 h.z
  unfold State.team
  rw [hall.1]
  exact hi.1

end Pref

/-! ## Walks of the hardware ask the host for nothing (R246, R316) -/

theorem State.reads_walk (s : State) (q vpage n gpn tidx : Nat) : s.Reads (s.walk q vpage n gpn tidx).1 := by
  induction n generalizing s gpn tidx with
  | zero => exact .refl s
  | succ n ih =>
    have hread := State.reads_sysRead s q (65536 * gpn + 8192 * tidx + 8 * (vpage / 2 ^ (10 * n) % (if n = 3 then 2048 else 1024))) 8
    unfold State.walk
    dsimp only
    split
    · next heq => rw [heq] at hread; exact hread
    · next heq =>
      rw [heq] at hread
      split
      · exact hread
      · split
        · exact hread
        · split
          · exact hread
          · exact hread.trans (ih _ _ _)

theorem State.reads_ctxLeaf (s : State) (q ctx va : Nat) : s.Reads (s.ctxLeaf q ctx va).1 := by
  unfold State.ctxLeaf
  split
  · exact .refl s
  · next c _ =>
    have hwalk : s.Reads
        (if canonical (BitVec.ofNat 64 va) then s.walk q (va / 65536 % 2 ^ 41) 4 c.rootGpn c.rootTidx else (s, none)).1 := by
      split
      · exact State.reads_walk s q _ _ _ _
      · exact .refl s
    dsimp only
    split
    · next heq => rw [heq] at hwalk; exact hwalk
    · next heq => rw [heq] at hwalk; exact hwalk

theorem State.reads_shadowHot (s : State) (q ctx gpn : Nat) : s.Reads (s.shadowHot q ctx gpn).1 := by
  have hplaced (va : Nat) : s.Reads (s.ctxPlace q ctx va).1 := by
    have hleaf := State.reads_ctxLeaf s q ctx va
    unfold State.ctxPlace
    split
    · next heq => rw [heq] at hleaf; exact hleaf
    · next heq =>
      rw [heq] at hleaf
      split <;> exact hleaf
  unfold State.shadowHot
  split
  · exact .refl s
  · next c _ =>
    split
    · exact .refl s
    · have hplace := hplaced (c.shbase + 4 * (gpn % 2 ^ c.shw))
      split
      · next heq => rw [heq] at hplace; exact hplace
      · next s1 _ a heq =>
        rw [heq] at hplace
        have hread := State.reads_sysRead s1 q a 4
        split
        · next heq => rw [heq] at hread; exact hplace.trans hread
        · next heq => rw [heq] at hread; exact hplace.trans hread

theorem State.Reads.hreqs {s s' : State} (h : s.Reads s') (q : Nat) : (s'.pkg q).hreqs = (s.pkg q).hreqs := by
  rw [h.2 q]
  rfl

/-- Where walks are the hardware's and no request of the host is open, a translation asks the host for nothing and does not wait. -/
theorem State.translate_hardware (s : State) (core ctx : Nat) (va : Word) (write : Bool) (hd : (s.pkg (pkgOf core)).duty.getLsbD 3 = false)
    (hq : (s.pkg (pkgOf core)).hreqs = []) : ((s.translate core ctx va write).1.pkg (pkgOf core)).hreqs = [] ∧
      ((∃ l, (s.translate core ctx va write).2 = .ok l) ∨ ∃ c, (s.translate core ctx va write).2 = .fail c) := by
  have hasking : s.asking core ctx va = none := by
    unfold State.asking
    rw [hq]
    rfl
  have henter (X : State) (e : TlbEnt) : ((if X.noCore then X else X.updCore core fun k => { k with tlb := e :: k.tlb }).pkg (pkgOf core)).hreqs =
      (X.pkg (pkgOf core)).hreqs := by
    split <;> rfl
  unfold State.translate
  dsimp only
  split
  · exact ⟨hq, .inr ⟨_, rfl⟩⟩
  split
  · exact ⟨hq, .inl ⟨_, rfl⟩⟩
  split
  · exact ⟨(henter s _).trans hq, .inl ⟨_, rfl⟩⟩
  split
  · exact ⟨hq, .inr ⟨_, rfl⟩⟩
  rw [hd, hasking, if_neg (by decide)]
  split
  · exact ⟨hq, .inr ⟨_, rfl⟩⟩
  · next c _ =>
    have hwalk := (State.reads_walk s (pkgOf core) (va.toNat / 65536 % 2 ^ 41) 4 c.rootGpn c.rootTidx).hreqs (pkgOf core)
    split
    · next heq =>
      rw [heq] at hwalk
      exact ⟨hwalk.trans hq, .inr ⟨_, rfl⟩⟩
    · next s1 e log heq =>
      rw [heq] at hwalk
      refine ⟨?_, .inl ⟨_, rfl⟩⟩
      rw [State.pkg_updPkg]
      refine (henter _ _).trans (((State.reads_shadowHot s1 _ _ _).hreqs _).trans (hwalk.trans hq))

/-! ## FETCH (R131) -/

section Fetch

variable {h : Hdr} {f : MF} {s : State} {t : Team} {core : Nat}

/-- The status of a lane of FETCH from its translation (Table 05-2), with the page that it names. -/
def fetchStatus (s : State) (p : Nat) (f : MF) (L : Nat) : Tr → Nat × Nat × Option Leaf
  | .ok l => if l.ord = 3 then (L, 1, none) else (L, (s.pkg p).residency l.gpn (f.size == 1 && l.w), some l)
  | .fail _ => (L, 1, none)
  | .wait ix => (L, 256 + ix, none)

/-- One lane of FETCH. -/
def fetchLane (core : Nat) (t : Team) (f : MF) (acc : State × List (Nat × Nat × Option Leaf)) (L : Nat) : State × List (Nat × Nat × Option Leaf) :=
  let r := acc.1.translate core t.ctx (addrGlobal f t L) (f.size == 1)
  match r.2 with
  | .ok l =>
    if l.ord = 3 then (r.1, acc.2 ++ [(L, 1, none)]) else (r.1, acc.2 ++ [(L, (r.1.pkg (pkgOf core)).residency l.gpn (f.size == 1 && l.w), some l)])
  | .fail _ => (r.1, acc.2 ++ [(L, 1, none)])
  | .wait ix => (r.1, acc.2 ++ [(L, 256 + ix, none)])

theorem fetchLane_eq (core : Nat) (t : Team) (f : MF) (acc : State × List (Nat × Nat × Option Leaf)) (L : Nat) :
    fetchLane core t f acc L = ((acc.1.translate core t.ctx (addrGlobal f t L) (f.size == 1)).1, acc.2 ++
      [fetchStatus (acc.1.translate core t.ctx (addrGlobal f t L) (f.size == 1)).1 (pkgOf core) f L
        (acc.1.translate core t.ctx (addrGlobal f t L) (f.size == 1)).2]) := by
  unfold fetchLane fetchStatus
  dsimp only
  cases (acc.1.translate core t.ctx (addrGlobal f t L) (f.size == 1)).2 with
  | ok l =>
    dsimp only
    split <;> rfl
  | fail c => rfl
  | wait ix => rfl

/-- The pages elsewhere that lanes of FETCH name, each once. -/
def fetchPages (ls : List (Nat × Nat × Option Leaf)) : List Leaf :=
  (ls.filterMap fun x => if x.2.1 = 5 then x.2.2.filter fun l => !isHost l.gpn else none).foldl
    (fun acc l => if acc.any fun m => m.gpn == l.gpn then acc else acc ++ [l]) []

/-- The requests of FETCH, one for each page. -/
def fetchRequests (core tk : Nat) (t : Team) (f : MF) (pages : List Leaf) (s : State) : State :=
  pages.foldl (fun s l => s.addRequest core (2048 * l.gpn) 0 (.fetch (f.size == 1 && l.w)) { tk := tk, serial := t.serial, leaf := some l } []) s

/-- FETCH behind its translations. -/
def fetchAct (core tk : Nat) (t : Team) (f : MF) (r : State × List (Nat × Nat × Option Leaf)) : Act :=
  match r.2.find? fun x => 256 ≤ x.2.1 with
  | some x => .park r.1 (.walk (x.2.1 - 256))
  | none => .retire ((fetchRequests core tk t f (fetchPages r.2) r.1).setTeam tk
      (t.writeLong (r.2.map fun x => Part.ofVal (.v f.data.toNat) x.1 (BitVec.ofNat 64 x.2.1))))

theorem exec_fetch_eq (hi : s.Issues t (.fetch h f) h) : exec (.fetch h f) s =
    .next ((fetchAct (coreOf s.cur) s.cur t f ((t.act h).foldl (fetchLane (coreOf s.cur) t f) (s, []))).finish s.cur h.z) := by
  show execFetch h f s = _
  unfold execFetch
  rw [issue_next hi]
  rfl

theorem residency_mem (k : Pkg) (gpn : Nat) (w : Bool) : k.residency gpn w ∈ [0, 3, 4, 5] := by
  unfold Pkg.residency
  dsimp only
  split
  · split
    · simp
    · split
      · simp
      · split <;> simp
  · split
    · simp
    · split
      · simp
      · split <;> simp

/-- A lane of FETCH that does not wait has a status of Table 05-2. -/
theorem fetchStatus_mem (s : State) (p : Nat) (f : MF) (L : Nat) {tr : Tr} (htr : (∃ l, tr = .ok l) ∨ ∃ c, tr = .fail c) :
    (fetchStatus s p f L tr).1 = L ∧ (fetchStatus s p f L tr).2.1 ∈ [0, 1, 3, 4, 5] := by
  obtain ⟨l, rfl⟩ | ⟨c, rfl⟩ := htr
  · unfold fetchStatus
    dsimp only
    split
    · exact ⟨rfl, by simp⟩
    · refine ⟨rfl, ?_⟩
      have hmem := residency_mem (s.pkg p) l.gpn (f.size == 1 && l.w)
      simp only [List.mem_cons, List.not_mem_nil, or_false] at hmem ⊢
      omega
  · exact ⟨rfl, by simp [fetchStatus]⟩

/-- Where walks are the hardware's no lane of FETCH waits. -/
theorem foldl_fetchLane (hd : (s.pkg (pkgOf core)).duty.getLsbD 3 = false) (lanes : List Nat) : ∀ acc : State × List (Nat × Nat × Option Leaf),
    s.Looks (pkgOf core) acc.1 → (acc.1.pkg (pkgOf core)).hreqs = [] → (∀ x ∈ acc.2, x.2.1 ∈ [0, 1, 3, 4, 5]) →
    s.Looks (pkgOf core) (lanes.foldl (fetchLane core t f) acc).1 ∧ (∀ x ∈ (lanes.foldl (fetchLane core t f) acc).2, x.2.1 ∈ [0, 1, 3, 4, 5]) ∧
      (lanes.foldl (fetchLane core t f) acc).2.map (·.1) = acc.2.map (·.1) ++ lanes := by
  induction lanes with
  | nil => exact fun acc hl _ hx => ⟨hl, hx, (List.append_nil _).symm⟩
  | cons L lanes ih =>
    intro acc hl hq hx
    have hlook := State.looks_translate acc.1 core t.ctx (addrGlobal f t L) (f.size == 1) false
    obtain ⟨hq', htr⟩ := State.translate_hardware acc.1 core t.ctx (addrGlobal f t L) (f.size == 1) (by rw [(hl.pkg _).duty]; exact hd) hq
    obtain ⟨hlane, hcode⟩ := fetchStatus_mem (acc.1.translate core t.ctx (addrGlobal f t L) (f.size == 1)).1 (pkgOf core) f L htr
    rw [List.foldl_cons, fetchLane_eq]
    obtain ⟨X, hX⟩ : ∃ X, X = acc.1.translate core t.ctx (addrGlobal f t L) (f.size == 1) := ⟨_, rfl⟩
    rw [← hX] at hlook hq' hlane hcode ⊢
    obtain ⟨h1, h2, h3⟩ := ih (X.1, acc.2 ++ [fetchStatus X.1 (pkgOf core) f L X.2]) (hl.trans hlook) hq' fun x hx' => by
      rcases List.mem_append.mp hx' with hx' | hx'
      · exact hx x hx'
      · rw [List.mem_singleton.mp hx']
        exact hcode
    refine ⟨h1, h2, h3.trans ?_⟩
    rw [List.map_append, List.map_singleton, hlane, List.append_assoc]
    rfl

/-- The statuses of lanes that are distinct are a function of the lane. -/
theorem codes_of_lanes {ls : List (Nat × Nat × Option Leaf)} (hnd : (ls.map (·.1)).Nodup) {cs : List Nat} (hcs : ∀ x ∈ ls, x.2.1 ∈ cs) :
    ∃ code : Nat → Nat, ls.map (fun x => (x.1, x.2.1)) = (ls.map (·.1)).map (fun L => (L, code L)) ∧ ∀ L ∈ ls.map (·.1), code L ∈ cs := by
  obtain ⟨code, hcode⟩ : ∃ code : Nat → Nat, ∀ x ∈ ls, code x.1 = x.2.1 :=
    ⟨fun L => (ls.find? fun y => y.1 == L).elim 0 fun y => y.2.1, fun x hx => by
      dsimp only
      rw [find?_of_lanes hnd hx]
      rfl⟩
  refine ⟨code, ?_, fun L hL => ?_⟩
  · rw [List.map_map]
    exact List.map_congr_left fun x hx => by rw [Function.comp_apply, hcode x hx]
  · obtain ⟨x, hx, rfl⟩ := List.mem_map.mp hL
    rw [hcode x hx]
    exact hcs x hx

/-- FETCH whose lanes have their status. -/
theorem fetchAct_ends {s2 : State} {ls : List (Nat × Nat × Option Leaf)} (hs : t.stepping = none) (code : Nat → Nat)
    (hls : ls.map (fun x => (x.1, x.2.1)) = (t.act h).map fun L => (L, code L)) (hcode : ∀ L ∈ t.act h, code L ≤ 5) :
    EndsLong (.next ((fetchAct (coreOf s.cur) s.cur t f (s2,
      ls)).finish s.cur h.z)) (fetchRequests (coreOf s.cur) s.cur t f (fetchPages ls) s2) s.cur t
      ((t.act h).map fun L => (.v f.data.toNat, L, BitVec.ofNat 64 (code L))) := by
  have hnone : (ls.find? fun x => decide (256 ≤ x.2.1)) = none := by
    rw [List.find?_eq_none]
    intro x hx
    have hx' : (x.1, x.2.1) ∈ ls.map fun x => (x.1, x.2.1) := List.mem_map_of_mem hx
    rw [hls] at hx'
    obtain ⟨L, hL, he⟩ := List.mem_map.mp hx'
    have hle := hcode L hL
    rw [← (Prod.mk.inj he).2]
    simp
    omega
  have hparts : (ls.map fun x => Part.ofVal (.v f.data.toNat) x.1 (BitVec.ofNat 64 x.2.1)) =
      (t.act h).map fun L => Part.ofVal (.v f.data.toNat) L (BitVec.ofNat 64 (code L)) := by
    have hmap := congrArg (List.map fun y : Nat × Nat => Part.ofVal (.v f.data.toNat) y.1 (BitVec.ofNat 64 y.2)) hls
    rw [List.map_map, List.map_map] at hmap
    exact hmap
  have hact : fetchAct (coreOf s.cur) s.cur t f (s2, ls) = .retire ((fetchRequests (coreOf s.cur) s.cur t f (fetchPages ls) s2).setTeam s.cur
      (t.writeLong ((t.act h).map fun L => Part.ofVal (.v f.data.toNat) L (BitVec.ofNat 64 (code L))))) := by
    unfold fetchAct
    dsimp only
    rw [hnone, ← hparts]
  rw [hact]
  refine endsLong_retire (State.team_setTeam _ _ _) hs (fun x => State.setTeam_setTeam _ _ _ _) (t.kept_writeLong _) ⟨rfl, rfl⟩ ?_
  refine Team.wroteLong_writeLong t _ _ (fun q hq => ?_) ?_ ?_
  · obtain ⟨L, -, rfl⟩ := List.mem_map.mp hq
    rfl
  · rw [List.map_map, List.map_map]
    refine List.map_congr_left fun L hL => ?_
    show (_, _, (Part.ofVal (.v f.data.toNat) L (BitVec.ofNat 64 (code L))).val) = _
    rw [Part.val_ofVal_small _ _ ((hcode L hL).trans_lt (by decide))]
    rfl
  · rw [List.map_map]
    exact (t.nodup_act h).map fun a b hab => (Prod.mk.inj hab).2

/-- FETCH completes where walks are the hardware's. -/
theorem fetch_hardware (hi : s.Issues t (.fetch h f) h) (hd : (s.pkg (pkgOf (coreOf s.cur))).duty.getLsbD 3 = false)
    (hq : (s.pkg (pkgOf (coreOf s.cur))).hreqs = []) : ∃ (s2 : State) (code : Nat → Nat),
    EndsLong (exec (.fetch h f) s) s2 s.cur t ((t.act h).map fun L => (.v f.data.toNat, L, BitVec.ofNat 64 (code L))) ∧
      ∀ L ∈ t.act h, code L ∈ [0, 1, 3, 4, 5] := by
  obtain ⟨-, hcs, hlanes⟩ := foldl_fetchLane (core := coreOf s.cur) (t := t) (f := f) hd (t.act h) (s, []) (.refl _ s) hq fun x hx => nomatch hx
  have hlanes : ((t.act h).foldl (fetchLane (coreOf s.cur) t f) (s, [])).2.map (·.1) = t.act h := hlanes
  obtain ⟨code, hmap, hcode⟩ := codes_of_lanes (by rw [hlanes]; exact t.nodup_act h) hcs
  rw [hlanes] at hmap hcode
  have hle (L : Nat) (hL : L ∈ t.act h) : code L ≤ 5 := by
    have hmem := hcode L hL
    simp only [List.mem_cons, List.not_mem_nil, or_false] at hmem
    omega
  rw [exec_fetch_eq hi]
  exact ⟨_, code, fetchAct_ends hi.2.2.2.2 code hmap hle, hcode⟩

/-- The status of a page for FETCH where no walk changes anything. -/
def pageStatus (s : State) (p : Nat) (f : MF) (l : Leaf) : Nat :=
  let st := (s.pkg p).stateOf l.gpn
  if l.ord = 3 then 1
  else if (if f.size = 1 ∧ l.w = true then st = .masterExcl else st = .replica ∨ st = .masterShared ∨ st = .masterExcl) then 0
  else if st = .filling ∨ st = .moving then 3
  else if st = .lost then 4 else 5

theorem pageStatus_ordered (s : State) (p : Nat) (f : MF) {l : Leaf} (ho : l.ord = 3) : pageStatus s p f l = 1 := if_pos ho

theorem residency_eq (s : State) (p : Nat) (f : MF) (l : Leaf) (ho : l.ord ≠ 3) :
    (s.pkg p).residency l.gpn (f.size == 1 && l.w) = pageStatus s p f l := by
  unfold Pkg.residency pageStatus
  dsimp only
  rw [if_neg ho]
  have hw : (f.size = 1 ∧ l.w = true) = ((f.size == 1 && l.w) = true) := by rw [Bool.and_eq_true, beq_iff_eq]
  simp only [hw]
  generalize (f.size == 1 && l.w) = b
  generalize (s.pkg p).stateOf l.gpn = st
  cases b <;> cases st <;> rfl

/-- What a lane of FETCH finds where no walk changes anything. -/
def knownStatus (s : State) (p : Nat) (f : MF) (L : Nat) : Option Leaf → Nat × Nat × Option Leaf
  | some l => if l.ord = 3 then (L, 1, none) else (L, pageStatus s p f l, some l)
  | none => (L, 1, none)

/-- The lanes' statuses where their translations are known and change nothing. -/
theorem foldl_fetchLane_known {leaf : Nat → Option Leaf} (lanes : List Nat)
    (hleaf : ∀ L ∈ lanes, match leaf L with
      | some l => s.translate core t.ctx (addrGlobal f t L) (f.size == 1) = (s, .ok l)
      | none => ∃ c, s.translate core t.ctx (addrGlobal f t L) (f.size == 1) = (s, .fail c)) (acc : List (Nat × Nat × Option Leaf)) :
    lanes.foldl (fetchLane core t f) (s, acc) = (s, acc ++ lanes.map fun L => knownStatus s (pkgOf core) f L (leaf L)) := by
  induction lanes generalizing acc with
  | nil => simp
  | cons L lanes ih =>
    have hL := hleaf L List.mem_cons_self
    have hlane : fetchLane core t f (s, acc) L = (s, acc ++ [knownStatus s (pkgOf core) f L (leaf L)]) := by
      rw [fetchLane_eq]
      dsimp only
      cases hl : leaf L with
      | none =>
        rw [hl] at hL
        obtain ⟨c, hc⟩ := hL
        rw [hc]
        rfl
      | some l =>
        rw [hl] at hL
        have hc : s.translate core t.ctx (addrGlobal f t L) (f.size == 1) = (s, .ok l) := hL
        rw [hc]
        dsimp only [fetchStatus, knownStatus]
        split
        · rfl
        · next ho => rw [residency_eq s _ f l ho]
    rw [List.foldl_cons, hlane, ih fun M hM => hleaf M (List.mem_cons_of_mem _ hM), List.append_assoc]
    rfl

/-- The pages that such lanes ask for. -/
theorem fetchPages_known (s : State) (p : Nat) (f : MF) (leaf : Nat → Option Leaf) (lanes : List Nat) :
    fetchPages (lanes.map fun L => knownStatus s p f L (leaf L)) = ((lanes.filterMap leaf).filter fun l => pageStatus s p f l == 5 && !isHost l.gpn).foldl
      (fun acc l => if acc.any fun m => m.gpn == l.gpn then acc else acc ++ [l]) [] := by
  unfold fetchPages
  rw [List.filterMap_map, List.filter_filterMap]
  congr 1
  refine List.filterMap_congr fun L _ => ?_
  rw [Function.comp_apply]
  cases leaf L with
  | none => rfl
  | some l =>
    dsimp only [knownStatus]
    rw [Option.filter_some]
    split
    · next ho => simp [pageStatus_ordered s p f ho]
    · dsimp only
      rw [Option.filter_some]
      by_cases h5 : pageStatus s p f l = 5 <;> simp [h5]

/-- FETCH where the translations are known and change nothing. -/
theorem fetch_known (hi : s.Issues t (.fetch h f) h) (leaf : Nat → Option Leaf)
    (hleaf : ∀ L ∈ t.act h, match leaf L with
      | some l => s.translate (coreOf s.cur) t.ctx (addrGlobal f t L) (f.size == 1) = (s, .ok l)
      | none => ∃ c, s.translate (coreOf s.cur) t.ctx (addrGlobal f t L) (f.size == 1) = (s, .fail c)) :
    let p := pkgOf (coreOf s.cur)
    let code (L : Nat) : Nat := match leaf L with | some l => pageStatus s p f l | none => 1
    let pages := (((t.act h).filterMap leaf).filter fun l => pageStatus s p f l == 5 && !isHost l.gpn).foldl
      (fun acc l => if acc.any fun m => m.gpn == l.gpn then acc else acc ++ [l]) []
    EndsLong (exec (.fetch h f) s) (fetchRequests (coreOf s.cur) s.cur t f pages s) s.cur t ((t.act h).map fun L => (.v f.data.toNat, L,
      BitVec.ofNat 64 (code L))) := by
  intro p code pages
  have hcode (L : Nat) : ((knownStatus s p f L (leaf L)).1, (knownStatus s p f L (leaf L)).2.1) = (L, code L) := by
    dsimp only [code]
    cases leaf L with
    | none => rfl
    | some l =>
      dsimp only [knownStatus]
      split
      · next ho => rw [pageStatus_ordered s p f ho]
      · rfl
  have hle (L : Nat) : code L ≤ 5 := by
    dsimp only [code]
    split
    · unfold pageStatus
      dsimp only
      repeat' split
      all_goals decide
    · decide
  have hpages : pages = fetchPages ((t.act h).map fun L => knownStatus s p f L (leaf L)) := (fetchPages_known s p f leaf (t.act h)).symm
  rw [exec_fetch_eq hi, foldl_fetchLane_known (t.act h) hleaf, hpages]
  refine fetchAct_ends hi.2.2.2.2 code ?_ fun L _ => hle L
  rw [List.nil_append, List.map_map]
  exact List.map_congr_left fun L _ => hcode L

end Fetch

/-! ## CCTL (R132) -/

section Cctl

variable {h : Hdr} {f : MF} {s s1 : State} {t : Team}

/-- The sectors of checked lanes. -/
def laneKeys (ls : List (Nat × Word × List Piece)) : List Nat := ls.flatMap fun x => x.2.2.map fun p => p.addr / 32

/-- What CCTL does of its sectors: it acts where the package may have them. -/
def cctlEach (core scope : Nat) (act : State → Nat → List Level → State) (s : State) (key : Nat) : State :=
  if s.cctlActs core key then act s key (pathLevels core scope) else s

/-- CCTL completes where its lanes pass their checks. -/
theorem cctl_ends {i : Instr} {write lockCheck : Bool} {act : State → Nat → List Level → State} {ls : List (Nat × Word × List Piece)} (hi : s.Issues t i h)
    (he : exec i s = .next ((cctl h f write lockCheck act s s.cur t).finish s.cur h.z)) (hrole : ¬(f.data = 2 ∧ t.role ≠ .reeve))
    (hact : ∀ X key l, (act X key l).team s.cur = X.team s.cur)
    (hc : s.checkLanes s.cur t (t.act h) (fun L => addrGlobal f t L &&& ~~~(31 : Word)) 32 write false false lockCheck = (s1, .ok ls)) :
    Ends (exec i s) ((laneKeys ls).foldl (cctlEach (coreOf s.cur) f.scope.toNat act) s1) s.cur t [] := by
  have hgo : cctl h f write lockCheck act s s.cur t = .retire ((laneKeys ls).foldl (cctlEach (coreOf s.cur) f.scope.toNat act) s1) := by
    unfold cctl
    dsimp only
    rw [if_neg hrole]
    rw [show s.checkLanes s.cur t (t.act h) (fun L => eaGlobal t f L &&& ~~~(31 : Word)) 32 write false false lockCheck = (s1, .ok ls) from hc]
    rfl
  have hteam (l : List Nat) : ∀ X : State, (l.foldl (cctlEach (coreOf s.cur) f.scope.toNat act) X).team s.cur = X.team s.cur := by
    induction l with
    | nil => exact fun X => rfl
    | cons key l ih =>
      intro X
      rw [List.foldl_cons, ih]
      unfold cctlEach
      split
      · exact hact X key _
      · rfl
  rw [he, hgo]
  exact retire_ends_in ((hteam _ s1).trans (team_of_checkLanes hi.1 hc)) hi.2.2.2.2 h.z

theorem exec_cctlWb_eq (hi : s.Issues t (.cctlWb h f) h) :
    exec (.cctlWb h f) s = .next ((cctl h f false false State.wbSector s s.cur t).finish s.cur h.z) := by
  show execCctlWb h f s = _
  unfold execCctlWb
  rw [issue_next hi]

theorem exec_cctlInv_eq (hi : s.Issues t (.cctlInv h f) h) :
    exec (.cctlInv h f) s = .next ((cctl h f true true State.purge s s.cur t).finish s.cur h.z) := by
  show execCctlInv h f s = _
  unfold execCctlInv
  rw [issue_next hi]

theorem exec_cctlDiscard_eq (hi : s.Issues t (.cctlDiscard h f) h) :
    exec (.cctlDiscard h f) s = .next ((cctl h f true true State.discardSector s s.cur t).finish s.cur h.z) := by
  show execCctlDiscard h f s = _
  unfold execCctlDiscard
  rw [issue_next hi]

/-- Only the discard names data 2. -/
theorem cctl_data (d : BitVec 8) {b c : Bool} {x : BitVec 8} (hd : x ≠ 2) (hok : (b && c && d == x) = true) : d ≠ 2 := by
  rw [Bool.and_eq_true, beq_iff_eq] at hok
  rw [hok.2]
  exact hd

theorem State.team_wbSector (X : State) (key : Nat) (l : List Level) (tk : Nat) : (X.wbSector key l).team tk = X.team tk :=
  (State.Flows.foldl l _ (fun Y lvl => State.flows_writeBackOne Y lvl key) X).team tk

theorem State.team_discardSector (X : State) (key : Nat) (l : List Level) (tk : Nat) : (X.discardSector key l).team tk = X.team tk := by
  unfold State.discardSector
  refine List.foldlRecOn (motive := fun Y : State => Y.team tk = X.team tk) _ _ rfl fun Y hY lvl _ => ?_
  have hdrop : (Y.dropLine lvl key).team tk = X.team tk := ((State.flows_dropLine Y lvl key).team tk).trans hY
  dsimp only
  split
  · exact hdrop
  · exact hdrop

/-- A level without the sector has nothing of it to write back. -/
theorem State.wbSector_absent (X : State) (key : Nat) : ∀ ls : List Level, (∀ l ∈ ls, find (X.cache l).sectors key = none) → X.wbSector key ls = X
  | [], _ => rfl
  | l :: ls, hls => by
    have hone : X.writeBackOne l key = X := by
      unfold State.writeBackOne
      rw [hls l List.mem_cons_self]
    unfold State.wbSector
    rw [List.foldl_cons, hone]
    exact State.wbSector_absent X key ls fun m hm => hls m (List.mem_cons_of_mem _ hm)

theorem pathLevels_subset (core scope : Nat) : ∀ l ∈ pathLevels core scope, l ∈ corePath core := by
  unfold pathLevels corePath
  split
  · simp
  · split
    · simp
    · split <;> simp

/-- CCTL.wb acts alike on every sector: where it passes one over, no level holds it. -/
theorem cctlEach_wb (core scope : Nat) (X : State) (key : Nat) : cctlEach core scope State.wbSector X key = X.wbSector key (pathLevels core scope) := by
  unfold cctlEach
  split
  · rfl
  · next hno =>
    refine (X.wbSector_absent key _ fun l hl => ?_).symm
    rw [← Option.not_isSome_iff_eq_none]
    intro hs
    refine hno ?_
    unfold State.cctlActs
    rw [Bool.or_eq_true, List.any_eq_true]
    exact .inr ⟨l, pathLevels_subset core scope l hl, hs⟩

theorem State.cctlActs_iff (X : State) (core key : Nat) : X.cctlActs core key = true ↔
    isHost (key / 2048) = true ∨ ((X.pkg (pkgOf core)).stateOf (key / 2048)).serves = true ∨ ∃ l ∈ corePath core,
      (find (X.cache l).sectors key).isSome := by
  unfold State.cctlActs
  rw [Bool.or_eq_true, Bool.or_eq_true, List.any_eq_true, or_assoc]

theorem cctlWb_ends {ls : List (Nat × Word × List Piece)} (hi : s.Issues t (.cctlWb h f) h)
    (hc : s.checkLanes s.cur t (t.act h) (fun L => addrGlobal f t L &&& ~~~(31 : Word)) 32 false false false false = (s1, .ok ls)) :
    Ends (exec (.cctlWb h f) s) ((laneKeys ls).foldl (fun X key => X.wbSector key (pathLevels (coreOf s.cur) f.scope.toNat)) s1) s.cur t [] := by
  have hdata : f.data ≠ 2 := cctl_data f.data (by decide)
    (fieldOk_of_precheck hi.2.1 : (f.ok [0] [0] false false 0 && f.scope > 1 && f.data == 0) = true)
  have hends := cctl_ends hi (exec_cctlWb_eq hi) (fun hx => hdata hx.1) (fun X key l => X.team_wbSector key l s.cur) hc
  rw [show cctlEach (coreOf s.cur) f.scope.toNat State.wbSector = fun X key => X.wbSector key (pathLevels (coreOf s.cur) f.scope.toNat) from
    funext fun X => funext fun key => cctlEach_wb _ _ X key] at hends
  exact hends

/-- An action that goes on where the package may have the sector, and nowhere else, is CCTL's. -/
theorem cctlEach_eq {core scope : Nat} {act : State → Nat → List Level → State} {each : State → Nat → State}
    (hon : ∀ X key, X.cctlActs core key = true → each X key = act X key (pathLevels core scope)) (hoff : ∀ X key,
      ¬X.cctlActs core key = true → each X key = X) :
    cctlEach core scope act = each := by
  funext X key
  unfold cctlEach
  by_cases ha : X.cctlActs core key = true
  · rw [if_pos ha, hon X key ha]
  · rw [if_neg ha, hoff X key ha]

theorem cctlInv_ends {ls : List (Nat × Word × List Piece)} (hi : s.Issues t (.cctlInv h f) h)
    (hc : s.checkLanes s.cur t (t.act h) (fun L => addrGlobal f t L &&& ~~~(31 : Word)) 32 true false false true = (s1, .ok ls)) :
    Ends (exec (.cctlInv h f) s) ((laneKeys ls).foldl (cctlEach (coreOf s.cur) f.scope.toNat State.purge) s1) s.cur t [] := by
  have hdata : f.data ≠ 2 := cctl_data f.data (by decide)
    (fieldOk_of_precheck hi.2.1 : (f.ok [0] [0] false false 0 && f.scope > 1 && f.data == 1) = true)
  exact cctl_ends hi (exec_cctlInv_eq hi) (fun hx => hdata hx.1) (fun X key l => (State.flows_purge X key l).team s.cur) hc

theorem cctlDiscard_ends {ls : List (Nat × Word × List Piece)} (hi : s.Issues t (.cctlDiscard h f) h) (hrole : t.role = .reeve)
    (hc : s.checkLanes s.cur t (t.act h) (fun L => addrGlobal f t L &&& ~~~(31 : Word)) 32 true false false true = (s1, .ok ls)) :
    Ends (exec (.cctlDiscard h f) s) ((laneKeys ls).foldl (cctlEach (coreOf s.cur) f.scope.toNat State.discardSector) s1) s.cur t [] :=
  cctl_ends hi (exec_cctlDiscard_eq hi) (fun hx => hx.2 hrole) (fun X key l => X.team_discardSector key l s.cur) hc

/-- A discard is a reeve's. -/
theorem cctlDiscard_freezes (hi : s.Issues t (.cctlDiscard h f) h) (hrole : t.role ≠ .reeve) :
    Freezes (exec (.cctlDiscard h f) s) s t h .privilege 0 := by
  have hok : (f.ok [0] [0] false false 0 && f.scope > 1 && f.data == 2) = true := fieldOk_of_precheck hi.2.1
  rw [Bool.and_eq_true, beq_iff_eq] at hok
  rw [exec_cctlDiscard_eq hi]
  unfold cctl
  dsimp only
  rw [if_pos ⟨hok.2, hrole⟩]
  exact fault_freezes hi 0 (.inr rfl)

end Cctl

/-! ## FENCE (R133, R225 to R229) -/

section Fence

variable {h : Hdr} {f : MF} {s : State} {t : Team}

theorem exec_fence_eq (hi : s.Issues t (.fence h f) h) : exec (.fence h f) s = .next ((
    if (t.act h).isEmpty then .retire s
    else if f.ord = 1 then (if s.quiet s.cur t.serial then .retire (s.acquire (coreOf s.cur) f.scope.toNat) else .park s .quiet)
    else releaseThen s s.cur t f.scope.toNat fun X => .retire (X.acquireIf (coreOf s.cur) f.scope.toNat (f.ord == 3))).finish s.cur h.z) := by
  show execFence h f s = _
  unfold execFence
  rw [issue_next hi]
  rfl

/-- A release that has waited for the acknowledgements of the posts before n. -/
theorem releaseThen_waited {X : State} {tk n sc : Nat} (hquiet : X.quiet tk t.serial = true) (hsc : 5 ≤ sc) (hw : t.relWait = some n) (go : State → Act) :
    releaseThen X tk t sc go = if (X.pkg (pkgOfTeam tk)).posted.all fun x => n ≤ x.1 then go X else .park X (.acks n) := by
  unfold releaseThen
  rw [hquiet, hw, if_neg (by decide), if_neg (by omega)]

/-- A release at SYSTEM scope that must wait for acknowledgements. -/
theorem releaseThen_posted {X : State} {tk sc : Nat} (hquiet : X.quiet tk t.serial = true) (hsc : 5 ≤ sc) (hw : t.relWait = none)
    (hposted : ((X.release (coreOf tk) 5).pkg (pkgOfTeam tk)).posted ≠ []) (go : State → Act) : releaseThen X tk t sc go =
      .park ((X.release (coreOf tk) 5).setTeam tk { t with relWait := some ((X.release (coreOf tk) 5).pkg (pkgOfTeam tk)).postSeq })
        (.acks ((X.release (coreOf tk) 5).pkg (pkgOfTeam tk)).postSeq) := by
  unfold releaseThen
  rw [hquiet, hw, if_neg (by decide), if_neg (by omega)]
  dsimp only
  rw [if_neg (by rwa [List.isEmpty_iff])]

/-- FENCE behind its release. -/
theorem fence_goes (hs : t.stepping = none) {X : State} (hX : X.team s.cur = some t) (sc : Nat) :
    Ends (.next ((Act.retire (X.acquireIf (coreOf s.cur) sc (f.ord == 3))).finish s.cur h.z)) (if f.ord = 3 then X.acquire (coreOf s.cur) sc else X) s.cur t [] := by
  have hacq : X.acquireIf (coreOf s.cur) sc (f.ord == 3) = if f.ord = 3 then X.acquire (coreOf s.cur) sc else X := by
    unfold State.acquireIf
    simp only [beq_iff_eq]
  rw [← hacq]
  exact retire_ends_in (((State.flows_acquireIf X _ _ _).team s.cur).trans hX) hs h.z

theorem fence_rule (hi : s.Issues t (.fence h f) h) :
    let core := coreOf s.cur
    let sc := f.scope.toNat
    (t.act h = [] → Ends (exec (.fence h f) s) s s.cur t []) ∧
    (t.act h ≠ [] → s.quiet s.cur t.serial = false → Parks (exec (.fence h f) s) s s.cur t .quiet) ∧
    (t.act h ≠ [] → s.quiet s.cur t.serial = true → f.ord = 1 → Ends (exec (.fence h f) s) (s.acquire core sc) s.cur t []) ∧
    (t.act h ≠ [] → s.quiet s.cur t.serial = true → f.ord ≠ 1 → sc < 5 →
      Ends (exec (.fence h f) s) (if f.ord = 3 then (s.release core sc).acquire core sc else s.release core sc) s.cur t []) ∧
    (t.act h ≠ [] → s.quiet s.cur t.serial = true → f.ord ≠ 1 → 5 ≤ sc → t.relWait = none →
      let s2 := s.release core 5
      ((s2.pkg (pkgOf core)).posted = [] → Ends (exec (.fence h f) s) (if f.ord = 3 then s2.acquire core sc else s2) s.cur t []) ∧
      ((s2.pkg (pkgOf core)).posted ≠ [] →
        Parks (exec (.fence h f) s) s2 s.cur { t with relWait := some (s2.pkg (pkgOf core)).postSeq } (.acks (s2.pkg (pkgOf core)).postSeq))) ∧
    (∀ n, t.act h ≠ [] → s.quiet s.cur t.serial = true → f.ord ≠ 1 → 5 ≤ sc → t.relWait = some n →
      ((∀ x ∈ (s.pkg (pkgOf core)).posted, n ≤ x.1) → Ends (exec (.fence h f) s) (if f.ord = 3 then s.acquire core sc else s) s.cur t []) ∧
      ((∃ x ∈ (s.pkg (pkgOf core)).posted, x.1 < n) → Parks (exec (.fence h f) s) s s.cur t (.acks n))) := by
  intro core sc
  have hs : t.stepping = none := hi.2.2.2.2
  have hrel (n : Nat) : (s.release core n).team s.cur = some t := ((State.flows_release s core n).team s.cur).trans hi.1
  have hsome (hne : t.act h ≠ []) : ¬(t.act h).isEmpty = true := mt List.isEmpty_iff.mp hne
  rw [exec_fence_eq hi]
  refine ⟨fun he => ?_, fun hne hbusy => ?_, fun hne hquiet ho => ?_, fun hne hquiet ho hsc => ?_, fun hne hquiet ho hsc hw => ⟨fun hp => ?_,
    fun hp => ?_⟩,
    fun n hne hquiet ho hsc hw => ?_⟩
  · rw [if_pos (List.isEmpty_iff.mpr he)]
    exact retire_ends_in hi.1 hs h.z
  · rw [if_neg (hsome hne), hbusy, releaseThen_busy hbusy]
    simp only [Bool.false_eq_true, if_false, ite_self]
    exact park_parks_in hi.1 hs .quiet h.z
  · rw [if_neg (hsome hne), if_pos ho, hquiet, if_pos rfl]
    exact retire_ends_in (((State.flows_acquire s core sc).team s.cur).trans hi.1) hs h.z
  · rw [if_neg (hsome hne), if_neg ho, releaseThen_released ⟨hquiet, rfl, .inl hsc⟩]
    exact fence_goes hs (hrel sc) sc
  · rw [if_neg (hsome hne), if_neg ho, releaseThen_system hquiet hsc hw hp]
    exact fence_goes hs (hrel 5) sc
  · rw [if_neg (hsome hne), if_neg ho, releaseThen_posted hquiet hsc hw hp]
    exact setTeam_park_parks (u := { t with relWait := some ((s.release core 5).pkg (pkgOf core)).postSeq }) hs _ h.z
  · rw [if_neg (hsome hne), if_neg ho, releaseThen_waited hquiet hsc hw]
    refine ⟨fun hall => ?_, fun hsome => ?_⟩
    · rw [if_pos (by exact List.all_eq_true.mpr fun x hx => decide_eq_true (hall x hx))]
      exact fence_goes hs hi.1 sc
    · rw [if_neg ?_]
      · exact park_parks_in hi.1 hs (.acks n) h.z
      · obtain ⟨x, hx, hlt⟩ := hsome
        intro hall
        have hle := of_decide_eq_true (List.all_eq_true.mp hall x hx)
        omega

end Fence

/-- Each request of FETCH is for the team that issues. -/
theorem foldl_fetchRequest (core : Nat) (t : Team) (f : MF) (pages : List Leaf) (s : State) :
    pages.foldl (fun X l => X.addRequest core (2048 * l.gpn) 0 (.fetch (f.size == 1 && l.w)) { tk := X.cur, serial := t.serial, leaf := some l } []) s =
      fetchRequests core s.cur t f pages s := by
  induction pages generalizing s with
  | nil => rfl
  | cons l pages ih => exact ih _

/-- Settles O18: PREF is a run of checks and fills of one level, FETCH a run of translations, CCTL a run over the checked lanes' sectors, FENCE its
release and its acquire. -/
theorem prefetchCacheControlFences : Obligations.PrefetchCacheControlFences := by
  unfold Obligations.PrefetchCacheControlFences
  refine ⟨?_, ?_⟩
  · intro h f s t core p
    refine ⟨fun hi => ?_, fun hi hd hq => fetch_hardware hi hd hq, ?_⟩
    case refine_2 =>
      intro hi leaf hleaf status code away pages s2
      rw [show s2 = fetchRequests core s.cur t f pages s from foldl_fetchRequest core t f pages s]
      exact fetch_known hi leaf hleaf
    obtain ⟨s2, hends, -, hreq, hcache, -, hmem⟩ := pref_ends hi
    exact ⟨s2, hends, hreq, hcache, hmem⟩
  · intro h f s s1 t core sc sector keys here
    refine ⟨fun ls hi hc => cctlWb_ends hi hc, fun ls act hon hoff hi hc => ?_, fun ls act hon hoff hi hrole hc => ?_,
      fun hi hrole => cctlDiscard_freezes hi hrole, fun hi => fence_rule hi⟩
    · have hends := cctlInv_ends hi hc
      rw [cctlEach_eq (each := act) (fun X key ha => hon X key (X.cctlActs_iff core key |>.mp ha)) (fun X key ha => hoff X key (mt (X.cctlActs_iff core key).mpr ha))] at hends
      exact hends
    · have hends := cctlDiscard_ends hi hrole hc
      rw [cctlEach_eq (each := act) (fun X key ha => hon X key (X.cctlActs_iff core key |>.mp ha)) (fun X key ha => hoff X key (mt (X.cctlActs_iff core key).mpr ha))] at hends
      exact hends

end Sys2Proof.Machine

/-! PROOFS. Reads by the nearest level that holds their bytes, and checks that change no byte of memory (R129, R216, R223, R231, R246). -/

namespace Sys2Proof.Machine

open Host

/-! ## Sectors that a level holds -/

/-- A level holds the bytes b of a sector, current, in the places of a mask. -/
def State.HoldsSector (X : State) (l : Level) (key : Nat) (m : BitVec 32) (b : Nat → Byte) : Prop :=
  ∃ e, find (X.cache l).sectors key = some e ∧ (X.cache l).current e = true ∧ e.valid = m ∧ ∀ i < 32, m.getLsbD i = true → e.data.getD i 0 = b i

theorem Cache.hits_none {x : Cache} {key : Nat} (h : find x.sectors key = none) (mask : BitVec 32) : x.hits key mask = false := by
  unfold Cache.hits
  rw [h]

theorem Cache.hits_some {x : Cache} {key : Nat} {e : Sector} (h : find x.sectors key = some e) (mask : BitVec 32) :
    x.hits key mask = (x.current e && (mask &&& ~~~e.valid) == 0) := by
  unfold Cache.hits
  rw [h]

/-- A sector that hits is held. -/
theorem State.HoldsSector.of_hits {X : State} {l : Level} {key : Nat} {mask : BitVec 32} {e : Sector} (he : find (X.cache l).sectors key = some e)
    (h : (X.cache l).hits key mask = true) : X.HoldsSector l key e.valid (fun i => e.data.getD i 0) ∧ mask &&& ~~~e.valid = 0 := by
  rw [Cache.hits_some he, Bool.and_eq_true, beq_iff_eq] at h
  exact ⟨⟨e, he, h.1, rfl, fun _ _ _ => rfl⟩, h.2⟩

theorem State.HoldsSector.hits {X : State} {l : Level} {key : Nat} {m : BitVec 32} {b : Nat → Byte} (h : X.HoldsSector l key m b) (mask : BitVec 32) :
    (X.cache l).hits key mask = ((mask &&& ~~~m) == 0) := by
  obtain ⟨e, he, hc, rfl, -⟩ := h
  rw [Cache.hits_some he, hc, Bool.true_and]

/-- The bytes of a sector that a level holds. -/
theorem State.HoldsSector.bytes {X : State} {l : Level} {key : Nat} {m : BitVec 32} {b : Nat → Byte} (h : X.HoldsSector l key m b) :
    (X.cache l).validMask key = m ∧ ∀ i < 32, m.getLsbD i = true → ((X.cache l).bytes key).getD i 0 = b i := by
  obtain ⟨e, he, -, hm, hb⟩ := h
  unfold Cache.validMask Cache.bytes
  rw [he]
  exact ⟨hm, hb⟩

/-- Bytes that a mask names are among those held where none is missing. -/
theorem covered {mask m : BitVec 32} (h : mask &&& ~~~m = 0) {i : Nat} (hi : i < 32) (hb : mask.getLsbD i = true) : m.getLsbD i = true := by
  have hbit := congrArg (fun x : BitVec 32 => x.getLsbD i) h
  simpa [hb, hi] using hbit

/-- A fill of a sector that its level does not have. -/
theorem State.holdsSector_fillLevel {X : State} {l : Level} {key : Nat} (h : find (X.cache l).sectors key = none) (bs : List Byte) (m : BitVec 32) (u : Bool) :
    (X.fillLevel l key bs m u).HoldsSector l key m fun i => bs.getD i 0 := by
  have hcache : (X.fillLevel l key bs m u).cache l = (X.cache l).merge key bs m false (X.cache l).gen u := by
    unfold State.fillLevel
    rw [State.sameCaches_noteFill, State.cache_setCache]
  have htake : m &&& ~~~(0 : BitVec 32) = m := by rw [BitVec.ofNat_eq_ofNat, BitVec.not_zero, BitVec.and_allOnes]
  unfold State.HoldsSector
  rw [hcache]
  refine ⟨_, find_put_same _ _ _, beq_self_eq_true _, ?_, fun i hi hb => ?_⟩
  · dsimp only
    rw [h, Option.getD_none]
    simp only [Bool.false_eq_true, ite_self, htake]
    exact BitVec.zero_or
  · dsimp only
    rw [List.getD_eq_getElem _ _ (by simpa using hi), List.getElem_map, List.getElem_range, h, Option.getD_none]
    simp only [Bool.false_eq_true, if_false, htake]
    rw [if_pos hb]

theorem State.HoldsSector.of_cache {X Y : State} {l : Level} {key : Nat} {m : BitVec 32} {b : Nat → Byte} (h : X.HoldsSector l key m b)
    (hc : Y.cache l = X.cache l) : Y.HoldsSector l key m b := by
  unfold State.HoldsSector
  rw [hc]
  exact h

/-- A level takes what the next level holds. -/
def State.fillFrom (X : State) (l n : Level) (key : Nat) (u : Bool) : State := X.fillLevel l key ((X.cache n).bytes key) ((X.cache n).validMask key) u

theorem State.HoldsSector.fillFrom {X : State} {l n : Level} {key : Nat} {m : BitVec 32} {b : Nat → Byte} (hn : X.HoldsSector n key m b) (hne : n ≠ l)
    (h : find (X.cache l).sectors key = none) (u : Bool) :
    (X.fillFrom l n key u).HoldsSector l key m b ∧ (X.fillFrom l n key u).HoldsSector n key m b := by
  obtain ⟨hm, hb⟩ := hn.bytes
  obtain ⟨e, he, hc, hv, hd⟩ := State.holdsSector_fillLevel h ((X.cache n).bytes key) ((X.cache n).validMask key) u
  rw [hm] at hv
  refine ⟨⟨e, he, hc, hv, fun i hi hbit => ?_⟩, hn.of_cache ?_⟩
  · rw [hd i hi (by rw [hm]; exact hbit)]
    exact hb i hi hbit
  · exact (X.fillLevel_frame l key _ _ u).2.2.2.2 n hne

theorem State.Reads.sameMemory {s s' : State} (h : s.Reads s') : SameMemory s s' := by
  obtain ⟨heq, hpkg⟩ := h
  refine ⟨fun a => by rw [heq]; rfl, fun q f off => ?_, fun sh off => by rw [heq]; rfl⟩
  rw [hpkg q]
  rfl

/-! ## Reads at TEAM scope -/

section Reads

variable {s : State} {core key : Nat} {mask : BitVec 32} {unord : Bool}

/-- A read at TEAM scope pulls its sector along the core's path. -/
theorem State.readSector_narrow (s : State) (core key : Nat) (mask : BitVec 32) (unord : Bool) : s.readSector core key mask 0 unord =
    match s.pull key mask unord [.l1 core, .l2 (dieOf core), .l3 (pkgOf core)] (pkgOf core) with
    | some s' => (s', some ((s'.cache (.l1 core)).bytes key))
    | none => (s, s.heldUnion core key mask 0) := rfl

theorem State.pull_hits {l : Level} {ls : List Level} {p : Nat} (h : (s.cache l).hits key mask = true) : s.pull key mask unord (l :: ls) p = some s := by
  cases ls with
  | nil => exact if_pos h
  | cons n ls => exact if_pos h

theorem State.pull_next {l n : Level} {ls : List Level} {p : Nat} {X : State} (h : find (s.cache l).sectors key = none)
    (hX : s.pull key mask unord (n :: ls) p = some X) : s.pull key mask unord (l :: n :: ls) p = some (X.fillFrom l n key unord) := by
  rw [State.pull, Cache.hits_none h, if_neg (by decide), hX]
  rfl

theorem State.pull_none {l n : Level} {ls : List Level} {p : Nat} (h : find (s.cache l).sectors key = none)
    (hX : s.pull key mask unord (n :: ls) p = none) : s.pull key mask unord (l :: n :: ls) p = none := by
  rw [State.pull, Cache.hits_none h, if_neg (by decide), hX]

/-- What a pull that ends in the L1 gives a read. -/
theorem State.readSector_pulled {s' : State} {m : BitVec 32} {b : Nat → Byte}
    (hp : s.pull key mask unord [.l1 core, .l2 (dieOf core), .l3 (pkgOf core)] (pkgOf core) = some s') (h : s'.HoldsSector (.l1 core) key m b)
    (hm : mask &&& ~~~m = 0) : ∃ bs, s.readSector core key mask 0 unord = (s', some bs) ∧ ∀ i < 32, mask.getLsbD i = true → bs.getD i 0 = b i := by
  refine ⟨(s'.cache (.l1 core)).bytes key, ?_, fun i hi hb => h.bytes.2 i hi (covered hm hi hb)⟩
  rw [State.readSector_narrow, hp]

theorem readSector_l1 {e : Sector} (he : find (s.core core).l1.sectors key = some e) (hh : (s.core core).l1.hits key mask = true) :
    s.readSector core key mask 0 unord = (s, some e.data) := by
  rw [State.readSector_narrow, State.pull_hits (l := .l1 core) hh]
  dsimp only
  unfold Cache.bytes
  rw [show find (s.cache (.l1 core)).sectors key = some e from he]
  rfl

theorem readSector_l2 {e : Sector} (h1 : find (s.core core).l1.sectors key = none) (he : find (s.die (dieOf core)).sectors key = some e)
    (hh : (s.die (dieOf core)).hits key mask = true) :
    ∃ s' bs, s.readSector core key mask 0 unord = (s', some bs) ∧ (∀ i < 32, mask.getLsbD i = true → bs.getD i 0 = e.data.getD i 0) ∧
      (s'.core core).l1.hits key mask = true ∧ s'.dies = s.dies ∧ s'.pkgs = s.pkgs ∧ SameMemory s s' := by
  obtain ⟨hholds, hm⟩ := State.HoldsSector.of_hits (X := s) (l := .l2 (dieOf core)) he hh
  obtain ⟨hl1, -⟩ := hholds.fillFrom (l := .l1 core) (by simp) h1 unord
  obtain ⟨bs, hread, hbs⟩ := State.readSector_pulled (State.pull_next h1 (State.pull_hits hh)) hl1 hm
  exact ⟨_, bs, hread, hbs, (hl1.hits mask).trans (by rw [hm]; rfl), rfl, rfl, (s.fillLevel_frame _ _ _ _ _).1⟩

theorem readSector_l3 {e : Sector} (h1 : find (s.core core).l1.sectors key = none) (h2 : find (s.die (dieOf core)).sectors key = none)
    (he : find (s.pkg (pkgOf core)).l3.sectors key = some e) (hh : (s.pkg (pkgOf core)).l3.hits key mask = true) :
    ∃ s' bs, s.readSector core key mask 0 unord = (s', some bs) ∧ (∀ i < 32, mask.getLsbD i = true → bs.getD i 0 = e.data.getD i 0) ∧
      (s'.core core).l1.hits key mask = true ∧ (s'.die (dieOf core)).hits key mask = true ∧ s'.pkgs = s.pkgs ∧ SameMemory s s' := by
  obtain ⟨hholds, hm⟩ := State.HoldsSector.of_hits (X := s) (l := .l3 (pkgOf core)) he hh
  obtain ⟨hl2, -⟩ := hholds.fillFrom (l := .l2 (dieOf core)) (by simp) h2 unord
  obtain ⟨hl1, hl2'⟩ := hl2.fillFrom (l := .l1 core) (by simp) h1 unord
  obtain ⟨bs, hread, hbs⟩ := State.readSector_pulled (State.pull_next h1 (State.pull_next h2 (State.pull_hits hh))) hl1 hm
  exact ⟨_, bs, hread, hbs, (hl1.hits mask).trans (by rw [hm]; rfl), (hl2'.hits mask).trans (by rw [hm]; rfl), rfl,
    (s.fillLevel_frame _ _ _ _ _).1.trans (State.fillLevel_frame _ _ _ _ _ _).1⟩

/-- Where no level of the path has a sector the package holds none of its bytes together. -/
theorem heldUnion_none (hno : ∀ l ∈ corePath core, find (s.cache l).sectors key = none) (hm : mask ≠ 0) : s.heldUnion core key mask 0 = none := by
  have hbyte (j : Nat) : s.heldByte key j (pointPath core 0) = none := by
    unfold State.heldByte
    rw [List.findSome?_eq_none_iff]
    intro l hl
    rw [hno l hl]
    rfl
  obtain ⟨j, hj, hb⟩ : ∃ j, j < 32 ∧ mask.getLsbD j = true := by
    by_contra hc
    push Not at hc
    refine hm (BitVec.eq_of_getLsbD_eq fun i hi => ?_)
    rw [BitVec.ofNat_eq_ofNat, BitVec.getLsbD_zero]
    exact Bool.eq_false_iff.mpr (hc i hi)
  unfold State.heldUnion
  dsimp only
  refine if_neg fun hall => ?_
  have hj' := List.all_eq_true.mp hall j (List.mem_range.mpr hj)
  rw [hbyte, hb] at hj'
  exact nomatch hj'

/-- A frame that serves reads gives its bytes, but those that a write of the package has yet to change. -/
theorem pullMem_frame (hh : isHost (key / 2048) = false) {f : Nat}
    (hf : (s.pkg (pkgOf core)).frameOf (key / 2048) = some f) (hserves : ((s.pkg (pkgOf core)).tag f).state.serves = true) :
    ∃ X, s.pullMem (pkgOf core) key = some (X, (List.range 32).map (fun i => (s.pkg (pkgOf core)).byte f (32 * (key % 2048) + i)),
      ~~~s.pendingMask (pkgOf core) key) ∧ s.SameCaches X ∧ SameMemory s X := by
  have hreads : s.Reads ((s.readGranule (pkgOf core) f (key % 2048)).1.updPkg (pkgOf core) (·.touch f)) :=
    (State.reads_readGranule s (pkgOf core) f (key % 2048)).trans (.updPkg _ _ rfl)
  refine ⟨_, ?_, (hreads.looks 0).sameCaches, hreads.sameMemory⟩
  unfold State.pullMem
  dsimp only
  rw [hh, hf, if_neg (by decide)]
  dsimp only
  rw [hserves, if_pos rfl]
  unfold State.pendingMask
  rw [(State.reads_readGranule s (pkgOf core) f (key % 2048)).1]

/-- A package without a frame that serves reads gives nothing. -/
theorem pullMem_absent (hh : isHost (key / 2048) = false)
    (hno : ∀ f, (s.pkg (pkgOf core)).frameOf (key / 2048) = some f → ((s.pkg (pkgOf core)).tag f).state.serves = false) :
    s.pullMem (pkgOf core) key = none := by
  unfold State.pullMem
  dsimp only
  rw [hh, if_neg (by decide)]
  split
  · next f hf => rw [hno f hf, if_neg (by decide)]
  · rfl

/-- Where no level of the path has the sector, and L3 cannot take it, the package does not hold it. -/
theorem readSector_missing (hno : ∀ l ∈ corePath core, find (s.cache l).sectors key = none) (hm : mask ≠ 0)
    (h3 : s.pull key mask unord [.l3 (pkgOf core)] (pkgOf core) = none) : s.readSector core key mask 0 unord = (s, none) := by
  rw [State.readSector_narrow,
    State.pull_none (hno (.l1 core) (by simp [corePath])) (State.pull_none (hno (.l2 (dieOf core)) (by simp [corePath])) h3)]
  dsimp only
  rw [heldUnion_none hno hm]

/-- A local frame that serves reads gives its bytes to a read that no cache of the path serves. -/
theorem readSector_frame (hno : ∀ l ∈ corePath core, find (s.cache l).sectors key = none) (hh : isHost (key / 2048) = false) {f : Nat}
    (hf : (s.pkg (pkgOf core)).frameOf (key / 2048) = some f) (hserves : ((s.pkg (pkgOf core)).tag f).state.serves = true) :
    (mask &&& s.pendingMask (pkgOf core) key = 0 → ∃ s' bs, s.readSector core key mask 0 unord = (s', some bs) ∧
      (∀ i < 32, mask.getLsbD i = true → bs.getD i 0 = (s.pkg (pkgOf core)).byte f (32 * (key % 2048) + i)) ∧
      (∀ l ∈ corePath core, (s'.cache l).hits key mask = true) ∧ SameMemory s s') ∧
    (mask &&& s.pendingMask (pkgOf core) key ≠ 0 → s.readSector core key mask 0 unord = (s, none)) := by
  obtain ⟨X, hmem, hcaches, hsame⟩ := pullMem_frame (s := s) (core := core) (key := key) hh hf hserves
  obtain ⟨bs, hbs⟩ : ∃ bs, bs = (List.range 32).map fun i => (s.pkg (pkgOf core)).byte f (32 * (key % 2048) + i) := ⟨_, rfl⟩
  obtain ⟨good, hgood⟩ : ∃ good, good = ~~~s.pendingMask (pkgOf core) key := ⟨_, rfl⟩
  obtain ⟨Y, hY⟩ : ∃ Y, Y = X.fillLevel (.l3 (pkgOf core)) key bs good unord := ⟨_, rfl⟩
  rw [← hbs, ← hgood] at hmem
  have hno1 : find (s.cache (.l1 core)).sectors key = none := hno _ (by simp [corePath])
  have hno2 : find (s.cache (.l2 (dieOf core))).sectors key = none := hno _ (by simp [corePath])
  have hno3 : find (s.cache (.l3 (pkgOf core))).sectors key = none := hno _ (by simp [corePath])
  have hholds : Y.HoldsSector (.l3 (pkgOf core)) key good fun i => bs.getD i 0 :=
    hY ▸ State.holdsSector_fillLevel ((congrArg (fun x : Cache => find x.sectors key) (hcaches _)).trans hno3) bs good unord
  obtain ⟨hYmem, -, -, -, hYcache⟩ := X.fillLevel_frame (.l3 (pkgOf core)) key bs good unord
  rw [← hY] at hYmem hYcache
  have hY1 : find (Y.cache (.l1 core)).sectors key = none := by rw [hYcache _ (by simp), hcaches]; exact hno1
  have hY2 : find (Y.cache (.l2 (dieOf core))).sectors key = none := by rw [hYcache _ (by simp), hcaches]; exact hno2
  have hpull : s.pull key mask unord [.l3 (pkgOf core)] (pkgOf core) = if (mask &&& ~~~good) == 0 then some Y else none := by
    rw [State.pull, Cache.hits_none hno3, if_neg (by decide), hmem]
    dsimp only
    rw [← hY, hholds.hits mask]
  have hnot : mask &&& ~~~good = mask &&& s.pendingMask (pkgOf core) key := by rw [hgood, BitVec.not_not]
  rw [hnot] at hpull
  constructor
  · intro hm
    rw [hm, if_pos (beq_self_eq_true _)] at hpull
    obtain ⟨h2, h3⟩ := hholds.fillFrom (l := .l2 (dieOf core)) (by simp) hY2 unord
    obtain ⟨Z, hZ⟩ : ∃ Z, Z = Y.fillFrom (.l2 (dieOf core)) (.l3 (pkgOf core)) key unord := ⟨_, rfl⟩
    rw [← hZ] at h2 h3
    have hYZ : SameMemory Y Z := by
      rw [hZ]
      exact (Y.fillLevel_frame _ _ _ _ _).1
    have hZ1 : find (Z.cache (.l1 core)).sectors key = none := by
      rw [hZ, State.fillFrom, (Y.fillLevel_frame _ _ _ _ _).2.2.2.2 _ (by simp)]
      exact hY1
    obtain ⟨h1, h2'⟩ := h2.fillFrom (l := .l1 core) (by simp) hZ1 unord
    have h3' : (Z.fillFrom (.l1 core) (.l2 (dieOf core)) key unord).HoldsSector (.l3 (pkgOf core)) key good fun i => bs.getD i 0 :=
      h3.of_cache ((Z.fillLevel_frame _ _ _ _ _).2.2.2.2 _ (by simp))
    rw [← hnot] at hm
    obtain ⟨bs', hread, hbs'⟩ := State.readSector_pulled (s := s) (State.pull_next hno1 (hZ ▸ State.pull_next hno2 hpull)) h1 hm
    refine ⟨_, bs', hread, fun i hi hb => ?_, fun l hl => ?_, ?_⟩
    · rw [hbs' i hi hb, hbs, List.getD_eq_getElem _ _ (by simpa using hi), List.getElem_map, List.getElem_range]
    · have hzero : ((mask &&& ~~~good) == 0) = true := beq_iff_eq.mpr hm
      simp only [corePath, List.mem_cons, List.not_mem_nil, or_false] at hl
      obtain rfl | rfl | rfl := hl
      · rw [h1.hits, hzero]
      · rw [h2'.hits, hzero]
      · rw [h3'.hits, hzero]
    · exact hsame.trans (hYmem.trans (hYZ.trans (Z.fillLevel_frame _ _ _ _ _).1))
  · intro hm
    rw [if_neg (by simpa using hm)] at hpull
    refine readSector_missing hno (fun h0 => hm ?_) hpull
    rw [h0]
    exact BitVec.zero_and

theorem readSector_absent (hno : ∀ l ∈ corePath core, find (s.cache l).sectors key = none) (hh : isHost (key / 2048) = false)
    (hserve : ∀ f, (s.pkg (pkgOf core)).frameOf (key / 2048) = some f → ((s.pkg (pkgOf core)).tag f).state.serves = false) (hm : mask ≠ 0) :
    s.readSector core key mask 0 unord = (s, none) := by
  refine readSector_missing hno hm ?_
  rw [State.pull, Cache.hits_none (hno _ (by simp [corePath])), if_neg (by decide), pullMem_absent hh hserve]

end Reads

/-- A word that ends has gone on. -/
theorem Ends.completes {r : Res} {s2 : State} {tk : Nat} {t : Team} {ws : List (RegId × Nat × Word)} (h : Ends r s2 tk t ws) :
    ∃ (s2 : State) (t' : Team), r = .next (s2.setTeam tk t') ∧ t.Kept t' ∧ t.Next t' := by
  obtain ⟨t', he, hk, hn, -⟩ := h
  exact ⟨s2, t', he, hk, hn⟩

theorem EndsLong.completes {r : Res} {s2 : State} {tk : Nat} {t : Team} {ws : List (RegId × Nat × Word)} (h : EndsLong r s2 tk t ws) :
    ∃ (s2 : State) (t' : Team), r = .next (s2.setTeam tk t') ∧ t.Kept t' ∧ t.Next t' := by
  obtain ⟨t', he, hk, hn, -⟩ := h
  exact ⟨s2, t', he, hk, hn⟩

/-- FENCE completes once its release is done. -/
theorem fence_completes {h : Hdr} {f : MF} {s : State} {t : Team} (hi : s.Issues t (.fence h f) h) (hquiet : s.quiet s.cur t.serial = true)
    (hrel : f.ord = 1 ∨ f.scope.toNat < 5 ∨ t.relWait = none ∧ ((s.release (coreOf s.cur) 5).pkg (pkgOf (coreOf s.cur))).posted = []) :
    ∃ (s2 : State) (t' : Team), exec (.fence h f) s = .next (s2.setTeam s.cur t') ∧ t.Kept t' ∧ t.Next t' := by
  obtain ⟨hempty, -, hacquire, hnarrow, hsystem, -⟩ := fence_rule hi
  by_cases hact : t.act h = []
  · exact (hempty hact).completes
  by_cases ho : f.ord = 1
  · exact (hacquire hact hquiet ho).completes
  by_cases hsc : f.scope.toNat < 5
  · exact (hnarrow hact hquiet ho hsc).completes
  obtain ⟨hw, hposted⟩ := (hrel.resolve_left ho).resolve_left hsc
  exact ((hsystem hact hquiet ho (by omega) hw).1 hposted).completes

/-- Settles O15: a read pulls its sector along the path of its core, each level filled from the next; the checks of an access read. -/
theorem readsNearestLevelChecksKeepMemory : Obligations.ReadsNearestLevelChecksKeepMemory := by
  unfold Obligations.ReadsNearestLevelChecksKeepMemory
  refine ⟨?_, ?_, ?_⟩
  · intro s core key mask unord
    exact ⟨fun e he hh => readSector_l1 he hh, fun e h1 he hh => readSector_l2 h1 he hh, fun e h1 h2 he hh => readSector_l3 h1 h2 he hh,
      fun hno hh => ⟨fun f hf hserves => readSector_frame hno hh hf hserves, fun hserve hm => readSector_absent hno hh hserve hm⟩⟩
  · intro s tk t lanes ea n write rmw split lockCheck probe hd s1
    have hlook := State.looks_checkLanes s tk t lanes ea n write rmw split lockCheck probe
    exact ⟨hlook.sameMemory hd, hlook.teams, hlook.shares, hlook.requests, hlook.xfers⟩
  · intro h f s t core completes checked
    refine ⟨fun hi => ?_, fun hi hd hq => ?_, fun hi hc => ?_, fun hi hc => ?_, fun hi hrole hc => ?_,
      fun hi hquiet hrel => fence_completes hi hquiet hrel⟩
    · obtain ⟨s2, hends, -⟩ := pref_ends hi
      exact hends.completes
    · obtain ⟨s2, code, hends, -⟩ := fetch_hardware hi hd hq
      exact hends.completes
    · obtain ⟨s1, ls, hc⟩ := hc
      exact (cctlWb_ends hi hc).completes
    · obtain ⟨s1, ls, hc⟩ := hc
      exact (cctlInv_ends hi hc).completes
    · obtain ⟨s1, ls, hc⟩ := hc
      exact (cctlDiscard_ends hi hrole hc).completes

end Sys2Proof.Machine

/-! PROOFS. Atomics: their values, the operations on a sector, and the scratchpad's words (R134 to R136, R217). -/

namespace Sys2Proof.Machine

open Host

/-! ## The values of atomic operations (R134, R135) -/

theorem readF32_ofNat {x : Nat} (h : x < 2 ^ 32) : readF32 false (.ofNat 32 x) = decodeNum .fp32 x := by
  unfold readF32
  rw [BitVec.toNat_ofNat, Nat.mod_eq_of_lt h]
  cases decodeNum .fp32 x <;> rfl

/-- The new value of each atomic operation. -/
theorem atomicRule (op n : Nat) (sx : Bool) (old a b : Nat) (hop : op ≤ 8) (hn : op = 1 → n = 4) (hold : old < 2 ^ (8 * n)) (ha : a < 2 ^ (8 * n)) :
    AtomicRule op n sx old a b (atomNew op n sx old a b) := by
  have hmin (x y : Int) (u v : Nat) (hu : sext u (8 * n) = x) (hv : sext v (8 * n) = y) : sext (if y < x then v else u) (8 * n) = min x y := by
    split <;> omega
  have hmax (x y : Int) (u v : Nat) (hu : sext u (8 * n) = x) (hv : sext v (8 * n) = y) : sext (if x < y then v else u) (8 * n) = max x y := by
    split <;> omega
  match op, hop with
  | 0, _ => exact rfl
  | 1, _ =>
    obtain rfl := hn rfl
    refine ⟨_, sumOf_add .rne _ _, ?_⟩
    show (round .fp32 .rne false false ((readF32 false (.ofNat 32 old)).add .rne (readF32 false (.ofNat 32 a)))).enc.toNat = _
    rw [readF32_ofNat hold, readF32_ofNat ha]
  | 2, _ =>
    cases sx with
    | true => exact ⟨by show (ite _ _ _ = _ ∨ ite _ _ _ = _); split <;> simp, hmin _ _ _ _ rfl rfl⟩
    | false => exact ⟨min_choice old a, rfl⟩
  | 3, _ =>
    cases sx with
    | true => exact ⟨by show (ite _ _ _ = _ ∨ ite _ _ _ = _); split <;> simp, hmax _ _ _ _ rfl rfl⟩
    | false => exact ⟨max_choice old a, rfl⟩
  | 4, _ => exact fun i => Nat.testBit_and old a i
  | 5, _ => exact fun i => Nat.testBit_or old a i
  | 6, _ => exact fun i => Nat.testBit_xor old a i
  | 7, _ => exact rfl
  | 8, _ => exact rfl

/-! ## Operations on the bytes of a sector (R135, R136) -/

/-- An operation lies within its sector. -/
def AtomOp.inSector (o : AtomOp) : Prop := o.off + o.size ≤ 32

/-- The bytes of an operation, as a mask. -/
def AtomOp.mask (o : AtomOp) : BitVec 32 := BitVec.ofNat 32 ((2 ^ o.size - 1) * 2 ^ o.off)

theorem AtomOp.getLsbD_mask (o : AtomOp) {i : Nat} (hi : i < 32) : o.mask.getLsbD i = (decide (o.off ≤ i) && decide (i < o.off + o.size)) := by
  unfold AtomOp.mask
  rw [BitVec.getLsbD_ofNat, Nat.testBit_mul_two_pow, Nat.testBit_two_pow_sub_one]
  simp only [hi, decide_true, Bool.true_and]
  by_cases h : o.off ≤ i
  · simp only [h, decide_true, Bool.true_and, decide_eq_decide]
    omega
  · simp [h]

/-- One operation on the bytes of a sector. -/
def AtomOp.on (o : AtomOp) (bs : List Byte) : List Byte × Nat :=
  let old := natOfBytes ((bs.drop o.off).take o.size)
  (splice bs o.off (bytesOf o.size (atomNew o.op o.size o.sx old o.a o.b)), old)

theorem splice_eq {bs xs : List Byte} {at_ : Nat} (hb : bs.length = 32) (hx : at_ + xs.length ≤ 32) :
    splice bs at_ xs = (List.range 32).map fun i => if at_ ≤ i ∧ i < at_ + xs.length then xs.getD (i - at_) 0 else bs.getD i 0 := by
  unfold splice
  apply List.ext_getElem
  · simp; omega
  · intro i h1 h2
    have hi : i < 32 := by simpa using h2
    rw [List.getElem_map, List.getElem_range]
    by_cases hlt : i < at_
    · rw [if_neg (by omega), List.getElem_append_left (by simp; omega), List.getElem_append_left (by simp; omega), List.getElem_take,
        List.getD_eq_getElem _ _ (by omega)]
    · by_cases hin : i < at_ + xs.length
      · rw [if_pos (by omega), List.getElem_append_left (by simp; omega), List.getElem_append_right (by simp; omega),
        List.getD_eq_getElem _ _ (by omega)]
        congr 1
        simp; omega
      · rw [if_neg (by omega), List.getElem_append_right (by simp; omega), List.getElem_drop, List.getD_eq_getElem _ _ (by omega)]
        congr 1
        simp; omega

/-- Operations one after another: the bytes at last, those touched, and the old values, behind what came before. -/
theorem applyOps_from (ops : List AtomOp) : ∀ (bs : List Byte) (m : BitVec 32) (olds : List Nat), bs.length = 32 → (∀ o ∈ ops, o.inSector) →
    ops.foldl (fun acc o => ((o.on acc.1).1, acc.2.1 ||| o.mask, acc.2.2 ++ [(o.on acc.1).2])) (bs, m, olds) =
      ((atomSeq bs ops).1, ops.foldl (fun m o => m ||| o.mask) m, olds ++ (atomSeq bs ops).2) := by
  induction ops with
  | nil => exact fun bs m olds _ _ => by simp [atomSeq]
  | cons o ops ih =>
    intro bs m olds hb hin
    have ho : o.off + o.size ≤ 32 := hin o List.mem_cons_self
    have hon : (o.on bs).1 = (List.range 32).map fun i => if o.off ≤ i ∧ i < o.off + o.size then
        (bytesOf o.size (atomNew o.op o.size o.sx (o.on bs).2 o.a o.b)).getD (i - o.off) 0 else bs.getD i 0 := by
      have hsplice := splice_eq (xs := bytesOf o.size (atomNew o.op o.size o.sx (o.on bs).2 o.a o.b)) (at_ := o.off) hb (by rw [length_bytesOf]; exact ho)
      rw [length_bytesOf] at hsplice
      exact hsplice
    have hseq : atomSeq bs (o :: ops) = ((atomSeq (o.on bs).1 ops).1, (o.on bs).2 :: (atomSeq (o.on bs).1 ops).2) := by
      rw [hon]
      rfl
    rw [List.foldl_cons, ih _ _ _ (by rw [hon]; simp) fun o' ho' => hin o' (List.mem_cons_of_mem _ ho'), hseq, List.append_assoc]
    rfl

/-- The bytes that operations touch. -/
def opsMask (ops : List AtomOp) : BitVec 32 := ops.foldl (fun m o => m ||| o.mask) 0

theorem applyOps_eq {bs : List Byte} {ops : List AtomOp} (hb : bs.length = 32) (hin : ∀ o ∈ ops, o.inSector) :
    applyOps bs ops = ((atomSeq bs ops).1, opsMask ops, (atomSeq bs ops).2) := applyOps_from ops bs 0 [] hb hin

/-- A byte that no operation touches stays. -/
theorem atomSeq_untouched {i : Nat} (hi : i < 32) (ops : List AtomOp) : ∀ bs : List Byte, (∀ o ∈ ops, o.mask.getLsbD i = false) →
    (atomSeq bs ops).1.getD i 0 = bs.getD i 0 := by
  induction ops with
  | nil => exact fun bs _ => rfl
  | cons o ops ih =>
    intro bs hno
    have ho := hno o List.mem_cons_self
    rw [o.getLsbD_mask hi] at ho
    refine (ih _ fun o' ho' => hno o' (List.mem_cons_of_mem _ ho')).trans ?_
    rw [List.getD_eq_getElem _ _ (by simpa using hi), List.getElem_map, List.getElem_range, if_neg]
    rintro ⟨h1, h2⟩
    simp [h1, h2] at ho

theorem getLsbD_opsMask (ops : List AtomOp) (i : Nat) : (opsMask ops).getLsbD i = ops.any fun o => o.mask.getLsbD i := by
  have hfold (l : List AtomOp) : ∀ m : BitVec 32,
    (l.foldl (fun m o => m ||| o.mask) m).getLsbD i = (m.getLsbD i || l.any fun o => o.mask.getLsbD i) := by
    induction l with
    | nil => simp
    | cons o l ih =>
      intro m
      rw [List.foldl_cons, ih, BitVec.getLsbD_or, Bool.or_assoc]
      rfl
  refine (hfold ops 0).trans ?_
  rw [BitVec.ofNat_eq_ofNat, BitVec.getLsbD_zero, Bool.false_or]

theorem atomSeq_off_mask {ops : List AtomOp} {i : Nat} (hi : i < 32) (hm : (opsMask ops).getLsbD i = false) (bs : List Byte) :
    (atomSeq bs ops).1.getD i 0 = bs.getD i 0 := by
  rw [getLsbD_opsMask] at hm
  refine atomSeq_untouched hi ops bs fun o ho => ?_
  simpa using List.any_eq_false.mp hm o ho

theorem length_atomSeq (ops : List AtomOp) : ∀ bs : List Byte, bs.length = 32 → (atomSeq bs ops).1.length = 32 := by
  induction ops with
  | nil => exact fun bs hb => hb
  | cons o ops ih => exact fun bs _ => ih _ (by simp)

/-! ## Operations where they stand (R135, R136) -/

/-- Where a write of a package is performed at once. -/
theorem State.writesHere_iff {s : State} {p key : Nat} (hh : isHost (key / 2048) = false) : s.writesHere p key = true ↔
    ∃ f, (s.pkg p).frameOf (key / 2048) = some f ∧ ((s.pkg p).tag f).state = .masterExcl ∧ ((s.pkg p).tag f).twin = false ∧
      s.busy p (key / 2048) = false ∧ s.sectorBusy p key = false := by
  unfold State.writesHere
  rw [hh, Bool.false_or]
  cases (s.pkg p).frameOf (key / 2048) with
  | none => simp
  | some f => simp [and_assoc]

theorem State.writeGranule_frame (s : State) (p f sec : Nat) (bs : List Byte) (mask : BitVec 32) :
    (s.writeGranule p f sec bs mask).1 = { s with pkgs := (s.writeGranule p f sec bs mask).1.pkgs } := by
  have hread := (State.reads_readGranule s p f sec).1
  unfold State.writeGranule
  dsimp only
  split
  · rfl
  split
  · rfl
  split
  · show ((s.readGranule p f sec).1.addHist p f sec 4 63) = _
    unfold State.addHist
    rw [hread]
    rfl
  · dsimp only
    unfold State.updPkg State.setPkg
    rw [hread]

section Here

variable {s : State} {core key : Nat} {ops : List AtomOp}

/-- Operations in host memory. -/
theorem atomicHere_host (hin : ∀ o ∈ ops, o.inSector) (hh : isHost (key / 2048) = true) :
    let bs := s.hostBytes (hostAddr (key / 2048) (32 * (key % 2048))) 32
    s.atomicHere core key ops = some (s.setHostBytes (hostAddr (key / 2048) (32 * (key % 2048))) (atomSeq bs ops).1, (atomSeq bs ops).2) := by
  intro bs
  unfold State.atomicHere
  dsimp only
  rw [if_pos hh, applyOps_eq (by simp [State.hostBytes]) hin]

/-- Operations in a local frame that may be written at once. -/
theorem atomicHere_frame (hin : ∀ o ∈ ops,
  o.inSector) (hh : isHost (key / 2048) = false) {fr : Nat} (hf : (s.pkg (pkgOf core)).frameOf (key / 2048) = some fr)
    (hw : s.writesHere (pkgOf core) key = true) :
    let r := atomSeq ((List.range 32).map fun i => (s.pkg (pkgOf core)).byte fr (32 * (key % 2048) + i)) ops
    s.atomicHere core key ops = some (((s.writeGranule (pkgOf core) fr (key % 2048) r.1 (opsMask ops)).1).updPkg (pkgOf core) (·.touch fr), r.2) := by
  intro r
  unfold State.atomicHere
  dsimp only
  rw [hh, if_neg (by decide), hf]
  dsimp only
  rw [if_pos hw, applyOps_eq (by simp) hin]

/-- Operations elsewhere are asked for. -/
theorem atomicHere_elsewhere (hh : isHost (key / 2048) = false) (hw : ¬s.writesHere (pkgOf core) key = true) : s.atomicHere core key ops = none := by
  unfold State.atomicHere
  dsimp only
  rw [hh, if_neg (by decide)]
  split
  · rw [if_neg hw]
  · rfl

/-- What operations in a local frame leave: the sector's bytes behind them, and every other byte. -/
theorem atomicHere_bytes (hin : ∀ o ∈ ops,
  o.inSector) (hh : isHost (key / 2048) = false) {fr : Nat} (hf : (s.pkg (pkgOf core)).frameOf (key / 2048) = some fr)
    (hw : s.writesHere (pkgOf core) key = true) (hp : find (s.pkg (pkgOf core)).poison (2048 * fr + key % 2048) = none)
    (he : find (s.pkg (pkgOf core)).symErr (2048 * fr + key % 2048) = none) :
    let r := atomSeq ((List.range 32).map fun i => (s.pkg (pkgOf core)).byte fr (32 * (key % 2048) + i)) ops
    ∃ s', s.atomicHere core key ops = some (s', r.2) ∧
      (∀ q f off, off < 65536 → (s'.pkg q).byte f off =
        if q = pkgOf core ∧ f = fr ∧ off / 32 = key % 2048 then r.1.getD (off % 32) 0 else (s.pkg q).byte f off) ∧
      s' = { s with pkgs := s'.pkgs } := by
  intro r
  have hsec : key % 2048 < 2048 := Nat.mod_lt _ (by decide)
  obtain ⟨hok, hbytes, hother, -⟩ := s.writeGranule_spec (pkgOf core) fr (key % 2048) r.1 (opsMask ops) hsec (length_atomSeq ops _ (by simp))
  have hwritten := hok.mpr (.inr ⟨hp, fun n hn => by rw [he] at hn; exact nomatch hn⟩)
  refine ⟨_, atomicHere_frame hin hh hf hw, fun q f off ho => ?_, ?_⟩
  · have htouch : ((((s.writeGranule (pkgOf core) fr (key % 2048) r.1 (opsMask ops)).1).updPkg (pkgOf core) (·.touch fr)).pkg q).byte f off =
        (((s.writeGranule (pkgOf core) fr (key % 2048) r.1 (opsMask ops)).1).pkg q).byte f off := by
      by_cases hq : q = pkgOf core
      · rw [hq, State.pkg_updPkg]
        rfl
      · rw [State.pkg_updPkg_other _ _ hq]
    rw [htouch]
    by_cases hq : q = pkgOf core
    · subst hq
      rw [hbytes f off ho]
      by_cases hplace : f = fr ∧ off / 32 = key % 2048
      · obtain ⟨rfl, hdiv⟩ := hplace
        by_cases hbit : (opsMask ops).getLsbD (off % 32) = true
        · rw [if_pos ⟨hwritten, rfl, hdiv, hbit⟩, if_pos ⟨rfl, rfl, hdiv⟩]
        · have hlt : off % 32 < 32 := Nat.mod_lt _ (by decide)
          rw [if_neg fun hc => hbit hc.2.2.2, if_pos ⟨rfl, rfl, hdiv⟩, atomSeq_off_mask hlt (Bool.eq_false_iff.mpr hbit),
            List.getD_eq_getElem _ _ (by simpa using hlt), List.getElem_map, List.getElem_range]
          congr 1
          omega
      · rw [if_neg fun hc => hplace ⟨hc.2.1, hc.2.2.1⟩, if_neg fun hc => hplace hc.2]
    · rw [if_neg fun hc => hq hc.1, hother q hq]
  · rw [State.writeGranule_frame]
    rfl

end Here

/-- One atomic in a local frame: the lane's old value, the new one at its place, every other byte as it was. -/
theorem atomicHere_one (s : State) (core key fr : Nat) (o : AtomOp) (hh : isHost (key / 2048) = false)
    (hf : (s.pkg (pkgOf core)).frameOf (key / 2048) = some fr) (hw : s.writesHere (pkgOf core) key = true)
    (hp : find (s.pkg (pkgOf core)).poison (2048 * fr + key % 2048) = none)
    (he : find (s.pkg (pkgOf core)).symErr (2048 * fr + key % 2048) = none) (hin : o.off + o.size ≤ 32) :
    let p := pkgOf core
    let old := natOfBytes ((List.range o.size).map fun i => (s.pkg p).byte fr (32 * (key % 2048) + o.off + i))
    let new := atomNew o.op o.size o.sx old o.a o.b
    ∃ s', s.atomicHere core key [o] = some (s', [old]) ∧
      (∀ i < o.size, (s'.pkg p).byte fr (32 * (key % 2048) + o.off + i) = BitVec.ofNat 8 (new / 2 ^ (8 * i))) ∧
      (∀ q f off, off < 65536 → ¬(q = p ∧ f = fr ∧ 32 * (key % 2048) + o.off ≤ off ∧ off < 32 * (key % 2048) + o.off + o.size) →
        (s'.pkg q).byte f off = (s.pkg q).byte f off) ∧
      s'.hostMem = s.hostMem ∧ s'.shares = s.shares ∧ s'.teams = s.teams := by
  intro p old new
  obtain ⟨bs, hbs⟩ : ∃ bs, bs = (List.range 32).map fun i => (s.pkg p).byte fr (32 * (key % 2048) + i) := ⟨_, rfl⟩
  have hsec : key % 2048 < 2048 := Nat.mod_lt _ (by decide)
  have hbyte {i : Nat} (hi : i < 32) : bs.getD i 0 = (s.pkg p).byte fr (32 * (key % 2048) + i) := by
    rw [hbs, List.getD_eq_getElem _ _ (by simpa using hi), List.getElem_map, List.getElem_range]
  have hold : natOfBytes ((bs.drop o.off).take o.size) = old := by
    refine congrArg natOfBytes ?_
    apply List.ext_getElem
    · simp [hbs]; omega
    · intro i h1 h2
      simp [hbs, Nat.add_assoc]
  have hnew {i : Nat} (hi : i < 32) : (atomSeq bs [o]).1.getD i 0 =
      if o.off ≤ i ∧ i < o.off + o.size then BitVec.ofNat 8 (new / 2 ^ (8 * (i - o.off))) else bs.getD i 0 := by
    show ((List.range 32).map fun i => if o.off ≤ i ∧ i < o.off + o.size then
      (bytesOf o.size (atomNew o.op o.size o.sx (natOfBytes ((bs.drop o.off).take o.size)) o.a o.b)).getD (i - o.off) 0 else bs.getD i 0).getD i 0 = _
    rw [List.getD_eq_getElem _ _ (by simpa using hi), List.getElem_map, List.getElem_range, hold]
    by_cases hat : o.off ≤ i ∧ i < o.off + o.size
    · rw [if_pos hat, if_pos hat, bytesOf_eq_map, List.getD_eq_getElem _ _ (by simp; omega), List.getElem_map, List.getElem_range, pow_mul]
      rfl
    · rw [if_neg hat, if_neg hat]
  obtain ⟨s', hs', hall, hframe⟩ := atomicHere_bytes (s := s) (core := core) (key := key) (ops := [o])
    (fun o' ho' => by rw [List.mem_singleton.mp ho']; exact hin) hh hf hw hp he
  rw [← hbs] at hs' hall
  refine ⟨s', by rw [hs', ← hold]; rfl, fun i hi => ?_, fun q f off ho hno => ?_, by rw [hframe], by rw [hframe], by rw [hframe]⟩
  · have hi32 : (32 * (key % 2048) + o.off + i) % 32 = o.off + i := by omega
    rw [hall p fr _ (by omega), if_pos ⟨rfl, rfl, by omega⟩, hi32, hnew (by omega), if_pos (by omega), Nat.add_sub_cancel_left]
  · rw [hall q f off ho]
    by_cases hplace : q = pkgOf core ∧ f = fr ∧ off / 32 = key % 2048
    · obtain ⟨rfl, rfl, hdiv⟩ := hplace
      have hlt : off % 32 < 32 := Nat.mod_lt _ (by decide)
      rw [if_pos ⟨rfl, rfl, hdiv⟩, hnew hlt, if_neg, hbyte hlt]
      · congr 1
        omega
      · rintro ⟨h1, h2⟩
        exact hno ⟨rfl, rfl, by omega, by omega⟩
    · rw [if_neg hplace]

/-! ## Atomics of the scratchpad (R135, R136, R217) -/

/-- The operands of a lane, as the operations take them. -/
theorem atomArgs_mod (t : Team) (f : MF) (op L : Nat) : ((atomArgs t f (op == 8) L).1 % 2 ^ (8 * sizeBytes f.size) = (atomicArgs t f op L).1) ∧
    (atomArgs t f (op == 8) L).2 % 2 ^ (8 * sizeBytes f.size) = (atomicArgs t f op L).2 := by
  unfold atomArgs atomicArgs
  dsimp only
  by_cases h3 : f.size = 3
  · have hlt (x : Word) : x.toNat % 2 ^ (8 * sizeBytes f.size) = x.toNat := by
      rw [h3]
      exact Nat.mod_eq_of_lt x.isLt
    rw [if_pos h3, if_pos h3]
    refine ⟨hlt _, ?_⟩
    by_cases h8 : op = 8
    · simp only [h8, beq_self_eq_true, if_true]
      exact hlt _
    · simp [h8]
  · rw [if_neg h3, if_neg h3]
    refine ⟨rfl, ?_⟩
    by_cases h8 : op = 8
    · simp [h8]
    · simp [h8]

/-- The parts of lanes' old values, lane by lane. -/
theorem oldParts_cons (f : MF) (L : Nat) (ls : List Nat) (v : Nat) (olds : List Nat) : oldParts f (L :: ls) (v :: olds) =
    atomParts f.data.toNat (sizeBytes f.size) L ((bytesOf (sizeBytes f.size) v).map .known) ++ oldParts f ls olds := rfl

/-- The lanes of a scratchpad atomic one after another. -/
theorem foldl_spAtomics (t : Team) (f : MF) (op : Nat) (ls : List (Nat × Nat × Nat)) : ∀ (s : State) (ps : List Part),
    ls.foldl (fun (acc : State × List Part) x =>
      (acc.1.setSpBytes x.2.1 x.2.2 (bytesOf (sizeBytes f.size) (atomNew op (sizeBytes f.size) f.sx (acc.1.spNat x.2.1 x.2.2 (sizeBytes f.size))
        ((atomArgs t f (op == 8) x.1).1 % 2 ^ (8 * sizeBytes f.size)) ((atomArgs t f (op == 8) x.1).2 % 2 ^ (8 * sizeBytes f.size)))),
      acc.2 ++ atomParts f.data.toNat (sizeBytes f.size) x.1 ((bytesOf (sizeBytes f.size) (acc.1.spNat x.2.1 x.2.2 (sizeBytes f.size))).map .known))) (s, ps) =
      ((spAtomics t f op s ls).1, ps ++ oldParts f (ls.map (·.1)) (spAtomics t f op s ls).2) := by
  induction ls with
  | nil => exact fun s ps => by simp [spAtomics, oldParts]
  | cons x ls ih =>
    intro s ps
    rw [List.foldl_cons, ih, (atomArgs_mod t f op x.1).1, (atomArgs_mod t f op x.1).2, List.append_assoc]
    rfl

theorem sharesOnly_trans {a b c : State} (hb : b = { a with shares := b.shares }) (hc : c = { b with shares := c.shares }) :
    c = { a with shares := c.shares } := by
  rw [hb] at hc
  exact hc

theorem spAtomics_frame (t : Team) (f : MF) (op : Nat) (ls : List (Nat × Nat × Nat)) : ∀ s : State,
    (spAtomics t f op s ls).1 = { s with shares := (spAtomics t f op s ls).1.shares } := by
  induction ls with
  | nil => exact fun s => rfl
  | cons x ls ih => exact fun s => sharesOnly_trans (s.setSpBytes_frame x.2.1 x.2.2 _).1 (ih _)

theorem stale_oldParts (f : MF) (ls olds : List Nat) : ∀ q ∈ oldParts f ls olds, q.stale = false := by
  intro q hq
  obtain ⟨y, -, hq⟩ := List.mem_flatMap.mp hq
  exact stale_loadParts _ _ _ _ _ q hq

/-- A team that has not written waits for what it waited for. -/
theorem Team.awaits_nil (t : Team) : t.Awaits t [] := fun _ _ _ => ⟨rfl, rfl⟩

/-- What an atomic writes of its results. -/
def atomResults (u : Team) (ret : Bool) (ps : List Part) : Team := if ret then u.writeLong ps else u

theorem awaits_atomResults (u : Team) (ret : Bool) {ps : List Part} (hs : ∀ q ∈ ps, q.stale = false) :
    u.Awaits (atomResults u ret ps) (if ret then ps else []) ∧ u.Kept (atomResults u ret ps) ∧ (atomResults u ret ps).stepping = u.stepping ∧
      (atomResults u ret ps).pc = u.pc ∧ (atomResults u ret ps).word = u.word := by
  cases ret with
  | true => exact ⟨u.awaits_writeLong hs, u.kept_writeLong ps, rfl, rfl, rfl⟩
  | false => exact ⟨u.awaits_nil, rfl, rfl, rfl, rfl⟩

section Sp

variable {h : Hdr} {f : MF} {s : State} {t : Team}

/-- A scratchpad atomic behind its release. -/
def spAtomicAct (tk : Nat) (t : Team) (f : MF) (op : Nat) (ret : Bool) (ls : List (Nat × Nat × Nat)) (X : State) : Act :=
  let r := spAtomics t f op X ls
  .retire (((r.1.noteWrite (some tk) (ls.flatMap fun x => spLocs x.2.1 x.2.2 (sizeBytes f.size))).updTeam tk fun u =>
    (atomResults u ret (oldParts f (ls.map (·.1)) r.2)).addPasses (extraPasses ls (sizeBytes f.size) false)).acquireIf (coreOf tk) (min f.scope.toNat 2)
      (f.ord.toNat = 1 || f.ord.toNat = 3))

theorem atomicSp_eq {op : Nat} {ret : Bool} {ls : List (Nat × Nat × Nat)} (hc : s.checkSpLanes t (t.act h) (addrScratch f t) (sizeBytes f.size) true = .ok ls)
    (tk : Nat) : atomicSp h f op ret s tk t = if 2 ≤ f.ord.toNat then releaseThen s tk t (min f.scope.toNat 2) (spAtomicAct tk t f op ret ls)
      else spAtomicAct tk t f op ret ls s := by
  have hbody : (fun X : State => Act.retire ((((ls.foldl (fun (acc : State × List Part) x =>
      (acc.1.setSpBytes x.2.1 x.2.2 (bytesOf (sizeBytes f.size) (atomNew op (sizeBytes f.size) f.sx (acc.1.spNat x.2.1 x.2.2 (sizeBytes f.size))
        ((atomArgs t f (op == 8) x.1).1 % 2 ^ (8 * sizeBytes f.size)) ((atomArgs t f (op == 8) x.1).2 % 2 ^ (8 * sizeBytes f.size)))),
      acc.2 ++ atomParts f.data.toNat (sizeBytes f.size) x.1 ((bytesOf (sizeBytes f.size) (acc.1.spNat x.2.1 x.2.2 (sizeBytes f.size))).map .known)))
        (X, [])).1.noteWrite (some tk) (ls.flatMap fun x => spLocs x.2.1 x.2.2 (sizeBytes f.size))).updTeam tk fun u =>
        (if ret then u.writeLong (ls.foldl (fun (acc : State × List Part) x =>
      (acc.1.setSpBytes x.2.1 x.2.2 (bytesOf (sizeBytes f.size) (atomNew op (sizeBytes f.size) f.sx (acc.1.spNat x.2.1 x.2.2 (sizeBytes f.size))
        ((atomArgs t f (op == 8) x.1).1 % 2 ^ (8 * sizeBytes f.size)) ((atomArgs t f (op == 8) x.1).2 % 2 ^ (8 * sizeBytes f.size)))),
      acc.2 ++ atomParts f.data.toNat (sizeBytes f.size) x.1 ((bytesOf (sizeBytes f.size) (acc.1.spNat x.2.1 x.2.2 (sizeBytes f.size))).map .known)))
        (X, [])).2 else u).addPasses (extraPasses ls (sizeBytes f.size) false)).acquireIf (coreOf tk) (min f.scope.toNat 2)
        (f.ord.toNat = 1 || f.ord.toNat = 3))) = spAtomicAct tk t f op ret ls := by
    funext X
    rw [foldl_spAtomics]
    rfl
  unfold atomicSp
  dsimp only
  rw [show s.checkSpLanes t (t.act h) (fun L => (eaScratch t f L).toNat) (sizeBytes f.size) true = .ok ls from hc, ← hbody]
  rfl

/-- What the statement asks of a scratchpad atomic, from what the word goes on with. -/
theorem spAtomic_rule {i : Instr} {op : Nat} {ret : Bool} {ls : List (Nat × Nat × Nat)} (hi : s.Issues t i h)
    (he : exec i s = .next ((atomicSp h f op ret s s.cur t).finish s.cur h.z))
    (hc : s.checkSpLanes t (t.act h) (addrScratch f t) (sizeBytes f.size) true = .ok ls) (hq : 2 ≤ f.ord.toNat → s.quiet s.cur t.serial = true) :
    let core := coreOf s.cur
    let sc := min f.scope.toNat 2
    let r := spAtomics t f op (if 2 ≤ f.ord.toNat then s.release core sc else s) ls
    let s2 := r.1.noteWrite (some s.cur) (ls.flatMap fun x => spLocs x.2.1 x.2.2 (sizeBytes f.size))
    let ps := if ret then oldParts f (ls.map (·.1)) r.2 else []
    let u := { t with spextra := t.spextra + BitVec.ofNat 32 (extraPasses ls (sizeBytes f.size) false) }
    (f.ord ≠ 1 → f.ord ≠ 3 → EndsParts (exec i s) s2 s.cur u ps) ∧
    (f.ord = 1 ∨ f.ord = 3 → ∃ t1, u.Kept t1 ∧ u.Awaits t1 ps ∧ t1.pc = t.pc ∧ t1.word = t.word ∧
      Ends (exec i s) ((s2.setTeam s.cur t1).acquire core sc) s.cur t1 []) := by
  intro core sc r s2 ps u
  obtain ⟨X, hX⟩ : ∃ X, X = if 2 ≤ f.ord.toNat then s.release core sc else s := ⟨_, rfl⟩
  have hXteam : X.team s.cur = some t := by
    rw [hX]
    split
    · exact ((State.flows_release s core sc).team s.cur).trans hi.1
    · exact hi.1
  have hteam : s2.team s.cur = some t := by
    have hr : r = spAtomics t f op X ls := by rw [hX]
    rw [State.team_noteWrite, hr, spAtomics_frame]
    show (X.team s.cur).map _ = _
    rw [hXteam]
    exact congrArg some (if_pos rfl)
  have hstale := stale_oldParts f (ls.map (·.1)) r.2
  obtain ⟨hawaits, hkept, hstep, hpc, hword⟩ := awaits_atomResults u ret hstale
  obtain ⟨v, hv⟩ : ∃ v, v = atomResults u ret (oldParts f (ls.map (·.1)) r.2) := ⟨_, rfl⟩
  rw [← hv] at hawaits hkept hstep hpc hword
  have hs : v.stepping = none := hstep.trans hi.2.2.2.2
  have hadd : (atomResults t ret (oldParts f (ls.map (·.1)) r.2)).addPasses (extraPasses ls (sizeBytes f.size) false) = v := by
    rw [hv]
    cases ret <;> rfl
  have hgo : exec i s = .next ((Act.retire ((s2.setTeam s.cur v).acquireIf core sc (f.ord.toNat = 1 || f.ord.toNat = 3))).finish s.cur h.z) := by
    have hact : atomicSp h f op ret s s.cur t = spAtomicAct s.cur t f op ret ls X := by
      rw [atomicSp_eq hc, hX]
      by_cases ho : 2 ≤ f.ord.toNat
      · rw [if_pos ho, if_pos ho, releaseThen_released ⟨hq ho, rfl, .inl (by omega)⟩]
      · rw [if_neg ho, if_neg ho]
    rw [he, hact]
    unfold spAtomicAct
    dsimp only
    rw [show spAtomics t f op X ls = r by rw [hX],
      show r.1.noteWrite (some s.cur) (ls.flatMap fun x => spLocs x.2.1 x.2.2 (sizeBytes f.size)) = s2 from rfl,
      State.updTeam_some hteam, hadd]
  have hord (k : BitVec 2) : f.ord.toNat = k.toNat ↔ f.ord = k := BitVec.toNat_inj
  rw [hgo]
  constructor
  · intro h1 h3
    have hfalse : (decide (f.ord.toNat = 1) || decide (f.ord.toNat = 3)) = false := by
      rw [Bool.or_eq_false_iff, decide_eq_false_iff_not, decide_eq_false_iff_not]
      exact ⟨fun e => h1 ((hord 1).mp e), fun e => h3 ((hord 3).mp e)⟩
    rw [hfalse]
    exact endsParts_retire (State.team_setTeam _ _ _) hs (fun x => State.setTeam_setTeam _ _ _ _) hkept ⟨hpc, hword⟩ hawaits
  · intro h13
    have htrue : (decide (f.ord.toNat = 1) || decide (f.ord.toNat = 3)) = true := by
      rw [Bool.or_eq_true, decide_eq_true_eq, decide_eq_true_eq]
      exact h13.imp (hord 1).mpr (hord 3).mpr
    rw [htrue]
    exact ⟨v, hkept, hawaits, hpc, hword, acquire_endsAcq s2 hs sc h.z⟩

theorem exec_atomicSp_eq (hi : s.Issues t (.atomsCas h f) h) : exec (.atomsCas h f) s = .next ((atomicSp h f 8 true s s.cur t).finish s.cur h.z) := by
  show execAtomsCas h f s = _
  unfold execAtomsCas
  rw [issue_next hi]

theorem exec_atoms_eq {op : BitVec 3} (hi : s.Issues t (.atoms h op f) h) :
    exec (.atoms h op f) s = .next ((atomicSp h f op.toNat true s s.cur t).finish s.cur h.z) := by
  show execAtoms h op f s = _
  unfold execAtoms
  rw [issue_next hi]

theorem exec_reds_eq {op : BitVec 3} (hi : s.Issues t (.reds h op f) h) :
    exec (.reds h op f) s = .next ((atomicSp h f op.toNat false s s.cur t).finish s.cur h.z) := by
  show execReds h op f s = _
  unfold execReds
  rw [issue_next hi]

end Sp

/-- Settles O19: the values by their operations, one operation of a sector, and the lanes of a scratchpad atomic one after another. -/
theorem atomicValuesAndScratchpadAtomics : Obligations.AtomicValuesAndScratchpadAtomics := by
  unfold Obligations.AtomicValuesAndScratchpadAtomics
  refine ⟨⟨fun op n sx old a b hop _ h1 hold ha _ => atomicRule op n sx old a b hop h1 hold ha, ?_⟩, ?_⟩
  · intro s core key fr o p g hh hf hst htw hbusy hsec hp he hin _
    exact atomicHere_one s core key fr o hh hf ((State.writesHere_iff hh).mpr ⟨fr, hf, hst, htw, hbusy, hsec⟩) hp he hin
  · intro h f s t ls core n sc out
    exact ⟨fun hi hc hq => spAtomic_rule hi (exec_atomicSp_eq hi) hc hq, fun op hi hc hq => spAtomic_rule hi (exec_atoms_eq hi) hc hq,
      fun op hi hc hq => spAtomic_rule hi (exec_reds_eq hi) hc hq⟩

end Sys2Proof.Machine

/-! PROOFS. Atomics of global memory (R135, R136, R230). -/

namespace Sys2Proof.Machine

open Host

/-! ## Atomics of global memory (R135, R136, R230) -/

/-- The operations of a sector's lanes. -/
def sectorOps (t : Team) (f : MF) (op : Nat) (mine : List (Nat × Word × Piece)) : List AtomOp :=
  mine.map fun x => ⟨x.1, x.2.2.addr % 32, sizeBytes f.size, op, f.sx, (atomicArgs t f op x.1).1, (atomicArgs t f op x.1).2⟩

/-- One sector of an atomic word: performed where the package holds it writable, asked for elsewhere. -/
def atomicSector (tk : Nat) (t : Team) (f : MF) (op : Nat) (ret : Bool) (flat : List (Nat × Word × Piece)) (acc : State × List Part × Bool) (key : Nat) :
    State × List Part × Bool :=
  let n := sizeBytes f.size
  let mine := flat.filter fun x => x.2.2.addr / 32 == key
  let ops := mine.map fun x =>
    let a := atomArgs t f (op == 8) x.1
    (⟨x.1, x.2.2.addr % 32, n, op, f.sx, a.1 % 2 ^ (8 * n), a.2 % 2 ^ (8 * n)⟩ : AtomOp)
  match acc.1.atomicHere (coreOf tk) key ops with
  | some (s, olds) =>
    (s.noteWrite (some tk) (mine.map fun x => .glob x.2.2.addr),
      acc.2.1 ++ (mine.zip olds).flatMap (fun y => atomParts f.data.toNat n y.1.1 ((bytesOf n y.2).map .known)), acc.2.2)
  | none =>
    let s := acc.1
    let r := s.fresh
    let w : Issuer :=
      { tk := tk, serial := t.serial, addr := t.here, lanes := mine.map fun x => (x.1, x.2.1), leaf := mine.head?.map fun x => x.2.2.leaf }
    let s := (s.addRequest (coreOf tk) key (BitVec.allOnes 32) (.atomic ops ret) w []).post (pkgOf (coreOf tk)) r
    (s, acc.2.1 ++ mine.zipIdx.flatMap (fun y => atomParts f.data.toNat n y.1.1 ((List.range n).map fun i => .await r (8 * y.2 + i))), true)

theorem oldParts_zip {α : Type} (f : MF) (mine : List (Nat × α)) (olds : List Nat) :
    (mine.zip olds).flatMap (fun y => atomParts f.data.toNat (sizeBytes f.size) y.1.1 ((bytesOf (sizeBytes f.size) y.2).map .known)) =
      oldParts f (mine.map (·.1)) olds := by
  unfold oldParts
  rw [List.zip_map_left, List.flatMap_map]
  rfl

/-- The sectors of an atomic word one after another. -/
theorem foldl_atomicSector (tk : Nat) (t : Team) (f : MF) (op : Nat) (ret : Bool) (flat : List (Nat × Word × Piece)) (keys : List Nat) :
    ∀ (s : State) (ps : List Part) (b : Bool), keys.foldl (atomicSector tk t f op ret flat) (s, ps, b) =
      ((globalAtomics tk t f op ret flat s keys).1, ps ++ (globalAtomics tk t f op ret flat s keys).2.1,
        b || (globalAtomics tk t f op ret flat s keys).2.2) := by
  induction keys with
  | nil => exact fun s ps b => by simp [globalAtomics]
  | cons key keys ih =>
    intro s ps b
    obtain ⟨mine, hmine⟩ : ∃ mine, mine = flat.filter fun x => x.2.2.addr / 32 == key := ⟨_, rfl⟩
    have hops : (mine.map fun x => (⟨x.1, x.2.2.addr % 32, sizeBytes f.size, op, f.sx, (atomArgs t f (op == 8) x.1).1 % 2 ^ (8 * sizeBytes f.size),
        (atomArgs t f (op == 8) x.1).2 % 2 ^ (8 * sizeBytes f.size)⟩ : AtomOp)) = sectorOps t f op mine :=
      List.map_congr_left fun x _ => by rw [(atomArgs_mod t f op x.1).1, (atomArgs_mod t f op x.1).2]
    rw [List.foldl_cons]
    unfold atomicSector globalAtomics
    dsimp only
    rw [← hmine, hops]
    rw [show (mine.map fun x => (⟨x.1, x.2.2.addr % 32, sizeBytes f.size, op, f.sx, (atomicArgs t f op x.1).1, (atomicArgs t f op x.1).2⟩ : AtomOp)) =
      sectorOps t f op mine from rfl]
    cases s.atomicHere (coreOf tk) key (sectorOps t f op mine) with
    | some r =>
      dsimp only
      refine (ih _ _ _).trans ?_
      rw [oldParts_zip, List.append_assoc]
    | none =>
      dsimp only
      refine (ih _ _ _).trans ?_
      rw [List.append_assoc, Bool.true_or, Bool.or_true]
      rfl

/-- Operations where they stand leave every team. -/
theorem team_atomicHere {s s' : State} {core key : Nat} {ops : List AtomOp} {olds : List Nat} (h : s.atomicHere core key ops = some (s',
  olds)) (tk : Nat) :
    s'.team tk = s.team tk := by
  unfold State.atomicHere at h
  dsimp only at h
  split at h
  · obtain ⟨rfl, -⟩ := Prod.mk.inj (Option.some.inj h)
    rfl
  · split at h
    · split at h
      · obtain ⟨rfl, -⟩ := Prod.mk.inj (Option.some.inj h)
        rw [State.writeGranule_frame]
        rfl
      · exact nomatch h
    · exact nomatch h

theorem team_globalAtomics {tk : Nat} {t : Team} (f : MF) (op : Nat) (ret : Bool) (flat : List (Nat × Word × Piece)) (keys : List Nat) :
    ∀ s : State, s.team tk = some t → (globalAtomics tk t f op ret flat s keys).1.team tk = some t := by
  induction keys with
  | nil => exact fun s hs => hs
  | cons key keys ih =>
    intro s hs
    unfold globalAtomics
    dsimp only
    split
    · next s' olds ha =>
      refine ih _ ?_
      rw [State.team_noteWrite, team_atomicHere ha, hs]
      exact congrArg some (if_pos rfl)
    · exact ih _ hs

theorem stale_globalAtomics {tk : Nat} {t : Team} (f : MF) (op : Nat) (ret : Bool) (flat : List (Nat × Word × Piece)) (keys : List Nat) :
    ∀ s : State, ∀ q ∈ (globalAtomics tk t f op ret flat s keys).2.1, q.stale = false := by
  induction keys with
  | nil => exact fun s q hq => nomatch hq
  | cons key keys ih =>
    intro s q hq
    unfold globalAtomics at hq
    dsimp only at hq
    split at hq
    · rcases List.mem_append.mp hq with hq | hq
      · exact stale_oldParts _ _ _ q hq
      · exact ih _ q hq
    · rcases List.mem_append.mp hq with hq | hq
      · obtain ⟨y, -, hq⟩ := List.mem_flatMap.mp hq
        exact stale_loadParts _ _ _ _ _ q hq
      · exact ih _ q hq

/-- The first piece of each lane of an atomic. -/
def atomPieces (ls : List (Nat × Word × List Piece)) : List (Nat × Word × Piece) := ls.filterMap fun x => x.2.2.head?.map fun p => (x.1, x.2.1, p)

/-- The sectors of an atomic. -/
def atomKeys (ls : List (Nat × Word × List Piece)) : List Nat := ((atomPieces ls).map fun x => x.2.2.addr / 32).dedup

/-- What an atomic word asks of a core's requests. -/
def atomAsked (ls : List (Nat × Word × List Piece)) : Nat := (((atomPieces ls).map fun x => (x.1 / 32, x.2.2.addr / 32)).dedup).length

/-- An atomic behind its effect: it acquires, at once or once its requests have been answered. -/
def atomicEnd (tk : Nat) (f : MF) (asked : Bool) (X : State) : Act :=
  if f.ord.toNat = 1 || f.ord.toNat = 3 then (if asked then .hold X f.scope.toNat else .retire (X.acquire (coreOf tk) f.scope.toNat)) else .retire X

/-- An atomic on pages that are not STRONG, behind its release. -/
def atomicAct (tk : Nat) (t : Team) (f : MF) (op : Nat) (ret : Bool) (ls : List (Nat × Word × List Piece)) (X : State) : Act :=
  let Y := (atomKeys ls).foldl (fun s key => s.purge key (corePath (coreOf tk))) X
  if Config.coreRequests < Y.heldRequests (coreOf tk) + atomAsked ls then .park Y (.requests (atomAsked ls))
  else
    let r := (atomKeys ls).foldl (atomicSector tk t f op ret (atomPieces ls)) (Y, [], false)
    atomicEnd tk f r.2.2 (if ret then r.1.updTeam tk fun u => u.writeLong r.2.1 else r.1)

section Global

variable {h : Hdr} {f : MF} {s s1 : State} {t : Team}

theorem atomicGlobal_eq {op : Nat} {ret : Bool} {ls : List (Nat × Word × List Piece)} (hstrong : strongPage ls = false)
    (hc : s.checkLanes s.cur t (t.act h) (addrGlobal f t) (sizeBytes f.size) true true false true = (s1, .ok ls)) :
    atomicGlobal h f op ret s s.cur t = if 2 ≤ f.ord.toNat then releaseThen s1 s.cur t f.scope.toNat (atomicAct s.cur t f op ret ls)
      else atomicAct s.cur t f op ret ls s1 := by
  unfold atomicGlobal
  dsimp only
  rw [show s.checkLanes s.cur t (t.act h) (eaGlobal t f) (sizeBytes f.size) true true false true = (s1, .ok ls) from hc]
  dsimp only [checked]
  rw [hstrong]
  simp only [Bool.or_false, Bool.false_eq_true, if_false, State.acquireIf]
  rfl

theorem pathLevels_wide (core : Nat) {sc : Nat} (h : 5 ≤ sc) : pathLevels core sc = pathLevels core 5 := by
  unfold pathLevels
  rw [if_neg (by omega), if_neg (by omega), if_neg (by omega)]
  rfl

theorem release_wide (X : State) (core : Nat) {sc : Nat} (h : 5 ≤ sc) : X.release core sc = X.release core 5 := by
  unfold State.release
  rw [pathLevels_wide core h]

/-- What the statement asks of an atomic on pages that are not STRONG, from what the word goes on with. -/
theorem atomic_rule {i : Instr} {op : Nat} {ret : Bool} {ls : List (Nat × Word × List Piece)} (hi : s.Issues t i h)
    (he : exec i s = .next ((atomicGlobal h f op ret s s.cur t).finish s.cur h.z))
    (hc : s.checkLanes s.cur t (t.act h) (addrGlobal f t) (sizeBytes f.size) true true false true = (s1, .ok ls)) (hstrong : strongPage ls = false) :
    let core := coreOf s.cur
    let sc := f.scope.toNat
    (2 ≤ f.ord.toNat → s1.quiet s.cur t.serial = true ∧ (sc < 5 ∨ t.relWait = none ∧ ((s1.release core sc).pkg (pkgOf core)).posted = [])) →
    let s2 := (atomKeys ls).foldl (fun s key => s.purge key (corePath core)) (if 2 ≤ f.ord.toNat then s1.release core sc else s1)
    s2.heldRequests core + atomAsked ls ≤ 4096 →
    let r := globalAtomics s.cur t f op ret (atomPieces ls) s2 (atomKeys ls)
    let ps := if ret then r.2.1 else []
    (f.ord ≠ 1 → f.ord ≠ 3 → EndsParts (exec i s) r.1 s.cur t ps) ∧
    (f.ord = 1 ∨ f.ord = 3 → r.2.2 = false → ∃ t1, t.Kept t1 ∧ t.Awaits t1 ps ∧ t1.pc = t.pc ∧ t1.word = t.word ∧
      Ends (exec i s) ((r.1.setTeam s.cur t1).acquire core sc) s.cur t1 []) ∧
    (f.ord = 1 ∨ f.ord = 3 → r.2.2 = true → ∃ t', exec i s = .next (r.1.setTeam s.cur t') ∧ t.Kept t' ∧ t.Next t' ∧ t.Awaits t' ps ∧
      t'.run = .parked (.acquired sc h.z)) := by
  intro core sc hrel s2 hroom r ps
  obtain ⟨X, hX⟩ : ∃ X, X = if 2 ≤ f.ord.toNat then s1.release core sc else s1 := ⟨_, rfl⟩
  have ht1 : s1.team s.cur = some t := team_of_checkLanes hi.1 hc
  have hXteam : X.team s.cur = some t := by
    rw [hX]
    split
    · exact ((State.flows_release s1 core sc).team s.cur).trans ht1
    · exact ht1
  have hs2 : s2 = (atomKeys ls).foldl (fun s key => s.purge key (corePath core)) X := by rw [hX]
  have h2team : s2.team s.cur = some t := by
    rw [hs2]
    exact ((State.Flows.foldl _ _ (fun Y key => State.flows_purge Y key _) X).team s.cur).trans hXteam
  have hrteam : r.1.team s.cur = some t := team_globalAtomics f op ret (atomPieces ls) (atomKeys ls) s2 h2team
  obtain ⟨hawaits, hkept, hstep, hpc,
    hword⟩ := awaits_atomResults t ret (stale_globalAtomics (tk := s.cur) (t := t) f op ret (atomPieces ls) (atomKeys ls) s2)
  obtain ⟨v, hv⟩ : ∃ v, v = atomResults t ret r.2.1 := ⟨_, rfl⟩
  rw [← hv] at hkept hstep hpc hword
  have hawaits : t.Awaits v ps := hv ▸ hawaits
  have hs : v.stepping = none := hstep.trans hi.2.2.2.2
  obtain ⟨Y, hY⟩ : ∃ Y, Y = if ret then r.1.updTeam s.cur fun u => u.writeLong r.2.1 else r.1 := ⟨_, rfl⟩
  have hYv : Y.team s.cur = some v ∧ (∀ x, Y.setTeam s.cur x = r.1.setTeam s.cur x) ∧
      ∀ x, (Y.acquire core sc).setTeam s.cur x = ((r.1.setTeam s.cur v).acquire core sc).setTeam s.cur x := by
    rw [hY, hv]
    cases ret with
    | true =>
      rw [if_pos rfl, State.updTeam_some hrteam]
      exact ⟨State.team_setTeam _ _ _, fun x => State.setTeam_setTeam _ _ _ _, fun x => rfl⟩
    | false =>
      rw [if_neg Bool.false_ne_true]
      exact ⟨hrteam, fun x => rfl, fun x => by rw [State.setTeam_acquire, State.setTeam_setTeam]⟩
  obtain ⟨hYteam, hYset, hYacq⟩ := hYv
  have hgo : exec i s = .next ((atomicEnd s.cur f r.2.2 Y).finish s.cur h.z) := by
    have hact : atomicGlobal h f op ret s s.cur t = atomicAct s.cur t f op ret ls X := by
      rw [atomicGlobal_eq hstrong hc, hX]
      by_cases ho : 2 ≤ f.ord.toNat
      · rw [if_pos ho, if_pos ho]
        obtain ⟨hquiet, hsc⟩ := hrel ho
        by_cases h5 : sc < 5
        · rw [releaseThen_released ⟨hquiet, rfl, .inl h5⟩]
        · obtain ⟨hw, hposted⟩ := hsc.resolve_left h5
          rw [release_wide s1 core (by omega)] at hposted ⊢
          rw [releaseThen_system hquiet (Nat.not_lt.mp h5) hw hposted]
      · rw [if_neg ho, if_neg ho]
    have hfull : ¬Config.coreRequests < s2.heldRequests (coreOf s.cur) + atomAsked ls := Nat.not_lt.mpr hroom
    rw [he, hact]
    unfold atomicAct
    dsimp only
    rw [← hs2, if_neg hfull, foldl_atomicSector, List.nil_append, Bool.false_or, hY]
  have hord (k : BitVec 2) : f.ord.toNat = k.toNat ↔ f.ord = k := BitVec.toNat_inj
  rw [hgo]
  unfold atomicEnd
  refine ⟨fun h1 h3 => ?_, fun h13 hnone => ?_, fun h13 hsome => ?_⟩
  · have hfalse : (decide (f.ord.toNat = 1) || decide (f.ord.toNat = 3)) = false := by
      rw [Bool.or_eq_false_iff, decide_eq_false_iff_not, decide_eq_false_iff_not]
      exact ⟨fun e => h1 ((hord 1).mp e), fun e => h3 ((hord 3).mp e)⟩
    rw [hfalse, if_neg Bool.false_ne_true]
    exact endsParts_retire hYteam hs hYset hkept ⟨hpc, hword⟩ hawaits
  all_goals
    have htrue : (decide (f.ord.toNat = 1) || decide (f.ord.toNat = 3)) = true := by
      rw [Bool.or_eq_true, decide_eq_true_eq, decide_eq_true_eq]
      exact h13.imp (hord 1).mpr (hord 3).mpr
    rw [htrue, if_pos rfl]
  · rw [hnone, if_neg Bool.false_ne_true]
    refine ⟨v, hkept, hawaits, hpc, hword, ?_⟩
    exact ends_retire (((State.flows_acquire Y core sc).team s.cur).trans hYteam) hs hYacq rfl ⟨rfl, rfl⟩ (Team.wrote_nil v)
  · rw [hsome, if_pos rfl]
    obtain ⟨t', hfin, hmoved, hnext, hrun⟩ := Act.finish_hold sc h.z hYteam hs
    refine ⟨t', by rw [hfin, hYset], hkept.trans hmoved.1, ?_, hawaits.moved hmoved, hrun⟩
    have hh : v.hdr = t.hdr := by unfold Team.Kept at hkept; rw [hkept]
    unfold Team.Next at hnext ⊢
    simpa only [hpc, hword, hh, Team.nextPc] using hnext

theorem exec_atomCas_eq (hi : s.Issues t (.atomCas h f) h) : exec (.atomCas h f) s = .next ((atomicGlobal h f 8 true s s.cur t).finish s.cur h.z) := by
  show execAtomCas h f s = _
  unfold execAtomCas
  rw [issue_next hi]

theorem exec_atom_eq {op : BitVec 3} (hi : s.Issues t (.atom h op f) h) :
    exec (.atom h op f) s = .next ((atomicGlobal h f op.toNat true s s.cur t).finish s.cur h.z) := by
  show execAtom h op f s = _
  unfold execAtom
  rw [issue_next hi]

theorem exec_red_eq {op : BitVec 3} (hi : s.Issues t (.redK h op f) h) :
    exec (.redK h op f) s = .next ((atomicGlobal h f op.toNat false s s.cur t).finish s.cur h.z) := by
  show execRed h op f s = _
  unfold execRed
  rw [issue_next hi]

end Global

/-- Where a package may not write a sector at once. -/
theorem writesHere_not {s : State} {p key : Nat} (hh : isHost (key / 2048) = false)
    (hno : (∀ fr, (s.pkg p).frameOf (key / 2048) = some fr → ((s.pkg p).tag fr).state ≠ .masterExcl ∨ ((s.pkg p).tag fr).twin = true) ∨
      s.busy p (key / 2048) = true ∨ s.sectorBusy p key = true) : ¬s.writesHere p key = true := by
  rw [State.writesHere_iff hh]
  rintro ⟨fr, hf, hst, htw, hbusy, hsec⟩
  rcases hno with hno | hno | hno
  · rcases hno fr hf with hno | hno
    · exact hno hst
    · rw [htw] at hno
      exact nomatch hno
  · rw [hbusy] at hno
    exact nomatch hno
  · rw [hsec] at hno
    exact nomatch hno

/-- Settles O20: operations on a sector by atomSeq where it may be written, one request elsewhere; the word takes its sectors one after another. -/
theorem globalAtomics_holds : Obligations.GlobalAtomics := by
  unfold Obligations.GlobalAtomics
  refine ⟨?_, ?_⟩
  · intro s core key ops p gpn k hops
    have hin : ∀ o ∈ ops, o.inSector := fun o ho => (hops o ho).1
    refine ⟨fun hh => ⟨_, atomicHere_host hin hh, rfl⟩, ?_, fun hh hno => atomicHere_elsewhere hh (writesHere_not hh hno)⟩
    intro hh fr hf hst htw hbusy hsec hp he r
    obtain ⟨s', hs', hbytes, hframe⟩ := atomicHere_bytes hin hh hf ((State.writesHere_iff hh).mpr ⟨fr, hf, hst, htw, hbusy, hsec⟩) hp he
    have hlt : key % 2048 < 2048 := Nat.mod_lt _ (by decide)
    refine ⟨s', hs', fun i hi => ?_, fun q f off ho hno => ?_, by rw [hframe], by rw [hframe], by rw [hframe], by rw [hframe]⟩
    · have hmod : (32 * (key % 2048) + i) % 32 = i := by omega
      rw [hbytes p fr _ (by omega), if_pos ⟨rfl, rfl, by omega⟩, hmod]
    · rw [hbytes q f off ho, if_neg hno]
  · intro h f s s1 t ls core sc flat keys out
    exact ⟨fun hi hc hstrong => atomic_rule hi (exec_atomCas_eq hi) hc hstrong, fun op hi hc hstrong => atomic_rule hi (exec_atom_eq hi) hc hstrong,
      fun op hi hc hstrong => atomic_rule hi (exec_red_eq hi) hc hstrong⟩

end Sys2Proof.Machine

/-! PROOFS. Copies and tiles: what registers a transfer, and what the reads of a transfer leave as it is (R137 to R147, R339). -/

namespace Sys2Proof.Machine

open Host

/-! ## What the reads of a transfer leave as it is -/

theorem State.Flows.withXfers {s s' : State} (h : s.Flows s') (l : List (Nat × Xfer)) : State.Flows { s with xfers := l } { s' with xfers := l } := by
  obtain ⟨h1, h2, h3⟩ := h
  refine ⟨?_, h2, h3⟩
  conv_lhs => rw [h1]

/-- Memory traffic of transfer x alone: bytes flow between the levels and the requests, and the transfer may raise its copy status. -/
structure State.Sources (x : Nat) (s s' : State) : Prop where
  flows : s.Flows { s' with xfers := s.xfers }
  xfer : ∀ e, s.xfer x = some e → ∃ n, s'.xfer x = some { e with status := n }

theorem State.Sources.trans {x : Nat} {a b c : State} (hb : a.Sources x b) (hc : b.Sources x c) : a.Sources x c where
  flows := hb.flows.trans (hc.flows.withXfers a.xfers)
  xfer e he := by
    obtain ⟨n, hn⟩ := hb.xfer e he
    obtain ⟨m, hm⟩ := hc.xfer _ hn
    exact ⟨m, hm⟩

theorem State.Flows.sources {s s' : State} (h : s.Flows s') (x : Nat) : s.Sources x s' where
  flows := by
    rw [← h.xfers]
    exact h
  xfer e he := ⟨e.status, by rw [h.xfer, he]⟩

section
variable {x : Nat} {s s' : State} (h : s.Sources x s')
include h

theorem State.Sources.team (tk : Nat) : s'.team tk = s.team tk := h.flows.team tk
theorem State.Sources.share (sh : Nat) : s'.share sh = s.share sh := h.flows.share sh
theorem State.Sources.spByte (sh off : Nat) : s'.spByte sh off = s.spByte sh off := by
  unfold State.spByte
  rw [h.share]

end

theorem State.updXfer_some {s : State} {x : Nat} {e : Xfer} (he : s.xfer x = some e) (f : Xfer → Xfer) :
    s.updXfer x f = { s with xfers := put s.xfers x (f e) } := by
  unfold State.updXfer
  rw [he]

theorem State.xfer_updXfer {s : State} {x : Nat} {e : Xfer} (he : s.xfer x = some e) (f : Xfer → Xfer) : (s.updXfer x f).xfer x = some (f e) := by
  rw [State.updXfer_some he]
  exact find_put_same _ _ _

theorem State.team_updXfer (s : State) (x : Nat) (f : Xfer → Xfer) (tk : Nat) : (s.updXfer x f).team tk = s.team tk := by
  unfold State.updXfer
  cases s.xfer x <;> rfl

theorem State.sources_raiseStatus (s : State) (x n : Nat) : s.Sources x (s.raiseStatus x n) where
  flows := by
    unfold State.raiseStatus State.updXfer
    cases s.xfer x <;> exact State.Flows.refl s
  xfer e he := ⟨_, State.xfer_updXfer he _⟩

/-! ## The reads of a transfer (R143, R339) -/

/-- Bytes of a sector that a transfer has asked for: each is known, expected, or cannot be had. -/
def Placed (bs : List XByte) : Prop := ∀ b ∈ bs, b ≠ .later

theorem placed_replicate {b : XByte} (hb : b ≠ .later) (n : Nat) : Placed (List.replicate n b) := by
  intro c hc
  rw [List.eq_of_mem_replicate hc]
  exact hb

theorem placed_map {α : Type} (l : List α) {f : α → XByte} (hf : ∀ a, f a ≠ .later) : Placed (l.map f) := by
  intro c hc
  obtain ⟨a, -, rfl⟩ := List.mem_map.mp hc
  exact hf a

section
variable (x : Nat) (e : Xfer) (key : Nat) (mask : BitVec 32)

/-- A transfer asks for a sector by a request of its own. -/
theorem State.xferAsk_sources (s : State) (gens : List (List (BitVec 4))) (w : Issuer) : s.Sources x (s.addRequest e.core key mask .load w gens) :=
  (State.flows_addRequest s e.core key mask .load w gens).sources x

theorem State.xferAsk_placed (s : State) (scope : Nat) :
    Placed ((List.range 32).map fun j => match s.dirtyByte e.core key scope j with | some b => XByte.known b | none => .await s.fresh j) := by
  refine placed_map _ fun j => ?_
  cases s.dirtyByte e.core key scope j <;> exact XByte.noConfusion

end

/-- Bytes of a frame, read for a transfer. -/
def State.frameRead (s : State) (x p f i off : Nat) : State × List XByte :=
  match s.readGranule p f i with
  | (s, true) => (s.raiseStatus x 1, List.replicate 32 .poison)
  | (s, false) => (s, (List.range 32).map fun j => .known ((s.pkg p).byte f (off + j)))

theorem State.frameRead_places (s : State) (x p f i off : Nat) : s.Sources x (s.frameRead x p f i off).1 ∧ Placed (s.frameRead x p f i off).2 := by
  unfold State.frameRead
  have hr := (State.reads_readGranule s p f i).flows.sources x
  rcases hg : s.readGranule p f i with ⟨s1, bad⟩
  rw [hg] at hr
  cases bad
  · exact ⟨hr, placed_map _ fun _ => XByte.noConfusion⟩
  · exact ⟨hr.trans (State.sources_raiseStatus s1 x 1), placed_replicate XByte.noConfusion 32⟩

/-- The sector of a transfer is read where the package holds it, and asked for elsewhere: no byte is left for later. -/
theorem State.xferSector_places (s : State) (x : Nat) (e : Xfer) (key : Nat) (mask : BitVec 32) :
    s.Sources x (s.xferSector x e key mask).1 ∧ Placed (s.xferSector x e key mask).2 := by
  have ask (s : State) (gens : List (List (BitVec 4))) (w : Issuer) := State.xferAsk_sources x e key mask s gens w
  have asked (s : State) := State.xferAsk_placed e key s
  have read (f : Nat) := State.frameRead_places s x (pkgOf e.core) f (key % 2048) (32 * (key % 2048))
  have hlost : s.Sources x (s.raiseStatus x 2) ∧ Placed (List.replicate 32 XByte.lost) :=
    ⟨State.sources_raiseStatus s x 2, placed_replicate XByte.noConfusion 32⟩
  unfold State.xferSector
  dsimp only
  cases s.drainFor x (pkgOf e.core) (key / 2048) with
  | some f => exact read f
  | none =>
    dsimp only
    generalize (if s.poisonedAt (pkgOf e.core) (key / 2048) (32 * (key % 2048)) 32 then (s.pkg (pkgOf e.core)).frameOf (key / 2048) else none) = held
    cases held with
    | some f =>
      dsimp only
      split_ifs
      · exact ⟨ask s _ _, asked s _⟩
      · exact hlost
      · exact read f
    | none =>
      dsimp only
      split_ifs
      · exact ⟨ask s _ _, asked s _⟩
      · exact hlost
      · exact ⟨ask s _ _, asked s _⟩
      · have hr := (State.flows_readSector s e.core key mask (e.point (key / 2048)) ((e.leaf (key / 2048)).any (·.ord == 2))).sources x
        rcases hs : s.readSector e.core key mask (e.point (key / 2048)) ((e.leaf (key / 2048)).any (·.ord == 2)) with ⟨s1, got⟩
        rw [hs] at hr ⊢
        cases got
        · exact ⟨hr.trans (ask s1 _ _), asked s1 _⟩
        · exact ⟨hr, placed_map _ fun _ => XByte.noConfusion⟩

/-- The byte that the reads of a transfer give for a byte of its source that had not been read. -/
def readByte (s : State) (now : Nat → Bool) (sp : Bool) (read : List (Nat × List XByte)) : Option Loc → XByte
  | none => .known 0
  | some (.sp sh off) => if sp then .known (s.spByte sh off) else .later
  | some (.glob a) => if now a then ((find read (a / 32)).getD []).getD (a % 32) .failed else .later

theorem find_snoc {β : Type} (m : List (Nat × β)) (k : Nat) (v : β) (k' : Nat) (w : β) (h : find (m ++ [(k, v)]) k' = some w) :
    find m k' = some w ∨ w = v := by
  induction m with
  | nil =>
    rw [List.nil_append, find_cons] at h
    split at h
    · exact .inr (Option.some.inj h).symm
    · exact .inl h
  | cons y m ih =>
    rw [List.cons_append, find_cons] at h
    rw [find_cons]
    split_ifs at h ⊢ with hy
    · exact .inl h
    · exact ih h

/-- The sectors of a transfer's source, read one after another. -/
theorem State.xferSectors_places (x : Nat) (e : Xfer) (keys : List Nat) (m : Nat → BitVec 32) (acc : State × List (Nat × List XByte))
    (hacc : ∀ k bs, find acc.2 k = some bs → Placed bs) :
    let r := keys.foldl (fun (acc : State × List (Nat × List XByte)) key =>
      let (s, bs) := acc.1.xferSector x e key (m key)
      (s, acc.2 ++ [(key, bs)])) acc
    acc.1.Sources x r.1 ∧ ∀ k bs, find r.2 k = some bs → Placed bs := by
  induction keys generalizing acc with
  | nil => exact ⟨(State.Flows.refl acc.1).sources x, hacc⟩
  | cons key keys ih =>
    obtain ⟨hs, hp⟩ := State.xferSector_places acc.1 x e key (m key)
    obtain ⟨hs', hp'⟩ := ih ((acc.1.xferSector x e key (m key)).1, acc.2 ++ [(key, (acc.1.xferSector x e key (m key)).2)]) fun k bs hk => by
      rcases find_snoc _ _ _ _ _ hk with hk | rfl
      · exact hacc k bs hk
      · exact hp
    exact ⟨hs.trans hs', hp'⟩

/-- What has been read of byte i of the source of a transfer. -/
def Xfer.old (e : Xfer) (i : Nat) : XByte := e.got.elim .later fun l => l.getD i .later

/-- The reads of a transfer give each byte of its source a value, or leave it: no byte that is due is left for later. -/
theorem State.readSource_eq (s : State) (x : Nat) (e : Xfer) (now : Nat → Bool) (sp : Bool) :
    ∃ (s1 : State) (read : List (Nat × List XByte)), s.Sources x s1 ∧ (∀ k bs, find read k = some bs → Placed bs) ∧
      ((∀ l ∈ e.src, ∀ a, l ≠ some (.glob a)) → s1 = s) ∧
      s.readSource x e now sp = s1.updXfer x fun y => { y with got := some (e.src.zipIdx.map fun y =>
        if e.old y.2 = .later then readByte s now sp read y.1 else e.old y.2) } := by
  unfold State.readSource
  dsimp only
  generalize hdue : (e.src.zipIdx.filterMap fun y => match y.1, e.got.elim XByte.later fun l => l.getD y.2 .later with
    | some (.glob a), .later => if now a then some a else none | _, _ => none) = due
  obtain ⟨hs, hp⟩ := State.xferSectors_places x e ((due.map (· / 32)).dedup)
    (fun key => (due.filter fun a => a / 32 == key).foldl (fun m a => m ||| BitVec.ofNat 32 (2 ^ (a % 32))) 0) (s, []) fun k bs hk => by cases hk
  refine ⟨_, _, hs, hp, fun hsp => ?_, ?_⟩
  · have hnil : due = [] := by
      rw [← hdue, List.filterMap_eq_nil_iff]
      rintro ⟨l, i⟩ hy
      have hl : l ∈ e.src := List.fst_mem_of_mem_zipIdx hy
      rcases l with - | a | ⟨sh, off⟩
      · rfl
      · exact absurd rfl (hsp _ hl a)
      · rfl
    rw [hnil]
    rfl
  · refine congrArg (fun got => State.updXfer _ x fun y => { y with got := some got }) (List.map_congr_left fun y _ => ?_)
    obtain ⟨l, i⟩ := y
    unfold Xfer.old
    dsimp only
    generalize (e.got.elim XByte.later fun l => l.getD i .later) = b
    cases b <;> rfl

/-- The reads of a transfer touch the levels, the requests and the transfer alone. -/
theorem State.team_readSource (s : State) (x : Nat) (e : Xfer) (now : Nat → Bool) (sp : Bool) (tk : Nat) :
    (s.readSource x e now sp).team tk = s.team tk := by
  obtain ⟨s1, read, hs, -, -, heq⟩ := s.readSource_eq x e now sp
  rw [heq, State.team_updXfer, hs.team]

theorem State.team_placeReads (s : State) (x tk : Nat) : (s.placeReads x).team tk = s.team tk := by
  unfold State.placeReads
  cases s.xfer x
  · rfl
  · exact State.team_readSource _ _ _ _ _ _

/-! ## Registration (R137, R139) -/

/-- Locks of well-ordered ranges. -/
def Ordered (ls : List (Nat × Lock)) : Prop := ∀ a ∈ ls, a.2.lo ≤ a.2.hi

theorem rngLock_ordered (s : State) (tk : Nat) (t : Team) (x : Nat) (w : Bool) (sp : Option (Nat × Nat)) (va : Word) (n : Nat) :
    (rngLock s tk t x w sp va n).2.lo ≤ (rngLock s tk t x w sp va n).2.hi := by
  cases sp <;> exact Nat.le_add_right _ _

theorem ordered_pair {a b : Nat × Lock} (ha : a.2.lo ≤ a.2.hi) (hb : b.2.lo ≤ b.2.hi) : Ordered [a, b] := by
  intro l hl
  rw [List.mem_cons, List.mem_singleton] at hl
  rcases hl with rfl | rfl
  · exact ha
  · exact hb

/-- Two locks overlap and one of them writes. -/
theorem Lock.overlaps_iff (a b : Lock) (ha : a.lo ≤ a.hi) : b.overlaps a.lo (a.hi - a.lo) = true ↔ a.lo < b.hi ∧ b.lo < a.hi := by
  unfold Lock.overlaps
  rw [Nat.add_sub_cancel' ha, Bool.and_eq_true, decide_eq_true_eq, decide_eq_true_eq, and_comm]

theorem conflicts_iff (s : State) (x : Nat) {ls : List (Nat × Lock)} (h : Ordered ls) : s.conflicts x ls = true ↔ LockInWay s x ls := by
  unfold State.conflicts LockInWay
  rw [List.any_eq_true]
  refine exists_congr fun a => and_congr_right fun ha => ?_
  rw [List.any_eq_true]
  refine exists_congr fun b => and_congr_right fun _ => ?_
  rw [Bool.and_eq_true, Bool.and_eq_true, Bool.and_eq_true, Bool.and_eq_true, decide_eq_true_eq, beq_iff_eq, beq_iff_eq,
    Lock.overlaps_iff a.2 b (h a ha), Bool.or_eq_true]
  tauto

/-- The places that locks need in each core's table are free where the tables have room. -/
theorem LockRoom.free {s : State} {ls : List (Nat × Lock)} (h : LockRoom s ls) :
    (((ls.map (·.1)).dedup.map fun c => (c, (ls.filter fun l => l.1 == c).length)).all fun x => s.locksFree x.1 x.2) = true := by
  rw [List.all_eq_true]
  intro y hy
  obtain ⟨c, hc, rfl⟩ := List.mem_map.mp hy
  exact decide_eq_true (h c (List.mem_dedup.mp hc))

theorem State.team_bump (s : State) (tk : Nat) : s.bump.team tk = s.team tk := rfl

theorem foldl_updCore_team (ls : List (Nat × Lock)) (f : Nat × Lock → Core → Core) (s : State) (tk : Nat) :
    (ls.foldl (fun s l => s.updCore l.1 (f l)) s).team tk = s.team tk := by
  induction ls generalizing s with
  | nil => rfl
  | cons l ls ih => rw [List.foldl_cons, ih, State.team_updCore]

/-- A word that leaves its team as it stood but for a change of it. -/
theorem retire_updTeam {X : State} {tk : Nat} {t : Team} (ht : X.team tk = some t) (f : Team → Team) (hf : (f t).stepping = none) (z : Bool) :
    Ends (.next ((Act.retire (X.updTeam tk f)).finish tk z)) X tk (f t) [] := by
  rw [State.updTeam_some ht]
  exact ends_retire (State.team_setTeam _ _ _) hf (fun _ => State.setTeam_setTeam _ _ _ _) rfl ⟨rfl, rfl⟩ (Team.wrote_nil _)

section
variable {s : State} {tk : Nat} {t : Team} (ht : s.team tk = some t) (hstep : t.stepping = none)
include ht hstep

/-- Where the tables have room a transfer is registered with its locks, and its reads are placed. -/
theorem register_registers {x : Xfer} {src dst : Rng} {l1 l2 : Nat × Lock} (h1 : s.lockFor t (coreOf tk) s.fresh false src = l1)
    (h2 : s.lockFor t (coreOf tk) s.fresh true dst = l2) (ho : Ordered [l1, l2]) (hroom : LockRoom s [l1, l2]) (z : Bool) :
    Registers (.next ((register s tk t x src dst).finish tk z)) s tk t x [l1, l2] := by
  refine ⟨s.conflicts s.fresh [l1, l2], conflicts_iff s _ ho, ?_⟩
  unfold register
  dsimp only
  rw [h1, h2, hroom.free]
  refine retire_updTeam (t := t) ?_ (fun u => { u with forming := u.forming ++ [s.fresh], formed := true }) hstep z
  rw [State.team_placeReads]
  exact (foldl_updCore_team [l1, l2] (fun l k => { k with locks := k.locks ++ [l.2] }) s.bump tk).trans ht

/-- A transfer of no bytes completes at once, and rings its bell. -/
theorem emptyXfer_ends (f : SF) (z : Bool) :
    Ends (.next ((emptyXfer s tk t (bellOf f)).finish tk z)) (match copyBell f with | some b => s.bellArrive t.share b | none => s) tk
      { t with formed := true } [] := by
  unfold emptyXfer
  refine retire_updTeam (t := t) ?_ (fun u => { u with formed := true }) hstep z
  unfold bellOf
  split_ifs
  · exact (State.team_updShare _ _ _ _).trans ht
  · exact ht

end

/-- A fault outside a region freezes the team at its address. -/
theorem fault_freezesAt {s : State} {tk : Nat} {t : Team} (ht : s.team tk = some t) (htry : t.tryR = none) (h : Hdr) (c : Cause) (sub : Nat) (ea : Word)
    (z : Bool) : FreezesAt (.next ((Act.fault s h c sub 0 ea).finish tk z)) s tk t h c sub ea := by
  simp only [FreezesAt, Act.finish, ht, htry, Option.isSome_none, Bool.false_and, Bool.false_eq_true, if_false]

/-! ## The pages of ranges (R142) -/

/-- Steps that carry a state, each of which looks at memory, look at memory. A step's result is named, so that the kernel need not compute it. -/
theorem looks_foldl {β γ : Type} {p : Nat} (l : List γ) (f : State × β → γ → State × β)
    (hf : ∀ (a : State × β) (x : γ) (b : State × β), f a x = b → State.Looks p a.1 b.1) (a : State × β) : State.Looks p a.1 (l.foldl f a).1 := by
  induction l generalizing a with
  | nil => exact State.Looks.refl p a.1
  | cons x l ih => exact (hf a x _ rfl).trans (ih (f a x))

theorem State.looks_pagesOf (s : State) (core ctx : Nat) (va : Word) (n : Nat) (w : Bool) {r : State × List (Word × Tr)}
    (hr : s.pagesOf core ctx va n w = r) : s.Looks (pkgOf core) r.1 := by
  rw [← hr]
  unfold State.pagesOf
  refine looks_foldl _ _ (fun a i b hb => ?_) (s, [])
  rw [← hb]
  exact a.1.looks_translate core ctx _ w false

theorem State.looks_checkRanges (s : State) (core ctx : Nat) (rs : List (Word × Nat × Bool)) : s.Looks (pkgOf core) (s.checkRanges core ctx rs).1 := by
  have hfold := looks_foldl (p := pkgOf core) rs (fun (acc : State × List (Bool × List (Word × Tr))) x =>
    match acc.1.pagesOf core ctx x.1 x.2.1 x.2.2 with | (s, ps) => (s, acc.2 ++ [(x.2.2, ps)])) (fun a x b hb => ?_) (s, [])
  · unfold State.checkRanges
    generalize List.foldl _ _ rs = r at hfold ⊢
    exact hfold
  rcases hp : a.1.pagesOf core ctx x.1 x.2.1 x.2.2 with ⟨s1, ps⟩
  rw [hp] at hb
  rw [← hb]
  exact State.looks_pagesOf a.1 core ctx x.1 x.2.1 x.2.2 hp

/-- A range within a page is that page's. -/
theorem State.pagesOf_one (s : State) (core ctx n : Nat) (va : Word) (w : Bool) (hn : 0 < n) (hp : va.toNat % 65536 + n ≤ 65536) :
    s.pagesOf core ctx va n w = ((s.translate core ctx va w).1, [(va, (s.translate core ctx va w).2)]) := by
  unfold State.pagesOf
  rw [show (va.toNat % 65536 + n + 65535) / 65536 = 1 by omega, List.range_one, List.foldl_cons, List.foldl_nil]
  dsimp only
  rw [if_pos rfl, List.nil_append]

/-- What the translation of the one page of a range answers for it. -/
def Tr.range (s : State) (va : Word) (w : Bool) : Tr → RngChk
  | .wait ix => .wait ix
  | .fail _ => .bad .translation va
  | .ok l => if l.ord = 3 then .bad .translation va else if (w && !l.w) || s.pooled l.gpn then .bad .permission va else .ok [[(va, l)]]

theorem State.checkRanges_one (s : State) (core ctx n : Nat) (va : Word) (w : Bool) (hn : 0 < n) (hp : va.toNat % 65536 + n ≤ 65536) {s1 : State} {tr : Tr}
    (ht : s.translate core ctx va w = (s1, tr)) : s.checkRanges core ctx [(va, n, w)] = (s1, tr.range s1 va w) := by
  unfold State.checkRanges
  have hpages : State.pagesOf (s, ([] : List (Bool × List (Word × Tr)))).1 core ctx (va, n, w).1 (va, n, w).2.1 (va, n, w).2.2 = (s1, [(va,
    tr)]) := by
    rw [s.pagesOf_one core ctx n va w hn hp, ht]
  rw [List.foldl_cons, List.foldl_nil, hpages]
  dsimp only
  cases tr with
  | wait ix => rfl
  | fail c => rfl
  | ok l =>
    unfold Tr.range
    by_cases ho : l.ord = 3
    · simp [ho, lowest]
    · cases hb : (w && !l.w) || s1.pooled l.gpn <;>
        simp only [List.map_cons, List.map_nil, List.flatMap_cons, List.flatMap_nil, List.append_nil, List.nil_append, List.findSome?_cons,
          List.findSome?_nil, List.filterMap_cons, List.filterMap_nil, if_neg ho, hb, lowest, List.foldl_cons, List.foldl_nil, if_true,
          Bool.false_eq_true, if_false]

/-- The checks of a range in one page (R142). -/
theorem checkRanges_page (s s1 : State) (core ctx n : Nat) (va : Word) (w : Bool) (hn : 0 < n) (hp : va.toNat % 65536 + n ≤ 65536) :
    (∀ c, s.translate core ctx va w = (s1, .fail c) → s.checkRanges core ctx [(va, n, w)] = (s1, .bad .translation va)) ∧
    ∀ l, s.translate core ctx va w = (s1, .ok l) →
      (l.ord = 3 → s.checkRanges core ctx [(va, n, w)] = (s1, .bad .translation va)) ∧
      (l.ord ≠ 3 → w = true ∧ l.w = false ∨ s1.pooled l.gpn = true → s.checkRanges core ctx [(va, n, w)] = (s1, .bad .permission va)) ∧
      (l.ord ≠ 3 → (w = true → l.w = true) → s1.pooled l.gpn = false → s.checkRanges core ctx [(va, n, w)] = (s1, .ok [[(va, l)]])) := by
  refine ⟨fun c hc => s.checkRanges_one core ctx n va w hn hp hc, fun l hl => ?_⟩
  rw [s.checkRanges_one core ctx n va w hn hp hl]
  unfold Tr.range
  dsimp only
  refine ⟨fun ho => ?_, fun ho hbad => ?_, fun ho hw hpool => ?_⟩
  · rw [if_pos ho]
  · rw [if_neg ho, if_pos]
    rcases hbad with ⟨rfl, hw⟩ | hpool
    · rw [hw]; rfl
    · rw [hpool, Bool.or_true]
  · rw [if_neg ho, hpool, Bool.or_false, if_neg]
    cases w
    · exact Bool.false_ne_true
    · rw [hw rfl]; exact Bool.false_ne_true

/-! ## CPY (R142) -/

/-- A scratchpad range of a team. -/
theorem State.spRange_eq_some (s : State) (t : Team) (a : Lane32) (n : Nat) (p : Nat × Nat) :
    s.spRange t a n = some p ↔ s.resolve t a.toNat = some p ∧ p.2 + n ≤ s.spBytesOf t p.1 := by
  unfold State.spRange
  cases s.resolve t a.toNat with
  | none => simp
  | some q =>
    obtain ⟨sh, off⟩ := q
    dsimp only
    by_cases hlt : s.spBytesOf t sh < off + n
    · rw [if_pos hlt]
      refine ⟨fun h => (by cases h), fun ⟨h, hle⟩ => ?_⟩
      cases h
      exact absurd hlt (Nat.not_lt.mpr hle)
    · rw [if_neg hlt]
      refine ⟨fun h => ?_, fun h => h.1⟩
      cases h
      exact ⟨rfl, Nat.not_lt.mp hlt⟩

theorem State.spRange_isNone (s : State) (t : Team) (a : Lane32) (n : Nat) :
    (s.spRange t a n).isNone = true ↔ ¬∃ p, s.resolve t a.toNat = some p ∧ p.2 + n ≤ s.spBytesOf t p.1 := by
  rw [← not_iff_not, not_not, Option.isNone_iff_eq_none, ← ne_eq, Option.ne_none_iff_exists']
  exact exists_congr fun p => s.spRange_eq_some t a n p

theorem low_and (x : Word) : x &&& 0xFFFFFFFF = BitVec.ofNat 64 (x.toNat % 2 ^ 32) := by
  apply BitVec.eq_of_toNat_eq
  rw [BitVec.toNat_and, BitVec.toNat_ofNat, show (0xFFFFFFFF : Word).toNat = 2 ^ 32 - 1 from rfl, Nat.and_two_pow_sub_one_eq_mod]
  omega

theorem team_of_checkRanges {s s1 : State} {t : Team} {tk : Nat} (ht : s.team tk = some t) {core ctx : Nat} {rs : List (Word × Nat × Bool)} {c : RngChk}
    (hc : s.checkRanges core ctx rs = (s1, c)) : s1.team tk = some t := by
  have hl := (s.looks_checkRanges core ctx rs).team tk
  rw [hc] at hl
  exact hl.trans ht

/-- One side of a copy: its range where the side is scratchpad, or its address. -/
def sideRng (p : Prop) [Decidable p] (o : Option (Nat × Nat)) (va : Word) (n : Nat) : Rng :=
  if p then .sp (o.elim 0 (·.1)) (o.elim 0 (·.2)) n else .glob va n

theorem lockFor_side (s : State) (tk : Nat) (t : Team) (x : Nat) (w : Bool) (p : Prop) [Decidable p] (o : Option (Nat × Nat)) (ho : p → o.isSome = true)
    (va : Word) (n : Nat) : s.lockFor t (coreOf tk) x w (sideRng p o va n) = rngLock s tk t x w (if p then o else none) va n := by
  unfold sideRng
  by_cases hp : p
  · obtain ⟨y, rfl⟩ := Option.isSome_iff_exists.mp (ho hp)
    rw [if_pos hp, if_pos hp]
    rfl
  · rw [if_neg hp, if_neg hp]
    rfl

theorem locs_side (p : Prop) [Decidable p] (o : Option (Nat × Nat)) (ho : p → o.isSome = true) (lv : List (Word × Leaf)) (va : Word) (n : Nat) :
    ((List.range n).map fun i => if p then Loc.sp (o.elim 0 (·.1)) (o.elim 0 (·.2) + i) else placeOf lv (va + BitVec.ofNat 64 i)) =
      rngLocs (if p then o else none) lv va n := by
  unfold rngLocs
  by_cases hp : p
  · obtain ⟨⟨sh, off⟩, rfl⟩ := Option.isSome_iff_exists.mp (ho hp)
    rw [if_pos hp]
    exact List.map_congr_left fun i _ => if_pos hp
  · rw [if_neg hp]
    exact List.map_congr_left fun i _ => if_neg hp

/-- The bytes that a copy moves, and the sides of it that are scratchpad (R142). -/
abbrev cpyLen (f : SF) (t : Team) : Nat := ((t.rs (f.id.toNat % 64)).setWidth 32 : Lane32).toNat
abbrev FromSp (f : SF) : Prop := f.sub.toNat % 4 = 2 ∨ f.sub.toNat % 4 = 3
abbrev ToSp (f : SF) : Prop := f.sub.toNat % 4 = 1 ∨ f.sub.toNat % 4 = 3

section
variable {h : Hdr} {f : SF} {s : State} {t : Team} (hi : s.IssuesOnce t (.cpy h f) h)
include hi

theorem cpy_closed : t.tryR = none := by
  have hrow : rowOf (.cpy h f) = 0x12 := rowOf_of_encode (op := 0x120) rfl
  exact region_closed hi (by simp [tryEvent, hrow]) (by simp [actsPerLane, hrow])

/-- The first check of a copy. -/
theorem cpy_misaligned (h1 : ((cpyLen f t % 4 != 0 || (t.rs f.s2.toNat).toNat % 4 != 0) || (t.rs f.s1.toNat).toNat % 4 != 0) = true) :
    FreezesAt (exec (.cpy h f) s) s s.cur t h .misaligned 0 (if (t.rs f.s1.toNat).toNat % 4 = 0 then t.rs f.s2.toNat else t.rs f.s1.toNat) := by
  rw [show exec (.cpy h f) s = _ from once_next hi _]
  dsimp only
  rw [if_pos h1]
  have hea : (if ((t.rs f.s1.toNat).toNat % 4 != 0) = true then t.rs f.s1.toNat else t.rs f.s2.toNat) =
      if (t.rs f.s1.toNat).toNat % 4 = 0 then t.rs f.s2.toNat else t.rs f.s1.toNat := by
    by_cases h0 : (t.rs f.s1.toNat).toNat % 4 = 0 <;> simp [h0]
  rw [hea]
  exact fault_freezesAt hi.1.1 (cpy_closed hi) h _ _ _ _

section
variable (h1 : ((cpyLen f t % 4 != 0 || (t.rs f.s2.toNat).toNat % 4 != 0) || (t.rs f.s1.toNat).toNat % 4 != 0) = false)
include h1

/-- The source of a copy lies past SPBYTES. -/
theorem cpy_source_bounds (h2 : FromSp f ∧ (s.spRange t ((t.rs f.s2.toNat).setWidth 32) (cpyLen f t)).isNone = true) :
    FreezesAt (exec (.cpy h f) s) s s.cur t h .bounds 0 (t.rs f.s2.toNat &&& 0xFFFFFFFF) := by
  rw [show exec (.cpy h f) s = _ from once_next hi _]
  dsimp only
  rw [h1, if_neg Bool.false_ne_true, if_pos h2]
  exact fault_freezesAt hi.1.1 (cpy_closed hi) h _ _ _ _

section
variable (h2 : ¬(FromSp f ∧ (s.spRange t ((t.rs f.s2.toNat).setWidth 32) (cpyLen f t)).isNone = true))
include h2

/-- The destination of a copy lies past SPBYTES. -/
theorem cpy_dest_bounds (h3 : ToSp f ∧ (s.spRange t ((t.rs f.s1.toNat).setWidth 32) (cpyLen f t)).isNone = true) :
    FreezesAt (exec (.cpy h f) s) s s.cur t h .bounds 0 (t.rs f.s1.toNat &&& 0xFFFFFFFF) := by
  rw [show exec (.cpy h f) s = _ from once_next hi _]
  dsimp only
  rw [h1, if_neg Bool.false_ne_true, if_neg h2, if_pos h3]
  exact fault_freezesAt hi.1.1 (cpy_closed hi) h _ _ _ _

section
variable (h3 : ¬(ToSp f ∧ (s.spRange t ((t.rs f.s1.toNat).setWidth 32) (cpyLen f t)).isNone = true))
include h3

/-- A copy of no bytes. -/
theorem cpy_empty (h4 : cpyLen f t = 0) :
    Ends (exec (.cpy h f) s) (match copyBell f with | some b => s.bellArrive t.share b | none => s) s.cur { t with formed := true } [] := by
  rw [show exec (.cpy h f) s = _ from once_next hi _]
  dsimp only
  rw [h1, if_neg Bool.false_ne_true, if_neg h2, if_neg h3, if_pos h4]
  exact emptyXfer_ends hi.1.1 hi.1.2.2.2.2 f _

section
variable (h4 : cpyLen f t ≠ 0) {s1 : State}
include h4

/-- A page of a copy fails. -/
theorem cpy_pages {c : Cause} {ea : Word}
    (hc : s.checkRanges (coreOf s.cur) t.ctx ((if FromSp f then [] else [(t.rs f.s2.toNat, cpyLen f t, false)]) ++
      if ToSp f then [] else [(t.rs f.s1.toNat, cpyLen f t, true)]) = (s1, .bad c ea)) :
    FreezesAt (exec (.cpy h f) s) s1 s.cur t h c 0 ea := by
  have hteam := team_of_checkRanges hi.1.1 hc
  rw [show exec (.cpy h f) s = _ from once_next hi _]
  dsimp only
  rw [h1, if_neg Bool.false_ne_true, if_neg h2, if_neg h3, if_neg h4, hc]
  exact fault_freezesAt hteam (cpy_closed hi) h _ _ _ _

/-- A copy registers. -/
theorem cpy_registers {ls : List (List (Word × Leaf))} {sp dp : Option (Nat × Nat)}
    (hsp : sp = if FromSp f then s.spRange t ((t.rs f.s2.toNat).setWidth 32) (cpyLen f t) else none)
    (hdp : dp = if ToSp f then s.spRange t ((t.rs f.s1.toNat).setWidth 32) (cpyLen f t) else none)
    (hc : s.checkRanges (coreOf s.cur) t.ctx ((if FromSp f then [] else [(t.rs f.s2.toNat, cpyLen f t, false)]) ++
      if ToSp f then [] else [(t.rs f.s1.toNat, cpyLen f t, true)]) = (s1, .ok ls))
    (hroom : LockRoom s1 [rngLock s1 s.cur t s1.fresh false sp (t.rs f.s2.toNat) (cpyLen f t),
      rngLock s1 s.cur t s1.fresh true dp (t.rs f.s1.toNat) (cpyLen f t)]) :
    Registers (exec (.cpy h f) s) s1 s.cur t
      (newXfer s.cur t ((rngLocs sp (ls.headD []) (t.rs f.s2.toNat) (cpyLen f t)).map some) (rngLocs dp (ls.getLastD []) (t.rs f.s1.toNat) (cpyLen f t))
        (if dp.isSome then min (f.sub.toNat / 4) 2 else f.sub.toNat / 4) (copyBell f) (ls.flatten.map (·.2)))
      [rngLock s1 s.cur t s1.fresh false sp (t.rs f.s2.toNat) (cpyLen f t), rngLock s1 s.cur t s1.fresh true dp (t.rs f.s1.toNat) (cpyLen f t)] := by
  have hteam := team_of_checkRanges hi.1.1 hc
  rw [show exec (.cpy h f) s = _ from once_next hi _]
  dsimp only
  rw [h1, if_neg Bool.false_ne_true, if_neg h2, if_neg h3, if_neg h4, hc]
  dsimp only
  have hs : FromSp f → (s.spRange t ((t.rs f.s2.toNat).setWidth 32) (cpyLen f t)).isSome = true := fun hp => by
    rw [← Option.not_isNone, Bool.not_eq_true']
    exact Bool.eq_false_iff.mpr fun hn => h2 ⟨hp, hn⟩
  have hd : ToSp f → (s.spRange t ((t.rs f.s1.toNat).setWidth 32) (cpyLen f t)).isSome = true := fun hp => by
    rw [← Option.not_isNone, Bool.not_eq_true']
    exact Bool.eq_false_iff.mpr fun hn => h3 ⟨hp, hn⟩
  rw [locs_side (FromSp f) _ hs, locs_side (ToSp f) _ hd, ← hsp, ← hdp]
  have hscope : (if ToSp f then clampScope (f.sub.toNat / 4) else f.sub.toNat / 4) = if dp.isSome then min (f.sub.toNat / 4) 2 else f.sub.toNat / 4 := by
    rw [hdp]
    by_cases hp : ToSp f
    · rw [if_pos hp, if_pos hp, if_pos (hd hp)]
      rfl
    · rw [if_neg hp, if_neg hp]
      rfl
  rw [hscope]
  refine register_registers hteam hi.1.2.2.2.2 ?_ ?_ (ordered_pair (rngLock_ordered _ _ _ _ _ _ _ _) (rngLock_ordered _ _ _ _ _ _ _ _)) hroom _
  · rw [hsp]
    exact lockFor_side s1 s.cur t s1.fresh false (FromSp f) _ hs _ _
  · rw [hdp]
    exact lockFor_side s1 s.cur t s1.fresh true (ToSp f) _ hd _ _

end
end
end
end
end

/-! ## CPYT (R147) -/

theorem Released.team {s s2 : State} {tk : Nat} {t : Team} {sc : Nat} (h : Released s tk t sc s2) (k : Nat) : s2.team k = s.team k := h.flows.team k

theorem State.flows_readSectorFor (s : State) (core : Nat) (t : Team) (scope key : Nat) (mask : BitVec 32) :
    s.Flows (s.readSectorFor core t scope key mask).1 := by
  unfold State.readSectorFor
  cases find t.brought key with
  | some bs => exact .refl s
  | none =>
    dsimp only
    split_ifs
    · exact .refl s
    · exact s.flows_readSector core key mask scope false

/-- Steps that carry a state, over each of which bytes flow. -/
theorem flows_foldl {β γ : Type} (l : List γ) (f : State × β → γ → State × β) (hf : ∀ (a : State × β) (x : γ), State.Flows a.1 (f a x).1)
    (a : State × β) : State.Flows a.1 (l.foldl f a).1 := by
  induction l generalizing a with
  | nil => exact .refl a.1
  | cons x l ih => exact (hf a x).trans (ih (f a x))

theorem State.flows_readNow (s : State) (core : Nat) (t : Team) (scope a n : Nat) : s.Flows (s.readNow core t scope a n).1 := by
  unfold State.readNow
  dsimp only
  refine flows_foldl _ _ (fun acc key => ?_) (s, [], [])
  have h := acc.1.flows_readSectorFor core t scope key (coverMask key a n)
  rcases hr : acc.1.readSectorFor core t scope key (coverMask key a n) with ⟨s1, got⟩
  rw [hr] at h
  cases got <;> exact h

section
variable {s s2 : State} {t : Team} {tk a n : Nat} {va : Word} {write lockCheck : Bool} {bs : List Byte}
  (hr : RecordRead s tk t va n write lockCheck s2 a bs)
include hr

/-- A record that has been read leaves every team as it was. -/
theorem RecordRead.team (ht : s.team tk = some t) : s2.team tk = some t := by
  obtain ⟨-, s1, ps, hc, -, hweak, hstrong⟩ := hr
  have h1 := team_of_checkGlobal ht hc
  by_cases hord : ∃ p ∈ ps, p.leaf.ord = 1
  · obtain ⟨s3, s4, hrel, hread, rfl⟩ := hstrong hord
    have h4 := (State.flows_readNow (s3.acquire (coreOf tk) 5) (coreOf tk) t 5 a n).team tk
    rw [hread, (State.flows_acquire _ _ _).team, hrel.team] at h4
    rw [(State.flows_acquire _ _ _).team, h4, h1]
  · have h2 := (State.flows_readNow s1 (coreOf tk) t 0 a n).team tk
    rw [hweak fun p hp ho => hord ⟨p, hp, ho⟩] at h2
    exact h2.trans h1

/-- A word goes on behind a record that it has read. -/
theorem RecordRead.goes (h : Hdr) (go : State → Nat → List Byte → Act) : readChecked s h tk t va n write lockCheck go = go s2 a bs := by
  obtain ⟨hlost, s1, ps, hc, rfl, hweak, hstrong⟩ := hr
  unfold readChecked
  rw [hlost, if_neg Bool.false_ne_true, hc]
  dsimp only
  by_cases hord : ∃ p ∈ ps, p.leaf.ord = 1
  · obtain ⟨s3, s4, hrel, hread, rfl⟩ := hstrong hord
    have hs : (ps.any fun p => p.leaf.ord == 1) = true := by
      obtain ⟨p, hp, ho⟩ := hord
      exact List.any_eq_true.mpr ⟨p, hp, beq_iff_eq.mpr ho⟩
    rw [hs, if_pos rfl, releaseThen_released hrel, if_pos rfl, hread]
    rfl
  · have hs : (ps.any fun p => p.leaf.ord == 1) = false := by
      rw [List.any_eq_false]
      exact fun p hp ho => hord ⟨p, hp, beq_iff_eq.mp ho⟩
    rw [hs, if_neg Bool.false_ne_true, if_neg Bool.false_ne_true, hweak fun p hp ho => hord ⟨p, hp, ho⟩]
    rfl

end

/-- Bytes of scratchpad that a tile takes. -/
abbrev Shape.area (x : Shape) (f : SF) : Nat := if f.sub.getLsbD 4 then x.planeBytes else x.bytes

/-- The element offsets of the tile that are in bounds, and the address of an element's first byte. -/
abbrev Shape.elems (x : Shape) (f : SF) (t : Team) : List Nat := (x.offsets (tileOrigin t (f.id.toNat % 64))).filterMap id
abbrev Shape.va (x : Shape) (o : Nat) : Word := x.base + BitVec.ofNat 64 (x.elemAt o).1

/-- The first address of a tile's elements, and the one behind the last. -/
abbrev Shape.lo (x : Shape) (f : SF) (t : Team) : Nat :=
  ((x.elems f t).map fun o => (x.va o).toNat).foldl min (((x.elems f t).map fun o => (x.va o).toNat).headD 0)
abbrev Shape.hi (x : Shape) (f : SF) (t : Team) : Nat := ((x.elems f t).map fun o => (x.va o).toNat).foldl max 0 + (x.elemAt 0).2

/-- The lock of the tensor's side of a tile. -/
def tensorLock (s : State) (tk : Nat) (t : Team) (x : Shape) (f : SF) (w : Bool) : Nat × Lock :=
  if x.elems f t = [] then rngLock s tk t s.fresh w none 0 0 else rngLock s tk t s.fresh w none (BitVec.ofNat 64 (x.lo f t)) (x.hi f t - x.lo f t)

theorem tensor_lockFor (s : State) (tk : Nat) (t : Team) (x : Shape) (f : SF) (w : Bool) :
    s.lockFor t (coreOf tk) s.fresh w (if ((x.elems f t).map fun o => (x.va o).toNat).isEmpty then .glob 0 0
      else .glob (BitVec.ofNat 64 (x.lo f t)) (x.hi f t - x.lo f t)) = tensorLock s tk t x f w := by
  unfold tensorLock
  rw [List.isEmpty_map]
  by_cases hn : x.elems f t = []
  · rw [if_pos (List.isEmpty_iff.mpr hn), if_pos hn]
    rfl
  · rw [if_neg (by rw [List.isEmpty_iff]; exact hn), if_neg hn]
    rfl

theorem tensorLock_le (s : State) (tk : Nat) (t : Team) (x : Shape) (f : SF) (w : Bool) : (tensorLock s tk t x f w).2.lo ≤ (tensorLock s tk t x f w).2.hi := by
  unfold tensorLock
  split_ifs <;> exact rngLock_ordered _ _ _ _ _ _ _ _

theorem elemAt_bytes {x : Shape} (h : x.width ≠ 4) (o : Nat) : (x.elemAt o).2 = x.width / 8 := by
  unfold Shape.elemAt
  rw [if_neg h]

/-- The lists of the elements that are there, joined. -/
theorem flatten_filterMap_isSome {α β : Type} (l : List (Option α × Nat)) (g : Nat → List β) :
    (l.filterMap fun y => y.1.map fun _ => g y.2).flatten = (l.filter fun y => y.1.isSome).flatMap fun y => g y.2 := by
  induction l with
  | nil => rfl
  | cons y l ih =>
    obtain ⟨o, i⟩ := y
    cases o with
    | none => exact ih
    | some a => exact congrArg (g i ++ ·) ih

section
variable {h : Hdr} {f : SF} {s s2 s3 : State} {t : Team} {a : Nat} {bs : List Byte} (hi : s.IssuesOnce t (.cpyt h f) h)
include hi

theorem cpyt_closed : t.tryR = none := by
  have hrow : rowOf (.cpyt h f) = 0x12 := rowOf_of_encode (op := 0x121) rfl
  exact region_closed hi (by simp [tryEvent, hrow]) (by simp [actsPerLane, hrow])

section
variable (hr : RecordRead s s.cur t (t.rs f.s1.toNat) 64 false true s2 a bs)
include hr

/-- A record that breaks a condition of Table 05-7. -/
theorem cpyt_shape {sub : Nat} (hbad : (Shape.ofBytes bs).bad t.version (f.sub.getLsbD 4) = some sub) :
    FreezesAt (exec (.cpyt h f) s) s2 s.cur t h .shape sub (t.rs f.s1.toNat) := by
  rw [show exec (.cpyt h f) s = _ from once_next hi _]
  dsimp only
  rw [hr.goes, hbad]
  exact fault_freezesAt (hr.team hi.1.1) (cpyt_closed hi) h _ _ _ _

section
variable (hok : (Shape.ofBytes bs).bad t.version (f.sub.getLsbD 4) = none)
include hok

theorem cpyt_misaligned (hm : ((t.rs f.s2.toNat).setWidth 32 : Lane32).toNat % 16 ≠ 0) :
    FreezesAt (exec (.cpyt h f) s) s2 s.cur t h .misaligned 0 (((t.rs f.s2.toNat).setWidth 32 : Lane32).setWidth 64) := by
  rw [show exec (.cpyt h f) s = _ from once_next hi _]
  dsimp only
  rw [hr.goes, hok]
  dsimp only
  rw [if_pos (bne_iff_ne.mpr hm)]
  exact fault_freezesAt (hr.team hi.1.1) (cpyt_closed hi) h _ _ _ _

section
variable (hm : ((t.rs f.s2.toNat).setWidth 32 : Lane32).toNat % 16 = 0)
include hm

/-- What comes behind the alignment of the tile. -/
theorem cpyt_bounds (hb : s2.spRange t ((t.rs f.s2.toNat).setWidth 32) ((Shape.ofBytes bs).area f) = none) :
    FreezesAt (exec (.cpyt h f) s) s2 s.cur t h .bounds 0 (((t.rs f.s2.toNat).setWidth 32 : Lane32).setWidth 64) := by
  rw [show exec (.cpyt h f) s = _ from once_next hi _]
  dsimp only
  rw [hr.goes, hok]
  dsimp only
  rw [hm, bne_self_eq_false, if_neg Bool.false_ne_true, hb]
  exact fault_freezesAt (hr.team hi.1.1) (cpyt_closed hi) h _ _ _ _

section
variable {sh off : Nat} (hb : s2.spRange t ((t.rs f.s2.toNat).setWidth 32) ((Shape.ofBytes bs).area f) = some (sh, off))
include hb

theorem cpyt_pages {c : Cause} {ea : Word}
    (hc : s2.checkRanges (coreOf s.cur) t.ctx (((Shape.ofBytes bs).elems f t).map fun o =>
      ((Shape.ofBytes bs).va o, ((Shape.ofBytes bs).elemAt o).2, f.sub.getLsbD 0)) = (s3, .bad c ea)) :
    FreezesAt (exec (.cpyt h f) s) s3 s.cur t h c 0 ea := by
  rw [show exec (.cpyt h f) s = _ from once_next hi _]
  dsimp only
  rw [hr.goes, hok]
  dsimp only
  rw [hm, bne_self_eq_false, if_neg Bool.false_ne_true, hb]
  dsimp only
  rw [Bool.not_not, hc]
  exact fault_freezesAt (team_of_checkRanges (hr.team hi.1.1) hc) (cpyt_closed hi) h _ _ _ _

section
variable {ls : List (List (Word × Leaf))} (hc : s2.checkRanges (coreOf s.cur) t.ctx (((Shape.ofBytes bs).elems f t).map fun o =>
      ((Shape.ofBytes bs).va o, ((Shape.ofBytes bs).elemAt o).2, f.sub.getLsbD 0)) = (s3, .ok ls))
include hc

theorem cpyt_empty (hstore : f.sub.getLsbD 0 = true) (hnone : (Shape.ofBytes bs).elems f t = []) :
    Ends (exec (.cpyt h f) s) (match copyBell f with | some b => s3.bellArrive t.share b | none => s3) s.cur { t with formed := true } [] := by
  rw [show exec (.cpyt h f) s = _ from once_next hi _]
  dsimp only
  rw [hr.goes, hok]
  dsimp only
  rw [hm, bne_self_eq_false, if_neg Bool.false_ne_true, hb]
  dsimp only
  rw [Bool.not_not, hc]
  dsimp only
  have hgo : (f.sub.getLsbD 0 && ((Shape.ofBytes bs).elems f t).isEmpty) = true := by rw [hstore, hnone]; rfl
  rw [if_pos hgo]
  exact emptyXfer_ends (team_of_checkRanges (hr.team hi.1.1) hc) hi.1.2.2.2.2 f _

/-- A load registers, the tensor's lock first. -/
theorem cpyt_load (hload : f.sub.getLsbD 0 = false) (hroom : LockRoom s3 [tensorLock s3 s.cur t (Shape.ofBytes bs) f false,
      rngLock s3 s.cur t s3.fresh true (some (sh, off)) 0 ((Shape.ofBytes bs).area f)]) :
    ∃ y : Xfer, Registers (exec (.cpyt h f) s) s3 s.cur t y [tensorLock s3 s.cur t (Shape.ofBytes bs) f false,
        rngLock s3 s.cur t s3.fresh true (some (sh, off)) 0 ((Shape.ofBytes bs).area f)] ∧
      (f.sub.getLsbD 4 = false → 8 ≤ (Shape.ofBytes bs).width → y = newXfer s.cur t
        (((Shape.ofBytes bs).offsets (tileOrigin t (f.id.toNat % 64))).flatMap fun o =>
          (List.range ((Shape.ofBytes bs).width / 8)).map fun i => o.map fun o => placeOf ls.flatten ((Shape.ofBytes bs).va o + BitVec.ofNat 64 i))
        (spLocs sh off ((Shape.ofBytes bs).area f)) (min (f.sub.toNat / 2 % 8) 2) (copyBell f) (ls.flatten.map (·.2))) := by
  rw [show exec (.cpyt h f) s = _ from once_next hi _]
  dsimp only
  rw [hr.goes, hok]
  dsimp only
  rw [hm, bne_self_eq_false, if_neg Bool.false_ne_true, hb]
  dsimp only
  rw [Bool.not_not, hc]
  dsimp only
  rw [hload, Bool.false_and, if_neg Bool.false_ne_true, Bool.not_false, if_pos rfl, if_pos rfl]
  refine ⟨_, register_registers (l2 := rngLock s3 s.cur t s3.fresh true (some (sh, off)) 0 ((Shape.ofBytes bs).area f))
    (team_of_checkRanges (hr.team hi.1.1) hc) hi.1.2.2.2.2 (tensor_lockFor s3 s.cur t (Shape.ofBytes bs) f false) rfl
    (ordered_pair (tensorLock_le _ _ _ _ _ _) (rngLock_ordered _ _ _ _ _ _ _ _)) hroom _, fun hplane hwidth => ?_⟩
  have h4 : (Shape.ofBytes bs).width ≠ 4 := by omega
  simp only [Shape.area, hplane, h4, Bool.false_eq_true, if_false, if_true]
  rfl

/-- A store registers, the tile's lock first. -/
theorem cpyt_store (hstore : f.sub.getLsbD 0 = true) (hsome : (Shape.ofBytes bs).elems f t ≠ [])
    (hroom : LockRoom s3 [rngLock s3 s.cur t s3.fresh false (some (sh, off)) 0 ((Shape.ofBytes bs).area f),
      tensorLock s3 s.cur t (Shape.ofBytes bs) f true]) :
    ∃ y : Xfer, Registers (exec (.cpyt h f) s) s3 s.cur t y [rngLock s3 s.cur t s3.fresh false (some (sh, off)) 0 ((Shape.ofBytes bs).area f),
        tensorLock s3 s.cur t (Shape.ofBytes bs) f true] ∧
      (f.sub.getLsbD 4 = false → 8 ≤ (Shape.ofBytes bs).width → y = newXfer s.cur t
        ((((Shape.ofBytes bs).offsets (tileOrigin t (f.id.toNat % 64))).zipIdx.filter fun y => y.1.isSome).flatMap fun y =>
          (List.range ((Shape.ofBytes bs).width / 8)).map fun i => some (.sp sh (off + (Shape.ofBytes bs).width / 8 * y.2 + i)))
        (((Shape.ofBytes bs).elems f t).flatMap fun o =>
          (List.range ((Shape.ofBytes bs).width / 8)).map fun i => placeOf ls.flatten ((Shape.ofBytes bs).va o + BitVec.ofNat 64 i))
        (f.sub.toNat / 2 % 8) (copyBell f) (ls.flatten.map (·.2))) := by
  rw [show exec (.cpyt h f) s = _ from once_next hi _]
  dsimp only
  rw [hr.goes, hok]
  dsimp only
  rw [hm, bne_self_eq_false, if_neg Bool.false_ne_true, hb]
  dsimp only
  rw [Bool.not_not, hc]
  dsimp only
  have hgo : ¬(f.sub.getLsbD 0 && ((Shape.ofBytes bs).elems f t).isEmpty) = true := by
    rw [hstore, Bool.true_and, List.isEmpty_iff]
    exact hsome
  rw [if_neg hgo, hstore, Bool.not_true, if_neg Bool.false_ne_true,
    if_neg Bool.false_ne_true]
  refine ⟨_, register_registers (l1 := rngLock s3 s.cur t s3.fresh false (some (sh, off)) 0 ((Shape.ofBytes bs).area f))
    (team_of_checkRanges (hr.team hi.1.1) hc) hi.1.2.2.2.2 rfl (tensor_lockFor s3 s.cur t (Shape.ofBytes bs) f true)
    (ordered_pair (rngLock_ordered _ _ _ _ _ _ _ _) (tensorLock_le _ _ _ _ _ _)) hroom _, fun hplane hwidth => ?_⟩
  have h4 : (Shape.ofBytes bs).width ≠ 4 := by omega
  simp only [hplane, h4, Bool.false_eq_true, if_false, elemAt_bytes h4]
  exact congrArg (fun src => newXfer s.cur t src _ _ _ _) (flatten_filterMap_isSome _ fun j =>
    (List.range ((Shape.ofBytes bs).width / 8)).map fun i => some (Loc.sp sh (off + (Shape.ofBytes bs).width / 8 * j + i)))

end
end
end
end
end
end

/-! ## Copies and tiles -/

theorem cpyLen_eq (f : SF) (t : Team) : cpyLen f t = (t.rs (f.id.toNat % 64)).toNat % 2 ^ 32 := BitVec.toNat_setWidth 32 _

theorem resolve_low (s : State) (t : Team) (x : Word) : s.resolve t ((x.setWidth 32 : Lane32).toNat) = s.resolve t (x.toNat % 2 ^ 32) := by
  rw [BitVec.toNat_setWidth]

/-- A copy's operands are aligned. -/
theorem cpy_aligned_iff (f : SF) (t : Team) :
    ((cpyLen f t % 4 != 0 || (t.rs f.s2.toNat).toNat % 4 != 0) || (t.rs f.s1.toNat).toNat % 4 != 0) = false ↔
      (cpyLen f t % 4 = 0 ∧ (t.rs f.s2.toNat).toNat % 4 = 0 ∧ (t.rs f.s1.toNat).toNat % 4 = 0) := by
  rw [Bool.or_eq_false_iff, Bool.or_eq_false_iff, bne_eq_false_iff_eq, bne_eq_false_iff_eq, bne_eq_false_iff_eq, and_assoc]

/-- A side of a copy that is scratchpad passes its check where its range lies within SPBYTES. -/
theorem side_passes (s : State) (t : Team) (p : Prop) (x : Word) (n : Nat)
    (h : p → ∃ q, s.resolve t (x.toNat % 2 ^ 32) = some q ∧ q.2 + n ≤ s.spBytesOf t q.1) : ¬(p ∧ (s.spRange t (x.setWidth 32) n).isNone = true) := by
  rintro ⟨hp, hn⟩
  rw [State.spRange_isNone, resolve_low] at hn
  exact hn (h hp)

theorem side_range (s : State) (t : Team) (p : Prop) [Decidable p] (x : Word) (n : Nat) (o : Option (Nat × Nat))
    (h : if p then ∃ q, o = some q ∧ s.resolve t (x.toNat % 2 ^ 32) = some q ∧ q.2 + n ≤ s.spBytesOf t q.1 else o = none) :
    o = (if p then s.spRange t (x.setWidth 32) n else none) ∧ (o.isSome = true ↔ p) ∧
      (p → ∃ q, s.resolve t (x.toNat % 2 ^ 32) = some q ∧ q.2 + n ≤ s.spBytesOf t q.1) := by
  by_cases hp : p
  · rw [if_pos hp] at h ⊢
    obtain ⟨q, rfl, hq⟩ := h
    refine ⟨((s.spRange_eq_some t _ n q).mpr ⟨by rw [resolve_low]; exact hq.1, hq.2⟩).symm, by simp [hp], fun _ => ⟨q, hq⟩⟩
  · rw [if_neg hp] at h ⊢
    exact ⟨h, by simp [hp, h], fun h => absurd h hp⟩

/-- Settles O21: a copy's checks in order, then its registration; a tile's record, its checks, and what its transfer moves. -/
theorem copiesRegisterTransfers : Obligations.CopiesRegisterTransfers := by
  unfold Obligations.CopiesRegisterTransfers
  refine ⟨?_, checkRanges_page, ?_⟩
  · intro h f s t core n da sa dir low inSp aligned hi
    have hlen : n = cpyLen f t := (cpyLen_eq f t).symm
    clear_value n
    subst hlen
    have hal : aligned ↔ _ := (cpy_aligned_iff f t).symm
    have hlow (x : Word) : BitVec.ofNat 64 (low x) = x &&& 0xFFFFFFFF := (low_and x).symm
    refine ⟨?_, fun h1 h4 h2 h3 => ?_, fun h1 => ?_, fun h1 hd h2 => ?_, fun h1 h2 hd h3 => ?_, fun s1 c ea h1 h4 h2 h3 hc => ?_⟩
    · intro sp dp s1 ls h1 h4 hsp hdp hc locks hroom
      obtain ⟨hsp', hsp2, hsp3⟩ := side_range s t _ _ (cpyLen f t) sp hsp
      obtain ⟨hdp', hdp2, hdp3⟩ := side_range s t _ _ (cpyLen f t) dp hdp
      rw [if_congr hsp2 rfl rfl, if_congr hdp2 rfl rfl] at hc
      exact cpy_registers hi (hal.mp h1) (side_passes s t _ _ _ hsp3) (side_passes s t _ _ _ hdp3) h4 hsp' hdp' hc hroom
    · exact cpy_empty hi (hal.mp h1) (side_passes s t _ _ _ h2) (side_passes s t _ _ _ h3) h4
    · exact cpy_misaligned hi (Bool.eq_true_of_not_eq_false fun hn => h1 (hal.mpr hn))
    · rw [hlow]
      refine cpy_source_bounds hi (hal.mp h1) ⟨hd, ?_⟩
      rw [State.spRange_isNone, resolve_low]
      exact h2
    · rw [hlow]
      refine cpy_dest_bounds hi (hal.mp h1) (side_passes s t _ _ _ h2) ⟨hd, ?_⟩
      rw [State.spRange_isNone, resolve_low]
      exact h3
    · exact cpy_pages hi (hal.mp h1) (side_passes s t _ _ _ h2) (side_passes s t _ _ _ h3) h4 hc
  · intro h f s s2 s3 t a bs sh off ls core load sa x offs elems va gl w plane area lo hi' hi hr
    refine ⟨fun sub hbad => cpyt_shape hi hr hbad, fun hok hm => cpyt_misaligned hi hr hok hm, fun hok hm hb => cpyt_bounds hi hr hok hm ?_,
      fun hok hm hres hle c ea hc => cpyt_pages hi hr hok hm (sh := sh) (off := off) ?_ hc, ?_⟩
    · exact Option.isNone_iff_eq_none.mp ((State.spRange_isNone s2 t sa area).mpr hb)
    · exact (s2.spRange_eq_some t sa area (sh, off)).mpr ⟨hres, hle⟩
    · intro hok hm hres hle hc gLock sLock whole e
      have hb := (s2.spRange_eq_some t sa area (sh, off)).mpr ⟨hres, hle⟩
      refine ⟨fun hload hroom => ?_, fun hstore hsome hroom => ?_, fun hstore hnone => ?_⟩
      · have hg : gLock = tensorLock s3 s.cur t x f false := by
          rw [← hload]
          rfl
        have hs : sLock = rngLock s3 s.cur t s3.fresh true (some (sh,
          off)) 0 area := congrArg (fun b => rngLock s3 s.cur t s3.fresh (!b) _ 0 area) hload
        rw [hg, hs] at hroom ⊢
        obtain ⟨y, hy, hwhole⟩ := cpyt_load hi hr hok hm hb hc hload hroom
        exact ⟨y, hy, fun hw => hwhole hw.1 hw.2⟩
      · have hst : f.sub.getLsbD 0 = true := Bool.eq_true_of_not_eq_false hstore
        have hg : gLock = tensorLock s3 s.cur t x f true := by
          rw [← hst]
          rfl
        have hs : sLock = rngLock s3 s.cur t s3.fresh false (some (sh,
          off)) 0 area := congrArg (fun b => rngLock s3 s.cur t s3.fresh (!b) _ 0 area) hst
        rw [hg, hs] at hroom ⊢
        obtain ⟨y, hy, hwhole⟩ := cpyt_store hi hr hok hm hb hc hst hsome hroom
        exact ⟨y, hy, fun hw => hwhole hw.1 hw.2⟩
      · exact cpyt_empty hi hr hok hm hb hc (Bool.eq_true_of_not_eq_false hstore) hnone

end Sys2Proof.Machine

/-! PROOFS. Tile positions, shape records, gathers and scatters (R144 to R148). -/

namespace Sys2Proof.Machine

open Host

/-! ## Where a tile's elements stand (R146) -/

theorem map_zipIdx_eq {β : Type} (l : List Nat) (g : Nat × Nat → β) : l.zipIdx.map g = (List.range l.length).map fun d => g (l.getD d 0, d) := by
  refine List.ext_getElem (by simp) fun i h1 h2 => ?_
  have hi : i < l.length := by simpa using h1
  simp [List.getElem?_eq_getElem hi]

theorem length_tileIx (es : List Nat) (pos : Nat) : (tileIx es pos).length = es.length := by
  induction es generalizing pos with
  | nil => rfl
  | cons e es ih => exact congrArg (· + 1) (ih (pos / e))

theorem tileIx_lt (es : List Nat) (pos d : Nat) (hpos : ∀ e ∈ es, 0 < e) (hd : d < es.length) : (tileIx es pos).getD d 0 < es.getD d 0 := by
  induction es generalizing pos d with
  | nil => exact absurd hd (Nat.not_lt_zero d)
  | cons e es ih =>
    cases d with
    | zero => exact Nat.mod_lt _ (hpos e List.mem_cons_self)
    | succ d => exact ih (pos / e) d (fun x hx => hpos x (List.mem_cons_of_mem e hx)) (Nat.lt_of_succ_lt_succ hd)

/-- The digits of a position in the tile's mixed radix, dimension 0 first. -/
theorem tileIx_value (es : List Nat) (pos : Nat) (hlt : pos < es.prod) :
    pos = ((List.range es.length).map fun d => (tileIx es pos).getD d 0 * (es.take d).prod).sum := by
  induction es generalizing pos with
  | nil =>
    rw [List.prod_nil] at hlt
    exact Nat.lt_one_iff.mp hlt
  | cons e es ih =>
    rw [List.prod_cons] at hlt
    have hrest := ih (pos / e) (Nat.div_lt_of_lt_mul hlt)
    have hscale : ((List.range es.length).map fun d => (tileIx (e :: es) pos).getD (d + 1) 0 * ((e :: es).take (d + 1)).prod).sum = e * (pos / e) := by
      conv_rhs => rw [hrest]
      rw [← List.sum_map_mul_left]
      refine congrArg List.sum (List.map_congr_left fun d _ => ?_)
      rw [List.take_succ_cons, List.prod_cons]
      exact Nat.mul_left_comm _ _ _
    rw [List.length_cons, List.range_succ_eq_map, List.map_cons, List.map_map, List.sum_cons]
    calc pos = pos % e + e * (pos / e) := (Nat.mod_add_div pos e).symm
      _ = _ := by rw [← hscale]; simp [tileIx, Function.comp_def]

theorem Shape.count_eq (x : Shape) : x.count = (x.exts.take x.rank).prod := List.prod_eq_foldl.symm

/-- The element of a tile position. -/
theorem Shape.offsets_getElem (x : Shape) (c : List Nat) {pos : Nat} (hpos : pos < x.count) (hrank : x.rank ≤ x.exts.length) :
    (x.offsets c)[pos]? = some (if ∀ d < x.rank, c.getD d 0 + (tileIx (x.exts.take x.rank) pos).getD d 0 < x.dims.getD d 0 then
      some ((List.range x.rank).map fun d => (c.getD d 0 + (tileIx (x.exts.take x.rank) pos).getD d 0) * x.strides.getD d 0).sum else none) := by
  have hlen : (tileIx (x.exts.take x.rank) pos).length = x.rank := by rw [length_tileIx, List.length_take, Nat.min_eq_left hrank]
  unfold Shape.offsets
  rw [List.getElem?_map, List.getElem?_range hpos, Option.map_some]
  dsimp only
  rw [map_zipIdx_eq, hlen]
  have hget (d : Nat) (hd : d < x.rank) : ((List.range x.rank).map fun d => c.getD d 0 + (tileIx (x.exts.take x.rank) pos).getD d 0).getD d 0 =
      c.getD d 0 + (tileIx (x.exts.take x.rank) pos).getD d 0 := by
    simp [List.getD_eq_getElem?_getD, List.getElem?_range hd]
  have hall : (((List.range x.rank).map fun d => c.getD d 0 + (tileIx (x.exts.take x.rank) pos).getD d 0).zipIdx.all
      fun y => decide (y.1 < x.dims.getD y.2 0)) = true ↔ ∀ d < x.rank,
        c.getD d 0 + (tileIx (x.exts.take x.rank) pos).getD d 0 < x.dims.getD d 0 := by
    rw [← Function.id_comp fun y : Nat × Nat => decide (y.1 < x.dims.getD y.2 0), ← List.all_map, map_zipIdx_eq, List.all_map, List.all_eq_true,
      List.length_map, List.length_range]
    refine ⟨fun h d hd => ?_, fun h d hd => ?_⟩
    · have := of_decide_eq_true (h d (List.mem_range.mpr hd))
      rwa [hget d hd] at this
    · refine decide_eq_true ?_
      rw [hget d (List.mem_range.mp hd)]
      exact h d (List.mem_range.mp hd)
  rw [map_zipIdx_eq, List.length_map, List.length_range, if_congr hall rfl rfl, ← List.sum_eq_foldl]
  refine congrArg some (if_congr Iff.rfl (congrArg some (congrArg List.sum (List.map_congr_left fun d hd => ?_))) rfl)
  rw [hget d (List.mem_range.mp hd)]

theorem offsets_rule (x : Shape) (c : List Nat) (pos : Nat) (hpos : pos < x.count) (hext : ∀ e ∈ x.exts.take x.rank, 0 < e)
    (hrank : x.rank ≤ x.exts.length) : (x.offsets c).length = x.count ∧ ∃ js : List Nat, js.length = x.rank ∧
      (∀ d < x.rank, js.getD d 0 < x.exts.getD d 0) ∧
      pos = ((List.range x.rank).map fun d => js.getD d 0 * ((x.exts.take d).foldl (· * ·) 1)).sum ∧
      (x.offsets c)[pos]? = some (if ∀ d < x.rank, c.getD d 0 + js.getD d 0 < x.dims.getD d 0 then
        some ((List.range x.rank).map fun d => (c.getD d 0 + js.getD d 0) * x.strides.getD d 0).sum else none) := by
  have hlen : (x.exts.take x.rank).length = x.rank := by rw [List.length_take, Nat.min_eq_left hrank]
  refine ⟨by simp [Shape.offsets], tileIx (x.exts.take x.rank) pos, by rw [length_tileIx, hlen], fun d hd => ?_, ?_, x.offsets_getElem c hpos hrank⟩
  · have h := tileIx_lt _ pos d hext (by rw [hlen]; exact hd)
    rwa [show (x.exts.take x.rank).getD d 0 = x.exts.getD d 0 by
      rw [List.getD_eq_getElem?_getD, List.getElem?_take_of_lt hd, ← List.getD_eq_getElem?_getD]] at h
  · have h := tileIx_value (x.exts.take x.rank) pos (by rw [← x.count_eq]; exact hpos)
    rw [hlen] at h
    refine h.trans (congrArg List.sum (List.map_congr_left fun d hd => ?_))
    rw [List.take_take, Nat.min_eq_left (List.mem_range.mp hd).le, List.prod_eq_foldl]

/-! ## SHAPE (R144, R145) -/

section
variable {h : Hdr} {f : SF} {s s2 : State} {t : Team} {a : Nat} {bs : List Byte} (hi : s.IssuesOnce t (.shape h f) h)
  (hr : RecordRead s s.cur t (t.rs f.s1.toNat) 64 false true s2 a bs)
include hi hr

theorem shape_ends (hok : (Shape.ofBytes bs).bad t.version false = none) :
    EndsLong (exec (.shape h f) s) s2 s.cur t [(.s f.s2.toNat, 0,
      BitVec.ofNat 64 (((Shape.ofBytes bs).count * (Shape.ofBytes bs).width + 7) / 8))] := by
  rw [show exec (.shape h f) s = _ from once_next hi _]
  dsimp only
  rw [hr.goes, hok]
  dsimp only
  rw [State.updTeam_some (hr.team hi.1.1)]
  exact endsLong_retire (State.team_setTeam _ _ _) hi.1.2.2.2.2 (fun _ => State.setTeam_setTeam _ _ _ _) rfl ⟨rfl, rfl⟩ (t.wroteLong_longS _ _)

theorem shape_bad {sub : Nat} (hbad : (Shape.ofBytes bs).bad t.version false = some sub) :
    FreezesAt (exec (.shape h f) s) s2 s.cur t h .shape sub (t.rs f.s1.toNat) := by
  have hrow : rowOf (.shape h f) = 0x12 := rowOf_of_encode (op := 0x124) rfl
  rw [show exec (.shape h f) s = _ from once_next hi _]
  dsimp only
  rw [hr.goes, hbad]
  exact fault_freezesAt (hr.team hi.1.1) (region_closed hi (by simp [tryEvent, hrow]) (by simp [actsPerLane, hrow])) h _ _ _ _

end

/-! ## GATH and SCAT (R148) -/

/-- An aligned access within a page is one piece. -/
theorem State.checkGlobal_piece {s : State} {core ctx n : Nat} {va : Word} {write rmw split lockCheck probe : Bool} {l : Leaf} (hn : n ∣ 65536)
    (hal : va.toNat % n = 0) (ht : s.translate core ctx va write = (s, .ok l)) (hp : s.checkPart core l va.toNat n write rmw lockCheck probe = none) :
    s.checkGlobal core ctx va n write rmw split lockCheck probe = (s, .ok [⟨l, 65536 * l.gpn + va.toNat % 65536, n⟩]) := by
  have hfirst : min n (65536 - va.toNat % 65536) = n := by
    refine Nat.min_eq_left (Nat.le_of_dvd (by omega) (Nat.dvd_sub hn ?_))
    exact (Nat.dvd_mod_iff hn).mpr (Nat.dvd_of_mod_eq_zero hal)
  unfold State.checkGlobal
  rw [hal, bne_self_eq_false, Bool.false_and, if_neg Bool.false_ne_true]
  dsimp only
  rw [hfirst, if_pos rfl, List.foldl_cons, List.foldl_nil]
  dsimp only
  rw [ht]
  dsimp only
  rw [hp]
  rfl

theorem State.checkPart_none {s : State} {core va n : Nat} {l : Leaf} {write : Bool} (ho : l.ord ≠ 3) (hw : write = true → l.w = true)
    (hpool : s.pooled l.gpn = false) (hlost : (s.pkg (pkgOf core)).knownLost l.gpn = false)
    (hpois : write = false → s.poisonedAt (pkgOf core) l.gpn (va % 65536) n = false) : s.checkPart core l va n write false false false = none := by
  unfold State.checkPart
  dsimp only
  rw [if_neg ho, hpool, hlost, Bool.false_and, if_neg Bool.false_ne_true, Bool.and_false, if_neg Bool.false_ne_true, Bool.or_false, Bool.or_false]
  cases write with
  | false => rw [hpois rfl]; rfl
  | true => rw [hw rfl]; rfl

/-- What the checks of a gather or scatter answer for a lane that passes them. -/
def passedLane (leaf : Nat → Leaf) (ga : Nat → Word) (n : Nat) (sh off : Nat → Nat) (L : Nat) : Nat × Chk × Except Cause (Nat × Nat) :=
  (L, .ok [⟨leaf L, 65536 * (leaf L).gpn + (ga L).toNat % 65536, n⟩], .ok (sh L, off L))

theorem foldl_passed {α : Type} (s : State) (f : State × List α → Nat → State × List α) (g : Nat → α) (lanes : List Nat) (acc : List α)
    (hf : ∀ L ∈ lanes, ∀ acc, f (s, acc) L = (s, acc ++ [g L])) : lanes.foldl f (s, acc) = (s, acc ++ lanes.map g) := by
  induction lanes generalizing acc with
  | nil => rw [List.map_nil, List.append_nil, List.foldl_nil]
  | cons L ls ih =>
    rw [List.foldl_cons, hf L List.mem_cons_self, ih _ fun L hL => hf L (List.mem_cons_of_mem _ hL), List.map_cons, List.append_assoc,
      List.singleton_append]

section
variable {h : Hdr} {f : SF} {s : State} {t : Team} {leaf : Nat → Leaf} {sh off : Nat → Nat} {gath : Bool} {n : Nat} {ga : Nat → Word} {sa : Nat → Nat}

/-- The lanes of a gather or scatter pass their checks. -/
def LanesPass (s : State) (t : Team) (h : Hdr) (gath : Bool) (leaf : Nat → Leaf) (ga : Nat → Word) (sa : Nat → Nat) (n : Nat) (sh off : Nat → Nat) : Prop :=
  ∀ L ∈ t.act h, (ga L).toNat % n = 0 ∧ s.translate (coreOf s.cur) t.ctx (ga L) (!gath) = (s, .ok (leaf L)) ∧
    (leaf L).ord ≠ 3 ∧ (gath = false → (leaf L).w = true) ∧ s.pooled (leaf L).gpn = false ∧ (s.pkg (pkgOf (coreOf s.cur))).knownLost (leaf L).gpn = false ∧
    (gath = true → s.poisonedAt (pkgOf (coreOf s.cur)) (leaf L).gpn ((ga L).toNat % 65536) n = false) ∧ s.checkSp t (sa L) n gath false = .ok (sh L,
      off L)

theorem LanesPass.checks (hn : n ∣ 65536) (hp : LanesPass s t h gath leaf ga sa n sh off) :
    (t.act h).foldl (fun (acc : State × List (Nat × Chk × Except Cause (Nat × Nat))) L =>
      let (s, c) := acc.1.checkGlobal (coreOf s.cur) t.ctx (ga L) n (!gath) false false false
      (s, acc.2 ++ [(L, c, s.checkSp t (sa L) n gath false)])) (s, []) = (s, (t.act h).map (passedLane leaf ga n sh off)) := by
  refine (foldl_passed s _ (passedLane leaf ga n sh off) (t.act h) [] fun L hL acc => ?_).trans (by rw [List.nil_append])
  obtain ⟨hal, htr, ho, hw, hpool, hlost, hpois, hsp⟩ := hp L hL
  have hpart := State.checkPart_none (s := s) (core := coreOf s.cur) (va := (ga L).toNat) (n := n) (write := !gath) ho
    (fun h => hw (by simpa using h)) hpool hlost (fun h => hpois (by simpa using h))
  dsimp only
  rw [State.checkGlobal_piece hn hal htr hpart]
  dsimp only
  rw [hsp]
  rfl

/-- The bytes of the two sides, by lanes, and the ranges that their locks take. -/
abbrev gathBytes (h : Hdr) (t : Team) (leaf : Nat → Leaf) (ga : Nat → Word) (n : Nat) : List Loc :=
  (t.act h).flatMap fun L => (List.range n).map fun i => Loc.glob (65536 * (leaf L).gpn + (ga L).toNat % 65536 + i)
abbrev spadBytes (h : Hdr) (t : Team) (sh off : Nat → Nat) (n : Nat) : List Loc := (t.act h).flatMap fun L => spLocs (sh L) (off L) n
abbrev gathRng (h : Hdr) (t : Team) (ga : Nat → Word) (n : Nat) : Rng :=
  let gs := (t.act h).map fun L => (ga L).toNat
  .glob (BitVec.ofNat 64 (gs.foldl min (gs.headD 0))) (gs.foldl max 0 + n - gs.foldl min (gs.headD 0))
abbrev spadRng (h : Hdr) (t : Team) (sh off : Nat → Nat) (n : Nat) : Rng :=
  let os := (t.act h).map off
  .sp ((((t.act h).head?).map sh).getD 0) (os.foldl min (os.headD 0)) (os.foldl max 0 + n - os.foldl min (os.headD 0))

/-- A gather or scatter whose lanes pass: with no lane it completes at once, with some it registers (R148). -/
theorem gatherScatter_eq (hn : n = 2 ^ (f.sub.toNat % 8)) (hdvd : n ∣ 65536) (hga : ga = fun L => t.rvd f.v.toNat L + t.rs f.s2.toNat)
    (hsa : sa = fun L => ((t.rs f.s1.toNat).toNat + L * n) % 2 ^ 32) (hp : LanesPass s t h gath leaf ga sa n sh off) :
    gatherScatter h f gath s s.cur t = if (t.act h).isEmpty then emptyXfer s s.cur t (bellOf f)
      else if gath then register s s.cur t (newXfer s.cur t ((gathBytes h t leaf ga n).map some) (spadBytes h t sh off n) (clampScope (f.sub.toNat / 8))
        (bellOf f) ((t.act h).map leaf)) (gathRng h t ga n) (spadRng h t sh off n)
      else register s s.cur t (newXfer s.cur t ((spadBytes h t sh off n).map some) (gathBytes h t leaf ga n) (f.sub.toNat / 8) (bellOf f)
        ((t.act h).map leaf)) (spadRng h t sh off n) (gathRng h t ga n) := by
  subst hn hga hsa
  have hchecks := hp.checks hdvd
  unfold gatherScatter
  dsimp only
  dsimp only at hchecks
  rw [hchecks]
  simp only [List.findSome?_map, List.any_map, List.filterMap_map, List.flatMap_map, Function.comp_def, passedLane]
  rw [List.findSome?_eq_none_iff.mpr fun _ _ => rfl]
  have hany : ((t.act h).any fun _ => (none : Option Cause).isSome) = false := List.any_eq_false.mpr fun _ _ => Bool.false_ne_true
  dsimp only
  rw [hany, if_neg Bool.false_ne_true]
  simp only [List.head?_cons, Option.map_some, List.filterMap_eq_map', List.map_map, List.flatMap_map, List.isEmpty_map, List.map_cons, List.map_nil,
    Function.comp_def, List.head?_map]
  have hleaves : ((t.act h).flatMap fun L => [leaf L]) = (t.act h).map leaf := List.map_eq_flatMap.symm
  have hhead (F : Nat → Nat × Nat × Nat × Nat) (hF : ∀ x, (F x).2.2.1 = sh x) :
      (((t.act h).head?.map F).elim 0 fun x => x.2.2.1) = ((t.act h).head?.map sh).getD 0 := by
    cases (t.act h).head? with
    | none => rfl
    | some L => exact hF L
  rw [hleaves, hhead _ fun _ => rfl]

end

section
variable {h : Hdr} {f : SF} {s : State} {t : Team} {leaf : Nat → Leaf} {sh off : Nat → Nat}

/-- The bytes of a lane's element, its address and its place (R148). -/
abbrev laneBytes (f : SF) : Nat := 2 ^ (f.sub.toNat % 8)
abbrev laneVa (f : SF) (t : Team) (L : Nat) : Word := t.rvd f.v.toNat L + t.rs f.s2.toNat
abbrev lanePlace (f : SF) (t : Team) (L : Nat) : Nat := ((t.rs f.s1.toNat).toNat + L * laneBytes f) % 2 ^ 32

theorem laneBytes_dvd (f : SF) : laneBytes f ∣ 65536 := by
  rw [show 65536 = 2 ^ 16 from rfl]
  exact Nat.pow_dvd_pow 2 ((Nat.mod_lt _ (by decide)).le.trans (by decide))

/-- The locks of a gather or scatter, a global range's and a scratchpad range's. -/
abbrev gathLock (s : State) (h : Hdr) (f : SF) (t : Team) (w : Bool) : Nat × Lock :=
  let gs := (t.act h).map fun L => (laneVa f t L).toNat
  rngLock s s.cur t s.fresh w none (BitVec.ofNat 64 (gs.foldl min (gs.headD 0))) (gs.foldl max 0 + laneBytes f - gs.foldl min (gs.headD 0))
abbrev spadLock (s : State) (h : Hdr) (f : SF) (t : Team) (sh off : Nat → Nat) (w : Bool) : Nat × Lock :=
  let os := (t.act h).map off
  rngLock s s.cur t s.fresh w (some ((((t.act h).head?).map sh).getD 0, os.foldl min (os.headD 0))) 0
    (os.foldl max 0 + laneBytes f - os.foldl min (os.headD 0))

theorem gath_empty (hi : s.Issues t (.gath h f) h) (hp : LanesPass s t h true leaf (laneVa f t) (lanePlace f t) (laneBytes f) sh off)
    (hnone : t.act h = []) :
    Ends (exec (.gath h f) s) (match copyBell f with | some b => s.bellArrive t.share b | none => s) s.cur { t with formed := true } [] := by
  rw [show exec (.gath h f) s = _ from issue_next hi _, gatherScatter_eq rfl (laneBytes_dvd f) rfl rfl hp, hnone, List.isEmpty_nil, if_pos rfl]
  exact emptyXfer_ends hi.1 hi.2.2.2.2 f _

theorem scat_empty (hi : s.Issues t (.scat h f) h) (hp : LanesPass s t h false leaf (laneVa f t) (lanePlace f t) (laneBytes f) sh off)
    (hnone : t.act h = []) :
    Ends (exec (.scat h f) s) (match copyBell f with | some b => s.bellArrive t.share b | none => s) s.cur { t with formed := true } [] := by
  rw [show exec (.scat h f) s = _ from issue_next hi _, gatherScatter_eq rfl (laneBytes_dvd f) rfl rfl hp, hnone, List.isEmpty_nil, if_pos rfl]
  exact emptyXfer_ends hi.1 hi.2.2.2.2 f _

theorem gath_registers (hi : s.Issues t (.gath h f) h) (hp : LanesPass s t h true leaf (laneVa f t) (lanePlace f t) (laneBytes f) sh off)
    (hsome : t.act h ≠ []) (hroom : LockRoom s [gathLock s h f t false, spadLock s h f t sh off true]) :
    Registers (exec (.gath h f) s) s s.cur t (newXfer s.cur t ((gathBytes h t leaf (laneVa f t) (laneBytes f)).map some)
      (spadBytes h t sh off (laneBytes f)) (min (f.sub.toNat / 8) 2) (copyBell f) ((t.act h).map leaf))
      [gathLock s h f t false, spadLock s h f t sh off true] := by
  rw [show exec (.gath h f) s = _ from issue_next hi _, gatherScatter_eq rfl (laneBytes_dvd f) rfl rfl hp,
    if_neg (fun he => hsome (List.isEmpty_iff.mp he)), if_pos rfl]
  exact register_registers (l1 := gathLock s h f t false) (l2 := spadLock s h f t sh off true) hi.1 hi.2.2.2.2 rfl rfl (ordered_pair (rngLock_ordered _ _ _ _ _ _ _ _) (rngLock_ordered _ _ _ _ _ _ _ _)) hroom _

theorem scat_registers (hi : s.Issues t (.scat h f) h) (hp : LanesPass s t h false leaf (laneVa f t) (lanePlace f t) (laneBytes f) sh off)
    (hsome : t.act h ≠ []) (hroom : LockRoom s [spadLock s h f t sh off false, gathLock s h f t true]) :
    Registers (exec (.scat h f) s) s s.cur t (newXfer s.cur t ((spadBytes h t sh off (laneBytes f)).map some)
      (gathBytes h t leaf (laneVa f t) (laneBytes f)) (f.sub.toNat / 8) (copyBell f) ((t.act h).map leaf))
      [spadLock s h f t sh off false, gathLock s h f t true] := by
  rw [show exec (.scat h f) s = _ from issue_next hi _, gatherScatter_eq rfl (laneBytes_dvd f) rfl rfl hp,
    if_neg (fun he => hsome (List.isEmpty_iff.mp he)), if_neg Bool.false_ne_true]
  exact register_registers (l1 := spadLock s h f t sh off false) (l2 := gathLock s h f t true) hi.1 hi.2.2.2.2 rfl rfl (ordered_pair (rngLock_ordered _ _ _ _ _ _ _ _) (rngLock_ordered _ _ _ _ _ _ _ _)) hroom _

end

/-- Settles O22: a position's tile indices are its mixed-radix digits; SHAPE by its record; a gather or scatter by what its lanes' checks answer. -/
theorem shapesGatherScatter : Obligations.ShapesGatherScatter := by
  unfold Obligations.ShapesGatherScatter
  refine ⟨⟨offsets_rule, ?_⟩, ?_⟩
  · intro h f s s2 t a bs x hi hr
    exact ⟨shape_ends hi hr, fun sub => shape_bad hi hr⟩
  · intro h f s t leaf sh off core n ga sa lanes checked gl sp lo hi so top gLock sLock e rung
    exact ⟨fun hi hp => ⟨gath_empty hi hp, gath_registers hi hp⟩, fun hi hp => ⟨scat_empty hi hp, scat_registers hi hp⟩⟩

end Sys2Proof.Machine

/-! PROOFS. Batches, and the begin, the writes and the end of a transfer (R139, R140, R143, R149 to R152, R327, R339). -/

namespace Sys2Proof.Machine

open Host

/-! ## Batches (R149 to R152) -/

section
variable {h : Hdr} {f : SF} {s : State} {t : Team}

/-- The number before the oldest open batch. -/
def doneBefore (n : BitVec 16) : List (BitVec 16 × List Nat) → BitVec 16
  | [] => n
  | b :: _ => b.1 - 1

/-- The batches that stay open behind BATCH. -/
abbrev closedBatches (t : Team) : List (BitVec 16 × List Nat) :=
  (if t.formed && t.forming.isEmpty then t.batches else t.batches ++ [(t.batch + 1, t.forming)]).dropWhile fun b => b.2.isEmpty

theorem batch_ends (hi : s.IssuesOnce t (.batch h f) h) (hroom : ¬(!(t.formed && t.forming.isEmpty) && decide (64 ≤ t.batches.length)) = true) :
    EndsLong (exec (.batch h f) s) s s.cur
      { t with batch := t.batch + 1, batches := closedBatches t, forming := [], formed := false, batchDone := doneBefore (t.batch + 1) (closedBatches t) }
      [(.s f.s1.toNat, 0, (t.batch + 1).setWidth 64)] := by
  rw [show exec (.batch h f) s = _ from once_next hi _]
  dsimp only
  rw [if_neg hroom]
  exact endsLong_retire (State.team_setTeam _ _ _) hi.1.2.2.2.2 (fun _ => State.setTeam_setTeam _ _ _ _) rfl ⟨rfl, rfl⟩ (Team.wroteLong_longS _ _ _)

theorem batch_parks (hi : s.IssuesOnce t (.batch h f) h) (hroom : (!(t.formed && t.forming.isEmpty) && decide (64 ≤ t.batches.length)) = true) :
    Parks (exec (.batch h f) s) s s.cur t .batchRoom := by
  rw [show exec (.batch h f) s = _ from once_next hi _]
  dsimp only
  rw [if_pos hroom]
  exact park_parks_in hi.1.1 hi.1.2.2.2.2 _ _

theorem batch_rule (hi : s.IssuesOnce t (.batch h f) h) (bs : List (BitVec 16 × List Nat)) (done : BitVec 16)
    (hc : t.formed = true ∧ t.forming = [] → bs = t.batches.dropWhile fun b => b.2.isEmpty)
    (ho : ¬(t.formed = true ∧ t.forming = []) → bs = (t.batches ++ [(t.batch + 1, t.forming)]).dropWhile fun b => b.2.isEmpty)
    (hd : done = doneBefore (t.batch + 1) bs) :
    (t.formed = true ∧ t.forming = [] ∨ t.batches.length < 64 →
      EndsLong (exec (.batch h f) s) s s.cur { t with batch := t.batch + 1, batches := bs, forming := [], formed := false, batchDone := done }
        [(.s f.s1.toNat, 0, (t.batch + 1).setWidth 64)]) ∧
    (¬(t.formed = true ∧ t.forming = []) → 64 ≤ t.batches.length → Parks (exec (.batch h f) s) s s.cur t .batchRoom) := by
  have hiff : (t.formed && t.forming.isEmpty) = true ↔ t.formed = true ∧ t.forming = [] := by rw [Bool.and_eq_true, List.isEmpty_iff]
  have hbs : bs = closedBatches t := by
    by_cases h0 : t.formed = true ∧ t.forming = []
    · rw [hc h0, closedBatches, if_pos (hiff.mpr h0)]
    · rw [ho h0, closedBatches, if_neg (h0 ∘ hiff.mp)]
  subst hbs hd
  refine ⟨fun hgo => batch_ends hi ?_, fun hopen hfull => batch_parks hi ?_⟩
  · rw [Bool.and_eq_true, Bool.not_eq_true', ← Bool.not_eq_true, hiff, decide_eq_true_eq]
    rintro ⟨hopen, hfull⟩
    exact hgo.elim hopen fun hlt => absurd hfull (by omega)
  · rw [Bool.and_eq_true, Bool.not_eq_true', ← Bool.not_eq_true, hiff, decide_eq_true_eq]
    exact ⟨hopen, hfull⟩

/-- The batch that a CWAIT waits for. -/
abbrev meantBatch (f : SF) (t : Team) : BitVec 16 :=
  (t.latch.bind (·.head?)).elim (t.batchMeant (if f.sub.getLsbD 0 then (t.rs f.s1.toNat).setWidth 16 else f.imm)) (·.setWidth 16)

theorem cwait_ends (hi : s.IssuesOnce t (.cwait h f) h) (hok : t.batchOk (meantBatch f t) = true) :
    EndsLong (exec (.cwait h f) s) (s.acquire (coreOf s.cur) t.copyScope) s.cur { t with copyScope := 0, copyStatus := 0 }
      [(.s f.s2.toNat, 0, BitVec.ofNat 64 t.copyStatus)] := by
  rw [show exec (.cwait h f) s = _ from once_next hi _]
  dsimp only
  rw [hok, Bool.not_true, if_neg Bool.false_ne_true]
  have hteam : (s.acquire (coreOf s.cur) t.copyScope).team s.cur = some t := by rw [(State.flows_acquire _ _ _).team]; exact hi.1.1
  unfold State.copyAcquire
  rw [State.updTeam_some hteam, State.updTeam_setTeam]
  exact endsLong_retire (State.team_setTeam _ _ _) hi.1.2.2.2.2 (fun _ => State.setTeam_setTeam _ _ _ _) rfl ⟨rfl, rfl⟩
    (Team.wroteLong_longS { t with copyScope := 0, copyStatus := 0 } _ _)

theorem cwait_parks (hi : s.IssuesOnce t (.cwait h f) h) (hok : t.batchOk (meantBatch f t) = false) :
    Parks (exec (.cwait h f) s) s s.cur { t with latch := some [(meantBatch f t).setWidth 64] } (.batch (meantBatch f t)) := by
  rw [show exec (.cwait h f) s = _ from once_next hi _]
  dsimp only
  rw [hok, Bool.not_false, if_pos rfl]
  exact setTeam_park_parks (u := { t with latch := some [(meantBatch f t).setWidth 64] }) hi.1.2.2.2.2 _ _

theorem cwait_rule (hi : s.IssuesOnce t (.cwait h f) h) (m : BitVec 16) (n : BitVec 16) (hn : n = if f.sub.getLsbD 0 then (t.rs f.s1.toNat).setWidth 16 else f.imm)
    (hfresh : t.latch = none ∨ t.latch = some [] → m = (if (t.batch - n).toNat < 2 ^ 15 then n else t.batch))
    (hlatch : ∀ x xs, t.latch = some (x :: xs) → m = x.setWidth 16) :
    ((t.batchDone - m).toNat < 2 ^ 15 →
      EndsLong (exec (.cwait h f) s) (s.acquire (coreOf s.cur) t.copyScope) s.cur { t with copyScope := 0, copyStatus := 0 }
        [(.s f.s2.toNat, 0, BitVec.ofNat 64 t.copyStatus)]) ∧
    (2 ^ 15 ≤ (t.batchDone - m).toNat → Parks (exec (.cwait h f) s) s s.cur { t with latch := some [m.setWidth 64] } (.batch m)) := by
  have hm : m = meantBatch f t := by
    unfold meantBatch
    rcases hl : t.latch with - | - | ⟨x, xs⟩
    · rw [hfresh (.inl hl), hn]
      rfl
    · rw [hfresh (.inr hl), hn]
      rfl
    · exact hlatch x xs hl
  subst hm
  exact ⟨fun hlt => cwait_ends hi (decide_eq_true hlt), fun hge => cwait_parks hi (decide_eq_false (Nat.not_lt.mpr hge))⟩

/-- CSTAT counts the locks of the team's transfers (R152). -/
theorem cstat_rule (hi : s.IssuesOnce t (.cstat h f) h) (locks : Nat) (hl : ∃ m : Lock → Bool,
      (∀ l, m l = true ↔ ∃ e ∈ s.xfers, e.1 = l.xfer ∧ e.2.serial = t.serial ∧ e.2.share = t.share) ∧
      locks = (s.cores.map fun c => c.2.locks.countP m).sum) :
    EndsLong (exec (.cstat h f) s) s s.cur t [(.s f.s1.toNat, 0, BitVec.ofNat 64 (t.copyStatus % 2 ^ 8 + 2 ^ 8 * (t.batches.length % 2 ^ 8)
      + 2 ^ 16 * t.batchDone.toNat + 2 ^ 32 * t.batch.toNat + 2 ^ 48 * (locks % 2 ^ 8)))] := by
  obtain ⟨m, hm, rfl⟩ := hl
  have hcount : (s.cores.map fun c => (c.2.locks.filter fun l =>
      ((s.xfers.filter fun x => x.2.serial == t.serial && x.2.share == t.share).map (·.1)).contains l.xfer).length).foldl (· + ·) 0 =
      (s.cores.map fun c => c.2.locks.countP m).sum := by
    rw [← List.sum_eq_foldl]
    refine congrArg List.sum (List.map_congr_left fun c _ => ?_)
    rw [List.countP_eq_length_filter]
    refine congrArg List.length (List.filter_congr fun l _ => ?_)
    rw [Bool.eq_iff_iff, hm, List.contains_iff_mem, List.mem_map]
    refine exists_congr fun e => ?_
    rw [List.mem_filter, Bool.and_eq_true, beq_iff_eq, beq_iff_eq]
    tauto
  rw [← hcount, show exec (.cstat h f) s = _ from once_next hi _, State.updTeam_some hi.1.1]
  exact endsLong_retire (State.team_setTeam _ _ _) hi.1.2.2.2.2 (fun _ => State.setTeam_setTeam _ _ _ _) rfl ⟨rfl, rfl⟩ (t.wroteLong_longS _ _)

end

/-! ## The reads of a transfer and its begin (R139, R143, R339) -/

theorem State.toWrite_iff (s : State) (x a : Nat) : s.toWrite x a = true ↔ ∃ y f, (y, f) ∈ s.xfers ∧ y < x ∧ Loc.glob a ∈ f.dst := by
  unfold State.toWrite
  rw [List.any_eq_true]
  refine ⟨fun ⟨⟨y, f⟩, hm, h⟩ => ?_, fun ⟨y, f, hm, hy, hd⟩ => ⟨(y, f), hm, ?_⟩⟩
  · rw [Bool.and_eq_true, decide_eq_true_eq, List.contains_iff_mem] at h
    exact ⟨y, f, hm, h⟩
  · rw [Bool.and_eq_true, decide_eq_true_eq, List.contains_iff_mem]
    exact ⟨hy, hd⟩

theorem readByte_glob_later {s : State} {now : Nat → Bool} {sp : Bool} {read : List (Nat × List XByte)}
    (hread : ∀ k bs, find read k = some bs → Placed bs) (a : Nat) : readByte s now sp read (some (.glob a)) = .later ↔ now a = false := by
  unfold readByte
  dsimp only
  cases now a with
  | false => exact ⟨fun _ => rfl, fun _ => rfl⟩
  | true =>
    rw [if_pos rfl]
    refine ⟨fun h => absurd h ?_, fun h => absurd h.symm Bool.false_ne_true⟩
    rcases hf : find read (a / 32) with - | bs
    · exact XByte.noConfusion
    · rw [Option.getD_some, List.getD_eq_getElem?_getD]
      rcases hb : bs[a % 32]? with - | b
      · exact XByte.noConfusion
      · exact hread _ bs hf b (List.mem_of_getElem? hb)

theorem Xfer.old_none {e : Xfer} (h : e.got = none) (i : Nat) : e.old i = .later := by
  unfold Xfer.old
  rw [h]
  rfl

/-- The bytes that a transfer has read, byte by byte of its source. -/
theorem got_getElem (s : State) (e : Xfer) (now : Nat → Bool) (sp : Bool) (read : List (Nat × List XByte)) {i : Nat} {l : Option Loc} (hl : e.src[i]? = some l)
    (hold : e.old i = .later) : (e.src.zipIdx.map fun y => if e.old y.2 = .later then readByte s now sp read y.1 else e.old y.2)[i]? =
      some (readByte s now sp read l) := by
  rw [List.getElem?_map, List.getElem?_zipIdx, hl, Option.map_some, Option.map_some]
  simp [hold]

theorem placeReads_rule {s : State} {x : Nat} {e : Xfer} (he : s.xfer x = some e) (hgot : e.got = none) :
    ∃ (e' : Xfer) (got : List XByte), (s.placeReads x).xfer x = some e' ∧ e'.started = e.started ∧ e'.got = some got ∧ got.length = e.src.length ∧
      (∀ (i sh off : Nat), e.src[i]? = some (some (Loc.sp sh off)) → got[i]? = some XByte.later) ∧
      ∀ (i a : Nat), e.src[i]? = some (some (Loc.glob a)) → (got[i]? = some XByte.later ↔ ∃ y f, (y, f) ∈ s.xfers ∧ y < x ∧ Loc.glob a ∈ f.dst) := by
  obtain ⟨s1, read, hs, hread, -, heq⟩ := s.readSource_eq x e (fun a => !s.toWrite x a) false
  obtain ⟨n, hn⟩ := hs.xfer e he
  have hold := Xfer.old_none hgot
  unfold State.placeReads
  rw [he]
  dsimp only
  rw [heq]
  refine ⟨_, _, State.xfer_updXfer hn _, rfl, rfl, by rw [List.length_map, List.length_zipIdx], fun i sh off hi => ?_, fun i a hi => ?_⟩
  · rw [got_getElem s e _ false read hi (hold i)]
    rfl
  · rw [got_getElem s e _ false read hi (hold i), Option.some_inj, readByte_glob_later hread, Bool.not_eq_false', State.toWrite_iff]

theorem find_of_mem_nodup {α : Type} {m : List (Nat × α)} (h : (m.map (·.1)).Nodup) {k : Nat} {v : α} (he : (k, v) ∈ m) : find m k = some v := by
  induction m with
  | nil => cases he
  | cons a l ih =>
    rw [List.map_cons, List.nodup_cons] at h
    rw [find_cons]
    rcases List.mem_cons.mp he with rfl | he
    · exact if_pos rfl
    · rw [if_neg fun hk => h.1 (List.mem_map.mpr ⟨(k, v), he, hk.symm⟩)]
      exact ih h.2 he

/-- The locks of a transfer, by core. -/
theorem mem_locksOf {s : State} (hnd : (s.cores.map (·.1)).Nodup) (x c : Nat) (l : Lock) :
    (c, l) ∈ s.locksOf x ↔ (find s.cores c).isSome = true ∧ l ∈ (s.core c).locks ∧ l.xfer = x := by
  unfold State.locksOf
  rw [List.mem_flatMap]
  constructor
  · rintro ⟨⟨c', k⟩, hk, hl⟩
    obtain ⟨l', hl', heq⟩ := List.mem_map.mp hl
    cases heq
    have hf := find_of_mem_nodup hnd hk
    rw [List.mem_filter, beq_iff_eq] at hl'
    unfold State.core getD
    rw [hf]
    exact ⟨rfl, hl'⟩
  · rintro ⟨hs, hl, hx⟩
    obtain ⟨k, hk⟩ := Option.isSome_iff_exists.mp hs
    unfold State.core getD at hl
    rw [hk] at hl
    exact ⟨(c, k), find_mem hk, List.mem_map.mpr ⟨l, List.mem_filter.mpr ⟨hl, beq_iff_eq.mpr hx⟩, rfl⟩⟩

section
variable {s : State} {x : Nat} {e : Xfer}

/-- An earlier transfer's lock keeps x from beginning (R139). -/
def Blocked (s : State) (x : Nat) : Prop :=
  ∃ c a b, a ∈ (s.core c).locks ∧ a.xfer = x ∧ (find s.cores c).isSome ∧ b ∈ (s.core c).locks ∧ b.xfer < x ∧ b.ctx = a.ctx ∧
    b.sh = a.sh ∧ a.lo ≤ a.hi ∧ b.lo < a.hi ∧ a.lo < b.hi ∧ (a.write = true ∨ b.write = true)

/-- A transfer that has waited stands behind one that waits still (R139). -/
def Queued (s : State) (x : Nat) (e : Xfer) : Prop :=
  e.waits = true ∧ ∃ y f, (y, f) ∈ s.xfers ∧ y < x ∧ f.waits = true ∧ f.started = false ∧
    (f.core = e.core ∨ ∃ c a b, (find s.cores c).isSome ∧ a ∈ (s.core c).locks ∧ a.xfer = x ∧ b ∈ (s.core c).locks ∧ b.xfer = y)

theorem mustWait_iff (hle : ∀ c a, a ∈ (s.core c).locks → a.lo ≤ a.hi) (hnd : (s.cores.map (·.1)).Nodup) : s.mustWait x = true ↔ Blocked s x := by
  unfold State.mustWait
  rw [conflicts_iff s x fun a ha => hle a.1 a.2 ((mem_locksOf hnd x a.1 a.2).mp ha).2.1]
  constructor
  · rintro ⟨⟨c, a⟩, ha, b, hb, hlt, hctx, hsh, ⟨h1, h2⟩, hw⟩
    obtain ⟨hc, hac, hax⟩ := (mem_locksOf hnd x c a).mp ha
    exact ⟨c, a, b, hac, hax, hc, hb, hlt, hctx, hsh, hle c a hac, h2, h1, hw⟩
  · rintro ⟨c, a, b, hac, hax, hc, hb, hlt, hctx, hsh, -, h2, h1, hw⟩
    exact ⟨(c, a), (mem_locksOf hnd x c a).mpr ⟨hc, hac, hax⟩, b, hb, hlt, hctx, hsh, ⟨h1, h2⟩, hw⟩

/-- Another transfer holds a lock in a table of x. -/
theorem shareTable_iff (hnd : (s.cores.map (·.1)).Nodup) (y : Nat) :
    ((s.locksOf y).any fun l => ((s.locksOf x).map (·.1)).contains l.1) = true ↔
      ∃ c a b, (find s.cores c).isSome = true ∧ a ∈ (s.core c).locks ∧ a.xfer = x ∧ b ∈ (s.core c).locks ∧ b.xfer = y := by
  rw [List.any_eq_true]
  constructor
  · rintro ⟨⟨c, b⟩, hb, hc⟩
    rw [List.contains_iff_mem, List.mem_map] at hc
    obtain ⟨⟨c', a⟩, ha, rfl⟩ := hc
    obtain ⟨-, hbc, hby⟩ := (mem_locksOf hnd y c' b).mp hb
    obtain ⟨hcs, hac, hax⟩ := (mem_locksOf hnd x c' a).mp ha
    exact ⟨c', a, b, hcs, hac, hax, hbc, hby⟩
  · rintro ⟨c, a, b, hcs, hac, hax, hbc, hby⟩
    refine ⟨(c, b), (mem_locksOf hnd y c b).mpr ⟨hcs, hbc, hby⟩, ?_⟩
    rw [List.contains_iff_mem, List.mem_map]
    exact ⟨(c, a), (mem_locksOf hnd x c a).mpr ⟨hcs, hac, hax⟩, rfl⟩

theorem queued_iff (hnd : (s.cores.map (·.1)).Nodup) : (e.waits && s.queuedBehind x e) = true ↔ Queued s x e := by
  unfold State.queuedBehind Queued
  dsimp only
  rw [Bool.and_eq_true, List.any_eq_true]
  refine and_congr_right fun _ => ⟨fun ⟨⟨y, f⟩, hm, h⟩ => ?_, fun ⟨y, f, hm, hlt, hw, hst, hc⟩ => ⟨(y, f), hm, ?_⟩⟩
  · simp only [Bool.and_eq_true, Bool.or_eq_true, decide_eq_true_eq, beq_iff_eq, Bool.not_eq_true', shareTable_iff hnd] at h
    obtain ⟨⟨⟨hlt, hw⟩, hst⟩, hc⟩ := h
    exact ⟨y, f, hm, hlt, hw, hst, hc⟩
  · simp only [Bool.and_eq_true, Bool.or_eq_true, decide_eq_true_eq, beq_iff_eq, Bool.not_eq_true', shareTable_iff hnd]
    exact ⟨⟨⟨hlt, hw⟩, hst⟩, hc⟩

section
variable (he : s.xfer x = some e) (hle : ∀ c a, a ∈ (s.core c).locks → a.lo ≤ a.hi) (hnd : (s.cores.map (·.1)).Nodup)
include he hle hnd

/-- A transfer that is blocked or queued does not begin. -/
theorem transferBegin_waits (h : Blocked s x ∨ Queued s x e) : exec (.transferBegin x) s = .next s := by
  show execTransferBegin x s = _
  unfold execTransferBegin
  rw [he]
  dsimp only
  rw [if_pos]
  rw [Bool.or_eq_true, Bool.or_eq_true, mustWait_iff hle hnd, queued_iff hnd, or_assoc]
  exact .inr h

theorem transferBegin_begins (hst : e.started = false) (hb : ¬Blocked s x) (hq : ¬Queued s x e) : exec (.transferBegin x) s = .next (s.beginXfer x e) := by
  show execTransferBegin x s = _
  unfold execTransferBegin
  rw [he]
  dsimp only
  rw [if_neg]
  rw [Bool.or_eq_true, Bool.or_eq_true, mustWait_iff hle hnd, queued_iff hnd, hst, or_assoc]
  rintro (h | h | h)
  · exact Bool.false_ne_true h
  · exact hb h
  · exact hq h

end

/-- What a transfer has when it begins. -/
theorem beginXfer_rule (he : s.xfer x = some e) : ∃ e', (s.beginXfer x e).xfer x = some e' ∧ e'.started = true ∧
    ∃ got, e'.got = some got ∧ got.length = e.src.length := by
  obtain ⟨s1, read, hs, -, -, heq⟩ := s.readSource_eq x e (fun _ => true) true
  obtain ⟨n, hn⟩ := hs.xfer e he
  unfold State.beginXfer
  rw [heq]
  exact ⟨_, State.xfer_updXfer (State.xfer_updXfer hn _) _, rfl, _, rfl, by rw [List.length_map, List.length_zipIdx]⟩

/-- A transfer whose source is scratchpad has read it all when it begins, and nothing else changes. -/
theorem beginXfer_scratch (he : s.xfer x = some e) (hgot : e.got = none ∨ e.got = some (e.src.map fun _ => .later))
    (hsp : ∀ l ∈ e.src, ∃ sh off, l = some (.sp sh off)) : s.beginXfer x e = { s with xfers := put s.xfers x { e with
      started := true, got := some (e.src.map fun l => match l with | some (.sp sh off) => .known (s.spByte sh off) | _ => .failed) } } := by
  obtain ⟨s1, read, -, -, hsame, heq⟩ := s.readSource_eq x e (fun _ => true) true
  have hs1 : s1 = s := hsame fun l hl a hla => by
    obtain ⟨sh, off, rfl⟩ := hsp l hl
    cases hla
  subst hs1
  have hold (i : Nat) : e.old i = .later := by
    rcases hgot with h | h
    · exact Xfer.old_none h i
    · unfold Xfer.old
      rw [h, Option.elim_some, List.getD_eq_getElem?_getD, List.getElem?_map]
      cases e.src[i]? <;> rfl
  unfold State.beginXfer
  rw [heq, State.updXfer_some (State.xfer_updXfer he _), State.updXfer_some he]
  dsimp only
  rw [put_put]
  have hlist : (e.src.zipIdx.map fun y => if e.old y.2 = .later then readByte s1 (fun _ => true) true read y.1 else e.old y.2) =
      e.src.map fun l => match l with | some (.sp sh off) => .known (s1.spByte sh off) | _ => .failed := by
    refine List.ext_getElem? fun i => ?_
    rcases hl : e.src[i]? with - | l
    · rw [List.getElem?_map, List.getElem?_map, List.getElem?_zipIdx, hl]
      rfl
    · rw [got_getElem s1 e _ true read hl (hold i), List.getElem?_map, hl]
      obtain ⟨sh, off, rfl⟩ := hsp l (List.mem_of_getElem? hl)
      rfl
  rw [hlist]

end

/-! ## Withdrawn drain holds change no lock (R327) -/

/-- The range-lock tables of the two machines are the same. -/
def State.SameLocks (s s' : State) : Prop := ∀ c, (s'.core c).locks = (s.core c).locks

theorem State.SameLocks.refl (s : State) : s.SameLocks s := fun _ => rfl

theorem State.SameLocks.trans {a b c : State} (hb : a.SameLocks b) (hc : b.SameLocks c) : a.SameLocks c := fun x => (hc x).trans (hb x)

theorem State.SameLocks.foldl {α : Type} (l : List α) (f : State → α → State) (hf : ∀ (s : State) (x : α), s.SameLocks (f s x)) (s : State) :
    s.SameLocks (l.foldl f s) := by
  induction l generalizing s with
  | nil => exact .refl s
  | cons x l ih => exact (hf s x).trans (ih _)

theorem State.Flows.sameLocks {s s' : State} (h : s.Flows s') : s.SameLocks s' := h.locks

theorem State.sameLocks_updPkg (s : State) (p : Nat) (f : Pkg → Pkg) : s.SameLocks (s.updPkg p f) := fun _ => rfl

theorem State.sameLocks_crossed (s : State) (p q m n : Nat) : s.SameLocks (s.crossed p q m n) := by
  unfold State.crossed
  split
  · exact .refl s
  · exact fun _ => rfl

theorem State.sameLocks_noteAbsent (s : State) (p gpn : Nat) : s.SameLocks (s.noteAbsent p gpn) := by
  unfold State.noteAbsent
  split
  · exact .refl s
  · exact fun _ => rfl

theorem State.sameLocks_postSpoils (s : State) (ws : List Spoil) : s.SameLocks (s.postSpoils ws) := by
  unfold State.postSpoils
  exact .foldl _ _ (fun x w => (State.flows_postWrite x _ _ _ _ _).sameLocks) s

theorem State.sameLocks_landSpoils (s : State) (fs : List (Nat × Nat)) (ws : List Spoil) : s.SameLocks (s.landSpoils fs ws) := by
  unfold State.landSpoils
  refine .foldl _ _ (fun x w => ?_) s
  split
  · exact x.sameLocks_postSpoils [w]
  · exact .foldl _ _ (fun y m => (State.flows_writeGranule y _ _ _ _ _).sameLocks.trans (State.sameLocks_crossed _ _ _ _ _)) x

theorem State.sameLocks_stripPage (s : State) (p gpn : Nat) : s.SameLocks (s.stripPage p gpn).1 := by
  unfold State.stripPage
  dsimp only
  refine .trans ?_ (State.flows_mapRequests _ _).sameLocks
  refine .trans ?_ (.foldl _ _ (fun x e => (State.flows_dropLine x _ _).sameLocks) _)
  refine .foldl _ _ (fun x l => ?_) s
  exact .foldl _ _ (fun y e => ((State.flows_writeBackOne y l _).trans (State.flows_dropLine _ l _)).sameLocks) x

theorem State.sameLocks_unframe (s : State) (p f : Nat) : s.SameLocks (s.unframe p f).1 := by
  unfold State.unframe
  exact (s.sameLocks_updPkg p _).trans (State.sameLocks_stripPage _ _ _)

theorem State.sameLocks_clearCopies (s : State) (gpn master keep : Nat) : s.SameLocks (s.clearCopies gpn master keep).1 := by
  unfold State.clearCopies
  refine List.foldlRecOn (motive := fun (acc : State × List Spoil) => s.SameLocks acc.1) _ _ (.refl s) fun acc hacc q _ => ?_
  split
  · dsimp only
    exact hacc.trans ((acc.1.sameLocks_unframe q _).trans ((State.sameLocks_updPkg _ q _).trans ((State.sameLocks_noteAbsent _ _ _).trans
      (State.sameLocks_crossed _ _ _ _ _))))
  · exact hacc

theorem State.sameLocks_invalidateCopies (s : State) (gpn master : Nat) : s.SameLocks (s.invalidateCopies gpn master) := by
  unfold State.invalidateCopies
  dsimp only
  refine .trans ?_ (State.sameLocks_landSpoils _ _ _)
  exact (s.sameLocks_clearCopies gpn master master).trans fun _ => rfl

theorem State.sameLocks_settleSpoils (s : State) (p gpn : Nat) (ws : List Spoil) : s.SameLocks (s.settleSpoils p gpn ws) := by
  unfold State.settleSpoils
  split
  · exact .refl s
  split
  · exact s.sameLocks_postSpoils ws
  split
  · exact s.sameLocks_postSpoils ws
  · exact (s.sameLocks_invalidateCopies gpn _).trans (State.sameLocks_landSpoils _ _ _)

theorem State.sameLocks_purgePage (s : State) (p gpn : Nat) : s.SameLocks (s.purgePage p gpn) :=
  (s.sameLocks_stripPage p gpn).trans (State.sameLocks_settleSpoils _ _ _ _)

/-- The frames that a transfer holds as they drain are given up; nothing of teams, shares, transfers or locks changes (R327). -/
theorem State.withdraw_keeps (s : State) (x : Nat) : s.Below (s.withdraw x) ∧ s.SameLocks (s.withdraw x) := by
  unfold State.withdraw
  refine List.foldlRecOn (motive := fun X => s.Below X ∧ s.SameLocks X) _ _ ⟨.refl s, .refl s⟩ fun X hX p _ => ?_
  dsimp only
  refine List.foldlRecOn (motive := fun X => s.Below X ∧ s.SameLocks X) _ _
    ⟨hX.1.trans (State.below_updPkg _ _ _), hX.2.trans (State.sameLocks_updPkg _ _ _)⟩ fun Y hY f _ => ?_
  split
  · exact hY
  · exact ⟨hY.1.trans ((State.below_updPkg _ _ _).trans (State.below_purgePage _ _ _)),
      hY.2.trans ((State.sameLocks_updPkg _ _ _).trans (State.sameLocks_purgePage _ _ _))⟩

/-! ## A transfer within scratchpad completes (R140, R143) -/

theorem State.Below.share {s s' : State} (h : s.Below s') (sh : Nat) : s'.share sh = s.share sh := by unfold State.share; rw [h]

/-- Writes of single bytes of scratchpad, in order. -/
def State.setSpEach (s : State) (l : List (Loc × Byte)) : State :=
  l.foldl (fun s c => match c.1 with | .sp sh off => s.setSpBytes sh off [c.2] | .glob _ => s) s

/-- The last write to a byte stands. -/
theorem State.storesSp_setSpEach (l : List (Loc × Byte)) (s : State) :
    StoresSp s (s.setSpEach l) fun sh off => (l.reverse.find? fun y => y.1 == .sp sh off).map (·.2) := by
  induction l generalizing s with
  | nil => exact ⟨rfl, fun _ => rfl, fun _ _ _ => rfl⟩
  | cons c l ih =>
    obtain ⟨loc, b⟩ := c
    cases loc with
    | glob a =>
      obtain ⟨h1, h2, h3⟩ := ih s
      refine ⟨h1, h2, fun sh off hsh => (h3 sh off hsh).trans ?_⟩
      dsimp only
      rw [List.reverse_cons, List.find?_append]
      cases l.reverse.find? fun y => y.1 == .sp sh off <;> rfl
    | sp q o =>
      obtain ⟨hframe, hshare⟩ := s.setSpBytes_frame q o [b]
      obtain ⟨h1, h2, h3⟩ := ih (s.setSpBytes q o [b])
      rw [show s.setSpEach ((.sp q o, b) :: l) = (s.setSpBytes q o [b]).setSpEach l from rfl]
      refine ⟨h1.trans (by rw [hframe]), fun sh => (h2 sh).trans (hshare sh), fun sh off hsh => ?_⟩
      have hsh' : ((s.setSpBytes q o [b]).share sh).isSome := by
        have hmap := congrArg Option.isSome (hshare sh)
        rw [Option.isSome_map, Option.isSome_map] at hmap
        exact hmap.trans hsh
      refine (h3 sh off hsh').trans ?_
      dsimp only
      rw [s.spByte_setSpBytes_at _ _ _ off hsh, List.reverse_cons, List.find?_append]
      cases l.reverse.find? fun y => y.1 == .sp sh off with
      | some y => rfl
      | none =>
        have hiff : ((Loc.sp q o : Loc) == .sp sh off) = true ↔ sh = q ∧ o ≤ off ∧ off < o + [b].length := by
          rw [beq_iff_eq, Loc.sp.injEq, List.length_singleton]
          omega
        by_cases hin : sh = q ∧ o ≤ off ∧ off < o + [b].length
        · rw [if_pos hin, List.find?_cons_of_pos (by exact hiff.mpr hin),
          show off - o = 0 by have := hin.2.2; rw [List.length_singleton] at this; omega]
          rfl
        · rw [if_neg hin, List.find?_cons_of_neg (by exact mt hiff.mp hin)]
          rfl

section
variable {s : State} {x : Nat} {e : Xfer} {vals : List Byte}

/-- The cells of a transfer of whole bytes whose source is known: each byte goes to its place, unharmed. -/
theorem xferCells_known (hform : e.form = .bytes) : s.xferCells e (vals.map .known) = (e.dst.zip vals).map fun y => (y.1, y.2, 0) := by
  have hclean : ((vals.map XByte.known).all fun b => b.harm == 0) = true := by
    rw [List.all_map, List.all_eq_true]
    exact fun _ _ => rfl
  have hvals : (vals.map XByte.known).map (·.byte) = vals := (List.map_map).trans (List.map_id vals)
  unfold State.xferCells
  simp only [hclean, if_true, hform, XForm.apply, hvals]
  rw [show (fun y : (Loc × Byte) × Nat => (y.1.1, y.1.2, 0)) = (fun y : Loc × Byte => (y.1, y.2, 0)) ∘ Prod.fst from rfl, ← List.map_map,
    List.zipIdx_map_fst]

/-- Writes of a transfer whose destination is scratchpad. -/
theorem xferPerform_scratch (hform : e.form = .bytes) (hdst : ∀ l ∈ e.dst, ∃ sh off, l = .sp sh off) : s.xferPerform x e (vals.map .known) =
    ((s.setSpEach (e.dst.zip vals)).noteWrite none ((e.dst.zip vals).map (·.1))).updXfer x fun e => { e with wrote := true } := by
  have hzip (c : Loc × Byte) (hc : c ∈ e.dst.zip vals) : ∃ sh off, c.1 = .sp sh off := hdst c.1 (List.of_mem_zip hc).1
  have hkept : (((e.dst.zip vals).map fun y => (y.1, y.2, 0)).filter fun c : Loc × Byte × Nat => c.2.2 == 3) = [] := by
    rw [List.filter_eq_nil_iff]
    intro c hc
    obtain ⟨y, -, rfl⟩ := List.mem_map.mp hc
    exact Bool.false_ne_true
  have hall : (((e.dst.zip vals).map fun y => (y.1, y.2, 0)).filter fun c : Loc × Byte × Nat => !List.contains [] c.1.sector) =
      (e.dst.zip vals).map fun y => (y.1, y.2, 0) := List.filter_eq_self.mpr fun _ _ => rfl
  have hglob (g : Loc × Byte × Nat → Option (Nat × Byte × Nat)) (hg : ∀ sh off v, g (.sp sh off, v) = none) :
      ((e.dst.zip vals).map fun y => (y.1, y.2, 0)).filterMap g = [] := by
    rw [List.filterMap_map, List.filterMap_eq_nil_iff]
    rintro ⟨l, b⟩ hc
    obtain ⟨sh, off, rfl⟩ := hzip _ hc
    exact hg sh off (b, 0)
  unfold State.xferPerform
  dsimp only
  rw [xferCells_known hform, hkept, List.map_nil, hall, hglob, List.map_nil, List.dedup_nil, List.foldl_nil, List.foldl_map, List.map_map]
  · rfl
  · exact fun _ _ _ => rfl

end

/-! ## The end of a transfer (R140) -/

theorem State.updShare_frame (s : State) (sh : Nat) (f : Share → Share) : s.updShare sh f = { s with shares := (s.updShare sh f).shares } := by
  unfold State.updShare
  cases s.share sh <;> rfl

theorem State.bellArrive_frame (s : State) (sh b : Nat) : s.bellArrive sh b = { s with shares := (s.bellArrive sh b).shares } :=
  s.updShare_frame sh _

/-- An arrival at a bell leaves scratchpad as it is. -/
theorem State.spByte_bellArrive (s : State) (sh b q o : Nat) : (s.bellArrive sh b).spByte q o = s.spByte q o := by
  unfold State.bellArrive State.spByte
  cases hx : s.share sh with
  | none => rw [State.updShare, hx]
  | some x =>
    rw [State.updShare_some hx]
    by_cases hq : q = sh
    · rw [hq, State.share_setShare, hx]
      rfl
    · rw [State.share_setShare_other _ _ hq]

theorem State.bell_bellArrive {s : State} {sh b : Nat} {y : Share} {m : Stream} (hy : s.share sh = some y) (hm : y.stream = some m) (hb : b < m.bells.length) :
    (s.bellArrive sh b).bell sh b = (s.bell sh b).arrive := by
  unfold State.bellArrive State.bell
  rw [State.updShare_some hy, State.share_setShare, hy, Option.bind_some, Option.bind_some, hm, Option.map_some, Option.elim_some, Option.elim_some,
    List.getD_eq_getElem?_getD, List.getElem?_set_self hb, Option.getD_some]

/-- A transfer of the team is done: no batch names it, and the copy status and scope are the greatest. -/
theorem Team.transferDone_rule (t : Team) (x scope status : Nat) : x ∉ (t.transferDone x scope status).forming ∧
    (∀ b ∈ (t.transferDone x scope status).batches, x ∉ b.2) ∧ (t.transferDone x scope status).copyStatus = max t.copyStatus status ∧
    (t.transferDone x scope status).copyScope = max t.copyScope scope := by
  refine ⟨fun h => ?_, fun b hb hx => ?_, rfl, rfl⟩
  · have := (List.mem_filter.mp h).2
    rw [bne_self_eq_false] at this
    cases this
  · obtain ⟨c, hc, hcb⟩ := List.mem_filterMap.mp ((List.dropWhile_sublist _).subset hb)
    dsimp only at hcb
    split_ifs at hcb
    cases hcb
    have := (List.mem_filter.mp hx).2
    rw [bne_self_eq_false] at this
    cases this

theorem State.team_updTeamOf (s : State) (p serial : Nat) (f : Team → Team) (tk : Nat) :
    (s.updTeamOf p serial f).team tk = (s.team tk).map fun t => if pkgOfTeam tk = p ∧ t.serial = serial then f t else t := by
  unfold State.updTeamOf State.team
  rw [find_map_of_key]
  · refine congrArg (fun g => Option.map g (find s.teams tk)) (funext fun t => ?_)
    dsimp only
    split_ifs <;> rfl
  · intro e
    split_ifs <;> rfl

/-- The machine without the locks of a transfer. -/
def State.freeLocks (s : State) (x : Nat) : State :=
  { s with cores := s.cores.map fun (c : Nat × Core) => (c.1, { c.2 with locks := c.2.locks.filter fun l => l.xfer != x }) }

theorem State.freeLocks_freed (s : State) (x c : Nat) : ∀ l ∈ ((s.freeLocks x).core c).locks, l.xfer ≠ x := by
  intro l hl hx
  have hcore : (s.freeLocks x).core c = ((find s.cores c).map fun k => { k with locks := k.locks.filter fun l => l.xfer != x }).getD {} := by
    unfold State.core State.freeLocks getD
    exact congrArg (fun o : Option Core => o.getD {}) (find_map_of_key s.cores
      (fun c => (c.1, { c.2 with locks := c.2.locks.filter fun l => l.xfer != x })) (fun _ => rfl) c)
  rw [hcore] at hl
  cases hf : find s.cores c with
  | none =>
    rw [hf] at hl
    cases hl
  | some k =>
    rw [hf] at hl
    have := (List.mem_filter.mp hl).2
    rw [hx, bne_self_eq_false] at this
    cases this

/-- The bell of a transfer counts an arrival. -/
def State.rung (s : State) (e : Xfer) : State := match e.bell with | some b => s.bellArrive e.share b | none => s

theorem State.rung_frame (s : State) (e : Xfer) : s.rung e = { s with shares := (s.rung e).shares } ∧ ∀ q o, (s.rung e).spByte q o = s.spByte q o := by
  unfold State.rung
  cases e.bell with
  | none => exact ⟨rfl, fun _ _ => rfl⟩
  | some b => exact ⟨s.bellArrive_frame e.share b, s.spByte_bellArrive e.share b⟩

theorem State.xferEnd_eq (s : State) (x : Nat) (e : Xfer) : s.xferEnd x e =
    ({ ((s.freeLocks x).withdraw x).rung e with xfers := erase (((s.freeLocks x).withdraw x).rung e).xfers x } : State).updTeamOf (pkgOf e.core) e.serial
      fun t => t.transferDone x e.scope e.status := rfl

/-- What the end of a transfer leaves (R140). -/
theorem xferEnd_rule (s : State) (x : Nat) (e : Xfer) : (s.xferEnd x e).xfer x = none ∧ (∀ c, ∀ l ∈ ((s.xferEnd x e).core c).locks, l.xfer ≠ x) ∧
    (∀ sh off, (s.xferEnd x e).spByte sh off = s.spByte sh off) ∧
    (∀ b, e.bell = some b → ∀ y m, s.share e.share = some y → y.stream = some m → b < m.bells.length →
      (s.xferEnd x e).bell e.share b = (s.bell e.share b).arrive) ∧
    ∀ tk, (s.xferEnd x e).team tk = (s.team tk).map fun t =>
      if pkgOfTeam tk = pkgOf e.core ∧ t.serial = e.serial then t.transferDone x e.scope e.status else t := by
  obtain ⟨hbelow, hlocks⟩ := State.withdraw_keeps (s.freeLocks x) x
  obtain ⟨hrung, hsp⟩ := ((s.freeLocks x).withdraw x).rung_frame e
  rw [State.xferEnd_eq]
  refine ⟨find_erase_same _ _, fun c l hl => ?_, fun sh off => ?_, fun b hb y m hy hm hlt => ?_, fun tk => ?_⟩
  · have hcores : (((s.freeLocks x).withdraw x).rung e).cores = ((s.freeLocks x).withdraw x).cores := by rw [hrung]
    refine s.freeLocks_freed x c l ?_
    rw [← hlocks c]
    unfold State.core at hl ⊢
    rw [← hcores]
    exact hl
  · refine (hsp sh off).trans ?_
    unfold State.spByte
    rw [hbelow.share]
    rfl
  · have hshare (q : Nat) : ((s.freeLocks x).withdraw x).share q = s.share q := hbelow.share q
    have hbell : (((s.freeLocks x).withdraw x).rung e).bell e.share b = (s.bell e.share b).arrive := by
      unfold State.rung
      rw [hb]
      dsimp only
      rw [State.bell_bellArrive (by rw [hshare, hy]) hm hlt]
      unfold State.bell
      rw [hshare]
    exact hbell
  · rw [State.team_updTeamOf]
    have hteams : (((s.freeLocks x).withdraw x).rung e).teams = s.teams := by
      rw [hrung]
      exact hbelow.teams
    have hteam : State.team { ((s.freeLocks x).withdraw x).rung e with xfers := erase (((s.freeLocks x).withdraw x).rung e).xfers x } tk = s.team tk :=
      congrArg (fun m => find m tk) hteams
    rw [hteam]

theorem State.share_updXfer (s : State) (x : Nat) (f : Xfer → Xfer) (sh : Nat) : (s.updXfer x f).share sh = s.share sh := by
  unfold State.updXfer
  cases s.xfer x <;> rfl

theorem State.spByte_updXfer (s : State) (x : Nat) (f : Xfer → Xfer) (sh off : Nat) : (s.updXfer x f).spByte sh off = s.spByte sh off := by
  unfold State.spByte
  rw [State.share_updXfer]

/-- The writes of a transfer within scratchpad, before it ends. -/
abbrev State.written (s : State) (x : Nat) (e : Xfer) (vals : List Byte) : State :=
  ((s.setSpEach (e.dst.zip vals)).noteWrite none ((e.dst.zip vals).map (·.1))).updXfer x fun e => { e with wrote := true }

section
variable {s : State} {x : Nat} {e : Xfer} {vals : List Byte}

theorem transferComplete_scratch (he : s.xfer x = some e) (hst : e.started = true) (hgot : e.got = some (vals.map .known)) (hw : e.wrote = false)
    (hreq : ∀ q ∈ s.requests, q.2.xfer ≠ some x) (hform : e.form = .bytes) (hdst : ∀ l ∈ e.dst, ∃ sh off, l = .sp sh off) :
    exec (.transferComplete x) s = .next ((s.written x e vals).xferEnd x { e with wrote := true }) := by
  have hstores := s.storesSp_setSpEach (e.dst.zip vals)
  have hwaits : ((vals.map XByte.known).any (·.waits)) = false := by
    rw [List.any_map, List.any_eq_false]
    exact fun _ _ => Bool.false_ne_true
  have hxfer : ((s.setSpEach (e.dst.zip vals)).noteWrite none ((e.dst.zip vals).map (·.1))).xfer x = some e := by
    show find (s.setSpEach (e.dst.zip vals)).xfers x = some e
    rw [hstores.1]
    exact he
  have hreqs : ((s.written x e vals).requests.any fun q => q.2.xfer == some x) = false := by
    rw [State.written, State.updXfer_some hxfer]
    show ((s.setSpEach (e.dst.zip vals)).requests.any fun q => q.2.xfer == some x) = false
    rw [hstores.1, List.any_eq_false]
    exact fun q hq h => hreq q hq (beq_iff_eq.mp h)
  show execTransferComplete x s = _
  unfold execTransferComplete
  rw [he]
  dsimp only
  rw [hgot]
  dsimp only
  rw [hst, hwaits, hw, Bool.not_true, Bool.or_false, if_neg Bool.false_ne_true, if_neg Bool.false_ne_true, xferPerform_scratch hform hdst, hreqs,
    if_neg Bool.false_ne_true, State.xfer_updXfer hxfer]
  rfl

theorem transferComplete_rule (he : s.xfer x = some e) (hst : e.started = true) (hgot : e.got = some (vals.map .known)) (hw : e.wrote = false)
    (hreq : ∀ q ∈ s.requests, q.2.xfer ≠ some x) (hform : e.form = .bytes) (hdst : ∀ l ∈ e.dst, ∃ sh off, l = .sp sh off ∧ (s.share sh).isSome) :
    ∃ s', exec (.transferComplete x) s = .next s' ∧ s'.xfer x = none ∧ (∀ c, ∀ l ∈ (s'.core c).locks, l.xfer ≠ x) ∧
      (∀ sh off, (s.share sh).isSome → s'.spByte sh off =
        ((e.dst.zip vals).reverse.find? fun y => y.1 == .sp sh off).elim (s.spByte sh off) (·.2)) ∧
      (∀ b, e.bell = some b → ∀ y m, s.share e.share = some y → y.stream = some m → b < m.bells.length →
        ∃ b', BellRule (s.bell e.share b) b' ∧ s'.bell e.share b = b') ∧
      ∀ tk t, s.team tk = some t → pkgOfTeam tk = pkgOf e.core → t.serial = e.serial → ∃ t', s'.team tk = some t' ∧ x ∉ t'.forming ∧
        (∀ b ∈ t'.batches, x ∉ b.2) ∧ t'.copyStatus = max t.copyStatus e.status ∧ t'.copyScope = max t.copyScope e.scope := by
  obtain ⟨hframe, hshare, hbytes⟩ := s.storesSp_setSpEach (e.dst.zip vals)
  obtain ⟨hx, hlocks, hsp, hbell, hteam⟩ := xferEnd_rule (s.written x e vals) x { e with wrote := true }
  refine ⟨_, transferComplete_scratch he hst hgot hw hreq hform fun l hl => ?_, hx, hlocks, fun sh off hsh => ?_, fun b hb y m hy hm hlt => ?_,
    fun tk t ht hp hser => ?_⟩
  · obtain ⟨sh, off, h, -⟩ := hdst l hl
    exact ⟨sh, off, h⟩
  · refine (hsp sh off).trans ?_
    rw [State.spByte_updXfer, State.spByte_noteWrite, hbytes sh off hsh]
    dsimp only
    cases (e.dst.zip vals).reverse.find? fun y => y.1 == .sp sh off <;> rfl
  · have hy' := hshare e.share
    rw [hy, Option.map_some, Option.map_eq_some_iff] at hy'
    obtain ⟨y', hy', heq⟩ := hy'
    have hst' : ({ y' with sp := [] } : Share).stream = ({ y with sp := [] } : Share).stream := congrArg Share.stream heq
    have hm' : y'.stream = some m := hst'.trans hm
    have hwritten : (s.written x e vals).share e.share = some y' := by rw [State.written, State.share_updXfer]; exact hy'
    refine ⟨(s.bell e.share b).arrive, Bell.arrive_rule _, (hbell b hb y' m hwritten hm' hlt).trans ?_⟩
    unfold State.bell
    rw [hwritten, hy, Option.bind_some, Option.bind_some, hm, hm']
  · have hw' : (s.written x e vals).team tk = some (t.noted ((e.dst.zip vals).map (·.1))) := by
      rw [State.written, State.team_updXfer, State.team_noteWrite, StoresSp.team ⟨hframe, hshare, hbytes⟩, ht, Option.map_some, if_neg nofun]
    have ht' := hteam tk
    rw [hw', Option.map_some, show (if pkgOfTeam tk = pkgOf e.core ∧ (t.noted ((e.dst.zip vals).map (·.1))).serial = e.serial then
      (t.noted ((e.dst.zip vals).map (·.1))).transferDone x e.scope e.status else t.noted ((e.dst.zip vals).map (·.1))) = _ from if_pos ⟨hp,
        hser⟩] at ht'
    exact ⟨_, ht', Team.transferDone_rule _ _ _ _⟩

end

/-- Settles O23: BATCH, CWAIT and CSTAT by their words; what a transfer reads at its issue and when it begins; what its end leaves. -/
theorem batchesAndTransfers : Obligations.BatchesAndTransfers := by
  unfold Obligations.BatchesAndTransfers
  refine ⟨fun h f s t => ⟨?_, ?_, ?_⟩, fun s x e he => ⟨placeReads_rule he, ?_, ?_⟩⟩
  · intro hi bs done n complete hc ho hd
    refine batch_rule hi bs done hc ho (hd.trans ?_)
    cases bs <;> rfl
  · intro hi m n hfresh hlatch
    exact cwait_rule hi m n rfl hfresh hlatch
  · intro hi mine locks hl
    exact cstat_rule hi locks hl
  · intro hst blocked queued hle hnd
    refine ⟨fun h => transferBegin_waits he hle hnd h, fun hb hq => ?_⟩
    obtain ⟨e', he', hst', hgot'⟩ := beginXfer_rule he
    exact ⟨_, e', transferBegin_begins he hle hnd hst hb hq, he', hst', hgot', fun hgot hsp => (beginXfer_scratch he hgot hsp).trans (by rfl)⟩
  · intro vals hst hgot hw hreq hform _ hdst
    exact transferComplete_rule he hst hgot hw hreq hform hdst

end Sys2Proof.Machine

/-! PROOFS. A reeve that a fault has stopped, at a PGCTL.pin whose page a held read waits for (R56, R180, R270, R289),
  against the clause on its switches. -/

namespace Sys2Proof.Machine

open Host

-- proofs that wait for one another's congruence lemmas would each hold a thread
set_option Elab.async false

/-- PGCTL.pin of the page at s2, for s3 bytes, at package 0. -/
def pinWord : Instr := .pgctlPin ⟨false, false, 15⟩ ⟨0, 2, 4, 0, 1, 0⟩

/-- The held read of page 2 by a transfer, which nothing else waits for. -/
def heldRead : Request where
  kind := .load
  at_ := .replay 0
  pkg := 0
  core := 0
  tk := 0
  serial := 1
  addr := 0
  lanes := []
  gpn := 2
  sector := 0
  mask := 0
  ctx := 1
  vpage := 2
  pin := false
  twin := false
  hotpol := 0
  seq := 0
  sentAt := 0
  gens := []
  xfer := some 5

/-- A reeve that a fault has stopped, at a PGCTL.pin of a spilled page. -/
def pinningState : State :=
  let s := State.reset.placeWord ((encodeWord pinWord).elim 0 (·.toNat))
  let s := s.setParish 0 2 { refs := 1, master := 254 }
  let s := s.updPkg 0 fun k => { k with replay := [7], symErr := put k.symErr (2048 * (2 * setOf 2)) 64 }
  let s := s.updCore 0 fun k => { k with tlb := k.tlb ++ [⟨1, 2, 0, BitVec.ofNat 64 (2 ^ 63 + 2 ^ 62 + 2 ^ 59 + 2 ^ 58 + 2), 0, 0⟩] }
  let s := s.updTeam 0 fun t => { t with role := .reeve, run := .freezing, s := put (put t.s 2 0x20000) 3 0x10000 }
  { s with agenda := [], cur := 0, requests := [(7, { heldRead with serial := (s.team 0).elim 0 (·.serial) })] }

/-- The reeve of that state. -/
def pinner : Team := (pinningState.team 0).getD (placedTeam 0x17 0 0)

/-- The reeve behind the read of its range. -/
def pinnerRead : Team := { pinner with latch := some [0x20000, 0x10000] }

/-- The machine behind the release of the word, and behind the translation of its range. -/
def pinReleased : State := (pinningState.setTeam 0 pinnerRead).release 0 5
def pinTranslated : State := (pinReleased.rangePages 0 pinner.ctx 0x20000 0x10000).1
def pinPages : List Leaf := (pinReleased.rangePages 0 pinner.ctx 0x20000 0x10000).2.2

/-- The word issues in that state: nothing asks that the reeve runs. -/
theorem pinningState_issues : pinningState.IssuesOnce pinner pinWord ⟨false, false, 15⟩ :=
  ⟨⟨by decide +kernel, by decide +kernel, by decide +kernel, .inl (by decide +kernel), by decide +kernel⟩, by decide +kernel⟩

/-- What the word reads when it issues: one page. -/
theorem pinner_range : pinner.latch = none ∧ pinner.rs 2 = 0x20000 ∧ pinner.rs 3 = 0x10000 := by decide +kernel

/-- The range is free to switch. -/
theorem pinningState_okRange : pinner.role = .reeve ∧ pinningState.rangeBusy 0 pinner.ctx 0x20000 0x10000 = false := by decide +kernel

/-- The word's release is done at once. -/
theorem pinningState_released : Released (pinningState.setTeam 0 pinnerRead) 0 pinnerRead 5 pinReleased :=
  ⟨by decide +kernel, rfl, .inr ⟨rfl, by decide +kernel, by decide +kernel⟩⟩

/-- The range's page has a translation, and package 0 can be reached. -/
theorem pinReleased_rangePages : pinReleased.rangePages 0 pinner.ctx 0x20000 0x10000 = (pinTranslated, none, pinPages) :=
  Prod.ext rfl (Prod.ext (show (pinReleased.rangePages 0 pinner.ctx 0x20000 0x10000).2.1 = none by decide +kernel) rfl)

theorem pinTranslated_reaches : pinTranslated.present 0 0 = true ∧ pinTranslated.noRoute 0 0 = false := by decide +kernel

/-- The switch brings the page in, its held read meets an uncorrectable error and fails, and with it the reeve's stop takes effect: it ends. -/
theorem pinTranslated_switched :
    ((pinTranslated.switchPages (fun s l => s.pinPage 0 l.gpn l.twin 0 (([] : List Word).contains (BitVec.ofNat 64 l.gpn))) pinPages).1.team 0) = none := by
  decide +kernel

/-- Refutes O32: the clause on PGCTL.pin says that its reeve is there behind the switches, but asks neither that the reeve runs nor that no request
waits for the page. Where a fault has stopped the reeve, the failure of a held read lets the stop take effect, and the reeve ends. -/
theorem not_trapsSpecialRegistersPages : ¬ Obligations.TrapsSpecialRegistersPages := by
  intro hall
  unfold Obligations.TrapsSpecialRegistersPages at hall
  obtain ⟨-, hpages⟩ := hall
  have h := hpages ⟨false, false, 15⟩ ⟨0, 2, 4, 0, 1, 0⟩ pinningState pinReleased pinner
  obtain ⟨hlatch, hlo, hlen⟩ := pinner_range
  obtain ⟨hrole, hbusy⟩ := pinningState_okRange
  dsimp only at h
  rw [hlatch] at h
  obtain ⟨-, -, h⟩ := h
  rw [show pinner.rs (BitVec.toNat (2 : BitVec 6)) = 0x20000 from hlo, show pinner.rs (BitVec.toNat (2 : BitVec 6) + 1) = 0x10000 from hlen] at h
  obtain ⟨-, hpin⟩ := h pinReleased pinTranslated pinPages ⟨hrole, rfl, rfl, by decide, hbusy⟩ pinningState_released pinReleased_rangePages
  obtain ⟨-, hswitch⟩ := hpin pinningState_issues
  obtain ⟨u, hu, -⟩ := hswitch pinTranslated_reaches.1 pinTranslated_reaches.2
  exact nomatch pinTranslated_switched.symm.trans hu

end Sys2Proof.Machine

/-! PROOFS. A failing request beside an aborting team that is listed under the key of its own (R171, R289),
  against the clause on requests that fail. -/

namespace Sys2Proof.Machine

open Host

/-! ## A failing request beside an aborting team -/

/-- A team whose region is aborting. -/
def abortingTeam : Team := { placedTeam 1 0 0 with serial := 7, run := .aborting 0 0 }

/-- A report for that team. -/
def abortingReport : Report := ⟨0, 7, 1, .pageLost, 0, 0, []⟩

/-- The read of a transfer that climbs. -/
def climbingRead : Request := { heldRead with at_ := .climb }

/-- The key of the request's team is listed twice: the first entry, which every lookup finds, is the aborting team. -/
def twoTeamsState : State :=
  { State.reset with
    pkgs := [(0, { podsize := 1 })]
    requests := [(1, climbingRead)]
    teams := [(0, abortingTeam), (0, { placedTeam 1 0 0 with serial := 1 })]
    reports := [abortingReport] }

/-- No team of the request's serial number waits for a stop. -/
theorem twoTeamsState_calm : ∀ e ∈ twoTeamsState.teams, pkgOfTeam e.1 = 0 → e.2.serial = 1 → e.2.run = .running := by decide +kernel

/-- The failure of the request lets the abort of the other team take effect, which takes that team's reports away. -/
theorem twoTeamsState_fails : (twoTeamsState.failReq 1 1).reports ≠ twoTeamsState.reports := by decide +kernel

/-- Refutes O50: the clause on a request that fails asks that no team of its serial number waits for its results to stop, but not that teams are
listed once. Where the key of such a team names another team first, the abort of that one takes effect, and its reports go. -/
theorem not_directoryClimbs : ¬ Obligations.DirectoryClimbs := by
  intro hall
  unfold Obligations.DirectoryClimbs at hall
  obtain ⟨-, -, -, -, -, hfail, -⟩ := hall twoTeamsState 1 climbingRead (by decide +kernel) (by decide)
  have hcalm (e) (he : e ∈ twoTeamsState.teams) (hp : pkgOfTeam e.1 = 0) (hs : e.2.serial = 1) :
      e.2.run ≠ .freezing ∧ ∀ c u, e.2.run ≠ .aborting c u := by
    rw [twoTeamsState_calm e he hp hs]
    exact ⟨nofun, nofun⟩
  obtain ⟨X, hX, -, hkept, -⟩ := hfail hcalm 1
  exact twoTeamsState_fails (hX ▸ hkept (.inl rfl))

end Sys2Proof.Machine

/-! PROOFS. An invalidation behind which the sender serves a read that it held (R222, R252, R265),
  against the clause on what an invalidation leaves. -/

namespace Sys2Proof.Machine

open Host

/-! ## An invalidation that frees a held read -/

/-- The frame of page 2. -/
def dropFrame : Nat := 2 * setOf 2

/-- A package with page 2 as a replica, whose L3 holds a dirty byte of it; it serves the page's slice. -/
def replicaPkg : Pkg where
  podsize := 2
  linkUp := 1
  frames := [(dropFrame, { gpn := 2, state := .replica })]
  parish := [(2, { refs := 1, master := 0 })]
  l3 := { sectors := [(2 * 2048, { data := List.replicate 32 0, valid := 1, dirty := 1, gens := [] })] }

/-- A package with page 2 in both ways of its set, as a replica and as a master, and a read of the page held. -/
def bothWaysPkg : Pkg where
  podsize := 2
  linkUp := 1
  frames := [(dropFrame, { gpn := 2, state := .replica }), (dropFrame + 1, { gpn := 2, state := .masterExcl })]
  replay := [9]

/-- An invalidation of page 2 on its way to package 0. -/
def invalPacket : Packet := ⟨1, 0, 0, .inval 2⟩

/-- The invalidation is packet 6, the number that the reply to the held read is to take. -/
def invalState : State :=
  { State.reset with
    pkgs := [(0, replicaPkg), (1, bothWaysPkg)]
    packets := [(6, invalPacket)]
    requests := [(9, { heldRead with at_ := .replay 1, landed := true })]
    fresh := 5 }

/-- The packet arrives: at package 0 the page is a replica, and package 1 shows it as one too. -/
theorem invalState_arrives : invalState.packet 6 = some invalPacket ∧ invalState.arrives 6 invalPacket = true ∧
    (invalState.pkg 0).frameOf 2 = some dropFrame ∧ ((invalState.pkg 0).tag dropFrame).state = .replica ∧
    ((invalState.pkg 1).stateOf 2).isMaster = false := by
  decide +kernel

/-- Behind the invalidation the reply to the held read stands under the packet's number: with its replica gone, package 1 shows the master. -/
theorem invalState_replies (X : State) (hX : exec (.directoryInvalidation 6) invalState = .next X) : X.packet 6 ≠ none := by
  have hreplies : (match exec (.directoryInvalidation 6) invalState with | .next Y => (Y.packet 6).isSome | _ => true) = true := by decide +kernel
  rw [hX] at hreplies
  exact Option.isSome_iff_ne_none.1 hreplies

/-- Refutes O51: the clause on an invalidation asks neither that a package holds a page in one way of its set nor that the next number is fresh. Where
the sender holds the page as a replica and as its master, the dirty bytes of the replica that goes take the sender's replica away too; the sender then
serves a read that it holds, and the reply takes the packet's own number. -/
theorem not_directoryMoves : ¬ Obligations.DirectoryMoves := by
  intro hall
  unfold Obligations.DirectoryMoves at hall
  obtain ⟨-, -, hinval, -⟩ := hall invalState (by decide)
  obtain ⟨hpacket, harrives, hframe, hreplica, hmaster⟩ := invalState_arrives
  obtain ⟨-, hdrop⟩ := hinval 6 invalPacket 2 hpacket rfl
  obtain ⟨X, hX, hgone, -⟩ := hdrop dropFrame harrives (by decide) hframe hreplica hmaster
  exact invalState_replies X hX hgone

end Sys2Proof.Machine

/-! PROOFS. A request packet whose number another packet bears (R265, R345), against the clause on requests that arrive. -/

namespace Sys2Proof.Machine

open Host

/-! ## A request whose number another packet bears -/

/-- A package of a pod of three with an up port. -/
def podPkg : Pkg where
  podsize := 3
  linkUp := 1

/-- The older write of package 1 to sector 0 of page 2, and its younger read. -/
def olderWrite : Request := { heldRead with kind := .write [] false, at_ := .remote 0, pkg := 1 }
def youngerRead : Request := { heldRead with at_ := .remote 0, pkg := 1 }

/-- The read on its way to package 0. -/
def readPacket : Packet := ⟨1, 0, 0, .readReq 5⟩

/-- The read and the write bear one number; package 0, whose replay queue is full, does not hold the page. -/
def twoPacketsState : State :=
  { State.reset with
    pkgs := [(0, { podPkg with replay := List.replicate 4096 0 }), (1, podPkg)]
    packets := [(6, readPacket), (6, ⟨1, 0, 0, .write 3⟩)]
    requests := [(3, olderWrite), (5, youngerRead)] }

/-- The machine behind the arrival of the read's packet, as its clauses name it. -/
def behindRead : State :=
  { twoPacketsState with packets := erase twoPacketsState.packets 6 }.updPkg readPacket.dst fun y =>
    { y with flitsRx := y.flitsRx + BitVec.ofNat 64 readPacket.flits }

/-- The read's packet arrives at a package without the page, and nothing holds the read back behind it. -/
theorem twoPacketsState_arrives : twoPacketsState.packet 6 = some readPacket ∧ twoPacketsState.arrives 6 readPacket = true ∧
    twoPacketsState.request 5 = some youngerRead ∧ (twoPacketsState.pkg 0).stateOf 2 = .invalid ∧ behindRead.heldBack 5 youngerRead = false := by
  decide +kernel

/-- The packet stays where it is: before it is taken, the write that bears its number holds the read back, and the queue has no room. -/
theorem twoPacketsState_stays (X : State) (hX : exec (.sectorReadRequest 6) twoPacketsState = .next X) : X.packet 6 ≠ none := by
  have hstays : (match exec (.sectorReadRequest 6) twoPacketsState with | .next Y => (Y.packet 6).isSome | _ => true) = true := by decide +kernel
  rw [hX] at hstays
  exact Option.isSome_iff_ne_none.1 hstays

/-- As the clause says it, the packet would be gone. -/
theorem behindRead_served : ((behindRead.updRequest 5 fun q => { q with at_ := .climb }).serveHeld 0 2).packet 6 = none := by decide +kernel

/-- Refutes O52: the clause on a request that arrives asks whether it is held back behind its packet, but not that packets are listed once. Where a
second packet bears its number, the read is held back before the packet is taken and not behind it, and a full replay queue stops it. -/
theorem not_fabricPackets : ¬ Obligations.FabricPackets := by
  intro hall
  unfold Obligations.FabricPackets at hall
  obtain ⟨hpackets, -⟩ := hall twoPacketsState (by decide +kernel)
  obtain ⟨hpacket, harrives, hreq, hinvalid, hfree⟩ := twoPacketsState_arrives
  obtain ⟨-, harrive⟩ := hpackets 6 readPacket hpacket
  obtain ⟨hrequests, -⟩ := harrive harrives (by decide)
  obtain ⟨hclimbs, -⟩ := hrequests 5 (.sectorReadRequest 6) youngerRead (.inl ⟨rfl, rfl⟩) hreq rfl
  exact twoPacketsState_stays _ (hclimbs hinvalid hfree) behindRead_served

end Sys2Proof.Machine

/-! PROOFS. Heartbeats, the loss and the return of a package, its pages' settlement, and ports (R253, R268, R342 to R352). -/

namespace Sys2Proof.Machine

open Host

/-! ## Heartbeats, notices and the return of a package -/

theorem upPorts_length (k : Pkg) : (upPorts k).length = (List.range 18).countP fun j => k.linkUp.getLsbD j :=
  List.countP_eq_length_filter.symm

/-- HEARTBEAT_SEND (R351). -/
theorem heartbeat_rule (s : State) (p : Nat) :
    let k := s.pkg p
    let beats : Prop := k.linkUp ≠ 0 ∧ ∀ t, k.heartbeatAt = some t → t + max 1 k.hbus * 3600 ≤ s.now
    (¬beats → exec (.heartbeatSend p) s = .next s) ∧ (beats → exec (.heartbeatSend p) s = .next (s.beat p)) := by
  intro k beats
  have hcond : (k.linkUp == 0 || k.heartbeatAt.any fun t => decide (s.now < t + usClocks k.hbus)) = true ↔ ¬beats := by
    have hus : usClocks k.hbus = max 1 k.hbus * 3600 := rfl
    rw [Bool.or_eq_true, beq_iff_eq, Option.any_eq_true, hus, not_and_or, not_not]
    simp only [decide_eq_true_eq, not_forall, not_le, exists_prop]
  exact ⟨fun h => congrArg Outcome.next (if_pos (hcond.2 h)), fun h => congrArg Outcome.next (if_neg fun hc => hcond.1 hc h)⟩

theorem State.beat_eq (s : State) (p : Nat) : s.beat p = s.setPkg p { s.pkg p with
    heartbeatAt := some s.now, beatUs := (s.pkg p).hbus, beatMiss := s.pkgs.map fun e => (e.1, e.2.hbmiss)
    flitsTx := (s.pkg p).flitsTx + BitVec.ofNat 64 ((List.range 18).countP fun j => (s.pkg p).linkUp.getLsbD j) } := by
  rw [← upPorts_length]
  rfl

/-- A bit that is cleared. -/
theorem getLsbD_and_not_two_pow {w : Nat} (m : BitVec w) {x j : Nat} (hj : j < w) :
    (m &&& ~~~BitVec.ofNat w (2 ^ x)).getLsbD j = (m.getLsbD j && !decide (j = x)) := by
  rw [BitVec.getLsbD_and, BitVec.getLsbD_not, BitVec.getLsbD_ofNat, Nat.testBit_two_pow, decide_eq_true hj, Bool.true_and, Bool.true_and]
  simp [eq_comm]

/-- LOSS_NOTICE (R351, R352). -/
theorem lossNotice_rule (s : State) (p x : Nat) :
    let k := s.pkg p
    let m := s.pkg x
    let silent : Prop := m.linkUp = 0 ∨ ∀ t,
      m.heartbeatAt = some t → t + max 1 (getD k.hbmiss m.beatMiss p) * (max 1 (max m.beatUs m.hbus) * 3600) < s.now
    let heard : Prop := p ≠ x ∧ k.linkUp ≠ 0 ∧ x < k.podsize ∧ (s.declared x = true ∨ silent) ∧ s.declared p = false
    (¬heard → exec (.lossNotice p x) s = .next s) ∧
    (heard → k.lostmap.getLsbD x = true → exec (.lossNotice p x) s = .next (if k.duty.getLsbD 6 = true ∨ k.lossDue ≠ [] then s.lossResponse p x else s)) ∧
    (heard → k.lostmap.getLsbD x = false → x < 144 → ∃ Y m, exec (.lossNotice p x) s = .next ((Y.settleRequests p x).lossResponse p x) ∧
      (∀ j < 144, m.getLsbD j = (k.lostmap.getLsbD j || decide (j = x))) ∧
      let s1 := s.setPkg p ((({ k with lostmap := m } : Pkg).raiseVec 4).setAstat 5)
      Y = if s.declared x then s1 else s1.declareLost p x) := by
  intro k m silent heard
  have hsilent : s.silent p x = true ↔ silent := by
    unfold State.silent
    rw [Bool.or_eq_true, beq_iff_eq, Option.all_eq_true]
    simp only [decide_eq_true_eq]
    exact Iff.rfl
  have hcond : (decide (p = x) || k.linkUp == 0 || decide (k.podsize ≤ x) || !(s.declared x || s.silent p x) || s.declared p) = true ↔ ¬heard := by
    have hnot : (decide (p = x) || k.linkUp == 0 || decide (k.podsize ≤ x) || !(s.declared x || s.silent p x) || s.declared p) = false ↔ heard := by
      simp only [Bool.or_eq_false_iff, decide_eq_false_iff_not, beq_eq_false_iff_ne, Bool.not_eq_false', Bool.or_eq_true, hsilent, not_le, and_assoc]
      exact Iff.rfl
    rw [← hnot, Bool.not_eq_false]
  have hexec : exec (.lossNotice p x) s = .next (if decide (p = x) || k.linkUp == 0 || decide (k.podsize ≤ x) || !(s.declared x || s.silent p x) || s.declared p
      then s
      else if k.lostmap.getLsbD x then (if k.duty.getLsbD 6 || !k.lossDue.isEmpty then s.lossResponse p x else s)
      else
        let first := !s.declared x
        let s := s.updPkg p fun k => (({ k with lostmap := k.lostmap ||| BitVec.ofNat 144 (2 ^ x) } : Pkg).raiseVec 4).setAstat 5
        let s := if first then s.declareLost p x else s
        (s.settleRequests p x).lossResponse p x) := rfl
  refine ⟨fun h => by rw [hexec, if_pos (hcond.2 h)], fun h hl => ?_, fun h hl hx => ?_⟩
  · rw [hexec, if_neg (fun hc => hcond.1 hc h), if_pos hl]
    congr 2
    rw [Bool.or_eq_true, Bool.not_eq_true', List.isEmpty_eq_false_iff]
  · rw [hexec, if_neg (fun hc => hcond.1 hc h), if_neg (by rw [hl]; exact Bool.false_ne_true)]
    refine ⟨_, k.lostmap ||| BitVec.ofNat 144 (2 ^ x), rfl, fun j _ => getLsbD_or_two_pow _ hx j, ?_⟩
    cases s.declared x <;> rfl

/-- PACKAGE_REJOIN (R253, R352). -/
theorem rejoin_rule (s : State) (p x : Nat) :
    let k := s.pkg p
    let back : Prop := p ≠ x ∧ k.lostmap.getLsbD x = true ∧ (s.pkg x).stage = 6 ∧ (s.pkg x).linkUp ≠ 0 ∧ (s.pkg x).heartbeatAt ≠ none
    (¬back → exec (.packageRejoin p x) s = .next s) ∧
    (back → x < 144 → ∃ m, (∀ j < 144, m.getLsbD j = (k.lostmap.getLsbD j && !decide (j = x))) ∧
      let s1 := s.setPkg p (({ k with lostmap := m } : Pkg).raiseVec 4)
      exec (.packageRejoin p x) s = .next (if s1.declared x then s1 else (s1.carryOverflow p x true).rehome p)) := by
  intro k back
  have hcond : (decide (p = x) || !k.lostmap.getLsbD x || (s.pkg x).stage != 6 || (s.pkg x).linkUp == 0 || (s.pkg x).heartbeatAt.isNone) = true ↔ ¬back := by
    have hnot : (decide (p = x) || !k.lostmap.getLsbD x || (s.pkg x).stage != 6 || (s.pkg x).linkUp == 0 || (s.pkg x).heartbeatAt.isNone) = false ↔
        back := by
      simp only [Bool.or_eq_false_iff, decide_eq_false_iff_not, beq_eq_false_iff_ne, Bool.not_eq_false', bne_eq_false_iff_eq, and_assoc,
        Option.isNone_eq_false_iff, ← Option.ne_none_iff_isSome]
      exact Iff.rfl
    rw [← hnot, Bool.not_eq_false]
  refine ⟨fun h => congrArg Outcome.next (if_pos (hcond.2 h)), fun h _ => ?_⟩
  exact ⟨k.lostmap &&& ~~~BitVec.ofNat 144 (2 ^ x), fun j hj => getLsbD_and_not_two_pow _ hj,
    congrArg Outcome.next (if_neg fun hc => hcond.1 hc h)⟩

/-! ## Ports and planes -/

theorem hashPlane_mem {ports : List Nat} (h : ports ≠ []) (key : Nat) : hashPlane ports key ∈ ports := by
  have hlen : 0 < ports.length := List.length_pos_iff.2 h
  have hix : key % max 1 ports.length < ports.length := by
    rw [max_eq_right hlen]
    exact Nat.mod_lt _ hlen
  unfold hashPlane
  rw [List.getD_eq_getElem _ _ hix]
  exact List.getElem_mem hix

/-- The routes lie among the sender's up ports. -/
theorem State.mem_upPorts_of_routes {s : State} {src dst i : Nat} (h : i ∈ s.routes src dst) : i ∈ upPorts (s.pkg src) := by
  unfold State.routes at h
  dsimp only at h
  split at h
  · exact h
  · exact List.mem_of_mem_filter h

/-- An up port of the sender that is up at the receiver is a route. -/
theorem State.mem_routes {s : State} {src dst i : Nat} (h : i ∈ upPorts (s.pkg src)) (hd : (s.pkg dst).linkUp.getLsbD i = true) :
    i ∈ s.routes src dst := by
  have hboth : i ∈ (upPorts (s.pkg src)).filter fun i => (s.pkg dst).linkUp.getLsbD i := List.mem_filter.2 ⟨h, hd⟩
  unfold State.routes
  dsimp only
  rw [if_neg fun he => List.not_mem_nil (List.isEmpty_iff.1 he ▸ hboth)]
  exact hboth

theorem State.orderedPlane_mem {s : State} {src dst : Nat} (h : s.routes src dst ≠ []) (key : Nat) : s.orderedPlane src dst key ∈ s.routes src dst := by
  obtain ⟨i, hi⟩ := List.exists_mem_of_ne_nil _ h
  have hports : upPorts (s.pkg src) ≠ [] := List.ne_nil_of_mem (State.mem_upPorts_of_routes hi)
  unfold State.orderedPlane
  dsimp only
  split
  · next hup => exact State.mem_routes (hashPlane_mem hports key) hup
  · exact hashPlane_mem h key

/-- One of several is one of them. -/
theorem State.pick_mem {s : State} {l : List Nat} (h : l ≠ []) : ∃ x ∈ l, s.pick l = some x := by
  match l, h with
  | [x], _ => exact ⟨x, List.mem_singleton_self x, rfl⟩
  | x :: y :: l, _ =>
    have hix : Config.choice s.fresh % (x :: y :: l).length < (x :: y :: l).length := Nat.mod_lt _ (Nat.succ_pos _)
    exact ⟨_, List.getElem_mem hix, List.getElem?_eq_getElem hix⟩

theorem State.freePlane_mem {s : State} {ports : List Nat} (h : ports ≠ []) (p : Nat) : s.freePlane p ports ∈ ports := by
  obtain ⟨i, hi, hmin⟩ := ports.toFinset.exists_min_image (s.planeFlits p) ((List.toFinset_nonempty_iff _).2 h)
  rw [List.mem_toFinset] at hi
  have hleast : i ∈ ports.filter fun i => ports.all fun j => s.planeFlits p i ≤ s.planeFlits p j :=
    List.mem_filter.2 ⟨hi, List.all_eq_true.2 fun j hj => decide_eq_true (hmin j (List.mem_toFinset.2 hj))⟩
  obtain ⟨x, hx, hpick⟩ := s.pick_mem (List.ne_nil_of_mem hleast)
  unfold State.freePlane
  rw [hpick]
  exact List.mem_of_mem_filter hx

/-- Requests whose timeout starts anew: no package changes, and no packet. -/
theorem State.updRequests_frame (l : List Nat) (g : State → Request → Request) (s : State) :
    (l.foldl (fun s r => s.updRequest r (g s)) s).pkgs = s.pkgs ∧ (l.foldl (fun s r => s.updRequest r (g s)) s).packets = s.packets := by
  induction l generalizing s with
  | nil => exact ⟨rfl, rfl⟩
  | cons r l ih =>
    have hr : (s.updRequest r (g s)).pkgs = s.pkgs ∧ (s.updRequest r (g s)).packets = s.packets := by
      unfold State.updRequest
      split <;> exact ⟨rfl, rfl⟩
    obtain ⟨h1, h2⟩ := ih (s.updRequest r (g s))
    exact ⟨h1.trans hr.1, h2.trans hr.2⟩

/-- One packet that is stuck is sent again on a route (R346). -/
theorem State.resend_one {s : State} {p n : Nat} {e : Packet} (hone : s.packets = [(n, e)]) (hp : e.src = p ∨ e.dst = p)
    (hroutes : s.routes e.src e.dst ≠ []) (hstuck : ¬((s.pkg e.src).linkUp.getLsbD e.plane = true ∧ (s.pkg e.dst).linkUp.getLsbD e.plane = true)) :
    ∃ pl ∈ s.routes e.src e.dst, (s.resend p).packet n = some { e with plane := pl } ∧
      ((s.resend p).pkg e.src).resent = (s.pkg e.src).resent + 1 := by
  have hcond : ¬(!((e.src == p || e.dst == p) && !((s.pkg e.src).linkUp.getLsbD e.plane && (s.pkg e.dst).linkUp.getLsbD e.plane)) ||
      (s.routes e.src e.dst).isEmpty) = true := by
    rw [Bool.or_eq_true, Bool.not_eq_true', not_or, Bool.not_eq_false, Bool.and_eq_true, Bool.or_eq_true, beq_iff_eq, beq_iff_eq,
      Bool.not_eq_true', List.isEmpty_iff]
    refine ⟨⟨hp, ?_⟩, hroutes⟩
    rw [Bool.eq_false_iff, Ne, Bool.and_eq_true]
    exact hstuck
  unfold State.resend
  rw [hone]
  dsimp only [List.foldl_cons, List.foldl_nil]
  rw [if_neg hcond]
  have hplane (key : Option Nat) :
      (match key with | some x => s.orderedPlane e.src e.dst x | none => s.freePlane e.src (s.routes e.src e.dst)) ∈ s.routes e.src e.dst := by
    cases key with
    | none => exact State.freePlane_mem hroutes _
    | some x => exact State.orderedPlane_mem hroutes x
  refine ⟨_, hplane _, find_put_same _ _ _, ?_⟩
  rw [State.pkg_updPkg]
  exact congrArg (fun m => Pkg.resent (getD {} m e.src) + 1) (State.updRequests_frame _ _ s).1

/-- PORT_DOWN (R342). -/
theorem portDown_rule (s : State) (p port : Nat) :
    let k := s.pkg p
    let set (b : BitVec 18) (v : Bool) (c : BitVec 18) : Prop := ∀ j < 18, c.getLsbD j = if j = port then v else b.getLsbD j
    (port < 18 → k.linkUp.getLsbD port = true → ∃ u d, set k.linkUp false u ∧ set k.downEv true d ∧
      exec (.portDown p port) s = .next ((s.setPkg p { k with linkUp := u, downEv := d }).resend p)) ∧
    (18 ≤ port ∨ k.linkUp.getLsbD port = false → exec (.portDown p port) s = .next s) := by
  intro k set
  have hcond : (decide (18 ≤ port) || !k.linkUp.getLsbD port) = true ↔ 18 ≤ port ∨ k.linkUp.getLsbD port = false := by
    rw [Bool.or_eq_true, decide_eq_true_eq, Bool.not_eq_true']
  refine ⟨fun hport hup => ?_, fun h => congrArg Outcome.next (if_pos (hcond.2 h))⟩
  refine ⟨k.linkUp &&& ~~~BitVec.ofNat 18 (2 ^ port), k.downEv ||| BitVec.ofNat 18 (2 ^ port), fun j hj => ?_, fun j _ => ?_,
    congrArg Outcome.next (if_neg fun hc => ?_)⟩
  · rw [getLsbD_and_not_two_pow _ hj]
    split <;> simp [*]
  · rw [getLsbD_or_two_pow _ hport]
    split <;> simp [*]
  · rcases hcond.1 hc with h | h
    · omega
    · rw [hup] at h
      exact nomatch h

/-- PORT_UP (R342, R343, R351, R352). -/
theorem portUp_rule (s : State) (p port num : Nat) (cabled : Bool) :
    let k := s.pkg p
    let set (b : BitVec 18) (v : Bool) (c : BitVec 18) : Prop := ∀ j < 18, c.getLsbD j = if j = port then v else b.getLsbD j
    let trains : Prop := port < 18 ∧ 5 ≤ k.stage ∧ k.stage ≤ 6 ∧ k.linkUp.getLsbD port = false ∧ ¬(s.declared p = true ∧ k.stage = 6)
    (¬trains → exec (.portUp p port num cabled) s = .next s) ∧
    (trains → cabled = false → ∃ d, set k.downEv true d ∧ exec (.portUp p port num cabled) s = .next (s.setPkg p { k with downEv := d })) ∧
    (trains → cabled = true → num ≠ p → exec (.portUp p port num cabled) s = .next (s.setPkg p (if k.idMismatch then k else ({ k with idMismatch := true } : Pkg).raiseVec 4))) ∧
    (trains → cabled = true → num = p → ∃ u, set k.linkUp true u ∧ let s1 := s.setPkg p { k with linkUp := u }
      exec (.portUp p port num cabled) s = .next ((if k.heartbeatAt = none then s1.beat p else s1).resend p)) := by
  intro k set trains
  have hcond : (decide (18 ≤ port) || decide (k.stage < 5) || decide (6 < k.stage) || k.linkUp.getLsbD port || (s.declared p && k.stage == 6)) = true ↔
      ¬trains := by
    have hnot : (decide (18 ≤ port) || decide (k.stage < 5) || decide (6 < k.stage) || k.linkUp.getLsbD port || (s.declared p && k.stage == 6)) = false ↔
        trains := by
      simp only [Bool.or_eq_false_iff, decide_eq_false_iff_not, not_le, not_lt, and_assoc]
      rw [Bool.eq_false_iff (b := s.declared p && k.stage == 6), Ne, Bool.and_eq_true, beq_iff_eq]
    rw [← hnot, Bool.not_eq_false]
  have hset (b : BitVec 18) (hport : port < 18) : set b true (b ||| BitVec.ofNat 18 (2 ^ port)) := fun j _ => by
    rw [getLsbD_or_two_pow _ hport]
    split <;> simp [*]
  have hexec : exec (.portUp p port num cabled) s = .next (if decide (18 ≤ port) || decide (k.stage < 5) || decide (6 < k.stage) ||
      k.linkUp.getLsbD port || (s.declared p && k.stage == 6) then s
    else if !cabled then s.setPkg p { k with downEv := k.downEv ||| BitVec.ofNat 18 (2 ^ port) }
    else if num != p then s.setPkg p (if k.idMismatch then k else ({ k with idMismatch := true } : Pkg).raiseVec 4)
    else
      let s := s.setPkg p { k with linkUp := k.linkUp ||| BitVec.ofNat 18 (2 ^ port) }
      (if k.heartbeatAt.isNone then s.beat p else s).resend p) := rfl
  have hgoes (h : trains) := fun hc => hcond.1 hc h
  refine ⟨fun h => by rw [hexec, if_pos (hcond.2 h)], fun h hcab => ?_, fun h hcab hnum => ?_, fun h hcab hnum => ?_⟩
  · refine ⟨_, hset k.downEv h.1, ?_⟩
    rw [hexec, if_neg (hgoes h), hcab]
    rfl
  · rw [hexec, if_neg (hgoes h), hcab, if_neg (by decide), if_pos (bne_iff_ne.2 hnum)]
  · refine ⟨_, hset k.linkUp h.1, ?_⟩
    rw [hexec, if_neg (hgoes h), hcab, if_neg (by decide), if_neg (fun hb => bne_iff_ne.1 hb hnum)]
    cases hbeat : k.heartbeatAt <;> rfl

/-! ## Entries of a page in the slices -/

theorem State.updParish_eq {s : State} {a g : Nat} {e : ParishEnt} (h : s.parishEnt a g = some e) (f : ParishEnt → ParishEnt) :
    s.updParish a g f = s.setParish a g (f e) := by
  unfold State.updParish
  rw [h]

/-- The entry of a page at each package behind a change of it at one slice. -/
theorem State.parish_updParish (s : State) (a g : Nat) (f : ParishEnt → ParishEnt) (q : Nat) :
    find ((s.updParish a g f).pkg q).parish g =
      if s.parishSlice a g = q then (find (s.pkg q).parish g).map f else find (s.pkg q).parish g := by
  by_cases hq : s.parishSlice a g = q
  · rw [if_pos hq]
    cases he : s.parishEnt a g with
    | none =>
      unfold State.updParish
      rw [he, ← hq]
      rw [show find (s.pkg (s.parishSlice a g)).parish g = none from he]
      rfl
    | some e =>
      rw [State.updParish_eq he]
      unfold State.setParish
      rw [← hq, State.pkg_updPkg, show find (s.pkg (s.parishSlice a g)).parish g = some e from he]
      exact find_put_same _ _ _
  · rw [if_neg hq]
    unfold State.updParish State.setParish
    split
    · rw [State.pkg_updPkg_other _ _ (Ne.symm hq)]
    · rfl

/-- The ways of every package, and who takes part in the pod, stay. -/
def State.SameWays (s s' : State) : Prop :=
  (Rising s.pkgs → Rising s'.pkgs) ∧
    ∀ q, (s'.pkg q).frames = (s.pkg q).frames ∧ (s'.pkg q).podsize = (s.pkg q).podsize ∧ (s'.pkg q).lostmap = (s.pkg q).lostmap

theorem State.SameWays.refl (s : State) : s.SameWays s := ⟨id, fun _ => ⟨rfl, rfl, rfl⟩⟩

theorem State.SameWays.trans {a b c : State} (hb : a.SameWays b) (hc : b.SameWays c) : a.SameWays c := by
  refine ⟨hc.1 ∘ hb.1, fun q => ?_⟩
  obtain ⟨b1, b2, b3⟩ := hb.2 q
  obtain ⟨c1, c2, c3⟩ := hc.2 q
  exact ⟨c1.trans b1, c2.trans b2, c3.trans b3⟩

/-- A change of one package that leaves its ways and its place in the pod. -/
theorem State.sameWays_updPkg (s : State) (p : Nat) {f : Pkg → Pkg}
    (h : ∀ k, (f k).frames = k.frames ∧ (f k).podsize = k.podsize ∧ (f k).lostmap = k.lostmap) : s.SameWays (s.updPkg p f) := by
  refine ⟨fun hr => rising_put hr _ _, fun q => ?_⟩
  by_cases hq : q = p
  · rw [hq, State.pkg_updPkg]
    exact h _
  · rw [State.pkg_updPkg_other _ _ hq]
    exact ⟨rfl, rfl, rfl⟩

theorem State.sameWays_updParish (s : State) (a g : Nat) (f : ParishEnt → ParishEnt) : s.SameWays (s.updParish a g f) := by
  unfold State.updParish
  split
  · exact s.sameWays_updPkg _ fun _ => ⟨rfl, rfl, rfl⟩
  · exact .refl s

/-- A package is declared lost when some package counts it so. -/
theorem State.declared_iff {s : State} (h : Rising s.pkgs) (p : Nat) : s.declared p = true ↔ ∃ q, (s.pkg q).lostmap.getLsbD p = true := by
  unfold State.declared
  rw [List.any_eq_true]
  constructor
  · rintro ⟨e, he, hp⟩
    refine ⟨e.1, ?_⟩
    unfold State.pkg getD
    rw [find_of_mem h he]
    exact hp
  · rintro ⟨q, hq⟩
    unfold State.pkg getD at hq
    cases hf : find s.pkgs q with
    | none =>
      rw [hf] at hq
      exact absurd hq (by simp)
    | some k =>
      rw [hf] at hq
      exact ⟨(q, k), find_mem hf, hq⟩

/-- Where pods and lost packages are the same, so are the slices. -/
theorem State.declared_congr {s s' : State} (hr : Rising s.pkgs) (hr' : Rising s'.pkgs) (h : ∀ q, (s'.pkg q).lostmap = (s.pkg q).lostmap) (p : Nat) :
    s'.declared p = s.declared p := by
  rw [Bool.eq_iff_iff, State.declared_iff hr', State.declared_iff hr]
  exact exists_congr fun q => by rw [h q]

theorem State.parishSlice_congr {s s' : State} (hr : Rising s.pkgs) (hr' : Rising s'.pkgs)
    (h : ∀ q, (s'.pkg q).podsize = (s.pkg q).podsize ∧ (s'.pkg q).lostmap = (s.pkg q).lostmap) (a g : Nat) : s'.parishSlice a g = s.parishSlice a g := by
  have hpresent : s'.present a = s.present a := funext fun q => by
    unfold State.present
    rw [(h a).1, State.declared_congr hr hr' fun q => (h q).2]
  unfold State.parishSlice
  rw [(h a).1, hpresent]

/-- The page's slice is the same package. -/
theorem State.SameWays.parishSlice {s s' : State} (h : s.SameWays s') (hr : Rising s.pkgs) (a g : Nat) : s'.parishSlice a g = s.parishSlice a g :=
  State.parishSlice_congr hr (h.1 hr) (fun q => (h.2 q).2) a g

/-- A change that leaves ways and entries. -/
def State.SamePages (s s' : State) : Prop := s.SameWays s' ∧ ∀ q, (s'.pkg q).parish = (s.pkg q).parish

theorem State.SamePages.refl (s : State) : s.SamePages s := ⟨.refl s, fun _ => rfl⟩

theorem State.SamePages.trans {a b c : State} (hb : a.SamePages b) (hc : b.SamePages c) : a.SamePages c :=
  ⟨hb.1.trans hc.1, fun q => (hc.2 q).trans (hb.2 q)⟩

theorem State.samePages_updPkg (s : State) (p : Nat) {f : Pkg → Pkg}
    (h : ∀ k, (f k).frames = k.frames ∧ (f k).podsize = k.podsize ∧ (f k).lostmap = k.lostmap ∧ (f k).parish = k.parish) :
    s.SamePages (s.updPkg p f) := by
  refine ⟨s.sameWays_updPkg p fun k => ⟨(h k).1, (h k).2.1, (h k).2.2.1⟩, fun q => ?_⟩
  by_cases hq : q = p
  · rw [hq, State.pkg_updPkg]
    exact (h _).2.2.2
  · rw [State.pkg_updPkg_other _ _ hq]

theorem State.SamePages.foldl {α : Type} (l : List α) (f : State → α → State) (hf : ∀ (s : State) (x : α), s.SamePages (f s x)) (s : State) :
    s.SamePages (l.foldl f s) := by
  induction l generalizing s with
  | nil => exact .refl s
  | cons x l ih => exact (hf s x).trans (ih _)

/-- What raises a vector or notes a bit of ASTAT leaves. -/
theorem Pkg.raiseVec_pages (k : Pkg) (v : Nat) :
    (k.raiseVec v).frames = k.frames ∧ (k.raiseVec v).podsize = k.podsize ∧ (k.raiseVec v).lostmap = k.lostmap ∧ (k.raiseVec v).parish = k.parish ∧
      (k.raiseVec v).hreqs = k.hreqs ∧ (k.raiseVec v).lossDue = k.lossDue := by
  unfold Pkg.raiseVec
  split <;> exact ⟨rfl, rfl, rfl, rfl, rfl, rfl⟩

/-- As much for a vector that is raised in one case. -/
theorem Pkg.raiseVecIf_pages (c : Prop) [Decidable c] (k : Pkg) (v : Nat) :
    let k' := if c then k.raiseVec v else k
    k'.frames = k.frames ∧ k'.podsize = k.podsize ∧ k'.lostmap = k.lostmap ∧ k'.parish = k.parish ∧ k'.hreqs = k.hreqs ∧ k'.lossDue = k.lossDue := by
  dsimp only
  split
  · exact k.raiseVec_pages v
  · exact ⟨rfl, rfl, rfl, rfl, rfl, rfl⟩

theorem Pkg.setAstat_pages (k : Pkg) (b : Nat) :
    (k.setAstat b).frames = k.frames ∧ (k.setAstat b).podsize = k.podsize ∧ (k.setAstat b).lostmap = k.lostmap ∧ (k.setAstat b).parish = k.parish := by
  unfold Pkg.setAstat
  split
  · exact ⟨rfl, rfl, rfl, rfl⟩
  · obtain ⟨h1, h2, h3, h4, -⟩ := ({ k with astat := k.astat ||| BitVec.ofNat 8 (2 ^ b) } : Pkg).raiseVec_pages 3
    exact ⟨h1, h2, h3, h4⟩

theorem State.samePages_setHostBytes (s : State) (a : Nat) (bs : List Byte) : s.SamePages (s.setHostBytes a bs) :=
  ⟨⟨id, fun _ => ⟨rfl, rfl, rfl⟩⟩, fun _ => rfl⟩

theorem State.askHost_full {s : State} {p : Nat} (h : (s.pkg p).hreqTail - (s.pkg p).hreqHead = 4096) (kind core : Nat) (a b c : Word) :
    s.askHost p kind core a b c = (s, none) := if_pos h

/-- A request to the host that its ring has room for. -/
theorem State.askHost_room {s : State} {p : Nat} (h : (s.pkg p).hreqTail - (s.pkg p).hreqHead ≠ 4096) (kind core : Nat) (a b c : Word) :
    ∃ X, s.askHost p kind core a b c = (X, some (s.pkg p).hreqTail.toNat) ∧ s.SamePages X ∧ (X.pkg p).lossDue = (s.pkg p).lossDue ∧
      find (X.pkg p).hreqs (s.pkg p).hreqTail.toNat = some ⟨kind, core, a, b, c, s.cur⟩ := by
  unfold State.askHost
  dsimp only
  rw [if_neg h]
  refine ⟨_, rfl, (State.samePages_setHostBytes s _ _).trans (State.samePages_updPkg _ p fun k => ?_), ?_, ?_⟩
  · obtain ⟨h1, h2, h3, h4, -⟩ := Pkg.raiseVecIf_pages (k.hreqTail = k.hreqHead)
      { k with hreqTail := k.hreqTail + 1, hreqs := put k.hreqs (s.pkg p).hreqTail.toNat ⟨kind, core, a, b, c, s.cur⟩ } 5
    exact ⟨h1, h2, h3, h4⟩
  · rw [State.pkg_updPkg]
    exact (Pkg.raiseVecIf_pages _ _ 5).2.2.2.2.2
  · rw [State.pkg_updPkg, (Pkg.raiseVecIf_pages _ _ 5).2.2.2.2.1]
    exact find_put_same _ _ _

theorem State.samePages_askHost (s : State) (p kind core : Nat) (a b c : Word) : s.SamePages (s.askHost p kind core a b c).1 := by
  by_cases h : (s.pkg p).hreqTail - (s.pkg p).hreqHead = 4096
  · rw [State.askHost_full h]
    exact .refl s
  · obtain ⟨X, hX, hsame, -⟩ := State.askHost_room h kind core a b c
    rw [hX]
    exact hsame

theorem State.samePages_roomFor (s : State) (q gpn : Nat) (parish : Bool) : s.SamePages (s.roomFor q gpn parish).1 := by
  unfold State.roomFor
  dsimp only
  split
  · exact .refl s
  split
  · exact s.samePages_updPkg q fun k => k.setAstat_pages 1
  split
  · exact .refl s
  split
  · exact s.samePages_askHost q 4 255 _ _ _
  · refine s.samePages_updPkg q fun k => ?_
    split <;> exact k.setAstat_pages 2

/-- A presence bit that is set: only HAMLETS of the entry at the page's slice changes. -/
theorem State.notePresent_pages (s : State) (p g : Nat) (master : Bool) : ∃ s1, s.SamePages s1 ∧
    s.notePresent p g master = s1.updParish p g fun e => { e with hamlets := e.hamlets ||| BitVec.ofNat 12 (2 ^ (p / 12)) } := by
  unfold State.notePresent
  extract_lets q s1 s2
  have h1 : s.SamePages s1 := by
    have hroom := s.samePages_roomFor q g false
    subst s1
    split
    · exact .refl s
    · split
      · next heq => rw [heq] at hroom; exact hroom
      · next heq => rw [heq] at hroom; exact hroom.trans (State.samePages_updPkg _ _ fun _ => ⟨rfl, rfl, rfl, rfl⟩)
  have h2 : s1.SamePages s2 := by
    subst s2
    split
    · exact .refl _
    · exact State.samePages_updPkg _ _ fun _ => ⟨rfl, rfl, rfl, rfl⟩
  exact ⟨s2, h1.trans h2, rfl⟩

/-- A new master of a page: the entry at its slice names it. -/
theorem State.setMaster_pages (s : State) (p g : Nat) : ∃ s1, (s.updParish p g fun e => { e with master := p }).SamePages s1 ∧
    s.setMaster p g = s1.updParish p g fun e => { e with hamlets := e.hamlets ||| BitVec.ofNat 12 (2 ^ (p / 12)) } := by
  unfold State.setMaster
  extract_lets s1 s2
  have h2 : s1.SamePages s2 := by
    subst s2
    refine .foldl _ _ (fun x h => ?_) s1
    dsimp only
    split
    · exact .refl x
    · split
      · exact .refl x
      · exact x.samePages_updPkg _ fun _ => ⟨rfl, rfl, rfl, rfl⟩
  obtain ⟨s3, h3, heq⟩ := s2.notePresent_pages p g true
  exact ⟨s3, h2.trans h3, heq⟩

theorem State.SameWays.tag {s s' : State} (h : s.SameWays s') (q f : Nat) : (s'.pkg q).tag f = (s.pkg q).tag f := by
  unfold Pkg.tag
  rw [(h.2 q).1]

/-! ## The settlement of a page -/

section
variable {s : State} {p x gpn : Nat} {e : ParishEnt}

/-- A page whose master was elsewhere loses at most its twin there. -/
theorem settlePage_elsewhere (h : e.master ≠ x) (ht : e.twinpkg ≠ x) : s.settlePage p x gpn e = s := by
  unfold State.settlePage
  rw [if_pos (bne_iff_ne.2 h), if_neg ht]

theorem settlePage_twin (he : s.parishEnt p gpn = some e) (h : e.master ≠ x) (ht : e.twinpkg = x) :
    ∃ Y : State, s.settlePage p x gpn e = Y.releasePage gpn ∧ find (Y.pkg (s.parishSlice p gpn)).parish gpn = some { e with twinpkg := 255 } ∧
      ∀ f, (s.pkg e.master).frameOf gpn = some f → ((Y.pkg e.master).tag f).twin = false := by
  unfold State.settlePage
  rw [if_pos (bne_iff_ne.2 h), if_pos ht]
  have hways := s.sameWays_updParish p gpn fun e => { e with twinpkg := 255 }
  have hparish := s.parish_updParish p gpn (fun e => { e with twinpkg := 255 }) (s.parishSlice p gpn)
  rw [if_pos rfl, show find (s.pkg (s.parishSlice p gpn)).parish gpn = some e from he] at hparish
  generalize (s.updParish p gpn fun e => { e with twinpkg := 255 }) = s1 at hways hparish ⊢
  refine ⟨_, rfl, ?_, fun f hf => ?_⟩
  · by_cases hq : s.parishSlice p gpn = e.master
    · rw [hq] at hparish ⊢
      rw [State.pkg_updPkg]
      split
      · exact hparish
      · exact hparish
    · rw [State.pkg_updPkg_other _ _ hq]
      exact hparish
  · have hframe : (s1.pkg e.master).frameOf gpn = some f := by
      rw [← hf]
      unfold Pkg.frameOf
      simp only [hways.tag]
    rw [State.pkg_updPkg, hframe]
    exact congrArg Tag.twin (getD_setD_same {} _ f _)

/-- The host is asked about a page, or will be. -/
theorem settlePage_asked (h : e.master = x) (hl : e.lost = false) (hr : e.refs ≠ 0) (ha : s.lossAsked p gpn = false)
    (hd : (s.pkg p).duty.getLsbD 6 = true ∨ gpn ∈ (s.pkg p).lossDue) :
    s.settlePage p x gpn e = match s.askHost p 6 255 (BitVec.ofNat 64 x) (BitVec.ofNat 64 gpn)
        (BitVec.ofNat 64 (e.twinpkg + 256 * ((s.copies gpn x).head?).getD 255)) with
    | (s, some _) => s.updPkg p fun k => { k with lossDue := k.lossDue.filter (· != gpn) }
    | (s, none) => s.updPkg p fun k => { k with lossDue := k.lossDue.filter (· != gpn) ++ [gpn] } := by
  unfold State.settlePage
  exact (if_neg (by rw [h]; simp)).trans ((if_neg (by simp [hl, hr, ha])).trans
    (if_pos (by rw [Bool.or_eq_true, List.contains_iff_mem]; exact hd)))

theorem settlePage_full (h : e.master = x) (hl : e.lost = false) (hr : e.refs ≠ 0) (ha : s.lossAsked p gpn = false)
    (hd : (s.pkg p).duty.getLsbD 6 = true ∨ gpn ∈ (s.pkg p).lossDue) (hfull : (s.pkg p).hreqTail - (s.pkg p).hreqHead = 4096) :
    gpn ∈ ((s.settlePage p x gpn e).pkg p).lossDue ∧ ((s.settlePage p x gpn e).pkg p).hreqs = (s.pkg p).hreqs := by
  rw [settlePage_asked h hl hr ha hd, State.askHost_full hfull]
  dsimp only
  rw [State.pkg_updPkg]
  exact ⟨List.mem_append_right _ (List.mem_singleton_self gpn), rfl⟩

theorem settlePage_room (h : e.master = x) (hl : e.lost = false) (hr : e.refs ≠ 0) (ha : s.lossAsked p gpn = false)
    (hd : (s.pkg p).duty.getLsbD 6 = true ∨ gpn ∈ (s.pkg p).lossDue) (hroom : (s.pkg p).hreqTail - (s.pkg p).hreqHead ≠ 4096) :
    ∃ X r, s.settlePage p x gpn e = X ∧ gpn ∉ (X.pkg p).lossDue ∧ find (X.pkg p).hreqs (s.pkg p).hreqTail.toNat = some r ∧
      r.kind = 6 ∧ r.a = BitVec.ofNat 64 x ∧ r.b = BitVec.ofNat 64 gpn := by
  obtain ⟨X, hX, -, -, hreq⟩ := State.askHost_room hroom 6 255 (BitVec.ofNat 64 x) (BitVec.ofNat 64 gpn)
    (BitVec.ofNat 64 (e.twinpkg + 256 * ((s.copies gpn x).head?).getD 255))
  rw [settlePage_asked h hl hr ha hd, hX]
  refine ⟨X.updPkg p fun k => { k with lossDue := k.lossDue.filter (· != gpn) }, ⟨6, 255, BitVec.ofNat 64 x, BitVec.ofNat 64 gpn,
    BitVec.ofNat 64 (e.twinpkg + 256 * ((s.copies gpn x).head?).getD 255), s.cur⟩, rfl, ?_, ?_, rfl, rfl, rfl⟩
  · rw [State.pkg_updPkg]
    exact fun hm => bne_iff_ne.1 (List.mem_filter.1 hm).2 rfl
  · rw [State.pkg_updPkg]
    exact hreq

/-- The survivor settles the page itself: at its heir, or it is LOST. -/
theorem settlePage_own (h : e.master = x) (hl : e.lost = false) (hr : e.refs ≠ 0) (ha : s.lossAsked p gpn = false)
    (hd : (s.pkg p).duty.getLsbD 6 = false) (hn : gpn ∉ (s.pkg p).lossDue) :
    s.settlePage p x gpn e = match s.heir x gpn e with
      | some q => s.promoteAt p gpn q
      | none => s.losePage p gpn := by
  unfold State.settlePage
  exact (if_neg (by rw [h]; simp)).trans ((if_neg (by simp [hl, hr, ha])).trans
    (if_neg (by rw [Bool.or_eq_true, List.contains_iff_mem, hd]; simp [hn])))

theorem heir_eq (x : Nat) : s.heir x gpn e = if e.twinpkg ≠ 255 ∧ e.twinpkg ≠ x then some e.twinpkg else (s.copies gpn x).head? := by
  unfold State.heir
  simp only [Bool.and_eq_true, bne_iff_ne]

/-- What the promotion of a page at a package leaves of its entry and of its frame (R268). -/
theorem promoteAt_rule (hrise : Rising s.pkgs) (he : s.parishEnt p gpn = some e) {q f : Nat} (hf : (s.pkg q).frameOf gpn = some f) :
    ∃ Y : State, s.promoteAt p gpn q = Y.releasePage gpn ∧
      (∃ y, find (Y.pkg (s.parishSlice p gpn)).parish gpn = some y ∧ (s.parishSlice q gpn = s.parishSlice p gpn → y.master = q) ∧ y.twinpkg = 255 ∧
        y.refs = e.refs) ∧
      ((Y.pkg q).tag f).gpn = gpn ∧ ((Y.pkg q).tag f).twin = false ∧ (((Y.pkg q).tag f).state = .masterExcl ↔ s.copies gpn q = []) ∧
      (((Y.pkg q).tag f).state = .masterShared ↔ s.copies gpn q ≠ []) := by
  let st : FrameState := if (s.copies gpn q).isEmpty then .masterExcl else .masterShared
  let tag : Tag := { gpn := gpn, state := st, pinned := e.pinned, twin := false }
  let cut (e' : ParishEnt) : ParishEnt := { e' with twinpkg := 255, twin := e'.twin && e'.twinpkg != q }
  obtain ⟨s1, hs1⟩ : ∃ s1, s1 = s.updPkg q fun k => k.setTag f tag := ⟨_, rfl⟩
  have hprom : s.promoteAt p gpn q = ((s1.updParish p gpn cut).setMaster q gpn).releasePage gpn := by
    rw [hs1]
    unfold State.promoteAt
    rw [hf]
    dsimp only
    rw [he]
    rfl
  -- neither the frame's tag nor the entries' changes move a slice
  have hr1 : Rising s1.pkgs := hs1 ▸ rising_put hrise _ _
  have hpkg1 (n : Nat) : (s1.pkg n).podsize = (s.pkg n).podsize ∧ (s1.pkg n).lostmap = (s.pkg n).lostmap ∧ (s1.pkg n).parish = (s.pkg n).parish := by
    rw [hs1]
    by_cases hn : n = q
    · rw [hn, State.pkg_updPkg]
      exact ⟨rfl, rfl, rfl⟩
    · rw [State.pkg_updPkg_other _ _ hn]
      exact ⟨rfl, rfl, rfl⟩
  have hslice1 (a : Nat) : s1.parishSlice a gpn = s.parishSlice a gpn :=
    State.parishSlice_congr hrise hr1 (fun n => ⟨(hpkg1 n).1, (hpkg1 n).2.1⟩) a gpn
  have hways2 := s1.sameWays_updParish p gpn cut
  have hent2 := s1.parish_updParish p gpn cut (s.parishSlice p gpn)
  rw [if_pos (hslice1 p), (hpkg1 _).2.2, show find (s.pkg (s.parishSlice p gpn)).parish gpn = some e from he] at hent2
  generalize s1.updParish p gpn cut = s2 at hprom hways2 hent2
  obtain ⟨s4, h4, hmaster⟩ := s2.setMaster_pages q gpn
  have hways3 := s2.sameWays_updParish q gpn fun e => { e with master := q }
  have hent3 := s2.parish_updParish q gpn (fun e => { e with master := q }) (s.parishSlice p gpn)
  have hways4 := (hways2.trans hways3).trans h4.1
  have hways5 := hways4.trans (s4.sameWays_updParish q gpn fun e => { e with hamlets := e.hamlets ||| BitVec.ofNat 12 (2 ^ (q / 12)) })
  have hent5 := s4.parish_updParish q gpn (fun e => { e with hamlets := e.hamlets ||| BitVec.ofNat 12 (2 ^ (q / 12)) }) (s.parishSlice p gpn)
  rw [hways4.parishSlice hr1, hslice1, h4.2] at hent5
  rw [hways2.parishSlice hr1, hslice1, hent2] at hent3
  rw [hent3] at hent5
  rw [← hmaster] at hways5 hent5
  have htag : ((s2.setMaster q gpn).pkg q).tag f = tag := by
    rw [hways5.tag, hs1, State.pkg_updPkg]
    exact getD_setD_same ({} : Tag) _ f _
  refine ⟨s2.setMaster q gpn, hprom, ?_, ?_, ?_, ?_, ?_⟩
  · rw [hent5]
    by_cases hq : s.parishSlice q gpn = s.parishSlice p gpn
    · rw [if_pos hq, if_pos hq]
      exact ⟨_, rfl, fun _ => rfl, rfl, rfl⟩
    · rw [if_neg hq, if_neg hq]
      exact ⟨_, rfl, fun h => absurd h hq, rfl, rfl⟩
  · rw [htag]
  · rw [htag]
  · rw [htag]
    cases hc : s.copies gpn q <;> simp [tag, st, hc]
  · rw [htag]
    cases hc : s.copies gpn q <;> simp [tag, st, hc]
end

/-- Settles O53: heartbeats, notices, the return of a package and ports are each an equation; a page's settlement is its promotion at its heir, a
request to the host or its loss. -/
theorem fabricLossAndPorts : Obligations.FabricLossAndPorts := by
  unfold Obligations.FabricLossAndPorts
  intro s hrise beat
  have hbeat (X : State) (p : Nat) : X.beat p = beat X p := X.beat_eq p
  refine ⟨fun p => ?_, fun p x => lossNotice_rule s p x, fun p x gpn e => ?_, fun p x => rejoin_rule s p x, fun p port => ?_⟩
  · have h := heartbeat_rule s p
    rw [hbeat] at h
    exact h
  · intro k he
    refine ⟨settlePage_elsewhere, settlePage_twin he, fun h hdone => ?_, fun h hl hr ha hd => ⟨fun hfull => ?_, ?_⟩, fun h hl hr ha hd hn => ?_, ?_⟩
    · unfold State.settlePage
      rw [if_neg (by rw [h]; simp), if_pos (by simpa [or_assoc] using hdone)]
    · exact ⟨_, rfl, settlePage_full h hl hr ha hd hfull⟩
    · exact settlePage_room h hl hr ha hd
    · rw [settlePage_own h hl hr ha hd hn, ← heir_eq]
      refine ⟨fun q hq => by rw [hq], fun hq => ?_⟩
      rw [hq]
      unfold State.losePage
      rw [State.updParish_eq he]
    · exact fun q f hf => promoteAt_rule hrise he hf
  · intro k set
    obtain ⟨hdown, hstays⟩ := portDown_rule s p port
    refine ⟨hdown, hstays, ?_⟩
    intro num cabled trains
    have h := portUp_rule s p port num cabled
    simp only [hbeat] at h
    obtain ⟨h1, h2, h3, h4⟩ := h
    refine ⟨h1, h2, h3, h4, fun n e rs hone hp hroutes hne hstuck => ?_⟩
    rw [hroutes] at hne ⊢
    exact State.resend_one hone hp hne hstuck

end Sys2Proof.Machine

/-! PROOFS. The canonical form of memory as one predicate, and that the accessors and the laws of memory keep it (log 4). What a lemma of
the files behind this one says of a function of the model, it says through the lemmas of the functions that it calls. -/

namespace Sys2Proof.Machine

open Host

variable {s : State}

/-- Memory in its canonical form, as one predicate that no rewriting opens. -/
def State.Canonical (s : State) : Prop := s.memWf

/-- The bytes of a memory in their canonical form. -/
def Cells (m : Memory) : Prop := Memory.wf m

/-! ## Registers of a package leave its stacks -/

namespace Pkg

theorem setFstat_hbm (k : Pkg) (b : Nat) : (k.setFstat b).hbm = k.hbm := by
  unfold setFstat
  grind [raiseVec_hbm]

theorem count_hbm (k : Pkg) (n b : Nat) : (k.count n b).hbm = k.hbm := rfl
theorem setTag_hbm (k : Pkg) (f : Nat) (t : Tag) : (k.setTag f t).hbm = k.hbm := rfl
theorem touch_hbm (k : Pkg) (f : Nat) : (k.touch f).hbm = k.hbm := rfl
theorem missedRoute_hbm (k : Pkg) : k.missedRoute.hbm = k.hbm := rfl
theorem updQ_hbm (k : Pkg) (q : Nat) (f : Queue → Queue) : (k.updQ q f).hbm = k.hbm := rfl
theorem completed_hbm (k : Pkg) (q : Nat) : (k.completed q).hbm = k.hbm := raiseVec_hbm k _
theorem setStage_hbm (k : Pkg) (stage err : Nat) : (k.setStage stage err).hbm = k.hbm := raiseVec_hbm _ _

theorem restaged_hbm (k : Pkg) (stage : Nat) : (k.restaged stage).hbm = k.hbm := by
  unfold restaged
  split
  · rfl
  · exact raiseVec_hbm k 6

theorem endTicket_hbm (k : Pkg) (t : Option Nat) (status : Nat) : (k.endTicket t status).hbm = k.hbm := by
  unfold endTicket; split <;> rfl

theorem writeBoot_hbm (k : Pkg) (off : Nat) (v : Word) : (k.writeBoot off v).hbm = k.hbm := by
  unfold writeBoot
  grind

theorem writeCmd_hbm (k : Pkg) (off : Nat) (v : Word) : (k.writeCmd off v).hbm = k.hbm := by
  unfold writeCmd
  grind

theorem writeSched_hbm (k : Pkg) (off : Nat) (v : Word) : (k.writeSched off v).hbm = k.hbm := by
  unfold writeSched
  grind

theorem writeAttr_hbm (k : Pkg) (off : Nat) (v : Word) : (k.writeAttr off v).hbm = k.hbm := by
  unfold writeAttr
  grind

theorem writeFabric_hbm (k : Pkg) (off : Nat) (v : Word) : (k.writeFabric off v).hbm = k.hbm := by
  unfold writeFabric
  grind

theorem cells_zeroFrame {k : Pkg} (h : Cells k.hbm) (f : Nat) : Cells (k.zeroFrame f).hbm := wf_zeroFrame h f
theorem cells_setBytes {k : Pkg} (h : Cells k.hbm) (f off : Nat) (bs : List Byte) : Cells (k.setBytes f off bs).hbm := wf_setBytes h f off bs

end Pkg

/-! ## The accessors -/

namespace State

/-- Which fields of a state its canonical form is about. -/
theorem canonical_iff : s.Canonical ↔
    Cells s.hostMem ∧ (∀ e ∈ s.pkgs, Cells e.2.hbm) ∧ ∀ e ∈ s.shares, Cells e.2.sp := Iff.rfl

theorem cells_pkg (h : s.Canonical) (p : Nat) : Cells (s.pkg p).hbm := memWf_pkg h p

theorem cells_share (h : s.Canonical) {sh : Nat} {x : Share} (hx : s.share sh = some x) : Cells x.sp := memWf_share h hx

theorem canonical_setPkg (h : s.Canonical) (p : Nat) {k : Pkg} (hk : Cells k.hbm) : (s.setPkg p k).Canonical := memWf_setPkg h p hk

theorem canonical_updPkg (h : s.Canonical) (p : Nat) {f : Pkg → Pkg} (hf : ∀ k, Cells k.hbm → Cells (f k).hbm) : (s.updPkg p f).Canonical :=
  memWf_updPkg h p (hf _ (memWf_pkg h p))

theorem canonical_updPkg_same (h : s.Canonical) (p : Nat) {f : Pkg → Pkg} (hf : ∀ k, (f k).hbm = k.hbm) : (s.updPkg p f).Canonical :=
  canonical_updPkg h p fun k hk => (hf k).symm ▸ hk

theorem canonical_setTag (h : s.Canonical) (p f : Nat) (g : Pkg → Tag) : (s.updPkg p fun k => k.setTag f (g k)).Canonical :=
  canonical_updPkg h p fun _ h => h

theorem canonical_setShare (h : s.Canonical) (sh : Nat) {x : Share} (hx : Cells x.sp) : (s.setShare sh x).Canonical := memWf_setShare h sh hx

theorem canonical_updShare (h : s.Canonical) (sh : Nat) {f : Share → Share} (hf : ∀ x, Cells x.sp → Cells (f x).sp) :
    (s.updShare sh f).Canonical := by
  unfold updShare
  split
  · next x hx => exact canonical_setShare h sh (hf x (cells_share h hx))
  · exact h

theorem canonical_updCore (h : s.Canonical) (c : Nat) (f : Core → Core) : (s.updCore c f).Canonical := h

theorem canonical_setTeam (h : s.Canonical) (tk : Nat) (t : Team) : (s.setTeam tk t).Canonical := h
theorem canonical_setCluster (h : s.Canonical) (cl : Nat) (x : Cluster) : (s.setCluster cl x).Canonical := h
theorem canonical_setGrid (h : s.Canonical) (g : Nat) (x : Grid) : (s.setGrid g x).Canonical := h

theorem canonical_setChange (h : s.Canonical) (ch : Nat) (x : Change) : (s.setChange ch x).Canonical := h
theorem canonical_mapRequests (h : s.Canonical) (f : Request → Request) : (s.mapRequests f).Canonical := h
theorem canonical_dropRequest (h : s.Canonical) (r : Nat) : (s.dropRequest r).Canonical := h
theorem canonical_bump (h : s.Canonical) : s.bump.Canonical := h
theorem canonical_noteWrite (h : s.Canonical) (by_ : Option Nat) (ls : List Loc) : (s.noteWrite by_ ls).Canonical := h
theorem canonical_noteFill (h : s.Canonical) (l : Level) (key : Nat) (mask : BitVec 32) : (s.noteFill l key mask).Canonical := h

theorem canonical_updTeam (h : s.Canonical) (tk : Nat) (f : Team → Team) : (s.updTeam tk f).Canonical := by
  unfold updTeam; split <;> exact h

theorem canonical_updCluster (h : s.Canonical) (cl : Nat) (f : Cluster → Cluster) : (s.updCluster cl f).Canonical := by
  unfold updCluster; split <;> exact h

theorem canonical_updGrid (h : s.Canonical) (g : Nat) (f : Grid → Grid) : (s.updGrid g f).Canonical := by
  unfold updGrid; split <;> exact h

theorem canonical_updRequest (h : s.Canonical) (r : Nat) (f : Request → Request) : (s.updRequest r f).Canonical := by
  unfold updRequest; split <;> exact h

theorem canonical_updChange (h : s.Canonical) (ch : Nat) (f : Change → Change) : (s.updChange ch f).Canonical := by
  unfold updChange; split <;> exact h

/-- A loop over states keeps the form where each round does. -/
theorem canonical_foldl (h : s.Canonical) {β : Type} {f : State → β → State} (hf : ∀ (s : State) (b : β), s.Canonical → (f s b).Canonical)
    (l : List β) : (l.foldl f s).Canonical := memWf_foldl l f hf h

/-- A loop over states with a second component keeps the form where each round does. -/
theorem canonical_foldl_fst {α β : Type} {a : State × α} (h : a.1.Canonical) {f : State × α → β → State × α}
    (hf : ∀ (a : State × α) (b : β), a.1.Canonical → (f a b).1.Canonical) (l : List β) : (l.foldl f a).1.Canonical := by
  induction l generalizing a with
  | nil => exact h
  | cons b l ih => exact ih (hf a b h)

theorem canonical_ite {c : Prop} [Decidable c] {a b : State} (ha : a.Canonical) (hb : b.Canonical) : (if c then a else b).Canonical := by
  split
  · exact ha
  · exact hb

theorem canonical_elim (h : s.Canonical) {α : Type} {f : α → State} (hf : ∀ a, (f a).Canonical) (o : Option α) : (o.elim s f).Canonical := by
  cases o with
  | none => exact h
  | some a => exact hf a

theorem canonical_getD (h : s.Canonical) {o : Option State} (ho : ∀ X, o = some X → X.Canonical) : (o.getD s).Canonical := by
  cases o with
  | none => exact h
  | some X => exact ho X rfl

/-! ## Memory and its errors -/

theorem canonical_setHostBytes (h : s.Canonical) (a : Nat) (bs : List Byte) : (s.setHostBytes a bs).Canonical := memWf_setHostBytes h a bs
theorem canonical_setSpBytes (h : s.Canonical) (sh off : Nat) (bs : List Byte) : (s.setSpBytes sh off bs).Canonical :=
  memWf_setSpBytes h sh off bs

theorem canonical_readGranule (h : s.Canonical) (p frame sector : Nat) : (s.readGranule p frame sector).1.Canonical :=
  memWf_readGranule h p frame sector
theorem canonical_writeGranule (h : s.Canonical) (p frame sector : Nat) (bs : List Byte) (mask : BitVec 32) :
    (s.writeGranule p frame sector bs mask).1.Canonical := memWf_writeGranule h p frame sector bs mask
theorem canonical_poisonGranule (h : s.Canonical) (p frame sector : Nat) : (s.poisonGranule p frame sector).Canonical :=
  memWf_poisonGranule h p frame sector

/-! ## Caches and write-backs -/

theorem canonical_setCache (h : s.Canonical) (l : Level) (x : Cache) : (s.setCache l x).Canonical := memWf_setCache h l x
theorem canonical_mergeDirty (h : s.Canonical) (l : Level) (key : Nat) (bs : List Byte) (mask : BitVec 32) (u : Bool) :
    (s.mergeDirty l key bs mask u).Canonical := memWf_mergeDirty h l key bs mask u
theorem canonical_dropLine (h : s.Canonical) (l : Level) (key : Nat) : (s.dropLine l key).Canonical := memWf_dropLine h l key
theorem canonical_addRequest (h : s.Canonical) (core key : Nat) (mask : BitVec 32) (kind : ReqKind) (w : Issuer)
    (gens : List (List (BitVec 4))) : (s.addRequest core key mask kind w gens).Canonical := h
theorem canonical_post (h : s.Canonical) (p r : Nat) : (s.post p r).Canonical := canonical_updPkg h p fun _ h => h
theorem canonical_postWrite (h : s.Canonical) (core key : Nat) (bs : List Byte) (mask : BitVec 32) (w : Issuer) :
    (s.postWrite core key bs mask w).Canonical := memWf_postWrite h core key bs mask w
theorem canonical_memWrite (h : s.Canonical) (core key : Nat) (bs : List Byte) (mask : BitVec 32) (w : Issuer) :
    (s.memWrite core key bs mask w).Canonical := memWf_memWrite h core key bs mask w
theorem canonical_writeBackOne (h : s.Canonical) (l : Level) (key : Nat) : (s.writeBackOne l key).Canonical := memWf_writeBackOne h l key
theorem canonical_release (h : s.Canonical) (core scope : Nat) : (s.release core scope).Canonical := memWf_release h core scope

theorem canonical_flashClear (h : s.Canonical) (l : Level) (ix : Nat) (g : BitVec 4) : (s.flashClear l ix g).Canonical := by
  unfold flashClear
  exact canonical_foldl h (fun _ _ h => canonical_dropLine (canonical_writeBackOne h _ _) _ _) _
theorem canonical_advance (h : s.Canonical) (l : Level) (ix : Nat) : (s.advance l ix).Canonical := memWf_advance h l ix
theorem canonical_acquire (h : s.Canonical) (core scope : Nat) : (s.acquire core scope).Canonical := memWf_acquire h core scope
theorem canonical_purge (h : s.Canonical) (key : Nat) (ls : List Level) : (s.purge key ls).Canonical := memWf_purge h key ls
theorem canonical_stripPage (h : s.Canonical) (p gpn : Nat) : (s.stripPage p gpn).1.Canonical := memWf_stripPage h p gpn
theorem canonical_askHost (h : s.Canonical) (p kind core : Nat) (a b c : Word) : (s.askHost p kind core a b c).1.Canonical :=
  memWf_askHost h p kind core a b c
theorem canonical_setBar (h : s.Canonical) (by_ : Option Nat) (sh off : Nat) (w : BarWord) : (s.setBar by_ sh off w).Canonical :=
  memWf_setBar h by_ sh off w

/-! ## Pages that leave -/

theorem canonical_crossed (h : s.Canonical) (p q there back : Nat) : (s.crossed p q there back).Canonical := memWf_crossed h p q there back

theorem canonical_landSpoils (h : s.Canonical) (fs : List (Nat × Nat)) (ws : List Spoil) : (s.landSpoils fs ws).Canonical :=
  memWf_landSpoils h fs ws
theorem canonical_unframe (h : s.Canonical) (p f : Nat) : (s.unframe p f).1.Canonical := memWf_unframe h p f
theorem canonical_noteAbsent (h : s.Canonical) (p gpn : Nat) : (s.noteAbsent p gpn).Canonical := memWf_noteAbsent h p gpn
theorem canonical_clearCopies (h : s.Canonical) (gpn master keep : Nat) : (s.clearCopies gpn master keep).1.Canonical :=
  memWf_clearCopies h gpn master keep
theorem canonical_invalidateCopies (h : s.Canonical) (gpn master : Nat) : (s.invalidateCopies gpn master).Canonical :=
  memWf_invalidateCopies h gpn master
theorem canonical_settleSpoils (h : s.Canonical) (p gpn : Nat) (ws : List Spoil) : (s.settleSpoils p gpn ws).Canonical :=
  memWf_settleSpoils h p gpn ws
theorem canonical_purgePage (h : s.Canonical) (p gpn : Nat) : (s.purgePage p gpn).Canonical := memWf_purgePage h p gpn

end State

end Sys2Proof.Machine

/-! PROOFS. Translation, checks, and how words and teams end keep memory's form. -/

namespace Sys2Proof.Machine

open Host

-- proofs that wait for one another's congruence lemmas would each hold a thread
set_option Elab.async false

/-! ## Queues of a package -/

theorem State.canonical_setQueue {s : State} (h : s.Canonical) (p q x) : (s.setQueue p q x).Canonical := by
  unfold State.setQueue
  grind [canonical_updPkg]

theorem State.canonical_updQueue {s : State} (h : s.Canonical) (p q f) : (s.updQueue p q f).Canonical := by
  unfold State.updQueue
  grind [canonical_setQueue]

/-! ## Memory at the SYSTEM point, caches and translation -/

theorem State.canonical_setParish {s : State} (h : s.Canonical) (at_ gpn e) : (s.setParish at_ gpn e).Canonical := by
  unfold State.setParish
  grind [canonical_updPkg]

theorem State.canonical_updParish {s : State} (h : s.Canonical) (at_ gpn f) : (s.updParish at_ gpn f).Canonical := by
  unfold State.updParish
  grind [canonical_setParish]

theorem State.canonical_sysTouch {s : State} (h : s.Canonical) (at_ a n) : (s.sysTouch at_ a n).Canonical := by
  unfold State.sysTouch
  grind [canonical_readGranule, canonical_updPkg, canonical_foldl, Pkg.touch_hbm]

theorem State.canonical_sysRead {s : State} (h : s.Canonical) (at_ a n) : (s.sysRead at_ a n).1.Canonical := by
  unfold State.sysRead
  grind [canonical_sysTouch]

theorem State.canonical_pullMem {s : State} (h : s.Canonical) (p key) {X y} (e : s.pullMem p key = some (X, y)) : X.Canonical := by
  unfold State.pullMem at e
  grind [canonical_readGranule, canonical_updPkg, Pkg.touch_hbm]

theorem State.canonical_fillLevel {s : State} (h : s.Canonical) (l key bytes mask unord) : (s.fillLevel l key bytes mask unord).Canonical := by
  unfold State.fillLevel
  grind [canonical_noteFill, canonical_setCache]

theorem State.canonical_pull {s X : State} (h : s.Canonical) (key mask unord ls p) (e : s.pull key mask unord ls p = some X) : X.Canonical := by
  fun_induction State.pull s key mask unord ls p generalizing X with grind [→ canonical_pullMem, canonical_fillLevel]

theorem State.canonical_prefetch {s : State} (h : s.Canonical) (key unord l outer p) : (s.prefetch key unord l outer p).Canonical := by
  unfold State.prefetch
  grind [→ canonical_pullMem, canonical_fillLevel, canonical_foldl]

theorem State.canonical_walk {s : State} (h : s.Canonical) (p vpage n gpn tidx) : (s.walk p vpage n gpn tidx).1.Canonical := by
  fun_induction State.walk s p vpage n gpn tidx with grind [canonical_sysRead]

theorem State.canonical_ctxLeaf {s : State} (h : s.Canonical) (p ctx va) : (s.ctxLeaf p ctx va).1.Canonical := by
  unfold State.ctxLeaf
  grind [canonical_walk]

theorem State.canonical_ctxPlace {s : State} (h : s.Canonical) (p ctx va) : (s.ctxPlace p ctx va).1.Canonical := by
  unfold State.ctxPlace
  grind [canonical_ctxLeaf]

theorem State.canonical_shadowHot {s : State} (h : s.Canonical) (p ctx gpn) : (s.shadowHot p ctx gpn).1.Canonical := by
  unfold State.shadowHot
  grind [canonical_ctxPlace, canonical_sysRead]

theorem State.canonical_askWalk {s : State} (h : s.Canonical) (core ctx va write fetch_) : (s.askWalk core ctx va write fetch_).1.Canonical := by
  unfold State.askWalk
  grind [canonical_askHost]

theorem State.canonical_noteFail {s : State} (h : s.Canonical) (p who ctx vp c) : (s.noteFail p who ctx vp c).Canonical := by
  unfold State.noteFail
  grind [canonical_updTeam, canonical_updPkg]

theorem State.canonical_asHardware {s : State} {α : Type} (h : s.Canonical) (p who : Nat) (waits : α → Bool) {f : State → State × α}
    (hf : ∀ s : State, s.Canonical → (f s).1.Canonical) : (s.asHardware p who waits f).1.Canonical := by
  have h1 : (f { s with cur := who }).1.Canonical := hf { s with cur := who } h
  have h2 : State.Canonical { (f { s with cur := who }).1 with cur := s.cur } := h1
  unfold State.asHardware
  grind [canonical_updPkg]

theorem State.canonical_translate {s : State} (h : s.Canonical) (core ctx va write fetch_) : (s.translate core ctx va write fetch_).1.Canonical := by
  unfold State.translate
  grind [canonical_updCore, canonical_askWalk, canonical_walk, canonical_shadowHot, canonical_updPkg]

theorem State.canonical_heat {s : State} (h : s.Canonical) (p ctx vpage write) : (s.heat p ctx vpage write).Canonical := by
  unfold State.heat
  grind [canonical_updPkg]

theorem State.canonical_readRange {s : State} (h : s.Canonical) (p gpn off n) : (s.readRange p gpn off n).Canonical := by
  unfold State.readRange
  grind [canonical_readGranule, canonical_foldl]

theorem State.canonical_checkGlobal {s : State} (h : s.Canonical) (core ctx va n write rmw split lockCheck probe) :
    (s.checkGlobal core ctx va n write rmw split lockCheck probe).1.Canonical := by
  unfold State.checkGlobal
  grind [canonical_translate, canonical_readRange, canonical_foldl, canonical_foldl_fst]

/-! ## Kernel headers -/

theorem State.canonical_readRecord {s : State} (h : s.Canonical) (who core ctx va) : (s.readRecord who core ctx va).1.Canonical := by
  unfold State.readRecord
  grind [canonical_asHardware, canonical_checkGlobal, canonical_sysRead]

theorem State.canonical_reeveKernel {s : State} (h : s.Canonical) (core ctx) : (s.reeveKernel core ctx).1.Canonical := by
  unfold State.reeveKernel
  grind [canonical_readRecord]

/-! ## How words and teams end -/

theorem State.canonical_bellArrive {s : State} (h : s.Canonical) (sh b) : (s.bellArrive sh b).Canonical := by
  unfold State.bellArrive
  grind [canonical_updShare]

theorem State.canonical_logEsc {s : State} (h : s.Canonical) (p e) : (s.logEsc p e).Canonical := by
  unfold State.logEsc
  grind [canonical_updPkg, Pkg.setFstat_hbm]

theorem State.canonical_enlist {s : State} (h : s.Canonical) (c x2) : (s.enlist c x2).Canonical := by
  unfold State.enlist
  grind [canonical_updCore, canonical_updPkg, Pkg.setFstat_hbm]

theorem State.canonical_delist {s : State} (h : s.Canonical) (tk) : (s.delist tk).Canonical := by
  unfold State.delist
  grind [canonical_iff]

theorem State.canonical_fillAll {s : State} (h : s.Canonical) (r bytes) : (s.fillAll r bytes).Canonical := by
  unfold State.fillAll
  grind [canonical_iff]

theorem State.canonical_settleStep {s : State} (h : s.Canonical) (tk code) : (s.settleStep tk code).Canonical := by
  unfold State.settleStep
  grind [canonical_fillAll, canonical_updTeam, canonical_updPkg, Pkg.raiseVec_hbm]

theorem State.canonical_dropReg {s : State} (h : s.Canonical) (tk r) : (s.dropReg tk r).Canonical := by
  unfold State.dropReg
  grind [canonical_setBar]

theorem State.canonical_endShare {s : State} (h : s.Canonical) (sh) : (s.endShare sh).Canonical := by
  unfold State.endShare
  grind [canonical_setShare, cells_share]

theorem State.canonical_handBack {s : State} (h : s.Canonical) (tk) : (s.handBack tk).Canonical := by
  unfold State.handBack
  grind [canonical_enlist]

theorem State.canonical_leaveQueues {s : State} (h : s.Canonical) (tk) : (s.leaveQueues tk).Canonical := by
  unfold State.leaveQueues
  split
  · exact h
  · refine canonical_updPkg (canonical_updShare h _ ?_) _ ?_ <;> exact fun _ h => h

theorem State.canonical_endTeam {s : State} (h : s.Canonical) (tk) : (s.endTeam tk).Canonical := by
  unfold State.endTeam
  grind [canonical_release, canonical_dropReg, canonical_handBack, canonical_delist, canonical_settleStep,
    canonical_leaveQueues, canonical_updPkg, canonical_endShare, canonical_foldl, canonical_iff]

theorem State.canonical_reap {s : State} (h : s.Canonical) (tk) : (s.reap tk).Canonical := by
  unfold State.reap
  grind [canonical_endTeam]

theorem State.canonical_kill {s : State} (h : s.Canonical) (tk) : (s.kill tk).Canonical := by
  unfold State.kill
  grind [canonical_updTeam, canonical_endTeam]

theorem State.canonical_killGrid {s : State} (h : s.Canonical) (g) : (s.killGrid g).Canonical := by
  unfold State.killGrid
  grind [canonical_kill, canonical_endShare, canonical_foldl]

theorem State.canonical_escalateReeve {s : State} (h : s.Canonical) (tk kind) : (s.escalateReeve tk kind).Canonical := by
  unfold State.escalateReeve
  grind [canonical_logEsc, canonical_updTeam, canonical_endTeam]

theorem State.canonical_escalateAlone {s : State} (h : s.Canonical) (tk) : (s.escalateAlone tk).Canonical := by
  unfold State.escalateAlone
  grind [canonical_logEsc, canonical_updTeam, canonical_delist, canonical_endTeam]

theorem State.canonical_takeStop {s : State} (h : s.Canonical) (tk) : (s.takeStop tk).Canonical := by
  unfold State.takeStop
  grind [canonical_setTeam, canonical_updPkg, canonical_settleStep, canonical_escalateReeve, canonical_enlist,
    canonical_iff]

theorem State.canonical_freeze {s : State} (h : s.Canonical) (tk rec_) : (s.freeze tk rec_).Canonical := by
  unfold State.freeze
  grind [canonical_takeStop, canonical_setTeam]

theorem State.canonical_abortTry {s : State} (h : s.Canonical) (tk code user) : (s.abortTry tk code user).Canonical := by
  unfold State.abortTry
  grind [canonical_takeStop, canonical_setTeam, canonical_bump]

theorem State.canonical_freezeTeam {s : State} (h : s.Canonical) (tk t x3 c sub ea field) : (s.freezeTeam tk t x3 c sub ea field).Canonical := by
  unfold State.freezeTeam
  grind [canonical_freeze]

theorem State.canonical_settle {s : State} (h : s.Canonical) (tk z) : (s.settle tk z).Canonical := by
  unfold State.settle
  grind [canonical_settleStep, canonical_setTeam]

theorem State.canonical_passWord {s : State} (h : s.Canonical) (tk) : (s.passWord tk).Canonical := by
  unfold State.passWord
  grind [canonical_updTeam]

/-- The form of the state in which a word ends. -/
def Act.Canonical : Act → Prop
  | .retire s | .jump s _ | .freeze s _ _ _ | .fault s _ _ _ _ _ | .park s _ | .abort s _ _ | .ended s | .hold s _ => s.Canonical

theorem Act.canonical_finish {a : Act} (h : a.Canonical) (tk z) : (a.finish tk z).Canonical := by
  unfold Act.finish
  grind [Act.Canonical, State.canonical_settle, State.canonical_passWord, State.canonical_updTeam, State.canonical_abortTry,
    State.canonical_freeze, State.canonical_freezeTeam, State.canonical_settleStep, State.canonical_setTeam, State.canonical_endTeam]

theorem State.canonical_dropPagesAt {s : State} (h : s.Canonical) (core t) : (s.dropPagesAt core t).Canonical := by
  unfold State.dropPagesAt
  grind [canonical_updPkg, canonical_updCore]

theorem State.canonical_dropPages {s : State} (h : s.Canonical) (tk t) : (s.dropPages tk t).Canonical := by
  unfold State.dropPages
  grind [canonical_dropPagesAt]

theorem State.canonical_deliverKept {s : State} (h : s.Canonical) (tk n) : (s.deliverKept tk n).Canonical := by
  fun_induction State.deliverKept s tk n with
    grind [canonical_setTeam, canonical_abortTry, canonical_freeze]

theorem State.canonical_resume {s : State} (h : s.Canonical) (tk skip) : (s.resume tk skip).Canonical := by
  unfold State.resume
  grind [canonical_delist, canonical_setTeam, canonical_bump, canonical_dropPages, canonical_deliverKept,
    canonical_iff]

theorem State.canonical_beginStep {s : State} (h : s.Canonical) (tk who) : (s.beginStep tk who).Canonical := by
  unfold State.beginStep
  grind [canonical_setTeam, canonical_settleStep, canonical_dropPages]

theorem Act.canonical_unstep {a : Act} {s : State} (h : s.Canonical) (ha : a.Canonical) (t) : (a.unstep s t).Canonical := by
  unfold Act.unstep
  grind [Act.Canonical]

/-- A word that issues keeps the form where its body does. -/
theorem canonical_issue {s X : State} (h : s.Canonical) {i hd body} (hb : ∀ t, s.team s.cur = some t → (body s s.cur t).Canonical)
    (e : issue i hd body s = .next X) : X.Canonical := by
  unfold issue at e
  grind [Act.Canonical, Act.canonical_unstep, Act.canonical_finish, State.canonical_freezeTeam, State.canonical_abortTry]

theorem canonical_vec {s : State} (h : s.Canonical) (hd lat f tk t) : (vec hd lat f s tk t).Canonical := h

theorem canonical_vecLong {s : State} (h : s.Canonical) (hd f tk t) : (vecLong hd f s tk t).Canonical := h

theorem canonical_once {s : State} (h : s.Canonical) {hd} {f : State → Nat → Team → Act} {tk t} (hf : (f s tk t).Canonical) :
    (once hd f s tk t).Canonical := by
  unfold once
  split
  · exact hf
  · exact h

theorem canonical_toS {s : State} (h : s.Canonical) (hd lat n f tk t) : (toS hd lat n f s tk t).Canonical :=
  canonical_once h h

end Sys2Proof.Machine

/-! PROOFS. Pages, loads, stores, atomics and copies keep memory's form; one that goes on with a body keeps it where the body does. -/

namespace Sys2Proof.Machine

open Host

-- proofs that wait for one another's congruence lemmas would each hold a thread
set_option Elab.async false

/-! ## Clause headers and fetches -/

theorem State.canonical_copyAcquire {s : State} (h : s.Canonical) (tk t) : (s.copyAcquire tk t).Canonical := by
  unfold State.copyAcquire
  grind [canonical_updTeam, canonical_acquire]

theorem State.canonical_fetch {s : State} (h : s.Canonical) (core ctx va) : (s.fetch core ctx va).1.Canonical := by
  unfold State.fetch
  grind [canonical_translate, canonical_sysRead]

/-! ## Pages and their masters -/

theorem State.canonical_presentRoom {s : State} (h : s.Canonical) (p gpn) : (s.presentRoom p gpn).1.Canonical :=
  (s.lays_presentRoom p gpn).2 h

theorem State.canonical_notePresent {s : State} (h : s.Canonical) (p gpn master) : (s.notePresent p gpn master).Canonical :=
  (s.lays_notePresent p gpn master).2 h

theorem State.canonical_setMaster {s : State} (h : s.Canonical) (p gpn) : (s.setMaster p gpn).Canonical := by
  unfold State.setMaster
  grind [canonical_updParish, canonical_updPkg, canonical_notePresent, canonical_foldl]

theorem State.canonical_dropReplica {s : State} (h : s.Canonical) (p f) : (s.dropReplica p f).Canonical :=
  (s.lays_dropReplica p f).2 h

theorem State.canonical_takeWay {s : State} (h : s.Canonical) (p f tag) : (s.takeWay p f tag).Canonical :=
  (s.lays_takeWay p f tag).2 h

theorem State.canonical_makeTwin {s : State} (h : s.Canonical) (p f gpn) : (s.makeTwin p f gpn).Canonical :=
  (s.lays_makeTwin p f gpn).2 h

theorem State.canonical_createPage {s : State} (h : s.Canonical) (p f gpn twin) : (s.createPage p f gpn twin).1.Canonical :=
  (s.lays_createPage p f gpn twin).2 h

theorem State.canonical_learnLost {s : State} (h : s.Canonical) (p gpn note) : (s.learnLost p gpn note).Canonical :=
  (s.lays_learnLost p gpn note).2 h

theorem State.canonical_lowerRef {s : State} (h : s.Canonical) (at_ gpn) : (s.lowerRef at_ gpn).Canonical :=
  (s.lays_lowerRef at_ gpn).2 h

theorem State.canonical_withdraw {s : State} (h : s.Canonical) (x) : (s.withdraw x).Canonical := by
  unfold State.withdraw
  refine canonical_foldl h (fun s p h => ?_) _
  refine canonical_foldl (canonical_updPkg h p ?_) (fun s f h => ?_) _
  · exact fun _ h => h
  · split
    · exact h
    · apply canonical_purgePage
      exact canonical_setTag h _ _ _

theorem State.canonical_masterWrite {s : State} (h : s.Canonical) (q gpn sec bytes mask) : (s.masterWrite q gpn sec bytes mask).1.Canonical :=
  (s.lays_masterWrite q gpn sec bytes mask).2 h

/-! ## Loads and stores -/

theorem State.canonical_checkLanes {s : State} (h : s.Canonical) (tk t lanes ea n write rmw split lockCheck probe) :
    (s.checkLanes tk t lanes ea n write rmw split lockCheck probe).1.Canonical := by
  unfold State.checkLanes
  grind [canonical_checkGlobal, canonical_foldl, canonical_foldl_fst]

theorem canonical_releaseThen {s : State} (h : s.Canonical) (tk t scope) {go : State → Act} (hg : ∀ s : State, s.Canonical → (go s).Canonical) :
    (releaseThen s tk t scope go).Canonical := by
  unfold releaseThen
  grind [Act.Canonical, State.canonical_release, State.canonical_setTeam]

theorem State.canonical_acquireIf {s : State} (h : s.Canonical) (core scope b) : (s.acquireIf core scope b).Canonical := by
  unfold State.acquireIf
  grind [canonical_acquire]

theorem State.canonical_readSector {s : State} (h : s.Canonical) (core key mask scope unord) :
    (s.readSector core key mask scope unord).1.Canonical := by
  unfold State.readSector
  grind [canonical_purge, → canonical_pullMem, → canonical_pull]

theorem State.canonical_writeSector {s : State} (h : s.Canonical) (core key bytes mask scope unord w) :
    (s.writeSector core key bytes mask scope unord w).Canonical := by
  unfold State.writeSector
  grind [canonical_purge, canonical_memWrite, canonical_mergeDirty]

theorem State.canonical_readWants {s : State} (h : s.Canonical) (core serial ws) : (s.readWants core serial ws).1.Canonical := by
  unfold State.readWants
  grind [canonical_readSector, canonical_foldl, canonical_foldl_fst]

theorem State.canonical_requestMissing {s : State} (h : s.Canonical) (tk t kind gens gs) : (s.requestMissing tk t kind gens gs).1.Canonical := by
  unfold State.requestMissing
  grind [canonical_addRequest, canonical_foldl, canonical_foldl_fst]

theorem canonical_tryTouch {s : State} (h : s.Canonical) (tk t ls) {go : State → Team → Act}
    (hg : ∀ (s : State) (t : Team), s.Canonical → (go s t).Canonical) : (tryTouch s tk t ls go).Canonical := by
  unfold tryTouch
  grind [Act.Canonical, State.canonical_setTeam]

/-! ## Loads and stores -/

theorem canonical_tryStore {s : State} (h : s.Canonical) (tk t ws ea) : (tryStore s tk t ws ea).Canonical := by
  unfold tryStore
  grind [Act.Canonical, State.canonical_setTeam, State.canonical_foldl]

theorem canonical_loadGlobal {s : State} (h : s.Canonical) (tk t ls ord scope) {go : State → Team → (Nat → List Src) → State}
    (hg : ∀ (s : State) t b, s.Canonical → (go s t b).Canonical) : (loadGlobal s tk t ls ord scope go).Canonical := by
  unfold loadGlobal
  grind [Act.Canonical, canonical_tryTouch, State.canonical_acquireIf, State.canonical_readWants, State.canonical_requestMissing,
    State.canonical_acquire, canonical_releaseThen]

theorem State.canonical_performStores {s : State} (h : s.Canonical) (tk t ws ea scope) : (s.performStores tk t ws ea scope).Canonical := by
  unfold State.performStores
  grind [canonical_writeSector, canonical_noteWrite, canonical_foldl]

theorem canonical_storeGlobal {s : State} (h : s.Canonical) (tk t ls ord scope data) : (storeGlobal s tk t ls ord scope data).Canonical := by
  unfold storeGlobal
  grind [Act.Canonical, canonical_tryStore, State.canonical_performStores, State.canonical_acquire, canonical_releaseThen]

/-! ## Global accesses -/

theorem canonical_checked {s : State} (h : s.Canonical) (r) {go : List (Nat × Word × List Piece) → Act} (hg : ∀ ls, (go ls).Canonical) :
    (checked s r go).Canonical := by
  unfold checked
  grind [Act.Canonical]

theorem canonical_checkUniform {s : State} (h : s.Canonical) (hd tk t ea n write split) {go : State → List Piece → Act}
    (hg : ∀ (s : State) ps, s.Canonical → (go s ps).Canonical) : (checkUniform s hd tk t ea n write split go).Canonical := by
  unfold checkUniform
  grind [Act.Canonical, State.canonical_checkGlobal]

theorem canonical_cctl {s : State} (h : s.Canonical) (hd f write lockCheck tk t) {act : State → Nat → List Level → State}
    (ha : ∀ (s : State) key ls, s.Canonical → (act s key ls).Canonical) : (cctl hd f write lockCheck act s tk t).Canonical := by
  unfold cctl
  grind [Act.Canonical, State.canonical_checkLanes, State.canonical_foldl]

theorem State.canonical_wbSector {s : State} (h : s.Canonical) (key ls) : (s.wbSector key ls).Canonical := by
  unfold State.wbSector
  grind [canonical_writeBackOne, canonical_foldl]

theorem State.canonical_discardSector {s : State} (h : s.Canonical) (key ls) : (s.discardSector key ls).Canonical := by
  unfold State.discardSector
  grind [canonical_dropLine, canonical_updPkg, canonical_foldl]

/-! ## Atomics -/

theorem State.canonical_atomicHere {s : State} (h : s.Canonical) (core key ops) {X y} (e : s.atomicHere core key ops = some (X, y)) :
    X.Canonical := by
  unfold State.atomicHere at e
  grind [canonical_setHostBytes, canonical_updPkg, canonical_writeGranule, Pkg.touch_hbm]

theorem canonical_atomicGlobal {s : State} (h : s.Canonical) (x0 f op ret tk t) : (atomicGlobal x0 f op ret s tk t).Canonical := by
  unfold atomicGlobal
  grind [Act.Canonical, State.canonical_checkLanes, canonical_checked, State.canonical_acquireIf, State.canonical_purge,
    → State.canonical_atomicHere, State.canonical_noteWrite, State.canonical_post, State.canonical_addRequest, State.canonical_updTeam,
    State.canonical_acquire, canonical_releaseThen, State.canonical_foldl, State.canonical_foldl_fst]

theorem canonical_atomicSp {s : State} (h : s.Canonical) (x0 f op ret tk t) : (atomicSp x0 f op ret s tk t).Canonical := by
  unfold atomicSp
  grind [Act.Canonical, State.canonical_setSpBytes, State.canonical_noteWrite, State.canonical_updTeam, State.canonical_acquireIf,
    canonical_releaseThen, State.canonical_foldl, State.canonical_foldl_fst]

/-! ## Copies -/

theorem State.canonical_pagesOf {s : State} (h : s.Canonical) (core ctx va n write) : (s.pagesOf core ctx va n write).1.Canonical := by
  unfold State.pagesOf
  grind [canonical_translate, canonical_foldl, canonical_foldl_fst]

theorem State.canonical_checkRanges {s : State} (h : s.Canonical) (core ctx rs) : (s.checkRanges core ctx rs).1.Canonical := by
  unfold State.checkRanges
  grind [canonical_pagesOf, canonical_foldl, canonical_foldl_fst]

theorem State.canonical_updXfer {s : State} (h : s.Canonical) (x f) : (s.updXfer x f).Canonical := by
  unfold State.updXfer
  grind [canonical_iff]

theorem State.canonical_raiseStatus {s : State} (h : s.Canonical) (x n) : (s.raiseStatus x n).Canonical := by
  unfold State.raiseStatus
  grind [canonical_updXfer]

theorem State.canonical_xferSector {s : State} (h : s.Canonical) (x e key mask) : (s.xferSector x e key mask).1.Canonical := by
  unfold State.xferSector
  grind [canonical_readGranule, canonical_raiseStatus, canonical_addRequest, canonical_readSector]

theorem State.canonical_readSource {s : State} (h : s.Canonical) (x e now sp) : (s.readSource x e now sp).Canonical := by
  unfold State.readSource
  grind [canonical_xferSector, canonical_updXfer, canonical_foldl, canonical_foldl_fst]

theorem State.canonical_placeReads {s : State} (h : s.Canonical) (x) : (s.placeReads x).Canonical := by
  unfold State.placeReads
  grind [canonical_readSource]

theorem canonical_register {s : State} (h : s.Canonical) (tk t x src dst) : (register s tk t x src dst).Canonical := by
  unfold register
  grind [Act.Canonical, State.canonical_updCore, State.canonical_bump, State.canonical_updTeam, State.canonical_placeReads, State.canonical_foldl,
    State.canonical_iff]

theorem canonical_emptyXfer {s : State} (h : s.Canonical) (tk t bell) : (emptyXfer s tk t bell).Canonical := by
  unfold emptyXfer
  grind [Act.Canonical, State.canonical_updTeam, State.canonical_bellArrive]

theorem State.canonical_readSectorFor {s : State} (h : s.Canonical) (core t scope key mask) :
    (s.readSectorFor core t scope key mask).1.Canonical := by
  unfold State.readSectorFor
  grind [canonical_readSector]

theorem State.canonical_readNow {s : State} (h : s.Canonical) (core t scope a n) : (s.readNow core t scope a n).1.Canonical := by
  unfold State.readNow
  grind [canonical_readSectorFor, canonical_foldl, canonical_foldl_fst]

theorem canonical_bring {s : State} (h : s.Canonical) (x1 tk t va l scope a n keys) : (bring s x1 tk t va l scope a n keys).Canonical := by
  unfold bring
  grind [Act.Canonical, State.canonical_addRequest, State.canonical_foldl, State.canonical_foldl_fst]

theorem canonical_readChecked {s : State} (h : s.Canonical) (hd tk t va n write lockCheck) {go : State → Nat → List Byte → Act}
    (hg : ∀ (s : State) a bs, s.Canonical → (go s a bs).Canonical) : (readChecked s hd tk t va n write lockCheck go).Canonical := by
  unfold readChecked
  grind [Act.Canonical, State.canonical_checkGlobal, State.canonical_readNow, State.canonical_acquire, State.canonical_acquireIf, canonical_bring,
    canonical_releaseThen]

theorem canonical_gatherScatter {s : State} (h : s.Canonical) (x0 f gath tk t) : (gatherScatter x0 f gath s tk t).Canonical := by
  unfold gatherScatter
  grind [Act.Canonical, State.canonical_checkGlobal, canonical_emptyXfer, canonical_register, State.canonical_foldl, State.canonical_foldl_fst]

end Sys2Proof.Machine

/-! PROOFS. Transfers, requests, moves of pages, residency maps, streams and barriers keep memory's form. -/

namespace Sys2Proof.Machine

open Host

-- proofs that wait for one another's congruence lemmas would each hold a thread
set_option Elab.async false

/-! ## Copies -/

theorem State.canonical_updTeamOf {s : State} (h : s.Canonical) (p serial f) : (s.updTeamOf p serial f).Canonical := by
  unfold State.updTeamOf
  grind [canonical_iff]

theorem State.canonical_beginXfer {s : State} (h : s.Canonical) (x e) : (s.beginXfer x e).Canonical := by
  unfold State.beginXfer
  grind [canonical_updXfer, canonical_readSource]

theorem State.canonical_xferWrite {s : State} (h : s.Canonical) (x e key bytes mask taint) : (s.xferWrite x e key bytes mask taint).Canonical := by
  unfold State.xferWrite
  grind [canonical_poisonGranule, canonical_writeGranule, canonical_raiseStatus, canonical_learnLost,
    canonical_writeSector, canonical_memWrite, canonical_purge]

theorem State.canonical_xferPerform {s : State} (h : s.Canonical) (x e got) : (s.xferPerform x e got).Canonical := by
  unfold State.xferPerform
  grind [canonical_setSpBytes, canonical_xferWrite, canonical_updXfer, canonical_noteWrite, canonical_foldl]

theorem State.canonical_xferEnd {s : State} (h : s.Canonical) (x e) : (s.xferEnd x e).Canonical := by
  unfold State.xferEnd
  grind [canonical_withdraw, canonical_bellArrive, canonical_updTeamOf, canonical_iff]

/-! ## Requests, packets and moves of pages -/

theorem State.canonical_send {s : State} (h : s.Canonical) (src dst key kind) : (s.send src dst key kind).Canonical := by
  unfold State.send
  grind [canonical_updPkg, canonical_bump, canonical_iff]

theorem State.canonical_receive {s : State} (h : s.Canonical) (k) {go : State → Packet → Option State}
    (hg : ∀ (s X : State) x, s.Canonical → go s x = some X → X.Canonical) : (s.receive k go).Canonical := by
  unfold State.receive
  split
  · exact h
  · next x hx =>
    split
    · exact h
    · extract_lets s'
      have h' : s'.Canonical := canonical_updPkg (s := { s with packets := erase s.packets k }) h _ fun _ h => h
      rcases hr : go s' x with _ | X
      · exact h
      · exact hg s' X x h' hr

theorem State.canonical_unhold {s : State} (h : s.Canonical) (p r) : (s.unhold p r).Canonical := by
  unfold State.unhold
  grind [canonical_updPkg]

theorem State.canonical_releaseSet {s : State} (h : s.Canonical) (p set) : (s.releaseSet p set).Canonical := by
  unfold State.releaseSet
  grind [canonical_updRequest, canonical_unhold, canonical_foldl]

theorem State.canonical_dropWaiting {s : State} (h : s.Canonical) (r) : (s.dropWaiting r).Canonical := by
  unfold State.dropWaiting
  grind [canonical_releaseSet, canonical_iff]

theorem State.canonical_ackPosted {s : State} (h : s.Canonical) (p r) : (s.ackPosted p r).Canonical := by
  unfold State.ackPosted
  grind [canonical_updPkg]

theorem State.canonical_unqueue {s : State} (h : s.Canonical) (r q) : (s.unqueue r q).Canonical := by
  unfold State.unqueue
  grind [canonical_unhold, canonical_updPkg]

theorem State.canonical_updWin {s : State} (h : s.Canonical) (w f) : (s.updWin w f).Canonical := by
  unfold State.updWin
  grind [canonical_iff]

theorem State.canonical_winDone {s : State} (h : s.Canonical) (w) : (s.winDone w).Canonical := by
  unfold State.winDone
  grind [canonical_iff]

theorem State.canonical_closeReq {s : State} (h : s.Canonical) (r) : (s.closeReq r).Canonical := by
  unfold State.closeReq
  grind [canonical_ackPosted, canonical_dropRequest, canonical_dropWaiting, canonical_unqueue, canonical_updPkg,
    canonical_winDone]

theorem State.canonical_bringTo {s : State} (h : s.Canonical) (r q bytes) : (s.bringTo r q bytes).Canonical := by
  unfold State.bringTo
  grind [canonical_updTeamOf]

theorem State.canonical_xferFailed {s : State} (h : s.Canonical) (x r q reason) : (s.xferFailed x r q reason).Canonical := by
  unfold State.xferFailed
  grind [canonical_updXfer]

theorem State.canonical_xferGot {s : State} (h : s.Canonical) (x r bytes) : (s.xferGot x r bytes).Canonical := by
  unfold State.xferGot
  grind [canonical_updXfer]

theorem State.canonical_takeStops {s : State} (h : s.Canonical) (p serial) : (s.takeStops p serial).Canonical := by
  unfold State.takeStops
  grind [canonical_takeStop, canonical_foldl]

theorem State.canonical_failReq {s : State} (h : s.Canonical) (r reason) : (s.failReq r reason).Canonical := by
  unfold State.failReq
  split
  · exact h
  · extract_lets s1 told s2 s3 s4
    have h1 : s1.Canonical := by grind [canonical_updPkg, Pkg.missedRoute_hbm]
    clear_value s1
    have h2 : s2.Canonical := by grind [canonical_xferFailed, canonical_bringTo]
    clear_value s2
    have h3 : s3.Canonical := by grind [canonical_updWin]
    clear_value s3
    have h4 : s4.Canonical := by grind [canonical_iff]
    exact canonical_takeStops (canonical_closeReq h4 _) _ _

theorem State.canonical_install {s : State} (h : s.Canonical) (q bytes mask) : (s.install q bytes mask).Canonical := by
  unfold State.install
  grind [canonical_setCache, canonical_foldl, canonical_foldl_fst]

theorem State.canonical_finishRead {s : State} (h : s.Canonical) (r bytes mask) : (s.finishRead r bytes mask).Canonical := by
  unfold State.finishRead
  grind [canonical_xferGot, canonical_bringTo, canonical_updWin, canonical_closeReq, canonical_install,
    canonical_fillAll]

theorem State.canonical_finishAtomic {s : State} (h : s.Canonical) (r vals) : (s.finishAtomic r vals).Canonical := by
  unfold State.finishAtomic
  grind [canonical_closeReq, canonical_fillAll]

theorem State.canonical_answer {s : State} (h : s.Canonical) (holder q kind) {here : State → State} (hh : (here s).Canonical) :
    (s.answer holder q kind here).Canonical := by
  unfold State.answer
  grind [canonical_send]

theorem State.canonical_soleMaster {s : State} (h : s.Canonical) (p gpn) : (s.soleMaster p gpn).Canonical := by
  unfold State.soleMaster
  grind [canonical_invalidateCopies]

theorem State.canonical_unheard {s : State} (h : s.Canonical) (r x2) : (s.unheard r x2).Canonical := by
  unfold State.unheard
  grind [canonical_updRequest]

theorem State.canonical_taintMasters {s : State} (h : s.Canonical) (p gpn sec) : (s.taintMasters p gpn sec).Canonical := by
  unfold State.taintMasters
  grind [canonical_poisonGranule, canonical_foldl]

theorem State.canonical_noteWin {s : State} (h : s.Canonical) (q) : (s.noteWin q).Canonical := by
  unfold State.noteWin
  grind [canonical_noteWrite]

theorem State.canonical_twinWrite {s X : State} (h : s.Canonical) (p r q) {go : Unit → State} (hg : (go ()).Canonical)
    (e : s.twinWrite p r q go = some X) : X.Canonical := by
  unfold State.twinWrite at e
  grind [canonical_failReq, canonical_unheard, canonical_updRequest]

theorem State.canonical_serveAt {s : State} (h : s.Canonical) (p r) {X} (e : s.serveAt p r = some X) : X.Canonical := by
  unfold State.serveAt at e
  split at e
  · grind
  · next q hq =>
    split at e
    · grind
    · next f hf =>
      extract_lets s1 st s2 drains read owns write at e
      have h1 : s1.Canonical := by grind [canonical_soleMaster]
      clear_value s1
      have h2 : s2.Canonical := by grind [canonical_updPkg, Pkg.touch_hbm]
      clear_value s2
      have hread : ∀ X, read () = some X → X.Canonical := by
        grind [canonical_readGranule, canonical_answer, canonical_failReq, canonical_finishRead]
      have hwrite : ∀ (go : Unit → State) X, (go ()).Canonical → write go = some X → X.Canonical := by
        grind [→ canonical_twinWrite]
      clear_value read write
      split at e
      · exact hread X e
      · exact hread X e
      · grind [canonical_closeReq]
      · refine hwrite _ X ?_ e
        grind [canonical_answer, canonical_failReq, canonical_closeReq, canonical_poisonGranule, canonical_taintMasters,
          canonical_writeGranule, canonical_masterWrite, canonical_noteWin]
      · refine hwrite _ X ?_ e
        grind [canonical_answer, canonical_failReq, canonical_readGranule, canonical_masterWrite, canonical_noteWrite,
          canonical_finishAtomic]

theorem State.canonical_startInval {s : State} (h : s.Canonical) (p gpn) : (s.startInval p gpn).Canonical := by
  unfold State.startInval
  grind [canonical_send, canonical_foldl]

theorem State.canonical_hold {s : State} (h : s.Canonical) (p r landed) : (s.hold p r landed).1.Canonical := by
  unfold State.hold
  grind [canonical_updPkg, canonical_bump, canonical_updRequest, Pkg.setAstat_hbm, Pkg.count_hbm]

theorem State.canonical_holdWrite {s : State} (h : s.Canonical) (p r gpn landed) : (s.holdWrite p r gpn landed).1.Canonical := by
  unfold State.holdWrite
  grind [canonical_hold, canonical_startInval]

theorem State.canonical_releaseAt {s : State} (h : s.Canonical) (p gpn) : (s.releaseAt p gpn).Canonical := by
  unfold State.releaseAt
  grind [canonical_unhold, → canonical_serveAt, canonical_startInval, canonical_updRequest, canonical_foldl]

theorem State.canonical_releasePage {s : State} (h : s.Canonical) (gpn) : (s.releasePage gpn).Canonical := by
  unfold State.releasePage
  grind [canonical_releaseAt, canonical_foldl]

theorem State.canonical_patrol {s : State} (h : s.Canonical) (p f) : (s.patrol p f).Canonical := by
  unfold State.patrol
  grind [canonical_readGranule, canonical_foldl]

theorem Pkg.cells_foldl {k : Pkg} (h : Cells k.hbm) {β : Type} {f : Pkg → β → Pkg} (hf : ∀ k b, Cells k.hbm → Cells (f k b).hbm) (l : List β) :
    Cells (l.foldl f k).hbm := by
  induction l generalizing k with
  | nil => exact h
  | cons b l ih => exact ih (hf k b h)

theorem State.canonical_copyFrame {s : State} (h : s.Canonical) (src f dst g) : (s.copyFrame src f dst g).Canonical := by
  unfold State.copyFrame
  refine canonical_updPkg (canonical_patrol h _ _) _ fun k hk => ?_
  exact Pkg.cells_foldl (Pkg.cells_zeroFrame hk g) (fun k c hk => Pkg.wf_setByte hk _ _ _) _

theorem State.canonical_spillWrite {s : State} (h : s.Canonical) (x sec bytes mask) : (s.spillWrite x sec bytes mask).1.Canonical :=
  (s.lays_spillWrite x sec bytes mask).2 h

theorem State.canonical_unspill {s : State} (h : s.Canonical) (gpn dst g) : (s.unspill gpn dst g).Canonical := by
  unfold State.unspill
  grind [canonical_updPkg, canonical_foldl, Pkg.cells_setBytes, Pkg.cells_zeroFrame]

theorem State.canonical_crossedPage {s : State} (h : s.Canonical) (src dst) : (s.crossedPage src dst).Canonical := by
  unfold State.crossedPage
  grind [canonical_crossed]

theorem State.canonical_twinUp {s : State} (h : s.Canonical) (p f gpn) : (s.twinUp p f gpn).Canonical := by
  unfold State.twinUp
  grind [canonical_makeTwin, canonical_crossedPage, canonical_copyFrame]

theorem State.canonical_leave {s : State} (h : s.Canonical) (gpn src dst) : (s.leave gpn src dst).Canonical := by
  unfold State.leave
  grind [canonical_clearCopies, canonical_stripPage, canonical_updPkg, canonical_landSpoils, Pkg.setTag_hbm]

theorem State.canonical_gone {s : State} (h : s.Canonical) (p gpn) : (s.gone p gpn).Canonical := by
  unfold State.gone
  grind [canonical_noteAbsent, canonical_updParish]

theorem State.canonical_arrive {s : State} (h : s.Canonical) (gpn src dst g) : (s.arrive gpn src dst g).Canonical := by
  unfold State.arrive
  grind [canonical_unspill, canonical_copyFrame, canonical_updPkg, canonical_notePresent, canonical_updParish,
    canonical_setMaster, canonical_gone, canonical_twinUp, Pkg.setTag_hbm, Pkg.touch_hbm]

theorem State.canonical_unbusy {s : State} (h : s.Canonical) (p gpn) : (s.unbusy p gpn).Canonical := by
  unfold State.unbusy
  grind [canonical_releasePage, canonical_updParish]

theorem State.canonical_lodgeIn {s : State} (h : s.Canonical) (src n gpn g) : (s.lodgeIn src n gpn g).Canonical := by
  unfold State.lodgeIn
  extract_lets s1 s2 s3
  have h1 : s1.Canonical := canonical_updPkg h _ fun _ h => h
  clear_value s1
  have h3 : s3.Canonical := by grind [canonical_leave, canonical_takeWay]
  clear_value s3
  grind [canonical_arrive, canonical_updPkg, Pkg.count_hbm]

theorem State.canonical_moveNow {s : State} (h : s.Canonical) (gpn src dst) : (s.moveNow gpn src dst).1.Canonical := by
  unfold State.moveNow
  grind [canonical_leave, canonical_releasePage, canonical_arrive, canonical_takeWay, canonical_crossedPage]

theorem State.canonical_sysWrite {s : State} (h : s.Canonical) (p key bytes mask) : (s.sysWrite p key bytes mask).1.Canonical :=
  (s.lays_sysWrite p key bytes mask).2 h

theorem State.canonical_sysWriteBytes {s : State} (h : s.Canonical) (p a bs) : (s.sysWriteBytes p a bs).1.Canonical := by
  unfold State.sysWriteBytes
  grind [canonical_sysWrite, canonical_noteWrite, canonical_foldl, canonical_foldl_fst]

theorem State.canonical_dropRange {s : State} (h : s.Canonical) (ls a n) : (s.dropRange ls a n).Canonical := by
  unfold State.dropRange
  grind [canonical_purge, canonical_foldl]

/-! ## Residency maps -/

theorem State.canonical_checkMaps {s : State} (h : s.Canonical) (tk t vas write) : (s.checkMaps tk t vas write).1.Canonical := by
  unfold State.checkMaps
  grind [canonical_checkGlobal, canonical_foldl, canonical_foldl_fst]

theorem State.canonical_settleMap {s : State} (h : s.Canonical) (tk as) : (s.settleMap tk as).1.Canonical := by
  unfold State.settleMap
  grind [canonical_writeBackOne, canonical_foldl, canonical_foldl_fst]

theorem canonical_withMaps {s : State} (h : s.Canonical) (hd tk t vas write) {go : State → List Nat → Act}
    (hg : ∀ (s : State) as, s.Canonical → (go s as).Canonical) : (withMaps s hd tk t vas write go).Canonical := by
  unfold withMaps
  grind [Act.Canonical, State.canonical_checkMaps, State.canonical_settleMap, canonical_bring]

theorem canonical_span {s : State} (h : s.Canonical) (hd f write tk t) {go : State → Nat → Team → Word → Nat → Nat → Act}
    (hg : ∀ (s : State) m a x, s.Canonical → (go s tk t m a x).Canonical) : (span hd f write go s tk t).Canonical := by
  unfold span
  exact canonical_withMaps h _ _ _ _ _ fun _ _ h => canonical_releaseThen h _ _ _ fun s h => hg s _ _ _ h

theorem State.canonical_dropRecords {s : State} (h : s.Canonical) (core scope as) : (s.dropRecords core scope as).Canonical := by
  unfold State.dropRecords
  grind [canonical_dropLine, canonical_foldl]

theorem canonical_spanDone {s : State} (h : s.Canonical) (tk f ws res) : (spanDone s tk f ws res).Canonical := by
  unfold spanDone
  grind [Act.Canonical, State.canonical_sysWriteBytes, State.canonical_dropRecords, State.canonical_updTeam, State.canonical_acquire,
    State.canonical_foldl]

theorem canonical_withBlocks {s : State} (h : s.Canonical) (hd tk t m bs write) {go : State → List (Nat × Nat × Nat) → Act}
    (hg : ∀ (s : State) es, s.Canonical → (go s es).Canonical) : (withBlocks s hd tk t m bs write go).Canonical :=
  canonical_withMaps h _ _ _ _ _ fun s _ h => hg s _ h

/-! ## Streams -/

theorem State.canonical_updStream {s : State} (h : s.Canonical) (sh f) : (s.updStream sh f).Canonical := by
  unfold State.updStream
  grind [canonical_updShare]

theorem State.canonical_killStream {s : State} (h : s.Canonical) (sh) : (s.killStream sh).Canonical := by
  unfold State.killStream
  grind [canonical_endShare, canonical_updStream]

theorem State.canonical_logStream {s : State} (h : s.Canonical) (sh c sub) : (s.logStream sh c sub).Canonical := by
  unfold State.logStream
  grind [canonical_updStream, canonical_updPkg, canonical_logEsc, Pkg.setFstat_hbm]

theorem State.canonical_haltStream {s : State} (h : s.Canonical) (sh c sub) : (s.haltStream sh c sub).Canonical := by
  unfold State.haltStream
  grind [canonical_logStream, canonical_updStream, canonical_killGrid, canonical_killStream]

theorem State.canonical_setBlock {s : State} (h : s.Canonical) (c f b) : (s.setBlock c f b).Canonical := by
  unfold State.setBlock
  grind [canonical_updStream]

theorem State.canonical_startWakes {s : State} (h : s.Canonical) (c xs) : (s.startWakes c xs).Canonical := by
  unfold State.startWakes
  grind [canonical_updCore, canonical_updStream, canonical_foldl]

theorem State.canonical_pressWrite {s : State} (h : s.Canonical) (sh off bs) : (s.pressWrite sh off bs).Canonical := by
  unfold State.pressWrite
  grind [canonical_noteWrite, canonical_setSpBytes]

theorem State.canonical_storeElem {s : State} (h : s.Canonical) (sh base n f x) : (s.storeElem sh base n f x).Canonical := by
  unfold State.storeElem
  grind [canonical_pressWrite]

theorem State.canonical_setPlanes {s : State} (h : s.Canonical) (sh base f e x) : (s.setPlanes sh base f e x).Canonical := by
  unfold State.setPlanes
  grind [canonical_pressWrite, canonical_foldl]

/-! ## Barriers, bells and rings -/

theorem canonical_stopWith {s : State} (h : s.Canonical) (x1 sub) : (stopWith s x1 sub).Canonical := by
  unfold stopWith
  grind [Act.Canonical]

theorem canonical_atBarrier {s : State} (h : s.Canonical) (hd t f) {go : Nat → Nat → Act} (hg : ∀ sh off, (go sh off).Canonical) :
    (atBarrier s hd t f go).Canonical := by
  unfold atBarrier
  grind [Act.Canonical]

theorem State.canonical_arriveFor {s : State} (h : s.Canonical) (tk sh off) : (s.arriveFor tk sh off).Canonical := by
  unfold State.arriveFor
  grind [canonical_setBar, canonical_updTeam]

theorem State.canonical_dropFor {s : State} (h : s.Canonical) (tk sh off) : (s.dropFor tk sh off).Canonical := by
  unfold State.dropFor
  grind [canonical_setBar, canonical_updTeam]

end Sys2Proof.Machine

/-! PROOFS. Reeves, the directory, the fabric, losses and launches keep memory's form. -/

namespace Sys2Proof.Machine

open Host

-- proofs that wait for one another's congruence lemmas would each hold a thread
set_option Elab.async false

/-! ## Barriers, bells and rings -/

theorem canonical_barrierWait {s : State} (h : s.Canonical) (x1 tk t sh off scope) : (barrierWait s x1 tk t sh off scope).Canonical := by
  unfold barrierWait
  grind [Act.Canonical, canonical_stopWith, State.canonical_setTeam, State.canonical_acquire]

theorem canonical_atWait {s : State} (h : s.Canonical) (hd t f) {go : Nat → Nat → Act} (hg : ∀ sh off, (go sh off).Canonical) :
    (atWait s hd t f go).Canonical := by
  unfold atWait
  grind [canonical_atBarrier]

theorem State.canonical_setRing {s : State} (h : s.Canonical) (sh r g) : (s.setRing sh r g).Canonical := by
  unfold State.setRing
  grind [canonical_updShare]

/-! ## Try regions -/

theorem State.canonical_performBuffer {s : State} (h : s.Canonical) (tk t buf scope) : (s.performBuffer tk t buf scope).Canonical := by
  unfold State.performBuffer
  grind [canonical_setSpBytes, canonical_noteWrite, canonical_performStores, canonical_foldl]

/-! ## Reeves -/

theorem canonical_badHandle {s : State} (h : s.Canonical) (x1) : (badHandle s x1).Canonical := by
  unfold badHandle
  grind [Act.Canonical]

theorem canonical_onFrozen {s : State} (h : s.Canonical) (hd f tk t) {go : State → Nat → Team → Nat → Team → Act}
    (hg : ∀ k ft, (go s tk t k ft).Canonical) : (onFrozen hd f go s tk t).Canonical := by
  unfold onFrozen badHandle
  refine canonical_once h ?_
  grind [Act.Canonical]

theorem canonical_behindWrites {s : State} (h : s.Canonical) (tk t) {go : Act} (hg : go.Canonical) : (behindWrites s tk t go).Canonical := by
  unfold behindWrites
  grind [Act.Canonical]

theorem State.canonical_setAccElem {s : State} (h : s.Canonical) (sh b key x) : (s.setAccElem sh b key x).Canonical := by
  unfold State.setAccElem
  grind [canonical_updShare]

/-! ## Accumulators -/

theorem State.canonical_updAcc {s : State} (h : s.Canonical) (t f g) : (s.updAcc t f g).Canonical := by
  unfold State.updAcc
  grind [canonical_updStream]

theorem canonical_accChecked {s : State} (h : s.Canonical) (hd f step t) {go : List Nat → Act} (hg : ∀ ls, (go ls).Canonical) :
    (accChecked hd f step s t go).Canonical := by
  unfold accChecked
  grind [Act.Canonical]

/-! ## The directory -/

theorem State.canonical_beginChange {s : State} (h : s.Canonical) (kind gpn src dst f r) : (s.beginChange kind gpn src dst f r).Canonical := by
  unfold State.beginChange
  grind [canonical_bump, canonical_updParish, canonical_takeWay, canonical_updPkg, canonical_notePresent,
    canonical_leave, canonical_updRequest, canonical_setChange, canonical_releaseSet, canonical_send,
    canonical_foldl, Pkg.setTag_hbm, canonical_iff]

theorem State.canonical_beginLodge {s : State} (h : s.Canonical) (kind gpn src dst f r) : (s.beginLodge kind gpn src dst f r).Canonical := by
  unfold State.beginLodge
  grind [canonical_bump, canonical_setChange, canonical_updRequest]

theorem State.canonical_touchFor {s : State} (h : s.Canonical) (r q p f) : (s.touchFor r q p f).Canonical := by
  unfold State.touchFor
  grind [canonical_failReq, canonical_unheard, canonical_presentRoom, canonical_hold, canonical_createPage,
    canonical_dropWaiting, → canonical_serveAt, canonical_updRequest, canonical_getD]

theorem canonical_rerunTouch (n p set : Nat) {s : State} (h : s.Canonical) : (rerunTouch n p set s).Canonical := by
  induction n generalizing s with
  | zero => exact h
  | succ n ih =>
    unfold rerunTouch
    split
    · exact h
    · next w hw =>
      extract_lets drop
      have hd : ∀ s : State, s.Canonical → (drop s).Canonical := fun s h => by grind [State.canonical_updRequest, State.canonical_updPkg]
      clear_value drop
      split
      · exact ih (hd s h)
      · split
        · exact ih (hd s h)
        · split
          · exact ih (State.canonical_touchFor (hd s h) _ _ _ _)
          · exact h

theorem State.canonical_firstTouch {s : State} (h : s.Canonical) (r q) : (s.firstTouch r q).Canonical := by
  unfold State.firstTouch
  grind [canonical_rerunTouch, canonical_hold, canonical_touchFor, canonical_updPkg, canonical_updRequest,
    canonical_beginLodge, Pkg.setAstat_hbm, Pkg.count_hbm]

theorem State.canonical_sendPacked {s : State} (h : s.Canonical) (p dst) : (s.sendPacked p dst).Canonical := by
  unfold State.sendPacked
  split
  · exact h
  · apply canonical_send
    refine canonical_foldl ?_ (fun s r h => canonical_updRequest h _ _) _
    apply canonical_updPkg h
    exact fun _ h => h

theorem State.canonical_serveRemote {s : State} (h : s.Canonical) (r q holder) : (s.serveRemote r q holder).Canonical := by
  unfold State.serveRemote
  grind [canonical_updRequest, canonical_updPkg, canonical_failReq, canonical_finishRead, canonical_closeReq,
    canonical_spillWrite, canonical_noteWin, canonical_finishAtomic, canonical_noteWrite, canonical_setHostBytes,
    canonical_send, canonical_sendPacked, Pkg.count_hbm]

theorem State.canonical_place {s : State} (h : s.Canonical) (r q holder) : (s.place r q holder).Canonical := by
  unfold State.place
  extract_lets p gpn set write slice ent local_ hst isFetch pass pinned bar hot ok upgrade v near attract room
  have hr : room.1.Canonical := by grind [canonical_presentRoom]
  clear_value room attract near v upgrade ok hst
  split
  · exact canonical_failReq h _ _
  · split
    · grind [canonical_hold, canonical_unheard]
    · split
      · exact canonical_hold h _ _ _
      · grind [canonical_hold, canonical_moveNow, → canonical_serveAt,
    canonical_updPkg, canonical_serveRemote, canonical_beginLodge, canonical_beginChange, canonical_dropWaiting,
    canonical_getD, Pkg.count_hbm]

theorem State.canonical_placeMaster {s : State} (h : s.Canonical) (r q m) : (s.placeMaster r q m).Canonical := by
  unfold State.placeMaster
  grind [canonical_place, canonical_hold, canonical_failReq]

theorem State.canonical_climbOut {s : State} (h : s.Canonical) (r q) : (s.climbOut r q).Canonical := by
  unfold State.climbOut
  grind [canonical_serveRemote, canonical_failReq, canonical_unheard, canonical_crossed, canonical_place,
    canonical_firstTouch, canonical_learnLost, canonical_placeMaster, canonical_bump, canonical_noteAbsent]

theorem State.canonical_heatReq {s : State} (h : s.Canonical) (r q) : (s.heatReq r q).Canonical := by
  unfold State.heatReq
  grind [canonical_updRequest, canonical_heat, canonical_foldl]

theorem State.canonical_climb {s : State} (h : s.Canonical) (r) : (s.climb r).Canonical := by
  unfold State.climb
  split
  · exact h
  · next q hq =>
    extract_lets p olds s1 s2 st s3
    have h1 : s1.Canonical := canonical_updRequest (canonical_heatReq h _ _) _ _
    have h2 : s2.Canonical := by grind [canonical_updRequest]
    have h3 : s3.Canonical := canonical_heatReq h2 _ _
    clear_value s1 s3 st s2
    split
    · exact h
    · split
      · grind [canonical_serveRemote]
      · split
        · exact canonical_closeReq h _
        · split
          · exact canonical_failReq h _ _
          · grind [canonical_closeReq, → canonical_serveAt, canonical_hold, canonical_soleMaster,
              canonical_holdWrite, canonical_climbOut]

theorem State.canonical_endLodge {s : State} (h : s.Canonical) (ch c forced) : (s.endLodge ch c forced).Canonical := by
  unfold State.endLodge
  grind [canonical_unbusy, canonical_updRequest, canonical_releaseSet, canonical_elim, canonical_iff]

theorem State.canonical_lodgeFails {s : State} (h : s.Canonical) (ch c) : (s.lodgeFails ch c).Canonical := by
  unfold State.lodgeFails
  grind [canonical_endLodge, canonical_updPkg, Pkg.count_hbm, Pkg.setAstat_hbm]

theorem State.canonical_spillOut {s : State} (h : s.Canonical) (p f) : (s.spillOut p f).1.Canonical := by
  unfold State.spillOut
  grind [canonical_updPkg, canonical_purgePage, canonical_gone, canonical_setMaster, canonical_updParish,
    canonical_patrol, canonical_leave, canonical_setHostBytes, canonical_foldl, canonical_foldl_fst, Pkg.count_hbm,
    Pkg.setTag_hbm]

theorem State.canonical_serveNew {s : State} (h : s.Canonical) (c) : (s.serveNew c).Canonical := by
  unfold State.serveNew
  grind [→ canonical_serveAt, canonical_updRequest, canonical_getD]

theorem State.canonical_endMoot {s : State} (h : s.Canonical) (ch c) : (s.endMoot ch c).Canonical := by
  unfold State.endMoot
  extract_lets s1 s2 s3 s4
  have h2 : s2.Canonical := by
    refine canonical_foldl (s := s1) h (fun s p h => ?_) _
    split
    · next f hf =>
      apply canonical_purgePage
      exact canonical_setTag h _ _ _
    · exact h
  clear_value s2
  grind [canonical_updRequest, canonical_unbusy, canonical_endLodge, canonical_releaseSet]

theorem State.canonical_dropFill {s : State} (h : s.Canonical) (c) : (s.dropFill c).Canonical := by
  unfold State.dropFill
  grind [canonical_unframe, canonical_settleSpoils, canonical_noteAbsent]

theorem State.canonical_rebuild {s : State} (h : s.Canonical) (p) : (s.rebuild p).Canonical := by
  unfold State.rebuild
  extract_lets frames s1
  have h1 : s1.Canonical := by
    refine canonical_foldl h (fun s x h => ?_) _
    extract_lets gpn master s2
    have h2 : s2.Canonical := by grind [canonical_updPkg]
    clear_value s2
    grind [canonical_updPkg]
  exact canonical_foldl h1 (fun s x h => canonical_notePresent h _ _ _) _

theorem State.canonical_glean {s : State} (h : s.Canonical) (p f) : (s.glean p f).Canonical := by
  unfold State.glean
  grind [canonical_updPkg, canonical_patrol, Pkg.count_hbm]

theorem State.canonical_gleanFrame {s : State} (h : s.Canonical) (p stack f) : (s.gleanFrame p stack f).Canonical := by
  unfold State.gleanFrame
  grind [canonical_updPkg, canonical_glean]

theorem State.canonical_askGlean {s : State} (h : s.Canonical) (p stack) : (s.askGlean p stack).Canonical := by
  unfold State.askGlean
  grind [canonical_askHost, canonical_updPkg]

/-! ## The fabric -/

theorem State.canonical_arriveReq {s : State} (h : s.Canonical) (p r) {X} (e : s.arriveReq p r = some X) : X.Canonical := by
  unfold State.arriveReq at e
  grind [→ canonical_serveAt, canonical_hold, canonical_holdWrite, canonical_updRequest]

theorem State.canonical_serveHeld {s : State} (h : s.Canonical) (p gpn) : (s.serveHeld p gpn).Canonical := by
  unfold State.serveHeld
  grind [→ canonical_serveAt, canonical_unhold, canonical_foldl]

theorem State.canonical_takeReq {s : State} (h : s.Canonical) (k r dst) : (s.takeReq k r dst).Canonical := by
  unfold State.takeReq
  extract_lets gpn
  split
  · grind [canonical_updPkg, Pkg.setAstat_hbm]
  · refine canonical_receive h _ fun s X x h e => ?_
    obtain ⟨Y, hY, rfl⟩ := Option.map_eq_some_iff.mp e
    exact canonical_serveHeld (canonical_arriveReq h _ _ hY) _ _

theorem State.canonical_readBack {s : State} (h : s.Canonical) (r bytes bad) : (s.readBack r bytes bad).Canonical := by
  unfold State.readBack
  grind [canonical_finishRead, canonical_failReq]

theorem State.canonical_packedServe {s : State} (h : s.Canonical) (p rs) : (s.packedServe p rs).1.Canonical := by
  unfold State.packedServe
  refine canonical_foldl_fst h (fun a r h => ?_) _
  grind [canonical_readGranule, canonical_getD, → canonical_arriveReq, canonical_updRequest]

theorem State.canonical_beat {s : State} (h : s.Canonical) (p) : (s.beat p).Canonical := by
  unfold State.beat
  grind [canonical_updPkg]

theorem State.canonical_carryOverflow {s : State} (h : s.Canonical) (p x back) : (s.carryOverflow p x back).Canonical := by
  unfold State.carryOverflow
  extract_lets a b mark
  have hm : ∀ (s : State) src dst parish, s.Canonical → (mark s src dst parish).Canonical := fun s _ _ _ h => by
    grind [canonical_updPkg]
  split
  · exact hm _ _ _ _ (hm _ _ _ _ h)
  · exact hm _ _ _ _ (hm _ _ _ _ h)

theorem State.canonical_rehome {s : State} (h : s.Canonical) (p) : (s.rehome p).Canonical := by
  unfold State.rehome
  extract_lets par s1 ham
  have h1 : s1.Canonical := by
    refine canonical_foldl h (fun s x h => ?_) _
    refine canonical_updPkg (canonical_updPkg h _ ?_) _ ?_ <;> exact fun _ h => h
  refine canonical_foldl h1 (fun s x h => ?_) _
  extract_lets q s2
  have h2 : s2.Canonical := canonical_updPkg h _ fun _ h => h
  clear_value s2
  grind [canonical_updPkg]

theorem State.canonical_breakChange {s : State} (h : s.Canonical) (p lost ch c) : (s.breakChange p lost ch c).Canonical := by
  unfold State.breakChange
  grind [canonical_endMoot, canonical_updPkg, canonical_dropFill, canonical_unbusy, canonical_endLodge, Pkg.setTag_hbm,
    canonical_iff]

theorem State.canonical_failPosted {s : State} (h : s.Canonical) (p lost) : (s.failPosted p lost).Canonical := by
  unfold State.failPosted
  grind [canonical_failReq, canonical_foldl]

theorem State.canonical_declareLost {s : State} (h : s.Canonical) (p lost) : (s.declareLost p lost).Canonical := by
  unfold State.declareLost
  grind [canonical_failPosted, canonical_rehome, canonical_carryOverflow, canonical_mapRequests, canonical_updPkg,
    canonical_breakChange, canonical_foldl, canonical_iff]

theorem State.canonical_promoteAt {s : State} (h : s.Canonical) (p gpn q) : (s.promoteAt p gpn q).Canonical := by
  unfold State.promoteAt
  grind [canonical_updPkg, canonical_releasePage, canonical_setMaster, canonical_updParish, Pkg.setTag_hbm]

theorem State.canonical_losePage {s : State} (h : s.Canonical) (p gpn) : (s.losePage p gpn).Canonical := by
  unfold State.losePage
  grind [canonical_releasePage, canonical_updParish]

theorem State.canonical_settlePage {s : State} (h : s.Canonical) (p lost gpn e) : (s.settlePage p lost gpn e).Canonical := by
  unfold State.settlePage
  grind [canonical_releasePage, canonical_updPkg, canonical_updParish, canonical_askHost, canonical_promoteAt,
    canonical_losePage, Pkg.setTag_hbm]

theorem State.canonical_enterLost {s : State} (h : s.Canonical) (p lost) : (s.enterLost p lost).Canonical := by
  unfold State.enterLost
  grind [canonical_setParish, canonical_foldl]

theorem State.canonical_lossResponse {s : State} (h : s.Canonical) (p lost) : (s.lossResponse p lost).Canonical := by
  unfold State.lossResponse
  grind [canonical_enterLost, canonical_settlePage, canonical_updPkg, canonical_foldl]

theorem State.canonical_settleRequests {s : State} (h : s.Canonical) (p lost) : (s.settleRequests p lost).Canonical := by
  unfold State.settleRequests
  refine canonical_foldl ?_ (fun s e h => canonical_updRequest h _ _) _
  apply canonical_updPkg h
  exact fun _ h => h

theorem State.canonical_resend {s : State} (h : s.Canonical) (p) : (s.resend p).Canonical := by
  unfold State.resend
  grind [canonical_updRequest, canonical_updPkg, canonical_foldl, canonical_iff]

/-! ## Launches and pages by word -/

theorem State.canonical_enqueue {s : State} (h : s.Canonical) (p q l) : (s.enqueue p q l).1.Canonical := by
  unfold State.enqueue
  grind [canonical_updPkg, canonical_updQueue]

theorem State.canonical_setPinned {s : State} (h : s.Canonical) (p gpn b) : (s.setPinned p gpn b).Canonical := by
  unfold State.setPinned
  grind [canonical_updParish, Pkg.setTag_hbm, canonical_iff]

theorem State.canonical_twinPage {s : State} (h : s.Canonical) (p gpn) : (s.twinPage p gpn).Canonical := by
  unfold State.twinPage
  grind [canonical_updParish, canonical_twinUp]

theorem State.canonical_switchWay {s : State} (h : s.Canonical) (q gpn refused) {go : Nat → State × Switch} (hg : ∀ n, (go n).1.Canonical) :
    (s.switchWay q gpn refused go).1.Canonical := by
  have hv : ∀ o : Option Nat, (o.elim (s, Switch.code 1) go).1.Canonical := fun o => by
    cases o with
    | none => exact h
    | some n => exact hg n
  unfold State.switchWay
  grind

theorem State.canonical_pinPage {s : State} (h : s.Canonical) (p gpn twin q refused) : (s.pinPage p gpn twin q refused).1.Canonical := by
  unfold State.pinPage
  extract_lets slice done
  have hd : ∀ s : State, s.Canonical → (done s).1.Canonical := fun s h => by
    grind [canonical_twinPage, canonical_setPinned, canonical_crossed]
  clear_value done
  split
  · exact h
  · split
    · exact h
    · split
      · refine canonical_switchWay h _ _ _ fun g => ?_
        grind [canonical_presentRoom, canonical_createPage, canonical_setPinned, canonical_crossed]
      · next e he =>
        extract_lets move
        have hm : ∀ n, (move n).1.Canonical := fun n => by grind [canonical_moveNow]
        clear_value move
        grind [canonical_switchWay, canonical_invalidateCopies, canonical_updParish, canonical_setMaster]

theorem State.canonical_attractPage {s : State} (h : s.Canonical) (p gpn twin) : (s.attractPage p gpn twin).1.Canonical := by
  unfold State.attractPage
  grind [canonical_crossed, canonical_setPinned, canonical_twinPage]

theorem State.canonical_switchPages {s : State} (h : s.Canonical) {go : State → Leaf → State × Switch}
    (hg : ∀ (s : State) l, s.Canonical → (go s l).1.Canonical) (ls) : (s.switchPages go ls).1.Canonical := by
  unfold State.switchPages
  refine canonical_foldl_fst h (fun a l h => ?_) _
  grind

theorem State.canonical_rangePages {s : State} (h : s.Canonical) (core ctx lo n) : (s.rangePages core ctx lo n).1.Canonical := by
  unfold State.rangePages
  grind [canonical_translate, canonical_foldl, canonical_foldl_fst]

theorem canonical_pgctl {s : State} (h : s.Canonical) (x0 f pkg tk t) : (pgctl x0 f pkg s tk t).Canonical := by
  unfold pgctl
  grind [Act.Canonical, State.canonical_setTeam, canonical_releaseThen, State.canonical_rangePages, State.canonical_switchPages,
    State.canonical_pinPage, State.canonical_attractPage, State.canonical_setChange, State.canonical_bump, State.canonical_updTeam]

/-! ## Launches -/

theorem State.canonical_takeSerial {s : State} (h : s.Canonical) (p) : (s.takeSerial p).1.Canonical := by
  unfold State.takeSerial
  grind [canonical_updPkg]

theorem State.canonical_startTeam {s : State} (h : s.Canonical) (tk x k) : (s.startTeam tk x k).Canonical := by
  unfold State.startTeam
  grind [canonical_takeSerial, canonical_setTeam, canonical_bump]

/-! ## Events of a core -/

theorem State.canonical_unpark {s : State} (h : s.Canonical) (tk) : (s.unpark tk).Canonical := by
  unfold State.unpark
  grind [canonical_updTeam, canonical_bump]

theorem State.canonical_unstall {s : State} (h : s.Canonical) (tk) : (s.unstall tk).Canonical := by
  unfold State.unstall
  grind [canonical_updTeam]

theorem State.canonical_acquired {s : State} (h : s.Canonical) (tk scope) : (s.acquired tk scope).Canonical := by
  unfold State.acquired
  grind [canonical_acquire, canonical_settleStep, canonical_updTeam, canonical_unstall]

theorem State.canonical_noReeve {s : State} (h : s.Canonical) (core x) : (s.noReeve core x).Canonical := by
  unfold State.noReeve
  grind [canonical_updCore, canonical_logEsc, canonical_escalateAlone]

theorem State.canonical_letIn {s : State} (h : s.Canonical) (tk) : (s.letIn tk).Canonical := by
  unfold State.letIn
  grind [canonical_updTeam, canonical_bump]

theorem State.canonical_withdrawOne {s : State} (h : s.Canonical) (core r) : (s.withdrawOne core r).Canonical := by
  unfold State.withdrawOne
  grind [canonical_updTeam, canonical_foldl]

theorem State.canonical_deliver {s : State} (h : s.Canonical) (r t) : (s.deliver r t).Canonical := by
  unfold State.deliver
  grind [canonical_leaveQueues, canonical_abortTry, canonical_freeze]

/-! ## The scheduler -/

theorem State.canonical_doneFail {s : State} (h : s.Canonical) (p core va c) : (s.doneFail p core va c).Canonical := by
  unfold State.doneFail
  grind [canonical_updPkg, canonical_logEsc, Pkg.setFstat_hbm]

theorem State.canonical_writeDone {s : State} (h : s.Canonical) (p q core ctx va x) : (s.writeDone p q core ctx va x).1.Canonical := by
  unfold State.writeDone
  grind [canonical_asHardware, canonical_checkGlobal, canonical_doneFail, canonical_dropRange, canonical_sysWriteBytes,
    canonical_updPkg, Pkg.completed_hbm]

end Sys2Proof.Machine

/-! PROOFS. The scheduler, registers, boot, host and evictions keep memory's form. -/

namespace Sys2Proof.Machine

open Host

-- proofs that wait for one another's congruence lemmas would each hold a thread
set_option Elab.async false

/-! ## The scheduler -/

theorem State.canonical_validate {s : State} (h : s.Canonical) (p ctx l) : (s.validate p ctx l).1.Canonical := by
  unfold State.validate
  grind [canonical_readRecord]

theorem State.canonical_takeRecord {s : State} (h : s.Canonical) (p q i t) : (s.takeRecord p q i t).Canonical := by
  unfold State.takeRecord
  grind [canonical_updQueue, canonical_updPkg]

theorem State.canonical_failLaunch {s : State} (h : s.Canonical) (p q i t l status) : (s.failLaunch p q i t l status).1.Canonical := by
  unfold State.failLaunch
  grind [canonical_writeDone, canonical_updPkg, canonical_takeRecord, Pkg.endTicket_hbm]

theorem State.canonical_startGrid {s : State} (h : s.Canonical) (p q i t l k) : (s.startGrid p q i t l k).Canonical := by
  unfold State.startGrid
  grind [canonical_takeRecord, canonical_updQueue, canonical_updPkg, canonical_setGrid, canonical_bump]

theorem State.canonical_admitRecord {s : State} (h : s.Canonical) (p q) : (s.admitRecord p q).1.Canonical := by
  unfold State.admitRecord
  grind [canonical_validate, canonical_failLaunch, canonical_startGrid, canonical_askHost, canonical_updQueue]

theorem State.canonical_startCluster {s : State} (h : s.Canonical) (gk g cores) : (s.startCluster gk g cores).Canonical := by
  unfold State.startCluster
  extract_lets k cl n s1 shares s2 s3 stream
  have h3 : s3.Canonical := canonical_updGrid (canonical_setCluster (s := s1) h _ _) _ _
  clear_value s3
  refine canonical_foldl h3 (fun s x h => ?_) _
  extract_lets sh s4 s5
  have h4 : s4.Canonical := by grind [canonical_acquire]
  clear_value s4
  have h5 : s5.Canonical := canonical_setShare (canonical_updCore h4 _ _) _ wf_nil
  exact canonical_foldl h5 (fun s y h => canonical_startTeam h _ _ _) _

theorem State.canonical_rekey {s : State} (h : s.Canonical) (a b) : (s.rekey a b).Canonical := by
  unfold State.rekey
  grind [canonical_updPkg, canonical_updShare, canonical_iff]

theorem State.canonical_imageTeam {s : State} (h : s.Canonical) (tk) : (s.imageTeam tk).Canonical := by
  unfold State.imageTeam
  grind [canonical_abortTry, canonical_updPkg, canonical_release, canonical_updTeam, canonical_bump,
    canonical_rekey]

theorem State.canonical_stopCluster {s : State} (h : s.Canonical) (p cl) : (s.stopCluster p cl).Canonical := by
  unfold State.stopCluster
  grind [canonical_updCluster, canonical_updPkg, canonical_imageTeam, canonical_foldl]

theorem State.canonical_bringUp {s : State} (h : s.Canonical) (core stamp) : (s.bringUp core stamp).Canonical := by
  unfold State.bringUp
  grind [canonical_advance, canonical_foldl]

theorem State.canonical_dropResumed {s : State} (h : s.Canonical) (core t) : (s.dropResumed core t).Canonical := by
  unfold State.dropResumed
  grind [canonical_dropPagesAt]

theorem State.canonical_exhaust {s : State} (h : s.Canonical) (p q) : (s.exhaust p q).Canonical := by
  unfold State.exhaust
  grind [canonical_updPkg, canonical_setQueue, Pkg.raiseVec_hbm]

theorem State.canonical_meter {s : State} (h : s.Canonical) (core nj) : (s.meter core nj).Canonical := by
  unfold State.meter
  grind [canonical_updCore, canonical_updGrid, canonical_foldl]

theorem State.canonical_dropGrid {s : State} (h : s.Canonical) (gk) : (s.dropGrid gk).Canonical := by
  unfold State.dropGrid
  grind [canonical_iff]

theorem State.canonical_settleGrid {s : State} (h : s.Canonical) (g) : (s.settleGrid g).Canonical := by
  unfold State.settleGrid
  grind [canonical_updQueue, canonical_updPkg]

theorem State.canonical_gridRelease {s : State} (h : s.Canonical) (gk g) : (s.gridRelease gk g).1.Canonical := by
  unfold State.gridRelease
  grind [canonical_release, canonical_updGrid, canonical_foldl, canonical_foldl_fst]

/-! ## Registers -/

theorem State.canonical_writeFault {s : State} (h : s.Canonical) (p off v) : (s.writeFault p off v).Canonical := by
  unfold State.writeFault
  grind [canonical_updPkg]

theorem State.canonical_writeCmd {s : State} (h : s.Canonical) (p n v) : (s.updPkg p (·.writeCmd n v)).Canonical :=
  canonical_updPkg_same h p fun k => k.writeCmd_hbm n v

theorem State.canonical_writeSched {s : State} (h : s.Canonical) (p n v) : (s.updPkg p (·.writeSched n v)).Canonical :=
  canonical_updPkg_same h p fun k => k.writeSched_hbm n v

theorem State.canonical_writeAttr {s : State} (h : s.Canonical) (p n v) : (s.updPkg p (·.writeAttr n v)).Canonical :=
  canonical_updPkg_same h p fun k => k.writeAttr_hbm n v

theorem State.canonical_writeFabric {s : State} (h : s.Canonical) (p n v) : (s.updPkg p (·.writeFabric n v)).Canonical :=
  canonical_updPkg_same h p fun k => k.writeFabric_hbm n v

theorem State.canonical_regWrite {s : State} (h : s.Canonical) (p off v) : (s.regWrite p off v).Canonical := by
  unfold State.regWrite
  refine canonical_ite h <| canonical_ite ?_ <| canonical_ite ?_ <| canonical_ite ?_ <| canonical_ite h <| canonical_ite ?_ <|
    canonical_ite ?_ <| canonical_ite ?_ <| canonical_ite h <| canonical_ite (canonical_ite ?_ h) <| canonical_ite h <| canonical_ite ?_ <|
    canonical_ite ?_ <| canonical_ite h <| canonical_ite ?_ h
  · exact canonical_updPkg_same h p fun k => k.writeBoot_hbm _ _
  · exact canonical_writeCmd h p _ v
  · exact canonical_writeSched h p _ v
  · exact canonical_writeAttr h p _ v
  · exact canonical_writeFault h p _ v
  · exact canonical_writeFabric h p _ v
  · exact canonical_updCore h _ _
  · exact canonical_updPkg_same h p fun k => k.updQ_hbm _ _
  · exact canonical_updPkg_same h p fun k => k.updQ_hbm _ _
  · exact canonical_updPkg_same h p fun _ => rfl

/-! ## Boot and reset -/

theorem State.canonical_resetPkg {s : State} (h : s.Canonical) (p) : (s.resetPkg p).Canonical := by
  unfold State.resetPkg
  extract_lets old keep q s1 mine
  have h1 : s1.Canonical := canonical_foldl h (fun s c h => canonical_breakChange h _ _ _ _) _
  refine ⟨h1.1, fun e he => ?_, fun e he => h1.2.2 e (List.mem_of_mem_filter he)⟩
  rcases mem_put he with rfl | he
  · dsimp only
    rw [Pkg.restaged_hbm]
    exact wf_nil
  · exact h1.2.1 e he

/-! ## The cellar dies -/

theorem State.canonical_owe {s : State} (h : s.Canonical) (p stack port f kind pay) : (s.owe p stack port f kind pay).Canonical := by
  unfold State.owe
  grind [canonical_updPkg]

theorem State.canonical_reply {s : State} (h : s.Canonical) (p stack port f kind pay) : (s.reply p stack port f kind pay).Canonical := by
  unfold State.reply
  grind [canonical_updPkg]

/-! ## Control words -/

theorem canonical_leave {s : State} (h : s.Canonical) (tk t masks m live pc) : (leave s tk t masks m live pc).Canonical := by
  unfold leave
  grind [Act.Canonical, State.canonical_setTeam]

theorem canonical_illegalAt {s : State} (h : s.Canonical) (x1 sub) : (illegalAt s x1 sub).Canonical := by
  unfold illegalAt
  grind [Act.Canonical]

theorem canonical_branch {s : State} (h : s.Canonical) (hd f tk t) {go : State → Nat → Team → Act} (hg : (go s tk t).Canonical) :
    (branch hd f go s tk t).Canonical := by
  unfold branch
  grind [Act.Canonical, canonical_illegalAt]

theorem canonical_pushing {s : State} (h : s.Canonical) (hd es t) {go : List StackEntry → Act} (hg : ∀ ms, (go ms).Canonical) :
    (pushing hd es go s t).Canonical := by
  unfold pushing
  grind [Act.Canonical, canonical_illegalAt]

theorem canonical_leaveLoop {s : State} (h : s.Canonical) (x0 f k tk t) : (leaveLoop x0 f k s tk t).Canonical := by
  unfold leaveLoop
  grind [Act.Canonical, canonical_illegalAt, canonical_leave]

/-! ## The host -/

theorem State.canonical_endCmd {s : State} (h : s.Canonical) (p res) : (s.endCmd p res).Canonical := by
  unfold State.endCmd
  grind [canonical_updPkg, Pkg.raiseVec_hbm]

theorem State.canonical_dropTlbs {s : State} (h : s.Canonical) (ctx lo n) : (s.dropTlbs ctx lo n).Canonical := by
  unfold State.dropTlbs
  grind [canonical_iff]

theorem State.canonical_clearLost {s : State} (h : s.Canonical) (gpn) : (s.clearLost gpn).Canonical := by
  unfold State.clearLost
  grind [canonical_purgePage, canonical_foldl, Pkg.setTag_hbm, canonical_iff]

theorem State.canonical_retryHeld {s : State} (h : s.Canonical) (p) : (s.retryHeld p).Canonical := by
  unfold State.retryHeld
  grind [canonical_updRequest, canonical_unhold, canonical_foldl]

theorem canonical_onStream {s : State} (h : s.Canonical) (p k) {go : State → Nat → Stream → State} (hg : ∀ sh m, (go s sh m).Canonical) :
    (onStream p go s k).Canonical := by
  unfold onStream
  grind [State.canonical_endCmd]

theorem canonical_onEscalated {s : State} (h : s.Canonical) (p k) {go : State → Nat → Team → State} (hg : ∀ tk t, (go s tk t).Canonical) :
    (onEscalated p go s k).Canonical := by
  unfold onEscalated
  grind [State.canonical_endCmd]

theorem State.canonical_replyWalk {s : State} (h : s.Canonical) (p x2 e c) : (s.replyWalk p x2 e c).Canonical := by
  unfold State.replyWalk
  grind [canonical_shadowHot, canonical_updCore, canonical_updPkg, canonical_noteFail]

theorem State.canonical_replyLodge {s : State} (h : s.Canonical) (p ix spill) : (s.replyLodge p ix spill).Canonical := by
  unfold State.replyLodge
  grind [canonical_endLodge, canonical_spillOut, canonical_lodgeFails]

theorem State.canonical_applyReply {s : State} (h : s.Canonical) (p ix x3 x y) {X} (e : s.applyReply p ix x3 x y = some X) : X.Canonical := by
  unfold State.applyReply at e
  grind [canonical_replyWalk, canonical_updQueue, canonical_replyLodge, canonical_gleanFrame, canonical_losePage,
    canonical_promoteAt]

theorem State.canonical_windowCheck {s : State} (h : s.Canonical) (p off n write) : (s.windowCheck p off n write).1.Canonical := by
  unfold State.windowCheck
  grind [canonical_asHardware, canonical_checkGlobal]

theorem State.canonical_winHost {s : State} (h : s.Canonical) (places) : (s.winHost places).Canonical := by
  unfold State.winHost
  grind [canonical_noteWrite, canonical_setHostBytes, canonical_foldl]

theorem State.canonical_windowGo {s : State} (h : s.Canonical) (p write ps data) : (s.windowGo p write ps data).Canonical := by
  unfold State.windowGo
  grind [canonical_bump, canonical_winHost, canonical_postWrite, canonical_addRequest, canonical_winDone,
    canonical_climb, canonical_foldl, canonical_foldl_fst, canonical_iff]

/-! ## What a step does of itself -/

theorem State.canonical_takeSlot {s : State} (h : s.Canonical) (tk t) : (s.takeSlot tk t).Canonical := by
  unfold State.takeSlot
  grind [canonical_setTeam]

theorem State.canonical_evictLine {s : State} (h : s.Canonical) (lvl key) : (s.evictLine lvl key).Canonical := by
  unfold State.evictLine
  grind [canonical_dropLine, canonical_writeBackOne]

theorem State.canonical_shadowWrite {s : State} (h : s.Canonical) (p e) : (s.shadowWrite p e).1.Canonical := by
  unfold State.shadowWrite
  grind [canonical_ctxLeaf, canonical_sysWriteBytes]

theorem State.canonical_evictTlb2 {s : State} (h : s.Canonical) (p ix) : (s.evictTlb2 p ix).Canonical := by
  unfold State.evictTlb2
  grind [canonical_shadowWrite, canonical_updPkg]

theorem State.canonical_trimCache {s : State} (h : s.Canonical) (lvl) : (s.trimCache lvl).Canonical := by
  unfold State.trimCache
  grind [canonical_bump, canonical_evictLine, canonical_foldl]

theorem State.canonical_trimTlb {s : State} (h : s.Canonical) (core) : (s.trimTlb core).Canonical := by
  unfold State.trimTlb
  grind [canonical_bump, canonical_updCore, canonical_foldl]

theorem State.canonical_trimTlb2 {s : State} (h : s.Canonical) (p) : (s.trimTlb2 p).Canonical := by
  unfold State.trimTlb2
  grind [canonical_bump, canonical_evictTlb2, canonical_foldl]

theorem State.canonical_trim {s : State} (h : s.Canonical) : (s.trim).Canonical := by
  unfold State.trim
  grind [canonical_trimTlb, canonical_trimCache, canonical_trimTlb2, canonical_foldl]

theorem State.canonical_strike {s : State} (h : s.Canonical) (p g symbol) : (s.strike p g symbol).Canonical := by
  unfold State.strike
  grind [canonical_updPkg]

end Sys2Proof.Machine

/-! PROOFS. The words of teams and streams keep memory's form. -/

namespace Sys2Proof.Machine

open Host

-- proofs that wait for one another's congruence lemmas would each hold a thread
set_option Elab.async false

/-! ## Clause headers and fetches -/

theorem canonical_execClauseHeader {s X : State} (h : s.Canonical) (f) (e : execClauseHeader f s = .next X) : X.Canonical := by
  unfold execClauseHeader at e
  grind [Act.Canonical, Act.canonical_finish, State.canonical_setTeam, State.canonical_copyAcquire, State.canonical_acquire, State.canonical_updCore,
    State.canonical_updTeam]

/-! ## Global accesses -/

theorem canonical_execLd {s X : State} (h : s.Canonical) (hd f) (e : execLd hd f s = .next X) : X.Canonical := by
  unfold execLd at e
  refine canonical_issue h (fun t ht => ?_) e
  grind [Act.Canonical, State.canonical_checkLanes, canonical_checked, canonical_loadGlobal, State.canonical_setTeam]

theorem canonical_execLdProbe {s X : State} (h : s.Canonical) (hd f) (e : execLdProbe hd f s = .next X) : X.Canonical := by
  unfold execLdProbe at e
  refine canonical_issue h (fun t ht => ?_) e
  grind [Act.Canonical, State.canonical_checkLanes, canonical_checked, canonical_tryTouch, State.canonical_acquireIf, State.canonical_readWants,
    State.canonical_requestMissing, State.canonical_setTeam, canonical_releaseThen]

theorem canonical_execSt {s X : State} (h : s.Canonical) (hd f) (e : execSt hd f s = .next X) : X.Canonical := by
  unfold execSt at e
  refine canonical_issue h (fun t ht => ?_) e
  grind [Act.Canonical, State.canonical_checkLanes, canonical_checked, canonical_storeGlobal]

theorem canonical_execLds {s X : State} (h : s.Canonical) (hd f) (e : execLds hd f s = .next X) : X.Canonical := by
  unfold execLds at e
  refine canonical_issue h (fun t ht => ?_) e
  grind [Act.Canonical, canonical_tryTouch, State.canonical_setTeam, State.canonical_acquireIf]

theorem canonical_execSts {s X : State} (h : s.Canonical) (hd f) (e : execSts hd f s = .next X) : X.Canonical := by
  unfold execSts at e
  refine canonical_issue h (fun t ht => ?_) e
  grind [Act.Canonical, canonical_tryStore, State.canonical_updTeam, State.canonical_setSpBytes, State.canonical_noteWrite, canonical_releaseThen,
    State.canonical_foldl]

theorem canonical_execLdu {s X : State} (h : s.Canonical) (hd f) (e : execLdu hd f s = .next X) : X.Canonical := by
  unfold execLdu at e
  refine canonical_issue h (fun t ht => ?_) e
  grind [Act.Canonical, canonical_once, canonical_checkUniform, canonical_loadGlobal, State.canonical_setTeam]

theorem canonical_execStu {s X : State} (h : s.Canonical) (hd f) (e : execStu hd f s = .next X) : X.Canonical := by
  unfold execStu at e
  refine canonical_issue h (fun t ht => ?_) e
  grind [Act.Canonical, canonical_once, canonical_checkUniform, canonical_storeGlobal]

theorem canonical_execPref {s X : State} (h : s.Canonical) (hd f) (e : execPref hd f s = .next X) : X.Canonical := by
  unfold execPref at e
  refine canonical_issue h (fun t ht => ?_) e
  grind [Act.Canonical, State.canonical_checkGlobal, State.canonical_prefetch, State.canonical_foldl]

theorem canonical_execFetch {s X : State} (h : s.Canonical) (hd f) (e : execFetch hd f s = .next X) : X.Canonical := by
  unfold execFetch at e
  refine canonical_issue h (fun t ht => ?_) e
  grind [Act.Canonical, State.canonical_translate, State.canonical_addRequest, State.canonical_setTeam, State.canonical_foldl,
    State.canonical_foldl_fst]

theorem canonical_execCctlWb {s X : State} (h : s.Canonical) (hd f) (e : execCctlWb hd f s = .next X) : X.Canonical := by
  unfold execCctlWb at e
  refine canonical_issue h (fun t ht => ?_) e
  grind [Act.Canonical, canonical_cctl, State.canonical_wbSector]

theorem canonical_execCctlInv {s X : State} (h : s.Canonical) (hd f) (e : execCctlInv hd f s = .next X) : X.Canonical := by
  unfold execCctlInv at e
  refine canonical_issue h (fun t ht => ?_) e
  grind [Act.Canonical, canonical_cctl, State.canonical_purge]

theorem canonical_execCctlDiscard {s X : State} (h : s.Canonical) (hd f) (e : execCctlDiscard hd f s = .next X) : X.Canonical := by
  unfold execCctlDiscard at e
  refine canonical_issue h (fun t ht => ?_) e
  grind [Act.Canonical, canonical_cctl, State.canonical_discardSector]

theorem canonical_execFence {s X : State} (h : s.Canonical) (hd f) (e : execFence hd f s = .next X) : X.Canonical := by
  unfold execFence at e
  refine canonical_issue h (fun t ht => ?_) e
  grind [Act.Canonical, State.canonical_acquire, canonical_releaseThen, State.canonical_acquireIf]

/-! ## Atomics -/

theorem canonical_execAtomCas {s X : State} (h : s.Canonical) (hd f) (e : execAtomCas hd f s = .next X) : X.Canonical := by
  unfold execAtomCas at e
  refine canonical_issue h (fun t ht => ?_) e
  grind [Act.Canonical, canonical_atomicGlobal]

theorem canonical_execAtomsCas {s X : State} (h : s.Canonical) (hd f) (e : execAtomsCas hd f s = .next X) : X.Canonical := by
  unfold execAtomsCas at e
  refine canonical_issue h (fun t ht => ?_) e
  grind [Act.Canonical, canonical_atomicSp]

theorem canonical_execAtom {s X : State} (h : s.Canonical) (hd op f) (e : execAtom hd op f s = .next X) : X.Canonical := by
  unfold execAtom at e
  refine canonical_issue h (fun t ht => ?_) e
  grind [Act.Canonical, canonical_atomicGlobal]

theorem canonical_execRed {s X : State} (h : s.Canonical) (hd op f) (e : execRed hd op f s = .next X) : X.Canonical := by
  unfold execRed at e
  refine canonical_issue h (fun t ht => ?_) e
  grind [Act.Canonical, canonical_atomicGlobal]

theorem canonical_execAtoms {s X : State} (h : s.Canonical) (hd op f) (e : execAtoms hd op f s = .next X) : X.Canonical := by
  unfold execAtoms at e
  refine canonical_issue h (fun t ht => ?_) e
  grind [Act.Canonical, canonical_atomicSp]

theorem canonical_execReds {s X : State} (h : s.Canonical) (hd op f) (e : execReds hd op f s = .next X) : X.Canonical := by
  unfold execReds at e
  refine canonical_issue h (fun t ht => ?_) e
  grind [Act.Canonical, canonical_atomicSp]

/-! ## Copies -/

theorem canonical_execCpy {s X : State} (h : s.Canonical) (hd f) (e : execCpy hd f s = .next X) : X.Canonical := by
  unfold execCpy at e
  refine canonical_issue h (fun t ht => ?_) e
  grind [Act.Canonical, canonical_once, canonical_emptyXfer, State.canonical_checkRanges, canonical_register]

theorem canonical_execShape {s X : State} (h : s.Canonical) (hd f) (e : execShape hd f s = .next X) : X.Canonical := by
  unfold execShape at e
  refine canonical_issue h (fun t ht => ?_) e
  grind [Act.Canonical, canonical_once, canonical_readChecked, State.canonical_updTeam]

theorem canonical_execCpyt {s X : State} (h : s.Canonical) (hd f) (e : execCpyt hd f s = .next X) : X.Canonical := by
  unfold execCpyt at e
  refine canonical_issue h (fun t ht => ?_) e
  grind [Act.Canonical, canonical_once, canonical_readChecked, State.canonical_checkRanges, canonical_emptyXfer, canonical_register,
    State.canonical_foldl, State.canonical_foldl_fst]

/-! ## Copies -/

theorem canonical_execGath {s X : State} (h : s.Canonical) (hd f) (e : execGath hd f s = .next X) : X.Canonical := by
  unfold execGath at e
  refine canonical_issue h (fun t ht => ?_) e
  grind [Act.Canonical, canonical_gatherScatter]

theorem canonical_execScat {s X : State} (h : s.Canonical) (hd f) (e : execScat hd f s = .next X) : X.Canonical := by
  unfold execScat at e
  refine canonical_issue h (fun t ht => ?_) e
  grind [Act.Canonical, canonical_gatherScatter]

theorem canonical_execBatch {s X : State} (h : s.Canonical) (hd f) (e : execBatch hd f s = .next X) : X.Canonical := by
  unfold execBatch at e
  refine canonical_issue h (fun t ht => ?_) e
  grind [Act.Canonical, canonical_once, State.canonical_setTeam]

theorem canonical_execCwait {s X : State} (h : s.Canonical) (hd f) (e : execCwait hd f s = .next X) : X.Canonical := by
  unfold execCwait at e
  refine canonical_issue h (fun t ht => ?_) e
  grind [Act.Canonical, canonical_once, State.canonical_setTeam, State.canonical_updTeam, State.canonical_copyAcquire]

theorem canonical_execCstat {s X : State} (h : s.Canonical) (hd f) (e : execCstat hd f s = .next X) : X.Canonical := by
  unfold execCstat at e
  refine canonical_issue h (fun t ht => ?_) e
  grind [Act.Canonical, canonical_once, State.canonical_updTeam]

theorem canonical_execTransferBegin {s X : State} (h : s.Canonical) (x) (e : execTransferBegin x s = .next X) : X.Canonical := by
  unfold execTransferBegin at e
  cases e
  grind [State.canonical_beginXfer]

theorem canonical_execTransferComplete {s X : State} (h : s.Canonical) (x) (e : execTransferComplete x s = .next X) : X.Canonical := by
  unfold execTransferComplete at e
  cases e
  grind [State.canonical_xferPerform, State.canonical_xferEnd, State.canonical_elim]

/-! ## Residency maps -/

theorem canonical_execSpanapp {s X : State} (h : s.Canonical) (hd f) (e : execSpanapp hd f s = .next X) : X.Canonical := by
  unfold execSpanapp at e
  refine canonical_issue h (fun t ht => ?_) e
  grind [Act.Canonical, canonical_once, canonical_span, canonical_spanDone, canonical_withBlocks]

theorem canonical_execSpantag {s X : State} (h : s.Canonical) (hd f) (e : execSpantag hd f s = .next X) : X.Canonical := by
  unfold execSpantag at e
  refine canonical_issue h (fun t ht => ?_) e
  grind [Act.Canonical, canonical_once, canonical_span, canonical_withBlocks, canonical_spanDone]

theorem canonical_execSpanset {s X : State} (h : s.Canonical) (hd f) (e : execSpanset hd f s = .next X) : X.Canonical := by
  unfold execSpanset at e
  refine canonical_issue h (fun t ht => ?_) e
  grind [Act.Canonical, canonical_once, canonical_span, canonical_withBlocks, canonical_spanDone]

theorem canonical_execSpanret {s X : State} (h : s.Canonical) (hd f) (e : execSpanret hd f s = .next X) : X.Canonical := by
  unfold execSpanret at e
  refine canonical_issue h (fun t ht => ?_) e
  grind [Act.Canonical, canonical_once, canonical_span, canonical_withBlocks, State.canonical_lowerRef, canonical_spanDone, State.canonical_foldl]

theorem canonical_execSpanq {s X : State} (h : s.Canonical) (hd f) (e : execSpanq hd f s = .next X) : X.Canonical := by
  unfold execSpanq at e
  refine canonical_issue h (fun t ht => ?_) e
  grind [Act.Canonical, canonical_once, canonical_span, canonical_withBlocks, canonical_spanDone, State.canonical_foldl]

theorem canonical_execRmap {s X : State} (h : s.Canonical) (hd f) (e : execRmap hd f s = .next X) : X.Canonical := by
  unfold execRmap at e
  refine canonical_issue h (fun t ht => ?_) e
  grind [Act.Canonical, canonical_span, State.canonical_checkGlobal, canonical_withBlocks, State.canonical_acquire, State.canonical_updTeam,
    State.canonical_foldl, State.canonical_foldl_fst]

/-! ## Streams -/

/-- The form of the state in which a press word ends. -/
def POut.Canonical : POut → Prop
  | .go s _ | .stay s => s.Canonical
  | .stop _ _ => True

/-- A press word keeps the form where its body does. -/
theorem canonical_press {s X : State} (h : s.Canonical) {f uses body} (hb : ∀ c : PCtx, (body s c).Canonical)
    (e : press f uses body s = .next X) : X.Canonical := by
  unfold press at e
  split at e
  · cases e
  · next x hx =>
    split at e
    · next m core hm hc =>
      have hb := hb ⟨s.cur, x, m, core⟩
      grind [POut.Canonical, State.canonical_haltStream, State.canonical_updStream, State.canonical_updCore]
    · cases e

theorem canonical_after {s : State} (h : s.Canonical) (c : PCtx) : (c.after s).Canonical := h

theorem canonical_refused {go : POut} (hg : go.Canonical) (room refuse) : (refused room refuse go).Canonical := by
  unfold refused
  grind [POut.Canonical]

theorem canonical_usePress {s : State} (h : s.Canonical) (c f clocks) {go : State → POut} (hg : ∀ s : State, s.Canonical → (go s).Canonical) :
    (usePress c f clocks s go).Canonical := by
  unfold usePress
  grind [POut.Canonical, State.canonical_startWakes, State.canonical_updCore]

theorem canonical_multiplyWord {s : State} (h : s.Canonical) (f bitmap c) : (multiplyWord f bitmap s c).Canonical := by
  unfold multiplyWord
  split
  · trivial
  · exact canonical_refused (canonical_usePress h _ _ _ fun s h => canonical_after (State.canonical_setBlock h _ _ _) _) _ _

theorem canonical_execPfmt {s X : State} (h : s.Canonical) (f) (e : execPfmt f s = .next X) : X.Canonical := by
  unfold execPfmt at e
  refine canonical_press h (fun c => ?_) e
  grind [POut.Canonical, canonical_after, canonical_refused, canonical_usePress, canonical_multiplyWord, State.canonical_updStream]

theorem canonical_execPmm {s X : State} (h : s.Canonical) (f) (e : execPmm f s = .next X) : X.Canonical := by
  unfold execPmm at e
  refine canonical_press h (fun c => ?_) e
  grind [POut.Canonical, canonical_after, canonical_refused, canonical_usePress, canonical_multiplyWord]

theorem canonical_execPmms {s X : State} (h : s.Canonical) (f) (e : execPmms f s = .next X) : X.Canonical := by
  unfold execPmms at e
  refine canonical_press h (fun c => ?_) e
  grind [POut.Canonical, canonical_after, canonical_refused, canonical_usePress, canonical_multiplyWord]

theorem canonical_execPnop {s X : State} (h : s.Canonical) (f) (e : execPnop f s = .next X) : X.Canonical := by
  unfold execPnop at e
  refine canonical_press h (fun c => ?_) e
  grind [POut.Canonical, canonical_after, canonical_refused, canonical_usePress, canonical_multiplyWord]

theorem canonical_execPzero {s X : State} (h : s.Canonical) (f) (e : execPzero f s = .next X) : X.Canonical := by
  unfold execPzero at e
  refine canonical_press h (fun c => ?_) e
  grind [POut.Canonical, canonical_after, canonical_refused, canonical_usePress, canonical_multiplyWord, State.canonical_setBlock]

theorem canonical_execPend {s X : State} (h : s.Canonical) (f) (e : execPend f s = .next X) : X.Canonical := by
  unfold execPend at e
  refine canonical_press h (fun c => ?_) e
  grind [POut.Canonical, canonical_after, canonical_refused, canonical_usePress, canonical_multiplyWord, State.canonical_endShare,
    State.canonical_updStream]

theorem canonical_execPjmp {s X : State} (h : s.Canonical) (f) (e : execPjmp f s = .next X) : X.Canonical := by
  unfold execPjmp at e
  refine canonical_press h (fun c => ?_) e
  grind [POut.Canonical, canonical_after, canonical_refused, canonical_usePress, canonical_multiplyWord]

theorem canonical_execPloop {s X : State} (h : s.Canonical) (f) (e : execPloop f s = .next X) : X.Canonical := by
  unfold execPloop at e
  refine canonical_press h (fun c => ?_) e
  grind [POut.Canonical, canonical_after, canonical_refused, canonical_usePress, canonical_multiplyWord, State.canonical_updStream]

theorem canonical_execPloada {s X : State} (h : s.Canonical) (f) (e : execPloada f s = .next X) : X.Canonical := by
  unfold execPloada at e
  refine canonical_press h (fun c => ?_) e
  grind [POut.Canonical, canonical_after, canonical_refused, canonical_usePress, canonical_multiplyWord, State.canonical_setBlock]

theorem canonical_execPstore {s X : State} (h : s.Canonical) (f) (e : execPstore f s = .next X) : X.Canonical := by
  unfold execPstore at e
  refine canonical_press h (fun c => ?_) e
  grind [POut.Canonical, canonical_after, canonical_refused, canonical_usePress, canonical_multiplyWord, State.canonical_pressWrite,
    State.canonical_storeElem, State.canonical_foldl]

theorem canonical_execPtrans {s X : State} (h : s.Canonical) (f) (e : execPtrans f s = .next X) : X.Canonical := by
  unfold execPtrans at e
  refine canonical_press h (fun c => ?_) e
  grind [POut.Canonical, canonical_after, canonical_refused, canonical_usePress, canonical_multiplyWord, State.canonical_setBlock]

theorem canonical_execPexp {s X : State} (h : s.Canonical) (f) (e : execPexp f s = .next X) : X.Canonical := by
  unfold execPexp at e
  refine canonical_press h (fun c => ?_) e
  grind [POut.Canonical, canonical_after, canonical_refused, canonical_usePress, canonical_multiplyWord, State.canonical_setPlanes,
    State.canonical_foldl]

theorem canonical_execProwmax {s X : State} (h : s.Canonical) (f) (e : execProwmax f s = .next X) : X.Canonical := by
  unfold execProwmax at e
  refine canonical_press h (fun c => ?_) e
  grind [POut.Canonical, canonical_after, canonical_refused, canonical_usePress, canonical_multiplyWord, State.canonical_pressWrite,
    State.canonical_foldl]

theorem canonical_execProwsum {s X : State} (h : s.Canonical) (f) (e : execProwsum f s = .next X) : X.Canonical := by
  unfold execProwsum at e
  refine canonical_press h (fun c => ?_) e
  grind [POut.Canonical, canonical_after, canonical_refused, canonical_usePress, canonical_multiplyWord, State.canonical_pressWrite,
    State.canonical_foldl]

theorem canonical_execPscale {s X : State} (h : s.Canonical) (f) (e : execPscale f s = .next X) : X.Canonical := by
  unfold execPscale at e
  refine canonical_press h (fun c => ?_) e
  grind [POut.Canonical, canonical_after, canonical_refused, canonical_usePress, canonical_multiplyWord, State.canonical_setBlock]

theorem canonical_execPbellw {s X : State} (h : s.Canonical) (f) (e : execPbellw f s = .next X) : X.Canonical := by
  unfold execPbellw at e
  refine canonical_press h (fun c => ?_) e
  grind [POut.Canonical, canonical_after, canonical_refused, canonical_usePress, canonical_multiplyWord, State.canonical_updStream,
    State.canonical_acquire]

theorem canonical_execPbellr {s X : State} (h : s.Canonical) (f) (e : execPbellr f s = .next X) : X.Canonical := by
  unfold execPbellr at e
  refine canonical_press h (fun c => ?_) e
  grind [POut.Canonical, canonical_after, canonical_refused, canonical_usePress, canonical_multiplyWord, State.canonical_bellArrive,
    State.canonical_release]

theorem canonical_execPwake {s X : State} (h : s.Canonical) (f) (e : execPwake f s = .next X) : X.Canonical := by
  unfold execPwake at e
  refine canonical_press h (fun c => ?_) e
  grind [POut.Canonical, canonical_after, canonical_refused, canonical_usePress, canonical_multiplyWord, State.canonical_startWakes]

theorem canonical_execPressWordRefused {s X : State} (h : s.Canonical) (w) (e : execPressWordRefused w s = .next X) : X.Canonical := by
  unfold execPressWordRefused at e
  refine canonical_press h (fun c => ?_) e
  grind [POut.Canonical, canonical_after, canonical_refused, canonical_usePress, canonical_multiplyWord]

theorem canonical_execPressBellWake {s X : State} (h : s.Canonical) (sh) (e : execPressBellWake sh s = .next X) : X.Canonical := by
  unfold execPressBellWake at e
  cases e
  grind [State.canonical_updStream]

theorem canonical_execPressIdleGate {s X : State} (h : s.Canonical) (core ix) (e : execPressIdleGate core ix s = .next X) : X.Canonical := by
  unfold execPressIdleGate at e
  grind [State.canonical_updCore]

theorem canonical_execPressWakeComplete {s X : State} (h : s.Canonical) (core ix) (e : execPressWakeComplete core ix s = .next X) : X.Canonical := by
  unfold execPressWakeComplete at e
  cases e
  grind [State.canonical_updCore]

theorem canonical_execStreamDeadlockKill {s X : State} (h : s.Canonical) (sh) (e : execStreamDeadlockKill sh s = .next X) : X.Canonical := by
  unfold execStreamDeadlockKill at e
  cases e
  grind [State.canonical_killStream, State.canonical_logStream]

/-! ## Barriers, bells and rings -/

theorem canonical_execBarInit {s X : State} (h : s.Canonical) (hd f) (e : execBarInit hd f s = .next X) : X.Canonical := by
  unfold execBarInit at e
  refine canonical_issue h (fun t ht => ?_) e
  grind [Act.Canonical, canonical_once, canonical_atBarrier, State.canonical_setBar]

theorem canonical_execBarArrive {s X : State} (h : s.Canonical) (hd f) (e : execBarArrive hd f s = .next X) : X.Canonical := by
  unfold execBarArrive at e
  refine canonical_issue h (fun t ht => ?_) e
  grind [Act.Canonical, canonical_once, canonical_atBarrier, canonical_stopWith, canonical_releaseThen, State.canonical_arriveFor]

theorem canonical_execBarWait {s X : State} (h : s.Canonical) (hd f) (e : execBarWait hd f s = .next X) : X.Canonical := by
  unfold execBarWait at e
  refine canonical_issue h (fun t ht => ?_) e
  grind [Act.Canonical, canonical_once, canonical_atWait, canonical_barrierWait]

theorem canonical_execBarSync {s X : State} (h : s.Canonical) (hd f) (e : execBarSync hd f s = .next X) : X.Canonical := by
  unfold execBarSync at e
  refine canonical_issue h (fun t ht => ?_) e
  grind [Act.Canonical, canonical_once, canonical_atWait, canonical_barrierWait, canonical_stopWith, canonical_releaseThen, State.canonical_updTeam,
    State.canonical_arriveFor]

theorem canonical_execBarDrop {s X : State} (h : s.Canonical) (hd f) (e : execBarDrop hd f s = .next X) : X.Canonical := by
  unfold execBarDrop at e
  refine canonical_issue h (fun t ht => ?_) e
  grind [Act.Canonical, canonical_once, canonical_atBarrier, canonical_releaseThen, State.canonical_dropFor]

theorem canonical_execBellRing {s X : State} (h : s.Canonical) (hd f) (e : execBellRing hd f s = .next X) : X.Canonical := by
  unfold execBellRing at e
  refine canonical_issue h (fun t ht => ?_) e
  grind [Act.Canonical, canonical_once, canonical_releaseThen, State.canonical_bellArrive]

theorem canonical_execBellRingSet {s X : State} (h : s.Canonical) (hd f) (e : execBellRingSet hd f s = .next X) : X.Canonical := by
  unfold execBellRingSet at e
  refine canonical_issue h (fun t ht => ?_) e
  grind [Act.Canonical, canonical_once, State.canonical_updShare]

theorem canonical_execBellWait {s X : State} (h : s.Canonical) (hd f) (e : execBellWait hd f s = .next X) : X.Canonical := by
  unfold execBellWait at e
  refine canonical_issue h (fun t ht => ?_) e
  grind [Act.Canonical, canonical_once, State.canonical_acquire, State.canonical_setTeam]

theorem canonical_execBellWaitNb {s X : State} (h : s.Canonical) (hd f) (e : execBellWaitNb hd f s = .next X) : X.Canonical := by
  unfold execBellWaitNb at e
  refine canonical_issue h (fun t ht => ?_) e
  grind [Act.Canonical, canonical_once, State.canonical_acquireIf, State.canonical_setTeam]

theorem canonical_execRingSend {s X : State} (h : s.Canonical) (hd f) (e : execRingSend hd f s = .next X) : X.Canonical := by
  unfold execRingSend at e
  refine canonical_issue h (fun t ht => ?_) e
  grind [Act.Canonical, canonical_once, canonical_releaseThen, State.canonical_updTeam, State.canonical_setRing, State.canonical_setTeam]

theorem canonical_execRingTake {s X : State} (h : s.Canonical) (hd f) (e : execRingTake hd f s = .next X) : X.Canonical := by
  unfold execRingTake at e
  refine canonical_issue h (fun t ht => ?_) e
  grind [Act.Canonical, canonical_once, State.canonical_acquire, State.canonical_updTeam, State.canonical_setRing, State.canonical_setTeam]

theorem canonical_execRingFree {s X : State} (h : s.Canonical) (hd f) (e : execRingFree hd f s = .next X) : X.Canonical := by
  unfold execRingFree at e
  refine canonical_issue h (fun t ht => ?_) e
  grind [Act.Canonical, canonical_once, canonical_stopWith, canonical_releaseThen, State.canonical_setRing]

theorem canonical_execRingFreeCap {s X : State} (h : s.Canonical) (hd f) (e : execRingFreeCap hd f s = .next X) : X.Canonical := by
  unfold execRingFreeCap at e
  refine canonical_issue h (fun t ht => ?_) e
  grind [Act.Canonical, canonical_once, canonical_stopWith, State.canonical_setRing]

theorem canonical_execRingStat {s X : State} (h : s.Canonical) (hd f) (e : execRingStat hd f s = .next X) : X.Canonical := by
  unfold execRingStat at e
  refine canonical_issue h (fun t ht => ?_) e
  grind [Act.Canonical, canonical_once, State.canonical_setTeam]

/-! ## Try regions -/

theorem canonical_execTry {s X : State} (h : s.Canonical) (hd f) (e : execTry hd f s = .next X) : X.Canonical := by
  unfold execTry at e
  refine canonical_issue h (fun t ht => ?_) e
  grind [Act.Canonical, canonical_once, State.canonical_setTeam, State.canonical_foldl]

theorem canonical_execCommit {s X : State} (h : s.Canonical) (hd f) (e : execCommit hd f s = .next X) : X.Canonical := by
  unfold execCommit at e
  refine canonical_issue h (fun t ht => ?_) e
  grind [Act.Canonical, canonical_once, canonical_stopWith, canonical_releaseThen, State.canonical_performBuffer, State.canonical_updTeam]

theorem canonical_execAbort {s X : State} (h : s.Canonical) (hd f) (e : execAbort hd f s = .next X) : X.Canonical := by
  unfold execAbort at e
  refine canonical_issue h (fun t ht => ?_) e
  grind [Act.Canonical, canonical_once, canonical_stopWith]

/-! ## Reeves -/

theorem canonical_execFinfo {s X : State} (h : s.Canonical) (hd f) (e : execFinfo hd f s = .next X) : X.Canonical := by
  unfold execFinfo at e
  refine canonical_issue h (fun t ht => ?_) e
  grind [Act.Canonical, canonical_once, State.canonical_setTeam]

theorem canonical_execFrd {s X : State} (h : s.Canonical) (hd f) (e : execFrd hd f s = .next X) : X.Canonical := by
  unfold execFrd at e
  refine canonical_issue h (fun t ht => ?_) e
  grind [Act.Canonical, canonical_onFrozen, State.canonical_setTeam]

theorem canonical_execFwr {s X : State} (h : s.Canonical) (hd f) (e : execFwr hd f s = .next X) : X.Canonical := by
  unfold execFwr at e
  refine canonical_issue h (fun t ht => ?_) e
  grind [Act.Canonical, canonical_onFrozen, State.canonical_setTeam, State.canonical_setAccElem, State.canonical_foldl]

theorem canonical_execFpatch {s X : State} (h : s.Canonical) (hd f) (e : execFpatch hd f s = .next X) : X.Canonical := by
  unfold execFpatch at e
  refine canonical_issue h (fun t ht => ?_) e
  grind [Act.Canonical, canonical_onFrozen, State.canonical_setTeam]

theorem canonical_execFresumeRetry {s X : State} (h : s.Canonical) (hd f) (e : execFresumeRetry hd f s = .next X) : X.Canonical := by
  unfold execFresumeRetry at e
  refine canonical_issue h (fun t ht => ?_) e
  grind [Act.Canonical, canonical_onFrozen, canonical_behindWrites, State.canonical_resume]

theorem canonical_execFresumeSkip {s X : State} (h : s.Canonical) (hd f) (e : execFresumeSkip hd f s = .next X) : X.Canonical := by
  unfold execFresumeSkip at e
  refine canonical_issue h (fun t ht => ?_) e
  grind [Act.Canonical, canonical_onFrozen, canonical_badHandle, canonical_behindWrites, State.canonical_resume]

theorem canonical_execFkill {s X : State} (h : s.Canonical) (hd f) (e : execFkill hd f s = .next X) : X.Canonical := by
  unfold execFkill at e
  refine canonical_issue h (fun t ht => ?_) e
  grind [Act.Canonical, canonical_once, canonical_behindWrites, State.canonical_endTeam, canonical_badHandle]

theorem canonical_execFkillGrid {s X : State} (h : s.Canonical) (hd f) (e : execFkillGrid hd f s = .next X) : X.Canonical := by
  unfold execFkillGrid at e
  refine canonical_issue h (fun t ht => ?_) e
  grind [Act.Canonical, canonical_once, canonical_badHandle, canonical_behindWrites, State.canonical_killGrid]

theorem canonical_execFarrive {s X : State} (h : s.Canonical) (hd f) (e : execFarrive hd f s = .next X) : X.Canonical := by
  unfold execFarrive at e
  refine canonical_issue h (fun t ht => ?_) e
  grind [Act.Canonical, canonical_onFrozen, canonical_releaseThen, State.canonical_release, State.canonical_dropFor, State.canonical_arriveFor]

theorem canonical_execFstep {s X : State} (h : s.Canonical) (hd f) (e : execFstep hd f s = .next X) : X.Canonical := by
  unfold execFstep at e
  refine canonical_issue h (fun t ht => ?_) e
  grind [Act.Canonical, canonical_onFrozen, canonical_behindWrites, State.canonical_setTeam, State.canonical_bump, State.canonical_beginStep]

theorem canonical_execFrelease {s X : State} (h : s.Canonical) (hd f) (e : execFrelease hd f s = .next X) : X.Canonical := by
  unfold execFrelease at e
  refine canonical_issue h (fun t ht => ?_) e
  grind [Act.Canonical, canonical_once]

/-! ## Accumulators -/

theorem canonical_execAccrd {s X : State} (h : s.Canonical) (hd f) (e : execAccrd hd f s = .next X) : X.Canonical := by
  unfold execAccrd at e
  refine canonical_issue h (fun t ht => ?_) e
  grind [Act.Canonical, canonical_accChecked, State.canonical_setTeam]

theorem canonical_execAccrdStat {s X : State} (h : s.Canonical) (hd f) (e : execAccrdStat hd f s = .next X) : X.Canonical := by
  unfold execAccrdStat at e
  refine canonical_issue h (fun t ht => ?_) e
  grind [Act.Canonical, canonical_once, State.canonical_setTeam, State.canonical_updAcc]

theorem canonical_execAccwr {s X : State} (h : s.Canonical) (hd f) (e : execAccwr hd f s = .next X) : X.Canonical := by
  unfold execAccwr at e
  refine canonical_issue h (fun t ht => ?_) e
  grind [Act.Canonical, canonical_accChecked, State.canonical_updAcc, State.canonical_foldl]

theorem canonical_execAccrs {s X : State} (h : s.Canonical) (hd f) (e : execAccrs hd f s = .next X) : X.Canonical := by
  unfold execAccrs at e
  refine canonical_issue h (fun t ht => ?_) e
  grind [Act.Canonical, canonical_accChecked, State.canonical_updAcc, State.canonical_foldl]

theorem canonical_execAccmax {s X : State} (h : s.Canonical) (hd f) (e : execAccmax hd f s = .next X) : X.Canonical := by
  unfold execAccmax at e
  refine canonical_issue h (fun t ht => ?_) e
  grind [Act.Canonical, canonical_accChecked, State.canonical_setTeam]

end Sys2Proof.Machine

/-! PROOFS. The actions of the hardware and of the host keep memory's form. -/

namespace Sys2Proof.Machine

open Host

-- proofs that wait for one another's congruence lemmas would each hold a thread
set_option Elab.async false

/-! ## The directory -/

theorem canonical_execClimb {s X : State} (h : s.Canonical) (r) (e : execClimb r s = .next X) : X.Canonical := by
  unfold execClimb at e
  cases e
  grind [State.canonical_climb]

theorem canonical_execFirstTouchRerun {s X : State} (h : s.Canonical) (p set) (e : execFirstTouchRerun p set s = .next X) : X.Canonical := by
  unfold execFirstTouchRerun at e
  cases e
  grind [canonical_rerunTouch]

theorem canonical_execLodgeGrant {s X : State} (h : s.Canonical) (ch) (e : execLodgeGrant ch s = .next X) : X.Canonical := by
  unfold execLodgeGrant at e
  cases e
  grind [State.canonical_setChange, State.canonical_updParish, State.canonical_endLodge]

theorem canonical_execLodgeOffer {s X : State} (h : s.Canonical) (ch) (e : execLodgeOffer ch s = .next X) : X.Canonical := by
  unfold execLodgeOffer at e
  cases e
  split
  · exact h
  · next c hc =>
    split
    · next n hn =>
      extract_lets p ls
      refine State.canonical_ite (State.canonical_endLodge h _ _ _) ?_
      split
      · exact State.canonical_setChange h _ _
      · next m hm =>
        have hx : (s.crossed p m 1 1).Canonical := State.canonical_crossed h _ _ _ _
        split
        · grind [State.canonical_setChange, State.canonical_updPkg, Pkg.count_hbm]
        · extract_lets s1 s2 s3 was s4
          have h2 : s2.Canonical := State.canonical_updPkg hx _ fun _ h => h
          clear_value s2
          have h3 : s3.Canonical := State.canonical_updPkg (State.canonical_takeWay h2 _ _ _) _ fun _ h => h
          clear_value s3
          exact State.canonical_ite (State.canonical_endLodge (State.canonical_lodgeIn hx _ _ _ _) _ _ _)
            (State.canonical_send (State.canonical_setChange (State.canonical_leave h3 _ _ _) _ _) _ _ _ _)
    · exact h

theorem canonical_execLodgeRefusedAll {s X : State} (h : s.Canonical) (ch) (e : execLodgeRefusedAll ch s = .next X) : X.Canonical := by
  unfold execLodgeRefusedAll at e
  cases e
  grind [State.canonical_endLodge, State.canonical_updPkg, State.canonical_askHost, State.canonical_setChange, State.canonical_lodgeFails]

theorem canonical_execFillComplete {s X : State} (h : s.Canonical) (ch) (e : execFillComplete ch s = .next X) : X.Canonical := by
  unfold execFillComplete at e
  cases e
  grind [State.canonical_endMoot, State.canonical_unbusy, State.canonical_dropFill, State.canonical_releaseSet, State.canonical_updRequest,
    State.canonical_copyFrame, State.canonical_updPkg, State.canonical_serveNew, Pkg.count_hbm, Pkg.touch_hbm, Pkg.setTag_hbm, State.canonical_elim,
    State.canonical_iff]

theorem canonical_execMoveComplete {s X : State} (h : s.Canonical) (ch) (e : execMoveComplete ch s = .next X) : X.Canonical := by
  unfold execMoveComplete at e
  cases e
  grind [State.canonical_endMoot, State.canonical_arrive, State.canonical_endLodge, State.canonical_updPkg, State.canonical_unbusy,
    State.canonical_releaseSet, State.canonical_serveNew, Pkg.count_hbm, State.canonical_iff]

theorem canonical_execDirectoryInvalidation {s X : State} (h : s.Canonical) (k) (e : execDirectoryInvalidation k s = .next X) : X.Canonical := by
  unfold execDirectoryInvalidation at e
  cases e
  grind [State.canonical_receive, State.canonical_noteAbsent, State.canonical_dropReplica, State.canonical_updPkg, State.canonical_releaseAt,
    State.canonical_soleMaster, Pkg.count_hbm]

theorem canonical_execDirRebuild {s X : State} (h : s.Canonical) (p) (e : execDirRebuild p s = .next X) : X.Canonical := by
  unfold execDirRebuild at e
  grind [State.canonical_updPkg, State.canonical_rebuild]

theorem canonical_execCkptTimer {s X : State} (h : s.Canonical) (p) (e : execCkptTimer p s = .next X) : X.Canonical := by
  unfold execCkptTimer at e
  grind [State.canonical_glean, State.canonical_crossedPage, State.canonical_copyFrame, State.canonical_setHostBytes, State.canonical_foldl]

theorem canonical_execGleanTimer {s X : State} (h : s.Canonical) (p) (e : execGleanTimer p s = .next X) : X.Canonical := by
  unfold execGleanTimer at e
  grind [State.canonical_askGlean, State.canonical_gleanFrame, State.canonical_foldl]

/-! ## The fabric -/

theorem canonical_execSectorReadRequest {s X : State} (h : s.Canonical) (k) (e : execSectorReadRequest k s = .next X) : X.Canonical := by
  unfold execSectorReadRequest at e
  cases e
  grind [State.canonical_takeReq]

theorem canonical_execPostedWrite {s X : State} (h : s.Canonical) (k) (e : execPostedWrite k s = .next X) : X.Canonical := by
  unfold execPostedWrite at e
  cases e
  grind [State.canonical_takeReq]

theorem canonical_execAtomicRequest {s X : State} (h : s.Canonical) (k) (e : execAtomicRequest k s = .next X) : X.Canonical := by
  unfold execAtomicRequest at e
  cases e
  grind [State.canonical_takeReq]

theorem canonical_execSectorReadReply {s X : State} (h : s.Canonical) (k) (e : execSectorReadReply k s = .next X) : X.Canonical := by
  unfold execSectorReadReply at e
  cases e
  grind [State.canonical_receive, State.canonical_readBack]

theorem canonical_execWriteAck {s X : State} (h : s.Canonical) (k) (e : execWriteAck k s = .next X) : X.Canonical := by
  unfold execWriteAck at e
  cases e
  grind [State.canonical_receive, State.canonical_closeReq, State.canonical_failReq]

theorem canonical_execAtomicReply {s X : State} (h : s.Canonical) (k) (e : execAtomicReply k s = .next X) : X.Canonical := by
  unfold execAtomicReply at e
  cases e
  grind [State.canonical_receive, State.canonical_finishAtomic, State.canonical_failReq]

theorem canonical_execProbeBackgroundReturn {s X : State} (h : s.Canonical) (r) (e : execProbeBackgroundReturn r s = .next X) : X.Canonical := by
  unfold execProbeBackgroundReturn at e
  cases e
  grind [State.canonical_receive, State.canonical_readBack, → State.canonical_serveAt, State.canonical_getD]

theorem canonical_execPackedReadRequest {s X : State} (h : s.Canonical) (k) (e : execPackedReadRequest k s = .next X) : X.Canonical := by
  unfold execPackedReadRequest at e
  cases e
  grind [State.canonical_receive, State.canonical_packedServe, State.canonical_send]

theorem canonical_execPackedReadReply {s X : State} (h : s.Canonical) (k) (e : execPackedReadReply k s = .next X) : X.Canonical := by
  unfold execPackedReadReply at e
  cases e
  grind [State.canonical_receive, State.canonical_readBack, State.canonical_foldl]

theorem canonical_execPackwinExpiry {s X : State} (h : s.Canonical) (p dst) (e : execPackwinExpiry p dst s = .next X) : X.Canonical := by
  unfold execPackwinExpiry at e
  grind [State.canonical_sendPacked]

theorem canonical_execPageMoveData {s X : State} (h : s.Canonical) (k) (e : execPageMoveData k s = .next X) : X.Canonical := by
  unfold execPageMoveData at e
  cases e
  grind [State.canonical_receive, State.canonical_updChange]

theorem canonical_execFabricTimeout {s X : State} (h : s.Canonical) (r) (e : execFabricTimeout r s = .next X) : X.Canonical := by
  unfold execFabricTimeout at e
  cases e
  grind [State.canonical_failReq]

theorem canonical_execHeartbeatSend {s X : State} (h : s.Canonical) (p) (e : execHeartbeatSend p s = .next X) : X.Canonical := by
  unfold execHeartbeatSend at e
  grind [State.canonical_beat]

theorem canonical_execLossNotice {s X : State} (h : s.Canonical) (p lost) (e : execLossNotice p lost s = .next X) : X.Canonical := by
  unfold execLossNotice at e
  grind [State.canonical_lossResponse, State.canonical_updPkg, State.canonical_declareLost, State.canonical_settleRequests, Pkg.setAstat_hbm,
    Pkg.raiseVec_hbm]

theorem canonical_execPackageRejoin {s X : State} (h : s.Canonical) (p lost) (e : execPackageRejoin p lost s = .next X) : X.Canonical := by
  unfold execPackageRejoin at e
  grind [State.canonical_updPkg, State.canonical_rehome, State.canonical_carryOverflow, Pkg.raiseVec_hbm]

theorem canonical_execPortUp {s X : State} (h : s.Canonical) (p port num cabled) (e : execPortUp p port num cabled s = .next X) : X.Canonical := by
  unfold execPortUp at e
  grind [State.canonical_setPkg, State.canonical_resend, State.canonical_beat, Pkg.raiseVec_hbm, State.cells_pkg]

theorem canonical_execPortDown {s X : State} (h : s.Canonical) (p port) (e : execPortDown p port s = .next X) : X.Canonical := by
  unfold execPortDown at e
  grind [State.canonical_resend, State.canonical_setPkg, State.cells_pkg]

/-! ## Launches and pages by word -/

theorem canonical_execAcquire {s X : State} (h : s.Canonical) (hd f) (e : execAcquire hd f s = .next X) : X.Canonical := by
  unfold execAcquire at e
  refine canonical_issue h (fun t ht => ?_) e
  grind [Act.Canonical, canonical_once, State.canonical_setTeam, State.canonical_bump, State.canonical_iff]

theorem canonical_execGiveback {s X : State} (h : s.Canonical) (hd f) (e : execGiveback hd f s = .next X) : X.Canonical := by
  unfold execGiveback at e
  refine canonical_issue h (fun t ht => ?_) e
  grind [Act.Canonical, canonical_once, State.canonical_setTeam]

theorem canonical_execLaunch {s X : State} (h : s.Canonical) (hd f) (e : execLaunch hd f s = .next X) : X.Canonical := by
  unfold execLaunch at e
  refine canonical_issue h (fun t ht => ?_) e
  grind [Act.Canonical, canonical_once, canonical_releaseThen, State.canonical_enqueue, State.canonical_updPkg, State.canonical_updTeam,
    canonical_readChecked]

theorem canonical_execLstat {s X : State} (h : s.Canonical) (hd f) (e : execLstat hd f s = .next X) : X.Canonical := by
  unfold execLstat at e
  refine canonical_issue h (fun t ht => ?_) e
  grind [Act.Canonical, canonical_once, State.canonical_setTeam]

theorem canonical_execTrap {s X : State} (h : s.Canonical) (hd f) (e : execTrap hd f s = .next X) : X.Canonical := by
  unfold execTrap at e
  refine canonical_issue h (fun t ht => ?_) e
  grind [Act.Canonical, canonical_once]

theorem canonical_execRdsr {s X : State} (h : s.Canonical) (hd f) (e : execRdsr hd f s = .next X) : X.Canonical := by
  unfold execRdsr at e
  refine canonical_issue h (fun t ht => ?_) e
  grind [Act.Canonical, canonical_vec, canonical_once, State.canonical_setTeam]

theorem canonical_execWrsr {s X : State} (h : s.Canonical) (hd f) (e : execWrsr hd f s = .next X) : X.Canonical := by
  unfold execWrsr at e
  refine canonical_issue h (fun t ht => ?_) e
  grind [Act.Canonical, canonical_once, State.canonical_setTeam]

theorem canonical_execPgqry {s X : State} (h : s.Canonical) (hd f) (e : execPgqry hd f s = .next X) : X.Canonical := by
  unfold execPgqry at e
  refine canonical_issue h (fun t ht => ?_) e
  grind [Act.Canonical, canonical_once, State.canonical_translate, State.canonical_setTeam]

theorem canonical_execPgctlPin {s X : State} (h : s.Canonical) (hd f) (e : execPgctlPin hd f s = .next X) : X.Canonical := by
  unfold execPgctlPin at e
  refine canonical_issue h (fun t ht => ?_) e
  grind [Act.Canonical, canonical_once, canonical_pgctl]

theorem canonical_execPgctlAttract {s X : State} (h : s.Canonical) (hd f) (e : execPgctlAttract hd f s = .next X) : X.Canonical := by
  unfold execPgctlAttract at e
  refine canonical_issue h (fun t ht => ?_) e
  grind [Act.Canonical, canonical_once, canonical_pgctl]

/-! ## Events of a core -/

theorem canonical_execOpcodeIllegal {s X : State} (h : s.Canonical) (hd op r) (e : execOpcodeIllegal hd op r s = .next X) : X.Canonical := by
  unfold execOpcodeIllegal at e
  refine canonical_issue h (fun t ht => ?_) e
  grind [Act.Canonical]

theorem canonical_execLongLatencyResult {s X : State} (h : s.Canonical) (tk ix lanes) (e : execLongLatencyResult tk ix lanes s = .next X) :
    X.Canonical := by
  unfold execLongLatencyResult at e
  cases e
  grind [State.canonical_takeStop, State.canonical_updTeam]

theorem canonical_execTeamUnpark {s X : State} (h : s.Canonical) (tk) (e : execTeamUnpark tk s = .next X) : X.Canonical := by
  unfold execTeamUnpark at e
  cases e
  grind [State.canonical_acquired, State.canonical_unstall, State.canonical_unpark]

theorem canonical_execSleepExpiry {s X : State} (h : s.Canonical) (tk) (e : execSleepExpiry tk s = .next X) : X.Canonical := by
  unfold execSleepExpiry at e
  cases e
  grind [State.canonical_unpark]

theorem canonical_execGenerationClear {s X : State} (h : s.Canonical) (lvl scope) (e : execGenerationClear lvl scope s = .next X) : X.Canonical := by
  unfold execGenerationClear at e
  cases e
  grind [State.canonical_flashClear]

theorem canonical_execReeveSpawn {s X : State} (h : s.Canonical) (core) (e : execReeveSpawn core s = .next X) : X.Canonical := by
  unfold execReeveSpawn at e
  cases e
  split
  · exact State.canonical_ite (State.canonical_escalateAlone h _) (State.canonical_enlist h _ _)
  · exact h
  · split
    · exact h
    · next st hst =>
      have hk := State.canonical_reeveKernel h core st.ctx
      split
      · grind
      · grind [State.canonical_noReeve]
      · next s1 k pc param hs1 =>
        have h1 : s1.Canonical := by grind
        split
        · exact h1
        · exact State.canonical_updPkg (State.canonical_updCore (State.canonical_startTeam h1 _ _ _) _ _) _ fun _ h => h

theorem canonical_execTeamAdmit {s X : State} (h : s.Canonical) (core) (e : execTeamAdmit core s = .next X) : X.Canonical := by
  unfold execTeamAdmit at e
  cases e
  grind [State.canonical_letIn, State.canonical_withdrawOne]

/-! ## Events of a core -/

theorem canonical_execImpreciseReport {s X : State} (h : s.Canonical) (ix) (e : execImpreciseReport ix s = .next X) : X.Canonical := by
  unfold execImpreciseReport at e
  cases e
  grind [State.canonical_setTeam, State.canonical_updPkg, State.canonical_logEsc, State.canonical_deliver, State.canonical_enlist, Pkg.setFstat_hbm,
    State.canonical_iff]

theorem canonical_execWatchdog {s X : State} (h : s.Canonical) (tk) (e : execWatchdog tk s = .next X) : X.Canonical := by
  unfold execWatchdog at e
  cases e
  grind [State.canonical_updTeam, State.canonical_leaveQueues, State.canonical_escalateReeve, State.canonical_updPkg, Pkg.setFstat_hbm]

/-! ## The scheduler -/

theorem canonical_execQueueDispatch {s X : State} (h : s.Canonical) (p) (e : execQueueDispatch p s = .next X) : X.Canonical := by
  unfold execQueueDispatch at e
  cases e
  grind [State.canonical_admitRecord, State.canonical_foldl, State.canonical_foldl_fst]

theorem canonical_execClusterPlace {s X : State} (h : s.Canonical) (p) (e : execClusterPlace p s = .next X) : X.Canonical := by
  unfold execClusterPlace at e
  cases e
  grind [State.canonical_startCluster]

theorem canonical_execPreemptCluster {s X : State} (h : s.Canonical) (p) (e : execPreemptCluster p s = .next X) : X.Canonical := by
  unfold execPreemptCluster at e
  cases e
  grind [State.canonical_stopCluster]

theorem canonical_execShareImageSave {s X : State} (h : s.Canonical) (p cl) (e : execShareImageSave p cl s = .next X) : X.Canonical := by
  unfold execShareImageSave at e
  cases e
  grind [State.canonical_updShare, State.canonical_setCluster, State.canonical_foldl]

theorem canonical_execClusterResume {s X : State} (h : s.Canonical) (p cl) (e : execClusterResume p cl s = .next X) : X.Canonical := by
  unfold execClusterResume at e
  cases e
  split
  · exact h
  · next c hc =>
    split
    · exact h
    · next g hg =>
      extract_lets ahead wanted
      refine State.canonical_ite h ?_
      split
      · exact h
      · next l hl =>
        extract_lets s1
        have h1 : s1.Canonical := by
          refine State.canonical_foldl h (fun s y h => ?_) _
          extract_lets s2 ts
          have h2 : s2.Canonical := State.canonical_updShare (State.canonical_updCore h _ _) _ fun _ h => h
          clear_value ts s2
          refine State.canonical_foldl h2 (fun s z h => ?_) _
          exact State.canonical_updTeam (State.canonical_bump (State.canonical_rekey (State.canonical_bringUp
            (State.canonical_dropResumed h _ _) _ _) _ _)) _ _
        exact State.canonical_updGrid (State.canonical_bump (State.canonical_setCluster h1 _ _)) _ _

theorem canonical_execPeriodStart {s X : State} (h : s.Canonical) (p q) (e : execPeriodStart p q s = .next X) : X.Canonical := by
  unfold execPeriodStart at e
  grind [State.canonical_setQueue]

theorem canonical_execBudgetExhausted {s X : State} (h : s.Canonical) (p q) (e : execBudgetExhausted p q s = .next X) : X.Canonical := by
  unfold execBudgetExhausted at e
  cases e
  grind [State.canonical_exhaust]

theorem canonical_execEnergyWindow {s X : State} (h : s.Canonical) (p) (e : execEnergyWindow p s = .next X) : X.Canonical := by
  unfold execEnergyWindow at e
  grind [State.canonical_updPkg]

theorem canonical_execMeteringTick {s X : State} (h : s.Canonical) (p nj) (e : execMeteringTick p nj s = .next X) : X.Canonical := by
  unfold execMeteringTick at e
  grind [State.canonical_meter, State.canonical_updPkg, State.canonical_exhaust, State.canonical_foldl, State.canonical_iff]

theorem canonical_execGridComplete {s X : State} (h : s.Canonical) (gk) (e : execGridComplete gk s = .next X) : X.Canonical := by
  unfold execGridComplete at e
  cases e
  grind [State.canonical_gridRelease, State.canonical_writeDone, State.canonical_dropGrid, State.canonical_updPkg, State.canonical_settleGrid,
    Pkg.endTicket_hbm]

/-! ## Registers -/

theorem canonical_execRegisterWrite {s X : State} (h : s.Canonical) (p off v) (e : execRegisterWrite p off v s = .next X) : X.Canonical := by
  unfold execRegisterWrite at e
  cases e
  grind [State.canonical_regWrite]

theorem canonical_execCmdWhileBusy {s X : State} (h : s.Canonical) (p _v) (e : execCmdWhileBusy p _v s = .next X) : X.Canonical := by
  unfold execCmdWhileBusy at e
  cases e
  grind [State.canonical_updPkg]

theorem canonical_execHreqHeadAdvance {s X : State} (h : s.Canonical) (p v) (e : execHreqHeadAdvance p v s = .next X) : X.Canonical := by
  unfold execHreqHeadAdvance at e
  cases e
  refine State.canonical_ite ?_ h
  refine State.canonical_foldl ?_ (fun s st h => State.canonical_askGlean h _ _) _
  apply State.canonical_updPkg h
  exact fun _ h => h

theorem canonical_execMsixUnmask {s X : State} (h : s.Canonical) (p vec v) (e : execMsixUnmask p vec v s = .next X) : X.Canonical := by
  unfold execMsixUnmask at e
  cases e
  grind [State.canonical_updPkg]

theorem canonical_execQueueTailWrite {s X : State} (h : s.Canonical) (p q v) (e : execQueueTailWrite p q v s = .next X) : X.Canonical := by
  unfold execQueueTailWrite at e
  cases e
  grind [State.canonical_setQueue, State.canonical_updPkg, Pkg.raiseVec_hbm]

theorem canonical_execQueueEnWrite {s X : State} (h : s.Canonical) (p q v) (e : execQueueEnWrite p q v s = .next X) : X.Canonical := by
  unfold execQueueEnWrite at e
  cases e
  grind [State.canonical_setQueue]

/-! ## Boot and reset -/

theorem canonical_execColdReset {s X : State} (h : s.Canonical) (p) (e : execColdReset p s = .next X) : X.Canonical := by
  unfold execColdReset at e
  cases e
  grind [State.canonical_resetPkg]

theorem canonical_execHctlWarm {s X : State} (h : s.Canonical) (p) (e : execHctlWarm p s = .next X) : X.Canonical := by
  unfold execHctlWarm at e
  cases e
  grind [State.canonical_resetPkg]

theorem canonical_execHctlGo {s X : State} (h : s.Canonical) (p) (e : execHctlGo p s = .next X) : X.Canonical := by
  unfold execHctlGo at e
  cases e
  grind [State.canonical_updPkg, Pkg.setStage_hbm]

theorem canonical_execBootRom {s X : State} (h : s.Canonical) (p err) (e : execBootRom p err s = .next X) : X.Canonical := by
  unfold execBootRom at e
  cases e
  grind [State.canonical_updPkg, Pkg.setStage_hbm]

theorem canonical_execCxlLinkTrained {s X : State} (h : s.Canonical) (p) (e : execCxlLinkTrained p s = .next X) : X.Canonical := by
  unfold execCxlLinkTrained at e
  cases e
  grind [State.canonical_updPkg, Pkg.setStage_hbm]

theorem State.canonical_setStage {s : State} (h : s.Canonical) (p stage err) : (s.updPkg p (·.setStage stage err)).Canonical :=
  canonical_updPkg_same h p fun k => k.setStage_hbm _ _

theorem canonical_execFwVerify {s X : State} (h : s.Canonical) (p readOk) (e : execFwVerify p readOk s = .next X) : X.Canonical := by
  unfold execFwVerify at e
  cases e
  generalize s.hostBytes _ 2048 = hdr
  refine State.canonical_ite h <| State.canonical_ite (State.canonical_setStage h _ _ _) <| State.canonical_ite (State.canonical_setStage h _ _ _) ?_
  refine State.canonical_ite (State.canonical_setStage h _ _ _) <| State.canonical_ite (State.canonical_setStage h _ _ _) ?_
  exact State.canonical_updPkg_same h p fun k => Pkg.setStage_hbm _ _ _

theorem canonical_execFabricBringup {s X : State} (h : s.Canonical) (p podsize ok) (e : execFabricBringup p podsize ok s = .next X) :
    X.Canonical := by
  unfold execFabricBringup at e
  cases e
  grind [State.canonical_updPkg, Pkg.setStage_hbm]

theorem canonical_execThrottling {s X : State} (h : s.Canonical) (p hot) (e : execThrottling p hot s = .next X) : X.Canonical := by
  unfold execThrottling at e
  cases e
  grind [State.canonical_updPkg]

/-! ## The cellar dies -/

theorem canonical_cellar {s X : State} (h : s.Canonical) {p stack port f home res go} (hg : (go s).Canonical)
    (e : cellar p stack port f home res go s = .next X) : X.Canonical := by
  unfold cellar at e
  grind [State.canonical_owe]

theorem canonical_execLookup {s X : State} (h : s.Canonical) (p stack port f gpn) (e : execLookup p stack port f gpn s = .next X) : X.Canonical := by
  unfold execLookup at e
  refine canonical_cellar h ?_ e
  grind [State.canonical_owe]

theorem canonical_execRd32 {s X : State} (h : s.Canonical) (p stack port f) (e : execRd32 p stack port f s = .next X) : X.Canonical := by
  unfold execRd32 at e
  refine canonical_cellar h ?_ e
  grind [State.canonical_readGranule, State.canonical_owe]

theorem canonical_execWrf32 {s X : State} (h : s.Canonical) (p stack port f data) (e : execWrf32 p stack port f data s = .next X) : X.Canonical := by
  unfold execWrf32 at e
  refine canonical_cellar h ?_ e
  grind [State.canonical_owe, State.canonical_writeGranule]

theorem canonical_execWrm8 {s X : State} (h : s.Canonical) (p stack port f data) (e : execWrm8 p stack port f data s = .next X) : X.Canonical := by
  unfold execWrm8 at e
  refine canonical_cellar h ?_ e
  grind [State.canonical_owe, State.canonical_writeGranule]

theorem canonical_execCellarBadCmd {s X : State} (h : s.Canonical) (p stack port f) (e : execCellarBadCmd p stack port f s = .next X) :
    X.Canonical := by
  unfold execCellarBadCmd at e
  cases e
  grind [State.canonical_owe]

theorem canonical_execCellarHit {s X : State} (h : s.Canonical) (p stack port f pay) (e : execCellarHit p stack port f pay s = .next X) :
    X.Canonical := by
  unfold execCellarHit at e
  cases e
  grind [State.canonical_reply]

theorem canonical_execCellarMiss {s X : State} (h : s.Canonical) (p stack port f pay) (e : execCellarMiss p stack port f pay s = .next X) :
    X.Canonical := by
  unfold execCellarMiss at e
  cases e
  grind [State.canonical_reply]

theorem canonical_execCellarData {s X : State} (h : s.Canonical) (p stack port f pay) (e : execCellarData p stack port f pay s = .next X) :
    X.Canonical := by
  unfold execCellarData at e
  cases e
  grind [State.canonical_reply]

theorem canonical_execCellarDone {s X : State} (h : s.Canonical) (p stack port f pay) (e : execCellarDone p stack port f pay s = .next X) :
    X.Canonical := by
  unfold execCellarDone at e
  cases e
  grind [State.canonical_reply]

theorem canonical_execCellarError {s X : State} (h : s.Canonical) (p stack port f pay) (e : execCellarError p stack port f pay s = .next X) :
    X.Canonical := by
  unfold execCellarError at e
  cases e
  grind [State.canonical_reply]

/-! ## Control words -/

theorem canonical_execBra {s X : State} (h : s.Canonical) (hd f) (e : execBra hd f s = .next X) : X.Canonical := by
  unfold execBra at e
  refine canonical_issue h (fun t ht => ?_) e
  grind [Act.Canonical, canonical_branch]

theorem canonical_execBrx {s X : State} (h : s.Canonical) (hd f) (e : execBrx hd f s = .next X) : X.Canonical := by
  unfold execBrx at e
  refine canonical_issue h (fun t ht => ?_) e
  grind [Act.Canonical, canonical_branch]

theorem canonical_execCall {s X : State} (h : s.Canonical) (hd f) (e : execCall hd f s = .next X) : X.Canonical := by
  unfold execCall at e
  refine canonical_issue h (fun t ht => ?_) e
  grind [Act.Canonical, canonical_branch, canonical_pushing, canonical_leave]

theorem canonical_execRet {s X : State} (h : s.Canonical) (hd f) (e : execRet hd f s = .next X) : X.Canonical := by
  unfold execRet at e
  refine canonical_issue h (fun t ht => ?_) e
  grind [Act.Canonical, canonical_branch, canonical_leave, canonical_illegalAt]

theorem canonical_execIf {s X : State} (h : s.Canonical) (hd f) (e : execIf hd f s = .next X) : X.Canonical := by
  unfold execIf at e
  refine canonical_issue h (fun t ht => ?_) e
  grind [Act.Canonical, canonical_pushing, canonical_leave]

theorem canonical_execElse {s X : State} (h : s.Canonical) (hd f) (e : execElse hd f s = .next X) : X.Canonical := by
  unfold execElse at e
  refine canonical_issue h (fun t ht => ?_) e
  grind [Act.Canonical, canonical_leave, canonical_illegalAt]

theorem canonical_execEndif {s X : State} (h : s.Canonical) (hd f) (e : execEndif hd f s = .next X) : X.Canonical := by
  unfold execEndif at e
  refine canonical_issue h (fun t ht => ?_) e
  grind [Act.Canonical, canonical_leave, canonical_illegalAt]

theorem canonical_execLoop {s X : State} (h : s.Canonical) (hd f) (e : execLoop hd f s = .next X) : X.Canonical := by
  unfold execLoop at e
  refine canonical_issue h (fun t ht => ?_) e
  grind [Act.Canonical, canonical_pushing, canonical_leave]

theorem canonical_execBreak {s X : State} (h : s.Canonical) (hd f) (e : execBreak hd f s = .next X) : X.Canonical := by
  unfold execBreak at e
  refine canonical_issue h (fun t ht => ?_) e
  grind [Act.Canonical, canonical_leaveLoop]

theorem canonical_execCont {s X : State} (h : s.Canonical) (hd f) (e : execCont hd f s = .next X) : X.Canonical := by
  unfold execCont at e
  refine canonical_issue h (fun t ht => ?_) e
  grind [Act.Canonical, canonical_leaveLoop]

theorem canonical_execEndloop {s X : State} (h : s.Canonical) (hd f) (e : execEndloop hd f s = .next X) : X.Canonical := by
  unfold execEndloop at e
  refine canonical_issue h (fun t ht => ?_) e
  grind [Act.Canonical, canonical_leave, canonical_illegalAt]

theorem canonical_execExit {s X : State} (h : s.Canonical) (hd f) (e : execExit hd f s = .next X) : X.Canonical := by
  unfold execExit at e
  refine canonical_issue h (fun t ht => ?_) e
  grind [Act.Canonical, canonical_leave]

theorem canonical_execNop {s X : State} (h : s.Canonical) (hd f) (e : execNop hd f s = .next X) : X.Canonical := by
  unfold execNop at e
  refine canonical_issue h (fun t ht => ?_) e
  grind [Act.Canonical]

theorem canonical_execYield {s X : State} (h : s.Canonical) (hd f) (e : execYield hd f s = .next X) : X.Canonical := by
  unfold execYield at e
  refine canonical_issue h (fun t ht => ?_) e
  grind [Act.Canonical, State.canonical_setTeam]

theorem canonical_execSleep {s X : State} (h : s.Canonical) (hd f) (e : execSleep hd f s = .next X) : X.Canonical := by
  unfold execSleep at e
  refine canonical_issue h (fun t ht => ?_) e
  grind [Act.Canonical, State.canonical_setTeam]

/-! ## The host -/

/-- A command of the host keeps the form where its body does. -/
theorem canonical_command {s X : State} (h : s.Canonical) {p i go} (hg : ∀ k, (go s k).Canonical) (e : command p i go s = .next X) : X.Canonical := by
  unfold command at e
  grind [State.canonical_endCmd]

theorem canonical_execCtxInstall {s X : State} (h : s.Canonical) (p) (e : execCtxInstall p s = .next X) : X.Canonical := by
  unfold execCtxInstall at e
  refine canonical_command h (fun k => ?_) e
  grind [State.canonical_endCmd, State.canonical_dropTlbs, State.canonical_updPkg]

theorem canonical_execTlbInval {s X : State} (h : s.Canonical) (p) (e : execTlbInval p s = .next X) : X.Canonical := by
  unfold execTlbInval at e
  refine canonical_command h (fun k => ?_) e
  grind [State.canonical_endCmd, State.canonical_dropTlbs]

theorem canonical_execPageRefRaise {s X : State} (h : s.Canonical) (p) (e : execPageRefRaise p s = .next X) : X.Canonical := by
  unfold execPageRefRaise at e
  refine canonical_command h (fun k => ?_) e
  grind [State.canonical_endCmd, State.canonical_setParish]

theorem canonical_execPageRefLower {s X : State} (h : s.Canonical) (p) (e : execPageRefLower p s = .next X) : X.Canonical := by
  unfold execPageRefLower at e
  refine canonical_command h (fun k => ?_) e
  grind [State.canonical_endCmd, State.canonical_lowerRef]

theorem canonical_execGpnReissue {s X : State} (h : s.Canonical) (p) (e : execGpnReissue p s = .next X) : X.Canonical := by
  unfold execGpnReissue at e
  refine canonical_command h (fun k => ?_) e
  grind [State.canonical_endCmd, State.canonical_retryHeld, State.canonical_updPkg, State.canonical_clearLost]

theorem canonical_execStreamCtlKill {s X : State} (h : s.Canonical) (p) (e : execStreamCtlKill p s = .next X) : X.Canonical := by
  unfold execStreamCtlKill at e
  refine canonical_command h (fun k => ?_) e
  grind [canonical_onStream, State.canonical_endCmd, State.canonical_killStream]

theorem canonical_execStreamCtlRestart {s X : State} (h : s.Canonical) (p) (e : execStreamCtlRestart p s = .next X) : X.Canonical := by
  unfold execStreamCtlRestart at e
  refine canonical_command h (fun k => ?_) e
  grind [canonical_onStream, State.canonical_endCmd, State.canonical_updStream]

theorem canonical_execTeamCtlKill {s X : State} (h : s.Canonical) (p) (e : execTeamCtlKill p s = .next X) : X.Canonical := by
  unfold execTeamCtlKill at e
  refine canonical_command h (fun k => ?_) e
  grind [canonical_onEscalated, State.canonical_endCmd, State.canonical_endTeam]

theorem canonical_execTeamCtlRetry {s X : State} (h : s.Canonical) (p) (e : execTeamCtlRetry p s = .next X) : X.Canonical := by
  unfold execTeamCtlRetry at e
  refine canonical_command h (fun k => ?_) e
  grind [canonical_onEscalated, State.canonical_endCmd, State.canonical_resume]

theorem canonical_execTeamCtlSkip {s X : State} (h : s.Canonical) (p) (e : execTeamCtlSkip p s = .next X) : X.Canonical := by
  unfold execTeamCtlSkip at e
  refine canonical_command h (fun k => ?_) e
  grind [canonical_onEscalated, State.canonical_endCmd, State.canonical_resume]

theorem canonical_execTeamCtlStep {s X : State} (h : s.Canonical) (p) (e : execTeamCtlStep p s = .next X) : X.Canonical := by
  unfold execTeamCtlStep at e
  refine canonical_command h (fun k => ?_) e
  grind [canonical_onEscalated, State.canonical_beginStep, State.canonical_updPkg]

theorem canonical_execReply {s X : State} (h : s.Canonical) (p) (e : execReply p s = .next X) : X.Canonical := by
  unfold execReply at e
  refine canonical_command h (fun k => ?_) e
  grind [State.canonical_endCmd, → State.canonical_applyReply, State.canonical_updPkg]

theorem canonical_execDirGrant {s X : State} (h : s.Canonical) (p) (e : execDirGrant p s = .next X) : X.Canonical := by
  unfold execDirGrant at e
  refine canonical_command h (fun k => ?_) e
  grind [State.canonical_endCmd, State.canonical_updPkg, State.canonical_retryHeld]

theorem canonical_execAttest {s X : State} (h : s.Canonical) (p) (e : execAttest p s = .next X) : X.Canonical := by
  unfold execAttest at e
  refine canonical_command h (fun k => ?_) e
  grind [State.canonical_endCmd, State.canonical_bump, State.canonical_setHostBytes]

theorem canonical_execCmdUnknown {s X : State} (h : s.Canonical) (p) (e : execCmdUnknown p s = .next X) : X.Canonical := by
  unfold execCmdUnknown at e
  refine canonical_command h (fun k => ?_) e
  grind [State.canonical_endCmd]

theorem canonical_execWindowRead {s X : State} (h : s.Canonical) (p off n) (e : execWindowRead p off n s = .next X) : X.Canonical := by
  unfold execWindowRead at e
  cases e
  grind [State.canonical_windowCheck, State.canonical_windowGo, State.canonical_iff]

theorem canonical_execWindowWrite {s X : State} (h : s.Canonical) (p off data) (e : execWindowWrite p off data s = .next X) : X.Canonical := by
  unfold execWindowWrite at e
  cases e
  grind [State.canonical_windowCheck, State.canonical_windowGo, State.canonical_iff]

end Sys2Proof.Machine

/-! PROOFS. Every instruction, every agent and every step keep memory's form (log 1, log 4). -/

namespace Sys2Proof.Machine

open Host

-- proofs that wait for one another's congruence lemmas would each hold a thread
set_option Elab.async false

/-- Every instruction and every action of the hardware keeps the form. -/
theorem canonical_exec {s X : State} (h : s.Canonical) (i) (e : exec i s = .next X) : X.Canonical := by
  cases i with
  | iadd hd _ | iaddc hd _ | isub hd _ | isubb hd _ | imul hd _ | imulhi hd _ | imad hd _ | imadw hd _ | imin hd _ | imax hd _ | iabs hd _
  | logic hd _ | sel hd _ | icmp hd _ | lea hd _ | shl hd _ | shr hd _ | sar hd _ | rotl hd _ | fshl hd _ | bfx hd _ | bfi hd _ | popc hd _
  | clz hd _ | ffs hd _ | brev hd _ | iaddImm hd _ | imulImm hd _ | iminImm hd _ | imaxImm hd _ | shlImm hd _ | shrImm hd _ | sarImm hd _
  | rotlImm hd _ | fadd hd _ | fmul hd _ | ffma hd _ | fmin hd _ | fmax hd _ | fcmp hd _ | fclass hd _ | fscale hd _ | fdot2 hd _
  | hadd2 hd _ | hmul2 hd _ | hfma2 hd _ | faddImm hd _ | fmulImm hd _ | fminImm hd _ | fmaxImm hd _ | cvt hd _ | pack4Pack hd _
  | pack4Unlo hd _ | pack4Unhi hd _ | blkscaleScale hd _ | blkscaleApply hd _ | klogic hd _ | kmov hd _ | vbcast hd _ =>
    refine canonical_issue h (fun t _ => ?_) e
    exact canonical_vec h _ _ _ _ _
  | frcp hd _ | frsq hd _ | fsqrt hd _ | fexp2 hd _ | flog2 hd _ | fsin hd _ | fcos hd _ | plane hd _ | unplane hd _ | shfl hd _
  | voteAll hd _ | voteAny hd _ | voteBallot hd _ | voteUni hd _ | matchK hd _ | readlane hd _ | redg hd _ | redt hd _ | scang hd _ =>
    refine canonical_issue h (fun t _ => ?_) e
    exact canonical_vecLong h _ _ _ _
  | sadd hd _ | ssub hd _ | smul hd _ | slogic hd _ | sshl hd _ | sshr hd _ | scmp hd _ | smin hd _ | smax hd _ | smov hd _ | smovCat hd _
  | tstat hd _ =>
    refine canonical_issue h (fun t _ => ?_) e
    exact canonical_toS h _ _ _ _ _ _
  | clauseHeader f => exact canonical_execClauseHeader h f e
  | opcodeIllegal hd op rest => exact canonical_execOpcodeIllegal h hd op rest e
  | bra hd f => exact canonical_execBra h hd f e
  | brx hd f => exact canonical_execBrx h hd f e
  | callK hd f => exact canonical_execCall h hd f e
  | ret hd f => exact canonical_execRet h hd f e
  | ifK hd f => exact canonical_execIf h hd f e
  | elseK hd f => exact canonical_execElse h hd f e
  | endif hd f => exact canonical_execEndif h hd f e
  | loopK hd f => exact canonical_execLoop h hd f e
  | breakK hd f => exact canonical_execBreak h hd f e
  | contK hd f => exact canonical_execCont h hd f e
  | endloop hd f => exact canonical_execEndloop h hd f e
  | exitK hd f => exact canonical_execExit h hd f e
  | nop hd f => exact canonical_execNop h hd f e
  | yieldK hd f => exact canonical_execYield h hd f e
  | sleepK hd f => exact canonical_execSleep h hd f e
  | ld hd f => exact canonical_execLd h hd f e
  | ldProbe hd f => exact canonical_execLdProbe h hd f e
  | st hd f => exact canonical_execSt h hd f e
  | lds hd f => exact canonical_execLds h hd f e
  | sts hd f => exact canonical_execSts h hd f e
  | ldu hd f => exact canonical_execLdu h hd f e
  | stu hd f => exact canonical_execStu h hd f e
  | pref hd f => exact canonical_execPref h hd f e
  | fetch hd f => exact canonical_execFetch h hd f e
  | cctlWb hd f => exact canonical_execCctlWb h hd f e
  | cctlInv hd f => exact canonical_execCctlInv h hd f e
  | cctlDiscard hd f => exact canonical_execCctlDiscard h hd f e
  | fence hd f => exact canonical_execFence h hd f e
  | atomCas hd f => exact canonical_execAtomCas h hd f e
  | atomsCas hd f => exact canonical_execAtomsCas h hd f e
  | atom hd op f => exact canonical_execAtom h hd op f e
  | redK hd op f => exact canonical_execRed h hd op f e
  | atoms hd op f => exact canonical_execAtoms h hd op f e
  | reds hd op f => exact canonical_execReds h hd op f e
  | cpy hd f => exact canonical_execCpy h hd f e
  | cpyt hd f => exact canonical_execCpyt h hd f e
  | gath hd f => exact canonical_execGath h hd f e
  | scat hd f => exact canonical_execScat h hd f e
  | shape hd f => exact canonical_execShape h hd f e
  | batch hd f => exact canonical_execBatch h hd f e
  | cwait hd f => exact canonical_execCwait h hd f e
  | cstat hd f => exact canonical_execCstat h hd f e
  | barInit hd f => exact canonical_execBarInit h hd f e
  | barArrive hd f => exact canonical_execBarArrive h hd f e
  | barWait hd f => exact canonical_execBarWait h hd f e
  | barSync hd f => exact canonical_execBarSync h hd f e
  | barDrop hd f => exact canonical_execBarDrop h hd f e
  | bellRing hd f => exact canonical_execBellRing h hd f e
  | bellRingSet hd f => exact canonical_execBellRingSet h hd f e
  | bellWait hd f => exact canonical_execBellWait h hd f e
  | bellWaitNb hd f => exact canonical_execBellWaitNb h hd f e
  | ringSend hd f => exact canonical_execRingSend h hd f e
  | ringTake hd f => exact canonical_execRingTake h hd f e
  | ringFree hd f => exact canonical_execRingFree h hd f e
  | ringFreeCap hd f => exact canonical_execRingFreeCap h hd f e
  | ringStat hd f => exact canonical_execRingStat h hd f e
  | tryK hd f => exact canonical_execTry h hd f e
  | commit hd f => exact canonical_execCommit h hd f e
  | abortK hd f => exact canonical_execAbort h hd f e
  | spanapp hd f => exact canonical_execSpanapp h hd f e
  | spantag hd f => exact canonical_execSpantag h hd f e
  | spanset hd f => exact canonical_execSpanset h hd f e
  | spanret hd f => exact canonical_execSpanret h hd f e
  | spanq hd f => exact canonical_execSpanq h hd f e
  | rmap hd f => exact canonical_execRmap h hd f e
  | finfo hd f => exact canonical_execFinfo h hd f e
  | frd hd f => exact canonical_execFrd h hd f e
  | fwr hd f => exact canonical_execFwr h hd f e
  | fpatch hd f => exact canonical_execFpatch h hd f e
  | fresumeRetry hd f => exact canonical_execFresumeRetry h hd f e
  | fresumeSkip hd f => exact canonical_execFresumeSkip h hd f e
  | fkill hd f => exact canonical_execFkill h hd f e
  | fkillGrid hd f => exact canonical_execFkillGrid h hd f e
  | farrive hd f => exact canonical_execFarrive h hd f e
  | fstep hd f => exact canonical_execFstep h hd f e
  | frelease hd f => exact canonical_execFrelease h hd f e
  | acquire hd f => exact canonical_execAcquire h hd f e
  | giveback hd f => exact canonical_execGiveback h hd f e
  | launch hd f => exact canonical_execLaunch h hd f e
  | lstat hd f => exact canonical_execLstat h hd f e
  | trap hd f => exact canonical_execTrap h hd f e
  | rdsr hd f => exact canonical_execRdsr h hd f e
  | wrsr hd f => exact canonical_execWrsr h hd f e
  | pgqry hd f => exact canonical_execPgqry h hd f e
  | pgctlPin hd f => exact canonical_execPgctlPin h hd f e
  | pgctlAttract hd f => exact canonical_execPgctlAttract h hd f e
  | accrd hd f => exact canonical_execAccrd h hd f e
  | accrdStat hd f => exact canonical_execAccrdStat h hd f e
  | accwr hd f => exact canonical_execAccwr h hd f e
  | accrs hd f => exact canonical_execAccrs h hd f e
  | accmax hd f => exact canonical_execAccmax h hd f e
  | pnop f => exact canonical_execPnop h f e
  | pzero f => exact canonical_execPzero h f e
  | pfmt f => exact canonical_execPfmt h f e
  | pmm f => exact canonical_execPmm h f e
  | pmms f => exact canonical_execPmms h f e
  | ploada f => exact canonical_execPloada h f e
  | pstore f => exact canonical_execPstore h f e
  | pexp f => exact canonical_execPexp h f e
  | prowmax f => exact canonical_execProwmax h f e
  | prowsum f => exact canonical_execProwsum h f e
  | pscale f => exact canonical_execPscale h f e
  | ptrans f => exact canonical_execPtrans h f e
  | pbellw f => exact canonical_execPbellw h f e
  | pbellr f => exact canonical_execPbellr h f e
  | pjmp f => exact canonical_execPjmp h f e
  | ploop f => exact canonical_execPloop h f e
  | pwake f => exact canonical_execPwake h f e
  | pend f => exact canonical_execPend h f e
  | pressWordRefused w => exact canonical_execPressWordRefused h w e
  | lookup p stack port f gpn => exact canonical_execLookup h p stack port f gpn e
  | rd32 p stack port f => exact canonical_execRd32 h p stack port f e
  | wrf32 p stack port f data => exact canonical_execWrf32 h p stack port f data e
  | wrm8 p stack port f data => exact canonical_execWrm8 h p stack port f data e
  | cellarBadCmd p stack port f => exact canonical_execCellarBadCmd h p stack port f e
  | cellarHit p stack port f payload => exact canonical_execCellarHit h p stack port f payload e
  | cellarMiss p stack port f payload => exact canonical_execCellarMiss h p stack port f payload e
  | cellarData p stack port f payload => exact canonical_execCellarData h p stack port f payload e
  | cellarDone p stack port f payload => exact canonical_execCellarDone h p stack port f payload e
  | cellarError p stack port f payload => exact canonical_execCellarError h p stack port f payload e
  | ctxInstall p => exact canonical_execCtxInstall h p e
  | tlbInval p => exact canonical_execTlbInval h p e
  | pageRefRaise p => exact canonical_execPageRefRaise h p e
  | pageRefLower p => exact canonical_execPageRefLower h p e
  | gpnReissue p => exact canonical_execGpnReissue h p e
  | streamCtlKill p => exact canonical_execStreamCtlKill h p e
  | streamCtlRestart p => exact canonical_execStreamCtlRestart h p e
  | teamCtlKill p => exact canonical_execTeamCtlKill h p e
  | teamCtlRetry p => exact canonical_execTeamCtlRetry h p e
  | teamCtlSkip p => exact canonical_execTeamCtlSkip h p e
  | teamCtlStep p => exact canonical_execTeamCtlStep h p e
  | replyK p => exact canonical_execReply h p e
  | dirGrant p => exact canonical_execDirGrant h p e
  | attest p => exact canonical_execAttest h p e
  | cmdUnknown p => exact canonical_execCmdUnknown h p e
  | cmdWhileBusy p v => exact canonical_execCmdWhileBusy h p v e
  | hctlGo p => exact canonical_execHctlGo h p e
  | hctlWarm p => exact canonical_execHctlWarm h p e
  | queueTailWrite p q v => exact canonical_execQueueTailWrite h p q v e
  | queueEnWrite p q v => exact canonical_execQueueEnWrite h p q v e
  | registerWrite p off v => exact canonical_execRegisterWrite h p off v e
  | hreqHeadAdvance p v => exact canonical_execHreqHeadAdvance h p v e
  | msixUnmask p vec v => exact canonical_execMsixUnmask h p vec v e
  | pressBellWake sh => exact canonical_execPressBellWake h sh e
  | pressIdleGate core ix => exact canonical_execPressIdleGate h core ix e
  | pressWakeComplete core ix => exact canonical_execPressWakeComplete h core ix e
  | longLatencyResult tk ix lanes => exact canonical_execLongLatencyResult h tk ix lanes e
  | teamUnpark tk => exact canonical_execTeamUnpark h tk e
  | sleepExpiry tk => exact canonical_execSleepExpiry h tk e
  | transferBegin x => exact canonical_execTransferBegin h x e
  | transferComplete x => exact canonical_execTransferComplete h x e
  | probeBackgroundReturn r => exact canonical_execProbeBackgroundReturn h r e
  | generationClear lvl scope => exact canonical_execGenerationClear h lvl scope e
  | reeveSpawn core => exact canonical_execReeveSpawn h core e
  | teamAdmit core => exact canonical_execTeamAdmit h core e
  | impreciseReport ix => exact canonical_execImpreciseReport h ix e
  | watchdog tk => exact canonical_execWatchdog h tk e
  | streamDeadlockKill sh => exact canonical_execStreamDeadlockKill h sh e
  | queueDispatch p => exact canonical_execQueueDispatch h p e
  | clusterPlace p => exact canonical_execClusterPlace h p e
  | preemptCluster p => exact canonical_execPreemptCluster h p e
  | shareImageSave p cl => exact canonical_execShareImageSave h p cl e
  | clusterResume p cl => exact canonical_execClusterResume h p cl e
  | periodStart p q => exact canonical_execPeriodStart h p q e
  | budgetExhausted p q => exact canonical_execBudgetExhausted h p q e
  | energyWindow p => exact canonical_execEnergyWindow h p e
  | meteringTick p nj => exact canonical_execMeteringTick h p nj e
  | gridComplete g => exact canonical_execGridComplete h g e
  | climb r => exact canonical_execClimb h r e
  | firstTouchRerun p set => exact canonical_execFirstTouchRerun h p set e
  | lodgeOffer ch => exact canonical_execLodgeOffer h ch e
  | lodgeRefusedAll ch => exact canonical_execLodgeRefusedAll h ch e
  | lodgeGrant ch => exact canonical_execLodgeGrant h ch e
  | fillComplete ch => exact canonical_execFillComplete h ch e
  | moveComplete ch => exact canonical_execMoveComplete h ch e
  | directoryInvalidation k => exact canonical_execDirectoryInvalidation h k e
  | dirRebuild p => exact canonical_execDirRebuild h p e
  | ckptTimer p => exact canonical_execCkptTimer h p e
  | gleanTimer p => exact canonical_execGleanTimer h p e
  | sectorReadRequest k => exact canonical_execSectorReadRequest h k e
  | sectorReadReply k => exact canonical_execSectorReadReply h k e
  | postedWrite k => exact canonical_execPostedWrite h k e
  | writeAck k => exact canonical_execWriteAck h k e
  | atomicRequest k => exact canonical_execAtomicRequest h k e
  | atomicReply k => exact canonical_execAtomicReply h k e
  | packedReadRequest k => exact canonical_execPackedReadRequest h k e
  | packedReadReply k => exact canonical_execPackedReadReply h k e
  | packwinExpiry p dst => exact canonical_execPackwinExpiry h p dst e
  | pageMoveData k => exact canonical_execPageMoveData h k e
  | fabricTimeout r => exact canonical_execFabricTimeout h r e
  | heartbeatSend p => exact canonical_execHeartbeatSend h p e
  | lossNotice p lost => exact canonical_execLossNotice h p lost e
  | packageRejoin p lost => exact canonical_execPackageRejoin h p lost e
  | portUp p port num cabled => exact canonical_execPortUp h p port num cabled e
  | portDown p port => exact canonical_execPortDown h p port e
  | coldReset p => exact canonical_execColdReset h p e
  | bootRom p err => exact canonical_execBootRom h p err e
  | cxlLinkTrained p => exact canonical_execCxlLinkTrained h p e
  | fwVerify p readOk => exact canonical_execFwVerify h p readOk e
  | fabricBringup p podsize ok => exact canonical_execFabricBringup h p podsize ok e
  | windowRead p off n => exact canonical_execWindowRead h p off n e
  | windowWrite p off data => exact canonical_execWindowWrite h p off data e
  | throttling p hot => exact canonical_execThrottling h p hot e

/-! ## Agents -/

theorem State.canonical_tick {s : State} (h : s.Canonical) : s.tick.Canonical := by
  have h0 : State.Canonical { s with now := s.now + 1 } := h
  unfold State.tick
  refine canonical_foldl h0 (fun s e h => ?_) _
  split
  · next s1 h1 =>
    have h1 := canonical_execCkptTimer h _ h1
    split
    · next s2 h2 => exact canonical_execGleanTimer h1 _ h2
    · exact h1
  · exact h

theorem canonical_reaped {X : State} {tk : Nat} {r : Res} (hr : ∀ Y, r = .next Y → Y.Canonical) (e : reaped tk r = .next X) : X.Canonical := by
  unfold reaped at e
  split at e
  · cases e
    exact State.canonical_reap (hr _ rfl) _
  · exact hr X e

theorem canonical_trimmed {X : State} {r : Res} (hr : ∀ Y, r = .next Y → Y.Canonical) (e : trimmed r = .next X) : X.Canonical := by
  unfold trimmed at e
  split at e
  · cases e
    exact State.canonical_trim (hr _ rfl)
  · exact hr X e

theorem canonical_stepTeam {s X : State} (h : s.Canonical) (tk) (e : stepTeam tk s = .next X) : X.Canonical := by
  have h0 : State.Canonical { s with cur := tk } := h
  unfold stepTeam at e
  generalize ({ s with cur := tk } : State) = s at h0 e
  dsimp only at e
  split at e
  · cases e
    exact h0
  · next t ht =>
    split at e
    · cases e
      exact h0
    · split at e
      · refine canonical_reaped (fun Y hY => ?_) e
        grind [Act.Canonical, State.canonical_takeSlot, State.canonical_fetch, State.canonical_updTeam, Act.canonical_finish, → canonical_exec]
      · rw [id_eq] at e
        grind [Act.Canonical, State.canonical_takeSlot, State.canonical_fetch, State.canonical_updTeam, Act.canonical_finish, → canonical_exec]

theorem canonical_stepStream {s X : State} (h : s.Canonical) (sh) (e : stepStream sh s = .next X) : X.Canonical := by
  have h0 : State.Canonical { s with cur := sh } := h
  unfold stepStream at e
  generalize ({ s with cur := sh } : State) = s at h0 e
  grind [State.canonical_asHardware, State.canonical_fetch, State.canonical_haltStream, → canonical_exec]

theorem canonical_actAgent {s X : State} (h : s.Canonical) (a) (e : actAgent a s = .next X) : X.Canonical := by
  cases a with
  | team tk => exact canonical_stepTeam h tk e
  | stream sh => exact canonical_stepStream h sh e
  | event i => exact canonical_exec h i e
  | evict lvl key => cases e; exact State.canonical_evictLine h lvl key
  | dropTlb core ix => cases e; exact State.canonical_updCore h core _
  | dropTlb2 p ix => cases e; exact State.canonical_evictTlb2 h p ix
  | bitError p g symbol => cases e; exact State.canonical_strike h p g symbol

/-! ## What the hardware does of itself -/

/-- A step that keeps the canonical form. -/
def KeepsForm (f : State → Res) : Prop := ∀ s X : State, s.Canonical → f s = .next X → X.Canonical

theorem keepsForm_stepPacket (k x) : KeepsForm (stepPacket k x) := by
  intro s X h e
  cases x with
  | readReq r => exact canonical_execSectorReadRequest h k e
  | readReply r bs bad => exact canonical_execSectorReadReply h k e
  | write r => exact canonical_execPostedWrite h k e
  | ack r bad => exact canonical_execWriteAck h k e
  | atomReq r => exact canonical_execAtomicRequest h k e
  | atomReply r vs bad => exact canonical_execAtomicReply h k e
  | packReq rs => exact canonical_execPackedReadRequest h k e
  | packReply l => exact canonical_execPackedReadReply h k e
  | inval g => exact canonical_execDirectoryInvalidation h k e
  | pageData ch => exact canonical_execPageMoveData h k e

theorem keepsForm_bootStep (p) : KeepsForm (bootStep p) := by
  intro s X h e
  unfold bootStep at e
  split at e
  · exact canonical_execBootRom h p 0 e
  · exact canonical_execBootRom h p 0 e
  · exact canonical_execCxlLinkTrained h p e
  · exact canonical_execFwVerify h p true e
  · cases e
    exact h

theorem keepsForm_commandStep (p) : KeepsForm (commandStep p) := by
  intro s X h e
  unfold commandStep at e
  dsimp only at e
  split at e
  · cases e
    exact h
  · exact canonical_exec h _ e

theorem keepsForm_coreEvents (s : State) : ∀ f ∈ coreEvents s, KeepsForm f := by
  unfold coreEvents
  simp only [List.mem_append, List.mem_flatMap, List.mem_map, List.mem_range, List.mem_cons, List.not_mem_nil, or_false]
  rintro f (((((⟨e, -, i, -, rfl⟩ | ⟨e, -, rfl | rfl | rfl⟩) | ⟨e, -, rfl | rfl⟩) | ⟨e, -, rfl | rfl | ⟨i, -, rfl | rfl⟩⟩) | ⟨e, -,
    rfl | rfl⟩) | ⟨i, -, rfl⟩)
    s X h e
  · exact canonical_execLongLatencyResult h _ _ _ e
  · exact canonical_execTeamUnpark h _ e
  · exact canonical_execSleepExpiry h _ e
  · exact canonical_execWatchdog h _ e
  · exact canonical_execPressBellWake h _ e
  · exact canonical_execStreamDeadlockKill h _ e
  · exact canonical_execReeveSpawn h _ e
  · exact canonical_execTeamAdmit h _ e
  · exact canonical_execPressWakeComplete h _ _ e
  · exact canonical_execPressIdleGate h _ _ e
  · exact canonical_execTransferBegin h _ e
  · exact canonical_execTransferComplete h _ e
  · exact canonical_execImpreciseReport h _ e

theorem keepsForm_fabricEvents (s : State) : ∀ f ∈ fabricEvents s, KeepsForm f := by
  unfold fabricEvents
  simp only [List.mem_append, List.mem_flatMap, List.mem_map, List.mem_cons, List.not_mem_nil, or_false]
  rintro f (((⟨e, -, rfl⟩ | ⟨e, -, rfl | rfl | rfl | rfl | rfl⟩) | ⟨e, -, rfl | rfl | rfl⟩) |
    ⟨e, -, ((⟨w, -, rfl⟩ | ⟨g, -, rfl⟩) | rfl | rfl) | ⟨x, -, rfl | rfl⟩⟩) s X h e
  · exact keepsForm_stepPacket _ _ s X h e
  · exact canonical_execFillComplete h _ e
  · exact canonical_execMoveComplete h _ e
  · exact canonical_execLodgeGrant h _ e
  · exact canonical_execLodgeOffer h _ e
  · exact canonical_execLodgeRefusedAll h _ e
  · exact canonical_execClimb h _ e
  · exact canonical_execProbeBackgroundReturn h _ e
  · exact canonical_execFabricTimeout h _ e
  · exact canonical_execFirstTouchRerun h _ _ e
  · exact canonical_execPackwinExpiry h _ _ e
  · exact canonical_execDirRebuild h _ e
  · exact canonical_execHeartbeatSend h _ e
  · exact canonical_execLossNotice h _ _ e
  · exact canonical_execPackageRejoin h _ _ e

theorem keepsForm_packageEvents (p : Nat) (s : State) : ∀ f ∈ packageEvents p s, KeepsForm f := by
  unfold packageEvents
  simp only [List.mem_append, List.mem_flatMap, List.mem_map, List.mem_cons, List.not_mem_nil, or_false]
  rintro f (((((rfl | rfl | rfl | rfl) | ⟨q, -, rfl | rfl⟩) | rfl | rfl | rfl) | ⟨c, -, rfl | rfl⟩) | ⟨g, -, rfl⟩) s X h e
  · exact keepsForm_bootStep p s X h e
  · exact keepsForm_commandStep p s X h e
  · exact canonical_execEnergyWindow h _ e
  · exact canonical_execMeteringTick h _ _ e
  · exact canonical_execPeriodStart h _ _ e
  · exact canonical_execBudgetExhausted h _ _ e
  · exact canonical_execQueueDispatch h _ e
  · exact canonical_execClusterPlace h _ e
  · exact canonical_execPreemptCluster h _ e
  · exact canonical_execShareImageSave h _ _ e
  · exact canonical_execClusterResume h _ _ e
  · exact canonical_execGridComplete h _ e

theorem canonical_firstChange {s X : State} (h : s.Canonical) (fs : List (State → Res)) (hf : ∀ f ∈ fs, KeepsForm f)
    (e : firstChange s fs = some (.next X)) : X.Canonical := by
  induction fs with
  | nil => cases e
  | cons f fs ih =>
    unfold firstChange at e
    split at e
    · next s1 h1 =>
      split at e
      · exact ih (fun g hg => hf g (List.mem_cons_of_mem _ hg)) e
      · cases e
        exact hf f List.mem_cons_self s _ h h1
    · exact hf f List.mem_cons_self s X h (Option.some.inj e)

theorem canonical_idleAct {s X : State} (h : s.Canonical) (e : idleAct s = .next X) : X.Canonical := by
  unfold idleAct at e
  dsimp only at e
  split at e
  · next r hr =>
    subst e
    refine canonical_firstChange h _ (fun f hf => ?_) hr
    simp only [List.mem_append, List.mem_flatMap] at hf
    rcases hf with (hf | hf) | ⟨p, -, hf⟩
    · exact keepsForm_coreEvents s f hf
    · exact keepsForm_fabricEvents s f hf
    · exact keepsForm_packageEvents p s f hf
  · have ht := State.canonical_tick h
    split at e
    · split at e
      · exact canonical_stepTeam ht _ e
      · exact canonical_stepStream ht _ e
    · exact canonical_stepTeam ht _ e
    · exact canonical_stepStream ht _ e
    · cases e
      exact ht

/-- One step of any agent keeps the form. -/
theorem canonical_step {s X : State} (h : s.Canonical) (e : step s = .next X) : X.Canonical := by
  unfold step at e
  split at e
  · next dt a rest ha =>
    have h0 : State.Canonical { s with now := s.now + dt, agenda := rest } := h
    exact canonical_trimmed (fun Y => canonical_actAgent h0 a) e
  · exact canonical_trimmed (fun Y => canonical_idleAct h) e

/-- Settles O58: memory is written by operations that keep its cells in order alone, so that every function of the model, every
instruction, every action of the hardware and every agent's step keep its form. -/
theorem everyStepKeepsMemoryForm : Obligations.EveryStepKeepsMemoryForm := fun _ _ h e => canonical_step h e

end Sys2Proof.Machine
